-- ==== Sys2Proof/Word.lean ====
section
/-!
DEFINITION. The machine's words: the byte, the 64-bit register and Gynum word, the data of one 4 KiB unit and its 64-byte
metadata record, and the sparse table in which every indexed piece of state is held.
-/
namespace Sys2Proof

/-- A byte. -/
abbrev Byte := BitVec 8
/-- A house register, and a Gynum general register (R10, R301). -/
abbrev U64 := BitVec 64
/-- A Gynum instruction word (R302). -/
abbrev U32 := BitVec 32
/-- The 4,096 data bytes of one unit or slot (R211, R328), byte 0 in bits 7:0. -/
abbrev Blk := BitVec 32768
/-- The 64-byte metadata record of a slot or codeword (R211, R329). -/
abbrev Meta := BitVec 512
/-- An XTS key pair, or another 64-byte secret (R436, R447). -/
abbrev Key := BitVec 512
/-- A SHA-384 digest (R434, R461). -/
abbrev Digest := BitVec 384

/-- A sparse table: index and value pairs, indexes strictly rising. An index that is not listed holds the table's default
value, which the accessor is given. -/
abbrev Tbl (α : Type) := List (Nat × α)

end Sys2Proof
end

