-- ==== Sys2Proof/Syntax.lean ====
section
/-!
DEFINITION. The commands that the block takes: one constructor for each row of the table, in the table's order, and the types of their
operands (the table gives its rows no fields: the operands are the model's, read from each row's rule).
-/
namespace Sys2Proof

/-- The six main supplies (R508, Table 17-8). -/
inductive MainSupply where
  | vcore | vsram | vserdesL | vserdesH | vddq | vio
  deriving DecidableEq, Repr

/-- Who accesses the house address space (R9, R298, R299). -/
inductive Agent where
  | portSeq (n : Nat)
  | supervisor
  | host (port : Nat)
  | boot
  | hardware
  deriving DecidableEq, Repr

/-- What a frame's arrival shows: taken whole, without a good header, or with a failing body (R262, R263). -/
inductive Arrival where
  | good | syncMiss | bodyFail
  deriving DecidableEq, Repr

/-- The fields of a received frame's header (Table 7-3), with the corrections that its FEC made. -/
structure FrameHdr where
  typ : Nat := 0
  ver : Nat := 1
  last : Bool := false
  retx : Bool := false
  die : Nat := 0
  seq : Nat := 0
  ackValid : Bool := false
  nak : Bool := false
  ackSeq : Nat := 0
  len : Nat := 0
  tag : Nat := 0
  cwIndex : Nat := 0
  cmdFree : Nat := 0
  dataFree : Nat := 0
  arrival : Arrival := .good
  fecCorr : Nat := 0
  deriving DecidableEq, Repr

/-- A placement of a write (R148): reclaim group and handle. -/
structure Place where
  rg : Nat
  handle : Nat
  deriving DecidableEq, Repr

/-- The protection information fields that a command selects, and PRACT (R71 to R73). -/
structure PrInfo where
  guard : Bool := false
  app : Bool := false
  ref : Bool := false
  act : Bool := false
  deriving DecidableEq, Repr

/-- A TCG Opal method that Security Send carries (R445, R451 to R456). -/
inductive TcgMsg where
  | startSession (sp auth cred : Nat)
  | endSession
  | setRange (range nsid start len : Nat) (rle wle : Bool) (auths : List Nat)
  | setLock (range : Nat) (rl wl : Bool)
  | genKey (range : Nat)
  | setCredential (auth cred : Nat)
  | activate
  | revert
  | blockSid
  | other
  deriving DecidableEq, Repr

/-- One NVMe command as the Hall parses it from its submission entry (Tables 4-1 and 4-2). The entry's encoding is NVM Express's. -/
inductive HostCmd where
  | unknown (io : Bool) (opc : Nat)
  | deleteSq (qid : Nat)
  | createSq (qid size cq prio : Nat) (pc : Bool)
  | deleteCq (qid : Nat)
  | createCq (qid size iv : Nat) (ien pc : Bool)
  | getLog (page offset len nsid : Nat) (rae : Bool)
  | identify (cns csi nsid cntid : Nat)
  | abort (sq cid : Nat)
  | getFeatures (fid sel nsid sub : Nat)
  | setFeatures (fid nsid sub v : Nat) (save : Bool) (data : List Nat)
  | asyncEvent
  | nsCreate (nsze ncap fmt pi : Nat) (pil : Bool)
  | nsDelete (nsid : Nat)
  | nsAttach (nsid : Nat) (ctlrs : List Nat) (detach : Bool)
  | fwDownload (offset len : Nat) (leaves : List Nat)
  | fwCommit (action slot : Nat)
  | selfTest (code nsid : Nat)
  | directive (send : Bool) (dtype oper nsid : Nat)
  | format (nsid ses fmt pi : Nat) (pil : Bool)
  | security (send : Bool) (proto : Nat) (msg : TcgMsg)
  | sanitize (action : Nat)
  | getLbaStatus (nsid slba : Nat)
  | atticClear (go : Bool)
  | stairControl (action worker : Nat)
  | flush (nsid : Nat)
  | write (nsid slba nlb : Nat) (fua : Bool) (place : Option Place) (pr : PrInfo)
  | read (nsid slba nlb : Nat) (pr : PrInfo)
  | writeUncorr (nsid slba nlb : Nat)
  | compare (nsid slba nlb : Nat) (pr : PrInfo)
  | writeZeroes (nsid slba nlb : Nat) (deac fua : Bool)
  | dsm (nsid : Nat) (dealloc : Bool) (ranges : List (Nat × Nat))
  | verify (nsid slba nlb : Nat) (pr : PrInfo)
  | ioMgmtRecv (nsid : Nat)
  | ioMgmtSend (nsid : Nat) (places : List Place)
  | copy (nsid sdlba : Nat) (fua : Bool) (ranges : List (Nat × Nat)) (place : Option Place)
  deriving DecidableEq, Repr

/-- What a Larder reservation is for (Table 6-2). -/
inductive ResKind where
  | host
  | reclaim (rg : Nat)
  | rebuild
  deriving DecidableEq, Repr

/-- What recovery finds in the dump area (R238, R241, R249, R623): how the last dump ended, how long it took, the codewords found
valid, the dumped host slots, and of the units without a dumped slot those that their destination or their row restores. -/
structure DumpFound where
  result : Nat := 0
  duration : Nat := 0xFFFF
  codewords : Nat := 0
  slots : List Nat := []
  restored : List (Nat × Nat) := []
  deriving DecidableEq, Repr

/-- The join record (Table 16-5). -/
structure JoinRec where
  ver : Nat := 0x20
  worker : Nat := 0
  link : Nat := 0
  links : Nat := 0
  image : Nat := 0
  manager : Nat := 0
  epoch : Nat := 0
  geom : Nat := 0
  cell : Nat := 0
  crypto : Nat := 0
  formats : Nat := 0
  share : Nat := 0
  weight : Nat := 0
  holdup : Bool := false
  seqLen : Nat := 0
  dies : Nat := 0
  nsDigest : Nat := 0
  keyDigest : Nat := 0
  deriving DecidableEq, Repr

/-- An SREQ payload (Table 16-3). -/
structure SReq where
  kind : Nat := 0
  fua : Bool := false
  deac : Bool := false
  resend : Bool := false
  units : Nat := 0
  nsid : Nat := 0
  ingest : Nat := 0
  slba : Nat := 0
  nlb : Nat := 0
  epoch : Nat := 0
  sub : Nat := 0
  dspec : Option Place := none
  op : Nat := 0
  fmt : Nat := 0
  gen : Nat := 0
  size : Nat := 0
  deriving DecidableEq, Repr

/-- An SDONE payload (Table 16-4). -/
structure SDone where
  phase : Nat := 1
  sct : Nat := 0
  sc : Nat := 0
  units : Nat := 0
  ingest : Nat := 0
  sub : Nat := 0
  deriving DecidableEq, Repr

/-- An STIME payload, from the manager or in answer to it (R593). -/
structure STime where
  time : Nat := 0
  opTime : Nat := 0
  pwr : Nat := 0
  delay : Nat := 0
  idle : Bool := false
  deriving DecidableEq, Repr

/-- What an SEVENT reports (Table 16-2, R590, R591). -/
inductive SEvent where
  | deferred (nsid slba nlb cause : Nat)
  | lost (nsid slba nlb cause : Nat)
  | changed (rec : JoinRec)
  deriving DecidableEq, Repr

/-- What an SACT frame carries (R598): image leaves, the order to activate, CONFIRM or ROLLBACK from the manager; the end of step 2 from a
worker. -/
inductive SAct where
  | leaves (image : Nat) (digests : List Nat)
  | activate
  | confirm
  | rollback
  | written (ok : Bool)
  deriving DecidableEq, Repr

/-- The payload of a Stair frame (Table 16-2). -/
inductive StairMsg where
  | join (r : JoinRec)
  | req (r : SReq)
  | data (d : Blk) (md : Meta)
  | done (d : SDone)
  | time (t : STime)
  | event (e : SEvent)
  | act (a : SAct)
  deriving DecidableEq, Repr

/-- What a DRAM burst of region 4 outside region 6 holds (R423). (DEDUCED: log entry 31.) -/
inductive DramContent where
  | none
  | openLedger (suite : Nat)
  | fwBuffer
  | suspects (blocks : List (Nat × Nat))
  | imageTable
  deriving DecidableEq, Repr


/-- A command. Each constructor is one row of the table; the docstring gives its rule and what it is. (DESIGN CHOICE: log entry 2.) -/
inductive Instr where
  /-- R508. Power-on reset is released 2 ms after every main supply has stayed in range, and the boot ROM starts on FIO. -/
  | powerOnResetRelease
  /-- R509. A main supply falls below its monitor threshold; with PWRFAIL# deasserted this is an unannounced power loss and power-on reset is asserted within 1 us. -/
  | mainSupplyDrop (sup : MainSupply)
  /-- R611. VAUX falls below its threshold; the always-on domain resets and the shutdown latch clears. -/
  | vauxLoss
  /-- R621. Write to a register that has no row of its own; it is judged against the locks as they stood before the write and follows its access type. -/
  | registerWrite (who : Agent) (a : Nat) (v : U64)
  /-- R9. Host write to BAR 2; it is discarded without error unless it targets the cursor registers of an Attic window. -/
  | bar2MemoryWrite (p a len : Nat) (v : U64)
  /-- R59. Host read of BAR 2 of up to 4,096 bytes; each aligned 8-byte register is read atomically, and registers not host-visible read zero. -/
  | bar2MemoryRead (p a len : Nat)
  /-- R19. A receiving fabric link checks the casement code of a word; it corrects a single-bit error, or marks the word poisoned and records an Attic event. -/
  | fabricWordArrival (link input : Nat) (d : BitVec 256) (t m : BitVec 16) (sill : Bool)
  /-- R18. Each F cycle an output link chooses between control words and data bursts, serving the inputs of each class round robin. -/
  | outputLinkArbitration (link : Nat) (ctl : List Nat) (data : List (Nat × Nat))
  /-- R30. A filtered assertion of PWRFAIL# stops fetching and program starts, then runs the dump with HOLDUP set or the no-dump path with HOLDUP clear. -/
  | pwrfailAssert
  /-- R625. PWRFAIL# is released and the 1 ms release count starts. -/
  | pwrfailDeassert
  /-- R625. PWRFAIL# has stayed released for 1 ms with the supplies in range; the device resumes without reset, or restarts as after a power loss when a dump has started. -/
  | pwrfailReleaseExpiry
  /-- R238. The dump directory passes program, the dump is complete and the Study enters Off. -/
  | dumpDirectoryPass
  /-- R36. A 10 ms die-time window of a port ends; its background share is reported and a new window begins. -/
  | mediaArbiterWindowEnd (n : Nat)
  /-- R277. A die operation enters a die queue of the port's scheduler under the ordering rules. -/
  | dieSchedulerEnqueue (n : Nat)
  /-- R41. A host port finishes training at the highest common rate and width. -/
  | hostLinkUp (p rate width : Nat) (flit : Bool)
  /-- R47. The data link layer takes a TLP or FLIT; duplicates are discarded and a CRC failure requests replay. -/
  | tlpReceive (p seq : Nat) (crcOk flit poison : Bool) (tag : Option Nat)
  /-- R53. A configuration request is answered with Request Retry Status until the identity is fixed, and normally afterwards. -/
  | configRequest (p : Nat)
  /-- R214. A completion with host write data arrives, passes the protection checks and XTS encryption, and is written into a Larder slot. -/
  | hostReadCompletion (n unit : Nat) (data : Blk) (md : Meta) (guardOk appOk refOk : Bool) (bad : Nat)
  /-- R49. An outstanding host memory read times out and its DMA channel halts with cause 0x1. -/
  | completionTimeoutExpiry (n unit : Nat)
  /-- R49. A completion for a timed-out tag is discarded and logged as an Unexpected Completion. -/
  | unexpectedCompletion (p tag : Nat)
  /-- R67. Every tag of the halted command has completed or timed out; the channel reports the halt outcome to the Hall and returns to service. -/
  | dmaDrainComplete (c : Nat)
  /-- R57. A submission-tail or completion-head doorbell is written; invalid writes are discarded and reported, and in a non-operational state the write wakes the device. -/
  | doorbellWrite (p qid : Nat) (cq : Bool) (v : Nat)
  /-- R65. An unmasked vector with its pending bit set sends one message and clears the bit. -/
  | msixVectorUnmask (p v : Nat)
  /-- R69. The host clears Bus Master Enable; the port issues no further memory request and sets CSTS.CFS. -/
  | busMasterEnableClear (p : Nat)
  /-- R74. PERST_A# or PERST_B# is asserted, taking down that port's link and resetting its controller. -/
  | perstAssert (p : Nat)
  /-- R75. PERST# is deasserted; with the image running, link training starts within 20 ms. -/
  | perstDeassert (p : Nat)
  /-- R74. A hot reset or link-down resets that port's controller. -/
  | hotReset (p : Nat)
  /-- R74. Initiate FLR resets the port's controller within 100 ms while the link stays up. -/
  | functionLevelReset (p : Nat)
  /-- R120. CC.EN goes from 1 to 0; every ingested command of the port is resolved under Table 3-9 and CSTS.RDY falls within 2 ms. -/
  | controllerReset (p : Nat)
  /-- R122. CC.EN is set; CSTS.RDY reads 1 within 100 ms with the image running. -/
  | controllerEnable (p : Nat) (wrr : Bool) (asqs acqs : Nat)
  /-- R198. An NVMe shutdown notification drains the Larder, completes the checkpoint lap and appends SHUTDOWN_CLEAN. -/
  | shutdownNotification (p : Nat)
  /-- R81. The function enters D3hot; fetching and DMA stop while ingested commands run on. -/
  | d3hotEntry (p : Nat)
  /-- R81. The function returns to D0 and held completions are posted. -/
  | d0Return (p : Nat)
  /-- R79. A port's link has been idle for 8 us with nothing outstanding, and the Porch requests L1 entry. -/
  | aspmIdleExpiry (p : Nat)
  /-- R86. The last byte of a submission entry arrives in the Hall, which stamps the ingest number, allocates a context and inserts the command's ranges in the tracker. -/
  | submissionFetch (p sq cid : Nat) (cmd : HostCmd)
  /-- R213. A waiting reservation is granted, in ingest order for host writes, once the conditions of Table 6-2 hold. -/
  | larderReservationGrant (k : ResKind)
  /-- R93. A fully admitted atomic unit commits its map entries to the overlay once older overlapping commands allow it. -/
  | unitCommit (n ext : Nat)
  /-- R101. A reader resolves and pins each 4 KiB unit once older overlapping writers have committed, then dispatches per unit. -/
  | readerResolve (n : Nat)
  /-- R97. A completion-ready command is posted once every older command of its submission queue is posted and its completion queue has room. -/
  | completionPost (n : Nat)
  /-- R137. An opcode marked No completes with Invalid Command Opcode and has no other effect. -/
  | unsupportedOpcode (n : Nat)
  /-- R117. The queue is deleted, and its commands are discarded, aborted or applied by unit. -/
  | deleteIoSubmissionQueue (n : Nat)
  /-- R136. An I/O submission queue is created within the limits of Table 3-1. -/
  | createIoSubmissionQueue (n : Nat)
  /-- R118. The completion queue is deleted, or the command is refused while a submission queue is bound to it. -/
  | deleteIoCompletionQueue (n : Nat)
  /-- R136. An I/O completion queue is created with its interrupt vector. -/
  | createIoCompletionQueue (n : Nat)
  /-- R155. Returns a supported log page; a vendor page is served from a snapshot taken at offset 0. -/
  | getLogPage (n : Nat)
  /-- R159. A full read of log page C0h with Retain Asynchronous Event = 0 removes the Reported entries it returned. -/
  | getLogPageDeferredErrors (n : Nat)
  /-- R141. Returns the Identify data of a supported CNS value. -/
  | identify (n : Nat)
  /-- R116. Completes successfully with 'command not aborted' and aborts nothing. -/
  | abort (n : Nat)
  /-- R146. Returns the current, default or supported value of a feature. -/
  | getFeatures (n : Nat)
  /-- R146. Sets the arbitration burst and the queue weights. -/
  | setFeaturesArbitration (n : Nat)
  /-- R128. Requests a power state; an operational state applies at completion, and a non-operational one once the entry conditions hold. -/
  | setFeaturesPowerManagement (n : Nat)
  /-- R146. Sets the composite or sensor temperature thresholds. -/
  | setFeaturesTempThreshold (n : Nat)
  /-- R146. Sets the namespace's TLER and DULBE. -/
  | setFeaturesErrorRecovery (n : Nat)
  /-- R108. Enables or disables the volatile write cache; refused with HOLDUP set. -/
  | setFeaturesVolatileWriteCache (n : Nat)
  /-- R147. Grants queues once per controller reset. -/
  | setFeaturesNumberOfQueues (n : Nat)
  /-- R146. Sets the interrupt coalescing threshold and time. -/
  | setFeaturesInterruptCoalescing (n : Nat)
  /-- R146. Sets the coalescing disable of a vector. -/
  | setFeaturesIntVectorConfig (n : Nat)
  /-- R146. Sets Write Atomicity Normal, which makes no difference. -/
  | setFeaturesWriteAtomicity (n : Nat)
  /-- R146. Selects which asynchronous events are reported. -/
  | setFeaturesAsyncEventConfig (n : Nat)
  /-- R132. Sets the host's APST table. -/
  | setFeaturesApst (n : Nat)
  /-- R532. Sets the Timestamp value. -/
  | setFeaturesTimestamp (n : Nat)
  /-- R131. Enables or disables Non-Operational Power State Permissive Mode. -/
  | setFeaturesNopsConfig (n : Nat)
  /-- R149. Enables or disables Flexible Data Placement while the endurance group holds no namespace. -/
  | setFeaturesFdp (n : Nat)
  /-- R146. Enables FDP events of a reclaim unit handle. -/
  | setFeaturesFdpEvents (n : Nat)
  /-- R146. Sets the Software Progress Marker. -/
  | setFeaturesSwProgressMarker (n : Nat)
  /-- R114. Queues a request that completes when an asynchronous event is raised. -/
  | asynchronousEventRequest (n : Nat)
  /-- R145. Creates a namespace of whole extents, or deletes one as a writer of the whole namespace. -/
  | namespaceManagement (n : Nat)
  /-- R136. Attaches a namespace to, or detaches it from, controllers 0x0001 and 0x0002. -/
  | namespaceAttachment (n : Nat)
  /-- R150. Appends a portion to the shared download buffer, or restarts it at offset 0. -/
  | firmwareImageDownload (n : Nat)
  /-- R495. Commit action 0 verifies the buffer and writes a slot without activation. -/
  | fwCommitReplace (n : Nat)
  /-- R497. Commit action 1 writes a slot and selects it by a swap for the next power-on reset. -/
  | fwCommitReplaceActivateReset (n : Nat)
  /-- R497. Commit action 2 selects an existing slot for the next power-on reset. -/
  | fwCommitActivateExisting (n : Nat)
  /-- R123. Commit action 3 writes and selects a slot, then activates it without reset. -/
  | fwCommitActivateNow (n : Nat)
  /-- R123. The drain of an activation ends; the Study stops the sequencers, loads the new programs, restarts them and resumes fetching. -/
  | activationDrainComplete
  /-- R124. The drain is incomplete 10 ms after it started; fetching resumes and Firmware Commit fails with SC 12h. -/
  | activationDrainTimeout
  /-- R569. Starts a short self-test. -/
  | deviceSelfTestShort (n : Nat)
  /-- R569. Starts an extended self-test. -/
  | deviceSelfTestExtended (n : Nat)
  /-- R570. Code Fh aborts the running test, or has no effect when none runs. -/
  | deviceSelfTestAbort (n : Nat)
  /-- R136. Directive Send for the Identify directive. -/
  | directiveSend (n : Nat)
  /-- R136. Directive Receive for the Identify directive. -/
  | directiveReceive (n : Nat)
  /-- R152. Formats a namespace when its turn comes: it deallocates every extent and, for SES 1h or 2h, replaces the media key. -/
  | formatNvm (n : Nat)
  /-- R455. A TCG Opal send goes to the host security path; lock changes take effect at its completion. -/
  | securitySend (n : Nat)
  /-- R452. A TCG Opal receive is served by the host security path. -/
  | securityReceive (n : Nat)
  /-- R457. Replaces the media seed and generates new keys for every namespace and range. -/
  | sanitizeCryptoErase (n : Nat)
  /-- R153. Erases every suite, resuming after any reset, and retires suites that cannot be erased. -/
  | sanitizeBlockErase (n : Nat)
  /-- R136. Returns the ranges marked lost. -/
  | getLbaStatus (n : Nat)
  /-- R560. Empties the compact ring, posts ATTIC_CLEAR and then erases the old mirror sectors. -/
  | atticClear (n : Nat)
  /-- R164. Action 0x1 fences a worker. -/
  | stairControlFence (n : Nat)
  /-- R592. Action 0x2 readmits a worker and brings its share in line with the manager. -/
  | stairControlReadmit (n : Nat)
  /-- R598. Action 0x3 runs the coordinated activation of the manager's image on every worker. -/
  | stairControlActivate (n : Nat)
  /-- R104. Closes the fronts in scope and completes once every earlier write in scope is programmed and journaled. -/
  | flush (n : Nat)
  /-- R93. A writer whose data moves into Larder slots and whose units commit in ingest order among overlapping commands. -/
  | write (n : Nat)
  /-- R92. A reader that returns the data of the most recent older overlapping writer. -/
  | read (n : Nat)
  /-- R624. Marks the blocks it covers as uncorrectable, down to blocks within a unit. -/
  | writeUncorrectable (n : Nat)
  /-- R138. Reads the range and compares it with host data. -/
  | compare (n : Nat)
  /-- R138. Writes zeros, or deallocates whole extents with DEAC = 1. -/
  | writeZeroes (n : Nat)
  /-- R140. Deallocates the listed ranges, leaving partial extents allocated when the budget is exhausted. -/
  | datasetManagement (n : Nat)
  /-- R138. Reads and decodes the range without transfer and checks protection information. -/
  | verify (n : Nat)
  /-- R138. Returns Reclaim Unit Handle Status. -/
  | ioManagementReceive (n : Nat)
  /-- R149. Reclaim Unit Handle Update closes the handle's current reclaim unit. -/
  | ioManagementSend (n : Nat)
  /-- R449. Reads the source ranges and writes the destination, re-encrypting each block at the Porch. -/
  | copy (n : Nat)
  /-- R129. The entry conditions of a non-operational state hold; the Hall clears FETCH_EN and raises IDLE to the supervisor. -/
  | hallReportIdle
  /-- R132. The idle time of an APST entry passes and the target state is requested. -/
  | apstIdleExpiry (p entry : Nat)
  /-- R133. The supervisor sets HAL_CTL.FETCH_EN; fetching resumes and DRAIN_REQ clears. -/
  | fetchEnableSet
  /-- R133. Setting HAL_CTL.DRAIN_REQ stops fetching on both ports and drains. -/
  | drainRequest
  /-- R133. Setting HAL_CTL.BG_HOLD starts no new background die operation. -/
  | backgroundHold (v : Bool)
  /-- R194. Once every unit of a commit is PASSED or gone, the Pantry writes its PLACE records, applies them to DRAM and removes them from the overlay. -/
  | overlayEmission (tag : Nat)
  /-- R191. A batch closes when it is full, 100 us after its first record, or at once for a Flush or FUA write. -/
  | journalBatchClose
  /-- R195. Both copies of a batch pass program, and PAN_JOURNAL_DURABLE advances. -/
  | journalBatchDurable (copy : Nat)
  /-- R196. A paced lap writes a changed 16 MiB segment and its SEGMENT record, ending with LAP_END. -/
  | checkpointSegmentCopy
  /-- R181. Consolidation changes the extent entry by compare and set, or drops the move. -/
  | consolidationCommit (suite base : Nat)
  /-- R181. Reclaim relocates a run of units by compare and set and appends RELOCATE records. -/
  | relocationCommit (nsid first count suite0 unit0 suite1 unit1 : Nat)
  /-- R183. DRAM data for a filling line is installed, the line becomes Clean and waiting lookups are served. -/
  | cacheFillComplete (la : Nat)
  /-- R185. A write-back finishes, the line becomes Invalid and waiting requests fill afresh. -/
  | cacheWritebackComplete (la : Nat)
  /-- R187. OP 0x1 writes back a Dirty line and leaves it Clean. -/
  | panMaintClean (la : Nat)
  /-- R187. OP 0x2 invalidates a line, cleaning it first while ENABLE is 1. -/
  | panMaintInv (la : Nat)
  /-- R187. OP 0x3 writes back if Dirty, then invalidates. -/
  | panMaintCleanInv (la : Nat)
  /-- R187. OP 0x4 writes back every Dirty line. -/
  | panMaintCleanAll
  /-- R187. Invalidates every line within 11 us while ENABLE is 0 and then sets INV_DONE. -/
  | panInvAll
  /-- R188. A write of 1 to PAN_CTL.ENABLE is accepted or refused under the invalidate, layout and size conditions. -/
  | pantryEnable
  /-- R189. A write of 0 to PAN_CTL.ENABLE while DRAINED cleans every Dirty line and clears ENABLE. -/
  | pantryDisable
  /-- R190. An uncorrectable map line triggers reload of its segment and replay of the journal touching it. -/
  | mapSegmentRepair (seg : Nat) (copyOk prevOk : Bool)
  /-- R199. Once every RELOCATE record is durable and no overlay entry names the suite, ERASE_MARK is appended. -/
  | eraseMarkAppend (suite : Nat)
  /-- R200. After a reset of the Pantry, the map is rebuilt by the steps of Table 5-17 before fetching is enabled. -/
  | recovery (step : Nat) (hole : Option Nat) (badSegs : List (Nat × Bool)) (dump : DumpFound)
  /-- R228. The member reads of a rebuild have been XORed, and the rebuild slots are committed to the overlay. -/
  | rebuildComplete (f row member : Nat)
  /-- R231. An uncorrectable word in a host slot poisons it, marks the unit LOST and reports cause 0x1. -/
  | larderSlotUe (slot : Nat)
  /-- R232. An uncorrectable word in a parity slot marks the row parity-lost for recomputation. -/
  | paritySlotUe (slot : Nat)
  /-- R233. A port group's flash supply monitor reports droop and programs and erases are inhibited. -/
  | supplyDroop (group : Nat)
  /-- R233. The monitor has shown no droop for 10 us and the inhibit lifts. -/
  | droopClearExpiry (group : Nat)
  /-- R234. An inhibit has lasted 100 ms and an Attic event is recorded. -/
  | inhibitLongExpiry (n die : Nat)
  /-- R234. A die's temperature inhibit has lasted 1 s; the front's suite ends and the die is excluded from new suites. -/
  | tempInhibitSuiteExpiry (n die : Nat)
  /-- R223. HOLDUP_OK changes level, entering or leaving write-through mode. -/
  | holdupOkChange (v : Bool)
  /-- R223. Setting LDR_CTL.WT_FORCE forces write-through mode. -/
  | wtForceSet (v : Bool)
  /-- R240. Writing LDR_CTL.DUMP_ARM arms or disarms the dump. -/
  | dumpArmSet (v : Bool)
  /-- R244. LDR_CTL.ENABLE grants or holds every reservation. -/
  | larderEnable (v : Bool)
  /-- R243. Setting LDR_CTL.DRAIN closes every front and ends every suite until the Larder is empty. -/
  | larderDrain
  /-- R242. Retires a Larder bank and recomputes the limits, or refuses a ninth retirement. -/
  | ldrBankRetire (v : U64)
  /-- R281. An accepted RDATA frame goes through the hard decoder to the read's destination. -/
  | rdataFrame (n : Nat) (h : FrameHdr) (param : List Nat)
  /-- R259. An accepted STATUS frame is raised as a STATUS event for its descriptor or control operation. -/
  | statusFrame (n : Nat) (h : FrameHdr) (code sr busyUs : Nat)
  /-- R265. Acknowledgement fields free unacknowledged frames, and a valid NAK starts a replay round. -/
  | ackFrame (n : Nat) (h : FrameHdr)
  /-- R278. A bridge EVENT is recorded in the Attic, and a fatal one retires the port. -/
  | eventFrame (n : Nat) (h : FrameHdr) (sev die code d0 d1 d2 : Nat)
  /-- R271. HELLO frames exchange versions and credits and settle the agreed version. -/
  | hello (n : Nat) (h : FrameHdr) (verMax vendor part rev dies dataCr cmdCr : Nat)
  /-- R270. SWITCH moves both ends to PAM4 for Otcon 2.0. -/
  | switch (n : Nat) (h : FrameHdr) (ver : Nat)
  /-- R260. Requests a transmit preset of the peer. -/
  | eqReq (n : Nat) (h : FrameHdr) (preset : Nat)
  /-- R270. Reports training-pattern errors; a preset within limits brings the port to ACTIVE. -/
  | eqRsp (n : Nat) (h : FrameHdr) (errs localErrs : Nat)
  /-- R275. The bridge requests a retrain, which counts once with any retrain under way. -/
  | retrainReq (n : Nat) (h : FrameHdr) (cause : Nat)
  /-- R272. RECAL_DONE is exchanged and the port returns to ACTIVE with replay from the last ACK_SEQ. -/
  | recalDone (n : Nat) (h : FrameHdr)
  /-- R269. A die temperature reply feeds the Chimney and the program inhibit. -/
  | tempRsp (n : Nat) (h : FrameHdr) (die : Nat) (half : Int) (valid : Bool)
  /-- R264. The ACK timer runs out and an acknowledgement is sent. -/
  | ackTimerExpiry (n : Nat)
  /-- R265. No acknowledgement has advanced within the replay time, and a replay round starts. -/
  | replayTimerExpiry (n : Nat)
  /-- R269. At each frame boundary a transmitter chooses its next frame by the order of Table 7-11. -/
  | transmitFrameBoundary (n : Nat)
  /-- R270. CEL_PORT_CTL.TRAIN starts training from OFF, with up to three attempts. -/
  | portTrain (n : Nat)
  /-- R273. No peer is detected within 1 ms; the attempt fails and the next follows. -/
  | detectTimeout (n : Nat)
  /-- R273. 5 ms pass without reaching ACTIVE; the attempt fails, and a third failure retires the port. -/
  | trainingTimeout (n : Nat)
  /-- R272. The interval or the temperature change makes a recalibration due and the port enters RECAL. -/
  | recalibrationDue (n : Nat)
  /-- R270. 50 us pass without RECAL_DONE and the port retrains, counted. -/
  | recalTimeout (n : Nat)
  /-- R270. 200 us pass without success and a new counted retrain starts. -/
  | retrainTimeout (n : Nat)
  /-- R270. Receive lock has been lost for 1 us and the port retrains. -/
  | receiveLockLoss (n : Nat)
  /-- R287. CEL_PORT_CTL.RETRAIN starts a counted retrain from ACTIVE. -/
  | portRetrain (n : Nat)
  /-- R287. CEL_PORT_CTL.RECAL makes a recalibration due. -/
  | portRecal (n : Nat)
  /-- R274. CEL_PORT_CTL.RETIRE, or a retirement cause, retires the port and ends its operations. -/
  | portRetire (n cause : Nat)
  /-- R287. CEL_PORT_CTL.HOLD stops the scheduler handing over descriptors. -/
  | portHold (n : Nat) (v : Bool)
  /-- R279. No closing STATUS arrives within BUSY_MAX + 1 ms, and the operation ends with no status. -/
  | noStatusTimeout (n slot : Nat)
  /-- R269. Every 100 ms a TEMP_REQ is queued for each present die. -/
  | tempPoll
  /-- R253. A write to CEL_REFCLK_CTL starts an output, or stops it when its group is quiet. -/
  | refclkOutputCtl (v : U64)
  /-- R294. The die scheduler writes a descriptor into the ring and raises OP_READY. -/
  | descriptorHandover (n die : Nat)
  /-- R303. rd = rs. -/
  | mov (n : Nat) (rd rs : BitVec 5) (pad : BitVec 14)
  /-- R303. rd = rd + rs. -/
  | add (n : Nat) (rd rs : BitVec 5) (pad : BitVec 14)
  /-- R303. rd = rd - rs. -/
  | sub (n : Nat) (rd rs : BitVec 5) (pad : BitVec 14)
  /-- R303. Bitwise AND of rd with rs. -/
  | and_ (n : Nat) (rd rs : BitVec 5) (pad : BitVec 14)
  /-- R303. Bitwise OR of rd with rs. -/
  | or_ (n : Nat) (rd rs : BitVec 5) (pad : BitVec 14)
  /-- R303. Bitwise XOR of rd with rs. -/
  | xor_ (n : Nat) (rd rs : BitVec 5) (pad : BitVec 14)
  /-- R303. Shift left by rs[5:0]. -/
  | shl (n : Nat) (rd rs : BitVec 5) (pad : BitVec 14)
  /-- R303. Logical shift right by rs[5:0]. -/
  | shr (n : Nat) (rd rs : BitVec 5) (pad : BitVec 14)
  /-- R303. Arithmetic shift right by rs[5:0]. -/
  | sar (n : Nat) (rd rs : BitVec 5) (pad : BitVec 14)
  /-- R303. Low 64 bits of rd x rs. -/
  | mul (n : Nat) (rd rs : BitVec 5) (pad : BitVec 14)
  /-- R303. High 64 bits of rd x rs, unsigned. -/
  | mulhu (n : Nat) (rd rs : BitVec 5) (pad : BitVec 14)
  /-- R303. Signed minimum of rd and rs (GY2). -/
  | min (n : Nat) (rd rs : BitVec 5) (pad : BitVec 14)
  /-- R303. Signed maximum of rd and rs (GY2). -/
  | max (n : Nat) (rd rs : BitVec 5) (pad : BitVec 14)
  /-- R303. rd = ones in rs (GY2). -/
  | cnt (n : Nat) (rd rs : BitVec 5) (pad : BitVec 14)
  /-- R303. rd = leading zeros of rs (GY2). -/
  | lzc (n : Nat) (rd rs : BitVec 5) (pad : BitVec 14)
  /-- R302. rd = k19 sign-extended. -/
  | ldk (n : Nat) (rd : BitVec 5) (k : BitVec 19)
  /-- R302. Writes one 16-bit lane of rd. -/
  | putk (n : Nat) (rd : BitVec 5) (k : BitVec 19)
  /-- R302. rd = rd + k19 sign-extended. -/
  | addk (n : Nat) (rd : BitVec 5) (k : BitVec 19)
  /-- R302. AND of rd with k19 zero-extended. -/
  | andk (n : Nat) (rd : BitVec 5) (k : BitVec 19)
  /-- R302. OR of rd with k19 zero-extended. -/
  | ork (n : Nat) (rd : BitVec 5) (k : BitVec 19)
  /-- R302. XOR of rd with k19 zero-extended. -/
  | xork (n : Nat) (rd : BitVec 5) (k : BitVec 19)
  /-- R303. Shift left by k19[5:0]. -/
  | shlk (n : Nat) (rd : BitVec 5) (k : BitVec 19)
  /-- R303. Logical shift right by k19[5:0]. -/
  | shrk (n : Nat) (rd : BitVec 5) (k : BitVec 19)
  /-- R303. Arithmetic shift right by k19[5:0]. -/
  | sark (n : Nat) (rd : BitVec 5) (k : BitVec 19)
  /-- R303. T = 1 if rd = rs. -/
  | teq (n : Nat) (rd rs : BitVec 5) (pad : BitVec 14)
  /-- R303. T = 1 if rd differs from rs. -/
  | tne (n : Nat) (rd rs : BitVec 5) (pad : BitVec 14)
  /-- R303. T by signed rd < rs. -/
  | tlt (n : Nat) (rd rs : BitVec 5) (pad : BitVec 14)
  /-- R303. T by signed rd >= rs. -/
  | tge (n : Nat) (rd rs : BitVec 5) (pad : BitVec 14)
  /-- R303. T by unsigned rd < rs. -/
  | tltu (n : Nat) (rd rs : BitVec 5) (pad : BitVec 14)
  /-- R303. T by unsigned rd >= rs. -/
  | tgeu (n : Nat) (rd rs : BitVec 5) (pad : BitVec 14)
  /-- R303. T = 1 if rd equals k19. -/
  | teqk (n : Nat) (rd : BitVec 5) (k : BitVec 19)
  /-- R303. T = 1 if rd differs from k19. -/
  | tnek (n : Nat) (rd : BitVec 5) (k : BitVec 19)
  /-- R303. T by signed rd < k19. -/
  | tltk (n : Nat) (rd : BitVec 5) (k : BitVec 19)
  /-- R303. T by signed rd >= k19. -/
  | tgek (n : Nat) (rd : BitVec 5) (k : BitVec 19)
  /-- R303. T = bit k19[5:0] of rd. -/
  | tbit (n : Nat) (rd : BitVec 5) (k : BitVec 19)
  /-- R295. Local load of 8 bytes. -/
  | ld8 (n : Nat) (rd rs : BitVec 5) (d : BitVec 14)
  /-- R295. Local load of 4 bytes. -/
  | ld4 (n : Nat) (rd rs : BitVec 5) (d : BitVec 14)
  /-- R295. Local load of 2 bytes. -/
  | ld2 (n : Nat) (rd rs : BitVec 5) (d : BitVec 14)
  /-- R295. Local load of 1 byte. -/
  | ld1 (n : Nat) (rd rs : BitVec 5) (d : BitVec 14)
  /-- R295. Local store of 8 bytes. -/
  | st8 (n : Nat) (rd rs : BitVec 5) (d : BitVec 14)
  /-- R295. Local store of 4 bytes. -/
  | st4 (n : Nat) (rd rs : BitVec 5) (d : BitVec 14)
  /-- R295. Local store of 2 bytes. -/
  | st2 (n : Nat) (rd rs : BitVec 5) (d : BitVec 14)
  /-- R295. Local store of 1 byte. -/
  | st1 (n : Nat) (rd rs : BitVec 5) (d : BitVec 14)
  /-- R299. House load of 8 bytes; stalls until the data returns. -/
  | hld8 (n : Nat) (rd rs : BitVec 5) (d : BitVec 14)
  /-- R298. House store of 8 bytes, checked against Table 8-4. -/
  | hst8 (n : Nat) (rd rs : BitVec 5) (d : BitVec 14)
  /-- R299. House load of 4 bytes (GY2). -/
  | hld4 (n : Nat) (rd rs : BitVec 5) (d : BitVec 14)
  /-- R298. House store of 4 bytes (GY2). -/
  | hst4 (n : Nat) (rd rs : BitVec 5) (d : BitVec 14)
  /-- R303. Unconditional jump. -/
  | go (n : Nat) (d : BitVec 24)
  /-- R303. Jump if T = 1. -/
  | got (n : Nat) (d : BitVec 24)
  /-- R303. Jump if T = 0. -/
  | gof (n : Nat) (d : BitVec 24)
  /-- R301. Pushes the return address and jumps. -/
  | call (n : Nat) (d : BitVec 24)
  /-- R303. Jumps to the address in rd. -/
  | gor (n : Nat) (rd rs : BitVec 5) (pad : BitVec 14)
  /-- R301. Pushes the return address and jumps to rd. -/
  | callr (n : Nat) (rd rs : BitVec 5) (pad : BitVec 14)
  /-- R301. Pops an address and jumps to it. -/
  | ret (n : Nat) (rd rs : BitVec 5) (pad : BitVec 14)
  /-- R305. Removes the oldest selected event or times out; on the supervisor with STD_PWR_MODE set, enters that state. -/
  | wait (n : Nat) (rd rs : BitVec 5) (k : BitVec 14)
  /-- R303. Posts rd[31:0] to the supervisor as MAIL_IN. -/
  | post (n : Nat) (rd rs : BitVec 5) (pad : BitVec 14)
  /-- R316. Traps with cause SOFTWARE. -/
  | trap (n : Nat) (rd : BitVec 5) (k : BitVec 19)
  /-- R316. Returns from a trap to EPC and restores T. -/
  | rtt (n : Nat) (rd rs : BitVec 5) (pad : BitVec 14)
  /-- R528. Reads the time base into rd. -/
  | time (n : Nat) (rd rs : BitVec 5) (pad : BitVec 14)
  /-- R299. Waits until every earlier house store has taken effect. -/
  | hsync (n : Nat) (rd rs : BitVec 5) (pad : BitVec 14)
  /-- R303. Reads a special register into rd. -/
  | rds (n : Nat) (rd : BitVec 5) (k : BitVec 19)
  /-- R308. Checks and sends one CMD frame for a descriptor from a command buffer. -/
  | missue (n : Nat) (rd rs : BitVec 5) (pad : BitVec 14)
  /-- R308. Checks and sends one control operation frame. -/
  | mctl (n : Nat) (rd rs : BitVec 5) (pad : BitVec 14)
  /-- R310. Ends a descriptor with PASS, FAIL or NO_STATUS and reports it to the issuing engine. -/
  | odone (n : Nat) (rd rs : BitVec 5) (pad : BitVec 14)
  /-- R317. A descriptor exceeds LIMIT_MS since its grant, and OP_LIMIT is taken at the next instruction boundary. -/
  | opLimitExpiry (n slot : Nat)
  /-- R324. Setting CEL_SEQ_CTL.RUN starts the port sequencer at ENTRY. -/
  | sequencerRun (n : Nat) (v : U64)
  /-- R324. Clearing RUN halts the sequencer at the next instruction boundary. -/
  | sequencerHalt (n : Nat) (v : U64)
  /-- R319. RESTART clears g1 to g31, T, the return stack and IN_TRAP and restarts at ENTRY. -/
  | sequencerRestart (n : Nat)
  /-- R323. Writes 8 bytes at LOAD_ADDR when loading is enabled and advances the address. -/
  | seqLoadData (n : Nat) (v : U64)
  /-- R306. A write to CEL_SEQ_MAIL raises MAIL, or is discarded with MAIL_LOST when the queue is full. -/
  | seqMail (n : Nat) (v : U64)
  /-- R320. Writing STD_WDOG_KICK.KICK restarts the watchdog count. -/
  | watchdogKick (v : U64)
  /-- R320. One period passes without a kick; WDOG is raised and WDOG_WARN set. -/
  | watchdogFirstExpiry
  /-- R320. A second period passes without a kick; the device resets everything but the always-on domain and the Closet and reboots. -/
  | watchdogReset
  /-- R335. A hard-decision decode ends; the codeword is delivered, or the ladder is climbed, and tracking updates. -/
  | hardDecodeDone (n slot cw : Nat) (ok : Bool) (ones zeros weight : Nat) (data : Blk) (md : Meta) (probe : Option (Nat × Nat × Nat))
  /-- R336. The admission credit grows by one every 1/SOFT_RATE s, up to 16. -/
  | softAdmissionCredit
  /-- R336. A waiting soft job starts on a free decoder once admitted. -/
  | softJobAdmit
  /-- R336. A soft decode ends with the codeword, or the ladder continues. -/
  | softDecodeDone (n slot cw : Nat) (ok : Bool) (ones zeros : Nat) (data : Blk) (md : Meta)
  /-- R348. The member reads are XORed and the codeword is delivered with STRIPE, or ends UNCORRECTABLE. -/
  | stripeRecoveryDone (id : Nat)
  /-- R342. A level group is due and a calibration is queued as class 5 work. -/
  | calibration (n die group : Nat)
  /-- R342. Calibration senses are evaluated and the valley replaces the tracked set, or the failure is reported. -/
  | calibrationDone (n die group valley : Nat) (ok : Bool)
  /-- R350. The namespace's TLER passes for a reader, and its failing codewords are ABANDONED. -/
  | tlerExpiry (n : Nat)
  /-- R354. A DMA channel takes codewords, and a paced host read is handed over. -/
  | pacedReadRelease (n hp : Nat) (guardOk appOk refOk : Bool) (bad : Nat) (host : Blk)
  /-- R365. LND_PORT_CTL.CAL_REQ queues the calibration of every group of a die. -/
  | calRequest (n die : Nat)
  /-- R382. A reclaim group needing space chooses a victim and marks it SOURCE. -/
  | reclaimVictimChoice (rg : Nat)
  /-- R383. Every member's erase has passed; ERASE_COUNT rises and the suite returns to the pool. -/
  | suiteEraseDone (suite : Nat)
  /-- R384. A member's erase fails, its block is marked bad and the suite may become BAD. -/
  | eraseFail (suite member : Nat)
  /-- R380. The erase-count spread exceeds WEAR_SPREAD, and at most once per STATIC_H the least-worn suite is taken. -/
  | staticWearDue (rg : Nat)
  /-- R391. Paced patrol reads are issued at the rate that finishes the lap in PATROL_PERIOD. -/
  | patrolRead
  /-- R392. A lap runs past 1.5 x PATROL_PERIOD; LATE is set and an Attic event recorded. -/
  | patrolLateExpiry
  /-- R393. A suite's PROGRAM_HOUR reaches RETAIN_H and it becomes REFRESH_DUE. -/
  | retentionAgeExpiry (suite : Nat)
  /-- R393. A suite stays open for OPEN_MAX_H and is ended SHORT. -/
  | openMaxExpiry (suite : Nat)
  /-- R390. Four settled source rows fold on-die into a QLC destination row. -/
  | foldRow (suite : Nat)
  /-- R388. The walk consolidates the next eligible extent through the reclaim-cold front. -/
  | consolidationStep
  /-- R396. After a port retirement the ledgers are walked and LOST records are appended for units on retired members. -/
  | ledgerWalkLost (n : Nat)
  /-- R399. Every 60 s link and decode counter increments are added to the lifetime counts. -/
  | lifetimeCountUpdate
  /-- R370. A write to SCU_SUITE_IDX snapshots a suite record into SCU_SUITE_DATA. -/
  | suiteIdxWrite (v : U64)
  /-- R413. A DRAM burst returns; casements and lintel are checked, corrected, reread or poisoned. -/
  | dramBurstRead (a : Nat) (second : Bool) (cell bus : List Nat) (content : DramContent)
  /-- R417. An idle cycle sweeps one word of an SRAM array, correcting and writing it back. -/
  | sramSweep (arr word st sm : Nat) (ss poison : Bool)
  /-- R418. In an idle subchannel cycle the scrubber reads the next burst. -/
  | scrubRead (cell bus : List Nat) (content : DramContent)
  /-- R419. A scrub lap runs past 2 x LAP_S; LATE is set and an Attic event recorded. -/
  | scrubLateExpiry
  /-- R415. BSM_CTL.CLEAR writes every burst of the data space with zero data and the current lintel. -/
  | dramClear
  /-- R415. The clear ends and CLEAR_DONE is set. -/
  | dramClearDone
  /-- R425. A subchannel is retired and the device restarts into the remaining one. -/
  | subchannelRetire (k : Nat)
  /-- R424. A write CRC or CA parity alert replays the command, and the ninth replay retrains. -/
  | ddrAlert (k : Nat) (same : Bool)
  /-- R424. 200 us pass without a successful retrain, and a new counted retrain starts. -/
  | subchannelRetrainTimeout (k : Nat)
  /-- R424. Training and ZQ calibration finish and held requests are issued in order. -/
  | subchannelRetrainDone (k : Nat)
  /-- R427. A remap entry copies a page to a spare page and redirects access. -/
  | bsmRemapWrite (j : Nat) (v : U64)
  /-- R427. The page copy ends and accesses go to the spare. -/
  | remapCopyDone (j : Nat)
  /-- R422. An uncorrectable context word resolves the command as a reset would and posts Internal Error. -/
  | contextStoreUe (n : Nat)
  /-- R443. An owner joins the waiters for the KME lock, served in the order 1, 3, 4, 2. -/
  | stgLockAcquire (own : Nat)
  /-- R468. The owner gives up the KME lock. -/
  | stgLockRelease (own : Nat)
  /-- R443. The lock is held idle for 10 ms or an operation exceeds its bound; the KME aborts and takes the lock back. -/
  | kmeLockTimeout
  /-- R438. Unwraps a binding's current blob into a key slot, or zero-fills it on failure. -/
  | unwrapLoad (own kind nsid range auth slot cred : Nat)
  /-- R444. Draws a key, loads it and writes its blobs. -/
  | generate (own kind nsid range auth slot cred : Nat)
  /-- R444. Rewraps a blob under a new credential. -/
  | rewrap (own nsid range auth cred newAuth newCred : Nat)
  /-- R444. Overwrites a slot with zeros. -/
  | zeroise (own slot : Nat)
  /-- R440. Erases stale blobs and compacts the key-blob store. -/
  | eraseStale (own : Nat)
  /-- R444. Draws a new media seed and writes both seed blobs. -/
  | seedReplace (own : Nat)
  /-- R460. Checks both image signatures, the key set and the security version. -/
  | verifyImage (own loc : Nat)
  /-- R444. Signs a digest with the DevID or alias key. -/
  | sign (own digest key : Nat)
  /-- R588. Records the manager's key generation of a namespace on a worker. -/
  | genNote (own nsid gen : Nat)
  /-- R444. A KME operation ends and its result is written to STG_KME_STATUS. -/
  | kmeOperationDone (sigOk : Bool)
  /-- R433. The entropy source fails its health tests and GENERATE is refused until power-on reset. -/
  | entropyHealthFail
  /-- R464. A tamper sensor trips; every key slot is zeroised within 1 us and the seed may be destroyed. -/
  | tamperTrip (bit : Nat)
  /-- R466. An authorised JTAG unlock opens debug and trips DEBUG. -/
  | jtagUnlock (ok : Bool)
  /-- R458. SPDM GET_VERSION. -/
  | getVersion (ep : Nat)
  /-- R458. SPDM GET_CAPABILITIES. -/
  | getCapabilities (ep ver : Nat)
  /-- R458. SPDM NEGOTIATE_ALGORITHMS. -/
  | negotiateAlgorithms (ep : Nat) (p384 sha384 : Bool)
  /-- R458. SPDM GET_DIGESTS. -/
  | getDigests (ep : Nat)
  /-- R458. SPDM GET_CERTIFICATE for slot 0 or 1. -/
  | getCertificate (ep slot off len : Nat)
  /-- R458. SPDM CHALLENGE signed by the slot's key. -/
  | challenge (ep slot nonce : Nat)
  /-- R459. SPDM GET_MEASUREMENTS returns the blocks of Table 12-8. -/
  | getMeasurements (ep index nonce : Nat) (sign : Bool)
  /-- R458. SPDM CHUNK_GET from version 1.2. -/
  | chunkGet (ep seq : Nat)
  /-- R472. Programs a 256-byte page by pulses with verify, or refuses a conflict. -/
  | closetProgram
  /-- R473. Erases a sector by pulses with verify. -/
  | closetErase
  /-- R489. Reads a page at both verify levels and marks marginal bits. -/
  | closetMarginRead
  /-- R475. A Closet operation ends with an outcome and raises CLOSET for a supervisor request. -/
  | closetOperationDone (pulses : Nat) (ok : Bool)
  /-- R505. Adds sector protection whatever the lock. -/
  | cloWpSet (k : Nat) (v : U64)
  /-- R501. Programs the CONFIRM word of the record in force to zero. -/
  | stdConfirm (v : U64)
  /-- R499. 900 s pass without confirmation and a watchdog reset follows. -/
  | confirmationTimeout
  /-- R491. Once the Closet is idle, the boot ROM settles the swap count, chooses and verifies a slot, or reverts, or presents the recovery identity. -/
  | bootSlotChoice
  /-- R130. A management endpoint message arrives and raises MGMT, waking the device from a non-operational state. -/
  | mgmtMessage (buf : Nat)
  /-- R520. The host port leaves L1.2 or returns to D0 in PS5 and wakes the device. -/
  | linkWake (port : Nat)
  /-- R525. STD_WAKE_TIMER expires, waking the device or asserting WAKE# in Off. -/
  | wakeTimerExpiry
  /-- R525. A start condition to the static address in Off asserts WAKE#. -/
  | i3cStaticAddressStart
  /-- R521. Setting STD_CLK_CTL.PLL_EN starts the root PLL. -/
  | pllEnable
  /-- R512. The root PLL locks within 50 us. -/
  | pllLock
  /-- R544. STD_CLK_CTL.SEL switches the supervisor to the root PLL, the time base being advanced first. -/
  | clockSelect
  /-- R521. Enables clock domains, exits DRAM self-refresh and restarts OT_REFCLK outputs. -/
  | stdDomainEnWrite (v : U64)
  /-- R527. Releases latched outputs to their domains. -/
  | stdPadRelease
  /-- R514. REFCLK stops for more than 10 us; the device acts as on PWRFAIL# and then enters Off. -/
  | refclkLoss
  /-- R529. Once a second the always-on domain corrects the LSO count for temperature. -/
  | lsoCorrection (ticks : Nat) (corr : Int)
  /-- R533. Each 1 ms sensor conversion updates the reading and the broken checks, and may trigger shutdown. -/
  | sensorConversion (sensor raw : Nat) (reading : Int)
  /-- R537. Every 10 ms the thermal step is recomputed from zones 0 to 7. -/
  | thermalStepRecompute
  /-- R538. Every 1 ms the admission fraction A is adjusted against the cap. -/
  | powerGovernorTick (power : Nat)
  /-- R539. Every 100 ms each port zone updates its port step. -/
  | portStepRecompute
  /-- R541. Main supplies stay below threshold for 10 ms and the shutdown latch clears. -/
  | shutdownLatchClear
  /-- R480. At least hourly the supervisor appends TYPE 0x07 and 0x08 records to the configuration store. -/
  | operatingTimeRecord
  /-- R554. Posts a staged record with hardware-filled SOURCE, SEQ and time, unless its code or the rate limit forbids. -/
  | atcPostGo (who : Agent) (code sev : Nat)
  /-- R555. At the end of an operating second with drops, EVENTS_DROPPED is written. -/
  | operatingSecondEnd
  /-- R559. Pending compact records are programmed into the Closet mirror within 10 ms. -/
  | atticMirrorProgram
  /-- R562. A page of records is programmed to both Attic dies when full, after 1 s, or on entry to PS4 or PS5. -/
  | fullModePageProgram
  /-- R564. A cursor write latches a window of up to 64 records. -/
  | atcWinCursorWrite (who : Agent) (w seq : Nat)
  /-- R564. The window's records are copied and READY rises. -/
  | windowLatchDone (w : Nat) (unreadable : List Nat)
  /-- R563. A lost Attic copy is moved to the next qualifying die and ATTIC_MOVED is posted. -/
  | atticCopyMove (which : Nat)
  /-- R567. An in-service test item due on an idle unit runs, yielding to host work. -/
  | inServiceTestItem (item unit detail : Nat) (yielded passed : Bool)
  /-- R569. The next self-test segment runs and the test ends on failure or at its last segment. -/
  | dstSegment (passed : Bool) (lba : Nat)
  /-- R570. A self-test reaches its 10 or 60 min limit and ends aborted under load. -/
  | dstLimitExpiry
  /-- R578. A worker takes its ID and answers with its join record. -/
  | sjoin (n : Nat) (h : FrameHdr) (r : JoinRec)
  /-- R589. The manager compares the worker's record and makes it active or fenced. -/
  | sjoinRsp (n : Nat) (h : FrameHdr) (r : JoinRec)
  /-- R583. A worker reads units in manager ingest order and returns SDATA. -/
  | sreqRead (n : Nat) (h : FrameHdr) (r : SReq)
  /-- R583. A worker writes units in manager ingest order, or resends the saved SDONE for a known RESEND. -/
  | sreqWrite (n : Nat) (h : FrameHdr) (r : SReq)
  /-- R581. A worker deallocates a range. -/
  | sreqDeallocate (n : Nat) (h : FrameHdr) (r : SReq)
  /-- R581. A worker writes zeroes to a range. -/
  | sreqWriteZeroes (n : Nat) (h : FrameHdr) (r : SReq)
  /-- R581. A worker marks a range uncorrectable. -/
  | sreqWriteUncorrectable (n : Nat) (h : FrameHdr) (r : SReq)
  /-- R581. A flush barrier acts once a copy has arrived on every link. -/
  | sreqFlush (n : Nat) (h : FrameHdr) (r : SReq)
  /-- R595. A namespace barrier creates, deletes or formats a namespace on the worker. -/
  | sreqNamespaceOperation (n : Nat) (h : FrameHdr) (r : SReq)
  /-- R581. A worker verifies a range. -/
  | sreqVerify (n : Nat) (h : FrameHdr) (r : SReq)
  /-- R581. A data unit of a request arrives on its link. -/
  | sdata (n : Nat) (h : FrameHdr) (d : Blk) (md : Meta)
  /-- R584. A worker's sub-request has committed; the manager may complete the write and free its slots. -/
  | sdoneCommitted (n : Nat) (h : FrameHdr) (d : SDone)
  /-- R582. A worker's map entries are journaled; the range leaves the unsettled list. -/
  | sdoneSettled (n : Nat) (h : FrameHdr) (d : SDone)
  /-- R593. Every 1 s the manager sends STIME on the lowest link in service. -/
  | stimeSend
  /-- R593. A worker answers STIME and trims its time base; the manager records the offset. -/
  | stime (n : Nat) (h : FrameHdr) (t : STime)
  /-- R591. The manager arms and logs the worker's deferred errors and lost ranges. -/
  | sevent (n : Nat) (h : FrameHdr) (e : SEvent)
  /-- R598. Image leaves and CONFIRM or ROLLBACK control for coordinated activation. -/
  | sact (n : Nat) (h : FrameHdr) (a : SAct)
  /-- R590. No STIME answer for 3 s makes the worker lost, or on a worker the manager stopped. -/
  | stimeLossExpiry (w : Nat)
  /-- R590. Every 1 s the manager sends SJOIN to a lost worker. -/
  | sjoinRetryExpiry (w : Nat)
  /-- R586. 5 s after a link retirement, writes not yet resent are armed as deferred errors with cause 0x5. -/
  | stairResendDeadline (w : Nat)
  /-- R585. A done-table entry expires after 10 s. -/
  | doneTableExpiry
  /-- R591. 10 s after a fence, writes still unsettled are armed as deferred errors. -/
  | fenceUnsettledExpiry (w : Nat)
  /-- R598. 60 s after step 3 without every worker confirming, ROLLBACK is sent. -/
  | activationRollbackExpiry
  /-- R617. I3C dynamic address assignment with the Provisioned ID. -/
  | entdaa (addr : Nat)
  /-- R618. JTAG BYPASS instruction. -/
  | bypass
  /-- R618. JTAG IDCODE instruction. -/
  | idcode
  /-- R618. Boundary-scan SAMPLE/PRELOAD, only with TESTMODE. -/
  | samplePreload (v : Nat)
  /-- R618. Boundary-scan EXTEST, only with TESTMODE. -/
  | extest
  /-- R618. IEEE 1149.6 EXTEST_PULSE, only with TESTMODE. -/
  | extestPulse
  /-- R618. IEEE 1149.6 EXTEST_TRAIN, only with TESTMODE. -/
  | extestTrain
  /-- R270. A peer transmitting on the lanes is detected within 1 ms of TRAIN, and the port moves from DETECT to LOCK with both ends sending NRZ. -/
  | peerDetect (n : Nat)
  /-- R270. In RETRAIN, lock is regained and equalisation checked within 200 us, and the port returns to ACTIVE with its version kept and replay from the last ACK_SEQ. -/
  | lockRegained (n : Nat)
  /-- R272. A LINK RECAL_REQ frame from the peer is taken, and the port enters RECAL and answers with RECAL_DONE. -/
  | recalReq (n : Nat) (h : FrameHdr)
  /-- R305. The timeout given in rs of a pending WAIT passes before any selected event, and rd receives event code 0x00 (TIMEOUT). -/
  | waitTimeout (n : Nat)
  /-- R146. The Interrupt Coalescing aggregation time, in 100 us units, runs out for a vector with completions pending, and the interrupt is sent. -/
  | aggregationTimeExpiry (p v : Nat)
  /-- R187. Invalidate-all has swept every set, one per F cycle, and PAN_STATUS.INV_DONE is set and NOT_CLEAN cleared. -/
  | invalidateAllDone
  /-- R49. 1 s after a tag timed out, the Porch may reuse that tag for new requests. -/
  | timedOutTagReuse (p tag : Nat)
  /-- R611. VAUX rises above its threshold; the always-on domain starts, and with main supplies present PS4, PS5 and the shutdown latch become available again. -/
  | vauxApply
  /-- R161. Each minute the composite temperature is counted into its TEMP_HIST bin of log page C2h. -/
  | tempHistMinute
  deriving DecidableEq, Repr

end Sys2Proof
end

