-- ==== Sys2Proof/Decode.lean ====
section
/-!
DEFINITION. The words that spell commands. The table gives no row any bits: no word spells a command, and each is refused.
-/
namespace Sys2Proof

/-- The command that a word spells by the table's bits: none, since no row of the table has bits. (DESIGN CHOICE: log entry 4.) -/
def decodeTableWord (_nbits _w : Nat) : Option Instr := none

end Sys2Proof
end

