-- ==== Sys2Proof/Machine/Tbl.lean ====
section
/-!
DEFINITION. Sparse tables: the one form in which every indexed piece of state is held (registers, slots, map entries,
DRAM bursts, NOR bytes). A table lists index and value pairs with strictly rising indexes. An array with a reset value `d`
lists no entry equal to `d`; so equal arrays are equal lists.
-/
namespace Sys2Proof

/-- The value listed at `i`, if any. -/
def Tbl.find {α : Type} (t : Tbl α) (i : Nat) : Option α :=
  match t with
  | [] => none
  | (j, v) :: r => if i = j then some v else Tbl.find r i

/-- The value at `i` of an array whose unlisted entries hold `d`. -/
def Tbl.getD {α : Type} (t : Tbl α) (i : Nat) (d : α) : α :=
  (Tbl.find t i).getD d

/-- `t` with `v` listed at `i`. -/
def Tbl.put {α : Type} (t : Tbl α) (i : Nat) (v : α) : Tbl α :=
  match t with
  | [] => [(i, v)]
  | (j, w) :: r =>
    if i < j then (i, v) :: (j, w) :: r
    else if i = j then (i, v) :: r
    else (j, w) :: Tbl.put r i v

/-- `t` with nothing listed at `i`. -/
def Tbl.del {α : Type} (t : Tbl α) (i : Nat) : Tbl α :=
  match t with
  | [] => []
  | (j, w) :: r => if i = j then Tbl.del r i else (j, w) :: Tbl.del r i

/-- Writes `v` at `i` of an array whose unlisted entries hold `d`: the entry goes when `v` is `d`. -/
def Tbl.setD {α : Type} [DecidableEq α] (t : Tbl α) (i : Nat) (v d : α) : Tbl α :=
  if v = d then Tbl.del t i else Tbl.put t i v

/-- Rewrites the entry at `i` of an array with default `d`. -/
def Tbl.modD {α : Type} [DecidableEq α] (t : Tbl α) (i : Nat) (d : α) (f : α → α) : Tbl α :=
  Tbl.setD t i (f (Tbl.getD t i d)) d

/-- Rewrites the entry at `i` where one is listed. -/
def Tbl.upd {α : Type} (t : Tbl α) (i : Nat) (f : α → α) : Tbl α :=
  match t with
  | [] => []
  | (j, w) :: r => if i = j then (j, f w) :: r else (j, w) :: Tbl.upd r i f

/-- Whether `i` is listed. -/
def Tbl.has {α : Type} (t : Tbl α) (i : Nat) : Bool := (Tbl.find t i).isSome

/-- The listed values, indexes rising. -/
def Tbl.vals {α : Type} (t : Tbl α) : List α := t.map Prod.snd

/-- The listed indexes, rising. -/
def Tbl.keys {α : Type} (t : Tbl α) : List Nat := t.map Prod.fst

/-- Rewrites every listed value. -/
def Tbl.mapV {α β : Type} (t : Tbl α) (f : Nat → α → β) : Tbl β := t.map fun p => (p.1, f p.1 p.2)

/-- Keeps the entries that satisfy `p`. -/
def Tbl.keep {α : Type} (t : Tbl α) (p : Nat → α → Bool) : Tbl α := t.filter fun e => p e.1 e.2

/-- How many listed values satisfy `p`. -/
def Tbl.countV {α : Type} (t : Tbl α) (p : α → Bool) : Nat := (t.filter fun e => p e.2).length

/-- Whether every listed index of `t` is above `n`. -/
def Tbl.above {α : Type} (n : Nat) (t : Tbl α) : Bool := t.all fun e => decide (n < e.1)

/-- The canonical form: indexes strictly rising. -/
def Tbl.sorted {α : Type} (t : Tbl α) : Bool :=
  match t with
  | [] => true
  | (j, _) :: r => Tbl.above j r && Tbl.sorted r

/-- The canonical form of an array with default `d`: indexes strictly rising and no entry equal to `d`. -/
def Tbl.wf {α : Type} [DecidableEq α] (d : α) (t : Tbl α) : Bool :=
  Tbl.sorted t && t.all fun e => decide (e.2 ≠ d)

/-- A run of bytes read from a byte array whose unlisted bytes hold `d`, little-endian (R14). -/
def Tbl.readBytes (t : Tbl Byte) (d : Byte) (a n : Nat) : Nat :=
  match n with
  | 0 => 0
  | k + 1 => (Tbl.getD t a d).toNat + 256 * Tbl.readBytes t d (a + 1) k

/-- Writes the low `n` bytes of `v` at `a`, little-endian (R14). -/
def Tbl.writeBytes (t : Tbl Byte) (d : Byte) (a n v : Nat) : Tbl Byte :=
  match n with
  | 0 => t
  | k + 1 => Tbl.writeBytes (Tbl.setD t a (BitVec.ofNat 8 v) d) d (a + 1) k (v / 256)

end Sys2Proof
end

