-- ==== Sys2Proof/Machine/RegMap.lean ====
section
/-!
DEFINITION. The house register map: for every register of the spec's register summary tables its house address, whether the
host sees it through BAR 2, its lock, and its fields with their access type and reset value (Tables 2-5 to 17-5; R7 to R14).
Each field has a handle of its own, named REGISTER.FIELD as the spec names it (R10); an indexed register's handle takes the
index.  A field the spec leaves unnamed (a whole-word counter) is called V.
-/
namespace Sys2Proof.Machine

/-- The access types of Table 0-7 (R11). -/
inductive Acc where
  | ro | rw | wo | w1c | w1s | rwl
  deriving DecidableEq, Repr

/-- A handle on one field: the house address of its register, that register's reset word, and the field's place in it. -/
structure Fld where
  addr : Nat
  rst : Nat
  lsb : Nat
  width : Nat
  deriving DecidableEq, Repr

/-- One field as its layout table gives it. -/
structure FldSpec where
  lsb : Nat
  width : Nat
  acc : Acc
  deriving DecidableEq, Repr

/-- One row of a register summary table: `count` registers `stride` bytes apart from `base`; the bit of the register at
`lockBase` (one per index, `lockStride` apart) that makes its RWL fields read only; its fields. Bits that stand in no field
are reserved (R12). -/
structure RegSpec where
  name : String
  base : Nat
  stride : Nat
  count : Nat
  host : Bool
  lock : Option (Nat × Nat × Nat)
  flds : List FldSpec
  deriving DecidableEq, Repr

/-- The default retry ladder of Table 9-5, row `k`, as a word of Table 9-15. -/
def ladderReset : Nat → Nat
  | 0 => 0x1400000101
  | 1 => 0x1400FE0101
  | 2 => 0x1400020101
  | 3 => 0x1400FC0101
  | 4 => 0x1E02000202
  | 5 => 0x1402000503
  | 6 => 0x1E01000412
  | 7 => 0x0000000004
  | _ => 0

/-- The reset bounds of the seven age bins (Table 9-10). -/
def ageBoundReset : Nat → Nat
  | 0 => 1
  | 1 => 24
  | 2 => 168
  | 3 => 720
  | 4 => 2160
  | 5 => 4320
  | 6 => 8760
  | _ => 0

/-- The address of PCH_IDENTITY (R7, R10). -/
def PCH_IDENTITY.addr : Nat := 0x0
def PCH_IDENTITY.DEVICE_ID : Fld := ⟨PCH_IDENTITY.addr, 0, 16, 16⟩
def PCH_IDENTITY.RECOVERY : Fld := ⟨PCH_IDENTITY.addr, 0, 0, 1⟩

/-- The address of PCH_PORT_CTL (R7, R10). -/
def PCH_PORT_CTL.addr : Nat := 0x8
def PCH_PORT_CTL.LOCK : Fld := ⟨PCH_PORT_CTL.addr, 0x70, 31, 1⟩
def PCH_PORT_CTL.MAX_RATE : Fld := ⟨PCH_PORT_CTL.addr, 0x70, 4, 4⟩
def PCH_PORT_CTL.PORT_MODE : Fld := ⟨PCH_PORT_CTL.addr, 0x70, 0, 1⟩

/-- The address of PCH_LINK_STATUS[i] (R7, R10). -/
def PCH_LINK_STATUS.addr (i : Nat) : Nat := 0x100 + 0x100 * i
def PCH_LINK_STATUS.RATE (i : Nat) : Fld := ⟨PCH_LINK_STATUS.addr i, 0x30, 12, 4⟩
def PCH_LINK_STATUS.WIDTH (i : Nat) : Fld := ⟨PCH_LINK_STATUS.addr i, 0x30, 7, 5⟩
def PCH_LINK_STATUS.FLIT (i : Nat) : Fld := ⟨PCH_LINK_STATUS.addr i, 0x30, 6, 1⟩
def PCH_LINK_STATUS.LSTATE (i : Nat) : Fld := ⟨PCH_LINK_STATUS.addr i, 0x30, 4, 2⟩
def PCH_LINK_STATUS.DSTATE (i : Nat) : Fld := ⟨PCH_LINK_STATUS.addr i, 0x30, 2, 2⟩
def PCH_LINK_STATUS.BME (i : Nat) : Fld := ⟨PCH_LINK_STATUS.addr i, 0x30, 1, 1⟩
def PCH_LINK_STATUS.UP (i : Nat) : Fld := ⟨PCH_LINK_STATUS.addr i, 0x30, 0, 1⟩

/-- The address of PCH_LINK_ERR[i] (R7, R10). -/
def PCH_LINK_ERR.addr (i : Nat) : Nat := 0x108 + 0x100 * i
def PCH_LINK_ERR.REPLAY_CNT (i : Nat) : Fld := ⟨PCH_LINK_ERR.addr i, 0, 48, 16⟩
def PCH_LINK_ERR.FEC_CNT (i : Nat) : Fld := ⟨PCH_LINK_ERR.addr i, 0, 32, 16⟩
def PCH_LINK_ERR.CRC_FAIL_CNT (i : Nat) : Fld := ⟨PCH_LINK_ERR.addr i, 0, 16, 16⟩
def PCH_LINK_ERR.RECOVERY_CNT (i : Nat) : Fld := ⟨PCH_LINK_ERR.addr i, 0, 0, 16⟩

/-- The address of PCH_DMA_STATUS[i] (R7, R10). -/
def PCH_DMA_STATUS.addr (i : Nat) : Nat := 0x1000 + 0x10 * i
def PCH_DMA_STATUS.OUT_TAGS (i : Nat) : Fld := ⟨PCH_DMA_STATUS.addr i, 0, 16, 9⟩
def PCH_DMA_STATUS.HALT_COUNT (i : Nat) : Fld := ⟨PCH_DMA_STATUS.addr i, 0, 8, 8⟩
def PCH_DMA_STATUS.STATE (i : Nat) : Fld := ⟨PCH_DMA_STATUS.addr i, 0, 4, 2⟩
def PCH_DMA_STATUS.HALT_CAUSE (i : Nat) : Fld := ⟨PCH_DMA_STATUS.addr i, 0, 0, 4⟩

/-- The address of HAL_CTL (R7, R10). -/
def HAL_CTL.addr : Nat := 0x100000
def HAL_CTL.BG_HOLD : Fld := ⟨HAL_CTL.addr, 0, 2, 1⟩
def HAL_CTL.DRAIN_REQ : Fld := ⟨HAL_CTL.addr, 0, 1, 1⟩
def HAL_CTL.FETCH_EN : Fld := ⟨HAL_CTL.addr, 0, 0, 1⟩

/-- The address of HAL_STATUS (R7, R10). -/
def HAL_STATUS.addr : Nat := 0x100008
def HAL_STATUS.FREE_CTX : Fld := ⟨HAL_STATUS.addr, 0x200000000000, 28, 18⟩
def HAL_STATUS.INFLIGHT : Fld := ⟨HAL_STATUS.addr, 0x200000000000, 10, 18⟩
def HAL_STATUS.RES_WAIT : Fld := ⟨HAL_STATUS.addr, 0x200000000000, 3, 1⟩
def HAL_STATUS.DRAINED : Fld := ⟨HAL_STATUS.addr, 0x200000000000, 2, 1⟩
def HAL_STATUS.FETCH_ACTIVE : Fld := ⟨HAL_STATUS.addr, 0x200000000000, 1, 1⟩
def HAL_STATUS.CTX_LOW : Fld := ⟨HAL_STATUS.addr, 0x200000000000, 0, 1⟩

/-- The address of HAL_INGEST_NEXT (R7, R10). -/
def HAL_INGEST_NEXT.addr : Nat := 0x100010
def HAL_INGEST_NEXT.V : Fld := ⟨HAL_INGEST_NEXT.addr, 0, 0, 64⟩

/-- The address of HAL_OVERLAP_CNT (R7, R10). -/
def HAL_OVERLAP_CNT.addr : Nat := 0x100018
def HAL_OVERLAP_CNT.V : Fld := ⟨HAL_OVERLAP_CNT.addr, 0, 0, 64⟩

/-- The address of HAL_DEFER_CNT (R7, R10). -/
def HAL_DEFER_CNT.addr : Nat := 0x100020
def HAL_DEFER_CNT.ARMED : Fld := ⟨HAL_DEFER_CNT.addr, 0, 32, 32⟩
def HAL_DEFER_CNT.REPORTED : Fld := ⟨HAL_DEFER_CNT.addr, 0, 0, 32⟩

/-- The address of HAL_PORT_SHARE[i] (R7, R10). -/
def HAL_PORT_SHARE.addr (i : Nat) : Nat := 0x100100 + 0x8 * i
def HAL_PORT_SHARE.EMERG (i : Nat) : Fld := ⟨HAL_PORT_SHARE.addr i, 0, 31, 1⟩
def HAL_PORT_SHARE.HOST_WAIT (i : Nat) : Fld := ⟨HAL_PORT_SHARE.addr i, 0, 30, 1⟩
def HAL_PORT_SHARE.SHARE (i : Nat) : Fld := ⟨HAL_PORT_SHARE.addr i, 0, 0, 10⟩

/-- The address of PAN_CTL (R7, R10). -/
def PAN_CTL.addr : Nat := 0x200000
def PAN_CTL.LAYOUT_LOCK : Fld := ⟨PAN_CTL.addr, 0, 3, 1⟩
def PAN_CTL.CKPT_EN : Fld := ⟨PAN_CTL.addr, 0, 2, 1⟩
def PAN_CTL.JOURNAL_EN : Fld := ⟨PAN_CTL.addr, 0, 1, 1⟩
def PAN_CTL.ENABLE : Fld := ⟨PAN_CTL.addr, 0, 0, 1⟩

/-- The address of PAN_STATUS (R7, R10). -/
def PAN_STATUS.addr : Nat := 0x200008
def PAN_STATUS.RECOVERY_STEP : Fld := ⟨PAN_STATUS.addr, 0, 8, 8⟩
def PAN_STATUS.PARKED : Fld := ⟨PAN_STATUS.addr, 0, 7, 1⟩
def PAN_STATUS.EXHAUSTED : Fld := ⟨PAN_STATUS.addr, 0, 6, 1⟩
def PAN_STATUS.CONSOLIDATE : Fld := ⟨PAN_STATUS.addr, 0, 5, 1⟩
def PAN_STATUS.DEGRADED : Fld := ⟨PAN_STATUS.addr, 0, 4, 1⟩
def PAN_STATUS.SIZE_ERR : Fld := ⟨PAN_STATUS.addr, 0, 3, 1⟩
def PAN_STATUS.NOT_CLEAN : Fld := ⟨PAN_STATUS.addr, 0, 2, 1⟩
def PAN_STATUS.CLEANING : Fld := ⟨PAN_STATUS.addr, 0, 1, 1⟩
def PAN_STATUS.INV_DONE : Fld := ⟨PAN_STATUS.addr, 0, 0, 1⟩

/-- The address of PAN_INV_ALL (R7, R10). -/
def PAN_INV_ALL.addr : Nat := 0x200010
def PAN_INV_ALL.START : Fld := ⟨PAN_INV_ALL.addr, 0, 0, 1⟩

/-- The address of PAN_MAINT (R7, R10). -/
def PAN_MAINT.addr : Nat := 0x200018
def PAN_MAINT.OP : Fld := ⟨PAN_MAINT.addr, 0, 60, 4⟩
def PAN_MAINT.LINE : Fld := ⟨PAN_MAINT.addr, 0, 7, 29⟩

/-- The address of PAN_MAINT_STATUS (R7, R10). -/
def PAN_MAINT_STATUS.addr : Nat := 0x200020
def PAN_MAINT_STATUS.DONE_CNT : Fld := ⟨PAN_MAINT_STATUS.addr, 0, 32, 32⟩
def PAN_MAINT_STATUS.OVERFLOW : Fld := ⟨PAN_MAINT_STATUS.addr, 0, 5, 1⟩
def PAN_MAINT_STATUS.QUEUED : Fld := ⟨PAN_MAINT_STATUS.addr, 0, 0, 5⟩

/-- The address of PAN_BUDGET (R7, R10). -/
def PAN_BUDGET.addr : Nat := 0x200028
def PAN_BUDGET.USED : Fld := ⟨PAN_BUDGET.addr, 0, 32, 32⟩
def PAN_BUDGET.USABLE : Fld := ⟨PAN_BUDGET.addr, 0, 0, 32⟩

/-- The address of PAN_BUDGET_RES (R7, R10). -/
def PAN_BUDGET_RES.addr : Nat := 0x200030
def PAN_BUDGET_RES.RES_USED : Fld := ⟨PAN_BUDGET_RES.addr, 0, 32, 32⟩
def PAN_BUDGET_RES.RES_SIZE : Fld := ⟨PAN_BUDGET_RES.addr, 0, 0, 32⟩

/-- The address of PAN_OVERLAY (R7, R10). -/
def PAN_OVERLAY.addr : Nat := 0x200038
def PAN_OVERLAY.HIGH_WATER : Fld := ⟨PAN_OVERLAY.addr, 0, 32, 20⟩
def PAN_OVERLAY.IN_USE : Fld := ⟨PAN_OVERLAY.addr, 0, 0, 20⟩

/-- The address of PAN_CKPT_CFG (R7, R10). -/
def PAN_CKPT_CFG.addr : Nat := 0x200040
def PAN_CKPT_CFG.LAP_JOURNAL : Fld := ⟨PAN_CKPT_CFG.addr, 0x20, 0, 7⟩

/-- The address of PAN_CKPT_STATUS (R7, R10). -/
def PAN_CKPT_STATUS.addr : Nat := 0x200048
def PAN_CKPT_STATUS.LAP_DONE : Fld := ⟨PAN_CKPT_STATUS.addr, 0, 32, 32⟩
def PAN_CKPT_STATUS.SEGS_DONE : Fld := ⟨PAN_CKPT_STATUS.addr, 0, 16, 16⟩
def PAN_CKPT_STATUS.SEGS_TOTAL : Fld := ⟨PAN_CKPT_STATUS.addr, 0, 0, 16⟩

/-- The address of PAN_JOURNAL_SEQ (R7, R10). -/
def PAN_JOURNAL_SEQ.addr : Nat := 0x200050
def PAN_JOURNAL_SEQ.V : Fld := ⟨PAN_JOURNAL_SEQ.addr, 0, 0, 64⟩

/-- The address of PAN_JOURNAL_DURABLE (R7, R10). -/
def PAN_JOURNAL_DURABLE.addr : Nat := 0x200058
def PAN_JOURNAL_DURABLE.V : Fld := ⟨PAN_JOURNAL_DURABLE.addr, 0, 0, 64⟩

/-- The address of PAN_HIT_CNT (R7, R10). -/
def PAN_HIT_CNT.addr : Nat := 0x200060
def PAN_HIT_CNT.V : Fld := ⟨PAN_HIT_CNT.addr, 0, 0, 64⟩

/-- The address of PAN_MISS_CNT (R7, R10). -/
def PAN_MISS_CNT.addr : Nat := 0x200068
def PAN_MISS_CNT.V : Fld := ⟨PAN_MISS_CNT.addr, 0, 0, 64⟩

/-- The address of PAN_REGION[i] (R7, R10). -/
def PAN_REGION.addr (i : Nat) : Nat := 0x200100 + 0x8 * i
def PAN_REGION.LIMIT_MIB (i : Nat) : Fld := ⟨PAN_REGION.addr i, 0, 47, 17⟩
def PAN_REGION.BASE_MIB (i : Nat) : Fld := ⟨PAN_REGION.addr i, 0, 30, 17⟩
def PAN_REGION.CKPT (i : Nat) : Fld := ⟨PAN_REGION.addr i, 0, 7, 1⟩
def PAN_REGION.MIRROR (i : Nat) : Fld := ⟨PAN_REGION.addr i, 0, 6, 1⟩
def PAN_REGION.VALID (i : Nat) : Fld := ⟨PAN_REGION.addr i, 0, 5, 1⟩
def PAN_REGION.EVICT_FIRST (i : Nat) : Fld := ⟨PAN_REGION.addr i, 0, 4, 1⟩
def PAN_REGION.ALLOC_WRITE (i : Nat) : Fld := ⟨PAN_REGION.addr i, 0, 3, 1⟩
def PAN_REGION.ALLOC_READ (i : Nat) : Fld := ⟨PAN_REGION.addr i, 0, 2, 1⟩
def PAN_REGION.POLICY (i : Nat) : Fld := ⟨PAN_REGION.addr i, 0, 0, 2⟩

/-- The address of LDR_CTL (R7, R10). -/
def LDR_CTL.addr : Nat := 0x280000
def LDR_CTL.CFG_LOCK : Fld := ⟨LDR_CTL.addr, 0, 4, 1⟩
def LDR_CTL.DRAIN : Fld := ⟨LDR_CTL.addr, 0, 3, 1⟩
def LDR_CTL.WT_FORCE : Fld := ⟨LDR_CTL.addr, 0, 2, 1⟩
def LDR_CTL.DUMP_ARM : Fld := ⟨LDR_CTL.addr, 0, 1, 1⟩
def LDR_CTL.ENABLE : Fld := ⟨LDR_CTL.addr, 0, 0, 1⟩

/-- The address of LDR_STATUS (R7, R10). -/
def LDR_STATUS.addr : Nat := 0x280008
def LDR_STATUS.WT_SETTLING : Fld := ⟨LDR_STATUS.addr, 0x4, 16, 1⟩
def LDR_STATUS.BANKS_RETIRED : Fld := ⟨LDR_STATUS.addr, 0x4, 8, 8⟩
def LDR_STATUS.RETIRE_LIMIT : Fld := ⟨LDR_STATUS.addr, 0x4, 7, 1⟩
def LDR_STATUS.POISON_SEEN : Fld := ⟨LDR_STATUS.addr, 0x4, 6, 1⟩
def LDR_STATUS.INHIBIT : Fld := ⟨LDR_STATUS.addr, 0x4, 5, 1⟩
def LDR_STATUS.OVERLAY_HOLD : Fld := ⟨LDR_STATUS.addr, 0x4, 4, 1⟩
def LDR_STATUS.PARITY_FULL : Fld := ⟨LDR_STATUS.addr, 0x4, 3, 1⟩
def LDR_STATUS.EMPTY : Fld := ⟨LDR_STATUS.addr, 0x4, 2, 1⟩
def LDR_STATUS.DUMP_READY : Fld := ⟨LDR_STATUS.addr, 0x4, 1, 1⟩
def LDR_STATUS.WRITE_THROUGH : Fld := ⟨LDR_STATUS.addr, 0x4, 0, 1⟩

/-- The address of LDR_OCC (R7, R10). -/
def LDR_OCC.addr : Nat := 0x280010
def LDR_OCC.PARITY : Fld := ⟨LDR_OCC.addr, 0, 32, 15⟩
def LDR_OCC.RECLAIM : Fld := ⟨LDR_OCC.addr, 0, 16, 15⟩
def LDR_OCC.TOTAL : Fld := ⟨LDR_OCC.addr, 0, 0, 15⟩

/-- The address of LDR_LIMITS (R7, R10). -/
def LDR_LIMITS.addr : Nat := 0x280018
def LDR_LIMITS.DUMP_CAP : Fld := ⟨LDR_LIMITS.addr, 0x400040002000, 32, 15⟩
def LDR_LIMITS.IN_SERVICE : Fld := ⟨LDR_LIMITS.addr, 0x400040002000, 16, 15⟩
def LDR_LIMITS.HALF : Fld := ⟨LDR_LIMITS.addr, 0x400040002000, 0, 15⟩

/-- The address of LDR_PARITY_CFG (R7, R10). -/
def LDR_PARITY_CFG.addr : Nat := 0x280020
def LDR_PARITY_CFG.RECLAIM_RES : Fld := ⟨LDR_PARITY_CFG.addr, 0x40000001800, 32, 14⟩
def LDR_PARITY_CFG.PARITY_MAX : Fld := ⟨LDR_PARITY_CFG.addr, 0x40000001800, 0, 14⟩

/-- The address of LDR_DUMP_CFG (R7, R10). -/
def LDR_DUMP_CFG.addr : Nat := 0x280028
def LDR_DUMP_CFG.T_PROG_US : Fld := ⟨LDR_DUMP_CFG.addr, 0, 16, 16⟩
def LDR_DUMP_CFG.T_SLC_US : Fld := ⟨LDR_DUMP_CFG.addr, 0, 0, 16⟩

/-- The address of LDR_DUMP_STATUS (R7, R10). -/
def LDR_DUMP_STATUS.addr : Nat := 0x280030
def LDR_DUMP_STATUS.CODEWORDS : Fld := ⟨LDR_DUMP_STATUS.addr, 0, 32, 32⟩
def LDR_DUMP_STATUS.DURATION : Fld := ⟨LDR_DUMP_STATUS.addr, 0, 16, 16⟩
def LDR_DUMP_STATUS.RESULT : Fld := ⟨LDR_DUMP_STATUS.addr, 0, 0, 4⟩

/-- The address of LDR_BANK_RETIRE (R7, R10). -/
def LDR_BANK_RETIRE.addr : Nat := 0x280038
def LDR_BANK_RETIRE.BANKS : Fld := ⟨LDR_BANK_RETIRE.addr, 0, 0, 64⟩

/-- The address of LDR_FRONT[i] (R7, R10). -/
def LDR_FRONT.addr (i : Nat) : Nat := 0x280100 + 0x10 * i
def LDR_FRONT.SUITE (i : Nat) : Fld := ⟨LDR_FRONT.addr i, 0, 44, 20⟩
def LDR_FRONT.ROW (i : Nat) : Fld := ⟨LDR_FRONT.addr i, 0, 24, 20⟩
def LDR_FRONT.POS (i : Nat) : Fld := ⟨LDR_FRONT.addr i, 0, 18, 6⟩
def LDR_FRONT.MEMBER (i : Nat) : Fld := ⟨LDR_FRONT.addr i, 0, 13, 5⟩
def LDR_FRONT.LIVE_ROWS (i : Nat) : Fld := ⟨LDR_FRONT.addr i, 0, 10, 3⟩
def LDR_FRONT.STREAM (i : Nat) : Fld := ⟨LDR_FRONT.addr i, 0, 7, 3⟩
def LDR_FRONT.WAIT (i : Nat) : Fld := ⟨LDR_FRONT.addr i, 0, 3, 4⟩
def LDR_FRONT.ACTIVE (i : Nat) : Fld := ⟨LDR_FRONT.addr i, 0, 0, 1⟩

/-- The address of CEL_PORT_CFG[i] (R7, R10). -/
def CEL_PORT_CFG.addr (i : Nat) : Nat := 0x300000 + 0x1000 * i
def CEL_PORT_CFG.CFG_LOCK (i : Nat) : Fld := ⟨CEL_PORT_CFG.addr i, 0, 7, 1⟩
def CEL_PORT_CFG.NRZ_ONLY (i : Nat) : Fld := ⟨CEL_PORT_CFG.addr i, 0, 4, 1⟩
def CEL_PORT_CFG.MODE (i : Nat) : Fld := ⟨CEL_PORT_CFG.addr i, 0, 0, 2⟩

/-- The address of CEL_PORT_CTL[i] (R7, R10). -/
def CEL_PORT_CTL.addr (i : Nat) : Nat := 0x300008 + 0x1000 * i
def CEL_PORT_CTL.RETIRE (i : Nat) : Fld := ⟨CEL_PORT_CTL.addr i, 0, 4, 1⟩
def CEL_PORT_CTL.RECAL (i : Nat) : Fld := ⟨CEL_PORT_CTL.addr i, 0, 3, 1⟩
def CEL_PORT_CTL.RETRAIN (i : Nat) : Fld := ⟨CEL_PORT_CTL.addr i, 0, 2, 1⟩
def CEL_PORT_CTL.TRAIN (i : Nat) : Fld := ⟨CEL_PORT_CTL.addr i, 0, 1, 1⟩
def CEL_PORT_CTL.HOLD (i : Nat) : Fld := ⟨CEL_PORT_CTL.addr i, 0, 0, 1⟩

/-- The address of CEL_PORT_STATUS[i] (R7, R10). -/
def CEL_PORT_STATUS.addr (i : Nat) : Nat := 0x300010 + 0x1000 * i
def CEL_PORT_STATUS.RETIRE_CAUSE (i : Nat) : Fld := ⟨CEL_PORT_STATUS.addr i, 0, 28, 4⟩
def CEL_PORT_STATUS.RETRAIN_WIN (i : Nat) : Fld := ⟨CEL_PORT_STATUS.addr i, 0, 26, 2⟩
def CEL_PORT_STATUS.RETRAIN_CAUSE (i : Nat) : Fld := ⟨CEL_PORT_STATUS.addr i, 0, 16, 8⟩
def CEL_PORT_STATUS.VER (i : Nat) : Fld := ⟨CEL_PORT_STATUS.addr i, 0, 8, 4⟩
def CEL_PORT_STATUS.STATE (i : Nat) : Fld := ⟨CEL_PORT_STATUS.addr i, 0, 0, 4⟩

/-- The address of CEL_LINK_CNT[i] (R7, R10). -/
def CEL_LINK_CNT.addr (i : Nat) : Nat := 0x300018 + 0x1000 * i
def CEL_LINK_CNT.RETX_CNT (i : Nat) : Fld := ⟨CEL_LINK_CNT.addr i, 0, 48, 16⟩
def CEL_LINK_CNT.HDR_FAIL (i : Nat) : Fld := ⟨CEL_LINK_CNT.addr i, 0, 32, 16⟩
def CEL_LINK_CNT.BODY_FAIL (i : Nat) : Fld := ⟨CEL_LINK_CNT.addr i, 0, 16, 16⟩
def CEL_LINK_CNT.RETRAIN_CNT (i : Nat) : Fld := ⟨CEL_LINK_CNT.addr i, 0, 0, 16⟩

/-- The address of CEL_LINK_ERR[i] (R7, R10). -/
def CEL_LINK_ERR.addr (i : Nat) : Nat := 0x300020 + 0x1000 * i
def CEL_LINK_ERR.FEC_CORR (i : Nat) : Fld := ⟨CEL_LINK_ERR.addr i, 0, 32, 32⟩
def CEL_LINK_ERR.PROTO_ERR (i : Nat) : Fld := ⟨CEL_LINK_ERR.addr i, 0, 16, 16⟩
def CEL_LINK_ERR.RECAL_CNT (i : Nat) : Fld := ⟨CEL_LINK_ERR.addr i, 0, 0, 16⟩

/-- The address of CEL_TIMER_CFG[i] (R7, R10). -/
def CEL_TIMER_CFG.addr (i : Nat) : Nat := 0x300028 + 0x1000 * i
def CEL_TIMER_CFG.RECAL_S (i : Nat) : Fld := ⟨CEL_TIMER_CFG.addr i, 0x12C000F0820, 32, 16⟩
def CEL_TIMER_CFG.RECAL_DT (i : Nat) : Fld := ⟨CEL_TIMER_CFG.addr i, 0x12C000F0820, 16, 8⟩
def CEL_TIMER_CFG.REPLAY_US (i : Nat) : Fld := ⟨CEL_TIMER_CFG.addr i, 0x12C000F0820, 8, 8⟩
def CEL_TIMER_CFG.ACK_8NS (i : Nat) : Fld := ⟨CEL_TIMER_CFG.addr i, 0x12C000F0820, 0, 8⟩

/-- The address of CEL_DIE_MAP[i] (R7, R10). -/
def CEL_DIE_MAP.addr (i : Nat) : Nat := 0x300030 + 0x1000 * i
def CEL_DIE_MAP.EXCLUDED (i : Nat) : Fld := ⟨CEL_DIE_MAP.addr i, 0, 32, 16⟩
def CEL_DIE_MAP.BUSY (i : Nat) : Fld := ⟨CEL_DIE_MAP.addr i, 0, 16, 16⟩
def CEL_DIE_MAP.PRESENT (i : Nat) : Fld := ⟨CEL_DIE_MAP.addr i, 0, 0, 16⟩

/-- The address of CEL_BRIDGE_ID[i] (R7, R10). -/
def CEL_BRIDGE_ID.addr (i : Nat) : Nat := 0x300040 + 0x1000 * i
def CEL_BRIDGE_ID.BRIDGE_VENDOR (i : Nat) : Fld := ⟨CEL_BRIDGE_ID.addr i, 0, 48, 16⟩
def CEL_BRIDGE_ID.BRIDGE_PART (i : Nat) : Fld := ⟨CEL_BRIDGE_ID.addr i, 0, 32, 16⟩
def CEL_BRIDGE_ID.BRIDGE_REV (i : Nat) : Fld := ⟨CEL_BRIDGE_ID.addr i, 0, 24, 8⟩
def CEL_BRIDGE_ID.DIE_COUNT (i : Nat) : Fld := ⟨CEL_BRIDGE_ID.addr i, 0, 16, 8⟩
def CEL_BRIDGE_ID.DATA_CREDITS (i : Nat) : Fld := ⟨CEL_BRIDGE_ID.addr i, 0, 8, 8⟩
def CEL_BRIDGE_ID.CMD_CREDITS (i : Nat) : Fld := ⟨CEL_BRIDGE_ID.addr i, 0, 0, 8⟩

/-- The address of CEL_SEQ_CTL[i] (R7, R10). -/
def CEL_SEQ_CTL.addr (i : Nat) : Nat := 0x300800 + 0x1000 * i
def CEL_SEQ_CTL.TRAP_VEC (i : Nat) : Fld := ⟨CEL_SEQ_CTL.addr i, 0, 18, 14⟩
def CEL_SEQ_CTL.ENTRY (i : Nat) : Fld := ⟨CEL_SEQ_CTL.addr i, 0, 4, 14⟩
def CEL_SEQ_CTL.LEVEL (i : Nat) : Fld := ⟨CEL_SEQ_CTL.addr i, 0, 3, 1⟩
def CEL_SEQ_CTL.LOAD_EN (i : Nat) : Fld := ⟨CEL_SEQ_CTL.addr i, 0, 2, 1⟩
def CEL_SEQ_CTL.RESTART (i : Nat) : Fld := ⟨CEL_SEQ_CTL.addr i, 0, 1, 1⟩
def CEL_SEQ_CTL.RUN (i : Nat) : Fld := ⟨CEL_SEQ_CTL.addr i, 0, 0, 1⟩

/-- The address of CEL_SEQ_STATUS[i] (R7, R10). -/
def CEL_SEQ_STATUS.addr (i : Nat) : Nat := 0x300808 + 0x1000 * i
def CEL_SEQ_STATUS.PC (i : Nat) : Fld := ⟨CEL_SEQ_STATUS.addr i, 0, 32, 14⟩
def CEL_SEQ_STATUS.EVQ (i : Nat) : Fld := ⟨CEL_SEQ_STATUS.addr i, 0, 16, 7⟩
def CEL_SEQ_STATUS.ACTIVE (i : Nat) : Fld := ⟨CEL_SEQ_STATUS.addr i, 0, 8, 6⟩
def CEL_SEQ_STATUS.MAIL_LOST (i : Nat) : Fld := ⟨CEL_SEQ_STATUS.addr i, 0, 5, 1⟩
def CEL_SEQ_STATUS.IN_TRAP (i : Nat) : Fld := ⟨CEL_SEQ_STATUS.addr i, 0, 4, 1⟩
def CEL_SEQ_STATUS.STATE (i : Nat) : Fld := ⟨CEL_SEQ_STATUS.addr i, 0, 0, 3⟩

/-- The address of CEL_SEQ_TRAP[i] (R7, R10). -/
def CEL_SEQ_TRAP.addr (i : Nat) : Nat := 0x300810 + 0x1000 * i
def CEL_SEQ_TRAP.BADADDR (i : Nat) : Fld := ⟨CEL_SEQ_TRAP.addr i, 0, 32, 32⟩
def CEL_SEQ_TRAP.EPC (i : Nat) : Fld := ⟨CEL_SEQ_TRAP.addr i, 0, 16, 14⟩
def CEL_SEQ_TRAP.COUNT (i : Nat) : Fld := ⟨CEL_SEQ_TRAP.addr i, 0, 8, 8⟩
def CEL_SEQ_TRAP.CAUSE (i : Nat) : Fld := ⟨CEL_SEQ_TRAP.addr i, 0, 0, 8⟩

/-- The address of CEL_SEQ_ROWFMT[i] (R7, R10). -/
def CEL_SEQ_ROWFMT.addr (i : Nat) : Nat := 0x300830 + 0x1000 * i
def CEL_SEQ_ROWFMT.ARRAY_VALID (i : Nat) : Fld := ⟨CEL_SEQ_ROWFMT.addr i, 0, 16, 8⟩
def CEL_SEQ_ROWFMT.PLANE_LSB (i : Nat) : Fld := ⟨CEL_SEQ_ROWFMT.addr i, 0, 8, 6⟩
def CEL_SEQ_ROWFMT.PAGE_BITS (i : Nat) : Fld := ⟨CEL_SEQ_ROWFMT.addr i, 0, 0, 6⟩

/-- The address of CEL_DIE_QUEUE[i] (R7, R10). -/
def CEL_DIE_QUEUE.addr (i : Nat) : Nat := 0x300038 + 0x1000 * i
def CEL_DIE_QUEUE.V (i : Nat) : Fld := ⟨CEL_DIE_QUEUE.addr i, 0, 0, 64⟩

/-- The address of CEL_SEQ_LOAD_ADDR[i] (R7, R10). -/
def CEL_SEQ_LOAD_ADDR.addr (i : Nat) : Nat := 0x300818 + 0x1000 * i
def CEL_SEQ_LOAD_ADDR.ADDR (i : Nat) : Fld := ⟨CEL_SEQ_LOAD_ADDR.addr i, 0, 3, 11⟩

/-- The address of CEL_SEQ_LOAD_DATA[i] (R7, R10). -/
def CEL_SEQ_LOAD_DATA.addr (i : Nat) : Nat := 0x300820 + 0x1000 * i
def CEL_SEQ_LOAD_DATA.V (i : Nat) : Fld := ⟨CEL_SEQ_LOAD_DATA.addr i, 0, 0, 64⟩

/-- The address of CEL_SEQ_MAIL[i] (R7, R10). -/
def CEL_SEQ_MAIL.addr (i : Nat) : Nat := 0x300828 + 0x1000 * i
def CEL_SEQ_MAIL.MAIL (i : Nat) : Fld := ⟨CEL_SEQ_MAIL.addr i, 0, 0, 32⟩

/-- The address of CEL_SEQ_ARRAY_OPS[i] (R7, R10). -/
def CEL_SEQ_ARRAY_OPS.addr (i : Nat) : Nat := 0x300838 + 0x1000 * i
def CEL_SEQ_ARRAY_OPS.V (i : Nat) : Fld := ⟨CEL_SEQ_ARRAY_OPS.addr i, 0, 0, 64⟩

/-- The address of CEL_SEQ_OPLIMIT[i] (R7, R10). -/
def CEL_SEQ_OPLIMIT.addr (i : Nat) : Nat := 0x300840 + 0x1000 * i
def CEL_SEQ_OPLIMIT.LIMIT_MS (i : Nat) : Fld := ⟨CEL_SEQ_OPLIMIT.addr i, 0x32, 0, 16⟩

/-- The address of CEL_REFCLK_CTL (R7, R10). -/
def CEL_REFCLK_CTL.addr : Nat := 0x340000
def CEL_REFCLK_CTL.EN : Fld := ⟨CEL_REFCLK_CTL.addr, 0, 0, 8⟩

/-- The address of STD_SUP_STATUS (R7, R10). -/
def STD_SUP_STATUS.addr : Nat := 0x600400
def STD_SUP_STATUS.BOOT_DONE : Fld := ⟨STD_SUP_STATUS.addr, 0x9, 7, 1⟩
def STD_SUP_STATUS.WDOG_WARN : Fld := ⟨STD_SUP_STATUS.addr, 0x9, 6, 1⟩
def STD_SUP_STATUS.IN_TRAP : Fld := ⟨STD_SUP_STATUS.addr, 0x9, 5, 1⟩
def STD_SUP_STATUS.CLOCK : Fld := ⟨STD_SUP_STATUS.addr, 0x9, 3, 2⟩
def STD_SUP_STATUS.STATE : Fld := ⟨STD_SUP_STATUS.addr, 0x9, 0, 3⟩

/-- The address of STD_SUP_TRAP (R7, R10). -/
def STD_SUP_TRAP.addr : Nat := 0x600408
def STD_SUP_TRAP.BADADDR : Fld := ⟨STD_SUP_TRAP.addr, 0, 32, 32⟩
def STD_SUP_TRAP.EPC : Fld := ⟨STD_SUP_TRAP.addr, 0, 16, 14⟩
def STD_SUP_TRAP.COUNT : Fld := ⟨STD_SUP_TRAP.addr, 0, 8, 8⟩
def STD_SUP_TRAP.CAUSE : Fld := ⟨STD_SUP_TRAP.addr, 0, 0, 8⟩

/-- The address of STD_WDOG_CFG (R7, R10). -/
def STD_WDOG_CFG.addr : Nat := 0x600410
def STD_WDOG_CFG.LOCK : Fld := ⟨STD_WDOG_CFG.addr, 0x7D0, 31, 1⟩
def STD_WDOG_CFG.PERIOD_MS : Fld := ⟨STD_WDOG_CFG.addr, 0x7D0, 0, 16⟩

/-- The address of STD_WDOG_KICK (R7, R10). -/
def STD_WDOG_KICK.addr : Nat := 0x600418
def STD_WDOG_KICK.KICK : Fld := ⟨STD_WDOG_KICK.addr, 0, 0, 1⟩

/-- The address of LND_CTL (R7, R10). -/
def LND_CTL.addr : Nat := 0x380000
def LND_CTL.CFG_LOCK : Fld := ⟨LND_CTL.addr, 0xC, 4, 1⟩
def LND_CTL.STRIPE_EN : Fld := ⟨LND_CTL.addr, 0xC, 3, 1⟩
def LND_CTL.PROBE_EN : Fld := ⟨LND_CTL.addr, 0xC, 2, 1⟩
def LND_CTL.CAL_EN : Fld := ⟨LND_CTL.addr, 0xC, 1, 1⟩
def LND_CTL.TRACK_EN : Fld := ⟨LND_CTL.addr, 0xC, 0, 1⟩

/-- The address of LND_STATUS (R7, R10). -/
def LND_STATUS.addr : Nat := 0x380008
def LND_STATUS.JOBS_WAITING : Fld := ⟨LND_STATUS.addr, 0, 32, 8⟩
def LND_STATUS.JOBS_HELD : Fld := ⟨LND_STATUS.addr, 0, 24, 8⟩
def LND_STATUS.DECODERS_BUSY : Fld := ⟨LND_STATUS.addr, 0, 16, 5⟩
def LND_STATUS.STRIPES : Fld := ⟨LND_STATUS.addr, 0, 0, 16⟩

/-- The address of LND_POLICY (R7, R10). -/
def LND_POLICY.addr : Nat := 0x380010
def LND_POLICY.PERM_WINDOW_H : Fld := ⟨LND_POLICY.addr, 0x184202008016E360, 56, 8⟩
def LND_POLICY.REFRESH_STEP : Fld := ⟨LND_POLICY.addr, 0x184202008016E360, 52, 4⟩
def LND_POLICY.VERIFY_BITS : Fld := ⟨LND_POLICY.addr, 0x184202008016E360, 44, 8⟩
def LND_POLICY.PACE_CW : Fld := ⟨LND_POLICY.addr, 0x184202008016E360, 34, 10⟩
def LND_POLICY.PORT_JOBS : Fld := ⟨LND_POLICY.addr, 0x184202008016E360, 28, 6⟩
def LND_POLICY.SOFT_RATE : Fld := ⟨LND_POLICY.addr, 0x184202008016E360, 0, 28⟩

/-- The address of LND_TRACK_CFG (R7, R10). -/
def LND_TRACK_CFG.addr : Nat := 0x380018
def LND_TRACK_CFG.CAL_SENSES : Fld := ⟨LND_TRACK_CFG.addr, 0x7020018188100, 48, 4⟩
def LND_TRACK_CFG.CAL_STEP : Fld := ⟨LND_TRACK_CFG.addr, 0x7020018188100, 40, 8⟩
def LND_TRACK_CFG.CAL_PERIOD_H : Fld := ⟨LND_TRACK_CFG.addr, 0x7020018188100, 24, 16⟩
def LND_TRACK_CFG.TRACK_CLAMP : Fld := ⟨LND_TRACK_CFG.addr, 0x7020018188100, 16, 8⟩
def LND_TRACK_CFG.TRACK_BIAS : Fld := ⟨LND_TRACK_CFG.addr, 0x7020018188100, 12, 4⟩
def LND_TRACK_CFG.TRACK_MIN : Fld := ⟨LND_TRACK_CFG.addr, 0x7020018188100, 0, 12⟩

/-- The address of LND_LVL_IDX (R7, R10). -/
def LND_LVL_IDX.addr : Nat := 0x380020
def LND_LVL_IDX.GROUP : Fld := ⟨LND_LVL_IDX.addr, 0, 10, 4⟩
def LND_LVL_IDX.DIE : Fld := ⟨LND_LVL_IDX.addr, 0, 6, 4⟩
def LND_LVL_IDX.PORT : Fld := ⟨LND_LVL_IDX.addr, 0, 0, 6⟩

/-- The address of LND_LVL_DATA_LO (R7, R10). -/
def LND_LVL_DATA_LO.addr : Nat := 0x380028
def LND_LVL_DATA_LO.V : Fld := ⟨LND_LVL_DATA_LO.addr, 0, 0, 64⟩

/-- The address of LND_LVL_DATA_HI (R7, R10). -/
def LND_LVL_DATA_HI.addr : Nat := 0x380030
def LND_LVL_DATA_HI.V : Fld := ⟨LND_LVL_DATA_HI.addr, 0, 0, 64⟩

/-- The address of LND_LADDER[i] (R7, R10). -/
def LND_LADDER.addr (i : Nat) : Nat := 0x380100 + 0x8 * i
def LND_LADDER.ITER (i : Nat) : Fld := ⟨LND_LADDER.addr i, ladderReset (i % 16), 32, 8⟩
def LND_LADDER.STEP (i : Nat) : Fld := ⟨LND_LADDER.addr i, ladderReset (i % 16), 24, 8⟩
def LND_LADDER.SHIFT (i : Nat) : Fld := ⟨LND_LADDER.addr i, ladderReset (i % 16), 16, 8⟩
def LND_LADDER.SENSES (i : Nat) : Fld := ⟨LND_LADDER.addr i, ladderReset (i % 16), 8, 4⟩
def LND_LADDER.BASE (i : Nat) : Fld := ⟨LND_LADDER.addr i, ladderReset (i % 16), 4, 4⟩
def LND_LADDER.KIND (i : Nat) : Fld := ⟨LND_LADDER.addr i, ladderReset (i % 16), 0, 4⟩

/-- The address of LND_PAGEMAP[i] (R7, R10). -/
def LND_PAGEMAP.addr (i : Nat) : Nat := 0x380400 + 0x8 * i
def LND_PAGEMAP.V (i : Nat) : Fld := ⟨LND_PAGEMAP.addr i, 0, 0, 64⟩

/-- The address of LND_AGE_BOUND[i] (R7, R10). -/
def LND_AGE_BOUND.addr (i : Nat) : Nat := 0x380500 + 0x8 * i
def LND_AGE_BOUND.BOUND (i : Nat) : Fld := ⟨LND_AGE_BOUND.addr i, ageBoundReset i, 0, 32⟩

/-- The address of LND_DESC_LVL (R7, R10). -/
def LND_DESC_LVL.addr : Nat := 0x3C0000
def LND_DESC_LVL.V : Fld := ⟨LND_DESC_LVL.addr, 0, 0, 64⟩

/-- The address of LND_PORT_CNT[i] (R7, R10). -/
def LND_PORT_CNT.addr (i : Nat) : Nat := 0x3C0E00 + 0x1000 * i
def LND_PORT_CNT.MISDIRECTED (i : Nat) : Fld := ⟨LND_PORT_CNT.addr i, 0, 48, 16⟩
def LND_PORT_CNT.UNCORR (i : Nat) : Fld := ⟨LND_PORT_CNT.addr i, 0, 32, 16⟩
def LND_PORT_CNT.SOFT (i : Nat) : Fld := ⟨LND_PORT_CNT.addr i, 0, 16, 16⟩
def LND_PORT_CNT.RETRY (i : Nat) : Fld := ⟨LND_PORT_CNT.addr i, 0, 0, 16⟩

/-- The address of LND_PORT_STATUS[i] (R7, R10). -/
def LND_PORT_STATUS.addr (i : Nat) : Nat := 0x3C0E08 + 0x1000 * i
def LND_PORT_STATUS.PACE_B (i : Nat) : Fld := ⟨LND_PORT_STATUS.addr i, 0, 32, 10⟩
def LND_PORT_STATUS.PACE_A (i : Nat) : Fld := ⟨LND_PORT_STATUS.addr i, 0, 12, 10⟩
def LND_PORT_STATUS.JOBS (i : Nat) : Fld := ⟨LND_PORT_STATUS.addr i, 0, 6, 6⟩
def LND_PORT_STATUS.LADDERS (i : Nat) : Fld := ⟨LND_PORT_STATUS.addr i, 0, 0, 6⟩

/-- The address of LND_PORT_CTL[i] (R7, R10). -/
def LND_PORT_CTL.addr (i : Nat) : Nat := 0x3C0E10 + 0x1000 * i
def LND_PORT_CTL.CAL_REQ (i : Nat) : Fld := ⟨LND_PORT_CTL.addr i, 0, 12, 1⟩
def LND_PORT_CTL.CAL_DIE (i : Nat) : Fld := ⟨LND_PORT_CTL.addr i, 0, 8, 4⟩
def LND_PORT_CTL.TRACK_FREEZE (i : Nat) : Fld := ⟨LND_PORT_CTL.addr i, 0, 0, 1⟩

/-- The address of SCU_CTL (R7, R10). -/
def SCU_CTL.addr : Nat := 0x400000
def SCU_CTL.CFG_LOCK : Fld := ⟨SCU_CTL.addr, 0, 5, 1⟩
def SCU_CTL.WEAR_EN : Fld := ⟨SCU_CTL.addr, 0, 4, 1⟩
def SCU_CTL.REFRESH_EN : Fld := ⟨SCU_CTL.addr, 0, 3, 1⟩
def SCU_CTL.PATROL_EN : Fld := ⟨SCU_CTL.addr, 0, 2, 1⟩
def SCU_CTL.CONS_EN : Fld := ⟨SCU_CTL.addr, 0, 1, 1⟩
def SCU_CTL.RECLAIM_EN : Fld := ⟨SCU_CTL.addr, 0, 0, 1⟩

/-- The address of SCU_STATUS (R7, R10). -/
def SCU_STATUS.addr : Nat := 0x400008
def SCU_STATUS.SPARE_OUT : Fld := ⟨SCU_STATUS.addr, 0, 40, 1⟩
def SCU_STATUS.HOST_WAIT : Fld := ⟨SCU_STATUS.addr, 0, 32, 8⟩
def SCU_STATUS.EMERG : Fld := ⟨SCU_STATUS.addr, 0, 24, 8⟩
def SCU_STATUS.RECLAIM : Fld := ⟨SCU_STATUS.addr, 0, 16, 8⟩
def SCU_STATUS.DEAD : Fld := ⟨SCU_STATUS.addr, 0, 8, 8⟩

/-- The address of SCU_RECLAIM_CFG (R7, R10). -/
def SCU_RECLAIM_CFG.addr : Nat := 0x400010
def SCU_RECLAIM_CFG.HANDLE_HOT : Fld := ⟨SCU_RECLAIM_CFG.addr, 0x1800180C08, 48, 16⟩
def SCU_RECLAIM_CFG.AGE_BIAS : Fld := ⟨SCU_RECLAIM_CFG.addr, 0x1800180C08, 32, 8⟩
def SCU_RECLAIM_CFG.HOT_AGE_H : Fld := ⟨SCU_RECLAIM_CFG.addr, 0x1800180C08, 16, 16⟩
def SCU_RECLAIM_CFG.FREE_STOP : Fld := ⟨SCU_RECLAIM_CFG.addr, 0x1800180C08, 8, 8⟩
def SCU_RECLAIM_CFG.FREE_START : Fld := ⟨SCU_RECLAIM_CFG.addr, 0x1800180C08, 0, 8⟩

/-- The address of SCU_WEAR_CFG (R7, R10). -/
def SCU_WEAR_CFG.addr : Nat := 0x400018
def SCU_WEAR_CFG.STATIC_H : Fld := ⟨SCU_WEAR_CFG.addr, 0x1801F40BB8, 32, 16⟩
def SCU_WEAR_CFG.WEAR_SPREAD : Fld := ⟨SCU_WEAR_CFG.addr, 0x1801F40BB8, 16, 16⟩
def SCU_WEAR_CFG.WEAR_LIMIT : Fld := ⟨SCU_WEAR_CFG.addr, 0x1801F40BB8, 0, 16⟩

/-- The address of SCU_CARE_CFG (R7, R10). -/
def SCU_CARE_CFG.addr : Nat := 0x400020
def SCU_CARE_CFG.ADDRESS_MAX : Fld := ⟨SCU_CARE_CFG.addr, 0x3A8006400002238, 56, 8⟩
def SCU_CARE_CFG.OPEN_MAX_H : Fld := ⟨SCU_CARE_CFG.addr, 0x3A8006400002238, 48, 8⟩
def SCU_CARE_CFG.DISTURB_K : Fld := ⟨SCU_CARE_CFG.addr, 0x3A8006400002238, 32, 16⟩
def SCU_CARE_CFG.RETAIN_H : Fld := ⟨SCU_CARE_CFG.addr, 0x3A8006400002238, 0, 32⟩

/-- The address of SCU_PATROL_CFG (R7, R10). -/
def SCU_PATROL_CFG.addr : Nat := 0x400028
def SCU_PATROL_CFG.PERIOD_D : Fld := ⟨SCU_PATROL_CFG.addr, 0x7, 0, 6⟩

/-- The address of SCU_PATROL_STATUS (R7, R10). -/
def SCU_PATROL_STATUS.addr : Nat := 0x400030
def SCU_PATROL_STATUS.LAP_LAST_S : Fld := ⟨SCU_PATROL_STATUS.addr, 0, 32, 32⟩
def SCU_PATROL_STATUS.LAPS : Fld := ⟨SCU_PATROL_STATUS.addr, 0, 16, 16⟩
def SCU_PATROL_STATUS.LATE : Fld := ⟨SCU_PATROL_STATUS.addr, 0, 15, 1⟩
def SCU_PATROL_STATUS.PROGRESS : Fld := ⟨SCU_PATROL_STATUS.addr, 0, 0, 10⟩

/-- The address of SCU_SPARE (R7, R10). -/
def SCU_SPARE.addr : Nat := 0x400038
def SCU_SPARE.SPARE_SUITES : Fld := ⟨SCU_SPARE.addr, 0, 32, 32⟩
def SCU_SPARE.SPARE_BP : Fld := ⟨SCU_SPARE.addr, 0, 0, 16⟩

/-- The address of SCU_SUITE_IDX (R7, R10). -/
def SCU_SUITE_IDX.addr : Nat := 0x400040
def SCU_SUITE_IDX.IDX : Fld := ⟨SCU_SUITE_IDX.addr, 0, 0, 20⟩

/-- The address of SCU_SUITE_DATA[i] (R7, R10). -/
def SCU_SUITE_DATA.addr (i : Nat) : Nat := 0x400080 + 0x8 * i
def SCU_SUITE_DATA.V (i : Nat) : Fld := ⟨SCU_SUITE_DATA.addr i, 0, 0, 64⟩

/-- The address of SCU_POOL[i] (R7, R10). -/
def SCU_POOL.addr (i : Nat) : Nat := 0x400100 + 0x8 * i
def SCU_POOL.OPEN (i : Nat) : Fld := ⟨SCU_POOL.addr i, 0, 56, 8⟩
def SCU_POOL.BAD (i : Nat) : Fld := ⟨SCU_POOL.addr i, 0, 36, 18⟩
def SCU_POOL.CLOSED (i : Nat) : Fld := ⟨SCU_POOL.addr i, 0, 18, 18⟩
def SCU_POOL.ERASED (i : Nat) : Fld := ⟨SCU_POOL.addr i, 0, 0, 18⟩

/-- The address of BSM_CTL (R7, R10). -/
def BSM_CTL.addr : Nat := 0x480000
def BSM_CTL.RETIRE : Fld := ⟨BSM_CTL.addr, 0, 5, 2⟩
def BSM_CTL.CFG_LOCK : Fld := ⟨BSM_CTL.addr, 0, 4, 1⟩
def BSM_CTL.CLEAR : Fld := ⟨BSM_CTL.addr, 0, 3, 1⟩
def BSM_CTL.SCRUB_EN : Fld := ⟨BSM_CTL.addr, 0, 2, 1⟩
def BSM_CTL.ENABLE : Fld := ⟨BSM_CTL.addr, 0, 0, 1⟩

/-- The address of BSM_STATUS (R7, R10). -/
def BSM_STATUS.addr : Nat := 0x480008
def BSM_STATUS.GEN : Fld := ⟨BSM_STATUS.addr, 0, 18, 14⟩
def BSM_STATUS.IN_SERVICE : Fld := ⟨BSM_STATUS.addr, 0, 16, 2⟩
def BSM_STATUS.RING_FAULT : Fld := ⟨BSM_STATUS.addr, 0, 4, 1⟩
def BSM_STATUS.DEGRADED : Fld := ⟨BSM_STATUS.addr, 0, 3, 1⟩
def BSM_STATUS.CLEAR_DONE : Fld := ⟨BSM_STATUS.addr, 0, 2, 1⟩
def BSM_STATUS.CLEAR_BUSY : Fld := ⟨BSM_STATUS.addr, 0, 1, 1⟩
def BSM_STATUS.TRAINED : Fld := ⟨BSM_STATUS.addr, 0, 0, 1⟩

/-- The address of BSM_SCRUB_CFG (R7, R10). -/
def BSM_SCRUB_CFG.addr : Nat := 0x480010
def BSM_SCRUB_CFG.LAP_S : Fld := ⟨BSM_SCRUB_CFG.addr, 0xE10, 0, 32⟩

/-- The address of BSM_SCRUB_STATUS (R7, R10). -/
def BSM_SCRUB_STATUS.addr : Nat := 0x480018
def BSM_SCRUB_STATUS.LAP_MAX_S : Fld := ⟨BSM_SCRUB_STATUS.addr, 0, 40, 24⟩
def BSM_SCRUB_STATUS.LAP_LAST_S : Fld := ⟨BSM_SCRUB_STATUS.addr, 0, 16, 24⟩
def BSM_SCRUB_STATUS.LATE : Fld := ⟨BSM_SCRUB_STATUS.addr, 0, 15, 1⟩
def BSM_SCRUB_STATUS.PROGRESS : Fld := ⟨BSM_SCRUB_STATUS.addr, 0, 0, 10⟩

/-- The address of BSM_ERR_CNT (R7, R10). -/
def BSM_ERR_CNT.addr : Nat := 0x480020
def BSM_ERR_CNT.DRAM_CE : Fld := ⟨BSM_ERR_CNT.addr, 0, 48, 16⟩
def BSM_ERR_CNT.DRAM_UE : Fld := ⟨BSM_ERR_CNT.addr, 0, 32, 16⟩
def BSM_ERR_CNT.SRAM_CE : Fld := ⟨BSM_ERR_CNT.addr, 0, 16, 16⟩
def BSM_ERR_CNT.SRAM_UE : Fld := ⟨BSM_ERR_CNT.addr, 0, 0, 16⟩

/-- The address of BSM_SUBCH_STATUS[i] (R7, R10). -/
def BSM_SUBCH_STATUS.addr (i : Nat) : Nat := 0x480028 + 0x8 * i
def BSM_SUBCH_STATUS.RETRAIN_CNT (i : Nat) : Fld := ⟨BSM_SUBCH_STATUS.addr i, 0, 48, 16⟩
def BSM_SUBCH_STATUS.REPLAY_CNT (i : Nat) : Fld := ⟨BSM_SUBCH_STATUS.addr i, 0, 32, 16⟩
def BSM_SUBCH_STATUS.RETIRE_CAUSE (i : Nat) : Fld := ⟨BSM_SUBCH_STATUS.addr i, 0, 20, 4⟩
def BSM_SUBCH_STATUS.RETRAIN_WIN (i : Nat) : Fld := ⟨BSM_SUBCH_STATUS.addr i, 0, 18, 2⟩
def BSM_SUBCH_STATUS.STATE (i : Nat) : Fld := ⟨BSM_SUBCH_STATUS.addr i, 0, 0, 3⟩

/-- The address of BSM_LOG_HEAD (R7, R10). -/
def BSM_LOG_HEAD.addr : Nat := 0x480038
def BSM_LOG_HEAD.NEXT_SEQ : Fld := ⟨BSM_LOG_HEAD.addr, 0, 32, 32⟩
def BSM_LOG_HEAD.LOST : Fld := ⟨BSM_LOG_HEAD.addr, 0, 0, 32⟩

/-- The address of BSM_LOG[i] (R7, R10). -/
def BSM_LOG.addr (i : Nat) : Nat := 0x481000 + 0x8 * i
def BSM_LOG.V (i : Nat) : Fld := ⟨BSM_LOG.addr i, 0, 0, 64⟩

/-- The address of BSM_REMAP[i] (R7, R10). -/
def BSM_REMAP.addr (i : Nat) : Nat := 0x482000 + 0x8 * i
def BSM_REMAP.VALID (i : Nat) : Fld := ⟨BSM_REMAP.addr i, 0, 63, 1⟩
def BSM_REMAP.BUSY (i : Nat) : Fld := ⟨BSM_REMAP.addr i, 0, 62, 1⟩
def BSM_REMAP.PAGE (i : Nat) : Fld := ⟨BSM_REMAP.addr i, 0, 0, 24⟩

/-- The address of BSM_LDR_BANK_CNT[i] (R7, R10). -/
def BSM_LDR_BANK_CNT.addr (i : Nat) : Nat := 0x484000 + 0x8 * i
def BSM_LDR_BANK_CNT.CE (i : Nat) : Fld := ⟨BSM_LDR_BANK_CNT.addr i, 0, 32, 32⟩
def BSM_LDR_BANK_CNT.UE (i : Nat) : Fld := ⟨BSM_LDR_BANK_CNT.addr i, 0, 16, 16⟩

/-- The address of STG_CTL (R7, R10). -/
def STG_CTL.addr : Nat := 0x500000
def STG_CTL.CFG_LOCK : Fld := ⟨STG_CTL.addr, 0, 2, 1⟩
def STG_CTL.TAMPER_ERASE : Fld := ⟨STG_CTL.addr, 0, 1, 1⟩

/-- The address of STG_STATUS (R7, R10). -/
def STG_STATUS.addr : Nat := 0x500008
def STG_STATUS.LOCK_TIMEOUT : Fld := ⟨STG_STATUS.addr, 0, 5, 1⟩
def STG_STATUS.NO_ENTROPY : Fld := ⟨STG_STATUS.addr, 0, 4, 1⟩
def STG_STATUS.TAMPERED : Fld := ⟨STG_STATUS.addr, 0, 3, 1⟩
def STG_STATUS.SEED_OK : Fld := ⟨STG_STATUS.addr, 0, 2, 1⟩
def STG_STATUS.KEYS_LOADED : Fld := ⟨STG_STATUS.addr, 0, 1, 1⟩
def STG_STATUS.BUSY : Fld := ⟨STG_STATUS.addr, 0, 0, 1⟩

/-- The address of STG_LOCK (R7, R10). -/
def STG_LOCK.addr : Nat := 0x500010
def STG_LOCK.RELEASE : Fld := ⟨STG_LOCK.addr, 0, 17, 1⟩
def STG_LOCK.ACQUIRE : Fld := ⟨STG_LOCK.addr, 0, 16, 1⟩
def STG_LOCK.WAITING : Fld := ⟨STG_LOCK.addr, 0, 8, 4⟩
def STG_LOCK.OWNER : Fld := ⟨STG_LOCK.addr, 0, 0, 3⟩

/-- The address of STG_KME_CMD (R7, R10). -/
def STG_KME_CMD.addr : Nat := 0x500018
def STG_KME_CMD.OP : Fld := ⟨STG_KME_CMD.addr, 0, 0, 8⟩

/-- The address of STG_KME_STATUS (R7, R10). -/
def STG_KME_STATUS.addr : Nat := 0x500020
def STG_KME_STATUS.OP : Fld := ⟨STG_KME_STATUS.addr, 0, 8, 8⟩
def STG_KME_STATUS.RESULT : Fld := ⟨STG_KME_STATUS.addr, 0, 0, 8⟩

/-- The address of STG_KME_ARG[i] (R7, R10). -/
def STG_KME_ARG.addr (i : Nat) : Nat := 0x500040 + 0x8 * i
def STG_KME_ARG.V (i : Nat) : Fld := ⟨STG_KME_ARG.addr i, 0, 0, 64⟩

/-- The address of STG_TAMPER (R7, R10). -/
def STG_TAMPER.addr : Nat := 0x500080
def STG_TAMPER.BITS : Fld := ⟨STG_TAMPER.addr, 0, 0, 6⟩

/-- The address of STG_SVN (R7, R10). -/
def STG_SVN.addr : Nat := 0x500088
def STG_SVN.FUSES : Fld := ⟨STG_SVN.addr, 0, 0, 64⟩

/-- The address of STG_SLOT[i] (R7, R10). -/
def STG_SLOT.addr (i : Nat) : Nat := 0x501000 + 0x8 * i
def STG_SLOT.GENERATION (i : Nat) : Fld := ⟨STG_SLOT.addr i, 0, 32, 32⟩
def STG_SLOT.NSID (i : Nat) : Fld := ⟨STG_SLOT.addr i, 0, 24, 8⟩
def STG_SLOT.RANGE (i : Nat) : Fld := ⟨STG_SLOT.addr i, 0, 18, 6⟩
def STG_SLOT.INFLIGHT (i : Nat) : Fld := ⟨STG_SLOT.addr i, 0, 8, 8⟩
def STG_SLOT.STATE (i : Nat) : Fld := ⟨STG_SLOT.addr i, 0, 0, 3⟩

/-- The address of STG_RANGE[i] (R7, R10). -/
def STG_RANGE.addr (i : Nat) : Nat := 0x502000 + 0x8 * i
def STG_RANGE.V (i : Nat) : Fld := ⟨STG_RANGE.addr i, 0, 0, 64⟩

/-- The address of CLO_CTL (R7, R10). -/
def CLO_CTL.addr : Nat := 0x580000
def CLO_CTL.WP_LOCK : Fld := ⟨CLO_CTL.addr, 0, 0, 1⟩

/-- The address of CLO_STATUS (R7, R10). -/
def CLO_STATUS.addr : Nat := 0x580008
def CLO_STATUS.PULSES : Fld := ⟨CLO_STATUS.addr, 0, 24, 8⟩
def CLO_STATUS.OP : Fld := ⟨CLO_STATUS.addr, 0, 16, 4⟩
def CLO_STATUS.RESULT : Fld := ⟨CLO_STATUS.addr, 0, 8, 4⟩
def CLO_STATUS.INHIBIT : Fld := ⟨CLO_STATUS.addr, 0, 4, 1⟩
def CLO_STATUS.FAIL : Fld := ⟨CLO_STATUS.addr, 0, 3, 1⟩
def CLO_STATUS.SELF_BANK : Fld := ⟨CLO_STATUS.addr, 0, 2, 1⟩
def CLO_STATUS.BUSY_BANK : Fld := ⟨CLO_STATUS.addr, 0, 0, 2⟩

/-- The address of CLO_CMD (R7, R10). -/
def CLO_CMD.addr : Nat := 0x580010
def CLO_CMD.OP : Fld := ⟨CLO_CMD.addr, 0, 0, 4⟩

/-- The address of CLO_ADDR (R7, R10). -/
def CLO_ADDR.addr : Nat := 0x580018
def CLO_ADDR.ADDR : Fld := ⟨CLO_ADDR.addr, 0, 0, 26⟩

/-- The address of CLO_PAGE[i] (R7, R10). -/
def CLO_PAGE.addr (i : Nat) : Nat := 0x580100 + 0x8 * i
def CLO_PAGE.V (i : Nat) : Fld := ⟨CLO_PAGE.addr i, 0, 0, 64⟩

/-- The address of CLO_WP[i] (R7, R10). -/
def CLO_WP.addr (i : Nat) : Nat := 0x580200 + 0x8 * i
def CLO_WP.PROT (i : Nat) : Fld := ⟨CLO_WP.addr i, 0xFFFFFFFFFFFFFFFF, 0, 64⟩

/-- The address of CLO_WP_SET[i] (R7, R10). -/
def CLO_WP_SET.addr (i : Nat) : Nat := 0x580280 + 0x8 * i
def CLO_WP_SET.V (i : Nat) : Fld := ⟨CLO_WP_SET.addr i, 0, 0, 64⟩

/-- The address of STD_CONFIRM (R7, R10). -/
def STD_CONFIRM.addr : Nat := 0x600480
def STD_CONFIRM.SECONDS_LEFT : Fld := ⟨STD_CONFIRM.addr, 0, 32, 10⟩
def STD_CONFIRM.ATTEMPTS : Fld := ⟨STD_CONFIRM.addr, 0, 6, 2⟩
def STD_CONFIRM.SLOT : Fld := ⟨STD_CONFIRM.addr, 0, 4, 2⟩
def STD_CONFIRM.PENDING : Fld := ⟨STD_CONFIRM.addr, 0, 2, 1⟩
def STD_CONFIRM.CONFIRMED : Fld := ⟨STD_CONFIRM.addr, 0, 1, 1⟩
def STD_CONFIRM.CONFIRM : Fld := ⟨STD_CONFIRM.addr, 0, 0, 1⟩

/-- The address of STD_PWR_MODE (R7, R10). -/
def STD_PWR_MODE.addr : Nat := 0x600500
def STD_PWR_MODE.MODE : Fld := ⟨STD_PWR_MODE.addr, 0, 0, 3⟩

/-- The address of STD_CLK_CTL (R7, R10). -/
def STD_CLK_CTL.addr : Nat := 0x600508
def STD_CLK_CTL.REF_LOST : Fld := ⟨STD_CLK_CTL.addr, 0, 3, 1⟩
def STD_CLK_CTL.SEL : Fld := ⟨STD_CLK_CTL.addr, 0, 2, 1⟩
def STD_CLK_CTL.PLL_LOCK : Fld := ⟨STD_CLK_CTL.addr, 0, 1, 1⟩
def STD_CLK_CTL.PLL_EN : Fld := ⟨STD_CLK_CTL.addr, 0, 0, 1⟩

/-- The address of STD_DOMAIN_EN (R7, R10). -/
def STD_DOMAIN_EN.addr : Nat := 0x600510
def STD_DOMAIN_EN.CELLAR : Fld := ⟨STD_DOMAIN_EN.addr, 0, 19, 8⟩
def STD_DOMAIN_EN.STRONGROOM : Fld := ⟨STD_DOMAIN_EN.addr, 0, 18, 1⟩
def STD_DOMAIN_EN.DRAM : Fld := ⟨STD_DOMAIN_EN.addr, 0, 16, 2⟩
def STD_DOMAIN_EN.LAUNDRY : Fld := ⟨STD_DOMAIN_EN.addr, 0, 8, 8⟩
def STD_DOMAIN_EN.FABRIC : Fld := ⟨STD_DOMAIN_EN.addr, 0, 0, 4⟩

/-- The address of STD_WAKE_EN (R7, R10). -/
def STD_WAKE_EN.addr : Nat := 0x600518
def STD_WAKE_EN.EN : Fld := ⟨STD_WAKE_EN.addr, 0x1F, 0, 7⟩

/-- The address of STD_WAKE_STATUS (R7, R10). -/
def STD_WAKE_STATUS.addr : Nat := 0x600520
def STD_WAKE_STATUS.TIMER : Fld := ⟨STD_WAKE_STATUS.addr, 0, 6, 1⟩
def STD_WAKE_STATUS.THERMAL : Fld := ⟨STD_WAKE_STATUS.addr, 0, 5, 1⟩
def STD_WAKE_STATUS.PWRFAIL : Fld := ⟨STD_WAKE_STATUS.addr, 0, 4, 1⟩
def STD_WAKE_STATUS.PERST : Fld := ⟨STD_WAKE_STATUS.addr, 0, 3, 1⟩
def STD_WAKE_STATUS.LINK : Fld := ⟨STD_WAKE_STATUS.addr, 0, 2, 1⟩
def STD_WAKE_STATUS.MGMT : Fld := ⟨STD_WAKE_STATUS.addr, 0, 1, 1⟩
def STD_WAKE_STATUS.DOORBELL : Fld := ⟨STD_WAKE_STATUS.addr, 0, 0, 1⟩

/-- The address of STD_PAD_RELEASE (R7, R10). -/
def STD_PAD_RELEASE.addr : Nat := 0x600528
def STD_PAD_RELEASE.RELEASE : Fld := ⟨STD_PAD_RELEASE.addr, 0, 0, 1⟩

/-- The address of STD_TIME (R7, R10). -/
def STD_TIME.addr : Nat := 0x600530
def STD_TIME.V : Fld := ⟨STD_TIME.addr, 0, 0, 64⟩

/-- The address of STD_LSO_CAL (R7, R10). -/
def STD_LSO_CAL.addr : Nat := 0x600538
def STD_LSO_CAL.AGE : Fld := ⟨STD_LSO_CAL.addr, 0, 40, 16⟩
def STD_LSO_CAL.PERIOD : Fld := ⟨STD_LSO_CAL.addr, 0, 0, 40⟩

/-- The address of STD_WAKE_TIMER (R7, R10). -/
def STD_WAKE_TIMER.addr : Nat := 0x600540
def STD_WAKE_TIMER.SECONDS : Fld := ⟨STD_WAKE_TIMER.addr, 0, 0, 32⟩

/-- The address of STD_STRAPS (R7, R10). -/
def STD_STRAPS.addr : Nat := 0x600600
def STD_STRAPS.PWRFAIL : Fld := ⟨STD_STRAPS.addr, 0, 15, 1⟩
def STD_STRAPS.HOLDUP_OK : Fld := ⟨STD_STRAPS.addr, 0, 14, 1⟩
def STD_STRAPS.TESTMODE : Fld := ⟨STD_STRAPS.addr, 0, 10, 1⟩
def STD_STRAPS.REFSEL : Fld := ⟨STD_STRAPS.addr, 0, 9, 1⟩
def STD_STRAPS.HOLDUP : Fld := ⟨STD_STRAPS.addr, 0, 8, 1⟩
def STD_STRAPS.PADMODE : Fld := ⟨STD_STRAPS.addr, 0, 7, 1⟩
def STD_STRAPS.PORTS : Fld := ⟨STD_STRAPS.addr, 0, 4, 3⟩
def STD_STRAPS.ROLE : Fld := ⟨STD_STRAPS.addr, 0, 0, 2⟩

/-- The address of CHM_CTL (R7, R10). -/
def CHM_CTL.addr : Nat := 0x680000
def CHM_CTL.FLASH_CEIL : Fld := ⟨CHM_CTL.addr, 0x555001, 16, 8⟩
def CHM_CTL.HYST_C : Fld := ⟨CHM_CTL.addr, 0x555001, 12, 4⟩
def CHM_CTL.MIN_STEP : Fld := ⟨CHM_CTL.addr, 0x555001, 8, 4⟩
def CHM_CTL.GOV_EN : Fld := ⟨CHM_CTL.addr, 0x555001, 0, 1⟩

/-- The address of CHM_STATUS (R7, R10). -/
def CHM_STATUS.addr : Nat := 0x680008
def CHM_STATUS.SHUT_PRIOR : Fld := ⟨CHM_STATUS.addr, 0, 41, 1⟩
def CHM_STATUS.WARN : Fld := ⟨CHM_STATUS.addr, 0, 40, 1⟩
def CHM_STATUS.COMPOSITE : Fld := ⟨CHM_STATUS.addr, 0, 32, 8⟩
def CHM_STATUS.BROKEN_ZONES : Fld := ⟨CHM_STATUS.addr, 0, 16, 8⟩
def CHM_STATUS.MIN_STEP : Fld := ⟨CHM_STATUS.addr, 0, 12, 4⟩
def CHM_STATUS.STATE_STEP : Fld := ⟨CHM_STATUS.addr, 0, 8, 4⟩
def CHM_STATUS.THERM_STEP : Fld := ⟨CHM_STATUS.addr, 0, 4, 4⟩
def CHM_STATUS.STEP : Fld := ⟨CHM_STATUS.addr, 0, 0, 4⟩

/-- The address of CHM_POWER (R7, R10). -/
def CHM_POWER.addr : Nat := 0x680010
def CHM_POWER.A16 : Fld := ⟨CHM_POWER.addr, 0, 48, 4⟩
def CHM_POWER.CAP : Fld := ⟨CHM_POWER.addr, 0, 32, 16⟩
def CHM_POWER.MEAN10 : Fld := ⟨CHM_POWER.addr, 0, 16, 16⟩
def CHM_POWER.P1 : Fld := ⟨CHM_POWER.addr, 0, 0, 16⟩

/-- The address of CHM_VCORE (R7, R10). -/
def CHM_VCORE.addr : Nat := 0x680018
def CHM_VCORE.SETPOINT : Fld := ⟨CHM_VCORE.addr, 0, 0, 8⟩

/-- The address of CHM_SENSOR[i] (R7, R10). -/
def CHM_SENSOR.addr (i : Nat) : Nat := 0x680100 + 0x8 * i
def CHM_SENSOR.RAW (i : Nat) : Fld := ⟨CHM_SENSOR.addr i, 0, 32, 16⟩
def CHM_SENSOR.ZONE (i : Nat) : Fld := ⟨CHM_SENSOR.addr i, 0, 24, 3⟩
def CHM_SENSOR.BROKEN (i : Nat) : Fld := ⟨CHM_SENSOR.addr i, 0, 16, 4⟩
def CHM_SENSOR.TEMP (i : Nat) : Fld := ⟨CHM_SENSOR.addr i, 0, 0, 16⟩

/-- The address of CHM_PORT_TEMP[i] (R7, R10). -/
def CHM_PORT_TEMP.addr (i : Nat) : Nat := 0x680200 + 0x8 * i
def CHM_PORT_TEMP.STEP (i : Nat) : Fld := ⟨CHM_PORT_TEMP.addr i, 0, 32, 4⟩
def CHM_PORT_TEMP.BROKEN (i : Nat) : Fld := ⟨CHM_PORT_TEMP.addr i, 0, 16, 16⟩
def CHM_PORT_TEMP.HOTTEST (i : Nat) : Fld := ⟨CHM_PORT_TEMP.addr i, 0, 0, 16⟩

/-- The address of ATC_CTL (R7, R10). -/
def ATC_CTL.addr : Nat := 0x700000
def ATC_CTL.CFG_LOCK : Fld := ⟨ATC_CTL.addr, 0, 4, 1⟩
def ATC_CTL.IST_EN : Fld := ⟨ATC_CTL.addr, 0, 3, 1⟩
def ATC_CTL.MODE : Fld := ⟨ATC_CTL.addr, 0, 0, 2⟩

/-- The address of ATC_STATUS (R7, R10). -/
def ATC_STATUS.addr : Nat := 0x700008
def ATC_STATUS.NEXT_SEQ : Fld := ⟨ATC_STATUS.addr, 0, 32, 32⟩
def ATC_STATUS.MODE : Fld := ⟨ATC_STATUS.addr, 0, 18, 2⟩
def ATC_STATUS.FULL_READY : Fld := ⟨ATC_STATUS.addr, 0, 17, 1⟩
def ATC_STATUS.MIRROR_BUSY : Fld := ⟨ATC_STATUS.addr, 0, 16, 1⟩
def ATC_STATUS.DROPPED : Fld := ⟨ATC_STATUS.addr, 0, 0, 16⟩

/-- The address of ATC_POST_LO (R7, R10). -/
def ATC_POST_LO.addr : Nat := 0x700010
def ATC_POST_LO.V : Fld := ⟨ATC_POST_LO.addr, 0, 0, 64⟩

/-- The address of ATC_POST_HI (R7, R10). -/
def ATC_POST_HI.addr : Nat := 0x700018
def ATC_POST_HI.V : Fld := ⟨ATC_POST_HI.addr, 0, 0, 64⟩

/-- The address of ATC_POST_GO (R7, R10). -/
def ATC_POST_GO.addr : Nat := 0x700020
def ATC_POST_GO.SEVERITY : Fld := ⟨ATC_POST_GO.addr, 0, 16, 4⟩
def ATC_POST_GO.CODE : Fld := ⟨ATC_POST_GO.addr, 0, 0, 16⟩

/-- The address of ATC_WIN_CURSOR[i] (R7, R10). -/
def ATC_WIN_CURSOR.addr (i : Nat) : Nat := 0x701000 + 0x1000 * i
def ATC_WIN_CURSOR.SEQ (i : Nat) : Fld := ⟨ATC_WIN_CURSOR.addr i, 0, 0, 32⟩

/-- The address of ATC_WIN_STATUS[i] (R7, R10). -/
def ATC_WIN_STATUS.addr (i : Nat) : Nat := 0x701008 + 0x1000 * i
def ATC_WIN_STATUS.OLDEST_SEQ (i : Nat) : Fld := ⟨ATC_WIN_STATUS.addr i, 0, 32, 32⟩
def ATC_WIN_STATUS.READY (i : Nat) : Fld := ⟨ATC_WIN_STATUS.addr i, 0, 15, 1⟩
def ATC_WIN_STATUS.GAP (i : Nat) : Fld := ⟨ATC_WIN_STATUS.addr i, 0, 14, 1⟩
def ATC_WIN_STATUS.COUNT (i : Nat) : Fld := ⟨ATC_WIN_STATUS.addr i, 0, 0, 7⟩

/-- The address of ATC_WIN_DATA (R7, R10). -/
def ATC_WIN_DATA.addr : Nat := 0x701800
def ATC_WIN_DATA.V : Fld := ⟨ATC_WIN_DATA.addr, 0, 0, 64⟩

/-- The address of STA_CTL (R7, R10). -/
def STA_CTL.addr : Nat := 0x780000
def STA_CTL.CFG_LOCK : Fld := ⟨STA_CTL.addr, 0, 2, 1⟩
def STA_CTL.JOIN_EN : Fld := ⟨STA_CTL.addr, 0, 1, 1⟩
def STA_CTL.ENABLE : Fld := ⟨STA_CTL.addr, 0, 0, 1⟩

/-- The address of STA_STATUS (R7, R10). -/
def STA_STATUS.addr : Nat := 0x780008
def STA_STATUS.WORKERS_ACTIVE : Fld := ⟨STA_STATUS.addr, 0, 24, 8⟩
def STA_STATUS.PROTO_VERSION : Fld := ⟨STA_STATUS.addr, 0, 16, 8⟩
def STA_STATUS.SELF_ID : Fld := ⟨STA_STATUS.addr, 0, 8, 4⟩
def STA_STATUS.MGR_LOST : Fld := ⟨STA_STATUS.addr, 0, 2, 1⟩
def STA_STATUS.ROLE : Fld := ⟨STA_STATUS.addr, 0, 0, 2⟩

/-- The address of STA_WORKER[i] (R7, R10). -/
def STA_WORKER.addr (i : Nat) : Nat := 0x780100 + 0x8 * i
def STA_WORKER.UNSETTLED (i : Nat) : Fld := ⟨STA_WORKER.addr i, 0, 32, 16⟩
def STA_WORKER.LINKS (i : Nat) : Fld := ⟨STA_WORKER.addr i, 0, 24, 8⟩
def STA_WORKER.PROTO_VERSION (i : Nat) : Fld := ⟨STA_WORKER.addr i, 0, 16, 8⟩
def STA_WORKER.FENCE_REASON (i : Nat) : Fld := ⟨STA_WORKER.addr i, 0, 8, 8⟩
def STA_WORKER.STATE (i : Nat) : Fld := ⟨STA_WORKER.addr i, 0, 0, 3⟩

/-- The address of STA_WORKER_OFFSET[i] (R7, R10). -/
def STA_WORKER_OFFSET.addr (i : Nat) : Nat := 0x780140 + 0x8 * i
def STA_WORKER_OFFSET.V (i : Nat) : Fld := ⟨STA_WORKER_OFFSET.addr i, 0, 0, 64⟩

/-- The address of STA_WORKER_PID[i] (R7, R10). -/
def STA_WORKER_PID.addr (i : Nat) : Nat := 0x780180 + 0x8 * i
def STA_WORKER_PID.V (i : Nat) : Fld := ⟨STA_WORKER_PID.addr i, 0, 0, 64⟩

/-- The address of STA_LINK[i] (R7, R10). -/
def STA_LINK.addr (i : Nat) : Nat := 0x780200 + 0x8 * i
def STA_LINK.LINK_INDEX (i : Nat) : Fld := ⟨STA_LINK.addr i, 0, 4, 3⟩
def STA_LINK.WORKER (i : Nat) : Fld := ⟨STA_LINK.addr i, 0, 0, 3⟩

/-- The address of STA_WEIGHT[i] (R7, R10). -/
def STA_WEIGHT.addr (i : Nat) : Nat := 0x780400 + 0x8 * i
def STA_WEIGHT.WEIGHT (i : Nat) : Fld := ⟨STA_WEIGHT.addr i, 0, 0, 7⟩

/-- The registers of the Porch (prefix PCH_). -/
def regsPorch : List RegSpec := [
  ⟨"PCH_IDENTITY", 0x0, 0x8, 1, true, none, [⟨16, 16, .ro⟩, ⟨0, 1, .ro⟩]⟩,
  ⟨"PCH_PORT_CTL", 0x8, 0x8, 1, true, some (0x8, 0x0, 31), [⟨31, 1, .w1s⟩, ⟨4, 4, .rwl⟩, ⟨0, 1, .rwl⟩]⟩,
  ⟨"PCH_LINK_STATUS", 0x100, 0x100, 2, true, none, [⟨12, 4, .ro⟩, ⟨7, 5, .ro⟩, ⟨6, 1, .ro⟩, ⟨4, 2, .ro⟩, ⟨2, 2, .ro⟩, ⟨1, 1, .ro⟩, ⟨0, 1, .ro⟩]⟩,
  ⟨"PCH_LINK_ERR", 0x108, 0x100, 2, true, none, [⟨48, 16, .ro⟩, ⟨32, 16, .ro⟩, ⟨16, 16, .ro⟩, ⟨0, 16, .ro⟩]⟩,
  ⟨"PCH_DMA_STATUS", 0x1000, 0x10, 128, true, none, [⟨16, 9, .ro⟩, ⟨8, 8, .ro⟩, ⟨4, 2, .ro⟩, ⟨0, 4, .ro⟩]⟩]

/-- The registers of the Hall (prefix HAL_). -/
def regsHall : List RegSpec := [
  ⟨"HAL_CTL", 0x100000, 0x8, 1, true, none, [⟨2, 1, .rw⟩, ⟨1, 1, .w1s⟩, ⟨0, 1, .rw⟩]⟩,
  ⟨"HAL_STATUS", 0x100008, 0x8, 1, true, none, [⟨28, 18, .ro⟩, ⟨10, 18, .ro⟩, ⟨3, 1, .ro⟩, ⟨2, 1, .ro⟩, ⟨1, 1, .ro⟩, ⟨0, 1, .ro⟩]⟩,
  ⟨"HAL_INGEST_NEXT", 0x100010, 0x8, 1, true, none, [⟨0, 64, .ro⟩]⟩,
  ⟨"HAL_OVERLAP_CNT", 0x100018, 0x8, 1, true, none, [⟨0, 64, .ro⟩]⟩,
  ⟨"HAL_DEFER_CNT", 0x100020, 0x8, 1, true, none, [⟨32, 32, .ro⟩, ⟨0, 32, .ro⟩]⟩,
  ⟨"HAL_PORT_SHARE", 0x100100, 0x8, 64, true, none, [⟨31, 1, .ro⟩, ⟨30, 1, .ro⟩, ⟨0, 10, .ro⟩]⟩]

/-- The registers of the Pantry (prefix PAN_). -/
def regsPantry : List RegSpec := [
  ⟨"PAN_CTL", 0x200000, 0x8, 1, true, none, [⟨3, 1, .w1s⟩, ⟨2, 1, .rw⟩, ⟨1, 1, .rw⟩, ⟨0, 1, .rw⟩]⟩,
  ⟨"PAN_STATUS", 0x200008, 0x8, 1, true, none, [⟨8, 8, .ro⟩, ⟨7, 1, .ro⟩, ⟨6, 1, .ro⟩, ⟨5, 1, .ro⟩, ⟨4, 1, .ro⟩, ⟨3, 1, .ro⟩, ⟨2, 1, .w1c⟩, ⟨1, 1, .ro⟩, ⟨0, 1, .ro⟩]⟩,
  ⟨"PAN_INV_ALL", 0x200010, 0x8, 1, false, none, [⟨0, 1, .wo⟩]⟩,
  ⟨"PAN_MAINT", 0x200018, 0x8, 1, false, none, [⟨60, 4, .wo⟩, ⟨7, 29, .wo⟩]⟩,
  ⟨"PAN_MAINT_STATUS", 0x200020, 0x8, 1, true, none, [⟨32, 32, .ro⟩, ⟨5, 1, .w1c⟩, ⟨0, 5, .ro⟩]⟩,
  ⟨"PAN_BUDGET", 0x200028, 0x8, 1, true, none, [⟨32, 32, .ro⟩, ⟨0, 32, .ro⟩]⟩,
  ⟨"PAN_BUDGET_RES", 0x200030, 0x8, 1, true, none, [⟨32, 32, .ro⟩, ⟨0, 32, .ro⟩]⟩,
  ⟨"PAN_OVERLAY", 0x200038, 0x8, 1, true, none, [⟨32, 20, .ro⟩, ⟨0, 20, .ro⟩]⟩,
  ⟨"PAN_CKPT_CFG", 0x200040, 0x8, 1, true, none, [⟨0, 7, .rw⟩]⟩,
  ⟨"PAN_CKPT_STATUS", 0x200048, 0x8, 1, true, none, [⟨32, 32, .ro⟩, ⟨16, 16, .ro⟩, ⟨0, 16, .ro⟩]⟩,
  ⟨"PAN_JOURNAL_SEQ", 0x200050, 0x8, 1, true, none, [⟨0, 64, .ro⟩]⟩,
  ⟨"PAN_JOURNAL_DURABLE", 0x200058, 0x8, 1, true, none, [⟨0, 64, .ro⟩]⟩,
  ⟨"PAN_HIT_CNT", 0x200060, 0x8, 1, true, none, [⟨0, 64, .ro⟩]⟩,
  ⟨"PAN_MISS_CNT", 0x200068, 0x8, 1, true, none, [⟨0, 64, .ro⟩]⟩,
  ⟨"PAN_REGION", 0x200100, 0x8, 8, true, some (0x200000, 0x0, 3), [⟨47, 17, .rwl⟩, ⟨30, 17, .rwl⟩, ⟨7, 1, .rwl⟩, ⟨6, 1, .rwl⟩, ⟨5, 1, .rwl⟩, ⟨4, 1, .rwl⟩, ⟨3, 1, .rwl⟩, ⟨2, 1, .rwl⟩, ⟨0, 2, .rwl⟩]⟩]

/-- The registers of the Larder (prefix LDR_). -/
def regsLarder : List RegSpec := [
  ⟨"LDR_CTL", 0x280000, 0x8, 1, true, none, [⟨4, 1, .w1s⟩, ⟨3, 1, .w1s⟩, ⟨2, 1, .rw⟩, ⟨1, 1, .rw⟩, ⟨0, 1, .rw⟩]⟩,
  ⟨"LDR_STATUS", 0x280008, 0x8, 1, true, none, [⟨16, 1, .ro⟩, ⟨8, 8, .ro⟩, ⟨7, 1, .w1c⟩, ⟨6, 1, .w1c⟩, ⟨5, 1, .ro⟩, ⟨4, 1, .ro⟩, ⟨3, 1, .ro⟩, ⟨2, 1, .ro⟩, ⟨1, 1, .ro⟩, ⟨0, 1, .ro⟩]⟩,
  ⟨"LDR_OCC", 0x280010, 0x8, 1, true, none, [⟨32, 15, .ro⟩, ⟨16, 15, .ro⟩, ⟨0, 15, .ro⟩]⟩,
  ⟨"LDR_LIMITS", 0x280018, 0x8, 1, true, none, [⟨32, 15, .ro⟩, ⟨16, 15, .ro⟩, ⟨0, 15, .ro⟩]⟩,
  ⟨"LDR_PARITY_CFG", 0x280020, 0x8, 1, true, none, [⟨32, 14, .rw⟩, ⟨0, 14, .rw⟩]⟩,
  ⟨"LDR_DUMP_CFG", 0x280028, 0x8, 1, true, some (0x280000, 0x0, 4), [⟨16, 16, .rwl⟩, ⟨0, 16, .rwl⟩]⟩,
  ⟨"LDR_DUMP_STATUS", 0x280030, 0x8, 1, true, none, [⟨32, 32, .ro⟩, ⟨16, 16, .ro⟩, ⟨0, 4, .ro⟩]⟩,
  ⟨"LDR_BANK_RETIRE", 0x280038, 0x8, 1, true, none, [⟨0, 64, .w1s⟩]⟩,
  ⟨"LDR_FRONT", 0x280100, 0x10, 64, true, none, [⟨44, 20, .ro⟩, ⟨24, 20, .ro⟩, ⟨18, 6, .ro⟩, ⟨13, 5, .ro⟩, ⟨10, 3, .ro⟩, ⟨7, 3, .ro⟩, ⟨3, 4, .ro⟩, ⟨0, 1, .ro⟩]⟩]

/-- The registers of the Cellar (prefix CEL_). -/
def regsCellar : List RegSpec := [
  ⟨"CEL_PORT_CFG", 0x300000, 0x1000, 64, true, some (0x300000, 0x1000, 7), [⟨7, 1, .w1s⟩, ⟨4, 1, .rwl⟩, ⟨0, 2, .rwl⟩]⟩,
  ⟨"CEL_PORT_CTL", 0x300008, 0x1000, 64, false, none, [⟨4, 1, .w1s⟩, ⟨3, 1, .w1s⟩, ⟨2, 1, .w1s⟩, ⟨1, 1, .w1s⟩, ⟨0, 1, .rw⟩]⟩,
  ⟨"CEL_PORT_STATUS", 0x300010, 0x1000, 64, true, none, [⟨28, 4, .ro⟩, ⟨26, 2, .ro⟩, ⟨16, 8, .ro⟩, ⟨8, 4, .ro⟩, ⟨0, 4, .ro⟩]⟩,
  ⟨"CEL_LINK_CNT", 0x300018, 0x1000, 64, true, none, [⟨48, 16, .ro⟩, ⟨32, 16, .ro⟩, ⟨16, 16, .ro⟩, ⟨0, 16, .ro⟩]⟩,
  ⟨"CEL_LINK_ERR", 0x300020, 0x1000, 64, true, none, [⟨32, 32, .ro⟩, ⟨16, 16, .ro⟩, ⟨0, 16, .ro⟩]⟩,
  ⟨"CEL_TIMER_CFG", 0x300028, 0x1000, 64, true, some (0x300000, 0x1000, 7), [⟨32, 16, .rwl⟩, ⟨16, 8, .rwl⟩, ⟨8, 8, .rwl⟩, ⟨0, 8, .rwl⟩]⟩,
  ⟨"CEL_DIE_MAP", 0x300030, 0x1000, 64, true, none, [⟨32, 16, .w1s⟩, ⟨16, 16, .ro⟩, ⟨0, 16, .ro⟩]⟩,
  ⟨"CEL_BRIDGE_ID", 0x300040, 0x1000, 64, true, none, [⟨48, 16, .ro⟩, ⟨32, 16, .ro⟩, ⟨24, 8, .ro⟩, ⟨16, 8, .ro⟩, ⟨8, 8, .ro⟩, ⟨0, 8, .ro⟩]⟩,
  ⟨"CEL_SEQ_CTL", 0x300800, 0x1000, 64, false, none, [⟨18, 14, .rw⟩, ⟨4, 14, .rw⟩, ⟨3, 1, .rw⟩, ⟨2, 1, .rw⟩, ⟨1, 1, .w1s⟩, ⟨0, 1, .rw⟩]⟩,
  ⟨"CEL_SEQ_STATUS", 0x300808, 0x1000, 64, true, none, [⟨32, 14, .ro⟩, ⟨16, 7, .ro⟩, ⟨8, 6, .ro⟩, ⟨5, 1, .w1c⟩, ⟨4, 1, .ro⟩, ⟨0, 3, .ro⟩]⟩,
  ⟨"CEL_SEQ_TRAP", 0x300810, 0x1000, 64, true, none, [⟨32, 32, .ro⟩, ⟨16, 14, .ro⟩, ⟨8, 8, .ro⟩, ⟨0, 8, .ro⟩]⟩,
  ⟨"CEL_SEQ_ROWFMT", 0x300830, 0x1000, 64, true, some (0x300000, 0x1000, 7), [⟨16, 8, .rwl⟩, ⟨8, 6, .rwl⟩, ⟨0, 6, .rwl⟩]⟩,
  ⟨"CEL_DIE_QUEUE", 0x300038, 0x1000, 64, true, none, [⟨0, 64, .ro⟩]⟩,
  ⟨"CEL_SEQ_LOAD_ADDR", 0x300818, 0x1000, 64, false, none, [⟨3, 11, .rw⟩]⟩,
  ⟨"CEL_SEQ_LOAD_DATA", 0x300820, 0x1000, 64, false, none, [⟨0, 64, .wo⟩]⟩,
  ⟨"CEL_SEQ_MAIL", 0x300828, 0x1000, 64, false, none, [⟨0, 32, .wo⟩]⟩,
  ⟨"CEL_SEQ_ARRAY_OPS", 0x300838, 0x1000, 64, true, some (0x300000, 0x1000, 7), [⟨0, 64, .rwl⟩]⟩,
  ⟨"CEL_SEQ_OPLIMIT", 0x300840, 0x1000, 64, true, none, [⟨0, 16, .rw⟩]⟩,
  ⟨"CEL_REFCLK_CTL", 0x340000, 0x8, 1, true, none, [⟨0, 8, .rw⟩]⟩]

/-- The registers of the Laundry (prefix LND_). -/
def regsLaundry : List RegSpec := [
  ⟨"LND_CTL", 0x380000, 0x8, 1, true, none, [⟨4, 1, .w1s⟩, ⟨3, 1, .rw⟩, ⟨2, 1, .rw⟩, ⟨1, 1, .rw⟩, ⟨0, 1, .rw⟩]⟩,
  ⟨"LND_STATUS", 0x380008, 0x8, 1, true, none, [⟨32, 8, .ro⟩, ⟨24, 8, .ro⟩, ⟨16, 5, .ro⟩, ⟨0, 16, .ro⟩]⟩,
  ⟨"LND_POLICY", 0x380010, 0x8, 1, true, some (0x380000, 0x0, 4), [⟨56, 8, .rwl⟩, ⟨52, 4, .rwl⟩, ⟨44, 8, .rwl⟩, ⟨34, 10, .rwl⟩, ⟨28, 6, .rwl⟩, ⟨0, 28, .rwl⟩]⟩,
  ⟨"LND_TRACK_CFG", 0x380018, 0x8, 1, true, some (0x380000, 0x0, 4), [⟨48, 4, .rwl⟩, ⟨40, 8, .rwl⟩, ⟨24, 16, .rwl⟩, ⟨16, 8, .rwl⟩, ⟨12, 4, .rwl⟩, ⟨0, 12, .rwl⟩]⟩,
  ⟨"LND_LVL_IDX", 0x380020, 0x8, 1, false, none, [⟨10, 4, .rw⟩, ⟨6, 4, .rw⟩, ⟨0, 6, .rw⟩]⟩,
  ⟨"LND_LVL_DATA_LO", 0x380028, 0x8, 1, false, none, [⟨0, 64, .rw⟩]⟩,
  ⟨"LND_LVL_DATA_HI", 0x380030, 0x8, 1, false, none, [⟨0, 64, .rw⟩]⟩,
  ⟨"LND_LADDER", 0x380100, 0x8, 48, true, some (0x380000, 0x0, 4), [⟨32, 8, .rwl⟩, ⟨24, 8, .rwl⟩, ⟨16, 8, .rwl⟩, ⟨8, 4, .rwl⟩, ⟨4, 4, .rwl⟩, ⟨0, 4, .rwl⟩]⟩,
  ⟨"LND_PAGEMAP", 0x380400, 0x8, 24, true, some (0x380000, 0x0, 4), [⟨0, 64, .rwl⟩]⟩,
  ⟨"LND_AGE_BOUND", 0x380500, 0x8, 7, true, some (0x380000, 0x0, 4), [⟨0, 32, .rwl⟩]⟩,
  ⟨"LND_DESC_LVL", 0x3C0000, 0x8, 1, false, none, [⟨0, 64, .ro⟩]⟩,
  ⟨"LND_PORT_CNT", 0x3C0E00, 0x1000, 64, true, none, [⟨48, 16, .ro⟩, ⟨32, 16, .ro⟩, ⟨16, 16, .ro⟩, ⟨0, 16, .ro⟩]⟩,
  ⟨"LND_PORT_STATUS", 0x3C0E08, 0x1000, 64, true, none, [⟨32, 10, .ro⟩, ⟨12, 10, .ro⟩, ⟨6, 6, .ro⟩, ⟨0, 6, .ro⟩]⟩,
  ⟨"LND_PORT_CTL", 0x3C0E10, 0x1000, 64, false, none, [⟨12, 1, .w1s⟩, ⟨8, 4, .rw⟩, ⟨0, 1, .rw⟩]⟩]

/-- The registers of the Scullery (prefix SCU_). -/
def regsScullery : List RegSpec := [
  ⟨"SCU_CTL", 0x400000, 0x8, 1, true, none, [⟨5, 1, .w1s⟩, ⟨4, 1, .rw⟩, ⟨3, 1, .rw⟩, ⟨2, 1, .rw⟩, ⟨1, 1, .rw⟩, ⟨0, 1, .rw⟩]⟩,
  ⟨"SCU_STATUS", 0x400008, 0x8, 1, true, none, [⟨40, 1, .ro⟩, ⟨32, 8, .ro⟩, ⟨24, 8, .ro⟩, ⟨16, 8, .ro⟩, ⟨8, 8, .ro⟩]⟩,
  ⟨"SCU_RECLAIM_CFG", 0x400010, 0x8, 1, true, some (0x400000, 0x0, 5), [⟨48, 16, .rwl⟩, ⟨32, 8, .rwl⟩, ⟨16, 16, .rwl⟩, ⟨8, 8, .rwl⟩, ⟨0, 8, .rwl⟩]⟩,
  ⟨"SCU_WEAR_CFG", 0x400018, 0x8, 1, true, some (0x400000, 0x0, 5), [⟨32, 16, .rwl⟩, ⟨16, 16, .rwl⟩, ⟨0, 16, .rwl⟩]⟩,
  ⟨"SCU_CARE_CFG", 0x400020, 0x8, 1, true, some (0x400000, 0x0, 5), [⟨56, 8, .rwl⟩, ⟨48, 8, .rwl⟩, ⟨32, 16, .rwl⟩, ⟨0, 32, .rwl⟩]⟩,
  ⟨"SCU_PATROL_CFG", 0x400028, 0x8, 1, true, none, [⟨0, 6, .rw⟩]⟩,
  ⟨"SCU_PATROL_STATUS", 0x400030, 0x8, 1, true, none, [⟨32, 32, .ro⟩, ⟨16, 16, .ro⟩, ⟨15, 1, .ro⟩, ⟨0, 10, .ro⟩]⟩,
  ⟨"SCU_SPARE", 0x400038, 0x8, 1, true, none, [⟨32, 32, .ro⟩, ⟨0, 16, .ro⟩]⟩,
  ⟨"SCU_SUITE_IDX", 0x400040, 0x8, 1, false, none, [⟨0, 20, .rw⟩]⟩,
  ⟨"SCU_SUITE_DATA", 0x400080, 0x8, 16, false, none, [⟨0, 64, .ro⟩]⟩,
  ⟨"SCU_POOL", 0x400100, 0x8, 8, true, none, [⟨56, 8, .ro⟩, ⟨36, 18, .ro⟩, ⟨18, 18, .ro⟩, ⟨0, 18, .ro⟩]⟩]

/-- The registers of the Basement (prefix BSM_). -/
def regsBasement : List RegSpec := [
  ⟨"BSM_CTL", 0x480000, 0x8, 1, true, none, [⟨5, 2, .w1s⟩, ⟨4, 1, .w1s⟩, ⟨3, 1, .w1s⟩, ⟨2, 1, .rw⟩, ⟨0, 1, .rw⟩]⟩,
  ⟨"BSM_STATUS", 0x480008, 0x8, 1, true, none, [⟨18, 14, .ro⟩, ⟨16, 2, .ro⟩, ⟨4, 1, .ro⟩, ⟨3, 1, .ro⟩, ⟨2, 1, .ro⟩, ⟨1, 1, .ro⟩, ⟨0, 1, .ro⟩]⟩,
  ⟨"BSM_SCRUB_CFG", 0x480010, 0x8, 1, true, some (0x480000, 0x0, 4), [⟨0, 32, .rwl⟩]⟩,
  ⟨"BSM_SCRUB_STATUS", 0x480018, 0x8, 1, true, none, [⟨40, 24, .ro⟩, ⟨16, 24, .ro⟩, ⟨15, 1, .ro⟩, ⟨0, 10, .ro⟩]⟩,
  ⟨"BSM_ERR_CNT", 0x480020, 0x8, 1, true, none, [⟨48, 16, .ro⟩, ⟨32, 16, .ro⟩, ⟨16, 16, .ro⟩, ⟨0, 16, .ro⟩]⟩,
  ⟨"BSM_SUBCH_STATUS", 0x480028, 0x8, 2, true, none, [⟨48, 16, .ro⟩, ⟨32, 16, .ro⟩, ⟨20, 4, .ro⟩, ⟨18, 2, .ro⟩, ⟨0, 3, .ro⟩]⟩,
  ⟨"BSM_LOG_HEAD", 0x480038, 0x8, 1, true, none, [⟨32, 32, .ro⟩, ⟨0, 32, .ro⟩]⟩,
  ⟨"BSM_LOG", 0x481000, 0x8, 512, true, none, [⟨0, 64, .ro⟩]⟩,
  ⟨"BSM_REMAP", 0x482000, 0x8, 1024, true, none, [⟨63, 1, .rw⟩, ⟨62, 1, .ro⟩, ⟨0, 24, .rw⟩]⟩,
  ⟨"BSM_LDR_BANK_CNT", 0x484000, 0x8, 64, true, none, [⟨32, 32, .ro⟩, ⟨16, 16, .ro⟩]⟩]

/-- The registers of the Strongroom (prefix STG_). -/
def regsStrongroom : List RegSpec := [
  ⟨"STG_CTL", 0x500000, 0x8, 1, true, some (0x500000, 0x0, 2), [⟨2, 1, .w1s⟩, ⟨1, 1, .rwl⟩]⟩,
  ⟨"STG_STATUS", 0x500008, 0x8, 1, true, none, [⟨5, 1, .w1c⟩, ⟨4, 1, .ro⟩, ⟨3, 1, .ro⟩, ⟨2, 1, .ro⟩, ⟨1, 1, .ro⟩, ⟨0, 1, .ro⟩]⟩,
  ⟨"STG_LOCK", 0x500010, 0x8, 1, true, none, [⟨17, 1, .w1s⟩, ⟨16, 1, .w1s⟩, ⟨8, 4, .ro⟩, ⟨0, 3, .ro⟩]⟩,
  ⟨"STG_KME_CMD", 0x500018, 0x8, 1, false, none, [⟨0, 8, .wo⟩]⟩,
  ⟨"STG_KME_STATUS", 0x500020, 0x8, 1, true, none, [⟨8, 8, .ro⟩, ⟨0, 8, .ro⟩]⟩,
  ⟨"STG_KME_ARG", 0x500040, 0x8, 4, false, none, [⟨0, 64, .rw⟩]⟩,
  ⟨"STG_TAMPER", 0x500080, 0x8, 1, true, none, [⟨0, 6, .ro⟩]⟩,
  ⟨"STG_SVN", 0x500088, 0x8, 1, true, none, [⟨0, 64, .ro⟩]⟩,
  ⟨"STG_SLOT", 0x501000, 0x8, 256, true, none, [⟨32, 32, .ro⟩, ⟨24, 8, .ro⟩, ⟨18, 6, .ro⟩, ⟨8, 8, .ro⟩, ⟨0, 3, .ro⟩]⟩,
  ⟨"STG_RANGE", 0x502000, 0x8, 128, true, none, [⟨0, 64, .ro⟩]⟩]

/-- The registers of the Closet (prefix CLO_). -/
def regsCloset : List RegSpec := [
  ⟨"CLO_CTL", 0x580000, 0x8, 1, true, none, [⟨0, 1, .w1s⟩]⟩,
  ⟨"CLO_STATUS", 0x580008, 0x8, 1, true, none, [⟨24, 8, .ro⟩, ⟨16, 4, .ro⟩, ⟨8, 4, .ro⟩, ⟨4, 1, .ro⟩, ⟨3, 1, .w1c⟩, ⟨2, 1, .w1c⟩, ⟨0, 2, .ro⟩]⟩,
  ⟨"CLO_CMD", 0x580010, 0x8, 1, false, none, [⟨0, 4, .wo⟩]⟩,
  ⟨"CLO_ADDR", 0x580018, 0x8, 1, false, none, [⟨0, 26, .rw⟩]⟩,
  ⟨"CLO_PAGE", 0x580100, 0x8, 32, false, none, [⟨0, 64, .rw⟩]⟩,
  ⟨"CLO_WP", 0x580200, 0x8, 16, true, some (0x580000, 0x0, 0), [⟨0, 64, .rwl⟩]⟩,
  ⟨"CLO_WP_SET", 0x580280, 0x8, 16, false, none, [⟨0, 64, .w1s⟩]⟩]

/-- The registers of the Study (prefix STD_). -/
def regsStudy : List RegSpec := [
  ⟨"STD_SUP_STATUS", 0x600400, 0x8, 1, true, none, [⟨7, 1, .ro⟩, ⟨6, 1, .ro⟩, ⟨5, 1, .ro⟩, ⟨3, 2, .ro⟩, ⟨0, 3, .ro⟩]⟩,
  ⟨"STD_SUP_TRAP", 0x600408, 0x8, 1, true, none, [⟨32, 32, .ro⟩, ⟨16, 14, .ro⟩, ⟨8, 8, .ro⟩, ⟨0, 8, .ro⟩]⟩,
  ⟨"STD_WDOG_CFG", 0x600410, 0x8, 1, true, some (0x600410, 0x0, 31), [⟨31, 1, .w1s⟩, ⟨0, 16, .rwl⟩]⟩,
  ⟨"STD_WDOG_KICK", 0x600418, 0x8, 1, false, none, [⟨0, 1, .wo⟩]⟩,
  ⟨"STD_CONFIRM", 0x600480, 0x8, 1, true, none, [⟨32, 10, .ro⟩, ⟨6, 2, .ro⟩, ⟨4, 2, .ro⟩, ⟨2, 1, .ro⟩, ⟨1, 1, .ro⟩, ⟨0, 1, .w1s⟩]⟩,
  ⟨"STD_PWR_MODE", 0x600500, 0x8, 1, true, none, [⟨0, 3, .rw⟩]⟩,
  ⟨"STD_CLK_CTL", 0x600508, 0x8, 1, true, none, [⟨3, 1, .ro⟩, ⟨2, 1, .rw⟩, ⟨1, 1, .ro⟩, ⟨0, 1, .rw⟩]⟩,
  ⟨"STD_DOMAIN_EN", 0x600510, 0x8, 1, true, none, [⟨19, 8, .rw⟩, ⟨18, 1, .rw⟩, ⟨16, 2, .rw⟩, ⟨8, 8, .rw⟩, ⟨0, 4, .rw⟩]⟩,
  ⟨"STD_WAKE_EN", 0x600518, 0x8, 1, true, none, [⟨0, 7, .rw⟩]⟩,
  ⟨"STD_WAKE_STATUS", 0x600520, 0x8, 1, true, none, [⟨6, 1, .w1c⟩, ⟨5, 1, .w1c⟩, ⟨4, 1, .w1c⟩, ⟨3, 1, .w1c⟩, ⟨2, 1, .w1c⟩, ⟨1, 1, .w1c⟩, ⟨0, 1, .w1c⟩]⟩,
  ⟨"STD_PAD_RELEASE", 0x600528, 0x8, 1, false, none, [⟨0, 1, .w1s⟩]⟩,
  ⟨"STD_TIME", 0x600530, 0x8, 1, true, none, [⟨0, 64, .ro⟩]⟩,
  ⟨"STD_LSO_CAL", 0x600538, 0x8, 1, true, none, [⟨40, 16, .ro⟩, ⟨0, 40, .ro⟩]⟩,
  ⟨"STD_WAKE_TIMER", 0x600540, 0x8, 1, true, none, [⟨0, 32, .rw⟩]⟩,
  ⟨"STD_STRAPS", 0x600600, 0x8, 1, true, none, [⟨15, 1, .ro⟩, ⟨14, 1, .ro⟩, ⟨10, 1, .ro⟩, ⟨9, 1, .ro⟩, ⟨8, 1, .ro⟩, ⟨7, 1, .ro⟩, ⟨4, 3, .ro⟩, ⟨0, 2, .ro⟩]⟩]

/-- The registers of the Chimney (prefix CHM_). -/
def regsChimney : List RegSpec := [
  ⟨"CHM_CTL", 0x680000, 0x8, 1, true, none, [⟨16, 8, .rw⟩, ⟨12, 4, .rw⟩, ⟨8, 4, .rw⟩, ⟨0, 1, .rw⟩]⟩,
  ⟨"CHM_STATUS", 0x680008, 0x8, 1, true, none, [⟨41, 1, .ro⟩, ⟨40, 1, .ro⟩, ⟨32, 8, .ro⟩, ⟨16, 8, .ro⟩, ⟨12, 4, .ro⟩, ⟨8, 4, .ro⟩, ⟨4, 4, .ro⟩, ⟨0, 4, .ro⟩]⟩,
  ⟨"CHM_POWER", 0x680010, 0x8, 1, true, none, [⟨48, 4, .ro⟩, ⟨32, 16, .ro⟩, ⟨16, 16, .ro⟩, ⟨0, 16, .ro⟩]⟩,
  ⟨"CHM_VCORE", 0x680018, 0x8, 1, true, none, [⟨0, 8, .ro⟩]⟩,
  ⟨"CHM_SENSOR", 0x680100, 0x8, 25, true, none, [⟨32, 16, .ro⟩, ⟨24, 3, .ro⟩, ⟨16, 4, .ro⟩, ⟨0, 16, .ro⟩]⟩,
  ⟨"CHM_PORT_TEMP", 0x680200, 0x8, 64, true, none, [⟨32, 4, .ro⟩, ⟨16, 16, .ro⟩, ⟨0, 16, .ro⟩]⟩]

/-- The registers of the Attic (prefix ATC_). -/
def regsAttic : List RegSpec := [
  ⟨"ATC_CTL", 0x700000, 0x8, 1, true, some (0x700000, 0x0, 4), [⟨4, 1, .w1s⟩, ⟨3, 1, .rw⟩, ⟨0, 2, .rwl⟩]⟩,
  ⟨"ATC_STATUS", 0x700008, 0x8, 1, true, none, [⟨32, 32, .ro⟩, ⟨18, 2, .ro⟩, ⟨17, 1, .ro⟩, ⟨16, 1, .ro⟩, ⟨0, 16, .ro⟩]⟩,
  ⟨"ATC_POST_LO", 0x700010, 0x8, 1, false, none, [⟨0, 64, .wo⟩]⟩,
  ⟨"ATC_POST_HI", 0x700018, 0x8, 1, false, none, [⟨0, 64, .wo⟩]⟩,
  ⟨"ATC_POST_GO", 0x700020, 0x8, 1, false, none, [⟨16, 4, .wo⟩, ⟨0, 16, .wo⟩]⟩,
  ⟨"ATC_WIN_CURSOR", 0x701000, 0x1000, 3, true, none, [⟨0, 32, .rw⟩]⟩,
  ⟨"ATC_WIN_STATUS", 0x701008, 0x1000, 3, true, none, [⟨32, 32, .ro⟩, ⟨15, 1, .ro⟩, ⟨14, 1, .ro⟩, ⟨0, 7, .ro⟩]⟩,
  ⟨"ATC_WIN_DATA", 0x701800, 0x8, 1, true, none, [⟨0, 64, .ro⟩]⟩]

/-- The registers of the Stair (prefix STA_). -/
def regsStair : List RegSpec := [
  ⟨"STA_CTL", 0x780000, 0x8, 1, true, none, [⟨2, 1, .w1s⟩, ⟨1, 1, .rw⟩, ⟨0, 1, .rw⟩]⟩,
  ⟨"STA_STATUS", 0x780008, 0x8, 1, true, none, [⟨24, 8, .ro⟩, ⟨16, 8, .ro⟩, ⟨8, 4, .ro⟩, ⟨2, 1, .ro⟩, ⟨0, 2, .ro⟩]⟩,
  ⟨"STA_WORKER", 0x780100, 0x8, 8, true, none, [⟨32, 16, .ro⟩, ⟨24, 8, .ro⟩, ⟨16, 8, .ro⟩, ⟨8, 8, .ro⟩, ⟨0, 3, .ro⟩]⟩,
  ⟨"STA_WORKER_OFFSET", 0x780140, 0x8, 8, true, none, [⟨0, 64, .ro⟩]⟩,
  ⟨"STA_WORKER_PID", 0x780180, 0x8, 8, true, none, [⟨0, 64, .ro⟩]⟩,
  ⟨"STA_LINK", 0x780200, 0x8, 64, true, some (0x780000, 0x0, 2), [⟨4, 3, .rwl⟩, ⟨0, 3, .rwl⟩]⟩,
  ⟨"STA_WEIGHT", 0x780400, 0x8, 8, true, some (0x780000, 0x0, 2), [⟨0, 7, .rwl⟩]⟩]

/-- The reset word of the register at `i` of the summary row `r`. -/
def RegSpec.resetWord (r : RegSpec) (i : Nat) : Nat :=
  if r.base = 0x380100 then ladderReset (i % 16)
  else if r.base = 0x380500 then ageBoundReset i
  else if r.base = 0x8 then 0x70
  else if r.base = 0x100 then 0x30
  else if r.base = 0x100008 then 0x200000000000
  else if r.base = 0x200040 then 0x20
  else if r.base = 0x280008 then 0x4
  else if r.base = 0x280018 then 0x400040002000
  else if r.base = 0x280020 then 0x40000001800
  else if r.base = 0x300028 then 0x12C000F0820
  else if r.base = 0x300840 then 0x32
  else if r.base = 0x600400 then 0x9
  else if r.base = 0x600410 then 0x7D0
  else if r.base = 0x380000 then 0xC
  else if r.base = 0x380010 then 0x184202008016E360
  else if r.base = 0x380018 then 0x7020018188100
  else if r.base = 0x400010 then 0x1800180C08
  else if r.base = 0x400018 then 0x1801F40BB8
  else if r.base = 0x400020 then 0x3A8006400002238
  else if r.base = 0x400028 then 0x7
  else if r.base = 0x480010 then 0xE10
  else if r.base = 0x580200 then 0xFFFFFFFFFFFFFFFF
  else if r.base = 0x600518 then 0x1F
  else if r.base = 0x680000 then 0x555001
  else 0

/-- Every register the spec lays out (Table 0-6). -/
def regMap : List RegSpec :=
  regsPorch ++ regsHall ++ regsPantry ++ regsLarder ++ regsCellar ++ regsLaundry ++ regsScullery ++ regsBasement ++ regsStrongroom ++ regsCloset ++ regsStudy ++ regsChimney ++ regsAttic ++ regsStair

end Sys2Proof.Machine
end

