-- ==== Sys2Proof/Machine/State.lean ====
section
/-!
DEFINITION. The state of the block: every register, FIFO, buffer, counter and mode that the spec gives it, as plain data, with the queue
of the commands that wait; the reasons a step can stop; and the state after reset.
-/
namespace Sys2Proof.Machine


/-! ## The Porch (chapter 2) -/

/-- One host port. -/
structure HPort where
  perst : Bool := true
  up : Bool := false
  rate : Nat := 0
  width : Nat := 0
  flit : Bool := false
  lstate : Nat := 3
  d3 : Bool := false
  bme : Bool := false
  /-- CC.EN, CC.AMS, CSTS.RDY, CSTS.CFS, CSTS.SHST. -/
  en : Bool := false
  wrr : Bool := false
  rdy : Bool := false
  cfs : Bool := false
  shst : Nat := 0
  /-- Admin queue sizes (AQA). -/
  asqs : Nat := 2
  acqs : Nat := 2
  /-- MSI-X: function mask, vectors unmasked, pending bits; message signalled interrupts enabled (R65). -/
  msixOn : Bool := false
  fmask : Bool := false
  unmasked : List Nat := []
  pend : List Nat := []
  /-- Next data link sequence number expected (R47). -/
  dlSeq : Nat := 0
  /-- Completion timeout value, and tags timed out less than 1 s ago (R49). -/
  ctoOff : Bool := false
  tagMode : Nat := 0
  deadTags : List Nat := []
  /-- AER: uncorrectable and correctable errors logged. -/
  aer : List Nat := []
  ltrOn : Bool := false
  ltrSent : Option Nat := none
  ltrWant : Nat := 0
  l1Idle : Bool := false
  deriving DecidableEq, Repr

/-- One DMA channel (R66, R68). -/
structure DmaChan where
  /-- Outstanding: tag, command, unit. -/
  tags : List (Nat × Nat × Nat) := []
  haltCount : Nat := 0
  state : Nat := 0
  cause : Nat := 0
  /-- The halted command. -/
  cmd : Option Nat := none
  deriving DecidableEq, Repr

/-- The identity record's values in use (Table 2-2). -/
structure Identity where
  ssvid : Nat := 0
  ssid : Nat := 0
  msix : Nat := 0
  qpairs : Nat := 0
  pmAllow : Nat := 0
  maxRate : Nat := 7
  deriving DecidableEq, Repr

structure Porch where
  ports : Tbl HPort := []
  chans : Tbl DmaChan := []
  /-- The identity is fixed; it is the recovery identity; the worker role holds the lanes idle (R52 to R54). -/
  fixed : Bool := false
  recovery : Bool := false
  idle : Bool := false
  ident : Identity := {}
  nextTag : Nat := 0
  deriving DecidableEq, Repr

/-! ## The Hall (chapter 3) -/

/-- A range of 4 KiB units of a namespace that the overlap tracker holds (R88 to R90). `all`: every unit of every namespace. -/
structure Span where
  ns : Nat
  first : Nat
  count : Nat
  all : Bool := false
  deriving DecidableEq, Repr

/-- The state of one atomic unit of a writer (R93, R94). -/
inductive UnitSt where
  | waiting | committed | abandoned
  deriving DecidableEq, Repr

/-- One atomic unit of a writer: its extent, the 4 KiB units of it that the writer covers, the slot granted for each, and whether its
exception group is reserved (R94, R178). `tag` is its overlay commit. -/
structure WUnit where
  ns : Nat
  ext : Nat
  units : List Nat
  slots : Tbl Nat := []
  /-- Units whose blocks the writer covers in part: first block and count (R179). -/
  part : Tbl (Nat × Nat) := []
  group : Bool := false
  st : UnitSt := .waiting
  tag : Option Nat := none
  /-- The share that holds the extent, and whether SDONE SETTLED is still to come from its worker (R576, R584). -/
  share : Nat := 0
  unsettled : Bool := false
  deriving DecidableEq, Repr

/-- What one 4 KiB unit of a reader resolved to (Table 3-5, R174). -/
inductive Resolved where
  | larder (slot : Nat)
  | media (suite unit : Nat)
  | programming (suite unit : Nat)
  | zero
  | failed (sct sc : Nat)
  /-- Asked of the worker that holds its share (R581). -/
  | asked
  | done
  deriving DecidableEq, Repr

/-- Where a command stands between its stamp and the posting of its completion (R87). -/
inductive CtxSt where
  /-- Stamped; its own row has not run yet. -/
  | fresh
  /-- A writer that waits for its Larder reservation. -/
  | reserving
  | running
  | ready
  deriving DecidableEq, Repr

/-- A command context (R85 to R88). -/
structure Ctx where
  port : Nat
  sq : Nat
  cid : Nat
  cmd : HostCmd
  st : CtxSt := .fresh
  sct : Nat := 0
  sc : Nat := 0
  dw0 : Nat := 0
  reads : List Span := []
  writes : List Span := []
  wunits : List WUnit := []
  runits : Tbl Resolved := []
  resolved : Bool := false
  /-- Forced unit access, by the command or by write-through mode (R108, R223). -/
  fua : Bool := false
  /-- Flush: the ingest numbers of the writes in scope still to settle (R104). -/
  waitFor : List Nat := []
  /-- Its DMA channel. -/
  chan : Nat := 0
  /-- Host data requests outstanding, one entry for each tag: the unit it fetches. -/
  tags : List Nat := []
  /-- A write in a Flush's scope was lost before program pass (R109). -/
  hit : Bool := false
  /-- A request of the manager: the link and the tag it came on, its EPOCH, INGEST and SUB (R583). -/
  stair : Option (Nat × Nat × SReq) := none
  /-- It met a lock change of an older command at its ingest and is checked again when that has completed (R455). -/
  held : Bool := false
  /-- The first of its blocks to fail a protection check (R73). -/
  badLba : Option Nat := none
  deriving DecidableEq, Repr

/-- A submission queue and a completion queue (Table 3-1). -/
structure SubQ where
  size : Nat
  head : Nat := 0
  tail : Nat := 0
  prio : Nat := 0
  cq : Nat := 0
  deleting : Option Nat := none
  deriving DecidableEq, Repr

structure ComQ where
  size : Nat
  head : Nat := 0
  tail : Nat := 0
  phase : Bool := true
  iv : Nat := 0
  ien : Bool := true
  deriving DecidableEq, Repr

/-- The arbiter among a port's submission queues (R83): the queue whose turn it is with what its turn still allows, the queue last
served in each class, and the turns left to the weighted classes. -/
structure ArbSt where
  turn : Option (Nat × Nat) := none
  last : Tbl Nat := []
  credits : Tbl Nat := []
  deriving DecidableEq, Repr

/-- A settled write that a reset or a posted completion left behind: its atomic units still to be committed, programmed or journaled
(Table 3-9, R104, R120). -/
structure Tail where
  ns : Nat
  units : List WUnit
  host : Bool := true
  cmd : Option HostCmd := none
  /-- A worker sends SDONE SETTLED for it (R582). -/
  stair : Option (Nat × Nat × SReq) := none
  deriving DecidableEq, Repr

/-- An entry of log page C0h (Table 4-11). -/
structure DeferEnt where
  nsid : Nat
  cause : Nat
  armed : Bool := true
  coalesced : Bool := false
  slba : Nat
  nlb : Nat
  armIngest : Nat
  armTime : Nat
  port : Nat := 0xFFFF
  worker : Nat := 0xFF
  deriving DecidableEq, Repr

/-- A deferred error reported and not yet armed: its DEFER_ARM record is not durable (R111). -/
structure DeferWait where
  nsid : Nat
  first : Nat
  count : Nat
  cause : Nat
  port : Nat := 0xFFFF
  worker : Nat := 0xFF
  deriving DecidableEq, Repr

/-- An asynchronous event waiting for a request (R114, R146). -/
structure AsyncEv where
  typ : Nat
  info : Nat
  page : Nat
  port : Nat
  ns : Nat := 0
  deriving DecidableEq, Repr

/-- An APST entry: target state and idle time in milliseconds. -/
structure ApstEnt where
  target : Nat
  idleMs : Nat
  deriving DecidableEq, Repr

/-- The Hall. -/
structure Hall where
  next : Nat := 1
  ctxs : Tbl Ctx := []
  /-- By port × 65536 + queue. -/
  sqs : Tbl SubQ := []
  cqs : Tbl ComQ := []
  arb : Tbl ArbSt := []
  /-- The port that took the last fetch turn (R84). -/
  lastPort : Nat := 1
  /-- By ingest number: writes whose commands have ended and whose units have not settled. -/
  tails : Tbl Tail := []
  defer_ : List DeferEnt := []
  deferWait : List DeferWait := []
  deferGen : Nat := 0
  /-- The namespaces whose event for a deferred error is still unread (R114). -/
  deferUnread : List Nat := []
  events : List AsyncEv := []
  /-- Power state requested through each controller, and the APST table each host has set (R126, R132). -/
  reqState : Tbl Nat := []
  apst : Tbl (List ApstEnt) := []
  /-- The drain of a Firmware Commit activation: its ingest number (R123). -/
  activating : Option Nat := none
  /-- Log snapshots of pages C0h to C3h: port × 256 + page (R157). -/
  snaps : Tbl (List (Nat × Nat)) := []
  snapEnts : Tbl (List DeferEnt) := []
  /-- Die time of the running 10 ms window, by port: background, emergency, all; host work waited (R36). -/
  bgTime : Tbl Nat := []
  emTime : Tbl Nat := []
  hostWaited : List Nat := []
  /-- Coalesced completions by port × 65536 + vector (R146). -/
  coal : Tbl Nat := []
  deriving DecidableEq, Repr

/-! ## The NVM subsystem as the host sees it (chapter 4) -/

/-- A namespace (R143 to R145). -/
structure Nspace where
  fmt : Nat
  pi : Nat := 0
  pil : Bool := false
  extents : Nat
  attached : List Nat := []
  /-- The recorded generation of its media key: 1 from NS_CREATE, then as its newest FORMAT record says (R439). -/
  gen : Nat := 1
  /-- A Format runs on it: the ingest number (R152). -/
  formatting : Option Nat := none
  /-- The SES of the format that runs. -/
  fmtSes : Nat := 0
  deriving DecidableEq, Repr

/-- A lifetime entry of one port in log page C2h (Table 4-13). -/
structure PortLife where
  retries : Nat := 0
  retrains : Nat := 0
  soft : Nat := 0
  retryReads : Nat := 0
  uncorr : Nat := 0
  progFails : Nat := 0
  eraseFails : Nat := 0
  deriving DecidableEq, Repr

/-- The subsystem. -/
structure Nvm where
  spaces : Tbl Nspace := []
  /-- Features as the hosts have set them, by controller × 2^24 + FID × 2^16 + subindex; unset ones have their default. -/
  feats : Tbl Nat := []
  /-- Controllers whose Number of Queues was accepted since their last reset (R147). -/
  queuesSet : List Nat := []
  fdp : Bool := false
  /-- Error Information entries of each controller, newest first: number, queue, command identifier, SCT, SC, LBA, namespace (R155). -/
  errors : Tbl (List (List Nat)) := []
  changedNs : Tbl (List Nat) := []
  /-- Sanitize: the action under way, suites erased, or failed (R153). -/
  sanitize : Option Nat := none
  sanErased : Nat := 0
  sanFailed : Bool := false
  /-- The action of the newest Sanitize, 0 none (R153). -/
  sanLast : Nat := 0
  /-- The firmware download buffer: leaf digests of the portions held (R150). -/
  fwBuf : List Nat := []
  fwLen : Nat := 0
  /-- Lost ranges: namespace, first unit, count (R115). -/
  lost : List (Nat × Nat × Nat) := []
  tempHist : Tbl Nat := []
  ports : Tbl PortLife := []
  dstSeconds : Nat := 0
  /-- Media and Data Integrity Errors (R156). -/
  integrity : Nat := 0
  hostUnitsWritten : Nat := 0
  unitsRead : Nat := 0
  /-- Timestamp: value set in ms, and the time base then; Synch (R532). -/
  tsValue : Nat := 0
  tsBase : Nat := 0
  tsSynch : Bool := false
  /-- FDP events enabled: handle and type; those recorded, oldest first: type, handle, suite (R149, R378). -/
  fdpEvents : List (Nat × Nat) := []
  fdpLog : List (Nat × Nat × Nat) := []
  mediaUnits : Nat := 0
  erasedUnits : Nat := 0
  /-- The Critical Warning bits already notified (R156). -/
  warned : Nat := 0
  deriving DecidableEq, Repr

/-! ## The Pantry: the map, the overlay, the journal, the cache (chapter 5) -/

/-- What one 4 KiB unit is in the DRAM map (R172). -/
inductive UnitKind where
  | unmapped
  | media (suite unit : Nat)
  | zero
  | uncorr
  | lost
  deriving DecidableEq, Repr

/-- An exception entry: the unit's state, and its BADBLK mask (R172, R624). -/
structure UnitEnt where
  kind : UnitKind := .unmapped
  bad : Nat := 0
  deriving DecidableEq, Repr

/-- An extent entry (R171). -/
inductive ExtEnt where
  | unmapped
  | media (suite unit : Nat)
  | split (group : Nat)
  | zero
  | uncorr
  | lost
  | parked (suite unit : Nat) (second : Bool) (group : Nat)
  deriving DecidableEq, Repr

/-- The DRAM map: extent entries by their place in the extent map (chunk × 16,384 + entry), exception groups by their number, the
groups taken from the reserve (R168), and the chunk directory (R170): each namespace's chunks in order. -/
structure MapImg where
  ext : Tbl ExtEnt := []
  grp : Tbl (Tbl UnitEnt) := []
  resGrp : List Nat := []
  dir : Tbl (List Nat) := []
  deriving DecidableEq, Repr

/-- The state of an overlay entry (Table 5-5). A slot is kept while the entry is PROGRAMMING only where release waits for program
pass. -/
inductive OvState where
  | larder (slot : Nat)
  | programming (suite unit : Nat)
  | passed (suite unit : Nat)
  deriving DecidableEq, Repr

/-- An overlay entry, with the commit that made it and the BADBLK mask carried by the merge of R624 (R173). -/
structure OvEnt where
  st : OvState
  bad : Nat := 0
  commit : Nat
  deriving DecidableEq, Repr

/-- A journal record (Table 5-14). -/
structure JRec where
  typ : Nat
  flags : Nat := 0
  nsid : Nat := 0
  count : Nat := 0
  first : Nat := 0
  loc : Nat := 0
  tag : Nat := 0
  aux : Nat := 0
  deriving DecidableEq, Repr

/-- An overlay commit not yet emitted (R194): at most one extent. -/
structure Commit where
  nsid : Nat
  extent : Nat
  units : List Nat
  ingest : Nat
  /-- A group reserved for it under R178, if any. -/
  group : Bool := false
  deriving DecidableEq, Repr

/-- What the durability of a commit waits for (R108, R194): a journal record, or the commit that superseded a unit of it. -/
inductive Dep where
  | rcd (n : Nat)
  | tag (t : Nat)
  deriving DecidableEq, Repr

/-- A closed batch of journal pages, with the copies of it that have passed program (R191, R195). -/
structure JBatch where
  firstSeq : Nat
  recs : List JRec
  passed : List Nat := []
  deriving DecidableEq, Repr

/-- The state of a cache way (Table 5-8). -/
inductive LineState where
  | invalid | filling | clean | dirty | writingBack
  deriving DecidableEq, Repr

/-- A way of a cache set. -/
structure CLine where
  tag : Nat
  st : LineState
  evictFirst : Bool := false
  /-- A write waits for the fill and makes the installed line Dirty; a clean-and-invalidate or an eviction is under way. -/
  thenDirty : Bool := false
  deriving DecidableEq, Repr

/-- A set: its ways by number and its pseudo-LRU tree, bit i the node i (R182). -/
structure CSet where
  ways : Tbl CLine := []
  plru : Nat := 0
  deriving DecidableEq, Repr

/-- A maintenance operation waiting behind a fill (R186, R207). -/
structure MaintOp where
  op : Nat
  la : Nat
  deriving DecidableEq, Repr

/-- A checkpoint copy of one 16 MiB segment (R196), with the record number it was taken at. -/
structure SegCopy where
  ext : Tbl ExtEnt := []
  grp : Tbl (Tbl UnitEnt) := []
  atSeq : Nat := 0
  deriving DecidableEq, Repr

/-- What the journal stream and the checkpoints hold on the flash: it outlives every reset. -/
structure MapFlash where
  /-- Durable records of the kept range, oldest first, each with its number. -/
  journal : List (Nat × JRec) := []
  copies : Tbl SegCopy := []
  prevCopies : Tbl SegCopy := []
  lapDone : Nat := 0
  /-- Record numbers of LAP_BEGIN of the newest and of the second-newest complete lap. -/
  lapBegin : Nat := 0
  prevLapBegin : Nat := 0
  resGrp : List Nat := []
  dir : Tbl (List Nat) := []
  deriving DecidableEq, Repr

/-- The Pantry. -/
structure Pantry where
  img : MapImg := {}
  /-- By namespace × 2^40 + unit. -/
  overlay : Tbl OvEnt := []
  ovHigh : Nat := 0
  /-- By commit tag. -/
  commits : Tbl Commit := []
  nextTag : Nat := 1
  /-- By commit tag: what its durability still waits for (R194). -/
  deps : Tbl (List Dep) := []
  /-- Groups reserved by writers, and extents under the hold of R178 (place of the extent entry, ingest number). -/
  grpReserved : Nat := 0
  holds : List (Nat × Nat) := []
  /-- Journal: number of the next record, highest durable number, page number, the open batch, the batches being programmed. -/
  nextSeq : Nat := 0
  durable : Option Nat := none
  pageSeq : Nat := 0
  openBatch : List JRec := []
  openFirst : Nat := 0
  closed : List JBatch := []
  flash : MapFlash := {}
  /-- The lap under way: its number, segments done, where its LAP_BEGIN stands. -/
  lap : Option (Nat × Nat × Nat) := none
  /-- The cache by set; fills and write-backs in flight; maintenance waiting. -/
  cache : Tbl CSet := []
  maintQ : List MaintOp := []
  invSweep : Bool := false
  /-- Segments being repaired (R190), suites marked for erase and not yet erasable, suites the Cellar may erase (R199). -/
  eraseMarks : List (Nat × Nat) := []
  erasable : List Nat := []
  /-- Reader pins, one entry for each pin: suite and unit (R95). -/
  pins : List (Nat × Nat × Nat) := []
  consolidating : Bool := false
  /-- The clean shutdown record stands at the end of the journal (R198). -/
  cleanEnd : Bool := false
  holePage : Option Nat := none
  deriving DecidableEq, Repr

/-! ## The Larder (chapter 6) -/

/-- A slot in use: the descriptor of Table 6-1 with the data and the metadata record (R211). -/
structure Slot where
  st : Nat
  stream : Nat := 0
  front : Nat := 0xFF
  poison : Bool := false
  merge : Bool := false
  ns : Nat := 0
  unit : Nat := 0
  ingest : Nat := 0
  row : Nat := 0
  pos : Nat := 0
  pins : Nat := 0
  data : Blk := 0
  md : Meta := 0
  /-- The overlay commit; reclaim copies: source suite and unit. -/
  tag : Nat := 0
  src : Option (Nat × Nat) := none
  /-- Sent to a die; its wordline has passed and only PINS hold it (R221). -/
  sent : Bool := false
  passed : Bool := false
  deriving DecidableEq, Repr

/-- One position of a die wordline as the Larder remembers it after it was sent. -/
structure WlCell where
  slot : Nat
  pad : Bool := false
  ns : Nat := 0
  unit : Nat := 0
  tag : Nat := 0
  reclaim : Bool := false
  src : Option (Nat × Nat) := none
  released : Bool := false
  deriving DecidableEq, Repr

/-- A data member of a live row: its number, the first data unit of its wordline, and whether it is sent (0), accepted (1), passed (2),
failed (3) or being rebuilt (4). -/
structure RowMember where
  m : Nat
  base : Nat
  st : Nat := 0
  cells : List WlCell := []
  deriving DecidableEq, Repr

/-- A live parity row (Table 6-4): 0 filling, 1 complete, 2 passed; `rebuild` while a member is being rebuilt. -/
structure PRow where
  suite : Nat
  no : Nat
  st : Nat := 0
  acc : List Nat := []
  mem : List RowMember := []
  /-- The last data member has been sent. -/
  closed : Bool := false
  paritySt : Nat := 0
  lost : Bool := false
  rebuild : Bool := false
  /-- It is the last row of its suite; the suite was ended before it was full. -/
  last : Bool := false
  /-- R230: the parity member failed, and the row's data is being relocated. -/
  moving : Bool := false
  deriving DecidableEq, Repr

/-- A stream front (R215, R216, R250). -/
structure Front where
  stream : Nat
  suite : Option Nat := none
  cell : Nat := 3
  rg : Nat := 0
  sg : Option Nat := none
  handle : Nat := 0xFF
  row : Nat := 0
  /-- The data members of the current row still to be filled. -/
  left : List Nat := []
  rowOpen : Bool := false
  nextUnit : Nat := 0
  buf : List Nat := []
  rows : List PRow := []
  wait : Nat := 0
  ending : Bool := false
  /-- Its partial wordline is to be sealed as soon as a wait allows (R218, R234). -/
  sealing : Bool := false
  stamp : Nat := 0
  deriving DecidableEq, Repr

/-- A rebuild under way (R228): the front, row and member, and by position what has been XORed, with the members still to be read. -/
structure Rebuild where
  front : Nat
  suite : Nat
  row : Nat
  member : Nat
  /-- Member reads outstanding, as source × 64 + position. -/
  need : List Nat
  acc : Tbl (Blk × Meta)
  failed : Nat := 0
  deriving DecidableEq, Repr

/-- What the dump of R236 was fixed to at the freeze: the overlay and its commits, the host slots, the atomic units fully admitted and not
yet committed (ingest, unit, whether its command forces unit access), and the journal tail; of a manifest-only dump (R241) the slots
are left out. -/
structure DumpImg where
  manifestOnly : Bool := false
  overlay : Tbl OvEnt := []
  commits : Tbl Commit := []
  slots : Tbl Slot := []
  units : List (Nat × WUnit) := []
  tail : List (Nat × JRec) := []
  nextTag : Nat := 1
  cycle : Nat := 0
  deriving DecidableEq, Repr

structure Larder where
  slots : Tbl Slot := []
  /-- The bank that supplied the last slot (R212). -/
  lastBank : Nat := 63
  fronts : Tbl Front := []
  rebuilds : List Rebuild := []
  /-- Program inhibits (Table 6-6): dies by 16 × port + die with the count of good readings, and port groups; since when. -/
  hot : Tbl Nat := []
  droop : List Nat := []
  inhibitNoted : List Nat := []
  excluded : List Nat := []
  /-- Writes completed before write-through began, still to settle (R223). -/
  settling : List Nat := []
  wt : Bool := false
  /-- The dump: wave reached, directory copies passed, power cycle (R236). -/
  dump : Nat := 0
  draining : Bool := false
  /-- The last dump on the flash, and RESULT where none was made (R249). -/
  dumpImg : Option DumpImg := none
  lossResult : Nat := 0
  deriving DecidableEq, Repr

/-! ## Die operations and who issued them (R277, Table 8-10) -/

/-- The engine that issued a die operation, and what it is for. -/
inductive Issuer where
  | hostRead (ingest ns unit : Nat)
  | merge (ingest slot : Nat)
  | data (front suite row member : Nat)
  | parity (front suite row : Nat)
  | rebuild (front suite row member src pos : Nat)
  | recompute (front suite row src pos : Nat)
  | stripe (job member : Nat)
  | copy (slot suite unit : Nat)
  | patrol (suite unit : Nat)
  | cal (group : Nat)
  | erase (suite member : Nat)
  | dump (wave : Nat)
  | fold (suite row member : Nat)
  | test
  deriving DecidableEq, Repr

/-- A die operation (R277): what the descriptor of Table 8-10 says of it and what the engines need. -/
structure DieOp where
  id : Nat := 0
  kind : Nat
  die : Nat
  planes : Nat := 0
  cwCount : Nat := 0
  cwPerPlane : Nat := 0
  cwFirst : Nat := 0
  cell : Nat := 0
  block : Nat := 0
  page : Nat := 0
  cls : Nat := 0
  pass : Nat := 0
  bgClass : Nat := 0
  step : Nat := 0
  reissue : Bool := false
  arg : Nat := 0
  slots : List Nat := []
  /-- The suite and the first data unit it names, where it names one. -/
  suite : Option Nat := none
  unit : Nat := 0
  issuer : Issuer
  deriving DecidableEq, Repr

/-- How a die operation ends for its engine (R279, R310). -/
inductive OpResult where
  | pass | fail | noStatus | retired
  deriving DecidableEq, Repr

/-! ## The Cellar: Otcon ports and die schedulers (chapter 7) -/

/-- Where the payload of an outgoing frame comes from (R265): a replay rebuilds the frame from it. -/
inductive TxSrc where
  | cmd (kind planes cwCount block page busyMax : Nat) (cycles : List (Nat × Nat))
  | wdata (slot : Nat)
  | link (sub arg : Nat) (data : List Nat)
  | stair (typ : Nat) (payload : StairMsg)
  | ack
  deriving DecidableEq, Repr

/-- An outgoing frame. -/
structure TxFrame where
  typ : Nat
  die : Nat := 0
  tag : Nat := 0
  cwIndex : Nat := 0
  last : Bool := false
  src : TxSrc
  seq : Nat := 0
  retx : Bool := false
  /-- Host-class (R269). -/
  host : Bool := true
  /-- The ring entry whose CMD or WDATA it is, if any. -/
  desc : Option Nat := none
  deriving DecidableEq, Repr

/-- A control operation issued by MCTL and not closed (R308, R309). -/
structure CtlOp where
  die : Nat
  kind : Nat
  tag : Nat
  param : Bool
  deriving DecidableEq, Repr

/-- One Cellar port. -/
structure OtPort where
  /-- Receive side of R264: the next SEQ accepted, the EXPECTED a NAK was last sent for, the ACK timer running, and what is
  owed to the peer. No sequenced frame has yet been accepted while `rxAny` is false (R266). -/
  expected : Nat := 0
  rxAny : Bool := false
  nakFor : Option Nat := none
  ackTimer : Bool := false
  ackDue : Bool := false
  nakDue : Bool := false
  /-- Transmit side of R265: next SEQ, unacknowledged frames oldest first, the last SEQ acknowledged, the replay round, the
  frames still to be resent in the round under way. -/
  txSeq : Nat := 0
  unacked : List TxFrame := []
  acked : Nat := 0xFFF
  replayRound : Nat := 0
  replay : List TxFrame := []
  /-- Credits (R267), and buffers of this receiver in use. -/
  creditData : Nat := 0
  creditCmd : Nat := 0
  rxCmdUsed : Nat := 0
  /-- Whether each of the last 19 frame slots carried a data frame, newest first (R261). -/
  slots : List Bool := []
  /-- Frames waiting to be sent, by the lines of Table 7-11. -/
  linkQ : List TxFrame := []
  cmdHost : List TxFrame := []
  wdHost : List TxFrame := []
  cmdBg : List TxFrame := []
  wdBg : List TxFrame := []
  tempQ : List TxFrame := []
  /-- Training: attempts since TRAIN, HELLO frames taken and sent, the peer's maximum, SWITCH sent and received, presets found. -/
  attempts : Nat := 0
  helloRx : Nat := 0
  helloTx : Nat := 0
  peerVer : Nat := 0
  switchTx : Bool := false
  switchRx : Bool := false
  eqRx : Bool := false
  eqTx : Bool := false
  txPreset : Nat := 0
  /-- Recalibration due; when and at what temperature the last one was (R272). -/
  recalDue : Bool := false
  recalDoneTx : Bool := false
  recalDoneRx : Bool := false
  lastRecalSec : Nat := 0
  lastRecalTemp : Int := 0
  /-- Operating seconds of the counted retrains, newest first (R273). -/
  retrains : List Nat := []
  everActive : Bool := false
  /-- Recorded in the retirement table: the port is not trained again (R273). -/
  retired : Bool := false
  /-- Die queues (R277), and the ring entry running, and the one suspended, on each die. -/
  dieQ : Tbl (List DieOp) := []
  running : Tbl Nat := []
  suspended : Tbl Nat := []
  /-- By frame tag: the die, and the CMDs still to close, of a descriptor that ended before every CMD closed (R310). -/
  lingering : Tbl (Nat × Nat) := []
  ctl : List CtlOp := []
  nextCtlTag : Nat := 64
  /-- Operations the engines have offered and that no die queue has taken yet. -/
  offers : List DieOp := []
  /-- Outcomes a retirement handed to the sequencer. -/
  lastTemp : Tbl Int := []
  deriving DecidableEq, Repr

/-- The Cellar. -/
structure Cellar where
  ports : Tbl OtPort := []
  /-- The number the next die operation takes. -/
  nextOp : Nat := 0
  /-- Ports in the Scullery's retirement table, which outlives power cycles (R273). -/
  retiredTable : List Nat := []
  deriving DecidableEq, Repr

/-! ## The Gynum sequencers (chapter 8) -/

/-- What the hardware keeps beside a ring entry of the descriptor ring (R308 to R313): the operation it came from, the
CMD frames sent and not closed, the codewords brought so far, and what has been earned. -/
structure DescHw where
  op : DieOp
  /-- CMD frames without a closing status, each with the running codeword total it brought (R309, R310). -/
  open_ : List Nat := []
  /-- CMD frames still queued to the die, not yet sent (R312). -/
  queued : Nat := 0
  cwSent : Nat := 0
  accepted : Bool := false
  passed : Bool := false
  xferDone : Bool := false
  verifyPass : Bool := false
  cwDone : Nat := 0
  cwSoft : Nat := 0
  limitRaised : Bool := false
  /-- Time base at suspension, and ticks spent suspended since the grant (R317). -/
  suspAt : Nat := 0
  suspTicks : Nat := 0
  /-- Ended by the hardware (R310); an ODONE for it is ignored. -/
  ended : Bool := false
  deriving DecidableEq, Repr

/-- A WAIT under way: destination register, selected codes, and the time base at which it times out, if any (R305). -/
structure WaitRec where
  rd : Nat
  mask : Nat
  deadline : Option Nat
  deriving DecidableEq, Repr

/-- One sequencer: 0 to 63 the port sequencers, 64 the supervisor (R293). -/
structure Seq where
  /-- g1 to g31; g0 is never listed (R301). -/
  g : Tbl U64 := []
  pc : Nat := 0
  t : Bool := false
  /-- The return stack, newest first, at most 8 entries. -/
  rstack : List Nat := []
  /-- Local RAM, byte by byte; bytes not listed are 0. -/
  ram : Tbl Byte := []
  /-- Uncorrectable casement words of the local RAM, by local address / 32 (R297). -/
  bad : List Nat := []
  epc : Nat := 0
  cause : Nat := 0
  badaddr : Nat := 0
  savedT : Bool := false
  inTrap : Bool := false
  trapCount : Nat := 0
  /-- The event queue, oldest first, at most 64, and the events that sources hold while it is full (R306). -/
  evq : List U64 := []
  held : List U64 := []
  mailLost : Bool := false
  /-- STATE of Table 8-18. -/
  state : Nat := 0
  wait : Option WaitRec := none
  /-- The hardware side of ring entries 0 to 31. -/
  descs : Tbl DescHw := []
  /-- An OP_LIMIT waiting for the next instruction boundary outside a trap handler (R317). -/
  limitPend : List Nat := []
  /-- A PARAM control operation is outstanding (R314). -/
  paramBusy : Bool := false
  deriving DecidableEq, Repr

/-! ## The Laundry (chapter 9) -/

/-- A failing codeword of a climb: senses held at the present row, whether it has a result there, and whether it is handed to another
recovery. -/
structure ClimbCw where
  senses : Nat := 0
  failed : Bool := false
  /-- The probe's found bind word, if it decoded (R346, R347): kind, suite, index. -/
  found : Option (Nat × Nat × Nat) := none
  deriving DecidableEq, Repr

/-- The ladder of one descriptor (R344 to R346). -/
structure Climb where
  /-- The tracked set at handover (R340). -/
  base : Nat := 0
  row : Nat := 0
  cws : Tbl ClimbCw := []
  valley : Option Nat := none
  probed : Bool := false
  extra : Bool := false
  stop : Bool := false
  softRows : Bool := false
  /-- Codewords of other descriptors that joined at the same location (R349): port, operation, codeword. -/
  joined : List (Nat × DieOp × Nat) := []
  deriving DecidableEq, Repr

/-- A soft job (R336). -/
structure SoftJob where
  n : Nat
  i : Nat
  cw : Nat
  cls : Nat
  row : Nat
  running : Bool := false
  deriving DecidableEq, Repr

/-- A stripe recovery (R348): the codeword it stands for, its location, the data members and parity still to read, and the XOR so far. -/
structure StripeJob where
  id : Nat
  n : Nat
  op : DieOp
  cw : Nat
  suite : Nat
  unit : Nat
  soft : Bool := false
  need : List Nat
  data : Blk := 0
  md : Meta := 0
  failed : Bool := false
  portLost : Bool := false
  /-- Codewords that joined it (R349): port, descriptor's operation, codeword. -/
  joined : List (Nat × DieOp × Nat) := []
  deriving DecidableEq, Repr

/-- A calibration queued or running (R342). -/
structure CalJob where
  n : Nat
  die : Nat
  group : Nat
  started : Bool := false
  /-- Units whose second read waits for it (R352): suite and unit. -/
  waiters : List (Nat × Nat) := []
  deriving DecidableEq, Repr

/-- A decoded codeword of a host read that waits for a DMA channel (R354): 64 as source for Larder streams. -/
structure HostWord where
  src : Nat
  ingest : Nat
  unit : Nat
  data : Blk
  md : Meta
  pin : Option (Sum Nat (Nat × Nat)) := none
  deriving DecidableEq, Repr

structure Laundry where
  /-- Tracked level sets as 16-byte words, by (port × 16 + die) × 16 + group (R339). -/
  sets : Tbl Nat := []
  up : Tbl Nat := []
  dn : Tbl Nat := []
  /-- LND_DESC_LVL by (port × 32 + descriptor) × 8 + sense. -/
  descLvl : Tbl Nat := []
  climbs : Tbl Climb := []
  credit : Nat := 16
  jobs : List SoftJob := []
  stripes : List StripeJob := []
  nextStripe : Nat := 0
  cals : List CalJob := []
  lastCal : Tbl Nat := []
  words : List HostWord := []
  /-- Codewords handed over and not yet taken, by port × 2 + host port (R354). -/
  pace : Tbl Nat := []
  /-- Units read once more after a calibration (R352). -/
  second : List (Nat × Nat) := []
  deriving DecidableEq, Repr

/-! ## The Scullery (chapter 10) -/

/-- A suite record (Table 10-2). -/
structure Suite where
  st : Nat := 0
  cell : Nat := 0
  stream : Nat := 0
  rg : Nat := 0
  handle : Nat := 0xFF
  unprotected : Bool := false
  refreshDue : Bool := false
  suspect : Bool := false
  foldSource : Bool := false
  short : Bool := false
  static : Bool := false
  members : Nat := 0
  eraseCount : Nat := 0
  dataUnits : Nat := 0
  programHour : Nat := 0
  closeHour : Nat := 0
  filled : Nat := 0
  foldDest : Nat := 0
  ledgerLoc : Nat := 0
  /-- Member and first row without it (at most four). -/
  removed : List (Nat × Nat) := []
  /-- Page reads by member. -/
  reads : Tbl Nat := []
  /-- Rows of a fold source already folded. -/
  folded : Nat := 0
  deriving DecidableEq, Repr

/-- Reclaim, refresh or static wear under way in a reclaim group (Table 10-8). -/
structure Recl where
  suite : Nat
  cause : Nat
  /-- Live units still to copy: namespace, unit, data unit of the source. -/
  left : List (Nat × Nat × Nat)
  deriving DecidableEq, Repr

/-- A consolidation under way (R181, R388): the group read at the start and its entries. -/
structure Cons where
  nsid : Nat
  ext : Nat
  group : Nat
  ents : Tbl UnitEnt
  /-- The 256 slots of the copy, in unit order, and the reclaim group of the extent's lowest media unit. -/
  slots : List Nat := []
  rg : Nat := 0
  deriving DecidableEq, Repr

/-- The image's geometry table (R215, R368): planes, blocks, wordlines of a block, native cell mode, multi-pass programming, the program
temperature range in 0.5 °C. -/
structure Geo where
  planes : Nat := 4
  blocks : Nat := 0
  rows : Nat := 0
  cell : Nat := 3
  multi : Bool := false
  tMin : Int := 0
  tMax : Int := 170
  deriving DecidableEq, Repr

/-- A reclaim copy that has passed program and is not yet relocated: the unit, its source and its new location (suite and data unit), and
whether it belongs to a consolidation (Tables 10-8 and 5-7). -/
structure Copied where
  nsid : Nat
  unit : Nat
  src : Nat × Nat
  dst : Nat × Nat
  cons : Bool := false
  deriving DecidableEq, Repr

structure Scullery where
  geo : Geo := {}
  suites : Tbl Suite := []
  /-- Bad blocks by (16 × port + die) × 2^15 + block. -/
  badBlocks : List Nat := []
  retiredDies : List Nat := []
  recl : Tbl Recl := []
  /-- Groups with the emergency licence (R38). -/
  emerg : List Nat := []
  reclaiming : List Nat := []
  /-- The suite held back for each reclaim group (R375). -/
  heldBack : Tbl Nat := []
  /-- Erases issued: suite and the members still to report (R383). -/
  erasing : Tbl (List Nat) := []
  cons : Option Cons := none
  consCursor : Nat := 0
  copied : List Copied := []
  /-- Suspect list: die, block, hour (R394). -/
  suspects : List (Nat × Nat × Nat) := []
  addrNotices : List (Nat × Nat) := []
  permanent : List Nat := []
  lapStart : Nat := 0
  lapPos : Nat := 0
  lapRow : Nat := 0
  lastStatic : Tbl Nat := []
  initialSpare : Option Nat := none
  snap : Nat := 0
  snapRec : Suite := {}
  snapValid : Nat := 0
  /-- Ledger runs of each suite: namespace, first unit, first data unit, count (R373). -/
  ledger : Tbl (List (Nat × Nat × Nat × Nat)) := []
  /-- Lifetime counts already added (R399). -/
  counted : Tbl (List Nat) := []
  foldStopped : List Nat := []
  /-- Retired ports whose ledgers are still to be walked (R396). -/
  walk : List Nat := []
  deriving DecidableEq, Repr

/-! ## The Basement (chapter 11) -/

/-- A casement word (Table 11-1): 256 data bits, transoms, mullions, sill. -/
structure Casement where
  d : BitVec 256 := 0
  t : BitVec 16 := 0
  m : BitVec 16 := 0
  sill : Bool := false
  deriving DecidableEq, Repr

/-- A DRAM burst (Table 11-3): two casements and the lintel. -/
structure Burst where
  c0 : Casement := {}
  c1 : Casement := {}
  addr : Nat
  gen : Nat
  deriving DecidableEq, Repr

/-- An entry of the error log (Table 11-7). -/
structure BsmLog where
  seq : Nat
  cls : Nat
  arr : Nat
  flags : Nat
  word : Nat
  synd : Nat
  deriving DecidableEq, Repr

/-- What a DRAM subchannel counts (R413, R424): replays of the command being issued; operating seconds of its counted retrains and of
lintel mismatches that a reread did not repeat. -/
structure SubCh where
  replays : Nat := 0
  retrains : List Nat := []
  mism : List Nat := []
  deriving DecidableEq, Repr

structure Basement where
  /-- Fitted DRAM in GiB, both subchannels together (G of Table 5-1). -/
  gib : Nat := 64
  /-- The bursts written since the last clear, by subchannel × 2^58 + location; the others are as the clear left them. -/
  dram : Tbl Burst := []
  /-- The newest 256 entries, oldest first. -/
  log : List BsmLog := []
  logNext : Nat := 0
  subs : Tbl SubCh := []
  /-- Clears since power-on reset (R414). -/
  clears : Nat := 0
  scrubPos : Nat := 0
  lapStart : Nat := 0
  /-- Words already reported uncorrectable: array × 2^60 + word (R420). -/
  reported : List Nat := []
  /-- A remap entry whose copy runs, with the spare it reads where its page was remapped before (R427). -/
  copies : Tbl (Option Nat) := []
  /-- Pages written and not yet in force, by entry. -/
  copyPage : Tbl Nat := []
  /-- Subchannels in the configuration store's retirement record (R425). -/
  retiredRec : List Nat := []
  deriving DecidableEq, Repr

/-! ## The Strongroom (chapter 12) -/

/-- The binding of a stored key (R436, R439). -/
structure Binding where
  kind : Nat
  nsid : Nat := 0
  range : Nat := 0
  auth : Nat := 0
  deriving DecidableEq, Repr

/-- A blob (Table 12-1). The wrapped field is held as the key-encryption key it is wrapped under and the key; `intact` is whether MAGIC,
VERSION, CRC and the checks of R437 hold of the stored bytes. -/
structure Blob where
  bind : Binding
  gen : Nat := 1
  seq : Nat := 0
  sector : Nat := 394
  keyLen : Nat := 64
  salt : Nat := 0
  kek : BitVec 256
  key : Key
  intact : Bool := true
  deriving DecidableEq, Repr

/-- A key slot (Table 12-14): 0 EMPTY, 1 VALID, 2 FAILED, 3 ZEROISED. -/
structure KeySlot where
  st : Nat := 0
  bind : Binding := { kind := 0 }
  gen : Nat := 0
  key : Key := 0
  deriving DecidableEq, Repr

/-- A locking range (Table 12-15), with the generation of its key in the locking table, the authorities that may unlock it, and a change
under R455 by the command stamped `pend`. Entry 0 of a namespace is its global range, held at 64 + NSID. -/
structure LockRange where
  nsid : Nat := 0
  start : Nat := 0
  len : Nat := 0
  slot : Nat := 0
  rle : Bool := false
  wle : Bool := false
  rl : Bool := false
  wl : Bool := false
  pend : Option Nat := none
  gen : Nat := 1
  auths : List Nat := []
  /-- A KIND 0x4 blob waits for the first Authenticate (R457). -/
  pending : Bool := false
  deriving DecidableEq, Repr

/-- An operation of the key-management engine (Table 12-4). -/
structure KmeOp where
  op : Nat
  owner : Nat
  bind : Binding := { kind := 0 }
  slot : Nat := 0
  cred : Nat := 0
  newAuth : Nat := 0
  newCred : Nat := 0
  digest : Nat := 0
  arg : Nat := 0
  deriving DecidableEq, Repr

/-- A TCG session of a port's ComID (R452). -/
structure TcgSession where
  sp : Nat
  auth : Nat
  cred : Nat := 0
  deriving DecidableEq, Repr

/-- What an SPDM requester has agreed at one MCTP endpoint (R458). -/
structure SpdmSt where
  ver : Nat := 0
  caps : Bool := false
  algs : Bool := false
  /-- A response still to be fetched by CHUNK_GET: its parts in order. -/
  chunks : List Nat := []
  deriving DecidableEq, Repr

/-- The fuses of the Strongroom and the Closet (R432, R460, R462). -/
structure Fuses where
  root : BitVec 256 := 0
  /-- Digests of the author key sets, by number. -/
  authors : Tbl Digest := []
  revoked : Nat := 0
  svn : Nat := 0
  serial : Nat := 0
  deriving DecidableEq, Repr

structure Strongroom where
  fuses : Fuses := {}
  slots : Tbl KeySlot := []
  ranges : Tbl LockRange := []
  /-- The media seed unwrapped, and the two seed blobs. -/
  seed : Option (BitVec 256) := none
  seedA : Option Blob := none
  seedB : Option Blob := none
  blobs : List Blob := []
  nextSeq : Nat := 1
  writeSector : Nat := 394
  /-- Sectors of 394 to 455 not erased. -/
  usedSectors : List Nat := []
  op : Option KmeOp := none
  /-- Requests of the DRBG since its last reseed, and its health (R433). -/
  drbgReqs : Nat := 0
  drbgSeeds : Nat := 0
  /-- DevID and alias private keys are held (R434, R464). -/
  devId : Bool := false
  alias_ : Bool := false
  tamperErased : Bool := false
  sessions : Tbl TcgSession := []
  /-- Failed tries by authority, and the authorities' credentials. -/
  tries : Tbl Nat := []
  creds : Tbl Nat := []
  activated : Bool := false
  /-- Block SID Authentication (Table 12-5). -/
  blockSid : Bool := false
  /-- Key generations noted by a worker (R588). -/
  gens : Tbl Nat := []
  spdm : Tbl SpdmSt := []
  jtagUnlocked : Bool := false
  jtagFails : Nat := 0
  challenge : Nat := 0
  /-- The measurements of Table 12-8 that the boot ROM took: ROM, image, identity record; image SVN and the author set selected. -/
  mRom : Digest := 0
  mImage : Digest := 0
  mIdent : Digest := 0
  mSvn : Nat := 0
  mSet : Nat := 0
  deriving DecidableEq, Repr

/-! ## The Closet and the Study (chapters 8 and 13) -/

/-- A port program of an image (R322, R323): its geometry class, GY1 level, entry, trap vector and its bytes. -/
structure PortProg where
  vendor : Nat := 0xFFFF
  part : Nat := 0xFFFF
  geom : Nat := 0
  rowfmt : Nat := 0
  arrayOps : Nat := 0
  opLimit : Nat := 0
  gy1 : Bool := false
  entry : Nat := 0
  trapVec : Nat := 0
  bytes : List Byte := []
  deriving DecidableEq, Repr, Inhabited

/-- What the leaves of an image say (R481 to R486): the checks of R492 that its own bytes decide, its header, the sections the boot programs
act on, and the supervisor program. -/
structure Image where
  /-- Leaf checks and R483 to R486, R322 and Table 2-2 hold. -/
  wellFormed : Bool := false
  /-- Both signatures verify over the image digest (R461). -/
  signed : Bool := false
  keySet : Digest := 0
  digest : Digest := 0
  leafCount : Nat := 2
  version : Nat := 0
  svn : Nat := 0
  raiseSvn : Bool := false
  fr : Nat := 0
  ident : Identity := {}
  portMode : Bool := false
  geo : Geo := {}
  geomClass : Nat := 0
  dieGb : Nat := 0
  /-- The geometry table's times and limits: worst program and erase times, rated cycles. -/
  tProg : Nat := 0
  tErase : Nat := 0
  rated : Nat := 0
  atticBlocks : Nat := 0
  /-- The Stair table: entry of port n; weights of the shares, 0xFF for the default. -/
  stair : Tbl Nat := []
  weights : List Nat := []
  apst : List ApstEnt := []
  atticFull : Bool := false
  sup : PortProg := {}
  progs : List PortProg := []
  deriving DecidableEq, Repr, Inhabited

/-- A slot of the Closet: the leaves it holds, by number (R481). -/
structure CloSlot where
  leaves : Tbl Nat := []
  deriving DecidableEq, Repr

/-- An operation of the NOR die under way (R472 to R475): requester 0 supervisor, 1 KME, 2 Attic, 3 Study; 1 program, 2 erase, 3 margin
read. -/
structure CloOp where
  req : Nat
  kind : Nat
  addr : Nat
  page : List Byte := []
  deriving DecidableEq, Repr

/-- A Firmware Commit or a revert that writes the Closet (R490, R495): its command (none for a command that no longer wants a
completion), action, target slot, the image's leaves, the step under way, swap attempts, and the new record. -/
structure FwJob where
  ingest : Nat
  action : Nat
  slot : Nat
  leaves : List Nat := []
  step : Nat := 0
  tries : Nat := 0
  deriving DecidableEq, Repr

structure Closet where
  /-- The NOR die's bytes; unlisted ones are erased. -/
  nor : Tbl Byte := []
  /-- Bits that are neither solid 0 nor solid 1, by bit address (R489). -/
  marginal : List Nat := []
  op : Option CloOp := none
  slots : Tbl CloSlot := []
  /-- Newest valid configuration records by TYPE (R480), and the store-wide sequence number. -/
  conf : Tbl (List Nat) := []
  confSeq : Nat := 0
  /-- The running slot, 0 none (R503). -/
  running : Nat := 0
  /-- Seconds of R499 counted since the start, none when not counting. -/
  confirmSec : Option Nat := none
  job : Option FwJob := none
  /-- The write of R501 is under way. -/
  confirming : Bool := false
  /-- The boot ROM serves the admin queue itself, and a restart of the choice is due (R494). -/
  recovery : Bool := false
  deriving DecidableEq, Repr

/-- The Study beside its sequencer (R293, R295, R319, R322). -/
structure Study where
  trapVec : Nat := 0
  entry : Nat := 0
  /-- The supervisor runs on the root PLL, not on FIO. -/
  clockPll : Bool := false
  /-- A watchdog kick was taken since the last expiry. -/
  kicked : Bool := false
  /-- The I3C target's dynamic address (R617). -/
  i3c : Option Nat := none
  deriving DecidableEq, Repr

/-- The instruction in the JTAG instruction register (R618). -/
inductive JtagIr where
  | bypass | idcode | sample | extest | extestPulse | extestTrain
  deriving DecidableEq, Repr

/-- The JTAG port: its instruction and the boundary cells. -/
structure Jtag where
  ir : JtagIr := .idcode
  cells : Nat := 0
  driving : Bool := false
  deriving DecidableEq, Repr

/-! ## The Stair (chapter 16) -/

/-- A request of the manager to a worker (R580, R581), from its start until SDONE COMMITTED: the manager's units that it carries, the ports
and tags it is in flight on, and whether it was in flight on a link since retired (R586). -/
structure StairReq where
  w : Nat
  req : SReq
  /-- Local extent of the worker, and the namespace's extent it stands for. -/
  lext : Nat := 0
  ext : Nat := 0
  units : List Nat := []
  sent : List (Nat × Nat) := []
  lost : Bool := false
  /-- Operating time in seconds of the retirement that it must be resent after. -/
  lostAt : Nat := 0
  deriving DecidableEq, Repr

/-- A write on the unsettled list (R584): until SDONE SETTLED. -/
structure Unsettled where
  w : Nat
  ingest : Nat
  sub : Nat
  nsid : Nat
  first : Nat
  count : Nat
  deriving DecidableEq, Repr

/-- A worker as its manager sees it (Tables 4-14, 16-8, 16-13). -/
structure WorkerSt where
  st : Nat := 0
  fence : Nat := 0
  ver : Nat := 0
  image : Nat := 0
  dies : Nat := 0
  rawGb : Nat := 0
  lastSeen : Nat := 0
  offset : Int := 0
  retrains : Nat := 0
  pid : Nat := 0
  /-- The links that requests are spread over, and whether a change of them is held (R577). -/
  links : List Nat := []
  hold : Bool := false
  /-- Ports whose SJOIN_RSP has come. -/
  joined : List Nat := []
  /-- Its Hall is idle, as its last STIME answer said; an STIME waits for its answer. -/
  idle : Bool := false
  rec_ : JoinRec := {}
  /-- Operating time of the last fence. -/
  fencedAt : Nat := 0
  deriving DecidableEq, Repr

/-- A coordinated activation under way (Table 16-9): its ingest number, its step, the workers that have written the image, and the operating
time at which step 3 began. -/
structure StairAct where
  ingest : Nat
  step : Nat := 1
  written : List Nat := []
  at_ : Nat := 0
  deriving DecidableEq, Repr

/-- A namespace as the join digests see it, kept by a worker (R588). -/
structure WorkerNs where
  fmt : Nat
  extents : Nat
  gen : Nat
  deriving DecidableEq, Repr

structure Stair where
  workers : Tbl WorkerSt := []
  /-- In the order they were made. -/
  reqs : List StairReq := []
  unsettled : List Unsettled := []
  act : Option StairAct := none
  /-- The worker's side: the ID taken, the manager last served, the version and shares agreed, the manager's EPOCH. -/
  selfId : Nat := 0
  mgrId : Nat := 0
  ver : Nat := 0
  share : Nat := 0
  weight : Nat := 0
  seqLen : Nat := 0
  epoch : Nat := 0
  joined : List Nat := []
  mgrLost : Bool := false
  /-- The state the manager's last STIME named. -/
  mgrPwr : Nat := 0
  /-- The done table (R585): key, the saved SDONE, operating time. -/
  done : List (Nat × SDone × Nat) := []
  /-- Data that arrived before its slots were granted, by key × 64 + unit. -/
  stash : Tbl (Blk × Meta) := []
  /-- Links on which a copy of a barrier has arrived, by key (R581). -/
  arrived : Tbl (List Nat) := []
  /-- Whether the data of a resent request is discarded, by port × 128 + tag, and the request that a tag names. -/
  tags : Tbl Nat := []
  discard : List Nat := []
  /-- Offset still to be slewed, in ticks of the time base, and the ticks since the last one slewed (R593). -/
  slew : Int := 0
  slewPhase : Nat := 0
  /-- The image that SACT frames bring, and its slot. -/
  image : List Nat := []
  imageVer : Nat := 0
  /-- Round-trip delay measured per link. -/
  delay : Tbl Nat := []
  deriving DecidableEq, Repr

/-! ## Power, clocks, straps and the board inputs (chapters 0, 14 and 17) -/

/-- The device's power state (Table 14-3). -/
inductive PwrState where
  | ps0 | ps1 | ps2 | ps3 | ps4 | ps5 | off
  deriving DecidableEq, Repr

/-- The levels the board drives on the strap balls (R606). An open ball is 0. (DESIGN CHOICE: log entry 128.) -/
structure StrapPins where
  role : Nat := 0
  ports : Nat := 0
  padmode : Bool := false
  holdup : Bool := false
  refsel : Bool := false
  testmode : Bool := false
  deriving DecidableEq, Repr

/-- Power, clocks, time and the always-on domain. -/
structure Power where
  /-- The board's strap levels (R606). -/
  pins : StrapPins := {}
  /-- The straps as sampled at the last release of power-on reset (R2). -/
  straps : StrapPins := {}
  /-- Live inputs: PWRFAIL# asserted after its filter, HOLDUP_OK high (R607, R608). -/
  pwrfail : Bool := false
  holdupOk : Bool := false
  /-- VAUX above its threshold; the main supplies now below theirs (R508, R611). -/
  vaux : Bool := true
  lowMains : List MainSupply := []
  /-- Power-on reset is held (R508). -/
  por : Bool := true
  /-- The shutdown latch of the always-on domain, with the triggering sensor and reading (R541). -/
  shutLatch : Bool := false
  shutSensor : Nat := 0
  shutReading : Nat := 0
  /-- WAKE# asserted (R525). -/
  wakeOut : Bool := false
  st : PwrState := .ps0
  /-- The operational state that a non-operational one was entered from (R130). -/
  leftFrom : PwrState := .ps0
  /-- The time base STD_TIME (R528). -/
  time : U64 := 0
  /-- Operating time in seconds and the power-cycle count (R553, R161). -/
  opSec : Nat := 0
  powerCycle : Nat := 0
  /-- The LSO ticks counted since the time base was handed over, and the period latched then (R531). -/
  lsoCount : Nat := 0
  lsoPeriod : Nat := 0
  timeOnLso : Bool := false
  /-- PADMODE outputs latched at a switched-off edge and not yet released (R527). -/
  padLatched : Bool := false
  /-- PWRFAIL# released and its 1 ms count running; a dump program has started; fetching and program starts stopped by
  PWRFAIL# (R30, R625). -/
  releaseCount : Bool := false
  dumpStarted : Bool := false
  frozen : Bool := false
  /-- What the next start must report: P0 of RESET_CAUSE, 0 nothing (R509, Table 15-4). -/
  resetCause : Nat := 0
  /-- The boot ROM waits to choose an image (R491). -/
  bootWait : Bool := false
  /-- A thermal shutdown is under way; its report is due at the next release of power-on reset (R540, R541). -/
  thermal : Bool := false
  shutSeen : Bool := false
  /-- After the dump: a restart as after a power loss (R32), or a watchdog reset with this cause (R320). -/
  restart : Bool := false
  afterDump : Option Nat := none
  /-- HAL_CTL entry of a non-operational state under way: the Hall reported idle (R129). -/
  idleReported : Bool := false
  deriving DecidableEq, Repr

/-- One temperature sensor (R533, R535). -/
structure Sensor where
  raw : Nat := 0
  /-- The last four readings, newest first, in 0.25 °C. -/
  last4 : List Int := []
  /-- Conversions since the raw code last changed. -/
  same : Nat := 0
  broken : Nat := 0
  deriving DecidableEq, Repr

/-- One flash die's temperature as the Chimney holds it (R535). -/
structure DieTemp where
  reading : Int := 0
  valid : Bool := false
  /-- A TEMP_RSP has arrived within the last second. -/
  fresh : Bool := false
  ageMs : Nat := 0
  deriving DecidableEq, Repr

/-- The Chimney. -/
structure Chimney where
  sensors : Tbl Sensor := []
  /-- By 16 × port + die. -/
  dies : Tbl DieTemp := []
  thermStep : Nat := 0
  /-- Recomputations of the thermal step since it last changed (R537). -/
  sinceThermChange : Nat := 0
  /-- The device step last reported with THERMAL (R536). -/
  lastStep : Nat := 0
  /-- The admission fraction in sixteenths (R538). -/
  a16 : Nat := 16
  /-- The last ten 1 ms power readings, newest first, in 10 mW. -/
  p10 : List Nat := []
  /-- Port steps, and recomputations since each last fell (R539). -/
  portStep : Tbl Nat := []
  portCool : Tbl Nat := []
  shutPrior : Bool := false
  /-- The fused VCORE setpoint (R511). -/
  vcoreFuse : Nat := 0
  deriving DecidableEq, Repr

/-! ## The Attic (chapter 15) -/

/-- One event record (Table 15-1). -/
structure AtticRec where
  code : Nat
  sev : Nat
  src : Nat
  origin : Nat := 0xFF
  seq : Nat := 0
  time : Nat := 0
  cycle : Nat := 0
  p0 : Nat := 0
  p1 : Nat := 0
  p2 : Nat := 0
  p3 : Nat := 0
  deriving DecidableEq, Repr

/-- A window of 64 records (R564). -/
structure AtticWin where
  cursor : Nat := 0
  oldest : Nat := 0
  gap : Bool := false
  ready : Bool := false
  latching : Bool := false
  recs : List AtticRec := []
  deriving DecidableEq, Repr

/-- A page of the full-mode area, and whether each of its two copies can be read (R562, R563). -/
structure AtticPage where
  recs : List AtticRec
  okFirst : Bool := true
  okSecond : Bool := true
  deriving DecidableEq, Repr

/-- A device self-test under way (R569, R570). -/
structure DstRun where
  ext : Bool
  port : Nat
  nsid : Nat
  seg : Nat := 1
  /-- Operating time at its start. -/
  at_ : Nat := 0
  deriving DecidableEq, Repr

/-- A self-test result (R571, R572). -/
structure DstResult where
  code : Nat
  result : Nat
  seg : Nat
  detail : Nat
  nsid : Nat
  lba : Nat := 0
  opSec : Nat := 0
  deriving DecidableEq, Repr

/-- The Attic, with its non-volatile parts (mirror, state sectors, full-mode area). -/
structure Attic where
  /-- The on-chip ring, oldest first, at most 8,192 records (R557). -/
  ring : List AtticRec := []
  nextSeq : Nat := 0
  /-- The last durable reservation mark, none before the first (R552). -/
  mark : Option Nat := none
  /-- Records not yet mirrored (R559), or waiting for a full-mode page (R562). -/
  waiting : List AtticRec := []
  /-- The Closet mirror, by sector 712 to 767 (R557). -/
  mirror : Tbl (List AtticRec) := []
  mirrorSector : Nat := 712
  clearCount : Nat := 0
  /-- An ATTIC_CLEAR whose old mirror sectors are still to be erased (R560). -/
  clearPending : Bool := false
  postedThisSec : Nat := 0
  droppedThisSec : Nat := 0
  dropped : Nat := 0
  /-- Full mode in force; the Attic has once run in full mode (R561). -/
  full : Bool := false
  everFull : Bool := false
  /-- Segments of the full-mode area, oldest first, each its pages, oldest first (R562). -/
  segs : List (List AtticPage) := []
  /-- Record slots of a segment, C of R562. -/
  segSlots : Nat := 262144
  /-- Ports of the two copies; a copy being moved (0 first, 1 second) (R563). -/
  copyFirst : Option Nat := none
  copySecond : Option Nat := none
  moving : Option Nat := none
  /-- Staged PARAM words, by writer (R554). -/
  stageLo : Tbl U64 := []
  stageHi : Tbl U64 := []
  wins : Tbl AtticWin := []
  dst : Option DstRun := none
  /-- Newest first, at most 20 (R572). -/
  dstResults : List DstResult := []
  extCount : Nat := 0
  /-- Units withdrawn by the in-service test: XTS engines, hard decoders, soft decoders (Table 15-5). -/
  badXts : List Nat := []
  badHard : List Nat := []
  badSoft : List Nat := []
  deriving DecidableEq, Repr

/-! ## The fabric (chapter 1) -/

/-- One output link (R18): control words waiting by input, data bursts waiting by input (their lengths), the burst under way (input and
words left), and the inputs last served. -/
structure FabOut where
  ctl : Tbl Nat := []
  data : Tbl (List Nat) := []
  burst : Option (Nat × Nat) := none
  lastCtl : Nat := 15
  lastData : Nat := 15
  /-- The input whose word went out in the last cycle, and whether it was a control word. -/
  sent : Option (Nat × Bool) := none
  deriving DecidableEq, Repr

/-- A word as a receiving link delivered it (R19). -/
structure FabWord where
  w : Casement
  poison : Bool := false
  deriving DecidableEq, Repr

structure Fabric where
  outs : Tbl FabOut := []
  /-- The word last delivered by each receiving link. -/
  rx : Tbl FabWord := []
  deriving DecidableEq, Repr

/-! ## What leaves the block -/

/-- An SPDM response (R458, R459). -/
inductive SpdmRsp where
  | version (vs : List Nat)
  | capabilities (ver : Nat)
  | algorithms
  | digests (l : List Digest)
  | certificate (slot off len : Nat)
  | challengeAuth (slot nonce : Nat)
  | measurements (blocks : List (Nat × Nat)) (signed : Bool)
  | chunk (seq : Nat) (last : Bool) (v : Nat)
  | errBusy
  | errUnsupported
  | errUnexpected
  deriving DecidableEq, Repr

/-- What the block sends: the model's own record of it, newest last. -/
inductive Out where
  | otconFrame (n : Nat) (f : TxFrame) (ackValid nak : Bool) (ackSeq : Nat)
  /-- A completion queue entry written to host memory (R64, R100). -/
  | completion (port sq cid cq sqHead sct sc dw0 : Nat) (phase : Bool)
  | msix (port vec : Nat)
  | intx (port : Nat) (on : Bool)
  /-- Blocks of a unit written to host memory for a read: command, unit, data, metadata. -/
  | hostData (ingest unit : Nat) (d : Blk) (md : Meta)
  /-- As hostData, of the first `blocks` blocks of the unit only (R72). -/
  | hostPart (ingest unit blocks : Nat) (d : Blk) (md : Meta)
  /-- A request for host data: port, tag, command, unit. -/
  | hostRequest (port tag ingest unit : Nat)
  /-- Data of an admin command: fields as (bytes, value) in layout order. -/
  | adminData (ingest : Nat) (fields : List (Nat × Nat))
  | cfgReply (port : Nat) (crs : Bool) (device : Nat)
  | bar2Reply (port : Nat) (words : List Nat)
  | unsupported (port : Nat)
  | ltr (port : Nat) (us : Nat)
  | pme (port : Nat)
  | ecrc (port : Nat)
  | replay (port : Nat)
  | spdm (ep : Nat) (r : SpdmRsp)
  | mgmtReply (kind : Nat)
  | i3cPid (pid : Nat)
  | jtag (v : Nat)
  | wakeAsserted
  | fabricWord (link : Nat) (input : Nat) (ctl : Bool)
  deriving DecidableEq, Repr

/-! ## The whole -/

/-- Why a command stops the block. No rule of the spec stops it: every command has an effect or is ignored, so there is no reason. (DESIGN CHOICE: log entry 9.) -/
inductive Fault where
  deriving DecidableEq, Repr

/-- Why a command has no meaning. -/
inductive Refusal where
  /-- Raised by the arm of a command that is not modelled yet. Safe: the block stops where the hardware would go on. -/
  | notModelled (mnemonic : String)
  deriving DecidableEq, Repr

/-- The state of the block. (DESIGN CHOICE: log entry 8.) -/
structure State where
  /-- House registers by address: the home of every bit that is written or latched. An unlisted one has its reset value (R10, R11). -/
  regs : Tbl U64 := []
  pwr : Power := {}
  chm : Chimney := {}
  atc : Attic := {}
  std : Study := {}
  clo : Closet := {}
  stg : Strongroom := {}
  porch : Porch := {}
  hall : Hall := {}
  nvm : Nvm := {}
  pan : Pantry := {}
  ldr : Larder := {}
  cel : Cellar := {}
  /-- The Gynum sequencers: 0 to 63 the ports', 64 the supervisor's. -/
  seqs : Tbl Seq := []
  lnd : Laundry := {}
  scu : Scullery := {}
  bsm : Basement := {}
  sta : Stair := {}
  fab : Fabric := {}
  jtag : Jtag := {}
  /-- The model's own: what has left the block, newest last. -/
  out : List Out := []
  /-- The model's own: how many free values have been taken. -/
  free : Nat := 0
  /-- The commands that wait, oldest first. -/
  pending : List Instr := []
  deriving DecidableEq, Repr

/-- The block as it is first powered: power-on reset is held, every register at its reset value, every memory empty. (DESIGN CHOICE: log entry 7.) -/
def State.reset : State := {}


end Sys2Proof.Machine
end

