-- ==== Sys2Proof/Config.lean ====
section
/-!
DEFINITION. What an implementation fixes and what the spec leaves open, as constants without a body: nothing in Lean can see their values.
The cipher and the hashes are standards outside the spec: they are held by name.
-/
namespace Sys2Proof.Config

/-- The bytes of the boot ROM (R296). (DEDUCED: log entry 37.) -/
opaque bootRom : Nat → Byte

/-- A value that the spec leaves undefined, by the state's counter of free values. -/
opaque freeByte : Nat → Byte
/-- The same for a value of any width. (DESIGN CHOICE: log entry 6.) -/
opaque freeNat : Nat → Nat

/-- XTS-AES-256 of one 4,096-byte block, and of one 512-byte block, under a key pair and a tweak (R446, IEEE 1619): a permutation of the
blocks. (DESIGN CHOICE: log entry 39.) -/
opaque xts4k : Key → Nat → Equiv.Perm Blk
opaque xts512 : Key → Nat → Equiv.Perm (BitVec 4096)

/-- SHA-384 of a list of bytes or of the words that a record lists (R434, R461, R588). -/
opaque sha384 : List Nat → Digest

/-- The key-encryption key of a blob (R435): root key, media seed, the binding's fields with generation and salt, and the credential where
an authority is bound. -/
opaque kek : BitVec 256 → BitVec 256 → List Nat → Nat → BitVec 256

/-- What the DRBG draws (R433), by the count of its requests: a key pair whose halves differ (R447), a 32-byte seed, a salt, a
challenge. -/
opaque drbgKey : Nat → Key
opaque drbgSeed : Nat → BitVec 256
opaque drbgNat : Nat → Nat

/-- What an image's leaves hold (R481 to R486): the image is a function of its leaves. (DEDUCED: log entry 90.) -/
opaque imageOf : List Nat → Machine.Image

/-- What a page that a program writes into a leaf makes of it: the leaf before, the page's place, its bytes. -/
opaque leafAfter : Nat → Nat → List Nat → Nat

/-- The bytes of the Closet's areas whose content the model holds as records: the content of a sector, the byte's place in it. (DESIGN CHOICE: log entry 40.) -/
opaque storeByte : List Nat → Nat → Byte

/-- The fixed answers of the certificate store and of signing (R434, R458). -/
opaque sign : Nat → Nat → Nat
opaque certificate : Nat → Nat → Nat → Nat

/-- How STG_KME_ARG packs the arguments of an operation (Table 12-4, "packed as the operation defines"): operation, the four words, the
argument's number. (DESIGN CHOICE: log entry 41.) -/
opaque kmeArg : Nat → List Nat → Nat → Nat

/-- The product constants of the Identify data structures that the spec does not give: controller or namespace page, byte offset. -/
opaque identify : Nat → Nat → Nat

/-- The exported capacity TNVMCAP in 4 KiB units, which the drive maker fixes (R145, R397): the spec gives no value. (DESIGN CHOICE: log entry 65.) -/
opaque exportedUnits : Nat

/-- Torvune's MIPI manufacturer ID (Table 16-1): the spec does not give its value. (DESIGN CHOICE: log entry 27.) -/
opaque mipiId : BitVec 15

end Sys2Proof.Config
end

