-- ==== Sys2Proof/Machine/Ops.lean ====
section
/-!
DEFINITION. The named operations over the state that every meaning is written with: register fields, bit fields, events to
the sequencers, traps, Attic records, asynchronous events, what leaves the block, and waking.
-/
namespace Sys2Proof.Machine

/-! ## Bit fields -/

/-- Bits `lsb + width - 1` to `lsb` of `v`. -/
def bits (v lsb width : Nat) : Nat := v / 2 ^ lsb % 2 ^ width

/-- `v` with bits `lsb + width - 1` to `lsb` replaced by the low bits of `x`. -/
def putBits (v lsb width x : Nat) : Nat :=
  v - bits v lsb width * 2 ^ lsb + x % 2 ^ width * 2 ^ lsb

/-- Bit `i` of `v`. -/
def bitAt (v i : Nat) : Bool := v / 2 ^ i % 2 = 1

/-- One bit as a number. -/
def b2n (b : Bool) : Nat := if b then 1 else 0

/-- The signed value of the low `w` bits of `v`. -/
def sext (w v : Nat) : Int := if v % 2 ^ w < 2 ^ (w - 1) then (v % 2 ^ w : Nat) else ((v % 2 ^ w : Nat) : Int) - 2 ^ w

/-- The low `w` bits of a signed value. -/
def wrapInt (w : Nat) (x : Int) : Nat := (x % (2 ^ w : Nat)).toNat

/-- A saturating increment of a `w`-bit counter. -/
def satInc (w v : Nat) (by_ : Nat := 1) : Nat := min (v + by_) (2 ^ w - 1)

/-- The last `n` entries of a list. -/
def lastN {α : Type} (n : Nat) (l : List α) : List α := l.drop (l.length - n)

/-- Division rounded up. -/
def ceilDiv (a b : Nat) : Nat := (a + b - 1) / b

/-! ## House register fields -/

/-- The stored word of the register that holds `f`. -/
def State.regWord (s : State) (f : Fld) : Nat := (Tbl.getD s.regs f.addr (BitVec.ofNat 64 f.rst)).toNat

/-- The stored value of a register field. -/
def State.rd (s : State) (f : Fld) : Nat := bits (s.regWord f) f.lsb f.width

/-- Whether a one-bit field is set. -/
def State.on (s : State) (f : Fld) : Bool := s.rd f != 0

/-- The hardware sets a register field: neither access types nor locks apply. -/
def State.wr (s : State) (f : Fld) (v : Nat) : State :=
  { s with regs := Tbl.setD s.regs f.addr (BitVec.ofNat 64 (putBits (s.regWord f) f.lsb f.width v)) (BitVec.ofNat 64 f.rst) }

/-- Sets a one-bit field. -/
def State.set1 (s : State) (f : Fld) : State := s.wr f 1

/-- Clears a one-bit field. -/
def State.clr1 (s : State) (f : Fld) : State := s.wr f 0

/-- A saturating counter field counts up. -/
def State.bump (s : State) (f : Fld) (by_ : Nat := 1) : State := s.wr f (satInc f.width (s.rd f) by_)

/-! ## Parts of the state -/

def State.modPwr (s : State) (f : Power → Power) : State := { s with pwr := f s.pwr }
def State.modChm (s : State) (f : Chimney → Chimney) : State := { s with chm := f s.chm }
def State.modAtc (s : State) (f : Attic → Attic) : State := { s with atc := f s.atc }
def State.modStd (s : State) (f : Study → Study) : State := { s with std := f s.std }
def State.modPorch (s : State) (f : Porch → Porch) : State := { s with porch := f s.porch }
def State.modHall (s : State) (f : Hall → Hall) : State := { s with hall := f s.hall }
def State.modNvm (s : State) (f : Nvm → Nvm) : State := { s with nvm := f s.nvm }
def State.modPan (s : State) (f : Pantry → Pantry) : State := { s with pan := f s.pan }
def State.modLdr (s : State) (f : Larder → Larder) : State := { s with ldr := f s.ldr }
def State.modCel (s : State) (f : Cellar → Cellar) : State := { s with cel := f s.cel }
def State.modLnd (s : State) (f : Laundry → Laundry) : State := { s with lnd := f s.lnd }
def State.modScu (s : State) (f : Scullery → Scullery) : State := { s with scu := f s.scu }
def State.modBsm (s : State) (f : Basement → Basement) : State := { s with bsm := f s.bsm }
def State.modStg (s : State) (f : Strongroom → Strongroom) : State := { s with stg := f s.stg }
def State.modClo (s : State) (f : Closet → Closet) : State := { s with clo := f s.clo }
def State.modSta (s : State) (f : Stair → Stair) : State := { s with sta := f s.sta }
def State.modFab (s : State) (f : Fabric → Fabric) : State := { s with fab := f s.fab }

/-- Something leaves the block. -/
def State.emit (s : State) (o : Out) : State := { s with out := s.out ++ [o] }

/-- The next free value is taken: the counter that the free values of Config are applied to advances. -/
def State.tick (s : State) : State := { s with free := s.free + 1 }

/-- The next `n` free values are taken. -/
def State.ticks (s : State) (n : Nat) : State := { s with free := s.free + n }

/-- The state that a meaning answers. Every meaning answers a next state. -/
def State.after (s : State) (f : State → Host.Outcome State Fault Refusal) : State :=
  match f s with
  | .next t => t
  | _ => s

/-- The state where `c` holds is `f s`, else `s`: an event whose precondition does not hold does not occur. -/
def State.when (s : State) (c : Bool) (f : State → State) : State := if c then f s else s

/-- One operation for each entry of a list, in its order. -/
def State.each {α : Type} (s : State) (l : List α) (f : State → α → State) : State := l.foldl f s

/-! ## Sequencers and their events (R305, R306) -/

/-- Sequencer `n`; 64 is the supervisor. -/
def State.seq (s : State) (n : Nat) : Seq := Tbl.getD s.seqs n {}

def State.modSeq (s : State) (n : Nat) (f : Seq → Seq) : State := { s with seqs := Tbl.modD s.seqs n {} f }

/-- g`r` of a sequencer; g0 reads zero (R301). -/
def Seq.reg (q : Seq) (r : Nat) : U64 := if r = 0 then 0 else Tbl.getD q.g r 0

/-- Writes g`r`; a write to g0 is discarded (R301). -/
def Seq.setReg (q : Seq) (r : Nat) (v : U64) : Seq := if r = 0 then q else { q with g := Tbl.setD q.g r v 0 }

/-- An event word (Table 8-8). -/
def evWord (code detail : Nat) (desc : Nat := 0xFF) (cw : Nat := 0) (arg : Nat := 0) : U64 :=
  BitVec.ofNat 64 (code % 256 + desc % 256 * 2 ^ 8 + detail % 256 * 2 ^ 16 + cw % 256 * 2 ^ 24 + arg % 2 ^ 32 * 2 ^ 32)

/-- Whether the mask of a WAIT on sequencer `n` selects an event (R305): code k on a port, 0x10 + k on the supervisor. -/
def evSelected (n mask : Nat) (e : U64) : Bool :=
  let code := e.toNat % 256
  if n = 64 then decide (0x10 ≤ code) && bitAt mask (code - 0x10) else bitAt mask code

/-- Removes the oldest entry that satisfies `p`. -/
def takeFirst {α : Type} (p : α → Bool) : List α → Option (α × List α)
  | [] => none
  | a :: r => if p a then some (a, r) else (takeFirst p r).map fun x => (x.1, a :: x.2)

/-- Events that sources hold move into the queue while it has room (R306). -/
def Seq.refill (q : Seq) : Seq :=
  { q with evq := q.evq ++ q.held.take (64 - q.evq.length), held := q.held.drop (64 - q.evq.length) }

/-- A waiting sequencer takes the oldest event its mask selects and runs on (R305). -/
def Seq.deliver (q : Seq) (n : Nat) : Seq :=
  match q.wait with
  | none => q
  | some w =>
    match takeFirst (evSelected n w.mask) q.evq with
    | none => q
    | some (e, rest) =>
      ({ q with evq := rest, wait := none, state := if q.state = 2 then 1 else q.state }.setReg w.rd e).refill

/-- An event is raised at sequencer `n`. A source never drops it: when 64 are queued the source holds it (R306). (DEDUCED: log entry 94.) -/
def raise (s : State) (n : Nat) (e : U64) : State :=
  s.modSeq n fun q =>
    let q := if q.evq.length < 64 && q.held.isEmpty then { q with evq := q.evq ++ [e] } else { q with held := q.held ++ [e] }
    q.deliver n

/-! ## Attic records (R550 to R555) -/

/-- Appends a record: SEQ rises by one, a new reservation mark is programmed before SEQ reaches the last (R552); the ring
keeps the newest 8,192 (R557); the record waits for the mirror or for a page (R559, R562). -/
def appendRec (s : State) (r : AtticRec) : State :=
  let a := s.atc
  let r := { r with seq := a.nextSeq, time := s.pwr.opSec, cycle := s.pwr.powerCycle % 2 ^ 24 }
  let mark := if a.mark = none || a.mark = some a.nextSeq then some ((a.nextSeq + 65536) % 2 ^ 32) else a.mark
  s.modAtc fun a => { a with
    ring := lastN 8192 (a.ring ++ [r]), waiting := a.waiting ++ [r], nextSeq := (a.nextSeq + 1) % 2 ^ 32, mark := mark,
    postedThisSec := a.postedThisSec + 1 }

/-- Posts a record (R554, R555): past 4,096 in an operating second, info and notice records are dropped and counted. (DESIGN CHOICE: log entry 121.) -/
def post (s : State) (code sev src : Nat) (origin : Nat := 0xFF) (p0 p1 p2 p3 : Nat := 0) : State :=
  if 4096 ≤ s.atc.postedThisSec && decide (sev ≤ 2) then
    s.modAtc fun a => { a with droppedThisSec := a.droppedThisSec + 1, dropped := satInc 16 a.dropped }
  else
    appendRec s { code := code, sev := sev, src := src, origin := origin, p0 := p0 % 2 ^ 32, p1 := p1 % 2 ^ 32,
                  p2 := p2 % 2 ^ 32, p3 := p3 % 2 ^ 32 }

/-! ## Traps (R316, R318) and the return from one -/

/-- Where a trap of sequencer `n` continues (R316, R322). -/
def trapVector (s : State) (n : Nat) : Nat :=
  if n = 64 then s.std.trapVec else s.rd (CEL_SEQ_CTL.TRAP_VEC n)

/-- A trap of sequencer `n`: CAUSE, EPC and BADADDR are recorded, T is saved, IN_TRAP is set and the pc goes to the trap
vector. A trap taken while IN_TRAP is 1 is a double trap and halts the sequencer (R318). (DEDUCED: log entry 35.) -/
def trap (s : State) (n cause badaddr epc : Nat) : State :=
  let q := s.seq n
  let rec_ (q : Seq) : Seq := { q with cause := cause, badaddr := badaddr % 2 ^ 32, epc := epc, trapCount := satInc 8 q.trapCount }
  if q.inTrap then
    let s := s.modSeq n fun q => { rec_ q with state := 4 }
    if n < 64 then
      let s := (s.set1 (CEL_PORT_CTL.HOLD n)).modSeq n id
      raise (post s 0x0063 4 4 n cause epc) 64 (evWord 0x15 0 n)
    else s
  else
    let v := trapVector s n
    s.modSeq n fun q => { rec_ q with savedT := q.t, inTrap := true, pc := v, wait := none, state := 1 }

/-- RTT: the pc returns to EPC, T is restored and IN_TRAP clears (R316). -/
def returnFromTrap (s : State) (n : Nat) : State :=
  s.modSeq n fun q => { q with pc := q.epc, t := q.savedT, inTrap := false }

/-! ## Waking (R520, R521) -/

/-- Whether the device is in PS3, PS4 or PS5. -/
def asleep (s : State) : Bool := s.pwr.st = .ps3 || s.pwr.st = .ps4 || s.pwr.st = .ps5

/-- The lowest set bit of a nonzero number below 2^`n`. -/
def lowestBit : Nat → Nat → Nat
  | 0, _ => 0
  | n + 1, v => if v % 2 = 1 then 0 else lowestBit n (v / 2) + 1

/-- The state that STD_PWR_MODE names, 0 none (Table 14-10). (DEDUCED: log entry 95.) -/
def pwrMode (s : State) : Nat := if 3 ≤ s.rd STD_PWR_MODE.MODE ∧ s.rd STD_PWR_MODE.MODE ≤ 5 then s.rd STD_PWR_MODE.MODE else 0

/-- A wake source becomes active: its bit of STD_WAKE_STATUS is set when it acts in the state and is enabled; in a
non-operational state FIO starts and the supervisor resumes after its WAIT with a WAKE event that names the lowest set bit,
and STD_PWR_MODE clears (R520, R521, R543). While STD_PWR_MODE names a state that is not yet entered the source is only
latched (R519). (DEDUCED: log entry 124.) -/
def wake (s : State) (bit : Nat) : State :=
  let acts := (if bit = 2 then s.pwr.st = .ps5 else asleep s) || pwrMode s != 0
  if acts && bitAt (s.rd STD_WAKE_EN.EN) bit then
    let s := s.wr ⟨STD_WAKE_STATUS.addr, 0, bit, 1⟩ 1
    if asleep s then
      let src := lowestBit 7 (s.rd ⟨STD_WAKE_STATUS.addr, 0, 0, 7⟩)
      let s := (s.wr STD_PWR_MODE.MODE 0).modPwr fun p => { p with st := p.leftFrom }
      let s := s.modStd fun d => { d with clockPll := false }
      s.modSeq 64 fun q =>
        match q.wait with
        | none => { q with state := 1 }
        | some w => { q with wait := none, state := 1 }.setReg w.rd (evWord 0x14 src)
    else s
  else s

end Sys2Proof.Machine
end

