-- ==== Sys2Proof/Machine/Map.lean ====
section
/-!
DEFINITION. The Pantry's map as data (R167 to R181, R192 to R194, R624): unit and extent entries and their words, how a change of
some units turns an extent into another form, what a journal record does to the map, the journal's tail, the exception budget,
and the cache lines a lookup or a change touches.
-/
namespace Sys2Proof.Machine

/-! ## Words of the map (R171, R172, R192) -/

/-- TYPE or STATE of a unit (Table 5-4). -/
def UnitKind.code : UnitKind → Nat
  | .unmapped => 0
  | .media _ _ => 1
  | .zero => 3
  | .uncorr => 4
  | .lost => 5

/-- An exception entry as its 64-bit word (R172). -/
def UnitEnt.word (e : UnitEnt) : Nat :=
  e.kind.code * 2 ^ 61 + e.bad % 256 * 2 ^ 8 +
  match e.kind with
  | .media s u => u % 2 ^ 22 * 2 ^ 36 + s % 2 ^ 20 * 2 ^ 16
  | _ => 0

/-- An extent entry as its 64-bit word (Table 5-3); `mapped` is the count of units not UNMAPPED of a split extent. -/
def ExtEnt.word (mapped : Nat) : ExtEnt → Nat
  | .unmapped => 0
  | .media s u => 1 * 2 ^ 61 + u % 2 ^ 22 * 2 ^ 36 + s % 2 ^ 20 * 2 ^ 16
  | .split g => 2 * 2 ^ 61 + g % 2 ^ 25 * 2 ^ 16 + mapped % 2 ^ 9
  | .zero => 3 * 2 ^ 61
  | .uncorr => 4 * 2 ^ 61
  | .lost => 5 * 2 ^ 61
  | .parked s u h _ => 6 * 2 ^ 61 + b2n h * 2 ^ 58 + u % 2 ^ 22 * 2 ^ 36 + s % 2 ^ 20 * 2 ^ 16

/-- A LOC field: SUITE in bits 41:22, UNIT in bits 21:0 (R192). -/
def locWord (suite unit : Nat) : Nat := suite % 2 ^ 20 * 2 ^ 22 + unit % 2 ^ 22

/-- The suite and the unit of a LOC field. -/
def locSuite (l : Nat) : Nat := bits l 22 20
def locUnit (l : Nat) : Nat := l % 2 ^ 22

/-! ## Looking up -/

/-- The key of a unit of a namespace in the overlay. -/
def unitKey (ns u : Nat) : Nat := ns * 2 ^ 40 + u

/-- The place of an extent entry in the extent map, through the chunk directory (R170). -/
def extPlace (m : MapImg) (ns ext : Nat) : Option Nat :=
  match (Tbl.getD m.dir ns [])[ext / 16384]? with
  | some c => some (c * 16384 + ext % 16384)
  | none => none

/-- The entry of unit `k` of an extent in form `e`. -/
def extUnit (m : MapImg) (parked : Nat → Tbl UnitEnt) (e : ExtEnt) (k : Nat) : UnitEnt :=
  match e with
  | .unmapped => {}
  | .media s u => { kind := .media s (u + k) }
  | .split g => Tbl.getD (Tbl.getD m.grp g []) k {}
  | .zero => { kind := .zero }
  | .uncorr => { kind := .uncorr }
  | .lost => { kind := .lost }
  | .parked _ _ _ g => Tbl.getD (parked g) k {}

/-- The group that a segment copy on flash holds (R203, R204). -/
def parkedGroup (f : MapFlash) (g : Nat) : Tbl UnitEnt :=
  match (Tbl.vals f.copies).findSome? fun c => Tbl.find c.grp g with
  | some t => t
  | none => ((Tbl.vals f.prevCopies).findSome? fun c => Tbl.find c.grp g).getD []

/-- The DRAM map's entry of a unit. -/
def mapUnit (s : State) (ns u : Nat) : UnitEnt :=
  match extPlace s.pan.img ns (u / 256) with
  | none => {}
  | some p => extUnit s.pan.img (parkedGroup s.pan.flash) (Tbl.getD s.pan.img.ext p .unmapped) (u % 256)

/-- The extent entry of an extent. (DESIGN CHOICE: log entry 100.) -/
def mapExt (s : State) (ns ext : Nat) : ExtEnt :=
  match extPlace s.pan.img ns ext with
  | none => .unmapped
  | some p => Tbl.getD s.pan.img.ext p .unmapped

def ExtEnt.isSplit : ExtEnt → Bool
  | .split _ => true
  | _ => false

def ExtEnt.isParked : ExtEnt → Bool
  | .parked _ _ _ _ => true
  | _ => false

/-! ## The exception budget (R168, R178, R203) -/

/-- G of the layout: a fitted size that is not supported counts as the next smaller that is (R167). -/
def layoutGib (s : State) : Nat :=
  (([64, 48, 32, 24, 16, 8] : List Nat).find? fun g => decide (g ≤ s.bsm.gib)).getD 0

/-- Groups in the exception area: 7G/8 GiB of 2 KiB, or 3G/8 GiB with one subchannel in service. -/
def groupsTotal (s : State) : Nat := if s.on PAN_STATUS.DEGRADED then 196608 * layoutGib s else 458752 * layoutGib s

def groupsUsable (s : State) : Nat := groupsTotal s * 63 / 64

def groupsReserve (s : State) : Nat := groupsTotal s - groupsUsable s

/-- USED of PAN_BUDGET: groups allocated from the usable part or reserved by writers. -/
def groupsUsed (s : State) : Nat := (s.pan.img.grp.length - s.pan.img.resGrp.length) + s.pan.grpReserved

/-- The lowest number at or above `n` that a table does not list. -/
def firstGap {α : Type} (t : Tbl α) (n : Nat) : Nat :=
  match t with
  | [] => n
  | (j, _) :: r => if j = n then firstGap r (n + 1) else if j < n then firstGap r n else n

/-! ## Changing an extent (Table 5-6) -/

/-- Whether entries lie consecutively in one suite from `s`, `u` on, with no bad block. -/
def consecutive : List UnitEnt → Nat → Nat → Bool
  | [], _, _ => true
  | e :: r, s, u => e == { kind := .media s u } && consecutive r s (u + 1)

/-- The form that 256 entries allow an extent to collapse to, if any. -/
def collapsed (l : List UnitEnt) : Option ExtEnt :=
  match l with
  | [] => none
  | e :: _ =>
    match e.kind with
    | .media s u => if consecutive l s u then some (.media s u) else none
    | .unmapped => if l.all fun x => x == {} then some .unmapped else none
    | .zero => if l.all fun x => x == { kind := .zero } then some .zero else none
    | .uncorr => if l.all fun x => x == { kind := .uncorr } then some .uncorr else none
    | .lost => if l.all fun x => x == { kind := .lost } then some .lost else none

/-- Frees the group of an extent, if it has one. -/
def freeGroupOf (m : MapImg) (e : ExtEnt) : MapImg :=
  match e with
  | .split g => { m with grp := Tbl.del m.grp g, resGrp := m.resGrp.filter fun x => x != g }
  | _ => m

/-- The extent entry at place `p` takes form `e`. -/
def setExtForm (m : MapImg) (p : Nat) (e : ExtEnt) : MapImg := { m with ext := Tbl.setD m.ext p e .unmapped }

/-- Units of the extent at place `p` change: `f k` gives the new entry of unit `k`, or none where it stays. A change of every unit
sets the whole extent; a change of part of it leaves or makes it SPLIT and collapses it where the table lets it, unless `hold`
forbids (R177, R178). A new group comes from the usable budget, else from the reserve. -/
def setUnits (usable : Nat) (parked : Nat → Tbl UnitEnt) (hold : Bool) (m : MapImg) (p : Nat) (f : Nat → Option UnitEnt) : MapImg :=
  let old := Tbl.getD m.ext p .unmapped
  let ents := (List.range 256).map fun k => (f k).getD (extUnit m parked old k)
  let whole := (List.range 256).all fun k => (f k).isSome
  let form := collapsed ents
  if form.isSome && (whole || !hold || !old.isSplit) then setExtForm (freeGroupOf m old) p (form.getD .unmapped)
  else
    let entries : Tbl UnitEnt := ((List.range 256).zip ents).filter fun e => e.2 != {}
    match old with
    | .split g => { m with grp := Tbl.put m.grp g entries }
    | _ =>
      let g := firstGap m.grp 0
      let m := setExtForm m p (.split g)
      { m with grp := Tbl.put m.grp g entries,
               resGrp := if m.grp.length - m.resGrp.length < usable then m.resGrp else g :: m.resGrp }

/-- A run of `n` units of a namespace from unit `u` changes, extent by extent; `f i old` gives the new entry of unit `u + i`. -/
def setRun (usable : Nat) (parked : Nat → Tbl UnitEnt) (hold : Nat → Bool) (m : MapImg) (ns u n : Nat)
    (f : Nat → UnitEnt → Option UnitEnt) : MapImg :=
  let exts := (List.range (n / 256 + 2)).map fun i => u / 256 + i
  exts.foldl (fun m e =>
    match extPlace m ns e with
    | none => m
    | some p =>
      let old := Tbl.getD m.ext p .unmapped
      let g (k : Nat) : Option UnitEnt :=
        let x := e * 256 + k
        if u ≤ x && decide (x < u + n) then f (x - u) (extUnit m parked old k) else none
      if (List.range 256).any fun k => (g k).isSome then setUnits usable parked (hold p) m p g else m) m

/-- The lowest `n` chunks that no namespace holds (R170). -/
def freeChunks (m : MapImg) (n : Nat) : List Nat :=
  let used := (Tbl.vals m.dir).flatMap id
  ((List.range (used.length + n)).filter fun c => !used.contains c).take n

/-- What a journal record does to the map (Table 5-15). Every record sets values outright (R193). (DEDUCED: log entry 97.) -/
def applyRec (usable : Nat) (parked : Nat → Tbl UnitEnt) (hold : Nat → Bool) (m : MapImg) (r : JRec) : MapImg :=
  let run := setRun usable parked hold m r.nsid r.first r.count
  match r.typ with
  | 0x01 => run fun i _ => some { kind := .media (locSuite r.loc) (locUnit r.loc + i) }
  | 0x02 => run fun i old => some { kind := .media (locSuite r.loc) (locUnit r.loc + i), bad := old.bad }
  | 0x03 =>
    match extPlace m r.nsid (r.first / 256) with
    | none => m
    | some p => setExtForm (freeGroupOf m (Tbl.getD m.ext p .unmapped)) p (.media (locSuite r.loc) (locUnit r.loc))
  | 0x04 => run fun _ _ => some {}
  | 0x05 => run fun _ _ => some { kind := .zero }
  | 0x06 =>
    if r.aux = 0 then run fun _ _ => some { kind := .uncorr }
    else run fun _ old => some (if old.kind = .uncorr || old.kind = .lost then old
                                else if old.bad ||| r.aux = 0xFF then { kind := .uncorr } else { old with bad := old.bad ||| r.aux })
  | 0x07 => run fun _ _ => some { kind := .lost }
  | 0x0C =>
    if (Tbl.find m.dir r.nsid).isSome then m else { m with dir := Tbl.put m.dir r.nsid (freeChunks m (ceilDiv r.count 16384)) }
  | 0x0D => { m with dir := Tbl.del m.dir r.nsid }
  | _ => m

/-! ## The journal's tail (R191, R193, R195) -/

/-- Records of a batch of 16 pages. -/
def batchRecs : Nat := 16 * 126

/-- The open batch closes: the rest is filled with PAD records, and its pages are programmed (R191). (DEDUCED: log entry 96.) -/
def closeBatch (s : State) : State :=
  if s.pan.openBatch.isEmpty then s
  else
    let pads := batchRecs - s.pan.openBatch.length
    s.modPan fun p => { p with
      closed := p.closed ++ [{ firstSeq := p.openFirst, recs := p.openBatch ++ List.replicate pads { typ := 0 } }],
      openBatch := [], nextSeq := p.nextSeq + pads, openFirst := p.nextSeq + pads, pageSeq := p.pageSeq + 16 }

/-- A record is appended: it takes the next number; a full batch closes (R191, R193). -/
def jAppend (s : State) (r : JRec) : State :=
  let s := s.modPan fun p => { p with
    openBatch := p.openBatch ++ [r], openFirst := if p.openBatch.isEmpty then p.nextSeq else p.openFirst,
    nextSeq := p.nextSeq + 1, cleanEnd := r.typ == 0x13 }
  if batchRecs ≤ s.pan.openBatch.length then closeBatch s else s

/-- Whether the extent at a place is under the hold of R178: an ingested partial change holds no reservation. -/
def heldPlace (s : State) (p : Nat) : Bool := s.pan.holds.any fun h => h.1 == p

/-! ## The cache lines (R182 to R186) -/

/-- The region of a DRAM address: the highest valid one that holds it (R184). -/
def regionAt (s : State) (a : Nat) : Option Nat :=
  (List.range 8).reverse.find? fun r =>
    s.on (PAN_REGION.VALID r) && decide (s.rd (PAN_REGION.BASE_MIB r) ≤ a / 2 ^ 20 ∧ a / 2 ^ 20 < s.rd (PAN_REGION.LIMIT_MIB r))

/-- The set and the tag of a line address (R182). -/
def lineSet (la : Nat) : Nat := bits la 0 14 ^^^ bits la 14 14
def lineTag (la : Nat) : Nat := bits la 14 15

/-- The way that holds a line, with what it holds. -/
def findWay (cs : CSet) (la : Nat) : Option (Nat × CLine) :=
  (cs.ways.find? fun w => w.2.tag == lineTag la && w.2.st != .invalid).map fun w => (w.1, w.2)

/-- Walks the pseudo-LRU tree towards the older half, within the ways allowed. -/
def plruWalk (plru : Nat) (ok : Nat → Bool) : Nat → Nat → Nat → Nat → Nat
  | 0, _, lo, _ => lo
  | fuel + 1, node, lo, width =>
    let h := width / 2
    let left := (List.range h).any fun i => ok (lo + i)
    let right := (List.range h).any fun i => ok (lo + h + i)
    if right && (bitAt plru node || !left) then plruWalk plru ok fuel (2 * node + 2) (lo + h) h
    else plruWalk plru ok fuel (2 * node + 1) lo h

/-- A use of way `w` points every node of its path away from it. -/
def plruTouch (w : Nat) : Nat → Nat → Nat → Nat → Nat → Nat
  | 0, _, _, _, plru => plru
  | fuel + 1, node, lo, width, plru =>
    let h := width / 2
    if w < lo + h then plruTouch w fuel (2 * node + 1) lo h (putBits plru node 1 1)
    else plruTouch w fuel (2 * node + 2) (lo + h) h (putBits plru node 1 0)

/-- The way a miss takes: an unused way, else the tree pseudo-LRU choice over ways neither filling nor writing back, first among the
lines of EVICT_FIRST regions; none when every way is busy (R182). -/
def victimWay (cs : CSet) : Option Nat :=
  let way (i : Nat) : CLine := Tbl.getD cs.ways i { tag := 0, st := .invalid }
  let idle (i : Nat) : Bool := (way i).st != .filling && (way i).st != .writingBack
  let free := (List.range 16).find? fun i => (way i).st == .invalid
  let ef (i : Nat) : Bool := idle i && (way i).evictFirst
  match free with
  | some i => some i
  | none =>
    if (List.range 16).any ef then some (plruWalk cs.plru ef 4 0 0 16)
    else if (List.range 16).any idle then some (plruWalk cs.plru idle 4 0 0 16)
    else none

/-- Lines of the whole cache in a state. -/
def linesIn (s : State) (st : LineState) : Nat :=
  (s.pan.cache.map fun c => c.2.ways.countP fun w => w.2.st == st).foldl (· + ·) 0

/-- A line is touched by a lookup (`write` false) or a change (`write` true) under its region's policy (Table 5-9). Answers whether it
is ready; a miss that allocates starts a fill, and its dirty victim is written back first (R182 to R185). -/
def touchLine (s : State) (a : Nat) (write : Bool) : State × Bool :=
  match regionAt s a with
  | none => (s, true)
  | some r =>
    let policy := s.rd (PAN_REGION.POLICY r)
    let la := a / 128
    let cs := Tbl.getD s.pan.cache (lineSet la) {}
    let put (cs : CSet) : State := s.modPan fun p => { p with cache := Tbl.setD p.cache (lineSet la) cs {} }
    if policy = 0 || policy = 3 then (s, true)
    else
      match findWay cs la with
      | some (w, l) =>
        match l.st with
        | .clean | .dirty =>
          let l := if write && policy = 2 then { l with st := .dirty } else l
          (put { cs with ways := Tbl.put cs.ways w l, plru := plruTouch w 4 0 0 16 cs.plru }, true)
        | .filling => (put { cs with ways := Tbl.put cs.ways w { l with thenDirty := l.thenDirty || (write && policy = 2) } }, write)
        | _ => (s, write)
      | none =>
        let alloc := if write then s.on (PAN_REGION.ALLOC_WRITE r) else s.on (PAN_REGION.ALLOC_READ r)
        if !alloc then (s, true)
        else
          match victimWay cs with
          | none => (s, write)
          | some w =>
            match Tbl.find cs.ways w with
            | some { tag := t, st := .dirty, evictFirst := e, thenDirty := d } =>
              (put { cs with ways := Tbl.put cs.ways w { tag := t, st := .writingBack, evictFirst := e, thenDirty := d } }, write)
            | _ =>
              if 256 ≤ linesIn s .filling then (s, write)
              else
                let l : CLine := { tag := lineTag la, st := .filling, evictFirst := s.on (PAN_REGION.EVICT_FIRST r), thenDirty := write && policy = 2 }
                (put { cs with ways := Tbl.put cs.ways w l }, write)

/-- The DRAM address of an extent entry, and of an exception entry (Table 5-1). -/
def extAddr (s : State) (p : Nat) : Nat := s.rd (PAN_REGION.BASE_MIB 0) * 2 ^ 20 + 8 * p
def grpAddr (s : State) (g k : Nat) : Nat := s.rd (PAN_REGION.BASE_MIB 5) * 2 ^ 20 + 2048 * g + 8 * k

/-- A lookup touches the extent entry's line and, for a split extent, the group's. It is served when both are ready; hits and misses
are counted (R175, Table 5-18). (DEDUCED: log entry 32.) -/
def lookupLines (s : State) (ns u : Nat) : State × Bool :=
  match extPlace s.pan.img ns (u / 256) with
  | none => (s, true)
  | some p =>
    let (s, a) := touchLine s (extAddr s p) false
    let (s, b) := match Tbl.getD s.pan.img.ext p .unmapped with
      | .split g => if a then touchLine s (grpAddr s g (u % 256)) false else (s, true)
      | _ => (s, true)
    if a && b then (s.wr PAN_HIT_CNT.V (s.rd PAN_HIT_CNT.V + 1), true)
    else (s.wr PAN_MISS_CNT.V (s.rd PAN_MISS_CNT.V + 1), false)

/-! ## A change of the DRAM map with its record (R177, R193) -/

/-- The ledger of the suite that a PLACE, RELOCATE or CONSOLIDATE record names grows by its run (R373). -/
def noteLedger (s : State) (r : JRec) : State :=
  if r.typ = 0x01 || r.typ = 0x02 || r.typ = 0x03 then
    let n := if r.typ = 0x03 then 256 else r.count
    s.modScu fun x => { x with ledger := Tbl.put x.ledger (locSuite r.loc) (Tbl.getD x.ledger (locSuite r.loc) [] ++ [(r.nsid, r.first, locUnit r.loc, n)]) }
  else s

/-- The record's change is made and the record appended; the lines that hold the extent are written. After a ring fault no map change is
made (R421). -/
def mapChange (s : State) (r : JRec) : State :=
  if s.on BSM_STATUS.RING_FAULT then s
  else
    let m := applyRec (groupsUsable s) (parkedGroup s.pan.flash) (heldPlace s) s.pan.img r
    let s := s.modPan fun p => { p with img := m }
    let s := match extPlace s.pan.img r.nsid (r.first / 256) with
      | some p => (touchLine s (extAddr s p) true).1
      | none => s
    jAppend (noteLedger s r) r

/-- Several changes, in order. -/
def mapChanges (s : State) (l : List JRec) : State := s.each l mapChange

/-- Whether the Pantry serves lookups and commits, and whether it makes map changes (R188, R205). -/
def panOn (s : State) : Bool := s.on PAN_CTL.ENABLE
def journalOn (s : State) : Bool := s.on PAN_CTL.ENABLE && s.on PAN_CTL.JOURNAL_EN

/-- A unit leaves the overlay; its pending emission is dropped (Table 5-6). -/
def dropOverlay (s : State) (ns u n : Nat) : State :=
  s.modPan fun p => { p with overlay := Tbl.keep p.overlay fun k _ => !(unitKey ns u ≤ k && decide (k < unitKey ns u + n)) }

/-- While the usable budget has room, parked groups are loaded in extent order and their extents are SPLIT again (R204). -/
def unpark : Nat → State → State
  | 0, s => s
  | fuel + 1, s =>
    match s.pan.img.ext.find? fun e => e.2.isParked with
    | some (p, .parked _ _ _ g) =>
      if groupsUsed s < groupsUsable s then
        let m := s.pan.img
        let k := firstGap m.grp 0
        unpark fuel (s.modPan fun x => { x with img := { setExtForm m p (.split k) with grp := Tbl.put m.grp k (parkedGroup s.pan.flash g) } })
      else s
    | _ => s

/-- What a change of the budget decides: consolidation runs from 75% of USABLE until below 70% (R180), and parked groups come back (R204). -/
def panFlags (s : State) : State :=
  let s := unpark 64 s
  let used := groupsUsed s
  let usable := groupsUsable s
  let c := if usable * 3 ≤ used * 4 && decide (0 < usable) then true
           else if used * 10 < usable * 7 then false else s.pan.consolidating
  s.modPan fun p => { p with consolidating := c }

end Sys2Proof.Machine
end

