-- ==== Sys2Proof/Machine/Die.lean ====
section
/-!
DEFINITION. What the engines share below the port sequencers: a port and its dies, the descriptor ring's entries as the hardware
sees them, and offering a die operation to a port's scheduler (R276, R277, R283, R310 to R313, R354).
-/
namespace Sys2Proof.Machine

/-! ## Ports and dies -/

/-- Cellar port `n`. -/
def State.port (s : State) (n : Nat) : OtPort := Tbl.getD s.cel.ports n {}

def State.modPort (s : State) (n : Nat) (f : OtPort → OtPort) : State :=
  s.modCel fun c => { c with ports := Tbl.modD c.ports n {} f }

/-- The ports that the PORTS strap populates: 8, 16, … 64 (Table 0-2). -/
def populated (s : State) (n : Nat) : Bool := decide (n < 8 * (s.pwr.straps.ports + 1))

/-- MODE of CEL_PORT_CFG; 0x3 acts as 0x0 (Table 7-15). -/
def portMode (s : State) (n : Nat) : Nat :=
  if s.rd (CEL_PORT_CFG.MODE n) = 3 then 0 else s.rd (CEL_PORT_CFG.MODE n)

def portRetired (s : State) (n : Nat) : Bool := (s.port n).retired || s.cel.retiredTable.contains n

/-- Whether die `d` of port `n` is present and not excluded (R276). -/
def diePresent (s : State) (n d : Nat) : Bool :=
  bitAt (s.rd (CEL_DIE_MAP.PRESENT n)) d && !bitAt (s.rd (CEL_DIE_MAP.EXCLUDED n)) d

/-- The number of populated ports in Otcon mode, P of R366. -/
def otconPorts (s : State) : Nat := (List.range 64).countP fun n => populated s n && portMode s n != 2

/-! ## Ring entries (Table 8-10, R310 to R313) -/

/-- `len` bytes at offset `off` of ring entry `i`. -/
def descByte (s : State) (n i off len : Nat) : Nat := Tbl.readBytes (s.seq n).ram 0 (0x3800 + 32 * i + off) len

/-- STATE of a ring entry. -/
def setDescState (s : State) (n i st : Nat) : State :=
  s.modSeq n fun q => { q with ram := Tbl.writeBytes q.ram 0 (0x3800 + 32 * i) 1 st }

/-- Rewrites the ARG of a ring entry. -/
def setDescArg (s : State) (n i v : Nat) : State :=
  s.modSeq n fun q => { q with ram := Tbl.writeBytes q.ram 0 (0x3800 + 32 * i + 0x14) 4 v }

/-- CMD frames of an entry that are queued and not sent, and the WDATA frames behind them, are withdrawn (R312). -/
def withdraw (s : State) (n i : Nat) : State :=
  let k := ((Tbl.find (s.seq n).descs i).map fun h => h.queued).getD 0
  let keep (l : List TxFrame) : List TxFrame := l.filter fun f => f.desc != some i
  let s := s.modPort n fun p => { p with cmdHost := keep p.cmdHost, cmdBg := keep p.cmdBg, wdHost := keep p.wdHost, wdBg := keep p.wdBg }
  s.modSeq n fun q => { q with descs := Tbl.upd q.descs i fun h => { h with queued := 0, open_ := h.open_.take (h.open_.length - k) } }

/-- The entry leaves its die: it is neither running nor suspended there; a die that still owes closing statuses stays busy until they
arrive (R310). -/
def leaveDie (s : State) (n i : Nat) : State :=
  let hw := Tbl.find (s.seq n).descs i
  s.modPort n fun p => { p with
    running := Tbl.keep p.running fun _ j => j != i, suspended := Tbl.keep p.suspended fun _ j => j != i,
    lingering := match hw with
      | some h => if h.open_.isEmpty then p.lingering else Tbl.put p.lingering i (h.op.die, h.open_.length)
      | none => p.lingering }

/-- ODONE frees the entry (R310). -/
def releaseDesc (s : State) (n i : Nat) : State :=
  let s := leaveDie (withdraw s n i) n i
  (setDescState s n i 0).modSeq n fun q => { q with descs := Tbl.del q.descs i }

/-- The entry is freed without an outcome: the operation goes back to its die's queue (R312, R313). -/
def freeDesc (s : State) (n i : Nat) : State :=
  (setDescState s n i 0).modSeq n fun q => { q with descs := Tbl.del q.descs i }

/-- Whether the recipe of an entry declares read-after-program verify: bit 0 of its FLAGS (R222). -/
def recipeVerify (s : State) (n i : Nat) : Bool :=
  bitAt (Tbl.readBytes (s.seq n).ram 0 (0x2C02 + 64 * descByte s n i 0x10 1) 2) 0

/-- A die's queue after a change: an empty one is not listed. -/
def putOrDel {α : Type} (t : Tbl (List α)) (i : Nat) (l : List α) : Tbl (List α) :=
  if l.isEmpty then Tbl.del t i else Tbl.put t i l

/-- Operations of the dump are exempt from the limits on busy dies (R539). -/
def isDumpOp (op : DieOp) : Bool :=
  match op.issuer with
  | .dump _ => true
  | _ => false

/-- The host port that a host read's data goes to (R354). -/
def readDest (s : State) (op : DieOp) : Option Nat :=
  match op.issuer with
  | .hostRead n _ _ => (Tbl.find s.hall.ctxs n).map fun c => c.port
  | _ => none

/-- PACE_CW, at least 16 (R359). -/
def paceLimit (s : State) : Nat := max 16 (s.rd LND_POLICY.PACE_CW)

/-- Whether a host read must wait for its host port to drain (R354). (DEDUCED: log entry 111.) -/
def paced (s : State) (n : Nat) (op : DieOp) : Bool :=
  match readDest s op with
  | some p => decide (paceLimit s < Tbl.getD s.lnd.pace (2 * n + p) 0 + op.cwCount)
  | none => false

/-! ## Offering an operation to a port (R277) -/

/-- An engine offers an operation to the scheduler of port `n`: it takes the next number, and enters a die queue when
DIE_SCHEDULER_ENQUEUE finds room. -/
def offer (s : State) (n : Nat) (op : DieOp) : State :=
  let id := s.cel.nextOp
  let s := if op.cls = 0 && !s.hall.hostWaited.contains n then s.modHall fun h => { h with hostWaited := n :: h.hostWaited } else s
  (s.modCel fun c => { c with nextOp := id + 1 }).modPort n fun p => { p with offers := p.offers ++ [{ op with id := id }] }

/-- The worst-case time of an operation's recipe in µs, for the arbiter (R37). -/
def recipeByte (s : State) (n : Nat) (op : DieOp) (off len : Nat) : Nat :=
  match (List.range 16).find? fun k =>
    Tbl.readBytes (s.seq n).ram 0 (0x2C00 + 64 * k) 1 = op.kind &&
    (Tbl.readBytes (s.seq n).ram 0 (0x2C01 + 64 * k) 1 = op.cell || Tbl.readBytes (s.seq n).ram 0 (0x2C01 + 64 * k) 1 = 0xFF) with
  | some k => Tbl.readBytes (s.seq n).ram 0 (0x2C00 + 64 * k + off) len
  | none => 0

/-- The preemption latency of an operation in µs (R37): PREEMPT_US where the recipe carries the flag that makes its kind preemptible,
else BUSY_MAX_US. -/
def preemptUs (s : State) (n : Nat) (op : DieOp) : Nat :=
  let flags := recipeByte s n op 2 2
  if (op.kind = 1 && bitAt flags 2) || (op.kind ≠ 1 && bitAt flags 1) then recipeByte s n op 6 2 else recipeByte s n op 8 4

/-- Whether a host operation waits for the port: queued, offered or in flight for the host class. -/
def hostWaits (s : State) (n : Nat) : Bool :=
  let p := s.port n
  p.offers.any (fun o => o.cls == 0) || p.dieQ.any fun e => e.2.any fun o => o.cls == 0

/-- Whether the media arbiter grants a background operation (R36 to R39): BG_HOLD, PWRFAIL#, PS3 to PS5 and a higher class that is ready
stop it; with host work waiting its port's background share stays within 20%, and what cannot be preempted within 20 µs
does not start; emergency reclaim only keeps host reads at least half of the window (R38). -/
def bgGrant (s : State) (n : Nat) (op : DieOp) : Bool :=
  let p := s.port n
  let bg := Tbl.getD s.hall.bgTime n 0
  let em := Tbl.getD s.hall.emTime n 0
  let higher := p.dieQ.any fun e => e.2.any fun o => o.cls == 2 && o.bgClass != 8 && decide (o.bgClass < op.bgClass)
  if s.on HAL_CTL.BG_HOLD || s.pwr.frozen || asleep s then false
  else if op.bgClass = 8 then !hostWaits s n || decide (bg + em < 5000)
  else !higher && decide (preemptUs s n op ≤ 20) && (!hostWaits s n || decide (bg < 2000))

/-- Die time of an ended operation is charged to the window (R36, R38). -/
def chargeDieTime (s : State) (n : Nat) (op : DieOp) (us : Nat) : State :=
  if op.cls ≠ 2 then s
  else if op.bgClass = 8 then s.modHall fun h => { h with emTime := Tbl.setD h.emTime n (Tbl.getD h.emTime n 0 + us) 0 }
  else s.modHall fun h => { h with bgTime := Tbl.setD h.bgTime n (Tbl.getD h.bgTime n 0 + us) 0 }

end Sys2Proof.Machine
end

