-- ==== Sys2Proof/Machine/Suites.lean ====
section
/-!
DEFINITION. Stripe groups, suites and locations (R366 to R372, R375, R379): which dies a suite spans, where a data unit lies, which
suites are free, and the records of a suite's changes.
-/
namespace Sys2Proof.Machine

def State.suite (s : State) (k : Nat) : Suite := Tbl.getD s.scu.suites k {}

def State.modSuite (s : State) (k : Nat) (f : Suite → Suite) : State :=
  s.modScu fun x => { x with suites := Tbl.modD x.suites k {} f }

/-! ## Members (R366 to R368) -/

/-- Port and die of die index `i`: i = d × P + p (R366). -/
def dieOf (s : State) (i : Nat) : Nat × Nat := (i % max 1 (otconPorts s), i / max 1 (otconPorts s))

/-- Port and die of member `m` of the stripe group of suite `k`. -/
def memberDie (s : State) (k m : Nat) : Nat × Nat := dieOf s (32 * (k % 32) + m)

def badKey (n d b : Nat) : Nat := (16 * n + d) * 2 ^ 15 + b

/-- A member in service: present, not excluded, not retired (R367). -/
def inService (s : State) (k m : Nat) : Bool :=
  let (n, d) := memberDie s k m
  populated s n && diePresent s n d && !portRetired s n && !s.scu.retiredDies.contains (16 * n + d)

/-- The members a suite has when it opens: in service, its block not bad, its die not shut out by a long temperature inhibit (R234,
R368). -/
def openMembers (s : State) (k : Nat) : List Nat :=
  (List.range 32).filter fun m =>
    let (n, d) := memberDie s k m
    inService s k m && !s.scu.badBlocks.contains (badKey n d (k / 32)) && !s.ldr.excluded.contains (16 * n + d)

def maskOf (l : List Nat) : Nat := l.foldl (fun a m => a + 2 ^ m) 0

/-- Members of a suite that hold a position in a row (R368, R370). -/
def membersAt (x : Suite) (row : Nat) : List Nat :=
  (List.range 32).filter fun m => bitAt x.members m && !x.removed.any fun r => r.1 == m && decide (r.2 ≤ row)

/-- The parity die of a row: the highest-numbered member (R225, R368). -/
def parityMember (x : Suite) (row : Nat) : Nat := ((membersAt x row).getLast?).getD 0

def dataMembers (x : Suite) (row : Nat) : List Nat := (membersAt x row).dropLast

/-- Slots of a die wordline: pages × planes × 4, at most 64 (R215). -/
def slotsPerWl (s : State) (cell : Nat) : Nat := min 64 (cell * s.scu.geo.planes * 4)

/-- Data units that a suite holds from a row on. -/
def unitsFrom (s : State) (x : Suite) (row : Nat) : Nat :=
  (List.range (s.scu.geo.rows - row)).foldl (fun a i => a + (dataMembers x (row + i)).length * slotsPerWl s x.cell) 0

/-! ## Locations (R369) -/

/-- Where a data unit lies. -/
structure Place3 where
  m : Nat
  port : Nat
  die : Nat
  block : Nat
  row : Nat
  page : Nat
  plane : Nat
  cw : Nat
  pos : Nat
  deriving DecidableEq, Repr

/-- The row that holds data unit `u`, and the unit's number within it. -/
def rowOf (s : State) (x : Suite) : Nat → Nat → Nat → Option (Nat × Nat)
  | 0, _, _ => none
  | fuel + 1, row, u =>
    let n := (dataMembers x row).length * slotsPerWl s x.cell
    if u < n then some (row, u) else rowOf s x fuel (row + 1) (u - n)

/-- The place of position `q` of member `m` in a row. -/
def placeAt (s : State) (k : Nat) (x : Suite) (m row q : Nat) : Place3 :=
  let (n, d) := memberDie s k m
  let pl := max 1 s.scu.geo.planes
  { m := m, port := n, die := d, block := k / 32, row := row, page := row * x.cell + q / (pl * 4), plane := q / 4 % pl, cw := q % 4, pos := q }

/-- The location of data unit `u` of suite `k` (R369). -/
def locate (s : State) (k u : Nat) : Option Place3 :=
  let x := s.suite k
  let spw := slotsPerWl s x.cell
  match rowOf s x s.scu.geo.rows 0 u with
  | none => none
  | some (row, v) => ((dataMembers x row)[v / spw]?).map fun m => placeAt s k x m row (v % spw)

/-- A read of one codeword. -/
def readOp (p : Place3) (x : Suite) (k u cls bg : Nat) (by_ : Issuer) : DieOp :=
  { kind := 1, die := p.die, planes := 2 ^ p.plane, cwCount := 1, cwPerPlane := 1, cwFirst := p.cw, cell := x.cell, block := p.block,
    page := p.page, cls := cls, bgClass := bg, suite := some k, unit := u, issuer := by_ }

/-- A page read of a member's block is counted; a block past the read-disturb limit makes its suite REFRESH_DUE (R393, R404). -/
def countRead (s : State) (k m : Nat) (by_ : Nat := 1) : State :=
  s.modSuite k fun x =>
    let n := Tbl.getD x.reads m 0 + by_
    { x with reads := Tbl.put x.reads m n, refreshDue := x.refreshDue || decide (1024 * max 1 (s.rd SCU_CARE_CFG.DISTURB_K) ≤ n) }

/-- Issues the read of a data unit; page reads of the member's block are counted (R393). A location on a retired port cannot be read. -/
def readUnit (s : State) (k u cls bg : Nat) (by_ : Issuer) : Option State :=
  match locate s k u with
  | none => none
  | some p =>
    if portRetired s p.port then none
    else
      let s := countRead s k p.m
      some (offer s p.port (readOp p (s.suite k) k u cls bg by_))

/-- Issues the read of position `q` of a member's wordline in a row, the parity member included. -/
def readMember (s : State) (k m row q cls bg : Nat) (by_ : Issuer) : Option State :=
  let x := s.suite k
  let p := placeAt s k x m row q
  if portRetired s p.port then none
  else some (offer (countRead s k m) p.port (readOp p x k 0 cls bg by_))

/-! ## Pools (R371, R375, R379) -/

/-- The reclaim group of a suite (R375). -/
def rgOf (s : State) (k : Nat) : Nat := if otconPorts s / 2 < 8 then k % 4 + 4 * (k / 32 % 2) else k % 8

/-- Suites that exist: the part's blocks on the stripe groups of the configuration. -/
def suiteNums (s : State) : List Nat := (List.range (32 * s.scu.geo.blocks)).filter fun k => decide (k % 32 < otconPorts s / 2)

/-- Whether a suite is ERASED and can be opened: at least 9 members (R367, R368). -/
def isFree (s : State) (k : Nat) : Bool := (s.suite k).st == 0 && decide (9 ≤ (openMembers s k).length)

/-- The free pool of a reclaim group; the held-back suite is not counted (R375). -/
def pool (s : State) (rg : Nat) : List Nat :=
  (suiteNums s).filter fun k => rgOf s k == rg && isFree s k && Tbl.find s.scu.heldBack rg != some k

/-- Whether a member of the suite is under temperature inhibit (R233). -/
def suiteHot (s : State) (k : Nat) : Bool :=
  (openMembers s k).any fun m => Tbl.has s.ldr.hot (16 * (memberDie s k m).1 + (memberDie s k m).2)

/-- The suite of least ERASE_COUNT, ties to the lower number (R379). -/
def leastWorn (s : State) (l : List Nat) : Option Nat :=
  l.foldl (fun b k => match b with
    | none => some k
    | some j => if (s.suite k).eraseCount < (s.suite j).eraseCount then some k else some j) none

/-- The reclaim group with the most ERASED suites, ties to the lower number (R376, R378). -/
def fullestPool (s : State) : Nat :=
  (List.range 8).foldl (fun b r => if (pool s b).length < (pool s r).length then r else b) 0

/-- The suite a front takes (R379). -/
def chooseSuite (s : State) (f : Front) : Option Nat :=
  let own := match f.sg with
    | some g => (suiteNums s).filter fun k => k % 32 == g && isFree s k && Tbl.find s.scu.heldBack (rgOf s k) != some k
    | none => []
  let base := if own.isEmpty then pool s f.rg else own
  let held := match Tbl.find s.scu.heldBack f.rg with
    | some k => if (f.stream = 2 || f.stream = 3) && isFree s k then [k] else []
    | none => []
  leastWorn s ((base ++ held).filter fun k => !suiteHot s k)

/-! ## Records of suite changes (R372) -/

/-- Appends a SUITE_STATE record. -/
def suiteRecord (s : State) (k aux count first : Nat) : State :=
  jAppend s { typ := 0x0B, count := count, first := first, loc := locWord k 0, aux := aux }

/-- The thresholds of reclaim as they act (R403). -/
def freeStart (s : State) : Nat := max 2 (s.rd SCU_RECLAIM_CFG.FREE_START)
def freeStop (s : State) : Nat := if s.rd SCU_RECLAIM_CFG.FREE_STOP ≤ freeStart s then freeStart s + 4 else s.rd SCU_RECLAIM_CFG.FREE_STOP

/-- Adds a number to a list where `c` holds, else takes it out. -/
def mark (l : List Nat) (c : Bool) (k : Nat) : List Nat := if c then (if l.contains k then l else k :: l) else l.filter fun x => x != k

/-- What the ERASED count of a reclaim group decides: reclaim starts at FREE_START and stops at FREE_STOP; at 0 the group is below the
emergency floor, until the count is 2 (R38, R381). -/
def poolCheck (s : State) (rg : Nat) : State :=
  let n := (pool s rg).length
  s.modScu fun x => { x with
    reclaiming := if n ≤ freeStart s then mark x.reclaiming true rg else if freeStop s ≤ n then mark x.reclaiming false rg else x.reclaiming,
    emerg := if n = 0 then mark x.emerg true rg else if 2 ≤ n then mark x.emerg false rg else x.emerg }

/-- A front opens a suite: OPEN, with its members, cell mode, stream, group and handle (R371, R372). A fold source is bound to a quarter
of the least-worn ERASED suite of the same stripe group with the same members (R389). -/
def openSuite (s : State) (k cell stream handle : Nat) : State :=
  let l := openMembers s k
  let rg := rgOf s k
  let x0 := s.suite k
  let fold := s.scu.geo.multi && decide (stream ≤ 1)
  let same (j : Nat) : Bool := j % 32 == k % 32 && j != k && openMembers s j == l
  let open4 := (s.scu.suites.find? fun e => e.2.foldSource && e.2.st == 1 && e.1 % 32 == k % 32 && e.2.foldDest / 2 ^ 20 < 3 && same (e.2.foldDest % 2 ^ 20))
  let dest := if !fold then 0 else match open4 with
    | some e => e.2.foldDest + 2 ^ 20
    | none => (leastWorn s ((suiteNums s).filter fun j => same j && isFree s j)).getD k
  let x : Suite := { x0 with st := 1, cell := cell, stream := stream, rg := rg, handle := handle, unprotected := false, refreshDue := false,
                             suspect := false, foldSource := fold, short := false, static := false, members := maskOf l, removed := [],
                             reads := [], filled := 0, foldDest := dest, folded := 0, ledgerLoc := 0 }
  let x := { x with dataUnits := unitsFrom s x 0 }
  let s := if fold && open4.isNone && dest != k then
      let y : Suite := { s.suite dest with st := 1, cell := 4, stream := 1, rg := rgOf s dest, handle := 0xFF, members := maskOf l, removed := [],
                                           reads := [], filled := 0, unprotected := false, refreshDue := false, suspect := false, short := false,
                                           foldSource := false }
      suiteRecord (s.modScu fun z => { z with suites := Tbl.put z.suites dest { y with dataUnits := unitsFrom s y 0 }, ledger := Tbl.del z.ledger dest })
        dest 1 (maskOf l) (4 + 2 ^ 8 + rgOf s dest * 2 ^ 16 + 0xFF * 2 ^ 24)
    else s
  let s := s.modScu fun y => { y with suites := Tbl.put y.suites k x, ledger := Tbl.del y.ledger k,
                                      heldBack := if Tbl.find y.heldBack rg = some k then Tbl.del y.heldBack rg else y.heldBack }
  poolCheck (suiteRecord s k 1 (maskOf l) (cell + stream * 2 ^ 8 + rg * 2 ^ 16 + handle * 2 ^ 24)) rg

/-! ## Live units -/

/-- Units whose map entry names a suite: namespace, unit, data unit. -/
def liveUnitsOf (s : State) (k : Nat) : List (Nat × Nat × Nat) :=
  s.pan.img.dir.flatMap fun d =>
    ((List.range d.2.length).zip d.2).flatMap fun c =>
      (s.pan.img.ext.filter fun e => e.1 / 16384 == c.2).flatMap fun e =>
        let ext := c.1 * 16384 + e.1 % 16384
        (List.range 256).filterMap fun i =>
          match (extUnit s.pan.img (parkedGroup s.pan.flash) e.2 i).kind with
          | .media x y => if x == k then some (d.1, 256 * ext + i, y) else none
          | _ => none

/-- VALID of a suite (Table 10-2). -/
def liveUnits (s : State) (k : Nat) : Nat := (liveUnitsOf s k).length

/-- A suite closes: CLOSED with its VALID and the location of its first ledger page, which is wherever the journal stream puts it: a free
value (R372, R373). (DEDUCED: log entry 99.) -/
def closedSuite (s : State) (k : Nat) : State :=
  let loc := Config.freeNat s.free % 2 ^ 64
  let s := s.tick.modSuite k fun y => { y with st := 2, closeHour := s.pwr.opSec / 3600, ledgerLoc := loc }
  suiteRecord s k 2 (liveUnits s k) loc

def isSource (s : State) (k : Nat) : Bool := (s.suite k).st == 3

/-- Whether the Cellar may erase the block an operation names (R199, R379). -/
def eraseAllowed (s : State) (_n : Nat) (op : DieOp) : Bool :=
  match op.suite with
  | some k => s.pan.erasable.contains k || (s.suite k).st == 7
  | none => true

/-- Erases the block on every member of a MARKED suite that no reader pins (R199, R383, R386). -/
def startErase (s : State) (k : Nat) : State :=
  let l := (membersAt (s.suite k) 0).filter fun m => inService s k m
  let s := (s.modSuite k fun x => { x with st := 5 }).modScu fun x => { x with erasing := Tbl.put x.erasing k l }
  s.each l fun s m =>
    let (n, d) := memberDie s k m
    offer s n { kind := 3, die := d, planes := 2 ^ s.scu.geo.planes - 1, cell := (s.suite k).cell, block := k / 32, cls := 2,
                bgClass := if s.scu.emerg.contains (s.suite k).rg then 8 else 1, suite := some k, issuer := .erase k m }

/-- A MARKED suite becomes erasable once no reader pins a unit of it, and its erase is issued (R199). -/
def eraseIfDue (s : State) (k : Nat) : State :=
  if (s.suite k).st = 4 && !s.pan.pins.any (fun x => x.2.1 == k) && !s.pwr.frozen then
    startErase (s.modPan fun p => { p with erasable := if p.erasable.contains k then p.erasable else k :: p.erasable }) k
  else s

/-- A member leaves a suite from its present row on (R228, R370): its die's block is bad; a fifth removal ends the suite. -/
def removeMember (s : State) (k m row : Nat) : State :=
  let (n, d) := memberDie s k m
  let key := badKey n d (k / 32)
  if (s.suite k).removed.any fun r => r.1 == m then s
  else
    let s := s.modSuite k fun x => { x with removed := x.removed ++ [(m, row)] }
    let s := s.modScu fun x => { x with badBlocks := if x.badBlocks.contains key then x.badBlocks else key :: x.badBlocks,
                                        foldStopped := if (s.suite k).foldSource then k :: x.foldStopped else x.foldStopped }
    suiteRecord s k 8 m 0

end Sys2Proof.Machine
end

