-- ==== Sys2Proof/Machine/Shares.lean ====
section
/-!
DEFINITION. Shares and Stair links (R575 to R582, R585): how the extents of a namespace are spread over the manager and its workers, the
links to a worker, and sending a Stair frame and a worker's answer.
-/
namespace Sys2Proof.Machine

/-- The Provisioned ID of Table 16-1, from the instance and the device serial. (DESIGN CHOICE: log entry 28.) -/
def provisionedId (inst serial : Nat) : Nat := Config.mipiId.toNat * 2 ^ 33 + 0x0640 * 2 ^ 16 + inst * 2 ^ 12 + serial % 4096

/-! ## Shares (R576) -/

def isManager (s : State) : Bool := s.pwr.straps.role == 1
def isWorker (s : State) : Bool := s.pwr.straps.role == 2

def weightOf (s : State) (i : Nat) : Nat := s.rd (STA_WEIGHT.WEIGHT i)

/-- L of R576. -/
def seqLen (s : State) : Nat := (List.range 8).foldl (fun a i => a + weightOf s i) 0

/-- The share that takes place `j`: the largest w(s)(j + 1) − placed(s) L, ties to the lower share. -/
def nextShare (w : Nat → Nat) (l j : Nat) (placed : List Nat) : Nat :=
  let v (i : Nat) : Int := (w i * (j + 1) : Nat) - ((placed.count i * l : Nat) : Int)
  (List.range 8).foldl (fun b i => if v b < v i then i else b) 0

/-- The share sequence, newest place first. -/
def shareSeqRev (w : Nat → Nat) (l : Nat) : Nat → List Nat
  | 0 => []
  | j + 1 => let r := shareSeqRev w l j; nextShare w l j r :: r

/-- The sequence of shares by which extents are placed (R576). (DEDUCED: log entry 120.) -/
def shareSeq (s : State) : List Nat := (shareSeqRev (weightOf s) (seqLen s) (seqLen s)).reverse

/-- The share of an extent of a namespace, and its extent there. -/
def shareOf (s : State) (ext : Nat) : Nat × Nat :=
  let l := seqLen s
  if !isManager s || l = 0 then (0, ext)
  else
    let q := shareSeq s
    let k := (q[ext % l]?).getD 0
    (k, ext / l * weightOf s k + (q.take (ext % l)).count k)

/-- The place of a unit of the manager's own share in its own map. -/
def localUnit (s : State) (u : Nat) : Nat := (shareOf s (u / 256)).2 * 256 + u % 256

/-- The extent of the namespace that extent `e` of share `k` stands for. -/
def globalExt (s : State) (k e : Nat) : Nat :=
  let l := seqLen s
  let w := weightOf s k
  if !isManager s || l = 0 || w = 0 then e
  else
    let at_ := ((List.range l).filter fun j => (shareSeq s)[j]? == some k)[e % w]?
    e / w * l + at_.getD 0

/-- The unit of the namespace that a unit of share 0's map stands for. -/
def globalUnit (s : State) (u : Nat) : Nat := globalExt s 0 (u / 256) * 256 + u % 256

/-- Extents that a namespace of `total` extents has in a share. -/
def shareExtents (s : State) (k total : Nat) : Nat :=
  let l := seqLen s
  if !isManager s || l = 0 then (if k = 0 then total else 0)
  else total / l * weightOf s k + ((shareSeq s).take (total % l)).count k

/-! ## Links (R575, R577) -/

def State.worker (s : State) (w : Nat) : WorkerSt := Tbl.getD s.sta.workers w {}

def State.modWorker (s : State) (w : Nat) (f : WorkerSt → WorkerSt) : State :=
  s.modSta fun x => { x with workers := Tbl.modD x.workers w {} f }

/-- A port that carries a Stair link now. -/
def stairUp (s : State) (n : Nat) : Bool :=
  populated s n && portMode s n == 2 && !portRetired s n && (s.rd (CEL_PORT_STATUS.STATE n) == 5 || s.rd (CEL_PORT_STATUS.STATE n) == 6 || s.rd (CEL_PORT_STATUS.STATE n) == 7)

def stairPorts (s : State) : List Nat := (List.range 64).filter fun n => populated s n && portMode s n == 2

/-- The workers that the Stair table configures. -/
def configured (s : State) (w : Nat) : Bool :=
  isManager s && decide (1 ≤ w ∧ w ≤ 7) && (stairPorts s).any fun n => s.rd (STA_LINK.WORKER n) == w

def configuredWorkers (s : State) : List Nat := (List.range 8).filter (configured s)

/-- The joined links of a worker in service, by ascending link index. -/
def linksOf (s : State) (w : Nat) : List Nat :=
  (List.range 8).filterMap fun i => (stairPorts s).find? fun n =>
    stairUp s n && s.rd (STA_LINK.WORKER n) == w && s.rd (STA_LINK.LINK_INDEX n) == i && (s.worker w).joined.contains n

/-- Whether the device, and on a manager every configured worker that has joined, is held up: the HOLDUP strap, and FLAGS.HOLDUP of the join
records (R24, Table 16-7). -/
def heldUp (s : State) : Bool :=
  s.pwr.straps.holdup && (configuredWorkers s).all fun w => (s.worker w).joined.isEmpty || (s.worker w).rec_.holdup

/-- A worker's lowest joined link to its manager. -/
def mgrLink (s : State) : Option Nat := (stairPorts s).find? fun n => stairUp s n && s.sta.joined.contains n

/-! ## Sending -/

/-- A Stair frame is queued: SDATA with the data frames, the others with the commands (R580). -/
def stairTx (s : State) (n typ tag cw : Nat) (last : Bool) (m : StairMsg) : State :=
  let f : TxFrame := { typ := typ, tag := tag, cwIndex := cw, last := last, src := .stair typ m }
  if !stairUp s n then s
  else if typ = 0x13 then s.modPort n fun p => { p with wdHost := p.wdHost ++ [f] }
  else s.modPort n fun p => { p with cmdHost := p.cmdHost ++ [f] }

/-- A worker reports to its manager (Table 16-2). -/
def tellManager (s : State) (typ : Nat) (m : StairMsg) : State :=
  match mgrLink s with
  | some n => if isWorker s then stairTx s n typ 0 0 true m else s
  | none => s

/-- The key of a request at a worker: EPOCH, INGEST, SUB (R583, R585). -/
def stairKey (r : SReq) : Nat := (r.epoch * 2 ^ 64 + r.ingest) * 65536 + r.sub

/-- A worker answers a request with SDONE; what R585 names is kept in the done table. -/
def stairDone (s : State) (link tag : Nat) (r : SReq) (phase sct sc units : Nat) : State :=
  let d : SDone := { phase := phase, sct := sct, sc := sc, units := units, ingest := r.ingest, sub := r.sub }
  let s := if phase = 1 && decide (2 ≤ r.kind ∧ r.kind ≤ 5) then
      s.modSta fun x => { x with done := x.done ++ [(stairKey r, d, s.pwr.opSec)] } else s
  let ports := if r.kind = 6 || r.kind = 7 then (stairPorts s).filter (stairUp s) else [link]
  match ports with
  | n :: _ => stairTx s n 0x14 tag 0 true (.done d)
  | [] => s

end Sys2Proof.Machine
end

