-- ==== Sys2Proof/Machine/HallBase.lean ====
section
/-!
DEFINITION. The Hall's bookkeeping (chapter 3) that every engine calls: contexts, the overlap tracker, ending a command, when writes have
settled (R104, R108), loss of acknowledged data and deferred write errors (R110 to R115, R158).
-/
namespace Sys2Proof.Machine

/-! ## Host ports and namespaces -/

def State.hport (s : State) (p : Nat) : HPort := Tbl.getD s.porch.ports p {}

def State.modHport (s : State) (p : Nat) (f : HPort → HPort) : State :=
  s.modPorch fun x => { x with ports := Tbl.modD x.ports p {} f }

/-- Ports in use: A, and B in port mode 0x1 (R42). -/
def twoPorts (s : State) : Bool := s.on PCH_PORT_CTL.PORT_MODE

def portsInUse (s : State) : List Nat := if twoPorts s then [0, 1] else [0]

/-- The key of queue `q` of a port. -/
def qkey (p q : Nat) : Nat := p * 65536 + q

def State.ctx (s : State) (n : Nat) : Option Ctx := Tbl.find s.hall.ctxs n

def State.modCtx (s : State) (n : Nat) (f : Ctx → Ctx) : State := s.modHall fun h => { h with ctxs := Tbl.upd h.ctxs n f }

/-- A feature of a controller as last set, or its default (Table 4-7). -/
def featKey (ctrl fid sub : Nat) : Nat := ctrl * 2 ^ 24 + fid * 2 ^ 16 + sub

def featDefault (s : State) (fid sub : Nat) : Nat :=
  match fid with
  | 0x01 => 6 + 31 * 2 ^ 24 + 15 * 2 ^ 16 + 7 * 2 ^ 8
  | 0x04 => if sub = 0 then 368 else if 1 ≤ sub && sub ≤ 3 then 0xFFFF else 0
  | 0x06 => if heldUp s then 0 else 1
  | _ => 0

def feat (s : State) (ctrl fid sub : Nat) : Nat :=
  if fid = 0x06 && heldUp s then 0 else (Tbl.find s.nvm.feats (featKey ctrl fid sub)).getD (featDefault s fid sub)

def setFeat (s : State) (ctrl fid sub v : Nat) : State :=
  s.modNvm fun x => { x with feats := Tbl.put x.feats (featKey ctrl fid sub) v }

/-- A feature that the whole subsystem or a namespace shares is kept under controller 0 (Table 4-7). -/
def featCtrl (p fid : Nat) : Nat := if fid = 0x02 || fid = 0x05 || fid = 0x0E || fid = 0x1D || fid = 0x1E || fid = 0x80 then 0 else p + 1

def nspace (s : State) (ns : Nat) : Option Nspace := Tbl.find s.nvm.spaces ns

/-- Blocks of a 4 KiB unit: 8 on the 512-byte formats 4 and 5, else 1 (Table 4-5). -/
def perUnit (s : State) (ns : Nat) : Nat :=
  match nspace s ns with
  | some x => if 4 ≤ x.fmt then 8 else 1
  | none => 1

/-- DULBE of a namespace (Table 4-7). -/
def dulbe (s : State) (ns : Nat) : Bool := bitAt (feat s 0 0x05 ns) 16

/-! ## Ranges (R88 to R90) -/

/-- The 4 KiB units that `nlb` blocks from `slba` touch. -/
def spanOf (s : State) (ns slba nlb : Nat) : Span :=
  let k := perUnit s ns
  { ns := ns, first := slba / k, count := if nlb = 0 then 0 else (slba + nlb - 1) / k - slba / k + 1 }

/-- Every unit of a namespace. -/
def wholeNs (s : State) (ns : Nat) : Span :=
  { ns := ns, first := 0, count := ((nspace s ns).map fun x => 256 * x.extents).getD 0 }

def Span.meets (a b : Span) : Bool :=
  a.all || b.all || (a.ns == b.ns && decide (a.first < b.first + b.count ∧ b.first < a.first + a.count))

/-- The ranges a command reads, and the ranges it writes (Table 3-2). -/
def readSpans (s : State) : HostCmd → List Span
  | .read ns a n _ => [spanOf s ns a n]
  | .compare ns a n _ => [spanOf s ns a n]
  | .verify ns a n _ => [spanOf s ns a n]
  | .copy ns _ _ l _ => l.map fun r => spanOf s ns r.1 r.2
  | _ => []

def writeSpans (s : State) : HostCmd → List Span
  | .write ns a n _ _ _ => [spanOf s ns a n]
  | .writeZeroes ns a n _ _ => [spanOf s ns a n]
  | .writeUncorr ns a n => [spanOf s ns a n]
  | .dsm ns true l => (l.take 256).map fun r => spanOf s ns r.1 r.2
  | .copy ns d _ l _ => [spanOf s ns d (l.foldl (fun k r => k + r.2) 0)]
  | .format ns _ _ _ _ => [wholeNs s ns]
  | .nsDelete ns => [wholeNs s ns]
  | .sanitize _ => [{ ns := 0, first := 0, count := 0, all := true }]
  | _ => []

/-- Ranges beyond one that the contexts hold in the pool of 16,384 (R90). -/
def poolUsed (s : State) : Nat := (Tbl.vals s.hall.ctxs).foldl (fun k c => k + (c.reads.length + c.writes.length - 1)) 0

/-- The ranges that the tracker records: whole namespaces where the pool has no room (R90). -/
def tracked (s : State) (l : List Span) : List Span :=
  if l.length ≤ 1 || poolUsed s + l.length - 1 ≤ 16384 then l else (l.take 1).map fun x => wholeNs s x.ns

/-- Whether unit span `x` of a command stamped `n` may be written: every older writer that overlaps it has committed or abandoned its
units there, and every older reader has resolved and pinned (R93). (DEDUCED: log entry 53.) -/
def mayCommit (s : State) (n : Nat) (x : Span) : Bool :=
  s.hall.ctxs.all (fun e =>
    decide (n ≤ e.1) ||
    (((e.2.st == .ready && e.2.wunits.all fun u => u.st != .waiting) || !(e.2.writes.any fun w => w.meets x) ||
        (!e.2.wunits.isEmpty && e.2.wunits.all fun u => u.st != .waiting || !(Span.meets { ns := u.ns, first := 256 * u.ext, count := 256 } x ||
          u.units.any fun k => Span.meets { ns := u.ns, first := k, count := 1 } x))) &&
     (e.2.st == .ready || e.2.resolved || !(e.2.reads.any fun r => r.meets x)))) &&
  s.hall.tails.all fun e =>
    decide (n ≤ e.1) || e.2.units.all fun u => u.st != .waiting || !(u.units.any fun k => Span.meets { ns := u.ns, first := k, count := 1 } x)

/-- Whether a reader stamped `n` may resolve range `x`: every older writer that overlaps it has committed or abandoned (R92, R93). -/
def mayResolve (s : State) (n : Nat) (x : Span) : Bool :=
  s.hall.ctxs.all (fun e =>
    decide (n ≤ e.1) || (e.2.st == .ready && e.2.wunits.all fun u => u.st != .waiting) || !(e.2.writes.any fun w => w.meets x) ||
    (!e.2.wunits.isEmpty && e.2.wunits.all fun u => u.st != .waiting || !(u.units.any fun k => Span.meets { ns := u.ns, first := k, count := 1 } x))) &&
  s.hall.tails.all fun e =>
    decide (n ≤ e.1) || e.2.units.all fun u => u.st != .waiting || !(u.units.any fun k => Span.meets { ns := u.ns, first := k, count := 1 } x)

/-! ## Ending a command -/

/-- A command becomes ready for completion with a status; failures are kept as Error Information entries and counted (R155, R156). -/
def finish (s : State) (n sct sc : Nat) (dw0 : Nat := 0) : State :=
  match s.ctx n with
  | none => s
  | some c =>
    if c.st = .ready then s
    else match c.stair with
    | some (link, tag, r) =>
      let s := s.modHall fun h => { h with ctxs := Tbl.del h.ctxs n, tails := if c.wunits.isEmpty then h.tails
                                             else Tbl.put h.tails n { ns := r.nsid, units := c.wunits, cmd := some c.cmd, stair := some (link, tag, r) } }
      stairDone s link tag r 1 sct sc r.units
    | none =>
      let s := s.modCtx n fun c => { c with st := .ready, sct := sct, sc := sc, dw0 := dw0 }
      if sct = 0 && sc = 0 then s
      else
        let lba := c.badLba.getD (match c.cmd with
          | .read _ a _ _ => a
          | .write _ a _ _ _ _ => a
          | .compare _ a _ _ => a
          | .verify _ a _ _ => a
          | _ => 0)
        let ns := (((c.reads ++ c.writes).head?).map fun x => x.ns).getD 0
        s.modNvm fun x =>
          let old := Tbl.getD x.errors c.port []
          let k := (old.head?.bind List.head?).getD 0 + 1
          { x with
            errors := Tbl.put x.errors c.port ([k, c.sq, c.cid, sct, sc, lba, ns] :: old.take 255)
            integrity := if (sct = 2 && sc = 0x81) || (sct = 7 && sc = 0xC2) then x.integrity + 1 else x.integrity }

def finishOk (s : State) (n : Nat) : State := finish s n 0 0

/-- A pin on a Larder slot, and its release; a slot that has passed is freed with its last pin (R95, R221). -/
def pinSlot (s : State) (k : Nat) : State := s.modLdr fun l => { l with slots := Tbl.upd l.slots k fun x => { x with pins := x.pins + 1 } }

/-- A slot returns to the free ones. -/
def freeSlot (s : State) (k : Nat) : State := s.modLdr fun l => { l with slots := Tbl.del l.slots k }

def unpinSlot (s : State) (k : Nat) : State :=
  match Tbl.find s.ldr.slots k with
  | none => s
  | some x =>
    if x.pins ≤ 1 && x.passed then freeSlot s k
    else s.modLdr fun l => { l with slots := Tbl.upd l.slots k fun x => { x with pins := x.pins - 1 } }

/-- A pin of a reader on a media location is released; a suite whose ERASE_MARK is durable becomes erasable with its last pin (R95,
R199). -/
def unpinMedia (s : State) (n suite unit : Nat) : State :=
  eraseIfDue (s.modPan fun p => { p with pins := p.pins.erase (n, suite, unit) }) suite

/-- Returns the slots of a writer's units that are not committed, and their reserved groups (R67, R214). -/
def returnSlots (s : State) (units : List WUnit) : State :=
  let l := units.filter fun u => u.st == .waiting
  let s := s.each (l.flatMap fun u => Tbl.vals u.slots) freeSlot
  s.modPan fun p => { p with grpReserved := p.grpReserved - l.countP fun u => u.group,
                             holds := p.holds.filter fun h => !l.any fun u => some h.1 == extPlace p.img u.ns u.ext && u.units.contains h.2 }

/-- The units of an atomic unit that need a Larder slot: all of a write's and of a copy's, and of Write Zeroes those covered in part. -/
def slotUnits (c : HostCmd) (u : WUnit) : List Nat :=
  match c with
  | .write _ _ _ _ _ _ | .copy _ _ _ _ _ => u.units
  | .writeZeroes _ _ _ _ _ => Tbl.keys u.part
  | _ => []

/-- Every 4 KiB unit of an atomic unit that needs one has its slot, and every slot its data (R94, R214). -/
def unitAdmitted (s : State) (c : HostCmd) (u : WUnit) : Bool :=
  (slotUnits c u).all fun k => ((Tbl.find u.slots k).bind fun i => Tbl.find s.ldr.slots i).any fun x => decide (2 ≤ x.st)

/-- A writer ends early (R67, R450, Table 3-9): its units not fully admitted are abandoned and their slots returned; the others stay to be
committed. -/
def cutWriter (s : State) (n sct sc : Nat) : State :=
  match s.ctx n with
  | none => s
  | some c =>
    let gone (u : WUnit) : Bool := u.st == .waiting && !(unitAdmitted s c.cmd u && c.st == .running)
    let s := returnSlots s (c.wunits.filter gone)
    let l := c.wunits.map fun u => if gone u then { u with st := .abandoned, slots := [] } else u
    finish (s.modCtx n fun c => { c with wunits := l, tags := [] }) n sct sc

/-! ## When a write has settled (R104, R108, R194) -/

/-- What the durability of a commit waits for: a record number, or the commit that superseded a unit of it. -/
def depDone (s : State) (deps : Tbl (List Dep)) : Dep → Bool
  | .rcd n => match s.pan.durable with
    | some d => decide (n ≤ d)
    | none => false
  | .tag t => !Tbl.has s.pan.commits t && !Tbl.has deps t

/-- Adds a dependency to a commit. -/
def addDep (s : State) (t : Nat) (d : Dep) : State :=
  s.modPan fun p => { p with deps := Tbl.put p.deps t (d :: Tbl.getD p.deps t []) }

/-- Dependencies that have been met go, newest commits first. -/
def pruneDeps (s : State) : State :=
  s.each s.pan.deps.reverse fun s e =>
    let l := e.2.filter fun d => !depDone s s.pan.deps d
    s.modPan fun p => { p with deps := if l.isEmpty && !Tbl.has p.commits e.1 then Tbl.del p.deps e.1 else Tbl.put p.deps e.1 l }

/-- Whether a commit is programmed with pass status and journaled. -/
def settled (s : State) (t : Nat) : Bool := !Tbl.has s.pan.commits t && !Tbl.has s.pan.deps t

/-- Whether every wordline that a commit's units went to has passed. -/
def programmed (s : State) (t : Nat) : Bool := s.pan.overlay.all fun e => e.2.commit != t || (match e.2.st with
  | .passed _ _ => true
  | _ => false)

/-- Whether every unit of a write is committed or abandoned, and every commit has settled. -/
def unitsSettled (s : State) (l : List WUnit) : Bool :=
  l.all fun u => match u.st with
    | .waiting => false
    | .abandoned => true
    | .committed => match u.tag with
      | some t => settled s t
      | none => !u.unsettled

/-- Whether the write stamped `m` has settled. -/
def writeSettled (s : State) (m : Nat) : Bool :=
  (match s.ctx m with
    | some c => c.wunits.isEmpty && c.st == .ready || (!c.wunits.isEmpty && unitsSettled s c.wunits)
    | none => true) &&
  match Tbl.find s.hall.tails m with
  | some t => unitsSettled s t.units
  | none => true

/-- Every deferred error armed for a namespace (or for any, with `ns` 0xFFFFFFFF). -/
def armedFor (s : State) (ns : Nat) : Bool := s.hall.defer_.any fun e => e.armed && (ns == 0xFFFFFFFF || e.nsid == ns)

/-- One completion reports every error armed for the namespace (R111, R113). -/
def reportDeferred (s : State) (ns : Nat) : State :=
  let l := s.hall.defer_.filter fun e => e.armed && (ns == 0xFFFFFFFF || e.nsid == ns)
  let s := s.modHall fun h => { h with
    defer_ := h.defer_.map fun e => if e.armed && (ns == 0xFFFFFFFF || e.nsid == ns) then { e with armed := false } else e }
  s.each l fun s e => (post s 0x0031 2 1 0xFF e.nsid e.slba e.cause e.armIngest).bump HAL_DEFER_CNT.REPORTED

/-- Whether a command still waits for workers (R595). -/
def waitsWorkers (s : State) (n : Nat) : Bool := s.sta.reqs.any fun r => r.req.ingest == n

/-- A Format ends once its FORMAT record is durable and every worker has answered (R152, R595). -/
def formatCheck (s : State) : State :=
  s.each s.nvm.spaces fun s e => match e.2.formatting with
    | none => s
    | some n =>
      let begun := (match s.ctx n with
        | some c => c.st == .running
        | none => true)
      if begun && writeSettled s n && !waitsWorkers s n then
        finishOk (s.modNvm fun x => { x with spaces := Tbl.upd x.spaces e.1 fun y => { y with formatting := none } }) n
      else s

/-- Namespace operations that every worker has answered complete (R595). -/
def nsOpCheck (s : State) : State :=
  s.each s.hall.ctxs fun s e =>
    if e.2.st ≠ .running || waitsWorkers s e.1 then s
    else match e.2.cmd with
      | .nsCreate _ _ _ _ _ | .nsDelete _ | .nsAttach _ _ _ => finish s e.1 0 0 e.2.dw0
      | _ => s

/-- Commands that wait for durability go on: FUA writes, Flushes and handle updates whose writes have settled (R104, R108, R109, R149). -/
def settleCheck (s : State) : State :=
  let s := pruneDeps s
  let s := s.each s.hall.tails fun s e => match e.2.stair with
    | some (link, tag, r) => if unitsSettled s e.2.units then stairDone s link tag r 2 0 0 r.units else s
    | none => s
  let s := s.modHall fun h => { h with tails := Tbl.keep h.tails fun _ t => !(unitsSettled s t.units) }
  let s := nsOpCheck (formatCheck s)
  let s := s.modLdr fun l => { l with settling := l.settling.filter fun m => !writeSettled s m }
  s.each s.hall.ctxs fun s e =>
    let c := e.2
    if c.st ≠ .running then s
    else match c.cmd with
      | .flush ns =>
        if (c.waitFor.all fun m => writeSettled s m) && !s.sta.reqs.any (fun r => r.req.ingest == e.1) then
          if c.hit && armedFor s ns then finish (reportDeferred s ns) e.1 7 0xC0 else finishOk s e.1
        else s
      | .ioMgmtSend _ _ => if c.waitFor.all fun t => programmed s t then finishOk s e.1 else s
      | _ =>
        if c.fua && !c.wunits.isEmpty && c.wunits.all (fun u => u.st != .waiting) && unitsSettled s c.wunits && c.tags.isEmpty then
          if c.wunits.all fun u => u.st == .abandoned then s else finishOk s e.1
        else s

/-! ## Asynchronous events (R114, R146) -/

/-- An asynchronous event waits for a request of its controller. One already waiting for the same page is not doubled. -/
def asyncEvent (s : State) (port typ info page : Nat) (ns : Nat := 0) : State :=
  let e : AsyncEv := { typ := typ, info := info, page := page, port := port, ns := ns }
  if s.hall.events.contains e then s else s.modHall fun h => { h with events := h.events ++ [e] }

def asyncAll (s : State) (typ info page : Nat) (ns : Nat := 0) : State :=
  s.each (portsInUse s) fun s p => asyncEvent s p typ info page ns

/-- Outstanding requests complete with the events that wait (R114). -/
def serveEvents (s : State) : State :=
  s.each s.hall.events fun s e =>
    let req := s.hall.ctxs.find? fun x => x.2.port == e.port && x.2.cmd == .asyncEvent && x.2.st == .running
    match req with
    | none => s
    | some x =>
      finish (s.modHall fun h => { h with events := h.events.erase e }) x.1 0 0 (e.typ + e.info * 2 ^ 8 + e.page * 2 ^ 16)

/-! ## Lost ranges and deferred errors (R110 to R115) -/

/-- The nearest entry of a namespace to a range, by distance between them. -/
def deferGap (a b : DeferEnt) : Nat := if a.slba + a.nlb ≤ b.slba then b.slba - (a.slba + a.nlb) else a.slba - (b.slba + b.nlb)

/-- Two entries merge (R158). -/
def mergeDefer (a b : DeferEnt) : DeferEnt :=
  let lo := min a.slba b.slba
  let old := if b.armTime < a.armTime then b else a
  { old with armed := a.armed || b.armed, coalesced := true, slba := lo, nlb := max (a.slba + a.nlb) (b.slba + b.nlb) - lo,
             armIngest := if a.armed && !b.armed then a.armIngest else if b.armed && !a.armed then b.armIngest else min a.armIngest b.armIngest }

/-- A new entry of log page C0h: at most 4,096; a full table merges it with the nearest entry of its namespace, or the two nearest of
one namespace make room (R158). -/
def addDefer (l : List DeferEnt) (e : DeferEnt) : List DeferEnt :=
  if l.length < 4096 then l ++ [e]
  else
    let near (l : List DeferEnt) (e : DeferEnt) : Option DeferEnt :=
      (l.filter fun x => x.nsid == e.nsid).foldl (fun b x => match b with
        | none => some x
        | some y => if deferGap x e < deferGap y e then some x else some y) none
    match near l e with
    | some x => l.map fun y => if y == x then mergeDefer x e else y
    | none =>
      let pairs := l.filterMap fun x => (near (l.erase x) x).map fun y => (x, y)
      match pairs.foldl (fun (b : Option (DeferEnt × DeferEnt)) p => match b with
          | none => some p
          | some q => if deferGap p.1 p.2 < deferGap q.1 q.2 then some p else some q) none with
      | some (x, y) => ((l.erase y).map fun z => if z == x then mergeDefer x y else z) ++ [e]
      | none => l

/-- The DEFER_ARM record of a report is durable: the error is Armed and Logged, and its event is queued unless one is still unread for
the namespace (R111, R114). -/
def deferDurable (s : State) (r : JRec) : State :=
  match s.hall.deferWait with
  | [] => s
  | w :: rest =>
    let k := perUnit s r.nsid
    let e : DeferEnt := { nsid := r.nsid, cause := r.aux, slba := globalUnit s r.first * k, nlb := r.count * k, armIngest := s.hall.next,
                          armTime := s.pwr.opSec, port := w.port, worker := w.worker }
    let s := s.modHall fun h => { h with deferWait := rest, defer_ := addDefer h.defer_ e, deferGen := h.deferGen + 1 }
    let s := (post s 0x0030 4 1 0xFF r.nsid e.slba r.aux e.armIngest).bump HAL_DEFER_CNT.ARMED
    let s := s.modNvm fun x => { x with integrity := x.integrity + 1 }
    let s := tellManager s 0x16 (.event (.deferred r.nsid e.slba e.nlb r.aux))
    if s.hall.deferUnread.contains r.nsid then s
    else serveEvents (asyncAll (s.modHall fun h => { h with deferUnread := r.nsid :: h.deferUnread }) 7 0xC0 0xC0 r.nsid)

/-- The commits in the overlay that hold units of a range lose them: their pending emission is dropped, and they count as journaled with
the record that follows (R194). -/
def leaveOverlay (s : State) (ns u n : Nat) : State :=
  let hit := s.pan.overlay.filter fun e => decide (unitKey ns u ≤ e.1 ∧ e.1 < unitKey ns u + n)
  let at_ := s.pan.nextSeq
  let s := s.each hit fun s e => addDep s e.2.commit (.rcd at_)
  dropOverlay s ns u n

/-- Units are lost: they are marked LOST in the map, and where acknowledged data was not yet settled the loss is reported with a
DEFER_ARM record for the Hall to arm (R110, R111, R177). Flushes whose scope holds such a write are told (R109). -/
def rangeLost (s : State) (ns u n cause : Nat) (deferred : Bool) (port : Nat := 0xFFFF) (worker : Nat := 0xFF) : State :=
  if n = 0 then s
  else
    let ings := (s.pan.overlay.filter fun e => decide (unitKey ns u ≤ e.1 ∧ e.1 < unitKey ns u + n)).map fun e =>
      ((Tbl.find s.pan.commits e.2.commit).map fun c => c.ingest).getD 0
    let s := leaveOverlay s ns u n
    let s := mapChange s { typ := 0x07, nsid := ns, count := n, first := u, aux := cause }
    let s := s.modHall fun h => { h with ctxs := Tbl.mapV h.ctxs fun _ c =>
      match c.cmd with
      | .flush _ => if c.st == .running && c.waitFor.any (fun m => ings.contains m) then { c with hit := true } else c
      | _ => c }
    let s := asyncAll s 2 5 0x0E ns
    if !deferred then tellManager s 0x16 (.event (.lost ns (u * perUnit s ns) (n * perUnit s ns) cause))
    else
      let exts := (List.range (n / 256 + 2)).map fun i => (max u (256 * (u / 256 + i)), min (u + n) (256 * (u / 256 + i + 1)))
      let runs := if isManager s then exts.filter fun x => decide (x.1 < x.2) else [(u, u + n)]
      s.each runs fun s x =>
        (jAppend s { typ := 0x08, nsid := ns, count := x.2 - x.1, first := x.1, loc := s.hall.next, aux := cause }).modHall fun h =>
          { h with deferWait := h.deferWait ++ [{ nsid := ns, first := x.1, count := x.2 - x.1, cause := cause, port := port, worker := worker }] }

/-- Units set UNCORR by the Scullery (R352). -/
def setUncorr (s : State) (ns u : Nat) : State := mapChange s { typ := 0x06, nsid := ns, count := 1, first := u }

end Sys2Proof.Machine
end

