-- ==== Sys2Proof/Machine/LarderOps.lean ====
section
/-!
DEFINITION. The Larder's operations (chapter 6): slots and reservations, stream fronts and wordline assembly, release, parity rows,
program failure and rebuild, and what follows for readers and the overlay.
-/
namespace Sys2Proof.Machine

/-! ## Banks and slots (R210 to R214) -/

def bankRetired (s : State) (b : Nat) : Bool := bitAt (s.rd LDR_BANK_RETIRE.BANKS) b

def banksRetired (s : State) : Nat := (List.range 64).countP fun b => bankRetired s b

/-- Slots in banks not retired, and the half mark (R246). -/
def slotsInService (s : State) : Nat := 16384 - 256 * banksRetired s
def slotsHalf (s : State) : Nat := slotsInService s / 2

def slotsUsed (s : State) : Nat := s.ldr.slots.length

/-- Free slots: in banks not retired and not in use. -/
def slotsFree (s : State) : Nat := slotsInService s - s.ldr.slots.countP fun e => !bankRetired s (e.1 % 64)

/-- Whether the Larder holds nothing: EMPTY (R243). -/
def larderEmpty (s : State) : Bool := s.ldr.slots.isEmpty && s.ldr.fronts.all fun e => e.2.rows.isEmpty

/-- A drain that has nothing left ends (R243). -/
def drainCheck (s : State) : State :=
  if s.on LDR_CTL.DRAIN && larderEmpty s then s.clr1 LDR_CTL.DRAIN else s

def parityUsed (s : State) : Nat := Tbl.countV s.ldr.slots fun x => x.st == 5

def reclaimUsed (s : State) : Nat := Tbl.countV s.ldr.slots fun x => x.st != 5 && x.st != 6 && (x.stream == 2 || x.stream == 3)

def hostUsed (s : State) : Nat := Tbl.countV s.ldr.slots fun x => x.st != 5 && x.st != 6 && decide (x.stream ≤ 1)

/-- PARITY_MAX and RECLAIM_RES as they act (R247). -/
def parityMax (s : State) : Nat := min 8192 (max 256 (s.rd LDR_PARITY_CFG.PARITY_MAX))
def reclaimRes (s : State) : Nat := min 4096 (s.rd LDR_PARITY_CFG.RECLAIM_RES)

/-- Populated dies not retired. -/
def diesAlive (s : State) : Nat :=
  (List.range 64).foldl (fun a n => if populated s n && !portRetired s n then a + (List.range 16).countP fun d => diePresent s n d else a) 0

/-- DUMP_CAP (R239, R248). -/
def dumpCap (s : State) : Nat :=
  if !s.pwr.straps.holdup then slotsInService s
  else
    let tp := s.rd LDR_DUMP_CFG.T_PROG_US
    let ts := s.rd LDR_DUMP_CFG.T_SLC_US
    if tp = 0 || ts = 0 then 0
    else min (diesAlive s * ((6000 - tp - 200) / ts) * 16 - 2944) (slotsInService s)

/-- DUMP_READY (R240). -/
def dumpReady (s : State) : Bool := s.on LDR_CTL.DUMP_ARM && s.on LDR_CTL.CFG_LOCK && s.pwr.holdupOk

/-- Write-through mode (R223). -/
def writeThrough (s : State) : Bool :=
  s.pwr.straps.holdup && (!s.pwr.holdupOk || !dumpReady s || s.on LDR_CTL.WT_FORCE)

/-- Whether every host write is treated as FUA: write-through, or the volatile write cache disabled by the controller (R108, R223). -/
def allFua (s : State) (p : Nat) : Bool := writeThrough s || (!heldUp s && !bitAt (feat s (p + 1) 0x06 0) 0)

/-- The next free slot, round robin across banks from the one after the last supplier (R212). -/
def nextSlot (s : State) : Option Nat :=
  (List.range 64).findSome? fun k =>
    let b := (s.ldr.lastBank + 1 + k) % 64
    if bankRetired s b then none
    else ((List.range 256).find? fun i => !Tbl.has s.ldr.slots (b + 64 * i)).map fun i => b + 64 * i

/-- Takes a free slot with a descriptor. -/
def takeSlot (s : State) (x : Slot) : State × Option Nat :=
  match nextSlot s with
  | none => (s, none)
  | some k => (s.modLdr fun l => { l with slots := Tbl.put l.slots k x, lastBank := k % 64 }, some k)

def modSlot (s : State) (k : Nat) (f : Slot → Slot) : State := s.modLdr fun l => { l with slots := Tbl.upd l.slots k f }

/-- Takes `n` slots; the descriptors come from `f`. -/
def takeSlots (s : State) (n : Nat) (f : Nat → Slot) : State × List Nat :=
  (List.range n).foldl (fun a i =>
    match takeSlot a.1 (f i) with
    | (s, some k) => (s, a.2 ++ [k])
    | (s, none) => (s, a.2)) (s, [])

/-- Conditions of Table 6-2 after a grant of `n` slots to a host write. -/
def hostRoom (s : State) (n : Nat) : Bool :=
  decide (128 + (reclaimRes s - reclaimUsed s) + n ≤ slotsFree s) &&
  (!s.pwr.straps.holdup || decide (hostUsed s + n + parityMax s ≤ dumpCap s))

def reclaimRoom (s : State) (n : Nat) : Bool := decide (128 + n ≤ slotsFree s)

/-! ## Fronts (R216, R375 to R378) -/

/-- The fronts with FDP disabled: 0 to 31 host-cold by stripe group, 32 to 39 host-hot, 40 to 47 reclaim-hot, 48 to 55 reclaim-cold by
reclaim group (Table 6-17, Table 10-6). -/
def frontInit (f : Nat) : Front :=
  if f < 32 then { stream := 1, rg := f % 8, sg := some f }
  else if f < 40 then { stream := 0, rg := f - 32 }
  else if f < 48 then { stream := 2, rg := f - 40 }
  else { stream := 3, rg := f % 8 }

def State.front (s : State) (f : Nat) : Front := (Tbl.find s.ldr.fronts f).getD (frontInit f)

def State.modFront (s : State) (f : Nat) (g : Front → Front) : State :=
  s.modLdr fun l => { l with fronts := Tbl.put l.fronts f (g ((Tbl.find l.fronts f).getD (frontInit f))) }

def modRow (s : State) (f suite row : Nat) (g : PRow → PRow) : State :=
  s.modFront f fun x => { x with rows := x.rows.map fun r => if r.suite == suite && r.no == row then g r else r }

def findRow (s : State) (f suite row : Nat) : Option PRow := (s.front f).rows.find? fun r => r.suite == suite && r.no == row

def modMember (s : State) (f suite row m : Nat) (g : RowMember → RowMember) : State :=
  modRow s f suite row fun r => { r with mem := r.mem.map fun x => if x.m == m then g x else x }

/-- Whether a die may start a program (Table 6-6). (DEDUCED: log entry 105.) -/
def inhibited (s : State) (n d : Nat) : Bool := Tbl.has s.ldr.hot (16 * n + d) || s.ldr.droop.contains (n / 8) || s.pwr.frozen

/-- The cell mode of a front's suites: SLC for host fronts of multi-pass QLC drives and for the journal, else native (R215). -/
def frontCell (s : State) (stream : Nat) : Nat := if stream = 4 || (s.scu.geo.multi && decide (stream ≤ 1)) then 1 else s.scu.geo.cell

/-- A front without a suite takes one, or waits (R379). -/
def bindSuite (s : State) (f : Nat) : State :=
  let x := s.front f
  if x.suite.isSome then s
  else match chooseSuite s x with
    | none => s
    | some k =>
      let s := openSuite s k (frontCell s x.stream) x.stream x.handle
      s.modFront f fun x => { x with suite := some k, cell := frontCell s x.stream, row := 0, left := dataMembers (s.suite k) 0,
                                     rowOpen := false, nextUnit := 0, ending := false }

/-- The accumulator of a row takes a wordline: the XOR, position by position (R225). -/
def xorInto (s : State) (acc slots : List Nat) : State :=
  s.each (acc.zip slots) fun s p =>
    match Tbl.find s.ldr.slots p.2 with
    | some x => modSlot s p.1 fun a => { a with data := a.data ^^^ x.data, md := a.md ^^^ x.md }
    | none => s

/-- The program of a wordline of member `m` (step 7 of Table 1-3). -/
def programOp (s : State) (k row m cell : Nat) (slots : List Nat) (cls bg : Nat) (unit : Nat) (by_ : Issuer) : State :=
  let (n, d) := memberDie s k m
  offer s n { kind := 2, die := d, planes := 2 ^ s.scu.geo.planes - 1, cwCount := slots.length, cell := cell, block := k / 32, page := row,
              cls := cls, bgClass := bg, slots := slots, suite := some k, unit := unit, issuer := by_ }

/-- An FDP event of a handle, where FDP and the event are enabled: type 0x00 Reclaim Unit Not Fully Written, 0x80 Media Reallocated (R378). -/
def fdpNote (s : State) (typ handle suite : Nat) : State :=
  if s.nvm.fdp && s.nvm.fdpEvents.contains (handle, typ) then s.modNvm fun y => { y with fdpLog := y.fdpLog ++ [(typ, handle, suite)] } else s

/-- Ends a suite (R219): the current row counts as complete with the members it holds; the suite is CLOSED once its last row's parity
has passed (R372); a suite not full is SHORT, and raises the FDP event Reclaim Unit Not Fully Written (R378). -/
def releaseFront (s : State) (f : Nat) : State :=
  let x := s.front f
  match x.suite with
  | none => s
  | some k =>
    let full := decide (s.scu.geo.rows ≤ x.row)
    let lastRow := if x.rowOpen then x.row else x.row - 1
    let s := s.modFront f fun x => { x with
      suite := none, left := [], rowOpen := false, ending := false, sealing := x.sealing && !x.buf.isEmpty,
      rows := x.rows.map fun r => if r.suite == k && r.no == lastRow then { r with closed := true, last := true } else r }
    let s := if full then s else s.modSuite k fun y => { y with short := true }
    let s := if full then s else fdpNote s 0 x.handle k
    if (s.front f).rows.any fun r => r.suite == k then s
    else closedSuite s k

/-- The parity pool is under pressure: the suite of the front whose newest slot is oldest is ended, never one in emergency reclaim or
holding a rebuild (R227). -/
def parityPressure (s : State) (f : Nat) : Option Nat :=
  (s.ldr.fronts.filter fun e => e.1 != f && e.2.suite.isSome && e.2.buf.isEmpty &&
      !(s.scu.emerg.contains e.2.rg && decide (2 ≤ e.2.stream)) && !e.2.rows.any fun r => r.rebuild).foldl
    (fun b e => match b with
      | none => some e.1
      | some g => if e.2.stamp < (s.front g).stamp then some e.1 else some g) none

/-- WORDLINE_SEND: a front that holds a full die wordline, or a sealed partial one, sends it to the Cellar and XORs it into the row's
accumulator (R216, R218, R225). It waits, holding its slots, for a fifth live row, for the parity pool, and for a program inhibit
(R224, R227, R234). Answers whether it sent one. -/
def sendWordline (s : State) (f : Nat) (fill_ : Bool) : State × Bool :=
  let s := bindSuite s f
  let x := s.front f
  let spw := slotsPerWl s x.cell
  match x.suite, x.left with
  | some k, m :: left =>
    if x.buf.isEmpty || (x.buf.length < spw && !fill_) then (s, false)
    else
      let (n, d) := memberDie s k m
      let wait (w : Nat) : State × Bool := (s.modFront f fun x => { x with wait := w }, false)
      if inhibited s n d then wait 3
      else if !x.rowOpen && decide (4 ≤ x.rows.length) then wait 1
      else if !x.rowOpen && decide (parityMax s < parityUsed s + spw) then
        match parityPressure s f with
        | some g => (releaseFront (s.modFront f fun x => { x with wait := 2 }) g, false)
        | none => wait 2
      else
        let (s, acc) := if x.rowOpen then (s, []) else takeSlots s spw fun i => { st := 5, stream := x.stream, front := f, unit := x.row, row := x.row, pos := i }
        let s := if x.rowOpen then s else s.modFront f fun x => { x with rowOpen := true, rows := x.rows ++ [{ suite := k, no := x.row, acc := acc }] }
        let real := x.buf.take spw
        let (s, pads) := takeSlots s (spw - real.length) fun i =>
          { st := 6, stream := x.stream, front := f, row := x.row, pos := real.length + i, md := 0x50414421, sent := true }
        let slots := real ++ pads
        let rowAcc := ((findRow s f k x.row).map fun r => r.acc).getD []
        let s := xorInto s rowAcc slots
        let cells : List WlCell := slots.map fun i =>
          match Tbl.find s.ldr.slots i with
          | some y => { slot := i, pad := y.st == 6, ns := y.ns, unit := y.unit, tag := y.tag, reclaim := decide (2 ≤ x.stream), src := y.src }
          | none => { slot := i, pad := true }
        let s := s.each ((List.range slots.length).zip slots) fun s p => modSlot s p.2 fun y => { y with sent := true, row := x.row, pos := p.1 }
        let lastMember := left.isEmpty
        let s := modRow s f k x.row fun r => { r with closed := lastMember, mem := r.mem ++ [{ m := m, base := x.nextUnit, cells := cells }] }
        let s := s.modSuite k fun y => { y with
          filled := y.filled + spw,
          programHour := if y.filled = 0 then s.pwr.opSec / 3600 else y.programHour }
        let s := s.modNvm fun y => { y with mediaUnits := y.mediaUnits + spw }
        let row := if lastMember then x.row + 1 else x.row
        let s := s.modFront f fun y => { y with
          wait := 0, buf := y.buf.drop real.length, nextUnit := y.nextUnit + spw, row := row,
          left := if lastMember then (if row < s.scu.geo.rows then dataMembers (s.suite k) row else []) else left, rowOpen := !lastMember }
        let cls := if x.stream ≤ 1 then 0 else 2
        let bg := if s.scu.emerg.contains x.rg then 8 else 1
        let s := programOp s k x.row m x.cell slots cls bg x.nextUnit (.data f k x.row m)
        (if lastMember && decide (s.scu.geo.rows ≤ row) then releaseFront s f else s, true)
  | _, _ => (s, false)

/-- Sends full wordlines while the front has them, at most `fuel`, then the partial one that a close has sealed; a suite that is to end is
released with its last slot (R218, R219, R234). -/
def pumpFront : Nat → State → Nat → State
  | 0, s, _ => s
  | fuel + 1, s, f =>
    match sendWordline s f (s.front f).sealing with
    | (s, true) => pumpFront fuel s f
    | (s, false) =>
      let s := if (s.front f).sealing && (s.front f).buf.isEmpty then s.modFront f fun x => { x with sealing := false } else s
      if (s.front f).ending && (s.front f).buf.isEmpty then releaseFront s f else s

/-- Closes a front: its partial wordline is padded and sent, at once or when what it waits for allows (R218, R234). -/
def closeFront (s : State) (f : Nat) : State := pumpFront 128 (s.modFront f fun x => { x with sealing := true }) f

/-- SUITE_END (R219). -/
def endSuite (s : State) (f : Nat) : State := closeFront (s.modFront f fun x => { x with ending := x.suite.isSome }) f

/-- Every front that may go on does so: a wait ended. -/
def pumpAll (s : State) : State := s.each s.ldr.fronts fun s e => if e.2.buf.isEmpty then s else pumpFront 128 s e.1

/-- Whether the front's suite has room for `k` more slots, or it has none and can take one. -/
def frontRoom (s : State) (f k : Nat) : Bool :=
  let x := s.front f
  match x.suite with
  | some j => decide (x.nextUnit + x.buf.length + k ≤ (s.suite j).dataUnits)
  | none => (chooseSuite s x).isSome

/-- The front of least committed slots waiting among `l`, ties to the lower number. -/
def leastWaiting (s : State) (l : List Nat) : Option Nat :=
  l.foldl (fun b f => match b with
    | none => some f
    | some g => if (s.front f).buf.length < (s.front g).buf.length then some f else some g) none

/-- Host-hot or host-cold for an atomic unit (R377): hot when the first mapped unit of the extent lies in a host-hot suite or in one
programmed within HOT_AGE_H. -/
def isHot (s : State) (ns ext : Nat) : Bool :=
  let first := (List.range 256).findSome? fun k =>
    match (mapUnit s ns (256 * ext + k)).kind with
    | .media x _ => some x
    | _ => none
  match first with
  | none => false
  | some k => (s.suite k).stream == 0 || decide (s.pwr.opSec / 3600 - (s.suite k).programHour ≤ s.rd SCU_RECLAIM_CFG.HOT_AGE_H)

/-- The fronts of a host stream with FDP disabled. -/
def hostFronts (s : State) (hot : Bool) : List Nat :=
  if hot then (List.range 8).map fun r => 32 + r
  else (List.range (otconPorts s / 2)).filter fun g => (s.front g).suite.isSome || (chooseSuite s (s.front g)).isSome

/-- The front of a (reclaim group, handle) pair: its own, a free one of 47, or that of the handle front written least recently, whose
suite ends (R378). -/
def handleFront (s : State) (pl : Place) : State × Nat :=
  let nums := (List.range 40) ++ (List.range 7).map fun i => 56 + i
  let mine := nums.find? fun f => (Tbl.find s.ldr.fronts f).any fun x => x.rg == pl.rg && x.handle == pl.handle
  match mine with
  | some f => (s, f)
  | none =>
    let hot := bitAt (s.rd SCU_RECLAIM_CFG.HANDLE_HOT) pl.handle
    let fresh : Front := { stream := if hot then 0 else 1, rg := pl.rg, handle := pl.handle }
    match nums.find? fun f => !Tbl.has s.ldr.fronts f with
    | some f => (s.modFront f fun _ => fresh, f)
    | none =>
      let f := (nums.foldl (fun b f => match b with
        | none => some f
        | some g => if (s.front f).stamp < (s.front g).stamp then some f else some g) none).getD 0
      let s := endSuite s f
      (s.modFront f fun x => { fresh with rows := x.rows, buf := x.buf }, f)

/-- Committed slots join a front, in order; full wordlines are sent. -/
def joinFront (s : State) (f : Nat) (l : List Nat) : State :=
  let s := s.each l fun s k => modSlot s k fun x => { x with front := f, stream := (s.front f).stream }
  pumpFront 128 (bindSuite (s.modFront f fun x => { x with buf := x.buf ++ l, stamp := s.pwr.time.toNat }) f) f

/-- The slots of a host commit join the front of their stream or placement (R377, R378). -/
def joinHost (s : State) (ns ext : Nat) (pl : Option Place) (l : List Nat) : State :=
  if s.nvm.fdp then
    let (s, f) := handleFront s (pl.getD { rg := fullestPool s, handle := 0 })
    let s := if frontRoom s f l.length then s else endSuite s f
    joinFront s f l
  else
    let cands := hostFronts s (isHot s ns ext)
    match leastWaiting s (cands.filter fun f => frontRoom s f l.length), leastWaiting s cands with
    | some f, _ => joinFront s f l
    | none, some f => joinFront (endSuite s f) f l
    | none, none => joinFront s (if isHot s ns ext then 32 else 0) l

/-- Reclaim copies join their reclaim group's front. -/
def joinReclaim (s : State) (rg : Nat) (hot : Bool) (l : List Nat) : State :=
  let f := (if hot then 40 else 48) + rg % 8
  joinFront (if frontRoom s f l.length then s else endSuite s f) f l

/-- Closes every front that holds a committed host slot (R107, R223), or one of namespace `ns` when given. -/
def closeHostFronts (s : State) (ns : Option Nat) : State :=
  s.each s.ldr.fronts fun s e =>
    let holds := e.2.buf.any fun k => match Tbl.find s.ldr.slots k with
      | some x => decide (x.stream ≤ 1) && (ns.isNone || ns == some x.ns)
      | none => false
    if holds then closeFront s e.1 else s

/-! ## Readers that wait for a program (R101, R102) -/

/-- A reader's unit takes a new resolution, and what it waited for is dispatched. -/
def setRunit (s : State) (n unit : Nat) (r : Resolved) : State := s.modCtx n fun c => { c with runits := Tbl.put c.runits unit r }

/-- The readers, with their units, that wait for the program at a location. -/
def waitingReaders (s : State) (suite unit : Nat) : List (Nat × Nat) :=
  s.hall.ctxs.flatMap fun e => (e.2.runits.filter fun r => r.2 == .programming suite unit).map fun r => (e.1, r.1)

/-- The namespace whose units a reader resolves. -/
def readNs (c : Ctx) : Nat := ((c.reads.head?).map fun x => x.ns).getD 0

/-- A unit is dispatched as a Larder hit: the slot is pinned and its data streams to the DMA channel (Table 3-5). -/
def dispatchSlot (s : State) (n unit k : Nat) : State :=
  match Tbl.find s.ldr.slots k with
  | none => setRunit s n unit (.failed 7 0xC2)
  | some x =>
    if x.poison then setRunit s n unit (.failed 7 0xC2)
    else
      let s := setRunit (pinSlot s k) n unit (.larder k)
      s.modLnd fun l => { l with words := l.words ++ [{ src := 64, ingest := n, unit := unit, data := x.data, md := x.md, pin := some (.inl k) }] }

/-- A unit is dispatched as a media read of a pinned location (Table 3-5); on a retired port it is lost with the port (R396). -/
def dispatchMedia (s : State) (n ns unit suite u : Nat) : State :=
  match readUnit s suite u 0 0 (.hostRead n ns unit) with
  | none => setRunit s n unit (.failed 7 0xC2)
  | some s => (setRunit s n unit (.media suite u)).modPan fun p => { p with pins := (n, suite, u) :: p.pins }

/-- The program at a location has ended with pass: waiting readers read it (R101). -/
def wakeReaders (s : State) (suite unit : Nat) : State :=
  s.each (waitingReaders s suite unit) fun s e =>
    match s.ctx e.1 with
    | some c => dispatchMedia s e.1 (readNs c) e.2 suite unit
    | none => s

/-! ## Acceptance and program pass (R220 to R226) -/

/-- Frees or keeps the slots of an accepted wordline (R220). -/
def acceptCells (s : State) (f k row m : Nat) (verify : Bool) : State :=
  match (findRow s f k row).bind fun r => r.mem.find? fun x => x.m == m with
  | none => s
  | some mem =>
    let lazy_ := decide (slotsHalf s < slotsUsed s) && decide (s.pan.overlay.length < 524288)
    let decide_ (s : State) (p : Nat × WlCell) : State :=
      let c := p.2
      match Tbl.find s.ldr.slots c.slot with
      | none => s
      | some x =>
        if verify then modSlot s c.slot fun x => { x with st := if x.st = 6 then 6 else 4 }
        else if c.pad then freeSlot s c.slot
        else if c.reclaim || x.st = 7 then modSlot s c.slot fun x => { x with st := if x.st = 7 then 7 else 4 }
        else if lazy_ && x.pins = 0 && !x.passed then
          let s := freeSlot s c.slot
          let s := modMember s f k row m fun y => { y with cells := y.cells.map fun z => if z.slot == c.slot then { z with released := true } else z }
          match Tbl.find s.pan.overlay (unitKey c.ns c.unit) with
          | some e =>
            if e.commit = c.tag && e.st == .larder c.slot then
              s.modPan fun q => { q with overlay := Tbl.put q.overlay (unitKey c.ns c.unit) { e with st := .programming k (mem.base + p.1) } }
            else s
          | none => s
        else modSlot s c.slot fun x => { x with st := 4 }
    s.each ((List.range mem.cells.length).zip mem.cells) decide_

/-- A row that is complete sends its parity member to the parity die (R224, R225); a parity-lost row waits until its accumulator is
recomputed (R232). -/
def completeRow (s : State) (f k row : Nat) : State :=
  match findRow s f k row with
  | none => s
  | some r =>
    if r.st = 0 && r.closed && !r.rebuild && r.mem.all (fun x => decide (x.st = 1 ∨ x.st = 2)) then
      let s := modRow s f k row fun r => { r with st := 1 }
      if r.lost then s
      else
        let x := s.suite k
        let s := modRow s f k row fun r => { r with paritySt := 1 }
        programOp s k row (parityMember x row) x.cell r.acc (if x.stream ≤ 1 then 0 else 2) 1 0 (.parity f k row)
    else s

/-- Rows of a front settle in row order: a row and the two after it have passed, or lie beyond the suite's end (R226). A suite whose last
row's parity has passed is CLOSED (R372); the front, if it waited for a fifth row or the pool, goes on. -/
def settleRows : Nat → State → Nat → State
  | 0, s, _ => s
  | fuel + 1, s, f =>
    match (s.front f).rows with
    | [] => s
    | r :: rest =>
      let ended := (s.front f).suite != some r.suite
      let passed (q : Nat) : Bool :=
        match rest.find? fun y => y.suite == r.suite && y.no == q with
        | some y => y.st == 2
        | none => ended
      let moved := !r.moving || !(liveUnitsOf s r.suite).any fun e => (locate s r.suite e.2.2).any fun p => p.row == r.no
      if r.st = 2 && moved && !r.rebuild && passed (r.no + 1) && passed (r.no + 2) then
        let s := s.each r.acc freeSlot
        settleRows fuel (s.modFront f fun x => { x with rows := rest }) f
      else s

def rowPassed (s : State) (f k row : Nat) : State :=
  match findRow s f k row with
  | none => s
  | some r =>
    let s := if r.st = 1 && r.mem.all (fun x => x.st == 2) && r.paritySt = 2 then modRow s f k row fun r => { r with st := 2 } else s
    let s := settleRows 5 s f
    let open_ := (s.front f).suite == some k
    let pend := (s.front f).rows.any fun r => r.suite == k && r.st != 2
    let s := if !open_ && !pend && (s.suite k).st = 1 then
        closedSuite s k else s
    drainCheck (pumpFront 128 s f)

/-- A kept slot of a passed wordline is freed once no reader pins it; the overlay entry becomes PASSED (R221, Table 5-5). -/
def passCell (s : State) (k unit : Nat) (c : WlCell) : State :=
  if c.pad then freeSlot s c.slot
  else
    let s := if c.released then s else match Tbl.find s.ldr.slots c.slot with
      | some x => if x.pins = 0 then freeSlot s c.slot else modSlot s c.slot fun x => { x with passed := true }
      | none => s
    if c.reclaim then
      let cons := s.scu.cons.any fun x => x.slots.contains c.slot
      if c.src.isSome || cons then
        s.modScu fun x => { x with copied := x.copied ++ [{ nsid := c.ns, unit := c.unit, src := c.src.getD (0, 0), dst := (k, unit), cons := cons }] }
      else s
    else
      let s := match Tbl.find s.pan.overlay (unitKey c.ns c.unit) with
        | some e =>
          if e.commit = c.tag then s.modPan fun q => { q with overlay := Tbl.put q.overlay (unitKey c.ns c.unit) { e with st := .passed k unit } } else s
        | none => s
      wakeReaders s k unit

/-- A rebuild read brings one position of one member: it is XORed in (R228). -/
def rebuildWord (s : State) (f k row m src pos : Nat) (d : Blk) (md : Meta) : State :=
  s.modLdr fun l => { l with rebuilds := l.rebuilds.map fun b =>
    if b.front == f && b.suite == k && b.row == row && b.member == m then
      { b with need := b.need.erase (src * 64 + pos),
               acc := Tbl.upd b.acc pos fun a => (a.1 ^^^ d, a.2 ^^^ md) }
    else b }

/-- The units of a passed member that cannot be read back for a recomputation are lost with cause 0x1 (R232). -/
def loseReadBack (s : State) (f k row src : Nat) : State :=
  match (findRow s f k row).bind fun r => r.mem.find? fun x => x.m == src with
  | none => s
  | some mem =>
    s.each ((List.range mem.cells.length).zip mem.cells) fun s p =>
      if p.2.pad then s
      else
        let named := (mapUnit s p.2.ns p.2.unit).kind == .media k (mem.base + p.1) && !Tbl.has s.pan.overlay (unitKey p.2.ns p.2.unit)
        match Tbl.find s.pan.overlay (unitKey p.2.ns p.2.unit) with
        | some e => if e.commit = p.2.tag then rangeLost s p.2.ns p.2.unit 1 1 true else s
        | none => if named then rangeLost s p.2.ns p.2.unit 1 1 true else s

/-- A rebuild read fails: uncorrectable (cause 0x2), or its port is retired (cause 0x3) (R229); a read of a recomputation loses the member's
units (R232). -/
def rebuildLost (s : State) (f k row m src pos cause : Nat) : State :=
  let again := s.ldr.rebuilds.any fun b => b.front == f && b.suite == k && b.row == row && b.member == 64 && b.need.any fun e => e / 64 == src
  let s := if m = 64 && again then loseReadBack s f k row src else s
  s.modLdr fun l => { l with rebuilds := l.rebuilds.map fun b =>
    if b.front == f && b.suite == k && b.row == row && b.member == m then
      { b with need := if m = 64 then b.need.filter (fun e => e / 64 != src) else b.need.erase (src * 64 + pos),
               failed := if b.failed = 0 then cause else b.failed } else b }

/-- A parity-lost row whose data members have all passed recomputes its accumulator by reading them back (R232): one read for each
member and position. Member 64 of a rebuild stands for the accumulator. -/
def recomputeRow (s : State) (f k row : Nat) : State :=
  match findRow s f k row with
  | none => s
  | some r =>
    if !r.lost || r.rebuild || r.st != 1 || r.paritySt != 0 || !(r.mem.all fun x => x.st == 2) then s
    else
      let s := s.each r.acc fun s a => modSlot s a fun x => { x with data := 0, md := 0 }
      let need := r.mem.flatMap fun x => (List.range r.acc.length).map fun p => x.m * 64 + p
      let s := modRow s f k row fun r => { r with rebuild := true }
      let s := s.modLdr fun l => { l with rebuilds := l.rebuilds ++ [{ front := f, suite := k, row := row, member := 64, need := need, acc := [] }] }
      s.each need fun s e =>
        match readMember s k (e / 64) row (e % 64) 1 0 (.recompute f k row (e / 64) (e % 64)) with
        | some s => s
        | none => rebuildLost s f k row 64 (e / 64) (e % 64) 1

/-- A data member of a row reports program pass (R221, R224, R226). -/
def memberPassed (s : State) (f k row m : Nat) : State :=
  match (findRow s f k row).bind fun r => r.mem.find? fun x => x.m == m with
  | none => s
  | some mem =>
    let s := modMember s f k row m fun x => { x with st := 2 }
    let s := s.each ((List.range mem.cells.length).zip mem.cells) fun s p => passCell s k (mem.base + p.1) p.2
    settleCheck (rowPassed (recomputeRow (completeRow s f k row) f k row) f k row)

/-- The parity member reports program pass. -/
def parityPassed (s : State) (f k row : Nat) : State := rowPassed (modRow s f k row fun r => { r with paritySt := 2 }) f k row

/-- A die reports acceptance of a program's whole wordline (R220, R311). -/
def programAccepted (s : State) (n : Nat) (op : DieOp) : State :=
  match op.issuer with
  | .data f k row m =>
    let verify := (List.range 32).any fun i => (Tbl.find (s.seq n).descs i).any (fun h => h.op.id == op.id) && recipeVerify s n i
    let s := acceptCells s f k row m verify
    let s := modMember s f k row m fun x => { x with st := if x.st = 0 then 1 else x.st }
    pumpFront 128 (completeRow s f k row) f
  | _ => s

/-! ## Program failure and rebuild (R228 to R230) -/

/-- The released units of a failed member are lost: a rebuild that cannot be made (R229, R232). -/
def loseMember (s : State) (f k row m cause port : Nat) : State :=
  match (findRow s f k row).bind fun r => r.mem.find? fun x => x.m == m with
  | none => s
  | some mem =>
    let s := modRow s f k row fun r => { r with rebuild := false, mem := r.mem.map fun x => if x.m == m then { x with st := 2 } else x }
    let s := s.each ((List.range mem.cells.length).zip mem.cells) fun s p =>
      if !p.2.released || p.2.pad then s
      else
        let s := s.each (waitingReaders s k (mem.base + p.1)) fun s e => setRunit s e.1 e.2 (.failed 7 0xC2)
        match Tbl.find s.pan.overlay (unitKey p.2.ns p.2.unit) with
        | some e => if e.commit = p.2.tag then rangeLost s p.2.ns p.2.unit 1 cause true port else s
        | none => s
    rowPassed (completeRow s f k row) f k row

/-- The failed member of a row: what is kept goes out again at the front's next positions, what was released is rebuilt from the other
accepted members and the accumulator (R228). -/
def memberFailed (s : State) (f k row m : Nat) : State :=
  match findRow s f k row with
  | none => s
  | some r =>
    match r.mem.find? fun x => x.m == m with
    | none => s
    | some mem =>
      let kept := (mem.cells.filter fun c => !c.pad && !c.released).map fun c => c.slot
      let lost := ((List.range mem.cells.length).zip mem.cells).filter fun p => p.2.released && !p.2.pad
      let s := s.each (mem.cells.filter fun c => c.pad) fun s c => freeSlot s c.slot
      let s := s.each kept fun s i => modSlot s i fun x => { x with st := if x.st = 7 then 7 else 3, sent := false }
      let s := s.modFront f fun x => { x with buf := kept ++ x.buf }
      let s := modMember s f k row m fun x => { x with st := if lost.isEmpty then 2 else 4 }
      if lost.isEmpty then rowPassed (completeRow s f k row) f k row
      else
        let s := modRow s f k row fun r => { r with rebuild := true }
        if r.lost then loseMember s f k row m 1 0xFFFF
        else
          let others := (r.mem.filter fun x => x.m != m && decide (1 ≤ x.st)).map fun x => x.m
          let acc : Tbl (Blk × Meta) := lost.map fun p =>
            match (r.acc[p.1]?).bind fun a => Tbl.find s.ldr.slots a with
            | some a => (p.1, (a.data, a.md))
            | none => (p.1, (0, 0))
          let need := lost.flatMap fun p => others.map fun j => j * 64 + p.1
          let s := s.modLdr fun l => { l with rebuilds := l.rebuilds ++ [{ front := f, suite := k, row := row, member := m, need := need, acc := acc }] }
          s.each need fun s e =>
            match readMember s k (e / 64) row (e % 64) 1 0 (.rebuild f k row m (e / 64) (e % 64)) with
            | some s => s
            | none => rebuildLost s f k row m (e / 64) (e % 64) 3

/-- A front whose suite has lost a member goes on with the members its row still has; a row with none left to fill is complete (R228,
R370). -/
def refillLeft (s : State) (f m : Nat) : State :=
  let x := s.front f
  match x.suite with
  | none => s
  | some k =>
    if !x.rowOpen then s.modFront f fun y => { y with left := dataMembers (s.suite k) y.row }
    else
      let left := x.left.filter fun j => j != m
      let s := s.modFront f fun y => { y with left := left }
      if !left.isEmpty then s
      else
        let s := modRow s f k x.row fun r => { r with closed := true }
        let s := s.modFront f fun y => { y with row := x.row + 1, rowOpen := false,
                                                left := if x.row + 1 < s.scu.geo.rows then dataMembers (s.suite k) (x.row + 1) else [] }
        let s := completeRow s f k x.row
        if s.scu.geo.rows ≤ x.row + 1 then releaseFront s f else s

/-- A member leaves the suite that a front fills, from the row at which it takes no more data (R228, R395). -/
def leaveRow (x : Front) (m : Nat) : Nat := if x.rowOpen && x.left.contains m then x.row else x.row + b2n x.rowOpen

/-- The members of a retired port leave the suites that are being filled (R395, Table 10-11). -/
def dropPortMembers (s : State) (n : Nat) : State :=
  s.each s.ldr.fronts fun s e =>
    match (s.front e.1).suite with
    | none => s
    | some k =>
      let l := (List.range 32).filter fun m => bitAt (s.suite k).members m && (memberDie s k m).1 == n && !(s.suite k).removed.any fun r => r.1 == m
      let s := s.each l fun s m =>
        if (s.front e.1).suite = some k then
          let row := leaveRow (s.front e.1) m
          refillLeft (s.modSuite k fun y => { y with removed := y.removed ++ [(m, row)] }) e.1 m
        else s
      let s := if 5 ≤ (s.suite k).removed.length && (s.front e.1).suite = some k then endSuite s e.1 else s
      pumpFront 128 s e.1

/-- A member's program fails (R228): its die's block leaves the suite; in each live row of the suite a member not yet sent goes to the next
die, one that passed stays and makes the suite REFRESH_DUE, and the failed one is sent again or rebuilt. -/
def programFailed (s : State) (f k row m : Nat) : State :=
  let x := s.front f
  let at_ := if x.suite = some k then leaveRow x m else s.scu.geo.rows
  let passed := x.rows.any fun r => r.suite == k && r.mem.any fun y => y.m == m && y.st == 2
  let s := removeMember s k m at_
  let s := if x.suite = some k then refillLeft s f m else s
  let s := if passed then s.modSuite k fun y => { y with refreshDue := true } else s
  let s := memberFailed s f k row m
  let s := if 5 ≤ (s.suite k).removed.length && (s.front f).suite = some k then endSuite s f else s
  pumpFront 128 s f

/-- A parity member's program fails (R230): the data members stay; the die's block leaves the suite; the accumulator is kept and the
row's data members are relocated before it is freed. -/
def parityFailed (s : State) (f k row : Nat) : State :=
  let m := parityMember (s.suite k) row
  let x := s.front f
  let passed := x.rows.any fun r => r.suite == k && r.no != row && r.paritySt = 2 && parityMember (s.suite k) r.no == m
  let s := removeMember s k m (if x.suite = some k then x.row + b2n x.rowOpen else s.scu.geo.rows)
  let s := if x.suite = some k then refillLeft s f m else s
  let s := if passed then s.modSuite k fun y => { y with refreshDue := true } else s
  rowPassed (modRow s f k row fun r => { r with paritySt := 2, moving := true }) f k row

/-- A recomputation ends (R232): the parity member is sent; or, where a member could not be read back, the accumulator is freed, a pad
wordline is programmed in the parity position, and the suite is UNPROTECTED. -/
def recomputed (s : State) (f k row : Nat) (ok : Bool) : State :=
  match findRow s f k row with
  | none => s
  | some r =>
    let x := s.suite k
    let send (s : State) (slots : List Nat) : State :=
      programOp s k row (parityMember x row) x.cell slots (if x.stream ≤ 1 then 0 else 2) 1 0 (.parity f k row)
    if ok then send (modRow s f k row fun r => { r with rebuild := false, lost := false, paritySt := 1 }) r.acc
    else
      let s := s.each r.acc fun s a => modSlot s a fun y => { y with st := 6, data := 0, md := 0x50414421, sent := true }
      let s := modRow s f k row fun r => { r with rebuild := false, paritySt := 1 }
      send (s.modSuite k fun y => { y with unprotected := true }) r.acc

/-- The member reads of a rebuild are all in: the rebuilt data goes into rebuild slots, is committed to the overlay as LARDER and joins
the front at its next positions, and waiting readers become Larder hits; a failed rebuild loses the released units (R228, R229). -/
def rebuildComplete (s : State) (f row m : Nat) : State :=
  match s.ldr.rebuilds.find? fun b => b.front == f && b.row == row && b.member == m with
  | none => s
  | some b =>
    if !b.need.isEmpty then s
    else
      let s := s.modLdr fun l => { l with rebuilds := l.rebuilds.erase b }
      if m = 64 then recomputed s f b.suite row (b.failed = 0)
      else if b.failed ≠ 0 then loseMember s f b.suite row m b.failed (memberDie s b.suite m).1
      else
        match (findRow s f b.suite row).bind fun r => r.mem.find? fun x => x.m == m with
        | none => s
        | some mem =>
          let s := modMember s f b.suite row m fun x => { x with st := 2 }
          let s := modRow s f b.suite row fun r => { r with rebuild := false }
          let one (s : State) (p : Nat × (Blk × Meta)) : State :=
            match mem.cells[p.1]? with
            | none => s
            | some c =>
              match Tbl.find s.pan.overlay (unitKey c.ns c.unit) with
              | none => s
              | some e =>
                if e.commit ≠ c.tag then s
                else
                  let (s, k) := takeSlot s { st := 7, front := f, stream := (s.front f).stream, ns := c.ns, unit := c.unit, tag := c.tag, data := p.2.1, md := p.2.2 }
                  match k with
                  | none => s
                  | some k =>
                    let s := s.modPan fun q => { q with overlay := Tbl.put q.overlay (unitKey c.ns c.unit) { e with st := .larder k } }
                    let s := s.modFront f fun x => { x with buf := x.buf ++ [k] }
                    s.each (waitingReaders s b.suite (mem.base + p.1)) fun s r => dispatchSlot s r.1 r.2 k
          let s := s.each b.acc one
          pumpFront 128 (rowPassed (completeRow s f b.suite row) f b.suite row) f

/-! ## Superseded slots and casement errors (R217, R231, R232) -/

/-- A later commit supersedes a unit's overlay entry: a slot not yet sent leaves its front and is freed once unpinned; the older commit
counts as journaled with the newer (R194, R217). -/
def supersede (s : State) (ns unit newTag : Nat) : State :=
  match Tbl.find s.pan.overlay (unitKey ns unit) with
  | none => s
  | some e =>
    let s := addDep s e.commit (.tag newTag)
    match e.st with
    | .larder k =>
      match Tbl.find s.ldr.slots k with
      | some x =>
        if x.sent then s
        else
          let s := s.modFront x.front fun y => { y with buf := y.buf.erase k }
          if x.pins = 0 then freeSlot s k else modSlot s k fun x => { x with passed := true }
      | none => s
    | _ => s

/-- An uncorrectable word of a host slot: POISON, and the unit is reported with cause 0x1 and marked LOST (R231). -/
def slotUe (s : State) (k : Nat) : State :=
  match Tbl.find s.ldr.slots k with
  | none => s
  | some x =>
    if x.st = 5 then
      -- R232: the row is parity-lost
      let s := s.set1 LDR_STATUS.POISON_SEEN
      s.modFront x.front fun y => { y with rows := y.rows.map fun r => if r.acc.contains k then { r with lost := true } else r }
    else if x.st = 6 || x.st = 1 then s
    else
      let s := (modSlot s k fun x => { x with poison := true }).set1 LDR_STATUS.POISON_SEEN
      let s := if x.sent then s else s.modFront x.front fun y => { y with buf := y.buf.erase k }
      if x.stream = 2 || x.stream = 3 then s
      else
        match Tbl.find s.pan.overlay (unitKey x.ns x.unit) with
        | some e => if e.st == .larder k then settleCheck (rangeLost s x.ns x.unit 1 1 true) else s
        | none => rangeLost s x.ns x.unit 1 1 true

/-! ## Write-through mode, draining (R223, R243) -/

/-- Whether write-through mode is in force; with the HOLDUP strap clear it is where a host has disabled the volatile write cache (R223). (DEDUCED: log entry 106.) -/
def wtMode (s : State) : Bool :=
  writeThrough s || (!heldUp s && (portsInUse s).any fun p => !bitAt (feat s (p + 1) 0x06 0) 0)

/-- Host writes completed and not yet programmed and journaled. -/
def completedUnsettled (s : State) : List Nat :=
  ((s.hall.tails.filter fun e => e.2.host && !unitsSettled s e.2.units).map fun e => e.1) ++
  ((s.hall.ctxs.filter fun e => e.2.st == .ready && !e.2.wunits.isEmpty && !unitsSettled s e.2.wunits).map fun e => e.1)

/-- Write-through mode begins as on a Flush of every namespace, or ends (R223). -/
def wtCheck (s : State) : State :=
  let now := wtMode s
  if now && !s.ldr.wt then
    closeBatch (closeHostFronts (s.modLdr fun l => { l with wt := true, settling := completedUnsettled s }) none)
  else s.modLdr fun l => { l with wt := now }

/-- DRAIN: every front is closed and every open suite ended; nothing is admitted until the Larder is empty (R243). -/
def larderDrain (s : State) : State :=
  let s := s.set1 LDR_CTL.DRAIN
  drainCheck (s.each (Tbl.keys s.ldr.fronts) endSuite)

end Sys2Proof.Machine
end

