-- ==== Sys2Proof/Machine/LaundryOps.lean ====
section
/-!
DEFINITION. The Laundry's operations (chapter 9): level sets and tracking, delivering a codeword to the engine that asked for it, fault
notices, the read-retry ladder, soft jobs and stripe recovery.
-/
namespace Sys2Proof.Machine

/-! ## Level sets (R339 to R341) -/

/-- A level set is 16 bytes, held as one number: offset `j` is the signed byte `j`. -/
def lvl (v j : Nat) : Int := sext 8 (bits v (8 * j) 8)

/-- The set with `f j` at each of its 15 offsets, clamped to a signed byte. -/
def lvlMap (f : Nat → Int) : Nat :=
  (List.range 15).foldl (fun a j => a + wrapInt 8 (max (-128) (min 127 (f j))) * 2 ^ (8 * j)) 0

/-- The cell table of a read: 0 SLC-mode, 1 TLC, 2 QLC. -/
def cellTable (cell : Nat) : Nat := if cell = 1 then 0 else if cell = 3 then 1 else 2

def setKey (n d g : Nat) : Nat := (16 * n + d) * 16 + g

/-- Hours since the suite was programmed, and the level group of an operation: age bin × 2 + cell table (R339). -/
def levelGroup (s : State) (op : DieOp) : Nat :=
  let age := match op.suite with
    | some k => s.pwr.opSec / 3600 - (s.suite k).programHour
    | none => 0
  let bin := ((List.range 7).find? fun k => decide (age < s.rd (LND_AGE_BOUND.BOUND k))).getD 7
  2 * bin + (if op.cell = 1 then 0 else 1)

/-- The tracked set of a group of a die. -/
def trackedSet (s : State) (n d g : Nat) : Nat := Tbl.getD s.lnd.sets (setKey n d g) 0

def setTracked (s : State) (n d g v : Nat) : State := s.modLnd fun l => { l with sets := Tbl.setD l.sets (setKey n d g) v 0 }

/-- LND_PAGEMAP[c][t] as a level set. -/
def pageMap (s : State) (c t : Nat) : Nat := s.rd (LND_PAGEMAP.V (2 * (4 * c + t))) + s.rd (LND_PAGEMAP.V (2 * (4 * c + t) + 1)) * 2 ^ 64

def pageType (op : DieOp) : Nat := if op.cell = 0 then 0 else op.page % op.cell

def setDescLvl (s : State) (n i sense v : Nat) : State := s.modLnd fun l => { l with descLvl := Tbl.setD l.descLvl ((32 * n + i) * 8 + sense) v 0 }

/-- A calibration is queued once (R342). -/
def queueCal (s : State) (n d g : Nat) (w : Option (Nat × Nat)) : State :=
  s.modLnd fun l =>
    if l.cals.any fun c => c.n == n && c.die == d && c.group == g then
      { l with cals := l.cals.map fun c => if c.n == n && c.die == d && c.group == g then { c with waiters := c.waiters ++ w.toList } else c }
    else { l with cals := l.cals ++ [{ n := n, die := d, group := g, waiters := w.toList }] }

/-- TRACK: the update after a decoded codeword with `ones` corrected bits that were read as 1 and `zeros` that were read as 0 (R341). -/
def track (s : State) (n : Nat) (op : DieOp) (g ones zeros : Nat) : State :=
  if s.on (LND_PORT_CTL.TRACK_FREEZE n) || !s.on LND_CTL.TRACK_EN then s
  else
    let t := pageType op
    let key := setKey n op.die g * 4 + t
    let up := Tbl.getD s.lnd.up key 0 + ones
    let dn := Tbl.getD s.lnd.dn key 0 + zeros
    let bias := s.rd LND_TRACK_CFG.TRACK_BIAS
    if up + dn < 16 * s.rd LND_TRACK_CFG.TRACK_MIN then
      s.modLnd fun l => { l with up := Tbl.setD l.up key up 0, dn := Tbl.setD l.dn key dn 0 }
    else
      let pm := pageMap s (cellTable op.cell) t
      let old := trackedSet s n op.die g
      let dir : Int := if dn * (16 + bias) ≤ up * 16 then 1 else if up * (16 + bias) ≤ dn * 16 then -1 else 0
      let clamp : Int := s.rd LND_TRACK_CFG.TRACK_CLAMP
      let want (j : Nat) : Int := lvl old j + dir * lvl pm j
      let tooFar := (List.range 15).any fun j => decide (clamp < (want j).natAbs)
      let s := setTracked s n op.die g (lvlMap fun j => max (-clamp) (min clamp (want j)))
      let s := s.modLnd fun l => { l with up := Tbl.setD l.up key 0 0, dn := Tbl.setD l.dn key 0 0 }
      if tooFar then queueCal s n op.die g none else s

/-! ## Fault notices (R353, R394) -/

/-- The block that an operation names, as suite and member. -/
def blameOf (s : State) (n : Nat) (op : DieOp) : Option (Nat × Nat) :=
  op.suite.bind fun k => ((List.range 32).find? fun m => memberDie s k m == (n, op.die)).map fun m => (k, m)

/-- Retires a die (R394, R395). -/
def retireDie (s : State) (n d : Nat) : State :=
  if s.scu.retiredDies.contains (16 * n + d) then s
  else
    let s := s.modScu fun x => { x with retiredDies := (16 * n + d) :: x.retiredDies }
    let s := jAppend s { typ := 0x0B, count := 16 * n + d, aux := 0xA }
    let s := post s 0x0082 4 6 n d
    let touched (e : Nat × Suite) : Bool := (List.range 32).any fun m => bitAt e.2.members m && memberDie s e.1 m == (n, d)
    s.modScu fun x => { x with suites := Tbl.mapV x.suites fun k y => if touched (k, y) && y.st ≠ 0 then { y with refreshDue := true } else y }

/-- A notice: 1 REFRESH, 2 SUSPECT, 3 ADDRESS; a second SUSPECT of a block within PERM_WINDOW_H hours, or one at a location refreshed since
the first, is PERMANENT (Table 9-8, Table 10-10). TRANSIENT has no action. -/
def notice (s : State) (kind n : Nat) (op : DieOp) : State :=
  let hour := s.pwr.opSec / 3600
  let d := 16 * n + op.die
  match kind with
  | 1 => match op.suite with
    | some k => s.modSuite k fun x => { x with refreshDue := true }
    | none => s
  | 2 =>
    let old := s.scu.suspects.find? fun e => e.1 == d && e.2.1 == op.block
    let perm := old.any fun e => decide (hour ≤ e.2.2 + s.rd LND_POLICY.PERM_WINDOW_H) ||
      (match op.suite with
        | some k => decide (e.2.2 < (s.suite k).programHour)
        | none => false)
    let s := s.modScu fun x => { x with
      suspects := lastN 4096 (x.suspects.filter (fun e => !(e.1 == d && e.2.1 == op.block)) ++ [(d, op.block, hour)]),
      permanent := if perm then badKey n op.die op.block :: x.permanent else x.permanent }
    match op.suite with
    | some k => s.modSuite k fun x => { x with suspect := true, refreshDue := true }
    | none => s
  | 3 =>
    let l := (d, s.pwr.opSec) :: s.scu.addrNotices.filter fun e => decide (s.pwr.opSec < e.2 + 86400)
    let s := s.modScu fun x => { x with addrNotices := l }
    if s.rd SCU_CARE_CFG.ADDRESS_MAX ≤ l.countP fun e => e.1 == d then retireDie s n op.die else s
  | _ => s

/-! ## Delivery (R280, R337, R351, R352) -/

/-- Where a 512-byte block lies in a unit's data (R94). -/
def blockOf (d : Blk) (i : Nat) : BitVec 4096 := d.extractLsb' (4096 * i) 4096

def setBlock (d : Blk) (i : Nat) (b : BitVec 4096) : Blk :=
  (d &&& ~~~((BitVec.allOnes 4096).setWidth 32768 <<< (4096 * i))) ||| (b.setWidth 32768 <<< (4096 * i))

/-- The merge of R179: blocks `a` to `a + n - 1` are the writer's, the rest come from the unit's present data. -/
def mergeData (mine old : Blk) (a n : Nat) : Blk :=
  (List.range 8).foldl (fun d i => if a ≤ i && decide (i < a + n) then d else setBlock d i (blockOf old i)) mine

/-- Metadata of 8 bytes for each 512-byte block merges the same way. -/
def mergeMeta (mine old : Meta) (a n : Nat) : Meta :=
  let mask : Meta := ((BitVec.allOnes 512) <<< (64 * a)) &&& ((BitVec.allOnes 512) >>> (512 - 64 * min 8 (a + n)))
  (mine &&& mask) ||| (old &&& ~~~mask)

/-- The merge read of a slot has come: the slot is filled and admitted (R179, R214). -/
def mergeSlot (s : State) (n k : Nat) (d : Blk) (md : Meta) : State :=
  match s.ctx n, Tbl.find s.ldr.slots k with
  | some c, some x =>
    match (c.wunits.findSome? fun u => Tbl.find u.part x.unit) with
    | some (a, len) => modSlot s k fun x => { x with st := 2, merge := true, data := mergeData x.data d a len, md := mergeMeta x.md md a len }
    | none => s
  | _, _ => s

/-- A merge read that ends without data makes the writer complete with Unrecovered Read Error and apply nothing (R179). -/
def mergeFailed (s : State) (n : Nat) : State :=
  match s.ctx n with
  | none => s
  | some c =>
    let s := returnSlots s c.wunits
    let s := s.modCtx n fun c => { c with wunits := c.wunits.map fun u => if u.st = .waiting then { u with st := .abandoned } else u }
    finish s n 2 0x81

/-- A copy read by reclaim or consolidation fills its slot; the slot joins its reclaim group's front (steps 3 and 4 of Table 10-8). -/
def copyWord (s : State) (k suite : Nat) (d : Blk) (md : Meta) : State :=
  let s := modSlot s k fun x => { x with st := 3, data := d, md := md }
  match s.scu.cons.filter fun c => c.slots.contains k with
  | some c =>
    if c.slots.all fun j => (Tbl.find s.ldr.slots j).any fun x => x.st == 3 then joinReclaim s c.rg false c.slots else s
  | none =>
  let hot := (s.suite suite).stream = 0 || (s.nvm.fdp && bitAt (s.rd SCU_RECLAIM_CFG.HANDLE_HOT) (s.suite suite).handle)
  joinReclaim s (s.suite suite).rg hot [k]

/-- A codeword reaches the engine that issued its read. -/
def deliver (s : State) (n : Nat) (op : DieOp) (d : Blk) (md : Meta) : State :=
  match op.issuer with
  | .hostRead ing _ unit =>
    match s.ctx ing with
    | none => s
    | some _ => s.modLnd fun l => { l with words := l.words ++ [{ src := n, ingest := ing, unit := unit, data := d, md := md,
                                                                  pin := op.suite.map fun k => .inr (k, op.unit) }] }
  | .merge ing k => mergeSlot s ing k d md
  | .rebuild f k row m src pos => rebuildWord s f k row m src pos d md
  | .recompute f k row src pos =>
    match (findRow s f k row).bind fun r => r.acc[pos]? with
    | some a => rebuildWord (modSlot s a fun x => { x with data := x.data ^^^ d, md := x.md ^^^ md }) f k row 64 src pos d md
    | none => s
  | .stripe id m =>
    s.modLnd fun l => { l with stripes := l.stripes.map fun j =>
      if j.id == id then { j with need := j.need.erase m, data := j.data ^^^ d, md := j.md ^^^ md } else j }
  | .copy k suite _ => copyWord s k suite d md
  | _ => s

/-- The codewords of a host read that stop counting against the pace of their host port (R354). -/
def paceDown (s : State) (n : Nat) (op : DieOp) : State :=
  match readDest s op with
  | some p => s.modLnd fun l => { l with pace := Tbl.setD l.pace (2 * n + p) (Tbl.getD l.pace (2 * n + p) 0 - 1) 0 }
  | none => s

/-- R352: a unit read by reclaim, consolidation or patrol is read a second time after a calibration of its group; when that fails too it
is set UNCORR. -/
def secondRead (s : State) (n : Nat) (op : DieOp) (k u : Nat) : State :=
  let named := (liveUnitsOf s k).filter fun e => e.2.2 == u
  if named.isEmpty then s
  else if s.lnd.second.contains (k, u) then
    let s := s.modLnd fun l => { l with second := l.second.erase (k, u) }
    s.each named fun s e => setUncorr s e.1 e.2.1
  else
    let s := s.modLnd fun l => { l with second := (k, u) :: l.second }
    if s.on LND_CTL.CAL_EN then queueCal s n op.die (levelGroup s op) (some (k, u))
    else (readUnit s k u op.cls op.bgClass op.issuer).getD s

/-- A codeword ends with a verdict that delivers nothing: what its engine sees (R351, R352, Table 9-6). -/
def deliverFail (s : State) (n : Nat) (op : DieOp) (portLost : Bool) : State :=
  match op.issuer with
  | .hostRead ing _ unit =>
    let s := paceDown s n op
    let s := match op.suite with
      | some k => unpinMedia s ing k op.unit
      | none => s
    setRunit s ing unit (if portLost then .failed 7 0xC2 else .failed 2 0x81)
  | .merge ing _ => mergeFailed s ing
  | .rebuild f k row m src pos => rebuildLost s f k row m src pos (if portLost then 3 else 2)
  | .recompute f k row src pos => rebuildLost s f k row 64 src pos 1
  | .stripe id m =>
    s.modLnd fun l => { l with stripes := l.stripes.map fun j =>
      if j.id == id then { j with need := j.need.erase m, failed := true, portLost := j.portLost || portLost } else j }
  | .copy slot k u =>
    let again := s.lnd.second.contains (k, u)
    let s := secondRead s n op k u
    if !again then s
    else match s.scu.cons.filter fun c => c.slots.contains slot with
      | some c => (s.each c.slots freeSlot).modScu fun x => { x with cons := none }
      | none => freeSlot s slot
  | .patrol k u => secondRead s n op k u
  | _ => s

/-! ## The end of a codeword and of a read (R338, R351) -/

def State.climb (s : State) (n i : Nat) : Climb := Tbl.getD s.lnd.climbs (32 * n + i) {}

def modClimb (s : State) (n i : Nat) (f : Climb → Climb) : State :=
  s.modLnd fun l => { l with climbs := Tbl.modD l.climbs (32 * n + i) {} f }

/-- XFER_DONE (R338): the closing PASS has arrived and every codeword is accounted for. -/
def readDone (s : State) (n i : Nat) : State :=
  match Tbl.find (s.seq n).descs i with
  | none => s
  | some h =>
    if h.op.kind = 1 && h.passed && h.open_.isEmpty && !h.xferDone && !h.ended && decide (h.op.cwCount ≤ h.cwDone) then
      let c := s.climb n i
      let s := if c.row = 0 then s else s.bump (LND_PORT_CNT.RETRY n)
      let s := s.modSeq n fun q => { q with descs := Tbl.upd q.descs i fun h => { h with xferDone := true } }
      raise s n (evWord 0x03 0 i 0 h.cwSoft)
    else s

/-- A codeword of a descriptor is accounted for. -/
def endCw (s : State) (n i cw : Nat) (soft : Bool) : State :=
  let s := modClimb s n i fun c => { c with cws := Tbl.del c.cws cw }
  let s := s.modSeq n fun q => { q with descs := Tbl.upd q.descs i fun h => { h with cwDone := h.cwDone + 1, cwSoft := h.cwSoft + b2n soft } }
  readDone s n i

/-- The operation of a ring entry, with the codeword's own data unit where it has several. -/
def cwOp (op : DieOp) (cw : Nat) : DieOp := { op with unit := op.unit + cw }

/-- Counts a verdict: soft codewords, and those not recovered (Table 9-17). -/
def countVerdict (s : State) (n v : Nat) : State :=
  if v = 3 then s.bump (LND_PORT_CNT.SOFT n)
  else if v = 5 then s.bump (LND_PORT_CNT.UNCORR n)
  else if v = 6 then (s.bump (LND_PORT_CNT.UNCORR n)).bump (LND_PORT_CNT.MISDIRECTED n)
  else s

/-- A codeword is recovered, for its own engine and for those that joined it (R349). -/
def cwGood (s : State) (n i cw v row : Nat) (op : DieOp) (d : Blk) (md : Meta) : State :=
  let s := countVerdict s n v
  let s := if (v = 2 || v = 3) && s.rd LND_POLICY.REFRESH_STEP ≤ row then notice s 1 n op else s
  let s := deliver s n (cwOp op cw) d md
  let s := s.each (s.climb n i).joined fun s e => deliver s e.1 e.2.1 d md
  endCw (modClimb s n i fun c => { c with joined := [] }) n i cw (v = 3)

/-- A codeword ends with a verdict that delivers nothing: 5 UNCORRECTABLE, 6 MISDIRECTED, 7 ABANDONED. -/
def cwBad (s : State) (n i cw v : Nat) (op : DieOp) (portLost : Bool) : State :=
  let s := countVerdict s n v
  let s := if v = 7 then s else notice s 2 n op
  let s := if v = 6 then notice s 3 n op else s
  let s := deliverFail s n (cwOp op cw) portLost
  let s := s.each (s.climb n i).joined fun s e => deliverFail s e.1 e.2.1 portLost
  endCw (modClimb s n i fun c => { c with joined := [] }) n i cw false

/-! ## Stripe recovery (R348) -/

/-- Hands a codeword at (suite, unit) to stripe recovery: the other data members of its row at its position, with the accumulator while
the row is live in the Larder, else with the parity member; a row whose parity nobody holds cannot be recovered. Answers none where it
cannot start. -/
def startStripe (s : State) (n : Nat) (op : DieOp) (cw : Nat) (soft : Bool) : Option State :=
  match op.suite with
  | none => none
  | some k =>
    let u := op.unit + cw
    match s.lnd.stripes.find? fun j => j.suite == k && j.unit == u with
    | some j => some (s.modLnd fun l => { l with stripes := l.stripes.map fun x => if x.id == j.id then { x with joined := x.joined ++ [(n, op, cw)] } else x })
    | none =>
      match locate s k u with
      | none => none
      | some p =>
        let x := s.suite k
        let live := s.ldr.fronts.findSome? fun f => (f.2.rows.find? fun r => r.suite == k && r.no == p.row && !r.lost).map fun r => r
        let held := x.unprotected && live.isNone
        if held then none
        else
          let base : Blk × Meta := match live.bind fun r => (r.acc[p.pos]?).bind fun a => Tbl.find s.ldr.slots a with
            | some a => (a.data, a.md)
            | none => (0, 0)
          let others := match live with
            | some r => (r.mem.filter fun y => y.m != p.m && decide (1 ≤ y.st)).map fun y => y.m
            | none => (membersAt x p.row).filter fun m => m != p.m
          let id := s.lnd.nextStripe
          let s := s.modLnd fun l => { l with nextStripe := id + 1, stripes := l.stripes ++
            [{ id := id, n := n, op := op, cw := cw, suite := k, unit := u, soft := soft, need := others, data := base.1, md := base.2 }] }
          some (s.each others fun s m =>
            match readMember s k m p.row p.pos 1 0 (.stripe id m) with
            | some s => s
            | none => s.modLnd fun l => { l with stripes := l.stripes.map fun j =>
                if j.id == id then { j with need := j.need.erase m, failed := true, portLost := true } else j })

/-- The member reads of a recovery are in: the codeword is delivered with STRIPE, or ends UNCORRECTABLE (R348, R351). -/
def stripeDone (s : State) (id : Nat) : State :=
  match s.lnd.stripes.find? fun j => j.id == id with
  | none => s
  | some j =>
    if !j.need.isEmpty then s
    else
      let s := s.modLnd fun l => { l with stripes := l.stripes.erase j }
      let all := (j.n, j.op, j.cw) :: j.joined
      if j.failed then
        let s := notice (countVerdict s j.n 5) 2 j.n j.op
        s.each all fun s e => deliverFail s e.1 (cwOp e.2.1 e.2.2) (j.portLost || portRetired s e.1)
      else
        let s := post (notice (if j.soft then countVerdict s j.n 3 else s) 2 j.n j.op) 0x0070 3 5 j.n j.suite j.unit j.op.die
        s.each all fun s e => deliver s e.1 (cwOp e.2.1 e.2.2) j.data j.md

/-! ## The ladder (R343 to R346) -/

/-- A row of the ladder as it acts (R361): kind, senses, iterations are the decoder's; row 0 is HARD with SHIFT 0. -/
def ladderKind (s : State) (c k : Nat) : Nat :=
  if k = 0 then 1
  else if 16 ≤ k then 0
  else
    let v := s.rd (LND_LADDER.KIND (16 * c + k))
    if v = 4 && !s.on LND_CTL.STRIPE_EN then 0 else if 1 ≤ v && v ≤ 4 then v else 0

def ladderSenses (s : State) (c k : Nat) : Nat :=
  let v := s.rd (LND_LADDER.SENSES (16 * c + k))
  match ladderKind s c k with
  | 1 => 1
  | 2 => if v = 4 then 4 else 2
  | 3 => if v = 3 || v = 7 then v else 5
  | _ => 0

/-- The levels of a sense of a row (R344). -/
def senseSet (s : State) (op : DieOp) (k sense tracked : Nat) (valley : Option Nat) : Nat :=
  let c := cellTable op.cell
  let base := if s.rd (LND_LADDER.BASE (16 * c + k)) = 1 then valley.getD tracked else tracked
  let step : Int := s.rd (LND_LADDER.STEP (16 * c + k))
  let pm := pageMap s c (pageType op)
  let cnt := ladderSenses s c k
  let off : Int := match ladderKind s c k with
    | 2 => if cnt = 2 then (if sense = 0 then -step else step)
           else match sense with
            | 0 => -2 * step
            | 1 => -step
            | 2 => step
            | _ => 2 * step
    | 3 => ((sense : Int) - ((cnt - 1) / 2 : Nat)) * step
    | _ => 0
  if ladderKind s c k = 1 then
    let sh := if k = 0 then 0 else sext 8 (s.rd (LND_LADDER.SHIFT (16 * c + k)))
    lvlMap fun j => lvl base j + sh * lvl pm j
  else lvlMap fun j => if j < (if c = 0 then 1 else if c = 1 then 7 else 15) then lvl base j + off else 0

/-- Whether the Laundry stops climbing for a descriptor: its host reader is gone, or its TLER has passed (Table 9-6). -/
def readerGone (s : State) (op : DieOp) : Bool :=
  match op.issuer with
  | .hostRead ing _ _ => match s.ctx ing with
    | none => true
    | some c => c.st == .ready
  | _ => false

/-- The planes of the failing codewords. -/
def failPlanes (op : DieOp) (cws : Tbl ClimbCw) : Nat :=
  let l := (List.range 4).filter fun p => bitAt op.planes p
  maskOf ((Tbl.keys cws).map fun c => (l[c / max 1 op.cwPerPlane]?).getD 0).eraseDups

/-- Codewords that the recipe may read for the present row of a descriptor (R308, R345): CW_COUNT, or for a row of the ladder SENSES times the
codewords of the named planes. -/
def cwBound (s : State) (n i : Nat) (op : DieOp) : Nat :=
  let c := Tbl.getD s.lnd.climbs (32 * n + i) {}
  if op.kind = 1 && (decide (0 < c.row) || c.extra) then
    let planes := failPlanes op c.cws
    ladderSenses s (cellTable op.cell) c.row * ((List.range 4).countP fun p => bitAt planes p) * max 1 op.cwPerPlane
  else op.cwCount

/-- The next step of a descriptor's ladder, once every codeword of the step before has a result (R344 to R346): the next row is asked for
with DECODE_FAIL, the codewords are handed to stripe recovery, or they end UNCORRECTABLE (or ABANDONED after TLER or a reset). -/
def nextRow (s : State) (n i : Nat) : State :=
  match Tbl.find (s.seq n).descs i with
  | none => s
  | some h =>
    let c := s.climb n i
    if c.cws.isEmpty then s
    else
      let tbl := cellTable h.op.cell
      let misdir := c.cws.any fun e => e.2.found.isSome
      let again := misdir && !c.extra && c.row = 0
      let k := if again then 0 else c.row + 1
      let kind := ladderKind s tbl k
      if c.stop || readerGone s h.op then
        s.each c.cws fun s e => cwBad s n i e.1 7 h.op false
      else if kind = 0 then s.each c.cws fun s e => cwBad s n i e.1 5 h.op false
      else if kind = 4 then
        s.each c.cws fun s e =>
          match startStripe s n h.op e.1 c.softRows with
          | some s => endCw s n i e.1 false
          | none => cwBad s n i e.1 5 h.op false
      else
        let cnt := if again then 1 else ladderSenses s tbl k
        let s := s.each (List.range cnt) fun s j =>
          setDescLvl s n i j (if again then c.base else senseSet s h.op k j c.base c.valley)
        let first := ((Tbl.keys c.cws).head?).getD 0
        let s := modClimb s n i fun c => { c with row := k, extra := c.extra || again, softRows := c.softRows || kind == 2,
                                                  cws := Tbl.mapV c.cws fun _ x => { x with senses := 0, failed := false } }
        let planes := failPlanes h.op c.cws
        let s := match blameOf s n h.op with
          | some (y, m) => countRead s y m (cnt * (List.range 4).countP fun p => bitAt planes p)
          | none => s
        let s := setDescArg s n i (bits (descByte s n i 0x14 4) 0 8 + k * 2 ^ 8)
        let s := s.modSeq n fun q => { q with descs := Tbl.upd q.descs i fun h => { h with cwSent := 0 } }
        raise s n (evWord 0x04 k i first (planes + cnt * 2 ^ 8 + (if again then 1 else kind) * 2 ^ 12))

/-- A codeword joins a recovery already under way at its location (R349): it ends as handed over. Answers none where none runs. -/
def joinClimb (s : State) (n i cw : Nat) (op : DieOp) : Option State :=
  match op.suite with
  | none => none
  | some k =>
    let u := op.unit + cw
    if s.lnd.stripes.any fun j => j.suite == k && j.unit == u then
      (startStripe s n op cw false).map fun s => endCw s n i cw false
    else
      match s.lnd.climbs.find? fun e => e.1 != 32 * n + i && decide (0 < e.2.row) &&
          (match Tbl.find (s.seq (e.1 / 32)).descs (e.1 % 32) with
            | some h => h.op.suite == some k && (Tbl.keys e.2.cws).any fun c => h.op.unit + c == u
            | none => false) with
      | some e => some (endCw (modClimb s (e.1 / 32) (e.1 % 32) fun c => { c with joined := c.joined ++ [(n, cwOp op cw, 0)] }) n i cw false)
      | none => none

/-- Whether every codeword of the present step has a result. -/
def stepOver (s : State) (n i : Nat) : Bool :=
  match Tbl.find (s.seq n).descs i with
  | none => false
  | some h =>
    let c := s.climb n i
    c.cws.all (fun e => e.2.failed) && (decide (0 < c.row) || c.extra || decide (h.op.cwCount ≤ h.cwDone + c.cws.length))

/-- A failing codeword has its result at the present step. -/
def cwFailed (s : State) (n i cw : Nat) (found : Option (Nat × Nat × Nat)) : State :=
  let s := modClimb s n i fun c => { c with cws := Tbl.put c.cws cw { (Tbl.getD c.cws cw {}) with failed := true, found := found } }
  if stepOver s n i then nextRow s n i else s

/-- A descriptor is handed over: the climb starts afresh (a reissue keeps it), sense 0 takes the tracked set of its group, the group goes
into ARG, and a host read counts against its pace (R340, R350, R354). -/
def landHandover (s : State) (n i : Nat) (op : DieOp) : State :=
  if op.kind ≠ 1 then s
  else
    let g := levelGroup s op
    let s := setDescLvl s n i 0 (trackedSet s n op.die g)
    let s := setDescArg s n i (g + (if op.reissue then bits op.arg 8 4 else 0) * 2 ^ 8)
    let s := if op.reissue then s else s.modLnd fun l => { l with climbs := Tbl.put l.climbs (32 * n + i) { base := trackedSet s n op.die g } }
    match readDest s op with
    | some p => s.modLnd fun l => { l with pace := Tbl.setD l.pace (2 * n + p) (Tbl.getD l.pace (2 * n + p) 0 + op.cwCount) 0 }
    | none => s

/-- An accepted RDATA codeword enters a hard engine, or fills the next sense of a failing position; a SOFT row with all its senses makes a
soft job (R336, R345). One that has been delivered already is discarded. -/
def landHardIn (s : State) (n i cw : Nat) : State :=
  match Tbl.find (s.seq n).descs i with
  | none => s
  | some h =>
    let c := s.climb n i
    let tbl := cellTable h.op.cell
    if c.row = 0 && !c.extra then s
    else
      match Tbl.find c.cws cw with
      | none => s
      | some x =>
        let cnt := ladderSenses s tbl c.row
        if cnt ≤ x.senses then s
        else
          let s := modClimb s n i fun c => { c with cws := Tbl.put c.cws cw { x with senses := x.senses + 1 } }
          if ladderKind s tbl c.row = 2 && x.senses + 1 = cnt then
            s.modLnd fun l => { l with jobs := l.jobs ++ [{ n := n, i := i, cw := cw, cls := h.op.cls, row := c.row }] }
          else s

/-- A port retirement meets its ladders (Table 9-6): every codeword without a verdict is handed to stripe recovery, and one that cannot be
ends UNCORRECTABLE and lost with the port. -/
def landLadderRetire (s : State) (n : Nat) : State :=
  let l := (s.seq n).descs.filter fun e => e.2.op.kind == 1 && !e.2.xferDone
  let s := s.each l fun s e =>
    let c := s.climb n e.1
    s.each ((List.range e.2.op.cwCount).drop (e.2.cwDone - 0)) fun s cw =>
      match startStripe s n e.2.op cw c.softRows with
      | some s => s
      | none => deliverFail (countVerdict s n 5) n (cwOp e.2.op cw) true
  s.modLnd fun x => { x with jobs := x.jobs.filter fun j => j.n != n, climbs := Tbl.keep x.climbs fun k _ => k / 32 != n }

/-- A read that delivers no codeword: each codeword is handed to stripe recovery, and otherwise ends UNCORRECTABLE; a SUSPECT notice
(R622, Table 9-6). -/
def readLost (s : State) (n : Nat) (op : DieOp) (portLost : Bool) : State :=
  let s := if portLost then s else notice s 2 n op
  s.each (List.range op.cwCount) fun s cw =>
    match (if s.on LND_CTL.STRIPE_EN || portLost then startStripe s n op cw false else none) with
    | some s => s
    | none => deliverFail (countVerdict s n 5) n (cwOp op cw) portLost

end Sys2Proof.Machine
end

