-- ==== Sys2Proof/Machine/Engines.lean ====
section
/-!
DEFINITION. What happens at the engine that issued a die operation when the operation ends (R279, R310, Table 7-14), the ends that the
hardware itself gives a descriptor, and the points where one subsystem's event acts on others.
-/
namespace Sys2Proof.Machine

/-! ## Erases and folds -/

/-- A member's erase has passed. -/
def erasePassed (s : State) (k m : Nat) : State :=
  s.modScu fun x => { x with erasing := Tbl.upd x.erasing k fun l => l.erase m }

/-- A member's erase fails: its block is bad, ERASE_FAILS of the port rises, and the suite goes on without the member (R384). -/
def eraseFailed (s : State) (k m : Nat) : State :=
  if !((Tbl.getD s.scu.erasing k []).contains m) then s
  else
    let (n, d) := memberDie s k m
    let key := badKey n d (k / 32)
    let s := erasePassed s k m
    let s := s.modScu fun x => { x with badBlocks := if x.badBlocks.contains key then x.badBlocks else key :: x.badBlocks }
    let s := s.modSuite k fun x => { x with members := x.members - (if bitAt x.members m then 2 ^ m else 0) }
    let s := suiteRecord s k 8 m 0
    s.modNvm fun x => { x with ports := Tbl.modD x.ports n {} fun p => { p with eraseFails := satInc 32 p.eraseFails } }

/-- Folding of a destination row has passed on a member; the row is relocated when every member has (R390). -/
def foldPassed (s : State) (k row m : Nat) : State :=
  let left := (Tbl.getD s.scu.erasing (2 ^ 24 + k) []).erase m
  let s := s.modScu fun x => { x with erasing := Tbl.setD x.erasing (2 ^ 24 + k) left [] }
  if !left.isEmpty then s
  else
    let x := s.suite k
    let dest := x.foldDest % 2 ^ 20
    let quarter := x.foldDest / 2 ^ 20 % 4
    let spw := slotsPerWl s 1
    let moved := (liveUnitsOf s k).filterMap fun e =>
      match locate s k e.2.2 with
      | some p =>
        if p.row / 4 = row then
          let drow := quarter * s.scu.geo.rows / 4 + row
          let idx := ((dataMembers x p.row).findIdx? fun m => m == p.m).getD 0
          some (e.1, e.2.1, drow * (dataMembers x p.row).length * (4 * spw) + idx * (4 * spw) + 16 * (p.row % 4) + p.pos)
        else none
      | none => none
    let s := s.each moved fun s e =>
      if Tbl.has s.pan.overlay (unitKey e.1 e.2.1) then s
      else mapChange s { typ := 0x02, nsid := e.1, count := 1, first := e.2.1, loc := locWord dest e.2.2, aux := k }
    let s := s.modSuite k fun x => { x with folded := row + 1 }
    if s.scu.geo.rows ≤ 4 * (row + 1) then
      let s := suiteRecord (s.modSuite k fun x => { x with st := 3 }) k 3 (liveUnits s k) 3
      if quarter = 3 then closedSuite s dest else s
    else s

/-- Folding of a destination stops when a source or the destination loses a member (R390): its sources go to reclaim, it is ended SHORT. -/
def foldStop (s : State) (k : Nat) : State :=
  let dest := (s.suite k).foldDest % 2 ^ 20
  let s := s.modScu fun x => { x with foldStopped := mark x.foldStopped true k }
  let s := s.modSuite k fun x => { x with refreshDue := true }
  if (s.suite dest).st = 1 then closedSuite (s.modSuite dest fun x => { x with short := true }) dest else s

/-! ## The dump area (R236, R238, R379) -/

/-- The dies of the dump area with their block: the members in service of every DUMP suite. -/
def dumpDies (s : State) : List (Nat × Nat × Nat) :=
  (s.scu.suites.filter fun e => e.2.st == 7).flatMap fun e =>
    (openMembers s e.1).map fun m => ((memberDie s e.1 m).1, (memberDie s e.1 m).2, e.1 / 32)

/-- One dump program on the `i`-th die of the area, counted round. -/
def dumpProgram (s : State) (i wave : Nat) (slots : List Nat) (count : Nat) : State :=
  let l := dumpDies s
  match l[i % max 1 l.length]? with
  | none => s
  | some (n, d, b) =>
    offer s n { kind := 2, die := d, planes := 2 ^ s.scu.geo.planes - 1, cwCount := count, cell := 1, block := b, page := i / max 1 l.length,
                cls := 0, slots := slots, issuer := .dump wave }

/-- A dump program that failed goes to the next die of the area (R238). -/
def dumpAgain (s : State) (n : Nat) (op : DieOp) (wave : Nat) : State :=
  let l := dumpDies s
  match l[(l.findIdx (fun x => x.1 == n && x.2.1 == op.die) + 1) % max 1 l.length]? with
  | none => s
  | some (n, d, b) => offer s n { op with die := d, block := b, issuer := .dump wave }

/-! ## Outcomes -/

/-- The outcome of an operation reaches its engine (R310, R279, Table 7-14). -/
def opOutcome (s : State) (n : Nat) (op : DieOp) (res : OpResult) : State :=
  let ok := res == .pass
  let s := if !ok && op.kind = 2 && res == .fail then
      s.modNvm fun x => { x with ports := Tbl.modD x.ports n {} fun p => { p with progFails := satInc 32 p.progFails } } else s
  match op.issuer with
  | .data f k row m => if ok then memberPassed s f k row m else programFailed s f k row m
  | .parity f k row => if ok then parityPassed s f k row else parityFailed s f k row
  | .erase k m => if ok then erasePassed s k m else eraseFailed s k m
  | .fold k row m => if ok then foldPassed s k row m else foldStop s k
  | .dump w => if ok then s else dumpAgain s n op w
  | .cal _ => s
  | .test => s
  | _ => if ok then s else readLost s n op (res == .retired)

/-- The hardware ends a descriptor: ENDED is raised with its detail, the engine sees the outcome, the entry is free and a later ODONE is
ignored (R310). -/
def endDesc (s : State) (n i detail : Nat) (res : OpResult) : State :=
  match Tbl.find (s.seq n).descs i with
  | none => s
  | some h =>
    if h.ended then s
    else
      let s := setDescState (leaveDie (withdraw s n i) n i) n i 0
      let s := s.modSeq n fun q => { q with descs := Tbl.upd q.descs i fun h => { h with ended := true } }
      opOutcome (raise s n (evWord 0x08 detail i)) n h.op res

/-- Every descriptor of a port that `pred` selects is ended. -/
def endRing (s : State) (n : Nat) (pred : DescHw → Bool) (detail : Nat) (res : OpResult) : State :=
  s.each ((s.seq n).descs.filter fun e => pred e.2 && !e.2.ended) fun s e =>
    if e.2.op.kind = 1 then
      let s := setDescState (leaveDie (withdraw s n e.1) n e.1) n e.1 0
      let s := s.modSeq n fun q => { q with descs := Tbl.upd q.descs e.1 fun h => { h with ended := true } }
      if res == .retired then raise s n (evWord 0x08 detail e.1) else opOutcome (raise s n (evWord 0x08 detail e.1)) n e.2.op res
    else endDesc s n e.1 detail res

/-! ## Across subsystems -/

/-- Both copies of a batch are durable: what waits for its records goes on (R104, R108, R149, R195). -/
def journalDurable (s : State) : State := settleCheck s

/-- DRAINED (Table 3-14): fetching stopped, nothing ingested in flight but Asynchronous Event Requests, and every port sequencer at a
recipe boundary. -/
def hallDrained (s : State) : Bool :=
  (!s.on HAL_CTL.FETCH_EN || s.on HAL_CTL.DRAIN_REQ) &&
  s.hall.ctxs.all (fun e => e.2.cmd == .asyncEvent || s.hall.activating == some e.1) &&
  (List.range 64).all fun n => (s.port n).running.isEmpty

/-- A die temperature reply meets the program range of the geometry table: outside it the die's programs are inhibited, and two successive
readings inside it lift that (Table 6-6). -/
def dieTempInhibit (s : State) (n die : Nat) (half : Int) (valid : Bool) : State :=
  let key := 16 * n + die
  let inside := valid && decide (s.scu.geo.tMin ≤ half ∧ half ≤ s.scu.geo.tMax)
  if !valid then s
  else match Tbl.find s.ldr.hot key, inside with
    | none, true => s
    | none, false => s.modLdr fun l => { l with hot := Tbl.put l.hot key 0 }
    | some _, false => s.modLdr fun l => { l with hot := Tbl.put l.hot key 0 }
    | some 0, true => s.modLdr fun l => { l with hot := Tbl.put l.hot key 1 }
    | some _, true =>
      pumpAll (s.modLdr fun l => { l with hot := Tbl.del l.hot key, excluded := l.excluded.filter fun x => x != key,
                                          inhibitNoted := l.inhibitNoted.filter fun x => x != key })

/-- A port retirement reaches the Scullery (Table 10-11): PORT_RETIRED is journaled, the port's dies leave every suite, the suites are
refreshed, and the ledgers of the closed ones are to be walked (R395, R396). -/
def scuPortRetired (s : State) (n cause : Nat) : State :=
  let touched (k : Nat) (x : Suite) : Bool := (List.range 32).any fun m => bitAt x.members m && (memberDie s k m).1 == n
  let s := jAppend s { typ := 0x0B, count := n, first := cause, aux := 9 }
  let s := s.modScu fun x => { x with
    walk := n :: x.walk,
    suites := Tbl.mapV x.suites fun k y => if touched k y && y.st ≠ 0 then { y with refreshDue := true } else y }
  dropPortMembers s n

/-- A replaced dump area: the DUMP suite of stripe group `g` failed its in-service test and another takes its place (Table 15-5, R379). -/
def replaceDumpSuite (s : State) (g : Nat) : State :=
  let old := (s.scu.suites.find? fun e => e.1 % 32 == g && e.2.st == 7).map fun e => e.1
  match leastWorn s ((suiteNums s).filter fun k => k % 32 == g && isFree s k) with
  | none => s
  | some k =>
    let s := suiteRecord (s.modSuite k fun x => { x with st := 7 }) k 7 (maskOf (openMembers s k)) 0
    match old with
    | some j => suiteRecord (s.modSuite j fun x => { x with st := 6 }) j 6 (s.suite j).members 0
    | none => s

/-- A self-test ends: the result is kept, newest first, at most 20, and DST_RESULT is posted (R571, R572). -/
def dstEnd (s : State) (result seg detail lba : Nat) : State :=
  match s.atc.dst with
  | none => s
  | some d =>
    let code := if d.ext then 2 else 1
    let s := s.modAtc fun a => { a with dst := none, extCount := a.extCount + b2n d.ext,
                                        dstResults := ({ code := code, result := result, seg := seg, detail := detail, nsid := d.nsid, lba := lba, opSec := s.pwr.opSec } :: a.dstResults).take 20 }
    let s := s.modNvm fun x => { x with dstSeconds := s.pwr.opSec - d.at_ }
    post s 0x00C0 2 9 0xFF (code + result * 2 ^ 4 + seg * 2 ^ 8 + detail * 2 ^ 16) d.nsid (lba % 2 ^ 32) (lba / 2 ^ 32)

end Sys2Proof.Machine
end

