-- ==== Sys2Proof/Machine/Attic.lean ====
section
/-!
DEFINITION. The Attic (chapter 15): posting, the Closet mirror, full mode, the windows, the in-service test and the device
self-test.
-/
namespace Sys2Proof.Machine

/-- Record `a` is older than record `b`, by SEQ modulo 2^32 (R552). -/
def olderSeq (a b : Nat) : Bool :=
  let d := (b + 2 ^ 32 - a % 2 ^ 32) % 2 ^ 32
  decide (1 ≤ d ∧ d ≤ 2 ^ 31 - 1)

/-- The records that survive, oldest first: the on-chip ring, or in full mode the pages that one copy can still read and the
records still staged (R557, R562, R565). -/
def atticRecords (a : Attic) : List AtticRec :=
  if a.full then
    ((a.segs.flatMap id).filter fun p => p.okFirst || p.okSecond).flatMap (fun p => p.recs) ++ a.waiting
  else a.ring

/-- The port of the first Attic die and of the second, by the rule of R563: die 0 of the lowest Otcon port in service, and of the
lowest such port at or above P/2, or else of the next above the first. -/
def atticPorts (s : State) : Option Nat × Option Nat :=
  let otcon := (List.range 64).filter fun n => populated s n && portMode s n == 1
  let ok := otcon.filter fun n => !portRetired s n && diePresent s n 0
  let first := ok.head?
  let second := match ok.find? (fun n => decide (otcon.length / 2 ≤ n ∧ some n ≠ first)) with
    | some n => some n
    | none => ok.find? fun n => first.any fun f => decide (f < n)
  (first, second)

/-- ATC_POST_GO (R554): a program posts its staged PARAM words; SOURCE and ORIGIN are the hardware's; a CODE below 0x8000 is
discarded; a reserved SEVERITY posts as 0x2. The registers are open to sequencers only (Table 8-4). -/
def execAtcPostGo (who : Agent) (code sev : Nat) (s : State) : Host.Outcome State Fault Refusal :=
  let go (n : Nat) : State :=
    let lo := (Tbl.getD s.atc.stageLo n 0).toNat
    let hi := (Tbl.getD s.atc.stageHi n 0).toNat
    if code % 2 ^ 16 < 0x8000 then s
    else post s (code % 2 ^ 16) (if 1 ≤ sev ∧ sev ≤ 5 then sev else 2) (if n = 64 then 0xF else 0xE) (if n = 64 then 0xFF else n)
      (lo % 2 ^ 32) (lo / 2 ^ 32) (hi % 2 ^ 32) (hi / 2 ^ 32)
  match who with
  | .portSeq n => .next (if n < 64 then go n else s)
  | .supervisor => .next (go 64)
  | .boot => .next (go 64)
  | _ => .next s

/-- An operating second ends: operating time advances; when records were dropped in it, EVENTS_DROPPED is written, exempt from the
limit (R553, R555); the confirmation count goes on in PS0 to PS2 (R499). -/
def execOperatingSecondEnd (s : State) : Host.Outcome State Fault Refusal :=
  let d := s.atc.droppedThisSec
  let s := if 0 < d then appendRec s { code := 0x0003, sev := 3, src := 0xC, p0 := d % 2 ^ 32 } else s
  let s := s.modAtc fun a => { a with postedThisSec := 0, droppedThisSec := 0 }
  let counts := s.pwr.st = .ps0 || s.pwr.st = .ps1 || s.pwr.st = .ps2
  let s := s.modClo fun c => { c with confirmSec := if counts then c.confirmSec.map (· + 1) else c.confirmSec }
  .next (s.modPwr fun p => { p with opSec := p.opSec + 1 })

/-- Mirror sectors are 712 to 767; the sector after `k` in the ring. -/
def nextMirrorSector (k : Nat) : Nat := if k = 767 then 712 else k + 1

/-- One record goes to the mirror ring of 2,048 records a sector; when fewer than 2 sectors are erased the one with the oldest
records is erased (R557). -/
def mirrorOne (a : Attic) (r : AtticRec) : Attic :=
  let cur := Tbl.getD a.mirror a.mirrorSector []
  let a := if cur.length < 2048 then a else { a with mirrorSector := nextMirrorSector a.mirrorSector }
  let cur := Tbl.getD a.mirror a.mirrorSector []
  let a := { a with mirror := Tbl.put a.mirror a.mirrorSector (cur ++ [r]) }
  if 54 < a.mirror.length then
    let oldest := a.mirror.foldl (fun (b : Option (Nat × Nat)) e =>
      match e.2, b with
      | r :: _, some (_, q) => if olderSeq r.seq q then some (e.1, r.seq) else b
      | r :: _, none => some (e.1, r.seq)
      | [], _ => b) none
    match oldest with
    | some (k, _) => { a with mirror := Tbl.del a.mirror k }
    | none => a
  else a

/-- Pending compact records are programmed into the Closet mirror; they wait while a Closet operation runs (R559). After an Attic
Clear the sectors that hold only older records are erased (R560). In full mode nothing goes to the mirror (R561). -/
def execAtticMirrorProgram (s : State) : Host.Outcome State Fault Refusal :=
  if s.atc.full || s.clo.op.isSome then .next s
  else
    .next (s.modAtc fun a =>
      let a := { a.waiting.foldl mirrorOne a with waiting := [] }
      if a.clearPending then
        let lastClear := (a.ring.filter fun r => r.code == 0x0002).getLast?.map fun r => r.seq
        { a with clearPending := false,
                 mirror := Tbl.keep a.mirror fun _ l => match lastClear with
                   | some q => !(l.all fun r => olderSeq r.seq q)
                   | none => true }
      else a)

/-- The most segments that the full-mode area keeps (R562). -/
def atticSegs (a : Attic) : Nat := ceilDiv 1048576 (max 1 a.segSlots) + 1

/-- A page of up to 2,048 records is programmed to both Attic dies; when the newest segment is full the oldest is erased, but not
while a window latch reads it, and then the records wait (R562, R565). -/
def pageProgram (s : State) : State :=
  let a := s.atc
  if !a.full || a.waiting.isEmpty || a.moving.isSome then s
  else
    let page : AtticPage := { recs := a.waiting.take 2048, okFirst := a.copyFirst.isSome, okSecond := a.copySecond.isSome }
    let fits := match a.segs.getLast? with
      | some g => decide ((g.length + 1) * 2048 ≤ a.segSlots)
      | none => false
    let excess := !fits && decide (atticSegs a ≤ a.segs.length)
    if excess && a.wins.any fun w => w.2.latching then s
    else
      s.modAtc fun a =>
        let segs := if fits then a.segs.dropLast ++ [a.segs.getLast?.getD [] ++ [page]] else a.segs ++ [[page]]
        { a with segs := if excess then segs.drop 1 else segs, waiting := a.waiting.drop 2048 }

def execFullModePageProgram (s : State) : Host.Outcome State Fault Refusal := .next (pageProgram s)

/-- A write to ATC_WIN_CURSOR[w] latches the window anew: READY falls, OLDEST_SEQ and GAP are set (R564). Windows 0 and 1 are open to
the host, window 2 to the supervisor only (R9, R564, R566). -/
def execAtcWinCursorWrite (who : Agent) (w seq : Nat) (s : State) : Host.Outcome State Fault Refusal :=
  let allowed := match who with
    | .host _ => decide (w < 2)
    | .supervisor => decide (w < 3)
    | .boot => decide (w < 3)
    | _ => false
  if !allowed then .next s
  else
    let seq := seq % 2 ^ 32
    let oldest := ((atticRecords s.atc).head?.map fun r => r.seq).getD s.atc.nextSeq
    let win : AtticWin := { cursor := seq, oldest := oldest, gap := olderSeq seq oldest, ready := false, latching := true, recs := [] }
    .next (s.modAtc fun a => { a with wins := Tbl.put a.wins w win })

/-- The latch ends: up to 64 records in SEQ order from the younger of the cursor and OLDEST_SEQ are copied, those of unreadable pages left
out, COUNT is their number and READY rises (R564, R565). -/
def execWindowLatchDone (w : Nat) (unreadable : List Nat) (s : State) : Host.Outcome State Fault Refusal :=
  match Tbl.find s.atc.wins w with
  | none => .next s
  | some x =>
    if !x.latching then .next s
    else
      let start := if x.gap then x.oldest else x.cursor
      let l := (atticRecords s.atc).filter fun r => !olderSeq r.seq start && !unreadable.contains r.seq
      .next (s.modAtc fun a => { a with wins := Tbl.put a.wins w { x with latching := false, ready := true, recs := l.take 64 } })

/-- A copy of the full-mode area that was lost (0 first, 1 second) is moved to the next qualifying die: every page the surviving copy
still holds is programmed there, and ATTIC_MOVED is posted; with no die left the area runs with one copy; with both copies
lost a fresh area starts (R563). -/
def execAtticCopyMove (which : Nat) (s : State) : Host.Outcome State Fault Refusal :=
  let a := s.atc
  if !a.full then .next s
  else
    let (f, g) := atticPorts s
    let target := if which = 0 then (if a.copySecond = f then g else f) else (if a.copyFirst = g then none else g)
    let survivor := if which = 0 then a.copySecond else a.copyFirst
    let s := s.modAtc fun a =>
      if survivor.isNone then { a with segs := [], copyFirst := f, copySecond := g, moving := none, waiting := a.ring }
      else if which = 0 then
        { a with moving := none, copyFirst := target,
                 segs := a.segs.map fun g => g.map fun p => { p with okFirst := target.isSome && p.okSecond } }
      else
        { a with moving := none, copySecond := target,
                 segs := a.segs.map fun g => g.map fun p => { p with okSecond := target.isSome && p.okFirst } }
    let carried := if survivor.isNone then s.atc.waiting.length
      else ((s.atc.segs.flatMap id).filter fun p => p.okFirst && p.okSecond).foldl (fun n p => n + p.recs.length) 0
    .next (post s 0x0005 3 0xC 0xFF which (target.getD 0xFF) carried)

/-! ## In-service test (R567, R568) -/

/-- An item of Table 15-5 ran on an idle unit. Host work makes it yield and the item is abandoned, but for a soft decoder's, which
finishes its test job. A failure posts IST_FAIL and has the outcome of the table. -/
def execInServiceTestItem (item unit detail : Nat) (yielded passed : Bool) (s : State) : Host.Outcome State Fault Refusal :=
  if !s.on ATC_CTL.IST_EN || asleep s || item = 0 || 5 < item || (yielded && item ≠ 3) || passed then .next s
  else
    let s := post s 0x00C1 4 9 0xFF item unit detail
    match item with
    | 1 => .next (s.modAtc fun a => { a with badXts := unit :: a.badXts })
    | 2 => .next (s.modAtc fun a => { a with badHard := unit :: a.badHard })
    | 3 => .next (s.modAtc fun a => { a with badSoft := if a.badSoft.contains unit then a.badSoft else unit :: a.badSoft })
    | 4 => .next (replaceDumpSuite s unit)
    | _ => .next s

/-! ## Device self-test (R569 to R572) -/

/-- The next segment of the running test, or none after the last (Table 15-7). -/
def nextSegment (ext : Bool) (seg : Nat) : Option Nat :=
  if ext then (if seg < 7 then some (seg + 1) else none) else (if seg < 5 then some (seg + 1) else none)

/-- The next self-test segment runs: on failure the test ends there with result 7h, after its last segment with 0h (R571). -/
def execDstSegment (passed : Bool) (lba : Nat) (s : State) : Host.Outcome State Fault Refusal :=
  match s.atc.dst with
  | none => .next s
  | some d =>
    if asleep s then .next s
    else if !passed then .next (dstEnd s 7 d.seg 0x6 lba)
    else
      match nextSegment d.ext d.seg with
      | some k => .next (s.modAtc fun a => { a with dst := some { d with seg := k } })
      | none => .next (dstEnd s 0 0 0x1 0)

/-- The 10 min or 60 min limit is reached under load: result 8h, detail 0x2 (R570, R571). -/
def execDstLimitExpiry (s : State) : Host.Outcome State Fault Refusal :=
  match s.atc.dst with
  | none => .next s
  | some _ => .next (if asleep s then s else dstEnd s 8 0 0x2 0)

end Sys2Proof.Machine
end

