-- ==== Sys2Proof/Machine/StairOps.lean ====
section
/-!
DEFINITION. The Stair's shared operations (chapter 16): the requests of a manager and when they go out (R577, R581, R586), the worker's
states (R589, R590), fencing and loss (R591), and joining (R587, R588).
-/
namespace Sys2Proof.Machine

/-! ## Worker states (R590, R591) -/

/-- A worker takes a new state: the record of Table 15-4. -/
def setWorker (s : State) (w st fence : Nat) : State :=
  if (s.worker w).st = st && (s.worker w).fence = fence then s
  else
    let s := s.modWorker w fun x => { x with st := st, fence := fence, fencedAt := if st = 3 then s.pwr.opSec else x.fencedAt }
    post s 0x00B0 3 0xD 0xFF w st fence

def workerActive (s : State) (w : Nat) : Bool := (s.worker w).st == 2

/-- Whether requests are made to a worker: it is active, or is joining while a coordinated activation runs (R591). -/
def workerServes (s : State) (w : Nat) : Bool := workerActive s w || (s.sta.act.isSome && (s.worker w).st == 1)

/-- Whether a unit of a worker's share is marked lost at the manager (R591, R592). -/
def workerLostUnit (s : State) (ns u : Nat) : Bool := s.nvm.lost.any fun r => r.1 == ns && decide (r.2.1 ≤ u ∧ u < r.2.1 + r.2.2)

/-- A run of units is no longer marked lost. -/
def unlose (s : State) (ns a n : Nat) : State :=
  let cut (r : Nat × Nat × Nat) : List (Nat × Nat × Nat) :=
    if r.1 ≠ ns ∨ r.2.1 + r.2.2 ≤ a ∨ a + n ≤ r.2.1 then [r]
    else [(ns, r.2.1, a - r.2.1), (ns, a + n, r.2.1 + r.2.2 - (a + n))].filter fun x => x.2.2 != 0
  s.modNvm fun x => { x with lost := x.lost.flatMap cut }

/-- A run of units of a worker's share is marked lost. -/
def loseAt (s : State) (ns a n : Nat) : State := (unlose s ns a n).modNvm fun x => { x with lost := x.lost ++ [(ns, a, n)] }

/-- Whether every configured worker is active (R595). -/
def allActive (s : State) : Bool := (configuredWorkers s).all (workerActive s)

/-- A unit of a namespace whose share is a worker's is lost for the host: it is armed as a deferred error of the manager, with the worker
(R586, R591). It never enters the manager's map. -/
def armWorker (s : State) (w nsid first count cause : Nat) : State :=
  (jAppend s { typ := 0x08, nsid := nsid, count := count, first := first, loc := s.hall.next, aux := cause }).modHall fun h =>
    { h with deferWait := h.deferWait ++ [{ nsid := nsid, first := first, count := count, cause := cause, worker := w }] }

/-- The writes of a worker still on the unsettled list are armed with cause 0x5 (R591). -/
def armUnsettled (s : State) (w : Nat) : State :=
  let l := s.sta.unsettled.filter fun u => u.w == w
  let s := s.modSta fun x => { x with unsettled := x.unsettled.filter fun u => u.w != w }
  let s := s.each l fun s u => armWorker s w u.nsid u.first u.count 5
  let s := s.modHall fun h => { h with
    ctxs := Tbl.mapV h.ctxs fun _ c => { c with wunits := c.wunits.map fun u => if u.share = w then { u with unsettled := false } else u },
    tails := Tbl.mapV h.tails fun _ t => { t with units := t.units.map fun u => if u.share = w then { u with unsettled := false } else u } }
  settleCheck s

/-- A worker's request cannot be carried out: a read unit fails, a write's units end, a barrier is dropped. -/
def endReq (s : State) (r : StairReq) (sct sc : Nat) : State :=
  let n := r.req.ingest
  let s := s.modSta fun x => { x with reqs := x.reqs.erase r }
  match r.req.kind with
  | 1 | 8 => s.each r.units fun s u => setRunit s n u (.failed sct sc)
  | 2 | 3 | 4 | 5 =>
    match s.ctx n with
    | none => s
    | some c =>
      let hit (u : WUnit) : Bool := u.share == r.w && u.ext == r.ext && u.st == .waiting
      let s := s.each ((c.wunits.filter hit).flatMap fun u => Tbl.vals u.slots) freeSlot
      let s := s.modCtx n fun c => { c with wunits := c.wunits.map fun u => if hit u then { u with st := .abandoned, slots := [] } else u }
      finish s n sct sc
  | _ => s

/-- A worker is lost (R590, R591): what is in flight to it ends with Worker Fenced, its unsettled writes are armed at once. -/
def workerLost (s : State) (w : Nat) : State :=
  let s := setWorker s w 4 0
  let s := s.modWorker w fun x => { x with joined := [], links := [], hold := false }
  let s := s.each (s.sta.reqs.filter fun r => r.w == w) fun s r =>
    if 2 ≤ r.req.kind && r.req.kind ≤ 5 && r.req.kind = 2 then
      endReq (armWorker s w r.req.nsid ((r.units.head?).getD 0) r.units.length 5) r 7 0xC0
    else endReq s r 7 0xC3
  armUnsettled s w

/-! ## Sending requests (R577, R580, R581) -/

/-- A tag that no request in flight on a port uses. -/
def freeTag (s : State) (n : Nat) : Option Nat :=
  (List.range 128).find? fun t => !s.sta.reqs.any fun r => r.sent.contains (n, t)

/-- The data of a write's units, from its slots; after a power loss the write is what the dump kept of it (R597). -/
def reqData (s : State) (r : StairReq) : List (Blk × Meta) :=
  let units : List WUnit := match s.ctx r.req.ingest with
    | some c => c.wunits
    | none => ((Tbl.find s.hall.tails r.req.ingest).map fun t => t.units).getD []
  r.units.map fun u =>
    match (units.findSome? fun (x : WUnit) => if x.share == r.w then Tbl.find x.slots u else none).bind fun k => Tbl.find s.ldr.slots k with
    | some x => (x.data, x.md)
    | none => (0, 0)

/-- A request goes out on one port: SREQ, then the SDATA of a write under the same tag. -/
def sendReqOn (s : State) (r : StairReq) (n : Nat) (again : Bool) : State :=
  match freeTag s n with
  | none => s
  | some t =>
    let q := { r.req with resend := again, epoch := s.pwr.powerCycle }
    let s := stairTx s n 0x12 t 0 (r.req.kind != 2) (.req q)
    let d := if r.req.kind = 2 then reqData s r else []
    let s := s.each ((List.range d.length).zip d) fun s p => stairTx s n 0x13 t p.1 (decide (p.1 + 1 = d.length)) (.data p.2.1 p.2.2)
    s.modSta fun x => { x with reqs := x.reqs.map fun y => if y = r then { y with sent := y.sent ++ [(n, t)], lost := false, req := q } else y }

def isBarrier (r : StairReq) : Bool := r.req.kind == 6 || r.req.kind == 7

/-- The ports a request goes out on: every link for a barrier, else entry (local extent mod k) of the worker's links. -/
def reqPorts (s : State) (r : StairReq) : List Nat :=
  let l := (s.worker r.w).links
  if isBarrier r then l else ((l[r.lext % max 1 l.length]?).map fun n => [n]).getD []

/-- Whether requests are in flight to a worker on links still in service. -/
def inFlight (s : State) (w : Nat) : Bool :=
  s.sta.reqs.any fun r => r.w == w && r.sent.any fun x => (linksOf s w).contains x.1

/-- The requests of a worker that may go out do so. When the links have changed, new ones are held until those in flight on the links still
in service have completed; then the requests of retired links are resent, with RESEND, before any held one (R577, R586). -/
def stairPump (s : State) (w : Nat) : State :=
  if !(workerActive s w) && (s.worker w).st ≠ 3 then s
  else
    let now := linksOf s w
    let changed := (s.worker w).links != now
    if changed && inFlight s w then s.modWorker w fun x => { x with hold := true }
    else
      let s := if changed then s.modWorker w fun x => { x with links := now, hold := false } else s
      let old := s.sta.reqs.filter fun r => r.w == w && r.lost && r.sent.isEmpty
      let s := s.each old fun s r =>
        match s.sta.reqs.find? fun x => x.w == r.w && x.req.ingest == r.req.ingest && x.req.sub == r.req.sub with
        | some r => s.each (reqPorts s r) fun s n => match s.sta.reqs.find? fun x => x.w == r.w && x.req.ingest == r.req.ingest && x.req.sub == r.req.sub with
          | some r => sendReqOn s r n true
          | none => s
        | none => s
      let new := s.sta.reqs.filter fun r => r.w == w && !r.lost && r.sent.isEmpty
      s.each new fun s r =>
        s.each (reqPorts s r) fun s n => match s.sta.reqs.find? fun x => x.w == r.w && x.req.ingest == r.req.ingest && x.req.sub == r.req.sub with
          | some r => sendReqOn s r n false
          | none => s

/-- The manager makes a request to a worker. -/
def stairAsk (s : State) (r : StairReq) : State :=
  stairPump (s.modSta fun x => { x with reqs := x.reqs ++ [r] }) r.w

/-- A number for the next sub-request of a command. -/
def nextSub (s : State) (n : Nat) : Nat :=
  (s.sta.reqs.filter fun r => r.req.ingest == n).foldl (fun k r => max k (r.req.sub + 1)) 0

/-- Pieces of at most 64 units (R581). -/
def pieces (l : List Nat) : Nat → List (List Nat)
  | 0 => []
  | k + 1 => if l.isEmpty then [] else l.take 64 :: pieces (l.drop 64) k

/-- The requests for some units of one extent of a worker: the first logical block of a piece is the first block in the worker's own
extents. -/
def askUnits (s : State) (n w ns ext : Nat) (units : List Nat) (base : SReq) (part : Tbl (Nat × Nat)) : State :=
  let k := perUnit s ns
  let lext := (shareOf s ext).2
  s.each (pieces units 4) fun s l =>
    let u := (l.head?).getD 0
    let z := (l.getLast?).getD 0
    let (a, _) := (Tbl.find part u).getD (0, k)
    let (b, c) := (Tbl.find part z).getD (0, k)
    let slba := (lext * 256 + u % 256) * k + a
    let stop := (lext * 256 + z % 256) * k + b + c
    stairAsk s { w := w, lext := lext, ext := ext, units := l,
                 req := { base with units := if base.kind = 1 || base.kind = 2 then l.length else 0, nsid := ns, ingest := n,
                                    slba := slba, nlb := stop - slba, sub := nextSub s n } }

/-- A barrier to every active worker. (DEDUCED: log entry 114.) -/
def askBarrier (s : State) (n : Nat) (base : SReq) (size : Nat → Nat) : State :=
  s.each ((configuredWorkers s).filter (workerActive s)) fun s w =>
    stairAsk s { w := w, req := { base with ingest := n, sub := nextSub s n, size := size w } }

/-! ## Joining (R587 to R589) -/

/-- The namespace records of a share, in NSID order. -/
def nsRecords (s : State) (w : Nat) : List Nat :=
  s.nvm.spaces.flatMap fun e => [e.1, e.2.fmt, shareExtents s w e.2.extents]

def keyRecords (s : State) : List Nat := s.nvm.spaces.flatMap fun e => [e.1, e.2.gen]

/-- The first 16 bytes of a digest. -/
def digest16 (l : List Nat) : Nat := (Config.sha384 l).toNat % 2 ^ 128

/-- The first 8 bytes of SHA-384 of this device's DevID public key (Table 16-5). -/
def managerId (s : State) : Nat := (Config.sha384 [s.stg.fuses.root.toNat]).toNat % 2 ^ 64

def diesInService (s : State) : Nat := (List.range 64).foldl (fun a n => a + (List.range 16).countP fun d => populated s n && diePresent s n d) 0

/-- The image that the device runs. -/
def runningImage (s : State) : Image :=
  match Tbl.find s.clo.slots s.clo.running with
  | some x => Config.imageOf (Tbl.vals x.leaves)
  | none => default

/-- The values both join records share. -/
def joinBase (s : State) (n : Nat) : JoinRec :=
  { image := (runningImage s).version, geom := (runningImage s).geomClass, cell := frontCell s 1, crypto := 1, formats := 0x3F,
    holdup := s.pwr.straps.holdup, dies := diesInService s, link := s.rd (STA_LINK.LINK_INDEX n) }

/-- SJOIN: the manager's record for a worker's link. -/
def managerJoin (s : State) (n : Nat) : JoinRec :=
  let w := s.rd (STA_LINK.WORKER n)
  { joinBase s n with ver := 0x20, worker := w, links := (linksOf s w).length, manager := managerId s, epoch := s.pwr.powerCycle, share := w,
                      weight := weightOf s w, seqLen := seqLen s, nsDigest := digest16 (nsRecords s w), keyDigest := digest16 (keyRecords s) }

/-- SJOIN_RSP: the worker's record. (DEDUCED: log entry 116.) -/
def workerJoin (s : State) (n ver link : Nat) : JoinRec :=
  { joinBase s n with ver := ver, worker := s.sta.selfId, link := link, links := (stairPorts s).countP (stairUp s), manager := s.sta.mgrId,
                      epoch := s.sta.epoch, share := s.sta.share, weight := s.sta.weight, seqLen := s.sta.seqLen,
                      nsDigest := digest16 (s.nvm.spaces.flatMap fun e => [e.1, e.2.fmt, e.2.extents]),
                      keyDigest := digest16 (s.nvm.spaces.flatMap fun e => [e.1, Tbl.getD s.stg.gens e.1 1]) }

/-- The lowest FENCE_REASON that Table 16-7 finds, 0 none. A worker holds a namespace when its digest is not that of none. -/
def fenceReason (s : State) (w : Nat) (r : JoinRec) : Nat :=
  let m := managerJoin s (((stairPorts s).find? fun n => s.rd (STA_LINK.WORKER n) == w).getD 0)
  let hasNs := r.nsDigest != digest16 []
  if r.cell ≠ m.cell then 1
  else if r.crypto ≠ m.crypto then 2
  else if r.formats ≠ m.formats then 3
  else if r.geom ≠ m.geom then 4
  else if hasNs && (r.manager != m.manager || r.share != m.share || r.weight != m.weight || r.seqLen != m.seqLen || r.nsDigest != m.nsDigest) then 5
  else if !hasNs && r.nsDigest != m.nsDigest then 5
  else if r.keyDigest ≠ m.keyDigest then 6
  else 0

/-- The manager sends SJOIN on a link (R587). -/
def sendJoin (s : State) (n : Nat) : State :=
  if isManager s && s.on STA_CTL.JOIN_EN && s.rd (STA_LINK.WORKER n) ≠ 0 then stairTx s n 0x10 0 0 true (.join (managerJoin s n)) else s

/-- A Stair link reaches ACTIVE: the manager sends SJOIN on it (R590). -/
def staLinkUp (s : State) (n : Nat) : State := if portMode s n = 2 then sendJoin s n else s

/-- A Stair link is retired (R586, R590, R594): the requests in flight on it wait to be resent; with Stair 1.0 a write is not resent but armed
with cause 0x5. When every link of a worker is retired the worker is lost; when every link to the manager is, the manager is. -/
def staLinkLost (s : State) (n : Nat) : State :=
  if portMode s n ≠ 2 then s
  else if isWorker s then
    let s := s.modSta fun x => { x with joined := x.joined.erase n }
    if (stairPorts s).all fun m => portRetired s m then s.modSta fun x => { x with mgrLost := true } else s
  else
    let w := s.rd (STA_LINK.WORKER n)
    let s := s.modWorker w fun x => { x with joined := x.joined.erase n }
    let mine := (stairPorts s).filter fun m => s.rd (STA_LINK.WORKER m) == w
    if (s.worker w).st ≠ 0 && mine.all (fun m => portRetired s m) then workerLost s w
    else
      let hit (r : StairReq) : Bool := r.w == w && r.sent.any fun x => x.1 == n
      let gone := s.sta.reqs.filter fun r => hit r && (s.worker w).ver == 0x10 && decide (2 ≤ r.req.kind ∧ r.req.kind ≤ 5)
      let s := s.each gone fun s r => endReq (armWorker s w r.req.nsid ((r.units.head?).getD 0) (max 1 r.units.length) 5) r 7 0xC0
      let cut (r : StairReq) : StairReq :=
        let left := r.sent.filter fun y => y.1 != n
        if hit r then { r with sent := left, lost := left.isEmpty, lostAt := s.pwr.opSec } else r
      let s := s.modSta fun x => { x with reqs := x.reqs.map cut }
      stairPump s w

end Sys2Proof.Machine
end

