-- ==== Sys2Proof/Machine/Cellar.lean ====
section
/-!
DEFINITION. The Cellar (chapter 7): the Otcon link layer of a port (receive, acknowledge, replay, transmit, training,
recalibration, retraining, retirement), the die scheduler and the media arbiter's preemption.
-/
namespace Sys2Proof.Machine

/-! ## Port state -/

/-- Whether a frame type is sequenced data, valid from the peer in the port's mode (Table 7-4, R282). -/
def rxTypeOk (s : State) (n typ : Nat) : Bool :=
  if portMode s n = 2 then typ = 5 || typ = 6 || decide (0x10 ≤ typ ∧ typ ≤ 0x1F)
  else typ = 3 || typ = 4 || typ = 5 || typ = 6 || typ = 7

/-- The port's link takes state `st` of Table 7-12, and the port sequencer is told with LINK (Table 8-9). A port in Stair mode
has no program (R323). -/
def setPortState (s : State) (n st : Nat) : State :=
  let s := s.wr (CEL_PORT_STATUS.STATE n) st
  if portMode s n = 2 then s else raise s n (evWord 0x0A st)

def portState (s : State) (n : Nat) : Nat := s.rd (CEL_PORT_STATUS.STATE n)

/-- A LINK frame waits to be sent (R260). -/
def queueLink (s : State) (n sub arg : Nat) (data : List Nat) : State :=
  s.modPort n fun p => { p with linkQ := p.linkQ ++ [{ typ := 6, src := .link sub arg data }] }

/-- The hottest die reading of the port last reported, in 0.5 °C. -/
def hottestDie (p : OtPort) : Int := (Tbl.vals p.lastTemp).foldl max (-1000)

/-- A recalibration, retrain or training has just happened: the triggers of R272 count from here. -/
def recalMark (s : State) (n : Nat) : State :=
  s.modPort n fun p => { p with recalDue := false, lastRecalSec := s.pwr.opSec, lastRecalTemp := hottestDie p }

/-- The port reaches ACTIVE for the first time by initial training: sequence state is set (R266), the attempts end (R273),
and the dies that HELLO counts are present (R276). -/
def enterActiveFresh (s : State) (n : Nat) : State :=
  let s := s.modPort n fun p => { p with
    expected := 0, rxAny := false, nakFor := none, ackTimer := false, ackDue := false, nakDue := false, txSeq := 0,
    unacked := [], acked := 0xFFF, replayRound := 0, replay := [], attempts := 0, everActive := true }
  let s := s.wr (CEL_DIE_MAP.PRESENT n) (2 ^ min 16 (s.rd (CEL_BRIDGE_ID.DIE_COUNT n)) - 1)
  staLinkUp (recalMark (setPortState s n 5) n) n

/-- The port returns to ACTIVE and resends from the peer's last ACK_SEQ (R266). -/
def enterActiveAgain (s : State) (n : Nat) : State :=
  let s := setPortState s n 5
  (recalMark s n).modPort n fun p => { p with replay := p.unacked }

/-- Whether CEL_REFCLK_CTL enables the output of the port's group (R253). -/
def refclkOn (s : State) (n : Nat) : Bool := bitAt (s.rd CEL_REFCLK_CTL.EN) (n / 8)

/-! ## Retirement (R273, R274) -/

/-- A port is retired for `cause`: recorded in the retirement table before any outcome is reported; every operation queued,
in flight or awaiting STATUS ends with "port retired"; unacknowledged frames are abandoned. -/
def retirePort (s : State) (n cause : Nat) : State :=
  if portRetired s n then s
  else
    let p := s.port n
    let s := s.modCel fun c => { c with retiredTable := n :: c.retiredTable }
    let s := (s.wr (CEL_PORT_STATUS.RETIRE_CAUSE n) cause).modPort n fun p => { p with
      retired := true, unacked := [], replay := [], linkQ := [], cmdHost := [], wdHost := [], cmdBg := [], wdBg := [],
      tempQ := [], dieQ := [], running := [], suspended := [], lingering := [], ctl := [], offers := [] }
    let s := setPortState s n 9
    let s := post s 0x0060 4 4 n cause
    let s := landLadderRetire s n
    let s := endRing s n (fun _ => true) 1 .retired
    let s := s.each (p.dieQ.foldl (fun l e => l ++ e.2) [] ++ p.offers) fun s op => opOutcome s n op .retired
    staLinkLost (scuPortRetired s n cause) n

/-- A retrain with `cause`. A third counted one within 600 s is not started: the port is retired (R273). A recalibration due
counts as done (R275). -/
def startRetrain (s : State) (n cause : Nat) (counted : Bool) : State :=
  let recent := (s.port n).retrains.filter fun t => decide (s.pwr.opSec < t + 600)
  if counted && decide (2 ≤ recent.length) then retirePort s n 1
  else
    let s := (s.wr (CEL_PORT_STATUS.RETRAIN_CAUSE n) cause).bump (CEL_LINK_CNT.RETRAIN_CNT n)
    let s := s.modPort n fun p => { p with
      retrains := if counted then s.pwr.opSec :: recent else recent, recalDue := false, replayRound := 0, replay := [] }
    setPortState s n 7

/-- A training attempt fails at a transition to OFF; the next follows at once from DETECT, at most three (R273). -/
def failAttempt (s : State) (n : Nat) : State :=
  let s := setPortState s n 0
  let k := (s.port n).attempts + 1
  if 3 ≤ k then retirePort s n 3
  else
    let s := s.modPort n fun p => { p with
      attempts := k, helloRx := 0, helloTx := 0, switchTx := false, switchRx := false, eqRx := false, eqTx := false }
    setPortState (s.wr (CEL_PORT_STATUS.VER n) 0) n 1

/-! ## Acknowledgement and replay (R264, R265) -/

/-- Distance from `b` forward to `a`, modulo 4096. -/
def seqDist (a b : Nat) : Nat := (a + 4096 - b % 4096) % 4096

/-- REPLAY_ROUND: every unacknowledged frame from ACK_SEQ + 1 is resent with RETX; a ninth round retrains instead (R265). -/
def replayRound (s : State) (n : Nat) : State :=
  let p := s.port n
  if 8 ≤ p.replayRound then startRetrain s n 1 true
  else s.modPort n fun p => { p with replayRound := p.replayRound + 1, replay := p.unacked.map fun f => { f with retx := true } }

/-- The acknowledgement fields of a frame taken reach the transmitter (R265), and the credits are worked out (R267). -/
def takeAck (s : State) (n : Nat) (h : FrameHdr) : State :=
  let p := s.port n
  let adv := seqDist h.ackSeq p.acked
  let behind := decide (2048 ≤ adv)
  let s :=
    if !h.ackValid then s
    else if behind then s
    else
      let s :=
        if adv = 0 then s
        else s.modPort n fun p =>
          { p with acked := h.ackSeq, replayRound := 0,
                   unacked := p.unacked.filter fun f => decide (seqDist f.seq h.ackSeq ≠ 0 ∧ seqDist f.seq h.ackSeq < 2048),
                   replay := p.replay.filter fun f => decide (seqDist f.seq h.ackSeq ≠ 0 ∧ seqDist f.seq h.ackSeq < 2048) }
      if h.nak && (s.port n).replay.isEmpty && !(s.port n).unacked.isEmpty then replayRound s n else s
  let p := s.port n
  let after := p.unacked.filter fun f => decide (seqDist f.seq h.ackSeq ≠ 0 ∧ seqDist f.seq h.ackSeq < 2048)
  let isData (f : TxFrame) : Bool := f.typ = 2
  if h.ackValid || p.unacked.isEmpty then
    s.modPort n fun p => { p with
      creditData := h.dataFree - (after.filter isData).length,
      creditCmd := h.cmdFree - (after.filter fun f => !isData f).length }
  else s

/-- A NAK for EXPECTED is owed, once per EXPECTED within the replay time (R264). -/
def oweNak (s : State) (n : Nat) : State :=
  let p := s.port n
  if p.nakFor = some p.expected then s
  else s.modPort n fun p => { p with nakFor := some p.expected, nakDue := true, ackDue := true }

/-- A frame arrives at the receiver of a port (R262 to R264): a frame without a good header is lost and counted in HDR_FAIL, one
whose body fails is discarded, counted in BODY_FAIL and NAKed; the acknowledgement fields of a frame taken are passed on; then
the sequence test. Answers whether the frame is accepted. -/
def takeFrame (s : State) (n : Nat) (h : FrameHdr) : State × Bool :=
  let st := portState s n
  if portRetired s n || st = 0 || st = 1 || st = 8 then (s, false)
  else
    let training := st = 2 || st = 3 || st = 4 || st = 7
    let headerOk := h.arrival ≠ .syncMiss && rxTypeOk s n h.typ && decide (h.len ≤ 4608 ∧ h.len % 4 = 0) &&
      (training || h.ver = s.rd (CEL_PORT_STATUS.VER n))
    if !headerOk then (s.bump (CEL_LINK_CNT.HDR_FAIL n), false)
    else
      let s := s.bump (CEL_LINK_ERR.FEC_CORR n) h.fecCorr
      if h.arrival = .bodyFail then (oweNak (s.bump (CEL_LINK_CNT.BODY_FAIL n)) n, false)
      else if training then (s, h.typ = 6)
      else if st = 6 && !(h.typ = 5 || h.typ = 6) then (s, false)
      else
        let s := takeAck s n h
        if h.typ = 5 then (s, true)
        else
          let d := seqDist h.seq (s.port n).expected
          if d = 0 then
            (s.modPort n fun p => { p with
              expected := (p.expected + 1) % 4096, rxAny := true, nakFor := none, ackTimer := true }, true)
          else if d ≤ 2047 then (oweNak s n, false)
          else (s.modPort n fun p => { p with ackDue := true }, false)

/-- A reserved code or a discard of R281: counted as a protocol error. -/
def protoErr (s : State) (n : Nat) : State := s.bump (CEL_LINK_ERR.PROTO_ERR n)

/-- Runs `f` when the frame is accepted. -/
def onFrame (s : State) (n : Nat) (h : FrameHdr) (f : State → State) : State :=
  let (s, ok) := takeFrame s n h
  if ok then f s else s

/-! ## The die scheduler (R277, R312) -/

/-- Host-class operations: host work, rebuild and dump (Table 7-11). -/
def DieOp.isHost (o : DieOp) : Bool := o.cls != 2

/-- Whether no operation ahead of position `i` of a die queue names the same block. -/
def noBlockAhead (q : List DieOp) (i : Nat) (o : DieOp) : Bool := (q.take i).all fun x => x.block != o.block

/-- The position of the first entry from `i` on that satisfies `p`. -/
def findPos {α : Type} (p : Nat → α → Bool) (i : Nat) : List α → Option Nat
  | [] => none
  | a :: r => if p i a then some i else findPos p (i + 1) r

/-- Whether the native guard keeps an operation from starting (R233, R386): a program on a die or group under inhibit, and any program but
the dump's once PWRFAIL# has acted; the dump's own where HOLDUP is clear, and below the hold-up floor but for wave A; an erase in a group
with droop, or after PWRFAIL#. -/
def guardStops (s : State) (n : Nat) (o : DieOp) : Bool :=
  let droop := s.ldr.droop.contains (n / 8)
  let floor := match o.issuer with
    | .dump w => s.pwr.pwrfail && (!s.pwr.straps.holdup || (!s.pwr.holdupOk && w != 1))
    | _ => s.pwr.frozen
  if o.kind = 2 then droop || Tbl.has s.ldr.hot (16 * n + o.die) || floor
  else if o.kind = 3 then droop || s.pwr.frozen
  else false

/-- Whether an operation may start now. -/
def mayStart (s : State) (n : Nat) (o : DieOp) : Bool := !paced s n o && !guardStops s n o

/-- The position of the operation a die runs next (R277): a host read that passes only operations on other blocks; else the
first host operation; a background operation that stands in its way on the same block goes first; else the first background
operation that the arbiter grants. (DEDUCED: log entry 110.) -/
def pickOp (s : State) (n : Nat) (q : List DieOp) : Option Nat :=
  let reads := findPos (fun i o => o.isHost && o.kind = 1 && noBlockAhead q i o && mayStart s n o) 0 q
  let hosts := findPos (fun i o => o.isHost && noBlockAhead q i o && mayStart s n o) 0 q
  let blocker := findPos (fun i o => !o.isHost && !guardStops s n o && noBlockAhead q i o && (q.drop (i + 1)).any fun x => x.isHost && x.block == o.block) 0 q
  let bg := findPos (fun i o => !o.isHost && !guardStops s n o && noBlockAhead q i o && bgGrant s n o) 0 q
  match reads, hosts, blocker with
  | some i, _, _ => some i
  | none, some i, _ => some i
  | none, none, some i => some i
  | none, none, none => if q.any fun o => o.isHost && mayStart s n o then none else bg

/-- Dies of a port that run array operations, and the cap on them: ceil(A × max(1, 16 − p)), never fewer than one; the dump is
exempt (R538, R539). -/
def dieCap (s : State) (n : Nat) : Nat :=
  max 1 (ceilDiv (s.chm.a16 * max 1 (16 - Tbl.getD s.chm.portStep n 0)) 16)

/-- The bytes of a descriptor (Table 8-10). -/
def descWord (op : DieOp) (state tag recipe grant : Nat) : Nat :=
  state + op.kind * 2 ^ 8 + op.die * 2 ^ 16 + op.planes * 2 ^ 24 + op.cwCount * 2 ^ 32 + op.cwPerPlane * 2 ^ 40 +
  op.cwFirst * 2 ^ 48 + op.cell * 2 ^ 56 + op.block * 2 ^ 64 + op.page * 2 ^ 96 + tag * 2 ^ 112 + op.cls * 2 ^ 120 +
  recipe * 2 ^ 128 + op.pass * 2 ^ 136 + op.step * 2 ^ 144 + b2n op.reissue * 2 ^ 152 + op.arg * 2 ^ 160 + grant * 2 ^ 192

/-- The first recipe table entry whose OP is the kind and whose CELL is the descriptor's or 0xFF. -/
def findRecipe (q : Seq) (kind cell : Nat) : Option Nat :=
  (List.range 16).find? fun k =>
    Tbl.readBytes q.ram 0 (0x2C00 + 64 * k) 1 = kind &&
    (Tbl.readBytes q.ram 0 (0x2C01 + 64 * k) 1 = cell || Tbl.readBytes q.ram 0 (0x2C01 + 64 * k) 1 = 0xFF)

/-- The scheduler hands a descriptor to the port sequencer: it is written into a free ring entry and OP_READY is raised; with no
recipe it is raised as ENDED with detail 0x3 and the issuing engine sees FAIL. -/
def handOver (s : State) (n : Nat) (op : DieOp) (i : Nat) : State :=
  match findRecipe (s.seq n) op.kind op.cell with
  | none => opOutcome (raise s n (evWord 0x08 3 i)) n op .fail
  | some r =>
    let s := s.modSeq n fun q => { q with
      ram := Tbl.writeBytes q.ram 0 (0x3800 + 32 * i) 32 (descWord op 1 i r s.pwr.time.toNat),
      descs := Tbl.put q.descs i { op := op } }
    let s := s.modPort n fun p => { p with running := Tbl.put p.running op.die i }
    raise (landHandover s n i op) n (evWord 0x01 r i)

/-- A suspend, resume or reset CMD of the arbiter, built from the cycles that the recipe declares (R312, Table 8-15). -/
def arbiterFrame (s : State) (n i kind off : Nat) (op : DieOp) : TxFrame :=
  let q := s.seq n
  let r := descByte s n i 0x10 1
  let els := (List.range 12).map fun j =>
    (Tbl.readBytes q.ram 0 (0x2C00 + 64 * r + off + 2 * j) 1, Tbl.readBytes q.ram 0 (0x2C01 + 64 * r + off + 2 * j) 1)
  { typ := 1, die := op.die, tag := i, host := true, desc := none,
    src := .cmd kind 0 0 op.block 0 (Tbl.readBytes q.ram 0 (0x2C08 + 64 * r) 4) (els.filter fun e => e.1 ≠ 0) }

/-- ARBITER_PREEMPT: a host operation reaches a die busy with background work. The arbiter suspends a program or erase whose recipe
carries SUSPENDABLE, and resets the die for a read that carries RESET_ABORT, once its array work has started; CMD frames
queued but not sent are withdrawn (R37, R312). -/
def arbiterPreempt (s : State) (n die : Nat) : State :=
  let p := s.port n
  match Tbl.find p.running die with
  | none => s
  | some i =>
    match Tbl.find (s.seq n).descs i with
    | none => s
    | some hw =>
      let flags := Tbl.readBytes (s.seq n).ram 0 (0x2C02 + 64 * descByte s n i 0x10 1) 2
      let already := (p.cmdHost ++ p.unacked).any fun f => f.tag == i && f.desc.isNone && f.typ == 1
      if hw.op.isHost || hw.op.bgClass = 8 || descByte s n i 0 1 ≠ 2 || hw.open_.isEmpty || already then s
      else if hw.op.kind = 1 then
        if bitAt flags 2 then withdraw (s.modPort n fun p => { p with cmdHost := p.cmdHost ++ [arbiterFrame s n i 6 0x10 hw.op] }) n i
        else s
      else if bitAt flags 1 then withdraw (s.modPort n fun p => { p with cmdHost := p.cmdHost ++ [arbiterFrame s n i 4 0x10 hw.op] }) n i
      else s

/-! ## Transmission (R269) -/

/-- Takes the first frame that HOLD lets go: frames of descriptors wait, control operations pass (R287). -/
def takeTx (hold : Bool) (l : List TxFrame) : Option (TxFrame × List TxFrame) :=
  takeFirst (fun f => !(hold && f.desc.isSome)) l

/-- A frame goes out with the acknowledgement fields: it is emitted, kept until acknowledged when it is sequenced, and the ACK
that was owed is paid. -/
def sendFrame (s : State) (n : Nat) (f : TxFrame) (fresh : Bool) : State :=
  let p := s.port n
  let sequenced := f.typ ≠ 5 && (portState s n = 5 || portState s n = 6)
  let f := if fresh && sequenced then { f with seq := p.txSeq } else f
  let isData := f.typ = 2 || f.typ = 0x13
  let s := s.emit (.otconFrame n f p.rxAny p.nakDue ((p.expected + 4095) % 4096))
  let s := s.modPort n fun p => { p with
    ackDue := false, nakDue := false, ackTimer := false,
    slots := (isData :: p.slots).take 19,
    txSeq := if fresh && sequenced then (p.txSeq + 1) % 4096 else p.txSeq,
    unacked := if fresh && sequenced then p.unacked ++ [f] else p.unacked,
    creditData := if fresh && isData then p.creditData - 1 else p.creditData,
    creditCmd := if fresh && sequenced && !isData then p.creditCmd - 1 else p.creditCmd }
  match f.desc, fresh && f.typ = 1 with
  | some i, true => s.modSeq n fun q => { q with descs := Tbl.upd q.descs i fun h => { h with queued := h.queued - 1 } }
  | _, _ => s

/-- Whether another data frame may go: at most 19 of 20 consecutive frame slots (R261). -/
def dataSlotFree (p : OtPort) : Bool := decide (p.slots.countP id < 19)

/-- The next frame of a port in ACTIVE or RECAL by the order of Table 7-11. -/
def transmitNext (s : State) (n : Nat) : State :=
  let p := s.port n
  let hold := s.on (CEL_PORT_CTL.HOLD n)
  let recal := portState s n = 6
  let room := decide (p.unacked.length < 64)
  match p.replay with
  | f :: r =>
    if recal && f.typ ≠ 6 then (if p.ackDue then sendFrame s n { typ := 5, src := .ack } true else s)
    else (sendFrame (s.modPort n fun p => { p with replay := r }) n { f with retx := true } false).bump (CEL_LINK_CNT.RETX_CNT n)
  | [] =>
    if p.ackDue && p.linkQ.isEmpty then sendFrame s n { typ := 5, src := .ack } true
    else
      match p.linkQ, room && decide (0 < p.creditCmd) with
      | f :: r, true => sendFrame (s.modPort n fun p => { p with linkQ := r }) n f true
      | _, _ =>
        if p.ackDue then sendFrame s n { typ := 5, src := .ack } true
        else if recal || !room then s
        else
          let cmdOk := decide (0 < p.creditCmd)
          let dataOk := decide (0 < p.creditData) && dataSlotFree p
          match (if cmdOk then takeTx hold p.cmdHost else none) with
          | some (f, r) => sendFrame (s.modPort n fun p => { p with cmdHost := r }) n f true
          | none =>
            match (if dataOk then takeTx hold p.wdHost else none) with
            | some (f, r) => sendFrame (s.modPort n fun p => { p with wdHost := r }) n f true
            | none =>
              match (if cmdOk then takeTx hold p.cmdBg else none) with
              | some (f, r) => sendFrame (s.modPort n fun p => { p with cmdBg := r }) n f true
              | none =>
                match (if dataOk then takeTx hold p.wdBg else none) with
                | some (f, r) => sendFrame (s.modPort n fun p => { p with wdBg := r }) n f true
                | none =>
                  match p.tempQ, cmdOk with
                  | f :: r, true => sendFrame (s.modPort n fun p => { p with tempQ := r }) n f true
                  | _, _ => s.modPort n fun p => { p with slots := (false :: p.slots).take 19 }

/-! ## The meanings -/

/-- The operations that engines have offered enter the die queue, oldest first, while the die has one of its 8 positions; a host
operation that reaches a die busy with background work makes the arbiter preempt (R277, R312). An absent or excluded die takes
no operation: it fails at once (R276). -/
def execDieSchedulerEnqueue (n : Nat) (s : State) : Host.Outcome State Fault Refusal :=
  let p := s.port n
  match takeFirst (fun o : DieOp => decide ((Tbl.getD p.dieQ o.die []).length < 8)) p.offers with
  | none => .next s
  | some (op, rest) =>
    let s := s.modPort n fun p => { p with offers := rest }
    if !diePresent s n op.die then .next (opOutcome s n op .fail)
    else
      let s := s.modPort n fun p => { p with dieQ := Tbl.put p.dieQ op.die (Tbl.getD p.dieQ op.die [] ++ [op]) }
      .next (if op.isHost then arbiterPreempt s n op.die else s)

/-- The scheduler hands over the operation a free die runs next, when the port is ACTIVE, HOLD is clear, a ring entry is free and
the cap on busy dies allows it; a suspended operation is resumed once the die has no host operation queued (R37, R277). -/
def execDescriptorHandover (n die : Nat) (s : State) : Host.Outcome State Fault Refusal :=
  let p := s.port n
  let q := Tbl.getD p.dieQ die []
  let free := (List.range 32).find? fun i => descByte s n i 0 1 = 0 && !Tbl.has p.lingering i
  if s.on (CEL_PORT_CTL.HOLD n) || portState s n ≠ 5 || (Tbl.find p.running die).isSome ||
     p.lingering.any (fun e => e.2.1 == die) then .next s
  else
    match pickOp s n q, Tbl.find p.suspended die, free with
    | some i, susp, some slot =>
      match q[i]? with
      | none => .next s
      | some op =>
        if (susp.isSome && !op.isHost) || (dieCap s n ≤ p.running.length && !isDumpOp op) then .next s
        else
          let s := s.modPort n fun p => { p with dieQ := putOrDel p.dieQ die (q.eraseIdx i) }
          .next (handOver s n op slot)
    | none, some i, _ =>
      match Tbl.find (s.seq n).descs i with
      | none => .next s
      | some hw =>
        .next (s.modPort n fun p => { p with
          cmdHost := p.cmdHost ++ [arbiterFrame s n i 5 0x28 hw.op],
          suspended := Tbl.del p.suspended die, running := Tbl.put p.running die i })
    | _, _, _ => .next s

/-- The bytes of a PARAM operation go to the port's mailbox in Study RAM and PARAM is raised (R314). -/
def paramBytes (s : State) (n : Nat) (bytes : List Nat) : State :=
  let l := bytes.take 256
  let s := s.modSeq 64 fun q => { q with
    ram := Tbl.writeBytes q.ram 0 (0x7C000 + n * 0x100) l.length (l.foldr (fun b r => b % 256 + 256 * r) 0) }
  raise s n (evWord 0x0B (l.length / 4))

/-- An accepted RDATA frame: TAG must name a read in flight (or a program whose recipe verifies) and CW_INDEX lie within its
CW_COUNT, else it is a protocol error; the codeword goes to the hard decoder (R280, R281). -/
def execRdataFrame (n : Nat) (h : FrameHdr) (param : List Nat) (s : State) : Host.Outcome State Fault Refusal :=
  .next (onFrame s n { h with typ := 3 } fun s =>
    match Tbl.find (s.seq n).descs h.tag, (s.port n).ctl.find? fun c => c.tag == h.tag && c.param with
    | none, none => protoErr s n
    | none, some _ => paramBytes s n param
    | some hw, _ =>
      if hw.ended || (hw.op.kind ≠ 1 && !recipeVerify s n h.tag) || hw.op.cwCount ≤ h.cwIndex || descByte s n h.tag 0 1 = 0 then protoErr s n
      else landHardIn s n h.tag h.cwIndex)

/-- A closing STATUS takes the oldest open CMD of the descriptor. -/
def closeOldest (s : State) (n i : Nat) : State :=
  s.modSeq n fun q => { q with descs := Tbl.upd q.descs i fun h => { h with open_ := h.open_.drop 1 } }

/-- A descriptor goes back to its die's queue to be handed over again with REISSUE set (R312, R313). -/
def requeueDesc (s : State) (n i : Nat) : State :=
  match Tbl.find (s.seq n).descs i with
  | none => s
  | some hw =>
    let s := freeDesc (withdraw s n i) n i
    s.modPort n fun p => { p with
      running := Tbl.keep p.running fun _ j => j != i, suspended := Tbl.keep p.suspended fun _ j => j != i,
      dieQ := Tbl.put p.dieQ hw.op.die ({ hw.op with reissue := true } :: Tbl.getD p.dieQ hw.op.die []) }

/-- RESET_DONE of an MCTL die reset: every issued descriptor of the die is handed over again, except a program whose final ACCEPTED
has been reported, which is raised as ENDED with detail 0x5 and fails (R313). -/
def dieReset (s : State) (n die : Nat) : State :=
  let l := (s.seq n).descs.filter fun e => e.2.op.die == die && !e.2.ended && (descByte s n e.1 0 1 == 2 || descByte s n e.1 0 1 == 3)
  s.each l fun s e =>
    if e.2.op.kind = 2 && e.2.accepted then endDesc s n e.1 5 .fail else requeueDesc s n e.1

/-- STATUS of a control operation: the STATUS event carries the die (Table 8-9); a die reset acts under R313. -/
def ctlStatus (s : State) (n : Nat) (c : CtlOp) (code sr : Nat) : State :=
  let closing := code = 2 || code = 3 || code = 7 || code = 8
  let s := if closing then s.modPort n fun p => { p with ctl := p.ctl.filter fun x => x.tag != c.tag } else s
  let s := if closing && c.param then s.modSeq n fun q => { q with paramBusy := false } else s
  let s := if code = 7 then dieReset s n c.die else s
  if code = 8 then raise s n (evWord 0x05 code 0xFF sr c.die) else raise s n (evWord 0x02 code 0xFF sr c.die)

/-- A STATUS frame for a descriptor (R259, R306, R310 to R312). -/
def descStatus (s : State) (n i : Nat) (hw : DescHw) (code sr busyUs : Nat) : State :=
  let s := if code = 2 || code = 3 then chargeDieTime s n hw.op busyUs else s
  let ev (s : State) : State := raise s n (evWord (if code = 8 then 0x05 else 0x02) code i sr busyUs)
  match code with
  | 1 =>
    let final := hw.open_.head? = some hw.op.cwCount && hw.op.kind = 2
    let s := if final then
        programAccepted (s.modSeq n fun q => { q with descs := Tbl.upd q.descs i fun h => { h with accepted := true } }) n hw.op
      else s
    ev s
  | 2 =>
    let earned := hw.op.kind = 1 || hw.op.kind = 3 || hw.open_.head? = some hw.op.cwCount
    let s := closeOldest s n i
    let s := s.modSeq n fun q => { q with descs := Tbl.upd q.descs i fun h =>
      { h with passed := if h.op.kind = 3 then h.open_.isEmpty && h.queued == 0 else h.passed || earned } }
    readDone (ev s) n i
  | 4 =>
    let s := setDescState (s.modSeq n fun q => { q with descs := Tbl.upd q.descs i fun h => { h with suspAt := s.pwr.time.toNat } }) n i 3
    let s := s.modPort n fun p => { p with running := Tbl.del p.running hw.op.die, suspended := Tbl.put p.suspended hw.op.die i }
    raise (ev s) n (evWord 0x06 1 i)
  | 5 =>
    let s := setDescState (s.modSeq n fun q => { q with descs := Tbl.upd q.descs i fun h =>
      { h with suspTicks := h.suspTicks + (s.pwr.time.toNat - h.suspAt) } }) n i 2
    let s := raise (ev s) n (evWord 0x07 0 i)
    if (Tbl.getD (s.port n).dieQ hw.op.die []).any DieOp.isHost then arbiterPreempt s n hw.op.die else s
  | 6 => ev s
  | 7 => raise (requeueDesc s n i) n (evWord 0x06 2 i)
  | 3 => ev (closeOldest s n i)
  | 8 => ev (closeOldest s n i)
  | _ => protoErr s n

/-- A closing STATUS for a descriptor that has ended: discarded, and the die is free once the last has arrived (R310). -/
def lateStatus (s : State) (n tag : Nat) : State :=
  s.modPort n fun p =>
    match Tbl.find p.lingering tag with
    | none => p
    | some (d, k) => { p with lingering := if k ≤ 1 then Tbl.del p.lingering tag else Tbl.put p.lingering tag (d, k - 1) }

/-- A STATUS frame taken: for a descriptor, for a control operation, or for a descriptor that ended before all its CMDs closed, whose
late frames are discarded and whose die stays busy until they arrive (R310). -/
def execStatusFrame (n : Nat) (h : FrameHdr) (code sr busyUs : Nat) (s : State) : Host.Outcome State Fault Refusal :=
  .next (onFrame s n { h with typ := 4 } fun s =>
    if code = 0 || 8 < code then protoErr s n
    else
      if Tbl.has (s.port n).lingering h.tag then
        if code = 2 || code = 3 || code = 7 || code = 8 then lateStatus s n h.tag else s
      else
        match Tbl.find (s.seq n).descs h.tag, (s.port n).ctl.find? fun c => c.tag == h.tag with
        | some hw, _ => if hw.ended then s else descStatus s n h.tag hw code sr busyUs
        | none, some c => ctlStatus s n c code sr
        | none, none => s)

/-- An ACK frame: only its acknowledgement fields (R264, R265). -/
def execAckFrame (n : Nat) (h : FrameHdr) (s : State) : Host.Outcome State Fault Refusal :=
  .next (onFrame s n { h with typ := 5 } fun s => s)

/-- An EVENT frame is recorded in the Attic with its code and detail; a fatal one retires the port (R278). -/
def execEventFrame (n : Nat) (h : FrameHdr) (sev die code d0 d1 d2 : Nat) (s : State) : Host.Outcome State Fault Refusal :=
  .next (onFrame s n { h with typ := 7 } fun s =>
    if sev = 0 || 3 < sev then protoErr s n
    else
      let asev := if sev = 1 then 2 else if sev = 2 then 3 else 5
      let s := post s 0x0061 asev 4 n (die % 256 + code % 2 ^ 16 * 2 ^ 16) d0 d1 d2
      if sev = 3 then retirePort s n 2 else s)

/-- The version both ends run: the lower of the two maxima (R271). (DEDUCED: log entry 109.) -/
def agreedVersion (s : State) (n peer : Nat) : Nat := min (if s.on (CEL_PORT_CFG.NRZ_ONLY n) then 1 else 2) peer

/-- A HELLO frame. In LOCK, 16 taken in each direction lead to VERSION; in VERSION the values settle the version: 1.0 goes to ACTIVE,
2.0 sends SWITCH; a version below 1.0, or fewer than 4 buffers of either class, fails the attempt (R268, R270, R271). -/
def execHello (n : Nat) (h : FrameHdr) (verMax vendor part rev dies dataCr cmdCr : Nat) (s : State) : Host.Outcome State Fault Refusal :=
  .next (onFrame s n { h with typ := 6 } fun s =>
    if portState s n = 2 then
      let s := s.modPort n fun p => { p with helloRx := p.helloRx + 1 }
      if 16 ≤ (s.port n).helloRx && 16 ≤ (s.port n).helloTx then setPortState s n 3 else s
    else if portState s n = 3 then
      let s := s.wr (CEL_BRIDGE_ID.BRIDGE_VENDOR n) vendor |>.wr (CEL_BRIDGE_ID.BRIDGE_PART n) part
        |>.wr (CEL_BRIDGE_ID.BRIDGE_REV n) rev |>.wr (CEL_BRIDGE_ID.DIE_COUNT n) (min 16 dies)
        |>.wr (CEL_BRIDGE_ID.DATA_CREDITS n) dataCr |>.wr (CEL_BRIDGE_ID.CMD_CREDITS n) cmdCr
      let s := s.modPort n fun p => { p with peerVer := verMax, creditData := dataCr, creditCmd := cmdCr }
      if verMax = 0 || dataCr < 4 || cmdCr < 4 then failAttempt s n
      else
        let v := agreedVersion s n verMax
        let s := s.wr (CEL_PORT_STATUS.VER n) v
        if v = 1 then enterActiveFresh s n
        else queueLink s n 2 2 []
    else s)

/-- SWITCH: once it is sent and received both ends change to PAM4 and the port goes to EQ (R270). -/
def execSwitch (n : Nat) (h : FrameHdr) (ver : Nat) (s : State) : Host.Outcome State Fault Refusal :=
  .next (onFrame s n { h with typ := 6 } fun s =>
    if portState s n = 3 && ver = s.rd (CEL_PORT_STATUS.VER n) then
      let s := s.modPort n fun p => { p with switchRx := true }
      if (s.port n).switchTx then setPortState s n 4 else s
    else s)

/-- EQ_REQ: the peer asks for a transmit preset 0 to 15, and the training pattern's errors are reported with EQ_RSP (R260). -/
def execEqReq (n : Nat) (h : FrameHdr) (preset : Nat) (s : State) : Host.Outcome State Fault Refusal :=
  .next (onFrame s n { h with typ := 6 } fun s =>
    if portState s n = 4 || portState s n = 7 then s.modPort n fun p => { p with txPreset := preset % 16 } else s)

/-- EQ_RSP: with at most 16 symbol errors in 2^24 training symbols in each direction the preset is found, and the port is ACTIVE
with its sequence state set (R266, R270). -/
def execEqRsp (n : Nat) (h : FrameHdr) (errs localErrs : Nat) (s : State) : Host.Outcome State Fault Refusal :=
  .next (onFrame s n { h with typ := 6 } fun s =>
    if portState s n = 4 then
      let s := s.modPort n fun p => { p with eqTx := decide (errs ≤ 16), eqRx := decide (localErrs ≤ 16) }
      if errs ≤ 16 && localErrs ≤ 16 then enterActiveFresh s n else s
    else s)

/-- RETRAIN_REQ from the bridge: a counted retrain; it meets a retrain already under way as one (R270, R275). -/
def execRetrainReq (n : Nat) (h : FrameHdr) (_cause : Nat) (s : State) : Host.Outcome State Fault Refusal :=
  .next (onFrame s n { h with typ := 6 } fun s =>
    if portState s n = 5 || portState s n = 6 then startRetrain s n 2 true else s)

/-- The port enters RECAL: `req` sends RECAL_REQ, and otherwise the peer's request is answered with RECAL_DONE (R272). -/
def enterRecal (s : State) (n : Nat) (req : Bool) : State :=
  queueLink (setPortState (s.modPort n fun p => { p with recalDoneRx := false, recalDoneTx := !req }) n 6) n (if req then 6 else 7) 0 []

def execRecalReq (n : Nat) (h : FrameHdr) (s : State) : Host.Outcome State Fault Refusal :=
  .next (onFrame s n { h with typ := 6 } fun s =>
    if portState s n = 5 then enterRecal s n false
    else if portState s n = 6 && !(s.port n).recalDoneTx then
      queueLink (s.modPort n fun p => { p with recalDoneTx := true }) n 7 0 []
    else s)

/-- RECAL_DONE exchanged: the port returns to ACTIVE and replays from the last ACK_SEQ (R266, R270, R272). -/
def execRecalDone (n : Nat) (h : FrameHdr) (s : State) : Host.Outcome State Fault Refusal :=
  .next (onFrame s n { h with typ := 6 } fun s =>
    if portState s n = 6 then
      let s := if (s.port n).recalDoneTx then s else queueLink (s.modPort n fun p => { p with recalDoneTx := true }) n 7 0 []
      enterActiveAgain (s.bump (CEL_LINK_ERR.RECAL_CNT n)) n
    else s)

/-- TEMP_RSP: a die temperature in 0.5 °C steps feeds the Chimney and the program inhibit (R233, R269, R535). -/
def execTempRsp (n : Nat) (h : FrameHdr) (die : Nat) (half : Int) (valid : Bool) (s : State) : Host.Outcome State Fault Refusal :=
  .next (onFrame s n { h with typ := 6 } fun s =>
    if 16 ≤ die then s
    else
      let s := s.modChm fun c => { c with dies := Tbl.put c.dies (16 * n + die) { reading := 2 * half, valid := valid, fresh := true, ageMs := 0 } }
      let s := if valid then s.modPort n fun p => { p with lastTemp := Tbl.put p.lastTemp die half } else s
      dieTempInhibit s n die half valid)

/-- The ACK timer runs out: an acknowledgement is due at the next frame boundary (R264). -/
def execAckTimerExpiry (n : Nat) (s : State) : Host.Outcome State Fault Refusal :=
  .next (if (s.port n).ackTimer then s.modPort n fun p => { p with ackTimer := false, ackDue := true } else s)

/-- The replay timer runs out with frames unacknowledged: a replay round starts (R265). -/
def execReplayTimerExpiry (n : Nat) (s : State) : Host.Outcome State Fault Refusal :=
  .next (if (portState s n = 5 || portState s n = 6) && !(s.port n).unacked.isEmpty && (s.port n).replay.isEmpty then replayRound s n else s)

/-- A frame boundary of the transmitter. In training HELLO goes out in LOCK and SWITCH in VERSION; in ACTIVE and RECAL the next frame
is chosen by the order of Table 7-11 (R269, R270). -/
def execTransmitFrameBoundary (n : Nat) (s : State) : Host.Outcome State Fault Refusal :=
  let st := portState s n
  if st = 2 then
    let s := sendFrame s n { typ := 6, src := .link 1 0 [if s.on (CEL_PORT_CFG.NRZ_ONLY n) then 1 else 2, 32, 16] } true
    let s := s.modPort n fun p => { p with helloTx := p.helloTx + 1 }
    .next (if 16 ≤ (s.port n).helloRx && 16 ≤ (s.port n).helloTx then setPortState s n 3 else s)
  else if st = 3 then
    match (s.port n).linkQ with
    | f :: r =>
      let s := sendFrame (s.modPort n fun p => { p with linkQ := r, switchTx := true }) n f true
      .next (if (s.port n).switchRx then setPortState s n 4 else s)
    | [] => .next (sendFrame s n { typ := 6, src := .link 1 0 [if s.on (CEL_PORT_CFG.NRZ_ONLY n) then 1 else 2, 32, 16] } true)
  else if st = 5 || st = 6 then .next (transmitNext s n)
  else .next s

/-- TRAIN starts training from OFF, when MODE is Otcon or Stair, the port is populated and not retired, and its group's reference
clock runs; in any other state it is cleared without effect (R270, R273). -/
def execPortTrain (n : Nat) (s : State) : Host.Outcome State Fault Refusal :=
  if portState s n = 0 && (portMode s n = 1 || portMode s n = 2) && populated s n && !portRetired s n && refclkOn s n &&
     !s.pwr.straps.testmode then
    let s := s.modPort n fun p => { p with
      attempts := 0, helloRx := 0, helloTx := 0, switchTx := false, switchRx := false, eqRx := false, eqTx := false }
    .next (setPortState s n 1)
  else .next s

/-- A peer that transmits is detected: the port goes from DETECT to LOCK (R270). -/
def execPeerDetect (n : Nat) (s : State) : Host.Outcome State Fault Refusal :=
  .next (if portState s n = 1 then setPortState s n 2 else s)

def execDetectTimeout (n : Nat) (s : State) : Host.Outcome State Fault Refusal :=
  .next (if portState s n = 1 then failAttempt s n else s)

def execTrainingTimeout (n : Nat) (s : State) : Host.Outcome State Fault Refusal :=
  .next (if portState s n = 2 || portState s n = 3 || portState s n = 4 then failAttempt s n else s)

/-- Whether a recalibration of a port is due (R272): by interval, by temperature, or by RECAL, and at least 10 s after the last. -/
def recalIsDue (s : State) (n : Nat) : Bool :=
  let p := s.port n
  let since := s.pwr.opSec - p.lastRecalSec
  let i := s.rd (CEL_TIMER_CFG.RECAL_S n)
  let dt := s.rd (CEL_TIMER_CFG.RECAL_DT n)
  (p.recalDue || (i ≠ 0 && decide (i ≤ since)) || (dt ≠ 0 && decide (2 * dt ≤ (hottestDie p - p.lastRecalTemp).natAbs))) && decide (10 ≤ since)

def execRecalibrationDue (n : Nat) (s : State) : Host.Outcome State Fault Refusal :=
  .next (if portState s n = 5 && recalIsDue s n then enterRecal s n true else s)

/-- 50 µs in RECAL without RECAL_DONE: a counted retrain (R270). -/
def execRecalTimeout (n : Nat) (s : State) : Host.Outcome State Fault Refusal :=
  .next (if portState s n = 6 then startRetrain s n 4 true else s)

/-- 200 µs in RETRAIN without success: a new, counted retrain (R270). -/
def execRetrainTimeout (n : Nat) (s : State) : Host.Outcome State Fault Refusal :=
  .next (if portState s n = 7 then startRetrain s n (s.rd (CEL_PORT_STATUS.RETRAIN_CAUSE n)) true else s)

/-- Receive lock lost for 1 µs in ACTIVE (R270). -/
def execReceiveLockLoss (n : Nat) (s : State) : Host.Outcome State Fault Refusal :=
  .next (if portState s n = 5 then startRetrain s n 5 true else s)

/-- Lock regained and equalisation checked: back to ACTIVE, version kept (R270). -/
def execLockRegained (n : Nat) (s : State) : Host.Outcome State Fault Refusal :=
  .next (if portState s n = 7 then enterActiveAgain s n else s)

/-- CEL_PORT_CTL.RETRAIN: a counted retrain from ACTIVE; elsewhere cleared without effect (R287). -/
def execPortRetrain (n : Nat) (s : State) : Host.Outcome State Fault Refusal :=
  .next (if portState s n = 5 then startRetrain s n 3 true else s)

/-- CEL_PORT_CTL.RECAL makes a recalibration due at once, subject to R272. -/
def execPortRecal (n : Nat) (s : State) : Host.Outcome State Fault Refusal :=
  .next (if portState s n = 5 then s.modPort n fun p => { p with recalDue := true } else s)

/-- CEL_PORT_CTL.RETIRE (cause 0x4), or another cause of R273. -/
def execPortRetire (n cause : Nat) (s : State) : Host.Outcome State Fault Refusal :=
  .next (if populated s n then retirePort s n cause else s)

/-- CEL_PORT_CTL.HOLD (Table 7-17). -/
def execPortHold (n : Nat) (v : Bool) (s : State) : Host.Outcome State Fault Refusal :=
  .next (if populated s n then s.wr (CEL_PORT_CTL.HOLD n) (b2n v) else s)

/-- No closing STATUS within BUSY_MAX + 1 ms, not counting RECAL and RETRAIN: the operation ends with "no status" (R279). -/
def execNoStatusTimeout (n i : Nat) (s : State) : Host.Outcome State Fault Refusal :=
  match Tbl.find (s.seq n).descs i with
  | none => .next s
  | some hw =>
    .next (if !hw.open_.isEmpty && !hw.ended && portState s n ≠ 6 && portState s n ≠ 7 then
        raise (closeOldest s n i) n (evWord 0x05 0 i)
      else s)

/-- Every 100 ms a TEMP_REQ is queued for each present die of each ACTIVE port (R269). -/
def execTempPoll (s : State) : Host.Outcome State Fault Refusal :=
  .next (s.each ((List.range 64).filter fun n => portState s n == 5 && portMode s n == 1) fun s n =>
    s.modPort n fun p => { p with
      tempQ := p.tempQ ++ ((List.range 16).filter (fun d => diePresent s n d)).map fun d => { typ := 6, src := .link 8 d [], host := false } })

/-- A write to CEL_REFCLK_CTL: a bit is set at once, and cleared only when every port of the group is off, retired or in Stair mode
(R253). -/
def execRefclkOutputCtl (v : U64) (s : State) : Host.Outcome State Fault Refusal :=
  let old := s.rd CEL_REFCLK_CTL.EN
  let quiet (g : Nat) : Bool := (List.range 8).all fun i => portState s (8 * g + i) == 0 || portState s (8 * g + i) == 9 || portMode s (8 * g + i) == 2
  .next (s.wr CEL_REFCLK_CTL.EN ((List.range 8).foldl (fun a g =>
    a + (if bitAt v.toNat g || (bitAt old g && !quiet g) then 2 ^ g else 0)) 0))

end Sys2Proof.Machine
end

