-- ==== Sys2Proof/Machine/StrongOps.lean ====
section
/-!
DEFINITION. The Strongroom's shared operations (chapter 12): key slots and locking ranges, blobs and key-encryption keys, the inline
engines, and what the key-management engine does.
-/
namespace Sys2Proof.Machine

/-! ## Slots and ranges (R447, R450, R454, R470) -/

def State.kslot (s : State) (k : Nat) : KeySlot := Tbl.getD s.stg.slots k {}

def State.modKslot (s : State) (k : Nat) (f : KeySlot → KeySlot) : State :=
  s.modStg fun g => { g with slots := Tbl.modD g.slots k {} f }

/-- The global range of a namespace is kept at 64 + NSID, the Locking ranges at 1 to 63. -/
def globalRange (ns : Nat) : Nat := 64 + ns

def State.range (s : State) (r : Nat) : LockRange := Tbl.getD s.stg.ranges r {}

def State.modRange (s : State) (r : Nat) (f : LockRange → LockRange) : State :=
  s.modStg fun g => { g with ranges := Tbl.modD g.ranges r {} f }

/-- The Locking range that holds an extent of a namespace, else its global range. -/
def rangeAt (s : State) (ns ext : Nat) : Nat :=
  match s.stg.ranges.find? fun e => e.1 < 64 && e.2.nsid == ns && decide (e.2.start ≤ ext ∧ ext < e.2.start + e.2.len) with
  | some e => e.1
  | none => globalRange ns

/-- Whether a range has locking enabled. -/
def LockRange.enabled (r : LockRange) : Bool := r.rle || r.wle

/-- The key slot of an extent: the locking range's where a range holds it, else the namespace's (R447). A namespace's slot is the one bound
to its key. -/
def nsSlot (s : State) (ns : Nat) : Option Nat := (s.stg.slots.find? fun e => e.2.bind.kind == 2 && e.2.bind.nsid == ns).map fun e => e.1

def slotAt (s : State) (ns ext : Nat) : Option Nat :=
  let r := rangeAt s ns ext
  if r < 64 then some (s.range r).slot else nsSlot s ns

/-- The state of the key of an extent; a namespace without a slot has no usable key, and under locking none loaded. -/
def keyState (s : State) (ns ext : Nat) : Nat :=
  ((slotAt s ns ext).map fun k => (s.kslot k).st).getD (if (s.range (globalRange ns)).enabled then 0 else 2)

def keyOf (s : State) (ns ext : Nat) : Key := ((slotAt s ns ext).map fun k => (s.kslot k).key).getD 0

/-- The extents that a span touches. -/
def spanExts (x : Span) : List Nat :=
  if x.count = 0 then [] else (List.range ((x.first + x.count - 1) / 256 - x.first / 256 + 1)).map fun i => x.first / 256 + i

/-- Step 5 of R166 on the keys, and the lock state (R450, R454): Keys Unavailable where a slot is FAILED or ZEROISED, Access Denied where a
lock forbids the access or a locked range's slot is EMPTY. -/
def keyCheck (s : State) (reads writes : List Span) : Option (Nat × Nat) :=
  let exts (l : List Span) : List (Nat × Nat) := l.flatMap fun x => if x.all then [] else (spanExts x).map fun e => (x.ns, e)
  let all := exts reads ++ exts writes
  if all.any fun e => let r := s.range (rangeAt s e.1 e.2); !(r.enabled && keyState s e.1 e.2 == 0) && keyState s e.1 e.2 != 1 then some (7, 0xC1)
  else if (exts reads).any fun e => (s.range (rangeAt s e.1 e.2)).rle && (s.range (rangeAt s e.1 e.2)).rl then some (2, 0x86)
  else if (exts writes).any fun e => (s.range (rangeAt s e.1 e.2)).wle && (s.range (rangeAt s e.1 e.2)).wl then some (2, 0x86)
  else if all.any fun e => keyState s e.1 e.2 == 0 then some (2, 0x86)
  else none

/-- Whether a range that the command touches has a change pending by an older command (R455). -/
def keyHeld (s : State) (n : Nat) (l : List Span) : Bool :=
  l.any fun x => (spanExts x).any fun e => ((s.range (rangeAt s x.ns e)).pend).any fun m =>
    decide (m < n) && ((Tbl.find s.hall.ctxs m).any fun c => c.st != .ready)

/-! ## The inline engines (R446 to R449) -/

/-- The data of one unit encrypted with its key, the tweak of each block its LBA in the namespace. A worker's data comes encrypted. -/
def encrypt (s : State) (ns u : Nat) (d : Blk) : Blk :=
  let k := keyOf s ns (u / 256)
  if perUnit s ns = 8 then
    (List.range 8).foldl (fun a i => a ||| ((Config.xts512 k (8 * u + i) (d.extractLsb' (4096 * i) 4096)).setWidth 32768 <<< (4096 * i))) 0
  else Config.xts4k k u d

/-- The data of one unit decrypted. -/
def decrypt (s : State) (ns u : Nat) (d : Blk) : Blk :=
  let k := keyOf s ns (u / 256)
  if perUnit s ns = 8 then
    (List.range 8).foldl (fun a i => a ||| (((Config.xts512 k (8 * u + i)).symm (d.extractLsb' (4096 * i) 4096)).setWidth 32768 <<< (4096 * i))) 0
  else (Config.xts4k k u).symm d

/-- Commands in flight that use a key that has gone (R450): a writer abandons what is not admitted, a reader transfers no more; both complete
with Keys Unavailable. -/
def keysGone (s : State) (hit : Nat → Nat → Bool) : State :=
  s.each s.hall.ctxs fun s e =>
    let touched := (e.2.reads ++ e.2.writes).any fun x => x.all || (spanExts x).any fun k => hit x.ns k
    if e.2.st = .ready || e.2.stair.isSome || !touched then s else cutWriter s e.1 7 0xC1

/-! ## Blobs (R435 to R440) -/

/-- The key-encryption key of a blob (R435). -/
def kekOf (s : State) (b : Binding) (gen salt cred : Nat) : BitVec 256 :=
  Config.kek s.stg.fuses.root (if b.kind = 1 then 0 else s.stg.seed.getD 0) [b.kind, b.auth, b.nsid, b.range, gen, salt] (if b.auth = 0 then 0 else cred)

/-- The recorded generation of a binding (R439). -/
def recordedGen (s : State) (b : Binding) : Nat :=
  match b.kind with
  | 2 => ((nspace s b.nsid).map fun x => x.gen).getD 1
  | 3 | 4 => if b.range = 0 then ((nspace s b.nsid).map fun x => x.gen).getD 1 else (s.range b.range).gen
  | _ => 1

/-- The valid blob of highest SEQ of a binding whose generation is the recorded one. -/
def currentBlob (s : State) (b : Binding) : Option Blob :=
  (s.stg.blobs.filter fun x => x.intact && x.bind == b && x.gen == recordedGen s b).foldl (fun a x => match a with
    | none => some x
    | some y => if y.seq < x.seq then some x else some y) none

def staleBlob (s : State) (x : Blob) : Bool := currentBlob s x.bind != some x

/-- Compaction (R440): while fewer than 4 of sectors 394 to 455 are erased, the live blobs of the sector with the fewest are copied on with
new SEQ values and the sector is erased. -/
def compactStore (s : State) : State :=
  let used := s.stg.usedSectors.filter fun k => k != s.stg.writeSector
  if 59 ≤ s.stg.usedSectors.length then
    let live (k : Nat) : List Blob := s.stg.blobs.filter fun x => x.sector == k && !staleBlob s x
    match used.foldl (fun a k => match a with
        | none => some k
        | some j => if (live k).length < (live j).length then some k else some j) none with
    | none => s
    | some k =>
      let l := live k
      s.modStg fun g => { g with
        blobs := (g.blobs.filter fun x => x.sector != k) ++ ((List.range l.length).zip l).map fun p => { p.2 with seq := g.nextSeq + p.1, sector := g.writeSector },
        nextSeq := g.nextSeq + l.length, usedSectors := g.usedSectors.filter fun j => j != k }
  else s

/-- A blob is appended: 256 to a sector, then the next erased sector. None when the store is full. -/
def appendBlob (s : State) (b : Blob) : Option State :=
  let here := s.stg.blobs.countP fun x => x.sector == s.stg.writeSector
  let next := if here < 256 then some s.stg.writeSector
              else (List.range 62).map (fun i => 394 + i) |>.find? fun k => !s.stg.usedSectors.contains k
  match next with
  | none => none
  | some k =>
    some (compactStore (s.modStg fun g => { g with
      blobs := g.blobs ++ [{ b with seq := g.nextSeq, sector := k }], nextSeq := g.nextSeq + 1, writeSector := k,
      usedSectors := if g.usedSectors.contains k then g.usedSectors else k :: g.usedSectors }))

/-- Sectors that hold only stale or invalid blobs are erased, and of the others their stale blobs go by compaction (R440, R441). -/
def eraseStale (s : State) : State :=
  s.modStg fun g =>
    let l := g.blobs.filter fun x => !staleBlob s x
    { g with blobs := l, usedSectors := g.usedSectors.filter fun k => k == g.writeSector || l.any fun x => x.sector == k }

/-! ## What the engine does (Table 12-4) -/

/-- A request of the DRBG; it reseeds every 2^20 requests (R433). -/
def drbg (s : State) : State :=
  s.modStg fun g => { g with drbgReqs := (g.drbgReqs + 1) % 2 ^ 20, drbgSeeds := if g.drbgReqs + 1 = 2 ^ 20 then g.drbgSeeds + 1 else g.drbgSeeds }

/-- A destination receives zeros: the slot is FAILED (R438). -/
def failSlot (s : State) (k : Nat) (b : Binding) : State :=
  s.modKslot k fun _ => { st := 2, bind := b, gen := 0, key := 0 }

/-- UNWRAP_LOAD: result 0 OK, 1 AUTH_FAIL, 3 NO_BLOB. -/
def unwrapLoad (s : State) (b : Binding) (slot cred : Nat) : State × Nat :=
  match currentBlob s b with
  | none => (failSlot s slot b, 3)
  | some x =>
    if x.kek = kekOf s b x.gen x.salt cred then (s.modKslot slot fun _ => { st := 1, bind := b, gen := x.gen, key := x.key }, 0)
    else (failSlot s slot b, 1)

/-- The KIND of a range's key: a namespace key for a global range, whose RANGE is 0 (Table 12-2). -/
def keyKind (range : Nat) : Nat := if range = 0 then 2 else 3

/-- GENERATE: a key is drawn and its blob programmed; the slot takes it (R441, Table 12-4). With `auths` one blob for each authority. -/
def generateKey (s : State) (b : Binding) (gen slot : Nat) (creds : List (Nat × Nat)) : State × Nat :=
  if s.on STG_STATUS.NO_ENTROPY then (s, 6)
  else
    let key := Config.drbgKey s.free
    let s := drbg s.tick
    let one (a : State × Nat) (p : Nat × Nat) : State × Nat :=
      let salt := Config.drbgNat a.1.free
      let s := drbg a.1.tick
      let b := { b with auth := p.1 }
      match appendBlob s { bind := b, gen := gen, salt := salt, kek := kekOf s b gen salt p.2, key := key } with
      | some s => (s, a.2)
      | none => (s, 4)
    let (s, r) := (if creds.isEmpty then [(b.auth, 0)] else creds).foldl one (s, 0)
    if r ≠ 0 then (s, r)
    else (s.modKslot slot fun _ => { st := 1, bind := { b with kind := if b.kind = 4 then keyKind b.range else b.kind }, gen := gen, key := key }, 0)

/-- REWRAP: result 0, 1, 3 or 4. -/
def rewrap (s : State) (b : Binding) (cred newAuth newCred : Nat) : State × Nat :=
  match currentBlob s b with
  | none => (s, 3)
  | some x =>
    if x.kek ≠ kekOf s b x.gen x.salt cred then (s, 1)
    else
      let salt := Config.drbgNat s.free
      let s := drbg s.tick
      let nb : Binding := { b with kind := keyKind b.range, auth := newAuth }
      match appendBlob s { bind := nb, gen := x.gen, salt := salt, kek := kekOf s nb x.gen salt newCred, key := x.key } with
      | some s => (s, 0)
      | none => (s, 4)

/-- SEED_REPLACE: a new media seed and both its blobs. -/
def seedReplace (s : State) : State × Nat :=
  if s.on STG_STATUS.NO_ENTROPY then (s, 6)
  else
    let seed := Config.drbgSeed s.free
    let salt := Config.drbgNat s.free
    let s := drbg s.tick
    let b : Binding := { kind := 1 }
    let blob : Blob := { bind := b, keyLen := 32, salt := salt, sector := 392, kek := kekOf s b 1 salt 0, key := seed.setWidth 512 }
    (((s.modStg fun g => { g with seed := some seed, seedA := some blob, seedB := some { blob with sector := 393 } })).set1 STG_STATUS.SEED_OK, 0)

/-- The seed is unwrapped at power-on from a valid seed blob (R439, R465). -/
def seedLoad (s : State) : State :=
  let good (x : Option Blob) : Option Blob := x.bind fun b => if b.intact && b.kek == kekOf s b.bind b.gen b.salt 0 then some b else none
  match good s.stg.seedA, good s.stg.seedB with
  | some b, _ => (s.modStg fun g => { g with seed := some (b.key.setWidth 256) }).set1 STG_STATUS.SEED_OK
  | none, some b => (s.modStg fun g => { g with seed := some (b.key.setWidth 256) }).set1 STG_STATUS.SEED_OK
  | none, none => (seedReplace (s.modStg fun g => { g with seedA := none, seedB := none })).1

/-- A namespace's key for a new generation (R441, R152): the free slot or its own; the recorded generation follows. -/
def freeKslot (s : State) : Option Nat := (List.range 256).find? fun k => (s.kslot k).st == 0 && (s.kslot k).bind.kind == 0

def newNsKey (s : State) (ns gen : Nat) : State × Nat :=
  match (nsSlot s ns).orElse fun _ => freeKslot s with
  | none => (s, 4)
  | some k =>
    let r := s.range (globalRange ns)
    generateKey s { kind := 2, nsid := ns } gen k (if r.enabled then r.auths.map fun a => (a, Tbl.getD s.stg.creds a 0) else [])

/-- A namespace's key made by a Sanitize: with locking enabled its blob is a KIND 0x4 pending one (R457). -/
def pendingNsKey (s : State) (ns gen : Nat) : State × Nat :=
  match nsSlot s ns with
  | none => newNsKey s ns gen
  | some k =>
    if (s.range (globalRange ns)).enabled then
      let (s, r) := generateKey s { kind := 4, nsid := ns } gen k []
      (if r = 0 then s.modRange (globalRange ns) fun y => { y with pending := true } else s, r)
    else newNsKey s ns gen

/-! ## Tamper (R464 to R467) -/

/-- The key loading of R451 has run once every namespace whose global range has no locking enabled has its slot VALID or FAILED. -/
def keysCheck (s : State) : State :=
  let done := s.nvm.spaces.all fun e => (s.range (globalRange e.1)).enabled || (nsSlot s e.1).any fun k => (s.kslot k).st != 0
  if done then s.set1 STG_STATUS.KEYS_LOADED else s

/-- A tamper bit is set: every slot is ZEROISED, the derived keys are destroyed, and commands that use keys end (R464, R450, R467); the
media seed is destroyed where R465 says so. -/
def tamper (s : State) (bit : Nat) : State :=
  let s := s.wr STG_TAMPER.BITS (s.rd STG_TAMPER.BITS ||| 2 ^ bit)
  let s := s.set1 STG_STATUS.TAMPERED
  let s := s.modStg fun g => { g with
    slots := Tbl.mapV g.slots fun _ x => { x with st := 3, key := 0 }, devId := false, alias_ := false, op := none, seed := none, sessions := [] }
  let s := ((List.range 256).foldl (fun s k => s.modKslot k fun x => { x with st := 3 }) s).clr1 STG_STATUS.SEED_OK
  let s := if bit = 2 || (bit ≠ 4 && s.on STG_CTL.TAMPER_ERASE) then
      s.modStg fun g => { g with seedA := none, seedB := none, tamperErased := true } else s
  let s := keysGone s fun _ _ => true
  let s := post s 0x0092 5 8 0xFF (s.rd STG_TAMPER.BITS)
  serveEvents (asyncAll s 7 0xC1 0xC1)

end Sys2Proof.Machine
end

