-- ==== Sys2Proof/Machine/HallOps.lean ====
section
/-!
DEFINITION. The Hall's operations on commands (chapters 2 to 4): the checks at ingest (R166), arbitration and fetching (R82 to R85), host
DMA (R45, R66, R67), the units of a writer (R94, R178), reservation, commit and resolution (R93, R101), posting and interrupts (R64, R65,
R97, R98), resets and queue deletion (R117, R119).
-/
namespace Sys2Proof.Machine

/-! ## Checks at ingest (R166) -/

/-- What of the fixed order of Table 4-15 a command met first: status type and code. -/
abbrev Status := Option (Nat × Nat)

/-- The first condition that applies. -/
def firstOf (l : List (Bool × Nat × Nat)) : Status := (l.find? fun e => e.1).map fun e => e.2

/-- The earlier of two answers. -/
def orThen (a b : Status) : Status := match a with
  | some x => some x
  | none => b

/-- Bytes of a logical block. -/
def blockBytes (s : State) (ns : Nat) : Nat := if perUnit s ns = 8 then 512 else 4096

/-- A reclaim group with no port in service (R148). -/
def groupDead (s : State) (rg : Nat) : Bool :=
  !(List.range 64).any fun k => decide (k % 32 < otconPorts s / 2) && rgOf s k == rg && (List.range 32).any (inService s k)

/-- A placement that a write may not name (R148, R149). -/
def badPlace (s : State) (p : Place) : Bool :=
  !s.nvm.fdp || decide (15 < p.handle) || decide (7 < p.rg) || groupDead s p.rg

/-- Opcodes of the recovery identity (R52). (DEDUCED: log entry 47.) -/
def recoveryAllows : HostCmd → Bool
  | .identify _ _ _ _ | .getLog _ _ _ _ _ | .fwDownload _ _ _ | .fwCommit _ _ => true
  | _ => false

/-- Metadata bytes of an LBA format (Table 4-5). -/
def metaBytes (fmt : Nat) : Nat := match fmt with
  | 1 | 5 => 8
  | 2 | 3 => 64
  | _ => 0

/-- The features of Table 4-7. (DESIGN CHOICE: log entry 80.) -/
def fids : List Nat := [0x01, 0x02, 0x04, 0x05, 0x06, 0x07, 0x08, 0x09, 0x0A, 0x0B, 0x0C, 0x0E, 0x11, 0x1D, 0x1E, 0x80]

/-- Step 1 of R166: opcode and field checks. (DEDUCED: log entry 45.) (DEDUCED: log entry 46.) (DEDUCED: log entry 48.) -/
def fieldCheck (s : State) : HostCmd → Status
  | .write ns _ nlb _ place _ => firstOf [(decide (2 ^ 20 < nlb * blockBytes s ns), 0, 2), (place.any (badPlace s), 0, 2)]
  | .read ns _ nlb _ => firstOf [(decide (2 ^ 20 < nlb * blockBytes s ns), 0, 2)]
  | .compare ns _ nlb _ => firstOf [(decide (2 ^ 20 < nlb * blockBytes s ns), 0, 2)]
  | .writeUncorr _ _ nlb => firstOf [(decide (65536 < nlb), 0, 2)]
  | .writeZeroes _ _ nlb _ _ => firstOf [(decide (65536 < nlb), 0, 2)]
  | .verify _ _ nlb _ => firstOf [(decide (65536 < nlb), 0, 2)]
  | .dsm _ _ l => firstOf [(decide (256 < l.length), 0, 2)]
  | .copy ns _ _ l place =>
    firstOf [(decide (128 < l.length) || l.any (fun r => decide (2 ^ 20 < r.2 * blockBytes s ns)) ||
                decide (2 ^ 23 < l.foldl (fun k r => k + r.2) 0 * blockBytes s ns), 0, 2),
             (place.any (badPlace s), 0, 2)]
  | .ioMgmtRecv _ => firstOf [(!s.nvm.fdp, 0, 2)]
  | .ioMgmtSend _ l => firstOf [(!s.nvm.fdp || l.any (badPlace s), 0, 2)]
  | .nsCreate nsze ncap fmt pi _ =>
    let k := if 4 ≤ fmt then 2048 else 256
    firstOf [(nsze != ncap || nsze % k != 0 || nsze == 0, 0, 2), (decide (5 < fmt) || (pi != 0 && metaBytes fmt == 0), 1, 0x0A)]
  | .fwCommit a _ => firstOf [(decide (3 < a), 0, 2)]
  | .selfTest c _ => firstOf [(c != 1 && c != 2 && c != 0xF, 0, 2)]
  | .directive _ t _ _ => firstOf [(t != 0, 0, 2)]
  | .format _ ses fmt pi _ => firstOf [(decide (2 < ses), 0, 2), (decide (5 < fmt) || (pi != 0 && metaBytes fmt == 0), 1, 0x0A)]
  | .security _ proto _ => firstOf [(decide (2 < proto), 0, 2)]
  | .sanitize a => firstOf [(a != 2 && a != 4, 0, 2)]
  | .atticClear go => firstOf [(!go, 0, 2)]
  | .setFeatures fid _ _ _ _ _ => firstOf [(!fids.contains fid, 0, 2)]
  | .stairControl a w => firstOf [(w == 0 || a == 0 || decide (3 < a), 0, 2)]
  | _ => none

/-- The namespace that an I/O command names, none for an admin command. -/
def ioNs : HostCmd → Option Nat
  | .flush ns | .write ns _ _ _ _ _ | .read ns _ _ _ | .writeUncorr ns _ _ | .compare ns _ _ _ | .writeZeroes ns _ _ _ _ | .dsm ns _ _
  | .verify ns _ _ _ | .ioMgmtRecv ns | .ioMgmtSend ns _ | .copy ns _ _ _ _ => some ns
  | _ => none

/-- Whether a command belongs to an I/O queue. -/
def isIo : HostCmd → Bool
  | .unknown io _ => io
  | c => (ioNs c).isSome

/-- Step 2 of R166: the namespace exists, and for I/O is attached to the controller. (DEDUCED: log entry 50.) -/
def nsCheck (s : State) (p : Nat) (c : HostCmd) : Status :=
  match ioNs c with
  | some 0xFFFFFFFF => match c with
    | .flush _ => none
    | _ => some (0, 0x0B)
  | some ns => match nspace s ns with
    | some x => if x.attached.contains (p + 1) then none else some (0, 0x0B)
    | none => some (0, 0x0B)
  | none => match c with
    | .format ns _ _ _ _ | .nsDelete ns | .nsAttach ns _ _ | .getLbaStatus ns _ => if (nspace s ns).isSome then none else some (0, 0x0B)
    | _ => none

/-- Admin commands that the NVMe standard permits during a sanitize. (PRESUMED: log entry 49.) -/
def sanitizeAllows : HostCmd → Bool
  | .deleteSq _ | .createSq _ _ _ _ _ | .deleteCq _ | .createCq _ _ _ _ _ | .getLog _ _ _ _ _ | .identify _ _ _ _ | .abort _ _
  | .getFeatures _ _ _ _ | .setFeatures _ _ _ _ _ _ | .asyncEvent | .unknown _ _ => true
  | _ => false

/-- Step 3 of R166: Sanitize In Progress or Failed, Namespace Not Ready (R152, R153). -/
def busyCheck (s : State) (c : HostCmd) : Status :=
  let formatting (ns : Nat) : Bool := if ns = 0xFFFFFFFF then s.nvm.spaces.any fun e => e.2.formatting.isSome else
    (nspace s ns).any fun x => x.formatting.isSome
  match ioNs c with
  | some ns => firstOf [(s.nvm.sanitize.isSome, 0, 0x1D), (s.nvm.sanFailed, 0, 0x1C), (formatting ns, 0, 0x82)]
  | none =>
    if s.nvm.sanitize.isSome && !sanitizeAllows c then some (0, 0x1D)
    else match c with
      | .format ns _ _ _ _ | .nsDelete ns | .nsAttach ns _ _ => if formatting ns then some (0, 0x82) else none
      | _ => none

/-- Step 6 of R166: the command touches a share whose worker is not active. -/
def workerCheck (s : State) (reads writes : List Span) : Status :=
  if isManager s && (reads ++ writes).any fun x => !x.all && (spanExts x).any fun e =>
      (shareOf s e).1 != 0 && !workerServes s (shareOf s e).1 then some (7, 0xC3)
  else none

/-- Step 7 of R166: a range beyond NSZE. -/
def rangeCheck (s : State) (reads writes : List Span) : Status :=
  if (reads ++ writes).any fun x => !x.all && decide (((nspace s x.ns).map fun y => 256 * y.extents).getD 0 < x.first + x.count) then some (0, 0x80)
  else none

/-- Steps 5 to 7 of R166 for an I/O command. (DEDUCED: log entry 51.) -/
def lateCheck (s : State) (c : HostCmd) : Status :=
  let r := readSpans s c
  let w := writeSpans s c
  orThen (keyCheck s r w) (orThen (workerCheck s r w) (rangeCheck s r w))

/-- Whether an admin command may be executed now: none other than the Firmware Commit runs during an activation (R125). -/
def adminGo (s : State) (n : Nat) : Bool := s.hall.activating.isNone || s.hall.activating == some n

/-- Whether the supervisor program turns, or the boot ROM serves the queue in its place (R494, R627). (DEDUCED: log entry 60.) -/
def supTurns (s : State) : Bool := s.porch.recovery || (s.seq 64).state == 1 || (s.seq 64).state == 2

/-- The Hall permits fetching: enabled controllers that wait for it become ready (R122). -/
def hallReady (s : State) : State :=
  s.each (portsInUse s) fun s p => s.modHport p fun h => if h.en && !h.cfs && h.shst = 0 then { h with rdy := true } else h

/-! ## Arbitration (R83 to R85) -/

/-- Free contexts. -/
def freeCtx (s : State) : Nat := 131072 - s.hall.ctxs.length

/-- A port's unused admin reserve (R85). -/
def unusedReserve (s : State) (p : Nat) : Nat :=
  if p = 1 && !twoPorts s then 0 else 128 - s.hall.ctxs.countP fun e => e.2.port == p && e.2.sq == 0 && e.2.stair.isNone

/-- Whether the context store admits a fetch of the kind from the port (R85). -/
def ctxRoom (s : State) (p sq : Nat) : Bool :=
  if sq = 0 then decide (unusedReserve s (1 - p) < freeCtx s) else decide (256 < freeCtx s)

/-- Whether the port fetches: enabled, ready, fetching permitted, no drain. In the recovery identity the boot ROM serves the admin queue
(R494). -/
def portFetches (s : State) (p : Nat) : Bool :=
  let x := s.hport p
  (portsInUse s).contains p && x.en && x.rdy && x.bme && !x.d3 &&
  ((s.on HAL_CTL.FETCH_EN && !s.on HAL_CTL.DRAIN_REQ && !asleep s) || s.porch.recovery) && !s.pwr.frozen

/-- Whether a queue has an entry that may be fetched. -/
def queueWaits (s : State) (p q : Nat) : Bool :=
  portFetches s p && ctxRoom s p q && (Tbl.find s.hall.sqs (qkey p q)).any fun x => x.head != x.tail && x.deleting.isNone

/-- The queues of a port that have entries to fetch. -/
def waitingQueues (s : State) (p : Nat) : List Nat :=
  (s.hall.sqs.filter fun e => e.1 / 65536 == p && queueWaits s p (e.1 % 65536)).map fun e => e.1 % 65536

def arbOf (s : State) (p : Nat) : ArbSt := Tbl.getD s.hall.arb p {}

/-- The class of a queue under weighted round robin: admin, urgent, high, medium, low. -/
def queueClass (s : State) (p q : Nat) : Nat :=
  if q = 0 then 0 else ((Tbl.find s.hall.sqs (qkey p q)).map fun x => x.prio % 4 + 1).getD 4

/-- The next of a list of queues after the one last served. -/
def roundRobin (last : Nat) (l : List Nat) : Option Nat :=
  match l.find? fun q => decide (last < q) with
  | some q => some q
  | none => l.head?

/-- Weight of a class, from Set Features (Arbitration), 0's based. -/
def classWeight (s : State) (p c : Nat) : Nat :=
  let v := feat s (p + 1) 0x01 0
  (if c = 2 then bits v 24 8 else if c = 3 then bits v 16 8 else bits v 8 8) + 1

/-- The queue whose turn comes next at a port, with the credits that the weighted classes then have left. -/
def nextTurn (s : State) (p : Nat) : Option (Nat × Nat × Tbl Nat) :=
  let l := waitingQueues s p
  let a := arbOf s p
  if !(s.hport p).wrr then (roundRobin (Tbl.getD a.last 9 0) l).map fun q => (q, 9, a.credits)
  else
    let of (c : Nat) : List Nat := l.filter fun q => queueClass s p q == c
    if (of 0).length > 0 then some (0, 0, a.credits)
    else match roundRobin (Tbl.getD a.last 1 0) (of 1) with
      | some q => some (q, 1, a.credits)
      | none =>
        let cls := [2, 3, 4].filter fun c => !(of c).isEmpty
        let credits := if cls.any fun c => decide (0 < Tbl.getD a.credits c 0) then a.credits
                       else [(2, classWeight s p 2), (3, classWeight s p 3), (4, classWeight s p 4)]
        match cls.find? fun c => decide (0 < Tbl.getD credits c 0) with
        | none => none
        | some c => (roundRobin (Tbl.getD a.last c 0) (of c)).map fun q => (q, c, Tbl.put credits c (Tbl.getD credits c 0 - 1))

/-- The queue of a port whose turn is under way. -/
def openTurn (s : State) (p : Nat) : Option (Nat × Nat) :=
  match (arbOf s p).turn with
  | some (q, k) => if 0 < k && queueWaits s p q then some (q, k) else none
  | none => none

/-- Entries that one turn allows; 7 is no limit (Table 4-7). -/
def burst (s : State) (p : Nat) : Nat :=
  let ab := feat s (p + 1) 0x01 0 % 8
  if ab = 7 then 131072 else 2 ^ ab

/-- The arbiter's answer to a fetch from queue `q` of port `p`: its state after the fetch, where that queue's turn it is. -/
def takeTurn (s : State) (p q : Nat) : Option (ArbSt) :=
  let a := arbOf s p
  if (openTurn s (1 - p)).isSome then none
  else match openTurn s p with
    | some (t, k) => if t = q then some { a with turn := some (q, k - 1) } else none
    | none =>
      if s.hall.lastPort = p && !(waitingQueues s (1 - p)).isEmpty then none
      else match nextTurn s p with
        | some (t, c, credits) =>
          if t = q then some { turn := some (q, burst s p - 1), last := Tbl.put a.last c q, credits := credits } else none
        | none => none

/-! ## Host DMA (R45, R66, R67) -/

/-- Requests that a port may have outstanding (R45). -/
def tagLimit (s : State) (p : Nat) : Nat :=
  let x := s.hport p
  if x.tagMode = 2 && x.flit then 16384 else if 1 ≤ x.tagMode then 1024 else 256

def State.chan (s : State) (c : Nat) : DmaChan := Tbl.getD s.porch.chans c {}

def State.modChan (s : State) (c : Nat) (f : DmaChan → DmaChan) : State :=
  s.modPorch fun x => { x with chans := Tbl.modD x.chans c {} f }

/-- The channel of a command: 0 to 63 for port A, 64 to 127 for port B (Table 2-1). -/
def chanOf (p n : Nat) : Nat := 64 * p + n % 64

/-- Tags in use on a port. -/
def portTags (s : State) (p : Nat) : List Nat :=
  (s.porch.chans.filter fun e => e.1 / 64 == p).flatMap fun e => e.2.tags.map fun t => t.1

/-- A tag that is neither outstanding nor timed out within the last second (R49). -/
def pickTag (s : State) (p : Nat) : Option Nat :=
  let used := portTags s p ++ (s.hport p).deadTags
  if tagLimit s p ≤ used.length then none else (List.range (used.length + 1)).find? fun t => !used.contains t

/-- Host data still to be requested by a command is requested, tag by tag, as far as the limits of R45 let it. -/
def askHost (s : State) (n : Nat) : State :=
  match s.ctx n with
  | none => s
  | some c =>
    if c.stair.isSome || !(s.hport c.port).bme || (s.hport c.port).d3 then s
    else c.tags.foldl (fun s u =>
      let x := s.chan c.chan
      if x.state = 2 || 256 ≤ x.tags.length || x.tags.any (fun t => t.2 == (n, u)) then s
      else match pickTag s c.port with
        | none => s
        | some t => (s.modChan c.chan fun x => { x with tags := x.tags ++ [(t, n, u)], state := 1 }).emit (.hostRequest c.port t n u)) s

/-- A channel goes on with the commands whose data it still has to request. -/
def pumpChan (s : State) (c : Nat) : State :=
  s.each (s.hall.ctxs.filter fun e => e.2.chan == c && !e.2.tags.isEmpty && e.2.st == .running) fun s e => askHost s e.1

/-- An outstanding request ends. -/
def dropTag (s : State) (c n u : Nat) : State :=
  s.modChan c fun x =>
    let l := x.tags.filter fun t => t.2 != (n, u)
    { x with tags := l, state := if l.isEmpty && x.state = 1 then 0 else x.state }

/-- The tags of a command go with it (R77). -/
def dropTags (s : State) (n : Nat) : State :=
  s.modPorch fun p => { p with chans := (Tbl.mapV p.chans fun _ x =>
    let l := x.tags.filter fun t => t.2.1 != n
    { x with tags := l, state := if x.cmd = some n then (if l.isEmpty then 0 else 1) else if l.isEmpty && x.state = 1 then 0 else x.state,
             cmd := if x.cmd = some n then none else x.cmd }).filter fun e => e.2 != {} }

/-- A channel halts for a command (R66). -/
def haltChan (s : State) (n cause : Nat) : State :=
  match s.ctx n with
  | none => s
  | some c => s.modChan c.chan fun x => { x with state := 2, cause := cause, haltCount := satInc 8 x.haltCount, cmd := some n }

/-! ## Dropping a reader (R95, Table 3-9) -/

/-- What a reader holds goes: its pins, its words, its requests to workers. -/
def dropReader (s : State) (n : Nat) : State :=
  let mine := s.lnd.words.filter fun w => w.ingest == n
  let port := ((s.ctx n).map fun c => c.port).getD 0
  let s := s.modLnd fun l => { l with
    words := l.words.filter fun w => w.ingest != n,
    pace := mine.foldl (fun t w => Tbl.setD t (2 * w.src + port) (Tbl.getD t (2 * w.src + port) 0 - 1) 0) l.pace }
  let s := s.each mine fun s w => match w.pin with
    | some (.inl k) => unpinSlot s k
    | _ => s
  let pins := s.pan.pins.filter fun x => x.1 == n
  let s := s.each pins fun s x => unpinMedia s n x.2.1 x.2.2
  let s := s.modSta fun x => { x with reqs := x.reqs.filter fun r => !(r.req.ingest == n && (r.req.kind == 1 || r.req.kind == 8)) }
  s.modCtx n fun c => { c with runits := Tbl.mapV c.runits fun _ r => match r with
    | .failed a b => .failed a b
    | _ => .done }

/-- A reader ends with a status: what it holds is dropped. -/
def failReader (s : State) (n sct sc : Nat) : State := finish (dropReader s n) n sct sc

/-! ## The units of a writer (R94, R178, R179) -/

/-- The 4 KiB units of `n` blocks from block `b`, by extent, with the blocks covered of the units covered in part. -/
def writerUnits (s : State) (ns b n : Nat) : List WUnit :=
  if n = 0 then []
  else
    let k := perUnit s ns
    let u0 := b / k
    let u1 := (b + n - 1) / k
    let covered (u : Nat) : Nat × Nat := (max b (k * u) - k * u, min (b + n) (k * (u + 1)) - max b (k * u))
    (List.range (u1 / 256 - u0 / 256 + 1)).map fun i =>
      let e := u0 / 256 + i
      let lo := max u0 (256 * e)
      let units := (List.range (min (u1 + 1) (256 * (e + 1)) - lo)).map fun j => lo + j
      { ns := ns, ext := e, units := units, share := (shareOf s e).1,
        part := (units.filter fun u => (covered u).2 != k).map fun u => (u, covered u) }

/-- The atomic units of a command that changes blocks. -/
def commandUnits (s : State) : HostCmd → List WUnit
  | .write ns a n _ _ _ => writerUnits s ns a n
  | .writeZeroes ns a n _ _ => writerUnits s ns a n
  | .writeUncorr ns a n => writerUnits s ns a n
  | .copy ns d _ l _ => writerUnits s ns d (l.foldl (fun k r => k + r.2) 0)
  | .dsm ns true l => l.flatMap fun r => writerUnits s ns r.1 r.2
  | _ => []

/-- Whether an atomic unit changes part of its extent, or units of it in part. -/
def WUnit.partial_ (u : WUnit) : Bool := decide (u.units.length < 256) || !u.part.isEmpty

/-- What a partial change needs of the exception budget (R178): a group, unless its extent is SPLIT and no older uncommitted writer covers
the whole of it; then the extent is held. -/
def needsGroup (s : State) (n : Nat) (u : WUnit) : Bool :=
  u.share == 0 && u.partial_ &&
  (!(mapExt s u.ns (if isManager s then (shareOf s u.ext).2 else u.ext)).isSplit ||
    (s.hall.ctxs.any fun e => decide (e.1 < n) && e.2.wunits.any fun w => w.ns == u.ns && w.ext == u.ext && !w.partial_ && w.st == .waiting) ||
    (s.hall.tails.any fun e => decide (e.1 < n) && e.2.units.any fun w => w.ns == u.ns && w.ext == u.ext && !w.partial_ && w.st == .waiting))

/-- A unit of this device's own share by its place in its own map. -/
def own (s : State) (u : Nat) : Nat := if isManager s then localUnit s u else u

def ownExt (s : State) (e : Nat) : Nat := if isManager s then (shareOf s e).2 else e

/-- Whether the command changes blocks under a reservation (R96, R178). -/
def reserves : HostCmd → Bool
  | .write _ _ _ _ _ _ | .copy _ _ _ _ _ | .writeZeroes _ _ _ _ _ | .writeUncorr _ _ _ => true
  | _ => false

/-- A command's own row starts it: its units are built, and it waits for its reservation. -/
def startWriter (s : State) (n : Nat) (c : Ctx) (fua : Bool) : State :=
  s.modCtx n fun x => { x with st := .reserving, wunits := commandUnits s c.cmd, fua := fua || allFua s c.port }

/-- The data of a worker's SDATA that came before the slots. -/
def fillStash (s : State) (n : Nat) : State :=
  let l := s.sta.stash.filter fun e => e.1 / 256 == n
  s.each l fun s e =>
    match s.ctx n with
    | none => s
    | some c =>
      match c.wunits.findSome? fun u => (u.units[e.1 % 256]?).bind fun k => (Tbl.find u.slots k).map fun j => (k, j, Tbl.has u.part k) with
      | some (k, j, part) =>
        let s := modSlot s j fun x => { x with data := e.2.1, md := e.2.2, st := if part then 1 else 2 }
        (s.modCtx n fun c => { c with tags := c.tags.erase k }).modSta fun x => { x with stash := Tbl.del x.stash e.1 }
      | none => s

/-- A host reservation is granted: slots and groups (R178, R213), and the transfer starts. -/
def grantHost (s : State) (n : Nat) : State :=
  match s.ctx n with
  | none => s
  | some c =>
    let need := c.wunits.countP (needsGroup s n)
    if groupsUsable s < groupsUsed s + need && 0 < need then finish (s.modCtx n fun c => { c with wunits := [] }) n 7 0xC4
    else
      let one (a : State × List WUnit) (u : WUnit) : State × List WUnit :=
        let s := a.1
        let g := needsGroup s n u
        let l := slotUnits c.cmd u
        let (s, slots) := takeSlots s l.length fun i => { st := 1, ns := u.ns, unit := own s ((l[i]?).getD 0), ingest := n }
        let s := if g then s.modPan fun p => { p with grpReserved := p.grpReserved + 1 }
                 else if u.share = 0 && u.partial_ then
                   match extPlace s.pan.img u.ns (ownExt s u.ext) with
                   | some p => s.modPan fun q => { q with holds := (p, n) :: q.holds }
                   | none => s
                 else s
        (s, a.2 ++ [{ u with slots := l.zip slots, group := g }])
      let (s, l) := c.wunits.foldl one (s, [])
      let tags := match c.cmd with
        | .write _ _ _ _ _ _ => l.flatMap fun u => u.units
        | _ => []
      let s := s.modCtx n fun c => { c with st := .running, wunits := l, tags := tags, chan := chanOf c.port n }
      let s := match c.cmd with
        | .writeZeroes _ _ _ _ _ => s.each (l.flatMap fun u => u.slots.map fun e => (u.ns, e.1, e.2)) fun s e =>
          modSlot s e.2.2 fun x => { x with data := if c.stair.isSome then 0 else encrypt s e.1 e.2.1 0 }
        | _ => s
      if c.stair.isSome then fillStash s n
      else askHost s n

/-- The group reserved for a unit, or the hold on its extent, is given up (R178). -/
def endReserve (s : State) (n : Nat) (u : WUnit) : State :=
  s.modPan fun p => { p with
    grpReserved := if u.group then p.grpReserved - 1 else p.grpReserved,
    holds := if u.group then p.holds else p.holds.filter fun h => !(h.2 == n && some h.1 == extPlace p.img u.ns (ownExt s u.ext)) }

/-! ## Commit (R93, R94, R177, R179, R624) -/

/-- The writer whose unit is to commit: a command, or what a reset or a posting left of one. -/
structure Writer where
  cmd : HostCmd
  units : List WUnit
  fua : Bool
  tags : List Nat
  stair : Bool
  deriving DecidableEq, Repr

def writerOf (s : State) (n : Nat) : Option Writer :=
  match s.ctx n with
  | some c => if c.st = .fresh || c.st = .reserving then none
              else some { cmd := c.cmd, units := c.wunits, fua := c.fua, tags := c.tags, stair := c.stair.isSome }
  | none => (Tbl.find s.hall.tails n).map fun t =>
      { cmd := t.cmd.getD (.flush t.ns), units := t.units, fua := false, tags := [], stair := t.stair.isSome }

/-- Rewrites one atomic unit of a writer. -/
def modWunit (s : State) (n : Nat) (old new : WUnit) : State :=
  match s.ctx n with
  | some _ => s.modCtx n fun c => { c with wunits := c.wunits.map fun u => if u = old then new else u }
  | none => s.modHall fun h => { h with tails := Tbl.upd h.tails n fun t => { t with units := t.units.map fun u => if u = old then new else u } }

/-- Ordering of R93 for an atomic unit. -/
def unitTurn (s : State) (n : Nat) (u : WUnit) : Bool :=
  u.units.all fun k => mayCommit s n { ns := u.ns, first := k, count := 1 }

/-- Journal appended and not yet durable, in bytes: 32 for each record (R235). -/
def journalPending (s : State) : Nat := 32 * (s.pan.openBatch.length + s.pan.closed.foldl (fun k b => k + b.recs.length) 0)

/-- Runs of consecutive units: first and count. -/
def unitRuns : List Nat → List (Nat × Nat)
  | [] => []
  | u :: r => match unitRuns r with
    | (v, n) :: rest => if v = u + 1 then (u, n + 1) :: rest else (u, 1) :: (v, n) :: rest
    | [] => [(u, 1)]

/-- The blocks of a unit that are marked, in the overlay's entry where there is one, else in the map's. -/
def badMask (s : State) (ns u : Nat) : Nat :=
  match Tbl.find s.pan.overlay (unitKey ns u) with
  | some e => e.bad
  | none => (mapUnit s ns u).bad

/-- The mask of blocks `a` to `a + n - 1`. -/
def blockMask (a n : Nat) : Nat := (2 ^ n - 1) * 2 ^ a

/-- The merge read of a partly covered unit is started, or its answer is at hand (R179). `u` is the unit in the device's own map. (DEDUCED: log entry 56.) -/
def startMerge (s : State) (n ns u slot : Nat) (part : Nat × Nat) (stair : Bool) : State :=
  let put (d : Blk) (md : Meta) : State := modSlot s slot fun x =>
    { x with st := 2, merge := true, data := mergeData x.data d part.1 part.2, md := mergeMeta x.md md part.1 part.2 }
  let zero : Blk := if stair then 0 else encrypt s ns (if isManager s then globalUnit s u else u) 0
  let media (k v : Nat) : State :=
    if (List.range 64).any fun p => (s.port p).offers.any (fun o => o.issuer == .merge n slot) || (s.port p).dieQ.any (fun e => e.2.any fun o => o.issuer == .merge n slot) ||
        (s.seq p).descs.any (fun e => e.2.op.issuer == .merge n slot) then s
    else (readUnit s k v 0 0 (.merge n slot)).getD (mergeFailed s n)
  match Tbl.find s.pan.overlay (unitKey ns u) with
  | some e => match e.st with
    | .larder j => match Tbl.find s.ldr.slots j with
      | some x => if x.poison then mergeFailed s n else put x.data x.md
      | none => mergeFailed s n
    | .programming _ _ => s
    | .passed k v => media k v
  | none => match (mapUnit s ns u).kind with
    | .media k v => media k v
    | .unmapped | .zero => put zero 0
    | .uncorr | .lost => mergeFailed s n

/-- The slots of an atomic unit commit to the overlay: one entry for each unit, the older entries superseded, and the slots join their
stream's front (R94, R173, R177, R217). -/
def overlayCommit (s : State) (n : Nat) (u : WUnit) (units : List Nat) (place : Option Place) : State × Nat :=
  let t := s.pan.nextTag
  let s := s.modPan fun p => { p with nextTag := t + 1,
                                      commits := Tbl.put p.commits t { nsid := u.ns, extent := ownExt s u.ext, units := units.map (own s), ingest := n, group := u.group } }
  let s := units.foldl (fun s k =>
    match Tbl.find u.slots k with
    | none => s
    | some j =>
      let x := own s k
      let bad := match Tbl.find u.part k with
        | some (a, c) => badMask s u.ns x &&& (0xFF ^^^ blockMask a c)
        | none => 0
      let s := supersede s u.ns x t
      let s := s.modPan fun p => { p with overlay := Tbl.put p.overlay (unitKey u.ns x) { st := .larder j, bad := bad, commit := t } }
      modSlot s j fun y => { y with st := 3, tag := t }) s
  let s := s.modPan fun p => { p with ovHigh := max p.ovHigh p.overlay.length }
  (joinHost s u.ns (ownExt s u.ext) place (units.filterMap fun k => Tbl.find u.slots k), t)

/-- Changes made directly in the map by a commit (Write Zeroes, Write Uncorrectable, deallocation): the units leave the overlay, and the
commit settles with its last record. -/
def directCommit (s : State) (ns : Nat) (typ : Nat) (units : List Nat) : State :=
  s.each (unitRuns units) fun s r =>
    mapChange (leaveOverlay s ns r.1 r.2) { typ := typ, nsid := ns, count := r.2, first := r.1 }

/-- A tag whose durability is the record last appended. -/
def recordTag (s : State) : State × Nat :=
  let t := s.pan.nextTag
  (addDep (s.modPan fun p => { p with nextTag := t + 1 }) t (.rcd (s.pan.nextSeq - 1)), t)

/-- The mask of a Write Uncorrectable on a unit covered in part: kept in the overlay's entry where the unit is there, and set in the map
(R624). -/
def markBlocks (s : State) (ns u a c : Nat) : State :=
  let m := blockMask a c
  match Tbl.find s.pan.overlay (unitKey ns u) with
  | some e =>
    if e.bad ||| m = 0xFF then directCommit s ns 0x06 [u]
    else s.modPan fun p => { p with overlay := Tbl.put p.overlay (unitKey ns u) { e with bad := e.bad ||| m } }
  | none => mapChange s { typ := 0x06, nsid := ns, count := 1, first := u, aux := m }

/-- The change that an atomic unit of the device's own share makes, by command; answers the commit tag. -/
def applyUnit (s : State) (n : Nat) (w : Writer) (u : WUnit) : State × Nat :=
  let full := (u.units.filter fun k => !Tbl.has u.part k).map (own s)
  let direct (s : State) (typ : Nat) : State × Nat := recordTag (endReserve (directCommit s u.ns typ full) n u)
  match w.cmd with
  | .writeZeroes _ _ _ deac _ =>
    let typ := if deac && full.length = 256 then 0x04 else 0x05
    if u.part.isEmpty then direct s typ
    else
      let s := directCommit s u.ns typ full
      overlayCommit s n u (Tbl.keys u.part) none
  | .writeUncorr _ _ _ =>
    let s := s.each u.part fun s e => markBlocks s u.ns (own s e.1) e.2.1 e.2.2
    direct s 0x06
  | .dsm _ _ _ =>
    if full.length = 256 || (mapExt s u.ns (ownExt s u.ext)).isSplit || decide (groupsUsed s + 1 ≤ groupsUsable s) then direct s 0x04
    else recordTag s
  | .copy _ _ _ _ pl => overlayCommit s n u u.units pl
  | .write _ _ _ _ pl _ => overlayCommit s n u u.units pl
  | _ => overlayCommit s n u u.units none

/-- SREQ of the atomic unit of a worker's share, by command (R581). -/
def workerReq (w : Writer) : SReq :=
  match w.cmd with
  | .writeZeroes _ _ _ deac _ => { kind := 4, deac := deac, fua := w.fua }
  | .writeUncorr _ _ _ => { kind := 5, fua := w.fua }
  | .dsm _ _ _ => { kind := 3, fua := w.fua }
  | .write _ _ _ _ pl _ => { kind := 2, fua := w.fua, dspec := pl }
  | .copy _ _ _ _ pl => { kind := 2, fua := w.fua, dspec := pl }
  | _ => { kind := 2, fua := w.fua }

/-- Every unit of a writer is committed or abandoned: it is ready for completion, or waits to have settled (R93, R104, R108). -/
def writerDone (s : State) (n : Nat) : State :=
  match s.ctx n with
  | none => settleCheck s
  | some c =>
    if c.st ≠ .running || c.wunits.any (fun u => u.st == .waiting) then s
    else if c.fua || (c.stair.isSome && !c.wunits.isEmpty && (c.stair.any fun x => x.2.2.fua)) then
      let s := if c.fua then s else finishOk s n
      let fronts := (c.wunits.flatMap fun u => Tbl.vals u.slots).filterMap fun k => (Tbl.find s.ldr.slots k).map fun x => x.front
      settleCheck (s.each (fronts.dedup.filter fun f => f != 0xFF) closeFront)
    else settleCheck (finishOk s n)

/-- UNIT_COMMIT of one atomic unit: its merge reads, its admission, its turn, the room in the overlay and in the journal, then the commit. All
host data of a command is in before any unit of it commits, so that a halted command applies nothing (R67). -/
def commitUnit (s : State) (n : Nat) (w : Writer) (u : WUnit) : State :=
  if !panOn s || u.st ≠ .waiting || !w.tags.isEmpty || !unitTurn s n u || (isWorker s && s.sta.mgrLost) then s
  else if u.share ≠ 0 then
    if s.sta.reqs.any fun r => r.req.ingest == n && r.w == u.share && r.ext == u.ext then s
    else if !(unitAdmitted s w.cmd u) then s
    else askUnits s n u.share u.ns u.ext u.units (workerReq w) u.part
  else
    let open_ := u.part.filter fun e => ((Tbl.find u.slots e.1).bind fun j => Tbl.find s.ldr.slots j).any fun x => x.st == 1
    if !open_.isEmpty then
      s.each open_ fun s e => match Tbl.find u.slots e.1 with
        | some j => startMerge s n u.ns (own s e.1) j e.2 w.stair
        | none => s
    else if !(unitAdmitted s w.cmd u) then s
    else if 524288 < s.pan.overlay.length + (slotUnits w.cmd u).length then s
    else if s.pwr.straps.holdup && decide (2 ^ 21 < journalPending s + 32 * u.units.length) then s
    else if (slotUnits w.cmd u).isEmpty && (mapExt s u.ns (ownExt s u.ext)).isParked then s
    else
      let (s, t) := applyUnit s n w u
      panFlags (writerDone (modWunit s n u { u with st := .committed, tag := some t }) n)

/-! ## Resolving a reader (R101, R174, R624) -/

/-- Blocks of unit `u` that the ranges of a command read, as a mask. -/
def readMask (s : State) (c : HostCmd) (u : Nat) : Nat :=
  let l : List (Nat × Nat × Nat) := match c with
    | .read ns a n _ | .compare ns a n _ | .verify ns a n _ => [(ns, a, n)]
    | .copy ns _ _ l _ => l.map fun r => (ns, r.1, r.2)
    | _ => []
  l.foldl (fun (m : Nat) (r : Nat × Nat × Nat) =>
    let k := perUnit s r.1
    let lo := max r.2.1 (k * u)
    let hi := min (r.2.1 + r.2.2) (k * (u + 1))
    if lo < hi then m ||| blockMask (lo - k * u) (hi - lo) else m) 0

/-- A unit that reads as zeros: its data comes as the ciphertext of zeros, so that every unit is deciphered alike. -/
def dispatchZero (s : State) (n ns u : Nat) : State :=
  let d := if ((s.ctx n).bind fun c => c.stair).isSome then 0 else encrypt s ns u 0
  (setRunit s n u .zero).modLnd fun l => { l with words := l.words ++ [{ src := 64, ingest := n, unit := u, data := d, md := 0 }] }

/-- One unit of a reader resolves and is dispatched. -/
def resolveUnit (s : State) (n : Nat) (c : Ctx) (ns u : Nat) : State :=
  let (w, _) := shareOf s (u / 256)
  if isManager s && w ≠ 0 then
    if workerLostUnit s ns u then setRunit s n u (.failed 7 0xC2)
    else if workerServes s w then setRunit s n u .asked else setRunit s n u (.failed 7 0xC3)
  else
    let x := own s u
    let m := readMask s c.cmd u
    match Tbl.find s.pan.overlay (unitKey ns x) with
    | some e =>
      if m &&& e.bad ≠ 0 then setRunit s n u (.failed 2 0x81)
      else match e.st with
        | .larder k => dispatchSlot s n u k
        | .programming a b => setRunit s n u (.programming a b)
        | .passed a b => dispatchMedia s n ns u a b
    | none =>
      let s := (lookupLines s ns x).1
      let e := mapUnit s ns x
      if m &&& e.bad ≠ 0 then setRunit s n u (.failed 2 0x81)
      else match e.kind with
        | .media a b => dispatchMedia s n ns u a b
        | .unmapped => if dulbe s ns then setRunit s n u (.failed 2 0x87) else dispatchZero s n ns u
        | .zero => dispatchZero s n ns u
        | .uncorr => setRunit s n u (.failed 2 0x81)
        | .lost => setRunit s n u (.failed 7 0xC2)

/-- The units that a command reads, in order, each once. -/
def readerUnits (c : Ctx) : List Nat := (c.reads.flatMap fun x => (List.range x.count).map fun i => x.first + i).dedup

/-- The requests to workers for the units just asked for, extent by extent. -/
def askReads (s : State) (n ns : Nat) (c : Ctx) (l : List Nat) : State :=
  let asked := l.filter fun u => isManager s && (shareOf s (u / 256)).1 != 0 && workerServes s (shareOf s (u / 256)).1 && !workerLostUnit s ns u
  let kind := match c.cmd with
    | .verify _ _ _ _ => 8
    | _ => 1
  s.each (asked.map fun u => u / 256).dedup fun s e =>
    askUnits s n (shareOf s e).1 ns e (asked.filter fun u => u / 256 == e) { kind := kind } []

/-- Every unit of a reader has been delivered or has failed: the command ends, with the status of its first failing unit; a copy's data is
then all in its slots (R103). -/
def readerCheck (s : State) (n : Nat) : State :=
  match s.ctx n with
  | none => s
  | some c =>
    if c.st ≠ .running || !c.resolved || (c.reads.isEmpty) then s
    else if c.runits.any fun e => match e.2 with
        | .done => false
        | .failed _ _ => false
        | _ => true then s
    else
      let bad := c.runits.findSome? fun e => match e.2 with
        | .failed a b => some (a, b)
        | _ => none
      match c.cmd, bad with
      | .copy _ _ _ _ _, some (a, b) =>
        let s := returnSlots s c.wunits
        finish (s.modCtx n fun c => { c with wunits := c.wunits.map fun u => { u with st := .abandoned, slots := [] } }) n a b
      | .copy _ _ _ _ _, none =>
        s.each (c.wunits.flatMap fun u => u.slots.map fun e => (e.2, Tbl.has u.part e.1)) fun s e =>
          modSlot s e.1 fun x => { x with st := if x.st = 1 && !e.2 then 2 else x.st }
      | _, some (a, b) => finish s n a b
      | _, none => finishOk s n

/-- READER_RESOLVE: every unit resolves and is pinned in one step (R93, R95). -/
def resolveReader (s : State) (n : Nat) (c : Ctx) : State :=
  if !panOn s || c.resolved || c.st ≠ .running || !(c.reads.all fun x => mayResolve s n x) then s
  else
    let ns := readNs c
    let l := readerUnits c
    let s := s.modCtx n fun c => { c with resolved := true, chan := chanOf c.port n }
    let s := l.foldl (fun s u => resolveUnit s n c ns u) s
    readerCheck (askReads s n ns c l) n

/-! ## Delivering a unit to a reader (R72, R73, R354, R449) -/

/-- The protection information fields that a command selects on a namespace that has it (R70 to R73). -/
def piSelects (s : State) (ns : Nat) (pr : PrInfo) : Bool := ((nspace s ns).any fun x => x.pi != 0) && (pr.guard || pr.app || pr.ref)

/-- PRACT is 1 and the metadata is the size of the protection information, as on formats 1 and 5 (Tables 2-12, 4-5): the Porch forms the
fields of a write and strips those of a read (R71, R72). (DEDUCED: log entry 57.) -/
def piForms (s : State) (ns : Nat) (pr : PrInfo) : Bool := pr.act && (nspace s ns).any fun x => x.pi != 0 && metaBytes x.fmt == 8

/-- The metadata that goes to the host with a unit (R72). -/
def hostMeta (s : State) (ns : Nat) (pr : PrInfo) (md : Meta) : Meta := if piForms s ns pr then 0 else md

/-- The status of a failed check: guard before application tag before reference tag (R73). -/
def piStatus (pr : PrInfo) (g a r : Bool) : Status :=
  firstOf [(pr.guard && !g, 2, 0x82), (pr.app && !a, 2, 0x83), (pr.ref && !r, 2, 0x84)]

/-- The blocks of a copy go to their places in the destination's slots, enciphered there (R449): pairs of source block and destination
block. -/
def copyPairs : List (Nat × Nat) → Nat → List (Nat × Nat)
  | [], _ => []
  | (a, k) :: r, d => ((List.range k).map fun i => (a + i, d + i)) ++ copyPairs r (d + k)

def copyUnit (s : State) (c : Ctx) (ns u d : Nat) (l : List (Nat × Nat)) (plain : Blk) (md : Meta) : State :=
  let k := perUnit s ns
  let mine := (copyPairs l d).filter fun e => e.1 / k == u
  mine.foldl (fun s e =>
    let v := e.2 / k
    match c.wunits.findSome? fun x => Tbl.find x.slots v with
    | none => s
    | some j =>
      if k = 1 then modSlot s j fun x => { x with data := encrypt s ns v plain, md := md }
      else modSlot s j fun x => { x with
        data := mergeData (encrypt s ns v (setBlock 0 (e.2 % 8) (blockOf plain (e.1 % 8)))) x.data (e.2 % 8) 1,
        md := mergeMeta (md >>> (64 * (e.1 % 8)) <<< (64 * (e.2 % 8))) x.md (e.2 % 8) 1 }) s

/-- The LBA of the first block of a command that fails a check, for its Error Information entry (R73). -/
def noteBad (s : State) (n ns unit bad : Nat) : State :=
  s.modCtx n fun c => { c with badLba := some (unit * perUnit s ns + bad % perUnit s ns) }

/-- The status that taking a unit gives a reader, if it ends it. -/
def unitStatus (s : State) (ns : Nat) (c : Ctx) (g a r : Bool) (plain host : Blk) : Status :=
  match c.cmd with
  | .read _ _ _ pr | .verify _ _ _ pr => if piSelects s ns pr then piStatus pr g a r else none
  | .compare _ _ _ pr => orThen (if piSelects s ns pr then piStatus pr g a r else none) (if plain = host then none else some (2, 0x85))
  | _ => none

/-- The unit is handed on by command: to the host, to a copy's slots, as SDATA to the manager; compares and verifies keep nothing. -/
def handOn (s : State) (n : Nat) (c : Ctx) (w : HostWord) (plain : Blk) : State :=
  match c.stair, c.cmd with
  | some (link, tag, r), _ =>
    let idx := ((readerUnits c).findIdx? fun u => u == w.unit).getD 0
    if r.kind = 1 then stairTx s link 0x13 tag idx (decide (idx + 1 = (readerUnits c).length)) (.data w.data w.md) else s
  | none, .read ns _ _ pr => (s.emit (.hostData n w.unit plain (hostMeta s ns pr w.md))).modNvm fun x => { x with unitsRead := x.unitsRead + 1 }
  | none, .copy ns d _ l _ => copyUnit s c ns w.unit d l plain w.md
  | none, _ => s

/-- The blocks of a unit before the one that fails still go to the host (R72). -/
def handPart (s : State) (n : Nat) (c : Ctx) (w : HostWord) (plain : Blk) (bad : Nat) : State :=
  match c.stair, c.cmd with
  | none, .read ns _ _ pr => if bad = 0 then s else s.emit (.hostPart n w.unit bad plain (hostMeta s ns pr w.md))
  | _, _ => s

/-- A DMA channel takes a codeword of a reader: its pin is released, and the command ends when it was the last or a check fails. -/
def takeWord (s : State) (src hp : Nat) (w : HostWord) (g a r : Bool) (bad : Nat) (host : Blk) : State :=
  let s := s.modLnd fun l => { l with words := l.words.erase w, pace := Tbl.setD l.pace (2 * src + hp) (Tbl.getD l.pace (2 * src + hp) 0 - 1) 0 }
  let s := match w.pin with
    | some (.inl k) => drainCheck (unpinSlot s k)
    | some (.inr (k, u)) => unpinMedia s w.ingest k u
    | none => s
  match s.ctx w.ingest with
  | none => s
  | some c =>
    let ns := readNs c
    let plain := if c.stair.isSome then w.data else decrypt s ns w.unit w.data
    match unitStatus s ns c g a r plain host with
    | some (x, y) =>
      if x = 2 && y = 0x85 then failReader s w.ingest x y
      else failReader (noteBad (handPart s w.ingest c w plain (bad % perUnit s ns)) w.ingest ns w.unit bad) w.ingest x y
    | none => readerCheck (setRunit (handOn s w.ingest c w plain) w.ingest w.unit .done) w.ingest

/-! ## Posting (R64, R65, R97, R98, R146) -/

/-- An interrupt on a vector: sent, or pending while it is masked (R65). (PRESUMED: log entry 58.) -/
def interrupt (s : State) (p v : Nat) : State :=
  let x := s.hport p
  if !x.msixOn then s.emit (.intx p true)
  else if x.fmask || !x.unmasked.contains v then s.modHport p fun x => { x with pend := if x.pend.contains v then x.pend else v :: x.pend }
  else s.emit (.msix p v)

/-- The interrupt of a completion entry, coalesced as the features say (R146); never for the admin queue. -/
def completionIrq (s : State) (p q v : Nat) : State :=
  let f := feat s (p + 1) 0x08 0
  let cd := bitAt (feat s (p + 1) 0x09 v) 16
  if q = 0 || cd || f % 256 = 0 || bits f 8 8 = 0 then interrupt s p v
  else
    let k := Tbl.getD s.hall.coal (qkey p v) 0 + 1
    if f % 256 + 1 ≤ k then interrupt (s.modHall fun h => { h with coal := Tbl.del h.coal (qkey p v) }) p v
    else s.modHall fun h => { h with coal := Tbl.put h.coal (qkey p v) k }

/-- Whether a command of the same submission queue is older and not posted; an outstanding Asynchronous Event Request holds none. (DEDUCED: log entry 52.) -/
def olderInQueue (s : State) (n : Nat) (c : Ctx) : Bool :=
  s.hall.ctxs.any fun e => decide (e.1 < n) && e.2.port == c.port && e.2.sq == c.sq && e.2.stair.isNone &&
    !(e.2.cmd == .asyncEvent && e.2.st == .running)

/-- Deletions whose queue's completions have all been posted (R117). -/
def deleteCheck (s : State) : State :=
  s.each s.hall.sqs fun s e =>
    match e.2.deleting with
    | none => s
    | some m =>
      if s.hall.ctxs.any fun x => qkey x.2.port x.2.sq == e.1 && x.2.stair.isNone then s
      else finishOk (s.modHall fun h => { h with sqs := Tbl.del h.sqs e.1 }) m

/-- After a ring fault no write completion is posted (R421). -/
def ringHolds (s : State) (c : Ctx) : Bool := s.on BSM_STATUS.RING_FAULT && !(writeSpans s c.cmd).isEmpty

/-- COMPLETION_POST: the entry goes to host memory, then its interrupt; the context is released, and what of a write has not settled is kept
(R64, R97, R98, R104). -/
def postCompletion (s : State) (n : Nat) : State :=
  let s := readerCheck s n
  match s.ctx n with
  | none => s
  | some c =>
    let x := s.hport c.port
    match Tbl.find s.hall.sqs (qkey c.port c.sq) with
    | none => s
    | some q =>
      match Tbl.find s.hall.cqs (qkey c.port q.cq) with
      | none => s
      | some d =>
        if c.st ≠ .ready || c.stair.isSome || olderInQueue s n c || (d.tail + 1) % d.size = d.head || !x.bme || x.d3 || ringHolds s c || s.pwr.frozen then s
        else
          let s := s.emit (.completion c.port c.sq c.cid q.cq q.head c.sct c.sc c.dw0 d.phase)
          let last := decide (d.tail + 1 = d.size)
          let s := s.modHall fun h => { h with
            cqs := Tbl.put h.cqs (qkey c.port q.cq) { d with tail := if last then 0 else d.tail + 1, phase := if last then !d.phase else d.phase },
            ctxs := Tbl.del h.ctxs n,
            tails := if unitsSettled s c.wunits then h.tails else Tbl.put h.tails n { ns := ((c.writes.head?).map fun y => y.ns).getD 0, units := c.wunits, cmd := some c.cmd } }
          deleteCheck (if d.ien then completionIrq s c.port q.cq d.iv else s)

/-! ## Resets (Table 3-9, R119 to R121) and queue deletion (R117) -/

/-- What a reset does with one command of the port. -/
def resetCtx (s : State) (n : Nat) (c : Ctx) : State :=
  let s := dropTags (dropReader s n) n
  let keep (u : WUnit) : Bool := u.st != .waiting || (c.st != .reserving && c.st != .fresh && unitAdmitted s c.cmd u && c.tags.isEmpty)
  let gone := c.wunits.filter fun u => !keep u
  let s := returnSlots s gone
  let left := c.wunits.filter keep
  let s := s.modSta fun x => { x with reqs := x.reqs.filter fun r => !(r.req.ingest == n && gone.any fun u => u.share == r.w && u.ext == r.ext) }
  s.modHall fun h => { h with
    ctxs := Tbl.del h.ctxs n,
    tails := if left.isEmpty || unitsSettled s left then h.tails
             else Tbl.put h.tails n { ns := ((c.writes.head?).map fun y => y.ns).getD 0, units := left, cmd := some c.cmd } }

/-- Every ingested command of the port is resolved and its queues, events and settings of the controller go (R119, R120). -/
def resolvePort (s : State) (p : Nat) : State :=
  let s := s.each (s.hall.ctxs.filter fun e => e.2.port == p && e.2.stair.isNone) fun s e => resetCtx s e.1 e.2
  let s := s.modHall fun h => { h with
    sqs := Tbl.keep h.sqs fun k _ => k / 65536 != p, cqs := Tbl.keep h.cqs fun k _ => k / 65536 != p,
    arb := Tbl.del h.arb p, events := h.events.filter fun e => e.port != p, coal := Tbl.keep h.coal fun k _ => k / 65536 != p,
    snaps := Tbl.keep h.snaps fun k _ => k / 256 != p, snapEnts := Tbl.del h.snapEnts p, apst := Tbl.del h.apst p,
    activating := match h.activating with
      | some m => if (s.ctx m).isSome then some m else none
      | none => none }
  let s := s.modNvm fun x => { x with
    queuesSet := x.queuesSet.filter fun q => q != p, fwBuf := [], fwLen := 0, feats := Tbl.keep x.feats fun k _ => k / 2 ^ 24 != p + 1 }
  let s := s.modStg fun g => { g with sessions := Tbl.del g.sessions p }
  settleCheck s

/-- The controller of a port is reset: its commands are resolved and CSTS reads 0 (R74, R120). A halted channel reports nothing (R77). (PRESUMED: log entry 55.) -/
def resetController (s : State) (p : Nat) : State :=
  let s := resolvePort s p
  let s := s.modPorch fun x => { x with chans := (Tbl.mapV x.chans fun c y =>
    if c / 64 = p then { y with tags := [], state := 0, cmd := none } else y).filter fun e => e.2 != {} }
  s.modHport p fun x => { x with en := false, rdy := false, cfs := false, shst := 0 }

/-- A command of a queue under deletion (R117). -/
def deleteCtx (s : State) (n : Nat) (c : Ctx) : State :=
  match c.cmd with
  | .read _ _ _ _ | .compare _ _ _ _ | .verify _ _ _ _ => if c.st = .ready then s else failReader (dropTags s n) n 0 8
  | .flush _ | .ioMgmtRecv _ | .ioMgmtSend _ _ => finish s n 0 8
  | _ =>
    if c.st = .ready then s
    else if c.st = .fresh || c.st = .reserving then finish (s.modCtx n fun c => { c with wunits := [] }) n 0 8
    else if c.wunits.all fun u => u.st != .waiting || (unitAdmitted s c.cmd u && c.tags.isEmpty)  then s
    else
      let s := dropReader (dropTags s n) n
      let s := if c.tags.isEmpty then s
               else (returnSlots s c.wunits).modCtx n fun c => { c with wunits := c.wunits.map fun u => if u.st = .waiting then { u with st := .abandoned, slots := [] } else u }
      cutWriter s n 0 8

end Sys2Proof.Machine
end

