-- ==== Sys2Proof/Machine/Power.lean ====
section
/-!
DEFINITION. Power, clocks and heat (chapter 14): what a loss of power and a reset leave, the dump (R236 to R241), PWRFAIL#, the
non-operational states, the time base across sleep, the Chimney.
-/
namespace Sys2Proof.Machine

/-! ## What a loss of power leaves (R524, R541) -/

/-- The newest configuration record of a TYPE, as one number (R480). -/
def confWord (s : State) (typ : Nat) : Nat := ((Tbl.getD s.clo.conf typ []).head?).getD 0

/-- A configuration record is appended; it governs from then on (R480). -/
def confAppend (s : State) (typ : Nat) (payload : List Nat) : State :=
  s.modClo fun c => { c with conf := Tbl.put c.conf typ payload, confSeq := c.confSeq + 1 }

/-- The 65,536 bytes from `base` on hold values the specification leaves open. -/
def fillOpen (t : Tbl Byte) (base f : Nat) : Tbl Byte :=
  (List.range 65536).foldl (fun (t : Tbl Byte) k => Tbl.setD t (base + k) (Config.freeByte (f + k)) 0xFF) t

/-- An erase that does not run to its end leaves its sector undefined (Table 13-10): free values, and no image leaf. (DESIGN CHOICE: log entry 89.) -/
def norUndefined (s : State) (sec : Nat) : State :=
  let f := s.free
  (s.ticks 65536).modClo fun c => { c with
    nor := fillOpen c.nor (sec * 65536) f,
    slots := Tbl.mapV c.slots fun k x =>
      let first := if k = 1 then 200 else if k = 2 then 8 else 520
      if first ≤ sec && decide (sec < first + 192) then { x with leaves := Tbl.del x.leaves (sec - first) }
      else x }

/-- A page program that the power cuts short (R490, Table 13-10): which of its bits reached 0, and which of those are left marginal, is not
determined: free values. An erase cut short leaves the sector undefined. -/
def cutCloset (s : State) : State :=
  match s.clo.op with
  | none => s
  | some o =>
    let s := s.modClo fun c => { c with op := none, confirming := false }
    if o.kind = 1 then
      let s := s.each ((List.range o.page.length).zip o.page) fun s p =>
        let a := o.addr + p.1
        let old := (Tbl.getD s.clo.nor a 0xFF).toNat
        let want := old &&& p.2.toNat
        let hit := Config.freeNat s.free % 256 &&& (old ^^^ want)
        let weak := Config.freeNat (s.free + 1) % 256 &&& hit
        let s := s.tick.tick
        s.modClo fun c => { c with
          nor := Tbl.setD c.nor a (BitVec.ofNat 8 (old ^^^ hit)) 0xFF,
          marginal := c.marginal ++ ((List.range 8).filter fun i => bitAt weak i).map fun i => 8 * a + i }
      s
    else if o.kind = 2 then norUndefined s (o.addr / 65536)
    else s

/-- Everything volatile takes its reset value; what the flash, the Closet, the fuses and the board hold stays, with the registers that
`keep` names. HAL_DEFER_CNT counts since manufacture (Table 3-12). Ranges with locking enabled are locked (LockOnReset, Table 12-5). -/
def blank (s : State) (keep : Nat → Bool) : State :=
  { regs := s.regs.filter fun e => keep e.1 || e.1 == HAL_DEFER_CNT.addr
    pwr := {
      pins := s.pwr.pins, straps := s.pwr.straps, pwrfail := s.pwr.pwrfail, holdupOk := s.pwr.holdupOk, vaux := s.pwr.vaux,
      lowMains := s.pwr.lowMains, por := s.pwr.por, shutLatch := s.pwr.shutLatch, shutSensor := s.pwr.shutSensor,
      shutReading := s.pwr.shutReading, shutSeen := s.pwr.shutSeen, opSec := s.pwr.opSec, powerCycle := s.pwr.powerCycle,
      releaseCount := s.pwr.releaseCount, resetCause := s.pwr.resetCause, wakeOut := s.pwr.wakeOut }
    chm := { vcoreFuse := s.chm.vcoreFuse }
    atc := {
      mark := s.atc.mark, mirror := s.atc.mirror, mirrorSector := s.atc.mirrorSector, clearCount := s.atc.clearCount,
      clearPending := s.atc.clearPending, everFull := s.atc.everFull, segs := s.atc.segs, segSlots := s.atc.segSlots,
      copyFirst := s.atc.copyFirst, copySecond := s.atc.copySecond, dstResults := s.atc.dstResults, extCount := s.atc.extCount }
    clo := {
      nor := s.clo.nor, marginal := s.clo.marginal, op := s.clo.op, slots := s.clo.slots, conf := s.clo.conf, confSeq := s.clo.confSeq }
    stg := {
      fuses := s.stg.fuses, blobs := s.stg.blobs, seedA := s.stg.seedA, seedB := s.stg.seedB, nextSeq := s.stg.nextSeq,
      writeSector := s.stg.writeSector, usedSectors := s.stg.usedSectors, creds := s.stg.creds, activated := s.stg.activated,
      gens := s.stg.gens, tamperErased := s.stg.tamperErased,
      ranges := Tbl.mapV s.stg.ranges fun _ r => { r with rl := r.rl || r.rle, wl := r.wl || r.wle, pend := none } }
    porch := { ports := Tbl.mapV s.porch.ports fun _ x => { perst := x.perst } }
    hall := { defer_ := s.hall.defer_, deferGen := s.hall.deferGen }
    nvm := {
      spaces := s.nvm.spaces, sanitize := s.nvm.sanitize, sanErased := s.nvm.sanErased, sanFailed := s.nvm.sanFailed, lost := s.nvm.lost, sanLast := s.nvm.sanLast,
      tempHist := s.nvm.tempHist, ports := s.nvm.ports, dstSeconds := s.nvm.dstSeconds, integrity := s.nvm.integrity,
      hostUnitsWritten := s.nvm.hostUnitsWritten, unitsRead := s.nvm.unitsRead, mediaUnits := s.nvm.mediaUnits,
      erasedUnits := s.nvm.erasedUnits, tsValue := confWord s 0x08, tsSynch := true }
    pan := { flash := s.pan.flash, cleanEnd := s.pan.cleanEnd }
    ldr := { dumpImg := s.ldr.dumpImg, lossResult := s.ldr.lossResult }
    cel := { retiredTable := s.cel.retiredTable }
    scu := {
      suites := s.scu.suites, badBlocks := s.scu.badBlocks, retiredDies := s.scu.retiredDies, suspects := s.scu.suspects,
      permanent := s.scu.permanent, lastStatic := s.scu.lastStatic, initialSpare := s.scu.initialSpare, ledger := s.scu.ledger,
      walk := s.scu.walk, lapStart := s.pwr.opSec }
    bsm := { gib := s.bsm.gib, retiredRec := s.bsm.retiredRec, lapStart := s.pwr.opSec }
    sta := {
      reqs := s.sta.reqs.map fun r => { r with sent := [], lost := false }, unsettled := s.sta.unsettled, mgrId := s.sta.mgrId,
      selfId := s.sta.selfId, share := s.sta.share, weight := s.sta.weight, seqLen := s.sta.seqLen }
    out := s.out, free := s.free, pending := s.pending }

/-- Only the always-on domain is powered; STD_WAKE_TIMER and the shutdown latch outlive it (R524, R540). (DEDUCED: log entry 85.) (DEDUCED: log entry 87.) -/
def enterOff (s : State) : State :=
  let thermal := s.pwr.thermal
  let started := s.pwr.dumpStarted
  let again := s.pwr.restart
  (blank s fun a => a == STD_WAKE_TIMER.addr).modPwr fun p => { p with
    st := .off, dumpStarted := started, por := p.por || again, shutLatch := p.shutLatch || (thermal && p.vaux),
    shutSeen := p.shutSeen || thermal }

/-! ## Starting (R320, R508, R552, R553, R559) -/

/-- The Attic at a start: NEXT_SEQ is the last durable mark; the newest ATTIC_CLEAR and the mirrored records younger than it are loaded,
the newest 8,192; ATTIC_START is posted. A watchdog reset keeps the ring (R552, R559). (DEDUCED: log entry 122.) -/
def atticStart (s : State) (keepRing : Option Attic) : State :=
  let recs := s.atc.mirror.flatMap fun e => e.2
  let recs := recs.mergeSort fun a b => !olderSeq b.seq a.seq
  let clear := (recs.filter fun r => r.code == 0x0002).getLast?
  let loaded := lastN 8192 (match clear with
    | some c => recs.filter fun r => !olderSeq r.seq c.seq
    | none => recs)
  let first := s.atc.mark.getD 0
  let s := s.modAtc fun a => match keepRing with
    | some k => { a with ring := k.ring, waiting := k.waiting, nextSeq := first, dropped := 0, full := a.everFull }
    | none => { a with ring := loaded, nextSeq := first, full := a.everFull }
  let found := match (s.atc.ring.getLast?) with
    | some r => (r.seq + 1) % 2 ^ 32
    | none => 0
  post s 0x0001 1 0xC 0xFF first found s.atc.ring.length (b2n s.atc.everFull)

/-- The boot ROM starts: it posts what the reset must report and goes on to choose an image (R320, R509, R541). -/
def bootStart (s : State) (keepRing : Option Attic) : State :=
  let cause := s.pwr.resetCause
  let s := atticStart s keepRing
  let s := if cause = 0 then s else post s 0x0010 3 9 0xFF cause
  let s := if s.chm.shutPrior then post s 0x0013 5 0xB 0xFF s.pwr.shutSensor s.pwr.shutReading else s
  s.modPwr fun p => { p with bootWait := true, resetCause := 0 }

/-- POWER_ON_RESET_RELEASE: every main supply has been in range for 2 ms; the straps are sampled (R2, R508), the power-cycle record is
appended (R480), operating time and the count are restored (R532, R553). (DEDUCED: log entry 33.) (DEDUCED: log entry 86.) -/
def execPowerOnResetRelease (s : State) : Host.Outcome State Fault Refusal :=
  if !s.pwr.por || !s.pwr.lowMains.isEmpty || s.pwr.shutLatch then .next s
  else
    let s := blank s fun a => a == STD_WAKE_TIMER.addr
    let s := confAppend s 0x01 [confWord s 0x01 + 1]
    let prior := s.pwr.shutSeen
    let s := s.modPwr fun p => { p with
      por := false, straps := p.pins, st := .ps0, wakeOut := false, powerCycle := confWord s 0x01, opSec := confWord s 0x07,
      shutSeen := false }
    .next (bootStart (((s.modChm fun c => { c with shutPrior := prior }).modScu fun x => { x with lapStart := s.pwr.opSec }).modBsm fun x =>
      { x with lapStart := s.pwr.opSec }) none)

/-- Steps 3 and 4 of the watchdog reset (R320): all but the always-on domain and the Closet is reset; the straps and the power-cycle count
stay; WP_LOCK clears with BOOT_DONE (R479). -/
def watchdogRestart (s : State) (cause : Nat) : State :=
  let ring := s.atc
  let closet (a : Nat) : Bool := decide (CLO_CTL.addr < a ∧ a < CLO_CTL.addr + 0x10000)
  let stg := s.stg
  let s := (blank s fun a => a == STD_WAKE_TIMER.addr || closet a).modPwr fun p => { p with resetCause := cause }
  let s := s.modStg fun g => { g with tries := stg.tries, blockSid := stg.blockSid }
  bootStart s (some ring)

/-! ## The dump (R236 to R241) -/

/-- Wordlines of a dump kind of `bytes` bytes. -/
def dumpWords (s : State) (bytes : Nat) : Nat := ceilDiv (ceilDiv bytes 4096) (max 1 (slotsPerWl s 1))

/-- Groups of at most `k` slots. -/
def chunks (k : Nat) (l : List Nat) : List (List Nat) := (List.range (ceilDiv l.length (max 1 k))).map fun i => (l.drop (k * i)).take k

/-- A write's units at the freeze: those fully admitted and not yet committed (wave C). -/
def waveC (s : State) : List (Nat × WUnit) :=
  s.hall.ctxs.flatMap fun e =>
    if e.2.st == .running && e.2.tags.isEmpty then
      (e.2.wunits.filter fun u => u.st == .waiting && !u.slots.isEmpty && unitAdmitted s e.2.cmd u).map fun u => (e.1, u)
    else []

/-- The freeze: slots of atomic units not fully admitted are returned; reclaim and pad slots are left out; what the manifest names is
fixed (R236 step 1 and wave A). -/
def freeze (s : State) (manifestOnly : Bool) : State :=
  let late := s.hall.ctxs.flatMap fun e => if e.2.st == .running && e.2.tags.isEmpty then e.2.wunits.filter fun u => !unitAdmitted s e.2.cmd u else e.2.wunits
  let s := returnSlots s late
  let host := Tbl.keep s.ldr.slots fun _ x => decide (x.stream ≤ 1) && x.st != 5 && x.st != 6
  let start := ((s.pan.closed.head?).map fun b => b.firstSeq).getD s.pan.openFirst
  let tail := s.pan.closed.flatMap (fun b => b.recs) ++ s.pan.openBatch
  s.modLdr fun l => { l with dumpImg := some {
    manifestOnly := manifestOnly, overlay := s.pan.overlay, commits := s.pan.commits, slots := if manifestOnly then [] else host,
    units := waveC s, tail := ((List.range tail.length).map fun i => start + i).zip tail, nextTag := s.pan.nextTag,
    cycle := s.pwr.powerCycle } }

/-- The dump programs, wave by wave, on the dies of the area in turn; the directory on two dies. -/
def offerDump (s : State) (img : DumpImg) : State :=
  let k := slotsPerWl s 1
  let metaWl := dumpWords s (32 * 16384) + dumpWords s (64 * 16384) + dumpWords s (16 * img.overlay.length) + dumpWords s (32 * img.tail.length)
  let waveA := (List.range metaWl).map fun _ => (1, ([] : List Nat))
  let parity := (s.ldr.slots.filter fun e => e.2.st == 5).map fun e => e.1
  let late := img.units.flatMap fun u => Tbl.vals u.2.slots
  let kept := (Tbl.keys img.slots).filter fun i => !late.contains i
  let waveB := (chunks k parity ++ chunks k kept).map fun l => (2, l)
  let waveCs := (chunks k late).map fun l => (3, l)
  let all := if img.manifestOnly then waveA else waveA ++ waveB ++ waveCs ++ [(4, []), (4, [])]
  s.each ((List.range all.length).zip all) fun s p => dumpProgram s p.1 p.2.1 p.2.2 (if p.2.2.isEmpty then k else p.2.2.length)

/-- PWRFAIL# or another loss begins: with hold-up the dump or the manifest-only dump, else none (R30, R33, R241). DUMP_ARM is cleared. -/
def startDump (s : State) : State :=
  let ready := dumpReady s
  let manifest := s.on LDR_CTL.DUMP_ARM && s.on LDR_CTL.CFG_LOCK && !s.pwr.holdupOk
  let s := s.clr1 LDR_CTL.DUMP_ARM
  let s := s.modLdr fun l => { l with dumpImg := none }
  if !s.pwr.straps.holdup then s.modLdr fun l => { l with lossResult := 4 }
  else if ready || manifest then
    let s := freeze s (!ready)
    match s.ldr.dumpImg with
    | some img => offerDump (s.modPwr fun p => { p with dumpStarted := true }) img
    | none => s
  else s.modLdr fun l => { l with lossResult := 6 }

/-- The dump has ended, or none was made, and the device goes down: a watchdog reset that waited for it goes on, else Off. -/
def afterDump (s : State) : State :=
  match s.pwr.afterDump with
  | some c => watchdogRestart s c
  | none => enterOff s

/-- Fetching and program starts stop, the dump begins; without one the device goes down at once. -/
def goDown (s : State) : State :=
  let s := startDump (s.modPwr fun p => { p with frozen := true })
  if s.pwr.dumpStarted then s else afterDump s

/-- A restart as after a power loss (R32): the dump first, then Off and power-on reset. -/
def restartAfterLoss (s : State) : State := goDown (s.modPwr fun p => { p with restart := true })

/-- A watchdog reset (R320), or steps 1 to 4 of it with another cause (R494, R499): the dump when DUMP_READY is 1, then the reset. (DEDUCED: log entry 93.) -/
def watchdogReset (s : State) (cause : Nat) : State := goDown (s.modPwr fun p => { p with afterDump := some cause })

/-- Whether the device is up: neither in power-on reset nor in Off, its image chosen. -/
def running (s : State) : Bool := !s.pwr.por && s.pwr.st != .off && !s.pwr.bootWait

/-- PWRFAIL_ASSERT. In PS3 and PS4 it wakes the device by hardware: the PLL locks, every domain runs (R523); in PS5 it leads straight to
Off. -/
def execPwrfailAssert (s : State) : Host.Outcome State Fault Refusal :=
  if s.pwr.pwrfail then .next s
  else
    let s := s.modPwr fun p => { p with pwrfail := true, releaseCount := false }
    if !running s then .next s
    else if s.pwr.st = .ps5 then .next (enterOff (startDump (s.set1 STD_WAKE_STATUS.PWRFAIL)))
    else
      let slept := asleep s
      let s := wake s 4
      let s := if slept then ((s.set1 STD_CLK_CTL.PLL_EN).set1 STD_CLK_CTL.PLL_LOCK).wr ⟨STD_DOMAIN_EN.addr, 0, 0, 27⟩ 0x7FFFF0F else s
      .next (startDump (s.modPwr fun p => { p with frozen := true }))

/-- PWRFAIL_DEASSERT: the 1 ms count starts (R625, R608). -/
def execPwrfailDeassert (s : State) : Host.Outcome State Fault Refusal :=
  .next (if s.pwr.pwrfail then s.modPwr fun p => { p with pwrfail := false, releaseCount := true } else s)

/-- PWRFAIL_RELEASE_EXPIRY: with a dump program started R32 applies; else the device resumes, and the Attic records it under a code that no
rule gives (a free value) (R625). -/
def execPwrfailReleaseExpiry (s : State) : Host.Outcome State Fault Refusal :=
  if !s.pwr.releaseCount || s.pwr.pwrfail || !s.pwr.lowMains.isEmpty then .next s
  else
    let s := s.modPwr fun p => { p with releaseCount := false }
    if s.pwr.por || s.pwr.bootWait then .next s
    else if s.pwr.st = .off then .next (s.modPwr fun p => { p with por := p.por || !p.shutLatch })
    else if s.pwr.dumpStarted then .next (s.modPwr fun p => { p with restart := true })
    else if !s.pwr.frozen then .next s
    else
      let code := Config.freeNat s.free % 65536
      .next (wtCheck (pumpAll (post (s.tick.modPwr fun p => { p with frozen := false }) code 3 9)))

/-- DUMP_DIRECTORY_PASS: the dump is complete (with the manifest alone, its last program has passed), and the Study enters Off, or goes on
with the reset that waited for it (R238, R320). -/
def execDumpDirectoryPass (s : State) : Host.Outcome State Fault Refusal :=
  .next (if s.pwr.dumpStarted && s.pwr.st != .off then afterDump s else s)

/-! ## Supplies (R508 to R511, R541, R611) -/

/-- MAIN_SUPPLY_DROP: power-on reset is asserted. With PWRFAIL# deasserted this is an unannounced loss: no dump (R509); after a clean
shutdown nothing is lost (R198, R524). -/
def execMainSupplyDrop (m : MainSupply) (s : State) : Host.Outcome State Fault Refusal :=
  if s.pwr.lowMains.contains m then .next s
  else
    let up := !s.pwr.por && s.pwr.st != .off
    let s := s.modPwr fun p => { p with lowMains := m :: p.lowMains }
    let sudden := up && !s.pwr.pwrfail && !s.pwr.dumpStarted && !(s.pan.cleanEnd && s.pan.closed.isEmpty && s.pan.openBatch.isEmpty)
    let s := if sudden then
        (s.modLdr fun l => { l with dumpImg := none, lossResult := if s.pwr.straps.holdup then 0 else 4 }).modPwr fun p => { p with resetCause := 3 }
      else s
    let s := cutCloset s
    .next ((blank s fun a => a == STD_WAKE_TIMER.addr).modPwr fun p => { p with por := true, st := if p.vaux then .off else .ps0 })

/-- VAUX_LOSS: the always-on domain is reset and the shutdown latch clears (R510, R541, R611). -/
def execVauxLoss (s : State) : Host.Outcome State Fault Refusal :=
  let s := s.modPwr fun p => { p with vaux := false, shutLatch := false, wakeOut := false }
  .next (s.wr STD_WAKE_TIMER.SECONDS 0)

/-- VAUX_APPLY: VAUX is back above its threshold. -/
def execVauxApply (s : State) : Host.Outcome State Fault Refusal := .next (s.modPwr fun p => { p with vaux := true })

/-- Every main supply. -/
def allMains : List MainSupply := [.vcore, .vsram, .vserdesL, .vserdesH, .vddq, .vio]

/-- SHUTDOWN_LATCH_CLEAR: every main supply has stayed below its threshold for 10 ms (R541). -/
def execShutdownLatchClear (s : State) : Host.Outcome State Fault Refusal :=
  .next (if s.pwr.shutLatch && allMains.all fun m => s.pwr.lowMains.contains m then s.modPwr fun p => { p with shutLatch := false } else s)

/-- REFCLK_LOSS: REF_LOST is set, the device acts as on PWRFAIL# and then enters Off until the next power-on reset (R514). -/
def execRefclkLoss (s : State) : Host.Outcome State Fault Refusal :=
  if !running s || s.on STD_CLK_CTL.REF_LOST || s.pwr.dumpStarted then .next s
  else .next (goDown ((s.set1 STD_CLK_CTL.REF_LOST).modPwr fun p => { p with resetCause := 4 }))

/-! ## Wake sources (R520, R525) -/

/-- LINK_WAKE: the port leaves L1.2, or returns to D0 from D3hot; it wakes from PS5. -/
def execLinkWake (p : Nat) (s : State) : Host.Outcome State Fault Refusal :=
  .next (wake (s.modHport p fun x => if x.d3 then { x with d3 := false } else { x with lstate := 0 }) 2)

/-- WAKE_TIMER_EXPIRY: TIMER in PS3 to PS5; in Off WAKE# is asserted, but not while the shutdown latch is set (R525). -/
def execWakeTimerExpiry (s : State) : Host.Outcome State Fault Refusal :=
  if s.rd STD_WAKE_TIMER.SECONDS = 0 then .next s
  else
    let s := s.wr STD_WAKE_TIMER.SECONDS 0
    if s.pwr.st = .off then .next (if s.pwr.shutLatch || !s.pwr.vaux then s else (s.modPwr fun p => { p with wakeOut := true }).emit .wakeAsserted)
    else .next (wake s 6)

/-- I3C_STATIC_ADDRESS_START: in Off it asserts WAKE#. -/
def execI3cStaticAddressStart (s : State) : Host.Outcome State Fault Refusal :=
  .next (if s.pwr.st = .off && !s.pwr.shutLatch && s.pwr.vaux then (s.modPwr fun p => { p with wakeOut := true }).emit .wakeAsserted else s)

/-! ## Clocks (R512, R521, R528 to R531, R544, R545) -/

/-- PLL_ENABLE: a write of 1 to PLL_EN. -/
def execPllEnable (s : State) : Host.Outcome State Fault Refusal := .next (if s.pwr.st = .off || s.pwr.por then s else s.set1 STD_CLK_CTL.PLL_EN)

/-- PLL_LOCK: the root PLL locks. -/
def execPllLock (s : State) : Host.Outcome State Fault Refusal :=
  .next (if s.on STD_CLK_CTL.PLL_EN && !s.on STD_CLK_CTL.REF_LOST then s.set1 STD_CLK_CTL.PLL_LOCK else s)

/-- The time base takes back the slow count: ticks times the latched period, in units of 2^-16 ticks, rounded to whole ticks (R531). -/
def advanceTime (s : State) : State :=
  if s.pwr.timeOnLso then
    s.modPwr fun p => { p with time := p.time + BitVec.ofNat 64 ((p.lsoCount * p.lsoPeriod + 2 ^ 15) / 2 ^ 16), timeOnLso := false, lsoCount := 0 }
  else s

/-- CLOCK_SELECT: a write of 1 to SEL; discarded while PLL_LOCK is 0; the time base is advanced first (R521, R531). -/
def execClockSelect (s : State) : Host.Outcome State Fault Refusal :=
  .next (if s.on STD_CLK_CTL.PLL_LOCK then ((advanceTime s).set1 STD_CLK_CTL.SEL).modStd fun d => { d with clockPll := true } else s)

/-- STD_DOMAIN_EN_WRITE: discarded while SEL is 0; the enabled DRAM subchannels leave self-refresh and the sleeping ports of each enabled group
retrain uncounted (R284, R521, R545). -/
def execStdDomainEnWrite (v : U64) (s : State) : Host.Outcome State Fault Refusal :=
  if !s.on STD_CLK_CTL.SEL then .next s
  else
    let s := s.wr ⟨STD_DOMAIN_EN.addr, 0, 8, 19⟩ (bits v.toNat 8 19) |>.wr STD_DOMAIN_EN.FABRIC (v.toNat % 16)
    let s := s.each [0, 1] fun s k =>
      if bitAt v.toNat (16 + k) && s.rd (BSM_SUBCH_STATUS.STATE k) = 4 then s.wr (BSM_SUBCH_STATUS.STATE k) 1 else s
    .next (s.each ((List.range 64).filter fun n => bitAt v.toNat (19 + n / 8) && portState s n == 8) fun s n => startRetrain s n 6 false)

/-- STD_PAD_RELEASE: latched outputs follow their domains again (R527). -/
def execStdPadRelease (s : State) : Host.Outcome State Fault Refusal := .next (s.modPwr fun p => { p with padLatched := false })

/-- LSO_CORRECTION: the slow ticks of the second just ended, corrected for temperature by `corr` ticks, count while the time base stands on
the LSO; while the root PLL runs the calibration is renewed (R529). -/
def execLsoCorrection (ticks : Nat) (corr : Int) (s : State) : Host.Outcome State Fault Refusal :=
  .next (if s.pwr.timeOnLso then s.modPwr fun p => { p with lsoCount := p.lsoCount + ((ticks : Int) + corr).toNat }
    else if s.on STD_CLK_CTL.SEL && ticks ≠ 0 then
      (s.wr STD_LSO_CAL.PERIOD (97656250 * 65536 / (((ticks : Int) + corr).toNat))).wr STD_LSO_CAL.AGE 0
    else s)

/-! ## Entering a non-operational state (R517, R518, Table 14-4) -/

/-- The hardware's steps for PS3, PS4 or PS5. A wake source latched meanwhile takes the device out at once (R519). -/
def enterNonop (s : State) (mode : Nat) : State :=
  let st : PwrState := if mode = 3 then .ps3 else if mode = 4 then .ps4 else .ps5
  let s := s.modPwr fun p => { p with st := st, leftFrom := p.st, idleReported := false }
  let s :=
    if mode = 3 then s
    else
      let s := s.each ((List.range 64).filter fun n => portState s n == 5) fun s n =>
        setPortState (s.modPort n fun p => { p with ackDue := false, ackTimer := false }) n 8
      let s := s.each ([0, 1].filter fun k => s.rd (BSM_SUBCH_STATUS.STATE k) == 1) fun s k => s.wr (BSM_SUBCH_STATUS.STATE k) 4
      let s := s.modPwr fun p => { p with timeOnLso := true, lsoCount := 0, lsoPeriod := s.rd STD_LSO_CAL.PERIOD }
      let s := ((s.clr1 STD_CLK_CTL.SEL).clr1 STD_CLK_CTL.PLL_EN).clr1 STD_CLK_CTL.PLL_LOCK
      let s := (s.wr ⟨STD_DOMAIN_EN.addr, 0, 0, 27⟩ 0).modStd fun d => { d with clockPll := false }
      if s.atc.full then pageProgram s else s
  let s :=
    if mode ≠ 5 then s
    else
      let s := s.modPan fun p => { p with cache := [], invSweep := false }
      let s := s.clr1 PAN_STATUS.INV_DONE
      s.modPwr fun p => { p with padLatched := p.straps.padmode }
  if s.rd ⟨STD_WAKE_STATUS.addr, 0, 0, 7⟩ ≠ 0 then wake s (lowestBit 7 (s.rd ⟨STD_WAKE_STATUS.addr, 0, 0, 7⟩)) else s

/-! ## Heat (R533 to R542) -/

/-- The zone of a sensor (Table 14-8). -/
def zoneOf (k : Nat) : Nat := min 7 (k / 3)

/-- The neighbours of a sensor (R533). -/
def neighbours (k : Nat) : List Nat := if k = 24 then [22, 23] else [(k + 23) % 24, (k + 1) % 24]

def State.sensor (s : State) (k : Nat) : Sensor := Tbl.getD s.chm.sensors k {}

/-- The mean of the last four conversions, in 0.25 °C. -/
def Sensor.reading (x : Sensor) : Int := x.last4.foldl (· + ·) 0 / max 1 x.last4.length

/-- Whether a sensor's reading is valid (R535). -/
def Sensor.ok (x : Sensor) : Bool := !x.last4.isEmpty && x.broken == 0

/-- Why a sensor is broken: 1 out of range, 2 stuck, 3 far from both neighbours (R535, Table 14-16). -/
def brokenCause (s : State) (k : Nat) (x : Sensor) : Nat :=
  let r := x.reading
  let near := (neighbours k).map fun j => s.sensor j
  if decide (r < -200) || decide (600 < r) then 1
  else if 1000 ≤ x.same then 2
  else if near.all fun y => !y.last4.isEmpty && decide (60 < (y.reading - r).natAbs) then 3
  else 0

/-- Hottest valid reading of the sensors `l`. -/
def hottest (s : State) (l : List Nat) : Option Int :=
  ((l.map fun k => s.sensor k).filter Sensor.ok).foldl (fun a x => match a with
    | none => some x.reading
    | some y => some (max y x.reading)) none

def zoneSensors (z : Nat) : List Nat := (List.range 25).filter fun k => zoneOf k == z

def zoneBroken (s : State) (z : Nat) : Bool := (zoneSensors z).any fun k => (s.sensor k).broken != 0

/-- Whether die `d` of port `n` is broken (R535): no valid reading, none for 1 s while ACTIVE, or far from each present neighbour. -/
def dieBroken (s : State) (n d : Nat) : Bool :=
  let x := Tbl.getD s.chm.dies (16 * n + d) {}
  let near := ([d - 1, d + 1].filter fun j => j != d && decide (j < 16) && diePresent s n j).map fun j => Tbl.getD s.chm.dies (16 * n + j) {}
  !x.valid || (decide (1000 ≤ x.ageMs) && s.rd (CEL_PORT_STATUS.STATE n) == 5) ||
  (!near.isEmpty && near.all fun y => decide (60 < (y.reading - x.reading).natAbs))

/-- The hottest valid die of a port. -/
def hottestOf (s : State) (n : Nat) : Option Int :=
  ((List.range 16).filter fun d => diePresent s n d && !dieBroken s n d).foldl (fun a d =>
    let r := (Tbl.getD s.chm.dies (16 * n + d) {}).reading
    match a with
    | none => some r
    | some y => some (max y r)) none

/-- Ports with a zone: populated and not retired. -/
def zonePorts (s : State) : List Nat := (List.range 64).filter fun n => populated s n && !portRetired s n && portMode s n == 1

/-- The composite temperature in 0.25 °C: the hottest valid reading anywhere (R534). -/
def composite (s : State) : Int :=
  (((hottest s (List.range 25)).toList ++ (zonePorts s).filterMap (hottestOf s)).foldl (fun (a : Option Int) x => match a with
    | none => some x
    | some y => some (max x y)) none).getD 0

/-- A reading in 0.25 °C as Kelvin. -/
def kelvin (q : Int) : Nat := (q / 4 + 273).toNat

/-- Whether the composite is beyond a threshold of a port's Temperature Threshold feature (Table 4-7, R534). -/
def tempWarn (s : State) (p : Nat) : Bool :=
  decide (feat s (p + 1) 0x04 0 ≤ kelvin (composite s)) || decide (kelvin (composite s) < feat s (p + 1) 0x04 16)

/-- Thermal shutdown (R540): fetching and programs stop, the dump runs when it can, and the device enters Off with the latch set. During a
dump it joins that dump (R542). -/
def thermalShutdown (s : State) (k : Nat) : State :=
  if !running s || s.pwr.thermal then s
  else
    let s := s.modPwr fun p => { p with thermal := true, shutSensor := k, shutReading := wrapInt 32 (s.sensor k).reading, afterDump := none }
    if s.pwr.dumpStarted then s
    else goDown (if asleep s then wake s 5 else s)

/-- SENSOR_CONVERSION: the mean of the last four, the broken checks, the thresholds (R533 to R535, R540). -/
def execSensorConversion (k raw : Nat) (reading : Int) (s : State) : Host.Outcome State Fault Refusal :=
  if 24 < k || !running s then .next s
  else
    let before := (portsInUse s).map (tempWarn s)
    let old := s.sensor k
    let x : Sensor := { raw := raw % 65536, last4 := (reading :: old.last4).take 4, same := if old.raw = raw % 65536 && !old.last4.isEmpty then old.same + 1 else 0 }
    let x := { x with broken := brokenCause s k x }
    let s := s.modChm fun c => { c with sensors := Tbl.put c.sensors k x }
    let crossed := (portsInUse s).filter fun p => tempWarn s p != before.getD p false
    let s := s.each (crossed.filter fun p => tempWarn s p && bitAt (feat s (p + 1) 0x0B 0) 1) fun s p => serveEvents (asyncEvent s p 1 1 2)
    let s := if crossed.isEmpty then s else wake s 5
    let dead := (zoneSensors (zoneOf k)).all fun j => (s.sensor j).broken != 0
    .next (if (x.ok && decide (480 ≤ x.reading)) || dead then thermalShutdown s k else s)

/-- HYST_C; 0 acts as 1 (R547). -/
def hystC (s : State) : Nat := max 1 (s.rd CHM_CTL.HYST_C)

/-- The step of the power state (R536). -/
def stateStep (s : State) : Nat :=
  match s.pwr.st with
  | .ps1 => 5
  | .ps2 => 9
  | _ => 0

/-- The device step (R536). -/
def deviceStep (s : State) : Nat := min 15 (max (stateStep s) (max s.chm.thermStep (s.rd CHM_CTL.MIN_STEP)))

/-- A change of the device step raises THERMAL (R536). -/
def stepCheck (s : State) : State :=
  let k := deviceStep s
  if k = s.chm.lastStep then s else raise (s.modChm fun c => { c with lastStep := k }) 64 (evWord 0x18 k)

/-- The step that zone `z` needs (R537). -/
def zoneNeed (s : State) (z : Nat) : Nat :=
  let t := s.chm.thermStep
  let hot := (hottest s (zoneSensors z)).getD (-1000)
  if zoneBroken s z then 15
  else if 440 ≤ hot then t + 1
  else if 440 - 4 * (hystC s : Int) < hot then t
  else if 10 ≤ s.chm.sinceThermChange then t - 1
  else t

/-- THERMAL_STEP_RECOMPUTE, every 10 ms (R537). -/
def execThermalStepRecompute (s : State) : Host.Outcome State Fault Refusal :=
  let t := min 15 ((List.range 8).foldl (fun a z => max a (zoneNeed s z)) 0)
  let s := s.modChm fun c => { c with thermStep := t, sinceThermChange := if t = c.thermStep then c.sinceThermChange + 1 else 1 }
  .next (stepCheck s)

/-- The power cap in 10 mW: 34 − 2k W, or 36 W at step 0 (R536). -/
def powerCap (s : State) : Nat := if deviceStep s = 0 then 3600 else 3400 - 200 * deviceStep s

/-- The mean of the last ten power readings. -/
def meanPower (s : State) : Nat := s.chm.p10.foldl (· + ·) 0 / max 1 s.chm.p10.length

/-- POWER_GOVERNOR_TICK, every 1 ms, with the power just measured in 10 mW (R538). The dump is exempt. -/
def execPowerGovernorTick (power : Nat) (s : State) : Host.Outcome State Fault Refusal :=
  let s := s.modChm fun c => { c with p10 := (power :: c.p10).take 10 }
  let s := s.modChm fun c => { c with dies := Tbl.mapV c.dies fun _ d => { d with ageMs := d.ageMs + 1, fresh := decide (d.ageMs + 1 < 1000) } }
  let a := s.chm.a16
  let a := if !s.on CHM_CTL.GOV_EN then 16
    else if powerCap s < meanPower s then max (a - 1) 1
    else if meanPower s + 100 < powerCap s then min (a + 1) 16
    else a
  .next (s.modChm fun c => { c with a16 := a })

/-- PORT_STEP_RECOMPUTE, every 100 ms (R539). -/
def execPortStepRecompute (s : State) : Host.Outcome State Fault Refusal :=
  .next (s.each (zonePorts s) fun s n =>
    let p := Tbl.getD s.chm.portStep n 0
    let cool := Tbl.getD s.chm.portCool n 0
    let ceil : Int := 4 * (s.rd CHM_CTL.FLASH_CEIL : Int)
    let broken := (List.range 16).any fun d => diePresent s n d && dieBroken s n d
    let set (p cool : Nat) : State := s.modChm fun c => { c with portStep := Tbl.setD c.portStep n p 0, portCool := Tbl.setD c.portCool n cool 0 }
    if broken then set 15 0
    else match hottestOf s n with
    | none => s
    | some t =>
      if ceil ≤ t then set (min 15 (p + 1)) 0
      else if t ≤ ceil - 4 * (hystC s : Int) then (if 9 ≤ cool then set (p - 1) 0 else set p (cool + 1))
      else set p 0)

end Sys2Proof.Machine
end

