-- ==== Sys2Proof/Machine/Hall.lean ====
section
/-!
DEFINITION. The Hall (chapter 3) and the host DMA (chapter 2): fetching, reservations, commits, resolutions, completions, the I/O commands
(Table 4-2), drains, idling and the media arbiter's window.
-/
namespace Sys2Proof.Machine

/-! ## Fetching (R82 to R86, R112, R166) -/

/-- Commands that the supervisor program executes on an ADMIN event (Table 4-16). -/
def supervisorRuns : HostCmd → Bool
  | .setFeatures fid _ _ _ _ _ => fid == 0x0C || fid == 0x0E || fid == 0x1D || fid == 0x1E
  | .getLog page _ _ _ _ => !([0x00, 0x01, 0x02, 0x04, 0x05, 0x0E, 0xC0, 0xC1].contains page)
  | .nsCreate _ _ _ _ _ | .nsDelete _ | .nsAttach _ _ _ | .format _ _ _ _ _ | .sanitize _ | .fwDownload _ _ _ | .fwCommit _ _ | .selfTest _ _
  | .directive _ _ _ _ | .getLbaStatus _ _ | .atticClear _ | .stairControl _ _ => true
  | _ => false

/-- What a command meets at its ingest, steps 1 to 7 of R166. -/
def ingestStatus (s : State) (n p : Nat) (c : HostCmd) : Status :=
  if s.porch.recovery && !recoveryAllows c then some (0, 1)
  else match c with
    | .unknown _ _ => none
    | _ =>
      orThen (fieldCheck s c) (orThen (nsCheck s p c) (orThen (busyCheck s c)
        (match ioNs c with
          | none => none
          | some ns => if armedFor s ns then some (7, 0xC0) else if keyHeld s n (readSpans s c ++ writeSpans s c) then none else lateCheck s c)))

/-- A sanitize takes effect on the commands after it from its ingest (R153). -/
def beginSanitize (s : State) (c : HostCmd) : State :=
  match c with
  | .sanitize a => s.modNvm fun x => { x with sanitize := some a, sanErased := 0, sanFailed := false, sanLast := a }
  | _ => s

/-- A running self-test ends at the ingest of a Format or of a Sanitize (R154, Table 15-8). (DEDUCED: log entry 68.) -/
def endTest (s : State) (c : HostCmd) : State :=
  let stop (r : Nat) : State := match s.atc.dst with
    | some d => dstEnd s r d.seg 5 0
    | none => s
  match c with
  | .format _ _ _ _ _ => stop 4
  | .sanitize _ => stop 9
  | _ => s

/-- The ranges whose lock state or key a Security Send changes (R455). -/
def lockTargets (s : State) : TcgMsg → List Nat
  | .setRange r _ _ _ _ _ _ | .setLock r _ _ | .genKey r => [r]
  | .revert => (List.range 63).map (fun i => i + 1) ++ (Tbl.keys s.nvm.spaces).map globalRange
  | _ => []

/-- From its ingest on, commands that touch those ranges are held (R455). -/
def beginLock (s : State) (n : Nat) (c : HostCmd) : State :=
  match c with
  | .security true _ m => s.each (lockTargets s m) fun s r => s.modRange r fun x => if x.pend.isNone then { x with pend := some n } else x
  | _ => s

/-- SUBMISSION_FETCH: the entry is taken in its queue's turn, stamped, given a context and checked; its ranges enter the tracker. (DESIGN CHOICE: log entry 3.) -/
def execSubmissionFetch (p sq cid : Nat) (cmd : HostCmd) (s : State) : Host.Outcome State Fault Refusal :=
  match Tbl.find s.hall.sqs (qkey p sq), takeTurn s p sq with
  | some q, some arb =>
    if isIo cmd != (sq != 0) then .next s
    else
      let n := s.hall.next
      let st := ingestStatus s n p cmd
      let rd := readSpans s cmd
      let wr := writeSpans s cmd
      let held := (ioNs cmd).isSome && keyHeld s n (rd ++ wr)
      let c : Ctx := { port := p, sq := sq, cid := cid, cmd := cmd, held := held,
                       reads := if st.isSome then [] else tracked s rd, writes := if st.isSome then [] else tracked s wr }
      let waits := st.isNone && !((rd.all fun x => mayResolve s n x) && wr.all fun x => mayCommit s n x)
      let s := s.modHall fun h => { h with
        next := n + 1, sqs := Tbl.put h.sqs (qkey p sq) { q with head := (q.head + 1) % q.size }, arb := Tbl.put h.arb p arb, lastPort := p,
        ctxs := Tbl.put h.ctxs n c }
      let s := if waits then s.wr HAL_OVERLAP_CNT.V (s.rd HAL_OVERLAP_CNT.V + 1) else s
      match st with
      | some (a, b) => .next (finish (if a = 7 && b = 0xC0 then reportDeferred s ((ioNs cmd).getD 0) else s) n a b)
      | none =>
        let s := beginLock (beginSanitize (endTest s cmd) cmd) n cmd
        .next (if supervisorRuns cmd && !s.porch.recovery then raise s 64 (evWord 0x11 0 0xFF 0 n) else s)
  | _, _ => .next s

/-! ## The tracker's turns (R93, R96, R101, R213) -/

/-- The oldest write that waits for its reservation; one whose row has not run yet holds the others (R96). -/
def oldestWaiting (s : State) : Option (Nat × Ctx) :=
  s.hall.ctxs.find? fun e => reserves e.2.cmd && (e.2.st == .fresh || e.2.st == .reserving)

/-- A live unit of a moving row (R230) that is not being copied yet: front, namespace, unit, suite, data unit. -/
def movingUnit (s : State) : Option (Nat × Nat × Nat × Nat × Nat) :=
  s.ldr.fronts.findSome? fun e => e.2.rows.findSome? fun r =>
    if !r.moving then none
    else ((liveUnitsOf s r.suite).find? fun u => (locate s r.suite u.2.2).any (fun p => p.row == r.no) &&
      !(Tbl.vals s.ldr.slots).any fun x => x.src == some (r.suite, u.2.2)).map fun u => (e.1, u.1, u.2.1, r.suite, u.2.2)

/-- A copy's slot is taken and its read offered, as work of class `cls` and background class `bg`. -/
def startCopy (s : State) (cls bg ns u suite y : Nat) : State :=
  let hot := (s.suite suite).stream == 0
  let (s, k) := takeSlot s { st := 1, stream := if hot then 2 else 3, ns := ns, unit := u, src := some (suite, y) }
  match k with
  | none => s
  | some k => (readUnit s suite y cls bg (.copy k suite y)).getD (freeSlot s k)

/-- Whether an extent may be consolidated (R180): split or parked, every entry MEDIA or ZERO (or UNMAPPED with DULBE clear), no blocks
marked, no unit in the overlay, no hold. -/
def eligibleExt (s : State) (ns ext : Nat) : Bool :=
  let e := mapExt s ns ext
  (e.isSplit || e.isParked) &&
  (List.range 256).all (fun k =>
    let x := mapUnit s ns (256 * ext + k)
    x.bad == 0 && !Tbl.has s.pan.overlay (unitKey ns (256 * ext + k)) && (match x.kind with
      | .media _ _ => true
      | .zero => true
      | .unmapped => !dulbe s ns
      | _ => false)) &&
  (match extPlace s.pan.img ns ext with
    | some p => !heldPlace s p
    | none => false)

/-- The reclaim group of an extent's lowest MEDIA unit. -/
def lowestMediaRg (s : State) (ns ext : Nat) : Nat :=
  ((List.range 256).findSome? fun k => match (mapUnit s ns (256 * ext + k)).kind with
    | .media x _ => some (s.suite x).rg
    | _ => none).getD 0

/-- A consolidation starts (R388): 256 reclaim-cold slots; MEDIA units are read into them, the others are zeros. -/
def startCons (s : State) (ns ext : Nat) : State :=
  if s.scu.cons.isSome || !eligibleExt s ns ext || !reclaimRoom s 256 then s
  else
    let e := mapExt s ns ext
    let group := match e with
      | .split g => g
      | .parked _ _ _ g => g
      | _ => 0
    let ent (k : Nat) : UnitEnt := mapUnit s ns (256 * ext + k)
    let rg := lowestMediaRg s ns ext
    let ents : Tbl UnitEnt := ((List.range 256).map fun k => (k, ent k)).filter fun p => p.2 != {}
    let src (k : Nat) : Option (Nat × Nat) := match (ent k).kind with
      | .media a b => some (a, b)
      | _ => none
    let zero (k : Nat) : Blk := if isWorker s then 0 else encrypt s ns (globalUnit s (256 * ext + k)) 0
    let (s, slots) := takeSlots s 256 fun k =>
      { st := if (src k).isSome then 1 else 3, stream := 3, ns := ns, unit := 256 * ext + k, src := src k, data := if (src k).isSome then 0 else zero k }
    let s := s.modScu fun x => { x with cons := some { nsid := ns, ext := ext, group := group, ents := ents, slots := slots, rg := rg } }
    let s := s.each ((List.range 256).zip slots) fun s p =>
      match src p.1 with
      | some (a, b) => (readUnit s a b 2 2 (.copy p.2 a b)).getD s
      | none => s
    if (List.range 256).all fun k => (src k).isNone then joinReclaim s rg false slots else s

/-- The next unit of a victim (steps 3 and 5 of Table 10-8): a unit whose extent is to be consolidated starts that instead (R383); units
emitted into the victim since its ledger was read are taken in as well (R199). (DEDUCED: log entry 59.) -/
def grantReclaim (s : State) (rg : Nat) : State :=
  match Tbl.find s.scu.recl rg with
  | none => s
  | some r => match r.left with
    | [] =>
      let more := (liveUnitsOf s r.suite).filter fun u =>
        !Tbl.has s.pan.overlay (unitKey u.1 u.2.1) && !(Tbl.vals s.ldr.slots).any (fun x => x.src == some (r.suite, u.2.2)) &&
        !s.scu.copied.any fun x => x.src == (r.suite, u.2.2)
      if (s.suite r.suite).st = 3 then s.modScu fun x => { x with recl := Tbl.put x.recl rg { r with left := more } } else s
    | (ns, u, y) :: rest =>
      let drop (s : State) : State := s.modScu fun x => { x with recl := Tbl.put x.recl rg { r with left := rest } }
      if (mapUnit s ns u).kind != .media r.suite y || Tbl.has s.pan.overlay (unitKey ns u) then drop s
      else if s.pan.consolidating && eligibleExt s ns (u / 256) then
        (if s.scu.cons.isSome then s else drop (startCons s ns (u / 256)))
      else if !reclaimRoom s 1 then s
      else startCopy (drop s) 2 (if r.cause = 2 then 3 else if s.scu.emerg.contains rg then 8 else 1) ns u r.suite y

/-- LARDER_RESERVATION_GRANT: host writes strictly in ingest order; reclaim copies one unit at a time; a row that R230 moves. -/
def execLarderReservationGrant (k : ResKind) (s : State) : Host.Outcome State Fault Refusal :=
  if !s.on LDR_CTL.ENABLE || s.on LDR_CTL.DRAIN then .next s
  else match k with
    | .host => match oldestWaiting s with
      | none => .next s
      | some (n, c) =>
        let need := c.wunits.foldl (fun a u => a + (slotUnits c.cmd u).length) 0
        .next (if c.st = .reserving && (need = 0 || hostRoom s need) then grantHost s n else s)
    | .reclaim rg => .next (grantReclaim s rg)
    | .rebuild => match movingUnit s with
      | none => .next s
      | some (_, ns, u, suite, y) => .next (startCopy s 1 0 ns u suite y)

/-- UNIT_COMMIT of the atomic unit of writer `n` in extent `ext`. -/
def execUnitCommit (n ext : Nat) (s : State) : Host.Outcome State Fault Refusal :=
  match writerOf s n with
  | none => .next s
  | some w => match w.units.find? fun u => u.ext == ext && u.st == .waiting with
    | none => .next s
    | some u => .next (commitUnit s n w u)

def execReaderResolve (n : Nat) (s : State) : Host.Outcome State Fault Refusal :=
  match s.ctx n with
  | none => .next s
  | some c => .next (resolveReader s n c)

/-- COMPLETION_POST. In the recovery identity a Firmware Commit with action 1 to 3 that succeeded restarts the choice of an image once its completion has
been posted (R494). -/
def execCompletionPost (n : Nat) (s : State) : Host.Outcome State Fault Refusal :=
  let again := match s.ctx n with
    | some c => s.clo.recovery && c.sct == 0 && c.sc == 0 && (match c.cmd with
        | .fwCommit a _ => decide (1 ≤ a ∧ a ≤ 3)
        | _ => false)
    | none => false
  let t := postCompletion s n
  .next (if again && (t.ctx n).isNone then watchdogReset t 5 else t)

/-! ## I/O commands (Table 4-2) -/

/-- An I/O command starts: one that met a lock change at its ingest is checked again once that has completed (R455). -/
def startIo (s : State) (n : Nat) (f : Ctx → State) : State :=
  match s.ctx n with
  | none => s
  | some c =>
    if c.st ≠ .fresh then s
    else if c.held then
      if keyHeld s n (c.reads ++ c.writes) then s
      else match lateCheck s c.cmd with
        | some (a, b) => finish s n a b
        | none => f c
    else f c

def runCtx (s : State) (n : Nat) : State := s.modCtx n fun c => { c with st := .running }

/-- The writes ingested before a Flush that target its namespace and have not settled (R104). -/
def flushScope (s : State) (n ns : Nat) : List Nat :=
  let hit (l : List Span) : Bool := ns == 0xFFFFFFFF || l.any fun x => x.all || x.ns == ns
  ((s.hall.ctxs.filter fun e => decide (e.1 < n) && !e.2.writes.isEmpty && hit e.2.writes && !writeSettled s e.1).map fun e => e.1) ++
  ((s.hall.tails.filter fun e => decide (e.1 < n) && (ns == 0xFFFFFFFF || e.2.ns == ns)).map fun e => e.1)

/-- FLUSH: the fronts that hold a write in its scope are closed, and the workers get a barrier (R104, R107, R581). -/
def execFlush (n : Nat) (s : State) : Host.Outcome State Fault Refusal :=
  .next (startIo s n fun c => match c.cmd with
    | .flush ns =>
      let s := closeHostFronts (s.modCtx n fun c => { c with st := .running, waitFor := flushScope s n ns }) (if ns = 0xFFFFFFFF then none else some ns)
      let s := if isManager s then askBarrier s n { kind := 6, nsid := ns } (fun _ => 0) else s
      settleCheck s
    | _ => s)

def execWrite (n : Nat) (s : State) : Host.Outcome State Fault Refusal :=
  .next (startIo s n fun c => match c.cmd with
    | .write _ _ _ fua _ _ => startWriter s n c fua
    | _ => s)

def execRead (n : Nat) (s : State) : Host.Outcome State Fault Refusal :=
  .next (startIo s n fun c => match c.cmd with
    | .read _ _ _ _ => runCtx s n
    | _ => s)

def execWriteUncorrectable (n : Nat) (s : State) : Host.Outcome State Fault Refusal :=
  .next (startIo s n fun c => match c.cmd with
    | .writeUncorr _ _ _ => startWriter s n c false
    | _ => s)

def execCompare (n : Nat) (s : State) : Host.Outcome State Fault Refusal :=
  .next (startIo s n fun c => match c.cmd with
    | .compare _ _ _ _ => runCtx s n
    | _ => s)

def execWriteZeroes (n : Nat) (s : State) : Host.Outcome State Fault Refusal :=
  .next (startIo s n fun c => match c.cmd with
    | .writeZeroes _ _ _ _ fua => startWriter s n c fua
    | _ => s)

/-- DATASET_MANAGEMENT: without Deallocate it has no effect; with it each extent is an atomic unit of a writer that needs no reservation
(R88, R140). -/
def execDatasetManagement (n : Nat) (s : State) : Host.Outcome State Fault Refusal :=
  .next (startIo s n fun c => match c.cmd with
    | .dsm _ _ _ =>
      let l := commandUnits s c.cmd
      if l.isEmpty then finishOk s n else s.modCtx n fun c => { c with st := .running, wunits := l, fua := allFua s c.port }
    | _ => s)

def execVerify (n : Nat) (s : State) : Host.Outcome State Fault Refusal :=
  .next (startIo s n fun c => match c.cmd with
    | .verify _ _ _ _ => runCtx s n
    | _ => s)

/-- Data units left in the reclaim unit of a placement. -/
def handleRoom (s : State) (rg h : Nat) : Nat :=
  match (s.ldr.fronts.find? fun e => e.2.rg == rg && e.2.handle == h).bind fun e => e.2.suite.map fun k => (k, e.2) with
  | some (k, x) => (s.suite k).dataUnits - (x.nextUnit + x.buf.length)
  | none => 0

/-- IO_MANAGEMENT_RECEIVE: Reclaim Unit Handle Status, one descriptor for each placement identifier. -/
def execIoManagementReceive (n : Nat) (s : State) : Host.Outcome State Fault Refusal :=
  .next (startIo s n fun c => match c.cmd with
    | .ioMgmtRecv _ =>
      let rows := (List.range 8).flatMap fun rg => (List.range 16).flatMap fun h =>
        [(2, rg * 8192 + h), (2, h), (4, 0), (8, handleRoom s rg h), (16, 0)]
      finishOk (s.emit (.adminData n ([(14, 0), (2, 128)] ++ rows))) n
    | _ => s)

/-- IO_MANAGEMENT_SEND: the current reclaim unit of each handle named is closed (R149). -/
def execIoManagementSend (n : Nat) (s : State) : Host.Outcome State Fault Refusal :=
  .next (startIo s n fun c => match c.cmd with
    | .ioMgmtSend _ l =>
      let fronts := (s.ldr.fronts.filter fun e => l.any fun p => p.rg == e.2.rg && p.handle == e.2.handle).map fun e => e.1
      let tags := fronts.flatMap fun f =>
        (((s.front f).buf.filterMap fun k => (Tbl.find s.ldr.slots k).map fun x => x.tag) ++
          (s.front f).rows.flatMap fun r => r.mem.flatMap fun m => m.cells.map fun x => x.tag).dedup
      let s := s.each fronts endSuite
      settleCheck (s.modCtx n fun c => { c with st := .running, waitFor := tags })
    | _ => s)

def execCopy (n : Nat) (s : State) : Host.Outcome State Fault Refusal :=
  .next (startIo s n fun c => match c.cmd with
    | .copy _ _ fua _ _ => startWriter s n c fua
    | _ => s)

/-! ## Host DMA (R49, R66, R67, R71, R214) -/

/-- The data of a write is all in and its checks have passed: its slots are admitted, but for those that wait for a merge (R71, R214). -/
def admitSlots (s : State) (c : Ctx) : State :=
  s.each (c.wunits.flatMap fun u => u.slots.map fun e => (e.2, Tbl.has u.part e.1)) fun s e =>
    modSlot s e.1 fun x => if x.st = 1 && !e.2 then { x with st := 2 } else x

/-- A write ends with nothing applied: its slots are returned (R67, R71). -/
def failWriter (s : State) (n sct sc : Nat) : State :=
  match s.ctx n with
  | none => s
  | some c =>
    let s := returnSlots (dropTags s n) c.wunits
    finish (s.modCtx n fun c => { c with tags := [], wunits := c.wunits.map fun u => if u.st = .waiting then { u with st := .abandoned, slots := [] } else u }) n sct sc

/-- HOST_READ_COMPLETION: host data arrives for a unit of a write: checked, enciphered and stored in its slot. The results of the checks are
those of block `bad` of the unit, the first that fails one, where one does. -/
def execHostReadCompletion (n unit : Nat) (data : Blk) (md : Meta) (guardOk appOk refOk : Bool) (bad : Nat) (s : State) : Host.Outcome State Fault Refusal :=
  match s.ctx n with
  | none => .next s
  | some c =>
    let ch := s.chan c.chan
    if !ch.tags.any fun t => t.2 == (n, unit) then .next s
    else
      let s := dropTag s c.chan n unit
      if ch.state = 2 && ch.cmd = some n then .next s
      else match c.cmd with
        | .write ns _ _ _ _ pr =>
          match (if piSelects s ns pr && !piForms s ns pr then piStatus pr guardOk appOk refOk else none) with
          | some (a, b) => .next (failWriter (noteBad s n ns unit bad) n a b)
          | none =>
            match c.wunits.findSome? fun u => (Tbl.find u.slots unit).map fun j => (j, Tbl.has u.part unit) with
            | none => .next s
            | some (j, part) =>
              let d := encrypt s ns unit data
              let left := c.tags.erase unit
              let hold := part || (piSelects s ns pr && !left.isEmpty)
              let s := modSlot s j fun x => { x with data := d, md := md, st := if hold then 1 else 2 }
              let s := s.modCtx n fun c => { c with tags := left }
              let s := if left.isEmpty then admitSlots s c else s
              .next (pumpChan (s.modNvm fun x => { x with hostUnitsWritten := x.hostUnitsWritten + 1 }) c.chan)
        | _ => .next s

/-- COMPLETION_TIMEOUT_EXPIRY: the tag is not reused for 1 s, AER logs it, and the channel halts (R49, R66). -/
def execCompletionTimeoutExpiry (n unit : Nat) (s : State) : Host.Outcome State Fault Refusal :=
  match s.ctx n with
  | none => .next s
  | some c =>
    match (s.chan c.chan).tags.find? fun t => t.2 == (n, unit) with
    | none => .next s
    | some t =>
      if (s.hport c.port).ctoOff then .next s
      else
        let s := dropTag s c.chan n unit
        let s := s.modHport c.port fun x => { x with deadTags := t.1 :: x.deadTags, aer := x.aer ++ [14] }
        .next (haltChan s n 1)

/-- UNEXPECTED_COMPLETION: a completion for a tag that timed out is discarded and logged (R49). -/
def execUnexpectedCompletion (p tag : Nat) (s : State) : Host.Outcome State Fault Refusal :=
  .next (if (s.hport p).deadTags.contains tag then s.modHport p fun x => { x with aer := x.aer ++ [16] } else s)

/-- TIMED_OUT_TAG_REUSE: 1 s after it timed out the tag may be used again (R49). -/
def execTimedOutTagReuse (p tag : Nat) (s : State) : Host.Outcome State Fault Refusal :=
  let s := s.modHport p fun x => { x with deadTags := x.deadTags.erase tag }
  .next (s.each (List.range 64) fun s c => pumpChan s (64 * p + c))

/-- DMA_DRAIN_COMPLETE: the halted command has no tag outstanding; the channel reports its outcome and returns to service (R66, R67). -/
def execDmaDrainComplete (c : Nat) (s : State) : Host.Outcome State Fault Refusal :=
  let x := s.chan c
  match x.cmd with
  | none => .next s
  | some n =>
    if x.state ≠ 2 || x.tags.any (fun t => t.2.1 == n) then .next s
    else
      let s := s.modChan c fun y => { y with state := if y.tags.isEmpty then 0 else 1, cmd := none }
      let sc := if x.cause = 4 then 6 else 4
      .next (pumpChan (failWriter (dropReader s n) n 0 sc) c)

/-- AGGREGATION_TIME_EXPIRY: the coalesced completions of a vector get their interrupt (R146). -/
def execAggregationTimeExpiry (p v : Nat) (s : State) : Host.Outcome State Fault Refusal :=
  .next (if Tbl.has s.hall.coal (qkey p v) then interrupt (s.modHall fun h => { h with coal := Tbl.del h.coal (qkey p v) }) p v else s)

/-! ## Drains, idling, APST (R123 to R133) -/

def execFetchEnableSet (s : State) : Host.Outcome State Fault Refusal :=
  .next (hallReady ((((keysCheck s).set1 HAL_CTL.FETCH_EN).clr1 HAL_CTL.DRAIN_REQ).modPwr fun p => { p with idleReported := false }))

def execDrainRequest (s : State) : Host.Outcome State Fault Refusal := .next (s.set1 HAL_CTL.DRAIN_REQ)

def execBackgroundHold (v : Bool) (s : State) : Host.Outcome State Fault Refusal := .next (s.wr HAL_CTL.BG_HOLD (b2n v))

/-- The device's requested power state: the most power-hungry of the controllers' requests (R126). -/
def requestedState (s : State) : Nat :=
  if isWorker s then min 5 s.sta.mgrPwr
  else (portsInUse s).foldl (fun a p => min a (Tbl.getD s.hall.reqState p 0)) 5

/-- The conditions of Table 3-11 for a non-operational state, but for the Larder's being empty in PS5. -/
def idleBut (s : State) (ps : Nat) : Bool :=
  s.hall.ctxs.all (fun e => e.2.cmd == .asyncEvent) &&
  s.hall.sqs.all (fun e => e.2.head == e.2.tail) &&
  (List.range 64).all (fun n => (s.port n).running.isEmpty && (s.port n).suspended.isEmpty && (s.port n).lingering.isEmpty) &&
  s.ldr.fronts.all (fun e => e.2.rows.all fun r => r.mem.all fun m => m.st != 1) &&
  (decide (ps < 5) || (portsInUse s).all fun p => (s.hport p).d3 || (s.hport p).lstate == 2)

/-- On a manager every active worker's Hall must be idle too (R596). -/
def idleFor (s : State) (ps : Nat) : Bool := idleBut s ps && (configuredWorkers s).all (fun w => !(workerActive s w) || (s.worker w).idle) && (decide (ps < 5) || larderEmpty s)

/-- HALL_REPORT_IDLE: the conditions hold; fetching stops and the supervisor gets IDLE. For PS5 the Larder is drained first (R128, R129,
R243). -/
def execHallReportIdle (s : State) : Host.Outcome State Fault Refusal :=
  let ps := requestedState s
  if !(3 ≤ ps && idleBut s ps && s.on HAL_CTL.FETCH_EN && !asleep s) then .next s
  else if idleFor s ps then
    .next (raise ((s.clr1 HAL_CTL.FETCH_EN).modPwr fun p => { p with idleReported := true }) 64 (evWord 0x13 ps))
  else .next (if s.on LDR_CTL.DRAIN then s else larderDrain s)

/-- The APST table of a controller: the host's, else the image's default (R132). -/
def apstTable (s : State) (p : Nat) : List ApstEnt := (Tbl.find s.hall.apst p).getD (runningImage s).apst

/-- APST_IDLE_EXPIRY: the idle time of an entry has passed; its target state is requested (R132). -/
def execApstIdleExpiry (p i : Nat) (s : State) : Host.Outcome State Fault Refusal :=
  match (apstTable s p)[i]? with
  | none => .next s
  | some e =>
    .next (if e.idleMs ≠ 0 && 3 ≤ e.target && idleFor s (min 3 e.target) && !asleep s then s.modHall fun h => { h with reqState := Tbl.setD h.reqState p e.target 0 } else s)

/-- MEDIA_ARBITER_WINDOW_END: the port's background share is reported and a new window begins (R36, R38, R135). (DESIGN CHOICE: log entry 125.) -/
def execMediaArbiterWindowEnd (n : Nat) (s : State) : Host.Outcome State Fault Refusal :=
  if !populated s n then .next s
  else
    let bg := Tbl.getD s.hall.bgTime n 0
    let em := Tbl.getD s.hall.emTime n 0
    let s := ((s.wr (HAL_PORT_SHARE.SHARE n) (min 1000 ((bg + em) / 10))).wr (HAL_PORT_SHARE.EMERG n) (b2n (em != 0))).wr
      (HAL_PORT_SHARE.HOST_WAIT n) (b2n (s.hall.hostWaited.contains n || hostWaits s n))
    .next (s.modHall fun h => { h with bgTime := Tbl.del h.bgTime n, emTime := Tbl.del h.emTime n,
                                       hostWaited := h.hostWaited.filter fun x => x != n })

end Sys2Proof.Machine
end

