-- ==== Sys2Proof/Machine/Pantry.lean ====
section
/-!
DEFINITION. The Pantry's operations and events (chapter 5): emission, the journal, checkpoints, consolidation and relocation, the
mapping cache and its maintenance, repair and recovery.
-/
namespace Sys2Proof.Machine

/-! ## Emission (R194) -/

/-- Runs of units consecutive in both unit and location: first unit, count, suite and unit of the location, with the BADBLK mask each
unit carries. -/
def placeRuns : List (Nat × Nat × Nat × Nat) → List (Nat × Nat × Nat × Nat)
  | [] => []
  | (u, s, x, b) :: r =>
    match placeRuns r with
    | (u', n, s', x') :: rest =>
      if u' = u + 1 && s' = s && x' = x + 1 && b = 0 then (u, n + 1, s, x) :: rest else (u, 1, s, x) :: (u', n, s', x') :: rest
    | [] => [(u, 1, s, x)]

/-- Marks a commit group: GROUP on every record, LAST on the final one, the commit tag on all (R194). -/
def markGroup (tag : Nat) : List JRec → List JRec
  | [] => []
  | [r] => [{ r with flags := 3, tag := tag }]
  | r :: rest => { r with flags := 1, tag := tag } :: markGroup tag rest

/-- The units of a commit that are still in the overlay for it: unit, suite, location, mask; none while one is not yet PASSED. -/
def passedUnits (s : State) (tag : Nat) (c : Commit) : Option (List (Nat × Nat × Nat × Nat)) :=
  c.units.foldr (fun u acc =>
    match acc, Tbl.find s.pan.overlay (unitKey c.nsid u) with
    | none, _ => none
    | some l, none => some l
    | some l, some e =>
      if e.commit ≠ tag then some l
      else match e.st with
        | .passed x y => some ((u, x, y, e.bad) :: l)
        | _ => none) (some [])

/-- An overlay commit is emitted in one step once every unit of it is PASSED or gone: PLACE records as one commit group, an UNCORR
record for each mask carried, the units applied to the map and removed from the overlay; a reserved group is used or returned
(R176, R178, R194, R624). It waits while the extent is PARKED (Table 5-6). -/
def emitCommit (s : State) (tag : Nat) (c : Commit) : State :=
  match passedUnits s tag c with
  | none => s
  | some l =>
    if !journalOn s || (mapExt s c.nsid c.extent).isParked then s
    else
      let recs := (placeRuns l).flatMap fun r =>
        let (u, n, x, y) := r
        let mask := (l.find? fun e => e.1 == u + n - 1).map fun e => e.2.2.2
        { typ := 0x01, nsid := c.nsid, count := n, first := u, loc := locWord x y : JRec } ::
          (if mask.getD 0 = 0 then [] else [{ typ := 0x06, nsid := c.nsid, count := 1, first := u + n - 1, aux := mask.getD 0 : JRec }])
      let s := s.modPan fun p => { p with grpReserved := if c.group then p.grpReserved - 1 else p.grpReserved,
                                          commits := Tbl.del p.commits tag }
      let s := mapChanges s (markGroup tag recs)
      let s := if recs.isEmpty then s else addDep s tag (.rcd (s.pan.nextSeq - 1))
      let s := s.modPan fun p => { p with
        overlay := Tbl.keep p.overlay fun k e => !(e.commit == tag && l.any fun x => unitKey c.nsid x.1 == k) }
      panFlags s

/-- OVERLAY_EMISSION of one commit. -/
def execOverlayEmission (tag : Nat) (s : State) : Host.Outcome State Fault Refusal :=
  match Tbl.find s.pan.commits tag with
  | none => .next s
  | some c => .next (emitCommit s tag c)

/-! ## The journal (R191, R195) -/

def execJournalBatchClose (s : State) : Host.Outcome State Fault Refusal := .next (closeBatch s)

/-- What a record does when it becomes durable: an armed deferred error is logged (R111), a marked suite may be erased once no reader pins
it (R199). -/
def recDurable (s : State) (e : Nat × JRec) : State :=
  match e.2.typ with
  | 0x08 => deferDurable s e.2
  | 0x0E => s.modNvm fun x => { x with spaces := Tbl.upd x.spaces e.2.nsid fun y => { y with gen := if e.2.aux = 0 then y.gen else e.2.aux } }
  | 0x0F => s.modNvm fun x => { x with sanitize := if e.2.aux = 4 then none else x.sanitize }
  | 0x0A =>
    let k := locSuite e.2.loc
    let s := s.modPan fun p => { p with eraseMarks := p.eraseMarks.filter fun m => m.1 != k }
    eraseIfDue (s.modSuite k fun x => { x with st := 4 }) k
  | _ => s

/-! ## Checkpoints (R196 to R198) -/

/-- The regions with the CKPT attribute as segments of 16 MiB: the region and the place within it of each. -/
def ckptSegs (s : State) : List (Nat × Nat) :=
  (List.range 8).flatMap fun r =>
    if s.on (PAN_REGION.VALID r) && s.on (PAN_REGION.CKPT r) then
      (List.range (ceilDiv (s.rd (PAN_REGION.LIMIT_MIB r) - s.rd (PAN_REGION.BASE_MIB r)) 16)).map fun i => (r, i)
    else []

/-- The part of the map that a segment describes: 2,097,152 extent entries, or 8,192 groups. -/
def segCopy (s : State) (rg : Nat × Nat) : SegCopy :=
  { ext := if rg.1 = 0 then Tbl.keep s.pan.img.ext fun k _ => k / 2097152 == rg.2 else [],
    grp := if rg.1 = 5 then Tbl.keep s.pan.img.grp fun k _ => k / 8192 == rg.2 else [],
    atSeq := s.pan.nextSeq }

/-- The next step of the lap: LAP_BEGIN, a changed segment with its SEGMENT record (an unchanged one repeats its copy's location), or
LAP_END, which makes the lap the newest complete one and lets the journal before the second-newest LAP_BEGIN go. -/
def lapStep (s : State) : State :=
  let segs := ckptSegs s
  match s.pan.lap with
  | none =>
    let n := s.pan.flash.lapDone + 1
    let at_ := s.pan.nextSeq
    (jAppend s { typ := 0x10, first := n }).modPan fun p => { p with lap := some (n, 0, at_) }
  | some (n, done, at_) =>
    match segs[done]? with
    | some rg =>
      let c := segCopy s rg
      let old := Tbl.find s.pan.flash.copies done
      let same := old.any fun o => o.ext == c.ext && o.grp == c.grp
      let s := if same then s else s.modPan fun p => { p with flash := { p.flash with
        copies := Tbl.put p.flash.copies done c,
        prevCopies := match old with
          | some o => Tbl.put p.flash.prevCopies done o
          | none => p.flash.prevCopies } }
      (jAppend s { typ := 0x11, first := done }).modPan fun p => { p with lap := some (n, done + 1, at_) }
    | none =>
      (jAppend s { typ := 0x12, first := n, count := segs.length }).modPan fun p => { p with
        lap := none,
        flash := { p.flash with
          lapDone := n, prevLapBegin := p.flash.lapBegin, lapBegin := at_, dir := p.img.dir, resGrp := p.img.resGrp,
          journal := p.flash.journal.filter fun e => decide (p.flash.lapBegin ≤ e.1) } }

def execCheckpointSegmentCopy (s : State) : Host.Outcome State Fault Refusal :=
  .next (if journalOn s && s.on PAN_CTL.CKPT_EN then lapStep s else s)

/-- Every remaining step of the lap under way, and SHUTDOWN_CLEAN after its LAP_END (R198). -/
def finishLap : Nat → State → State
  | 0, s => s
  | k + 1, s => if s.pan.lap.isNone then s else finishLap k (lapStep s)

def shutdownClean (s : State) : State :=
  if !journalOn s then s
  else
    let s := finishLap ((ckptSegs s).length + 2) (lapStep s)
    closeBatch (jAppend s { typ := 0x13 })

/-- A shutdown goes on: once the Larder is drained and every commit emitted, the lap is completed and SHUTDOWN_CLEAN appended; once that is
durable the controllers report it complete (R198, R243). -/
def shutdownCheck (s : State) : State :=
  if !(portsInUse s).any fun p => (s.hport p).shst == 1 then s
  else if !(larderEmpty s && s.pan.overlay.isEmpty && s.pan.commits.isEmpty && s.hall.tails.isEmpty) then s
  else if s.pan.cleanEnd then
    if s.pan.closed.isEmpty && s.pan.openBatch.isEmpty then
      s.each (portsInUse s) fun s p => s.modHport p fun h => if h.shst = 1 then { h with shst := 2 } else h
    else s
  else shutdownClean s

/-- A copy of the oldest closed batch passes program. When both copies have, the batch is durable, PAN_JOURNAL_DURABLE advances, and the
commands that wait for their records go on (R104, R108, R195). -/
def execJournalBatchDurable (copy : Nat) (s : State) : Host.Outcome State Fault Refusal :=
  match s.pan.closed with
  | [] => .next s
  | b :: rest =>
    let passed := if b.passed.contains (copy % 2) then b.passed else copy % 2 :: b.passed
    if passed.length < 2 then .next (s.modPan fun p => { p with closed := { b with passed := passed } :: rest })
    else
      let numbered := ((List.range b.recs.length).map fun i => b.firstSeq + i).zip b.recs
      let s := s.modPan fun p => { p with
        closed := rest, durable := some (b.firstSeq + b.recs.length - 1),
        flash := { p.flash with journal := p.flash.journal ++ numbered.filter fun e => e.2.typ != 0 } }
      .next (shutdownCheck (journalDurable (s.each numbered recDurable)))

/-! ## Consolidation and relocation (R181) -/

/-- The compare and set of a consolidation, once its 256 copies have passed at the run named: the extent must still be split or parked with the group read at the start, every entry equal
to the copy taken, and no unit in the overlay; otherwise the move is dropped and its copies become orphans. (DEDUCED: log entry 98.) -/
def execConsolidationCommit (suite base : Nat) (s : State) : Host.Outcome State Fault Refusal :=
  match s.scu.cons with
  | none => .next s
  | some c =>
    let s0 := s.modScu fun x => { x with cons := none }
    let e := mapExt s c.nsid c.ext
    let sameGroup := match e with
      | .split g => g == c.group
      | .parked _ _ _ g => g == c.group
      | _ => false
    let same := (List.range 256).all fun k => mapUnit s c.nsid (c.ext * 256 + k) == Tbl.getD c.ents k {}
    let staged := (List.range 256).any fun k => Tbl.has s.pan.overlay (unitKey c.nsid (c.ext * 256 + k))
    let held := match extPlace s.pan.img c.nsid c.ext with
      | some p => heldPlace s p
      | none => true
    let copied (k : Nat) : Bool := s.scu.copied.any fun x => x.cons && x.nsid == c.nsid && x.unit == c.ext * 256 + k && x.dst == (suite, base + k)
    if !(List.range 256).all copied then .next s
    else
      let s0 := s0.modScu fun x => { x with copied := x.copied.filter fun y => !y.cons }
      if !journalOn s || !sameGroup || !same || staged || held then .next s0
      else .next (panFlags (mapChange s0 { typ := 0x03, nsid := c.nsid, count := 1, first := c.ext * 256, loc := locWord suite base }))

/-- The compare and set of a relocation, of copies that have passed at the place named: each unit whose entry is still media at the source and that is not in the overlay moves, and
RELOCATE records name the source suite. -/
def execRelocationCommit (nsid first count suite0 unit0 suite1 unit1 : Nat) (s : State) : Host.Outcome State Fault Refusal :=
  if !journalOn s then .next s
  else
    let done (i : Nat) (x : Copied) : Bool :=
      !x.cons && x.nsid == nsid && x.unit == first + i && x.src == (suite0, unit0 + i) && x.dst == (suite1, unit1 + i)
    let ok (i : Nat) : Bool :=
      s.scu.copied.any (done i) && (mapUnit s nsid (first + i)).kind == .media suite0 (unit0 + i) && !Tbl.has s.pan.overlay (unitKey nsid (first + i)) &&
      !(mapExt s nsid ((first + i) / 256)).isParked
    let units := ((List.range count).filter ok).map fun i => (first + i, suite1, unit1 + i, 0)
    let s := s.modScu fun x => { x with copied := x.copied.filter fun y => !(List.range count).any fun i => done i y }
    let s := if units.isEmpty then s else fdpNote s 0x80 (s.suite suite0).handle suite0
    .next (mapChanges s ((placeRuns units).map fun r =>
      { typ := 0x02, nsid := nsid, count := r.2.1, first := r.1, loc := locWord r.2.2.1 r.2.2.2, aux := suite0 }))

/-! ## The mapping cache (R183 to R189) -/

/-- Rewrites the line at `la` where one is held. -/
def onLine (s : State) (la : Nat) (f : CLine → Option CLine) : State :=
  let cs := Tbl.getD s.pan.cache (lineSet la) {}
  match findWay cs la with
  | none => s
  | some (w, l) =>
    let ways := match f l with
      | some l => Tbl.put cs.ways w l
      | none => Tbl.del cs.ways w
    s.modPan fun p => { p with cache := Tbl.setD p.cache (lineSet la) { cs with ways := ways } {} }

/-- A maintenance operation acts on its line (Table 5-10, R187). -/
def maintAct (s : State) (m : MaintOp) : State :=
  let done (s : State) : State := s.wr PAN_MAINT_STATUS.DONE_CNT (s.rd PAN_MAINT_STATUS.DONE_CNT + 1)
  match m.op with
  | 1 => done (onLine s m.la fun l => some (if l.st = .dirty then { l with st := .clean } else l))
  | 2 => done (onLine s m.la fun l =>
      match l.st with
      | .dirty => if panOn s then some { l with st := .writingBack } else none
      | .writingBack => some l
      | _ => none)
  | 3 => done (onLine s m.la fun l =>
      match l.st with
      | .dirty => some { l with st := .writingBack }
      | .writingBack => some l
      | _ => none)
  | 4 => done (s.modPan fun p => { p with
      cache := Tbl.mapV p.cache fun _ c => { c with ways := Tbl.mapV c.ways fun _ l => if l.st = .dirty then { l with st := .clean } else l } })
  | _ => done s

/-- Whether a fill of the line is pending. -/
def fillPending (s : State) (la : Nat) : Bool :=
  (findWay (Tbl.getD s.pan.cache (lineSet la) {}) la).any fun w => w.2.st == .filling

/-- A write of PAN_MAINT: queued behind a fill of its address, else done; a full queue of 16 discards it and sets OVERFLOW (R186, R207). -/
def maintWrite (s : State) (op la : Nat) : State :=
  let la := la % 2 ^ 29
  if 16 ≤ s.pan.maintQ.length then s.set1 PAN_MAINT_STATUS.OVERFLOW
  else if (op = 1 || op = 2 || op = 3) && fillPending s la then s.modPan fun p => { p with maintQ := p.maintQ ++ [{ op := op, la := la }] }
  else maintAct s { op := op, la := la }

/-- DRAM data for a filling line is installed: the line is Clean (or Dirty where a write waited), its waiting lookups may go on, and the
maintenance queued behind it acts (R183, R186). -/
def execCacheFillComplete (la : Nat) (s : State) : Host.Outcome State Fault Refusal :=
  if !fillPending s la then .next s
  else
    let s := onLine s la fun l => some { l with st := if l.thenDirty then .dirty else .clean, thenDirty := false }
    let mine := s.pan.maintQ.filter fun m => m.la == la
    let s := s.modPan fun p => { p with maintQ := p.maintQ.filter fun m => m.la != la }
    .next (s.each mine maintAct)

/-- A write-back ends: the line is Invalid and requests for it fill afresh (R185). -/
def execCacheWritebackComplete (la : Nat) (s : State) : Host.Outcome State Fault Refusal :=
  .next (onLine s la fun l => if l.st = .writingBack then none else some l)

def execPanMaintClean (la : Nat) (s : State) : Host.Outcome State Fault Refusal := .next (maintWrite s 1 la)
def execPanMaintInv (la : Nat) (s : State) : Host.Outcome State Fault Refusal := .next (maintWrite s 2 la)
def execPanMaintCleanInv (la : Nat) (s : State) : Host.Outcome State Fault Refusal := .next (maintWrite s 3 la)
def execPanMaintCleanAll (s : State) : Host.Outcome State Fault Refusal := .next (maintWrite s 4 0)

/-- PAN_INV_ALL starts the sweep; it is ignored while ENABLE is 1 (R187). -/
def execPanInvAll (s : State) : Host.Outcome State Fault Refusal :=
  .next (if panOn s then s else s.modPan fun p => { p with invSweep := true })

/-- The sweep has passed every set: every line is Invalid, INV_DONE is set and NOT_CLEAN clears (R187, Table 5-20). -/
def execInvalidateAllDone (s : State) : Host.Outcome State Fault Refusal :=
  .next (if s.pan.invSweep then
      (s.modPan fun p => { p with invSweep := false, cache := [], maintQ := [] }).set1 PAN_STATUS.INV_DONE |>.clr1 PAN_STATUS.NOT_CLEAN
    else s)

/-- A write of 1 to PAN_CTL.ENABLE (R188). -/
def execPantryEnable (s : State) : Host.Outcome State Fault Refusal :=
  if !s.on PAN_STATUS.INV_DONE then .next (s.set1 PAN_STATUS.NOT_CLEAN)
  else if !s.on PAN_CTL.LAYOUT_LOCK || s.on PAN_STATUS.SIZE_ERR then .next s
  else .next (s.set1 PAN_CTL.ENABLE)

/-- A write of 0 to PAN_CTL.ENABLE: accepted only while HAL_STATUS.DRAINED is 1; every Dirty line is cleaned and ENABLE reads 0 (R189). -/
def execPantryDisable (s : State) : Host.Outcome State Fault Refusal :=
  .next (if hallDrained s then
      (s.modPan fun p => { p with
        cache := Tbl.mapV p.cache fun _ c => { c with ways := Tbl.mapV c.ways fun _ l => if l.st = .dirty then { l with st := .clean } else l } }).clr1 PAN_CTL.ENABLE
    else s)

/-! ## Repair (R190) -/

/-- Reapplies journal records, oldest first; a commit group acts only when its LAST record is present (R194). -/
def replay (s : State) (m : MapImg) (l : List (Nat × JRec)) : MapImg :=
  let lastTags := (l.filter fun e => bitAt e.2.flags 1).map fun e => e.2.tag
  l.foldl (fun m e =>
    if bitAt e.2.flags 0 && !lastTags.contains e.2.tag then m
    else applyRec (groupsUsable s) (parkedGroup s.pan.flash) (fun _ => false) m e.2) m

/-- Every record since the last checkpoint, durable or not yet. -/
def wholeJournal (s : State) : List (Nat × JRec) :=
  s.pan.flash.journal ++
  s.pan.closed.flatMap (fun b => ((List.range b.recs.length).map fun i => b.firstSeq + i).zip b.recs) ++
  ((List.range s.pan.openBatch.length).map fun i => s.pan.openFirst + i).zip s.pan.openBatch

/-- An uncorrectable map line: the segment's newest copy, or the previous lap's, is reloaded and the journal since replayed; with both
unreadable every extent that the segment describes is LOST and reported (R115, R190). -/
def execMapSegmentRepair (seg : Nat) (copyOk prevOk : Bool) (s : State) : Host.Outcome State Fault Refusal :=
  let copy := if copyOk then Tbl.find s.pan.flash.copies seg else if prevOk then Tbl.find s.pan.flash.prevCopies seg else none
  match (ckptSegs s)[seg]?, copy with
  | none, _ => .next s
  | some rg, some c =>
    let m := s.pan.img
    let m := { m with
      ext := if rg.1 = 0 then c.ext.foldl (fun t e => Tbl.put t e.1 e.2) (Tbl.keep m.ext fun k _ => k / 2097152 != rg.2) else m.ext,
      grp := if rg.1 = 5 then c.grp.foldl (fun t e => Tbl.put t e.1 e.2) (Tbl.keep m.grp fun k _ => k / 8192 != rg.2) else m.grp }
    .next (s.modPan fun p => { p with img := replay s m ((wholeJournal s).filter fun e => decide (c.atSeq ≤ e.1)) })
  | some rg, none =>
    let hit (p : Nat) : Bool := (rg.1 = 0 && p / 2097152 == rg.2) ||
      (rg.1 = 5 && match Tbl.getD s.pan.img.ext p .unmapped with
        | .split g => g / 8192 == rg.2
        | _ => false)
    let exts : List (Nat × Nat) := s.pan.img.dir.flatMap fun d =>
      ((List.range d.2.length).zip d.2).flatMap fun c =>
        ((List.range 16384).filter fun i => Tbl.has s.pan.img.ext (c.2 * 16384 + i) && hit (c.2 * 16384 + i)).map fun i => (d.1, c.1 * 16384 + i)
    .next (s.each exts fun s e => rangeLost s e.1 (e.2 * 256) 256 3 true)

/-! ## Erase marks (R199) -/

/-- ERASE_MARK for a source suite: every RELOCATE record that names it is durable and no overlay entry in PROGRAMMING or PASSED names a
location in it. -/
def execEraseMarkAppend (suite : Nat) (s : State) : Host.Outcome State Fault Refusal :=
  let tail := s.pan.closed.flatMap (fun b => b.recs) ++ s.pan.openBatch
  let pendingMove := tail.any fun r => r.typ == 0x02 && r.aux == suite
  let named := (Tbl.vals s.pan.overlay).any fun e => match e.st with
    | .programming x _ => x == suite
    | .passed x _ => x == suite
    | .larder _ => false
  if !journalOn s || pendingMove || named || !isSource s suite || 0 < liveUnits s suite || s.pan.eraseMarks.any (fun m => m.1 == suite) then .next s
  else .next ((jAppend s { typ := 0x0A, count := 1, loc := locWord suite 0 }).modPan fun p => { p with eraseMarks := (suite, p.nextSeq) :: p.eraseMarks })

end Sys2Proof.Machine
end

