-- ==== Sys2Proof/Machine/Larder.lean ====
section
/-!
DEFINITION. The Larder's own events and controls (chapter 6): rebuilds, casement errors, program inhibits, write-through mode, the drain
and bank retirement.
-/
namespace Sys2Proof.Machine

/-- REBUILD_COMPLETE: the member reads have been XORed (R228, R229). -/
def execRebuildComplete (f row m : Nat) (s : State) : Host.Outcome State Fault Refusal := .next (rebuildComplete s f row m)

/-- LARDER_SLOT_UE (R231). -/
def execLarderSlotUe (k : Nat) (s : State) : Host.Outcome State Fault Refusal :=
  .next (if (Tbl.find s.ldr.slots k).any fun x => x.st != 5 then slotUe s k else s)

/-- PARITY_SLOT_UE (R232). -/
def execParitySlotUe (k : Nat) (s : State) : Host.Outcome State Fault Refusal :=
  .next (if (Tbl.find s.ldr.slots k).any fun x => x.st == 5 then slotUe s k else s)

/-! ## Program inhibits (R233, R234) -/

def execSupplyDroop (g : Nat) (s : State) : Host.Outcome State Fault Refusal :=
  .next (if g < 8 && !s.ldr.droop.contains g then s.modLdr fun l => { l with droop := g :: l.droop } else s)

/-- DROOP_CLEAR_EXPIRY: no droop for 10 µs; the programs of the group go on. -/
def execDroopClearExpiry (g : Nat) (s : State) : Host.Outcome State Fault Refusal :=
  .next (if s.ldr.droop.contains g then
      pumpAll (s.modLdr fun l => { l with droop := l.droop.filter fun x => x != g, inhibitNoted := l.inhibitNoted.filter fun x => x != 1024 + g })
    else s)

/-- The inhibit in force for a die: its row of Table 6-6, and a key under which it is noted once. -/
def inhibitRow (s : State) (n d : Nat) : Option (Nat × Nat) :=
  if Tbl.has s.ldr.hot (16 * n + d) then some (1, 16 * n + d)
  else if s.ldr.droop.contains (n / 8) then some (2, 1024 + n / 8)
  else if s.pwr.pwrfail && s.pwr.straps.holdup && !s.pwr.holdupOk then some (3, 2048)
  else if s.pwr.pwrfail && !s.pwr.straps.holdup then some (4, 2048)
  else none

/-- INHIBIT_LONG_EXPIRY: an inhibit has lasted 100 ms (R234, Table 15-4). -/
def execInhibitLongExpiry (n d : Nat) (s : State) : Host.Outcome State Fault Refusal :=
  match inhibitRow s n d with
  | none => .next s
  | some (row, key) =>
    if s.ldr.inhibitNoted.contains key then .next s
    else .next (post (s.modLdr fun l => { l with inhibitNoted := key :: l.inhibitNoted }) 0x0050 3 3 0xFF row n d)

/-- TEMP_INHIBIT_SUITE_EXPIRY: a die's temperature inhibit has lasted 1 s: the suite of each front that waits for it ends, the row counting
as complete with the members it holds, and the front's slots go to its next suite; the die is excluded from new suites (R219, R234). (DEDUCED: log entry 107.) -/
def execTempInhibitSuiteExpiry (n d : Nat) (s : State) : Host.Outcome State Fault Refusal :=
  if !Tbl.has s.ldr.hot (16 * n + d) then .next s
  else
    let waits (x : Front) : Bool := match x.suite, x.left with
      | some k, m :: _ => memberDie s k m == (n, d) && !x.buf.isEmpty
      | _, _ => false
    let l := (s.ldr.fronts.filter fun e => waits e.2).map fun e => e.1
    let s := s.modLdr fun y => { y with excluded := mark y.excluded true (16 * n + d) }
    .next (s.each l fun s f => pumpFront 128 (bindSuite (releaseFront s f) f) f)

/-! ## Controls (R223, R240 to R244) -/

/-- HOLDUP_OK_CHANGE: the pin's new level. -/
def execHoldupOkChange (v : Bool) (s : State) : Host.Outcome State Fault Refusal :=
  let s := s.modPwr fun p => { p with holdupOk := v }
  .next (if running s && !s.pwr.frozen then wtCheck s else s)

def execWtForceSet (v : Bool) (s : State) : Host.Outcome State Fault Refusal := .next (wtCheck (s.wr LDR_CTL.WT_FORCE (b2n v)))

def execDumpArmSet (v : Bool) (s : State) : Host.Outcome State Fault Refusal := .next (wtCheck (s.wr LDR_CTL.DUMP_ARM (b2n v)))

def execLarderEnable (v : Bool) (s : State) : Host.Outcome State Fault Refusal := .next (s.wr LDR_CTL.ENABLE (b2n v))

def execLarderDrain (s : State) : Host.Outcome State Fault Refusal := .next (larderDrain s)

/-- LDR_BANK_RETIRE: banks are added; a write that would retire a ninth is ignored, sets RETIRE_LIMIT and is recorded (R242). -/
def execLdrBankRetire (v : U64) (s : State) : Host.Outcome State Fault Refusal :=
  let want := s.rd LDR_BANK_RETIRE.BANKS ||| v.toNat
  let l := (List.range 64).filter fun b => bitAt want b
  let fresh := l.filter fun b => !bankRetired s b
  if 8 < l.length then .next (post (s.set1 LDR_STATUS.RETIRE_LIMIT) 0x0051 4 3 0xFF ((fresh[8 - banksRetired s]?).getD 0))
  else .next (s.wr LDR_BANK_RETIRE.BANKS want)

end Sys2Proof.Machine
end

