-- ==== Sys2Proof/Machine/Scullery.lean ====
section
/-!
DEFINITION. The Scullery's events (chapter 10): victims, erases, wear, patrol, retention, folding, consolidation, retirement and the health
counts.
-/
namespace Sys2Proof.Machine

/-- Operating hours now. -/
def nowHour (s : State) : Nat := s.pwr.opSec / 3600

/-! ## Victims (R380 to R385, R393) -/

/-- The CLOSED suites of a reclaim group that may be victims: no fold source, unless its folding has stopped (R382, R390). -/
def closedOf (s : State) (rg : Nat) : List Nat :=
  (s.scu.suites.filter fun e => e.2.st == 2 && e.2.rg == rg && (!e.2.foldSource || s.scu.foldStopped.contains e.1)).map fun e => e.1

/-- The best suite of a list by a comparison; the first of equals. -/
def bestBy (better : Nat → Nat → Bool) (l : List Nat) : Option Nat :=
  l.foldl (fun b k => match b with
    | none => some k
    | some j => if better k j then some k else some j) none

/-- Whether static wear applies in a reclaim group (R380). -/
def staticDue (s : State) (rg : Nat) : Bool :=
  let l := (closedOf s rg).map fun k => (s.suite k).eraseCount
  let hi := l.foldl max 0
  let lo := l.foldl min hi
  s.on SCU_CTL.WEAR_EN && decide (s.rd SCU_WEAR_CFG.WEAR_SPREAD < hi - lo) &&
  (match Tbl.find s.scu.lastStatic rg with
    | some h => decide (h + s.rd SCU_WEAR_CFG.STATIC_H ≤ nowHour s)
    | none => true)

/-- The score of a suite (R382). -/
def victimScore (s : State) (k : Nat) : Nat :=
  let x := s.suite k
  let u := liveUnits s k * 1024 / max 1 x.dataUnits
  let a := min (nowHour s - x.closeHour) 4096
  (1024 - u) * (a + s.rd SCU_RECLAIM_CFG.AGE_BIAS) / (1024 + u)

/-- The victim of a reclaim group and the cause it is taken for (R382). (DEDUCED: log entry 102.) -/
def chooseVictim (s : State) (rg : Nat) : Option (Nat × Nat) :=
  let c := closedOf s rg
  let older (k j : Nat) : Bool := decide ((s.suite k).closeHour < (s.suite j).closeHour)
  let bad := c.filter fun k => (s.suite k).unprotected || (s.suite k).suspect
  match c.find? fun k => liveUnits s k == 0 with
  | some k => some (k, 1)
  | none =>
    if !bad.isEmpty then (bestBy older bad).map fun k => (k, 1)
    else if staticDue s rg then (leastWorn s c).map fun k => (k, 4)
    else if s.scu.emerg.contains rg then
      (bestBy (fun k j =>
        let a := liveUnits s k * (s.suite j).dataUnits
        let b := liveUnits s j * (s.suite k).dataUnits
        decide (a < b) || (a == b && older k j)) c).map fun k => (k, 1)
    else
      (bestBy (fun k j =>
        decide (victimScore s j < victimScore s k) || (victimScore s k == victimScore s j && decide ((s.suite k).eraseCount < (s.suite j).eraseCount))) c).map
        fun k => (k, 1)

/-- Steps 1 and 2 of Table 10-8: the victim becomes SOURCE, and its live list is read from the ledger. -/
def startVictim (s : State) (rg k cause : Nat) : State :=
  let live := liveUnitsOf s k
  let s := suiteRecord (s.modSuite k fun x => { x with st := 3 }) k 3 live.length cause
  s.modScu fun x => { x with
    recl := Tbl.put x.recl rg { suite := k, cause := cause, left := live },
    lastStatic := if cause = 4 then Tbl.put x.lastStatic rg (nowHour s) else x.lastStatic }

/-- Whether a reclaim group has a victim in work. -/
def victimBusy (s : State) (rg : Nat) : Bool :=
  match Tbl.find s.scu.recl rg with
  | some r => (s.suite r.suite).st == 3 && r.suite / 32 < s.scu.geo.blocks + 1
  | none => false

/-- RECLAIM_VICTIM_CHOICE: a source left by a power loss is resumed first (R385); the sources of a fold that stopped follow (R390); then the
victim of R382 while the group reclaims, and the oldest suite due for refresh (R381, R393, R400). -/
def execReclaimVictimChoice (rg : Nat) (s : State) : Host.Outcome State Fault Refusal :=
  if 8 ≤ rg || s.pwr.frozen || victimBusy s rg then .next s
  else
    match (s.scu.suites.find? fun e => e.2.st == 3 && e.2.rg == rg).map fun e => e.1 with
    | some k => .next (s.modScu fun x => { x with recl := Tbl.put x.recl rg { suite := k, cause := 1, left := liveUnitsOf s k } })
    | none =>
      match (closedOf s rg).find? fun k => (s.suite k).foldSource with
      | some k => .next (startVictim s rg k 1)
      | none =>
        let wants := (s.scu.reclaiming.contains rg && s.on SCU_CTL.RECLAIM_EN) || s.scu.emerg.contains rg
        match if wants then chooseVictim s rg else none with
        | some (k, c) => .next (startVictim s rg k c)
        | none =>
          let due := (closedOf s rg).filter fun k => (s.suite k).refreshDue
          match if s.on SCU_CTL.REFRESH_EN then bestBy (fun k j => decide ((s.suite k).programHour < (s.suite j).programHour)) due else none with
          | some k => .next (startVictim s rg k 2)
          | none => .next s

/-- STATIC_WEAR_DUE: the lightly worn suite is the group's next victim, whatever its pool holds (R380). -/
def execStaticWearDue (rg : Nat) (s : State) : Host.Outcome State Fault Refusal :=
  if 8 ≤ rg || s.pwr.frozen || victimBusy s rg || !staticDue s rg then .next s
  else match leastWorn s (closedOf s rg) with
    | some k => .next (startVictim s rg k 4)
    | none => .next s

/-! ## Erases (R375, R383, R384, R153) -/

/-- A block sanitize ends when no suite is left to erase (R153). -/
def sanitizeCheck (s : State) : State :=
  if s.nvm.sanitize = some 2 && s.scu.suites.all (fun e => e.2.st == 0 || e.2.st == 6 || e.2.st == 7) then
    s.modNvm fun x => { x with sanitize := none }
  else s

/-- A suite whose blocks are all erased: its ERASE_COUNT rises, blocks found PERMANENT are marked bad, and it is ERASED, or BAD with fewer
than 9 members; the first one refills the group's held-back suite (R375, R383, R384, R394). -/
def suiteErased (s : State) (k : Nat) : State :=
  let x := s.suite k
  let perm := (openMembers s k).filter fun m => s.scu.permanent.contains (badKey (memberDie s k m).1 (memberDie s k m).2 (k / 32))
  let s := s.each perm fun s m =>
    let key := badKey (memberDie s k m).1 (memberDie s k m).2 (k / 32)
    suiteRecord (s.modScu fun y => { y with badBlocks := if y.badBlocks.contains key then y.badBlocks else key :: y.badBlocks,
                                            permanent := y.permanent.filter fun z => z != key }) k 8 m 0
  let l := openMembers s k
  let rg := rgOf s k
  let ok := decide (9 ≤ l.length)
  let y : Suite := { st := if ok then 0 else 6, rg := rg, members := maskOf l, eraseCount := x.eraseCount + 1 }
  let s := s.modScu fun z => { z with
    suites := Tbl.put z.suites k y, erasing := Tbl.del z.erasing k, ledger := Tbl.del z.ledger k,
    foldStopped := z.foldStopped.filter fun j => j != k,
    heldBack := if ok && (Tbl.find z.heldBack rg).isNone then Tbl.put z.heldBack rg k else z.heldBack }
  let s := s.modPan fun p => { p with erasable := p.erasable.filter fun j => j != k }
  let s := s.modNvm fun v => { v with erasedUnits := v.erasedUnits + x.dataUnits,
                                      sanErased := if v.sanitize = some 2 then v.sanErased + 1 else v.sanErased }
  let s := suiteRecord s k 0 (maskOf l) (x.eraseCount + 1)
  let s := if ok then s else suiteRecord s k 6 (maskOf l) 0
  sanitizeCheck (pumpAll (poolCheck s rg))

/-- SUITE_ERASE_DONE: every member's erase has passed or failed. -/
def execSuiteEraseDone (k : Nat) (s : State) : Host.Outcome State Fault Refusal :=
  .next (if (s.suite k).st = 5 && (Tbl.getD s.scu.erasing k [0]).isEmpty then suiteErased s k else s)

/-- ERASE_FAIL: a member's erase fails; a block sanitize then ends failed (R153, R384). -/
def execEraseFail (k m : Nat) (s : State) : Host.Outcome State Fault Refusal :=
  if (s.suite k).st ≠ 5 || !(Tbl.getD s.scu.erasing k []).contains m then .next s
  else
    let s := eraseFailed s k m
    .next (if s.nvm.sanitize = some 2 then s.modNvm fun x => { x with sanFailed := true } else s)

/-! ## Patrol (R391, R392, R405) -/

/-- PERIOD_D as it acts, in seconds. -/
def patrolPeriod (s : State) : Nat := 86400 * min 60 (max 1 (s.rd SCU_PATROL_CFG.PERIOD_D))

/-- The suites that a lap reads. -/
def patrolSuites (s : State) : List Nat := (s.scu.suites.filter fun e => e.2.st == 2 || e.2.st == 3 || (e.2.foldSource && e.2.st == 1)).map fun e => e.1

/-- Progress of the lap in 0.1%, by suites. -/
def patrolProgress (s : State) : Nat :=
  (patrolSuites s).countP (fun k => decide (k < s.scu.lapPos)) * 1000 / max 1 (patrolSuites s).length

/-- First data unit of a row, and the rows that hold data: FILLED counts the data units written. -/
def rowBase (s : State) (x : Suite) (row : Nat) : Nat :=
  (List.range row).foldl (fun a i => a + (dataMembers x i).length * slotsPerWl s x.cell) 0

/-- The next wordline of a suite from place `i` = row × 32 + member on: its place, or none past the last row with data. (DEDUCED: log entry 104.) -/
def nextWordline (s : State) (x : Suite) (i : Nat) : Option Nat :=
  ((List.range (32 * s.scu.geo.rows - i)).map fun j => i + j).find? fun j =>
    decide (rowBase s x (j / 32) < x.filled) && (membersAt x (j / 32)).contains (j % 32)

/-- Reads every codeword of a die wordline for its verdict only: data members by unit, the parity member by place. -/
def patrolWordline (s : State) (k i : Nat) : State :=
  let x := s.suite k
  let row := i / 32
  let m := i % 32
  let spw := slotsPerWl s x.cell
  match (dataMembers x row).findIdx? fun j => j == m with
  | some d =>
    let base := rowBase s x row + d * spw
    s.each (List.range spw) fun s q => (readUnit s k (base + q) 2 4 (.patrol k (base + q))).getD s
  | none => s.each (List.range spw) fun s q => (readMember s k m row q 2 4 (.patrol k (x.dataUnits + q))).getD s

/-- PATROL_READ: the next die wordline in suite-number order is read; past the last one the lap ends and the next begins. -/
def execPatrolRead (s : State) : Host.Outcome State Fault Refusal :=
  if !s.on SCU_CTL.PATROL_EN || asleep s || s.pwr.frozen then .next s
  else match (patrolSuites s).find? fun k => decide (s.scu.lapPos ≤ k) with
    | none =>
      let took := s.pwr.opSec - s.scu.lapStart
      let s := ((s.wr SCU_PATROL_STATUS.LAP_LAST_S took).wr SCU_PATROL_STATUS.LAPS (s.rd SCU_PATROL_STATUS.LAPS + 1)).clr1 SCU_PATROL_STATUS.LATE
      .next (s.modScu fun x => { x with lapStart := s.pwr.opSec, lapPos := 0, lapRow := 0 })
    | some k =>
      let i := if k = s.scu.lapPos then s.scu.lapRow else 0
      match nextWordline s (s.suite k) i with
      | none => .next (s.modScu fun x => { x with lapPos := k + 1, lapRow := 0 })
      | some j => .next (patrolWordline (s.modScu fun x => { x with lapPos := k, lapRow := j + 1 }) k j)

/-- PATROL_LATE_EXPIRY: the lap runs past 1.5 times the period (R392). -/
def execPatrolLateExpiry (s : State) : Host.Outcome State Fault Refusal :=
  .next (if s.on SCU_CTL.PATROL_EN && !s.on SCU_PATROL_STATUS.LATE && decide (3 * patrolPeriod s ≤ 2 * (s.pwr.opSec - s.scu.lapStart)) then
      post (s.set1 SCU_PATROL_STATUS.LATE) 0x0081 3 6 0xFF (patrolProgress s)
    else s)

/-! ## Retention and open age (R393) -/

def execRetentionAgeExpiry (k : Nat) (s : State) : Host.Outcome State Fault Refusal :=
  let x := s.suite k
  .next (if (x.st = 1 || x.st = 2 || x.st = 3) && 0 < x.filled && decide (x.programHour + s.rd SCU_CARE_CFG.RETAIN_H ≤ nowHour s) then
      s.modSuite k fun x => { x with refreshDue := true }
    else s)

/-- OPEN_MAX_EXPIRY: a suite open for OPEN_MAX_H hours, counted from its first program, is ended through its front. (DEDUCED: log entry 101.) -/
def execOpenMaxExpiry (k : Nat) (s : State) : Host.Outcome State Fault Refusal :=
  let x := s.suite k
  if x.st ≠ 1 || x.filled = 0 || nowHour s < x.programHour + s.rd SCU_CARE_CFG.OPEN_MAX_H then .next s
  else match s.ldr.fronts.find? fun e => e.2.suite == some k with
    | some e => .next (endSuite (s.modSuite k fun x => { x with short := true }) e.1)
    | none => .next s

/-! ## Folding (R389, R390) -/

/-- Whether a row of a suite is settled: programmed and no longer live in any front. -/
def rowSettled (s : State) (k row : Nat) : Bool :=
  let x := s.suite k
  decide (rowBase s x row < x.filled) &&
  s.ldr.fronts.all fun e => !(e.2.rows.any fun r => r.suite == k && r.no == row) && (e.2.suite != some k || decide (row < e.2.row))

/-- FOLD_ROW: four settled source rows fold on each member of the destination's row: a program descriptor of CELL 0x4 without codewords, as
host-class work. -/
def execFoldRow (k : Nat) (s : State) : Host.Outcome State Fault Refusal :=
  let x := s.suite k
  let dest := x.foldDest % 2 ^ 20
  let j := x.folded
  if !x.foldSource || !(x.st = 1 || x.st = 2) || s.scu.foldStopped.contains k || s.pwr.frozen || Tbl.has s.scu.erasing (2 ^ 24 + k) ||
     s.scu.geo.rows < 4 * (j + 1) || !([0, 1, 2, 3].all fun i => rowSettled s k (4 * j + i)) then .next s
  else if !x.removed.isEmpty || !(s.suite dest).removed.isEmpty then .next (foldStop s k)
  else
    let row := x.foldDest / 2 ^ 20 % 4 * s.scu.geo.rows / 4 + j
    let l := membersAt x (4 * j)
    let s := s.modScu fun y => { y with erasing := Tbl.put y.erasing (2 ^ 24 + k) l }
    let s := s.modSuite dest fun y => { y with
      filled := y.filled + (l.length - 1) * 4 * slotsPerWl s 1, programHour := if y.filled = 0 then nowHour s else y.programHour }
    .next (s.each l fun s m =>
      let (n, d) := memberDie s k m
      offer s n { kind := 2, die := d, planes := 2 ^ s.scu.geo.planes - 1, cwCount := 0, cell := 4, block := dest / 32, page := row, cls := 0,
                  suite := some dest, issuer := .fold k j m })

/-! ## Consolidation (R180, R388) -/

/-- Every extent entry with its namespace and number. -/
def allExtents (s : State) : List (Nat × Nat × ExtEnt) :=
  s.pan.img.dir.flatMap fun d => ((List.range d.2.length).zip d.2).flatMap fun c =>
    (s.pan.img.ext.filter fun e => e.1 / 16384 == c.2).map fun e => (d.1, c.1 * 16384 + e.1 % 16384, e.2)

/-- CONSOLIDATION_STEP: every PARKED extent first, then the exception groups in index order from a cursor that wraps. -/
def execConsolidationStep (s : State) : Host.Outcome State Fault Refusal :=
  if !s.on SCU_CTL.CONS_EN || !s.pan.consolidating || s.scu.cons.isSome || asleep s || s.pwr.frozen then .next s
  else
    let l := (allExtents s).filter fun e => eligibleExt s e.1 e.2.1
    match l.find? fun e => e.2.2.isParked with
    | some e => .next (startCons s e.1 e.2.1)
    | none =>
      let grp (e : Nat × Nat × ExtEnt) : Nat := match e.2.2 with
        | .split g => g
        | _ => 0
      let dist (e : Nat × Nat × ExtEnt) : Nat := if s.scu.consCursor ≤ grp e then grp e - s.scu.consCursor else grp e + groupsTotal s
      match l.foldl (fun (b : Option (Nat × Nat × ExtEnt)) e => match b with
          | none => some e
          | some c => if dist e < dist c then some e else some c) none with
      | none => .next s
      | some e => .next (startCons (s.modScu fun x => { x with consCursor := grp e + 1 }) e.1 e.2.1)

/-! ## Retirement (R395, R396) -/

/-- Whether the record that placed a unit is not durable yet: its data is acknowledged and not settled. -/
def placedLately (s : State) (ns u : Nat) : Bool :=
  (s.pan.closed.flatMap (fun b => b.recs) ++ s.pan.openBatch).any fun r => r.typ == 0x01 && r.nsid == ns && decide (r.first ≤ u ∧ u < r.first + r.count)

/-- A unit is lost with its port. Without a group for a partly lost extent the whole extent is (R396). (DEDUCED: log entry 103.) -/
def loseWithPort (s : State) (n ns u : Nat) : State :=
  let e := mapExt s ns (u / 256)
  if !e.isSplit && !e.isParked && groupsTotal s ≤ s.pan.img.grp.length then rangeLost s ns (u / 256 * 256) 256 3 (placedLately s ns u) n
  else rangeLost s ns u 1 3 (placedLately s ns u) n

/-- LEDGER_WALK_LOST: every unit on the retired port's members of the suites affected is lost with cause 0x3: those that the map names, and
those in the overlay whose programs had passed there. -/
def execLedgerWalkLost (n : Nat) (s : State) : Host.Outcome State Fault Refusal :=
  if !s.scu.walk.contains n then .next s
  else
    let at_ (k u : Nat) : Bool := (locate s k u).any fun p => p.port == n
    let named := s.scu.suites.flatMap fun e => ((liveUnitsOf s e.1).filter fun u => at_ e.1 u.2.2).map fun u => (u.1, u.2.1)
    let staged := s.pan.overlay.filterMap fun e => match e.2.st with
      | .passed k u => if at_ k u then some (e.1 / 2 ^ 40, e.1 % 2 ^ 40) else none
      | _ => none
    let s := s.modScu fun x => { x with walk := x.walk.filter fun m => m != n }
    let s := s.each named fun s u => if Tbl.has s.pan.overlay (unitKey u.1 u.2) then s else loseWithPort s n u.1 u.2
    .next (settleCheck (s.each staged fun s u => rangeLost s u.1 u.2 1 3 true n))

/-! ## Health (R161, R370, R397 to R399) -/

/-- Data units that a suite would hold if it opened now. -/
def suiteCapacity (s : State) (k : Nat) : Nat := unitsFrom s { members := maskOf (openMembers s k), cell := s.scu.geo.cell } 0

/-- Suites not BAD. -/
def goodSuites (s : State) : List Nat := (suiteNums s).filter fun k => (s.suite k).st != 6 && decide (9 ≤ (openMembers s k).length)

/-- A full suite with every member. -/
def fullSuite (s : State) : Nat := s.scu.geo.rows * 31 * slotsPerWl s s.scu.geo.cell

/-- Spare (R397). (DEDUCED: log entry 108.) -/
def spare (s : State) : Int :=
  ((goodSuites s).foldl (fun a k => a + suiteCapacity s k) 0 : Nat) - (Config.exportedUnits : Int) - (16 * fullSuite s : Nat)

/-- SPARE_BP and SPARE_SUITES (Table 10-12). -/
def spareBp (s : State) : Nat := min 10000 (((max 0 (spare s)).toNat * 10000) / max 1 (s.scu.initialSpare.getD 0))

def spareSuites (s : State) : Nat :=
  let l := goodSuites s
  (max 0 (spare s)).toNat / max 1 (l.foldl (fun a k => a + suiteCapacity s k) 0 / max 1 l.length)

/-- ERASE_COUNT over the suites not BAD: mean weighted by members, highest, lowest. -/
def wear (s : State) : Nat × Nat × Nat :=
  let l := (goodSuites s).map fun k => ((s.suite k).eraseCount, (openMembers s k).length)
  let hi := l.foldl (fun a e => max a e.1) 0
  ((l.foldl (fun a e => a + e.1 * e.2) 0) / max 1 (l.foldl (fun a e => a + e.2) 0), hi, l.foldl (fun a e => min a e.1) hi)

/-- The counts of a port that C2h keeps: retransmissions, retrains, soft codewords, retry reads, codewords not recovered. -/
def portCounts (s : State) (n : Nat) : List Nat :=
  [s.rd (CEL_LINK_CNT.RETX_CNT n), s.rd (CEL_LINK_CNT.RETRAIN_CNT n), s.rd (LND_PORT_CNT.SOFT n), s.rd (LND_PORT_CNT.RETRY n),
   s.rd (LND_PORT_CNT.UNCORR n)]

/-- The increments since they were last added are added (R399). -/
def addCounts (s : State) : State :=
  s.each ((List.range 64).filter (populated s)) fun s n =>
    let now := portCounts s n
    let old := Tbl.getD s.scu.counted n []
    let inc (i : Nat) : Nat := now.getD i 0 - old.getD i 0
    let s := s.modNvm fun x => { x with ports := Tbl.modD x.ports n {} fun p =>
      { p with retries := satInc 32 p.retries (inc 0), retrains := satInc 32 p.retrains (inc 1), soft := satInc 32 p.soft (inc 2),
               retryReads := satInc 32 p.retryReads (inc 3), uncorr := satInc 32 p.uncorr (inc 4) } }
    s.modScu fun x => { x with counted := Tbl.put x.counted n now }

def execLifetimeCountUpdate (s : State) : Host.Outcome State Fault Refusal := .next (addCounts s)

/-- SUITE_IDX_WRITE: the record of the suite named is latched (Table 10-13). -/
def execSuiteIdxWrite (v : U64) (s : State) : Host.Outcome State Fault Refusal :=
  let k := v.toNat % 2 ^ 20
  .next ((s.wr SCU_SUITE_IDX.IDX k).modScu fun x => { x with snap := k, snapRec := s.suite k, snapValid := liveUnits s k })

/-- TEMP_HIST_MINUTE: the composite temperature is counted into its bin (Table 4-12). -/
def execTempHistMinute (s : State) : Host.Outcome State Fault Refusal :=
  let t := composite s
  let bin := if t < 120 then 0 else min 15 ((t / 20 - 5).toNat)
  .next (if running s then s.modNvm fun x => { x with tempHist := Tbl.put x.tempHist bin (satInc 32 (Tbl.getD x.tempHist bin 0)) } else s)

end Sys2Proof.Machine
end

