-- ==== Sys2Proof/Machine/HostLink.lean ====
section
/-!
DEFINITION. The Porch's host links (chapter 2): training, the data link layer, doorbells, interrupts, resets, link power states, and the
controller's enable, reset and shutdown.
-/
namespace Sys2Proof.Machine

/-! ## Links (R41 to R54, R74 to R81) -/

/-- Whether a port may carry a link: in use, its PERST# high, the identity fixed, and not held idle by the worker role (R42, R43, R53,
R54). -/
def linkAllowed (s : State) (p : Nat) : Bool :=
  (portsInUse s).contains p && !(s.hport p).perst && s.porch.fixed && !s.porch.idle && s.pwr.st != .off

/-- The rate cap of PCH_PORT_CTL (Table 2-6). -/
def rateCap (s : State) : Nat :=
  let r := s.rd PCH_PORT_CTL.MAX_RATE
  if r = 0 || 7 < r then 7 else r

/-- HOST_LINK_UP: the link reaches L0 at a rate and width that both ends support (R41, R44, R46). -/
def execHostLinkUp (p rate width : Nat) (flit : Bool) (s : State) : Host.Outcome State Fault Refusal :=
  let wide := if twoPorts s then [8, 4, 2, 1] else [16, 8, 4, 2, 1]
  .next (s.when (linkAllowed s p && !(s.hport p).up && decide (1 ≤ rate ∧ rate ≤ rateCap s) && wide.contains width) fun s =>
    s.modHport p fun x => { x with up := true, rate := rate, width := width, flit := flit || decide (6 ≤ rate), lstate := 0, dlSeq := 0 })

/-- Whether `b` is at most half the sequence space before `a`. -/
def seqBefore (a b : Nat) : Bool := decide (b ≠ a ∧ (a + 4096 - b) % 4096 < 2048)

/-- TLP_RECEIVE: a TLP or FLIT that fails its CRC is replayed by the peer, a duplicate is discarded, the next one is taken; a poisoned
completion halts the channel whose tag it carries with cause 0x3 (R47, R48, R66). (PRESUMED: log entry 54.) -/
def execTlpReceive (p seq : Nat) (crcOk flit poison : Bool) (tag : Option Nat) (s : State) : Host.Outcome State Fault Refusal :=
  let x := s.hport p
  if !x.up || x.flit != flit then .next s
  else if !crcOk then .next ((s.bump (PCH_LINK_ERR.CRC_FAIL_CNT p)).emit (.replay p))
  else if seqBefore x.dlSeq (seq % 4096) then .next s
  else if seq % 4096 ≠ x.dlSeq then .next (s.emit (.replay p))
  else
    let s := s.modHport p fun x => { x with dlSeq := (x.dlSeq + 1) % 4096 }
    if !poison then .next s
    else
      let s := s.modHport p fun x => { x with aer := x.aer ++ [12] }
      match tag.bind fun t => s.porch.chans.findSome? fun e => if e.1 / 64 == p then (e.2.tags.find? fun y => y.1 == t).map fun y => (e.1, y) else none with
      | none => .next s
      | some (c, (_, n, u)) => .next (haltChan (dropTag s c n u) n 3)

/-- CONFIG_REQUEST: Request Retry Status until the identity is fixed, then the device ID in use (R51 to R54). The request brings the link back to
L0 (R79). -/
def execConfigRequest (p : Nat) (s : State) : Host.Outcome State Fault Refusal :=
  if s.pwr.por || s.pwr.st = .off || s.porch.idle || !(portsInUse s).contains p then .next s
  else if !s.porch.fixed then .next (s.emit (.cfgReply p true 0))
  else
    let s := s.modHport p fun x => if x.up && x.lstate = 2 then { x with lstate := 0 } else x
    .next (s.emit (.cfgReply p false (if s.porch.recovery then 0x06FF else 0x0640)))

/-- Configuration space and BAR 0 state of a port at its defaults, but for sticky bits (Table 2-13). -/
def configDefaults (x : HPort) : HPort :=
  { x with d3 := false, bme := false, asqs := 2, acqs := 2, wrr := false, msixOn := false, fmask := false, unmasked := [], pend := [], ctoOff := false,
           tagMode := 0, ltrOn := false, ltrSent := none }

/-- The link of a port goes down. -/
def linkDown (s : State) (p : Nat) : State :=
  s.modHport p fun x => { x with up := false, rate := 0, width := 0, flit := false, lstate := 3, deadTags := [] }

/-- A reset of a port and of its controller (R74, R76). -/
def resetPort (s : State) (p : Nat) (down : Bool) : State :=
  let s := (resetController s p).modHport p configDefaults
  if down then linkDown s p else s

/-- PERST_ASSERT: a conventional reset of the port; it is a wake source (R74, Table 14-5). PERST_B# is ignored in port mode 0x0 (R43). -/
def execPerstAssert (p : Nat) (s : State) : Host.Outcome State Fault Refusal :=
  if !(portsInUse s).contains p || (s.hport p).perst then .next s
  else .next (wake ((resetPort s p true).modHport p fun x => { x with perst := true }) 3)

def execPerstDeassert (p : Nat) (s : State) : Host.Outcome State Fault Refusal :=
  .next (s.when ((portsInUse s).contains p) fun s => s.modHport p fun x => { x with perst := false })

/-- HOT_RESET, or link down. -/
def execHotReset (p : Nat) (s : State) : Host.Outcome State Fault Refusal :=
  .next (s.when ((s.hport p).up) fun s => resetPort s p true)

def execFunctionLevelReset (p : Nat) (s : State) : Host.Outcome State Fault Refusal :=
  .next (s.when ((s.hport p).up) fun s => resetPort s p false)

/-- BUS_MASTER_ENABLE_CLEAR: no further memory request on the port; with the controller enabled CSTS.CFS is set (R69). -/
def execBusMasterEnableClear (p : Nat) (s : State) : Host.Outcome State Fault Refusal :=
  .next (s.modHport p fun x => { x with bme := false, cfs := x.cfs || x.en })

def execD3hotEntry (p : Nat) (s : State) : Host.Outcome State Fault Refusal :=
  .next (s.when ((s.hport p).up) fun s => s.modHport p fun x => { x with d3 := true })

/-- D0_RETURN: fetching and DMA go on, and held completions can be posted (R81). -/
def execD0Return (p : Nat) (s : State) : Host.Outcome State Fault Refusal :=
  .next (s.when ((s.hport p).d3) fun s =>
    let s := wake (s.modHport p fun x => { x with d3 := false }) 2
    s.each (List.range 64) fun s c => pumpChan s (64 * p + c))

/-- ASPM_IDLE_EXPIRY: L1 where the identity record permits it and nothing of the port is outstanding (R78, R79). -/
def execAspmIdleExpiry (p : Nat) (s : State) : Host.Outcome State Fault Refusal :=
  let x := s.hport p
  let busy := !(portTags s p).isEmpty || (s.hall.ctxs.any fun e => e.2.port == p && e.2.st == .ready && e.2.stair.isNone) ||
    s.hall.coal.any fun e => e.1 / 65536 == p
  .next (s.when (x.up && !x.d3 && decide (x.lstate ≤ 1) && bitAt s.porch.ident.pmAllow 0 && !busy) fun s => s.modHport p fun x => { x with lstate := 2 })

/-- The LTR value of a port in 1 µs units (Table 2-14). -/
def ltrValue (s : State) (p : Nat) : Nat :=
  match s.pwr.st with
  | .ps3 | .ps4 => 1000
  | .ps5 | .off => 10000
  | _ => if s.hall.ctxs.any fun e => e.2.port == p && e.2.stair.isNone && e.2.cmd != .asyncEvent then 2 else 100

/-- A port that reports latency tolerance sends a message when its condition has changed (R80). -/
def ltrCheck (s : State) : State :=
  s.each (portsInUse s) fun s p =>
    let x := s.hport p
    if x.ltrOn && x.up && x.ltrSent != some (ltrValue s p) then
      (s.modHport p fun x => { x with ltrSent := some (ltrValue s p) }).emit (.ltr p (ltrValue s p))
    else s

/-! ## Doorbells and interrupts (R57, R65, R81) -/

/-- Whether a shutdown is under way on a port. -/
def shuttingDown (s : State) : Bool := (portsInUse s).any fun p => (s.hport p).shst == 1

/-- A doorbell cancels the drain that an entry to PS5 began. -/
def cancelDrain (s : State) : State :=
  if s.on LDR_CTL.DRAIN && requestedState s = 5 && !shuttingDown s then s.clr1 LDR_CTL.DRAIN else s

/-- INTA is released once no entry of the port waits. -/
def intxCheck (s : State) (p : Nat) : State :=
  if !(s.hport p).msixOn && s.hall.cqs.all (fun e => e.1 / 65536 != p || e.2.head == e.2.tail) then s.emit (.intx p false) else s

/-- DOORBELL_WRITE. (DESIGN CHOICE: log entry 126.) -/
def execDoorbellWrite (p qid : Nat) (cq : Bool) (v : Nat) (s : State) : Host.Outcome State Fault Refusal :=
  let x := s.hport p
  if !x.up then .next s
  else if x.d3 then .next (s.emit (.unsupported p))
  else
    let s := s.modHport p fun x => if x.lstate = 2 then { x with lstate := 0 } else x
    if !x.en || !x.rdy then .next s
    else
      let invalid (s : State) : State := serveEvents (asyncEvent s p 0 1 1)
      let go (s : State) : State := cancelDrain (wake s 0)
      if cq then
        match Tbl.find s.hall.cqs (qkey p qid) with
        | none => .next (invalid s)
        | some q =>
          if q.size ≤ v then .next (invalid s)
          else .next (go (intxCheck (s.modHall fun h => { h with cqs := Tbl.put h.cqs (qkey p qid) { q with head := v } }) p))
      else
        match Tbl.find s.hall.sqs (qkey p qid) with
        | none => .next (invalid s)
        | some q =>
          if q.size ≤ v then .next (invalid s)
          else .next (go (s.modHall fun h => { h with sqs := Tbl.put h.sqs (qkey p qid) { q with tail := v } }))

/-- MSIX_VECTOR_UNMASK: a pending message is sent and its bit cleared (R65). (DEDUCED: log entry 63.) -/
def execMsixVectorUnmask (p v : Nat) (s : State) : Host.Outcome State Fault Refusal :=
  let x := s.hport p
  if s.porch.ident.msix ≤ v || !x.up then .next s
  else
    let s := s.modHport p fun x => { x with msixOn := true, unmasked := if x.unmasked.contains v then x.unmasked else v :: x.unmasked }
    if x.pend.contains v && !x.fmask then .next ((s.modHport p fun x => { x with pend := x.pend.filter fun k => k != v }).emit (.msix p v))
    else .next s

/-! ## The controller (R74, R119 to R122, R198) -/

/-- CONTROLLER_RESET: CC.EN goes to 0. -/
def execControllerReset (p : Nat) (s : State) : Host.Outcome State Fault Refusal :=
  .next (s.when ((s.hport p).en) fun s => resetController s p)

/-- CONTROLLER_ENABLE: CC.EN is set with the admin queues of AQA; the host has enabled the function as a bus master by then. CSTS.RDY follows at
once where fetching is permitted, else when it is (R122). (DESIGN CHOICE: log entry 64.) -/
def execControllerEnable (p : Nat) (wrr : Bool) (asqs acqs : Nat) (s : State) : Host.Outcome State Fault Refusal :=
  let x := s.hport p
  .next (s.when (linkAllowed s p && x.up && !x.d3 && !x.en && decide (2 ≤ asqs ∧ asqs ≤ 4096 ∧ 2 ≤ acqs ∧ acqs ≤ 4096)) fun s =>
    let s := s.modHport p fun x => { x with en := true, bme := true, wrr := wrr, asqs := asqs, acqs := acqs }
    let s := s.modHall fun h => { h with sqs := Tbl.put h.sqs (qkey p 0) { size := asqs }, cqs := Tbl.put h.cqs (qkey p 0) { size := acqs } }
    if s.porch.recovery || s.on HAL_CTL.FETCH_EN then s.modHport p fun h => { h with rdy := !h.cfs } else s)

/-- SHUTDOWN_NOTIFICATION: the supervisor gets SHUTDOWN, the lifetime counts are added (R399), and the Larder is drained; the lap and
SHUTDOWN_CLEAN follow (R198, R243). -/
def execShutdownNotification (p : Nat) (s : State) : Host.Outcome State Fault Refusal :=
  let x := s.hport p
  .next (s.when (x.en && x.rdy && x.shst == 0) fun s =>
    let s := raise (s.modHport p fun x => { x with shst := 1 }) 64 (evWord 0x17 0 0xFF 0 p)
    let s := addCounts s
    shutdownCheck (if s.on LDR_CTL.DRAIN then s else larderDrain s))

end Sys2Proof.Machine
end

