-- ==== Sys2Proof/Machine/Casement.lean ====
section
/-!
DEFINITION. The casement code and DRAM reads (chapter 11): syndromes and their decoding (R406 to R408), bursts and their lintel (R409 to
R414), the error log and its counts (R426, R428), and a read of one burst with all that follows from it (R416, R419 to R423).
-/
namespace Sys2Proof.Machine

/-! ## The code (R406 to R408) -/

def xorBits (l : List Bool) : Bool := l.foldl xor false

/-- The 16 bits whose bit `i` is `f i`. -/
def bv16 (f : Nat → Bool) : BitVec 16 := BitVec.ofNat 16 ((List.range 16).foldl (fun a i => a + b2n (f i) * 2 ^ i) 0)

/-- Transoms, mullions and the sill of 256 data bits: bit k stands in row k / 16 and column k mod 16. -/
def transoms (d : BitVec 256) : BitVec 16 := bv16 fun r => xorBits ((List.range 16).map fun c => d.getLsbD (16 * r + c))
def mullions (d : BitVec 256) : BitVec 16 := bv16 fun c => xorBits ((List.range 16).map fun r => d.getLsbD (16 * r + c))
def sillOf (d : BitVec 256) : Bool := xorBits ((List.range 256).map fun k => d.getLsbD k)

def casEncode (d : BitVec 256) : Casement := { d := d, t := transoms d, m := mullions d, sill := sillOf d }

/-- The poison pattern (R408). -/
def casPoison : Casement := { d := 0, t := 0xFFFF, m := 0xFFFF, sill := true }

/-- The three syndromes (R407). -/
def synT (w : Casement) : BitVec 16 := w.t ^^^ transoms w.d
def synM (w : Casement) : BitVec 16 := w.m ^^^ mullions w.d
def synS (w : Casement) : Bool := xor w.sill (sillOf w.d)

/-- The meanings of Table 11-2. -/
inductive CasRes where
  | clean
  | data (bit : Nat)
  | check
  | poisoned
  | bad
  deriving DecidableEq, Repr

def ones16 (v : BitVec 16) : Nat := (List.range 16).countP fun i => v.getLsbD i
def firstOne (v : BitVec 16) : Nat := ((List.range 16).find? fun i => v.getLsbD i).getD 0

/-- Syndrome decoding on the number of ones and the sill (Table 11-2). -/
def synDecode (st sm : BitVec 16) (ss : Bool) : CasRes :=
  match ones16 st, ones16 sm, ss with
  | 0, 0, false => .clean
  | 1, 1, true => .data (16 * firstOne st + firstOne sm)
  | 1, 0, false => .check
  | 0, 1, false => .check
  | 0, 0, true => .check
  | _, _, _ => .bad

def casDecode (w : Casement) : CasRes := if w = casPoison then .poisoned else synDecode (synT w) (synM w) (synS w)

/-- The data that a read delivers, where it can be corrected. -/
def casCorrect (w : Casement) : BitVec 256 :=
  match casDecode w with
  | .data k => w.d ^^^ BitVec.twoPow 256 k
  | _ => w.d

/-! ## Bursts (R409, R410, R413, R427) -/

/-- Subchannels in service, and the data space in bytes. -/
def subIn (s : State) (k : Nat) : Bool := bitAt (s.rd BSM_STATUS.IN_SERVICE) k
def bothSubs (s : State) : Bool := subIn s 0 && subIn s 1
def dataSpace (s : State) : Nat := if bothSubs s then s.bsm.gib * 2 ^ 30 else s.bsm.gib * 2 ^ 29

/-- Where spare page `j` lies (R427). -/
def spareAddr (s : State) (j : Nat) : Nat := s.bsm.gib * 2 ^ 27 - 2 ^ 22 + 4096 * j

/-- The remap entry in force for a page. -/
def remapOf (s : State) (page : Nat) : Option Nat :=
  (List.range 1024).find? fun j => s.on (BSM_REMAP.VALID j) && !s.on (BSM_REMAP.BUSY j) && s.rd (BSM_REMAP.PAGE j) == page

/-- The address that an access to `a` goes to. -/
def remapped (s : State) (a : Nat) : Nat :=
  match remapOf s (a / 4096) with
  | some j => spareAddr s j + a % 4096
  | none => a

/-- The subchannel and the location there of burst `a`. -/
def burstHome (s : State) (a : Nat) : Nat × Nat :=
  if bothSubs s then (a / 64 % 2, a / 128) else (if subIn s 0 then 0 else 1, a / 64)

def burstKey (s : State) (a : Nat) : Nat := (burstHome s a).1 * 2 ^ 58 + (burstHome s a).2

/-- A burst as the clear writes it: zero data, the current lintel (R415). -/
def clearBurst (s : State) (a : Nat) : Burst := { addr := a / 64 % 2 ^ 48, gen := s.rd BSM_STATUS.GEN }

def getBurst (s : State) (a : Nat) : Burst := Tbl.getD s.bsm.dram (burstKey s a) (clearBurst s a)

def putBurst (s : State) (a : Nat) (b : Burst) : State :=
  s.modBsm fun x => { x with dram := Tbl.setD x.dram (burstKey s a) b (clearBurst s a) }

def flipCas (w : Casement) (i : Nat) : Casement :=
  if i < 256 then { w with d := w.d ^^^ BitVec.twoPow 256 i }
  else if i < 272 then { w with t := w.t ^^^ BitVec.twoPow 16 (i - 256) }
  else if i < 288 then { w with m := w.m ^^^ BitVec.twoPow 16 (i - 272) }
  else { w with sill := !w.sill }

/-- Burst bit `i` of Table 11-3 inverted. -/
def flipBurst (b : Burst) (i : Nat) : Burst :=
  if i < 289 then { b with c0 := flipCas b.c0 i }
  else if i < 578 then { b with c1 := flipCas b.c1 (i - 289) }
  else if i < 626 then { b with addr := b.addr ^^^ 2 ^ (i - 578) }
  else if i < 640 then { b with gen := b.gen ^^^ 2 ^ (i - 626) }
  else b

def flipAll (b : Burst) (l : List Nat) : Burst := l.foldl flipBurst b

/-- The lintel's fields: whether ADDR and GEN are those of `a` (R413). -/
def addrOk (a : Nat) (b : Burst) : Bool := b.addr == a / 64 % 2 ^ 48
def genOk (s : State) (b : Burst) : Bool := b.gen == s.rd BSM_STATUS.GEN

/-! ## The error log (R426, R428, R420) -/

/-- An event of a class is logged; what Table 11-7 names. -/
def bsmLog (s : State) (cls arr flags word synd : Nat) : State :=
  let n := s.bsm.logNext
  let s := s.modBsm fun x => { x with
    log := lastN 256 (x.log ++ [{ seq := n, cls := cls, arr := arr, flags := flags, word := word, synd := synd }]), logNext := n + 1 }
  (s.wr BSM_LOG_HEAD.NEXT_SEQ (n + 1)).wr BSM_LOG_HEAD.LOST (n + 1 - 256)

/-- The counts that an event of classes 1 to 3 raises. -/
def bsmCount (s : State) (cls arr word : Nat) : State :=
  let ce := cls = 1 || cls = 2
  let s := if arr ≤ 1 then s.bump (if ce then BSM_ERR_CNT.DRAM_CE else BSM_ERR_CNT.DRAM_UE)
           else s.bump (if ce then BSM_ERR_CNT.SRAM_CE else BSM_ERR_CNT.SRAM_UE)
  if arr = 2 then s.bump (if ce then BSM_LDR_BANK_CNT.CE (word / 32768 % 64) else BSM_LDR_BANK_CNT.UE (word / 32768 % 64)) else s

/-- The Attic's record of an uncorrectable word, once per word (R420). -/
def memoryUe (s : State) (arr word synd : Nat) : State :=
  let key := arr * 2 ^ 60 + word
  if s.bsm.reported.contains key then s
  else post (s.modBsm fun x => { x with reported := key :: x.reported }) 0x0021 4 7 0xFF arr word synd

def syndWord (w : Casement) : Nat := (synT w).toNat + (synM w).toNat * 2 ^ 16

/-! ## Subchannels (R424) -/

def subState (s : State) (k : Nat) : Nat := s.rd (BSM_SUBCH_STATUS.STATE k)

/-- A subchannel is retired; the summary bits of BSM_STATUS follow (R424, R430). -/
def retireSub (s : State) (k cause : Nat) : State :=
  let s := ((s.wr (BSM_SUBCH_STATUS.STATE k) 3).wr (BSM_SUBCH_STATUS.RETIRE_CAUSE k) cause).wr BSM_STATUS.IN_SERVICE
    (putBits (s.rd BSM_STATUS.IN_SERVICE) k 1 0)
  let n := b2n (subIn s 0) + b2n (subIn s 1)
  let s := s.wr BSM_STATUS.DEGRADED (b2n (n = 1))
  if n = 0 then s.each [0, 1] fun s p => s.modHport p fun h => { h with cfs := true } else s

/-- A counted retrain: the third due within 600 s retires the subchannel (R424). Answers whether it was retired. -/
def retrainSub (s : State) (k : Nat) : State × Bool :=
  let c : SubCh := Tbl.getD s.bsm.subs k {}
  let recent := c.retrains.filter fun t => decide (s.pwr.opSec < t + 600)
  if 2 ≤ recent.length then (retireSub s k 1, true)
  else
    let s := (s.wr (BSM_SUBCH_STATUS.STATE k) 2).bump (BSM_SUBCH_STATUS.RETRAIN_CNT k)
    let s := s.wr (BSM_SUBCH_STATUS.RETRAIN_WIN k) (recent.length + 1)
    (s.modBsm fun x => { x with subs := Tbl.put x.subs k { replays := 0, retrains := s.pwr.opSec :: recent, mism := [] } }, false)

/-! ## A read of one burst (R407, R413, R416, R419) -/

/-- What one copy of a burst gives: the casements delivered (none where poisoned). -/
structure BurstRead where
  c0 : Option (BitVec 256)
  c1 : Option (BitVec 256)
  deriving DecidableEq, Repr

def BurstRead.good (r : BurstRead) : Bool := r.c0.isSome && r.c1.isSome

/-- One casement of a burst is checked: logged, counted; answers the data delivered and the casement to store back, where it changes. -/
def checkCas (s : State) (arr word : Nat) (scrub : Bool) (w : Casement) : State × Option (BitVec 256) × Option Casement :=
  let flags := b2n (synS w) + 2 * b2n scrub
  match casDecode w with
  | .clean => (s, some w.d, none)
  | .data _ => (bsmCount (bsmLog s 1 arr (flags + 4) word (syndWord w)) 1 arr word, some (casCorrect w), some (casEncode (casCorrect w)))
  | .check => (bsmCount (bsmLog s 2 arr (flags + 4) word (syndWord w)) 2 arr word, some w.d, some (casEncode w.d))
  | .poisoned => (bsmLog s 6 arr flags word (syndWord w), none, none)
  | .bad => (memoryUe (bsmCount (bsmLog s 3 arr flags word (syndWord w)) 3 arr word) arr word (syndWord w), none, some casPoison)

/-- A lintel mismatch that the reread does not repeat counts towards retraining: two within 1 s retrain the subchannel (R413, R424). -/
def lintelOnce (s : State) (k : Nat) : State :=
  let c : SubCh := Tbl.getD s.bsm.subs k {}
  let recent := c.mism.filter fun t => decide (s.pwr.opSec ≤ t + 1)
  if recent.isEmpty then s.modBsm fun x => { x with subs := Tbl.put x.subs k { c with mism := [s.pwr.opSec] } }
  else (retrainSub s k).1

/-- Reads one copy at `a`. `cell`: burst bits that have changed in the devices; `bus`: bits that only the first read gets wrong. A casement
found uncorrectable by the scrubber, or in region 4 outside region 6, is rewritten with the poison pattern (R419, R423). -/
def readCopy (s : State) (a : Nat) (cell bus : List Nat) (scrub rewrite : Bool) : State × BurstRead :=
  let (k, _) := burstHome s a
  let stored := flipAll (getBurst s a) cell
  let s := putBurst s a stored
  let first := flipAll stored bus
  let word := a / 32
  let lintel (b : Burst) : Bool := addrOk a b && genOk s b
  let cls := if addrOk a first then 5 else 4
  if !lintel first && !lintel stored then
    let s := bsmLog s cls k (8 + 2 * b2n scrub) word 0
    (memoryUe s k word 0, { c0 := none, c1 := none })
  else
    let s := if lintel first then s else lintelOnce (bsmLog s cls k (2 * b2n scrub) word 0) k
    let b := if lintel first then first else stored
    let (s, d0, n0) := checkCas s k word scrub b.c0
    let (s, d1, n1) := checkCas s k (word + 1) scrub b.c1
    let keep (n : Option Casement) (old : Casement) : Casement :=
      match n with
      | some w => if w = casPoison && !(scrub || rewrite) then old else w
      | none => old
    let s := if n0.isSome || n1.isSome then
        putBurst s a { c0 := keep n0 stored.c0, c1 := keep n1 stored.c1, addr := a / 64 % 2 ^ 48, gen := s.rd BSM_STATUS.GEN } else s
    (s, { c0 := d0, c1 := d1 })

/-- Neither copy of a journal-ring burst can be read (R421). -/
def ringFault (s : State) : State :=
  (s.set1 BSM_STATUS.RING_FAULT).each [0, 1] fun s p => s.modHport p fun h => { h with cfs := true }

/-- The owner of a word of region 4 outside region 6 acts by its content (R423). -/
def contentLost (s : State) : DramContent → State
  | .none => s
  | .openLedger k => s.modScu fun x => { x with ledger := Tbl.del x.ledger k }
  | .fwBuffer => s.modNvm fun x => { x with fwBuf := [], fwLen := 0 }
  | .suspects l => s.modScu fun x => { x with suspects := x.suspects.filter fun e => !l.contains (e.1, e.2.1) }
  | .imageTable => s

/-- A read of burst `a` of the data space, by a requester or the scrubber: of a mirrored burst the other copy is read when the first is bad,
and the bad one rewritten from it (R411). -/
def readBurst (s : State) (a : Nat) (second scrub : Bool) (cell bus : List Nat) (content : DramContent) : State × BurstRead :=
  let a := remapped s (a / 64 * 64)
  let region := regionAt s a
  let mirror := region.any (fun r => s.on (PAN_REGION.MIRROR r)) && bothSubs s
  if mirror then
    let x := if second then a ^^^ 0x40 else a
    let (s, r) := readCopy s x cell bus scrub false
    if r.good then (s, r)
    else
      let (s, r2) := readCopy s (x ^^^ 0x40) [] [] scrub false
      if r2.good then
        (putBurst s x { c0 := casEncode (r2.c0.getD 0), c1 := casEncode (r2.c1.getD 0), addr := x / 64 % 2 ^ 48, gen := s.rd BSM_STATUS.GEN }, r2)
      else (ringFault s, { c0 := none, c1 := none })
  else
    let own := region == some 4
    let (s, r) := readCopy s a cell bus scrub own
    if r.good then (s, r)
    else if region = some 3 then (ringFault s, r)
    else if own then (contentLost s content, r)
    else (s, r)

/-! ## SRAM arrays (R417, R420) -/

/-- What an uncorrectable word of an array does at its owner. -/
def sramLost (s : State) (arr word : Nat) : State :=
  match arr with
  | 2 => slotUe s (64 * (word % 32768 / 128) + word / 32768 % 64)
  | 5 => s.modSeq (word / 512 % 64) fun q => { q with bad := (word % 512) :: q.bad }
  | 6 => s.modSeq 64 fun q => { q with bad := word :: q.bad }
  | _ => s

/-- One word of an array is read by its sweep, or by an access. -/
def sweepWord (s : State) (arr word : Nat) (st sm : BitVec 16) (ss poison scrub : Bool) : State :=
  let synd := st.toNat + sm.toNat * 2 ^ 16
  let flags := b2n ss + 2 * b2n scrub
  if poison then bsmLog s 6 arr flags word synd
  else match synDecode st sm ss with
    | .clean => s
    | .data _ => bsmCount (bsmLog s 1 arr (flags + 4) word synd) 1 arr word
    | .check => bsmCount (bsmLog s 2 arr (flags + 4) word synd) 2 arr word
    | _ => sramLost (memoryUe (bsmCount (bsmLog s 3 arr flags word synd) 3 arr word) arr word synd) arr word

end Sys2Proof.Machine
end

