-- ==== Sys2Proof/Machine/Basement.lean ====
section
/-!
DEFINITION. The commands of the Basement (chapter 11).
-/
namespace Sys2Proof.Machine

/-- Whether requests for burst `a` are served (R415, R424, R429): enabled, cleared, its subchannel ACTIVE, its page not being copied
(R427). -/
def burstServed (s : State) (a : Nat) : Bool :=
  s.on BSM_CTL.ENABLE && s.on BSM_STATUS.CLEAR_DONE && decide (a < dataSpace s) && subState s (burstHome s a).1 == 1 &&
  !((List.range 1024).any fun j => s.on (BSM_REMAP.BUSY j) && Tbl.getD s.bsm.copyPage j 0 == a / 4096)

def execDramBurstRead (a : Nat) (second : Bool) (cell bus : List Nat) (content : DramContent) (s : State) : Host.Outcome State Fault Refusal :=
  .next (s.when (burstServed s a) fun s => (readBurst s a second false cell bus content).1)

/-- An array's sweep reads one of its words (R417). -/
def execSramSweep (arr word st sm : Nat) (ss poison : Bool) (s : State) : Host.Outcome State Fault Refusal :=
  .next (s.when (decide (2 ≤ arr ∧ arr ≤ 6)) fun s => sweepWord s arr word (BitVec.ofNat 16 st) (BitVec.ofNat 16 sm) ss poison true)

/-! ## The scrubber (R418, R419) -/

/-- LAP_S; a value below 60 acts as 60. -/
def lapSeconds (s : State) : Nat := max 60 (s.rd BSM_SCRUB_CFG.LAP_S)

/-- The scrubber moves on; at the last burst the lap ends and the next begins. -/
def scrubNext (s : State) : State :=
  let total := dataSpace s / 64
  let next := s.bsm.scrubPos + 1
  if next < total then (s.modBsm fun x => { x with scrubPos := next }).wr BSM_SCRUB_STATUS.PROGRESS (next * 1000 / max 1 total)
  else
    let d := s.pwr.opSec - s.bsm.lapStart
    let s := s.modBsm fun x => { x with scrubPos := 0, lapStart := s.pwr.opSec }
    (((s.wr BSM_SCRUB_STATUS.LAP_LAST_S d).wr BSM_SCRUB_STATUS.LAP_MAX_S (max d (s.rd BSM_SCRUB_STATUS.LAP_MAX_S))).clr1 BSM_SCRUB_STATUS.LATE).wr
      BSM_SCRUB_STATUS.PROGRESS 0

def execScrubRead (cell bus : List Nat) (content : DramContent) (s : State) : Host.Outcome State Fault Refusal :=
  let a := 64 * s.bsm.scrubPos
  .next (s.when (s.on BSM_CTL.SCRUB_EN && burstServed s a && s.pwr.st != .ps4 && s.pwr.st != .ps5) fun s =>
    scrubNext (readBurst s a false true cell bus content).1)

/-- The lap has run for twice LAP_S (R419). -/
def execScrubLateExpiry (s : State) : Host.Outcome State Fault Refusal :=
  let d := s.pwr.opSec - s.bsm.lapStart
  .next (s.when (s.on BSM_CTL.SCRUB_EN && decide (2 * lapSeconds s ≤ d) && !s.on BSM_SCRUB_STATUS.LATE) fun s =>
    post (s.set1 BSM_SCRUB_STATUS.LATE) 0x0022 3 7 0xFF d)

/-! ## Clearing (R414, R415) -/

/-- BSM_CTL.CLEAR is set: the clear begins with its generation. -/
def dramClear (s : State) : State :=
  s.when (!s.on BSM_STATUS.CLEAR_BUSY && s.rd BSM_STATUS.IN_SERVICE != 0) fun s =>
    let gen := if s.bsm.clears = 0 then s.pwr.powerCycle % 2 ^ 14 else (s.rd BSM_STATUS.GEN + 1) % 2 ^ 14
    let s := (s.modBsm fun x => { x with clears := x.clears + 1 }).wr BSM_STATUS.GEN gen
    ((s.set1 BSM_CTL.CLEAR).set1 BSM_STATUS.CLEAR_BUSY).clr1 BSM_STATUS.CLEAR_DONE

/-- The clear ends: every burst holds zero data with the current lintel; the scrubber restarts at 0 (R415, R419). -/
def dramCleared (s : State) : State :=
  s.when (s.on BSM_STATUS.CLEAR_BUSY) fun s =>
    let s := s.modBsm fun x => { x with dram := [], scrubPos := 0, lapStart := s.pwr.opSec, reported := x.reported.filter fun k => decide (2 ^ 61 ≤ k) }
    ((s.clr1 BSM_CTL.CLEAR).clr1 BSM_STATUS.CLEAR_BUSY).set1 BSM_STATUS.CLEAR_DONE

def execDramClear (s : State) : Host.Outcome State Fault Refusal := .next (dramClear s)

def execDramClearDone (s : State) : Host.Outcome State Fault Refusal := .next (dramCleared s)

/-! ## Subchannel faults (R412, R424, R425) -/

/-- A retirement during operation restarts the device as after a power loss; it is recorded in the configuration store (R425). -/
def subRetired (s : State) (k : Nat) (running : Bool) : State :=
  if !running then s
  else
    let s := s.modBsm fun x => { x with retiredRec := if x.retiredRec.contains k then x.retiredRec else k :: x.retiredRec }
    restartAfterLoss (s.modClo fun c => { c with conf := Tbl.put c.conf 0x04 s.bsm.retiredRec })

def execSubchannelRetire (k : Nat) (s : State) : Host.Outcome State Fault Refusal :=
  let running := s.on BSM_STATUS.CLEAR_DONE
  .next (s.when (decide (k < 2) && subState s k != 3) fun s =>
    subRetired (retireSub (s.wr BSM_CTL.RETIRE (s.rd BSM_CTL.RETIRE ||| 2 ^ k)) k 3) k running)

/-- A write CRC or CA parity error: the command is replayed; its ninth replay is a retrain instead (R412, R424). -/
def execDdrAlert (k : Nat) (same : Bool) (s : State) : Host.Outcome State Fault Refusal :=
  .next (s.when (decide (k < 2) && subState s k == 1) fun s =>
    let c : SubCh := Tbl.getD s.bsm.subs k {}
    let n := if same then c.replays + 1 else 1
    if 8 < n then
      let (s, gone) := retrainSub s k
      if gone then subRetired s k true else s
    else
      let s := s.modBsm fun x => { x with subs := Tbl.put x.subs k { c with replays := n } }
      bsmLog (s.bump (BSM_SUBCH_STATUS.REPLAY_CNT k)) 7 k 0 0 0)

/-- 200 µs pass in RETRAIN without success: a new, counted retrain. -/
def execSubchannelRetrainTimeout (k : Nat) (s : State) : Host.Outcome State Fault Refusal :=
  .next (s.when (decide (k < 2) && subState s k == 2) fun s =>
    let (s, gone) := retrainSub s k
    if gone then subRetired s k true else s)

/-- Training and calibration end: held requests are issued. -/
def execSubchannelRetrainDone (k : Nat) (s : State) : Host.Outcome State Fault Refusal :=
  .next (s.when (decide (k < 2) && subState s k == 2) fun s => s.wr (BSM_SUBCH_STATUS.STATE k) 1)

/-! ## Remapping (R427) -/

def execBsmRemapWrite (j : Nat) (v : U64) (s : State) : Host.Outcome State Fault Refusal :=
  let page := v.toNat % 2 ^ 24
  let valid := bitAt v.toNat 63
  let pool := spareAddr s 0 ≤ page * 4096 && decide (page * 4096 < spareAddr s 1024)
  .next (s.when (decide (j < 1024) && !s.on (BSM_REMAP.BUSY j) && !(valid && pool)) fun s =>
    if !valid || !s.on BSM_STATUS.CLEAR_DONE then (s.wr (BSM_REMAP.VALID j) (b2n valid)).wr (BSM_REMAP.PAGE j) page
    else
      let s := s.modBsm fun x => { x with copies := Tbl.put x.copies j (remapOf s page), copyPage := Tbl.put x.copyPage j page }
      s.set1 (BSM_REMAP.BUSY j))

/-- One casement as a page copy writes it: corrected, or poison. -/
def copyCas (w : Casement) : Casement :=
  match casDecode w with
  | .bad => casPoison
  | .poisoned => casPoison
  | _ => casEncode (casCorrect w)

/-- The copy of a page ends: from now on accesses go to the spare; an older entry of the page gives it up. -/
def execRemapCopyDone (j : Nat) (s : State) : Host.Outcome State Fault Refusal :=
  match Tbl.find s.bsm.copies j, Tbl.find s.bsm.copyPage j with
  | some old, some page =>
    let src := match old with
      | some i => spareAddr s i
      | none => page * 4096
    let s := s.each (List.range 64) fun s i =>
      let b := getBurst s (src + 64 * i)
      let a := spareAddr s j + 64 * i
      putBurst s a { c0 := copyCas b.c0, c1 := copyCas b.c1, addr := a / 64 % 2 ^ 48, gen := s.rd BSM_STATUS.GEN }
    let s := match old with
      | some i => s.clr1 (BSM_REMAP.VALID i)
      | none => s
    let s := s.modBsm fun x => { x with copies := Tbl.del x.copies j, copyPage := Tbl.del x.copyPage j }
    .next (((s.clr1 (BSM_REMAP.BUSY j)).set1 (BSM_REMAP.VALID j)).wr (BSM_REMAP.PAGE j) page)
  | _, _ => .next s

/-- A word of the Hall's context store is uncorrectable: the command is resolved and completes with Internal Error (R422). -/
def execContextStoreUe (n : Nat) (s : State) : Host.Outcome State Fault Refusal :=
  .next (s.when (s.ctx n).isSome fun s =>
    cutWriter (memoryUe (bsmCount (bsmLog s 3 4 0 n 0) 3 4 n) 4 n 0) n 0 0x06)

end Sys2Proof.Machine
end

