-- ==== Sys2Proof/Machine/Recovery.lean ====
section
/-!
DEFINITION. Recovery (Table 5-17): the steps that rebuild the map from flash after a reset of the Pantry, restore the dump and make the
device ready.
-/
namespace Sys2Proof.Machine

/-! ## Steps 2 to 4 -/

/-- Step 2: the DRAM is trained, but for a subchannel that the configuration store records as retired (R425), and cleared. -/
def recoverDram (s : State) : State :=
  let s := s.each [0, 1] fun s k =>
    if s.bsm.retiredRec.contains k then s.wr BSM_CTL.RETIRE (s.rd BSM_CTL.RETIRE ||| 2 ^ k)
    else (s.wr (BSM_SUBCH_STATUS.STATE k) 1).wr BSM_STATUS.IN_SERVICE (s.rd BSM_STATUS.IN_SERVICE ||| 2 ^ k)
  let s := s.set1 BSM_STATUS.TRAINED
  let s := s.each s.bsm.retiredRec fun s k => retireSub s k 3
  let one := s.bsm.retiredRec.length == 1
  dramCleared (dramClear (s.wr PAN_STATUS.DEGRADED (b2n one)))

/-- Raw flash in bytes, and the limit of R169. -/
def rawBytes (s : State) : Nat := diesInService s * (runningImage s).dieGb * 10 ^ 9
def rawLimit (s : State) : Nat := 8 * 2 ^ 40 * s.bsm.gib

/-- The size check of R169. -/
def sizeCheck (s : State) : State :=
  if rawLimit s < rawBytes s then
    if s.on PAN_STATUS.SIZE_ERR then s
    else post (s.set1 PAN_STATUS.SIZE_ERR) 0x0040 5 2 0xFF s.bsm.gib (ceilDiv (rawBytes s) (10 ^ 12))
  else s

/-! ## Steps 5 and 6: the lap and the journal (R200 to R203) -/

/-- The copy that recovery loads of a segment, if one can be read. -/
def loadCopy (s : State) (bad : List (Nat × Bool)) (seg : Nat) : Option SegCopy :=
  match bad.find? fun b => b.1 == seg with
  | none => Tbl.find s.pan.flash.copies seg
  | some (_, prev) => if prev then Tbl.find s.pan.flash.prevCopies seg else none

/-- The map as the lap's copies give it. -/
def loadMap (s : State) (bad : List (Nat × Bool)) : MapImg :=
  let f := s.pan.flash
  let m : MapImg := { resGrp := f.resGrp, dir := f.dir }
  (Tbl.keys f.copies).foldl (fun m seg =>
    match loadCopy s bad seg with
    | none => m
    | some c => { m with ext := c.ext.foldl (fun t e => Tbl.put t e.1 e.2) m.ext, grp := c.grp.foldl (fun t e => Tbl.put t e.1 e.2) m.grp }) m

/-- The location of a group within its segment copy: where the journal stream put it is not modelled: free values. (DEDUCED: log entry 70.) -/
def parkLoc (k : Nat) : ExtEnt → ExtEnt
  | .split g => .parked (Config.freeNat k % 2 ^ 20) (Config.freeNat (k + 1) % 2 ^ 22) (decide (g % 2 = 1)) g
  | e => e

/-- Groups beyond the exception area are not loaded; their extents are PARKED (R203). -/
def parkMap (s : State) (m : MapImg) : State × MapImg :=
  let total := groupsTotal s
  let over_ (e : ExtEnt) : Bool := match e with
    | .split g => decide (total ≤ g)
    | _ => false
  let f := s.free
  let n := m.ext.countP fun e => over_ e.2
  let ext := Tbl.mapV m.ext fun p e => if over_ e then parkLoc (f + 2 * p) e else e
  let s := if n = 0 then s else post s 0x0041 3 2 0xFF n
  (s.ticks (if n = 0 then 0 else 2 * 2 ^ 40), { m with ext := ext, grp := Tbl.keep m.grp fun g _ => decide (g < total), resGrp := m.resGrp.filter fun g => decide (g < total) })

def recoverLoad (s : State) (bad : List (Nat × Bool)) : State :=
  let (s, m) := parkMap s (loadMap s bad)
  s.modPan fun p => { p with img := m }

/-- The number of the first record after the last durable batch: a batch is always whole. -/
def afterJournal (s : State) : Nat :=
  match s.pan.flash.journal.getLast? with
  | some e => (e.1 / batchRecs + 1) * batchRecs
  | none => 0

/-- Extents that a segment unreadable in both laps describes are lost (R190, R202). -/
def loseSegments (s : State) (bad : List (Nat × Bool)) : State :=
  s.each (bad.filter fun b => (loadCopy s bad b.1).isNone && Tbl.has s.pan.flash.copies b.1) fun s b =>
    match (ckptSegs s)[b.1]? with
    | none => s
    | some rg =>
      let hit (e : ExtEnt) (p : Nat) : Bool := (rg.1 = 0 && p / 2097152 == rg.2) ||
        (rg.1 = 5 && match e with
          | .split g => g / 8192 == rg.2
          | _ => false)
      let exts := (allExtents s).filter fun x => match extPlace s.pan.img x.1 x.2.1 with
        | some p => hit x.2.2 p
        | none => false
      s.each exts fun s e => rangeLost s e.1 (e.2.1 * 256) 256 3 true

/-- Step 6: the journal is replayed from the LAP_BEGIN of the oldest lap loaded. -/
def recoverReplay (s : State) (bad : List (Nat × Bool)) : State :=
  let f := s.pan.flash
  let from_ := if bad.any fun b => b.2 then f.prevLapBegin else f.lapBegin
  let m := replay s s.pan.img (f.journal.filter fun e => decide (from_ ≤ e.1))
  let next := afterJournal s
  let s := s.modPan fun p => { p with
    img := m, nextSeq := next, openFirst := next, openBatch := [], closed := [],
    durable := (f.journal.getLast?).map fun _ => next - 1, pageSeq := next / 126, cleanEnd := false }
  loseSegments s bad

/-! ## Step 7: the dump (R34, R238, R387, R597, R623) -/

/-- A record of the dumped journal tail: it is applied and appended again. A deferred error whose record it is waits for it once more. -/
def redoRec (s : State) (m : MapImg) (r : JRec) : State × MapImg :=
  let m := applyRec (groupsUsable s) (parkedGroup s.pan.flash) (fun _ => false) m r
  let s := jAppend s r
  let s := if r.typ = 0x08 then s.modHall fun h => { h with deferWait := h.deferWait ++ [{ nsid := r.nsid, first := r.first, count := r.count, cause := r.aux }] }
           else if r.typ = 0x0A then s.modPan fun p => { p with eraseMarks := (locSuite r.loc, p.nextSeq - 1) :: p.eraseMarks }
           else s
  (s, m)

def redoTail (s : State) (tail : List (Nat × JRec)) : State :=
  let (s, m) := (tail.filter fun e => e.2.typ != 0).foldl (fun a e => redoRec a.1 a.2 e.2) (s, s.pan.img)
  s.modPan fun p => { p with img := m }

/-- The dumped slot of an overlay entry, if it was found. -/
def dumpedSlot (img : DumpImg) (d : DumpFound) (key : Nat) (e : OvEnt) : Option Nat :=
  (img.slots.find? fun x => d.slots.contains x.1 && unitKey x.2.ns x.2.unit == key && x.2.tag == e.commit && decide (3 ≤ x.2.st)).map fun x => x.1

/-- What becomes of an overlay entry (R623): its dumped slot is re-entered, its destination holds it, or it is lost. -/
def restoreEnt (img : DumpImg) (d : DumpFound) (key : Nat) (e : OvEnt) : Option OvEnt :=
  match dumpedSlot img d key e with
  | some k => some { e with st := .larder k }
  | none => match e.st with
    | .passed a b => some { e with st := .passed a b }
    | .programming a b => if d.restored.contains (key / 2 ^ 40, key % 2 ^ 40) then some { e with st := .passed a b } else none
    | .larder _ => none

/-- A dumped slot goes back to its number. -/
def backSlot (s : State) (img : DumpImg) (k st : Nat) : State :=
  match Tbl.find img.slots k with
  | some x => s.modLdr fun l => { l with slots := Tbl.put l.slots k { x with st := st, pins := 0, passed := false } }
  | none => s

/-- The overlay of the dump comes back with its commits, and the slots found join the host streams. -/
def restoreOverlay (s : State) (img : DumpImg) (d : DumpFound) : State :=
  let s := s.modPan fun p => { p with
    overlay := img.overlay.filterMap fun e => (restoreEnt img d e.1 e.2).map fun x => (e.1, x),
    ovHigh := max p.ovHigh img.overlay.length, commits := img.commits, nextTag := max p.nextTag img.nextTag,
    grpReserved := p.grpReserved + Tbl.countV img.commits fun c => c.group }
  let slots (t : Nat) : List Nat := s.pan.overlay.filterMap fun e => if e.2.commit == t then (match e.2.st with
    | .larder k => some k
    | _ => none) else none
  s.each img.commits fun s c =>
    let l := slots c.1
    let s := s.each l fun s k => backSlot s img k 3
    if l.isEmpty then s else joinHost s c.2.nsid c.2.extent none l

/-- Acknowledged units that nothing restores are armed with cause 0x4 (R34, R623). -/
def armRest (s : State) (img : DumpImg) (d : DumpFound) : State :=
  let gone := img.overlay.filter fun e => (restoreEnt img d e.1 e.2).isNone
  let exts := (gone.map fun e => e.1 / 256).dedup
  s.each exts fun s x =>
    let units := (gone.filter fun e => e.1 / 256 == x).map fun e => e.1 % 2 ^ 40
    s.each (unitRuns units) fun s r => rangeLost s (x * 256 / 2 ^ 40) r.1 r.2 4 true

/-- Wave C: an atomic unit fully admitted and not committed is applied whole where every slot of it was found, else not at all (R31). One of
a worker's share waits for its resend (R597). -/
def restoreUnits (s : State) (img : DumpImg) (d : DumpFound) : State :=
  s.each img.units fun s e =>
    let (n, u) := e
    let l := Tbl.vals u.slots
    if img.manifestOnly || !l.all (fun k => d.slots.contains k) then s
    else
      let s := s.each l fun s k => backSlot s img k 2
      if u.share ≠ 0 then
        s.modHall fun h => { h with tails := Tbl.put h.tails n { ns := u.ns, units := (((Tbl.find h.tails n).map fun t => t.units).getD []) ++ [u] } }
      else
        let (s, _) := overlayCommit s n u (Tbl.keys u.slots) none
        let rest := (u.units.filter fun k => !Tbl.has u.slots k).map (own s)
        if rest.isEmpty then s else directCommit s u.ns 0x05 rest

/-- Requests to workers that are not resent are forgotten (R597). -/
def keepWrites (s : State) : State :=
  s.modSta fun x => { x with reqs := x.reqs.filter fun r => r.req.kind == 2 && (Tbl.find s.hall.tails r.req.ingest).any fun t => t.units.any fun u => u.share == r.w && u.ext == r.ext }

/-- Every suite that was OPEN ends SHORT and CLOSED, UNPROTECTED where no accumulator survived; fold sources whose destination is among them
are not folded further (R387, R390). -/
def closeOpen (s : State) (protected_ : Bool) : State :=
  let l := (s.scu.suites.filter fun e => e.2.st == 1).map fun e => e.1
  let stopped := (s.scu.suites.filter fun e => e.2.foldSource && decide (1 ≤ e.2.st ∧ e.2.st ≤ 2) && l.contains (e.2.foldDest % 2 ^ 20)).map fun e => e.1
  let s := s.modScu fun x => { x with foldStopped := x.foldStopped ++ stopped }
  s.each l fun s k => closedSuite (s.modSuite k fun x => { x with short := true, unprotected := x.unprotected || !protected_ }) k

/-- Step 7. LDR_DUMP_STATUS tells how the last dump ended (R249). -/
def recoverDump (s : State) (d : DumpFound) : State :=
  let s := match s.ldr.dumpImg with
    | none => keepWrites (closeOpen ((s.wr LDR_DUMP_STATUS.RESULT s.ldr.lossResult).wr LDR_DUMP_STATUS.DURATION 0xFFFF) false)
    | some img =>
      let d := if img.manifestOnly then { d with slots := [], result := 5, duration := 0xFFFF } else d
      let s := ((s.wr LDR_DUMP_STATUS.RESULT d.result).wr LDR_DUMP_STATUS.DURATION d.duration).wr LDR_DUMP_STATUS.CODEWORDS d.codewords
      let s := restoreOverlay (closeOpen (redoTail s img.tail) (!img.manifestOnly)) img d
      keepWrites (panFlags (restoreUnits (armRest s img d) img d))
  s.modLdr fun l => { l with lossResult := 0 }

/-! ## Step 8: the Scullery (R375, R379, R387, R397) -/

/-- A stripe group's dump area: after a dump its suite is erased and returns to the pool; the least-worn ERASED suite takes its place. -/
def dumpSuites (s : State) (dumped : Bool) : State :=
  s.each ((List.range 32).filter fun g => decide (g < otconPorts s / 2)) fun s g =>
    let old := (s.scu.suites.find? fun e => e.1 % 32 == g && e.2.st == 7).map fun e => e.1
    if old.isSome && !dumped then s
    else match leastWorn s ((suiteNums s).filter fun k => k % 32 == g && isFree s k) with
      | none => s
      | some k =>
        let s := suiteRecord (s.modSuite k fun x => { x with st := 7 }) k 7 (maskOf (openMembers s k)) 0
        match old with
        | some j => eraseIfDue (s.modSuite j fun x => { x with st := 4 }) j
        | none => s

/-- One ERASED suite of each reclaim group is held back: here the least worn. -/
def holdBack (s : State) : State :=
  s.each (List.range 8) fun s r =>
    if Tbl.has s.scu.heldBack r then s
    else match leastWorn s (pool s r) with
      | some k => s.modScu fun x => { x with heldBack := Tbl.put x.heldBack r k }
      | none => s

/-- Every suite that holds data is marked for erase: a sanitize erases them all (R153). -/
def markEvery (s : State) : State :=
  s.each (s.scu.suites.filter fun e => decide (1 ≤ e.2.st ∧ e.2.st ≤ 3) && !s.pan.eraseMarks.any fun m => m.1 == e.1) fun s e =>
    let s := s.modSuite e.1 fun x => { x with st := 3 }
    (jAppend s { typ := 0x0A, count := 1, loc := locWord e.1 0 }).modPan fun p => { p with eraseMarks := (e.1, p.nextSeq) :: p.eraseMarks }

def recoverSuites (s : State) : State :=
  let s := s.each (s.scu.suites.filter fun e => e.2.st == 4 || e.2.st == 5) fun s e => eraseIfDue (s.modSuite e.1 fun x => { x with st := 4 }) e.1
  let s := holdBack (dumpSuites s s.ldr.dumpImg.isSome)
  let s := s.modLdr fun l => { l with dumpImg := none }
  let s := s.each (List.range 8) poolCheck
  let s := if s.nvm.sanitize = some 2 then markEvery s else s
  if Tbl.has s.clo.conf 0x05 then s.modScu fun x => { x with initialSpare := some (confWord s 0x05) }
  else
    let n := (max 0 (spare s)).toNat
    (confAppend s 0x05 [n]).modScu fun x => { x with initialSpare := some n }

/-! ## Step 9 (R114, R115, R597) -/

/-- The manager resends the writes that awaited SDONE COMMITTED to the workers that are active; for the others they are given up whole. (DEDUCED: log entry 69.) -/
def resendWrites (s : State) : State :=
  let dead (r : StairReq) : Bool := !workerActive s r.w
  let gone := s.sta.reqs.filter dead
  let s := s.modSta fun x => { x with reqs := x.reqs.filter fun r => !dead r }
  let s := s.each gone fun s r => match Tbl.find s.hall.tails r.req.ingest with
    | none => s
    | some t =>
      let mine (u : WUnit) : Bool := u.share == r.w && u.ext == r.ext && u.st == .waiting
      let s := s.each ((t.units.filter mine).flatMap fun u => Tbl.vals u.slots) freeSlot
      s.modHall fun h => { h with tails := Tbl.upd h.tails r.req.ingest fun t => { t with units := t.units.map fun u => if mine u then { u with st := .abandoned, slots := [] } else u } }
  settleCheck (s.each ((s.sta.reqs.map fun r => r.w).dedup) stairPump)

/-- Deferred errors still Armed: ARM_INGEST becomes 1, and their events are raised again (R114, R115). -/
def rearm (s : State) : State :=
  let s := s.modHall fun h => { h with defer_ := h.defer_.map fun e => if e.armed then { e with armIngest := 1 } else e }
  let ns := ((s.hall.defer_.filter fun e => e.armed).map fun e => e.nsid).dedup
  s.each ns fun s k => asyncAll (s.modHall fun h => { h with deferUnread := k :: h.deferUnread }) 7 0xC0 0xC0 k

def recoverReady (s : State) : State :=
  let s := resendWrites s
  if !s.sta.reqs.isEmpty then s
  else
    let s := (s.set1 PAN_CTL.JOURNAL_EN).set1 PAN_CTL.CKPT_EN
    let s := lapStep s
    let s := hallReady ((rearm s).set1 HAL_CTL.FETCH_EN)
    s.wr PAN_STATUS.RECOVERY_STEP 0

end Sys2Proof.Machine
end

