-- ==== Sys2Proof/Machine/Admin.lean ====
section
/-!
DEFINITION. Admin commands that the Hall or the supervisor program executes (chapter 4): queues, Abort, events, namespaces, Format, Sanitize,
Device Self-test, Directives, Get LBA Status, Attic Clear.
-/
namespace Sys2Proof.Machine

/-! ## Executors (R125, R627) -/

/-- A command of the first row of Table 4-16 is executed by the Hall. -/
def byHall (s : State) (n : Nat) (f : Ctx → State) : State :=
  match s.ctx n with
  | none => s
  | some c => if c.st ≠ .fresh || c.stair.isSome || !adminGo s n then s else f c

/-- A command of the second row waits until the supervisor program turns. -/
def bySup (s : State) (n : Nat) (f : Ctx → State) : State := if supTurns s then byHall s n f else s

/-! ## Data of an admin command -/

/-- Byte `i` of a layout of fields: offset, size, value; bytes of no field are zero. -/
def layoutByte (l : List (Nat × Nat × Nat)) (i : Nat) : Nat :=
  match l.find? fun f => decide (f.1 ≤ i ∧ i < f.1 + f.2.1) with
  | some f => f.2.2 / 256 ^ (i - f.1) % 256
  | none => 0

/-- Bytes `off` to `off + len - 1` of a layout go to the host. -/
def sendLayout (s : State) (n : Nat) (l : List (Nat × Nat × Nat)) (off len : Nat) : State :=
  s.emit (.adminData n ((List.range len).map fun i => (1, layoutByte l (off + i))))

/-- Fields one after another, from an offset. -/
def layFields : Nat → List (Nat × Nat) → List (Nat × Nat × Nat)
  | _, [] => []
  | o, (n, v) :: r => (o, n, v) :: layFields (o + n) r

/-! ## Queues (R117, R118, R136, Table 3-1) -/

/-- UNSUPPORTED_OPCODE (R137). -/
def execUnsupportedOpcode (n : Nat) (s : State) : Host.Outcome State Fault Refusal :=
  .next (match s.ctx n with
    | some c => if c.st ≠ .fresh then s else match c.cmd with
      | .unknown _ _ => finish s n 0 1
      | _ => s
    | none => s)

def execCreateIoCompletionQueue (n : Nat) (s : State) : Host.Outcome State Fault Refusal :=
  .next (byHall s n fun c => match c.cmd with
    | .createCq qid size iv ien pc =>
      if !pc then finish s n 0 2
      else if qid = 0 || s.porch.ident.qpairs < qid || Tbl.has s.hall.cqs (qkey c.port qid) then finish s n 1 1
      else if size < 2 || 65536 < size then finish s n 1 2
      else if s.porch.ident.msix ≤ iv then finish s n 1 8
      else finishOk (s.modHall fun h => { h with cqs := Tbl.put h.cqs (qkey c.port qid) { size := size, iv := iv, ien := ien } }) n
    | _ => s)

def execCreateIoSubmissionQueue (n : Nat) (s : State) : Host.Outcome State Fault Refusal :=
  .next (byHall s n fun c => match c.cmd with
    | .createSq qid size cq prio pc =>
      if !pc then finish s n 0 2
      else if cq = 0 || !Tbl.has s.hall.cqs (qkey c.port cq) then finish s n 1 0
      else if qid = 0 || s.porch.ident.qpairs < qid || Tbl.has s.hall.sqs (qkey c.port qid) then finish s n 1 1
      else if size < 2 || 65536 < size then finish s n 1 2
      else finishOk (s.modHall fun h => { h with sqs := Tbl.put h.sqs (qkey c.port qid) { size := size, cq := cq, prio := prio % 4 } }) n
    | _ => s)

/-- DELETE_IO_SUBMISSION_QUEUE: entries not ingested are discarded, the others ended or applied by unit; the command completes once the queue's
completions have been posted (R117). -/
def execDeleteIoSubmissionQueue (n : Nat) (s : State) : Host.Outcome State Fault Refusal :=
  .next (byHall s n fun c => match c.cmd with
    | .deleteSq qid =>
      match Tbl.find s.hall.sqs (qkey c.port qid) with
      | none => finish s n 1 1
      | some q =>
        if qid = 0 || q.deleting.isSome then finish s n 1 1
        else
          let s := (s.modCtx n fun c => { c with st := .running }).modHall fun h =>
            { h with sqs := Tbl.put h.sqs (qkey c.port qid) { q with deleting := some n } }
          let s := s.each (s.hall.ctxs.filter fun e => e.2.port == c.port && e.2.sq == qid && e.2.stair.isNone) fun s e => deleteCtx s e.1 e.2
          settleCheck (deleteCheck s)
    | _ => s)

def execDeleteIoCompletionQueue (n : Nat) (s : State) : Host.Outcome State Fault Refusal :=
  .next (byHall s n fun c => match c.cmd with
    | .deleteCq qid =>
      if qid = 0 || !Tbl.has s.hall.cqs (qkey c.port qid) then finish s n 1 1
      else if s.hall.sqs.any fun e => e.1 / 65536 == c.port && e.2.cq == qid && e.1 % 65536 != 0 then finish s n 1 0x0C
      else finishOk (s.modHall fun h => { h with cqs := Tbl.del h.cqs (qkey c.port qid) }) n
    | _ => s)

/-- Commands of a port's admin queue of a kind that are outstanding, the command `n` included. (DEDUCED: log entry 61.) -/
def outstanding (s : State) (p n : Nat) (k : HostCmd → Bool) : Nat :=
  s.hall.ctxs.countP fun e => e.2.port == p && e.2.stair.isNone && k e.2.cmd && (e.2.st != .ready || e.1 == n)

/-- ABORT never aborts: "command not aborted" in Dword 0; a fifth one outstanding is refused (R116). -/
def execAbort (n : Nat) (s : State) : Host.Outcome State Fault Refusal :=
  .next (byHall s n fun c => match c.cmd with
    | .abort _ _ =>
      let k := outstanding s c.port n fun x => match x with
        | .abort _ _ => true
        | _ => false
      if 4 < k then finish s n 1 3 else finish s n 0 0 1
    | _ => s)

/-- ASYNCHRONOUS_EVENT_REQUEST: it completes with the next event; a ninth is refused (R114). -/
def execAsynchronousEventRequest (n : Nat) (s : State) : Host.Outcome State Fault Refusal :=
  .next (byHall s n fun c => match c.cmd with
    | .asyncEvent =>
      let k := outstanding s c.port n fun x => x == .asyncEvent
      if 8 < k then finish s n 1 5 else serveEvents (s.modCtx n fun c => { c with st := .running })
    | _ => s)

/-! ## Namespaces (R145, R595) -/

/-- The namespace attributes have changed: the Changed Namespace List of each controller, and its notice where it is enabled. -/
def noteNs (s : State) (ns : Nat) : State :=
  let s := s.each (portsInUse s) fun s p =>
    let old := Tbl.getD s.nvm.changedNs p []
    let s := s.modNvm fun x => { x with changedNs := Tbl.put x.changedNs p (if old.contains ns then old else ns :: old) }
    if bitAt (feat s (p + 1) 0x0B 0) 8 then asyncEvent s p 2 0 4 else s
  serveEvents s

/-- Exported units in use. -/
def unitsUsed (s : State) : Nat := s.nvm.spaces.foldl (fun a e => a + 256 * shareExtents s 0 e.2.extents) 0

/-- The manager's operation on every worker; the command ends when each has answered (R595). -/
def onWorkers (s : State) (n : Nat) (base : SReq) (size : Nat → Nat) : State :=
  let s := if isManager s then askBarrier s n base size else s
  settleCheck (s.modCtx n fun c => { c with st := .running })

/-- Whether every older command that overlaps a range has completed (R145, R152). (DEDUCED: log entry 67.) -/
def nsTurn (s : State) (n : Nat) (x : Span) : Bool :=
  s.hall.ctxs.all (fun e => decide (n ≤ e.1) || (e.2.st == .ready && e.2.wunits.all fun u => u.st != .waiting) ||
    !(e.2.reads ++ e.2.writes).any fun r => r.meets x) &&
  s.hall.tails.all fun e => decide (n ≤ e.1) ||
    e.2.units.all fun u => u.st != .waiting || !Span.meets { ns := u.ns, first := 256 * u.ext, count := 256 } x

/-- Every unit of a namespace that this device holds is unmapped. -/
def deallocAll (s : State) (ns : Nat) : State :=
  let k := 256 * shareExtents s 0 (((nspace s ns).map fun x => x.extents).getD 0)
  if k = 0 then s else panFlags (mapChange (leaveOverlay s ns 0 k) { typ := 0x04, nsid := ns, count := k, first := 0 })

/-- NAMESPACE_MANAGEMENT, create: the lowest free NSID, its chunks, its key of generation 1. -/
def nsCreateNow (s : State) (n : Nat) (nsze fmt pi : Nat) (pil : Bool) : State :=
  let per := if 4 ≤ fmt then 2048 else 256
  let exts := nsze / per
  match (List.range 129).find? fun k => 0 < k && !Tbl.has s.nvm.spaces k with
  | none => finish s n 1 0x16
  | some ns =>
    if Config.exportedUnits < unitsUsed s + 256 * shareExtents s 0 exts then finish s n 1 0x15
    else
      let s0 := s
      let s := s.modNvm fun x => { x with spaces := Tbl.put x.spaces ns { fmt := fmt, pi := pi, pil := pil, extents := exts } }
      let (s, r) := newNsKey s ns 1
      if r ≠ 0 then finish s0 n 7 0xC1
      else
        let own_ := shareExtents s 0 exts
        let s := mapChange s { typ := 0x0C, nsid := ns, count := own_, loc := fmt, aux := ceilDiv own_ 16384 }
        let s := s.modCtx n fun c => { c with dw0 := ns }
        onWorkers s n { kind := 7, nsid := ns, op := 1, fmt := fmt, gen := 1 } fun w => shareExtents s w exts

/-- A key slot of a namespace goes with it. -/
def dropNsKey (s : State) (ns : Nat) : State :=
  let s := match nsSlot s ns with
    | some k => s.modKslot k fun _ => {}
    | none => s
  let s := s.modStg fun g => { g with
    blobs := g.blobs.filter fun b => !(b.bind.nsid == ns && b.bind.kind != 1),
    ranges := (Tbl.del g.ranges (globalRange ns)).filter fun e => e.2.nsid != ns || 64 ≤ e.1 }
  eraseStale s

/-- NAMESPACE_MANAGEMENT, delete: a writer of the whole namespace, in its turn. -/
def nsDeleteNow (s : State) (n ns : Nat) : State :=
  let s := mapChange (deallocAll s ns) { typ := 0x0D, nsid := ns }
  let s := noteNs s ns
  let s := dropNsKey (s.modNvm fun x => { x with spaces := Tbl.del x.spaces ns, changedNs := x.changedNs }) ns
  onWorkers s n { kind := 7, nsid := ns, op := 2 } fun _ => 0

/-- Operations on namespaces wait for every configured worker (R595). -/
def workersReady (s : State) : Bool := !isManager s || allActive s

def execNamespaceManagement (n : Nat) (s : State) : Host.Outcome State Fault Refusal :=
  .next (bySup s n fun c => match c.cmd with
    | .nsCreate nsze _ fmt pi pil => if !workersReady s then finish s n 7 0xC3 else if !journalOn s then s else nsCreateNow s n nsze fmt pi pil
    | .nsDelete ns =>
      if !workersReady s then finish s n 7 0xC3
      else if !journalOn s || !nsTurn s n (wholeNs s ns) then s
      else nsDeleteNow s n ns
    | _ => s)

/-- NAMESPACE_ATTACHMENT: to controllers 0x0001 and, in port mode 0x1, 0x0002. -/
def execNamespaceAttachment (n : Nat) (s : State) : Host.Outcome State Fault Refusal :=
  .next (bySup s n fun c => match c.cmd with
    | .nsAttach ns l detach =>
      match nspace s ns with
      | none => finish s n 0 0x0B
      | some x =>
        if !workersReady s then finish s n 7 0xC3
        else if l.isEmpty || l.any fun k => !(k == 1 || (k == 2 && twoPorts s)) then finish s n 1 0x1C
        else if !detach && l.any fun k => x.attached.contains k then finish s n 1 0x18
        else if detach && l.any fun k => !x.attached.contains k then finish s n 1 0x1A
        else
          let new := if detach then x.attached.filter fun k => !l.contains k else (x.attached ++ l.dedup)
          let s := noteNs (s.modNvm fun y => { y with spaces := Tbl.put y.spaces ns { x with attached := new } }) ns
          onWorkers s n { kind := 6, nsid := ns } fun _ => 0
    | _ => s)

/-! ## Format and Sanitize (R152, R153, R441, R457) -/

/-- The ctx of a namespace operation keeps the tag of its last record: it settles when the record is durable. -/
def holdForRecord (s : State) (n ns : Nat) : State :=
  let (s, t) := recordTag s
  let u : WUnit := { ns := ns, ext := 0, units := [], st := .committed, tag := some t }
  match s.ctx n with
  | some _ => s.modCtx n fun c => { c with st := .running, wunits := [u] }
  | none => s.modHall fun h => { h with tails := Tbl.put h.tails n { ns := ns, units := [u] } }

/-- A format in its turn: every extent deallocated, for SES 1h and 2h a new key under the next generation, and the FORMAT record; it ends
when that is durable (R152, R441). -/
def formatNow (s : State) (n ns ses fmt pi : Nat) (pil : Bool) : State :=
  match nspace s ns with
  | none => finish s n 0 0x0B
  | some x =>
    let gen := if ses = 0 then x.gen else x.gen + 1
    let (s1, r) := if ses = 0 then (s, 0) else newNsKey s ns gen
    if r ≠ 0 then finish s n 7 0xC1
    else
      let s := deallocAll s1 ns
      let exts := if 4 ≤ fmt then x.extents else x.extents
      let s := s.modNvm fun y => { y with spaces := Tbl.put y.spaces ns { x with fmt := fmt, pi := pi, pil := pil, extents := exts, formatting := some n, fmtSes := ses } }
      let s := jAppend s { typ := 0x0E, nsid := ns, loc := fmt, aux := if ses = 0 then 0 else gen }
      let s := noteNs (holdForRecord s n ns) ns
      let s := if isManager s && (s.ctx n).isSome then askBarrier s n { kind := 7, nsid := ns, op := 3, fmt := fmt, gen := gen } (fun w => shareExtents s w x.extents) else s
      settleCheck s

/-- FORMAT_NVM. After a tamper alarm no new key can be made: Keys Unavailable, and nothing changes (R152, R467). -/
def execFormatNvm (n : Nat) (s : State) : Host.Outcome State Fault Refusal :=
  .next (bySup s n fun c => match c.cmd with
    | .format ns ses fmt pi pil =>
      if ses ≠ 0 && s.on STG_STATUS.TAMPERED then finish s n 7 0xC1
      else if !workersReady s then finish s n 7 0xC3
      else if !journalOn s || !nsTurn s n (wholeNs s ns) then s
      else formatNow s n ns ses fmt pi pil
    | _ => s)

/-- Whether a Sanitize may begin: every older command has completed. -/
def sanitizeTurn (s : State) (n : Nat) : Bool := nsTurn s n { ns := 0, first := 0, count := 0, all := true }

/-- A new key for a Locking range: the next generation; with locking enabled a KIND 0x4 pending blob (R457), else one under AUTHORITY 0. -/
def newRangeKey (s : State) (r : Nat) (pending : Bool) : State × Nat :=
  let x := s.range r
  let gen := x.gen + 1
  let kind := if pending && x.enabled then 4 else 3
  let b : Binding := { kind := kind, nsid := x.nsid, range := r }
  let creds := if x.enabled && !pending then x.auths.map fun a => (a, Tbl.getD s.stg.creds a 0) else []
  let (s, k) := generateKey s b gen x.slot creds
  if k ≠ 0 then (s, k) else (s.modRange r fun y => { y with gen := gen, pending := pending && x.enabled }, 0)

/-- Every namespace is emptied. -/
def emptyAll (s : State) : State := s.each (Tbl.keys s.nvm.spaces) deallocAll

/-- SANITIZE_CRYPTO_ERASE in its turn: a new media seed, then a new key for every namespace and range; it ends when the SANITIZE record is
durable. (DEDUCED: log entry 66.) -/
def cryptoErase (s : State) : State :=
  let s := emptyAll s
  let (s, bad) := seedReplace s
  let s := s.each s.nvm.spaces fun s e =>
    let gen := e.2.gen + 1
    jAppend (pendingNsKey s e.1 gen).1 { typ := 0x0E, nsid := e.1, loc := e.2.fmt, aux := gen }
  let s := s.each (s.stg.ranges.filter fun e => e.1 < 64 && 0 < e.2.len) fun s e => (newRangeKey s e.1 true).1
  if bad = 0 then eraseStale (jAppend s { typ := 0x0F, aux := 4 })
  else s.modNvm fun x => { x with sanitize := none, sanFailed := true }

/-- SANITIZE_BLOCK_ERASE in its turn: every suite is marked for erase; it ends when all have been erased. -/
def blockErase (s : State) : State :=
  let s := emptyAll s
  let s := s.each (Tbl.keys s.ldr.fronts) endSuite
  sanitizeCheck (jAppend (markEvery s) { typ := 0x0F, aux := 2 })

def sanitizeRow (s : State) (n action : Nat) : State :=
  bySup s n fun c => match c.cmd with
    | .sanitize a =>
      if a ≠ action then s
      else if !workersReady s then (finish s n 7 0xC3).modNvm fun x => { x with sanitize := none }
      else if !journalOn s || !sanitizeTurn s n then s
      else
        let s := finishOk s n
        let s := if isManager s then askBarrier s n { kind := 6 } (fun _ => 0) else s
        if a = 4 then cryptoErase s else blockErase s
    | _ => s

def execSanitizeCryptoErase (n : Nat) (s : State) : Host.Outcome State Fault Refusal := .next (sanitizeRow s n 4)
def execSanitizeBlockErase (n : Nat) (s : State) : Host.Outcome State Fault Refusal :=
  .next (if (s.ctx n).isNone && s.nvm.sanitize = some 2 && journalOn s then blockErase s else sanitizeRow s n 2)

/-! ## Device Self-test (R154, R569, R570) -/

def startTest (s : State) (n : Nat) (ext : Bool) : State :=
  bySup s n fun c => match c.cmd with
    | .selfTest code ns =>
      if code ≠ (if ext then 2 else 1) then s
      else if s.atc.dst.isSome then finish s n 1 0x1D
      else if ns ≠ 0 && ns ≠ 0xFFFFFFFF && (nspace s ns).isNone then finish s n 0 0x0B
      else finishOk (s.modAtc fun a => { a with dst := some { ext := ext, port := c.port, nsid := ns, at_ := s.pwr.opSec } }) n
    | _ => s

def execDeviceSelfTestShort (n : Nat) (s : State) : Host.Outcome State Fault Refusal := .next (startTest s n false)
def execDeviceSelfTestExtended (n : Nat) (s : State) : Host.Outcome State Fault Refusal := .next (startTest s n true)

/-- DEVICE_SELF_TEST_ABORT: result 1h with DST_DETAIL 0x3; without a test it has no effect. -/
def execDeviceSelfTestAbort (n : Nat) (s : State) : Host.Outcome State Fault Refusal :=
  .next (bySup s n fun c => match c.cmd with
    | .selfTest 0xF _ => finishOk (match s.atc.dst with
        | some d => dstEnd s 1 d.seg 3 0
        | none => s) n
    | _ => s)

/-! ## Directives, LBA status, Attic Clear (R136, R163, R560) -/

/-- DIRECTIVE_SEND of the Identify directive: Enable Directive for a directive type changes nothing that this device keeps. (PRESUMED: log entry 62.) -/
def execDirectiveSend (n : Nat) (s : State) : Host.Outcome State Fault Refusal :=
  .next (bySup s n fun c => match c.cmd with
    | .directive true _ oper _ => if oper = 1 then finishOk s n else finish s n 0 2
    | _ => s)

/-- DIRECTIVE_RECEIVE of the Identify directive: Return Parameters: the Identify and Data Placement directives are supported, and enabled while
FDP is. -/
def execDirectiveReceive (n : Nat) (s : State) : Host.Outcome State Fault Refusal :=
  .next (bySup s n fun c => match c.cmd with
    | .directive false _ oper _ =>
      if oper ≠ 1 then finish s n 0 2
      else finishOk (sendLayout s n [(0, 1, 5), (32, 1, 1 + 4 * b2n s.nvm.fdp)] 0 4096) n
    | _ => s)

/-- Runs of lost units: namespace, first unit, count (R115). A unit in the overlay has been written again. -/
def lostRuns (s : State) (ns : Nat) : List (Nat × Nat) :=
  let l := (allExtents s).filter fun e => e.1 == ns
  unitRuns ((l.flatMap fun e => ((List.range 256).map fun k => e.2.1 * 256 + k).filter fun u =>
    (mapUnit s ns u).kind == .lost && !Tbl.has s.pan.overlay (unitKey ns u)).map (globalUnit s)) ++
  (s.nvm.lost.filter fun r => r.1 == ns).map fun r => r.2

/-- GET_LBA_STATUS: the ranges marked lost, from the first block named on. -/
def execGetLbaStatus (n : Nat) (s : State) : Host.Outcome State Fault Refusal :=
  .next (bySup s n fun c => match c.cmd with
    | .getLbaStatus ns slba =>
      let k := perUnit s ns
      let l := (lostRuns s ns).filter fun r => decide (slba < (r.1 + r.2) * k)
      let rows := l.flatMap fun r => [(8, r.1 * k), (4, r.2 * k), (1, 0), (1, 0), (2, 0)]
      let d := layFields 0 ([(4, l.length), (4, 0)] ++ rows)
      finishOk (sendLayout s n d 0 (8 + 16 * l.length)) n
    | _ => s)

/-- ATTIC_CLEAR: the ring is emptied, the clear record posted, and the old mirror sectors are erased after the completion (R560). (DEDUCED: log entry 123.) -/
def execAtticClear (n : Nat) (s : State) : Host.Outcome State Fault Refusal :=
  .next (bySup s n fun c => match c.cmd with
    | .atticClear _ =>
      let admin1 := (Tbl.find s.stg.sessions c.port).any fun x => x.sp == 0 && x.auth == 1
      if !admin1 then finish s n 2 0x86
      else if s.atc.full then finish s n 0 0x0C
      else
        let removed := s.atc.ring.length
        let s := s.modAtc fun a => { a with ring := [], waiting := [], clearCount := (a.clearCount + 1) % 2 ^ 32, clearPending := true }
        finishOk (post s 0x0002 2 0xC 0xFF s.atc.clearCount removed (c.port + 1)) n
    | _ => s)

/-! ## What recovery starts again (Table 3-9, R153) -/

/-- A Format and a crypto erase that a power loss cut off start again once the device is ready. -/
def restartOps (s : State) : State :=
  if !s.on PAN_CTL.JOURNAL_EN then s
  else
    let s := s.each (s.nvm.spaces.filter fun e => e.2.formatting.isSome) fun s e => formatNow s 0 e.1 e.2.fmtSes e.2.fmt e.2.pi e.2.pil
    if s.nvm.sanitize = some 4 then cryptoErase s else s

/-- RECOVERY: one step of Table 5-17, after the one before it. A hole in the kept journal stops it for good (R201). -/
def execRecovery (step : Nat) (hole : Option Nat) (badSegs : List (Nat × Bool)) (dump : DumpFound) (s : State) : Host.Outcome State Fault Refusal :=
  let at_ (s : State) (k : Nat) : State := s.wr PAN_STATUS.RECOVERY_STEP k
  let now := s.rd PAN_STATUS.RECOVERY_STEP
  if !running s || s.pwr.frozen || s.porch.recovery || s.on PAN_CTL.JOURNAL_EN || s.pan.holePage.isSome then .next s
  else if step = 9 && now = 9 then .next (restartOps (recoverReady s))
  else if step ≠ now + 1 then .next s
  else match step with
    | 1 | 3 => .next (at_ s step)
    | 2 => .next (recoverDram (at_ s 2))
    | 4 => .next (sizeCheck (at_ s 4))
    | 5 => .next (recoverLoad (at_ s 5) badSegs)
    | 6 => match hole with
      | some k =>
        let s := (at_ s 6).modPan fun p => { p with holePage := some k }
        let s := s.each (portsInUse s) fun s p => s.modHport p fun h => { h with cfs := true }
        .next (post s 0x0042 5 2 0xFF (k % 2 ^ 32) (k / 2 ^ 32))
      | none => .next (recoverReplay (at_ s 6) badSegs)
    | 7 => .next (recoverDump (at_ s 7) dump)
    | 8 => .next (recoverSuites (at_ s 8))
    | 9 => .next (restartOps (recoverReady (at_ s 9)))
    | _ => .next s

end Sys2Proof.Machine
end

