-- ==== Sys2Proof/Machine/Closet.lean ====
section
/-!
DEFINITION. The Closet (chapter 13): the NOR die and its operations, protection, boot records and the swap record, the choice of an
image at boot, firmware download and commit, activation, confirmation.
-/
namespace Sys2Proof.Machine

/-! ## Bytes (R471, R481, R487) -/

/-- One step of CRC-32C, reflected. -/
def crcBit (c : Nat) : Nat := if c % 2 = 1 then c / 2 ^^^ 0x82F63B78 else c / 2

/-- CRC-32C of a list of bytes. -/
def crc32c (l : List Nat) : Nat :=
  (l.foldl (fun c b => (List.range 8).foldl (fun c _ => crcBit c) (c ^^^ b % 256)) 0xFFFFFFFF) ^^^ 0xFFFFFFFF

/-- The `n` bytes of a number, least significant first. -/
def leBytes (n v : Nat) : List Nat := (List.range n).map fun i => v / 256 ^ i % 256

/-- First sector of a slot (Table 13-3). -/
def slotSector (k : Nat) : Nat := if k = 1 then 200 else if k = 2 then 8 else 520

/-- The slot and the leaf that a sector holds. -/
def sectorLeaf (sec : Nat) : Option (Nat × Nat) := ([1, 2, 3].find? fun k => decide (slotSector k ≤ sec ∧ sec < slotSector k + 192)).map fun k => (k, sec - slotSector k)

/-- What the model holds of a sector as records: a leaf, key blobs, configuration records, Attic records. -/
def sectorStore (s : State) (sec : Nat) : List Nat :=
  match sectorLeaf sec with
  | some (k, i) => ((Tbl.find s.clo.slots k).bind fun x => Tbl.find x.leaves i).toList
  | none =>
    if 392 ≤ sec && decide (sec < 456) then (s.stg.blobs.filter fun b => b.sector == sec).flatMap fun b => [b.bind.kind, b.bind.nsid, b.bind.range, b.bind.auth, b.gen, b.seq, b.salt]
    else if 456 ≤ sec && decide (sec < 512) then (if sec = 456 then s.clo.conf.flatMap fun e => e.1 :: e.2 else [])
    else if 712 ≤ sec && decide (sec < 776) then (Tbl.getD s.atc.mirror sec []).flatMap fun r => [r.code, r.seq, r.p0, r.p1, r.p2, r.p3]
    else []

/-- A byte of the NOR die as a read gives it. -/
def norByte (s : State) (a : Nat) : Nat :=
  match Tbl.find s.clo.nor a with
  | some b => b.toNat
  | none => match sectorStore s (a / 65536) with
    | [] => 0xFF
    | l => (Config.storeByte l (a % 65536)).toNat

/-- A byte with its marginal bits taken as 0 (R489). -/
def norFirm (s : State) (a : Nat) : Nat :=
  let m := (s.clo.marginal.filter fun b => b / 8 == a).foldl (fun v b => v ||| 2 ^ (b % 8)) 0
  norByte s a &&& (255 ^^^ m)

def norFirmNat (s : State) (a n : Nat) : Nat := (List.range n).foldl (fun v i => v + norFirm s (a + i) * 256 ^ i) 0

/-- A page program that runs to its end: every 0 bit of the data is solid 0 (R472). A page of a leaf makes another leaf of it. -/
def norWrite (s : State) (a : Nat) (l : List Byte) : State :=
  let s := s.each ((List.range l.length).zip l) fun s p =>
    let old := norByte s (a + p.1)
    s.modClo fun c => { c with
      nor := Tbl.setD c.nor (a + p.1) (BitVec.ofNat 8 (old &&& p.2.toNat)) 0xFF,
      marginal := c.marginal.filter fun b => !(b / 8 == a + p.1 && !p.2.getLsbD (b % 8)) }
  match sectorLeaf (a / 65536) with
  | none => s
  | some (k, i) => s.modClo fun c => { c with
      slots := Tbl.modD c.slots k {} fun x =>
        { x with leaves := Tbl.put x.leaves i (Config.leafAfter (Tbl.getD x.leaves i 0) (a % 65536) (l.map fun b => b.toNat)) } }

/-- A sector erase that runs to its end. -/
def norErase (s : State) (sec : Nat) : State :=
  let s := s.modClo fun c => { c with
    nor := c.nor.filter fun e => e.1 / 65536 != sec, marginal := c.marginal.filter fun b => b / 8 / 65536 != sec }
  match sectorLeaf sec with
  | none => s
  | some (k, i) => s.modClo fun c => { c with slots := Tbl.modD c.slots k {} fun x => { x with leaves := Tbl.del x.leaves i } }

/-! ## Boot records and the swap record (R487 to R490) -/

/-- A boot record (Table 13-8). -/
structure BootRec where
  active : Nat
  prev : Nat
  rejected : Nat
  swapAt : Nat
  activeDigest : Nat
  prevDigest : Nat
  deriving DecidableEq, Repr

/-- The address of twin A or B, and of the swap record or its mirror. -/
def twinBase (b : Bool) : Nat := if b then 512 * 65536 else 0
def swapBase (mirror : Bool) : Nat := if mirror then 516 * 65536 else 4 * 65536

/-- The record of a twin whose MAGIC, VERSION and CRC are good. -/
def readTwin (s : State) (b : Bool) : Option BootRec :=
  let a := twinBase b
  let f := norFirmNat s
  if f a 4 = 0x54424A43 && f (a + 4) 2 = 1 && f (a + 0xFC) 4 = crc32c ((List.range 0xFC).map fun i => norFirm s (a + i)) then
    some { active := f (a + 6) 1, prev := f (a + 7) 1, rejected := f (a + 8) 1, swapAt := f (a + 0xC) 4, activeDigest := f (a + 0x10) 48,
           prevDigest := f (a + 0x40) 48 }
  else none

/-- The first page of a record. -/
def recPage (r : BootRec) : List Byte :=
  let l := leBytes 4 0x54424A43 ++ leBytes 2 1 ++ [r.active, r.prev, r.rejected, 0, 0, 0] ++ leBytes 4 r.swapAt ++ leBytes 48 r.activeDigest ++
    leBytes 48 r.prevDigest ++ List.replicate 140 0
  (l ++ leBytes 4 (crc32c l)).map fun b => BitVec.ofNat 8 b

/-- Zero bits of a copy of the swap record, and whether they all come first (R488). -/
def swapCopy (s : State) (mirror : Bool) : Nat × Bool :=
  let base := swapBase mirror
  let zerosIn (a : Nat) : Nat := (List.range 8).countP fun i => !bitAt (norFirm s a) i
  let touched := (Tbl.keys s.clo.nor ++ s.clo.marginal.map fun b => b / 8).filter fun a => decide (base ≤ a ∧ a < base + 4 * 65536)
  let n := (touched.dedup.map zerosIn).foldl (· + ·) 0
  (n, (List.range (n / 8)).all (fun i => norFirm s (base + i) == 0) && (List.range (n % 8)).all fun i => !bitAt (norFirm s (base + n / 8)) i)

/-- A copy rewritten as the thermometer of `n`. -/
def writeSwap (s : State) (mirror : Bool) (n : Nat) : State :=
  let base := swapBase mirror
  let inside (a : Nat) : Bool := decide (base ≤ a ∧ a < base + 4 * 65536)
  s.modClo fun c =>
    let t := c.nor.filter fun e => !inside e.1
    let t := (List.range (n / 8)).foldl (fun (t : Tbl Byte) i => Tbl.setD t (base + i) 0 0xFF) t
    let t := if n % 8 = 0 then t else Tbl.setD t (base + n / 8) (BitVec.ofNat 8 (256 - 2 ^ (n % 8))) 0xFF
    { c with nor := t, marginal := c.marginal.filter fun b => !inside (b / 8) }

/-- Marginal bits of the twins and the swap records are completed to 0 (R489). -/
def completeMarginal (s : State) : State :=
  let area (b : Nat) : Bool := let k := b / 8 / 65536; decide (k < 8) || decide (512 ≤ k ∧ k < 520)
  let l := s.clo.marginal.filter area
  let s := s.each l fun s b => s.modClo fun c => { c with
    nor := Tbl.setD c.nor (b / 8) (BitVec.ofNat 8 ((Tbl.getD c.nor (b / 8) 0xFF).toNat &&& (255 ^^^ 2 ^ (b % 8)))) 0xFF }
  s.modClo fun c => { c with marginal := c.marginal.filter fun b => !area b }

/-- The settled swap count (R489). (DEDUCED: log entry 92.) -/
def settleSwap (s : State) : State × Nat :=
  let s := completeMarginal s
  let (n, okN) := swapCopy s false
  let (m, okM) := swapCopy s true
  if okN && okM then (writeSwap (writeSwap s false (max n m)) true (max n m), max n m)
  else if okN then (writeSwap s true n, n)
  else if okM then (writeSwap s false m, m)
  else
    let k := max (((readTwin s false).map fun r => r.swapAt).getD 0) (((readTwin s true).map fun r => r.swapAt).getD 0)
    (writeSwap (writeSwap s false k) true k, k)

/-- The swap count as it stands. -/
def swapCount (s : State) : Nat := (swapCopy s false).1

/-- The twin in force: A when the count is even, B when it is odd; the other when only its record is valid (R488, R491). -/
def inForce (s : State) (n : Nat) : Option (Bool × BootRec) :=
  let ok (b : Bool) : Option (Bool × BootRec) := (readTwin s b).bind fun r => if r.swapAt = n then some (b, r) else none
  match ok (n % 2 == 1) with
  | some x => some x
  | none => ok (n % 2 == 0)

/-- Unconfirmed starts counted in a twin, and whether its record is confirmed (R489, Table 13-8). -/
def attempts (s : State) (b : Bool) : Nat := (List.range 3).countP fun i => !bitAt (norFirm s (twinBase b + 0x100)) i
def confirmed (s : State) (b : Bool) : Bool := norFirmNat s (twinBase b + 0x200) 4 != 0xFFFFFFFF

/-- The next ATTEMPTS bit is programmed. -/
def addAttempt (s : State) (b : Bool) : State :=
  let k := attempts s b
  norWrite s (twinBase b + 0x100) [BitVec.ofNat 8 (255 - 2 ^ k)]

/-- Steps 1 and 2 of a swap (R490): the twin not in force is erased and its record programmed. -/
def writeTwin (s : State) (n : Nat) (r : BootRec) (born : Bool) : State :=
  let b := n % 2 == 0
  let s := s.each (List.range 4) fun s i => norErase s (twinBase b / 65536 + i)
  let s := norWrite s (twinBase b) (recPage { r with swapAt := n + 1 })
  if born then norWrite s (twinBase b + 0x200) [0, 0, 0, 0] else s

/-- The most swaps the record holds. -/
def maxSwaps : Nat := 2097152

/-! ## Images (R460, R481, R491 to R493) -/

/-- The leaves of a slot from leaf 0 on. -/
def slotLeaves (s : State) (k : Nat) : List Nat :=
  match Tbl.find s.clo.slots k with
  | none => []
  | some x => (List.range x.leaves.length).filterMap fun i => Tbl.find x.leaves i

def slotImage (s : State) (k : Nat) : Image := Config.imageOf (slotLeaves s k)

/-- VERIFY_IMAGE of a whole image: its key set is a fused one not revoked, its number not below the fuse, both signatures verify (R460). -/
def imageTrusted (s : State) (x : Image) : Bool :=
  !s.pwr.straps.testmode && s.stg.fuses.authors.any (fun e => e.2 == x.keySet && !bitAt s.stg.fuses.revoked e.1) && decide (s.stg.fuses.svn ≤ x.svn) && x.signed

/-- The checks of R492; `digest` is the one that ACTIVE or PREV must have, none for slot 1. -/
def slotOk (s : State) (k : Nat) (digest : Option Nat) : Bool :=
  let l := slotLeaves s k
  let x := slotImage s k
  ((Tbl.find s.clo.slots k).bind fun y => Tbl.find y.leaves 0).isSome && x.wellFormed && decide (x.leafCount ≤ l.length) && imageTrusted s x &&
  (match digest with
    | some d => k == 1 || x.digest.toNat == d
    | none => true)

/-- Bytes stored into a sequencer's RAM from local address `a`. -/
def loadBytes (s : State) (n a : Nat) (l : List Byte) : State :=
  s.modSeq n fun q => { q with ram := ((List.range l.length).zip l).foldl (fun (t : Tbl Byte) p => Tbl.setD t (a + p.1) p.2 0) q.ram }

/-- The supervisor program starts at its ENTRY (R322). (DEDUCED: log entry 38.) -/
def startSupervisor (s : State) (x : Image) : State :=
  let s := s.modSeq 64 fun q => { q with ram := [], g := [], t := false, rstack := [], inTrap := false, wait := none, pc := x.sup.entry, state := 1 }
  (loadBytes s 64 0 x.sup.bytes).modStd fun d => { d with trapVec := x.sup.trapVec, entry := x.sup.entry }

/-- The bytes of the boot ROM, which the first measurement covers (R493). -/
def bootRomBytes : List Nat := (List.range 65536).map fun i => (Config.bootRom i).toNat

/-- A slot is started: the fuse number, the measurements, the alias key, the seed, the identity, the protection and the handover (R493, R479,
R465, R50). -/
def startSlot (s : State) (k : Nat) (conf : Bool) : State :=
  let x := slotImage s k
  let s := if conf && x.raiseSvn && decide (s.stg.fuses.svn < x.svn) then s.modStg fun g => { g with fuses := { g.fuses with svn := x.svn } } else s
  let set := ((s.stg.fuses.authors.find? fun e => e.2 == x.keySet).map fun e => e.1).getD 0
  let s := s.modStg fun g => { g with
    devId := true, alias_ := true, mRom := Config.sha384 bootRomBytes, mImage := x.digest,
    mIdent := Config.sha384 [x.ident.ssvid, x.ident.ssid, b2n x.portMode, x.ident.maxRate, x.ident.msix, x.ident.qpairs, x.ident.pmAllow],
    mSvn := x.svn, mSet := set }
  let s := seedLoad s
  let s := ((s.wr PCH_PORT_CTL.PORT_MODE (b2n x.portMode)).wr PCH_PORT_CTL.MAX_RATE (if x.ident.maxRate = 0 then 7 else x.ident.maxRate)).set1 PCH_PORT_CTL.LOCK
  let s := s.modPorch fun p => { p with fixed := true, recovery := false, idle := isWorker s, ident := x.ident }
  let prot (sec : Nat) : Bool := decide (200 ≤ sec ∧ sec < 456) || decide (776 ≤ sec)
  let s := s.each (List.range 16) fun s j => s.wr (CLO_WP.PROT j) ((List.range 64).foldl (fun a i => if prot (64 * j + i) then a + 2 ^ i else a) 0)
  let s := s.set1 CLO_CTL.WP_LOCK
  let s := s.modScu fun c => { c with geo := x.geo, lapStart := s.pwr.opSec, lapPos := 0 }
  let s := s.modAtc fun a => { a with segSlots := max 1 (2048 * x.geo.rows) }
  let s := s.modClo fun c => { c with running := k, confirmSec := if conf || k = 1 then none else some 0 }
  let s := startSupervisor s x
  (s.set1 STD_SUP_STATUS.BOOT_DONE).modPwr fun p => { p with bootWait := false }

/-- The recovery identity (R52, R494). -/
def recoveryIdentity (s : State) : State :=
  let s := (s.wr PCH_PORT_CTL.PORT_MODE 0).set1 PCH_PORT_CTL.LOCK
  let s := s.modPorch fun p => { p with fixed := true, recovery := true, idle := false, ident := { ssvid := 0x1E73, ssid := 0x06FF, msix := 1, qpairs := 0 } }
  (s.modClo fun c => { c with recovery := true, running := 0 }).modPwr fun p => { p with bootWait := false }

/-- The slots that the choice tries, and what each must match (R491). -/
def bootOrder (r : BootRec) : List (Nat × Option Nat) :=
  let l := [(r.active, some r.activeDigest), (r.prev, some r.prevDigest), (1, none)]
  let l := l.filter fun e => !bitAt r.rejected e.1
  l.foldl (fun a e => if a.any fun x => x.1 == e.1 then a else a ++ [e]) []

/-- IMAGE_REVERT names the slot rejected and the slot started. -/
def noteRevert (s : State) (rej : Option Nat) (started : Nat) : State :=
  match rej with
  | some k => post s 0x0011 4 9 0xFF k started
  | none => s

/-- The fallback where no swap is possible (R500): the slot found starts, else the recovery identity. -/
def bootFallback (s : State) (r : BootRec) : Option (Nat × Option Nat) → State
  | some (j, _) => noteRevert (startSlot s j true) (some r.active) j
  | none => noteRevert (recoveryIdentity s) (some r.active) 0

/-- The slot that the choice picked under record `r` of twin `b` starts. An unconfirmed ACTIVE that has had three attempts is reverted by a swap,
and the choice begins again; where the swap is impossible, its old PREV, slot 1 or the recovery identity starts (R491, R500). -/
def bootPick (again : State → Nat → Option Nat → State) (s : State) (n : Nat) (rej : Option Nat) (b : Bool) (r : BootRec) :
    Option (Nat × Option Nat) → State
  | none => noteRevert (recoveryIdentity s) rej 0
  | some (k, _) =>
    if k = r.active && k ≠ 1 && !confirmed s b then
      if attempts s b = 3 then
        if n < maxSwaps then
          let new : BootRec := { active := r.prev, prev := 1, rejected := r.rejected ||| 2 ^ r.active, swapAt := 0, activeDigest := r.prevDigest, prevDigest := 0 }
          let s := writeTwin s n new true
          again (writeSwap (writeSwap s false (n + 1)) true (n + 1)) (n + 1) (some r.active)
        else bootFallback s r ([(r.prev, some r.prevDigest), (1, none)].find? fun e => slotOk s e.1 (if e.1 = 1 then none else e.2))
      else noteRevert (startSlot (addAttempt s b) k false) rej k
    else noteRevert (startSlot s k (confirmed s b || k ≠ r.active)) rej k

/-- The choice under the record in force, or without one (R491, R494). -/
def bootWith (again : State → Nat → Option Nat → State) (s : State) (n : Nat) (rej : Option Nat) : Option (Bool × BootRec) → State
  | none => if slotOk s 1 none then noteRevert (startSlot s 1 true) rej 1 else recoveryIdentity s
  | some (b, r) => bootPick again s n rej b r ((bootOrder r).find? fun e => slotOk s e.1 (if e.1 = 1 then none else e.2))

/-- The choice of R491, which a swap begins again at most `fuel` times. -/
def bootChoose : Nat → State → Nat → Option Nat → State
  | 0, s, _, _ => recoveryIdentity s
  | fuel + 1, s, n, rej => bootWith (bootChoose fuel) s n rej (inForce s n)

/-- BOOT_SLOT_CHOICE: once no Closet operation runs (R477) and PWRFAIL# has been released for 1 ms (R608). -/
def execBootSlotChoice (s : State) : Host.Outcome State Fault Refusal :=
  if !s.pwr.bootWait || s.clo.op.isSome || s.pwr.pwrfail || s.pwr.releaseCount then .next s
  else
    let (s, n) := settleSwap s
    .next (bootChoose 4 s n none)

/-! ## Supervisor operations (R472 to R476, R504) -/

/-- The bank of the supervisor's program counter, where it runs from the Closet window (R476). -/
def supervisorBank (s : State) : Option Nat :=
  let pc := (s.seq 64).pc
  if 0x4000000 ≤ pc && decide (pc < 0x8000000) then some ((pc - 0x4000000) / 0x2000000) else none

/-- The page buffer CLO_PAGE. -/
def cloPage (s : State) : List Byte := (List.range 256).map fun i => BitVec.ofNat 8 (bits (s.rd (CLO_PAGE.V (i / 8))) (8 * (i % 8)) 8)

/-- An outcome is reported to the supervisor: CLO_STATUS and the CLOSET event (R475). -/
def cloReport (s : State) (kind res : Nat) : State :=
  let s := (s.wr CLO_STATUS.OP kind).wr CLO_STATUS.RESULT res
  let s := if res = 2 then s.set1 CLO_STATUS.SELF_BANK else s
  raise s 64 (evWord 0x19 res)

/-- Why a supervisor request is refused (Table 13-2), 0 where it is not. (DEDUCED: log entry 88.) -/
def cloRefusal (s : State) (kind a : Nat) : Nat :=
  let sec := a / 65536
  if s.pwr.pwrfail then 7
  else if s.clo.op.isSome then 5
  else if a % (if kind = 2 then 65536 else 256) ≠ 0 then 8
  else if kind ≠ 3 && 392 ≤ sec && decide (sec < 456) then 6
  else if kind ≠ 3 && s.on STD_SUP_STATUS.BOOT_DONE && bitAt (s.rd (CLO_WP.PROT (sec / 64))) (sec % 64) then 3
  else if kind ≠ 3 && supervisorBank s = some (sec / 512) then 2
  else if kind = 1 && ((List.range 256).zip (cloPage s)).any (fun p =>
      (norByte s (a + p.1) ||| p.2.toNat) != norByte s (a + p.1) ||
      (List.range 8).any fun i => p.2.getLsbD i && s.clo.marginal.contains (8 * (a + p.1) + i)) then 4
  else 0

/-- A request through CLO_CMD with the CLO_ADDR and CLO_PAGE current. -/
def cloRequest (s : State) (kind : Nat) : State :=
  let a := s.rd CLO_ADDR.ADDR
  match cloRefusal s kind a with
  | 0 => (s.modClo fun c => { c with op := some { req := 0, kind := kind, addr := a, page := if kind = 1 then cloPage s else [] } }).wr CLO_STATUS.OP kind
  | r => cloReport s kind r

def execClosetProgram (s : State) : Host.Outcome State Fault Refusal := .next (cloRequest s 1)
def execClosetErase (s : State) : Host.Outcome State Fault Refusal := .next (cloRequest s 2)
def execClosetMarginRead (s : State) : Host.Outcome State Fault Refusal := .next (cloRequest s 3)

/-- CLO_WP_SET: protection is added whatever the lock (R505). -/
def execCloWpSet (k : Nat) (v : U64) (s : State) : Host.Outcome State Fault Refusal :=
  .next (if k < 16 then s.wr (CLO_WP.PROT k) (s.rd (CLO_WP.PROT k) ||| v.toNat) else s)

/-! ## Firmware download and commit (R150, R151, R495 to R498) -/

/-- FIRMWARE_IMAGE_DOWNLOAD: a portion is appended, or restarts the buffer at offset 0 (R150). -/
def execFirmwareImageDownload (n : Nat) (s : State) : Host.Outcome State Fault Refusal :=
  match s.ctx n with
  | none => .next s
  | some c => match c.cmd with
    | .fwDownload off len leaves =>
      if c.st ≠ .fresh || !supTurns s || !adminGo s n then .next s
      else
        let held := if off = 0 then 0 else s.nvm.fwLen
        if off % 65536 ≠ 0 || len % 65536 ≠ 0 || len ≠ 65536 * leaves.length || held < off || 12582912 < off + len then .next (finish s n 0 2)
        else if off < held then .next (finish s n 1 0x14)
        else .next (finishOk (s.modNvm fun x => { x with fwBuf := (if off = 0 then [] else x.fwBuf) ++ leaves, fwLen := off + len }) n)
    | _ => .next s

/-- The record in force, if any. -/
def recNow (s : State) : Option (Bool × BootRec) := inForce s (swapCount s)

/-- Whether R496 refuses a slot as the target of actions 0, 1 and 3. -/
def slotRefused (s : State) (k : Nat) : Bool :=
  if s.clo.recovery then false
  else
    k == s.clo.running ||
    match recNow s with
    | some (b, r) => k == r.active || (!confirmed s b && r.active != 1 && k == r.prev)
    | none => false

/-- The slot that a Firmware Commit acts on, none for Invalid Firmware Slot (Table 4-8). -/
def commitSlot (s : State) (action slot : Nat) : Option Nat :=
  if action = 2 then (if 1 ≤ slot && decide (slot ≤ 3) then some slot else none)
  else if slot = 0 then [2, 3].find? fun k => !slotRefused s k
  else if (slot = 2 || slot = 3) && !slotRefused s slot then some slot
  else none

/-- The record that selects slot `k` (R497). -/
def selectRec (s : State) (k : Nat) : BootRec :=
  let old : BootRec := ((recNow s).map fun x => x.2).getD { active := 1, prev := 1, rejected := 0, swapAt := 0, activeDigest := 0, prevDigest := 0 }
  let conf := match recNow s with
    | some (b, r) => confirmed s b || r.active == 1
    | none => true
  let run := s.clo.running
  let keep := run ≠ 0 && (conf || run = 1 || run ≠ old.active)
  { active := k, prev := if keep then run else old.prev, rejected := if bitAt old.rejected k then old.rejected - 2 ^ k else old.rejected, swapAt := 0,
    activeDigest := (slotImage s k).digest.toNat, prevDigest := if keep then (slotImage s run).digest.toNat else old.prevDigest }

/-- The next operation of a Firmware Commit's job. -/
def jobOp (s : State) (j : FwJob) : State :=
  let sec := slotSector j.slot
  let addr := match j.step with
    | 1 => sec * 65536
    | 2 => (sec + 1) * 65536
    | 3 => sec * 65536
    | 4 => twinBase (swapCount s % 2 == 0)
    | 5 => swapBase false + swapCount s / 8
    | _ => swapBase true + swapCount s / 8
  s.modClo fun c => { c with job := some j, op := some { req := 4, kind := if j.step = 1 then 2 else 1, addr := addr } }

/-- The job ends with a status; one that the manager's image began is reported to it (Table 16-9). -/
def jobEnd (s : State) (j : FwJob) (sct sc : Nat) : State :=
  let s := finish (s.modClo fun c => { c with job := none }) j.ingest sct sc
  if j.ingest = 0 then tellManager s 0x17 (.act (.written (sct == 0 && sc == 0))) else s

/-- The swap that selects the job's slot begins, where the record has room (R488, R490). -/
def startSwap (s : State) (j : FwJob) : State :=
  if swapCount s < maxSwaps then jobOp s { j with step := 4 } else jobEnd s j 1 6

/-- Firmware Commit with an action: refusals, the checks of the buffer, and the first Closet operation. -/
def fwCommit (s : State) (n action : Nat) : State :=
  match s.ctx n with
  | none => s
  | some c => match c.cmd with
    | .fwCommit a slot =>
      if c.st ≠ .fresh || a ≠ action || !supTurns s || s.clo.op.isSome || s.clo.job.isSome || s.hall.activating.isSome then s
      else match commitSlot s a slot with
        | none => finish s n 1 6
        | some k =>
          if a = 3 && (s.nvm.sanitize.isSome || s.nvm.spaces.any fun e => e.2.formatting.isSome) then finish s n 1 0x13
          else if a = 2 then
            if k = s.clo.running then finishOk s n
            else if !slotOk s k none then finish s n 1 7
            else startSwap (s.modCtx n fun c => { c with st := .running }) { ingest := n, action := a, slot := k }
          else
            let x := Config.imageOf s.nvm.fwBuf
            if !(x.wellFormed && decide (x.leafCount ≤ s.nvm.fwBuf.length) && imageTrusted s x) then finish s n 1 7
            else jobOp (s.modCtx n fun c => { c with st := .running }) { ingest := n, action := a, slot := k, leaves := s.nvm.fwBuf.take x.leafCount, step := 1 }
    | _ => s

def execFwCommitReplace (n : Nat) (s : State) : Host.Outcome State Fault Refusal := .next (fwCommit s n 0)
def execFwCommitReplaceActivateReset (n : Nat) (s : State) : Host.Outcome State Fault Refusal := .next (fwCommit s n 1)
def execFwCommitActivateExisting (n : Nat) (s : State) : Host.Outcome State Fault Refusal := .next (fwCommit s n 2)
def execFwCommitActivateNow (n : Nat) (s : State) : Host.Outcome State Fault Refusal := .next (fwCommit s n 3)

/-- The firmware activation notice, where a controller has it enabled (Table 4-3). (PRESUMED: log entry 74.) -/
def activationNotice (s : State) : State :=
  serveEvents (s.each ((portsInUse s).filter fun p => bitAt (feat s (p + 1) 0x0B 0) 9) fun s p => asyncEvent s p 2 1 3)

/-- The swap has taken effect: actions 1 and 2 complete, action 3 goes on with the activation (R498, R123). (DEDUCED: log entry 91.) -/
def jobSwapped (s : State) (j : FwJob) : State :=
  if j.action = 3 && !s.clo.recovery then
    let s := s.modClo fun c => { c with job := none }
    if (s.ctx j.ingest).isNone && j.ingest ≠ 0 then s
    else activationNotice ((s.set1 HAL_CTL.DRAIN_REQ).modHall fun h => { h with activating := some j.ingest })
  else jobEnd s j 0 0

/-- A leaf write that failed leaves leaf 0 erased; the Attic records the sector (R495). -/
def leafFailed (s : State) (j : FwJob) (sec : Nat) : State :=
  let s := s.modClo fun c => { c with slots := Tbl.modD c.slots j.slot {} fun x => { x with leaves := Tbl.del x.leaves 0 } }
  jobEnd (post s 0x0012 4 0xA 0xFF sec 1) j 1 6

/-- A step of the job has ended (R490, R495). -/
def jobStep (s : State) (j : FwJob) (ok : Bool) : State :=
  let sec := slotSector j.slot
  let put (f : Tbl Nat → Tbl Nat) : State := s.modClo fun c => { c with slots := Tbl.modD c.slots j.slot {} fun x => { x with leaves := f x.leaves } }
  match j.step with
  | 1 => if ok then jobOp (put fun t => Tbl.del t 0) { j with step := 2 } else leafFailed s j sec
  | 2 =>
    let rest := ((List.range j.leaves.length).zip j.leaves).filter fun e => e.1 != 0
    if ok then jobOp (put fun t => rest.foldl (fun t e => Tbl.put t e.1 e.2) (t.filter fun e => decide (j.leaves.length ≤ e.1))) { j with step := 3 }
    else leafFailed s j (sec + 1)
  | 3 =>
    if !ok then leafFailed s j sec
    else
      let s := put fun t => match j.leaves.head? with
        | some d => Tbl.put t 0 d
        | none => t
      if j.action = 0 then jobEnd s j 0 0 else startSwap s j
  | 4 =>
    if ok then jobOp (writeTwin s (swapCount s) (selectRec s j.slot) (j.slot == 1)) { j with step := 5 }
    else if 2 ≤ j.tries then jobEnd s j 1 6
    else jobOp s { j with tries := j.tries + 1 }
  | 5 =>
    let n := swapCount s
    if ok then jobOp (writeSwap s false (n + 1)) { j with step := 6 }
    else jobEnd (s.modClo fun c => { c with marginal := (8 * swapBase false + n) :: c.marginal }) j 1 6
  | _ => jobSwapped (if ok then writeSwap s true (swapCount s) else s) j

/-- The write of R501 begins once the Closet is free. -/
def startConfirm (s : State) : State :=
  if s.clo.confirming && s.clo.op.isNone && !s.pwr.pwrfail then
    match recNow s with
    | some (b, _) => s.modClo fun c => { c with op := some { req := 3, kind := 1, addr := twinBase b + 0x200, page := [0, 0, 0, 0] } }
    | none => s
  else s

/-- A worker begins to write the image that its manager sent, once the Closet is free (Table 16-9): into the slot that R495 allows. -/
def startImage (s : State) : State :=
  if !isWorker s || s.sta.image.isEmpty || s.clo.op.isSome || s.clo.job.isSome || s.hall.activating.isSome || s.pwr.pwrfail then s
  else
    let l := s.sta.image
    let s := s.modSta fun x => { x with image := [] }
    let x := Config.imageOf l
    match commitSlot s 0 0 with
    | some k =>
      if x.wellFormed && decide (x.leafCount ≤ l.length) && imageTrusted s x then
        jobOp s { ingest := 0, action := 1, slot := k, leaves := l.take x.leafCount, step := 1 }
      else tellManager s 0x17 (.act (.written false))
    | none => tellManager s 0x17 (.act (.written false))

/-- The order of the manager to activate the image selected, without reset (R123, Table 16-9). -/
def stairActivate (s : State) : State :=
  if s.hall.activating.isSome then s else (s.set1 HAL_CTL.DRAIN_REQ).modHall fun h => { h with activating := some 0 }

/-- A swap back to the previous slot of the record given, where nothing else is under way and that slot passes its checks. -/
def rollbackTo (s : State) : Option (Bool × BootRec) → State
  | some (_, r) =>
    if s.clo.op.isSome || s.clo.job.isSome || s.hall.activating.isSome || !slotOk s r.prev none then s
    else startSwap s { ingest := 0, action := 3, slot := r.prev }
  | none => s

/-- ROLLBACK: the previous slot is selected as by commit action 2 and activated without reset (R598). -/
def stairRollback (s : State) : State := rollbackTo s (recNow s)

/-- Whether the running image is confirmed: slot 1 is, and so is one started as a fallback (R499, R501). -/
def imageConfirmed (s : State) : Bool := s.clo.confirmSec.isNone && s.clo.running != 0

/-- STD_CONFIRM: the CONFIRM word of the record in force is programmed to zero (R501). -/
def execStdConfirm (v : U64) (s : State) : Host.Outcome State Fault Refusal :=
  .next (if v.toNat % 2 = 1 && !imageConfirmed s && s.clo.running ≠ 0 then startConfirm (s.modClo fun c => { c with confirming := true }) else s)

/-- CONFIRMATION_TIMEOUT: 900 s of operating time in PS0 to PS2 without confirmation (R499). -/
def execConfirmationTimeout (s : State) : Host.Outcome State Fault Refusal :=
  .next (if running s && s.clo.confirmSec.any (fun t => decide (900 ≤ t)) then watchdogReset s 2 else s)

/-- A page program that reached its pulse limit: which of its bits are 0 is not determined (free values). -/
def programFails (s : State) (o : CloOp) : State :=
  s.each ((List.range o.page.length).zip o.page) fun s p =>
    let a := o.addr + p.1
    let old := norByte s a
    let hit := Config.freeNat s.free % 256 &&& (old ^^^ (old &&& p.2.toNat))
    s.tick.modClo fun c => { c with nor := Tbl.setD c.nor a (BitVec.ofNat 8 (old ^^^ hit)) 0xFF }

/-- A configuration record that a program of page `a` completes governs its TYPE where its SEQ is the highest (R480). -/
def confParse (s : State) (a : Nat) : State :=
  let f := fun a n => (List.range n).foldl (fun v i => v + norByte s (a + i) * 256 ^ i) 0
  let heads := (List.range 257).map fun i => a - 256 * i
  match heads.find? fun h => decide (456 * 65536 ≤ h) && f h 4 == 0x47464343 && f (h + 6) 2 == 1 && decide (f (h + 0x10) 4 ≤ 65504) && decide (a < h + 0x20 + f (h + 0x10) 4) with
  | none => s
  | some h =>
    let len := f (h + 0x10) 4
    let crc := crc32c (((List.range 0x1C).map fun i => norByte s (h + i)) ++ (List.range len).map fun i => norByte s (h + 0x20 + i))
    if f (h + 0x1C) 4 = crc && decide (s.clo.confSeq < f (h + 8) 8) then
      let payload := if len ≤ 8 then [f (h + 0x20) len] else (List.range len).map fun i => norByte s (h + 0x20 + i)
      s.modClo fun c => { c with conf := Tbl.put c.conf (f (h + 4) 2) payload, confSeq := f (h + 8) 8 }
    else s

/-- CLOSET_OPERATION_DONE: the operation under way ends, with the pulses applied and whether every bit verified (R472, R473, R475). -/
def execClosetOperationDone (pulses : Nat) (ok : Bool) (s : State) : Host.Outcome State Fault Refusal :=
  match s.clo.op with
  | none => .next s
  | some o =>
    let s := s.modClo fun c => { c with op := none }
    let s := s.wr CLO_STATUS.PULSES (min pulses 255)
    let s := if ok || o.kind = 3 then s else s.set1 CLO_STATUS.FAIL
    if o.req = 4 then
      match s.clo.job with
      | some j => .next (startImage (startConfirm (jobStep s j ok)))
      | none => .next (startImage (startConfirm s))
    else
      let sec := o.addr / 65536
      let s := match o.kind with
        | 1 => if ok then norWrite s o.addr o.page else programFails s o
        | 2 => if ok then norErase s sec else norUndefined s sec
        | _ => s.each (List.range 32) fun s k =>
            s.wr (CLO_PAGE.V k) ((List.range 64).foldl (fun a i => if s.clo.marginal.contains (8 * (o.addr + 8 * k) + i) then a + 2 ^ i else a) 0)
      if o.req = 3 then
        let s := s.modClo fun c => { c with confirming := false, confirmSec := if ok then none else c.confirmSec }
        .next s
      else
        let s := if ok && o.kind = 1 && 456 ≤ sec && decide (sec < 512) then confParse s o.addr else s
        .next (startImage (startConfirm (cloReport s o.kind (if ok || o.kind = 3 then 0 else 1))))

/-! ## Activation without reset (R123, R124, R285, R498) -/

/-- The first port program that matches a port's bridge (R323). -/
def portProgram (s : State) (x : Image) (n : Nat) : Option PortProg :=
  x.progs.find? fun p => (p.vendor == 0xFFFF || p.vendor == s.rd (CEL_BRIDGE_ID.BRIDGE_VENDOR n)) && (p.part == 0xFFFF || p.part == s.rd (CEL_BRIDGE_ID.BRIDGE_PART n))

/-- A port's sequencer is stopped, its program replaced and started again; the ring and the event queue are kept. A port that no program
matches is retired (R323). -/
def reloadPort (s : State) (x : Image) (n : Nat) : State :=
  match portProgram s x n with
  | none => retirePort (post s 0x0062 4 9 n (s.rd (CEL_BRIDGE_ID.BRIDGE_VENDOR n) + 65536 * s.rd (CEL_BRIDGE_ID.BRIDGE_PART n))) n 4
  | some p =>
    let s := s.modSeq n fun q => { q with
      ram := q.ram.filter fun e => decide (0x3800 ≤ e.1), g := [], t := false, rstack := [], inTrap := false, wait := none, limitPend := [],
      pc := p.entry, state := 1 }
    let s := loadBytes s n 0 p.bytes
    let s := ((s.wr (CEL_SEQ_CTL.ENTRY n) p.entry).wr (CEL_SEQ_CTL.TRAP_VEC n) p.trapVec).wr (CEL_SEQ_CTL.LEVEL n) (b2n p.gy1)
    ((s.wr ⟨CEL_SEQ_ROWFMT.addr n, 0, 0, 32⟩ p.rowfmt).wr (CEL_SEQ_ARRAY_OPS.V n) p.arrayOps).wr (CEL_SEQ_OPLIMIT.LIMIT_MS n) p.opLimit

/-- A worker tells its manager that its join record has changed (Table 16-2). -/
def stairChanged (s : State) : State :=
  match mgrLink s with
  | some n => tellManager s 0x16 (.event (.changed (workerJoin s n s.sta.ver (s.rd (STA_LINK.LINK_INDEX n)))))
  | none => s

/-- ACTIVATION_DRAIN_COMPLETE: the ATTEMPTS bit, the programs, the restart, FETCH_EN, the completion (Table 3-10). -/
def execActivationDrainComplete (s : State) : Host.Outcome State Fault Refusal :=
  match s.hall.activating, recNow s with
  | some n, some (b, r) =>
    if !hallDrained s then .next s
    else
      let x := slotImage s r.active
      let first := r.active ≠ 1 && !confirmed s b
      let s := if first then addAttempt s b else s
      let s := s.each ((List.range 64).filter fun n => s.on (CEL_SEQ_CTL.RUN n)) fun s n => reloadPort s x n
      let s := startSupervisor s x
      let s := s.modClo fun c => { c with running := r.active, confirmSec := if first then some 0 else none }
      let s := s.modScu fun c => { c with geo := x.geo }
      let s := (s.set1 HAL_CTL.FETCH_EN).clr1 HAL_CTL.DRAIN_REQ
      .next (stairChanged (finishOk (s.modHall fun h => { h with activating := none }) n))
  | _, _ => .next s

/-- ACTIVATION_DRAIN_TIMEOUT: 10 ms after its start the drain is incomplete: fetching resumes (R124). -/
def execActivationDrainTimeout (s : State) : Host.Outcome State Fault Refusal :=
  match s.hall.activating with
  | none => .next s
  | some n =>
    if hallDrained s then .next s
    else .next (finish (((s.set1 HAL_CTL.FETCH_EN).clr1 HAL_CTL.DRAIN_REQ).modHall fun h => { h with activating := none }) n 1 0x12)

/-! ## Records of operating time (R480, R532) -/

/-- The Timestamp feature now, in ms (R532). -/
def timestampNow (s : State) : Nat := (s.nvm.tsValue + (s.pwr.time.toNat - s.nvm.tsBase) * 1024 / 100000000) % 2 ^ 48

/-- OPERATING_TIME_RECORD: TYPE 0x07 and 0x08 are appended. -/
def execOperatingTimeRecord (s : State) : Host.Outcome State Fault Refusal :=
  .next (if s.on STD_SUP_STATUS.BOOT_DONE && !s.pwr.pwrfail then confAppend (confAppend s 0x07 [s.pwr.opSec]) 0x08 [timestampNow s] else s)

end Sys2Proof.Machine
end

