-- ==== Sys2Proof/Machine/Fabric.lean ====
section
/-!
DEFINITION. The fabric's links (R18, R19), the management endpoint (R130, R579, R617) and the JTAG port (R618).
-/
namespace Sys2Proof.Machine

/-! ## Output links (R18) -/

/-- The next of 16 inputs in turn after `last` that has something waiting. -/
def nextInput (last : Nat) (waits : Nat → Bool) : Option Nat :=
  ((List.range 16).map fun k => (last + 1 + k) % 16).find? waits

/-- What begins to wait at an output in this cycle: control words by input, and bursts of 1 to 8 words by input. (DEDUCED: log entry 25.) -/
def FabOut.arrive (o : FabOut) (ctl : List Nat) (data : List (Nat × Nat)) : FabOut :=
  let cs := (ctl.filter fun i => decide (i < 16)).foldl (fun (t : Tbl Nat) i => Tbl.modD t i 0 (· + 1)) o.ctl
  let ds := (data.filter fun (d : Nat × Nat) => decide (d.1 < 16 ∧ 1 ≤ d.2 ∧ d.2 ≤ 8)).foldl
    (fun (t : Tbl (List Nat)) (d : Nat × Nat) => Tbl.modD t d.1 [] (· ++ [d.2])) o.data
  { o with ctl := cs, data := ds }

/-- One word of a burst of `len` words from input `i` goes out. -/
def FabOut.burstWord (o : FabOut) (i len : Nat) : FabOut :=
  { o with burst := if len ≤ 1 then none else some (i, len - 1), sent := some (i, false) }

/-- One F cycle: a burst begun goes on; else a control word goes before any burst not begun; each class in turn by input. -/
def FabOut.cycle (o : FabOut) : FabOut :=
  match o.burst with
  | some (i, left) => o.burstWord i left
  | none =>
    match nextInput o.lastCtl fun i => decide (0 < Tbl.getD o.ctl i 0) with
    | some i => { o with ctl := Tbl.modD o.ctl i 0 (· - 1), lastCtl := i, sent := some (i, true) }
    | none =>
      match nextInput o.lastData fun i => !(Tbl.getD o.data i []).isEmpty with
      | some i =>
        let q := Tbl.getD o.data i []
        { o with data := Tbl.put o.data i (q.drop 1), lastData := i }.burstWord i (q.headD 1)
      | none => { o with sent := none }

/-- OUTPUT_LINK_ARBITRATION: one F cycle of an output link. -/
def execOutputLinkArbitration (link : Nat) (ctl : List Nat) (data : List (Nat × Nat)) (s : State) : Host.Outcome State Fault Refusal :=
  if link < 16 then
    let o := ((Tbl.getD s.fab.outs link {}).arrive ctl data).cycle
    let s := s.modFab fun f => { f with outs := Tbl.put f.outs link o }
    .next (match o.sent with
      | some (i, c) => s.emit (.fabricWord link i c)
      | none => s)
  else .next s

/-- FABRIC_WORD_ARRIVAL: the receiving link corrects a single-bit error and delivers; a word that cannot be corrected is delivered poisoned,
with a record (FABRIC_POISON). A word poisoned earlier is delivered poisoned: it was reported when it was found (R408). (DEDUCED: log entry 26.) -/
def execFabricWordArrival (link input : Nat) (d : BitVec 256) (t m : BitVec 16) (sill : Bool) (s : State) : Host.Outcome State Fault Refusal :=
  if link < 16 then
    let w : Casement := { d := d, t := t, m := m, sill := sill }
    let deliver (f : FabWord) : State := s.modFab fun b => { b with rx := Tbl.put b.rx link f }
    .next (match casDecode w with
      | .bad => post (deliver { w := w, poison := true }) 0x0020 4 9 0xFF link input
      | .poisoned => deliver { w := w, poison := true }
      | _ => deliver { w := casEncode (casCorrect w) })
  else .next s

/-! ## The management endpoint (R130, R579, R617) -/

/-- MGMT_MESSAGE: the event MGMT with the buffer goes to the supervisor; the message wakes the device. (DESIGN CHOICE: log entry 30.) -/
def execMgmtMessage (buf : Nat) (s : State) : Host.Outcome State Fault Refusal :=
  if s.pwr.por || s.pwr.st = .off then .next s
  else .next (wake (raise s 64 (evWord 0x12 0 0xFF 0 buf)) 1)

/-- ENTDAA: the target answers with its Provisioned ID and takes the dynamic address. -/
def execEntdaa (addr : Nat) (s : State) : Host.Outcome State Fault Refusal :=
  if s.pwr.por || s.pwr.st = .off then .next s
  else
    let s := s.modStd fun x => { x with i3c := some (addr % 128) }
    .next (s.emit (.i3cPid (provisionedId (if isWorker s then 0xF else 0) s.stg.fuses.serial)))

/-! ## JTAG (R618) -/

def State.modJtag (s : State) (f : Jtag → Jtag) : State := { s with jtag := f s.jtag }

/-- The boundary-scan instructions are taken only while TESTMODE was sampled as 1; else they act as BYPASS. (DEDUCED: log entry 29.) -/
def boundaryScan (s : State) (f : Jtag → Jtag) : State :=
  s.modJtag fun j => if s.pwr.straps.testmode then f j else { j with ir := .bypass, driving := false }

def execBypass (s : State) : Host.Outcome State Fault Refusal :=
  .next (s.modJtag fun j => { j with ir := .bypass, driving := false })

/-- IDCODE: version 0x1, part 0x0640 and the manufacturer code. -/
def execIdcode (s : State) : Host.Outcome State Fault Refusal :=
  .next ((s.modJtag fun j => { j with ir := .idcode, driving := false }).emit (.jtag 0x106409E7))

def execSamplePreload (v : Nat) (s : State) : Host.Outcome State Fault Refusal :=
  .next (boundaryScan s fun j => { j with ir := .sample, cells := v, driving := false })

def execExtest (s : State) : Host.Outcome State Fault Refusal :=
  .next (boundaryScan s fun j => { j with ir := .extest, driving := true })

def execExtestPulse (s : State) : Host.Outcome State Fault Refusal :=
  .next (boundaryScan s fun j => { j with ir := .extestPulse, driving := true })

def execExtestTrain (s : State) : Host.Outcome State Fault Refusal :=
  .next (boundaryScan s fun j => { j with ir := .extestTrain, driving := true })

end Sys2Proof.Machine
end

