-- ==== Sys2Proof/Machine/Features.lean ====
section
/-!
DEFINITION. Set Features and Get Features (chapter 4: R126, R127, R146, R147, R149, Table 4-7).
-/
namespace Sys2Proof.Machine

/-- A Set Features command: the feature of its row. The Save bit is refused: no feature is saveable (R147). `sup` where the supervisor program
executes it (Table 4-16). (PRESUMED: log entry 71.) -/
def setFeature (s : State) (n fid : Nat) (sup : Bool) (f : Ctx → Nat → Nat → Nat → List Nat → State) : State :=
  (if sup then bySup else byHall) s n fun c => match c.cmd with
    | .setFeatures k ns sub v save data =>
      if k ≠ fid then s else if save then finish s n 1 0x0D else f c ns sub v data
    | _ => s

/-- A feature of the controller that is kept as it is set. -/
def keepFeature (s : State) (n : Nat) (c : Ctx) (fid sub v : Nat) : State := finishOk (setFeat s (c.port + 1) fid sub v) n

/-- SET_FEATURES_ARBITRATION: burst in bits 2:0, LPW 15:8, MPW 23:16, HPW 31:24. -/
def execSetFeaturesArbitration (n : Nat) (s : State) : Host.Outcome State Fault Refusal :=
  .next (setFeature s n 0x01 false fun c _ _ v _ => keepFeature s n c 0x01 0 (v % 2 ^ 32))

/-- The operational state of a number. -/
def psOf (k : Nat) : PwrState := if k = 0 then .ps0 else if k = 1 then .ps1 else .ps2

/-- SET_FEATURES_POWER_MANAGEMENT: an operational state applies with the completion (R126 to R128). -/
def execSetFeaturesPowerManagement (n : Nat) (s : State) : Host.Outcome State Fault Refusal :=
  .next (setFeature s n 0x02 false fun c _ _ v _ =>
    if 5 < v % 32 then finish s n 0 2
    else
      let s := s.modHall fun h => { h with reqState := Tbl.setD h.reqState c.port (v % 32) 0 }
      let s := if requestedState s ≤ 2 && !asleep s && s.pwr.st ≠ .off then s.modPwr fun p => { p with st := psOf (requestedState s) } else s
      finishOk s n)

/-- SET_FEATURES_TEMP_THRESHOLD: the composite and the sensors 1 to 3, over or under. -/
def execSetFeaturesTempThreshold (n : Nat) (s : State) : Host.Outcome State Fault Refusal :=
  .next (setFeature s n 0x04 false fun c _ _ v _ =>
    let sel := bits v 16 4
    let under := bits v 20 2
    if (3 < sel && sel ≠ 15) || 1 < under then finish s n 0 2
    else
      let l := if sel = 15 then [0, 1, 2, 3] else [sel]
      let before := tempWarn s c.port
      let s := finishOk (s.each l fun s k => setFeat s (c.port + 1) 0x04 (k + 16 * under) (v % 65536)) n
      if !before && tempWarn s c.port && bitAt (feat s (c.port + 1) 0x0B 0) 1 then serveEvents (asyncEvent s c.port 1 1 2) else s)

/-- SET_FEATURES_ERROR_RECOVERY: TLER and DULBE of a namespace, or of every one. -/
def execSetFeaturesErrorRecovery (n : Nat) (s : State) : Host.Outcome State Fault Refusal :=
  .next (setFeature s n 0x05 false fun _ ns _ v _ =>
    if ns = 0xFFFFFFFF then finishOk (s.each (Tbl.keys s.nvm.spaces) fun s k => setFeat s 0 0x05 k (v % 131072)) n
    else if (nspace s ns).isNone then finish s n 0 0x0B
    else finishOk (setFeat s 0 0x05 ns (v % 131072)) n)

/-- SET_FEATURES_VOLATILE_WRITE_CACHE: refused with HOLDUP set; disabling the cache begins write-through mode (R108, R223). -/
def execSetFeaturesVolatileWriteCache (n : Nat) (s : State) : Host.Outcome State Fault Refusal :=
  .next (setFeature s n 0x06 false fun c _ _ v _ =>
    if heldUp s then finish s n 0 2
    else finishOk (wtCheck (setFeat s (c.port + 1) 0x06 0 (v % 2))) n)

/-- SET_FEATURES_NUMBER_OF_QUEUES: once after each reset of the controller; at most IO_QPAIRS of each (R147). -/
def execSetFeaturesNumberOfQueues (n : Nat) (s : State) : Host.Outcome State Fault Refusal :=
  .next (setFeature s n 0x07 false fun c _ _ v _ =>
    if s.nvm.queuesSet.contains c.port then finish s n 0 0x0C
    else if v % 65536 = 0xFFFF || bits v 16 16 = 0xFFFF then finish s n 0 2
    else
      let g := min (v % 65536) (s.porch.ident.qpairs - 1) + 65536 * min (bits v 16 16) (s.porch.ident.qpairs - 1)
      let s := s.modNvm fun x => { x with queuesSet := c.port :: x.queuesSet }
      finish (setFeat s (c.port + 1) 0x07 0 g) n 0 0 g)

/-- SET_FEATURES_INTERRUPT_COALESCING: THR in bits 7:0, TIME in bits 15:8. -/
def execSetFeaturesInterruptCoalescing (n : Nat) (s : State) : Host.Outcome State Fault Refusal :=
  .next (setFeature s n 0x08 false fun c _ _ v _ => keepFeature s n c 0x08 0 (v % 65536))

/-- SET_FEATURES_INT_VECTOR_CONFIG: vectors below MSIX_VECTORS. -/
def execSetFeaturesIntVectorConfig (n : Nat) (s : State) : Host.Outcome State Fault Refusal :=
  .next (setFeature s n 0x09 false fun c _ _ v _ =>
    if s.porch.ident.msix ≤ v % 65536 then finish s n 0 2 else keepFeature s n c 0x09 (v % 65536) (v % 131072))

def execSetFeaturesWriteAtomicity (n : Nat) (s : State) : Host.Outcome State Fault Refusal :=
  .next (setFeature s n 0x0A false fun c _ _ v _ => keepFeature s n c 0x0A 0 (v % 2))

/-- SET_FEATURES_ASYNC_EVENT_CONFIG: critical warnings 0 to 4, namespace, firmware and telemetry notices. -/
def execSetFeaturesAsyncEventConfig (n : Nat) (s : State) : Host.Outcome State Fault Refusal :=
  .next (setFeature s n 0x0B false fun c _ _ v _ => keepFeature s n c 0x0B 0 (v % 2048 &&& 0x71F))

/-- An APST entry of the host's table: target state in bits 7:3, idle time in bits 31:8. -/
def apstOf (w : Nat) : ApstEnt := { target := bits w 3 5, idleMs := bits w 8 24 }

/-- SET_FEATURES_APST: the host's table replaces the image's; disabled, no entry acts (R132). -/
def execSetFeaturesApst (n : Nat) (s : State) : Host.Outcome State Fault Refusal :=
  .next (setFeature s n 0x0C true fun c _ _ v data =>
    let l := if v % 2 = 1 then (data.take 32).map apstOf else []
    if l.any fun e => e.idleMs != 0 && !(3 ≤ e.target && e.target ≤ 5) then finish s n 0 2
    else finishOk (setFeat (s.modHall fun h => { h with apst := Tbl.put h.apst c.port l }) (c.port + 1) 0x0C 0 (v % 2)) n)

/-- SET_FEATURES_TIMESTAMP: milliseconds, counted on with the time base; Synch clears (R532). -/
def execSetFeaturesTimestamp (n : Nat) (s : State) : Host.Outcome State Fault Refusal :=
  .next (setFeature s n 0x0E true fun _ _ _ _ data =>
    finishOk (s.modNvm fun x => { x with tsValue := data.headD 0 % 2 ^ 48, tsBase := s.pwr.time.toNat, tsSynch := false }) n)

def execSetFeaturesNopsConfig (n : Nat) (s : State) : Host.Outcome State Fault Refusal :=
  .next (setFeature s n 0x11 false fun c _ _ v _ => keepFeature s n c 0x11 0 (v % 2))

/-- SET_FEATURES_FDP: only while the endurance group holds no namespace (R149). -/
def execSetFeaturesFdp (n : Nat) (s : State) : Host.Outcome State Fault Refusal :=
  .next (setFeature s n 0x1D true fun _ _ sub v _ =>
    if sub % 65536 ≠ 1 || bits v 8 8 ≠ 0 then finish s n 0 2
    else if !s.nvm.spaces.isEmpty then finish s n 0 0x0C
    else finishOk (s.modNvm fun x => { x with fdp := v % 2 = 1 }) n)

/-- The FDP events that the device can raise (R378). -/
def fdpTypes : List Nat := [0x00, 0x80]

/-- SET_FEATURES_FDP_EVENTS: the events that the data lists are enabled or disabled for a placement handle. -/
def execSetFeaturesFdpEvents (n : Nat) (s : State) : Host.Outcome State Fault Refusal :=
  .next (setFeature s n 0x1E true fun _ _ sub v data =>
    let h := sub % 65536
    let l := (data.take (bits sub 16 8)).filter fun t => fdpTypes.contains t
    if !s.nvm.fdp || 15 < h then finish s n 0 2
    else
      let rest := s.nvm.fdpEvents.filter fun e => !(e.1 == h && l.contains e.2)
      finishOk (s.modNvm fun x => { x with fdpEvents := if v % 2 = 1 then rest ++ l.map fun t => (h, t) else rest }) n)

def execSetFeaturesSwProgressMarker (n : Nat) (s : State) : Host.Outcome State Fault Refusal :=
  .next (setFeature s n 0x80 false fun _ _ _ v _ => finishOk (setFeat s 0 0x80 0 (v % 256)) n)

/-! ## Get Features -/

/-- Capabilities of a feature: changeable (bit 2) but for the write cache with HOLDUP set, specific to a namespace (bit 1), never saveable
(bit 0). -/
def featCaps (s : State) (fid : Nat) : Nat := 2 * b2n (fid == 0x05) + 4 * b2n !(fid == 0x06 && heldUp s)

/-- The subindex of a feature that Get Features names: the sensor and threshold of 04h, the namespace of 05h, the vector of 09h. -/
def featSub (fid ns sub : Nat) : Nat :=
  match fid with
  | 0x04 => bits sub 16 4 + 16 * bits sub 20 2
  | 0x05 => ns
  | 0x09 => sub % 65536
  | _ => 0

/-- Whether the fields with which Get Features names its feature are in range. -/
def featCheck (s : State) (fid ns sub : Nat) : Status :=
  match fid with
  | 0x04 => firstOf [(3 < bits sub 16 4 || 1 < bits sub 20 2, 0, 2)]
  | 0x05 => firstOf [((nspace s ns).isNone, 0, 0x0B)]
  | 0x09 => firstOf [(decide (s.porch.ident.msix ≤ sub % 65536), 0, 2)]
  | 0x1D => firstOf [(sub % 65536 != 1, 0, 2)]
  | 0x1E => firstOf [(decide (15 < sub % 65536), 0, 2)]
  | _ => none

/-- The default of a feature (Table 4-7); of 0Ch and of the current APST table, the words of the table. (PRESUMED: log entry 72.) -/
def apstWords (l : List ApstEnt) : List Nat := (List.range 32).map fun i => match l[i]? with
  | some e => e.target % 32 * 8 + e.idleMs % 2 ^ 24 * 256
  | none => 0

/-- Dword 0 of the completion, and the data as fields of (bytes, value): current (`cur`) or default. (PRESUMED: log entry 73.) -/
def featValue (s : State) (p fid ns sub : Nat) (cur : Bool) : Nat × List (Nat × Nat) :=
  let v := if cur then feat s (featCtrl p fid) fid (featSub fid ns sub) else featDefault s fid (featSub fid ns sub)
  match fid with
  | 0x02 => (if cur then Tbl.getD s.hall.reqState p 0 else 0, [])
  | 0x07 => (v, [])
  | 0x09 => (bits v 16 1 * 65536 + sub % 65536, [])
  | 0x0C =>
    let l := if cur then apstTable s p else (runningImage s).apst
    (if cur && Tbl.has s.hall.apst p then feat s (p + 1) 0x0C 0 else b2n (!l.isEmpty), (apstWords l).map fun w => (8, w))
  | 0x0E => (0, [(6, if cur then timestampNow s else confWord s 0x08), (1, (if cur then b2n s.nvm.tsSynch else 1) + 2), (1, 0)])
  | 0x1D => (if cur then b2n s.nvm.fdp else 0, [])
  | 0x1E =>
    let on (t : Nat) : Nat := if cur then b2n (s.nvm.fdpEvents.contains (sub % 65536, t)) else 0
    (fdpTypes.length, fdpTypes.flatMap fun t => [(1, t), (1, on t)])
  | _ => (v, [])

/-- GET_FEATURES: Select current, default, saved (which is the default) or supported capabilities (R146). -/
def execGetFeatures (n : Nat) (s : State) : Host.Outcome State Fault Refusal :=
  .next (byHall s n fun c => match c.cmd with
    | .getFeatures fid sel ns sub =>
      if !fids.contains fid || 3 < sel then finish s n 0 2
      else if sel = 3 then finish s n 0 0 (featCaps s fid)
      else match featCheck s fid ns sub with
        | some (a, b) => finish s n a b
        | none =>
          let (d, l) := featValue s c.port fid ns sub (sel == 0)
          finish (if l.isEmpty then s else s.emit (.adminData n l)) n 0 0 d
    | _ => s)

end Sys2Proof.Machine
end

