-- ==== Sys2Proof/Machine/Flags.lean ====
section
/-!
DEFINITION. Every computation of a flag: the Gynum test flag T (Table 8-7).
-/
namespace Sys2Proof.Machine

/-- T of TEQ and TEQK. -/
def tEq (a b : U64) : Bool := a == b

/-- T of TNE and TNEK. -/
def tNe (a b : U64) : Bool := a != b

/-- T of TLT and TLTK: signed comparison. -/
def tLt (a b : U64) : Bool := BitVec.slt a b

/-- T of TGE and TGEK: signed comparison. -/
def tGe (a b : U64) : Bool := !BitVec.slt a b

/-- T of TLTU: unsigned comparison. -/
def tLtu (a b : U64) : Bool := BitVec.ult a b

/-- T of TGEU: unsigned comparison. -/
def tGeu (a b : U64) : Bool := !BitVec.ult a b

/-- T of TBIT: bit k19[5:0] of rd. -/
def tBit (a : U64) (k : BitVec 19) : Bool := a.getLsbD (k.toNat % 64)

end Sys2Proof.Machine
end

