-- ==== Sys2Proof/Machine/Laundry.lean ====
section
/-!
DEFINITION. The Laundry's operations and events (chapter 9).
-/
namespace Sys2Proof.Machine

/-- A hard-decision decode ends (R335 to R337, R341, R344 to R346, R356). `ones` and `zeros` are the corrected bits that were read as 1 and as
0, `weight` the valley that a SEARCH row kept, `probe` the bind word (kind, suite, index) that the probe decoded, if any. At row 0 the codeword
is delivered or the ladder begins; at a HARD or SEARCH row it is delivered or the next row follows. -/
def execHardDecodeDone (n i cw : Nat) (ok : Bool) (ones zeros weight : Nat) (data : Blk) (md : Meta) (probe : Option (Nat × Nat × Nat))
    (s : State) : Host.Outcome State Fault Refusal :=
  match Tbl.find (s.seq n).descs i with
  | none => .next s
  | some h =>
    let c := s.climb n i
    if h.ended || h.op.cwCount ≤ cw || h.xferDone then .next s
    else if h.op.kind = 2 then
      -- R356: a verify read is compared with its kept slot; no ladder runs
      let same := match (h.op.slots[cw]?).bind fun k => Tbl.find s.ldr.slots k with
        | some x => x.data == data && x.md == md
        | none => false
      let pass := ok && decide (ones + zeros ≤ s.rd LND_POLICY.VERIFY_BITS) && same
      if !pass then .next (raise (s.modSeq n fun q => { q with descs := Tbl.upd q.descs i fun h => { h with cwDone := h.op.cwCount } }) n (evWord 0x0C 2 i))
      else if h.cwDone + 1 < h.op.cwCount then .next (s.modSeq n fun q => { q with descs := Tbl.upd q.descs i fun h => { h with cwDone := h.cwDone + 1 } })
      else .next (raise (s.modSeq n fun q => { q with descs := Tbl.upd q.descs i fun h =>
        { h with cwDone := h.cwDone + 1, verifyPass := decide (h.cwDone < h.op.cwCount) } }) n (evWord 0x0C 1 i))
    else
      let g := bits (descByte s n i 0x14 4) 0 4
      let tbl := cellTable h.op.cell
      let s := if ok then track s n h.op g ones zeros else s
      if c.row = 0 then
        if ok then .next (cwGood s n i cw (if c.extra then (if ones + zeros = 0 then 0 else 1) else if ones + zeros = 0 then 0 else 1) 0 h.op data md)
        else if c.extra then
          match probe with
          | some b =>
            -- R346: the second read at row 0 fails in the same way
            let s := post s 0x0071 4 5 n 1 (h.op.suite.getD 0) (h.op.unit + cw) 0
            .next (cwBad (post s 0x0072 4 5 n b.1 b.2.1 b.2.2 0) n i cw 6 h.op false)
          | none => .next (cwFailed s n i cw none)
        else
          match joinClimb s n i cw h.op with
          | some s => .next s
          | none => .next (cwFailed s n i cw (if s.on LND_CTL.PROBE_EN then probe else none))
      else
        match Tbl.find c.cws cw with
        | none => .next s
        | some x =>
          let kind := ladderKind s tbl c.row
          if x.failed || x.senses < ladderSenses s tbl c.row || kind = 2 then .next s
          else
            let s := if kind = 3 then modClimb s n i fun c => { c with valley := some weight } else s
            if ok then
              let s := cwGood s n i cw 2 c.row h.op data md
              .next (if stepOver s n i then nextRow s n i else s)
            else .next (cwFailed s n i cw none)

/-- The admission credit grows by one, up to 16 (R336). -/
def execSoftAdmissionCredit (s : State) : Host.Outcome State Fault Refusal :=
  .next (s.modLnd fun l => { l with credit := min 16 (l.credit + 1) })

/-- Soft jobs of a port that hold places in the store. -/
def portJobs (s : State) (n : Nat) : Nat := s.lnd.jobs.countP fun j => j.n == n && j.running

/-- The next soft job that may start: the oldest of the highest class whose port is below PORT_JOBS (R336). -/
def nextJob (s : State) : Option SoftJob :=
  let limit := max 1 (s.rd LND_POLICY.PORT_JOBS)
  let ok (cls : Nat) (j : SoftJob) : Bool := !j.running && j.cls == cls && decide (portJobs s j.n < limit)
  match s.lnd.jobs.find? (ok 0), s.lnd.jobs.find? (ok 1) with
  | some j, _ => some j
  | none, some j => some j
  | none, none => s.lnd.jobs.find? (ok 2)

/-- A waiting soft job starts on a free decoder and takes one credit (R336); soft decoders that the in-service test withdrew do not run. -/
def execSoftJobAdmit (s : State) : Host.Outcome State Fault Refusal :=
  let running := s.lnd.jobs.countP fun j => j.running
  if s.lnd.credit = 0 || 16 - s.atc.badSoft.length ≤ running then .next s
  else match nextJob s with
    | none => .next s
    | some j => .next (s.modLnd fun l => { l with credit := l.credit - 1, jobs := l.jobs.map fun x => if x == j then { x with running := true } else x })

/-- A soft decode ends with the codeword, or the ladder continues (R336, R344). -/
def execSoftDecodeDone (n i cw : Nat) (ok : Bool) (ones zeros : Nat) (data : Blk) (md : Meta) (s : State) : Host.Outcome State Fault Refusal :=
  match s.lnd.jobs.find? (fun j => j.n == n && j.i == i && j.cw == cw && j.running), Tbl.find (s.seq n).descs i with
  | some j, some h =>
    let s := s.modLnd fun l => { l with jobs := l.jobs.erase j }
    if !Tbl.has (s.climb n i).cws cw then .next s
    else if ok then
      let s := track s n h.op (bits (descByte s n i 0x14 4) 0 4) ones zeros
      let s := cwGood s n i cw 3 j.row h.op data md
      .next (if stepOver s n i then nextRow s n i else s)
    else .next (cwFailed s n i cw none)
  | some j, none => .next (s.modLnd fun l => { l with jobs := l.jobs.erase j })
  | none, _ => .next s

/-- Every member read of a stripe recovery is in (R348). -/
def execStripeRecoveryDone (id : Nat) (s : State) : Host.Outcome State Fault Refusal := .next (stripeDone s id)

/-- Hours since a group was last calibrated. -/
def calDue (s : State) (n d g : Nat) : Bool :=
  decide (Tbl.getD s.lnd.lastCal (setKey n d g) 0 + s.rd LND_TRACK_CFG.CAL_PERIOD_H ≤ s.pwr.opSec / 3600)

/-- A level group is due: its calibration is queued as class 5 work, reading CAL_SENSES senses of each page type of one programmed wordline of
the group (R342). -/
def execCalibration (n die group : Nat) (s : State) : Host.Outcome State Fault Refusal :=
  let queued := s.lnd.cals.any fun c => c.n == n && c.die == die && c.group == group && !c.started
  if !s.on LND_CTL.CAL_EN || !diePresent s n die || !(queued || calDue s n die group) then .next s
  else
    let s := queueCal s n die group none
    let s := s.modLnd fun l => { l with cals := l.cals.map fun c => if c.n == n && c.die == die && c.group == group then { c with started := true } else c }
    let pick := (s.scu.suites.find? fun e => (e.2.st == 2 || e.2.st == 3) && (List.range 32).any fun m => bitAt e.2.members m && memberDie s e.1 m == (n, die) &&
      levelGroup s { kind := 1, die := die, cell := e.2.cell, suite := some e.1, issuer := .test } == group)
    match pick with
    | none => .next s
    | some e =>
      .next (s.each (List.range (max 1 e.2.cell)) fun s t =>
        offer s n { kind := 1, die := die, planes := 1, cwCount := 1, cwPerPlane := 1, cell := e.2.cell, block := e.1 / 32, page := t,
                    cls := 2, bgClass := 5, suite := some e.1, issuer := .cal group })

/-- The calibration's senses are evaluated: with every page type decoding hard the valley becomes the tracked set in one step, and
otherwise the set stays and a SUSPECT notice follows; reads that waited for it are made (R342, R352, R353). -/
def execCalibrationDone (n die group valley : Nat) (ok : Bool) (s : State) : Host.Outcome State Fault Refusal :=
  match s.lnd.cals.find? fun c => c.n == n && c.die == die && c.group == group && c.started with
  | none => .next s
  | some c =>
    let s := s.modLnd fun l => { l with cals := l.cals.erase c, lastCal := Tbl.put l.lastCal (setKey n die group) (s.pwr.opSec / 3600) }
    let s := if ok then setTracked s n die group (valley % 2 ^ 120)
      else notice s 2 n { kind := 1, die := die, suite := (c.waiters.head?).map fun w => w.1, block := ((c.waiters.head?).map fun w => w.1 / 32).getD 0, issuer := .cal group }
    .next (s.each c.waiters fun s w => (readUnit s w.1 w.2 2 4 (.patrol w.1 w.2)).getD s)

/-- TLER of the namespace passes for a reader, counted from its ingest: no new row starts, failing codewords are ABANDONED and the reader ends
with Unrecovered Read Error (Table 4-7, Table 9-6). -/
def execTlerExpiry (n : Nat) (s : State) : Host.Outcome State Fault Refusal :=
  match s.ctx n with
  | none => .next s
  | some c =>
    if c.st ≠ .running || !c.resolved || c.reads.isEmpty || bits (feat s 0 0x05 (readNs c)) 0 16 = 0 then .next s
    else
      let mine (h : DescHw) : Bool := match h.op.issuer with
        | .hostRead m _ _ => m == n
        | _ => false
      let s := s.each ((List.range 64).flatMap fun p => ((s.seq p).descs.filter fun e => mine e.2 && decide (0 < (s.climb p e.1).row)).map fun e => (p, e.1))
        fun s e => modClimb s e.1 e.2 fun c => { c with stop := true }
      .next (finish (dropReader s n) n 2 0x81)

/-- A DMA channel takes the oldest codeword from Cellar port `n` (64: the Larder's streams) for host port `hp`: the data is deciphered, its
protection information checked, and it goes to the host, is compared, or is copied (R72, R73, R101, R354, R449). -/
def execPacedReadRelease (n hp : Nat) (guardOk appOk refOk : Bool) (bad : Nat) (host : Blk) (s : State) : Host.Outcome State Fault Refusal :=
  match s.lnd.words.find? fun w => w.src == n && ((s.ctx w.ingest).map fun c => c.port) == some hp with
  | none => .next s
  | some w => .next (takeWord s n hp w guardOk appOk refOk bad host)

/-- LND_PORT_CTL.CAL_REQ: every group of a die is to be calibrated (R342, R365). -/
def execCalRequest (n die : Nat) (s : State) : Host.Outcome State Fault Refusal :=
  .next (if diePresent s n die then (s.each (List.range 16) fun s g => queueCal s n die g none).clr1 (LND_PORT_CTL.CAL_REQ n) else s)

end Sys2Proof.Machine
end

