-- ==== Sys2Proof/Machine/Identify.lean ====
section
/-!
DEFINITION. Identify (chapter 4: R141 to R144; R52 and R626 in the recovery identity). The offsets of the fields are those of NVM Express 2.1,
which the spec names and does not repeat.
-/
namespace Sys2Proof.Machine

/-- Text as bytes, padded with spaces; as one number, first character lowest. -/
def textNat (n : Nat) (l : List Char) : Nat :=
  ((List.range n).map fun i => ((l[i]?).map Char.toNat).getD 0x20).foldr (fun b a => b + 256 * a) 0

/-- A number in ASCII hexadecimal, `n` digits, the most significant first. -/
def hexNat (n v : Nat) : Nat :=
  ((List.range n).map fun i =>
    let d := v / 16 ^ (n - 1 - i) % 16
    if d < 10 then 0x30 + d else 0x37 + d).foldr (fun b a => b + 256 * a) 0

/-- `n` bytes of a product constant. -/
def productNat (kind n : Nat) : Nat := ((List.range n).map fun i => Config.identify kind i % 256).foldr (fun b a => b + 256 * a) 0

/-- MP in 10 mW, NOPS, ENLAT and EXLAT in µs of the power states (Table 4-4). -/
def powerStates : List (Nat × Nat × Nat × Nat) :=
  [(3200, 0, 0, 0), (2400, 0, 0, 0), (1600, 0, 0, 0), (350, 1, 10, 20), (90, 1, 200, 1500), (12, 1, 20000, 40000)]

/-- The power state descriptors, 32 bytes each from byte 2,048. -/
def powerDescs (n : Nat) : List (Nat × Nat × Nat) :=
  ((List.range n).zip powerStates).flatMap fun p =>
    let o := 2048 + 32 * p.1
    [(o, 2, p.2.1), (o + 3, 1, 2 * p.2.2.1), (o + 4, 4, p.2.2.2.1), (o + 8, 4, p.2.2.2.2)]

/-- Identify Controller (Table 4-3). (PRESUMED: log entry 76.) -/
def identifyController (s : State) (p : Nat) : List (Nat × Nat × Nat) :=
  [(0, 2, 0x1E73), (2, 2, s.porch.ident.ssvid), (4, 20, productNat 1 20), (24, 40, productNat 2 40), (64, 8, (runningImage s).fr), (72, 1, 6),
   (76, 1, if twoPorts s then 3 else 0), (77, 1, 8), (78, 2, p + 1), (80, 4, 0x00020100), (84, 4, 8000000), (88, 4, 2000000), (92, 4, 0x300),
   (96, 4, 0x80010), (256, 2, 0x023F), (258, 1, 3), (259, 1, 7), (260, 1, 0x17), (261, 1, 0x0E), (262, 1, 255), (263, 1, 5), (265, 1, 1),
   (266, 2, 368), (268, 2, 393), (270, 2, 1), (316, 2, 60), (318, 1, 1), (319, 1, 0x10), (328, 4, 3), (512, 1, 0x66), (513, 1, 0x44),
   (516, 4, 128), (520, 2, 0x01DF), (524, 1, 4), (525, 1, if heldUp s then 6 else 7), (536, 4, 1), (540, 4, 128)] ++ powerDescs 6

/-- Identify Controller in the recovery identity (Table 2-15; the rest as Table 4-3). -/
def identifyRecovery (s : State) : List (Nat × Nat × Nat) :=
  [(0, 2, 0x1E73), (2, 2, 0x1E73), (4, 20, textNat 20 ((List.range 16).map fun i => Char.ofNat (hexNat 16 s.stg.fuses.serial / 256 ^ i % 256))),
   (24, 40, textNat 40 "Torvune CJ-640 recovery".toList), (64, 8, textNat 8 []), (72, 1, 6), (77, 1, 8), (78, 2, 1), (80, 4, 0x00020100), (84, 4, 8000000),
   (88, 4, 2000000), (256, 2, 4), (260, 1, 0x17), (262, 1, 255), (266, 2, 368), (268, 2, 393), (270, 2, 1), (316, 2, 60), (318, 1, 1),
   (319, 1, 0x10), (512, 1, 0x66), (513, 1, 0x44), (536, 4, 1)] ++ powerDescs 1

/-- Logical blocks of a namespace. -/
def nsBlocks (s : State) (ns : Nat) : Nat := (((nspace s ns).map fun x => x.extents).getD 0) * 256 * perUnit s ns

/-- Units of a namespace that this device holds and that are allocated: mapped, or in the overlay. -/
def unitsInUse (s : State) (ns : Nat) : Nat :=
  let exts := (allExtents s).filter fun e => e.1 == ns
  let base := exts.foldl (fun a e => a + (List.range 256).countP fun k =>
    (mapUnit s ns (256 * e.2.1 + k)).kind != .unmapped && !Tbl.has s.pan.overlay (unitKey ns (256 * e.2.1 + k))) 0
  base + s.pan.overlay.countP fun e => e.1 / 2 ^ 40 == ns

/-- Data bits, metadata bytes and RP of the LBA formats (Table 4-5). -/
def lbaFormats : List (Nat × Nat × Nat) := [(12, 0, 0), (12, 8, 0), (12, 64, 1), (12, 64, 1), (9, 0, 2), (9, 8, 2)]

/-- Identify Namespace (Table 4-6). What a manager's workers hold of a namespace is not known to it: NUSE is free there. -/
def identifyNamespace (s : State) (ns : Nat) : List (Nat × Nat × Nat) :=
  let x := ((nspace s ns).getD { fmt := 0, extents := 0 })
  let n := nsBlocks s ns
  let u := if 4 ≤ x.fmt then 2047 else 255
  let g := if 4 ≤ x.fmt then 383 else 47
  let used := if isManager s then Config.freeNat s.free % (n + 1) else unitsInUse s ns * perUnit s ns
  [(0, 8, n), (8, 8, n), (16, 8, used), (24, 1, 0x16), (25, 1, 5), (26, 1, x.fmt), (27, 1, 3), (28, 1, 0x1F), (29, 1, x.pi + 8 * b2n x.pil),
   (30, 1, b2n (twoPorts s)), (33, 1, 0x19), (34, 2, u), (36, 2, u), (40, 2, u), (42, 2, 0), (44, 2, u), (64, 2, g), (66, 2, g), (68, 2, u), (70, 2, u),
   (72, 2, u), (74, 2, u + 1), (76, 4, 8 * (u + 1)), (80, 1, 127), (92, 4, 0), (102, 2, 1), (104, 16, productNat (0x100 + ns) 16)] ++
  ((List.range 6).zip lbaFormats).map fun p => (128 + 4 * p.1, 4, p.2.2.1 + p.2.1 * 2 ^ 16 + p.2.2.2 * 2 ^ 24)

/-- A list of numbers of `n` bytes each. -/
def listFields (n : Nat) (l : List Nat) : List (Nat × Nat × Nat) := layFields 0 (l.map fun v => (n, v))

/-- NSIDs above `ns`, of all namespaces or of those attached to a controller. -/
def nsList (s : State) (p : Option Nat) (ns : Nat) : List Nat :=
  (s.nvm.spaces.filter fun e => decide (ns < e.1) && (match p with
    | some p => e.2.attached.contains (p + 1)
    | none => true)).map fun e => e.1

/-- The data of an Identify, or the status that refuses it (R141). (DEDUCED: log entry 78.) -/
def identifyData (s : State) (p cns csi ns cntid : Nat) : List (Nat × Nat × Nat) ⊕ (Nat × Nat) :=
  let attached := (nspace s ns).any fun x => x.attached.contains (p + 1)
  let exists_ := (nspace s ns).isSome
  let ctrls := if twoPorts s then [1, 2] else [1]
  match cns with
  | 0x00 => if attached then .inl (identifyNamespace s ns) else .inr (0, 0x0B)
  | 0x01 => .inl (identifyController s p)
  | 0x02 => if 0xFFFFFFFE ≤ ns then .inr (0, 0x0B) else .inl (listFields 4 (nsList s (some p) ns))
  | 0x03 =>
    if !attached then .inr (0, 0x0B)
    else .inl (layFields 0 [(1, 2), (1, 16), (2, 0), (16, productNat (0x100 + ns) 16), (1, 3), (1, 16), (2, 0), (16, productNat (0x200 + ns) 16)])
  | 0x05 =>
    if csi ≠ 0 then .inr (0, 2) else if !attached then .inr (0, 0x0B) else .inl [(24, 4, 2 * 2 ^ 7)]
  | 0x06 => if csi ≠ 0 then .inr (0, 2) else .inl []
  | 0x08 => if attached then .inl [(0, 1, 0x10), (1, 1, b2n (twoPorts s)), (12, 2, 1), (14, 1, 1)] else .inr (0, 0x0B)
  | 0x10 => if 0xFFFFFFFE ≤ ns then .inr (0, 0x0B) else .inl (listFields 4 (nsList s none ns))
  | 0x11 => if exists_ then .inl (identifyNamespace s ns) else .inr (0, 0x0B)
  | 0x12 =>
    if !exists_ then .inr (0, 0x0B)
    else
      let l := ctrls.filter fun k => (nspace s ns).any (fun x => x.attached.contains k) && decide (cntid ≤ k)
      .inl (listFields 2 (l.length :: l))
  | 0x13 =>
    let l := ctrls.filter fun k => decide (cntid ≤ k)
    .inl (listFields 2 (l.length :: l))
  | _ => .inr (0, 2)

/-- IDENTIFY: 4,096 bytes. The boot ROM answers CNS 01h only (R52). -/
def execIdentify (n : Nat) (s : State) : Host.Outcome State Fault Refusal :=
  .next (byHall s n fun c => match c.cmd with
    | .identify cns csi ns cntid =>
      if s.porch.recovery then
        (if cns = 1 then finishOk (sendLayout s n (identifyRecovery s) 0 4096) n else finish s n 0 2)
      else match identifyData s c.port cns csi ns cntid with
        | .inl l => finishOk (sendLayout s.tick n l 0 4096) n
        | .inr (a, b) => finish s n a b
    | _ => s)

end Sys2Proof.Machine
end

