-- ==== Sys2Proof/Machine/Logs.lean ====
section
/-!
DEFINITION. Get Log Page (chapter 4: R155 to R162, R503). The layouts of the standard pages are those of NVM Express 2.1; a field of theirs that
the spec does not state is a free value.
-/
namespace Sys2Proof.Machine

/-- The pages of Table 4-9. -/
def logPages : List Nat :=
  [0x00, 0x01, 0x02, 0x03, 0x04, 0x05, 0x06, 0x07, 0x08, 0x09, 0x0E, 0x20, 0x21, 0x22, 0x23, 0x81, 0xC0, 0xC1, 0xC2, 0xC3]

/-! ## Health (R156, R397, Table 10-12) -/

/-- Critical Warning of a controller (R156). -/
def critWarning (s : State) (p : Nat) : Nat :=
  b2n (decide (spareBp s < 1000)) + 2 * b2n (tempWarn s p) +
  4 * b2n ((List.range 64).any (fun n => populated s n && portRetired s n) || s.hall.defer_.any fun e => e.armed) +
  8 * b2n (decide (spare s ≤ 0)) + 16 * b2n (s.pwr.straps.holdup && !s.pwr.holdupOk)

/-- Percentage Used. -/
def percentUsed (s : State) : Nat := min 255 (100 * (wear s).1 / max 1 (s.rd SCU_WEAR_CFG.WEAR_LIMIT))

/-- 512-byte units of a count of 4 KiB units, in thousands, rounded up. -/
def dataUnits (k : Nat) : Nat := ceilDiv (8 * k) 1000

/-- The reading of a sensor in Kelvin; 0 where none is valid. -/
def kelvinOf (o : Option Int) : Nat := (o.map kelvin).getD 0

/-- Notices of the critical warnings that have come up since the last look, but for the temperature's, which is raised at once (R156, R534). -/
def warnCheck (s : State) : State :=
  let now := critWarning s 0
  let new (b : Nat) : Bool := bitAt now b && !bitAt s.nvm.warned b
  if now = s.nvm.warned then s
  else
    let s := s.each [(0, 2), (2, 0), (3, 0), (4, 0)] fun s b =>
      if new b.1 then s.each ((portsInUse s).filter fun p => bitAt (feat s (p + 1) 0x0B 0) b.1) fun s p => asyncEvent s p 1 b.2 2 else s
    serveEvents (s.modNvm fun x => { x with warned := now })

/-! ## The standard pages -/

/-- Log page 02h (R156). (DESIGN CHOICE: log entry 77.) -/
def smartLog (s : State) (p : Nat) : List (Nat × Nat × Nat) :=
  let free (i : Nat) : Nat := Config.freeNat (s.free + i)
  [(0, 1, critWarning s p), (1, 2, kelvin (composite s)), (3, 1, spareBp s / 100), (4, 1, 10), (5, 1, percentUsed s), (6, 1, free 0),
   (32, 16, dataUnits s.nvm.unitsRead), (48, 16, dataUnits s.nvm.hostUnitsWritten), (64, 16, free 1), (80, 16, free 2), (96, 16, free 3),
   (112, 16, s.pwr.powerCycle), (128, 16, s.pwr.opSec / 3600), (144, 16, free 4), (160, 16, s.nvm.integrity),
   (176, 16, ((Tbl.getD s.nvm.errors p []).head?.bind List.head?).getD 0), (192, 4, free 5), (196, 4, free 6),
   (200, 2, kelvinOf (hottest s (List.range 24))),
   (202, 2, kelvinOf ((zonePorts s).filterMap (hottestOf s) |>.foldl (fun (a : Option Int) x => some (max x (a.getD x))) none)),
   (204, 2, kelvinOf (hottest s [24])), (216, 4, free 7), (220, 4, free 8), (224, 4, free 9), (228, 4, free 10)]

def errorLog (s : State) (p : Nat) : List (Nat × Nat × Nat) :=
  let l := Tbl.getD s.nvm.errors p []
  ((List.range l.length).zip l).flatMap fun q =>
    let o := 64 * q.1
    let f (i : Nat) : Nat := q.2.getD i 0
    [(o, 8, f 0), (o + 8, 2, f 1), (o + 10, 2, f 2), (o + 12, 2, 2 * (f 4 + 256 * f 3)), (o + 14, 2, 0xFFFF), (o + 16, 8, f 5), (o + 24, 4, f 6)]

/-- The FR of a slot that passes the leaf and header checks, else zero (R503). -/
def slotFr (s : State) (k : Nat) : Nat := if (slotImage s k).wellFormed then (slotImage s k).fr else 0

def slotLog (s : State) : List (Nat × Nat × Nat) :=
  let next := ((recNow s).map fun r => r.2.active).getD 0
  [(0, 1, s.clo.running % 8 + (if next = s.clo.running then 0 else next % 8 * 16)), (8, 8, slotFr s 1), (16, 8, slotFr s 2), (24, 8, slotFr s 3)]

/-- Commands Supported and Effects: supported, and for the commands that write, logical block content change; for those that change namespaces,
namespace inventory change. -/
def effectsLog : List (Nat × Nat × Nat) :=
  let admin := [0x00, 0x01, 0x02, 0x04, 0x05, 0x06, 0x08, 0x09, 0x0A, 0x0C, 0x0D, 0x10, 0x11, 0x14, 0x15, 0x19, 0x1A, 0x80, 0x81, 0x82, 0x84, 0x86, 0xC0, 0xC1]
  let io := [0x00, 0x01, 0x02, 0x04, 0x05, 0x08, 0x09, 0x0C, 0x12, 0x1D, 0x19]
  (admin.map fun k => (4 * k, 4, 1 + 2 * b2n (k == 0x80 || k == 0x84) + 8 * b2n (k == 0x0D || k == 0x15))) ++
  io.map fun k => (1024 + 4 * k, 4, 1 + 2 * b2n (k == 0x01 || k == 0x04 || k == 0x08 || k == 0x09 || k == 0x19))

/-- Device Self-test: the running test, its progress (a free value: the spec gives no formula), and the newest 20 results (R570 to R572). -/
def selfTestLog (s : State) : List (Nat × Nat × Nat) :=
  let rows := (List.range 20).flatMap fun i =>
    let o := 4 + 28 * i
    match s.atc.dstResults[i]? with
    | none => [(o, 1, 0xF)]
    | some r => [(o, 1, r.code * 16 + r.result), (o + 1, 1, if r.result = 7 then r.seg else 0),
                 (o + 2, 1, b2n (r.nsid != 0) + 2 * b2n (r.result == 7 && r.lba != 0)), (o + 4, 8, r.opSec / 3600), (o + 12, 4, r.nsid), (o + 16, 8, r.lba)]
  match s.atc.dst with
  | some d => (0, 1, if d.ext then 2 else 1) :: (1, 1, Config.freeNat s.free % 100) :: rows
  | none => rows

/-- LBA Status Information: the lost ranges of R115 by namespace. -/
def lbaStatusLog (s : State) : List (Nat × Nat × Nat) :=
  let els := (Tbl.keys s.nvm.spaces).filterMap fun ns => match lostRuns s ns with
    | [] => none
    | l => some (ns, l)
  let body := els.flatMap fun e =>
    [(4, e.1), (4, e.2.length), (8, 2)] ++ e.2.flatMap fun r => [(8, r.1 * perUnit s e.1), (4, r.2 * perUnit s e.1), (4, 0)]
  let len := body.foldl (fun a f => a + f.1) 0
  layFields 0 ([(4, 16 + len), (4, els.length), (4, els.foldl (fun a e => a + e.2.foldl (fun b r => b + r.2 * perUnit s e.1) 0) 0), (2, 0), (2, 0)] ++ body)

def enduranceLog (s : State) : List (Nat × Nat × Nat) :=
  [(0, 1, b2n (decide (spareBp s < 1000)) + 4 * (critWarning s 0 / 4 % 2) + 8 * b2n (decide (spare s ≤ 0))), (3, 1, spareBp s / 100), (4, 1, 10),
   (5, 1, percentUsed s), (32, 16, Config.freeNat s.free), (48, 16, dataUnits s.nvm.unitsRead), (64, 16, dataUnits s.nvm.hostUnitsWritten),
   (80, 16, dataUnits s.nvm.mediaUnits), (96, 16, Config.freeNat (s.free + 1)), (112, 16, Config.freeNat (s.free + 2)), (128, 16, s.nvm.integrity),
   (144, 16, Config.freeNat (s.free + 3)), (160, 16, Config.exportedUnits * 4096), (176, 16, (Config.exportedUnits - unitsUsed s) * 4096)]

/-- The endurance group's pages of Flexible Data Placement: one configuration of 8 reclaim groups and 16 initially isolated handles. -/
def fdpLog (s : State) (page : Nat) : List (Nat × Nat × Nat) :=
  match page with
  | 0x20 => layFields 0 ([(2, 0), (1, 0), (1, 0), (4, 16 + 128), (8, 0), (2, 128), (1, 0x83), (1, 0), (4, 8), (2, 16), (2, 127), (4, 128), (8, fullSuite s * 4096), (4, 0), (36, 0)] ++
      (List.range 16).map fun _ => (4, 1))
  | 0x21 => layFields 0 ([(2, 16), (6, 0)] ++ (List.range 16).map fun h => (8, b2n (s.nvm.fdp && s.ldr.fronts.any fun e => e.2.handle == h)))
  | 0x22 => layFields 0 [(16, s.nvm.hostUnitsWritten * 4096), (16, s.nvm.mediaUnits * 4096), (16, s.nvm.erasedUnits * 4096)]
  | _ => layFields 0 ([(4, s.nvm.fdpLog.length), (60, 0)] ++ s.nvm.fdpLog.flatMap fun e =>
      [(1, e.1), (1, 0), (2, e.2.1), (8, 0), (4, 0), (24, 0), (2, (s.suite e.2.2).rg), (22, 0)])

/-- Sanitize Status (R153): progress by suites; its estimated times come from the image's geometry table by no stated formula. -/
def sanitizeLog (s : State) : List (Nat × Nat × Nat) :=
  let busy := s.nvm.sanitize.isSome
  let prog := if busy then min 65534 (s.nvm.sanErased * 65536 / max 1 s.scu.suites.length) else 65535
  let st := if busy then 2 else if s.nvm.sanFailed then 3 else if s.nvm.sanLast = 0 then 0 else 1
  [(0, 2, prog), (2, 2, st), (4, 4, s.nvm.sanLast), (8, 4, 0xFFFFFFFF), (12, 4, Config.freeNat s.free), (16, 4, Config.freeNat (s.free + 1)),
   (20, 4, 0xFFFFFFFF), (24, 4, Config.freeNat (s.free + 2)), (28, 4, Config.freeNat (s.free + 3))]

/-! ## The vendor pages (R157 to R162) -/

/-- Page C0h: header and entries (Tables 4-10, 4-11). -/
def deferLog (s : State) : List (Nat × Nat) :=
  [(2, 1), (2, s.hall.defer_.length), (4, 0), (8, s.hall.deferGen), (8, s.rd HAL_DEFER_CNT.ARMED), (40, 0)] ++
  s.hall.defer_.flatMap fun e =>
    [(4, e.nsid), (1, e.cause), (1, if e.armed then 1 else 2), (2, b2n e.coalesced), (8, e.slba), (8, e.nlb), (8, e.armIngest), (8, e.armTime),
     (2, e.port), (1, e.worker), (5, 0)]

/-- The fields of a record (Table 15-1). -/
def recFields (r : AtticRec) : List (Nat × Nat) :=
  [(2, r.code), (1, r.sev * 16 + r.src), (1, r.origin), (4, r.seq), (5, r.time), (3, r.cycle), (4, r.p0), (4, r.p1), (4, r.p2), (4, r.p3)]

/-- Page C1h (R160). -/
def atticLog (s : State) : List (Nat × Nat) :=
  let l := if s.atc.full then [] else s.atc.ring
  let seqOf (o : Option AtticRec) : Nat := (o.map fun r => r.seq).getD 0
  [(2, 1), (2, b2n s.atc.full), (4, l.length), (4, seqOf l.head?), (4, seqOf l.getLast?), (4, s.atc.clearCount), (44, 0)] ++ l.flatMap recFields

/-- A port of page C2h (Table 4-13). -/
def portLog (s : State) (n : Nat) : List (Nat × Nat) :=
  let st := if !populated s n then 0 else if portRetired s n then 3 else if portMode s n = 2 then 2 else 1
  let x := Tbl.getD s.nvm.ports n {}
  [(2, st), (1, min 3 ((s.port n).retrains.countP fun t => decide (s.pwr.opSec < t + 600))), (1, 0), (4, x.retries), (4, x.retrains), (4, x.soft),
   (4, x.retryReads), (4, x.uncorr), (4, x.progFails), (4, x.eraseFails)]

/-- Page C2h (Table 4-12). -/
def healthLog (s : State) : List (Nat × Nat) :=
  let r := s.atc.dstResults.head?
  [(2, 1), (2, (List.range 64).countP (populated s)), (4, 0), (8, s.pwr.opSec), (4, spareSuites s), (4, spareBp s), (4, (wear s).1), (4, (wear s).2.1),
   (4, (wear s).2.2), (4, s.rd SCU_WEAR_CFG.WEAR_LIMIT), (4, s.rd SCU_PATROL_STATUS.LAP_LAST_S), (4, patrolPeriod s),
   (4, s.rd BSM_SCRUB_STATUS.LAP_LAST_S), (4, s.rd BSM_SCRUB_STATUS.LAP_MAX_S), (1, (r.map fun x => x.detail).getD 0),
   (1, (r.map fun x => x.code).getD 0), (2, 0), (4, s.nvm.dstSeconds)] ++
  (List.range 16).map (fun k => (4, Tbl.getD s.nvm.tempHist k 0)) ++ (List.range 64).flatMap (portLog s)

/-- The negotiated Stair version: a worker's; the lowest among a manager's joined workers. (DEDUCED: log entry 79.) -/
def stairVersion (s : State) : Nat :=
  if isManager s then
    ((configuredWorkers s).filterMap fun w => if (s.worker w).ver = 0 then none else some (s.worker w).ver).foldl (fun a v => if a = 0 then v else min a v) 0
  else s.sta.ver

/-- Page C3h (R162, Table 4-14). -/
def stairLog (s : State) : List (Nat × Nat) :=
  let dies := diesInService s
  let me : List (Nat × Nat) :=
    [(1, 0), (1, 2), (1, 0), (1, stairVersion s), (4, (runningImage s).version), (8, 0), (8, dies), (8, dies * (runningImage s).dieGb), (8, 0), (8, 0), (4, 0), (12, 0)]
  let row (w : Nat) : List (Nat × Nat) :=
    if !configured s w then [(64, 0)]
    else
      let x := s.worker w
      [(1, w), (1, x.st), (1, x.fence), (1, x.ver), (4, x.image), (8, maskOf (linksOf s w)), (8, x.dies), (8, x.rawGb), (8, x.lastSeen),
       (8, wrapInt 64 x.offset), (4, x.retrains), (12, 0)]
  [(2, 1), (1, s.pwr.straps.role), (1, stairVersion s), (1, (configuredWorkers s).length), (1, (configuredWorkers s).countP (workerActive s)), (58, 0)] ++
  me ++ ((List.range 7).flatMap fun i => row (i + 1))

/-- The fields of a vendor page now. -/
def vendorLog (s : State) (page : Nat) : List (Nat × Nat) :=
  match page with
  | 0xC0 => deferLog s
  | 0xC1 => atticLog s
  | 0xC2 => healthLog s
  | _ => stairLog s

/-- Telemetry: a header, then C2h, the compact records and the full-mode area as data areas 1 to 3 in blocks of 512 bytes (Table 4-9, R562). -/
def telemetryLog (s : State) (page : Nat) : List (Nat × Nat × Nat) :=
  let a2 := s.atc.ring.flatMap recFields
  let a3 := ((s.atc.segs.flatten.flatMap fun p => p.recs).flatMap recFields)
  let size (l : List (Nat × Nat)) : Nat := l.foldl (fun a f => a + f.1) 0
  let b1 := ceilDiv 2176 512
  let b2 := b1 + ceilDiv (size a2) 512
  let b3 := b2 + ceilDiv (min (2 ^ 25) (size a3)) 512
  [(0, 1, page), (8, 2, b1), (10, 2, b2), (12, 2, b3)] ++ layFields 512 (healthLog s) ++ layFields (512 * (b1 + 1)) a2 ++ layFields (512 * (b2 + 1)) a3

/-! ## Get Log Page -/

/-- A page served from the vendor snapshot of its controller: taken at offset 0 (R157). Answers the state and the layout. -/
def vendorPage (s : State) (p page offset : Nat) : State × Option (List (Nat × Nat)) :=
  let key := p * 256 + page
  if offset = 0 then
    let l := vendorLog s page
    (s.modHall fun h => { h with snaps := Tbl.put h.snaps key l, snapEnts := if page = 0xC0 then Tbl.put h.snapEnts p h.defer_ else h.snapEnts }, some l)
  else (s, Tbl.find s.hall.snaps key)

/-- A standard page's layout, and the state after: pages that are lists of what is new are cleared where events are not retained. -/
def standardPage (s : State) (p page : Nat) (rae : Bool) : State × List (Nat × Nat × Nat) :=
  match page with
  | 0x00 => (s, logPages.map fun k => (4 * k, 4, 1))
  | 0x01 => (s, errorLog s p)
  | 0x02 => (s.ticks 11, smartLog s p)
  | 0x03 => (s, slotLog s)
  | 0x04 =>
    let l := (Tbl.getD s.nvm.changedNs p []).mergeSort
    (if rae then s else s.modNvm fun x => { x with changedNs := Tbl.del x.changedNs p }, listFields 4 l)
  | 0x05 => (s, effectsLog)
  | 0x06 => (s.tick, selfTestLog s)
  | 0x07 => (s, telemetryLog s 0x07)
  | 0x08 => (s, telemetryLog s 0x08)
  | 0x09 => (s.ticks 4, enduranceLog s)
  | 0x0E => (s, lbaStatusLog s)
  | 0x81 => (s.ticks 4, sanitizeLog s)
  | k => (s, fdpLog s k)

/-- The removal of R159: the Reported entries that the read returned go, with a DEFER_CLEAR record. -/
def clearReported (s : State) (p : Nat) : State :=
  let snap := Tbl.getD s.hall.snapEnts p []
  let gone (e : DeferEnt) : Bool := !e.armed && snap.contains e
  if s.hall.defer_.any gone then
    let s := s.each (s.hall.defer_.filter gone) fun s e => post s 0x0032 1 1 0xFF e.nsid e.slba e.cause e.armIngest
    jAppend (s.modHall fun h => { h with defer_ := h.defer_.filter fun e => !gone e }) { typ := 0x09, first := s.hall.deferGen }
  else s

/-- Bytes of a list of fields. -/
def fieldsLen (l : List (Nat × Nat)) : Nat := l.foldl (fun a f => a + f.1) 0

/-- Whether a Get Log Page for C0h has the shape of R159. -/
def clearsDeferred (s : State) (page offset len : Nat) (rae : Bool) : Bool :=
  page == 0xC0 && offset == 0 && !rae && decide (fieldsLen (deferLog s) ≤ len)

/-- GET_LOG_PAGE: the checks of R52 and R155, the page, its side effects. (DEDUCED: log entry 75.) -/
def getLog (s : State) (n : Nat) (c : Ctx) (page offset len ns : Nat) (rae : Bool) : State :=
  if !logPages.contains page || (s.porch.recovery && page != 1 && page != 3) then finish s n 1 9
  else if offset % 4 ≠ 0 then finish s n 0 2
  else if ns ≠ 0 && ns ≠ 0xFFFFFFFF && (nspace s ns).isNone then finish s n 0 0x0B
  else if 0xC0 ≤ page then
    let clear := clearsDeferred s page offset len rae
    match vendorPage s c.port page offset with
    | (s, none) => finish s n 0 2
    | (s, some l) =>
      let s := sendLayout s n (layFields 0 l) offset len
      let s := if page = 0xC0 && !rae then s.modHall fun h => { h with deferUnread := [] } else s
      finishOk (if clear then clearReported s c.port else s) n
  else
    let (t, l) := standardPage s c.port page rae
    finishOk (sendLayout t n l offset len) n

/-- A Get Log Page row: pages of the second row of Table 4-16 wait for the supervisor program. -/
def logRow (s : State) (n : Nat) (deferred : Bool) : State :=
  let turn := match s.ctx n with
    | some c => !supervisorRuns c.cmd || supTurns s
    | none => false
  if !turn then s
  else byHall s n fun c => match c.cmd with
    | .getLog page offset len ns rae =>
      if clearsDeferred s page offset len rae = deferred then getLog s n c page offset len ns rae else s
    | _ => s

def execGetLogPage (n : Nat) (s : State) : Host.Outcome State Fault Refusal := .next (logRow s n false)

/-- GET_LOG_PAGE_DEFERRED_ERRORS: a read of every entry of C0h that does not retain events (R159). -/
def execGetLogPageDeferredErrors (n : Nat) (s : State) : Host.Outcome State Fault Refusal := .next (logRow s n true)

end Sys2Proof.Machine
end

