-- ==== Sys2Proof/Machine/Security.lean ====
section
/-!
DEFINITION. The host security path's TCG Opal side (chapter 12: R441, R445, R452 to R457): Security Send and Security Receive. A Send's message
is the method it carries; a method that TCG refuses changes nothing, and its NVMe command still completes successfully.
-/
namespace Sys2Proof.Machine

/-! ## Authorities (Tables 12-1, 12-5) -/

/-- Admin1 to Admin4. -/
def isAdmin (a : Nat) : Bool := decide (1 ≤ a ∧ a ≤ 4)

/-- SID and PSID, which only the Admin SP (0) has; the Locking SP (1) has Admins and Users and is there once activated. -/
def spHas (s : State) (sp a : Nat) : Bool :=
  match sp with
  | 0 => isAdmin a || (a == 0x21 && !s.stg.blockSid) || a == 0x22
  | 1 => s.stg.activated && (isAdmin a || decide (0x11 ≤ a ∧ a ≤ 0x18))
  | _ => false

/-- Where a credential and its failed tries are kept: the Locking SP's under the authority's own number. (DEDUCED: log entry 44.) -/
def credKey (sp a : Nat) : Nat := if sp = 0 then 0x100 + a else a

/-- The key of a range, as its blobs are bound. -/
def rangeBind (s : State) (r : Nat) : Binding :=
  if r < 64 then { kind := 3, nsid := (s.range r).nsid, range := r } else { kind := 2, nsid := r - 64 }

/-- An authority with unlock rights authenticates: pending blobs of its ranges are rewrapped under its credential and erased (R457). -/
def rewrapPending (s : State) (auth cred : Nat) : State :=
  s.each s.stg.ranges fun s e =>
    if e.2.pending && e.2.auths.contains auth then
      let b := rangeBind s e.1
      let (t, k) := rewrap s { b with kind := 4 } 0 auth cred
      if k ≠ 0 then t
      else (t.modRange e.1 fun y => { y with pending := false }).modStg fun g =>
        { g with blobs := g.blobs.filter fun x => !(x.bind.kind == 4 && x.bind.nsid == b.nsid && x.bind.range == b.range) }
    else s

/-- StartSession with an authority: one session for each ComID; TryLimit 5 (Table 12-5). Authority 0 is Anybody. -/
def startSession (s : State) (p sp auth cred : Nat) : State :=
  let k := credKey sp auth
  if Tbl.has s.stg.sessions p then s
  else if auth = 0 then
    (if sp = 0 || (sp = 1 && s.stg.activated) then s.modStg fun g => { g with sessions := Tbl.put g.sessions p { sp := sp, auth := 0 } } else s)
  else if !spHas s sp auth || 5 ≤ Tbl.getD s.stg.tries k 0 then s
  else if Tbl.getD s.stg.creds k 0 ≠ cred then s.modStg fun g => { g with tries := Tbl.put g.tries k (Tbl.getD g.tries k 0 + 1) }
  else
    let s := s.modStg fun g => { g with sessions := Tbl.put g.sessions p { sp := sp, auth := auth, cred := cred }, tries := Tbl.del g.tries k }
    if sp = 1 then rewrapPending s auth cred else s

/-! ## Ranges (R453, R456) -/

/-- The wraps a range's key has: one for each authority that may unlock it, or AUTHORITY 0. (DEDUCED: log entry 83.) -/
def wraps (s : State) (enabled : Bool) (auths : List Nat) : List (Nat × Nat) :=
  if enabled then auths.map fun a => (a, Tbl.getD s.stg.creds a 0) else [(0, 0)]

/-- A range's key is wrapped anew for another set of authorities (R453): REWRAP for each, then the blobs of the others go. -/
def rewrapRange (s : State) (r : Nat) (auths : List Nat) (enabled : Bool) : State :=
  let x := s.range r
  let b := rangeBind s r
  match wraps s x.enabled x.auths with
  | [] => s
  | (a, c) :: _ =>
    let new := wraps s enabled auths
    let s := s.each new fun s w => (rewrap s { b with auth := a } c w.1 w.2).1
    s.modStg fun g => { g with blobs := g.blobs.filter fun y =>
      !(y.bind.kind == b.kind && y.bind.nsid == b.nsid && y.bind.range == b.range) || new.any fun w => w.1 == y.bind.auth }

/-- Whether a Locking range may lie there: inside its namespace, and clear of the others. -/
def rangeFits (s : State) (r nsid start len : Nat) : Bool :=
  decide (0 < len) && (nspace s nsid).any (fun x => decide (start + len ≤ x.extents)) &&
  s.stg.ranges.all fun e => e.1 == r || 64 ≤ e.1 || e.2.len == 0 || e.2.nsid != nsid || decide (start + len ≤ e.2.start ∨ e.2.start + e.2.len ≤ start)

/-- Set of a range's place, its lock enables and the authorities that may unlock it. A range first defined gets a key. -/
def setRange (s : State) (r nsid start len : Nat) (rle wle : Bool) (auths : List Nat) : State :=
  let x := s.range r
  let on := rle || wle
  let ok := !on || !auths.isEmpty
  if !ok then s
  else if 64 ≤ r then
    if (nspace s (r - 64)).isNone || x.pending then s
    else (rewrapRange s r auths on).modRange r fun y => { y with nsid := r - 64, rle := rle, wle := wle, auths := auths }
  else if r = 0 || 63 < r || x.pending || !rangeFits s r nsid start len || (x.len ≠ 0 && x.nsid ≠ nsid) then s
  else if x.len ≠ 0 then
    (rewrapRange s r auths on).modRange r fun y => { y with start := start, len := len, rle := rle, wle := wle, auths := auths }
  else match freeKslot s with
    | none => s
    | some k =>
      let (t, c) := generateKey s { kind := 3, nsid := nsid, range := r } x.gen k (if on then wraps s true auths else [])
      if c ≠ 0 then s else t.modRange r fun y => { y with nsid := nsid, start := start, len := len, slot := k, rle := rle, wle := wle, auths := auths }

/-- Set of ReadLocked and WriteLocked: clearing one first performs UNWRAP_LOAD with the session's credential (R453). -/
def setLock (s : State) (x : TcgSession) (r : Nat) (rl wl : Bool) : State :=
  let y := s.range r
  if !y.auths.contains x.auth && !isAdmin x.auth then s
  else if (y.rl && !rl) || (y.wl && !wl) then
    if !y.auths.contains x.auth then s
    else
      let slot := if r < 64 then some y.slot else (nsSlot s (r - 64)).orElse fun _ => freeKslot s
      match slot with
      | none => s
      | some k =>
        let (t, c) := unwrapLoad s { rangeBind s r with auth := x.auth } k x.cred
        if c ≠ 0 then t else t.modRange r fun z => { z with rl := rl, wl := wl }
  else s.modRange r fun z => { z with rl := rl, wl := wl }

/-- A credential changes: in the SP's table, and by REWRAP in every blob wrapped under it. -/
def setCredential (s : State) (sp auth cred : Nat) : State :=
  let old := Tbl.getD s.stg.creds (credKey sp auth) 0
  let s := if sp ≠ 1 then s else s.each s.stg.ranges fun s e =>
    if e.2.enabled && e.2.auths.contains auth then (rewrap s { rangeBind s e.1 with auth := auth } old auth cred).1 else s
  s.modStg fun g => { g with creds := Tbl.put g.creds (credKey sp auth) cred,
                             sessions := Tbl.mapV g.sessions fun _ y => if y.sp = sp && y.auth = auth then { y with cred := cred } else y }

/-! ## GenKey and Revert (R441, R455, R456) -/

/-- The extents of a range: a Locking range's own, or those of a namespace that no Locking range holds. -/
def rangeExts (s : State) (r : Nat) : List Nat :=
  if r < 64 then (List.range (s.range r).len).map fun i => (s.range r).start + i
  else (List.range (((nspace s (r - 64)).map fun x => x.extents).getD 0)).filter fun e => rangeAt s (r - 64) e == r

/-- The namespace of a range. -/
def rangeNs (s : State) (r : Nat) : Nat := if r < 64 then (s.range r).nsid else r - 64

/-- Every extent of a range is deallocated: this device's own, and through requests those of the workers. -/
def deallocRange (s : State) (n r : Nat) : State :=
  let ns := rangeNs s r
  s.each (rangeExts s r) fun s e =>
    let (w, l) := shareOf s e
    if w = 0 || !isManager s then directCommit s ns 0x04 ((List.range 256).map fun k => 256 * (if isManager s then l else e) + k)
    else askUnits s n w ns e ((List.range 256).map fun k => 256 * e + k) { kind := 3 } []

/-- Whether every command ingested before `n` that uses a key of the ranges has completed (R455). -/
def keysIdle (s : State) (n : Nat) (l : List Nat) : Bool :=
  let hit (x : Span) : Bool := x.all || (spanExts x).any fun e => l.contains (rangeAt s x.ns e)
  s.hall.ctxs.all (fun e => decide (n ≤ e.1) || (e.2.st == .ready && e.2.wunits.all fun u => u.st != .waiting) || !(e.2.reads ++ e.2.writes).any hit) &&
  s.hall.tails.all fun e => decide (n ≤ e.1) || e.2.units.all fun u => u.st != .waiting || !l.contains (rangeAt s u.ns u.ext)

/-- First stage: the deallocation records are appended, and the command waits until they are durable (step 1 of R441). -/
def startRangeErase (s : State) (n : Nat) (l : List Nat) : State :=
  let s := s.each l fun s r => deallocRange s n r
  let (s, t) := recordTag s
  settleCheck (s.modCtx n fun c => { c with st := .running, wunits := [{ ns := 0, ext := 0, units := [], st := .committed, tag := some t }] })

/-- A namespace takes a new key of the next generation, with the FORMAT record that names it (R441). Where no Locking range divides the
namespace the workers take note of it. -/
def renewNsKey (s : State) (n ns : Nat) : State :=
  match nspace s ns with
  | none => s
  | some x =>
    let (t, c) := newNsKey s ns (x.gen + 1)
    if c ≠ 0 then s
    else
      let s := eraseStale (jAppend (t.modNvm fun y => { y with spaces := Tbl.upd y.spaces ns fun z => { z with gen := x.gen + 1 } })
        { typ := 0x0E, nsid := ns, loc := x.fmt, aux := x.gen + 1 })
      if isManager s && (s.stg.ranges.all fun e => 64 ≤ e.1 || e.2.len == 0 || e.2.nsid != ns) then
        askBarrier s n { kind := 7, nsid := ns, op := 3, fmt := x.fmt, gen := x.gen + 1 } fun w => shareExtents s w x.extents
      else s

/-- Second stage of GenKey: the new key. -/
def finishGenKey (s : State) (n r : Nat) : State := if r < 64 then eraseStale (newRangeKey s r false).1 else renewNsKey s n (r - 64)

/-- Second stage of Revert: the SP tables return to their manufactured state, and every namespace takes a new key. -/
def finishRevert (s : State) (n : Nat) : State :=
  let s := s.each (s.stg.ranges.filter fun e => e.1 < 64 && 0 < e.2.len) fun s e => s.modKslot e.2.slot fun _ => {}
  let s := s.modStg fun g => { g with
    ranges := [], creds := [], tries := [], activated := false, sessions := [],
    blobs := g.blobs.filter fun x => x.bind.kind != 3 && x.bind.kind != 4 }
  eraseStale (s.each (Tbl.keys s.nvm.spaces) fun s ns => renewNsKey s n ns)

/-- Who may GenKey, and who may revert the Locking SP: its Admins; SID and PSID of the Admin SP revert it too. -/
def mayErase (x : TcgSession) (m : TcgMsg) : Bool :=
  match m with
  | .genKey _ => x.sp == 1 && isAdmin x.auth
  | .revert => (x.sp == 1 && isAdmin x.auth) || (x.sp == 0 && (x.auth == 0x21 || x.auth == 0x22))
  | _ => false

/-- The ranges whose keys a method replaces. -/
def eraseRanges (s : State) : TcgMsg → List Nat
  | .genKey r => [r]
  | .revert => ((s.stg.ranges.filter fun e => e.1 < 64 && 0 < e.2.len).map fun e => e.1) ++ (Tbl.keys s.nvm.spaces).map globalRange
  | _ => []

/-- Whether a GenKey names a range that has a key. -/
def eraseNames (s : State) : TcgMsg → Bool
  | .genKey r => if r < 64 then decide (0 < (s.range r).len) else (nspace s (r - 64)).isSome
  | _ => true

/-- The change of R455 that a command had pending is over. -/
def clearPend (s : State) (n : Nat) : State :=
  s.modStg fun g => { g with ranges := Tbl.mapV g.ranges fun _ y => if y.pend = some n then { y with pend := none } else y }

/-- The methods that act at once. (DEDUCED: log entry 81.) -/
def tcgNow (s : State) (p : Nat) (m : TcgMsg) : State :=
  let x := (Tbl.find s.stg.sessions p).getD { sp := 9, auth := 0 }
  match m with
  | .startSession sp auth cred => startSession s p sp auth cred
  | .endSession => s.modStg fun g => { g with sessions := Tbl.del g.sessions p }
  | .setRange r nsid start len rle wle auths => if x.sp = 1 && isAdmin x.auth then setRange s r nsid start len rle wle auths else s
  | .setLock r rl wl => if x.sp = 1 then setLock s x r rl wl else s
  | .setCredential auth cred =>
    if x.sp ≤ 1 && x.auth ≠ 0 && (x.auth = auth || isAdmin x.auth || x.auth = 0x21) && (auth ≠ 0x22) then setCredential s x.sp auth cred else s
  | .activate => if x.sp = 0 && x.auth = 0x21 then s.modStg fun g => { g with activated := true } else s
  | .blockSid => s.modStg fun g => { g with blockSid := true }
  | _ => s

/-- SECURITY_SEND. Protocol 02h carries only ComID management and Block SID; 00h takes no Send. GenKey and Revert act in two stages: they wait
for the older commands that use the keys, then for the deallocation. (PRESUMED: log entry 82.) (DEDUCED: log entry 84.) -/
def execSecuritySend (n : Nat) (s : State) : Host.Outcome State Fault Refusal :=
  .next (match s.ctx n with
    | none => s
    | some c => match c.cmd with
      | .security true proto m =>
        if c.stair.isSome || !adminGo s n then s
        else if c.st = .fresh then
          if proto = 0 then finish (clearPend s n) n 0 2
          else if proto = 2 then
            finishOk (clearPend (match m with
              | .endSession => tcgNow s c.port m
              | .blockSid => tcgNow s c.port m
              | _ => s) n) n
          else
            let x := (Tbl.find s.stg.sessions c.port).getD { sp := 9, auth := 0 }
            let erases := mayErase x m && eraseNames s m && !s.on STG_STATUS.TAMPERED && !s.on STG_STATUS.NO_ENTROPY
            if !erases then finishOk (clearPend (tcgNow s c.port m) n) n
            else if !journalOn s || !keysIdle s n (eraseRanges s m) then s
            else startRangeErase s n (eraseRanges s m)
        else if c.st = .running && writeSettled s n && !waitsWorkers s n then
          finishOk (clearPend (match m with
            | .genKey r => finishGenKey s n r
            | .revert => finishRevert s n
            | _ => s) n) n
        else s
      | _ => s)

/-- SECURITY_RECEIVE: protocol 00h lists the protocols 00h, 01h and 02h; the response of the others is TCG's. -/
def execSecurityReceive (n : Nat) (s : State) : Host.Outcome State Fault Refusal :=
  .next (byHall s n fun c => match c.cmd with
    | .security false proto _ =>
      if proto = 0 then finishOk (sendLayout s n (layFields 0 [(6, 0), (2, 3 * 256), (1, 0), (1, 1), (1, 2)]) 0 512) n
      else finishOk ((s.emit (.adminData n [(16384, Config.freeNat s.free)])).tick) n
    | _ => s)

end Sys2Proof.Machine
end

