-- ==== Sys2Proof/Machine/SeqCtl.lean ====
section
/-!
DEFINITION. The control registers of the port sequencers: run, halt, restart, loading a program, mail; and the watchdog's kick (R306, R319,
R320, R323, R324).
-/
namespace Sys2Proof.Machine

/-- The low `len` bytes of `v` go to local address `a` of sequencer `n`. -/
def localWrite (s : State) (n a len v : Nat) : State :=
  s.modSeq n fun q => { q with ram := Tbl.writeBytes q.ram 0 a len v }

/-- A write to CEL_SEQ_CTL with RUN = 1: while RUN was 0, ENTRY, TRAP_VEC and LEVEL are taken and the sequencer runs from ENTRY; while
RUN was 1 they are discarded (R324). -/
def execSequencerRun (n : Nat) (v : U64) (s : State) : Host.Outcome State Fault Refusal :=
  let s0 := s.wr (CEL_SEQ_CTL.LOAD_EN n) (bits v.toNat 2 1)
  if 64 ≤ n || !populated s n then .next s
  else if s.on (CEL_SEQ_CTL.RUN n) then .next s0
  else
    let s := s0.wr (CEL_SEQ_CTL.TRAP_VEC n) (bits v.toNat 18 14) |>.wr (CEL_SEQ_CTL.ENTRY n) (bits v.toNat 4 14)
      |>.wr (CEL_SEQ_CTL.LEVEL n) (bits v.toNat 3 1) |>.set1 (CEL_SEQ_CTL.RUN n)
    .next (s.modSeq n fun q => { q with pc := bits v.toNat 4 14, state := 1, wait := none })

/-- A write to CEL_SEQ_CTL with RUN = 0: the sequencer halts at the instruction boundary (STATE 0x5); while RUN was already 0 the other
fields take the written values (R324). -/
def execSequencerHalt (n : Nat) (v : U64) (s : State) : Host.Outcome State Fault Refusal :=
  let s0 := s.wr (CEL_SEQ_CTL.LOAD_EN n) (bits v.toNat 2 1)
  if 64 ≤ n || !populated s n then .next s
  else if s.on (CEL_SEQ_CTL.RUN n) then
    .next ((s0.clr1 (CEL_SEQ_CTL.RUN n)).modSeq n fun q => { q with state := 5, wait := none })
  else
    .next (s0.wr (CEL_SEQ_CTL.TRAP_VEC n) (bits v.toNat 18 14) |>.wr (CEL_SEQ_CTL.ENTRY n) (bits v.toNat 4 14)
      |>.wr (CEL_SEQ_CTL.LEVEL n) (bits v.toNat 3 1))

/-- RESTART from a halt (R319): g1 to g31, T, the return stack and IN_TRAP clear and the program starts at ENTRY; the ring and the event
queue are kept. A sequencer that is not halted restarts nothing. -/
def execSequencerRestart (n : Nat) (s : State) : Host.Outcome State Fault Refusal :=
  .next (if n < 64 && (s.seq n).state = 4 then
      s.modSeq n fun q => { q with g := [], t := false, rstack := [], inTrap := false, wait := none, limitPend := [],
                                   pc := s.rd (CEL_SEQ_CTL.ENTRY n), state := 1 }
    else s)

/-- CEL_SEQ_LOAD_DATA: 8 bytes at LOAD_ADDR, which advances by 8; discarded unless LOAD_EN = 1 and RUN = 0 (Table 8-16). -/
def execSeqLoadData (n : Nat) (v : U64) (s : State) : Host.Outcome State Fault Refusal :=
  if n < 64 && s.on (CEL_SEQ_CTL.LOAD_EN n) && !s.on (CEL_SEQ_CTL.RUN n) then
    let a := 8 * s.rd (CEL_SEQ_LOAD_ADDR.ADDR n)
    .next ((localWrite s n a 8 v.toNat).wr (CEL_SEQ_LOAD_ADDR.ADDR n) (a / 8 + 1))
  else .next s

/-- CEL_SEQ_MAIL: raised as MAIL; a full queue discards it and sets MAIL_LOST (R306). -/
def execSeqMail (n : Nat) (v : U64) (s : State) : Host.Outcome State Fault Refusal :=
  if 64 ≤ n || !populated s n then .next s
  else if 64 ≤ (s.seq n).evq.length then .next (s.modSeq n fun q => { q with mailLost := true })
  else .next (raise s n (evWord 0x09 0 0xFF 0 v.toNat))

/-- STD_WDOG_KICK.KICK restarts the watchdog count (R320). -/
def execWatchdogKick (v : U64) (s : State) : Host.Outcome State Fault Refusal :=
  .next (if v.toNat % 2 = 1 then s.clr1 STD_SUP_STATUS.WDOG_WARN else s)

end Sys2Proof.Machine
end

