-- ==== Sys2Proof/Machine/StairRows.lean ====
section
/-!
DEFINITION. The Stair (chapter 16): joining, requests and their data at the worker, answers at the manager, time, events, coordinated activation,
fencing and loss.
-/
namespace Sys2Proof.Machine

/-- A Stair frame of a type is taken whole on a Stair port by a device of the role. -/
def onStair (s : State) (n : Nat) (h : FrameHdr) (typ : Nat) (role : State → Bool) (f : State → State) : State :=
  onFrame s n h fun s => if portMode s n = 2 && h.typ = typ && role s then f s else s

/-- The worker at the other end of a manager's port. -/
def workerAt (s : State) (n : Nat) : Nat := s.rd (STA_LINK.WORKER n)

/-- A frame from a worker has come: LAST_SEEN, to the millisecond; operating time is held in seconds, the rest is free. -/
def seen (s : State) (n : Nat) : State :=
  (s.modWorker (workerAt s n) fun x => { x with lastSeen := s.pwr.opSec * 1000 + Config.freeNat s.free % 1000 }).tick

/-- The requests to a worker that have not gone out end with Worker Fenced (R591). -/
def endUnsent (s : State) (w : Nat) : State :=
  s.each (s.sta.reqs.filter fun r => r.w == w && r.sent.isEmpty && !r.lost && !isBarrier r) fun s r =>
    let s := endReq s r 7 0xC3
    match r.req.kind with
    | 1 | 8 => readerCheck s r.req.ingest
    | _ => settleCheck s

/-- A worker is fenced with a reason. (DEDUCED: log entry 115.) -/
def fence (s : State) (w reason : Nat) : State := endUnsent (setWorker s w 3 reason) w

/-! ## Coordinated activation (R598, Table 16-9) -/

/-- The workers that take part. -/
def actWorkers (s : State) : List Nat := configuredWorkers s

/-- The activation ends: its command completes. -/
def actEnd (s : State) (ok : Bool) : State :=
  match s.sta.act with
  | none => s
  | some a => finish (s.modSta fun x => { x with act := none }) a.ingest (if ok then 0 else 7) (if ok then 0 else 0xC3)

def tellWorker (s : State) (w typ : Nat) (m : StairMsg) : State :=
  match linksOf s w with
  | n :: _ => stairTx s n typ 0 0 true m
  | [] => s

/-- Step 5: every worker is active and runs the manager's image. -/
def actCheck (s : State) : State :=
  match s.sta.act with
  | none => s
  | some a =>
    if a.step = 3 && (actWorkers s).all fun w => workerActive s w && (s.worker w).image == (runningImage s).version then
      actEnd (s.each (actWorkers s) fun s w => tellWorker s w 0x17 (.act .confirm)) true
    else s

/-- Step 3: every worker has written the image; each is told to activate it, and must join again. -/
def actGo (s : State) (a : StairAct) : State :=
  let s := s.modSta fun x => { x with act := some { a with step := 3, at_ := s.pwr.opSec } }
  s.each (actWorkers s) fun s w =>
    let s := tellWorker s w 0x17 (.act .activate)
    setWorker s w 1 0

/-- STAIR_CONTROL_ACTIVATE: every configured worker active, or fenced with reason 0x1 to 0x4; none on Stair 1.0. -/
def stairActivateRow (s : State) (n : Nat) : State :=
  let ready (w : Nat) : Bool := workerActive s w || ((s.worker w).st == 3 && decide (1 ≤ (s.worker w).fence ∧ (s.worker w).fence ≤ 4))
  if s.sta.act.isSome then finish s n 0 0x0C
  else if !(configuredWorkers s).all ready then finish s n 7 0xC3
  else if (configuredWorkers s).any fun w => (s.worker w).ver == 0x10 then finish s n 0 0x0C
  else
    let s := (s.modCtx n fun c => { c with st := .running }).modSta fun x => { x with act := some { ingest := n } }
    let s := s.each (actWorkers s) fun s w => tellWorker s w 0x17 (.act (.leaves (runningImage s).version (slotLeaves s s.clo.running)))
    if (actWorkers s).isEmpty then actEnd s true else s

/-! ## Stair Control (R164, R592) -/

/-- A Stair Control command of an action, in its order of checks: the role, then the Stair table. -/
def controlRow (s : State) (n action : Nat) (f : Nat → State) : State :=
  bySup s n fun c => match c.cmd with
    | .stairControl a w =>
      if a ≠ action then s
      else if !isManager s then finish s n 0 0x0C
      else if !configured s w then finish s n 0 2
      else f w
    | _ => s

def execStairControlFence (n : Nat) (s : State) : Host.Outcome State Fault Refusal :=
  .next (controlRow s n 1 fun w => finishOk (if workerActive s w then fence s w 7 else s) n)

/-- Every unit of a worker's share of a namespace is lost with cause 0x5. (DEDUCED: log entry 117.) -/
def loseShare (s : State) (w ns : Nat) : State :=
  s.each (List.range (((nspace s ns).map fun x => x.extents).getD 0)) fun s e =>
    if (shareOf s e).1 = w then loseAt s ns (256 * e) 256 else s

/-- A worker's share is brought to the manager's state, one namespace at a time (R592). What the worker holds is in no frame: which case each
namespace is in is a free value: 0 the same, 1 lacking at the worker, 2 an older key only, 3 any other difference. With FENCE_REASON 0x6 only
keys differ. -/
def alignShare (s : State) (n w : Nat) : State :=
  let ask (s : State) (q : SReq) : State := stairAsk s { w := w, req := { q with kind := 7, ingest := n, sub := nextSub s n } }
  let keysOnly := (s.worker w).fence == 6
  let s := s.each (List.range 128) fun s i =>
    let ns := i + 1
    let case_ := Config.freeNat s.free % 4
    let s := s.tick
    match nspace s ns with
    | none => if case_ = 3 && !keysOnly then ask s { nsid := ns, op := 2 } else s
    | some x =>
      let q : SReq := { nsid := ns, fmt := x.fmt, gen := x.gen, size := shareExtents s w x.extents }
      if case_ = 0 then s
      else if keysOnly || case_ = 2 then ask s { q with op := 3 }
      else if case_ = 1 then loseShare (ask s { q with op := 1 }) w ns
      else loseShare (ask (ask s { q with op := 2 }) { q with op := 1 }) w ns
  s

def execStairControlReadmit (n : Nat) (s : State) : Host.Outcome State Fault Refusal :=
  .next (controlRow s n 2 fun w =>
    let x := s.worker w
    if x.st = 2 then finishOk s n
    else if x.st ≠ 3 || x.joined.isEmpty then finish s n 7 0xC3
    else
      let now := fenceReason s w x.rec_
      if now = 0 then finishOk (stairPump (setWorker s w 2 0) w) n
      else if 1 ≤ now && now ≤ 4 then finish (setWorker s w 3 (if x.fence = 7 then now else x.fence)) n 7 0xC3
      else
        let s := s.modWorker w fun y => { y with fence := now }
        let s := alignShare (setWorker s w 2 now) n w
        let s := s.modWorker w fun y => { y with fence := 0 }
        if waitsWorkers s n then s.modCtx n fun c => { c with st := .running } else finishOk s n)

def execStairControlActivate (n : Nat) (s : State) : Host.Outcome State Fault Refusal :=
  .next (controlRow s n 3 fun _ => stairActivateRow s n)

/-! ## Joining (R578, R587 to R590, R594) -/

/-- The record of a link that is not used, or of a disagreement (Table 15-4). -/
def noteJoin (s : State) (w st why : Nat) : State := post s 0x00B0 3 0xD 0xFF w st why

/-- SJOIN at a worker: it takes the ID of the first link to join; a link with another ID or manager is not used. It answers with the manager last
served while it holds a namespace, and the lower version; a join from that manager ends MGR_LOST. -/
def execSjoin (n : Nat) (h : FrameHdr) (r : JoinRec) (s : State) : Host.Outcome State Fault Refusal :=
  .next (onStair s n h 0x10 isWorker fun s =>
    if !s.on STA_CTL.JOIN_EN || s.hall.activating.isSome then s
    else
      let first := s.sta.joined.isEmpty
      if !first && (r.worker ≠ s.sta.selfId || r.epoch ≠ s.sta.epoch && r.manager ≠ s.sta.mgrId) then noteJoin s r.worker 0 0
      else
        let holds := !s.nvm.spaces.isEmpty
        let served := !holds || r.manager = s.sta.mgrId
        let ver := min r.ver 0x20
        let s := s.modSta fun x => { x with
          selfId := r.worker, ver := ver, mgrId := if served then r.manager else x.mgrId, epoch := r.epoch,
          share := if holds then x.share else r.share, weight := if holds then x.weight else r.weight, seqLen := if holds then x.seqLen else r.seqLen,
          joined := if x.joined.contains n then x.joined else n :: x.joined, mgrLost := x.mgrLost && !served }
        stairTx s n 0x11 0 0 true (.join (workerJoin s n ver r.link)))

/-- SJOIN_RSP at the manager: below 1.0 the worker stays absent; the link is joined, and a worker that was absent, joining or lost is compared
(Table 16-7). A fenced worker stays fenced. No frame carries a worker's serial: the low bits of its
Provisioned ID are a free value (R579). -/
def execSjoinRsp (n : Nat) (h : FrameHdr) (r : JoinRec) (s : State) : Host.Outcome State Fault Refusal :=
  .next (onStair s n h 0x11 isManager fun s =>
    let w := workerAt s n
    if r.ver < 0x10 || !configured s w then s
    else
      let s := seen s n
      let gb := if r.geom = (runningImage s).geomClass then (runningImage s).dieGb else Config.freeNat s.free
      let id := provisionedId 0xF (Config.freeNat (s.free + 1))
      let s := s.tick.tick.modWorker w fun x => { x with
        ver := r.ver, image := r.image, dies := r.dies, rawGb := r.dies * gb, rec_ := r, pid := if x.pid = 0 then id else x.pid,
        joined := if x.joined.contains n then x.joined else n :: x.joined }
      let s := if r.image ≠ (runningImage s).version || r.ver < 0x20 then noteJoin s w (s.worker w).st 0 else s
      let st := (s.worker w).st
      let s := if st = 2 || st = 3 then s
        else
          let s := setWorker s w 1 0
          let why := fenceReason s w r
          if why = 0 then setWorker s w 2 0 else fence s w why
      actCheck (stairPump s w))

/-- SJOIN_RETRY_EXPIRY: the manager sends SJOIN every second to a worker that is lost, joining or absent, on its links not retired. -/
def execSjoinRetryExpiry (w : Nat) (s : State) : Host.Outcome State Fault Refusal :=
  .next (if configured s w && ((s.worker w).st = 4 || (s.worker w).st ≤ 1) then
      s.each ((stairPorts s).filter fun n => workerAt s n == w && stairUp s n) sendJoin
    else s)

/-! ## Requests at the worker (R581 to R585, R594) -/

/-- An SREQ of a kind that the worker executes: the link is joined, the Stair enabled, the manager not lost. Of a request resent whose answer the
done table holds, the data is discarded and the saved answer is sent again (R585); one already under way answers on the new link. -/
def onReq (s : State) (n : Nat) (h : FrameHdr) (r : SReq) (kind : Nat) (f : State → State) : State :=
  onStair s n h 0x12 isWorker fun s =>
    if r.kind ≠ kind || !s.on STA_CTL.ENABLE || s.sta.mgrLost || !s.sta.joined.contains n || 127 < h.tag then s
    else
      let key := stairKey r
      let slot := n * 128 + h.tag
      let s := s.modSta fun x => { x with tags := Tbl.put x.tags slot key, discard := x.discard.filter fun k => k != slot }
      match if r.resend then s.sta.done.find? (fun d => d.1 == key) else none with
      | some (_, d, _) => stairTx (s.modSta fun x => { x with discard := slot :: x.discard }) n 0x14 h.tag 0 true (.done d)
      | none =>
        if (s.ctx key).isSome then s.modCtx key fun c => { c with stair := some (n, h.tag, r) }
        else if Tbl.has s.hall.tails key then s
        else f s

/-- A Stair request carries no protection information checks: the manager has made them (R583). -/
def noPr : PrInfo := PrInfo.mk false false false false

/-- A worker's command context, in the order of the manager's ingest numbers (R583). -/
def putReq (s : State) (n : Nat) (h : FrameHdr) (r : SReq) (cmd : HostCmd) (st : CtxSt) (writes : Bool) : State :=
  let key := stairKey r
  let units := if writes then commandUnits s cmd else []
  let c : Ctx :=
    { port := 0xFF, sq := 0, cid := 0, cmd := cmd, st := st, reads := readSpans s cmd, writes := writeSpans s cmd, wunits := units,
      stair := some (n, h.tag, r) }
  s.modHall fun x => { x with ctxs := Tbl.put x.ctxs key c }

def execSreqRead (n : Nat) (h : FrameHdr) (r : SReq) (s : State) : Host.Outcome State Fault Refusal :=
  .next (onReq s n h r 1 fun s => putReq s n h r (.read r.nsid r.slba r.nlb noPr) .running false)

def execSreqWrite (n : Nat) (h : FrameHdr) (r : SReq) (s : State) : Host.Outcome State Fault Refusal :=
  .next (onReq s n h r 2 fun s => putReq s n h r (.write r.nsid r.slba r.nlb r.fua r.dspec noPr) .reserving true)

def execSreqDeallocate (n : Nat) (h : FrameHdr) (r : SReq) (s : State) : Host.Outcome State Fault Refusal :=
  .next (onReq s n h r 3 fun s => putReq s n h r (.dsm r.nsid true [(r.slba, r.nlb)]) .running true)

def execSreqWriteZeroes (n : Nat) (h : FrameHdr) (r : SReq) (s : State) : Host.Outcome State Fault Refusal :=
  .next (onReq s n h r 4 fun s => putReq s n h r (.writeZeroes r.nsid r.slba r.nlb r.deac r.fua) .reserving true)

def execSreqWriteUncorrectable (n : Nat) (h : FrameHdr) (r : SReq) (s : State) : Host.Outcome State Fault Refusal :=
  .next (onReq s n h r 5 fun s => putReq s n h r (.writeUncorr r.nsid r.slba r.nlb) .reserving true)

def execSreqVerify (n : Nat) (h : FrameHdr) (r : SReq) (s : State) : Host.Outcome State Fault Refusal :=
  .next (onReq s n h r 8 fun s => putReq s n h r (.verify r.nsid r.slba r.nlb noPr) .running false)

/-- A barrier acts once a copy has arrived on every joined link in service (R581). -/
def onBarrier (s : State) (n : Nat) (r : SReq) (f : State → State) : State :=
  let key := stairKey r
  let l := n :: (Tbl.getD s.sta.arrived key []).filter fun m => m != n
  if (s.sta.joined.filter (stairUp s)).all fun m => l.contains m then f (s.modSta fun x => { x with arrived := Tbl.del x.arrived key })
  else s.modSta fun x => { x with arrived := Tbl.put x.arrived key l }

def execSreqFlush (n : Nat) (h : FrameHdr) (r : SReq) (s : State) : Host.Outcome State Fault Refusal :=
  .next (onReq s n h r 6 fun s => onBarrier s n r fun s =>
    let key := stairKey r
    let s := (putReq s n h r (.flush r.nsid) .running false).modCtx key fun c => { c with waitFor := flushScope s key r.nsid }
    settleCheck (closeHostFronts s (if r.nsid = 0xFFFFFFFF then none else some r.nsid)))

/-- A namespace operation on the worker's share: 0x1 create, 0x2 delete, 0x3 format; the key generation is noted (R588). -/
def nsOperation (s : State) (r : SReq) : State :=
  let note (s : State) : State := s.modStg fun g => { g with gens := Tbl.put g.gens r.nsid r.gen }
  match r.op with
  | 1 =>
    let s := s.modNvm fun x => { x with spaces := Tbl.put x.spaces r.nsid { fmt := r.fmt, extents := r.size, gen := r.gen } }
    note (mapChange s { typ := 0x0C, nsid := r.nsid, count := r.size, loc := r.fmt, aux := ceilDiv r.size 16384 })
  | 2 =>
    let s := mapChange (deallocAll s r.nsid) { typ := 0x0D, nsid := r.nsid }
    (s.modNvm fun x => { x with spaces := Tbl.del x.spaces r.nsid }).modStg fun g => { g with gens := Tbl.del g.gens r.nsid }
  | 3 =>
    let s := deallocAll s r.nsid
    let s := s.modNvm fun x => { x with spaces := Tbl.upd x.spaces r.nsid fun y => { y with fmt := r.fmt, gen := r.gen } }
    note (jAppend s { typ := 0x0E, nsid := r.nsid, loc := r.fmt, aux := r.gen })
  | _ => s

def execSreqNamespaceOperation (n : Nat) (h : FrameHdr) (r : SReq) (s : State) : Host.Outcome State Fault Refusal :=
  .next (onReq s n h r 7 fun s => onBarrier s n r fun s => if !journalOn s then s else settleCheck (stairDone (nsOperation s r) n h.tag r 1 0 0 0))

/-! ## Data (R581) -/

/-- A unit of a write's data reaches its slot, or is kept until the slot is granted. -/
def stairWrite (s : State) (n : Nat) (h : FrameHdr) (d : Blk) (md : Meta) : State :=
  let slot := n * 128 + h.tag
  match Tbl.find s.sta.tags slot with
  | none => s
  | some key =>
    if s.sta.discard.contains slot || (s.ctx key).isNone then s
    else
      let s := s.modSta fun x => { x with stash := Tbl.put x.stash (key * 256 + h.cwIndex) (d, md) }
      if ((s.ctx key).any fun c => c.st == .running) then fillStash s key else s

/-- A unit of a read's data joins those that wait for host DMA. A unit of zeros comes with an empty record: it stands for plaintext zeros (R449). -/
def stairRead (s : State) (n : Nat) (h : FrameHdr) (d : Blk) (md : Meta) : State :=
  match s.sta.reqs.find? fun r => r.sent.contains (n, h.tag) && r.req.kind == 1 with
  | none => s
  | some r =>
    match r.units[h.cwIndex]? with
    | none => s
    | some u =>
      let d := if d = 0 && md = 0 then encrypt s r.req.nsid u 0 else d
      if (s.ctx r.req.ingest).any fun c => c.st == .running && Tbl.find c.runits u == some .asked then
        s.modLnd fun l => { l with words := l.words ++ [{ src := n, ingest := r.req.ingest, unit := u, data := d, md := md }] }
      else s

def execSdata (n : Nat) (h : FrameHdr) (d : Blk) (md : Meta) (s : State) : Host.Outcome State Fault Refusal :=
  .next (onStair s n h 0x13 (fun _ => true) fun s =>
    if isWorker s then stairWrite s n h d md else if isManager s then stairRead (seen s n) n h d md else s)

/-! ## Answers at the manager (R582, R584, R586, R591) -/

/-- The slots and the state of an atomic unit that a worker has committed (R584). -/
def workerCommitted (s : State) (r : StairReq) : State :=
  let n := r.req.ingest
  let hit (u : WUnit) : Bool := u.share == r.w && u.ext == r.ext && u.st == .waiting
  let units : List WUnit := match s.ctx n with
    | some c => c.wunits
    | none => ((Tbl.find s.hall.tails n).map fun t => t.units).getD []
  let s := s.each ((units.filter hit).flatMap fun u => Tbl.vals u.slots) freeSlot
  let done (u : WUnit) : WUnit := if hit u then { u with st := .committed, unsettled := true, slots := [] } else u
  let s := (s.modCtx n fun c => { c with wunits := c.wunits.map done }).modHall fun x =>
    { x with tails := Tbl.upd x.tails n fun t => { t with units := t.units.map done } }
  drainCheck (writerDone s n)

/-- SDONE COMMITTED. A read's units that failed take its status; a write's extent is committed when its last piece is. -/
def doneCommitted (s : State) (r : StairReq) (d : SDone) : State :=
  let n := r.req.ingest
  let s := s.modSta fun x => { x with reqs := x.reqs.erase r }
  let ok := decide (d.sct = 0 ∧ d.sc = 0)
  match r.req.kind with
  | 1 =>
    if ok then s
    else readerCheck (s.each r.units fun s u =>
      if (s.ctx n).any fun c => Tbl.find c.runits u == some .asked then setRunit s n u (.failed d.sct d.sc) else s) n
  | 8 => readerCheck (s.each r.units fun s u => setRunit s n u (if ok then .done else .failed d.sct d.sc)) n
  | 2 | 3 | 4 | 5 =>
    if !ok then settleCheck (endReq s r d.sct d.sc)
    else
      let first := (r.units.head?).getD (256 * r.ext)
      let count := max 1 r.units.length
      let s := (unlose s r.req.nsid first count).modSta fun x => { x with
        unsettled := x.unsettled ++ [{ w := r.w, ingest := n, sub := r.req.sub, nsid := r.req.nsid, first := first, count := count }] }
      if s.sta.reqs.any fun x => x.w == r.w && x.req.ingest == n && x.ext == r.ext then s else workerCommitted s r
  | _ =>
    let s := if ok then s else finish s n d.sct d.sc
    match s.ctx n with
    | some c => match c.cmd with
      | .stairControl _ _ => if waitsWorkers s n || c.st ≠ .running then settleCheck s else finishOk s n
      | _ => settleCheck s
    | none => settleCheck s

/-- SDONE SETTLED: the write leaves the unsettled list. -/
def doneSettled (s : State) (w : Nat) (d : SDone) : State :=
  let s := s.modSta fun x => { x with unsettled := x.unsettled.filter fun u => !(u.w == w && u.ingest == d.ingest && u.sub == d.sub) }
  if s.sta.unsettled.any fun u => u.w == w && u.ingest == d.ingest then s
  else
    let clear (u : WUnit) : WUnit := if u.share = w then { u with unsettled := false } else u
    settleCheck ((s.modCtx d.ingest fun c => { c with wunits := c.wunits.map clear }).modHall fun x =>
      { x with tails := Tbl.upd x.tails d.ingest fun t => { t with units := t.units.map clear } })

def execSdoneCommitted (n : Nat) (h : FrameHdr) (d : SDone) (s : State) : Host.Outcome State Fault Refusal :=
  .next (onStair s n h 0x14 isManager fun s =>
    let w := workerAt s n
    let s := seen s n
    if d.phase ≠ 1 then s
    else match s.sta.reqs.find? fun r => r.w == w && r.req.ingest == d.ingest && r.req.sub == d.sub with
      | none => s
      | some r => stairPump (doneCommitted s r d) w)

def execSdoneSettled (n : Nat) (h : FrameHdr) (d : SDone) (s : State) : Host.Outcome State Fault Refusal :=
  .next (onStair s n h 0x14 isManager fun s => if d.phase ≠ 2 then seen s n else doneSettled (seen s n) (workerAt s n) d)

/-! ## Time (R593 to R596) -/

/-- The number of a power state. -/
def psNum (p : PwrState) : Nat := match p with
  | .ps0 => 0
  | .ps1 => 1
  | .ps2 => 2
  | .ps3 => 3
  | .ps4 => 4
  | .ps5 => 5
  | .off => 6

/-- STIME_SEND: the manager's time goes to every joined worker on its lowest link in service. It names the state the module is to take. -/
def execStimeSend (s : State) : Host.Outcome State Fault Refusal :=
  .next (if !isManager s then s
    else s.each (configuredWorkers s) fun s w => match linksOf s w with
      | n :: _ => stairTx s n 0x15 0 0 true
          (.time { time := s.pwr.time.toNat, opTime := s.pwr.opSec, pwr := max (psNum s.pwr.st) (requestedState s), delay := Tbl.getD s.sta.delay n 0 })
      | [] => s)

/-- 1 ms in ticks of the time base. -/
def msTicks : Nat := 97656

/-- The trim of a worker's time base: it steps forward when more than 1 ms behind, and otherwise slews; it never steps back (R593). (DESIGN CHOICE: log entry 112.) (DEDUCED: log entry 113.) -/
def trimTime (s : State) (o : Int) : State :=
  if (msTicks : Int) < o then (s.modPwr fun p => { p with time := p.time + BitVec.ofNat 64 o.toNat }).modSta fun x => { x with slew := 0, slewPhase := 0 }
  else s.modSta fun x => { x with slew := o, slewPhase := 0 }

/-- One tick of the time base, slewed by 1 tick in 10,000 (100 ppm), or in 1,000 while more than 1 ms ahead. -/
def timeTick (s : State) : State :=
  if s.sta.slew = 0 then s.modPwr fun p => { p with time := p.time + 1 }
  else
    let every := if s.sta.slew < -(msTicks : Int) then 1000 else 10000
    if s.sta.slewPhase + 1 < every then
      (s.modPwr fun p => { p with time := p.time + 1 }).modSta fun x => { x with slewPhase := x.slewPhase + 1 }
    else if 0 < s.sta.slew then
      (s.modPwr fun p => { p with time := p.time + 2 }).modSta fun x => { x with slew := x.slew - 1, slewPhase := 0 }
    else s.modSta fun x => { x with slew := x.slew + 1, slewPhase := 0 }

/-- STIME at a worker: it answers, trims its time base and follows the power state named; at the manager: the worker's time and idleness. The
round trip is not in the command: the delay measured is a free value. -/
def execStime (n : Nat) (h : FrameHdr) (t : STime) (s : State) : Host.Outcome State Fault Refusal :=
  .next (onStair s n h 0x15 (fun _ => true) fun s =>
    let now : Int := s.pwr.time.toNat
    if isWorker s then
      let s := stairTx s n 0x15 0 0 true (.time { time := s.pwr.time.toNat, opTime := s.pwr.opSec, idle := idleBut s 3, pwr := psNum s.pwr.st })
      (trimTime s ((t.time + t.delay : Nat) - now)).modSta fun x => { x with mgrPwr := t.pwr }
    else if isManager s then
      let w := workerAt s n
      let s := (seen s n).modSta fun x => { x with delay := Tbl.put x.delay n (Config.freeNat s.free) }
      s.tick.modWorker w fun x => { x with idle := t.idle, offset := ((t.time + Tbl.getD s.sta.delay n 0 : Nat) - now) * 1024 / 100 }
    else s)

/-- STIME_LOSS_EXPIRY: 3 s without an answer in PS0 to PS3, the worker is lost; at a worker, the manager (R590, R594). The timers pause in PS4 and
PS5 (R596). -/
def execStimeLossExpiry (w : Nat) (s : State) : Host.Outcome State Fault Refusal :=
  if s.pwr.st = .ps4 || s.pwr.st = .ps5 || s.pwr.st = .off then .next s
  else if isWorker s then .next (if s.sta.joined.isEmpty then s else s.modSta fun x => { x with mgrLost := true, joined := [] })
  else if isManager s && (s.worker w).st ≠ 0 && (s.worker w).st ≠ 4 then .next (workerLost s w)
  else .next s

/-! ## Events, activation frames, deadlines -/

/-- SEVENT: losses of the worker are armed, logged and shown by the manager with the worker's cause; a changed record that disagrees fences
(R590, R591). The worker names logical blocks of its own share. -/
def execSevent (n : Nat) (h : FrameHdr) (e : SEvent) (s : State) : Host.Outcome State Fault Refusal :=
  .next (onStair s n h 0x16 isManager fun s =>
    let w := workerAt s n
    let s := seen s n
    let lose (ns slba nlb cause : Nat) : State :=
      let k := perUnit s ns
      let u0 := slba / k
      let cnt := if nlb = 0 then 0 else (slba + nlb - 1) / k - u0 + 1
      let exts := if cnt = 0 then [] else (List.range ((u0 + cnt - 1) / 256 - u0 / 256 + 1)).map fun i => u0 / 256 + i
      s.each exts fun s x =>
        let lo := max u0 (256 * x)
        let hi := min (u0 + cnt) (256 * (x + 1))
        let g := globalExt s w x * 256 + lo % 256
        loseAt (armWorker s w ns g (hi - lo) cause) ns g (hi - lo)
    match e with
    | .deferred ns slba nlb cause => lose ns slba nlb cause
    | .lost ns slba nlb cause => lose ns slba nlb cause
    | .changed r =>
      let s := s.modWorker w fun x => { x with rec_ := r, image := r.image, dies := r.dies }
      let why := fenceReason s w r
      if workerActive s w && why ≠ 0 then fence s w why else actCheck s)

/-- SACT (R598): at a worker leaves, the order to activate, CONFIRM and ROLLBACK; at the manager the end of step 2. -/
def execSact (n : Nat) (h : FrameHdr) (a : SAct) (s : State) : Host.Outcome State Fault Refusal :=
  .next (onStair s n h 0x17 (fun _ => true) fun s =>
    if isWorker s then
      match a with
      | .leaves v l => startImage (s.modSta fun x => { x with image := l, imageVer := v })
      | .activate => stairActivate s
      | .confirm => if imageConfirmed s || s.clo.running = 0 then s else startConfirm (s.modClo fun c => { c with confirming := true })
      | .rollback => stairRollback s
      | .written _ => s
    else if isManager s then
      let w := workerAt s n
      let s := seen s n
      match a, s.sta.act with
      | .written ok, some x =>
        if x.step ≠ 1 then s
        else if !ok then actEnd s false
        else
          let l := if x.written.contains w then x.written else w :: x.written
          let x := { x with written := l }
          if (actWorkers s).all fun k => l.contains k then actGo s x else s.modSta fun y => { y with act := some x }
      | _, _ => s
    else s)

/-- ACTIVATION_ROLLBACK_EXPIRY: 60 s after step 3 some worker has not agreed. -/
def execActivationRollbackExpiry (s : State) : Host.Outcome State Fault Refusal :=
  .next (match s.sta.act with
    | some a =>
      if a.step = 3 && decide (a.at_ + 60 ≤ s.pwr.opSec) then
        actEnd (s.each ((actWorkers s).filter (workerActive s)) fun s w => tellWorker s w 0x17 (.act .rollback)) false
      else s
    | none => s)

/-- STAIR_RESEND_DEADLINE: 5 s after its link was retired, a write not resent is armed with cause 0x5 and ends with Deferred Write Error (R586). -/
def execStairResendDeadline (w : Nat) (s : State) : Host.Outcome State Fault Refusal :=
  let due := s.sta.reqs.filter fun r => r.w == w && r.lost && decide (r.lostAt + 5 ≤ s.pwr.opSec) && decide (2 ≤ r.req.kind ∧ r.req.kind ≤ 5)
  .next (settleCheck (s.each due fun s r => endReq (armWorker s w r.req.nsid ((r.units.head?).getD 0) (max 1 r.units.length) 5) r 7 0xC0))

/-- DONE_TABLE_EXPIRY: entries older than 10 s go (R585). -/
def execDoneTableExpiry (s : State) : Host.Outcome State Fault Refusal :=
  .next (s.modSta fun x => { x with done := x.done.filter fun d => decide (s.pwr.opSec < d.2.2 + 10) })

/-- FENCE_UNSETTLED_EXPIRY: 10 s after the fence, what is still unsettled is armed (R591). -/
def execFenceUnsettledExpiry (w : Nat) (s : State) : Host.Outcome State Fault Refusal :=
  .next (if (s.worker w).st = 3 && decide ((s.worker w).fencedAt + 10 ≤ s.pwr.opSec) then armUnsettled s w else s)

end Sys2Proof.Machine
end

