-- ==== Sys2Proof/Machine/Strongroom.lean ====
section
/-!
DEFINITION. The commands of the Strongroom (chapter 12): the lock, the key-management engine's operations, tamper, JTAG unlock and SPDM.
-/
namespace Sys2Proof.Machine

/-! ## The lock (R442, R443, R468) -/

/-- Whether a requester's path gives it the identity `own` (R442). -/
def ownerOk (s : State) (own : Nat) : Bool :=
  match own with
  | 1 => !s.on STD_SUP_STATUS.BOOT_DONE
  | 2 => s.on STD_SUP_STATUS.BOOT_DONE
  | 3 => true
  | 4 => isWorker s
  | _ => false

/-- The lock goes to the waiting owner that is first in the order 1, 3, 4, 2, or is free. -/
def grantLock (s : State) : State :=
  let w := s.rd STG_LOCK.WAITING
  match [1, 3, 4, 2].find? fun k => bitAt w (k - 1) with
  | some k => (s.wr STG_LOCK.OWNER k).wr STG_LOCK.WAITING (putBits w (k - 1) 1 0)
  | none => s.wr STG_LOCK.OWNER 0

def lockOwner (s : State) : Nat := s.rd STG_LOCK.OWNER

def execStgLockAcquire (own : Nat) (s : State) : Host.Outcome State Fault Refusal :=
  .next (s.when (ownerOk s own && lockOwner s != own) fun s =>
    let s := s.wr STG_LOCK.WAITING (putBits (s.rd STG_LOCK.WAITING) (own - 1) 1 1)
    if lockOwner s = 0 then grantLock s else s)

/-- RELEASE by another requester than the owner is ignored (R468). -/
def execStgLockRelease (own : Nat) (s : State) : Host.Outcome State Fault Refusal :=
  .next (s.when (decide (own ≠ 0) && lockOwner s == own) grantLock)

/-- The lock is taken back (R443): the operation in progress is aborted, its outputs are zeros. -/
def execKmeLockTimeout (s : State) : Host.Outcome State Fault Refusal :=
  .next (s.when (lockOwner s != 0) fun s =>
    let own := lockOwner s
    let s := match s.stg.op with
      | some o =>
        let s := if o.op = 1 || o.op = 2 then failSlot s o.slot o.bind else s
        ((s.modStg fun g => { g with op := none }).wr STG_KME_STATUS.OP o.op).wr STG_KME_STATUS.RESULT 7
      | none => s
    let op := s.rd STG_KME_STATUS.OP
    let s := grantLock ((s.clr1 STG_STATUS.BUSY).set1 STG_STATUS.LOCK_TIMEOUT)
    post s 0x0090 3 8 0xFF own op)

/-! ## Operations (R444, Table 12-4) -/

/-- An operation ends at once with a result. -/
def kmeResult (s : State) (op r : Nat) : State := (s.wr STG_KME_STATUS.OP op).wr STG_KME_STATUS.RESULT r

/-- Starts an operation of the lock's owner: DENIED where the table does not grant it, TAMPERED after an alarm; TESTMODE refuses every
operation (R618). A request of another requester than the owner, or while an operation runs, is not taken (R443). -/
def kmeStart (s : State) (o : KmeOp) (granted : Bool) : State :=
  if !(ownerOk s o.owner) || lockOwner s != o.owner || s.stg.op.isSome then s
  else if s.on STG_STATUS.TAMPERED then kmeResult s o.op 5
  else if !granted || s.pwr.straps.testmode then kmeResult s o.op 2
  else (s.modStg fun g => { g with op := some o }).set1 STG_STATUS.BUSY

/-- Whether a namespace's global range has locking enabled. -/
def nsLocked (s : State) (ns : Nat) : Bool := (s.range (globalRange ns)).enabled

/-- A slot that holds a key keeps its binding until it is zeroised (R444). -/
def slotFree (s : State) (k : Nat) (b : Binding) : Bool := decide (k < 256) && ((s.kslot k).st != 1 || { (s.kslot k).bind with auth := b.auth } == b)

def execUnwrapLoad (own kind nsid range auth slot cred : Nat) (s : State) : Host.Outcome State Fault Refusal :=
  let b : Binding := { kind := kind, nsid := nsid, range := range, auth := auth }
  .next (kmeStart s { op := 1, owner := own, bind := b, slot := slot, cred := cred }
    (slotFree s slot b && (own == 3 || ((own == 1 || own == 2) && kind == 2 && auth == 0 && !(nsLocked s nsid)))))

def execGenerate (own kind nsid range auth slot cred : Nat) (s : State) : Host.Outcome State Fault Refusal :=
  let b : Binding := { kind := kind, nsid := nsid, range := range, auth := auth }
  .next (kmeStart s { op := 2, owner := own, bind := b, slot := slot, cred := cred }
    (slotFree s slot b && (own == 3 || (own == 2 && kind == 2 && !(nsLocked s nsid)))))

def execRewrap (own nsid range auth cred newAuth newCred : Nat) (s : State) : Host.Outcome State Fault Refusal :=
  .next (kmeStart s { op := 3, owner := own, bind := { kind := keyKind range, nsid := nsid, range := range, auth := auth }, cred := cred, newAuth := newAuth,
                      newCred := newCred } (own == 3))

def execZeroise (own slot : Nat) (s : State) : Host.Outcome State Fault Refusal :=
  .next (kmeStart s { op := 4, owner := own, slot := slot } (own == 3 || (own == 2 && (s.kslot slot).bind.kind == 2)))

def execEraseStale (own : Nat) (s : State) : Host.Outcome State Fault Refusal :=
  .next (kmeStart s { op := 5, owner := own } (decide (1 ≤ own ∧ own ≤ 3)))

/-- Owner 1 at a boot that finds no valid seed blob; owner 2 for a Sanitize crypto erase. -/
def execSeedReplace (own : Nat) (s : State) : Host.Outcome State Fault Refusal :=
  .next (kmeStart s { op := 6, owner := own } ((own == 1 && !s.on STG_STATUS.SEED_OK) || (own == 2 && s.nvm.sanitize == some 4)))

def execVerifyImage (own loc : Nat) (s : State) : Host.Outcome State Fault Refusal :=
  .next (kmeStart s { op := 7, owner := own, arg := loc } (own == 1 || own == 2))

/-- SIGN with key 0 DevID (owner 3), 1 alias (owner 3), or the alias certificate by owner 1 with the DevID key. -/
def execSign (own digest key : Nat) (s : State) : Host.Outcome State Fault Refusal :=
  .next (kmeStart s { op := 8, owner := own, digest := digest, arg := key } ((own == 1 && key == 0) || own == 3))

def execGenNote (own nsid gen : Nat) (s : State) : Host.Outcome State Fault Refusal :=
  .next (kmeStart s { op := 9, owner := own, bind := { kind := 2, nsid := nsid }, arg := gen } (own == 4))

/-- The next generation of a binding: the recorded one where no blob of it stands, else one more (R441). (DEDUCED: log entry 43.) -/
def nextGen (s : State) (b : Binding) : Nat := if (currentBlob s b).isSome then recordedGen s b + 1 else recordedGen s b

/-- What an operation does when it ends: the state and its result. (DEDUCED: log entry 42.) -/
def kmeDo (s : State) (o : KmeOp) (sigOk : Bool) : State × Nat :=
  match o.op with
  | 1 => unwrapLoad s o.bind o.slot o.cred
  | 2 => generateKey s o.bind (nextGen s o.bind) o.slot [(o.bind.auth, o.cred)]
  | 3 => rewrap s o.bind o.cred o.newAuth o.newCred
  | 4 => (s.modKslot o.slot fun _ => {}, 0)
  | 5 => (eraseStale s, 0)
  | 6 => seedReplace s
  | 7 => (s, if sigOk then 0 else 8)
  | 8 => (s.emit (.mgmtReply (Config.sign o.arg o.digest)), 0)
  | 9 => (s.modStg fun g => { g with gens := Tbl.put g.gens o.bind.nsid o.arg }, 0)
  | _ => (s, 2)

/-- The operation in progress ends (R443, R469). A slot that leaves VALID ends the commands that use it (R450). -/
def execKmeOperationDone (sigOk : Bool) (s : State) : Host.Outcome State Fault Refusal :=
  match s.stg.op with
  | none => .next s
  | some o =>
    let (t, r) := kmeDo s o sigOk
    let t := kmeResult (t.clr1 STG_STATUS.BUSY) o.op r
    let t := keysCheck (t.modStg fun g => { g with op := none })
    let t := if o.op = 1 && (r = 1 || r = 3) && o.bind.kind = 2 then post t 0x0091 4 8 0xFF o.bind.nsid else t
    if (s.kslot o.slot).st = 1 && (t.kslot o.slot).st ≠ 1 && (o.op = 1 || o.op = 4) then
      .next (keysGone t fun ns e => slotAt s ns e == some o.slot)
    else .next t

/-- The entropy source's health tests fail: every GENERATE is refused until power-on reset (R433). -/
def execEntropyHealthFail (s : State) : Host.Outcome State Fault Refusal := .next (s.set1 STG_STATUS.NO_ENTROPY)

/-! ## Tamper and JTAG unlock (R463 to R466) -/

def execTamperTrip (bit : Nat) (s : State) : Host.Outcome State Fault Refusal :=
  .next (s.when (decide (bit < 6) && !s.pwr.por) fun s => tamper s bit)

/-- A JTAG unlock attempt with a token over a challenge that the KME draws (R466): success unlocks and trips DEBUG; the third failure since
power-on reset trips DEBUG_FAIL. -/
def execJtagUnlock (ok : Bool) (s : State) : Host.Outcome State Fault Refusal :=
  let s := drbg (s.modStg fun g => { g with challenge := Config.drbgNat s.free }).tick
  let keySet := s.stg.fuses.authors.any fun e => !(bitAt s.stg.fuses.revoked e.1)
  if ok && keySet then
    .next (tamper (s.modStg fun g => { g with jtagUnlocked := true }) 4)
  else
    let s := s.modStg fun g => { g with jtagFails := g.jtagFails + 1 }
    .next (if s.stg.jtagFails = 3 then tamper s 5 else s)

/-! ## SPDM (R458, R459) -/

def State.modSpdm (s : State) (ep : Nat) (f : SpdmSt → SpdmSt) : State :=
  s.modStg fun g => { g with spdm := Tbl.modD g.spdm ep {} f }

def spdmSt (s : State) (ep : Nat) : SpdmSt := Tbl.getD s.stg.spdm ep {}

/-- An SPDM response leaves by the endpoint that asked (R458). (DEDUCED: log entry 118.) -/
def spdmAnswer (s : State) (ep : Nat) (r : SpdmRsp) : State := s.emit (.spdm ep r)

/-- After a tamper alarm only GET_VERSION and GET_CAPABILITIES are answered (R464). -/
def spdmOpen (s : State) : Bool := !s.on STG_STATUS.TAMPERED

def execGetVersion (ep : Nat) (s : State) : Host.Outcome State Fault Refusal :=
  .next (spdmAnswer (s.modSpdm ep fun _ => {}) ep (.version [0x11, 0x12, 0x13]))

/-- The highest version both ends support is used. -/
def execGetCapabilities (ep ver : Nat) (s : State) : Host.Outcome State Fault Refusal :=
  if ver < 0x11 then .next (spdmAnswer s ep .errUnsupported)
  else
    let v := min ver 0x13
    .next (spdmAnswer (s.modSpdm ep fun x => { x with ver := v, caps := true }) ep (.capabilities v))

def execNegotiateAlgorithms (ep : Nat) (p384 sha384 : Bool) (s : State) : Host.Outcome State Fault Refusal :=
  .next (s.when (spdmOpen s) fun s =>
    if !(spdmSt s ep).caps then spdmAnswer s ep .errUnexpected
    else if p384 && sha384 then spdmAnswer (s.modSpdm ep fun x => { x with algs := true }) ep .algorithms
    else spdmAnswer s ep .errUnsupported)

/-- Digests of the two certificate chains (Table 12-7). -/
def chainDigest (slot : Nat) : Digest := Config.sha384 [Config.certificate slot 0 0xFFFF]

/-- A request that needs the agreed algorithms. -/
def spdmAfter (s : State) (ep : Nat) (f : State → State) : State :=
  s.when (spdmOpen s) fun s => if !(spdmSt s ep).algs then spdmAnswer s ep .errUnexpected else f s

def execGetDigests (ep : Nat) (s : State) : Host.Outcome State Fault Refusal :=
  .next (spdmAfter s ep fun s => spdmAnswer s ep (.digests [chainDigest 0, chainDigest 1]))

/-- Slots 0 and 1 hold chains. -/
def execGetCertificate (ep slot off len : Nat) (s : State) : Host.Outcome State Fault Refusal :=
  .next (spdmAfter s ep fun s => if 1 < slot then spdmAnswer s ep .errUnsupported else spdmAnswer s ep (.certificate slot off len))

/-- Slot 0 is signed with the DevID key, slot 1 with the alias key, which exists only where an image was started. -/
def execChallenge (ep slot nonce : Nat) (s : State) : Host.Outcome State Fault Refusal :=
  .next (spdmAfter s ep fun s =>
    if (slot = 0 && s.stg.devId) || (slot = 1 && s.stg.alias_) then spdmAnswer s ep (.challengeAuth slot nonce) else spdmAnswer s ep .errUnsupported)

/-- The measurement blocks of Table 12-8. -/
def measurements (s : State) : List (Nat × Nat) :=
  [(1, s.stg.mRom.toNat), (2, s.stg.mImage.toNat), (3, s.stg.mSvn + 256 * s.stg.fuses.svn), (4, s.stg.mIdent.toNat),
   (5, s.stg.mSet + 256 * s.stg.fuses.revoked), (6, s.rd STG_TAMPER.BITS), (7, b2n s.stg.jtagUnlocked)]

/-- Index 0 asks for the number of blocks, 0xFF for all of them. -/
def execGetMeasurements (ep index _nonce : Nat) (sign : Bool) (s : State) : Host.Outcome State Fault Refusal :=
  .next (spdmAfter s ep fun s =>
    let l := if index = 0 then [(0, 7)] else if index = 0xFF then measurements s else (measurements s).filter fun m => m.1 == index
    if l.isEmpty then spdmAnswer s ep .errUnsupported
    else
      spdmAnswer (s.modSpdm ep fun x => { x with chunks := l.map Prod.snd }) ep (.measurements l sign))

/-- CHUNK_GET, from SPDM 1.2 (Table 12-7): the next part of a large response. -/
def execChunkGet (ep seq : Nat) (s : State) : Host.Outcome State Fault Refusal :=
  .next (spdmAfter s ep fun s =>
    if (spdmSt s ep).ver < 0x12 then spdmAnswer s ep .errUnsupported
    else match (spdmSt s ep).chunks[seq]? with
      | some v => spdmAnswer s ep (.chunk seq (decide (seq + 1 = (spdmSt s ep).chunks.length)) v)
      | none => spdmAnswer s ep .errUnexpected)

end Sys2Proof.Machine
end

