-- ==== Sys2Proof/Machine/HouseRead.lean ====
section
/-!
DEFINITION. Reading the house address space (R7 to R12, R58): the value of every register. A field that is written or latched has its home in
`regs`; a field that shows another part of the state is computed here from it, one function for each register.
-/
namespace Sys2Proof.Machine

/-! ## Words -/

/-- Fields as (place, width, value), put together. -/
def word (l : List (Nat × Nat × Nat)) : Nat := l.foldl (fun a f => a + f.2.2 % 2 ^ f.2.1 * 2 ^ f.1) 0

/-- Fields as (bytes, value) in layout order, little-endian (R14). -/
def packBytes : List (Nat × Nat) → Nat
  | [] => 0
  | (n, v) :: r => v % 2 ^ (8 * n) + packBytes r * 2 ^ (8 * n)

/-- The mask of the entries of a list of conditions, entry `i` in bit `i`. -/
def maskIf (n : Nat) (p : Nat → Bool) : Nat := maskOf ((List.range n).filter p)

/-! ## Porch (Tables 2-5 to 2-10) -/

def pchIdentity (s : State) : Nat := word [(16, 16, if s.porch.recovery then 0x06FF else 0x0640), (0, 1, b2n s.porch.recovery)]

def pchLinkStatus (s : State) (p : Nat) : Nat :=
  let x := s.hport p
  if !(portsInUse s).contains p then 0
  else word [(12, 4, if x.up then x.rate else 0), (7, 5, if x.up then x.width else 0), (6, 1, b2n (x.up && x.flit)), (4, 2, if x.up then x.lstate else 3),
             (2, 2, if x.d3 then 3 else 0), (1, 1, b2n x.bme), (0, 1, b2n x.up)]

def pchDmaStatus (s : State) (c : Nat) : Nat :=
  let x := s.chan c
  if !twoPorts s && decide (64 ≤ c) then 0
  else word [(16, 9, x.tags.length), (8, 8, x.haltCount), (4, 2, if x.state = 2 then 2 else b2n (!x.tags.isEmpty)), (0, 4, x.cause)]

/-! ## Hall (Table 3-14) -/

def halStatus (s : State) : Nat :=
  word [(28, 18, freeCtx s), (10, 18, s.hall.ctxs.length), (3, 1, b2n (s.hall.ctxs.any fun e => e.2.st == .reserving)), (2, 1, b2n (hallDrained s)),
        (1, 1, b2n ((portsInUse s).any (portFetches s))), (0, 1, b2n (decide (freeCtx s ≤ 256)))]

/-! ## Pantry (Tables 5-18 to 5-25) -/

/-- The bits of PAN_STATUS that show the map: PARKED, EXHAUSTED, CONSOLIDATE. CLEANING is over when the write that began it ends. -/
def panStatus (s : State) (stored : Nat) : Nat :=
  stored + word [(7, 1, b2n (s.pan.img.ext.any fun e => e.2.isParked)),
                 (6, 1, b2n (decide (0 < groupsUsable s ∧ groupsUsable s ≤ groupsUsed s))), (5, 1, b2n s.pan.consolidating)]

def panCkptStatus (s : State) : Nat :=
  word [(32, 32, s.pan.flash.lapDone), (16, 16, match s.pan.lap with
    | some l => l.2.1
    | none => 0), (0, 16, (ckptSegs s).length)]

/-! ## Larder (Tables 6-9 to 6-17) -/

/-- LDR_STATUS over its W1C bits. (DESIGN CHOICE: log entry 34.) -/
def ldrStatus (s : State) (stored : Nat) : Nat :=
  let w1c := bits stored 7 1 * 2 ^ 7 + bits stored 6 1 * 2 ^ 6
  w1c + word [(16, 1, b2n (!s.ldr.settling.isEmpty)), (8, 8, banksRetired s), (5, 1, b2n (!s.ldr.hot.isEmpty || !s.ldr.droop.isEmpty || s.pwr.frozen)),
              (4, 1, b2n (decide (524288 ≤ s.pan.overlay.length))), (3, 1, b2n (decide (parityMax s ≤ parityUsed s))), (2, 1, b2n (larderEmpty s)),
              (1, 1, b2n (dumpReady s)), (0, 1, b2n s.ldr.wt)]

def ldrFront (s : State) (f : Nat) : Nat :=
  match Tbl.find s.ldr.fronts f with
  | none => 0
  | some x =>
    match x.suite with
    | none => 0
    | some k => word [(44, 20, k), (24, 20, x.row), (18, 6, x.buf.length), (13, 5, x.left.head?.getD 0), (10, 3, x.rows.length), (7, 3, x.stream),
                      (3, 4, x.wait), (0, 1, 1)]

/-! ## Cellar and sequencers (Tables 7-15 to 7-24, 8-16 to 8-19) -/

def celPortStatus (s : State) (n stored : Nat) : Nat :=
  putBits stored 26 2 (min 3 ((s.port n).retrains.countP fun t => decide (s.pwr.opSec < t + 600)))

def celDieMap (s : State) (n stored : Nat) : Nat :=
  putBits stored 16 16 (maskIf 16 fun d => Tbl.has (s.port n).running d || Tbl.has (s.port n).suspended d)

def celDieQueue (s : State) (n : Nat) : Nat := word ((List.range 16).map fun d => (4 * d, 4, (Tbl.getD (s.port n).dieQ d []).length))

def celSeqStatus (s : State) (n : Nat) : Nat :=
  let q := s.seq n
  word [(32, 14, q.pc), (16, 7, q.evq.length), (8, 6, (List.range 32).countP fun i => descByte s n i 0 1 != 0), (5, 1, b2n q.mailLost),
        (4, 1, b2n q.inTrap), (0, 3, q.state)]

/-- CEL_SEQ_TRAP[n]; for the supervisor EPC bits 15:2 stand in bits 29:16 (Table 8-19). -/
def celSeqTrap (s : State) (n : Nat) : Nat :=
  let q := s.seq n
  word [(32, 32, q.badaddr), (16, 14, if n = 64 then q.epc / 4 else q.epc), (8, 8, q.trapCount), (0, 8, q.cause)]

/-! ## Laundry (Tables 9-10 to 9-18) -/

/-- LND_STATUS (R358, Table 9-12). (DEDUCED: log entry 13.) -/
def lndStatus (s : State) : Nat :=
  let run := s.lnd.jobs.countP fun j => j.running
  word [(32, 8, min 255 (s.lnd.jobs.length - run)), (24, 8, run), (16, 5, run), (0, 16, s.lnd.stripes.length)]

def lndPortStatus (s : State) (n : Nat) : Nat :=
  word [(32, 10, Tbl.getD s.lnd.pace (2 * n + 1) 0), (12, 10, Tbl.getD s.lnd.pace (2 * n) 0), (6, 6, portJobs s n),
        (0, 6, (List.range 32).countP fun i => decide (0 < (s.climb n i).row))]

/-- The set that LND_LVL_IDX names. -/
def lvlSet (s : State) : Nat := trackedSet s (s.rd LND_LVL_IDX.PORT) (s.rd LND_LVL_IDX.DIE) (s.rd LND_LVL_IDX.GROUP)

/-- A word of port `n`'s window of level sets, at offset `o` (Table 9-10). -/
def descLevels (s : State) (n o : Nat) : Nat :=
  bits (Tbl.getD s.lnd.descLvl ((32 * n + o / 0x70) * 8 + o % 0x70 / 0x10) 0) (64 * (o % 0x10 / 8)) 64

/-! ## Scullery (Tables 10-2, 10-13 to 10-21) -/

/-- SCU_STATUS (R401, Table 10-15). -/
def scuStatus (s : State) : Nat :=
  let waits (r : Nat) : Bool := s.ldr.fronts.any fun e => decide (e.2.stream ≤ 1) && e.2.suite.isNone && !e.2.buf.isEmpty && e.2.rg == r
  word [(40, 1, b2n (s.scu.initialSpare.isSome && decide (spare s ≤ 0))), (32, 8, maskIf 8 waits), (24, 8, maskIf 8 fun r => s.scu.emerg.contains r),
        (16, 8, maskIf 8 fun r => Tbl.has s.scu.recl r || s.scu.reclaiming.contains r),
        (8, 8, maskIf 8 fun r => s.scu.initialSpare.isSome && groupDead s r)]

def scuPool (s : State) (r : Nat) : Nat :=
  let n (p : Nat → Bool) : Nat := (suiteNums s).countP fun k => rgOf s k == r && p (s.suite k).st
  word [(56, 8, s.ldr.fronts.countP fun e => e.2.suite.any fun k => rgOf s k == r), (36, 18, n fun t => t == 6),
        (18, 18, n fun t => decide (2 ≤ t ∧ t ≤ 5)), (0, 18, (pool s r).length)]

/-- The 128 bytes of the latched suite record (Table 10-2). -/
def suiteRecordBytes (s : State) : Nat :=
  let x := s.scu.snapRec
  let flags := word [(0, 1, b2n x.unprotected), (1, 1, b2n x.refreshDue), (2, 1, b2n x.suspect), (3, 1, b2n x.foldSource), (4, 1, b2n x.short), (5, 1, b2n x.static)]
  let gone := (List.range 4).map fun i => match x.removed[i]? with
    | some (m, row) => (4, m % 256 + row % 2 ^ 16 * 2 ^ 16)
    | none => (4, 0)
  packBytes ([(1, x.st), (1, x.cell), (1, x.stream), (1, x.rg), (1, x.handle), (1, flags), (1, x.removed.length), (1, 0), (4, x.members), (4, x.eraseCount),
    (4, x.dataUnits), (4, s.scu.snapValid), (4, x.programHour), (4, x.closeHour), (4, x.filled), (4, x.foldDest), (8, x.ledgerLoc)] ++ gone ++
    (List.range 32).map fun m => (2, min 65535 (Tbl.getD x.reads m 0 / 64)))

/-! ## Basement (Tables 11-7, 11-8) -/

/-- Half `h` of log entry `i`. -/
def bsmLogWord (s : State) (i h : Nat) : Nat :=
  match s.bsm.log.find? fun e => e.seq % 256 == i with
  | none => 0
  | some e =>
    if h = 0 then word [(0, 32, e.seq), (32, 8, e.cls), (40, 8, e.arr), (48, 8, e.flags)] else word [(0, 32, e.word), (32, 32, e.synd)]

/-! ## Strongroom (Tables 12-10 to 12-15) -/

/-- STG_SLOT[k] (R470, Table 12-14). -/
def stgSlot (s : State) (k : Nat) : Nat :=
  let x := s.kslot k
  let uses (sp : Span) : Bool := (spanExts sp).any fun e => slotAt s sp.ns e == some k
  word [(32, 32, x.gen), (24, 8, x.bind.nsid), (18, 6, x.bind.range), (8, 8, min 255 (s.hall.ctxs.countP fun e => (e.2.reads ++ e.2.writes).any uses)),
        (0, 3, x.st)]

/-- Half `h` of a locking range. -/
def stgRange (s : State) (r h : Nat) : Nat :=
  let x := s.range r
  if h = 0 then word [(32, 32, x.len), (0, 32, x.start)]
  else word [(40, 8, x.nsid), (32, 8, x.slot), (4, 1, b2n (x.pend.any fun n => (s.ctx n).isSome)), (3, 1, b2n x.wl), (2, 1, b2n x.rl), (1, 1, b2n x.wle),
             (0, 1, b2n x.rle)]

/-! ## Closet and Study (Tables 8-21, 13-13, 13-15, 17-5) -/

def cloStatus (s : State) (stored : Nat) : Nat :=
  stored + word [(4, 1, b2n s.pwr.pwrfail), (0, 2, match s.clo.op with
    | some o => 2 ^ (o.addr / 0x2000000)
    | none => 0)]

def stdConfirm (s : State) : Nat :=
  let tries := match recNow s with
    | some (b, _) => attempts s b
    | none => 0
  word [(32, 10, (s.clo.confirmSec.map fun t => 900 - t).getD 0), (6, 2, tries), (4, 2, s.clo.running), (2, 1, b2n (s.clo.running != 0 && !imageConfirmed s)),
        (1, 1, b2n (imageConfirmed s)), (0, 1, b2n s.clo.confirming)]

/-- STD_SUP_STATUS over its stored bits; until BOOT_DONE the boot ROM runs. -/
def stdSupStatus (s : State) (stored : Nat) : Nat :=
  let q := s.seq 64
  bits stored 6 2 * 2 ^ 6 + word [(5, 1, b2n q.inTrap), (3, 2, if s.std.clockPll then 2 else 1), (0, 3, if s.on STD_SUP_STATUS.BOOT_DONE then q.state else 1)]

def stdStraps (s : State) : Nat :=
  let x := s.pwr.straps
  word [(15, 1, b2n s.pwr.pwrfail), (14, 1, b2n s.pwr.holdupOk), (10, 1, b2n x.testmode), (9, 1, b2n x.refsel), (8, 1, b2n x.holdup), (7, 1, b2n x.padmode),
        (4, 3, x.ports), (0, 2, x.role)]

/-! ## Chimney (Tables 14-9, 14-15, 14-16) -/

/-- CHM_STATUS (R548, Table 14-15). (DEDUCED: log entry 23.) -/
def chmStatus (s : State) : Nat :=
  let warn := (portsInUse s).any fun p => decide (feat s (p + 1) 0x04 0 ≤ kelvin (composite s))
  word [(41, 1, b2n s.chm.shutPrior), (40, 1, b2n warn), (32, 8, wrapInt 8 (composite s / 4)), (16, 8, maskIf 8 (zoneBroken s)), (12, 4, s.rd CHM_CTL.MIN_STEP),
        (8, 4, stateStep s), (4, 4, s.chm.thermStep), (0, 4, deviceStep s)]

def chmPower (s : State) : Nat :=
  word [(48, 4, s.chm.a16 - 1), (32, 16, powerCap s), (16, 16, meanPower s), (0, 16, s.chm.p10.head?.getD 0)]

def chmSensor (s : State) (k : Nat) : Nat :=
  word [(32, 16, (s.sensor k).raw), (24, 3, zoneOf k), (16, 4, (s.sensor k).broken), (0, 16, wrapInt 16 (s.sensor k).reading)]

def chmPortTemp (s : State) (n : Nat) : Nat :=
  if !(zonePorts s).contains n then 0
  else word [(32, 4, Tbl.getD s.chm.portStep n 0), (16, 16, maskIf 16 fun d => diePresent s n d && dieBroken s n d),
             (0, 16, ((hottestOf s n).map (wrapInt 16)).getD 0)]

/-! ## Attic (Tables 15-9 to 15-13) -/

/-- FULL_READY: a port that holds a copy is trained. -/
def fullReady (s : State) : Bool :=
  s.atc.full && (s.atc.copyFirst.toList ++ s.atc.copySecond.toList).any fun n => s.rd (CEL_PORT_STATUS.STATE n) == 5

def atcStatus (s : State) : Nat :=
  word [(32, 32, s.atc.nextSeq), (18, 2, b2n s.atc.full), (17, 1, b2n (fullReady s)), (16, 1, b2n (!s.atc.waiting.isEmpty)), (0, 16, s.atc.dropped)]

def atcWinStatus (s : State) (w : Nat) : Nat :=
  let x : AtticWin := Tbl.getD s.atc.wins w {}
  word [(32, 32, x.oldest), (15, 1, b2n x.ready), (14, 1, b2n x.gap), (0, 7, x.recs.length)]

/-- Word `k` of a window's 2,048 bytes; zero while READY is 0, and slots beyond COUNT are empty (R564). -/
def atcWinData (s : State) (w k : Nat) : Nat :=
  let x : AtticWin := Tbl.getD s.atc.wins w {}
  if !x.ready then 0
  else match x.recs[k / 4]? with
  | some r => bits (packBytes (recFields r)) (64 * (k % 4)) 64
  | none => 0

/-! ## Stair (Tables 16-10 to 16-13) -/

def staStatus (s : State) : Nat :=
  word [(24, 8, if isManager s then (configuredWorkers s).countP (workerActive s) else 0), (16, 8, if isWorker s then s.sta.ver else 0),
        (8, 4, if isWorker s then s.sta.selfId else 0), (2, 1, b2n (isWorker s && s.sta.mgrLost)), (0, 2, s.pwr.straps.role)]

/-- STA_WORKER[w] (R600, Table 16-13). (DEDUCED: log entry 119.) -/
def staWorker (s : State) (w : Nat) : Nat :=
  if !isManager s then 0
  else
    let x := s.worker w
    word [(32, 16, min 65535 (s.sta.unsettled.countP fun u => u.w == w)), (24, 8, (linksOf s w).length), (16, 8, x.ver), (8, 8, x.fence), (0, 3, x.st)]

/-! ## The register map -/

/-- The summary row that lays out address `a`, with the index. -/
def regAt (a : Nat) : Option (RegSpec × Nat) :=
  (regMap.find? fun r => decide (r.base ≤ a) && (a - r.base) % r.stride == 0 && decide ((a - r.base) / r.stride < r.count)).map fun r => (r, (a - r.base) / r.stride)

/-- The bits of a register that a read shows: write-only and set-and-clear bits show what is stored, which is nothing for a command. -/
def shownMask (r : RegSpec) : Nat := r.flds.foldl (fun a f => if f.acc = .wo then a else a + (2 ^ f.width - 1) * 2 ^ f.lsb) 0

/-- The stored word of the register at `a`. -/
def storedWord (s : State) (r : RegSpec) (i a : Nat) : Nat := (Tbl.getD s.regs a (BitVec.ofNat 64 (r.resetWord i))).toNat

/-- The port whose block or window an address lies in (R8). -/
def blockPort (a : Nat) : Option Nat :=
  if 0x300000 ≤ a ∧ a < 0x340000 then some ((a - 0x300000) / 0x1000)
  else if 0x3C0000 ≤ a ∧ a < 0x400000 then some ((a - 0x3C0000) / 0x1000)
  else if 0x100100 ≤ a ∧ a < 0x100300 then some ((a - 0x100100) / 8)
  else none

/-- The value that the register laid out by the row with base `b` shows at index `i`, given its stored word: computed where the state holds it
elsewhere. (DESIGN CHOICE: log entry 10.) (DESIGN CHOICE: log entry 11.) (DESIGN CHOICE: log entry 12.) (DEDUCED: log entry 21.) -/
def regValue (s : State) (b i stored : Nat) : Nat :=
  match b with
  | 0x0 => pchIdentity s
  | 0x100 => pchLinkStatus s i
  | 0x1000 => pchDmaStatus s i
  | 0x100008 => halStatus s
  | 0x100010 => s.hall.next
  | 0x200008 => panStatus s stored
  | 0x200020 => putBits stored 0 5 s.pan.maintQ.length
  | 0x200028 => word [(32, 32, groupsUsed s), (0, 32, groupsUsable s)]
  | 0x200030 => word [(32, 32, s.pan.img.resGrp.length), (0, 32, groupsReserve s)]
  | 0x200038 => word [(32, 20, s.pan.ovHigh), (0, 20, s.pan.overlay.length)]
  | 0x200048 => panCkptStatus s
  | 0x200050 => s.pan.nextSeq
  | 0x200058 => s.pan.durable.getD 0
  | 0x280008 => ldrStatus s stored
  | 0x280010 => word [(32, 15, parityUsed s), (16, 15, reclaimUsed s), (0, 15, slotsUsed s)]
  | 0x280018 => word [(32, 15, if s.pwr.straps.holdup then dumpCap s else slotsInService s), (16, 15, slotsInService s), (0, 15, slotsHalf s)]
  | 0x280100 => ldrFront s i
  | 0x300010 => celPortStatus s i stored
  | 0x300030 => celDieMap s i stored
  | 0x300038 => celDieQueue s i
  | 0x300808 => celSeqStatus s i
  | 0x300810 => celSeqTrap s i
  | 0x380008 => lndStatus s
  | 0x380028 => bits (lvlSet s) 0 64
  | 0x380030 => bits (lvlSet s) 64 64
  | 0x3C0E08 => lndPortStatus s i
  | 0x400008 => scuStatus s
  | 0x400030 => putBits stored 0 10 (patrolProgress s)
  | 0x400038 => if s.scu.initialSpare.isSome then word [(32, 32, spareSuites s), (0, 16, spareBp s)] else 0
  | 0x400080 => bits (suiteRecordBytes s) (64 * i) 64
  | 0x400100 => scuPool s i
  | 0x481000 => bsmLogWord s (i / 2) (i % 2)
  | 0x500088 => 2 ^ s.stg.fuses.svn - 1
  | 0x501000 => stgSlot s i
  | 0x502000 => stgRange s (i / 2) (i % 2)
  | 0x580008 => cloStatus s stored
  | 0x600400 => stdSupStatus s stored
  | 0x600408 => celSeqTrap s 64
  | 0x600480 => stdConfirm s
  | 0x600530 => s.pwr.time.toNat
  | 0x600600 => stdStraps s
  | 0x680008 => chmStatus s
  | 0x680010 => chmPower s
  | 0x680018 => s.chm.vcoreFuse
  | 0x680100 => chmSensor s i
  | 0x680200 => chmPortTemp s i
  | 0x700008 => atcStatus s
  | 0x701000 => (Tbl.getD s.atc.wins i {}).cursor
  | 0x701008 => atcWinStatus s i
  | 0x780008 => staStatus s
  | 0x780100 => staWorker s i
  | 0x780140 => if isManager s then wrapInt 64 (s.worker i).offset else 0
  | 0x780180 => if isManager s then (s.worker i).pid else 0
  | _ => stored

/-- The lock owner that a requester's path gives (R442). -/
def pathOwner (s : State) (who : Agent) : Nat :=
  match who with
  | .supervisor => if s.on STD_SUP_STATUS.BOOT_DONE then 2 else 1
  | .boot => if s.on STD_SUP_STATUS.BOOT_DONE then 2 else 1
  | _ => 0

/-- Whether a requester may see a register: the host sees those marked host-visible (R9); the Strongroom range reads zero to a port sequencer
(Table 8-4); STG_KME_ARG reads zero to all but the lock's owner. -/
def mayRead (s : State) (who : Agent) (host : Bool) (a : Nat) : Bool :=
  let arg := decide (0x500040 ≤ a ∧ a < 0x500060)
  match who with
  | .host _ => host
  | .portSeq _ => !decide (0x500000 ≤ a ∧ a < 0x580000)
  | _ => !arg || (pathOwner s who != 0 && lockOwner s == pathOwner s who)

/-- The 8-byte register at the aligned address `a` as `who` reads it; a reserved address and an unpopulated port's block read zero (R8). -/
def houseRead (s : State) (who : Agent) (a : Nat) : Nat :=
  if (blockPort a).any fun n => !populated s n then 0
  else if 0x3C0000 ≤ a ∧ a < 0x400000 ∧ a % 0x1000 < 0xE00 then (if mayRead s who false a then descLevels s ((a - 0x3C0000) / 0x1000) (a % 0x1000) else 0)
  else if 0x701800 ≤ a ∧ a < 0x704000 ∧ 0x800 ≤ a % 0x1000 then atcWinData s ((a - 0x701000) / 0x1000) (a % 0x800 / 8)
  else match regAt a with
  | none => 0
  | some (r, i) => if mayRead s who r.host a then regValue s r.base i (storedWord s r i a &&& shownMask r) % 2 ^ 64 else 0

/-- `n` registers from the aligned address `a` on, as one number. -/
def houseWords (s : State) (who : Agent) (a : Nat) : Nat → Nat
  | 0 => 0
  | n + 1 => houseRead s who a + houseWords s who (a + 8) n * 2 ^ 64

/-- `len` bytes at `a`. -/
def houseReadBytes (s : State) (who : Agent) (a len : Nat) : Nat :=
  bits (houseWords s who (a - a % 8) ((a % 8 + len + 7) / 8)) (8 * (a % 8)) (8 * len)

end Sys2Proof.Machine
end

