-- ==== Sys2Proof/Machine/House.lean ====
section
/-!
DEFINITION. Writing the house address space (R8 to R13, R298, R621): access types and locks, the commands that a register's write gives, and
the rows for a register without a row of its own and for BAR 2.
-/
namespace Sys2Proof.Machine

/-! ## Who may write (Table 8-4, R9, R298) -/

/-- Whether Table 8-4 lets port sequencer `n` write house address `a`: its own port block below 0x800, LND_PORT_CTL of its port, and the
Attic's post registers. (DEDUCED: log entry 17.) -/
def houseStoreOk (n a : Nat) : Bool :=
  decide (0x300000 + n * 0x1000 ≤ a ∧ a < 0x300000 + n * 0x1000 + 0x800) ||
  decide (LND_PORT_CTL.addr n ≤ a ∧ a < LND_PORT_CTL.addr n + 8) || decide (0x700010 ≤ a ∧ a < 0x700028)

/-- Whether an agent's write is issued at all: a host writes the cursor registers of windows 0 and 1 only (R9, R566). -/
def mayWrite (who : Agent) (a : Nat) : Bool :=
  match who with
  | .host _ => a = 0x701000 || a = 0x702000
  | .portSeq n => houseStoreOk n a
  | _ => true

/-! ## Access types and locks (Table 0-7, R621) -/

/-- Whether the lock of the register at index `i` of a row is set. -/
def regLocked (s : State) (r : RegSpec) (i : Nat) : Bool :=
  match r.lock with
  | none => false
  | some (base, stride, b) => bitAt (Tbl.getD s.regs (base + stride * i) 0).toNat b

/-- One field of `old` after a write of the bits `m` of `v`. -/
def fieldAfter (old v m : Nat) (locked : Bool) (f : FldSpec) : Nat :=
  let o := bits old f.lsb f.width
  let x := bits v f.lsb f.width
  let e := bits m f.lsb f.width
  let merged := (o &&& ((2 ^ f.width - 1) ^^^ e)) ||| (x &&& e)
  match f.acc with
  | .ro => o
  | .rw => merged
  | .rwl => if locked then o else merged
  | .w1c => o &&& ((2 ^ f.width - 1) ^^^ (x &&& e))
  | .w1s => o ||| (x &&& e)
  | .wo => 0

/-- The stored word after a write; reserved bits stay zero (R12). (DEDUCED: log entry 15.) -/
def wordAfter (r : RegSpec) (old v m : Nat) (locked : Bool) : Nat :=
  r.flds.foldl (fun a f => a + fieldAfter old v m locked f * 2 ^ f.lsb) 0

/-- What a write asks for: the merged value of RW and RWL fields, the written ones of W1C, W1S and WO fields, nothing of RO fields. -/
def asked (r : RegSpec) (old v m : Nat) : Nat :=
  r.flds.foldl (fun a f => a + (match f.acc with
    | .ro => 0
    | .rw => fieldAfter old v m false f
    | .rwl => fieldAfter old v m false f
    | _ => bits v f.lsb f.width &&& bits m f.lsb f.width) * 2 ^ f.lsb) 0

/-- Whether a write reaches any field that can be written. -/
def reaches (r : RegSpec) (m : Nat) : Bool := r.flds.any fun f => f.acc != .ro && bits m f.lsb f.width != 0

/-- The register at `a` takes a written word. -/
def putWord (s : State) (r : RegSpec) (i a v : Nat) : State :=
  { s with regs := Tbl.setD s.regs a (BitVec.ofNat 64 v) (BitVec.ofNat 64 (r.resetWord i)) }

/-- A write with no more to it than its access types. -/
def plainWrite (s : State) (r : RegSpec) (i a v m : Nat) : State := putWord s r i a (wordAfter r (storedWord s r i a) v m (regLocked s r i))

/-! ## Registers whose write gives a command -/

/-- HAL_CTL (Table 3-13): a write that sets FETCH_EN without DRAIN_REQ ends a drain. (DEDUCED: log entry 18.) -/
def writeHalCtl (s : State) (w : Nat) : State :=
  let s := s.after (execBackgroundHold (bitAt w 2))
  let s := if bitAt w 1 then s.after execDrainRequest else s
  if !bitAt w 0 then s.clr1 HAL_CTL.FETCH_EN
  else if bitAt w 1 then s.set1 HAL_CTL.FETCH_EN
  else s.after execFetchEnableSet

/-- PAN_CTL (Table 5-19). -/
def writePanCtl (s : State) (w : Nat) : State :=
  let s := (s.wr PAN_CTL.CKPT_EN (bits w 2 1)).wr PAN_CTL.JOURNAL_EN (bits w 1 1)
  let s := if bitAt w 3 then s.set1 PAN_CTL.LAYOUT_LOCK else s
  if bitAt w 0 then (if panOn s then s else s.after execPantryEnable) else (if panOn s then s.after execPantryDisable else s)

/-- PAN_MAINT (Table 5-21); other operations are ignored. -/
def writePanMaint (s : State) (w : Nat) : State :=
  let la := bits w 7 29
  match bits w 60 4 with
  | 1 => s.after (execPanMaintClean la)
  | 2 => s.after (execPanMaintInv la)
  | 3 => s.after (execPanMaintCleanInv la)
  | 4 => s.after execPanMaintCleanAll
  | _ => s

/-- LDR_CTL (Table 6-10). -/
def writeLdrCtl (s : State) (w : Nat) : State :=
  let s := if bitAt w 4 then s.set1 LDR_CTL.CFG_LOCK else s
  let s := s.after (execLarderEnable (bitAt w 0))
  let s := s.after (execWtForceSet (bitAt w 2))
  let s := s.after (execDumpArmSet (bitAt w 1))
  if bitAt w 3 && !s.on LDR_CTL.DRAIN then s.after execLarderDrain else s

/-- CEL_PORT_CTL (Table 7-17). -/
def writePortCtl (s : State) (n w : Nat) : State :=
  let s := s.after (execPortHold n (bitAt w 0))
  let s := if bitAt w 1 then s.after (execPortTrain n) else s
  let s := if bitAt w 2 then s.after (execPortRetrain n) else s
  let s := if bitAt w 3 then s.after (execPortRecal n) else s
  if bitAt w 4 then s.after (execPortRetire n 4) else s

/-- CEL_SEQ_CTL (Table 8-17). -/
def writeSeqCtl (s : State) (n w : Nat) : State :=
  let v := BitVec.ofNat 64 w
  let s := if bitAt w 0 then s.after (execSequencerRun n v) else s.after (execSequencerHalt n v)
  if bitAt w 1 then s.after (execSequencerRestart n) else s

/-- One half of the tracked set that LND_LVL_IDX names; discarded while TRACK_EN is 1 (Table 9-10). Byte 15 of a set is zero (R339). -/
def writeLvlHalf (s : State) (h w : Nat) : State :=
  if s.on LND_CTL.TRACK_EN then s
  else setTracked s (s.rd LND_LVL_IDX.PORT) (s.rd LND_LVL_IDX.DIE) (s.rd LND_LVL_IDX.GROUP)
    (if h = 0 then putBits (lvlSet s) 0 64 w else putBits (lvlSet s) 64 56 w)

/-- LND_PORT_CTL (Table 9-19). -/
def writeLndPortCtl (s : State) (n w : Nat) : State :=
  let s := (s.wr (LND_PORT_CTL.CAL_DIE n) (bits w 8 4)).wr (LND_PORT_CTL.TRACK_FREEZE n) (bits w 0 1)
  if bitAt w 12 then s.after (execCalRequest n (bits w 8 4)) else s

/-- BSM_CTL (Table 11-9). -/
def writeBsmCtl (s : State) (w : Nat) : State :=
  let s := (s.wr BSM_CTL.SCRUB_EN (bits w 2 1)).wr BSM_CTL.ENABLE (bits w 0 1)
  let s := if bitAt w 4 then s.set1 BSM_CTL.CFG_LOCK else s
  let s := if bitAt w 3 then s.after execDramClear else s
  let s := if bitAt w 5 then s.after (execSubchannelRetire 0) else s
  if bitAt w 6 then s.after (execSubchannelRetire 1) else s

/-- STG_KME_CMD: the operation with the arguments that STG_KME_ARG holds (Table 12-4). -/
def kmeCommand (s : State) (own op : Nat) : State :=
  let args := (List.range 4).map fun k => s.rd (STG_KME_ARG.V k)
  let f (j : Nat) : Nat := Config.kmeArg op args j
  match op with
  | 1 => s.after (execUnwrapLoad own (f 0) (f 1) (f 2) (f 3) (f 4) (f 5))
  | 2 => s.after (execGenerate own (f 0) (f 1) (f 2) (f 3) (f 4) (f 5))
  | 3 => s.after (execRewrap own (f 0) (f 1) (f 2) (f 3) (f 4) (f 5))
  | 4 => s.after (execZeroise own (f 0))
  | 5 => s.after (execEraseStale own)
  | 6 => s.after (execSeedReplace own)
  | 7 => s.after (execVerifyImage own (f 0))
  | 8 => s.after (execSign own (f 0) (f 1))
  | 9 => s.after (execGenNote own (f 0) (f 1))
  | _ => kmeStart s { op := op, owner := own } false

/-- STG_LOCK (Table 12-11). (DEDUCED: log entry 20.) -/
def writeStgLock (s : State) (own w : Nat) : State :=
  let s := if bitAt w 17 then s.after (execStgLockRelease own) else s
  if bitAt w 16 then s.after (execStgLockAcquire own) else s

/-- The Strongroom's registers: but for STG_LOCK only the lock's owner writes them, and STG_CTL only owner 1 (R443). -/
def writeStg (s : State) (who : Agent) (r : RegSpec) (i a v m w : Nat) : State :=
  let own := pathOwner s who
  if own = 0 then s
  else if a = 0x500010 then writeStgLock s own w
  else if lockOwner s ≠ own then s
  else if a = 0x500000 then (if own = 1 then plainWrite s r i a v m else s)
  else if a = 0x500018 then kmeCommand s own w
  else plainWrite s r i a v m

/-- CLO_CMD (Table 13-14). -/
def writeCloCmd (s : State) (w : Nat) : State :=
  match w with
  | 1 => s.after execClosetProgram
  | 2 => s.after execClosetErase
  | 3 => s.after execClosetMarginRead
  | _ => s

/-- STD_CLK_CTL (Table 14-11): a write of 1 to SEL counts where the PLL is locked; a write of 0 puts the supervisor on FIO. (DEDUCED: log entry 19.) -/
def writeClkCtl (s : State) (w : Nat) : State :=
  let s := if bitAt w 0 then s.after execPllEnable else (s.clr1 STD_CLK_CTL.PLL_EN).clr1 STD_CLK_CTL.PLL_LOCK
  if bitAt w 2 then (if s.on STD_CLK_CTL.SEL then s else s.after execClockSelect)
  else (s.clr1 STD_CLK_CTL.SEL).modStd fun d => { d with clockPll := false }

/-- ATC_CTL.MODE is set (R561): full mode begins, with the ring's records for its area; a device that has run in full mode keeps it. (DEDUCED: log entry 22.) -/
def setAtticMode (s : State) (w : Nat) : State :=
  let full := w % 4 = 1
  if full then
    let (f, g) := atticPorts s
    if s.atc.full then s.modAtc fun a => if a.copyFirst.isNone && a.copySecond.isNone then { a with copyFirst := f, copySecond := g } else a
    else s.modAtc fun a => { a with full := true, everFull := true, waiting := a.ring, copyFirst := f, copySecond := g }
  else if s.atc.everFull then post (s.modAtc fun a => { a with full := true }) 0x0004 3 0xC 0xFF 0 1
  else s

/-- ATC_CTL (Table 15-10). -/
def writeAtcCtl (s : State) (r : RegSpec) (i a v m : Nat) : State :=
  let locked := regLocked s r i
  let t := plainWrite s r i a v m
  if locked || bits m 0 2 = 0 then t else setAtticMode t (v % 4)

/-- STA_CTL (Table 16-11): JOIN_EN makes a manager join on every link that is up. (DEDUCED: log entry 24.) -/
def writeStaCtl (s : State) (r : RegSpec) (i a v m : Nat) : State :=
  let t := plainWrite s r i a v m
  if t.on STA_CTL.JOIN_EN && !s.on STA_CTL.JOIN_EN then t.each ((stairPorts t).filter (stairUp t)) sendJoin else t

/-- The writer's own staging set of PARAM words (R554). -/
def stager (who : Agent) : Option Nat :=
  match who with
  | .portSeq n => some n
  | .supervisor => some 64
  | .boot => some 64
  | _ => none

def stageWord (s : State) (who : Agent) (hi : Bool) (w : Nat) : State :=
  match stager who with
  | none => s
  | some n =>
    let v := BitVec.ofNat 64 w
    s.modAtc fun a => if hi then { a with stageHi := Tbl.setD a.stageHi n v 0 } else { a with stageLo := Tbl.setD a.stageLo n v 0 }

/-- A write of the bits `m` of `v` to the register at `a`, which row `r` lays out at index `i`. -/
def writeReg (s : State) (who : Agent) (r : RegSpec) (i a v m : Nat) : State :=
  let w := asked r (storedWord s r i a) v m
  let x := BitVec.ofNat 64 w
  match r.base with
  | 0x100000 => writeHalCtl s w
  | 0x200000 => writePanCtl s w
  | 0x200010 => if bitAt w 0 then s.after execPanInvAll else s
  | 0x200018 => writePanMaint s w
  | 0x280000 => writeLdrCtl s w
  | 0x280038 => s.after (execLdrBankRetire x)
  | 0x300008 => writePortCtl s i w
  | 0x300800 => writeSeqCtl s i w
  | 0x300808 => if bitAt w 5 then s.modSeq i fun q => { q with mailLost := false } else s
  | 0x300820 => s.after (execSeqLoadData i x)
  | 0x300828 => s.after (execSeqMail i x)
  | 0x340000 => s.after (execRefclkOutputCtl x)
  | 0x380028 => writeLvlHalf s 0 w
  | 0x380030 => writeLvlHalf s 1 w
  | 0x3C0E10 => writeLndPortCtl s i w
  | 0x400040 => s.after (execSuiteIdxWrite x)
  | 0x480000 => writeBsmCtl s w
  | 0x482000 => s.after (execBsmRemapWrite i x)
  | 0x500000 => writeStg s who r i a v m w
  | 0x500008 => writeStg s who r i a v m w
  | 0x500010 => writeStg s who r i a v m w
  | 0x500018 => writeStg s who r i a v m w
  | 0x500040 => writeStg s who r i a v m w
  | 0x580010 => writeCloCmd s w
  | 0x580280 => s.after (execCloWpSet i x)
  | 0x600418 => s.after (execWatchdogKick x)
  | 0x600480 => s.after (execStdConfirm x)
  | 0x600508 => writeClkCtl s w
  | 0x600510 => s.after (execStdDomainEnWrite x)
  | 0x600518 => s.wr STD_WAKE_EN.EN (w % 128 ||| 0x1F)
  | 0x600528 => if bitAt w 0 then s.after execStdPadRelease else s
  | 0x680000 => stepCheck (plainWrite s r i a v m)
  | 0x700000 => writeAtcCtl s r i a v m
  | 0x700010 => stageWord s who false w
  | 0x700018 => stageWord s who true w
  | 0x700020 => s.after (execAtcPostGo who (w % 65536) (bits w 16 4))
  | 0x701000 => s.after (execAtcWinCursorWrite who i w)
  | 0x780000 => writeStaCtl s r i a v m
  | _ => plainWrite s r i a v m

/-- Whether the house registers are powered. (DESIGN CHOICE: log entry 16.) -/
def housePowered (s : State) : Bool := !s.pwr.por && s.pwr.st != .off

/-- A write of the bits `m` of `v` to the 8-byte register at the aligned address `a`: nothing at a reserved address, in an unpopulated port's block
(R8), or where Table 8-4 or R9 bars the writer. -/
def houseWrite (s : State) (who : Agent) (a v m : Nat) : State :=
  if !housePowered s || !mayWrite who a || (blockPort a).any fun n => !populated s n then s
  else match regAt a with
  | none => s
  | some (r, i) => if reaches r m then writeReg s who r i a v m else s

/-- `n` registers from the aligned address `a` on take the bits `m` of `v`. -/
def writeWords (s : State) (who : Agent) (a v m : Nat) : Nat → State
  | 0 => s
  | n + 1 => writeWords (houseWrite s who a (v % 2 ^ 64) (m % 2 ^ 64)) who (a + 8) (v / 2 ^ 64) (m / 2 ^ 64) n

/-- The low `len` bytes of `v` at `a`. -/
def houseWriteBytes (s : State) (who : Agent) (a len v : Nat) : State :=
  let k := 8 * (a % 8)
  writeWords s who (a - a % 8) (v % 2 ^ (8 * len) * 2 ^ k) ((2 ^ (8 * len) - 1) * 2 ^ k) ((a % 8 + len + 7) / 8)

/-! ## The rows -/

/-- REGISTER_WRITE: a whole register. A port sequencer's store that Table 8-4 forbids is not issued and traps with HOUSE_DENIED (R298). -/
def execRegisterWrite (who : Agent) (a : Nat) (v : U64) (s : State) : Host.Outcome State Fault Refusal :=
  match who with
  | .portSeq n =>
    if a % 8 ≠ 0 then .next s
    else if n < 64 && (s.seq n).state = 1 && !houseStoreOk n a then .next (trap s n 0x04 a (s.seq n).pc)
    else .next (houseWrite s who a v.toNat (2 ^ 64 - 1))
  | _ => .next (if a % 8 = 0 then houseWrite s who a v.toNat (2 ^ 64 - 1) else s)

/-- BAR2_MEMORY_WRITE (R9, R58). -/
def execBar2MemoryWrite (p a len : Nat) (v : U64) (s : State) : Host.Outcome State Fault Refusal :=
  if !(s.hport p).up || !(portsInUse s).contains p then .next s
  else if (s.hport p).d3 then .next (s.emit (.unsupported p))
  else .next (if a + len ≤ 2 ^ 24 && len ≤ 8 then houseWriteBytes s (.host p) a len v.toNat else s)

/-- The registers that a read covers, each with its bytes outside the request zero. -/
def bar2Words (s : State) (p a len : Nat) : List Nat :=
  let v := houseReadBytes s (.host p) a len * 2 ^ (8 * (a % 8))
  (List.range ((a % 8 + len + 7) / 8)).map fun j => bits v (64 * j) 64

/-- BAR2_MEMORY_READ (R59). (DESIGN CHOICE: log entry 14.) -/
def execBar2MemoryRead (p a len : Nat) (s : State) : Host.Outcome State Fault Refusal :=
  if !(s.hport p).up || !(portsInUse s).contains p || len = 0 || 4096 < len then .next s
  else if (s.hport p).d3 || 2 ^ 24 < a + len then .next (s.emit (.unsupported p))
  else .next (s.emit (.bar2Reply p (bar2Words s p a len)))

end Sys2Proof.Machine
end

