-- ==== Sys2Proof/Machine/Operands.lean ====
section
/-!
DEFINITION. The operand forms of the Gynum instruction layouts (Table 8-6, R302): how a constant, a lane, a displacement, a
shift amount and a jump offset are taken from the instruction, and the words of the five layouts.
-/
namespace Sys2Proof.Machine

/-- k19 sign-extended (LDK, ADDK and the signed tests). -/
def kSigned (k : BitVec 19) : U64 := k.signExtend 64

/-- k19 zero-extended (ANDK, ORK, XORK). -/
def kZero (k : BitVec 19) : U64 := k.setWidth 64

/-- A shift amount in k19[5:0]. -/
def kShift (k : BitVec 19) : Nat := k.toNat % 64

/-- A shift amount in bits 5:0 of a register (R301). -/
def regShift (v : U64) : Nat := v.toNat % 64

/-- PUTK: bits 15:0 of k19 replace the lane of rd that bits 17:16 name; bit 18 is ignored. -/
def putLane (v : U64) (k : BitVec 19) : U64 :=
  BitVec.ofNat 64 (putBits v.toNat (16 * (k.toNat / 2 ^ 16 % 4)) 16 (k.toNat % 2 ^ 16))

/-- The address of an M-layout access: rs plus the signed byte displacement. -/
def memAddr (rs : U64) (d : BitVec 14) : Nat := (rs + d.signExtend 64).toNat

/-- The target of a J-layout jump: the offset counts instructions from the jump itself. -/
def jumpTarget (pc : Nat) (d : BitVec 24) : Nat := (BitVec.ofNat 64 pc + d.signExtend 64 * 4).toNat

/-- A P-layout word. -/
def wordP (op : Nat) (rd rs : BitVec 5) (pad : BitVec 14) : Nat := op * 2 ^ 24 + rd.toNat * 2 ^ 19 + rs.toNat * 2 ^ 14 + pad.toNat

/-- A K-layout word. -/
def wordK (op : Nat) (rd : BitVec 5) (k : BitVec 19) : Nat := op * 2 ^ 24 + rd.toNat * 2 ^ 19 + k.toNat

/-- A J-layout word. -/
def wordJ (op : Nat) (d : BitVec 24) : Nat := op * 2 ^ 24 + d.toNat

/-- One row of Table 8-7: the opcode, the bits that the layout leaves unused and that must be zero (R302), whether the
encoding is GY2 only, and whether it is reserved on the supervisor (R303). -/
structure GynOp where
  op : Nat
  unused : Nat
  gy2 : Bool
  portOnly : Bool
  deriving DecidableEq, Repr

/-- Rows with consecutive opcodes that share the rest. -/
def gynRow (ops : List Nat) (unused : Nat) (gy2 portOnly : Bool) : List GynOp := ops.map fun o => ⟨o, unused, gy2, portOnly⟩

/-- The opcodes of Gynum GY2 (Table 8-7). In P layout bits 13:0 are unused, and rs or rd too where the operation names none
of them; in TRAP rd is unused. -/
def gynOps : List GynOp :=
  gynRow [0x01, 0x02, 0x03, 0x04, 0x05, 0x06, 0x07, 0x08, 0x09, 0x0A, 0x0B] 0x3FFF false false ++
  gynRow [0x0C, 0x0D, 0x0E, 0x0F] 0x3FFF true false ++
  gynRow [0x10, 0x11, 0x12, 0x13, 0x14, 0x15, 0x16, 0x17, 0x18] 0 false false ++
  gynRow [0x20, 0x21, 0x22, 0x23, 0x24, 0x25] 0x3FFF false false ++
  gynRow [0x26, 0x27, 0x28, 0x29, 0x2A] 0 false false ++
  gynRow [0x30, 0x31, 0x32, 0x33, 0x34, 0x35, 0x36, 0x37, 0x38, 0x39] 0 false false ++
  gynRow [0x3A, 0x3B] 0 true false ++
  gynRow [0x40, 0x41, 0x42, 0x43] 0 false false ++
  gynRow [0x44, 0x45] 0x7FFFF false false ++
  gynRow [0x46] 0xFFFFFF false false ++
  gynRow [0x50] 0 false false ++
  gynRow [0x51] 0x7FFFF false true ++
  gynRow [0x52] 0xF80000 false false ++
  gynRow [0x53] 0xFFFFFF false false ++
  gynRow [0x54] 0x7FFFF false false ++
  gynRow [0x55] 0xFFFFFF true false ++
  gynRow [0x56] 0 false false ++
  gynRow [0x60, 0x61, 0x62] 0x3FFF false true

/-- Whether a word is a reserved encoding on sequencer `n` (R302, R303): an opcode the table does not list, one that the
level or the sequencer does not have, or an unused field that is not zero. -/
def gynReserved (n : Nat) (gy1 : Bool) (w : Nat) : Bool :=
  match gynOps.find? fun o => o.op = w / 2 ^ 24 with
  | none => true
  | some o => (o.gy2 && gy1) || (o.portOnly && n = 64) || decide (w % 2 ^ 24 &&& o.unused ≠ 0)

end Sys2Proof.Machine
end

