-- ==== Sys2Proof/Machine/Gynum.lean ====
section
/-!
DEFINITION. The Gynum instructions (chapter 8). Sequencer `n` runs the instruction that it fetches at its program counter; a
row's command is that instruction, so its word must be what the fetch delivers.
-/
namespace Sys2Proof.Machine

/-! ## Local memory (R295 to R297, R304) -/

/-- Whether a fetch from local address `a` is allowed. The code area of a port is 0x0000 to 0x2BFF; the supervisor fetches
from Study RAM, the Closet window, and the boot ROM until BOOT_DONE. -/
def localFetchOk (s : State) (n a : Nat) : Bool :=
  if n = 64 then decide (a < 0x7C000) || (decide (0x100000 ≤ a ∧ a < 0x110000) && !s.on STD_SUP_STATUS.BOOT_DONE) ||
    decide (0x4000000 ≤ a ∧ a < 0x8000000)
  else decide (a < 0x2C00)

/-- Whether a load from `a` is allowed (Tables 8-2 and 8-3). -/
def localLoadOk (n a : Nat) : Bool :=
  if n = 64 then decide (a < 0x80000) || decide (0x100000 ≤ a ∧ a < 0x110000) || decide (0x4000000 ≤ a ∧ a < 0x8000000)
  else decide (a < 0x4000) || decide (0x8000 ≤ a ∧ a < 0x8100)

/-- Whether a store to `a` is allowed (Tables 8-2 and 8-3). -/
def localStoreOk (n a : Nat) : Bool :=
  if n = 64 then decide (a < 0x7C000) else decide (0x3000 ≤ a ∧ a < 0x3800) || decide (0x3C00 ≤ a ∧ a < 0x4000)

/-- The sequencer and address that local address `a` of sequencer `n` stands for: the alias of a port's mailbox lies in
Study RAM. -/
def localHome (n a : Nat) : Nat × Nat :=
  if n < 64 && decide (0x8000 ≤ a ∧ a < 0x8100) then (64, 0x7C000 + n * 0x100 + a % 0x100) else (n, a)

/-- `len` bytes of the Closet window from offset `b` on. -/
def closetWindow (s : State) (b len : Nat) : Nat := (List.range len).foldr (fun i r => norByte s (b + i) + 256 * r) 0

/-- `len` bytes of the boot ROM region from offset `b` on, which reads zero once BOOT_DONE is 1 (R296). -/
def bootWindow (s : State) (b len : Nat) : Nat :=
  if s.on STD_SUP_STATUS.BOOT_DONE then 0 else (List.range len).foldr (fun i r => (Config.bootRom (b + i)).toNat + 256 * r) 0

/-- `len` bytes at a sequencer and an address of its own memory, ROM or window. -/
def readHome (s : State) (h : Nat × Nat) (len : Nat) : Nat :=
  if h.1 = 64 && decide (0x4000000 ≤ h.2) then closetWindow s (h.2 % 0x4000000) len
  else if h.1 = 64 && decide (0x100000 ≤ h.2) then bootWindow s (h.2 % 0x100000) len
  else Tbl.readBytes (s.seq h.1).ram 0 h.2 len

/-- `len` bytes of the local space. -/
def localRead (s : State) (n a len : Nat) : Nat := readHome s (localHome n a) len

/-- Whether the casement word at a sequencer's own address is uncorrectable. -/
def badHome (s : State) (h : Nat × Nat) : Bool := (s.seq h.1).bad.contains (h.2 / 32)

/-- Whether the casement word that holds local address `a` is uncorrectable (R297). -/
def localBad (s : State) (n a : Nat) : Bool := badHome s (localHome n a)

/-! ## Fetch and the instruction frame -/

/-- Whether LEVEL selects GY1 (R303, R324); the supervisor runs GY2. -/
def gy1Level (s : State) (n : Nat) : Bool := n < 64 && s.on (CEL_SEQ_CTL.LEVEL n)

/-- The word at the program counter of sequencer `n`. -/
def fetchWord (s : State) (n : Nat) : Nat := localRead s n (s.seq n).pc 4

/-- One instruction boundary of sequencer `n`: a pending OP_LIMIT is taken (R317); a fetch outside the code area or of an
uncorrectable word traps (R297, R304); a reserved encoding traps with the word (R303). Otherwise the fetched instruction
runs, when it is the one `word` spells. A sequencer that is not executing (not started, waiting, halted) runs nothing. (DESIGN CHOICE: log entry 5.) -/
def gyn (n word : Nat) (s : State) (body : State → State) : State :=
  let q := s.seq n
  if !(decide (n ≤ 64) && (q.state = 1 || q.state = 3)) then s
  else
    match q.limitPend, q.inTrap with
    | i :: rest, false => trap (s.modSeq n fun q => { q with limitPend := rest }) n 0x0C i q.pc
    | _, _ =>
      if !localFetchOk s n q.pc then trap s n 0x03 q.pc q.pc
      else if localBad s n q.pc then trap s n 0x05 q.pc q.pc
      else if gynReserved n (gy1Level s n) (fetchWord s n) then trap s n 0x01 (fetchWord s n) q.pc
      else if fetchWord s n = word then body (s.modSeq n fun q => { q with state := 1 })
      else s

/-- The program counter moves to the next instruction. -/
def pcNext (s : State) (n : Nat) : State := s.modSeq n fun q => { q with pc := q.pc + 4 }

/-- rd takes a value and the program counter moves on. -/
def setNext (s : State) (n : Nat) (rd : BitVec 5) (v : U64) : State :=
  pcNext (s.modSeq n fun q => q.setReg rd.toNat v) n

/-- A P-layout instruction that computes rd from rd and rs. -/
def gynPair (op n : Nat) (rd rs : BitVec 5) (pad : BitVec 14) (f : U64 → U64 → U64) (s : State) : State :=
  gyn n (wordP op rd rs pad) s fun s => setNext s n rd (f ((s.seq n).reg rd.toNat) ((s.seq n).reg rs.toNat))

/-- A K-layout instruction that computes rd from rd and k19. -/
def gynConst (op n : Nat) (rd : BitVec 5) (k : BitVec 19) (f : U64 → BitVec 19 → U64) (s : State) : State :=
  gyn n (wordK op rd k) s fun s => setNext s n rd (f ((s.seq n).reg rd.toNat) k)

/-- T takes a value and the program counter moves on. -/
def setT (s : State) (n : Nat) (t : Bool) : State := pcNext (s.modSeq n fun q => { q with t := t }) n

/-- A test of rd against rs. -/
def gynTest (op n : Nat) (rd rs : BitVec 5) (pad : BitVec 14) (f : U64 → U64 → Bool) (s : State) : State :=
  gyn n (wordP op rd rs pad) s fun s => setT s n (f ((s.seq n).reg rd.toNat) ((s.seq n).reg rs.toNat))

/-- A test of rd against k19. -/
def gynTestK (op n : Nat) (rd : BitVec 5) (k : BitVec 19) (f : U64 → BitVec 19 → Bool) (s : State) : State :=
  gyn n (wordK op rd k) s fun s => setT s n (f ((s.seq n).reg rd.toNat) k)

/-- A local load of `len` bytes, zero-extended. -/
def gynLoad (op len n : Nat) (rd rs : BitVec 5) (d : BitVec 14) (s : State) : State :=
  gyn n (wordP op rd rs d) s fun s =>
    let a := memAddr ((s.seq n).reg rs.toNat) d
    let pc := (s.seq n).pc
    if a % len ≠ 0 then trap s n 0x02 a pc
    else if !localLoadOk n a then trap s n 0x03 a pc
    else if localBad s n a then trap s n 0x06 a pc
    else setNext s n rd (BitVec.ofNat 64 (localRead s n a len))

/-- A local store of the low `len` bytes of rd. -/
def gynStore (op len n : Nat) (rd rs : BitVec 5) (d : BitVec 14) (s : State) : State :=
  gyn n (wordP op rd rs d) s fun s =>
    let a := memAddr ((s.seq n).reg rs.toNat) d
    let pc := (s.seq n).pc
    if a % len ≠ 0 then trap s n 0x02 a pc
    else if !localStoreOk n a then trap s n 0x03 a pc
    else if localBad s n a then trap s n 0x06 a pc
    else pcNext (localWrite s n a len ((s.seq n).reg rd.toNat).toNat) n

/-- Who a sequencer's house accesses come from (R299). -/
def seqAgent (n : Nat) : Agent := if n = 64 then .supervisor else .portSeq n

/-- A house load of `len` bytes: the data returns and the sequencer goes on (R299). A reserved address reads zero (R8); the
Strongroom range reads zero to a port sequencer (Table 8-4). -/
def gynHouseLoad (op len n : Nat) (rd rs : BitVec 5) (d : BitVec 14) (s : State) : State :=
  gyn n (wordP op rd rs d) s fun s =>
    let a := memAddr ((s.seq n).reg rs.toNat) d
    if a % len ≠ 0 then trap s n 0x02 a (s.seq n).pc
    else setNext s n rd (BitVec.ofNat 64 (houseReadBytes s (seqAgent n) a len))

/-- A house store of the low `len` bytes of rd; a port sequencer's forbidden store traps and is not issued (R298). -/
def gynHouseStore (op len n : Nat) (rd rs : BitVec 5) (d : BitVec 14) (s : State) : State :=
  gyn n (wordP op rd rs d) s fun s =>
    let a := memAddr ((s.seq n).reg rs.toNat) d
    let pc := (s.seq n).pc
    if a % len ≠ 0 then trap s n 0x02 a pc
    else if n < 64 && !houseStoreOk n a then trap s n 0x04 a pc
    else pcNext (houseWriteBytes s (seqAgent n) a len ((s.seq n).reg rd.toNat).toNat) n

/-- The program counter goes to `a`. -/
def gynGoto (s : State) (n a : Nat) : State := s.modSeq n fun q => { q with pc := a }

/-- Pushes the next instruction's address and jumps; a ninth entry traps with RSTACK (R301). -/
def gynCallTo (s : State) (n a : Nat) : State :=
  let q := s.seq n
  if 8 ≤ q.rstack.length then trap s n 0x0E 8 q.pc
  else s.modSeq n fun q => { q with rstack := (q.pc + 4) :: q.rstack, pc := a }

/-! ## The meanings -/

def execMov (n : Nat) (rd rs : BitVec 5) (pad : BitVec 14) (s : State) : Host.Outcome State Fault Refusal :=
  .next (gynPair 0x01 n rd rs pad (fun _ b => b) s)

def execAdd (n : Nat) (rd rs : BitVec 5) (pad : BitVec 14) (s : State) : Host.Outcome State Fault Refusal :=
  .next (gynPair 0x02 n rd rs pad (fun a b => a + b) s)

def execSub (n : Nat) (rd rs : BitVec 5) (pad : BitVec 14) (s : State) : Host.Outcome State Fault Refusal :=
  .next (gynPair 0x03 n rd rs pad (fun a b => a - b) s)

def execAnd (n : Nat) (rd rs : BitVec 5) (pad : BitVec 14) (s : State) : Host.Outcome State Fault Refusal :=
  .next (gynPair 0x04 n rd rs pad (fun a b => a &&& b) s)

def execOr (n : Nat) (rd rs : BitVec 5) (pad : BitVec 14) (s : State) : Host.Outcome State Fault Refusal :=
  .next (gynPair 0x05 n rd rs pad (fun a b => a ||| b) s)

def execXor (n : Nat) (rd rs : BitVec 5) (pad : BitVec 14) (s : State) : Host.Outcome State Fault Refusal :=
  .next (gynPair 0x06 n rd rs pad (fun a b => a ^^^ b) s)

def execShl (n : Nat) (rd rs : BitVec 5) (pad : BitVec 14) (s : State) : Host.Outcome State Fault Refusal :=
  .next (gynPair 0x07 n rd rs pad (fun a b => a <<< regShift b) s)

def execShr (n : Nat) (rd rs : BitVec 5) (pad : BitVec 14) (s : State) : Host.Outcome State Fault Refusal :=
  .next (gynPair 0x08 n rd rs pad (fun a b => a >>> regShift b) s)

def execSar (n : Nat) (rd rs : BitVec 5) (pad : BitVec 14) (s : State) : Host.Outcome State Fault Refusal :=
  .next (gynPair 0x09 n rd rs pad (fun a b => a.sshiftRight (regShift b)) s)

def execMul (n : Nat) (rd rs : BitVec 5) (pad : BitVec 14) (s : State) : Host.Outcome State Fault Refusal :=
  .next (gynPair 0x0A n rd rs pad (fun a b => a * b) s)

def execMulhu (n : Nat) (rd rs : BitVec 5) (pad : BitVec 14) (s : State) : Host.Outcome State Fault Refusal :=
  .next (gynPair 0x0B n rd rs pad (fun a b => BitVec.ofNat 64 (a.toNat * b.toNat / 2 ^ 64)) s)

def execMin (n : Nat) (rd rs : BitVec 5) (pad : BitVec 14) (s : State) : Host.Outcome State Fault Refusal :=
  .next (gynPair 0x0C n rd rs pad (fun a b => if BitVec.slt b a then b else a) s)

def execMax (n : Nat) (rd rs : BitVec 5) (pad : BitVec 14) (s : State) : Host.Outcome State Fault Refusal :=
  .next (gynPair 0x0D n rd rs pad (fun a b => if BitVec.slt a b then b else a) s)

/-- How many of the low `w` bits are set. -/
def onesIn (v : Nat) : Nat → Nat
  | 0 => 0
  | w + 1 => v % 2 + onesIn (v / 2) w

def execCnt (n : Nat) (rd rs : BitVec 5) (pad : BitVec 14) (s : State) : Host.Outcome State Fault Refusal :=
  .next (gynPair 0x0E n rd rs pad (fun _ b => BitVec.ofNat 64 (onesIn b.toNat 64)) s)

/-- Leading zeros of a 64-bit value; 64 for 0. -/
def leadingZeros (v : Nat) : Nat := if v = 0 then 64 else 63 - Nat.log2 v

def execLzc (n : Nat) (rd rs : BitVec 5) (pad : BitVec 14) (s : State) : Host.Outcome State Fault Refusal :=
  .next (gynPair 0x0F n rd rs pad (fun _ b => BitVec.ofNat 64 (leadingZeros b.toNat)) s)

def execLdk (n : Nat) (rd : BitVec 5) (k : BitVec 19) (s : State) : Host.Outcome State Fault Refusal :=
  .next (gynConst 0x10 n rd k (fun _ k => kSigned k) s)

def execPutk (n : Nat) (rd : BitVec 5) (k : BitVec 19) (s : State) : Host.Outcome State Fault Refusal :=
  .next (gynConst 0x11 n rd k (fun a k => putLane a k) s)

def execAddk (n : Nat) (rd : BitVec 5) (k : BitVec 19) (s : State) : Host.Outcome State Fault Refusal :=
  .next (gynConst 0x12 n rd k (fun a k => a + kSigned k) s)

def execAndk (n : Nat) (rd : BitVec 5) (k : BitVec 19) (s : State) : Host.Outcome State Fault Refusal :=
  .next (gynConst 0x13 n rd k (fun a k => a &&& kZero k) s)

def execOrk (n : Nat) (rd : BitVec 5) (k : BitVec 19) (s : State) : Host.Outcome State Fault Refusal :=
  .next (gynConst 0x14 n rd k (fun a k => a ||| kZero k) s)

def execXork (n : Nat) (rd : BitVec 5) (k : BitVec 19) (s : State) : Host.Outcome State Fault Refusal :=
  .next (gynConst 0x15 n rd k (fun a k => a ^^^ kZero k) s)

def execShlk (n : Nat) (rd : BitVec 5) (k : BitVec 19) (s : State) : Host.Outcome State Fault Refusal :=
  .next (gynConst 0x16 n rd k (fun a k => a <<< kShift k) s)

def execShrk (n : Nat) (rd : BitVec 5) (k : BitVec 19) (s : State) : Host.Outcome State Fault Refusal :=
  .next (gynConst 0x17 n rd k (fun a k => a >>> kShift k) s)

def execSark (n : Nat) (rd : BitVec 5) (k : BitVec 19) (s : State) : Host.Outcome State Fault Refusal :=
  .next (gynConst 0x18 n rd k (fun a k => a.sshiftRight (kShift k)) s)

def execTeq (n : Nat) (rd rs : BitVec 5) (pad : BitVec 14) (s : State) : Host.Outcome State Fault Refusal :=
  .next (gynTest 0x20 n rd rs pad tEq s)

def execTne (n : Nat) (rd rs : BitVec 5) (pad : BitVec 14) (s : State) : Host.Outcome State Fault Refusal :=
  .next (gynTest 0x21 n rd rs pad tNe s)

def execTlt (n : Nat) (rd rs : BitVec 5) (pad : BitVec 14) (s : State) : Host.Outcome State Fault Refusal :=
  .next (gynTest 0x22 n rd rs pad tLt s)

def execTge (n : Nat) (rd rs : BitVec 5) (pad : BitVec 14) (s : State) : Host.Outcome State Fault Refusal :=
  .next (gynTest 0x23 n rd rs pad tGe s)

def execTltu (n : Nat) (rd rs : BitVec 5) (pad : BitVec 14) (s : State) : Host.Outcome State Fault Refusal :=
  .next (gynTest 0x24 n rd rs pad tLtu s)

def execTgeu (n : Nat) (rd rs : BitVec 5) (pad : BitVec 14) (s : State) : Host.Outcome State Fault Refusal :=
  .next (gynTest 0x25 n rd rs pad tGeu s)

def execTeqk (n : Nat) (rd : BitVec 5) (k : BitVec 19) (s : State) : Host.Outcome State Fault Refusal :=
  .next (gynTestK 0x26 n rd k (fun a k => tEq a (kSigned k)) s)

def execTnek (n : Nat) (rd : BitVec 5) (k : BitVec 19) (s : State) : Host.Outcome State Fault Refusal :=
  .next (gynTestK 0x27 n rd k (fun a k => tNe a (kSigned k)) s)

def execTltk (n : Nat) (rd : BitVec 5) (k : BitVec 19) (s : State) : Host.Outcome State Fault Refusal :=
  .next (gynTestK 0x28 n rd k (fun a k => tLt a (kSigned k)) s)

def execTgek (n : Nat) (rd : BitVec 5) (k : BitVec 19) (s : State) : Host.Outcome State Fault Refusal :=
  .next (gynTestK 0x29 n rd k (fun a k => tGe a (kSigned k)) s)

def execTbit (n : Nat) (rd : BitVec 5) (k : BitVec 19) (s : State) : Host.Outcome State Fault Refusal :=
  .next (gynTestK 0x2A n rd k tBit s)

def execLd8 (n : Nat) (rd rs : BitVec 5) (d : BitVec 14) (s : State) : Host.Outcome State Fault Refusal :=
  .next (gynLoad 0x30 8 n rd rs d s)

def execLd4 (n : Nat) (rd rs : BitVec 5) (d : BitVec 14) (s : State) : Host.Outcome State Fault Refusal :=
  .next (gynLoad 0x31 4 n rd rs d s)

def execLd2 (n : Nat) (rd rs : BitVec 5) (d : BitVec 14) (s : State) : Host.Outcome State Fault Refusal :=
  .next (gynLoad 0x32 2 n rd rs d s)

def execLd1 (n : Nat) (rd rs : BitVec 5) (d : BitVec 14) (s : State) : Host.Outcome State Fault Refusal :=
  .next (gynLoad 0x33 1 n rd rs d s)

def execSt8 (n : Nat) (rd rs : BitVec 5) (d : BitVec 14) (s : State) : Host.Outcome State Fault Refusal :=
  .next (gynStore 0x34 8 n rd rs d s)

def execSt4 (n : Nat) (rd rs : BitVec 5) (d : BitVec 14) (s : State) : Host.Outcome State Fault Refusal :=
  .next (gynStore 0x35 4 n rd rs d s)

def execSt2 (n : Nat) (rd rs : BitVec 5) (d : BitVec 14) (s : State) : Host.Outcome State Fault Refusal :=
  .next (gynStore 0x36 2 n rd rs d s)

def execSt1 (n : Nat) (rd rs : BitVec 5) (d : BitVec 14) (s : State) : Host.Outcome State Fault Refusal :=
  .next (gynStore 0x37 1 n rd rs d s)

def execHld8 (n : Nat) (rd rs : BitVec 5) (d : BitVec 14) (s : State) : Host.Outcome State Fault Refusal :=
  .next (gynHouseLoad 0x38 8 n rd rs d s)

def execHst8 (n : Nat) (rd rs : BitVec 5) (d : BitVec 14) (s : State) : Host.Outcome State Fault Refusal :=
  .next (gynHouseStore 0x39 8 n rd rs d s)

def execHld4 (n : Nat) (rd rs : BitVec 5) (d : BitVec 14) (s : State) : Host.Outcome State Fault Refusal :=
  .next (gynHouseLoad 0x3A 4 n rd rs d s)

def execHst4 (n : Nat) (rd rs : BitVec 5) (d : BitVec 14) (s : State) : Host.Outcome State Fault Refusal :=
  .next (gynHouseStore 0x3B 4 n rd rs d s)

def execGo (n : Nat) (d : BitVec 24) (s : State) : Host.Outcome State Fault Refusal :=
  .next (gyn n (wordJ 0x40 d) s fun s => gynGoto s n (jumpTarget (s.seq n).pc d))

def execGot (n : Nat) (d : BitVec 24) (s : State) : Host.Outcome State Fault Refusal :=
  .next (gyn n (wordJ 0x41 d) s fun s => if (s.seq n).t then gynGoto s n (jumpTarget (s.seq n).pc d) else pcNext s n)

def execGof (n : Nat) (d : BitVec 24) (s : State) : Host.Outcome State Fault Refusal :=
  .next (gyn n (wordJ 0x42 d) s fun s => if (s.seq n).t then pcNext s n else gynGoto s n (jumpTarget (s.seq n).pc d))

def execCall (n : Nat) (d : BitVec 24) (s : State) : Host.Outcome State Fault Refusal :=
  .next (gyn n (wordJ 0x43 d) s fun s => gynCallTo s n (jumpTarget (s.seq n).pc d))

/-- GOR: an address that is not a multiple of 4 traps with MISALIGNED (R304). -/
def execGor (n : Nat) (rd rs : BitVec 5) (pad : BitVec 14) (s : State) : Host.Outcome State Fault Refusal :=
  .next (gyn n (wordP 0x44 rd rs pad) s fun s =>
    let a := ((s.seq n).reg rd.toNat).toNat
    if a % 4 ≠ 0 then trap s n 0x02 a (s.seq n).pc else gynGoto s n a)

def execCallr (n : Nat) (rd rs : BitVec 5) (pad : BitVec 14) (s : State) : Host.Outcome State Fault Refusal :=
  .next (gyn n (wordP 0x45 rd rs pad) s fun s =>
    let a := ((s.seq n).reg rd.toNat).toNat
    if a % 4 ≠ 0 then trap s n 0x02 a (s.seq n).pc else gynCallTo s n a)

/-- RET: with no entry held it traps with RSTACK and depth 0 (R301, Table 8-13). -/
def execRet (n : Nat) (rd rs : BitVec 5) (pad : BitVec 14) (s : State) : Host.Outcome State Fault Refusal :=
  .next (gyn n (wordP 0x46 rd rs pad) s fun s =>
    match (s.seq n).rstack with
    | [] => trap s n 0x0E 0 (s.seq n).pc
    | a :: r => s.modSeq n fun q => { q with rstack := r, pc := a })

/-- POST: rd[31:0] is raised at the supervisor as MAIL_IN with the source port (Tables 8-8 and 8-9). -/
def execPost (n : Nat) (rd rs : BitVec 5) (pad : BitVec 14) (s : State) : Host.Outcome State Fault Refusal :=
  .next (gyn n (wordP 0x51 rd rs pad) s fun s =>
    pcNext (raise s 64 (evWord 0x10 0 n 0 ((s.seq n).reg rd.toNat).toNat)) n)

/-- TRAP: cause SOFTWARE, BADADDR k19; EPC is the next instruction (R316). -/
def execTrap (n : Nat) (rd : BitVec 5) (k : BitVec 19) (s : State) : Host.Outcome State Fault Refusal :=
  .next (gyn n (wordK 0x52 rd k) s fun s => trap s n 0x0D k.toNat ((s.seq n).pc + 4))

def execRtt (n : Nat) (rd rs : BitVec 5) (pad : BitVec 14) (s : State) : Host.Outcome State Fault Refusal :=
  .next (gyn n (wordP 0x53 rd rs pad) s fun s => returnFromTrap s n)

def execTime (n : Nat) (rd rs : BitVec 5) (pad : BitVec 14) (s : State) : Host.Outcome State Fault Refusal :=
  .next (gyn n (wordP 0x54 rd rs pad) s fun s => setNext s n rd s.pwr.time)

/-- HSYNC: every earlier house store has taken effect, since a store takes effect as it is issued (R299). -/
def execHsync (n : Nat) (rd rs : BitVec 5) (pad : BitVec 14) (s : State) : Host.Outcome State Fault Refusal :=
  .next (gyn n (wordP 0x55 rd rs pad) s fun s => pcNext s n)

/-- The special registers of RDS (Table 8-7). -/
def specialReg (s : State) (n k : Nat) : Nat :=
  let q := s.seq n
  match k with
  | 0 => q.epc
  | 1 => q.cause
  | 2 => q.badaddr
  | 3 => n
  | 4 => b2n (gy1Level s n)
  | 5 => b2n q.savedT
  | 6 => q.rstack.length
  | _ => 0

def execRds (n : Nat) (rd : BitVec 5) (k : BitVec 19) (s : State) : Host.Outcome State Fault Refusal :=
  .next (gyn n (wordK 0x56 rd k) s fun s => setNext s n rd (BitVec.ofNat 64 (specialReg s n k.toNat)))

end Sys2Proof.Machine
end

