-- ==== Sys2Proof/Machine/Media.lean ====
section
/-!
DEFINITION. WAIT, the media instructions of a port sequencer (MISSUE, MCTL, ODONE) and the control of the sequencers from their
registers, with the watchdog (R305 to R324).
-/
namespace Sys2Proof.Machine

/-! ## WAIT -/

/-- WAIT rd, rs, k14 (R305): the oldest selected event is removed to rd, or the sequencer waits. A supervisor WAIT while
STD_PWR_MODE names a non-operational state enters that state (R306, R517); without VAUX PS4 and PS5 act as PS3 (R510). -/
def execWait (n : Nat) (rd rs : BitVec 5) (k : BitVec 14) (s : State) : Host.Outcome State Fault Refusal :=
  .next (gyn n (wordP 0x50 rd rs k) s fun s =>
    let mode := pwrMode s
    let q := s.seq n
    let t := (q.reg rs.toNat).toNat
    if n = 64 && mode ≠ 0 then
      let s := (pcNext s n).modSeq n fun q => { q with state := 2, wait := some { rd := rd.toNat, mask := 0, deadline := none } }
      enterNonop s (if s.pwr.vaux then mode else 3)
    else
      match takeFirst (evSelected n k.toNat) q.evq with
      | some (e, rest) => (setNext s n rd e).modSeq n fun q => ({ q with evq := rest }).refill
      | none =>
        (pcNext s n).modSeq n fun q => { q with
          state := 2, wait := some { rd := rd.toNat, mask := k.toNat, deadline := if t = 0 then none else some (s.pwr.time.toNat + t) } })

/-- The timeout of a pending WAIT passes: rd receives code 0x00, TIMEOUT (R305). (DEDUCED: log entry 36.) -/
def execWaitTimeout (n : Nat) (s : State) : Host.Outcome State Fault Refusal :=
  .next (s.modSeq n fun q =>
    match q.wait with
    | some { rd := rd, mask := _, deadline := some _ } => { q with wait := none, state := if q.state = 2 then 1 else q.state }.setReg rd (evWord 0x00 0)
    | _ => q)

/-! ## Command frames (R307, R308) -/

/-- The elements of a CYCLES field of `len` bytes at local address `a`. -/
def readCycles (s : State) (n a len : Nat) : List (Nat × Nat) :=
  (List.range (len / 2)).map fun j => (localRead s n (a + 2 * j) 1, localRead s n (a + 2 * j + 1) 1)

/-- CYC_LEN must be even, from 2 to 48. -/
def cycLenOk (len : Nat) : Bool := len % 2 = 0 && decide (2 ≤ len ∧ len ≤ 48)

/-- Whether an element is allowed in a data frame of a descriptor of `kind` (Table 8-11). -/
def elemOkData (kind planes pageBits : Nat) (verify : Bool) (e : Nat × Nat) : Bool :=
  match e.1 with
  | 0x01 => true
  | 0x03 => (kind = 1 || kind = 2) && decide (1 ≤ e.2 ∧ e.2 ≤ 2)
  | 0x04 => bitAt planes (e.2 / 64) && decide (1 ≤ e.2 % 16 ∧ e.2 % 16 ≤ 4) && pageBits ≠ 0
  | 0x06 => true
  | 0x07 => true
  | 0x08 => kind = 2 && decide (1 ≤ e.2 % 64 ∧ e.2 % 64 ≤ 16)
  | 0x09 => (kind = 1 || (kind = 2 && verify)) && decide (1 ≤ e.2 % 64 ∧ e.2 % 64 ≤ 16)
  | _ => false

/-- Whether an element is allowed in a control frame of `kind` 0x6 to 0x9 (Table 8-11). -/
def elemOkCtl (kind : Nat) (e : Nat × Nat) : Bool :=
  match e.1 with
  | 0x01 => true
  | 0x02 => true
  | 0x05 => kind = 8
  | 0x06 => true
  | 0x07 => true
  | 0x0A => kind = 7 && decide (1 ≤ e.2 ∧ e.2 ≤ 64)
  | _ => false

/-- Codewords that the elements of type `t` move. -/
def cwSum (t : Nat) (l : List (Nat × Nat)) : Nat := l.foldl (fun a e => if e.1 = t then a + e.2 % 64 else a) 0

/-- Address cycles, least significant byte first. -/
def addrCycles (v : Nat) : Nat → List (Nat × Nat)
  | 0 => []
  | k + 1 => (0x02, v % 256) :: addrCycles (v / 256) k

/-- COL and ROW elements replaced by address cycles, from the descriptor and CEL_SEQ_ROWFMT (R307). -/
def replaceAddr (s : State) (n : Nat) (op : DieOp) (l : List (Nat × Nat)) : List (Nat × Nat) :=
  let pb := s.rd (CEL_SEQ_ROWFMT.PAGE_BITS n)
  let lsb := s.rd (CEL_SEQ_ROWFMT.PLANE_LSB n)
  l.flatMap fun e =>
    match e.1 with
    | 0x03 => addrCycles (if op.kind = 1 then 4608 * op.cwFirst else 0) e.2
    | 0x04 => addrCycles (putBits op.block lsb 2 (e.2 / 64) * 2 ^ pb + op.page + e.2 / 16 % 4) (e.2 % 16)
    | _ => [e]

/-- MISSUE rd, rs (R308, R309): checks and sends one CMD frame for a descriptor, with the WDATA frames its elements name. -/
def execMissue (n : Nat) (rd rs : BitVec 5) (pad : BitVec 14) (s : State) : Host.Outcome State Fault Refusal :=
  .next (gyn n (wordP 0x60 rd rs pad) s fun s =>
    let q := s.seq n
    let i := (q.reg rd.toNat).toNat
    let a := (q.reg rs.toNat).toNat
    let st := descByte s n i 0 1
    if !localLoadOk n a || !localLoadOk n (a + 63) then trap s n 0x03 a q.pc
    else if portRetired s n then setNext s n rd 1
    else
      match Tbl.find q.descs i with
      | none => trap s n 0x09 i q.pc
      | some hw =>
        if hw.ended || st = 3 then setNext s n rd 2
        else if !(st = 1 || st = 2) then trap s n 0x09 i q.pc
        else if !diePresent s n hw.op.die then trap s n 0x08 hw.op.die q.pc
        else
          let len := localRead s n (a + 3) 1
          let els := readCycles s n (a + 0x10) len
          let w := cwSum 0x08 els
          let r := cwSum 0x09 els
          let total := if hw.op.kind = 2 then hw.cwSent + w else hw.cwSent + r
          if !cycLenOk len || els.any (fun e => !elemOkData hw.op.kind hw.op.planes (s.rd (CEL_SEQ_ROWFMT.PAGE_BITS n)) (recipeVerify s n i) e) ||
             cwBound s n i hw.op < total || cwBound s n i hw.op < r then trap s n 0x07 i q.pc
          else if hw.op.kind = 3 && !eraseAllowed s n hw.op then
            trap (endDesc s n i 4 .fail) n 0x0A i q.pc
          else if 4 ≤ hw.open_.length then s.modSeq n fun q => { q with state := 3 }
          else
            let bm := localRead s n (a + 0x0C) 4
            let bm := if bm = 0 then Tbl.readBytes q.ram 0 (0x2C08 + 64 * descByte s n i 0x10 1) 4 else bm
            let host := hw.op.isHost
            let f : TxFrame := { typ := 1, die := hw.op.die, tag := i, host := host, desc := some i,
                                 src := .cmd hw.op.kind hw.op.planes (w + r) hw.op.block hw.op.page bm (replaceAddr s n hw.op els) }
            let wd : List TxFrame := (List.range w).map fun j =>
              { typ := 2, die := hw.op.die, tag := i, cwIndex := hw.cwSent + j, last := hw.cwSent + j + 1 = hw.op.cwCount,
                src := .wdata (hw.op.slots.getD (hw.cwSent + j) 0), host := host, desc := some i }
            let s := s.modSeq n fun q => { q with descs := Tbl.put q.descs i { hw with
              cwSent := total, queued := hw.queued + 1, open_ := hw.open_ ++ [total] } }
            let s := setDescState s n i 2
            let s := s.modPort n fun p =>
              if host then { p with cmdHost := p.cmdHost ++ [f], wdHost := p.wdHost ++ wd }
              else { p with cmdBg := p.cmdBg ++ [f], wdBg := p.wdBg ++ wd }
            setNext s n rd 0)

/-- The first command byte of a control frame that CEL_SEQ_ARRAY_OPS lists (R308). -/
def arrayOp (s : State) (n : Nat) (els : List (Nat × Nat)) : Option Nat :=
  let valid := s.rd (CEL_SEQ_ROWFMT.ARRAY_VALID n)
  let ops := s.rd (CEL_SEQ_ARRAY_OPS.V n)
  (els.find? fun e => e.1 = 0x01 && (List.range 8).any fun j => bitAt valid j && bits ops (8 * j) 8 == e.2).map Prod.snd

/-- MCTL rd, rs (R308, R309): checks and sends one control frame. -/
def execMctl (n : Nat) (rd rs : BitVec 5) (pad : BitVec 14) (s : State) : Host.Outcome State Fault Refusal :=
  .next (gyn n (wordP 0x61 rd rs pad) s fun s =>
    let q := s.seq n
    let v := (q.reg rd.toNat).toNat
    let die := v % 16
    let kind := bits v 8 4
    let a := (q.reg rs.toNat).toNat
    if !localLoadOk n a || !localLoadOk n (a + 63) then trap s n 0x03 a q.pc
    else if portRetired s n then setNext s n rd 1
    else
      let len := localRead s n (a + 3) 1
      let els := readCycles s n (a + 0x10) len
      if kind < 6 || 9 < kind || !cycLenOk len || els.any (fun e => !elemOkCtl kind e) then trap s n 0x07 0xFF q.pc
      else if !diePresent s n die then trap s n 0x08 die q.pc
      else
        match arrayOp s n els with
        | some b => trap s n 0x0B b q.pc
        | none =>
          let p := s.port n
          let param := els.any fun e => e.1 == 0x0A
          if 8 ≤ (Tbl.getD p.dieQ die []).length + p.ctl.countP (fun c => c.die == die) || q.paramBusy then setNext s n rd 3
          else
            let tag := p.nextCtlTag
            let f : TxFrame := { typ := 1, die := die, tag := tag, host := true, desc := none,
                                 src := .cmd kind (localRead s n (a + 1) 1) (localRead s n (a + 2) 1) 0 0 (localRead s n (a + 0x0C) 4) els }
            let s := s.modPort n fun p => { p with
              cmdHost := p.cmdHost ++ [f], ctl := p.ctl ++ [{ die := die, kind := kind, tag := tag, param := param }],
              nextCtlTag := if tag = 127 then 64 else tag + 1 }
            let s := s.modSeq n fun q => { q with paramBusy := param }
            setNext s n rd 0)

/-- Whether ODONE PASS has been earned (R310). -/
def passEarned (s : State) (n i : Nat) (hw : DescHw) : Bool :=
  match hw.op.kind with
  | 1 => hw.xferDone
  | 2 => hw.passed && (!recipeVerify s n i || hw.verifyPass)
  | _ => hw.passed

/-- ODONE rd, rs (R310): the descriptor ends, the outcome goes to the engine that issued the operation, and the entry is freed. -/
def execOdone (n : Nat) (rd rs : BitVec 5) (pad : BitVec 14) (s : State) : Host.Outcome State Fault Refusal :=
  .next (gyn n (wordP 0x62 rd rs pad) s fun s =>
    let q := s.seq n
    let i := (q.reg rd.toNat).toNat
    let r := (q.reg rs.toNat).toNat
    if r = 0 || 3 < r then trap s n 0x07 i q.pc
    else
      match Tbl.find q.descs i with
      | none => trap s n 0x09 i q.pc
      | some hw =>
        if hw.ended then pcNext s n
        else if r = 1 && !passEarned s n i hw then trap s n 0x09 i q.pc
        else
          let s := releaseDesc s n i
          pcNext (opOutcome s n hw.op (if r = 1 then .pass else if r = 2 then .fail else .noStatus)) n)

/-! ## Control of the sequencers -/

/-- A descriptor out of state free for longer than LIMIT_MS since its grant, time suspended excluded (R317): OP_LIMIT is taken at once
outside a trap handler, and otherwise waits for the next boundary outside one; once per handover, and not while halted. -/
def execOpLimitExpiry (n i : Nat) (s : State) : Host.Outcome State Fault Refusal :=
  let q := s.seq n
  let limit := s.rd (CEL_SEQ_OPLIMIT.LIMIT_MS n)
  match Tbl.find q.descs i with
  | none => .next s
  | some hw =>
    let st := descByte s n i 0 1
    let susp := hw.suspTicks + (if st = 3 then s.pwr.time.toNat - hw.suspAt else 0)
    let run := s.pwr.time.toNat - descByte s n i 0x18 8 - susp
    if limit = 0 || st = 0 || hw.limitRaised || q.state = 4 || run * 1024 ≤ limit * 100000000 then .next s
    else
      let s := s.modSeq n fun q => { q with descs := Tbl.upd q.descs i fun h => { h with limitRaised := true } }
      if q.state = 1 && !q.inTrap then .next (trap s n 0x0C i q.pc)
      else .next (s.modSeq n fun q => { q with limitPend := q.limitPend ++ [i] })

/-- Whether the watchdog counts: the supervisor runs in PS0 to PS2 (R320). -/
def watchdogCounts (s : State) : Bool := !s.pwr.por && (s.pwr.st = .ps0 || s.pwr.st = .ps1 || s.pwr.st = .ps2)

/-- One period without a kick: WDOG is raised and WDOG_WARN set (R320). -/
def execWatchdogFirstExpiry (s : State) : Host.Outcome State Fault Refusal :=
  .next (if watchdogCounts s && !s.on STD_SUP_STATUS.WDOG_WARN then
      raise (s.set1 STD_SUP_STATUS.WDOG_WARN) 64 (evWord 0x16 0)
    else s)

/-- A second period without a kick: the watchdog reset (R320). -/
def execWatchdogReset (s : State) : Host.Outcome State Fault Refusal :=
  .next (if watchdogCounts s && s.on STD_SUP_STATUS.WDOG_WARN then watchdogReset s 1 else s)

end Sys2Proof.Machine
end

