-- ==== Sys2Proof/Machine/Dispatch.lean ====
section
/-!
DEFINITION. One arm for each command: its meaning.
-/
namespace Sys2Proof.Machine

def exec (i : Instr) (s : State) : Host.Outcome State Fault Refusal :=
  match i with
  | .powerOnResetRelease => Sys2Proof.Machine.execPowerOnResetRelease s
  | .mainSupplyDrop sup => Sys2Proof.Machine.execMainSupplyDrop sup s
  | .vauxLoss => Sys2Proof.Machine.execVauxLoss s
  | .registerWrite who a v => Sys2Proof.Machine.execRegisterWrite who a v s
  | .bar2MemoryWrite p a len v => Sys2Proof.Machine.execBar2MemoryWrite p a len v s
  | .bar2MemoryRead p a len => Sys2Proof.Machine.execBar2MemoryRead p a len s
  | .fabricWordArrival link input d t m sill => Sys2Proof.Machine.execFabricWordArrival link input d t m sill s
  | .outputLinkArbitration link ctl data => Sys2Proof.Machine.execOutputLinkArbitration link ctl data s
  | .pwrfailAssert => Sys2Proof.Machine.execPwrfailAssert s
  | .pwrfailDeassert => Sys2Proof.Machine.execPwrfailDeassert s
  | .pwrfailReleaseExpiry => Sys2Proof.Machine.execPwrfailReleaseExpiry s
  | .dumpDirectoryPass => Sys2Proof.Machine.execDumpDirectoryPass s
  | .mediaArbiterWindowEnd n => Sys2Proof.Machine.execMediaArbiterWindowEnd n s
  | .dieSchedulerEnqueue n => Sys2Proof.Machine.execDieSchedulerEnqueue n s
  | .hostLinkUp p rate width flit => Sys2Proof.Machine.execHostLinkUp p rate width flit s
  | .tlpReceive p seq crcOk flit poison tag => Sys2Proof.Machine.execTlpReceive p seq crcOk flit poison tag s
  | .configRequest p => Sys2Proof.Machine.execConfigRequest p s
  | .hostReadCompletion n unit data md guardOk appOk refOk bad => Sys2Proof.Machine.execHostReadCompletion n unit data md guardOk appOk refOk bad s
  | .completionTimeoutExpiry n unit => Sys2Proof.Machine.execCompletionTimeoutExpiry n unit s
  | .unexpectedCompletion p tag => Sys2Proof.Machine.execUnexpectedCompletion p tag s
  | .dmaDrainComplete c => Sys2Proof.Machine.execDmaDrainComplete c s
  | .doorbellWrite p qid cq v => Sys2Proof.Machine.execDoorbellWrite p qid cq v s
  | .msixVectorUnmask p v => Sys2Proof.Machine.execMsixVectorUnmask p v s
  | .busMasterEnableClear p => Sys2Proof.Machine.execBusMasterEnableClear p s
  | .perstAssert p => Sys2Proof.Machine.execPerstAssert p s
  | .perstDeassert p => Sys2Proof.Machine.execPerstDeassert p s
  | .hotReset p => Sys2Proof.Machine.execHotReset p s
  | .functionLevelReset p => Sys2Proof.Machine.execFunctionLevelReset p s
  | .controllerReset p => Sys2Proof.Machine.execControllerReset p s
  | .controllerEnable p wrr asqs acqs => Sys2Proof.Machine.execControllerEnable p wrr asqs acqs s
  | .shutdownNotification p => Sys2Proof.Machine.execShutdownNotification p s
  | .d3hotEntry p => Sys2Proof.Machine.execD3hotEntry p s
  | .d0Return p => Sys2Proof.Machine.execD0Return p s
  | .aspmIdleExpiry p => Sys2Proof.Machine.execAspmIdleExpiry p s
  | .submissionFetch p sq cid cmd => Sys2Proof.Machine.execSubmissionFetch p sq cid cmd s
  | .larderReservationGrant k => Sys2Proof.Machine.execLarderReservationGrant k s
  | .unitCommit n ext => Sys2Proof.Machine.execUnitCommit n ext s
  | .readerResolve n => Sys2Proof.Machine.execReaderResolve n s
  | .completionPost n => Sys2Proof.Machine.execCompletionPost n s
  | .unsupportedOpcode n => Sys2Proof.Machine.execUnsupportedOpcode n s
  | .deleteIoSubmissionQueue n => Sys2Proof.Machine.execDeleteIoSubmissionQueue n s
  | .createIoSubmissionQueue n => Sys2Proof.Machine.execCreateIoSubmissionQueue n s
  | .deleteIoCompletionQueue n => Sys2Proof.Machine.execDeleteIoCompletionQueue n s
  | .createIoCompletionQueue n => Sys2Proof.Machine.execCreateIoCompletionQueue n s
  | .getLogPage n => Sys2Proof.Machine.execGetLogPage n s
  | .getLogPageDeferredErrors n => Sys2Proof.Machine.execGetLogPageDeferredErrors n s
  | .identify n => Sys2Proof.Machine.execIdentify n s
  | .abort n => Sys2Proof.Machine.execAbort n s
  | .getFeatures n => Sys2Proof.Machine.execGetFeatures n s
  | .setFeaturesArbitration n => Sys2Proof.Machine.execSetFeaturesArbitration n s
  | .setFeaturesPowerManagement n => Sys2Proof.Machine.execSetFeaturesPowerManagement n s
  | .setFeaturesTempThreshold n => Sys2Proof.Machine.execSetFeaturesTempThreshold n s
  | .setFeaturesErrorRecovery n => Sys2Proof.Machine.execSetFeaturesErrorRecovery n s
  | .setFeaturesVolatileWriteCache n => Sys2Proof.Machine.execSetFeaturesVolatileWriteCache n s
  | .setFeaturesNumberOfQueues n => Sys2Proof.Machine.execSetFeaturesNumberOfQueues n s
  | .setFeaturesInterruptCoalescing n => Sys2Proof.Machine.execSetFeaturesInterruptCoalescing n s
  | .setFeaturesIntVectorConfig n => Sys2Proof.Machine.execSetFeaturesIntVectorConfig n s
  | .setFeaturesWriteAtomicity n => Sys2Proof.Machine.execSetFeaturesWriteAtomicity n s
  | .setFeaturesAsyncEventConfig n => Sys2Proof.Machine.execSetFeaturesAsyncEventConfig n s
  | .setFeaturesApst n => Sys2Proof.Machine.execSetFeaturesApst n s
  | .setFeaturesTimestamp n => Sys2Proof.Machine.execSetFeaturesTimestamp n s
  | .setFeaturesNopsConfig n => Sys2Proof.Machine.execSetFeaturesNopsConfig n s
  | .setFeaturesFdp n => Sys2Proof.Machine.execSetFeaturesFdp n s
  | .setFeaturesFdpEvents n => Sys2Proof.Machine.execSetFeaturesFdpEvents n s
  | .setFeaturesSwProgressMarker n => Sys2Proof.Machine.execSetFeaturesSwProgressMarker n s
  | .asynchronousEventRequest n => Sys2Proof.Machine.execAsynchronousEventRequest n s
  | .namespaceManagement n => Sys2Proof.Machine.execNamespaceManagement n s
  | .namespaceAttachment n => Sys2Proof.Machine.execNamespaceAttachment n s
  | .firmwareImageDownload n => Sys2Proof.Machine.execFirmwareImageDownload n s
  | .fwCommitReplace n => Sys2Proof.Machine.execFwCommitReplace n s
  | .fwCommitReplaceActivateReset n => Sys2Proof.Machine.execFwCommitReplaceActivateReset n s
  | .fwCommitActivateExisting n => Sys2Proof.Machine.execFwCommitActivateExisting n s
  | .fwCommitActivateNow n => Sys2Proof.Machine.execFwCommitActivateNow n s
  | .activationDrainComplete => Sys2Proof.Machine.execActivationDrainComplete s
  | .activationDrainTimeout => Sys2Proof.Machine.execActivationDrainTimeout s
  | .deviceSelfTestShort n => Sys2Proof.Machine.execDeviceSelfTestShort n s
  | .deviceSelfTestExtended n => Sys2Proof.Machine.execDeviceSelfTestExtended n s
  | .deviceSelfTestAbort n => Sys2Proof.Machine.execDeviceSelfTestAbort n s
  | .directiveSend n => Sys2Proof.Machine.execDirectiveSend n s
  | .directiveReceive n => Sys2Proof.Machine.execDirectiveReceive n s
  | .formatNvm n => Sys2Proof.Machine.execFormatNvm n s
  | .securitySend n => Sys2Proof.Machine.execSecuritySend n s
  | .securityReceive n => Sys2Proof.Machine.execSecurityReceive n s
  | .sanitizeCryptoErase n => Sys2Proof.Machine.execSanitizeCryptoErase n s
  | .sanitizeBlockErase n => Sys2Proof.Machine.execSanitizeBlockErase n s
  | .getLbaStatus n => Sys2Proof.Machine.execGetLbaStatus n s
  | .atticClear n => Sys2Proof.Machine.execAtticClear n s
  | .stairControlFence n => Sys2Proof.Machine.execStairControlFence n s
  | .stairControlReadmit n => Sys2Proof.Machine.execStairControlReadmit n s
  | .stairControlActivate n => Sys2Proof.Machine.execStairControlActivate n s
  | .flush n => Sys2Proof.Machine.execFlush n s
  | .write n => Sys2Proof.Machine.execWrite n s
  | .read n => Sys2Proof.Machine.execRead n s
  | .writeUncorrectable n => Sys2Proof.Machine.execWriteUncorrectable n s
  | .compare n => Sys2Proof.Machine.execCompare n s
  | .writeZeroes n => Sys2Proof.Machine.execWriteZeroes n s
  | .datasetManagement n => Sys2Proof.Machine.execDatasetManagement n s
  | .verify n => Sys2Proof.Machine.execVerify n s
  | .ioManagementReceive n => Sys2Proof.Machine.execIoManagementReceive n s
  | .ioManagementSend n => Sys2Proof.Machine.execIoManagementSend n s
  | .copy n => Sys2Proof.Machine.execCopy n s
  | .hallReportIdle => Sys2Proof.Machine.execHallReportIdle s
  | .apstIdleExpiry p entry => Sys2Proof.Machine.execApstIdleExpiry p entry s
  | .fetchEnableSet => Sys2Proof.Machine.execFetchEnableSet s
  | .drainRequest => Sys2Proof.Machine.execDrainRequest s
  | .backgroundHold v => Sys2Proof.Machine.execBackgroundHold v s
  | .overlayEmission tag => Sys2Proof.Machine.execOverlayEmission tag s
  | .journalBatchClose => Sys2Proof.Machine.execJournalBatchClose s
  | .journalBatchDurable copy => Sys2Proof.Machine.execJournalBatchDurable copy s
  | .checkpointSegmentCopy => Sys2Proof.Machine.execCheckpointSegmentCopy s
  | .consolidationCommit suite base => Sys2Proof.Machine.execConsolidationCommit suite base s
  | .relocationCommit nsid first count suite0 unit0 suite1 unit1 => Sys2Proof.Machine.execRelocationCommit nsid first count suite0 unit0 suite1 unit1 s
  | .cacheFillComplete la => Sys2Proof.Machine.execCacheFillComplete la s
  | .cacheWritebackComplete la => Sys2Proof.Machine.execCacheWritebackComplete la s
  | .panMaintClean la => Sys2Proof.Machine.execPanMaintClean la s
  | .panMaintInv la => Sys2Proof.Machine.execPanMaintInv la s
  | .panMaintCleanInv la => Sys2Proof.Machine.execPanMaintCleanInv la s
  | .panMaintCleanAll => Sys2Proof.Machine.execPanMaintCleanAll s
  | .panInvAll => Sys2Proof.Machine.execPanInvAll s
  | .pantryEnable => Sys2Proof.Machine.execPantryEnable s
  | .pantryDisable => Sys2Proof.Machine.execPantryDisable s
  | .mapSegmentRepair seg copyOk prevOk => Sys2Proof.Machine.execMapSegmentRepair seg copyOk prevOk s
  | .eraseMarkAppend suite => Sys2Proof.Machine.execEraseMarkAppend suite s
  | .recovery step hole badSegs dump => Sys2Proof.Machine.execRecovery step hole badSegs dump s
  | .rebuildComplete f row member => Sys2Proof.Machine.execRebuildComplete f row member s
  | .larderSlotUe slot => Sys2Proof.Machine.execLarderSlotUe slot s
  | .paritySlotUe slot => Sys2Proof.Machine.execParitySlotUe slot s
  | .supplyDroop group => Sys2Proof.Machine.execSupplyDroop group s
  | .droopClearExpiry group => Sys2Proof.Machine.execDroopClearExpiry group s
  | .inhibitLongExpiry n die => Sys2Proof.Machine.execInhibitLongExpiry n die s
  | .tempInhibitSuiteExpiry n die => Sys2Proof.Machine.execTempInhibitSuiteExpiry n die s
  | .holdupOkChange v => Sys2Proof.Machine.execHoldupOkChange v s
  | .wtForceSet v => Sys2Proof.Machine.execWtForceSet v s
  | .dumpArmSet v => Sys2Proof.Machine.execDumpArmSet v s
  | .larderEnable v => Sys2Proof.Machine.execLarderEnable v s
  | .larderDrain => Sys2Proof.Machine.execLarderDrain s
  | .ldrBankRetire v => Sys2Proof.Machine.execLdrBankRetire v s
  | .rdataFrame n h param => Sys2Proof.Machine.execRdataFrame n h param s
  | .statusFrame n h code sr busyUs => Sys2Proof.Machine.execStatusFrame n h code sr busyUs s
  | .ackFrame n h => Sys2Proof.Machine.execAckFrame n h s
  | .eventFrame n h sev die code d0 d1 d2 => Sys2Proof.Machine.execEventFrame n h sev die code d0 d1 d2 s
  | .hello n h verMax vendor part rev dies dataCr cmdCr => Sys2Proof.Machine.execHello n h verMax vendor part rev dies dataCr cmdCr s
  | .switch n h ver => Sys2Proof.Machine.execSwitch n h ver s
  | .eqReq n h preset => Sys2Proof.Machine.execEqReq n h preset s
  | .eqRsp n h errs localErrs => Sys2Proof.Machine.execEqRsp n h errs localErrs s
  | .retrainReq n h cause => Sys2Proof.Machine.execRetrainReq n h cause s
  | .recalDone n h => Sys2Proof.Machine.execRecalDone n h s
  | .tempRsp n h die half valid => Sys2Proof.Machine.execTempRsp n h die half valid s
  | .ackTimerExpiry n => Sys2Proof.Machine.execAckTimerExpiry n s
  | .replayTimerExpiry n => Sys2Proof.Machine.execReplayTimerExpiry n s
  | .transmitFrameBoundary n => Sys2Proof.Machine.execTransmitFrameBoundary n s
  | .portTrain n => Sys2Proof.Machine.execPortTrain n s
  | .detectTimeout n => Sys2Proof.Machine.execDetectTimeout n s
  | .trainingTimeout n => Sys2Proof.Machine.execTrainingTimeout n s
  | .recalibrationDue n => Sys2Proof.Machine.execRecalibrationDue n s
  | .recalTimeout n => Sys2Proof.Machine.execRecalTimeout n s
  | .retrainTimeout n => Sys2Proof.Machine.execRetrainTimeout n s
  | .receiveLockLoss n => Sys2Proof.Machine.execReceiveLockLoss n s
  | .portRetrain n => Sys2Proof.Machine.execPortRetrain n s
  | .portRecal n => Sys2Proof.Machine.execPortRecal n s
  | .portRetire n cause => Sys2Proof.Machine.execPortRetire n cause s
  | .portHold n v => Sys2Proof.Machine.execPortHold n v s
  | .noStatusTimeout n slot => Sys2Proof.Machine.execNoStatusTimeout n slot s
  | .tempPoll => Sys2Proof.Machine.execTempPoll s
  | .refclkOutputCtl v => Sys2Proof.Machine.execRefclkOutputCtl v s
  | .descriptorHandover n die => Sys2Proof.Machine.execDescriptorHandover n die s
  | .mov n rd rs pad => Sys2Proof.Machine.execMov n rd rs pad s
  | .add n rd rs pad => Sys2Proof.Machine.execAdd n rd rs pad s
  | .sub n rd rs pad => Sys2Proof.Machine.execSub n rd rs pad s
  | .and_ n rd rs pad => Sys2Proof.Machine.execAnd n rd rs pad s
  | .or_ n rd rs pad => Sys2Proof.Machine.execOr n rd rs pad s
  | .xor_ n rd rs pad => Sys2Proof.Machine.execXor n rd rs pad s
  | .shl n rd rs pad => Sys2Proof.Machine.execShl n rd rs pad s
  | .shr n rd rs pad => Sys2Proof.Machine.execShr n rd rs pad s
  | .sar n rd rs pad => Sys2Proof.Machine.execSar n rd rs pad s
  | .mul n rd rs pad => Sys2Proof.Machine.execMul n rd rs pad s
  | .mulhu n rd rs pad => Sys2Proof.Machine.execMulhu n rd rs pad s
  | .min n rd rs pad => Sys2Proof.Machine.execMin n rd rs pad s
  | .max n rd rs pad => Sys2Proof.Machine.execMax n rd rs pad s
  | .cnt n rd rs pad => Sys2Proof.Machine.execCnt n rd rs pad s
  | .lzc n rd rs pad => Sys2Proof.Machine.execLzc n rd rs pad s
  | .ldk n rd k => Sys2Proof.Machine.execLdk n rd k s
  | .putk n rd k => Sys2Proof.Machine.execPutk n rd k s
  | .addk n rd k => Sys2Proof.Machine.execAddk n rd k s
  | .andk n rd k => Sys2Proof.Machine.execAndk n rd k s
  | .ork n rd k => Sys2Proof.Machine.execOrk n rd k s
  | .xork n rd k => Sys2Proof.Machine.execXork n rd k s
  | .shlk n rd k => Sys2Proof.Machine.execShlk n rd k s
  | .shrk n rd k => Sys2Proof.Machine.execShrk n rd k s
  | .sark n rd k => Sys2Proof.Machine.execSark n rd k s
  | .teq n rd rs pad => Sys2Proof.Machine.execTeq n rd rs pad s
  | .tne n rd rs pad => Sys2Proof.Machine.execTne n rd rs pad s
  | .tlt n rd rs pad => Sys2Proof.Machine.execTlt n rd rs pad s
  | .tge n rd rs pad => Sys2Proof.Machine.execTge n rd rs pad s
  | .tltu n rd rs pad => Sys2Proof.Machine.execTltu n rd rs pad s
  | .tgeu n rd rs pad => Sys2Proof.Machine.execTgeu n rd rs pad s
  | .teqk n rd k => Sys2Proof.Machine.execTeqk n rd k s
  | .tnek n rd k => Sys2Proof.Machine.execTnek n rd k s
  | .tltk n rd k => Sys2Proof.Machine.execTltk n rd k s
  | .tgek n rd k => Sys2Proof.Machine.execTgek n rd k s
  | .tbit n rd k => Sys2Proof.Machine.execTbit n rd k s
  | .ld8 n rd rs d => Sys2Proof.Machine.execLd8 n rd rs d s
  | .ld4 n rd rs d => Sys2Proof.Machine.execLd4 n rd rs d s
  | .ld2 n rd rs d => Sys2Proof.Machine.execLd2 n rd rs d s
  | .ld1 n rd rs d => Sys2Proof.Machine.execLd1 n rd rs d s
  | .st8 n rd rs d => Sys2Proof.Machine.execSt8 n rd rs d s
  | .st4 n rd rs d => Sys2Proof.Machine.execSt4 n rd rs d s
  | .st2 n rd rs d => Sys2Proof.Machine.execSt2 n rd rs d s
  | .st1 n rd rs d => Sys2Proof.Machine.execSt1 n rd rs d s
  | .hld8 n rd rs d => Sys2Proof.Machine.execHld8 n rd rs d s
  | .hst8 n rd rs d => Sys2Proof.Machine.execHst8 n rd rs d s
  | .hld4 n rd rs d => Sys2Proof.Machine.execHld4 n rd rs d s
  | .hst4 n rd rs d => Sys2Proof.Machine.execHst4 n rd rs d s
  | .go n d => Sys2Proof.Machine.execGo n d s
  | .got n d => Sys2Proof.Machine.execGot n d s
  | .gof n d => Sys2Proof.Machine.execGof n d s
  | .call n d => Sys2Proof.Machine.execCall n d s
  | .gor n rd rs pad => Sys2Proof.Machine.execGor n rd rs pad s
  | .callr n rd rs pad => Sys2Proof.Machine.execCallr n rd rs pad s
  | .ret n rd rs pad => Sys2Proof.Machine.execRet n rd rs pad s
  | .wait n rd rs k => Sys2Proof.Machine.execWait n rd rs k s
  | .post n rd rs pad => Sys2Proof.Machine.execPost n rd rs pad s
  | .trap n rd k => Sys2Proof.Machine.execTrap n rd k s
  | .rtt n rd rs pad => Sys2Proof.Machine.execRtt n rd rs pad s
  | .time n rd rs pad => Sys2Proof.Machine.execTime n rd rs pad s
  | .hsync n rd rs pad => Sys2Proof.Machine.execHsync n rd rs pad s
  | .rds n rd k => Sys2Proof.Machine.execRds n rd k s
  | .missue n rd rs pad => Sys2Proof.Machine.execMissue n rd rs pad s
  | .mctl n rd rs pad => Sys2Proof.Machine.execMctl n rd rs pad s
  | .odone n rd rs pad => Sys2Proof.Machine.execOdone n rd rs pad s
  | .opLimitExpiry n slot => Sys2Proof.Machine.execOpLimitExpiry n slot s
  | .sequencerRun n v => Sys2Proof.Machine.execSequencerRun n v s
  | .sequencerHalt n v => Sys2Proof.Machine.execSequencerHalt n v s
  | .sequencerRestart n => Sys2Proof.Machine.execSequencerRestart n s
  | .seqLoadData n v => Sys2Proof.Machine.execSeqLoadData n v s
  | .seqMail n v => Sys2Proof.Machine.execSeqMail n v s
  | .watchdogKick v => Sys2Proof.Machine.execWatchdogKick v s
  | .watchdogFirstExpiry => Sys2Proof.Machine.execWatchdogFirstExpiry s
  | .watchdogReset => Sys2Proof.Machine.execWatchdogReset s
  | .hardDecodeDone n slot cw ok ones zeros weight data md probe => Sys2Proof.Machine.execHardDecodeDone n slot cw ok ones zeros weight data md probe s
  | .softAdmissionCredit => Sys2Proof.Machine.execSoftAdmissionCredit s
  | .softJobAdmit => Sys2Proof.Machine.execSoftJobAdmit s
  | .softDecodeDone n slot cw ok ones zeros data md => Sys2Proof.Machine.execSoftDecodeDone n slot cw ok ones zeros data md s
  | .stripeRecoveryDone id => Sys2Proof.Machine.execStripeRecoveryDone id s
  | .calibration n die group => Sys2Proof.Machine.execCalibration n die group s
  | .calibrationDone n die group valley ok => Sys2Proof.Machine.execCalibrationDone n die group valley ok s
  | .tlerExpiry n => Sys2Proof.Machine.execTlerExpiry n s
  | .pacedReadRelease n hp guardOk appOk refOk bad host => Sys2Proof.Machine.execPacedReadRelease n hp guardOk appOk refOk bad host s
  | .calRequest n die => Sys2Proof.Machine.execCalRequest n die s
  | .reclaimVictimChoice rg => Sys2Proof.Machine.execReclaimVictimChoice rg s
  | .suiteEraseDone suite => Sys2Proof.Machine.execSuiteEraseDone suite s
  | .eraseFail suite member => Sys2Proof.Machine.execEraseFail suite member s
  | .staticWearDue rg => Sys2Proof.Machine.execStaticWearDue rg s
  | .patrolRead => Sys2Proof.Machine.execPatrolRead s
  | .patrolLateExpiry => Sys2Proof.Machine.execPatrolLateExpiry s
  | .retentionAgeExpiry suite => Sys2Proof.Machine.execRetentionAgeExpiry suite s
  | .openMaxExpiry suite => Sys2Proof.Machine.execOpenMaxExpiry suite s
  | .foldRow suite => Sys2Proof.Machine.execFoldRow suite s
  | .consolidationStep => Sys2Proof.Machine.execConsolidationStep s
  | .ledgerWalkLost n => Sys2Proof.Machine.execLedgerWalkLost n s
  | .lifetimeCountUpdate => Sys2Proof.Machine.execLifetimeCountUpdate s
  | .suiteIdxWrite v => Sys2Proof.Machine.execSuiteIdxWrite v s
  | .dramBurstRead a second cell bus content => Sys2Proof.Machine.execDramBurstRead a second cell bus content s
  | .sramSweep arr word st sm ss poison => Sys2Proof.Machine.execSramSweep arr word st sm ss poison s
  | .scrubRead cell bus content => Sys2Proof.Machine.execScrubRead cell bus content s
  | .scrubLateExpiry => Sys2Proof.Machine.execScrubLateExpiry s
  | .dramClear => Sys2Proof.Machine.execDramClear s
  | .dramClearDone => Sys2Proof.Machine.execDramClearDone s
  | .subchannelRetire k => Sys2Proof.Machine.execSubchannelRetire k s
  | .ddrAlert k same => Sys2Proof.Machine.execDdrAlert k same s
  | .subchannelRetrainTimeout k => Sys2Proof.Machine.execSubchannelRetrainTimeout k s
  | .subchannelRetrainDone k => Sys2Proof.Machine.execSubchannelRetrainDone k s
  | .bsmRemapWrite j v => Sys2Proof.Machine.execBsmRemapWrite j v s
  | .remapCopyDone j => Sys2Proof.Machine.execRemapCopyDone j s
  | .contextStoreUe n => Sys2Proof.Machine.execContextStoreUe n s
  | .stgLockAcquire own => Sys2Proof.Machine.execStgLockAcquire own s
  | .stgLockRelease own => Sys2Proof.Machine.execStgLockRelease own s
  | .kmeLockTimeout => Sys2Proof.Machine.execKmeLockTimeout s
  | .unwrapLoad own kind nsid range auth slot cred => Sys2Proof.Machine.execUnwrapLoad own kind nsid range auth slot cred s
  | .generate own kind nsid range auth slot cred => Sys2Proof.Machine.execGenerate own kind nsid range auth slot cred s
  | .rewrap own nsid range auth cred newAuth newCred => Sys2Proof.Machine.execRewrap own nsid range auth cred newAuth newCred s
  | .zeroise own slot => Sys2Proof.Machine.execZeroise own slot s
  | .eraseStale own => Sys2Proof.Machine.execEraseStale own s
  | .seedReplace own => Sys2Proof.Machine.execSeedReplace own s
  | .verifyImage own loc => Sys2Proof.Machine.execVerifyImage own loc s
  | .sign own digest key => Sys2Proof.Machine.execSign own digest key s
  | .genNote own nsid gen => Sys2Proof.Machine.execGenNote own nsid gen s
  | .kmeOperationDone sigOk => Sys2Proof.Machine.execKmeOperationDone sigOk s
  | .entropyHealthFail => Sys2Proof.Machine.execEntropyHealthFail s
  | .tamperTrip bit => Sys2Proof.Machine.execTamperTrip bit s
  | .jtagUnlock ok => Sys2Proof.Machine.execJtagUnlock ok s
  | .getVersion ep => Sys2Proof.Machine.execGetVersion ep s
  | .getCapabilities ep ver => Sys2Proof.Machine.execGetCapabilities ep ver s
  | .negotiateAlgorithms ep p384 sha384 => Sys2Proof.Machine.execNegotiateAlgorithms ep p384 sha384 s
  | .getDigests ep => Sys2Proof.Machine.execGetDigests ep s
  | .getCertificate ep slot off len => Sys2Proof.Machine.execGetCertificate ep slot off len s
  | .challenge ep slot nonce => Sys2Proof.Machine.execChallenge ep slot nonce s
  | .getMeasurements ep index nonce sign => Sys2Proof.Machine.execGetMeasurements ep index nonce sign s
  | .chunkGet ep seq => Sys2Proof.Machine.execChunkGet ep seq s
  | .closetProgram => Sys2Proof.Machine.execClosetProgram s
  | .closetErase => Sys2Proof.Machine.execClosetErase s
  | .closetMarginRead => Sys2Proof.Machine.execClosetMarginRead s
  | .closetOperationDone pulses ok => Sys2Proof.Machine.execClosetOperationDone pulses ok s
  | .cloWpSet k v => Sys2Proof.Machine.execCloWpSet k v s
  | .stdConfirm v => Sys2Proof.Machine.execStdConfirm v s
  | .confirmationTimeout => Sys2Proof.Machine.execConfirmationTimeout s
  | .bootSlotChoice => Sys2Proof.Machine.execBootSlotChoice s
  | .mgmtMessage buf => Sys2Proof.Machine.execMgmtMessage buf s
  | .linkWake port => Sys2Proof.Machine.execLinkWake port s
  | .wakeTimerExpiry => Sys2Proof.Machine.execWakeTimerExpiry s
  | .i3cStaticAddressStart => Sys2Proof.Machine.execI3cStaticAddressStart s
  | .pllEnable => Sys2Proof.Machine.execPllEnable s
  | .pllLock => Sys2Proof.Machine.execPllLock s
  | .clockSelect => Sys2Proof.Machine.execClockSelect s
  | .stdDomainEnWrite v => Sys2Proof.Machine.execStdDomainEnWrite v s
  | .stdPadRelease => Sys2Proof.Machine.execStdPadRelease s
  | .refclkLoss => Sys2Proof.Machine.execRefclkLoss s
  | .lsoCorrection ticks corr => Sys2Proof.Machine.execLsoCorrection ticks corr s
  | .sensorConversion sensor raw reading => Sys2Proof.Machine.execSensorConversion sensor raw reading s
  | .thermalStepRecompute => Sys2Proof.Machine.execThermalStepRecompute s
  | .powerGovernorTick power => Sys2Proof.Machine.execPowerGovernorTick power s
  | .portStepRecompute => Sys2Proof.Machine.execPortStepRecompute s
  | .shutdownLatchClear => Sys2Proof.Machine.execShutdownLatchClear s
  | .operatingTimeRecord => Sys2Proof.Machine.execOperatingTimeRecord s
  | .atcPostGo who code sev => Sys2Proof.Machine.execAtcPostGo who code sev s
  | .operatingSecondEnd => Sys2Proof.Machine.execOperatingSecondEnd s
  | .atticMirrorProgram => Sys2Proof.Machine.execAtticMirrorProgram s
  | .fullModePageProgram => Sys2Proof.Machine.execFullModePageProgram s
  | .atcWinCursorWrite who w seq => Sys2Proof.Machine.execAtcWinCursorWrite who w seq s
  | .windowLatchDone w unreadable => Sys2Proof.Machine.execWindowLatchDone w unreadable s
  | .atticCopyMove which => Sys2Proof.Machine.execAtticCopyMove which s
  | .inServiceTestItem item unit detail yielded passed => Sys2Proof.Machine.execInServiceTestItem item unit detail yielded passed s
  | .dstSegment passed lba => Sys2Proof.Machine.execDstSegment passed lba s
  | .dstLimitExpiry => Sys2Proof.Machine.execDstLimitExpiry s
  | .sjoin n h r => Sys2Proof.Machine.execSjoin n h r s
  | .sjoinRsp n h r => Sys2Proof.Machine.execSjoinRsp n h r s
  | .sreqRead n h r => Sys2Proof.Machine.execSreqRead n h r s
  | .sreqWrite n h r => Sys2Proof.Machine.execSreqWrite n h r s
  | .sreqDeallocate n h r => Sys2Proof.Machine.execSreqDeallocate n h r s
  | .sreqWriteZeroes n h r => Sys2Proof.Machine.execSreqWriteZeroes n h r s
  | .sreqWriteUncorrectable n h r => Sys2Proof.Machine.execSreqWriteUncorrectable n h r s
  | .sreqFlush n h r => Sys2Proof.Machine.execSreqFlush n h r s
  | .sreqNamespaceOperation n h r => Sys2Proof.Machine.execSreqNamespaceOperation n h r s
  | .sreqVerify n h r => Sys2Proof.Machine.execSreqVerify n h r s
  | .sdata n h d md => Sys2Proof.Machine.execSdata n h d md s
  | .sdoneCommitted n h d => Sys2Proof.Machine.execSdoneCommitted n h d s
  | .sdoneSettled n h d => Sys2Proof.Machine.execSdoneSettled n h d s
  | .stimeSend => Sys2Proof.Machine.execStimeSend s
  | .stime n h t => Sys2Proof.Machine.execStime n h t s
  | .sevent n h e => Sys2Proof.Machine.execSevent n h e s
  | .sact n h a => Sys2Proof.Machine.execSact n h a s
  | .stimeLossExpiry w => Sys2Proof.Machine.execStimeLossExpiry w s
  | .sjoinRetryExpiry w => Sys2Proof.Machine.execSjoinRetryExpiry w s
  | .stairResendDeadline w => Sys2Proof.Machine.execStairResendDeadline w s
  | .doneTableExpiry => Sys2Proof.Machine.execDoneTableExpiry s
  | .fenceUnsettledExpiry w => Sys2Proof.Machine.execFenceUnsettledExpiry w s
  | .activationRollbackExpiry => Sys2Proof.Machine.execActivationRollbackExpiry s
  | .entdaa addr => Sys2Proof.Machine.execEntdaa addr s
  | .bypass => Sys2Proof.Machine.execBypass s
  | .idcode => Sys2Proof.Machine.execIdcode s
  | .samplePreload v => Sys2Proof.Machine.execSamplePreload v s
  | .extest => Sys2Proof.Machine.execExtest s
  | .extestPulse => Sys2Proof.Machine.execExtestPulse s
  | .extestTrain => Sys2Proof.Machine.execExtestTrain s
  | .peerDetect n => Sys2Proof.Machine.execPeerDetect n s
  | .lockRegained n => Sys2Proof.Machine.execLockRegained n s
  | .recalReq n h => Sys2Proof.Machine.execRecalReq n h s
  | .waitTimeout n => Sys2Proof.Machine.execWaitTimeout n s
  | .aggregationTimeExpiry p v => Sys2Proof.Machine.execAggregationTimeExpiry p v s
  | .invalidateAllDone => Sys2Proof.Machine.execInvalidateAllDone s
  | .timedOutTagReuse p tag => Sys2Proof.Machine.execTimedOutTagReuse p tag s
  | .vauxApply => Sys2Proof.Machine.execVauxApply s
  | .tempHistMinute => Sys2Proof.Machine.execTempHistMinute s

end Sys2Proof.Machine
end

