-- ==== Sys2Proof/Machine/Tick.lean ====
section
/-!
DEFINITION. What the block does in a step that finds no command waiting.
-/
namespace Sys2Proof.Machine

/-- One tick of the time base in PS0 to PS3 (R528), with what is looked at whatever is commanded: the latency messages (R80) and the notices of
critical warnings (R156). In any other state, and while power-on reset is held, nothing. (DESIGN CHOICE: log entry 1.) -/
def idle (s : State) : State :=
  if s.pwr.por || s.pwr.st = .off || s.pwr.st = .ps4 || s.pwr.st = .ps5 then s
  else warnCheck (ltrCheck (timeTick s))

end Sys2Proof.Machine
end

