-- ==== Sys2Proof/Safety.lean ====
section
/-!
DEFINITION. What a safe run is, and the vocabulary of the statements: the invariant that every step keeps, and the parts of State by
which a frame says what a command leaves unchanged.
-/
namespace Sys2Proof.Machine

/-- A sequencer within its bounds: a return stack of at most eight (R301), an event queue of at most 64 (R306), its local memory and its
registers in canonical form. -/
def Seq.ok (q : Seq) : Bool :=
  decide (q.rstack.length ≤ 8) && decide (q.evq.length ≤ 64) && Tbl.wf 0 q.ram && Tbl.wf 0 q.g

/-- The invariant of the block: the register table, the table of sequencers and the NOR die are canonical, each sequencer is within its bounds,
and the Attic's ring holds at most 8,192 records (R557). -/
def State.inv (s : State) : Bool :=
  Tbl.sorted s.regs && Tbl.sorted s.seqs && s.seqs.all (fun e => e.2.ok) && Tbl.wf 0xFF s.clo.nor && decide (s.atc.ring.length ≤ 8192)

/-! ## The terms of the statements -/

/-- The parts of the state but the queue. -/
inductive Part where
  | regs | pwr | chm | atc | std | clo | stg | porch | hall | nvm | pan | ldr | cel | seqs | lnd | scu | bsm | sta | fab | jtag | out | free
  deriving DecidableEq, Repr

/-- A part is the same in two states. -/
def Part.same (s t : State) : Part → Prop
  | .regs => t.regs = s.regs
  | .pwr => t.pwr = s.pwr
  | .chm => t.chm = s.chm
  | .atc => t.atc = s.atc
  | .std => t.std = s.std
  | .clo => t.clo = s.clo
  | .stg => t.stg = s.stg
  | .porch => t.porch = s.porch
  | .hall => t.hall = s.hall
  | .nvm => t.nvm = s.nvm
  | .pan => t.pan = s.pan
  | .ldr => t.ldr = s.ldr
  | .cel => t.cel = s.cel
  | .seqs => t.seqs = s.seqs
  | .lnd => t.lnd = s.lnd
  | .scu => t.scu = s.scu
  | .bsm => t.bsm = s.bsm
  | .sta => t.sta = s.sta
  | .fab => t.fab = s.fab
  | .jtag => t.jtag = s.jtag
  | .out => t.out = s.out
  | .free => t.free = s.free

/-- Nothing but the parts listed differs between two states, and the queue is the same. -/
def Only (l : List Part) (s t : State) : Prop := t.pending = s.pending ∧ ∀ p, p ∉ l → p.same s t


/-- Two register fields that share no bit. -/
def Fld.apart (f g : Fld) : Prop := f.addr ≠ g.addr ∨ (f.rst = g.rst ∧ (f.lsb + f.width ≤ g.lsb ∨ g.lsb + g.width ≤ f.lsb))

/-- Every register field apart from those listed reads as before. -/
def RegsBut (s t : State) (l : List Fld) : Prop := ∀ f : Fld, (∀ g ∈ l, Fld.apart f g) → t.rd f = s.rd f

/-- Sequencer `n` executes, no OP_LIMIT waits for it outside a handler, and the word `w` stands at its program counter: inside the code area,
readable, and no reserved encoding (R297, R303, R304, R317). -/
abbrev Ready (s : State) (n w : Nat) : Prop :=
  n ≤ 64 ∧ ((s.seq n).state = 1 ∨ (s.seq n).state = 3) ∧ ((s.seq n).limitPend = [] ∨ (s.seq n).inTrap = true) ∧
  localFetchOk s n (s.seq n).pc = true ∧ localBad s n (s.seq n).pc = false ∧ gynReserved n (gy1Level s n) w = false ∧ fetchWord s n = w

/-- Nothing outside sequencer `n` has changed. -/
def OnlySeq (s t : State) (n : Nat) : Prop := t = { s with seqs := t.seqs } ∧ ∀ m, m ≠ n → t.seq m = s.seq m

/-- Sequencer `n` has gone on to the next instruction with `v` in rd, where rd is not g0, and nothing else has changed. -/
def RegStep (s t : State) (n : Nat) (rd : BitVec 5) (v : U64) : Prop :=
  OnlySeq s t n ∧ t.seq n = { s.seq n with g := (t.seq n).g, pc := (s.seq n).pc + 4, state := 1 } ∧
  ∀ r, (t.seq n).reg r = if r = rd.toNat ∧ r ≠ 0 then v else (s.seq n).reg r

/-- Sequencer `n` has trapped outside a handler (R316): the cause, the address and the return address are recorded, T is saved, and the handler
runs with IN_TRAP set. -/
def Trapped (s t : State) (n cause badaddr epc : Nat) : Prop :=
  OnlySeq s t n ∧
  t.seq n = { s.seq n with cause := cause, badaddr := badaddr % 2 ^ 32, epc := epc, trapCount := min ((s.seq n).trapCount + 1) 255,
                           savedT := (s.seq n).t, inTrap := true, pc := trapVector s n, wait := none, state := 1 }

/-- A host's command `n` has been fetched, waits at no key, and has not begun. -/
abbrev Fresh (s : State) (n : Nat) (c : Ctx) : Prop := s.ctx n = some c ∧ c.st = .fresh ∧ c.held = false ∧ c.stair = none

/-- Command `n` has ended with a status and DW0, and its completion is to be posted. -/
def Ended (t : State) (n : Nat) (c : Ctx) (sct sc dw0 : Nat) : Prop := t.ctx n = some { c with st := .ready, sct := sct, sc := sc, dw0 := dw0 }

/-- No command but `n` has changed, and no queue. -/
def OthersStand (s t : State) (n : Nat) : Prop := (∀ m, m ≠ n → t.ctx m = s.ctx m) ∧ t.hall.sqs = s.hall.sqs ∧ t.hall.cqs = s.hall.cqs

/-- A frame of type `typ` reaches port `n` without damage, with a header that the port's mode and version admit (R262, R263). -/
abbrev Arrives (s : State) (n : Nat) (h : FrameHdr) (typ : Nat) : Prop :=
  h.arrival = .good ∧ h.len ≤ 4608 ∧ h.len % 4 = 0 ∧ h.ver = s.rd (CEL_PORT_STATUS.VER n) ∧ portRetired s n = false ∧ rxTypeOk s n typ = true

/-- The frame is the next in sequence, and acknowledges nothing (R264, R265). -/
abbrev InOrder (s : State) (n : Nat) (h : FrameHdr) : Prop := h.seq % 4096 = h.seq ∧ h.seq = (s.port n).expected ∧ h.ackValid = false

/-- Port `n` has no work: no descriptor, no operation queued or offered, no open suite front, and it is no Stair link. -/
abbrev IdlePort (s : State) (n : Nat) : Prop :=
  (s.seq n).descs = [] ∧ (s.port n).dieQ = [] ∧ (s.port n).offers = [] ∧ s.ldr.fronts = [] ∧ portMode s n ≠ 2 ∧ portRetired s n = false

/-- Port `n` has been retired for a cause (R273, R274). -/
def RetiredFor (t : State) (n cause : Nat) : Prop :=
  portState t n = 9 ∧ t.rd (CEL_PORT_STATUS.RETIRE_CAUSE n) = cause ∧ (t.port n).retired = true ∧ n ∈ t.cel.retiredTable ∧ (t.port n).unacked = []

/-- A Stair frame of type `typ` arrives next in sequence on an ACTIVE Stair link. -/
abbrev StairFrame (s : State) (n : Nat) (h : FrameHdr) (typ : Nat) : Prop :=
  n < 64 ∧ h.typ = typ ∧ portMode s n = 2 ∧ portState s n = 5 ∧ Arrives s n h typ ∧ InOrder s n h

/-- No command is under way, no suite front is open, no worker request is outstanding and no coordinated activation runs. -/
abbrev Quiet (s : State) : Prop :=
  s.hall.ctxs = [] ∧ s.hall.tails = [] ∧ s.ldr.fronts = [] ∧ s.pan.deps = [] ∧ s.sta.reqs = [] ∧ s.sta.act = none ∧
  ∀ e ∈ s.nvm.spaces, e.2.formatting = none

/-- The parts of the state that a command may change. -/
def touches (c : Instr) : List Part :=
  match c with
  | .powerOnResetRelease | .pwrfailAssert | .dumpDirectoryPass | .watchdogReset | .subchannelRetire .. | .ddrAlert .. | .subchannelRetrainTimeout ..
  | .confirmationTimeout | .refclkLoss | .sensorConversion .. => [.regs, .pwr, .chm, .atc, .std, .clo, .stg, .porch, .hall, .nvm, .pan, .ldr, .cel, .seqs, .lnd, .scu, .bsm, .sta, .fab, .jtag]
  | .mainSupplyDrop .. | .registerWrite .. | .hst8 .. | .hst4 .. => [.regs, .pwr, .chm, .atc, .std, .clo, .stg, .porch, .hall, .nvm, .pan, .ldr, .cel, .seqs, .lnd, .scu, .bsm, .sta, .fab, .jtag, .free]
  | .vauxLoss => [.regs, .pwr]
  | .bar2MemoryWrite .. => [.regs, .pwr, .chm, .atc, .std, .clo, .stg, .porch, .hall, .nvm, .pan, .ldr, .cel, .seqs, .lnd, .scu, .bsm, .sta, .fab, .jtag, .out, .free]
  | .bar2MemoryRead .. | .getDigests .. | .getCertificate .. | .challenge .. | .chunkGet .. => [.out]
  | .fabricWordArrival .. => [.atc, .hall, .nvm, .pan, .ldr, .cel, .lnd, .scu, .fab, .free]
  | .outputLinkArbitration .. => [.fab, .out]
  | .pwrfailDeassert | .stdPadRelease | .shutdownLatchClear | .vauxApply => [.pwr]
  | .pwrfailReleaseExpiry => [.pwr, .atc, .hall, .nvm, .pan, .ldr, .cel, .scu, .free]
  | .mediaArbiterWindowEnd .. => [.regs, .hall]
  | .dieSchedulerEnqueue .. | .rdataFrame .. | .statusFrame .. | .ackFrame .. | .eventFrame .. | .hello .. | .switch .. | .eqReq .. | .eqRsp ..
  | .retrainReq .. | .recalDone .. | .replayTimerExpiry .. | .detectTimeout .. | .trainingTimeout .. | .recalTimeout .. | .retrainTimeout ..
  | .receiveLockLoss .. | .portRetrain .. | .portRetire .. | .descriptorHandover .. | .missue .. | .odone .. | .hardDecodeDone ..
  | .softDecodeDone .. | .stdDomainEnWrite .. | .sjoin .. | .sjoinRsp .. | .sreqRead .. | .sreqWrite .. | .sreqDeallocate .. | .sreqWriteZeroes ..
  | .sreqWriteUncorrectable .. | .sreqFlush .. | .sreqVerify .. | .sdata .. | .sdoneCommitted .. | .sdoneSettled .. | .sevent .. | .recalReq .. => [.regs, .atc, .hall, .nvm, .pan, .ldr, .cel, .seqs, .lnd, .scu, .sta, .free]
  | .hostLinkUp .. | .completionTimeoutExpiry .. | .unexpectedCompletion .. | .busMasterEnableClear .. | .perstDeassert .. | .d3hotEntry ..
  | .aspmIdleExpiry .. => [.porch]
  | .tlpReceive .. => [.regs, .porch, .out]
  | .configRequest .. | .msixVectorUnmask .. | .timedOutTagReuse .. => [.porch, .out]
  | .hostReadCompletion .. => [.porch, .hall, .nvm, .pan, .ldr, .cel, .sta, .out]
  | .dmaDrainComplete .. => [.porch, .hall, .nvm, .pan, .ldr, .cel, .lnd, .scu, .sta, .out]
  | .doorbellWrite .. => [.regs, .pwr, .std, .porch, .hall, .nvm, .cel, .seqs, .sta, .out]
  | .perstAssert .. => [.regs, .pwr, .atc, .std, .stg, .porch, .hall, .nvm, .pan, .ldr, .cel, .seqs, .lnd, .scu, .sta]
  | .hotReset .. | .functionLevelReset .. | .controllerReset .. => [.regs, .atc, .stg, .porch, .hall, .nvm, .pan, .ldr, .cel, .lnd, .scu, .sta]
  | .controllerEnable .. => [.porch, .hall]
  | .shutdownNotification .. => [.regs, .porch, .hall, .nvm, .pan, .ldr, .cel, .seqs, .scu, .free]
  | .d0Return .. => [.regs, .pwr, .std, .porch, .seqs, .out]
  | .submissionFetch .. => [.regs, .atc, .stg, .hall, .nvm, .cel, .seqs, .sta]
  | .larderReservationGrant .. => [.porch, .hall, .nvm, .pan, .ldr, .cel, .scu, .sta, .out, .free]
  | .unitCommit .. | .flush .. | .ioManagementSend .. => [.regs, .atc, .hall, .nvm, .pan, .ldr, .cel, .scu, .sta, .free]
  | .readerResolve .. => [.regs, .hall, .nvm, .pan, .ldr, .cel, .lnd, .scu, .sta]
  | .completionPost .. => [.regs, .pwr, .chm, .atc, .std, .clo, .stg, .porch, .hall, .nvm, .pan, .ldr, .cel, .seqs, .lnd, .scu, .bsm, .sta, .fab, .jtag, .out]
  | .unsupportedOpcode .. | .createIoSubmissionQueue .. | .deleteIoCompletionQueue .. | .createIoCompletionQueue .. | .abort ..
  | .setFeaturesArbitration .. | .setFeaturesTempThreshold .. | .setFeaturesErrorRecovery .. | .setFeaturesNumberOfQueues ..
  | .setFeaturesInterruptCoalescing .. | .setFeaturesIntVectorConfig .. | .setFeaturesWriteAtomicity .. | .setFeaturesAsyncEventConfig ..
  | .setFeaturesApst .. | .setFeaturesTimestamp .. | .setFeaturesNopsConfig .. | .setFeaturesFdp .. | .setFeaturesFdpEvents ..
  | .setFeaturesSwProgressMarker .. | .asynchronousEventRequest .. | .firmwareImageDownload .. | .directiveSend .. | .write .. | .read ..
  | .writeUncorrectable .. | .compare .. | .writeZeroes .. | .datasetManagement .. | .verify .. | .copy .. | .activationRollbackExpiry => [.hall, .nvm, .cel, .sta]
  | .deleteIoSubmissionQueue .. => [.regs, .atc, .porch, .hall, .nvm, .pan, .ldr, .cel, .lnd, .scu, .sta]
  | .getLogPage .. | .getLogPageDeferredErrors .. => [.atc, .hall, .nvm, .pan, .cel, .sta, .out, .free]
  | .identify .. | .securityReceive .. => [.hall, .nvm, .cel, .sta, .out, .free]
  | .getFeatures .. | .directiveReceive .. | .getLbaStatus .. | .ioManagementReceive .. => [.hall, .nvm, .cel, .sta, .out]
  | .setFeaturesPowerManagement .. => [.pwr, .hall, .nvm, .cel, .sta]
  | .setFeaturesVolatileWriteCache .. => [.hall, .nvm, .pan, .ldr, .cel, .scu, .sta, .free]
  | .namespaceManagement .. | .formatNvm .. | .securitySend .. => [.regs, .atc, .stg, .hall, .nvm, .pan, .ldr, .cel, .scu, .sta, .free]
  | .namespaceAttachment .. | .stairControlFence .. | .stairControlActivate .. | .stimeLossExpiry .. | .stairResendDeadline ..
  | .fenceUnsettledExpiry .. => [.regs, .atc, .hall, .nvm, .pan, .ldr, .cel, .sta]
  | .fwCommitReplace .. | .fwCommitReplaceActivateReset .. | .fwCommitActivateExisting .. | .fwCommitActivateNow .. => [.clo, .hall, .nvm, .cel, .sta]
  | .activationDrainComplete => [.regs, .atc, .std, .clo, .hall, .nvm, .pan, .ldr, .cel, .seqs, .lnd, .scu, .sta, .free]
  | .activationDrainTimeout => [.regs, .hall, .nvm, .cel, .sta]
  | .deviceSelfTestShort .. | .deviceSelfTestExtended .. | .deviceSelfTestAbort .. | .atticClear .. => [.atc, .hall, .nvm, .cel, .sta]
  | .sanitizeCryptoErase .. | .sanitizeBlockErase .. => [.regs, .stg, .hall, .nvm, .pan, .ldr, .cel, .scu, .sta, .free]
  | .stairControlReadmit .. => [.regs, .atc, .hall, .nvm, .pan, .ldr, .cel, .sta, .free]
  | .hallReportIdle => [.regs, .pwr, .hall, .nvm, .pan, .ldr, .cel, .seqs, .scu, .free]
  | .apstIdleExpiry .. => [.hall]
  | .fetchEnableSet => [.regs, .pwr, .porch]
  | .drainRequest | .backgroundHold .. | .pantryEnable | .larderEnable .. | .portHold .. | .refclkOutputCtl .. | .watchdogKick ..
  | .subchannelRetrainDone .. | .stgLockAcquire .. | .stgLockRelease .. | .entropyHealthFail | .cloWpSet .. | .pllEnable | .pllLock => [.regs]
  | .overlayEmission .. | .consolidationCommit .. | .reclaimVictimChoice .. | .staticWearDue .. => [.pan, .scu]
  | .journalBatchClose | .checkpointSegmentCopy | .cacheWritebackComplete .. | .panInvAll | .eraseMarkAppend .. => [.pan]
  | .journalBatchDurable .. => [.regs, .atc, .porch, .hall, .nvm, .pan, .ldr, .cel, .scu, .sta]
  | .relocationCommit .. | .eraseFail .. => [.nvm, .pan, .scu]
  | .cacheFillComplete .. | .panMaintClean .. | .panMaintInv .. | .panMaintCleanInv .. | .panMaintCleanAll | .pantryDisable | .invalidateAllDone => [.regs, .pan]
  | .mapSegmentRepair .. => [.hall, .pan, .cel, .scu]
  | .recovery .. => [.regs, .atc, .clo, .stg, .porch, .hall, .nvm, .pan, .ldr, .cel, .scu, .bsm, .sta, .free]
  | .rebuildComplete .. => [.regs, .hall, .nvm, .pan, .ldr, .cel, .lnd, .scu, .free]
  | .larderSlotUe .. | .paritySlotUe .. | .ledgerWalkLost .. => [.regs, .atc, .hall, .nvm, .pan, .ldr, .cel, .scu, .sta]
  | .supplyDroop .. => [.ldr]
  | .droopClearExpiry .. | .tempInhibitSuiteExpiry .. | .suiteEraseDone .. | .openMaxExpiry .. | .consolidationStep => [.hall, .nvm, .pan, .ldr, .cel, .scu, .free]
  | .inhibitLongExpiry .. => [.atc, .ldr]
  | .holdupOkChange .. => [.pwr, .hall, .nvm, .pan, .ldr, .cel, .scu, .free]
  | .wtForceSet .. | .dumpArmSet .. | .larderDrain => [.regs, .hall, .nvm, .pan, .ldr, .cel, .scu, .free]
  | .ldrBankRetire .. | .patrolLateExpiry | .scrubLateExpiry => [.regs, .atc]
  | .tempRsp .. => [.regs, .chm, .atc, .hall, .nvm, .pan, .ldr, .cel, .seqs, .lnd, .scu, .sta, .free]
  | .ackTimerExpiry .. | .portRecal .. | .tempPoll | .stimeSend | .sjoinRetryExpiry .. => [.cel]
  | .transmitFrameBoundary .. => [.regs, .cel, .seqs, .out]
  | .portTrain .. | .recalibrationDue .. | .lockRegained .. => [.regs, .cel, .seqs]
  | .noStatusTimeout .. | .sequencerRestart .. | .seqMail .. | .waitTimeout .. => [.seqs]
  | .mov .. | .add .. | .sub .. | .and_ .. | .or_ .. | .xor_ .. | .shl .. | .shr .. | .sar .. | .mul .. | .mulhu .. | .min .. | .max .. | .cnt ..
  | .lzc .. | .ldk .. | .putk .. | .addk .. | .andk .. | .ork .. | .xork .. | .shlk .. | .shrk .. | .sark .. | .teq .. | .tne .. | .tlt .. | .tge ..
  | .tltu .. | .tgeu .. | .teqk .. | .tnek .. | .tltk .. | .tgek .. | .tbit .. | .ld8 .. | .ld4 .. | .ld2 .. | .ld1 .. | .st8 .. | .st4 .. | .st2 ..
  | .st1 .. | .hld8 .. | .hld4 .. | .go .. | .got .. | .gof .. | .call .. | .gor .. | .callr .. | .ret .. | .post .. | .trap .. | .rtt .. | .time ..
  | .hsync .. | .rds .. | .opLimitExpiry .. => [.regs, .atc, .seqs]
  | .wait .. => [.regs, .pwr, .atc, .std, .pan, .cel, .seqs]
  | .mctl .. => [.regs, .atc, .cel, .seqs]
  | .sequencerRun .. | .sequencerHalt .. | .seqLoadData .. | .watchdogFirstExpiry | .peerDetect .. => [.regs, .seqs]
  | .softAdmissionCredit | .softJobAdmit => [.lnd]
  | .stripeRecoveryDone .. => [.regs, .atc, .hall, .nvm, .pan, .ldr, .cel, .lnd, .scu, .sta, .free]
  | .calibration .. => [.hall, .cel, .lnd]
  | .calibrationDone .. => [.atc, .hall, .pan, .cel, .lnd, .scu]
  | .tlerExpiry .. => [.hall, .nvm, .pan, .ldr, .cel, .lnd, .scu, .sta]
  | .pacedReadRelease .. => [.regs, .hall, .nvm, .pan, .ldr, .cel, .lnd, .scu, .sta, .out]
  | .calRequest .. => [.regs, .lnd]
  | .patrolRead => [.regs, .hall, .cel, .scu]
  | .retentionAgeExpiry .. => [.scu]
  | .foldRow .. => [.hall, .pan, .cel, .scu, .free]
  | .lifetimeCountUpdate => [.nvm, .scu]
  | .suiteIdxWrite .. => [.regs, .scu]
  | .dramBurstRead .. | .scrubRead .. => [.regs, .atc, .porch, .nvm, .scu, .bsm]
  | .sramSweep .. => [.regs, .atc, .hall, .nvm, .pan, .ldr, .cel, .seqs, .scu, .bsm, .sta]
  | .dramClear | .dramClearDone | .bsmRemapWrite .. | .remapCopyDone .. => [.regs, .bsm]
  | .contextStoreUe .. => [.regs, .atc, .hall, .nvm, .pan, .ldr, .cel, .bsm, .sta]
  | .kmeLockTimeout => [.regs, .atc, .stg]
  | .unwrapLoad .. | .generate .. | .rewrap .. | .zeroise .. | .eraseStale .. | .seedReplace .. | .verifyImage .. | .sign .. | .genNote .. => [.regs, .stg]
  | .kmeOperationDone .. => [.regs, .atc, .stg, .hall, .nvm, .pan, .ldr, .cel, .sta, .out, .free]
  | .tamperTrip .. => [.regs, .atc, .stg, .hall, .nvm, .pan, .ldr, .cel, .sta]
  | .jtagUnlock .. => [.regs, .atc, .stg, .hall, .nvm, .pan, .ldr, .cel, .sta, .free]
  | .getVersion .. | .getCapabilities .. | .negotiateAlgorithms .. | .getMeasurements .. => [.stg, .out]
  | .closetProgram | .closetErase | .closetMarginRead => [.regs, .clo, .seqs]
  | .closetOperationDone .. => [.regs, .atc, .clo, .hall, .nvm, .cel, .seqs, .sta, .free]
  | .stdConfirm .. | .operatingTimeRecord => [.clo]
  | .bootSlotChoice => [.regs, .pwr, .atc, .std, .clo, .stg, .porch, .seqs, .scu, .free]
  | .mgmtMessage .. => [.regs, .pwr, .std, .seqs]
  | .linkWake .. => [.regs, .pwr, .std, .porch, .seqs]
  | .wakeTimerExpiry => [.regs, .pwr, .std, .seqs, .out]
  | .i3cStaticAddressStart => [.pwr, .out]
  | .clockSelect => [.regs, .pwr, .std]
  | .lsoCorrection .. => [.regs, .pwr, .free]
  | .thermalStepRecompute => [.chm, .seqs]
  | .powerGovernorTick .. | .portStepRecompute => [.chm]
  | .atcPostGo .. | .atticMirrorProgram | .fullModePageProgram | .atcWinCursorWrite .. | .windowLatchDone .. | .atticCopyMove .. => [.atc]
  | .operatingSecondEnd => [.pwr, .atc, .clo]
  | .inServiceTestItem .. => [.atc, .pan, .scu]
  | .dstSegment .. | .dstLimitExpiry => [.atc, .nvm]
  | .sreqNamespaceOperation .. => [.regs, .atc, .stg, .hall, .nvm, .pan, .ldr, .cel, .seqs, .lnd, .scu, .sta, .free]
  | .stime .. => [.regs, .pwr, .atc, .hall, .nvm, .pan, .ldr, .cel, .seqs, .lnd, .scu, .sta, .free]
  | .sact .. => [.regs, .atc, .clo, .hall, .nvm, .pan, .ldr, .cel, .seqs, .lnd, .scu, .sta, .free]
  | .doneTableExpiry => [.sta]
  | .entdaa .. => [.std, .out]
  | .bypass | .samplePreload .. | .extest | .extestPulse | .extestTrain => [.jtag]
  | .idcode => [.jtag, .out]
  | .aggregationTimeExpiry .. => [.porch, .hall, .out]
  | .tempHistMinute => [.nvm]

end Sys2Proof.Machine
end

