-- ==== Sys2Proof/Certificates/Slice0/Obligations.lean ====
section
/-!
DEFINITION. The statements for the provers.
-/
open Sys2Proof Sys2Proof.Machine

/-! ## Gynum instructions (chapter 8) -/

/-- MOV, ADD, SUB, AND, OR, XOR, SHL, SHR, SAR, MUL, MULHU, MIN, MAX, CNT and LZC complete with rd as Table 8-7 says and nothing else changed: g0
takes no write, the program counter moves to the next instruction. Ones and leading zeros are counted bit by bit. -/
def Obligations.GynumPairOps : Prop :=
  ∀ (s : State) (n : Nat) (rd rs : BitVec 5) (pad : BitVec 14), s.inv = true →
    let a := (s.seq n).reg rd.toNat
    let b := (s.seq n).reg rs.toNat
    let goes (i : Instr) (op : Nat) (v : U64) : Prop := Ready s n (wordP op rd rs pad) → ∃ t, exec i s = .next t ∧ RegStep s t n rd v
    goes (.mov n rd rs pad) 0x01 b ∧
    goes (.add n rd rs pad) 0x02 (a + b) ∧
    goes (.sub n rd rs pad) 0x03 (a - b) ∧
    goes (.and_ n rd rs pad) 0x04 (a &&& b) ∧
    goes (.or_ n rd rs pad) 0x05 (a ||| b) ∧
    goes (.xor_ n rd rs pad) 0x06 (a ^^^ b) ∧
    goes (.shl n rd rs pad) 0x07 (a <<< (b.toNat % 64)) ∧
    goes (.shr n rd rs pad) 0x08 (a >>> (b.toNat % 64)) ∧
    goes (.sar n rd rs pad) 0x09 (a.sshiftRight (b.toNat % 64)) ∧
    goes (.mul n rd rs pad) 0x0A (BitVec.ofNat 64 (a.toNat * b.toNat)) ∧
    goes (.mulhu n rd rs pad) 0x0B (BitVec.ofNat 64 (a.toNat * b.toNat / 2 ^ 64)) ∧
    goes (.min n rd rs pad) 0x0C (BitVec.ofInt 64 (min a.toInt b.toInt)) ∧
    goes (.max n rd rs pad) 0x0D (BitVec.ofInt 64 (max a.toInt b.toInt)) ∧
    goes (.cnt n rd rs pad) 0x0E (BitVec.ofNat 64 ((List.range 64).countP fun i => b.getLsbD i)) ∧
    goes (.lzc n rd rs pad) 0x0F (BitVec.ofNat 64 ((List.range 64).countP fun i => b.toNat < 2 ^ i))

/-- LDK, PUTK, ADDK, ANDK, ORK, XORK, SHLK, SHRK and SARK complete with rd as Table 8-7 says and nothing else changed. PUTK replaces the lane that
bits 17:16 of k19 name, bit by bit. -/
def Obligations.GynumConstOps : Prop :=
  ∀ (s : State) (n : Nat) (rd : BitVec 5) (k : BitVec 19), s.inv = true →
    let a := (s.seq n).reg rd.toNat
    let goes (i : Instr) (op : Nat) (v : U64) : Prop := Ready s n (wordK op rd k) → ∃ t, exec i s = .next t ∧ RegStep s t n rd v
    let lane := 16 * (k.toNat / 2 ^ 16 % 4)
    goes (.ldk n rd k) 0x10 (k.signExtend 64) ∧
    (∀ v : U64, (∀ i, i < 64 → v.getLsbD i = if lane ≤ i ∧ i < lane + 16 then k.getLsbD (i - lane) else a.getLsbD i) → goes (.putk n rd k) 0x11 v) ∧
    goes (.addk n rd k) 0x12 (a + k.signExtend 64) ∧
    goes (.andk n rd k) 0x13 (a &&& k.setWidth 64) ∧
    goes (.ork n rd k) 0x14 (a ||| k.setWidth 64) ∧
    goes (.xork n rd k) 0x15 (a ^^^ k.setWidth 64) ∧
    goes (.shlk n rd k) 0x16 (a <<< (k.toNat % 64)) ∧
    goes (.shrk n rd k) 0x17 (a >>> (k.toNat % 64)) ∧
    goes (.sark n rd k) 0x18 (a.sshiftRight (k.toNat % 64))

/-- The test instructions complete with T as Table 8-7 says, the program counter at the next instruction, and nothing else changed. -/
def Obligations.GynumTests : Prop :=
  ∀ (s : State) (n : Nat) (rd rs : BitVec 5) (pad : BitVec 14) (k : BitVec 19), s.inv = true →
    let a := (s.seq n).reg rd.toNat
    let b := (s.seq n).reg rs.toNat
    let c : U64 := k.signExtend 64
    let goes (i : Instr) (w : Nat) (v : Bool) : Prop := Ready s n w →
      ∃ t, exec i s = .next t ∧ OnlySeq s t n ∧ t.seq n = { s.seq n with t := v, pc := (s.seq n).pc + 4, state := 1 }
    goes (.teq n rd rs pad) (wordP 0x20 rd rs pad) (decide (a = b)) ∧
    goes (.tne n rd rs pad) (wordP 0x21 rd rs pad) (decide (a ≠ b)) ∧
    goes (.tlt n rd rs pad) (wordP 0x22 rd rs pad) (decide (a.toInt < b.toInt)) ∧
    goes (.tge n rd rs pad) (wordP 0x23 rd rs pad) (decide (b.toInt ≤ a.toInt)) ∧
    goes (.tltu n rd rs pad) (wordP 0x24 rd rs pad) (decide (a.toNat < b.toNat)) ∧
    goes (.tgeu n rd rs pad) (wordP 0x25 rd rs pad) (decide (b.toNat ≤ a.toNat)) ∧
    goes (.teqk n rd k) (wordK 0x26 rd k) (decide (a = c)) ∧
    goes (.tnek n rd k) (wordK 0x27 rd k) (decide (a ≠ c)) ∧
    goes (.tltk n rd k) (wordK 0x28 rd k) (decide (a.toInt < c.toInt)) ∧
    goes (.tgek n rd k) (wordK 0x29 rd k) (decide (c.toInt ≤ a.toInt)) ∧
    goes (.tbit n rd k) (wordK 0x2A rd k) (a.getLsbD (k.toNat % 64))

/-- A load of N bytes at an aligned, allowed and readable local address reads them zero-extended into rd; a store puts the low N bytes of rd at its
address. Every other byte of every local memory reads as before, and nothing else changes.
Where the spec leaves a point open, this follows the model: log entry 37. -/
def Obligations.GynumLocalAccess : Prop :=
  ∀ (s : State) (n : Nat) (rd rs : BitVec 5) (d : BitVec 14), s.inv = true →
    let a := ((s.seq n).reg rs.toNat + d.signExtend 64).toNat
    let v := (s.seq n).reg rd.toNat
    let loads (i : Instr) (op len : Nat) : Prop :=
      Ready s n (wordP op rd rs d) → a % len = 0 → localLoadOk n a = true → localBad s n a = false →
        ∃ t, exec i s = .next t ∧ RegStep s t n rd (BitVec.ofNat 64 (localRead s n a len))
    let stores (i : Instr) (op len : Nat) : Prop :=
      Ready s n (wordP op rd rs d) → a % len = 0 → localStoreOk n a = true → localBad s n a = false →
        ∃ t, exec i s = .next t ∧ OnlySeq s t n ∧
          t.seq n = { s.seq n with ram := (t.seq n).ram, pc := (s.seq n).pc + 4, state := 1 } ∧
          ∀ b, Tbl.getD (t.seq n).ram b 0 =
            if a ≤ b ∧ b < a + len then BitVec.ofNat 8 (v.toNat / 256 ^ (b - a)) else Tbl.getD (s.seq n).ram b 0
    loads (.ld8 n rd rs d) 0x30 8 ∧ loads (.ld4 n rd rs d) 0x31 4 ∧ loads (.ld2 n rd rs d) 0x32 2 ∧ loads (.ld1 n rd rs d) 0x33 1 ∧
    stores (.st8 n rd rs d) 0x34 8 ∧ stores (.st4 n rd rs d) 0x35 4 ∧ stores (.st2 n rd rs d) 0x36 2 ∧ stores (.st1 n rd rs d) 0x37 1

/-- A house load at an aligned address puts the bytes that the register reads into rd and changes nothing else; a house store that Table 8-4 allows
writes the low bytes of rd as the sequencer and moves on. -/
def Obligations.GynumHouseAccess : Prop :=
  ∀ (s : State) (n : Nat) (rd rs : BitVec 5) (d : BitVec 14), s.inv = true →
    let a := ((s.seq n).reg rs.toNat + d.signExtend 64).toNat
    let who : Agent := if n = 64 then .supervisor else .portSeq n
    let loads (i : Instr) (op len : Nat) : Prop :=
      Ready s n (wordP op rd rs d) → a % len = 0 →
        ∃ t u, exec i s = .next t ∧ u = s.modSeq n (fun q => { q with state := 1 }) ∧
          RegStep s t n rd (BitVec.ofNat 64 (houseReadBytes u who a len))
    let stores (i : Instr) (op len : Nat) : Prop :=
      Ready s n (wordP op rd rs d) → a % len = 0 → (n = 64 ∨ houseStoreOk n a = true) →
        exec i s = .next (pcNext (houseWriteBytes (s.modSeq n fun q => { q with state := 1 }) who a len ((s.seq n).reg rd.toNat).toNat) n)
    loads (.hld8 n rd rs d) 0x38 8 ∧ stores (.hst8 n rd rs d) 0x39 8 ∧ loads (.hld4 n rd rs d) 0x3A 4 ∧ stores (.hst4 n rd rs d) 0x3B 4

/-- GO, GOT, GOF, CALL, GOR, CALLR and RET: where the program counter goes and what the return stack becomes; nothing else changes. An untaken
conditional jump goes to the next instruction. CALL and CALLR push the address of the next instruction while fewer than eight are held. -/
def Obligations.GynumJumps : Prop :=
  ∀ (s : State) (n : Nat) (rd rs : BitVec 5) (pad : BitVec 14) (d : BitVec 24), s.inv = true →
    let q := s.seq n
    let target := (BitVec.ofNat 64 q.pc + d.signExtend 64 * 4).toNat
    let a := (q.reg rd.toNat).toNat
    let goes (i : Instr) (w pc : Nat) (stack : List Nat) : Prop := Ready s n w →
      ∃ t, exec i s = .next t ∧ OnlySeq s t n ∧ t.seq n = { q with pc := pc, rstack := stack, state := 1 }
    goes (.go n d) (wordJ 0x40 d) target q.rstack ∧
    goes (.got n d) (wordJ 0x41 d) (if q.t then target else q.pc + 4) q.rstack ∧
    goes (.gof n d) (wordJ 0x42 d) (if q.t then q.pc + 4 else target) q.rstack ∧
    (q.rstack.length < 8 → goes (.call n d) (wordJ 0x43 d) target ((q.pc + 4) :: q.rstack)) ∧
    (a % 4 = 0 → goes (.gor n rd rs pad) (wordP 0x44 rd rs pad) a q.rstack) ∧
    (a % 4 = 0 → q.rstack.length < 8 → goes (.callr n rd rs pad) (wordP 0x45 rd rs pad) a ((q.pc + 4) :: q.rstack)) ∧
    (∀ r rest, q.rstack = r :: rest → goes (.ret n rd rs pad) (wordP 0x46 rd rs pad) r rest)

/-- TRAP enters the handler with cause SOFTWARE, BADADDR k19 and the next instruction as EPC; RTT returns to EPC with T restored; TIME reads the time
base; RDS reads EPC, CAUSE, BADADDR, the sequencer's number, the level, the saved T, the depth of the return stack, and zero for any other; HSYNC goes on,
since every earlier house store has taken effect. -/
def Obligations.GynumSystem : Prop :=
  ∀ (s : State) (n : Nat) (rd rs : BitVec 5) (pad : BitVec 14) (k : BitVec 19), s.inv = true →
    let q := s.seq n
    (Ready s n (wordK 0x52 rd k) → q.inTrap = false → ∃ t, exec (.trap n rd k) s = .next t ∧ Trapped s t n 0x0D k.toNat (q.pc + 4)) ∧
    (Ready s n (wordP 0x53 rd rs pad) →
      ∃ t, exec (.rtt n rd rs pad) s = .next t ∧ OnlySeq s t n ∧ t.seq n = { q with pc := q.epc, t := q.savedT, inTrap := false, state := 1 }) ∧
    (Ready s n (wordP 0x54 rd rs pad) → ∃ t, exec (.time n rd rs pad) s = .next t ∧ RegStep s t n rd s.pwr.time) ∧
    (Ready s n (wordP 0x55 rd rs pad) →
      ∃ t, exec (.hsync n rd rs pad) s = .next t ∧ OnlySeq s t n ∧ t.seq n = { q with pc := q.pc + 4, state := 1 }) ∧
    (∀ v, (k = 0 → v = q.epc) → (k = 1 → v = q.cause) → (k = 2 → v = q.badaddr) → (k = 3 → v = n) → (k = 4 → v = b2n (gy1Level s n)) →
      (k = 5 → v = b2n q.savedT) → (k = 6 → v = q.rstack.length) → (6 < k.toNat → v = 0) →
      Ready s n (wordK 0x56 rd k) → ∃ t, exec (.rds n rd k) s = .next t ∧ RegStep s t n rd (BitVec.ofNat 64 v))

/-- Outside a handler a misaligned load, store, GOR or CALLR traps with MISALIGNED, a ninth CALL or a RET from an empty stack with RSTACK, an access that
the local space does not allow with LOCAL_RANGE, and a forbidden house store of a port with HOUSE_DENIED; the return address is the instruction itself and
no memory, register or return stack entry changes.
Where the spec leaves a point open, this follows the model: log entries 17 and 35. -/
def Obligations.GynumTraps : Prop :=
  ∀ (s : State) (n : Nat) (rd rs : BitVec 5) (pad : BitVec 14) (d : BitVec 24), s.inv = true → (s.seq n).inTrap = false →
    let q := s.seq n
    let m := ((s.seq n).reg rs.toNat + pad.signExtend 64).toNat
    let a := (q.reg rd.toNat).toNat
    let traps (i : Instr) (w cause bad : Nat) : Prop := Ready s n w → ∃ t, exec i s = .next t ∧ Trapped s t n cause bad q.pc
    (m % 8 ≠ 0 → traps (.ld8 n rd rs pad) (wordP 0x30 rd rs pad) 0x02 m ∧ traps (.st8 n rd rs pad) (wordP 0x34 rd rs pad) 0x02 m ∧
      traps (.hld8 n rd rs pad) (wordP 0x38 rd rs pad) 0x02 m ∧ traps (.hst8 n rd rs pad) (wordP 0x39 rd rs pad) 0x02 m) ∧
    (m % 4 ≠ 0 → traps (.ld4 n rd rs pad) (wordP 0x31 rd rs pad) 0x02 m ∧ traps (.st4 n rd rs pad) (wordP 0x35 rd rs pad) 0x02 m ∧
      traps (.hld4 n rd rs pad) (wordP 0x3A rd rs pad) 0x02 m ∧ traps (.hst4 n rd rs pad) (wordP 0x3B rd rs pad) 0x02 m) ∧
    (m % 2 ≠ 0 → traps (.ld2 n rd rs pad) (wordP 0x32 rd rs pad) 0x02 m ∧ traps (.st2 n rd rs pad) (wordP 0x36 rd rs pad) 0x02 m) ∧
    (a % 4 ≠ 0 → traps (.gor n rd rs pad) (wordP 0x44 rd rs pad) 0x02 a ∧ traps (.callr n rd rs pad) (wordP 0x45 rd rs pad) 0x02 a) ∧
    (localLoadOk n m = false → traps (.ld1 n rd rs pad) (wordP 0x33 rd rs pad) 0x03 m) ∧
    (localStoreOk n m = false → traps (.st1 n rd rs pad) (wordP 0x37 rd rs pad) 0x03 m) ∧
    (m % 8 = 0 → n < 64 → houseStoreOk n m = false → traps (.hst8 n rd rs pad) (wordP 0x39 rd rs pad) 0x04 m) ∧
    (8 ≤ q.rstack.length → traps (.call n d) (wordJ 0x43 d) 0x0E 8) ∧
    (8 ≤ q.rstack.length → a % 4 = 0 → traps (.callr n rd rs pad) (wordP 0x45 rd rs pad) 0x0E 8) ∧
    (q.rstack = [] → traps (.ret n rd rs pad) (wordP 0x46 rd rs pad) 0x0E 0)
/-- WAIT takes the oldest event that its mask selects, or waits for one until its timeout; WAIT_TIMEOUT delivers code 0x00; POST raises MAIL_IN at a
supervisor that is not waiting, with the port and rd[31:0]; CEL_SEQ_MAIL raises MAIL at a port that is not waiting, and a full queue discards the mail and
sets MAIL_LOST. Nothing outside the sequencers named changes.
Where the spec leaves a point open, this follows the model: log entry 36. -/
def Obligations.SequencerEvents : Prop :=
  ∀ (s : State) (n : Nat) (rd rs : BitVec 5) (k pad : BitVec 14) (v : U64), s.inv = true →
    let q := s.seq n
    let t := (q.reg rs.toNat).toNat
    (Ready s n (wordP 0x50 rd rs k) → (n = 64 → pwrMode s = 0) →
      (∀ pre e rest, q.evq = pre ++ e :: rest → evSelected n k.toNat e = true → (∀ x ∈ pre, evSelected n k.toNat x = false) →
        ∃ u, exec (.wait n rd rs k) s = .next u ∧ OnlySeq s u n ∧ (u.seq n).pc = q.pc + 4 ∧ (u.seq n).state = 1 ∧
          (∀ r, (u.seq n).reg r = if r = rd.toNat ∧ r ≠ 0 then e else q.reg r) ∧
          (u.seq n).evq ++ (u.seq n).held = pre ++ rest ++ q.held) ∧
      ((∀ x ∈ q.evq, evSelected n k.toNat x = false) →
        ∃ u, exec (.wait n rd rs k) s = .next u ∧ OnlySeq s u n ∧
          u.seq n = { q with pc := q.pc + 4, state := 2, wait := some (WaitRec.mk rd.toNat k.toNat (if t = 0 then none else some (s.pwr.time.toNat + t))) })) ∧
    (∀ r m d, q.wait = some { rd := r, mask := m, deadline := some d } → q.state = 2 →
      ∃ u, exec (.waitTimeout n) s = .next u ∧ OnlySeq s u n ∧ (u.seq n).wait = none ∧ (u.seq n).state = 1 ∧ (u.seq n).pc = q.pc ∧
        ∀ j, (u.seq n).reg j = if j = r ∧ j ≠ 0 then 0xFF00 else q.reg j) ∧
    (Ready s n (wordP 0x51 rd rs pad) → n < 64 → (s.seq 64).wait = none → (s.seq 64).held = [] → (s.seq 64).evq.length < 64 →
      ∃ u e, exec (.post n rd rs pad) s = .next u ∧ u = { s with seqs := u.seqs } ∧ (∀ m, m ≠ n → m ≠ 64 → u.seq m = s.seq m) ∧
        u.seq n = { q with pc := q.pc + 4, state := 1 } ∧ u.seq 64 = { s.seq 64 with evq := (s.seq 64).evq ++ [e] } ∧
        e.toNat % 256 = 0x10 ∧ e.toNat / 2 ^ 8 % 256 = n ∧ e.toNat / 2 ^ 32 = (q.reg rd.toNat).toNat % 2 ^ 32) ∧
    (n < 64 → populated s n = true → q.wait = none → q.held = [] → q.evq.length < 64 →
      ∃ u e, exec (.seqMail n v) s = .next u ∧ OnlySeq s u n ∧ u.seq n = { q with evq := q.evq ++ [e] } ∧
        e.toNat % 256 = 0x09 ∧ e.toNat / 2 ^ 32 = v.toNat % 2 ^ 32) ∧
    (n < 64 → populated s n = true → q.evq.length = 64 →
      ∃ u, exec (.seqMail n v) s = .next u ∧ OnlySeq s u n ∧ u.seq n = { q with mailLost := true })

/-- MISSUE of an ACTIVE or READY read, program or erase descriptor whose command buffer passes every check queues one CMD frame, with rd = 0; MCTL of an
allowed control kind queues its frame; ODONE with an outcome that has been earned frees the ring entry and reports the outcome to the engine that issued the
operation; a descriptor past its operation limit traps with OP_LIMIT. -/
def Obligations.SequencerMedia : Prop :=
  ∀ (s : State) (n : Nat) (rd rs : BitVec 5) (pad : BitVec 14) (hw : DescHw), s.inv = true → n < 64 →
    let q := s.seq n
    let i := (q.reg rd.toNat).toNat
    let a := (q.reg rs.toNat).toNat
    let els := readCycles s n (a + 0x10) (localRead s n (a + 3) 1)
    let w := cwSum 0x08 els
    let r := cwSum 0x09 els
    let total := if hw.op.kind = 2 then hw.cwSent + w else hw.cwSent + r
    (Ready s n (wordP 0x60 rd rs pad) → rd ≠ 0 → Tbl.find q.descs i = some hw → hw.ended = false → (descByte s n i 0 1 = 1 ∨ descByte s n i 0 1 = 2) →
      localLoadOk n a = true → localLoadOk n (a + 63) = true → portRetired s n = false → diePresent s n hw.op.die = true →
      cycLenOk (localRead s n (a + 3) 1) = true →
      els.all (fun e => elemOkData hw.op.kind hw.op.planes (s.rd (CEL_SEQ_ROWFMT.PAGE_BITS n)) (recipeVerify s n i) e) = true →
      total ≤ cwBound s n i hw.op → r ≤ cwBound s n i hw.op → (hw.op.kind = 3 → eraseAllowed s n hw.op = true) → hw.open_.length < 4 →
      ∃ t f, exec (.missue n rd rs pad) s = .next t ∧ (t.seq n).pc = q.pc + 4 ∧ (t.seq n).reg rd.toNat = 0 ∧
        (t.port n).cmdHost ++ (t.port n).cmdBg = (if hw.op.isHost then (s.port n).cmdHost ++ f :: (s.port n).cmdBg else (s.port n).cmdHost ++ (s.port n).cmdBg ++ [f]) ∧
        f.typ = 1 ∧ f.die = hw.op.die ∧ f.tag = i ∧ (∀ m, m ≠ n → t.seq m = s.seq m ∧ t.port m = s.port m) ∧
        t = { s with seqs := t.seqs, cel := t.cel }) ∧
    (Ready s n (wordP 0x61 rd rs pad) → rd ≠ 0 → localLoadOk n a = true → localLoadOk n (a + 63) = true → portRetired s n = false →
      6 ≤ i / 2 ^ 8 % 16 → i / 2 ^ 8 % 16 ≤ 9 → cycLenOk (localRead s n (a + 3) 1) = true → els.all (elemOkCtl (i / 2 ^ 8 % 16)) = true →
      diePresent s n (i % 16) = true → arrayOp s n els = none → q.paramBusy = false →
      (Tbl.getD (s.port n).dieQ (i % 16) []).length + (s.port n).ctl.countP (fun c => c.die == i % 16) < 8 →
      ∃ t f, exec (.mctl n rd rs pad) s = .next t ∧ (t.seq n).pc = q.pc + 4 ∧ (t.seq n).reg rd.toNat = 0 ∧
        (t.port n).cmdHost = (s.port n).cmdHost ++ [f] ∧ f.typ = 1 ∧ f.die = i % 16 ∧ f.tag = (s.port n).nextCtlTag ∧
        (∀ m, m ≠ n → t.seq m = s.seq m ∧ t.port m = s.port m) ∧ t = { s with seqs := t.seqs, cel := t.cel }) ∧
    (Ready s n (wordP 0x62 rd rs pad) → Tbl.find q.descs i = some hw → hw.ended = false → (a = 1 ∧ passEarned s n i hw = true ∨ a = 2 ∨ a = 3) →
      exec (.odone n rd rs pad) s = .next (pcNext (opOutcome (releaseDesc (s.modSeq n fun q => { q with state := 1 }) n i) n hw.op
        (if a = 1 then .pass else if a = 2 then .fail else .noStatus)) n)) ∧
    (∀ j, Tbl.find q.descs j = some hw → hw.limitRaised = false → q.state = 1 → q.inTrap = false → descByte s n j 0 1 ≠ 0 → descByte s n j 0 1 ≠ 3 →
      s.rd (CEL_SEQ_OPLIMIT.LIMIT_MS n) ≠ 0 →
      s.rd (CEL_SEQ_OPLIMIT.LIMIT_MS n) * 100000000 < (s.pwr.time.toNat - descByte s n j 0x18 8 - hw.suspTicks) * 1024 →
      ∃ t, exec (.opLimitExpiry n j) s = .next t ∧ OnlySeq s t n ∧ (t.seq n).cause = 0x0C ∧ (t.seq n).badaddr = j % 2 ^ 32 ∧ (t.seq n).epc = q.pc ∧
        (t.seq n).pc = trapVector s n ∧ (t.seq n).inTrap = true ∧ (t.seq n).g = q.g ∧ (t.seq n).ram = q.ram)

/-- A port sequencer runs from ENTRY, halts with STATE 0x5, restarts from a halt with its registers, T, return stack and IN_TRAP clear, and takes eight
bytes of program at LOAD_ADDR; a kick clears WDOG_WARN, the first expiry sets it and raises WDOG at a supervisor that is not waiting, and the second is the
watchdog reset. -/
def Obligations.SequencerControl : Prop :=
  ∀ (s : State) (n : Nat) (v : U64), s.inv = true →
    (n < 64 → populated s n = true → s.on (CEL_SEQ_CTL.RUN n) = false →
      ∃ t, exec (.sequencerRun n v) s = .next t ∧ t.on (CEL_SEQ_CTL.RUN n) = true ∧ t.rd (CEL_SEQ_CTL.TRAP_VEC n) = v.toNat / 2 ^ 18 % 2 ^ 14 ∧
        t.rd (CEL_SEQ_CTL.ENTRY n) = v.toNat / 2 ^ 4 % 2 ^ 14 ∧ t.rd (CEL_SEQ_CTL.LEVEL n) = v.toNat / 2 ^ 3 % 2 ∧
        t.seq n = { s.seq n with pc := v.toNat / 2 ^ 4 % 2 ^ 14, state := 1, wait := none } ∧ (∀ m, m ≠ n → t.seq m = s.seq m) ∧
        (∀ f : Fld, f.addr ≠ CEL_SEQ_CTL.addr n → t.rd f = s.rd f) ∧ t = { s with regs := t.regs, seqs := t.seqs }) ∧
    (n < 64 → populated s n = true → s.on (CEL_SEQ_CTL.RUN n) = true →
      ∃ t, exec (.sequencerHalt n v) s = .next t ∧ t.on (CEL_SEQ_CTL.RUN n) = false ∧ 
        t.on (CEL_SEQ_CTL.LOAD_EN n) = v.toNat.testBit 2 ∧ t.seq n = { s.seq n with state := 5, wait := none } ∧ (∀ m, m ≠ n → t.seq m = s.seq m) ∧
        RegsBut s t [CEL_SEQ_CTL.RUN n, CEL_SEQ_CTL.LOAD_EN n] ∧ t = { s with regs := t.regs, seqs := t.seqs }) ∧
    (n < 64 → (s.seq n).state = 4 →
      ∃ t, exec (.sequencerRestart n) s = .next t ∧ OnlySeq s t n ∧ (∀ r, (t.seq n).reg r = 0) ∧ (t.seq n).t = false ∧ (t.seq n).rstack = [] ∧
        (t.seq n).inTrap = false ∧ (t.seq n).pc = s.rd (CEL_SEQ_CTL.ENTRY n) ∧ (t.seq n).evq = (s.seq n).evq ∧ (t.seq n).ram = (s.seq n).ram) ∧
    (n < 64 → s.on (CEL_SEQ_CTL.LOAD_EN n) = true → s.on (CEL_SEQ_CTL.RUN n) = false →
      let a := 8 * s.rd (CEL_SEQ_LOAD_ADDR.ADDR n)
      ∃ t, exec (.seqLoadData n v) s = .next t ∧ t.rd (CEL_SEQ_LOAD_ADDR.ADDR n) = (a / 8 + 1) % 2 ^ 11 ∧
        (∀ b, Tbl.getD (t.seq n).ram b 0 = if a ≤ b ∧ b < a + 8 then BitVec.ofNat 8 (v.toNat / 256 ^ (b - a)) else Tbl.getD (s.seq n).ram b 0) ∧
        (∀ m, m ≠ n → t.seq m = s.seq m) ∧ RegsBut s t [CEL_SEQ_LOAD_ADDR.ADDR n] ∧ t = { s with regs := t.regs, seqs := t.seqs }) ∧
    (v.toNat % 2 = 1 → ∃ t, exec (.watchdogKick v) s = .next t ∧ t.on STD_SUP_STATUS.WDOG_WARN = false ∧
      RegsBut s t [STD_SUP_STATUS.WDOG_WARN] ∧ t = { s with regs := t.regs }) ∧
    (s.pwr.por = false → (s.pwr.st = .ps0 ∨ s.pwr.st = .ps1 ∨ s.pwr.st = .ps2) → s.on STD_SUP_STATUS.WDOG_WARN = false → (s.seq 64).wait = none →
      (s.seq 64).held = [] → (s.seq 64).evq.length < 64 →
      ∃ t e, exec .watchdogFirstExpiry s = .next t ∧ t.on STD_SUP_STATUS.WDOG_WARN = true ∧ RegsBut s t [STD_SUP_STATUS.WDOG_WARN] ∧ (∀ m, m ≠ 64 → t.seq m = s.seq m) ∧
        t.seq 64 = { s.seq 64 with evq := (s.seq 64).evq ++ [e] } ∧ e.toNat % 256 = 0x16 ∧ t = { s with regs := t.regs, seqs := t.seqs }) ∧
    (s.pwr.por = false → (s.pwr.st = .ps0 ∨ s.pwr.st = .ps1 ∨ s.pwr.st = .ps2) → s.on STD_SUP_STATUS.WDOG_WARN = true →
      exec .watchdogReset s = .next (watchdogReset s 1))

/-! ## Power, supplies and clocks (chapters 6, 14) -/

/-- The power-on reset, the supplies and the loss of power: what leaves reset samples the straps and waits for an image in PS0; a supply that drops takes the
device to reset with its non-volatile parts kept; PWRFAIL# freezes it, clears DUMP_ARM and starts the dump where one is due; its release starts the 1 ms
count, and an expiry without a dump resumes.
Where the spec leaves a point open, this follows the model: log entries 85 and 121. -/
def Obligations.PowerLoss : Prop :=
  ∀ (s : State) (m : MainSupply), s.inv = true →
    (s.pwr.por = true → s.pwr.lowMains = [] → s.pwr.shutLatch = false →
      ∃ t, exec .powerOnResetRelease s = .next t ∧ t.pwr.por = false ∧ t.pwr.straps = s.pwr.pins ∧ t.pwr.st = .ps0 ∧ t.pwr.bootWait = true ∧
        t.hall = {} ∧ t.pan.overlay = [] ∧ t.pan.flash = s.pan.flash ∧ t.clo.nor = s.clo.nor ∧ t.stg.fuses = s.stg.fuses ∧ t.stg.blobs = s.stg.blobs ∧
        t.out = s.out ∧ t.seqs = []) ∧
    (s.pwr.lowMains.contains m = false →
      ∃ t, exec (.mainSupplyDrop m) s = .next t ∧ t.pwr.por = true ∧ t.pwr.st = (if s.pwr.vaux then .off else .ps0) ∧ t.pwr.lowMains = m :: s.pwr.lowMains ∧
        t.hall = {} ∧ t.pan.overlay = [] ∧ t.pan.flash = s.pan.flash ∧ t.stg.fuses = s.stg.fuses ∧ t.stg.blobs = s.stg.blobs ∧ t.seqs = [] ∧ t.out = s.out) ∧
    (∃ t, exec .vauxLoss s = .next t ∧ t.rd STD_WAKE_TIMER.SECONDS = 0 ∧ RegsBut s t [STD_WAKE_TIMER.SECONDS] ∧
      t = { s with regs := t.regs, pwr := { s.pwr with vaux := false, shutLatch := false, wakeOut := false } }) ∧
    exec .vauxApply s = .next { s with pwr := { s.pwr with vaux := true } } ∧
    (s.pwr.shutLatch = true → [MainSupply.vcore, .vsram, .vserdesL, .vserdesH, .vddq, .vio].all s.pwr.lowMains.contains = true →
      exec .shutdownLatchClear s = .next { s with pwr := { s.pwr with shutLatch := false } }) ∧
    (s.pwr.pwrfail = false → running s = true → asleep s = false → pwrMode s = 0 → s.pwr.straps.holdup = false →
      ∃ t, exec .pwrfailAssert s = .next t ∧ t.pwr = { s.pwr with pwrfail := true, releaseCount := false, frozen := true } ∧
        t.on LDR_CTL.DUMP_ARM = false ∧ t.ldr.lossResult = 4 ∧ RegsBut s t [LDR_CTL.DUMP_ARM] ∧
        t = { s with regs := t.regs, pwr := t.pwr, ldr := { s.ldr with dumpImg := none, lossResult := 4 } }) ∧
    (s.pwr.pwrfail = true →
      exec .pwrfailDeassert s = .next { s with pwr := { s.pwr with pwrfail := false, releaseCount := true } }) ∧
    (s.pwr.releaseCount = true → s.pwr.pwrfail = false → s.pwr.lowMains = [] → running s = true → s.pwr.dumpStarted = true →
      exec .pwrfailReleaseExpiry s = .next { s with pwr := { s.pwr with releaseCount := false, restart := true } }) ∧
    (s.pwr.dumpStarted = true → s.pwr.st ≠ .off → s.pwr.afterDump = none →
      ∃ t, exec .dumpDirectoryPass s = .next t ∧ t.pwr.st = .off ∧ t.hall = {} ∧ t.stg.blobs = s.stg.blobs ∧ t.pan.flash = s.pan.flash ∧ t.clo.nor = s.clo.nor) ∧
    (running s = true → s.on STD_CLK_CTL.REF_LOST = false → s.pwr.dumpStarted = false → s.pwr.straps.holdup = false → s.pwr.afterDump = none →
      ∃ t, exec .refclkLoss s = .next t ∧ t.pwr.st = .off ∧ t.pwr.resetCause = 4 ∧ t.hall = {} ∧ t.pan.flash = s.pan.flash)

/-- Wake sources: a wake from PS3 to PS5 sets the status bit, clears STD_PWR_MODE, leaves the state for the one it was entered from, and gives a waiting
supervisor a WAKE event naming the source; in Off the timer and a static-address START assert WAKE# unless the shutdown latch is set.
Where the spec leaves a point open, this follows the model: log entries 94 and 124. -/
def Obligations.WakeSources : Prop :=
  ∀ (s : State) (p : Nat) (w : WaitRec), s.inv = true →
    (s.pwr.st = .ps5 → s.rd ⟨STD_WAKE_STATUS.addr, 0, 0, 7⟩ = 0 → bitAt (s.rd STD_WAKE_EN.EN) 2 = true → (s.seq 64).wait = some w →
      ∃ t, exec (.linkWake p) s = .next t ∧ t.pwr = { s.pwr with st := s.pwr.leftFrom } ∧ t.rd ⟨STD_WAKE_STATUS.addr, 0, 0, 7⟩ = 4 ∧
        t.rd STD_PWR_MODE.MODE = 0 ∧ (t.seq 64).wait = none ∧ (t.seq 64).state = 1 ∧ (t.seq 64).pc = (s.seq 64).pc ∧
        (∀ r, (t.seq 64).reg r = if r = w.rd ∧ r ≠ 0 then evWord 0x14 2 else (s.seq 64).reg r) ∧ (∀ m, m ≠ 64 → t.seq m = s.seq m) ∧
        t = { s with regs := t.regs, pwr := t.pwr, std := t.std, porch := t.porch, seqs := t.seqs }) ∧
    (s.rd STD_WAKE_TIMER.SECONDS ≠ 0 → s.pwr.st = .off → s.pwr.shutLatch = false → s.pwr.vaux = true →
      ∃ t, exec .wakeTimerExpiry s = .next t ∧ t.pwr.wakeOut = true ∧ t.out = s.out ++ [.wakeAsserted] ∧ t.rd STD_WAKE_TIMER.SECONDS = 0 ∧
        RegsBut s t [STD_WAKE_TIMER.SECONDS] ∧ t = { s with regs := t.regs, pwr := { s.pwr with wakeOut := true }, out := t.out }) ∧
    (s.pwr.st = .off → s.pwr.shutLatch = false → s.pwr.vaux = true →
      exec .i3cStaticAddressStart s = .next { s with pwr := { s.pwr with wakeOut := true }, out := s.out ++ [.wakeAsserted] }) ∧
    (s.pwr.st = .off → s.pwr.shutLatch = true → exec .i3cStaticAddressStart s = .next s)

/-- The clocks: PLL_EN and PLL_LOCK are set, SEL takes the root PLL only once it has locked and takes back the slow time, the domains follow a write while
the root PLL is selected, latched pads are released, and the slow oscillator's ticks count while the time base stands on it. Heat: a conversion gives the mean of the last four; the governor counts up or down by one sixteenth against the cap of R536 and reads 16 while it is
disabled; a change of the device step raises THERMAL; a port at or above its ceiling goes up one step.
Where the spec leaves a point open, this follows the model: log entry 19. -/
def Obligations.ClocksAndHeat : Prop :=
  (∀ (s : State) (v : U64) (k : Nat) (c : Int), s.inv = true →
     (s.pwr.st ≠ .off → s.pwr.por = false →
       ∃ t, exec .pllEnable s = .next t ∧ t.on STD_CLK_CTL.PLL_EN = true ∧ RegsBut s t [STD_CLK_CTL.PLL_EN] ∧ t = { s with regs := t.regs }) ∧
     (s.on STD_CLK_CTL.PLL_EN = true → s.on STD_CLK_CTL.REF_LOST = false →
       ∃ t, exec .pllLock s = .next t ∧ t.on STD_CLK_CTL.PLL_LOCK = true ∧ RegsBut s t [STD_CLK_CTL.PLL_LOCK] ∧ t = { s with regs := t.regs }) ∧
     (s.on STD_CLK_CTL.PLL_LOCK = true → s.pwr.timeOnLso = true →
       ∃ t, exec .clockSelect s = .next t ∧ t.on STD_CLK_CTL.SEL = true ∧ t.std = { s.std with clockPll := true } ∧
         t.pwr = { s.pwr with time := s.pwr.time + BitVec.ofNat 64 ((s.pwr.lsoCount * s.pwr.lsoPeriod + 32768) / 65536), timeOnLso := false, lsoCount := 0 } ∧
         RegsBut s t [STD_CLK_CTL.SEL] ∧ t = { s with regs := t.regs, std := t.std, pwr := t.pwr }) ∧
     (s.on STD_CLK_CTL.PLL_LOCK = false → exec .clockSelect s = .next s) ∧
     (s.on STD_CLK_CTL.SEL = false → exec (.stdDomainEnWrite v) s = .next s) ∧
     (s.on STD_CLK_CTL.SEL = true → v.toNat < 2 ^ 16 →
       ∃ t, exec (.stdDomainEnWrite v) s = .next t ∧ t.rd STD_DOMAIN_EN.FABRIC = v.toNat % 16 ∧ t.rd ⟨STD_DOMAIN_EN.addr, 0, 8, 19⟩ = v.toNat / 256 % 2 ^ 19) ∧
     exec .stdPadRelease s = .next { s with pwr := { s.pwr with padLatched := false } } ∧
     (s.pwr.timeOnLso = true →
       exec (.lsoCorrection k c) s = .next { s with pwr := { s.pwr with lsoCount := s.pwr.lsoCount + ((k : Int) + c).toNat } }) ∧
     (s.pwr.timeOnLso = false → s.on STD_CLK_CTL.SEL = true → k ≠ 0 →
       ∃ t, exec (.lsoCorrection k c) s = .next t ∧ t.rd STD_LSO_CAL.AGE = 0 ∧
         t.rd STD_LSO_CAL.PERIOD = 97656250 * 65536 / ((k : Int) + c).toNat % 2 ^ STD_LSO_CAL.PERIOD.width ∧ t = { s with regs := t.regs })) ∧
  (∀ (s : State) (k raw n : Nat) (r : Int), s.inv = true →
     (k ≤ 24 → running s = true → (s.sensor k).broken = 0 → 0 ≤ r → r < 480 → (s.sensor k).last4 = [r, r, r, r] → (s.sensor k).same < 999 →
       (∀ j ∈ neighbours k, (s.sensor j).last4 = []) →
       ∃ t, exec (.sensorConversion k raw r) s = .next t ∧ (t.sensor k).reading = r ∧ (t.sensor k).last4 = [r, r, r, r] ∧ (t.sensor k).broken = 0 ∧
         (∀ j, j ≠ k → t.sensor j = s.sensor j) ∧ t = { s with chm := t.chm }) ∧
     (∃ t, exec .thermalStepRecompute s = .next t ∧
       t.chm.thermStep = min 15 ((List.range 8).foldl (fun a z => max a (zoneNeed s z)) 0) ∧ t.chm.lastStep = deviceStep t ∧
       t = { s with chm := t.chm, seqs := t.seqs }) ∧
     (∃ t, exec (.powerGovernorTick raw) s = .next t ∧ t.chm.p10 = (raw :: s.chm.p10).take 10 ∧ t = { s with chm := t.chm } ∧
       (s.on CHM_CTL.GOV_EN = false → t.chm.a16 = 16) ∧
       (s.on CHM_CTL.GOV_EN = true → powerCap s < meanPower t → t.chm.a16 = max (s.chm.a16 - 1) 1) ∧
       (s.on CHM_CTL.GOV_EN = true → meanPower t + 100 < powerCap s → t.chm.a16 = min (s.chm.a16 + 1) 16)) ∧
     (zonePorts s = [n] → ((List.range 16).any fun d => diePresent s n d && dieBroken s n d) = false → hottestOf s n = some r →
       4 * (s.rd CHM_CTL.FLASH_CEIL : Int) ≤ r →
       ∃ t, exec .portStepRecompute s = .next t ∧ Tbl.getD t.chm.portStep n 0 = min 15 (Tbl.getD s.chm.portStep n 0 + 1) ∧ t = { s with chm := t.chm }))

/-! ## The Attic and the self-tests (chapter 15) -/

/-- The Attic: a program posts the record it staged, under its own sequencer as source; an operating second ends; waiting records are programmed into the
mirror, or a page in full mode; a write of a window's cursor latches it and the latch gives the records from there on, at most 64; a lost copy is announced.
Where the spec leaves a point open, this follows the model: log entry 125. -/
def Obligations.Attic : Prop :=
  ∀ (s : State) (n code sev seq w : Nat) (l : List Nat) (x : AtticWin), s.inv = true →
    (n < 64 → 0x8000 ≤ code → code < 2 ^ 16 → 1 ≤ sev → sev ≤ 5 → s.atc.postedThisSec < 4096 →
      ∃ t r, exec (.atcPostGo (.portSeq n) code sev) s = .next t ∧ Only [.atc] s t ∧ t.atc.ring.getLast? = some r ∧ r.code = code ∧ r.sev = sev ∧
        r.src = 0xE ∧ r.origin = n ∧ r.seq = s.atc.nextSeq ∧ r.time = s.pwr.opSec ∧ r.p0 = (Tbl.getD s.atc.stageLo n 0).toNat % 2 ^ 32 ∧
        r.p3 = (Tbl.getD s.atc.stageHi n 0).toNat / 2 ^ 32 ∧ t.atc.nextSeq = (s.atc.nextSeq + 1) % 2 ^ 32 ∧ t.atc.waiting = s.atc.waiting ++ [r]) ∧
    (n < 64 → code < 0x8000 → exec (.atcPostGo (.portSeq n) code sev) s = .next s) ∧
    (∃ t, exec .operatingSecondEnd s = .next t ∧ Only [.pwr, .atc, .clo] s t ∧ t.pwr = { s.pwr with opSec := s.pwr.opSec + 1 } ∧
      t.atc.postedThisSec = 0 ∧ t.atc.droppedThisSec = 0 ∧ (0 < s.atc.droppedThisSec → (t.atc.ring.getLast?).map (fun r => (r.code, r.p0)) =
        some (0x0003, s.atc.droppedThisSec % 2 ^ 32))) ∧
    (s.atc.full = false → s.clo.op = none → s.atc.clearPending = false →
      ∃ t, exec .atticMirrorProgram s = .next t ∧ Only [.atc] s t ∧ t.atc.waiting = [] ∧ t.atc.ring = s.atc.ring ∧ t.atc.nextSeq = s.atc.nextSeq) ∧
    (s.atc.full = false → exec .fullModePageProgram s = .next s) ∧
    (s.atc.full = true → s.atc.waiting ≠ [] → s.atc.moving = none → s.atc.wins = [] →
      ∃ t g, exec .fullModePageProgram s = .next t ∧ Only [.atc] s t ∧ t.atc.waiting = s.atc.waiting.drop 2048 ∧ t.atc.segs.getLast? = some g ∧
        g.getLast?.map (fun p => p.recs) = some (s.atc.waiting.take 2048) ∧ t.atc.ring = s.atc.ring) ∧
    (w < 2 → let old := ((atticRecords s.atc).head?.map fun r => r.seq).getD s.atc.nextSeq
      ∃ t y, exec (.atcWinCursorWrite (.host n) w seq) s = .next t ∧ Only [.atc] s t ∧ Tbl.find t.atc.wins w = some y ∧ y.cursor = seq % 2 ^ 32 ∧
        y.oldest = old ∧ y.gap = olderSeq (seq % 2 ^ 32) old ∧ y.ready = false ∧ y.latching = true ∧ t.atc.ring = s.atc.ring) ∧
    (exec (.atcWinCursorWrite (.host n) 2 seq) s = .next s) ∧
    (Tbl.find s.atc.wins w = some x → x.latching = true → x.gap = false →
      ∃ t y, exec (.windowLatchDone w l) s = .next t ∧ Only [.atc] s t ∧ Tbl.find t.atc.wins w = some y ∧ y.ready = true ∧ y.latching = false ∧
        y.recs = ((atticRecords s.atc).filter fun r => !olderSeq r.seq x.cursor && !l.contains r.seq).take 64) ∧
    (s.atc.full = true → s.atc.copySecond = none →
      ∃ t, exec (.atticCopyMove 0) s = .next t ∧ Only [.atc] s t ∧ t.atc.segs = [] ∧ t.atc.moving = none)

/-- In-service tests and Device Self-test: a failed item is recorded and its unit taken out of use; a segment that passes leads to the next, the last ends
with result 0, a failed one with result 7 and its LBA, and the time limit with result 8. -/
def Obligations.SelfTests : Prop :=
  ∀ (s : State) (unit detail lba : Nat) (d : DstRun), s.inv = true →
    (s.on ATC_CTL.IST_EN = true → asleep s = false →
      ∃ t, exec (.inServiceTestItem 2 unit detail false false) s = .next t ∧ Only [.atc, .pan, .scu] s t ∧ t.atc.badHard = unit :: s.atc.badHard) ∧
    (s.on ATC_CTL.IST_EN = true → asleep s = false → exec (.inServiceTestItem 2 unit detail false true) s = .next s) ∧
    (s.atc.dst = some d → asleep s = false → ∀ k, nextSegment d.ext d.seg = some k →
      exec (.dstSegment true lba) s = .next (s.modAtc fun a => { a with dst := some { d with seg := k } })) ∧
    (s.atc.dst = some d → asleep s = false → ∃ t r, exec (.dstSegment false lba) s = .next t ∧ Only [.atc, .nvm] s t ∧ t.atc.dst = none ∧
      t.atc.dstResults.head? = some r ∧ r.result = 7 ∧ r.seg = d.seg ∧ r.lba = lba) ∧
    (s.atc.dst = some d → asleep s = false → ∃ t r, exec .dstLimitExpiry s = .next t ∧ Only [.atc, .nvm] s t ∧ t.atc.dst = none ∧
      t.atc.dstResults.head? = some r ∧ r.result = 8)

/-! ## The Strongroom (chapter 12) -/

/-- The lock of the key management engine and its operations: an idle lock is granted to the owner that asks, the holder's release frees it, a time-out ends
the operation with result 7 and frees the lock; an operation of the lock's owner begins when the engine is idle, and the entropy failure is latched.
Where the spec leaves a point open, this follows the model: log entries 20 and 41. -/
def Obligations.KeyManagement : Prop :=
  ∀ (s : State) (own kind nsid range auth slot cred newAuth newCred digest key loc gen : Nat), s.inv = true →
    (ownerOk s own = true → lockOwner s ≠ own →
      ∃ t, exec (.stgLockAcquire own) s = .next t ∧ Only [.regs] s t ∧ (lockOwner s ≠ 0 → lockOwner t = lockOwner s ∧ bitAt (t.rd STG_LOCK.WAITING) (own - 1) = true)) ∧
    (own ≠ 0 → lockOwner s = own → exec (.stgLockRelease own) s = .next (grantLock s)) ∧
    (lockOwner s ≠ 0 → s.stg.op = none →
      ∃ t, exec .kmeLockTimeout s = .next t ∧ Only [.regs, .atc] s t ∧ t.on STG_STATUS.BUSY = false ∧ t.on STG_STATUS.LOCK_TIMEOUT = true) ∧
    (let b : Binding := { kind := kind, nsid := nsid, range := range, auth := auth }
     exec (.unwrapLoad 3 kind nsid range auth slot cred) s =
        .next (kmeStart s { op := 1, owner := 3, bind := b, slot := slot, cred := cred } (slotFree s slot b)) ∧
      exec (.generate 3 kind nsid range auth slot cred) s =
        .next (kmeStart s { op := 2, owner := 3, bind := b, slot := slot, cred := cred } (slotFree s slot b))) ∧
    (let b : Binding := { kind := keyKind range, nsid := nsid, range := range, auth := auth }
     exec (.rewrap 3 nsid range auth cred newAuth newCred) s =
        .next (kmeStart s { op := 3, owner := 3, bind := b, cred := cred, newAuth := newAuth, newCred := newCred } true)) ∧
    exec (.zeroise 3 slot) s = .next (kmeStart s { op := 4, owner := 3, slot := slot } true) ∧
    exec (.eraseStale 3) s = .next (kmeStart s { op := 5, owner := 3 } true) ∧
    exec (.seedReplace 1) s = .next (kmeStart s { op := 6, owner := 1 } (!s.on STG_STATUS.SEED_OK)) ∧
    exec (.verifyImage 1 loc) s = .next (kmeStart s { op := 7, owner := 1, arg := loc } true) ∧
    exec (.sign 3 digest key) s = .next (kmeStart s { op := 8, owner := 3, digest := digest, arg := key } true) ∧
    exec (.genNote 4 nsid gen) s = .next (kmeStart s { op := 9, owner := 4, bind := { kind := 2, nsid := nsid }, arg := gen } true) ∧
    (∀ o : KmeOp, ownerOk s o.owner = true → lockOwner s = o.owner → s.on STG_STATUS.TAMPERED = false → s.pwr.straps.testmode = false → s.stg.op = none →
      ∃ t, kmeStart s o true = t ∧ t.stg.op = some o ∧ t.on STG_STATUS.BUSY = true ∧ Only [.regs, .stg] s t) ∧
    (∃ t, exec .entropyHealthFail s = .next t ∧ t.on STG_STATUS.NO_ENTROPY = true ∧ RegsBut s t [STG_STATUS.NO_ENTROPY] ∧ Only [.regs] s t)

/-- An operation of the engine ends: it is no longer held and BUSY is clear. Tampering erases key slots, an unlocked debug port counts as tampering, and the
third failed unlock does too.
Where the spec leaves a point open, this follows the model: log entry 42. -/
def Obligations.KeyEvents : Prop :=
  ∀ (s : State) (o : KmeOp) (bit : Nat), s.inv = true →
    (s.stg.op = some o → o.op = 5 →
      ∃ t, exec (.kmeOperationDone true) s = .next t ∧ t.stg.op = none ∧ t.on STG_STATUS.BUSY = false ∧ t.stg.fuses = s.stg.fuses) ∧
    (bit < 6 → s.pwr.por = false → exec (.tamperTrip bit) s = .next (tamper s bit)) ∧
    ((s.stg.fuses.authors.any fun e => !(bitAt s.stg.fuses.revoked e.1)) = true →
      ∃ t u, exec (.jtagUnlock true) s = .next t ∧ t = tamper u 4 ∧ u.stg.jtagUnlocked = true ∧ Only [.stg, .free] s u) ∧
    (s.stg.jtagFails = 0 → ∃ t, exec (.jtagUnlock false) s = .next t ∧ t.stg.jtagFails = 1 ∧ t.stg.jtagUnlocked = s.stg.jtagUnlocked)

/-- SPDM: a requester that begins with GET_VERSION gets the versions 1.1 to 1.3 and starts afresh; capabilities settle the version; algorithms are agreed only
with P-384 and SHA-384; the certificate, challenge and measurement requests are answered only after that; no other part of the device changes.
Where the spec leaves a point open, this follows the model: log entries 39 and 118. -/
def Obligations.Spdm : Prop :=
  ∀ (s : State) (ep slot off len nonce : Nat), s.inv = true →
    let ready := (spdmSt s ep).algs = true ∧ (spdmSt s ep).caps = true
    exec (.getVersion ep) s = .next ((s.modSpdm ep fun _ => {}).emit (.spdm ep (.version [0x11, 0x12, 0x13]))) ∧
    (∃ t, exec (.getCapabilities ep 0x12) s = .next t ∧ Only [.stg, .out] s t ∧ t.out = s.out ++ [.spdm ep (.capabilities 0x12)] ∧
      (spdmSt t ep).caps = true ∧ (spdmSt t ep).ver = 0x12) ∧
    (exec (.getCapabilities ep 0x10) s = .next (s.emit (.spdm ep .errUnsupported))) ∧
    (spdmOpen s = true → (spdmSt s ep).caps = true →
      ∃ t, exec (.negotiateAlgorithms ep true true) s = .next t ∧ Only [.stg, .out] s t ∧ t.out = s.out ++ [.spdm ep .algorithms] ∧ (spdmSt t ep).algs = true) ∧
    (spdmOpen s = true → ready → exec (.getDigests ep) s = .next (s.emit (.spdm ep (.digests [chainDigest 0, chainDigest 1])))) ∧
    (spdmOpen s = true → ready → slot ≤ 1 → exec (.getCertificate ep slot off len) s = .next (s.emit (.spdm ep (.certificate slot off len)))) ∧
    (spdmOpen s = true → ready → 1 < slot → exec (.getCertificate ep slot off len) s = .next (s.emit (.spdm ep .errUnsupported))) ∧
    (spdmOpen s = true → ready → s.stg.devId = true → exec (.challenge ep 0 nonce) s = .next (s.emit (.spdm ep (.challengeAuth 0 nonce)))) ∧
    (spdmOpen s = true → ready → ∃ t, exec (.getMeasurements ep 0 nonce false) s = .next t ∧ Only [.stg, .out] s t ∧
      t.out = s.out ++ [.spdm ep (.measurements [(0, 7)] false)]) ∧
    (spdmOpen s = true → ready → 0x12 ≤ (spdmSt s ep).ver → ∀ v, (spdmSt s ep).chunks = [v] →
      exec (.chunkGet ep 0) s = .next (s.emit (.spdm ep (.chunk 0 true v))))

/-! ## The house address space, the fabric, the management endpoint and JTAG (chapters 1 and 17) -/

/-- A register write and BAR 2: the supervisor writes the fields of SCU_WEAR_CFG unless its lock is set, and no other register; a host's register write reaches
nothing but a window cursor; a reserved or misaligned address takes nothing; a port sequencer's store that Table 8-4 forbids traps with HOUSE_DENIED; CFG_LOCK is
never cleared by a write; BAR 2 reads answer the register and BAR 2 writes of a cursor latch its window; in D3hot BAR 2 answers Unsupported Request.
Where the spec leaves a point open, this follows the model: log entries 14, 15, 16 and 17. -/
def Obligations.HouseAccess : Prop :=
  ∀ (s : State) (v : U64) (a n p : Nat), s.inv = true →
    (s.pwr.por = false → s.pwr.st ≠ .off →
      (∃ t, exec (.registerWrite .supervisor 0x400018 v) s = .next t ∧ Only [.regs] s t ∧ (∀ f : Fld, f.addr ≠ 0x400018 → t.rd f = s.rd f) ∧
        (s.on SCU_CTL.CFG_LOCK = false → t.rd SCU_WEAR_CFG.WEAR_LIMIT = bits v.toNat 0 16 ∧
          t.rd SCU_WEAR_CFG.WEAR_SPREAD = bits v.toNat 16 16 ∧ t.rd SCU_WEAR_CFG.STATIC_H = bits v.toNat 32 16) ∧
        (s.on SCU_CTL.CFG_LOCK = true → t.rd SCU_WEAR_CFG.WEAR_LIMIT = s.rd SCU_WEAR_CFG.WEAR_LIMIT ∧
          t.rd SCU_WEAR_CFG.WEAR_SPREAD = s.rd SCU_WEAR_CFG.WEAR_SPREAD ∧
          t.rd SCU_WEAR_CFG.STATIC_H = s.rd SCU_WEAR_CFG.STATIC_H)) ∧
      (∃ t, exec (.registerWrite .supervisor 0x400000 v) s = .next t ∧ Only [.regs] s t ∧ t.on SCU_CTL.CFG_LOCK = (s.on SCU_CTL.CFG_LOCK || bitAt v.toNat 5) ∧
        t.on SCU_CTL.RECLAIM_EN = bitAt v.toNat 0) ∧
      ((s.hport p).up = true → p ∈ portsInUse s → (s.hport p).d3 = false →
        exec (.bar2MemoryWrite p 0x701000 8 v) s = exec (.atcWinCursorWrite (.host p) 0 (v.toNat % 2 ^ 32)) s)) ∧
    (exec (.registerWrite (.host p) 0x400018 v) s = .next s ∧ exec (.registerWrite .supervisor 0x400048 v) s = .next s ∧
      (a % 8 ≠ 0 → exec (.registerWrite .supervisor a v) s = .next s)) ∧
    (n < 64 → (s.seq n).state = 1 → (s.seq n).inTrap = false → a % 8 = 0 → houseStoreOk n a = false →
      ∃ t, exec (.registerWrite (.portSeq n) a v) s = .next t ∧ Trapped s t n 0x04 a (s.seq n).pc) ∧
    ((s.hport p).up = true → p ∈ portsInUse s → (s.hport p).d3 = false → a + 8 ≤ 0x701000 → exec (.bar2MemoryWrite p a 8 v) s = .next s) ∧
    ((s.hport p).up = true → p ∈ portsInUse s → (s.hport p).d3 = false →
      exec (.bar2MemoryRead p 0x400018 8) s = .next (s.emit (.bar2Reply p [s.rd SCU_WEAR_CFG.WEAR_LIMIT +
        s.rd SCU_WEAR_CFG.WEAR_SPREAD * 2 ^ 16 + s.rd SCU_WEAR_CFG.STATIC_H * 2 ^ 32]))) ∧
    ((s.hport p).up = true → p ∈ portsInUse s → (s.hport p).d3 = true →
      exec (.bar2MemoryWrite p a 8 v) s = .next (s.emit (.unsupported p)) ∧ exec (.bar2MemoryRead p a 8) s = .next (s.emit (.unsupported p)))

/-- The fabric: a burst begun is never split, a waiting control word goes before any burst not begun, the next input in turn is taken, and a receiving link
delivers a sound word and a word with one data bit wrong as the word that was sent, and marks a word that cannot be corrected.
Where the spec leaves a point open, this follows the model: log entries 25 and 26. -/
def Obligations.FabricLinks : Prop :=
  ∀ (s : State) (link input i j len left k : Nat) (ctl : List Nat) (data : List (Nat × Nat)) (d : BitVec 256) (t m : BitVec 16) (sill : Bool),
    s.inv = true → link < 16 →
    let o := Tbl.getD s.fab.outs link {}
    (o.burst = some (i, left) →
      ∃ u, exec (.outputLinkArbitration link ctl data) s = .next u ∧ Only [.fab, .out] s u ∧ u.out = s.out ++ [.fabricWord link i false] ∧
        u.fab.rx = s.fab.rx ∧ (Tbl.getD u.fab.outs link {}).burst = if left ≤ 1 then none else some (i, left - 1)) ∧
    (o.burst = none → o.ctl = [] → o.lastCtl < 16 → i < 16 → j < 16 → (i + 15 - o.lastCtl) % 16 ≤ (j + 15 - o.lastCtl) % 16 →
      ∃ u, exec (.outputLinkArbitration link [j, i] data) s = .next u ∧ Only [.fab, .out] s u ∧ u.out = s.out ++ [.fabricWord link i true] ∧
        (Tbl.getD u.fab.outs link {}).burst = none ∧ (Tbl.getD u.fab.outs link {}).lastCtl = i) ∧
    (o.burst = none → o.ctl = [] → o.data = [] → i < 16 → 1 ≤ len → len ≤ 8 →
      ∃ u, exec (.outputLinkArbitration link [] [(i, len)]) s = .next u ∧ Only [.fab, .out] s u ∧ u.out = s.out ++ [.fabricWord link i false] ∧
        (Tbl.getD u.fab.outs link {}).burst = if len = 1 then none else some (i, len - 1)) ∧
    (∃ u, exec (.fabricWordArrival link input d (transoms d) (mullions d) (sillOf d)) s = .next u ∧ Only [.fab] s u ∧ u.fab.outs = s.fab.outs ∧
      Tbl.find u.fab.rx link = some { w := casEncode d, poison := false }) ∧
    (k < 256 → ∃ u, exec (.fabricWordArrival link input (d ^^^ BitVec.twoPow 256 k) (transoms d) (mullions d) (sillOf d)) s = .next u ∧ Only [.fab] s u ∧
      Tbl.find u.fab.rx link = some { w := casEncode d, poison := false }) ∧
    (casDecode { d := d, t := t, m := m, sill := sill } = .bad →
      ∃ u r, exec (.fabricWordArrival link input d t m sill) s = .next u ∧ Only [.fab, .atc] s u ∧
        Tbl.find u.fab.rx link = some { w := { d := d, t := t, m := m, sill := sill }, poison := true } ∧ u.atc.ring.getLast? = some r ∧
        r.code = 0x0020 ∧ r.sev = 4 ∧ r.seq = s.atc.nextSeq ∧ r.p0 = link ∧ r.p1 = input % 2 ^ 32)

/-- The management endpoint and JTAG: a message reaches the supervisor's queue as an MGMT event with its buffer; ENTDAA takes the address and answers the
Provisioned ID; IDCODE shifts out 0x106409E7; the boundary-scan instructions are taken only while TESTMODE was sampled, else they act as BYPASS.
Where the spec leaves a point open, this follows the model: log entries 27, 28, 29 and 30. -/
def Obligations.ManagementAndJtag : Prop :=
  ∀ (s : State) (buf v addr : Nat), s.inv = true →
    (s.pwr.por = false → s.pwr.st ≠ .off →
      (asleep s = false → pwrMode s = 0 → (s.seq 64).wait = none → (s.seq 64).held = [] → (s.seq 64).evq.length < 64 →
        ∃ t e, exec (.mgmtMessage buf) s = .next t ∧ OnlySeq s t 64 ∧ t.seq 64 = { s.seq 64 with evq := (s.seq 64).evq ++ [e] } ∧
          e.toNat % 256 = 0x12 ∧ e.toNat / 2 ^ 32 = buf % 2 ^ 32) ∧
      (∃ t pid, exec (.entdaa addr) s = .next t ∧ Only [.std, .out] s t ∧ t.std = { s.std with i3c := some (addr % 128) } ∧
        t.out = s.out ++ [.i3cPid pid] ∧ pid / 2 ^ 16 % 2 ^ 16 = 0x0640 ∧ pid / 2 ^ 12 % 16 = (if isWorker s then 0xF else 0) ∧
        pid % 2 ^ 12 = s.stg.fuses.serial % 2 ^ 12)) ∧
    (∃ t, exec .bypass s = .next t ∧ Only [.jtag] s t ∧ t.jtag = { s.jtag with ir := .bypass, driving := false }) ∧
    (∃ t, exec .idcode s = .next t ∧ Only [.jtag, .out] s t ∧ t.jtag.ir = .idcode ∧ t.out = s.out ++ [.jtag 0x106409E7]) ∧
    (s.pwr.straps.testmode = true →
      (∃ t, exec (.samplePreload v) s = .next t ∧ Only [.jtag] s t ∧ t.jtag.ir = .sample ∧ t.jtag.cells = v ∧ t.jtag.driving = false) ∧
      (∃ t, exec .extest s = .next t ∧ Only [.jtag] s t ∧ t.jtag = { s.jtag with ir := .extest, driving := true }) ∧
      (∃ t, exec .extestPulse s = .next t ∧ Only [.jtag] s t ∧ t.jtag = { s.jtag with ir := .extestPulse, driving := true }) ∧
      (∃ t, exec .extestTrain s = .next t ∧ Only [.jtag] s t ∧ t.jtag = { s.jtag with ir := .extestTrain, driving := true })) ∧
    (s.pwr.straps.testmode = false → exec (.samplePreload v) s = exec .bypass s ∧ exec .extest s = exec .bypass s ∧
      exec .extestPulse s = exec .bypass s ∧ exec .extestTrain s = exec .bypass s)

/-! ## The Porch (chapter 2) -/

/-- The host links: a link reaches L0 at a rate and width that both ends support; a TLP or FLIT that fails its check is counted and replayed, a duplicate
discarded, the next one taken, and a poisoned completion halts the channel of its tag with cause 0x3; configuration requests are retried until the identity
is fixed and then answered with the device ID in use; an idle port that may use it enters L1.
Where the spec leaves a point open, this follows the model: log entry 11. -/
def Obligations.HostLinks : Prop :=
  ∀ (s : State) (p rate width seq tg c n u : Nat) (flit : Bool) (x : DmaChan) (y : Ctx), s.inv = true →
    let h := s.hport p
    (linkAllowed s p = true → h.up = false → 1 ≤ rate → rate ≤ rateCap s → width ∈ [8, 4, 2, 1] →
      ∃ t, exec (.hostLinkUp p rate width flit) s = .next t ∧ Only [.porch] s t ∧
        t.hport p = { h with up := true, rate := rate, width := width, flit := flit || decide (6 ≤ rate), lstate := 0, dlSeq := 0 } ∧
        ∀ q, q ≠ p → t.hport q = s.hport q) ∧
    (h.up = true → h.flit = flit →
      (∃ t, exec (.tlpReceive p seq false flit false none) s = .next t ∧ Only [.regs, .out] s t ∧ t.out = s.out ++ [.replay p] ∧
        t.rd (PCH_LINK_ERR.CRC_FAIL_CNT p) = min (s.rd (PCH_LINK_ERR.CRC_FAIL_CNT p) + 1) (2 ^ (PCH_LINK_ERR.CRC_FAIL_CNT p).width - 1) ∧
        RegsBut s t [PCH_LINK_ERR.CRC_FAIL_CNT p]) ∧
      (seqBefore h.dlSeq (seq % 4096) = true → exec (.tlpReceive p seq true flit true (some tg)) s = .next s) ∧
      (h.dlSeq < 4096 → seq = h.dlSeq →
        (∃ t, exec (.tlpReceive p seq true flit false none) s = .next t ∧ Only [.porch] s t ∧ t.hport p = { h with dlSeq := (h.dlSeq + 1) % 4096 } ∧
          t.porch.chans = s.porch.chans) ∧
        (∃ t, exec (.tlpReceive p seq true flit true none) s = .next t ∧ Only [.porch] s t ∧
          t.hport p = { h with dlSeq := (h.dlSeq + 1) % 4096, aer := h.aer ++ [12] } ∧ t.porch.chans = s.porch.chans) ∧
        (s.porch.chans = [(c, x)] → c / 64 = p → x.tags = [(tg, n, u)] → s.ctx n = some y → y.chan = c →
          ∃ t, exec (.tlpReceive p seq true flit true (some tg)) s = .next t ∧ Only [.porch] s t ∧ (t.chan c).state = 2 ∧ (t.chan c).cause = 3 ∧
            (t.chan c).tags = [] ∧ (t.chan c).cmd = some n ∧ (t.hport p).aer = h.aer ++ [12]))) ∧
    (s.pwr.por = false → s.pwr.st ≠ .off → s.porch.idle = false → p ∈ portsInUse s →
      (s.porch.fixed = false → exec (.configRequest p) s = .next (s.emit (.cfgReply p true 0))) ∧
      (s.porch.fixed = true → ∃ t, exec (.configRequest p) s = .next t ∧ Only [.porch, .out] s t ∧
        t.out = s.out ++ [.cfgReply p false (if s.porch.recovery then 0x06FF else 0x0640)] ∧
        t.hport p = { h with lstate := if h.up = true ∧ h.lstate = 2 then 0 else h.lstate } ∧ t.porch.chans = s.porch.chans)) ∧
    (h.up = true → h.d3 = false → h.lstate ≤ 1 → s.porch.ident.pmAllow % 2 = 1 → s.porch.chans = [] → s.hall.ctxs = [] → s.hall.coal = [] →
      ∃ t, exec (.aspmIdleExpiry p) s = .next t ∧ Only [.porch] s t ∧ t.hport p = { h with lstate := 2 } ∧ ∀ q, q ≠ p → t.hport q = s.hport q)

/-- Resets and link power states: PERST#, a hot reset and a function level reset put the controller of the port out of service, the first two with the link
down; a cleared bus master enable stops the port's requests and sets CSTS.CFS where the controller is enabled; D3hot is entered and left.
Where the spec leaves a point open, this follows the model: log entry 55. -/
def Obligations.HostResets : Prop :=
  ∀ (s : State) (p : Nat), s.inv = true →
    let h := s.hport p
    (p ∈ portsInUse s → h.perst = false →
      ∃ t, exec (.perstAssert p) s = .next t ∧ Only [.regs, .pwr, .atc, .std, .stg, .porch, .hall, .nvm, .pan, .ldr, .cel, .seqs, .lnd, .scu, .sta] s t ∧ (t.hport p).perst = true ∧ (t.hport p).up = false ∧
        (t.hport p).en = false ∧ (t.hport p).rdy = false ∧ (t.hport p).shst = 0 ∧ (t.hport p).bme = false ∧ (t.hport p).pend = []) ∧
    (p ∈ portsInUse s → ∃ t, exec (.perstDeassert p) s = .next t ∧ Only [.porch] s t ∧ t.hport p = { h with perst := false } ∧
      t.porch.chans = s.porch.chans ∧ ∀ q, q ≠ p → t.hport q = s.hport q) ∧
    (h.up = true →
      (∃ t, exec (.hotReset p) s = .next t ∧ Only [.regs, .atc, .stg, .porch, .hall, .nvm, .pan, .ldr, .cel, .lnd, .scu, .sta] s t ∧ (t.hport p).up = false ∧ (t.hport p).lstate = 3 ∧
        (t.hport p).en = false ∧ (t.hport p).rdy = false ∧ (t.hport p).cfs = false ∧ (t.hport p).shst = 0 ∧ (t.hport p).bme = false) ∧
      (∃ t, exec (.functionLevelReset p) s = .next t ∧ Only [.regs, .atc, .stg, .porch, .hall, .nvm, .pan, .ldr, .cel, .lnd, .scu, .sta] s t ∧ (t.hport p).en = false ∧ (t.hport p).rdy = false ∧
        (t.hport p).cfs = false ∧ (t.hport p).shst = 0 ∧ (t.hport p).bme = false ∧ (t.hport p).msixOn = false ∧ (t.hport p).unmasked = []) ∧
      (∃ t, exec (.d3hotEntry p) s = .next t ∧ Only [.porch] s t ∧ t.hport p = { h with d3 := true } ∧ ∀ q, q ≠ p → t.hport q = s.hport q)) ∧
    (∃ t, exec (.busMasterEnableClear p) s = .next t ∧ Only [.porch] s t ∧ t.hport p = { h with bme := false, cfs := h.cfs || h.en } ∧
      t.porch.chans = s.porch.chans ∧ ∀ q, q ≠ p → t.hport q = s.hport q) ∧
    (h.d3 = true → ∃ t, exec (.d0Return p) s = .next t ∧ Only [.regs, .pwr, .std, .porch, .seqs, .out] s t ∧ t.hport p = { h with d3 := false } ∧
      ∀ q, q ≠ p → t.hport q = s.hport q) ∧
    (h.en = true → ∃ t, exec (.controllerReset p) s = .next t ∧ Only [.regs, .atc, .stg, .porch, .hall, .nvm, .pan, .ldr, .cel, .lnd, .scu, .sta] s t ∧ (t.hport p).en = false ∧ (t.hport p).rdy = false ∧
      (t.hport p).cfs = false ∧ (t.hport p).shst = 0)

/-- The controller: its enable makes the admin queues and is ready once fetching is enabled; doorbells move tails and heads of the queue they name, and one of
no queue or past its size raises an event; an unmasked vector delivers what was pending; a shutdown raises the supervisor's event and drains the Larder.
Where the spec leaves a point open, this follows the model: log entries 58, 63, 64 and 126. -/
def Obligations.HostController : Prop :=
  ∀ (s : State) (p qid v asqs acqs : Nat) (wrr : Bool) (q : SubQ) (r : ComQ), s.inv = true →
    let h := s.hport p
    (linkAllowed s p = true → h.up = true → h.d3 = false → h.en = false → 2 ≤ asqs → asqs ≤ 4096 → 2 ≤ acqs → acqs ≤ 4096 →
      ∃ t, exec (.controllerEnable p wrr asqs acqs) s = .next t ∧ Only [.porch, .hall] s t ∧
        t.hport p = { h with en := true, bme := true, wrr := wrr, asqs := asqs, acqs := acqs,
                             rdy := if s.porch.recovery || s.on HAL_CTL.FETCH_EN then !h.cfs else h.rdy } ∧
        Tbl.find t.hall.sqs (qkey p 0) = some { size := asqs } ∧ Tbl.find t.hall.cqs (qkey p 0) = some { size := acqs } ∧
        (∀ k, k ≠ qkey p 0 → Tbl.find t.hall.sqs k = Tbl.find s.hall.sqs k ∧ Tbl.find t.hall.cqs k = Tbl.find s.hall.cqs k)) ∧
    (h.up = true → h.d3 = true → exec (.doorbellWrite p qid false v) s = .next (s.emit (.unsupported p))) ∧
    (h.up = true → h.d3 = false → h.en = true → h.rdy = true → asleep s = false → pwrMode s = 0 → s.on LDR_CTL.DRAIN = false →
      (Tbl.find s.hall.sqs (qkey p qid) = some q → v < q.size →
        ∃ t, exec (.doorbellWrite p qid false v) s = .next t ∧ Only [.porch, .hall] s t ∧ t.hall = { s.hall with sqs := t.hall.sqs } ∧
          Tbl.find t.hall.sqs (qkey p qid) = some { q with tail := v } ∧ (∀ k, k ≠ qkey p qid → Tbl.find t.hall.sqs k = Tbl.find s.hall.sqs k) ∧
          t.hport p = { h with lstate := if h.lstate = 2 then 0 else h.lstate }) ∧
      (Tbl.find s.hall.cqs (qkey p qid) = some r → v < r.size → h.msixOn = true →
        ∃ t, exec (.doorbellWrite p qid true v) s = .next t ∧ Only [.porch, .hall] s t ∧ t.hall = { s.hall with cqs := t.hall.cqs } ∧
          Tbl.find t.hall.cqs (qkey p qid) = some { r with head := v } ∧ (∀ k, k ≠ qkey p qid → Tbl.find t.hall.cqs k = Tbl.find s.hall.cqs k))) ∧
    (h.up = true → h.d3 = false → h.en = true → h.rdy = true → s.hall.ctxs = [] → s.hall.events = [] →
      Tbl.find s.hall.sqs (qkey p qid) = none →
        ∃ t, exec (.doorbellWrite p qid false v) s = .next t ∧ Only [.porch, .hall] s t ∧
          t.hall = { s.hall with events := [{ typ := 0, info := 1, page := 1, port := p }] }) ∧
    (v < s.porch.ident.msix → h.up = true → v ∉ h.unmasked →
      (v ∈ h.pend → h.fmask = false → ∃ t, exec (.msixVectorUnmask p v) s = .next t ∧ Only [.porch, .out] s t ∧ t.out = s.out ++ [.msix p v] ∧
        (t.hport p).msixOn = true ∧ (t.hport p).unmasked = v :: h.unmasked ∧ (t.hport p).pend = h.pend.filter (fun k => k != v)) ∧
      (v ∉ h.pend → ∃ t, exec (.msixVectorUnmask p v) s = .next t ∧ Only [.porch] s t ∧ t.hport p = { h with msixOn := true, unmasked := v :: h.unmasked })) ∧
    (h.en = true → h.rdy = true → h.shst = 0 → s.on LDR_CTL.DRAIN = true → larderEmpty s = false → p ∈ portsInUse s → (s.seq 64).wait = none →
      (s.seq 64).held = [] → (s.seq 64).evq.length < 64 →
      ∃ t e, exec (.shutdownNotification p) s = .next t ∧ Only [.porch, .nvm, .seqs, .scu] s t ∧ t.hport p = { h with shst := 1 } ∧
        t.seq 64 = { s.seq 64 with evq := (s.seq 64).evq ++ [e] } ∧ e.toNat % 256 = 0x17 ∧ e.toNat / 2 ^ 32 = p % 2 ^ 32) ∧
    (h.en = true → h.rdy = true → h.shst = 0 → s.on LDR_CTL.DRAIN = false → larderEmpty s = false → s.ldr.fronts = [] →
      ∃ t, exec (.shutdownNotification p) s = .next t ∧ Only [.regs, .porch, .nvm, .seqs, .scu] s t ∧ t.hport p = { h with shst := 1 } ∧
        t.on LDR_CTL.DRAIN = true ∧ RegsBut s t [LDR_CTL.DRAIN])

/-! ## The Hall (chapter 3) -/

/-- Fetching and posting: an I/O command that passes the checks takes the next ingest number and its queue's head moves; one that fails ends with the status of
the first check that fails; a ready command whose queue pair has room and no older one is posted with the queue's phase; a command that is not ready is not posted;
a reader resolves once no older write overlaps, and a unit of a write commits in its turn.
Where the spec leaves a point open, this follows the model: log entries 46 and 53. -/
def Obligations.HallFetchAndPost : Prop :=
  ∀ (s : State) (p sq cid n ext a b : Nat) (cmd : HostCmd) (q : SubQ) (arb : ArbSt) (c : Ctx) (d : ComQ) (w : Writer) (u : WUnit), s.inv = true →
    (isIo cmd = true → sq ≠ 0 → Tbl.find s.hall.sqs (qkey p sq) = some q → takeTurn s p sq = some arb →
      (ingestStatus s s.hall.next p cmd = none →
        ∃ t y, exec (.submissionFetch p sq cid cmd) s = .next t ∧ Only [.regs, .hall] s t ∧ t.hall.next = s.hall.next + 1 ∧
          Tbl.find t.hall.sqs (qkey p sq) = some { q with head := (q.head + 1) % q.size } ∧ t.ctx s.hall.next = some y ∧ y.port = p ∧ y.sq = sq ∧
          y.cid = cid ∧ y.cmd = cmd ∧ y.st = .fresh ∧ RegsBut s t [HAL_OVERLAP_CNT.V] ∧ ∀ m, m ≠ s.hall.next → t.ctx m = s.ctx m) ∧
      (ingestStatus s s.hall.next p cmd = some (a, b) → (a, b) ≠ (0, 0) → (a, b) ≠ (7, 0xC0) →
        ∃ t y, exec (.submissionFetch p sq cid cmd) s = .next t ∧ Only [.hall, .nvm] s t ∧ t.hall.next = s.hall.next + 1 ∧ t.ctx s.hall.next = some y ∧
          y.st = .ready ∧ y.sct = a ∧ y.sc = b ∧ y.port = p ∧ y.cid = cid ∧ ∀ m, m ≠ s.hall.next → t.ctx m = s.ctx m)) ∧
    (takeTurn s p sq = none → exec (.submissionFetch p sq cid cmd) s = .next s) ∧
    (s.ctx n = some c → c.st = .ready → c.stair = none → Tbl.find s.hall.sqs (qkey c.port c.sq) = some q → Tbl.find s.hall.cqs (qkey c.port q.cq) = some d →
      olderInQueue s n c = false → (d.tail + 1) % d.size ≠ d.head → (s.hport c.port).bme = true → (s.hport c.port).d3 = false → ringHolds s c = false →
      s.pwr.frozen = false → s.clo.recovery = false → d.ien = false → (∀ e ∈ s.hall.sqs, e.2.deleting = none) →
      ∃ t, exec (.completionPost n) s = .next t ∧ Only [.hall, .out] s t ∧
        t.out = s.out ++ [.completion c.port c.sq c.cid q.cq q.head c.sct c.sc c.dw0 d.phase] ∧
        Tbl.find t.hall.cqs (qkey c.port q.cq) = some { d with tail := if d.tail + 1 = d.size then 0 else d.tail + 1,
                                                               phase := if d.tail + 1 = d.size then !d.phase else d.phase } ∧
        t.ctx n = none ∧ (∀ m, m ≠ n → t.ctx m = s.ctx m) ∧ t.hall.sqs = s.hall.sqs) ∧
    (s.ctx n = some c → c.st ≠ .ready → (c.st = .running → c.resolved = false) → s.clo.recovery = false → exec (.completionPost n) s = .next s) ∧
    (s.ctx n = some c → s.on PAN_CTL.ENABLE = true → c.resolved = false → c.st = .running → c.stair = none → c.reads.all (fun x => mayResolve s n x) = true →
      ∃ t y, exec (.readerResolve n) s = .next t ∧ Only [.regs, .hall, .nvm, .pan, .ldr, .cel, .lnd, .scu, .sta] s t ∧ t.ctx n = some y ∧ y.resolved = true ∧ y.cmd = c.cmd ∧ y.cid = c.cid) ∧
    (s.ctx n = some c → c.reads.all (fun x => mayResolve s n x) = false → exec (.readerResolve n) s = .next s) ∧
    (writerOf s n = some w → (w.units.find? fun u => u.ext == ext && u.st == .waiting) = some u → u.share = 0 → w.tags = [] →
      (unitTurn s n u = true → s.on PAN_CTL.ENABLE = true → isWorker s = false → u.part = [] → unitAdmitted s w.cmd u = true →
        s.pan.overlay.length + (slotUnits w.cmd u).length ≤ 524288 → s.pwr.straps.holdup = false → slotUnits w.cmd u ≠ [] →
        exec (.unitCommit n ext) s = .next (panFlags (writerDone (modWunit (applyUnit s n w u).1 n u
          { u with st := .committed, tag := some (applyUnit s n w u).2 }) n))) ∧
      (unitTurn s n u = false → exec (.unitCommit n ext) s = .next s))

/-- The I/O commands: a write reserves its slots before it begins, a read waits for its turn to resolve, a Dataset Management without ranges ends at once,
I/O Management Receive gives the reclaim unit handles, and a Flush or an I/O Management Send with nothing before it ends.
Where the spec leaves a point open, this follows the model: log entries 3, 56 and 57. -/
def Obligations.HallCommands : Prop :=
  ∀ (s : State) (n ns a k : Nat) (b fua : Bool) (c : Ctx) (pr : PrInfo) (pl : Option Place) (l : List (Nat × Nat)) (places : List Place),
    s.inv = true → Fresh s n c →
    (c.cmd = .write ns a k fua pl pr → ∃ t, exec (.write n) s = .next t ∧ Only [.hall] s t ∧ OthersStand s t n ∧
      t.ctx n = some { c with st := .reserving, wunits := writerUnits s ns a k, fua := fua || allFua s c.port }) ∧
    (c.cmd = .writeUncorr ns a k → ∃ t, exec (.writeUncorrectable n) s = .next t ∧ Only [.hall] s t ∧ OthersStand s t n ∧
      t.ctx n = some { c with st := .reserving, wunits := writerUnits s ns a k, fua := allFua s c.port }) ∧
    (c.cmd = .writeZeroes ns a k b fua → ∃ t, exec (.writeZeroes n) s = .next t ∧ Only [.hall] s t ∧ OthersStand s t n ∧
      t.ctx n = some { c with st := .reserving, wunits := writerUnits s ns a k, fua := fua || allFua s c.port }) ∧
    (c.cmd = .copy ns a fua l pl → ∃ t, exec (.copy n) s = .next t ∧ Only [.hall] s t ∧ OthersStand s t n ∧
      t.ctx n = some { c with st := .reserving, wunits := writerUnits s ns a (l.foldl (fun k r => k + r.2) 0), fua := fua || allFua s c.port }) ∧
    (c.cmd = .read ns a k pr → ∃ t, exec (.read n) s = .next t ∧ Only [.hall] s t ∧ OthersStand s t n ∧ t.ctx n = some { c with st := .running }) ∧
    (c.cmd = .compare ns a k pr → ∃ t, exec (.compare n) s = .next t ∧ Only [.hall] s t ∧ OthersStand s t n ∧ t.ctx n = some { c with st := .running }) ∧
    (c.cmd = .verify ns a k pr → ∃ t, exec (.verify n) s = .next t ∧ Only [.hall] s t ∧ OthersStand s t n ∧ t.ctx n = some { c with st := .running }) ∧
    (c.cmd = .dsm ns true l → (l.flatMap fun r => writerUnits s ns r.1 r.2) ≠ [] →
      ∃ t, exec (.datasetManagement n) s = .next t ∧ Only [.hall] s t ∧ OthersStand s t n ∧
        t.ctx n = some { c with st := .running, wunits := l.flatMap fun r => writerUnits s ns r.1 r.2, fua := allFua s c.port }) ∧
    (c.cmd = .dsm ns false l → ∃ t, exec (.datasetManagement n) s = .next t ∧ Only [.hall] s t ∧ OthersStand s t n ∧ Ended t n c 0 0 0) ∧
    (c.cmd = .ioMgmtRecv ns → ∃ t rows, exec (.ioManagementReceive n) s = .next t ∧ Only [.hall, .out] s t ∧ OthersStand s t n ∧ Ended t n c 0 0 0 ∧
      t.out = s.out ++ [.adminData n ((14, 0) :: (2, 128) :: rows)] ∧ rows.length = 5 * 128 ∧
      ∀ rg h, rg < 8 → h < 16 → (rows.drop (5 * (16 * rg + h))).take 5 = [(2, rg * 8192 + h), (2, h), (4, 0), (8, handleRoom s rg h), (16, 0)]) ∧
    (s.hall.ctxs = [(n, c)] → s.hall.tails = [] → s.ldr.fronts = [] → s.pan.deps = [] → s.nvm.spaces = [] → s.ldr.settling = [] → isManager s = false →
      s.sta.reqs = [] →
      (c.cmd = .flush ns → c.hit = false → ∃ t, exec (.flush n) s = .next t ∧ Only [.hall] s t ∧ Ended t n { c with waitFor := [] } 0 0 0) ∧
      (c.cmd = .ioMgmtSend ns places → ∃ t, exec (.ioManagementSend n) s = .next t ∧ Only [.hall] s t ∧ Ended t n { c with waitFor := [] } 0 0 0))

/-- Host data and its errors: a host read completion fills the slot of its unit, encrypted; one whose block fails a selected check ends its write with that
check's error and the LBA of the block in the error log; one that comes too late halts the channel with cause 0x1 and its
tag rests; a completion of a resting tag is unexpected; a halted channel that has drained ends its command with Data Transfer Error, or with Command Aborted due to
a poisoned fabric word; a coalesced interrupt is delivered at the aggregation time.
Where the spec leaves a point open, this follows the model: log entries 54, 57 and 58. -/
def Obligations.HallDma : Prop :=
  ∀ (s : State) (n unit tg ch p v cause ns a k j bad e : Nat) (gd ap rf : Bool) (data : Blk) (md : Meta) (fua : Bool) (pl : Option Place) (pr : PrInfo) (c : Ctx)
      (u : WUnit) (x : Slot), s.inv = true →
    (s.ctx n = some c → c.chan = ch → s.chan ch = { s.chan ch with state := 1, tags := [(tg, n, unit)] } → c.cmd = .write ns a k fua pl {} → c.wunits = [u] →
      Tbl.find u.slots unit = some j → u.part = [] → Tbl.find s.ldr.slots j = some x → c.tags = [unit, unit + 1] → s.hall.ctxs = [(n, c)] →
      c.stair = none → (s.hport c.port).bme = false →
      ∃ t y, exec (.hostReadCompletion n unit data md gd ap rf bad) s = .next t ∧ Only [.porch, .hall, .nvm, .ldr] s t ∧
        Tbl.find t.ldr.slots j = some y ∧ y.data = encrypt s ns unit data ∧ y.md = md ∧ y.st = 2 ∧ t.ctx n = some { c with tags := [unit + 1] } ∧
        (t.chan ch).tags = [] ∧ t.nvm.hostUnitsWritten = s.nvm.hostUnitsWritten + 1) ∧
    (s.ctx n = some c → c.chan = ch → s.chan ch = { s.chan ch with state := 1, tags := [(tg, n, unit)] } → c.cmd = .write ns a k fua pl pr → c.st = .running →
      c.stair = none → piSelects s ns pr = true → piForms s ns pr = false → piStatus pr gd ap rf = some (2, e) →
      ∃ t, exec (.hostReadCompletion n unit data md gd ap rf bad) s = .next t ∧ Only [.porch, .hall, .nvm, .pan, .ldr, .cel, .sta, .out] s t ∧
        (t.ctx n).map (fun y => (y.st, y.sct, y.sc)) = some (.ready, 2, e) ∧
        ((Tbl.getD t.nvm.errors c.port []).head?).map (fun l => (l.drop 1).take 5) = some [c.sq, c.cid, 2, e, unit * perUnit s ns + bad % perUnit s ns] ∧
        t.nvm.hostUnitsWritten = s.nvm.hostUnitsWritten) ∧
    (s.ctx n = some c → c.chan = ch → ((s.chan ch).tags.find? fun t => t.2 == (n, unit)) = some (tg, n, unit) → (s.hport c.port).ctoOff = false →
      ∃ t, exec (.completionTimeoutExpiry n unit) s = .next t ∧ Only [.porch] s t ∧ (t.chan ch).state = 2 ∧ (t.chan ch).cause = 1 ∧ (t.chan ch).cmd = some n ∧
        (t.chan ch).tags = (s.chan ch).tags.filter (fun t => t.2 != (n, unit)) ∧ (t.chan ch).haltCount = min ((s.chan ch).haltCount + 1) 255 ∧
        tg ∈ (t.hport c.port).deadTags) ∧
    (tg ∈ (s.hport p).deadTags → ∃ t, exec (.unexpectedCompletion p tg) s = .next t ∧ Only [.porch] s t ∧
      t.hport p = { s.hport p with aer := (s.hport p).aer ++ [16] } ∧ t.porch.chans = s.porch.chans) ∧
    (tg ∈ (s.hport p).deadTags → s.hall.ctxs = [] → ∃ t, exec (.timedOutTagReuse p tg) s = .next t ∧ Only [.porch] s t ∧
      t.hport p = { s.hport p with deadTags := (s.hport p).deadTags.erase tg } ∧ t.porch.chans = s.porch.chans) ∧
    (s.chan ch = { s.chan ch with state := 2, tags := [], cmd := some n, cause := cause } → s.ctx n = some c → c.st = .running → c.stair = none →
      ∃ t, exec (.dmaDrainComplete ch) s = .next t ∧ Only [.porch, .hall, .nvm, .pan, .ldr, .cel, .lnd, .scu, .sta, .out] s t ∧ (t.ctx n).map (fun y => (y.st, y.sct, y.sc)) =
        some (.ready, 0, if cause = 4 then 6 else 4)) ∧
    (Tbl.has s.hall.coal (qkey p v) = true → (s.hport p).msixOn = true → (s.hport p).fmask = false → v ∈ (s.hport p).unmasked →
      ∃ t, exec (.aggregationTimeExpiry p v) s = .next t ∧ Only [.hall, .out] s t ∧ t.out = s.out ++ [.msix p v] ∧ Tbl.find t.hall.coal (qkey p v) = none ∧
        t.hall = { s.hall with coal := t.hall.coal })

/-- The Hall's registers and its scheduling: fetching is enabled, a drain is asked for, background work is held; an idle Hall reports itself to the supervisor
and stops fetching; the power state table of an idle port acts; the window of the media arbiter ends; and the host's reservation is granted with its slots, or
refused where no group is left.
Where the spec leaves a point open, this follows the model: log entries 72, 110 and 125. -/
def Obligations.HallControl : Prop :=
  ∀ (s : State) (v : Bool) (n p i need : Nat) (e : ApstEnt) (c : Ctx), s.inv = true →
    (∃ t, exec .fetchEnableSet s = .next t ∧ Only [.regs, .pwr, .porch] s t ∧ t.on HAL_CTL.FETCH_EN = true ∧ t.on HAL_CTL.DRAIN_REQ = false ∧
      RegsBut s t [HAL_CTL.FETCH_EN, HAL_CTL.DRAIN_REQ, STG_STATUS.KEYS_LOADED] ∧ t.pwr = { s.pwr with idleReported := false }) ∧
    (∃ t, exec .drainRequest s = .next t ∧ Only [.regs] s t ∧ t.on HAL_CTL.DRAIN_REQ = true ∧ RegsBut s t [HAL_CTL.DRAIN_REQ]) ∧
    (∃ t, exec (.backgroundHold v) s = .next t ∧ Only [.regs] s t ∧ t.on HAL_CTL.BG_HOLD = v ∧ RegsBut s t [HAL_CTL.BG_HOLD]) ∧
    (3 ≤ requestedState s → idleFor s (requestedState s) = true → s.on HAL_CTL.FETCH_EN = true → asleep s = false → (s.seq 64).wait = none →
      (s.seq 64).held = [] → (s.seq 64).evq.length < 64 →
      ∃ t w, exec .hallReportIdle s = .next t ∧ Only [.regs, .pwr, .seqs] s t ∧ t.on HAL_CTL.FETCH_EN = false ∧ RegsBut s t [HAL_CTL.FETCH_EN] ∧
        t.pwr = { s.pwr with idleReported := true } ∧ t.seq 64 = { s.seq 64 with evq := (s.seq 64).evq ++ [w] } ∧ w.toNat % 256 = 0x13 ∧
        w.toNat / 2 ^ 16 % 256 = requestedState s % 256) ∧
    (requestedState s < 3 → exec .hallReportIdle s = .next s) ∧
    ((apstTable s p)[i]? = some e → e.idleMs ≠ 0 → 3 ≤ e.target → idleFor s (min 3 e.target) = true → asleep s = false →
      ∃ t, exec (.apstIdleExpiry p i) s = .next t ∧ Only [.hall] s t ∧ Tbl.getD t.hall.reqState p 0 = e.target ∧ t.hall = { s.hall with reqState := t.hall.reqState }) ∧
    (populated s n = true →
      ∃ t, exec (.mediaArbiterWindowEnd n) s = .next t ∧ Only [.regs, .hall] s t ∧
        t.rd (HAL_PORT_SHARE.SHARE n) = min 1000 ((Tbl.getD s.hall.bgTime n 0 + Tbl.getD s.hall.emTime n 0) / 10) ∧
        t.on (HAL_PORT_SHARE.EMERG n) = decide (Tbl.getD s.hall.emTime n 0 ≠ 0) ∧
        RegsBut s t [HAL_PORT_SHARE.SHARE n, HAL_PORT_SHARE.EMERG n, HAL_PORT_SHARE.HOST_WAIT n] ∧
        Tbl.getD t.hall.bgTime n 0 = 0 ∧ Tbl.getD t.hall.emTime n 0 = 0 ∧ n ∉ t.hall.hostWaited) ∧
    (s.on LDR_CTL.ENABLE = true → s.on LDR_CTL.DRAIN = false → oldestWaiting s = some (n, c) → s.ctx n = some c → c.st = .reserving → c.stair = none →
      c.wunits.foldl (fun a u => a + (slotUnits c.cmd u).length) 0 = need → (need = 0 ∨ hostRoom s need = true) →
      (c.wunits.countP (needsGroup s n) = 0 ∨ groupsUsed s + c.wunits.countP (needsGroup s n) ≤ groupsUsable s →
        ∃ t y, exec (.larderReservationGrant .host) s = .next t ∧ Only [.porch, .hall, .nvm, .pan, .ldr, .cel, .scu, .sta, .out, .free] s t ∧ t.ctx n = some y ∧ y.st = .running ∧ y.cmd = c.cmd ∧
          y.wunits.map (fun u => u.units) = c.wunits.map (fun u => u.units)) ∧
      (0 < c.wunits.countP (needsGroup s n) → groupsUsable s < groupsUsed s + c.wunits.countP (needsGroup s n) →
        ∃ t, exec (.larderReservationGrant .host) s = .next t ∧ Only [.hall, .nvm] s t ∧ Ended t n { c with wunits := [] } 7 0xC4 0)) ∧
    (s.on LDR_CTL.DRAIN = true → exec (.larderReservationGrant .host) s = .next s)

/-! ## The admin commands (chapter 4) -/

/-- Queues, aborts and asynchronous events: an I/O queue is created where its identifier is free and in range, with its size, and deleted; a queue without the
physically contiguous bit, a completion queue in use and an unknown opcode are refused; Abort reports that nothing was aborted; an event request waits for an
event of its controller and completes with the one that waits.
Where the spec leaves a point open, this follows the model: log entry 61. -/
def Obligations.AdminQueues : Prop :=
  ∀ (s : State) (n qid size cq prio iv sq cid opc : Nat) (ien io : Bool) (c : Ctx) (q : SubQ) (e : AsyncEv), s.inv = true → Fresh s n c →
    (c.cmd = .unknown io opc → ∃ t, exec (.unsupportedOpcode n) s = .next t ∧ Only [.hall, .nvm] s t ∧ OthersStand s t n ∧ Ended t n c 0 1 0) ∧
    (adminGo s n = true →
      (c.cmd = .createCq qid size iv ien true → qid ≠ 0 → qid ≤ s.porch.ident.qpairs → Tbl.find s.hall.cqs (qkey c.port qid) = none → 2 ≤ size → size ≤ 65536 →
        iv < s.porch.ident.msix →
        ∃ t, exec (.createIoCompletionQueue n) s = .next t ∧ Only [.hall] s t ∧ Ended t n c 0 0 0 ∧ t.hall.sqs = s.hall.sqs ∧
          Tbl.find t.hall.cqs (qkey c.port qid) = some { size := size, iv := iv, ien := ien } ∧
          ∀ k, k ≠ qkey c.port qid → Tbl.find t.hall.cqs k = Tbl.find s.hall.cqs k) ∧
      (c.cmd = .createCq qid size iv ien false → ∃ t, exec (.createIoCompletionQueue n) s = .next t ∧ Only [.hall, .nvm] s t ∧ OthersStand s t n ∧
        Ended t n c 0 2 0) ∧
      (c.cmd = .createSq qid size cq prio true → cq ≠ 0 → (Tbl.find s.hall.cqs (qkey c.port cq)).isSome = true → qid ≠ 0 → qid ≤ s.porch.ident.qpairs →
        Tbl.find s.hall.sqs (qkey c.port qid) = none → 2 ≤ size → size ≤ 65536 →
        ∃ t, exec (.createIoSubmissionQueue n) s = .next t ∧ Only [.hall] s t ∧ Ended t n c 0 0 0 ∧ t.hall.cqs = s.hall.cqs ∧
          Tbl.find t.hall.sqs (qkey c.port qid) = some { size := size, cq := cq, prio := prio % 4 } ∧
          ∀ k, k ≠ qkey c.port qid → Tbl.find t.hall.sqs k = Tbl.find s.hall.sqs k) ∧
      (c.cmd = .deleteCq qid → qid ≠ 0 → (Tbl.find s.hall.cqs (qkey c.port qid)).isSome = true →
        (s.hall.sqs.any (fun x => x.1 / 65536 == c.port && x.2.cq == qid && x.1 % 65536 != 0) = false →
          ∃ t, exec (.deleteIoCompletionQueue n) s = .next t ∧ Only [.hall] s t ∧ Ended t n c 0 0 0 ∧ t.hall.sqs = s.hall.sqs ∧
            Tbl.find t.hall.cqs (qkey c.port qid) = none) ∧
        (s.hall.sqs.any (fun x => x.1 / 65536 == c.port && x.2.cq == qid && x.1 % 65536 != 0) = true →
          ∃ t, exec (.deleteIoCompletionQueue n) s = .next t ∧ Only [.hall, .nvm] s t ∧ OthersStand s t n ∧ Ended t n c 1 0x0C 0)) ∧
      (c.cmd = .deleteSq qid → qid ≠ 0 → Tbl.find s.hall.sqs (qkey c.port qid) = some q → (∀ x ∈ s.hall.sqs, x.2.deleting = none) → s.hall.ctxs = [(n, c)] →
        c.sq = 0 → s.hall.tails = [] → s.pan.deps = [] → s.nvm.spaces = [] → s.ldr.settling = [] →
        ∃ t, exec (.deleteIoSubmissionQueue n) s = .next t ∧ Only [.hall] s t ∧ Ended t n c 0 0 0 ∧ t.hall.cqs = s.hall.cqs ∧
          Tbl.find t.hall.sqs (qkey c.port qid) = none) ∧
      (c.cmd = .abort sq cid → outstanding s c.port n (fun x => match x with
          | .abort _ _ => true
          | _ => false) ≤ 4 →
        ∃ t, exec (.abort n) s = .next t ∧ Only [.hall] s t ∧ OthersStand s t n ∧ Ended t n c 0 0 1) ∧
      (c.cmd = .asyncEvent → outstanding s c.port n (fun x => x == .asyncEvent) ≤ 8 →
        (s.hall.events = [] → ∃ t, exec (.asynchronousEventRequest n) s = .next t ∧ Only [.hall] s t ∧ OthersStand s t n ∧
          t.ctx n = some { c with st := .running }) ∧
        (s.hall.events = [e] → e.port = c.port → s.hall.ctxs = [(n, c)] → ∃ t, exec (.asynchronousEventRequest n) s = .next t ∧ Only [.hall] s t ∧
          t.hall.events = [] ∧ Ended t n c 0 0 (e.typ + e.info * 2 ^ 8 + e.page * 2 ^ 16))) ∧
      (c.cmd = .asyncEvent → 8 < outstanding s c.port n (fun x => x == .asyncEvent) →
        ∃ t, exec (.asynchronousEventRequest n) s = .next t ∧ Only [.hall, .nvm] s t ∧ OthersStand s t n ∧ Ended t n c 1 5 0))

/-- The supervisor's commands: a namespace is attached, deleted and created; Format without a new key ends with the new format in use; a self-test begins and is
ended; directives answer; the ranges with lost units are listed; the Attic is cleared by an authorised session only; and with bad tamper state or workers missing
the commands are refused.
Where the spec leaves a point open, this follows the model: log entries 60, 66, 67 and 123. -/
def Obligations.AdminSupervisor : Prop :=
  ∀ (s : State) (n ns nsze fmt pi ses code oper slba : Nat) (pil go : Bool) (l : List Nat) (c : Ctx) (x : Nspace) (d : DstRun), s.inv = true → Fresh s n c →
    supTurns s = true → adminGo s n = true →
    (c.cmd = .nsCreate nsze nsze fmt pi pil → workersReady s = true → journalOn s = true →
      exec (.namespaceManagement n) s = .next (nsCreateNow s n nsze fmt pi pil) ∧
      ((∀ k, k < 129 → 0 < k → Tbl.has s.nvm.spaces k = true) → ∃ t, exec (.namespaceManagement n) s = .next t ∧ Only [.hall, .nvm] s t ∧ Ended t n c 1 0x16 0)) ∧
    (c.cmd = .nsDelete ns → workersReady s = true → journalOn s = true → nsTurn s n (wholeNs s ns) = true →
      ∃ t, exec (.namespaceManagement n) s = .next t ∧ Only [.regs, .atc, .stg, .hall, .nvm, .pan, .ldr, .cel, .scu, .sta, .free] s t ∧ nspace t ns = none) ∧
    (c.cmd = .nsDelete ns → workersReady s = false → ∃ t, exec (.namespaceManagement n) s = .next t ∧ Only [.hall, .nvm] s t ∧ Ended t n c 7 0xC3 0) ∧
    (c.cmd = .nsAttach ns [1] false → nspace s ns = some x → workersReady s = true → 1 ∉ x.attached →
      ∃ t y, exec (.namespaceAttachment n) s = .next t ∧ Only [.regs, .atc, .hall, .nvm, .pan, .ldr, .cel, .sta] s t ∧ nspace t ns = some y ∧ y.attached = x.attached ++ [1] ∧
        y.fmt = x.fmt ∧ y.extents = x.extents) ∧
    (c.cmd = .nsAttach ns l go → nspace s ns = none → ∃ t, exec (.namespaceAttachment n) s = .next t ∧ Only [.hall, .nvm] s t ∧ Ended t n c 0 0x0B 0) ∧
    (c.cmd = .format ns 0 fmt pi pil → nspace s ns = some x → workersReady s = true → journalOn s = true → nsTurn s n (wholeNs s ns) = true →
      ∃ t y, exec (.formatNvm n) s = .next t ∧ Only [.regs, .atc, .stg, .hall, .nvm, .pan, .ldr, .cel, .scu, .sta, .free] s t ∧ nspace t ns = some y ∧ y.fmt = fmt ∧ y.pi = pi ∧ y.pil = pil ∧ y.gen = x.gen) ∧
    (c.cmd = .format ns ses fmt pi pil → ses ≠ 0 → s.on STG_STATUS.TAMPERED = true →
      ∃ t, exec (.formatNvm n) s = .next t ∧ Only [.hall, .nvm] s t ∧ Ended t n c 7 0xC1 0) ∧
    (s.atc.dst = none →
      (c.cmd = .selfTest 1 0 → ∃ t, exec (.deviceSelfTestShort n) s = .next t ∧ Only [.hall, .atc] s t ∧ OthersStand s t n ∧ Ended t n c 0 0 0 ∧
        t.atc = { s.atc with dst := some { ext := false, port := c.port, nsid := 0, at_ := s.pwr.opSec } }) ∧
      (c.cmd = .selfTest 2 0 → ∃ t, exec (.deviceSelfTestExtended n) s = .next t ∧ Only [.hall, .atc] s t ∧ OthersStand s t n ∧ Ended t n c 0 0 0 ∧
        t.atc = { s.atc with dst := some { ext := true, port := c.port, nsid := 0, at_ := s.pwr.opSec } })) ∧
    (s.atc.dst = some d →
      (c.cmd = .selfTest 1 0 → ∃ t, exec (.deviceSelfTestShort n) s = .next t ∧ Only [.hall, .nvm] s t ∧ OthersStand s t n ∧ Ended t n c 1 0x1D 0) ∧
      (c.cmd = .selfTest 0xF ns → ∃ t r, exec (.deviceSelfTestAbort n) s = .next t ∧ Only [.hall, .nvm, .atc] s t ∧ Ended t n c 0 0 0 ∧ t.atc.dst = none ∧
        t.atc.dstResults.head? = some r ∧ r.result = 1 ∧ r.code = (if d.ext then 2 else 1))) ∧
    (c.cmd = .directive true code 1 ns → ∃ t, exec (.directiveSend n) s = .next t ∧ Only [.hall] s t ∧ OthersStand s t n ∧ Ended t n c 0 0 0) ∧
    (c.cmd = .directive false code 1 ns → ∃ t r, exec (.directiveReceive n) s = .next t ∧ Only [.hall, .out] s t ∧ OthersStand s t n ∧ Ended t n c 0 0 0 ∧
      t.out = s.out ++ [.adminData n r] ∧ r.length = 4096 ∧ r[0]? = some (1, 5) ∧ r[32]? = some (1, if s.nvm.fdp then 5 else 1)) ∧
    (c.cmd = .directive true code oper ns → oper ≠ 1 → ∃ t, exec (.directiveSend n) s = .next t ∧ Only [.hall, .nvm] s t ∧ OthersStand s t n ∧ Ended t n c 0 2 0) ∧
    (c.cmd = .getLbaStatus ns slba → ∃ t r, exec (.getLbaStatus n) s = .next t ∧ Only [.hall, .out] s t ∧ OthersStand s t n ∧ Ended t n c 0 0 0 ∧
      t.out = s.out ++ [.adminData n r] ∧
      r.length = 8 + 16 * ((lostRuns s ns).filter fun e => decide (slba < (e.1 + e.2) * perUnit s ns)).length) ∧
    (c.cmd = .atticClear go → ((Tbl.find s.stg.sessions c.port).any fun y => y.sp == 0 && y.auth == 1) = true → s.atc.full = false → s.atc.postedThisSec < 4096 →
      ∃ t r, exec (.atticClear n) s = .next t ∧ Only [.hall, .atc] s t ∧ OthersStand s t n ∧ Ended t n c 0 0 0 ∧ t.atc.ring = [r] ∧ t.atc.waiting = [r] ∧
        r.code = 0x0002 ∧ r.seq = s.atc.nextSeq ∧ r.p1 = s.atc.ring.length % 2 ^ 32 ∧ t.atc.clearPending = true) ∧
    (c.cmd = .atticClear go → ((Tbl.find s.stg.sessions c.port).any fun y => y.sp == 0 && y.auth == 1) = false →
      ∃ t, exec (.atticClear n) s = .next t ∧ Only [.hall, .nvm] s t ∧ OthersStand s t n ∧ Ended t n c 2 0x86 0)

/-- Sanitize and recovery: a sanitize whose turn has come ends with success as its operation begins, and waits while its turn has not come; the recovery takes its
steps in order, and one that finds a hole in the journal stops there with every controller in a fatal state and a record.
Where the spec leaves a point open, this follows the model: log entries 49, 66 and 69. -/
def Obligations.SanitizeAndRecovery : Prop :=
  ∀ (s : State) (n step k : Nat) (hole : Option Nat) (bad : List (Nat × Bool)) (dump : DumpFound) (c : Ctx), s.inv = true →
    (Fresh s n c → supTurns s = true → adminGo s n = true → workersReady s = true →
      (c.cmd = .sanitize 4 →
        (journalOn s = true → sanitizeTurn s n = true → isManager s = false → exec (.sanitizeCryptoErase n) s = .next (cryptoErase (finishOk s n))) ∧
        (sanitizeTurn s n = false → exec (.sanitizeCryptoErase n) s = .next s)) ∧
      (c.cmd = .sanitize 2 →
        (journalOn s = true → sanitizeTurn s n = true → isManager s = false → exec (.sanitizeBlockErase n) s = .next (blockErase (finishOk s n))) ∧
        (sanitizeTurn s n = false → exec (.sanitizeBlockErase n) s = .next s))) ∧
    (running s = true → s.pwr.frozen = false → s.porch.recovery = false → s.on PAN_CTL.JOURNAL_EN = false → s.pan.holePage = none →
      (s.rd PAN_STATUS.RECOVERY_STEP = 0 → ∃ t, exec (.recovery 1 hole bad dump) s = .next t ∧ Only [.regs] s t ∧ t.rd PAN_STATUS.RECOVERY_STEP = 1 ∧
        RegsBut s t [PAN_STATUS.RECOVERY_STEP]) ∧
      (s.rd PAN_STATUS.RECOVERY_STEP = 2 → ∃ t, exec (.recovery 3 hole bad dump) s = .next t ∧ Only [.regs] s t ∧ t.rd PAN_STATUS.RECOVERY_STEP = 3 ∧
        RegsBut s t [PAN_STATUS.RECOVERY_STEP]) ∧
      (s.rd PAN_STATUS.RECOVERY_STEP = 5 → k < 2 ^ 32 → ∃ t r, exec (.recovery 6 (some k) bad dump) s = .next t ∧ Only [.regs, .pan, .porch, .atc] s t ∧
        t.pan = { s.pan with holePage := some k } ∧ (∀ p ∈ portsInUse s, (t.hport p).cfs = true) ∧ t.atc.ring.getLast? = some r ∧ r.code = 0x0042 ∧ r.sev = 5 ∧
        r.p0 = k ∧ t.rd PAN_STATUS.RECOVERY_STEP = 6 ∧ RegsBut s t [PAN_STATUS.RECOVERY_STEP]) ∧
      (step ≠ s.rd PAN_STATUS.RECOVERY_STEP + 1 → step ≠ 9 → exec (.recovery step hole bad dump) s = .next s)) ∧
    (s.pan.holePage = some k → exec (.recovery step hole bad dump) s = .next s)

/-! ## Features, log pages, Identify and Security (chapters 4 and 12) -/

/-- Set Features and Get Features of the controllers' own features: each keeps its field of the value, a value out of range and a save are refused, the number of
queues is granted once, and Get Features answers the capabilities or the current value.
Where the spec leaves a point open, this follows the model: log entries 71 and 73. -/
def Obligations.Features : Prop :=
  ∀ (s : State) (n ns sub v sel : Nat) (data : List Nat) (c : Ctx), s.inv = true → Fresh s n c → adminGo s n = true →
    let key (fid k : Nat) : Nat := featKey (c.port + 1) fid k
    (c.cmd = .setFeatures 0x01 ns sub v false data → ∃ t, exec (.setFeaturesArbitration n) s = .next t ∧ Only [.hall, .nvm] s t ∧ OthersStand s t n ∧
      Ended t n c 0 0 0 ∧ Tbl.find t.nvm.feats (key 0x01 0) = some (v % 2 ^ 32) ∧ t.nvm = { s.nvm with feats := t.nvm.feats }) ∧
    (c.cmd = .setFeatures 0x01 ns sub v true data → ∃ t, exec (.setFeaturesArbitration n) s = .next t ∧ Only [.hall, .nvm] s t ∧ Ended t n c 1 0x0D 0 ∧
      t.nvm.feats = s.nvm.feats) ∧
    (c.cmd = .setFeatures 0x02 ns sub v false data →
      (v % 32 ≤ 5 → ∃ t, exec (.setFeaturesPowerManagement n) s = .next t ∧ Only [.hall, .pwr] s t ∧ OthersStand s t n ∧ Ended t n c 0 0 0 ∧
        Tbl.getD t.hall.reqState c.port 0 = v % 32 ∧
        t.pwr = { s.pwr with st := if requestedState t ≤ 2 ∧ asleep s = false ∧ s.pwr.st ≠ .off then psOf (requestedState t) else s.pwr.st }) ∧
      (5 < v % 32 → ∃ t, exec (.setFeaturesPowerManagement n) s = .next t ∧ Only [.hall, .nvm] s t ∧ OthersStand s t n ∧ Ended t n c 0 2 0)) ∧
    (c.cmd = .setFeatures 0x04 ns sub v false data → bits v 16 4 ≤ 3 → bits v 20 2 ≤ 1 →
      ∃ t, exec (.setFeaturesTempThreshold n) s = .next t ∧ Only [.hall, .nvm] s t ∧ Ended t n c 0 0 0 ∧
        Tbl.find t.nvm.feats (key 0x04 (bits v 16 4 + 16 * bits v 20 2)) = some (v % 65536)) ∧
    (c.cmd = .setFeatures 0x05 ns sub v false data → ns ≠ 0xFFFFFFFF →
      ((nspace s ns).isSome = true → ∃ t, exec (.setFeaturesErrorRecovery n) s = .next t ∧ Only [.hall, .nvm] s t ∧ OthersStand s t n ∧ Ended t n c 0 0 0 ∧
        Tbl.find t.nvm.feats (featKey 0 0x05 ns) = some (v % 131072)) ∧
      (nspace s ns = none → ∃ t, exec (.setFeaturesErrorRecovery n) s = .next t ∧ Only [.hall, .nvm] s t ∧ OthersStand s t n ∧ Ended t n c 0 0x0B 0)) ∧
    (c.cmd = .setFeatures 0x06 ns sub v false data →
      (heldUp s = false → s.ldr.wt = true → ∃ t, exec (.setFeaturesVolatileWriteCache n) s = .next t ∧ Only [.hall, .nvm, .ldr] s t ∧ OthersStand s t n ∧
        Ended t n c 0 0 0 ∧ Tbl.find t.nvm.feats (key 0x06 0) = some (v % 2)) ∧
      (heldUp s = true → ∃ t, exec (.setFeaturesVolatileWriteCache n) s = .next t ∧ Only [.hall, .nvm] s t ∧ OthersStand s t n ∧ Ended t n c 0 2 0)) ∧
    (c.cmd = .setFeatures 0x07 ns sub v false data →
      (c.port ∉ s.nvm.queuesSet → v % 65536 ≠ 0xFFFF → bits v 16 16 ≠ 0xFFFF →
        ∃ t, exec (.setFeaturesNumberOfQueues n) s = .next t ∧ Only [.hall, .nvm] s t ∧ OthersStand s t n ∧ c.port ∈ t.nvm.queuesSet ∧
          Ended t n c 0 0 (min (v % 65536) (s.porch.ident.qpairs - 1) + 65536 * min (bits v 16 16) (s.porch.ident.qpairs - 1))) ∧
      (c.port ∈ s.nvm.queuesSet → ∃ t, exec (.setFeaturesNumberOfQueues n) s = .next t ∧ Only [.hall, .nvm] s t ∧ OthersStand s t n ∧ Ended t n c 0 0x0C 0)) ∧
    (c.cmd = .setFeatures 0x08 ns sub v false data → ∃ t, exec (.setFeaturesInterruptCoalescing n) s = .next t ∧ Only [.hall, .nvm] s t ∧ OthersStand s t n ∧
      Ended t n c 0 0 0 ∧ Tbl.find t.nvm.feats (key 0x08 0) = some (v % 65536)) ∧
    (c.cmd = .setFeatures 0x09 ns sub v false data → v % 65536 < s.porch.ident.msix → ∃ t, exec (.setFeaturesIntVectorConfig n) s = .next t ∧
      Only [.hall, .nvm] s t ∧ OthersStand s t n ∧ Ended t n c 0 0 0 ∧ Tbl.find t.nvm.feats (key 0x09 (v % 65536)) = some (v % 131072)) ∧
    (c.cmd = .setFeatures 0x0A ns sub v false data → ∃ t, exec (.setFeaturesWriteAtomicity n) s = .next t ∧ Only [.hall, .nvm] s t ∧ OthersStand s t n ∧
      Ended t n c 0 0 0 ∧ Tbl.find t.nvm.feats (key 0x0A 0) = some (v % 2)) ∧
    (c.cmd = .setFeatures 0x0B ns sub v false data → ∃ t, exec (.setFeaturesAsyncEventConfig n) s = .next t ∧ Only [.hall, .nvm] s t ∧ OthersStand s t n ∧
      Ended t n c 0 0 0 ∧ Tbl.find t.nvm.feats (key 0x0B 0) = some (v % 2048 &&& 0x71F)) ∧
    (c.cmd = .setFeatures 0x11 ns sub v false data → ∃ t, exec (.setFeaturesNopsConfig n) s = .next t ∧ Only [.hall, .nvm] s t ∧ OthersStand s t n ∧
      Ended t n c 0 0 0 ∧ Tbl.find t.nvm.feats (key 0x11 0) = some (v % 2)) ∧
    (c.cmd = .setFeatures 0x80 ns sub v false data → ∃ t, exec (.setFeaturesSwProgressMarker n) s = .next t ∧ Only [.hall, .nvm] s t ∧ OthersStand s t n ∧
      Ended t n c 0 0 0 ∧ Tbl.find t.nvm.feats (featKey 0 0x80 0) = some (v % 256)) ∧
    (c.cmd = .getFeatures 0x01 sel ns sub →
      (sel = 0 → ∃ t, exec (.getFeatures n) s = .next t ∧ Only [.hall] s t ∧ OthersStand s t n ∧ Ended t n c 0 0 (feat s (c.port + 1) 0x01 0)) ∧
      (sel = 3 → ∃ t, exec (.getFeatures n) s = .next t ∧ Only [.hall] s t ∧ OthersStand s t n ∧ Ended t n c 0 0 4) ∧
      (3 < sel → ∃ t, exec (.getFeatures n) s = .next t ∧ Only [.hall, .nvm] s t ∧ OthersStand s t n ∧ Ended t n c 0 2 0)) ∧
    (c.cmd = .getFeatures 0x03 sel ns sub → ∃ t, exec (.getFeatures n) s = .next t ∧ Only [.hall, .nvm] s t ∧ OthersStand s t n ∧ Ended t n c 0 2 0)

/-- The features that the supervisor program serves: the power state table, the timestamp, and Flexible Data Placement with its events, which can be changed
while no namespace exists.
Where the spec leaves a point open, this follows the model: log entries 71, 72 and 73. -/
def Obligations.SupervisorFeatures : Prop :=
  ∀ (s : State) (n ns sub v : Nat) (data : List Nat) (c : Ctx), s.inv = true → Fresh s n c → adminGo s n = true → supTurns s = true →
    (c.cmd = .setFeatures 0x0C ns sub v false data → v % 2 = 1 → data.length ≤ 32 →
      (data.all (fun w => (apstOf w).idleMs == 0 || (3 ≤ (apstOf w).target && (apstOf w).target ≤ 5)) = true →
        ∃ t, exec (.setFeaturesApst n) s = .next t ∧ Only [.hall, .nvm] s t ∧ OthersStand s t n ∧ Ended t n c 0 0 0 ∧
          Tbl.find t.hall.apst c.port = some (data.map apstOf) ∧ Tbl.find t.nvm.feats (featKey (c.port + 1) 0x0C 0) = some 1) ∧
      (data.all (fun w => (apstOf w).idleMs == 0 || (3 ≤ (apstOf w).target && (apstOf w).target ≤ 5)) = false →
        ∃ t, exec (.setFeaturesApst n) s = .next t ∧ Only [.hall, .nvm] s t ∧ OthersStand s t n ∧ Ended t n c 0 2 0 ∧ t.hall.apst = s.hall.apst)) ∧
    (c.cmd = .setFeatures 0x0E ns sub v false data → ∃ t, exec (.setFeaturesTimestamp n) s = .next t ∧ Only [.hall, .nvm] s t ∧ OthersStand s t n ∧
      Ended t n c 0 0 0 ∧ t.nvm = { s.nvm with tsValue := data.headD 0 % 2 ^ 48, tsBase := s.pwr.time.toNat, tsSynch := false } ∧
      timestampNow t = data.headD 0 % 2 ^ 48) ∧
    (c.cmd = .setFeatures 0x1D ns 1 v false data → v < 2 →
      (s.nvm.spaces = [] → ∃ t, exec (.setFeaturesFdp n) s = .next t ∧ Only [.hall, .nvm] s t ∧ OthersStand s t n ∧ Ended t n c 0 0 0 ∧
        t.nvm = { s.nvm with fdp := decide (v = 1) }) ∧
      (s.nvm.spaces ≠ [] → ∃ t, exec (.setFeaturesFdp n) s = .next t ∧ Only [.hall, .nvm] s t ∧ OthersStand s t n ∧ Ended t n c 0 0x0C 0 ∧ t.nvm.fdp = s.nvm.fdp)) ∧
    (c.cmd = .setFeatures 0x1E ns (65536 + sub) v false [0x80] → sub < 16 →
      (s.nvm.fdp = true → ∃ t, exec (.setFeaturesFdpEvents n) s = .next t ∧ Only [.hall, .nvm] s t ∧ OthersStand s t n ∧ Ended t n c 0 0 0 ∧
        ((sub, 0x80) ∈ t.nvm.fdpEvents ↔ v % 2 = 1) ∧ ∀ e, e ≠ (sub, 0x80) → (e ∈ t.nvm.fdpEvents ↔ e ∈ s.nvm.fdpEvents)) ∧
      (s.nvm.fdp = false → ∃ t, exec (.setFeaturesFdpEvents n) s = .next t ∧ Only [.hall, .nvm] s t ∧ OthersStand s t n ∧ Ended t n c 0 2 0))

/-- Identify and the log pages: Identify Controller begins with the vendor identifier, also under the recovery identity, an unattached namespace is refused, and a
log page is sent with the length asked for; an unknown page, an unaligned offset and a namespace that does not exist are refused; a read of the deferred errors that retains
nothing ends the outstanding event.
Where the spec leaves a point open, this follows the model: log entries 65, 75, 76 and 78. -/
def Obligations.IdentifyAndLogs : Prop :=
  ∀ (s : State) (n ns k page off len : Nat) (rae : Bool) (c : Ctx), s.inv = true → Fresh s n c → adminGo s n = true →
    (c.cmd = .identify 1 0 ns k → ∃ t r, exec (.identify n) s = .next t ∧ Only [.hall, .out, .free] s t ∧ OthersStand s t n ∧ Ended t n c 0 0 0 ∧
      t.out = s.out ++ [.adminData n r] ∧ r.length = 4096 ∧ r[0]? = some (1, 0x73) ∧ r[1]? = some (1, 0x1E)) ∧
    (s.porch.recovery = false → c.cmd = .identify 0 0 ns k → ((nspace s ns).any fun x => x.attached.contains (c.port + 1)) = false →
      ∃ t, exec (.identify n) s = .next t ∧ Only [.hall, .nvm] s t ∧ OthersStand s t n ∧ Ended t n c 0 0x0B 0) ∧
    (s.porch.recovery = true → c.cmd = .identify 2 0 ns k → ∃ t, exec (.identify n) s = .next t ∧ Only [.hall, .nvm] s t ∧ OthersStand s t n ∧ Ended t n c 0 2 0) ∧
    (c.cmd = .getLog 0x03 0 len 0xFFFFFFFF rae → supTurns s = true → ∃ t r, exec (.getLogPage n) s = .next t ∧ Only [.hall, .out] s t ∧ OthersStand s t n ∧
      Ended t n c 0 0 0 ∧ t.out = s.out ++ [.adminData n r] ∧ r.length = len) ∧
    (c.cmd = .getLog page off len ns rae → supTurns s = true → page ≠ 0xC0 →
      (page ∉ logPages → ∃ t, exec (.getLogPage n) s = .next t ∧ Only [.hall, .nvm] s t ∧ OthersStand s t n ∧ Ended t n c 1 9 0) ∧
      (page ∈ logPages → s.porch.recovery = false → off % 4 ≠ 0 →
        ∃ t, exec (.getLogPage n) s = .next t ∧ Only [.hall, .nvm] s t ∧ OthersStand s t n ∧ Ended t n c 0 2 0) ∧
      (page ∈ logPages → s.porch.recovery = false → off % 4 = 0 → nspace s ns = none → ns ≠ 0 → ns ≠ 0xFFFFFFFF →
        ∃ t, exec (.getLogPage n) s = .next t ∧ Only [.hall, .nvm] s t ∧ OthersStand s t n ∧ Ended t n c 0 0x0B 0)) ∧
    (c.cmd = .getLog 0xC0 0 len 0 false → s.porch.recovery = false → 64 + 48 * s.hall.defer_.length ≤ len →
      ∃ t, exec (.getLogPageDeferredErrors n) s = .next t ∧ Only [.atc, .hall, .nvm, .pan, .cel, .sta, .out, .free] s t ∧ Ended t n c 0 0 0 ∧ t.hall.deferUnread = [] ∧
        t.hall.defer_ = s.hall.defer_.filter (fun e => e.armed)) ∧
    (c.cmd = .getLog 0xC0 0 len 0 true → s.porch.recovery = false → ∃ t r, exec (.getLogPage n) s = .next t ∧ Only [.hall, .out] s t ∧ Ended t n c 0 0 0 ∧
      t.out = s.out ++ [.adminData n r] ∧ r.length = len ∧ t.hall.defer_ = s.hall.defer_ ∧ t.hall.deferUnread = s.hall.deferUnread)

/-- Security Send and Receive: a session starts with the right credential and counts the wrong ones, it ends, and a credential of its own is replaced; a method
ends with success whether or not it acted; Security Receive gives the protocols supported.
Where the spec leaves a point open, this follows the model: log entries 81, 82, 83 and 84. -/
def Obligations.Security : Prop :=
  ∀ (s : State) (n auth cred proto : Nat) (m : TcgMsg) (c : Ctx) (x : TcgSession), s.inv = true → Fresh s n c → adminGo s n = true →
    (c.cmd = .security true 1 (.startSession 0 auth cred) → Tbl.find s.stg.sessions c.port = none → 1 ≤ auth → auth ≤ 4 →
      Tbl.getD s.stg.tries (credKey 0 auth) 0 < 5 →
      (Tbl.getD s.stg.creds (credKey 0 auth) 0 = cred → ∃ t, exec (.securitySend n) s = .next t ∧ Only [.stg, .hall] s t ∧ OthersStand s t n ∧ Ended t n c 0 0 0 ∧
        Tbl.find t.stg.sessions c.port = some { sp := 0, auth := auth, cred := cred } ∧ Tbl.getD t.stg.tries (credKey 0 auth) 0 = 0) ∧
      (Tbl.getD s.stg.creds (credKey 0 auth) 0 ≠ cred → ∃ t, exec (.securitySend n) s = .next t ∧ Only [.stg, .hall] s t ∧ OthersStand s t n ∧
        Ended t n c 0 0 0 ∧ t.stg.sessions = s.stg.sessions ∧ Tbl.getD t.stg.tries (credKey 0 auth) 0 = Tbl.getD s.stg.tries (credKey 0 auth) 0 + 1)) ∧
    (c.cmd = .security true 1 (.startSession 0 auth cred) → 5 ≤ Tbl.getD s.stg.tries (credKey 0 auth) 0 → auth ≠ 0 →
      ∃ t, exec (.securitySend n) s = .next t ∧ Only [.stg, .hall] s t ∧ OthersStand s t n ∧ Ended t n c 0 0 0 ∧ t.stg.sessions = s.stg.sessions) ∧
    (c.cmd = .security true 2 .endSession → ∃ t, exec (.securitySend n) s = .next t ∧ Only [.stg, .hall] s t ∧ OthersStand s t n ∧ Ended t n c 0 0 0 ∧
      Tbl.find t.stg.sessions c.port = none) ∧
    (c.cmd = .security true 1 (.setCredential auth cred) → Tbl.find s.stg.sessions c.port = some x → x.sp = 0 → x.auth = auth → 1 ≤ auth → auth ≤ 4 →
      ∃ t, exec (.securitySend n) s = .next t ∧ Only [.stg, .hall] s t ∧ OthersStand s t n ∧ Ended t n c 0 0 0 ∧
        Tbl.getD t.stg.creds (credKey 0 auth) 0 = cred) ∧
    (c.cmd = .security true 0 m → ∃ t, exec (.securitySend n) s = .next t ∧ Only [.stg, .hall, .nvm] s t ∧ OthersStand s t n ∧ Ended t n c 0 2 0) ∧
    (c.cmd = .security false 0 m → ∃ t r, exec (.securityReceive n) s = .next t ∧ Only [.hall, .out] s t ∧ OthersStand s t n ∧ Ended t n c 0 0 0 ∧
      t.out = s.out ++ [.adminData n r] ∧ r.length = 512 ∧ (r.drop 6).take 5 = [(1, 0), (1, 3), (1, 0), (1, 1), (1, 2)]) ∧
    (c.cmd = .security false proto m → proto ≠ 0 → ∃ t l, exec (.securityReceive n) s = .next t ∧ Only [.hall, .out, .free] s t ∧ OthersStand s t n ∧
      Ended t n c 0 0 0 ∧ t.out = s.out ++ [.adminData n l] ∧ t.free = s.free + 1)

/-! ## The Closet and the boot (chapter 13) -/

/-- The NOR die: the three operations that CLO_CMD starts take the address and the page, a busy Closet refuses with result 5 and an event, a program that ends leaves
the bitwise AND of what stood and the page, an erase leaves 0xFF in its sector and nothing else changed; protection bits can only be added.
Where the spec leaves a point open, this follows the model: log entries 88, 89 and 100. -/
def Obligations.ClosetOperations : Prop :=
  ∀ (s : State) (k pulses : Nat) (v : U64) (o : CloOp), s.inv = true →
    let base := s.rd CLO_ADDR.ADDR
    (cloRefusal s 1 base = 0 → ∃ t, exec .closetProgram s = .next t ∧ Only [.regs, .clo] s t ∧ t.rd CLO_STATUS.OP = 1 ∧ RegsBut s t [CLO_STATUS.OP] ∧
      t.clo = { s.clo with op := some { req := 0, kind := 1, addr := base, page := cloPage s } }) ∧
    (cloRefusal s 2 base = 0 → ∃ t, exec .closetErase s = .next t ∧ Only [.regs, .clo] s t ∧ t.rd CLO_STATUS.OP = 2 ∧ RegsBut s t [CLO_STATUS.OP] ∧
      t.clo = { s.clo with op := some { req := 0, kind := 2, addr := base, page := [] } }) ∧
    (cloRefusal s 3 base = 0 → ∃ t, exec .closetMarginRead s = .next t ∧ Only [.regs, .clo] s t ∧ t.rd CLO_STATUS.OP = 3 ∧ RegsBut s t [CLO_STATUS.OP] ∧
      t.clo = { s.clo with op := some { req := 0, kind := 3, addr := base, page := [] } }) ∧
    (s.pwr.pwrfail = false → s.clo.op.isSome = true → (s.seq 64).wait = none → (s.seq 64).held = [] → (s.seq 64).evq.length < 64 →
      ∃ t e, exec .closetErase s = .next t ∧ Only [.regs, .seqs] s t ∧ t.rd CLO_STATUS.RESULT = 5 ∧ t.rd CLO_STATUS.OP = 2 ∧
        t.seq 64 = { s.seq 64 with evq := (s.seq 64).evq ++ [e] } ∧ e.toNat % 256 = 0x19 ∧ e.toNat / 2 ^ 16 % 256 = 5) ∧
    (s.clo.op = some o → o.req = 0 → s.clo.confirming = false → isWorker s = false →
      (o.kind = 1 → o.page.length = 256 → o.addr % 256 = 0 → ¬ (456 ≤ o.addr / 65536 ∧ o.addr / 65536 < 512) →
        ∃ t, exec (.closetOperationDone pulses true) s = .next t ∧ Only [.regs, .clo, .seqs] s t ∧ t.clo.op = none ∧
          (∀ i b, o.page[i]? = some b → Tbl.getD t.clo.nor (o.addr + i) 0xFF = BitVec.ofNat 8 (norByte s (o.addr + i)) &&& b) ∧
          (∀ j, ¬ (o.addr ≤ j ∧ j < o.addr + 256) → Tbl.getD t.clo.nor j 0xFF = Tbl.getD s.clo.nor j 0xFF) ∧ t.rd CLO_STATUS.PULSES = min pulses 255 ∧
          t.rd CLO_STATUS.RESULT = 0) ∧
      (o.kind = 2 → ∃ t, exec (.closetOperationDone pulses true) s = .next t ∧ Only [.regs, .clo, .seqs] s t ∧ t.clo.op = none ∧
          (∀ j, Tbl.getD t.clo.nor j 0xFF = if j / 65536 = o.addr / 65536 then 0xFF else Tbl.getD s.clo.nor j 0xFF) ∧ t.rd CLO_STATUS.RESULT = 0) ∧
      (o.kind = 2 → ∃ t, exec (.closetOperationDone pulses false) s = .next t ∧ t.clo.op = none ∧ t.on CLO_STATUS.FAIL = true ∧ t.rd CLO_STATUS.RESULT = 1)) ∧
    (s.clo.op = none → exec (.closetOperationDone pulses true) s = .next s) ∧
    (k < 16 → ∃ t, exec (.cloWpSet k v) s = .next t ∧ Only [.regs] s t ∧ t.rd (CLO_WP.PROT k) = (s.rd (CLO_WP.PROT k) ||| v.toNat) ∧
      RegsBut s t [CLO_WP.PROT k])

/-- The boot: with no record in force the factory slot starts where it passes its checks, else the recovery identity; a confirmed active slot starts confirmed and an
unconfirmed one with less than three attempts starts with its confirmation counted; STD_CONFIRM begins the write that confirms, and 900 s without it end in a
watchdog reset; the operating time and the timestamp are recorded.
Where the spec leaves a point open, this follows the model: log entries 5, 86, 90 and 92. -/
def Obligations.BootChoice : Prop :=
  ∀ (s : State) (m t0 : Nat) (b : Bool) (r : BootRec) (v : U64), s.inv = true →
    (s.pwr.bootWait = true → s.clo.op = none → s.pwr.pwrfail = false → s.pwr.releaseCount = false → settleSwap s = (s, m) →
      (inForce s m = none →
        ∃ t, exec .bootSlotChoice s = .next t ∧ Only [.regs, .pwr, .atc, .std, .clo, .stg, .porch, .seqs, .scu, .free] s t ∧ t.porch.fixed = true ∧ t.pwr = { s.pwr with bootWait := false } ∧
          t.on PCH_PORT_CTL.LOCK = true ∧
          if slotOk s 1 none then t.clo.running = 1 ∧ t.clo.confirmSec = none ∧ t.porch.recovery = false ∧ t.porch.ident = (slotImage s 1).ident ∧
            t.on STD_SUP_STATUS.BOOT_DONE = true ∧ t.on CLO_CTL.WP_LOCK = true ∧ (t.seq 64).pc = (slotImage s 1).sup.entry ∧ (t.seq 64).state = 1 ∧
            t.scu.geo = (slotImage s 1).geo
          else t.porch.recovery = true ∧ t.porch.ident.ssid = 0x06FF ∧ t.clo.running = 0 ∧ t.clo.recovery = true ∧ t.on PCH_PORT_CTL.PORT_MODE = false) ∧
      (inForce s m = some (b, r) → r.active ≠ 1 → r.rejected = 0 → (confirmed s b = true ∨ attempts s b ≠ 3) →
        ∃ t, exec .bootSlotChoice s = .next t ∧ Only [.regs, .pwr, .atc, .std, .clo, .stg, .porch, .seqs, .scu, .free] s t ∧ t.porch.fixed = true ∧ t.pwr.bootWait = false ∧
          (slotOk s r.active (some r.activeDigest) = true → t.clo.running = r.active ∧ t.clo.confirmSec = if confirmed s b then none else some 0))) ∧
    (s.pwr.bootWait = false → exec .bootSlotChoice s = .next s) ∧
    (v.toNat % 2 = 1 → s.clo.confirmSec = some t0 → s.clo.running ≠ 0 → s.clo.op = none → s.pwr.pwrfail = false → recNow s = some (b, r) →
      ∃ t, exec (.stdConfirm v) s = .next t ∧ Only [.clo] s t ∧
        t.clo = { s.clo with confirming := true, op := some { req := 3, kind := 1, addr := twinBase b + 0x200, page := [0, 0, 0, 0] } }) ∧
    (v.toNat % 2 = 0 → exec (.stdConfirm v) s = .next s) ∧
    (s.clo.confirmSec = some t0 → running s = true →
      (900 ≤ t0 → exec .confirmationTimeout s = .next (watchdogReset s 2)) ∧ (t0 < 900 → exec .confirmationTimeout s = .next s)) ∧
    (s.on STD_SUP_STATUS.BOOT_DONE = true → s.pwr.pwrfail = false → ∃ t, exec .operatingTimeRecord s = .next t ∧ Only [.clo] s t ∧
      Tbl.find t.clo.conf 0x07 = some [s.pwr.opSec] ∧ Tbl.find t.clo.conf 0x08 = some [timestampNow s] ∧ t.clo.confSeq = s.clo.confSeq + 2)

/-- Firmware: a download from offset 0 begins the image anew and one that overlaps is refused; a commit of a slot that cannot be written is refused, one of the
running slot ends at once, one that replaces begins with the erase of the slot's first sector, and one of another slot begins with the swap; the activation ends with
its drain, or with Firmware Activation Requires Maximum Time Violation at its limit.
Where the spec leaves a point open, this follows the model: log entries 90 and 91. -/
def Obligations.Firmware : Prop :=
  ∀ (s : State) (n off len slot k : Nat) (leaves : List Nat) (b : Bool) (r : BootRec) (c : Ctx), s.inv = true →
    let x := Config.imageOf s.nvm.fwBuf
    let sound := x.wellFormed && decide (x.leafCount ≤ s.nvm.fwBuf.length) && imageTrusted s x
    let Begun (t : State) (a : Nat) : Prop := t.ctx n = some { c with st := .running } ∧ t.nvm = s.nvm ∧
      t.clo = { s.clo with job := some { ingest := n, action := a, slot := k, leaves := s.nvm.fwBuf.take x.leafCount, step := 1 },
                           op := some { req := 4, kind := 2, addr := slotSector k * 65536 } }
    (Fresh s n c → supTurns s = true →
      (adminGo s n = true → c.cmd = .fwDownload 0 len leaves → len = 65536 * leaves.length → len ≤ 12582912 →
        ∃ t, exec (.firmwareImageDownload n) s = .next t ∧ Only [.hall, .nvm] s t ∧ OthersStand s t n ∧ Ended t n c 0 0 0 ∧
          t.nvm = { s.nvm with fwBuf := leaves, fwLen := len }) ∧
      (adminGo s n = true → c.cmd = .fwDownload (65536 * off) 65536 [k] → 0 < off → 65536 * off < s.nvm.fwLen → off < 192 →
        ∃ t, exec (.firmwareImageDownload n) s = .next t ∧ Only [.hall, .nvm] s t ∧ OthersStand s t n ∧ Ended t n c 1 0x14 0 ∧ t.nvm.fwBuf = s.nvm.fwBuf) ∧
      (s.clo.op = none → s.clo.job = none → s.hall.activating = none →
        (c.cmd = .fwCommit 0 slot → commitSlot s 0 slot = none →
          ∃ t, exec (.fwCommitReplace n) s = .next t ∧ Only [.hall, .nvm] s t ∧ OthersStand s t n ∧ Ended t n c 1 6 0) ∧
        (c.cmd = .fwCommit 0 slot → commitSlot s 0 slot = some k → ∃ t, exec (.fwCommitReplace n) s = .next t ∧ Only [.hall, .clo, .nvm] s t ∧
          OthersStand s t n ∧ if sound = true then Begun t 0 else Ended t n c 1 7 0) ∧
        (c.cmd = .fwCommit 1 slot → commitSlot s 1 slot = some k → ∃ t, exec (.fwCommitReplaceActivateReset n) s = .next t ∧ Only [.hall, .clo, .nvm] s t ∧
          OthersStand s t n ∧ if sound = true then Begun t 1 else Ended t n c 1 7 0) ∧
        (c.cmd = .fwCommit 3 slot → commitSlot s 3 slot = some k → s.nvm.sanitize = none → s.nvm.spaces = [] → ∃ t, exec (.fwCommitActivateNow n) s = .next t ∧ Only [.hall, .clo, .nvm] s t ∧
          OthersStand s t n ∧ if sound = true then Begun t 3 else Ended t n c 1 7 0) ∧
        (c.cmd = .fwCommit 3 slot → commitSlot s 3 slot = some k → s.nvm.sanitize = some 2 →
          ∃ t, exec (.fwCommitActivateNow n) s = .next t ∧ Only [.hall, .nvm] s t ∧ OthersStand s t n ∧ Ended t n c 1 0x13 0) ∧
        (c.cmd = .fwCommit 2 slot → 1 ≤ slot → slot ≤ 3 →
          (slot = s.clo.running → ∃ t, exec (.fwCommitActivateExisting n) s = .next t ∧ Only [.hall] s t ∧ OthersStand s t n ∧ Ended t n c 0 0 0) ∧
          (slot ≠ s.clo.running → swapCount s < 2097152 → ∃ t, exec (.fwCommitActivateExisting n) s = .next t ∧ Only [.hall, .clo, .nvm] s t ∧
            OthersStand s t n ∧ if slotOk s slot none = true then t.ctx n = some { c with st := .running } ∧ t.clo.op.map (fun o => (o.req, o.kind, o.addr)) =
              some (4, 1, twinBase (swapCount s % 2 == 0)) ∧ t.clo.job = some { ingest := n, action := 2, slot := slot, step := 4 }
            else Ended t n c 1 7 0)))) ∧
    (s.hall.activating = some n → hallDrained s = true → recNow s = some (b, r) → s.ctx n = some c → c.st = .running → c.stair = none → isWorker s = false →
      ∃ t, exec .activationDrainComplete s = .next t ∧ Only [.regs, .atc, .std, .clo, .hall, .nvm, .pan, .ldr, .cel, .seqs, .lnd, .scu, .sta, .free] s t ∧ t.clo.running = r.active ∧ t.hall.activating = none ∧
        t.on HAL_CTL.FETCH_EN = true ∧ t.on HAL_CTL.DRAIN_REQ = false ∧ t.scu.geo = (slotImage s r.active).geo ∧
        (t.ctx n).map (fun y => (y.st, y.sct, y.sc)) = some (.ready, 0, 0)) ∧
    (s.hall.activating = some n → hallDrained s = false → s.ctx n = some c → c.st = .running → c.stair = none →
      (exec .activationDrainComplete s = .next s) ∧
      ∃ t, exec .activationDrainTimeout s = .next t ∧ Only [.regs, .hall, .nvm] s t ∧ t.hall.activating = none ∧ t.on HAL_CTL.FETCH_EN = true ∧
        t.on HAL_CTL.DRAIN_REQ = false ∧ RegsBut s t [HAL_CTL.FETCH_EN, HAL_CTL.DRAIN_REQ] ∧ Ended t n c 1 0x12 0)

/-! ## The Pantry (chapter 5) -/

/-- The journal: an open batch is closed with PAD records that take numbers; a batch is durable when both copies have passed, and only then; a lap goes from its
begin record over the segments to its end; an overlay entry whose unit has passed leaves the overlay with its record; a relocation and the erase mark of a suite
without live units are recorded; and without journaling none of the last happens.
Where the spec leaves a point open, this follows the model: log entries 96, 97 and 98. -/
def Obligations.PantryJournal : Prop :=
  ∀ (s : State) (copy tag suite ns u k0 y0 k1 y1 n done at_ : Nat) (b : JBatch) (rest : List JBatch) (c : Commit) (l : List (Nat × Nat × Nat × Nat)) (x : Copied),
    s.inv = true →
    (s.pan.openBatch ≠ [] → s.pan.openBatch.length ≤ 2016 →
      ∃ t b, exec .journalBatchClose s = .next t ∧ Only [.pan] s t ∧ t.pan.closed = s.pan.closed ++ [b] ∧ b.firstSeq = s.pan.openFirst ∧ b.recs.length = 2016 ∧
        b.recs.take s.pan.openBatch.length = s.pan.openBatch ∧ t.pan.openBatch = [] ∧ t.pan.nextSeq = s.pan.nextSeq + (2016 - s.pan.openBatch.length) ∧
        t.pan.img = s.pan.img ∧ t.pan.durable = s.pan.durable) ∧
    (s.pan.openBatch = [] → exec .journalBatchClose s = .next s) ∧
    (s.pan.closed = b :: rest → b.passed = [] →
      exec (.journalBatchDurable copy) s = .next (s.modPan fun p => { p with closed := { b with passed := [copy % 2] } :: rest })) ∧
    (s.pan.closed = b :: rest → b.passed = [(copy + 1) % 2] → b.recs.all (fun r => decide (r.typ ≤ 7)) = true → (∀ p ∈ portsInUse s, (s.hport p).shst ≠ 1) →
      ∃ t, exec (.journalBatchDurable copy) s = .next t ∧ Only [.regs, .atc, .porch, .hall, .nvm, .pan, .ldr, .cel, .scu, .sta] s t ∧ t.pan.closed = rest ∧
        t.pan.durable = some (b.firstSeq + b.recs.length - 1) ∧ t.pan.nextSeq = s.pan.nextSeq ∧ t.pan.img = s.pan.img) ∧
    (journalOn s = true → s.on PAN_CTL.CKPT_EN = true →
      (s.pan.lap = none → s.pan.openBatch.length < 2015 → ∃ t, exec .checkpointSegmentCopy s = .next t ∧ Only [.pan] s t ∧
        t.pan.lap = some (s.pan.flash.lapDone + 1, 0, s.pan.nextSeq) ∧ t.pan.openBatch = s.pan.openBatch ++ [{ typ := 0x10, first := s.pan.flash.lapDone + 1 }] ∧
        t.pan.nextSeq = s.pan.nextSeq + 1) ∧
      (s.pan.lap = some (n, done, at_) → (ckptSegs s).length = done → ∃ t, exec .checkpointSegmentCopy s = .next t ∧ Only [.pan] s t ∧
        t.pan.lap = none ∧ t.pan.flash.lapDone = n ∧ t.pan.flash.lapBegin = at_ ∧ t.pan.flash.prevLapBegin = s.pan.flash.lapBegin) ∧
      (s.pan.lap = some (n, done, at_) → done < (ckptSegs s).length → ∃ t e, exec .checkpointSegmentCopy s = .next t ∧ Only [.pan] s t ∧
        t.pan.lap = some (n, done + 1, at_) ∧ Tbl.find t.pan.flash.copies done = some e ∧ t.pan.flash.lapDone = s.pan.flash.lapDone)) ∧
    (journalOn s = false → exec .checkpointSegmentCopy s = .next s) ∧
    (Tbl.find s.pan.commits tag = some c → journalOn s = true →
      (passedUnits s tag c = some l → (mapExt s c.nsid c.extent).isParked = false →
        ∃ t, exec (.overlayEmission tag) s = .next t ∧ Only [.pan, .scu] s t ∧ Tbl.find t.pan.commits tag = none ∧
          ∀ e ∈ l, ∀ v, Tbl.find t.pan.overlay (unitKey c.nsid e.1) = some v → v.commit ≠ tag) ∧
      (passedUnits s tag c = none → exec (.overlayEmission tag) s = .next s)) ∧
    (journalOn s = true → s.on BSM_STATUS.RING_FAULT = false → s.pan.openBatch.length < 2015 → s.scu.copied = [x] → x.cons = false → x.nsid = ns → x.unit = u →
      x.src = (k0, y0) → x.dst = (k1, y1) → (mapUnit s ns u).kind = .media k0 y0 → Tbl.has s.pan.overlay (unitKey ns u) = false →
      (mapExt s ns (u / 256)).isParked = false →
      ∃ t, exec (.relocationCommit ns u 1 k0 y0 k1 y1) s = .next t ∧ Only [.nvm, .pan, .scu] s t ∧ t.scu.copied = [] ∧
        t.pan.openBatch = s.pan.openBatch ++ [{ typ := 0x02, nsid := ns, count := 1, first := u, loc := locWord k1 y1, aux := k0 }]) ∧
    (journalOn s = false → exec (.relocationCommit ns u 1 k0 y0 k1 y1) s = .next s ∧ exec (.eraseMarkAppend suite) s = .next s) ∧
    (journalOn s = true → isSource s suite = true → liveUnits s suite = 0 → s.pan.closed = [] → s.pan.openBatch = [] → s.pan.overlay = [] → s.pan.eraseMarks = [] →
      ∃ t, exec (.eraseMarkAppend suite) s = .next t ∧ Only [.pan] s t ∧ t.pan.openBatch = [{ typ := 0x0A, count := 1, loc := locWord suite 0 }] ∧
        t.pan.eraseMarks = [(suite, s.pan.nextSeq + 1)] ∧ t.pan.nextSeq = s.pan.nextSeq + 1)

/-- The map cache, its maintenance and the Pantry's enable: a filled line is clean, or dirty where a write waited; a written-back line is gone; the maintenance
operations act on the line named and count; the invalidation clears every line and sets INV_DONE; enabling before it only sets NOT_CLEAN; a consolidation whose
units changed is given up; and a segment whose copy reads takes its entries from it.
Where the spec leaves a point open, this follows the model: log entries 12 and 32. -/
def Obligations.PantryCache : Prop :=
  ∀ (s : State) (la w seg k : Nat) (l : CLine) (v : ExtEnt) (c : Cons) (cp : SegCopy) (suite base : Nat), s.inv = true →
    let line (t : State) : Option (Nat × CLine) := findWay (Tbl.getD t.pan.cache (lineSet la) {}) la
    let cnt (t : State) : Nat := t.rd PAN_MAINT_STATUS.DONE_CNT
    let next : Nat := (s.rd PAN_MAINT_STATUS.DONE_CNT + 1) % 2 ^ PAN_MAINT_STATUS.DONE_CNT.width
    (line s = some (w, l) → l.st = .filling → s.pan.maintQ = [] →
      ∃ t, exec (.cacheFillComplete la) s = .next t ∧ Only [.pan] s t ∧ line t = some (w, { l with st := if l.thenDirty then .dirty else .clean, thenDirty := false }) ∧
        ∀ i, i ≠ lineSet la → Tbl.getD t.pan.cache i {} = Tbl.getD s.pan.cache i {}) ∧
    (line s = some (w, l) → l.st = .writingBack →
      ∃ t, exec (.cacheWritebackComplete la) s = .next t ∧ Only [.pan] s t ∧ Tbl.find (Tbl.getD t.pan.cache (lineSet la) {}).ways w = none ∧
        ∀ i, i ≠ lineSet la → Tbl.getD t.pan.cache i {} = Tbl.getD s.pan.cache i {}) ∧
    (line s = some (w, l) → l.st = .dirty → la < 2 ^ 29 → s.pan.maintQ.length < 16 →
      (∃ t, exec (.panMaintClean la) s = .next t ∧ Only [.regs, .pan] s t ∧ line t = some (w, { l with st := .clean }) ∧ cnt t = next ∧
        RegsBut s t [PAN_MAINT_STATUS.DONE_CNT]) ∧
      (s.on PAN_CTL.ENABLE = true → ∃ t, exec (.panMaintInv la) s = .next t ∧ Only [.regs, .pan] s t ∧ line t = some (w, { l with st := .writingBack }) ∧
        cnt t = next ∧ RegsBut s t [PAN_MAINT_STATUS.DONE_CNT]) ∧
      (∃ t, exec (.panMaintCleanInv la) s = .next t ∧ Only [.regs, .pan] s t ∧ line t = some (w, { l with st := .writingBack }) ∧ cnt t = next ∧
        RegsBut s t [PAN_MAINT_STATUS.DONE_CNT])) ∧
    (s.pan.maintQ.length < 16 → ∃ t, exec .panMaintCleanAll s = .next t ∧ Only [.regs, .pan] s t ∧ cnt t = next ∧ RegsBut s t [PAN_MAINT_STATUS.DONE_CNT] ∧
      ∀ e ∈ t.pan.cache, ∀ y ∈ e.2.ways, y.2.st ≠ .dirty) ∧
    (16 ≤ s.pan.maintQ.length → ∃ t, exec (.panMaintClean la) s = .next t ∧ Only [.regs] s t ∧ t.on PAN_MAINT_STATUS.OVERFLOW = true ∧
      RegsBut s t [PAN_MAINT_STATUS.OVERFLOW]) ∧
    (s.on PAN_CTL.ENABLE = false → exec .panInvAll s = .next (s.modPan fun p => { p with invSweep := true })) ∧
    (s.on PAN_CTL.ENABLE = true → exec .panInvAll s = .next s) ∧
    (s.pan.invSweep = true → ∃ t, exec .invalidateAllDone s = .next t ∧ Only [.regs, .pan] s t ∧ t.pan = { s.pan with invSweep := false, cache := [], maintQ := [] } ∧
      t.on PAN_STATUS.INV_DONE = true ∧ t.on PAN_STATUS.NOT_CLEAN = false ∧ RegsBut s t [PAN_STATUS.INV_DONE, PAN_STATUS.NOT_CLEAN]) ∧
    (s.on PAN_STATUS.INV_DONE = false → ∃ t, exec .pantryEnable s = .next t ∧ Only [.regs] s t ∧ t.on PAN_STATUS.NOT_CLEAN = true ∧
      RegsBut s t [PAN_STATUS.NOT_CLEAN]) ∧
    (s.on PAN_STATUS.INV_DONE = true → s.on PAN_CTL.LAYOUT_LOCK = true → s.on PAN_STATUS.SIZE_ERR = false →
      ∃ t, exec .pantryEnable s = .next t ∧ Only [.regs] s t ∧ t.on PAN_CTL.ENABLE = true ∧ RegsBut s t [PAN_CTL.ENABLE]) ∧
    (hallDrained s = true → ∃ t, exec .pantryDisable s = .next t ∧ Only [.regs, .pan] s t ∧ t.on PAN_CTL.ENABLE = false ∧ RegsBut s t [PAN_CTL.ENABLE] ∧
      ∀ e ∈ t.pan.cache, ∀ y ∈ e.2.ways, y.2.st ≠ .dirty) ∧
    (s.scu.cons = some c → (List.range 256).all (fun i => s.scu.copied.any fun x => x.cons && x.nsid == c.nsid && x.unit == c.ext * 256 + i && x.dst == (suite, base + i)) = true →
      journalOn s = false → exec (.consolidationCommit suite base) s =
        .next (s.modScu fun x => { x with cons := none, copied := x.copied.filter fun y => !y.cons })) ∧
    (s.scu.cons = none → exec (.consolidationCommit suite base) s = .next s) ∧
    ((ckptSegs s)[seg]? = some (0, 0) → Tbl.find s.pan.flash.copies seg = some cp → cp.ext = [(k, v)] → cp.grp = [] → s.pan.flash.journal = [] → s.pan.closed = [] →
      s.pan.openBatch = [] →
      ∃ t, exec (.mapSegmentRepair seg true true) s = .next t ∧ Only [.pan] s t ∧ t.pan = { s.pan with img := t.pan.img } ∧ Tbl.find t.pan.img.ext k = some v ∧
        t.pan.img.dir = s.pan.img.dir ∧ t.pan.img.grp = s.pan.img.grp)

/-! ## The Larder and the Laundry (chapters 6 and 9) -/

/-- The Larder: an uncorrectable slot is poisoned and a parity slot's row is parity-lost; a droop inhibits its port group until it clears; a long inhibit is
recorded once; a hot die leaves the fronts; write-through follows HOLDUP_OK, WT_FORCE and DUMP_ARM; the drain begins, or ends at once when the Larder is empty; and at most
eight banks retire.
Where the spec leaves a point open, this follows the model: log entries 105, 106 and 107. -/
def Obligations.Larder : Prop :=
  ∀ (s : State) (k g n d row key f m : Nat) (v : Bool) (w : U64) (x : Slot) (b : Rebuild), s.inv = true →
    (Tbl.find s.ldr.slots k = some x →
      (x.st ≠ 1 → x.st ≠ 5 → x.st ≠ 6 → x.stream = 2 → ∃ t, exec (.larderSlotUe k) s = .next t ∧ Only [.regs, .ldr] s t ∧
        Tbl.find t.ldr.slots k = some { x with poison := true } ∧ t.on LDR_STATUS.POISON_SEEN = true ∧ RegsBut s t [LDR_STATUS.POISON_SEEN] ∧
        ∀ j, j ≠ k → Tbl.find t.ldr.slots j = Tbl.find s.ldr.slots j) ∧
      (x.st = 5 → ∃ t, exec (.paritySlotUe k) s = .next t ∧ Only [.regs, .ldr] s t ∧ t.ldr.slots = s.ldr.slots ∧ t.on LDR_STATUS.POISON_SEEN = true ∧
        (∀ r ∈ (t.front x.front).rows, k ∈ r.acc → r.lost = true) ∧ RegsBut s t [LDR_STATUS.POISON_SEEN]) ∧
      (x.st = 5 → exec (.larderSlotUe k) s = .next s) ∧ (x.st ≠ 5 → exec (.paritySlotUe k) s = .next s)) ∧
    (g < 8 → g ∉ s.ldr.droop → exec (.supplyDroop g) s = .next (s.modLdr fun l => { l with droop := g :: l.droop })) ∧
    (g ∈ s.ldr.droop → s.ldr.fronts = [] → exec (.droopClearExpiry g) s =
      .next (s.modLdr fun l => { l with droop := l.droop.filter fun x => x != g, inhibitNoted := l.inhibitNoted.filter fun x => x != 1024 + g })) ∧
    (inhibitRow s n d = some (row, key) → s.atc.postedThisSec < 4096 → row < 2 ^ 32 → n < 2 ^ 32 →
      (key ∉ s.ldr.inhibitNoted → ∃ t r, exec (.inhibitLongExpiry n d) s = .next t ∧ Only [.atc, .ldr] s t ∧ key ∈ t.ldr.inhibitNoted ∧
        t.atc.ring.getLast? = some r ∧ r.code = 0x0050 ∧ r.p0 = row ∧ r.p1 = n ∧ r.seq = s.atc.nextSeq) ∧
      (key ∈ s.ldr.inhibitNoted → exec (.inhibitLongExpiry n d) s = .next s)) ∧
    (Tbl.has s.ldr.hot (16 * n + d) = true → s.ldr.fronts = [] → ∃ t, exec (.tempInhibitSuiteExpiry n d) s = .next t ∧ Only [.ldr] s t ∧
      16 * n + d ∈ t.ldr.excluded ∧ t.ldr = { s.ldr with excluded := t.ldr.excluded }) ∧
    (∃ t, exec (.holdupOkChange v) s = .next t ∧ Only [.pwr, .hall, .nvm, .pan, .ldr, .cel, .scu, .free] s t ∧ t.pwr = { s.pwr with holdupOk := v } ∧
      (running s = true → s.pwr.frozen = false → t.ldr.wt = wtMode (s.modPwr fun p => { p with holdupOk := v }))) ∧
    (s.ldr.wt = true →
      (∃ t, exec (.wtForceSet v) s = .next t ∧ Only [.regs, .ldr] s t ∧ t.on LDR_CTL.WT_FORCE = v ∧ RegsBut s t [LDR_CTL.WT_FORCE] ∧ t.ldr.wt = wtMode t) ∧
      (∃ t, exec (.dumpArmSet v) s = .next t ∧ Only [.regs, .ldr] s t ∧ t.on LDR_CTL.DUMP_ARM = v ∧ RegsBut s t [LDR_CTL.DUMP_ARM] ∧ t.ldr.wt = wtMode t)) ∧
    (∃ t, exec (.larderEnable v) s = .next t ∧ Only [.regs] s t ∧ t.on LDR_CTL.ENABLE = v ∧ RegsBut s t [LDR_CTL.ENABLE]) ∧
    (s.ldr.fronts = [] → ∃ t, exec .larderDrain s = .next t ∧ Only [.regs] s t ∧ t.on LDR_CTL.DRAIN = !larderEmpty s ∧ RegsBut s t [LDR_CTL.DRAIN]) ∧
    (((List.range 64).countP fun i => bitAt (s.rd LDR_BANK_RETIRE.BANKS ||| w.toNat) i) ≤ 8 →
      ∃ t, exec (.ldrBankRetire w) s = .next t ∧ Only [.regs] s t ∧ t.rd LDR_BANK_RETIRE.BANKS = (s.rd LDR_BANK_RETIRE.BANKS ||| w.toNat) ∧
        RegsBut s t [LDR_BANK_RETIRE.BANKS]) ∧
    (8 < ((List.range 64).countP fun i => bitAt (s.rd LDR_BANK_RETIRE.BANKS ||| w.toNat) i) →
      ∃ t r, exec (.ldrBankRetire w) s = .next t ∧ Only [.regs, .atc] s t ∧ t.on LDR_STATUS.RETIRE_LIMIT = true ∧ RegsBut s t [LDR_STATUS.RETIRE_LIMIT] ∧
        t.atc.ring.getLast? = some r ∧ r.code = 0x0051) ∧
    ((s.ldr.rebuilds.find? fun b => b.front == f && b.row == row && b.member == m) = some b →
      (b.need = [] → m = 64 → exec (.rebuildComplete f row m) s =
        .next (recomputed (s.modLdr fun l => { l with rebuilds := l.rebuilds.erase b }) f b.suite row (b.failed == 0))) ∧
      (b.need ≠ [] → exec (.rebuildComplete f row m) s = .next s))

/-- Decoding: a verify read passes when it decodes within VERIFY_BITS and equals its slot, and reports the outcome; a soft job is admitted with a credit, the verify
and host class first, and a failed one leaves its codeword to the ladder; a recovered stripe is delivered with a record, one with members outstanding waits.
Where the spec leaves a point open, this follows the model: log entry 2. -/
def Obligations.LaundryDecode : Prop :=
  ∀ (s : State) (n i cw cw2 ones zeros weight id : Nat) (ok : Bool) (data : Blk) (md : Meta) (h : DescHw) (a b : SoftJob) (x : ClimbCw) (j : StripeJob) (slot : Nat)
    (y : Slot), s.inv = true →
    (Tbl.find (s.seq n).descs i = some h → h.ended = false → h.op.kind = 2 → h.op.cwCount = 1 → h.cwDone = 0 → h.xferDone = false → h.op.slots = [slot] →
      Tbl.find s.ldr.slots slot = some y → (s.seq n).wait = none → (s.seq n).held = [] → (s.seq n).evq.length < 64 →
      ∃ t e, exec (.hardDecodeDone n i 0 ok ones zeros weight data md none) s = .next t ∧ OnlySeq s t n ∧ (t.seq n).evq = (s.seq n).evq ++ [e] ∧
        e.toNat % 256 = 0x0C ∧
        e.toNat / 2 ^ 16 % 256 = (if ok = true ∧ ones + zeros ≤ s.rd LND_POLICY.VERIFY_BITS ∧ y.data = data ∧ y.md = md then 1 else 2) ∧
        Tbl.find (t.seq n).descs i = some { h with cwDone := 1, verifyPass := h.verifyPass || (ok && decide (ones + zeros ≤ s.rd LND_POLICY.VERIFY_BITS) && y.data == data && y.md == md) }) ∧
    (Tbl.find (s.seq n).descs i = none → exec (.hardDecodeDone n i cw ok ones zeros weight data md none) s = .next s) ∧
    (exec .softAdmissionCredit s = .next (s.modLnd fun l => { l with credit := min 16 (l.credit + 1) })) ∧
    (s.lnd.jobs = [a, b] → a.running = false → b.running = false → a ≠ b → s.lnd.credit ≠ 0 → s.atc.badSoft.length < 16 →
      (b.cls = 0 → a.cls ≠ 0 → exec .softJobAdmit s = .next (s.modLnd fun l => { l with credit := l.credit - 1, jobs := [a, { b with running := true }] })) ∧
      (a.cls = b.cls → a.cls ≤ 2 → exec .softJobAdmit s = .next (s.modLnd fun l => { l with credit := l.credit - 1, jobs := [{ a with running := true }, b] }))) ∧
    (s.lnd.credit = 0 → exec .softJobAdmit s = .next s) ∧
    (s.lnd.jobs = [a] → a.running = true → a.n = n → a.i = i → a.cw = cw → Tbl.find (s.seq n).descs i = some h → Tbl.find (s.climb n i).cws cw = some x →
      (cw2 ≠ cw → Tbl.find (s.climb n i).cws cw2 = some {} → ∃ t, exec (.softDecodeDone n i cw false ones zeros data md) s = .next t ∧ Only [.lnd] s t ∧
        t.lnd.jobs = [] ∧ Tbl.find (t.climb n i).cws cw = some { x with failed := true, found := none } ∧ Tbl.find (t.climb n i).cws cw2 = some {}) ∧
      (let u := cwGood (track (s.modLnd fun l => { l with jobs := [] }) n h.op (bits (descByte s n i 0x14 4) 0 4) ones zeros) n i cw 3 a.row h.op data md;
        exec (.softDecodeDone n i cw true ones zeros data md) s = .next (if stepOver u n i then nextRow u n i else u))) ∧
    (s.lnd.stripes = [j] → j.id = id →
      (j.need = [] → j.failed = false → j.soft = false → j.joined = [] → j.op.issuer = .test → ∃ t r, exec (.stripeRecoveryDone id) s = .next t ∧
        Only [.atc, .lnd, .scu] s t ∧ t.lnd.stripes = [] ∧ t.atc.ring.getLast? = some r ∧ r.code = 0x0070 ∧ r.sev = 3 ∧ r.p0 = j.suite % 2 ^ 32) ∧
      (j.need ≠ [] → exec (.stripeRecoveryDone id) s = .next s))

/-- Calibration, time limits and pacing: a calibration that is asked for or due begins, its result becomes the tracked set of its group with the hour; a request
from a port queues every group of the die; a command past its recovery limit ends with Unrecovered Read Error; a decoded word taken by its host port leaves the
buffer with its data; and one with a block that fails a selected check hands over the blocks before it, and ends the command with that check's error and the LBA of
the block in the error log.
Where the spec leaves a point open, this follows the model: log entries 57 and 111. -/
def Obligations.LaundryCare : Prop :=
  ∀ (s : State) (n die group valley hp p ns lb k bad e : Nat) (g a r : Bool) (host : Blk) (pr : PrInfo) (c : CalJob) (y : Ctx) (w : HostWord), s.inv = true →
    (s.on LND_CTL.CAL_EN = true → diePresent s n die = true → calDue s n die group = true → s.scu.suites = [] →
      ∃ t, exec (.calibration n die group) s = .next t ∧ Only [.lnd] s t ∧
        ∃ c ∈ t.lnd.cals, c.n = n ∧ c.die = die ∧ c.group = group ∧ c.started = true) ∧
    (s.on LND_CTL.CAL_EN = false → exec (.calibration n die group) s = .next s) ∧
    (s.lnd.cals = [c] → c = { n := n, die := die, group := group, started := true } →
      ∃ t, exec (.calibrationDone n die group valley true) s = .next t ∧ Only [.lnd] s t ∧ t.lnd.cals = [] ∧
        Tbl.getD t.lnd.sets (setKey n die group) 0 = valley % 2 ^ 120 ∧ Tbl.find t.lnd.lastCal (setKey n die group) = some (s.pwr.opSec / 3600)) ∧
    (diePresent s n die = true → ∃ t, exec (.calRequest n die) s = .next t ∧ Only [.regs, .lnd] s t ∧ t.on (LND_PORT_CTL.CAL_REQ n) = false ∧
      RegsBut s t [LND_PORT_CTL.CAL_REQ n] ∧ ∀ g, g < 16 → ∃ c ∈ t.lnd.cals, c.n = n ∧ c.die = die ∧ c.group = g) ∧
    (s.ctx n = some y → y.st = .running → y.resolved = true → y.reads ≠ [] → y.stair = none →
      (bits (feat s 0 0x05 (readNs y)) 0 16 ≠ 0 → ∃ t, exec (.tlerExpiry n) s = .next t ∧ Only [.hall, .nvm, .pan, .ldr, .cel, .lnd, .scu, .sta] s t ∧
        (t.ctx n).map (fun z => (z.st, z.sct, z.sc)) = some (.ready, 2, 0x81)) ∧
      (bits (feat s 0 0x05 (readNs y)) 0 16 = 0 → exec (.tlerExpiry n) s = .next s)) ∧
    (s.lnd.words = [w] → w.src = n → w.pin = none → s.ctx w.ingest = some y → y.port = hp → y.stair = none → y.cmd = .read ns lb k pr →
      (piSelects s (readNs y) pr = true → piStatus pr g a r = none) →
      ∃ t, exec (.pacedReadRelease n hp g a r bad host) s = .next t ∧ Only [.regs, .hall, .nvm, .pan, .ldr, .cel, .lnd, .scu, .sta, .out] s t ∧ t.lnd.words = [] ∧
        t.out = s.out ++ [.hostData w.ingest w.unit (decrypt s (readNs y) w.unit w.data) (hostMeta s ns pr w.md)] ∧ t.nvm.unitsRead = s.nvm.unitsRead + 1) ∧
    (s.lnd.words = [w] → w.src = n → w.pin = none → s.pan.pins = [] → s.ctx w.ingest = some y → y.port = hp → y.stair = none → y.st = .running →
      y.cmd = .read ns lb k pr → piSelects s (readNs y) pr = true → piStatus pr g a r = some (2, e) →
      ∃ t, exec (.pacedReadRelease n hp g a r bad host) s = .next t ∧ Only [.regs, .hall, .nvm, .pan, .ldr, .cel, .lnd, .scu, .sta, .out] s t ∧ t.lnd.words = [] ∧
        (t.ctx w.ingest).map (fun z => (z.st, z.sct, z.sc)) = some (.ready, 2, e) ∧
        t.out = s.out ++ (if bad % perUnit s (readNs y) = 0 then []
          else [.hostPart w.ingest w.unit (bad % perUnit s (readNs y)) (decrypt s (readNs y) w.unit w.data) (hostMeta s ns pr w.md)]) ∧
        ((Tbl.getD t.nvm.errors hp []).head?).map (fun l => (l.drop 1).take 5) =
          some [y.sq, y.cid, 2, e, w.unit * perUnit s (readNs y) + bad % perUnit s (readNs y)]) ∧
    (s.lnd.words = [] → exec (.pacedReadRelease n p g a r bad host) s = .next s)

/-! ## The Scullery, the Basement and the casement code (chapters 10 and 11) -/

/-- Reclaim and erase: a group goes on with a suite that is already a source, else takes the victim that its rules choose and makes it a source; a static wear move
takes the least worn closed suite with cause 4; a fold row is programmed at every member, or the fold stops where a member is gone; an erase failure takes the
member's block out of use; an erased suite counts one erase more.
Where the spec leaves a point open, this follows the model: log entries 102 and 104. -/
def Obligations.SculleryReclaim : Prop :=
  ∀ (s : State) (rg k m m2 cause f j : Nat) (r : Suite) (e : Nat × Nat × ExtEnt), s.inv = true →
    (rg < 8 → s.pwr.frozen = false → victimBusy s rg = false →
      (((s.scu.suites.find? fun e => e.2.st == 3 && e.2.rg == rg).map fun e => e.1) = some k →
        exec (.reclaimVictimChoice rg) s = .next (s.modScu fun x => { x with recl := Tbl.put x.recl rg { suite := k, cause := 1, left := liveUnitsOf s k } })) ∧
      ((s.scu.suites.find? fun e => e.2.st == 3 && e.2.rg == rg) = none → (∀ k ∈ closedOf s rg, (s.suite k).foldSource = false) → rg ∈ s.scu.reclaiming →
        s.on SCU_CTL.RECLAIM_EN = true → chooseVictim s rg = some (k, cause) →
        ∃ t, exec (.reclaimVictimChoice rg) s = .next t ∧ Only [.pan, .scu] s t ∧ (t.suite k).st = 3 ∧ (∀ i, i ≠ k → t.suite i = s.suite i) ∧
          Tbl.find t.scu.recl rg = some { suite := k, cause := cause, left := liveUnitsOf s k }) ∧
      (staticDue s rg = true → leastWorn s (closedOf s rg) = some k →
        ∃ t, exec (.staticWearDue rg) s = .next t ∧ Only [.pan, .scu] s t ∧ (t.suite k).st = 3 ∧ (∀ i, i ≠ k → t.suite i = s.suite i) ∧
          Tbl.find t.scu.recl rg = some { suite := k, cause := 4, left := liveUnitsOf s k } ∧ Tbl.find t.scu.lastStatic rg = some (nowHour s)) ∧
      (staticDue s rg = false → exec (.staticWearDue rg) s = .next s)) ∧
    (victimBusy s rg = true → exec (.reclaimVictimChoice rg) s = .next s ∧ exec (.staticWearDue rg) s = .next s) ∧
    ((s.suite k).st = 5 → Tbl.find s.scu.erasing k = some [] → s.ldr.fronts = [] → s.nvm.sanitize = none →
      ∃ t, exec (.suiteEraseDone k) s = .next t ∧ Only [.hall, .nvm, .pan, .ldr, .cel, .scu, .free] s t ∧ (t.suite k).eraseCount = (s.suite k).eraseCount + 1 ∧
        ((t.suite k).st = 0 ∨ (t.suite k).st = 6) ∧ Tbl.find t.scu.erasing k = none ∧ t.nvm.erasedUnits = s.nvm.erasedUnits + (s.suite k).dataUnits) ∧
    ((s.suite k).st = 5 → Tbl.find s.scu.erasing k = some [m, m2] → m ≠ m2 → s.nvm.sanitize = none → bitAt (s.suite k).members m = true →
      ∃ t, exec (.eraseFail k m) s = .next t ∧ Only [.nvm, .pan, .scu] s t ∧ Tbl.find t.scu.erasing k = some [m2] ∧
        badKey (memberDie s k m).1 (memberDie s k m).2 (k / 32) ∈ t.scu.badBlocks ∧ (t.suite k).members = (s.suite k).members - 2 ^ m ∧
        (Tbl.getD t.nvm.ports (memberDie s k m).1 {}).eraseFails = min ((Tbl.getD s.nvm.ports (memberDie s k m).1 {}).eraseFails + 1) (2 ^ 32 - 1)) ∧
    ((s.suite k).st ≠ 5 → exec (.suiteEraseDone k) s = .next s ∧ exec (.eraseFail k m) s = .next s) ∧
    (s.suite k = r → r.foldSource = true → r.st = 2 → k ∉ s.scu.foldStopped → s.pwr.frozen = false → Tbl.has s.scu.erasing (2 ^ 24 + k) = false → r.folded = j →
      4 * (j + 1) ≤ s.scu.geo.rows → (∀ i, i < 4 → rowSettled s k (4 * j + i) = true) →
      (r.removed = [] → (s.suite (r.foldDest % 2 ^ 20)).removed = [] →
        ∃ t, exec (.foldRow k) s = .next t ∧ Only [.hall, .pan, .cel, .scu, .free] s t ∧ Tbl.find t.scu.erasing (2 ^ 24 + k) = some (membersAt r (4 * j)) ∧
          t.cel.nextOp = s.cel.nextOp + (membersAt r (4 * j)).length) ∧
      (r.removed ≠ [] → exec (.foldRow k) s = .next (foldStop s k))) ∧
    (s.on SCU_CTL.CONS_EN = true → s.pan.consolidating = true → s.scu.cons = none → asleep s = false → s.pwr.frozen = false →
      (((allExtents s).filter fun e => eligibleExt s e.1 e.2.1) = [e] → e.2.2.isParked = true → exec .consolidationStep s = .next (startCons s e.1 e.2.1)) ∧
      (((allExtents s).filter fun e => eligibleExt s e.1 e.2.1) = [] → exec .consolidationStep s = .next s)) ∧
    ((s.suite k).st = 1 → (s.suite k).filled ≠ 0 → (s.suite k).programHour + s.rd SCU_CARE_CFG.OPEN_MAX_H ≤ nowHour s →
      ((s.ldr.fronts.find? fun e => e.2.suite == some k).map (fun e => e.1) = some f →
        exec (.openMaxExpiry k) s = .next (endSuite (s.modSuite k fun x => { x with short := true }) f)) ∧
      ((s.ldr.fronts.find? fun e => e.2.suite == some k) = none → exec (.openMaxExpiry k) s = .next s))

/-- Care: a retention age makes a refresh due; the patrol counts its lap when no suite is left and is late with a record past its period; a lost port's walk ends;
the lifetime counts take what the ports counted; a suite's record is latched for reading; and a minute of operation falls into its temperature bin.
Where the spec leaves a point open, this follows the model: log entries 101, 104 and 108. -/
def Obligations.SculleryCare : Prop :=
  ∀ (s : State) (k n : Nat) (v : U64), s.inv = true →
    ((s.suite k).st = 2 → 0 < (s.suite k).filled → (s.suite k).programHour + s.rd SCU_CARE_CFG.RETAIN_H ≤ nowHour s →
      ∃ t, exec (.retentionAgeExpiry k) s = .next t ∧ Only [.scu] s t ∧ t.suite k = { s.suite k with refreshDue := true } ∧ ∀ i, i ≠ k → t.suite i = s.suite i) ∧
    (nowHour s < (s.suite k).programHour + s.rd SCU_CARE_CFG.RETAIN_H → exec (.retentionAgeExpiry k) s = .next s) ∧
    (s.on SCU_CTL.PATROL_EN = true → asleep s = false → s.pwr.frozen = false →
      (∀ k ∈ patrolSuites s, k < s.scu.lapPos) →
        ∃ t, exec .patrolRead s = .next t ∧ Only [.regs, .scu] s t ∧ t.rd SCU_PATROL_STATUS.LAPS = (s.rd SCU_PATROL_STATUS.LAPS + 1) % 2 ^ 16 ∧
          t.rd SCU_PATROL_STATUS.LAP_LAST_S = (s.pwr.opSec - s.scu.lapStart) % 2 ^ 32 ∧ t.on SCU_PATROL_STATUS.LATE = false ∧
          RegsBut s t [SCU_PATROL_STATUS.LAPS, SCU_PATROL_STATUS.LAP_LAST_S, SCU_PATROL_STATUS.LATE] ∧
          t.scu = { s.scu with lapStart := s.pwr.opSec, lapPos := 0, lapRow := 0 }) ∧
    (s.on SCU_CTL.PATROL_EN = false → exec .patrolRead s = .next s ∧ exec .patrolLateExpiry s = .next s) ∧
    (s.on SCU_CTL.PATROL_EN = true → s.on SCU_PATROL_STATUS.LATE = false → 3 * patrolPeriod s ≤ 2 * (s.pwr.opSec - s.scu.lapStart) →
      ∃ t r, exec .patrolLateExpiry s = .next t ∧ Only [.regs, .atc] s t ∧ t.on SCU_PATROL_STATUS.LATE = true ∧ RegsBut s t [SCU_PATROL_STATUS.LATE] ∧
        t.atc.ring.getLast? = some r ∧ r.code = 0x0081 ∧ r.sev = 3) ∧
    (n ∈ s.scu.walk → ∃ t, exec (.ledgerWalkLost n) s = .next t ∧ Only [.regs, .atc, .hall, .nvm, .pan, .ldr, .cel, .scu, .sta] s t ∧ n ∉ t.scu.walk) ∧
    (n ∉ s.scu.walk → exec (.ledgerWalkLost n) s = .next s) ∧
    (n < 64 → populated s n = true → ∃ t, exec .lifetimeCountUpdate s = .next t ∧ Only [.nvm, .scu] s t ∧ Tbl.find t.scu.counted n = some (portCounts s n) ∧
      (Tbl.getD t.nvm.ports n {}).retries = min ((Tbl.getD s.nvm.ports n {}).retries + (s.rd (CEL_LINK_CNT.RETX_CNT n) -
        (Tbl.getD s.scu.counted n []).getD 0 0)) (2 ^ 32 - 1)) ∧
    (∃ t, exec (.suiteIdxWrite v) s = .next t ∧ Only [.regs, .scu] s t ∧ t.rd SCU_SUITE_IDX.IDX = v.toNat % 2 ^ 20 ∧ RegsBut s t [SCU_SUITE_IDX.IDX] ∧
      t.scu = { s.scu with snap := v.toNat % 2 ^ 20, snapRec := s.suite (v.toNat % 2 ^ 20), snapValid := liveUnits s (v.toNat % 2 ^ 20) }) ∧
    (running s = true → composite s < 120 → ∃ t, exec .tempHistMinute s = .next t ∧ Only [.nvm] s t ∧
      Tbl.find t.nvm.tempHist 0 = some (min (Tbl.getD s.nvm.tempHist 0 0 + 1) (2 ^ 32 - 1)) ∧ ∀ i, i ≠ 0 → Tbl.find t.nvm.tempHist i = Tbl.find s.nvm.tempHist i) ∧
    (running s = false → exec .tempHistMinute s = .next s)

/-- DRAM reads: a sound burst is read without a trace; one with any single bit of a casement wrong is corrected in place, counted and logged; the scrubber goes on to
the next burst and is late with a record past twice its lap; a clear takes a new generation and empties the DRAM.
Where the spec leaves a point open, this follows the model: log entries 31 and 100. -/
def Obligations.DramReads : Prop :=
  ∀ (s : State) (a k : Nat) (d0 d1 : BitVec 256) (content : DramContent), s.inv = true →
    let b : Burst := { c0 := casEncode d0, c1 := casEncode d1, addr := a / 64 % 2 ^ 48, gen := s.rd BSM_STATUS.GEN }
    (burstServed s a = true → a % 64 = 0 → remapOf s (a / 4096) = none → regionAt s a = none → getBurst s a = b →
      (∃ t, exec (.dramBurstRead a false [] [] content) s = .next t ∧ Only [.bsm] s t ∧ (∀ i, getBurst t i = getBurst s i) ∧
        t.bsm.log = s.bsm.log ∧ t.bsm.reported = s.bsm.reported) ∧
      (k < 289 → ∃ t e, exec (.dramBurstRead a false [k] [] content) s = .next t ∧ Only [.regs, .bsm] s t ∧ getBurst t a = b ∧
        t.rd BSM_ERR_CNT.DRAM_CE = min (s.rd BSM_ERR_CNT.DRAM_CE + 1) (2 ^ 16 - 1) ∧ t.bsm.log.getLast? = some e ∧
        e.cls = (if k < 256 then 1 else 2) ∧ e.word = a / 32 ∧ RegsBut s t [BSM_ERR_CNT.DRAM_CE, BSM_LOG_HEAD.NEXT_SEQ, BSM_LOG_HEAD.LOST])) ∧
    (burstServed s a = false → exec (.dramBurstRead a false [k] [] content) s = .next s) ∧
    (s.on BSM_CTL.SCRUB_EN = true → s.pwr.st = .ps0 → a = 64 * s.bsm.scrubPos → burstServed s a = true → remapOf s (a / 4096) = none → regionAt s a = none →
      getBurst s a = b → s.bsm.scrubPos + 1 < dataSpace s / 64 →
      ∃ t, exec (.scrubRead [] [] content) s = .next t ∧ Only [.regs, .bsm] s t ∧ t.bsm.scrubPos = s.bsm.scrubPos + 1 ∧ (∀ i, getBurst t i = getBurst s i) ∧
        RegsBut s t [BSM_SCRUB_STATUS.PROGRESS]) ∧
    (s.on BSM_CTL.SCRUB_EN = false → exec (.scrubRead [] [] content) s = .next s ∧ exec .scrubLateExpiry s = .next s) ∧
    (s.on BSM_CTL.SCRUB_EN = true → 2 * lapSeconds s ≤ s.pwr.opSec - s.bsm.lapStart → s.on BSM_SCRUB_STATUS.LATE = false →
      ∃ t r, exec .scrubLateExpiry s = .next t ∧ Only [.regs, .atc] s t ∧ t.on BSM_SCRUB_STATUS.LATE = true ∧ RegsBut s t [BSM_SCRUB_STATUS.LATE] ∧
        t.atc.ring.getLast? = some r ∧ r.code = 0x0022) ∧
    (s.on BSM_STATUS.CLEAR_BUSY = false → s.rd BSM_STATUS.IN_SERVICE ≠ 0 → 0 < s.bsm.clears →
      ∃ t, exec .dramClear s = .next t ∧ Only [.regs, .bsm] s t ∧ t.on BSM_STATUS.CLEAR_BUSY = true ∧ t.on BSM_STATUS.CLEAR_DONE = false ∧ t.on BSM_CTL.CLEAR = true ∧
        t.rd BSM_STATUS.GEN = (s.rd BSM_STATUS.GEN + 1) % 2 ^ 14 ∧ RegsBut s t [BSM_CTL.CLEAR, BSM_STATUS.CLEAR_BUSY, BSM_STATUS.CLEAR_DONE, BSM_STATUS.GEN]) ∧
    (s.on BSM_STATUS.CLEAR_BUSY = true →
      ∃ t, exec .dramClearDone s = .next t ∧ Only [.regs, .bsm] s t ∧ t.bsm.dram = [] ∧ t.bsm.scrubPos = 0 ∧ t.on BSM_STATUS.CLEAR_BUSY = false ∧
        t.on BSM_STATUS.CLEAR_DONE = true ∧ t.on BSM_CTL.CLEAR = false ∧ RegsBut s t [BSM_CTL.CLEAR, BSM_STATUS.CLEAR_BUSY, BSM_STATUS.CLEAR_DONE])

/-- The Basement's other events: a sweep of an SRAM word logs and counts by its syndromes, a corrected one, an uncorrectable one with a record, a poisoned one
with neither; DDR alerts replay and then retrain, and the third retrain within 600 s retires the subchannel; a page is remapped at once before the first clear and
through a copy afterwards; and an uncorrectable command context ends its command.
Where the spec leaves a point open, this follows the model: log entry 31. -/
def Obligations.BasementEvents : Prop :=
  ∀ (s : State) (arr word st sm k j n : Nat) (ss : Bool) (page : Nat) (v : U64) (old : Option Nat) (c : Ctx), s.inv = true →
    (arr = 3 ∨ arr = 4 →
      (synDecode (BitVec.ofNat 16 st) (BitVec.ofNat 16 sm) ss = .clean → exec (.sramSweep arr word st sm ss false) s = .next s) ∧
      (synDecode (BitVec.ofNat 16 st) (BitVec.ofNat 16 sm) ss = .check → ∃ t e, exec (.sramSweep arr word st sm ss false) s = .next t ∧ Only [.regs, .bsm] s t ∧
        t.rd BSM_ERR_CNT.SRAM_CE = min (s.rd BSM_ERR_CNT.SRAM_CE + 1) (2 ^ 16 - 1) ∧ t.bsm.log.getLast? = some e ∧ e.cls = 2 ∧ e.word = word ∧ e.arr = arr ∧
        RegsBut s t [BSM_ERR_CNT.SRAM_CE, BSM_LOG_HEAD.NEXT_SEQ, BSM_LOG_HEAD.LOST]) ∧
      (synDecode (BitVec.ofNat 16 st) (BitVec.ofNat 16 sm) ss = .bad → arr * 2 ^ 60 + word ∉ s.bsm.reported → ∃ t e r,
        exec (.sramSweep arr word st sm ss false) s = .next t ∧ Only [.regs, .bsm, .atc] s t ∧
        t.rd BSM_ERR_CNT.SRAM_UE = min (s.rd BSM_ERR_CNT.SRAM_UE + 1) (2 ^ 16 - 1) ∧ t.bsm.log.getLast? = some e ∧ e.cls = 3 ∧
        t.atc.ring.getLast? = some r ∧ r.code = 0x0021 ∧ r.p0 = arr) ∧
      (∃ t e, exec (.sramSweep arr word st sm ss true) s = .next t ∧ Only [.regs, .bsm] s t ∧ t.bsm.log.getLast? = some e ∧ e.cls = 6 ∧
        RegsBut s t [BSM_LOG_HEAD.NEXT_SEQ, BSM_LOG_HEAD.LOST])) ∧
    (k < 2 →
      (subState s k ≠ 3 → s.on BSM_STATUS.CLEAR_DONE = false → ∃ t, exec (.subchannelRetire k) s = .next t ∧ Only [.regs, .porch] s t ∧ subState t k = 3 ∧
        t.rd (BSM_SUBCH_STATUS.RETIRE_CAUSE k) = 3 ∧ bitAt (t.rd BSM_CTL.RETIRE) k = true ∧ subIn t k = false) ∧
      (subState s k = 3 → exec (.subchannelRetire k) s = .next s) ∧
      (subState s k = 1 → Tbl.getD s.bsm.subs k {} = { Tbl.getD s.bsm.subs k {} with replays := 7 } → ∃ t e, exec (.ddrAlert k true) s = .next t ∧
        Only [.regs, .bsm] s t ∧ Tbl.find t.bsm.subs k = some { Tbl.getD s.bsm.subs k {} with replays := 8 } ∧ t.bsm.log.getLast? = some e ∧ e.cls = 7 ∧ e.arr = k ∧
        t.rd (BSM_SUBCH_STATUS.REPLAY_CNT k) = min (s.rd (BSM_SUBCH_STATUS.REPLAY_CNT k) + 1) (2 ^ 16 - 1)) ∧
      (subState s k = 1 → Tbl.getD s.bsm.subs k {} = { replays := 8 } → ∃ t, exec (.ddrAlert k true) s = .next t ∧ Only [.regs, .bsm] s t ∧ subState t k = 2 ∧
        t.rd (BSM_SUBCH_STATUS.RETRAIN_CNT k) = min (s.rd (BSM_SUBCH_STATUS.RETRAIN_CNT k) + 1) (2 ^ 16 - 1) ∧ t.rd (BSM_SUBCH_STATUS.RETRAIN_WIN k) = 1) ∧
      (subState s k = 2 →
        (∃ t, exec (.subchannelRetrainDone k) s = .next t ∧ Only [.regs] s t ∧ subState t k = 1 ∧ RegsBut s t [BSM_SUBCH_STATUS.STATE k]) ∧
        ((Tbl.getD s.bsm.subs k {}).retrains = [s.pwr.opSec, s.pwr.opSec] → exec (.subchannelRetrainTimeout k) s = .next (subRetired (retireSub s k 1) k true)) ∧
        ((Tbl.getD s.bsm.subs k {}).retrains = [] → ∃ t, exec (.subchannelRetrainTimeout k) s = .next t ∧ Only [.regs, .bsm] s t ∧ subState t k = 2 ∧
          t.rd (BSM_SUBCH_STATUS.RETRAIN_WIN k) = 1))) ∧
    (j < 1024 → s.on (BSM_REMAP.BUSY j) = false → page < 2 ^ 24 → v = BitVec.ofNat 64 (2 ^ 63 + page) →
      ¬ (spareAddr s 0 ≤ page * 4096 ∧ page * 4096 < spareAddr s 1024) →
      (s.on BSM_STATUS.CLEAR_DONE = false → ∃ t, exec (.bsmRemapWrite j v) s = .next t ∧ Only [.regs] s t ∧ t.on (BSM_REMAP.VALID j) = true ∧
        t.rd (BSM_REMAP.PAGE j) = page ∧ t.on (BSM_REMAP.BUSY j) = false ∧ RegsBut s t [BSM_REMAP.VALID j, BSM_REMAP.PAGE j]) ∧
      (s.on BSM_STATUS.CLEAR_DONE = true → ∃ t, exec (.bsmRemapWrite j v) s = .next t ∧ Only [.regs, .bsm] s t ∧ t.on (BSM_REMAP.BUSY j) = true ∧
        Tbl.find t.bsm.copyPage j = some page ∧ Tbl.find t.bsm.copies j = some (remapOf s page) ∧ RegsBut s t [BSM_REMAP.BUSY j])) ∧
    (s.on (BSM_REMAP.BUSY j) = true → exec (.bsmRemapWrite j v) s = .next s) ∧
    (Tbl.find s.bsm.copies j = some old → Tbl.find s.bsm.copyPage j = some page → page < 2 ^ 24 → old ≠ some j →
      ∃ t, exec (.remapCopyDone j) s = .next t ∧ Only [.regs, .bsm] s t ∧ t.on (BSM_REMAP.VALID j) = true ∧ t.on (BSM_REMAP.BUSY j) = false ∧
        t.rd (BSM_REMAP.PAGE j) = page ∧ Tbl.find t.bsm.copies j = none ∧ (∀ i, old = some i → t.on (BSM_REMAP.VALID i) = false)) ∧
    (s.ctx n = some c → c.st = .running → c.stair = none → 4 * 2 ^ 60 + n ∉ s.bsm.reported →
      ∃ t, exec (.contextStoreUe n) s = .next t ∧ Only [.regs, .atc, .hall, .nvm, .pan, .ldr, .cel, .bsm, .sta] s t ∧ (t.ctx n).map (fun y => (y.st, y.sct, y.sc)) = some (.ready, 0, 6))

/-! ## The Cellar (chapter 7) -/

/-- Training: TRAIN takes a port from OFF to DETECT, a peer to LOCK, 16 HELLO frames each way to VERSION; the HELLO values settle the version and the credits: 1.0
is ACTIVE at once, 2.0 sends SWITCH and goes through EQ; a bridge below 1.0 or with fewer than 4 buffers, or a time-out, fails the attempt, and the third failure
retires the port with cause 3.
Where the spec leaves a point open, this follows the model: log entry 109. -/
def Obligations.CellarTraining : Prop :=
  ∀ (s : State) (n : Nat) (h : FrameHdr) (vm vendor part rev dies dc cc ver preset errs loc : Nat), s.inv = true → n < 64 →
    let st (t : State) : Nat := portState t n
    let ok : Prop := Arrives s n h 6
    (st s = 0 → portMode s n = 1 → populated s n = true → portRetired s n = false → refclkOn s n = true → s.pwr.straps.testmode = false →
      ∃ t, exec (.portTrain n) s = .next t ∧ Only [.regs, .cel, .seqs] s t ∧ st t = 1 ∧ RegsBut s t [CEL_PORT_STATUS.STATE n] ∧ (t.port n).attempts = 0 ∧
        (t.port n).helloRx = 0 ∧ (t.port n).helloTx = 0) ∧
    (st s ≠ 0 → exec (.portTrain n) s = .next s) ∧
    (refclkOn s n = false → exec (.portTrain n) s = .next s) ∧
    (st s = 1 → ∃ t, exec (.peerDetect n) s = .next t ∧ Only [.regs, .seqs] s t ∧ st t = 2 ∧ RegsBut s t [CEL_PORT_STATUS.STATE n]) ∧
    (st s ≠ 1 → exec (.peerDetect n) s = .next s ∧ exec (.detectTimeout n) s = .next s) ∧
    ((s.port n).attempts < 2 →
      (st s = 1 → ∃ t, exec (.detectTimeout n) s = .next t ∧ Only [.regs, .cel, .seqs] s t ∧ st t = 1 ∧ (t.port n).attempts = (s.port n).attempts + 1) ∧
      (st s = 2 ∨ st s = 3 ∨ st s = 4 →
        ∃ t, exec (.trainingTimeout n) s = .next t ∧ Only [.regs, .cel, .seqs] s t ∧ st t = 1 ∧ (t.port n).attempts = (s.port n).attempts + 1)) ∧
    ((s.port n).attempts = 2 → IdlePort s n → st s = 1 → ∃ t, exec (.detectTimeout n) s = .next t ∧ Only [.regs, .atc, .hall, .nvm, .pan, .ldr, .cel, .seqs, .lnd, .scu, .sta, .free] s t ∧ RetiredFor t n 3) ∧
    (st s ≠ 2 → st s ≠ 3 → st s ≠ 4 → exec (.trainingTimeout n) s = .next s) ∧
    (ok → st s = 2 → ∃ t, exec (.hello n h vm vendor part rev dies dc cc) s = .next t ∧ Only [.regs, .cel, .seqs] s t ∧
      (t.port n).helloRx = (s.port n).helloRx + 1 ∧ st t = (if 16 ≤ (s.port n).helloRx + 1 ∧ 16 ≤ (s.port n).helloTx then 3 else 2) ∧
      RegsBut s t [CEL_PORT_STATUS.STATE n, CEL_LINK_ERR.FEC_CORR n]) ∧
    (ok → st s = 3 → dies ≤ 16 → dc < 256 → cc < 256 →
      (0 < vm → 4 ≤ dc → 4 ≤ cc → agreedVersion s n vm = 1 → portMode s n = 1 →
        ∃ t, exec (.hello n h vm vendor part rev dies dc cc) s = .next t ∧ Only [.regs, .cel, .seqs] s t ∧ st t = 5 ∧
          t.rd (CEL_PORT_STATUS.VER n) = 1 ∧ t.rd (CEL_BRIDGE_ID.DATA_CREDITS n) = dc ∧ t.rd (CEL_BRIDGE_ID.CMD_CREDITS n) = cc ∧
          t.rd (CEL_DIE_MAP.PRESENT n) = 2 ^ dies - 1 ∧ (t.port n).creditData = dc ∧ (t.port n).creditCmd = cc ∧ (t.port n).expected = 0 ∧
          (t.port n).txSeq = 0 ∧ (t.port n).unacked = [] ∧ (t.port n).acked = 0xFFF ∧ (t.port n).attempts = 0) ∧
      (0 < vm → 4 ≤ dc → 4 ≤ cc → agreedVersion s n vm = 2 →
        ∃ t, exec (.hello n h vm vendor part rev dies dc cc) s = .next t ∧ Only [.regs, .cel] s t ∧ st t = 3 ∧
          t.rd (CEL_PORT_STATUS.VER n) = 2 ∧ (t.port n).linkQ = (s.port n).linkQ ++ [{ typ := 6, src := .link 2 2 [] }]) ∧
      (vm = 0 ∨ dc < 4 ∨ cc < 4 → (s.port n).attempts < 2 →
        ∃ t, exec (.hello n h vm vendor part rev dies dc cc) s = .next t ∧ Only [.regs, .cel, .seqs] s t ∧ st t = 1 ∧
          (t.port n).attempts = (s.port n).attempts + 1)) ∧
    (ok → st s = 3 → ver = s.rd (CEL_PORT_STATUS.VER n) → ∃ t, exec (.switch n h ver) s = .next t ∧ Only [.regs, .cel, .seqs] s t ∧
      (t.port n).switchRx = true ∧ st t = (if (s.port n).switchTx then 4 else 3)) ∧
    (ok → st s = 4 →
      (∃ t, exec (.eqReq n h preset) s = .next t ∧ Only [.regs, .cel] s t ∧ (t.port n).txPreset = preset % 16 ∧ st t = 4) ∧
      (errs ≤ 16 → loc ≤ 16 → portMode s n = 1 → ∃ t, exec (.eqRsp n h errs loc) s = .next t ∧ Only [.regs, .cel, .seqs] s t ∧ st t = 5 ∧
        (t.port n).expected = 0 ∧ (t.port n).txSeq = 0 ∧ (t.port n).unacked = [] ∧ (t.port n).rxAny = false) ∧
      (16 < errs ∨ 16 < loc → ∃ t, exec (.eqRsp n h errs loc) s = .next t ∧ Only [.regs, .cel] s t ∧ st t = 4))

/-- Recalibration, retraining and retirement: RECAL_REQ and RECAL_DONE take a port into RECAL and back, with a replay from the last ACK_SEQ; each cause of a retrain
counts, and the third within 600 s retires the port with cause 1 in its place; a retired port stands in the retirement table; HOLD and the reference clock
outputs take what is written, a running group's clock excepted. -/
def Obligations.CellarRecalibration : Prop :=
  ∀ (s : State) (n cause i : Nat) (h : FrameHdr) (v : U64) (f : TxFrame) (hw : DescHw), s.inv = true → n < 64 →
    let st (t : State) : Nat := portState t n
    let recent : List Nat := (s.port n).retrains.filter fun x => decide (s.pwr.opSec < x + 600)
    let down (t : State) (c : Nat) : Prop := st t = 7 ∧ t.rd (CEL_PORT_STATUS.RETRAIN_CAUSE n) = c ∧ (t.port n).retrains = s.pwr.opSec :: recent ∧
      (t.port n).replay = [] ∧ (t.port n).recalDue = false ∧ (t.port n).unacked = (s.port n).unacked
    (st s = 5 → recalIsDue s n = true → ∃ t, exec (.recalibrationDue n) s = .next t ∧ Only [.regs, .cel, .seqs] s t ∧ st t = 6 ∧
      RegsBut s t [CEL_PORT_STATUS.STATE n] ∧ (t.port n).linkQ = (s.port n).linkQ ++ [{ typ := 6, src := .link 6 0 [] }] ∧ (t.port n).recalDoneTx = false) ∧
    (recalIsDue s n = false → exec (.recalibrationDue n) s = .next s) ∧
    (Arrives s n h 6 → InOrder s n h →
      (st s = 5 → ∃ t, exec (.recalReq n h) s = .next t ∧ Only [.regs, .cel, .seqs] s t ∧ st t = 6 ∧
        (t.port n).expected = ((s.port n).expected + 1) % 4096 ∧ (t.port n).linkQ = (s.port n).linkQ ++ [{ typ := 6, src := .link 7 0 [] }]) ∧
      (st s = 6 → (s.port n).recalDoneTx = true → ∃ t, exec (.recalDone n h) s = .next t ∧ Only [.regs, .cel, .seqs] s t ∧ st t = 5 ∧
        t.rd (CEL_LINK_ERR.RECAL_CNT n) = min (s.rd (CEL_LINK_ERR.RECAL_CNT n) + 1) 0xFFFF ∧ (t.port n).replay = (s.port n).unacked ∧
        (t.port n).lastRecalSec = s.pwr.opSec ∧ (t.port n).linkQ = (s.port n).linkQ) ∧
      (st s = 5 → recent.length < 2 → ∃ t, exec (.retrainReq n h cause) s = .next t ∧ Only [.regs, .cel, .seqs] s t ∧ down t 2)) ∧
    (recent.length < 2 →
      (st s = 6 → ∃ t, exec (.recalTimeout n) s = .next t ∧ Only [.regs, .cel, .seqs] s t ∧ down t 4) ∧
      (st s = 7 → ∃ t, exec (.retrainTimeout n) s = .next t ∧ Only [.regs, .cel, .seqs] s t ∧ down t (s.rd (CEL_PORT_STATUS.RETRAIN_CAUSE n))) ∧
      (st s = 5 → ∃ t, exec (.receiveLockLoss n) s = .next t ∧ Only [.regs, .cel, .seqs] s t ∧ down t 5) ∧
      (st s = 5 → ∃ t, exec (.portRetrain n) s = .next t ∧ Only [.regs, .cel, .seqs] s t ∧ down t 3 ∧
        t.rd (CEL_LINK_CNT.RETRAIN_CNT n) = min (s.rd (CEL_LINK_CNT.RETRAIN_CNT n) + 1) 0xFFFF)) ∧
    (2 ≤ recent.length → IdlePort s n → st s = 5 → ∃ t, exec (.portRetrain n) s = .next t ∧ Only [.regs, .atc, .hall, .nvm, .pan, .ldr, .cel, .seqs, .lnd, .scu, .sta, .free] s t ∧ RetiredFor t n 1) ∧
    (st s ≠ 5 → exec (.portRetrain n) s = .next s ∧ exec (.portRecal n) s = .next s ∧ exec (.receiveLockLoss n) s = .next s) ∧
    (st s = 7 → ∃ t, exec (.lockRegained n) s = .next t ∧ Only [.regs, .cel, .seqs] s t ∧ st t = 5 ∧ (t.port n).replay = (s.port n).unacked ∧
      t.rd (CEL_PORT_STATUS.VER n) = s.rd (CEL_PORT_STATUS.VER n)) ∧
    (st s = 5 → exec (.portRecal n) s = .next (s.modPort n fun p => { p with recalDue := true })) ∧
    (IdlePort s n → populated s n = true → cause < 16 → ∃ t, exec (.portRetire n cause) s = .next t ∧ Only [.regs, .atc, .hall, .nvm, .pan, .ldr, .cel, .seqs, .lnd, .scu, .sta, .free] s t ∧ RetiredFor t n cause) ∧
    (populated s n = false → exec (.portRetire n cause) s = .next s ∧ exec (.portHold n true) s = .next s) ∧
    (populated s n = true → ∃ t, exec (.portHold n true) s = .next t ∧ Only [.regs] s t ∧ t.on (CEL_PORT_CTL.HOLD n) = true ∧
      RegsBut s t [CEL_PORT_CTL.HOLD n]) ∧
    ((∀ g, g < 8 → portState s (8 * g) = 5 ∧ portMode s (8 * g) = 1) → ∃ t, exec (.refclkOutputCtl v) s = .next t ∧ Only [.regs] s t ∧
      RegsBut s t [CEL_REFCLK_CTL.EN] ∧ ∀ g, g < 8 → bitAt (t.rd CEL_REFCLK_CTL.EN) g = (v.getLsbD g || bitAt (s.rd CEL_REFCLK_CTL.EN) g)) ∧
    ((s.port n).ackTimer = true → exec (.ackTimerExpiry n) s = .next (s.modPort n fun p => { p with ackTimer := false, ackDue := true })) ∧
    (st s = 5 → (s.port n).unacked = [f] → (s.port n).replay = [] →
      ((s.port n).replayRound < 8 → exec (.replayTimerExpiry n) s =
        .next (s.modPort n fun p => { p with replayRound := p.replayRound + 1, replay := [{ f with retx := true }] })) ∧
      (8 ≤ (s.port n).replayRound → recent.length < 2 → ∃ t, exec (.replayTimerExpiry n) s = .next t ∧ Only [.regs, .cel, .seqs] s t ∧ down t 1)) ∧
    ((s.port n).unacked = [] → exec (.replayTimerExpiry n) s = .next s) ∧
    (Tbl.find (s.seq n).descs i = some hw → hw.open_ ≠ [] → hw.ended = false → st s = 5 →
      ∃ t, exec (.noStatusTimeout n i) s = .next t ∧ OnlySeq s t n ∧ Tbl.find (t.seq n).descs i = some { hw with open_ := hw.open_.drop 1 }) ∧
    (st s = 6 ∨ st s = 7 → exec (.noStatusTimeout n i) s = .next s)

/-- Frames: a lost header and a failed body are counted and the latter is NAKed; a frame ahead is NAKed once per EXPECTED, a duplicate is acknowledged at once; an
ACK that advances frees; a STATUS or data frame that names nothing is dropped or counted as a protocol error, and one that names a descriptor tells its
sequencer; an EVENT frame is recorded, and a fatal one retires the port; a temperature reaches the Chimney; and the transmitter sends by its order.
Where the spec leaves a point open, this follows the model: log entry 121. -/
def Obligations.CellarFrames : Prop :=
  ∀ (s : State) (n code sr busy sev die d0 d1 d2 : Nat) (h : FrameHdr) (half : Int) (f : TxFrame) (l : List TxFrame) (hw : DescHw) (ps : List Nat),
    s.inv = true → n < 64 → portState s n = 5 →
    let p : OtPort := s.port n
    let counted (t : State) (c : Fld) : Prop := t.rd c = min (s.rd c + 1) 0xFFFF
    (portRetired s n = false → h.arrival = .syncMiss → ∃ t, exec (.statusFrame n h code sr busy) s = .next t ∧ Only [.regs] s t ∧
      counted t (CEL_LINK_CNT.HDR_FAIL n) ∧ RegsBut s t [CEL_LINK_CNT.HDR_FAIL n]) ∧
    (portRetired s n = false → portMode s n = 1 → h.arrival = .bodyFail → h.len = 16 → h.ver = s.rd (CEL_PORT_STATUS.VER n) →
      ∃ t, exec (.statusFrame n h code sr busy) s = .next t ∧ Only [.regs, .cel] s t ∧ counted t (CEL_LINK_CNT.BODY_FAIL n) ∧
        (t.port n).expected = p.expected ∧ (p.nakFor ≠ some p.expected → (t.port n).nakDue = true ∧ (t.port n).nakFor = some p.expected)) ∧
    (Arrives s n h 4 → h.ackValid = false → p.expected < 4096 → h.seq < 4096 →
      (h.seq = (p.expected + 1) % 4096 → p.nakFor = none → ∃ t, exec (.statusFrame n h code sr busy) s = .next t ∧ Only [.regs, .cel] s t ∧
        (t.port n).nakDue = true ∧ (t.port n).nakFor = some p.expected ∧ (t.port n).expected = p.expected) ∧
      ((h.seq + 1) % 4096 = p.expected → ∃ t, exec (.statusFrame n h code sr busy) s = .next t ∧ Only [.regs, .cel] s t ∧
        (t.port n).ackDue = true ∧ (t.port n).expected = p.expected ∧ (t.port n).nakDue = p.nakDue)) ∧
    (Arrives s n h 5 → h.ackValid = true → p.acked < 4096 → p.unacked = [f] → p.replay = [] →
      (h.ackSeq = (p.acked + 1) % 4096 → f.seq = h.ackSeq → ∃ t, exec (.ackFrame n h) s = .next t ∧ Only [.regs, .cel] s t ∧
        (t.port n).unacked = [] ∧ (t.port n).acked = h.ackSeq ∧ (t.port n).replayRound = 0 ∧ (t.port n).expected = p.expected) ∧
      (h.ackSeq = p.acked → h.nak = true → p.replayRound < 8 → ∃ t, exec (.ackFrame n h) s = .next t ∧ Only [.regs, .cel] s t ∧
        (t.port n).unacked = [f] ∧ (t.port n).replay = [{ f with retx := true }] ∧ (t.port n).replayRound = p.replayRound + 1)) ∧
    (Arrives s n h 4 → InOrder s n h →
      (code = 0 ∨ 8 < code → ∃ t, exec (.statusFrame n h code sr busy) s = .next t ∧ Only [.regs, .cel] s t ∧ counted t (CEL_LINK_ERR.PROTO_ERR n)) ∧
      (Tbl.find (s.seq n).descs h.tag = some hw → hw.ended = false → Tbl.has p.lingering h.tag = false →
        (code = 6 → (s.seq n).wait = none → (s.seq n).held = [] → (s.seq n).evq.length < 64 →
          ∃ t, exec (.statusFrame n h code sr busy) s = .next t ∧ Only [.regs, .cel, .seqs] s t ∧ (t.seq n).evq = (s.seq n).evq ++ [evWord 0x02 6 h.tag sr busy] ∧
            (t.port n).expected = (p.expected + 1) % 4096) ∧
        (code = 4 → h.tag < 32 → ∃ t, exec (.statusFrame n h code sr busy) s = .next t ∧ Only [.regs, .cel, .seqs] s t ∧
          Tbl.find (t.port n).suspended hw.op.die = some h.tag ∧ Tbl.find (t.port n).running hw.op.die = none ∧ descByte t n h.tag 0 1 = 3))) ∧
    (Arrives s n h 3 → InOrder s n h → p.ctl = [] →
      (Tbl.find (s.seq n).descs h.tag = none → ∃ t, exec (.rdataFrame n h ps) s = .next t ∧ Only [.regs, .cel] s t ∧ counted t (CEL_LINK_ERR.PROTO_ERR n)) ∧
      (Tbl.find (s.seq n).descs h.tag = some hw → hw.op.cwCount ≤ h.cwIndex →
        ∃ t, exec (.rdataFrame n h ps) s = .next t ∧ Only [.regs, .cel] s t ∧ counted t (CEL_LINK_ERR.PROTO_ERR n))) ∧
    (Arrives s n h 7 → InOrder s n h →
      (sev = 0 ∨ 3 < sev → ∃ t, exec (.eventFrame n h sev die code d0 d1 d2) s = .next t ∧ Only [.regs, .cel] s t ∧ counted t (CEL_LINK_ERR.PROTO_ERR n)) ∧
      (sev = 2 → s.atc.postedThisSec < 4096 → ∃ t r, exec (.eventFrame n h sev die code d0 d1 d2) s = .next t ∧ Only [.regs, .atc, .cel] s t ∧
        t.atc.waiting = s.atc.waiting ++ [r] ∧ r.code = 0x61 ∧ r.sev = 3 ∧ r.origin = n ∧ (t.port n).retired = p.retired) ∧
      (sev = 3 → IdlePort s n → ∃ t, exec (.eventFrame n h sev die code d0 d1 d2) s = .next t ∧ Only [.regs, .atc, .hall, .nvm, .pan, .ldr, .cel, .seqs, .lnd, .scu, .sta, .free] s t ∧ RetiredFor t n 2)) ∧
    (Arrives s n h 6 → InOrder s n h →
      (die < 16 → ∃ t, exec (.tempRsp n h die half true) s = .next t ∧ Only [.regs, .chm, .atc, .hall, .nvm, .pan, .ldr, .cel, .seqs, .lnd, .scu, .sta, .free] s t ∧
        (s.ldr.hot = [] → s.scu.geo.tMin ≤ half → half ≤ s.scu.geo.tMax → Tbl.find t.chm.dies (16 * n + die) = some { reading := 2 * half, valid := true, fresh := true, ageMs := 0 } ∧
          Tbl.find (t.port n).lastTemp die = some half)) ∧
      (16 ≤ die → ∃ t, exec (.tempRsp n h die half true) s = .next t ∧ Only [.regs, .cel] s t)) ∧
    (p.replay = f :: l → f.desc = none → ∃ t, exec (.transmitFrameBoundary n) s = .next t ∧ Only [.regs, .cel, .out] s t ∧ (t.port n).replay = l ∧
      t.out = s.out ++ [.otconFrame n { f with retx := true } p.rxAny p.nakDue ((p.expected + 4095) % 4096)] ∧ counted t (CEL_LINK_CNT.RETX_CNT n) ∧
      (t.port n).unacked = p.unacked ∧ (t.port n).ackDue = false) ∧
    (p.replay = [] → p.ackDue = true → p.linkQ = [] → ∃ t, exec (.transmitFrameBoundary n) s = .next t ∧ Only [.cel, .out] s t ∧
      t.out = s.out ++ [.otconFrame n { typ := 5, src := .ack } p.rxAny p.nakDue ((p.expected + 4095) % 4096)] ∧ (t.port n).ackDue = false ∧
      (t.port n).unacked = p.unacked ∧ (t.port n).txSeq = p.txSeq) ∧
    (p.replay = [] → p.ackDue = false → p.linkQ = [] → p.cmdHost = f :: l → f.desc = none → f.typ = 1 → s.on (CEL_PORT_CTL.HOLD n) = false →
      p.unacked.length < 64 → 0 < p.creditCmd → ∃ t, exec (.transmitFrameBoundary n) s = .next t ∧ Only [.cel, .out] s t ∧ (t.port n).cmdHost = l ∧
        (t.port n).unacked = p.unacked ++ [{ f with seq := p.txSeq }] ∧ (t.port n).txSeq = (p.txSeq + 1) % 4096 ∧ (t.port n).creditCmd = p.creditCmd - 1 ∧
        (t.port n).wdHost = p.wdHost)

/-- The die scheduler: the oldest operation whose die queue has room enters it, an absent die fails it at once; a descriptor is handed over only from ACTIVE, without
HOLD, to a die that is free; and a temperature poll asks each present die.
Where the spec leaves a point open, this follows the model: log entry 110. -/
def Obligations.CellarScheduling : Prop :=
  ∀ (s : State) (n die slot i : Nat) (op : DieOp) (rest : List DieOp), s.inv = true → n < 64 →
    let q : List DieOp := Tbl.getD (s.port n).dieQ die []
    let free : Option Nat := (List.range 32).find? fun i => descByte s n i 0 1 = 0 && !Tbl.has (s.port n).lingering i
    ((s.port n).offers = op :: rest → (Tbl.getD (s.port n).dieQ op.die []).length < 8 → diePresent s n op.die = true →
      (op.cls = 2 ∨ Tbl.find (s.port n).running op.die = none) →
      ∃ t, exec (.dieSchedulerEnqueue n) s = .next t ∧ Only [.cel] s t ∧ (t.port n).offers = rest ∧
        Tbl.getD (t.port n).dieQ op.die [] = Tbl.getD (s.port n).dieQ op.die [] ++ [op] ∧
        ∀ d, d ≠ op.die → Tbl.getD (t.port n).dieQ d [] = Tbl.getD (s.port n).dieQ d []) ∧
    ((s.port n).offers = [op] → (Tbl.getD (s.port n).dieQ op.die []).length < 8 → diePresent s n op.die = false →
      exec (.dieSchedulerEnqueue n) s = .next (opOutcome (s.modPort n fun p => { p with offers := [] }) n op .fail)) ∧
    ((∀ o ∈ (s.port n).offers, 8 ≤ (Tbl.getD (s.port n).dieQ o.die []).length) → exec (.dieSchedulerEnqueue n) s = .next s) ∧
    (portState s n ≠ 5 → exec (.descriptorHandover n die) s = .next s) ∧
    (s.on (CEL_PORT_CTL.HOLD n) = true → exec (.descriptorHandover n die) s = .next s) ∧
    ((Tbl.find (s.port n).running die).isSome = true → exec (.descriptorHandover n die) s = .next s) ∧
    (portState s n = 5 → s.on (CEL_PORT_CTL.HOLD n) = false → (s.port n).running = [] → (s.port n).lingering = [] → (s.port n).suspended = [] →
      q = op :: rest → pickOp s n q = some 0 → free = some slot → op.die = die → op.kind ≠ 1 →
      (findRecipe (s.seq n) op.kind op.cell = some i → ∃ t, exec (.descriptorHandover n die) s = .next t ∧ Only [.cel, .seqs] s t ∧
        Tbl.find (t.port n).running die = some slot ∧ Tbl.getD (t.port n).dieQ die [] = rest ∧ (Tbl.find (t.seq n).descs slot).map (fun d => d.op) = some op) ∧
      (findRecipe (s.seq n) op.kind op.cell = none → exec (.descriptorHandover n die) s =
        .next (opOutcome (raise (s.modPort n fun p => { p with dieQ := putOrDel p.dieQ die rest }) n (evWord 0x08 3 slot)) n op .fail))) ∧
    (portState s n = 5 → portMode s n = 1 → s.rd (CEL_DIE_MAP.PRESENT n) = 1 → s.rd (CEL_DIE_MAP.EXCLUDED n) = 0 →
      ∃ t, exec .tempPoll s = .next t ∧ Only [.cel] s t ∧ (t.port n).tempQ = (s.port n).tempQ ++ [{ typ := 6, src := .link 8 0 [], host := false }]) ∧
    (portState s n ≠ 5 → ∃ t, exec .tempPoll s = .next t ∧ Only [.cel] s t ∧ (t.port n).tempQ = (s.port n).tempQ)

/-! ## The Stair (chapter 16) -/

/-- The worker's side: a join gives it the manager's record and is answered; a request on a joined link begins its command under the manager's ingest number, and
one resent is answered from the done table; a barrier acts when its last copy has come; data waits for its slots; STIME trims the time base; activation drains.
Where the spec leaves a point open, this follows the model: log entries 113, 114, 115 and 116. -/
def Obligations.StairWorker : Prop :=
  ∀ (s : State) (n m k x1 : Nat) (h : FrameHdr) (r : JoinRec) (q : SReq) (d : Blk) (md : Meta) (a : SDone) (tm : STime) (l rest : List Nat), s.inv = true →
    isWorker s = true →
    let key : Nat := stairKey q
    let slot : Nat := n * 128 + h.tag
    let open_ : Prop := StairFrame s n h 0x12 ∧ s.on STA_CTL.ENABLE = true ∧ s.sta.mgrLost = false ∧ n ∈ s.sta.joined ∧ h.tag < 128 ∧
      s.ctx key = none ∧ Tbl.has s.hall.tails key = false
    let begun (i : Instr) (cmd : HostCmd) (st : CtxSt) : Prop := ∃ t c, exec i s = .next t ∧ Only [.regs, .hall, .cel, .sta] s t ∧ t.ctx key = some c ∧
      c.cmd = cmd ∧ c.st = st ∧ c.stair = some (n, h.tag, q) ∧ c.reads = readSpans s cmd ∧ c.writes = writeSpans s cmd ∧
      (∀ j, j ≠ key → t.ctx j = s.ctx j) ∧ t.hall.sqs = s.hall.sqs ∧ Tbl.find t.sta.tags slot = some key
    (StairFrame s n h 0x10 → s.on STA_CTL.JOIN_EN = true → s.hall.activating = none → s.sta.joined = [] → s.nvm.spaces = [] → populated s n = true →
      ∃ t ans, exec (.sjoin n h r) s = .next t ∧ Only [.regs, .cel, .sta] s t ∧ t.sta.selfId = r.worker ∧ t.sta.ver = min r.ver 0x20 ∧
        t.sta.mgrId = r.manager ∧ t.sta.epoch = r.epoch ∧ t.sta.share = r.share ∧ t.sta.weight = r.weight ∧ t.sta.seqLen = r.seqLen ∧ t.sta.joined = [n] ∧
        t.sta.mgrLost = false ∧ ans.worker = r.worker ∧ ans.ver = min r.ver 0x20 ∧ ans.manager = r.manager ∧
        (t.port n).cmdHost = (s.port n).cmdHost ++ [{ typ := 0x11, last := true, src := .stair 0x11 (.join ans) }]) ∧
    (StairFrame s n h 0x10 → s.on STA_CTL.JOIN_EN = false → ∃ t, exec (.sjoin n h r) s = .next t ∧ Only [.regs, .cel] s t) ∧
    (open_ → q.resend = false →
      (q.kind = 1 → begun (.sreqRead n h q) (.read q.nsid q.slba q.nlb noPr) .running) ∧
      (q.kind = 2 → begun (.sreqWrite n h q) (.write q.nsid q.slba q.nlb q.fua q.dspec noPr) .reserving) ∧
      (q.kind = 3 → begun (.sreqDeallocate n h q) (.dsm q.nsid true [(q.slba, q.nlb)]) .running) ∧
      (q.kind = 4 → begun (.sreqWriteZeroes n h q) (.writeZeroes q.nsid q.slba q.nlb q.deac q.fua) .reserving) ∧
      (q.kind = 5 → begun (.sreqWriteUncorrectable n h q) (.writeUncorr q.nsid q.slba q.nlb) .reserving) ∧
      (q.kind = 8 → begun (.sreqVerify n h q) (.verify q.nsid q.slba q.nlb noPr) .running) ∧
      (q.kind = 6 → s.sta.joined = [n, m] → n ≠ m → stairUp s m = true → Tbl.find s.sta.arrived key = none →
        ∃ t, exec (.sreqFlush n h q) s = .next t ∧ Only [.regs, .cel, .sta] s t ∧ Tbl.find t.sta.arrived key = some [n]) ∧
      (q.kind = 6 → s.sta.joined = [n, m] → stairUp s m = true → Tbl.find s.sta.arrived key = some [m] → Quiet s →
        (stairPorts s).filter (stairUp s) = k :: rest →
        ∃ t, exec (.sreqFlush n h q) s = .next t ∧ Only [.regs, .atc, .hall, .nvm, .pan, .ldr, .cel, .seqs, .lnd, .scu, .sta, .free] s t ∧ t.ctx key = none ∧ Tbl.find t.sta.arrived key = none ∧
          (t.port k).cmdHost = (s.port k).cmdHost ++
            [{ typ := 0x14, tag := h.tag, last := true, src := .stair 0x14 (.done { phase := 1, units := q.units, ingest := q.ingest, sub := q.sub }) }]) ∧
      (q.kind = 7 → s.sta.joined = [n] → Quiet s → journalOn s = true →
        (q.op = 1 → ∃ t, exec (.sreqNamespaceOperation n h q) s = .next t ∧ Only [.regs, .atc, .stg, .hall, .nvm, .pan, .ldr, .cel, .seqs, .lnd, .scu, .sta, .free] s t ∧
          Tbl.find t.nvm.spaces q.nsid = some { fmt := q.fmt, extents := q.size, gen := q.gen } ∧ Tbl.find t.stg.gens q.nsid = some q.gen) ∧
        (q.op = 2 → ∃ t, exec (.sreqNamespaceOperation n h q) s = .next t ∧ Only [.regs, .atc, .stg, .hall, .nvm, .pan, .ldr, .cel, .seqs, .lnd, .scu, .sta, .free] s t ∧
          Tbl.find t.nvm.spaces q.nsid = none ∧ Tbl.find t.stg.gens q.nsid = none))) ∧
    (open_ → q.resend = true → q.kind = 2 → populated s n = true → s.sta.done = [(key, a, x1)] →
      ∃ t, exec (.sreqWrite n h q) s = .next t ∧ Only [.regs, .cel, .sta] s t ∧ slot ∈ t.sta.discard ∧
        (t.port n).cmdHost = (s.port n).cmdHost ++ [{ typ := 0x14, tag := h.tag, last := true, src := .stair 0x14 (.done a) }]) ∧
    (StairFrame s n h 0x12 → s.sta.mgrLost = true → ∃ t, exec (.sreqRead n h q) s = .next t ∧ Only [.regs, .cel] s t) ∧
    (StairFrame s n h 0x13 → Tbl.find s.sta.tags slot = some k → slot ∉ s.sta.discard → (s.ctx k).map (fun c => c.st) = some .reserving →
      ∃ t, exec (.sdata n h d md) s = .next t ∧ Only [.regs, .cel, .sta] s t ∧ Tbl.find t.sta.stash (k * 256 + h.cwIndex) = some (d, md) ∧
        t.sta.tags = s.sta.tags) ∧
    (StairFrame s n h 0x13 → Tbl.find s.sta.tags slot = none → ∃ t, exec (.sdata n h d md) s = .next t ∧ Only [.regs, .cel] s t) ∧
    (StairFrame s n h 0x15 → populated s n = true →
      ∃ t ans, exec (.stime n h tm) s = .next t ∧ Only [.regs, .pwr, .cel, .sta] s t ∧ t.sta.mgrPwr = tm.pwr ∧ ans.time = s.pwr.time.toNat ∧
        ans.opTime = s.pwr.opSec ∧ (t.port n).cmdHost = (s.port n).cmdHost ++ [{ typ := 0x15, last := true, src := .stair 0x15 (.time ans) }] ∧
        (s.pwr.time.toNat + msTicks < tm.time + tm.delay → tm.time + tm.delay < 2 ^ 64 → t.pwr.time = BitVec.ofNat 64 (tm.time + tm.delay)) ∧
        (tm.time + tm.delay ≤ s.pwr.time.toNat + msTicks → t.pwr = s.pwr ∧ t.sta.slew = (tm.time + tm.delay : Nat) - (s.pwr.time.toNat : Int))) ∧
    (s.pwr.st = .ps0 → s.sta.joined = [n] → exec (.stimeLossExpiry 0) s = .next (s.modSta fun x => { x with mgrLost := true, joined := [] })) ∧
    (s.pwr.st = .ps4 → exec (.stimeLossExpiry 0) s = .next s) ∧
    (StairFrame s n h 0x17 →
      (s.hall.activating = none → ∃ t, exec (.sact n h .activate) s = .next t ∧ Only [.regs, .hall, .cel] s t ∧ t.hall.activating = some 0 ∧
        t.on HAL_CTL.DRAIN_REQ = true) ∧
      (s.pwr.pwrfail = true → ∃ t, exec (.sact n h (.leaves k l)) s = .next t ∧ Only [.regs, .cel, .sta] s t ∧ t.sta.image = l ∧ t.sta.imageVer = k)) ∧
    exec .doneTableExpiry s = .next (s.modSta fun x => { x with done := x.done.filter fun e => decide (s.pwr.opSec < e.2.2 + 10) })

/-- The manager's side: a join compared, and a worker whose record differs fenced by its reason; answers settle or fail the units asked; time, loss and events of a
worker; the expiries of its deadlines; coordinated activation; and the commands of Stair Control.
Where the spec leaves a point open, this follows the model: log entries 24, 112, 114, 115, 116 and 117. -/
def Obligations.StairManager : Prop :=
  ∀ (s : State) (n w ns slba cause cn : Nat) (h : FrameHdr) (r : JoinRec) (q q2 : StairReq) (d : SDone) (tm : STime) (rest : List Nat) (u u2 : Unsettled)
    (act : StairAct) (c : Ctx), s.inv = true → isManager s = true →
    let now (t : State) : WorkerSt := t.worker w
    let from_ : Prop := n < 64 ∧ workerAt s n = w ∧ configured s w = true
    let none_ : Prop := s.sta.reqs = [] ∧ s.sta.act = none
    (from_ → StairFrame s n h 0x11 →
      (r.ver < 0x10 → ∃ t, exec (.sjoinRsp n h r) s = .next t ∧ Only [.regs, .cel] s t) ∧
      (0x10 ≤ r.ver → none_ → (now s).st = 0 → ∃ t, exec (.sjoinRsp n h r) s = .next t ∧ Only [.regs, .atc, .hall, .nvm, .pan, .ldr, .cel, .seqs, .lnd, .scu, .sta, .free] s t ∧ (now t).ver = r.ver ∧
        (now t).image = r.image ∧ (now t).rec_ = r ∧ n ∈ (now t).joined ∧ ((now t).st = 2 ∨ (now t).st = 3 ∧ (now t).fence ≠ 0) ∧
        (r.cell ≠ frontCell s 1 → (now t).st = 3 ∧ (now t).fence = 1)) ∧
      (0x10 ≤ r.ver → none_ → (now s).st = 3 → ∃ t, exec (.sjoinRsp n h r) s = .next t ∧ Only [.regs, .atc, .hall, .nvm, .pan, .ldr, .cel, .seqs, .lnd, .scu, .sta, .free] s t ∧ (now t).st = 3 ∧
        (now t).fence = (now s).fence)) ∧
    (configured s w = true → (now s).st = 4 → (stairPorts s).filter (fun n => workerAt s n == w && stairUp s n) = [n] → s.on STA_CTL.JOIN_EN = true →
      ∃ t, exec (.sjoinRetryExpiry w) s = .next t ∧ Only [.cel] s t ∧
        (t.port n).cmdHost = (s.port n).cmdHost ++ [{ typ := 0x10, last := true, src := .stair 0x10 (.join (managerJoin s n)) }]) ∧
    ((now s).st = 2 → exec (.sjoinRetryExpiry w) s = .next s) ∧
    (from_ → StairFrame s n h 0x14 → d.phase = 1 → d.ingest = q.req.ingest → d.sub = q.req.sub → q.w = w → q.sent = [(n, h.tag)] →
      (s.sta.reqs = [q] → q.req.kind = 1 → d.sct = 0 → d.sc = 0 → ∃ t, exec (.sdoneCommitted n h d) s = .next t ∧ Only [.regs, .atc, .hall, .nvm, .pan, .ldr, .cel, .seqs, .lnd, .scu, .sta, .free] s t ∧
        t.sta.reqs = [] ∧ t.hall.ctxs = s.hall.ctxs) ∧
      (s.sta.reqs = [q, q2] → q2.w = w → q2.req.ingest = q.req.ingest → q2.req.sub ≠ q.req.sub → q2.ext = q.ext → q2.sent = [(n, h.tag + 1)] → q.req.kind = 2 →
        q.units = rest → rest ≠ [] → d.sct = 0 → d.sc = 0 → ∃ t, exec (.sdoneCommitted n h d) s = .next t ∧ Only [.regs, .atc, .hall, .nvm, .pan, .ldr, .cel, .seqs, .lnd, .scu, .sta, .free] s t ∧
          t.sta.reqs = [q2] ∧ t.hall.ctxs = s.hall.ctxs ∧ t.sta.unsettled = s.sta.unsettled ++
            [{ w := w, ingest := d.ingest, sub := d.sub, nsid := q.req.nsid, first := (rest.head?).getD 0, count := rest.length }])) ∧
    (from_ → StairFrame s n h 0x14 → s.sta.reqs = [] → d.phase = 1 →
      ∃ t, exec (.sdoneCommitted n h d) s = .next t ∧ Only [.regs, .cel, .sta, .free] s t ∧ t.sta.unsettled = s.sta.unsettled) ∧
    (from_ → StairFrame s n h 0x14 → d.phase = 2 → s.sta.unsettled = [u, u2] → u.w = w → u.ingest = d.ingest → u.sub = d.sub → u2.w = w → u2.ingest = d.ingest →
      u2.sub ≠ d.sub → ∃ t, exec (.sdoneSettled n h d) s = .next t ∧ Only [.regs, .cel, .sta, .free] s t ∧ t.sta.unsettled = [u2]) ∧
    (configuredWorkers s = [w] → linksOf s w = n :: rest → ∃ t m, exec .stimeSend s = .next t ∧ Only [.cel] s t ∧ m.time = s.pwr.time.toNat ∧
      m.opTime = s.pwr.opSec ∧ (t.port n).cmdHost = (s.port n).cmdHost ++ [{ typ := 0x15, last := true, src := .stair 0x15 (.time m) }]) ∧
    (from_ → StairFrame s n h 0x15 → ∃ t, exec (.stime n h tm) s = .next t ∧ Only [.regs, .cel, .sta, .free] s t ∧ (now t).idle = tm.idle ∧
      (now t).st = (now s).st ∧ Tbl.has t.sta.delay n = true ∧ ∃ ms, ms < 1000 ∧ (now t).lastSeen = s.pwr.opSec * 1000 + ms) ∧
    (from_ → StairFrame s n h 0x16 →
      (perUnit s ns = 1 → ∃ t, exec (.sevent n h (.lost ns slba 1 cause)) s = .next t ∧ Only [.regs, .atc, .hall, .nvm, .pan, .ldr, .cel, .seqs, .lnd, .scu, .sta, .free] s t ∧
        (ns, globalExt s w (slba / 256) * 256 + slba % 256, 1) ∈ t.nvm.lost ∧ t.hall.deferWait = s.hall.deferWait ++
          [{ nsid := ns, first := globalExt s w (slba / 256) * 256 + slba % 256, count := 1, cause := cause, worker := w }]) ∧
      ((now s).st = 3 → none_ → ∃ t, exec (.sevent n h (.changed r)) s = .next t ∧ Only [.regs, .cel, .sta, .free] s t ∧ (now t).rec_ = r ∧
        (now t).image = r.image ∧ (now t).st = 3) ∧
      ((now s).st = 2 → none_ → r.cell ≠ frontCell s 1 → ∃ t, exec (.sevent n h (.changed r)) s = .next t ∧ Only [.regs, .atc, .hall, .nvm, .pan, .ldr, .cel, .seqs, .lnd, .scu, .sta, .free] s t ∧ (now t).st = 3 ∧
        (now t).fence = 1)) ∧
    (from_ → StairFrame s n h 0x17 → s.sta.act = some act → act.step = 1 → configuredWorkers s = [w] →
      (∃ t, exec (.sact n h (.written true)) s = .next t ∧ Only [.regs, .atc, .clo, .hall, .nvm, .pan, .ldr, .cel, .seqs, .lnd, .scu, .sta, .free] s t ∧ t.sta.act = some { act with step := 3, written := if act.written.contains w then act.written else w :: act.written, at_ := s.pwr.opSec } ∧
        (now t).st = 1) ∧
      (s.ctx act.ingest = some c → c.st = .running → c.stair = none →
        ∃ t, exec (.sact n h (.written false)) s = .next t ∧ Only [.regs, .atc, .clo, .hall, .nvm, .pan, .ldr, .cel, .seqs, .lnd, .scu, .sta, .free] s t ∧ t.sta.act = none ∧ Ended t act.ingest c 7 0xC3 0)) ∧
    (s.sta.act = some act → act.step = 3 → act.at_ + 60 ≤ s.pwr.opSec → configuredWorkers s = [w] → (now s).st = 1 → s.ctx act.ingest = some c → c.st = .running →
      c.stair = none → ∃ t, exec .activationRollbackExpiry s = .next t ∧ Only [.hall, .nvm, .sta] s t ∧ t.sta.act = none ∧ Ended t act.ingest c 7 0xC3 0) ∧
    (s.sta.act = none → exec .activationRollbackExpiry s = .next s) ∧
    (Quiet s → s.sta.unsettled = [] →
      (s.pwr.st = .ps0 → (now s).st = 2 → ∃ t, exec (.stimeLossExpiry w) s = .next t ∧ Only [.regs, .atc, .hall, .nvm, .pan, .ldr, .cel, .sta] s t ∧ (now t).st = 4 ∧
        (now t).joined = [] ∧ (now t).links = []) ∧
      (∃ t, exec (.stairResendDeadline w) s = .next t ∧ Only [.ldr] s t)) ∧
    (s.hall.ctxs = [] → s.hall.tails = [] → s.pan.deps = [] → s.ldr.fronts = [] → (∀ e ∈ s.nvm.spaces, e.2.formatting = none) →
      (s.sta.reqs = [q] → q.w = w → q.lost = true → q.lostAt + 5 ≤ s.pwr.opSec → q.req.kind = 2 → q.units = rest → rest ≠ [] →
        ∃ t, exec (.stairResendDeadline w) s = .next t ∧ Only [.regs, .atc, .hall, .nvm, .pan, .ldr, .cel, .sta] s t ∧ t.sta.reqs = [] ∧ t.hall.deferWait = s.hall.deferWait ++
          [{ nsid := q.req.nsid, first := (rest.head?).getD 0, count := rest.length, cause := 5, worker := w }]) ∧
      ((now s).st = 3 → (now s).fencedAt + 10 ≤ s.pwr.opSec → s.sta.unsettled = [u] → u.w = w →
        ∃ t, exec (.fenceUnsettledExpiry w) s = .next t ∧ Only [.regs, .atc, .hall, .nvm, .pan, .ldr, .cel, .sta] s t ∧ t.sta.unsettled = [] ∧ t.hall.deferWait = s.hall.deferWait ++
          [{ nsid := u.nsid, first := u.first, count := u.count, cause := 5, worker := w }])) ∧
    ((now s).st ≠ 3 → exec (.fenceUnsettledExpiry w) s = .next s) ∧
    (Fresh s cn c → supTurns s = true → adminGo s cn = true →
      (c.cmd = .stairControl 1 w → configured s w = true → (now s).st = 2 → none_ → ∃ t, exec (.stairControlFence cn) s = .next t ∧
        Only [.regs, .atc, .hall, .nvm, .pan, .ldr, .cel, .sta] s t ∧ (now t).st = 3 ∧ (now t).fence = 7 ∧ (now t).fencedAt = s.pwr.opSec ∧ Ended t cn c 0 0 0) ∧
      (c.cmd = .stairControl 1 w → configured s w = false → ∃ t, exec (.stairControlFence cn) s = .next t ∧ Only [.hall, .nvm] s t ∧ Ended t cn c 0 2 0) ∧
      (c.cmd = .stairControl 2 w → configured s w = true →
        ((now s).st = 2 → ∃ t, exec (.stairControlReadmit cn) s = .next t ∧ Only [.hall, .nvm] s t ∧ Ended t cn c 0 0 0) ∧
        ((now s).st = 4 → ∃ t, exec (.stairControlReadmit cn) s = .next t ∧ Only [.hall, .nvm] s t ∧ Ended t cn c 7 0xC3 0) ∧
        ((now s).st = 3 → (now s).joined ≠ [] → none_ → (now s).rec_.cell ≠ frontCell s 1 → (now s).fence = 7 →
          ∃ t, exec (.stairControlReadmit cn) s = .next t ∧ Only [.regs, .atc, .hall, .nvm, .pan, .ldr, .cel, .sta, .free] s t ∧ (now t).st = 3 ∧ (now t).fence = 1 ∧ Ended t cn c 7 0xC3 0)) ∧
      (c.cmd = .stairControl 3 w → configured s w = true →
        (s.sta.act = some act → ∃ t, exec (.stairControlActivate cn) s = .next t ∧ Only [.hall, .nvm] s t ∧ Ended t cn c 0 0x0C 0) ∧
        (s.sta.act = none → configuredWorkers s = [w] → (now s).st = 2 → (now s).ver = 0x20 → ∃ t, exec (.stairControlActivate cn) s = .next t ∧
          Only [.hall, .cel, .sta] s t ∧ t.sta.act = some { ingest := cn } ∧ t.ctx cn = some { c with st := .running })))

/-! ## The casement code (chapter 11, R406 and R407) -/

/-- A casement word: bits 255:0 are the data, 271:256 the transoms, 287:272 the mullions, 288 the sill; transom r is the parity of the 16 data bits k of row k >> 4 = r,
mullion c of those of column k & 0xF = c, and the sill of all 256 (R406). -/
def Obligations.CasementWord : Prop :=
  ∀ (d : BitVec 256) (w : Casement) (k r c : Nat), k < 256 → r < 16 → c < 16 →
    let parity (l : List Nat) : Bool := (l.countP fun k => d.getLsbD k) % 2 = 1
    (casEncode d).d = d ∧
    (casEncode d).t.getLsbD r = parity ((List.range 256).filter fun k => k >>> 4 = r) ∧
    (casEncode d).m.getLsbD c = parity ((List.range 256).filter fun k => k &&& 0xF = c) ∧
    (casEncode d).sill = parity (List.range 256) ∧
    flipCas w k = { w with d := w.d ^^^ BitVec.twoPow 256 k } ∧
    flipCas w (256 + r) = { w with t := w.t ^^^ BitVec.twoPow 16 r } ∧
    flipCas w (272 + c) = { w with m := w.m ^^^ BitVec.twoPow 16 c } ∧
    flipCas w 288 = { w with sill := !w.sill }

/-- The checker: the three syndromes are the stored parities with those of the data read; it acts by the number of ones in each as Table 11-2 says: it delivers, inverts
and writes back, writes back, or delivers poisoned. Every single-bit error yields a correctable row, and every double-bit error a combination outside them (R407). -/
def Obligations.CasementChecker : Prop :=
  ∀ (s : State) (arr word : Nat) (scrub : Bool) (w : Casement) (d : BitVec 256) (r c i j : Nat), r < 16 → c < 16 → i < 289 → j < 289 →
    let one (b : Nat) : BitVec 16 := BitVec.twoPow 16 b
    let x : Option (BitVec 256) := (checkCas s arr word scrub w).2.1
    let back : Option Casement := (checkCas s arr word scrub w).2.2
    synT w = w.t ^^^ (casEncode w.d).t ∧ synM w = w.m ^^^ (casEncode w.d).m ∧ synS w = xor w.sill (casEncode w.d).sill ∧
    (synT w = 0 → synM w = 0 → synS w = false → x = some w.d ∧ back = none) ∧
    (synT w = one r → synM w = one c → synS w = true →
      x = some (w.d ^^^ BitVec.twoPow 256 (16 * r + c)) ∧ back = some (casEncode (w.d ^^^ BitVec.twoPow 256 (16 * r + c)))) ∧
    (synT w = one r → synM w = 0 → synS w = false → x = some w.d ∧ back = some (casEncode w.d)) ∧
    (synT w = 0 → synM w = one c → synS w = false → x = some w.d ∧ back = some (casEncode w.d)) ∧
    (synT w = 0 → synM w = 0 → synS w = true → x = some w.d ∧ back = some (casEncode w.d)) ∧
    (w = casPoison → x = none ∧ back = none) ∧
    (casDecode w = .bad → x = none) ∧
    casDecode (casEncode d) = .clean ∧
    casDecode (flipCas (casEncode d) i) = (if i < 256 then .data i else .check) ∧
    casCorrect (flipCas (casEncode d) i) = d ∧
    (i ≠ j → casDecode (flipCas (flipCas (casEncode d) i) j) = .bad)

/-! ## The block as a whole -/

/-- A step runs the command at the front of the queue over the rest of it. With an empty queue it is one tick, which is this model's choice (log entry 1). -/
def Obligations.StepRunsCommand : Prop :=
  ∀ (s : State) (c : Instr) (rest : List Instr),
    (s.pending = c :: rest → step s = exec c { s with pending := rest }) ∧
    (s.pending = [] → step s = .next (idle s))

/-- Reset leaves the block held in power-on reset with an empty queue and within its invariant; every table of registers and every memory lists nothing, so that each
register field reads as its register's reset value gives it; no port is trained and no sequencer executes.
Where the spec leaves a point open, this follows the model: log entry 7. -/
def Obligations.ResetState : Prop :=
  State.reset.inv = true ∧ State.reset.pending = [] ∧ State.reset.pwr.por = true ∧ State.reset.regs = [] ∧ State.reset.seqs = [] ∧ State.reset.out = [] ∧
  State.reset.hall.ctxs = [] ∧ State.reset.hall.sqs = [] ∧ State.reset.hall.cqs = [] ∧ State.reset.ldr.slots = [] ∧ State.reset.bsm.dram = [] ∧
  State.reset.rd BSM_SCRUB_CFG.LAP_S = 3600 ∧ (∀ f : Fld, f.lsb + f.width ≤ 64 → State.reset.rd f = f.rst / 2 ^ f.lsb % 2 ^ f.width) ∧ (∀ n, n < 64 → portState State.reset n = 0) ∧ ∀ n, (State.reset.seq n).state = 0

/-- Every step from a state within the invariant gives a state within it: the register table and the table of sequencers stay canonical, no return stack passes eight
entries, no event queue 64, each local memory and the NOR die keep their canonical form, and the Attic's ring never passes 8,192 records.
Where the spec leaves a point open, this follows the model: log entry 2. -/
def Obligations.InvariantKept : Prop :=
  ∀ s t : State, s.inv = true → step s = .next t → t.inv = true

/-- The frame of every command: it answers a next state in every state, and what differs lies in the parts listed for it; the queue is unchanged.
Where the spec leaves a point open, this follows the model: log entries 2 and 9. -/
def Obligations.CommandFrames : Prop :=
  ∀ (c : Instr) (s : State), ∃ t, exec c s = .next t ∧ Only (touches c) s t
end

