-- ==== Sys2Proof/Laws/Tbl.lean ====
section
/-!
SUPPORT. Sparse tables: what a read finds after a write, and that every operation keeps the canonical form.
-/
namespace Sys2Proof

variable {α : Type}

@[simp] theorem Tbl.find_nil (i : Nat) : Tbl.find ([] : Tbl α) i = none := rfl

theorem Tbl.find_put_same (t : Tbl α) (i : Nat) (v : α) : Tbl.find (Tbl.put t i v) i = some v := by
  induction t with
  | nil => simp [Tbl.put, Tbl.find]
  | cons e r ih =>
    obtain ⟨j, w⟩ := e
    simp only [Tbl.put]
    split
    · simp [Tbl.find]
    · split
      · simp [Tbl.find]
      · rename_i h1 h2
        simp [Tbl.find, h2, ih]

theorem Tbl.find_put_other (t : Tbl α) {i k : Nat} (v : α) (h : k ≠ i) : Tbl.find (Tbl.put t i v) k = Tbl.find t k := by
  induction t with
  | nil => simp [Tbl.put, Tbl.find, h]
  | cons e r ih =>
    obtain ⟨j, w⟩ := e
    simp only [Tbl.put]
    split
    · simp [Tbl.find, h]
    · split
      · rename_i h1 h2
        subst h2
        simp [Tbl.find, h]
      · simp only [Tbl.find]
        split
        · rfl
        · exact ih

theorem Tbl.find_del_other (t : Tbl α) {i k : Nat} (h : k ≠ i) : Tbl.find (Tbl.del t i) k = Tbl.find t k := by
  induction t with
  | nil => rfl
  | cons e r ih =>
    obtain ⟨j, w⟩ := e
    simp only [Tbl.del]
    split
    · rename_i h1
      subst h1
      simpa [Tbl.find, h] using ih
    · simp only [Tbl.find]
      split
      · rfl
      · exact ih

theorem Tbl.above_find (t : Tbl α) {n : Nat} (h : Tbl.above n t = true) {k : Nat} (hk : k ≤ n) : Tbl.find t k = none := by
  induction t with
  | nil => rfl
  | cons e r ih =>
    obtain ⟨j, w⟩ := e
    simp only [Tbl.above, List.all_cons, Bool.and_eq_true, decide_eq_true_eq] at h
    have hne : k ≠ j := by omega
    simp only [Tbl.find, hne, if_false]
    exact ih h.2

theorem Tbl.find_del_same (t : Tbl α) (i : Nat) : Tbl.find (Tbl.del t i) i = none := by
  induction t with
  | nil => rfl
  | cons e r ih =>
    obtain ⟨j, w⟩ := e
    simp only [Tbl.del]
    split
    · exact ih
    · rename_i h1
      simp only [Tbl.find, h1, if_false]
      exact ih

/-- An array read where it was just written gives the value written. -/
theorem Tbl.getD_setD_same [DecidableEq α] (t : Tbl α) (i : Nat) (v d : α) :
    Tbl.getD (Tbl.setD t i v d) i d = v := by
  unfold Tbl.setD Tbl.getD
  split
  · rename_i hv
    rw [Tbl.find_del_same t i, hv]
    rfl
  · rw [Tbl.find_put_same]
    rfl

/-- An array read elsewhere gives what it gave. -/
theorem Tbl.getD_setD_other [DecidableEq α] (t : Tbl α) {i k : Nat} (v d e : α) (h : k ≠ i) :
    Tbl.getD (Tbl.setD t i v d) k e = Tbl.getD t k e := by
  unfold Tbl.setD Tbl.getD
  split
  · rw [Tbl.find_del_other t h]
  · rw [Tbl.find_put_other t v h]

/-! ## The canonical form -/

theorem Tbl.above_put (t : Tbl α) {n i : Nat} (v : α) (h : Tbl.above n t = true) (hi : n < i) : Tbl.above n (Tbl.put t i v) = true := by
  induction t with
  | nil => simpa [Tbl.put, Tbl.above] using hi
  | cons e r ih =>
    obtain ⟨j, w⟩ := e
    simp only [Tbl.above, List.all_cons, Bool.and_eq_true, decide_eq_true_eq] at h ih ⊢
    simp only [Tbl.put]
    split
    · simpa [hi] using h
    · split
      · rename_i h2
        subst h2
        simpa [hi] using h.2
      · simpa [h.1] using ih h.2

theorem Tbl.above_trans (t : Tbl α) {n m : Nat} (h : Tbl.above n t = true) (hm : m ≤ n) : Tbl.above m t = true := by
  simp only [Tbl.above, List.all_eq_true, decide_eq_true_eq] at h ⊢
  intro x hx
  have := h x hx
  omega

theorem Tbl.sorted_put (t : Tbl α) (i : Nat) (v : α) (h : Tbl.sorted t = true) : Tbl.sorted (Tbl.put t i v) = true := by
  induction t with
  | nil => simp [Tbl.put, Tbl.sorted, Tbl.above]
  | cons e r ih =>
    obtain ⟨j, w⟩ := e
    simp only [Tbl.sorted, Bool.and_eq_true] at h
    simp only [Tbl.put]
    split
    · rename_i hij
      simp only [Tbl.sorted, Bool.and_eq_true]
      refine ⟨?_, h⟩
      have := Tbl.above_trans r h.1 (Nat.le_of_lt hij)
      simpa [Tbl.above, hij] using this
    · split
      · rename_i h2
        subst h2
        simpa [Tbl.sorted] using h
      · simp only [Tbl.sorted, Bool.and_eq_true]
        exact ⟨Tbl.above_put r v h.1 (by omega), ih h.2⟩

theorem Tbl.del_subset (t : Tbl α) (i : Nat) : ∀ x ∈ Tbl.del t i, x ∈ t := by
  induction t with
  | nil => intro x hx; exact hx
  | cons e r ih =>
    obtain ⟨j, w⟩ := e
    intro x hx
    simp only [Tbl.del] at hx
    split at hx
    · exact List.mem_cons_of_mem _ (ih x hx)
    · rcases List.mem_cons.1 hx with h | h
      · exact h ▸ List.mem_cons_self
      · exact List.mem_cons_of_mem _ (ih x h)

theorem Tbl.sorted_del (t : Tbl α) (i : Nat) (h : Tbl.sorted t = true) : Tbl.sorted (Tbl.del t i) = true := by
  induction t with
  | nil => rfl
  | cons e r ih =>
    obtain ⟨j, w⟩ := e
    simp only [Tbl.sorted, Bool.and_eq_true] at h
    simp only [Tbl.del]
    split
    · exact ih h.2
    · simp only [Tbl.sorted, Bool.and_eq_true]
      refine ⟨?_, ih h.2⟩
      have ha := h.1
      simp only [Tbl.above, List.all_eq_true] at ha ⊢
      exact fun x hx => ha x (Tbl.del_subset r i x hx)

theorem Tbl.sorted_setD [DecidableEq α] (t : Tbl α) (i : Nat) (v d : α) (h : Tbl.sorted t = true) : Tbl.sorted (Tbl.setD t i v d) = true := by
  unfold Tbl.setD
  split
  · exact Tbl.sorted_del t i h
  · exact Tbl.sorted_put t i v h

theorem Tbl.sorted_filter (t : Tbl α) (p : Nat × α → Bool) (h : Tbl.sorted t = true) : Tbl.sorted (t.filter p) = true := by
  induction t with
  | nil => rfl
  | cons e r ih =>
    obtain ⟨j, w⟩ := e
    simp only [Tbl.sorted, Bool.and_eq_true] at h
    simp only [List.filter_cons]
    split
    · simp only [Tbl.sorted, Bool.and_eq_true]
      refine ⟨?_, ih h.2⟩
      have ha := h.1
      simp only [Tbl.above, List.all_eq_true] at ha ⊢
      exact fun x hx => ha x (List.mem_filter.1 hx).1
    · exact ih h.2

theorem Tbl.mem_put (t : Tbl α) (i : Nat) (v : α) : ∀ x ∈ Tbl.put t i v, x ∈ t ∨ x = (i, v) := by
  induction t with
  | nil => intro x hx; exact Or.inr (List.mem_singleton.1 hx)
  | cons e r ih =>
    obtain ⟨j, w⟩ := e
    intro x hx
    simp only [Tbl.put] at hx
    split at hx
    · rcases List.mem_cons.1 hx with h | h
      · exact Or.inr h
      · exact Or.inl h
    · split at hx
      · rcases List.mem_cons.1 hx with h | h
        · exact Or.inr h
        · exact Or.inl (List.mem_cons_of_mem _ h)
      · rcases List.mem_cons.1 hx with h | h
        · exact Or.inl (h ▸ List.mem_cons_self)
        · rcases ih x h with h | h
          · exact Or.inl (List.mem_cons_of_mem _ h)
          · exact Or.inr h

/-- A property of every listed value stays when a value that has it is written. -/
theorem Tbl.all_setD [DecidableEq α] (t : Tbl α) (i : Nat) (v d : α) (p : α → Bool) (h : (t.all fun e => p e.2) = true) (hv : p v = true) :
    ((Tbl.setD t i v d).all fun e => p e.2) = true := by
  simp only [List.all_eq_true] at h ⊢
  intro x hx
  unfold Tbl.setD at hx
  split at hx
  · exact h x (Tbl.del_subset t i x hx)
  · rcases Tbl.mem_put t i v x hx with hx | hx
    · exact h x hx
    · rw [hx]; exact hv

theorem Tbl.wf_setD [DecidableEq α] (t : Tbl α) (i : Nat) (v d : α) (h : Tbl.wf d t = true) : Tbl.wf d (Tbl.setD t i v d) = true := by
  unfold Tbl.wf at h ⊢
  simp only [Bool.and_eq_true] at h ⊢
  refine ⟨Tbl.sorted_setD t i v d h.1, ?_⟩
  have h2 := h.2
  simp only [List.all_eq_true, decide_eq_true_eq] at h2 ⊢
  intro x hx
  unfold Tbl.setD at hx
  split at hx
  · exact h2 x (Tbl.del_subset t i x hx)
  · rename_i hv
    rcases Tbl.mem_put t i v x hx with hx | hx
    · exact h2 x hx
    · rw [hx]; exact hv

theorem Tbl.wf_filter [DecidableEq α] (t : Tbl α) (d : α) (p : Nat × α → Bool) (h : Tbl.wf d t = true) : Tbl.wf d (t.filter p) = true := by
  unfold Tbl.wf at h ⊢
  simp only [Bool.and_eq_true] at h ⊢
  refine ⟨Tbl.sorted_filter t p h.1, ?_⟩
  have h2 := h.2
  simp only [List.all_eq_true] at h2 ⊢
  exact fun x hx => h2 x (List.mem_filter.1 hx).1

theorem Tbl.wf_nil [DecidableEq α] (d : α) : Tbl.wf d ([] : Tbl α) = true := rfl

theorem Tbl.wf_writeBytes (n : Nat) : ∀ (t : Tbl Byte) (d : Byte) (a v : Nat), Tbl.wf d t = true → Tbl.wf d (Tbl.writeBytes t d a n v) = true := by
  induction n with
  | zero => intro t d a v h; exact h
  | succ k ih => intro t d a v h; exact ih _ d (a + 1) (v / 256) (Tbl.wf_setD t a _ d h)

theorem Tbl.wf_foldl [DecidableEq α] {β : Type} (d : α) (l : List β) (f : Tbl α → β → Tbl α)
    (hf : ∀ t b, Tbl.wf d t = true → Tbl.wf d (f t b) = true) : ∀ t : Tbl α, Tbl.wf d t = true → Tbl.wf d (l.foldl f t) = true := by
  induction l with
  | nil => intro t h; exact h
  | cons b r ih => intro t h; exact ih _ (hf t b h)

end Sys2Proof
end

