-- ==== Sys2Proof/Laws/State.lean ====
section
/-!
SUPPORT. What each named update leaves in each field of the state, and what a register field reads after a write.
-/
namespace Sys2Proof.Machine

variable (s : State)

@[simp] theorem State.modPwr_regs (f : Power → Power) : (s.modPwr f).regs = s.regs := rfl
@[simp] theorem State.modPwr_pwr (f : Power → Power) : (s.modPwr f).pwr = f s.pwr := rfl
@[simp] theorem State.modPwr_chm (f : Power → Power) : (s.modPwr f).chm = s.chm := rfl
@[simp] theorem State.modPwr_atc (f : Power → Power) : (s.modPwr f).atc = s.atc := rfl
@[simp] theorem State.modPwr_std (f : Power → Power) : (s.modPwr f).std = s.std := rfl
@[simp] theorem State.modPwr_clo (f : Power → Power) : (s.modPwr f).clo = s.clo := rfl
@[simp] theorem State.modPwr_stg (f : Power → Power) : (s.modPwr f).stg = s.stg := rfl
@[simp] theorem State.modPwr_porch (f : Power → Power) : (s.modPwr f).porch = s.porch := rfl
@[simp] theorem State.modPwr_hall (f : Power → Power) : (s.modPwr f).hall = s.hall := rfl
@[simp] theorem State.modPwr_nvm (f : Power → Power) : (s.modPwr f).nvm = s.nvm := rfl
@[simp] theorem State.modPwr_pan (f : Power → Power) : (s.modPwr f).pan = s.pan := rfl
@[simp] theorem State.modPwr_ldr (f : Power → Power) : (s.modPwr f).ldr = s.ldr := rfl
@[simp] theorem State.modPwr_cel (f : Power → Power) : (s.modPwr f).cel = s.cel := rfl
@[simp] theorem State.modPwr_seqs (f : Power → Power) : (s.modPwr f).seqs = s.seqs := rfl
@[simp] theorem State.modPwr_lnd (f : Power → Power) : (s.modPwr f).lnd = s.lnd := rfl
@[simp] theorem State.modPwr_scu (f : Power → Power) : (s.modPwr f).scu = s.scu := rfl
@[simp] theorem State.modPwr_bsm (f : Power → Power) : (s.modPwr f).bsm = s.bsm := rfl
@[simp] theorem State.modPwr_sta (f : Power → Power) : (s.modPwr f).sta = s.sta := rfl
@[simp] theorem State.modPwr_fab (f : Power → Power) : (s.modPwr f).fab = s.fab := rfl
@[simp] theorem State.modPwr_jtag (f : Power → Power) : (s.modPwr f).jtag = s.jtag := rfl
@[simp] theorem State.modPwr_out (f : Power → Power) : (s.modPwr f).out = s.out := rfl
@[simp] theorem State.modPwr_free (f : Power → Power) : (s.modPwr f).free = s.free := rfl
@[simp] theorem State.modPwr_pending (f : Power → Power) : (s.modPwr f).pending = s.pending := rfl
@[simp] theorem State.modChm_regs (f : Chimney → Chimney) : (s.modChm f).regs = s.regs := rfl
@[simp] theorem State.modChm_pwr (f : Chimney → Chimney) : (s.modChm f).pwr = s.pwr := rfl
@[simp] theorem State.modChm_chm (f : Chimney → Chimney) : (s.modChm f).chm = f s.chm := rfl
@[simp] theorem State.modChm_atc (f : Chimney → Chimney) : (s.modChm f).atc = s.atc := rfl
@[simp] theorem State.modChm_std (f : Chimney → Chimney) : (s.modChm f).std = s.std := rfl
@[simp] theorem State.modChm_clo (f : Chimney → Chimney) : (s.modChm f).clo = s.clo := rfl
@[simp] theorem State.modChm_stg (f : Chimney → Chimney) : (s.modChm f).stg = s.stg := rfl
@[simp] theorem State.modChm_porch (f : Chimney → Chimney) : (s.modChm f).porch = s.porch := rfl
@[simp] theorem State.modChm_hall (f : Chimney → Chimney) : (s.modChm f).hall = s.hall := rfl
@[simp] theorem State.modChm_nvm (f : Chimney → Chimney) : (s.modChm f).nvm = s.nvm := rfl
@[simp] theorem State.modChm_pan (f : Chimney → Chimney) : (s.modChm f).pan = s.pan := rfl
@[simp] theorem State.modChm_ldr (f : Chimney → Chimney) : (s.modChm f).ldr = s.ldr := rfl
@[simp] theorem State.modChm_cel (f : Chimney → Chimney) : (s.modChm f).cel = s.cel := rfl
@[simp] theorem State.modChm_seqs (f : Chimney → Chimney) : (s.modChm f).seqs = s.seqs := rfl
@[simp] theorem State.modChm_lnd (f : Chimney → Chimney) : (s.modChm f).lnd = s.lnd := rfl
@[simp] theorem State.modChm_scu (f : Chimney → Chimney) : (s.modChm f).scu = s.scu := rfl
@[simp] theorem State.modChm_bsm (f : Chimney → Chimney) : (s.modChm f).bsm = s.bsm := rfl
@[simp] theorem State.modChm_sta (f : Chimney → Chimney) : (s.modChm f).sta = s.sta := rfl
@[simp] theorem State.modChm_fab (f : Chimney → Chimney) : (s.modChm f).fab = s.fab := rfl
@[simp] theorem State.modChm_jtag (f : Chimney → Chimney) : (s.modChm f).jtag = s.jtag := rfl
@[simp] theorem State.modChm_out (f : Chimney → Chimney) : (s.modChm f).out = s.out := rfl
@[simp] theorem State.modChm_free (f : Chimney → Chimney) : (s.modChm f).free = s.free := rfl
@[simp] theorem State.modChm_pending (f : Chimney → Chimney) : (s.modChm f).pending = s.pending := rfl
@[simp] theorem State.modAtc_regs (f : Attic → Attic) : (s.modAtc f).regs = s.regs := rfl
@[simp] theorem State.modAtc_pwr (f : Attic → Attic) : (s.modAtc f).pwr = s.pwr := rfl
@[simp] theorem State.modAtc_chm (f : Attic → Attic) : (s.modAtc f).chm = s.chm := rfl
@[simp] theorem State.modAtc_atc (f : Attic → Attic) : (s.modAtc f).atc = f s.atc := rfl
@[simp] theorem State.modAtc_std (f : Attic → Attic) : (s.modAtc f).std = s.std := rfl
@[simp] theorem State.modAtc_clo (f : Attic → Attic) : (s.modAtc f).clo = s.clo := rfl
@[simp] theorem State.modAtc_stg (f : Attic → Attic) : (s.modAtc f).stg = s.stg := rfl
@[simp] theorem State.modAtc_porch (f : Attic → Attic) : (s.modAtc f).porch = s.porch := rfl
@[simp] theorem State.modAtc_hall (f : Attic → Attic) : (s.modAtc f).hall = s.hall := rfl
@[simp] theorem State.modAtc_nvm (f : Attic → Attic) : (s.modAtc f).nvm = s.nvm := rfl
@[simp] theorem State.modAtc_pan (f : Attic → Attic) : (s.modAtc f).pan = s.pan := rfl
@[simp] theorem State.modAtc_ldr (f : Attic → Attic) : (s.modAtc f).ldr = s.ldr := rfl
@[simp] theorem State.modAtc_cel (f : Attic → Attic) : (s.modAtc f).cel = s.cel := rfl
@[simp] theorem State.modAtc_seqs (f : Attic → Attic) : (s.modAtc f).seqs = s.seqs := rfl
@[simp] theorem State.modAtc_lnd (f : Attic → Attic) : (s.modAtc f).lnd = s.lnd := rfl
@[simp] theorem State.modAtc_scu (f : Attic → Attic) : (s.modAtc f).scu = s.scu := rfl
@[simp] theorem State.modAtc_bsm (f : Attic → Attic) : (s.modAtc f).bsm = s.bsm := rfl
@[simp] theorem State.modAtc_sta (f : Attic → Attic) : (s.modAtc f).sta = s.sta := rfl
@[simp] theorem State.modAtc_fab (f : Attic → Attic) : (s.modAtc f).fab = s.fab := rfl
@[simp] theorem State.modAtc_jtag (f : Attic → Attic) : (s.modAtc f).jtag = s.jtag := rfl
@[simp] theorem State.modAtc_out (f : Attic → Attic) : (s.modAtc f).out = s.out := rfl
@[simp] theorem State.modAtc_free (f : Attic → Attic) : (s.modAtc f).free = s.free := rfl
@[simp] theorem State.modAtc_pending (f : Attic → Attic) : (s.modAtc f).pending = s.pending := rfl
@[simp] theorem State.modStd_regs (f : Study → Study) : (s.modStd f).regs = s.regs := rfl
@[simp] theorem State.modStd_pwr (f : Study → Study) : (s.modStd f).pwr = s.pwr := rfl
@[simp] theorem State.modStd_chm (f : Study → Study) : (s.modStd f).chm = s.chm := rfl
@[simp] theorem State.modStd_atc (f : Study → Study) : (s.modStd f).atc = s.atc := rfl
@[simp] theorem State.modStd_std (f : Study → Study) : (s.modStd f).std = f s.std := rfl
@[simp] theorem State.modStd_clo (f : Study → Study) : (s.modStd f).clo = s.clo := rfl
@[simp] theorem State.modStd_stg (f : Study → Study) : (s.modStd f).stg = s.stg := rfl
@[simp] theorem State.modStd_porch (f : Study → Study) : (s.modStd f).porch = s.porch := rfl
@[simp] theorem State.modStd_hall (f : Study → Study) : (s.modStd f).hall = s.hall := rfl
@[simp] theorem State.modStd_nvm (f : Study → Study) : (s.modStd f).nvm = s.nvm := rfl
@[simp] theorem State.modStd_pan (f : Study → Study) : (s.modStd f).pan = s.pan := rfl
@[simp] theorem State.modStd_ldr (f : Study → Study) : (s.modStd f).ldr = s.ldr := rfl
@[simp] theorem State.modStd_cel (f : Study → Study) : (s.modStd f).cel = s.cel := rfl
@[simp] theorem State.modStd_seqs (f : Study → Study) : (s.modStd f).seqs = s.seqs := rfl
@[simp] theorem State.modStd_lnd (f : Study → Study) : (s.modStd f).lnd = s.lnd := rfl
@[simp] theorem State.modStd_scu (f : Study → Study) : (s.modStd f).scu = s.scu := rfl
@[simp] theorem State.modStd_bsm (f : Study → Study) : (s.modStd f).bsm = s.bsm := rfl
@[simp] theorem State.modStd_sta (f : Study → Study) : (s.modStd f).sta = s.sta := rfl
@[simp] theorem State.modStd_fab (f : Study → Study) : (s.modStd f).fab = s.fab := rfl
@[simp] theorem State.modStd_jtag (f : Study → Study) : (s.modStd f).jtag = s.jtag := rfl
@[simp] theorem State.modStd_out (f : Study → Study) : (s.modStd f).out = s.out := rfl
@[simp] theorem State.modStd_free (f : Study → Study) : (s.modStd f).free = s.free := rfl
@[simp] theorem State.modStd_pending (f : Study → Study) : (s.modStd f).pending = s.pending := rfl
@[simp] theorem State.modPorch_regs (f : Porch → Porch) : (s.modPorch f).regs = s.regs := rfl
@[simp] theorem State.modPorch_pwr (f : Porch → Porch) : (s.modPorch f).pwr = s.pwr := rfl
@[simp] theorem State.modPorch_chm (f : Porch → Porch) : (s.modPorch f).chm = s.chm := rfl
@[simp] theorem State.modPorch_atc (f : Porch → Porch) : (s.modPorch f).atc = s.atc := rfl
@[simp] theorem State.modPorch_std (f : Porch → Porch) : (s.modPorch f).std = s.std := rfl
@[simp] theorem State.modPorch_clo (f : Porch → Porch) : (s.modPorch f).clo = s.clo := rfl
@[simp] theorem State.modPorch_stg (f : Porch → Porch) : (s.modPorch f).stg = s.stg := rfl
@[simp] theorem State.modPorch_porch (f : Porch → Porch) : (s.modPorch f).porch = f s.porch := rfl
@[simp] theorem State.modPorch_hall (f : Porch → Porch) : (s.modPorch f).hall = s.hall := rfl
@[simp] theorem State.modPorch_nvm (f : Porch → Porch) : (s.modPorch f).nvm = s.nvm := rfl
@[simp] theorem State.modPorch_pan (f : Porch → Porch) : (s.modPorch f).pan = s.pan := rfl
@[simp] theorem State.modPorch_ldr (f : Porch → Porch) : (s.modPorch f).ldr = s.ldr := rfl
@[simp] theorem State.modPorch_cel (f : Porch → Porch) : (s.modPorch f).cel = s.cel := rfl
@[simp] theorem State.modPorch_seqs (f : Porch → Porch) : (s.modPorch f).seqs = s.seqs := rfl
@[simp] theorem State.modPorch_lnd (f : Porch → Porch) : (s.modPorch f).lnd = s.lnd := rfl
@[simp] theorem State.modPorch_scu (f : Porch → Porch) : (s.modPorch f).scu = s.scu := rfl
@[simp] theorem State.modPorch_bsm (f : Porch → Porch) : (s.modPorch f).bsm = s.bsm := rfl
@[simp] theorem State.modPorch_sta (f : Porch → Porch) : (s.modPorch f).sta = s.sta := rfl
@[simp] theorem State.modPorch_fab (f : Porch → Porch) : (s.modPorch f).fab = s.fab := rfl
@[simp] theorem State.modPorch_jtag (f : Porch → Porch) : (s.modPorch f).jtag = s.jtag := rfl
@[simp] theorem State.modPorch_out (f : Porch → Porch) : (s.modPorch f).out = s.out := rfl
@[simp] theorem State.modPorch_free (f : Porch → Porch) : (s.modPorch f).free = s.free := rfl
@[simp] theorem State.modPorch_pending (f : Porch → Porch) : (s.modPorch f).pending = s.pending := rfl
@[simp] theorem State.modHall_regs (f : Hall → Hall) : (s.modHall f).regs = s.regs := rfl
@[simp] theorem State.modHall_pwr (f : Hall → Hall) : (s.modHall f).pwr = s.pwr := rfl
@[simp] theorem State.modHall_chm (f : Hall → Hall) : (s.modHall f).chm = s.chm := rfl
@[simp] theorem State.modHall_atc (f : Hall → Hall) : (s.modHall f).atc = s.atc := rfl
@[simp] theorem State.modHall_std (f : Hall → Hall) : (s.modHall f).std = s.std := rfl
@[simp] theorem State.modHall_clo (f : Hall → Hall) : (s.modHall f).clo = s.clo := rfl
@[simp] theorem State.modHall_stg (f : Hall → Hall) : (s.modHall f).stg = s.stg := rfl
@[simp] theorem State.modHall_porch (f : Hall → Hall) : (s.modHall f).porch = s.porch := rfl
@[simp] theorem State.modHall_hall (f : Hall → Hall) : (s.modHall f).hall = f s.hall := rfl
@[simp] theorem State.modHall_nvm (f : Hall → Hall) : (s.modHall f).nvm = s.nvm := rfl
@[simp] theorem State.modHall_pan (f : Hall → Hall) : (s.modHall f).pan = s.pan := rfl
@[simp] theorem State.modHall_ldr (f : Hall → Hall) : (s.modHall f).ldr = s.ldr := rfl
@[simp] theorem State.modHall_cel (f : Hall → Hall) : (s.modHall f).cel = s.cel := rfl
@[simp] theorem State.modHall_seqs (f : Hall → Hall) : (s.modHall f).seqs = s.seqs := rfl
@[simp] theorem State.modHall_lnd (f : Hall → Hall) : (s.modHall f).lnd = s.lnd := rfl
@[simp] theorem State.modHall_scu (f : Hall → Hall) : (s.modHall f).scu = s.scu := rfl
@[simp] theorem State.modHall_bsm (f : Hall → Hall) : (s.modHall f).bsm = s.bsm := rfl
@[simp] theorem State.modHall_sta (f : Hall → Hall) : (s.modHall f).sta = s.sta := rfl
@[simp] theorem State.modHall_fab (f : Hall → Hall) : (s.modHall f).fab = s.fab := rfl
@[simp] theorem State.modHall_jtag (f : Hall → Hall) : (s.modHall f).jtag = s.jtag := rfl
@[simp] theorem State.modHall_out (f : Hall → Hall) : (s.modHall f).out = s.out := rfl
@[simp] theorem State.modHall_free (f : Hall → Hall) : (s.modHall f).free = s.free := rfl
@[simp] theorem State.modHall_pending (f : Hall → Hall) : (s.modHall f).pending = s.pending := rfl
@[simp] theorem State.modNvm_regs (f : Nvm → Nvm) : (s.modNvm f).regs = s.regs := rfl
@[simp] theorem State.modNvm_pwr (f : Nvm → Nvm) : (s.modNvm f).pwr = s.pwr := rfl
@[simp] theorem State.modNvm_chm (f : Nvm → Nvm) : (s.modNvm f).chm = s.chm := rfl
@[simp] theorem State.modNvm_atc (f : Nvm → Nvm) : (s.modNvm f).atc = s.atc := rfl
@[simp] theorem State.modNvm_std (f : Nvm → Nvm) : (s.modNvm f).std = s.std := rfl
@[simp] theorem State.modNvm_clo (f : Nvm → Nvm) : (s.modNvm f).clo = s.clo := rfl
@[simp] theorem State.modNvm_stg (f : Nvm → Nvm) : (s.modNvm f).stg = s.stg := rfl
@[simp] theorem State.modNvm_porch (f : Nvm → Nvm) : (s.modNvm f).porch = s.porch := rfl
@[simp] theorem State.modNvm_hall (f : Nvm → Nvm) : (s.modNvm f).hall = s.hall := rfl
@[simp] theorem State.modNvm_nvm (f : Nvm → Nvm) : (s.modNvm f).nvm = f s.nvm := rfl
@[simp] theorem State.modNvm_pan (f : Nvm → Nvm) : (s.modNvm f).pan = s.pan := rfl
@[simp] theorem State.modNvm_ldr (f : Nvm → Nvm) : (s.modNvm f).ldr = s.ldr := rfl
@[simp] theorem State.modNvm_cel (f : Nvm → Nvm) : (s.modNvm f).cel = s.cel := rfl
@[simp] theorem State.modNvm_seqs (f : Nvm → Nvm) : (s.modNvm f).seqs = s.seqs := rfl
@[simp] theorem State.modNvm_lnd (f : Nvm → Nvm) : (s.modNvm f).lnd = s.lnd := rfl
@[simp] theorem State.modNvm_scu (f : Nvm → Nvm) : (s.modNvm f).scu = s.scu := rfl
@[simp] theorem State.modNvm_bsm (f : Nvm → Nvm) : (s.modNvm f).bsm = s.bsm := rfl
@[simp] theorem State.modNvm_sta (f : Nvm → Nvm) : (s.modNvm f).sta = s.sta := rfl
@[simp] theorem State.modNvm_fab (f : Nvm → Nvm) : (s.modNvm f).fab = s.fab := rfl
@[simp] theorem State.modNvm_jtag (f : Nvm → Nvm) : (s.modNvm f).jtag = s.jtag := rfl
@[simp] theorem State.modNvm_out (f : Nvm → Nvm) : (s.modNvm f).out = s.out := rfl
@[simp] theorem State.modNvm_free (f : Nvm → Nvm) : (s.modNvm f).free = s.free := rfl
@[simp] theorem State.modNvm_pending (f : Nvm → Nvm) : (s.modNvm f).pending = s.pending := rfl
@[simp] theorem State.modPan_regs (f : Pantry → Pantry) : (s.modPan f).regs = s.regs := rfl
@[simp] theorem State.modPan_pwr (f : Pantry → Pantry) : (s.modPan f).pwr = s.pwr := rfl
@[simp] theorem State.modPan_chm (f : Pantry → Pantry) : (s.modPan f).chm = s.chm := rfl
@[simp] theorem State.modPan_atc (f : Pantry → Pantry) : (s.modPan f).atc = s.atc := rfl
@[simp] theorem State.modPan_std (f : Pantry → Pantry) : (s.modPan f).std = s.std := rfl
@[simp] theorem State.modPan_clo (f : Pantry → Pantry) : (s.modPan f).clo = s.clo := rfl
@[simp] theorem State.modPan_stg (f : Pantry → Pantry) : (s.modPan f).stg = s.stg := rfl
@[simp] theorem State.modPan_porch (f : Pantry → Pantry) : (s.modPan f).porch = s.porch := rfl
@[simp] theorem State.modPan_hall (f : Pantry → Pantry) : (s.modPan f).hall = s.hall := rfl
@[simp] theorem State.modPan_nvm (f : Pantry → Pantry) : (s.modPan f).nvm = s.nvm := rfl
@[simp] theorem State.modPan_pan (f : Pantry → Pantry) : (s.modPan f).pan = f s.pan := rfl
@[simp] theorem State.modPan_ldr (f : Pantry → Pantry) : (s.modPan f).ldr = s.ldr := rfl
@[simp] theorem State.modPan_cel (f : Pantry → Pantry) : (s.modPan f).cel = s.cel := rfl
@[simp] theorem State.modPan_seqs (f : Pantry → Pantry) : (s.modPan f).seqs = s.seqs := rfl
@[simp] theorem State.modPan_lnd (f : Pantry → Pantry) : (s.modPan f).lnd = s.lnd := rfl
@[simp] theorem State.modPan_scu (f : Pantry → Pantry) : (s.modPan f).scu = s.scu := rfl
@[simp] theorem State.modPan_bsm (f : Pantry → Pantry) : (s.modPan f).bsm = s.bsm := rfl
@[simp] theorem State.modPan_sta (f : Pantry → Pantry) : (s.modPan f).sta = s.sta := rfl
@[simp] theorem State.modPan_fab (f : Pantry → Pantry) : (s.modPan f).fab = s.fab := rfl
@[simp] theorem State.modPan_jtag (f : Pantry → Pantry) : (s.modPan f).jtag = s.jtag := rfl
@[simp] theorem State.modPan_out (f : Pantry → Pantry) : (s.modPan f).out = s.out := rfl
@[simp] theorem State.modPan_free (f : Pantry → Pantry) : (s.modPan f).free = s.free := rfl
@[simp] theorem State.modPan_pending (f : Pantry → Pantry) : (s.modPan f).pending = s.pending := rfl
@[simp] theorem State.modLdr_regs (f : Larder → Larder) : (s.modLdr f).regs = s.regs := rfl
@[simp] theorem State.modLdr_pwr (f : Larder → Larder) : (s.modLdr f).pwr = s.pwr := rfl
@[simp] theorem State.modLdr_chm (f : Larder → Larder) : (s.modLdr f).chm = s.chm := rfl
@[simp] theorem State.modLdr_atc (f : Larder → Larder) : (s.modLdr f).atc = s.atc := rfl
@[simp] theorem State.modLdr_std (f : Larder → Larder) : (s.modLdr f).std = s.std := rfl
@[simp] theorem State.modLdr_clo (f : Larder → Larder) : (s.modLdr f).clo = s.clo := rfl
@[simp] theorem State.modLdr_stg (f : Larder → Larder) : (s.modLdr f).stg = s.stg := rfl
@[simp] theorem State.modLdr_porch (f : Larder → Larder) : (s.modLdr f).porch = s.porch := rfl
@[simp] theorem State.modLdr_hall (f : Larder → Larder) : (s.modLdr f).hall = s.hall := rfl
@[simp] theorem State.modLdr_nvm (f : Larder → Larder) : (s.modLdr f).nvm = s.nvm := rfl
@[simp] theorem State.modLdr_pan (f : Larder → Larder) : (s.modLdr f).pan = s.pan := rfl
@[simp] theorem State.modLdr_ldr (f : Larder → Larder) : (s.modLdr f).ldr = f s.ldr := rfl
@[simp] theorem State.modLdr_cel (f : Larder → Larder) : (s.modLdr f).cel = s.cel := rfl
@[simp] theorem State.modLdr_seqs (f : Larder → Larder) : (s.modLdr f).seqs = s.seqs := rfl
@[simp] theorem State.modLdr_lnd (f : Larder → Larder) : (s.modLdr f).lnd = s.lnd := rfl
@[simp] theorem State.modLdr_scu (f : Larder → Larder) : (s.modLdr f).scu = s.scu := rfl
@[simp] theorem State.modLdr_bsm (f : Larder → Larder) : (s.modLdr f).bsm = s.bsm := rfl
@[simp] theorem State.modLdr_sta (f : Larder → Larder) : (s.modLdr f).sta = s.sta := rfl
@[simp] theorem State.modLdr_fab (f : Larder → Larder) : (s.modLdr f).fab = s.fab := rfl
@[simp] theorem State.modLdr_jtag (f : Larder → Larder) : (s.modLdr f).jtag = s.jtag := rfl
@[simp] theorem State.modLdr_out (f : Larder → Larder) : (s.modLdr f).out = s.out := rfl
@[simp] theorem State.modLdr_free (f : Larder → Larder) : (s.modLdr f).free = s.free := rfl
@[simp] theorem State.modLdr_pending (f : Larder → Larder) : (s.modLdr f).pending = s.pending := rfl
@[simp] theorem State.modCel_regs (f : Cellar → Cellar) : (s.modCel f).regs = s.regs := rfl
@[simp] theorem State.modCel_pwr (f : Cellar → Cellar) : (s.modCel f).pwr = s.pwr := rfl
@[simp] theorem State.modCel_chm (f : Cellar → Cellar) : (s.modCel f).chm = s.chm := rfl
@[simp] theorem State.modCel_atc (f : Cellar → Cellar) : (s.modCel f).atc = s.atc := rfl
@[simp] theorem State.modCel_std (f : Cellar → Cellar) : (s.modCel f).std = s.std := rfl
@[simp] theorem State.modCel_clo (f : Cellar → Cellar) : (s.modCel f).clo = s.clo := rfl
@[simp] theorem State.modCel_stg (f : Cellar → Cellar) : (s.modCel f).stg = s.stg := rfl
@[simp] theorem State.modCel_porch (f : Cellar → Cellar) : (s.modCel f).porch = s.porch := rfl
@[simp] theorem State.modCel_hall (f : Cellar → Cellar) : (s.modCel f).hall = s.hall := rfl
@[simp] theorem State.modCel_nvm (f : Cellar → Cellar) : (s.modCel f).nvm = s.nvm := rfl
@[simp] theorem State.modCel_pan (f : Cellar → Cellar) : (s.modCel f).pan = s.pan := rfl
@[simp] theorem State.modCel_ldr (f : Cellar → Cellar) : (s.modCel f).ldr = s.ldr := rfl
@[simp] theorem State.modCel_cel (f : Cellar → Cellar) : (s.modCel f).cel = f s.cel := rfl
@[simp] theorem State.modCel_seqs (f : Cellar → Cellar) : (s.modCel f).seqs = s.seqs := rfl
@[simp] theorem State.modCel_lnd (f : Cellar → Cellar) : (s.modCel f).lnd = s.lnd := rfl
@[simp] theorem State.modCel_scu (f : Cellar → Cellar) : (s.modCel f).scu = s.scu := rfl
@[simp] theorem State.modCel_bsm (f : Cellar → Cellar) : (s.modCel f).bsm = s.bsm := rfl
@[simp] theorem State.modCel_sta (f : Cellar → Cellar) : (s.modCel f).sta = s.sta := rfl
@[simp] theorem State.modCel_fab (f : Cellar → Cellar) : (s.modCel f).fab = s.fab := rfl
@[simp] theorem State.modCel_jtag (f : Cellar → Cellar) : (s.modCel f).jtag = s.jtag := rfl
@[simp] theorem State.modCel_out (f : Cellar → Cellar) : (s.modCel f).out = s.out := rfl
@[simp] theorem State.modCel_free (f : Cellar → Cellar) : (s.modCel f).free = s.free := rfl
@[simp] theorem State.modCel_pending (f : Cellar → Cellar) : (s.modCel f).pending = s.pending := rfl
@[simp] theorem State.modLnd_regs (f : Laundry → Laundry) : (s.modLnd f).regs = s.regs := rfl
@[simp] theorem State.modLnd_pwr (f : Laundry → Laundry) : (s.modLnd f).pwr = s.pwr := rfl
@[simp] theorem State.modLnd_chm (f : Laundry → Laundry) : (s.modLnd f).chm = s.chm := rfl
@[simp] theorem State.modLnd_atc (f : Laundry → Laundry) : (s.modLnd f).atc = s.atc := rfl
@[simp] theorem State.modLnd_std (f : Laundry → Laundry) : (s.modLnd f).std = s.std := rfl
@[simp] theorem State.modLnd_clo (f : Laundry → Laundry) : (s.modLnd f).clo = s.clo := rfl
@[simp] theorem State.modLnd_stg (f : Laundry → Laundry) : (s.modLnd f).stg = s.stg := rfl
@[simp] theorem State.modLnd_porch (f : Laundry → Laundry) : (s.modLnd f).porch = s.porch := rfl
@[simp] theorem State.modLnd_hall (f : Laundry → Laundry) : (s.modLnd f).hall = s.hall := rfl
@[simp] theorem State.modLnd_nvm (f : Laundry → Laundry) : (s.modLnd f).nvm = s.nvm := rfl
@[simp] theorem State.modLnd_pan (f : Laundry → Laundry) : (s.modLnd f).pan = s.pan := rfl
@[simp] theorem State.modLnd_ldr (f : Laundry → Laundry) : (s.modLnd f).ldr = s.ldr := rfl
@[simp] theorem State.modLnd_cel (f : Laundry → Laundry) : (s.modLnd f).cel = s.cel := rfl
@[simp] theorem State.modLnd_seqs (f : Laundry → Laundry) : (s.modLnd f).seqs = s.seqs := rfl
@[simp] theorem State.modLnd_lnd (f : Laundry → Laundry) : (s.modLnd f).lnd = f s.lnd := rfl
@[simp] theorem State.modLnd_scu (f : Laundry → Laundry) : (s.modLnd f).scu = s.scu := rfl
@[simp] theorem State.modLnd_bsm (f : Laundry → Laundry) : (s.modLnd f).bsm = s.bsm := rfl
@[simp] theorem State.modLnd_sta (f : Laundry → Laundry) : (s.modLnd f).sta = s.sta := rfl
@[simp] theorem State.modLnd_fab (f : Laundry → Laundry) : (s.modLnd f).fab = s.fab := rfl
@[simp] theorem State.modLnd_jtag (f : Laundry → Laundry) : (s.modLnd f).jtag = s.jtag := rfl
@[simp] theorem State.modLnd_out (f : Laundry → Laundry) : (s.modLnd f).out = s.out := rfl
@[simp] theorem State.modLnd_free (f : Laundry → Laundry) : (s.modLnd f).free = s.free := rfl
@[simp] theorem State.modLnd_pending (f : Laundry → Laundry) : (s.modLnd f).pending = s.pending := rfl
@[simp] theorem State.modScu_regs (f : Scullery → Scullery) : (s.modScu f).regs = s.regs := rfl
@[simp] theorem State.modScu_pwr (f : Scullery → Scullery) : (s.modScu f).pwr = s.pwr := rfl
@[simp] theorem State.modScu_chm (f : Scullery → Scullery) : (s.modScu f).chm = s.chm := rfl
@[simp] theorem State.modScu_atc (f : Scullery → Scullery) : (s.modScu f).atc = s.atc := rfl
@[simp] theorem State.modScu_std (f : Scullery → Scullery) : (s.modScu f).std = s.std := rfl
@[simp] theorem State.modScu_clo (f : Scullery → Scullery) : (s.modScu f).clo = s.clo := rfl
@[simp] theorem State.modScu_stg (f : Scullery → Scullery) : (s.modScu f).stg = s.stg := rfl
@[simp] theorem State.modScu_porch (f : Scullery → Scullery) : (s.modScu f).porch = s.porch := rfl
@[simp] theorem State.modScu_hall (f : Scullery → Scullery) : (s.modScu f).hall = s.hall := rfl
@[simp] theorem State.modScu_nvm (f : Scullery → Scullery) : (s.modScu f).nvm = s.nvm := rfl
@[simp] theorem State.modScu_pan (f : Scullery → Scullery) : (s.modScu f).pan = s.pan := rfl
@[simp] theorem State.modScu_ldr (f : Scullery → Scullery) : (s.modScu f).ldr = s.ldr := rfl
@[simp] theorem State.modScu_cel (f : Scullery → Scullery) : (s.modScu f).cel = s.cel := rfl
@[simp] theorem State.modScu_seqs (f : Scullery → Scullery) : (s.modScu f).seqs = s.seqs := rfl
@[simp] theorem State.modScu_lnd (f : Scullery → Scullery) : (s.modScu f).lnd = s.lnd := rfl
@[simp] theorem State.modScu_scu (f : Scullery → Scullery) : (s.modScu f).scu = f s.scu := rfl
@[simp] theorem State.modScu_bsm (f : Scullery → Scullery) : (s.modScu f).bsm = s.bsm := rfl
@[simp] theorem State.modScu_sta (f : Scullery → Scullery) : (s.modScu f).sta = s.sta := rfl
@[simp] theorem State.modScu_fab (f : Scullery → Scullery) : (s.modScu f).fab = s.fab := rfl
@[simp] theorem State.modScu_jtag (f : Scullery → Scullery) : (s.modScu f).jtag = s.jtag := rfl
@[simp] theorem State.modScu_out (f : Scullery → Scullery) : (s.modScu f).out = s.out := rfl
@[simp] theorem State.modScu_free (f : Scullery → Scullery) : (s.modScu f).free = s.free := rfl
@[simp] theorem State.modScu_pending (f : Scullery → Scullery) : (s.modScu f).pending = s.pending := rfl
@[simp] theorem State.modBsm_regs (f : Basement → Basement) : (s.modBsm f).regs = s.regs := rfl
@[simp] theorem State.modBsm_pwr (f : Basement → Basement) : (s.modBsm f).pwr = s.pwr := rfl
@[simp] theorem State.modBsm_chm (f : Basement → Basement) : (s.modBsm f).chm = s.chm := rfl
@[simp] theorem State.modBsm_atc (f : Basement → Basement) : (s.modBsm f).atc = s.atc := rfl
@[simp] theorem State.modBsm_std (f : Basement → Basement) : (s.modBsm f).std = s.std := rfl
@[simp] theorem State.modBsm_clo (f : Basement → Basement) : (s.modBsm f).clo = s.clo := rfl
@[simp] theorem State.modBsm_stg (f : Basement → Basement) : (s.modBsm f).stg = s.stg := rfl
@[simp] theorem State.modBsm_porch (f : Basement → Basement) : (s.modBsm f).porch = s.porch := rfl
@[simp] theorem State.modBsm_hall (f : Basement → Basement) : (s.modBsm f).hall = s.hall := rfl
@[simp] theorem State.modBsm_nvm (f : Basement → Basement) : (s.modBsm f).nvm = s.nvm := rfl
@[simp] theorem State.modBsm_pan (f : Basement → Basement) : (s.modBsm f).pan = s.pan := rfl
@[simp] theorem State.modBsm_ldr (f : Basement → Basement) : (s.modBsm f).ldr = s.ldr := rfl
@[simp] theorem State.modBsm_cel (f : Basement → Basement) : (s.modBsm f).cel = s.cel := rfl
@[simp] theorem State.modBsm_seqs (f : Basement → Basement) : (s.modBsm f).seqs = s.seqs := rfl
@[simp] theorem State.modBsm_lnd (f : Basement → Basement) : (s.modBsm f).lnd = s.lnd := rfl
@[simp] theorem State.modBsm_scu (f : Basement → Basement) : (s.modBsm f).scu = s.scu := rfl
@[simp] theorem State.modBsm_bsm (f : Basement → Basement) : (s.modBsm f).bsm = f s.bsm := rfl
@[simp] theorem State.modBsm_sta (f : Basement → Basement) : (s.modBsm f).sta = s.sta := rfl
@[simp] theorem State.modBsm_fab (f : Basement → Basement) : (s.modBsm f).fab = s.fab := rfl
@[simp] theorem State.modBsm_jtag (f : Basement → Basement) : (s.modBsm f).jtag = s.jtag := rfl
@[simp] theorem State.modBsm_out (f : Basement → Basement) : (s.modBsm f).out = s.out := rfl
@[simp] theorem State.modBsm_free (f : Basement → Basement) : (s.modBsm f).free = s.free := rfl
@[simp] theorem State.modBsm_pending (f : Basement → Basement) : (s.modBsm f).pending = s.pending := rfl
@[simp] theorem State.modStg_regs (f : Strongroom → Strongroom) : (s.modStg f).regs = s.regs := rfl
@[simp] theorem State.modStg_pwr (f : Strongroom → Strongroom) : (s.modStg f).pwr = s.pwr := rfl
@[simp] theorem State.modStg_chm (f : Strongroom → Strongroom) : (s.modStg f).chm = s.chm := rfl
@[simp] theorem State.modStg_atc (f : Strongroom → Strongroom) : (s.modStg f).atc = s.atc := rfl
@[simp] theorem State.modStg_std (f : Strongroom → Strongroom) : (s.modStg f).std = s.std := rfl
@[simp] theorem State.modStg_clo (f : Strongroom → Strongroom) : (s.modStg f).clo = s.clo := rfl
@[simp] theorem State.modStg_stg (f : Strongroom → Strongroom) : (s.modStg f).stg = f s.stg := rfl
@[simp] theorem State.modStg_porch (f : Strongroom → Strongroom) : (s.modStg f).porch = s.porch := rfl
@[simp] theorem State.modStg_hall (f : Strongroom → Strongroom) : (s.modStg f).hall = s.hall := rfl
@[simp] theorem State.modStg_nvm (f : Strongroom → Strongroom) : (s.modStg f).nvm = s.nvm := rfl
@[simp] theorem State.modStg_pan (f : Strongroom → Strongroom) : (s.modStg f).pan = s.pan := rfl
@[simp] theorem State.modStg_ldr (f : Strongroom → Strongroom) : (s.modStg f).ldr = s.ldr := rfl
@[simp] theorem State.modStg_cel (f : Strongroom → Strongroom) : (s.modStg f).cel = s.cel := rfl
@[simp] theorem State.modStg_seqs (f : Strongroom → Strongroom) : (s.modStg f).seqs = s.seqs := rfl
@[simp] theorem State.modStg_lnd (f : Strongroom → Strongroom) : (s.modStg f).lnd = s.lnd := rfl
@[simp] theorem State.modStg_scu (f : Strongroom → Strongroom) : (s.modStg f).scu = s.scu := rfl
@[simp] theorem State.modStg_bsm (f : Strongroom → Strongroom) : (s.modStg f).bsm = s.bsm := rfl
@[simp] theorem State.modStg_sta (f : Strongroom → Strongroom) : (s.modStg f).sta = s.sta := rfl
@[simp] theorem State.modStg_fab (f : Strongroom → Strongroom) : (s.modStg f).fab = s.fab := rfl
@[simp] theorem State.modStg_jtag (f : Strongroom → Strongroom) : (s.modStg f).jtag = s.jtag := rfl
@[simp] theorem State.modStg_out (f : Strongroom → Strongroom) : (s.modStg f).out = s.out := rfl
@[simp] theorem State.modStg_free (f : Strongroom → Strongroom) : (s.modStg f).free = s.free := rfl
@[simp] theorem State.modStg_pending (f : Strongroom → Strongroom) : (s.modStg f).pending = s.pending := rfl
@[simp] theorem State.modClo_regs (f : Closet → Closet) : (s.modClo f).regs = s.regs := rfl
@[simp] theorem State.modClo_pwr (f : Closet → Closet) : (s.modClo f).pwr = s.pwr := rfl
@[simp] theorem State.modClo_chm (f : Closet → Closet) : (s.modClo f).chm = s.chm := rfl
@[simp] theorem State.modClo_atc (f : Closet → Closet) : (s.modClo f).atc = s.atc := rfl
@[simp] theorem State.modClo_std (f : Closet → Closet) : (s.modClo f).std = s.std := rfl
@[simp] theorem State.modClo_clo (f : Closet → Closet) : (s.modClo f).clo = f s.clo := rfl
@[simp] theorem State.modClo_stg (f : Closet → Closet) : (s.modClo f).stg = s.stg := rfl
@[simp] theorem State.modClo_porch (f : Closet → Closet) : (s.modClo f).porch = s.porch := rfl
@[simp] theorem State.modClo_hall (f : Closet → Closet) : (s.modClo f).hall = s.hall := rfl
@[simp] theorem State.modClo_nvm (f : Closet → Closet) : (s.modClo f).nvm = s.nvm := rfl
@[simp] theorem State.modClo_pan (f : Closet → Closet) : (s.modClo f).pan = s.pan := rfl
@[simp] theorem State.modClo_ldr (f : Closet → Closet) : (s.modClo f).ldr = s.ldr := rfl
@[simp] theorem State.modClo_cel (f : Closet → Closet) : (s.modClo f).cel = s.cel := rfl
@[simp] theorem State.modClo_seqs (f : Closet → Closet) : (s.modClo f).seqs = s.seqs := rfl
@[simp] theorem State.modClo_lnd (f : Closet → Closet) : (s.modClo f).lnd = s.lnd := rfl
@[simp] theorem State.modClo_scu (f : Closet → Closet) : (s.modClo f).scu = s.scu := rfl
@[simp] theorem State.modClo_bsm (f : Closet → Closet) : (s.modClo f).bsm = s.bsm := rfl
@[simp] theorem State.modClo_sta (f : Closet → Closet) : (s.modClo f).sta = s.sta := rfl
@[simp] theorem State.modClo_fab (f : Closet → Closet) : (s.modClo f).fab = s.fab := rfl
@[simp] theorem State.modClo_jtag (f : Closet → Closet) : (s.modClo f).jtag = s.jtag := rfl
@[simp] theorem State.modClo_out (f : Closet → Closet) : (s.modClo f).out = s.out := rfl
@[simp] theorem State.modClo_free (f : Closet → Closet) : (s.modClo f).free = s.free := rfl
@[simp] theorem State.modClo_pending (f : Closet → Closet) : (s.modClo f).pending = s.pending := rfl
@[simp] theorem State.modSta_regs (f : Stair → Stair) : (s.modSta f).regs = s.regs := rfl
@[simp] theorem State.modSta_pwr (f : Stair → Stair) : (s.modSta f).pwr = s.pwr := rfl
@[simp] theorem State.modSta_chm (f : Stair → Stair) : (s.modSta f).chm = s.chm := rfl
@[simp] theorem State.modSta_atc (f : Stair → Stair) : (s.modSta f).atc = s.atc := rfl
@[simp] theorem State.modSta_std (f : Stair → Stair) : (s.modSta f).std = s.std := rfl
@[simp] theorem State.modSta_clo (f : Stair → Stair) : (s.modSta f).clo = s.clo := rfl
@[simp] theorem State.modSta_stg (f : Stair → Stair) : (s.modSta f).stg = s.stg := rfl
@[simp] theorem State.modSta_porch (f : Stair → Stair) : (s.modSta f).porch = s.porch := rfl
@[simp] theorem State.modSta_hall (f : Stair → Stair) : (s.modSta f).hall = s.hall := rfl
@[simp] theorem State.modSta_nvm (f : Stair → Stair) : (s.modSta f).nvm = s.nvm := rfl
@[simp] theorem State.modSta_pan (f : Stair → Stair) : (s.modSta f).pan = s.pan := rfl
@[simp] theorem State.modSta_ldr (f : Stair → Stair) : (s.modSta f).ldr = s.ldr := rfl
@[simp] theorem State.modSta_cel (f : Stair → Stair) : (s.modSta f).cel = s.cel := rfl
@[simp] theorem State.modSta_seqs (f : Stair → Stair) : (s.modSta f).seqs = s.seqs := rfl
@[simp] theorem State.modSta_lnd (f : Stair → Stair) : (s.modSta f).lnd = s.lnd := rfl
@[simp] theorem State.modSta_scu (f : Stair → Stair) : (s.modSta f).scu = s.scu := rfl
@[simp] theorem State.modSta_bsm (f : Stair → Stair) : (s.modSta f).bsm = s.bsm := rfl
@[simp] theorem State.modSta_sta (f : Stair → Stair) : (s.modSta f).sta = f s.sta := rfl
@[simp] theorem State.modSta_fab (f : Stair → Stair) : (s.modSta f).fab = s.fab := rfl
@[simp] theorem State.modSta_jtag (f : Stair → Stair) : (s.modSta f).jtag = s.jtag := rfl
@[simp] theorem State.modSta_out (f : Stair → Stair) : (s.modSta f).out = s.out := rfl
@[simp] theorem State.modSta_free (f : Stair → Stair) : (s.modSta f).free = s.free := rfl
@[simp] theorem State.modSta_pending (f : Stair → Stair) : (s.modSta f).pending = s.pending := rfl
@[simp] theorem State.modFab_regs (f : Fabric → Fabric) : (s.modFab f).regs = s.regs := rfl
@[simp] theorem State.modFab_pwr (f : Fabric → Fabric) : (s.modFab f).pwr = s.pwr := rfl
@[simp] theorem State.modFab_chm (f : Fabric → Fabric) : (s.modFab f).chm = s.chm := rfl
@[simp] theorem State.modFab_atc (f : Fabric → Fabric) : (s.modFab f).atc = s.atc := rfl
@[simp] theorem State.modFab_std (f : Fabric → Fabric) : (s.modFab f).std = s.std := rfl
@[simp] theorem State.modFab_clo (f : Fabric → Fabric) : (s.modFab f).clo = s.clo := rfl
@[simp] theorem State.modFab_stg (f : Fabric → Fabric) : (s.modFab f).stg = s.stg := rfl
@[simp] theorem State.modFab_porch (f : Fabric → Fabric) : (s.modFab f).porch = s.porch := rfl
@[simp] theorem State.modFab_hall (f : Fabric → Fabric) : (s.modFab f).hall = s.hall := rfl
@[simp] theorem State.modFab_nvm (f : Fabric → Fabric) : (s.modFab f).nvm = s.nvm := rfl
@[simp] theorem State.modFab_pan (f : Fabric → Fabric) : (s.modFab f).pan = s.pan := rfl
@[simp] theorem State.modFab_ldr (f : Fabric → Fabric) : (s.modFab f).ldr = s.ldr := rfl
@[simp] theorem State.modFab_cel (f : Fabric → Fabric) : (s.modFab f).cel = s.cel := rfl
@[simp] theorem State.modFab_seqs (f : Fabric → Fabric) : (s.modFab f).seqs = s.seqs := rfl
@[simp] theorem State.modFab_lnd (f : Fabric → Fabric) : (s.modFab f).lnd = s.lnd := rfl
@[simp] theorem State.modFab_scu (f : Fabric → Fabric) : (s.modFab f).scu = s.scu := rfl
@[simp] theorem State.modFab_bsm (f : Fabric → Fabric) : (s.modFab f).bsm = s.bsm := rfl
@[simp] theorem State.modFab_sta (f : Fabric → Fabric) : (s.modFab f).sta = s.sta := rfl
@[simp] theorem State.modFab_fab (f : Fabric → Fabric) : (s.modFab f).fab = f s.fab := rfl
@[simp] theorem State.modFab_jtag (f : Fabric → Fabric) : (s.modFab f).jtag = s.jtag := rfl
@[simp] theorem State.modFab_out (f : Fabric → Fabric) : (s.modFab f).out = s.out := rfl
@[simp] theorem State.modFab_free (f : Fabric → Fabric) : (s.modFab f).free = s.free := rfl
@[simp] theorem State.modFab_pending (f : Fabric → Fabric) : (s.modFab f).pending = s.pending := rfl
@[simp] theorem State.modJtag_regs (f : Jtag → Jtag) : (s.modJtag f).regs = s.regs := rfl
@[simp] theorem State.modJtag_pwr (f : Jtag → Jtag) : (s.modJtag f).pwr = s.pwr := rfl
@[simp] theorem State.modJtag_chm (f : Jtag → Jtag) : (s.modJtag f).chm = s.chm := rfl
@[simp] theorem State.modJtag_atc (f : Jtag → Jtag) : (s.modJtag f).atc = s.atc := rfl
@[simp] theorem State.modJtag_std (f : Jtag → Jtag) : (s.modJtag f).std = s.std := rfl
@[simp] theorem State.modJtag_clo (f : Jtag → Jtag) : (s.modJtag f).clo = s.clo := rfl
@[simp] theorem State.modJtag_stg (f : Jtag → Jtag) : (s.modJtag f).stg = s.stg := rfl
@[simp] theorem State.modJtag_porch (f : Jtag → Jtag) : (s.modJtag f).porch = s.porch := rfl
@[simp] theorem State.modJtag_hall (f : Jtag → Jtag) : (s.modJtag f).hall = s.hall := rfl
@[simp] theorem State.modJtag_nvm (f : Jtag → Jtag) : (s.modJtag f).nvm = s.nvm := rfl
@[simp] theorem State.modJtag_pan (f : Jtag → Jtag) : (s.modJtag f).pan = s.pan := rfl
@[simp] theorem State.modJtag_ldr (f : Jtag → Jtag) : (s.modJtag f).ldr = s.ldr := rfl
@[simp] theorem State.modJtag_cel (f : Jtag → Jtag) : (s.modJtag f).cel = s.cel := rfl
@[simp] theorem State.modJtag_seqs (f : Jtag → Jtag) : (s.modJtag f).seqs = s.seqs := rfl
@[simp] theorem State.modJtag_lnd (f : Jtag → Jtag) : (s.modJtag f).lnd = s.lnd := rfl
@[simp] theorem State.modJtag_scu (f : Jtag → Jtag) : (s.modJtag f).scu = s.scu := rfl
@[simp] theorem State.modJtag_bsm (f : Jtag → Jtag) : (s.modJtag f).bsm = s.bsm := rfl
@[simp] theorem State.modJtag_sta (f : Jtag → Jtag) : (s.modJtag f).sta = s.sta := rfl
@[simp] theorem State.modJtag_fab (f : Jtag → Jtag) : (s.modJtag f).fab = s.fab := rfl
@[simp] theorem State.modJtag_jtag (f : Jtag → Jtag) : (s.modJtag f).jtag = f s.jtag := rfl
@[simp] theorem State.modJtag_out (f : Jtag → Jtag) : (s.modJtag f).out = s.out := rfl
@[simp] theorem State.modJtag_free (f : Jtag → Jtag) : (s.modJtag f).free = s.free := rfl
@[simp] theorem State.modJtag_pending (f : Jtag → Jtag) : (s.modJtag f).pending = s.pending := rfl
@[simp] theorem State.emit_regs (x : Out) : (s.emit x).regs = s.regs := rfl
@[simp] theorem State.emit_pwr (x : Out) : (s.emit x).pwr = s.pwr := rfl
@[simp] theorem State.emit_chm (x : Out) : (s.emit x).chm = s.chm := rfl
@[simp] theorem State.emit_atc (x : Out) : (s.emit x).atc = s.atc := rfl
@[simp] theorem State.emit_std (x : Out) : (s.emit x).std = s.std := rfl
@[simp] theorem State.emit_clo (x : Out) : (s.emit x).clo = s.clo := rfl
@[simp] theorem State.emit_stg (x : Out) : (s.emit x).stg = s.stg := rfl
@[simp] theorem State.emit_porch (x : Out) : (s.emit x).porch = s.porch := rfl
@[simp] theorem State.emit_hall (x : Out) : (s.emit x).hall = s.hall := rfl
@[simp] theorem State.emit_nvm (x : Out) : (s.emit x).nvm = s.nvm := rfl
@[simp] theorem State.emit_pan (x : Out) : (s.emit x).pan = s.pan := rfl
@[simp] theorem State.emit_ldr (x : Out) : (s.emit x).ldr = s.ldr := rfl
@[simp] theorem State.emit_cel (x : Out) : (s.emit x).cel = s.cel := rfl
@[simp] theorem State.emit_seqs (x : Out) : (s.emit x).seqs = s.seqs := rfl
@[simp] theorem State.emit_lnd (x : Out) : (s.emit x).lnd = s.lnd := rfl
@[simp] theorem State.emit_scu (x : Out) : (s.emit x).scu = s.scu := rfl
@[simp] theorem State.emit_bsm (x : Out) : (s.emit x).bsm = s.bsm := rfl
@[simp] theorem State.emit_sta (x : Out) : (s.emit x).sta = s.sta := rfl
@[simp] theorem State.emit_fab (x : Out) : (s.emit x).fab = s.fab := rfl
@[simp] theorem State.emit_jtag (x : Out) : (s.emit x).jtag = s.jtag := rfl
@[simp] theorem State.emit_out (x : Out) : (s.emit x).out = s.out ++ [x] := rfl
@[simp] theorem State.emit_free (x : Out) : (s.emit x).free = s.free := rfl
@[simp] theorem State.emit_pending (x : Out) : (s.emit x).pending = s.pending := rfl
@[simp] theorem State.tick_regs : (s.tick ).regs = s.regs := rfl
@[simp] theorem State.tick_pwr : (s.tick ).pwr = s.pwr := rfl
@[simp] theorem State.tick_chm : (s.tick ).chm = s.chm := rfl
@[simp] theorem State.tick_atc : (s.tick ).atc = s.atc := rfl
@[simp] theorem State.tick_std : (s.tick ).std = s.std := rfl
@[simp] theorem State.tick_clo : (s.tick ).clo = s.clo := rfl
@[simp] theorem State.tick_stg : (s.tick ).stg = s.stg := rfl
@[simp] theorem State.tick_porch : (s.tick ).porch = s.porch := rfl
@[simp] theorem State.tick_hall : (s.tick ).hall = s.hall := rfl
@[simp] theorem State.tick_nvm : (s.tick ).nvm = s.nvm := rfl
@[simp] theorem State.tick_pan : (s.tick ).pan = s.pan := rfl
@[simp] theorem State.tick_ldr : (s.tick ).ldr = s.ldr := rfl
@[simp] theorem State.tick_cel : (s.tick ).cel = s.cel := rfl
@[simp] theorem State.tick_seqs : (s.tick ).seqs = s.seqs := rfl
@[simp] theorem State.tick_lnd : (s.tick ).lnd = s.lnd := rfl
@[simp] theorem State.tick_scu : (s.tick ).scu = s.scu := rfl
@[simp] theorem State.tick_bsm : (s.tick ).bsm = s.bsm := rfl
@[simp] theorem State.tick_sta : (s.tick ).sta = s.sta := rfl
@[simp] theorem State.tick_fab : (s.tick ).fab = s.fab := rfl
@[simp] theorem State.tick_jtag : (s.tick ).jtag = s.jtag := rfl
@[simp] theorem State.tick_out : (s.tick ).out = s.out := rfl
@[simp] theorem State.tick_free : (s.tick ).free = s.free + 1 := rfl
@[simp] theorem State.tick_pending : (s.tick ).pending = s.pending := rfl
@[simp] theorem State.ticks_regs (n : Nat) : (s.ticks n).regs = s.regs := rfl
@[simp] theorem State.ticks_pwr (n : Nat) : (s.ticks n).pwr = s.pwr := rfl
@[simp] theorem State.ticks_chm (n : Nat) : (s.ticks n).chm = s.chm := rfl
@[simp] theorem State.ticks_atc (n : Nat) : (s.ticks n).atc = s.atc := rfl
@[simp] theorem State.ticks_std (n : Nat) : (s.ticks n).std = s.std := rfl
@[simp] theorem State.ticks_clo (n : Nat) : (s.ticks n).clo = s.clo := rfl
@[simp] theorem State.ticks_stg (n : Nat) : (s.ticks n).stg = s.stg := rfl
@[simp] theorem State.ticks_porch (n : Nat) : (s.ticks n).porch = s.porch := rfl
@[simp] theorem State.ticks_hall (n : Nat) : (s.ticks n).hall = s.hall := rfl
@[simp] theorem State.ticks_nvm (n : Nat) : (s.ticks n).nvm = s.nvm := rfl
@[simp] theorem State.ticks_pan (n : Nat) : (s.ticks n).pan = s.pan := rfl
@[simp] theorem State.ticks_ldr (n : Nat) : (s.ticks n).ldr = s.ldr := rfl
@[simp] theorem State.ticks_cel (n : Nat) : (s.ticks n).cel = s.cel := rfl
@[simp] theorem State.ticks_seqs (n : Nat) : (s.ticks n).seqs = s.seqs := rfl
@[simp] theorem State.ticks_lnd (n : Nat) : (s.ticks n).lnd = s.lnd := rfl
@[simp] theorem State.ticks_scu (n : Nat) : (s.ticks n).scu = s.scu := rfl
@[simp] theorem State.ticks_bsm (n : Nat) : (s.ticks n).bsm = s.bsm := rfl
@[simp] theorem State.ticks_sta (n : Nat) : (s.ticks n).sta = s.sta := rfl
@[simp] theorem State.ticks_fab (n : Nat) : (s.ticks n).fab = s.fab := rfl
@[simp] theorem State.ticks_jtag (n : Nat) : (s.ticks n).jtag = s.jtag := rfl
@[simp] theorem State.ticks_out (n : Nat) : (s.ticks n).out = s.out := rfl
@[simp] theorem State.ticks_free (n : Nat) : (s.ticks n).free = s.free + n := rfl
@[simp] theorem State.ticks_pending (n : Nat) : (s.ticks n).pending = s.pending := rfl
@[simp] theorem State.modSeq_regs (n : Nat) (f : Seq → Seq) : (s.modSeq n f).regs = s.regs := rfl
@[simp] theorem State.wr_pwr (f : Fld) (v : Nat) : (s.wr f v).pwr = s.pwr := rfl
@[simp] theorem State.modSeq_pwr (n : Nat) (f : Seq → Seq) : (s.modSeq n f).pwr = s.pwr := rfl
@[simp] theorem State.wr_chm (f : Fld) (v : Nat) : (s.wr f v).chm = s.chm := rfl
@[simp] theorem State.modSeq_chm (n : Nat) (f : Seq → Seq) : (s.modSeq n f).chm = s.chm := rfl
@[simp] theorem State.wr_atc (f : Fld) (v : Nat) : (s.wr f v).atc = s.atc := rfl
@[simp] theorem State.modSeq_atc (n : Nat) (f : Seq → Seq) : (s.modSeq n f).atc = s.atc := rfl
@[simp] theorem State.wr_std (f : Fld) (v : Nat) : (s.wr f v).std = s.std := rfl
@[simp] theorem State.modSeq_std (n : Nat) (f : Seq → Seq) : (s.modSeq n f).std = s.std := rfl
@[simp] theorem State.wr_clo (f : Fld) (v : Nat) : (s.wr f v).clo = s.clo := rfl
@[simp] theorem State.modSeq_clo (n : Nat) (f : Seq → Seq) : (s.modSeq n f).clo = s.clo := rfl
@[simp] theorem State.wr_stg (f : Fld) (v : Nat) : (s.wr f v).stg = s.stg := rfl
@[simp] theorem State.modSeq_stg (n : Nat) (f : Seq → Seq) : (s.modSeq n f).stg = s.stg := rfl
@[simp] theorem State.wr_porch (f : Fld) (v : Nat) : (s.wr f v).porch = s.porch := rfl
@[simp] theorem State.modSeq_porch (n : Nat) (f : Seq → Seq) : (s.modSeq n f).porch = s.porch := rfl
@[simp] theorem State.wr_hall (f : Fld) (v : Nat) : (s.wr f v).hall = s.hall := rfl
@[simp] theorem State.modSeq_hall (n : Nat) (f : Seq → Seq) : (s.modSeq n f).hall = s.hall := rfl
@[simp] theorem State.wr_nvm (f : Fld) (v : Nat) : (s.wr f v).nvm = s.nvm := rfl
@[simp] theorem State.modSeq_nvm (n : Nat) (f : Seq → Seq) : (s.modSeq n f).nvm = s.nvm := rfl
@[simp] theorem State.wr_pan (f : Fld) (v : Nat) : (s.wr f v).pan = s.pan := rfl
@[simp] theorem State.modSeq_pan (n : Nat) (f : Seq → Seq) : (s.modSeq n f).pan = s.pan := rfl
@[simp] theorem State.wr_ldr (f : Fld) (v : Nat) : (s.wr f v).ldr = s.ldr := rfl
@[simp] theorem State.modSeq_ldr (n : Nat) (f : Seq → Seq) : (s.modSeq n f).ldr = s.ldr := rfl
@[simp] theorem State.wr_cel (f : Fld) (v : Nat) : (s.wr f v).cel = s.cel := rfl
@[simp] theorem State.modSeq_cel (n : Nat) (f : Seq → Seq) : (s.modSeq n f).cel = s.cel := rfl
@[simp] theorem State.wr_seqs (f : Fld) (v : Nat) : (s.wr f v).seqs = s.seqs := rfl
@[simp] theorem State.wr_lnd (f : Fld) (v : Nat) : (s.wr f v).lnd = s.lnd := rfl
@[simp] theorem State.modSeq_lnd (n : Nat) (f : Seq → Seq) : (s.modSeq n f).lnd = s.lnd := rfl
@[simp] theorem State.wr_scu (f : Fld) (v : Nat) : (s.wr f v).scu = s.scu := rfl
@[simp] theorem State.modSeq_scu (n : Nat) (f : Seq → Seq) : (s.modSeq n f).scu = s.scu := rfl
@[simp] theorem State.wr_bsm (f : Fld) (v : Nat) : (s.wr f v).bsm = s.bsm := rfl
@[simp] theorem State.modSeq_bsm (n : Nat) (f : Seq → Seq) : (s.modSeq n f).bsm = s.bsm := rfl
@[simp] theorem State.wr_sta (f : Fld) (v : Nat) : (s.wr f v).sta = s.sta := rfl
@[simp] theorem State.modSeq_sta (n : Nat) (f : Seq → Seq) : (s.modSeq n f).sta = s.sta := rfl
@[simp] theorem State.wr_fab (f : Fld) (v : Nat) : (s.wr f v).fab = s.fab := rfl
@[simp] theorem State.modSeq_fab (n : Nat) (f : Seq → Seq) : (s.modSeq n f).fab = s.fab := rfl
@[simp] theorem State.wr_jtag (f : Fld) (v : Nat) : (s.wr f v).jtag = s.jtag := rfl
@[simp] theorem State.modSeq_jtag (n : Nat) (f : Seq → Seq) : (s.modSeq n f).jtag = s.jtag := rfl
@[simp] theorem State.wr_out (f : Fld) (v : Nat) : (s.wr f v).out = s.out := rfl
@[simp] theorem State.modSeq_out (n : Nat) (f : Seq → Seq) : (s.modSeq n f).out = s.out := rfl
@[simp] theorem State.wr_free (f : Fld) (v : Nat) : (s.wr f v).free = s.free := rfl
@[simp] theorem State.modSeq_free (n : Nat) (f : Seq → Seq) : (s.modSeq n f).free = s.free := rfl
@[simp] theorem State.wr_pending (f : Fld) (v : Nat) : (s.wr f v).pending = s.pending := rfl
@[simp] theorem State.modSeq_pending (n : Nat) (f : Seq → Seq) : (s.modSeq n f).pending = s.pending := rfl

/-! ## Register fields under the updates of the other parts -/

@[simp] theorem State.modPwr_rd (f : Power → Power) (g : Fld) : (s.modPwr f).rd g = s.rd g := rfl
@[simp] theorem State.modPwr_on (f : Power → Power) (g : Fld) : (s.modPwr f).on g = s.on g := rfl
@[simp] theorem State.modChm_rd (f : Chimney → Chimney) (g : Fld) : (s.modChm f).rd g = s.rd g := rfl
@[simp] theorem State.modChm_on (f : Chimney → Chimney) (g : Fld) : (s.modChm f).on g = s.on g := rfl
@[simp] theorem State.modAtc_rd (f : Attic → Attic) (g : Fld) : (s.modAtc f).rd g = s.rd g := rfl
@[simp] theorem State.modAtc_on (f : Attic → Attic) (g : Fld) : (s.modAtc f).on g = s.on g := rfl
@[simp] theorem State.modStd_rd (f : Study → Study) (g : Fld) : (s.modStd f).rd g = s.rd g := rfl
@[simp] theorem State.modStd_on (f : Study → Study) (g : Fld) : (s.modStd f).on g = s.on g := rfl
@[simp] theorem State.modPorch_rd (f : Porch → Porch) (g : Fld) : (s.modPorch f).rd g = s.rd g := rfl
@[simp] theorem State.modPorch_on (f : Porch → Porch) (g : Fld) : (s.modPorch f).on g = s.on g := rfl
@[simp] theorem State.modHall_rd (f : Hall → Hall) (g : Fld) : (s.modHall f).rd g = s.rd g := rfl
@[simp] theorem State.modHall_on (f : Hall → Hall) (g : Fld) : (s.modHall f).on g = s.on g := rfl
@[simp] theorem State.modNvm_rd (f : Nvm → Nvm) (g : Fld) : (s.modNvm f).rd g = s.rd g := rfl
@[simp] theorem State.modNvm_on (f : Nvm → Nvm) (g : Fld) : (s.modNvm f).on g = s.on g := rfl
@[simp] theorem State.modPan_rd (f : Pantry → Pantry) (g : Fld) : (s.modPan f).rd g = s.rd g := rfl
@[simp] theorem State.modPan_on (f : Pantry → Pantry) (g : Fld) : (s.modPan f).on g = s.on g := rfl
@[simp] theorem State.modLdr_rd (f : Larder → Larder) (g : Fld) : (s.modLdr f).rd g = s.rd g := rfl
@[simp] theorem State.modLdr_on (f : Larder → Larder) (g : Fld) : (s.modLdr f).on g = s.on g := rfl
@[simp] theorem State.modCel_rd (f : Cellar → Cellar) (g : Fld) : (s.modCel f).rd g = s.rd g := rfl
@[simp] theorem State.modCel_on (f : Cellar → Cellar) (g : Fld) : (s.modCel f).on g = s.on g := rfl
@[simp] theorem State.modLnd_rd (f : Laundry → Laundry) (g : Fld) : (s.modLnd f).rd g = s.rd g := rfl
@[simp] theorem State.modLnd_on (f : Laundry → Laundry) (g : Fld) : (s.modLnd f).on g = s.on g := rfl
@[simp] theorem State.modScu_rd (f : Scullery → Scullery) (g : Fld) : (s.modScu f).rd g = s.rd g := rfl
@[simp] theorem State.modScu_on (f : Scullery → Scullery) (g : Fld) : (s.modScu f).on g = s.on g := rfl
@[simp] theorem State.modBsm_rd (f : Basement → Basement) (g : Fld) : (s.modBsm f).rd g = s.rd g := rfl
@[simp] theorem State.modBsm_on (f : Basement → Basement) (g : Fld) : (s.modBsm f).on g = s.on g := rfl
@[simp] theorem State.modStg_rd (f : Strongroom → Strongroom) (g : Fld) : (s.modStg f).rd g = s.rd g := rfl
@[simp] theorem State.modStg_on (f : Strongroom → Strongroom) (g : Fld) : (s.modStg f).on g = s.on g := rfl
@[simp] theorem State.modClo_rd (f : Closet → Closet) (g : Fld) : (s.modClo f).rd g = s.rd g := rfl
@[simp] theorem State.modClo_on (f : Closet → Closet) (g : Fld) : (s.modClo f).on g = s.on g := rfl
@[simp] theorem State.modSta_rd (f : Stair → Stair) (g : Fld) : (s.modSta f).rd g = s.rd g := rfl
@[simp] theorem State.modSta_on (f : Stair → Stair) (g : Fld) : (s.modSta f).on g = s.on g := rfl
@[simp] theorem State.modFab_rd (f : Fabric → Fabric) (g : Fld) : (s.modFab f).rd g = s.rd g := rfl
@[simp] theorem State.modFab_on (f : Fabric → Fabric) (g : Fld) : (s.modFab f).on g = s.on g := rfl
@[simp] theorem State.modJtag_rd (f : Jtag → Jtag) (g : Fld) : (s.modJtag f).rd g = s.rd g := rfl
@[simp] theorem State.modJtag_on (f : Jtag → Jtag) (g : Fld) : (s.modJtag f).on g = s.on g := rfl
@[simp] theorem State.emit_rd (x : Out) (g : Fld) : (s.emit x).rd g = s.rd g := rfl
@[simp] theorem State.emit_on (x : Out) (g : Fld) : (s.emit x).on g = s.on g := rfl
@[simp] theorem State.tick_rd  (g : Fld) : (s.tick).rd g = s.rd g := rfl
@[simp] theorem State.tick_on  (g : Fld) : (s.tick).on g = s.on g := rfl
@[simp] theorem State.ticks_rd (n : Nat) (g : Fld) : (s.ticks n).rd g = s.rd g := rfl
@[simp] theorem State.ticks_on (n : Nat) (g : Fld) : (s.ticks n).on g = s.on g := rfl
@[simp] theorem State.modSeq_rd (n : Nat) (f : Seq → Seq) (g : Fld) : (s.modSeq n f).rd g = s.rd g := rfl
@[simp] theorem State.modSeq_on (n : Nat) (f : Seq → Seq) (g : Fld) : (s.modSeq n f).on g = s.on g := rfl

/-! ## A register field after a write -/

theorem bits_lt (v l w : Nat) : bits v l w < 2 ^ w := Nat.mod_lt _ (Nat.two_pow_pos w)

/-- The field written reads the value written. -/
theorem bits_putBits_same (v l w x : Nat) : bits (putBits v l w x) l w = x % 2 ^ w := by
  unfold putBits
  have hb : bits v l w * 2 ^ l ≤ v := by
    unfold bits
    calc v / 2 ^ l % 2 ^ w * 2 ^ l ≤ v / 2 ^ l * 2 ^ l := Nat.mul_le_mul_right _ (Nat.mod_le _ _)
      _ ≤ v := Nat.div_mul_le_self _ _
  have hsplit : v - bits v l w * 2 ^ l = v % 2 ^ l + 2 ^ l * (2 ^ w * (v / 2 ^ l / 2 ^ w)) := by
    have h1 := Nat.div_add_mod v (2 ^ l)
    have h2 := Nat.div_add_mod (v / 2 ^ l) (2 ^ w)
    have h3 : v = 2 ^ l * (2 ^ w * (v / 2 ^ l / 2 ^ w) + v / 2 ^ l % 2 ^ w) + v % 2 ^ l := by rw [h2]; exact h1.symm
    unfold bits
    have h4 : v / 2 ^ l % 2 ^ w * 2 ^ l = 2 ^ l * (v / 2 ^ l % 2 ^ w) := Nat.mul_comm _ _
    rw [h4]
    rw [Nat.mul_add] at h3
    omega
  rw [hsplit]
  unfold bits
  have h5 : v % 2 ^ l + 2 ^ l * (2 ^ w * (v / 2 ^ l / 2 ^ w)) + x % 2 ^ w * 2 ^ l =
      v % 2 ^ l + 2 ^ l * (2 ^ w * (v / 2 ^ l / 2 ^ w) + x % 2 ^ w) := by
    rw [Nat.mul_add, Nat.mul_comm (x % 2 ^ w)]; omega
  rw [h5, Nat.add_mul_div_left _ _ (Nat.two_pow_pos l), Nat.div_eq_of_lt (Nat.mod_lt v (Nat.two_pow_pos l)), Nat.zero_add,
    Nat.mul_add_mod, Nat.mod_mod]

theorem putBits_lt {v l w x : Nat} (hv : v < 2 ^ 64) (hw : l + w ≤ 64) : putBits v l w x < 2 ^ 64 := by
  have h1 := Nat.div_add_mod v (2 ^ l)
  have h2 := Nat.div_add_mod (v / 2 ^ l) (2 ^ w)
  obtain ⟨k, hk⟩ : ∃ k, 64 = l + w + k := ⟨64 - (l + w), by omega⟩
  have h64 : (2 : Nat) ^ 64 = 2 ^ l * (2 ^ w * 2 ^ k) := by rw [hk, Nat.pow_add, Nat.pow_add, Nat.mul_assoc]
  have hq : v / 2 ^ l / 2 ^ w < 2 ^ k := by
    rw [Nat.div_lt_iff_lt_mul (Nat.two_pow_pos w), Nat.div_lt_iff_lt_mul (Nat.two_pow_pos l)]
    calc v < 2 ^ 64 := hv
      _ = 2 ^ k * 2 ^ w * 2 ^ l := by rw [h64]; ring
  have hm : v % 2 ^ l < 2 ^ l := Nat.mod_lt _ (Nat.two_pow_pos l)
  have hx : x % 2 ^ w < 2 ^ w := Nat.mod_lt _ (Nat.two_pow_pos w)
  have hb : v - bits v l w * 2 ^ l = v % 2 ^ l + 2 ^ l * (2 ^ w * (v / 2 ^ l / 2 ^ w)) := by
    have h3 : v = 2 ^ l * (2 ^ w * (v / 2 ^ l / 2 ^ w) + v / 2 ^ l % 2 ^ w) + v % 2 ^ l := by rw [h2]; exact h1.symm
    unfold bits
    have h4 : v / 2 ^ l % 2 ^ w * 2 ^ l = 2 ^ l * (v / 2 ^ l % 2 ^ w) := Nat.mul_comm _ _
    rw [h4]
    rw [Nat.mul_add] at h3
    omega
  unfold putBits
  rw [hb, h64]
  have h6 : 2 ^ w * (v / 2 ^ l / 2 ^ w) + x % 2 ^ w + 1 ≤ 2 ^ w * 2 ^ k := by
    calc 2 ^ w * (v / 2 ^ l / 2 ^ w) + x % 2 ^ w + 1 ≤ 2 ^ w * (v / 2 ^ l / 2 ^ w) + 2 ^ w := by omega
      _ = 2 ^ w * (v / 2 ^ l / 2 ^ w + 1) := by ring
      _ ≤ 2 ^ w * 2 ^ k := Nat.mul_le_mul_left _ hq
  calc v % 2 ^ l + 2 ^ l * (2 ^ w * (v / 2 ^ l / 2 ^ w)) + x % 2 ^ w * 2 ^ l
      < 2 ^ l + 2 ^ l * (2 ^ w * (v / 2 ^ l / 2 ^ w)) + x % 2 ^ w * 2 ^ l := by omega
    _ = 2 ^ l * (2 ^ w * (v / 2 ^ l / 2 ^ w) + x % 2 ^ w + 1) := by ring
    _ ≤ 2 ^ l * (2 ^ w * 2 ^ k) := Nat.mul_le_mul_left _ h6

/-- A register field just written reads the low bits of the value written. -/
theorem State.rd_wr_same (f : Fld) (v : Nat) (hs : Tbl.sorted s.regs = true) (hf : f.lsb + f.width ≤ 64) :
    (s.wr f v).rd f = v % 2 ^ f.width := by
  unfold State.rd State.regWord State.wr
  rw [Tbl.getD_setD_same _ _ _ _]
  have hlt : putBits (s.regWord f) f.lsb f.width v < 2 ^ 64 := putBits_lt (BitVec.isLt _) hf
  rw [BitVec.toNat_ofNat, Nat.mod_eq_of_lt hlt, bits_putBits_same]

/-- A field of another register reads what it read. -/
theorem State.rd_wr_other (f g : Fld) (v : Nat) (h : g.addr ≠ f.addr) : (s.wr f v).rd g = s.rd g := by
  unfold State.rd State.regWord State.wr
  rw [Tbl.getD_setD_other _ _ _ _ h]

theorem State.on_wr_other (f g : Fld) (v : Nat) (h : g.addr ≠ f.addr) : (s.wr f v).on g = s.on g := by
  unfold State.on
  rw [State.rd_wr_other s f g v h]

end Sys2Proof.Machine
end

