-- ==== Sys2Proof/Laws/Keeps.lean ====
section
/-!
SUPPORT. The invariant under the named updates: each keeps it and leaves the queue of commands as it is. Every later file of these laws says the same
of one module's operations.
-/
namespace Sys2Proof.Machine

/-- The invariant holds and the queue is `p`. -/
def Keeps (p : List Instr) (s : State) : Prop := s.inv = true ∧ s.pending = p

/-- An answer is a next state that keeps the invariant and the queue. -/
def Goes (p : List Instr) (o : Host.Outcome State Fault Refusal) : Prop := ∃ t, o = .next t ∧ Keeps p t

theorem goes_next {p : List Instr} {t : State} (h : Keeps p t) : Goes p (.next t) := ⟨t, rfl, h⟩

variable {p : List Instr} {s : State}

theorem ite_keeps {c : Prop} [Decidable c] {a b : State} (ha : Keeps p a) (hb : Keeps p b) : Keeps p (if c then a else b) := by
  split
  · exact ha
  · exact hb

theorem ite_fst_keeps {α : Type} {c : Prop} [Decidable c] {a b : State × α} (ha : Keeps p a.1) (hb : Keeps p b.1) : Keeps p (if c then a else b).1 := by
  split
  · exact ha
  · exact hb

/-- The state of a pair that was taken apart. -/
theorem fst_keeps {α : Type} {x : State × α} {a : State} {b : α} (e : x = (a, b)) (h : Keeps p x.1) : Keeps p a := by
  rw [e] at h
  exact h

/-- A state that may be absent keeps the invariant where it is present. -/
structure KeepsO (p : List Instr) (o : Option State) : Prop where
  keep : ∀ t, o = some t → Keeps p t

theorem some_keepsO {t : State} (h : Keeps p t) : KeepsO p (some t) := by
  constructor
  intro u e
  cases e
  exact h

theorem none_keepsO : KeepsO p none := by
  constructor
  intro u e
  cases e

theorem ite_keepsO {c : Prop} [Decidable c] {a b : Option State} (ha : KeepsO p a) (hb : KeepsO p b) : KeepsO p (if c then a else b) := by
  split
  · exact ha
  · exact hb

theorem map_keepsO {o : Option State} {f : State → State} (h : KeepsO p o) (hf : ∀ t, Keeps p t → Keeps p (f t)) : KeepsO p (o.map f) := by
  constructor
  intro u e
  cases o with
  | none => cases e
  | some t =>
    cases e
    exact hf t (h.keep t rfl)

theorem mapOf_keepsO {α : Type} {o : Option α} {f : α → State} (hf : ∀ t, Keeps p (f t)) : KeepsO p (o.map f) := by
  constructor
  intro u e
  cases o with
  | none => cases e
  | some t =>
    cases e
    exact hf t

theorem getD_keeps {o : Option State} {d : State} (h : KeepsO p o) (hd : Keeps p d) : Keeps p (o.getD d) := by
  cases o with
  | none => exact hd
  | some t => exact h.keep t rfl

theorem opt_keeps {o : Option State} {t : State} (e : o = some t) (h : KeepsO p o) : Keeps p t := h.keep t e

theorem ite_goes {c : Prop} [Decidable c] {a b : Host.Outcome State Fault Refusal} (ha : Goes p a) (hb : Goes p b) : Goes p (if c then a else b) := by
  split
  · exact ha
  · exact hb

theorem foldl_keeps {α : Type} {l : List α} {f : State → α → State} (h : Keeps p s) (hf : ∀ s a, Keeps p s → Keeps p (f s a)) :
    Keeps p (l.foldl f s) := by
  induction l generalizing s with
  | nil => exact h
  | cons a r ih => exact ih (hf s a h)

theorem foldl_fst_keeps {α β : Type} {l : List α} {x : State × β} {f : State × β → α → State × β} (h : Keeps p x.1)
    (hf : ∀ x a, Keeps p x.1 → Keeps p (f x a).1) : Keeps p (l.foldl f x).1 := by
  induction l generalizing x with
  | nil => exact h
  | cons a r ih => exact ih (hf x a h)

theorem each_keeps {α : Type} {l : List α} {f : State → α → State} (h : Keeps p s) (hf : ∀ s a, Keeps p s → Keeps p (f s a)) :
    Keeps p (s.each l f) := foldl_keeps h hf

theorem when_keeps {c : Bool} {f : State → State} (h : Keeps p s) (hf : ∀ s, Keeps p s → Keeps p (f s)) : Keeps p (s.when c f) := by
  unfold State.when
  split
  · exact hf s h
  · exact h

theorem after_keeps {f : State → Host.Outcome State Fault Refusal} (h : Keeps p s) (hf : ∀ s, Keeps p s → Goes p (f s)) : Keeps p (s.after f) := by
  obtain ⟨t, e, ht⟩ := hf s h
  unfold State.after
  rw [e]
  exact ht

theorem keeps_parts (h : Keeps p s) : Tbl.sorted s.regs = true ∧ Tbl.sorted s.seqs = true ∧ (s.seqs.all fun e => e.2.ok) = true ∧
    Tbl.wf 0xFF s.clo.nor = true ∧ s.atc.ring.length ≤ 8192 ∧ s.pending = p := by
  obtain ⟨h, hp⟩ := h
  simp only [State.inv, Bool.and_eq_true, decide_eq_true_eq] at h
  exact ⟨h.1.1.1.1, h.1.1.1.2, h.1.1.2, h.1.2, h.2, hp⟩

theorem keeps_of_parts (h1 : Tbl.sorted s.regs = true) (h2 : Tbl.sorted s.seqs = true) (h3 : (s.seqs.all fun e => e.2.ok) = true)
    (h4 : Tbl.wf 0xFF s.clo.nor = true) (h5 : s.atc.ring.length ≤ 8192) (h6 : s.pending = p) : Keeps p s := by
  refine ⟨?_, h6⟩
  simp only [State.inv, Bool.and_eq_true, decide_eq_true_eq]
  exact ⟨⟨⟨⟨h1, h2⟩, h3⟩, h4⟩, h5⟩

theorem wr_keeps {f : Fld} {v : Nat} (h : Keeps p s) : Keeps p (s.wr f v) := by
  obtain ⟨h1, h2, h3, h4, h5, h6⟩ := keeps_parts h
  exact keeps_of_parts (Tbl.sorted_setD _ _ _ _ h1) h2 h3 h4 h5 h6

theorem set1_keeps {f : Fld} (h : Keeps p s) : Keeps p (s.set1 f) := wr_keeps h
theorem clr1_keeps {f : Fld} (h : Keeps p s) : Keeps p (s.clr1 f) := wr_keeps h
theorem bump_keeps {f : Fld} {k : Nat} (h : Keeps p s) : Keeps p (s.bump f k) := wr_keeps h
theorem modPwr_keeps {f : Power → Power} (h : Keeps p s) : Keeps p (s.modPwr f) := h
theorem modChm_keeps {f : Chimney → Chimney} (h : Keeps p s) : Keeps p (s.modChm f) := h
theorem modStd_keeps {f : Study → Study} (h : Keeps p s) : Keeps p (s.modStd f) := h
theorem modPorch_keeps {f : Porch → Porch} (h : Keeps p s) : Keeps p (s.modPorch f) := h
theorem modHall_keeps {f : Hall → Hall} (h : Keeps p s) : Keeps p (s.modHall f) := h
theorem modNvm_keeps {f : Nvm → Nvm} (h : Keeps p s) : Keeps p (s.modNvm f) := h
theorem modPan_keeps {f : Pantry → Pantry} (h : Keeps p s) : Keeps p (s.modPan f) := h
theorem modLdr_keeps {f : Larder → Larder} (h : Keeps p s) : Keeps p (s.modLdr f) := h
theorem modCel_keeps {f : Cellar → Cellar} (h : Keeps p s) : Keeps p (s.modCel f) := h
theorem modLnd_keeps {f : Laundry → Laundry} (h : Keeps p s) : Keeps p (s.modLnd f) := h
theorem modScu_keeps {f : Scullery → Scullery} (h : Keeps p s) : Keeps p (s.modScu f) := h
theorem modBsm_keeps {f : Basement → Basement} (h : Keeps p s) : Keeps p (s.modBsm f) := h
theorem modStg_keeps {f : Strongroom → Strongroom} (h : Keeps p s) : Keeps p (s.modStg f) := h
theorem modSta_keeps {f : Stair → Stair} (h : Keeps p s) : Keeps p (s.modSta f) := h
theorem modFab_keeps {f : Fabric → Fabric} (h : Keeps p s) : Keeps p (s.modFab f) := h
theorem modJtag_keeps {f : Jtag → Jtag} (h : Keeps p s) : Keeps p (s.modJtag f) := h
theorem emit_keeps {o : Out} (h : Keeps p s) : Keeps p (s.emit o) := h
theorem tick_keeps (h : Keeps p s) : Keeps p s.tick := h
theorem ticks_keeps {n : Nat} (h : Keeps p s) : Keeps p (s.ticks n) := h

theorem modAtc_keeps {f : Attic → Attic} (h : Keeps p s) (hf : ∀ a, a.ring.length ≤ 8192 → (f a).ring.length ≤ 8192) : Keeps p (s.modAtc f) := by
  obtain ⟨h1, h2, h3, h4, h5, h6⟩ := keeps_parts h
  exact keeps_of_parts h1 h2 h3 h4 (hf _ h5) h6

theorem modClo_keeps {f : Closet → Closet} (h : Keeps p s) (hf : ∀ c, Tbl.wf 0xFF c.nor = true → Tbl.wf 0xFF (f c).nor = true) :
    Keeps p (s.modClo f) := by
  obtain ⟨h1, h2, h3, h4, h5, h6⟩ := keeps_parts h
  exact keeps_of_parts h1 h2 h3 (hf _ h4) h5 h6

/-! ## Sequencers -/

theorem seq_ok {n : Nat} (h : (s.seqs.all fun e => e.2.ok) = true) : (s.seq n).ok = true := by
  have key : ∀ t : Tbl Seq, (t.all fun e => e.2.ok) = true → (Tbl.getD t n {}).ok = true := by
    intro t
    induction t with
    | nil => intro _; show ({} : Seq).ok = true; decide
    | cons e r ih =>
      obtain ⟨j, q⟩ := e
      intro ht
      simp only [List.all_cons, Bool.and_eq_true] at ht
      simp only [Tbl.getD, Tbl.find] at ih ⊢
      split
      · exact ht.1
      · exact ih ht.2
  exact key s.seqs h

theorem modSeq_keeps {n : Nat} {f : Seq → Seq} (h : Keeps p s) (hf : ∀ q, q.ok = true → (f q).ok = true) : Keeps p (s.modSeq n f) := by
  obtain ⟨h1, h2, h3, h4, h5, h6⟩ := keeps_parts h
  refine keeps_of_parts h1 (Tbl.sorted_setD _ _ _ _ h2) ?_ h4 h5 h6
  exact Tbl.all_setD _ _ _ _ _ h3 (hf _ (seq_ok h3))

/-- The same where the update is known to act on the sequencer as it stands. -/
theorem modSeq_at_keeps {n : Nat} {f : Seq → Seq} (h : Keeps p s) (hf : (s.seq n).ok = true → (f (s.seq n)).ok = true) : Keeps p (s.modSeq n f) := by
  obtain ⟨h1, h2, h3, h4, h5, h6⟩ := keeps_parts h
  refine keeps_of_parts h1 (Tbl.sorted_setD _ _ _ _ h2) ?_ h4 h5 h6
  exact Tbl.all_setD _ _ _ _ _ h3 (hf (seq_ok h3))

theorem ok_parts {q : Seq} : q.ok = true ↔ q.rstack.length ≤ 8 ∧ q.evq.length ≤ 64 ∧ Tbl.wf 0 q.ram = true ∧ Tbl.wf 0 q.g = true := by
  unfold Seq.ok
  simp only [Bool.and_eq_true, decide_eq_true_eq]
  tauto

/-- A sequencer whose return stack and queue stay, or whose stack is emptied, and whose memories stay canonical. -/
theorem ok_mem {q q' : Seq} (h : q.ok = true) (h1 : q'.rstack = q.rstack ∨ q'.rstack = []) (h2 : q'.evq = q.evq)
    (h3 : Tbl.wf 0 q.ram = true → Tbl.wf 0 q'.ram = true) (h4 : Tbl.wf 0 q.g = true → Tbl.wf 0 q'.g = true) : q'.ok = true := by
  obtain ⟨k1, k2, k3, k4⟩ := ok_parts.1 h
  refine ok_parts.2 ⟨?_, ?_, h3 k3, h4 k4⟩
  · rcases h1 with h1 | h1 <;> rw [h1]
    · exact k1
    · exact Nat.zero_le 8
  · rw [h2]; exact k2

theorem setReg_ok {q : Seq} {r : Nat} {v : U64} (h : q.ok = true) : (q.setReg r v).ok = true := by
  obtain ⟨h1, h2, h3, h4⟩ := ok_parts.1 h
  unfold Seq.setReg
  split
  · exact h
  · exact ok_parts.2 ⟨h1, h2, h3, Tbl.wf_setD _ _ _ _ h4⟩

theorem refill_ok {q : Seq} (h : q.ok = true) : q.refill.ok = true := by
  obtain ⟨h1, h2, h3, h4⟩ := ok_parts.1 h
  refine ok_parts.2 ⟨h1, ?_, h3, h4⟩
  simp only [Seq.refill, List.length_append, List.length_take]
  omega

theorem takeFirst_length {α : Type} {f : α → Bool} {l : List α} {a : α} {r : List α} (h : takeFirst f l = some (a, r)) : r.length + 1 = l.length := by
  induction l generalizing a r with
  | nil => simp [takeFirst] at h
  | cons b t ih =>
    simp only [takeFirst] at h
    split at h
    · simp only [Option.some.injEq, Prod.mk.injEq] at h
      simp [h.2]
    · cases hr : takeFirst f t with
      | none => simp [hr] at h
      | some x =>
        obtain ⟨y, u⟩ := x
        simp only [hr, Option.map_some, Option.some.injEq, Prod.mk.injEq] at h
        have := ih hr
        rw [← h.2]
        simp [this]

theorem deliver_ok {q : Seq} {n : Nat} (h : q.ok = true) : (q.deliver n).ok = true := by
  unfold Seq.deliver
  split
  · exact h
  · split
    · exact h
    · rename_i w hw e rest hr
      obtain ⟨h1, h2, h3, h4⟩ := ok_parts.1 h
      have hl := takeFirst_length hr
      refine refill_ok (setReg_ok (ok_parts.2 ⟨h1, ?_, h3, h4⟩))
      show rest.length ≤ 64
      omega

theorem raise_keeps {n : Nat} {e : U64} (h : Keeps p s) : Keeps p (raise s n e) := by
  refine modSeq_keeps h fun q hq => deliver_ok ?_
  obtain ⟨h1, h2, h3, h4⟩ := ok_parts.1 hq
  split
  · rename_i hc
    simp only [Bool.and_eq_true, decide_eq_true_eq] at hc
    refine ok_parts.2 ⟨h1, ?_, h3, h4⟩
    simp only [List.length_append, List.length_cons, List.length_nil]
    omega
  · exact ok_parts.2 ⟨h1, h2, h3, h4⟩

/-! ## The Attic -/

theorem lastN_length {α : Type} (n : Nat) (l : List α) : (lastN n l).length ≤ n := by
  unfold lastN
  rw [List.length_drop]
  omega

theorem appendRec_keeps {r : AtticRec} (h : Keeps p s) : Keeps p (appendRec s r) := by
  unfold appendRec
  apply modAtc_keeps h
  intro a _
  apply lastN_length

theorem post_keeps {code sev src origin p0 p1 p2 p3 : Nat} (h : Keeps p s) : Keeps p (post s code sev src origin p0 p1 p2 p3) := by
  unfold post
  split
  · exact modAtc_keeps h fun _ ha => ha
  · exact appendRec_keeps h

theorem trap_keeps {n cause badaddr epc : Nat} (h : Keeps p s) : Keeps p (trap s n cause badaddr epc) := by
  unfold trap
  refine ite_keeps (ite_keeps ?_ ?_) ?_
  · exact raise_keeps (post_keeps (modSeq_keeps (set1_keeps (modSeq_keeps h fun _ hq => hq)) fun _ hq => hq))
  · exact modSeq_keeps h fun _ hq => hq
  · exact modSeq_keeps h fun _ hq => hq

theorem returnFromTrap_keeps {n : Nat} (h : Keeps p s) : Keeps p (returnFromTrap s n) := modSeq_keeps h fun _ hq => hq

theorem wake_keeps {bit : Nat} (h : Keeps p s) : Keeps p (wake s bit) := by
  unfold wake
  refine ite_keeps (ite_keeps (modSeq_keeps (modStd_keeps (modPwr_keeps (wr_keeps (wr_keeps h)))) fun q hq => ?_) (wr_keeps h)) h
  split
  · exact hq
  · exact setReg_ok hq

end Sys2Proof.Machine
end

