-- ==== Sys2Proof/Laws/KeepDie.lean ====
section
/-!
SUPPORT. The invariant under the operations and commands of Die: each keeps it and the queue (Keeps); a command answers a next state (Goes).
-/
set_option linter.unusedTactic false
set_option linter.unreachableTactic false
set_option linter.unusedVariables false
namespace Sys2Proof.Machine

theorem modPort_keeps {pq : List Instr} {s : State} {n : Nat} {f : OtPort → OtPort} (hk : Keeps pq s) :
    Keeps pq (State.modPort s n f) := by
  unfold State.modPort
  repeat' (first
    | intro _
    | with_reducible assumption
    | with_reducible apply modCel_keeps
    | with_reducible apply ite_keeps
    | with_reducible apply ite_fst_keeps
    | ((with_reducible show Seq.ok _ = true); assumption)
    | ((with_reducible show Tbl.wf _ _ = true); assumption)
    | ((with_reducible show List.length _ ≤ _); assumption)
    | split
    | dsimp only)

theorem setDescState_keeps {pq : List Instr} {s : State} {n i st : Nat} (hk : Keeps pq s) :
    Keeps pq (setDescState s n i st) := by
  unfold setDescState
  repeat' (first
    | intro _
    | with_reducible assumption
    | with_reducible apply modSeq_keeps
    | with_reducible apply setReg_ok
    | with_reducible apply refill_ok
    | with_reducible apply deliver_ok
    | with_reducible apply ite_keeps
    | with_reducible apply ite_fst_keeps
    | ((with_reducible show Seq.ok _ = true); assumption)
    | ((with_reducible show Tbl.wf _ _ = true); assumption)
    | ((with_reducible show List.length _ ≤ _); assumption)
    | refine ok_mem (by assumption) (by first | exact Or.inl rfl | exact Or.inr rfl) (by rfl) ?_ ?_
    | with_reducible apply Tbl.wf_writeBytes
    | with_reducible apply Tbl.wf_setD
    | with_reducible apply Tbl.wf_filter
    | with_reducible apply Tbl.wf_foldl
    | exact Tbl.wf_nil _
    | split
    | dsimp only)

theorem setDescArg_keeps {pq : List Instr} {s : State} {n i v : Nat} (hk : Keeps pq s) :
    Keeps pq (setDescArg s n i v) := by
  unfold setDescArg
  repeat' (first
    | intro _
    | with_reducible assumption
    | with_reducible apply modSeq_keeps
    | with_reducible apply setReg_ok
    | with_reducible apply refill_ok
    | with_reducible apply deliver_ok
    | with_reducible apply ite_keeps
    | with_reducible apply ite_fst_keeps
    | ((with_reducible show Seq.ok _ = true); assumption)
    | ((with_reducible show Tbl.wf _ _ = true); assumption)
    | ((with_reducible show List.length _ ≤ _); assumption)
    | refine ok_mem (by assumption) (by first | exact Or.inl rfl | exact Or.inr rfl) (by rfl) ?_ ?_
    | with_reducible apply Tbl.wf_writeBytes
    | with_reducible apply Tbl.wf_setD
    | with_reducible apply Tbl.wf_filter
    | with_reducible apply Tbl.wf_foldl
    | exact Tbl.wf_nil _
    | split
    | dsimp only)

theorem withdraw_keeps {pq : List Instr} {s : State} {n i : Nat} (hk : Keeps pq s) :
    Keeps pq (withdraw s n i) := by
  unfold withdraw
  repeat' (first
    | intro _
    | with_reducible assumption
    | with_reducible apply modPort_keeps
    | with_reducible apply modSeq_keeps
    | with_reducible apply setReg_ok
    | with_reducible apply refill_ok
    | with_reducible apply deliver_ok
    | with_reducible apply ite_keeps
    | with_reducible apply ite_fst_keeps
    | ((with_reducible show Seq.ok _ = true); assumption)
    | ((with_reducible show Tbl.wf _ _ = true); assumption)
    | ((with_reducible show List.length _ ≤ _); assumption)
    | refine ok_mem (by assumption) (by first | exact Or.inl rfl | exact Or.inr rfl) (by rfl) ?_ ?_
    | with_reducible apply Tbl.wf_writeBytes
    | with_reducible apply Tbl.wf_setD
    | with_reducible apply Tbl.wf_filter
    | with_reducible apply Tbl.wf_foldl
    | exact Tbl.wf_nil _
    | split
    | dsimp only)

theorem leaveDie_keeps {pq : List Instr} {s : State} {n i : Nat} (hk : Keeps pq s) :
    Keeps pq (leaveDie s n i) := by
  unfold leaveDie
  repeat' (first
    | intro _
    | with_reducible assumption
    | with_reducible apply modPort_keeps
    | with_reducible apply ite_keeps
    | with_reducible apply ite_fst_keeps
    | ((with_reducible show Seq.ok _ = true); assumption)
    | ((with_reducible show Tbl.wf _ _ = true); assumption)
    | ((with_reducible show List.length _ ≤ _); assumption)
    | split
    | dsimp only)

theorem releaseDesc_keeps {pq : List Instr} {s : State} {n i : Nat} (hk : Keeps pq s) :
    Keeps pq (releaseDesc s n i) := by
  unfold releaseDesc
  repeat' (first
    | intro _
    | with_reducible assumption
    | with_reducible apply leaveDie_keeps
    | with_reducible apply modSeq_keeps
    | with_reducible apply setDescState_keeps
    | with_reducible apply withdraw_keeps
    | with_reducible apply setReg_ok
    | with_reducible apply refill_ok
    | with_reducible apply deliver_ok
    | with_reducible apply ite_keeps
    | with_reducible apply ite_fst_keeps
    | ((with_reducible show Seq.ok _ = true); assumption)
    | ((with_reducible show Tbl.wf _ _ = true); assumption)
    | ((with_reducible show List.length _ ≤ _); assumption)
    | refine ok_mem (by assumption) (by first | exact Or.inl rfl | exact Or.inr rfl) (by rfl) ?_ ?_
    | with_reducible apply Tbl.wf_writeBytes
    | with_reducible apply Tbl.wf_setD
    | with_reducible apply Tbl.wf_filter
    | with_reducible apply Tbl.wf_foldl
    | exact Tbl.wf_nil _
    | split
    | dsimp only)

theorem freeDesc_keeps {pq : List Instr} {s : State} {n i : Nat} (hk : Keeps pq s) :
    Keeps pq (freeDesc s n i) := by
  unfold freeDesc
  repeat' (first
    | intro _
    | with_reducible assumption
    | with_reducible apply modSeq_keeps
    | with_reducible apply setDescState_keeps
    | with_reducible apply setReg_ok
    | with_reducible apply refill_ok
    | with_reducible apply deliver_ok
    | with_reducible apply ite_keeps
    | with_reducible apply ite_fst_keeps
    | ((with_reducible show Seq.ok _ = true); assumption)
    | ((with_reducible show Tbl.wf _ _ = true); assumption)
    | ((with_reducible show List.length _ ≤ _); assumption)
    | refine ok_mem (by assumption) (by first | exact Or.inl rfl | exact Or.inr rfl) (by rfl) ?_ ?_
    | with_reducible apply Tbl.wf_writeBytes
    | with_reducible apply Tbl.wf_setD
    | with_reducible apply Tbl.wf_filter
    | with_reducible apply Tbl.wf_foldl
    | exact Tbl.wf_nil _
    | split
    | dsimp only)

theorem offer_keeps {pq : List Instr} {s : State} {n : Nat} {op : DieOp} (hk : Keeps pq s) :
    Keeps pq (offer s n op) := by
  unfold offer
  repeat' (first
    | intro _
    | with_reducible assumption
    | with_reducible apply modCel_keeps
    | with_reducible apply modHall_keeps
    | with_reducible apply modPort_keeps
    | with_reducible apply ite_keeps
    | with_reducible apply ite_fst_keeps
    | ((with_reducible show Seq.ok _ = true); assumption)
    | ((with_reducible show Tbl.wf _ _ = true); assumption)
    | ((with_reducible show List.length _ ≤ _); assumption)
    | split
    | dsimp only)

theorem chargeDieTime_keeps {pq : List Instr} {s : State} {n : Nat} {op : DieOp} {us : Nat} (hk : Keeps pq s) :
    Keeps pq (chargeDieTime s n op us) := by
  unfold chargeDieTime
  repeat' (first
    | intro _
    | with_reducible assumption
    | with_reducible apply modHall_keeps
    | with_reducible apply ite_keeps
    | with_reducible apply ite_fst_keeps
    | ((with_reducible show Seq.ok _ = true); assumption)
    | ((with_reducible show Tbl.wf _ _ = true); assumption)
    | ((with_reducible show List.length _ ≤ _); assumption)
    | split
    | dsimp only)

end Sys2Proof.Machine
end

