-- ==== Sys2Proof/Laws/KeepMap.lean ====
section
/-!
SUPPORT. The invariant under the operations and commands of Map: each keeps it and the queue (Keeps); a command answers a next state (Goes).
-/
set_option linter.unusedTactic false
set_option linter.unreachableTactic false
set_option linter.unusedVariables false
namespace Sys2Proof.Machine

theorem closeBatch_keeps {pq : List Instr} {s : State}  (hk : Keeps pq s) :
    Keeps pq (closeBatch s) := by
  unfold closeBatch
  repeat' (first
    | intro _
    | with_reducible assumption
    | with_reducible apply modPan_keeps
    | with_reducible apply ite_keeps
    | with_reducible apply ite_fst_keeps
    | ((with_reducible show Seq.ok _ = true); assumption)
    | ((with_reducible show Tbl.wf _ _ = true); assumption)
    | ((with_reducible show List.length _ ≤ _); assumption)
    | split
    | dsimp only)

theorem jAppend_keeps {pq : List Instr} {s : State} {r : JRec} (hk : Keeps pq s) :
    Keeps pq (jAppend s r) := by
  unfold jAppend
  repeat' (first
    | intro _
    | with_reducible assumption
    | with_reducible apply closeBatch_keeps
    | with_reducible apply modPan_keeps
    | with_reducible apply ite_keeps
    | with_reducible apply ite_fst_keeps
    | ((with_reducible show Seq.ok _ = true); assumption)
    | ((with_reducible show Tbl.wf _ _ = true); assumption)
    | ((with_reducible show List.length _ ≤ _); assumption)
    | split
    | dsimp only)

theorem touchLine_keeps {pq : List Instr} {s : State} {a : Nat} {write : Bool} (hk : Keeps pq s) :
    Keeps pq (touchLine s a write).1 := by
  unfold touchLine
  repeat' (first
    | intro _
    | with_reducible assumption
    | with_reducible apply modPan_keeps
    | with_reducible apply ite_keeps
    | with_reducible apply ite_fst_keeps
    | ((with_reducible show Seq.ok _ = true); assumption)
    | ((with_reducible show Tbl.wf _ _ = true); assumption)
    | ((with_reducible show List.length _ ≤ _); assumption)
    | split
    | dsimp only)

theorem lookupLines_keeps {pq : List Instr} {s : State} {ns u : Nat} (hk : Keeps pq s) :
    Keeps pq (lookupLines s ns u).1 := by
  unfold lookupLines
  repeat' (first
    | intro _
    | with_reducible assumption
    | with_reducible apply touchLine_keeps
    | with_reducible apply wr_keeps
    | with_reducible refine fst_keeps (by assumption) ?_
    | with_reducible apply ite_keeps
    | with_reducible apply ite_fst_keeps
    | ((with_reducible show Seq.ok _ = true); assumption)
    | ((with_reducible show Tbl.wf _ _ = true); assumption)
    | ((with_reducible show List.length _ ≤ _); assumption)
    | split
    | dsimp only)

theorem noteLedger_keeps {pq : List Instr} {s : State} {r : JRec} (hk : Keeps pq s) :
    Keeps pq (noteLedger s r) := by
  unfold noteLedger
  repeat' (first
    | intro _
    | with_reducible assumption
    | with_reducible apply modScu_keeps
    | with_reducible apply ite_keeps
    | with_reducible apply ite_fst_keeps
    | ((with_reducible show Seq.ok _ = true); assumption)
    | ((with_reducible show Tbl.wf _ _ = true); assumption)
    | ((with_reducible show List.length _ ≤ _); assumption)
    | split
    | dsimp only)

theorem mapChange_keeps {pq : List Instr} {s : State} {r : JRec} (hk : Keeps pq s) :
    Keeps pq (mapChange s r) := by
  unfold mapChange
  repeat' (first
    | intro _
    | with_reducible assumption
    | with_reducible apply jAppend_keeps
    | with_reducible apply modPan_keeps
    | with_reducible apply noteLedger_keeps
    | with_reducible apply touchLine_keeps
    | with_reducible refine fst_keeps (by assumption) ?_
    | with_reducible apply ite_keeps
    | with_reducible apply ite_fst_keeps
    | ((with_reducible show Seq.ok _ = true); assumption)
    | ((with_reducible show Tbl.wf _ _ = true); assumption)
    | ((with_reducible show List.length _ ≤ _); assumption)
    | split
    | dsimp only)

theorem mapChanges_keeps {pq : List Instr} {s : State} {l : List JRec} (hk : Keeps pq s) :
    Keeps pq (mapChanges s l) := by
  unfold mapChanges
  repeat' (first
    | intro _
    | with_reducible assumption
    | with_reducible apply each_keeps
    | with_reducible apply mapChange_keeps
    | with_reducible apply ite_keeps
    | with_reducible apply ite_fst_keeps
    | ((with_reducible show Seq.ok _ = true); assumption)
    | ((with_reducible show Tbl.wf _ _ = true); assumption)
    | ((with_reducible show List.length _ ≤ _); assumption)
    | split
    | dsimp only)

theorem dropOverlay_keeps {pq : List Instr} {s : State} {ns u n : Nat} (hk : Keeps pq s) :
    Keeps pq (dropOverlay s ns u n) := by
  unfold dropOverlay
  repeat' (first
    | intro _
    | with_reducible assumption
    | with_reducible apply modPan_keeps
    | with_reducible apply ite_keeps
    | with_reducible apply ite_fst_keeps
    | ((with_reducible show Seq.ok _ = true); assumption)
    | ((with_reducible show Tbl.wf _ _ = true); assumption)
    | ((with_reducible show List.length _ ≤ _); assumption)
    | split
    | dsimp only)

theorem unpark_keeps {pq : List Instr} : ∀ (k : Nat) {s : State} , Keeps pq s → Keeps pq (unpark k s ) := by
  intro k
  induction k with
  | zero =>
    intro s  hk
    unfold unpark
    repeat' (first
    | intro _
    | with_reducible assumption
    | with_reducible apply modPan_keeps
    | with_reducible apply ite_keeps
    | with_reducible apply ite_fst_keeps
    | ((with_reducible show Seq.ok _ = true); assumption)
    | ((with_reducible show Tbl.wf _ _ = true); assumption)
    | ((with_reducible show List.length _ ≤ _); assumption)
    | split
    | dsimp only)
  | succ k ih =>
    intro s  hk
    unfold unpark
    repeat' (first
    | intro _
    | with_reducible assumption
    | with_reducible apply ih
    | intro _
    | with_reducible assumption
    | with_reducible apply modPan_keeps
    | with_reducible apply ite_keeps
    | with_reducible apply ite_fst_keeps
    | ((with_reducible show Seq.ok _ = true); assumption)
    | ((with_reducible show Tbl.wf _ _ = true); assumption)
    | ((with_reducible show List.length _ ≤ _); assumption)
    | split
    | dsimp only)

theorem panFlags_keeps {pq : List Instr} {s : State}  (hk : Keeps pq s) :
    Keeps pq (panFlags s) := by
  unfold panFlags
  repeat' (first
    | intro _
    | with_reducible assumption
    | with_reducible apply modPan_keeps
    | with_reducible apply unpark_keeps
    | with_reducible apply ite_keeps
    | with_reducible apply ite_fst_keeps
    | ((with_reducible show Seq.ok _ = true); assumption)
    | ((with_reducible show Tbl.wf _ _ = true); assumption)
    | ((with_reducible show List.length _ ≤ _); assumption)
    | split
    | dsimp only)

end Sys2Proof.Machine
end

