-- ==== Sys2Proof/Laws/KeepSuites.lean ====
section
/-!
SUPPORT. The invariant under the operations and commands of Suites: each keeps it and the queue (Keeps); a command answers a next state (Goes).
-/
set_option linter.unusedTactic false
set_option linter.unreachableTactic false
set_option linter.unusedVariables false
namespace Sys2Proof.Machine

theorem modSuite_keeps {pq : List Instr} {s : State} {k : Nat} {f : Suite → Suite} (hk : Keeps pq s) :
    Keeps pq (State.modSuite s k f) := by
  unfold State.modSuite
  repeat' (first
    | intro _
    | with_reducible assumption
    | with_reducible apply modScu_keeps
    | with_reducible apply ite_keeps
    | with_reducible apply ite_fst_keeps
    | ((with_reducible show Seq.ok _ = true); assumption)
    | ((with_reducible show Tbl.wf _ _ = true); assumption)
    | ((with_reducible show List.length _ ≤ _); assumption)
    | split
    | dsimp only)

theorem countRead_keeps {pq : List Instr} {s : State} {k m : Nat} {by_ : Nat} (hk : Keeps pq s) :
    Keeps pq (countRead s k m by_) := by
  unfold countRead
  repeat' (first
    | intro _
    | with_reducible assumption
    | with_reducible apply modSuite_keeps
    | with_reducible apply ite_keeps
    | with_reducible apply ite_fst_keeps
    | ((with_reducible show Seq.ok _ = true); assumption)
    | ((with_reducible show Tbl.wf _ _ = true); assumption)
    | ((with_reducible show List.length _ ≤ _); assumption)
    | split
    | dsimp only)

theorem readUnit_keeps {pq : List Instr} {s : State} {k u cls bg : Nat} {by_ : Issuer} (hk : Keeps pq s) :
    KeepsO pq (readUnit s k u cls bg by_) := by
  unfold readUnit
  repeat' (first
    | intro _
    | with_reducible assumption
    | with_reducible apply countRead_keeps
    | with_reducible apply offer_keeps
    | with_reducible refine opt_keeps (by assumption) ?_
    | with_reducible apply some_keepsO
    | with_reducible apply none_keepsO
    | with_reducible apply ite_keepsO
    | with_reducible apply map_keepsO
    | with_reducible apply mapOf_keepsO
    | with_reducible apply getD_keeps
    | with_reducible apply ite_keeps
    | with_reducible apply ite_fst_keeps
    | ((with_reducible show Seq.ok _ = true); assumption)
    | ((with_reducible show Tbl.wf _ _ = true); assumption)
    | ((with_reducible show List.length _ ≤ _); assumption)
    | split
    | dsimp only)

theorem readMember_keeps {pq : List Instr} {s : State} {k m row q cls bg : Nat} {by_ : Issuer} (hk : Keeps pq s) :
    KeepsO pq (readMember s k m row q cls bg by_) := by
  unfold readMember
  repeat' (first
    | intro _
    | with_reducible assumption
    | with_reducible apply countRead_keeps
    | with_reducible apply offer_keeps
    | with_reducible refine opt_keeps (by assumption) ?_
    | with_reducible apply some_keepsO
    | with_reducible apply none_keepsO
    | with_reducible apply ite_keepsO
    | with_reducible apply map_keepsO
    | with_reducible apply mapOf_keepsO
    | with_reducible apply getD_keeps
    | with_reducible apply ite_keeps
    | with_reducible apply ite_fst_keeps
    | ((with_reducible show Seq.ok _ = true); assumption)
    | ((with_reducible show Tbl.wf _ _ = true); assumption)
    | ((with_reducible show List.length _ ≤ _); assumption)
    | split
    | dsimp only)

theorem suiteRecord_keeps {pq : List Instr} {s : State} {k aux count first : Nat} (hk : Keeps pq s) :
    Keeps pq (suiteRecord s k aux count first) := by
  unfold suiteRecord
  repeat' (first
    | intro _
    | with_reducible assumption
    | with_reducible apply jAppend_keeps
    | with_reducible apply ite_keeps
    | with_reducible apply ite_fst_keeps
    | ((with_reducible show Seq.ok _ = true); assumption)
    | ((with_reducible show Tbl.wf _ _ = true); assumption)
    | ((with_reducible show List.length _ ≤ _); assumption)
    | split
    | dsimp only)

theorem poolCheck_keeps {pq : List Instr} {s : State} {rg : Nat} (hk : Keeps pq s) :
    Keeps pq (poolCheck s rg) := by
  unfold poolCheck
  repeat' (first
    | intro _
    | with_reducible assumption
    | with_reducible apply modScu_keeps
    | with_reducible apply ite_keeps
    | with_reducible apply ite_fst_keeps
    | ((with_reducible show Seq.ok _ = true); assumption)
    | ((with_reducible show Tbl.wf _ _ = true); assumption)
    | ((with_reducible show List.length _ ≤ _); assumption)
    | split
    | dsimp only)

theorem openSuite_keeps {pq : List Instr} {s : State} {k cell stream handle : Nat} (hk : Keeps pq s) :
    Keeps pq (openSuite s k cell stream handle) := by
  unfold openSuite
  repeat' (first
    | intro _
    | with_reducible assumption
    | with_reducible apply modScu_keeps
    | with_reducible apply poolCheck_keeps
    | with_reducible apply suiteRecord_keeps
    | with_reducible apply ite_keeps
    | with_reducible apply ite_fst_keeps
    | ((with_reducible show Seq.ok _ = true); assumption)
    | ((with_reducible show Tbl.wf _ _ = true); assumption)
    | ((with_reducible show List.length _ ≤ _); assumption)
    | split
    | dsimp only)

theorem closedSuite_keeps {pq : List Instr} {s : State} {k : Nat} (hk : Keeps pq s) :
    Keeps pq (closedSuite s k) := by
  unfold closedSuite
  repeat' (first
    | intro _
    | with_reducible assumption
    | with_reducible apply modSuite_keeps
    | with_reducible apply suiteRecord_keeps
    | with_reducible apply tick_keeps
    | with_reducible apply ite_keeps
    | with_reducible apply ite_fst_keeps
    | ((with_reducible show Seq.ok _ = true); assumption)
    | ((with_reducible show Tbl.wf _ _ = true); assumption)
    | ((with_reducible show List.length _ ≤ _); assumption)
    | split
    | dsimp only)

theorem startErase_keeps {pq : List Instr} {s : State} {k : Nat} (hk : Keeps pq s) :
    Keeps pq (startErase s k) := by
  unfold startErase
  repeat' (first
    | intro _
    | with_reducible assumption
    | with_reducible apply each_keeps
    | with_reducible apply modScu_keeps
    | with_reducible apply modSuite_keeps
    | with_reducible apply offer_keeps
    | with_reducible apply ite_keeps
    | with_reducible apply ite_fst_keeps
    | ((with_reducible show Seq.ok _ = true); assumption)
    | ((with_reducible show Tbl.wf _ _ = true); assumption)
    | ((with_reducible show List.length _ ≤ _); assumption)
    | split
    | dsimp only)

theorem eraseIfDue_keeps {pq : List Instr} {s : State} {k : Nat} (hk : Keeps pq s) :
    Keeps pq (eraseIfDue s k) := by
  unfold eraseIfDue
  repeat' (first
    | intro _
    | with_reducible assumption
    | with_reducible apply modPan_keeps
    | with_reducible apply startErase_keeps
    | with_reducible apply ite_keeps
    | with_reducible apply ite_fst_keeps
    | ((with_reducible show Seq.ok _ = true); assumption)
    | ((with_reducible show Tbl.wf _ _ = true); assumption)
    | ((with_reducible show List.length _ ≤ _); assumption)
    | split
    | dsimp only)

theorem removeMember_keeps {pq : List Instr} {s : State} {k m row : Nat} (hk : Keeps pq s) :
    Keeps pq (removeMember s k m row) := by
  unfold removeMember
  repeat' (first
    | intro _
    | with_reducible assumption
    | with_reducible apply modScu_keeps
    | with_reducible apply modSuite_keeps
    | with_reducible apply suiteRecord_keeps
    | with_reducible apply ite_keeps
    | with_reducible apply ite_fst_keeps
    | ((with_reducible show Seq.ok _ = true); assumption)
    | ((with_reducible show Tbl.wf _ _ = true); assumption)
    | ((with_reducible show List.length _ ≤ _); assumption)
    | split
    | dsimp only)

end Sys2Proof.Machine
end

