-- ==== Sys2Proof/Laws/KeepShares.lean ====
section
/-!
SUPPORT. The invariant under the operations and commands of Shares: each keeps it and the queue (Keeps); a command answers a next state (Goes).
-/
set_option linter.unusedTactic false
set_option linter.unreachableTactic false
set_option linter.unusedVariables false
namespace Sys2Proof.Machine

theorem modWorker_keeps {pq : List Instr} {s : State} {w : Nat} {f : WorkerSt → WorkerSt} (hk : Keeps pq s) :
    Keeps pq (State.modWorker s w f) := by
  unfold State.modWorker
  repeat' (first
    | intro _
    | with_reducible assumption
    | with_reducible apply modSta_keeps
    | with_reducible apply ite_keeps
    | with_reducible apply ite_fst_keeps
    | ((with_reducible show Seq.ok _ = true); assumption)
    | ((with_reducible show Tbl.wf _ _ = true); assumption)
    | ((with_reducible show List.length _ ≤ _); assumption)
    | split
    | dsimp only)

theorem stairTx_keeps {pq : List Instr} {s : State} {n typ tag cw : Nat} {last : Bool} {m : StairMsg} (hk : Keeps pq s) :
    Keeps pq (stairTx s n typ tag cw last m) := by
  unfold stairTx
  repeat' (first
    | intro _
    | with_reducible assumption
    | with_reducible apply modPort_keeps
    | with_reducible apply ite_keeps
    | with_reducible apply ite_fst_keeps
    | ((with_reducible show Seq.ok _ = true); assumption)
    | ((with_reducible show Tbl.wf _ _ = true); assumption)
    | ((with_reducible show List.length _ ≤ _); assumption)
    | split
    | dsimp only)

theorem tellManager_keeps {pq : List Instr} {s : State} {typ : Nat} {m : StairMsg} (hk : Keeps pq s) :
    Keeps pq (tellManager s typ m) := by
  unfold tellManager
  repeat' (first
    | intro _
    | with_reducible assumption
    | with_reducible apply stairTx_keeps
    | with_reducible apply ite_keeps
    | with_reducible apply ite_fst_keeps
    | ((with_reducible show Seq.ok _ = true); assumption)
    | ((with_reducible show Tbl.wf _ _ = true); assumption)
    | ((with_reducible show List.length _ ≤ _); assumption)
    | split
    | dsimp only)

theorem stairDone_keeps {pq : List Instr} {s : State} {link tag : Nat} {r : SReq} {phase sct sc units : Nat} (hk : Keeps pq s) :
    Keeps pq (stairDone s link tag r phase sct sc units) := by
  unfold stairDone
  repeat' (first
    | intro _
    | with_reducible assumption
    | with_reducible apply modSta_keeps
    | with_reducible apply stairTx_keeps
    | with_reducible apply ite_keeps
    | with_reducible apply ite_fst_keeps
    | ((with_reducible show Seq.ok _ = true); assumption)
    | ((with_reducible show Tbl.wf _ _ = true); assumption)
    | ((with_reducible show List.length _ ≤ _); assumption)
    | split
    | dsimp only)

end Sys2Proof.Machine
end

