-- ==== Sys2Proof/Laws/KeepHallBase.lean ====
section
/-!
SUPPORT. The invariant under the operations and commands of HallBase: each keeps it and the queue (Keeps); a command answers a next state (Goes).
-/
set_option linter.unusedTactic false
set_option linter.unreachableTactic false
set_option linter.unusedVariables false
namespace Sys2Proof.Machine

theorem modHport_keeps {pq : List Instr} {s : State} {p : Nat} {f : HPort → HPort} (hk : Keeps pq s) :
    Keeps pq (State.modHport s p f) := by
  unfold State.modHport
  repeat' (first
    | intro _
    | with_reducible assumption
    | with_reducible apply modPorch_keeps
    | with_reducible apply ite_keeps
    | with_reducible apply ite_fst_keeps
    | ((with_reducible show Seq.ok _ = true); assumption)
    | ((with_reducible show Tbl.wf _ _ = true); assumption)
    | ((with_reducible show List.length _ ≤ _); assumption)
    | split
    | dsimp only)

theorem modCtx_keeps {pq : List Instr} {s : State} {n : Nat} {f : Ctx → Ctx} (hk : Keeps pq s) :
    Keeps pq (State.modCtx s n f) := by
  unfold State.modCtx
  repeat' (first
    | intro _
    | with_reducible assumption
    | with_reducible apply modHall_keeps
    | with_reducible apply ite_keeps
    | with_reducible apply ite_fst_keeps
    | ((with_reducible show Seq.ok _ = true); assumption)
    | ((with_reducible show Tbl.wf _ _ = true); assumption)
    | ((with_reducible show List.length _ ≤ _); assumption)
    | split
    | dsimp only)

theorem setFeat_keeps {pq : List Instr} {s : State} {ctrl fid sub v : Nat} (hk : Keeps pq s) :
    Keeps pq (setFeat s ctrl fid sub v) := by
  unfold setFeat
  repeat' (first
    | intro _
    | with_reducible assumption
    | with_reducible apply modNvm_keeps
    | with_reducible apply ite_keeps
    | with_reducible apply ite_fst_keeps
    | ((with_reducible show Seq.ok _ = true); assumption)
    | ((with_reducible show Tbl.wf _ _ = true); assumption)
    | ((with_reducible show List.length _ ≤ _); assumption)
    | split
    | dsimp only)

theorem finish_keeps {pq : List Instr} {s : State} {n sct sc : Nat} {dw0 : Nat} (hk : Keeps pq s) :
    Keeps pq (finish s n sct sc dw0) := by
  unfold finish
  repeat' (first
    | intro _
    | with_reducible assumption
    | with_reducible apply modCtx_keeps
    | with_reducible apply modHall_keeps
    | with_reducible apply modNvm_keeps
    | with_reducible apply stairDone_keeps
    | with_reducible apply ite_keeps
    | with_reducible apply ite_fst_keeps
    | ((with_reducible show Seq.ok _ = true); assumption)
    | ((with_reducible show Tbl.wf _ _ = true); assumption)
    | ((with_reducible show List.length _ ≤ _); assumption)
    | split
    | dsimp only)

theorem finishOk_keeps {pq : List Instr} {s : State} {n : Nat} (hk : Keeps pq s) :
    Keeps pq (finishOk s n) := by
  unfold finishOk
  repeat' (first
    | intro _
    | with_reducible assumption
    | with_reducible apply finish_keeps
    | with_reducible apply ite_keeps
    | with_reducible apply ite_fst_keeps
    | ((with_reducible show Seq.ok _ = true); assumption)
    | ((with_reducible show Tbl.wf _ _ = true); assumption)
    | ((with_reducible show List.length _ ≤ _); assumption)
    | split
    | dsimp only)

theorem pinSlot_keeps {pq : List Instr} {s : State} {k : Nat} (hk : Keeps pq s) :
    Keeps pq (pinSlot s k) := by
  unfold pinSlot
  repeat' (first
    | intro _
    | with_reducible assumption
    | with_reducible apply modLdr_keeps
    | with_reducible apply ite_keeps
    | with_reducible apply ite_fst_keeps
    | ((with_reducible show Seq.ok _ = true); assumption)
    | ((with_reducible show Tbl.wf _ _ = true); assumption)
    | ((with_reducible show List.length _ ≤ _); assumption)
    | split
    | dsimp only)

theorem freeSlot_keeps {pq : List Instr} {s : State} {k : Nat} (hk : Keeps pq s) :
    Keeps pq (freeSlot s k) := by
  unfold freeSlot
  repeat' (first
    | intro _
    | with_reducible assumption
    | with_reducible apply modLdr_keeps
    | with_reducible apply ite_keeps
    | with_reducible apply ite_fst_keeps
    | ((with_reducible show Seq.ok _ = true); assumption)
    | ((with_reducible show Tbl.wf _ _ = true); assumption)
    | ((with_reducible show List.length _ ≤ _); assumption)
    | split
    | dsimp only)

theorem unpinSlot_keeps {pq : List Instr} {s : State} {k : Nat} (hk : Keeps pq s) :
    Keeps pq (unpinSlot s k) := by
  unfold unpinSlot
  repeat' (first
    | intro _
    | with_reducible assumption
    | with_reducible apply freeSlot_keeps
    | with_reducible apply modLdr_keeps
    | with_reducible apply ite_keeps
    | with_reducible apply ite_fst_keeps
    | ((with_reducible show Seq.ok _ = true); assumption)
    | ((with_reducible show Tbl.wf _ _ = true); assumption)
    | ((with_reducible show List.length _ ≤ _); assumption)
    | split
    | dsimp only)

theorem unpinMedia_keeps {pq : List Instr} {s : State} {n suite unit : Nat} (hk : Keeps pq s) :
    Keeps pq (unpinMedia s n suite unit) := by
  unfold unpinMedia
  repeat' (first
    | intro _
    | with_reducible assumption
    | with_reducible apply eraseIfDue_keeps
    | with_reducible apply modPan_keeps
    | with_reducible apply ite_keeps
    | with_reducible apply ite_fst_keeps
    | ((with_reducible show Seq.ok _ = true); assumption)
    | ((with_reducible show Tbl.wf _ _ = true); assumption)
    | ((with_reducible show List.length _ ≤ _); assumption)
    | split
    | dsimp only)

theorem returnSlots_keeps {pq : List Instr} {s : State} {units : List WUnit} (hk : Keeps pq s) :
    Keeps pq (returnSlots s units) := by
  unfold returnSlots
  repeat' (first
    | intro _
    | with_reducible assumption
    | with_reducible apply each_keeps
    | with_reducible apply freeSlot_keeps
    | with_reducible apply modPan_keeps
    | with_reducible apply ite_keeps
    | with_reducible apply ite_fst_keeps
    | ((with_reducible show Seq.ok _ = true); assumption)
    | ((with_reducible show Tbl.wf _ _ = true); assumption)
    | ((with_reducible show List.length _ ≤ _); assumption)
    | split
    | dsimp only)

theorem cutWriter_keeps {pq : List Instr} {s : State} {n sct sc : Nat} (hk : Keeps pq s) :
    Keeps pq (cutWriter s n sct sc) := by
  unfold cutWriter
  repeat' (first
    | intro _
    | with_reducible assumption
    | with_reducible apply finish_keeps
    | with_reducible apply modCtx_keeps
    | with_reducible apply returnSlots_keeps
    | with_reducible apply ite_keeps
    | with_reducible apply ite_fst_keeps
    | ((with_reducible show Seq.ok _ = true); assumption)
    | ((with_reducible show Tbl.wf _ _ = true); assumption)
    | ((with_reducible show List.length _ ≤ _); assumption)
    | split
    | dsimp only)

theorem addDep_keeps {pq : List Instr} {s : State} {t : Nat} {d : Dep} (hk : Keeps pq s) :
    Keeps pq (addDep s t d) := by
  unfold addDep
  repeat' (first
    | intro _
    | with_reducible assumption
    | with_reducible apply modPan_keeps
    | with_reducible apply ite_keeps
    | with_reducible apply ite_fst_keeps
    | ((with_reducible show Seq.ok _ = true); assumption)
    | ((with_reducible show Tbl.wf _ _ = true); assumption)
    | ((with_reducible show List.length _ ≤ _); assumption)
    | split
    | dsimp only)

theorem pruneDeps_keeps {pq : List Instr} {s : State}  (hk : Keeps pq s) :
    Keeps pq (pruneDeps s) := by
  unfold pruneDeps
  repeat' (first
    | intro _
    | with_reducible assumption
    | with_reducible apply each_keeps
    | with_reducible apply modPan_keeps
    | with_reducible apply ite_keeps
    | with_reducible apply ite_fst_keeps
    | ((with_reducible show Seq.ok _ = true); assumption)
    | ((with_reducible show Tbl.wf _ _ = true); assumption)
    | ((with_reducible show List.length _ ≤ _); assumption)
    | split
    | dsimp only)

theorem reportDeferred_keeps {pq : List Instr} {s : State} {ns : Nat} (hk : Keeps pq s) :
    Keeps pq (reportDeferred s ns) := by
  unfold reportDeferred
  repeat' (first
    | intro _
    | with_reducible assumption
    | with_reducible apply bump_keeps
    | with_reducible apply each_keeps
    | with_reducible apply modHall_keeps
    | with_reducible apply post_keeps
    | with_reducible apply ite_keeps
    | with_reducible apply ite_fst_keeps
    | ((with_reducible show Seq.ok _ = true); assumption)
    | ((with_reducible show Tbl.wf _ _ = true); assumption)
    | ((with_reducible show List.length _ ≤ _); assumption)
    | split
    | dsimp only)

theorem formatCheck_keeps {pq : List Instr} {s : State}  (hk : Keeps pq s) :
    Keeps pq (formatCheck s) := by
  unfold formatCheck
  repeat' (first
    | intro _
    | with_reducible assumption
    | with_reducible apply each_keeps
    | with_reducible apply finishOk_keeps
    | with_reducible apply modNvm_keeps
    | with_reducible apply ite_keeps
    | with_reducible apply ite_fst_keeps
    | ((with_reducible show Seq.ok _ = true); assumption)
    | ((with_reducible show Tbl.wf _ _ = true); assumption)
    | ((with_reducible show List.length _ ≤ _); assumption)
    | split
    | dsimp only)

theorem nsOpCheck_keeps {pq : List Instr} {s : State}  (hk : Keeps pq s) :
    Keeps pq (nsOpCheck s) := by
  unfold nsOpCheck
  repeat' (first
    | intro _
    | with_reducible assumption
    | with_reducible apply each_keeps
    | with_reducible apply finish_keeps
    | with_reducible apply ite_keeps
    | with_reducible apply ite_fst_keeps
    | ((with_reducible show Seq.ok _ = true); assumption)
    | ((with_reducible show Tbl.wf _ _ = true); assumption)
    | ((with_reducible show List.length _ ≤ _); assumption)
    | split
    | dsimp only)

theorem settleCheck_keeps {pq : List Instr} {s : State}  (hk : Keeps pq s) :
    Keeps pq (settleCheck s) := by
  unfold settleCheck
  repeat' (first
    | intro _
    | with_reducible assumption
    | with_reducible apply each_keeps
    | with_reducible apply finish_keeps
    | with_reducible apply finishOk_keeps
    | with_reducible apply formatCheck_keeps
    | with_reducible apply modHall_keeps
    | with_reducible apply modLdr_keeps
    | with_reducible apply nsOpCheck_keeps
    | with_reducible apply pruneDeps_keeps
    | with_reducible apply reportDeferred_keeps
    | with_reducible apply stairDone_keeps
    | with_reducible apply ite_keeps
    | with_reducible apply ite_fst_keeps
    | ((with_reducible show Seq.ok _ = true); assumption)
    | ((with_reducible show Tbl.wf _ _ = true); assumption)
    | ((with_reducible show List.length _ ≤ _); assumption)
    | split
    | dsimp only)

theorem asyncEvent_keeps {pq : List Instr} {s : State} {port typ info page : Nat} {ns : Nat} (hk : Keeps pq s) :
    Keeps pq (asyncEvent s port typ info page ns) := by
  unfold asyncEvent
  repeat' (first
    | intro _
    | with_reducible assumption
    | with_reducible apply modHall_keeps
    | with_reducible apply ite_keeps
    | with_reducible apply ite_fst_keeps
    | ((with_reducible show Seq.ok _ = true); assumption)
    | ((with_reducible show Tbl.wf _ _ = true); assumption)
    | ((with_reducible show List.length _ ≤ _); assumption)
    | split
    | dsimp only)

theorem asyncAll_keeps {pq : List Instr} {s : State} {typ info page : Nat} {ns : Nat} (hk : Keeps pq s) :
    Keeps pq (asyncAll s typ info page ns) := by
  unfold asyncAll
  repeat' (first
    | intro _
    | with_reducible assumption
    | with_reducible apply asyncEvent_keeps
    | with_reducible apply each_keeps
    | with_reducible apply ite_keeps
    | with_reducible apply ite_fst_keeps
    | ((with_reducible show Seq.ok _ = true); assumption)
    | ((with_reducible show Tbl.wf _ _ = true); assumption)
    | ((with_reducible show List.length _ ≤ _); assumption)
    | split
    | dsimp only)

theorem serveEvents_keeps {pq : List Instr} {s : State}  (hk : Keeps pq s) :
    Keeps pq (serveEvents s) := by
  unfold serveEvents
  repeat' (first
    | intro _
    | with_reducible assumption
    | with_reducible apply asyncEvent_keeps
    | with_reducible apply each_keeps
    | with_reducible apply finish_keeps
    | with_reducible apply modHall_keeps
    | with_reducible apply ite_keeps
    | with_reducible apply ite_fst_keeps
    | ((with_reducible show Seq.ok _ = true); assumption)
    | ((with_reducible show Tbl.wf _ _ = true); assumption)
    | ((with_reducible show List.length _ ≤ _); assumption)
    | split
    | dsimp only)

theorem deferDurable_keeps {pq : List Instr} {s : State} {r : JRec} (hk : Keeps pq s) :
    Keeps pq (deferDurable s r) := by
  unfold deferDurable
  repeat' (first
    | intro _
    | with_reducible assumption
    | with_reducible apply asyncAll_keeps
    | with_reducible apply bump_keeps
    | with_reducible apply modHall_keeps
    | with_reducible apply modNvm_keeps
    | with_reducible apply post_keeps
    | with_reducible apply serveEvents_keeps
    | with_reducible apply tellManager_keeps
    | with_reducible apply ite_keeps
    | with_reducible apply ite_fst_keeps
    | ((with_reducible show Seq.ok _ = true); assumption)
    | ((with_reducible show Tbl.wf _ _ = true); assumption)
    | ((with_reducible show List.length _ ≤ _); assumption)
    | split
    | dsimp only)

theorem leaveOverlay_keeps {pq : List Instr} {s : State} {ns u n : Nat} (hk : Keeps pq s) :
    Keeps pq (leaveOverlay s ns u n) := by
  unfold leaveOverlay
  repeat' (first
    | intro _
    | with_reducible assumption
    | with_reducible apply addDep_keeps
    | with_reducible apply dropOverlay_keeps
    | with_reducible apply each_keeps
    | with_reducible apply ite_keeps
    | with_reducible apply ite_fst_keeps
    | ((with_reducible show Seq.ok _ = true); assumption)
    | ((with_reducible show Tbl.wf _ _ = true); assumption)
    | ((with_reducible show List.length _ ≤ _); assumption)
    | split
    | dsimp only)

theorem rangeLost_keeps {pq : List Instr} {s : State} {ns u n cause : Nat} {deferred : Bool} {port : Nat} {worker : Nat} (hk : Keeps pq s) :
    Keeps pq (rangeLost s ns u n cause deferred port worker) := by
  unfold rangeLost
  repeat' (first
    | intro _
    | with_reducible assumption
    | with_reducible apply asyncAll_keeps
    | with_reducible apply each_keeps
    | with_reducible apply jAppend_keeps
    | with_reducible apply leaveOverlay_keeps
    | with_reducible apply mapChange_keeps
    | with_reducible apply modHall_keeps
    | with_reducible apply tellManager_keeps
    | with_reducible apply ite_keeps
    | with_reducible apply ite_fst_keeps
    | ((with_reducible show Seq.ok _ = true); assumption)
    | ((with_reducible show Tbl.wf _ _ = true); assumption)
    | ((with_reducible show List.length _ ≤ _); assumption)
    | split
    | dsimp only)

theorem setUncorr_keeps {pq : List Instr} {s : State} {ns u : Nat} (hk : Keeps pq s) :
    Keeps pq (setUncorr s ns u) := by
  unfold setUncorr
  repeat' (first
    | intro _
    | with_reducible assumption
    | with_reducible apply mapChange_keeps
    | with_reducible apply ite_keeps
    | with_reducible apply ite_fst_keeps
    | ((with_reducible show Seq.ok _ = true); assumption)
    | ((with_reducible show Tbl.wf _ _ = true); assumption)
    | ((with_reducible show List.length _ ≤ _); assumption)
    | split
    | dsimp only)

end Sys2Proof.Machine
end

