-- ==== Sys2Proof/Laws/KeepLarderOps.lean ====
section
/-!
SUPPORT. The invariant under the operations and commands of LarderOps: each keeps it and the queue (Keeps); a command answers a next state (Goes).
-/
set_option linter.unusedTactic false
set_option linter.unreachableTactic false
set_option linter.unusedVariables false
namespace Sys2Proof.Machine

theorem drainCheck_keeps {pq : List Instr} {s : State}  (hk : Keeps pq s) :
    Keeps pq (drainCheck s) := by
  unfold drainCheck
  repeat' (first
    | intro _
    | with_reducible assumption
    | with_reducible apply clr1_keeps
    | with_reducible apply ite_keeps
    | with_reducible apply ite_fst_keeps
    | ((with_reducible show Seq.ok _ = true); assumption)
    | ((with_reducible show Tbl.wf _ _ = true); assumption)
    | ((with_reducible show List.length _ ≤ _); assumption)
    | split
    | dsimp only)

theorem takeSlot_keeps {pq : List Instr} {s : State} {x : Slot} (hk : Keeps pq s) :
    Keeps pq (takeSlot s x).1 := by
  unfold takeSlot
  repeat' (first
    | intro _
    | with_reducible assumption
    | with_reducible apply modLdr_keeps
    | with_reducible apply ite_keeps
    | with_reducible apply ite_fst_keeps
    | ((with_reducible show Seq.ok _ = true); assumption)
    | ((with_reducible show Tbl.wf _ _ = true); assumption)
    | ((with_reducible show List.length _ ≤ _); assumption)
    | split
    | dsimp only)

theorem modSlot_keeps {pq : List Instr} {s : State} {k : Nat} {f : Slot → Slot} (hk : Keeps pq s) :
    Keeps pq (modSlot s k f) := by
  unfold modSlot
  repeat' (first
    | intro _
    | with_reducible assumption
    | with_reducible apply modLdr_keeps
    | with_reducible apply ite_keeps
    | with_reducible apply ite_fst_keeps
    | ((with_reducible show Seq.ok _ = true); assumption)
    | ((with_reducible show Tbl.wf _ _ = true); assumption)
    | ((with_reducible show List.length _ ≤ _); assumption)
    | split
    | dsimp only)

theorem takeSlots_keeps {pq : List Instr} {s : State} {n : Nat} {f : Nat → Slot} (hk : Keeps pq s) :
    Keeps pq (takeSlots s n f).1 := by
  unfold takeSlots
  repeat' (first
    | intro _
    | with_reducible assumption
    | with_reducible apply takeSlot_keeps
    | with_reducible refine fst_keeps (by assumption) ?_
    | with_reducible apply foldl_keeps
    | with_reducible apply foldl_fst_keeps
    | with_reducible apply ite_keeps
    | with_reducible apply ite_fst_keeps
    | ((with_reducible show Seq.ok _ = true); assumption)
    | ((with_reducible show Tbl.wf _ _ = true); assumption)
    | ((with_reducible show List.length _ ≤ _); assumption)
    | split
    | dsimp only)

theorem modFront_keeps {pq : List Instr} {s : State} {f : Nat} {g : Front → Front} (hk : Keeps pq s) :
    Keeps pq (State.modFront s f g) := by
  unfold State.modFront
  repeat' (first
    | intro _
    | with_reducible assumption
    | with_reducible apply modLdr_keeps
    | with_reducible apply ite_keeps
    | with_reducible apply ite_fst_keeps
    | ((with_reducible show Seq.ok _ = true); assumption)
    | ((with_reducible show Tbl.wf _ _ = true); assumption)
    | ((with_reducible show List.length _ ≤ _); assumption)
    | split
    | dsimp only)

theorem modRow_keeps {pq : List Instr} {s : State} {f suite row : Nat} {g : PRow → PRow} (hk : Keeps pq s) :
    Keeps pq (modRow s f suite row g) := by
  unfold modRow
  repeat' (first
    | intro _
    | with_reducible assumption
    | with_reducible apply modFront_keeps
    | with_reducible apply ite_keeps
    | with_reducible apply ite_fst_keeps
    | ((with_reducible show Seq.ok _ = true); assumption)
    | ((with_reducible show Tbl.wf _ _ = true); assumption)
    | ((with_reducible show List.length _ ≤ _); assumption)
    | split
    | dsimp only)

theorem modMember_keeps {pq : List Instr} {s : State} {f suite row m : Nat} {g : RowMember → RowMember} (hk : Keeps pq s) :
    Keeps pq (modMember s f suite row m g) := by
  unfold modMember
  repeat' (first
    | intro _
    | with_reducible assumption
    | with_reducible apply modRow_keeps
    | with_reducible apply ite_keeps
    | with_reducible apply ite_fst_keeps
    | ((with_reducible show Seq.ok _ = true); assumption)
    | ((with_reducible show Tbl.wf _ _ = true); assumption)
    | ((with_reducible show List.length _ ≤ _); assumption)
    | split
    | dsimp only)

theorem bindSuite_keeps {pq : List Instr} {s : State} {f : Nat} (hk : Keeps pq s) :
    Keeps pq (bindSuite s f) := by
  unfold bindSuite
  repeat' (first
    | intro _
    | with_reducible assumption
    | with_reducible apply modFront_keeps
    | with_reducible apply openSuite_keeps
    | with_reducible apply ite_keeps
    | with_reducible apply ite_fst_keeps
    | ((with_reducible show Seq.ok _ = true); assumption)
    | ((with_reducible show Tbl.wf _ _ = true); assumption)
    | ((with_reducible show List.length _ ≤ _); assumption)
    | split
    | dsimp only)

theorem xorInto_keeps {pq : List Instr} {s : State} {acc slots : List Nat} (hk : Keeps pq s) :
    Keeps pq (xorInto s acc slots) := by
  unfold xorInto
  repeat' (first
    | intro _
    | with_reducible assumption
    | with_reducible apply each_keeps
    | with_reducible apply modSlot_keeps
    | with_reducible apply ite_keeps
    | with_reducible apply ite_fst_keeps
    | ((with_reducible show Seq.ok _ = true); assumption)
    | ((with_reducible show Tbl.wf _ _ = true); assumption)
    | ((with_reducible show List.length _ ≤ _); assumption)
    | split
    | dsimp only)

theorem programOp_keeps {pq : List Instr} {s : State} {k row m cell : Nat} {slots : List Nat} {cls bg : Nat} {unit : Nat} {by_ : Issuer} (hk : Keeps pq s) :
    Keeps pq (programOp s k row m cell slots cls bg unit by_) := by
  unfold programOp
  repeat' (first
    | intro _
    | with_reducible assumption
    | with_reducible apply offer_keeps
    | with_reducible apply ite_keeps
    | with_reducible apply ite_fst_keeps
    | ((with_reducible show Seq.ok _ = true); assumption)
    | ((with_reducible show Tbl.wf _ _ = true); assumption)
    | ((with_reducible show List.length _ ≤ _); assumption)
    | split
    | dsimp only)

theorem fdpNote_keeps {pq : List Instr} {s : State} {typ handle suite : Nat} (hk : Keeps pq s) :
    Keeps pq (fdpNote s typ handle suite) := by
  unfold fdpNote
  repeat' (first
    | intro _
    | with_reducible assumption
    | with_reducible apply modNvm_keeps
    | with_reducible apply ite_keeps
    | with_reducible apply ite_fst_keeps
    | ((with_reducible show Seq.ok _ = true); assumption)
    | ((with_reducible show Tbl.wf _ _ = true); assumption)
    | ((with_reducible show List.length _ ≤ _); assumption)
    | split
    | dsimp only)

theorem releaseFront_keeps {pq : List Instr} {s : State} {f : Nat} (hk : Keeps pq s) :
    Keeps pq (releaseFront s f) := by
  unfold releaseFront
  repeat' (first
    | intro _
    | with_reducible assumption
    | with_reducible apply closedSuite_keeps
    | with_reducible apply fdpNote_keeps
    | with_reducible apply modFront_keeps
    | with_reducible apply modSuite_keeps
    | with_reducible apply ite_keeps
    | with_reducible apply ite_fst_keeps
    | ((with_reducible show Seq.ok _ = true); assumption)
    | ((with_reducible show Tbl.wf _ _ = true); assumption)
    | ((with_reducible show List.length _ ≤ _); assumption)
    | split
    | dsimp only)

theorem sendWordline_keeps {pq : List Instr} {s : State} {f : Nat} {fill_ : Bool} (hk : Keeps pq s) :
    Keeps pq (sendWordline s f fill_).1 := by
  unfold sendWordline
  repeat' (first
    | intro _
    | with_reducible assumption
    | with_reducible apply bindSuite_keeps
    | with_reducible apply each_keeps
    | with_reducible apply modFront_keeps
    | with_reducible apply modNvm_keeps
    | with_reducible apply modRow_keeps
    | with_reducible apply modSlot_keeps
    | with_reducible apply modSuite_keeps
    | with_reducible apply programOp_keeps
    | with_reducible apply releaseFront_keeps
    | with_reducible apply takeSlots_keeps
    | with_reducible apply xorInto_keeps
    | with_reducible refine fst_keeps (by assumption) ?_
    | with_reducible apply ite_keeps
    | with_reducible apply ite_fst_keeps
    | ((with_reducible show Seq.ok _ = true); assumption)
    | ((with_reducible show Tbl.wf _ _ = true); assumption)
    | ((with_reducible show List.length _ ≤ _); assumption)
    | split
    | dsimp only)

theorem pumpFront_keeps {pq : List Instr} : ∀ (k : Nat) {s : State} {f : Nat} , Keeps pq s → Keeps pq (pumpFront k s f) := by
  intro k
  induction k with
  | zero =>
    intro s f hk
    unfold pumpFront
    repeat' (first
    | intro _
    | with_reducible assumption
    | with_reducible apply modFront_keeps
    | with_reducible apply releaseFront_keeps
    | with_reducible apply sendWordline_keeps
    | with_reducible refine fst_keeps (by assumption) ?_
    | with_reducible apply ite_keeps
    | with_reducible apply ite_fst_keeps
    | ((with_reducible show Seq.ok _ = true); assumption)
    | ((with_reducible show Tbl.wf _ _ = true); assumption)
    | ((with_reducible show List.length _ ≤ _); assumption)
    | split
    | dsimp only)
  | succ k ih =>
    intro s f hk
    unfold pumpFront
    repeat' (first
    | intro _
    | with_reducible assumption
    | with_reducible apply ih
    | intro _
    | with_reducible assumption
    | with_reducible apply modFront_keeps
    | with_reducible apply releaseFront_keeps
    | with_reducible apply sendWordline_keeps
    | with_reducible refine fst_keeps (by assumption) ?_
    | with_reducible apply ite_keeps
    | with_reducible apply ite_fst_keeps
    | ((with_reducible show Seq.ok _ = true); assumption)
    | ((with_reducible show Tbl.wf _ _ = true); assumption)
    | ((with_reducible show List.length _ ≤ _); assumption)
    | split
    | dsimp only)

theorem closeFront_keeps {pq : List Instr} {s : State} {f : Nat} (hk : Keeps pq s) :
    Keeps pq (closeFront s f) := by
  unfold closeFront
  repeat' (first
    | intro _
    | with_reducible assumption
    | with_reducible apply modFront_keeps
    | with_reducible apply pumpFront_keeps
    | with_reducible apply ite_keeps
    | with_reducible apply ite_fst_keeps
    | ((with_reducible show Seq.ok _ = true); assumption)
    | ((with_reducible show Tbl.wf _ _ = true); assumption)
    | ((with_reducible show List.length _ ≤ _); assumption)
    | split
    | dsimp only)

theorem endSuite_keeps {pq : List Instr} {s : State} {f : Nat} (hk : Keeps pq s) :
    Keeps pq (endSuite s f) := by
  unfold endSuite
  repeat' (first
    | intro _
    | with_reducible assumption
    | with_reducible apply closeFront_keeps
    | with_reducible apply modFront_keeps
    | with_reducible apply ite_keeps
    | with_reducible apply ite_fst_keeps
    | ((with_reducible show Seq.ok _ = true); assumption)
    | ((with_reducible show Tbl.wf _ _ = true); assumption)
    | ((with_reducible show List.length _ ≤ _); assumption)
    | split
    | dsimp only)

theorem pumpAll_keeps {pq : List Instr} {s : State}  (hk : Keeps pq s) :
    Keeps pq (pumpAll s) := by
  unfold pumpAll
  repeat' (first
    | intro _
    | with_reducible assumption
    | with_reducible apply each_keeps
    | with_reducible apply pumpFront_keeps
    | with_reducible apply ite_keeps
    | with_reducible apply ite_fst_keeps
    | ((with_reducible show Seq.ok _ = true); assumption)
    | ((with_reducible show Tbl.wf _ _ = true); assumption)
    | ((with_reducible show List.length _ ≤ _); assumption)
    | split
    | dsimp only)

theorem handleFront_keeps {pq : List Instr} {s : State} {pl : Place} (hk : Keeps pq s) :
    Keeps pq (handleFront s pl).1 := by
  unfold handleFront
  repeat' (first
    | intro _
    | with_reducible assumption
    | with_reducible apply endSuite_keeps
    | with_reducible apply modFront_keeps
    | with_reducible apply foldl_keeps
    | with_reducible apply foldl_fst_keeps
    | with_reducible apply ite_keeps
    | with_reducible apply ite_fst_keeps
    | ((with_reducible show Seq.ok _ = true); assumption)
    | ((with_reducible show Tbl.wf _ _ = true); assumption)
    | ((with_reducible show List.length _ ≤ _); assumption)
    | split
    | dsimp only)

theorem joinFront_keeps {pq : List Instr} {s : State} {f : Nat} {l : List Nat} (hk : Keeps pq s) :
    Keeps pq (joinFront s f l) := by
  unfold joinFront
  repeat' (first
    | intro _
    | with_reducible assumption
    | with_reducible apply bindSuite_keeps
    | with_reducible apply each_keeps
    | with_reducible apply modFront_keeps
    | with_reducible apply modSlot_keeps
    | with_reducible apply pumpFront_keeps
    | with_reducible apply ite_keeps
    | with_reducible apply ite_fst_keeps
    | ((with_reducible show Seq.ok _ = true); assumption)
    | ((with_reducible show Tbl.wf _ _ = true); assumption)
    | ((with_reducible show List.length _ ≤ _); assumption)
    | split
    | dsimp only)

theorem joinHost_keeps {pq : List Instr} {s : State} {ns ext : Nat} {pl : Option Place} {l : List Nat} (hk : Keeps pq s) :
    Keeps pq (joinHost s ns ext pl l) := by
  unfold joinHost
  repeat' (first
    | intro _
    | with_reducible assumption
    | with_reducible apply endSuite_keeps
    | with_reducible apply handleFront_keeps
    | with_reducible apply joinFront_keeps
    | with_reducible refine fst_keeps (by assumption) ?_
    | with_reducible apply ite_keeps
    | with_reducible apply ite_fst_keeps
    | ((with_reducible show Seq.ok _ = true); assumption)
    | ((with_reducible show Tbl.wf _ _ = true); assumption)
    | ((with_reducible show List.length _ ≤ _); assumption)
    | split
    | dsimp only)

theorem joinReclaim_keeps {pq : List Instr} {s : State} {rg : Nat} {hot : Bool} {l : List Nat} (hk : Keeps pq s) :
    Keeps pq (joinReclaim s rg hot l) := by
  unfold joinReclaim
  repeat' (first
    | intro _
    | with_reducible assumption
    | with_reducible apply endSuite_keeps
    | with_reducible apply joinFront_keeps
    | with_reducible apply ite_keeps
    | with_reducible apply ite_fst_keeps
    | ((with_reducible show Seq.ok _ = true); assumption)
    | ((with_reducible show Tbl.wf _ _ = true); assumption)
    | ((with_reducible show List.length _ ≤ _); assumption)
    | split
    | dsimp only)

theorem closeHostFronts_keeps {pq : List Instr} {s : State} {ns : Option Nat} (hk : Keeps pq s) :
    Keeps pq (closeHostFronts s ns) := by
  unfold closeHostFronts
  repeat' (first
    | intro _
    | with_reducible assumption
    | with_reducible apply closeFront_keeps
    | with_reducible apply each_keeps
    | with_reducible apply ite_keeps
    | with_reducible apply ite_fst_keeps
    | ((with_reducible show Seq.ok _ = true); assumption)
    | ((with_reducible show Tbl.wf _ _ = true); assumption)
    | ((with_reducible show List.length _ ≤ _); assumption)
    | split
    | dsimp only)

theorem setRunit_keeps {pq : List Instr} {s : State} {n unit : Nat} {r : Resolved} (hk : Keeps pq s) :
    Keeps pq (setRunit s n unit r) := by
  unfold setRunit
  repeat' (first
    | intro _
    | with_reducible assumption
    | with_reducible apply modCtx_keeps
    | with_reducible apply ite_keeps
    | with_reducible apply ite_fst_keeps
    | ((with_reducible show Seq.ok _ = true); assumption)
    | ((with_reducible show Tbl.wf _ _ = true); assumption)
    | ((with_reducible show List.length _ ≤ _); assumption)
    | split
    | dsimp only)

theorem dispatchSlot_keeps {pq : List Instr} {s : State} {n unit k : Nat} (hk : Keeps pq s) :
    Keeps pq (dispatchSlot s n unit k) := by
  unfold dispatchSlot
  repeat' (first
    | intro _
    | with_reducible assumption
    | with_reducible apply modLnd_keeps
    | with_reducible apply pinSlot_keeps
    | with_reducible apply setRunit_keeps
    | with_reducible apply ite_keeps
    | with_reducible apply ite_fst_keeps
    | ((with_reducible show Seq.ok _ = true); assumption)
    | ((with_reducible show Tbl.wf _ _ = true); assumption)
    | ((with_reducible show List.length _ ≤ _); assumption)
    | split
    | dsimp only)

theorem dispatchMedia_keeps {pq : List Instr} {s : State} {n ns unit suite u : Nat} (hk : Keeps pq s) :
    Keeps pq (dispatchMedia s n ns unit suite u) := by
  unfold dispatchMedia
  repeat' (first
    | intro _
    | with_reducible assumption
    | with_reducible apply modPan_keeps
    | with_reducible apply readUnit_keeps
    | with_reducible apply setRunit_keeps
    | with_reducible refine opt_keeps (by assumption) ?_
    | with_reducible apply some_keepsO
    | with_reducible apply none_keepsO
    | with_reducible apply ite_keepsO
    | with_reducible apply map_keepsO
    | with_reducible apply mapOf_keepsO
    | with_reducible apply getD_keeps
    | with_reducible apply ite_keeps
    | with_reducible apply ite_fst_keeps
    | ((with_reducible show Seq.ok _ = true); assumption)
    | ((with_reducible show Tbl.wf _ _ = true); assumption)
    | ((with_reducible show List.length _ ≤ _); assumption)
    | split
    | dsimp only)

theorem wakeReaders_keeps {pq : List Instr} {s : State} {suite unit : Nat} (hk : Keeps pq s) :
    Keeps pq (wakeReaders s suite unit) := by
  unfold wakeReaders
  repeat' (first
    | intro _
    | with_reducible assumption
    | with_reducible apply dispatchMedia_keeps
    | with_reducible apply each_keeps
    | with_reducible apply ite_keeps
    | with_reducible apply ite_fst_keeps
    | ((with_reducible show Seq.ok _ = true); assumption)
    | ((with_reducible show Tbl.wf _ _ = true); assumption)
    | ((with_reducible show List.length _ ≤ _); assumption)
    | split
    | dsimp only)

theorem acceptCells_keeps {pq : List Instr} {s : State} {f k row m : Nat} {verify : Bool} (hk : Keeps pq s) :
    Keeps pq (acceptCells s f k row m verify) := by
  unfold acceptCells
  repeat' (first
    | intro _
    | with_reducible assumption
    | with_reducible apply each_keeps
    | with_reducible apply freeSlot_keeps
    | with_reducible apply modMember_keeps
    | with_reducible apply modPan_keeps
    | with_reducible apply modSlot_keeps
    | with_reducible apply ite_keeps
    | with_reducible apply ite_fst_keeps
    | ((with_reducible show Seq.ok _ = true); assumption)
    | ((with_reducible show Tbl.wf _ _ = true); assumption)
    | ((with_reducible show List.length _ ≤ _); assumption)
    | split
    | dsimp only)

theorem completeRow_keeps {pq : List Instr} {s : State} {f k row : Nat} (hk : Keeps pq s) :
    Keeps pq (completeRow s f k row) := by
  unfold completeRow
  repeat' (first
    | intro _
    | with_reducible assumption
    | with_reducible apply modRow_keeps
    | with_reducible apply programOp_keeps
    | with_reducible apply ite_keeps
    | with_reducible apply ite_fst_keeps
    | ((with_reducible show Seq.ok _ = true); assumption)
    | ((with_reducible show Tbl.wf _ _ = true); assumption)
    | ((with_reducible show List.length _ ≤ _); assumption)
    | split
    | dsimp only)

theorem settleRows_keeps {pq : List Instr} : ∀ (k : Nat) {s : State} {f : Nat} , Keeps pq s → Keeps pq (settleRows k s f) := by
  intro k
  induction k with
  | zero =>
    intro s f hk
    unfold settleRows
    repeat' (first
    | intro _
    | with_reducible assumption
    | with_reducible apply each_keeps
    | with_reducible apply freeSlot_keeps
    | with_reducible apply modFront_keeps
    | with_reducible apply ite_keeps
    | with_reducible apply ite_fst_keeps
    | ((with_reducible show Seq.ok _ = true); assumption)
    | ((with_reducible show Tbl.wf _ _ = true); assumption)
    | ((with_reducible show List.length _ ≤ _); assumption)
    | split
    | dsimp only)
  | succ k ih =>
    intro s f hk
    unfold settleRows
    repeat' (first
    | intro _
    | with_reducible assumption
    | with_reducible apply ih
    | intro _
    | with_reducible assumption
    | with_reducible apply each_keeps
    | with_reducible apply freeSlot_keeps
    | with_reducible apply modFront_keeps
    | with_reducible apply ite_keeps
    | with_reducible apply ite_fst_keeps
    | ((with_reducible show Seq.ok _ = true); assumption)
    | ((with_reducible show Tbl.wf _ _ = true); assumption)
    | ((with_reducible show List.length _ ≤ _); assumption)
    | split
    | dsimp only)

theorem rowPassed_keeps {pq : List Instr} {s : State} {f k row : Nat} (hk : Keeps pq s) :
    Keeps pq (rowPassed s f k row) := by
  unfold rowPassed
  repeat' (first
    | intro _
    | with_reducible assumption
    | with_reducible apply closedSuite_keeps
    | with_reducible apply drainCheck_keeps
    | with_reducible apply modRow_keeps
    | with_reducible apply pumpFront_keeps
    | with_reducible apply settleRows_keeps
    | with_reducible apply ite_keeps
    | with_reducible apply ite_fst_keeps
    | ((with_reducible show Seq.ok _ = true); assumption)
    | ((with_reducible show Tbl.wf _ _ = true); assumption)
    | ((with_reducible show List.length _ ≤ _); assumption)
    | split
    | dsimp only)

theorem passCell_keeps {pq : List Instr} {s : State} {k unit : Nat} {c : WlCell} (hk : Keeps pq s) :
    Keeps pq (passCell s k unit c) := by
  unfold passCell
  repeat' (first
    | intro _
    | with_reducible assumption
    | with_reducible apply freeSlot_keeps
    | with_reducible apply modPan_keeps
    | with_reducible apply modScu_keeps
    | with_reducible apply modSlot_keeps
    | with_reducible apply wakeReaders_keeps
    | with_reducible apply ite_keeps
    | with_reducible apply ite_fst_keeps
    | ((with_reducible show Seq.ok _ = true); assumption)
    | ((with_reducible show Tbl.wf _ _ = true); assumption)
    | ((with_reducible show List.length _ ≤ _); assumption)
    | split
    | dsimp only)

theorem rebuildWord_keeps {pq : List Instr} {s : State} {f k row m src pos : Nat} {d : Blk} {md : Meta} (hk : Keeps pq s) :
    Keeps pq (rebuildWord s f k row m src pos d md) := by
  unfold rebuildWord
  repeat' (first
    | intro _
    | with_reducible assumption
    | with_reducible apply modLdr_keeps
    | with_reducible apply ite_keeps
    | with_reducible apply ite_fst_keeps
    | ((with_reducible show Seq.ok _ = true); assumption)
    | ((with_reducible show Tbl.wf _ _ = true); assumption)
    | ((with_reducible show List.length _ ≤ _); assumption)
    | split
    | dsimp only)

theorem loseReadBack_keeps {pq : List Instr} {s : State} {f k row src : Nat} (hk : Keeps pq s) :
    Keeps pq (loseReadBack s f k row src) := by
  unfold loseReadBack
  repeat' (first
    | intro _
    | with_reducible assumption
    | with_reducible apply each_keeps
    | with_reducible apply rangeLost_keeps
    | with_reducible apply ite_keeps
    | with_reducible apply ite_fst_keeps
    | ((with_reducible show Seq.ok _ = true); assumption)
    | ((with_reducible show Tbl.wf _ _ = true); assumption)
    | ((with_reducible show List.length _ ≤ _); assumption)
    | split
    | dsimp only)

theorem rebuildLost_keeps {pq : List Instr} {s : State} {f k row m src pos cause : Nat} (hk : Keeps pq s) :
    Keeps pq (rebuildLost s f k row m src pos cause) := by
  unfold rebuildLost
  repeat' (first
    | intro _
    | with_reducible assumption
    | with_reducible apply loseReadBack_keeps
    | with_reducible apply modLdr_keeps
    | with_reducible apply ite_keeps
    | with_reducible apply ite_fst_keeps
    | ((with_reducible show Seq.ok _ = true); assumption)
    | ((with_reducible show Tbl.wf _ _ = true); assumption)
    | ((with_reducible show List.length _ ≤ _); assumption)
    | split
    | dsimp only)

theorem recomputeRow_keeps {pq : List Instr} {s : State} {f k row : Nat} (hk : Keeps pq s) :
    Keeps pq (recomputeRow s f k row) := by
  unfold recomputeRow
  repeat' (first
    | intro _
    | with_reducible assumption
    | with_reducible apply each_keeps
    | with_reducible apply modLdr_keeps
    | with_reducible apply modRow_keeps
    | with_reducible apply modSlot_keeps
    | with_reducible apply readMember_keeps
    | with_reducible apply rebuildLost_keeps
    | with_reducible refine opt_keeps (by assumption) ?_
    | with_reducible apply some_keepsO
    | with_reducible apply none_keepsO
    | with_reducible apply ite_keepsO
    | with_reducible apply map_keepsO
    | with_reducible apply mapOf_keepsO
    | with_reducible apply getD_keeps
    | with_reducible apply ite_keeps
    | with_reducible apply ite_fst_keeps
    | ((with_reducible show Seq.ok _ = true); assumption)
    | ((with_reducible show Tbl.wf _ _ = true); assumption)
    | ((with_reducible show List.length _ ≤ _); assumption)
    | split
    | dsimp only)

theorem memberPassed_keeps {pq : List Instr} {s : State} {f k row m : Nat} (hk : Keeps pq s) :
    Keeps pq (memberPassed s f k row m) := by
  unfold memberPassed
  repeat' (first
    | intro _
    | with_reducible assumption
    | with_reducible apply completeRow_keeps
    | with_reducible apply each_keeps
    | with_reducible apply modMember_keeps
    | with_reducible apply passCell_keeps
    | with_reducible apply recomputeRow_keeps
    | with_reducible apply rowPassed_keeps
    | with_reducible apply settleCheck_keeps
    | with_reducible apply ite_keeps
    | with_reducible apply ite_fst_keeps
    | ((with_reducible show Seq.ok _ = true); assumption)
    | ((with_reducible show Tbl.wf _ _ = true); assumption)
    | ((with_reducible show List.length _ ≤ _); assumption)
    | split
    | dsimp only)

theorem parityPassed_keeps {pq : List Instr} {s : State} {f k row : Nat} (hk : Keeps pq s) :
    Keeps pq (parityPassed s f k row) := by
  unfold parityPassed
  repeat' (first
    | intro _
    | with_reducible assumption
    | with_reducible apply modRow_keeps
    | with_reducible apply rowPassed_keeps
    | with_reducible apply ite_keeps
    | with_reducible apply ite_fst_keeps
    | ((with_reducible show Seq.ok _ = true); assumption)
    | ((with_reducible show Tbl.wf _ _ = true); assumption)
    | ((with_reducible show List.length _ ≤ _); assumption)
    | split
    | dsimp only)

theorem programAccepted_keeps {pq : List Instr} {s : State} {n : Nat} {op : DieOp} (hk : Keeps pq s) :
    Keeps pq (programAccepted s n op) := by
  unfold programAccepted
  repeat' (first
    | intro _
    | with_reducible assumption
    | with_reducible apply acceptCells_keeps
    | with_reducible apply completeRow_keeps
    | with_reducible apply modMember_keeps
    | with_reducible apply pumpFront_keeps
    | with_reducible apply ite_keeps
    | with_reducible apply ite_fst_keeps
    | ((with_reducible show Seq.ok _ = true); assumption)
    | ((with_reducible show Tbl.wf _ _ = true); assumption)
    | ((with_reducible show List.length _ ≤ _); assumption)
    | split
    | dsimp only)

theorem loseMember_keeps {pq : List Instr} {s : State} {f k row m cause port : Nat} (hk : Keeps pq s) :
    Keeps pq (loseMember s f k row m cause port) := by
  unfold loseMember
  repeat' (first
    | intro _
    | with_reducible assumption
    | with_reducible apply completeRow_keeps
    | with_reducible apply each_keeps
    | with_reducible apply modRow_keeps
    | with_reducible apply rangeLost_keeps
    | with_reducible apply rowPassed_keeps
    | with_reducible apply setRunit_keeps
    | with_reducible apply ite_keeps
    | with_reducible apply ite_fst_keeps
    | ((with_reducible show Seq.ok _ = true); assumption)
    | ((with_reducible show Tbl.wf _ _ = true); assumption)
    | ((with_reducible show List.length _ ≤ _); assumption)
    | split
    | dsimp only)

theorem memberFailed_keeps {pq : List Instr} {s : State} {f k row m : Nat} (hk : Keeps pq s) :
    Keeps pq (memberFailed s f k row m) := by
  unfold memberFailed
  repeat' (first
    | intro _
    | with_reducible assumption
    | with_reducible apply completeRow_keeps
    | with_reducible apply each_keeps
    | with_reducible apply freeSlot_keeps
    | with_reducible apply loseMember_keeps
    | with_reducible apply modFront_keeps
    | with_reducible apply modLdr_keeps
    | with_reducible apply modMember_keeps
    | with_reducible apply modRow_keeps
    | with_reducible apply modSlot_keeps
    | with_reducible apply readMember_keeps
    | with_reducible apply rebuildLost_keeps
    | with_reducible apply rowPassed_keeps
    | with_reducible refine opt_keeps (by assumption) ?_
    | with_reducible apply some_keepsO
    | with_reducible apply none_keepsO
    | with_reducible apply ite_keepsO
    | with_reducible apply map_keepsO
    | with_reducible apply mapOf_keepsO
    | with_reducible apply getD_keeps
    | with_reducible apply ite_keeps
    | with_reducible apply ite_fst_keeps
    | ((with_reducible show Seq.ok _ = true); assumption)
    | ((with_reducible show Tbl.wf _ _ = true); assumption)
    | ((with_reducible show List.length _ ≤ _); assumption)
    | split
    | dsimp only)

theorem refillLeft_keeps {pq : List Instr} {s : State} {f m : Nat} (hk : Keeps pq s) :
    Keeps pq (refillLeft s f m) := by
  unfold refillLeft
  repeat' (first
    | intro _
    | with_reducible assumption
    | with_reducible apply completeRow_keeps
    | with_reducible apply modFront_keeps
    | with_reducible apply modRow_keeps
    | with_reducible apply releaseFront_keeps
    | with_reducible apply ite_keeps
    | with_reducible apply ite_fst_keeps
    | ((with_reducible show Seq.ok _ = true); assumption)
    | ((with_reducible show Tbl.wf _ _ = true); assumption)
    | ((with_reducible show List.length _ ≤ _); assumption)
    | split
    | dsimp only)

theorem dropPortMembers_keeps {pq : List Instr} {s : State} {n : Nat} (hk : Keeps pq s) :
    Keeps pq (dropPortMembers s n) := by
  unfold dropPortMembers
  repeat' (first
    | intro _
    | with_reducible assumption
    | with_reducible apply each_keeps
    | with_reducible apply endSuite_keeps
    | with_reducible apply modSuite_keeps
    | with_reducible apply pumpFront_keeps
    | with_reducible apply refillLeft_keeps
    | with_reducible apply ite_keeps
    | with_reducible apply ite_fst_keeps
    | ((with_reducible show Seq.ok _ = true); assumption)
    | ((with_reducible show Tbl.wf _ _ = true); assumption)
    | ((with_reducible show List.length _ ≤ _); assumption)
    | split
    | dsimp only)

theorem programFailed_keeps {pq : List Instr} {s : State} {f k row m : Nat} (hk : Keeps pq s) :
    Keeps pq (programFailed s f k row m) := by
  unfold programFailed
  repeat' (first
    | intro _
    | with_reducible assumption
    | with_reducible apply endSuite_keeps
    | with_reducible apply memberFailed_keeps
    | with_reducible apply modSuite_keeps
    | with_reducible apply pumpFront_keeps
    | with_reducible apply refillLeft_keeps
    | with_reducible apply removeMember_keeps
    | with_reducible apply ite_keeps
    | with_reducible apply ite_fst_keeps
    | ((with_reducible show Seq.ok _ = true); assumption)
    | ((with_reducible show Tbl.wf _ _ = true); assumption)
    | ((with_reducible show List.length _ ≤ _); assumption)
    | split
    | dsimp only)

theorem parityFailed_keeps {pq : List Instr} {s : State} {f k row : Nat} (hk : Keeps pq s) :
    Keeps pq (parityFailed s f k row) := by
  unfold parityFailed
  repeat' (first
    | intro _
    | with_reducible assumption
    | with_reducible apply modRow_keeps
    | with_reducible apply modSuite_keeps
    | with_reducible apply refillLeft_keeps
    | with_reducible apply removeMember_keeps
    | with_reducible apply rowPassed_keeps
    | with_reducible apply ite_keeps
    | with_reducible apply ite_fst_keeps
    | ((with_reducible show Seq.ok _ = true); assumption)
    | ((with_reducible show Tbl.wf _ _ = true); assumption)
    | ((with_reducible show List.length _ ≤ _); assumption)
    | split
    | dsimp only)

theorem recomputed_keeps {pq : List Instr} {s : State} {f k row : Nat} {ok : Bool} (hk : Keeps pq s) :
    Keeps pq (recomputed s f k row ok) := by
  unfold recomputed
  repeat' (first
    | intro _
    | with_reducible assumption
    | with_reducible apply each_keeps
    | with_reducible apply modRow_keeps
    | with_reducible apply modSlot_keeps
    | with_reducible apply modSuite_keeps
    | with_reducible apply programOp_keeps
    | with_reducible apply ite_keeps
    | with_reducible apply ite_fst_keeps
    | ((with_reducible show Seq.ok _ = true); assumption)
    | ((with_reducible show Tbl.wf _ _ = true); assumption)
    | ((with_reducible show List.length _ ≤ _); assumption)
    | split
    | dsimp only)

theorem rebuildComplete_keeps {pq : List Instr} {s : State} {f row m : Nat} (hk : Keeps pq s) :
    Keeps pq (rebuildComplete s f row m) := by
  unfold rebuildComplete
  repeat' (first
    | intro _
    | with_reducible assumption
    | with_reducible apply completeRow_keeps
    | with_reducible apply dispatchSlot_keeps
    | with_reducible apply each_keeps
    | with_reducible apply loseMember_keeps
    | with_reducible apply modFront_keeps
    | with_reducible apply modLdr_keeps
    | with_reducible apply modMember_keeps
    | with_reducible apply modPan_keeps
    | with_reducible apply modRow_keeps
    | with_reducible apply pumpFront_keeps
    | with_reducible apply recomputed_keeps
    | with_reducible apply rowPassed_keeps
    | with_reducible apply takeSlot_keeps
    | with_reducible refine fst_keeps (by assumption) ?_
    | with_reducible apply ite_keeps
    | with_reducible apply ite_fst_keeps
    | ((with_reducible show Seq.ok _ = true); assumption)
    | ((with_reducible show Tbl.wf _ _ = true); assumption)
    | ((with_reducible show List.length _ ≤ _); assumption)
    | split
    | dsimp only)

theorem supersede_keeps {pq : List Instr} {s : State} {ns unit newTag : Nat} (hk : Keeps pq s) :
    Keeps pq (supersede s ns unit newTag) := by
  unfold supersede
  repeat' (first
    | intro _
    | with_reducible assumption
    | with_reducible apply addDep_keeps
    | with_reducible apply freeSlot_keeps
    | with_reducible apply modFront_keeps
    | with_reducible apply modSlot_keeps
    | with_reducible apply ite_keeps
    | with_reducible apply ite_fst_keeps
    | ((with_reducible show Seq.ok _ = true); assumption)
    | ((with_reducible show Tbl.wf _ _ = true); assumption)
    | ((with_reducible show List.length _ ≤ _); assumption)
    | split
    | dsimp only)

theorem slotUe_keeps {pq : List Instr} {s : State} {k : Nat} (hk : Keeps pq s) :
    Keeps pq (slotUe s k) := by
  unfold slotUe
  repeat' (first
    | intro _
    | with_reducible assumption
    | with_reducible apply modFront_keeps
    | with_reducible apply modSlot_keeps
    | with_reducible apply rangeLost_keeps
    | with_reducible apply set1_keeps
    | with_reducible apply settleCheck_keeps
    | with_reducible apply ite_keeps
    | with_reducible apply ite_fst_keeps
    | ((with_reducible show Seq.ok _ = true); assumption)
    | ((with_reducible show Tbl.wf _ _ = true); assumption)
    | ((with_reducible show List.length _ ≤ _); assumption)
    | split
    | dsimp only)

theorem wtCheck_keeps {pq : List Instr} {s : State}  (hk : Keeps pq s) :
    Keeps pq (wtCheck s) := by
  unfold wtCheck
  repeat' (first
    | intro _
    | with_reducible assumption
    | with_reducible apply closeBatch_keeps
    | with_reducible apply closeHostFronts_keeps
    | with_reducible apply modLdr_keeps
    | with_reducible apply ite_keeps
    | with_reducible apply ite_fst_keeps
    | ((with_reducible show Seq.ok _ = true); assumption)
    | ((with_reducible show Tbl.wf _ _ = true); assumption)
    | ((with_reducible show List.length _ ≤ _); assumption)
    | split
    | dsimp only)

theorem larderDrain_keeps {pq : List Instr} {s : State}  (hk : Keeps pq s) :
    Keeps pq (larderDrain s) := by
  unfold larderDrain
  repeat' (first
    | intro _
    | with_reducible assumption
    | with_reducible apply drainCheck_keeps
    | with_reducible apply each_keeps
    | with_reducible apply endSuite_keeps
    | with_reducible apply set1_keeps
    | with_reducible apply ite_keeps
    | with_reducible apply ite_fst_keeps
    | ((with_reducible show Seq.ok _ = true); assumption)
    | ((with_reducible show Tbl.wf _ _ = true); assumption)
    | ((with_reducible show List.length _ ≤ _); assumption)
    | split
    | dsimp only)

end Sys2Proof.Machine
end

