-- ==== Sys2Proof/Laws/KeepLaundryOps.lean ====
section
/-!
SUPPORT. The invariant under the operations and commands of LaundryOps: each keeps it and the queue (Keeps); a command answers a next state (Goes).
-/
set_option linter.unusedTactic false
set_option linter.unreachableTactic false
set_option linter.unusedVariables false
namespace Sys2Proof.Machine

theorem setTracked_keeps {pq : List Instr} {s : State} {n d g v : Nat} (hk : Keeps pq s) :
    Keeps pq (setTracked s n d g v) := by
  unfold setTracked
  repeat' (first
    | intro _
    | with_reducible assumption
    | with_reducible apply modLnd_keeps
    | with_reducible apply ite_keeps
    | with_reducible apply ite_fst_keeps
    | ((with_reducible show Seq.ok _ = true); assumption)
    | ((with_reducible show Tbl.wf _ _ = true); assumption)
    | ((with_reducible show List.length _ ≤ _); assumption)
    | split
    | dsimp only)

theorem setDescLvl_keeps {pq : List Instr} {s : State} {n i sense v : Nat} (hk : Keeps pq s) :
    Keeps pq (setDescLvl s n i sense v) := by
  unfold setDescLvl
  repeat' (first
    | intro _
    | with_reducible assumption
    | with_reducible apply modLnd_keeps
    | with_reducible apply ite_keeps
    | with_reducible apply ite_fst_keeps
    | ((with_reducible show Seq.ok _ = true); assumption)
    | ((with_reducible show Tbl.wf _ _ = true); assumption)
    | ((with_reducible show List.length _ ≤ _); assumption)
    | split
    | dsimp only)

theorem queueCal_keeps {pq : List Instr} {s : State} {n d g : Nat} {w : Option (Nat × Nat)} (hk : Keeps pq s) :
    Keeps pq (queueCal s n d g w) := by
  unfold queueCal
  repeat' (first
    | intro _
    | with_reducible assumption
    | with_reducible apply modLnd_keeps
    | with_reducible apply ite_keeps
    | with_reducible apply ite_fst_keeps
    | ((with_reducible show Seq.ok _ = true); assumption)
    | ((with_reducible show Tbl.wf _ _ = true); assumption)
    | ((with_reducible show List.length _ ≤ _); assumption)
    | split
    | dsimp only)

theorem track_keeps {pq : List Instr} {s : State} {n : Nat} {op : DieOp} {g ones zeros : Nat} (hk : Keeps pq s) :
    Keeps pq (track s n op g ones zeros) := by
  unfold track
  repeat' (first
    | intro _
    | with_reducible assumption
    | with_reducible apply modLnd_keeps
    | with_reducible apply queueCal_keeps
    | with_reducible apply setTracked_keeps
    | with_reducible apply ite_keeps
    | with_reducible apply ite_fst_keeps
    | ((with_reducible show Seq.ok _ = true); assumption)
    | ((with_reducible show Tbl.wf _ _ = true); assumption)
    | ((with_reducible show List.length _ ≤ _); assumption)
    | split
    | dsimp only)

theorem retireDie_keeps {pq : List Instr} {s : State} {n d : Nat} (hk : Keeps pq s) :
    Keeps pq (retireDie s n d) := by
  unfold retireDie
  repeat' (first
    | intro _
    | with_reducible assumption
    | with_reducible apply jAppend_keeps
    | with_reducible apply modScu_keeps
    | with_reducible apply post_keeps
    | with_reducible apply ite_keeps
    | with_reducible apply ite_fst_keeps
    | ((with_reducible show Seq.ok _ = true); assumption)
    | ((with_reducible show Tbl.wf _ _ = true); assumption)
    | ((with_reducible show List.length _ ≤ _); assumption)
    | split
    | dsimp only)

theorem notice_keeps {pq : List Instr} {s : State} {kind n : Nat} {op : DieOp} (hk : Keeps pq s) :
    Keeps pq (notice s kind n op) := by
  unfold notice
  repeat' (first
    | intro _
    | with_reducible assumption
    | with_reducible apply modScu_keeps
    | with_reducible apply modSuite_keeps
    | with_reducible apply retireDie_keeps
    | with_reducible apply ite_keeps
    | with_reducible apply ite_fst_keeps
    | ((with_reducible show Seq.ok _ = true); assumption)
    | ((with_reducible show Tbl.wf _ _ = true); assumption)
    | ((with_reducible show List.length _ ≤ _); assumption)
    | split
    | dsimp only)

theorem mergeSlot_keeps {pq : List Instr} {s : State} {n k : Nat} {d : Blk} {md : Meta} (hk : Keeps pq s) :
    Keeps pq (mergeSlot s n k d md) := by
  unfold mergeSlot
  repeat' (first
    | intro _
    | with_reducible assumption
    | with_reducible apply modSlot_keeps
    | with_reducible apply ite_keeps
    | with_reducible apply ite_fst_keeps
    | ((with_reducible show Seq.ok _ = true); assumption)
    | ((with_reducible show Tbl.wf _ _ = true); assumption)
    | ((with_reducible show List.length _ ≤ _); assumption)
    | split
    | dsimp only)

theorem mergeFailed_keeps {pq : List Instr} {s : State} {n : Nat} (hk : Keeps pq s) :
    Keeps pq (mergeFailed s n) := by
  unfold mergeFailed
  repeat' (first
    | intro _
    | with_reducible assumption
    | with_reducible apply finish_keeps
    | with_reducible apply modCtx_keeps
    | with_reducible apply returnSlots_keeps
    | with_reducible apply ite_keeps
    | with_reducible apply ite_fst_keeps
    | ((with_reducible show Seq.ok _ = true); assumption)
    | ((with_reducible show Tbl.wf _ _ = true); assumption)
    | ((with_reducible show List.length _ ≤ _); assumption)
    | split
    | dsimp only)

theorem copyWord_keeps {pq : List Instr} {s : State} {k suite : Nat} {d : Blk} {md : Meta} (hk : Keeps pq s) :
    Keeps pq (copyWord s k suite d md) := by
  unfold copyWord
  repeat' (first
    | intro _
    | with_reducible assumption
    | with_reducible apply joinReclaim_keeps
    | with_reducible apply modSlot_keeps
    | with_reducible apply ite_keeps
    | with_reducible apply ite_fst_keeps
    | ((with_reducible show Seq.ok _ = true); assumption)
    | ((with_reducible show Tbl.wf _ _ = true); assumption)
    | ((with_reducible show List.length _ ≤ _); assumption)
    | split
    | dsimp only)

theorem deliver_keeps {pq : List Instr} {s : State} {n : Nat} {op : DieOp} {d : Blk} {md : Meta} (hk : Keeps pq s) :
    Keeps pq (deliver s n op d md) := by
  unfold deliver
  repeat' (first
    | intro _
    | with_reducible assumption
    | with_reducible apply copyWord_keeps
    | with_reducible apply mergeSlot_keeps
    | with_reducible apply modLnd_keeps
    | with_reducible apply modSlot_keeps
    | with_reducible apply rebuildWord_keeps
    | with_reducible apply ite_keeps
    | with_reducible apply ite_fst_keeps
    | ((with_reducible show Seq.ok _ = true); assumption)
    | ((with_reducible show Tbl.wf _ _ = true); assumption)
    | ((with_reducible show List.length _ ≤ _); assumption)
    | split
    | dsimp only)

theorem paceDown_keeps {pq : List Instr} {s : State} {n : Nat} {op : DieOp} (hk : Keeps pq s) :
    Keeps pq (paceDown s n op) := by
  unfold paceDown
  repeat' (first
    | intro _
    | with_reducible assumption
    | with_reducible apply modLnd_keeps
    | with_reducible apply ite_keeps
    | with_reducible apply ite_fst_keeps
    | ((with_reducible show Seq.ok _ = true); assumption)
    | ((with_reducible show Tbl.wf _ _ = true); assumption)
    | ((with_reducible show List.length _ ≤ _); assumption)
    | split
    | dsimp only)

theorem secondRead_keeps {pq : List Instr} {s : State} {n : Nat} {op : DieOp} {k u : Nat} (hk : Keeps pq s) :
    Keeps pq (secondRead s n op k u) := by
  unfold secondRead
  repeat' (first
    | intro _
    | with_reducible assumption
    | with_reducible apply each_keeps
    | with_reducible apply modLnd_keeps
    | with_reducible apply queueCal_keeps
    | with_reducible apply readUnit_keeps
    | with_reducible apply setUncorr_keeps
    | with_reducible refine opt_keeps (by assumption) ?_
    | with_reducible apply some_keepsO
    | with_reducible apply none_keepsO
    | with_reducible apply ite_keepsO
    | with_reducible apply map_keepsO
    | with_reducible apply mapOf_keepsO
    | with_reducible apply getD_keeps
    | with_reducible apply ite_keeps
    | with_reducible apply ite_fst_keeps
    | ((with_reducible show Seq.ok _ = true); assumption)
    | ((with_reducible show Tbl.wf _ _ = true); assumption)
    | ((with_reducible show List.length _ ≤ _); assumption)
    | split
    | dsimp only)

theorem deliverFail_keeps {pq : List Instr} {s : State} {n : Nat} {op : DieOp} {portLost : Bool} (hk : Keeps pq s) :
    Keeps pq (deliverFail s n op portLost) := by
  unfold deliverFail
  repeat' (first
    | intro _
    | with_reducible assumption
    | with_reducible apply each_keeps
    | with_reducible apply freeSlot_keeps
    | with_reducible apply mergeFailed_keeps
    | with_reducible apply modLnd_keeps
    | with_reducible apply modScu_keeps
    | with_reducible apply paceDown_keeps
    | with_reducible apply rebuildLost_keeps
    | with_reducible apply secondRead_keeps
    | with_reducible apply setRunit_keeps
    | with_reducible apply unpinMedia_keeps
    | with_reducible apply ite_keeps
    | with_reducible apply ite_fst_keeps
    | ((with_reducible show Seq.ok _ = true); assumption)
    | ((with_reducible show Tbl.wf _ _ = true); assumption)
    | ((with_reducible show List.length _ ≤ _); assumption)
    | split
    | dsimp only)

theorem modClimb_keeps {pq : List Instr} {s : State} {n i : Nat} {f : Climb → Climb} (hk : Keeps pq s) :
    Keeps pq (modClimb s n i f) := by
  unfold modClimb
  repeat' (first
    | intro _
    | with_reducible assumption
    | with_reducible apply modLnd_keeps
    | with_reducible apply ite_keeps
    | with_reducible apply ite_fst_keeps
    | ((with_reducible show Seq.ok _ = true); assumption)
    | ((with_reducible show Tbl.wf _ _ = true); assumption)
    | ((with_reducible show List.length _ ≤ _); assumption)
    | split
    | dsimp only)

theorem readDone_keeps {pq : List Instr} {s : State} {n i : Nat} (hk : Keeps pq s) :
    Keeps pq (readDone s n i) := by
  unfold readDone
  repeat' (first
    | intro _
    | with_reducible assumption
    | with_reducible apply bump_keeps
    | with_reducible apply modSeq_keeps
    | with_reducible apply raise_keeps
    | with_reducible apply setReg_ok
    | with_reducible apply refill_ok
    | with_reducible apply deliver_ok
    | with_reducible apply ite_keeps
    | with_reducible apply ite_fst_keeps
    | ((with_reducible show Seq.ok _ = true); assumption)
    | ((with_reducible show Tbl.wf _ _ = true); assumption)
    | ((with_reducible show List.length _ ≤ _); assumption)
    | refine ok_mem (by assumption) (by first | exact Or.inl rfl | exact Or.inr rfl) (by rfl) ?_ ?_
    | with_reducible apply Tbl.wf_writeBytes
    | with_reducible apply Tbl.wf_setD
    | with_reducible apply Tbl.wf_filter
    | with_reducible apply Tbl.wf_foldl
    | exact Tbl.wf_nil _
    | split
    | dsimp only)

theorem endCw_keeps {pq : List Instr} {s : State} {n i cw : Nat} {soft : Bool} (hk : Keeps pq s) :
    Keeps pq (endCw s n i cw soft) := by
  unfold endCw
  repeat' (first
    | intro _
    | with_reducible assumption
    | with_reducible apply modClimb_keeps
    | with_reducible apply modSeq_keeps
    | with_reducible apply readDone_keeps
    | with_reducible apply setReg_ok
    | with_reducible apply refill_ok
    | with_reducible apply deliver_ok
    | with_reducible apply ite_keeps
    | with_reducible apply ite_fst_keeps
    | ((with_reducible show Seq.ok _ = true); assumption)
    | ((with_reducible show Tbl.wf _ _ = true); assumption)
    | ((with_reducible show List.length _ ≤ _); assumption)
    | refine ok_mem (by assumption) (by first | exact Or.inl rfl | exact Or.inr rfl) (by rfl) ?_ ?_
    | with_reducible apply Tbl.wf_writeBytes
    | with_reducible apply Tbl.wf_setD
    | with_reducible apply Tbl.wf_filter
    | with_reducible apply Tbl.wf_foldl
    | exact Tbl.wf_nil _
    | split
    | dsimp only)

theorem countVerdict_keeps {pq : List Instr} {s : State} {n v : Nat} (hk : Keeps pq s) :
    Keeps pq (countVerdict s n v) := by
  unfold countVerdict
  repeat' (first
    | intro _
    | with_reducible assumption
    | with_reducible apply bump_keeps
    | with_reducible apply ite_keeps
    | with_reducible apply ite_fst_keeps
    | ((with_reducible show Seq.ok _ = true); assumption)
    | ((with_reducible show Tbl.wf _ _ = true); assumption)
    | ((with_reducible show List.length _ ≤ _); assumption)
    | split
    | dsimp only)

theorem cwGood_keeps {pq : List Instr} {s : State} {n i cw v row : Nat} {op : DieOp} {d : Blk} {md : Meta} (hk : Keeps pq s) :
    Keeps pq (cwGood s n i cw v row op d md) := by
  unfold cwGood
  repeat' (first
    | intro _
    | with_reducible assumption
    | with_reducible apply countVerdict_keeps
    | with_reducible apply deliver_keeps
    | with_reducible apply each_keeps
    | with_reducible apply endCw_keeps
    | with_reducible apply modClimb_keeps
    | with_reducible apply notice_keeps
    | with_reducible apply ite_keeps
    | with_reducible apply ite_fst_keeps
    | ((with_reducible show Seq.ok _ = true); assumption)
    | ((with_reducible show Tbl.wf _ _ = true); assumption)
    | ((with_reducible show List.length _ ≤ _); assumption)
    | split
    | dsimp only)

theorem cwBad_keeps {pq : List Instr} {s : State} {n i cw v : Nat} {op : DieOp} {portLost : Bool} (hk : Keeps pq s) :
    Keeps pq (cwBad s n i cw v op portLost) := by
  unfold cwBad
  repeat' (first
    | intro _
    | with_reducible assumption
    | with_reducible apply countVerdict_keeps
    | with_reducible apply deliverFail_keeps
    | with_reducible apply each_keeps
    | with_reducible apply endCw_keeps
    | with_reducible apply modClimb_keeps
    | with_reducible apply notice_keeps
    | with_reducible apply ite_keeps
    | with_reducible apply ite_fst_keeps
    | ((with_reducible show Seq.ok _ = true); assumption)
    | ((with_reducible show Tbl.wf _ _ = true); assumption)
    | ((with_reducible show List.length _ ≤ _); assumption)
    | split
    | dsimp only)

theorem startStripe_keeps {pq : List Instr} {s : State} {n : Nat} {op : DieOp} {cw : Nat} {soft : Bool} (hk : Keeps pq s) :
    KeepsO pq (startStripe s n op cw soft) := by
  unfold startStripe
  repeat' (first
    | intro _
    | with_reducible assumption
    | with_reducible apply each_keeps
    | with_reducible apply modLnd_keeps
    | with_reducible apply readMember_keeps
    | with_reducible refine opt_keeps (by assumption) ?_
    | with_reducible apply some_keepsO
    | with_reducible apply none_keepsO
    | with_reducible apply ite_keepsO
    | with_reducible apply map_keepsO
    | with_reducible apply mapOf_keepsO
    | with_reducible apply getD_keeps
    | with_reducible apply ite_keeps
    | with_reducible apply ite_fst_keeps
    | ((with_reducible show Seq.ok _ = true); assumption)
    | ((with_reducible show Tbl.wf _ _ = true); assumption)
    | ((with_reducible show List.length _ ≤ _); assumption)
    | split
    | dsimp only)

theorem stripeDone_keeps {pq : List Instr} {s : State} {id : Nat} (hk : Keeps pq s) :
    Keeps pq (stripeDone s id) := by
  unfold stripeDone
  repeat' (first
    | intro _
    | with_reducible assumption
    | with_reducible apply countVerdict_keeps
    | with_reducible apply deliver_keeps
    | with_reducible apply deliverFail_keeps
    | with_reducible apply each_keeps
    | with_reducible apply modLnd_keeps
    | with_reducible apply notice_keeps
    | with_reducible apply post_keeps
    | with_reducible apply ite_keeps
    | with_reducible apply ite_fst_keeps
    | ((with_reducible show Seq.ok _ = true); assumption)
    | ((with_reducible show Tbl.wf _ _ = true); assumption)
    | ((with_reducible show List.length _ ≤ _); assumption)
    | split
    | dsimp only)

theorem nextRow_keeps {pq : List Instr} {s : State} {n i : Nat} (hk : Keeps pq s) :
    Keeps pq (nextRow s n i) := by
  unfold nextRow
  repeat' (first
    | intro _
    | with_reducible assumption
    | with_reducible apply countRead_keeps
    | with_reducible apply cwBad_keeps
    | with_reducible apply each_keeps
    | with_reducible apply endCw_keeps
    | with_reducible apply modClimb_keeps
    | with_reducible apply modSeq_keeps
    | with_reducible apply raise_keeps
    | with_reducible apply setDescArg_keeps
    | with_reducible apply setDescLvl_keeps
    | with_reducible apply startStripe_keeps
    | with_reducible refine opt_keeps (by assumption) ?_
    | with_reducible apply some_keepsO
    | with_reducible apply none_keepsO
    | with_reducible apply ite_keepsO
    | with_reducible apply map_keepsO
    | with_reducible apply mapOf_keepsO
    | with_reducible apply getD_keeps
    | with_reducible apply setReg_ok
    | with_reducible apply refill_ok
    | with_reducible apply deliver_ok
    | with_reducible apply ite_keeps
    | with_reducible apply ite_fst_keeps
    | ((with_reducible show Seq.ok _ = true); assumption)
    | ((with_reducible show Tbl.wf _ _ = true); assumption)
    | ((with_reducible show List.length _ ≤ _); assumption)
    | refine ok_mem (by assumption) (by first | exact Or.inl rfl | exact Or.inr rfl) (by rfl) ?_ ?_
    | with_reducible apply Tbl.wf_writeBytes
    | with_reducible apply Tbl.wf_setD
    | with_reducible apply Tbl.wf_filter
    | with_reducible apply Tbl.wf_foldl
    | exact Tbl.wf_nil _
    | split
    | dsimp only)

theorem joinClimb_keeps {pq : List Instr} {s : State} {n i cw : Nat} {op : DieOp} (hk : Keeps pq s) :
    KeepsO pq (joinClimb s n i cw op) := by
  unfold joinClimb
  repeat' (first
    | intro _
    | with_reducible assumption
    | with_reducible apply endCw_keeps
    | with_reducible apply modClimb_keeps
    | with_reducible apply startStripe_keeps
    | with_reducible refine opt_keeps (by assumption) ?_
    | with_reducible apply some_keepsO
    | with_reducible apply none_keepsO
    | with_reducible apply ite_keepsO
    | with_reducible apply map_keepsO
    | with_reducible apply mapOf_keepsO
    | with_reducible apply getD_keeps
    | with_reducible apply ite_keeps
    | with_reducible apply ite_fst_keeps
    | ((with_reducible show Seq.ok _ = true); assumption)
    | ((with_reducible show Tbl.wf _ _ = true); assumption)
    | ((with_reducible show List.length _ ≤ _); assumption)
    | split
    | dsimp only)

theorem cwFailed_keeps {pq : List Instr} {s : State} {n i cw : Nat} {found : Option (Nat × Nat × Nat)} (hk : Keeps pq s) :
    Keeps pq (cwFailed s n i cw found) := by
  unfold cwFailed
  repeat' (first
    | intro _
    | with_reducible assumption
    | with_reducible apply modClimb_keeps
    | with_reducible apply nextRow_keeps
    | with_reducible apply ite_keeps
    | with_reducible apply ite_fst_keeps
    | ((with_reducible show Seq.ok _ = true); assumption)
    | ((with_reducible show Tbl.wf _ _ = true); assumption)
    | ((with_reducible show List.length _ ≤ _); assumption)
    | split
    | dsimp only)

theorem landHandover_keeps {pq : List Instr} {s : State} {n i : Nat} {op : DieOp} (hk : Keeps pq s) :
    Keeps pq (landHandover s n i op) := by
  unfold landHandover
  repeat' (first
    | intro _
    | with_reducible assumption
    | with_reducible apply modLnd_keeps
    | with_reducible apply setDescArg_keeps
    | with_reducible apply setDescLvl_keeps
    | with_reducible apply ite_keeps
    | with_reducible apply ite_fst_keeps
    | ((with_reducible show Seq.ok _ = true); assumption)
    | ((with_reducible show Tbl.wf _ _ = true); assumption)
    | ((with_reducible show List.length _ ≤ _); assumption)
    | split
    | dsimp only)

theorem landHardIn_keeps {pq : List Instr} {s : State} {n i cw : Nat} (hk : Keeps pq s) :
    Keeps pq (landHardIn s n i cw) := by
  unfold landHardIn
  repeat' (first
    | intro _
    | with_reducible assumption
    | with_reducible apply modClimb_keeps
    | with_reducible apply modLnd_keeps
    | with_reducible apply ite_keeps
    | with_reducible apply ite_fst_keeps
    | ((with_reducible show Seq.ok _ = true); assumption)
    | ((with_reducible show Tbl.wf _ _ = true); assumption)
    | ((with_reducible show List.length _ ≤ _); assumption)
    | split
    | dsimp only)

theorem landLadderRetire_keeps {pq : List Instr} {s : State} {n : Nat} (hk : Keeps pq s) :
    Keeps pq (landLadderRetire s n) := by
  unfold landLadderRetire
  repeat' (first
    | intro _
    | with_reducible assumption
    | with_reducible apply countVerdict_keeps
    | with_reducible apply deliverFail_keeps
    | with_reducible apply each_keeps
    | with_reducible apply modLnd_keeps
    | with_reducible apply startStripe_keeps
    | with_reducible refine opt_keeps (by assumption) ?_
    | with_reducible apply some_keepsO
    | with_reducible apply none_keepsO
    | with_reducible apply ite_keepsO
    | with_reducible apply map_keepsO
    | with_reducible apply mapOf_keepsO
    | with_reducible apply getD_keeps
    | with_reducible apply ite_keeps
    | with_reducible apply ite_fst_keeps
    | ((with_reducible show Seq.ok _ = true); assumption)
    | ((with_reducible show Tbl.wf _ _ = true); assumption)
    | ((with_reducible show List.length _ ≤ _); assumption)
    | split
    | dsimp only)

theorem readLost_keeps {pq : List Instr} {s : State} {n : Nat} {op : DieOp} {portLost : Bool} (hk : Keeps pq s) :
    Keeps pq (readLost s n op portLost) := by
  unfold readLost
  repeat' (first
    | intro _
    | with_reducible assumption
    | with_reducible apply countVerdict_keeps
    | with_reducible apply deliverFail_keeps
    | with_reducible apply each_keeps
    | with_reducible apply notice_keeps
    | with_reducible apply startStripe_keeps
    | with_reducible refine opt_keeps (by assumption) ?_
    | with_reducible apply some_keepsO
    | with_reducible apply none_keepsO
    | with_reducible apply ite_keepsO
    | with_reducible apply map_keepsO
    | with_reducible apply mapOf_keepsO
    | with_reducible apply getD_keeps
    | with_reducible apply ite_keeps
    | with_reducible apply ite_fst_keeps
    | ((with_reducible show Seq.ok _ = true); assumption)
    | ((with_reducible show Tbl.wf _ _ = true); assumption)
    | ((with_reducible show List.length _ ≤ _); assumption)
    | split
    | dsimp only)

end Sys2Proof.Machine
end

