-- ==== Sys2Proof/Laws/KeepEngines.lean ====
section
/-!
SUPPORT. The invariant under the operations and commands of Engines: each keeps it and the queue (Keeps); a command answers a next state (Goes).
-/
set_option linter.unusedTactic false
set_option linter.unreachableTactic false
set_option linter.unusedVariables false
namespace Sys2Proof.Machine

theorem erasePassed_keeps {pq : List Instr} {s : State} {k m : Nat} (hk : Keeps pq s) :
    Keeps pq (erasePassed s k m) := by
  unfold erasePassed
  repeat' (first
    | intro _
    | with_reducible assumption
    | with_reducible apply modScu_keeps
    | with_reducible apply ite_keeps
    | with_reducible apply ite_fst_keeps
    | ((with_reducible show Seq.ok _ = true); assumption)
    | ((with_reducible show Tbl.wf _ _ = true); assumption)
    | ((with_reducible show List.length _ ≤ _); assumption)
    | split
    | dsimp only)

theorem eraseFailed_keeps {pq : List Instr} {s : State} {k m : Nat} (hk : Keeps pq s) :
    Keeps pq (eraseFailed s k m) := by
  unfold eraseFailed
  repeat' (first
    | intro _
    | with_reducible assumption
    | with_reducible apply erasePassed_keeps
    | with_reducible apply modNvm_keeps
    | with_reducible apply modScu_keeps
    | with_reducible apply modSuite_keeps
    | with_reducible apply suiteRecord_keeps
    | with_reducible apply ite_keeps
    | with_reducible apply ite_fst_keeps
    | ((with_reducible show Seq.ok _ = true); assumption)
    | ((with_reducible show Tbl.wf _ _ = true); assumption)
    | ((with_reducible show List.length _ ≤ _); assumption)
    | split
    | dsimp only)

theorem foldPassed_keeps {pq : List Instr} {s : State} {k row m : Nat} (hk : Keeps pq s) :
    Keeps pq (foldPassed s k row m) := by
  unfold foldPassed
  repeat' (first
    | intro _
    | with_reducible assumption
    | with_reducible apply closedSuite_keeps
    | with_reducible apply each_keeps
    | with_reducible apply mapChange_keeps
    | with_reducible apply modScu_keeps
    | with_reducible apply modSuite_keeps
    | with_reducible apply suiteRecord_keeps
    | with_reducible apply ite_keeps
    | with_reducible apply ite_fst_keeps
    | ((with_reducible show Seq.ok _ = true); assumption)
    | ((with_reducible show Tbl.wf _ _ = true); assumption)
    | ((with_reducible show List.length _ ≤ _); assumption)
    | split
    | dsimp only)

theorem foldStop_keeps {pq : List Instr} {s : State} {k : Nat} (hk : Keeps pq s) :
    Keeps pq (foldStop s k) := by
  unfold foldStop
  repeat' (first
    | intro _
    | with_reducible assumption
    | with_reducible apply closedSuite_keeps
    | with_reducible apply modScu_keeps
    | with_reducible apply modSuite_keeps
    | with_reducible apply ite_keeps
    | with_reducible apply ite_fst_keeps
    | ((with_reducible show Seq.ok _ = true); assumption)
    | ((with_reducible show Tbl.wf _ _ = true); assumption)
    | ((with_reducible show List.length _ ≤ _); assumption)
    | split
    | dsimp only)

theorem dumpProgram_keeps {pq : List Instr} {s : State} {i wave : Nat} {slots : List Nat} {count : Nat} (hk : Keeps pq s) :
    Keeps pq (dumpProgram s i wave slots count) := by
  unfold dumpProgram
  repeat' (first
    | intro _
    | with_reducible assumption
    | with_reducible apply offer_keeps
    | with_reducible apply ite_keeps
    | with_reducible apply ite_fst_keeps
    | ((with_reducible show Seq.ok _ = true); assumption)
    | ((with_reducible show Tbl.wf _ _ = true); assumption)
    | ((with_reducible show List.length _ ≤ _); assumption)
    | split
    | dsimp only)

theorem dumpAgain_keeps {pq : List Instr} {s : State} {n : Nat} {op : DieOp} {wave : Nat} (hk : Keeps pq s) :
    Keeps pq (dumpAgain s n op wave) := by
  unfold dumpAgain
  repeat' (first
    | intro _
    | with_reducible assumption
    | with_reducible apply offer_keeps
    | with_reducible apply ite_keeps
    | with_reducible apply ite_fst_keeps
    | ((with_reducible show Seq.ok _ = true); assumption)
    | ((with_reducible show Tbl.wf _ _ = true); assumption)
    | ((with_reducible show List.length _ ≤ _); assumption)
    | split
    | dsimp only)

theorem opOutcome_keeps {pq : List Instr} {s : State} {n : Nat} {op : DieOp} {res : OpResult} (hk : Keeps pq s) :
    Keeps pq (opOutcome s n op res) := by
  unfold opOutcome
  repeat' (first
    | intro _
    | with_reducible assumption
    | with_reducible apply dumpAgain_keeps
    | with_reducible apply eraseFailed_keeps
    | with_reducible apply erasePassed_keeps
    | with_reducible apply foldPassed_keeps
    | with_reducible apply foldStop_keeps
    | with_reducible apply memberPassed_keeps
    | with_reducible apply modNvm_keeps
    | with_reducible apply parityFailed_keeps
    | with_reducible apply parityPassed_keeps
    | with_reducible apply programFailed_keeps
    | with_reducible apply readLost_keeps
    | with_reducible apply ite_keeps
    | with_reducible apply ite_fst_keeps
    | ((with_reducible show Seq.ok _ = true); assumption)
    | ((with_reducible show Tbl.wf _ _ = true); assumption)
    | ((with_reducible show List.length _ ≤ _); assumption)
    | split
    | dsimp only)

theorem endDesc_keeps {pq : List Instr} {s : State} {n i detail : Nat} {res : OpResult} (hk : Keeps pq s) :
    Keeps pq (endDesc s n i detail res) := by
  unfold endDesc
  repeat' (first
    | intro _
    | with_reducible assumption
    | with_reducible apply leaveDie_keeps
    | with_reducible apply modSeq_keeps
    | with_reducible apply opOutcome_keeps
    | with_reducible apply raise_keeps
    | with_reducible apply setDescState_keeps
    | with_reducible apply withdraw_keeps
    | with_reducible apply setReg_ok
    | with_reducible apply refill_ok
    | with_reducible apply deliver_ok
    | with_reducible apply ite_keeps
    | with_reducible apply ite_fst_keeps
    | ((with_reducible show Seq.ok _ = true); assumption)
    | ((with_reducible show Tbl.wf _ _ = true); assumption)
    | ((with_reducible show List.length _ ≤ _); assumption)
    | refine ok_mem (by assumption) (by first | exact Or.inl rfl | exact Or.inr rfl) (by rfl) ?_ ?_
    | with_reducible apply Tbl.wf_writeBytes
    | with_reducible apply Tbl.wf_setD
    | with_reducible apply Tbl.wf_filter
    | with_reducible apply Tbl.wf_foldl
    | exact Tbl.wf_nil _
    | split
    | dsimp only)

theorem endRing_keeps {pq : List Instr} {s : State} {n : Nat} {pred : DescHw → Bool} {detail : Nat} {res : OpResult} (hk : Keeps pq s) :
    Keeps pq (endRing s n pred detail res) := by
  unfold endRing
  repeat' (first
    | intro _
    | with_reducible assumption
    | with_reducible apply each_keeps
    | with_reducible apply endDesc_keeps
    | with_reducible apply leaveDie_keeps
    | with_reducible apply modSeq_keeps
    | with_reducible apply opOutcome_keeps
    | with_reducible apply raise_keeps
    | with_reducible apply setDescState_keeps
    | with_reducible apply withdraw_keeps
    | with_reducible apply setReg_ok
    | with_reducible apply refill_ok
    | with_reducible apply deliver_ok
    | with_reducible apply ite_keeps
    | with_reducible apply ite_fst_keeps
    | ((with_reducible show Seq.ok _ = true); assumption)
    | ((with_reducible show Tbl.wf _ _ = true); assumption)
    | ((with_reducible show List.length _ ≤ _); assumption)
    | refine ok_mem (by assumption) (by first | exact Or.inl rfl | exact Or.inr rfl) (by rfl) ?_ ?_
    | with_reducible apply Tbl.wf_writeBytes
    | with_reducible apply Tbl.wf_setD
    | with_reducible apply Tbl.wf_filter
    | with_reducible apply Tbl.wf_foldl
    | exact Tbl.wf_nil _
    | split
    | dsimp only)

theorem journalDurable_keeps {pq : List Instr} {s : State}  (hk : Keeps pq s) :
    Keeps pq (journalDurable s) := by
  unfold journalDurable
  repeat' (first
    | intro _
    | with_reducible assumption
    | with_reducible apply settleCheck_keeps
    | with_reducible apply ite_keeps
    | with_reducible apply ite_fst_keeps
    | ((with_reducible show Seq.ok _ = true); assumption)
    | ((with_reducible show Tbl.wf _ _ = true); assumption)
    | ((with_reducible show List.length _ ≤ _); assumption)
    | split
    | dsimp only)

theorem dieTempInhibit_keeps {pq : List Instr} {s : State} {n die : Nat} {half : Int} {valid : Bool} (hk : Keeps pq s) :
    Keeps pq (dieTempInhibit s n die half valid) := by
  unfold dieTempInhibit
  repeat' (first
    | intro _
    | with_reducible assumption
    | with_reducible apply modLdr_keeps
    | with_reducible apply pumpAll_keeps
    | with_reducible apply ite_keeps
    | with_reducible apply ite_fst_keeps
    | ((with_reducible show Seq.ok _ = true); assumption)
    | ((with_reducible show Tbl.wf _ _ = true); assumption)
    | ((with_reducible show List.length _ ≤ _); assumption)
    | split
    | dsimp only)

theorem scuPortRetired_keeps {pq : List Instr} {s : State} {n cause : Nat} (hk : Keeps pq s) :
    Keeps pq (scuPortRetired s n cause) := by
  unfold scuPortRetired
  repeat' (first
    | intro _
    | with_reducible assumption
    | with_reducible apply dropPortMembers_keeps
    | with_reducible apply jAppend_keeps
    | with_reducible apply modScu_keeps
    | with_reducible apply ite_keeps
    | with_reducible apply ite_fst_keeps
    | ((with_reducible show Seq.ok _ = true); assumption)
    | ((with_reducible show Tbl.wf _ _ = true); assumption)
    | ((with_reducible show List.length _ ≤ _); assumption)
    | split
    | dsimp only)

theorem replaceDumpSuite_keeps {pq : List Instr} {s : State} {g : Nat} (hk : Keeps pq s) :
    Keeps pq (replaceDumpSuite s g) := by
  unfold replaceDumpSuite
  repeat' (first
    | intro _
    | with_reducible assumption
    | with_reducible apply modSuite_keeps
    | with_reducible apply suiteRecord_keeps
    | with_reducible apply ite_keeps
    | with_reducible apply ite_fst_keeps
    | ((with_reducible show Seq.ok _ = true); assumption)
    | ((with_reducible show Tbl.wf _ _ = true); assumption)
    | ((with_reducible show List.length _ ≤ _); assumption)
    | split
    | dsimp only)

theorem dstEnd_keeps {pq : List Instr} {s : State} {result seg detail lba : Nat} (hk : Keeps pq s) :
    Keeps pq (dstEnd s result seg detail lba) := by
  unfold dstEnd
  repeat' (first
    | intro _
    | with_reducible assumption
    | with_reducible apply modAtc_keeps
    | with_reducible apply modNvm_keeps
    | with_reducible apply post_keeps
    | with_reducible apply ite_keeps
    | with_reducible apply ite_fst_keeps
    | ((with_reducible show Seq.ok _ = true); assumption)
    | ((with_reducible show Tbl.wf _ _ = true); assumption)
    | ((with_reducible show List.length _ ≤ _); assumption)
    | ((with_reducible show List.length [] ≤ _); exact Nat.zero_le _)
    | split
    | dsimp only)

end Sys2Proof.Machine
end

