-- ==== Sys2Proof/Laws/KeepStairOps.lean ====
section
/-!
SUPPORT. The invariant under the operations and commands of StairOps: each keeps it and the queue (Keeps); a command answers a next state (Goes).
-/
set_option linter.unusedTactic false
set_option linter.unreachableTactic false
set_option linter.unusedVariables false
namespace Sys2Proof.Machine

theorem setWorker_keeps {pq : List Instr} {s : State} {w st fence : Nat} (hk : Keeps pq s) :
    Keeps pq (setWorker s w st fence) := by
  unfold setWorker
  repeat' (first
    | intro _
    | with_reducible assumption
    | with_reducible apply modWorker_keeps
    | with_reducible apply post_keeps
    | with_reducible apply ite_keeps
    | with_reducible apply ite_fst_keeps
    | ((with_reducible show Seq.ok _ = true); assumption)
    | ((with_reducible show Tbl.wf _ _ = true); assumption)
    | ((with_reducible show List.length _ ≤ _); assumption)
    | split
    | dsimp only)

theorem unlose_keeps {pq : List Instr} {s : State} {ns a n : Nat} (hk : Keeps pq s) :
    Keeps pq (unlose s ns a n) := by
  unfold unlose
  repeat' (first
    | intro _
    | with_reducible assumption
    | with_reducible apply modNvm_keeps
    | with_reducible apply ite_keeps
    | with_reducible apply ite_fst_keeps
    | ((with_reducible show Seq.ok _ = true); assumption)
    | ((with_reducible show Tbl.wf _ _ = true); assumption)
    | ((with_reducible show List.length _ ≤ _); assumption)
    | split
    | dsimp only)

theorem loseAt_keeps {pq : List Instr} {s : State} {ns a n : Nat} (hk : Keeps pq s) :
    Keeps pq (loseAt s ns a n) := by
  unfold loseAt
  repeat' (first
    | intro _
    | with_reducible assumption
    | with_reducible apply modNvm_keeps
    | with_reducible apply unlose_keeps
    | with_reducible apply ite_keeps
    | with_reducible apply ite_fst_keeps
    | ((with_reducible show Seq.ok _ = true); assumption)
    | ((with_reducible show Tbl.wf _ _ = true); assumption)
    | ((with_reducible show List.length _ ≤ _); assumption)
    | split
    | dsimp only)

theorem armWorker_keeps {pq : List Instr} {s : State} {w nsid first count cause : Nat} (hk : Keeps pq s) :
    Keeps pq (armWorker s w nsid first count cause) := by
  unfold armWorker
  repeat' (first
    | intro _
    | with_reducible assumption
    | with_reducible apply jAppend_keeps
    | with_reducible apply modHall_keeps
    | with_reducible apply ite_keeps
    | with_reducible apply ite_fst_keeps
    | ((with_reducible show Seq.ok _ = true); assumption)
    | ((with_reducible show Tbl.wf _ _ = true); assumption)
    | ((with_reducible show List.length _ ≤ _); assumption)
    | split
    | dsimp only)

theorem armUnsettled_keeps {pq : List Instr} {s : State} {w : Nat} (hk : Keeps pq s) :
    Keeps pq (armUnsettled s w) := by
  unfold armUnsettled
  repeat' (first
    | intro _
    | with_reducible assumption
    | with_reducible apply armWorker_keeps
    | with_reducible apply each_keeps
    | with_reducible apply modHall_keeps
    | with_reducible apply modSta_keeps
    | with_reducible apply settleCheck_keeps
    | with_reducible apply ite_keeps
    | with_reducible apply ite_fst_keeps
    | ((with_reducible show Seq.ok _ = true); assumption)
    | ((with_reducible show Tbl.wf _ _ = true); assumption)
    | ((with_reducible show List.length _ ≤ _); assumption)
    | split
    | dsimp only)

theorem endReq_keeps {pq : List Instr} {s : State} {r : StairReq} {sct sc : Nat} (hk : Keeps pq s) :
    Keeps pq (endReq s r sct sc) := by
  unfold endReq
  repeat' (first
    | intro _
    | with_reducible assumption
    | with_reducible apply each_keeps
    | with_reducible apply finish_keeps
    | with_reducible apply freeSlot_keeps
    | with_reducible apply modCtx_keeps
    | with_reducible apply modSta_keeps
    | with_reducible apply setRunit_keeps
    | with_reducible apply ite_keeps
    | with_reducible apply ite_fst_keeps
    | ((with_reducible show Seq.ok _ = true); assumption)
    | ((with_reducible show Tbl.wf _ _ = true); assumption)
    | ((with_reducible show List.length _ ≤ _); assumption)
    | split
    | dsimp only)

theorem workerLost_keeps {pq : List Instr} {s : State} {w : Nat} (hk : Keeps pq s) :
    Keeps pq (workerLost s w) := by
  unfold workerLost
  repeat' (first
    | intro _
    | with_reducible assumption
    | with_reducible apply armUnsettled_keeps
    | with_reducible apply armWorker_keeps
    | with_reducible apply each_keeps
    | with_reducible apply endReq_keeps
    | with_reducible apply modWorker_keeps
    | with_reducible apply setWorker_keeps
    | with_reducible apply ite_keeps
    | with_reducible apply ite_fst_keeps
    | ((with_reducible show Seq.ok _ = true); assumption)
    | ((with_reducible show Tbl.wf _ _ = true); assumption)
    | ((with_reducible show List.length _ ≤ _); assumption)
    | split
    | dsimp only)

theorem sendReqOn_keeps {pq : List Instr} {s : State} {r : StairReq} {n : Nat} {again : Bool} (hk : Keeps pq s) :
    Keeps pq (sendReqOn s r n again) := by
  unfold sendReqOn
  repeat' (first
    | intro _
    | with_reducible assumption
    | with_reducible apply each_keeps
    | with_reducible apply modSta_keeps
    | with_reducible apply stairTx_keeps
    | with_reducible apply ite_keeps
    | with_reducible apply ite_fst_keeps
    | ((with_reducible show Seq.ok _ = true); assumption)
    | ((with_reducible show Tbl.wf _ _ = true); assumption)
    | ((with_reducible show List.length _ ≤ _); assumption)
    | split
    | dsimp only)

theorem stairPump_keeps {pq : List Instr} {s : State} {w : Nat} (hk : Keeps pq s) :
    Keeps pq (stairPump s w) := by
  unfold stairPump
  repeat' (first
    | intro _
    | with_reducible assumption
    | with_reducible apply each_keeps
    | with_reducible apply modWorker_keeps
    | with_reducible apply sendReqOn_keeps
    | with_reducible apply ite_keeps
    | with_reducible apply ite_fst_keeps
    | ((with_reducible show Seq.ok _ = true); assumption)
    | ((with_reducible show Tbl.wf _ _ = true); assumption)
    | ((with_reducible show List.length _ ≤ _); assumption)
    | split
    | dsimp only)

theorem stairAsk_keeps {pq : List Instr} {s : State} {r : StairReq} (hk : Keeps pq s) :
    Keeps pq (stairAsk s r) := by
  unfold stairAsk
  repeat' (first
    | intro _
    | with_reducible assumption
    | with_reducible apply modSta_keeps
    | with_reducible apply stairPump_keeps
    | with_reducible apply ite_keeps
    | with_reducible apply ite_fst_keeps
    | ((with_reducible show Seq.ok _ = true); assumption)
    | ((with_reducible show Tbl.wf _ _ = true); assumption)
    | ((with_reducible show List.length _ ≤ _); assumption)
    | split
    | dsimp only)

theorem askUnits_keeps {pq : List Instr} {s : State} {n w ns ext : Nat} {units : List Nat} {base : SReq} {part : Tbl (Nat × Nat)} (hk : Keeps pq s) :
    Keeps pq (askUnits s n w ns ext units base part) := by
  unfold askUnits
  repeat' (first
    | intro _
    | with_reducible assumption
    | with_reducible apply each_keeps
    | with_reducible apply stairAsk_keeps
    | with_reducible apply ite_keeps
    | with_reducible apply ite_fst_keeps
    | ((with_reducible show Seq.ok _ = true); assumption)
    | ((with_reducible show Tbl.wf _ _ = true); assumption)
    | ((with_reducible show List.length _ ≤ _); assumption)
    | split
    | dsimp only)

theorem askBarrier_keeps {pq : List Instr} {s : State} {n : Nat} {base : SReq} {size : Nat → Nat} (hk : Keeps pq s) :
    Keeps pq (askBarrier s n base size) := by
  unfold askBarrier
  repeat' (first
    | intro _
    | with_reducible assumption
    | with_reducible apply each_keeps
    | with_reducible apply stairAsk_keeps
    | with_reducible apply ite_keeps
    | with_reducible apply ite_fst_keeps
    | ((with_reducible show Seq.ok _ = true); assumption)
    | ((with_reducible show Tbl.wf _ _ = true); assumption)
    | ((with_reducible show List.length _ ≤ _); assumption)
    | split
    | dsimp only)

theorem sendJoin_keeps {pq : List Instr} {s : State} {n : Nat} (hk : Keeps pq s) :
    Keeps pq (sendJoin s n) := by
  unfold sendJoin
  repeat' (first
    | intro _
    | with_reducible assumption
    | with_reducible apply stairTx_keeps
    | with_reducible apply ite_keeps
    | with_reducible apply ite_fst_keeps
    | ((with_reducible show Seq.ok _ = true); assumption)
    | ((with_reducible show Tbl.wf _ _ = true); assumption)
    | ((with_reducible show List.length _ ≤ _); assumption)
    | split
    | dsimp only)

theorem staLinkUp_keeps {pq : List Instr} {s : State} {n : Nat} (hk : Keeps pq s) :
    Keeps pq (staLinkUp s n) := by
  unfold staLinkUp
  repeat' (first
    | intro _
    | with_reducible assumption
    | with_reducible apply sendJoin_keeps
    | with_reducible apply ite_keeps
    | with_reducible apply ite_fst_keeps
    | ((with_reducible show Seq.ok _ = true); assumption)
    | ((with_reducible show Tbl.wf _ _ = true); assumption)
    | ((with_reducible show List.length _ ≤ _); assumption)
    | split
    | dsimp only)

theorem staLinkLost_keeps {pq : List Instr} {s : State} {n : Nat} (hk : Keeps pq s) :
    Keeps pq (staLinkLost s n) := by
  unfold staLinkLost
  repeat' (first
    | intro _
    | with_reducible assumption
    | with_reducible apply armWorker_keeps
    | with_reducible apply each_keeps
    | with_reducible apply endReq_keeps
    | with_reducible apply modSta_keeps
    | with_reducible apply modWorker_keeps
    | with_reducible apply stairPump_keeps
    | with_reducible apply workerLost_keeps
    | with_reducible apply ite_keeps
    | with_reducible apply ite_fst_keeps
    | ((with_reducible show Seq.ok _ = true); assumption)
    | ((with_reducible show Tbl.wf _ _ = true); assumption)
    | ((with_reducible show List.length _ ≤ _); assumption)
    | split
    | dsimp only)

end Sys2Proof.Machine
end

