-- ==== Sys2Proof/Laws/KeepStrongOps.lean ====
section
/-!
SUPPORT. The invariant under the operations and commands of StrongOps: each keeps it and the queue (Keeps); a command answers a next state (Goes).
-/
set_option linter.unusedTactic false
set_option linter.unreachableTactic false
set_option linter.unusedVariables false
namespace Sys2Proof.Machine

theorem modKslot_keeps {pq : List Instr} {s : State} {k : Nat} {f : KeySlot → KeySlot} (hk : Keeps pq s) :
    Keeps pq (State.modKslot s k f) := by
  unfold State.modKslot
  repeat' (first
    | intro _
    | with_reducible assumption
    | with_reducible apply modStg_keeps
    | with_reducible apply ite_keeps
    | with_reducible apply ite_fst_keeps
    | ((with_reducible show Seq.ok _ = true); assumption)
    | ((with_reducible show Tbl.wf _ _ = true); assumption)
    | ((with_reducible show List.length _ ≤ _); assumption)
    | split
    | dsimp only)

theorem modRange_keeps {pq : List Instr} {s : State} {r : Nat} {f : LockRange → LockRange} (hk : Keeps pq s) :
    Keeps pq (State.modRange s r f) := by
  unfold State.modRange
  repeat' (first
    | intro _
    | with_reducible assumption
    | with_reducible apply modStg_keeps
    | with_reducible apply ite_keeps
    | with_reducible apply ite_fst_keeps
    | ((with_reducible show Seq.ok _ = true); assumption)
    | ((with_reducible show Tbl.wf _ _ = true); assumption)
    | ((with_reducible show List.length _ ≤ _); assumption)
    | split
    | dsimp only)

theorem keysGone_keeps {pq : List Instr} {s : State} {hit : Nat → Nat → Bool} (hk : Keeps pq s) :
    Keeps pq (keysGone s hit) := by
  unfold keysGone
  repeat' (first
    | intro _
    | with_reducible assumption
    | with_reducible apply cutWriter_keeps
    | with_reducible apply each_keeps
    | with_reducible apply ite_keeps
    | with_reducible apply ite_fst_keeps
    | ((with_reducible show Seq.ok _ = true); assumption)
    | ((with_reducible show Tbl.wf _ _ = true); assumption)
    | ((with_reducible show List.length _ ≤ _); assumption)
    | split
    | dsimp only)

theorem compactStore_keeps {pq : List Instr} {s : State}  (hk : Keeps pq s) :
    Keeps pq (compactStore s) := by
  unfold compactStore
  repeat' (first
    | intro _
    | with_reducible assumption
    | with_reducible apply modStg_keeps
    | with_reducible apply foldl_keeps
    | with_reducible apply foldl_fst_keeps
    | with_reducible apply ite_keeps
    | with_reducible apply ite_fst_keeps
    | ((with_reducible show Seq.ok _ = true); assumption)
    | ((with_reducible show Tbl.wf _ _ = true); assumption)
    | ((with_reducible show List.length _ ≤ _); assumption)
    | split
    | dsimp only)

theorem appendBlob_keeps {pq : List Instr} {s : State} {b : Blob} (hk : Keeps pq s) :
    KeepsO pq (appendBlob s b) := by
  unfold appendBlob
  repeat' (first
    | intro _
    | with_reducible assumption
    | with_reducible apply compactStore_keeps
    | with_reducible apply modStg_keeps
    | with_reducible refine opt_keeps (by assumption) ?_
    | with_reducible apply some_keepsO
    | with_reducible apply none_keepsO
    | with_reducible apply ite_keepsO
    | with_reducible apply map_keepsO
    | with_reducible apply mapOf_keepsO
    | with_reducible apply getD_keeps
    | with_reducible apply ite_keeps
    | with_reducible apply ite_fst_keeps
    | ((with_reducible show Seq.ok _ = true); assumption)
    | ((with_reducible show Tbl.wf _ _ = true); assumption)
    | ((with_reducible show List.length _ ≤ _); assumption)
    | split
    | dsimp only)

theorem eraseStale_keeps {pq : List Instr} {s : State}  (hk : Keeps pq s) :
    Keeps pq (eraseStale s) := by
  unfold eraseStale
  repeat' (first
    | intro _
    | with_reducible assumption
    | with_reducible apply modStg_keeps
    | with_reducible apply ite_keeps
    | with_reducible apply ite_fst_keeps
    | ((with_reducible show Seq.ok _ = true); assumption)
    | ((with_reducible show Tbl.wf _ _ = true); assumption)
    | ((with_reducible show List.length _ ≤ _); assumption)
    | split
    | dsimp only)

theorem drbg_keeps {pq : List Instr} {s : State}  (hk : Keeps pq s) :
    Keeps pq (drbg s) := by
  unfold drbg
  repeat' (first
    | intro _
    | with_reducible assumption
    | with_reducible apply modStg_keeps
    | with_reducible apply ite_keeps
    | with_reducible apply ite_fst_keeps
    | ((with_reducible show Seq.ok _ = true); assumption)
    | ((with_reducible show Tbl.wf _ _ = true); assumption)
    | ((with_reducible show List.length _ ≤ _); assumption)
    | split
    | dsimp only)

theorem failSlot_keeps {pq : List Instr} {s : State} {k : Nat} {b : Binding} (hk : Keeps pq s) :
    Keeps pq (failSlot s k b) := by
  unfold failSlot
  repeat' (first
    | intro _
    | with_reducible assumption
    | with_reducible apply modKslot_keeps
    | with_reducible apply ite_keeps
    | with_reducible apply ite_fst_keeps
    | ((with_reducible show Seq.ok _ = true); assumption)
    | ((with_reducible show Tbl.wf _ _ = true); assumption)
    | ((with_reducible show List.length _ ≤ _); assumption)
    | split
    | dsimp only)

theorem unwrapLoad_keeps {pq : List Instr} {s : State} {b : Binding} {slot cred : Nat} (hk : Keeps pq s) :
    Keeps pq (unwrapLoad s b slot cred).1 := by
  unfold unwrapLoad
  repeat' (first
    | intro _
    | with_reducible assumption
    | with_reducible apply failSlot_keeps
    | with_reducible apply modKslot_keeps
    | with_reducible apply ite_keeps
    | with_reducible apply ite_fst_keeps
    | ((with_reducible show Seq.ok _ = true); assumption)
    | ((with_reducible show Tbl.wf _ _ = true); assumption)
    | ((with_reducible show List.length _ ≤ _); assumption)
    | split
    | dsimp only)

theorem generateKey_keeps {pq : List Instr} {s : State} {b : Binding} {gen slot : Nat} {creds : List (Nat × Nat)} (hk : Keeps pq s) :
    Keeps pq (generateKey s b gen slot creds).1 := by
  unfold generateKey
  repeat' (first
    | intro _
    | with_reducible assumption
    | with_reducible apply appendBlob_keeps
    | with_reducible apply drbg_keeps
    | with_reducible apply modKslot_keeps
    | with_reducible apply tick_keeps
    | with_reducible refine opt_keeps (by assumption) ?_
    | with_reducible apply some_keepsO
    | with_reducible apply none_keepsO
    | with_reducible apply ite_keepsO
    | with_reducible apply map_keepsO
    | with_reducible apply mapOf_keepsO
    | with_reducible apply getD_keeps
    | with_reducible apply foldl_keeps
    | with_reducible apply foldl_fst_keeps
    | with_reducible apply ite_keeps
    | with_reducible apply ite_fst_keeps
    | ((with_reducible show Seq.ok _ = true); assumption)
    | ((with_reducible show Tbl.wf _ _ = true); assumption)
    | ((with_reducible show List.length _ ≤ _); assumption)
    | split
    | dsimp only)

theorem rewrap_keeps {pq : List Instr} {s : State} {b : Binding} {cred newAuth newCred : Nat} (hk : Keeps pq s) :
    Keeps pq (rewrap s b cred newAuth newCred).1 := by
  unfold rewrap
  repeat' (first
    | intro _
    | with_reducible assumption
    | with_reducible apply appendBlob_keeps
    | with_reducible apply drbg_keeps
    | with_reducible apply tick_keeps
    | with_reducible refine opt_keeps (by assumption) ?_
    | with_reducible apply some_keepsO
    | with_reducible apply none_keepsO
    | with_reducible apply ite_keepsO
    | with_reducible apply map_keepsO
    | with_reducible apply mapOf_keepsO
    | with_reducible apply getD_keeps
    | with_reducible apply ite_keeps
    | with_reducible apply ite_fst_keeps
    | ((with_reducible show Seq.ok _ = true); assumption)
    | ((with_reducible show Tbl.wf _ _ = true); assumption)
    | ((with_reducible show List.length _ ≤ _); assumption)
    | split
    | dsimp only)

theorem seedReplace_keeps {pq : List Instr} {s : State}  (hk : Keeps pq s) :
    Keeps pq (seedReplace s).1 := by
  unfold seedReplace
  repeat' (first
    | intro _
    | with_reducible assumption
    | with_reducible apply drbg_keeps
    | with_reducible apply modStg_keeps
    | with_reducible apply set1_keeps
    | with_reducible apply tick_keeps
    | with_reducible apply ite_keeps
    | with_reducible apply ite_fst_keeps
    | ((with_reducible show Seq.ok _ = true); assumption)
    | ((with_reducible show Tbl.wf _ _ = true); assumption)
    | ((with_reducible show List.length _ ≤ _); assumption)
    | split
    | dsimp only)

theorem seedLoad_keeps {pq : List Instr} {s : State}  (hk : Keeps pq s) :
    Keeps pq (seedLoad s) := by
  unfold seedLoad
  repeat' (first
    | intro _
    | with_reducible assumption
    | with_reducible apply modStg_keeps
    | with_reducible apply seedReplace_keeps
    | with_reducible apply set1_keeps
    | with_reducible refine fst_keeps (by assumption) ?_
    | with_reducible apply ite_keeps
    | with_reducible apply ite_fst_keeps
    | ((with_reducible show Seq.ok _ = true); assumption)
    | ((with_reducible show Tbl.wf _ _ = true); assumption)
    | ((with_reducible show List.length _ ≤ _); assumption)
    | split
    | dsimp only)

theorem newNsKey_keeps {pq : List Instr} {s : State} {ns gen : Nat} (hk : Keeps pq s) :
    Keeps pq (newNsKey s ns gen).1 := by
  unfold newNsKey
  repeat' (first
    | intro _
    | with_reducible assumption
    | with_reducible apply generateKey_keeps
    | with_reducible refine fst_keeps (by assumption) ?_
    | with_reducible apply ite_keeps
    | with_reducible apply ite_fst_keeps
    | ((with_reducible show Seq.ok _ = true); assumption)
    | ((with_reducible show Tbl.wf _ _ = true); assumption)
    | ((with_reducible show List.length _ ≤ _); assumption)
    | split
    | dsimp only)

theorem pendingNsKey_keeps {pq : List Instr} {s : State} {ns gen : Nat} (hk : Keeps pq s) :
    Keeps pq (pendingNsKey s ns gen).1 := by
  unfold pendingNsKey
  repeat' (first
    | intro _
    | with_reducible assumption
    | with_reducible apply generateKey_keeps
    | with_reducible apply modRange_keeps
    | with_reducible apply newNsKey_keeps
    | with_reducible refine fst_keeps (by assumption) ?_
    | with_reducible apply ite_keeps
    | with_reducible apply ite_fst_keeps
    | ((with_reducible show Seq.ok _ = true); assumption)
    | ((with_reducible show Tbl.wf _ _ = true); assumption)
    | ((with_reducible show List.length _ ≤ _); assumption)
    | split
    | dsimp only)

theorem keysCheck_keeps {pq : List Instr} {s : State}  (hk : Keeps pq s) :
    Keeps pq (keysCheck s) := by
  unfold keysCheck
  repeat' (first
    | intro _
    | with_reducible assumption
    | with_reducible apply set1_keeps
    | with_reducible apply ite_keeps
    | with_reducible apply ite_fst_keeps
    | ((with_reducible show Seq.ok _ = true); assumption)
    | ((with_reducible show Tbl.wf _ _ = true); assumption)
    | ((with_reducible show List.length _ ≤ _); assumption)
    | split
    | dsimp only)

theorem tamper_keeps {pq : List Instr} {s : State} {bit : Nat} (hk : Keeps pq s) :
    Keeps pq (tamper s bit) := by
  unfold tamper
  repeat' (first
    | intro _
    | with_reducible assumption
    | with_reducible apply asyncAll_keeps
    | with_reducible apply clr1_keeps
    | with_reducible apply keysGone_keeps
    | with_reducible apply modKslot_keeps
    | with_reducible apply modStg_keeps
    | with_reducible apply post_keeps
    | with_reducible apply serveEvents_keeps
    | with_reducible apply set1_keeps
    | with_reducible apply wr_keeps
    | with_reducible apply foldl_keeps
    | with_reducible apply foldl_fst_keeps
    | with_reducible apply ite_keeps
    | with_reducible apply ite_fst_keeps
    | ((with_reducible show Seq.ok _ = true); assumption)
    | ((with_reducible show Tbl.wf _ _ = true); assumption)
    | ((with_reducible show List.length _ ≤ _); assumption)
    | split
    | dsimp only)

end Sys2Proof.Machine
end

