-- ==== Sys2Proof/Laws/KeepHallOps.lean ====
section
/-!
SUPPORT. The invariant under the operations and commands of HallOps: each keeps it and the queue (Keeps); a command answers a next state (Goes).
-/
set_option linter.unusedTactic false
set_option linter.unreachableTactic false
set_option linter.unusedVariables false
namespace Sys2Proof.Machine

theorem hallReady_keeps {pq : List Instr} {s : State}  (hk : Keeps pq s) :
    Keeps pq (hallReady s) := by
  unfold hallReady
  repeat' (first
    | intro _
    | with_reducible assumption
    | with_reducible apply each_keeps
    | with_reducible apply modHport_keeps
    | with_reducible apply ite_keeps
    | with_reducible apply ite_fst_keeps
    | ((with_reducible show Seq.ok _ = true); assumption)
    | ((with_reducible show Tbl.wf _ _ = true); assumption)
    | ((with_reducible show List.length _ ≤ _); assumption)
    | split
    | dsimp only)

theorem modChan_keeps {pq : List Instr} {s : State} {c : Nat} {f : DmaChan → DmaChan} (hk : Keeps pq s) :
    Keeps pq (State.modChan s c f) := by
  unfold State.modChan
  repeat' (first
    | intro _
    | with_reducible assumption
    | with_reducible apply modPorch_keeps
    | with_reducible apply ite_keeps
    | with_reducible apply ite_fst_keeps
    | ((with_reducible show Seq.ok _ = true); assumption)
    | ((with_reducible show Tbl.wf _ _ = true); assumption)
    | ((with_reducible show List.length _ ≤ _); assumption)
    | split
    | dsimp only)

theorem askHost_keeps {pq : List Instr} {s : State} {n : Nat} (hk : Keeps pq s) :
    Keeps pq (askHost s n) := by
  unfold askHost
  repeat' (first
    | intro _
    | with_reducible assumption
    | with_reducible apply emit_keeps
    | with_reducible apply modChan_keeps
    | with_reducible apply foldl_keeps
    | with_reducible apply foldl_fst_keeps
    | with_reducible apply ite_keeps
    | with_reducible apply ite_fst_keeps
    | ((with_reducible show Seq.ok _ = true); assumption)
    | ((with_reducible show Tbl.wf _ _ = true); assumption)
    | ((with_reducible show List.length _ ≤ _); assumption)
    | split
    | dsimp only)

theorem pumpChan_keeps {pq : List Instr} {s : State} {c : Nat} (hk : Keeps pq s) :
    Keeps pq (pumpChan s c) := by
  unfold pumpChan
  repeat' (first
    | intro _
    | with_reducible assumption
    | with_reducible apply askHost_keeps
    | with_reducible apply each_keeps
    | with_reducible apply ite_keeps
    | with_reducible apply ite_fst_keeps
    | ((with_reducible show Seq.ok _ = true); assumption)
    | ((with_reducible show Tbl.wf _ _ = true); assumption)
    | ((with_reducible show List.length _ ≤ _); assumption)
    | split
    | dsimp only)

theorem dropTag_keeps {pq : List Instr} {s : State} {c n u : Nat} (hk : Keeps pq s) :
    Keeps pq (dropTag s c n u) := by
  unfold dropTag
  repeat' (first
    | intro _
    | with_reducible assumption
    | with_reducible apply modChan_keeps
    | with_reducible apply ite_keeps
    | with_reducible apply ite_fst_keeps
    | ((with_reducible show Seq.ok _ = true); assumption)
    | ((with_reducible show Tbl.wf _ _ = true); assumption)
    | ((with_reducible show List.length _ ≤ _); assumption)
    | split
    | dsimp only)

theorem dropTags_keeps {pq : List Instr} {s : State} {n : Nat} (hk : Keeps pq s) :
    Keeps pq (dropTags s n) := by
  unfold dropTags
  repeat' (first
    | intro _
    | with_reducible assumption
    | with_reducible apply modPorch_keeps
    | with_reducible apply ite_keeps
    | with_reducible apply ite_fst_keeps
    | ((with_reducible show Seq.ok _ = true); assumption)
    | ((with_reducible show Tbl.wf _ _ = true); assumption)
    | ((with_reducible show List.length _ ≤ _); assumption)
    | split
    | dsimp only)

theorem haltChan_keeps {pq : List Instr} {s : State} {n cause : Nat} (hk : Keeps pq s) :
    Keeps pq (haltChan s n cause) := by
  unfold haltChan
  repeat' (first
    | intro _
    | with_reducible assumption
    | with_reducible apply modChan_keeps
    | with_reducible apply ite_keeps
    | with_reducible apply ite_fst_keeps
    | ((with_reducible show Seq.ok _ = true); assumption)
    | ((with_reducible show Tbl.wf _ _ = true); assumption)
    | ((with_reducible show List.length _ ≤ _); assumption)
    | split
    | dsimp only)

theorem dropReader_keeps {pq : List Instr} {s : State} {n : Nat} (hk : Keeps pq s) :
    Keeps pq (dropReader s n) := by
  unfold dropReader
  repeat' (first
    | intro _
    | with_reducible assumption
    | with_reducible apply each_keeps
    | with_reducible apply modCtx_keeps
    | with_reducible apply modLnd_keeps
    | with_reducible apply modSta_keeps
    | with_reducible apply unpinMedia_keeps
    | with_reducible apply unpinSlot_keeps
    | with_reducible apply foldl_keeps
    | with_reducible apply foldl_fst_keeps
    | with_reducible apply ite_keeps
    | with_reducible apply ite_fst_keeps
    | ((with_reducible show Seq.ok _ = true); assumption)
    | ((with_reducible show Tbl.wf _ _ = true); assumption)
    | ((with_reducible show List.length _ ≤ _); assumption)
    | split
    | dsimp only)

theorem failReader_keeps {pq : List Instr} {s : State} {n sct sc : Nat} (hk : Keeps pq s) :
    Keeps pq (failReader s n sct sc) := by
  unfold failReader
  repeat' (first
    | intro _
    | with_reducible assumption
    | with_reducible apply dropReader_keeps
    | with_reducible apply finish_keeps
    | with_reducible apply ite_keeps
    | with_reducible apply ite_fst_keeps
    | ((with_reducible show Seq.ok _ = true); assumption)
    | ((with_reducible show Tbl.wf _ _ = true); assumption)
    | ((with_reducible show List.length _ ≤ _); assumption)
    | split
    | dsimp only)

theorem startWriter_keeps {pq : List Instr} {s : State} {n : Nat} {c : Ctx} {fua : Bool} (hk : Keeps pq s) :
    Keeps pq (startWriter s n c fua) := by
  unfold startWriter
  repeat' (first
    | intro _
    | with_reducible assumption
    | with_reducible apply modCtx_keeps
    | with_reducible apply ite_keeps
    | with_reducible apply ite_fst_keeps
    | ((with_reducible show Seq.ok _ = true); assumption)
    | ((with_reducible show Tbl.wf _ _ = true); assumption)
    | ((with_reducible show List.length _ ≤ _); assumption)
    | split
    | dsimp only)

theorem fillStash_keeps {pq : List Instr} {s : State} {n : Nat} (hk : Keeps pq s) :
    Keeps pq (fillStash s n) := by
  unfold fillStash
  repeat' (first
    | intro _
    | with_reducible assumption
    | with_reducible apply each_keeps
    | with_reducible apply modCtx_keeps
    | with_reducible apply modSlot_keeps
    | with_reducible apply modSta_keeps
    | with_reducible apply ite_keeps
    | with_reducible apply ite_fst_keeps
    | ((with_reducible show Seq.ok _ = true); assumption)
    | ((with_reducible show Tbl.wf _ _ = true); assumption)
    | ((with_reducible show List.length _ ≤ _); assumption)
    | split
    | dsimp only)

theorem grantHost_keeps {pq : List Instr} {s : State} {n : Nat} (hk : Keeps pq s) :
    Keeps pq (grantHost s n) := by
  unfold grantHost
  repeat' (first
    | intro _
    | with_reducible assumption
    | with_reducible apply askHost_keeps
    | with_reducible apply each_keeps
    | with_reducible apply fillStash_keeps
    | with_reducible apply finish_keeps
    | with_reducible apply modCtx_keeps
    | with_reducible apply modPan_keeps
    | with_reducible apply modSlot_keeps
    | with_reducible apply takeSlots_keeps
    | with_reducible refine fst_keeps (by assumption) ?_
    | with_reducible apply foldl_keeps
    | with_reducible apply foldl_fst_keeps
    | with_reducible apply ite_keeps
    | with_reducible apply ite_fst_keeps
    | ((with_reducible show Seq.ok _ = true); assumption)
    | ((with_reducible show Tbl.wf _ _ = true); assumption)
    | ((with_reducible show List.length _ ≤ _); assumption)
    | split
    | dsimp only)

theorem endReserve_keeps {pq : List Instr} {s : State} {n : Nat} {u : WUnit} (hk : Keeps pq s) :
    Keeps pq (endReserve s n u) := by
  unfold endReserve
  repeat' (first
    | intro _
    | with_reducible assumption
    | with_reducible apply modPan_keeps
    | with_reducible apply ite_keeps
    | with_reducible apply ite_fst_keeps
    | ((with_reducible show Seq.ok _ = true); assumption)
    | ((with_reducible show Tbl.wf _ _ = true); assumption)
    | ((with_reducible show List.length _ ≤ _); assumption)
    | split
    | dsimp only)

theorem modWunit_keeps {pq : List Instr} {s : State} {n : Nat} {old new : WUnit} (hk : Keeps pq s) :
    Keeps pq (modWunit s n old new) := by
  unfold modWunit
  repeat' (first
    | intro _
    | with_reducible assumption
    | with_reducible apply modCtx_keeps
    | with_reducible apply modHall_keeps
    | with_reducible apply ite_keeps
    | with_reducible apply ite_fst_keeps
    | ((with_reducible show Seq.ok _ = true); assumption)
    | ((with_reducible show Tbl.wf _ _ = true); assumption)
    | ((with_reducible show List.length _ ≤ _); assumption)
    | split
    | dsimp only)

theorem startMerge_keeps {pq : List Instr} {s : State} {n ns u slot : Nat} {part : Nat × Nat} {stair : Bool} (hk : Keeps pq s) :
    Keeps pq (startMerge s n ns u slot part stair) := by
  unfold startMerge
  repeat' (first
    | intro _
    | with_reducible assumption
    | with_reducible apply mergeFailed_keeps
    | with_reducible apply modSlot_keeps
    | with_reducible apply readUnit_keeps
    | with_reducible refine opt_keeps (by assumption) ?_
    | with_reducible apply some_keepsO
    | with_reducible apply none_keepsO
    | with_reducible apply ite_keepsO
    | with_reducible apply map_keepsO
    | with_reducible apply mapOf_keepsO
    | with_reducible apply getD_keeps
    | with_reducible apply ite_keeps
    | with_reducible apply ite_fst_keeps
    | ((with_reducible show Seq.ok _ = true); assumption)
    | ((with_reducible show Tbl.wf _ _ = true); assumption)
    | ((with_reducible show List.length _ ≤ _); assumption)
    | split
    | dsimp only)

theorem overlayCommit_keeps {pq : List Instr} {s : State} {n : Nat} {u : WUnit} {units : List Nat} {place : Option Place} (hk : Keeps pq s) :
    Keeps pq (overlayCommit s n u units place).1 := by
  unfold overlayCommit
  repeat' (first
    | intro _
    | with_reducible assumption
    | with_reducible apply joinHost_keeps
    | with_reducible apply modPan_keeps
    | with_reducible apply modSlot_keeps
    | with_reducible apply supersede_keeps
    | with_reducible apply foldl_keeps
    | with_reducible apply foldl_fst_keeps
    | with_reducible apply ite_keeps
    | with_reducible apply ite_fst_keeps
    | ((with_reducible show Seq.ok _ = true); assumption)
    | ((with_reducible show Tbl.wf _ _ = true); assumption)
    | ((with_reducible show List.length _ ≤ _); assumption)
    | split
    | dsimp only)

theorem directCommit_keeps {pq : List Instr} {s : State} {ns : Nat} {typ : Nat} {units : List Nat} (hk : Keeps pq s) :
    Keeps pq (directCommit s ns typ units) := by
  unfold directCommit
  repeat' (first
    | intro _
    | with_reducible assumption
    | with_reducible apply each_keeps
    | with_reducible apply leaveOverlay_keeps
    | with_reducible apply mapChange_keeps
    | with_reducible apply ite_keeps
    | with_reducible apply ite_fst_keeps
    | ((with_reducible show Seq.ok _ = true); assumption)
    | ((with_reducible show Tbl.wf _ _ = true); assumption)
    | ((with_reducible show List.length _ ≤ _); assumption)
    | split
    | dsimp only)

theorem recordTag_keeps {pq : List Instr} {s : State}  (hk : Keeps pq s) :
    Keeps pq (recordTag s).1 := by
  unfold recordTag
  repeat' (first
    | intro _
    | with_reducible assumption
    | with_reducible apply addDep_keeps
    | with_reducible apply modPan_keeps
    | with_reducible apply ite_keeps
    | with_reducible apply ite_fst_keeps
    | ((with_reducible show Seq.ok _ = true); assumption)
    | ((with_reducible show Tbl.wf _ _ = true); assumption)
    | ((with_reducible show List.length _ ≤ _); assumption)
    | split
    | dsimp only)

theorem markBlocks_keeps {pq : List Instr} {s : State} {ns u a c : Nat} (hk : Keeps pq s) :
    Keeps pq (markBlocks s ns u a c) := by
  unfold markBlocks
  repeat' (first
    | intro _
    | with_reducible assumption
    | with_reducible apply directCommit_keeps
    | with_reducible apply mapChange_keeps
    | with_reducible apply modPan_keeps
    | with_reducible apply ite_keeps
    | with_reducible apply ite_fst_keeps
    | ((with_reducible show Seq.ok _ = true); assumption)
    | ((with_reducible show Tbl.wf _ _ = true); assumption)
    | ((with_reducible show List.length _ ≤ _); assumption)
    | split
    | dsimp only)

theorem applyUnit_keeps {pq : List Instr} {s : State} {n : Nat} {w : Writer} {u : WUnit} (hk : Keeps pq s) :
    Keeps pq (applyUnit s n w u).1 := by
  unfold applyUnit
  repeat' (first
    | intro _
    | with_reducible assumption
    | with_reducible apply directCommit_keeps
    | with_reducible apply each_keeps
    | with_reducible apply endReserve_keeps
    | with_reducible apply markBlocks_keeps
    | with_reducible apply overlayCommit_keeps
    | with_reducible apply recordTag_keeps
    | with_reducible refine fst_keeps (by assumption) ?_
    | with_reducible apply ite_keeps
    | with_reducible apply ite_fst_keeps
    | ((with_reducible show Seq.ok _ = true); assumption)
    | ((with_reducible show Tbl.wf _ _ = true); assumption)
    | ((with_reducible show List.length _ ≤ _); assumption)
    | split
    | dsimp only)

theorem writerDone_keeps {pq : List Instr} {s : State} {n : Nat} (hk : Keeps pq s) :
    Keeps pq (writerDone s n) := by
  unfold writerDone
  repeat' (first
    | intro _
    | with_reducible assumption
    | with_reducible apply closeFront_keeps
    | with_reducible apply each_keeps
    | with_reducible apply finishOk_keeps
    | with_reducible apply settleCheck_keeps
    | with_reducible apply ite_keeps
    | with_reducible apply ite_fst_keeps
    | ((with_reducible show Seq.ok _ = true); assumption)
    | ((with_reducible show Tbl.wf _ _ = true); assumption)
    | ((with_reducible show List.length _ ≤ _); assumption)
    | split
    | dsimp only)

theorem commitUnit_keeps {pq : List Instr} {s : State} {n : Nat} {w : Writer} {u : WUnit} (hk : Keeps pq s) :
    Keeps pq (commitUnit s n w u) := by
  unfold commitUnit
  repeat' (first
    | intro _
    | with_reducible assumption
    | with_reducible apply applyUnit_keeps
    | with_reducible apply askUnits_keeps
    | with_reducible apply each_keeps
    | with_reducible apply modWunit_keeps
    | with_reducible apply panFlags_keeps
    | with_reducible apply startMerge_keeps
    | with_reducible apply writerDone_keeps
    | with_reducible refine fst_keeps (by assumption) ?_
    | with_reducible apply ite_keeps
    | with_reducible apply ite_fst_keeps
    | ((with_reducible show Seq.ok _ = true); assumption)
    | ((with_reducible show Tbl.wf _ _ = true); assumption)
    | ((with_reducible show List.length _ ≤ _); assumption)
    | split
    | dsimp only)

theorem dispatchZero_keeps {pq : List Instr} {s : State} {n ns u : Nat} (hk : Keeps pq s) :
    Keeps pq (dispatchZero s n ns u) := by
  unfold dispatchZero
  repeat' (first
    | intro _
    | with_reducible assumption
    | with_reducible apply modLnd_keeps
    | with_reducible apply setRunit_keeps
    | with_reducible apply ite_keeps
    | with_reducible apply ite_fst_keeps
    | ((with_reducible show Seq.ok _ = true); assumption)
    | ((with_reducible show Tbl.wf _ _ = true); assumption)
    | ((with_reducible show List.length _ ≤ _); assumption)
    | split
    | dsimp only)

theorem resolveUnit_keeps {pq : List Instr} {s : State} {n : Nat} {c : Ctx} {ns u : Nat} (hk : Keeps pq s) :
    Keeps pq (resolveUnit s n c ns u) := by
  unfold resolveUnit
  repeat' (first
    | intro _
    | with_reducible assumption
    | with_reducible apply dispatchMedia_keeps
    | with_reducible apply dispatchSlot_keeps
    | with_reducible apply dispatchZero_keeps
    | with_reducible apply lookupLines_keeps
    | with_reducible apply setRunit_keeps
    | with_reducible refine fst_keeps (by assumption) ?_
    | with_reducible apply ite_keeps
    | with_reducible apply ite_fst_keeps
    | ((with_reducible show Seq.ok _ = true); assumption)
    | ((with_reducible show Tbl.wf _ _ = true); assumption)
    | ((with_reducible show List.length _ ≤ _); assumption)
    | split
    | dsimp only)

theorem askReads_keeps {pq : List Instr} {s : State} {n ns : Nat} {c : Ctx} {l : List Nat} (hk : Keeps pq s) :
    Keeps pq (askReads s n ns c l) := by
  unfold askReads
  repeat' (first
    | intro _
    | with_reducible assumption
    | with_reducible apply askUnits_keeps
    | with_reducible apply each_keeps
    | with_reducible apply ite_keeps
    | with_reducible apply ite_fst_keeps
    | ((with_reducible show Seq.ok _ = true); assumption)
    | ((with_reducible show Tbl.wf _ _ = true); assumption)
    | ((with_reducible show List.length _ ≤ _); assumption)
    | split
    | dsimp only)

theorem readerCheck_keeps {pq : List Instr} {s : State} {n : Nat} (hk : Keeps pq s) :
    Keeps pq (readerCheck s n) := by
  unfold readerCheck
  repeat' (first
    | intro _
    | with_reducible assumption
    | with_reducible apply each_keeps
    | with_reducible apply finish_keeps
    | with_reducible apply finishOk_keeps
    | with_reducible apply modCtx_keeps
    | with_reducible apply modSlot_keeps
    | with_reducible apply returnSlots_keeps
    | with_reducible apply ite_keeps
    | with_reducible apply ite_fst_keeps
    | ((with_reducible show Seq.ok _ = true); assumption)
    | ((with_reducible show Tbl.wf _ _ = true); assumption)
    | ((with_reducible show List.length _ ≤ _); assumption)
    | split
    | dsimp only)

theorem resolveReader_keeps {pq : List Instr} {s : State} {n : Nat} {c : Ctx} (hk : Keeps pq s) :
    Keeps pq (resolveReader s n c) := by
  unfold resolveReader
  repeat' (first
    | intro _
    | with_reducible assumption
    | with_reducible apply askReads_keeps
    | with_reducible apply modCtx_keeps
    | with_reducible apply readerCheck_keeps
    | with_reducible apply resolveUnit_keeps
    | with_reducible apply foldl_keeps
    | with_reducible apply foldl_fst_keeps
    | with_reducible apply ite_keeps
    | with_reducible apply ite_fst_keeps
    | ((with_reducible show Seq.ok _ = true); assumption)
    | ((with_reducible show Tbl.wf _ _ = true); assumption)
    | ((with_reducible show List.length _ ≤ _); assumption)
    | split
    | dsimp only)

theorem copyUnit_keeps {pq : List Instr} {s : State} {c : Ctx} {ns u d : Nat} {l : List (Nat × Nat)} {plain : Blk} {md : Meta} (hk : Keeps pq s) :
    Keeps pq (copyUnit s c ns u d l plain md) := by
  unfold copyUnit
  repeat' (first
    | intro _
    | with_reducible assumption
    | with_reducible apply modSlot_keeps
    | with_reducible apply foldl_keeps
    | with_reducible apply foldl_fst_keeps
    | with_reducible apply ite_keeps
    | with_reducible apply ite_fst_keeps
    | ((with_reducible show Seq.ok _ = true); assumption)
    | ((with_reducible show Tbl.wf _ _ = true); assumption)
    | ((with_reducible show List.length _ ≤ _); assumption)
    | split
    | dsimp only)

theorem handOn_keeps {pq : List Instr} {s : State} {n : Nat} {c : Ctx} {w : HostWord} {plain : Blk} (hk : Keeps pq s) :
    Keeps pq (handOn s n c w plain) := by
  unfold handOn
  repeat' (first
    | intro _
    | with_reducible assumption
    | with_reducible apply copyUnit_keeps
    | with_reducible apply emit_keeps
    | with_reducible apply modNvm_keeps
    | with_reducible apply stairTx_keeps
    | with_reducible apply ite_keeps
    | with_reducible apply ite_fst_keeps
    | ((with_reducible show Seq.ok _ = true); assumption)
    | ((with_reducible show Tbl.wf _ _ = true); assumption)
    | ((with_reducible show List.length _ ≤ _); assumption)
    | split
    | dsimp only)

theorem noteBad_keeps {pq : List Instr} {s : State} {n ns unit bad : Nat} (hk : Keeps pq s) :
    Keeps pq (noteBad s n ns unit bad) := by
  unfold noteBad
  exact modCtx_keeps hk

theorem handPart_keeps {pq : List Instr} {s : State} {n : Nat} {c : Ctx} {w : HostWord} {plain : Blk} {bad : Nat} (hk : Keeps pq s) :
    Keeps pq (handPart s n c w plain bad) := by
  unfold handPart
  repeat' (first
    | intro _
    | with_reducible assumption
    | with_reducible apply emit_keeps
    | with_reducible apply ite_keeps
    | split
    | dsimp only)

theorem takeWord_keeps {pq : List Instr} {s : State} {src hp : Nat} {w : HostWord} {g a r : Bool} {bad : Nat} {host : Blk} (hk : Keeps pq s) :
    Keeps pq (takeWord s src hp w g a r bad host) := by
  unfold takeWord
  repeat' (first
    | intro _
    | with_reducible assumption
    | with_reducible apply drainCheck_keeps
    | with_reducible apply failReader_keeps
    | with_reducible apply noteBad_keeps
    | with_reducible apply handPart_keeps
    | with_reducible apply handOn_keeps
    | with_reducible apply modLnd_keeps
    | with_reducible apply readerCheck_keeps
    | with_reducible apply setRunit_keeps
    | with_reducible apply unpinMedia_keeps
    | with_reducible apply unpinSlot_keeps
    | with_reducible apply ite_keeps
    | with_reducible apply ite_fst_keeps
    | ((with_reducible show Seq.ok _ = true); assumption)
    | ((with_reducible show Tbl.wf _ _ = true); assumption)
    | ((with_reducible show List.length _ ≤ _); assumption)
    | split
    | dsimp only)

theorem interrupt_keeps {pq : List Instr} {s : State} {p v : Nat} (hk : Keeps pq s) :
    Keeps pq (interrupt s p v) := by
  unfold interrupt
  repeat' (first
    | intro _
    | with_reducible assumption
    | with_reducible apply emit_keeps
    | with_reducible apply modHport_keeps
    | with_reducible apply ite_keeps
    | with_reducible apply ite_fst_keeps
    | ((with_reducible show Seq.ok _ = true); assumption)
    | ((with_reducible show Tbl.wf _ _ = true); assumption)
    | ((with_reducible show List.length _ ≤ _); assumption)
    | split
    | dsimp only)

theorem completionIrq_keeps {pq : List Instr} {s : State} {p q v : Nat} (hk : Keeps pq s) :
    Keeps pq (completionIrq s p q v) := by
  unfold completionIrq
  repeat' (first
    | intro _
    | with_reducible assumption
    | with_reducible apply interrupt_keeps
    | with_reducible apply modHall_keeps
    | with_reducible apply ite_keeps
    | with_reducible apply ite_fst_keeps
    | ((with_reducible show Seq.ok _ = true); assumption)
    | ((with_reducible show Tbl.wf _ _ = true); assumption)
    | ((with_reducible show List.length _ ≤ _); assumption)
    | split
    | dsimp only)

theorem deleteCheck_keeps {pq : List Instr} {s : State}  (hk : Keeps pq s) :
    Keeps pq (deleteCheck s) := by
  unfold deleteCheck
  repeat' (first
    | intro _
    | with_reducible assumption
    | with_reducible apply each_keeps
    | with_reducible apply finishOk_keeps
    | with_reducible apply modHall_keeps
    | with_reducible apply ite_keeps
    | with_reducible apply ite_fst_keeps
    | ((with_reducible show Seq.ok _ = true); assumption)
    | ((with_reducible show Tbl.wf _ _ = true); assumption)
    | ((with_reducible show List.length _ ≤ _); assumption)
    | split
    | dsimp only)

theorem postCompletion_keeps {pq : List Instr} {s : State} {n : Nat} (hk : Keeps pq s) :
    Keeps pq (postCompletion s n) := by
  unfold postCompletion
  repeat' (first
    | intro _
    | with_reducible assumption
    | with_reducible apply completionIrq_keeps
    | with_reducible apply deleteCheck_keeps
    | with_reducible apply emit_keeps
    | with_reducible apply modHall_keeps
    | with_reducible apply readerCheck_keeps
    | with_reducible apply ite_keeps
    | with_reducible apply ite_fst_keeps
    | ((with_reducible show Seq.ok _ = true); assumption)
    | ((with_reducible show Tbl.wf _ _ = true); assumption)
    | ((with_reducible show List.length _ ≤ _); assumption)
    | split
    | dsimp only)

theorem resetCtx_keeps {pq : List Instr} {s : State} {n : Nat} {c : Ctx} (hk : Keeps pq s) :
    Keeps pq (resetCtx s n c) := by
  unfold resetCtx
  repeat' (first
    | intro _
    | with_reducible assumption
    | with_reducible apply dropReader_keeps
    | with_reducible apply dropTags_keeps
    | with_reducible apply modHall_keeps
    | with_reducible apply modSta_keeps
    | with_reducible apply returnSlots_keeps
    | with_reducible apply ite_keeps
    | with_reducible apply ite_fst_keeps
    | ((with_reducible show Seq.ok _ = true); assumption)
    | ((with_reducible show Tbl.wf _ _ = true); assumption)
    | ((with_reducible show List.length _ ≤ _); assumption)
    | split
    | dsimp only)

theorem resolvePort_keeps {pq : List Instr} {s : State} {p : Nat} (hk : Keeps pq s) :
    Keeps pq (resolvePort s p) := by
  unfold resolvePort
  repeat' (first
    | intro _
    | with_reducible assumption
    | with_reducible apply each_keeps
    | with_reducible apply modHall_keeps
    | with_reducible apply modNvm_keeps
    | with_reducible apply modStg_keeps
    | with_reducible apply resetCtx_keeps
    | with_reducible apply settleCheck_keeps
    | with_reducible apply ite_keeps
    | with_reducible apply ite_fst_keeps
    | ((with_reducible show Seq.ok _ = true); assumption)
    | ((with_reducible show Tbl.wf _ _ = true); assumption)
    | ((with_reducible show List.length _ ≤ _); assumption)
    | split
    | dsimp only)

theorem resetController_keeps {pq : List Instr} {s : State} {p : Nat} (hk : Keeps pq s) :
    Keeps pq (resetController s p) := by
  unfold resetController
  repeat' (first
    | intro _
    | with_reducible assumption
    | with_reducible apply modHport_keeps
    | with_reducible apply modPorch_keeps
    | with_reducible apply resolvePort_keeps
    | with_reducible apply ite_keeps
    | with_reducible apply ite_fst_keeps
    | ((with_reducible show Seq.ok _ = true); assumption)
    | ((with_reducible show Tbl.wf _ _ = true); assumption)
    | ((with_reducible show List.length _ ≤ _); assumption)
    | split
    | dsimp only)

theorem deleteCtx_keeps {pq : List Instr} {s : State} {n : Nat} {c : Ctx} (hk : Keeps pq s) :
    Keeps pq (deleteCtx s n c) := by
  unfold deleteCtx
  repeat' (first
    | intro _
    | with_reducible assumption
    | with_reducible apply cutWriter_keeps
    | with_reducible apply dropReader_keeps
    | with_reducible apply dropTags_keeps
    | with_reducible apply failReader_keeps
    | with_reducible apply finish_keeps
    | with_reducible apply modCtx_keeps
    | with_reducible apply returnSlots_keeps
    | with_reducible apply ite_keeps
    | with_reducible apply ite_fst_keeps
    | ((with_reducible show Seq.ok _ = true); assumption)
    | ((with_reducible show Tbl.wf _ _ = true); assumption)
    | ((with_reducible show List.length _ ≤ _); assumption)
    | split
    | dsimp only)

end Sys2Proof.Machine
end

