-- ==== Sys2Proof/Laws/KeepCellar.lean ====
section
/-!
SUPPORT. The invariant under the operations and commands of Cellar: each keeps it and the queue (Keeps); a command answers a next state (Goes).
-/
set_option linter.unusedTactic false
set_option linter.unreachableTactic false
set_option linter.unusedVariables false
namespace Sys2Proof.Machine

theorem setPortState_keeps {pq : List Instr} {s : State} {n st : Nat} (hk : Keeps pq s) :
    Keeps pq (setPortState s n st) := by
  unfold setPortState
  repeat' (first
    | intro _
    | with_reducible assumption
    | with_reducible apply raise_keeps
    | with_reducible apply wr_keeps
    | with_reducible apply ite_keeps
    | with_reducible apply ite_fst_keeps
    | ((with_reducible show Seq.ok _ = true); assumption)
    | ((with_reducible show Tbl.wf _ _ = true); assumption)
    | ((with_reducible show List.length _ ≤ _); assumption)
    | split
    | dsimp only)

theorem queueLink_keeps {pq : List Instr} {s : State} {n sub arg : Nat} {data : List Nat} (hk : Keeps pq s) :
    Keeps pq (queueLink s n sub arg data) := by
  unfold queueLink
  repeat' (first
    | intro _
    | with_reducible assumption
    | with_reducible apply modPort_keeps
    | with_reducible apply ite_keeps
    | with_reducible apply ite_fst_keeps
    | ((with_reducible show Seq.ok _ = true); assumption)
    | ((with_reducible show Tbl.wf _ _ = true); assumption)
    | ((with_reducible show List.length _ ≤ _); assumption)
    | split
    | dsimp only)

theorem recalMark_keeps {pq : List Instr} {s : State} {n : Nat} (hk : Keeps pq s) :
    Keeps pq (recalMark s n) := by
  unfold recalMark
  repeat' (first
    | intro _
    | with_reducible assumption
    | with_reducible apply modPort_keeps
    | with_reducible apply ite_keeps
    | with_reducible apply ite_fst_keeps
    | ((with_reducible show Seq.ok _ = true); assumption)
    | ((with_reducible show Tbl.wf _ _ = true); assumption)
    | ((with_reducible show List.length _ ≤ _); assumption)
    | split
    | dsimp only)

theorem enterActiveFresh_keeps {pq : List Instr} {s : State} {n : Nat} (hk : Keeps pq s) :
    Keeps pq (enterActiveFresh s n) := by
  unfold enterActiveFresh
  repeat' (first
    | intro _
    | with_reducible assumption
    | with_reducible apply modPort_keeps
    | with_reducible apply recalMark_keeps
    | with_reducible apply setPortState_keeps
    | with_reducible apply staLinkUp_keeps
    | with_reducible apply wr_keeps
    | with_reducible apply ite_keeps
    | with_reducible apply ite_fst_keeps
    | ((with_reducible show Seq.ok _ = true); assumption)
    | ((with_reducible show Tbl.wf _ _ = true); assumption)
    | ((with_reducible show List.length _ ≤ _); assumption)
    | split
    | dsimp only)

theorem enterActiveAgain_keeps {pq : List Instr} {s : State} {n : Nat} (hk : Keeps pq s) :
    Keeps pq (enterActiveAgain s n) := by
  unfold enterActiveAgain
  repeat' (first
    | intro _
    | with_reducible assumption
    | with_reducible apply modPort_keeps
    | with_reducible apply recalMark_keeps
    | with_reducible apply setPortState_keeps
    | with_reducible apply ite_keeps
    | with_reducible apply ite_fst_keeps
    | ((with_reducible show Seq.ok _ = true); assumption)
    | ((with_reducible show Tbl.wf _ _ = true); assumption)
    | ((with_reducible show List.length _ ≤ _); assumption)
    | split
    | dsimp only)

theorem retirePort_keeps {pq : List Instr} {s : State} {n cause : Nat} (hk : Keeps pq s) :
    Keeps pq (retirePort s n cause) := by
  unfold retirePort
  repeat' (first
    | intro _
    | with_reducible assumption
    | with_reducible apply each_keeps
    | with_reducible apply endRing_keeps
    | with_reducible apply landLadderRetire_keeps
    | with_reducible apply modCel_keeps
    | with_reducible apply modPort_keeps
    | with_reducible apply opOutcome_keeps
    | with_reducible apply post_keeps
    | with_reducible apply scuPortRetired_keeps
    | with_reducible apply setPortState_keeps
    | with_reducible apply staLinkLost_keeps
    | with_reducible apply wr_keeps
    | with_reducible apply foldl_keeps
    | with_reducible apply foldl_fst_keeps
    | with_reducible apply ite_keeps
    | with_reducible apply ite_fst_keeps
    | ((with_reducible show Seq.ok _ = true); assumption)
    | ((with_reducible show Tbl.wf _ _ = true); assumption)
    | ((with_reducible show List.length _ ≤ _); assumption)
    | split
    | dsimp only)

theorem startRetrain_keeps {pq : List Instr} {s : State} {n cause : Nat} {counted : Bool} (hk : Keeps pq s) :
    Keeps pq (startRetrain s n cause counted) := by
  unfold startRetrain
  repeat' (first
    | intro _
    | with_reducible assumption
    | with_reducible apply bump_keeps
    | with_reducible apply modPort_keeps
    | with_reducible apply retirePort_keeps
    | with_reducible apply setPortState_keeps
    | with_reducible apply wr_keeps
    | with_reducible apply ite_keeps
    | with_reducible apply ite_fst_keeps
    | ((with_reducible show Seq.ok _ = true); assumption)
    | ((with_reducible show Tbl.wf _ _ = true); assumption)
    | ((with_reducible show List.length _ ≤ _); assumption)
    | split
    | dsimp only)

theorem failAttempt_keeps {pq : List Instr} {s : State} {n : Nat} (hk : Keeps pq s) :
    Keeps pq (failAttempt s n) := by
  unfold failAttempt
  repeat' (first
    | intro _
    | with_reducible assumption
    | with_reducible apply modPort_keeps
    | with_reducible apply retirePort_keeps
    | with_reducible apply setPortState_keeps
    | with_reducible apply wr_keeps
    | with_reducible apply ite_keeps
    | with_reducible apply ite_fst_keeps
    | ((with_reducible show Seq.ok _ = true); assumption)
    | ((with_reducible show Tbl.wf _ _ = true); assumption)
    | ((with_reducible show List.length _ ≤ _); assumption)
    | split
    | dsimp only)

theorem replayRound_keeps {pq : List Instr} {s : State} {n : Nat} (hk : Keeps pq s) :
    Keeps pq (replayRound s n) := by
  unfold replayRound
  repeat' (first
    | intro _
    | with_reducible assumption
    | with_reducible apply modPort_keeps
    | with_reducible apply startRetrain_keeps
    | with_reducible apply ite_keeps
    | with_reducible apply ite_fst_keeps
    | ((with_reducible show Seq.ok _ = true); assumption)
    | ((with_reducible show Tbl.wf _ _ = true); assumption)
    | ((with_reducible show List.length _ ≤ _); assumption)
    | split
    | dsimp only)

theorem takeAck_keeps {pq : List Instr} {s : State} {n : Nat} {h : FrameHdr} (hk : Keeps pq s) :
    Keeps pq (takeAck s n h) := by
  unfold takeAck
  repeat' (first
    | intro _
    | with_reducible assumption
    | with_reducible apply modPort_keeps
    | with_reducible apply replayRound_keeps
    | with_reducible apply after_keeps
    | with_reducible apply ite_keeps
    | with_reducible apply ite_fst_keeps
    | ((with_reducible show Seq.ok _ = true); assumption)
    | ((with_reducible show Tbl.wf _ _ = true); assumption)
    | ((with_reducible show List.length _ ≤ _); assumption)
    | split
    | dsimp only)

theorem oweNak_keeps {pq : List Instr} {s : State} {n : Nat} (hk : Keeps pq s) :
    Keeps pq (oweNak s n) := by
  unfold oweNak
  repeat' (first
    | intro _
    | with_reducible assumption
    | with_reducible apply modPort_keeps
    | with_reducible apply ite_keeps
    | with_reducible apply ite_fst_keeps
    | ((with_reducible show Seq.ok _ = true); assumption)
    | ((with_reducible show Tbl.wf _ _ = true); assumption)
    | ((with_reducible show List.length _ ≤ _); assumption)
    | split
    | dsimp only)

theorem takeFrame_keeps {pq : List Instr} {s : State} {n : Nat} {h : FrameHdr} (hk : Keeps pq s) :
    Keeps pq (takeFrame s n h).1 := by
  unfold takeFrame
  repeat' (first
    | intro _
    | with_reducible assumption
    | with_reducible apply bump_keeps
    | with_reducible apply modPort_keeps
    | with_reducible apply oweNak_keeps
    | with_reducible apply takeAck_keeps
    | with_reducible apply ite_keeps
    | with_reducible apply ite_fst_keeps
    | ((with_reducible show Seq.ok _ = true); assumption)
    | ((with_reducible show Tbl.wf _ _ = true); assumption)
    | ((with_reducible show List.length _ ≤ _); assumption)
    | split
    | dsimp only)

theorem protoErr_keeps {pq : List Instr} {s : State} {n : Nat} (hk : Keeps pq s) :
    Keeps pq (protoErr s n) := by
  unfold protoErr
  repeat' (first
    | intro _
    | with_reducible assumption
    | with_reducible apply bump_keeps
    | with_reducible apply ite_keeps
    | with_reducible apply ite_fst_keeps
    | ((with_reducible show Seq.ok _ = true); assumption)
    | ((with_reducible show Tbl.wf _ _ = true); assumption)
    | ((with_reducible show List.length _ ≤ _); assumption)
    | split
    | dsimp only)

theorem onFrame_keeps {pq : List Instr} {s : State} {n : Nat} {h : FrameHdr} {f : State → State} (hk : Keeps pq s) (h_f : ∀ (a0 : State), Keeps pq a0 → Keeps pq (f a0)) :
    Keeps pq (onFrame s n h f) := by
  unfold onFrame
  repeat' (first
    | intro _
    | with_reducible assumption
    | with_reducible apply h_f
    | with_reducible apply takeFrame_keeps
    | with_reducible refine fst_keeps (by assumption) ?_
    | with_reducible apply ite_keeps
    | with_reducible apply ite_fst_keeps
    | ((with_reducible show Seq.ok _ = true); assumption)
    | ((with_reducible show Tbl.wf _ _ = true); assumption)
    | ((with_reducible show List.length _ ≤ _); assumption)
    | split
    | dsimp only)

theorem handOver_keeps {pq : List Instr} {s : State} {n : Nat} {op : DieOp} {i : Nat} (hk : Keeps pq s) :
    Keeps pq (handOver s n op i) := by
  unfold handOver
  repeat' (first
    | intro _
    | with_reducible assumption
    | with_reducible apply landHandover_keeps
    | with_reducible apply modPort_keeps
    | with_reducible apply modSeq_keeps
    | with_reducible apply opOutcome_keeps
    | with_reducible apply raise_keeps
    | with_reducible apply setReg_ok
    | with_reducible apply refill_ok
    | with_reducible apply deliver_ok
    | with_reducible apply ite_keeps
    | with_reducible apply ite_fst_keeps
    | ((with_reducible show Seq.ok _ = true); assumption)
    | ((with_reducible show Tbl.wf _ _ = true); assumption)
    | ((with_reducible show List.length _ ≤ _); assumption)
    | refine ok_mem (by assumption) (by first | exact Or.inl rfl | exact Or.inr rfl) (by rfl) ?_ ?_
    | with_reducible apply Tbl.wf_writeBytes
    | with_reducible apply Tbl.wf_setD
    | with_reducible apply Tbl.wf_filter
    | with_reducible apply Tbl.wf_foldl
    | exact Tbl.wf_nil _
    | split
    | dsimp only)

theorem arbiterPreempt_keeps {pq : List Instr} {s : State} {n die : Nat} (hk : Keeps pq s) :
    Keeps pq (arbiterPreempt s n die) := by
  unfold arbiterPreempt
  repeat' (first
    | intro _
    | with_reducible assumption
    | with_reducible apply modPort_keeps
    | with_reducible apply withdraw_keeps
    | with_reducible apply setReg_ok
    | with_reducible apply refill_ok
    | with_reducible apply deliver_ok
    | with_reducible apply ite_keeps
    | with_reducible apply ite_fst_keeps
    | ((with_reducible show Seq.ok _ = true); assumption)
    | ((with_reducible show Tbl.wf _ _ = true); assumption)
    | ((with_reducible show List.length _ ≤ _); assumption)
    | refine ok_mem (by assumption) (by first | exact Or.inl rfl | exact Or.inr rfl) (by rfl) ?_ ?_
    | with_reducible apply Tbl.wf_writeBytes
    | with_reducible apply Tbl.wf_setD
    | with_reducible apply Tbl.wf_filter
    | with_reducible apply Tbl.wf_foldl
    | exact Tbl.wf_nil _
    | split
    | dsimp only)

theorem sendFrame_keeps {pq : List Instr} {s : State} {n : Nat} {f : TxFrame} {fresh : Bool} (hk : Keeps pq s) :
    Keeps pq (sendFrame s n f fresh) := by
  unfold sendFrame
  repeat' (first
    | intro _
    | with_reducible assumption
    | with_reducible apply emit_keeps
    | with_reducible apply modPort_keeps
    | with_reducible apply modSeq_keeps
    | with_reducible apply setReg_ok
    | with_reducible apply refill_ok
    | with_reducible apply deliver_ok
    | with_reducible apply ite_keeps
    | with_reducible apply ite_fst_keeps
    | ((with_reducible show Seq.ok _ = true); assumption)
    | ((with_reducible show Tbl.wf _ _ = true); assumption)
    | ((with_reducible show List.length _ ≤ _); assumption)
    | refine ok_mem (by assumption) (by first | exact Or.inl rfl | exact Or.inr rfl) (by rfl) ?_ ?_
    | with_reducible apply Tbl.wf_writeBytes
    | with_reducible apply Tbl.wf_setD
    | with_reducible apply Tbl.wf_filter
    | with_reducible apply Tbl.wf_foldl
    | exact Tbl.wf_nil _
    | split
    | dsimp only)

theorem transmitNext_keeps {pq : List Instr} {s : State} {n : Nat} (hk : Keeps pq s) :
    Keeps pq (transmitNext s n) := by
  unfold transmitNext
  repeat' (first
    | intro _
    | with_reducible assumption
    | with_reducible apply bump_keeps
    | with_reducible apply modPort_keeps
    | with_reducible apply sendFrame_keeps
    | with_reducible apply ite_keeps
    | with_reducible apply ite_fst_keeps
    | ((with_reducible show Seq.ok _ = true); assumption)
    | ((with_reducible show Tbl.wf _ _ = true); assumption)
    | ((with_reducible show List.length _ ≤ _); assumption)
    | split
    | dsimp only)

theorem execDieSchedulerEnqueue_goes {pq : List Instr} {s : State} {n : Nat} (hk : Keeps pq s) :
    Goes pq (execDieSchedulerEnqueue n s) := by
  unfold execDieSchedulerEnqueue
  repeat' (first
    | intro _
    | with_reducible assumption
    | with_reducible apply arbiterPreempt_keeps
    | with_reducible apply modPort_keeps
    | with_reducible apply opOutcome_keeps
    | with_reducible apply goes_next
    | with_reducible apply ite_goes
    | with_reducible apply ite_keeps
    | with_reducible apply ite_fst_keeps
    | ((with_reducible show Seq.ok _ = true); assumption)
    | ((with_reducible show Tbl.wf _ _ = true); assumption)
    | ((with_reducible show List.length _ ≤ _); assumption)
    | split
    | dsimp only)

theorem execDescriptorHandover_goes {pq : List Instr} {s : State} {n die : Nat} (hk : Keeps pq s) :
    Goes pq (execDescriptorHandover n die s) := by
  unfold execDescriptorHandover
  repeat' (first
    | intro _
    | with_reducible assumption
    | with_reducible apply handOver_keeps
    | with_reducible apply modPort_keeps
    | with_reducible apply goes_next
    | with_reducible apply ite_goes
    | with_reducible apply ite_keeps
    | with_reducible apply ite_fst_keeps
    | ((with_reducible show Seq.ok _ = true); assumption)
    | ((with_reducible show Tbl.wf _ _ = true); assumption)
    | ((with_reducible show List.length _ ≤ _); assumption)
    | split
    | dsimp only)

theorem paramBytes_keeps {pq : List Instr} {s : State} {n : Nat} {bytes : List Nat} (hk : Keeps pq s) :
    Keeps pq (paramBytes s n bytes) := by
  unfold paramBytes
  repeat' (first
    | intro _
    | with_reducible assumption
    | with_reducible apply modSeq_keeps
    | with_reducible apply raise_keeps
    | with_reducible apply setReg_ok
    | with_reducible apply refill_ok
    | with_reducible apply deliver_ok
    | with_reducible apply ite_keeps
    | with_reducible apply ite_fst_keeps
    | ((with_reducible show Seq.ok _ = true); assumption)
    | ((with_reducible show Tbl.wf _ _ = true); assumption)
    | ((with_reducible show List.length _ ≤ _); assumption)
    | refine ok_mem (by assumption) (by first | exact Or.inl rfl | exact Or.inr rfl) (by rfl) ?_ ?_
    | with_reducible apply Tbl.wf_writeBytes
    | with_reducible apply Tbl.wf_setD
    | with_reducible apply Tbl.wf_filter
    | with_reducible apply Tbl.wf_foldl
    | exact Tbl.wf_nil _
    | split
    | dsimp only)

theorem execRdataFrame_goes {pq : List Instr} {s : State} {n : Nat} {h : FrameHdr} {param : List Nat} (hk : Keeps pq s) :
    Goes pq (execRdataFrame n h param s) := by
  unfold execRdataFrame
  repeat' (first
    | intro _
    | with_reducible assumption
    | with_reducible apply landHardIn_keeps
    | with_reducible apply onFrame_keeps
    | with_reducible apply paramBytes_keeps
    | with_reducible apply protoErr_keeps
    | with_reducible apply goes_next
    | with_reducible apply ite_goes
    | with_reducible apply ite_keeps
    | with_reducible apply ite_fst_keeps
    | ((with_reducible show Seq.ok _ = true); assumption)
    | ((with_reducible show Tbl.wf _ _ = true); assumption)
    | ((with_reducible show List.length _ ≤ _); assumption)
    | split
    | dsimp only)

theorem closeOldest_keeps {pq : List Instr} {s : State} {n i : Nat} (hk : Keeps pq s) :
    Keeps pq (closeOldest s n i) := by
  unfold closeOldest
  repeat' (first
    | intro _
    | with_reducible assumption
    | with_reducible apply modSeq_keeps
    | with_reducible apply setReg_ok
    | with_reducible apply refill_ok
    | with_reducible apply deliver_ok
    | with_reducible apply ite_keeps
    | with_reducible apply ite_fst_keeps
    | ((with_reducible show Seq.ok _ = true); assumption)
    | ((with_reducible show Tbl.wf _ _ = true); assumption)
    | ((with_reducible show List.length _ ≤ _); assumption)
    | refine ok_mem (by assumption) (by first | exact Or.inl rfl | exact Or.inr rfl) (by rfl) ?_ ?_
    | with_reducible apply Tbl.wf_writeBytes
    | with_reducible apply Tbl.wf_setD
    | with_reducible apply Tbl.wf_filter
    | with_reducible apply Tbl.wf_foldl
    | exact Tbl.wf_nil _
    | split
    | dsimp only)

theorem requeueDesc_keeps {pq : List Instr} {s : State} {n i : Nat} (hk : Keeps pq s) :
    Keeps pq (requeueDesc s n i) := by
  unfold requeueDesc
  repeat' (first
    | intro _
    | with_reducible assumption
    | with_reducible apply freeDesc_keeps
    | with_reducible apply modPort_keeps
    | with_reducible apply withdraw_keeps
    | with_reducible apply ite_keeps
    | with_reducible apply ite_fst_keeps
    | ((with_reducible show Seq.ok _ = true); assumption)
    | ((with_reducible show Tbl.wf _ _ = true); assumption)
    | ((with_reducible show List.length _ ≤ _); assumption)
    | split
    | dsimp only)

theorem dieReset_keeps {pq : List Instr} {s : State} {n die : Nat} (hk : Keeps pq s) :
    Keeps pq (dieReset s n die) := by
  unfold dieReset
  repeat' (first
    | intro _
    | with_reducible assumption
    | with_reducible apply each_keeps
    | with_reducible apply endDesc_keeps
    | with_reducible apply requeueDesc_keeps
    | with_reducible apply ite_keeps
    | with_reducible apply ite_fst_keeps
    | ((with_reducible show Seq.ok _ = true); assumption)
    | ((with_reducible show Tbl.wf _ _ = true); assumption)
    | ((with_reducible show List.length _ ≤ _); assumption)
    | split
    | dsimp only)

theorem ctlStatus_keeps {pq : List Instr} {s : State} {n : Nat} {c : CtlOp} {code sr : Nat} (hk : Keeps pq s) :
    Keeps pq (ctlStatus s n c code sr) := by
  unfold ctlStatus
  repeat' (first
    | intro _
    | with_reducible assumption
    | with_reducible apply dieReset_keeps
    | with_reducible apply modPort_keeps
    | with_reducible apply modSeq_keeps
    | with_reducible apply raise_keeps
    | with_reducible apply setReg_ok
    | with_reducible apply refill_ok
    | with_reducible apply deliver_ok
    | with_reducible apply ite_keeps
    | with_reducible apply ite_fst_keeps
    | ((with_reducible show Seq.ok _ = true); assumption)
    | ((with_reducible show Tbl.wf _ _ = true); assumption)
    | ((with_reducible show List.length _ ≤ _); assumption)
    | refine ok_mem (by assumption) (by first | exact Or.inl rfl | exact Or.inr rfl) (by rfl) ?_ ?_
    | with_reducible apply Tbl.wf_writeBytes
    | with_reducible apply Tbl.wf_setD
    | with_reducible apply Tbl.wf_filter
    | with_reducible apply Tbl.wf_foldl
    | exact Tbl.wf_nil _
    | split
    | dsimp only)

theorem descStatus_keeps {pq : List Instr} {s : State} {n i : Nat} {hw : DescHw} {code sr busyUs : Nat} (hk : Keeps pq s) :
    Keeps pq (descStatus s n i hw code sr busyUs) := by
  unfold descStatus
  repeat' (first
    | intro _
    | with_reducible assumption
    | with_reducible apply arbiterPreempt_keeps
    | with_reducible apply chargeDieTime_keeps
    | with_reducible apply closeOldest_keeps
    | with_reducible apply modPort_keeps
    | with_reducible apply modSeq_keeps
    | with_reducible apply programAccepted_keeps
    | with_reducible apply protoErr_keeps
    | with_reducible apply raise_keeps
    | with_reducible apply readDone_keeps
    | with_reducible apply requeueDesc_keeps
    | with_reducible apply setDescState_keeps
    | with_reducible apply setReg_ok
    | with_reducible apply refill_ok
    | with_reducible apply deliver_ok
    | with_reducible apply ite_keeps
    | with_reducible apply ite_fst_keeps
    | ((with_reducible show Seq.ok _ = true); assumption)
    | ((with_reducible show Tbl.wf _ _ = true); assumption)
    | ((with_reducible show List.length _ ≤ _); assumption)
    | refine ok_mem (by assumption) (by first | exact Or.inl rfl | exact Or.inr rfl) (by rfl) ?_ ?_
    | with_reducible apply Tbl.wf_writeBytes
    | with_reducible apply Tbl.wf_setD
    | with_reducible apply Tbl.wf_filter
    | with_reducible apply Tbl.wf_foldl
    | exact Tbl.wf_nil _
    | split
    | dsimp only)

theorem lateStatus_keeps {pq : List Instr} {s : State} {n tag : Nat} (hk : Keeps pq s) :
    Keeps pq (lateStatus s n tag) := by
  unfold lateStatus
  repeat' (first
    | intro _
    | with_reducible assumption
    | with_reducible apply modPort_keeps
    | with_reducible apply ite_keeps
    | with_reducible apply ite_fst_keeps
    | ((with_reducible show Seq.ok _ = true); assumption)
    | ((with_reducible show Tbl.wf _ _ = true); assumption)
    | ((with_reducible show List.length _ ≤ _); assumption)
    | split
    | dsimp only)

theorem execStatusFrame_goes {pq : List Instr} {s : State} {n : Nat} {h : FrameHdr} {code sr busyUs : Nat} (hk : Keeps pq s) :
    Goes pq (execStatusFrame n h code sr busyUs s) := by
  unfold execStatusFrame
  repeat' (first
    | intro _
    | with_reducible assumption
    | with_reducible apply ctlStatus_keeps
    | with_reducible apply descStatus_keeps
    | with_reducible apply lateStatus_keeps
    | with_reducible apply onFrame_keeps
    | with_reducible apply protoErr_keeps
    | with_reducible apply goes_next
    | with_reducible apply ite_goes
    | with_reducible apply ite_keeps
    | with_reducible apply ite_fst_keeps
    | ((with_reducible show Seq.ok _ = true); assumption)
    | ((with_reducible show Tbl.wf _ _ = true); assumption)
    | ((with_reducible show List.length _ ≤ _); assumption)
    | split
    | dsimp only)

theorem execAckFrame_goes {pq : List Instr} {s : State} {n : Nat} {h : FrameHdr} (hk : Keeps pq s) :
    Goes pq (execAckFrame n h s) := by
  unfold execAckFrame
  repeat' (first
    | intro _
    | with_reducible assumption
    | with_reducible apply onFrame_keeps
    | with_reducible apply goes_next
    | with_reducible apply ite_goes
    | with_reducible apply ite_keeps
    | with_reducible apply ite_fst_keeps
    | ((with_reducible show Seq.ok _ = true); assumption)
    | ((with_reducible show Tbl.wf _ _ = true); assumption)
    | ((with_reducible show List.length _ ≤ _); assumption)
    | split
    | dsimp only)

theorem execEventFrame_goes {pq : List Instr} {s : State} {n : Nat} {h : FrameHdr} {sev die code d0 d1 d2 : Nat} (hk : Keeps pq s) :
    Goes pq (execEventFrame n h sev die code d0 d1 d2 s) := by
  unfold execEventFrame
  repeat' (first
    | intro _
    | with_reducible assumption
    | with_reducible apply onFrame_keeps
    | with_reducible apply post_keeps
    | with_reducible apply protoErr_keeps
    | with_reducible apply retirePort_keeps
    | with_reducible apply goes_next
    | with_reducible apply ite_goes
    | with_reducible apply ite_keeps
    | with_reducible apply ite_fst_keeps
    | ((with_reducible show Seq.ok _ = true); assumption)
    | ((with_reducible show Tbl.wf _ _ = true); assumption)
    | ((with_reducible show List.length _ ≤ _); assumption)
    | split
    | dsimp only)

theorem execHello_goes {pq : List Instr} {s : State} {n : Nat} {h : FrameHdr} {verMax vendor part rev dies dataCr cmdCr : Nat} (hk : Keeps pq s) :
    Goes pq (execHello n h verMax vendor part rev dies dataCr cmdCr s) := by
  unfold execHello
  repeat' (first
    | intro _
    | with_reducible assumption
    | with_reducible apply enterActiveFresh_keeps
    | with_reducible apply failAttempt_keeps
    | with_reducible apply modPort_keeps
    | with_reducible apply onFrame_keeps
    | with_reducible apply queueLink_keeps
    | with_reducible apply setPortState_keeps
    | with_reducible apply wr_keeps
    | with_reducible apply goes_next
    | with_reducible apply ite_goes
    | with_reducible apply ite_keeps
    | with_reducible apply ite_fst_keeps
    | ((with_reducible show Seq.ok _ = true); assumption)
    | ((with_reducible show Tbl.wf _ _ = true); assumption)
    | ((with_reducible show List.length _ ≤ _); assumption)
    | split
    | dsimp only)

theorem execSwitch_goes {pq : List Instr} {s : State} {n : Nat} {h : FrameHdr} {ver : Nat} (hk : Keeps pq s) :
    Goes pq (execSwitch n h ver s) := by
  unfold execSwitch
  repeat' (first
    | intro _
    | with_reducible assumption
    | with_reducible apply modPort_keeps
    | with_reducible apply onFrame_keeps
    | with_reducible apply setPortState_keeps
    | with_reducible apply goes_next
    | with_reducible apply ite_goes
    | with_reducible apply ite_keeps
    | with_reducible apply ite_fst_keeps
    | ((with_reducible show Seq.ok _ = true); assumption)
    | ((with_reducible show Tbl.wf _ _ = true); assumption)
    | ((with_reducible show List.length _ ≤ _); assumption)
    | split
    | dsimp only)

theorem execEqReq_goes {pq : List Instr} {s : State} {n : Nat} {h : FrameHdr} {preset : Nat} (hk : Keeps pq s) :
    Goes pq (execEqReq n h preset s) := by
  unfold execEqReq
  repeat' (first
    | intro _
    | with_reducible assumption
    | with_reducible apply modPort_keeps
    | with_reducible apply onFrame_keeps
    | with_reducible apply goes_next
    | with_reducible apply ite_goes
    | with_reducible apply ite_keeps
    | with_reducible apply ite_fst_keeps
    | ((with_reducible show Seq.ok _ = true); assumption)
    | ((with_reducible show Tbl.wf _ _ = true); assumption)
    | ((with_reducible show List.length _ ≤ _); assumption)
    | split
    | dsimp only)

theorem execEqRsp_goes {pq : List Instr} {s : State} {n : Nat} {h : FrameHdr} {errs localErrs : Nat} (hk : Keeps pq s) :
    Goes pq (execEqRsp n h errs localErrs s) := by
  unfold execEqRsp
  repeat' (first
    | intro _
    | with_reducible assumption
    | with_reducible apply enterActiveFresh_keeps
    | with_reducible apply modPort_keeps
    | with_reducible apply onFrame_keeps
    | with_reducible apply goes_next
    | with_reducible apply ite_goes
    | with_reducible apply ite_keeps
    | with_reducible apply ite_fst_keeps
    | ((with_reducible show Seq.ok _ = true); assumption)
    | ((with_reducible show Tbl.wf _ _ = true); assumption)
    | ((with_reducible show List.length _ ≤ _); assumption)
    | split
    | dsimp only)

theorem execRetrainReq_goes {pq : List Instr} {s : State} {n : Nat} {h : FrameHdr} {_cause : Nat} (hk : Keeps pq s) :
    Goes pq (execRetrainReq n h _cause s) := by
  unfold execRetrainReq
  repeat' (first
    | intro _
    | with_reducible assumption
    | with_reducible apply onFrame_keeps
    | with_reducible apply startRetrain_keeps
    | with_reducible apply goes_next
    | with_reducible apply ite_goes
    | with_reducible apply ite_keeps
    | with_reducible apply ite_fst_keeps
    | ((with_reducible show Seq.ok _ = true); assumption)
    | ((with_reducible show Tbl.wf _ _ = true); assumption)
    | ((with_reducible show List.length _ ≤ _); assumption)
    | split
    | dsimp only)

theorem enterRecal_keeps {pq : List Instr} {s : State} {n : Nat} {req : Bool} (hk : Keeps pq s) :
    Keeps pq (enterRecal s n req) := by
  unfold enterRecal
  repeat' (first
    | intro _
    | with_reducible assumption
    | with_reducible apply modPort_keeps
    | with_reducible apply queueLink_keeps
    | with_reducible apply setPortState_keeps
    | with_reducible apply ite_keeps
    | with_reducible apply ite_fst_keeps
    | ((with_reducible show Seq.ok _ = true); assumption)
    | ((with_reducible show Tbl.wf _ _ = true); assumption)
    | ((with_reducible show List.length _ ≤ _); assumption)
    | split
    | dsimp only)

theorem execRecalReq_goes {pq : List Instr} {s : State} {n : Nat} {h : FrameHdr} (hk : Keeps pq s) :
    Goes pq (execRecalReq n h s) := by
  unfold execRecalReq
  repeat' (first
    | intro _
    | with_reducible assumption
    | with_reducible apply enterRecal_keeps
    | with_reducible apply modPort_keeps
    | with_reducible apply onFrame_keeps
    | with_reducible apply queueLink_keeps
    | with_reducible apply goes_next
    | with_reducible apply ite_goes
    | with_reducible apply ite_keeps
    | with_reducible apply ite_fst_keeps
    | ((with_reducible show Seq.ok _ = true); assumption)
    | ((with_reducible show Tbl.wf _ _ = true); assumption)
    | ((with_reducible show List.length _ ≤ _); assumption)
    | split
    | dsimp only)

theorem execRecalDone_goes {pq : List Instr} {s : State} {n : Nat} {h : FrameHdr} (hk : Keeps pq s) :
    Goes pq (execRecalDone n h s) := by
  unfold execRecalDone
  repeat' (first
    | intro _
    | with_reducible assumption
    | with_reducible apply bump_keeps
    | with_reducible apply enterActiveAgain_keeps
    | with_reducible apply modPort_keeps
    | with_reducible apply onFrame_keeps
    | with_reducible apply queueLink_keeps
    | with_reducible apply goes_next
    | with_reducible apply ite_goes
    | with_reducible apply ite_keeps
    | with_reducible apply ite_fst_keeps
    | ((with_reducible show Seq.ok _ = true); assumption)
    | ((with_reducible show Tbl.wf _ _ = true); assumption)
    | ((with_reducible show List.length _ ≤ _); assumption)
    | split
    | dsimp only)

theorem execTempRsp_goes {pq : List Instr} {s : State} {n : Nat} {h : FrameHdr} {die : Nat} {half : Int} {valid : Bool} (hk : Keeps pq s) :
    Goes pq (execTempRsp n h die half valid s) := by
  unfold execTempRsp
  repeat' (first
    | intro _
    | with_reducible assumption
    | with_reducible apply dieTempInhibit_keeps
    | with_reducible apply modChm_keeps
    | with_reducible apply modPort_keeps
    | with_reducible apply onFrame_keeps
    | with_reducible apply goes_next
    | with_reducible apply ite_goes
    | with_reducible apply ite_keeps
    | with_reducible apply ite_fst_keeps
    | ((with_reducible show Seq.ok _ = true); assumption)
    | ((with_reducible show Tbl.wf _ _ = true); assumption)
    | ((with_reducible show List.length _ ≤ _); assumption)
    | split
    | dsimp only)

theorem execAckTimerExpiry_goes {pq : List Instr} {s : State} {n : Nat} (hk : Keeps pq s) :
    Goes pq (execAckTimerExpiry n s) := by
  unfold execAckTimerExpiry
  repeat' (first
    | intro _
    | with_reducible assumption
    | with_reducible apply modPort_keeps
    | with_reducible apply goes_next
    | with_reducible apply ite_goes
    | with_reducible apply ite_keeps
    | with_reducible apply ite_fst_keeps
    | ((with_reducible show Seq.ok _ = true); assumption)
    | ((with_reducible show Tbl.wf _ _ = true); assumption)
    | ((with_reducible show List.length _ ≤ _); assumption)
    | split
    | dsimp only)

theorem execReplayTimerExpiry_goes {pq : List Instr} {s : State} {n : Nat} (hk : Keeps pq s) :
    Goes pq (execReplayTimerExpiry n s) := by
  unfold execReplayTimerExpiry
  repeat' (first
    | intro _
    | with_reducible assumption
    | with_reducible apply replayRound_keeps
    | with_reducible apply goes_next
    | with_reducible apply ite_goes
    | with_reducible apply ite_keeps
    | with_reducible apply ite_fst_keeps
    | ((with_reducible show Seq.ok _ = true); assumption)
    | ((with_reducible show Tbl.wf _ _ = true); assumption)
    | ((with_reducible show List.length _ ≤ _); assumption)
    | split
    | dsimp only)

theorem execTransmitFrameBoundary_goes {pq : List Instr} {s : State} {n : Nat} (hk : Keeps pq s) :
    Goes pq (execTransmitFrameBoundary n s) := by
  unfold execTransmitFrameBoundary
  repeat' (first
    | intro _
    | with_reducible assumption
    | with_reducible apply modPort_keeps
    | with_reducible apply sendFrame_keeps
    | with_reducible apply setPortState_keeps
    | with_reducible apply transmitNext_keeps
    | with_reducible apply goes_next
    | with_reducible apply ite_goes
    | with_reducible apply ite_keeps
    | with_reducible apply ite_fst_keeps
    | ((with_reducible show Seq.ok _ = true); assumption)
    | ((with_reducible show Tbl.wf _ _ = true); assumption)
    | ((with_reducible show List.length _ ≤ _); assumption)
    | split
    | dsimp only)

theorem execPortTrain_goes {pq : List Instr} {s : State} {n : Nat} (hk : Keeps pq s) :
    Goes pq (execPortTrain n s) := by
  unfold execPortTrain
  repeat' (first
    | intro _
    | with_reducible assumption
    | with_reducible apply modPort_keeps
    | with_reducible apply setPortState_keeps
    | with_reducible apply goes_next
    | with_reducible apply ite_goes
    | with_reducible apply ite_keeps
    | with_reducible apply ite_fst_keeps
    | ((with_reducible show Seq.ok _ = true); assumption)
    | ((with_reducible show Tbl.wf _ _ = true); assumption)
    | ((with_reducible show List.length _ ≤ _); assumption)
    | split
    | dsimp only)

theorem execPeerDetect_goes {pq : List Instr} {s : State} {n : Nat} (hk : Keeps pq s) :
    Goes pq (execPeerDetect n s) := by
  unfold execPeerDetect
  repeat' (first
    | intro _
    | with_reducible assumption
    | with_reducible apply setPortState_keeps
    | with_reducible apply goes_next
    | with_reducible apply ite_goes
    | with_reducible apply ite_keeps
    | with_reducible apply ite_fst_keeps
    | ((with_reducible show Seq.ok _ = true); assumption)
    | ((with_reducible show Tbl.wf _ _ = true); assumption)
    | ((with_reducible show List.length _ ≤ _); assumption)
    | split
    | dsimp only)

theorem execDetectTimeout_goes {pq : List Instr} {s : State} {n : Nat} (hk : Keeps pq s) :
    Goes pq (execDetectTimeout n s) := by
  unfold execDetectTimeout
  repeat' (first
    | intro _
    | with_reducible assumption
    | with_reducible apply failAttempt_keeps
    | with_reducible apply goes_next
    | with_reducible apply ite_goes
    | with_reducible apply ite_keeps
    | with_reducible apply ite_fst_keeps
    | ((with_reducible show Seq.ok _ = true); assumption)
    | ((with_reducible show Tbl.wf _ _ = true); assumption)
    | ((with_reducible show List.length _ ≤ _); assumption)
    | split
    | dsimp only)

theorem execTrainingTimeout_goes {pq : List Instr} {s : State} {n : Nat} (hk : Keeps pq s) :
    Goes pq (execTrainingTimeout n s) := by
  unfold execTrainingTimeout
  repeat' (first
    | intro _
    | with_reducible assumption
    | with_reducible apply failAttempt_keeps
    | with_reducible apply goes_next
    | with_reducible apply ite_goes
    | with_reducible apply ite_keeps
    | with_reducible apply ite_fst_keeps
    | ((with_reducible show Seq.ok _ = true); assumption)
    | ((with_reducible show Tbl.wf _ _ = true); assumption)
    | ((with_reducible show List.length _ ≤ _); assumption)
    | split
    | dsimp only)

theorem execRecalibrationDue_goes {pq : List Instr} {s : State} {n : Nat} (hk : Keeps pq s) :
    Goes pq (execRecalibrationDue n s) := by
  unfold execRecalibrationDue
  repeat' (first
    | intro _
    | with_reducible assumption
    | with_reducible apply enterRecal_keeps
    | with_reducible apply goes_next
    | with_reducible apply ite_goes
    | with_reducible apply ite_keeps
    | with_reducible apply ite_fst_keeps
    | ((with_reducible show Seq.ok _ = true); assumption)
    | ((with_reducible show Tbl.wf _ _ = true); assumption)
    | ((with_reducible show List.length _ ≤ _); assumption)
    | split
    | dsimp only)

theorem execRecalTimeout_goes {pq : List Instr} {s : State} {n : Nat} (hk : Keeps pq s) :
    Goes pq (execRecalTimeout n s) := by
  unfold execRecalTimeout
  repeat' (first
    | intro _
    | with_reducible assumption
    | with_reducible apply startRetrain_keeps
    | with_reducible apply goes_next
    | with_reducible apply ite_goes
    | with_reducible apply ite_keeps
    | with_reducible apply ite_fst_keeps
    | ((with_reducible show Seq.ok _ = true); assumption)
    | ((with_reducible show Tbl.wf _ _ = true); assumption)
    | ((with_reducible show List.length _ ≤ _); assumption)
    | split
    | dsimp only)

theorem execRetrainTimeout_goes {pq : List Instr} {s : State} {n : Nat} (hk : Keeps pq s) :
    Goes pq (execRetrainTimeout n s) := by
  unfold execRetrainTimeout
  repeat' (first
    | intro _
    | with_reducible assumption
    | with_reducible apply startRetrain_keeps
    | with_reducible apply goes_next
    | with_reducible apply ite_goes
    | with_reducible apply ite_keeps
    | with_reducible apply ite_fst_keeps
    | ((with_reducible show Seq.ok _ = true); assumption)
    | ((with_reducible show Tbl.wf _ _ = true); assumption)
    | ((with_reducible show List.length _ ≤ _); assumption)
    | split
    | dsimp only)

theorem execReceiveLockLoss_goes {pq : List Instr} {s : State} {n : Nat} (hk : Keeps pq s) :
    Goes pq (execReceiveLockLoss n s) := by
  unfold execReceiveLockLoss
  repeat' (first
    | intro _
    | with_reducible assumption
    | with_reducible apply startRetrain_keeps
    | with_reducible apply goes_next
    | with_reducible apply ite_goes
    | with_reducible apply ite_keeps
    | with_reducible apply ite_fst_keeps
    | ((with_reducible show Seq.ok _ = true); assumption)
    | ((with_reducible show Tbl.wf _ _ = true); assumption)
    | ((with_reducible show List.length _ ≤ _); assumption)
    | split
    | dsimp only)

theorem execLockRegained_goes {pq : List Instr} {s : State} {n : Nat} (hk : Keeps pq s) :
    Goes pq (execLockRegained n s) := by
  unfold execLockRegained
  repeat' (first
    | intro _
    | with_reducible assumption
    | with_reducible apply enterActiveAgain_keeps
    | with_reducible apply goes_next
    | with_reducible apply ite_goes
    | with_reducible apply ite_keeps
    | with_reducible apply ite_fst_keeps
    | ((with_reducible show Seq.ok _ = true); assumption)
    | ((with_reducible show Tbl.wf _ _ = true); assumption)
    | ((with_reducible show List.length _ ≤ _); assumption)
    | split
    | dsimp only)

theorem execPortRetrain_goes {pq : List Instr} {s : State} {n : Nat} (hk : Keeps pq s) :
    Goes pq (execPortRetrain n s) := by
  unfold execPortRetrain
  repeat' (first
    | intro _
    | with_reducible assumption
    | with_reducible apply startRetrain_keeps
    | with_reducible apply goes_next
    | with_reducible apply ite_goes
    | with_reducible apply ite_keeps
    | with_reducible apply ite_fst_keeps
    | ((with_reducible show Seq.ok _ = true); assumption)
    | ((with_reducible show Tbl.wf _ _ = true); assumption)
    | ((with_reducible show List.length _ ≤ _); assumption)
    | split
    | dsimp only)

theorem execPortRecal_goes {pq : List Instr} {s : State} {n : Nat} (hk : Keeps pq s) :
    Goes pq (execPortRecal n s) := by
  unfold execPortRecal
  repeat' (first
    | intro _
    | with_reducible assumption
    | with_reducible apply modPort_keeps
    | with_reducible apply goes_next
    | with_reducible apply ite_goes
    | with_reducible apply ite_keeps
    | with_reducible apply ite_fst_keeps
    | ((with_reducible show Seq.ok _ = true); assumption)
    | ((with_reducible show Tbl.wf _ _ = true); assumption)
    | ((with_reducible show List.length _ ≤ _); assumption)
    | split
    | dsimp only)

theorem execPortRetire_goes {pq : List Instr} {s : State} {n cause : Nat} (hk : Keeps pq s) :
    Goes pq (execPortRetire n cause s) := by
  unfold execPortRetire
  repeat' (first
    | intro _
    | with_reducible assumption
    | with_reducible apply retirePort_keeps
    | with_reducible apply goes_next
    | with_reducible apply ite_goes
    | with_reducible apply ite_keeps
    | with_reducible apply ite_fst_keeps
    | ((with_reducible show Seq.ok _ = true); assumption)
    | ((with_reducible show Tbl.wf _ _ = true); assumption)
    | ((with_reducible show List.length _ ≤ _); assumption)
    | split
    | dsimp only)

theorem execPortHold_goes {pq : List Instr} {s : State} {n : Nat} {v : Bool} (hk : Keeps pq s) :
    Goes pq (execPortHold n v s) := by
  unfold execPortHold
  repeat' (first
    | intro _
    | with_reducible assumption
    | with_reducible apply wr_keeps
    | with_reducible apply goes_next
    | with_reducible apply ite_goes
    | with_reducible apply ite_keeps
    | with_reducible apply ite_fst_keeps
    | ((with_reducible show Seq.ok _ = true); assumption)
    | ((with_reducible show Tbl.wf _ _ = true); assumption)
    | ((with_reducible show List.length _ ≤ _); assumption)
    | split
    | dsimp only)

theorem execNoStatusTimeout_goes {pq : List Instr} {s : State} {n i : Nat} (hk : Keeps pq s) :
    Goes pq (execNoStatusTimeout n i s) := by
  unfold execNoStatusTimeout
  repeat' (first
    | intro _
    | with_reducible assumption
    | with_reducible apply closeOldest_keeps
    | with_reducible apply raise_keeps
    | with_reducible apply goes_next
    | with_reducible apply ite_goes
    | with_reducible apply ite_keeps
    | with_reducible apply ite_fst_keeps
    | ((with_reducible show Seq.ok _ = true); assumption)
    | ((with_reducible show Tbl.wf _ _ = true); assumption)
    | ((with_reducible show List.length _ ≤ _); assumption)
    | split
    | dsimp only)

theorem execTempPoll_goes {pq : List Instr} {s : State}  (hk : Keeps pq s) :
    Goes pq (execTempPoll s) := by
  unfold execTempPoll
  repeat' (first
    | intro _
    | with_reducible assumption
    | with_reducible apply each_keeps
    | with_reducible apply modPort_keeps
    | with_reducible apply goes_next
    | with_reducible apply ite_goes
    | with_reducible apply ite_keeps
    | with_reducible apply ite_fst_keeps
    | ((with_reducible show Seq.ok _ = true); assumption)
    | ((with_reducible show Tbl.wf _ _ = true); assumption)
    | ((with_reducible show List.length _ ≤ _); assumption)
    | split
    | dsimp only)

theorem execRefclkOutputCtl_goes {pq : List Instr} {s : State} {v : U64} (hk : Keeps pq s) :
    Goes pq (execRefclkOutputCtl v s) := by
  unfold execRefclkOutputCtl
  repeat' (first
    | intro _
    | with_reducible assumption
    | with_reducible apply wr_keeps
    | with_reducible apply foldl_keeps
    | with_reducible apply foldl_fst_keeps
    | with_reducible apply goes_next
    | with_reducible apply ite_goes
    | with_reducible apply ite_keeps
    | with_reducible apply ite_fst_keeps
    | ((with_reducible show Seq.ok _ = true); assumption)
    | ((with_reducible show Tbl.wf _ _ = true); assumption)
    | ((with_reducible show List.length _ ≤ _); assumption)
    | split
    | dsimp only)

end Sys2Proof.Machine
end

