-- ==== Sys2Proof/Laws/KeepAttic.lean ====
section
/-!
SUPPORT. The invariant under the operations and commands of Attic: each keeps it and the queue (Keeps); a command answers a next state (Goes).
-/
set_option linter.unusedTactic false
set_option linter.unreachableTactic false
set_option linter.unusedVariables false
namespace Sys2Proof.Machine

theorem execAtcPostGo_goes {pq : List Instr} {s : State} {who : Agent} {code sev : Nat} (hk : Keeps pq s) :
    Goes pq (execAtcPostGo who code sev s) := by
  unfold execAtcPostGo
  repeat' (first
    | intro _
    | with_reducible assumption
    | with_reducible apply post_keeps
    | with_reducible apply goes_next
    | with_reducible apply ite_goes
    | with_reducible apply ite_keeps
    | with_reducible apply ite_fst_keeps
    | ((with_reducible show Seq.ok _ = true); assumption)
    | ((with_reducible show Tbl.wf _ _ = true); assumption)
    | ((with_reducible show List.length _ ≤ _); assumption)
    | split
    | dsimp only)

theorem execOperatingSecondEnd_goes {pq : List Instr} {s : State}  (hk : Keeps pq s) :
    Goes pq (execOperatingSecondEnd s) := by
  unfold execOperatingSecondEnd
  repeat' (first
    | intro _
    | with_reducible assumption
    | with_reducible apply appendRec_keeps
    | with_reducible apply modAtc_keeps
    | with_reducible apply modClo_keeps
    | with_reducible apply modPwr_keeps
    | with_reducible apply goes_next
    | with_reducible apply ite_goes
    | with_reducible apply ite_keeps
    | with_reducible apply ite_fst_keeps
    | ((with_reducible show Seq.ok _ = true); assumption)
    | ((with_reducible show Tbl.wf _ _ = true); assumption)
    | ((with_reducible show List.length _ ≤ _); assumption)
    | ((with_reducible show List.length [] ≤ _); exact Nat.zero_le _)
    | split
    | dsimp only)

theorem mirrorOne_ring (a : Attic) (r : AtticRec) : (mirrorOne a r).ring = a.ring := by
  unfold mirrorOne
  dsimp only
  repeat' split
  all_goals rfl

theorem mirrorAll_ring (l : List AtticRec) (a : Attic) : (l.foldl mirrorOne a).ring = a.ring := by
  induction l generalizing a with
  | nil => rfl
  | cons r t ih => exact (ih _).trans (mirrorOne_ring a r)

theorem execAtticMirrorProgram_goes {pq : List Instr} {s : State} (hk : Keeps pq s) : Goes pq (execAtticMirrorProgram s) := by
  unfold execAtticMirrorProgram
  refine ite_goes (goes_next hk) (goes_next (modAtc_keeps hk fun a ha => ?_))
  dsimp only
  repeat' split
  all_goals
    show (List.foldl mirrorOne a a.waiting).ring.length ≤ 8192
    rw [mirrorAll_ring]
    exact ha

theorem pageProgram_keeps {pq : List Instr} {s : State}  (hk : Keeps pq s) :
    Keeps pq (pageProgram s) := by
  unfold pageProgram
  repeat' (first
    | intro _
    | with_reducible assumption
    | with_reducible apply modAtc_keeps
    | with_reducible apply ite_keeps
    | with_reducible apply ite_fst_keeps
    | ((with_reducible show Seq.ok _ = true); assumption)
    | ((with_reducible show Tbl.wf _ _ = true); assumption)
    | ((with_reducible show List.length _ ≤ _); assumption)
    | ((with_reducible show List.length [] ≤ _); exact Nat.zero_le _)
    | split
    | dsimp only)

theorem execFullModePageProgram_goes {pq : List Instr} {s : State}  (hk : Keeps pq s) :
    Goes pq (execFullModePageProgram s) := by
  unfold execFullModePageProgram
  repeat' (first
    | intro _
    | with_reducible assumption
    | with_reducible apply pageProgram_keeps
    | with_reducible apply goes_next
    | with_reducible apply ite_goes
    | with_reducible apply ite_keeps
    | with_reducible apply ite_fst_keeps
    | ((with_reducible show Seq.ok _ = true); assumption)
    | ((with_reducible show Tbl.wf _ _ = true); assumption)
    | ((with_reducible show List.length _ ≤ _); assumption)
    | split
    | dsimp only)

theorem execAtcWinCursorWrite_goes {pq : List Instr} {s : State} {who : Agent} {w seq : Nat} (hk : Keeps pq s) :
    Goes pq (execAtcWinCursorWrite who w seq s) := by
  unfold execAtcWinCursorWrite
  repeat' (first
    | intro _
    | with_reducible assumption
    | with_reducible apply modAtc_keeps
    | with_reducible apply goes_next
    | with_reducible apply ite_goes
    | with_reducible apply ite_keeps
    | with_reducible apply ite_fst_keeps
    | ((with_reducible show Seq.ok _ = true); assumption)
    | ((with_reducible show Tbl.wf _ _ = true); assumption)
    | ((with_reducible show List.length _ ≤ _); assumption)
    | ((with_reducible show List.length [] ≤ _); exact Nat.zero_le _)
    | split
    | dsimp only)

theorem execWindowLatchDone_goes {pq : List Instr} {s : State} {w : Nat} {unreadable : List Nat} (hk : Keeps pq s) :
    Goes pq (execWindowLatchDone w unreadable s) := by
  unfold execWindowLatchDone
  repeat' (first
    | intro _
    | with_reducible assumption
    | with_reducible apply modAtc_keeps
    | with_reducible apply goes_next
    | with_reducible apply ite_goes
    | with_reducible apply ite_keeps
    | with_reducible apply ite_fst_keeps
    | ((with_reducible show Seq.ok _ = true); assumption)
    | ((with_reducible show Tbl.wf _ _ = true); assumption)
    | ((with_reducible show List.length _ ≤ _); assumption)
    | ((with_reducible show List.length [] ≤ _); exact Nat.zero_le _)
    | split
    | dsimp only)

theorem execAtticCopyMove_goes {pq : List Instr} {s : State} {which : Nat} (hk : Keeps pq s) :
    Goes pq (execAtticCopyMove which s) := by
  unfold execAtticCopyMove
  repeat' (first
    | intro _
    | with_reducible assumption
    | with_reducible apply modAtc_keeps
    | with_reducible apply post_keeps
    | with_reducible apply foldl_keeps
    | with_reducible apply foldl_fst_keeps
    | with_reducible apply goes_next
    | with_reducible apply ite_goes
    | with_reducible apply ite_keeps
    | with_reducible apply ite_fst_keeps
    | ((with_reducible show Seq.ok _ = true); assumption)
    | ((with_reducible show Tbl.wf _ _ = true); assumption)
    | ((with_reducible show List.length _ ≤ _); assumption)
    | ((with_reducible show List.length [] ≤ _); exact Nat.zero_le _)
    | split
    | dsimp only)

theorem execInServiceTestItem_goes {pq : List Instr} {s : State} {item unit detail : Nat} {yielded passed : Bool} (hk : Keeps pq s) :
    Goes pq (execInServiceTestItem item unit detail yielded passed s) := by
  unfold execInServiceTestItem
  repeat' (first
    | intro _
    | with_reducible assumption
    | with_reducible apply modAtc_keeps
    | with_reducible apply post_keeps
    | with_reducible apply replaceDumpSuite_keeps
    | with_reducible apply goes_next
    | with_reducible apply ite_goes
    | with_reducible apply ite_keeps
    | with_reducible apply ite_fst_keeps
    | ((with_reducible show Seq.ok _ = true); assumption)
    | ((with_reducible show Tbl.wf _ _ = true); assumption)
    | ((with_reducible show List.length _ ≤ _); assumption)
    | ((with_reducible show List.length [] ≤ _); exact Nat.zero_le _)
    | split
    | dsimp only)

theorem execDstSegment_goes {pq : List Instr} {s : State} {passed : Bool} {lba : Nat} (hk : Keeps pq s) :
    Goes pq (execDstSegment passed lba s) := by
  unfold execDstSegment
  repeat' (first
    | intro _
    | with_reducible assumption
    | with_reducible apply dstEnd_keeps
    | with_reducible apply modAtc_keeps
    | with_reducible apply goes_next
    | with_reducible apply ite_goes
    | with_reducible apply ite_keeps
    | with_reducible apply ite_fst_keeps
    | ((with_reducible show Seq.ok _ = true); assumption)
    | ((with_reducible show Tbl.wf _ _ = true); assumption)
    | ((with_reducible show List.length _ ≤ _); assumption)
    | ((with_reducible show List.length [] ≤ _); exact Nat.zero_le _)
    | split
    | dsimp only)

theorem execDstLimitExpiry_goes {pq : List Instr} {s : State}  (hk : Keeps pq s) :
    Goes pq (execDstLimitExpiry s) := by
  unfold execDstLimitExpiry
  repeat' (first
    | intro _
    | with_reducible assumption
    | with_reducible apply dstEnd_keeps
    | with_reducible apply goes_next
    | with_reducible apply ite_goes
    | with_reducible apply ite_keeps
    | with_reducible apply ite_fst_keeps
    | ((with_reducible show Seq.ok _ = true); assumption)
    | ((with_reducible show Tbl.wf _ _ = true); assumption)
    | ((with_reducible show List.length _ ≤ _); assumption)
    | split
    | dsimp only)

end Sys2Proof.Machine
end

