-- ==== Sys2Proof/Laws/KeepPower.lean ====
section
/-!
SUPPORT. The invariant under the operations and commands of Power: each keeps it and the queue (Keeps); a command answers a next state (Goes).
-/
set_option linter.unusedTactic false
set_option linter.unreachableTactic false
set_option linter.unusedVariables false
namespace Sys2Proof.Machine

theorem confAppend_keeps {pq : List Instr} {s : State} {typ : Nat} {payload : List Nat} (hk : Keeps pq s) :
    Keeps pq (confAppend s typ payload) := by
  unfold confAppend
  repeat' (first
    | intro _
    | with_reducible assumption
    | with_reducible apply modClo_keeps
    | with_reducible apply ite_keeps
    | with_reducible apply ite_fst_keeps
    | ((with_reducible show Seq.ok _ = true); assumption)
    | ((with_reducible show Tbl.wf _ _ = true); assumption)
    | ((with_reducible show List.length _ ≤ _); assumption)
    | split
    | dsimp only)

theorem fillOpen_wf {t : Tbl Byte} {base f : Nat} (h : Tbl.wf 0xFF t = true) : Tbl.wf 0xFF (fillOpen t base f) = true := by
  unfold fillOpen
  apply Tbl.wf_foldl
  · intro t b ht
    exact Tbl.wf_setD _ _ _ _ ht
  · exact h

theorem norUndefined_keeps {pq : List Instr} {s : State} {sec : Nat} (hk : Keeps pq s) : Keeps pq (norUndefined s sec) := by
  unfold norUndefined
  apply modClo_keeps
  · exact ticks_keeps hk
  · intro c hc
    with_reducible apply fillOpen_wf
    with_reducible exact hc

theorem cutCloset_keeps {pq : List Instr} {s : State} (hk : Keeps pq s) : Keeps pq (cutCloset s) := by
  unfold cutCloset
  split
  · exact hk
  · refine ite_keeps ?_ (ite_keeps ?_ ?_)
    · refine each_keeps (modClo_keeps hk fun c hc => hc) fun s a h => modClo_keeps (tick_keeps (tick_keeps h)) fun c hc => ?_
      exact Tbl.wf_setD _ _ _ _ hc
    · exact norUndefined_keeps (modClo_keeps hk fun c hc => hc)
    · exact modClo_keeps hk fun c hc => hc

theorem blank_keeps {pq : List Instr} {s : State} {keep : Nat → Bool} (hk : Keeps pq s) : Keeps pq (blank s keep) := by
  obtain ⟨h1, _, _, h4, _, h6⟩ := keeps_parts hk
  exact keeps_of_parts (Tbl.sorted_filter _ _ h1) rfl rfl h4 (Nat.zero_le _) h6

theorem enterOff_keeps {pq : List Instr} {s : State}  (hk : Keeps pq s) :
    Keeps pq (enterOff s) := by
  unfold enterOff
  repeat' (first
    | intro _
    | with_reducible assumption
    | with_reducible apply blank_keeps
    | with_reducible apply modPwr_keeps
    | with_reducible apply ite_keeps
    | with_reducible apply ite_fst_keeps
    | ((with_reducible show Seq.ok _ = true); assumption)
    | ((with_reducible show Tbl.wf _ _ = true); assumption)
    | ((with_reducible show List.length _ ≤ _); assumption)
    | split
    | dsimp only)

theorem atticStart_keeps {pq : List Instr} {s : State} {k : Option Attic} (hr : ∀ a, k = some a → a.ring.length ≤ 8192) (hk : Keeps pq s) :
    Keeps pq (atticStart s k) := by
  unfold atticStart
  refine post_keeps (modAtc_keeps hk fun a ha => ?_)
  cases k with
  | none => apply lastN_length
  | some b => exact hr b rfl

theorem bootStart_keeps {pq : List Instr} {s : State} {k : Option Attic} (hr : ∀ a, k = some a → a.ring.length ≤ 8192) (hk : Keeps pq s) :
    Keeps pq (bootStart s k) := by
  have h := atticStart_keeps hr hk
  unfold bootStart
  repeat' (first
    | intro _
    | with_reducible assumption
    | with_reducible apply atticStart_keeps
    | with_reducible apply modPwr_keeps
    | with_reducible apply post_keeps
    | with_reducible apply ite_keeps
    | with_reducible apply ite_fst_keeps
    | ((with_reducible show Seq.ok _ = true); assumption)
    | ((with_reducible show Tbl.wf _ _ = true); assumption)
    | ((with_reducible show List.length _ ≤ _); assumption)
    | split
    | dsimp only)

theorem execPowerOnResetRelease_goes {pq : List Instr} {s : State} (hk : Keeps pq s) : Goes pq (execPowerOnResetRelease s) := by
  unfold execPowerOnResetRelease
  refine ite_goes (goes_next hk) (goes_next (bootStart_keeps ?_ ?_))
  · intro a ha
    cases ha
  · exact modBsm_keeps (modScu_keeps (modChm_keeps (modPwr_keeps (confAppend_keeps (blank_keeps hk)))))

theorem watchdogRestart_keeps {pq : List Instr} {s : State} {cause : Nat} (hk : Keeps pq s) : Keeps pq (watchdogRestart s cause) := by
  unfold watchdogRestart
  refine bootStart_keeps ?_ (modStg_keeps (modPwr_keeps (blank_keeps hk)))
  intro a ha
  cases ha
  exact (keeps_parts hk).2.2.2.2.1

theorem freeze_keeps {pq : List Instr} {s : State} {manifestOnly : Bool} (hk : Keeps pq s) :
    Keeps pq (freeze s manifestOnly) := by
  unfold freeze
  repeat' (first
    | intro _
    | with_reducible assumption
    | with_reducible apply modLdr_keeps
    | with_reducible apply returnSlots_keeps
    | with_reducible apply ite_keeps
    | with_reducible apply ite_fst_keeps
    | ((with_reducible show Seq.ok _ = true); assumption)
    | ((with_reducible show Tbl.wf _ _ = true); assumption)
    | ((with_reducible show List.length _ ≤ _); assumption)
    | split
    | dsimp only)

theorem offerDump_keeps {pq : List Instr} {s : State} {img : DumpImg} (hk : Keeps pq s) :
    Keeps pq (offerDump s img) := by
  unfold offerDump
  repeat' (first
    | intro _
    | with_reducible assumption
    | with_reducible apply dumpProgram_keeps
    | with_reducible apply each_keeps
    | with_reducible apply ite_keeps
    | with_reducible apply ite_fst_keeps
    | ((with_reducible show Seq.ok _ = true); assumption)
    | ((with_reducible show Tbl.wf _ _ = true); assumption)
    | ((with_reducible show List.length _ ≤ _); assumption)
    | split
    | dsimp only)

theorem startDump_keeps {pq : List Instr} {s : State}  (hk : Keeps pq s) :
    Keeps pq (startDump s) := by
  unfold startDump
  repeat' (first
    | intro _
    | with_reducible assumption
    | with_reducible apply clr1_keeps
    | with_reducible apply freeze_keeps
    | with_reducible apply modLdr_keeps
    | with_reducible apply modPwr_keeps
    | with_reducible apply offerDump_keeps
    | with_reducible apply ite_keeps
    | with_reducible apply ite_fst_keeps
    | ((with_reducible show Seq.ok _ = true); assumption)
    | ((with_reducible show Tbl.wf _ _ = true); assumption)
    | ((with_reducible show List.length _ ≤ _); assumption)
    | split
    | dsimp only)

theorem afterDump_keeps {pq : List Instr} {s : State}  (hk : Keeps pq s) :
    Keeps pq (afterDump s) := by
  unfold afterDump
  repeat' (first
    | intro _
    | with_reducible assumption
    | with_reducible apply enterOff_keeps
    | with_reducible apply watchdogRestart_keeps
    | with_reducible apply ite_keeps
    | with_reducible apply ite_fst_keeps
    | ((with_reducible show Seq.ok _ = true); assumption)
    | ((with_reducible show Tbl.wf _ _ = true); assumption)
    | ((with_reducible show List.length _ ≤ _); assumption)
    | split
    | dsimp only)

theorem goDown_keeps {pq : List Instr} {s : State}  (hk : Keeps pq s) :
    Keeps pq (goDown s) := by
  unfold goDown
  repeat' (first
    | intro _
    | with_reducible assumption
    | with_reducible apply afterDump_keeps
    | with_reducible apply modPwr_keeps
    | with_reducible apply startDump_keeps
    | with_reducible apply ite_keeps
    | with_reducible apply ite_fst_keeps
    | ((with_reducible show Seq.ok _ = true); assumption)
    | ((with_reducible show Tbl.wf _ _ = true); assumption)
    | ((with_reducible show List.length _ ≤ _); assumption)
    | split
    | dsimp only)

theorem restartAfterLoss_keeps {pq : List Instr} {s : State}  (hk : Keeps pq s) :
    Keeps pq (restartAfterLoss s) := by
  unfold restartAfterLoss
  repeat' (first
    | intro _
    | with_reducible assumption
    | with_reducible apply goDown_keeps
    | with_reducible apply modPwr_keeps
    | with_reducible apply ite_keeps
    | with_reducible apply ite_fst_keeps
    | ((with_reducible show Seq.ok _ = true); assumption)
    | ((with_reducible show Tbl.wf _ _ = true); assumption)
    | ((with_reducible show List.length _ ≤ _); assumption)
    | split
    | dsimp only)

theorem watchdogReset_keeps {pq : List Instr} {s : State} {cause : Nat} (hk : Keeps pq s) :
    Keeps pq (watchdogReset s cause) := by
  unfold watchdogReset
  repeat' (first
    | intro _
    | with_reducible assumption
    | with_reducible apply afterDump_keeps
    | with_reducible apply goDown_keeps
    | with_reducible apply modPwr_keeps
    | with_reducible apply ite_keeps
    | with_reducible apply ite_fst_keeps
    | ((with_reducible show Seq.ok _ = true); assumption)
    | ((with_reducible show Tbl.wf _ _ = true); assumption)
    | ((with_reducible show List.length _ ≤ _); assumption)
    | split
    | dsimp only)

theorem execPwrfailAssert_goes {pq : List Instr} {s : State}  (hk : Keeps pq s) :
    Goes pq (execPwrfailAssert s) := by
  unfold execPwrfailAssert
  repeat' (first
    | intro _
    | with_reducible assumption
    | with_reducible apply enterOff_keeps
    | with_reducible apply modPwr_keeps
    | with_reducible apply set1_keeps
    | with_reducible apply startDump_keeps
    | with_reducible apply wake_keeps
    | with_reducible apply wr_keeps
    | with_reducible apply goes_next
    | with_reducible apply ite_goes
    | with_reducible apply ite_keeps
    | with_reducible apply ite_fst_keeps
    | ((with_reducible show Seq.ok _ = true); assumption)
    | ((with_reducible show Tbl.wf _ _ = true); assumption)
    | ((with_reducible show List.length _ ≤ _); assumption)
    | split
    | dsimp only)

theorem execPwrfailDeassert_goes {pq : List Instr} {s : State}  (hk : Keeps pq s) :
    Goes pq (execPwrfailDeassert s) := by
  unfold execPwrfailDeassert
  repeat' (first
    | intro _
    | with_reducible assumption
    | with_reducible apply modPwr_keeps
    | with_reducible apply goes_next
    | with_reducible apply ite_goes
    | with_reducible apply ite_keeps
    | with_reducible apply ite_fst_keeps
    | ((with_reducible show Seq.ok _ = true); assumption)
    | ((with_reducible show Tbl.wf _ _ = true); assumption)
    | ((with_reducible show List.length _ ≤ _); assumption)
    | split
    | dsimp only)

theorem execPwrfailReleaseExpiry_goes {pq : List Instr} {s : State}  (hk : Keeps pq s) :
    Goes pq (execPwrfailReleaseExpiry s) := by
  unfold execPwrfailReleaseExpiry
  repeat' (first
    | intro _
    | with_reducible assumption
    | with_reducible apply modPwr_keeps
    | with_reducible apply post_keeps
    | with_reducible apply pumpAll_keeps
    | with_reducible apply tick_keeps
    | with_reducible apply wtCheck_keeps
    | with_reducible apply goes_next
    | with_reducible apply ite_goes
    | with_reducible apply ite_keeps
    | with_reducible apply ite_fst_keeps
    | ((with_reducible show Seq.ok _ = true); assumption)
    | ((with_reducible show Tbl.wf _ _ = true); assumption)
    | ((with_reducible show List.length _ ≤ _); assumption)
    | split
    | dsimp only)

theorem execDumpDirectoryPass_goes {pq : List Instr} {s : State}  (hk : Keeps pq s) :
    Goes pq (execDumpDirectoryPass s) := by
  unfold execDumpDirectoryPass
  repeat' (first
    | intro _
    | with_reducible assumption
    | with_reducible apply afterDump_keeps
    | with_reducible apply goes_next
    | with_reducible apply ite_goes
    | with_reducible apply ite_keeps
    | with_reducible apply ite_fst_keeps
    | ((with_reducible show Seq.ok _ = true); assumption)
    | ((with_reducible show Tbl.wf _ _ = true); assumption)
    | ((with_reducible show List.length _ ≤ _); assumption)
    | split
    | dsimp only)

theorem execMainSupplyDrop_goes {pq : List Instr} {s : State} {m : MainSupply} (hk : Keeps pq s) :
    Goes pq (execMainSupplyDrop m s) := by
  unfold execMainSupplyDrop
  repeat' (first
    | intro _
    | with_reducible assumption
    | with_reducible apply blank_keeps
    | with_reducible apply cutCloset_keeps
    | with_reducible apply modLdr_keeps
    | with_reducible apply modPwr_keeps
    | with_reducible apply goes_next
    | with_reducible apply ite_goes
    | with_reducible apply ite_keeps
    | with_reducible apply ite_fst_keeps
    | ((with_reducible show Seq.ok _ = true); assumption)
    | ((with_reducible show Tbl.wf _ _ = true); assumption)
    | ((with_reducible show List.length _ ≤ _); assumption)
    | split
    | dsimp only)

theorem execVauxLoss_goes {pq : List Instr} {s : State}  (hk : Keeps pq s) :
    Goes pq (execVauxLoss s) := by
  unfold execVauxLoss
  repeat' (first
    | intro _
    | with_reducible assumption
    | with_reducible apply modPwr_keeps
    | with_reducible apply wr_keeps
    | with_reducible apply goes_next
    | with_reducible apply ite_goes
    | with_reducible apply ite_keeps
    | with_reducible apply ite_fst_keeps
    | ((with_reducible show Seq.ok _ = true); assumption)
    | ((with_reducible show Tbl.wf _ _ = true); assumption)
    | ((with_reducible show List.length _ ≤ _); assumption)
    | split
    | dsimp only)

theorem execVauxApply_goes {pq : List Instr} {s : State}  (hk : Keeps pq s) :
    Goes pq (execVauxApply s) := by
  unfold execVauxApply
  repeat' (first
    | intro _
    | with_reducible assumption
    | with_reducible apply modPwr_keeps
    | with_reducible apply goes_next
    | with_reducible apply ite_goes
    | with_reducible apply ite_keeps
    | with_reducible apply ite_fst_keeps
    | ((with_reducible show Seq.ok _ = true); assumption)
    | ((with_reducible show Tbl.wf _ _ = true); assumption)
    | ((with_reducible show List.length _ ≤ _); assumption)
    | split
    | dsimp only)

theorem execShutdownLatchClear_goes {pq : List Instr} {s : State}  (hk : Keeps pq s) :
    Goes pq (execShutdownLatchClear s) := by
  unfold execShutdownLatchClear
  repeat' (first
    | intro _
    | with_reducible assumption
    | with_reducible apply modPwr_keeps
    | with_reducible apply goes_next
    | with_reducible apply ite_goes
    | with_reducible apply ite_keeps
    | with_reducible apply ite_fst_keeps
    | ((with_reducible show Seq.ok _ = true); assumption)
    | ((with_reducible show Tbl.wf _ _ = true); assumption)
    | ((with_reducible show List.length _ ≤ _); assumption)
    | split
    | dsimp only)

theorem execRefclkLoss_goes {pq : List Instr} {s : State}  (hk : Keeps pq s) :
    Goes pq (execRefclkLoss s) := by
  unfold execRefclkLoss
  repeat' (first
    | intro _
    | with_reducible assumption
    | with_reducible apply goDown_keeps
    | with_reducible apply modPwr_keeps
    | with_reducible apply set1_keeps
    | with_reducible apply goes_next
    | with_reducible apply ite_goes
    | with_reducible apply ite_keeps
    | with_reducible apply ite_fst_keeps
    | ((with_reducible show Seq.ok _ = true); assumption)
    | ((with_reducible show Tbl.wf _ _ = true); assumption)
    | ((with_reducible show List.length _ ≤ _); assumption)
    | split
    | dsimp only)

theorem execLinkWake_goes {pq : List Instr} {s : State} {p : Nat} (hk : Keeps pq s) :
    Goes pq (execLinkWake p s) := by
  unfold execLinkWake
  repeat' (first
    | intro _
    | with_reducible assumption
    | with_reducible apply modHport_keeps
    | with_reducible apply wake_keeps
    | with_reducible apply goes_next
    | with_reducible apply ite_goes
    | with_reducible apply ite_keeps
    | with_reducible apply ite_fst_keeps
    | ((with_reducible show Seq.ok _ = true); assumption)
    | ((with_reducible show Tbl.wf _ _ = true); assumption)
    | ((with_reducible show List.length _ ≤ _); assumption)
    | split
    | dsimp only)

theorem execWakeTimerExpiry_goes {pq : List Instr} {s : State}  (hk : Keeps pq s) :
    Goes pq (execWakeTimerExpiry s) := by
  unfold execWakeTimerExpiry
  repeat' (first
    | intro _
    | with_reducible assumption
    | with_reducible apply emit_keeps
    | with_reducible apply modPwr_keeps
    | with_reducible apply wake_keeps
    | with_reducible apply wr_keeps
    | with_reducible apply goes_next
    | with_reducible apply ite_goes
    | with_reducible apply ite_keeps
    | with_reducible apply ite_fst_keeps
    | ((with_reducible show Seq.ok _ = true); assumption)
    | ((with_reducible show Tbl.wf _ _ = true); assumption)
    | ((with_reducible show List.length _ ≤ _); assumption)
    | split
    | dsimp only)

theorem execI3cStaticAddressStart_goes {pq : List Instr} {s : State}  (hk : Keeps pq s) :
    Goes pq (execI3cStaticAddressStart s) := by
  unfold execI3cStaticAddressStart
  repeat' (first
    | intro _
    | with_reducible assumption
    | with_reducible apply emit_keeps
    | with_reducible apply modPwr_keeps
    | with_reducible apply goes_next
    | with_reducible apply ite_goes
    | with_reducible apply ite_keeps
    | with_reducible apply ite_fst_keeps
    | ((with_reducible show Seq.ok _ = true); assumption)
    | ((with_reducible show Tbl.wf _ _ = true); assumption)
    | ((with_reducible show List.length _ ≤ _); assumption)
    | split
    | dsimp only)

theorem execPllEnable_goes {pq : List Instr} {s : State}  (hk : Keeps pq s) :
    Goes pq (execPllEnable s) := by
  unfold execPllEnable
  repeat' (first
    | intro _
    | with_reducible assumption
    | with_reducible apply set1_keeps
    | with_reducible apply goes_next
    | with_reducible apply ite_goes
    | with_reducible apply ite_keeps
    | with_reducible apply ite_fst_keeps
    | ((with_reducible show Seq.ok _ = true); assumption)
    | ((with_reducible show Tbl.wf _ _ = true); assumption)
    | ((with_reducible show List.length _ ≤ _); assumption)
    | split
    | dsimp only)

theorem execPllLock_goes {pq : List Instr} {s : State}  (hk : Keeps pq s) :
    Goes pq (execPllLock s) := by
  unfold execPllLock
  repeat' (first
    | intro _
    | with_reducible assumption
    | with_reducible apply set1_keeps
    | with_reducible apply goes_next
    | with_reducible apply ite_goes
    | with_reducible apply ite_keeps
    | with_reducible apply ite_fst_keeps
    | ((with_reducible show Seq.ok _ = true); assumption)
    | ((with_reducible show Tbl.wf _ _ = true); assumption)
    | ((with_reducible show List.length _ ≤ _); assumption)
    | split
    | dsimp only)

theorem advanceTime_keeps {pq : List Instr} {s : State}  (hk : Keeps pq s) :
    Keeps pq (advanceTime s) := by
  unfold advanceTime
  repeat' (first
    | intro _
    | with_reducible assumption
    | with_reducible apply modPwr_keeps
    | with_reducible apply ite_keeps
    | with_reducible apply ite_fst_keeps
    | ((with_reducible show Seq.ok _ = true); assumption)
    | ((with_reducible show Tbl.wf _ _ = true); assumption)
    | ((with_reducible show List.length _ ≤ _); assumption)
    | split
    | dsimp only)

theorem execClockSelect_goes {pq : List Instr} {s : State}  (hk : Keeps pq s) :
    Goes pq (execClockSelect s) := by
  unfold execClockSelect
  repeat' (first
    | intro _
    | with_reducible assumption
    | with_reducible apply advanceTime_keeps
    | with_reducible apply modStd_keeps
    | with_reducible apply set1_keeps
    | with_reducible apply goes_next
    | with_reducible apply ite_goes
    | with_reducible apply ite_keeps
    | with_reducible apply ite_fst_keeps
    | ((with_reducible show Seq.ok _ = true); assumption)
    | ((with_reducible show Tbl.wf _ _ = true); assumption)
    | ((with_reducible show List.length _ ≤ _); assumption)
    | split
    | dsimp only)

theorem execStdDomainEnWrite_goes {pq : List Instr} {s : State} {v : U64} (hk : Keeps pq s) :
    Goes pq (execStdDomainEnWrite v s) := by
  unfold execStdDomainEnWrite
  repeat' (first
    | intro _
    | with_reducible assumption
    | with_reducible apply each_keeps
    | with_reducible apply startRetrain_keeps
    | with_reducible apply wr_keeps
    | with_reducible apply goes_next
    | with_reducible apply ite_goes
    | with_reducible apply ite_keeps
    | with_reducible apply ite_fst_keeps
    | ((with_reducible show Seq.ok _ = true); assumption)
    | ((with_reducible show Tbl.wf _ _ = true); assumption)
    | ((with_reducible show List.length _ ≤ _); assumption)
    | split
    | dsimp only)

theorem execStdPadRelease_goes {pq : List Instr} {s : State}  (hk : Keeps pq s) :
    Goes pq (execStdPadRelease s) := by
  unfold execStdPadRelease
  repeat' (first
    | intro _
    | with_reducible assumption
    | with_reducible apply modPwr_keeps
    | with_reducible apply goes_next
    | with_reducible apply ite_goes
    | with_reducible apply ite_keeps
    | with_reducible apply ite_fst_keeps
    | ((with_reducible show Seq.ok _ = true); assumption)
    | ((with_reducible show Tbl.wf _ _ = true); assumption)
    | ((with_reducible show List.length _ ≤ _); assumption)
    | split
    | dsimp only)

theorem execLsoCorrection_goes {pq : List Instr} {s : State} {ticks : Nat} {corr : Int} (hk : Keeps pq s) :
    Goes pq (execLsoCorrection ticks corr s) := by
  unfold execLsoCorrection
  repeat' (first
    | intro _
    | with_reducible assumption
    | with_reducible apply modPwr_keeps
    | with_reducible apply ticks_keeps
    | with_reducible apply wr_keeps
    | with_reducible apply goes_next
    | with_reducible apply ite_goes
    | with_reducible apply ite_keeps
    | with_reducible apply ite_fst_keeps
    | ((with_reducible show Seq.ok _ = true); assumption)
    | ((with_reducible show Tbl.wf _ _ = true); assumption)
    | ((with_reducible show List.length _ ≤ _); assumption)
    | split
    | dsimp only)

theorem enterNonop_keeps {pq : List Instr} {s : State} {mode : Nat} (hk : Keeps pq s) :
    Keeps pq (enterNonop s mode) := by
  unfold enterNonop
  repeat' (first
    | intro _
    | with_reducible assumption
    | with_reducible apply clr1_keeps
    | with_reducible apply each_keeps
    | with_reducible apply modPan_keeps
    | with_reducible apply modPort_keeps
    | with_reducible apply modPwr_keeps
    | with_reducible apply modStd_keeps
    | with_reducible apply pageProgram_keeps
    | with_reducible apply setPortState_keeps
    | with_reducible apply wake_keeps
    | with_reducible apply wr_keeps
    | with_reducible apply ite_keeps
    | with_reducible apply ite_fst_keeps
    | ((with_reducible show Seq.ok _ = true); assumption)
    | ((with_reducible show Tbl.wf _ _ = true); assumption)
    | ((with_reducible show List.length _ ≤ _); assumption)
    | split
    | dsimp only)

theorem thermalShutdown_keeps {pq : List Instr} {s : State} {k : Nat} (hk : Keeps pq s) :
    Keeps pq (thermalShutdown s k) := by
  unfold thermalShutdown
  repeat' (first
    | intro _
    | with_reducible assumption
    | with_reducible apply afterDump_keeps
    | with_reducible apply goDown_keeps
    | with_reducible apply modPwr_keeps
    | with_reducible apply wake_keeps
    | with_reducible apply ite_keeps
    | with_reducible apply ite_fst_keeps
    | ((with_reducible show Seq.ok _ = true); assumption)
    | ((with_reducible show Tbl.wf _ _ = true); assumption)
    | ((with_reducible show List.length _ ≤ _); assumption)
    | split
    | dsimp only)

theorem execSensorConversion_goes {pq : List Instr} {s : State} {k raw : Nat} {reading : Int} (hk : Keeps pq s) :
    Goes pq (execSensorConversion k raw reading s) := by
  unfold execSensorConversion
  repeat' (first
    | intro _
    | with_reducible assumption
    | with_reducible apply asyncEvent_keeps
    | with_reducible apply each_keeps
    | with_reducible apply modChm_keeps
    | with_reducible apply serveEvents_keeps
    | with_reducible apply thermalShutdown_keeps
    | with_reducible apply wake_keeps
    | with_reducible apply goes_next
    | with_reducible apply ite_goes
    | with_reducible apply ite_keeps
    | with_reducible apply ite_fst_keeps
    | ((with_reducible show Seq.ok _ = true); assumption)
    | ((with_reducible show Tbl.wf _ _ = true); assumption)
    | ((with_reducible show List.length _ ≤ _); assumption)
    | split
    | dsimp only)

theorem stepCheck_keeps {pq : List Instr} {s : State}  (hk : Keeps pq s) :
    Keeps pq (stepCheck s) := by
  unfold stepCheck
  repeat' (first
    | intro _
    | with_reducible assumption
    | with_reducible apply modChm_keeps
    | with_reducible apply raise_keeps
    | with_reducible apply ite_keeps
    | with_reducible apply ite_fst_keeps
    | ((with_reducible show Seq.ok _ = true); assumption)
    | ((with_reducible show Tbl.wf _ _ = true); assumption)
    | ((with_reducible show List.length _ ≤ _); assumption)
    | split
    | dsimp only)

theorem execThermalStepRecompute_goes {pq : List Instr} {s : State}  (hk : Keeps pq s) :
    Goes pq (execThermalStepRecompute s) := by
  unfold execThermalStepRecompute
  repeat' (first
    | intro _
    | with_reducible assumption
    | with_reducible apply modChm_keeps
    | with_reducible apply stepCheck_keeps
    | with_reducible apply foldl_keeps
    | with_reducible apply foldl_fst_keeps
    | with_reducible apply goes_next
    | with_reducible apply ite_goes
    | with_reducible apply ite_keeps
    | with_reducible apply ite_fst_keeps
    | ((with_reducible show Seq.ok _ = true); assumption)
    | ((with_reducible show Tbl.wf _ _ = true); assumption)
    | ((with_reducible show List.length _ ≤ _); assumption)
    | split
    | dsimp only)

theorem execPowerGovernorTick_goes {pq : List Instr} {s : State} {power : Nat} (hk : Keeps pq s) :
    Goes pq (execPowerGovernorTick power s) := by
  unfold execPowerGovernorTick
  repeat' (first
    | intro _
    | with_reducible assumption
    | with_reducible apply modChm_keeps
    | with_reducible apply goes_next
    | with_reducible apply ite_goes
    | with_reducible apply ite_keeps
    | with_reducible apply ite_fst_keeps
    | ((with_reducible show Seq.ok _ = true); assumption)
    | ((with_reducible show Tbl.wf _ _ = true); assumption)
    | ((with_reducible show List.length _ ≤ _); assumption)
    | split
    | dsimp only)

theorem execPortStepRecompute_goes {pq : List Instr} {s : State}  (hk : Keeps pq s) :
    Goes pq (execPortStepRecompute s) := by
  unfold execPortStepRecompute
  repeat' (first
    | intro _
    | with_reducible assumption
    | with_reducible apply each_keeps
    | with_reducible apply modChm_keeps
    | with_reducible apply goes_next
    | with_reducible apply ite_goes
    | with_reducible apply ite_keeps
    | with_reducible apply ite_fst_keeps
    | ((with_reducible show Seq.ok _ = true); assumption)
    | ((with_reducible show Tbl.wf _ _ = true); assumption)
    | ((with_reducible show List.length _ ≤ _); assumption)
    | split
    | dsimp only)

end Sys2Proof.Machine
end

