-- ==== Sys2Proof/Laws/KeepStrongroom.lean ====
section
/-!
SUPPORT. The invariant under the operations and commands of Strongroom: each keeps it and the queue (Keeps); a command answers a next state (Goes).
-/
set_option linter.unusedTactic false
set_option linter.unreachableTactic false
set_option linter.unusedVariables false
namespace Sys2Proof.Machine

theorem grantLock_keeps {pq : List Instr} {s : State}  (hk : Keeps pq s) :
    Keeps pq (grantLock s) := by
  unfold grantLock
  repeat' (first
    | intro _
    | with_reducible assumption
    | with_reducible apply wr_keeps
    | with_reducible apply ite_keeps
    | with_reducible apply ite_fst_keeps
    | ((with_reducible show Seq.ok _ = true); assumption)
    | ((with_reducible show Tbl.wf _ _ = true); assumption)
    | ((with_reducible show List.length _ ≤ _); assumption)
    | split
    | dsimp only)

theorem execStgLockAcquire_goes {pq : List Instr} {s : State} {own : Nat} (hk : Keeps pq s) :
    Goes pq (execStgLockAcquire own s) := by
  unfold execStgLockAcquire
  repeat' (first
    | intro _
    | with_reducible assumption
    | with_reducible apply grantLock_keeps
    | with_reducible apply when_keeps
    | with_reducible apply wr_keeps
    | with_reducible apply goes_next
    | with_reducible apply ite_goes
    | with_reducible apply ite_keeps
    | with_reducible apply ite_fst_keeps
    | ((with_reducible show Seq.ok _ = true); assumption)
    | ((with_reducible show Tbl.wf _ _ = true); assumption)
    | ((with_reducible show List.length _ ≤ _); assumption)
    | split
    | dsimp only)

theorem execStgLockRelease_goes {pq : List Instr} {s : State} {own : Nat} (hk : Keeps pq s) :
    Goes pq (execStgLockRelease own s) := by
  unfold execStgLockRelease
  repeat' (first
    | intro _
    | with_reducible assumption
    | with_reducible apply grantLock_keeps
    | with_reducible apply when_keeps
    | with_reducible apply goes_next
    | with_reducible apply ite_goes
    | with_reducible apply ite_keeps
    | with_reducible apply ite_fst_keeps
    | ((with_reducible show Seq.ok _ = true); assumption)
    | ((with_reducible show Tbl.wf _ _ = true); assumption)
    | ((with_reducible show List.length _ ≤ _); assumption)
    | split
    | dsimp only)

theorem execKmeLockTimeout_goes {pq : List Instr} {s : State}  (hk : Keeps pq s) :
    Goes pq (execKmeLockTimeout s) := by
  unfold execKmeLockTimeout
  repeat' (first
    | intro _
    | with_reducible assumption
    | with_reducible apply clr1_keeps
    | with_reducible apply failSlot_keeps
    | with_reducible apply grantLock_keeps
    | with_reducible apply modStg_keeps
    | with_reducible apply post_keeps
    | with_reducible apply set1_keeps
    | with_reducible apply when_keeps
    | with_reducible apply wr_keeps
    | with_reducible apply goes_next
    | with_reducible apply ite_goes
    | with_reducible apply ite_keeps
    | with_reducible apply ite_fst_keeps
    | ((with_reducible show Seq.ok _ = true); assumption)
    | ((with_reducible show Tbl.wf _ _ = true); assumption)
    | ((with_reducible show List.length _ ≤ _); assumption)
    | split
    | dsimp only)

theorem kmeResult_keeps {pq : List Instr} {s : State} {op r : Nat} (hk : Keeps pq s) :
    Keeps pq (kmeResult s op r) := by
  unfold kmeResult
  repeat' (first
    | intro _
    | with_reducible assumption
    | with_reducible apply wr_keeps
    | with_reducible apply ite_keeps
    | with_reducible apply ite_fst_keeps
    | ((with_reducible show Seq.ok _ = true); assumption)
    | ((with_reducible show Tbl.wf _ _ = true); assumption)
    | ((with_reducible show List.length _ ≤ _); assumption)
    | split
    | dsimp only)

theorem kmeStart_keeps {pq : List Instr} {s : State} {o : KmeOp} {granted : Bool} (hk : Keeps pq s) :
    Keeps pq (kmeStart s o granted) := by
  unfold kmeStart
  repeat' (first
    | intro _
    | with_reducible assumption
    | with_reducible apply kmeResult_keeps
    | with_reducible apply modStg_keeps
    | with_reducible apply set1_keeps
    | with_reducible apply ite_keeps
    | with_reducible apply ite_fst_keeps
    | ((with_reducible show Seq.ok _ = true); assumption)
    | ((with_reducible show Tbl.wf _ _ = true); assumption)
    | ((with_reducible show List.length _ ≤ _); assumption)
    | split
    | dsimp only)

theorem execUnwrapLoad_goes {pq : List Instr} {s : State} {own kind nsid range auth slot cred : Nat} (hk : Keeps pq s) :
    Goes pq (execUnwrapLoad own kind nsid range auth slot cred s) := by
  unfold execUnwrapLoad
  repeat' (first
    | intro _
    | with_reducible assumption
    | with_reducible apply kmeStart_keeps
    | with_reducible apply goes_next
    | with_reducible apply ite_goes
    | with_reducible apply ite_keeps
    | with_reducible apply ite_fst_keeps
    | ((with_reducible show Seq.ok _ = true); assumption)
    | ((with_reducible show Tbl.wf _ _ = true); assumption)
    | ((with_reducible show List.length _ ≤ _); assumption)
    | split
    | dsimp only)

theorem execGenerate_goes {pq : List Instr} {s : State} {own kind nsid range auth slot cred : Nat} (hk : Keeps pq s) :
    Goes pq (execGenerate own kind nsid range auth slot cred s) := by
  unfold execGenerate
  repeat' (first
    | intro _
    | with_reducible assumption
    | with_reducible apply kmeStart_keeps
    | with_reducible apply goes_next
    | with_reducible apply ite_goes
    | with_reducible apply ite_keeps
    | with_reducible apply ite_fst_keeps
    | ((with_reducible show Seq.ok _ = true); assumption)
    | ((with_reducible show Tbl.wf _ _ = true); assumption)
    | ((with_reducible show List.length _ ≤ _); assumption)
    | split
    | dsimp only)

theorem execRewrap_goes {pq : List Instr} {s : State} {own nsid range auth cred newAuth newCred : Nat} (hk : Keeps pq s) :
    Goes pq (execRewrap own nsid range auth cred newAuth newCred s) := by
  unfold execRewrap
  repeat' (first
    | intro _
    | with_reducible assumption
    | with_reducible apply kmeStart_keeps
    | with_reducible apply goes_next
    | with_reducible apply ite_goes
    | with_reducible apply ite_keeps
    | with_reducible apply ite_fst_keeps
    | ((with_reducible show Seq.ok _ = true); assumption)
    | ((with_reducible show Tbl.wf _ _ = true); assumption)
    | ((with_reducible show List.length _ ≤ _); assumption)
    | split
    | dsimp only)

theorem execZeroise_goes {pq : List Instr} {s : State} {own slot : Nat} (hk : Keeps pq s) :
    Goes pq (execZeroise own slot s) := by
  unfold execZeroise
  repeat' (first
    | intro _
    | with_reducible assumption
    | with_reducible apply kmeStart_keeps
    | with_reducible apply goes_next
    | with_reducible apply ite_goes
    | with_reducible apply ite_keeps
    | with_reducible apply ite_fst_keeps
    | ((with_reducible show Seq.ok _ = true); assumption)
    | ((with_reducible show Tbl.wf _ _ = true); assumption)
    | ((with_reducible show List.length _ ≤ _); assumption)
    | split
    | dsimp only)

theorem execEraseStale_goes {pq : List Instr} {s : State} {own : Nat} (hk : Keeps pq s) :
    Goes pq (execEraseStale own s) := by
  unfold execEraseStale
  repeat' (first
    | intro _
    | with_reducible assumption
    | with_reducible apply kmeStart_keeps
    | with_reducible apply goes_next
    | with_reducible apply ite_goes
    | with_reducible apply ite_keeps
    | with_reducible apply ite_fst_keeps
    | ((with_reducible show Seq.ok _ = true); assumption)
    | ((with_reducible show Tbl.wf _ _ = true); assumption)
    | ((with_reducible show List.length _ ≤ _); assumption)
    | split
    | dsimp only)

theorem execSeedReplace_goes {pq : List Instr} {s : State} {own : Nat} (hk : Keeps pq s) :
    Goes pq (execSeedReplace own s) := by
  unfold execSeedReplace
  repeat' (first
    | intro _
    | with_reducible assumption
    | with_reducible apply kmeStart_keeps
    | with_reducible apply goes_next
    | with_reducible apply ite_goes
    | with_reducible apply ite_keeps
    | with_reducible apply ite_fst_keeps
    | ((with_reducible show Seq.ok _ = true); assumption)
    | ((with_reducible show Tbl.wf _ _ = true); assumption)
    | ((with_reducible show List.length _ ≤ _); assumption)
    | split
    | dsimp only)

theorem execVerifyImage_goes {pq : List Instr} {s : State} {own loc : Nat} (hk : Keeps pq s) :
    Goes pq (execVerifyImage own loc s) := by
  unfold execVerifyImage
  repeat' (first
    | intro _
    | with_reducible assumption
    | with_reducible apply kmeStart_keeps
    | with_reducible apply goes_next
    | with_reducible apply ite_goes
    | with_reducible apply ite_keeps
    | with_reducible apply ite_fst_keeps
    | ((with_reducible show Seq.ok _ = true); assumption)
    | ((with_reducible show Tbl.wf _ _ = true); assumption)
    | ((with_reducible show List.length _ ≤ _); assumption)
    | split
    | dsimp only)

theorem execSign_goes {pq : List Instr} {s : State} {own digest key : Nat} (hk : Keeps pq s) :
    Goes pq (execSign own digest key s) := by
  unfold execSign
  repeat' (first
    | intro _
    | with_reducible assumption
    | with_reducible apply kmeStart_keeps
    | with_reducible apply goes_next
    | with_reducible apply ite_goes
    | with_reducible apply ite_keeps
    | with_reducible apply ite_fst_keeps
    | ((with_reducible show Seq.ok _ = true); assumption)
    | ((with_reducible show Tbl.wf _ _ = true); assumption)
    | ((with_reducible show List.length _ ≤ _); assumption)
    | split
    | dsimp only)

theorem execGenNote_goes {pq : List Instr} {s : State} {own nsid gen : Nat} (hk : Keeps pq s) :
    Goes pq (execGenNote own nsid gen s) := by
  unfold execGenNote
  repeat' (first
    | intro _
    | with_reducible assumption
    | with_reducible apply kmeStart_keeps
    | with_reducible apply goes_next
    | with_reducible apply ite_goes
    | with_reducible apply ite_keeps
    | with_reducible apply ite_fst_keeps
    | ((with_reducible show Seq.ok _ = true); assumption)
    | ((with_reducible show Tbl.wf _ _ = true); assumption)
    | ((with_reducible show List.length _ ≤ _); assumption)
    | split
    | dsimp only)

theorem kmeDo_keeps {pq : List Instr} {s : State} {o : KmeOp} {sigOk : Bool} (hk : Keeps pq s) :
    Keeps pq (kmeDo s o sigOk).1 := by
  unfold kmeDo
  repeat' (first
    | intro _
    | with_reducible assumption
    | with_reducible apply emit_keeps
    | with_reducible apply eraseStale_keeps
    | with_reducible apply generateKey_keeps
    | with_reducible apply modKslot_keeps
    | with_reducible apply modStg_keeps
    | with_reducible apply rewrap_keeps
    | with_reducible apply seedReplace_keeps
    | with_reducible apply unwrapLoad_keeps
    | with_reducible refine fst_keeps (by assumption) ?_
    | with_reducible apply ite_keeps
    | with_reducible apply ite_fst_keeps
    | ((with_reducible show Seq.ok _ = true); assumption)
    | ((with_reducible show Tbl.wf _ _ = true); assumption)
    | ((with_reducible show List.length _ ≤ _); assumption)
    | split
    | dsimp only)

theorem execKmeOperationDone_goes {pq : List Instr} {s : State} {sigOk : Bool} (hk : Keeps pq s) :
    Goes pq (execKmeOperationDone sigOk s) := by
  unfold execKmeOperationDone
  repeat' (first
    | intro _
    | with_reducible assumption
    | with_reducible apply clr1_keeps
    | with_reducible apply keysCheck_keeps
    | with_reducible apply keysGone_keeps
    | with_reducible apply kmeDo_keeps
    | with_reducible apply kmeResult_keeps
    | with_reducible apply modStg_keeps
    | with_reducible apply post_keeps
    | with_reducible refine fst_keeps (by assumption) ?_
    | with_reducible apply goes_next
    | with_reducible apply ite_goes
    | with_reducible apply ite_keeps
    | with_reducible apply ite_fst_keeps
    | ((with_reducible show Seq.ok _ = true); assumption)
    | ((with_reducible show Tbl.wf _ _ = true); assumption)
    | ((with_reducible show List.length _ ≤ _); assumption)
    | split
    | dsimp only)

theorem execEntropyHealthFail_goes {pq : List Instr} {s : State}  (hk : Keeps pq s) :
    Goes pq (execEntropyHealthFail s) := by
  unfold execEntropyHealthFail
  repeat' (first
    | intro _
    | with_reducible assumption
    | with_reducible apply set1_keeps
    | with_reducible apply goes_next
    | with_reducible apply ite_goes
    | with_reducible apply ite_keeps
    | with_reducible apply ite_fst_keeps
    | ((with_reducible show Seq.ok _ = true); assumption)
    | ((with_reducible show Tbl.wf _ _ = true); assumption)
    | ((with_reducible show List.length _ ≤ _); assumption)
    | split
    | dsimp only)

theorem execTamperTrip_goes {pq : List Instr} {s : State} {bit : Nat} (hk : Keeps pq s) :
    Goes pq (execTamperTrip bit s) := by
  unfold execTamperTrip
  repeat' (first
    | intro _
    | with_reducible assumption
    | with_reducible apply tamper_keeps
    | with_reducible apply when_keeps
    | with_reducible apply goes_next
    | with_reducible apply ite_goes
    | with_reducible apply ite_keeps
    | with_reducible apply ite_fst_keeps
    | ((with_reducible show Seq.ok _ = true); assumption)
    | ((with_reducible show Tbl.wf _ _ = true); assumption)
    | ((with_reducible show List.length _ ≤ _); assumption)
    | split
    | dsimp only)

theorem execJtagUnlock_goes {pq : List Instr} {s : State} {ok : Bool} (hk : Keeps pq s) :
    Goes pq (execJtagUnlock ok s) := by
  unfold execJtagUnlock
  repeat' (first
    | intro _
    | with_reducible assumption
    | with_reducible apply drbg_keeps
    | with_reducible apply modStg_keeps
    | with_reducible apply tamper_keeps
    | with_reducible apply tick_keeps
    | with_reducible apply goes_next
    | with_reducible apply ite_goes
    | with_reducible apply ite_keeps
    | with_reducible apply ite_fst_keeps
    | ((with_reducible show Seq.ok _ = true); assumption)
    | ((with_reducible show Tbl.wf _ _ = true); assumption)
    | ((with_reducible show List.length _ ≤ _); assumption)
    | split
    | dsimp only)

theorem modSpdm_keeps {pq : List Instr} {s : State} {ep : Nat} {f : SpdmSt → SpdmSt} (hk : Keeps pq s) :
    Keeps pq (State.modSpdm s ep f) := by
  unfold State.modSpdm
  repeat' (first
    | intro _
    | with_reducible assumption
    | with_reducible apply modStg_keeps
    | with_reducible apply ite_keeps
    | with_reducible apply ite_fst_keeps
    | ((with_reducible show Seq.ok _ = true); assumption)
    | ((with_reducible show Tbl.wf _ _ = true); assumption)
    | ((with_reducible show List.length _ ≤ _); assumption)
    | split
    | dsimp only)

theorem spdmAnswer_keeps {pq : List Instr} {s : State} {ep : Nat} {r : SpdmRsp} (hk : Keeps pq s) :
    Keeps pq (spdmAnswer s ep r) := by
  unfold spdmAnswer
  repeat' (first
    | intro _
    | with_reducible assumption
    | with_reducible apply emit_keeps
    | with_reducible apply ite_keeps
    | with_reducible apply ite_fst_keeps
    | ((with_reducible show Seq.ok _ = true); assumption)
    | ((with_reducible show Tbl.wf _ _ = true); assumption)
    | ((with_reducible show List.length _ ≤ _); assumption)
    | split
    | dsimp only)

theorem execGetVersion_goes {pq : List Instr} {s : State} {ep : Nat} (hk : Keeps pq s) :
    Goes pq (execGetVersion ep s) := by
  unfold execGetVersion
  repeat' (first
    | intro _
    | with_reducible assumption
    | with_reducible apply modSpdm_keeps
    | with_reducible apply spdmAnswer_keeps
    | with_reducible apply goes_next
    | with_reducible apply ite_goes
    | with_reducible apply ite_keeps
    | with_reducible apply ite_fst_keeps
    | ((with_reducible show Seq.ok _ = true); assumption)
    | ((with_reducible show Tbl.wf _ _ = true); assumption)
    | ((with_reducible show List.length _ ≤ _); assumption)
    | split
    | dsimp only)

theorem execGetCapabilities_goes {pq : List Instr} {s : State} {ep ver : Nat} (hk : Keeps pq s) :
    Goes pq (execGetCapabilities ep ver s) := by
  unfold execGetCapabilities
  repeat' (first
    | intro _
    | with_reducible assumption
    | with_reducible apply modSpdm_keeps
    | with_reducible apply spdmAnswer_keeps
    | with_reducible apply goes_next
    | with_reducible apply ite_goes
    | with_reducible apply ite_keeps
    | with_reducible apply ite_fst_keeps
    | ((with_reducible show Seq.ok _ = true); assumption)
    | ((with_reducible show Tbl.wf _ _ = true); assumption)
    | ((with_reducible show List.length _ ≤ _); assumption)
    | split
    | dsimp only)

theorem execNegotiateAlgorithms_goes {pq : List Instr} {s : State} {ep : Nat} {p384 sha384 : Bool} (hk : Keeps pq s) :
    Goes pq (execNegotiateAlgorithms ep p384 sha384 s) := by
  unfold execNegotiateAlgorithms
  repeat' (first
    | intro _
    | with_reducible assumption
    | with_reducible apply modSpdm_keeps
    | with_reducible apply spdmAnswer_keeps
    | with_reducible apply when_keeps
    | with_reducible apply goes_next
    | with_reducible apply ite_goes
    | with_reducible apply ite_keeps
    | with_reducible apply ite_fst_keeps
    | ((with_reducible show Seq.ok _ = true); assumption)
    | ((with_reducible show Tbl.wf _ _ = true); assumption)
    | ((with_reducible show List.length _ ≤ _); assumption)
    | split
    | dsimp only)

theorem spdmAfter_keeps {pq : List Instr} {s : State} {ep : Nat} {f : State → State} (hk : Keeps pq s) (h_f : ∀ (a0 : State), Keeps pq a0 → Keeps pq (f a0)) :
    Keeps pq (spdmAfter s ep f) := by
  unfold spdmAfter
  repeat' (first
    | intro _
    | with_reducible assumption
    | with_reducible apply h_f
    | with_reducible apply spdmAnswer_keeps
    | with_reducible apply when_keeps
    | with_reducible apply ite_keeps
    | with_reducible apply ite_fst_keeps
    | ((with_reducible show Seq.ok _ = true); assumption)
    | ((with_reducible show Tbl.wf _ _ = true); assumption)
    | ((with_reducible show List.length _ ≤ _); assumption)
    | split
    | dsimp only)

theorem execGetDigests_goes {pq : List Instr} {s : State} {ep : Nat} (hk : Keeps pq s) :
    Goes pq (execGetDigests ep s) := by
  unfold execGetDigests
  repeat' (first
    | intro _
    | with_reducible assumption
    | with_reducible apply spdmAfter_keeps
    | with_reducible apply spdmAnswer_keeps
    | with_reducible apply goes_next
    | with_reducible apply ite_goes
    | with_reducible apply ite_keeps
    | with_reducible apply ite_fst_keeps
    | ((with_reducible show Seq.ok _ = true); assumption)
    | ((with_reducible show Tbl.wf _ _ = true); assumption)
    | ((with_reducible show List.length _ ≤ _); assumption)
    | split
    | dsimp only)

theorem execGetCertificate_goes {pq : List Instr} {s : State} {ep slot off len : Nat} (hk : Keeps pq s) :
    Goes pq (execGetCertificate ep slot off len s) := by
  unfold execGetCertificate
  repeat' (first
    | intro _
    | with_reducible assumption
    | with_reducible apply spdmAfter_keeps
    | with_reducible apply spdmAnswer_keeps
    | with_reducible apply goes_next
    | with_reducible apply ite_goes
    | with_reducible apply ite_keeps
    | with_reducible apply ite_fst_keeps
    | ((with_reducible show Seq.ok _ = true); assumption)
    | ((with_reducible show Tbl.wf _ _ = true); assumption)
    | ((with_reducible show List.length _ ≤ _); assumption)
    | split
    | dsimp only)

theorem execChallenge_goes {pq : List Instr} {s : State} {ep slot nonce : Nat} (hk : Keeps pq s) :
    Goes pq (execChallenge ep slot nonce s) := by
  unfold execChallenge
  repeat' (first
    | intro _
    | with_reducible assumption
    | with_reducible apply spdmAfter_keeps
    | with_reducible apply spdmAnswer_keeps
    | with_reducible apply goes_next
    | with_reducible apply ite_goes
    | with_reducible apply ite_keeps
    | with_reducible apply ite_fst_keeps
    | ((with_reducible show Seq.ok _ = true); assumption)
    | ((with_reducible show Tbl.wf _ _ = true); assumption)
    | ((with_reducible show List.length _ ≤ _); assumption)
    | split
    | dsimp only)

theorem execGetMeasurements_goes {pq : List Instr} {s : State} {ep index _nonce : Nat} {sign : Bool} (hk : Keeps pq s) :
    Goes pq (execGetMeasurements ep index _nonce sign s) := by
  unfold execGetMeasurements
  repeat' (first
    | intro _
    | with_reducible assumption
    | with_reducible apply modSpdm_keeps
    | with_reducible apply spdmAfter_keeps
    | with_reducible apply spdmAnswer_keeps
    | with_reducible apply goes_next
    | with_reducible apply ite_goes
    | with_reducible apply ite_keeps
    | with_reducible apply ite_fst_keeps
    | ((with_reducible show Seq.ok _ = true); assumption)
    | ((with_reducible show Tbl.wf _ _ = true); assumption)
    | ((with_reducible show List.length _ ≤ _); assumption)
    | split
    | dsimp only)

theorem execChunkGet_goes {pq : List Instr} {s : State} {ep seq : Nat} (hk : Keeps pq s) :
    Goes pq (execChunkGet ep seq s) := by
  unfold execChunkGet
  repeat' (first
    | intro _
    | with_reducible assumption
    | with_reducible apply spdmAfter_keeps
    | with_reducible apply spdmAnswer_keeps
    | with_reducible apply goes_next
    | with_reducible apply ite_goes
    | with_reducible apply ite_keeps
    | with_reducible apply ite_fst_keeps
    | ((with_reducible show Seq.ok _ = true); assumption)
    | ((with_reducible show Tbl.wf _ _ = true); assumption)
    | ((with_reducible show List.length _ ≤ _); assumption)
    | split
    | dsimp only)

end Sys2Proof.Machine
end

