-- ==== Sys2Proof/Laws/KeepCloset.lean ====
section
/-!
SUPPORT. The invariant under the operations and commands of Closet: each keeps it and the queue (Keeps); a command answers a next state (Goes).
-/
set_option linter.unusedTactic false
set_option linter.unreachableTactic false
set_option linter.unusedVariables false
namespace Sys2Proof.Machine

theorem norWrite_keeps {pq : List Instr} {s : State} {a : Nat} {l : List Byte} (hk : Keeps pq s) :
    Keeps pq (norWrite s a l) := by
  unfold norWrite
  repeat' (first
    | intro _
    | with_reducible assumption
    | with_reducible apply each_keeps
    | with_reducible apply modClo_keeps
    | with_reducible apply ite_keeps
    | with_reducible apply ite_fst_keeps
    | ((with_reducible show Seq.ok _ = true); assumption)
    | ((with_reducible show Tbl.wf _ _ = true); assumption)
    | ((with_reducible show List.length _ ≤ _); assumption)
    | with_reducible apply Tbl.wf_setD
    | with_reducible apply Tbl.wf_foldl
    | with_reducible apply Tbl.wf_filter
    | split
    | dsimp only)

theorem norErase_keeps {pq : List Instr} {s : State} {sec : Nat} (hk : Keeps pq s) :
    Keeps pq (norErase s sec) := by
  unfold norErase
  repeat' (first
    | intro _
    | with_reducible assumption
    | with_reducible apply modClo_keeps
    | with_reducible apply ite_keeps
    | with_reducible apply ite_fst_keeps
    | ((with_reducible show Seq.ok _ = true); assumption)
    | ((with_reducible show Tbl.wf _ _ = true); assumption)
    | ((with_reducible show List.length _ ≤ _); assumption)
    | with_reducible apply Tbl.wf_setD
    | with_reducible apply Tbl.wf_foldl
    | with_reducible apply Tbl.wf_filter
    | split
    | dsimp only)

theorem writeSwap_keeps {pq : List Instr} {s : State} {mirror : Bool} {n : Nat} (hk : Keeps pq s) : Keeps pq (writeSwap s mirror n) := by
  unfold writeSwap
  refine modClo_keeps hk fun c hc => ?_
  have h1 := Tbl.wf_filter c.nor 0xFF (fun e => !decide (swapBase mirror ≤ e.1 ∧ e.1 < swapBase mirror + 4 * 65536)) hc
  have h2 := Tbl.wf_foldl 0xFF (List.range (n / 8)) (fun (t : Tbl Byte) i => Tbl.setD t (swapBase mirror + i) 0 0xFF) (fun t b ht => Tbl.wf_setD _ _ _ _ ht) _ h1
  dsimp only
  split
  · exact h2
  · exact Tbl.wf_setD _ _ _ _ h2

theorem completeMarginal_keeps {pq : List Instr} {s : State}  (hk : Keeps pq s) :
    Keeps pq (completeMarginal s) := by
  unfold completeMarginal
  repeat' (first
    | intro _
    | with_reducible assumption
    | with_reducible apply each_keeps
    | with_reducible apply modClo_keeps
    | with_reducible apply ite_keeps
    | with_reducible apply ite_fst_keeps
    | ((with_reducible show Seq.ok _ = true); assumption)
    | ((with_reducible show Tbl.wf _ _ = true); assumption)
    | ((with_reducible show List.length _ ≤ _); assumption)
    | with_reducible apply Tbl.wf_setD
    | with_reducible apply Tbl.wf_foldl
    | with_reducible apply Tbl.wf_filter
    | split
    | dsimp only)

theorem settleSwap_keeps {pq : List Instr} {s : State}  (hk : Keeps pq s) :
    Keeps pq (settleSwap s).1 := by
  unfold settleSwap
  repeat' (first
    | intro _
    | with_reducible assumption
    | with_reducible apply completeMarginal_keeps
    | with_reducible apply writeSwap_keeps
    | with_reducible apply ite_keeps
    | with_reducible apply ite_fst_keeps
    | ((with_reducible show Seq.ok _ = true); assumption)
    | ((with_reducible show Tbl.wf _ _ = true); assumption)
    | ((with_reducible show List.length _ ≤ _); assumption)
    | split
    | dsimp only)

theorem addAttempt_keeps {pq : List Instr} {s : State} {b : Bool} (hk : Keeps pq s) :
    Keeps pq (addAttempt s b) := by
  unfold addAttempt
  repeat' (first
    | intro _
    | with_reducible assumption
    | with_reducible apply norWrite_keeps
    | with_reducible apply ite_keeps
    | with_reducible apply ite_fst_keeps
    | ((with_reducible show Seq.ok _ = true); assumption)
    | ((with_reducible show Tbl.wf _ _ = true); assumption)
    | ((with_reducible show List.length _ ≤ _); assumption)
    | split
    | dsimp only)

theorem writeTwin_keeps {pq : List Instr} {s : State} {n : Nat} {r : BootRec} {born : Bool} (hk : Keeps pq s) :
    Keeps pq (writeTwin s n r born) := by
  unfold writeTwin
  repeat' (first
    | intro _
    | with_reducible assumption
    | with_reducible apply each_keeps
    | with_reducible apply norErase_keeps
    | with_reducible apply norWrite_keeps
    | with_reducible apply ite_keeps
    | with_reducible apply ite_fst_keeps
    | ((with_reducible show Seq.ok _ = true); assumption)
    | ((with_reducible show Tbl.wf _ _ = true); assumption)
    | ((with_reducible show List.length _ ≤ _); assumption)
    | split
    | dsimp only)

theorem loadBytes_keeps {pq : List Instr} {s : State} {n a : Nat} {l : List Byte} (hk : Keeps pq s) :
    Keeps pq (loadBytes s n a l) := by
  unfold loadBytes
  repeat' (first
    | intro _
    | with_reducible assumption
    | with_reducible apply modSeq_keeps
    | with_reducible apply foldl_keeps
    | with_reducible apply foldl_fst_keeps
    | with_reducible apply setReg_ok
    | with_reducible apply refill_ok
    | with_reducible apply deliver_ok
    | with_reducible apply ite_keeps
    | with_reducible apply ite_fst_keeps
    | ((with_reducible show Seq.ok _ = true); assumption)
    | ((with_reducible show Tbl.wf _ _ = true); assumption)
    | ((with_reducible show List.length _ ≤ _); assumption)
    | refine ok_mem (by assumption) (by first | exact Or.inl rfl | exact Or.inr rfl) (by rfl) ?_ ?_
    | with_reducible apply Tbl.wf_writeBytes
    | with_reducible apply Tbl.wf_setD
    | with_reducible apply Tbl.wf_filter
    | with_reducible apply Tbl.wf_foldl
    | exact Tbl.wf_nil _
    | split
    | dsimp only)

theorem startSupervisor_keeps {pq : List Instr} {s : State} {x : Image} (hk : Keeps pq s) :
    Keeps pq (startSupervisor s x) := by
  unfold startSupervisor
  repeat' (first
    | intro _
    | with_reducible assumption
    | with_reducible apply loadBytes_keeps
    | with_reducible apply modSeq_keeps
    | with_reducible apply modStd_keeps
    | with_reducible apply setReg_ok
    | with_reducible apply refill_ok
    | with_reducible apply deliver_ok
    | with_reducible apply ite_keeps
    | with_reducible apply ite_fst_keeps
    | ((with_reducible show Seq.ok _ = true); assumption)
    | ((with_reducible show Tbl.wf _ _ = true); assumption)
    | ((with_reducible show List.length _ ≤ _); assumption)
    | refine ok_mem (by assumption) (by first | exact Or.inl rfl | exact Or.inr rfl) (by rfl) ?_ ?_
    | with_reducible apply Tbl.wf_writeBytes
    | with_reducible apply Tbl.wf_setD
    | with_reducible apply Tbl.wf_filter
    | with_reducible apply Tbl.wf_foldl
    | exact Tbl.wf_nil _
    | split
    | dsimp only)

theorem startSlot_keeps {pq : List Instr} {s : State} {k : Nat} {conf : Bool} (hk : Keeps pq s) :
    Keeps pq (startSlot s k conf) := by
  unfold startSlot
  repeat' (first
    | intro _
    | with_reducible assumption
    | with_reducible apply each_keeps
    | with_reducible apply modAtc_keeps
    | with_reducible apply modClo_keeps
    | with_reducible apply modPorch_keeps
    | with_reducible apply modPwr_keeps
    | with_reducible apply modScu_keeps
    | with_reducible apply modStg_keeps
    | with_reducible apply seedLoad_keeps
    | with_reducible apply set1_keeps
    | with_reducible apply startSupervisor_keeps
    | with_reducible apply wr_keeps
    | with_reducible apply foldl_keeps
    | with_reducible apply foldl_fst_keeps
    | with_reducible apply ite_keeps
    | with_reducible apply ite_fst_keeps
    | ((with_reducible show Seq.ok _ = true); assumption)
    | ((with_reducible show Tbl.wf _ _ = true); assumption)
    | ((with_reducible show List.length _ ≤ _); assumption)
    | ((with_reducible show List.length [] ≤ _); exact Nat.zero_le _)
    | split
    | dsimp only)

theorem recoveryIdentity_keeps {pq : List Instr} {s : State}  (hk : Keeps pq s) :
    Keeps pq (recoveryIdentity s) := by
  unfold recoveryIdentity
  repeat' (first
    | intro _
    | with_reducible assumption
    | with_reducible apply modClo_keeps
    | with_reducible apply modPorch_keeps
    | with_reducible apply modPwr_keeps
    | with_reducible apply set1_keeps
    | with_reducible apply wr_keeps
    | with_reducible apply ite_keeps
    | with_reducible apply ite_fst_keeps
    | ((with_reducible show Seq.ok _ = true); assumption)
    | ((with_reducible show Tbl.wf _ _ = true); assumption)
    | ((with_reducible show List.length _ ≤ _); assumption)
    | split
    | dsimp only)

theorem noteRevert_keeps {pq : List Instr} {s : State} {rej : Option Nat} {started : Nat} (hk : Keeps pq s) :
    Keeps pq (noteRevert s rej started) := by
  unfold noteRevert
  repeat' (first
    | intro _
    | with_reducible assumption
    | with_reducible apply post_keeps
    | with_reducible apply ite_keeps
    | with_reducible apply ite_fst_keeps
    | ((with_reducible show Seq.ok _ = true); assumption)
    | ((with_reducible show Tbl.wf _ _ = true); assumption)
    | ((with_reducible show List.length _ ≤ _); assumption)
    | split
    | dsimp only)

theorem bootFallback_keeps {pq : List Instr} {s : State} {r : BootRec} {x : Option (Nat × Option Nat)} (hk : Keeps pq s) :
    Keeps pq (bootFallback s r x) := by
  cases x with
  | none => exact noteRevert_keeps (recoveryIdentity_keeps hk)
  | some e => exact noteRevert_keeps (startSlot_keeps hk)

theorem bootPick_keeps {pq : List Instr} {s : State} {again : State → Nat → Option Nat → State} {n : Nat} {rej : Option Nat} {b : Bool} {r : BootRec}
    {x : Option (Nat × Option Nat)} (hk : Keeps pq s) (ha : ∀ a b c, Keeps pq a → Keeps pq (again a b c)) : Keeps pq (bootPick again s n rej b r x) := by
  cases x with
  | none => exact noteRevert_keeps (recoveryIdentity_keeps hk)
  | some e =>
    obtain ⟨k, d⟩ := e
    unfold bootPick
    refine ite_keeps (ite_keeps (ite_keeps ?_ (bootFallback_keeps hk)) ?_) ?_
    · exact ha _ _ _ (writeSwap_keeps (writeSwap_keeps (writeTwin_keeps hk)))
    · exact noteRevert_keeps (startSlot_keeps (addAttempt_keeps hk))
    · exact noteRevert_keeps (startSlot_keeps hk)

theorem bootWith_keeps {pq : List Instr} {s : State} {again : State → Nat → Option Nat → State} {n : Nat} {rej : Option Nat} {x : Option (Bool × BootRec)}
    (hk : Keeps pq s) (ha : ∀ a b c, Keeps pq a → Keeps pq (again a b c)) : Keeps pq (bootWith again s n rej x) := by
  cases x with
  | none => exact ite_keeps (noteRevert_keeps (startSlot_keeps hk)) (recoveryIdentity_keeps hk)
  | some e =>
    obtain ⟨b, r⟩ := e
    exact bootPick_keeps hk ha

theorem bootChoose_keeps {pq : List Instr} (k : Nat) : ∀ {s : State} {n : Nat} {rej : Option Nat}, Keeps pq s → Keeps pq (bootChoose k s n rej) := by
  induction k with
  | zero =>
    intro s n rej hk
    exact recoveryIdentity_keeps hk
  | succ k ih =>
    intro s n rej hk
    exact bootWith_keeps hk fun _ _ _ h => ih h

theorem execBootSlotChoice_goes {pq : List Instr} {s : State}  (hk : Keeps pq s) :
    Goes pq (execBootSlotChoice s) := by
  unfold execBootSlotChoice
  repeat' (first
    | intro _
    | with_reducible assumption
    | with_reducible apply bootChoose_keeps
    | with_reducible apply settleSwap_keeps
    | with_reducible refine fst_keeps (by assumption) ?_
    | with_reducible apply goes_next
    | with_reducible apply ite_goes
    | with_reducible apply ite_keeps
    | with_reducible apply ite_fst_keeps
    | ((with_reducible show Seq.ok _ = true); assumption)
    | ((with_reducible show Tbl.wf _ _ = true); assumption)
    | ((with_reducible show List.length _ ≤ _); assumption)
    | split
    | dsimp only)

theorem cloReport_keeps {pq : List Instr} {s : State} {kind res : Nat} (hk : Keeps pq s) :
    Keeps pq (cloReport s kind res) := by
  unfold cloReport
  repeat' (first
    | intro _
    | with_reducible assumption
    | with_reducible apply raise_keeps
    | with_reducible apply set1_keeps
    | with_reducible apply wr_keeps
    | with_reducible apply ite_keeps
    | with_reducible apply ite_fst_keeps
    | ((with_reducible show Seq.ok _ = true); assumption)
    | ((with_reducible show Tbl.wf _ _ = true); assumption)
    | ((with_reducible show List.length _ ≤ _); assumption)
    | split
    | dsimp only)

theorem cloRequest_keeps {pq : List Instr} {s : State} {kind : Nat} (hk : Keeps pq s) :
    Keeps pq (cloRequest s kind) := by
  unfold cloRequest
  repeat' (first
    | intro _
    | with_reducible assumption
    | with_reducible apply cloReport_keeps
    | with_reducible apply modClo_keeps
    | with_reducible apply wr_keeps
    | with_reducible apply ite_keeps
    | with_reducible apply ite_fst_keeps
    | ((with_reducible show Seq.ok _ = true); assumption)
    | ((with_reducible show Tbl.wf _ _ = true); assumption)
    | ((with_reducible show List.length _ ≤ _); assumption)
    | split
    | dsimp only)

theorem execClosetProgram_goes {pq : List Instr} {s : State}  (hk : Keeps pq s) :
    Goes pq (execClosetProgram s) := by
  unfold execClosetProgram
  repeat' (first
    | intro _
    | with_reducible assumption
    | with_reducible apply cloRequest_keeps
    | with_reducible apply goes_next
    | with_reducible apply ite_goes
    | with_reducible apply ite_keeps
    | with_reducible apply ite_fst_keeps
    | ((with_reducible show Seq.ok _ = true); assumption)
    | ((with_reducible show Tbl.wf _ _ = true); assumption)
    | ((with_reducible show List.length _ ≤ _); assumption)
    | split
    | dsimp only)

theorem execClosetErase_goes {pq : List Instr} {s : State}  (hk : Keeps pq s) :
    Goes pq (execClosetErase s) := by
  unfold execClosetErase
  repeat' (first
    | intro _
    | with_reducible assumption
    | with_reducible apply cloRequest_keeps
    | with_reducible apply goes_next
    | with_reducible apply ite_goes
    | with_reducible apply ite_keeps
    | with_reducible apply ite_fst_keeps
    | ((with_reducible show Seq.ok _ = true); assumption)
    | ((with_reducible show Tbl.wf _ _ = true); assumption)
    | ((with_reducible show List.length _ ≤ _); assumption)
    | split
    | dsimp only)

theorem execClosetMarginRead_goes {pq : List Instr} {s : State}  (hk : Keeps pq s) :
    Goes pq (execClosetMarginRead s) := by
  unfold execClosetMarginRead
  repeat' (first
    | intro _
    | with_reducible assumption
    | with_reducible apply cloRequest_keeps
    | with_reducible apply goes_next
    | with_reducible apply ite_goes
    | with_reducible apply ite_keeps
    | with_reducible apply ite_fst_keeps
    | ((with_reducible show Seq.ok _ = true); assumption)
    | ((with_reducible show Tbl.wf _ _ = true); assumption)
    | ((with_reducible show List.length _ ≤ _); assumption)
    | split
    | dsimp only)

theorem execCloWpSet_goes {pq : List Instr} {s : State} {k : Nat} {v : U64} (hk : Keeps pq s) :
    Goes pq (execCloWpSet k v s) := by
  unfold execCloWpSet
  repeat' (first
    | intro _
    | with_reducible assumption
    | with_reducible apply wr_keeps
    | with_reducible apply goes_next
    | with_reducible apply ite_goes
    | with_reducible apply ite_keeps
    | with_reducible apply ite_fst_keeps
    | ((with_reducible show Seq.ok _ = true); assumption)
    | ((with_reducible show Tbl.wf _ _ = true); assumption)
    | ((with_reducible show List.length _ ≤ _); assumption)
    | split
    | dsimp only)

theorem execFirmwareImageDownload_goes {pq : List Instr} {s : State} {n : Nat} (hk : Keeps pq s) :
    Goes pq (execFirmwareImageDownload n s) := by
  unfold execFirmwareImageDownload
  repeat' (first
    | intro _
    | with_reducible assumption
    | with_reducible apply finish_keeps
    | with_reducible apply finishOk_keeps
    | with_reducible apply modNvm_keeps
    | with_reducible apply goes_next
    | with_reducible apply ite_goes
    | with_reducible apply ite_keeps
    | with_reducible apply ite_fst_keeps
    | ((with_reducible show Seq.ok _ = true); assumption)
    | ((with_reducible show Tbl.wf _ _ = true); assumption)
    | ((with_reducible show List.length _ ≤ _); assumption)
    | split
    | dsimp only)

theorem jobOp_keeps {pq : List Instr} {s : State} {j : FwJob} (hk : Keeps pq s) :
    Keeps pq (jobOp s j) := by
  unfold jobOp
  repeat' (first
    | intro _
    | with_reducible assumption
    | with_reducible apply modClo_keeps
    | with_reducible apply ite_keeps
    | with_reducible apply ite_fst_keeps
    | ((with_reducible show Seq.ok _ = true); assumption)
    | ((with_reducible show Tbl.wf _ _ = true); assumption)
    | ((with_reducible show List.length _ ≤ _); assumption)
    | split
    | dsimp only)

theorem jobEnd_keeps {pq : List Instr} {s : State} {j : FwJob} {sct sc : Nat} (hk : Keeps pq s) :
    Keeps pq (jobEnd s j sct sc) := by
  unfold jobEnd
  repeat' (first
    | intro _
    | with_reducible assumption
    | with_reducible apply finish_keeps
    | with_reducible apply modClo_keeps
    | with_reducible apply tellManager_keeps
    | with_reducible apply ite_keeps
    | with_reducible apply ite_fst_keeps
    | ((with_reducible show Seq.ok _ = true); assumption)
    | ((with_reducible show Tbl.wf _ _ = true); assumption)
    | ((with_reducible show List.length _ ≤ _); assumption)
    | split
    | dsimp only)

theorem startSwap_keeps {pq : List Instr} {s : State} {j : FwJob} (hk : Keeps pq s) :
    Keeps pq (startSwap s j) := by
  unfold startSwap
  repeat' (first
    | intro _
    | with_reducible assumption
    | with_reducible apply jobEnd_keeps
    | with_reducible apply jobOp_keeps
    | with_reducible apply ite_keeps
    | with_reducible apply ite_fst_keeps
    | ((with_reducible show Seq.ok _ = true); assumption)
    | ((with_reducible show Tbl.wf _ _ = true); assumption)
    | ((with_reducible show List.length _ ≤ _); assumption)
    | split
    | dsimp only)

theorem fwCommit_keeps {pq : List Instr} {s : State} {n action : Nat} (hk : Keeps pq s) :
    Keeps pq (fwCommit s n action) := by
  unfold fwCommit
  repeat' (first
    | intro _
    | with_reducible assumption
    | with_reducible apply finish_keeps
    | with_reducible apply finishOk_keeps
    | with_reducible apply jobOp_keeps
    | with_reducible apply modCtx_keeps
    | with_reducible apply startSwap_keeps
    | with_reducible apply ite_keeps
    | with_reducible apply ite_fst_keeps
    | ((with_reducible show Seq.ok _ = true); assumption)
    | ((with_reducible show Tbl.wf _ _ = true); assumption)
    | ((with_reducible show List.length _ ≤ _); assumption)
    | split
    | dsimp only)

theorem execFwCommitReplace_goes {pq : List Instr} {s : State} {n : Nat} (hk : Keeps pq s) :
    Goes pq (execFwCommitReplace n s) := by
  unfold execFwCommitReplace
  repeat' (first
    | intro _
    | with_reducible assumption
    | with_reducible apply fwCommit_keeps
    | with_reducible apply goes_next
    | with_reducible apply ite_goes
    | with_reducible apply ite_keeps
    | with_reducible apply ite_fst_keeps
    | ((with_reducible show Seq.ok _ = true); assumption)
    | ((with_reducible show Tbl.wf _ _ = true); assumption)
    | ((with_reducible show List.length _ ≤ _); assumption)
    | split
    | dsimp only)

theorem execFwCommitReplaceActivateReset_goes {pq : List Instr} {s : State} {n : Nat} (hk : Keeps pq s) :
    Goes pq (execFwCommitReplaceActivateReset n s) := by
  unfold execFwCommitReplaceActivateReset
  repeat' (first
    | intro _
    | with_reducible assumption
    | with_reducible apply fwCommit_keeps
    | with_reducible apply goes_next
    | with_reducible apply ite_goes
    | with_reducible apply ite_keeps
    | with_reducible apply ite_fst_keeps
    | ((with_reducible show Seq.ok _ = true); assumption)
    | ((with_reducible show Tbl.wf _ _ = true); assumption)
    | ((with_reducible show List.length _ ≤ _); assumption)
    | split
    | dsimp only)

theorem execFwCommitActivateExisting_goes {pq : List Instr} {s : State} {n : Nat} (hk : Keeps pq s) :
    Goes pq (execFwCommitActivateExisting n s) := by
  unfold execFwCommitActivateExisting
  repeat' (first
    | intro _
    | with_reducible assumption
    | with_reducible apply fwCommit_keeps
    | with_reducible apply goes_next
    | with_reducible apply ite_goes
    | with_reducible apply ite_keeps
    | with_reducible apply ite_fst_keeps
    | ((with_reducible show Seq.ok _ = true); assumption)
    | ((with_reducible show Tbl.wf _ _ = true); assumption)
    | ((with_reducible show List.length _ ≤ _); assumption)
    | split
    | dsimp only)

theorem execFwCommitActivateNow_goes {pq : List Instr} {s : State} {n : Nat} (hk : Keeps pq s) :
    Goes pq (execFwCommitActivateNow n s) := by
  unfold execFwCommitActivateNow
  repeat' (first
    | intro _
    | with_reducible assumption
    | with_reducible apply fwCommit_keeps
    | with_reducible apply goes_next
    | with_reducible apply ite_goes
    | with_reducible apply ite_keeps
    | with_reducible apply ite_fst_keeps
    | ((with_reducible show Seq.ok _ = true); assumption)
    | ((with_reducible show Tbl.wf _ _ = true); assumption)
    | ((with_reducible show List.length _ ≤ _); assumption)
    | split
    | dsimp only)

theorem activationNotice_keeps {pq : List Instr} {s : State}  (hk : Keeps pq s) :
    Keeps pq (activationNotice s) := by
  unfold activationNotice
  repeat' (first
    | intro _
    | with_reducible assumption
    | with_reducible apply asyncEvent_keeps
    | with_reducible apply each_keeps
    | with_reducible apply serveEvents_keeps
    | with_reducible apply ite_keeps
    | with_reducible apply ite_fst_keeps
    | ((with_reducible show Seq.ok _ = true); assumption)
    | ((with_reducible show Tbl.wf _ _ = true); assumption)
    | ((with_reducible show List.length _ ≤ _); assumption)
    | split
    | dsimp only)

theorem jobSwapped_keeps {pq : List Instr} {s : State} {j : FwJob} (hk : Keeps pq s) :
    Keeps pq (jobSwapped s j) := by
  unfold jobSwapped
  repeat' (first
    | intro _
    | with_reducible assumption
    | with_reducible apply activationNotice_keeps
    | with_reducible apply jobEnd_keeps
    | with_reducible apply modClo_keeps
    | with_reducible apply modHall_keeps
    | with_reducible apply set1_keeps
    | with_reducible apply ite_keeps
    | with_reducible apply ite_fst_keeps
    | ((with_reducible show Seq.ok _ = true); assumption)
    | ((with_reducible show Tbl.wf _ _ = true); assumption)
    | ((with_reducible show List.length _ ≤ _); assumption)
    | split
    | dsimp only)

theorem leafFailed_keeps {pq : List Instr} {s : State} {j : FwJob} {sec : Nat} (hk : Keeps pq s) :
    Keeps pq (leafFailed s j sec) := by
  unfold leafFailed
  repeat' (first
    | intro _
    | with_reducible assumption
    | with_reducible apply jobEnd_keeps
    | with_reducible apply modClo_keeps
    | with_reducible apply post_keeps
    | with_reducible apply ite_keeps
    | with_reducible apply ite_fst_keeps
    | ((with_reducible show Seq.ok _ = true); assumption)
    | ((with_reducible show Tbl.wf _ _ = true); assumption)
    | ((with_reducible show List.length _ ≤ _); assumption)
    | split
    | dsimp only)

theorem jobStep_keeps {pq : List Instr} {s : State} {j : FwJob} {ok : Bool} (hk : Keeps pq s) :
    Keeps pq (jobStep s j ok) := by
  unfold jobStep
  repeat' (first
    | intro _
    | with_reducible assumption
    | with_reducible apply jobEnd_keeps
    | with_reducible apply jobOp_keeps
    | with_reducible apply jobSwapped_keeps
    | with_reducible apply leafFailed_keeps
    | with_reducible apply modClo_keeps
    | with_reducible apply startSwap_keeps
    | with_reducible apply writeSwap_keeps
    | with_reducible apply writeTwin_keeps
    | with_reducible apply foldl_keeps
    | with_reducible apply foldl_fst_keeps
    | with_reducible apply ite_keeps
    | with_reducible apply ite_fst_keeps
    | ((with_reducible show Seq.ok _ = true); assumption)
    | ((with_reducible show Tbl.wf _ _ = true); assumption)
    | ((with_reducible show List.length _ ≤ _); assumption)
    | split
    | dsimp only)

theorem startConfirm_keeps {pq : List Instr} {s : State}  (hk : Keeps pq s) :
    Keeps pq (startConfirm s) := by
  unfold startConfirm
  repeat' (first
    | intro _
    | with_reducible assumption
    | with_reducible apply modClo_keeps
    | with_reducible apply ite_keeps
    | with_reducible apply ite_fst_keeps
    | ((with_reducible show Seq.ok _ = true); assumption)
    | ((with_reducible show Tbl.wf _ _ = true); assumption)
    | ((with_reducible show List.length _ ≤ _); assumption)
    | split
    | dsimp only)

theorem startImage_keeps {pq : List Instr} {s : State}  (hk : Keeps pq s) :
    Keeps pq (startImage s) := by
  unfold startImage
  repeat' (first
    | intro _
    | with_reducible assumption
    | with_reducible apply jobOp_keeps
    | with_reducible apply modSta_keeps
    | with_reducible apply tellManager_keeps
    | with_reducible apply ite_keeps
    | with_reducible apply ite_fst_keeps
    | ((with_reducible show Seq.ok _ = true); assumption)
    | ((with_reducible show Tbl.wf _ _ = true); assumption)
    | ((with_reducible show List.length _ ≤ _); assumption)
    | split
    | dsimp only)

theorem stairActivate_keeps {pq : List Instr} {s : State}  (hk : Keeps pq s) :
    Keeps pq (stairActivate s) := by
  unfold stairActivate
  repeat' (first
    | intro _
    | with_reducible assumption
    | with_reducible apply modHall_keeps
    | with_reducible apply set1_keeps
    | with_reducible apply ite_keeps
    | with_reducible apply ite_fst_keeps
    | ((with_reducible show Seq.ok _ = true); assumption)
    | ((with_reducible show Tbl.wf _ _ = true); assumption)
    | ((with_reducible show List.length _ ≤ _); assumption)
    | split
    | dsimp only)

theorem rollbackTo_keeps {pq : List Instr} {s : State} {x : Option (Bool × BootRec)} (hk : Keeps pq s) : Keeps pq (rollbackTo s x) := by
  cases x with
  | none => exact hk
  | some e => exact ite_keeps hk (startSwap_keeps hk)

theorem stairRollback_keeps {pq : List Instr} {s : State}  (hk : Keeps pq s) :
    Keeps pq (stairRollback s) := by
  unfold stairRollback
  repeat' (first
    | intro _
    | with_reducible assumption
    | with_reducible apply rollbackTo_keeps
    | with_reducible apply ite_keeps
    | with_reducible apply ite_fst_keeps
    | ((with_reducible show Seq.ok _ = true); assumption)
    | ((with_reducible show Tbl.wf _ _ = true); assumption)
    | ((with_reducible show List.length _ ≤ _); assumption)
    | split
    | dsimp only)

theorem execStdConfirm_goes {pq : List Instr} {s : State} {v : U64} (hk : Keeps pq s) :
    Goes pq (execStdConfirm v s) := by
  unfold execStdConfirm
  repeat' (first
    | intro _
    | with_reducible assumption
    | with_reducible apply modClo_keeps
    | with_reducible apply startConfirm_keeps
    | with_reducible apply goes_next
    | with_reducible apply ite_goes
    | with_reducible apply ite_keeps
    | with_reducible apply ite_fst_keeps
    | ((with_reducible show Seq.ok _ = true); assumption)
    | ((with_reducible show Tbl.wf _ _ = true); assumption)
    | ((with_reducible show List.length _ ≤ _); assumption)
    | split
    | dsimp only)

theorem execConfirmationTimeout_goes {pq : List Instr} {s : State}  (hk : Keeps pq s) :
    Goes pq (execConfirmationTimeout s) := by
  unfold execConfirmationTimeout
  repeat' (first
    | intro _
    | with_reducible assumption
    | with_reducible apply watchdogReset_keeps
    | with_reducible apply goes_next
    | with_reducible apply ite_goes
    | with_reducible apply ite_keeps
    | with_reducible apply ite_fst_keeps
    | ((with_reducible show Seq.ok _ = true); assumption)
    | ((with_reducible show Tbl.wf _ _ = true); assumption)
    | ((with_reducible show List.length _ ≤ _); assumption)
    | split
    | dsimp only)

theorem programFails_keeps {pq : List Instr} {s : State} {o : CloOp} (hk : Keeps pq s) :
    Keeps pq (programFails s o) := by
  unfold programFails
  repeat' (first
    | intro _
    | with_reducible assumption
    | with_reducible apply each_keeps
    | with_reducible apply modClo_keeps
    | with_reducible apply tick_keeps
    | with_reducible apply ite_keeps
    | with_reducible apply ite_fst_keeps
    | ((with_reducible show Seq.ok _ = true); assumption)
    | ((with_reducible show Tbl.wf _ _ = true); assumption)
    | ((with_reducible show List.length _ ≤ _); assumption)
    | with_reducible apply Tbl.wf_setD
    | with_reducible apply Tbl.wf_foldl
    | with_reducible apply Tbl.wf_filter
    | split
    | dsimp only)

theorem confParse_keeps {pq : List Instr} {s : State} {a : Nat} (hk : Keeps pq s) :
    Keeps pq (confParse s a) := by
  unfold confParse
  repeat' (first
    | intro _
    | with_reducible assumption
    | with_reducible apply modClo_keeps
    | with_reducible apply foldl_keeps
    | with_reducible apply foldl_fst_keeps
    | with_reducible apply ite_keeps
    | with_reducible apply ite_fst_keeps
    | ((with_reducible show Seq.ok _ = true); assumption)
    | ((with_reducible show Tbl.wf _ _ = true); assumption)
    | ((with_reducible show List.length _ ≤ _); assumption)
    | split
    | dsimp only)

theorem execClosetOperationDone_goes {pq : List Instr} {s : State} {pulses : Nat} {ok : Bool} (hk : Keeps pq s) :
    Goes pq (execClosetOperationDone pulses ok s) := by
  unfold execClosetOperationDone
  repeat' (first
    | intro _
    | with_reducible assumption
    | with_reducible apply cloReport_keeps
    | with_reducible apply confParse_keeps
    | with_reducible apply each_keeps
    | with_reducible apply jobStep_keeps
    | with_reducible apply modClo_keeps
    | with_reducible apply norErase_keeps
    | with_reducible apply norUndefined_keeps
    | with_reducible apply norWrite_keeps
    | with_reducible apply programFails_keeps
    | with_reducible apply set1_keeps
    | with_reducible apply startConfirm_keeps
    | with_reducible apply startImage_keeps
    | with_reducible apply wr_keeps
    | with_reducible apply foldl_keeps
    | with_reducible apply foldl_fst_keeps
    | with_reducible apply goes_next
    | with_reducible apply ite_goes
    | with_reducible apply ite_keeps
    | with_reducible apply ite_fst_keeps
    | ((with_reducible show Seq.ok _ = true); assumption)
    | ((with_reducible show Tbl.wf _ _ = true); assumption)
    | ((with_reducible show List.length _ ≤ _); assumption)
    | split
    | dsimp only)

theorem reloadPort_keeps {pq : List Instr} {s : State} {x : Image} {n : Nat} (hk : Keeps pq s) :
    Keeps pq (reloadPort s x n) := by
  unfold reloadPort
  repeat' (first
    | intro _
    | with_reducible assumption
    | with_reducible apply loadBytes_keeps
    | with_reducible apply modSeq_keeps
    | with_reducible apply post_keeps
    | with_reducible apply retirePort_keeps
    | with_reducible apply wr_keeps
    | with_reducible apply setReg_ok
    | with_reducible apply refill_ok
    | with_reducible apply deliver_ok
    | with_reducible apply ite_keeps
    | with_reducible apply ite_fst_keeps
    | ((with_reducible show Seq.ok _ = true); assumption)
    | ((with_reducible show Tbl.wf _ _ = true); assumption)
    | ((with_reducible show List.length _ ≤ _); assumption)
    | refine ok_mem (by assumption) (by first | exact Or.inl rfl | exact Or.inr rfl) (by rfl) ?_ ?_
    | with_reducible apply Tbl.wf_writeBytes
    | with_reducible apply Tbl.wf_setD
    | with_reducible apply Tbl.wf_filter
    | with_reducible apply Tbl.wf_foldl
    | exact Tbl.wf_nil _
    | split
    | dsimp only)

theorem stairChanged_keeps {pq : List Instr} {s : State}  (hk : Keeps pq s) :
    Keeps pq (stairChanged s) := by
  unfold stairChanged
  repeat' (first
    | intro _
    | with_reducible assumption
    | with_reducible apply tellManager_keeps
    | with_reducible apply ite_keeps
    | with_reducible apply ite_fst_keeps
    | ((with_reducible show Seq.ok _ = true); assumption)
    | ((with_reducible show Tbl.wf _ _ = true); assumption)
    | ((with_reducible show List.length _ ≤ _); assumption)
    | split
    | dsimp only)

theorem execActivationDrainComplete_goes {pq : List Instr} {s : State}  (hk : Keeps pq s) :
    Goes pq (execActivationDrainComplete s) := by
  unfold execActivationDrainComplete
  repeat' (first
    | intro _
    | with_reducible assumption
    | with_reducible apply addAttempt_keeps
    | with_reducible apply clr1_keeps
    | with_reducible apply each_keeps
    | with_reducible apply finishOk_keeps
    | with_reducible apply modClo_keeps
    | with_reducible apply modHall_keeps
    | with_reducible apply modScu_keeps
    | with_reducible apply reloadPort_keeps
    | with_reducible apply set1_keeps
    | with_reducible apply stairChanged_keeps
    | with_reducible apply startSupervisor_keeps
    | with_reducible apply goes_next
    | with_reducible apply ite_goes
    | with_reducible apply ite_keeps
    | with_reducible apply ite_fst_keeps
    | ((with_reducible show Seq.ok _ = true); assumption)
    | ((with_reducible show Tbl.wf _ _ = true); assumption)
    | ((with_reducible show List.length _ ≤ _); assumption)
    | split
    | dsimp only)

theorem execActivationDrainTimeout_goes {pq : List Instr} {s : State}  (hk : Keeps pq s) :
    Goes pq (execActivationDrainTimeout s) := by
  unfold execActivationDrainTimeout
  repeat' (first
    | intro _
    | with_reducible assumption
    | with_reducible apply clr1_keeps
    | with_reducible apply finish_keeps
    | with_reducible apply modHall_keeps
    | with_reducible apply set1_keeps
    | with_reducible apply goes_next
    | with_reducible apply ite_goes
    | with_reducible apply ite_keeps
    | with_reducible apply ite_fst_keeps
    | ((with_reducible show Seq.ok _ = true); assumption)
    | ((with_reducible show Tbl.wf _ _ = true); assumption)
    | ((with_reducible show List.length _ ≤ _); assumption)
    | split
    | dsimp only)

theorem execOperatingTimeRecord_goes {pq : List Instr} {s : State}  (hk : Keeps pq s) :
    Goes pq (execOperatingTimeRecord s) := by
  unfold execOperatingTimeRecord
  repeat' (first
    | intro _
    | with_reducible assumption
    | with_reducible apply confAppend_keeps
    | with_reducible apply goes_next
    | with_reducible apply ite_goes
    | with_reducible apply ite_keeps
    | with_reducible apply ite_fst_keeps
    | ((with_reducible show Seq.ok _ = true); assumption)
    | ((with_reducible show Tbl.wf _ _ = true); assumption)
    | ((with_reducible show List.length _ ≤ _); assumption)
    | split
    | dsimp only)

end Sys2Proof.Machine
end

