-- ==== Sys2Proof/Laws/KeepLaundry.lean ====
section
/-!
SUPPORT. The invariant under the operations and commands of Laundry: each keeps it and the queue (Keeps); a command answers a next state (Goes).
-/
set_option linter.unusedTactic false
set_option linter.unreachableTactic false
set_option linter.unusedVariables false
namespace Sys2Proof.Machine

theorem execHardDecodeDone_goes {pq : List Instr} {s : State} {n i cw : Nat} {ok : Bool} {ones zeros weight : Nat} {data : Blk} {md : Meta} {probe : Option (Nat × Nat × Nat)} (hk : Keeps pq s) :
    Goes pq (execHardDecodeDone n i cw ok ones zeros weight data md probe s) := by
  unfold execHardDecodeDone
  repeat' (first
    | intro _
    | with_reducible assumption
    | with_reducible apply cwBad_keeps
    | with_reducible apply cwFailed_keeps
    | with_reducible apply cwGood_keeps
    | with_reducible apply joinClimb_keeps
    | with_reducible apply modClimb_keeps
    | with_reducible apply modSeq_keeps
    | with_reducible apply nextRow_keeps
    | with_reducible apply post_keeps
    | with_reducible apply raise_keeps
    | with_reducible apply track_keeps
    | with_reducible refine opt_keeps (by assumption) ?_
    | with_reducible apply some_keepsO
    | with_reducible apply none_keepsO
    | with_reducible apply ite_keepsO
    | with_reducible apply map_keepsO
    | with_reducible apply mapOf_keepsO
    | with_reducible apply getD_keeps
    | with_reducible apply goes_next
    | with_reducible apply ite_goes
    | with_reducible apply setReg_ok
    | with_reducible apply refill_ok
    | with_reducible apply deliver_ok
    | with_reducible apply ite_keeps
    | with_reducible apply ite_fst_keeps
    | ((with_reducible show Seq.ok _ = true); assumption)
    | ((with_reducible show Tbl.wf _ _ = true); assumption)
    | ((with_reducible show List.length _ ≤ _); assumption)
    | refine ok_mem (by assumption) (by first | exact Or.inl rfl | exact Or.inr rfl) (by rfl) ?_ ?_
    | with_reducible apply Tbl.wf_writeBytes
    | with_reducible apply Tbl.wf_setD
    | with_reducible apply Tbl.wf_filter
    | with_reducible apply Tbl.wf_foldl
    | exact Tbl.wf_nil _
    | split
    | dsimp only)

theorem execSoftAdmissionCredit_goes {pq : List Instr} {s : State}  (hk : Keeps pq s) :
    Goes pq (execSoftAdmissionCredit s) := by
  unfold execSoftAdmissionCredit
  repeat' (first
    | intro _
    | with_reducible assumption
    | with_reducible apply modLnd_keeps
    | with_reducible apply goes_next
    | with_reducible apply ite_goes
    | with_reducible apply ite_keeps
    | with_reducible apply ite_fst_keeps
    | ((with_reducible show Seq.ok _ = true); assumption)
    | ((with_reducible show Tbl.wf _ _ = true); assumption)
    | ((with_reducible show List.length _ ≤ _); assumption)
    | split
    | dsimp only)

theorem execSoftJobAdmit_goes {pq : List Instr} {s : State}  (hk : Keeps pq s) :
    Goes pq (execSoftJobAdmit s) := by
  unfold execSoftJobAdmit
  repeat' (first
    | intro _
    | with_reducible assumption
    | with_reducible apply modLnd_keeps
    | with_reducible apply goes_next
    | with_reducible apply ite_goes
    | with_reducible apply ite_keeps
    | with_reducible apply ite_fst_keeps
    | ((with_reducible show Seq.ok _ = true); assumption)
    | ((with_reducible show Tbl.wf _ _ = true); assumption)
    | ((with_reducible show List.length _ ≤ _); assumption)
    | split
    | dsimp only)

theorem execSoftDecodeDone_goes {pq : List Instr} {s : State} {n i cw : Nat} {ok : Bool} {ones zeros : Nat} {data : Blk} {md : Meta} (hk : Keeps pq s) :
    Goes pq (execSoftDecodeDone n i cw ok ones zeros data md s) := by
  unfold execSoftDecodeDone
  repeat' (first
    | intro _
    | with_reducible assumption
    | with_reducible apply cwFailed_keeps
    | with_reducible apply cwGood_keeps
    | with_reducible apply modLnd_keeps
    | with_reducible apply nextRow_keeps
    | with_reducible apply track_keeps
    | with_reducible apply goes_next
    | with_reducible apply ite_goes
    | with_reducible apply ite_keeps
    | with_reducible apply ite_fst_keeps
    | ((with_reducible show Seq.ok _ = true); assumption)
    | ((with_reducible show Tbl.wf _ _ = true); assumption)
    | ((with_reducible show List.length _ ≤ _); assumption)
    | split
    | dsimp only)

theorem execStripeRecoveryDone_goes {pq : List Instr} {s : State} {id : Nat} (hk : Keeps pq s) :
    Goes pq (execStripeRecoveryDone id s) := by
  unfold execStripeRecoveryDone
  repeat' (first
    | intro _
    | with_reducible assumption
    | with_reducible apply stripeDone_keeps
    | with_reducible apply goes_next
    | with_reducible apply ite_goes
    | with_reducible apply ite_keeps
    | with_reducible apply ite_fst_keeps
    | ((with_reducible show Seq.ok _ = true); assumption)
    | ((with_reducible show Tbl.wf _ _ = true); assumption)
    | ((with_reducible show List.length _ ≤ _); assumption)
    | split
    | dsimp only)

theorem execCalibration_goes {pq : List Instr} {s : State} {n die group : Nat} (hk : Keeps pq s) :
    Goes pq (execCalibration n die group s) := by
  unfold execCalibration
  repeat' (first
    | intro _
    | with_reducible assumption
    | with_reducible apply each_keeps
    | with_reducible apply modLnd_keeps
    | with_reducible apply offer_keeps
    | with_reducible apply queueCal_keeps
    | with_reducible apply goes_next
    | with_reducible apply ite_goes
    | with_reducible apply ite_keeps
    | with_reducible apply ite_fst_keeps
    | ((with_reducible show Seq.ok _ = true); assumption)
    | ((with_reducible show Tbl.wf _ _ = true); assumption)
    | ((with_reducible show List.length _ ≤ _); assumption)
    | split
    | dsimp only)

theorem execCalibrationDone_goes {pq : List Instr} {s : State} {n die group valley : Nat} {ok : Bool} (hk : Keeps pq s) :
    Goes pq (execCalibrationDone n die group valley ok s) := by
  unfold execCalibrationDone
  repeat' (first
    | intro _
    | with_reducible assumption
    | with_reducible apply each_keeps
    | with_reducible apply modLnd_keeps
    | with_reducible apply notice_keeps
    | with_reducible apply readUnit_keeps
    | with_reducible apply setTracked_keeps
    | with_reducible refine opt_keeps (by assumption) ?_
    | with_reducible apply some_keepsO
    | with_reducible apply none_keepsO
    | with_reducible apply ite_keepsO
    | with_reducible apply map_keepsO
    | with_reducible apply mapOf_keepsO
    | with_reducible apply getD_keeps
    | with_reducible apply goes_next
    | with_reducible apply ite_goes
    | with_reducible apply ite_keeps
    | with_reducible apply ite_fst_keeps
    | ((with_reducible show Seq.ok _ = true); assumption)
    | ((with_reducible show Tbl.wf _ _ = true); assumption)
    | ((with_reducible show List.length _ ≤ _); assumption)
    | split
    | dsimp only)

theorem execTlerExpiry_goes {pq : List Instr} {s : State} {n : Nat} (hk : Keeps pq s) :
    Goes pq (execTlerExpiry n s) := by
  unfold execTlerExpiry
  repeat' (first
    | intro _
    | with_reducible assumption
    | with_reducible apply dropReader_keeps
    | with_reducible apply each_keeps
    | with_reducible apply finish_keeps
    | with_reducible apply modClimb_keeps
    | with_reducible apply goes_next
    | with_reducible apply ite_goes
    | with_reducible apply ite_keeps
    | with_reducible apply ite_fst_keeps
    | ((with_reducible show Seq.ok _ = true); assumption)
    | ((with_reducible show Tbl.wf _ _ = true); assumption)
    | ((with_reducible show List.length _ ≤ _); assumption)
    | split
    | dsimp only)

theorem execPacedReadRelease_goes {pq : List Instr} {s : State} {n hp : Nat} {guardOk appOk refOk : Bool} {bad : Nat} {host : Blk} (hk : Keeps pq s) :
    Goes pq (execPacedReadRelease n hp guardOk appOk refOk bad host s) := by
  unfold execPacedReadRelease
  repeat' (first
    | intro _
    | with_reducible assumption
    | with_reducible apply takeWord_keeps
    | with_reducible apply goes_next
    | with_reducible apply ite_goes
    | with_reducible apply ite_keeps
    | with_reducible apply ite_fst_keeps
    | ((with_reducible show Seq.ok _ = true); assumption)
    | ((with_reducible show Tbl.wf _ _ = true); assumption)
    | ((with_reducible show List.length _ ≤ _); assumption)
    | split
    | dsimp only)

theorem execCalRequest_goes {pq : List Instr} {s : State} {n die : Nat} (hk : Keeps pq s) :
    Goes pq (execCalRequest n die s) := by
  unfold execCalRequest
  repeat' (first
    | intro _
    | with_reducible assumption
    | with_reducible apply clr1_keeps
    | with_reducible apply each_keeps
    | with_reducible apply queueCal_keeps
    | with_reducible apply goes_next
    | with_reducible apply ite_goes
    | with_reducible apply ite_keeps
    | with_reducible apply ite_fst_keeps
    | ((with_reducible show Seq.ok _ = true); assumption)
    | ((with_reducible show Tbl.wf _ _ = true); assumption)
    | ((with_reducible show List.length _ ≤ _); assumption)
    | split
    | dsimp only)

end Sys2Proof.Machine
end

