-- ==== Sys2Proof/Laws/KeepHall.lean ====
section
/-!
SUPPORT. The invariant under the operations and commands of Hall: each keeps it and the queue (Keeps); a command answers a next state (Goes).
-/
set_option linter.unusedTactic false
set_option linter.unreachableTactic false
set_option linter.unusedVariables false
namespace Sys2Proof.Machine

theorem beginSanitize_keeps {pq : List Instr} {s : State} {c : HostCmd} (hk : Keeps pq s) :
    Keeps pq (beginSanitize s c) := by
  unfold beginSanitize
  repeat' (first
    | intro _
    | with_reducible assumption
    | with_reducible apply modNvm_keeps
    | with_reducible apply ite_keeps
    | with_reducible apply ite_fst_keeps
    | ((with_reducible show Seq.ok _ = true); assumption)
    | ((with_reducible show Tbl.wf _ _ = true); assumption)
    | ((with_reducible show List.length _ ≤ _); assumption)
    | split
    | dsimp only)

theorem endTest_keeps {pq : List Instr} {s : State} {c : HostCmd} (hk : Keeps pq s) :
    Keeps pq (endTest s c) := by
  unfold endTest
  repeat' (first
    | intro _
    | with_reducible assumption
    | with_reducible apply dstEnd_keeps
    | with_reducible apply ite_keeps
    | with_reducible apply ite_fst_keeps
    | ((with_reducible show Seq.ok _ = true); assumption)
    | ((with_reducible show Tbl.wf _ _ = true); assumption)
    | ((with_reducible show List.length _ ≤ _); assumption)
    | split
    | dsimp only)

theorem beginLock_keeps {pq : List Instr} {s : State} {n : Nat} {c : HostCmd} (hk : Keeps pq s) :
    Keeps pq (beginLock s n c) := by
  unfold beginLock
  repeat' (first
    | intro _
    | with_reducible assumption
    | with_reducible apply each_keeps
    | with_reducible apply modRange_keeps
    | with_reducible apply ite_keeps
    | with_reducible apply ite_fst_keeps
    | ((with_reducible show Seq.ok _ = true); assumption)
    | ((with_reducible show Tbl.wf _ _ = true); assumption)
    | ((with_reducible show List.length _ ≤ _); assumption)
    | split
    | dsimp only)

theorem execSubmissionFetch_goes {pq : List Instr} {s : State} {p sq cid : Nat} {cmd : HostCmd} (hk : Keeps pq s) :
    Goes pq (execSubmissionFetch p sq cid cmd s) := by
  unfold execSubmissionFetch
  repeat' (first
    | intro _
    | with_reducible assumption
    | with_reducible apply beginLock_keeps
    | with_reducible apply beginSanitize_keeps
    | with_reducible apply endTest_keeps
    | with_reducible apply finish_keeps
    | with_reducible apply modHall_keeps
    | with_reducible apply raise_keeps
    | with_reducible apply reportDeferred_keeps
    | with_reducible apply wr_keeps
    | with_reducible apply goes_next
    | with_reducible apply ite_goes
    | with_reducible apply ite_keeps
    | with_reducible apply ite_fst_keeps
    | ((with_reducible show Seq.ok _ = true); assumption)
    | ((with_reducible show Tbl.wf _ _ = true); assumption)
    | ((with_reducible show List.length _ ≤ _); assumption)
    | split
    | dsimp only)

theorem startCopy_keeps {pq : List Instr} {s : State} {cls bg ns u suite y : Nat} (hk : Keeps pq s) :
    Keeps pq (startCopy s cls bg ns u suite y) := by
  unfold startCopy
  repeat' (first
    | intro _
    | with_reducible assumption
    | with_reducible apply freeSlot_keeps
    | with_reducible apply readUnit_keeps
    | with_reducible apply takeSlot_keeps
    | with_reducible refine fst_keeps (by assumption) ?_
    | with_reducible refine opt_keeps (by assumption) ?_
    | with_reducible apply some_keepsO
    | with_reducible apply none_keepsO
    | with_reducible apply ite_keepsO
    | with_reducible apply map_keepsO
    | with_reducible apply mapOf_keepsO
    | with_reducible apply getD_keeps
    | with_reducible apply ite_keeps
    | with_reducible apply ite_fst_keeps
    | ((with_reducible show Seq.ok _ = true); assumption)
    | ((with_reducible show Tbl.wf _ _ = true); assumption)
    | ((with_reducible show List.length _ ≤ _); assumption)
    | split
    | dsimp only)

theorem startCons_keeps {pq : List Instr} {s : State} {ns ext : Nat} (hk : Keeps pq s) :
    Keeps pq (startCons s ns ext) := by
  unfold startCons
  repeat' (first
    | intro _
    | with_reducible assumption
    | with_reducible apply each_keeps
    | with_reducible apply joinReclaim_keeps
    | with_reducible apply modScu_keeps
    | with_reducible apply readUnit_keeps
    | with_reducible apply takeSlots_keeps
    | with_reducible refine fst_keeps (by assumption) ?_
    | with_reducible refine opt_keeps (by assumption) ?_
    | with_reducible apply some_keepsO
    | with_reducible apply none_keepsO
    | with_reducible apply ite_keepsO
    | with_reducible apply map_keepsO
    | with_reducible apply mapOf_keepsO
    | with_reducible apply getD_keeps
    | with_reducible apply ite_keeps
    | with_reducible apply ite_fst_keeps
    | ((with_reducible show Seq.ok _ = true); assumption)
    | ((with_reducible show Tbl.wf _ _ = true); assumption)
    | ((with_reducible show List.length _ ≤ _); assumption)
    | split
    | dsimp only)

theorem grantReclaim_keeps {pq : List Instr} {s : State} {rg : Nat} (hk : Keeps pq s) :
    Keeps pq (grantReclaim s rg) := by
  unfold grantReclaim
  repeat' (first
    | intro _
    | with_reducible assumption
    | with_reducible apply modScu_keeps
    | with_reducible apply startCons_keeps
    | with_reducible apply startCopy_keeps
    | with_reducible apply ite_keeps
    | with_reducible apply ite_fst_keeps
    | ((with_reducible show Seq.ok _ = true); assumption)
    | ((with_reducible show Tbl.wf _ _ = true); assumption)
    | ((with_reducible show List.length _ ≤ _); assumption)
    | split
    | dsimp only)

theorem execLarderReservationGrant_goes {pq : List Instr} {s : State} {k : ResKind} (hk : Keeps pq s) :
    Goes pq (execLarderReservationGrant k s) := by
  unfold execLarderReservationGrant
  repeat' (first
    | intro _
    | with_reducible assumption
    | with_reducible apply grantHost_keeps
    | with_reducible apply grantReclaim_keeps
    | with_reducible apply startCopy_keeps
    | with_reducible apply foldl_keeps
    | with_reducible apply foldl_fst_keeps
    | with_reducible apply goes_next
    | with_reducible apply ite_goes
    | with_reducible apply ite_keeps
    | with_reducible apply ite_fst_keeps
    | ((with_reducible show Seq.ok _ = true); assumption)
    | ((with_reducible show Tbl.wf _ _ = true); assumption)
    | ((with_reducible show List.length _ ≤ _); assumption)
    | split
    | dsimp only)

theorem execUnitCommit_goes {pq : List Instr} {s : State} {n ext : Nat} (hk : Keeps pq s) :
    Goes pq (execUnitCommit n ext s) := by
  unfold execUnitCommit
  repeat' (first
    | intro _
    | with_reducible assumption
    | with_reducible apply commitUnit_keeps
    | with_reducible apply goes_next
    | with_reducible apply ite_goes
    | with_reducible apply ite_keeps
    | with_reducible apply ite_fst_keeps
    | ((with_reducible show Seq.ok _ = true); assumption)
    | ((with_reducible show Tbl.wf _ _ = true); assumption)
    | ((with_reducible show List.length _ ≤ _); assumption)
    | split
    | dsimp only)

theorem execReaderResolve_goes {pq : List Instr} {s : State} {n : Nat} (hk : Keeps pq s) :
    Goes pq (execReaderResolve n s) := by
  unfold execReaderResolve
  repeat' (first
    | intro _
    | with_reducible assumption
    | with_reducible apply resolveReader_keeps
    | with_reducible apply goes_next
    | with_reducible apply ite_goes
    | with_reducible apply ite_keeps
    | with_reducible apply ite_fst_keeps
    | ((with_reducible show Seq.ok _ = true); assumption)
    | ((with_reducible show Tbl.wf _ _ = true); assumption)
    | ((with_reducible show List.length _ ≤ _); assumption)
    | split
    | dsimp only)

theorem execCompletionPost_goes {pq : List Instr} {s : State} {n : Nat} (hk : Keeps pq s) :
    Goes pq (execCompletionPost n s) := by
  unfold execCompletionPost
  repeat' (first
    | intro _
    | with_reducible assumption
    | with_reducible apply fwCommit_keeps
    | with_reducible apply postCompletion_keeps
    | with_reducible apply watchdogReset_keeps
    | with_reducible apply goes_next
    | with_reducible apply ite_goes
    | with_reducible apply ite_keeps
    | with_reducible apply ite_fst_keeps
    | ((with_reducible show Seq.ok _ = true); assumption)
    | ((with_reducible show Tbl.wf _ _ = true); assumption)
    | ((with_reducible show List.length _ ≤ _); assumption)
    | split
    | dsimp only)

theorem startIo_keeps {pq : List Instr} {s : State} {n : Nat} {f : Ctx → State} (hk : Keeps pq s) (h_f : ∀ (a0 : Ctx), Keeps pq (f a0)) :
    Keeps pq (startIo s n f) := by
  unfold startIo
  repeat' (first
    | intro _
    | with_reducible assumption
    | with_reducible apply h_f
    | with_reducible apply finish_keeps
    | with_reducible apply ite_keeps
    | with_reducible apply ite_fst_keeps
    | ((with_reducible show Seq.ok _ = true); assumption)
    | ((with_reducible show Tbl.wf _ _ = true); assumption)
    | ((with_reducible show List.length _ ≤ _); assumption)
    | split
    | dsimp only)

theorem runCtx_keeps {pq : List Instr} {s : State} {n : Nat} (hk : Keeps pq s) :
    Keeps pq (runCtx s n) := by
  unfold runCtx
  repeat' (first
    | intro _
    | with_reducible assumption
    | with_reducible apply modCtx_keeps
    | with_reducible apply ite_keeps
    | with_reducible apply ite_fst_keeps
    | ((with_reducible show Seq.ok _ = true); assumption)
    | ((with_reducible show Tbl.wf _ _ = true); assumption)
    | ((with_reducible show List.length _ ≤ _); assumption)
    | split
    | dsimp only)

theorem execFlush_goes {pq : List Instr} {s : State} {n : Nat} (hk : Keeps pq s) :
    Goes pq (execFlush n s) := by
  unfold execFlush
  repeat' (first
    | intro _
    | with_reducible assumption
    | with_reducible apply askBarrier_keeps
    | with_reducible apply closeHostFronts_keeps
    | with_reducible apply modCtx_keeps
    | with_reducible apply settleCheck_keeps
    | with_reducible apply startIo_keeps
    | with_reducible apply goes_next
    | with_reducible apply ite_goes
    | with_reducible apply ite_keeps
    | with_reducible apply ite_fst_keeps
    | ((with_reducible show Seq.ok _ = true); assumption)
    | ((with_reducible show Tbl.wf _ _ = true); assumption)
    | ((with_reducible show List.length _ ≤ _); assumption)
    | split
    | dsimp only)

theorem execWrite_goes {pq : List Instr} {s : State} {n : Nat} (hk : Keeps pq s) :
    Goes pq (execWrite n s) := by
  unfold execWrite
  repeat' (first
    | intro _
    | with_reducible assumption
    | with_reducible apply startIo_keeps
    | with_reducible apply startWriter_keeps
    | with_reducible apply goes_next
    | with_reducible apply ite_goes
    | with_reducible apply ite_keeps
    | with_reducible apply ite_fst_keeps
    | ((with_reducible show Seq.ok _ = true); assumption)
    | ((with_reducible show Tbl.wf _ _ = true); assumption)
    | ((with_reducible show List.length _ ≤ _); assumption)
    | split
    | dsimp only)

theorem execRead_goes {pq : List Instr} {s : State} {n : Nat} (hk : Keeps pq s) :
    Goes pq (execRead n s) := by
  unfold execRead
  repeat' (first
    | intro _
    | with_reducible assumption
    | with_reducible apply runCtx_keeps
    | with_reducible apply startIo_keeps
    | with_reducible apply goes_next
    | with_reducible apply ite_goes
    | with_reducible apply ite_keeps
    | with_reducible apply ite_fst_keeps
    | ((with_reducible show Seq.ok _ = true); assumption)
    | ((with_reducible show Tbl.wf _ _ = true); assumption)
    | ((with_reducible show List.length _ ≤ _); assumption)
    | split
    | dsimp only)

theorem execWriteUncorrectable_goes {pq : List Instr} {s : State} {n : Nat} (hk : Keeps pq s) :
    Goes pq (execWriteUncorrectable n s) := by
  unfold execWriteUncorrectable
  repeat' (first
    | intro _
    | with_reducible assumption
    | with_reducible apply startIo_keeps
    | with_reducible apply startWriter_keeps
    | with_reducible apply goes_next
    | with_reducible apply ite_goes
    | with_reducible apply ite_keeps
    | with_reducible apply ite_fst_keeps
    | ((with_reducible show Seq.ok _ = true); assumption)
    | ((with_reducible show Tbl.wf _ _ = true); assumption)
    | ((with_reducible show List.length _ ≤ _); assumption)
    | split
    | dsimp only)

theorem execCompare_goes {pq : List Instr} {s : State} {n : Nat} (hk : Keeps pq s) :
    Goes pq (execCompare n s) := by
  unfold execCompare
  repeat' (first
    | intro _
    | with_reducible assumption
    | with_reducible apply runCtx_keeps
    | with_reducible apply startIo_keeps
    | with_reducible apply goes_next
    | with_reducible apply ite_goes
    | with_reducible apply ite_keeps
    | with_reducible apply ite_fst_keeps
    | ((with_reducible show Seq.ok _ = true); assumption)
    | ((with_reducible show Tbl.wf _ _ = true); assumption)
    | ((with_reducible show List.length _ ≤ _); assumption)
    | split
    | dsimp only)

theorem execWriteZeroes_goes {pq : List Instr} {s : State} {n : Nat} (hk : Keeps pq s) :
    Goes pq (execWriteZeroes n s) := by
  unfold execWriteZeroes
  repeat' (first
    | intro _
    | with_reducible assumption
    | with_reducible apply startIo_keeps
    | with_reducible apply startWriter_keeps
    | with_reducible apply goes_next
    | with_reducible apply ite_goes
    | with_reducible apply ite_keeps
    | with_reducible apply ite_fst_keeps
    | ((with_reducible show Seq.ok _ = true); assumption)
    | ((with_reducible show Tbl.wf _ _ = true); assumption)
    | ((with_reducible show List.length _ ≤ _); assumption)
    | split
    | dsimp only)

theorem execDatasetManagement_goes {pq : List Instr} {s : State} {n : Nat} (hk : Keeps pq s) :
    Goes pq (execDatasetManagement n s) := by
  unfold execDatasetManagement
  repeat' (first
    | intro _
    | with_reducible assumption
    | with_reducible apply finishOk_keeps
    | with_reducible apply modCtx_keeps
    | with_reducible apply startIo_keeps
    | with_reducible apply goes_next
    | with_reducible apply ite_goes
    | with_reducible apply ite_keeps
    | with_reducible apply ite_fst_keeps
    | ((with_reducible show Seq.ok _ = true); assumption)
    | ((with_reducible show Tbl.wf _ _ = true); assumption)
    | ((with_reducible show List.length _ ≤ _); assumption)
    | split
    | dsimp only)

theorem execVerify_goes {pq : List Instr} {s : State} {n : Nat} (hk : Keeps pq s) :
    Goes pq (execVerify n s) := by
  unfold execVerify
  repeat' (first
    | intro _
    | with_reducible assumption
    | with_reducible apply runCtx_keeps
    | with_reducible apply startIo_keeps
    | with_reducible apply goes_next
    | with_reducible apply ite_goes
    | with_reducible apply ite_keeps
    | with_reducible apply ite_fst_keeps
    | ((with_reducible show Seq.ok _ = true); assumption)
    | ((with_reducible show Tbl.wf _ _ = true); assumption)
    | ((with_reducible show List.length _ ≤ _); assumption)
    | split
    | dsimp only)

theorem execIoManagementReceive_goes {pq : List Instr} {s : State} {n : Nat} (hk : Keeps pq s) :
    Goes pq (execIoManagementReceive n s) := by
  unfold execIoManagementReceive
  repeat' (first
    | intro _
    | with_reducible assumption
    | with_reducible apply emit_keeps
    | with_reducible apply finishOk_keeps
    | with_reducible apply startIo_keeps
    | with_reducible apply goes_next
    | with_reducible apply ite_goes
    | with_reducible apply ite_keeps
    | with_reducible apply ite_fst_keeps
    | ((with_reducible show Seq.ok _ = true); assumption)
    | ((with_reducible show Tbl.wf _ _ = true); assumption)
    | ((with_reducible show List.length _ ≤ _); assumption)
    | split
    | dsimp only)

theorem execIoManagementSend_goes {pq : List Instr} {s : State} {n : Nat} (hk : Keeps pq s) :
    Goes pq (execIoManagementSend n s) := by
  unfold execIoManagementSend
  repeat' (first
    | intro _
    | with_reducible assumption
    | with_reducible apply each_keeps
    | with_reducible apply endSuite_keeps
    | with_reducible apply modCtx_keeps
    | with_reducible apply settleCheck_keeps
    | with_reducible apply startIo_keeps
    | with_reducible apply goes_next
    | with_reducible apply ite_goes
    | with_reducible apply ite_keeps
    | with_reducible apply ite_fst_keeps
    | ((with_reducible show Seq.ok _ = true); assumption)
    | ((with_reducible show Tbl.wf _ _ = true); assumption)
    | ((with_reducible show List.length _ ≤ _); assumption)
    | split
    | dsimp only)

theorem execCopy_goes {pq : List Instr} {s : State} {n : Nat} (hk : Keeps pq s) :
    Goes pq (execCopy n s) := by
  unfold execCopy
  repeat' (first
    | intro _
    | with_reducible assumption
    | with_reducible apply startIo_keeps
    | with_reducible apply startWriter_keeps
    | with_reducible apply goes_next
    | with_reducible apply ite_goes
    | with_reducible apply ite_keeps
    | with_reducible apply ite_fst_keeps
    | ((with_reducible show Seq.ok _ = true); assumption)
    | ((with_reducible show Tbl.wf _ _ = true); assumption)
    | ((with_reducible show List.length _ ≤ _); assumption)
    | split
    | dsimp only)

theorem admitSlots_keeps {pq : List Instr} {s : State} {c : Ctx} (hk : Keeps pq s) :
    Keeps pq (admitSlots s c) := by
  unfold admitSlots
  repeat' (first
    | intro _
    | with_reducible assumption
    | with_reducible apply each_keeps
    | with_reducible apply modSlot_keeps
    | with_reducible apply ite_keeps
    | with_reducible apply ite_fst_keeps
    | ((with_reducible show Seq.ok _ = true); assumption)
    | ((with_reducible show Tbl.wf _ _ = true); assumption)
    | ((with_reducible show List.length _ ≤ _); assumption)
    | split
    | dsimp only)

theorem failWriter_keeps {pq : List Instr} {s : State} {n sct sc : Nat} (hk : Keeps pq s) :
    Keeps pq (failWriter s n sct sc) := by
  unfold failWriter
  repeat' (first
    | intro _
    | with_reducible assumption
    | with_reducible apply dropTags_keeps
    | with_reducible apply finish_keeps
    | with_reducible apply modCtx_keeps
    | with_reducible apply returnSlots_keeps
    | with_reducible apply ite_keeps
    | with_reducible apply ite_fst_keeps
    | ((with_reducible show Seq.ok _ = true); assumption)
    | ((with_reducible show Tbl.wf _ _ = true); assumption)
    | ((with_reducible show List.length _ ≤ _); assumption)
    | split
    | dsimp only)

theorem execHostReadCompletion_goes {pq : List Instr} {s : State} {n unit : Nat} {data : Blk} {md : Meta} {guardOk appOk refOk : Bool} {bad : Nat} (hk : Keeps pq s) :
    Goes pq (execHostReadCompletion n unit data md guardOk appOk refOk bad s) := by
  unfold execHostReadCompletion
  repeat' (first
    | intro _
    | with_reducible assumption
    | with_reducible apply admitSlots_keeps
    | with_reducible apply dropTag_keeps
    | with_reducible apply failWriter_keeps
    | with_reducible apply noteBad_keeps
    | with_reducible apply modCtx_keeps
    | with_reducible apply modNvm_keeps
    | with_reducible apply modSlot_keeps
    | with_reducible apply pumpChan_keeps
    | with_reducible apply goes_next
    | with_reducible apply ite_goes
    | with_reducible apply ite_keeps
    | with_reducible apply ite_fst_keeps
    | ((with_reducible show Seq.ok _ = true); assumption)
    | ((with_reducible show Tbl.wf _ _ = true); assumption)
    | ((with_reducible show List.length _ ≤ _); assumption)
    | split
    | dsimp only)

theorem execCompletionTimeoutExpiry_goes {pq : List Instr} {s : State} {n unit : Nat} (hk : Keeps pq s) :
    Goes pq (execCompletionTimeoutExpiry n unit s) := by
  unfold execCompletionTimeoutExpiry
  repeat' (first
    | intro _
    | with_reducible assumption
    | with_reducible apply dropTag_keeps
    | with_reducible apply haltChan_keeps
    | with_reducible apply modHport_keeps
    | with_reducible apply goes_next
    | with_reducible apply ite_goes
    | with_reducible apply ite_keeps
    | with_reducible apply ite_fst_keeps
    | ((with_reducible show Seq.ok _ = true); assumption)
    | ((with_reducible show Tbl.wf _ _ = true); assumption)
    | ((with_reducible show List.length _ ≤ _); assumption)
    | split
    | dsimp only)

theorem execUnexpectedCompletion_goes {pq : List Instr} {s : State} {p tag : Nat} (hk : Keeps pq s) :
    Goes pq (execUnexpectedCompletion p tag s) := by
  unfold execUnexpectedCompletion
  repeat' (first
    | intro _
    | with_reducible assumption
    | with_reducible apply modHport_keeps
    | with_reducible apply goes_next
    | with_reducible apply ite_goes
    | with_reducible apply ite_keeps
    | with_reducible apply ite_fst_keeps
    | ((with_reducible show Seq.ok _ = true); assumption)
    | ((with_reducible show Tbl.wf _ _ = true); assumption)
    | ((with_reducible show List.length _ ≤ _); assumption)
    | split
    | dsimp only)

theorem execTimedOutTagReuse_goes {pq : List Instr} {s : State} {p tag : Nat} (hk : Keeps pq s) :
    Goes pq (execTimedOutTagReuse p tag s) := by
  unfold execTimedOutTagReuse
  repeat' (first
    | intro _
    | with_reducible assumption
    | with_reducible apply each_keeps
    | with_reducible apply modHport_keeps
    | with_reducible apply pumpChan_keeps
    | with_reducible apply goes_next
    | with_reducible apply ite_goes
    | with_reducible apply ite_keeps
    | with_reducible apply ite_fst_keeps
    | ((with_reducible show Seq.ok _ = true); assumption)
    | ((with_reducible show Tbl.wf _ _ = true); assumption)
    | ((with_reducible show List.length _ ≤ _); assumption)
    | split
    | dsimp only)

theorem execDmaDrainComplete_goes {pq : List Instr} {s : State} {c : Nat} (hk : Keeps pq s) :
    Goes pq (execDmaDrainComplete c s) := by
  unfold execDmaDrainComplete
  repeat' (first
    | intro _
    | with_reducible assumption
    | with_reducible apply dropReader_keeps
    | with_reducible apply failWriter_keeps
    | with_reducible apply modChan_keeps
    | with_reducible apply pumpChan_keeps
    | with_reducible apply goes_next
    | with_reducible apply ite_goes
    | with_reducible apply ite_keeps
    | with_reducible apply ite_fst_keeps
    | ((with_reducible show Seq.ok _ = true); assumption)
    | ((with_reducible show Tbl.wf _ _ = true); assumption)
    | ((with_reducible show List.length _ ≤ _); assumption)
    | split
    | dsimp only)

theorem execAggregationTimeExpiry_goes {pq : List Instr} {s : State} {p v : Nat} (hk : Keeps pq s) :
    Goes pq (execAggregationTimeExpiry p v s) := by
  unfold execAggregationTimeExpiry
  repeat' (first
    | intro _
    | with_reducible assumption
    | with_reducible apply interrupt_keeps
    | with_reducible apply modHall_keeps
    | with_reducible apply goes_next
    | with_reducible apply ite_goes
    | with_reducible apply ite_keeps
    | with_reducible apply ite_fst_keeps
    | ((with_reducible show Seq.ok _ = true); assumption)
    | ((with_reducible show Tbl.wf _ _ = true); assumption)
    | ((with_reducible show List.length _ ≤ _); assumption)
    | split
    | dsimp only)

theorem execFetchEnableSet_goes {pq : List Instr} {s : State}  (hk : Keeps pq s) :
    Goes pq (execFetchEnableSet s) := by
  unfold execFetchEnableSet
  repeat' (first
    | intro _
    | with_reducible assumption
    | with_reducible apply clr1_keeps
    | with_reducible apply hallReady_keeps
    | with_reducible apply keysCheck_keeps
    | with_reducible apply modPwr_keeps
    | with_reducible apply set1_keeps
    | with_reducible apply goes_next
    | with_reducible apply ite_goes
    | with_reducible apply ite_keeps
    | with_reducible apply ite_fst_keeps
    | ((with_reducible show Seq.ok _ = true); assumption)
    | ((with_reducible show Tbl.wf _ _ = true); assumption)
    | ((with_reducible show List.length _ ≤ _); assumption)
    | split
    | dsimp only)

theorem execDrainRequest_goes {pq : List Instr} {s : State}  (hk : Keeps pq s) :
    Goes pq (execDrainRequest s) := by
  unfold execDrainRequest
  repeat' (first
    | intro _
    | with_reducible assumption
    | with_reducible apply set1_keeps
    | with_reducible apply goes_next
    | with_reducible apply ite_goes
    | with_reducible apply ite_keeps
    | with_reducible apply ite_fst_keeps
    | ((with_reducible show Seq.ok _ = true); assumption)
    | ((with_reducible show Tbl.wf _ _ = true); assumption)
    | ((with_reducible show List.length _ ≤ _); assumption)
    | split
    | dsimp only)

theorem execBackgroundHold_goes {pq : List Instr} {s : State} {v : Bool} (hk : Keeps pq s) :
    Goes pq (execBackgroundHold v s) := by
  unfold execBackgroundHold
  repeat' (first
    | intro _
    | with_reducible assumption
    | with_reducible apply wr_keeps
    | with_reducible apply goes_next
    | with_reducible apply ite_goes
    | with_reducible apply ite_keeps
    | with_reducible apply ite_fst_keeps
    | ((with_reducible show Seq.ok _ = true); assumption)
    | ((with_reducible show Tbl.wf _ _ = true); assumption)
    | ((with_reducible show List.length _ ≤ _); assumption)
    | split
    | dsimp only)

theorem execHallReportIdle_goes {pq : List Instr} {s : State}  (hk : Keeps pq s) :
    Goes pq (execHallReportIdle s) := by
  unfold execHallReportIdle
  repeat' (first
    | intro _
    | with_reducible assumption
    | with_reducible apply clr1_keeps
    | with_reducible apply larderDrain_keeps
    | with_reducible apply modPwr_keeps
    | with_reducible apply raise_keeps
    | with_reducible apply goes_next
    | with_reducible apply ite_goes
    | with_reducible apply ite_keeps
    | with_reducible apply ite_fst_keeps
    | ((with_reducible show Seq.ok _ = true); assumption)
    | ((with_reducible show Tbl.wf _ _ = true); assumption)
    | ((with_reducible show List.length _ ≤ _); assumption)
    | split
    | dsimp only)

theorem execApstIdleExpiry_goes {pq : List Instr} {s : State} {p i : Nat} (hk : Keeps pq s) :
    Goes pq (execApstIdleExpiry p i s) := by
  unfold execApstIdleExpiry
  repeat' (first
    | intro _
    | with_reducible assumption
    | with_reducible apply modHall_keeps
    | with_reducible apply goes_next
    | with_reducible apply ite_goes
    | with_reducible apply ite_keeps
    | with_reducible apply ite_fst_keeps
    | ((with_reducible show Seq.ok _ = true); assumption)
    | ((with_reducible show Tbl.wf _ _ = true); assumption)
    | ((with_reducible show List.length _ ≤ _); assumption)
    | split
    | dsimp only)

theorem execMediaArbiterWindowEnd_goes {pq : List Instr} {s : State} {n : Nat} (hk : Keeps pq s) :
    Goes pq (execMediaArbiterWindowEnd n s) := by
  unfold execMediaArbiterWindowEnd
  repeat' (first
    | intro _
    | with_reducible assumption
    | with_reducible apply modHall_keeps
    | with_reducible apply wr_keeps
    | with_reducible apply goes_next
    | with_reducible apply ite_goes
    | with_reducible apply ite_keeps
    | with_reducible apply ite_fst_keeps
    | ((with_reducible show Seq.ok _ = true); assumption)
    | ((with_reducible show Tbl.wf _ _ = true); assumption)
    | ((with_reducible show List.length _ ≤ _); assumption)
    | split
    | dsimp only)

end Sys2Proof.Machine
end

