-- ==== Sys2Proof/Laws/KeepPantry.lean ====
section
/-!
SUPPORT. The invariant under the operations and commands of Pantry: each keeps it and the queue (Keeps); a command answers a next state (Goes).
-/
set_option linter.unusedTactic false
set_option linter.unreachableTactic false
set_option linter.unusedVariables false
namespace Sys2Proof.Machine

theorem emitCommit_keeps {pq : List Instr} {s : State} {tag : Nat} {c : Commit} (hk : Keeps pq s) :
    Keeps pq (emitCommit s tag c) := by
  unfold emitCommit
  repeat' (first
    | intro _
    | with_reducible assumption
    | with_reducible apply addDep_keeps
    | with_reducible apply mapChanges_keeps
    | with_reducible apply modPan_keeps
    | with_reducible apply panFlags_keeps
    | with_reducible apply ite_keeps
    | with_reducible apply ite_fst_keeps
    | ((with_reducible show Seq.ok _ = true); assumption)
    | ((with_reducible show Tbl.wf _ _ = true); assumption)
    | ((with_reducible show List.length _ ≤ _); assumption)
    | split
    | dsimp only)

theorem execOverlayEmission_goes {pq : List Instr} {s : State} {tag : Nat} (hk : Keeps pq s) :
    Goes pq (execOverlayEmission tag s) := by
  unfold execOverlayEmission
  repeat' (first
    | intro _
    | with_reducible assumption
    | with_reducible apply emitCommit_keeps
    | with_reducible apply goes_next
    | with_reducible apply ite_goes
    | with_reducible apply ite_keeps
    | with_reducible apply ite_fst_keeps
    | ((with_reducible show Seq.ok _ = true); assumption)
    | ((with_reducible show Tbl.wf _ _ = true); assumption)
    | ((with_reducible show List.length _ ≤ _); assumption)
    | split
    | dsimp only)

theorem execJournalBatchClose_goes {pq : List Instr} {s : State}  (hk : Keeps pq s) :
    Goes pq (execJournalBatchClose s) := by
  unfold execJournalBatchClose
  repeat' (first
    | intro _
    | with_reducible assumption
    | with_reducible apply closeBatch_keeps
    | with_reducible apply goes_next
    | with_reducible apply ite_goes
    | with_reducible apply ite_keeps
    | with_reducible apply ite_fst_keeps
    | ((with_reducible show Seq.ok _ = true); assumption)
    | ((with_reducible show Tbl.wf _ _ = true); assumption)
    | ((with_reducible show List.length _ ≤ _); assumption)
    | split
    | dsimp only)

theorem recDurable_keeps {pq : List Instr} {s : State} {e : Nat × JRec} (hk : Keeps pq s) :
    Keeps pq (recDurable s e) := by
  unfold recDurable
  repeat' (first
    | intro _
    | with_reducible assumption
    | with_reducible apply deferDurable_keeps
    | with_reducible apply eraseIfDue_keeps
    | with_reducible apply modNvm_keeps
    | with_reducible apply modPan_keeps
    | with_reducible apply modSuite_keeps
    | with_reducible apply ite_keeps
    | with_reducible apply ite_fst_keeps
    | ((with_reducible show Seq.ok _ = true); assumption)
    | ((with_reducible show Tbl.wf _ _ = true); assumption)
    | ((with_reducible show List.length _ ≤ _); assumption)
    | split
    | dsimp only)

theorem lapStep_keeps {pq : List Instr} {s : State}  (hk : Keeps pq s) :
    Keeps pq (lapStep s) := by
  unfold lapStep
  repeat' (first
    | intro _
    | with_reducible assumption
    | with_reducible apply jAppend_keeps
    | with_reducible apply modPan_keeps
    | with_reducible apply ite_keeps
    | with_reducible apply ite_fst_keeps
    | ((with_reducible show Seq.ok _ = true); assumption)
    | ((with_reducible show Tbl.wf _ _ = true); assumption)
    | ((with_reducible show List.length _ ≤ _); assumption)
    | split
    | dsimp only)

theorem execCheckpointSegmentCopy_goes {pq : List Instr} {s : State}  (hk : Keeps pq s) :
    Goes pq (execCheckpointSegmentCopy s) := by
  unfold execCheckpointSegmentCopy
  repeat' (first
    | intro _
    | with_reducible assumption
    | with_reducible apply lapStep_keeps
    | with_reducible apply goes_next
    | with_reducible apply ite_goes
    | with_reducible apply ite_keeps
    | with_reducible apply ite_fst_keeps
    | ((with_reducible show Seq.ok _ = true); assumption)
    | ((with_reducible show Tbl.wf _ _ = true); assumption)
    | ((with_reducible show List.length _ ≤ _); assumption)
    | split
    | dsimp only)

theorem finishLap_keeps {pq : List Instr} : ∀ (k : Nat) {s : State} , Keeps pq s → Keeps pq (finishLap k s ) := by
  intro k
  induction k with
  | zero =>
    intro s  hk
    unfold finishLap
    repeat' (first
    | intro _
    | with_reducible assumption
    | with_reducible apply lapStep_keeps
    | with_reducible apply ite_keeps
    | with_reducible apply ite_fst_keeps
    | ((with_reducible show Seq.ok _ = true); assumption)
    | ((with_reducible show Tbl.wf _ _ = true); assumption)
    | ((with_reducible show List.length _ ≤ _); assumption)
    | split
    | dsimp only)
  | succ k ih =>
    intro s  hk
    unfold finishLap
    repeat' (first
    | intro _
    | with_reducible assumption
    | with_reducible apply ih
    | intro _
    | with_reducible assumption
    | with_reducible apply lapStep_keeps
    | with_reducible apply ite_keeps
    | with_reducible apply ite_fst_keeps
    | ((with_reducible show Seq.ok _ = true); assumption)
    | ((with_reducible show Tbl.wf _ _ = true); assumption)
    | ((with_reducible show List.length _ ≤ _); assumption)
    | split
    | dsimp only)

theorem shutdownClean_keeps {pq : List Instr} {s : State}  (hk : Keeps pq s) :
    Keeps pq (shutdownClean s) := by
  unfold shutdownClean
  repeat' (first
    | intro _
    | with_reducible assumption
    | with_reducible apply closeBatch_keeps
    | with_reducible apply finishLap_keeps
    | with_reducible apply jAppend_keeps
    | with_reducible apply lapStep_keeps
    | with_reducible apply ite_keeps
    | with_reducible apply ite_fst_keeps
    | ((with_reducible show Seq.ok _ = true); assumption)
    | ((with_reducible show Tbl.wf _ _ = true); assumption)
    | ((with_reducible show List.length _ ≤ _); assumption)
    | split
    | dsimp only)

theorem shutdownCheck_keeps {pq : List Instr} {s : State}  (hk : Keeps pq s) :
    Keeps pq (shutdownCheck s) := by
  unfold shutdownCheck
  repeat' (first
    | intro _
    | with_reducible assumption
    | with_reducible apply each_keeps
    | with_reducible apply modHport_keeps
    | with_reducible apply shutdownClean_keeps
    | with_reducible apply ite_keeps
    | with_reducible apply ite_fst_keeps
    | ((with_reducible show Seq.ok _ = true); assumption)
    | ((with_reducible show Tbl.wf _ _ = true); assumption)
    | ((with_reducible show List.length _ ≤ _); assumption)
    | split
    | dsimp only)

theorem execJournalBatchDurable_goes {pq : List Instr} {s : State} {copy : Nat} (hk : Keeps pq s) :
    Goes pq (execJournalBatchDurable copy s) := by
  unfold execJournalBatchDurable
  repeat' (first
    | intro _
    | with_reducible assumption
    | with_reducible apply each_keeps
    | with_reducible apply journalDurable_keeps
    | with_reducible apply modPan_keeps
    | with_reducible apply recDurable_keeps
    | with_reducible apply shutdownCheck_keeps
    | with_reducible apply goes_next
    | with_reducible apply ite_goes
    | with_reducible apply ite_keeps
    | with_reducible apply ite_fst_keeps
    | ((with_reducible show Seq.ok _ = true); assumption)
    | ((with_reducible show Tbl.wf _ _ = true); assumption)
    | ((with_reducible show List.length _ ≤ _); assumption)
    | split
    | dsimp only)

theorem execConsolidationCommit_goes {pq : List Instr} {s : State} {suite base : Nat} (hk : Keeps pq s) :
    Goes pq (execConsolidationCommit suite base s) := by
  unfold execConsolidationCommit
  repeat' (first
    | intro _
    | with_reducible assumption
    | with_reducible apply mapChange_keeps
    | with_reducible apply modScu_keeps
    | with_reducible apply panFlags_keeps
    | with_reducible apply goes_next
    | with_reducible apply ite_goes
    | with_reducible apply ite_keeps
    | with_reducible apply ite_fst_keeps
    | ((with_reducible show Seq.ok _ = true); assumption)
    | ((with_reducible show Tbl.wf _ _ = true); assumption)
    | ((with_reducible show List.length _ ≤ _); assumption)
    | split
    | dsimp only)

theorem execRelocationCommit_goes {pq : List Instr} {s : State} {nsid first count suite0 unit0 suite1 unit1 : Nat} (hk : Keeps pq s) :
    Goes pq (execRelocationCommit nsid first count suite0 unit0 suite1 unit1 s) := by
  unfold execRelocationCommit
  repeat' (first
    | intro _
    | with_reducible assumption
    | with_reducible apply fdpNote_keeps
    | with_reducible apply mapChanges_keeps
    | with_reducible apply modScu_keeps
    | with_reducible apply goes_next
    | with_reducible apply ite_goes
    | with_reducible apply ite_keeps
    | with_reducible apply ite_fst_keeps
    | ((with_reducible show Seq.ok _ = true); assumption)
    | ((with_reducible show Tbl.wf _ _ = true); assumption)
    | ((with_reducible show List.length _ ≤ _); assumption)
    | split
    | dsimp only)

theorem onLine_keeps {pq : List Instr} {s : State} {la : Nat} {f : CLine → Option CLine} (hk : Keeps pq s) :
    Keeps pq (onLine s la f) := by
  unfold onLine
  repeat' (first
    | intro _
    | with_reducible assumption
    | with_reducible apply modPan_keeps
    | with_reducible apply ite_keeps
    | with_reducible apply ite_fst_keeps
    | ((with_reducible show Seq.ok _ = true); assumption)
    | ((with_reducible show Tbl.wf _ _ = true); assumption)
    | ((with_reducible show List.length _ ≤ _); assumption)
    | split
    | dsimp only)

theorem maintAct_keeps {pq : List Instr} {s : State} {m : MaintOp} (hk : Keeps pq s) :
    Keeps pq (maintAct s m) := by
  unfold maintAct
  repeat' (first
    | intro _
    | with_reducible assumption
    | with_reducible apply modPan_keeps
    | with_reducible apply onLine_keeps
    | with_reducible apply wr_keeps
    | with_reducible apply ite_keeps
    | with_reducible apply ite_fst_keeps
    | ((with_reducible show Seq.ok _ = true); assumption)
    | ((with_reducible show Tbl.wf _ _ = true); assumption)
    | ((with_reducible show List.length _ ≤ _); assumption)
    | split
    | dsimp only)

theorem maintWrite_keeps {pq : List Instr} {s : State} {op la : Nat} (hk : Keeps pq s) :
    Keeps pq (maintWrite s op la) := by
  unfold maintWrite
  repeat' (first
    | intro _
    | with_reducible assumption
    | with_reducible apply maintAct_keeps
    | with_reducible apply modPan_keeps
    | with_reducible apply set1_keeps
    | with_reducible apply ite_keeps
    | with_reducible apply ite_fst_keeps
    | ((with_reducible show Seq.ok _ = true); assumption)
    | ((with_reducible show Tbl.wf _ _ = true); assumption)
    | ((with_reducible show List.length _ ≤ _); assumption)
    | split
    | dsimp only)

theorem execCacheFillComplete_goes {pq : List Instr} {s : State} {la : Nat} (hk : Keeps pq s) :
    Goes pq (execCacheFillComplete la s) := by
  unfold execCacheFillComplete
  repeat' (first
    | intro _
    | with_reducible assumption
    | with_reducible apply each_keeps
    | with_reducible apply maintAct_keeps
    | with_reducible apply modPan_keeps
    | with_reducible apply onLine_keeps
    | with_reducible apply goes_next
    | with_reducible apply ite_goes
    | with_reducible apply ite_keeps
    | with_reducible apply ite_fst_keeps
    | ((with_reducible show Seq.ok _ = true); assumption)
    | ((with_reducible show Tbl.wf _ _ = true); assumption)
    | ((with_reducible show List.length _ ≤ _); assumption)
    | split
    | dsimp only)

theorem execCacheWritebackComplete_goes {pq : List Instr} {s : State} {la : Nat} (hk : Keeps pq s) :
    Goes pq (execCacheWritebackComplete la s) := by
  unfold execCacheWritebackComplete
  repeat' (first
    | intro _
    | with_reducible assumption
    | with_reducible apply onLine_keeps
    | with_reducible apply goes_next
    | with_reducible apply ite_goes
    | with_reducible apply ite_keeps
    | with_reducible apply ite_fst_keeps
    | ((with_reducible show Seq.ok _ = true); assumption)
    | ((with_reducible show Tbl.wf _ _ = true); assumption)
    | ((with_reducible show List.length _ ≤ _); assumption)
    | split
    | dsimp only)

theorem execPanMaintClean_goes {pq : List Instr} {s : State} {la : Nat} (hk : Keeps pq s) :
    Goes pq (execPanMaintClean la s) := by
  unfold execPanMaintClean
  repeat' (first
    | intro _
    | with_reducible assumption
    | with_reducible apply maintWrite_keeps
    | with_reducible apply goes_next
    | with_reducible apply ite_goes
    | with_reducible apply ite_keeps
    | with_reducible apply ite_fst_keeps
    | ((with_reducible show Seq.ok _ = true); assumption)
    | ((with_reducible show Tbl.wf _ _ = true); assumption)
    | ((with_reducible show List.length _ ≤ _); assumption)
    | split
    | dsimp only)

theorem execPanMaintInv_goes {pq : List Instr} {s : State} {la : Nat} (hk : Keeps pq s) :
    Goes pq (execPanMaintInv la s) := by
  unfold execPanMaintInv
  repeat' (first
    | intro _
    | with_reducible assumption
    | with_reducible apply maintWrite_keeps
    | with_reducible apply goes_next
    | with_reducible apply ite_goes
    | with_reducible apply ite_keeps
    | with_reducible apply ite_fst_keeps
    | ((with_reducible show Seq.ok _ = true); assumption)
    | ((with_reducible show Tbl.wf _ _ = true); assumption)
    | ((with_reducible show List.length _ ≤ _); assumption)
    | split
    | dsimp only)

theorem execPanMaintCleanInv_goes {pq : List Instr} {s : State} {la : Nat} (hk : Keeps pq s) :
    Goes pq (execPanMaintCleanInv la s) := by
  unfold execPanMaintCleanInv
  repeat' (first
    | intro _
    | with_reducible assumption
    | with_reducible apply maintWrite_keeps
    | with_reducible apply goes_next
    | with_reducible apply ite_goes
    | with_reducible apply ite_keeps
    | with_reducible apply ite_fst_keeps
    | ((with_reducible show Seq.ok _ = true); assumption)
    | ((with_reducible show Tbl.wf _ _ = true); assumption)
    | ((with_reducible show List.length _ ≤ _); assumption)
    | split
    | dsimp only)

theorem execPanMaintCleanAll_goes {pq : List Instr} {s : State}  (hk : Keeps pq s) :
    Goes pq (execPanMaintCleanAll s) := by
  unfold execPanMaintCleanAll
  repeat' (first
    | intro _
    | with_reducible assumption
    | with_reducible apply maintWrite_keeps
    | with_reducible apply goes_next
    | with_reducible apply ite_goes
    | with_reducible apply ite_keeps
    | with_reducible apply ite_fst_keeps
    | ((with_reducible show Seq.ok _ = true); assumption)
    | ((with_reducible show Tbl.wf _ _ = true); assumption)
    | ((with_reducible show List.length _ ≤ _); assumption)
    | split
    | dsimp only)

theorem execPanInvAll_goes {pq : List Instr} {s : State}  (hk : Keeps pq s) :
    Goes pq (execPanInvAll s) := by
  unfold execPanInvAll
  repeat' (first
    | intro _
    | with_reducible assumption
    | with_reducible apply modPan_keeps
    | with_reducible apply goes_next
    | with_reducible apply ite_goes
    | with_reducible apply ite_keeps
    | with_reducible apply ite_fst_keeps
    | ((with_reducible show Seq.ok _ = true); assumption)
    | ((with_reducible show Tbl.wf _ _ = true); assumption)
    | ((with_reducible show List.length _ ≤ _); assumption)
    | split
    | dsimp only)

theorem execInvalidateAllDone_goes {pq : List Instr} {s : State}  (hk : Keeps pq s) :
    Goes pq (execInvalidateAllDone s) := by
  unfold execInvalidateAllDone
  repeat' (first
    | intro _
    | with_reducible assumption
    | with_reducible apply clr1_keeps
    | with_reducible apply modPan_keeps
    | with_reducible apply set1_keeps
    | with_reducible apply goes_next
    | with_reducible apply ite_goes
    | with_reducible apply ite_keeps
    | with_reducible apply ite_fst_keeps
    | ((with_reducible show Seq.ok _ = true); assumption)
    | ((with_reducible show Tbl.wf _ _ = true); assumption)
    | ((with_reducible show List.length _ ≤ _); assumption)
    | split
    | dsimp only)

theorem execPantryEnable_goes {pq : List Instr} {s : State}  (hk : Keeps pq s) :
    Goes pq (execPantryEnable s) := by
  unfold execPantryEnable
  repeat' (first
    | intro _
    | with_reducible assumption
    | with_reducible apply set1_keeps
    | with_reducible apply goes_next
    | with_reducible apply ite_goes
    | with_reducible apply ite_keeps
    | with_reducible apply ite_fst_keeps
    | ((with_reducible show Seq.ok _ = true); assumption)
    | ((with_reducible show Tbl.wf _ _ = true); assumption)
    | ((with_reducible show List.length _ ≤ _); assumption)
    | split
    | dsimp only)

theorem execPantryDisable_goes {pq : List Instr} {s : State}  (hk : Keeps pq s) :
    Goes pq (execPantryDisable s) := by
  unfold execPantryDisable
  repeat' (first
    | intro _
    | with_reducible assumption
    | with_reducible apply clr1_keeps
    | with_reducible apply modPan_keeps
    | with_reducible apply goes_next
    | with_reducible apply ite_goes
    | with_reducible apply ite_keeps
    | with_reducible apply ite_fst_keeps
    | ((with_reducible show Seq.ok _ = true); assumption)
    | ((with_reducible show Tbl.wf _ _ = true); assumption)
    | ((with_reducible show List.length _ ≤ _); assumption)
    | split
    | dsimp only)

theorem execMapSegmentRepair_goes {pq : List Instr} {s : State} {seg : Nat} {copyOk prevOk : Bool} (hk : Keeps pq s) :
    Goes pq (execMapSegmentRepair seg copyOk prevOk s) := by
  unfold execMapSegmentRepair
  repeat' (first
    | intro _
    | with_reducible assumption
    | with_reducible apply each_keeps
    | with_reducible apply modPan_keeps
    | with_reducible apply rangeLost_keeps
    | with_reducible apply foldl_keeps
    | with_reducible apply foldl_fst_keeps
    | with_reducible apply goes_next
    | with_reducible apply ite_goes
    | with_reducible apply ite_keeps
    | with_reducible apply ite_fst_keeps
    | ((with_reducible show Seq.ok _ = true); assumption)
    | ((with_reducible show Tbl.wf _ _ = true); assumption)
    | ((with_reducible show List.length _ ≤ _); assumption)
    | split
    | dsimp only)

theorem execEraseMarkAppend_goes {pq : List Instr} {s : State} {suite : Nat} (hk : Keeps pq s) :
    Goes pq (execEraseMarkAppend suite s) := by
  unfold execEraseMarkAppend
  repeat' (first
    | intro _
    | with_reducible assumption
    | with_reducible apply jAppend_keeps
    | with_reducible apply modPan_keeps
    | with_reducible apply goes_next
    | with_reducible apply ite_goes
    | with_reducible apply ite_keeps
    | with_reducible apply ite_fst_keeps
    | ((with_reducible show Seq.ok _ = true); assumption)
    | ((with_reducible show Tbl.wf _ _ = true); assumption)
    | ((with_reducible show List.length _ ≤ _); assumption)
    | split
    | dsimp only)

end Sys2Proof.Machine
end

