-- ==== Sys2Proof/Laws/KeepCasement.lean ====
section
/-!
SUPPORT. The invariant under the operations and commands of Casement: each keeps it and the queue (Keeps); a command answers a next state (Goes).
-/
set_option linter.unusedTactic false
set_option linter.unreachableTactic false
set_option linter.unusedVariables false
namespace Sys2Proof.Machine

theorem putBurst_keeps {pq : List Instr} {s : State} {a : Nat} {b : Burst} (hk : Keeps pq s) :
    Keeps pq (putBurst s a b) := by
  unfold putBurst
  repeat' (first
    | intro _
    | with_reducible assumption
    | with_reducible apply modBsm_keeps
    | with_reducible apply ite_keeps
    | with_reducible apply ite_fst_keeps
    | ((with_reducible show Seq.ok _ = true); assumption)
    | ((with_reducible show Tbl.wf _ _ = true); assumption)
    | ((with_reducible show List.length _ ≤ _); assumption)
    | split
    | dsimp only)

theorem bsmLog_keeps {pq : List Instr} {s : State} {cls arr flags word synd : Nat} (hk : Keeps pq s) :
    Keeps pq (bsmLog s cls arr flags word synd) := by
  unfold bsmLog
  repeat' (first
    | intro _
    | with_reducible assumption
    | with_reducible apply modBsm_keeps
    | with_reducible apply wr_keeps
    | with_reducible apply ite_keeps
    | with_reducible apply ite_fst_keeps
    | ((with_reducible show Seq.ok _ = true); assumption)
    | ((with_reducible show Tbl.wf _ _ = true); assumption)
    | ((with_reducible show List.length _ ≤ _); assumption)
    | split
    | dsimp only)

theorem bsmCount_keeps {pq : List Instr} {s : State} {cls arr word : Nat} (hk : Keeps pq s) :
    Keeps pq (bsmCount s cls arr word) := by
  unfold bsmCount
  repeat' (first
    | intro _
    | with_reducible assumption
    | with_reducible apply bump_keeps
    | with_reducible apply ite_keeps
    | with_reducible apply ite_fst_keeps
    | ((with_reducible show Seq.ok _ = true); assumption)
    | ((with_reducible show Tbl.wf _ _ = true); assumption)
    | ((with_reducible show List.length _ ≤ _); assumption)
    | split
    | dsimp only)

theorem memoryUe_keeps {pq : List Instr} {s : State} {arr word synd : Nat} (hk : Keeps pq s) :
    Keeps pq (memoryUe s arr word synd) := by
  unfold memoryUe
  repeat' (first
    | intro _
    | with_reducible assumption
    | with_reducible apply modBsm_keeps
    | with_reducible apply post_keeps
    | with_reducible apply ite_keeps
    | with_reducible apply ite_fst_keeps
    | ((with_reducible show Seq.ok _ = true); assumption)
    | ((with_reducible show Tbl.wf _ _ = true); assumption)
    | ((with_reducible show List.length _ ≤ _); assumption)
    | split
    | dsimp only)

theorem retireSub_keeps {pq : List Instr} {s : State} {k cause : Nat} (hk : Keeps pq s) :
    Keeps pq (retireSub s k cause) := by
  unfold retireSub
  repeat' (first
    | intro _
    | with_reducible assumption
    | with_reducible apply each_keeps
    | with_reducible apply modHport_keeps
    | with_reducible apply wr_keeps
    | with_reducible apply ite_keeps
    | with_reducible apply ite_fst_keeps
    | ((with_reducible show Seq.ok _ = true); assumption)
    | ((with_reducible show Tbl.wf _ _ = true); assumption)
    | ((with_reducible show List.length _ ≤ _); assumption)
    | split
    | dsimp only)

theorem retrainSub_keeps {pq : List Instr} {s : State} {k : Nat} (hk : Keeps pq s) :
    Keeps pq (retrainSub s k).1 := by
  unfold retrainSub
  repeat' (first
    | intro _
    | with_reducible assumption
    | with_reducible apply bump_keeps
    | with_reducible apply modBsm_keeps
    | with_reducible apply retireSub_keeps
    | with_reducible apply wr_keeps
    | with_reducible apply ite_keeps
    | with_reducible apply ite_fst_keeps
    | ((with_reducible show Seq.ok _ = true); assumption)
    | ((with_reducible show Tbl.wf _ _ = true); assumption)
    | ((with_reducible show List.length _ ≤ _); assumption)
    | split
    | dsimp only)

theorem checkCas_keeps {pq : List Instr} {s : State} {arr word : Nat} {scrub : Bool} {w : Casement} (hk : Keeps pq s) :
    Keeps pq (checkCas s arr word scrub w).1 := by
  unfold checkCas
  repeat' (first
    | intro _
    | with_reducible assumption
    | with_reducible apply bsmCount_keeps
    | with_reducible apply bsmLog_keeps
    | with_reducible apply memoryUe_keeps
    | with_reducible apply ite_keeps
    | with_reducible apply ite_fst_keeps
    | ((with_reducible show Seq.ok _ = true); assumption)
    | ((with_reducible show Tbl.wf _ _ = true); assumption)
    | ((with_reducible show List.length _ ≤ _); assumption)
    | split
    | dsimp only)

theorem lintelOnce_keeps {pq : List Instr} {s : State} {k : Nat} (hk : Keeps pq s) :
    Keeps pq (lintelOnce s k) := by
  unfold lintelOnce
  repeat' (first
    | intro _
    | with_reducible assumption
    | with_reducible apply modBsm_keeps
    | with_reducible apply retrainSub_keeps
    | with_reducible refine fst_keeps (by assumption) ?_
    | with_reducible apply ite_keeps
    | with_reducible apply ite_fst_keeps
    | ((with_reducible show Seq.ok _ = true); assumption)
    | ((with_reducible show Tbl.wf _ _ = true); assumption)
    | ((with_reducible show List.length _ ≤ _); assumption)
    | split
    | dsimp only)

theorem readCopy_keeps {pq : List Instr} {s : State} {a : Nat} {cell bus : List Nat} {scrub rewrite : Bool} (hk : Keeps pq s) :
    Keeps pq (readCopy s a cell bus scrub rewrite).1 := by
  unfold readCopy
  repeat' (first
    | intro _
    | with_reducible assumption
    | with_reducible apply bsmLog_keeps
    | with_reducible apply checkCas_keeps
    | with_reducible apply lintelOnce_keeps
    | with_reducible apply memoryUe_keeps
    | with_reducible apply putBurst_keeps
    | with_reducible refine fst_keeps (by assumption) ?_
    | with_reducible apply ite_keeps
    | with_reducible apply ite_fst_keeps
    | ((with_reducible show Seq.ok _ = true); assumption)
    | ((with_reducible show Tbl.wf _ _ = true); assumption)
    | ((with_reducible show List.length _ ≤ _); assumption)
    | split
    | dsimp only)

theorem ringFault_keeps {pq : List Instr} {s : State}  (hk : Keeps pq s) :
    Keeps pq (ringFault s) := by
  unfold ringFault
  repeat' (first
    | intro _
    | with_reducible assumption
    | with_reducible apply each_keeps
    | with_reducible apply modHport_keeps
    | with_reducible apply set1_keeps
    | with_reducible apply ite_keeps
    | with_reducible apply ite_fst_keeps
    | ((with_reducible show Seq.ok _ = true); assumption)
    | ((with_reducible show Tbl.wf _ _ = true); assumption)
    | ((with_reducible show List.length _ ≤ _); assumption)
    | split
    | dsimp only)

theorem contentLost_keeps {pq : List Instr} {s : State} {c : DramContent} (hk : Keeps pq s) : Keeps pq (contentLost s c) := by
  cases c <;> unfold contentLost
  all_goals repeat' (first
    | intro _
    | with_reducible assumption
    | with_reducible apply modNvm_keeps
    | with_reducible apply modScu_keeps
    | with_reducible apply ite_keeps
    | with_reducible apply ite_fst_keeps
    | ((with_reducible show Seq.ok _ = true); assumption)
    | ((with_reducible show Tbl.wf _ _ = true); assumption)
    | ((with_reducible show List.length _ ≤ _); assumption)
    | split
    | dsimp only)

theorem readBurst_keeps {pq : List Instr} {s : State} {a : Nat} {second scrub : Bool} {cell bus : List Nat} {content : DramContent} (hk : Keeps pq s) :
    Keeps pq (readBurst s a second scrub cell bus content).1 := by
  unfold readBurst
  repeat' (first
    | intro _
    | with_reducible assumption
    | with_reducible apply contentLost_keeps
    | with_reducible apply putBurst_keeps
    | with_reducible apply readCopy_keeps
    | with_reducible apply ringFault_keeps
    | with_reducible refine fst_keeps (by assumption) ?_
    | with_reducible apply ite_keeps
    | with_reducible apply ite_fst_keeps
    | ((with_reducible show Seq.ok _ = true); assumption)
    | ((with_reducible show Tbl.wf _ _ = true); assumption)
    | ((with_reducible show List.length _ ≤ _); assumption)
    | split
    | dsimp only)

theorem sramLost_keeps {pq : List Instr} {s : State} {arr word : Nat} (hk : Keeps pq s) :
    Keeps pq (sramLost s arr word) := by
  unfold sramLost
  repeat' (first
    | intro _
    | with_reducible assumption
    | with_reducible apply modSeq_keeps
    | with_reducible apply slotUe_keeps
    | with_reducible apply setReg_ok
    | with_reducible apply refill_ok
    | with_reducible apply deliver_ok
    | with_reducible apply ite_keeps
    | with_reducible apply ite_fst_keeps
    | ((with_reducible show Seq.ok _ = true); assumption)
    | ((with_reducible show Tbl.wf _ _ = true); assumption)
    | ((with_reducible show List.length _ ≤ _); assumption)
    | refine ok_mem (by assumption) (by first | exact Or.inl rfl | exact Or.inr rfl) (by rfl) ?_ ?_
    | with_reducible apply Tbl.wf_writeBytes
    | with_reducible apply Tbl.wf_setD
    | with_reducible apply Tbl.wf_filter
    | with_reducible apply Tbl.wf_foldl
    | exact Tbl.wf_nil _
    | split
    | dsimp only)

theorem sweepWord_keeps {pq : List Instr} {s : State} {arr word : Nat} {st sm : BitVec 16} {ss poison scrub : Bool} (hk : Keeps pq s) :
    Keeps pq (sweepWord s arr word st sm ss poison scrub) := by
  unfold sweepWord
  repeat' (first
    | intro _
    | with_reducible assumption
    | with_reducible apply bsmCount_keeps
    | with_reducible apply bsmLog_keeps
    | with_reducible apply memoryUe_keeps
    | with_reducible apply sramLost_keeps
    | with_reducible apply ite_keeps
    | with_reducible apply ite_fst_keeps
    | ((with_reducible show Seq.ok _ = true); assumption)
    | ((with_reducible show Tbl.wf _ _ = true); assumption)
    | ((with_reducible show List.length _ ≤ _); assumption)
    | split
    | dsimp only)

end Sys2Proof.Machine
end

