-- ==== Sys2Proof/Laws/KeepBasement.lean ====
section
/-!
SUPPORT. The invariant under the operations and commands of Basement: each keeps it and the queue (Keeps); a command answers a next state (Goes).
-/
set_option linter.unusedTactic false
set_option linter.unreachableTactic false
set_option linter.unusedVariables false
namespace Sys2Proof.Machine

theorem execDramBurstRead_goes {pq : List Instr} {s : State} {a : Nat} {second : Bool} {cell bus : List Nat} {content : DramContent} (hk : Keeps pq s) :
    Goes pq (execDramBurstRead a second cell bus content s) := by
  unfold execDramBurstRead
  repeat' (first
    | intro _
    | with_reducible assumption
    | with_reducible apply readBurst_keeps
    | with_reducible apply when_keeps
    | with_reducible refine fst_keeps (by assumption) ?_
    | with_reducible apply goes_next
    | with_reducible apply ite_goes
    | with_reducible apply ite_keeps
    | with_reducible apply ite_fst_keeps
    | ((with_reducible show Seq.ok _ = true); assumption)
    | ((with_reducible show Tbl.wf _ _ = true); assumption)
    | ((with_reducible show List.length _ ≤ _); assumption)
    | split
    | dsimp only)

theorem execSramSweep_goes {pq : List Instr} {s : State} {arr word st sm : Nat} {ss poison : Bool} (hk : Keeps pq s) :
    Goes pq (execSramSweep arr word st sm ss poison s) := by
  unfold execSramSweep
  repeat' (first
    | intro _
    | with_reducible assumption
    | with_reducible apply sweepWord_keeps
    | with_reducible apply when_keeps
    | with_reducible apply goes_next
    | with_reducible apply ite_goes
    | with_reducible apply ite_keeps
    | with_reducible apply ite_fst_keeps
    | ((with_reducible show Seq.ok _ = true); assumption)
    | ((with_reducible show Tbl.wf _ _ = true); assumption)
    | ((with_reducible show List.length _ ≤ _); assumption)
    | split
    | dsimp only)

theorem scrubNext_keeps {pq : List Instr} {s : State}  (hk : Keeps pq s) :
    Keeps pq (scrubNext s) := by
  unfold scrubNext
  repeat' (first
    | intro _
    | with_reducible assumption
    | with_reducible apply clr1_keeps
    | with_reducible apply modBsm_keeps
    | with_reducible apply wr_keeps
    | with_reducible apply ite_keeps
    | with_reducible apply ite_fst_keeps
    | ((with_reducible show Seq.ok _ = true); assumption)
    | ((with_reducible show Tbl.wf _ _ = true); assumption)
    | ((with_reducible show List.length _ ≤ _); assumption)
    | split
    | dsimp only)

theorem execScrubRead_goes {pq : List Instr} {s : State} {cell bus : List Nat} {content : DramContent} (hk : Keeps pq s) :
    Goes pq (execScrubRead cell bus content s) := by
  unfold execScrubRead
  repeat' (first
    | intro _
    | with_reducible assumption
    | with_reducible apply readBurst_keeps
    | with_reducible apply scrubNext_keeps
    | with_reducible apply when_keeps
    | with_reducible refine fst_keeps (by assumption) ?_
    | with_reducible apply goes_next
    | with_reducible apply ite_goes
    | with_reducible apply ite_keeps
    | with_reducible apply ite_fst_keeps
    | ((with_reducible show Seq.ok _ = true); assumption)
    | ((with_reducible show Tbl.wf _ _ = true); assumption)
    | ((with_reducible show List.length _ ≤ _); assumption)
    | split
    | dsimp only)

theorem execScrubLateExpiry_goes {pq : List Instr} {s : State}  (hk : Keeps pq s) :
    Goes pq (execScrubLateExpiry s) := by
  unfold execScrubLateExpiry
  repeat' (first
    | intro _
    | with_reducible assumption
    | with_reducible apply post_keeps
    | with_reducible apply set1_keeps
    | with_reducible apply when_keeps
    | with_reducible apply goes_next
    | with_reducible apply ite_goes
    | with_reducible apply ite_keeps
    | with_reducible apply ite_fst_keeps
    | ((with_reducible show Seq.ok _ = true); assumption)
    | ((with_reducible show Tbl.wf _ _ = true); assumption)
    | ((with_reducible show List.length _ ≤ _); assumption)
    | split
    | dsimp only)

theorem dramClear_keeps {pq : List Instr} {s : State}  (hk : Keeps pq s) :
    Keeps pq (dramClear s) := by
  unfold dramClear
  repeat' (first
    | intro _
    | with_reducible assumption
    | with_reducible apply clr1_keeps
    | with_reducible apply modBsm_keeps
    | with_reducible apply set1_keeps
    | with_reducible apply when_keeps
    | with_reducible apply wr_keeps
    | with_reducible apply ite_keeps
    | with_reducible apply ite_fst_keeps
    | ((with_reducible show Seq.ok _ = true); assumption)
    | ((with_reducible show Tbl.wf _ _ = true); assumption)
    | ((with_reducible show List.length _ ≤ _); assumption)
    | split
    | dsimp only)

theorem dramCleared_keeps {pq : List Instr} {s : State}  (hk : Keeps pq s) :
    Keeps pq (dramCleared s) := by
  unfold dramCleared
  repeat' (first
    | intro _
    | with_reducible assumption
    | with_reducible apply clr1_keeps
    | with_reducible apply modBsm_keeps
    | with_reducible apply set1_keeps
    | with_reducible apply when_keeps
    | with_reducible apply ite_keeps
    | with_reducible apply ite_fst_keeps
    | ((with_reducible show Seq.ok _ = true); assumption)
    | ((with_reducible show Tbl.wf _ _ = true); assumption)
    | ((with_reducible show List.length _ ≤ _); assumption)
    | split
    | dsimp only)

theorem execDramClear_goes {pq : List Instr} {s : State}  (hk : Keeps pq s) :
    Goes pq (execDramClear s) := by
  unfold execDramClear
  repeat' (first
    | intro _
    | with_reducible assumption
    | with_reducible apply dramClear_keeps
    | with_reducible apply goes_next
    | with_reducible apply ite_goes
    | with_reducible apply ite_keeps
    | with_reducible apply ite_fst_keeps
    | ((with_reducible show Seq.ok _ = true); assumption)
    | ((with_reducible show Tbl.wf _ _ = true); assumption)
    | ((with_reducible show List.length _ ≤ _); assumption)
    | split
    | dsimp only)

theorem execDramClearDone_goes {pq : List Instr} {s : State}  (hk : Keeps pq s) :
    Goes pq (execDramClearDone s) := by
  unfold execDramClearDone
  repeat' (first
    | intro _
    | with_reducible assumption
    | with_reducible apply dramCleared_keeps
    | with_reducible apply goes_next
    | with_reducible apply ite_goes
    | with_reducible apply ite_keeps
    | with_reducible apply ite_fst_keeps
    | ((with_reducible show Seq.ok _ = true); assumption)
    | ((with_reducible show Tbl.wf _ _ = true); assumption)
    | ((with_reducible show List.length _ ≤ _); assumption)
    | split
    | dsimp only)

theorem subRetired_keeps {pq : List Instr} {s : State} {k : Nat} {running : Bool} (hk : Keeps pq s) :
    Keeps pq (subRetired s k running) := by
  unfold subRetired
  repeat' (first
    | intro _
    | with_reducible assumption
    | with_reducible apply modBsm_keeps
    | with_reducible apply modClo_keeps
    | with_reducible apply restartAfterLoss_keeps
    | with_reducible apply ite_keeps
    | with_reducible apply ite_fst_keeps
    | ((with_reducible show Seq.ok _ = true); assumption)
    | ((with_reducible show Tbl.wf _ _ = true); assumption)
    | ((with_reducible show List.length _ ≤ _); assumption)
    | split
    | dsimp only)

theorem execSubchannelRetire_goes {pq : List Instr} {s : State} {k : Nat} (hk : Keeps pq s) :
    Goes pq (execSubchannelRetire k s) := by
  unfold execSubchannelRetire
  repeat' (first
    | intro _
    | with_reducible assumption
    | with_reducible apply retireSub_keeps
    | with_reducible apply subRetired_keeps
    | with_reducible apply when_keeps
    | with_reducible apply wr_keeps
    | with_reducible apply goes_next
    | with_reducible apply ite_goes
    | with_reducible apply ite_keeps
    | with_reducible apply ite_fst_keeps
    | ((with_reducible show Seq.ok _ = true); assumption)
    | ((with_reducible show Tbl.wf _ _ = true); assumption)
    | ((with_reducible show List.length _ ≤ _); assumption)
    | split
    | dsimp only)

theorem execDdrAlert_goes {pq : List Instr} {s : State} {k : Nat} {same : Bool} (hk : Keeps pq s) :
    Goes pq (execDdrAlert k same s) := by
  unfold execDdrAlert
  repeat' (first
    | intro _
    | with_reducible assumption
    | with_reducible apply bsmLog_keeps
    | with_reducible apply bump_keeps
    | with_reducible apply modBsm_keeps
    | with_reducible apply retrainSub_keeps
    | with_reducible apply subRetired_keeps
    | with_reducible apply when_keeps
    | with_reducible refine fst_keeps (by assumption) ?_
    | with_reducible apply goes_next
    | with_reducible apply ite_goes
    | with_reducible apply ite_keeps
    | with_reducible apply ite_fst_keeps
    | ((with_reducible show Seq.ok _ = true); assumption)
    | ((with_reducible show Tbl.wf _ _ = true); assumption)
    | ((with_reducible show List.length _ ≤ _); assumption)
    | split
    | dsimp only)

theorem execSubchannelRetrainTimeout_goes {pq : List Instr} {s : State} {k : Nat} (hk : Keeps pq s) :
    Goes pq (execSubchannelRetrainTimeout k s) := by
  unfold execSubchannelRetrainTimeout
  repeat' (first
    | intro _
    | with_reducible assumption
    | with_reducible apply retrainSub_keeps
    | with_reducible apply subRetired_keeps
    | with_reducible apply when_keeps
    | with_reducible refine fst_keeps (by assumption) ?_
    | with_reducible apply goes_next
    | with_reducible apply ite_goes
    | with_reducible apply ite_keeps
    | with_reducible apply ite_fst_keeps
    | ((with_reducible show Seq.ok _ = true); assumption)
    | ((with_reducible show Tbl.wf _ _ = true); assumption)
    | ((with_reducible show List.length _ ≤ _); assumption)
    | split
    | dsimp only)

theorem execSubchannelRetrainDone_goes {pq : List Instr} {s : State} {k : Nat} (hk : Keeps pq s) :
    Goes pq (execSubchannelRetrainDone k s) := by
  unfold execSubchannelRetrainDone
  repeat' (first
    | intro _
    | with_reducible assumption
    | with_reducible apply when_keeps
    | with_reducible apply wr_keeps
    | with_reducible apply goes_next
    | with_reducible apply ite_goes
    | with_reducible apply ite_keeps
    | with_reducible apply ite_fst_keeps
    | ((with_reducible show Seq.ok _ = true); assumption)
    | ((with_reducible show Tbl.wf _ _ = true); assumption)
    | ((with_reducible show List.length _ ≤ _); assumption)
    | split
    | dsimp only)

theorem execBsmRemapWrite_goes {pq : List Instr} {s : State} {j : Nat} {v : U64} (hk : Keeps pq s) :
    Goes pq (execBsmRemapWrite j v s) := by
  unfold execBsmRemapWrite
  repeat' (first
    | intro _
    | with_reducible assumption
    | with_reducible apply modBsm_keeps
    | with_reducible apply set1_keeps
    | with_reducible apply when_keeps
    | with_reducible apply wr_keeps
    | with_reducible apply goes_next
    | with_reducible apply ite_goes
    | with_reducible apply ite_keeps
    | with_reducible apply ite_fst_keeps
    | ((with_reducible show Seq.ok _ = true); assumption)
    | ((with_reducible show Tbl.wf _ _ = true); assumption)
    | ((with_reducible show List.length _ ≤ _); assumption)
    | split
    | dsimp only)

theorem execRemapCopyDone_goes {pq : List Instr} {s : State} {j : Nat} (hk : Keeps pq s) :
    Goes pq (execRemapCopyDone j s) := by
  unfold execRemapCopyDone
  repeat' (first
    | intro _
    | with_reducible assumption
    | with_reducible apply clr1_keeps
    | with_reducible apply each_keeps
    | with_reducible apply modBsm_keeps
    | with_reducible apply putBurst_keeps
    | with_reducible apply set1_keeps
    | with_reducible apply wr_keeps
    | with_reducible apply goes_next
    | with_reducible apply ite_goes
    | with_reducible apply ite_keeps
    | with_reducible apply ite_fst_keeps
    | ((with_reducible show Seq.ok _ = true); assumption)
    | ((with_reducible show Tbl.wf _ _ = true); assumption)
    | ((with_reducible show List.length _ ≤ _); assumption)
    | split
    | dsimp only)

theorem execContextStoreUe_goes {pq : List Instr} {s : State} {n : Nat} (hk : Keeps pq s) :
    Goes pq (execContextStoreUe n s) := by
  unfold execContextStoreUe
  repeat' (first
    | intro _
    | with_reducible assumption
    | with_reducible apply bsmCount_keeps
    | with_reducible apply bsmLog_keeps
    | with_reducible apply cutWriter_keeps
    | with_reducible apply memoryUe_keeps
    | with_reducible apply when_keeps
    | with_reducible apply goes_next
    | with_reducible apply ite_goes
    | with_reducible apply ite_keeps
    | with_reducible apply ite_fst_keeps
    | ((with_reducible show Seq.ok _ = true); assumption)
    | ((with_reducible show Tbl.wf _ _ = true); assumption)
    | ((with_reducible show List.length _ ≤ _); assumption)
    | split
    | dsimp only)

end Sys2Proof.Machine
end

