-- ==== Sys2Proof/Laws/KeepLarder.lean ====
section
/-!
SUPPORT. The invariant under the operations and commands of Larder: each keeps it and the queue (Keeps); a command answers a next state (Goes).
-/
set_option linter.unusedTactic false
set_option linter.unreachableTactic false
set_option linter.unusedVariables false
namespace Sys2Proof.Machine

theorem execRebuildComplete_goes {pq : List Instr} {s : State} {f row m : Nat} (hk : Keeps pq s) :
    Goes pq (execRebuildComplete f row m s) := by
  unfold execRebuildComplete
  repeat' (first
    | intro _
    | with_reducible assumption
    | with_reducible apply rebuildComplete_keeps
    | with_reducible apply goes_next
    | with_reducible apply ite_goes
    | with_reducible apply ite_keeps
    | with_reducible apply ite_fst_keeps
    | ((with_reducible show Seq.ok _ = true); assumption)
    | ((with_reducible show Tbl.wf _ _ = true); assumption)
    | ((with_reducible show List.length _ ≤ _); assumption)
    | split
    | dsimp only)

theorem execLarderSlotUe_goes {pq : List Instr} {s : State} {k : Nat} (hk : Keeps pq s) :
    Goes pq (execLarderSlotUe k s) := by
  unfold execLarderSlotUe
  repeat' (first
    | intro _
    | with_reducible assumption
    | with_reducible apply slotUe_keeps
    | with_reducible apply goes_next
    | with_reducible apply ite_goes
    | with_reducible apply ite_keeps
    | with_reducible apply ite_fst_keeps
    | ((with_reducible show Seq.ok _ = true); assumption)
    | ((with_reducible show Tbl.wf _ _ = true); assumption)
    | ((with_reducible show List.length _ ≤ _); assumption)
    | split
    | dsimp only)

theorem execParitySlotUe_goes {pq : List Instr} {s : State} {k : Nat} (hk : Keeps pq s) :
    Goes pq (execParitySlotUe k s) := by
  unfold execParitySlotUe
  repeat' (first
    | intro _
    | with_reducible assumption
    | with_reducible apply slotUe_keeps
    | with_reducible apply goes_next
    | with_reducible apply ite_goes
    | with_reducible apply ite_keeps
    | with_reducible apply ite_fst_keeps
    | ((with_reducible show Seq.ok _ = true); assumption)
    | ((with_reducible show Tbl.wf _ _ = true); assumption)
    | ((with_reducible show List.length _ ≤ _); assumption)
    | split
    | dsimp only)

theorem execSupplyDroop_goes {pq : List Instr} {s : State} {g : Nat} (hk : Keeps pq s) :
    Goes pq (execSupplyDroop g s) := by
  unfold execSupplyDroop
  repeat' (first
    | intro _
    | with_reducible assumption
    | with_reducible apply modLdr_keeps
    | with_reducible apply goes_next
    | with_reducible apply ite_goes
    | with_reducible apply ite_keeps
    | with_reducible apply ite_fst_keeps
    | ((with_reducible show Seq.ok _ = true); assumption)
    | ((with_reducible show Tbl.wf _ _ = true); assumption)
    | ((with_reducible show List.length _ ≤ _); assumption)
    | split
    | dsimp only)

theorem execDroopClearExpiry_goes {pq : List Instr} {s : State} {g : Nat} (hk : Keeps pq s) :
    Goes pq (execDroopClearExpiry g s) := by
  unfold execDroopClearExpiry
  repeat' (first
    | intro _
    | with_reducible assumption
    | with_reducible apply modLdr_keeps
    | with_reducible apply pumpAll_keeps
    | with_reducible apply goes_next
    | with_reducible apply ite_goes
    | with_reducible apply ite_keeps
    | with_reducible apply ite_fst_keeps
    | ((with_reducible show Seq.ok _ = true); assumption)
    | ((with_reducible show Tbl.wf _ _ = true); assumption)
    | ((with_reducible show List.length _ ≤ _); assumption)
    | split
    | dsimp only)

theorem execInhibitLongExpiry_goes {pq : List Instr} {s : State} {n d : Nat} (hk : Keeps pq s) :
    Goes pq (execInhibitLongExpiry n d s) := by
  unfold execInhibitLongExpiry
  repeat' (first
    | intro _
    | with_reducible assumption
    | with_reducible apply modLdr_keeps
    | with_reducible apply post_keeps
    | with_reducible apply goes_next
    | with_reducible apply ite_goes
    | with_reducible apply ite_keeps
    | with_reducible apply ite_fst_keeps
    | ((with_reducible show Seq.ok _ = true); assumption)
    | ((with_reducible show Tbl.wf _ _ = true); assumption)
    | ((with_reducible show List.length _ ≤ _); assumption)
    | split
    | dsimp only)

theorem execTempInhibitSuiteExpiry_goes {pq : List Instr} {s : State} {n d : Nat} (hk : Keeps pq s) :
    Goes pq (execTempInhibitSuiteExpiry n d s) := by
  unfold execTempInhibitSuiteExpiry
  repeat' (first
    | intro _
    | with_reducible assumption
    | with_reducible apply bindSuite_keeps
    | with_reducible apply each_keeps
    | with_reducible apply modLdr_keeps
    | with_reducible apply pumpFront_keeps
    | with_reducible apply releaseFront_keeps
    | with_reducible apply goes_next
    | with_reducible apply ite_goes
    | with_reducible apply ite_keeps
    | with_reducible apply ite_fst_keeps
    | ((with_reducible show Seq.ok _ = true); assumption)
    | ((with_reducible show Tbl.wf _ _ = true); assumption)
    | ((with_reducible show List.length _ ≤ _); assumption)
    | split
    | dsimp only)

theorem execHoldupOkChange_goes {pq : List Instr} {s : State} {v : Bool} (hk : Keeps pq s) :
    Goes pq (execHoldupOkChange v s) := by
  unfold execHoldupOkChange
  repeat' (first
    | intro _
    | with_reducible assumption
    | with_reducible apply modPwr_keeps
    | with_reducible apply wtCheck_keeps
    | with_reducible apply goes_next
    | with_reducible apply ite_goes
    | with_reducible apply ite_keeps
    | with_reducible apply ite_fst_keeps
    | ((with_reducible show Seq.ok _ = true); assumption)
    | ((with_reducible show Tbl.wf _ _ = true); assumption)
    | ((with_reducible show List.length _ ≤ _); assumption)
    | split
    | dsimp only)

theorem execWtForceSet_goes {pq : List Instr} {s : State} {v : Bool} (hk : Keeps pq s) :
    Goes pq (execWtForceSet v s) := by
  unfold execWtForceSet
  repeat' (first
    | intro _
    | with_reducible assumption
    | with_reducible apply wr_keeps
    | with_reducible apply wtCheck_keeps
    | with_reducible apply goes_next
    | with_reducible apply ite_goes
    | with_reducible apply ite_keeps
    | with_reducible apply ite_fst_keeps
    | ((with_reducible show Seq.ok _ = true); assumption)
    | ((with_reducible show Tbl.wf _ _ = true); assumption)
    | ((with_reducible show List.length _ ≤ _); assumption)
    | split
    | dsimp only)

theorem execDumpArmSet_goes {pq : List Instr} {s : State} {v : Bool} (hk : Keeps pq s) :
    Goes pq (execDumpArmSet v s) := by
  unfold execDumpArmSet
  repeat' (first
    | intro _
    | with_reducible assumption
    | with_reducible apply wr_keeps
    | with_reducible apply wtCheck_keeps
    | with_reducible apply goes_next
    | with_reducible apply ite_goes
    | with_reducible apply ite_keeps
    | with_reducible apply ite_fst_keeps
    | ((with_reducible show Seq.ok _ = true); assumption)
    | ((with_reducible show Tbl.wf _ _ = true); assumption)
    | ((with_reducible show List.length _ ≤ _); assumption)
    | split
    | dsimp only)

theorem execLarderEnable_goes {pq : List Instr} {s : State} {v : Bool} (hk : Keeps pq s) :
    Goes pq (execLarderEnable v s) := by
  unfold execLarderEnable
  repeat' (first
    | intro _
    | with_reducible assumption
    | with_reducible apply wr_keeps
    | with_reducible apply goes_next
    | with_reducible apply ite_goes
    | with_reducible apply ite_keeps
    | with_reducible apply ite_fst_keeps
    | ((with_reducible show Seq.ok _ = true); assumption)
    | ((with_reducible show Tbl.wf _ _ = true); assumption)
    | ((with_reducible show List.length _ ≤ _); assumption)
    | split
    | dsimp only)

theorem execLarderDrain_goes {pq : List Instr} {s : State}  (hk : Keeps pq s) :
    Goes pq (execLarderDrain s) := by
  unfold execLarderDrain
  repeat' (first
    | intro _
    | with_reducible assumption
    | with_reducible apply larderDrain_keeps
    | with_reducible apply goes_next
    | with_reducible apply ite_goes
    | with_reducible apply ite_keeps
    | with_reducible apply ite_fst_keeps
    | ((with_reducible show Seq.ok _ = true); assumption)
    | ((with_reducible show Tbl.wf _ _ = true); assumption)
    | ((with_reducible show List.length _ ≤ _); assumption)
    | split
    | dsimp only)

theorem execLdrBankRetire_goes {pq : List Instr} {s : State} {v : U64} (hk : Keeps pq s) :
    Goes pq (execLdrBankRetire v s) := by
  unfold execLdrBankRetire
  repeat' (first
    | intro _
    | with_reducible assumption
    | with_reducible apply post_keeps
    | with_reducible apply set1_keeps
    | with_reducible apply wr_keeps
    | with_reducible apply goes_next
    | with_reducible apply ite_goes
    | with_reducible apply ite_keeps
    | with_reducible apply ite_fst_keeps
    | ((with_reducible show Seq.ok _ = true); assumption)
    | ((with_reducible show Tbl.wf _ _ = true); assumption)
    | ((with_reducible show List.length _ ≤ _); assumption)
    | split
    | dsimp only)

end Sys2Proof.Machine
end

