-- ==== Sys2Proof/Laws/KeepScullery.lean ====
section
/-!
SUPPORT. The invariant under the operations and commands of Scullery: each keeps it and the queue (Keeps); a command answers a next state (Goes).
-/
set_option linter.unusedTactic false
set_option linter.unreachableTactic false
set_option linter.unusedVariables false
namespace Sys2Proof.Machine

theorem startVictim_keeps {pq : List Instr} {s : State} {rg k cause : Nat} (hk : Keeps pq s) :
    Keeps pq (startVictim s rg k cause) := by
  unfold startVictim
  repeat' (first
    | intro _
    | with_reducible assumption
    | with_reducible apply modScu_keeps
    | with_reducible apply modSuite_keeps
    | with_reducible apply suiteRecord_keeps
    | with_reducible apply ite_keeps
    | with_reducible apply ite_fst_keeps
    | ((with_reducible show Seq.ok _ = true); assumption)
    | ((with_reducible show Tbl.wf _ _ = true); assumption)
    | ((with_reducible show List.length _ ≤ _); assumption)
    | split
    | dsimp only)

theorem execReclaimVictimChoice_goes {pq : List Instr} {s : State} {rg : Nat} (hk : Keeps pq s) :
    Goes pq (execReclaimVictimChoice rg s) := by
  unfold execReclaimVictimChoice
  repeat' (first
    | intro _
    | with_reducible assumption
    | with_reducible apply modScu_keeps
    | with_reducible apply startVictim_keeps
    | with_reducible apply goes_next
    | with_reducible apply ite_goes
    | with_reducible apply ite_keeps
    | with_reducible apply ite_fst_keeps
    | ((with_reducible show Seq.ok _ = true); assumption)
    | ((with_reducible show Tbl.wf _ _ = true); assumption)
    | ((with_reducible show List.length _ ≤ _); assumption)
    | split
    | dsimp only)

theorem execStaticWearDue_goes {pq : List Instr} {s : State} {rg : Nat} (hk : Keeps pq s) :
    Goes pq (execStaticWearDue rg s) := by
  unfold execStaticWearDue
  repeat' (first
    | intro _
    | with_reducible assumption
    | with_reducible apply startVictim_keeps
    | with_reducible apply goes_next
    | with_reducible apply ite_goes
    | with_reducible apply ite_keeps
    | with_reducible apply ite_fst_keeps
    | ((with_reducible show Seq.ok _ = true); assumption)
    | ((with_reducible show Tbl.wf _ _ = true); assumption)
    | ((with_reducible show List.length _ ≤ _); assumption)
    | split
    | dsimp only)

theorem sanitizeCheck_keeps {pq : List Instr} {s : State}  (hk : Keeps pq s) :
    Keeps pq (sanitizeCheck s) := by
  unfold sanitizeCheck
  repeat' (first
    | intro _
    | with_reducible assumption
    | with_reducible apply modNvm_keeps
    | with_reducible apply ite_keeps
    | with_reducible apply ite_fst_keeps
    | ((with_reducible show Seq.ok _ = true); assumption)
    | ((with_reducible show Tbl.wf _ _ = true); assumption)
    | ((with_reducible show List.length _ ≤ _); assumption)
    | split
    | dsimp only)

theorem suiteErased_keeps {pq : List Instr} {s : State} {k : Nat} (hk : Keeps pq s) :
    Keeps pq (suiteErased s k) := by
  unfold suiteErased
  repeat' (first
    | intro _
    | with_reducible assumption
    | with_reducible apply each_keeps
    | with_reducible apply modNvm_keeps
    | with_reducible apply modPan_keeps
    | with_reducible apply modScu_keeps
    | with_reducible apply poolCheck_keeps
    | with_reducible apply pumpAll_keeps
    | with_reducible apply sanitizeCheck_keeps
    | with_reducible apply suiteRecord_keeps
    | with_reducible apply ite_keeps
    | with_reducible apply ite_fst_keeps
    | ((with_reducible show Seq.ok _ = true); assumption)
    | ((with_reducible show Tbl.wf _ _ = true); assumption)
    | ((with_reducible show List.length _ ≤ _); assumption)
    | split
    | dsimp only)

theorem execSuiteEraseDone_goes {pq : List Instr} {s : State} {k : Nat} (hk : Keeps pq s) :
    Goes pq (execSuiteEraseDone k s) := by
  unfold execSuiteEraseDone
  repeat' (first
    | intro _
    | with_reducible assumption
    | with_reducible apply suiteErased_keeps
    | with_reducible apply goes_next
    | with_reducible apply ite_goes
    | with_reducible apply ite_keeps
    | with_reducible apply ite_fst_keeps
    | ((with_reducible show Seq.ok _ = true); assumption)
    | ((with_reducible show Tbl.wf _ _ = true); assumption)
    | ((with_reducible show List.length _ ≤ _); assumption)
    | split
    | dsimp only)

theorem execEraseFail_goes {pq : List Instr} {s : State} {k m : Nat} (hk : Keeps pq s) :
    Goes pq (execEraseFail k m s) := by
  unfold execEraseFail
  repeat' (first
    | intro _
    | with_reducible assumption
    | with_reducible apply eraseFailed_keeps
    | with_reducible apply modNvm_keeps
    | with_reducible apply goes_next
    | with_reducible apply ite_goes
    | with_reducible apply ite_keeps
    | with_reducible apply ite_fst_keeps
    | ((with_reducible show Seq.ok _ = true); assumption)
    | ((with_reducible show Tbl.wf _ _ = true); assumption)
    | ((with_reducible show List.length _ ≤ _); assumption)
    | split
    | dsimp only)

theorem patrolWordline_keeps {pq : List Instr} {s : State} {k i : Nat} (hk : Keeps pq s) :
    Keeps pq (patrolWordline s k i) := by
  unfold patrolWordline
  repeat' (first
    | intro _
    | with_reducible assumption
    | with_reducible apply each_keeps
    | with_reducible apply readMember_keeps
    | with_reducible apply readUnit_keeps
    | with_reducible refine opt_keeps (by assumption) ?_
    | with_reducible apply some_keepsO
    | with_reducible apply none_keepsO
    | with_reducible apply ite_keepsO
    | with_reducible apply map_keepsO
    | with_reducible apply mapOf_keepsO
    | with_reducible apply getD_keeps
    | with_reducible apply ite_keeps
    | with_reducible apply ite_fst_keeps
    | ((with_reducible show Seq.ok _ = true); assumption)
    | ((with_reducible show Tbl.wf _ _ = true); assumption)
    | ((with_reducible show List.length _ ≤ _); assumption)
    | split
    | dsimp only)

theorem execPatrolRead_goes {pq : List Instr} {s : State}  (hk : Keeps pq s) :
    Goes pq (execPatrolRead s) := by
  unfold execPatrolRead
  repeat' (first
    | intro _
    | with_reducible assumption
    | with_reducible apply clr1_keeps
    | with_reducible apply modScu_keeps
    | with_reducible apply patrolWordline_keeps
    | with_reducible apply wr_keeps
    | with_reducible apply goes_next
    | with_reducible apply ite_goes
    | with_reducible apply ite_keeps
    | with_reducible apply ite_fst_keeps
    | ((with_reducible show Seq.ok _ = true); assumption)
    | ((with_reducible show Tbl.wf _ _ = true); assumption)
    | ((with_reducible show List.length _ ≤ _); assumption)
    | split
    | dsimp only)

theorem execPatrolLateExpiry_goes {pq : List Instr} {s : State}  (hk : Keeps pq s) :
    Goes pq (execPatrolLateExpiry s) := by
  unfold execPatrolLateExpiry
  repeat' (first
    | intro _
    | with_reducible assumption
    | with_reducible apply post_keeps
    | with_reducible apply set1_keeps
    | with_reducible apply goes_next
    | with_reducible apply ite_goes
    | with_reducible apply ite_keeps
    | with_reducible apply ite_fst_keeps
    | ((with_reducible show Seq.ok _ = true); assumption)
    | ((with_reducible show Tbl.wf _ _ = true); assumption)
    | ((with_reducible show List.length _ ≤ _); assumption)
    | split
    | dsimp only)

theorem execRetentionAgeExpiry_goes {pq : List Instr} {s : State} {k : Nat} (hk : Keeps pq s) :
    Goes pq (execRetentionAgeExpiry k s) := by
  unfold execRetentionAgeExpiry
  repeat' (first
    | intro _
    | with_reducible assumption
    | with_reducible apply modSuite_keeps
    | with_reducible apply goes_next
    | with_reducible apply ite_goes
    | with_reducible apply ite_keeps
    | with_reducible apply ite_fst_keeps
    | ((with_reducible show Seq.ok _ = true); assumption)
    | ((with_reducible show Tbl.wf _ _ = true); assumption)
    | ((with_reducible show List.length _ ≤ _); assumption)
    | split
    | dsimp only)

theorem execOpenMaxExpiry_goes {pq : List Instr} {s : State} {k : Nat} (hk : Keeps pq s) :
    Goes pq (execOpenMaxExpiry k s) := by
  unfold execOpenMaxExpiry
  repeat' (first
    | intro _
    | with_reducible assumption
    | with_reducible apply endSuite_keeps
    | with_reducible apply modSuite_keeps
    | with_reducible apply goes_next
    | with_reducible apply ite_goes
    | with_reducible apply ite_keeps
    | with_reducible apply ite_fst_keeps
    | ((with_reducible show Seq.ok _ = true); assumption)
    | ((with_reducible show Tbl.wf _ _ = true); assumption)
    | ((with_reducible show List.length _ ≤ _); assumption)
    | split
    | dsimp only)

theorem execFoldRow_goes {pq : List Instr} {s : State} {k : Nat} (hk : Keeps pq s) :
    Goes pq (execFoldRow k s) := by
  unfold execFoldRow
  repeat' (first
    | intro _
    | with_reducible assumption
    | with_reducible apply each_keeps
    | with_reducible apply foldStop_keeps
    | with_reducible apply modScu_keeps
    | with_reducible apply modSuite_keeps
    | with_reducible apply offer_keeps
    | with_reducible apply goes_next
    | with_reducible apply ite_goes
    | with_reducible apply ite_keeps
    | with_reducible apply ite_fst_keeps
    | ((with_reducible show Seq.ok _ = true); assumption)
    | ((with_reducible show Tbl.wf _ _ = true); assumption)
    | ((with_reducible show List.length _ ≤ _); assumption)
    | split
    | dsimp only)

theorem execConsolidationStep_goes {pq : List Instr} {s : State}  (hk : Keeps pq s) :
    Goes pq (execConsolidationStep s) := by
  unfold execConsolidationStep
  repeat' (first
    | intro _
    | with_reducible assumption
    | with_reducible apply modScu_keeps
    | with_reducible apply startCons_keeps
    | with_reducible apply foldl_keeps
    | with_reducible apply foldl_fst_keeps
    | with_reducible apply goes_next
    | with_reducible apply ite_goes
    | with_reducible apply ite_keeps
    | with_reducible apply ite_fst_keeps
    | ((with_reducible show Seq.ok _ = true); assumption)
    | ((with_reducible show Tbl.wf _ _ = true); assumption)
    | ((with_reducible show List.length _ ≤ _); assumption)
    | split
    | dsimp only)

theorem loseWithPort_keeps {pq : List Instr} {s : State} {n ns u : Nat} (hk : Keeps pq s) :
    Keeps pq (loseWithPort s n ns u) := by
  unfold loseWithPort
  repeat' (first
    | intro _
    | with_reducible assumption
    | with_reducible apply rangeLost_keeps
    | with_reducible apply ite_keeps
    | with_reducible apply ite_fst_keeps
    | ((with_reducible show Seq.ok _ = true); assumption)
    | ((with_reducible show Tbl.wf _ _ = true); assumption)
    | ((with_reducible show List.length _ ≤ _); assumption)
    | split
    | dsimp only)

theorem execLedgerWalkLost_goes {pq : List Instr} {s : State} {n : Nat} (hk : Keeps pq s) :
    Goes pq (execLedgerWalkLost n s) := by
  unfold execLedgerWalkLost
  repeat' (first
    | intro _
    | with_reducible assumption
    | with_reducible apply each_keeps
    | with_reducible apply loseWithPort_keeps
    | with_reducible apply modScu_keeps
    | with_reducible apply rangeLost_keeps
    | with_reducible apply settleCheck_keeps
    | with_reducible apply goes_next
    | with_reducible apply ite_goes
    | with_reducible apply ite_keeps
    | with_reducible apply ite_fst_keeps
    | ((with_reducible show Seq.ok _ = true); assumption)
    | ((with_reducible show Tbl.wf _ _ = true); assumption)
    | ((with_reducible show List.length _ ≤ _); assumption)
    | split
    | dsimp only)

theorem addCounts_keeps {pq : List Instr} {s : State}  (hk : Keeps pq s) :
    Keeps pq (addCounts s) := by
  unfold addCounts
  repeat' (first
    | intro _
    | with_reducible assumption
    | with_reducible apply each_keeps
    | with_reducible apply modNvm_keeps
    | with_reducible apply modScu_keeps
    | with_reducible apply ite_keeps
    | with_reducible apply ite_fst_keeps
    | ((with_reducible show Seq.ok _ = true); assumption)
    | ((with_reducible show Tbl.wf _ _ = true); assumption)
    | ((with_reducible show List.length _ ≤ _); assumption)
    | split
    | dsimp only)

theorem execLifetimeCountUpdate_goes {pq : List Instr} {s : State}  (hk : Keeps pq s) :
    Goes pq (execLifetimeCountUpdate s) := by
  unfold execLifetimeCountUpdate
  repeat' (first
    | intro _
    | with_reducible assumption
    | with_reducible apply addCounts_keeps
    | with_reducible apply goes_next
    | with_reducible apply ite_goes
    | with_reducible apply ite_keeps
    | with_reducible apply ite_fst_keeps
    | ((with_reducible show Seq.ok _ = true); assumption)
    | ((with_reducible show Tbl.wf _ _ = true); assumption)
    | ((with_reducible show List.length _ ≤ _); assumption)
    | split
    | dsimp only)

theorem execSuiteIdxWrite_goes {pq : List Instr} {s : State} {v : U64} (hk : Keeps pq s) :
    Goes pq (execSuiteIdxWrite v s) := by
  unfold execSuiteIdxWrite
  repeat' (first
    | intro _
    | with_reducible assumption
    | with_reducible apply modScu_keeps
    | with_reducible apply wr_keeps
    | with_reducible apply goes_next
    | with_reducible apply ite_goes
    | with_reducible apply ite_keeps
    | with_reducible apply ite_fst_keeps
    | ((with_reducible show Seq.ok _ = true); assumption)
    | ((with_reducible show Tbl.wf _ _ = true); assumption)
    | ((with_reducible show List.length _ ≤ _); assumption)
    | split
    | dsimp only)

theorem execTempHistMinute_goes {pq : List Instr} {s : State}  (hk : Keeps pq s) :
    Goes pq (execTempHistMinute s) := by
  unfold execTempHistMinute
  repeat' (first
    | intro _
    | with_reducible assumption
    | with_reducible apply modNvm_keeps
    | with_reducible apply goes_next
    | with_reducible apply ite_goes
    | with_reducible apply ite_keeps
    | with_reducible apply ite_fst_keeps
    | ((with_reducible show Seq.ok _ = true); assumption)
    | ((with_reducible show Tbl.wf _ _ = true); assumption)
    | ((with_reducible show List.length _ ≤ _); assumption)
    | split
    | dsimp only)

end Sys2Proof.Machine
end

