-- ==== Sys2Proof/Laws/KeepRecovery.lean ====
section
/-!
SUPPORT. The invariant under the operations and commands of Recovery: each keeps it and the queue (Keeps); a command answers a next state (Goes).
-/
set_option linter.unusedTactic false
set_option linter.unreachableTactic false
set_option linter.unusedVariables false
namespace Sys2Proof.Machine

theorem recoverDram_keeps {pq : List Instr} {s : State}  (hk : Keeps pq s) :
    Keeps pq (recoverDram s) := by
  unfold recoverDram
  repeat' (first
    | intro _
    | with_reducible assumption
    | with_reducible apply dramClear_keeps
    | with_reducible apply dramCleared_keeps
    | with_reducible apply each_keeps
    | with_reducible apply retireSub_keeps
    | with_reducible apply set1_keeps
    | with_reducible apply wr_keeps
    | with_reducible apply ite_keeps
    | with_reducible apply ite_fst_keeps
    | ((with_reducible show Seq.ok _ = true); assumption)
    | ((with_reducible show Tbl.wf _ _ = true); assumption)
    | ((with_reducible show List.length _ ≤ _); assumption)
    | split
    | dsimp only)

theorem sizeCheck_keeps {pq : List Instr} {s : State}  (hk : Keeps pq s) :
    Keeps pq (sizeCheck s) := by
  unfold sizeCheck
  repeat' (first
    | intro _
    | with_reducible assumption
    | with_reducible apply post_keeps
    | with_reducible apply set1_keeps
    | with_reducible apply ite_keeps
    | with_reducible apply ite_fst_keeps
    | ((with_reducible show Seq.ok _ = true); assumption)
    | ((with_reducible show Tbl.wf _ _ = true); assumption)
    | ((with_reducible show List.length _ ≤ _); assumption)
    | split
    | dsimp only)

theorem parkMap_keeps {pq : List Instr} {s : State} {m : MapImg} (hk : Keeps pq s) :
    Keeps pq (parkMap s m).1 := by
  unfold parkMap
  repeat' (first
    | intro _
    | with_reducible assumption
    | with_reducible apply post_keeps
    | with_reducible apply ticks_keeps
    | with_reducible apply ite_keeps
    | with_reducible apply ite_fst_keeps
    | ((with_reducible show Seq.ok _ = true); assumption)
    | ((with_reducible show Tbl.wf _ _ = true); assumption)
    | ((with_reducible show List.length _ ≤ _); assumption)
    | split
    | dsimp only)

theorem recoverLoad_keeps {pq : List Instr} {s : State} {bad : List (Nat × Bool)} (hk : Keeps pq s) :
    Keeps pq (recoverLoad s bad) := by
  unfold recoverLoad
  repeat' (first
    | intro _
    | with_reducible assumption
    | with_reducible apply modPan_keeps
    | with_reducible apply parkMap_keeps
    | with_reducible refine fst_keeps (by assumption) ?_
    | with_reducible apply ite_keeps
    | with_reducible apply ite_fst_keeps
    | ((with_reducible show Seq.ok _ = true); assumption)
    | ((with_reducible show Tbl.wf _ _ = true); assumption)
    | ((with_reducible show List.length _ ≤ _); assumption)
    | split
    | dsimp only)

theorem loseSegments_keeps {pq : List Instr} {s : State} {bad : List (Nat × Bool)} (hk : Keeps pq s) :
    Keeps pq (loseSegments s bad) := by
  unfold loseSegments
  repeat' (first
    | intro _
    | with_reducible assumption
    | with_reducible apply each_keeps
    | with_reducible apply rangeLost_keeps
    | with_reducible apply ite_keeps
    | with_reducible apply ite_fst_keeps
    | ((with_reducible show Seq.ok _ = true); assumption)
    | ((with_reducible show Tbl.wf _ _ = true); assumption)
    | ((with_reducible show List.length _ ≤ _); assumption)
    | split
    | dsimp only)

theorem recoverReplay_keeps {pq : List Instr} {s : State} {bad : List (Nat × Bool)} (hk : Keeps pq s) :
    Keeps pq (recoverReplay s bad) := by
  unfold recoverReplay
  repeat' (first
    | intro _
    | with_reducible assumption
    | with_reducible apply loseSegments_keeps
    | with_reducible apply modPan_keeps
    | with_reducible apply ite_keeps
    | with_reducible apply ite_fst_keeps
    | ((with_reducible show Seq.ok _ = true); assumption)
    | ((with_reducible show Tbl.wf _ _ = true); assumption)
    | ((with_reducible show List.length _ ≤ _); assumption)
    | split
    | dsimp only)

theorem redoRec_keeps {pq : List Instr} {s : State} {m : MapImg} {r : JRec} (hk : Keeps pq s) :
    Keeps pq (redoRec s m r).1 := by
  unfold redoRec
  repeat' (first
    | intro _
    | with_reducible assumption
    | with_reducible apply jAppend_keeps
    | with_reducible apply modHall_keeps
    | with_reducible apply modPan_keeps
    | with_reducible apply ite_keeps
    | with_reducible apply ite_fst_keeps
    | ((with_reducible show Seq.ok _ = true); assumption)
    | ((with_reducible show Tbl.wf _ _ = true); assumption)
    | ((with_reducible show List.length _ ≤ _); assumption)
    | split
    | dsimp only)

theorem redoTail_keeps {pq : List Instr} {s : State} {tail : List (Nat × JRec)} (hk : Keeps pq s) :
    Keeps pq (redoTail s tail) := by
  unfold redoTail
  repeat' (first
    | intro _
    | with_reducible assumption
    | with_reducible apply modPan_keeps
    | with_reducible apply redoRec_keeps
    | with_reducible refine fst_keeps (by assumption) ?_
    | with_reducible apply foldl_keeps
    | with_reducible apply foldl_fst_keeps
    | with_reducible apply ite_keeps
    | with_reducible apply ite_fst_keeps
    | ((with_reducible show Seq.ok _ = true); assumption)
    | ((with_reducible show Tbl.wf _ _ = true); assumption)
    | ((with_reducible show List.length _ ≤ _); assumption)
    | split
    | dsimp only)

theorem backSlot_keeps {pq : List Instr} {s : State} {img : DumpImg} {k st : Nat} (hk : Keeps pq s) :
    Keeps pq (backSlot s img k st) := by
  unfold backSlot
  repeat' (first
    | intro _
    | with_reducible assumption
    | with_reducible apply modLdr_keeps
    | with_reducible apply ite_keeps
    | with_reducible apply ite_fst_keeps
    | ((with_reducible show Seq.ok _ = true); assumption)
    | ((with_reducible show Tbl.wf _ _ = true); assumption)
    | ((with_reducible show List.length _ ≤ _); assumption)
    | split
    | dsimp only)

theorem restoreOverlay_keeps {pq : List Instr} {s : State} {img : DumpImg} {d : DumpFound} (hk : Keeps pq s) :
    Keeps pq (restoreOverlay s img d) := by
  unfold restoreOverlay
  repeat' (first
    | intro _
    | with_reducible assumption
    | with_reducible apply backSlot_keeps
    | with_reducible apply each_keeps
    | with_reducible apply joinHost_keeps
    | with_reducible apply modPan_keeps
    | with_reducible apply ite_keeps
    | with_reducible apply ite_fst_keeps
    | ((with_reducible show Seq.ok _ = true); assumption)
    | ((with_reducible show Tbl.wf _ _ = true); assumption)
    | ((with_reducible show List.length _ ≤ _); assumption)
    | split
    | dsimp only)

theorem armRest_keeps {pq : List Instr} {s : State} {img : DumpImg} {d : DumpFound} (hk : Keeps pq s) :
    Keeps pq (armRest s img d) := by
  unfold armRest
  repeat' (first
    | intro _
    | with_reducible assumption
    | with_reducible apply each_keeps
    | with_reducible apply rangeLost_keeps
    | with_reducible apply ite_keeps
    | with_reducible apply ite_fst_keeps
    | ((with_reducible show Seq.ok _ = true); assumption)
    | ((with_reducible show Tbl.wf _ _ = true); assumption)
    | ((with_reducible show List.length _ ≤ _); assumption)
    | split
    | dsimp only)

theorem restoreUnits_keeps {pq : List Instr} {s : State} {img : DumpImg} {d : DumpFound} (hk : Keeps pq s) :
    Keeps pq (restoreUnits s img d) := by
  unfold restoreUnits
  repeat' (first
    | intro _
    | with_reducible assumption
    | with_reducible apply backSlot_keeps
    | with_reducible apply directCommit_keeps
    | with_reducible apply each_keeps
    | with_reducible apply modHall_keeps
    | with_reducible apply overlayCommit_keeps
    | with_reducible refine fst_keeps (by assumption) ?_
    | with_reducible apply ite_keeps
    | with_reducible apply ite_fst_keeps
    | ((with_reducible show Seq.ok _ = true); assumption)
    | ((with_reducible show Tbl.wf _ _ = true); assumption)
    | ((with_reducible show List.length _ ≤ _); assumption)
    | split
    | dsimp only)

theorem keepWrites_keeps {pq : List Instr} {s : State}  (hk : Keeps pq s) :
    Keeps pq (keepWrites s) := by
  unfold keepWrites
  repeat' (first
    | intro _
    | with_reducible assumption
    | with_reducible apply modSta_keeps
    | with_reducible apply ite_keeps
    | with_reducible apply ite_fst_keeps
    | ((with_reducible show Seq.ok _ = true); assumption)
    | ((with_reducible show Tbl.wf _ _ = true); assumption)
    | ((with_reducible show List.length _ ≤ _); assumption)
    | split
    | dsimp only)

theorem closeOpen_keeps {pq : List Instr} {s : State} {protected_ : Bool} (hk : Keeps pq s) :
    Keeps pq (closeOpen s protected_) := by
  unfold closeOpen
  repeat' (first
    | intro _
    | with_reducible assumption
    | with_reducible apply closedSuite_keeps
    | with_reducible apply each_keeps
    | with_reducible apply modScu_keeps
    | with_reducible apply modSuite_keeps
    | with_reducible apply ite_keeps
    | with_reducible apply ite_fst_keeps
    | ((with_reducible show Seq.ok _ = true); assumption)
    | ((with_reducible show Tbl.wf _ _ = true); assumption)
    | ((with_reducible show List.length _ ≤ _); assumption)
    | split
    | dsimp only)

theorem recoverDump_keeps {pq : List Instr} {s : State} {d : DumpFound} (hk : Keeps pq s) :
    Keeps pq (recoverDump s d) := by
  unfold recoverDump
  repeat' (first
    | intro _
    | with_reducible assumption
    | with_reducible apply armRest_keeps
    | with_reducible apply closeOpen_keeps
    | with_reducible apply keepWrites_keeps
    | with_reducible apply modLdr_keeps
    | with_reducible apply panFlags_keeps
    | with_reducible apply redoTail_keeps
    | with_reducible apply restoreOverlay_keeps
    | with_reducible apply restoreUnits_keeps
    | with_reducible apply wr_keeps
    | with_reducible apply ite_keeps
    | with_reducible apply ite_fst_keeps
    | ((with_reducible show Seq.ok _ = true); assumption)
    | ((with_reducible show Tbl.wf _ _ = true); assumption)
    | ((with_reducible show List.length _ ≤ _); assumption)
    | split
    | dsimp only)

theorem dumpSuites_keeps {pq : List Instr} {s : State} {dumped : Bool} (hk : Keeps pq s) :
    Keeps pq (dumpSuites s dumped) := by
  unfold dumpSuites
  repeat' (first
    | intro _
    | with_reducible assumption
    | with_reducible apply each_keeps
    | with_reducible apply eraseIfDue_keeps
    | with_reducible apply modSuite_keeps
    | with_reducible apply suiteRecord_keeps
    | with_reducible apply ite_keeps
    | with_reducible apply ite_fst_keeps
    | ((with_reducible show Seq.ok _ = true); assumption)
    | ((with_reducible show Tbl.wf _ _ = true); assumption)
    | ((with_reducible show List.length _ ≤ _); assumption)
    | split
    | dsimp only)

theorem holdBack_keeps {pq : List Instr} {s : State}  (hk : Keeps pq s) :
    Keeps pq (holdBack s) := by
  unfold holdBack
  repeat' (first
    | intro _
    | with_reducible assumption
    | with_reducible apply each_keeps
    | with_reducible apply modScu_keeps
    | with_reducible apply ite_keeps
    | with_reducible apply ite_fst_keeps
    | ((with_reducible show Seq.ok _ = true); assumption)
    | ((with_reducible show Tbl.wf _ _ = true); assumption)
    | ((with_reducible show List.length _ ≤ _); assumption)
    | split
    | dsimp only)

theorem markEvery_keeps {pq : List Instr} {s : State}  (hk : Keeps pq s) :
    Keeps pq (markEvery s) := by
  unfold markEvery
  repeat' (first
    | intro _
    | with_reducible assumption
    | with_reducible apply each_keeps
    | with_reducible apply jAppend_keeps
    | with_reducible apply modPan_keeps
    | with_reducible apply modSuite_keeps
    | with_reducible apply ite_keeps
    | with_reducible apply ite_fst_keeps
    | ((with_reducible show Seq.ok _ = true); assumption)
    | ((with_reducible show Tbl.wf _ _ = true); assumption)
    | ((with_reducible show List.length _ ≤ _); assumption)
    | split
    | dsimp only)

theorem recoverSuites_keeps {pq : List Instr} {s : State}  (hk : Keeps pq s) :
    Keeps pq (recoverSuites s) := by
  unfold recoverSuites
  repeat' (first
    | intro _
    | with_reducible assumption
    | with_reducible apply confAppend_keeps
    | with_reducible apply dumpSuites_keeps
    | with_reducible apply each_keeps
    | with_reducible apply eraseIfDue_keeps
    | with_reducible apply holdBack_keeps
    | with_reducible apply markEvery_keeps
    | with_reducible apply modLdr_keeps
    | with_reducible apply modScu_keeps
    | with_reducible apply modSuite_keeps
    | with_reducible apply poolCheck_keeps
    | with_reducible apply ite_keeps
    | with_reducible apply ite_fst_keeps
    | ((with_reducible show Seq.ok _ = true); assumption)
    | ((with_reducible show Tbl.wf _ _ = true); assumption)
    | ((with_reducible show List.length _ ≤ _); assumption)
    | split
    | dsimp only)

theorem resendWrites_keeps {pq : List Instr} {s : State}  (hk : Keeps pq s) :
    Keeps pq (resendWrites s) := by
  unfold resendWrites
  repeat' (first
    | intro _
    | with_reducible assumption
    | with_reducible apply each_keeps
    | with_reducible apply freeSlot_keeps
    | with_reducible apply modHall_keeps
    | with_reducible apply modSta_keeps
    | with_reducible apply settleCheck_keeps
    | with_reducible apply stairPump_keeps
    | with_reducible apply ite_keeps
    | with_reducible apply ite_fst_keeps
    | ((with_reducible show Seq.ok _ = true); assumption)
    | ((with_reducible show Tbl.wf _ _ = true); assumption)
    | ((with_reducible show List.length _ ≤ _); assumption)
    | split
    | dsimp only)

theorem rearm_keeps {pq : List Instr} {s : State}  (hk : Keeps pq s) :
    Keeps pq (rearm s) := by
  unfold rearm
  repeat' (first
    | intro _
    | with_reducible assumption
    | with_reducible apply asyncAll_keeps
    | with_reducible apply each_keeps
    | with_reducible apply modHall_keeps
    | with_reducible apply ite_keeps
    | with_reducible apply ite_fst_keeps
    | ((with_reducible show Seq.ok _ = true); assumption)
    | ((with_reducible show Tbl.wf _ _ = true); assumption)
    | ((with_reducible show List.length _ ≤ _); assumption)
    | split
    | dsimp only)

theorem recoverReady_keeps {pq : List Instr} {s : State}  (hk : Keeps pq s) :
    Keeps pq (recoverReady s) := by
  unfold recoverReady
  repeat' (first
    | intro _
    | with_reducible assumption
    | with_reducible apply hallReady_keeps
    | with_reducible apply lapStep_keeps
    | with_reducible apply rearm_keeps
    | with_reducible apply resendWrites_keeps
    | with_reducible apply set1_keeps
    | with_reducible apply wr_keeps
    | with_reducible apply ite_keeps
    | with_reducible apply ite_fst_keeps
    | ((with_reducible show Seq.ok _ = true); assumption)
    | ((with_reducible show Tbl.wf _ _ = true); assumption)
    | ((with_reducible show List.length _ ≤ _); assumption)
    | split
    | dsimp only)

end Sys2Proof.Machine
end

