-- ==== Sys2Proof/Laws/KeepHostLink.lean ====
section
/-!
SUPPORT. The invariant under the operations and commands of HostLink: each keeps it and the queue (Keeps); a command answers a next state (Goes).
-/
set_option linter.unusedTactic false
set_option linter.unreachableTactic false
set_option linter.unusedVariables false
namespace Sys2Proof.Machine

theorem execHostLinkUp_goes {pq : List Instr} {s : State} {p rate width : Nat} {flit : Bool} (hk : Keeps pq s) :
    Goes pq (execHostLinkUp p rate width flit s) := by
  unfold execHostLinkUp
  repeat' (first
    | intro _
    | with_reducible assumption
    | with_reducible apply modHport_keeps
    | with_reducible apply when_keeps
    | with_reducible apply goes_next
    | with_reducible apply ite_goes
    | with_reducible apply ite_keeps
    | with_reducible apply ite_fst_keeps
    | ((with_reducible show Seq.ok _ = true); assumption)
    | ((with_reducible show Tbl.wf _ _ = true); assumption)
    | ((with_reducible show List.length _ ≤ _); assumption)
    | split
    | dsimp only)

theorem execTlpReceive_goes {pq : List Instr} {s : State} {p seq : Nat} {crcOk flit poison : Bool} {tag : Option Nat} (hk : Keeps pq s) :
    Goes pq (execTlpReceive p seq crcOk flit poison tag s) := by
  unfold execTlpReceive
  repeat' (first
    | intro _
    | with_reducible assumption
    | with_reducible apply bump_keeps
    | with_reducible apply dropTag_keeps
    | with_reducible apply emit_keeps
    | with_reducible apply haltChan_keeps
    | with_reducible apply modHport_keeps
    | with_reducible apply goes_next
    | with_reducible apply ite_goes
    | with_reducible apply ite_keeps
    | with_reducible apply ite_fst_keeps
    | ((with_reducible show Seq.ok _ = true); assumption)
    | ((with_reducible show Tbl.wf _ _ = true); assumption)
    | ((with_reducible show List.length _ ≤ _); assumption)
    | split
    | dsimp only)

theorem execConfigRequest_goes {pq : List Instr} {s : State} {p : Nat} (hk : Keeps pq s) :
    Goes pq (execConfigRequest p s) := by
  unfold execConfigRequest
  repeat' (first
    | intro _
    | with_reducible assumption
    | with_reducible apply emit_keeps
    | with_reducible apply modHport_keeps
    | with_reducible apply goes_next
    | with_reducible apply ite_goes
    | with_reducible apply ite_keeps
    | with_reducible apply ite_fst_keeps
    | ((with_reducible show Seq.ok _ = true); assumption)
    | ((with_reducible show Tbl.wf _ _ = true); assumption)
    | ((with_reducible show List.length _ ≤ _); assumption)
    | split
    | dsimp only)

theorem linkDown_keeps {pq : List Instr} {s : State} {p : Nat} (hk : Keeps pq s) :
    Keeps pq (linkDown s p) := by
  unfold linkDown
  repeat' (first
    | intro _
    | with_reducible assumption
    | with_reducible apply modHport_keeps
    | with_reducible apply ite_keeps
    | with_reducible apply ite_fst_keeps
    | ((with_reducible show Seq.ok _ = true); assumption)
    | ((with_reducible show Tbl.wf _ _ = true); assumption)
    | ((with_reducible show List.length _ ≤ _); assumption)
    | split
    | dsimp only)

theorem resetPort_keeps {pq : List Instr} {s : State} {p : Nat} {down : Bool} (hk : Keeps pq s) :
    Keeps pq (resetPort s p down) := by
  unfold resetPort
  repeat' (first
    | intro _
    | with_reducible assumption
    | with_reducible apply linkDown_keeps
    | with_reducible apply modHport_keeps
    | with_reducible apply resetController_keeps
    | with_reducible apply ite_keeps
    | with_reducible apply ite_fst_keeps
    | ((with_reducible show Seq.ok _ = true); assumption)
    | ((with_reducible show Tbl.wf _ _ = true); assumption)
    | ((with_reducible show List.length _ ≤ _); assumption)
    | split
    | dsimp only)

theorem execPerstAssert_goes {pq : List Instr} {s : State} {p : Nat} (hk : Keeps pq s) :
    Goes pq (execPerstAssert p s) := by
  unfold execPerstAssert
  repeat' (first
    | intro _
    | with_reducible assumption
    | with_reducible apply modHport_keeps
    | with_reducible apply resetPort_keeps
    | with_reducible apply wake_keeps
    | with_reducible apply goes_next
    | with_reducible apply ite_goes
    | with_reducible apply ite_keeps
    | with_reducible apply ite_fst_keeps
    | ((with_reducible show Seq.ok _ = true); assumption)
    | ((with_reducible show Tbl.wf _ _ = true); assumption)
    | ((with_reducible show List.length _ ≤ _); assumption)
    | split
    | dsimp only)

theorem execPerstDeassert_goes {pq : List Instr} {s : State} {p : Nat} (hk : Keeps pq s) :
    Goes pq (execPerstDeassert p s) := by
  unfold execPerstDeassert
  repeat' (first
    | intro _
    | with_reducible assumption
    | with_reducible apply modHport_keeps
    | with_reducible apply when_keeps
    | with_reducible apply goes_next
    | with_reducible apply ite_goes
    | with_reducible apply ite_keeps
    | with_reducible apply ite_fst_keeps
    | ((with_reducible show Seq.ok _ = true); assumption)
    | ((with_reducible show Tbl.wf _ _ = true); assumption)
    | ((with_reducible show List.length _ ≤ _); assumption)
    | split
    | dsimp only)

theorem execHotReset_goes {pq : List Instr} {s : State} {p : Nat} (hk : Keeps pq s) :
    Goes pq (execHotReset p s) := by
  unfold execHotReset
  repeat' (first
    | intro _
    | with_reducible assumption
    | with_reducible apply resetPort_keeps
    | with_reducible apply when_keeps
    | with_reducible apply goes_next
    | with_reducible apply ite_goes
    | with_reducible apply ite_keeps
    | with_reducible apply ite_fst_keeps
    | ((with_reducible show Seq.ok _ = true); assumption)
    | ((with_reducible show Tbl.wf _ _ = true); assumption)
    | ((with_reducible show List.length _ ≤ _); assumption)
    | split
    | dsimp only)

theorem execFunctionLevelReset_goes {pq : List Instr} {s : State} {p : Nat} (hk : Keeps pq s) :
    Goes pq (execFunctionLevelReset p s) := by
  unfold execFunctionLevelReset
  repeat' (first
    | intro _
    | with_reducible assumption
    | with_reducible apply resetPort_keeps
    | with_reducible apply when_keeps
    | with_reducible apply goes_next
    | with_reducible apply ite_goes
    | with_reducible apply ite_keeps
    | with_reducible apply ite_fst_keeps
    | ((with_reducible show Seq.ok _ = true); assumption)
    | ((with_reducible show Tbl.wf _ _ = true); assumption)
    | ((with_reducible show List.length _ ≤ _); assumption)
    | split
    | dsimp only)

theorem execBusMasterEnableClear_goes {pq : List Instr} {s : State} {p : Nat} (hk : Keeps pq s) :
    Goes pq (execBusMasterEnableClear p s) := by
  unfold execBusMasterEnableClear
  repeat' (first
    | intro _
    | with_reducible assumption
    | with_reducible apply modHport_keeps
    | with_reducible apply goes_next
    | with_reducible apply ite_goes
    | with_reducible apply ite_keeps
    | with_reducible apply ite_fst_keeps
    | ((with_reducible show Seq.ok _ = true); assumption)
    | ((with_reducible show Tbl.wf _ _ = true); assumption)
    | ((with_reducible show List.length _ ≤ _); assumption)
    | split
    | dsimp only)

theorem execD3hotEntry_goes {pq : List Instr} {s : State} {p : Nat} (hk : Keeps pq s) :
    Goes pq (execD3hotEntry p s) := by
  unfold execD3hotEntry
  repeat' (first
    | intro _
    | with_reducible assumption
    | with_reducible apply modHport_keeps
    | with_reducible apply when_keeps
    | with_reducible apply goes_next
    | with_reducible apply ite_goes
    | with_reducible apply ite_keeps
    | with_reducible apply ite_fst_keeps
    | ((with_reducible show Seq.ok _ = true); assumption)
    | ((with_reducible show Tbl.wf _ _ = true); assumption)
    | ((with_reducible show List.length _ ≤ _); assumption)
    | split
    | dsimp only)

theorem execD0Return_goes {pq : List Instr} {s : State} {p : Nat} (hk : Keeps pq s) :
    Goes pq (execD0Return p s) := by
  unfold execD0Return
  repeat' (first
    | intro _
    | with_reducible assumption
    | with_reducible apply each_keeps
    | with_reducible apply modHport_keeps
    | with_reducible apply pumpChan_keeps
    | with_reducible apply wake_keeps
    | with_reducible apply when_keeps
    | with_reducible apply goes_next
    | with_reducible apply ite_goes
    | with_reducible apply ite_keeps
    | with_reducible apply ite_fst_keeps
    | ((with_reducible show Seq.ok _ = true); assumption)
    | ((with_reducible show Tbl.wf _ _ = true); assumption)
    | ((with_reducible show List.length _ ≤ _); assumption)
    | split
    | dsimp only)

theorem execAspmIdleExpiry_goes {pq : List Instr} {s : State} {p : Nat} (hk : Keeps pq s) :
    Goes pq (execAspmIdleExpiry p s) := by
  unfold execAspmIdleExpiry
  repeat' (first
    | intro _
    | with_reducible assumption
    | with_reducible apply modHport_keeps
    | with_reducible apply when_keeps
    | with_reducible apply goes_next
    | with_reducible apply ite_goes
    | with_reducible apply ite_keeps
    | with_reducible apply ite_fst_keeps
    | ((with_reducible show Seq.ok _ = true); assumption)
    | ((with_reducible show Tbl.wf _ _ = true); assumption)
    | ((with_reducible show List.length _ ≤ _); assumption)
    | split
    | dsimp only)

theorem ltrCheck_keeps {pq : List Instr} {s : State}  (hk : Keeps pq s) :
    Keeps pq (ltrCheck s) := by
  unfold ltrCheck
  repeat' (first
    | intro _
    | with_reducible assumption
    | with_reducible apply each_keeps
    | with_reducible apply emit_keeps
    | with_reducible apply modHport_keeps
    | with_reducible apply ite_keeps
    | with_reducible apply ite_fst_keeps
    | ((with_reducible show Seq.ok _ = true); assumption)
    | ((with_reducible show Tbl.wf _ _ = true); assumption)
    | ((with_reducible show List.length _ ≤ _); assumption)
    | split
    | dsimp only)

theorem cancelDrain_keeps {pq : List Instr} {s : State}  (hk : Keeps pq s) :
    Keeps pq (cancelDrain s) := by
  unfold cancelDrain
  repeat' (first
    | intro _
    | with_reducible assumption
    | with_reducible apply clr1_keeps
    | with_reducible apply ite_keeps
    | with_reducible apply ite_fst_keeps
    | ((with_reducible show Seq.ok _ = true); assumption)
    | ((with_reducible show Tbl.wf _ _ = true); assumption)
    | ((with_reducible show List.length _ ≤ _); assumption)
    | split
    | dsimp only)

theorem intxCheck_keeps {pq : List Instr} {s : State} {p : Nat} (hk : Keeps pq s) :
    Keeps pq (intxCheck s p) := by
  unfold intxCheck
  repeat' (first
    | intro _
    | with_reducible assumption
    | with_reducible apply emit_keeps
    | with_reducible apply ite_keeps
    | with_reducible apply ite_fst_keeps
    | ((with_reducible show Seq.ok _ = true); assumption)
    | ((with_reducible show Tbl.wf _ _ = true); assumption)
    | ((with_reducible show List.length _ ≤ _); assumption)
    | split
    | dsimp only)

theorem execDoorbellWrite_goes {pq : List Instr} {s : State} {p qid : Nat} {cq : Bool} {v : Nat} (hk : Keeps pq s) :
    Goes pq (execDoorbellWrite p qid cq v s) := by
  unfold execDoorbellWrite
  repeat' (first
    | intro _
    | with_reducible assumption
    | with_reducible apply asyncEvent_keeps
    | with_reducible apply cancelDrain_keeps
    | with_reducible apply emit_keeps
    | with_reducible apply intxCheck_keeps
    | with_reducible apply modHall_keeps
    | with_reducible apply modHport_keeps
    | with_reducible apply serveEvents_keeps
    | with_reducible apply wake_keeps
    | with_reducible apply goes_next
    | with_reducible apply ite_goes
    | with_reducible apply ite_keeps
    | with_reducible apply ite_fst_keeps
    | ((with_reducible show Seq.ok _ = true); assumption)
    | ((with_reducible show Tbl.wf _ _ = true); assumption)
    | ((with_reducible show List.length _ ≤ _); assumption)
    | split
    | dsimp only)

theorem execMsixVectorUnmask_goes {pq : List Instr} {s : State} {p v : Nat} (hk : Keeps pq s) :
    Goes pq (execMsixVectorUnmask p v s) := by
  unfold execMsixVectorUnmask
  repeat' (first
    | intro _
    | with_reducible assumption
    | with_reducible apply emit_keeps
    | with_reducible apply modHport_keeps
    | with_reducible apply goes_next
    | with_reducible apply ite_goes
    | with_reducible apply ite_keeps
    | with_reducible apply ite_fst_keeps
    | ((with_reducible show Seq.ok _ = true); assumption)
    | ((with_reducible show Tbl.wf _ _ = true); assumption)
    | ((with_reducible show List.length _ ≤ _); assumption)
    | split
    | dsimp only)

theorem execControllerReset_goes {pq : List Instr} {s : State} {p : Nat} (hk : Keeps pq s) :
    Goes pq (execControllerReset p s) := by
  unfold execControllerReset
  repeat' (first
    | intro _
    | with_reducible assumption
    | with_reducible apply resetController_keeps
    | with_reducible apply when_keeps
    | with_reducible apply goes_next
    | with_reducible apply ite_goes
    | with_reducible apply ite_keeps
    | with_reducible apply ite_fst_keeps
    | ((with_reducible show Seq.ok _ = true); assumption)
    | ((with_reducible show Tbl.wf _ _ = true); assumption)
    | ((with_reducible show List.length _ ≤ _); assumption)
    | split
    | dsimp only)

theorem execControllerEnable_goes {pq : List Instr} {s : State} {p : Nat} {wrr : Bool} {asqs acqs : Nat} (hk : Keeps pq s) :
    Goes pq (execControllerEnable p wrr asqs acqs s) := by
  unfold execControllerEnable
  repeat' (first
    | intro _
    | with_reducible assumption
    | with_reducible apply modHall_keeps
    | with_reducible apply modHport_keeps
    | with_reducible apply when_keeps
    | with_reducible apply goes_next
    | with_reducible apply ite_goes
    | with_reducible apply ite_keeps
    | with_reducible apply ite_fst_keeps
    | ((with_reducible show Seq.ok _ = true); assumption)
    | ((with_reducible show Tbl.wf _ _ = true); assumption)
    | ((with_reducible show List.length _ ≤ _); assumption)
    | split
    | dsimp only)

theorem execShutdownNotification_goes {pq : List Instr} {s : State} {p : Nat} (hk : Keeps pq s) :
    Goes pq (execShutdownNotification p s) := by
  unfold execShutdownNotification
  repeat' (first
    | intro _
    | with_reducible assumption
    | with_reducible apply addCounts_keeps
    | with_reducible apply larderDrain_keeps
    | with_reducible apply modHport_keeps
    | with_reducible apply raise_keeps
    | with_reducible apply shutdownCheck_keeps
    | with_reducible apply when_keeps
    | with_reducible apply goes_next
    | with_reducible apply ite_goes
    | with_reducible apply ite_keeps
    | with_reducible apply ite_fst_keeps
    | ((with_reducible show Seq.ok _ = true); assumption)
    | ((with_reducible show Tbl.wf _ _ = true); assumption)
    | ((with_reducible show List.length _ ≤ _); assumption)
    | split
    | dsimp only)

end Sys2Proof.Machine
end

