-- ==== Sys2Proof/Laws/KeepAdmin.lean ====
section
/-!
SUPPORT. The invariant under the operations and commands of Admin: each keeps it and the queue (Keeps); a command answers a next state (Goes).
-/
set_option linter.unusedTactic false
set_option linter.unreachableTactic false
set_option linter.unusedVariables false
namespace Sys2Proof.Machine

theorem byHall_keeps {pq : List Instr} {s : State} {n : Nat} {f : Ctx → State} (hk : Keeps pq s) (h_f : ∀ (a0 : Ctx), Keeps pq (f a0)) :
    Keeps pq (byHall s n f) := by
  unfold byHall
  repeat' (first
    | intro _
    | with_reducible assumption
    | with_reducible apply h_f
    | with_reducible apply ite_keeps
    | with_reducible apply ite_fst_keeps
    | ((with_reducible show Seq.ok _ = true); assumption)
    | ((with_reducible show Tbl.wf _ _ = true); assumption)
    | ((with_reducible show List.length _ ≤ _); assumption)
    | split
    | dsimp only)

theorem bySup_keeps {pq : List Instr} {s : State} {n : Nat} {f : Ctx → State} (hk : Keeps pq s) (h_f : ∀ (a0 : Ctx), Keeps pq (f a0)) :
    Keeps pq (bySup s n f) := by
  unfold bySup
  repeat' (first
    | intro _
    | with_reducible assumption
    | with_reducible apply h_f
    | with_reducible apply byHall_keeps
    | with_reducible apply ite_keeps
    | with_reducible apply ite_fst_keeps
    | ((with_reducible show Seq.ok _ = true); assumption)
    | ((with_reducible show Tbl.wf _ _ = true); assumption)
    | ((with_reducible show List.length _ ≤ _); assumption)
    | split
    | dsimp only)

theorem sendLayout_keeps {pq : List Instr} {s : State} {n : Nat} {l : List (Nat × Nat × Nat)} {off len : Nat} (hk : Keeps pq s) :
    Keeps pq (sendLayout s n l off len) := by
  unfold sendLayout
  repeat' (first
    | intro _
    | with_reducible assumption
    | with_reducible apply emit_keeps
    | with_reducible apply ite_keeps
    | with_reducible apply ite_fst_keeps
    | ((with_reducible show Seq.ok _ = true); assumption)
    | ((with_reducible show Tbl.wf _ _ = true); assumption)
    | ((with_reducible show List.length _ ≤ _); assumption)
    | split
    | dsimp only)

theorem execUnsupportedOpcode_goes {pq : List Instr} {s : State} {n : Nat} (hk : Keeps pq s) :
    Goes pq (execUnsupportedOpcode n s) := by
  unfold execUnsupportedOpcode
  repeat' (first
    | intro _
    | with_reducible assumption
    | with_reducible apply finish_keeps
    | with_reducible apply goes_next
    | with_reducible apply ite_goes
    | with_reducible apply ite_keeps
    | with_reducible apply ite_fst_keeps
    | ((with_reducible show Seq.ok _ = true); assumption)
    | ((with_reducible show Tbl.wf _ _ = true); assumption)
    | ((with_reducible show List.length _ ≤ _); assumption)
    | split
    | dsimp only)

theorem execCreateIoCompletionQueue_goes {pq : List Instr} {s : State} {n : Nat} (hk : Keeps pq s) :
    Goes pq (execCreateIoCompletionQueue n s) := by
  unfold execCreateIoCompletionQueue
  repeat' (first
    | intro _
    | with_reducible assumption
    | with_reducible apply byHall_keeps
    | with_reducible apply finish_keeps
    | with_reducible apply finishOk_keeps
    | with_reducible apply modHall_keeps
    | with_reducible apply goes_next
    | with_reducible apply ite_goes
    | with_reducible apply ite_keeps
    | with_reducible apply ite_fst_keeps
    | ((with_reducible show Seq.ok _ = true); assumption)
    | ((with_reducible show Tbl.wf _ _ = true); assumption)
    | ((with_reducible show List.length _ ≤ _); assumption)
    | split
    | dsimp only)

theorem execCreateIoSubmissionQueue_goes {pq : List Instr} {s : State} {n : Nat} (hk : Keeps pq s) :
    Goes pq (execCreateIoSubmissionQueue n s) := by
  unfold execCreateIoSubmissionQueue
  repeat' (first
    | intro _
    | with_reducible assumption
    | with_reducible apply byHall_keeps
    | with_reducible apply finish_keeps
    | with_reducible apply finishOk_keeps
    | with_reducible apply modHall_keeps
    | with_reducible apply goes_next
    | with_reducible apply ite_goes
    | with_reducible apply ite_keeps
    | with_reducible apply ite_fst_keeps
    | ((with_reducible show Seq.ok _ = true); assumption)
    | ((with_reducible show Tbl.wf _ _ = true); assumption)
    | ((with_reducible show List.length _ ≤ _); assumption)
    | split
    | dsimp only)

theorem execDeleteIoSubmissionQueue_goes {pq : List Instr} {s : State} {n : Nat} (hk : Keeps pq s) :
    Goes pq (execDeleteIoSubmissionQueue n s) := by
  unfold execDeleteIoSubmissionQueue
  repeat' (first
    | intro _
    | with_reducible assumption
    | with_reducible apply byHall_keeps
    | with_reducible apply deleteCheck_keeps
    | with_reducible apply deleteCtx_keeps
    | with_reducible apply each_keeps
    | with_reducible apply finish_keeps
    | with_reducible apply modCtx_keeps
    | with_reducible apply modHall_keeps
    | with_reducible apply settleCheck_keeps
    | with_reducible apply goes_next
    | with_reducible apply ite_goes
    | with_reducible apply ite_keeps
    | with_reducible apply ite_fst_keeps
    | ((with_reducible show Seq.ok _ = true); assumption)
    | ((with_reducible show Tbl.wf _ _ = true); assumption)
    | ((with_reducible show List.length _ ≤ _); assumption)
    | split
    | dsimp only)

theorem execDeleteIoCompletionQueue_goes {pq : List Instr} {s : State} {n : Nat} (hk : Keeps pq s) :
    Goes pq (execDeleteIoCompletionQueue n s) := by
  unfold execDeleteIoCompletionQueue
  repeat' (first
    | intro _
    | with_reducible assumption
    | with_reducible apply byHall_keeps
    | with_reducible apply finish_keeps
    | with_reducible apply finishOk_keeps
    | with_reducible apply modHall_keeps
    | with_reducible apply goes_next
    | with_reducible apply ite_goes
    | with_reducible apply ite_keeps
    | with_reducible apply ite_fst_keeps
    | ((with_reducible show Seq.ok _ = true); assumption)
    | ((with_reducible show Tbl.wf _ _ = true); assumption)
    | ((with_reducible show List.length _ ≤ _); assumption)
    | split
    | dsimp only)

theorem execAbort_goes {pq : List Instr} {s : State} {n : Nat} (hk : Keeps pq s) :
    Goes pq (execAbort n s) := by
  unfold execAbort
  repeat' (first
    | intro _
    | with_reducible assumption
    | with_reducible apply byHall_keeps
    | with_reducible apply finish_keeps
    | with_reducible apply goes_next
    | with_reducible apply ite_goes
    | with_reducible apply ite_keeps
    | with_reducible apply ite_fst_keeps
    | ((with_reducible show Seq.ok _ = true); assumption)
    | ((with_reducible show Tbl.wf _ _ = true); assumption)
    | ((with_reducible show List.length _ ≤ _); assumption)
    | split
    | dsimp only)

theorem execAsynchronousEventRequest_goes {pq : List Instr} {s : State} {n : Nat} (hk : Keeps pq s) :
    Goes pq (execAsynchronousEventRequest n s) := by
  unfold execAsynchronousEventRequest
  repeat' (first
    | intro _
    | with_reducible assumption
    | with_reducible apply asyncEvent_keeps
    | with_reducible apply byHall_keeps
    | with_reducible apply finish_keeps
    | with_reducible apply modCtx_keeps
    | with_reducible apply serveEvents_keeps
    | with_reducible apply goes_next
    | with_reducible apply ite_goes
    | with_reducible apply ite_keeps
    | with_reducible apply ite_fst_keeps
    | ((with_reducible show Seq.ok _ = true); assumption)
    | ((with_reducible show Tbl.wf _ _ = true); assumption)
    | ((with_reducible show List.length _ ≤ _); assumption)
    | split
    | dsimp only)

theorem noteNs_keeps {pq : List Instr} {s : State} {ns : Nat} (hk : Keeps pq s) :
    Keeps pq (noteNs s ns) := by
  unfold noteNs
  repeat' (first
    | intro _
    | with_reducible assumption
    | with_reducible apply asyncEvent_keeps
    | with_reducible apply each_keeps
    | with_reducible apply modNvm_keeps
    | with_reducible apply serveEvents_keeps
    | with_reducible apply ite_keeps
    | with_reducible apply ite_fst_keeps
    | ((with_reducible show Seq.ok _ = true); assumption)
    | ((with_reducible show Tbl.wf _ _ = true); assumption)
    | ((with_reducible show List.length _ ≤ _); assumption)
    | split
    | dsimp only)

theorem onWorkers_keeps {pq : List Instr} {s : State} {n : Nat} {base : SReq} {size : Nat → Nat} (hk : Keeps pq s) :
    Keeps pq (onWorkers s n base size) := by
  unfold onWorkers
  repeat' (first
    | intro _
    | with_reducible assumption
    | with_reducible apply askBarrier_keeps
    | with_reducible apply modCtx_keeps
    | with_reducible apply settleCheck_keeps
    | with_reducible apply ite_keeps
    | with_reducible apply ite_fst_keeps
    | ((with_reducible show Seq.ok _ = true); assumption)
    | ((with_reducible show Tbl.wf _ _ = true); assumption)
    | ((with_reducible show List.length _ ≤ _); assumption)
    | split
    | dsimp only)

theorem deallocAll_keeps {pq : List Instr} {s : State} {ns : Nat} (hk : Keeps pq s) :
    Keeps pq (deallocAll s ns) := by
  unfold deallocAll
  repeat' (first
    | intro _
    | with_reducible assumption
    | with_reducible apply leaveOverlay_keeps
    | with_reducible apply mapChange_keeps
    | with_reducible apply panFlags_keeps
    | with_reducible apply ite_keeps
    | with_reducible apply ite_fst_keeps
    | ((with_reducible show Seq.ok _ = true); assumption)
    | ((with_reducible show Tbl.wf _ _ = true); assumption)
    | ((with_reducible show List.length _ ≤ _); assumption)
    | split
    | dsimp only)

theorem nsCreateNow_keeps {pq : List Instr} {s : State} {n : Nat} {nsze fmt pi : Nat} {pil : Bool} (hk : Keeps pq s) :
    Keeps pq (nsCreateNow s n nsze fmt pi pil) := by
  unfold nsCreateNow
  repeat' (first
    | intro _
    | with_reducible assumption
    | with_reducible apply finish_keeps
    | with_reducible apply mapChange_keeps
    | with_reducible apply modCtx_keeps
    | with_reducible apply modNvm_keeps
    | with_reducible apply newNsKey_keeps
    | with_reducible apply onWorkers_keeps
    | with_reducible refine fst_keeps (by assumption) ?_
    | with_reducible apply ite_keeps
    | with_reducible apply ite_fst_keeps
    | ((with_reducible show Seq.ok _ = true); assumption)
    | ((with_reducible show Tbl.wf _ _ = true); assumption)
    | ((with_reducible show List.length _ ≤ _); assumption)
    | split
    | dsimp only)

theorem dropNsKey_keeps {pq : List Instr} {s : State} {ns : Nat} (hk : Keeps pq s) :
    Keeps pq (dropNsKey s ns) := by
  unfold dropNsKey
  repeat' (first
    | intro _
    | with_reducible assumption
    | with_reducible apply eraseStale_keeps
    | with_reducible apply modKslot_keeps
    | with_reducible apply modStg_keeps
    | with_reducible apply ite_keeps
    | with_reducible apply ite_fst_keeps
    | ((with_reducible show Seq.ok _ = true); assumption)
    | ((with_reducible show Tbl.wf _ _ = true); assumption)
    | ((with_reducible show List.length _ ≤ _); assumption)
    | split
    | dsimp only)

theorem nsDeleteNow_keeps {pq : List Instr} {s : State} {n ns : Nat} (hk : Keeps pq s) :
    Keeps pq (nsDeleteNow s n ns) := by
  unfold nsDeleteNow
  repeat' (first
    | intro _
    | with_reducible assumption
    | with_reducible apply deallocAll_keeps
    | with_reducible apply dropNsKey_keeps
    | with_reducible apply mapChange_keeps
    | with_reducible apply modNvm_keeps
    | with_reducible apply noteNs_keeps
    | with_reducible apply onWorkers_keeps
    | with_reducible apply ite_keeps
    | with_reducible apply ite_fst_keeps
    | ((with_reducible show Seq.ok _ = true); assumption)
    | ((with_reducible show Tbl.wf _ _ = true); assumption)
    | ((with_reducible show List.length _ ≤ _); assumption)
    | split
    | dsimp only)

theorem execNamespaceManagement_goes {pq : List Instr} {s : State} {n : Nat} (hk : Keeps pq s) :
    Goes pq (execNamespaceManagement n s) := by
  unfold execNamespaceManagement
  repeat' (first
    | intro _
    | with_reducible assumption
    | with_reducible apply bySup_keeps
    | with_reducible apply finish_keeps
    | with_reducible apply nsCreateNow_keeps
    | with_reducible apply nsDeleteNow_keeps
    | with_reducible apply goes_next
    | with_reducible apply ite_goes
    | with_reducible apply ite_keeps
    | with_reducible apply ite_fst_keeps
    | ((with_reducible show Seq.ok _ = true); assumption)
    | ((with_reducible show Tbl.wf _ _ = true); assumption)
    | ((with_reducible show List.length _ ≤ _); assumption)
    | split
    | dsimp only)

theorem execNamespaceAttachment_goes {pq : List Instr} {s : State} {n : Nat} (hk : Keeps pq s) :
    Goes pq (execNamespaceAttachment n s) := by
  unfold execNamespaceAttachment
  repeat' (first
    | intro _
    | with_reducible assumption
    | with_reducible apply bySup_keeps
    | with_reducible apply finish_keeps
    | with_reducible apply modNvm_keeps
    | with_reducible apply noteNs_keeps
    | with_reducible apply onWorkers_keeps
    | with_reducible apply goes_next
    | with_reducible apply ite_goes
    | with_reducible apply ite_keeps
    | with_reducible apply ite_fst_keeps
    | ((with_reducible show Seq.ok _ = true); assumption)
    | ((with_reducible show Tbl.wf _ _ = true); assumption)
    | ((with_reducible show List.length _ ≤ _); assumption)
    | split
    | dsimp only)

theorem holdForRecord_keeps {pq : List Instr} {s : State} {n ns : Nat} (hk : Keeps pq s) :
    Keeps pq (holdForRecord s n ns) := by
  unfold holdForRecord
  repeat' (first
    | intro _
    | with_reducible assumption
    | with_reducible apply modCtx_keeps
    | with_reducible apply modHall_keeps
    | with_reducible apply recordTag_keeps
    | with_reducible refine fst_keeps (by assumption) ?_
    | with_reducible apply ite_keeps
    | with_reducible apply ite_fst_keeps
    | ((with_reducible show Seq.ok _ = true); assumption)
    | ((with_reducible show Tbl.wf _ _ = true); assumption)
    | ((with_reducible show List.length _ ≤ _); assumption)
    | split
    | dsimp only)

theorem formatNow_keeps {pq : List Instr} {s : State} {n ns ses fmt pi : Nat} {pil : Bool} (hk : Keeps pq s) :
    Keeps pq (formatNow s n ns ses fmt pi pil) := by
  unfold formatNow
  repeat' (first
    | intro _
    | with_reducible assumption
    | with_reducible apply askBarrier_keeps
    | with_reducible apply deallocAll_keeps
    | with_reducible apply finish_keeps
    | with_reducible apply holdForRecord_keeps
    | with_reducible apply jAppend_keeps
    | with_reducible apply modNvm_keeps
    | with_reducible apply newNsKey_keeps
    | with_reducible apply noteNs_keeps
    | with_reducible apply settleCheck_keeps
    | with_reducible refine fst_keeps (by assumption) ?_
    | with_reducible apply ite_keeps
    | with_reducible apply ite_fst_keeps
    | ((with_reducible show Seq.ok _ = true); assumption)
    | ((with_reducible show Tbl.wf _ _ = true); assumption)
    | ((with_reducible show List.length _ ≤ _); assumption)
    | split
    | dsimp only)

theorem execFormatNvm_goes {pq : List Instr} {s : State} {n : Nat} (hk : Keeps pq s) :
    Goes pq (execFormatNvm n s) := by
  unfold execFormatNvm
  repeat' (first
    | intro _
    | with_reducible assumption
    | with_reducible apply bySup_keeps
    | with_reducible apply finish_keeps
    | with_reducible apply formatNow_keeps
    | with_reducible apply goes_next
    | with_reducible apply ite_goes
    | with_reducible apply ite_keeps
    | with_reducible apply ite_fst_keeps
    | ((with_reducible show Seq.ok _ = true); assumption)
    | ((with_reducible show Tbl.wf _ _ = true); assumption)
    | ((with_reducible show List.length _ ≤ _); assumption)
    | split
    | dsimp only)

theorem newRangeKey_keeps {pq : List Instr} {s : State} {r : Nat} {pending : Bool} (hk : Keeps pq s) :
    Keeps pq (newRangeKey s r pending).1 := by
  unfold newRangeKey
  repeat' (first
    | intro _
    | with_reducible assumption
    | with_reducible apply generateKey_keeps
    | with_reducible apply modRange_keeps
    | with_reducible refine fst_keeps (by assumption) ?_
    | with_reducible apply ite_keeps
    | with_reducible apply ite_fst_keeps
    | ((with_reducible show Seq.ok _ = true); assumption)
    | ((with_reducible show Tbl.wf _ _ = true); assumption)
    | ((with_reducible show List.length _ ≤ _); assumption)
    | split
    | dsimp only)

theorem emptyAll_keeps {pq : List Instr} {s : State}  (hk : Keeps pq s) :
    Keeps pq (emptyAll s) := by
  unfold emptyAll
  repeat' (first
    | intro _
    | with_reducible assumption
    | with_reducible apply deallocAll_keeps
    | with_reducible apply each_keeps
    | with_reducible apply ite_keeps
    | with_reducible apply ite_fst_keeps
    | ((with_reducible show Seq.ok _ = true); assumption)
    | ((with_reducible show Tbl.wf _ _ = true); assumption)
    | ((with_reducible show List.length _ ≤ _); assumption)
    | split
    | dsimp only)

theorem cryptoErase_keeps {pq : List Instr} {s : State}  (hk : Keeps pq s) :
    Keeps pq (cryptoErase s) := by
  unfold cryptoErase
  repeat' (first
    | intro _
    | with_reducible assumption
    | with_reducible apply each_keeps
    | with_reducible apply emptyAll_keeps
    | with_reducible apply eraseStale_keeps
    | with_reducible apply jAppend_keeps
    | with_reducible apply modNvm_keeps
    | with_reducible apply newRangeKey_keeps
    | with_reducible apply pendingNsKey_keeps
    | with_reducible apply seedReplace_keeps
    | with_reducible refine fst_keeps (by assumption) ?_
    | with_reducible apply ite_keeps
    | with_reducible apply ite_fst_keeps
    | ((with_reducible show Seq.ok _ = true); assumption)
    | ((with_reducible show Tbl.wf _ _ = true); assumption)
    | ((with_reducible show List.length _ ≤ _); assumption)
    | split
    | dsimp only)

theorem blockErase_keeps {pq : List Instr} {s : State}  (hk : Keeps pq s) :
    Keeps pq (blockErase s) := by
  unfold blockErase
  repeat' (first
    | intro _
    | with_reducible assumption
    | with_reducible apply each_keeps
    | with_reducible apply emptyAll_keeps
    | with_reducible apply endSuite_keeps
    | with_reducible apply jAppend_keeps
    | with_reducible apply markEvery_keeps
    | with_reducible apply sanitizeCheck_keeps
    | with_reducible apply ite_keeps
    | with_reducible apply ite_fst_keeps
    | ((with_reducible show Seq.ok _ = true); assumption)
    | ((with_reducible show Tbl.wf _ _ = true); assumption)
    | ((with_reducible show List.length _ ≤ _); assumption)
    | split
    | dsimp only)

theorem sanitizeRow_keeps {pq : List Instr} {s : State} {n action : Nat} (hk : Keeps pq s) :
    Keeps pq (sanitizeRow s n action) := by
  unfold sanitizeRow
  repeat' (first
    | intro _
    | with_reducible assumption
    | with_reducible apply askBarrier_keeps
    | with_reducible apply blockErase_keeps
    | with_reducible apply bySup_keeps
    | with_reducible apply cryptoErase_keeps
    | with_reducible apply finish_keeps
    | with_reducible apply finishOk_keeps
    | with_reducible apply modNvm_keeps
    | with_reducible apply ite_keeps
    | with_reducible apply ite_fst_keeps
    | ((with_reducible show Seq.ok _ = true); assumption)
    | ((with_reducible show Tbl.wf _ _ = true); assumption)
    | ((with_reducible show List.length _ ≤ _); assumption)
    | split
    | dsimp only)

theorem execSanitizeCryptoErase_goes {pq : List Instr} {s : State} {n : Nat} (hk : Keeps pq s) :
    Goes pq (execSanitizeCryptoErase n s) := by
  unfold execSanitizeCryptoErase
  repeat' (first
    | intro _
    | with_reducible assumption
    | with_reducible apply sanitizeRow_keeps
    | with_reducible apply goes_next
    | with_reducible apply ite_goes
    | with_reducible apply ite_keeps
    | with_reducible apply ite_fst_keeps
    | ((with_reducible show Seq.ok _ = true); assumption)
    | ((with_reducible show Tbl.wf _ _ = true); assumption)
    | ((with_reducible show List.length _ ≤ _); assumption)
    | split
    | dsimp only)

theorem execSanitizeBlockErase_goes {pq : List Instr} {s : State} {n : Nat} (hk : Keeps pq s) :
    Goes pq (execSanitizeBlockErase n s) := by
  unfold execSanitizeBlockErase
  repeat' (first
    | intro _
    | with_reducible assumption
    | with_reducible apply blockErase_keeps
    | with_reducible apply sanitizeRow_keeps
    | with_reducible apply goes_next
    | with_reducible apply ite_goes
    | with_reducible apply ite_keeps
    | with_reducible apply ite_fst_keeps
    | ((with_reducible show Seq.ok _ = true); assumption)
    | ((with_reducible show Tbl.wf _ _ = true); assumption)
    | ((with_reducible show List.length _ ≤ _); assumption)
    | split
    | dsimp only)

theorem startTest_keeps {pq : List Instr} {s : State} {n : Nat} {ext : Bool} (hk : Keeps pq s) :
    Keeps pq (startTest s n ext) := by
  unfold startTest
  repeat' (first
    | intro _
    | with_reducible assumption
    | with_reducible apply bySup_keeps
    | with_reducible apply finish_keeps
    | with_reducible apply finishOk_keeps
    | with_reducible apply modAtc_keeps
    | with_reducible apply ite_keeps
    | with_reducible apply ite_fst_keeps
    | ((with_reducible show Seq.ok _ = true); assumption)
    | ((with_reducible show Tbl.wf _ _ = true); assumption)
    | ((with_reducible show List.length _ ≤ _); assumption)
    | ((with_reducible show List.length [] ≤ _); exact Nat.zero_le _)
    | split
    | dsimp only)

theorem execDeviceSelfTestShort_goes {pq : List Instr} {s : State} {n : Nat} (hk : Keeps pq s) :
    Goes pq (execDeviceSelfTestShort n s) := by
  unfold execDeviceSelfTestShort
  repeat' (first
    | intro _
    | with_reducible assumption
    | with_reducible apply startTest_keeps
    | with_reducible apply goes_next
    | with_reducible apply ite_goes
    | with_reducible apply ite_keeps
    | with_reducible apply ite_fst_keeps
    | ((with_reducible show Seq.ok _ = true); assumption)
    | ((with_reducible show Tbl.wf _ _ = true); assumption)
    | ((with_reducible show List.length _ ≤ _); assumption)
    | split
    | dsimp only)

theorem execDeviceSelfTestExtended_goes {pq : List Instr} {s : State} {n : Nat} (hk : Keeps pq s) :
    Goes pq (execDeviceSelfTestExtended n s) := by
  unfold execDeviceSelfTestExtended
  repeat' (first
    | intro _
    | with_reducible assumption
    | with_reducible apply startTest_keeps
    | with_reducible apply goes_next
    | with_reducible apply ite_goes
    | with_reducible apply ite_keeps
    | with_reducible apply ite_fst_keeps
    | ((with_reducible show Seq.ok _ = true); assumption)
    | ((with_reducible show Tbl.wf _ _ = true); assumption)
    | ((with_reducible show List.length _ ≤ _); assumption)
    | split
    | dsimp only)

theorem execDeviceSelfTestAbort_goes {pq : List Instr} {s : State} {n : Nat} (hk : Keeps pq s) :
    Goes pq (execDeviceSelfTestAbort n s) := by
  unfold execDeviceSelfTestAbort
  repeat' (first
    | intro _
    | with_reducible assumption
    | with_reducible apply bySup_keeps
    | with_reducible apply dstEnd_keeps
    | with_reducible apply finishOk_keeps
    | with_reducible apply goes_next
    | with_reducible apply ite_goes
    | with_reducible apply ite_keeps
    | with_reducible apply ite_fst_keeps
    | ((with_reducible show Seq.ok _ = true); assumption)
    | ((with_reducible show Tbl.wf _ _ = true); assumption)
    | ((with_reducible show List.length _ ≤ _); assumption)
    | split
    | dsimp only)

theorem execDirectiveSend_goes {pq : List Instr} {s : State} {n : Nat} (hk : Keeps pq s) :
    Goes pq (execDirectiveSend n s) := by
  unfold execDirectiveSend
  repeat' (first
    | intro _
    | with_reducible assumption
    | with_reducible apply bySup_keeps
    | with_reducible apply finish_keeps
    | with_reducible apply finishOk_keeps
    | with_reducible apply goes_next
    | with_reducible apply ite_goes
    | with_reducible apply ite_keeps
    | with_reducible apply ite_fst_keeps
    | ((with_reducible show Seq.ok _ = true); assumption)
    | ((with_reducible show Tbl.wf _ _ = true); assumption)
    | ((with_reducible show List.length _ ≤ _); assumption)
    | split
    | dsimp only)

theorem execDirectiveReceive_goes {pq : List Instr} {s : State} {n : Nat} (hk : Keeps pq s) :
    Goes pq (execDirectiveReceive n s) := by
  unfold execDirectiveReceive
  repeat' (first
    | intro _
    | with_reducible assumption
    | with_reducible apply bySup_keeps
    | with_reducible apply finish_keeps
    | with_reducible apply finishOk_keeps
    | with_reducible apply sendLayout_keeps
    | with_reducible apply goes_next
    | with_reducible apply ite_goes
    | with_reducible apply ite_keeps
    | with_reducible apply ite_fst_keeps
    | ((with_reducible show Seq.ok _ = true); assumption)
    | ((with_reducible show Tbl.wf _ _ = true); assumption)
    | ((with_reducible show List.length _ ≤ _); assumption)
    | split
    | dsimp only)

theorem execGetLbaStatus_goes {pq : List Instr} {s : State} {n : Nat} (hk : Keeps pq s) :
    Goes pq (execGetLbaStatus n s) := by
  unfold execGetLbaStatus
  repeat' (first
    | intro _
    | with_reducible assumption
    | with_reducible apply bySup_keeps
    | with_reducible apply finishOk_keeps
    | with_reducible apply sendLayout_keeps
    | with_reducible apply goes_next
    | with_reducible apply ite_goes
    | with_reducible apply ite_keeps
    | with_reducible apply ite_fst_keeps
    | ((with_reducible show Seq.ok _ = true); assumption)
    | ((with_reducible show Tbl.wf _ _ = true); assumption)
    | ((with_reducible show List.length _ ≤ _); assumption)
    | split
    | dsimp only)

theorem execAtticClear_goes {pq : List Instr} {s : State} {n : Nat} (hk : Keeps pq s) :
    Goes pq (execAtticClear n s) := by
  unfold execAtticClear
  repeat' (first
    | intro _
    | with_reducible assumption
    | with_reducible apply bySup_keeps
    | with_reducible apply finish_keeps
    | with_reducible apply finishOk_keeps
    | with_reducible apply modAtc_keeps
    | with_reducible apply post_keeps
    | with_reducible apply goes_next
    | with_reducible apply ite_goes
    | with_reducible apply ite_keeps
    | with_reducible apply ite_fst_keeps
    | ((with_reducible show Seq.ok _ = true); assumption)
    | ((with_reducible show Tbl.wf _ _ = true); assumption)
    | ((with_reducible show List.length _ ≤ _); assumption)
    | ((with_reducible show List.length [] ≤ _); exact Nat.zero_le _)
    | split
    | dsimp only)

theorem restartOps_keeps {pq : List Instr} {s : State}  (hk : Keeps pq s) :
    Keeps pq (restartOps s) := by
  unfold restartOps
  repeat' (first
    | intro _
    | with_reducible assumption
    | with_reducible apply cryptoErase_keeps
    | with_reducible apply each_keeps
    | with_reducible apply formatNow_keeps
    | with_reducible apply ite_keeps
    | with_reducible apply ite_fst_keeps
    | ((with_reducible show Seq.ok _ = true); assumption)
    | ((with_reducible show Tbl.wf _ _ = true); assumption)
    | ((with_reducible show List.length _ ≤ _); assumption)
    | split
    | dsimp only)

theorem execRecovery_goes {pq : List Instr} {s : State} {step : Nat} {hole : Option Nat} {badSegs : List (Nat × Bool)} {dump : DumpFound} (hk : Keeps pq s) :
    Goes pq (execRecovery step hole badSegs dump s) := by
  unfold execRecovery
  repeat' (first
    | intro _
    | with_reducible assumption
    | with_reducible apply each_keeps
    | with_reducible apply modHport_keeps
    | with_reducible apply modPan_keeps
    | with_reducible apply post_keeps
    | with_reducible apply recoverDram_keeps
    | with_reducible apply recoverDump_keeps
    | with_reducible apply recoverLoad_keeps
    | with_reducible apply recoverReady_keeps
    | with_reducible apply recoverReplay_keeps
    | with_reducible apply recoverSuites_keeps
    | with_reducible apply restartOps_keeps
    | with_reducible apply sizeCheck_keeps
    | with_reducible apply wr_keeps
    | with_reducible apply goes_next
    | with_reducible apply ite_goes
    | with_reducible apply ite_keeps
    | with_reducible apply ite_fst_keeps
    | ((with_reducible show Seq.ok _ = true); assumption)
    | ((with_reducible show Tbl.wf _ _ = true); assumption)
    | ((with_reducible show List.length _ ≤ _); assumption)
    | split
    | dsimp only)

end Sys2Proof.Machine
end

