-- ==== Sys2Proof/Laws/KeepFeatures.lean ====
section
/-!
SUPPORT. The invariant under the operations and commands of Features: each keeps it and the queue (Keeps); a command answers a next state (Goes).
-/
set_option linter.unusedTactic false
set_option linter.unreachableTactic false
set_option linter.unusedVariables false
namespace Sys2Proof.Machine

theorem setFeature_keeps {pq : List Instr} {s : State} {n fid : Nat} {sup : Bool} {f : Ctx → Nat → Nat → Nat → List Nat → State} (hk : Keeps pq s) (h_f : ∀ (a0 : Ctx) (a1 : Nat) (a2 : Nat) (a3 : Nat) (a4 : List Nat), Keeps pq (f a0 a1 a2 a3 a4)) :
    Keeps pq (setFeature s n fid sup f) := by
  unfold setFeature
  repeat' (first
    | intro _
    | with_reducible assumption
    | with_reducible apply h_f
    | with_reducible apply byHall_keeps
    | with_reducible apply bySup_keeps
    | with_reducible apply finish_keeps
    | with_reducible apply ite_keeps
    | with_reducible apply ite_fst_keeps
    | ((with_reducible show Seq.ok _ = true); assumption)
    | ((with_reducible show Tbl.wf _ _ = true); assumption)
    | ((with_reducible show List.length _ ≤ _); assumption)
    | split
    | dsimp only)

theorem keepFeature_keeps {pq : List Instr} {s : State} {n : Nat} {c : Ctx} {fid sub v : Nat} (hk : Keeps pq s) :
    Keeps pq (keepFeature s n c fid sub v) := by
  unfold keepFeature
  repeat' (first
    | intro _
    | with_reducible assumption
    | with_reducible apply finishOk_keeps
    | with_reducible apply setFeat_keeps
    | with_reducible apply ite_keeps
    | with_reducible apply ite_fst_keeps
    | ((with_reducible show Seq.ok _ = true); assumption)
    | ((with_reducible show Tbl.wf _ _ = true); assumption)
    | ((with_reducible show List.length _ ≤ _); assumption)
    | split
    | dsimp only)

theorem execSetFeaturesArbitration_goes {pq : List Instr} {s : State} {n : Nat} (hk : Keeps pq s) :
    Goes pq (execSetFeaturesArbitration n s) := by
  unfold execSetFeaturesArbitration
  repeat' (first
    | intro _
    | with_reducible assumption
    | with_reducible apply keepFeature_keeps
    | with_reducible apply setFeature_keeps
    | with_reducible apply goes_next
    | with_reducible apply ite_goes
    | with_reducible apply ite_keeps
    | with_reducible apply ite_fst_keeps
    | ((with_reducible show Seq.ok _ = true); assumption)
    | ((with_reducible show Tbl.wf _ _ = true); assumption)
    | ((with_reducible show List.length _ ≤ _); assumption)
    | split
    | dsimp only)

theorem execSetFeaturesPowerManagement_goes {pq : List Instr} {s : State} {n : Nat} (hk : Keeps pq s) :
    Goes pq (execSetFeaturesPowerManagement n s) := by
  unfold execSetFeaturesPowerManagement
  repeat' (first
    | intro _
    | with_reducible assumption
    | with_reducible apply finish_keeps
    | with_reducible apply finishOk_keeps
    | with_reducible apply modHall_keeps
    | with_reducible apply modPwr_keeps
    | with_reducible apply setFeature_keeps
    | with_reducible apply goes_next
    | with_reducible apply ite_goes
    | with_reducible apply ite_keeps
    | with_reducible apply ite_fst_keeps
    | ((with_reducible show Seq.ok _ = true); assumption)
    | ((with_reducible show Tbl.wf _ _ = true); assumption)
    | ((with_reducible show List.length _ ≤ _); assumption)
    | split
    | dsimp only)

theorem execSetFeaturesTempThreshold_goes {pq : List Instr} {s : State} {n : Nat} (hk : Keeps pq s) :
    Goes pq (execSetFeaturesTempThreshold n s) := by
  unfold execSetFeaturesTempThreshold
  repeat' (first
    | intro _
    | with_reducible assumption
    | with_reducible apply asyncEvent_keeps
    | with_reducible apply each_keeps
    | with_reducible apply finish_keeps
    | with_reducible apply finishOk_keeps
    | with_reducible apply serveEvents_keeps
    | with_reducible apply setFeat_keeps
    | with_reducible apply setFeature_keeps
    | with_reducible apply goes_next
    | with_reducible apply ite_goes
    | with_reducible apply ite_keeps
    | with_reducible apply ite_fst_keeps
    | ((with_reducible show Seq.ok _ = true); assumption)
    | ((with_reducible show Tbl.wf _ _ = true); assumption)
    | ((with_reducible show List.length _ ≤ _); assumption)
    | split
    | dsimp only)

theorem execSetFeaturesErrorRecovery_goes {pq : List Instr} {s : State} {n : Nat} (hk : Keeps pq s) :
    Goes pq (execSetFeaturesErrorRecovery n s) := by
  unfold execSetFeaturesErrorRecovery
  repeat' (first
    | intro _
    | with_reducible assumption
    | with_reducible apply each_keeps
    | with_reducible apply finish_keeps
    | with_reducible apply finishOk_keeps
    | with_reducible apply setFeat_keeps
    | with_reducible apply setFeature_keeps
    | with_reducible apply goes_next
    | with_reducible apply ite_goes
    | with_reducible apply ite_keeps
    | with_reducible apply ite_fst_keeps
    | ((with_reducible show Seq.ok _ = true); assumption)
    | ((with_reducible show Tbl.wf _ _ = true); assumption)
    | ((with_reducible show List.length _ ≤ _); assumption)
    | split
    | dsimp only)

theorem execSetFeaturesVolatileWriteCache_goes {pq : List Instr} {s : State} {n : Nat} (hk : Keeps pq s) :
    Goes pq (execSetFeaturesVolatileWriteCache n s) := by
  unfold execSetFeaturesVolatileWriteCache
  repeat' (first
    | intro _
    | with_reducible assumption
    | with_reducible apply finish_keeps
    | with_reducible apply finishOk_keeps
    | with_reducible apply setFeat_keeps
    | with_reducible apply setFeature_keeps
    | with_reducible apply wtCheck_keeps
    | with_reducible apply goes_next
    | with_reducible apply ite_goes
    | with_reducible apply ite_keeps
    | with_reducible apply ite_fst_keeps
    | ((with_reducible show Seq.ok _ = true); assumption)
    | ((with_reducible show Tbl.wf _ _ = true); assumption)
    | ((with_reducible show List.length _ ≤ _); assumption)
    | split
    | dsimp only)

theorem execSetFeaturesNumberOfQueues_goes {pq : List Instr} {s : State} {n : Nat} (hk : Keeps pq s) :
    Goes pq (execSetFeaturesNumberOfQueues n s) := by
  unfold execSetFeaturesNumberOfQueues
  repeat' (first
    | intro _
    | with_reducible assumption
    | with_reducible apply finish_keeps
    | with_reducible apply modNvm_keeps
    | with_reducible apply setFeat_keeps
    | with_reducible apply setFeature_keeps
    | with_reducible apply goes_next
    | with_reducible apply ite_goes
    | with_reducible apply ite_keeps
    | with_reducible apply ite_fst_keeps
    | ((with_reducible show Seq.ok _ = true); assumption)
    | ((with_reducible show Tbl.wf _ _ = true); assumption)
    | ((with_reducible show List.length _ ≤ _); assumption)
    | split
    | dsimp only)

theorem execSetFeaturesInterruptCoalescing_goes {pq : List Instr} {s : State} {n : Nat} (hk : Keeps pq s) :
    Goes pq (execSetFeaturesInterruptCoalescing n s) := by
  unfold execSetFeaturesInterruptCoalescing
  repeat' (first
    | intro _
    | with_reducible assumption
    | with_reducible apply keepFeature_keeps
    | with_reducible apply setFeature_keeps
    | with_reducible apply goes_next
    | with_reducible apply ite_goes
    | with_reducible apply ite_keeps
    | with_reducible apply ite_fst_keeps
    | ((with_reducible show Seq.ok _ = true); assumption)
    | ((with_reducible show Tbl.wf _ _ = true); assumption)
    | ((with_reducible show List.length _ ≤ _); assumption)
    | split
    | dsimp only)

theorem execSetFeaturesIntVectorConfig_goes {pq : List Instr} {s : State} {n : Nat} (hk : Keeps pq s) :
    Goes pq (execSetFeaturesIntVectorConfig n s) := by
  unfold execSetFeaturesIntVectorConfig
  repeat' (first
    | intro _
    | with_reducible assumption
    | with_reducible apply finish_keeps
    | with_reducible apply keepFeature_keeps
    | with_reducible apply setFeature_keeps
    | with_reducible apply goes_next
    | with_reducible apply ite_goes
    | with_reducible apply ite_keeps
    | with_reducible apply ite_fst_keeps
    | ((with_reducible show Seq.ok _ = true); assumption)
    | ((with_reducible show Tbl.wf _ _ = true); assumption)
    | ((with_reducible show List.length _ ≤ _); assumption)
    | split
    | dsimp only)

theorem execSetFeaturesWriteAtomicity_goes {pq : List Instr} {s : State} {n : Nat} (hk : Keeps pq s) :
    Goes pq (execSetFeaturesWriteAtomicity n s) := by
  unfold execSetFeaturesWriteAtomicity
  repeat' (first
    | intro _
    | with_reducible assumption
    | with_reducible apply keepFeature_keeps
    | with_reducible apply setFeature_keeps
    | with_reducible apply goes_next
    | with_reducible apply ite_goes
    | with_reducible apply ite_keeps
    | with_reducible apply ite_fst_keeps
    | ((with_reducible show Seq.ok _ = true); assumption)
    | ((with_reducible show Tbl.wf _ _ = true); assumption)
    | ((with_reducible show List.length _ ≤ _); assumption)
    | split
    | dsimp only)

theorem execSetFeaturesAsyncEventConfig_goes {pq : List Instr} {s : State} {n : Nat} (hk : Keeps pq s) :
    Goes pq (execSetFeaturesAsyncEventConfig n s) := by
  unfold execSetFeaturesAsyncEventConfig
  repeat' (first
    | intro _
    | with_reducible assumption
    | with_reducible apply keepFeature_keeps
    | with_reducible apply setFeature_keeps
    | with_reducible apply goes_next
    | with_reducible apply ite_goes
    | with_reducible apply ite_keeps
    | with_reducible apply ite_fst_keeps
    | ((with_reducible show Seq.ok _ = true); assumption)
    | ((with_reducible show Tbl.wf _ _ = true); assumption)
    | ((with_reducible show List.length _ ≤ _); assumption)
    | split
    | dsimp only)

theorem execSetFeaturesApst_goes {pq : List Instr} {s : State} {n : Nat} (hk : Keeps pq s) :
    Goes pq (execSetFeaturesApst n s) := by
  unfold execSetFeaturesApst
  repeat' (first
    | intro _
    | with_reducible assumption
    | with_reducible apply finish_keeps
    | with_reducible apply finishOk_keeps
    | with_reducible apply modHall_keeps
    | with_reducible apply setFeat_keeps
    | with_reducible apply setFeature_keeps
    | with_reducible apply goes_next
    | with_reducible apply ite_goes
    | with_reducible apply ite_keeps
    | with_reducible apply ite_fst_keeps
    | ((with_reducible show Seq.ok _ = true); assumption)
    | ((with_reducible show Tbl.wf _ _ = true); assumption)
    | ((with_reducible show List.length _ ≤ _); assumption)
    | split
    | dsimp only)

theorem execSetFeaturesTimestamp_goes {pq : List Instr} {s : State} {n : Nat} (hk : Keeps pq s) :
    Goes pq (execSetFeaturesTimestamp n s) := by
  unfold execSetFeaturesTimestamp
  repeat' (first
    | intro _
    | with_reducible assumption
    | with_reducible apply finishOk_keeps
    | with_reducible apply modNvm_keeps
    | with_reducible apply setFeature_keeps
    | with_reducible apply goes_next
    | with_reducible apply ite_goes
    | with_reducible apply ite_keeps
    | with_reducible apply ite_fst_keeps
    | ((with_reducible show Seq.ok _ = true); assumption)
    | ((with_reducible show Tbl.wf _ _ = true); assumption)
    | ((with_reducible show List.length _ ≤ _); assumption)
    | split
    | dsimp only)

theorem execSetFeaturesNopsConfig_goes {pq : List Instr} {s : State} {n : Nat} (hk : Keeps pq s) :
    Goes pq (execSetFeaturesNopsConfig n s) := by
  unfold execSetFeaturesNopsConfig
  repeat' (first
    | intro _
    | with_reducible assumption
    | with_reducible apply keepFeature_keeps
    | with_reducible apply setFeature_keeps
    | with_reducible apply goes_next
    | with_reducible apply ite_goes
    | with_reducible apply ite_keeps
    | with_reducible apply ite_fst_keeps
    | ((with_reducible show Seq.ok _ = true); assumption)
    | ((with_reducible show Tbl.wf _ _ = true); assumption)
    | ((with_reducible show List.length _ ≤ _); assumption)
    | split
    | dsimp only)

theorem execSetFeaturesFdp_goes {pq : List Instr} {s : State} {n : Nat} (hk : Keeps pq s) :
    Goes pq (execSetFeaturesFdp n s) := by
  unfold execSetFeaturesFdp
  repeat' (first
    | intro _
    | with_reducible assumption
    | with_reducible apply finish_keeps
    | with_reducible apply finishOk_keeps
    | with_reducible apply modNvm_keeps
    | with_reducible apply setFeature_keeps
    | with_reducible apply goes_next
    | with_reducible apply ite_goes
    | with_reducible apply ite_keeps
    | with_reducible apply ite_fst_keeps
    | ((with_reducible show Seq.ok _ = true); assumption)
    | ((with_reducible show Tbl.wf _ _ = true); assumption)
    | ((with_reducible show List.length _ ≤ _); assumption)
    | split
    | dsimp only)

theorem execSetFeaturesFdpEvents_goes {pq : List Instr} {s : State} {n : Nat} (hk : Keeps pq s) :
    Goes pq (execSetFeaturesFdpEvents n s) := by
  unfold execSetFeaturesFdpEvents
  repeat' (first
    | intro _
    | with_reducible assumption
    | with_reducible apply finish_keeps
    | with_reducible apply finishOk_keeps
    | with_reducible apply modNvm_keeps
    | with_reducible apply setFeature_keeps
    | with_reducible apply goes_next
    | with_reducible apply ite_goes
    | with_reducible apply ite_keeps
    | with_reducible apply ite_fst_keeps
    | ((with_reducible show Seq.ok _ = true); assumption)
    | ((with_reducible show Tbl.wf _ _ = true); assumption)
    | ((with_reducible show List.length _ ≤ _); assumption)
    | split
    | dsimp only)

theorem execSetFeaturesSwProgressMarker_goes {pq : List Instr} {s : State} {n : Nat} (hk : Keeps pq s) :
    Goes pq (execSetFeaturesSwProgressMarker n s) := by
  unfold execSetFeaturesSwProgressMarker
  repeat' (first
    | intro _
    | with_reducible assumption
    | with_reducible apply finishOk_keeps
    | with_reducible apply setFeat_keeps
    | with_reducible apply setFeature_keeps
    | with_reducible apply goes_next
    | with_reducible apply ite_goes
    | with_reducible apply ite_keeps
    | with_reducible apply ite_fst_keeps
    | ((with_reducible show Seq.ok _ = true); assumption)
    | ((with_reducible show Tbl.wf _ _ = true); assumption)
    | ((with_reducible show List.length _ ≤ _); assumption)
    | split
    | dsimp only)

theorem execGetFeatures_goes {pq : List Instr} {s : State} {n : Nat} (hk : Keeps pq s) :
    Goes pq (execGetFeatures n s) := by
  unfold execGetFeatures
  repeat' (first
    | intro _
    | with_reducible assumption
    | with_reducible apply byHall_keeps
    | with_reducible apply emit_keeps
    | with_reducible apply finish_keeps
    | with_reducible apply goes_next
    | with_reducible apply ite_goes
    | with_reducible apply ite_keeps
    | with_reducible apply ite_fst_keeps
    | ((with_reducible show Seq.ok _ = true); assumption)
    | ((with_reducible show Tbl.wf _ _ = true); assumption)
    | ((with_reducible show List.length _ ≤ _); assumption)
    | split
    | dsimp only)

end Sys2Proof.Machine
end

