-- ==== Sys2Proof/Laws/KeepIdentify.lean ====
section
/-!
SUPPORT. The invariant under the operations and commands of Identify: each keeps it and the queue (Keeps); a command answers a next state (Goes).
-/
set_option linter.unusedTactic false
set_option linter.unreachableTactic false
set_option linter.unusedVariables false
namespace Sys2Proof.Machine

theorem execIdentify_goes {pq : List Instr} {s : State} {n : Nat} (hk : Keeps pq s) :
    Goes pq (execIdentify n s) := by
  unfold execIdentify
  repeat' (first
    | intro _
    | with_reducible assumption
    | with_reducible apply byHall_keeps
    | with_reducible apply finish_keeps
    | with_reducible apply finishOk_keeps
    | with_reducible apply sendLayout_keeps
    | with_reducible apply tick_keeps
    | with_reducible apply goes_next
    | with_reducible apply ite_goes
    | with_reducible apply ite_keeps
    | with_reducible apply ite_fst_keeps
    | ((with_reducible show Seq.ok _ = true); assumption)
    | ((with_reducible show Tbl.wf _ _ = true); assumption)
    | ((with_reducible show List.length _ ≤ _); assumption)
    | split
    | dsimp only)

end Sys2Proof.Machine
end

