-- ==== Sys2Proof/Laws/KeepLogs.lean ====
section
/-!
SUPPORT. The invariant under the operations and commands of Logs: each keeps it and the queue (Keeps); a command answers a next state (Goes).
-/
set_option linter.unusedTactic false
set_option linter.unreachableTactic false
set_option linter.unusedVariables false
namespace Sys2Proof.Machine

theorem warnCheck_keeps {pq : List Instr} {s : State}  (hk : Keeps pq s) :
    Keeps pq (warnCheck s) := by
  unfold warnCheck
  repeat' (first
    | intro _
    | with_reducible assumption
    | with_reducible apply asyncEvent_keeps
    | with_reducible apply each_keeps
    | with_reducible apply modNvm_keeps
    | with_reducible apply serveEvents_keeps
    | with_reducible apply ite_keeps
    | with_reducible apply ite_fst_keeps
    | ((with_reducible show Seq.ok _ = true); assumption)
    | ((with_reducible show Tbl.wf _ _ = true); assumption)
    | ((with_reducible show List.length _ ≤ _); assumption)
    | split
    | dsimp only)

theorem vendorPage_keeps {pq : List Instr} {s : State} {p page offset : Nat} (hk : Keeps pq s) :
    Keeps pq (vendorPage s p page offset).1 := by
  unfold vendorPage
  repeat' (first
    | intro _
    | with_reducible assumption
    | with_reducible apply modHall_keeps
    | with_reducible apply ite_keeps
    | with_reducible apply ite_fst_keeps
    | ((with_reducible show Seq.ok _ = true); assumption)
    | ((with_reducible show Tbl.wf _ _ = true); assumption)
    | ((with_reducible show List.length _ ≤ _); assumption)
    | split
    | dsimp only)

theorem standardPage_keeps {pq : List Instr} {s : State} {p page : Nat} {rae : Bool} (hk : Keeps pq s) :
    Keeps pq (standardPage s p page rae).1 := by
  unfold standardPage
  repeat' (first
    | intro _
    | with_reducible assumption
    | with_reducible apply modNvm_keeps
    | with_reducible apply tick_keeps
    | with_reducible apply ticks_keeps
    | with_reducible apply ite_keeps
    | with_reducible apply ite_fst_keeps
    | ((with_reducible show Seq.ok _ = true); assumption)
    | ((with_reducible show Tbl.wf _ _ = true); assumption)
    | ((with_reducible show List.length _ ≤ _); assumption)
    | split
    | dsimp only)

theorem clearReported_keeps {pq : List Instr} {s : State} {p : Nat} (hk : Keeps pq s) :
    Keeps pq (clearReported s p) := by
  unfold clearReported
  repeat' (first
    | intro _
    | with_reducible assumption
    | with_reducible apply each_keeps
    | with_reducible apply jAppend_keeps
    | with_reducible apply modHall_keeps
    | with_reducible apply post_keeps
    | with_reducible apply ite_keeps
    | with_reducible apply ite_fst_keeps
    | ((with_reducible show Seq.ok _ = true); assumption)
    | ((with_reducible show Tbl.wf _ _ = true); assumption)
    | ((with_reducible show List.length _ ≤ _); assumption)
    | split
    | dsimp only)

theorem getLog_keeps {pq : List Instr} {s : State} {n : Nat} {c : Ctx} {page offset len ns : Nat} {rae : Bool} (hk : Keeps pq s) :
    Keeps pq (getLog s n c page offset len ns rae) := by
  unfold getLog
  repeat' (first
    | intro _
    | with_reducible assumption
    | with_reducible apply clearReported_keeps
    | with_reducible apply finish_keeps
    | with_reducible apply finishOk_keeps
    | with_reducible apply modHall_keeps
    | with_reducible apply sendLayout_keeps
    | with_reducible apply standardPage_keeps
    | with_reducible apply vendorPage_keeps
    | with_reducible refine fst_keeps (by assumption) ?_
    | with_reducible apply ite_keeps
    | with_reducible apply ite_fst_keeps
    | ((with_reducible show Seq.ok _ = true); assumption)
    | ((with_reducible show Tbl.wf _ _ = true); assumption)
    | ((with_reducible show List.length _ ≤ _); assumption)
    | split
    | dsimp only)

theorem logRow_keeps {pq : List Instr} {s : State} {n : Nat} {deferred : Bool} (hk : Keeps pq s) :
    Keeps pq (logRow s n deferred) := by
  unfold logRow
  repeat' (first
    | intro _
    | with_reducible assumption
    | with_reducible apply byHall_keeps
    | with_reducible apply getLog_keeps
    | with_reducible apply ite_keeps
    | with_reducible apply ite_fst_keeps
    | ((with_reducible show Seq.ok _ = true); assumption)
    | ((with_reducible show Tbl.wf _ _ = true); assumption)
    | ((with_reducible show List.length _ ≤ _); assumption)
    | split
    | dsimp only)

theorem execGetLogPage_goes {pq : List Instr} {s : State} {n : Nat} (hk : Keeps pq s) :
    Goes pq (execGetLogPage n s) := by
  unfold execGetLogPage
  repeat' (first
    | intro _
    | with_reducible assumption
    | with_reducible apply logRow_keeps
    | with_reducible apply goes_next
    | with_reducible apply ite_goes
    | with_reducible apply ite_keeps
    | with_reducible apply ite_fst_keeps
    | ((with_reducible show Seq.ok _ = true); assumption)
    | ((with_reducible show Tbl.wf _ _ = true); assumption)
    | ((with_reducible show List.length _ ≤ _); assumption)
    | split
    | dsimp only)

theorem execGetLogPageDeferredErrors_goes {pq : List Instr} {s : State} {n : Nat} (hk : Keeps pq s) :
    Goes pq (execGetLogPageDeferredErrors n s) := by
  unfold execGetLogPageDeferredErrors
  repeat' (first
    | intro _
    | with_reducible assumption
    | with_reducible apply logRow_keeps
    | with_reducible apply goes_next
    | with_reducible apply ite_goes
    | with_reducible apply ite_keeps
    | with_reducible apply ite_fst_keeps
    | ((with_reducible show Seq.ok _ = true); assumption)
    | ((with_reducible show Tbl.wf _ _ = true); assumption)
    | ((with_reducible show List.length _ ≤ _); assumption)
    | split
    | dsimp only)

end Sys2Proof.Machine
end

