-- ==== Sys2Proof/Laws/KeepSecurity.lean ====
section
/-!
SUPPORT. The invariant under the operations and commands of Security: each keeps it and the queue (Keeps); a command answers a next state (Goes).
-/
set_option linter.unusedTactic false
set_option linter.unreachableTactic false
set_option linter.unusedVariables false
namespace Sys2Proof.Machine

theorem rewrapPending_keeps {pq : List Instr} {s : State} {auth cred : Nat} (hk : Keeps pq s) :
    Keeps pq (rewrapPending s auth cred) := by
  unfold rewrapPending
  repeat' (first
    | intro _
    | with_reducible assumption
    | with_reducible apply each_keeps
    | with_reducible apply modRange_keeps
    | with_reducible apply modStg_keeps
    | with_reducible apply rewrap_keeps
    | with_reducible refine fst_keeps (by assumption) ?_
    | with_reducible apply ite_keeps
    | with_reducible apply ite_fst_keeps
    | ((with_reducible show Seq.ok _ = true); assumption)
    | ((with_reducible show Tbl.wf _ _ = true); assumption)
    | ((with_reducible show List.length _ ≤ _); assumption)
    | split
    | dsimp only)

theorem startSession_keeps {pq : List Instr} {s : State} {p sp auth cred : Nat} (hk : Keeps pq s) :
    Keeps pq (startSession s p sp auth cred) := by
  unfold startSession
  repeat' (first
    | intro _
    | with_reducible assumption
    | with_reducible apply modStg_keeps
    | with_reducible apply rewrapPending_keeps
    | with_reducible apply ite_keeps
    | with_reducible apply ite_fst_keeps
    | ((with_reducible show Seq.ok _ = true); assumption)
    | ((with_reducible show Tbl.wf _ _ = true); assumption)
    | ((with_reducible show List.length _ ≤ _); assumption)
    | split
    | dsimp only)

theorem rewrapRange_keeps {pq : List Instr} {s : State} {r : Nat} {auths : List Nat} {enabled : Bool} (hk : Keeps pq s) :
    Keeps pq (rewrapRange s r auths enabled) := by
  unfold rewrapRange
  repeat' (first
    | intro _
    | with_reducible assumption
    | with_reducible apply each_keeps
    | with_reducible apply modStg_keeps
    | with_reducible apply rewrap_keeps
    | with_reducible refine fst_keeps (by assumption) ?_
    | with_reducible apply ite_keeps
    | with_reducible apply ite_fst_keeps
    | ((with_reducible show Seq.ok _ = true); assumption)
    | ((with_reducible show Tbl.wf _ _ = true); assumption)
    | ((with_reducible show List.length _ ≤ _); assumption)
    | split
    | dsimp only)

theorem setRange_keeps {pq : List Instr} {s : State} {r nsid start len : Nat} {rle wle : Bool} {auths : List Nat} (hk : Keeps pq s) :
    Keeps pq (setRange s r nsid start len rle wle auths) := by
  unfold setRange
  repeat' (first
    | intro _
    | with_reducible assumption
    | with_reducible apply generateKey_keeps
    | with_reducible apply modRange_keeps
    | with_reducible apply rewrapRange_keeps
    | with_reducible refine fst_keeps (by assumption) ?_
    | with_reducible apply ite_keeps
    | with_reducible apply ite_fst_keeps
    | ((with_reducible show Seq.ok _ = true); assumption)
    | ((with_reducible show Tbl.wf _ _ = true); assumption)
    | ((with_reducible show List.length _ ≤ _); assumption)
    | split
    | dsimp only)

theorem setLock_keeps {pq : List Instr} {s : State} {x : TcgSession} {r : Nat} {rl wl : Bool} (hk : Keeps pq s) :
    Keeps pq (setLock s x r rl wl) := by
  unfold setLock
  repeat' (first
    | intro _
    | with_reducible assumption
    | with_reducible apply modRange_keeps
    | with_reducible apply unwrapLoad_keeps
    | with_reducible refine fst_keeps (by assumption) ?_
    | with_reducible apply ite_keeps
    | with_reducible apply ite_fst_keeps
    | ((with_reducible show Seq.ok _ = true); assumption)
    | ((with_reducible show Tbl.wf _ _ = true); assumption)
    | ((with_reducible show List.length _ ≤ _); assumption)
    | split
    | dsimp only)

theorem setCredential_keeps {pq : List Instr} {s : State} {sp auth cred : Nat} (hk : Keeps pq s) :
    Keeps pq (setCredential s sp auth cred) := by
  unfold setCredential
  repeat' (first
    | intro _
    | with_reducible assumption
    | with_reducible apply each_keeps
    | with_reducible apply modStg_keeps
    | with_reducible apply rewrap_keeps
    | with_reducible refine fst_keeps (by assumption) ?_
    | with_reducible apply ite_keeps
    | with_reducible apply ite_fst_keeps
    | ((with_reducible show Seq.ok _ = true); assumption)
    | ((with_reducible show Tbl.wf _ _ = true); assumption)
    | ((with_reducible show List.length _ ≤ _); assumption)
    | split
    | dsimp only)

theorem deallocRange_keeps {pq : List Instr} {s : State} {n r : Nat} (hk : Keeps pq s) :
    Keeps pq (deallocRange s n r) := by
  unfold deallocRange
  repeat' (first
    | intro _
    | with_reducible assumption
    | with_reducible apply askUnits_keeps
    | with_reducible apply directCommit_keeps
    | with_reducible apply each_keeps
    | with_reducible apply ite_keeps
    | with_reducible apply ite_fst_keeps
    | ((with_reducible show Seq.ok _ = true); assumption)
    | ((with_reducible show Tbl.wf _ _ = true); assumption)
    | ((with_reducible show List.length _ ≤ _); assumption)
    | split
    | dsimp only)

theorem startRangeErase_keeps {pq : List Instr} {s : State} {n : Nat} {l : List Nat} (hk : Keeps pq s) :
    Keeps pq (startRangeErase s n l) := by
  unfold startRangeErase
  repeat' (first
    | intro _
    | with_reducible assumption
    | with_reducible apply deallocRange_keeps
    | with_reducible apply each_keeps
    | with_reducible apply modCtx_keeps
    | with_reducible apply recordTag_keeps
    | with_reducible apply settleCheck_keeps
    | with_reducible refine fst_keeps (by assumption) ?_
    | with_reducible apply ite_keeps
    | with_reducible apply ite_fst_keeps
    | ((with_reducible show Seq.ok _ = true); assumption)
    | ((with_reducible show Tbl.wf _ _ = true); assumption)
    | ((with_reducible show List.length _ ≤ _); assumption)
    | split
    | dsimp only)

theorem renewNsKey_keeps {pq : List Instr} {s : State} {n ns : Nat} (hk : Keeps pq s) :
    Keeps pq (renewNsKey s n ns) := by
  unfold renewNsKey
  repeat' (first
    | intro _
    | with_reducible assumption
    | with_reducible apply askBarrier_keeps
    | with_reducible apply eraseStale_keeps
    | with_reducible apply jAppend_keeps
    | with_reducible apply modNvm_keeps
    | with_reducible apply newNsKey_keeps
    | with_reducible refine fst_keeps (by assumption) ?_
    | with_reducible apply ite_keeps
    | with_reducible apply ite_fst_keeps
    | ((with_reducible show Seq.ok _ = true); assumption)
    | ((with_reducible show Tbl.wf _ _ = true); assumption)
    | ((with_reducible show List.length _ ≤ _); assumption)
    | split
    | dsimp only)

theorem finishGenKey_keeps {pq : List Instr} {s : State} {n r : Nat} (hk : Keeps pq s) :
    Keeps pq (finishGenKey s n r) := by
  unfold finishGenKey
  repeat' (first
    | intro _
    | with_reducible assumption
    | with_reducible apply eraseStale_keeps
    | with_reducible apply newRangeKey_keeps
    | with_reducible apply renewNsKey_keeps
    | with_reducible refine fst_keeps (by assumption) ?_
    | with_reducible apply ite_keeps
    | with_reducible apply ite_fst_keeps
    | ((with_reducible show Seq.ok _ = true); assumption)
    | ((with_reducible show Tbl.wf _ _ = true); assumption)
    | ((with_reducible show List.length _ ≤ _); assumption)
    | split
    | dsimp only)

theorem finishRevert_keeps {pq : List Instr} {s : State} {n : Nat} (hk : Keeps pq s) :
    Keeps pq (finishRevert s n) := by
  unfold finishRevert
  repeat' (first
    | intro _
    | with_reducible assumption
    | with_reducible apply each_keeps
    | with_reducible apply eraseStale_keeps
    | with_reducible apply modKslot_keeps
    | with_reducible apply modStg_keeps
    | with_reducible apply renewNsKey_keeps
    | with_reducible apply ite_keeps
    | with_reducible apply ite_fst_keeps
    | ((with_reducible show Seq.ok _ = true); assumption)
    | ((with_reducible show Tbl.wf _ _ = true); assumption)
    | ((with_reducible show List.length _ ≤ _); assumption)
    | split
    | dsimp only)

theorem clearPend_keeps {pq : List Instr} {s : State} {n : Nat} (hk : Keeps pq s) :
    Keeps pq (clearPend s n) := by
  unfold clearPend
  repeat' (first
    | intro _
    | with_reducible assumption
    | with_reducible apply modStg_keeps
    | with_reducible apply ite_keeps
    | with_reducible apply ite_fst_keeps
    | ((with_reducible show Seq.ok _ = true); assumption)
    | ((with_reducible show Tbl.wf _ _ = true); assumption)
    | ((with_reducible show List.length _ ≤ _); assumption)
    | split
    | dsimp only)

theorem tcgNow_keeps {pq : List Instr} {s : State} {p : Nat} {m : TcgMsg} (hk : Keeps pq s) :
    Keeps pq (tcgNow s p m) := by
  unfold tcgNow
  repeat' (first
    | intro _
    | with_reducible assumption
    | with_reducible apply modStg_keeps
    | with_reducible apply setCredential_keeps
    | with_reducible apply setLock_keeps
    | with_reducible apply setRange_keeps
    | with_reducible apply startSession_keeps
    | with_reducible apply ite_keeps
    | with_reducible apply ite_fst_keeps
    | ((with_reducible show Seq.ok _ = true); assumption)
    | ((with_reducible show Tbl.wf _ _ = true); assumption)
    | ((with_reducible show List.length _ ≤ _); assumption)
    | split
    | dsimp only)

theorem execSecuritySend_goes {pq : List Instr} {s : State} {n : Nat} (hk : Keeps pq s) :
    Goes pq (execSecuritySend n s) := by
  unfold execSecuritySend
  repeat' (first
    | intro _
    | with_reducible assumption
    | with_reducible apply clearPend_keeps
    | with_reducible apply finish_keeps
    | with_reducible apply finishGenKey_keeps
    | with_reducible apply finishOk_keeps
    | with_reducible apply finishRevert_keeps
    | with_reducible apply startRangeErase_keeps
    | with_reducible apply tcgNow_keeps
    | with_reducible apply goes_next
    | with_reducible apply ite_goes
    | with_reducible apply ite_keeps
    | with_reducible apply ite_fst_keeps
    | ((with_reducible show Seq.ok _ = true); assumption)
    | ((with_reducible show Tbl.wf _ _ = true); assumption)
    | ((with_reducible show List.length _ ≤ _); assumption)
    | split
    | dsimp only)

theorem execSecurityReceive_goes {pq : List Instr} {s : State} {n : Nat} (hk : Keeps pq s) :
    Goes pq (execSecurityReceive n s) := by
  unfold execSecurityReceive
  repeat' (first
    | intro _
    | with_reducible assumption
    | with_reducible apply byHall_keeps
    | with_reducible apply emit_keeps
    | with_reducible apply finishOk_keeps
    | with_reducible apply sendLayout_keeps
    | with_reducible apply tick_keeps
    | with_reducible apply goes_next
    | with_reducible apply ite_goes
    | with_reducible apply ite_keeps
    | with_reducible apply ite_fst_keeps
    | ((with_reducible show Seq.ok _ = true); assumption)
    | ((with_reducible show Tbl.wf _ _ = true); assumption)
    | ((with_reducible show List.length _ ≤ _); assumption)
    | split
    | dsimp only)

end Sys2Proof.Machine
end

