-- ==== Sys2Proof/Laws/KeepStairRows.lean ====
section
/-!
SUPPORT. The invariant under the operations and commands of StairRows: each keeps it and the queue (Keeps); a command answers a next state (Goes).
-/
set_option linter.unusedTactic false
set_option linter.unreachableTactic false
set_option linter.unusedVariables false
namespace Sys2Proof.Machine

theorem onStair_keeps {pq : List Instr} {s : State} {n : Nat} {h : FrameHdr} {typ : Nat} {role : State → Bool} {f : State → State} (hk : Keeps pq s) (h_f : ∀ (a0 : State), Keeps pq a0 → Keeps pq (f a0)) :
    Keeps pq (onStair s n h typ role f) := by
  unfold onStair
  repeat' (first
    | intro _
    | with_reducible assumption
    | with_reducible apply h_f
    | with_reducible apply onFrame_keeps
    | with_reducible apply ite_keeps
    | with_reducible apply ite_fst_keeps
    | ((with_reducible show Seq.ok _ = true); assumption)
    | ((with_reducible show Tbl.wf _ _ = true); assumption)
    | ((with_reducible show List.length _ ≤ _); assumption)
    | split
    | dsimp only)

theorem seen_keeps {pq : List Instr} {s : State} {n : Nat} (hk : Keeps pq s) :
    Keeps pq (seen s n) := by
  unfold seen
  repeat' (first
    | intro _
    | with_reducible assumption
    | with_reducible apply modWorker_keeps
    | with_reducible apply tick_keeps
    | with_reducible apply ite_keeps
    | with_reducible apply ite_fst_keeps
    | ((with_reducible show Seq.ok _ = true); assumption)
    | ((with_reducible show Tbl.wf _ _ = true); assumption)
    | ((with_reducible show List.length _ ≤ _); assumption)
    | split
    | dsimp only)

theorem endUnsent_keeps {pq : List Instr} {s : State} {w : Nat} (hk : Keeps pq s) :
    Keeps pq (endUnsent s w) := by
  unfold endUnsent
  repeat' (first
    | intro _
    | with_reducible assumption
    | with_reducible apply each_keeps
    | with_reducible apply endReq_keeps
    | with_reducible apply readerCheck_keeps
    | with_reducible apply settleCheck_keeps
    | with_reducible apply ite_keeps
    | with_reducible apply ite_fst_keeps
    | ((with_reducible show Seq.ok _ = true); assumption)
    | ((with_reducible show Tbl.wf _ _ = true); assumption)
    | ((with_reducible show List.length _ ≤ _); assumption)
    | split
    | dsimp only)

theorem fence_keeps {pq : List Instr} {s : State} {w reason : Nat} (hk : Keeps pq s) :
    Keeps pq (fence s w reason) := by
  unfold fence
  repeat' (first
    | intro _
    | with_reducible assumption
    | with_reducible apply endUnsent_keeps
    | with_reducible apply setWorker_keeps
    | with_reducible apply ite_keeps
    | with_reducible apply ite_fst_keeps
    | ((with_reducible show Seq.ok _ = true); assumption)
    | ((with_reducible show Tbl.wf _ _ = true); assumption)
    | ((with_reducible show List.length _ ≤ _); assumption)
    | split
    | dsimp only)

theorem actEnd_keeps {pq : List Instr} {s : State} {ok : Bool} (hk : Keeps pq s) :
    Keeps pq (actEnd s ok) := by
  unfold actEnd
  repeat' (first
    | intro _
    | with_reducible assumption
    | with_reducible apply finish_keeps
    | with_reducible apply modSta_keeps
    | with_reducible apply ite_keeps
    | with_reducible apply ite_fst_keeps
    | ((with_reducible show Seq.ok _ = true); assumption)
    | ((with_reducible show Tbl.wf _ _ = true); assumption)
    | ((with_reducible show List.length _ ≤ _); assumption)
    | split
    | dsimp only)

theorem tellWorker_keeps {pq : List Instr} {s : State} {w typ : Nat} {m : StairMsg} (hk : Keeps pq s) :
    Keeps pq (tellWorker s w typ m) := by
  unfold tellWorker
  repeat' (first
    | intro _
    | with_reducible assumption
    | with_reducible apply stairTx_keeps
    | with_reducible apply ite_keeps
    | with_reducible apply ite_fst_keeps
    | ((with_reducible show Seq.ok _ = true); assumption)
    | ((with_reducible show Tbl.wf _ _ = true); assumption)
    | ((with_reducible show List.length _ ≤ _); assumption)
    | split
    | dsimp only)

theorem actCheck_keeps {pq : List Instr} {s : State}  (hk : Keeps pq s) :
    Keeps pq (actCheck s) := by
  unfold actCheck
  repeat' (first
    | intro _
    | with_reducible assumption
    | with_reducible apply actEnd_keeps
    | with_reducible apply each_keeps
    | with_reducible apply tellWorker_keeps
    | with_reducible apply ite_keeps
    | with_reducible apply ite_fst_keeps
    | ((with_reducible show Seq.ok _ = true); assumption)
    | ((with_reducible show Tbl.wf _ _ = true); assumption)
    | ((with_reducible show List.length _ ≤ _); assumption)
    | split
    | dsimp only)

theorem actGo_keeps {pq : List Instr} {s : State} {a : StairAct} (hk : Keeps pq s) :
    Keeps pq (actGo s a) := by
  unfold actGo
  repeat' (first
    | intro _
    | with_reducible assumption
    | with_reducible apply each_keeps
    | with_reducible apply modSta_keeps
    | with_reducible apply setWorker_keeps
    | with_reducible apply tellWorker_keeps
    | with_reducible apply ite_keeps
    | with_reducible apply ite_fst_keeps
    | ((with_reducible show Seq.ok _ = true); assumption)
    | ((with_reducible show Tbl.wf _ _ = true); assumption)
    | ((with_reducible show List.length _ ≤ _); assumption)
    | split
    | dsimp only)

theorem stairActivateRow_keeps {pq : List Instr} {s : State} {n : Nat} (hk : Keeps pq s) :
    Keeps pq (stairActivateRow s n) := by
  unfold stairActivateRow
  repeat' (first
    | intro _
    | with_reducible assumption
    | with_reducible apply actEnd_keeps
    | with_reducible apply each_keeps
    | with_reducible apply fence_keeps
    | with_reducible apply finish_keeps
    | with_reducible apply modCtx_keeps
    | with_reducible apply modSta_keeps
    | with_reducible apply tellWorker_keeps
    | with_reducible apply ite_keeps
    | with_reducible apply ite_fst_keeps
    | ((with_reducible show Seq.ok _ = true); assumption)
    | ((with_reducible show Tbl.wf _ _ = true); assumption)
    | ((with_reducible show List.length _ ≤ _); assumption)
    | split
    | dsimp only)

theorem controlRow_keeps {pq : List Instr} {s : State} {n action : Nat} {f : Nat → State} (hk : Keeps pq s) (h_f : ∀ (a0 : Nat), Keeps pq (f a0)) :
    Keeps pq (controlRow s n action f) := by
  unfold controlRow
  repeat' (first
    | intro _
    | with_reducible assumption
    | with_reducible apply h_f
    | with_reducible apply bySup_keeps
    | with_reducible apply finish_keeps
    | with_reducible apply ite_keeps
    | with_reducible apply ite_fst_keeps
    | ((with_reducible show Seq.ok _ = true); assumption)
    | ((with_reducible show Tbl.wf _ _ = true); assumption)
    | ((with_reducible show List.length _ ≤ _); assumption)
    | split
    | dsimp only)

theorem execStairControlFence_goes {pq : List Instr} {s : State} {n : Nat} (hk : Keeps pq s) :
    Goes pq (execStairControlFence n s) := by
  unfold execStairControlFence
  repeat' (first
    | intro _
    | with_reducible assumption
    | with_reducible apply controlRow_keeps
    | with_reducible apply fence_keeps
    | with_reducible apply finishOk_keeps
    | with_reducible apply goes_next
    | with_reducible apply ite_goes
    | with_reducible apply ite_keeps
    | with_reducible apply ite_fst_keeps
    | ((with_reducible show Seq.ok _ = true); assumption)
    | ((with_reducible show Tbl.wf _ _ = true); assumption)
    | ((with_reducible show List.length _ ≤ _); assumption)
    | split
    | dsimp only)

theorem loseShare_keeps {pq : List Instr} {s : State} {w ns : Nat} (hk : Keeps pq s) :
    Keeps pq (loseShare s w ns) := by
  unfold loseShare
  repeat' (first
    | intro _
    | with_reducible assumption
    | with_reducible apply each_keeps
    | with_reducible apply loseAt_keeps
    | with_reducible apply ite_keeps
    | with_reducible apply ite_fst_keeps
    | ((with_reducible show Seq.ok _ = true); assumption)
    | ((with_reducible show Tbl.wf _ _ = true); assumption)
    | ((with_reducible show List.length _ ≤ _); assumption)
    | split
    | dsimp only)

theorem alignShare_keeps {pq : List Instr} {s : State} {n w : Nat} (hk : Keeps pq s) :
    Keeps pq (alignShare s n w) := by
  unfold alignShare
  repeat' (first
    | intro _
    | with_reducible assumption
    | with_reducible apply each_keeps
    | with_reducible apply fence_keeps
    | with_reducible apply loseShare_keeps
    | with_reducible apply stairAsk_keeps
    | with_reducible apply tick_keeps
    | with_reducible apply ite_keeps
    | with_reducible apply ite_fst_keeps
    | ((with_reducible show Seq.ok _ = true); assumption)
    | ((with_reducible show Tbl.wf _ _ = true); assumption)
    | ((with_reducible show List.length _ ≤ _); assumption)
    | split
    | dsimp only)

theorem execStairControlReadmit_goes {pq : List Instr} {s : State} {n : Nat} (hk : Keeps pq s) :
    Goes pq (execStairControlReadmit n s) := by
  unfold execStairControlReadmit
  repeat' (first
    | intro _
    | with_reducible assumption
    | with_reducible apply alignShare_keeps
    | with_reducible apply controlRow_keeps
    | with_reducible apply fence_keeps
    | with_reducible apply finish_keeps
    | with_reducible apply finishOk_keeps
    | with_reducible apply modCtx_keeps
    | with_reducible apply modWorker_keeps
    | with_reducible apply setWorker_keeps
    | with_reducible apply stairPump_keeps
    | with_reducible apply goes_next
    | with_reducible apply ite_goes
    | with_reducible apply ite_keeps
    | with_reducible apply ite_fst_keeps
    | ((with_reducible show Seq.ok _ = true); assumption)
    | ((with_reducible show Tbl.wf _ _ = true); assumption)
    | ((with_reducible show List.length _ ≤ _); assumption)
    | split
    | dsimp only)

theorem execStairControlActivate_goes {pq : List Instr} {s : State} {n : Nat} (hk : Keeps pq s) :
    Goes pq (execStairControlActivate n s) := by
  unfold execStairControlActivate
  repeat' (first
    | intro _
    | with_reducible assumption
    | with_reducible apply controlRow_keeps
    | with_reducible apply stairActivateRow_keeps
    | with_reducible apply goes_next
    | with_reducible apply ite_goes
    | with_reducible apply ite_keeps
    | with_reducible apply ite_fst_keeps
    | ((with_reducible show Seq.ok _ = true); assumption)
    | ((with_reducible show Tbl.wf _ _ = true); assumption)
    | ((with_reducible show List.length _ ≤ _); assumption)
    | split
    | dsimp only)

theorem noteJoin_keeps {pq : List Instr} {s : State} {w st why : Nat} (hk : Keeps pq s) :
    Keeps pq (noteJoin s w st why) := by
  unfold noteJoin
  repeat' (first
    | intro _
    | with_reducible assumption
    | with_reducible apply post_keeps
    | with_reducible apply ite_keeps
    | with_reducible apply ite_fst_keeps
    | ((with_reducible show Seq.ok _ = true); assumption)
    | ((with_reducible show Tbl.wf _ _ = true); assumption)
    | ((with_reducible show List.length _ ≤ _); assumption)
    | split
    | dsimp only)

theorem execSjoin_goes {pq : List Instr} {s : State} {n : Nat} {h : FrameHdr} {r : JoinRec} (hk : Keeps pq s) :
    Goes pq (execSjoin n h r s) := by
  unfold execSjoin
  repeat' (first
    | intro _
    | with_reducible assumption
    | with_reducible apply modSta_keeps
    | with_reducible apply noteJoin_keeps
    | with_reducible apply onStair_keeps
    | with_reducible apply stairTx_keeps
    | with_reducible apply goes_next
    | with_reducible apply ite_goes
    | with_reducible apply ite_keeps
    | with_reducible apply ite_fst_keeps
    | ((with_reducible show Seq.ok _ = true); assumption)
    | ((with_reducible show Tbl.wf _ _ = true); assumption)
    | ((with_reducible show List.length _ ≤ _); assumption)
    | split
    | dsimp only)

theorem execSjoinRsp_goes {pq : List Instr} {s : State} {n : Nat} {h : FrameHdr} {r : JoinRec} (hk : Keeps pq s) :
    Goes pq (execSjoinRsp n h r s) := by
  unfold execSjoinRsp
  repeat' (first
    | intro _
    | with_reducible assumption
    | with_reducible apply actCheck_keeps
    | with_reducible apply fence_keeps
    | with_reducible apply modWorker_keeps
    | with_reducible apply noteJoin_keeps
    | with_reducible apply onStair_keeps
    | with_reducible apply seen_keeps
    | with_reducible apply setWorker_keeps
    | with_reducible apply stairPump_keeps
    | with_reducible apply tick_keeps
    | with_reducible apply goes_next
    | with_reducible apply ite_goes
    | with_reducible apply ite_keeps
    | with_reducible apply ite_fst_keeps
    | ((with_reducible show Seq.ok _ = true); assumption)
    | ((with_reducible show Tbl.wf _ _ = true); assumption)
    | ((with_reducible show List.length _ ≤ _); assumption)
    | split
    | dsimp only)

theorem execSjoinRetryExpiry_goes {pq : List Instr} {s : State} {w : Nat} (hk : Keeps pq s) :
    Goes pq (execSjoinRetryExpiry w s) := by
  unfold execSjoinRetryExpiry
  repeat' (first
    | intro _
    | with_reducible assumption
    | with_reducible apply each_keeps
    | with_reducible apply sendJoin_keeps
    | with_reducible apply goes_next
    | with_reducible apply ite_goes
    | with_reducible apply ite_keeps
    | with_reducible apply ite_fst_keeps
    | ((with_reducible show Seq.ok _ = true); assumption)
    | ((with_reducible show Tbl.wf _ _ = true); assumption)
    | ((with_reducible show List.length _ ≤ _); assumption)
    | split
    | dsimp only)

theorem onReq_keeps {pq : List Instr} {s : State} {n : Nat} {h : FrameHdr} {r : SReq} {kind : Nat} {f : State → State} (hk : Keeps pq s) (h_f : ∀ (a0 : State), Keeps pq a0 → Keeps pq (f a0)) :
    Keeps pq (onReq s n h r kind f) := by
  unfold onReq
  repeat' (first
    | intro _
    | with_reducible assumption
    | with_reducible apply h_f
    | with_reducible apply modCtx_keeps
    | with_reducible apply modSta_keeps
    | with_reducible apply onStair_keeps
    | with_reducible apply stairTx_keeps
    | with_reducible apply ite_keeps
    | with_reducible apply ite_fst_keeps
    | ((with_reducible show Seq.ok _ = true); assumption)
    | ((with_reducible show Tbl.wf _ _ = true); assumption)
    | ((with_reducible show List.length _ ≤ _); assumption)
    | split
    | dsimp only)

theorem putReq_keeps {pq : List Instr} {s : State} {n : Nat} {h : FrameHdr} {r : SReq} {cmd : HostCmd} {st : CtxSt} {writes : Bool} (hk : Keeps pq s) :
    Keeps pq (putReq s n h r cmd st writes) := by
  unfold putReq
  repeat' (first
    | intro _
    | with_reducible assumption
    | with_reducible apply modHall_keeps
    | with_reducible apply ite_keeps
    | with_reducible apply ite_fst_keeps
    | ((with_reducible show Seq.ok _ = true); assumption)
    | ((with_reducible show Tbl.wf _ _ = true); assumption)
    | ((with_reducible show List.length _ ≤ _); assumption)
    | split
    | dsimp only)

theorem execSreqRead_goes {pq : List Instr} {s : State} {n : Nat} {h : FrameHdr} {r : SReq} (hk : Keeps pq s) :
    Goes pq (execSreqRead n h r s) := by
  unfold execSreqRead
  repeat' (first
    | intro _
    | with_reducible assumption
    | with_reducible apply onReq_keeps
    | with_reducible apply putReq_keeps
    | with_reducible apply goes_next
    | with_reducible apply ite_goes
    | with_reducible apply ite_keeps
    | with_reducible apply ite_fst_keeps
    | ((with_reducible show Seq.ok _ = true); assumption)
    | ((with_reducible show Tbl.wf _ _ = true); assumption)
    | ((with_reducible show List.length _ ≤ _); assumption)
    | split
    | dsimp only)

theorem execSreqWrite_goes {pq : List Instr} {s : State} {n : Nat} {h : FrameHdr} {r : SReq} (hk : Keeps pq s) :
    Goes pq (execSreqWrite n h r s) := by
  unfold execSreqWrite
  repeat' (first
    | intro _
    | with_reducible assumption
    | with_reducible apply onReq_keeps
    | with_reducible apply putReq_keeps
    | with_reducible apply goes_next
    | with_reducible apply ite_goes
    | with_reducible apply ite_keeps
    | with_reducible apply ite_fst_keeps
    | ((with_reducible show Seq.ok _ = true); assumption)
    | ((with_reducible show Tbl.wf _ _ = true); assumption)
    | ((with_reducible show List.length _ ≤ _); assumption)
    | split
    | dsimp only)

theorem execSreqDeallocate_goes {pq : List Instr} {s : State} {n : Nat} {h : FrameHdr} {r : SReq} (hk : Keeps pq s) :
    Goes pq (execSreqDeallocate n h r s) := by
  unfold execSreqDeallocate
  repeat' (first
    | intro _
    | with_reducible assumption
    | with_reducible apply onReq_keeps
    | with_reducible apply putReq_keeps
    | with_reducible apply goes_next
    | with_reducible apply ite_goes
    | with_reducible apply ite_keeps
    | with_reducible apply ite_fst_keeps
    | ((with_reducible show Seq.ok _ = true); assumption)
    | ((with_reducible show Tbl.wf _ _ = true); assumption)
    | ((with_reducible show List.length _ ≤ _); assumption)
    | split
    | dsimp only)

theorem execSreqWriteZeroes_goes {pq : List Instr} {s : State} {n : Nat} {h : FrameHdr} {r : SReq} (hk : Keeps pq s) :
    Goes pq (execSreqWriteZeroes n h r s) := by
  unfold execSreqWriteZeroes
  repeat' (first
    | intro _
    | with_reducible assumption
    | with_reducible apply onReq_keeps
    | with_reducible apply putReq_keeps
    | with_reducible apply goes_next
    | with_reducible apply ite_goes
    | with_reducible apply ite_keeps
    | with_reducible apply ite_fst_keeps
    | ((with_reducible show Seq.ok _ = true); assumption)
    | ((with_reducible show Tbl.wf _ _ = true); assumption)
    | ((with_reducible show List.length _ ≤ _); assumption)
    | split
    | dsimp only)

theorem execSreqWriteUncorrectable_goes {pq : List Instr} {s : State} {n : Nat} {h : FrameHdr} {r : SReq} (hk : Keeps pq s) :
    Goes pq (execSreqWriteUncorrectable n h r s) := by
  unfold execSreqWriteUncorrectable
  repeat' (first
    | intro _
    | with_reducible assumption
    | with_reducible apply onReq_keeps
    | with_reducible apply putReq_keeps
    | with_reducible apply goes_next
    | with_reducible apply ite_goes
    | with_reducible apply ite_keeps
    | with_reducible apply ite_fst_keeps
    | ((with_reducible show Seq.ok _ = true); assumption)
    | ((with_reducible show Tbl.wf _ _ = true); assumption)
    | ((with_reducible show List.length _ ≤ _); assumption)
    | split
    | dsimp only)

theorem execSreqVerify_goes {pq : List Instr} {s : State} {n : Nat} {h : FrameHdr} {r : SReq} (hk : Keeps pq s) :
    Goes pq (execSreqVerify n h r s) := by
  unfold execSreqVerify
  repeat' (first
    | intro _
    | with_reducible assumption
    | with_reducible apply onReq_keeps
    | with_reducible apply putReq_keeps
    | with_reducible apply goes_next
    | with_reducible apply ite_goes
    | with_reducible apply ite_keeps
    | with_reducible apply ite_fst_keeps
    | ((with_reducible show Seq.ok _ = true); assumption)
    | ((with_reducible show Tbl.wf _ _ = true); assumption)
    | ((with_reducible show List.length _ ≤ _); assumption)
    | split
    | dsimp only)

theorem onBarrier_keeps {pq : List Instr} {s : State} {n : Nat} {r : SReq} {f : State → State} (hk : Keeps pq s) (h_f : ∀ (a0 : State), Keeps pq a0 → Keeps pq (f a0)) :
    Keeps pq (onBarrier s n r f) := by
  unfold onBarrier
  repeat' (first
    | intro _
    | with_reducible assumption
    | with_reducible apply h_f
    | with_reducible apply modSta_keeps
    | with_reducible apply ite_keeps
    | with_reducible apply ite_fst_keeps
    | ((with_reducible show Seq.ok _ = true); assumption)
    | ((with_reducible show Tbl.wf _ _ = true); assumption)
    | ((with_reducible show List.length _ ≤ _); assumption)
    | split
    | dsimp only)

theorem execSreqFlush_goes {pq : List Instr} {s : State} {n : Nat} {h : FrameHdr} {r : SReq} (hk : Keeps pq s) :
    Goes pq (execSreqFlush n h r s) := by
  unfold execSreqFlush
  repeat' (first
    | intro _
    | with_reducible assumption
    | with_reducible apply closeHostFronts_keeps
    | with_reducible apply modCtx_keeps
    | with_reducible apply onBarrier_keeps
    | with_reducible apply onReq_keeps
    | with_reducible apply putReq_keeps
    | with_reducible apply settleCheck_keeps
    | with_reducible apply goes_next
    | with_reducible apply ite_goes
    | with_reducible apply ite_keeps
    | with_reducible apply ite_fst_keeps
    | ((with_reducible show Seq.ok _ = true); assumption)
    | ((with_reducible show Tbl.wf _ _ = true); assumption)
    | ((with_reducible show List.length _ ≤ _); assumption)
    | split
    | dsimp only)

theorem nsOperation_keeps {pq : List Instr} {s : State} {r : SReq} (hk : Keeps pq s) :
    Keeps pq (nsOperation s r) := by
  unfold nsOperation
  repeat' (first
    | intro _
    | with_reducible assumption
    | with_reducible apply deallocAll_keeps
    | with_reducible apply jAppend_keeps
    | with_reducible apply mapChange_keeps
    | with_reducible apply modNvm_keeps
    | with_reducible apply modStg_keeps
    | with_reducible apply ite_keeps
    | with_reducible apply ite_fst_keeps
    | ((with_reducible show Seq.ok _ = true); assumption)
    | ((with_reducible show Tbl.wf _ _ = true); assumption)
    | ((with_reducible show List.length _ ≤ _); assumption)
    | split
    | dsimp only)

theorem execSreqNamespaceOperation_goes {pq : List Instr} {s : State} {n : Nat} {h : FrameHdr} {r : SReq} (hk : Keeps pq s) :
    Goes pq (execSreqNamespaceOperation n h r s) := by
  unfold execSreqNamespaceOperation
  repeat' (first
    | intro _
    | with_reducible assumption
    | with_reducible apply nsOperation_keeps
    | with_reducible apply onBarrier_keeps
    | with_reducible apply onReq_keeps
    | with_reducible apply settleCheck_keeps
    | with_reducible apply stairDone_keeps
    | with_reducible apply goes_next
    | with_reducible apply ite_goes
    | with_reducible apply ite_keeps
    | with_reducible apply ite_fst_keeps
    | ((with_reducible show Seq.ok _ = true); assumption)
    | ((with_reducible show Tbl.wf _ _ = true); assumption)
    | ((with_reducible show List.length _ ≤ _); assumption)
    | split
    | dsimp only)

theorem stairWrite_keeps {pq : List Instr} {s : State} {n : Nat} {h : FrameHdr} {d : Blk} {md : Meta} (hk : Keeps pq s) :
    Keeps pq (stairWrite s n h d md) := by
  unfold stairWrite
  repeat' (first
    | intro _
    | with_reducible assumption
    | with_reducible apply fillStash_keeps
    | with_reducible apply modSta_keeps
    | with_reducible apply ite_keeps
    | with_reducible apply ite_fst_keeps
    | ((with_reducible show Seq.ok _ = true); assumption)
    | ((with_reducible show Tbl.wf _ _ = true); assumption)
    | ((with_reducible show List.length _ ≤ _); assumption)
    | split
    | dsimp only)

theorem stairRead_keeps {pq : List Instr} {s : State} {n : Nat} {h : FrameHdr} {d : Blk} {md : Meta} (hk : Keeps pq s) :
    Keeps pq (stairRead s n h d md) := by
  unfold stairRead
  repeat' (first
    | intro _
    | with_reducible assumption
    | with_reducible apply modLnd_keeps
    | with_reducible apply ite_keeps
    | with_reducible apply ite_fst_keeps
    | ((with_reducible show Seq.ok _ = true); assumption)
    | ((with_reducible show Tbl.wf _ _ = true); assumption)
    | ((with_reducible show List.length _ ≤ _); assumption)
    | split
    | dsimp only)

theorem execSdata_goes {pq : List Instr} {s : State} {n : Nat} {h : FrameHdr} {d : Blk} {md : Meta} (hk : Keeps pq s) :
    Goes pq (execSdata n h d md s) := by
  unfold execSdata
  repeat' (first
    | intro _
    | with_reducible assumption
    | with_reducible apply onStair_keeps
    | with_reducible apply seen_keeps
    | with_reducible apply stairRead_keeps
    | with_reducible apply stairWrite_keeps
    | with_reducible apply goes_next
    | with_reducible apply ite_goes
    | with_reducible apply ite_keeps
    | with_reducible apply ite_fst_keeps
    | ((with_reducible show Seq.ok _ = true); assumption)
    | ((with_reducible show Tbl.wf _ _ = true); assumption)
    | ((with_reducible show List.length _ ≤ _); assumption)
    | split
    | dsimp only)

theorem workerCommitted_keeps {pq : List Instr} {s : State} {r : StairReq} (hk : Keeps pq s) :
    Keeps pq (workerCommitted s r) := by
  unfold workerCommitted
  repeat' (first
    | intro _
    | with_reducible assumption
    | with_reducible apply drainCheck_keeps
    | with_reducible apply each_keeps
    | with_reducible apply freeSlot_keeps
    | with_reducible apply modCtx_keeps
    | with_reducible apply modHall_keeps
    | with_reducible apply writerDone_keeps
    | with_reducible apply ite_keeps
    | with_reducible apply ite_fst_keeps
    | ((with_reducible show Seq.ok _ = true); assumption)
    | ((with_reducible show Tbl.wf _ _ = true); assumption)
    | ((with_reducible show List.length _ ≤ _); assumption)
    | split
    | dsimp only)

theorem doneCommitted_keeps {pq : List Instr} {s : State} {r : StairReq} {d : SDone} (hk : Keeps pq s) :
    Keeps pq (doneCommitted s r d) := by
  unfold doneCommitted
  repeat' (first
    | intro _
    | with_reducible assumption
    | with_reducible apply each_keeps
    | with_reducible apply endReq_keeps
    | with_reducible apply finish_keeps
    | with_reducible apply finishOk_keeps
    | with_reducible apply modSta_keeps
    | with_reducible apply readerCheck_keeps
    | with_reducible apply setRunit_keeps
    | with_reducible apply settleCheck_keeps
    | with_reducible apply unlose_keeps
    | with_reducible apply workerCommitted_keeps
    | with_reducible apply ite_keeps
    | with_reducible apply ite_fst_keeps
    | ((with_reducible show Seq.ok _ = true); assumption)
    | ((with_reducible show Tbl.wf _ _ = true); assumption)
    | ((with_reducible show List.length _ ≤ _); assumption)
    | split
    | dsimp only)

theorem doneSettled_keeps {pq : List Instr} {s : State} {w : Nat} {d : SDone} (hk : Keeps pq s) :
    Keeps pq (doneSettled s w d) := by
  unfold doneSettled
  repeat' (first
    | intro _
    | with_reducible assumption
    | with_reducible apply modCtx_keeps
    | with_reducible apply modHall_keeps
    | with_reducible apply modSta_keeps
    | with_reducible apply settleCheck_keeps
    | with_reducible apply ite_keeps
    | with_reducible apply ite_fst_keeps
    | ((with_reducible show Seq.ok _ = true); assumption)
    | ((with_reducible show Tbl.wf _ _ = true); assumption)
    | ((with_reducible show List.length _ ≤ _); assumption)
    | split
    | dsimp only)

theorem execSdoneCommitted_goes {pq : List Instr} {s : State} {n : Nat} {h : FrameHdr} {d : SDone} (hk : Keeps pq s) :
    Goes pq (execSdoneCommitted n h d s) := by
  unfold execSdoneCommitted
  repeat' (first
    | intro _
    | with_reducible assumption
    | with_reducible apply doneCommitted_keeps
    | with_reducible apply onStair_keeps
    | with_reducible apply seen_keeps
    | with_reducible apply stairPump_keeps
    | with_reducible apply goes_next
    | with_reducible apply ite_goes
    | with_reducible apply ite_keeps
    | with_reducible apply ite_fst_keeps
    | ((with_reducible show Seq.ok _ = true); assumption)
    | ((with_reducible show Tbl.wf _ _ = true); assumption)
    | ((with_reducible show List.length _ ≤ _); assumption)
    | split
    | dsimp only)

theorem execSdoneSettled_goes {pq : List Instr} {s : State} {n : Nat} {h : FrameHdr} {d : SDone} (hk : Keeps pq s) :
    Goes pq (execSdoneSettled n h d s) := by
  unfold execSdoneSettled
  repeat' (first
    | intro _
    | with_reducible assumption
    | with_reducible apply doneSettled_keeps
    | with_reducible apply onStair_keeps
    | with_reducible apply seen_keeps
    | with_reducible apply goes_next
    | with_reducible apply ite_goes
    | with_reducible apply ite_keeps
    | with_reducible apply ite_fst_keeps
    | ((with_reducible show Seq.ok _ = true); assumption)
    | ((with_reducible show Tbl.wf _ _ = true); assumption)
    | ((with_reducible show List.length _ ≤ _); assumption)
    | split
    | dsimp only)

theorem execStimeSend_goes {pq : List Instr} {s : State}  (hk : Keeps pq s) :
    Goes pq (execStimeSend s) := by
  unfold execStimeSend
  repeat' (first
    | intro _
    | with_reducible assumption
    | with_reducible apply each_keeps
    | with_reducible apply stairTx_keeps
    | with_reducible apply goes_next
    | with_reducible apply ite_goes
    | with_reducible apply ite_keeps
    | with_reducible apply ite_fst_keeps
    | ((with_reducible show Seq.ok _ = true); assumption)
    | ((with_reducible show Tbl.wf _ _ = true); assumption)
    | ((with_reducible show List.length _ ≤ _); assumption)
    | split
    | dsimp only)

theorem trimTime_keeps {pq : List Instr} {s : State} {o : Int} (hk : Keeps pq s) :
    Keeps pq (trimTime s o) := by
  unfold trimTime
  repeat' (first
    | intro _
    | with_reducible assumption
    | with_reducible apply modPwr_keeps
    | with_reducible apply modSta_keeps
    | with_reducible apply ite_keeps
    | with_reducible apply ite_fst_keeps
    | ((with_reducible show Seq.ok _ = true); assumption)
    | ((with_reducible show Tbl.wf _ _ = true); assumption)
    | ((with_reducible show List.length _ ≤ _); assumption)
    | split
    | dsimp only)

theorem timeTick_keeps {pq : List Instr} {s : State}  (hk : Keeps pq s) :
    Keeps pq (timeTick s) := by
  unfold timeTick
  repeat' (first
    | intro _
    | with_reducible assumption
    | with_reducible apply modPwr_keeps
    | with_reducible apply modSta_keeps
    | with_reducible apply ite_keeps
    | with_reducible apply ite_fst_keeps
    | ((with_reducible show Seq.ok _ = true); assumption)
    | ((with_reducible show Tbl.wf _ _ = true); assumption)
    | ((with_reducible show List.length _ ≤ _); assumption)
    | split
    | dsimp only)

theorem execStime_goes {pq : List Instr} {s : State} {n : Nat} {h : FrameHdr} {t : STime} (hk : Keeps pq s) :
    Goes pq (execStime n h t s) := by
  unfold execStime
  repeat' (first
    | intro _
    | with_reducible assumption
    | with_reducible apply modSta_keeps
    | with_reducible apply modWorker_keeps
    | with_reducible apply onStair_keeps
    | with_reducible apply seen_keeps
    | with_reducible apply stairTx_keeps
    | with_reducible apply tick_keeps
    | with_reducible apply trimTime_keeps
    | with_reducible apply goes_next
    | with_reducible apply ite_goes
    | with_reducible apply ite_keeps
    | with_reducible apply ite_fst_keeps
    | ((with_reducible show Seq.ok _ = true); assumption)
    | ((with_reducible show Tbl.wf _ _ = true); assumption)
    | ((with_reducible show List.length _ ≤ _); assumption)
    | split
    | dsimp only)

theorem execStimeLossExpiry_goes {pq : List Instr} {s : State} {w : Nat} (hk : Keeps pq s) :
    Goes pq (execStimeLossExpiry w s) := by
  unfold execStimeLossExpiry
  repeat' (first
    | intro _
    | with_reducible assumption
    | with_reducible apply modSta_keeps
    | with_reducible apply workerLost_keeps
    | with_reducible apply goes_next
    | with_reducible apply ite_goes
    | with_reducible apply ite_keeps
    | with_reducible apply ite_fst_keeps
    | ((with_reducible show Seq.ok _ = true); assumption)
    | ((with_reducible show Tbl.wf _ _ = true); assumption)
    | ((with_reducible show List.length _ ≤ _); assumption)
    | split
    | dsimp only)

theorem execSevent_goes {pq : List Instr} {s : State} {n : Nat} {h : FrameHdr} {e : SEvent} (hk : Keeps pq s) :
    Goes pq (execSevent n h e s) := by
  unfold execSevent
  repeat' (first
    | intro _
    | with_reducible assumption
    | with_reducible apply actCheck_keeps
    | with_reducible apply armWorker_keeps
    | with_reducible apply each_keeps
    | with_reducible apply fence_keeps
    | with_reducible apply loseAt_keeps
    | with_reducible apply modWorker_keeps
    | with_reducible apply onStair_keeps
    | with_reducible apply seen_keeps
    | with_reducible apply goes_next
    | with_reducible apply ite_goes
    | with_reducible apply ite_keeps
    | with_reducible apply ite_fst_keeps
    | ((with_reducible show Seq.ok _ = true); assumption)
    | ((with_reducible show Tbl.wf _ _ = true); assumption)
    | ((with_reducible show List.length _ ≤ _); assumption)
    | split
    | dsimp only)

theorem execSact_goes {pq : List Instr} {s : State} {n : Nat} {h : FrameHdr} {a : SAct} (hk : Keeps pq s) :
    Goes pq (execSact n h a s) := by
  unfold execSact
  repeat' (first
    | intro _
    | with_reducible assumption
    | with_reducible apply actEnd_keeps
    | with_reducible apply actGo_keeps
    | with_reducible apply modClo_keeps
    | with_reducible apply modSta_keeps
    | with_reducible apply onStair_keeps
    | with_reducible apply seen_keeps
    | with_reducible apply stairActivate_keeps
    | with_reducible apply stairRollback_keeps
    | with_reducible apply startConfirm_keeps
    | with_reducible apply startImage_keeps
    | with_reducible apply goes_next
    | with_reducible apply ite_goes
    | with_reducible apply ite_keeps
    | with_reducible apply ite_fst_keeps
    | ((with_reducible show Seq.ok _ = true); assumption)
    | ((with_reducible show Tbl.wf _ _ = true); assumption)
    | ((with_reducible show List.length _ ≤ _); assumption)
    | split
    | dsimp only)

theorem execActivationRollbackExpiry_goes {pq : List Instr} {s : State}  (hk : Keeps pq s) :
    Goes pq (execActivationRollbackExpiry s) := by
  unfold execActivationRollbackExpiry
  repeat' (first
    | intro _
    | with_reducible assumption
    | with_reducible apply actEnd_keeps
    | with_reducible apply each_keeps
    | with_reducible apply tellWorker_keeps
    | with_reducible apply goes_next
    | with_reducible apply ite_goes
    | with_reducible apply ite_keeps
    | with_reducible apply ite_fst_keeps
    | ((with_reducible show Seq.ok _ = true); assumption)
    | ((with_reducible show Tbl.wf _ _ = true); assumption)
    | ((with_reducible show List.length _ ≤ _); assumption)
    | split
    | dsimp only)

theorem execStairResendDeadline_goes {pq : List Instr} {s : State} {w : Nat} (hk : Keeps pq s) :
    Goes pq (execStairResendDeadline w s) := by
  unfold execStairResendDeadline
  repeat' (first
    | intro _
    | with_reducible assumption
    | with_reducible apply armWorker_keeps
    | with_reducible apply each_keeps
    | with_reducible apply endReq_keeps
    | with_reducible apply settleCheck_keeps
    | with_reducible apply goes_next
    | with_reducible apply ite_goes
    | with_reducible apply ite_keeps
    | with_reducible apply ite_fst_keeps
    | ((with_reducible show Seq.ok _ = true); assumption)
    | ((with_reducible show Tbl.wf _ _ = true); assumption)
    | ((with_reducible show List.length _ ≤ _); assumption)
    | split
    | dsimp only)

theorem execDoneTableExpiry_goes {pq : List Instr} {s : State}  (hk : Keeps pq s) :
    Goes pq (execDoneTableExpiry s) := by
  unfold execDoneTableExpiry
  repeat' (first
    | intro _
    | with_reducible assumption
    | with_reducible apply modSta_keeps
    | with_reducible apply goes_next
    | with_reducible apply ite_goes
    | with_reducible apply ite_keeps
    | with_reducible apply ite_fst_keeps
    | ((with_reducible show Seq.ok _ = true); assumption)
    | ((with_reducible show Tbl.wf _ _ = true); assumption)
    | ((with_reducible show List.length _ ≤ _); assumption)
    | split
    | dsimp only)

theorem execFenceUnsettledExpiry_goes {pq : List Instr} {s : State} {w : Nat} (hk : Keeps pq s) :
    Goes pq (execFenceUnsettledExpiry w s) := by
  unfold execFenceUnsettledExpiry
  repeat' (first
    | intro _
    | with_reducible assumption
    | with_reducible apply armUnsettled_keeps
    | with_reducible apply goes_next
    | with_reducible apply ite_goes
    | with_reducible apply ite_keeps
    | with_reducible apply ite_fst_keeps
    | ((with_reducible show Seq.ok _ = true); assumption)
    | ((with_reducible show Tbl.wf _ _ = true); assumption)
    | ((with_reducible show List.length _ ≤ _); assumption)
    | split
    | dsimp only)

end Sys2Proof.Machine
end

