-- ==== Sys2Proof/Laws/KeepHouse.lean ====
section
/-!
SUPPORT. The invariant under the operations and commands of House: each keeps it and the queue (Keeps); a command answers a next state (Goes).
-/
set_option linter.unusedTactic false
set_option linter.unreachableTactic false
set_option linter.unusedVariables false
namespace Sys2Proof.Machine

theorem putWord_keeps {pq : List Instr} {s : State} {r : RegSpec} {i a v : Nat} (hk : Keeps pq s) : Keeps pq (putWord s r i a v) := by
  obtain ⟨h1, h2, h3, h4, h5, h6⟩ := keeps_parts hk
  exact keeps_of_parts (Tbl.sorted_setD _ _ _ _ h1) h2 h3 h4 h5 h6

theorem plainWrite_keeps {pq : List Instr} {s : State} {r : RegSpec} {i a v m : Nat} (hk : Keeps pq s) :
    Keeps pq (plainWrite s r i a v m) := by
  unfold plainWrite
  repeat' (first
    | intro _
    | with_reducible assumption
    | with_reducible apply putWord_keeps
    | with_reducible apply ite_keeps
    | with_reducible apply ite_fst_keeps
    | ((with_reducible show Seq.ok _ = true); assumption)
    | ((with_reducible show Tbl.wf _ _ = true); assumption)
    | ((with_reducible show List.length _ ≤ _); assumption)
    | split
    | dsimp only)

theorem writeHalCtl_keeps {pq : List Instr} {s : State} {w : Nat} (hk : Keeps pq s) :
    Keeps pq (writeHalCtl s w) := by
  unfold writeHalCtl
  repeat' (first
    | intro _
    | with_reducible assumption
    | with_reducible apply clr1_keeps
    | with_reducible apply set1_keeps
    | with_reducible apply after_keeps
    | with_reducible apply execBackgroundHold_goes
    | with_reducible apply execDrainRequest_goes
    | with_reducible apply execFetchEnableSet_goes
    | with_reducible apply ite_keeps
    | with_reducible apply ite_fst_keeps
    | ((with_reducible show Seq.ok _ = true); assumption)
    | ((with_reducible show Tbl.wf _ _ = true); assumption)
    | ((with_reducible show List.length _ ≤ _); assumption)
    | split
    | dsimp only)

theorem writePanCtl_keeps {pq : List Instr} {s : State} {w : Nat} (hk : Keeps pq s) :
    Keeps pq (writePanCtl s w) := by
  unfold writePanCtl
  repeat' (first
    | intro _
    | with_reducible assumption
    | with_reducible apply set1_keeps
    | with_reducible apply wr_keeps
    | with_reducible apply after_keeps
    | with_reducible apply execPantryDisable_goes
    | with_reducible apply execPantryEnable_goes
    | with_reducible apply ite_keeps
    | with_reducible apply ite_fst_keeps
    | ((with_reducible show Seq.ok _ = true); assumption)
    | ((with_reducible show Tbl.wf _ _ = true); assumption)
    | ((with_reducible show List.length _ ≤ _); assumption)
    | split
    | dsimp only)

theorem writePanMaint_keeps {pq : List Instr} {s : State} {w : Nat} (hk : Keeps pq s) :
    Keeps pq (writePanMaint s w) := by
  unfold writePanMaint
  repeat' (first
    | intro _
    | with_reducible assumption
    | with_reducible apply after_keeps
    | with_reducible apply execPanMaintClean_goes
    | with_reducible apply execPanMaintCleanAll_goes
    | with_reducible apply execPanMaintCleanInv_goes
    | with_reducible apply execPanMaintInv_goes
    | with_reducible apply ite_keeps
    | with_reducible apply ite_fst_keeps
    | ((with_reducible show Seq.ok _ = true); assumption)
    | ((with_reducible show Tbl.wf _ _ = true); assumption)
    | ((with_reducible show List.length _ ≤ _); assumption)
    | split
    | dsimp only)

theorem writeLdrCtl_keeps {pq : List Instr} {s : State} {w : Nat} (hk : Keeps pq s) :
    Keeps pq (writeLdrCtl s w) := by
  unfold writeLdrCtl
  repeat' (first
    | intro _
    | with_reducible assumption
    | with_reducible apply set1_keeps
    | with_reducible apply after_keeps
    | with_reducible apply execDumpArmSet_goes
    | with_reducible apply execLarderDrain_goes
    | with_reducible apply execLarderEnable_goes
    | with_reducible apply execWtForceSet_goes
    | with_reducible apply ite_keeps
    | with_reducible apply ite_fst_keeps
    | ((with_reducible show Seq.ok _ = true); assumption)
    | ((with_reducible show Tbl.wf _ _ = true); assumption)
    | ((with_reducible show List.length _ ≤ _); assumption)
    | split
    | dsimp only)

theorem writePortCtl_keeps {pq : List Instr} {s : State} {n w : Nat} (hk : Keeps pq s) :
    Keeps pq (writePortCtl s n w) := by
  unfold writePortCtl
  repeat' (first
    | intro _
    | with_reducible assumption
    | with_reducible apply after_keeps
    | with_reducible apply execPortHold_goes
    | with_reducible apply execPortRecal_goes
    | with_reducible apply execPortRetire_goes
    | with_reducible apply execPortRetrain_goes
    | with_reducible apply execPortTrain_goes
    | with_reducible apply ite_keeps
    | with_reducible apply ite_fst_keeps
    | ((with_reducible show Seq.ok _ = true); assumption)
    | ((with_reducible show Tbl.wf _ _ = true); assumption)
    | ((with_reducible show List.length _ ≤ _); assumption)
    | split
    | dsimp only)

theorem writeSeqCtl_keeps {pq : List Instr} {s : State} {n w : Nat} (hk : Keeps pq s) :
    Keeps pq (writeSeqCtl s n w) := by
  unfold writeSeqCtl
  repeat' (first
    | intro _
    | with_reducible assumption
    | with_reducible apply after_keeps
    | with_reducible apply execSequencerHalt_goes
    | with_reducible apply execSequencerRestart_goes
    | with_reducible apply execSequencerRun_goes
    | with_reducible apply ite_keeps
    | with_reducible apply ite_fst_keeps
    | ((with_reducible show Seq.ok _ = true); assumption)
    | ((with_reducible show Tbl.wf _ _ = true); assumption)
    | ((with_reducible show List.length _ ≤ _); assumption)
    | split
    | dsimp only)

theorem writeLvlHalf_keeps {pq : List Instr} {s : State} {h w : Nat} (hk : Keeps pq s) :
    Keeps pq (writeLvlHalf s h w) := by
  unfold writeLvlHalf
  repeat' (first
    | intro _
    | with_reducible assumption
    | with_reducible apply setTracked_keeps
    | with_reducible apply ite_keeps
    | with_reducible apply ite_fst_keeps
    | ((with_reducible show Seq.ok _ = true); assumption)
    | ((with_reducible show Tbl.wf _ _ = true); assumption)
    | ((with_reducible show List.length _ ≤ _); assumption)
    | split
    | dsimp only)

theorem writeLndPortCtl_keeps {pq : List Instr} {s : State} {n w : Nat} (hk : Keeps pq s) :
    Keeps pq (writeLndPortCtl s n w) := by
  unfold writeLndPortCtl
  repeat' (first
    | intro _
    | with_reducible assumption
    | with_reducible apply wr_keeps
    | with_reducible apply after_keeps
    | with_reducible apply execCalRequest_goes
    | with_reducible apply ite_keeps
    | with_reducible apply ite_fst_keeps
    | ((with_reducible show Seq.ok _ = true); assumption)
    | ((with_reducible show Tbl.wf _ _ = true); assumption)
    | ((with_reducible show List.length _ ≤ _); assumption)
    | split
    | dsimp only)

theorem writeBsmCtl_keeps {pq : List Instr} {s : State} {w : Nat} (hk : Keeps pq s) :
    Keeps pq (writeBsmCtl s w) := by
  unfold writeBsmCtl
  repeat' (first
    | intro _
    | with_reducible assumption
    | with_reducible apply set1_keeps
    | with_reducible apply wr_keeps
    | with_reducible apply after_keeps
    | with_reducible apply execDramClear_goes
    | with_reducible apply execSubchannelRetire_goes
    | with_reducible apply ite_keeps
    | with_reducible apply ite_fst_keeps
    | ((with_reducible show Seq.ok _ = true); assumption)
    | ((with_reducible show Tbl.wf _ _ = true); assumption)
    | ((with_reducible show List.length _ ≤ _); assumption)
    | split
    | dsimp only)

theorem kmeCommand_keeps {pq : List Instr} {s : State} {own op : Nat} (hk : Keeps pq s) :
    Keeps pq (kmeCommand s own op) := by
  unfold kmeCommand
  repeat' (first
    | intro _
    | with_reducible assumption
    | with_reducible apply kmeStart_keeps
    | with_reducible apply after_keeps
    | with_reducible apply execEraseStale_goes
    | with_reducible apply execGenNote_goes
    | with_reducible apply execGenerate_goes
    | with_reducible apply execRewrap_goes
    | with_reducible apply execSeedReplace_goes
    | with_reducible apply execSign_goes
    | with_reducible apply execUnwrapLoad_goes
    | with_reducible apply execVerifyImage_goes
    | with_reducible apply execZeroise_goes
    | with_reducible apply ite_keeps
    | with_reducible apply ite_fst_keeps
    | ((with_reducible show Seq.ok _ = true); assumption)
    | ((with_reducible show Tbl.wf _ _ = true); assumption)
    | ((with_reducible show List.length _ ≤ _); assumption)
    | split
    | dsimp only)

theorem writeStgLock_keeps {pq : List Instr} {s : State} {own w : Nat} (hk : Keeps pq s) :
    Keeps pq (writeStgLock s own w) := by
  unfold writeStgLock
  repeat' (first
    | intro _
    | with_reducible assumption
    | with_reducible apply after_keeps
    | with_reducible apply execStgLockAcquire_goes
    | with_reducible apply execStgLockRelease_goes
    | with_reducible apply ite_keeps
    | with_reducible apply ite_fst_keeps
    | ((with_reducible show Seq.ok _ = true); assumption)
    | ((with_reducible show Tbl.wf _ _ = true); assumption)
    | ((with_reducible show List.length _ ≤ _); assumption)
    | split
    | dsimp only)

theorem writeStg_keeps {pq : List Instr} {s : State} {who : Agent} {r : RegSpec} {i a v m w : Nat} (hk : Keeps pq s) :
    Keeps pq (writeStg s who r i a v m w) := by
  unfold writeStg
  repeat' (first
    | intro _
    | with_reducible assumption
    | with_reducible apply kmeCommand_keeps
    | with_reducible apply plainWrite_keeps
    | with_reducible apply writeStgLock_keeps
    | with_reducible apply ite_keeps
    | with_reducible apply ite_fst_keeps
    | ((with_reducible show Seq.ok _ = true); assumption)
    | ((with_reducible show Tbl.wf _ _ = true); assumption)
    | ((with_reducible show List.length _ ≤ _); assumption)
    | split
    | dsimp only)

theorem writeCloCmd_keeps {pq : List Instr} {s : State} {w : Nat} (hk : Keeps pq s) :
    Keeps pq (writeCloCmd s w) := by
  unfold writeCloCmd
  repeat' (first
    | intro _
    | with_reducible assumption
    | with_reducible apply after_keeps
    | with_reducible apply execClosetErase_goes
    | with_reducible apply execClosetMarginRead_goes
    | with_reducible apply execClosetProgram_goes
    | with_reducible apply ite_keeps
    | with_reducible apply ite_fst_keeps
    | ((with_reducible show Seq.ok _ = true); assumption)
    | ((with_reducible show Tbl.wf _ _ = true); assumption)
    | ((with_reducible show List.length _ ≤ _); assumption)
    | split
    | dsimp only)

theorem writeClkCtl_keeps {pq : List Instr} {s : State} {w : Nat} (hk : Keeps pq s) :
    Keeps pq (writeClkCtl s w) := by
  unfold writeClkCtl
  repeat' (first
    | intro _
    | with_reducible assumption
    | with_reducible apply clr1_keeps
    | with_reducible apply modStd_keeps
    | with_reducible apply after_keeps
    | with_reducible apply execClockSelect_goes
    | with_reducible apply execPllEnable_goes
    | with_reducible apply ite_keeps
    | with_reducible apply ite_fst_keeps
    | ((with_reducible show Seq.ok _ = true); assumption)
    | ((with_reducible show Tbl.wf _ _ = true); assumption)
    | ((with_reducible show List.length _ ≤ _); assumption)
    | split
    | dsimp only)

theorem setAtticMode_keeps {pq : List Instr} {s : State} {w : Nat} (hk : Keeps pq s) :
    Keeps pq (setAtticMode s w) := by
  unfold setAtticMode
  repeat' (first
    | intro _
    | with_reducible assumption
    | with_reducible apply modAtc_keeps
    | with_reducible apply post_keeps
    | with_reducible apply ite_keeps
    | with_reducible apply ite_fst_keeps
    | ((with_reducible show Seq.ok _ = true); assumption)
    | ((with_reducible show Tbl.wf _ _ = true); assumption)
    | ((with_reducible show List.length _ ≤ _); assumption)
    | ((with_reducible show List.length [] ≤ _); exact Nat.zero_le _)
    | split
    | dsimp only)

theorem writeAtcCtl_keeps {pq : List Instr} {s : State} {r : RegSpec} {i a v m : Nat} (hk : Keeps pq s) :
    Keeps pq (writeAtcCtl s r i a v m) := by
  unfold writeAtcCtl
  repeat' (first
    | intro _
    | with_reducible assumption
    | with_reducible apply plainWrite_keeps
    | with_reducible apply setAtticMode_keeps
    | with_reducible apply ite_keeps
    | with_reducible apply ite_fst_keeps
    | ((with_reducible show Seq.ok _ = true); assumption)
    | ((with_reducible show Tbl.wf _ _ = true); assumption)
    | ((with_reducible show List.length _ ≤ _); assumption)
    | split
    | dsimp only)

theorem writeStaCtl_keeps {pq : List Instr} {s : State} {r : RegSpec} {i a v m : Nat} (hk : Keeps pq s) :
    Keeps pq (writeStaCtl s r i a v m) := by
  unfold writeStaCtl
  repeat' (first
    | intro _
    | with_reducible assumption
    | with_reducible apply each_keeps
    | with_reducible apply plainWrite_keeps
    | with_reducible apply sendJoin_keeps
    | with_reducible apply ite_keeps
    | with_reducible apply ite_fst_keeps
    | ((with_reducible show Seq.ok _ = true); assumption)
    | ((with_reducible show Tbl.wf _ _ = true); assumption)
    | ((with_reducible show List.length _ ≤ _); assumption)
    | split
    | dsimp only)

theorem stageWord_keeps {pq : List Instr} {s : State} {who : Agent} {hi : Bool} {w : Nat} (hk : Keeps pq s) :
    Keeps pq (stageWord s who hi w) := by
  unfold stageWord
  repeat' (first
    | intro _
    | with_reducible assumption
    | with_reducible apply modAtc_keeps
    | with_reducible apply ite_keeps
    | with_reducible apply ite_fst_keeps
    | ((with_reducible show Seq.ok _ = true); assumption)
    | ((with_reducible show Tbl.wf _ _ = true); assumption)
    | ((with_reducible show List.length _ ≤ _); assumption)
    | ((with_reducible show List.length [] ≤ _); exact Nat.zero_le _)
    | split
    | dsimp only)

theorem writeReg_keeps {pq : List Instr} {s : State} {who : Agent} {r : RegSpec} {i a v m : Nat} (hk : Keeps pq s) :
    Keeps pq (writeReg s who r i a v m) := by
  unfold writeReg
  repeat' (first
    | intro _
    | with_reducible assumption
    | with_reducible apply modSeq_keeps
    | with_reducible apply plainWrite_keeps
    | with_reducible apply stageWord_keeps
    | with_reducible apply stepCheck_keeps
    | with_reducible apply wr_keeps
    | with_reducible apply writeAtcCtl_keeps
    | with_reducible apply writeBsmCtl_keeps
    | with_reducible apply writeClkCtl_keeps
    | with_reducible apply writeCloCmd_keeps
    | with_reducible apply writeHalCtl_keeps
    | with_reducible apply writeLdrCtl_keeps
    | with_reducible apply writeLndPortCtl_keeps
    | with_reducible apply writeLvlHalf_keeps
    | with_reducible apply writePanCtl_keeps
    | with_reducible apply writePanMaint_keeps
    | with_reducible apply writePortCtl_keeps
    | with_reducible apply writeSeqCtl_keeps
    | with_reducible apply writeStaCtl_keeps
    | with_reducible apply writeStg_keeps
    | with_reducible apply after_keeps
    | with_reducible apply execAtcPostGo_goes
    | with_reducible apply execAtcWinCursorWrite_goes
    | with_reducible apply execBsmRemapWrite_goes
    | with_reducible apply execCloWpSet_goes
    | with_reducible apply execLdrBankRetire_goes
    | with_reducible apply execPanInvAll_goes
    | with_reducible apply execRefclkOutputCtl_goes
    | with_reducible apply execSeqLoadData_goes
    | with_reducible apply execSeqMail_goes
    | with_reducible apply execStdConfirm_goes
    | with_reducible apply execStdDomainEnWrite_goes
    | with_reducible apply execStdPadRelease_goes
    | with_reducible apply execSuiteIdxWrite_goes
    | with_reducible apply execWatchdogKick_goes
    | with_reducible apply setReg_ok
    | with_reducible apply refill_ok
    | with_reducible apply deliver_ok
    | with_reducible apply ite_keeps
    | with_reducible apply ite_fst_keeps
    | ((with_reducible show Seq.ok _ = true); assumption)
    | ((with_reducible show Tbl.wf _ _ = true); assumption)
    | ((with_reducible show List.length _ ≤ _); assumption)
    | refine ok_mem (by assumption) (by first | exact Or.inl rfl | exact Or.inr rfl) (by rfl) ?_ ?_
    | with_reducible apply Tbl.wf_writeBytes
    | with_reducible apply Tbl.wf_setD
    | with_reducible apply Tbl.wf_filter
    | with_reducible apply Tbl.wf_foldl
    | exact Tbl.wf_nil _
    | split
    | dsimp only)

theorem houseWrite_keeps {pq : List Instr} {s : State} {who : Agent} {a v m : Nat} (hk : Keeps pq s) :
    Keeps pq (houseWrite s who a v m) := by
  unfold houseWrite
  repeat' (first
    | intro _
    | with_reducible assumption
    | with_reducible apply writeReg_keeps
    | with_reducible apply ite_keeps
    | with_reducible apply ite_fst_keeps
    | ((with_reducible show Seq.ok _ = true); assumption)
    | ((with_reducible show Tbl.wf _ _ = true); assumption)
    | ((with_reducible show List.length _ ≤ _); assumption)
    | split
    | dsimp only)

theorem writeWords_keeps {pq : List Instr} {s : State} {who : Agent} {a v m : Nat} (k : Nat) (hk : Keeps pq s) : Keeps pq (writeWords s who a v m k) := by
  induction k generalizing s a v m with
  | zero => exact hk
  | succ k ih =>
    unfold writeWords
    repeat' (first
    | intro _
    | with_reducible assumption
    | with_reducible apply ih
    | intro _
    | with_reducible assumption
    | with_reducible apply houseWrite_keeps
    | with_reducible apply ite_keeps
    | with_reducible apply ite_fst_keeps
    | ((with_reducible show Seq.ok _ = true); assumption)
    | ((with_reducible show Tbl.wf _ _ = true); assumption)
    | ((with_reducible show List.length _ ≤ _); assumption)
    | split
    | dsimp only)

theorem houseWriteBytes_keeps {pq : List Instr} {s : State} {who : Agent} {a len v : Nat} (hk : Keeps pq s) :
    Keeps pq (houseWriteBytes s who a len v) := by
  unfold houseWriteBytes
  repeat' (first
    | intro _
    | with_reducible assumption
    | with_reducible apply writeWords_keeps
    | with_reducible apply ite_keeps
    | with_reducible apply ite_fst_keeps
    | ((with_reducible show Seq.ok _ = true); assumption)
    | ((with_reducible show Tbl.wf _ _ = true); assumption)
    | ((with_reducible show List.length _ ≤ _); assumption)
    | split
    | dsimp only)

theorem execRegisterWrite_goes {pq : List Instr} {s : State} {who : Agent} {a : Nat} {v : U64} (hk : Keeps pq s) :
    Goes pq (execRegisterWrite who a v s) := by
  unfold execRegisterWrite
  repeat' (first
    | intro _
    | with_reducible assumption
    | with_reducible apply houseWrite_keeps
    | with_reducible apply trap_keeps
    | with_reducible apply goes_next
    | with_reducible apply ite_goes
    | with_reducible apply ite_keeps
    | with_reducible apply ite_fst_keeps
    | ((with_reducible show Seq.ok _ = true); assumption)
    | ((with_reducible show Tbl.wf _ _ = true); assumption)
    | ((with_reducible show List.length _ ≤ _); assumption)
    | split
    | dsimp only)

theorem execBar2MemoryWrite_goes {pq : List Instr} {s : State} {p a len : Nat} {v : U64} (hk : Keeps pq s) :
    Goes pq (execBar2MemoryWrite p a len v s) := by
  unfold execBar2MemoryWrite
  repeat' (first
    | intro _
    | with_reducible assumption
    | with_reducible apply emit_keeps
    | with_reducible apply houseWriteBytes_keeps
    | with_reducible apply goes_next
    | with_reducible apply ite_goes
    | with_reducible apply ite_keeps
    | with_reducible apply ite_fst_keeps
    | ((with_reducible show Seq.ok _ = true); assumption)
    | ((with_reducible show Tbl.wf _ _ = true); assumption)
    | ((with_reducible show List.length _ ≤ _); assumption)
    | split
    | dsimp only)

theorem execBar2MemoryRead_goes {pq : List Instr} {s : State} {p a len : Nat} (hk : Keeps pq s) :
    Goes pq (execBar2MemoryRead p a len s) := by
  unfold execBar2MemoryRead
  repeat' (first
    | intro _
    | with_reducible assumption
    | with_reducible apply emit_keeps
    | with_reducible apply goes_next
    | with_reducible apply ite_goes
    | with_reducible apply ite_keeps
    | with_reducible apply ite_fst_keeps
    | ((with_reducible show Seq.ok _ = true); assumption)
    | ((with_reducible show Tbl.wf _ _ = true); assumption)
    | ((with_reducible show List.length _ ≤ _); assumption)
    | split
    | dsimp only)

end Sys2Proof.Machine
end

