-- ==== Sys2Proof/Laws/KeepGynum.lean ====
section
/-!
SUPPORT. The invariant under the operations and commands of Gynum: each keeps it and the queue (Keeps); a command answers a next state (Goes).
-/
set_option linter.unusedTactic false
set_option linter.unreachableTactic false
set_option linter.unusedVariables false
namespace Sys2Proof.Machine

theorem gyn_keeps {pq : List Instr} {s : State} {n word : Nat} {body : State → State} (hk : Keeps pq s) (h_body : ∀ (a0 : State), Keeps pq a0 → Keeps pq (body a0)) :
    Keeps pq (gyn n word s body) := by
  unfold gyn
  repeat' (first
    | intro _
    | with_reducible assumption
    | with_reducible apply h_body
    | with_reducible apply modSeq_keeps
    | with_reducible apply trap_keeps
    | with_reducible apply setReg_ok
    | with_reducible apply refill_ok
    | with_reducible apply deliver_ok
    | with_reducible apply ite_keeps
    | with_reducible apply ite_fst_keeps
    | ((with_reducible show Seq.ok _ = true); assumption)
    | ((with_reducible show Tbl.wf _ _ = true); assumption)
    | ((with_reducible show List.length _ ≤ _); assumption)
    | refine ok_mem (by assumption) (by first | exact Or.inl rfl | exact Or.inr rfl) (by rfl) ?_ ?_
    | with_reducible apply Tbl.wf_writeBytes
    | with_reducible apply Tbl.wf_setD
    | with_reducible apply Tbl.wf_filter
    | with_reducible apply Tbl.wf_foldl
    | exact Tbl.wf_nil _
    | split
    | dsimp only)

theorem pcNext_keeps {pq : List Instr} {s : State} {n : Nat} (hk : Keeps pq s) :
    Keeps pq (pcNext s n) := by
  unfold pcNext
  repeat' (first
    | intro _
    | with_reducible assumption
    | with_reducible apply modSeq_keeps
    | with_reducible apply setReg_ok
    | with_reducible apply refill_ok
    | with_reducible apply deliver_ok
    | with_reducible apply ite_keeps
    | with_reducible apply ite_fst_keeps
    | ((with_reducible show Seq.ok _ = true); assumption)
    | ((with_reducible show Tbl.wf _ _ = true); assumption)
    | ((with_reducible show List.length _ ≤ _); assumption)
    | refine ok_mem (by assumption) (by first | exact Or.inl rfl | exact Or.inr rfl) (by rfl) ?_ ?_
    | with_reducible apply Tbl.wf_writeBytes
    | with_reducible apply Tbl.wf_setD
    | with_reducible apply Tbl.wf_filter
    | with_reducible apply Tbl.wf_foldl
    | exact Tbl.wf_nil _
    | split
    | dsimp only)

theorem setNext_keeps {pq : List Instr} {s : State} {n : Nat} {rd : BitVec 5} {v : U64} (hk : Keeps pq s) :
    Keeps pq (setNext s n rd v) := by
  unfold setNext
  repeat' (first
    | intro _
    | with_reducible assumption
    | with_reducible apply modSeq_keeps
    | with_reducible apply pcNext_keeps
    | with_reducible apply setReg_ok
    | with_reducible apply refill_ok
    | with_reducible apply deliver_ok
    | with_reducible apply ite_keeps
    | with_reducible apply ite_fst_keeps
    | ((with_reducible show Seq.ok _ = true); assumption)
    | ((with_reducible show Tbl.wf _ _ = true); assumption)
    | ((with_reducible show List.length _ ≤ _); assumption)
    | refine ok_mem (by assumption) (by first | exact Or.inl rfl | exact Or.inr rfl) (by rfl) ?_ ?_
    | with_reducible apply Tbl.wf_writeBytes
    | with_reducible apply Tbl.wf_setD
    | with_reducible apply Tbl.wf_filter
    | with_reducible apply Tbl.wf_foldl
    | exact Tbl.wf_nil _
    | split
    | dsimp only)

theorem gynPair_keeps {pq : List Instr} {s : State} {op n : Nat} {rd rs : BitVec 5} {pad : BitVec 14} {f : U64 → U64 → U64} (hk : Keeps pq s) :
    Keeps pq (gynPair op n rd rs pad f s) := by
  unfold gynPair
  repeat' (first
    | intro _
    | with_reducible assumption
    | with_reducible apply gyn_keeps
    | with_reducible apply setNext_keeps
    | with_reducible apply ite_keeps
    | with_reducible apply ite_fst_keeps
    | ((with_reducible show Seq.ok _ = true); assumption)
    | ((with_reducible show Tbl.wf _ _ = true); assumption)
    | ((with_reducible show List.length _ ≤ _); assumption)
    | split
    | dsimp only)

theorem gynConst_keeps {pq : List Instr} {s : State} {op n : Nat} {rd : BitVec 5} {k : BitVec 19} {f : U64 → BitVec 19 → U64} (hk : Keeps pq s) :
    Keeps pq (gynConst op n rd k f s) := by
  unfold gynConst
  repeat' (first
    | intro _
    | with_reducible assumption
    | with_reducible apply gyn_keeps
    | with_reducible apply setNext_keeps
    | with_reducible apply ite_keeps
    | with_reducible apply ite_fst_keeps
    | ((with_reducible show Seq.ok _ = true); assumption)
    | ((with_reducible show Tbl.wf _ _ = true); assumption)
    | ((with_reducible show List.length _ ≤ _); assumption)
    | split
    | dsimp only)

theorem setT_keeps {pq : List Instr} {s : State} {n : Nat} {t : Bool} (hk : Keeps pq s) :
    Keeps pq (setT s n t) := by
  unfold setT
  repeat' (first
    | intro _
    | with_reducible assumption
    | with_reducible apply modSeq_keeps
    | with_reducible apply pcNext_keeps
    | with_reducible apply setReg_ok
    | with_reducible apply refill_ok
    | with_reducible apply deliver_ok
    | with_reducible apply ite_keeps
    | with_reducible apply ite_fst_keeps
    | ((with_reducible show Seq.ok _ = true); assumption)
    | ((with_reducible show Tbl.wf _ _ = true); assumption)
    | ((with_reducible show List.length _ ≤ _); assumption)
    | refine ok_mem (by assumption) (by first | exact Or.inl rfl | exact Or.inr rfl) (by rfl) ?_ ?_
    | with_reducible apply Tbl.wf_writeBytes
    | with_reducible apply Tbl.wf_setD
    | with_reducible apply Tbl.wf_filter
    | with_reducible apply Tbl.wf_foldl
    | exact Tbl.wf_nil _
    | split
    | dsimp only)

theorem gynTest_keeps {pq : List Instr} {s : State} {op n : Nat} {rd rs : BitVec 5} {pad : BitVec 14} {f : U64 → U64 → Bool} (hk : Keeps pq s) :
    Keeps pq (gynTest op n rd rs pad f s) := by
  unfold gynTest
  repeat' (first
    | intro _
    | with_reducible assumption
    | with_reducible apply gyn_keeps
    | with_reducible apply setT_keeps
    | with_reducible apply ite_keeps
    | with_reducible apply ite_fst_keeps
    | ((with_reducible show Seq.ok _ = true); assumption)
    | ((with_reducible show Tbl.wf _ _ = true); assumption)
    | ((with_reducible show List.length _ ≤ _); assumption)
    | split
    | dsimp only)

theorem gynTestK_keeps {pq : List Instr} {s : State} {op n : Nat} {rd : BitVec 5} {k : BitVec 19} {f : U64 → BitVec 19 → Bool} (hk : Keeps pq s) :
    Keeps pq (gynTestK op n rd k f s) := by
  unfold gynTestK
  repeat' (first
    | intro _
    | with_reducible assumption
    | with_reducible apply gyn_keeps
    | with_reducible apply setT_keeps
    | with_reducible apply ite_keeps
    | with_reducible apply ite_fst_keeps
    | ((with_reducible show Seq.ok _ = true); assumption)
    | ((with_reducible show Tbl.wf _ _ = true); assumption)
    | ((with_reducible show List.length _ ≤ _); assumption)
    | split
    | dsimp only)

theorem gynLoad_keeps {pq : List Instr} {s : State} {op len n : Nat} {rd rs : BitVec 5} {d : BitVec 14} (hk : Keeps pq s) :
    Keeps pq (gynLoad op len n rd rs d s) := by
  unfold gynLoad
  repeat' (first
    | intro _
    | with_reducible assumption
    | with_reducible apply gyn_keeps
    | with_reducible apply setNext_keeps
    | with_reducible apply trap_keeps
    | with_reducible apply ite_keeps
    | with_reducible apply ite_fst_keeps
    | ((with_reducible show Seq.ok _ = true); assumption)
    | ((with_reducible show Tbl.wf _ _ = true); assumption)
    | ((with_reducible show List.length _ ≤ _); assumption)
    | split
    | dsimp only)

theorem gynStore_keeps {pq : List Instr} {s : State} {op len n : Nat} {rd rs : BitVec 5} {d : BitVec 14} (hk : Keeps pq s) :
    Keeps pq (gynStore op len n rd rs d s) := by
  unfold gynStore
  repeat' (first
    | intro _
    | with_reducible assumption
    | with_reducible apply gyn_keeps
    | with_reducible apply localWrite_keeps
    | with_reducible apply pcNext_keeps
    | with_reducible apply trap_keeps
    | with_reducible apply ite_keeps
    | with_reducible apply ite_fst_keeps
    | ((with_reducible show Seq.ok _ = true); assumption)
    | ((with_reducible show Tbl.wf _ _ = true); assumption)
    | ((with_reducible show List.length _ ≤ _); assumption)
    | split
    | dsimp only)

theorem gynHouseLoad_keeps {pq : List Instr} {s : State} {op len n : Nat} {rd rs : BitVec 5} {d : BitVec 14} (hk : Keeps pq s) :
    Keeps pq (gynHouseLoad op len n rd rs d s) := by
  unfold gynHouseLoad
  repeat' (first
    | intro _
    | with_reducible assumption
    | with_reducible apply gyn_keeps
    | with_reducible apply setNext_keeps
    | with_reducible apply trap_keeps
    | with_reducible apply ite_keeps
    | with_reducible apply ite_fst_keeps
    | ((with_reducible show Seq.ok _ = true); assumption)
    | ((with_reducible show Tbl.wf _ _ = true); assumption)
    | ((with_reducible show List.length _ ≤ _); assumption)
    | split
    | dsimp only)

theorem gynHouseStore_keeps {pq : List Instr} {s : State} {op len n : Nat} {rd rs : BitVec 5} {d : BitVec 14} (hk : Keeps pq s) :
    Keeps pq (gynHouseStore op len n rd rs d s) := by
  unfold gynHouseStore
  repeat' (first
    | intro _
    | with_reducible assumption
    | with_reducible apply gyn_keeps
    | with_reducible apply houseWriteBytes_keeps
    | with_reducible apply pcNext_keeps
    | with_reducible apply trap_keeps
    | with_reducible apply ite_keeps
    | with_reducible apply ite_fst_keeps
    | ((with_reducible show Seq.ok _ = true); assumption)
    | ((with_reducible show Tbl.wf _ _ = true); assumption)
    | ((with_reducible show List.length _ ≤ _); assumption)
    | split
    | dsimp only)

theorem gynGoto_keeps {pq : List Instr} {s : State} {n a : Nat} (hk : Keeps pq s) :
    Keeps pq (gynGoto s n a) := by
  unfold gynGoto
  repeat' (first
    | intro _
    | with_reducible assumption
    | with_reducible apply modSeq_keeps
    | with_reducible apply setReg_ok
    | with_reducible apply refill_ok
    | with_reducible apply deliver_ok
    | with_reducible apply ite_keeps
    | with_reducible apply ite_fst_keeps
    | ((with_reducible show Seq.ok _ = true); assumption)
    | ((with_reducible show Tbl.wf _ _ = true); assumption)
    | ((with_reducible show List.length _ ≤ _); assumption)
    | refine ok_mem (by assumption) (by first | exact Or.inl rfl | exact Or.inr rfl) (by rfl) ?_ ?_
    | with_reducible apply Tbl.wf_writeBytes
    | with_reducible apply Tbl.wf_setD
    | with_reducible apply Tbl.wf_filter
    | with_reducible apply Tbl.wf_foldl
    | exact Tbl.wf_nil _
    | split
    | dsimp only)

theorem gynCallTo_keeps {pq : List Instr} {s : State} {n a : Nat} (hk : Keeps pq s) : Keeps pq (gynCallTo s n a) := by
  unfold gynCallTo
  dsimp only
  split
  · exact trap_keeps hk
  · rename_i hl
    refine modSeq_at_keeps hk fun hq => ?_
    obtain ⟨_, h2, h3, h4⟩ := ok_parts.1 hq
    refine ok_parts.2 ⟨?_, h2, h3, h4⟩
    show (s.seq n).rstack.length + 1 ≤ 8
    omega

theorem execMov_goes {pq : List Instr} {s : State} {n : Nat} {rd rs : BitVec 5} {pad : BitVec 14} (hk : Keeps pq s) :
    Goes pq (execMov n rd rs pad s) := by
  unfold execMov
  repeat' (first
    | intro _
    | with_reducible assumption
    | with_reducible apply gynPair_keeps
    | with_reducible apply goes_next
    | with_reducible apply ite_goes
    | with_reducible apply ite_keeps
    | with_reducible apply ite_fst_keeps
    | ((with_reducible show Seq.ok _ = true); assumption)
    | ((with_reducible show Tbl.wf _ _ = true); assumption)
    | ((with_reducible show List.length _ ≤ _); assumption)
    | split
    | dsimp only)

theorem execAdd_goes {pq : List Instr} {s : State} {n : Nat} {rd rs : BitVec 5} {pad : BitVec 14} (hk : Keeps pq s) :
    Goes pq (execAdd n rd rs pad s) := by
  unfold execAdd
  repeat' (first
    | intro _
    | with_reducible assumption
    | with_reducible apply gynPair_keeps
    | with_reducible apply goes_next
    | with_reducible apply ite_goes
    | with_reducible apply ite_keeps
    | with_reducible apply ite_fst_keeps
    | ((with_reducible show Seq.ok _ = true); assumption)
    | ((with_reducible show Tbl.wf _ _ = true); assumption)
    | ((with_reducible show List.length _ ≤ _); assumption)
    | split
    | dsimp only)

theorem execSub_goes {pq : List Instr} {s : State} {n : Nat} {rd rs : BitVec 5} {pad : BitVec 14} (hk : Keeps pq s) :
    Goes pq (execSub n rd rs pad s) := by
  unfold execSub
  repeat' (first
    | intro _
    | with_reducible assumption
    | with_reducible apply gynPair_keeps
    | with_reducible apply goes_next
    | with_reducible apply ite_goes
    | with_reducible apply ite_keeps
    | with_reducible apply ite_fst_keeps
    | ((with_reducible show Seq.ok _ = true); assumption)
    | ((with_reducible show Tbl.wf _ _ = true); assumption)
    | ((with_reducible show List.length _ ≤ _); assumption)
    | split
    | dsimp only)

theorem execAnd_goes {pq : List Instr} {s : State} {n : Nat} {rd rs : BitVec 5} {pad : BitVec 14} (hk : Keeps pq s) :
    Goes pq (execAnd n rd rs pad s) := by
  unfold execAnd
  repeat' (first
    | intro _
    | with_reducible assumption
    | with_reducible apply gynPair_keeps
    | with_reducible apply goes_next
    | with_reducible apply ite_goes
    | with_reducible apply ite_keeps
    | with_reducible apply ite_fst_keeps
    | ((with_reducible show Seq.ok _ = true); assumption)
    | ((with_reducible show Tbl.wf _ _ = true); assumption)
    | ((with_reducible show List.length _ ≤ _); assumption)
    | split
    | dsimp only)

theorem execOr_goes {pq : List Instr} {s : State} {n : Nat} {rd rs : BitVec 5} {pad : BitVec 14} (hk : Keeps pq s) :
    Goes pq (execOr n rd rs pad s) := by
  unfold execOr
  repeat' (first
    | intro _
    | with_reducible assumption
    | with_reducible apply gynPair_keeps
    | with_reducible apply goes_next
    | with_reducible apply ite_goes
    | with_reducible apply ite_keeps
    | with_reducible apply ite_fst_keeps
    | ((with_reducible show Seq.ok _ = true); assumption)
    | ((with_reducible show Tbl.wf _ _ = true); assumption)
    | ((with_reducible show List.length _ ≤ _); assumption)
    | split
    | dsimp only)

theorem execXor_goes {pq : List Instr} {s : State} {n : Nat} {rd rs : BitVec 5} {pad : BitVec 14} (hk : Keeps pq s) :
    Goes pq (execXor n rd rs pad s) := by
  unfold execXor
  repeat' (first
    | intro _
    | with_reducible assumption
    | with_reducible apply gynPair_keeps
    | with_reducible apply goes_next
    | with_reducible apply ite_goes
    | with_reducible apply ite_keeps
    | with_reducible apply ite_fst_keeps
    | ((with_reducible show Seq.ok _ = true); assumption)
    | ((with_reducible show Tbl.wf _ _ = true); assumption)
    | ((with_reducible show List.length _ ≤ _); assumption)
    | split
    | dsimp only)

theorem execShl_goes {pq : List Instr} {s : State} {n : Nat} {rd rs : BitVec 5} {pad : BitVec 14} (hk : Keeps pq s) :
    Goes pq (execShl n rd rs pad s) := by
  unfold execShl
  repeat' (first
    | intro _
    | with_reducible assumption
    | with_reducible apply gynPair_keeps
    | with_reducible apply goes_next
    | with_reducible apply ite_goes
    | with_reducible apply ite_keeps
    | with_reducible apply ite_fst_keeps
    | ((with_reducible show Seq.ok _ = true); assumption)
    | ((with_reducible show Tbl.wf _ _ = true); assumption)
    | ((with_reducible show List.length _ ≤ _); assumption)
    | split
    | dsimp only)

theorem execShr_goes {pq : List Instr} {s : State} {n : Nat} {rd rs : BitVec 5} {pad : BitVec 14} (hk : Keeps pq s) :
    Goes pq (execShr n rd rs pad s) := by
  unfold execShr
  repeat' (first
    | intro _
    | with_reducible assumption
    | with_reducible apply gynPair_keeps
    | with_reducible apply goes_next
    | with_reducible apply ite_goes
    | with_reducible apply ite_keeps
    | with_reducible apply ite_fst_keeps
    | ((with_reducible show Seq.ok _ = true); assumption)
    | ((with_reducible show Tbl.wf _ _ = true); assumption)
    | ((with_reducible show List.length _ ≤ _); assumption)
    | split
    | dsimp only)

theorem execSar_goes {pq : List Instr} {s : State} {n : Nat} {rd rs : BitVec 5} {pad : BitVec 14} (hk : Keeps pq s) :
    Goes pq (execSar n rd rs pad s) := by
  unfold execSar
  repeat' (first
    | intro _
    | with_reducible assumption
    | with_reducible apply gynPair_keeps
    | with_reducible apply goes_next
    | with_reducible apply ite_goes
    | with_reducible apply ite_keeps
    | with_reducible apply ite_fst_keeps
    | ((with_reducible show Seq.ok _ = true); assumption)
    | ((with_reducible show Tbl.wf _ _ = true); assumption)
    | ((with_reducible show List.length _ ≤ _); assumption)
    | split
    | dsimp only)

theorem execMul_goes {pq : List Instr} {s : State} {n : Nat} {rd rs : BitVec 5} {pad : BitVec 14} (hk : Keeps pq s) :
    Goes pq (execMul n rd rs pad s) := by
  unfold execMul
  repeat' (first
    | intro _
    | with_reducible assumption
    | with_reducible apply gynPair_keeps
    | with_reducible apply goes_next
    | with_reducible apply ite_goes
    | with_reducible apply ite_keeps
    | with_reducible apply ite_fst_keeps
    | ((with_reducible show Seq.ok _ = true); assumption)
    | ((with_reducible show Tbl.wf _ _ = true); assumption)
    | ((with_reducible show List.length _ ≤ _); assumption)
    | split
    | dsimp only)

theorem execMulhu_goes {pq : List Instr} {s : State} {n : Nat} {rd rs : BitVec 5} {pad : BitVec 14} (hk : Keeps pq s) :
    Goes pq (execMulhu n rd rs pad s) := by
  unfold execMulhu
  repeat' (first
    | intro _
    | with_reducible assumption
    | with_reducible apply gynPair_keeps
    | with_reducible apply goes_next
    | with_reducible apply ite_goes
    | with_reducible apply ite_keeps
    | with_reducible apply ite_fst_keeps
    | ((with_reducible show Seq.ok _ = true); assumption)
    | ((with_reducible show Tbl.wf _ _ = true); assumption)
    | ((with_reducible show List.length _ ≤ _); assumption)
    | split
    | dsimp only)

theorem execMin_goes {pq : List Instr} {s : State} {n : Nat} {rd rs : BitVec 5} {pad : BitVec 14} (hk : Keeps pq s) :
    Goes pq (execMin n rd rs pad s) := by
  unfold execMin
  repeat' (first
    | intro _
    | with_reducible assumption
    | with_reducible apply gynPair_keeps
    | with_reducible apply goes_next
    | with_reducible apply ite_goes
    | with_reducible apply ite_keeps
    | with_reducible apply ite_fst_keeps
    | ((with_reducible show Seq.ok _ = true); assumption)
    | ((with_reducible show Tbl.wf _ _ = true); assumption)
    | ((with_reducible show List.length _ ≤ _); assumption)
    | split
    | dsimp only)

theorem execMax_goes {pq : List Instr} {s : State} {n : Nat} {rd rs : BitVec 5} {pad : BitVec 14} (hk : Keeps pq s) :
    Goes pq (execMax n rd rs pad s) := by
  unfold execMax
  repeat' (first
    | intro _
    | with_reducible assumption
    | with_reducible apply gynPair_keeps
    | with_reducible apply goes_next
    | with_reducible apply ite_goes
    | with_reducible apply ite_keeps
    | with_reducible apply ite_fst_keeps
    | ((with_reducible show Seq.ok _ = true); assumption)
    | ((with_reducible show Tbl.wf _ _ = true); assumption)
    | ((with_reducible show List.length _ ≤ _); assumption)
    | split
    | dsimp only)

theorem execCnt_goes {pq : List Instr} {s : State} {n : Nat} {rd rs : BitVec 5} {pad : BitVec 14} (hk : Keeps pq s) :
    Goes pq (execCnt n rd rs pad s) := by
  unfold execCnt
  repeat' (first
    | intro _
    | with_reducible assumption
    | with_reducible apply gynPair_keeps
    | with_reducible apply goes_next
    | with_reducible apply ite_goes
    | with_reducible apply ite_keeps
    | with_reducible apply ite_fst_keeps
    | ((with_reducible show Seq.ok _ = true); assumption)
    | ((with_reducible show Tbl.wf _ _ = true); assumption)
    | ((with_reducible show List.length _ ≤ _); assumption)
    | split
    | dsimp only)

theorem execLzc_goes {pq : List Instr} {s : State} {n : Nat} {rd rs : BitVec 5} {pad : BitVec 14} (hk : Keeps pq s) :
    Goes pq (execLzc n rd rs pad s) := by
  unfold execLzc
  repeat' (first
    | intro _
    | with_reducible assumption
    | with_reducible apply gynPair_keeps
    | with_reducible apply goes_next
    | with_reducible apply ite_goes
    | with_reducible apply ite_keeps
    | with_reducible apply ite_fst_keeps
    | ((with_reducible show Seq.ok _ = true); assumption)
    | ((with_reducible show Tbl.wf _ _ = true); assumption)
    | ((with_reducible show List.length _ ≤ _); assumption)
    | split
    | dsimp only)

theorem execLdk_goes {pq : List Instr} {s : State} {n : Nat} {rd : BitVec 5} {k : BitVec 19} (hk : Keeps pq s) :
    Goes pq (execLdk n rd k s) := by
  unfold execLdk
  repeat' (first
    | intro _
    | with_reducible assumption
    | with_reducible apply gynConst_keeps
    | with_reducible apply goes_next
    | with_reducible apply ite_goes
    | with_reducible apply ite_keeps
    | with_reducible apply ite_fst_keeps
    | ((with_reducible show Seq.ok _ = true); assumption)
    | ((with_reducible show Tbl.wf _ _ = true); assumption)
    | ((with_reducible show List.length _ ≤ _); assumption)
    | split
    | dsimp only)

theorem execPutk_goes {pq : List Instr} {s : State} {n : Nat} {rd : BitVec 5} {k : BitVec 19} (hk : Keeps pq s) :
    Goes pq (execPutk n rd k s) := by
  unfold execPutk
  repeat' (first
    | intro _
    | with_reducible assumption
    | with_reducible apply gynConst_keeps
    | with_reducible apply goes_next
    | with_reducible apply ite_goes
    | with_reducible apply ite_keeps
    | with_reducible apply ite_fst_keeps
    | ((with_reducible show Seq.ok _ = true); assumption)
    | ((with_reducible show Tbl.wf _ _ = true); assumption)
    | ((with_reducible show List.length _ ≤ _); assumption)
    | split
    | dsimp only)

theorem execAddk_goes {pq : List Instr} {s : State} {n : Nat} {rd : BitVec 5} {k : BitVec 19} (hk : Keeps pq s) :
    Goes pq (execAddk n rd k s) := by
  unfold execAddk
  repeat' (first
    | intro _
    | with_reducible assumption
    | with_reducible apply gynConst_keeps
    | with_reducible apply goes_next
    | with_reducible apply ite_goes
    | with_reducible apply ite_keeps
    | with_reducible apply ite_fst_keeps
    | ((with_reducible show Seq.ok _ = true); assumption)
    | ((with_reducible show Tbl.wf _ _ = true); assumption)
    | ((with_reducible show List.length _ ≤ _); assumption)
    | split
    | dsimp only)

theorem execAndk_goes {pq : List Instr} {s : State} {n : Nat} {rd : BitVec 5} {k : BitVec 19} (hk : Keeps pq s) :
    Goes pq (execAndk n rd k s) := by
  unfold execAndk
  repeat' (first
    | intro _
    | with_reducible assumption
    | with_reducible apply gynConst_keeps
    | with_reducible apply goes_next
    | with_reducible apply ite_goes
    | with_reducible apply ite_keeps
    | with_reducible apply ite_fst_keeps
    | ((with_reducible show Seq.ok _ = true); assumption)
    | ((with_reducible show Tbl.wf _ _ = true); assumption)
    | ((with_reducible show List.length _ ≤ _); assumption)
    | split
    | dsimp only)

theorem execOrk_goes {pq : List Instr} {s : State} {n : Nat} {rd : BitVec 5} {k : BitVec 19} (hk : Keeps pq s) :
    Goes pq (execOrk n rd k s) := by
  unfold execOrk
  repeat' (first
    | intro _
    | with_reducible assumption
    | with_reducible apply gynConst_keeps
    | with_reducible apply goes_next
    | with_reducible apply ite_goes
    | with_reducible apply ite_keeps
    | with_reducible apply ite_fst_keeps
    | ((with_reducible show Seq.ok _ = true); assumption)
    | ((with_reducible show Tbl.wf _ _ = true); assumption)
    | ((with_reducible show List.length _ ≤ _); assumption)
    | split
    | dsimp only)

theorem execXork_goes {pq : List Instr} {s : State} {n : Nat} {rd : BitVec 5} {k : BitVec 19} (hk : Keeps pq s) :
    Goes pq (execXork n rd k s) := by
  unfold execXork
  repeat' (first
    | intro _
    | with_reducible assumption
    | with_reducible apply gynConst_keeps
    | with_reducible apply goes_next
    | with_reducible apply ite_goes
    | with_reducible apply ite_keeps
    | with_reducible apply ite_fst_keeps
    | ((with_reducible show Seq.ok _ = true); assumption)
    | ((with_reducible show Tbl.wf _ _ = true); assumption)
    | ((with_reducible show List.length _ ≤ _); assumption)
    | split
    | dsimp only)

theorem execShlk_goes {pq : List Instr} {s : State} {n : Nat} {rd : BitVec 5} {k : BitVec 19} (hk : Keeps pq s) :
    Goes pq (execShlk n rd k s) := by
  unfold execShlk
  repeat' (first
    | intro _
    | with_reducible assumption
    | with_reducible apply gynConst_keeps
    | with_reducible apply goes_next
    | with_reducible apply ite_goes
    | with_reducible apply ite_keeps
    | with_reducible apply ite_fst_keeps
    | ((with_reducible show Seq.ok _ = true); assumption)
    | ((with_reducible show Tbl.wf _ _ = true); assumption)
    | ((with_reducible show List.length _ ≤ _); assumption)
    | split
    | dsimp only)

theorem execShrk_goes {pq : List Instr} {s : State} {n : Nat} {rd : BitVec 5} {k : BitVec 19} (hk : Keeps pq s) :
    Goes pq (execShrk n rd k s) := by
  unfold execShrk
  repeat' (first
    | intro _
    | with_reducible assumption
    | with_reducible apply gynConst_keeps
    | with_reducible apply goes_next
    | with_reducible apply ite_goes
    | with_reducible apply ite_keeps
    | with_reducible apply ite_fst_keeps
    | ((with_reducible show Seq.ok _ = true); assumption)
    | ((with_reducible show Tbl.wf _ _ = true); assumption)
    | ((with_reducible show List.length _ ≤ _); assumption)
    | split
    | dsimp only)

theorem execSark_goes {pq : List Instr} {s : State} {n : Nat} {rd : BitVec 5} {k : BitVec 19} (hk : Keeps pq s) :
    Goes pq (execSark n rd k s) := by
  unfold execSark
  repeat' (first
    | intro _
    | with_reducible assumption
    | with_reducible apply gynConst_keeps
    | with_reducible apply goes_next
    | with_reducible apply ite_goes
    | with_reducible apply ite_keeps
    | with_reducible apply ite_fst_keeps
    | ((with_reducible show Seq.ok _ = true); assumption)
    | ((with_reducible show Tbl.wf _ _ = true); assumption)
    | ((with_reducible show List.length _ ≤ _); assumption)
    | split
    | dsimp only)

theorem execTeq_goes {pq : List Instr} {s : State} {n : Nat} {rd rs : BitVec 5} {pad : BitVec 14} (hk : Keeps pq s) :
    Goes pq (execTeq n rd rs pad s) := by
  unfold execTeq
  repeat' (first
    | intro _
    | with_reducible assumption
    | with_reducible apply gynTest_keeps
    | with_reducible apply goes_next
    | with_reducible apply ite_goes
    | with_reducible apply ite_keeps
    | with_reducible apply ite_fst_keeps
    | ((with_reducible show Seq.ok _ = true); assumption)
    | ((with_reducible show Tbl.wf _ _ = true); assumption)
    | ((with_reducible show List.length _ ≤ _); assumption)
    | split
    | dsimp only)

theorem execTne_goes {pq : List Instr} {s : State} {n : Nat} {rd rs : BitVec 5} {pad : BitVec 14} (hk : Keeps pq s) :
    Goes pq (execTne n rd rs pad s) := by
  unfold execTne
  repeat' (first
    | intro _
    | with_reducible assumption
    | with_reducible apply gynTest_keeps
    | with_reducible apply goes_next
    | with_reducible apply ite_goes
    | with_reducible apply ite_keeps
    | with_reducible apply ite_fst_keeps
    | ((with_reducible show Seq.ok _ = true); assumption)
    | ((with_reducible show Tbl.wf _ _ = true); assumption)
    | ((with_reducible show List.length _ ≤ _); assumption)
    | split
    | dsimp only)

theorem execTlt_goes {pq : List Instr} {s : State} {n : Nat} {rd rs : BitVec 5} {pad : BitVec 14} (hk : Keeps pq s) :
    Goes pq (execTlt n rd rs pad s) := by
  unfold execTlt
  repeat' (first
    | intro _
    | with_reducible assumption
    | with_reducible apply gynTest_keeps
    | with_reducible apply goes_next
    | with_reducible apply ite_goes
    | with_reducible apply ite_keeps
    | with_reducible apply ite_fst_keeps
    | ((with_reducible show Seq.ok _ = true); assumption)
    | ((with_reducible show Tbl.wf _ _ = true); assumption)
    | ((with_reducible show List.length _ ≤ _); assumption)
    | split
    | dsimp only)

theorem execTge_goes {pq : List Instr} {s : State} {n : Nat} {rd rs : BitVec 5} {pad : BitVec 14} (hk : Keeps pq s) :
    Goes pq (execTge n rd rs pad s) := by
  unfold execTge
  repeat' (first
    | intro _
    | with_reducible assumption
    | with_reducible apply gynTest_keeps
    | with_reducible apply goes_next
    | with_reducible apply ite_goes
    | with_reducible apply ite_keeps
    | with_reducible apply ite_fst_keeps
    | ((with_reducible show Seq.ok _ = true); assumption)
    | ((with_reducible show Tbl.wf _ _ = true); assumption)
    | ((with_reducible show List.length _ ≤ _); assumption)
    | split
    | dsimp only)

theorem execTltu_goes {pq : List Instr} {s : State} {n : Nat} {rd rs : BitVec 5} {pad : BitVec 14} (hk : Keeps pq s) :
    Goes pq (execTltu n rd rs pad s) := by
  unfold execTltu
  repeat' (first
    | intro _
    | with_reducible assumption
    | with_reducible apply gynTest_keeps
    | with_reducible apply goes_next
    | with_reducible apply ite_goes
    | with_reducible apply ite_keeps
    | with_reducible apply ite_fst_keeps
    | ((with_reducible show Seq.ok _ = true); assumption)
    | ((with_reducible show Tbl.wf _ _ = true); assumption)
    | ((with_reducible show List.length _ ≤ _); assumption)
    | split
    | dsimp only)

theorem execTgeu_goes {pq : List Instr} {s : State} {n : Nat} {rd rs : BitVec 5} {pad : BitVec 14} (hk : Keeps pq s) :
    Goes pq (execTgeu n rd rs pad s) := by
  unfold execTgeu
  repeat' (first
    | intro _
    | with_reducible assumption
    | with_reducible apply gynTest_keeps
    | with_reducible apply goes_next
    | with_reducible apply ite_goes
    | with_reducible apply ite_keeps
    | with_reducible apply ite_fst_keeps
    | ((with_reducible show Seq.ok _ = true); assumption)
    | ((with_reducible show Tbl.wf _ _ = true); assumption)
    | ((with_reducible show List.length _ ≤ _); assumption)
    | split
    | dsimp only)

theorem execTeqk_goes {pq : List Instr} {s : State} {n : Nat} {rd : BitVec 5} {k : BitVec 19} (hk : Keeps pq s) :
    Goes pq (execTeqk n rd k s) := by
  unfold execTeqk
  repeat' (first
    | intro _
    | with_reducible assumption
    | with_reducible apply gynTestK_keeps
    | with_reducible apply goes_next
    | with_reducible apply ite_goes
    | with_reducible apply ite_keeps
    | with_reducible apply ite_fst_keeps
    | ((with_reducible show Seq.ok _ = true); assumption)
    | ((with_reducible show Tbl.wf _ _ = true); assumption)
    | ((with_reducible show List.length _ ≤ _); assumption)
    | split
    | dsimp only)

theorem execTnek_goes {pq : List Instr} {s : State} {n : Nat} {rd : BitVec 5} {k : BitVec 19} (hk : Keeps pq s) :
    Goes pq (execTnek n rd k s) := by
  unfold execTnek
  repeat' (first
    | intro _
    | with_reducible assumption
    | with_reducible apply gynTestK_keeps
    | with_reducible apply goes_next
    | with_reducible apply ite_goes
    | with_reducible apply ite_keeps
    | with_reducible apply ite_fst_keeps
    | ((with_reducible show Seq.ok _ = true); assumption)
    | ((with_reducible show Tbl.wf _ _ = true); assumption)
    | ((with_reducible show List.length _ ≤ _); assumption)
    | split
    | dsimp only)

theorem execTltk_goes {pq : List Instr} {s : State} {n : Nat} {rd : BitVec 5} {k : BitVec 19} (hk : Keeps pq s) :
    Goes pq (execTltk n rd k s) := by
  unfold execTltk
  repeat' (first
    | intro _
    | with_reducible assumption
    | with_reducible apply gynTestK_keeps
    | with_reducible apply goes_next
    | with_reducible apply ite_goes
    | with_reducible apply ite_keeps
    | with_reducible apply ite_fst_keeps
    | ((with_reducible show Seq.ok _ = true); assumption)
    | ((with_reducible show Tbl.wf _ _ = true); assumption)
    | ((with_reducible show List.length _ ≤ _); assumption)
    | split
    | dsimp only)

theorem execTgek_goes {pq : List Instr} {s : State} {n : Nat} {rd : BitVec 5} {k : BitVec 19} (hk : Keeps pq s) :
    Goes pq (execTgek n rd k s) := by
  unfold execTgek
  repeat' (first
    | intro _
    | with_reducible assumption
    | with_reducible apply gynTestK_keeps
    | with_reducible apply goes_next
    | with_reducible apply ite_goes
    | with_reducible apply ite_keeps
    | with_reducible apply ite_fst_keeps
    | ((with_reducible show Seq.ok _ = true); assumption)
    | ((with_reducible show Tbl.wf _ _ = true); assumption)
    | ((with_reducible show List.length _ ≤ _); assumption)
    | split
    | dsimp only)

theorem execTbit_goes {pq : List Instr} {s : State} {n : Nat} {rd : BitVec 5} {k : BitVec 19} (hk : Keeps pq s) :
    Goes pq (execTbit n rd k s) := by
  unfold execTbit
  repeat' (first
    | intro _
    | with_reducible assumption
    | with_reducible apply gynTestK_keeps
    | with_reducible apply goes_next
    | with_reducible apply ite_goes
    | with_reducible apply ite_keeps
    | with_reducible apply ite_fst_keeps
    | ((with_reducible show Seq.ok _ = true); assumption)
    | ((with_reducible show Tbl.wf _ _ = true); assumption)
    | ((with_reducible show List.length _ ≤ _); assumption)
    | split
    | dsimp only)

theorem execLd8_goes {pq : List Instr} {s : State} {n : Nat} {rd rs : BitVec 5} {d : BitVec 14} (hk : Keeps pq s) :
    Goes pq (execLd8 n rd rs d s) := by
  unfold execLd8
  repeat' (first
    | intro _
    | with_reducible assumption
    | with_reducible apply gynLoad_keeps
    | with_reducible apply goes_next
    | with_reducible apply ite_goes
    | with_reducible apply ite_keeps
    | with_reducible apply ite_fst_keeps
    | ((with_reducible show Seq.ok _ = true); assumption)
    | ((with_reducible show Tbl.wf _ _ = true); assumption)
    | ((with_reducible show List.length _ ≤ _); assumption)
    | split
    | dsimp only)

theorem execLd4_goes {pq : List Instr} {s : State} {n : Nat} {rd rs : BitVec 5} {d : BitVec 14} (hk : Keeps pq s) :
    Goes pq (execLd4 n rd rs d s) := by
  unfold execLd4
  repeat' (first
    | intro _
    | with_reducible assumption
    | with_reducible apply gynLoad_keeps
    | with_reducible apply goes_next
    | with_reducible apply ite_goes
    | with_reducible apply ite_keeps
    | with_reducible apply ite_fst_keeps
    | ((with_reducible show Seq.ok _ = true); assumption)
    | ((with_reducible show Tbl.wf _ _ = true); assumption)
    | ((with_reducible show List.length _ ≤ _); assumption)
    | split
    | dsimp only)

theorem execLd2_goes {pq : List Instr} {s : State} {n : Nat} {rd rs : BitVec 5} {d : BitVec 14} (hk : Keeps pq s) :
    Goes pq (execLd2 n rd rs d s) := by
  unfold execLd2
  repeat' (first
    | intro _
    | with_reducible assumption
    | with_reducible apply gynLoad_keeps
    | with_reducible apply goes_next
    | with_reducible apply ite_goes
    | with_reducible apply ite_keeps
    | with_reducible apply ite_fst_keeps
    | ((with_reducible show Seq.ok _ = true); assumption)
    | ((with_reducible show Tbl.wf _ _ = true); assumption)
    | ((with_reducible show List.length _ ≤ _); assumption)
    | split
    | dsimp only)

theorem execLd1_goes {pq : List Instr} {s : State} {n : Nat} {rd rs : BitVec 5} {d : BitVec 14} (hk : Keeps pq s) :
    Goes pq (execLd1 n rd rs d s) := by
  unfold execLd1
  repeat' (first
    | intro _
    | with_reducible assumption
    | with_reducible apply gynLoad_keeps
    | with_reducible apply goes_next
    | with_reducible apply ite_goes
    | with_reducible apply ite_keeps
    | with_reducible apply ite_fst_keeps
    | ((with_reducible show Seq.ok _ = true); assumption)
    | ((with_reducible show Tbl.wf _ _ = true); assumption)
    | ((with_reducible show List.length _ ≤ _); assumption)
    | split
    | dsimp only)

theorem execSt8_goes {pq : List Instr} {s : State} {n : Nat} {rd rs : BitVec 5} {d : BitVec 14} (hk : Keeps pq s) :
    Goes pq (execSt8 n rd rs d s) := by
  unfold execSt8
  repeat' (first
    | intro _
    | with_reducible assumption
    | with_reducible apply gynStore_keeps
    | with_reducible apply goes_next
    | with_reducible apply ite_goes
    | with_reducible apply ite_keeps
    | with_reducible apply ite_fst_keeps
    | ((with_reducible show Seq.ok _ = true); assumption)
    | ((with_reducible show Tbl.wf _ _ = true); assumption)
    | ((with_reducible show List.length _ ≤ _); assumption)
    | split
    | dsimp only)

theorem execSt4_goes {pq : List Instr} {s : State} {n : Nat} {rd rs : BitVec 5} {d : BitVec 14} (hk : Keeps pq s) :
    Goes pq (execSt4 n rd rs d s) := by
  unfold execSt4
  repeat' (first
    | intro _
    | with_reducible assumption
    | with_reducible apply gynStore_keeps
    | with_reducible apply goes_next
    | with_reducible apply ite_goes
    | with_reducible apply ite_keeps
    | with_reducible apply ite_fst_keeps
    | ((with_reducible show Seq.ok _ = true); assumption)
    | ((with_reducible show Tbl.wf _ _ = true); assumption)
    | ((with_reducible show List.length _ ≤ _); assumption)
    | split
    | dsimp only)

theorem execSt2_goes {pq : List Instr} {s : State} {n : Nat} {rd rs : BitVec 5} {d : BitVec 14} (hk : Keeps pq s) :
    Goes pq (execSt2 n rd rs d s) := by
  unfold execSt2
  repeat' (first
    | intro _
    | with_reducible assumption
    | with_reducible apply gynStore_keeps
    | with_reducible apply goes_next
    | with_reducible apply ite_goes
    | with_reducible apply ite_keeps
    | with_reducible apply ite_fst_keeps
    | ((with_reducible show Seq.ok _ = true); assumption)
    | ((with_reducible show Tbl.wf _ _ = true); assumption)
    | ((with_reducible show List.length _ ≤ _); assumption)
    | split
    | dsimp only)

theorem execSt1_goes {pq : List Instr} {s : State} {n : Nat} {rd rs : BitVec 5} {d : BitVec 14} (hk : Keeps pq s) :
    Goes pq (execSt1 n rd rs d s) := by
  unfold execSt1
  repeat' (first
    | intro _
    | with_reducible assumption
    | with_reducible apply gynStore_keeps
    | with_reducible apply goes_next
    | with_reducible apply ite_goes
    | with_reducible apply ite_keeps
    | with_reducible apply ite_fst_keeps
    | ((with_reducible show Seq.ok _ = true); assumption)
    | ((with_reducible show Tbl.wf _ _ = true); assumption)
    | ((with_reducible show List.length _ ≤ _); assumption)
    | split
    | dsimp only)

theorem execHld8_goes {pq : List Instr} {s : State} {n : Nat} {rd rs : BitVec 5} {d : BitVec 14} (hk : Keeps pq s) :
    Goes pq (execHld8 n rd rs d s) := by
  unfold execHld8
  repeat' (first
    | intro _
    | with_reducible assumption
    | with_reducible apply gynHouseLoad_keeps
    | with_reducible apply goes_next
    | with_reducible apply ite_goes
    | with_reducible apply ite_keeps
    | with_reducible apply ite_fst_keeps
    | ((with_reducible show Seq.ok _ = true); assumption)
    | ((with_reducible show Tbl.wf _ _ = true); assumption)
    | ((with_reducible show List.length _ ≤ _); assumption)
    | split
    | dsimp only)

theorem execHst8_goes {pq : List Instr} {s : State} {n : Nat} {rd rs : BitVec 5} {d : BitVec 14} (hk : Keeps pq s) :
    Goes pq (execHst8 n rd rs d s) := by
  unfold execHst8
  repeat' (first
    | intro _
    | with_reducible assumption
    | with_reducible apply gynHouseStore_keeps
    | with_reducible apply goes_next
    | with_reducible apply ite_goes
    | with_reducible apply ite_keeps
    | with_reducible apply ite_fst_keeps
    | ((with_reducible show Seq.ok _ = true); assumption)
    | ((with_reducible show Tbl.wf _ _ = true); assumption)
    | ((with_reducible show List.length _ ≤ _); assumption)
    | split
    | dsimp only)

theorem execHld4_goes {pq : List Instr} {s : State} {n : Nat} {rd rs : BitVec 5} {d : BitVec 14} (hk : Keeps pq s) :
    Goes pq (execHld4 n rd rs d s) := by
  unfold execHld4
  repeat' (first
    | intro _
    | with_reducible assumption
    | with_reducible apply gynHouseLoad_keeps
    | with_reducible apply goes_next
    | with_reducible apply ite_goes
    | with_reducible apply ite_keeps
    | with_reducible apply ite_fst_keeps
    | ((with_reducible show Seq.ok _ = true); assumption)
    | ((with_reducible show Tbl.wf _ _ = true); assumption)
    | ((with_reducible show List.length _ ≤ _); assumption)
    | split
    | dsimp only)

theorem execHst4_goes {pq : List Instr} {s : State} {n : Nat} {rd rs : BitVec 5} {d : BitVec 14} (hk : Keeps pq s) :
    Goes pq (execHst4 n rd rs d s) := by
  unfold execHst4
  repeat' (first
    | intro _
    | with_reducible assumption
    | with_reducible apply gynHouseStore_keeps
    | with_reducible apply goes_next
    | with_reducible apply ite_goes
    | with_reducible apply ite_keeps
    | with_reducible apply ite_fst_keeps
    | ((with_reducible show Seq.ok _ = true); assumption)
    | ((with_reducible show Tbl.wf _ _ = true); assumption)
    | ((with_reducible show List.length _ ≤ _); assumption)
    | split
    | dsimp only)

theorem execGo_goes {pq : List Instr} {s : State} {n : Nat} {d : BitVec 24} (hk : Keeps pq s) :
    Goes pq (execGo n d s) := by
  unfold execGo
  repeat' (first
    | intro _
    | with_reducible assumption
    | with_reducible apply gyn_keeps
    | with_reducible apply gynGoto_keeps
    | with_reducible apply goes_next
    | with_reducible apply ite_goes
    | with_reducible apply ite_keeps
    | with_reducible apply ite_fst_keeps
    | ((with_reducible show Seq.ok _ = true); assumption)
    | ((with_reducible show Tbl.wf _ _ = true); assumption)
    | ((with_reducible show List.length _ ≤ _); assumption)
    | split
    | dsimp only)

theorem execGot_goes {pq : List Instr} {s : State} {n : Nat} {d : BitVec 24} (hk : Keeps pq s) :
    Goes pq (execGot n d s) := by
  unfold execGot
  repeat' (first
    | intro _
    | with_reducible assumption
    | with_reducible apply gyn_keeps
    | with_reducible apply gynGoto_keeps
    | with_reducible apply pcNext_keeps
    | with_reducible apply goes_next
    | with_reducible apply ite_goes
    | with_reducible apply ite_keeps
    | with_reducible apply ite_fst_keeps
    | ((with_reducible show Seq.ok _ = true); assumption)
    | ((with_reducible show Tbl.wf _ _ = true); assumption)
    | ((with_reducible show List.length _ ≤ _); assumption)
    | split
    | dsimp only)

theorem execGof_goes {pq : List Instr} {s : State} {n : Nat} {d : BitVec 24} (hk : Keeps pq s) :
    Goes pq (execGof n d s) := by
  unfold execGof
  repeat' (first
    | intro _
    | with_reducible assumption
    | with_reducible apply gyn_keeps
    | with_reducible apply gynGoto_keeps
    | with_reducible apply pcNext_keeps
    | with_reducible apply goes_next
    | with_reducible apply ite_goes
    | with_reducible apply ite_keeps
    | with_reducible apply ite_fst_keeps
    | ((with_reducible show Seq.ok _ = true); assumption)
    | ((with_reducible show Tbl.wf _ _ = true); assumption)
    | ((with_reducible show List.length _ ≤ _); assumption)
    | split
    | dsimp only)

theorem execCall_goes {pq : List Instr} {s : State} {n : Nat} {d : BitVec 24} (hk : Keeps pq s) :
    Goes pq (execCall n d s) := by
  unfold execCall
  repeat' (first
    | intro _
    | with_reducible assumption
    | with_reducible apply gyn_keeps
    | with_reducible apply gynCallTo_keeps
    | with_reducible apply goes_next
    | with_reducible apply ite_goes
    | with_reducible apply ite_keeps
    | with_reducible apply ite_fst_keeps
    | ((with_reducible show Seq.ok _ = true); assumption)
    | ((with_reducible show Tbl.wf _ _ = true); assumption)
    | ((with_reducible show List.length _ ≤ _); assumption)
    | split
    | dsimp only)

theorem execGor_goes {pq : List Instr} {s : State} {n : Nat} {rd rs : BitVec 5} {pad : BitVec 14} (hk : Keeps pq s) :
    Goes pq (execGor n rd rs pad s) := by
  unfold execGor
  repeat' (first
    | intro _
    | with_reducible assumption
    | with_reducible apply gyn_keeps
    | with_reducible apply gynGoto_keeps
    | with_reducible apply trap_keeps
    | with_reducible apply goes_next
    | with_reducible apply ite_goes
    | with_reducible apply ite_keeps
    | with_reducible apply ite_fst_keeps
    | ((with_reducible show Seq.ok _ = true); assumption)
    | ((with_reducible show Tbl.wf _ _ = true); assumption)
    | ((with_reducible show List.length _ ≤ _); assumption)
    | split
    | dsimp only)

theorem execCallr_goes {pq : List Instr} {s : State} {n : Nat} {rd rs : BitVec 5} {pad : BitVec 14} (hk : Keeps pq s) :
    Goes pq (execCallr n rd rs pad s) := by
  unfold execCallr
  repeat' (first
    | intro _
    | with_reducible assumption
    | with_reducible apply gyn_keeps
    | with_reducible apply gynCallTo_keeps
    | with_reducible apply trap_keeps
    | with_reducible apply goes_next
    | with_reducible apply ite_goes
    | with_reducible apply ite_keeps
    | with_reducible apply ite_fst_keeps
    | ((with_reducible show Seq.ok _ = true); assumption)
    | ((with_reducible show Tbl.wf _ _ = true); assumption)
    | ((with_reducible show List.length _ ≤ _); assumption)
    | split
    | dsimp only)

theorem execRet_goes {pq : List Instr} {s : State} {n : Nat} {rd rs : BitVec 5} {pad : BitVec 14} (hk : Keeps pq s) : Goes pq (execRet n rd rs pad s) := by
  refine goes_next (gyn_keeps hk fun t ht => ?_)
  split
  · exact trap_keeps ht
  · rename_i a r hr
    refine modSeq_at_keeps ht fun hq => ?_
    obtain ⟨h1, h2, h3, h4⟩ := ok_parts.1 hq
    refine ok_parts.2 ⟨?_, h2, h3, h4⟩
    rw [hr, List.length_cons] at h1
    show r.length ≤ 8
    omega

theorem execPost_goes {pq : List Instr} {s : State} {n : Nat} {rd rs : BitVec 5} {pad : BitVec 14} (hk : Keeps pq s) :
    Goes pq (execPost n rd rs pad s) := by
  unfold execPost
  repeat' (first
    | intro _
    | with_reducible assumption
    | with_reducible apply gyn_keeps
    | with_reducible apply pcNext_keeps
    | with_reducible apply raise_keeps
    | with_reducible apply goes_next
    | with_reducible apply ite_goes
    | with_reducible apply ite_keeps
    | with_reducible apply ite_fst_keeps
    | ((with_reducible show Seq.ok _ = true); assumption)
    | ((with_reducible show Tbl.wf _ _ = true); assumption)
    | ((with_reducible show List.length _ ≤ _); assumption)
    | split
    | dsimp only)

theorem execTrap_goes {pq : List Instr} {s : State} {n : Nat} {rd : BitVec 5} {k : BitVec 19} (hk : Keeps pq s) :
    Goes pq (execTrap n rd k s) := by
  unfold execTrap
  repeat' (first
    | intro _
    | with_reducible assumption
    | with_reducible apply gyn_keeps
    | with_reducible apply trap_keeps
    | with_reducible apply goes_next
    | with_reducible apply ite_goes
    | with_reducible apply ite_keeps
    | with_reducible apply ite_fst_keeps
    | ((with_reducible show Seq.ok _ = true); assumption)
    | ((with_reducible show Tbl.wf _ _ = true); assumption)
    | ((with_reducible show List.length _ ≤ _); assumption)
    | split
    | dsimp only)

theorem execRtt_goes {pq : List Instr} {s : State} {n : Nat} {rd rs : BitVec 5} {pad : BitVec 14} (hk : Keeps pq s) :
    Goes pq (execRtt n rd rs pad s) := by
  unfold execRtt
  repeat' (first
    | intro _
    | with_reducible assumption
    | with_reducible apply gyn_keeps
    | with_reducible apply returnFromTrap_keeps
    | with_reducible apply goes_next
    | with_reducible apply ite_goes
    | with_reducible apply ite_keeps
    | with_reducible apply ite_fst_keeps
    | ((with_reducible show Seq.ok _ = true); assumption)
    | ((with_reducible show Tbl.wf _ _ = true); assumption)
    | ((with_reducible show List.length _ ≤ _); assumption)
    | split
    | dsimp only)

theorem execTime_goes {pq : List Instr} {s : State} {n : Nat} {rd rs : BitVec 5} {pad : BitVec 14} (hk : Keeps pq s) :
    Goes pq (execTime n rd rs pad s) := by
  unfold execTime
  repeat' (first
    | intro _
    | with_reducible assumption
    | with_reducible apply gyn_keeps
    | with_reducible apply setNext_keeps
    | with_reducible apply goes_next
    | with_reducible apply ite_goes
    | with_reducible apply ite_keeps
    | with_reducible apply ite_fst_keeps
    | ((with_reducible show Seq.ok _ = true); assumption)
    | ((with_reducible show Tbl.wf _ _ = true); assumption)
    | ((with_reducible show List.length _ ≤ _); assumption)
    | split
    | dsimp only)

theorem execHsync_goes {pq : List Instr} {s : State} {n : Nat} {rd rs : BitVec 5} {pad : BitVec 14} (hk : Keeps pq s) :
    Goes pq (execHsync n rd rs pad s) := by
  unfold execHsync
  repeat' (first
    | intro _
    | with_reducible assumption
    | with_reducible apply gyn_keeps
    | with_reducible apply pcNext_keeps
    | with_reducible apply goes_next
    | with_reducible apply ite_goes
    | with_reducible apply ite_keeps
    | with_reducible apply ite_fst_keeps
    | ((with_reducible show Seq.ok _ = true); assumption)
    | ((with_reducible show Tbl.wf _ _ = true); assumption)
    | ((with_reducible show List.length _ ≤ _); assumption)
    | split
    | dsimp only)

theorem execRds_goes {pq : List Instr} {s : State} {n : Nat} {rd : BitVec 5} {k : BitVec 19} (hk : Keeps pq s) :
    Goes pq (execRds n rd k s) := by
  unfold execRds
  repeat' (first
    | intro _
    | with_reducible assumption
    | with_reducible apply gyn_keeps
    | with_reducible apply setNext_keeps
    | with_reducible apply goes_next
    | with_reducible apply ite_goes
    | with_reducible apply ite_keeps
    | with_reducible apply ite_fst_keeps
    | ((with_reducible show Seq.ok _ = true); assumption)
    | ((with_reducible show Tbl.wf _ _ = true); assumption)
    | ((with_reducible show List.length _ ≤ _); assumption)
    | split
    | dsimp only)

end Sys2Proof.Machine
end

