-- ==== Sys2Proof/Laws/Gynum.lean ====
section
/-!
SUPPORT. What one sequencer reads after its own update and after another's, and what an instruction boundary does where the instruction is ready.
-/
namespace Sys2Proof.Machine

variable {s : State} {n : Nat}

theorem seqs_sorted (h : s.inv = true) : Tbl.sorted s.seqs = true := (keeps_parts (p := s.pending) ⟨h, rfl⟩).2.1
theorem regs_sorted (h : s.inv = true) : Tbl.sorted s.regs = true := (keeps_parts (p := s.pending) ⟨h, rfl⟩).1

theorem seq_ok_of_inv (h : s.inv = true) (n : Nat) : (s.seq n).ok = true := seq_ok (keeps_parts (p := s.pending) ⟨h, rfl⟩).2.2.1

theorem seq_modSeq_same {f : Seq → Seq} (h : Tbl.sorted s.seqs = true) : (s.modSeq n f).seq n = f (s.seq n) :=
  Tbl.getD_setD_same _ _ _ _

theorem seq_modSeq_other {m : Nat} {f : Seq → Seq} (h : m ≠ n) : (s.modSeq n f).seq m = s.seq m := Tbl.getD_setD_other _ _ _ _ h

theorem modSeq_sorted {f : Seq → Seq} (h : Tbl.sorted s.seqs = true) : Tbl.sorted (s.modSeq n f).seqs = true := Tbl.sorted_setD _ _ _ _ h

theorem onlySeq_modSeq {f : Seq → Seq} : OnlySeq s (s.modSeq n f) n := ⟨rfl, fun _ h => seq_modSeq_other h⟩

theorem onlySeq_trans {t u : State} (h1 : OnlySeq s t n) (h2 : OnlySeq t u n) : OnlySeq s u n := by
  obtain ⟨e1, k1⟩ := h1
  obtain ⟨e2, k2⟩ := h2
  refine ⟨?_, fun m hm => (k2 m hm).trans (k1 m hm)⟩
  rw [e2, e1]

/-- An instruction that is ready runs. -/
theorem gyn_ready {w : Nat} {body : State → State} (h : Ready s n w) : gyn n w s body = body (s.modSeq n fun q => { q with state := 1 }) := by
  obtain ⟨h1, h2, h3, h4, h5, h6, h7⟩ := h
  unfold gyn
  have hs : (!(decide (n ≤ 64) && (decide ((s.seq n).state = 1) || decide ((s.seq n).state = 3)))) = false := by
    rcases h2 with h2 | h2 <;> simp [h1, h2]
  rw [if_neg (by simpa using hs)]
  subst h7
  rcases h3 with h3 | h3
  · rw [h3]
    simp only [h4, h5, h6, Bool.not_true, Bool.false_eq_true, if_false, if_true]
  · rw [h3]
    cases (s.seq n).limitPend <;> simp only [h4, h5, h6, Bool.not_true, Bool.false_eq_true, if_false, if_true]

/-- What a sequencer reads of its registers after a write. -/
theorem reg_setReg {q : Seq} (h : Tbl.wf 0 q.g = true) (i r : Nat) (v : U64) : (q.setReg i v).reg r = if r = i ∧ r ≠ 0 then v else q.reg r := by
  unfold Seq.setReg
  by_cases hi : i = 0
  · rw [if_pos hi, if_neg (by omega)]
  · rw [if_neg hi]
    unfold Seq.reg
    by_cases hr : r = 0
    · rw [if_pos hr, if_pos hr, if_neg (by omega)]
    · rw [if_neg hr, if_neg hr]
      by_cases e : r = i
      · subst e
        rw [if_pos ⟨rfl, hr⟩]
        exact Tbl.getD_setD_same _ _ _ _
      · rw [if_neg (by omega)]
        exact Tbl.getD_setD_other _ _ _ _ e

/-- A register takes a value and the program counter moves on. -/
theorem setNext_regStep (h : s.inv = true) (rd : BitVec 5) (v : U64) : RegStep s (setNext (s.modSeq n fun q => { q with state := 1 }) n rd v) n rd v := by
  have h1 := seqs_sorted h
  have h2 := modSeq_sorted (n := n) (f := fun q => { q with state := 1 }) h1
  have h3 := modSeq_sorted (n := n) (f := fun q => q.setReg rd.toNat v) h2
  have hw := (ok_parts.1 (seq_ok_of_inv h n)).2.2.2
  have e : (setNext (s.modSeq n fun q => { q with state := 1 }) n rd v).seq n =
      { ({ s.seq n with state := 1 }.setReg rd.toNat v) with pc := ({ s.seq n with state := 1 }.setReg rd.toNat v).pc + 4 } := by
    unfold setNext pcNext
    rw [seq_modSeq_same h3, seq_modSeq_same h2, seq_modSeq_same h1]
  refine ⟨onlySeq_trans onlySeq_modSeq (onlySeq_trans onlySeq_modSeq onlySeq_modSeq), ?_, fun r => ?_⟩
  · rw [e]
    unfold Seq.setReg
    split <;> rfl
  · rw [e]
    exact reg_setReg (q := { s.seq n with state := 1 }) hw rd.toNat r v

/-- The registers do not depend on whether the sequencer stands or runs. -/
theorem reg_running (h : Tbl.sorted s.seqs = true) (r : Nat) : ((s.modSeq n fun q => { q with state := 1 }).seq n).reg r = (s.seq n).reg r := by
  rw [seq_modSeq_same h]
  rfl

theorem seq_running_ram (h : Tbl.sorted s.seqs = true) (m : Nat) : ((s.modSeq n fun q => { q with state := 1 }).seq m).ram = (s.seq m).ram := by
  by_cases e : m = n
  · subst e
    rw [seq_modSeq_same h]
  · rw [seq_modSeq_other e]

theorem seq_running_bad (h : Tbl.sorted s.seqs = true) (m : Nat) : ((s.modSeq n fun q => { q with state := 1 }).seq m).bad = (s.seq m).bad := by
  by_cases e : m = n
  · subst e
    rw [seq_modSeq_same h]
  · rw [seq_modSeq_other e]

theorem closetWindow_modSeq (f : Seq → Seq) (b len : Nat) : closetWindow (s.modSeq n f) b len = closetWindow s b len := rfl
theorem bootWindow_modSeq (f : Seq → Seq) (b len : Nat) : bootWindow (s.modSeq n f) b len = bootWindow s b len := rfl

theorem readHome_running (h : Tbl.sorted s.seqs = true) (p : Nat × Nat) (len : Nat) :
    readHome (s.modSeq n fun q => { q with state := 1 }) p len = readHome s p len := by
  obtain ⟨m, b⟩ := p
  unfold readHome
  simp only [seq_running_ram h, closetWindow_modSeq, bootWindow_modSeq]

theorem badHome_running (h : Tbl.sorted s.seqs = true) (p : Nat × Nat) : badHome (s.modSeq n fun q => { q with state := 1 }) p = badHome s p := by
  obtain ⟨m, b⟩ := p
  unfold badHome
  simp only [seq_running_bad h]

/-- The local memory and its marks do not depend on whether a sequencer stands or runs. -/
theorem localRead_running (h : Tbl.sorted s.seqs = true) (m a len : Nat) :
    localRead (s.modSeq n fun q => { q with state := 1 }) m a len = localRead s m a len := readHome_running h _ _

theorem localBad_running (h : Tbl.sorted s.seqs = true) (m a : Nat) :
    localBad (s.modSeq n fun q => { q with state := 1 }) m a = localBad s m a := badHome_running h _

/-- One byte of a memory after a write of `len` bytes at `a`. -/
theorem getD_writeBytes (t : Tbl Byte) (h : Tbl.sorted t = true) (a len v b : Nat) : Tbl.getD (Tbl.writeBytes t 0 a len v) b 0 =
    if a ≤ b ∧ b < a + len then BitVec.ofNat 8 (v / 256 ^ (b - a)) else Tbl.getD t b 0 := by
  induction len generalizing t a v with
  | zero => simp [Tbl.writeBytes]
  | succ k ih =>
    unfold Tbl.writeBytes
    rw [ih _ (Tbl.sorted_setD _ _ _ _ h)]
    by_cases e : b = a
    · subst e
      simp [Tbl.getD_setD_same _ _ _ _]
    · rw [Tbl.getD_setD_other _ _ _ _ e]
      by_cases hc : a + 1 ≤ b ∧ b < a + 1 + k
      · rw [if_pos hc, if_pos (by omega)]
        obtain ⟨j, hj⟩ : ∃ j, b - a = j + 1 := ⟨b - a - 1, by omega⟩
        have hk : b - (a + 1) = j := by omega
        rw [hj, hk, Nat.div_div_eq_div_mul, pow_succ, Nat.mul_comm]
      · rw [if_neg hc, if_neg (by omega)]

/-- A trap taken outside a handler. -/
theorem trap_trapped (h : s.inv = true) (hq : (s.seq n).inTrap = false) (c b e : Nat) :
    Trapped s (trap (s.modSeq n fun q => { q with state := 1 }) n c b e) n c b e := by
  have h1 := seqs_sorted h
  have h2 := modSeq_sorted (n := n) (f := fun q => { q with state := 1 }) h1
  have hv : trapVector (s.modSeq n fun q => { q with state := 1 }) n = trapVector s n := rfl
  have hq' : ((s.modSeq n fun q => { q with state := 1 }).seq n).inTrap = false := by rw [seq_modSeq_same h1]; exact hq
  unfold trap
  simp only [hq', Bool.false_eq_true, if_false]
  refine ⟨onlySeq_trans onlySeq_modSeq onlySeq_modSeq, ?_⟩
  rw [seq_modSeq_same h2, seq_modSeq_same h1, hv]
  rfl

end Sys2Proof.Machine
end

