-- ==== Sys2Proof/Laws/KeepMedia.lean ====
section
/-!
SUPPORT. The invariant under the operations and commands of Media: each keeps it and the queue (Keeps); a command answers a next state (Goes).
-/
set_option linter.unusedTactic false
set_option linter.unreachableTactic false
set_option linter.unusedVariables false
namespace Sys2Proof.Machine

theorem execWait_goes {pq : List Instr} {s : State} {n : Nat} {rd rs : BitVec 5} {k : BitVec 14} (hk : Keeps pq s) : Goes pq (execWait n rd rs k s) := by
  refine goes_next (gyn_keeps hk fun t ht => ?_)
  refine ite_keeps (enterNonop_keeps (modSeq_keeps (pcNext_keeps ht) fun _ hq => hq)) ?_
  split
  · rename_i e rest he
    refine modSeq_keeps (setNext_keeps ht) fun q hq => refill_ok ?_
    have hl := takeFirst_length he
    obtain ⟨_, h2, _, _⟩ := ok_parts.1 (seq_ok (n := n) (keeps_parts ht).2.2.1)
    obtain ⟨k1, k2, k3, k4⟩ := ok_parts.1 hq
    refine ok_parts.2 ⟨k1, ?_, k3, k4⟩
    show rest.length ≤ 64
    omega
  · exact modSeq_keeps (pcNext_keeps ht) fun _ hq => hq

theorem execWaitTimeout_goes {pq : List Instr} {s : State} {n : Nat} (hk : Keeps pq s) :
    Goes pq (execWaitTimeout n s) := by
  unfold execWaitTimeout
  repeat' (first
    | intro _
    | with_reducible assumption
    | with_reducible apply modSeq_keeps
    | with_reducible apply goes_next
    | with_reducible apply ite_goes
    | with_reducible apply setReg_ok
    | with_reducible apply refill_ok
    | with_reducible apply deliver_ok
    | with_reducible apply ite_keeps
    | with_reducible apply ite_fst_keeps
    | ((with_reducible show Seq.ok _ = true); assumption)
    | ((with_reducible show Tbl.wf _ _ = true); assumption)
    | ((with_reducible show List.length _ ≤ _); assumption)
    | refine ok_mem (by assumption) (by first | exact Or.inl rfl | exact Or.inr rfl) (by rfl) ?_ ?_
    | with_reducible apply Tbl.wf_writeBytes
    | with_reducible apply Tbl.wf_setD
    | with_reducible apply Tbl.wf_filter
    | with_reducible apply Tbl.wf_foldl
    | exact Tbl.wf_nil _
    | split
    | dsimp only)

theorem execMissue_goes {pq : List Instr} {s : State} {n : Nat} {rd rs : BitVec 5} {pad : BitVec 14} (hk : Keeps pq s) :
    Goes pq (execMissue n rd rs pad s) := by
  unfold execMissue
  repeat' (first
    | intro _
    | with_reducible assumption
    | with_reducible apply endDesc_keeps
    | with_reducible apply gyn_keeps
    | with_reducible apply modPort_keeps
    | with_reducible apply modSeq_keeps
    | with_reducible apply setDescState_keeps
    | with_reducible apply setNext_keeps
    | with_reducible apply trap_keeps
    | with_reducible apply goes_next
    | with_reducible apply ite_goes
    | with_reducible apply setReg_ok
    | with_reducible apply refill_ok
    | with_reducible apply deliver_ok
    | with_reducible apply ite_keeps
    | with_reducible apply ite_fst_keeps
    | ((with_reducible show Seq.ok _ = true); assumption)
    | ((with_reducible show Tbl.wf _ _ = true); assumption)
    | ((with_reducible show List.length _ ≤ _); assumption)
    | refine ok_mem (by assumption) (by first | exact Or.inl rfl | exact Or.inr rfl) (by rfl) ?_ ?_
    | with_reducible apply Tbl.wf_writeBytes
    | with_reducible apply Tbl.wf_setD
    | with_reducible apply Tbl.wf_filter
    | with_reducible apply Tbl.wf_foldl
    | exact Tbl.wf_nil _
    | split
    | dsimp only)

theorem execMctl_goes {pq : List Instr} {s : State} {n : Nat} {rd rs : BitVec 5} {pad : BitVec 14} (hk : Keeps pq s) :
    Goes pq (execMctl n rd rs pad s) := by
  unfold execMctl
  repeat' (first
    | intro _
    | with_reducible assumption
    | with_reducible apply gyn_keeps
    | with_reducible apply modPort_keeps
    | with_reducible apply modSeq_keeps
    | with_reducible apply setNext_keeps
    | with_reducible apply trap_keeps
    | with_reducible apply goes_next
    | with_reducible apply ite_goes
    | with_reducible apply setReg_ok
    | with_reducible apply refill_ok
    | with_reducible apply deliver_ok
    | with_reducible apply ite_keeps
    | with_reducible apply ite_fst_keeps
    | ((with_reducible show Seq.ok _ = true); assumption)
    | ((with_reducible show Tbl.wf _ _ = true); assumption)
    | ((with_reducible show List.length _ ≤ _); assumption)
    | refine ok_mem (by assumption) (by first | exact Or.inl rfl | exact Or.inr rfl) (by rfl) ?_ ?_
    | with_reducible apply Tbl.wf_writeBytes
    | with_reducible apply Tbl.wf_setD
    | with_reducible apply Tbl.wf_filter
    | with_reducible apply Tbl.wf_foldl
    | exact Tbl.wf_nil _
    | split
    | dsimp only)

theorem execOdone_goes {pq : List Instr} {s : State} {n : Nat} {rd rs : BitVec 5} {pad : BitVec 14} (hk : Keeps pq s) :
    Goes pq (execOdone n rd rs pad s) := by
  unfold execOdone
  repeat' (first
    | intro _
    | with_reducible assumption
    | with_reducible apply gyn_keeps
    | with_reducible apply opOutcome_keeps
    | with_reducible apply pcNext_keeps
    | with_reducible apply releaseDesc_keeps
    | with_reducible apply trap_keeps
    | with_reducible apply goes_next
    | with_reducible apply ite_goes
    | with_reducible apply ite_keeps
    | with_reducible apply ite_fst_keeps
    | ((with_reducible show Seq.ok _ = true); assumption)
    | ((with_reducible show Tbl.wf _ _ = true); assumption)
    | ((with_reducible show List.length _ ≤ _); assumption)
    | split
    | dsimp only)

theorem execOpLimitExpiry_goes {pq : List Instr} {s : State} {n i : Nat} (hk : Keeps pq s) :
    Goes pq (execOpLimitExpiry n i s) := by
  unfold execOpLimitExpiry
  repeat' (first
    | intro _
    | with_reducible assumption
    | with_reducible apply modSeq_keeps
    | with_reducible apply trap_keeps
    | with_reducible apply goes_next
    | with_reducible apply ite_goes
    | with_reducible apply setReg_ok
    | with_reducible apply refill_ok
    | with_reducible apply deliver_ok
    | with_reducible apply ite_keeps
    | with_reducible apply ite_fst_keeps
    | ((with_reducible show Seq.ok _ = true); assumption)
    | ((with_reducible show Tbl.wf _ _ = true); assumption)
    | ((with_reducible show List.length _ ≤ _); assumption)
    | refine ok_mem (by assumption) (by first | exact Or.inl rfl | exact Or.inr rfl) (by rfl) ?_ ?_
    | with_reducible apply Tbl.wf_writeBytes
    | with_reducible apply Tbl.wf_setD
    | with_reducible apply Tbl.wf_filter
    | with_reducible apply Tbl.wf_foldl
    | exact Tbl.wf_nil _
    | split
    | dsimp only)

theorem execWatchdogFirstExpiry_goes {pq : List Instr} {s : State}  (hk : Keeps pq s) :
    Goes pq (execWatchdogFirstExpiry s) := by
  unfold execWatchdogFirstExpiry
  repeat' (first
    | intro _
    | with_reducible assumption
    | with_reducible apply raise_keeps
    | with_reducible apply set1_keeps
    | with_reducible apply goes_next
    | with_reducible apply ite_goes
    | with_reducible apply ite_keeps
    | with_reducible apply ite_fst_keeps
    | ((with_reducible show Seq.ok _ = true); assumption)
    | ((with_reducible show Tbl.wf _ _ = true); assumption)
    | ((with_reducible show List.length _ ≤ _); assumption)
    | split
    | dsimp only)

theorem execWatchdogReset_goes {pq : List Instr} {s : State}  (hk : Keeps pq s) :
    Goes pq (execWatchdogReset s) := by
  unfold execWatchdogReset
  repeat' (first
    | intro _
    | with_reducible assumption
    | with_reducible apply watchdogReset_keeps
    | with_reducible apply goes_next
    | with_reducible apply ite_goes
    | with_reducible apply ite_keeps
    | with_reducible apply ite_fst_keeps
    | ((with_reducible show Seq.ok _ = true); assumption)
    | ((with_reducible show Tbl.wf _ _ = true); assumption)
    | ((with_reducible show List.length _ ≤ _); assumption)
    | split
    | dsimp only)

end Sys2Proof.Machine
end

