-- ==== Sys2Proof/Laws/KeepFabric.lean ====
section
/-!
SUPPORT. The invariant under the operations and commands of Fabric: each keeps it and the queue (Keeps); a command answers a next state (Goes).
-/
set_option linter.unusedTactic false
set_option linter.unreachableTactic false
set_option linter.unusedVariables false
namespace Sys2Proof.Machine

theorem execOutputLinkArbitration_goes {pq : List Instr} {s : State} {link : Nat} {ctl : List Nat} {data : List (Nat × Nat)} (hk : Keeps pq s) :
    Goes pq (execOutputLinkArbitration link ctl data s) := by
  unfold execOutputLinkArbitration
  repeat' (first
    | intro _
    | with_reducible assumption
    | with_reducible apply emit_keeps
    | with_reducible apply modFab_keeps
    | with_reducible apply goes_next
    | with_reducible apply ite_goes
    | with_reducible apply ite_keeps
    | with_reducible apply ite_fst_keeps
    | ((with_reducible show Seq.ok _ = true); assumption)
    | ((with_reducible show Tbl.wf _ _ = true); assumption)
    | ((with_reducible show List.length _ ≤ _); assumption)
    | split
    | dsimp only)

theorem execFabricWordArrival_goes {pq : List Instr} {s : State} {link input : Nat} {d : BitVec 256} {t m : BitVec 16} {sill : Bool} (hk : Keeps pq s) :
    Goes pq (execFabricWordArrival link input d t m sill s) := by
  unfold execFabricWordArrival
  repeat' (first
    | intro _
    | with_reducible assumption
    | with_reducible apply deliver_keeps
    | with_reducible apply modFab_keeps
    | with_reducible apply post_keeps
    | with_reducible apply goes_next
    | with_reducible apply ite_goes
    | with_reducible apply ite_keeps
    | with_reducible apply ite_fst_keeps
    | ((with_reducible show Seq.ok _ = true); assumption)
    | ((with_reducible show Tbl.wf _ _ = true); assumption)
    | ((with_reducible show List.length _ ≤ _); assumption)
    | split
    | dsimp only)

theorem execMgmtMessage_goes {pq : List Instr} {s : State} {buf : Nat} (hk : Keeps pq s) :
    Goes pq (execMgmtMessage buf s) := by
  unfold execMgmtMessage
  repeat' (first
    | intro _
    | with_reducible assumption
    | with_reducible apply raise_keeps
    | with_reducible apply wake_keeps
    | with_reducible apply goes_next
    | with_reducible apply ite_goes
    | with_reducible apply ite_keeps
    | with_reducible apply ite_fst_keeps
    | ((with_reducible show Seq.ok _ = true); assumption)
    | ((with_reducible show Tbl.wf _ _ = true); assumption)
    | ((with_reducible show List.length _ ≤ _); assumption)
    | split
    | dsimp only)

theorem execEntdaa_goes {pq : List Instr} {s : State} {addr : Nat} (hk : Keeps pq s) :
    Goes pq (execEntdaa addr s) := by
  unfold execEntdaa
  repeat' (first
    | intro _
    | with_reducible assumption
    | with_reducible apply emit_keeps
    | with_reducible apply modStd_keeps
    | with_reducible apply goes_next
    | with_reducible apply ite_goes
    | with_reducible apply ite_keeps
    | with_reducible apply ite_fst_keeps
    | ((with_reducible show Seq.ok _ = true); assumption)
    | ((with_reducible show Tbl.wf _ _ = true); assumption)
    | ((with_reducible show List.length _ ≤ _); assumption)
    | split
    | dsimp only)

theorem boundaryScan_keeps {pq : List Instr} {s : State} {f : Jtag → Jtag} (hk : Keeps pq s) :
    Keeps pq (boundaryScan s f) := by
  unfold boundaryScan
  repeat' (first
    | intro _
    | with_reducible assumption
    | with_reducible apply modJtag_keeps
    | with_reducible apply ite_keeps
    | with_reducible apply ite_fst_keeps
    | ((with_reducible show Seq.ok _ = true); assumption)
    | ((with_reducible show Tbl.wf _ _ = true); assumption)
    | ((with_reducible show List.length _ ≤ _); assumption)
    | split
    | dsimp only)

theorem execBypass_goes {pq : List Instr} {s : State}  (hk : Keeps pq s) :
    Goes pq (execBypass s) := by
  unfold execBypass
  repeat' (first
    | intro _
    | with_reducible assumption
    | with_reducible apply modJtag_keeps
    | with_reducible apply goes_next
    | with_reducible apply ite_goes
    | with_reducible apply ite_keeps
    | with_reducible apply ite_fst_keeps
    | ((with_reducible show Seq.ok _ = true); assumption)
    | ((with_reducible show Tbl.wf _ _ = true); assumption)
    | ((with_reducible show List.length _ ≤ _); assumption)
    | split
    | dsimp only)

theorem execIdcode_goes {pq : List Instr} {s : State}  (hk : Keeps pq s) :
    Goes pq (execIdcode s) := by
  unfold execIdcode
  repeat' (first
    | intro _
    | with_reducible assumption
    | with_reducible apply emit_keeps
    | with_reducible apply modJtag_keeps
    | with_reducible apply goes_next
    | with_reducible apply ite_goes
    | with_reducible apply ite_keeps
    | with_reducible apply ite_fst_keeps
    | ((with_reducible show Seq.ok _ = true); assumption)
    | ((with_reducible show Tbl.wf _ _ = true); assumption)
    | ((with_reducible show List.length _ ≤ _); assumption)
    | split
    | dsimp only)

theorem execSamplePreload_goes {pq : List Instr} {s : State} {v : Nat} (hk : Keeps pq s) :
    Goes pq (execSamplePreload v s) := by
  unfold execSamplePreload
  repeat' (first
    | intro _
    | with_reducible assumption
    | with_reducible apply boundaryScan_keeps
    | with_reducible apply goes_next
    | with_reducible apply ite_goes
    | with_reducible apply ite_keeps
    | with_reducible apply ite_fst_keeps
    | ((with_reducible show Seq.ok _ = true); assumption)
    | ((with_reducible show Tbl.wf _ _ = true); assumption)
    | ((with_reducible show List.length _ ≤ _); assumption)
    | split
    | dsimp only)

theorem execExtest_goes {pq : List Instr} {s : State}  (hk : Keeps pq s) :
    Goes pq (execExtest s) := by
  unfold execExtest
  repeat' (first
    | intro _
    | with_reducible assumption
    | with_reducible apply boundaryScan_keeps
    | with_reducible apply goes_next
    | with_reducible apply ite_goes
    | with_reducible apply ite_keeps
    | with_reducible apply ite_fst_keeps
    | ((with_reducible show Seq.ok _ = true); assumption)
    | ((with_reducible show Tbl.wf _ _ = true); assumption)
    | ((with_reducible show List.length _ ≤ _); assumption)
    | split
    | dsimp only)

theorem execExtestPulse_goes {pq : List Instr} {s : State}  (hk : Keeps pq s) :
    Goes pq (execExtestPulse s) := by
  unfold execExtestPulse
  repeat' (first
    | intro _
    | with_reducible assumption
    | with_reducible apply boundaryScan_keeps
    | with_reducible apply goes_next
    | with_reducible apply ite_goes
    | with_reducible apply ite_keeps
    | with_reducible apply ite_fst_keeps
    | ((with_reducible show Seq.ok _ = true); assumption)
    | ((with_reducible show Tbl.wf _ _ = true); assumption)
    | ((with_reducible show List.length _ ≤ _); assumption)
    | split
    | dsimp only)

theorem execExtestTrain_goes {pq : List Instr} {s : State}  (hk : Keeps pq s) :
    Goes pq (execExtestTrain s) := by
  unfold execExtestTrain
  repeat' (first
    | intro _
    | with_reducible assumption
    | with_reducible apply boundaryScan_keeps
    | with_reducible apply goes_next
    | with_reducible apply ite_goes
    | with_reducible apply ite_keeps
    | with_reducible apply ite_fst_keeps
    | ((with_reducible show Seq.ok _ = true); assumption)
    | ((with_reducible show Tbl.wf _ _ = true); assumption)
    | ((with_reducible show List.length _ ≤ _); assumption)
    | split
    | dsimp only)

end Sys2Proof.Machine
end

