-- ==== Sys2Proof/Laws/KeepTick.lean ====
section
/-!
SUPPORT. The invariant under the operations and commands of Tick: each keeps it and the queue (Keeps); a command answers a next state (Goes).
-/
set_option linter.unusedTactic false
set_option linter.unreachableTactic false
set_option linter.unusedVariables false
namespace Sys2Proof.Machine

theorem idle_keeps {pq : List Instr} {s : State}  (hk : Keeps pq s) :
    Keeps pq (idle s) := by
  unfold idle
  repeat' (first
    | intro _
    | with_reducible assumption
    | with_reducible apply ltrCheck_keeps
    | with_reducible apply timeTick_keeps
    | with_reducible apply warnCheck_keeps
    | with_reducible apply ite_keeps
    | with_reducible apply ite_fst_keeps
    | ((with_reducible show Seq.ok _ = true); assumption)
    | ((with_reducible show Tbl.wf _ _ = true); assumption)
    | ((with_reducible show List.length _ ≤ _); assumption)
    | split
    | dsimp only)

end Sys2Proof.Machine
end

