-- ==== Sys2Proof/Laws/Parts.lean ====
section
/-!
SUPPORT. Which parts of the state each named update touches. A set of parts is held as a mask, one bit a part, so that inclusion is arithmetic; `Only` of the
statements follows from it (`only_of_mask`). The later files of these laws say the same of every operation and every command.
-/
namespace Sys2Proof.Machine

/-- The place of a part in a mask. -/
def Part.bit : Part → Nat
  | .regs => 0 | .pwr => 1 | .chm => 2 | .atc => 3 | .std => 4 | .clo => 5 | .stg => 6 | .porch => 7 | .hall => 8 | .nvm => 9 | .pan => 10
  | .ldr => 11 | .cel => 12 | .seqs => 13 | .lnd => 14 | .scu => 15 | .bsm => 16 | .sta => 17 | .fab => 18 | .jtag => 19 | .out => 20 | .free => 21

/-- Every part of `a` is one of `b`. -/
abbrev Sub (a b : Nat) : Prop := a &&& b = a

theorem sub_refl (a : Nat) : Sub a a := Nat.and_self a

theorem sub_trans {a b c : Nat} (h1 : a &&& b = a) (h2 : Sub b c) : Sub a c := by
  unfold Sub at *
  rw [← h1, Nat.and_assoc, h2]

theorem sub_bit {a b : Nat} (h : Sub a b) (i : Nat) (hi : a.testBit i = true) : b.testBit i = true := by
  unfold Sub at h
  rw [← h, Nat.testBit_and] at hi
  simp only [Bool.and_eq_true] at hi
  exact hi.2

/-- Nothing outside the mask differs, and the queue is the same. -/
def Mask (m : Nat) (s t : State) : Prop := t.pending = s.pending ∧ ∀ p : Part, m.testBit p.bit = false → p.same s t

/-- A command answers a next state in which nothing outside the mask differs. -/
def Answers (m : Nat) (s : State) (o : Host.Outcome State Fault Refusal) : Prop := ∃ t, o = .next t ∧ Mask m s t

theorem mask_refl (m : Nat) (s : State) : Mask m s s := by
  refine ⟨rfl, fun p _ => ?_⟩
  cases p <;> rfl

theorem mask_trans {m : Nat} {s t u : State} (h1 : Mask m s t) (h2 : Mask m t u) : Mask m s u := by
  refine ⟨h2.1.trans h1.1, fun p hp => ?_⟩
  have a := h1.2 p hp
  have b := h2.2 p hp
  cases p <;> exact Eq.trans b a

theorem mask_mono {a b : Nat} {s t : State} (h : Sub a b) (k : Mask a s t) : Mask b s t := by
  refine ⟨k.1, fun p hp => k.2 p ?_⟩
  cases ha : a.testBit p.bit
  · rfl
  · rw [sub_bit h _ ha] at hp
    cases hp

/-- Every part of the mask is listed. -/
def listed (m : Nat) (l : List Part) : Bool :=
  [Part.regs, .pwr, .chm, .atc, .std, .clo, .stg, .porch, .hall, .nvm, .pan, .ldr, .cel, .seqs, .lnd, .scu, .bsm, .sta, .fab, .jtag, .out, .free].all
    fun p => !m.testBit p.bit || l.contains p

/-- What the statements say follows from a mask. -/
theorem only_of_mask {m : Nat} {l : List Part} {s t : State} (h : Mask m s t) (hl : listed m l = true) : Only l s t := by
  refine ⟨h.1, fun p hp => h.2 p ?_⟩
  unfold listed at hl
  rw [List.all_eq_true] at hl
  have h1 := hl p (by cases p <;> decide)
  cases hm : m.testBit p.bit
  · rfl
  · rw [hm] at h1
    simp only [Bool.not_true, Bool.false_or, List.contains_iff_mem] at h1
    exact absurd h1 hp

/-- The same of a command's answer. -/
theorem only_of_answers {m : Nat} {l : List Part} {s t : State} {o : Host.Outcome State Fault Refusal} (h : Answers m s o) (hl : listed m l = true)
    (e : o = .next t) : Only l s t := by
  obtain ⟨u, e1, e2⟩ := h
  rw [e] at e1
  cases e1
  exact only_of_mask e2 hl

variable {m : Nat} {s0 s : State}

theorem one_bit {i : Nat} {f : State → State} (hm : Sub (2 ^ i) m) (hp : (f s).pending = s.pending)
    (hf : ∀ p : Part, p.bit ≠ i → p.same s (f s)) (h : Mask m s0 s) : Mask m s0 (f s) := by
  refine mask_trans h ⟨hp, fun p hb => hf p fun e => ?_⟩
  subst e
  rw [sub_bit hm _ (Nat.testBit_two_pow_self)] at hb
  cases hb

theorem answers_next {t : State} (h : Mask m s0 t) : Answers m s0 (.next t) := ⟨t, rfl, h⟩

theorem ite_mask {c : Prop} [Decidable c] {a b : State} (ha : Mask m s0 a) (hb : Mask m s0 b) : Mask m s0 (if c then a else b) := by
  split
  · exact ha
  · exact hb

theorem ite_fst_mask {α : Type} {c : Prop} [Decidable c] {a b : State × α} (ha : Mask m s0 a.1) (hb : Mask m s0 b.1) : Mask m s0 (if c then a else b).1 := by
  split
  · exact ha
  · exact hb

theorem fst_mask {α : Type} {x : State × α} {a : State} {b : α} (e : x = (a, b)) (h : Mask m s0 x.1) : Mask m s0 a := by
  rw [e] at h
  exact h

theorem ite_answers {c : Prop} [Decidable c] {a b : Host.Outcome State Fault Refusal} (ha : Answers m s0 a) (hb : Answers m s0 b) :
    Answers m s0 (if c then a else b) := by
  split
  · exact ha
  · exact hb

/-- A state that may be absent. -/
structure MaskO (m : Nat) (s0 : State) (o : Option State) : Prop where
  keep : ∀ t, o = some t → Mask m s0 t

theorem some_maskO {t : State} (h : Mask m s0 t) : MaskO m s0 (some t) := by
  constructor
  intro u e
  cases e
  exact h

theorem none_maskO : MaskO m s0 none := by
  constructor
  intro u e
  cases e

theorem ite_maskO {c : Prop} [Decidable c] {a b : Option State} (ha : MaskO m s0 a) (hb : MaskO m s0 b) : MaskO m s0 (if c then a else b) := by
  split
  · exact ha
  · exact hb

theorem map_maskO {o : Option State} {f : State → State} (h : MaskO m s0 o) (hf : ∀ t, Mask m s0 t → Mask m s0 (f t)) : MaskO m s0 (o.map f) := by
  constructor
  intro u e
  cases o with
  | none => cases e
  | some t =>
    cases e
    exact hf t (h.keep t rfl)

theorem mapOf_maskO {α : Type} {o : Option α} {f : α → State} (hf : ∀ t, Mask m s0 (f t)) : MaskO m s0 (o.map f) := by
  constructor
  intro u e
  cases o with
  | none => cases e
  | some t =>
    cases e
    exact hf t

theorem getD_mask {o : Option State} {d : State} (h : MaskO m s0 o) (hd : Mask m s0 d) : Mask m s0 (o.getD d) := by
  cases o with
  | none => exact hd
  | some t => exact h.keep t rfl

theorem opt_mask {o : Option State} {t : State} (e : o = some t) (h : MaskO m s0 o) : Mask m s0 t := h.keep t e

theorem foldl_mask {α : Type} {l : List α} {f : State → α → State} (h : Mask m s0 s) (hf : ∀ s a, Mask m s0 s → Mask m s0 (f s a)) :
    Mask m s0 (l.foldl f s) := by
  induction l generalizing s with
  | nil => exact h
  | cons a r ih => exact ih (hf s a h)

theorem foldl_fst_mask {α β : Type} {l : List α} {x : State × β} {f : State × β → α → State × β} (h : Mask m s0 x.1)
    (hf : ∀ x a, Mask m s0 x.1 → Mask m s0 (f x a).1) : Mask m s0 (l.foldl f x).1 := by
  induction l generalizing x with
  | nil => exact h
  | cons a r ih => exact ih (hf x a h)

theorem each_mask {α : Type} {l : List α} {f : State → α → State} (h : Mask m s0 s) (hf : ∀ s a, Mask m s0 s → Mask m s0 (f s a)) :
    Mask m s0 (s.each l f) := foldl_mask h hf

theorem when_mask {c : Bool} {f : State → State} (h : Mask m s0 s) (hf : ∀ s, Mask m s0 s → Mask m s0 (f s)) : Mask m s0 (s.when c f) := by
  unfold State.when
  split
  · exact hf s h
  · exact h

theorem after_mask {f : State → Host.Outcome State Fault Refusal} (h : Mask m s0 s) (hf : ∀ s, Mask m s0 s → Answers m s0 (f s)) :
    Mask m s0 (s.after f) := by
  obtain ⟨t, e, ht⟩ := hf s h
  unfold State.after
  rw [e]
  exact ht

theorem modPwr_mask {f : Power → Power} (hm : Sub 2 m) (h : Mask m s0 s) : Mask m s0 (s.modPwr f) := by
  refine one_bit (i := 1) (f := fun s => s.modPwr f) hm rfl (fun p hp => ?_) h
  cases p
  all_goals first
    | rfl
    | exact absurd rfl hp
theorem modChm_mask {f : Chimney → Chimney} (hm : Sub 4 m) (h : Mask m s0 s) : Mask m s0 (s.modChm f) := by
  refine one_bit (i := 2) (f := fun s => s.modChm f) hm rfl (fun p hp => ?_) h
  cases p
  all_goals first
    | rfl
    | exact absurd rfl hp
theorem modAtc_mask {f : Attic → Attic} (hm : Sub 8 m) (h : Mask m s0 s) : Mask m s0 (s.modAtc f) := by
  refine one_bit (i := 3) (f := fun s => s.modAtc f) hm rfl (fun p hp => ?_) h
  cases p
  all_goals first
    | rfl
    | exact absurd rfl hp
theorem modStd_mask {f : Study → Study} (hm : Sub 16 m) (h : Mask m s0 s) : Mask m s0 (s.modStd f) := by
  refine one_bit (i := 4) (f := fun s => s.modStd f) hm rfl (fun p hp => ?_) h
  cases p
  all_goals first
    | rfl
    | exact absurd rfl hp
theorem modPorch_mask {f : Porch → Porch} (hm : Sub 128 m) (h : Mask m s0 s) : Mask m s0 (s.modPorch f) := by
  refine one_bit (i := 7) (f := fun s => s.modPorch f) hm rfl (fun p hp => ?_) h
  cases p
  all_goals first
    | rfl
    | exact absurd rfl hp
theorem modHall_mask {f : Hall → Hall} (hm : Sub 256 m) (h : Mask m s0 s) : Mask m s0 (s.modHall f) := by
  refine one_bit (i := 8) (f := fun s => s.modHall f) hm rfl (fun p hp => ?_) h
  cases p
  all_goals first
    | rfl
    | exact absurd rfl hp
theorem modNvm_mask {f : Nvm → Nvm} (hm : Sub 512 m) (h : Mask m s0 s) : Mask m s0 (s.modNvm f) := by
  refine one_bit (i := 9) (f := fun s => s.modNvm f) hm rfl (fun p hp => ?_) h
  cases p
  all_goals first
    | rfl
    | exact absurd rfl hp
theorem modPan_mask {f : Pantry → Pantry} (hm : Sub 1024 m) (h : Mask m s0 s) : Mask m s0 (s.modPan f) := by
  refine one_bit (i := 10) (f := fun s => s.modPan f) hm rfl (fun p hp => ?_) h
  cases p
  all_goals first
    | rfl
    | exact absurd rfl hp
theorem modLdr_mask {f : Larder → Larder} (hm : Sub 2048 m) (h : Mask m s0 s) : Mask m s0 (s.modLdr f) := by
  refine one_bit (i := 11) (f := fun s => s.modLdr f) hm rfl (fun p hp => ?_) h
  cases p
  all_goals first
    | rfl
    | exact absurd rfl hp
theorem modCel_mask {f : Cellar → Cellar} (hm : Sub 4096 m) (h : Mask m s0 s) : Mask m s0 (s.modCel f) := by
  refine one_bit (i := 12) (f := fun s => s.modCel f) hm rfl (fun p hp => ?_) h
  cases p
  all_goals first
    | rfl
    | exact absurd rfl hp
theorem modLnd_mask {f : Laundry → Laundry} (hm : Sub 16384 m) (h : Mask m s0 s) : Mask m s0 (s.modLnd f) := by
  refine one_bit (i := 14) (f := fun s => s.modLnd f) hm rfl (fun p hp => ?_) h
  cases p
  all_goals first
    | rfl
    | exact absurd rfl hp
theorem modScu_mask {f : Scullery → Scullery} (hm : Sub 32768 m) (h : Mask m s0 s) : Mask m s0 (s.modScu f) := by
  refine one_bit (i := 15) (f := fun s => s.modScu f) hm rfl (fun p hp => ?_) h
  cases p
  all_goals first
    | rfl
    | exact absurd rfl hp
theorem modBsm_mask {f : Basement → Basement} (hm : Sub 65536 m) (h : Mask m s0 s) : Mask m s0 (s.modBsm f) := by
  refine one_bit (i := 16) (f := fun s => s.modBsm f) hm rfl (fun p hp => ?_) h
  cases p
  all_goals first
    | rfl
    | exact absurd rfl hp
theorem modStg_mask {f : Strongroom → Strongroom} (hm : Sub 64 m) (h : Mask m s0 s) : Mask m s0 (s.modStg f) := by
  refine one_bit (i := 6) (f := fun s => s.modStg f) hm rfl (fun p hp => ?_) h
  cases p
  all_goals first
    | rfl
    | exact absurd rfl hp
theorem modClo_mask {f : Closet → Closet} (hm : Sub 32 m) (h : Mask m s0 s) : Mask m s0 (s.modClo f) := by
  refine one_bit (i := 5) (f := fun s => s.modClo f) hm rfl (fun p hp => ?_) h
  cases p
  all_goals first
    | rfl
    | exact absurd rfl hp
theorem modSta_mask {f : Stair → Stair} (hm : Sub 131072 m) (h : Mask m s0 s) : Mask m s0 (s.modSta f) := by
  refine one_bit (i := 17) (f := fun s => s.modSta f) hm rfl (fun p hp => ?_) h
  cases p
  all_goals first
    | rfl
    | exact absurd rfl hp
theorem modFab_mask {f : Fabric → Fabric} (hm : Sub 262144 m) (h : Mask m s0 s) : Mask m s0 (s.modFab f) := by
  refine one_bit (i := 18) (f := fun s => s.modFab f) hm rfl (fun p hp => ?_) h
  cases p
  all_goals first
    | rfl
    | exact absurd rfl hp
theorem modJtag_mask {f : Jtag → Jtag} (hm : Sub 524288 m) (h : Mask m s0 s) : Mask m s0 (s.modJtag f) := by
  refine one_bit (i := 19) (f := fun s => s.modJtag f) hm rfl (fun p hp => ?_) h
  cases p
  all_goals first
    | rfl
    | exact absurd rfl hp
theorem wr_mask {f : Fld} {v : Nat} (hm : Sub 1 m) (h : Mask m s0 s) : Mask m s0 (s.wr f v) := by
  refine one_bit (i := 0) (f := fun s => s.wr f v) hm rfl (fun p hp => ?_) h
  cases p
  all_goals first
    | rfl
    | exact absurd rfl hp
theorem set1_mask {f : Fld} (hm : Sub 1 m) (h : Mask m s0 s) : Mask m s0 (s.set1 f) := by
  refine one_bit (i := 0) (f := fun s => s.set1 f) hm rfl (fun p hp => ?_) h
  cases p
  all_goals first
    | rfl
    | exact absurd rfl hp
theorem clr1_mask {f : Fld} (hm : Sub 1 m) (h : Mask m s0 s) : Mask m s0 (s.clr1 f) := by
  refine one_bit (i := 0) (f := fun s => s.clr1 f) hm rfl (fun p hp => ?_) h
  cases p
  all_goals first
    | rfl
    | exact absurd rfl hp
theorem bump_mask {f : Fld} {k : Nat} (hm : Sub 1 m) (h : Mask m s0 s) : Mask m s0 (s.bump f k) := by
  refine one_bit (i := 0) (f := fun s => s.bump f k) hm rfl (fun p hp => ?_) h
  cases p
  all_goals first
    | rfl
    | exact absurd rfl hp
theorem modSeq_mask {n : Nat} {f : Seq → Seq} (hm : Sub 8192 m) (h : Mask m s0 s) : Mask m s0 (s.modSeq n f) := by
  refine one_bit (i := 13) (f := fun s => s.modSeq n f) hm rfl (fun p hp => ?_) h
  cases p
  all_goals first
    | rfl
    | exact absurd rfl hp
theorem emit_mask {o : Out} (hm : Sub 1048576 m) (h : Mask m s0 s) : Mask m s0 (s.emit o) := by
  refine one_bit (i := 20) (f := fun s => s.emit o) hm rfl (fun p hp => ?_) h
  cases p
  all_goals first
    | rfl
    | exact absurd rfl hp
theorem tick_mask  (hm : Sub 2097152 m) (h : Mask m s0 s) : Mask m s0 (s.tick) := by
  refine one_bit (i := 21) (f := fun s => s.tick) hm rfl (fun p hp => ?_) h
  cases p
  all_goals first
    | rfl
    | exact absurd rfl hp
theorem ticks_mask {n : Nat} (hm : Sub 2097152 m) (h : Mask m s0 s) : Mask m s0 (s.ticks n) := by
  refine one_bit (i := 21) (f := fun s => s.ticks n) hm rfl (fun p hp => ?_) h
  cases p
  all_goals first
    | rfl
    | exact absurd rfl hp

end Sys2Proof.Machine
end

