-- ==== Sys2Proof/Laws/PartsOps.lean ====
section
/-!
SUPPORT. Which parts of the state the operations and commands of Ops touch.
-/
set_option linter.unusedTactic false
set_option linter.unreachableTactic false
set_option linter.unusedVariables false
namespace Sys2Proof.Machine

theorem raise_mask {m : Nat} {s0 s : State} {n : Nat} {e : U64} (hm : Sub 8192 m) (hk : Mask m s0 s) :
    Mask m s0 (raise s n e) := by
  unfold raise
  repeat' (first
    | intro _
    | with_reducible assumption
    | with_reducible refine modSeq_mask (sub_trans (by decide) hm) ?_
    | with_reducible apply ite_mask
    | with_reducible apply ite_fst_mask
    | split
    | dsimp only)

theorem appendRec_mask {m : Nat} {s0 s : State} {r : AtticRec} (hm : Sub 8 m) (hk : Mask m s0 s) :
    Mask m s0 (appendRec s r) := by
  unfold appendRec
  repeat' (first
    | intro _
    | with_reducible assumption
    | with_reducible refine modAtc_mask (sub_trans (by decide) hm) ?_
    | with_reducible apply ite_mask
    | with_reducible apply ite_fst_mask
    | split
    | dsimp only)

theorem post_mask {m : Nat} {s0 s : State} {code sev src : Nat} {origin : Nat} {p0 p1 p2 p3 : Nat} (hm : Sub 8 m) (hk : Mask m s0 s) :
    Mask m s0 (post s code sev src origin p0 p1 p2 p3) := by
  unfold post
  repeat' (first
    | intro _
    | with_reducible assumption
    | with_reducible refine appendRec_mask (sub_trans (by decide) hm) ?_
    | with_reducible refine modAtc_mask (sub_trans (by decide) hm) ?_
    | with_reducible apply ite_mask
    | with_reducible apply ite_fst_mask
    | split
    | dsimp only)

theorem trap_mask {m : Nat} {s0 s : State} {n cause badaddr epc : Nat} (hm : Sub 8201 m) (hk : Mask m s0 s) :
    Mask m s0 (trap s n cause badaddr epc) := by
  unfold trap
  repeat' (first
    | intro _
    | with_reducible assumption
    | with_reducible refine modSeq_mask (sub_trans (by decide) hm) ?_
    | with_reducible refine post_mask (sub_trans (by decide) hm) ?_
    | with_reducible refine raise_mask (sub_trans (by decide) hm) ?_
    | with_reducible refine set1_mask (sub_trans (by decide) hm) ?_
    | with_reducible apply ite_mask
    | with_reducible apply ite_fst_mask
    | split
    | dsimp only)

theorem returnFromTrap_mask {m : Nat} {s0 s : State} {n : Nat} (hm : Sub 8192 m) (hk : Mask m s0 s) :
    Mask m s0 (returnFromTrap s n) := by
  unfold returnFromTrap
  repeat' (first
    | intro _
    | with_reducible assumption
    | with_reducible refine modSeq_mask (sub_trans (by decide) hm) ?_
    | with_reducible apply ite_mask
    | with_reducible apply ite_fst_mask
    | split
    | dsimp only)

theorem wake_mask {m : Nat} {s0 s : State} {bit : Nat} (hm : Sub 8211 m) (hk : Mask m s0 s) :
    Mask m s0 (wake s bit) := by
  unfold wake
  repeat' (first
    | intro _
    | with_reducible assumption
    | with_reducible refine modPwr_mask (sub_trans (by decide) hm) ?_
    | with_reducible refine modSeq_mask (sub_trans (by decide) hm) ?_
    | with_reducible refine modStd_mask (sub_trans (by decide) hm) ?_
    | with_reducible refine wr_mask (sub_trans (by decide) hm) ?_
    | with_reducible apply ite_mask
    | with_reducible apply ite_fst_mask
    | split
    | dsimp only)

end Sys2Proof.Machine
end

