-- ==== Sys2Proof/Laws/PartsDie.lean ====
section
/-!
SUPPORT. Which parts of the state the operations and commands of Die touch.
-/
set_option linter.unusedTactic false
set_option linter.unreachableTactic false
set_option linter.unusedVariables false
namespace Sys2Proof.Machine

theorem modPort_mask {m : Nat} {s0 s : State} {n : Nat} {f : OtPort → OtPort} (hm : Sub 4096 m) (hk : Mask m s0 s) :
    Mask m s0 (State.modPort s n f) := by
  unfold State.modPort
  repeat' (first
    | intro _
    | with_reducible assumption
    | with_reducible refine modCel_mask (sub_trans (by decide) hm) ?_
    | with_reducible apply ite_mask
    | with_reducible apply ite_fst_mask
    | split
    | dsimp only)

theorem setDescState_mask {m : Nat} {s0 s : State} {n i st : Nat} (hm : Sub 8192 m) (hk : Mask m s0 s) :
    Mask m s0 (setDescState s n i st) := by
  unfold setDescState
  repeat' (first
    | intro _
    | with_reducible assumption
    | with_reducible refine modSeq_mask (sub_trans (by decide) hm) ?_
    | with_reducible apply ite_mask
    | with_reducible apply ite_fst_mask
    | split
    | dsimp only)

theorem setDescArg_mask {m : Nat} {s0 s : State} {n i v : Nat} (hm : Sub 8192 m) (hk : Mask m s0 s) :
    Mask m s0 (setDescArg s n i v) := by
  unfold setDescArg
  repeat' (first
    | intro _
    | with_reducible assumption
    | with_reducible refine modSeq_mask (sub_trans (by decide) hm) ?_
    | with_reducible apply ite_mask
    | with_reducible apply ite_fst_mask
    | split
    | dsimp only)

theorem withdraw_mask {m : Nat} {s0 s : State} {n i : Nat} (hm : Sub 12288 m) (hk : Mask m s0 s) :
    Mask m s0 (withdraw s n i) := by
  unfold withdraw
  repeat' (first
    | intro _
    | with_reducible assumption
    | with_reducible refine modPort_mask (sub_trans (by decide) hm) ?_
    | with_reducible refine modSeq_mask (sub_trans (by decide) hm) ?_
    | with_reducible apply ite_mask
    | with_reducible apply ite_fst_mask
    | split
    | dsimp only)

theorem leaveDie_mask {m : Nat} {s0 s : State} {n i : Nat} (hm : Sub 4096 m) (hk : Mask m s0 s) :
    Mask m s0 (leaveDie s n i) := by
  unfold leaveDie
  repeat' (first
    | intro _
    | with_reducible assumption
    | with_reducible refine modPort_mask (sub_trans (by decide) hm) ?_
    | with_reducible apply ite_mask
    | with_reducible apply ite_fst_mask
    | split
    | dsimp only)

theorem releaseDesc_mask {m : Nat} {s0 s : State} {n i : Nat} (hm : Sub 12288 m) (hk : Mask m s0 s) :
    Mask m s0 (releaseDesc s n i) := by
  unfold releaseDesc
  repeat' (first
    | intro _
    | with_reducible assumption
    | with_reducible refine leaveDie_mask (sub_trans (by decide) hm) ?_
    | with_reducible refine modSeq_mask (sub_trans (by decide) hm) ?_
    | with_reducible refine setDescState_mask (sub_trans (by decide) hm) ?_
    | with_reducible refine withdraw_mask (sub_trans (by decide) hm) ?_
    | with_reducible apply ite_mask
    | with_reducible apply ite_fst_mask
    | split
    | dsimp only)

theorem freeDesc_mask {m : Nat} {s0 s : State} {n i : Nat} (hm : Sub 8192 m) (hk : Mask m s0 s) :
    Mask m s0 (freeDesc s n i) := by
  unfold freeDesc
  repeat' (first
    | intro _
    | with_reducible assumption
    | with_reducible refine modSeq_mask (sub_trans (by decide) hm) ?_
    | with_reducible refine setDescState_mask (sub_trans (by decide) hm) ?_
    | with_reducible apply ite_mask
    | with_reducible apply ite_fst_mask
    | split
    | dsimp only)

theorem offer_mask {m : Nat} {s0 s : State} {n : Nat} {op : DieOp} (hm : Sub 4352 m) (hk : Mask m s0 s) :
    Mask m s0 (offer s n op) := by
  unfold offer
  repeat' (first
    | intro _
    | with_reducible assumption
    | with_reducible refine modCel_mask (sub_trans (by decide) hm) ?_
    | with_reducible refine modHall_mask (sub_trans (by decide) hm) ?_
    | with_reducible refine modPort_mask (sub_trans (by decide) hm) ?_
    | with_reducible apply ite_mask
    | with_reducible apply ite_fst_mask
    | split
    | dsimp only)

theorem chargeDieTime_mask {m : Nat} {s0 s : State} {n : Nat} {op : DieOp} {us : Nat} (hm : Sub 256 m) (hk : Mask m s0 s) :
    Mask m s0 (chargeDieTime s n op us) := by
  unfold chargeDieTime
  repeat' (first
    | intro _
    | with_reducible assumption
    | with_reducible refine modHall_mask (sub_trans (by decide) hm) ?_
    | with_reducible apply ite_mask
    | with_reducible apply ite_fst_mask
    | split
    | dsimp only)

end Sys2Proof.Machine
end

