-- ==== Sys2Proof/Laws/PartsMap.lean ====
section
/-!
SUPPORT. Which parts of the state the operations and commands of Map touch.
-/
set_option linter.unusedTactic false
set_option linter.unreachableTactic false
set_option linter.unusedVariables false
namespace Sys2Proof.Machine

theorem closeBatch_mask {m : Nat} {s0 s : State}  (hm : Sub 1024 m) (hk : Mask m s0 s) :
    Mask m s0 (closeBatch s) := by
  unfold closeBatch
  repeat' (first
    | intro _
    | with_reducible assumption
    | with_reducible refine modPan_mask (sub_trans (by decide) hm) ?_
    | with_reducible apply ite_mask
    | with_reducible apply ite_fst_mask
    | split
    | dsimp only)

theorem jAppend_mask {m : Nat} {s0 s : State} {r : JRec} (hm : Sub 1024 m) (hk : Mask m s0 s) :
    Mask m s0 (jAppend s r) := by
  unfold jAppend
  repeat' (first
    | intro _
    | with_reducible assumption
    | with_reducible refine closeBatch_mask (sub_trans (by decide) hm) ?_
    | with_reducible refine modPan_mask (sub_trans (by decide) hm) ?_
    | with_reducible apply ite_mask
    | with_reducible apply ite_fst_mask
    | split
    | dsimp only)

theorem touchLine_mask {m : Nat} {s0 s : State} {a : Nat} {write : Bool} (hm : Sub 1024 m) (hk : Mask m s0 s) :
    Mask m s0 (touchLine s a write).1 := by
  unfold touchLine
  repeat' (first
    | intro _
    | with_reducible assumption
    | with_reducible refine modPan_mask (sub_trans (by decide) hm) ?_
    | with_reducible apply ite_mask
    | with_reducible apply ite_fst_mask
    | split
    | dsimp only)

theorem lookupLines_mask {m : Nat} {s0 s : State} {ns u : Nat} (hm : Sub 1025 m) (hk : Mask m s0 s) :
    Mask m s0 (lookupLines s ns u).1 := by
  unfold lookupLines
  repeat' (first
    | intro _
    | with_reducible assumption
    | with_reducible refine touchLine_mask (sub_trans (by decide) hm) ?_
    | with_reducible refine wr_mask (sub_trans (by decide) hm) ?_
    | with_reducible refine fst_mask (by assumption) ?_
    | with_reducible apply ite_mask
    | with_reducible apply ite_fst_mask
    | split
    | dsimp only)

theorem noteLedger_mask {m : Nat} {s0 s : State} {r : JRec} (hm : Sub 32768 m) (hk : Mask m s0 s) :
    Mask m s0 (noteLedger s r) := by
  unfold noteLedger
  repeat' (first
    | intro _
    | with_reducible assumption
    | with_reducible refine modScu_mask (sub_trans (by decide) hm) ?_
    | with_reducible apply ite_mask
    | with_reducible apply ite_fst_mask
    | split
    | dsimp only)

theorem mapChange_mask {m : Nat} {s0 s : State} {r : JRec} (hm : Sub 33792 m) (hk : Mask m s0 s) :
    Mask m s0 (mapChange s r) := by
  unfold mapChange
  repeat' (first
    | intro _
    | with_reducible assumption
    | with_reducible refine jAppend_mask (sub_trans (by decide) hm) ?_
    | with_reducible refine modPan_mask (sub_trans (by decide) hm) ?_
    | with_reducible refine noteLedger_mask (sub_trans (by decide) hm) ?_
    | with_reducible refine touchLine_mask (sub_trans (by decide) hm) ?_
    | with_reducible refine fst_mask (by assumption) ?_
    | with_reducible apply ite_mask
    | with_reducible apply ite_fst_mask
    | split
    | dsimp only)

theorem mapChanges_mask {m : Nat} {s0 s : State} {l : List JRec} (hm : Sub 33792 m) (hk : Mask m s0 s) :
    Mask m s0 (mapChanges s l) := by
  unfold mapChanges
  repeat' (first
    | intro _
    | with_reducible assumption
    | with_reducible refine mapChange_mask (sub_trans (by decide) hm) ?_
    | with_reducible apply each_mask
    | with_reducible apply ite_mask
    | with_reducible apply ite_fst_mask
    | split
    | dsimp only)

theorem dropOverlay_mask {m : Nat} {s0 s : State} {ns u n : Nat} (hm : Sub 1024 m) (hk : Mask m s0 s) :
    Mask m s0 (dropOverlay s ns u n) := by
  unfold dropOverlay
  repeat' (first
    | intro _
    | with_reducible assumption
    | with_reducible refine modPan_mask (sub_trans (by decide) hm) ?_
    | with_reducible apply ite_mask
    | with_reducible apply ite_fst_mask
    | split
    | dsimp only)

theorem unpark_mask {m : Nat} {s0 : State} (hm : Sub 1024 m) (k : Nat) : ∀ {s : State}, Mask m s0 s → Mask m s0 (unpark k s) := by
  induction k with
  | zero =>
    intro s  hk
    unfold unpark
    repeat' (first
    | intro _
    | with_reducible assumption
    | with_reducible refine modPan_mask (sub_trans (by decide) hm) ?_
    | with_reducible apply ite_mask
    | with_reducible apply ite_fst_mask
    | split
    | dsimp only)
  | succ k ih =>
    intro s  hk
    unfold unpark
    repeat' (first
    | with_reducible apply ih
    | intro _
    | with_reducible assumption
    | with_reducible refine modPan_mask (sub_trans (by decide) hm) ?_
    | with_reducible apply ite_mask
    | with_reducible apply ite_fst_mask
    | split
    | dsimp only)

theorem panFlags_mask {m : Nat} {s0 s : State}  (hm : Sub 1024 m) (hk : Mask m s0 s) :
    Mask m s0 (panFlags s) := by
  unfold panFlags
  repeat' (first
    | intro _
    | with_reducible assumption
    | with_reducible refine modPan_mask (sub_trans (by decide) hm) ?_
    | with_reducible refine unpark_mask (sub_trans (by decide) hm) _ ?_
    | with_reducible apply ite_mask
    | with_reducible apply ite_fst_mask
    | split
    | dsimp only)

end Sys2Proof.Machine
end

