-- ==== Sys2Proof/Laws/PartsSuites.lean ====
section
/-!
SUPPORT. Which parts of the state the operations and commands of Suites touch.
-/
set_option linter.unusedTactic false
set_option linter.unreachableTactic false
set_option linter.unusedVariables false
namespace Sys2Proof.Machine

theorem modSuite_mask {m : Nat} {s0 s : State} {k : Nat} {f : Suite → Suite} (hm : Sub 32768 m) (hk : Mask m s0 s) :
    Mask m s0 (State.modSuite s k f) := by
  unfold State.modSuite
  repeat' (first
    | intro _
    | with_reducible assumption
    | with_reducible refine modScu_mask (sub_trans (by decide) hm) ?_
    | with_reducible apply ite_mask
    | with_reducible apply ite_fst_mask
    | split
    | dsimp only)

theorem countRead_mask {μ : Nat} {s0 s : State} {k m : Nat} {by_ : Nat} (hm : Sub 32768 μ) (hk : Mask μ s0 s) :
    Mask μ s0 (countRead s k m by_) := by
  unfold countRead
  repeat' (first
    | intro _
    | with_reducible assumption
    | with_reducible refine modSuite_mask (sub_trans (by decide) hm) ?_
    | with_reducible apply ite_mask
    | with_reducible apply ite_fst_mask
    | split
    | dsimp only)

theorem readUnit_mask {m : Nat} {s0 s : State} {k u cls bg : Nat} {by_ : Issuer} (hm : Sub 37120 m) (hk : Mask m s0 s) :
    MaskO m s0 (readUnit s k u cls bg by_) := by
  unfold readUnit
  repeat' (first
    | intro _
    | with_reducible assumption
    | with_reducible refine countRead_mask (sub_trans (by decide) hm) ?_
    | with_reducible refine offer_mask (sub_trans (by decide) hm) ?_
    | with_reducible refine opt_mask (by assumption) ?_
    | with_reducible apply some_maskO
    | with_reducible apply none_maskO
    | with_reducible apply ite_maskO
    | with_reducible apply map_maskO
    | with_reducible apply mapOf_maskO
    | with_reducible apply getD_mask
    | with_reducible apply ite_mask
    | with_reducible apply ite_fst_mask
    | split
    | dsimp only)

theorem readMember_mask {μ : Nat} {s0 s : State} {k m row q cls bg : Nat} {by_ : Issuer} (hm : Sub 37120 μ) (hk : Mask μ s0 s) :
    MaskO μ s0 (readMember s k m row q cls bg by_) := by
  unfold readMember
  repeat' (first
    | intro _
    | with_reducible assumption
    | with_reducible refine countRead_mask (sub_trans (by decide) hm) ?_
    | with_reducible refine offer_mask (sub_trans (by decide) hm) ?_
    | with_reducible refine opt_mask (by assumption) ?_
    | with_reducible apply some_maskO
    | with_reducible apply none_maskO
    | with_reducible apply ite_maskO
    | with_reducible apply map_maskO
    | with_reducible apply mapOf_maskO
    | with_reducible apply getD_mask
    | with_reducible apply ite_mask
    | with_reducible apply ite_fst_mask
    | split
    | dsimp only)

theorem suiteRecord_mask {m : Nat} {s0 s : State} {k aux count first : Nat} (hm : Sub 1024 m) (hk : Mask m s0 s) :
    Mask m s0 (suiteRecord s k aux count first) := by
  unfold suiteRecord
  repeat' (first
    | intro _
    | with_reducible assumption
    | with_reducible refine jAppend_mask (sub_trans (by decide) hm) ?_
    | with_reducible apply ite_mask
    | with_reducible apply ite_fst_mask
    | split
    | dsimp only)

theorem poolCheck_mask {m : Nat} {s0 s : State} {rg : Nat} (hm : Sub 32768 m) (hk : Mask m s0 s) :
    Mask m s0 (poolCheck s rg) := by
  unfold poolCheck
  repeat' (first
    | intro _
    | with_reducible assumption
    | with_reducible refine modScu_mask (sub_trans (by decide) hm) ?_
    | with_reducible apply ite_mask
    | with_reducible apply ite_fst_mask
    | split
    | dsimp only)

theorem openSuite_mask {m : Nat} {s0 s : State} {k cell stream handle : Nat} (hm : Sub 33792 m) (hk : Mask m s0 s) :
    Mask m s0 (openSuite s k cell stream handle) := by
  unfold openSuite
  repeat' (first
    | intro _
    | with_reducible assumption
    | with_reducible refine modScu_mask (sub_trans (by decide) hm) ?_
    | with_reducible refine poolCheck_mask (sub_trans (by decide) hm) ?_
    | with_reducible refine suiteRecord_mask (sub_trans (by decide) hm) ?_
    | with_reducible apply ite_mask
    | with_reducible apply ite_fst_mask
    | split
    | dsimp only)

theorem closedSuite_mask {m : Nat} {s0 s : State} {k : Nat} (hm : Sub 2130944 m) (hk : Mask m s0 s) :
    Mask m s0 (closedSuite s k) := by
  unfold closedSuite
  repeat' (first
    | intro _
    | with_reducible assumption
    | with_reducible refine modSuite_mask (sub_trans (by decide) hm) ?_
    | with_reducible refine suiteRecord_mask (sub_trans (by decide) hm) ?_
    | with_reducible refine tick_mask (sub_trans (by decide) hm) ?_
    | with_reducible apply ite_mask
    | with_reducible apply ite_fst_mask
    | split
    | dsimp only)

theorem startErase_mask {m : Nat} {s0 s : State} {k : Nat} (hm : Sub 37120 m) (hk : Mask m s0 s) :
    Mask m s0 (startErase s k) := by
  unfold startErase
  repeat' (first
    | intro _
    | with_reducible assumption
    | with_reducible refine modScu_mask (sub_trans (by decide) hm) ?_
    | with_reducible refine modSuite_mask (sub_trans (by decide) hm) ?_
    | with_reducible refine offer_mask (sub_trans (by decide) hm) ?_
    | with_reducible apply each_mask
    | with_reducible apply ite_mask
    | with_reducible apply ite_fst_mask
    | split
    | dsimp only)

theorem eraseIfDue_mask {m : Nat} {s0 s : State} {k : Nat} (hm : Sub 38144 m) (hk : Mask m s0 s) :
    Mask m s0 (eraseIfDue s k) := by
  unfold eraseIfDue
  repeat' (first
    | intro _
    | with_reducible assumption
    | with_reducible refine modPan_mask (sub_trans (by decide) hm) ?_
    | with_reducible refine startErase_mask (sub_trans (by decide) hm) ?_
    | with_reducible apply ite_mask
    | with_reducible apply ite_fst_mask
    | split
    | dsimp only)

theorem removeMember_mask {μ : Nat} {s0 s : State} {k m row : Nat} (hm : Sub 33792 μ) (hk : Mask μ s0 s) :
    Mask μ s0 (removeMember s k m row) := by
  unfold removeMember
  repeat' (first
    | intro _
    | with_reducible assumption
    | with_reducible refine modScu_mask (sub_trans (by decide) hm) ?_
    | with_reducible refine modSuite_mask (sub_trans (by decide) hm) ?_
    | with_reducible refine suiteRecord_mask (sub_trans (by decide) hm) ?_
    | with_reducible apply ite_mask
    | with_reducible apply ite_fst_mask
    | split
    | dsimp only)

end Sys2Proof.Machine
end

