-- ==== Sys2Proof/Laws/PartsShares.lean ====
section
/-!
SUPPORT. Which parts of the state the operations and commands of Shares touch.
-/
set_option linter.unusedTactic false
set_option linter.unreachableTactic false
set_option linter.unusedVariables false
namespace Sys2Proof.Machine

theorem modWorker_mask {m : Nat} {s0 s : State} {w : Nat} {f : WorkerSt → WorkerSt} (hm : Sub 131072 m) (hk : Mask m s0 s) :
    Mask m s0 (State.modWorker s w f) := by
  unfold State.modWorker
  repeat' (first
    | intro _
    | with_reducible assumption
    | with_reducible refine modSta_mask (sub_trans (by decide) hm) ?_
    | with_reducible apply ite_mask
    | with_reducible apply ite_fst_mask
    | split
    | dsimp only)

theorem stairTx_mask {μ : Nat} {s0 s : State} {n typ tag cw : Nat} {last : Bool} {m : StairMsg} (hm : Sub 4096 μ) (hk : Mask μ s0 s) :
    Mask μ s0 (stairTx s n typ tag cw last m) := by
  unfold stairTx
  repeat' (first
    | intro _
    | with_reducible assumption
    | with_reducible refine modPort_mask (sub_trans (by decide) hm) ?_
    | with_reducible apply ite_mask
    | with_reducible apply ite_fst_mask
    | split
    | dsimp only)

theorem tellManager_mask {μ : Nat} {s0 s : State} {typ : Nat} {m : StairMsg} (hm : Sub 4096 μ) (hk : Mask μ s0 s) :
    Mask μ s0 (tellManager s typ m) := by
  unfold tellManager
  repeat' (first
    | intro _
    | with_reducible assumption
    | with_reducible refine stairTx_mask (sub_trans (by decide) hm) ?_
    | with_reducible apply ite_mask
    | with_reducible apply ite_fst_mask
    | split
    | dsimp only)

theorem stairDone_mask {m : Nat} {s0 s : State} {link tag : Nat} {r : SReq} {phase sct sc units : Nat} (hm : Sub 135168 m) (hk : Mask m s0 s) :
    Mask m s0 (stairDone s link tag r phase sct sc units) := by
  unfold stairDone
  repeat' (first
    | intro _
    | with_reducible assumption
    | with_reducible refine modSta_mask (sub_trans (by decide) hm) ?_
    | with_reducible refine stairTx_mask (sub_trans (by decide) hm) ?_
    | with_reducible apply ite_mask
    | with_reducible apply ite_fst_mask
    | split
    | dsimp only)

end Sys2Proof.Machine
end

