-- ==== Sys2Proof/Laws/PartsHallBase.lean ====
section
/-!
SUPPORT. Which parts of the state the operations and commands of HallBase touch.
-/
set_option linter.unusedTactic false
set_option linter.unreachableTactic false
set_option linter.unusedVariables false
namespace Sys2Proof.Machine

theorem modHport_mask {m : Nat} {s0 s : State} {p : Nat} {f : HPort → HPort} (hm : Sub 128 m) (hk : Mask m s0 s) :
    Mask m s0 (State.modHport s p f) := by
  unfold State.modHport
  repeat' (first
    | intro _
    | with_reducible assumption
    | with_reducible refine modPorch_mask (sub_trans (by decide) hm) ?_
    | with_reducible apply ite_mask
    | with_reducible apply ite_fst_mask
    | split
    | dsimp only)

theorem modCtx_mask {m : Nat} {s0 s : State} {n : Nat} {f : Ctx → Ctx} (hm : Sub 256 m) (hk : Mask m s0 s) :
    Mask m s0 (State.modCtx s n f) := by
  unfold State.modCtx
  repeat' (first
    | intro _
    | with_reducible assumption
    | with_reducible refine modHall_mask (sub_trans (by decide) hm) ?_
    | with_reducible apply ite_mask
    | with_reducible apply ite_fst_mask
    | split
    | dsimp only)

theorem setFeat_mask {m : Nat} {s0 s : State} {ctrl fid sub v : Nat} (hm : Sub 512 m) (hk : Mask m s0 s) :
    Mask m s0 (setFeat s ctrl fid sub v) := by
  unfold setFeat
  repeat' (first
    | intro _
    | with_reducible assumption
    | with_reducible refine modNvm_mask (sub_trans (by decide) hm) ?_
    | with_reducible apply ite_mask
    | with_reducible apply ite_fst_mask
    | split
    | dsimp only)

theorem finish_mask {m : Nat} {s0 s : State} {n sct sc : Nat} {dw0 : Nat} (hm : Sub 135936 m) (hk : Mask m s0 s) :
    Mask m s0 (finish s n sct sc dw0) := by
  unfold finish
  repeat' (first
    | intro _
    | with_reducible assumption
    | with_reducible refine modCtx_mask (sub_trans (by decide) hm) ?_
    | with_reducible refine modHall_mask (sub_trans (by decide) hm) ?_
    | with_reducible refine modNvm_mask (sub_trans (by decide) hm) ?_
    | with_reducible refine stairDone_mask (sub_trans (by decide) hm) ?_
    | with_reducible apply ite_mask
    | with_reducible apply ite_fst_mask
    | split
    | dsimp only)

theorem finishOk_mask {m : Nat} {s0 s : State} {n : Nat} (hm : Sub 135936 m) (hk : Mask m s0 s) :
    Mask m s0 (finishOk s n) := by
  unfold finishOk
  repeat' (first
    | intro _
    | with_reducible assumption
    | with_reducible refine finish_mask (sub_trans (by decide) hm) ?_
    | with_reducible apply ite_mask
    | with_reducible apply ite_fst_mask
    | split
    | dsimp only)

theorem pinSlot_mask {m : Nat} {s0 s : State} {k : Nat} (hm : Sub 2048 m) (hk : Mask m s0 s) :
    Mask m s0 (pinSlot s k) := by
  unfold pinSlot
  repeat' (first
    | intro _
    | with_reducible assumption
    | with_reducible refine modLdr_mask (sub_trans (by decide) hm) ?_
    | with_reducible apply ite_mask
    | with_reducible apply ite_fst_mask
    | split
    | dsimp only)

theorem freeSlot_mask {m : Nat} {s0 s : State} {k : Nat} (hm : Sub 2048 m) (hk : Mask m s0 s) :
    Mask m s0 (freeSlot s k) := by
  unfold freeSlot
  repeat' (first
    | intro _
    | with_reducible assumption
    | with_reducible refine modLdr_mask (sub_trans (by decide) hm) ?_
    | with_reducible apply ite_mask
    | with_reducible apply ite_fst_mask
    | split
    | dsimp only)

theorem unpinSlot_mask {m : Nat} {s0 s : State} {k : Nat} (hm : Sub 2048 m) (hk : Mask m s0 s) :
    Mask m s0 (unpinSlot s k) := by
  unfold unpinSlot
  repeat' (first
    | intro _
    | with_reducible assumption
    | with_reducible refine freeSlot_mask (sub_trans (by decide) hm) ?_
    | with_reducible refine modLdr_mask (sub_trans (by decide) hm) ?_
    | with_reducible apply ite_mask
    | with_reducible apply ite_fst_mask
    | split
    | dsimp only)

theorem unpinMedia_mask {m : Nat} {s0 s : State} {n suite unit : Nat} (hm : Sub 38144 m) (hk : Mask m s0 s) :
    Mask m s0 (unpinMedia s n suite unit) := by
  unfold unpinMedia
  repeat' (first
    | intro _
    | with_reducible assumption
    | with_reducible refine eraseIfDue_mask (sub_trans (by decide) hm) ?_
    | with_reducible refine modPan_mask (sub_trans (by decide) hm) ?_
    | with_reducible apply ite_mask
    | with_reducible apply ite_fst_mask
    | split
    | dsimp only)

theorem returnSlots_mask {m : Nat} {s0 s : State} {units : List WUnit} (hm : Sub 3072 m) (hk : Mask m s0 s) :
    Mask m s0 (returnSlots s units) := by
  unfold returnSlots
  repeat' (first
    | intro _
    | with_reducible assumption
    | with_reducible refine freeSlot_mask (sub_trans (by decide) hm) ?_
    | with_reducible refine modPan_mask (sub_trans (by decide) hm) ?_
    | with_reducible apply each_mask
    | with_reducible apply ite_mask
    | with_reducible apply ite_fst_mask
    | split
    | dsimp only)

theorem cutWriter_mask {m : Nat} {s0 s : State} {n sct sc : Nat} (hm : Sub 139008 m) (hk : Mask m s0 s) :
    Mask m s0 (cutWriter s n sct sc) := by
  unfold cutWriter
  repeat' (first
    | intro _
    | with_reducible assumption
    | with_reducible refine finish_mask (sub_trans (by decide) hm) ?_
    | with_reducible refine modCtx_mask (sub_trans (by decide) hm) ?_
    | with_reducible refine returnSlots_mask (sub_trans (by decide) hm) ?_
    | with_reducible apply ite_mask
    | with_reducible apply ite_fst_mask
    | split
    | dsimp only)

theorem addDep_mask {m : Nat} {s0 s : State} {t : Nat} {d : Dep} (hm : Sub 1024 m) (hk : Mask m s0 s) :
    Mask m s0 (addDep s t d) := by
  unfold addDep
  repeat' (first
    | intro _
    | with_reducible assumption
    | with_reducible refine modPan_mask (sub_trans (by decide) hm) ?_
    | with_reducible apply ite_mask
    | with_reducible apply ite_fst_mask
    | split
    | dsimp only)

theorem pruneDeps_mask {m : Nat} {s0 s : State}  (hm : Sub 1024 m) (hk : Mask m s0 s) :
    Mask m s0 (pruneDeps s) := by
  unfold pruneDeps
  repeat' (first
    | intro _
    | with_reducible assumption
    | with_reducible refine modPan_mask (sub_trans (by decide) hm) ?_
    | with_reducible apply each_mask
    | with_reducible apply ite_mask
    | with_reducible apply ite_fst_mask
    | split
    | dsimp only)

theorem reportDeferred_mask {m : Nat} {s0 s : State} {ns : Nat} (hm : Sub 265 m) (hk : Mask m s0 s) :
    Mask m s0 (reportDeferred s ns) := by
  unfold reportDeferred
  repeat' (first
    | intro _
    | with_reducible assumption
    | with_reducible refine bump_mask (sub_trans (by decide) hm) ?_
    | with_reducible refine modHall_mask (sub_trans (by decide) hm) ?_
    | with_reducible refine post_mask (sub_trans (by decide) hm) ?_
    | with_reducible apply each_mask
    | with_reducible apply ite_mask
    | with_reducible apply ite_fst_mask
    | split
    | dsimp only)

theorem formatCheck_mask {m : Nat} {s0 s : State}  (hm : Sub 135936 m) (hk : Mask m s0 s) :
    Mask m s0 (formatCheck s) := by
  unfold formatCheck
  repeat' (first
    | intro _
    | with_reducible assumption
    | with_reducible refine finishOk_mask (sub_trans (by decide) hm) ?_
    | with_reducible refine modNvm_mask (sub_trans (by decide) hm) ?_
    | with_reducible apply each_mask
    | with_reducible apply ite_mask
    | with_reducible apply ite_fst_mask
    | split
    | dsimp only)

theorem nsOpCheck_mask {m : Nat} {s0 s : State}  (hm : Sub 135936 m) (hk : Mask m s0 s) :
    Mask m s0 (nsOpCheck s) := by
  unfold nsOpCheck
  repeat' (first
    | intro _
    | with_reducible assumption
    | with_reducible refine finish_mask (sub_trans (by decide) hm) ?_
    | with_reducible apply each_mask
    | with_reducible apply ite_mask
    | with_reducible apply ite_fst_mask
    | split
    | dsimp only)

theorem settleCheck_mask {m : Nat} {s0 s : State}  (hm : Sub 139017 m) (hk : Mask m s0 s) :
    Mask m s0 (settleCheck s) := by
  unfold settleCheck
  repeat' (first
    | intro _
    | with_reducible assumption
    | with_reducible refine finish_mask (sub_trans (by decide) hm) ?_
    | with_reducible refine finishOk_mask (sub_trans (by decide) hm) ?_
    | with_reducible refine formatCheck_mask (sub_trans (by decide) hm) ?_
    | with_reducible refine modHall_mask (sub_trans (by decide) hm) ?_
    | with_reducible refine modLdr_mask (sub_trans (by decide) hm) ?_
    | with_reducible refine nsOpCheck_mask (sub_trans (by decide) hm) ?_
    | with_reducible refine pruneDeps_mask (sub_trans (by decide) hm) ?_
    | with_reducible refine reportDeferred_mask (sub_trans (by decide) hm) ?_
    | with_reducible refine stairDone_mask (sub_trans (by decide) hm) ?_
    | with_reducible apply each_mask
    | with_reducible apply ite_mask
    | with_reducible apply ite_fst_mask
    | split
    | dsimp only)

theorem asyncEvent_mask {m : Nat} {s0 s : State} {port typ info page : Nat} {ns : Nat} (hm : Sub 256 m) (hk : Mask m s0 s) :
    Mask m s0 (asyncEvent s port typ info page ns) := by
  unfold asyncEvent
  repeat' (first
    | intro _
    | with_reducible assumption
    | with_reducible refine modHall_mask (sub_trans (by decide) hm) ?_
    | with_reducible apply ite_mask
    | with_reducible apply ite_fst_mask
    | split
    | dsimp only)

theorem asyncAll_mask {m : Nat} {s0 s : State} {typ info page : Nat} {ns : Nat} (hm : Sub 256 m) (hk : Mask m s0 s) :
    Mask m s0 (asyncAll s typ info page ns) := by
  unfold asyncAll
  repeat' (first
    | intro _
    | with_reducible assumption
    | with_reducible refine asyncEvent_mask (sub_trans (by decide) hm) ?_
    | with_reducible apply each_mask
    | with_reducible apply ite_mask
    | with_reducible apply ite_fst_mask
    | split
    | dsimp only)

theorem serveEvents_mask {m : Nat} {s0 s : State}  (hm : Sub 135936 m) (hk : Mask m s0 s) :
    Mask m s0 (serveEvents s) := by
  unfold serveEvents
  repeat' (first
    | intro _
    | with_reducible assumption
    | with_reducible refine asyncEvent_mask (sub_trans (by decide) hm) ?_
    | with_reducible refine finish_mask (sub_trans (by decide) hm) ?_
    | with_reducible refine modHall_mask (sub_trans (by decide) hm) ?_
    | with_reducible apply each_mask
    | with_reducible apply ite_mask
    | with_reducible apply ite_fst_mask
    | split
    | dsimp only)

theorem deferDurable_mask {m : Nat} {s0 s : State} {r : JRec} (hm : Sub 135945 m) (hk : Mask m s0 s) :
    Mask m s0 (deferDurable s r) := by
  unfold deferDurable
  repeat' (first
    | intro _
    | with_reducible assumption
    | with_reducible refine asyncAll_mask (sub_trans (by decide) hm) ?_
    | with_reducible refine bump_mask (sub_trans (by decide) hm) ?_
    | with_reducible refine modHall_mask (sub_trans (by decide) hm) ?_
    | with_reducible refine modNvm_mask (sub_trans (by decide) hm) ?_
    | with_reducible refine post_mask (sub_trans (by decide) hm) ?_
    | with_reducible refine serveEvents_mask (sub_trans (by decide) hm) ?_
    | with_reducible refine tellManager_mask (sub_trans (by decide) hm) ?_
    | with_reducible apply ite_mask
    | with_reducible apply ite_fst_mask
    | split
    | dsimp only)

theorem leaveOverlay_mask {m : Nat} {s0 s : State} {ns u n : Nat} (hm : Sub 1024 m) (hk : Mask m s0 s) :
    Mask m s0 (leaveOverlay s ns u n) := by
  unfold leaveOverlay
  repeat' (first
    | intro _
    | with_reducible assumption
    | with_reducible refine addDep_mask (sub_trans (by decide) hm) ?_
    | with_reducible refine dropOverlay_mask (sub_trans (by decide) hm) ?_
    | with_reducible apply each_mask
    | with_reducible apply ite_mask
    | with_reducible apply ite_fst_mask
    | split
    | dsimp only)

theorem rangeLost_mask {m : Nat} {s0 s : State} {ns u n cause : Nat} {deferred : Bool} {port : Nat} {worker : Nat} (hm : Sub 38144 m) (hk : Mask m s0 s) :
    Mask m s0 (rangeLost s ns u n cause deferred port worker) := by
  unfold rangeLost
  repeat' (first
    | intro _
    | with_reducible assumption
    | with_reducible refine asyncAll_mask (sub_trans (by decide) hm) ?_
    | with_reducible refine jAppend_mask (sub_trans (by decide) hm) ?_
    | with_reducible refine leaveOverlay_mask (sub_trans (by decide) hm) ?_
    | with_reducible refine mapChange_mask (sub_trans (by decide) hm) ?_
    | with_reducible refine modHall_mask (sub_trans (by decide) hm) ?_
    | with_reducible refine tellManager_mask (sub_trans (by decide) hm) ?_
    | with_reducible apply each_mask
    | with_reducible apply ite_mask
    | with_reducible apply ite_fst_mask
    | split
    | dsimp only)

theorem setUncorr_mask {m : Nat} {s0 s : State} {ns u : Nat} (hm : Sub 33792 m) (hk : Mask m s0 s) :
    Mask m s0 (setUncorr s ns u) := by
  unfold setUncorr
  repeat' (first
    | intro _
    | with_reducible assumption
    | with_reducible refine mapChange_mask (sub_trans (by decide) hm) ?_
    | with_reducible apply ite_mask
    | with_reducible apply ite_fst_mask
    | split
    | dsimp only)

end Sys2Proof.Machine
end

