-- ==== Sys2Proof/Laws/PartsLarderOps.lean ====
section
/-!
SUPPORT. Which parts of the state the operations and commands of LarderOps touch.
-/
set_option linter.unusedTactic false
set_option linter.unreachableTactic false
set_option linter.unusedVariables false
namespace Sys2Proof.Machine

theorem drainCheck_mask {m : Nat} {s0 s : State}  (hm : Sub 1 m) (hk : Mask m s0 s) :
    Mask m s0 (drainCheck s) := by
  unfold drainCheck
  repeat' (first
    | intro _
    | with_reducible assumption
    | with_reducible refine clr1_mask (sub_trans (by decide) hm) ?_
    | with_reducible apply ite_mask
    | with_reducible apply ite_fst_mask
    | split
    | dsimp only)

theorem takeSlot_mask {m : Nat} {s0 s : State} {x : Slot} (hm : Sub 2048 m) (hk : Mask m s0 s) :
    Mask m s0 (takeSlot s x).1 := by
  unfold takeSlot
  repeat' (first
    | intro _
    | with_reducible assumption
    | with_reducible refine modLdr_mask (sub_trans (by decide) hm) ?_
    | with_reducible apply ite_mask
    | with_reducible apply ite_fst_mask
    | split
    | dsimp only)

theorem modSlot_mask {m : Nat} {s0 s : State} {k : Nat} {f : Slot → Slot} (hm : Sub 2048 m) (hk : Mask m s0 s) :
    Mask m s0 (modSlot s k f) := by
  unfold modSlot
  repeat' (first
    | intro _
    | with_reducible assumption
    | with_reducible refine modLdr_mask (sub_trans (by decide) hm) ?_
    | with_reducible apply ite_mask
    | with_reducible apply ite_fst_mask
    | split
    | dsimp only)

theorem takeSlots_mask {m : Nat} {s0 s : State} {n : Nat} {f : Nat → Slot} (hm : Sub 2048 m) (hk : Mask m s0 s) :
    Mask m s0 (takeSlots s n f).1 := by
  unfold takeSlots
  repeat' (first
    | intro _
    | with_reducible assumption
    | with_reducible refine takeSlot_mask (sub_trans (by decide) hm) ?_
    | with_reducible refine fst_mask (by assumption) ?_
    | with_reducible apply foldl_mask
    | with_reducible apply foldl_fst_mask
    | with_reducible apply ite_mask
    | with_reducible apply ite_fst_mask
    | split
    | dsimp only)

theorem modFront_mask {m : Nat} {s0 s : State} {f : Nat} {g : Front → Front} (hm : Sub 2048 m) (hk : Mask m s0 s) :
    Mask m s0 (State.modFront s f g) := by
  unfold State.modFront
  repeat' (first
    | intro _
    | with_reducible assumption
    | with_reducible refine modLdr_mask (sub_trans (by decide) hm) ?_
    | with_reducible apply ite_mask
    | with_reducible apply ite_fst_mask
    | split
    | dsimp only)

theorem modRow_mask {m : Nat} {s0 s : State} {f suite row : Nat} {g : PRow → PRow} (hm : Sub 2048 m) (hk : Mask m s0 s) :
    Mask m s0 (modRow s f suite row g) := by
  unfold modRow
  repeat' (first
    | intro _
    | with_reducible assumption
    | with_reducible refine modFront_mask (sub_trans (by decide) hm) ?_
    | with_reducible apply ite_mask
    | with_reducible apply ite_fst_mask
    | split
    | dsimp only)

theorem modMember_mask {μ : Nat} {s0 s : State} {f suite row m : Nat} {g : RowMember → RowMember} (hm : Sub 2048 μ) (hk : Mask μ s0 s) :
    Mask μ s0 (modMember s f suite row m g) := by
  unfold modMember
  repeat' (first
    | intro _
    | with_reducible assumption
    | with_reducible refine modRow_mask (sub_trans (by decide) hm) ?_
    | with_reducible apply ite_mask
    | with_reducible apply ite_fst_mask
    | split
    | dsimp only)

theorem bindSuite_mask {m : Nat} {s0 s : State} {f : Nat} (hm : Sub 35840 m) (hk : Mask m s0 s) :
    Mask m s0 (bindSuite s f) := by
  unfold bindSuite
  repeat' (first
    | intro _
    | with_reducible assumption
    | with_reducible refine modFront_mask (sub_trans (by decide) hm) ?_
    | with_reducible refine openSuite_mask (sub_trans (by decide) hm) ?_
    | with_reducible apply ite_mask
    | with_reducible apply ite_fst_mask
    | split
    | dsimp only)

theorem xorInto_mask {m : Nat} {s0 s : State} {acc slots : List Nat} (hm : Sub 2048 m) (hk : Mask m s0 s) :
    Mask m s0 (xorInto s acc slots) := by
  unfold xorInto
  repeat' (first
    | intro _
    | with_reducible assumption
    | with_reducible refine modSlot_mask (sub_trans (by decide) hm) ?_
    | with_reducible apply each_mask
    | with_reducible apply ite_mask
    | with_reducible apply ite_fst_mask
    | split
    | dsimp only)

theorem programOp_mask {μ : Nat} {s0 s : State} {k row m cell : Nat} {slots : List Nat} {cls bg : Nat} {unit : Nat} {by_ : Issuer} (hm : Sub 4352 μ) (hk : Mask μ s0 s) :
    Mask μ s0 (programOp s k row m cell slots cls bg unit by_) := by
  unfold programOp
  repeat' (first
    | intro _
    | with_reducible assumption
    | with_reducible refine offer_mask (sub_trans (by decide) hm) ?_
    | with_reducible apply ite_mask
    | with_reducible apply ite_fst_mask
    | split
    | dsimp only)

theorem fdpNote_mask {m : Nat} {s0 s : State} {typ handle suite : Nat} (hm : Sub 512 m) (hk : Mask m s0 s) :
    Mask m s0 (fdpNote s typ handle suite) := by
  unfold fdpNote
  repeat' (first
    | intro _
    | with_reducible assumption
    | with_reducible refine modNvm_mask (sub_trans (by decide) hm) ?_
    | with_reducible apply ite_mask
    | with_reducible apply ite_fst_mask
    | split
    | dsimp only)

theorem releaseFront_mask {m : Nat} {s0 s : State} {f : Nat} (hm : Sub 2133504 m) (hk : Mask m s0 s) :
    Mask m s0 (releaseFront s f) := by
  unfold releaseFront
  repeat' (first
    | intro _
    | with_reducible assumption
    | with_reducible refine closedSuite_mask (sub_trans (by decide) hm) ?_
    | with_reducible refine fdpNote_mask (sub_trans (by decide) hm) ?_
    | with_reducible refine modFront_mask (sub_trans (by decide) hm) ?_
    | with_reducible refine modSuite_mask (sub_trans (by decide) hm) ?_
    | with_reducible apply ite_mask
    | with_reducible apply ite_fst_mask
    | split
    | dsimp only)

theorem sendWordline_mask {m : Nat} {s0 s : State} {f : Nat} {fill_ : Bool} (hm : Sub 2137856 m) (hk : Mask m s0 s) :
    Mask m s0 (sendWordline s f fill_).1 := by
  unfold sendWordline
  repeat' (first
    | intro _
    | with_reducible assumption
    | with_reducible refine bindSuite_mask (sub_trans (by decide) hm) ?_
    | with_reducible refine modFront_mask (sub_trans (by decide) hm) ?_
    | with_reducible refine modNvm_mask (sub_trans (by decide) hm) ?_
    | with_reducible refine modRow_mask (sub_trans (by decide) hm) ?_
    | with_reducible refine modSlot_mask (sub_trans (by decide) hm) ?_
    | with_reducible refine modSuite_mask (sub_trans (by decide) hm) ?_
    | with_reducible refine programOp_mask (sub_trans (by decide) hm) ?_
    | with_reducible refine releaseFront_mask (sub_trans (by decide) hm) ?_
    | with_reducible refine takeSlots_mask (sub_trans (by decide) hm) ?_
    | with_reducible refine xorInto_mask (sub_trans (by decide) hm) ?_
    | with_reducible refine fst_mask (by assumption) ?_
    | with_reducible apply each_mask
    | with_reducible apply ite_mask
    | with_reducible apply ite_fst_mask
    | split
    | dsimp only)

theorem pumpFront_mask {m : Nat} {s0 : State} (hm : Sub 2137856 m) (k : Nat) : ∀ {s : State} {f : Nat}, Mask m s0 s → Mask m s0 (pumpFront k s f) := by
  induction k with
  | zero =>
    intro s f hk
    unfold pumpFront
    repeat' (first
    | intro _
    | with_reducible assumption
    | with_reducible refine modFront_mask (sub_trans (by decide) hm) ?_
    | with_reducible refine releaseFront_mask (sub_trans (by decide) hm) ?_
    | with_reducible refine sendWordline_mask (sub_trans (by decide) hm) ?_
    | with_reducible refine fst_mask (by assumption) ?_
    | with_reducible apply ite_mask
    | with_reducible apply ite_fst_mask
    | split
    | dsimp only)
  | succ k ih =>
    intro s f hk
    unfold pumpFront
    repeat' (first
    | with_reducible apply ih
    | intro _
    | with_reducible assumption
    | with_reducible refine modFront_mask (sub_trans (by decide) hm) ?_
    | with_reducible refine releaseFront_mask (sub_trans (by decide) hm) ?_
    | with_reducible refine sendWordline_mask (sub_trans (by decide) hm) ?_
    | with_reducible refine fst_mask (by assumption) ?_
    | with_reducible apply ite_mask
    | with_reducible apply ite_fst_mask
    | split
    | dsimp only)

theorem closeFront_mask {m : Nat} {s0 s : State} {f : Nat} (hm : Sub 2137856 m) (hk : Mask m s0 s) :
    Mask m s0 (closeFront s f) := by
  unfold closeFront
  repeat' (first
    | intro _
    | with_reducible assumption
    | with_reducible refine modFront_mask (sub_trans (by decide) hm) ?_
    | with_reducible refine pumpFront_mask (sub_trans (by decide) hm) _ ?_
    | with_reducible apply ite_mask
    | with_reducible apply ite_fst_mask
    | split
    | dsimp only)

theorem endSuite_mask {m : Nat} {s0 s : State} {f : Nat} (hm : Sub 2137856 m) (hk : Mask m s0 s) :
    Mask m s0 (endSuite s f) := by
  unfold endSuite
  repeat' (first
    | intro _
    | with_reducible assumption
    | with_reducible refine closeFront_mask (sub_trans (by decide) hm) ?_
    | with_reducible refine modFront_mask (sub_trans (by decide) hm) ?_
    | with_reducible apply ite_mask
    | with_reducible apply ite_fst_mask
    | split
    | dsimp only)

theorem pumpAll_mask {m : Nat} {s0 s : State}  (hm : Sub 2137856 m) (hk : Mask m s0 s) :
    Mask m s0 (pumpAll s) := by
  unfold pumpAll
  repeat' (first
    | intro _
    | with_reducible assumption
    | with_reducible refine pumpFront_mask (sub_trans (by decide) hm) _ ?_
    | with_reducible apply each_mask
    | with_reducible apply ite_mask
    | with_reducible apply ite_fst_mask
    | split
    | dsimp only)

theorem handleFront_mask {m : Nat} {s0 s : State} {pl : Place} (hm : Sub 2137856 m) (hk : Mask m s0 s) :
    Mask m s0 (handleFront s pl).1 := by
  unfold handleFront
  repeat' (first
    | intro _
    | with_reducible assumption
    | with_reducible refine endSuite_mask (sub_trans (by decide) hm) ?_
    | with_reducible refine modFront_mask (sub_trans (by decide) hm) ?_
    | with_reducible apply foldl_mask
    | with_reducible apply foldl_fst_mask
    | with_reducible apply ite_mask
    | with_reducible apply ite_fst_mask
    | split
    | dsimp only)

theorem joinFront_mask {m : Nat} {s0 s : State} {f : Nat} {l : List Nat} (hm : Sub 2137856 m) (hk : Mask m s0 s) :
    Mask m s0 (joinFront s f l) := by
  unfold joinFront
  repeat' (first
    | intro _
    | with_reducible assumption
    | with_reducible refine bindSuite_mask (sub_trans (by decide) hm) ?_
    | with_reducible refine modFront_mask (sub_trans (by decide) hm) ?_
    | with_reducible refine modSlot_mask (sub_trans (by decide) hm) ?_
    | with_reducible refine pumpFront_mask (sub_trans (by decide) hm) _ ?_
    | with_reducible apply each_mask
    | with_reducible apply ite_mask
    | with_reducible apply ite_fst_mask
    | split
    | dsimp only)

theorem joinHost_mask {m : Nat} {s0 s : State} {ns ext : Nat} {pl : Option Place} {l : List Nat} (hm : Sub 2137856 m) (hk : Mask m s0 s) :
    Mask m s0 (joinHost s ns ext pl l) := by
  unfold joinHost
  repeat' (first
    | intro _
    | with_reducible assumption
    | with_reducible refine endSuite_mask (sub_trans (by decide) hm) ?_
    | with_reducible refine handleFront_mask (sub_trans (by decide) hm) ?_
    | with_reducible refine joinFront_mask (sub_trans (by decide) hm) ?_
    | with_reducible refine fst_mask (by assumption) ?_
    | with_reducible apply ite_mask
    | with_reducible apply ite_fst_mask
    | split
    | dsimp only)

theorem joinReclaim_mask {m : Nat} {s0 s : State} {rg : Nat} {hot : Bool} {l : List Nat} (hm : Sub 2137856 m) (hk : Mask m s0 s) :
    Mask m s0 (joinReclaim s rg hot l) := by
  unfold joinReclaim
  repeat' (first
    | intro _
    | with_reducible assumption
    | with_reducible refine endSuite_mask (sub_trans (by decide) hm) ?_
    | with_reducible refine joinFront_mask (sub_trans (by decide) hm) ?_
    | with_reducible apply ite_mask
    | with_reducible apply ite_fst_mask
    | split
    | dsimp only)

theorem closeHostFronts_mask {m : Nat} {s0 s : State} {ns : Option Nat} (hm : Sub 2137856 m) (hk : Mask m s0 s) :
    Mask m s0 (closeHostFronts s ns) := by
  unfold closeHostFronts
  repeat' (first
    | intro _
    | with_reducible assumption
    | with_reducible refine closeFront_mask (sub_trans (by decide) hm) ?_
    | with_reducible apply each_mask
    | with_reducible apply ite_mask
    | with_reducible apply ite_fst_mask
    | split
    | dsimp only)

theorem setRunit_mask {m : Nat} {s0 s : State} {n unit : Nat} {r : Resolved} (hm : Sub 256 m) (hk : Mask m s0 s) :
    Mask m s0 (setRunit s n unit r) := by
  unfold setRunit
  repeat' (first
    | intro _
    | with_reducible assumption
    | with_reducible refine modCtx_mask (sub_trans (by decide) hm) ?_
    | with_reducible apply ite_mask
    | with_reducible apply ite_fst_mask
    | split
    | dsimp only)

theorem dispatchSlot_mask {m : Nat} {s0 s : State} {n unit k : Nat} (hm : Sub 18688 m) (hk : Mask m s0 s) :
    Mask m s0 (dispatchSlot s n unit k) := by
  unfold dispatchSlot
  repeat' (first
    | intro _
    | with_reducible assumption
    | with_reducible refine modLnd_mask (sub_trans (by decide) hm) ?_
    | with_reducible refine pinSlot_mask (sub_trans (by decide) hm) ?_
    | with_reducible refine setRunit_mask (sub_trans (by decide) hm) ?_
    | with_reducible apply ite_mask
    | with_reducible apply ite_fst_mask
    | split
    | dsimp only)

theorem dispatchMedia_mask {m : Nat} {s0 s : State} {n ns unit suite u : Nat} (hm : Sub 38144 m) (hk : Mask m s0 s) :
    Mask m s0 (dispatchMedia s n ns unit suite u) := by
  unfold dispatchMedia
  repeat' (first
    | intro _
    | with_reducible assumption
    | with_reducible refine modPan_mask (sub_trans (by decide) hm) ?_
    | with_reducible refine readUnit_mask (sub_trans (by decide) hm) ?_
    | with_reducible refine setRunit_mask (sub_trans (by decide) hm) ?_
    | with_reducible refine opt_mask (by assumption) ?_
    | with_reducible apply some_maskO
    | with_reducible apply none_maskO
    | with_reducible apply ite_maskO
    | with_reducible apply map_maskO
    | with_reducible apply mapOf_maskO
    | with_reducible apply getD_mask
    | with_reducible apply ite_mask
    | with_reducible apply ite_fst_mask
    | split
    | dsimp only)

theorem wakeReaders_mask {m : Nat} {s0 s : State} {suite unit : Nat} (hm : Sub 38144 m) (hk : Mask m s0 s) :
    Mask m s0 (wakeReaders s suite unit) := by
  unfold wakeReaders
  repeat' (first
    | intro _
    | with_reducible assumption
    | with_reducible refine dispatchMedia_mask (sub_trans (by decide) hm) ?_
    | with_reducible apply each_mask
    | with_reducible apply ite_mask
    | with_reducible apply ite_fst_mask
    | split
    | dsimp only)

theorem acceptCells_mask {μ : Nat} {s0 s : State} {f k row m : Nat} {verify : Bool} (hm : Sub 3072 μ) (hk : Mask μ s0 s) :
    Mask μ s0 (acceptCells s f k row m verify) := by
  unfold acceptCells
  repeat' (first
    | intro _
    | with_reducible assumption
    | with_reducible refine freeSlot_mask (sub_trans (by decide) hm) ?_
    | with_reducible refine modMember_mask (sub_trans (by decide) hm) ?_
    | with_reducible refine modPan_mask (sub_trans (by decide) hm) ?_
    | with_reducible refine modSlot_mask (sub_trans (by decide) hm) ?_
    | with_reducible apply each_mask
    | with_reducible apply ite_mask
    | with_reducible apply ite_fst_mask
    | split
    | dsimp only)

theorem completeRow_mask {m : Nat} {s0 s : State} {f k row : Nat} (hm : Sub 6400 m) (hk : Mask m s0 s) :
    Mask m s0 (completeRow s f k row) := by
  unfold completeRow
  repeat' (first
    | intro _
    | with_reducible assumption
    | with_reducible refine modRow_mask (sub_trans (by decide) hm) ?_
    | with_reducible refine programOp_mask (sub_trans (by decide) hm) ?_
    | with_reducible apply ite_mask
    | with_reducible apply ite_fst_mask
    | split
    | dsimp only)

theorem settleRows_mask {m : Nat} {s0 : State} (hm : Sub 2048 m) (k : Nat) : ∀ {s : State} {f : Nat}, Mask m s0 s → Mask m s0 (settleRows k s f) := by
  induction k with
  | zero =>
    intro s f hk
    unfold settleRows
    repeat' (first
    | intro _
    | with_reducible assumption
    | with_reducible refine freeSlot_mask (sub_trans (by decide) hm) ?_
    | with_reducible refine modFront_mask (sub_trans (by decide) hm) ?_
    | with_reducible apply each_mask
    | with_reducible apply ite_mask
    | with_reducible apply ite_fst_mask
    | split
    | dsimp only)
  | succ k ih =>
    intro s f hk
    unfold settleRows
    repeat' (first
    | with_reducible apply ih
    | intro _
    | with_reducible assumption
    | with_reducible refine freeSlot_mask (sub_trans (by decide) hm) ?_
    | with_reducible refine modFront_mask (sub_trans (by decide) hm) ?_
    | with_reducible apply each_mask
    | with_reducible apply ite_mask
    | with_reducible apply ite_fst_mask
    | split
    | dsimp only)

theorem rowPassed_mask {m : Nat} {s0 s : State} {f k row : Nat} (hm : Sub 2137857 m) (hk : Mask m s0 s) :
    Mask m s0 (rowPassed s f k row) := by
  unfold rowPassed
  repeat' (first
    | intro _
    | with_reducible assumption
    | with_reducible refine closedSuite_mask (sub_trans (by decide) hm) ?_
    | with_reducible refine drainCheck_mask (sub_trans (by decide) hm) ?_
    | with_reducible refine modRow_mask (sub_trans (by decide) hm) ?_
    | with_reducible refine pumpFront_mask (sub_trans (by decide) hm) _ ?_
    | with_reducible refine settleRows_mask (sub_trans (by decide) hm) _ ?_
    | with_reducible apply ite_mask
    | with_reducible apply ite_fst_mask
    | split
    | dsimp only)

theorem passCell_mask {m : Nat} {s0 s : State} {k unit : Nat} {c : WlCell} (hm : Sub 40192 m) (hk : Mask m s0 s) :
    Mask m s0 (passCell s k unit c) := by
  unfold passCell
  repeat' (first
    | intro _
    | with_reducible assumption
    | with_reducible refine freeSlot_mask (sub_trans (by decide) hm) ?_
    | with_reducible refine modPan_mask (sub_trans (by decide) hm) ?_
    | with_reducible refine modScu_mask (sub_trans (by decide) hm) ?_
    | with_reducible refine modSlot_mask (sub_trans (by decide) hm) ?_
    | with_reducible refine wakeReaders_mask (sub_trans (by decide) hm) ?_
    | with_reducible apply ite_mask
    | with_reducible apply ite_fst_mask
    | split
    | dsimp only)

theorem rebuildWord_mask {μ : Nat} {s0 s : State} {f k row m src pos : Nat} {d : Blk} {md : Meta} (hm : Sub 2048 μ) (hk : Mask μ s0 s) :
    Mask μ s0 (rebuildWord s f k row m src pos d md) := by
  unfold rebuildWord
  repeat' (first
    | intro _
    | with_reducible assumption
    | with_reducible refine modLdr_mask (sub_trans (by decide) hm) ?_
    | with_reducible apply ite_mask
    | with_reducible apply ite_fst_mask
    | split
    | dsimp only)

theorem loseReadBack_mask {m : Nat} {s0 s : State} {f k row src : Nat} (hm : Sub 38144 m) (hk : Mask m s0 s) :
    Mask m s0 (loseReadBack s f k row src) := by
  unfold loseReadBack
  repeat' (first
    | intro _
    | with_reducible assumption
    | with_reducible refine rangeLost_mask (sub_trans (by decide) hm) ?_
    | with_reducible apply each_mask
    | with_reducible apply ite_mask
    | with_reducible apply ite_fst_mask
    | split
    | dsimp only)

theorem rebuildLost_mask {μ : Nat} {s0 s : State} {f k row m src pos cause : Nat} (hm : Sub 40192 μ) (hk : Mask μ s0 s) :
    Mask μ s0 (rebuildLost s f k row m src pos cause) := by
  unfold rebuildLost
  repeat' (first
    | intro _
    | with_reducible assumption
    | with_reducible refine loseReadBack_mask (sub_trans (by decide) hm) ?_
    | with_reducible refine modLdr_mask (sub_trans (by decide) hm) ?_
    | with_reducible apply ite_mask
    | with_reducible apply ite_fst_mask
    | split
    | dsimp only)

theorem recomputeRow_mask {m : Nat} {s0 s : State} {f k row : Nat} (hm : Sub 40192 m) (hk : Mask m s0 s) :
    Mask m s0 (recomputeRow s f k row) := by
  unfold recomputeRow
  repeat' (first
    | intro _
    | with_reducible assumption
    | with_reducible refine modLdr_mask (sub_trans (by decide) hm) ?_
    | with_reducible refine modRow_mask (sub_trans (by decide) hm) ?_
    | with_reducible refine modSlot_mask (sub_trans (by decide) hm) ?_
    | with_reducible refine readMember_mask (sub_trans (by decide) hm) ?_
    | with_reducible refine rebuildLost_mask (sub_trans (by decide) hm) ?_
    | with_reducible refine opt_mask (by assumption) ?_
    | with_reducible apply some_maskO
    | with_reducible apply none_maskO
    | with_reducible apply ite_maskO
    | with_reducible apply map_maskO
    | with_reducible apply mapOf_maskO
    | with_reducible apply getD_mask
    | with_reducible apply each_mask
    | with_reducible apply ite_mask
    | with_reducible apply ite_fst_mask
    | split
    | dsimp only)

theorem memberPassed_mask {μ : Nat} {s0 s : State} {f k row m : Nat} (hm : Sub 2268937 μ) (hk : Mask μ s0 s) :
    Mask μ s0 (memberPassed s f k row m) := by
  unfold memberPassed
  repeat' (first
    | intro _
    | with_reducible assumption
    | with_reducible refine completeRow_mask (sub_trans (by decide) hm) ?_
    | with_reducible refine modMember_mask (sub_trans (by decide) hm) ?_
    | with_reducible refine passCell_mask (sub_trans (by decide) hm) ?_
    | with_reducible refine recomputeRow_mask (sub_trans (by decide) hm) ?_
    | with_reducible refine rowPassed_mask (sub_trans (by decide) hm) ?_
    | with_reducible refine settleCheck_mask (sub_trans (by decide) hm) ?_
    | with_reducible apply each_mask
    | with_reducible apply ite_mask
    | with_reducible apply ite_fst_mask
    | split
    | dsimp only)

theorem parityPassed_mask {m : Nat} {s0 s : State} {f k row : Nat} (hm : Sub 2137857 m) (hk : Mask m s0 s) :
    Mask m s0 (parityPassed s f k row) := by
  unfold parityPassed
  repeat' (first
    | intro _
    | with_reducible assumption
    | with_reducible refine modRow_mask (sub_trans (by decide) hm) ?_
    | with_reducible refine rowPassed_mask (sub_trans (by decide) hm) ?_
    | with_reducible apply ite_mask
    | with_reducible apply ite_fst_mask
    | split
    | dsimp only)

theorem programAccepted_mask {m : Nat} {s0 s : State} {n : Nat} {op : DieOp} (hm : Sub 2137856 m) (hk : Mask m s0 s) :
    Mask m s0 (programAccepted s n op) := by
  unfold programAccepted
  repeat' (first
    | intro _
    | with_reducible assumption
    | with_reducible refine acceptCells_mask (sub_trans (by decide) hm) ?_
    | with_reducible refine completeRow_mask (sub_trans (by decide) hm) ?_
    | with_reducible refine modMember_mask (sub_trans (by decide) hm) ?_
    | with_reducible refine pumpFront_mask (sub_trans (by decide) hm) _ ?_
    | with_reducible apply ite_mask
    | with_reducible apply ite_fst_mask
    | split
    | dsimp only)

theorem loseMember_mask {μ : Nat} {s0 s : State} {f k row m cause port : Nat} (hm : Sub 2137857 μ) (hk : Mask μ s0 s) :
    Mask μ s0 (loseMember s f k row m cause port) := by
  unfold loseMember
  repeat' (first
    | intro _
    | with_reducible assumption
    | with_reducible refine completeRow_mask (sub_trans (by decide) hm) ?_
    | with_reducible refine modRow_mask (sub_trans (by decide) hm) ?_
    | with_reducible refine rangeLost_mask (sub_trans (by decide) hm) ?_
    | with_reducible refine rowPassed_mask (sub_trans (by decide) hm) ?_
    | with_reducible refine setRunit_mask (sub_trans (by decide) hm) ?_
    | with_reducible apply each_mask
    | with_reducible apply ite_mask
    | with_reducible apply ite_fst_mask
    | split
    | dsimp only)

theorem memberFailed_mask {μ : Nat} {s0 s : State} {f k row m : Nat} (hm : Sub 2137857 μ) (hk : Mask μ s0 s) :
    Mask μ s0 (memberFailed s f k row m) := by
  unfold memberFailed
  repeat' (first
    | intro _
    | with_reducible assumption
    | with_reducible refine completeRow_mask (sub_trans (by decide) hm) ?_
    | with_reducible refine freeSlot_mask (sub_trans (by decide) hm) ?_
    | with_reducible refine loseMember_mask (sub_trans (by decide) hm) ?_
    | with_reducible refine modFront_mask (sub_trans (by decide) hm) ?_
    | with_reducible refine modLdr_mask (sub_trans (by decide) hm) ?_
    | with_reducible refine modMember_mask (sub_trans (by decide) hm) ?_
    | with_reducible refine modRow_mask (sub_trans (by decide) hm) ?_
    | with_reducible refine modSlot_mask (sub_trans (by decide) hm) ?_
    | with_reducible refine readMember_mask (sub_trans (by decide) hm) ?_
    | with_reducible refine rebuildLost_mask (sub_trans (by decide) hm) ?_
    | with_reducible refine rowPassed_mask (sub_trans (by decide) hm) ?_
    | with_reducible refine opt_mask (by assumption) ?_
    | with_reducible apply some_maskO
    | with_reducible apply none_maskO
    | with_reducible apply ite_maskO
    | with_reducible apply map_maskO
    | with_reducible apply mapOf_maskO
    | with_reducible apply getD_mask
    | with_reducible apply each_mask
    | with_reducible apply ite_mask
    | with_reducible apply ite_fst_mask
    | split
    | dsimp only)

theorem refillLeft_mask {μ : Nat} {s0 s : State} {f m : Nat} (hm : Sub 2137856 μ) (hk : Mask μ s0 s) :
    Mask μ s0 (refillLeft s f m) := by
  unfold refillLeft
  repeat' (first
    | intro _
    | with_reducible assumption
    | with_reducible refine completeRow_mask (sub_trans (by decide) hm) ?_
    | with_reducible refine modFront_mask (sub_trans (by decide) hm) ?_
    | with_reducible refine modRow_mask (sub_trans (by decide) hm) ?_
    | with_reducible refine releaseFront_mask (sub_trans (by decide) hm) ?_
    | with_reducible apply ite_mask
    | with_reducible apply ite_fst_mask
    | split
    | dsimp only)

theorem dropPortMembers_mask {m : Nat} {s0 s : State} {n : Nat} (hm : Sub 2137856 m) (hk : Mask m s0 s) :
    Mask m s0 (dropPortMembers s n) := by
  unfold dropPortMembers
  repeat' (first
    | intro _
    | with_reducible assumption
    | with_reducible refine endSuite_mask (sub_trans (by decide) hm) ?_
    | with_reducible refine modSuite_mask (sub_trans (by decide) hm) ?_
    | with_reducible refine pumpFront_mask (sub_trans (by decide) hm) _ ?_
    | with_reducible refine refillLeft_mask (sub_trans (by decide) hm) ?_
    | with_reducible apply each_mask
    | with_reducible apply ite_mask
    | with_reducible apply ite_fst_mask
    | split
    | dsimp only)

theorem programFailed_mask {μ : Nat} {s0 s : State} {f k row m : Nat} (hm : Sub 2137857 μ) (hk : Mask μ s0 s) :
    Mask μ s0 (programFailed s f k row m) := by
  unfold programFailed
  repeat' (first
    | intro _
    | with_reducible assumption
    | with_reducible refine endSuite_mask (sub_trans (by decide) hm) ?_
    | with_reducible refine memberFailed_mask (sub_trans (by decide) hm) ?_
    | with_reducible refine modSuite_mask (sub_trans (by decide) hm) ?_
    | with_reducible refine pumpFront_mask (sub_trans (by decide) hm) _ ?_
    | with_reducible refine refillLeft_mask (sub_trans (by decide) hm) ?_
    | with_reducible refine removeMember_mask (sub_trans (by decide) hm) ?_
    | with_reducible apply ite_mask
    | with_reducible apply ite_fst_mask
    | split
    | dsimp only)

theorem parityFailed_mask {m : Nat} {s0 s : State} {f k row : Nat} (hm : Sub 2137857 m) (hk : Mask m s0 s) :
    Mask m s0 (parityFailed s f k row) := by
  unfold parityFailed
  repeat' (first
    | intro _
    | with_reducible assumption
    | with_reducible refine modRow_mask (sub_trans (by decide) hm) ?_
    | with_reducible refine modSuite_mask (sub_trans (by decide) hm) ?_
    | with_reducible refine refillLeft_mask (sub_trans (by decide) hm) ?_
    | with_reducible refine removeMember_mask (sub_trans (by decide) hm) ?_
    | with_reducible refine rowPassed_mask (sub_trans (by decide) hm) ?_
    | with_reducible apply ite_mask
    | with_reducible apply ite_fst_mask
    | split
    | dsimp only)

theorem recomputed_mask {m : Nat} {s0 s : State} {f k row : Nat} {ok : Bool} (hm : Sub 39168 m) (hk : Mask m s0 s) :
    Mask m s0 (recomputed s f k row ok) := by
  unfold recomputed
  repeat' (first
    | intro _
    | with_reducible assumption
    | with_reducible refine modRow_mask (sub_trans (by decide) hm) ?_
    | with_reducible refine modSlot_mask (sub_trans (by decide) hm) ?_
    | with_reducible refine modSuite_mask (sub_trans (by decide) hm) ?_
    | with_reducible refine programOp_mask (sub_trans (by decide) hm) ?_
    | with_reducible apply each_mask
    | with_reducible apply ite_mask
    | with_reducible apply ite_fst_mask
    | split
    | dsimp only)

theorem rebuildComplete_mask {μ : Nat} {s0 s : State} {f row m : Nat} (hm : Sub 2154241 μ) (hk : Mask μ s0 s) :
    Mask μ s0 (rebuildComplete s f row m) := by
  unfold rebuildComplete
  repeat' (first
    | intro _
    | with_reducible assumption
    | with_reducible refine completeRow_mask (sub_trans (by decide) hm) ?_
    | with_reducible refine dispatchSlot_mask (sub_trans (by decide) hm) ?_
    | with_reducible refine loseMember_mask (sub_trans (by decide) hm) ?_
    | with_reducible refine modFront_mask (sub_trans (by decide) hm) ?_
    | with_reducible refine modLdr_mask (sub_trans (by decide) hm) ?_
    | with_reducible refine modMember_mask (sub_trans (by decide) hm) ?_
    | with_reducible refine modPan_mask (sub_trans (by decide) hm) ?_
    | with_reducible refine modRow_mask (sub_trans (by decide) hm) ?_
    | with_reducible refine pumpFront_mask (sub_trans (by decide) hm) _ ?_
    | with_reducible refine recomputed_mask (sub_trans (by decide) hm) ?_
    | with_reducible refine rowPassed_mask (sub_trans (by decide) hm) ?_
    | with_reducible refine takeSlot_mask (sub_trans (by decide) hm) ?_
    | with_reducible refine fst_mask (by assumption) ?_
    | with_reducible apply each_mask
    | with_reducible apply ite_mask
    | with_reducible apply ite_fst_mask
    | split
    | dsimp only)

theorem supersede_mask {m : Nat} {s0 s : State} {ns unit newTag : Nat} (hm : Sub 3072 m) (hk : Mask m s0 s) :
    Mask m s0 (supersede s ns unit newTag) := by
  unfold supersede
  repeat' (first
    | intro _
    | with_reducible assumption
    | with_reducible refine addDep_mask (sub_trans (by decide) hm) ?_
    | with_reducible refine freeSlot_mask (sub_trans (by decide) hm) ?_
    | with_reducible refine modFront_mask (sub_trans (by decide) hm) ?_
    | with_reducible refine modSlot_mask (sub_trans (by decide) hm) ?_
    | with_reducible apply ite_mask
    | with_reducible apply ite_fst_mask
    | split
    | dsimp only)

theorem slotUe_mask {m : Nat} {s0 s : State} {k : Nat} (hm : Sub 171785 m) (hk : Mask m s0 s) :
    Mask m s0 (slotUe s k) := by
  unfold slotUe
  repeat' (first
    | intro _
    | with_reducible assumption
    | with_reducible refine modFront_mask (sub_trans (by decide) hm) ?_
    | with_reducible refine modSlot_mask (sub_trans (by decide) hm) ?_
    | with_reducible refine rangeLost_mask (sub_trans (by decide) hm) ?_
    | with_reducible refine set1_mask (sub_trans (by decide) hm) ?_
    | with_reducible refine settleCheck_mask (sub_trans (by decide) hm) ?_
    | with_reducible apply ite_mask
    | with_reducible apply ite_fst_mask
    | split
    | dsimp only)

theorem wtCheck_mask {m : Nat} {s0 s : State}  (hm : Sub 2137856 m) (hk : Mask m s0 s) :
    Mask m s0 (wtCheck s) := by
  unfold wtCheck
  repeat' (first
    | intro _
    | with_reducible assumption
    | with_reducible refine closeBatch_mask (sub_trans (by decide) hm) ?_
    | with_reducible refine closeHostFronts_mask (sub_trans (by decide) hm) ?_
    | with_reducible refine modLdr_mask (sub_trans (by decide) hm) ?_
    | with_reducible apply ite_mask
    | with_reducible apply ite_fst_mask
    | split
    | dsimp only)

theorem larderDrain_mask {m : Nat} {s0 s : State}  (hm : Sub 2137857 m) (hk : Mask m s0 s) :
    Mask m s0 (larderDrain s) := by
  unfold larderDrain
  repeat' (first
    | intro _
    | with_reducible assumption
    | with_reducible refine drainCheck_mask (sub_trans (by decide) hm) ?_
    | with_reducible refine endSuite_mask (sub_trans (by decide) hm) ?_
    | with_reducible refine set1_mask (sub_trans (by decide) hm) ?_
    | with_reducible apply each_mask
    | with_reducible apply ite_mask
    | with_reducible apply ite_fst_mask
    | split
    | dsimp only)

end Sys2Proof.Machine
end

