-- ==== Sys2Proof/Laws/PartsLaundryOps.lean ====
section
/-!
SUPPORT. Which parts of the state the operations and commands of LaundryOps touch.
-/
set_option linter.unusedTactic false
set_option linter.unreachableTactic false
set_option linter.unusedVariables false
namespace Sys2Proof.Machine

theorem setTracked_mask {m : Nat} {s0 s : State} {n d g v : Nat} (hm : Sub 16384 m) (hk : Mask m s0 s) :
    Mask m s0 (setTracked s n d g v) := by
  unfold setTracked
  repeat' (first
    | intro _
    | with_reducible assumption
    | with_reducible refine modLnd_mask (sub_trans (by decide) hm) ?_
    | with_reducible apply ite_mask
    | with_reducible apply ite_fst_mask
    | split
    | dsimp only)

theorem setDescLvl_mask {m : Nat} {s0 s : State} {n i sense v : Nat} (hm : Sub 16384 m) (hk : Mask m s0 s) :
    Mask m s0 (setDescLvl s n i sense v) := by
  unfold setDescLvl
  repeat' (first
    | intro _
    | with_reducible assumption
    | with_reducible refine modLnd_mask (sub_trans (by decide) hm) ?_
    | with_reducible apply ite_mask
    | with_reducible apply ite_fst_mask
    | split
    | dsimp only)

theorem queueCal_mask {m : Nat} {s0 s : State} {n d g : Nat} {w : Option (Nat × Nat)} (hm : Sub 16384 m) (hk : Mask m s0 s) :
    Mask m s0 (queueCal s n d g w) := by
  unfold queueCal
  repeat' (first
    | intro _
    | with_reducible assumption
    | with_reducible refine modLnd_mask (sub_trans (by decide) hm) ?_
    | with_reducible apply ite_mask
    | with_reducible apply ite_fst_mask
    | split
    | dsimp only)

theorem track_mask {m : Nat} {s0 s : State} {n : Nat} {op : DieOp} {g ones zeros : Nat} (hm : Sub 16384 m) (hk : Mask m s0 s) :
    Mask m s0 (track s n op g ones zeros) := by
  unfold track
  repeat' (first
    | intro _
    | with_reducible assumption
    | with_reducible refine modLnd_mask (sub_trans (by decide) hm) ?_
    | with_reducible refine queueCal_mask (sub_trans (by decide) hm) ?_
    | with_reducible refine setTracked_mask (sub_trans (by decide) hm) ?_
    | with_reducible apply ite_mask
    | with_reducible apply ite_fst_mask
    | split
    | dsimp only)

theorem retireDie_mask {m : Nat} {s0 s : State} {n d : Nat} (hm : Sub 33800 m) (hk : Mask m s0 s) :
    Mask m s0 (retireDie s n d) := by
  unfold retireDie
  repeat' (first
    | intro _
    | with_reducible assumption
    | with_reducible refine jAppend_mask (sub_trans (by decide) hm) ?_
    | with_reducible refine modScu_mask (sub_trans (by decide) hm) ?_
    | with_reducible refine post_mask (sub_trans (by decide) hm) ?_
    | with_reducible apply ite_mask
    | with_reducible apply ite_fst_mask
    | split
    | dsimp only)

theorem notice_mask {m : Nat} {s0 s : State} {kind n : Nat} {op : DieOp} (hm : Sub 33800 m) (hk : Mask m s0 s) :
    Mask m s0 (notice s kind n op) := by
  unfold notice
  repeat' (first
    | intro _
    | with_reducible assumption
    | with_reducible refine modScu_mask (sub_trans (by decide) hm) ?_
    | with_reducible refine modSuite_mask (sub_trans (by decide) hm) ?_
    | with_reducible refine retireDie_mask (sub_trans (by decide) hm) ?_
    | with_reducible apply ite_mask
    | with_reducible apply ite_fst_mask
    | split
    | dsimp only)

theorem mergeSlot_mask {m : Nat} {s0 s : State} {n k : Nat} {d : Blk} {md : Meta} (hm : Sub 2048 m) (hk : Mask m s0 s) :
    Mask m s0 (mergeSlot s n k d md) := by
  unfold mergeSlot
  repeat' (first
    | intro _
    | with_reducible assumption
    | with_reducible refine modSlot_mask (sub_trans (by decide) hm) ?_
    | with_reducible apply ite_mask
    | with_reducible apply ite_fst_mask
    | split
    | dsimp only)

theorem mergeFailed_mask {m : Nat} {s0 s : State} {n : Nat} (hm : Sub 139008 m) (hk : Mask m s0 s) :
    Mask m s0 (mergeFailed s n) := by
  unfold mergeFailed
  repeat' (first
    | intro _
    | with_reducible assumption
    | with_reducible refine finish_mask (sub_trans (by decide) hm) ?_
    | with_reducible refine modCtx_mask (sub_trans (by decide) hm) ?_
    | with_reducible refine returnSlots_mask (sub_trans (by decide) hm) ?_
    | with_reducible apply ite_mask
    | with_reducible apply ite_fst_mask
    | split
    | dsimp only)

theorem copyWord_mask {m : Nat} {s0 s : State} {k suite : Nat} {d : Blk} {md : Meta} (hm : Sub 2137856 m) (hk : Mask m s0 s) :
    Mask m s0 (copyWord s k suite d md) := by
  unfold copyWord
  repeat' (first
    | intro _
    | with_reducible assumption
    | with_reducible refine joinReclaim_mask (sub_trans (by decide) hm) ?_
    | with_reducible refine modSlot_mask (sub_trans (by decide) hm) ?_
    | with_reducible apply ite_mask
    | with_reducible apply ite_fst_mask
    | split
    | dsimp only)

theorem deliver_mask {m : Nat} {s0 s : State} {n : Nat} {op : DieOp} {d : Blk} {md : Meta} (hm : Sub 2154240 m) (hk : Mask m s0 s) :
    Mask m s0 (deliver s n op d md) := by
  unfold deliver
  repeat' (first
    | intro _
    | with_reducible assumption
    | with_reducible refine copyWord_mask (sub_trans (by decide) hm) ?_
    | with_reducible refine mergeSlot_mask (sub_trans (by decide) hm) ?_
    | with_reducible refine modLnd_mask (sub_trans (by decide) hm) ?_
    | with_reducible refine modSlot_mask (sub_trans (by decide) hm) ?_
    | with_reducible refine rebuildWord_mask (sub_trans (by decide) hm) ?_
    | with_reducible apply ite_mask
    | with_reducible apply ite_fst_mask
    | split
    | dsimp only)

theorem paceDown_mask {m : Nat} {s0 s : State} {n : Nat} {op : DieOp} (hm : Sub 16384 m) (hk : Mask m s0 s) :
    Mask m s0 (paceDown s n op) := by
  unfold paceDown
  repeat' (first
    | intro _
    | with_reducible assumption
    | with_reducible refine modLnd_mask (sub_trans (by decide) hm) ?_
    | with_reducible apply ite_mask
    | with_reducible apply ite_fst_mask
    | split
    | dsimp only)

theorem secondRead_mask {m : Nat} {s0 s : State} {n : Nat} {op : DieOp} {k u : Nat} (hm : Sub 54528 m) (hk : Mask m s0 s) :
    Mask m s0 (secondRead s n op k u) := by
  unfold secondRead
  repeat' (first
    | intro _
    | with_reducible assumption
    | with_reducible refine modLnd_mask (sub_trans (by decide) hm) ?_
    | with_reducible refine queueCal_mask (sub_trans (by decide) hm) ?_
    | with_reducible refine readUnit_mask (sub_trans (by decide) hm) ?_
    | with_reducible refine setUncorr_mask (sub_trans (by decide) hm) ?_
    | with_reducible refine opt_mask (by assumption) ?_
    | with_reducible apply some_maskO
    | with_reducible apply none_maskO
    | with_reducible apply ite_maskO
    | with_reducible apply map_maskO
    | with_reducible apply mapOf_maskO
    | with_reducible apply getD_mask
    | with_reducible apply each_mask
    | with_reducible apply ite_mask
    | with_reducible apply ite_fst_mask
    | split
    | dsimp only)

theorem deliverFail_mask {m : Nat} {s0 s : State} {n : Nat} {op : DieOp} {portLost : Bool} (hm : Sub 188160 m) (hk : Mask m s0 s) :
    Mask m s0 (deliverFail s n op portLost) := by
  unfold deliverFail
  repeat' (first
    | intro _
    | with_reducible assumption
    | with_reducible refine freeSlot_mask (sub_trans (by decide) hm) ?_
    | with_reducible refine mergeFailed_mask (sub_trans (by decide) hm) ?_
    | with_reducible refine modLnd_mask (sub_trans (by decide) hm) ?_
    | with_reducible refine modScu_mask (sub_trans (by decide) hm) ?_
    | with_reducible refine paceDown_mask (sub_trans (by decide) hm) ?_
    | with_reducible refine rebuildLost_mask (sub_trans (by decide) hm) ?_
    | with_reducible refine secondRead_mask (sub_trans (by decide) hm) ?_
    | with_reducible refine setRunit_mask (sub_trans (by decide) hm) ?_
    | with_reducible refine unpinMedia_mask (sub_trans (by decide) hm) ?_
    | with_reducible apply each_mask
    | with_reducible apply ite_mask
    | with_reducible apply ite_fst_mask
    | split
    | dsimp only)

theorem modClimb_mask {m : Nat} {s0 s : State} {n i : Nat} {f : Climb → Climb} (hm : Sub 16384 m) (hk : Mask m s0 s) :
    Mask m s0 (modClimb s n i f) := by
  unfold modClimb
  repeat' (first
    | intro _
    | with_reducible assumption
    | with_reducible refine modLnd_mask (sub_trans (by decide) hm) ?_
    | with_reducible apply ite_mask
    | with_reducible apply ite_fst_mask
    | split
    | dsimp only)

theorem readDone_mask {m : Nat} {s0 s : State} {n i : Nat} (hm : Sub 8193 m) (hk : Mask m s0 s) :
    Mask m s0 (readDone s n i) := by
  unfold readDone
  repeat' (first
    | intro _
    | with_reducible assumption
    | with_reducible refine bump_mask (sub_trans (by decide) hm) ?_
    | with_reducible refine modSeq_mask (sub_trans (by decide) hm) ?_
    | with_reducible refine raise_mask (sub_trans (by decide) hm) ?_
    | with_reducible apply ite_mask
    | with_reducible apply ite_fst_mask
    | split
    | dsimp only)

theorem endCw_mask {m : Nat} {s0 s : State} {n i cw : Nat} {soft : Bool} (hm : Sub 24577 m) (hk : Mask m s0 s) :
    Mask m s0 (endCw s n i cw soft) := by
  unfold endCw
  repeat' (first
    | intro _
    | with_reducible assumption
    | with_reducible refine modClimb_mask (sub_trans (by decide) hm) ?_
    | with_reducible refine modSeq_mask (sub_trans (by decide) hm) ?_
    | with_reducible refine readDone_mask (sub_trans (by decide) hm) ?_
    | with_reducible apply ite_mask
    | with_reducible apply ite_fst_mask
    | split
    | dsimp only)

theorem countVerdict_mask {m : Nat} {s0 s : State} {n v : Nat} (hm : Sub 1 m) (hk : Mask m s0 s) :
    Mask m s0 (countVerdict s n v) := by
  unfold countVerdict
  repeat' (first
    | intro _
    | with_reducible assumption
    | with_reducible refine bump_mask (sub_trans (by decide) hm) ?_
    | with_reducible apply ite_mask
    | with_reducible apply ite_fst_mask
    | split
    | dsimp only)

theorem cwGood_mask {m : Nat} {s0 s : State} {n i cw v row : Nat} {op : DieOp} {d : Blk} {md : Meta} (hm : Sub 2162441 m) (hk : Mask m s0 s) :
    Mask m s0 (cwGood s n i cw v row op d md) := by
  unfold cwGood
  repeat' (first
    | intro _
    | with_reducible assumption
    | with_reducible refine countVerdict_mask (sub_trans (by decide) hm) ?_
    | with_reducible refine deliver_mask (sub_trans (by decide) hm) ?_
    | with_reducible refine endCw_mask (sub_trans (by decide) hm) ?_
    | with_reducible refine modClimb_mask (sub_trans (by decide) hm) ?_
    | with_reducible refine notice_mask (sub_trans (by decide) hm) ?_
    | with_reducible apply each_mask
    | with_reducible apply ite_mask
    | with_reducible apply ite_fst_mask
    | split
    | dsimp only)

theorem cwBad_mask {m : Nat} {s0 s : State} {n i cw v : Nat} {op : DieOp} {portLost : Bool} (hm : Sub 196361 m) (hk : Mask m s0 s) :
    Mask m s0 (cwBad s n i cw v op portLost) := by
  unfold cwBad
  repeat' (first
    | intro _
    | with_reducible assumption
    | with_reducible refine countVerdict_mask (sub_trans (by decide) hm) ?_
    | with_reducible refine deliverFail_mask (sub_trans (by decide) hm) ?_
    | with_reducible refine endCw_mask (sub_trans (by decide) hm) ?_
    | with_reducible refine modClimb_mask (sub_trans (by decide) hm) ?_
    | with_reducible refine notice_mask (sub_trans (by decide) hm) ?_
    | with_reducible apply each_mask
    | with_reducible apply ite_mask
    | with_reducible apply ite_fst_mask
    | split
    | dsimp only)

theorem startStripe_mask {m : Nat} {s0 s : State} {n : Nat} {op : DieOp} {cw : Nat} {soft : Bool} (hm : Sub 53504 m) (hk : Mask m s0 s) :
    MaskO m s0 (startStripe s n op cw soft) := by
  unfold startStripe
  repeat' (first
    | intro _
    | with_reducible assumption
    | with_reducible refine modLnd_mask (sub_trans (by decide) hm) ?_
    | with_reducible refine readMember_mask (sub_trans (by decide) hm) ?_
    | with_reducible refine opt_mask (by assumption) ?_
    | with_reducible apply some_maskO
    | with_reducible apply none_maskO
    | with_reducible apply ite_maskO
    | with_reducible apply map_maskO
    | with_reducible apply mapOf_maskO
    | with_reducible apply getD_mask
    | with_reducible apply each_mask
    | with_reducible apply ite_mask
    | with_reducible apply ite_fst_mask
    | split
    | dsimp only)

theorem stripeDone_mask {m : Nat} {s0 s : State} {id : Nat} (hm : Sub 2285321 m) (hk : Mask m s0 s) :
    Mask m s0 (stripeDone s id) := by
  unfold stripeDone
  repeat' (first
    | intro _
    | with_reducible assumption
    | with_reducible refine countVerdict_mask (sub_trans (by decide) hm) ?_
    | with_reducible refine deliver_mask (sub_trans (by decide) hm) ?_
    | with_reducible refine deliverFail_mask (sub_trans (by decide) hm) ?_
    | with_reducible refine modLnd_mask (sub_trans (by decide) hm) ?_
    | with_reducible refine notice_mask (sub_trans (by decide) hm) ?_
    | with_reducible refine post_mask (sub_trans (by decide) hm) ?_
    | with_reducible apply each_mask
    | with_reducible apply ite_mask
    | with_reducible apply ite_fst_mask
    | split
    | dsimp only)

theorem nextRow_mask {m : Nat} {s0 s : State} {n i : Nat} (hm : Sub 196361 m) (hk : Mask m s0 s) :
    Mask m s0 (nextRow s n i) := by
  unfold nextRow
  repeat' (first
    | intro _
    | with_reducible assumption
    | with_reducible refine countRead_mask (sub_trans (by decide) hm) ?_
    | with_reducible refine cwBad_mask (sub_trans (by decide) hm) ?_
    | with_reducible refine endCw_mask (sub_trans (by decide) hm) ?_
    | with_reducible refine modClimb_mask (sub_trans (by decide) hm) ?_
    | with_reducible refine modSeq_mask (sub_trans (by decide) hm) ?_
    | with_reducible refine raise_mask (sub_trans (by decide) hm) ?_
    | with_reducible refine setDescArg_mask (sub_trans (by decide) hm) ?_
    | with_reducible refine setDescLvl_mask (sub_trans (by decide) hm) ?_
    | with_reducible refine startStripe_mask (sub_trans (by decide) hm) ?_
    | with_reducible refine opt_mask (by assumption) ?_
    | with_reducible apply some_maskO
    | with_reducible apply none_maskO
    | with_reducible apply ite_maskO
    | with_reducible apply map_maskO
    | with_reducible apply mapOf_maskO
    | with_reducible apply getD_mask
    | with_reducible apply each_mask
    | with_reducible apply ite_mask
    | with_reducible apply ite_fst_mask
    | split
    | dsimp only)

theorem joinClimb_mask {m : Nat} {s0 s : State} {n i cw : Nat} {op : DieOp} (hm : Sub 61697 m) (hk : Mask m s0 s) :
    MaskO m s0 (joinClimb s n i cw op) := by
  unfold joinClimb
  repeat' (first
    | intro _
    | with_reducible assumption
    | with_reducible refine endCw_mask (sub_trans (by decide) hm) ?_
    | with_reducible refine modClimb_mask (sub_trans (by decide) hm) ?_
    | with_reducible refine startStripe_mask (sub_trans (by decide) hm) ?_
    | with_reducible refine opt_mask (by assumption) ?_
    | with_reducible apply some_maskO
    | with_reducible apply none_maskO
    | with_reducible apply ite_maskO
    | with_reducible apply map_maskO
    | with_reducible apply mapOf_maskO
    | with_reducible apply getD_mask
    | with_reducible apply ite_mask
    | with_reducible apply ite_fst_mask
    | split
    | dsimp only)

theorem cwFailed_mask {m : Nat} {s0 s : State} {n i cw : Nat} {found : Option (Nat × Nat × Nat)} (hm : Sub 196361 m) (hk : Mask m s0 s) :
    Mask m s0 (cwFailed s n i cw found) := by
  unfold cwFailed
  repeat' (first
    | intro _
    | with_reducible assumption
    | with_reducible refine modClimb_mask (sub_trans (by decide) hm) ?_
    | with_reducible refine nextRow_mask (sub_trans (by decide) hm) ?_
    | with_reducible apply ite_mask
    | with_reducible apply ite_fst_mask
    | split
    | dsimp only)

theorem landHandover_mask {m : Nat} {s0 s : State} {n i : Nat} {op : DieOp} (hm : Sub 24576 m) (hk : Mask m s0 s) :
    Mask m s0 (landHandover s n i op) := by
  unfold landHandover
  repeat' (first
    | intro _
    | with_reducible assumption
    | with_reducible refine modLnd_mask (sub_trans (by decide) hm) ?_
    | with_reducible refine setDescArg_mask (sub_trans (by decide) hm) ?_
    | with_reducible refine setDescLvl_mask (sub_trans (by decide) hm) ?_
    | with_reducible apply ite_mask
    | with_reducible apply ite_fst_mask
    | split
    | dsimp only)

theorem landHardIn_mask {m : Nat} {s0 s : State} {n i cw : Nat} (hm : Sub 16384 m) (hk : Mask m s0 s) :
    Mask m s0 (landHardIn s n i cw) := by
  unfold landHardIn
  repeat' (first
    | intro _
    | with_reducible assumption
    | with_reducible refine modClimb_mask (sub_trans (by decide) hm) ?_
    | with_reducible refine modLnd_mask (sub_trans (by decide) hm) ?_
    | with_reducible apply ite_mask
    | with_reducible apply ite_fst_mask
    | split
    | dsimp only)

theorem landLadderRetire_mask {m : Nat} {s0 s : State} {n : Nat} (hm : Sub 188161 m) (hk : Mask m s0 s) :
    Mask m s0 (landLadderRetire s n) := by
  unfold landLadderRetire
  repeat' (first
    | intro _
    | with_reducible assumption
    | with_reducible refine countVerdict_mask (sub_trans (by decide) hm) ?_
    | with_reducible refine deliverFail_mask (sub_trans (by decide) hm) ?_
    | with_reducible refine modLnd_mask (sub_trans (by decide) hm) ?_
    | with_reducible refine startStripe_mask (sub_trans (by decide) hm) ?_
    | with_reducible refine opt_mask (by assumption) ?_
    | with_reducible apply some_maskO
    | with_reducible apply none_maskO
    | with_reducible apply ite_maskO
    | with_reducible apply map_maskO
    | with_reducible apply mapOf_maskO
    | with_reducible apply getD_mask
    | with_reducible apply each_mask
    | with_reducible apply ite_mask
    | with_reducible apply ite_fst_mask
    | split
    | dsimp only)

theorem readLost_mask {m : Nat} {s0 s : State} {n : Nat} {op : DieOp} {portLost : Bool} (hm : Sub 188169 m) (hk : Mask m s0 s) :
    Mask m s0 (readLost s n op portLost) := by
  unfold readLost
  repeat' (first
    | intro _
    | with_reducible assumption
    | with_reducible refine countVerdict_mask (sub_trans (by decide) hm) ?_
    | with_reducible refine deliverFail_mask (sub_trans (by decide) hm) ?_
    | with_reducible refine notice_mask (sub_trans (by decide) hm) ?_
    | with_reducible refine startStripe_mask (sub_trans (by decide) hm) ?_
    | with_reducible refine opt_mask (by assumption) ?_
    | with_reducible apply some_maskO
    | with_reducible apply none_maskO
    | with_reducible apply ite_maskO
    | with_reducible apply map_maskO
    | with_reducible apply mapOf_maskO
    | with_reducible apply getD_mask
    | with_reducible apply each_mask
    | with_reducible apply ite_mask
    | with_reducible apply ite_fst_mask
    | split
    | dsimp only)

end Sys2Proof.Machine
end

