-- ==== Sys2Proof/Laws/PartsEngines.lean ====
section
/-!
SUPPORT. Which parts of the state the operations and commands of Engines touch.
-/
set_option linter.unusedTactic false
set_option linter.unreachableTactic false
set_option linter.unusedVariables false
namespace Sys2Proof.Machine

theorem erasePassed_mask {μ : Nat} {s0 s : State} {k m : Nat} (hm : Sub 32768 μ) (hk : Mask μ s0 s) :
    Mask μ s0 (erasePassed s k m) := by
  unfold erasePassed
  repeat' (first
    | intro _
    | with_reducible assumption
    | with_reducible refine modScu_mask (sub_trans (by decide) hm) ?_
    | with_reducible apply ite_mask
    | with_reducible apply ite_fst_mask
    | split
    | dsimp only)

theorem eraseFailed_mask {μ : Nat} {s0 s : State} {k m : Nat} (hm : Sub 34304 μ) (hk : Mask μ s0 s) :
    Mask μ s0 (eraseFailed s k m) := by
  unfold eraseFailed
  repeat' (first
    | intro _
    | with_reducible assumption
    | with_reducible refine erasePassed_mask (sub_trans (by decide) hm) ?_
    | with_reducible refine modNvm_mask (sub_trans (by decide) hm) ?_
    | with_reducible refine modScu_mask (sub_trans (by decide) hm) ?_
    | with_reducible refine modSuite_mask (sub_trans (by decide) hm) ?_
    | with_reducible refine suiteRecord_mask (sub_trans (by decide) hm) ?_
    | with_reducible apply ite_mask
    | with_reducible apply ite_fst_mask
    | split
    | dsimp only)

theorem foldPassed_mask {μ : Nat} {s0 s : State} {k row m : Nat} (hm : Sub 2130944 μ) (hk : Mask μ s0 s) :
    Mask μ s0 (foldPassed s k row m) := by
  unfold foldPassed
  repeat' (first
    | intro _
    | with_reducible assumption
    | with_reducible refine closedSuite_mask (sub_trans (by decide) hm) ?_
    | with_reducible refine mapChange_mask (sub_trans (by decide) hm) ?_
    | with_reducible refine modScu_mask (sub_trans (by decide) hm) ?_
    | with_reducible refine modSuite_mask (sub_trans (by decide) hm) ?_
    | with_reducible refine suiteRecord_mask (sub_trans (by decide) hm) ?_
    | with_reducible apply each_mask
    | with_reducible apply ite_mask
    | with_reducible apply ite_fst_mask
    | split
    | dsimp only)

theorem foldStop_mask {m : Nat} {s0 s : State} {k : Nat} (hm : Sub 2130944 m) (hk : Mask m s0 s) :
    Mask m s0 (foldStop s k) := by
  unfold foldStop
  repeat' (first
    | intro _
    | with_reducible assumption
    | with_reducible refine closedSuite_mask (sub_trans (by decide) hm) ?_
    | with_reducible refine modScu_mask (sub_trans (by decide) hm) ?_
    | with_reducible refine modSuite_mask (sub_trans (by decide) hm) ?_
    | with_reducible apply ite_mask
    | with_reducible apply ite_fst_mask
    | split
    | dsimp only)

theorem dumpProgram_mask {m : Nat} {s0 s : State} {i wave : Nat} {slots : List Nat} {count : Nat} (hm : Sub 4352 m) (hk : Mask m s0 s) :
    Mask m s0 (dumpProgram s i wave slots count) := by
  unfold dumpProgram
  repeat' (first
    | intro _
    | with_reducible assumption
    | with_reducible refine offer_mask (sub_trans (by decide) hm) ?_
    | with_reducible apply ite_mask
    | with_reducible apply ite_fst_mask
    | split
    | dsimp only)

theorem dumpAgain_mask {m : Nat} {s0 s : State} {n : Nat} {op : DieOp} {wave : Nat} (hm : Sub 4352 m) (hk : Mask m s0 s) :
    Mask m s0 (dumpAgain s n op wave) := by
  unfold dumpAgain
  repeat' (first
    | intro _
    | with_reducible assumption
    | with_reducible refine offer_mask (sub_trans (by decide) hm) ?_
    | with_reducible apply ite_mask
    | with_reducible apply ite_fst_mask
    | split
    | dsimp only)

theorem opOutcome_mask {m : Nat} {s0 s : State} {n : Nat} {op : DieOp} {res : OpResult} (hm : Sub 2285321 m) (hk : Mask m s0 s) :
    Mask m s0 (opOutcome s n op res) := by
  unfold opOutcome
  repeat' (first
    | intro _
    | with_reducible assumption
    | with_reducible refine dumpAgain_mask (sub_trans (by decide) hm) ?_
    | with_reducible refine eraseFailed_mask (sub_trans (by decide) hm) ?_
    | with_reducible refine erasePassed_mask (sub_trans (by decide) hm) ?_
    | with_reducible refine foldPassed_mask (sub_trans (by decide) hm) ?_
    | with_reducible refine foldStop_mask (sub_trans (by decide) hm) ?_
    | with_reducible refine memberPassed_mask (sub_trans (by decide) hm) ?_
    | with_reducible refine modNvm_mask (sub_trans (by decide) hm) ?_
    | with_reducible refine parityFailed_mask (sub_trans (by decide) hm) ?_
    | with_reducible refine parityPassed_mask (sub_trans (by decide) hm) ?_
    | with_reducible refine programFailed_mask (sub_trans (by decide) hm) ?_
    | with_reducible refine readLost_mask (sub_trans (by decide) hm) ?_
    | with_reducible apply ite_mask
    | with_reducible apply ite_fst_mask
    | split
    | dsimp only)

theorem endDesc_mask {m : Nat} {s0 s : State} {n i detail : Nat} {res : OpResult} (hm : Sub 2293513 m) (hk : Mask m s0 s) :
    Mask m s0 (endDesc s n i detail res) := by
  unfold endDesc
  repeat' (first
    | intro _
    | with_reducible assumption
    | with_reducible refine leaveDie_mask (sub_trans (by decide) hm) ?_
    | with_reducible refine modSeq_mask (sub_trans (by decide) hm) ?_
    | with_reducible refine opOutcome_mask (sub_trans (by decide) hm) ?_
    | with_reducible refine raise_mask (sub_trans (by decide) hm) ?_
    | with_reducible refine setDescState_mask (sub_trans (by decide) hm) ?_
    | with_reducible refine withdraw_mask (sub_trans (by decide) hm) ?_
    | with_reducible apply ite_mask
    | with_reducible apply ite_fst_mask
    | split
    | dsimp only)

theorem endRing_mask {m : Nat} {s0 s : State} {n : Nat} {pred : DescHw → Bool} {detail : Nat} {res : OpResult} (hm : Sub 2293513 m) (hk : Mask m s0 s) :
    Mask m s0 (endRing s n pred detail res) := by
  unfold endRing
  repeat' (first
    | intro _
    | with_reducible assumption
    | with_reducible refine endDesc_mask (sub_trans (by decide) hm) ?_
    | with_reducible refine leaveDie_mask (sub_trans (by decide) hm) ?_
    | with_reducible refine modSeq_mask (sub_trans (by decide) hm) ?_
    | with_reducible refine opOutcome_mask (sub_trans (by decide) hm) ?_
    | with_reducible refine raise_mask (sub_trans (by decide) hm) ?_
    | with_reducible refine setDescState_mask (sub_trans (by decide) hm) ?_
    | with_reducible refine withdraw_mask (sub_trans (by decide) hm) ?_
    | with_reducible apply each_mask
    | with_reducible apply ite_mask
    | with_reducible apply ite_fst_mask
    | split
    | dsimp only)

theorem journalDurable_mask {m : Nat} {s0 s : State}  (hm : Sub 139017 m) (hk : Mask m s0 s) :
    Mask m s0 (journalDurable s) := by
  unfold journalDurable
  repeat' (first
    | intro _
    | with_reducible assumption
    | with_reducible refine settleCheck_mask (sub_trans (by decide) hm) ?_
    | with_reducible apply ite_mask
    | with_reducible apply ite_fst_mask
    | split
    | dsimp only)

theorem dieTempInhibit_mask {m : Nat} {s0 s : State} {n die : Nat} {half : Int} {valid : Bool} (hm : Sub 2137856 m) (hk : Mask m s0 s) :
    Mask m s0 (dieTempInhibit s n die half valid) := by
  unfold dieTempInhibit
  repeat' (first
    | intro _
    | with_reducible assumption
    | with_reducible refine modLdr_mask (sub_trans (by decide) hm) ?_
    | with_reducible refine pumpAll_mask (sub_trans (by decide) hm) ?_
    | with_reducible apply ite_mask
    | with_reducible apply ite_fst_mask
    | split
    | dsimp only)

theorem scuPortRetired_mask {m : Nat} {s0 s : State} {n cause : Nat} (hm : Sub 2137856 m) (hk : Mask m s0 s) :
    Mask m s0 (scuPortRetired s n cause) := by
  unfold scuPortRetired
  repeat' (first
    | intro _
    | with_reducible assumption
    | with_reducible refine dropPortMembers_mask (sub_trans (by decide) hm) ?_
    | with_reducible refine jAppend_mask (sub_trans (by decide) hm) ?_
    | with_reducible refine modScu_mask (sub_trans (by decide) hm) ?_
    | with_reducible apply ite_mask
    | with_reducible apply ite_fst_mask
    | split
    | dsimp only)

theorem replaceDumpSuite_mask {m : Nat} {s0 s : State} {g : Nat} (hm : Sub 33792 m) (hk : Mask m s0 s) :
    Mask m s0 (replaceDumpSuite s g) := by
  unfold replaceDumpSuite
  repeat' (first
    | intro _
    | with_reducible assumption
    | with_reducible refine modSuite_mask (sub_trans (by decide) hm) ?_
    | with_reducible refine suiteRecord_mask (sub_trans (by decide) hm) ?_
    | with_reducible apply ite_mask
    | with_reducible apply ite_fst_mask
    | split
    | dsimp only)

theorem dstEnd_mask {m : Nat} {s0 s : State} {result seg detail lba : Nat} (hm : Sub 520 m) (hk : Mask m s0 s) :
    Mask m s0 (dstEnd s result seg detail lba) := by
  unfold dstEnd
  repeat' (first
    | intro _
    | with_reducible assumption
    | with_reducible refine modAtc_mask (sub_trans (by decide) hm) ?_
    | with_reducible refine modNvm_mask (sub_trans (by decide) hm) ?_
    | with_reducible refine post_mask (sub_trans (by decide) hm) ?_
    | with_reducible apply ite_mask
    | with_reducible apply ite_fst_mask
    | split
    | dsimp only)

end Sys2Proof.Machine
end

