-- ==== Sys2Proof/Laws/PartsStairOps.lean ====
section
/-!
SUPPORT. Which parts of the state the operations and commands of StairOps touch.
-/
set_option linter.unusedTactic false
set_option linter.unreachableTactic false
set_option linter.unusedVariables false
namespace Sys2Proof.Machine

theorem setWorker_mask {m : Nat} {s0 s : State} {w st fence : Nat} (hm : Sub 131080 m) (hk : Mask m s0 s) :
    Mask m s0 (setWorker s w st fence) := by
  unfold setWorker
  repeat' (first
    | intro _
    | with_reducible assumption
    | with_reducible refine modWorker_mask (sub_trans (by decide) hm) ?_
    | with_reducible refine post_mask (sub_trans (by decide) hm) ?_
    | with_reducible apply ite_mask
    | with_reducible apply ite_fst_mask
    | split
    | dsimp only)

theorem unlose_mask {m : Nat} {s0 s : State} {ns a n : Nat} (hm : Sub 512 m) (hk : Mask m s0 s) :
    Mask m s0 (unlose s ns a n) := by
  unfold unlose
  repeat' (first
    | intro _
    | with_reducible assumption
    | with_reducible refine modNvm_mask (sub_trans (by decide) hm) ?_
    | with_reducible apply ite_mask
    | with_reducible apply ite_fst_mask
    | split
    | dsimp only)

theorem loseAt_mask {m : Nat} {s0 s : State} {ns a n : Nat} (hm : Sub 512 m) (hk : Mask m s0 s) :
    Mask m s0 (loseAt s ns a n) := by
  unfold loseAt
  repeat' (first
    | intro _
    | with_reducible assumption
    | with_reducible refine modNvm_mask (sub_trans (by decide) hm) ?_
    | with_reducible refine unlose_mask (sub_trans (by decide) hm) ?_
    | with_reducible apply ite_mask
    | with_reducible apply ite_fst_mask
    | split
    | dsimp only)

theorem armWorker_mask {m : Nat} {s0 s : State} {w nsid first count cause : Nat} (hm : Sub 1280 m) (hk : Mask m s0 s) :
    Mask m s0 (armWorker s w nsid first count cause) := by
  unfold armWorker
  repeat' (first
    | intro _
    | with_reducible assumption
    | with_reducible refine jAppend_mask (sub_trans (by decide) hm) ?_
    | with_reducible refine modHall_mask (sub_trans (by decide) hm) ?_
    | with_reducible apply ite_mask
    | with_reducible apply ite_fst_mask
    | split
    | dsimp only)

theorem armUnsettled_mask {m : Nat} {s0 s : State} {w : Nat} (hm : Sub 139017 m) (hk : Mask m s0 s) :
    Mask m s0 (armUnsettled s w) := by
  unfold armUnsettled
  repeat' (first
    | intro _
    | with_reducible assumption
    | with_reducible refine armWorker_mask (sub_trans (by decide) hm) ?_
    | with_reducible refine modHall_mask (sub_trans (by decide) hm) ?_
    | with_reducible refine modSta_mask (sub_trans (by decide) hm) ?_
    | with_reducible refine settleCheck_mask (sub_trans (by decide) hm) ?_
    | with_reducible apply each_mask
    | with_reducible apply ite_mask
    | with_reducible apply ite_fst_mask
    | split
    | dsimp only)

theorem endReq_mask {m : Nat} {s0 s : State} {r : StairReq} {sct sc : Nat} (hm : Sub 137984 m) (hk : Mask m s0 s) :
    Mask m s0 (endReq s r sct sc) := by
  unfold endReq
  repeat' (first
    | intro _
    | with_reducible assumption
    | with_reducible refine finish_mask (sub_trans (by decide) hm) ?_
    | with_reducible refine freeSlot_mask (sub_trans (by decide) hm) ?_
    | with_reducible refine modCtx_mask (sub_trans (by decide) hm) ?_
    | with_reducible refine modSta_mask (sub_trans (by decide) hm) ?_
    | with_reducible refine setRunit_mask (sub_trans (by decide) hm) ?_
    | with_reducible apply each_mask
    | with_reducible apply ite_mask
    | with_reducible apply ite_fst_mask
    | split
    | dsimp only)

theorem workerLost_mask {m : Nat} {s0 s : State} {w : Nat} (hm : Sub 139017 m) (hk : Mask m s0 s) :
    Mask m s0 (workerLost s w) := by
  unfold workerLost
  repeat' (first
    | intro _
    | with_reducible assumption
    | with_reducible refine armUnsettled_mask (sub_trans (by decide) hm) ?_
    | with_reducible refine armWorker_mask (sub_trans (by decide) hm) ?_
    | with_reducible refine endReq_mask (sub_trans (by decide) hm) ?_
    | with_reducible refine modWorker_mask (sub_trans (by decide) hm) ?_
    | with_reducible refine setWorker_mask (sub_trans (by decide) hm) ?_
    | with_reducible apply each_mask
    | with_reducible apply ite_mask
    | with_reducible apply ite_fst_mask
    | split
    | dsimp only)

theorem sendReqOn_mask {m : Nat} {s0 s : State} {r : StairReq} {n : Nat} {again : Bool} (hm : Sub 135168 m) (hk : Mask m s0 s) :
    Mask m s0 (sendReqOn s r n again) := by
  unfold sendReqOn
  repeat' (first
    | intro _
    | with_reducible assumption
    | with_reducible refine modSta_mask (sub_trans (by decide) hm) ?_
    | with_reducible refine stairTx_mask (sub_trans (by decide) hm) ?_
    | with_reducible apply each_mask
    | with_reducible apply ite_mask
    | with_reducible apply ite_fst_mask
    | split
    | dsimp only)

theorem stairPump_mask {m : Nat} {s0 s : State} {w : Nat} (hm : Sub 135168 m) (hk : Mask m s0 s) :
    Mask m s0 (stairPump s w) := by
  unfold stairPump
  repeat' (first
    | intro _
    | with_reducible assumption
    | with_reducible refine modWorker_mask (sub_trans (by decide) hm) ?_
    | with_reducible refine sendReqOn_mask (sub_trans (by decide) hm) ?_
    | with_reducible apply each_mask
    | with_reducible apply ite_mask
    | with_reducible apply ite_fst_mask
    | split
    | dsimp only)

theorem stairAsk_mask {m : Nat} {s0 s : State} {r : StairReq} (hm : Sub 135168 m) (hk : Mask m s0 s) :
    Mask m s0 (stairAsk s r) := by
  unfold stairAsk
  repeat' (first
    | intro _
    | with_reducible assumption
    | with_reducible refine modSta_mask (sub_trans (by decide) hm) ?_
    | with_reducible refine stairPump_mask (sub_trans (by decide) hm) ?_
    | with_reducible apply ite_mask
    | with_reducible apply ite_fst_mask
    | split
    | dsimp only)

theorem askUnits_mask {m : Nat} {s0 s : State} {n w ns ext : Nat} {units : List Nat} {base : SReq} {part : Tbl (Nat × Nat)} (hm : Sub 135168 m) (hk : Mask m s0 s) :
    Mask m s0 (askUnits s n w ns ext units base part) := by
  unfold askUnits
  repeat' (first
    | intro _
    | with_reducible assumption
    | with_reducible refine stairAsk_mask (sub_trans (by decide) hm) ?_
    | with_reducible apply each_mask
    | with_reducible apply ite_mask
    | with_reducible apply ite_fst_mask
    | split
    | dsimp only)

theorem askBarrier_mask {m : Nat} {s0 s : State} {n : Nat} {base : SReq} {size : Nat → Nat} (hm : Sub 135168 m) (hk : Mask m s0 s) :
    Mask m s0 (askBarrier s n base size) := by
  unfold askBarrier
  repeat' (first
    | intro _
    | with_reducible assumption
    | with_reducible refine stairAsk_mask (sub_trans (by decide) hm) ?_
    | with_reducible apply each_mask
    | with_reducible apply ite_mask
    | with_reducible apply ite_fst_mask
    | split
    | dsimp only)

theorem sendJoin_mask {m : Nat} {s0 s : State} {n : Nat} (hm : Sub 4096 m) (hk : Mask m s0 s) :
    Mask m s0 (sendJoin s n) := by
  unfold sendJoin
  repeat' (first
    | intro _
    | with_reducible assumption
    | with_reducible refine stairTx_mask (sub_trans (by decide) hm) ?_
    | with_reducible apply ite_mask
    | with_reducible apply ite_fst_mask
    | split
    | dsimp only)

theorem staLinkUp_mask {m : Nat} {s0 s : State} {n : Nat} (hm : Sub 4096 m) (hk : Mask m s0 s) :
    Mask m s0 (staLinkUp s n) := by
  unfold staLinkUp
  repeat' (first
    | intro _
    | with_reducible assumption
    | with_reducible refine sendJoin_mask (sub_trans (by decide) hm) ?_
    | with_reducible apply ite_mask
    | with_reducible apply ite_fst_mask
    | split
    | dsimp only)

theorem staLinkLost_mask {m : Nat} {s0 s : State} {n : Nat} (hm : Sub 139017 m) (hk : Mask m s0 s) :
    Mask m s0 (staLinkLost s n) := by
  unfold staLinkLost
  repeat' (first
    | intro _
    | with_reducible assumption
    | with_reducible refine armWorker_mask (sub_trans (by decide) hm) ?_
    | with_reducible refine endReq_mask (sub_trans (by decide) hm) ?_
    | with_reducible refine modSta_mask (sub_trans (by decide) hm) ?_
    | with_reducible refine modWorker_mask (sub_trans (by decide) hm) ?_
    | with_reducible refine stairPump_mask (sub_trans (by decide) hm) ?_
    | with_reducible refine workerLost_mask (sub_trans (by decide) hm) ?_
    | with_reducible apply each_mask
    | with_reducible apply ite_mask
    | with_reducible apply ite_fst_mask
    | split
    | dsimp only)

end Sys2Proof.Machine
end

