-- ==== Sys2Proof/Laws/PartsStrongOps.lean ====
section
/-!
SUPPORT. Which parts of the state the operations and commands of StrongOps touch.
-/
set_option linter.unusedTactic false
set_option linter.unreachableTactic false
set_option linter.unusedVariables false
namespace Sys2Proof.Machine

theorem modKslot_mask {m : Nat} {s0 s : State} {k : Nat} {f : KeySlot → KeySlot} (hm : Sub 64 m) (hk : Mask m s0 s) :
    Mask m s0 (State.modKslot s k f) := by
  unfold State.modKslot
  repeat' (first
    | intro _
    | with_reducible assumption
    | with_reducible refine modStg_mask (sub_trans (by decide) hm) ?_
    | with_reducible apply ite_mask
    | with_reducible apply ite_fst_mask
    | split
    | dsimp only)

theorem modRange_mask {m : Nat} {s0 s : State} {r : Nat} {f : LockRange → LockRange} (hm : Sub 64 m) (hk : Mask m s0 s) :
    Mask m s0 (State.modRange s r f) := by
  unfold State.modRange
  repeat' (first
    | intro _
    | with_reducible assumption
    | with_reducible refine modStg_mask (sub_trans (by decide) hm) ?_
    | with_reducible apply ite_mask
    | with_reducible apply ite_fst_mask
    | split
    | dsimp only)

theorem keysGone_mask {m : Nat} {s0 s : State} {hit : Nat → Nat → Bool} (hm : Sub 139008 m) (hk : Mask m s0 s) :
    Mask m s0 (keysGone s hit) := by
  unfold keysGone
  repeat' (first
    | intro _
    | with_reducible assumption
    | with_reducible refine cutWriter_mask (sub_trans (by decide) hm) ?_
    | with_reducible apply each_mask
    | with_reducible apply ite_mask
    | with_reducible apply ite_fst_mask
    | split
    | dsimp only)

theorem compactStore_mask {m : Nat} {s0 s : State}  (hm : Sub 64 m) (hk : Mask m s0 s) :
    Mask m s0 (compactStore s) := by
  unfold compactStore
  repeat' (first
    | intro _
    | with_reducible assumption
    | with_reducible refine modStg_mask (sub_trans (by decide) hm) ?_
    | with_reducible apply foldl_mask
    | with_reducible apply foldl_fst_mask
    | with_reducible apply ite_mask
    | with_reducible apply ite_fst_mask
    | split
    | dsimp only)

theorem appendBlob_mask {m : Nat} {s0 s : State} {b : Blob} (hm : Sub 64 m) (hk : Mask m s0 s) :
    MaskO m s0 (appendBlob s b) := by
  unfold appendBlob
  repeat' (first
    | intro _
    | with_reducible assumption
    | with_reducible refine compactStore_mask (sub_trans (by decide) hm) ?_
    | with_reducible refine modStg_mask (sub_trans (by decide) hm) ?_
    | with_reducible refine opt_mask (by assumption) ?_
    | with_reducible apply some_maskO
    | with_reducible apply none_maskO
    | with_reducible apply ite_maskO
    | with_reducible apply map_maskO
    | with_reducible apply mapOf_maskO
    | with_reducible apply getD_mask
    | with_reducible apply ite_mask
    | with_reducible apply ite_fst_mask
    | split
    | dsimp only)

theorem eraseStale_mask {m : Nat} {s0 s : State}  (hm : Sub 64 m) (hk : Mask m s0 s) :
    Mask m s0 (eraseStale s) := by
  unfold eraseStale
  repeat' (first
    | intro _
    | with_reducible assumption
    | with_reducible refine modStg_mask (sub_trans (by decide) hm) ?_
    | with_reducible apply ite_mask
    | with_reducible apply ite_fst_mask
    | split
    | dsimp only)

theorem drbg_mask {m : Nat} {s0 s : State}  (hm : Sub 64 m) (hk : Mask m s0 s) :
    Mask m s0 (drbg s) := by
  unfold drbg
  repeat' (first
    | intro _
    | with_reducible assumption
    | with_reducible refine modStg_mask (sub_trans (by decide) hm) ?_
    | with_reducible apply ite_mask
    | with_reducible apply ite_fst_mask
    | split
    | dsimp only)

theorem failSlot_mask {m : Nat} {s0 s : State} {k : Nat} {b : Binding} (hm : Sub 64 m) (hk : Mask m s0 s) :
    Mask m s0 (failSlot s k b) := by
  unfold failSlot
  repeat' (first
    | intro _
    | with_reducible assumption
    | with_reducible refine modKslot_mask (sub_trans (by decide) hm) ?_
    | with_reducible apply ite_mask
    | with_reducible apply ite_fst_mask
    | split
    | dsimp only)

theorem unwrapLoad_mask {m : Nat} {s0 s : State} {b : Binding} {slot cred : Nat} (hm : Sub 64 m) (hk : Mask m s0 s) :
    Mask m s0 (unwrapLoad s b slot cred).1 := by
  unfold unwrapLoad
  repeat' (first
    | intro _
    | with_reducible assumption
    | with_reducible refine failSlot_mask (sub_trans (by decide) hm) ?_
    | with_reducible refine modKslot_mask (sub_trans (by decide) hm) ?_
    | with_reducible apply ite_mask
    | with_reducible apply ite_fst_mask
    | split
    | dsimp only)

theorem generateKey_mask {m : Nat} {s0 s : State} {b : Binding} {gen slot : Nat} {creds : List (Nat × Nat)} (hm : Sub 2097216 m) (hk : Mask m s0 s) :
    Mask m s0 (generateKey s b gen slot creds).1 := by
  unfold generateKey
  repeat' (first
    | intro _
    | with_reducible assumption
    | with_reducible refine appendBlob_mask (sub_trans (by decide) hm) ?_
    | with_reducible refine drbg_mask (sub_trans (by decide) hm) ?_
    | with_reducible refine modKslot_mask (sub_trans (by decide) hm) ?_
    | with_reducible refine tick_mask (sub_trans (by decide) hm) ?_
    | with_reducible refine opt_mask (by assumption) ?_
    | with_reducible apply some_maskO
    | with_reducible apply none_maskO
    | with_reducible apply ite_maskO
    | with_reducible apply map_maskO
    | with_reducible apply mapOf_maskO
    | with_reducible apply getD_mask
    | with_reducible apply foldl_mask
    | with_reducible apply foldl_fst_mask
    | with_reducible apply ite_mask
    | with_reducible apply ite_fst_mask
    | split
    | dsimp only)

theorem rewrap_mask {m : Nat} {s0 s : State} {b : Binding} {cred newAuth newCred : Nat} (hm : Sub 2097216 m) (hk : Mask m s0 s) :
    Mask m s0 (rewrap s b cred newAuth newCred).1 := by
  unfold rewrap
  repeat' (first
    | intro _
    | with_reducible assumption
    | with_reducible refine appendBlob_mask (sub_trans (by decide) hm) ?_
    | with_reducible refine drbg_mask (sub_trans (by decide) hm) ?_
    | with_reducible refine tick_mask (sub_trans (by decide) hm) ?_
    | with_reducible refine opt_mask (by assumption) ?_
    | with_reducible apply some_maskO
    | with_reducible apply none_maskO
    | with_reducible apply ite_maskO
    | with_reducible apply map_maskO
    | with_reducible apply mapOf_maskO
    | with_reducible apply getD_mask
    | with_reducible apply ite_mask
    | with_reducible apply ite_fst_mask
    | split
    | dsimp only)

theorem seedReplace_mask {m : Nat} {s0 s : State}  (hm : Sub 2097217 m) (hk : Mask m s0 s) :
    Mask m s0 (seedReplace s).1 := by
  unfold seedReplace
  repeat' (first
    | intro _
    | with_reducible assumption
    | with_reducible refine drbg_mask (sub_trans (by decide) hm) ?_
    | with_reducible refine modStg_mask (sub_trans (by decide) hm) ?_
    | with_reducible refine set1_mask (sub_trans (by decide) hm) ?_
    | with_reducible refine tick_mask (sub_trans (by decide) hm) ?_
    | with_reducible apply ite_mask
    | with_reducible apply ite_fst_mask
    | split
    | dsimp only)

theorem seedLoad_mask {m : Nat} {s0 s : State}  (hm : Sub 2097217 m) (hk : Mask m s0 s) :
    Mask m s0 (seedLoad s) := by
  unfold seedLoad
  repeat' (first
    | intro _
    | with_reducible assumption
    | with_reducible refine modStg_mask (sub_trans (by decide) hm) ?_
    | with_reducible refine seedReplace_mask (sub_trans (by decide) hm) ?_
    | with_reducible refine set1_mask (sub_trans (by decide) hm) ?_
    | with_reducible refine fst_mask (by assumption) ?_
    | with_reducible apply ite_mask
    | with_reducible apply ite_fst_mask
    | split
    | dsimp only)

theorem newNsKey_mask {m : Nat} {s0 s : State} {ns gen : Nat} (hm : Sub 2097216 m) (hk : Mask m s0 s) :
    Mask m s0 (newNsKey s ns gen).1 := by
  unfold newNsKey
  repeat' (first
    | intro _
    | with_reducible assumption
    | with_reducible refine generateKey_mask (sub_trans (by decide) hm) ?_
    | with_reducible refine fst_mask (by assumption) ?_
    | with_reducible apply ite_mask
    | with_reducible apply ite_fst_mask
    | split
    | dsimp only)

theorem pendingNsKey_mask {m : Nat} {s0 s : State} {ns gen : Nat} (hm : Sub 2097216 m) (hk : Mask m s0 s) :
    Mask m s0 (pendingNsKey s ns gen).1 := by
  unfold pendingNsKey
  repeat' (first
    | intro _
    | with_reducible assumption
    | with_reducible refine generateKey_mask (sub_trans (by decide) hm) ?_
    | with_reducible refine modRange_mask (sub_trans (by decide) hm) ?_
    | with_reducible refine newNsKey_mask (sub_trans (by decide) hm) ?_
    | with_reducible refine fst_mask (by assumption) ?_
    | with_reducible apply ite_mask
    | with_reducible apply ite_fst_mask
    | split
    | dsimp only)

theorem keysCheck_mask {m : Nat} {s0 s : State}  (hm : Sub 1 m) (hk : Mask m s0 s) :
    Mask m s0 (keysCheck s) := by
  unfold keysCheck
  repeat' (first
    | intro _
    | with_reducible assumption
    | with_reducible refine set1_mask (sub_trans (by decide) hm) ?_
    | with_reducible apply ite_mask
    | with_reducible apply ite_fst_mask
    | split
    | dsimp only)

theorem tamper_mask {m : Nat} {s0 s : State} {bit : Nat} (hm : Sub 139081 m) (hk : Mask m s0 s) :
    Mask m s0 (tamper s bit) := by
  unfold tamper
  repeat' (first
    | intro _
    | with_reducible assumption
    | with_reducible refine asyncAll_mask (sub_trans (by decide) hm) ?_
    | with_reducible refine clr1_mask (sub_trans (by decide) hm) ?_
    | with_reducible refine keysGone_mask (sub_trans (by decide) hm) ?_
    | with_reducible refine modKslot_mask (sub_trans (by decide) hm) ?_
    | with_reducible refine modStg_mask (sub_trans (by decide) hm) ?_
    | with_reducible refine post_mask (sub_trans (by decide) hm) ?_
    | with_reducible refine serveEvents_mask (sub_trans (by decide) hm) ?_
    | with_reducible refine set1_mask (sub_trans (by decide) hm) ?_
    | with_reducible refine wr_mask (sub_trans (by decide) hm) ?_
    | with_reducible apply foldl_mask
    | with_reducible apply foldl_fst_mask
    | with_reducible apply ite_mask
    | with_reducible apply ite_fst_mask
    | split
    | dsimp only)

end Sys2Proof.Machine
end

