-- ==== Sys2Proof/Laws/PartsHallOps.lean ====
section
/-!
SUPPORT. Which parts of the state the operations and commands of HallOps touch.
-/
set_option linter.unusedTactic false
set_option linter.unreachableTactic false
set_option linter.unusedVariables false
namespace Sys2Proof.Machine

theorem hallReady_mask {m : Nat} {s0 s : State}  (hm : Sub 128 m) (hk : Mask m s0 s) :
    Mask m s0 (hallReady s) := by
  unfold hallReady
  repeat' (first
    | intro _
    | with_reducible assumption
    | with_reducible refine modHport_mask (sub_trans (by decide) hm) ?_
    | with_reducible apply each_mask
    | with_reducible apply ite_mask
    | with_reducible apply ite_fst_mask
    | split
    | dsimp only)

theorem modChan_mask {m : Nat} {s0 s : State} {c : Nat} {f : DmaChan → DmaChan} (hm : Sub 128 m) (hk : Mask m s0 s) :
    Mask m s0 (State.modChan s c f) := by
  unfold State.modChan
  repeat' (first
    | intro _
    | with_reducible assumption
    | with_reducible refine modPorch_mask (sub_trans (by decide) hm) ?_
    | with_reducible apply ite_mask
    | with_reducible apply ite_fst_mask
    | split
    | dsimp only)

theorem askHost_mask {m : Nat} {s0 s : State} {n : Nat} (hm : Sub 1048704 m) (hk : Mask m s0 s) :
    Mask m s0 (askHost s n) := by
  unfold askHost
  repeat' (first
    | intro _
    | with_reducible assumption
    | with_reducible refine emit_mask (sub_trans (by decide) hm) ?_
    | with_reducible refine modChan_mask (sub_trans (by decide) hm) ?_
    | with_reducible apply foldl_mask
    | with_reducible apply foldl_fst_mask
    | with_reducible apply ite_mask
    | with_reducible apply ite_fst_mask
    | split
    | dsimp only)

theorem pumpChan_mask {m : Nat} {s0 s : State} {c : Nat} (hm : Sub 1048704 m) (hk : Mask m s0 s) :
    Mask m s0 (pumpChan s c) := by
  unfold pumpChan
  repeat' (first
    | intro _
    | with_reducible assumption
    | with_reducible refine askHost_mask (sub_trans (by decide) hm) ?_
    | with_reducible apply each_mask
    | with_reducible apply ite_mask
    | with_reducible apply ite_fst_mask
    | split
    | dsimp only)

theorem dropTag_mask {m : Nat} {s0 s : State} {c n u : Nat} (hm : Sub 128 m) (hk : Mask m s0 s) :
    Mask m s0 (dropTag s c n u) := by
  unfold dropTag
  repeat' (first
    | intro _
    | with_reducible assumption
    | with_reducible refine modChan_mask (sub_trans (by decide) hm) ?_
    | with_reducible apply ite_mask
    | with_reducible apply ite_fst_mask
    | split
    | dsimp only)

theorem dropTags_mask {m : Nat} {s0 s : State} {n : Nat} (hm : Sub 128 m) (hk : Mask m s0 s) :
    Mask m s0 (dropTags s n) := by
  unfold dropTags
  repeat' (first
    | intro _
    | with_reducible assumption
    | with_reducible refine modPorch_mask (sub_trans (by decide) hm) ?_
    | with_reducible apply ite_mask
    | with_reducible apply ite_fst_mask
    | split
    | dsimp only)

theorem haltChan_mask {m : Nat} {s0 s : State} {n cause : Nat} (hm : Sub 128 m) (hk : Mask m s0 s) :
    Mask m s0 (haltChan s n cause) := by
  unfold haltChan
  repeat' (first
    | intro _
    | with_reducible assumption
    | with_reducible refine modChan_mask (sub_trans (by decide) hm) ?_
    | with_reducible apply ite_mask
    | with_reducible apply ite_fst_mask
    | split
    | dsimp only)

theorem dropReader_mask {m : Nat} {s0 s : State} {n : Nat} (hm : Sub 187648 m) (hk : Mask m s0 s) :
    Mask m s0 (dropReader s n) := by
  unfold dropReader
  repeat' (first
    | intro _
    | with_reducible assumption
    | with_reducible refine modCtx_mask (sub_trans (by decide) hm) ?_
    | with_reducible refine modLnd_mask (sub_trans (by decide) hm) ?_
    | with_reducible refine modSta_mask (sub_trans (by decide) hm) ?_
    | with_reducible refine unpinMedia_mask (sub_trans (by decide) hm) ?_
    | with_reducible refine unpinSlot_mask (sub_trans (by decide) hm) ?_
    | with_reducible apply each_mask
    | with_reducible apply foldl_mask
    | with_reducible apply foldl_fst_mask
    | with_reducible apply ite_mask
    | with_reducible apply ite_fst_mask
    | split
    | dsimp only)

theorem failReader_mask {m : Nat} {s0 s : State} {n sct sc : Nat} (hm : Sub 188160 m) (hk : Mask m s0 s) :
    Mask m s0 (failReader s n sct sc) := by
  unfold failReader
  repeat' (first
    | intro _
    | with_reducible assumption
    | with_reducible refine dropReader_mask (sub_trans (by decide) hm) ?_
    | with_reducible refine finish_mask (sub_trans (by decide) hm) ?_
    | with_reducible apply ite_mask
    | with_reducible apply ite_fst_mask
    | split
    | dsimp only)

theorem startWriter_mask {m : Nat} {s0 s : State} {n : Nat} {c : Ctx} {fua : Bool} (hm : Sub 256 m) (hk : Mask m s0 s) :
    Mask m s0 (startWriter s n c fua) := by
  unfold startWriter
  repeat' (first
    | intro _
    | with_reducible assumption
    | with_reducible refine modCtx_mask (sub_trans (by decide) hm) ?_
    | with_reducible apply ite_mask
    | with_reducible apply ite_fst_mask
    | split
    | dsimp only)

theorem fillStash_mask {m : Nat} {s0 s : State} {n : Nat} (hm : Sub 133376 m) (hk : Mask m s0 s) :
    Mask m s0 (fillStash s n) := by
  unfold fillStash
  repeat' (first
    | intro _
    | with_reducible assumption
    | with_reducible refine modCtx_mask (sub_trans (by decide) hm) ?_
    | with_reducible refine modSlot_mask (sub_trans (by decide) hm) ?_
    | with_reducible refine modSta_mask (sub_trans (by decide) hm) ?_
    | with_reducible apply each_mask
    | with_reducible apply ite_mask
    | with_reducible apply ite_fst_mask
    | split
    | dsimp only)

theorem grantHost_mask {m : Nat} {s0 s : State} {n : Nat} (hm : Sub 1187712 m) (hk : Mask m s0 s) :
    Mask m s0 (grantHost s n) := by
  unfold grantHost
  repeat' (first
    | intro _
    | with_reducible assumption
    | with_reducible refine askHost_mask (sub_trans (by decide) hm) ?_
    | with_reducible refine fillStash_mask (sub_trans (by decide) hm) ?_
    | with_reducible refine finish_mask (sub_trans (by decide) hm) ?_
    | with_reducible refine modCtx_mask (sub_trans (by decide) hm) ?_
    | with_reducible refine modPan_mask (sub_trans (by decide) hm) ?_
    | with_reducible refine modSlot_mask (sub_trans (by decide) hm) ?_
    | with_reducible refine takeSlots_mask (sub_trans (by decide) hm) ?_
    | with_reducible refine fst_mask (by assumption) ?_
    | with_reducible apply each_mask
    | with_reducible apply foldl_mask
    | with_reducible apply foldl_fst_mask
    | with_reducible apply ite_mask
    | with_reducible apply ite_fst_mask
    | split
    | dsimp only)

theorem endReserve_mask {m : Nat} {s0 s : State} {n : Nat} {u : WUnit} (hm : Sub 1024 m) (hk : Mask m s0 s) :
    Mask m s0 (endReserve s n u) := by
  unfold endReserve
  repeat' (first
    | intro _
    | with_reducible assumption
    | with_reducible refine modPan_mask (sub_trans (by decide) hm) ?_
    | with_reducible apply ite_mask
    | with_reducible apply ite_fst_mask
    | split
    | dsimp only)

theorem modWunit_mask {m : Nat} {s0 s : State} {n : Nat} {old new : WUnit} (hm : Sub 256 m) (hk : Mask m s0 s) :
    Mask m s0 (modWunit s n old new) := by
  unfold modWunit
  repeat' (first
    | intro _
    | with_reducible assumption
    | with_reducible refine modCtx_mask (sub_trans (by decide) hm) ?_
    | with_reducible refine modHall_mask (sub_trans (by decide) hm) ?_
    | with_reducible apply ite_mask
    | with_reducible apply ite_fst_mask
    | split
    | dsimp only)

theorem startMerge_mask {m : Nat} {s0 s : State} {n ns u slot : Nat} {part : Nat × Nat} {stair : Bool} (hm : Sub 171776 m) (hk : Mask m s0 s) :
    Mask m s0 (startMerge s n ns u slot part stair) := by
  unfold startMerge
  repeat' (first
    | intro _
    | with_reducible assumption
    | with_reducible refine mergeFailed_mask (sub_trans (by decide) hm) ?_
    | with_reducible refine modSlot_mask (sub_trans (by decide) hm) ?_
    | with_reducible refine readUnit_mask (sub_trans (by decide) hm) ?_
    | with_reducible refine opt_mask (by assumption) ?_
    | with_reducible apply some_maskO
    | with_reducible apply none_maskO
    | with_reducible apply ite_maskO
    | with_reducible apply map_maskO
    | with_reducible apply mapOf_maskO
    | with_reducible apply getD_mask
    | with_reducible apply ite_mask
    | with_reducible apply ite_fst_mask
    | split
    | dsimp only)

theorem overlayCommit_mask {m : Nat} {s0 s : State} {n : Nat} {u : WUnit} {units : List Nat} {place : Option Place} (hm : Sub 2137856 m) (hk : Mask m s0 s) :
    Mask m s0 (overlayCommit s n u units place).1 := by
  unfold overlayCommit
  repeat' (first
    | intro _
    | with_reducible assumption
    | with_reducible refine joinHost_mask (sub_trans (by decide) hm) ?_
    | with_reducible refine modPan_mask (sub_trans (by decide) hm) ?_
    | with_reducible refine modSlot_mask (sub_trans (by decide) hm) ?_
    | with_reducible refine supersede_mask (sub_trans (by decide) hm) ?_
    | with_reducible apply foldl_mask
    | with_reducible apply foldl_fst_mask
    | with_reducible apply ite_mask
    | with_reducible apply ite_fst_mask
    | split
    | dsimp only)

theorem directCommit_mask {m : Nat} {s0 s : State} {ns : Nat} {typ : Nat} {units : List Nat} (hm : Sub 33792 m) (hk : Mask m s0 s) :
    Mask m s0 (directCommit s ns typ units) := by
  unfold directCommit
  repeat' (first
    | intro _
    | with_reducible assumption
    | with_reducible refine leaveOverlay_mask (sub_trans (by decide) hm) ?_
    | with_reducible refine mapChange_mask (sub_trans (by decide) hm) ?_
    | with_reducible apply each_mask
    | with_reducible apply ite_mask
    | with_reducible apply ite_fst_mask
    | split
    | dsimp only)

theorem recordTag_mask {m : Nat} {s0 s : State}  (hm : Sub 1024 m) (hk : Mask m s0 s) :
    Mask m s0 (recordTag s).1 := by
  unfold recordTag
  repeat' (first
    | intro _
    | with_reducible assumption
    | with_reducible refine addDep_mask (sub_trans (by decide) hm) ?_
    | with_reducible refine modPan_mask (sub_trans (by decide) hm) ?_
    | with_reducible apply ite_mask
    | with_reducible apply ite_fst_mask
    | split
    | dsimp only)

theorem markBlocks_mask {m : Nat} {s0 s : State} {ns u a c : Nat} (hm : Sub 33792 m) (hk : Mask m s0 s) :
    Mask m s0 (markBlocks s ns u a c) := by
  unfold markBlocks
  repeat' (first
    | intro _
    | with_reducible assumption
    | with_reducible refine directCommit_mask (sub_trans (by decide) hm) ?_
    | with_reducible refine mapChange_mask (sub_trans (by decide) hm) ?_
    | with_reducible refine modPan_mask (sub_trans (by decide) hm) ?_
    | with_reducible apply ite_mask
    | with_reducible apply ite_fst_mask
    | split
    | dsimp only)

theorem applyUnit_mask {m : Nat} {s0 s : State} {n : Nat} {w : Writer} {u : WUnit} (hm : Sub 2137856 m) (hk : Mask m s0 s) :
    Mask m s0 (applyUnit s n w u).1 := by
  unfold applyUnit
  repeat' (first
    | intro _
    | with_reducible assumption
    | with_reducible refine directCommit_mask (sub_trans (by decide) hm) ?_
    | with_reducible refine endReserve_mask (sub_trans (by decide) hm) ?_
    | with_reducible refine markBlocks_mask (sub_trans (by decide) hm) ?_
    | with_reducible refine overlayCommit_mask (sub_trans (by decide) hm) ?_
    | with_reducible refine recordTag_mask (sub_trans (by decide) hm) ?_
    | with_reducible refine fst_mask (by assumption) ?_
    | with_reducible apply each_mask
    | with_reducible apply ite_mask
    | with_reducible apply ite_fst_mask
    | split
    | dsimp only)

theorem writerDone_mask {m : Nat} {s0 s : State} {n : Nat} (hm : Sub 2268937 m) (hk : Mask m s0 s) :
    Mask m s0 (writerDone s n) := by
  unfold writerDone
  repeat' (first
    | intro _
    | with_reducible assumption
    | with_reducible refine closeFront_mask (sub_trans (by decide) hm) ?_
    | with_reducible refine finishOk_mask (sub_trans (by decide) hm) ?_
    | with_reducible refine settleCheck_mask (sub_trans (by decide) hm) ?_
    | with_reducible apply each_mask
    | with_reducible apply ite_mask
    | with_reducible apply ite_fst_mask
    | split
    | dsimp only)

theorem commitUnit_mask {m : Nat} {s0 s : State} {n : Nat} {w : Writer} {u : WUnit} (hm : Sub 2268937 m) (hk : Mask m s0 s) :
    Mask m s0 (commitUnit s n w u) := by
  unfold commitUnit
  repeat' (first
    | intro _
    | with_reducible assumption
    | with_reducible refine applyUnit_mask (sub_trans (by decide) hm) ?_
    | with_reducible refine askUnits_mask (sub_trans (by decide) hm) ?_
    | with_reducible refine modWunit_mask (sub_trans (by decide) hm) ?_
    | with_reducible refine panFlags_mask (sub_trans (by decide) hm) ?_
    | with_reducible refine startMerge_mask (sub_trans (by decide) hm) ?_
    | with_reducible refine writerDone_mask (sub_trans (by decide) hm) ?_
    | with_reducible refine fst_mask (by assumption) ?_
    | with_reducible apply each_mask
    | with_reducible apply ite_mask
    | with_reducible apply ite_fst_mask
    | split
    | dsimp only)

theorem dispatchZero_mask {m : Nat} {s0 s : State} {n ns u : Nat} (hm : Sub 16640 m) (hk : Mask m s0 s) :
    Mask m s0 (dispatchZero s n ns u) := by
  unfold dispatchZero
  repeat' (first
    | intro _
    | with_reducible assumption
    | with_reducible refine modLnd_mask (sub_trans (by decide) hm) ?_
    | with_reducible refine setRunit_mask (sub_trans (by decide) hm) ?_
    | with_reducible apply ite_mask
    | with_reducible apply ite_fst_mask
    | split
    | dsimp only)

theorem resolveUnit_mask {m : Nat} {s0 s : State} {n : Nat} {c : Ctx} {ns u : Nat} (hm : Sub 56577 m) (hk : Mask m s0 s) :
    Mask m s0 (resolveUnit s n c ns u) := by
  unfold resolveUnit
  repeat' (first
    | intro _
    | with_reducible assumption
    | with_reducible refine dispatchMedia_mask (sub_trans (by decide) hm) ?_
    | with_reducible refine dispatchSlot_mask (sub_trans (by decide) hm) ?_
    | with_reducible refine dispatchZero_mask (sub_trans (by decide) hm) ?_
    | with_reducible refine lookupLines_mask (sub_trans (by decide) hm) ?_
    | with_reducible refine setRunit_mask (sub_trans (by decide) hm) ?_
    | with_reducible refine fst_mask (by assumption) ?_
    | with_reducible apply ite_mask
    | with_reducible apply ite_fst_mask
    | split
    | dsimp only)

theorem askReads_mask {m : Nat} {s0 s : State} {n ns : Nat} {c : Ctx} {l : List Nat} (hm : Sub 135168 m) (hk : Mask m s0 s) :
    Mask m s0 (askReads s n ns c l) := by
  unfold askReads
  repeat' (first
    | intro _
    | with_reducible assumption
    | with_reducible refine askUnits_mask (sub_trans (by decide) hm) ?_
    | with_reducible apply each_mask
    | with_reducible apply ite_mask
    | with_reducible apply ite_fst_mask
    | split
    | dsimp only)

theorem readerCheck_mask {m : Nat} {s0 s : State} {n : Nat} (hm : Sub 139008 m) (hk : Mask m s0 s) :
    Mask m s0 (readerCheck s n) := by
  unfold readerCheck
  repeat' (first
    | intro _
    | with_reducible assumption
    | with_reducible refine finish_mask (sub_trans (by decide) hm) ?_
    | with_reducible refine finishOk_mask (sub_trans (by decide) hm) ?_
    | with_reducible refine modCtx_mask (sub_trans (by decide) hm) ?_
    | with_reducible refine modSlot_mask (sub_trans (by decide) hm) ?_
    | with_reducible refine returnSlots_mask (sub_trans (by decide) hm) ?_
    | with_reducible apply each_mask
    | with_reducible apply ite_mask
    | with_reducible apply ite_fst_mask
    | split
    | dsimp only)

theorem resolveReader_mask {m : Nat} {s0 s : State} {n : Nat} {c : Ctx} (hm : Sub 188161 m) (hk : Mask m s0 s) :
    Mask m s0 (resolveReader s n c) := by
  unfold resolveReader
  repeat' (first
    | intro _
    | with_reducible assumption
    | with_reducible refine askReads_mask (sub_trans (by decide) hm) ?_
    | with_reducible refine modCtx_mask (sub_trans (by decide) hm) ?_
    | with_reducible refine readerCheck_mask (sub_trans (by decide) hm) ?_
    | with_reducible refine resolveUnit_mask (sub_trans (by decide) hm) ?_
    | with_reducible apply foldl_mask
    | with_reducible apply foldl_fst_mask
    | with_reducible apply ite_mask
    | with_reducible apply ite_fst_mask
    | split
    | dsimp only)

theorem copyUnit_mask {m : Nat} {s0 s : State} {c : Ctx} {ns u d : Nat} {l : List (Nat × Nat)} {plain : Blk} {md : Meta} (hm : Sub 2048 m) (hk : Mask m s0 s) :
    Mask m s0 (copyUnit s c ns u d l plain md) := by
  unfold copyUnit
  repeat' (first
    | intro _
    | with_reducible assumption
    | with_reducible refine modSlot_mask (sub_trans (by decide) hm) ?_
    | with_reducible apply foldl_mask
    | with_reducible apply foldl_fst_mask
    | with_reducible apply ite_mask
    | with_reducible apply ite_fst_mask
    | split
    | dsimp only)

theorem handOn_mask {m : Nat} {s0 s : State} {n : Nat} {c : Ctx} {w : HostWord} {plain : Blk} (hm : Sub 1055232 m) (hk : Mask m s0 s) :
    Mask m s0 (handOn s n c w plain) := by
  unfold handOn
  repeat' (first
    | intro _
    | with_reducible assumption
    | with_reducible refine copyUnit_mask (sub_trans (by decide) hm) ?_
    | with_reducible refine emit_mask (sub_trans (by decide) hm) ?_
    | with_reducible refine modNvm_mask (sub_trans (by decide) hm) ?_
    | with_reducible refine stairTx_mask (sub_trans (by decide) hm) ?_
    | with_reducible apply ite_mask
    | with_reducible apply ite_fst_mask
    | split
    | dsimp only)

theorem noteBad_mask {m : Nat} {s0 s : State} {n ns unit bad : Nat} (hm : Sub 256 m) (hk : Mask m s0 s) :
    Mask m s0 (noteBad s n ns unit bad) := by
  unfold noteBad
  exact modCtx_mask (sub_trans (by decide) hm) hk

theorem handPart_mask {m : Nat} {s0 s : State} {n : Nat} {c : Ctx} {w : HostWord} {plain : Blk} {bad : Nat} (hm : Sub 1048576 m) (hk : Mask m s0 s) :
    Mask m s0 (handPart s n c w plain bad) := by
  unfold handPart
  repeat' (first
    | intro _
    | with_reducible assumption
    | with_reducible refine emit_mask (sub_trans (by decide) hm) ?_
    | with_reducible apply ite_mask
    | split
    | dsimp only)

theorem takeWord_mask {m : Nat} {s0 s : State} {src hp : Nat} {w : HostWord} {g a r : Bool} {bad : Nat} {host : Blk} (hm : Sub 1236737 m) (hk : Mask m s0 s) :
    Mask m s0 (takeWord s src hp w g a r bad host) := by
  unfold takeWord
  repeat' (first
    | intro _
    | with_reducible assumption
    | with_reducible refine drainCheck_mask (sub_trans (by decide) hm) ?_
    | with_reducible refine failReader_mask (sub_trans (by decide) hm) ?_
    | with_reducible refine noteBad_mask (sub_trans (by decide) hm) ?_
    | with_reducible refine handPart_mask (sub_trans (by decide) hm) ?_
    | with_reducible refine handOn_mask (sub_trans (by decide) hm) ?_
    | with_reducible refine modLnd_mask (sub_trans (by decide) hm) ?_
    | with_reducible refine readerCheck_mask (sub_trans (by decide) hm) ?_
    | with_reducible refine setRunit_mask (sub_trans (by decide) hm) ?_
    | with_reducible refine unpinMedia_mask (sub_trans (by decide) hm) ?_
    | with_reducible refine unpinSlot_mask (sub_trans (by decide) hm) ?_
    | with_reducible apply ite_mask
    | with_reducible apply ite_fst_mask
    | split
    | dsimp only)

theorem interrupt_mask {m : Nat} {s0 s : State} {p v : Nat} (hm : Sub 1048704 m) (hk : Mask m s0 s) :
    Mask m s0 (interrupt s p v) := by
  unfold interrupt
  repeat' (first
    | intro _
    | with_reducible assumption
    | with_reducible refine emit_mask (sub_trans (by decide) hm) ?_
    | with_reducible refine modHport_mask (sub_trans (by decide) hm) ?_
    | with_reducible apply ite_mask
    | with_reducible apply ite_fst_mask
    | split
    | dsimp only)

theorem completionIrq_mask {m : Nat} {s0 s : State} {p q v : Nat} (hm : Sub 1048960 m) (hk : Mask m s0 s) :
    Mask m s0 (completionIrq s p q v) := by
  unfold completionIrq
  repeat' (first
    | intro _
    | with_reducible assumption
    | with_reducible refine interrupt_mask (sub_trans (by decide) hm) ?_
    | with_reducible refine modHall_mask (sub_trans (by decide) hm) ?_
    | with_reducible apply ite_mask
    | with_reducible apply ite_fst_mask
    | split
    | dsimp only)

theorem deleteCheck_mask {m : Nat} {s0 s : State}  (hm : Sub 135936 m) (hk : Mask m s0 s) :
    Mask m s0 (deleteCheck s) := by
  unfold deleteCheck
  repeat' (first
    | intro _
    | with_reducible assumption
    | with_reducible refine finishOk_mask (sub_trans (by decide) hm) ?_
    | with_reducible refine modHall_mask (sub_trans (by decide) hm) ?_
    | with_reducible apply each_mask
    | with_reducible apply ite_mask
    | with_reducible apply ite_fst_mask
    | split
    | dsimp only)

theorem postCompletion_mask {m : Nat} {s0 s : State} {n : Nat} (hm : Sub 1187712 m) (hk : Mask m s0 s) :
    Mask m s0 (postCompletion s n) := by
  unfold postCompletion
  repeat' (first
    | intro _
    | with_reducible assumption
    | with_reducible refine completionIrq_mask (sub_trans (by decide) hm) ?_
    | with_reducible refine deleteCheck_mask (sub_trans (by decide) hm) ?_
    | with_reducible refine emit_mask (sub_trans (by decide) hm) ?_
    | with_reducible refine modHall_mask (sub_trans (by decide) hm) ?_
    | with_reducible refine readerCheck_mask (sub_trans (by decide) hm) ?_
    | with_reducible apply ite_mask
    | with_reducible apply ite_fst_mask
    | split
    | dsimp only)

theorem resetCtx_mask {m : Nat} {s0 s : State} {n : Nat} {c : Ctx} (hm : Sub 187776 m) (hk : Mask m s0 s) :
    Mask m s0 (resetCtx s n c) := by
  unfold resetCtx
  repeat' (first
    | intro _
    | with_reducible assumption
    | with_reducible refine dropReader_mask (sub_trans (by decide) hm) ?_
    | with_reducible refine dropTags_mask (sub_trans (by decide) hm) ?_
    | with_reducible refine modHall_mask (sub_trans (by decide) hm) ?_
    | with_reducible refine modSta_mask (sub_trans (by decide) hm) ?_
    | with_reducible refine returnSlots_mask (sub_trans (by decide) hm) ?_
    | with_reducible apply ite_mask
    | with_reducible apply ite_fst_mask
    | split
    | dsimp only)

theorem resolvePort_mask {m : Nat} {s0 s : State} {p : Nat} (hm : Sub 188361 m) (hk : Mask m s0 s) :
    Mask m s0 (resolvePort s p) := by
  unfold resolvePort
  repeat' (first
    | intro _
    | with_reducible assumption
    | with_reducible refine modHall_mask (sub_trans (by decide) hm) ?_
    | with_reducible refine modNvm_mask (sub_trans (by decide) hm) ?_
    | with_reducible refine modStg_mask (sub_trans (by decide) hm) ?_
    | with_reducible refine resetCtx_mask (sub_trans (by decide) hm) ?_
    | with_reducible refine settleCheck_mask (sub_trans (by decide) hm) ?_
    | with_reducible apply each_mask
    | with_reducible apply ite_mask
    | with_reducible apply ite_fst_mask
    | split
    | dsimp only)

theorem resetController_mask {m : Nat} {s0 s : State} {p : Nat} (hm : Sub 188361 m) (hk : Mask m s0 s) :
    Mask m s0 (resetController s p) := by
  unfold resetController
  repeat' (first
    | intro _
    | with_reducible assumption
    | with_reducible refine modHport_mask (sub_trans (by decide) hm) ?_
    | with_reducible refine modPorch_mask (sub_trans (by decide) hm) ?_
    | with_reducible refine resolvePort_mask (sub_trans (by decide) hm) ?_
    | with_reducible apply ite_mask
    | with_reducible apply ite_fst_mask
    | split
    | dsimp only)

theorem deleteCtx_mask {m : Nat} {s0 s : State} {n : Nat} {c : Ctx} (hm : Sub 188288 m) (hk : Mask m s0 s) :
    Mask m s0 (deleteCtx s n c) := by
  unfold deleteCtx
  repeat' (first
    | intro _
    | with_reducible assumption
    | with_reducible refine cutWriter_mask (sub_trans (by decide) hm) ?_
    | with_reducible refine dropReader_mask (sub_trans (by decide) hm) ?_
    | with_reducible refine dropTags_mask (sub_trans (by decide) hm) ?_
    | with_reducible refine failReader_mask (sub_trans (by decide) hm) ?_
    | with_reducible refine finish_mask (sub_trans (by decide) hm) ?_
    | with_reducible refine modCtx_mask (sub_trans (by decide) hm) ?_
    | with_reducible refine returnSlots_mask (sub_trans (by decide) hm) ?_
    | with_reducible apply ite_mask
    | with_reducible apply ite_fst_mask
    | split
    | dsimp only)

end Sys2Proof.Machine
end

