-- ==== Sys2Proof/Laws/PartsCellar.lean ====
section
/-!
SUPPORT. Which parts of the state the operations and commands of Cellar touch.
-/
set_option linter.unusedTactic false
set_option linter.unreachableTactic false
set_option linter.unusedVariables false
namespace Sys2Proof.Machine

theorem setPortState_mask {m : Nat} {s0 s : State} {n st : Nat} (hm : Sub 8193 m) (hk : Mask m s0 s) :
    Mask m s0 (setPortState s n st) := by
  unfold setPortState
  repeat' (first
    | intro _
    | with_reducible assumption
    | with_reducible refine raise_mask (sub_trans (by decide) hm) ?_
    | with_reducible refine wr_mask (sub_trans (by decide) hm) ?_
    | with_reducible apply ite_mask
    | with_reducible apply ite_fst_mask
    | split
    | dsimp only)

theorem queueLink_mask {m : Nat} {s0 s : State} {n sub arg : Nat} {data : List Nat} (hm : Sub 4096 m) (hk : Mask m s0 s) :
    Mask m s0 (queueLink s n sub arg data) := by
  unfold queueLink
  repeat' (first
    | intro _
    | with_reducible assumption
    | with_reducible refine modPort_mask (sub_trans (by decide) hm) ?_
    | with_reducible apply ite_mask
    | with_reducible apply ite_fst_mask
    | split
    | dsimp only)

theorem recalMark_mask {m : Nat} {s0 s : State} {n : Nat} (hm : Sub 4096 m) (hk : Mask m s0 s) :
    Mask m s0 (recalMark s n) := by
  unfold recalMark
  repeat' (first
    | intro _
    | with_reducible assumption
    | with_reducible refine modPort_mask (sub_trans (by decide) hm) ?_
    | with_reducible apply ite_mask
    | with_reducible apply ite_fst_mask
    | split
    | dsimp only)

theorem enterActiveFresh_mask {m : Nat} {s0 s : State} {n : Nat} (hm : Sub 12289 m) (hk : Mask m s0 s) :
    Mask m s0 (enterActiveFresh s n) := by
  unfold enterActiveFresh
  repeat' (first
    | intro _
    | with_reducible assumption
    | with_reducible refine modPort_mask (sub_trans (by decide) hm) ?_
    | with_reducible refine recalMark_mask (sub_trans (by decide) hm) ?_
    | with_reducible refine setPortState_mask (sub_trans (by decide) hm) ?_
    | with_reducible refine staLinkUp_mask (sub_trans (by decide) hm) ?_
    | with_reducible refine wr_mask (sub_trans (by decide) hm) ?_
    | with_reducible apply ite_mask
    | with_reducible apply ite_fst_mask
    | split
    | dsimp only)

theorem enterActiveAgain_mask {m : Nat} {s0 s : State} {n : Nat} (hm : Sub 12289 m) (hk : Mask m s0 s) :
    Mask m s0 (enterActiveAgain s n) := by
  unfold enterActiveAgain
  repeat' (first
    | intro _
    | with_reducible assumption
    | with_reducible refine modPort_mask (sub_trans (by decide) hm) ?_
    | with_reducible refine recalMark_mask (sub_trans (by decide) hm) ?_
    | with_reducible refine setPortState_mask (sub_trans (by decide) hm) ?_
    | with_reducible apply ite_mask
    | with_reducible apply ite_fst_mask
    | split
    | dsimp only)

theorem retirePort_mask {m : Nat} {s0 s : State} {n cause : Nat} (hm : Sub 2293513 m) (hk : Mask m s0 s) :
    Mask m s0 (retirePort s n cause) := by
  unfold retirePort
  repeat' (first
    | intro _
    | with_reducible assumption
    | with_reducible refine endRing_mask (sub_trans (by decide) hm) ?_
    | with_reducible refine landLadderRetire_mask (sub_trans (by decide) hm) ?_
    | with_reducible refine modCel_mask (sub_trans (by decide) hm) ?_
    | with_reducible refine modPort_mask (sub_trans (by decide) hm) ?_
    | with_reducible refine opOutcome_mask (sub_trans (by decide) hm) ?_
    | with_reducible refine post_mask (sub_trans (by decide) hm) ?_
    | with_reducible refine scuPortRetired_mask (sub_trans (by decide) hm) ?_
    | with_reducible refine setPortState_mask (sub_trans (by decide) hm) ?_
    | with_reducible refine staLinkLost_mask (sub_trans (by decide) hm) ?_
    | with_reducible refine wr_mask (sub_trans (by decide) hm) ?_
    | with_reducible apply each_mask
    | with_reducible apply foldl_mask
    | with_reducible apply foldl_fst_mask
    | with_reducible apply ite_mask
    | with_reducible apply ite_fst_mask
    | split
    | dsimp only)

theorem startRetrain_mask {m : Nat} {s0 s : State} {n cause : Nat} {counted : Bool} (hm : Sub 2293513 m) (hk : Mask m s0 s) :
    Mask m s0 (startRetrain s n cause counted) := by
  unfold startRetrain
  repeat' (first
    | intro _
    | with_reducible assumption
    | with_reducible refine bump_mask (sub_trans (by decide) hm) ?_
    | with_reducible refine modPort_mask (sub_trans (by decide) hm) ?_
    | with_reducible refine retirePort_mask (sub_trans (by decide) hm) ?_
    | with_reducible refine setPortState_mask (sub_trans (by decide) hm) ?_
    | with_reducible refine wr_mask (sub_trans (by decide) hm) ?_
    | with_reducible apply ite_mask
    | with_reducible apply ite_fst_mask
    | split
    | dsimp only)

theorem failAttempt_mask {m : Nat} {s0 s : State} {n : Nat} (hm : Sub 2293513 m) (hk : Mask m s0 s) :
    Mask m s0 (failAttempt s n) := by
  unfold failAttempt
  repeat' (first
    | intro _
    | with_reducible assumption
    | with_reducible refine modPort_mask (sub_trans (by decide) hm) ?_
    | with_reducible refine retirePort_mask (sub_trans (by decide) hm) ?_
    | with_reducible refine setPortState_mask (sub_trans (by decide) hm) ?_
    | with_reducible refine wr_mask (sub_trans (by decide) hm) ?_
    | with_reducible apply ite_mask
    | with_reducible apply ite_fst_mask
    | split
    | dsimp only)

theorem replayRound_mask {m : Nat} {s0 s : State} {n : Nat} (hm : Sub 2293513 m) (hk : Mask m s0 s) :
    Mask m s0 (replayRound s n) := by
  unfold replayRound
  repeat' (first
    | intro _
    | with_reducible assumption
    | with_reducible refine modPort_mask (sub_trans (by decide) hm) ?_
    | with_reducible refine startRetrain_mask (sub_trans (by decide) hm) ?_
    | with_reducible apply ite_mask
    | with_reducible apply ite_fst_mask
    | split
    | dsimp only)

theorem takeAck_mask {m : Nat} {s0 s : State} {n : Nat} {h : FrameHdr} (hm : Sub 2293513 m) (hk : Mask m s0 s) :
    Mask m s0 (takeAck s n h) := by
  unfold takeAck
  repeat' (first
    | intro _
    | with_reducible assumption
    | with_reducible refine modPort_mask (sub_trans (by decide) hm) ?_
    | with_reducible refine replayRound_mask (sub_trans (by decide) hm) ?_
    | with_reducible apply after_mask
    | with_reducible apply ite_mask
    | with_reducible apply ite_fst_mask
    | split
    | dsimp only)

theorem oweNak_mask {m : Nat} {s0 s : State} {n : Nat} (hm : Sub 4096 m) (hk : Mask m s0 s) :
    Mask m s0 (oweNak s n) := by
  unfold oweNak
  repeat' (first
    | intro _
    | with_reducible assumption
    | with_reducible refine modPort_mask (sub_trans (by decide) hm) ?_
    | with_reducible apply ite_mask
    | with_reducible apply ite_fst_mask
    | split
    | dsimp only)

theorem takeFrame_mask {m : Nat} {s0 s : State} {n : Nat} {h : FrameHdr} (hm : Sub 2293513 m) (hk : Mask m s0 s) :
    Mask m s0 (takeFrame s n h).1 := by
  unfold takeFrame
  repeat' (first
    | intro _
    | with_reducible assumption
    | with_reducible refine bump_mask (sub_trans (by decide) hm) ?_
    | with_reducible refine modPort_mask (sub_trans (by decide) hm) ?_
    | with_reducible refine oweNak_mask (sub_trans (by decide) hm) ?_
    | with_reducible refine takeAck_mask (sub_trans (by decide) hm) ?_
    | with_reducible apply ite_mask
    | with_reducible apply ite_fst_mask
    | split
    | dsimp only)

theorem protoErr_mask {m : Nat} {s0 s : State} {n : Nat} (hm : Sub 1 m) (hk : Mask m s0 s) :
    Mask m s0 (protoErr s n) := by
  unfold protoErr
  repeat' (first
    | intro _
    | with_reducible assumption
    | with_reducible refine bump_mask (sub_trans (by decide) hm) ?_
    | with_reducible apply ite_mask
    | with_reducible apply ite_fst_mask
    | split
    | dsimp only)

theorem onFrame_mask {m : Nat} {s0 s : State} {n : Nat} {h : FrameHdr} {f : State → State} (hm : Sub 2293513 m) (hk : Mask m s0 s) (h_f : ∀ (a0 : State), Mask m s0 a0 → Mask m s0 (f a0)) :
    Mask m s0 (onFrame s n h f) := by
  unfold onFrame
  repeat' (first
    | intro _
    | with_reducible assumption
    | with_reducible apply h_f
    | with_reducible refine takeFrame_mask (sub_trans (by decide) hm) ?_
    | with_reducible refine fst_mask (by assumption) ?_
    | with_reducible apply ite_mask
    | with_reducible apply ite_fst_mask
    | split
    | dsimp only)

theorem handOver_mask {m : Nat} {s0 s : State} {n : Nat} {op : DieOp} {i : Nat} (hm : Sub 2293513 m) (hk : Mask m s0 s) :
    Mask m s0 (handOver s n op i) := by
  unfold handOver
  repeat' (first
    | intro _
    | with_reducible assumption
    | with_reducible refine landHandover_mask (sub_trans (by decide) hm) ?_
    | with_reducible refine modPort_mask (sub_trans (by decide) hm) ?_
    | with_reducible refine modSeq_mask (sub_trans (by decide) hm) ?_
    | with_reducible refine opOutcome_mask (sub_trans (by decide) hm) ?_
    | with_reducible refine raise_mask (sub_trans (by decide) hm) ?_
    | with_reducible apply ite_mask
    | with_reducible apply ite_fst_mask
    | split
    | dsimp only)

theorem arbiterPreempt_mask {m : Nat} {s0 s : State} {n die : Nat} (hm : Sub 12288 m) (hk : Mask m s0 s) :
    Mask m s0 (arbiterPreempt s n die) := by
  unfold arbiterPreempt
  repeat' (first
    | intro _
    | with_reducible assumption
    | with_reducible refine modPort_mask (sub_trans (by decide) hm) ?_
    | with_reducible refine withdraw_mask (sub_trans (by decide) hm) ?_
    | with_reducible apply ite_mask
    | with_reducible apply ite_fst_mask
    | split
    | dsimp only)

theorem sendFrame_mask {m : Nat} {s0 s : State} {n : Nat} {f : TxFrame} {fresh : Bool} (hm : Sub 1060864 m) (hk : Mask m s0 s) :
    Mask m s0 (sendFrame s n f fresh) := by
  unfold sendFrame
  repeat' (first
    | intro _
    | with_reducible assumption
    | with_reducible refine emit_mask (sub_trans (by decide) hm) ?_
    | with_reducible refine modPort_mask (sub_trans (by decide) hm) ?_
    | with_reducible refine modSeq_mask (sub_trans (by decide) hm) ?_
    | with_reducible apply ite_mask
    | with_reducible apply ite_fst_mask
    | split
    | dsimp only)

theorem transmitNext_mask {m : Nat} {s0 s : State} {n : Nat} (hm : Sub 1060865 m) (hk : Mask m s0 s) :
    Mask m s0 (transmitNext s n) := by
  unfold transmitNext
  repeat' (first
    | intro _
    | with_reducible assumption
    | with_reducible refine bump_mask (sub_trans (by decide) hm) ?_
    | with_reducible refine modPort_mask (sub_trans (by decide) hm) ?_
    | with_reducible refine sendFrame_mask (sub_trans (by decide) hm) ?_
    | with_reducible apply ite_mask
    | with_reducible apply ite_fst_mask
    | split
    | dsimp only)

theorem execDieSchedulerEnqueue_answers {m : Nat} {s0 s : State} {n : Nat} (hm : Sub 2293513 m) (hk : Mask m s0 s) :
    Answers m s0 (execDieSchedulerEnqueue n s) := by
  unfold execDieSchedulerEnqueue
  repeat' (first
    | intro _
    | with_reducible assumption
    | with_reducible refine arbiterPreempt_mask (sub_trans (by decide) hm) ?_
    | with_reducible refine modPort_mask (sub_trans (by decide) hm) ?_
    | with_reducible refine opOutcome_mask (sub_trans (by decide) hm) ?_
    | with_reducible apply answers_next
    | with_reducible apply ite_answers
    | with_reducible apply ite_mask
    | with_reducible apply ite_fst_mask
    | split
    | dsimp only)

theorem execDescriptorHandover_answers {m : Nat} {s0 s : State} {n die : Nat} (hm : Sub 2293513 m) (hk : Mask m s0 s) :
    Answers m s0 (execDescriptorHandover n die s) := by
  unfold execDescriptorHandover
  repeat' (first
    | intro _
    | with_reducible assumption
    | with_reducible refine handOver_mask (sub_trans (by decide) hm) ?_
    | with_reducible refine modPort_mask (sub_trans (by decide) hm) ?_
    | with_reducible apply answers_next
    | with_reducible apply ite_answers
    | with_reducible apply ite_mask
    | with_reducible apply ite_fst_mask
    | split
    | dsimp only)

theorem paramBytes_mask {m : Nat} {s0 s : State} {n : Nat} {bytes : List Nat} (hm : Sub 8192 m) (hk : Mask m s0 s) :
    Mask m s0 (paramBytes s n bytes) := by
  unfold paramBytes
  repeat' (first
    | intro _
    | with_reducible assumption
    | with_reducible refine modSeq_mask (sub_trans (by decide) hm) ?_
    | with_reducible refine raise_mask (sub_trans (by decide) hm) ?_
    | with_reducible apply ite_mask
    | with_reducible apply ite_fst_mask
    | split
    | dsimp only)

theorem execRdataFrame_answers {m : Nat} {s0 s : State} {n : Nat} {h : FrameHdr} {param : List Nat} (hm : Sub 2293513 m) (hk : Mask m s0 s) :
    Answers m s0 (execRdataFrame n h param s) := by
  unfold execRdataFrame
  repeat' (first
    | intro _
    | with_reducible assumption
    | with_reducible refine landHardIn_mask (sub_trans (by decide) hm) ?_
    | with_reducible apply onFrame_mask (sub_trans (by decide) hm)
    | with_reducible refine paramBytes_mask (sub_trans (by decide) hm) ?_
    | with_reducible refine protoErr_mask (sub_trans (by decide) hm) ?_
    | with_reducible apply answers_next
    | with_reducible apply ite_answers
    | with_reducible apply ite_mask
    | with_reducible apply ite_fst_mask
    | split
    | dsimp only)

theorem closeOldest_mask {m : Nat} {s0 s : State} {n i : Nat} (hm : Sub 8192 m) (hk : Mask m s0 s) :
    Mask m s0 (closeOldest s n i) := by
  unfold closeOldest
  repeat' (first
    | intro _
    | with_reducible assumption
    | with_reducible refine modSeq_mask (sub_trans (by decide) hm) ?_
    | with_reducible apply ite_mask
    | with_reducible apply ite_fst_mask
    | split
    | dsimp only)

theorem requeueDesc_mask {m : Nat} {s0 s : State} {n i : Nat} (hm : Sub 12288 m) (hk : Mask m s0 s) :
    Mask m s0 (requeueDesc s n i) := by
  unfold requeueDesc
  repeat' (first
    | intro _
    | with_reducible assumption
    | with_reducible refine freeDesc_mask (sub_trans (by decide) hm) ?_
    | with_reducible refine modPort_mask (sub_trans (by decide) hm) ?_
    | with_reducible refine withdraw_mask (sub_trans (by decide) hm) ?_
    | with_reducible apply ite_mask
    | with_reducible apply ite_fst_mask
    | split
    | dsimp only)

theorem dieReset_mask {m : Nat} {s0 s : State} {n die : Nat} (hm : Sub 2293513 m) (hk : Mask m s0 s) :
    Mask m s0 (dieReset s n die) := by
  unfold dieReset
  repeat' (first
    | intro _
    | with_reducible assumption
    | with_reducible refine endDesc_mask (sub_trans (by decide) hm) ?_
    | with_reducible refine requeueDesc_mask (sub_trans (by decide) hm) ?_
    | with_reducible apply each_mask
    | with_reducible apply ite_mask
    | with_reducible apply ite_fst_mask
    | split
    | dsimp only)

theorem ctlStatus_mask {m : Nat} {s0 s : State} {n : Nat} {c : CtlOp} {code sr : Nat} (hm : Sub 2293513 m) (hk : Mask m s0 s) :
    Mask m s0 (ctlStatus s n c code sr) := by
  unfold ctlStatus
  repeat' (first
    | intro _
    | with_reducible assumption
    | with_reducible refine dieReset_mask (sub_trans (by decide) hm) ?_
    | with_reducible refine modPort_mask (sub_trans (by decide) hm) ?_
    | with_reducible refine modSeq_mask (sub_trans (by decide) hm) ?_
    | with_reducible refine raise_mask (sub_trans (by decide) hm) ?_
    | with_reducible apply ite_mask
    | with_reducible apply ite_fst_mask
    | split
    | dsimp only)

theorem descStatus_mask {m : Nat} {s0 s : State} {n i : Nat} {hw : DescHw} {code sr busyUs : Nat} (hm : Sub 2146049 m) (hk : Mask m s0 s) :
    Mask m s0 (descStatus s n i hw code sr busyUs) := by
  unfold descStatus
  repeat' (first
    | intro _
    | with_reducible assumption
    | with_reducible refine arbiterPreempt_mask (sub_trans (by decide) hm) ?_
    | with_reducible refine chargeDieTime_mask (sub_trans (by decide) hm) ?_
    | with_reducible refine closeOldest_mask (sub_trans (by decide) hm) ?_
    | with_reducible refine modPort_mask (sub_trans (by decide) hm) ?_
    | with_reducible refine modSeq_mask (sub_trans (by decide) hm) ?_
    | with_reducible refine programAccepted_mask (sub_trans (by decide) hm) ?_
    | with_reducible refine protoErr_mask (sub_trans (by decide) hm) ?_
    | with_reducible refine raise_mask (sub_trans (by decide) hm) ?_
    | with_reducible refine readDone_mask (sub_trans (by decide) hm) ?_
    | with_reducible refine requeueDesc_mask (sub_trans (by decide) hm) ?_
    | with_reducible refine setDescState_mask (sub_trans (by decide) hm) ?_
    | with_reducible apply ite_mask
    | with_reducible apply ite_fst_mask
    | split
    | dsimp only)

theorem lateStatus_mask {m : Nat} {s0 s : State} {n tag : Nat} (hm : Sub 4096 m) (hk : Mask m s0 s) :
    Mask m s0 (lateStatus s n tag) := by
  unfold lateStatus
  repeat' (first
    | intro _
    | with_reducible assumption
    | with_reducible refine modPort_mask (sub_trans (by decide) hm) ?_
    | with_reducible apply ite_mask
    | with_reducible apply ite_fst_mask
    | split
    | dsimp only)

theorem execStatusFrame_answers {m : Nat} {s0 s : State} {n : Nat} {h : FrameHdr} {code sr busyUs : Nat} (hm : Sub 2293513 m) (hk : Mask m s0 s) :
    Answers m s0 (execStatusFrame n h code sr busyUs s) := by
  unfold execStatusFrame
  repeat' (first
    | intro _
    | with_reducible assumption
    | with_reducible refine ctlStatus_mask (sub_trans (by decide) hm) ?_
    | with_reducible refine descStatus_mask (sub_trans (by decide) hm) ?_
    | with_reducible refine lateStatus_mask (sub_trans (by decide) hm) ?_
    | with_reducible apply onFrame_mask (sub_trans (by decide) hm)
    | with_reducible refine protoErr_mask (sub_trans (by decide) hm) ?_
    | with_reducible apply answers_next
    | with_reducible apply ite_answers
    | with_reducible apply ite_mask
    | with_reducible apply ite_fst_mask
    | split
    | dsimp only)

theorem execAckFrame_answers {m : Nat} {s0 s : State} {n : Nat} {h : FrameHdr} (hm : Sub 2293513 m) (hk : Mask m s0 s) :
    Answers m s0 (execAckFrame n h s) := by
  unfold execAckFrame
  repeat' (first
    | intro _
    | with_reducible assumption
    | with_reducible apply onFrame_mask (sub_trans (by decide) hm)
    | with_reducible apply answers_next
    | with_reducible apply ite_answers
    | with_reducible apply ite_mask
    | with_reducible apply ite_fst_mask
    | split
    | dsimp only)

theorem execEventFrame_answers {m : Nat} {s0 s : State} {n : Nat} {h : FrameHdr} {sev die code d0 d1 d2 : Nat} (hm : Sub 2293513 m) (hk : Mask m s0 s) :
    Answers m s0 (execEventFrame n h sev die code d0 d1 d2 s) := by
  unfold execEventFrame
  repeat' (first
    | intro _
    | with_reducible assumption
    | with_reducible apply onFrame_mask (sub_trans (by decide) hm)
    | with_reducible refine post_mask (sub_trans (by decide) hm) ?_
    | with_reducible refine protoErr_mask (sub_trans (by decide) hm) ?_
    | with_reducible refine retirePort_mask (sub_trans (by decide) hm) ?_
    | with_reducible apply answers_next
    | with_reducible apply ite_answers
    | with_reducible apply ite_mask
    | with_reducible apply ite_fst_mask
    | split
    | dsimp only)

theorem execHello_answers {m : Nat} {s0 s : State} {n : Nat} {h : FrameHdr} {verMax vendor part rev dies dataCr cmdCr : Nat} (hm : Sub 2293513 m) (hk : Mask m s0 s) :
    Answers m s0 (execHello n h verMax vendor part rev dies dataCr cmdCr s) := by
  unfold execHello
  repeat' (first
    | intro _
    | with_reducible assumption
    | with_reducible refine enterActiveFresh_mask (sub_trans (by decide) hm) ?_
    | with_reducible refine failAttempt_mask (sub_trans (by decide) hm) ?_
    | with_reducible refine modPort_mask (sub_trans (by decide) hm) ?_
    | with_reducible apply onFrame_mask (sub_trans (by decide) hm)
    | with_reducible refine queueLink_mask (sub_trans (by decide) hm) ?_
    | with_reducible refine setPortState_mask (sub_trans (by decide) hm) ?_
    | with_reducible refine wr_mask (sub_trans (by decide) hm) ?_
    | with_reducible apply answers_next
    | with_reducible apply ite_answers
    | with_reducible apply ite_mask
    | with_reducible apply ite_fst_mask
    | split
    | dsimp only)

theorem execSwitch_answers {m : Nat} {s0 s : State} {n : Nat} {h : FrameHdr} {ver : Nat} (hm : Sub 2293513 m) (hk : Mask m s0 s) :
    Answers m s0 (execSwitch n h ver s) := by
  unfold execSwitch
  repeat' (first
    | intro _
    | with_reducible assumption
    | with_reducible refine modPort_mask (sub_trans (by decide) hm) ?_
    | with_reducible apply onFrame_mask (sub_trans (by decide) hm)
    | with_reducible refine setPortState_mask (sub_trans (by decide) hm) ?_
    | with_reducible apply answers_next
    | with_reducible apply ite_answers
    | with_reducible apply ite_mask
    | with_reducible apply ite_fst_mask
    | split
    | dsimp only)

theorem execEqReq_answers {m : Nat} {s0 s : State} {n : Nat} {h : FrameHdr} {preset : Nat} (hm : Sub 2293513 m) (hk : Mask m s0 s) :
    Answers m s0 (execEqReq n h preset s) := by
  unfold execEqReq
  repeat' (first
    | intro _
    | with_reducible assumption
    | with_reducible refine modPort_mask (sub_trans (by decide) hm) ?_
    | with_reducible apply onFrame_mask (sub_trans (by decide) hm)
    | with_reducible apply answers_next
    | with_reducible apply ite_answers
    | with_reducible apply ite_mask
    | with_reducible apply ite_fst_mask
    | split
    | dsimp only)

theorem execEqRsp_answers {m : Nat} {s0 s : State} {n : Nat} {h : FrameHdr} {errs localErrs : Nat} (hm : Sub 2293513 m) (hk : Mask m s0 s) :
    Answers m s0 (execEqRsp n h errs localErrs s) := by
  unfold execEqRsp
  repeat' (first
    | intro _
    | with_reducible assumption
    | with_reducible refine enterActiveFresh_mask (sub_trans (by decide) hm) ?_
    | with_reducible refine modPort_mask (sub_trans (by decide) hm) ?_
    | with_reducible apply onFrame_mask (sub_trans (by decide) hm)
    | with_reducible apply answers_next
    | with_reducible apply ite_answers
    | with_reducible apply ite_mask
    | with_reducible apply ite_fst_mask
    | split
    | dsimp only)

theorem execRetrainReq_answers {m : Nat} {s0 s : State} {n : Nat} {h : FrameHdr} {_cause : Nat} (hm : Sub 2293513 m) (hk : Mask m s0 s) :
    Answers m s0 (execRetrainReq n h _cause s) := by
  unfold execRetrainReq
  repeat' (first
    | intro _
    | with_reducible assumption
    | with_reducible apply onFrame_mask (sub_trans (by decide) hm)
    | with_reducible refine startRetrain_mask (sub_trans (by decide) hm) ?_
    | with_reducible apply answers_next
    | with_reducible apply ite_answers
    | with_reducible apply ite_mask
    | with_reducible apply ite_fst_mask
    | split
    | dsimp only)

theorem enterRecal_mask {m : Nat} {s0 s : State} {n : Nat} {req : Bool} (hm : Sub 12289 m) (hk : Mask m s0 s) :
    Mask m s0 (enterRecal s n req) := by
  unfold enterRecal
  repeat' (first
    | intro _
    | with_reducible assumption
    | with_reducible refine modPort_mask (sub_trans (by decide) hm) ?_
    | with_reducible refine queueLink_mask (sub_trans (by decide) hm) ?_
    | with_reducible refine setPortState_mask (sub_trans (by decide) hm) ?_
    | with_reducible apply ite_mask
    | with_reducible apply ite_fst_mask
    | split
    | dsimp only)

theorem execRecalReq_answers {m : Nat} {s0 s : State} {n : Nat} {h : FrameHdr} (hm : Sub 2293513 m) (hk : Mask m s0 s) :
    Answers m s0 (execRecalReq n h s) := by
  unfold execRecalReq
  repeat' (first
    | intro _
    | with_reducible assumption
    | with_reducible refine enterRecal_mask (sub_trans (by decide) hm) ?_
    | with_reducible refine modPort_mask (sub_trans (by decide) hm) ?_
    | with_reducible apply onFrame_mask (sub_trans (by decide) hm)
    | with_reducible refine queueLink_mask (sub_trans (by decide) hm) ?_
    | with_reducible apply answers_next
    | with_reducible apply ite_answers
    | with_reducible apply ite_mask
    | with_reducible apply ite_fst_mask
    | split
    | dsimp only)

theorem execRecalDone_answers {m : Nat} {s0 s : State} {n : Nat} {h : FrameHdr} (hm : Sub 2293513 m) (hk : Mask m s0 s) :
    Answers m s0 (execRecalDone n h s) := by
  unfold execRecalDone
  repeat' (first
    | intro _
    | with_reducible assumption
    | with_reducible refine bump_mask (sub_trans (by decide) hm) ?_
    | with_reducible refine enterActiveAgain_mask (sub_trans (by decide) hm) ?_
    | with_reducible refine modPort_mask (sub_trans (by decide) hm) ?_
    | with_reducible apply onFrame_mask (sub_trans (by decide) hm)
    | with_reducible refine queueLink_mask (sub_trans (by decide) hm) ?_
    | with_reducible apply answers_next
    | with_reducible apply ite_answers
    | with_reducible apply ite_mask
    | with_reducible apply ite_fst_mask
    | split
    | dsimp only)

theorem execTempRsp_answers {m : Nat} {s0 s : State} {n : Nat} {h : FrameHdr} {die : Nat} {half : Int} {valid : Bool} (hm : Sub 2293517 m) (hk : Mask m s0 s) :
    Answers m s0 (execTempRsp n h die half valid s) := by
  unfold execTempRsp
  repeat' (first
    | intro _
    | with_reducible assumption
    | with_reducible refine dieTempInhibit_mask (sub_trans (by decide) hm) ?_
    | with_reducible refine modChm_mask (sub_trans (by decide) hm) ?_
    | with_reducible refine modPort_mask (sub_trans (by decide) hm) ?_
    | with_reducible apply onFrame_mask (sub_trans (by decide) hm)
    | with_reducible apply answers_next
    | with_reducible apply ite_answers
    | with_reducible apply ite_mask
    | with_reducible apply ite_fst_mask
    | split
    | dsimp only)

theorem execAckTimerExpiry_answers {m : Nat} {s0 s : State} {n : Nat} (hm : Sub 4096 m) (hk : Mask m s0 s) :
    Answers m s0 (execAckTimerExpiry n s) := by
  unfold execAckTimerExpiry
  repeat' (first
    | intro _
    | with_reducible assumption
    | with_reducible refine modPort_mask (sub_trans (by decide) hm) ?_
    | with_reducible apply answers_next
    | with_reducible apply ite_answers
    | with_reducible apply ite_mask
    | with_reducible apply ite_fst_mask
    | split
    | dsimp only)

theorem execReplayTimerExpiry_answers {m : Nat} {s0 s : State} {n : Nat} (hm : Sub 2293513 m) (hk : Mask m s0 s) :
    Answers m s0 (execReplayTimerExpiry n s) := by
  unfold execReplayTimerExpiry
  repeat' (first
    | intro _
    | with_reducible assumption
    | with_reducible refine replayRound_mask (sub_trans (by decide) hm) ?_
    | with_reducible apply answers_next
    | with_reducible apply ite_answers
    | with_reducible apply ite_mask
    | with_reducible apply ite_fst_mask
    | split
    | dsimp only)

theorem execTransmitFrameBoundary_answers {m : Nat} {s0 s : State} {n : Nat} (hm : Sub 1060865 m) (hk : Mask m s0 s) :
    Answers m s0 (execTransmitFrameBoundary n s) := by
  unfold execTransmitFrameBoundary
  repeat' (first
    | intro _
    | with_reducible assumption
    | with_reducible refine modPort_mask (sub_trans (by decide) hm) ?_
    | with_reducible refine sendFrame_mask (sub_trans (by decide) hm) ?_
    | with_reducible refine setPortState_mask (sub_trans (by decide) hm) ?_
    | with_reducible refine transmitNext_mask (sub_trans (by decide) hm) ?_
    | with_reducible apply answers_next
    | with_reducible apply ite_answers
    | with_reducible apply ite_mask
    | with_reducible apply ite_fst_mask
    | split
    | dsimp only)

theorem execPortTrain_answers {m : Nat} {s0 s : State} {n : Nat} (hm : Sub 12289 m) (hk : Mask m s0 s) :
    Answers m s0 (execPortTrain n s) := by
  unfold execPortTrain
  repeat' (first
    | intro _
    | with_reducible assumption
    | with_reducible refine modPort_mask (sub_trans (by decide) hm) ?_
    | with_reducible refine setPortState_mask (sub_trans (by decide) hm) ?_
    | with_reducible apply answers_next
    | with_reducible apply ite_answers
    | with_reducible apply ite_mask
    | with_reducible apply ite_fst_mask
    | split
    | dsimp only)

theorem execPeerDetect_answers {m : Nat} {s0 s : State} {n : Nat} (hm : Sub 8193 m) (hk : Mask m s0 s) :
    Answers m s0 (execPeerDetect n s) := by
  unfold execPeerDetect
  repeat' (first
    | intro _
    | with_reducible assumption
    | with_reducible refine setPortState_mask (sub_trans (by decide) hm) ?_
    | with_reducible apply answers_next
    | with_reducible apply ite_answers
    | with_reducible apply ite_mask
    | with_reducible apply ite_fst_mask
    | split
    | dsimp only)

theorem execDetectTimeout_answers {m : Nat} {s0 s : State} {n : Nat} (hm : Sub 2293513 m) (hk : Mask m s0 s) :
    Answers m s0 (execDetectTimeout n s) := by
  unfold execDetectTimeout
  repeat' (first
    | intro _
    | with_reducible assumption
    | with_reducible refine failAttempt_mask (sub_trans (by decide) hm) ?_
    | with_reducible apply answers_next
    | with_reducible apply ite_answers
    | with_reducible apply ite_mask
    | with_reducible apply ite_fst_mask
    | split
    | dsimp only)

theorem execTrainingTimeout_answers {m : Nat} {s0 s : State} {n : Nat} (hm : Sub 2293513 m) (hk : Mask m s0 s) :
    Answers m s0 (execTrainingTimeout n s) := by
  unfold execTrainingTimeout
  repeat' (first
    | intro _
    | with_reducible assumption
    | with_reducible refine failAttempt_mask (sub_trans (by decide) hm) ?_
    | with_reducible apply answers_next
    | with_reducible apply ite_answers
    | with_reducible apply ite_mask
    | with_reducible apply ite_fst_mask
    | split
    | dsimp only)

theorem execRecalibrationDue_answers {m : Nat} {s0 s : State} {n : Nat} (hm : Sub 12289 m) (hk : Mask m s0 s) :
    Answers m s0 (execRecalibrationDue n s) := by
  unfold execRecalibrationDue
  repeat' (first
    | intro _
    | with_reducible assumption
    | with_reducible refine enterRecal_mask (sub_trans (by decide) hm) ?_
    | with_reducible apply answers_next
    | with_reducible apply ite_answers
    | with_reducible apply ite_mask
    | with_reducible apply ite_fst_mask
    | split
    | dsimp only)

theorem execRecalTimeout_answers {m : Nat} {s0 s : State} {n : Nat} (hm : Sub 2293513 m) (hk : Mask m s0 s) :
    Answers m s0 (execRecalTimeout n s) := by
  unfold execRecalTimeout
  repeat' (first
    | intro _
    | with_reducible assumption
    | with_reducible refine startRetrain_mask (sub_trans (by decide) hm) ?_
    | with_reducible apply answers_next
    | with_reducible apply ite_answers
    | with_reducible apply ite_mask
    | with_reducible apply ite_fst_mask
    | split
    | dsimp only)

theorem execRetrainTimeout_answers {m : Nat} {s0 s : State} {n : Nat} (hm : Sub 2293513 m) (hk : Mask m s0 s) :
    Answers m s0 (execRetrainTimeout n s) := by
  unfold execRetrainTimeout
  repeat' (first
    | intro _
    | with_reducible assumption
    | with_reducible refine startRetrain_mask (sub_trans (by decide) hm) ?_
    | with_reducible apply answers_next
    | with_reducible apply ite_answers
    | with_reducible apply ite_mask
    | with_reducible apply ite_fst_mask
    | split
    | dsimp only)

theorem execReceiveLockLoss_answers {m : Nat} {s0 s : State} {n : Nat} (hm : Sub 2293513 m) (hk : Mask m s0 s) :
    Answers m s0 (execReceiveLockLoss n s) := by
  unfold execReceiveLockLoss
  repeat' (first
    | intro _
    | with_reducible assumption
    | with_reducible refine startRetrain_mask (sub_trans (by decide) hm) ?_
    | with_reducible apply answers_next
    | with_reducible apply ite_answers
    | with_reducible apply ite_mask
    | with_reducible apply ite_fst_mask
    | split
    | dsimp only)

theorem execLockRegained_answers {m : Nat} {s0 s : State} {n : Nat} (hm : Sub 12289 m) (hk : Mask m s0 s) :
    Answers m s0 (execLockRegained n s) := by
  unfold execLockRegained
  repeat' (first
    | intro _
    | with_reducible assumption
    | with_reducible refine enterActiveAgain_mask (sub_trans (by decide) hm) ?_
    | with_reducible apply answers_next
    | with_reducible apply ite_answers
    | with_reducible apply ite_mask
    | with_reducible apply ite_fst_mask
    | split
    | dsimp only)

theorem execPortRetrain_answers {m : Nat} {s0 s : State} {n : Nat} (hm : Sub 2293513 m) (hk : Mask m s0 s) :
    Answers m s0 (execPortRetrain n s) := by
  unfold execPortRetrain
  repeat' (first
    | intro _
    | with_reducible assumption
    | with_reducible refine startRetrain_mask (sub_trans (by decide) hm) ?_
    | with_reducible apply answers_next
    | with_reducible apply ite_answers
    | with_reducible apply ite_mask
    | with_reducible apply ite_fst_mask
    | split
    | dsimp only)

theorem execPortRecal_answers {m : Nat} {s0 s : State} {n : Nat} (hm : Sub 4096 m) (hk : Mask m s0 s) :
    Answers m s0 (execPortRecal n s) := by
  unfold execPortRecal
  repeat' (first
    | intro _
    | with_reducible assumption
    | with_reducible refine modPort_mask (sub_trans (by decide) hm) ?_
    | with_reducible apply answers_next
    | with_reducible apply ite_answers
    | with_reducible apply ite_mask
    | with_reducible apply ite_fst_mask
    | split
    | dsimp only)

theorem execPortRetire_answers {m : Nat} {s0 s : State} {n cause : Nat} (hm : Sub 2293513 m) (hk : Mask m s0 s) :
    Answers m s0 (execPortRetire n cause s) := by
  unfold execPortRetire
  repeat' (first
    | intro _
    | with_reducible assumption
    | with_reducible refine retirePort_mask (sub_trans (by decide) hm) ?_
    | with_reducible apply answers_next
    | with_reducible apply ite_answers
    | with_reducible apply ite_mask
    | with_reducible apply ite_fst_mask
    | split
    | dsimp only)

theorem execPortHold_answers {m : Nat} {s0 s : State} {n : Nat} {v : Bool} (hm : Sub 1 m) (hk : Mask m s0 s) :
    Answers m s0 (execPortHold n v s) := by
  unfold execPortHold
  repeat' (first
    | intro _
    | with_reducible assumption
    | with_reducible refine wr_mask (sub_trans (by decide) hm) ?_
    | with_reducible apply answers_next
    | with_reducible apply ite_answers
    | with_reducible apply ite_mask
    | with_reducible apply ite_fst_mask
    | split
    | dsimp only)

theorem execNoStatusTimeout_answers {m : Nat} {s0 s : State} {n i : Nat} (hm : Sub 8192 m) (hk : Mask m s0 s) :
    Answers m s0 (execNoStatusTimeout n i s) := by
  unfold execNoStatusTimeout
  repeat' (first
    | intro _
    | with_reducible assumption
    | with_reducible refine closeOldest_mask (sub_trans (by decide) hm) ?_
    | with_reducible refine raise_mask (sub_trans (by decide) hm) ?_
    | with_reducible apply answers_next
    | with_reducible apply ite_answers
    | with_reducible apply ite_mask
    | with_reducible apply ite_fst_mask
    | split
    | dsimp only)

theorem execTempPoll_answers {m : Nat} {s0 s : State}  (hm : Sub 4096 m) (hk : Mask m s0 s) :
    Answers m s0 (execTempPoll s) := by
  unfold execTempPoll
  repeat' (first
    | intro _
    | with_reducible assumption
    | with_reducible refine modPort_mask (sub_trans (by decide) hm) ?_
    | with_reducible apply each_mask
    | with_reducible apply answers_next
    | with_reducible apply ite_answers
    | with_reducible apply ite_mask
    | with_reducible apply ite_fst_mask
    | split
    | dsimp only)

theorem execRefclkOutputCtl_answers {m : Nat} {s0 s : State} {v : U64} (hm : Sub 1 m) (hk : Mask m s0 s) :
    Answers m s0 (execRefclkOutputCtl v s) := by
  unfold execRefclkOutputCtl
  repeat' (first
    | intro _
    | with_reducible assumption
    | with_reducible refine wr_mask (sub_trans (by decide) hm) ?_
    | with_reducible apply foldl_mask
    | with_reducible apply foldl_fst_mask
    | with_reducible apply answers_next
    | with_reducible apply ite_answers
    | with_reducible apply ite_mask
    | with_reducible apply ite_fst_mask
    | split
    | dsimp only)

end Sys2Proof.Machine
end

