-- ==== Sys2Proof/Laws/PartsAttic.lean ====
section
/-!
SUPPORT. Which parts of the state the operations and commands of Attic touch.
-/
set_option linter.unusedTactic false
set_option linter.unreachableTactic false
set_option linter.unusedVariables false
namespace Sys2Proof.Machine

theorem execAtcPostGo_answers {m : Nat} {s0 s : State} {who : Agent} {code sev : Nat} (hm : Sub 8 m) (hk : Mask m s0 s) :
    Answers m s0 (execAtcPostGo who code sev s) := by
  unfold execAtcPostGo
  repeat' (first
    | intro _
    | with_reducible assumption
    | with_reducible refine post_mask (sub_trans (by decide) hm) ?_
    | with_reducible apply answers_next
    | with_reducible apply ite_answers
    | with_reducible apply ite_mask
    | with_reducible apply ite_fst_mask
    | split
    | dsimp only)

theorem execOperatingSecondEnd_answers {m : Nat} {s0 s : State}  (hm : Sub 42 m) (hk : Mask m s0 s) :
    Answers m s0 (execOperatingSecondEnd s) := by
  unfold execOperatingSecondEnd
  repeat' (first
    | intro _
    | with_reducible assumption
    | with_reducible refine appendRec_mask (sub_trans (by decide) hm) ?_
    | with_reducible refine modAtc_mask (sub_trans (by decide) hm) ?_
    | with_reducible refine modClo_mask (sub_trans (by decide) hm) ?_
    | with_reducible refine modPwr_mask (sub_trans (by decide) hm) ?_
    | with_reducible apply answers_next
    | with_reducible apply ite_answers
    | with_reducible apply ite_mask
    | with_reducible apply ite_fst_mask
    | split
    | dsimp only)

theorem execAtticMirrorProgram_answers {m : Nat} {s0 s : State}  (hm : Sub 8 m) (hk : Mask m s0 s) :
    Answers m s0 (execAtticMirrorProgram s) := by
  unfold execAtticMirrorProgram
  repeat' (first
    | intro _
    | with_reducible assumption
    | with_reducible refine modAtc_mask (sub_trans (by decide) hm) ?_
    | with_reducible apply foldl_mask
    | with_reducible apply foldl_fst_mask
    | with_reducible apply answers_next
    | with_reducible apply ite_answers
    | with_reducible apply ite_mask
    | with_reducible apply ite_fst_mask
    | split
    | dsimp only)

theorem pageProgram_mask {m : Nat} {s0 s : State}  (hm : Sub 8 m) (hk : Mask m s0 s) :
    Mask m s0 (pageProgram s) := by
  unfold pageProgram
  repeat' (first
    | intro _
    | with_reducible assumption
    | with_reducible refine modAtc_mask (sub_trans (by decide) hm) ?_
    | with_reducible apply ite_mask
    | with_reducible apply ite_fst_mask
    | split
    | dsimp only)

theorem execFullModePageProgram_answers {m : Nat} {s0 s : State}  (hm : Sub 8 m) (hk : Mask m s0 s) :
    Answers m s0 (execFullModePageProgram s) := by
  unfold execFullModePageProgram
  repeat' (first
    | intro _
    | with_reducible assumption
    | with_reducible refine pageProgram_mask (sub_trans (by decide) hm) ?_
    | with_reducible apply answers_next
    | with_reducible apply ite_answers
    | with_reducible apply ite_mask
    | with_reducible apply ite_fst_mask
    | split
    | dsimp only)

theorem execAtcWinCursorWrite_answers {m : Nat} {s0 s : State} {who : Agent} {w seq : Nat} (hm : Sub 8 m) (hk : Mask m s0 s) :
    Answers m s0 (execAtcWinCursorWrite who w seq s) := by
  unfold execAtcWinCursorWrite
  repeat' (first
    | intro _
    | with_reducible assumption
    | with_reducible refine modAtc_mask (sub_trans (by decide) hm) ?_
    | with_reducible apply answers_next
    | with_reducible apply ite_answers
    | with_reducible apply ite_mask
    | with_reducible apply ite_fst_mask
    | split
    | dsimp only)

theorem execWindowLatchDone_answers {m : Nat} {s0 s : State} {w : Nat} {unreadable : List Nat} (hm : Sub 8 m) (hk : Mask m s0 s) :
    Answers m s0 (execWindowLatchDone w unreadable s) := by
  unfold execWindowLatchDone
  repeat' (first
    | intro _
    | with_reducible assumption
    | with_reducible refine modAtc_mask (sub_trans (by decide) hm) ?_
    | with_reducible apply answers_next
    | with_reducible apply ite_answers
    | with_reducible apply ite_mask
    | with_reducible apply ite_fst_mask
    | split
    | dsimp only)

theorem execAtticCopyMove_answers {m : Nat} {s0 s : State} {which : Nat} (hm : Sub 8 m) (hk : Mask m s0 s) :
    Answers m s0 (execAtticCopyMove which s) := by
  unfold execAtticCopyMove
  repeat' (first
    | intro _
    | with_reducible assumption
    | with_reducible refine modAtc_mask (sub_trans (by decide) hm) ?_
    | with_reducible refine post_mask (sub_trans (by decide) hm) ?_
    | with_reducible apply foldl_mask
    | with_reducible apply foldl_fst_mask
    | with_reducible apply answers_next
    | with_reducible apply ite_answers
    | with_reducible apply ite_mask
    | with_reducible apply ite_fst_mask
    | split
    | dsimp only)

theorem execInServiceTestItem_answers {m : Nat} {s0 s : State} {item unit detail : Nat} {yielded passed : Bool} (hm : Sub 33800 m) (hk : Mask m s0 s) :
    Answers m s0 (execInServiceTestItem item unit detail yielded passed s) := by
  unfold execInServiceTestItem
  repeat' (first
    | intro _
    | with_reducible assumption
    | with_reducible refine modAtc_mask (sub_trans (by decide) hm) ?_
    | with_reducible refine post_mask (sub_trans (by decide) hm) ?_
    | with_reducible refine replaceDumpSuite_mask (sub_trans (by decide) hm) ?_
    | with_reducible apply answers_next
    | with_reducible apply ite_answers
    | with_reducible apply ite_mask
    | with_reducible apply ite_fst_mask
    | split
    | dsimp only)

theorem execDstSegment_answers {m : Nat} {s0 s : State} {passed : Bool} {lba : Nat} (hm : Sub 520 m) (hk : Mask m s0 s) :
    Answers m s0 (execDstSegment passed lba s) := by
  unfold execDstSegment
  repeat' (first
    | intro _
    | with_reducible assumption
    | with_reducible refine dstEnd_mask (sub_trans (by decide) hm) ?_
    | with_reducible refine modAtc_mask (sub_trans (by decide) hm) ?_
    | with_reducible apply answers_next
    | with_reducible apply ite_answers
    | with_reducible apply ite_mask
    | with_reducible apply ite_fst_mask
    | split
    | dsimp only)

theorem execDstLimitExpiry_answers {m : Nat} {s0 s : State}  (hm : Sub 520 m) (hk : Mask m s0 s) :
    Answers m s0 (execDstLimitExpiry s) := by
  unfold execDstLimitExpiry
  repeat' (first
    | intro _
    | with_reducible assumption
    | with_reducible refine dstEnd_mask (sub_trans (by decide) hm) ?_
    | with_reducible apply answers_next
    | with_reducible apply ite_answers
    | with_reducible apply ite_mask
    | with_reducible apply ite_fst_mask
    | split
    | dsimp only)

end Sys2Proof.Machine
end

