-- ==== Sys2Proof/Laws/PartsPower.lean ====
section
/-!
SUPPORT. Which parts of the state the operations and commands of Power touch.
-/
set_option linter.unusedTactic false
set_option linter.unreachableTactic false
set_option linter.unusedVariables false
namespace Sys2Proof.Machine

theorem confAppend_mask {m : Nat} {s0 s : State} {typ : Nat} {payload : List Nat} (hm : Sub 32 m) (hk : Mask m s0 s) :
    Mask m s0 (confAppend s typ payload) := by
  unfold confAppend
  repeat' (first
    | intro _
    | with_reducible assumption
    | with_reducible refine modClo_mask (sub_trans (by decide) hm) ?_
    | with_reducible apply ite_mask
    | with_reducible apply ite_fst_mask
    | split
    | dsimp only)

theorem norUndefined_mask {m : Nat} {s0 s : State} {sec : Nat} (hm : Sub 2097184 m) (hk : Mask m s0 s) :
    Mask m s0 (norUndefined s sec) := by
  unfold norUndefined
  repeat' (first
    | intro _
    | with_reducible assumption
    | with_reducible refine modClo_mask (sub_trans (by decide) hm) ?_
    | with_reducible refine ticks_mask (sub_trans (by decide) hm) ?_
    | with_reducible apply ite_mask
    | with_reducible apply ite_fst_mask
    | split
    | dsimp only)

theorem cutCloset_mask {m : Nat} {s0 s : State}  (hm : Sub 2097184 m) (hk : Mask m s0 s) :
    Mask m s0 (cutCloset s) := by
  unfold cutCloset
  repeat' (first
    | intro _
    | with_reducible assumption
    | with_reducible refine modClo_mask (sub_trans (by decide) hm) ?_
    | with_reducible refine norUndefined_mask (sub_trans (by decide) hm) ?_
    | with_reducible refine tick_mask (sub_trans (by decide) hm) ?_
    | with_reducible apply each_mask
    | with_reducible apply ite_mask
    | with_reducible apply ite_fst_mask
    | split
    | dsimp only)

theorem blank_mask {m : Nat} {s0 s : State} {keep : Nat → Bool} (hm : Sub 1048575 m) (hk : Mask m s0 s) : Mask m s0 (blank s keep) := by
  refine mask_trans hk (mask_mono hm ⟨rfl, fun p hp => ?_⟩)
  cases p
  all_goals first
    | rfl
    | exact absurd hp (by decide)

theorem enterOff_mask {m : Nat} {s0 s : State}  (hm : Sub 1048575 m) (hk : Mask m s0 s) :
    Mask m s0 (enterOff s) := by
  unfold enterOff
  repeat' (first
    | intro _
    | with_reducible assumption
    | with_reducible refine blank_mask (sub_trans (by decide) hm) ?_
    | with_reducible refine modPwr_mask (sub_trans (by decide) hm) ?_
    | with_reducible apply ite_mask
    | with_reducible apply ite_fst_mask
    | split
    | dsimp only)

theorem atticStart_mask {m : Nat} {s0 s : State} {keepRing : Option Attic} (hm : Sub 8 m) (hk : Mask m s0 s) :
    Mask m s0 (atticStart s keepRing) := by
  unfold atticStart
  repeat' (first
    | intro _
    | with_reducible assumption
    | with_reducible refine modAtc_mask (sub_trans (by decide) hm) ?_
    | with_reducible refine post_mask (sub_trans (by decide) hm) ?_
    | with_reducible apply ite_mask
    | with_reducible apply ite_fst_mask
    | split
    | dsimp only)

theorem bootStart_mask {m : Nat} {s0 s : State} {keepRing : Option Attic} (hm : Sub 10 m) (hk : Mask m s0 s) :
    Mask m s0 (bootStart s keepRing) := by
  unfold bootStart
  repeat' (first
    | intro _
    | with_reducible assumption
    | with_reducible refine atticStart_mask (sub_trans (by decide) hm) ?_
    | with_reducible refine modPwr_mask (sub_trans (by decide) hm) ?_
    | with_reducible refine post_mask (sub_trans (by decide) hm) ?_
    | with_reducible apply ite_mask
    | with_reducible apply ite_fst_mask
    | split
    | dsimp only)

theorem execPowerOnResetRelease_answers {m : Nat} {s0 s : State}  (hm : Sub 1048575 m) (hk : Mask m s0 s) :
    Answers m s0 (execPowerOnResetRelease s) := by
  unfold execPowerOnResetRelease
  repeat' (first
    | intro _
    | with_reducible assumption
    | with_reducible refine blank_mask (sub_trans (by decide) hm) ?_
    | with_reducible refine bootStart_mask (sub_trans (by decide) hm) ?_
    | with_reducible refine confAppend_mask (sub_trans (by decide) hm) ?_
    | with_reducible refine modBsm_mask (sub_trans (by decide) hm) ?_
    | with_reducible refine modChm_mask (sub_trans (by decide) hm) ?_
    | with_reducible refine modPwr_mask (sub_trans (by decide) hm) ?_
    | with_reducible refine modScu_mask (sub_trans (by decide) hm) ?_
    | with_reducible apply answers_next
    | with_reducible apply ite_answers
    | with_reducible apply ite_mask
    | with_reducible apply ite_fst_mask
    | split
    | dsimp only)

theorem watchdogRestart_mask {m : Nat} {s0 s : State} {cause : Nat} (hm : Sub 1048575 m) (hk : Mask m s0 s) :
    Mask m s0 (watchdogRestart s cause) := by
  unfold watchdogRestart
  repeat' (first
    | intro _
    | with_reducible assumption
    | with_reducible refine blank_mask (sub_trans (by decide) hm) ?_
    | with_reducible refine bootStart_mask (sub_trans (by decide) hm) ?_
    | with_reducible refine modPwr_mask (sub_trans (by decide) hm) ?_
    | with_reducible refine modStg_mask (sub_trans (by decide) hm) ?_
    | with_reducible apply ite_mask
    | with_reducible apply ite_fst_mask
    | split
    | dsimp only)

theorem freeze_mask {m : Nat} {s0 s : State} {manifestOnly : Bool} (hm : Sub 3072 m) (hk : Mask m s0 s) :
    Mask m s0 (freeze s manifestOnly) := by
  unfold freeze
  repeat' (first
    | intro _
    | with_reducible assumption
    | with_reducible refine modLdr_mask (sub_trans (by decide) hm) ?_
    | with_reducible refine returnSlots_mask (sub_trans (by decide) hm) ?_
    | with_reducible apply ite_mask
    | with_reducible apply ite_fst_mask
    | split
    | dsimp only)

theorem offerDump_mask {m : Nat} {s0 s : State} {img : DumpImg} (hm : Sub 4352 m) (hk : Mask m s0 s) :
    Mask m s0 (offerDump s img) := by
  unfold offerDump
  repeat' (first
    | intro _
    | with_reducible assumption
    | with_reducible refine dumpProgram_mask (sub_trans (by decide) hm) ?_
    | with_reducible apply each_mask
    | with_reducible apply ite_mask
    | with_reducible apply ite_fst_mask
    | split
    | dsimp only)

theorem startDump_mask {m : Nat} {s0 s : State}  (hm : Sub 7427 m) (hk : Mask m s0 s) :
    Mask m s0 (startDump s) := by
  unfold startDump
  repeat' (first
    | intro _
    | with_reducible assumption
    | with_reducible refine clr1_mask (sub_trans (by decide) hm) ?_
    | with_reducible refine freeze_mask (sub_trans (by decide) hm) ?_
    | with_reducible refine modLdr_mask (sub_trans (by decide) hm) ?_
    | with_reducible refine modPwr_mask (sub_trans (by decide) hm) ?_
    | with_reducible refine offerDump_mask (sub_trans (by decide) hm) ?_
    | with_reducible apply ite_mask
    | with_reducible apply ite_fst_mask
    | split
    | dsimp only)

theorem afterDump_mask {m : Nat} {s0 s : State}  (hm : Sub 1048575 m) (hk : Mask m s0 s) :
    Mask m s0 (afterDump s) := by
  unfold afterDump
  repeat' (first
    | intro _
    | with_reducible assumption
    | with_reducible refine enterOff_mask (sub_trans (by decide) hm) ?_
    | with_reducible refine watchdogRestart_mask (sub_trans (by decide) hm) ?_
    | with_reducible apply ite_mask
    | with_reducible apply ite_fst_mask
    | split
    | dsimp only)

theorem goDown_mask {m : Nat} {s0 s : State}  (hm : Sub 1048575 m) (hk : Mask m s0 s) :
    Mask m s0 (goDown s) := by
  unfold goDown
  repeat' (first
    | intro _
    | with_reducible assumption
    | with_reducible refine afterDump_mask (sub_trans (by decide) hm) ?_
    | with_reducible refine modPwr_mask (sub_trans (by decide) hm) ?_
    | with_reducible refine startDump_mask (sub_trans (by decide) hm) ?_
    | with_reducible apply ite_mask
    | with_reducible apply ite_fst_mask
    | split
    | dsimp only)

theorem restartAfterLoss_mask {m : Nat} {s0 s : State}  (hm : Sub 1048575 m) (hk : Mask m s0 s) :
    Mask m s0 (restartAfterLoss s) := by
  unfold restartAfterLoss
  repeat' (first
    | intro _
    | with_reducible assumption
    | with_reducible refine goDown_mask (sub_trans (by decide) hm) ?_
    | with_reducible refine modPwr_mask (sub_trans (by decide) hm) ?_
    | with_reducible apply ite_mask
    | with_reducible apply ite_fst_mask
    | split
    | dsimp only)

theorem watchdogReset_mask {m : Nat} {s0 s : State} {cause : Nat} (hm : Sub 1048575 m) (hk : Mask m s0 s) :
    Mask m s0 (watchdogReset s cause) := by
  unfold watchdogReset
  repeat' (first
    | intro _
    | with_reducible assumption
    | with_reducible refine afterDump_mask (sub_trans (by decide) hm) ?_
    | with_reducible refine goDown_mask (sub_trans (by decide) hm) ?_
    | with_reducible refine modPwr_mask (sub_trans (by decide) hm) ?_
    | with_reducible apply ite_mask
    | with_reducible apply ite_fst_mask
    | split
    | dsimp only)

theorem execPwrfailAssert_answers {m : Nat} {s0 s : State}  (hm : Sub 1048575 m) (hk : Mask m s0 s) :
    Answers m s0 (execPwrfailAssert s) := by
  unfold execPwrfailAssert
  repeat' (first
    | intro _
    | with_reducible assumption
    | with_reducible refine enterOff_mask (sub_trans (by decide) hm) ?_
    | with_reducible refine modPwr_mask (sub_trans (by decide) hm) ?_
    | with_reducible refine set1_mask (sub_trans (by decide) hm) ?_
    | with_reducible refine startDump_mask (sub_trans (by decide) hm) ?_
    | with_reducible refine wake_mask (sub_trans (by decide) hm) ?_
    | with_reducible refine wr_mask (sub_trans (by decide) hm) ?_
    | with_reducible apply answers_next
    | with_reducible apply ite_answers
    | with_reducible apply ite_mask
    | with_reducible apply ite_fst_mask
    | split
    | dsimp only)

theorem execPwrfailDeassert_answers {m : Nat} {s0 s : State}  (hm : Sub 2 m) (hk : Mask m s0 s) :
    Answers m s0 (execPwrfailDeassert s) := by
  unfold execPwrfailDeassert
  repeat' (first
    | intro _
    | with_reducible assumption
    | with_reducible refine modPwr_mask (sub_trans (by decide) hm) ?_
    | with_reducible apply answers_next
    | with_reducible apply ite_answers
    | with_reducible apply ite_mask
    | with_reducible apply ite_fst_mask
    | split
    | dsimp only)

theorem execPwrfailReleaseExpiry_answers {m : Nat} {s0 s : State}  (hm : Sub 2137866 m) (hk : Mask m s0 s) :
    Answers m s0 (execPwrfailReleaseExpiry s) := by
  unfold execPwrfailReleaseExpiry
  repeat' (first
    | intro _
    | with_reducible assumption
    | with_reducible refine modPwr_mask (sub_trans (by decide) hm) ?_
    | with_reducible refine post_mask (sub_trans (by decide) hm) ?_
    | with_reducible refine pumpAll_mask (sub_trans (by decide) hm) ?_
    | with_reducible refine tick_mask (sub_trans (by decide) hm) ?_
    | with_reducible refine wtCheck_mask (sub_trans (by decide) hm) ?_
    | with_reducible apply answers_next
    | with_reducible apply ite_answers
    | with_reducible apply ite_mask
    | with_reducible apply ite_fst_mask
    | split
    | dsimp only)

theorem execDumpDirectoryPass_answers {m : Nat} {s0 s : State}  (hm : Sub 1048575 m) (hk : Mask m s0 s) :
    Answers m s0 (execDumpDirectoryPass s) := by
  unfold execDumpDirectoryPass
  repeat' (first
    | intro _
    | with_reducible assumption
    | with_reducible refine afterDump_mask (sub_trans (by decide) hm) ?_
    | with_reducible apply answers_next
    | with_reducible apply ite_answers
    | with_reducible apply ite_mask
    | with_reducible apply ite_fst_mask
    | split
    | dsimp only)

theorem execMainSupplyDrop_answers {μ : Nat} {s0 s : State} {m : MainSupply} (hm : Sub 3145727 μ) (hk : Mask μ s0 s) :
    Answers μ s0 (execMainSupplyDrop m s) := by
  unfold execMainSupplyDrop
  repeat' (first
    | intro _
    | with_reducible assumption
    | with_reducible refine blank_mask (sub_trans (by decide) hm) ?_
    | with_reducible refine cutCloset_mask (sub_trans (by decide) hm) ?_
    | with_reducible refine modLdr_mask (sub_trans (by decide) hm) ?_
    | with_reducible refine modPwr_mask (sub_trans (by decide) hm) ?_
    | with_reducible apply answers_next
    | with_reducible apply ite_answers
    | with_reducible apply ite_mask
    | with_reducible apply ite_fst_mask
    | split
    | dsimp only)

theorem execVauxLoss_answers {m : Nat} {s0 s : State}  (hm : Sub 3 m) (hk : Mask m s0 s) :
    Answers m s0 (execVauxLoss s) := by
  unfold execVauxLoss
  repeat' (first
    | intro _
    | with_reducible assumption
    | with_reducible refine modPwr_mask (sub_trans (by decide) hm) ?_
    | with_reducible refine wr_mask (sub_trans (by decide) hm) ?_
    | with_reducible apply answers_next
    | with_reducible apply ite_answers
    | with_reducible apply ite_mask
    | with_reducible apply ite_fst_mask
    | split
    | dsimp only)

theorem execVauxApply_answers {m : Nat} {s0 s : State}  (hm : Sub 2 m) (hk : Mask m s0 s) :
    Answers m s0 (execVauxApply s) := by
  unfold execVauxApply
  repeat' (first
    | intro _
    | with_reducible assumption
    | with_reducible refine modPwr_mask (sub_trans (by decide) hm) ?_
    | with_reducible apply answers_next
    | with_reducible apply ite_answers
    | with_reducible apply ite_mask
    | with_reducible apply ite_fst_mask
    | split
    | dsimp only)

theorem execShutdownLatchClear_answers {m : Nat} {s0 s : State}  (hm : Sub 2 m) (hk : Mask m s0 s) :
    Answers m s0 (execShutdownLatchClear s) := by
  unfold execShutdownLatchClear
  repeat' (first
    | intro _
    | with_reducible assumption
    | with_reducible refine modPwr_mask (sub_trans (by decide) hm) ?_
    | with_reducible apply answers_next
    | with_reducible apply ite_answers
    | with_reducible apply ite_mask
    | with_reducible apply ite_fst_mask
    | split
    | dsimp only)

theorem execRefclkLoss_answers {m : Nat} {s0 s : State}  (hm : Sub 1048575 m) (hk : Mask m s0 s) :
    Answers m s0 (execRefclkLoss s) := by
  unfold execRefclkLoss
  repeat' (first
    | intro _
    | with_reducible assumption
    | with_reducible refine goDown_mask (sub_trans (by decide) hm) ?_
    | with_reducible refine modPwr_mask (sub_trans (by decide) hm) ?_
    | with_reducible refine set1_mask (sub_trans (by decide) hm) ?_
    | with_reducible apply answers_next
    | with_reducible apply ite_answers
    | with_reducible apply ite_mask
    | with_reducible apply ite_fst_mask
    | split
    | dsimp only)

theorem execLinkWake_answers {m : Nat} {s0 s : State} {p : Nat} (hm : Sub 8339 m) (hk : Mask m s0 s) :
    Answers m s0 (execLinkWake p s) := by
  unfold execLinkWake
  repeat' (first
    | intro _
    | with_reducible assumption
    | with_reducible refine modHport_mask (sub_trans (by decide) hm) ?_
    | with_reducible refine wake_mask (sub_trans (by decide) hm) ?_
    | with_reducible apply answers_next
    | with_reducible apply ite_answers
    | with_reducible apply ite_mask
    | with_reducible apply ite_fst_mask
    | split
    | dsimp only)

theorem execWakeTimerExpiry_answers {m : Nat} {s0 s : State}  (hm : Sub 1056787 m) (hk : Mask m s0 s) :
    Answers m s0 (execWakeTimerExpiry s) := by
  unfold execWakeTimerExpiry
  repeat' (first
    | intro _
    | with_reducible assumption
    | with_reducible refine emit_mask (sub_trans (by decide) hm) ?_
    | with_reducible refine modPwr_mask (sub_trans (by decide) hm) ?_
    | with_reducible refine wake_mask (sub_trans (by decide) hm) ?_
    | with_reducible refine wr_mask (sub_trans (by decide) hm) ?_
    | with_reducible apply answers_next
    | with_reducible apply ite_answers
    | with_reducible apply ite_mask
    | with_reducible apply ite_fst_mask
    | split
    | dsimp only)

theorem execI3cStaticAddressStart_answers {m : Nat} {s0 s : State}  (hm : Sub 1048578 m) (hk : Mask m s0 s) :
    Answers m s0 (execI3cStaticAddressStart s) := by
  unfold execI3cStaticAddressStart
  repeat' (first
    | intro _
    | with_reducible assumption
    | with_reducible refine emit_mask (sub_trans (by decide) hm) ?_
    | with_reducible refine modPwr_mask (sub_trans (by decide) hm) ?_
    | with_reducible apply answers_next
    | with_reducible apply ite_answers
    | with_reducible apply ite_mask
    | with_reducible apply ite_fst_mask
    | split
    | dsimp only)

theorem execPllEnable_answers {m : Nat} {s0 s : State}  (hm : Sub 1 m) (hk : Mask m s0 s) :
    Answers m s0 (execPllEnable s) := by
  unfold execPllEnable
  repeat' (first
    | intro _
    | with_reducible assumption
    | with_reducible refine set1_mask (sub_trans (by decide) hm) ?_
    | with_reducible apply answers_next
    | with_reducible apply ite_answers
    | with_reducible apply ite_mask
    | with_reducible apply ite_fst_mask
    | split
    | dsimp only)

theorem execPllLock_answers {m : Nat} {s0 s : State}  (hm : Sub 1 m) (hk : Mask m s0 s) :
    Answers m s0 (execPllLock s) := by
  unfold execPllLock
  repeat' (first
    | intro _
    | with_reducible assumption
    | with_reducible refine set1_mask (sub_trans (by decide) hm) ?_
    | with_reducible apply answers_next
    | with_reducible apply ite_answers
    | with_reducible apply ite_mask
    | with_reducible apply ite_fst_mask
    | split
    | dsimp only)

theorem advanceTime_mask {m : Nat} {s0 s : State}  (hm : Sub 2 m) (hk : Mask m s0 s) :
    Mask m s0 (advanceTime s) := by
  unfold advanceTime
  repeat' (first
    | intro _
    | with_reducible assumption
    | with_reducible refine modPwr_mask (sub_trans (by decide) hm) ?_
    | with_reducible apply ite_mask
    | with_reducible apply ite_fst_mask
    | split
    | dsimp only)

theorem execClockSelect_answers {m : Nat} {s0 s : State}  (hm : Sub 19 m) (hk : Mask m s0 s) :
    Answers m s0 (execClockSelect s) := by
  unfold execClockSelect
  repeat' (first
    | intro _
    | with_reducible assumption
    | with_reducible refine advanceTime_mask (sub_trans (by decide) hm) ?_
    | with_reducible refine modStd_mask (sub_trans (by decide) hm) ?_
    | with_reducible refine set1_mask (sub_trans (by decide) hm) ?_
    | with_reducible apply answers_next
    | with_reducible apply ite_answers
    | with_reducible apply ite_mask
    | with_reducible apply ite_fst_mask
    | split
    | dsimp only)

theorem execStdDomainEnWrite_answers {m : Nat} {s0 s : State} {v : U64} (hm : Sub 2293513 m) (hk : Mask m s0 s) :
    Answers m s0 (execStdDomainEnWrite v s) := by
  unfold execStdDomainEnWrite
  repeat' (first
    | intro _
    | with_reducible assumption
    | with_reducible refine startRetrain_mask (sub_trans (by decide) hm) ?_
    | with_reducible refine wr_mask (sub_trans (by decide) hm) ?_
    | with_reducible apply each_mask
    | with_reducible apply answers_next
    | with_reducible apply ite_answers
    | with_reducible apply ite_mask
    | with_reducible apply ite_fst_mask
    | split
    | dsimp only)

theorem execStdPadRelease_answers {m : Nat} {s0 s : State}  (hm : Sub 2 m) (hk : Mask m s0 s) :
    Answers m s0 (execStdPadRelease s) := by
  unfold execStdPadRelease
  repeat' (first
    | intro _
    | with_reducible assumption
    | with_reducible refine modPwr_mask (sub_trans (by decide) hm) ?_
    | with_reducible apply answers_next
    | with_reducible apply ite_answers
    | with_reducible apply ite_mask
    | with_reducible apply ite_fst_mask
    | split
    | dsimp only)

theorem execLsoCorrection_answers {m : Nat} {s0 s : State} {ticks : Nat} {corr : Int} (hm : Sub 2097155 m) (hk : Mask m s0 s) :
    Answers m s0 (execLsoCorrection ticks corr s) := by
  unfold execLsoCorrection
  repeat' (first
    | intro _
    | with_reducible assumption
    | with_reducible refine modPwr_mask (sub_trans (by decide) hm) ?_
    | with_reducible refine ticks_mask (sub_trans (by decide) hm) ?_
    | with_reducible refine wr_mask (sub_trans (by decide) hm) ?_
    | with_reducible apply answers_next
    | with_reducible apply ite_answers
    | with_reducible apply ite_mask
    | with_reducible apply ite_fst_mask
    | split
    | dsimp only)

theorem enterNonop_mask {m : Nat} {s0 s : State} {mode : Nat} (hm : Sub 13339 m) (hk : Mask m s0 s) :
    Mask m s0 (enterNonop s mode) := by
  unfold enterNonop
  repeat' (first
    | intro _
    | with_reducible assumption
    | with_reducible refine clr1_mask (sub_trans (by decide) hm) ?_
    | with_reducible refine modPan_mask (sub_trans (by decide) hm) ?_
    | with_reducible refine modPort_mask (sub_trans (by decide) hm) ?_
    | with_reducible refine modPwr_mask (sub_trans (by decide) hm) ?_
    | with_reducible refine modStd_mask (sub_trans (by decide) hm) ?_
    | with_reducible refine pageProgram_mask (sub_trans (by decide) hm) ?_
    | with_reducible refine setPortState_mask (sub_trans (by decide) hm) ?_
    | with_reducible refine wake_mask (sub_trans (by decide) hm) ?_
    | with_reducible refine wr_mask (sub_trans (by decide) hm) ?_
    | with_reducible apply each_mask
    | with_reducible apply ite_mask
    | with_reducible apply ite_fst_mask
    | split
    | dsimp only)

theorem thermalShutdown_mask {m : Nat} {s0 s : State} {k : Nat} (hm : Sub 1048575 m) (hk : Mask m s0 s) :
    Mask m s0 (thermalShutdown s k) := by
  unfold thermalShutdown
  repeat' (first
    | intro _
    | with_reducible assumption
    | with_reducible refine afterDump_mask (sub_trans (by decide) hm) ?_
    | with_reducible refine goDown_mask (sub_trans (by decide) hm) ?_
    | with_reducible refine modPwr_mask (sub_trans (by decide) hm) ?_
    | with_reducible refine wake_mask (sub_trans (by decide) hm) ?_
    | with_reducible apply ite_mask
    | with_reducible apply ite_fst_mask
    | split
    | dsimp only)

theorem execSensorConversion_answers {m : Nat} {s0 s : State} {k raw : Nat} {reading : Int} (hm : Sub 1048575 m) (hk : Mask m s0 s) :
    Answers m s0 (execSensorConversion k raw reading s) := by
  unfold execSensorConversion
  repeat' (first
    | intro _
    | with_reducible assumption
    | with_reducible refine asyncEvent_mask (sub_trans (by decide) hm) ?_
    | with_reducible refine modChm_mask (sub_trans (by decide) hm) ?_
    | with_reducible refine serveEvents_mask (sub_trans (by decide) hm) ?_
    | with_reducible refine thermalShutdown_mask (sub_trans (by decide) hm) ?_
    | with_reducible refine wake_mask (sub_trans (by decide) hm) ?_
    | with_reducible apply each_mask
    | with_reducible apply answers_next
    | with_reducible apply ite_answers
    | with_reducible apply ite_mask
    | with_reducible apply ite_fst_mask
    | split
    | dsimp only)

theorem stepCheck_mask {m : Nat} {s0 s : State}  (hm : Sub 8196 m) (hk : Mask m s0 s) :
    Mask m s0 (stepCheck s) := by
  unfold stepCheck
  repeat' (first
    | intro _
    | with_reducible assumption
    | with_reducible refine modChm_mask (sub_trans (by decide) hm) ?_
    | with_reducible refine raise_mask (sub_trans (by decide) hm) ?_
    | with_reducible apply ite_mask
    | with_reducible apply ite_fst_mask
    | split
    | dsimp only)

theorem execThermalStepRecompute_answers {m : Nat} {s0 s : State}  (hm : Sub 8196 m) (hk : Mask m s0 s) :
    Answers m s0 (execThermalStepRecompute s) := by
  unfold execThermalStepRecompute
  repeat' (first
    | intro _
    | with_reducible assumption
    | with_reducible refine modChm_mask (sub_trans (by decide) hm) ?_
    | with_reducible refine stepCheck_mask (sub_trans (by decide) hm) ?_
    | with_reducible apply foldl_mask
    | with_reducible apply foldl_fst_mask
    | with_reducible apply answers_next
    | with_reducible apply ite_answers
    | with_reducible apply ite_mask
    | with_reducible apply ite_fst_mask
    | split
    | dsimp only)

theorem execPowerGovernorTick_answers {m : Nat} {s0 s : State} {power : Nat} (hm : Sub 4 m) (hk : Mask m s0 s) :
    Answers m s0 (execPowerGovernorTick power s) := by
  unfold execPowerGovernorTick
  repeat' (first
    | intro _
    | with_reducible assumption
    | with_reducible refine modChm_mask (sub_trans (by decide) hm) ?_
    | with_reducible apply answers_next
    | with_reducible apply ite_answers
    | with_reducible apply ite_mask
    | with_reducible apply ite_fst_mask
    | split
    | dsimp only)

theorem execPortStepRecompute_answers {m : Nat} {s0 s : State}  (hm : Sub 4 m) (hk : Mask m s0 s) :
    Answers m s0 (execPortStepRecompute s) := by
  unfold execPortStepRecompute
  repeat' (first
    | intro _
    | with_reducible assumption
    | with_reducible refine modChm_mask (sub_trans (by decide) hm) ?_
    | with_reducible apply each_mask
    | with_reducible apply answers_next
    | with_reducible apply ite_answers
    | with_reducible apply ite_mask
    | with_reducible apply ite_fst_mask
    | split
    | dsimp only)

end Sys2Proof.Machine
end

