-- ==== Sys2Proof/Laws/PartsStrongroom.lean ====
section
/-!
SUPPORT. Which parts of the state the operations and commands of Strongroom touch.
-/
set_option linter.unusedTactic false
set_option linter.unreachableTactic false
set_option linter.unusedVariables false
namespace Sys2Proof.Machine

theorem grantLock_mask {m : Nat} {s0 s : State}  (hm : Sub 1 m) (hk : Mask m s0 s) :
    Mask m s0 (grantLock s) := by
  unfold grantLock
  repeat' (first
    | intro _
    | with_reducible assumption
    | with_reducible refine wr_mask (sub_trans (by decide) hm) ?_
    | with_reducible apply ite_mask
    | with_reducible apply ite_fst_mask
    | split
    | dsimp only)

theorem execStgLockAcquire_answers {m : Nat} {s0 s : State} {own : Nat} (hm : Sub 1 m) (hk : Mask m s0 s) :
    Answers m s0 (execStgLockAcquire own s) := by
  unfold execStgLockAcquire
  repeat' (first
    | intro _
    | with_reducible assumption
    | with_reducible refine grantLock_mask (sub_trans (by decide) hm) ?_
    | with_reducible refine wr_mask (sub_trans (by decide) hm) ?_
    | with_reducible apply when_mask
    | with_reducible apply answers_next
    | with_reducible apply ite_answers
    | with_reducible apply ite_mask
    | with_reducible apply ite_fst_mask
    | split
    | dsimp only)

theorem execStgLockRelease_answers {m : Nat} {s0 s : State} {own : Nat} (hm : Sub 1 m) (hk : Mask m s0 s) :
    Answers m s0 (execStgLockRelease own s) := by
  unfold execStgLockRelease
  repeat' (first
    | intro _
    | with_reducible assumption
    | with_reducible refine grantLock_mask (sub_trans (by decide) hm) ?_
    | with_reducible apply when_mask
    | with_reducible apply answers_next
    | with_reducible apply ite_answers
    | with_reducible apply ite_mask
    | with_reducible apply ite_fst_mask
    | split
    | dsimp only)

theorem execKmeLockTimeout_answers {m : Nat} {s0 s : State}  (hm : Sub 73 m) (hk : Mask m s0 s) :
    Answers m s0 (execKmeLockTimeout s) := by
  unfold execKmeLockTimeout
  repeat' (first
    | intro _
    | with_reducible assumption
    | with_reducible refine clr1_mask (sub_trans (by decide) hm) ?_
    | with_reducible refine failSlot_mask (sub_trans (by decide) hm) ?_
    | with_reducible refine grantLock_mask (sub_trans (by decide) hm) ?_
    | with_reducible refine modStg_mask (sub_trans (by decide) hm) ?_
    | with_reducible refine post_mask (sub_trans (by decide) hm) ?_
    | with_reducible refine set1_mask (sub_trans (by decide) hm) ?_
    | with_reducible refine wr_mask (sub_trans (by decide) hm) ?_
    | with_reducible apply when_mask
    | with_reducible apply answers_next
    | with_reducible apply ite_answers
    | with_reducible apply ite_mask
    | with_reducible apply ite_fst_mask
    | split
    | dsimp only)

theorem kmeResult_mask {m : Nat} {s0 s : State} {op r : Nat} (hm : Sub 1 m) (hk : Mask m s0 s) :
    Mask m s0 (kmeResult s op r) := by
  unfold kmeResult
  repeat' (first
    | intro _
    | with_reducible assumption
    | with_reducible refine wr_mask (sub_trans (by decide) hm) ?_
    | with_reducible apply ite_mask
    | with_reducible apply ite_fst_mask
    | split
    | dsimp only)

theorem kmeStart_mask {m : Nat} {s0 s : State} {o : KmeOp} {granted : Bool} (hm : Sub 65 m) (hk : Mask m s0 s) :
    Mask m s0 (kmeStart s o granted) := by
  unfold kmeStart
  repeat' (first
    | intro _
    | with_reducible assumption
    | with_reducible refine kmeResult_mask (sub_trans (by decide) hm) ?_
    | with_reducible refine modStg_mask (sub_trans (by decide) hm) ?_
    | with_reducible refine set1_mask (sub_trans (by decide) hm) ?_
    | with_reducible apply ite_mask
    | with_reducible apply ite_fst_mask
    | split
    | dsimp only)

theorem execUnwrapLoad_answers {m : Nat} {s0 s : State} {own kind nsid range auth slot cred : Nat} (hm : Sub 65 m) (hk : Mask m s0 s) :
    Answers m s0 (execUnwrapLoad own kind nsid range auth slot cred s) := by
  unfold execUnwrapLoad
  repeat' (first
    | intro _
    | with_reducible assumption
    | with_reducible refine kmeStart_mask (sub_trans (by decide) hm) ?_
    | with_reducible apply answers_next
    | with_reducible apply ite_answers
    | with_reducible apply ite_mask
    | with_reducible apply ite_fst_mask
    | split
    | dsimp only)

theorem execGenerate_answers {m : Nat} {s0 s : State} {own kind nsid range auth slot cred : Nat} (hm : Sub 65 m) (hk : Mask m s0 s) :
    Answers m s0 (execGenerate own kind nsid range auth slot cred s) := by
  unfold execGenerate
  repeat' (first
    | intro _
    | with_reducible assumption
    | with_reducible refine kmeStart_mask (sub_trans (by decide) hm) ?_
    | with_reducible apply answers_next
    | with_reducible apply ite_answers
    | with_reducible apply ite_mask
    | with_reducible apply ite_fst_mask
    | split
    | dsimp only)

theorem execRewrap_answers {m : Nat} {s0 s : State} {own nsid range auth cred newAuth newCred : Nat} (hm : Sub 65 m) (hk : Mask m s0 s) :
    Answers m s0 (execRewrap own nsid range auth cred newAuth newCred s) := by
  unfold execRewrap
  repeat' (first
    | intro _
    | with_reducible assumption
    | with_reducible refine kmeStart_mask (sub_trans (by decide) hm) ?_
    | with_reducible apply answers_next
    | with_reducible apply ite_answers
    | with_reducible apply ite_mask
    | with_reducible apply ite_fst_mask
    | split
    | dsimp only)

theorem execZeroise_answers {m : Nat} {s0 s : State} {own slot : Nat} (hm : Sub 65 m) (hk : Mask m s0 s) :
    Answers m s0 (execZeroise own slot s) := by
  unfold execZeroise
  repeat' (first
    | intro _
    | with_reducible assumption
    | with_reducible refine kmeStart_mask (sub_trans (by decide) hm) ?_
    | with_reducible apply answers_next
    | with_reducible apply ite_answers
    | with_reducible apply ite_mask
    | with_reducible apply ite_fst_mask
    | split
    | dsimp only)

theorem execEraseStale_answers {m : Nat} {s0 s : State} {own : Nat} (hm : Sub 65 m) (hk : Mask m s0 s) :
    Answers m s0 (execEraseStale own s) := by
  unfold execEraseStale
  repeat' (first
    | intro _
    | with_reducible assumption
    | with_reducible refine kmeStart_mask (sub_trans (by decide) hm) ?_
    | with_reducible apply answers_next
    | with_reducible apply ite_answers
    | with_reducible apply ite_mask
    | with_reducible apply ite_fst_mask
    | split
    | dsimp only)

theorem execSeedReplace_answers {m : Nat} {s0 s : State} {own : Nat} (hm : Sub 65 m) (hk : Mask m s0 s) :
    Answers m s0 (execSeedReplace own s) := by
  unfold execSeedReplace
  repeat' (first
    | intro _
    | with_reducible assumption
    | with_reducible refine kmeStart_mask (sub_trans (by decide) hm) ?_
    | with_reducible apply answers_next
    | with_reducible apply ite_answers
    | with_reducible apply ite_mask
    | with_reducible apply ite_fst_mask
    | split
    | dsimp only)

theorem execVerifyImage_answers {m : Nat} {s0 s : State} {own loc : Nat} (hm : Sub 65 m) (hk : Mask m s0 s) :
    Answers m s0 (execVerifyImage own loc s) := by
  unfold execVerifyImage
  repeat' (first
    | intro _
    | with_reducible assumption
    | with_reducible refine kmeStart_mask (sub_trans (by decide) hm) ?_
    | with_reducible apply answers_next
    | with_reducible apply ite_answers
    | with_reducible apply ite_mask
    | with_reducible apply ite_fst_mask
    | split
    | dsimp only)

theorem execSign_answers {m : Nat} {s0 s : State} {own digest key : Nat} (hm : Sub 65 m) (hk : Mask m s0 s) :
    Answers m s0 (execSign own digest key s) := by
  unfold execSign
  repeat' (first
    | intro _
    | with_reducible assumption
    | with_reducible refine kmeStart_mask (sub_trans (by decide) hm) ?_
    | with_reducible apply answers_next
    | with_reducible apply ite_answers
    | with_reducible apply ite_mask
    | with_reducible apply ite_fst_mask
    | split
    | dsimp only)

theorem execGenNote_answers {m : Nat} {s0 s : State} {own nsid gen : Nat} (hm : Sub 65 m) (hk : Mask m s0 s) :
    Answers m s0 (execGenNote own nsid gen s) := by
  unfold execGenNote
  repeat' (first
    | intro _
    | with_reducible assumption
    | with_reducible refine kmeStart_mask (sub_trans (by decide) hm) ?_
    | with_reducible apply answers_next
    | with_reducible apply ite_answers
    | with_reducible apply ite_mask
    | with_reducible apply ite_fst_mask
    | split
    | dsimp only)

theorem kmeDo_mask {m : Nat} {s0 s : State} {o : KmeOp} {sigOk : Bool} (hm : Sub 3145793 m) (hk : Mask m s0 s) :
    Mask m s0 (kmeDo s o sigOk).1 := by
  unfold kmeDo
  repeat' (first
    | intro _
    | with_reducible assumption
    | with_reducible refine emit_mask (sub_trans (by decide) hm) ?_
    | with_reducible refine eraseStale_mask (sub_trans (by decide) hm) ?_
    | with_reducible refine generateKey_mask (sub_trans (by decide) hm) ?_
    | with_reducible refine modKslot_mask (sub_trans (by decide) hm) ?_
    | with_reducible refine modStg_mask (sub_trans (by decide) hm) ?_
    | with_reducible refine rewrap_mask (sub_trans (by decide) hm) ?_
    | with_reducible refine seedReplace_mask (sub_trans (by decide) hm) ?_
    | with_reducible refine unwrapLoad_mask (sub_trans (by decide) hm) ?_
    | with_reducible refine fst_mask (by assumption) ?_
    | with_reducible apply ite_mask
    | with_reducible apply ite_fst_mask
    | split
    | dsimp only)

theorem execKmeOperationDone_answers {m : Nat} {s0 s : State} {sigOk : Bool} (hm : Sub 3284809 m) (hk : Mask m s0 s) :
    Answers m s0 (execKmeOperationDone sigOk s) := by
  unfold execKmeOperationDone
  repeat' (first
    | intro _
    | with_reducible assumption
    | with_reducible refine clr1_mask (sub_trans (by decide) hm) ?_
    | with_reducible refine keysCheck_mask (sub_trans (by decide) hm) ?_
    | with_reducible refine keysGone_mask (sub_trans (by decide) hm) ?_
    | with_reducible refine kmeDo_mask (sub_trans (by decide) hm) ?_
    | with_reducible refine kmeResult_mask (sub_trans (by decide) hm) ?_
    | with_reducible refine modStg_mask (sub_trans (by decide) hm) ?_
    | with_reducible refine post_mask (sub_trans (by decide) hm) ?_
    | with_reducible refine fst_mask (by assumption) ?_
    | with_reducible apply answers_next
    | with_reducible apply ite_answers
    | with_reducible apply ite_mask
    | with_reducible apply ite_fst_mask
    | split
    | dsimp only)

theorem execEntropyHealthFail_answers {m : Nat} {s0 s : State}  (hm : Sub 1 m) (hk : Mask m s0 s) :
    Answers m s0 (execEntropyHealthFail s) := by
  unfold execEntropyHealthFail
  repeat' (first
    | intro _
    | with_reducible assumption
    | with_reducible refine set1_mask (sub_trans (by decide) hm) ?_
    | with_reducible apply answers_next
    | with_reducible apply ite_answers
    | with_reducible apply ite_mask
    | with_reducible apply ite_fst_mask
    | split
    | dsimp only)

theorem execTamperTrip_answers {m : Nat} {s0 s : State} {bit : Nat} (hm : Sub 139081 m) (hk : Mask m s0 s) :
    Answers m s0 (execTamperTrip bit s) := by
  unfold execTamperTrip
  repeat' (first
    | intro _
    | with_reducible assumption
    | with_reducible refine tamper_mask (sub_trans (by decide) hm) ?_
    | with_reducible apply when_mask
    | with_reducible apply answers_next
    | with_reducible apply ite_answers
    | with_reducible apply ite_mask
    | with_reducible apply ite_fst_mask
    | split
    | dsimp only)

theorem execJtagUnlock_answers {m : Nat} {s0 s : State} {ok : Bool} (hm : Sub 2236233 m) (hk : Mask m s0 s) :
    Answers m s0 (execJtagUnlock ok s) := by
  unfold execJtagUnlock
  repeat' (first
    | intro _
    | with_reducible assumption
    | with_reducible refine drbg_mask (sub_trans (by decide) hm) ?_
    | with_reducible refine modStg_mask (sub_trans (by decide) hm) ?_
    | with_reducible refine tamper_mask (sub_trans (by decide) hm) ?_
    | with_reducible refine tick_mask (sub_trans (by decide) hm) ?_
    | with_reducible apply answers_next
    | with_reducible apply ite_answers
    | with_reducible apply ite_mask
    | with_reducible apply ite_fst_mask
    | split
    | dsimp only)

theorem modSpdm_mask {m : Nat} {s0 s : State} {ep : Nat} {f : SpdmSt → SpdmSt} (hm : Sub 64 m) (hk : Mask m s0 s) :
    Mask m s0 (State.modSpdm s ep f) := by
  unfold State.modSpdm
  repeat' (first
    | intro _
    | with_reducible assumption
    | with_reducible refine modStg_mask (sub_trans (by decide) hm) ?_
    | with_reducible apply ite_mask
    | with_reducible apply ite_fst_mask
    | split
    | dsimp only)

theorem spdmAnswer_mask {m : Nat} {s0 s : State} {ep : Nat} {r : SpdmRsp} (hm : Sub 1048576 m) (hk : Mask m s0 s) :
    Mask m s0 (spdmAnswer s ep r) := by
  unfold spdmAnswer
  repeat' (first
    | intro _
    | with_reducible assumption
    | with_reducible refine emit_mask (sub_trans (by decide) hm) ?_
    | with_reducible apply ite_mask
    | with_reducible apply ite_fst_mask
    | split
    | dsimp only)

theorem execGetVersion_answers {m : Nat} {s0 s : State} {ep : Nat} (hm : Sub 1048640 m) (hk : Mask m s0 s) :
    Answers m s0 (execGetVersion ep s) := by
  unfold execGetVersion
  repeat' (first
    | intro _
    | with_reducible assumption
    | with_reducible refine modSpdm_mask (sub_trans (by decide) hm) ?_
    | with_reducible refine spdmAnswer_mask (sub_trans (by decide) hm) ?_
    | with_reducible apply answers_next
    | with_reducible apply ite_answers
    | with_reducible apply ite_mask
    | with_reducible apply ite_fst_mask
    | split
    | dsimp only)

theorem execGetCapabilities_answers {m : Nat} {s0 s : State} {ep ver : Nat} (hm : Sub 1048640 m) (hk : Mask m s0 s) :
    Answers m s0 (execGetCapabilities ep ver s) := by
  unfold execGetCapabilities
  repeat' (first
    | intro _
    | with_reducible assumption
    | with_reducible refine modSpdm_mask (sub_trans (by decide) hm) ?_
    | with_reducible refine spdmAnswer_mask (sub_trans (by decide) hm) ?_
    | with_reducible apply answers_next
    | with_reducible apply ite_answers
    | with_reducible apply ite_mask
    | with_reducible apply ite_fst_mask
    | split
    | dsimp only)

theorem execNegotiateAlgorithms_answers {m : Nat} {s0 s : State} {ep : Nat} {p384 sha384 : Bool} (hm : Sub 1048640 m) (hk : Mask m s0 s) :
    Answers m s0 (execNegotiateAlgorithms ep p384 sha384 s) := by
  unfold execNegotiateAlgorithms
  repeat' (first
    | intro _
    | with_reducible assumption
    | with_reducible refine modSpdm_mask (sub_trans (by decide) hm) ?_
    | with_reducible refine spdmAnswer_mask (sub_trans (by decide) hm) ?_
    | with_reducible apply when_mask
    | with_reducible apply answers_next
    | with_reducible apply ite_answers
    | with_reducible apply ite_mask
    | with_reducible apply ite_fst_mask
    | split
    | dsimp only)

theorem spdmAfter_mask {m : Nat} {s0 s : State} {ep : Nat} {f : State → State} (hm : Sub 1048576 m) (hk : Mask m s0 s) (h_f : ∀ (a0 : State), Mask m s0 a0 → Mask m s0 (f a0)) :
    Mask m s0 (spdmAfter s ep f) := by
  unfold spdmAfter
  repeat' (first
    | intro _
    | with_reducible assumption
    | with_reducible apply h_f
    | with_reducible refine spdmAnswer_mask (sub_trans (by decide) hm) ?_
    | with_reducible apply when_mask
    | with_reducible apply ite_mask
    | with_reducible apply ite_fst_mask
    | split
    | dsimp only)

theorem execGetDigests_answers {m : Nat} {s0 s : State} {ep : Nat} (hm : Sub 1048576 m) (hk : Mask m s0 s) :
    Answers m s0 (execGetDigests ep s) := by
  unfold execGetDigests
  repeat' (first
    | intro _
    | with_reducible assumption
    | with_reducible apply spdmAfter_mask (sub_trans (by decide) hm)
    | with_reducible refine spdmAnswer_mask (sub_trans (by decide) hm) ?_
    | with_reducible apply answers_next
    | with_reducible apply ite_answers
    | with_reducible apply ite_mask
    | with_reducible apply ite_fst_mask
    | split
    | dsimp only)

theorem execGetCertificate_answers {m : Nat} {s0 s : State} {ep slot off len : Nat} (hm : Sub 1048576 m) (hk : Mask m s0 s) :
    Answers m s0 (execGetCertificate ep slot off len s) := by
  unfold execGetCertificate
  repeat' (first
    | intro _
    | with_reducible assumption
    | with_reducible apply spdmAfter_mask (sub_trans (by decide) hm)
    | with_reducible refine spdmAnswer_mask (sub_trans (by decide) hm) ?_
    | with_reducible apply answers_next
    | with_reducible apply ite_answers
    | with_reducible apply ite_mask
    | with_reducible apply ite_fst_mask
    | split
    | dsimp only)

theorem execChallenge_answers {m : Nat} {s0 s : State} {ep slot nonce : Nat} (hm : Sub 1048576 m) (hk : Mask m s0 s) :
    Answers m s0 (execChallenge ep slot nonce s) := by
  unfold execChallenge
  repeat' (first
    | intro _
    | with_reducible assumption
    | with_reducible apply spdmAfter_mask (sub_trans (by decide) hm)
    | with_reducible refine spdmAnswer_mask (sub_trans (by decide) hm) ?_
    | with_reducible apply answers_next
    | with_reducible apply ite_answers
    | with_reducible apply ite_mask
    | with_reducible apply ite_fst_mask
    | split
    | dsimp only)

theorem execGetMeasurements_answers {m : Nat} {s0 s : State} {ep index _nonce : Nat} {sign : Bool} (hm : Sub 1048640 m) (hk : Mask m s0 s) :
    Answers m s0 (execGetMeasurements ep index _nonce sign s) := by
  unfold execGetMeasurements
  repeat' (first
    | intro _
    | with_reducible assumption
    | with_reducible refine modSpdm_mask (sub_trans (by decide) hm) ?_
    | with_reducible apply spdmAfter_mask (sub_trans (by decide) hm)
    | with_reducible refine spdmAnswer_mask (sub_trans (by decide) hm) ?_
    | with_reducible apply answers_next
    | with_reducible apply ite_answers
    | with_reducible apply ite_mask
    | with_reducible apply ite_fst_mask
    | split
    | dsimp only)

theorem execChunkGet_answers {m : Nat} {s0 s : State} {ep seq : Nat} (hm : Sub 1048576 m) (hk : Mask m s0 s) :
    Answers m s0 (execChunkGet ep seq s) := by
  unfold execChunkGet
  repeat' (first
    | intro _
    | with_reducible assumption
    | with_reducible apply spdmAfter_mask (sub_trans (by decide) hm)
    | with_reducible refine spdmAnswer_mask (sub_trans (by decide) hm) ?_
    | with_reducible apply answers_next
    | with_reducible apply ite_answers
    | with_reducible apply ite_mask
    | with_reducible apply ite_fst_mask
    | split
    | dsimp only)

end Sys2Proof.Machine
end

