-- ==== Sys2Proof/Laws/PartsCloset.lean ====
section
/-!
SUPPORT. Which parts of the state the operations and commands of Closet touch.
-/
set_option linter.unusedTactic false
set_option linter.unreachableTactic false
set_option linter.unusedVariables false
namespace Sys2Proof.Machine

theorem norWrite_mask {m : Nat} {s0 s : State} {a : Nat} {l : List Byte} (hm : Sub 32 m) (hk : Mask m s0 s) :
    Mask m s0 (norWrite s a l) := by
  unfold norWrite
  repeat' (first
    | intro _
    | with_reducible assumption
    | with_reducible refine modClo_mask (sub_trans (by decide) hm) ?_
    | with_reducible apply each_mask
    | with_reducible apply ite_mask
    | with_reducible apply ite_fst_mask
    | split
    | dsimp only)

theorem norErase_mask {m : Nat} {s0 s : State} {sec : Nat} (hm : Sub 32 m) (hk : Mask m s0 s) :
    Mask m s0 (norErase s sec) := by
  unfold norErase
  repeat' (first
    | intro _
    | with_reducible assumption
    | with_reducible refine modClo_mask (sub_trans (by decide) hm) ?_
    | with_reducible apply ite_mask
    | with_reducible apply ite_fst_mask
    | split
    | dsimp only)

theorem writeSwap_mask {m : Nat} {s0 s : State} {mirror : Bool} {n : Nat} (hm : Sub 32 m) (hk : Mask m s0 s) :
    Mask m s0 (writeSwap s mirror n) := by
  unfold writeSwap
  repeat' (first
    | intro _
    | with_reducible assumption
    | with_reducible refine modClo_mask (sub_trans (by decide) hm) ?_
    | with_reducible apply foldl_mask
    | with_reducible apply foldl_fst_mask
    | with_reducible apply ite_mask
    | with_reducible apply ite_fst_mask
    | split
    | dsimp only)

theorem completeMarginal_mask {m : Nat} {s0 s : State}  (hm : Sub 32 m) (hk : Mask m s0 s) :
    Mask m s0 (completeMarginal s) := by
  unfold completeMarginal
  repeat' (first
    | intro _
    | with_reducible assumption
    | with_reducible refine modClo_mask (sub_trans (by decide) hm) ?_
    | with_reducible apply each_mask
    | with_reducible apply ite_mask
    | with_reducible apply ite_fst_mask
    | split
    | dsimp only)

theorem settleSwap_mask {m : Nat} {s0 s : State}  (hm : Sub 32 m) (hk : Mask m s0 s) :
    Mask m s0 (settleSwap s).1 := by
  unfold settleSwap
  repeat' (first
    | intro _
    | with_reducible assumption
    | with_reducible refine completeMarginal_mask (sub_trans (by decide) hm) ?_
    | with_reducible refine writeSwap_mask (sub_trans (by decide) hm) ?_
    | with_reducible apply ite_mask
    | with_reducible apply ite_fst_mask
    | split
    | dsimp only)

theorem addAttempt_mask {m : Nat} {s0 s : State} {b : Bool} (hm : Sub 32 m) (hk : Mask m s0 s) :
    Mask m s0 (addAttempt s b) := by
  unfold addAttempt
  repeat' (first
    | intro _
    | with_reducible assumption
    | with_reducible refine norWrite_mask (sub_trans (by decide) hm) ?_
    | with_reducible apply ite_mask
    | with_reducible apply ite_fst_mask
    | split
    | dsimp only)

theorem writeTwin_mask {m : Nat} {s0 s : State} {n : Nat} {r : BootRec} {born : Bool} (hm : Sub 32 m) (hk : Mask m s0 s) :
    Mask m s0 (writeTwin s n r born) := by
  unfold writeTwin
  repeat' (first
    | intro _
    | with_reducible assumption
    | with_reducible refine norErase_mask (sub_trans (by decide) hm) ?_
    | with_reducible refine norWrite_mask (sub_trans (by decide) hm) ?_
    | with_reducible apply each_mask
    | with_reducible apply ite_mask
    | with_reducible apply ite_fst_mask
    | split
    | dsimp only)

theorem loadBytes_mask {m : Nat} {s0 s : State} {n a : Nat} {l : List Byte} (hm : Sub 8192 m) (hk : Mask m s0 s) :
    Mask m s0 (loadBytes s n a l) := by
  unfold loadBytes
  repeat' (first
    | intro _
    | with_reducible assumption
    | with_reducible refine modSeq_mask (sub_trans (by decide) hm) ?_
    | with_reducible apply foldl_mask
    | with_reducible apply foldl_fst_mask
    | with_reducible apply ite_mask
    | with_reducible apply ite_fst_mask
    | split
    | dsimp only)

theorem startSupervisor_mask {m : Nat} {s0 s : State} {x : Image} (hm : Sub 8208 m) (hk : Mask m s0 s) :
    Mask m s0 (startSupervisor s x) := by
  unfold startSupervisor
  repeat' (first
    | intro _
    | with_reducible assumption
    | with_reducible refine loadBytes_mask (sub_trans (by decide) hm) ?_
    | with_reducible refine modSeq_mask (sub_trans (by decide) hm) ?_
    | with_reducible refine modStd_mask (sub_trans (by decide) hm) ?_
    | with_reducible apply ite_mask
    | with_reducible apply ite_fst_mask
    | split
    | dsimp only)

theorem startSlot_mask {m : Nat} {s0 s : State} {k : Nat} {conf : Bool} (hm : Sub 2138363 m) (hk : Mask m s0 s) :
    Mask m s0 (startSlot s k conf) := by
  unfold startSlot
  repeat' (first
    | intro _
    | with_reducible assumption
    | with_reducible refine modAtc_mask (sub_trans (by decide) hm) ?_
    | with_reducible refine modClo_mask (sub_trans (by decide) hm) ?_
    | with_reducible refine modPorch_mask (sub_trans (by decide) hm) ?_
    | with_reducible refine modPwr_mask (sub_trans (by decide) hm) ?_
    | with_reducible refine modScu_mask (sub_trans (by decide) hm) ?_
    | with_reducible refine modStg_mask (sub_trans (by decide) hm) ?_
    | with_reducible refine seedLoad_mask (sub_trans (by decide) hm) ?_
    | with_reducible refine set1_mask (sub_trans (by decide) hm) ?_
    | with_reducible refine startSupervisor_mask (sub_trans (by decide) hm) ?_
    | with_reducible refine wr_mask (sub_trans (by decide) hm) ?_
    | with_reducible apply each_mask
    | with_reducible apply foldl_mask
    | with_reducible apply foldl_fst_mask
    | with_reducible apply ite_mask
    | with_reducible apply ite_fst_mask
    | split
    | dsimp only)

theorem recoveryIdentity_mask {m : Nat} {s0 s : State}  (hm : Sub 163 m) (hk : Mask m s0 s) :
    Mask m s0 (recoveryIdentity s) := by
  unfold recoveryIdentity
  repeat' (first
    | intro _
    | with_reducible assumption
    | with_reducible refine modClo_mask (sub_trans (by decide) hm) ?_
    | with_reducible refine modPorch_mask (sub_trans (by decide) hm) ?_
    | with_reducible refine modPwr_mask (sub_trans (by decide) hm) ?_
    | with_reducible refine set1_mask (sub_trans (by decide) hm) ?_
    | with_reducible refine wr_mask (sub_trans (by decide) hm) ?_
    | with_reducible apply ite_mask
    | with_reducible apply ite_fst_mask
    | split
    | dsimp only)

theorem noteRevert_mask {m : Nat} {s0 s : State} {rej : Option Nat} {started : Nat} (hm : Sub 8 m) (hk : Mask m s0 s) :
    Mask m s0 (noteRevert s rej started) := by
  unfold noteRevert
  repeat' (first
    | intro _
    | with_reducible assumption
    | with_reducible refine post_mask (sub_trans (by decide) hm) ?_
    | with_reducible apply ite_mask
    | with_reducible apply ite_fst_mask
    | split
    | dsimp only)

theorem bootFallback_mask {m : Nat} {s0 s : State} {r : BootRec} {x : Option (Nat × Option Nat)} (hm : Sub 2138363 m) (hk : Mask m s0 s) :
    Mask m s0 (bootFallback s r x) := by
  cases x with
  | none => exact noteRevert_mask (sub_trans (by decide) hm) (recoveryIdentity_mask (sub_trans (by decide) hm) hk)
  | some e => exact noteRevert_mask (sub_trans (by decide) hm) (startSlot_mask (sub_trans (by decide) hm) hk)

theorem bootPick_mask {m : Nat} {s0 s : State} {again : State → Nat → Option Nat → State} {n : Nat} {rej : Option Nat} {b : Bool} {r : BootRec}
    {x : Option (Nat × Option Nat)} (hm : Sub 2138363 m) (hk : Mask m s0 s) (ha : ∀ a b c, Mask m s0 a → Mask m s0 (again a b c)) :
    Mask m s0 (bootPick again s n rej b r x) := by
  cases x with
  | none => exact noteRevert_mask (sub_trans (by decide) hm) (recoveryIdentity_mask (sub_trans (by decide) hm) hk)
  | some e =>
    obtain ⟨k, d⟩ := e
    unfold bootPick
    refine ite_mask (ite_mask (ite_mask ?_ (bootFallback_mask (sub_trans (by decide) hm) hk)) ?_) ?_
    · exact ha _ _ _ (writeSwap_mask (sub_trans (by decide) hm) (writeSwap_mask (sub_trans (by decide) hm) (writeTwin_mask (sub_trans (by decide) hm) hk)))
    · exact noteRevert_mask (sub_trans (by decide) hm) (startSlot_mask (sub_trans (by decide) hm) (addAttempt_mask (sub_trans (by decide) hm) hk))
    · exact noteRevert_mask (sub_trans (by decide) hm) (startSlot_mask (sub_trans (by decide) hm) hk)

theorem bootWith_mask {m : Nat} {s0 s : State} {again : State → Nat → Option Nat → State} {n : Nat} {rej : Option Nat}
    {x : Option (Bool × BootRec)} (hm : Sub 2138363 m) (hk : Mask m s0 s) (ha : ∀ a b c, Mask m s0 a → Mask m s0 (again a b c)) :
    Mask m s0 (bootWith again s n rej x) := by
  cases x with
  | none =>
    exact ite_mask (noteRevert_mask (sub_trans (by decide) hm) (startSlot_mask (sub_trans (by decide) hm) hk)) (recoveryIdentity_mask (sub_trans (by decide) hm) hk)
  | some e =>
    obtain ⟨b, r⟩ := e
    exact bootPick_mask (sub_trans (by decide) hm) hk ha

theorem bootChoose_mask {m : Nat} {s0 : State} (hm : Sub 2138363 m) (k : Nat) : ∀ {s : State} {n : Nat} {rej : Option Nat}, Mask m s0 s → Mask m s0 (bootChoose k s n rej) := by
  induction k with
  | zero =>
    intro s n rej hk
    exact recoveryIdentity_mask (sub_trans (by decide) hm) hk
  | succ k ih =>
    intro s n rej hk
    exact bootWith_mask (sub_trans (by decide) hm) hk fun _ _ _ h => ih h

theorem execBootSlotChoice_answers {m : Nat} {s0 s : State}  (hm : Sub 2138363 m) (hk : Mask m s0 s) :
    Answers m s0 (execBootSlotChoice s) := by
  unfold execBootSlotChoice
  repeat' (first
    | intro _
    | with_reducible assumption
    | with_reducible refine bootChoose_mask (sub_trans (by decide) hm) _ ?_
    | with_reducible refine settleSwap_mask (sub_trans (by decide) hm) ?_
    | with_reducible refine fst_mask (by assumption) ?_
    | with_reducible apply answers_next
    | with_reducible apply ite_answers
    | with_reducible apply ite_mask
    | with_reducible apply ite_fst_mask
    | split
    | dsimp only)

theorem cloReport_mask {m : Nat} {s0 s : State} {kind res : Nat} (hm : Sub 8193 m) (hk : Mask m s0 s) :
    Mask m s0 (cloReport s kind res) := by
  unfold cloReport
  repeat' (first
    | intro _
    | with_reducible assumption
    | with_reducible refine raise_mask (sub_trans (by decide) hm) ?_
    | with_reducible refine set1_mask (sub_trans (by decide) hm) ?_
    | with_reducible refine wr_mask (sub_trans (by decide) hm) ?_
    | with_reducible apply ite_mask
    | with_reducible apply ite_fst_mask
    | split
    | dsimp only)

theorem cloRequest_mask {m : Nat} {s0 s : State} {kind : Nat} (hm : Sub 8225 m) (hk : Mask m s0 s) :
    Mask m s0 (cloRequest s kind) := by
  unfold cloRequest
  repeat' (first
    | intro _
    | with_reducible assumption
    | with_reducible refine cloReport_mask (sub_trans (by decide) hm) ?_
    | with_reducible refine modClo_mask (sub_trans (by decide) hm) ?_
    | with_reducible refine wr_mask (sub_trans (by decide) hm) ?_
    | with_reducible apply ite_mask
    | with_reducible apply ite_fst_mask
    | split
    | dsimp only)

theorem execClosetProgram_answers {m : Nat} {s0 s : State}  (hm : Sub 8225 m) (hk : Mask m s0 s) :
    Answers m s0 (execClosetProgram s) := by
  unfold execClosetProgram
  repeat' (first
    | intro _
    | with_reducible assumption
    | with_reducible refine cloRequest_mask (sub_trans (by decide) hm) ?_
    | with_reducible apply answers_next
    | with_reducible apply ite_answers
    | with_reducible apply ite_mask
    | with_reducible apply ite_fst_mask
    | split
    | dsimp only)

theorem execClosetErase_answers {m : Nat} {s0 s : State}  (hm : Sub 8225 m) (hk : Mask m s0 s) :
    Answers m s0 (execClosetErase s) := by
  unfold execClosetErase
  repeat' (first
    | intro _
    | with_reducible assumption
    | with_reducible refine cloRequest_mask (sub_trans (by decide) hm) ?_
    | with_reducible apply answers_next
    | with_reducible apply ite_answers
    | with_reducible apply ite_mask
    | with_reducible apply ite_fst_mask
    | split
    | dsimp only)

theorem execClosetMarginRead_answers {m : Nat} {s0 s : State}  (hm : Sub 8225 m) (hk : Mask m s0 s) :
    Answers m s0 (execClosetMarginRead s) := by
  unfold execClosetMarginRead
  repeat' (first
    | intro _
    | with_reducible assumption
    | with_reducible refine cloRequest_mask (sub_trans (by decide) hm) ?_
    | with_reducible apply answers_next
    | with_reducible apply ite_answers
    | with_reducible apply ite_mask
    | with_reducible apply ite_fst_mask
    | split
    | dsimp only)

theorem execCloWpSet_answers {m : Nat} {s0 s : State} {k : Nat} {v : U64} (hm : Sub 1 m) (hk : Mask m s0 s) :
    Answers m s0 (execCloWpSet k v s) := by
  unfold execCloWpSet
  repeat' (first
    | intro _
    | with_reducible assumption
    | with_reducible refine wr_mask (sub_trans (by decide) hm) ?_
    | with_reducible apply answers_next
    | with_reducible apply ite_answers
    | with_reducible apply ite_mask
    | with_reducible apply ite_fst_mask
    | split
    | dsimp only)

theorem execFirmwareImageDownload_answers {m : Nat} {s0 s : State} {n : Nat} (hm : Sub 135936 m) (hk : Mask m s0 s) :
    Answers m s0 (execFirmwareImageDownload n s) := by
  unfold execFirmwareImageDownload
  repeat' (first
    | intro _
    | with_reducible assumption
    | with_reducible refine finish_mask (sub_trans (by decide) hm) ?_
    | with_reducible refine finishOk_mask (sub_trans (by decide) hm) ?_
    | with_reducible refine modNvm_mask (sub_trans (by decide) hm) ?_
    | with_reducible apply answers_next
    | with_reducible apply ite_answers
    | with_reducible apply ite_mask
    | with_reducible apply ite_fst_mask
    | split
    | dsimp only)

theorem jobOp_mask {m : Nat} {s0 s : State} {j : FwJob} (hm : Sub 32 m) (hk : Mask m s0 s) :
    Mask m s0 (jobOp s j) := by
  unfold jobOp
  repeat' (first
    | intro _
    | with_reducible assumption
    | with_reducible refine modClo_mask (sub_trans (by decide) hm) ?_
    | with_reducible apply ite_mask
    | with_reducible apply ite_fst_mask
    | split
    | dsimp only)

theorem jobEnd_mask {m : Nat} {s0 s : State} {j : FwJob} {sct sc : Nat} (hm : Sub 135968 m) (hk : Mask m s0 s) :
    Mask m s0 (jobEnd s j sct sc) := by
  unfold jobEnd
  repeat' (first
    | intro _
    | with_reducible assumption
    | with_reducible refine finish_mask (sub_trans (by decide) hm) ?_
    | with_reducible refine modClo_mask (sub_trans (by decide) hm) ?_
    | with_reducible refine tellManager_mask (sub_trans (by decide) hm) ?_
    | with_reducible apply ite_mask
    | with_reducible apply ite_fst_mask
    | split
    | dsimp only)

theorem startSwap_mask {m : Nat} {s0 s : State} {j : FwJob} (hm : Sub 135968 m) (hk : Mask m s0 s) :
    Mask m s0 (startSwap s j) := by
  unfold startSwap
  repeat' (first
    | intro _
    | with_reducible assumption
    | with_reducible refine jobEnd_mask (sub_trans (by decide) hm) ?_
    | with_reducible refine jobOp_mask (sub_trans (by decide) hm) ?_
    | with_reducible apply ite_mask
    | with_reducible apply ite_fst_mask
    | split
    | dsimp only)

theorem fwCommit_mask {m : Nat} {s0 s : State} {n action : Nat} (hm : Sub 135968 m) (hk : Mask m s0 s) :
    Mask m s0 (fwCommit s n action) := by
  unfold fwCommit
  repeat' (first
    | intro _
    | with_reducible assumption
    | with_reducible refine finish_mask (sub_trans (by decide) hm) ?_
    | with_reducible refine finishOk_mask (sub_trans (by decide) hm) ?_
    | with_reducible refine jobOp_mask (sub_trans (by decide) hm) ?_
    | with_reducible refine modCtx_mask (sub_trans (by decide) hm) ?_
    | with_reducible refine startSwap_mask (sub_trans (by decide) hm) ?_
    | with_reducible apply ite_mask
    | with_reducible apply ite_fst_mask
    | split
    | dsimp only)

theorem execFwCommitReplace_answers {m : Nat} {s0 s : State} {n : Nat} (hm : Sub 135968 m) (hk : Mask m s0 s) :
    Answers m s0 (execFwCommitReplace n s) := by
  unfold execFwCommitReplace
  repeat' (first
    | intro _
    | with_reducible assumption
    | with_reducible refine fwCommit_mask (sub_trans (by decide) hm) ?_
    | with_reducible apply answers_next
    | with_reducible apply ite_answers
    | with_reducible apply ite_mask
    | with_reducible apply ite_fst_mask
    | split
    | dsimp only)

theorem execFwCommitReplaceActivateReset_answers {m : Nat} {s0 s : State} {n : Nat} (hm : Sub 135968 m) (hk : Mask m s0 s) :
    Answers m s0 (execFwCommitReplaceActivateReset n s) := by
  unfold execFwCommitReplaceActivateReset
  repeat' (first
    | intro _
    | with_reducible assumption
    | with_reducible refine fwCommit_mask (sub_trans (by decide) hm) ?_
    | with_reducible apply answers_next
    | with_reducible apply ite_answers
    | with_reducible apply ite_mask
    | with_reducible apply ite_fst_mask
    | split
    | dsimp only)

theorem execFwCommitActivateExisting_answers {m : Nat} {s0 s : State} {n : Nat} (hm : Sub 135968 m) (hk : Mask m s0 s) :
    Answers m s0 (execFwCommitActivateExisting n s) := by
  unfold execFwCommitActivateExisting
  repeat' (first
    | intro _
    | with_reducible assumption
    | with_reducible refine fwCommit_mask (sub_trans (by decide) hm) ?_
    | with_reducible apply answers_next
    | with_reducible apply ite_answers
    | with_reducible apply ite_mask
    | with_reducible apply ite_fst_mask
    | split
    | dsimp only)

theorem execFwCommitActivateNow_answers {m : Nat} {s0 s : State} {n : Nat} (hm : Sub 135968 m) (hk : Mask m s0 s) :
    Answers m s0 (execFwCommitActivateNow n s) := by
  unfold execFwCommitActivateNow
  repeat' (first
    | intro _
    | with_reducible assumption
    | with_reducible refine fwCommit_mask (sub_trans (by decide) hm) ?_
    | with_reducible apply answers_next
    | with_reducible apply ite_answers
    | with_reducible apply ite_mask
    | with_reducible apply ite_fst_mask
    | split
    | dsimp only)

theorem activationNotice_mask {m : Nat} {s0 s : State}  (hm : Sub 135936 m) (hk : Mask m s0 s) :
    Mask m s0 (activationNotice s) := by
  unfold activationNotice
  repeat' (first
    | intro _
    | with_reducible assumption
    | with_reducible refine asyncEvent_mask (sub_trans (by decide) hm) ?_
    | with_reducible refine serveEvents_mask (sub_trans (by decide) hm) ?_
    | with_reducible apply each_mask
    | with_reducible apply ite_mask
    | with_reducible apply ite_fst_mask
    | split
    | dsimp only)

theorem jobSwapped_mask {m : Nat} {s0 s : State} {j : FwJob} (hm : Sub 135969 m) (hk : Mask m s0 s) :
    Mask m s0 (jobSwapped s j) := by
  unfold jobSwapped
  repeat' (first
    | intro _
    | with_reducible assumption
    | with_reducible refine activationNotice_mask (sub_trans (by decide) hm) ?_
    | with_reducible refine jobEnd_mask (sub_trans (by decide) hm) ?_
    | with_reducible refine modClo_mask (sub_trans (by decide) hm) ?_
    | with_reducible refine modHall_mask (sub_trans (by decide) hm) ?_
    | with_reducible refine set1_mask (sub_trans (by decide) hm) ?_
    | with_reducible apply ite_mask
    | with_reducible apply ite_fst_mask
    | split
    | dsimp only)

theorem leafFailed_mask {m : Nat} {s0 s : State} {j : FwJob} {sec : Nat} (hm : Sub 135976 m) (hk : Mask m s0 s) :
    Mask m s0 (leafFailed s j sec) := by
  unfold leafFailed
  repeat' (first
    | intro _
    | with_reducible assumption
    | with_reducible refine jobEnd_mask (sub_trans (by decide) hm) ?_
    | with_reducible refine modClo_mask (sub_trans (by decide) hm) ?_
    | with_reducible refine post_mask (sub_trans (by decide) hm) ?_
    | with_reducible apply ite_mask
    | with_reducible apply ite_fst_mask
    | split
    | dsimp only)

theorem jobStep_mask {m : Nat} {s0 s : State} {j : FwJob} {ok : Bool} (hm : Sub 135977 m) (hk : Mask m s0 s) :
    Mask m s0 (jobStep s j ok) := by
  unfold jobStep
  repeat' (first
    | intro _
    | with_reducible assumption
    | with_reducible refine jobEnd_mask (sub_trans (by decide) hm) ?_
    | with_reducible refine jobOp_mask (sub_trans (by decide) hm) ?_
    | with_reducible refine jobSwapped_mask (sub_trans (by decide) hm) ?_
    | with_reducible refine leafFailed_mask (sub_trans (by decide) hm) ?_
    | with_reducible refine modClo_mask (sub_trans (by decide) hm) ?_
    | with_reducible refine startSwap_mask (sub_trans (by decide) hm) ?_
    | with_reducible refine writeSwap_mask (sub_trans (by decide) hm) ?_
    | with_reducible refine writeTwin_mask (sub_trans (by decide) hm) ?_
    | with_reducible apply foldl_mask
    | with_reducible apply foldl_fst_mask
    | with_reducible apply ite_mask
    | with_reducible apply ite_fst_mask
    | split
    | dsimp only)

theorem startConfirm_mask {m : Nat} {s0 s : State}  (hm : Sub 32 m) (hk : Mask m s0 s) :
    Mask m s0 (startConfirm s) := by
  unfold startConfirm
  repeat' (first
    | intro _
    | with_reducible assumption
    | with_reducible refine modClo_mask (sub_trans (by decide) hm) ?_
    | with_reducible apply ite_mask
    | with_reducible apply ite_fst_mask
    | split
    | dsimp only)

theorem startImage_mask {m : Nat} {s0 s : State}  (hm : Sub 135200 m) (hk : Mask m s0 s) :
    Mask m s0 (startImage s) := by
  unfold startImage
  repeat' (first
    | intro _
    | with_reducible assumption
    | with_reducible refine jobOp_mask (sub_trans (by decide) hm) ?_
    | with_reducible refine modSta_mask (sub_trans (by decide) hm) ?_
    | with_reducible refine tellManager_mask (sub_trans (by decide) hm) ?_
    | with_reducible apply ite_mask
    | with_reducible apply ite_fst_mask
    | split
    | dsimp only)

theorem stairActivate_mask {m : Nat} {s0 s : State}  (hm : Sub 257 m) (hk : Mask m s0 s) :
    Mask m s0 (stairActivate s) := by
  unfold stairActivate
  repeat' (first
    | intro _
    | with_reducible assumption
    | with_reducible refine modHall_mask (sub_trans (by decide) hm) ?_
    | with_reducible refine set1_mask (sub_trans (by decide) hm) ?_
    | with_reducible apply ite_mask
    | with_reducible apply ite_fst_mask
    | split
    | dsimp only)

theorem rollbackTo_mask {m : Nat} {s0 s : State} {x : Option (Bool × BootRec)} (hm : Sub 135968 m) (hk : Mask m s0 s) : Mask m s0 (rollbackTo s x) := by
  cases x with
  | none => exact hk
  | some e => exact ite_mask hk (startSwap_mask (sub_trans (by decide) hm) hk)

theorem stairRollback_mask {m : Nat} {s0 s : State}  (hm : Sub 135968 m) (hk : Mask m s0 s) :
    Mask m s0 (stairRollback s) := by
  unfold stairRollback
  repeat' (first
    | intro _
    | with_reducible assumption
    | with_reducible refine rollbackTo_mask (sub_trans (by decide) hm) ?_
    | with_reducible apply ite_mask
    | with_reducible apply ite_fst_mask
    | split
    | dsimp only)

theorem execStdConfirm_answers {m : Nat} {s0 s : State} {v : U64} (hm : Sub 32 m) (hk : Mask m s0 s) :
    Answers m s0 (execStdConfirm v s) := by
  unfold execStdConfirm
  repeat' (first
    | intro _
    | with_reducible assumption
    | with_reducible refine modClo_mask (sub_trans (by decide) hm) ?_
    | with_reducible refine startConfirm_mask (sub_trans (by decide) hm) ?_
    | with_reducible apply answers_next
    | with_reducible apply ite_answers
    | with_reducible apply ite_mask
    | with_reducible apply ite_fst_mask
    | split
    | dsimp only)

theorem execConfirmationTimeout_answers {m : Nat} {s0 s : State}  (hm : Sub 1048575 m) (hk : Mask m s0 s) :
    Answers m s0 (execConfirmationTimeout s) := by
  unfold execConfirmationTimeout
  repeat' (first
    | intro _
    | with_reducible assumption
    | with_reducible refine watchdogReset_mask (sub_trans (by decide) hm) ?_
    | with_reducible apply answers_next
    | with_reducible apply ite_answers
    | with_reducible apply ite_mask
    | with_reducible apply ite_fst_mask
    | split
    | dsimp only)

theorem programFails_mask {m : Nat} {s0 s : State} {o : CloOp} (hm : Sub 2097184 m) (hk : Mask m s0 s) :
    Mask m s0 (programFails s o) := by
  unfold programFails
  repeat' (first
    | intro _
    | with_reducible assumption
    | with_reducible refine modClo_mask (sub_trans (by decide) hm) ?_
    | with_reducible refine tick_mask (sub_trans (by decide) hm) ?_
    | with_reducible apply each_mask
    | with_reducible apply ite_mask
    | with_reducible apply ite_fst_mask
    | split
    | dsimp only)

theorem confParse_mask {m : Nat} {s0 s : State} {a : Nat} (hm : Sub 32 m) (hk : Mask m s0 s) :
    Mask m s0 (confParse s a) := by
  unfold confParse
  repeat' (first
    | intro _
    | with_reducible assumption
    | with_reducible refine modClo_mask (sub_trans (by decide) hm) ?_
    | with_reducible apply foldl_mask
    | with_reducible apply foldl_fst_mask
    | with_reducible apply ite_mask
    | with_reducible apply ite_fst_mask
    | split
    | dsimp only)

theorem execClosetOperationDone_answers {m : Nat} {s0 s : State} {pulses : Nat} {ok : Bool} (hm : Sub 2241321 m) (hk : Mask m s0 s) :
    Answers m s0 (execClosetOperationDone pulses ok s) := by
  unfold execClosetOperationDone
  repeat' (first
    | intro _
    | with_reducible assumption
    | with_reducible refine cloReport_mask (sub_trans (by decide) hm) ?_
    | with_reducible refine confParse_mask (sub_trans (by decide) hm) ?_
    | with_reducible refine jobStep_mask (sub_trans (by decide) hm) ?_
    | with_reducible refine modClo_mask (sub_trans (by decide) hm) ?_
    | with_reducible refine norErase_mask (sub_trans (by decide) hm) ?_
    | with_reducible refine norUndefined_mask (sub_trans (by decide) hm) ?_
    | with_reducible refine norWrite_mask (sub_trans (by decide) hm) ?_
    | with_reducible refine programFails_mask (sub_trans (by decide) hm) ?_
    | with_reducible refine set1_mask (sub_trans (by decide) hm) ?_
    | with_reducible refine startConfirm_mask (sub_trans (by decide) hm) ?_
    | with_reducible refine startImage_mask (sub_trans (by decide) hm) ?_
    | with_reducible refine wr_mask (sub_trans (by decide) hm) ?_
    | with_reducible apply each_mask
    | with_reducible apply foldl_mask
    | with_reducible apply foldl_fst_mask
    | with_reducible apply answers_next
    | with_reducible apply ite_answers
    | with_reducible apply ite_mask
    | with_reducible apply ite_fst_mask
    | split
    | dsimp only)

theorem reloadPort_mask {m : Nat} {s0 s : State} {x : Image} {n : Nat} (hm : Sub 2293513 m) (hk : Mask m s0 s) :
    Mask m s0 (reloadPort s x n) := by
  unfold reloadPort
  repeat' (first
    | intro _
    | with_reducible assumption
    | with_reducible refine loadBytes_mask (sub_trans (by decide) hm) ?_
    | with_reducible refine modSeq_mask (sub_trans (by decide) hm) ?_
    | with_reducible refine post_mask (sub_trans (by decide) hm) ?_
    | with_reducible refine retirePort_mask (sub_trans (by decide) hm) ?_
    | with_reducible refine wr_mask (sub_trans (by decide) hm) ?_
    | with_reducible apply ite_mask
    | with_reducible apply ite_fst_mask
    | split
    | dsimp only)

theorem stairChanged_mask {m : Nat} {s0 s : State}  (hm : Sub 4096 m) (hk : Mask m s0 s) :
    Mask m s0 (stairChanged s) := by
  unfold stairChanged
  repeat' (first
    | intro _
    | with_reducible assumption
    | with_reducible refine tellManager_mask (sub_trans (by decide) hm) ?_
    | with_reducible apply ite_mask
    | with_reducible apply ite_fst_mask
    | split
    | dsimp only)

theorem execActivationDrainComplete_answers {m : Nat} {s0 s : State}  (hm : Sub 2293561 m) (hk : Mask m s0 s) :
    Answers m s0 (execActivationDrainComplete s) := by
  unfold execActivationDrainComplete
  repeat' (first
    | intro _
    | with_reducible assumption
    | with_reducible refine addAttempt_mask (sub_trans (by decide) hm) ?_
    | with_reducible refine clr1_mask (sub_trans (by decide) hm) ?_
    | with_reducible refine finishOk_mask (sub_trans (by decide) hm) ?_
    | with_reducible refine modClo_mask (sub_trans (by decide) hm) ?_
    | with_reducible refine modHall_mask (sub_trans (by decide) hm) ?_
    | with_reducible refine modScu_mask (sub_trans (by decide) hm) ?_
    | with_reducible refine reloadPort_mask (sub_trans (by decide) hm) ?_
    | with_reducible refine set1_mask (sub_trans (by decide) hm) ?_
    | with_reducible refine stairChanged_mask (sub_trans (by decide) hm) ?_
    | with_reducible refine startSupervisor_mask (sub_trans (by decide) hm) ?_
    | with_reducible apply each_mask
    | with_reducible apply answers_next
    | with_reducible apply ite_answers
    | with_reducible apply ite_mask
    | with_reducible apply ite_fst_mask
    | split
    | dsimp only)

theorem execActivationDrainTimeout_answers {m : Nat} {s0 s : State}  (hm : Sub 135937 m) (hk : Mask m s0 s) :
    Answers m s0 (execActivationDrainTimeout s) := by
  unfold execActivationDrainTimeout
  repeat' (first
    | intro _
    | with_reducible assumption
    | with_reducible refine clr1_mask (sub_trans (by decide) hm) ?_
    | with_reducible refine finish_mask (sub_trans (by decide) hm) ?_
    | with_reducible refine modHall_mask (sub_trans (by decide) hm) ?_
    | with_reducible refine set1_mask (sub_trans (by decide) hm) ?_
    | with_reducible apply answers_next
    | with_reducible apply ite_answers
    | with_reducible apply ite_mask
    | with_reducible apply ite_fst_mask
    | split
    | dsimp only)

theorem execOperatingTimeRecord_answers {m : Nat} {s0 s : State}  (hm : Sub 32 m) (hk : Mask m s0 s) :
    Answers m s0 (execOperatingTimeRecord s) := by
  unfold execOperatingTimeRecord
  repeat' (first
    | intro _
    | with_reducible assumption
    | with_reducible refine confAppend_mask (sub_trans (by decide) hm) ?_
    | with_reducible apply answers_next
    | with_reducible apply ite_answers
    | with_reducible apply ite_mask
    | with_reducible apply ite_fst_mask
    | split
    | dsimp only)

end Sys2Proof.Machine
end

