-- ==== Sys2Proof/Laws/PartsLaundry.lean ====
section
/-!
SUPPORT. Which parts of the state the operations and commands of Laundry touch.
-/
set_option linter.unusedTactic false
set_option linter.unreachableTactic false
set_option linter.unusedVariables false
namespace Sys2Proof.Machine

theorem execHardDecodeDone_answers {m : Nat} {s0 s : State} {n i cw : Nat} {ok : Bool} {ones zeros weight : Nat} {data : Blk} {md : Meta} {probe : Option (Nat × Nat × Nat)} (hm : Sub 2293513 m) (hk : Mask m s0 s) :
    Answers m s0 (execHardDecodeDone n i cw ok ones zeros weight data md probe s) := by
  unfold execHardDecodeDone
  repeat' (first
    | intro _
    | with_reducible assumption
    | with_reducible refine cwBad_mask (sub_trans (by decide) hm) ?_
    | with_reducible refine cwFailed_mask (sub_trans (by decide) hm) ?_
    | with_reducible refine cwGood_mask (sub_trans (by decide) hm) ?_
    | with_reducible refine joinClimb_mask (sub_trans (by decide) hm) ?_
    | with_reducible refine modClimb_mask (sub_trans (by decide) hm) ?_
    | with_reducible refine modSeq_mask (sub_trans (by decide) hm) ?_
    | with_reducible refine nextRow_mask (sub_trans (by decide) hm) ?_
    | with_reducible refine post_mask (sub_trans (by decide) hm) ?_
    | with_reducible refine raise_mask (sub_trans (by decide) hm) ?_
    | with_reducible refine track_mask (sub_trans (by decide) hm) ?_
    | with_reducible refine opt_mask (by assumption) ?_
    | with_reducible apply some_maskO
    | with_reducible apply none_maskO
    | with_reducible apply ite_maskO
    | with_reducible apply map_maskO
    | with_reducible apply mapOf_maskO
    | with_reducible apply getD_mask
    | with_reducible apply answers_next
    | with_reducible apply ite_answers
    | with_reducible apply ite_mask
    | with_reducible apply ite_fst_mask
    | split
    | dsimp only)

theorem execSoftAdmissionCredit_answers {m : Nat} {s0 s : State}  (hm : Sub 16384 m) (hk : Mask m s0 s) :
    Answers m s0 (execSoftAdmissionCredit s) := by
  unfold execSoftAdmissionCredit
  repeat' (first
    | intro _
    | with_reducible assumption
    | with_reducible refine modLnd_mask (sub_trans (by decide) hm) ?_
    | with_reducible apply answers_next
    | with_reducible apply ite_answers
    | with_reducible apply ite_mask
    | with_reducible apply ite_fst_mask
    | split
    | dsimp only)

theorem execSoftJobAdmit_answers {m : Nat} {s0 s : State}  (hm : Sub 16384 m) (hk : Mask m s0 s) :
    Answers m s0 (execSoftJobAdmit s) := by
  unfold execSoftJobAdmit
  repeat' (first
    | intro _
    | with_reducible assumption
    | with_reducible refine modLnd_mask (sub_trans (by decide) hm) ?_
    | with_reducible apply answers_next
    | with_reducible apply ite_answers
    | with_reducible apply ite_mask
    | with_reducible apply ite_fst_mask
    | split
    | dsimp only)

theorem execSoftDecodeDone_answers {m : Nat} {s0 s : State} {n i cw : Nat} {ok : Bool} {ones zeros : Nat} {data : Blk} {md : Meta} (hm : Sub 2293513 m) (hk : Mask m s0 s) :
    Answers m s0 (execSoftDecodeDone n i cw ok ones zeros data md s) := by
  unfold execSoftDecodeDone
  repeat' (first
    | intro _
    | with_reducible assumption
    | with_reducible refine cwFailed_mask (sub_trans (by decide) hm) ?_
    | with_reducible refine cwGood_mask (sub_trans (by decide) hm) ?_
    | with_reducible refine modLnd_mask (sub_trans (by decide) hm) ?_
    | with_reducible refine nextRow_mask (sub_trans (by decide) hm) ?_
    | with_reducible refine track_mask (sub_trans (by decide) hm) ?_
    | with_reducible apply answers_next
    | with_reducible apply ite_answers
    | with_reducible apply ite_mask
    | with_reducible apply ite_fst_mask
    | split
    | dsimp only)

theorem execStripeRecoveryDone_answers {m : Nat} {s0 s : State} {id : Nat} (hm : Sub 2285321 m) (hk : Mask m s0 s) :
    Answers m s0 (execStripeRecoveryDone id s) := by
  unfold execStripeRecoveryDone
  repeat' (first
    | intro _
    | with_reducible assumption
    | with_reducible refine stripeDone_mask (sub_trans (by decide) hm) ?_
    | with_reducible apply answers_next
    | with_reducible apply ite_answers
    | with_reducible apply ite_mask
    | with_reducible apply ite_fst_mask
    | split
    | dsimp only)

theorem execCalibration_answers {m : Nat} {s0 s : State} {n die group : Nat} (hm : Sub 20736 m) (hk : Mask m s0 s) :
    Answers m s0 (execCalibration n die group s) := by
  unfold execCalibration
  repeat' (first
    | intro _
    | with_reducible assumption
    | with_reducible refine modLnd_mask (sub_trans (by decide) hm) ?_
    | with_reducible refine offer_mask (sub_trans (by decide) hm) ?_
    | with_reducible refine queueCal_mask (sub_trans (by decide) hm) ?_
    | with_reducible apply each_mask
    | with_reducible apply answers_next
    | with_reducible apply ite_answers
    | with_reducible apply ite_mask
    | with_reducible apply ite_fst_mask
    | split
    | dsimp only)

theorem execCalibrationDone_answers {m : Nat} {s0 s : State} {n die group valley : Nat} {ok : Bool} (hm : Sub 54536 m) (hk : Mask m s0 s) :
    Answers m s0 (execCalibrationDone n die group valley ok s) := by
  unfold execCalibrationDone
  repeat' (first
    | intro _
    | with_reducible assumption
    | with_reducible refine modLnd_mask (sub_trans (by decide) hm) ?_
    | with_reducible refine notice_mask (sub_trans (by decide) hm) ?_
    | with_reducible refine readUnit_mask (sub_trans (by decide) hm) ?_
    | with_reducible refine setTracked_mask (sub_trans (by decide) hm) ?_
    | with_reducible refine opt_mask (by assumption) ?_
    | with_reducible apply some_maskO
    | with_reducible apply none_maskO
    | with_reducible apply ite_maskO
    | with_reducible apply map_maskO
    | with_reducible apply mapOf_maskO
    | with_reducible apply getD_mask
    | with_reducible apply each_mask
    | with_reducible apply answers_next
    | with_reducible apply ite_answers
    | with_reducible apply ite_mask
    | with_reducible apply ite_fst_mask
    | split
    | dsimp only)

theorem execTlerExpiry_answers {m : Nat} {s0 s : State} {n : Nat} (hm : Sub 188160 m) (hk : Mask m s0 s) :
    Answers m s0 (execTlerExpiry n s) := by
  unfold execTlerExpiry
  repeat' (first
    | intro _
    | with_reducible assumption
    | with_reducible refine dropReader_mask (sub_trans (by decide) hm) ?_
    | with_reducible refine finish_mask (sub_trans (by decide) hm) ?_
    | with_reducible refine modClimb_mask (sub_trans (by decide) hm) ?_
    | with_reducible apply each_mask
    | with_reducible apply answers_next
    | with_reducible apply ite_answers
    | with_reducible apply ite_mask
    | with_reducible apply ite_fst_mask
    | split
    | dsimp only)

theorem execPacedReadRelease_answers {m : Nat} {s0 s : State} {n hp : Nat} {guardOk appOk refOk : Bool} {bad : Nat} {host : Blk} (hm : Sub 1236737 m) (hk : Mask m s0 s) :
    Answers m s0 (execPacedReadRelease n hp guardOk appOk refOk bad host s) := by
  unfold execPacedReadRelease
  repeat' (first
    | intro _
    | with_reducible assumption
    | with_reducible refine takeWord_mask (sub_trans (by decide) hm) ?_
    | with_reducible apply answers_next
    | with_reducible apply ite_answers
    | with_reducible apply ite_mask
    | with_reducible apply ite_fst_mask
    | split
    | dsimp only)

theorem execCalRequest_answers {m : Nat} {s0 s : State} {n die : Nat} (hm : Sub 16385 m) (hk : Mask m s0 s) :
    Answers m s0 (execCalRequest n die s) := by
  unfold execCalRequest
  repeat' (first
    | intro _
    | with_reducible assumption
    | with_reducible refine clr1_mask (sub_trans (by decide) hm) ?_
    | with_reducible refine queueCal_mask (sub_trans (by decide) hm) ?_
    | with_reducible apply each_mask
    | with_reducible apply answers_next
    | with_reducible apply ite_answers
    | with_reducible apply ite_mask
    | with_reducible apply ite_fst_mask
    | split
    | dsimp only)

end Sys2Proof.Machine
end

