-- ==== Sys2Proof/Laws/PartsHall.lean ====
section
/-!
SUPPORT. Which parts of the state the operations and commands of Hall touch.
-/
set_option linter.unusedTactic false
set_option linter.unreachableTactic false
set_option linter.unusedVariables false
namespace Sys2Proof.Machine

theorem beginSanitize_mask {m : Nat} {s0 s : State} {c : HostCmd} (hm : Sub 512 m) (hk : Mask m s0 s) :
    Mask m s0 (beginSanitize s c) := by
  unfold beginSanitize
  repeat' (first
    | intro _
    | with_reducible assumption
    | with_reducible refine modNvm_mask (sub_trans (by decide) hm) ?_
    | with_reducible apply ite_mask
    | with_reducible apply ite_fst_mask
    | split
    | dsimp only)

theorem endTest_mask {m : Nat} {s0 s : State} {c : HostCmd} (hm : Sub 520 m) (hk : Mask m s0 s) :
    Mask m s0 (endTest s c) := by
  unfold endTest
  repeat' (first
    | intro _
    | with_reducible assumption
    | with_reducible refine dstEnd_mask (sub_trans (by decide) hm) ?_
    | with_reducible apply ite_mask
    | with_reducible apply ite_fst_mask
    | split
    | dsimp only)

theorem beginLock_mask {m : Nat} {s0 s : State} {n : Nat} {c : HostCmd} (hm : Sub 64 m) (hk : Mask m s0 s) :
    Mask m s0 (beginLock s n c) := by
  unfold beginLock
  repeat' (first
    | intro _
    | with_reducible assumption
    | with_reducible refine modRange_mask (sub_trans (by decide) hm) ?_
    | with_reducible apply each_mask
    | with_reducible apply ite_mask
    | with_reducible apply ite_fst_mask
    | split
    | dsimp only)

theorem execSubmissionFetch_answers {m : Nat} {s0 s : State} {p sq cid : Nat} {cmd : HostCmd} (hm : Sub 144201 m) (hk : Mask m s0 s) :
    Answers m s0 (execSubmissionFetch p sq cid cmd s) := by
  unfold execSubmissionFetch
  repeat' (first
    | intro _
    | with_reducible assumption
    | with_reducible refine beginLock_mask (sub_trans (by decide) hm) ?_
    | with_reducible refine beginSanitize_mask (sub_trans (by decide) hm) ?_
    | with_reducible refine endTest_mask (sub_trans (by decide) hm) ?_
    | with_reducible refine finish_mask (sub_trans (by decide) hm) ?_
    | with_reducible refine modHall_mask (sub_trans (by decide) hm) ?_
    | with_reducible refine raise_mask (sub_trans (by decide) hm) ?_
    | with_reducible refine reportDeferred_mask (sub_trans (by decide) hm) ?_
    | with_reducible refine wr_mask (sub_trans (by decide) hm) ?_
    | with_reducible apply answers_next
    | with_reducible apply ite_answers
    | with_reducible apply ite_mask
    | with_reducible apply ite_fst_mask
    | split
    | dsimp only)

theorem startCopy_mask {m : Nat} {s0 s : State} {cls bg ns u suite y : Nat} (hm : Sub 39168 m) (hk : Mask m s0 s) :
    Mask m s0 (startCopy s cls bg ns u suite y) := by
  unfold startCopy
  repeat' (first
    | intro _
    | with_reducible assumption
    | with_reducible refine freeSlot_mask (sub_trans (by decide) hm) ?_
    | with_reducible refine readUnit_mask (sub_trans (by decide) hm) ?_
    | with_reducible refine takeSlot_mask (sub_trans (by decide) hm) ?_
    | with_reducible refine fst_mask (by assumption) ?_
    | with_reducible refine opt_mask (by assumption) ?_
    | with_reducible apply some_maskO
    | with_reducible apply none_maskO
    | with_reducible apply ite_maskO
    | with_reducible apply map_maskO
    | with_reducible apply mapOf_maskO
    | with_reducible apply getD_mask
    | with_reducible apply ite_mask
    | with_reducible apply ite_fst_mask
    | split
    | dsimp only)

theorem startCons_mask {m : Nat} {s0 s : State} {ns ext : Nat} (hm : Sub 2137856 m) (hk : Mask m s0 s) :
    Mask m s0 (startCons s ns ext) := by
  unfold startCons
  repeat' (first
    | intro _
    | with_reducible assumption
    | with_reducible refine joinReclaim_mask (sub_trans (by decide) hm) ?_
    | with_reducible refine modScu_mask (sub_trans (by decide) hm) ?_
    | with_reducible refine readUnit_mask (sub_trans (by decide) hm) ?_
    | with_reducible refine takeSlots_mask (sub_trans (by decide) hm) ?_
    | with_reducible refine fst_mask (by assumption) ?_
    | with_reducible refine opt_mask (by assumption) ?_
    | with_reducible apply some_maskO
    | with_reducible apply none_maskO
    | with_reducible apply ite_maskO
    | with_reducible apply map_maskO
    | with_reducible apply mapOf_maskO
    | with_reducible apply getD_mask
    | with_reducible apply each_mask
    | with_reducible apply ite_mask
    | with_reducible apply ite_fst_mask
    | split
    | dsimp only)

theorem grantReclaim_mask {m : Nat} {s0 s : State} {rg : Nat} (hm : Sub 2137856 m) (hk : Mask m s0 s) :
    Mask m s0 (grantReclaim s rg) := by
  unfold grantReclaim
  repeat' (first
    | intro _
    | with_reducible assumption
    | with_reducible refine modScu_mask (sub_trans (by decide) hm) ?_
    | with_reducible refine startCons_mask (sub_trans (by decide) hm) ?_
    | with_reducible refine startCopy_mask (sub_trans (by decide) hm) ?_
    | with_reducible apply ite_mask
    | with_reducible apply ite_fst_mask
    | split
    | dsimp only)

theorem execLarderReservationGrant_answers {m : Nat} {s0 s : State} {k : ResKind} (hm : Sub 3317632 m) (hk : Mask m s0 s) :
    Answers m s0 (execLarderReservationGrant k s) := by
  unfold execLarderReservationGrant
  repeat' (first
    | intro _
    | with_reducible assumption
    | with_reducible refine grantHost_mask (sub_trans (by decide) hm) ?_
    | with_reducible refine grantReclaim_mask (sub_trans (by decide) hm) ?_
    | with_reducible refine startCopy_mask (sub_trans (by decide) hm) ?_
    | with_reducible apply foldl_mask
    | with_reducible apply foldl_fst_mask
    | with_reducible apply answers_next
    | with_reducible apply ite_answers
    | with_reducible apply ite_mask
    | with_reducible apply ite_fst_mask
    | split
    | dsimp only)

theorem execUnitCommit_answers {m : Nat} {s0 s : State} {n ext : Nat} (hm : Sub 2268937 m) (hk : Mask m s0 s) :
    Answers m s0 (execUnitCommit n ext s) := by
  unfold execUnitCommit
  repeat' (first
    | intro _
    | with_reducible assumption
    | with_reducible refine commitUnit_mask (sub_trans (by decide) hm) ?_
    | with_reducible apply answers_next
    | with_reducible apply ite_answers
    | with_reducible apply ite_mask
    | with_reducible apply ite_fst_mask
    | split
    | dsimp only)

theorem execReaderResolve_answers {m : Nat} {s0 s : State} {n : Nat} (hm : Sub 188161 m) (hk : Mask m s0 s) :
    Answers m s0 (execReaderResolve n s) := by
  unfold execReaderResolve
  repeat' (first
    | intro _
    | with_reducible assumption
    | with_reducible refine resolveReader_mask (sub_trans (by decide) hm) ?_
    | with_reducible apply answers_next
    | with_reducible apply ite_answers
    | with_reducible apply ite_mask
    | with_reducible apply ite_fst_mask
    | split
    | dsimp only)

theorem execCompletionPost_answers {m : Nat} {s0 s : State} {n : Nat} (hm : Sub 2097151 m) (hk : Mask m s0 s) :
    Answers m s0 (execCompletionPost n s) := by
  unfold execCompletionPost
  repeat' (first
    | intro _
    | with_reducible assumption
    | with_reducible refine fwCommit_mask (sub_trans (by decide) hm) ?_
    | with_reducible refine postCompletion_mask (sub_trans (by decide) hm) ?_
    | with_reducible refine watchdogReset_mask (sub_trans (by decide) hm) ?_
    | with_reducible apply answers_next
    | with_reducible apply ite_answers
    | with_reducible apply ite_mask
    | with_reducible apply ite_fst_mask
    | split
    | dsimp only)

theorem startIo_mask {m : Nat} {s0 s : State} {n : Nat} {f : Ctx → State} (hm : Sub 135936 m) (hk : Mask m s0 s) (h_f : ∀ (a0 : Ctx), Mask m s0 (f a0)) :
    Mask m s0 (startIo s n f) := by
  unfold startIo
  repeat' (first
    | intro _
    | with_reducible assumption
    | with_reducible apply h_f
    | with_reducible refine finish_mask (sub_trans (by decide) hm) ?_
    | with_reducible apply ite_mask
    | with_reducible apply ite_fst_mask
    | split
    | dsimp only)

theorem runCtx_mask {m : Nat} {s0 s : State} {n : Nat} (hm : Sub 256 m) (hk : Mask m s0 s) :
    Mask m s0 (runCtx s n) := by
  unfold runCtx
  repeat' (first
    | intro _
    | with_reducible assumption
    | with_reducible refine modCtx_mask (sub_trans (by decide) hm) ?_
    | with_reducible apply ite_mask
    | with_reducible apply ite_fst_mask
    | split
    | dsimp only)

theorem execFlush_answers {m : Nat} {s0 s : State} {n : Nat} (hm : Sub 2268937 m) (hk : Mask m s0 s) :
    Answers m s0 (execFlush n s) := by
  unfold execFlush
  repeat' (first
    | intro _
    | with_reducible assumption
    | with_reducible refine askBarrier_mask (sub_trans (by decide) hm) ?_
    | with_reducible refine closeHostFronts_mask (sub_trans (by decide) hm) ?_
    | with_reducible refine modCtx_mask (sub_trans (by decide) hm) ?_
    | with_reducible refine settleCheck_mask (sub_trans (by decide) hm) ?_
    | with_reducible apply startIo_mask (sub_trans (by decide) hm)
    | with_reducible apply answers_next
    | with_reducible apply ite_answers
    | with_reducible apply ite_mask
    | with_reducible apply ite_fst_mask
    | split
    | dsimp only)

theorem execWrite_answers {m : Nat} {s0 s : State} {n : Nat} (hm : Sub 135936 m) (hk : Mask m s0 s) :
    Answers m s0 (execWrite n s) := by
  unfold execWrite
  repeat' (first
    | intro _
    | with_reducible assumption
    | with_reducible apply startIo_mask (sub_trans (by decide) hm)
    | with_reducible refine startWriter_mask (sub_trans (by decide) hm) ?_
    | with_reducible apply answers_next
    | with_reducible apply ite_answers
    | with_reducible apply ite_mask
    | with_reducible apply ite_fst_mask
    | split
    | dsimp only)

theorem execRead_answers {m : Nat} {s0 s : State} {n : Nat} (hm : Sub 135936 m) (hk : Mask m s0 s) :
    Answers m s0 (execRead n s) := by
  unfold execRead
  repeat' (first
    | intro _
    | with_reducible assumption
    | with_reducible refine runCtx_mask (sub_trans (by decide) hm) ?_
    | with_reducible apply startIo_mask (sub_trans (by decide) hm)
    | with_reducible apply answers_next
    | with_reducible apply ite_answers
    | with_reducible apply ite_mask
    | with_reducible apply ite_fst_mask
    | split
    | dsimp only)

theorem execWriteUncorrectable_answers {m : Nat} {s0 s : State} {n : Nat} (hm : Sub 135936 m) (hk : Mask m s0 s) :
    Answers m s0 (execWriteUncorrectable n s) := by
  unfold execWriteUncorrectable
  repeat' (first
    | intro _
    | with_reducible assumption
    | with_reducible apply startIo_mask (sub_trans (by decide) hm)
    | with_reducible refine startWriter_mask (sub_trans (by decide) hm) ?_
    | with_reducible apply answers_next
    | with_reducible apply ite_answers
    | with_reducible apply ite_mask
    | with_reducible apply ite_fst_mask
    | split
    | dsimp only)

theorem execCompare_answers {m : Nat} {s0 s : State} {n : Nat} (hm : Sub 135936 m) (hk : Mask m s0 s) :
    Answers m s0 (execCompare n s) := by
  unfold execCompare
  repeat' (first
    | intro _
    | with_reducible assumption
    | with_reducible refine runCtx_mask (sub_trans (by decide) hm) ?_
    | with_reducible apply startIo_mask (sub_trans (by decide) hm)
    | with_reducible apply answers_next
    | with_reducible apply ite_answers
    | with_reducible apply ite_mask
    | with_reducible apply ite_fst_mask
    | split
    | dsimp only)

theorem execWriteZeroes_answers {m : Nat} {s0 s : State} {n : Nat} (hm : Sub 135936 m) (hk : Mask m s0 s) :
    Answers m s0 (execWriteZeroes n s) := by
  unfold execWriteZeroes
  repeat' (first
    | intro _
    | with_reducible assumption
    | with_reducible apply startIo_mask (sub_trans (by decide) hm)
    | with_reducible refine startWriter_mask (sub_trans (by decide) hm) ?_
    | with_reducible apply answers_next
    | with_reducible apply ite_answers
    | with_reducible apply ite_mask
    | with_reducible apply ite_fst_mask
    | split
    | dsimp only)

theorem execDatasetManagement_answers {m : Nat} {s0 s : State} {n : Nat} (hm : Sub 135936 m) (hk : Mask m s0 s) :
    Answers m s0 (execDatasetManagement n s) := by
  unfold execDatasetManagement
  repeat' (first
    | intro _
    | with_reducible assumption
    | with_reducible refine finishOk_mask (sub_trans (by decide) hm) ?_
    | with_reducible refine modCtx_mask (sub_trans (by decide) hm) ?_
    | with_reducible apply startIo_mask (sub_trans (by decide) hm)
    | with_reducible apply answers_next
    | with_reducible apply ite_answers
    | with_reducible apply ite_mask
    | with_reducible apply ite_fst_mask
    | split
    | dsimp only)

theorem execVerify_answers {m : Nat} {s0 s : State} {n : Nat} (hm : Sub 135936 m) (hk : Mask m s0 s) :
    Answers m s0 (execVerify n s) := by
  unfold execVerify
  repeat' (first
    | intro _
    | with_reducible assumption
    | with_reducible refine runCtx_mask (sub_trans (by decide) hm) ?_
    | with_reducible apply startIo_mask (sub_trans (by decide) hm)
    | with_reducible apply answers_next
    | with_reducible apply ite_answers
    | with_reducible apply ite_mask
    | with_reducible apply ite_fst_mask
    | split
    | dsimp only)

theorem execIoManagementReceive_answers {m : Nat} {s0 s : State} {n : Nat} (hm : Sub 1184512 m) (hk : Mask m s0 s) :
    Answers m s0 (execIoManagementReceive n s) := by
  unfold execIoManagementReceive
  repeat' (first
    | intro _
    | with_reducible assumption
    | with_reducible refine emit_mask (sub_trans (by decide) hm) ?_
    | with_reducible refine finishOk_mask (sub_trans (by decide) hm) ?_
    | with_reducible apply startIo_mask (sub_trans (by decide) hm)
    | with_reducible apply answers_next
    | with_reducible apply ite_answers
    | with_reducible apply ite_mask
    | with_reducible apply ite_fst_mask
    | split
    | dsimp only)

theorem execIoManagementSend_answers {m : Nat} {s0 s : State} {n : Nat} (hm : Sub 2268937 m) (hk : Mask m s0 s) :
    Answers m s0 (execIoManagementSend n s) := by
  unfold execIoManagementSend
  repeat' (first
    | intro _
    | with_reducible assumption
    | with_reducible refine endSuite_mask (sub_trans (by decide) hm) ?_
    | with_reducible refine modCtx_mask (sub_trans (by decide) hm) ?_
    | with_reducible refine settleCheck_mask (sub_trans (by decide) hm) ?_
    | with_reducible apply startIo_mask (sub_trans (by decide) hm)
    | with_reducible apply each_mask
    | with_reducible apply answers_next
    | with_reducible apply ite_answers
    | with_reducible apply ite_mask
    | with_reducible apply ite_fst_mask
    | split
    | dsimp only)

theorem execCopy_answers {m : Nat} {s0 s : State} {n : Nat} (hm : Sub 135936 m) (hk : Mask m s0 s) :
    Answers m s0 (execCopy n s) := by
  unfold execCopy
  repeat' (first
    | intro _
    | with_reducible assumption
    | with_reducible apply startIo_mask (sub_trans (by decide) hm)
    | with_reducible refine startWriter_mask (sub_trans (by decide) hm) ?_
    | with_reducible apply answers_next
    | with_reducible apply ite_answers
    | with_reducible apply ite_mask
    | with_reducible apply ite_fst_mask
    | split
    | dsimp only)

theorem admitSlots_mask {m : Nat} {s0 s : State} {c : Ctx} (hm : Sub 2048 m) (hk : Mask m s0 s) :
    Mask m s0 (admitSlots s c) := by
  unfold admitSlots
  repeat' (first
    | intro _
    | with_reducible assumption
    | with_reducible refine modSlot_mask (sub_trans (by decide) hm) ?_
    | with_reducible apply each_mask
    | with_reducible apply ite_mask
    | with_reducible apply ite_fst_mask
    | split
    | dsimp only)

theorem failWriter_mask {m : Nat} {s0 s : State} {n sct sc : Nat} (hm : Sub 139136 m) (hk : Mask m s0 s) :
    Mask m s0 (failWriter s n sct sc) := by
  unfold failWriter
  repeat' (first
    | intro _
    | with_reducible assumption
    | with_reducible refine dropTags_mask (sub_trans (by decide) hm) ?_
    | with_reducible refine finish_mask (sub_trans (by decide) hm) ?_
    | with_reducible refine modCtx_mask (sub_trans (by decide) hm) ?_
    | with_reducible refine returnSlots_mask (sub_trans (by decide) hm) ?_
    | with_reducible apply ite_mask
    | with_reducible apply ite_fst_mask
    | split
    | dsimp only)

theorem execHostReadCompletion_answers {m : Nat} {s0 s : State} {n unit : Nat} {data : Blk} {md : Meta} {guardOk appOk refOk : Bool} {bad : Nat} (hm : Sub 1187712 m) (hk : Mask m s0 s) :
    Answers m s0 (execHostReadCompletion n unit data md guardOk appOk refOk bad s) := by
  unfold execHostReadCompletion
  repeat' (first
    | intro _
    | with_reducible assumption
    | with_reducible refine admitSlots_mask (sub_trans (by decide) hm) ?_
    | with_reducible refine dropTag_mask (sub_trans (by decide) hm) ?_
    | with_reducible refine failWriter_mask (sub_trans (by decide) hm) ?_
    | with_reducible refine noteBad_mask (sub_trans (by decide) hm) ?_
    | with_reducible refine modCtx_mask (sub_trans (by decide) hm) ?_
    | with_reducible refine modNvm_mask (sub_trans (by decide) hm) ?_
    | with_reducible refine modSlot_mask (sub_trans (by decide) hm) ?_
    | with_reducible refine pumpChan_mask (sub_trans (by decide) hm) ?_
    | with_reducible apply answers_next
    | with_reducible apply ite_answers
    | with_reducible apply ite_mask
    | with_reducible apply ite_fst_mask
    | split
    | dsimp only)

theorem execCompletionTimeoutExpiry_answers {m : Nat} {s0 s : State} {n unit : Nat} (hm : Sub 128 m) (hk : Mask m s0 s) :
    Answers m s0 (execCompletionTimeoutExpiry n unit s) := by
  unfold execCompletionTimeoutExpiry
  repeat' (first
    | intro _
    | with_reducible assumption
    | with_reducible refine dropTag_mask (sub_trans (by decide) hm) ?_
    | with_reducible refine haltChan_mask (sub_trans (by decide) hm) ?_
    | with_reducible refine modHport_mask (sub_trans (by decide) hm) ?_
    | with_reducible apply answers_next
    | with_reducible apply ite_answers
    | with_reducible apply ite_mask
    | with_reducible apply ite_fst_mask
    | split
    | dsimp only)

theorem execUnexpectedCompletion_answers {m : Nat} {s0 s : State} {p tag : Nat} (hm : Sub 128 m) (hk : Mask m s0 s) :
    Answers m s0 (execUnexpectedCompletion p tag s) := by
  unfold execUnexpectedCompletion
  repeat' (first
    | intro _
    | with_reducible assumption
    | with_reducible refine modHport_mask (sub_trans (by decide) hm) ?_
    | with_reducible apply answers_next
    | with_reducible apply ite_answers
    | with_reducible apply ite_mask
    | with_reducible apply ite_fst_mask
    | split
    | dsimp only)

theorem execTimedOutTagReuse_answers {m : Nat} {s0 s : State} {p tag : Nat} (hm : Sub 1048704 m) (hk : Mask m s0 s) :
    Answers m s0 (execTimedOutTagReuse p tag s) := by
  unfold execTimedOutTagReuse
  repeat' (first
    | intro _
    | with_reducible assumption
    | with_reducible refine modHport_mask (sub_trans (by decide) hm) ?_
    | with_reducible refine pumpChan_mask (sub_trans (by decide) hm) ?_
    | with_reducible apply each_mask
    | with_reducible apply answers_next
    | with_reducible apply ite_answers
    | with_reducible apply ite_mask
    | with_reducible apply ite_fst_mask
    | split
    | dsimp only)

theorem execDmaDrainComplete_answers {m : Nat} {s0 s : State} {c : Nat} (hm : Sub 1236864 m) (hk : Mask m s0 s) :
    Answers m s0 (execDmaDrainComplete c s) := by
  unfold execDmaDrainComplete
  repeat' (first
    | intro _
    | with_reducible assumption
    | with_reducible refine dropReader_mask (sub_trans (by decide) hm) ?_
    | with_reducible refine failWriter_mask (sub_trans (by decide) hm) ?_
    | with_reducible refine modChan_mask (sub_trans (by decide) hm) ?_
    | with_reducible refine pumpChan_mask (sub_trans (by decide) hm) ?_
    | with_reducible apply answers_next
    | with_reducible apply ite_answers
    | with_reducible apply ite_mask
    | with_reducible apply ite_fst_mask
    | split
    | dsimp only)

theorem execAggregationTimeExpiry_answers {m : Nat} {s0 s : State} {p v : Nat} (hm : Sub 1048960 m) (hk : Mask m s0 s) :
    Answers m s0 (execAggregationTimeExpiry p v s) := by
  unfold execAggregationTimeExpiry
  repeat' (first
    | intro _
    | with_reducible assumption
    | with_reducible refine interrupt_mask (sub_trans (by decide) hm) ?_
    | with_reducible refine modHall_mask (sub_trans (by decide) hm) ?_
    | with_reducible apply answers_next
    | with_reducible apply ite_answers
    | with_reducible apply ite_mask
    | with_reducible apply ite_fst_mask
    | split
    | dsimp only)

theorem execFetchEnableSet_answers {m : Nat} {s0 s : State}  (hm : Sub 131 m) (hk : Mask m s0 s) :
    Answers m s0 (execFetchEnableSet s) := by
  unfold execFetchEnableSet
  repeat' (first
    | intro _
    | with_reducible assumption
    | with_reducible refine clr1_mask (sub_trans (by decide) hm) ?_
    | with_reducible refine hallReady_mask (sub_trans (by decide) hm) ?_
    | with_reducible refine keysCheck_mask (sub_trans (by decide) hm) ?_
    | with_reducible refine modPwr_mask (sub_trans (by decide) hm) ?_
    | with_reducible refine set1_mask (sub_trans (by decide) hm) ?_
    | with_reducible apply answers_next
    | with_reducible apply ite_answers
    | with_reducible apply ite_mask
    | with_reducible apply ite_fst_mask
    | split
    | dsimp only)

theorem execDrainRequest_answers {m : Nat} {s0 s : State}  (hm : Sub 1 m) (hk : Mask m s0 s) :
    Answers m s0 (execDrainRequest s) := by
  unfold execDrainRequest
  repeat' (first
    | intro _
    | with_reducible assumption
    | with_reducible refine set1_mask (sub_trans (by decide) hm) ?_
    | with_reducible apply answers_next
    | with_reducible apply ite_answers
    | with_reducible apply ite_mask
    | with_reducible apply ite_fst_mask
    | split
    | dsimp only)

theorem execBackgroundHold_answers {m : Nat} {s0 s : State} {v : Bool} (hm : Sub 1 m) (hk : Mask m s0 s) :
    Answers m s0 (execBackgroundHold v s) := by
  unfold execBackgroundHold
  repeat' (first
    | intro _
    | with_reducible assumption
    | with_reducible refine wr_mask (sub_trans (by decide) hm) ?_
    | with_reducible apply answers_next
    | with_reducible apply ite_answers
    | with_reducible apply ite_mask
    | with_reducible apply ite_fst_mask
    | split
    | dsimp only)

theorem execHallReportIdle_answers {m : Nat} {s0 s : State}  (hm : Sub 2146051 m) (hk : Mask m s0 s) :
    Answers m s0 (execHallReportIdle s) := by
  unfold execHallReportIdle
  repeat' (first
    | intro _
    | with_reducible assumption
    | with_reducible refine clr1_mask (sub_trans (by decide) hm) ?_
    | with_reducible refine larderDrain_mask (sub_trans (by decide) hm) ?_
    | with_reducible refine modPwr_mask (sub_trans (by decide) hm) ?_
    | with_reducible refine raise_mask (sub_trans (by decide) hm) ?_
    | with_reducible apply answers_next
    | with_reducible apply ite_answers
    | with_reducible apply ite_mask
    | with_reducible apply ite_fst_mask
    | split
    | dsimp only)

theorem execApstIdleExpiry_answers {m : Nat} {s0 s : State} {p i : Nat} (hm : Sub 256 m) (hk : Mask m s0 s) :
    Answers m s0 (execApstIdleExpiry p i s) := by
  unfold execApstIdleExpiry
  repeat' (first
    | intro _
    | with_reducible assumption
    | with_reducible refine modHall_mask (sub_trans (by decide) hm) ?_
    | with_reducible apply answers_next
    | with_reducible apply ite_answers
    | with_reducible apply ite_mask
    | with_reducible apply ite_fst_mask
    | split
    | dsimp only)

theorem execMediaArbiterWindowEnd_answers {m : Nat} {s0 s : State} {n : Nat} (hm : Sub 257 m) (hk : Mask m s0 s) :
    Answers m s0 (execMediaArbiterWindowEnd n s) := by
  unfold execMediaArbiterWindowEnd
  repeat' (first
    | intro _
    | with_reducible assumption
    | with_reducible refine modHall_mask (sub_trans (by decide) hm) ?_
    | with_reducible refine wr_mask (sub_trans (by decide) hm) ?_
    | with_reducible apply answers_next
    | with_reducible apply ite_answers
    | with_reducible apply ite_mask
    | with_reducible apply ite_fst_mask
    | split
    | dsimp only)

end Sys2Proof.Machine
end

