-- ==== Sys2Proof/Laws/PartsPantry.lean ====
section
/-!
SUPPORT. Which parts of the state the operations and commands of Pantry touch.
-/
set_option linter.unusedTactic false
set_option linter.unreachableTactic false
set_option linter.unusedVariables false
namespace Sys2Proof.Machine

theorem emitCommit_mask {m : Nat} {s0 s : State} {tag : Nat} {c : Commit} (hm : Sub 33792 m) (hk : Mask m s0 s) :
    Mask m s0 (emitCommit s tag c) := by
  unfold emitCommit
  repeat' (first
    | intro _
    | with_reducible assumption
    | with_reducible refine addDep_mask (sub_trans (by decide) hm) ?_
    | with_reducible refine mapChanges_mask (sub_trans (by decide) hm) ?_
    | with_reducible refine modPan_mask (sub_trans (by decide) hm) ?_
    | with_reducible refine panFlags_mask (sub_trans (by decide) hm) ?_
    | with_reducible apply ite_mask
    | with_reducible apply ite_fst_mask
    | split
    | dsimp only)

theorem execOverlayEmission_answers {m : Nat} {s0 s : State} {tag : Nat} (hm : Sub 33792 m) (hk : Mask m s0 s) :
    Answers m s0 (execOverlayEmission tag s) := by
  unfold execOverlayEmission
  repeat' (first
    | intro _
    | with_reducible assumption
    | with_reducible refine emitCommit_mask (sub_trans (by decide) hm) ?_
    | with_reducible apply answers_next
    | with_reducible apply ite_answers
    | with_reducible apply ite_mask
    | with_reducible apply ite_fst_mask
    | split
    | dsimp only)

theorem execJournalBatchClose_answers {m : Nat} {s0 s : State}  (hm : Sub 1024 m) (hk : Mask m s0 s) :
    Answers m s0 (execJournalBatchClose s) := by
  unfold execJournalBatchClose
  repeat' (first
    | intro _
    | with_reducible assumption
    | with_reducible refine closeBatch_mask (sub_trans (by decide) hm) ?_
    | with_reducible apply answers_next
    | with_reducible apply ite_answers
    | with_reducible apply ite_mask
    | with_reducible apply ite_fst_mask
    | split
    | dsimp only)

theorem recDurable_mask {m : Nat} {s0 s : State} {e : Nat × JRec} (hm : Sub 169737 m) (hk : Mask m s0 s) :
    Mask m s0 (recDurable s e) := by
  unfold recDurable
  repeat' (first
    | intro _
    | with_reducible assumption
    | with_reducible refine deferDurable_mask (sub_trans (by decide) hm) ?_
    | with_reducible refine eraseIfDue_mask (sub_trans (by decide) hm) ?_
    | with_reducible refine modNvm_mask (sub_trans (by decide) hm) ?_
    | with_reducible refine modPan_mask (sub_trans (by decide) hm) ?_
    | with_reducible refine modSuite_mask (sub_trans (by decide) hm) ?_
    | with_reducible apply ite_mask
    | with_reducible apply ite_fst_mask
    | split
    | dsimp only)

theorem lapStep_mask {m : Nat} {s0 s : State}  (hm : Sub 1024 m) (hk : Mask m s0 s) :
    Mask m s0 (lapStep s) := by
  unfold lapStep
  repeat' (first
    | intro _
    | with_reducible assumption
    | with_reducible refine jAppend_mask (sub_trans (by decide) hm) ?_
    | with_reducible refine modPan_mask (sub_trans (by decide) hm) ?_
    | with_reducible apply ite_mask
    | with_reducible apply ite_fst_mask
    | split
    | dsimp only)

theorem execCheckpointSegmentCopy_answers {m : Nat} {s0 s : State}  (hm : Sub 1024 m) (hk : Mask m s0 s) :
    Answers m s0 (execCheckpointSegmentCopy s) := by
  unfold execCheckpointSegmentCopy
  repeat' (first
    | intro _
    | with_reducible assumption
    | with_reducible refine lapStep_mask (sub_trans (by decide) hm) ?_
    | with_reducible apply answers_next
    | with_reducible apply ite_answers
    | with_reducible apply ite_mask
    | with_reducible apply ite_fst_mask
    | split
    | dsimp only)

theorem finishLap_mask {m : Nat} {s0 : State} (hm : Sub 1024 m) (k : Nat) : ∀ {s : State}, Mask m s0 s → Mask m s0 (finishLap k s) := by
  induction k with
  | zero =>
    intro s  hk
    unfold finishLap
    repeat' (first
    | intro _
    | with_reducible assumption
    | with_reducible refine lapStep_mask (sub_trans (by decide) hm) ?_
    | with_reducible apply ite_mask
    | with_reducible apply ite_fst_mask
    | split
    | dsimp only)
  | succ k ih =>
    intro s  hk
    unfold finishLap
    repeat' (first
    | with_reducible apply ih
    | intro _
    | with_reducible assumption
    | with_reducible refine lapStep_mask (sub_trans (by decide) hm) ?_
    | with_reducible apply ite_mask
    | with_reducible apply ite_fst_mask
    | split
    | dsimp only)

theorem shutdownClean_mask {m : Nat} {s0 s : State}  (hm : Sub 1024 m) (hk : Mask m s0 s) :
    Mask m s0 (shutdownClean s) := by
  unfold shutdownClean
  repeat' (first
    | intro _
    | with_reducible assumption
    | with_reducible refine closeBatch_mask (sub_trans (by decide) hm) ?_
    | with_reducible refine finishLap_mask (sub_trans (by decide) hm) _ ?_
    | with_reducible refine jAppend_mask (sub_trans (by decide) hm) ?_
    | with_reducible refine lapStep_mask (sub_trans (by decide) hm) ?_
    | with_reducible apply ite_mask
    | with_reducible apply ite_fst_mask
    | split
    | dsimp only)

theorem shutdownCheck_mask {m : Nat} {s0 s : State}  (hm : Sub 1152 m) (hk : Mask m s0 s) :
    Mask m s0 (shutdownCheck s) := by
  unfold shutdownCheck
  repeat' (first
    | intro _
    | with_reducible assumption
    | with_reducible refine modHport_mask (sub_trans (by decide) hm) ?_
    | with_reducible refine shutdownClean_mask (sub_trans (by decide) hm) ?_
    | with_reducible apply each_mask
    | with_reducible apply ite_mask
    | with_reducible apply ite_fst_mask
    | split
    | dsimp only)

theorem execJournalBatchDurable_answers {m : Nat} {s0 s : State} {copy : Nat} (hm : Sub 171913 m) (hk : Mask m s0 s) :
    Answers m s0 (execJournalBatchDurable copy s) := by
  unfold execJournalBatchDurable
  repeat' (first
    | intro _
    | with_reducible assumption
    | with_reducible refine journalDurable_mask (sub_trans (by decide) hm) ?_
    | with_reducible refine modPan_mask (sub_trans (by decide) hm) ?_
    | with_reducible refine recDurable_mask (sub_trans (by decide) hm) ?_
    | with_reducible refine shutdownCheck_mask (sub_trans (by decide) hm) ?_
    | with_reducible apply each_mask
    | with_reducible apply answers_next
    | with_reducible apply ite_answers
    | with_reducible apply ite_mask
    | with_reducible apply ite_fst_mask
    | split
    | dsimp only)

theorem execConsolidationCommit_answers {m : Nat} {s0 s : State} {suite base : Nat} (hm : Sub 33792 m) (hk : Mask m s0 s) :
    Answers m s0 (execConsolidationCommit suite base s) := by
  unfold execConsolidationCommit
  repeat' (first
    | intro _
    | with_reducible assumption
    | with_reducible refine mapChange_mask (sub_trans (by decide) hm) ?_
    | with_reducible refine modScu_mask (sub_trans (by decide) hm) ?_
    | with_reducible refine panFlags_mask (sub_trans (by decide) hm) ?_
    | with_reducible apply answers_next
    | with_reducible apply ite_answers
    | with_reducible apply ite_mask
    | with_reducible apply ite_fst_mask
    | split
    | dsimp only)

theorem execRelocationCommit_answers {m : Nat} {s0 s : State} {nsid first count suite0 unit0 suite1 unit1 : Nat} (hm : Sub 34304 m) (hk : Mask m s0 s) :
    Answers m s0 (execRelocationCommit nsid first count suite0 unit0 suite1 unit1 s) := by
  unfold execRelocationCommit
  repeat' (first
    | intro _
    | with_reducible assumption
    | with_reducible refine fdpNote_mask (sub_trans (by decide) hm) ?_
    | with_reducible refine mapChanges_mask (sub_trans (by decide) hm) ?_
    | with_reducible refine modScu_mask (sub_trans (by decide) hm) ?_
    | with_reducible apply answers_next
    | with_reducible apply ite_answers
    | with_reducible apply ite_mask
    | with_reducible apply ite_fst_mask
    | split
    | dsimp only)

theorem onLine_mask {m : Nat} {s0 s : State} {la : Nat} {f : CLine → Option CLine} (hm : Sub 1024 m) (hk : Mask m s0 s) :
    Mask m s0 (onLine s la f) := by
  unfold onLine
  repeat' (first
    | intro _
    | with_reducible assumption
    | with_reducible refine modPan_mask (sub_trans (by decide) hm) ?_
    | with_reducible apply ite_mask
    | with_reducible apply ite_fst_mask
    | split
    | dsimp only)

theorem maintAct_mask {μ : Nat} {s0 s : State} {m : MaintOp} (hm : Sub 1025 μ) (hk : Mask μ s0 s) :
    Mask μ s0 (maintAct s m) := by
  unfold maintAct
  repeat' (first
    | intro _
    | with_reducible assumption
    | with_reducible refine modPan_mask (sub_trans (by decide) hm) ?_
    | with_reducible refine onLine_mask (sub_trans (by decide) hm) ?_
    | with_reducible refine wr_mask (sub_trans (by decide) hm) ?_
    | with_reducible apply ite_mask
    | with_reducible apply ite_fst_mask
    | split
    | dsimp only)

theorem maintWrite_mask {m : Nat} {s0 s : State} {op la : Nat} (hm : Sub 1025 m) (hk : Mask m s0 s) :
    Mask m s0 (maintWrite s op la) := by
  unfold maintWrite
  repeat' (first
    | intro _
    | with_reducible assumption
    | with_reducible refine maintAct_mask (sub_trans (by decide) hm) ?_
    | with_reducible refine modPan_mask (sub_trans (by decide) hm) ?_
    | with_reducible refine set1_mask (sub_trans (by decide) hm) ?_
    | with_reducible apply ite_mask
    | with_reducible apply ite_fst_mask
    | split
    | dsimp only)

theorem execCacheFillComplete_answers {m : Nat} {s0 s : State} {la : Nat} (hm : Sub 1025 m) (hk : Mask m s0 s) :
    Answers m s0 (execCacheFillComplete la s) := by
  unfold execCacheFillComplete
  repeat' (first
    | intro _
    | with_reducible assumption
    | with_reducible refine maintAct_mask (sub_trans (by decide) hm) ?_
    | with_reducible refine modPan_mask (sub_trans (by decide) hm) ?_
    | with_reducible refine onLine_mask (sub_trans (by decide) hm) ?_
    | with_reducible apply each_mask
    | with_reducible apply answers_next
    | with_reducible apply ite_answers
    | with_reducible apply ite_mask
    | with_reducible apply ite_fst_mask
    | split
    | dsimp only)

theorem execCacheWritebackComplete_answers {m : Nat} {s0 s : State} {la : Nat} (hm : Sub 1024 m) (hk : Mask m s0 s) :
    Answers m s0 (execCacheWritebackComplete la s) := by
  unfold execCacheWritebackComplete
  repeat' (first
    | intro _
    | with_reducible assumption
    | with_reducible refine onLine_mask (sub_trans (by decide) hm) ?_
    | with_reducible apply answers_next
    | with_reducible apply ite_answers
    | with_reducible apply ite_mask
    | with_reducible apply ite_fst_mask
    | split
    | dsimp only)

theorem execPanMaintClean_answers {m : Nat} {s0 s : State} {la : Nat} (hm : Sub 1025 m) (hk : Mask m s0 s) :
    Answers m s0 (execPanMaintClean la s) := by
  unfold execPanMaintClean
  repeat' (first
    | intro _
    | with_reducible assumption
    | with_reducible refine maintWrite_mask (sub_trans (by decide) hm) ?_
    | with_reducible apply answers_next
    | with_reducible apply ite_answers
    | with_reducible apply ite_mask
    | with_reducible apply ite_fst_mask
    | split
    | dsimp only)

theorem execPanMaintInv_answers {m : Nat} {s0 s : State} {la : Nat} (hm : Sub 1025 m) (hk : Mask m s0 s) :
    Answers m s0 (execPanMaintInv la s) := by
  unfold execPanMaintInv
  repeat' (first
    | intro _
    | with_reducible assumption
    | with_reducible refine maintWrite_mask (sub_trans (by decide) hm) ?_
    | with_reducible apply answers_next
    | with_reducible apply ite_answers
    | with_reducible apply ite_mask
    | with_reducible apply ite_fst_mask
    | split
    | dsimp only)

theorem execPanMaintCleanInv_answers {m : Nat} {s0 s : State} {la : Nat} (hm : Sub 1025 m) (hk : Mask m s0 s) :
    Answers m s0 (execPanMaintCleanInv la s) := by
  unfold execPanMaintCleanInv
  repeat' (first
    | intro _
    | with_reducible assumption
    | with_reducible refine maintWrite_mask (sub_trans (by decide) hm) ?_
    | with_reducible apply answers_next
    | with_reducible apply ite_answers
    | with_reducible apply ite_mask
    | with_reducible apply ite_fst_mask
    | split
    | dsimp only)

theorem execPanMaintCleanAll_answers {m : Nat} {s0 s : State}  (hm : Sub 1025 m) (hk : Mask m s0 s) :
    Answers m s0 (execPanMaintCleanAll s) := by
  unfold execPanMaintCleanAll
  repeat' (first
    | intro _
    | with_reducible assumption
    | with_reducible refine maintWrite_mask (sub_trans (by decide) hm) ?_
    | with_reducible apply answers_next
    | with_reducible apply ite_answers
    | with_reducible apply ite_mask
    | with_reducible apply ite_fst_mask
    | split
    | dsimp only)

theorem execPanInvAll_answers {m : Nat} {s0 s : State}  (hm : Sub 1024 m) (hk : Mask m s0 s) :
    Answers m s0 (execPanInvAll s) := by
  unfold execPanInvAll
  repeat' (first
    | intro _
    | with_reducible assumption
    | with_reducible refine modPan_mask (sub_trans (by decide) hm) ?_
    | with_reducible apply answers_next
    | with_reducible apply ite_answers
    | with_reducible apply ite_mask
    | with_reducible apply ite_fst_mask
    | split
    | dsimp only)

theorem execInvalidateAllDone_answers {m : Nat} {s0 s : State}  (hm : Sub 1025 m) (hk : Mask m s0 s) :
    Answers m s0 (execInvalidateAllDone s) := by
  unfold execInvalidateAllDone
  repeat' (first
    | intro _
    | with_reducible assumption
    | with_reducible refine clr1_mask (sub_trans (by decide) hm) ?_
    | with_reducible refine modPan_mask (sub_trans (by decide) hm) ?_
    | with_reducible refine set1_mask (sub_trans (by decide) hm) ?_
    | with_reducible apply answers_next
    | with_reducible apply ite_answers
    | with_reducible apply ite_mask
    | with_reducible apply ite_fst_mask
    | split
    | dsimp only)

theorem execPantryEnable_answers {m : Nat} {s0 s : State}  (hm : Sub 1 m) (hk : Mask m s0 s) :
    Answers m s0 (execPantryEnable s) := by
  unfold execPantryEnable
  repeat' (first
    | intro _
    | with_reducible assumption
    | with_reducible refine set1_mask (sub_trans (by decide) hm) ?_
    | with_reducible apply answers_next
    | with_reducible apply ite_answers
    | with_reducible apply ite_mask
    | with_reducible apply ite_fst_mask
    | split
    | dsimp only)

theorem execPantryDisable_answers {m : Nat} {s0 s : State}  (hm : Sub 1025 m) (hk : Mask m s0 s) :
    Answers m s0 (execPantryDisable s) := by
  unfold execPantryDisable
  repeat' (first
    | intro _
    | with_reducible assumption
    | with_reducible refine clr1_mask (sub_trans (by decide) hm) ?_
    | with_reducible refine modPan_mask (sub_trans (by decide) hm) ?_
    | with_reducible apply answers_next
    | with_reducible apply ite_answers
    | with_reducible apply ite_mask
    | with_reducible apply ite_fst_mask
    | split
    | dsimp only)

theorem execMapSegmentRepair_answers {m : Nat} {s0 s : State} {seg : Nat} {copyOk prevOk : Bool} (hm : Sub 38144 m) (hk : Mask m s0 s) :
    Answers m s0 (execMapSegmentRepair seg copyOk prevOk s) := by
  unfold execMapSegmentRepair
  repeat' (first
    | intro _
    | with_reducible assumption
    | with_reducible refine modPan_mask (sub_trans (by decide) hm) ?_
    | with_reducible refine rangeLost_mask (sub_trans (by decide) hm) ?_
    | with_reducible apply each_mask
    | with_reducible apply foldl_mask
    | with_reducible apply foldl_fst_mask
    | with_reducible apply answers_next
    | with_reducible apply ite_answers
    | with_reducible apply ite_mask
    | with_reducible apply ite_fst_mask
    | split
    | dsimp only)

theorem execEraseMarkAppend_answers {m : Nat} {s0 s : State} {suite : Nat} (hm : Sub 1024 m) (hk : Mask m s0 s) :
    Answers m s0 (execEraseMarkAppend suite s) := by
  unfold execEraseMarkAppend
  repeat' (first
    | intro _
    | with_reducible assumption
    | with_reducible refine jAppend_mask (sub_trans (by decide) hm) ?_
    | with_reducible refine modPan_mask (sub_trans (by decide) hm) ?_
    | with_reducible apply answers_next
    | with_reducible apply ite_answers
    | with_reducible apply ite_mask
    | with_reducible apply ite_fst_mask
    | split
    | dsimp only)

end Sys2Proof.Machine
end

