-- ==== Sys2Proof/Laws/PartsCasement.lean ====
section
/-!
SUPPORT. Which parts of the state the operations and commands of Casement touch.
-/
set_option linter.unusedTactic false
set_option linter.unreachableTactic false
set_option linter.unusedVariables false
namespace Sys2Proof.Machine

theorem putBurst_mask {m : Nat} {s0 s : State} {a : Nat} {b : Burst} (hm : Sub 65536 m) (hk : Mask m s0 s) :
    Mask m s0 (putBurst s a b) := by
  unfold putBurst
  repeat' (first
    | intro _
    | with_reducible assumption
    | with_reducible refine modBsm_mask (sub_trans (by decide) hm) ?_
    | with_reducible apply ite_mask
    | with_reducible apply ite_fst_mask
    | split
    | dsimp only)

theorem bsmLog_mask {m : Nat} {s0 s : State} {cls arr flags word synd : Nat} (hm : Sub 65537 m) (hk : Mask m s0 s) :
    Mask m s0 (bsmLog s cls arr flags word synd) := by
  unfold bsmLog
  repeat' (first
    | intro _
    | with_reducible assumption
    | with_reducible refine modBsm_mask (sub_trans (by decide) hm) ?_
    | with_reducible refine wr_mask (sub_trans (by decide) hm) ?_
    | with_reducible apply ite_mask
    | with_reducible apply ite_fst_mask
    | split
    | dsimp only)

theorem bsmCount_mask {m : Nat} {s0 s : State} {cls arr word : Nat} (hm : Sub 1 m) (hk : Mask m s0 s) :
    Mask m s0 (bsmCount s cls arr word) := by
  unfold bsmCount
  repeat' (first
    | intro _
    | with_reducible assumption
    | with_reducible refine bump_mask (sub_trans (by decide) hm) ?_
    | with_reducible apply ite_mask
    | with_reducible apply ite_fst_mask
    | split
    | dsimp only)

theorem memoryUe_mask {m : Nat} {s0 s : State} {arr word synd : Nat} (hm : Sub 65544 m) (hk : Mask m s0 s) :
    Mask m s0 (memoryUe s arr word synd) := by
  unfold memoryUe
  repeat' (first
    | intro _
    | with_reducible assumption
    | with_reducible refine modBsm_mask (sub_trans (by decide) hm) ?_
    | with_reducible refine post_mask (sub_trans (by decide) hm) ?_
    | with_reducible apply ite_mask
    | with_reducible apply ite_fst_mask
    | split
    | dsimp only)

theorem retireSub_mask {m : Nat} {s0 s : State} {k cause : Nat} (hm : Sub 129 m) (hk : Mask m s0 s) :
    Mask m s0 (retireSub s k cause) := by
  unfold retireSub
  repeat' (first
    | intro _
    | with_reducible assumption
    | with_reducible refine modHport_mask (sub_trans (by decide) hm) ?_
    | with_reducible refine wr_mask (sub_trans (by decide) hm) ?_
    | with_reducible apply each_mask
    | with_reducible apply ite_mask
    | with_reducible apply ite_fst_mask
    | split
    | dsimp only)

theorem retrainSub_mask {m : Nat} {s0 s : State} {k : Nat} (hm : Sub 65665 m) (hk : Mask m s0 s) :
    Mask m s0 (retrainSub s k).1 := by
  unfold retrainSub
  repeat' (first
    | intro _
    | with_reducible assumption
    | with_reducible refine bump_mask (sub_trans (by decide) hm) ?_
    | with_reducible refine modBsm_mask (sub_trans (by decide) hm) ?_
    | with_reducible refine retireSub_mask (sub_trans (by decide) hm) ?_
    | with_reducible refine wr_mask (sub_trans (by decide) hm) ?_
    | with_reducible apply ite_mask
    | with_reducible apply ite_fst_mask
    | split
    | dsimp only)

theorem checkCas_mask {m : Nat} {s0 s : State} {arr word : Nat} {scrub : Bool} {w : Casement} (hm : Sub 65545 m) (hk : Mask m s0 s) :
    Mask m s0 (checkCas s arr word scrub w).1 := by
  unfold checkCas
  repeat' (first
    | intro _
    | with_reducible assumption
    | with_reducible refine bsmCount_mask (sub_trans (by decide) hm) ?_
    | with_reducible refine bsmLog_mask (sub_trans (by decide) hm) ?_
    | with_reducible refine memoryUe_mask (sub_trans (by decide) hm) ?_
    | with_reducible apply ite_mask
    | with_reducible apply ite_fst_mask
    | split
    | dsimp only)

theorem lintelOnce_mask {m : Nat} {s0 s : State} {k : Nat} (hm : Sub 65665 m) (hk : Mask m s0 s) :
    Mask m s0 (lintelOnce s k) := by
  unfold lintelOnce
  repeat' (first
    | intro _
    | with_reducible assumption
    | with_reducible refine modBsm_mask (sub_trans (by decide) hm) ?_
    | with_reducible refine retrainSub_mask (sub_trans (by decide) hm) ?_
    | with_reducible refine fst_mask (by assumption) ?_
    | with_reducible apply ite_mask
    | with_reducible apply ite_fst_mask
    | split
    | dsimp only)

theorem readCopy_mask {m : Nat} {s0 s : State} {a : Nat} {cell bus : List Nat} {scrub rewrite : Bool} (hm : Sub 65673 m) (hk : Mask m s0 s) :
    Mask m s0 (readCopy s a cell bus scrub rewrite).1 := by
  unfold readCopy
  repeat' (first
    | intro _
    | with_reducible assumption
    | with_reducible refine bsmLog_mask (sub_trans (by decide) hm) ?_
    | with_reducible refine checkCas_mask (sub_trans (by decide) hm) ?_
    | with_reducible refine lintelOnce_mask (sub_trans (by decide) hm) ?_
    | with_reducible refine memoryUe_mask (sub_trans (by decide) hm) ?_
    | with_reducible refine putBurst_mask (sub_trans (by decide) hm) ?_
    | with_reducible refine fst_mask (by assumption) ?_
    | with_reducible apply ite_mask
    | with_reducible apply ite_fst_mask
    | split
    | dsimp only)

theorem ringFault_mask {m : Nat} {s0 s : State}  (hm : Sub 129 m) (hk : Mask m s0 s) :
    Mask m s0 (ringFault s) := by
  unfold ringFault
  repeat' (first
    | intro _
    | with_reducible assumption
    | with_reducible refine modHport_mask (sub_trans (by decide) hm) ?_
    | with_reducible refine set1_mask (sub_trans (by decide) hm) ?_
    | with_reducible apply each_mask
    | with_reducible apply ite_mask
    | with_reducible apply ite_fst_mask
    | split
    | dsimp only)

theorem contentLost_mask {m : Nat} {s0 s : State} {c : DramContent} (hm : Sub 33280 m) (hk : Mask m s0 s) : Mask m s0 (contentLost s c) := by
  cases c <;> unfold contentLost
  all_goals repeat' (first
    | intro _
    | with_reducible assumption
    | with_reducible refine modNvm_mask (sub_trans (by decide) hm) ?_
    | with_reducible refine modScu_mask (sub_trans (by decide) hm) ?_
    | with_reducible apply ite_mask
    | with_reducible apply ite_fst_mask
    | split
    | dsimp only)

theorem readBurst_mask {m : Nat} {s0 s : State} {a : Nat} {second scrub : Bool} {cell bus : List Nat} {content : DramContent} (hm : Sub 98953 m) (hk : Mask m s0 s) :
    Mask m s0 (readBurst s a second scrub cell bus content).1 := by
  unfold readBurst
  repeat' (first
    | intro _
    | with_reducible assumption
    | with_reducible refine contentLost_mask (sub_trans (by decide) hm) ?_
    | with_reducible refine putBurst_mask (sub_trans (by decide) hm) ?_
    | with_reducible refine readCopy_mask (sub_trans (by decide) hm) ?_
    | with_reducible refine ringFault_mask (sub_trans (by decide) hm) ?_
    | with_reducible refine fst_mask (by assumption) ?_
    | with_reducible apply ite_mask
    | with_reducible apply ite_fst_mask
    | split
    | dsimp only)

theorem sramLost_mask {m : Nat} {s0 s : State} {arr word : Nat} (hm : Sub 179977 m) (hk : Mask m s0 s) :
    Mask m s0 (sramLost s arr word) := by
  unfold sramLost
  repeat' (first
    | intro _
    | with_reducible assumption
    | with_reducible refine modSeq_mask (sub_trans (by decide) hm) ?_
    | with_reducible refine slotUe_mask (sub_trans (by decide) hm) ?_
    | with_reducible apply ite_mask
    | with_reducible apply ite_fst_mask
    | split
    | dsimp only)

theorem sweepWord_mask {m : Nat} {s0 s : State} {arr word : Nat} {st sm : BitVec 16} {ss poison scrub : Bool} (hm : Sub 245513 m) (hk : Mask m s0 s) :
    Mask m s0 (sweepWord s arr word st sm ss poison scrub) := by
  unfold sweepWord
  repeat' (first
    | intro _
    | with_reducible assumption
    | with_reducible refine bsmCount_mask (sub_trans (by decide) hm) ?_
    | with_reducible refine bsmLog_mask (sub_trans (by decide) hm) ?_
    | with_reducible refine memoryUe_mask (sub_trans (by decide) hm) ?_
    | with_reducible refine sramLost_mask (sub_trans (by decide) hm) ?_
    | with_reducible apply ite_mask
    | with_reducible apply ite_fst_mask
    | split
    | dsimp only)

end Sys2Proof.Machine
end

