-- ==== Sys2Proof/Laws/PartsBasement.lean ====
section
/-!
SUPPORT. Which parts of the state the operations and commands of Basement touch.
-/
set_option linter.unusedTactic false
set_option linter.unreachableTactic false
set_option linter.unusedVariables false
namespace Sys2Proof.Machine

theorem execDramBurstRead_answers {m : Nat} {s0 s : State} {a : Nat} {second : Bool} {cell bus : List Nat} {content : DramContent} (hm : Sub 98953 m) (hk : Mask m s0 s) :
    Answers m s0 (execDramBurstRead a second cell bus content s) := by
  unfold execDramBurstRead
  repeat' (first
    | intro _
    | with_reducible assumption
    | with_reducible refine readBurst_mask (sub_trans (by decide) hm) ?_
    | with_reducible refine fst_mask (by assumption) ?_
    | with_reducible apply when_mask
    | with_reducible apply answers_next
    | with_reducible apply ite_answers
    | with_reducible apply ite_mask
    | with_reducible apply ite_fst_mask
    | split
    | dsimp only)

theorem execSramSweep_answers {m : Nat} {s0 s : State} {arr word st sm : Nat} {ss poison : Bool} (hm : Sub 245513 m) (hk : Mask m s0 s) :
    Answers m s0 (execSramSweep arr word st sm ss poison s) := by
  unfold execSramSweep
  repeat' (first
    | intro _
    | with_reducible assumption
    | with_reducible refine sweepWord_mask (sub_trans (by decide) hm) ?_
    | with_reducible apply when_mask
    | with_reducible apply answers_next
    | with_reducible apply ite_answers
    | with_reducible apply ite_mask
    | with_reducible apply ite_fst_mask
    | split
    | dsimp only)

theorem scrubNext_mask {m : Nat} {s0 s : State}  (hm : Sub 65537 m) (hk : Mask m s0 s) :
    Mask m s0 (scrubNext s) := by
  unfold scrubNext
  repeat' (first
    | intro _
    | with_reducible assumption
    | with_reducible refine clr1_mask (sub_trans (by decide) hm) ?_
    | with_reducible refine modBsm_mask (sub_trans (by decide) hm) ?_
    | with_reducible refine wr_mask (sub_trans (by decide) hm) ?_
    | with_reducible apply ite_mask
    | with_reducible apply ite_fst_mask
    | split
    | dsimp only)

theorem execScrubRead_answers {m : Nat} {s0 s : State} {cell bus : List Nat} {content : DramContent} (hm : Sub 98953 m) (hk : Mask m s0 s) :
    Answers m s0 (execScrubRead cell bus content s) := by
  unfold execScrubRead
  repeat' (first
    | intro _
    | with_reducible assumption
    | with_reducible refine readBurst_mask (sub_trans (by decide) hm) ?_
    | with_reducible refine scrubNext_mask (sub_trans (by decide) hm) ?_
    | with_reducible refine fst_mask (by assumption) ?_
    | with_reducible apply when_mask
    | with_reducible apply answers_next
    | with_reducible apply ite_answers
    | with_reducible apply ite_mask
    | with_reducible apply ite_fst_mask
    | split
    | dsimp only)

theorem execScrubLateExpiry_answers {m : Nat} {s0 s : State}  (hm : Sub 9 m) (hk : Mask m s0 s) :
    Answers m s0 (execScrubLateExpiry s) := by
  unfold execScrubLateExpiry
  repeat' (first
    | intro _
    | with_reducible assumption
    | with_reducible refine post_mask (sub_trans (by decide) hm) ?_
    | with_reducible refine set1_mask (sub_trans (by decide) hm) ?_
    | with_reducible apply when_mask
    | with_reducible apply answers_next
    | with_reducible apply ite_answers
    | with_reducible apply ite_mask
    | with_reducible apply ite_fst_mask
    | split
    | dsimp only)

theorem dramClear_mask {m : Nat} {s0 s : State}  (hm : Sub 65537 m) (hk : Mask m s0 s) :
    Mask m s0 (dramClear s) := by
  unfold dramClear
  repeat' (first
    | intro _
    | with_reducible assumption
    | with_reducible refine clr1_mask (sub_trans (by decide) hm) ?_
    | with_reducible refine modBsm_mask (sub_trans (by decide) hm) ?_
    | with_reducible refine set1_mask (sub_trans (by decide) hm) ?_
    | with_reducible refine wr_mask (sub_trans (by decide) hm) ?_
    | with_reducible apply when_mask
    | with_reducible apply ite_mask
    | with_reducible apply ite_fst_mask
    | split
    | dsimp only)

theorem dramCleared_mask {m : Nat} {s0 s : State}  (hm : Sub 65537 m) (hk : Mask m s0 s) :
    Mask m s0 (dramCleared s) := by
  unfold dramCleared
  repeat' (first
    | intro _
    | with_reducible assumption
    | with_reducible refine clr1_mask (sub_trans (by decide) hm) ?_
    | with_reducible refine modBsm_mask (sub_trans (by decide) hm) ?_
    | with_reducible refine set1_mask (sub_trans (by decide) hm) ?_
    | with_reducible apply when_mask
    | with_reducible apply ite_mask
    | with_reducible apply ite_fst_mask
    | split
    | dsimp only)

theorem execDramClear_answers {m : Nat} {s0 s : State}  (hm : Sub 65537 m) (hk : Mask m s0 s) :
    Answers m s0 (execDramClear s) := by
  unfold execDramClear
  repeat' (first
    | intro _
    | with_reducible assumption
    | with_reducible refine dramClear_mask (sub_trans (by decide) hm) ?_
    | with_reducible apply answers_next
    | with_reducible apply ite_answers
    | with_reducible apply ite_mask
    | with_reducible apply ite_fst_mask
    | split
    | dsimp only)

theorem execDramClearDone_answers {m : Nat} {s0 s : State}  (hm : Sub 65537 m) (hk : Mask m s0 s) :
    Answers m s0 (execDramClearDone s) := by
  unfold execDramClearDone
  repeat' (first
    | intro _
    | with_reducible assumption
    | with_reducible refine dramCleared_mask (sub_trans (by decide) hm) ?_
    | with_reducible apply answers_next
    | with_reducible apply ite_answers
    | with_reducible apply ite_mask
    | with_reducible apply ite_fst_mask
    | split
    | dsimp only)

theorem subRetired_mask {m : Nat} {s0 s : State} {k : Nat} {running : Bool} (hm : Sub 1048575 m) (hk : Mask m s0 s) :
    Mask m s0 (subRetired s k running) := by
  unfold subRetired
  repeat' (first
    | intro _
    | with_reducible assumption
    | with_reducible refine modBsm_mask (sub_trans (by decide) hm) ?_
    | with_reducible refine modClo_mask (sub_trans (by decide) hm) ?_
    | with_reducible refine restartAfterLoss_mask (sub_trans (by decide) hm) ?_
    | with_reducible apply ite_mask
    | with_reducible apply ite_fst_mask
    | split
    | dsimp only)

theorem execSubchannelRetire_answers {m : Nat} {s0 s : State} {k : Nat} (hm : Sub 1048575 m) (hk : Mask m s0 s) :
    Answers m s0 (execSubchannelRetire k s) := by
  unfold execSubchannelRetire
  repeat' (first
    | intro _
    | with_reducible assumption
    | with_reducible refine retireSub_mask (sub_trans (by decide) hm) ?_
    | with_reducible refine subRetired_mask (sub_trans (by decide) hm) ?_
    | with_reducible refine wr_mask (sub_trans (by decide) hm) ?_
    | with_reducible apply when_mask
    | with_reducible apply answers_next
    | with_reducible apply ite_answers
    | with_reducible apply ite_mask
    | with_reducible apply ite_fst_mask
    | split
    | dsimp only)

theorem execDdrAlert_answers {m : Nat} {s0 s : State} {k : Nat} {same : Bool} (hm : Sub 1048575 m) (hk : Mask m s0 s) :
    Answers m s0 (execDdrAlert k same s) := by
  unfold execDdrAlert
  repeat' (first
    | intro _
    | with_reducible assumption
    | with_reducible refine bsmLog_mask (sub_trans (by decide) hm) ?_
    | with_reducible refine bump_mask (sub_trans (by decide) hm) ?_
    | with_reducible refine modBsm_mask (sub_trans (by decide) hm) ?_
    | with_reducible refine retrainSub_mask (sub_trans (by decide) hm) ?_
    | with_reducible refine subRetired_mask (sub_trans (by decide) hm) ?_
    | with_reducible refine fst_mask (by assumption) ?_
    | with_reducible apply when_mask
    | with_reducible apply answers_next
    | with_reducible apply ite_answers
    | with_reducible apply ite_mask
    | with_reducible apply ite_fst_mask
    | split
    | dsimp only)

theorem execSubchannelRetrainTimeout_answers {m : Nat} {s0 s : State} {k : Nat} (hm : Sub 1048575 m) (hk : Mask m s0 s) :
    Answers m s0 (execSubchannelRetrainTimeout k s) := by
  unfold execSubchannelRetrainTimeout
  repeat' (first
    | intro _
    | with_reducible assumption
    | with_reducible refine retrainSub_mask (sub_trans (by decide) hm) ?_
    | with_reducible refine subRetired_mask (sub_trans (by decide) hm) ?_
    | with_reducible refine fst_mask (by assumption) ?_
    | with_reducible apply when_mask
    | with_reducible apply answers_next
    | with_reducible apply ite_answers
    | with_reducible apply ite_mask
    | with_reducible apply ite_fst_mask
    | split
    | dsimp only)

theorem execSubchannelRetrainDone_answers {m : Nat} {s0 s : State} {k : Nat} (hm : Sub 1 m) (hk : Mask m s0 s) :
    Answers m s0 (execSubchannelRetrainDone k s) := by
  unfold execSubchannelRetrainDone
  repeat' (first
    | intro _
    | with_reducible assumption
    | with_reducible refine wr_mask (sub_trans (by decide) hm) ?_
    | with_reducible apply when_mask
    | with_reducible apply answers_next
    | with_reducible apply ite_answers
    | with_reducible apply ite_mask
    | with_reducible apply ite_fst_mask
    | split
    | dsimp only)

theorem execBsmRemapWrite_answers {m : Nat} {s0 s : State} {j : Nat} {v : U64} (hm : Sub 65537 m) (hk : Mask m s0 s) :
    Answers m s0 (execBsmRemapWrite j v s) := by
  unfold execBsmRemapWrite
  repeat' (first
    | intro _
    | with_reducible assumption
    | with_reducible refine modBsm_mask (sub_trans (by decide) hm) ?_
    | with_reducible refine set1_mask (sub_trans (by decide) hm) ?_
    | with_reducible refine wr_mask (sub_trans (by decide) hm) ?_
    | with_reducible apply when_mask
    | with_reducible apply answers_next
    | with_reducible apply ite_answers
    | with_reducible apply ite_mask
    | with_reducible apply ite_fst_mask
    | split
    | dsimp only)

theorem execRemapCopyDone_answers {m : Nat} {s0 s : State} {j : Nat} (hm : Sub 65537 m) (hk : Mask m s0 s) :
    Answers m s0 (execRemapCopyDone j s) := by
  unfold execRemapCopyDone
  repeat' (first
    | intro _
    | with_reducible assumption
    | with_reducible refine clr1_mask (sub_trans (by decide) hm) ?_
    | with_reducible refine modBsm_mask (sub_trans (by decide) hm) ?_
    | with_reducible refine putBurst_mask (sub_trans (by decide) hm) ?_
    | with_reducible refine set1_mask (sub_trans (by decide) hm) ?_
    | with_reducible refine wr_mask (sub_trans (by decide) hm) ?_
    | with_reducible apply each_mask
    | with_reducible apply answers_next
    | with_reducible apply ite_answers
    | with_reducible apply ite_mask
    | with_reducible apply ite_fst_mask
    | split
    | dsimp only)

theorem execContextStoreUe_answers {m : Nat} {s0 s : State} {n : Nat} (hm : Sub 204553 m) (hk : Mask m s0 s) :
    Answers m s0 (execContextStoreUe n s) := by
  unfold execContextStoreUe
  repeat' (first
    | intro _
    | with_reducible assumption
    | with_reducible refine bsmCount_mask (sub_trans (by decide) hm) ?_
    | with_reducible refine bsmLog_mask (sub_trans (by decide) hm) ?_
    | with_reducible refine cutWriter_mask (sub_trans (by decide) hm) ?_
    | with_reducible refine memoryUe_mask (sub_trans (by decide) hm) ?_
    | with_reducible apply when_mask
    | with_reducible apply answers_next
    | with_reducible apply ite_answers
    | with_reducible apply ite_mask
    | with_reducible apply ite_fst_mask
    | split
    | dsimp only)

end Sys2Proof.Machine
end

