-- ==== Sys2Proof/Laws/PartsLarder.lean ====
section
/-!
SUPPORT. Which parts of the state the operations and commands of Larder touch.
-/
set_option linter.unusedTactic false
set_option linter.unreachableTactic false
set_option linter.unusedVariables false
namespace Sys2Proof.Machine

theorem execRebuildComplete_answers {μ : Nat} {s0 s : State} {f row m : Nat} (hm : Sub 2154241 μ) (hk : Mask μ s0 s) :
    Answers μ s0 (execRebuildComplete f row m s) := by
  unfold execRebuildComplete
  repeat' (first
    | intro _
    | with_reducible assumption
    | with_reducible refine rebuildComplete_mask (sub_trans (by decide) hm) ?_
    | with_reducible apply answers_next
    | with_reducible apply ite_answers
    | with_reducible apply ite_mask
    | with_reducible apply ite_fst_mask
    | split
    | dsimp only)

theorem execLarderSlotUe_answers {m : Nat} {s0 s : State} {k : Nat} (hm : Sub 171785 m) (hk : Mask m s0 s) :
    Answers m s0 (execLarderSlotUe k s) := by
  unfold execLarderSlotUe
  repeat' (first
    | intro _
    | with_reducible assumption
    | with_reducible refine slotUe_mask (sub_trans (by decide) hm) ?_
    | with_reducible apply answers_next
    | with_reducible apply ite_answers
    | with_reducible apply ite_mask
    | with_reducible apply ite_fst_mask
    | split
    | dsimp only)

theorem execParitySlotUe_answers {m : Nat} {s0 s : State} {k : Nat} (hm : Sub 171785 m) (hk : Mask m s0 s) :
    Answers m s0 (execParitySlotUe k s) := by
  unfold execParitySlotUe
  repeat' (first
    | intro _
    | with_reducible assumption
    | with_reducible refine slotUe_mask (sub_trans (by decide) hm) ?_
    | with_reducible apply answers_next
    | with_reducible apply ite_answers
    | with_reducible apply ite_mask
    | with_reducible apply ite_fst_mask
    | split
    | dsimp only)

theorem execSupplyDroop_answers {m : Nat} {s0 s : State} {g : Nat} (hm : Sub 2048 m) (hk : Mask m s0 s) :
    Answers m s0 (execSupplyDroop g s) := by
  unfold execSupplyDroop
  repeat' (first
    | intro _
    | with_reducible assumption
    | with_reducible refine modLdr_mask (sub_trans (by decide) hm) ?_
    | with_reducible apply answers_next
    | with_reducible apply ite_answers
    | with_reducible apply ite_mask
    | with_reducible apply ite_fst_mask
    | split
    | dsimp only)

theorem execDroopClearExpiry_answers {m : Nat} {s0 s : State} {g : Nat} (hm : Sub 2137856 m) (hk : Mask m s0 s) :
    Answers m s0 (execDroopClearExpiry g s) := by
  unfold execDroopClearExpiry
  repeat' (first
    | intro _
    | with_reducible assumption
    | with_reducible refine modLdr_mask (sub_trans (by decide) hm) ?_
    | with_reducible refine pumpAll_mask (sub_trans (by decide) hm) ?_
    | with_reducible apply answers_next
    | with_reducible apply ite_answers
    | with_reducible apply ite_mask
    | with_reducible apply ite_fst_mask
    | split
    | dsimp only)

theorem execInhibitLongExpiry_answers {m : Nat} {s0 s : State} {n d : Nat} (hm : Sub 2056 m) (hk : Mask m s0 s) :
    Answers m s0 (execInhibitLongExpiry n d s) := by
  unfold execInhibitLongExpiry
  repeat' (first
    | intro _
    | with_reducible assumption
    | with_reducible refine modLdr_mask (sub_trans (by decide) hm) ?_
    | with_reducible refine post_mask (sub_trans (by decide) hm) ?_
    | with_reducible apply answers_next
    | with_reducible apply ite_answers
    | with_reducible apply ite_mask
    | with_reducible apply ite_fst_mask
    | split
    | dsimp only)

theorem execTempInhibitSuiteExpiry_answers {m : Nat} {s0 s : State} {n d : Nat} (hm : Sub 2137856 m) (hk : Mask m s0 s) :
    Answers m s0 (execTempInhibitSuiteExpiry n d s) := by
  unfold execTempInhibitSuiteExpiry
  repeat' (first
    | intro _
    | with_reducible assumption
    | with_reducible refine bindSuite_mask (sub_trans (by decide) hm) ?_
    | with_reducible refine modLdr_mask (sub_trans (by decide) hm) ?_
    | with_reducible refine pumpFront_mask (sub_trans (by decide) hm) _ ?_
    | with_reducible refine releaseFront_mask (sub_trans (by decide) hm) ?_
    | with_reducible apply each_mask
    | with_reducible apply answers_next
    | with_reducible apply ite_answers
    | with_reducible apply ite_mask
    | with_reducible apply ite_fst_mask
    | split
    | dsimp only)

theorem execHoldupOkChange_answers {m : Nat} {s0 s : State} {v : Bool} (hm : Sub 2137858 m) (hk : Mask m s0 s) :
    Answers m s0 (execHoldupOkChange v s) := by
  unfold execHoldupOkChange
  repeat' (first
    | intro _
    | with_reducible assumption
    | with_reducible refine modPwr_mask (sub_trans (by decide) hm) ?_
    | with_reducible refine wtCheck_mask (sub_trans (by decide) hm) ?_
    | with_reducible apply answers_next
    | with_reducible apply ite_answers
    | with_reducible apply ite_mask
    | with_reducible apply ite_fst_mask
    | split
    | dsimp only)

theorem execWtForceSet_answers {m : Nat} {s0 s : State} {v : Bool} (hm : Sub 2137857 m) (hk : Mask m s0 s) :
    Answers m s0 (execWtForceSet v s) := by
  unfold execWtForceSet
  repeat' (first
    | intro _
    | with_reducible assumption
    | with_reducible refine wr_mask (sub_trans (by decide) hm) ?_
    | with_reducible refine wtCheck_mask (sub_trans (by decide) hm) ?_
    | with_reducible apply answers_next
    | with_reducible apply ite_answers
    | with_reducible apply ite_mask
    | with_reducible apply ite_fst_mask
    | split
    | dsimp only)

theorem execDumpArmSet_answers {m : Nat} {s0 s : State} {v : Bool} (hm : Sub 2137857 m) (hk : Mask m s0 s) :
    Answers m s0 (execDumpArmSet v s) := by
  unfold execDumpArmSet
  repeat' (first
    | intro _
    | with_reducible assumption
    | with_reducible refine wr_mask (sub_trans (by decide) hm) ?_
    | with_reducible refine wtCheck_mask (sub_trans (by decide) hm) ?_
    | with_reducible apply answers_next
    | with_reducible apply ite_answers
    | with_reducible apply ite_mask
    | with_reducible apply ite_fst_mask
    | split
    | dsimp only)

theorem execLarderEnable_answers {m : Nat} {s0 s : State} {v : Bool} (hm : Sub 1 m) (hk : Mask m s0 s) :
    Answers m s0 (execLarderEnable v s) := by
  unfold execLarderEnable
  repeat' (first
    | intro _
    | with_reducible assumption
    | with_reducible refine wr_mask (sub_trans (by decide) hm) ?_
    | with_reducible apply answers_next
    | with_reducible apply ite_answers
    | with_reducible apply ite_mask
    | with_reducible apply ite_fst_mask
    | split
    | dsimp only)

theorem execLarderDrain_answers {m : Nat} {s0 s : State}  (hm : Sub 2137857 m) (hk : Mask m s0 s) :
    Answers m s0 (execLarderDrain s) := by
  unfold execLarderDrain
  repeat' (first
    | intro _
    | with_reducible assumption
    | with_reducible refine larderDrain_mask (sub_trans (by decide) hm) ?_
    | with_reducible apply answers_next
    | with_reducible apply ite_answers
    | with_reducible apply ite_mask
    | with_reducible apply ite_fst_mask
    | split
    | dsimp only)

theorem execLdrBankRetire_answers {m : Nat} {s0 s : State} {v : U64} (hm : Sub 9 m) (hk : Mask m s0 s) :
    Answers m s0 (execLdrBankRetire v s) := by
  unfold execLdrBankRetire
  repeat' (first
    | intro _
    | with_reducible assumption
    | with_reducible refine post_mask (sub_trans (by decide) hm) ?_
    | with_reducible refine set1_mask (sub_trans (by decide) hm) ?_
    | with_reducible refine wr_mask (sub_trans (by decide) hm) ?_
    | with_reducible apply answers_next
    | with_reducible apply ite_answers
    | with_reducible apply ite_mask
    | with_reducible apply ite_fst_mask
    | split
    | dsimp only)

end Sys2Proof.Machine
end

