-- ==== Sys2Proof/Laws/PartsScullery.lean ====
section
/-!
SUPPORT. Which parts of the state the operations and commands of Scullery touch.
-/
set_option linter.unusedTactic false
set_option linter.unreachableTactic false
set_option linter.unusedVariables false
namespace Sys2Proof.Machine

theorem startVictim_mask {m : Nat} {s0 s : State} {rg k cause : Nat} (hm : Sub 33792 m) (hk : Mask m s0 s) :
    Mask m s0 (startVictim s rg k cause) := by
  unfold startVictim
  repeat' (first
    | intro _
    | with_reducible assumption
    | with_reducible refine modScu_mask (sub_trans (by decide) hm) ?_
    | with_reducible refine modSuite_mask (sub_trans (by decide) hm) ?_
    | with_reducible refine suiteRecord_mask (sub_trans (by decide) hm) ?_
    | with_reducible apply ite_mask
    | with_reducible apply ite_fst_mask
    | split
    | dsimp only)

theorem execReclaimVictimChoice_answers {m : Nat} {s0 s : State} {rg : Nat} (hm : Sub 33792 m) (hk : Mask m s0 s) :
    Answers m s0 (execReclaimVictimChoice rg s) := by
  unfold execReclaimVictimChoice
  repeat' (first
    | intro _
    | with_reducible assumption
    | with_reducible refine modScu_mask (sub_trans (by decide) hm) ?_
    | with_reducible refine startVictim_mask (sub_trans (by decide) hm) ?_
    | with_reducible apply answers_next
    | with_reducible apply ite_answers
    | with_reducible apply ite_mask
    | with_reducible apply ite_fst_mask
    | split
    | dsimp only)

theorem execStaticWearDue_answers {m : Nat} {s0 s : State} {rg : Nat} (hm : Sub 33792 m) (hk : Mask m s0 s) :
    Answers m s0 (execStaticWearDue rg s) := by
  unfold execStaticWearDue
  repeat' (first
    | intro _
    | with_reducible assumption
    | with_reducible refine startVictim_mask (sub_trans (by decide) hm) ?_
    | with_reducible apply answers_next
    | with_reducible apply ite_answers
    | with_reducible apply ite_mask
    | with_reducible apply ite_fst_mask
    | split
    | dsimp only)

theorem sanitizeCheck_mask {m : Nat} {s0 s : State}  (hm : Sub 512 m) (hk : Mask m s0 s) :
    Mask m s0 (sanitizeCheck s) := by
  unfold sanitizeCheck
  repeat' (first
    | intro _
    | with_reducible assumption
    | with_reducible refine modNvm_mask (sub_trans (by decide) hm) ?_
    | with_reducible apply ite_mask
    | with_reducible apply ite_fst_mask
    | split
    | dsimp only)

theorem suiteErased_mask {m : Nat} {s0 s : State} {k : Nat} (hm : Sub 2137856 m) (hk : Mask m s0 s) :
    Mask m s0 (suiteErased s k) := by
  unfold suiteErased
  repeat' (first
    | intro _
    | with_reducible assumption
    | with_reducible refine modNvm_mask (sub_trans (by decide) hm) ?_
    | with_reducible refine modPan_mask (sub_trans (by decide) hm) ?_
    | with_reducible refine modScu_mask (sub_trans (by decide) hm) ?_
    | with_reducible refine poolCheck_mask (sub_trans (by decide) hm) ?_
    | with_reducible refine pumpAll_mask (sub_trans (by decide) hm) ?_
    | with_reducible refine sanitizeCheck_mask (sub_trans (by decide) hm) ?_
    | with_reducible refine suiteRecord_mask (sub_trans (by decide) hm) ?_
    | with_reducible apply each_mask
    | with_reducible apply ite_mask
    | with_reducible apply ite_fst_mask
    | split
    | dsimp only)

theorem execSuiteEraseDone_answers {m : Nat} {s0 s : State} {k : Nat} (hm : Sub 2137856 m) (hk : Mask m s0 s) :
    Answers m s0 (execSuiteEraseDone k s) := by
  unfold execSuiteEraseDone
  repeat' (first
    | intro _
    | with_reducible assumption
    | with_reducible refine suiteErased_mask (sub_trans (by decide) hm) ?_
    | with_reducible apply answers_next
    | with_reducible apply ite_answers
    | with_reducible apply ite_mask
    | with_reducible apply ite_fst_mask
    | split
    | dsimp only)

theorem execEraseFail_answers {μ : Nat} {s0 s : State} {k m : Nat} (hm : Sub 34304 μ) (hk : Mask μ s0 s) :
    Answers μ s0 (execEraseFail k m s) := by
  unfold execEraseFail
  repeat' (first
    | intro _
    | with_reducible assumption
    | with_reducible refine eraseFailed_mask (sub_trans (by decide) hm) ?_
    | with_reducible refine modNvm_mask (sub_trans (by decide) hm) ?_
    | with_reducible apply answers_next
    | with_reducible apply ite_answers
    | with_reducible apply ite_mask
    | with_reducible apply ite_fst_mask
    | split
    | dsimp only)

theorem patrolWordline_mask {m : Nat} {s0 s : State} {k i : Nat} (hm : Sub 37120 m) (hk : Mask m s0 s) :
    Mask m s0 (patrolWordline s k i) := by
  unfold patrolWordline
  repeat' (first
    | intro _
    | with_reducible assumption
    | with_reducible refine readMember_mask (sub_trans (by decide) hm) ?_
    | with_reducible refine readUnit_mask (sub_trans (by decide) hm) ?_
    | with_reducible refine opt_mask (by assumption) ?_
    | with_reducible apply some_maskO
    | with_reducible apply none_maskO
    | with_reducible apply ite_maskO
    | with_reducible apply map_maskO
    | with_reducible apply mapOf_maskO
    | with_reducible apply getD_mask
    | with_reducible apply each_mask
    | with_reducible apply ite_mask
    | with_reducible apply ite_fst_mask
    | split
    | dsimp only)

theorem execPatrolRead_answers {m : Nat} {s0 s : State}  (hm : Sub 37121 m) (hk : Mask m s0 s) :
    Answers m s0 (execPatrolRead s) := by
  unfold execPatrolRead
  repeat' (first
    | intro _
    | with_reducible assumption
    | with_reducible refine clr1_mask (sub_trans (by decide) hm) ?_
    | with_reducible refine modScu_mask (sub_trans (by decide) hm) ?_
    | with_reducible refine patrolWordline_mask (sub_trans (by decide) hm) ?_
    | with_reducible refine wr_mask (sub_trans (by decide) hm) ?_
    | with_reducible apply answers_next
    | with_reducible apply ite_answers
    | with_reducible apply ite_mask
    | with_reducible apply ite_fst_mask
    | split
    | dsimp only)

theorem execPatrolLateExpiry_answers {m : Nat} {s0 s : State}  (hm : Sub 9 m) (hk : Mask m s0 s) :
    Answers m s0 (execPatrolLateExpiry s) := by
  unfold execPatrolLateExpiry
  repeat' (first
    | intro _
    | with_reducible assumption
    | with_reducible refine post_mask (sub_trans (by decide) hm) ?_
    | with_reducible refine set1_mask (sub_trans (by decide) hm) ?_
    | with_reducible apply answers_next
    | with_reducible apply ite_answers
    | with_reducible apply ite_mask
    | with_reducible apply ite_fst_mask
    | split
    | dsimp only)

theorem execRetentionAgeExpiry_answers {m : Nat} {s0 s : State} {k : Nat} (hm : Sub 32768 m) (hk : Mask m s0 s) :
    Answers m s0 (execRetentionAgeExpiry k s) := by
  unfold execRetentionAgeExpiry
  repeat' (first
    | intro _
    | with_reducible assumption
    | with_reducible refine modSuite_mask (sub_trans (by decide) hm) ?_
    | with_reducible apply answers_next
    | with_reducible apply ite_answers
    | with_reducible apply ite_mask
    | with_reducible apply ite_fst_mask
    | split
    | dsimp only)

theorem execOpenMaxExpiry_answers {m : Nat} {s0 s : State} {k : Nat} (hm : Sub 2137856 m) (hk : Mask m s0 s) :
    Answers m s0 (execOpenMaxExpiry k s) := by
  unfold execOpenMaxExpiry
  repeat' (first
    | intro _
    | with_reducible assumption
    | with_reducible refine endSuite_mask (sub_trans (by decide) hm) ?_
    | with_reducible refine modSuite_mask (sub_trans (by decide) hm) ?_
    | with_reducible apply answers_next
    | with_reducible apply ite_answers
    | with_reducible apply ite_mask
    | with_reducible apply ite_fst_mask
    | split
    | dsimp only)

theorem execFoldRow_answers {m : Nat} {s0 s : State} {k : Nat} (hm : Sub 2135296 m) (hk : Mask m s0 s) :
    Answers m s0 (execFoldRow k s) := by
  unfold execFoldRow
  repeat' (first
    | intro _
    | with_reducible assumption
    | with_reducible refine foldStop_mask (sub_trans (by decide) hm) ?_
    | with_reducible refine modScu_mask (sub_trans (by decide) hm) ?_
    | with_reducible refine modSuite_mask (sub_trans (by decide) hm) ?_
    | with_reducible refine offer_mask (sub_trans (by decide) hm) ?_
    | with_reducible apply each_mask
    | with_reducible apply answers_next
    | with_reducible apply ite_answers
    | with_reducible apply ite_mask
    | with_reducible apply ite_fst_mask
    | split
    | dsimp only)

theorem execConsolidationStep_answers {m : Nat} {s0 s : State}  (hm : Sub 2137856 m) (hk : Mask m s0 s) :
    Answers m s0 (execConsolidationStep s) := by
  unfold execConsolidationStep
  repeat' (first
    | intro _
    | with_reducible assumption
    | with_reducible refine modScu_mask (sub_trans (by decide) hm) ?_
    | with_reducible refine startCons_mask (sub_trans (by decide) hm) ?_
    | with_reducible apply foldl_mask
    | with_reducible apply foldl_fst_mask
    | with_reducible apply answers_next
    | with_reducible apply ite_answers
    | with_reducible apply ite_mask
    | with_reducible apply ite_fst_mask
    | split
    | dsimp only)

theorem loseWithPort_mask {m : Nat} {s0 s : State} {n ns u : Nat} (hm : Sub 38144 m) (hk : Mask m s0 s) :
    Mask m s0 (loseWithPort s n ns u) := by
  unfold loseWithPort
  repeat' (first
    | intro _
    | with_reducible assumption
    | with_reducible refine rangeLost_mask (sub_trans (by decide) hm) ?_
    | with_reducible apply ite_mask
    | with_reducible apply ite_fst_mask
    | split
    | dsimp only)

theorem execLedgerWalkLost_answers {m : Nat} {s0 s : State} {n : Nat} (hm : Sub 171785 m) (hk : Mask m s0 s) :
    Answers m s0 (execLedgerWalkLost n s) := by
  unfold execLedgerWalkLost
  repeat' (first
    | intro _
    | with_reducible assumption
    | with_reducible refine loseWithPort_mask (sub_trans (by decide) hm) ?_
    | with_reducible refine modScu_mask (sub_trans (by decide) hm) ?_
    | with_reducible refine rangeLost_mask (sub_trans (by decide) hm) ?_
    | with_reducible refine settleCheck_mask (sub_trans (by decide) hm) ?_
    | with_reducible apply each_mask
    | with_reducible apply answers_next
    | with_reducible apply ite_answers
    | with_reducible apply ite_mask
    | with_reducible apply ite_fst_mask
    | split
    | dsimp only)

theorem addCounts_mask {m : Nat} {s0 s : State}  (hm : Sub 33280 m) (hk : Mask m s0 s) :
    Mask m s0 (addCounts s) := by
  unfold addCounts
  repeat' (first
    | intro _
    | with_reducible assumption
    | with_reducible refine modNvm_mask (sub_trans (by decide) hm) ?_
    | with_reducible refine modScu_mask (sub_trans (by decide) hm) ?_
    | with_reducible apply each_mask
    | with_reducible apply ite_mask
    | with_reducible apply ite_fst_mask
    | split
    | dsimp only)

theorem execLifetimeCountUpdate_answers {m : Nat} {s0 s : State}  (hm : Sub 33280 m) (hk : Mask m s0 s) :
    Answers m s0 (execLifetimeCountUpdate s) := by
  unfold execLifetimeCountUpdate
  repeat' (first
    | intro _
    | with_reducible assumption
    | with_reducible refine addCounts_mask (sub_trans (by decide) hm) ?_
    | with_reducible apply answers_next
    | with_reducible apply ite_answers
    | with_reducible apply ite_mask
    | with_reducible apply ite_fst_mask
    | split
    | dsimp only)

theorem execSuiteIdxWrite_answers {m : Nat} {s0 s : State} {v : U64} (hm : Sub 32769 m) (hk : Mask m s0 s) :
    Answers m s0 (execSuiteIdxWrite v s) := by
  unfold execSuiteIdxWrite
  repeat' (first
    | intro _
    | with_reducible assumption
    | with_reducible refine modScu_mask (sub_trans (by decide) hm) ?_
    | with_reducible refine wr_mask (sub_trans (by decide) hm) ?_
    | with_reducible apply answers_next
    | with_reducible apply ite_answers
    | with_reducible apply ite_mask
    | with_reducible apply ite_fst_mask
    | split
    | dsimp only)

theorem execTempHistMinute_answers {m : Nat} {s0 s : State}  (hm : Sub 512 m) (hk : Mask m s0 s) :
    Answers m s0 (execTempHistMinute s) := by
  unfold execTempHistMinute
  repeat' (first
    | intro _
    | with_reducible assumption
    | with_reducible refine modNvm_mask (sub_trans (by decide) hm) ?_
    | with_reducible apply answers_next
    | with_reducible apply ite_answers
    | with_reducible apply ite_mask
    | with_reducible apply ite_fst_mask
    | split
    | dsimp only)

end Sys2Proof.Machine
end

