-- ==== Sys2Proof/Laws/PartsRecovery.lean ====
section
/-!
SUPPORT. Which parts of the state the operations and commands of Recovery touch.
-/
set_option linter.unusedTactic false
set_option linter.unreachableTactic false
set_option linter.unusedVariables false
namespace Sys2Proof.Machine

theorem recoverDram_mask {m : Nat} {s0 s : State}  (hm : Sub 65665 m) (hk : Mask m s0 s) :
    Mask m s0 (recoverDram s) := by
  unfold recoverDram
  repeat' (first
    | intro _
    | with_reducible assumption
    | with_reducible refine dramClear_mask (sub_trans (by decide) hm) ?_
    | with_reducible refine dramCleared_mask (sub_trans (by decide) hm) ?_
    | with_reducible refine retireSub_mask (sub_trans (by decide) hm) ?_
    | with_reducible refine set1_mask (sub_trans (by decide) hm) ?_
    | with_reducible refine wr_mask (sub_trans (by decide) hm) ?_
    | with_reducible apply each_mask
    | with_reducible apply ite_mask
    | with_reducible apply ite_fst_mask
    | split
    | dsimp only)

theorem sizeCheck_mask {m : Nat} {s0 s : State}  (hm : Sub 9 m) (hk : Mask m s0 s) :
    Mask m s0 (sizeCheck s) := by
  unfold sizeCheck
  repeat' (first
    | intro _
    | with_reducible assumption
    | with_reducible refine post_mask (sub_trans (by decide) hm) ?_
    | with_reducible refine set1_mask (sub_trans (by decide) hm) ?_
    | with_reducible apply ite_mask
    | with_reducible apply ite_fst_mask
    | split
    | dsimp only)

theorem parkMap_mask {μ : Nat} {s0 s : State} {m : MapImg} (hm : Sub 2097160 μ) (hk : Mask μ s0 s) :
    Mask μ s0 (parkMap s m).1 := by
  unfold parkMap
  repeat' (first
    | intro _
    | with_reducible assumption
    | with_reducible refine post_mask (sub_trans (by decide) hm) ?_
    | with_reducible refine ticks_mask (sub_trans (by decide) hm) ?_
    | with_reducible apply ite_mask
    | with_reducible apply ite_fst_mask
    | split
    | dsimp only)

theorem recoverLoad_mask {m : Nat} {s0 s : State} {bad : List (Nat × Bool)} (hm : Sub 2098184 m) (hk : Mask m s0 s) :
    Mask m s0 (recoverLoad s bad) := by
  unfold recoverLoad
  repeat' (first
    | intro _
    | with_reducible assumption
    | with_reducible refine modPan_mask (sub_trans (by decide) hm) ?_
    | with_reducible refine parkMap_mask (sub_trans (by decide) hm) ?_
    | with_reducible refine fst_mask (by assumption) ?_
    | with_reducible apply ite_mask
    | with_reducible apply ite_fst_mask
    | split
    | dsimp only)

theorem loseSegments_mask {m : Nat} {s0 s : State} {bad : List (Nat × Bool)} (hm : Sub 38144 m) (hk : Mask m s0 s) :
    Mask m s0 (loseSegments s bad) := by
  unfold loseSegments
  repeat' (first
    | intro _
    | with_reducible assumption
    | with_reducible refine rangeLost_mask (sub_trans (by decide) hm) ?_
    | with_reducible apply each_mask
    | with_reducible apply ite_mask
    | with_reducible apply ite_fst_mask
    | split
    | dsimp only)

theorem recoverReplay_mask {m : Nat} {s0 s : State} {bad : List (Nat × Bool)} (hm : Sub 38144 m) (hk : Mask m s0 s) :
    Mask m s0 (recoverReplay s bad) := by
  unfold recoverReplay
  repeat' (first
    | intro _
    | with_reducible assumption
    | with_reducible refine loseSegments_mask (sub_trans (by decide) hm) ?_
    | with_reducible refine modPan_mask (sub_trans (by decide) hm) ?_
    | with_reducible apply ite_mask
    | with_reducible apply ite_fst_mask
    | split
    | dsimp only)

theorem redoRec_mask {μ : Nat} {s0 s : State} {m : MapImg} {r : JRec} (hm : Sub 1280 μ) (hk : Mask μ s0 s) :
    Mask μ s0 (redoRec s m r).1 := by
  unfold redoRec
  repeat' (first
    | intro _
    | with_reducible assumption
    | with_reducible refine jAppend_mask (sub_trans (by decide) hm) ?_
    | with_reducible refine modHall_mask (sub_trans (by decide) hm) ?_
    | with_reducible refine modPan_mask (sub_trans (by decide) hm) ?_
    | with_reducible apply ite_mask
    | with_reducible apply ite_fst_mask
    | split
    | dsimp only)

theorem redoTail_mask {m : Nat} {s0 s : State} {tail : List (Nat × JRec)} (hm : Sub 1280 m) (hk : Mask m s0 s) :
    Mask m s0 (redoTail s tail) := by
  unfold redoTail
  repeat' (first
    | intro _
    | with_reducible assumption
    | with_reducible refine modPan_mask (sub_trans (by decide) hm) ?_
    | with_reducible refine redoRec_mask (sub_trans (by decide) hm) ?_
    | with_reducible refine fst_mask (by assumption) ?_
    | with_reducible apply foldl_mask
    | with_reducible apply foldl_fst_mask
    | with_reducible apply ite_mask
    | with_reducible apply ite_fst_mask
    | split
    | dsimp only)

theorem backSlot_mask {m : Nat} {s0 s : State} {img : DumpImg} {k st : Nat} (hm : Sub 2048 m) (hk : Mask m s0 s) :
    Mask m s0 (backSlot s img k st) := by
  unfold backSlot
  repeat' (first
    | intro _
    | with_reducible assumption
    | with_reducible refine modLdr_mask (sub_trans (by decide) hm) ?_
    | with_reducible apply ite_mask
    | with_reducible apply ite_fst_mask
    | split
    | dsimp only)

theorem restoreOverlay_mask {m : Nat} {s0 s : State} {img : DumpImg} {d : DumpFound} (hm : Sub 2137856 m) (hk : Mask m s0 s) :
    Mask m s0 (restoreOverlay s img d) := by
  unfold restoreOverlay
  repeat' (first
    | intro _
    | with_reducible assumption
    | with_reducible refine backSlot_mask (sub_trans (by decide) hm) ?_
    | with_reducible refine joinHost_mask (sub_trans (by decide) hm) ?_
    | with_reducible refine modPan_mask (sub_trans (by decide) hm) ?_
    | with_reducible apply each_mask
    | with_reducible apply ite_mask
    | with_reducible apply ite_fst_mask
    | split
    | dsimp only)

theorem armRest_mask {m : Nat} {s0 s : State} {img : DumpImg} {d : DumpFound} (hm : Sub 38144 m) (hk : Mask m s0 s) :
    Mask m s0 (armRest s img d) := by
  unfold armRest
  repeat' (first
    | intro _
    | with_reducible assumption
    | with_reducible refine rangeLost_mask (sub_trans (by decide) hm) ?_
    | with_reducible apply each_mask
    | with_reducible apply ite_mask
    | with_reducible apply ite_fst_mask
    | split
    | dsimp only)

theorem restoreUnits_mask {m : Nat} {s0 s : State} {img : DumpImg} {d : DumpFound} (hm : Sub 2137856 m) (hk : Mask m s0 s) :
    Mask m s0 (restoreUnits s img d) := by
  unfold restoreUnits
  repeat' (first
    | intro _
    | with_reducible assumption
    | with_reducible refine backSlot_mask (sub_trans (by decide) hm) ?_
    | with_reducible refine directCommit_mask (sub_trans (by decide) hm) ?_
    | with_reducible refine modHall_mask (sub_trans (by decide) hm) ?_
    | with_reducible refine overlayCommit_mask (sub_trans (by decide) hm) ?_
    | with_reducible refine fst_mask (by assumption) ?_
    | with_reducible apply each_mask
    | with_reducible apply ite_mask
    | with_reducible apply ite_fst_mask
    | split
    | dsimp only)

theorem keepWrites_mask {m : Nat} {s0 s : State}  (hm : Sub 131072 m) (hk : Mask m s0 s) :
    Mask m s0 (keepWrites s) := by
  unfold keepWrites
  repeat' (first
    | intro _
    | with_reducible assumption
    | with_reducible refine modSta_mask (sub_trans (by decide) hm) ?_
    | with_reducible apply ite_mask
    | with_reducible apply ite_fst_mask
    | split
    | dsimp only)

theorem closeOpen_mask {m : Nat} {s0 s : State} {protected_ : Bool} (hm : Sub 2130944 m) (hk : Mask m s0 s) :
    Mask m s0 (closeOpen s protected_) := by
  unfold closeOpen
  repeat' (first
    | intro _
    | with_reducible assumption
    | with_reducible refine closedSuite_mask (sub_trans (by decide) hm) ?_
    | with_reducible refine modScu_mask (sub_trans (by decide) hm) ?_
    | with_reducible refine modSuite_mask (sub_trans (by decide) hm) ?_
    | with_reducible apply each_mask
    | with_reducible apply ite_mask
    | with_reducible apply ite_fst_mask
    | split
    | dsimp only)

theorem recoverDump_mask {m : Nat} {s0 s : State} {d : DumpFound} (hm : Sub 2268929 m) (hk : Mask m s0 s) :
    Mask m s0 (recoverDump s d) := by
  unfold recoverDump
  repeat' (first
    | intro _
    | with_reducible assumption
    | with_reducible refine armRest_mask (sub_trans (by decide) hm) ?_
    | with_reducible refine closeOpen_mask (sub_trans (by decide) hm) ?_
    | with_reducible refine keepWrites_mask (sub_trans (by decide) hm) ?_
    | with_reducible refine modLdr_mask (sub_trans (by decide) hm) ?_
    | with_reducible refine panFlags_mask (sub_trans (by decide) hm) ?_
    | with_reducible refine redoTail_mask (sub_trans (by decide) hm) ?_
    | with_reducible refine restoreOverlay_mask (sub_trans (by decide) hm) ?_
    | with_reducible refine restoreUnits_mask (sub_trans (by decide) hm) ?_
    | with_reducible refine wr_mask (sub_trans (by decide) hm) ?_
    | with_reducible apply ite_mask
    | with_reducible apply ite_fst_mask
    | split
    | dsimp only)

theorem dumpSuites_mask {m : Nat} {s0 s : State} {dumped : Bool} (hm : Sub 38144 m) (hk : Mask m s0 s) :
    Mask m s0 (dumpSuites s dumped) := by
  unfold dumpSuites
  repeat' (first
    | intro _
    | with_reducible assumption
    | with_reducible refine eraseIfDue_mask (sub_trans (by decide) hm) ?_
    | with_reducible refine modSuite_mask (sub_trans (by decide) hm) ?_
    | with_reducible refine suiteRecord_mask (sub_trans (by decide) hm) ?_
    | with_reducible apply each_mask
    | with_reducible apply ite_mask
    | with_reducible apply ite_fst_mask
    | split
    | dsimp only)

theorem holdBack_mask {m : Nat} {s0 s : State}  (hm : Sub 32768 m) (hk : Mask m s0 s) :
    Mask m s0 (holdBack s) := by
  unfold holdBack
  repeat' (first
    | intro _
    | with_reducible assumption
    | with_reducible refine modScu_mask (sub_trans (by decide) hm) ?_
    | with_reducible apply each_mask
    | with_reducible apply ite_mask
    | with_reducible apply ite_fst_mask
    | split
    | dsimp only)

theorem markEvery_mask {m : Nat} {s0 s : State}  (hm : Sub 33792 m) (hk : Mask m s0 s) :
    Mask m s0 (markEvery s) := by
  unfold markEvery
  repeat' (first
    | intro _
    | with_reducible assumption
    | with_reducible refine jAppend_mask (sub_trans (by decide) hm) ?_
    | with_reducible refine modPan_mask (sub_trans (by decide) hm) ?_
    | with_reducible refine modSuite_mask (sub_trans (by decide) hm) ?_
    | with_reducible apply each_mask
    | with_reducible apply ite_mask
    | with_reducible apply ite_fst_mask
    | split
    | dsimp only)

theorem recoverSuites_mask {m : Nat} {s0 s : State}  (hm : Sub 40224 m) (hk : Mask m s0 s) :
    Mask m s0 (recoverSuites s) := by
  unfold recoverSuites
  repeat' (first
    | intro _
    | with_reducible assumption
    | with_reducible refine confAppend_mask (sub_trans (by decide) hm) ?_
    | with_reducible refine dumpSuites_mask (sub_trans (by decide) hm) ?_
    | with_reducible refine eraseIfDue_mask (sub_trans (by decide) hm) ?_
    | with_reducible refine holdBack_mask (sub_trans (by decide) hm) ?_
    | with_reducible refine markEvery_mask (sub_trans (by decide) hm) ?_
    | with_reducible refine modLdr_mask (sub_trans (by decide) hm) ?_
    | with_reducible refine modScu_mask (sub_trans (by decide) hm) ?_
    | with_reducible refine modSuite_mask (sub_trans (by decide) hm) ?_
    | with_reducible refine poolCheck_mask (sub_trans (by decide) hm) ?_
    | with_reducible apply each_mask
    | with_reducible apply ite_mask
    | with_reducible apply ite_fst_mask
    | split
    | dsimp only)

theorem resendWrites_mask {m : Nat} {s0 s : State}  (hm : Sub 139017 m) (hk : Mask m s0 s) :
    Mask m s0 (resendWrites s) := by
  unfold resendWrites
  repeat' (first
    | intro _
    | with_reducible assumption
    | with_reducible refine freeSlot_mask (sub_trans (by decide) hm) ?_
    | with_reducible refine modHall_mask (sub_trans (by decide) hm) ?_
    | with_reducible refine modSta_mask (sub_trans (by decide) hm) ?_
    | with_reducible refine settleCheck_mask (sub_trans (by decide) hm) ?_
    | with_reducible refine stairPump_mask (sub_trans (by decide) hm) ?_
    | with_reducible apply each_mask
    | with_reducible apply ite_mask
    | with_reducible apply ite_fst_mask
    | split
    | dsimp only)

theorem rearm_mask {m : Nat} {s0 s : State}  (hm : Sub 256 m) (hk : Mask m s0 s) :
    Mask m s0 (rearm s) := by
  unfold rearm
  repeat' (first
    | intro _
    | with_reducible assumption
    | with_reducible refine asyncAll_mask (sub_trans (by decide) hm) ?_
    | with_reducible refine modHall_mask (sub_trans (by decide) hm) ?_
    | with_reducible apply each_mask
    | with_reducible apply ite_mask
    | with_reducible apply ite_fst_mask
    | split
    | dsimp only)

theorem recoverReady_mask {m : Nat} {s0 s : State}  (hm : Sub 139145 m) (hk : Mask m s0 s) :
    Mask m s0 (recoverReady s) := by
  unfold recoverReady
  repeat' (first
    | intro _
    | with_reducible assumption
    | with_reducible refine hallReady_mask (sub_trans (by decide) hm) ?_
    | with_reducible refine lapStep_mask (sub_trans (by decide) hm) ?_
    | with_reducible refine rearm_mask (sub_trans (by decide) hm) ?_
    | with_reducible refine resendWrites_mask (sub_trans (by decide) hm) ?_
    | with_reducible refine set1_mask (sub_trans (by decide) hm) ?_
    | with_reducible refine wr_mask (sub_trans (by decide) hm) ?_
    | with_reducible apply ite_mask
    | with_reducible apply ite_fst_mask
    | split
    | dsimp only)

end Sys2Proof.Machine
end

