-- ==== Sys2Proof/Laws/PartsHostLink.lean ====
section
/-!
SUPPORT. Which parts of the state the operations and commands of HostLink touch.
-/
set_option linter.unusedTactic false
set_option linter.unreachableTactic false
set_option linter.unusedVariables false
namespace Sys2Proof.Machine

theorem execHostLinkUp_answers {m : Nat} {s0 s : State} {p rate width : Nat} {flit : Bool} (hm : Sub 128 m) (hk : Mask m s0 s) :
    Answers m s0 (execHostLinkUp p rate width flit s) := by
  unfold execHostLinkUp
  repeat' (first
    | intro _
    | with_reducible assumption
    | with_reducible refine modHport_mask (sub_trans (by decide) hm) ?_
    | with_reducible apply when_mask
    | with_reducible apply answers_next
    | with_reducible apply ite_answers
    | with_reducible apply ite_mask
    | with_reducible apply ite_fst_mask
    | split
    | dsimp only)

theorem execTlpReceive_answers {m : Nat} {s0 s : State} {p seq : Nat} {crcOk flit poison : Bool} {tag : Option Nat} (hm : Sub 1048705 m) (hk : Mask m s0 s) :
    Answers m s0 (execTlpReceive p seq crcOk flit poison tag s) := by
  unfold execTlpReceive
  repeat' (first
    | intro _
    | with_reducible assumption
    | with_reducible refine bump_mask (sub_trans (by decide) hm) ?_
    | with_reducible refine dropTag_mask (sub_trans (by decide) hm) ?_
    | with_reducible refine emit_mask (sub_trans (by decide) hm) ?_
    | with_reducible refine haltChan_mask (sub_trans (by decide) hm) ?_
    | with_reducible refine modHport_mask (sub_trans (by decide) hm) ?_
    | with_reducible apply answers_next
    | with_reducible apply ite_answers
    | with_reducible apply ite_mask
    | with_reducible apply ite_fst_mask
    | split
    | dsimp only)

theorem execConfigRequest_answers {m : Nat} {s0 s : State} {p : Nat} (hm : Sub 1048704 m) (hk : Mask m s0 s) :
    Answers m s0 (execConfigRequest p s) := by
  unfold execConfigRequest
  repeat' (first
    | intro _
    | with_reducible assumption
    | with_reducible refine emit_mask (sub_trans (by decide) hm) ?_
    | with_reducible refine modHport_mask (sub_trans (by decide) hm) ?_
    | with_reducible apply answers_next
    | with_reducible apply ite_answers
    | with_reducible apply ite_mask
    | with_reducible apply ite_fst_mask
    | split
    | dsimp only)

theorem linkDown_mask {m : Nat} {s0 s : State} {p : Nat} (hm : Sub 128 m) (hk : Mask m s0 s) :
    Mask m s0 (linkDown s p) := by
  unfold linkDown
  repeat' (first
    | intro _
    | with_reducible assumption
    | with_reducible refine modHport_mask (sub_trans (by decide) hm) ?_
    | with_reducible apply ite_mask
    | with_reducible apply ite_fst_mask
    | split
    | dsimp only)

theorem resetPort_mask {m : Nat} {s0 s : State} {p : Nat} {down : Bool} (hm : Sub 188361 m) (hk : Mask m s0 s) :
    Mask m s0 (resetPort s p down) := by
  unfold resetPort
  repeat' (first
    | intro _
    | with_reducible assumption
    | with_reducible refine linkDown_mask (sub_trans (by decide) hm) ?_
    | with_reducible refine modHport_mask (sub_trans (by decide) hm) ?_
    | with_reducible refine resetController_mask (sub_trans (by decide) hm) ?_
    | with_reducible apply ite_mask
    | with_reducible apply ite_fst_mask
    | split
    | dsimp only)

theorem execPerstAssert_answers {m : Nat} {s0 s : State} {p : Nat} (hm : Sub 196571 m) (hk : Mask m s0 s) :
    Answers m s0 (execPerstAssert p s) := by
  unfold execPerstAssert
  repeat' (first
    | intro _
    | with_reducible assumption
    | with_reducible refine modHport_mask (sub_trans (by decide) hm) ?_
    | with_reducible refine resetPort_mask (sub_trans (by decide) hm) ?_
    | with_reducible refine wake_mask (sub_trans (by decide) hm) ?_
    | with_reducible apply answers_next
    | with_reducible apply ite_answers
    | with_reducible apply ite_mask
    | with_reducible apply ite_fst_mask
    | split
    | dsimp only)

theorem execPerstDeassert_answers {m : Nat} {s0 s : State} {p : Nat} (hm : Sub 128 m) (hk : Mask m s0 s) :
    Answers m s0 (execPerstDeassert p s) := by
  unfold execPerstDeassert
  repeat' (first
    | intro _
    | with_reducible assumption
    | with_reducible refine modHport_mask (sub_trans (by decide) hm) ?_
    | with_reducible apply when_mask
    | with_reducible apply answers_next
    | with_reducible apply ite_answers
    | with_reducible apply ite_mask
    | with_reducible apply ite_fst_mask
    | split
    | dsimp only)

theorem execHotReset_answers {m : Nat} {s0 s : State} {p : Nat} (hm : Sub 188361 m) (hk : Mask m s0 s) :
    Answers m s0 (execHotReset p s) := by
  unfold execHotReset
  repeat' (first
    | intro _
    | with_reducible assumption
    | with_reducible refine resetPort_mask (sub_trans (by decide) hm) ?_
    | with_reducible apply when_mask
    | with_reducible apply answers_next
    | with_reducible apply ite_answers
    | with_reducible apply ite_mask
    | with_reducible apply ite_fst_mask
    | split
    | dsimp only)

theorem execFunctionLevelReset_answers {m : Nat} {s0 s : State} {p : Nat} (hm : Sub 188361 m) (hk : Mask m s0 s) :
    Answers m s0 (execFunctionLevelReset p s) := by
  unfold execFunctionLevelReset
  repeat' (first
    | intro _
    | with_reducible assumption
    | with_reducible refine resetPort_mask (sub_trans (by decide) hm) ?_
    | with_reducible apply when_mask
    | with_reducible apply answers_next
    | with_reducible apply ite_answers
    | with_reducible apply ite_mask
    | with_reducible apply ite_fst_mask
    | split
    | dsimp only)

theorem execBusMasterEnableClear_answers {m : Nat} {s0 s : State} {p : Nat} (hm : Sub 128 m) (hk : Mask m s0 s) :
    Answers m s0 (execBusMasterEnableClear p s) := by
  unfold execBusMasterEnableClear
  repeat' (first
    | intro _
    | with_reducible assumption
    | with_reducible refine modHport_mask (sub_trans (by decide) hm) ?_
    | with_reducible apply answers_next
    | with_reducible apply ite_answers
    | with_reducible apply ite_mask
    | with_reducible apply ite_fst_mask
    | split
    | dsimp only)

theorem execD3hotEntry_answers {m : Nat} {s0 s : State} {p : Nat} (hm : Sub 128 m) (hk : Mask m s0 s) :
    Answers m s0 (execD3hotEntry p s) := by
  unfold execD3hotEntry
  repeat' (first
    | intro _
    | with_reducible assumption
    | with_reducible refine modHport_mask (sub_trans (by decide) hm) ?_
    | with_reducible apply when_mask
    | with_reducible apply answers_next
    | with_reducible apply ite_answers
    | with_reducible apply ite_mask
    | with_reducible apply ite_fst_mask
    | split
    | dsimp only)

theorem execD0Return_answers {m : Nat} {s0 s : State} {p : Nat} (hm : Sub 1056915 m) (hk : Mask m s0 s) :
    Answers m s0 (execD0Return p s) := by
  unfold execD0Return
  repeat' (first
    | intro _
    | with_reducible assumption
    | with_reducible refine modHport_mask (sub_trans (by decide) hm) ?_
    | with_reducible refine pumpChan_mask (sub_trans (by decide) hm) ?_
    | with_reducible refine wake_mask (sub_trans (by decide) hm) ?_
    | with_reducible apply when_mask
    | with_reducible apply each_mask
    | with_reducible apply answers_next
    | with_reducible apply ite_answers
    | with_reducible apply ite_mask
    | with_reducible apply ite_fst_mask
    | split
    | dsimp only)

theorem execAspmIdleExpiry_answers {m : Nat} {s0 s : State} {p : Nat} (hm : Sub 128 m) (hk : Mask m s0 s) :
    Answers m s0 (execAspmIdleExpiry p s) := by
  unfold execAspmIdleExpiry
  repeat' (first
    | intro _
    | with_reducible assumption
    | with_reducible refine modHport_mask (sub_trans (by decide) hm) ?_
    | with_reducible apply when_mask
    | with_reducible apply answers_next
    | with_reducible apply ite_answers
    | with_reducible apply ite_mask
    | with_reducible apply ite_fst_mask
    | split
    | dsimp only)

theorem ltrCheck_mask {m : Nat} {s0 s : State}  (hm : Sub 1048704 m) (hk : Mask m s0 s) :
    Mask m s0 (ltrCheck s) := by
  unfold ltrCheck
  repeat' (first
    | intro _
    | with_reducible assumption
    | with_reducible refine emit_mask (sub_trans (by decide) hm) ?_
    | with_reducible refine modHport_mask (sub_trans (by decide) hm) ?_
    | with_reducible apply each_mask
    | with_reducible apply ite_mask
    | with_reducible apply ite_fst_mask
    | split
    | dsimp only)

theorem cancelDrain_mask {m : Nat} {s0 s : State}  (hm : Sub 1 m) (hk : Mask m s0 s) :
    Mask m s0 (cancelDrain s) := by
  unfold cancelDrain
  repeat' (first
    | intro _
    | with_reducible assumption
    | with_reducible refine clr1_mask (sub_trans (by decide) hm) ?_
    | with_reducible apply ite_mask
    | with_reducible apply ite_fst_mask
    | split
    | dsimp only)

theorem intxCheck_mask {m : Nat} {s0 s : State} {p : Nat} (hm : Sub 1048576 m) (hk : Mask m s0 s) :
    Mask m s0 (intxCheck s p) := by
  unfold intxCheck
  repeat' (first
    | intro _
    | with_reducible assumption
    | with_reducible refine emit_mask (sub_trans (by decide) hm) ?_
    | with_reducible apply ite_mask
    | with_reducible apply ite_fst_mask
    | split
    | dsimp only)

theorem execDoorbellWrite_answers {m : Nat} {s0 s : State} {p qid : Nat} {cq : Bool} {v : Nat} (hm : Sub 1192851 m) (hk : Mask m s0 s) :
    Answers m s0 (execDoorbellWrite p qid cq v s) := by
  unfold execDoorbellWrite
  repeat' (first
    | intro _
    | with_reducible assumption
    | with_reducible refine asyncEvent_mask (sub_trans (by decide) hm) ?_
    | with_reducible refine cancelDrain_mask (sub_trans (by decide) hm) ?_
    | with_reducible refine emit_mask (sub_trans (by decide) hm) ?_
    | with_reducible refine intxCheck_mask (sub_trans (by decide) hm) ?_
    | with_reducible refine modHall_mask (sub_trans (by decide) hm) ?_
    | with_reducible refine modHport_mask (sub_trans (by decide) hm) ?_
    | with_reducible refine serveEvents_mask (sub_trans (by decide) hm) ?_
    | with_reducible refine wake_mask (sub_trans (by decide) hm) ?_
    | with_reducible apply answers_next
    | with_reducible apply ite_answers
    | with_reducible apply ite_mask
    | with_reducible apply ite_fst_mask
    | split
    | dsimp only)

theorem execMsixVectorUnmask_answers {m : Nat} {s0 s : State} {p v : Nat} (hm : Sub 1048704 m) (hk : Mask m s0 s) :
    Answers m s0 (execMsixVectorUnmask p v s) := by
  unfold execMsixVectorUnmask
  repeat' (first
    | intro _
    | with_reducible assumption
    | with_reducible refine emit_mask (sub_trans (by decide) hm) ?_
    | with_reducible refine modHport_mask (sub_trans (by decide) hm) ?_
    | with_reducible apply answers_next
    | with_reducible apply ite_answers
    | with_reducible apply ite_mask
    | with_reducible apply ite_fst_mask
    | split
    | dsimp only)

theorem execControllerReset_answers {m : Nat} {s0 s : State} {p : Nat} (hm : Sub 188361 m) (hk : Mask m s0 s) :
    Answers m s0 (execControllerReset p s) := by
  unfold execControllerReset
  repeat' (first
    | intro _
    | with_reducible assumption
    | with_reducible refine resetController_mask (sub_trans (by decide) hm) ?_
    | with_reducible apply when_mask
    | with_reducible apply answers_next
    | with_reducible apply ite_answers
    | with_reducible apply ite_mask
    | with_reducible apply ite_fst_mask
    | split
    | dsimp only)

theorem execControllerEnable_answers {m : Nat} {s0 s : State} {p : Nat} {wrr : Bool} {asqs acqs : Nat} (hm : Sub 384 m) (hk : Mask m s0 s) :
    Answers m s0 (execControllerEnable p wrr asqs acqs s) := by
  unfold execControllerEnable
  repeat' (first
    | intro _
    | with_reducible assumption
    | with_reducible refine modHall_mask (sub_trans (by decide) hm) ?_
    | with_reducible refine modHport_mask (sub_trans (by decide) hm) ?_
    | with_reducible apply when_mask
    | with_reducible apply answers_next
    | with_reducible apply ite_answers
    | with_reducible apply ite_mask
    | with_reducible apply ite_fst_mask
    | split
    | dsimp only)

theorem execShutdownNotification_answers {m : Nat} {s0 s : State} {p : Nat} (hm : Sub 2146177 m) (hk : Mask m s0 s) :
    Answers m s0 (execShutdownNotification p s) := by
  unfold execShutdownNotification
  repeat' (first
    | intro _
    | with_reducible assumption
    | with_reducible refine addCounts_mask (sub_trans (by decide) hm) ?_
    | with_reducible refine larderDrain_mask (sub_trans (by decide) hm) ?_
    | with_reducible refine modHport_mask (sub_trans (by decide) hm) ?_
    | with_reducible refine raise_mask (sub_trans (by decide) hm) ?_
    | with_reducible refine shutdownCheck_mask (sub_trans (by decide) hm) ?_
    | with_reducible apply when_mask
    | with_reducible apply answers_next
    | with_reducible apply ite_answers
    | with_reducible apply ite_mask
    | with_reducible apply ite_fst_mask
    | split
    | dsimp only)

end Sys2Proof.Machine
end

