-- ==== Sys2Proof/Laws/PartsAdmin.lean ====
section
/-!
SUPPORT. Which parts of the state the operations and commands of Admin touch.
-/
set_option linter.unusedTactic false
set_option linter.unreachableTactic false
set_option linter.unusedVariables false
namespace Sys2Proof.Machine

theorem byHall_mask {m : Nat} {s0 s : State} {n : Nat} {f : Ctx → State} (hm : Sub 0 m) (hk : Mask m s0 s) (h_f : ∀ (a0 : Ctx), Mask m s0 (f a0)) :
    Mask m s0 (byHall s n f) := by
  unfold byHall
  repeat' (first
    | intro _
    | with_reducible assumption
    | with_reducible apply h_f
    | with_reducible apply ite_mask
    | with_reducible apply ite_fst_mask
    | split
    | dsimp only)

theorem bySup_mask {m : Nat} {s0 s : State} {n : Nat} {f : Ctx → State} (hm : Sub 0 m) (hk : Mask m s0 s) (h_f : ∀ (a0 : Ctx), Mask m s0 (f a0)) :
    Mask m s0 (bySup s n f) := by
  unfold bySup
  repeat' (first
    | intro _
    | with_reducible assumption
    | with_reducible apply h_f
    | with_reducible apply byHall_mask (sub_trans (by decide) hm)
    | with_reducible apply ite_mask
    | with_reducible apply ite_fst_mask
    | split
    | dsimp only)

theorem sendLayout_mask {m : Nat} {s0 s : State} {n : Nat} {l : List (Nat × Nat × Nat)} {off len : Nat} (hm : Sub 1048576 m) (hk : Mask m s0 s) :
    Mask m s0 (sendLayout s n l off len) := by
  unfold sendLayout
  repeat' (first
    | intro _
    | with_reducible assumption
    | with_reducible refine emit_mask (sub_trans (by decide) hm) ?_
    | with_reducible apply ite_mask
    | with_reducible apply ite_fst_mask
    | split
    | dsimp only)

theorem execUnsupportedOpcode_answers {m : Nat} {s0 s : State} {n : Nat} (hm : Sub 135936 m) (hk : Mask m s0 s) :
    Answers m s0 (execUnsupportedOpcode n s) := by
  unfold execUnsupportedOpcode
  repeat' (first
    | intro _
    | with_reducible assumption
    | with_reducible refine finish_mask (sub_trans (by decide) hm) ?_
    | with_reducible apply answers_next
    | with_reducible apply ite_answers
    | with_reducible apply ite_mask
    | with_reducible apply ite_fst_mask
    | split
    | dsimp only)

theorem execCreateIoCompletionQueue_answers {m : Nat} {s0 s : State} {n : Nat} (hm : Sub 135936 m) (hk : Mask m s0 s) :
    Answers m s0 (execCreateIoCompletionQueue n s) := by
  unfold execCreateIoCompletionQueue
  repeat' (first
    | intro _
    | with_reducible assumption
    | with_reducible apply byHall_mask (sub_trans (by decide) hm)
    | with_reducible refine finish_mask (sub_trans (by decide) hm) ?_
    | with_reducible refine finishOk_mask (sub_trans (by decide) hm) ?_
    | with_reducible refine modHall_mask (sub_trans (by decide) hm) ?_
    | with_reducible apply answers_next
    | with_reducible apply ite_answers
    | with_reducible apply ite_mask
    | with_reducible apply ite_fst_mask
    | split
    | dsimp only)

theorem execCreateIoSubmissionQueue_answers {m : Nat} {s0 s : State} {n : Nat} (hm : Sub 135936 m) (hk : Mask m s0 s) :
    Answers m s0 (execCreateIoSubmissionQueue n s) := by
  unfold execCreateIoSubmissionQueue
  repeat' (first
    | intro _
    | with_reducible assumption
    | with_reducible apply byHall_mask (sub_trans (by decide) hm)
    | with_reducible refine finish_mask (sub_trans (by decide) hm) ?_
    | with_reducible refine finishOk_mask (sub_trans (by decide) hm) ?_
    | with_reducible refine modHall_mask (sub_trans (by decide) hm) ?_
    | with_reducible apply answers_next
    | with_reducible apply ite_answers
    | with_reducible apply ite_mask
    | with_reducible apply ite_fst_mask
    | split
    | dsimp only)

theorem execDeleteIoSubmissionQueue_answers {m : Nat} {s0 s : State} {n : Nat} (hm : Sub 188297 m) (hk : Mask m s0 s) :
    Answers m s0 (execDeleteIoSubmissionQueue n s) := by
  unfold execDeleteIoSubmissionQueue
  repeat' (first
    | intro _
    | with_reducible assumption
    | with_reducible apply byHall_mask (sub_trans (by decide) hm)
    | with_reducible refine deleteCheck_mask (sub_trans (by decide) hm) ?_
    | with_reducible refine deleteCtx_mask (sub_trans (by decide) hm) ?_
    | with_reducible refine finish_mask (sub_trans (by decide) hm) ?_
    | with_reducible refine modCtx_mask (sub_trans (by decide) hm) ?_
    | with_reducible refine modHall_mask (sub_trans (by decide) hm) ?_
    | with_reducible refine settleCheck_mask (sub_trans (by decide) hm) ?_
    | with_reducible apply each_mask
    | with_reducible apply answers_next
    | with_reducible apply ite_answers
    | with_reducible apply ite_mask
    | with_reducible apply ite_fst_mask
    | split
    | dsimp only)

theorem execDeleteIoCompletionQueue_answers {m : Nat} {s0 s : State} {n : Nat} (hm : Sub 135936 m) (hk : Mask m s0 s) :
    Answers m s0 (execDeleteIoCompletionQueue n s) := by
  unfold execDeleteIoCompletionQueue
  repeat' (first
    | intro _
    | with_reducible assumption
    | with_reducible apply byHall_mask (sub_trans (by decide) hm)
    | with_reducible refine finish_mask (sub_trans (by decide) hm) ?_
    | with_reducible refine finishOk_mask (sub_trans (by decide) hm) ?_
    | with_reducible refine modHall_mask (sub_trans (by decide) hm) ?_
    | with_reducible apply answers_next
    | with_reducible apply ite_answers
    | with_reducible apply ite_mask
    | with_reducible apply ite_fst_mask
    | split
    | dsimp only)

theorem execAbort_answers {m : Nat} {s0 s : State} {n : Nat} (hm : Sub 135936 m) (hk : Mask m s0 s) :
    Answers m s0 (execAbort n s) := by
  unfold execAbort
  repeat' (first
    | intro _
    | with_reducible assumption
    | with_reducible apply byHall_mask (sub_trans (by decide) hm)
    | with_reducible refine finish_mask (sub_trans (by decide) hm) ?_
    | with_reducible apply answers_next
    | with_reducible apply ite_answers
    | with_reducible apply ite_mask
    | with_reducible apply ite_fst_mask
    | split
    | dsimp only)

theorem execAsynchronousEventRequest_answers {m : Nat} {s0 s : State} {n : Nat} (hm : Sub 135936 m) (hk : Mask m s0 s) :
    Answers m s0 (execAsynchronousEventRequest n s) := by
  unfold execAsynchronousEventRequest
  repeat' (first
    | intro _
    | with_reducible assumption
    | with_reducible refine asyncEvent_mask (sub_trans (by decide) hm) ?_
    | with_reducible apply byHall_mask (sub_trans (by decide) hm)
    | with_reducible refine finish_mask (sub_trans (by decide) hm) ?_
    | with_reducible refine modCtx_mask (sub_trans (by decide) hm) ?_
    | with_reducible refine serveEvents_mask (sub_trans (by decide) hm) ?_
    | with_reducible apply answers_next
    | with_reducible apply ite_answers
    | with_reducible apply ite_mask
    | with_reducible apply ite_fst_mask
    | split
    | dsimp only)

theorem noteNs_mask {m : Nat} {s0 s : State} {ns : Nat} (hm : Sub 135936 m) (hk : Mask m s0 s) :
    Mask m s0 (noteNs s ns) := by
  unfold noteNs
  repeat' (first
    | intro _
    | with_reducible assumption
    | with_reducible refine asyncEvent_mask (sub_trans (by decide) hm) ?_
    | with_reducible refine modNvm_mask (sub_trans (by decide) hm) ?_
    | with_reducible refine serveEvents_mask (sub_trans (by decide) hm) ?_
    | with_reducible apply each_mask
    | with_reducible apply ite_mask
    | with_reducible apply ite_fst_mask
    | split
    | dsimp only)

theorem onWorkers_mask {m : Nat} {s0 s : State} {n : Nat} {base : SReq} {size : Nat → Nat} (hm : Sub 139017 m) (hk : Mask m s0 s) :
    Mask m s0 (onWorkers s n base size) := by
  unfold onWorkers
  repeat' (first
    | intro _
    | with_reducible assumption
    | with_reducible refine askBarrier_mask (sub_trans (by decide) hm) ?_
    | with_reducible refine modCtx_mask (sub_trans (by decide) hm) ?_
    | with_reducible refine settleCheck_mask (sub_trans (by decide) hm) ?_
    | with_reducible apply ite_mask
    | with_reducible apply ite_fst_mask
    | split
    | dsimp only)

theorem deallocAll_mask {m : Nat} {s0 s : State} {ns : Nat} (hm : Sub 33792 m) (hk : Mask m s0 s) :
    Mask m s0 (deallocAll s ns) := by
  unfold deallocAll
  repeat' (first
    | intro _
    | with_reducible assumption
    | with_reducible refine leaveOverlay_mask (sub_trans (by decide) hm) ?_
    | with_reducible refine mapChange_mask (sub_trans (by decide) hm) ?_
    | with_reducible refine panFlags_mask (sub_trans (by decide) hm) ?_
    | with_reducible apply ite_mask
    | with_reducible apply ite_fst_mask
    | split
    | dsimp only)

theorem nsCreateNow_mask {m : Nat} {s0 s : State} {n : Nat} {nsze fmt pi : Nat} {pil : Bool} (hm : Sub 2269001 m) (hk : Mask m s0 s) :
    Mask m s0 (nsCreateNow s n nsze fmt pi pil) := by
  unfold nsCreateNow
  repeat' (first
    | intro _
    | with_reducible assumption
    | with_reducible refine finish_mask (sub_trans (by decide) hm) ?_
    | with_reducible refine mapChange_mask (sub_trans (by decide) hm) ?_
    | with_reducible refine modCtx_mask (sub_trans (by decide) hm) ?_
    | with_reducible refine modNvm_mask (sub_trans (by decide) hm) ?_
    | with_reducible refine newNsKey_mask (sub_trans (by decide) hm) ?_
    | with_reducible refine onWorkers_mask (sub_trans (by decide) hm) ?_
    | with_reducible refine fst_mask (by assumption) ?_
    | with_reducible apply ite_mask
    | with_reducible apply ite_fst_mask
    | split
    | dsimp only)

theorem dropNsKey_mask {m : Nat} {s0 s : State} {ns : Nat} (hm : Sub 64 m) (hk : Mask m s0 s) :
    Mask m s0 (dropNsKey s ns) := by
  unfold dropNsKey
  repeat' (first
    | intro _
    | with_reducible assumption
    | with_reducible refine eraseStale_mask (sub_trans (by decide) hm) ?_
    | with_reducible refine modKslot_mask (sub_trans (by decide) hm) ?_
    | with_reducible refine modStg_mask (sub_trans (by decide) hm) ?_
    | with_reducible apply ite_mask
    | with_reducible apply ite_fst_mask
    | split
    | dsimp only)

theorem nsDeleteNow_mask {m : Nat} {s0 s : State} {n ns : Nat} (hm : Sub 171849 m) (hk : Mask m s0 s) :
    Mask m s0 (nsDeleteNow s n ns) := by
  unfold nsDeleteNow
  repeat' (first
    | intro _
    | with_reducible assumption
    | with_reducible refine deallocAll_mask (sub_trans (by decide) hm) ?_
    | with_reducible refine dropNsKey_mask (sub_trans (by decide) hm) ?_
    | with_reducible refine mapChange_mask (sub_trans (by decide) hm) ?_
    | with_reducible refine modNvm_mask (sub_trans (by decide) hm) ?_
    | with_reducible refine noteNs_mask (sub_trans (by decide) hm) ?_
    | with_reducible refine onWorkers_mask (sub_trans (by decide) hm) ?_
    | with_reducible apply ite_mask
    | with_reducible apply ite_fst_mask
    | split
    | dsimp only)

theorem execNamespaceManagement_answers {m : Nat} {s0 s : State} {n : Nat} (hm : Sub 2269001 m) (hk : Mask m s0 s) :
    Answers m s0 (execNamespaceManagement n s) := by
  unfold execNamespaceManagement
  repeat' (first
    | intro _
    | with_reducible assumption
    | with_reducible apply bySup_mask (sub_trans (by decide) hm)
    | with_reducible refine finish_mask (sub_trans (by decide) hm) ?_
    | with_reducible refine nsCreateNow_mask (sub_trans (by decide) hm) ?_
    | with_reducible refine nsDeleteNow_mask (sub_trans (by decide) hm) ?_
    | with_reducible apply answers_next
    | with_reducible apply ite_answers
    | with_reducible apply ite_mask
    | with_reducible apply ite_fst_mask
    | split
    | dsimp only)

theorem execNamespaceAttachment_answers {m : Nat} {s0 s : State} {n : Nat} (hm : Sub 139017 m) (hk : Mask m s0 s) :
    Answers m s0 (execNamespaceAttachment n s) := by
  unfold execNamespaceAttachment
  repeat' (first
    | intro _
    | with_reducible assumption
    | with_reducible apply bySup_mask (sub_trans (by decide) hm)
    | with_reducible refine finish_mask (sub_trans (by decide) hm) ?_
    | with_reducible refine modNvm_mask (sub_trans (by decide) hm) ?_
    | with_reducible refine noteNs_mask (sub_trans (by decide) hm) ?_
    | with_reducible refine onWorkers_mask (sub_trans (by decide) hm) ?_
    | with_reducible apply answers_next
    | with_reducible apply ite_answers
    | with_reducible apply ite_mask
    | with_reducible apply ite_fst_mask
    | split
    | dsimp only)

theorem holdForRecord_mask {m : Nat} {s0 s : State} {n ns : Nat} (hm : Sub 1280 m) (hk : Mask m s0 s) :
    Mask m s0 (holdForRecord s n ns) := by
  unfold holdForRecord
  repeat' (first
    | intro _
    | with_reducible assumption
    | with_reducible refine modCtx_mask (sub_trans (by decide) hm) ?_
    | with_reducible refine modHall_mask (sub_trans (by decide) hm) ?_
    | with_reducible refine recordTag_mask (sub_trans (by decide) hm) ?_
    | with_reducible refine fst_mask (by assumption) ?_
    | with_reducible apply ite_mask
    | with_reducible apply ite_fst_mask
    | split
    | dsimp only)

theorem formatNow_mask {m : Nat} {s0 s : State} {n ns ses fmt pi : Nat} {pil : Bool} (hm : Sub 2269001 m) (hk : Mask m s0 s) :
    Mask m s0 (formatNow s n ns ses fmt pi pil) := by
  unfold formatNow
  repeat' (first
    | intro _
    | with_reducible assumption
    | with_reducible refine askBarrier_mask (sub_trans (by decide) hm) ?_
    | with_reducible refine deallocAll_mask (sub_trans (by decide) hm) ?_
    | with_reducible refine finish_mask (sub_trans (by decide) hm) ?_
    | with_reducible refine holdForRecord_mask (sub_trans (by decide) hm) ?_
    | with_reducible refine jAppend_mask (sub_trans (by decide) hm) ?_
    | with_reducible refine modNvm_mask (sub_trans (by decide) hm) ?_
    | with_reducible refine newNsKey_mask (sub_trans (by decide) hm) ?_
    | with_reducible refine noteNs_mask (sub_trans (by decide) hm) ?_
    | with_reducible refine settleCheck_mask (sub_trans (by decide) hm) ?_
    | with_reducible refine fst_mask (by assumption) ?_
    | with_reducible apply ite_mask
    | with_reducible apply ite_fst_mask
    | split
    | dsimp only)

theorem execFormatNvm_answers {m : Nat} {s0 s : State} {n : Nat} (hm : Sub 2269001 m) (hk : Mask m s0 s) :
    Answers m s0 (execFormatNvm n s) := by
  unfold execFormatNvm
  repeat' (first
    | intro _
    | with_reducible assumption
    | with_reducible apply bySup_mask (sub_trans (by decide) hm)
    | with_reducible refine finish_mask (sub_trans (by decide) hm) ?_
    | with_reducible refine formatNow_mask (sub_trans (by decide) hm) ?_
    | with_reducible apply answers_next
    | with_reducible apply ite_answers
    | with_reducible apply ite_mask
    | with_reducible apply ite_fst_mask
    | split
    | dsimp only)

theorem newRangeKey_mask {m : Nat} {s0 s : State} {r : Nat} {pending : Bool} (hm : Sub 2097216 m) (hk : Mask m s0 s) :
    Mask m s0 (newRangeKey s r pending).1 := by
  unfold newRangeKey
  repeat' (first
    | intro _
    | with_reducible assumption
    | with_reducible refine generateKey_mask (sub_trans (by decide) hm) ?_
    | with_reducible refine modRange_mask (sub_trans (by decide) hm) ?_
    | with_reducible refine fst_mask (by assumption) ?_
    | with_reducible apply ite_mask
    | with_reducible apply ite_fst_mask
    | split
    | dsimp only)

theorem emptyAll_mask {m : Nat} {s0 s : State}  (hm : Sub 33792 m) (hk : Mask m s0 s) :
    Mask m s0 (emptyAll s) := by
  unfold emptyAll
  repeat' (first
    | intro _
    | with_reducible assumption
    | with_reducible refine deallocAll_mask (sub_trans (by decide) hm) ?_
    | with_reducible apply each_mask
    | with_reducible apply ite_mask
    | with_reducible apply ite_fst_mask
    | split
    | dsimp only)

theorem cryptoErase_mask {m : Nat} {s0 s : State}  (hm : Sub 2131521 m) (hk : Mask m s0 s) :
    Mask m s0 (cryptoErase s) := by
  unfold cryptoErase
  repeat' (first
    | intro _
    | with_reducible assumption
    | with_reducible refine emptyAll_mask (sub_trans (by decide) hm) ?_
    | with_reducible refine eraseStale_mask (sub_trans (by decide) hm) ?_
    | with_reducible refine jAppend_mask (sub_trans (by decide) hm) ?_
    | with_reducible refine modNvm_mask (sub_trans (by decide) hm) ?_
    | with_reducible refine newRangeKey_mask (sub_trans (by decide) hm) ?_
    | with_reducible refine pendingNsKey_mask (sub_trans (by decide) hm) ?_
    | with_reducible refine seedReplace_mask (sub_trans (by decide) hm) ?_
    | with_reducible refine fst_mask (by assumption) ?_
    | with_reducible apply each_mask
    | with_reducible apply ite_mask
    | with_reducible apply ite_fst_mask
    | split
    | dsimp only)

theorem blockErase_mask {m : Nat} {s0 s : State}  (hm : Sub 2137856 m) (hk : Mask m s0 s) :
    Mask m s0 (blockErase s) := by
  unfold blockErase
  repeat' (first
    | intro _
    | with_reducible assumption
    | with_reducible refine emptyAll_mask (sub_trans (by decide) hm) ?_
    | with_reducible refine endSuite_mask (sub_trans (by decide) hm) ?_
    | with_reducible refine jAppend_mask (sub_trans (by decide) hm) ?_
    | with_reducible refine markEvery_mask (sub_trans (by decide) hm) ?_
    | with_reducible refine sanitizeCheck_mask (sub_trans (by decide) hm) ?_
    | with_reducible apply each_mask
    | with_reducible apply ite_mask
    | with_reducible apply ite_fst_mask
    | split
    | dsimp only)

theorem sanitizeRow_mask {m : Nat} {s0 s : State} {n action : Nat} (hm : Sub 2268993 m) (hk : Mask m s0 s) :
    Mask m s0 (sanitizeRow s n action) := by
  unfold sanitizeRow
  repeat' (first
    | intro _
    | with_reducible assumption
    | with_reducible refine askBarrier_mask (sub_trans (by decide) hm) ?_
    | with_reducible refine blockErase_mask (sub_trans (by decide) hm) ?_
    | with_reducible apply bySup_mask (sub_trans (by decide) hm)
    | with_reducible refine cryptoErase_mask (sub_trans (by decide) hm) ?_
    | with_reducible refine finish_mask (sub_trans (by decide) hm) ?_
    | with_reducible refine finishOk_mask (sub_trans (by decide) hm) ?_
    | with_reducible refine modNvm_mask (sub_trans (by decide) hm) ?_
    | with_reducible apply ite_mask
    | with_reducible apply ite_fst_mask
    | split
    | dsimp only)

theorem execSanitizeCryptoErase_answers {m : Nat} {s0 s : State} {n : Nat} (hm : Sub 2268993 m) (hk : Mask m s0 s) :
    Answers m s0 (execSanitizeCryptoErase n s) := by
  unfold execSanitizeCryptoErase
  repeat' (first
    | intro _
    | with_reducible assumption
    | with_reducible refine sanitizeRow_mask (sub_trans (by decide) hm) ?_
    | with_reducible apply answers_next
    | with_reducible apply ite_answers
    | with_reducible apply ite_mask
    | with_reducible apply ite_fst_mask
    | split
    | dsimp only)

theorem execSanitizeBlockErase_answers {m : Nat} {s0 s : State} {n : Nat} (hm : Sub 2268993 m) (hk : Mask m s0 s) :
    Answers m s0 (execSanitizeBlockErase n s) := by
  unfold execSanitizeBlockErase
  repeat' (first
    | intro _
    | with_reducible assumption
    | with_reducible refine blockErase_mask (sub_trans (by decide) hm) ?_
    | with_reducible refine sanitizeRow_mask (sub_trans (by decide) hm) ?_
    | with_reducible apply answers_next
    | with_reducible apply ite_answers
    | with_reducible apply ite_mask
    | with_reducible apply ite_fst_mask
    | split
    | dsimp only)

theorem startTest_mask {m : Nat} {s0 s : State} {n : Nat} {ext : Bool} (hm : Sub 135944 m) (hk : Mask m s0 s) :
    Mask m s0 (startTest s n ext) := by
  unfold startTest
  repeat' (first
    | intro _
    | with_reducible assumption
    | with_reducible apply bySup_mask (sub_trans (by decide) hm)
    | with_reducible refine finish_mask (sub_trans (by decide) hm) ?_
    | with_reducible refine finishOk_mask (sub_trans (by decide) hm) ?_
    | with_reducible refine modAtc_mask (sub_trans (by decide) hm) ?_
    | with_reducible apply ite_mask
    | with_reducible apply ite_fst_mask
    | split
    | dsimp only)

theorem execDeviceSelfTestShort_answers {m : Nat} {s0 s : State} {n : Nat} (hm : Sub 135944 m) (hk : Mask m s0 s) :
    Answers m s0 (execDeviceSelfTestShort n s) := by
  unfold execDeviceSelfTestShort
  repeat' (first
    | intro _
    | with_reducible assumption
    | with_reducible refine startTest_mask (sub_trans (by decide) hm) ?_
    | with_reducible apply answers_next
    | with_reducible apply ite_answers
    | with_reducible apply ite_mask
    | with_reducible apply ite_fst_mask
    | split
    | dsimp only)

theorem execDeviceSelfTestExtended_answers {m : Nat} {s0 s : State} {n : Nat} (hm : Sub 135944 m) (hk : Mask m s0 s) :
    Answers m s0 (execDeviceSelfTestExtended n s) := by
  unfold execDeviceSelfTestExtended
  repeat' (first
    | intro _
    | with_reducible assumption
    | with_reducible refine startTest_mask (sub_trans (by decide) hm) ?_
    | with_reducible apply answers_next
    | with_reducible apply ite_answers
    | with_reducible apply ite_mask
    | with_reducible apply ite_fst_mask
    | split
    | dsimp only)

theorem execDeviceSelfTestAbort_answers {m : Nat} {s0 s : State} {n : Nat} (hm : Sub 135944 m) (hk : Mask m s0 s) :
    Answers m s0 (execDeviceSelfTestAbort n s) := by
  unfold execDeviceSelfTestAbort
  repeat' (first
    | intro _
    | with_reducible assumption
    | with_reducible apply bySup_mask (sub_trans (by decide) hm)
    | with_reducible refine dstEnd_mask (sub_trans (by decide) hm) ?_
    | with_reducible refine finishOk_mask (sub_trans (by decide) hm) ?_
    | with_reducible apply answers_next
    | with_reducible apply ite_answers
    | with_reducible apply ite_mask
    | with_reducible apply ite_fst_mask
    | split
    | dsimp only)

theorem execDirectiveSend_answers {m : Nat} {s0 s : State} {n : Nat} (hm : Sub 135936 m) (hk : Mask m s0 s) :
    Answers m s0 (execDirectiveSend n s) := by
  unfold execDirectiveSend
  repeat' (first
    | intro _
    | with_reducible assumption
    | with_reducible apply bySup_mask (sub_trans (by decide) hm)
    | with_reducible refine finish_mask (sub_trans (by decide) hm) ?_
    | with_reducible refine finishOk_mask (sub_trans (by decide) hm) ?_
    | with_reducible apply answers_next
    | with_reducible apply ite_answers
    | with_reducible apply ite_mask
    | with_reducible apply ite_fst_mask
    | split
    | dsimp only)

theorem execDirectiveReceive_answers {m : Nat} {s0 s : State} {n : Nat} (hm : Sub 1184512 m) (hk : Mask m s0 s) :
    Answers m s0 (execDirectiveReceive n s) := by
  unfold execDirectiveReceive
  repeat' (first
    | intro _
    | with_reducible assumption
    | with_reducible apply bySup_mask (sub_trans (by decide) hm)
    | with_reducible refine finish_mask (sub_trans (by decide) hm) ?_
    | with_reducible refine finishOk_mask (sub_trans (by decide) hm) ?_
    | with_reducible refine sendLayout_mask (sub_trans (by decide) hm) ?_
    | with_reducible apply answers_next
    | with_reducible apply ite_answers
    | with_reducible apply ite_mask
    | with_reducible apply ite_fst_mask
    | split
    | dsimp only)

theorem execGetLbaStatus_answers {m : Nat} {s0 s : State} {n : Nat} (hm : Sub 1184512 m) (hk : Mask m s0 s) :
    Answers m s0 (execGetLbaStatus n s) := by
  unfold execGetLbaStatus
  repeat' (first
    | intro _
    | with_reducible assumption
    | with_reducible apply bySup_mask (sub_trans (by decide) hm)
    | with_reducible refine finishOk_mask (sub_trans (by decide) hm) ?_
    | with_reducible refine sendLayout_mask (sub_trans (by decide) hm) ?_
    | with_reducible apply answers_next
    | with_reducible apply ite_answers
    | with_reducible apply ite_mask
    | with_reducible apply ite_fst_mask
    | split
    | dsimp only)

theorem execAtticClear_answers {m : Nat} {s0 s : State} {n : Nat} (hm : Sub 135944 m) (hk : Mask m s0 s) :
    Answers m s0 (execAtticClear n s) := by
  unfold execAtticClear
  repeat' (first
    | intro _
    | with_reducible assumption
    | with_reducible apply bySup_mask (sub_trans (by decide) hm)
    | with_reducible refine finish_mask (sub_trans (by decide) hm) ?_
    | with_reducible refine finishOk_mask (sub_trans (by decide) hm) ?_
    | with_reducible refine modAtc_mask (sub_trans (by decide) hm) ?_
    | with_reducible refine post_mask (sub_trans (by decide) hm) ?_
    | with_reducible apply answers_next
    | with_reducible apply ite_answers
    | with_reducible apply ite_mask
    | with_reducible apply ite_fst_mask
    | split
    | dsimp only)

theorem restartOps_mask {m : Nat} {s0 s : State}  (hm : Sub 2269001 m) (hk : Mask m s0 s) :
    Mask m s0 (restartOps s) := by
  unfold restartOps
  repeat' (first
    | intro _
    | with_reducible assumption
    | with_reducible refine cryptoErase_mask (sub_trans (by decide) hm) ?_
    | with_reducible refine formatNow_mask (sub_trans (by decide) hm) ?_
    | with_reducible apply each_mask
    | with_reducible apply ite_mask
    | with_reducible apply ite_fst_mask
    | split
    | dsimp only)

theorem execRecovery_answers {m : Nat} {s0 s : State} {step : Nat} {hole : Option Nat} {badSegs : List (Nat × Bool)} {dump : DumpFound} (hm : Sub 2334697 m) (hk : Mask m s0 s) :
    Answers m s0 (execRecovery step hole badSegs dump s) := by
  unfold execRecovery
  repeat' (first
    | intro _
    | with_reducible assumption
    | with_reducible refine modHport_mask (sub_trans (by decide) hm) ?_
    | with_reducible refine modPan_mask (sub_trans (by decide) hm) ?_
    | with_reducible refine post_mask (sub_trans (by decide) hm) ?_
    | with_reducible refine recoverDram_mask (sub_trans (by decide) hm) ?_
    | with_reducible refine recoverDump_mask (sub_trans (by decide) hm) ?_
    | with_reducible refine recoverLoad_mask (sub_trans (by decide) hm) ?_
    | with_reducible refine recoverReady_mask (sub_trans (by decide) hm) ?_
    | with_reducible refine recoverReplay_mask (sub_trans (by decide) hm) ?_
    | with_reducible refine recoverSuites_mask (sub_trans (by decide) hm) ?_
    | with_reducible refine restartOps_mask (sub_trans (by decide) hm) ?_
    | with_reducible refine sizeCheck_mask (sub_trans (by decide) hm) ?_
    | with_reducible refine wr_mask (sub_trans (by decide) hm) ?_
    | with_reducible apply each_mask
    | with_reducible apply answers_next
    | with_reducible apply ite_answers
    | with_reducible apply ite_mask
    | with_reducible apply ite_fst_mask
    | split
    | dsimp only)

end Sys2Proof.Machine
end

