-- ==== Sys2Proof/Laws/PartsFeatures.lean ====
section
/-!
SUPPORT. Which parts of the state the operations and commands of Features touch.
-/
set_option linter.unusedTactic false
set_option linter.unreachableTactic false
set_option linter.unusedVariables false
namespace Sys2Proof.Machine

theorem setFeature_mask {m : Nat} {s0 s : State} {n fid : Nat} {sup : Bool} {f : Ctx → Nat → Nat → Nat → List Nat → State} (hm : Sub 135936 m) (hk : Mask m s0 s) (h_f : ∀ (a0 : Ctx) (a1 : Nat) (a2 : Nat) (a3 : Nat) (a4 : List Nat), Mask m s0 (f a0 a1 a2 a3 a4)) :
    Mask m s0 (setFeature s n fid sup f) := by
  unfold setFeature
  repeat' (first
    | intro _
    | with_reducible assumption
    | with_reducible apply h_f
    | with_reducible apply byHall_mask (sub_trans (by decide) hm)
    | with_reducible apply bySup_mask (sub_trans (by decide) hm)
    | with_reducible refine finish_mask (sub_trans (by decide) hm) ?_
    | with_reducible apply ite_mask
    | with_reducible apply ite_fst_mask
    | split
    | dsimp only)

theorem keepFeature_mask {m : Nat} {s0 s : State} {n : Nat} {c : Ctx} {fid sub v : Nat} (hm : Sub 135936 m) (hk : Mask m s0 s) :
    Mask m s0 (keepFeature s n c fid sub v) := by
  unfold keepFeature
  repeat' (first
    | intro _
    | with_reducible assumption
    | with_reducible refine finishOk_mask (sub_trans (by decide) hm) ?_
    | with_reducible refine setFeat_mask (sub_trans (by decide) hm) ?_
    | with_reducible apply ite_mask
    | with_reducible apply ite_fst_mask
    | split
    | dsimp only)

theorem execSetFeaturesArbitration_answers {m : Nat} {s0 s : State} {n : Nat} (hm : Sub 135936 m) (hk : Mask m s0 s) :
    Answers m s0 (execSetFeaturesArbitration n s) := by
  unfold execSetFeaturesArbitration
  repeat' (first
    | intro _
    | with_reducible assumption
    | with_reducible refine keepFeature_mask (sub_trans (by decide) hm) ?_
    | with_reducible apply setFeature_mask (sub_trans (by decide) hm)
    | with_reducible apply answers_next
    | with_reducible apply ite_answers
    | with_reducible apply ite_mask
    | with_reducible apply ite_fst_mask
    | split
    | dsimp only)

theorem execSetFeaturesPowerManagement_answers {m : Nat} {s0 s : State} {n : Nat} (hm : Sub 135938 m) (hk : Mask m s0 s) :
    Answers m s0 (execSetFeaturesPowerManagement n s) := by
  unfold execSetFeaturesPowerManagement
  repeat' (first
    | intro _
    | with_reducible assumption
    | with_reducible refine finish_mask (sub_trans (by decide) hm) ?_
    | with_reducible refine finishOk_mask (sub_trans (by decide) hm) ?_
    | with_reducible refine modHall_mask (sub_trans (by decide) hm) ?_
    | with_reducible refine modPwr_mask (sub_trans (by decide) hm) ?_
    | with_reducible apply setFeature_mask (sub_trans (by decide) hm)
    | with_reducible apply answers_next
    | with_reducible apply ite_answers
    | with_reducible apply ite_mask
    | with_reducible apply ite_fst_mask
    | split
    | dsimp only)

theorem execSetFeaturesTempThreshold_answers {m : Nat} {s0 s : State} {n : Nat} (hm : Sub 135936 m) (hk : Mask m s0 s) :
    Answers m s0 (execSetFeaturesTempThreshold n s) := by
  unfold execSetFeaturesTempThreshold
  repeat' (first
    | intro _
    | with_reducible assumption
    | with_reducible refine asyncEvent_mask (sub_trans (by decide) hm) ?_
    | with_reducible refine finish_mask (sub_trans (by decide) hm) ?_
    | with_reducible refine finishOk_mask (sub_trans (by decide) hm) ?_
    | with_reducible refine serveEvents_mask (sub_trans (by decide) hm) ?_
    | with_reducible refine setFeat_mask (sub_trans (by decide) hm) ?_
    | with_reducible apply setFeature_mask (sub_trans (by decide) hm)
    | with_reducible apply each_mask
    | with_reducible apply answers_next
    | with_reducible apply ite_answers
    | with_reducible apply ite_mask
    | with_reducible apply ite_fst_mask
    | split
    | dsimp only)

theorem execSetFeaturesErrorRecovery_answers {m : Nat} {s0 s : State} {n : Nat} (hm : Sub 135936 m) (hk : Mask m s0 s) :
    Answers m s0 (execSetFeaturesErrorRecovery n s) := by
  unfold execSetFeaturesErrorRecovery
  repeat' (first
    | intro _
    | with_reducible assumption
    | with_reducible refine finish_mask (sub_trans (by decide) hm) ?_
    | with_reducible refine finishOk_mask (sub_trans (by decide) hm) ?_
    | with_reducible refine setFeat_mask (sub_trans (by decide) hm) ?_
    | with_reducible apply setFeature_mask (sub_trans (by decide) hm)
    | with_reducible apply each_mask
    | with_reducible apply answers_next
    | with_reducible apply ite_answers
    | with_reducible apply ite_mask
    | with_reducible apply ite_fst_mask
    | split
    | dsimp only)

theorem execSetFeaturesVolatileWriteCache_answers {m : Nat} {s0 s : State} {n : Nat} (hm : Sub 2268928 m) (hk : Mask m s0 s) :
    Answers m s0 (execSetFeaturesVolatileWriteCache n s) := by
  unfold execSetFeaturesVolatileWriteCache
  repeat' (first
    | intro _
    | with_reducible assumption
    | with_reducible refine finish_mask (sub_trans (by decide) hm) ?_
    | with_reducible refine finishOk_mask (sub_trans (by decide) hm) ?_
    | with_reducible refine setFeat_mask (sub_trans (by decide) hm) ?_
    | with_reducible apply setFeature_mask (sub_trans (by decide) hm)
    | with_reducible refine wtCheck_mask (sub_trans (by decide) hm) ?_
    | with_reducible apply answers_next
    | with_reducible apply ite_answers
    | with_reducible apply ite_mask
    | with_reducible apply ite_fst_mask
    | split
    | dsimp only)

theorem execSetFeaturesNumberOfQueues_answers {m : Nat} {s0 s : State} {n : Nat} (hm : Sub 135936 m) (hk : Mask m s0 s) :
    Answers m s0 (execSetFeaturesNumberOfQueues n s) := by
  unfold execSetFeaturesNumberOfQueues
  repeat' (first
    | intro _
    | with_reducible assumption
    | with_reducible refine finish_mask (sub_trans (by decide) hm) ?_
    | with_reducible refine modNvm_mask (sub_trans (by decide) hm) ?_
    | with_reducible refine setFeat_mask (sub_trans (by decide) hm) ?_
    | with_reducible apply setFeature_mask (sub_trans (by decide) hm)
    | with_reducible apply answers_next
    | with_reducible apply ite_answers
    | with_reducible apply ite_mask
    | with_reducible apply ite_fst_mask
    | split
    | dsimp only)

theorem execSetFeaturesInterruptCoalescing_answers {m : Nat} {s0 s : State} {n : Nat} (hm : Sub 135936 m) (hk : Mask m s0 s) :
    Answers m s0 (execSetFeaturesInterruptCoalescing n s) := by
  unfold execSetFeaturesInterruptCoalescing
  repeat' (first
    | intro _
    | with_reducible assumption
    | with_reducible refine keepFeature_mask (sub_trans (by decide) hm) ?_
    | with_reducible apply setFeature_mask (sub_trans (by decide) hm)
    | with_reducible apply answers_next
    | with_reducible apply ite_answers
    | with_reducible apply ite_mask
    | with_reducible apply ite_fst_mask
    | split
    | dsimp only)

theorem execSetFeaturesIntVectorConfig_answers {m : Nat} {s0 s : State} {n : Nat} (hm : Sub 135936 m) (hk : Mask m s0 s) :
    Answers m s0 (execSetFeaturesIntVectorConfig n s) := by
  unfold execSetFeaturesIntVectorConfig
  repeat' (first
    | intro _
    | with_reducible assumption
    | with_reducible refine finish_mask (sub_trans (by decide) hm) ?_
    | with_reducible refine keepFeature_mask (sub_trans (by decide) hm) ?_
    | with_reducible apply setFeature_mask (sub_trans (by decide) hm)
    | with_reducible apply answers_next
    | with_reducible apply ite_answers
    | with_reducible apply ite_mask
    | with_reducible apply ite_fst_mask
    | split
    | dsimp only)

theorem execSetFeaturesWriteAtomicity_answers {m : Nat} {s0 s : State} {n : Nat} (hm : Sub 135936 m) (hk : Mask m s0 s) :
    Answers m s0 (execSetFeaturesWriteAtomicity n s) := by
  unfold execSetFeaturesWriteAtomicity
  repeat' (first
    | intro _
    | with_reducible assumption
    | with_reducible refine keepFeature_mask (sub_trans (by decide) hm) ?_
    | with_reducible apply setFeature_mask (sub_trans (by decide) hm)
    | with_reducible apply answers_next
    | with_reducible apply ite_answers
    | with_reducible apply ite_mask
    | with_reducible apply ite_fst_mask
    | split
    | dsimp only)

theorem execSetFeaturesAsyncEventConfig_answers {m : Nat} {s0 s : State} {n : Nat} (hm : Sub 135936 m) (hk : Mask m s0 s) :
    Answers m s0 (execSetFeaturesAsyncEventConfig n s) := by
  unfold execSetFeaturesAsyncEventConfig
  repeat' (first
    | intro _
    | with_reducible assumption
    | with_reducible refine keepFeature_mask (sub_trans (by decide) hm) ?_
    | with_reducible apply setFeature_mask (sub_trans (by decide) hm)
    | with_reducible apply answers_next
    | with_reducible apply ite_answers
    | with_reducible apply ite_mask
    | with_reducible apply ite_fst_mask
    | split
    | dsimp only)

theorem execSetFeaturesApst_answers {m : Nat} {s0 s : State} {n : Nat} (hm : Sub 135936 m) (hk : Mask m s0 s) :
    Answers m s0 (execSetFeaturesApst n s) := by
  unfold execSetFeaturesApst
  repeat' (first
    | intro _
    | with_reducible assumption
    | with_reducible refine finish_mask (sub_trans (by decide) hm) ?_
    | with_reducible refine finishOk_mask (sub_trans (by decide) hm) ?_
    | with_reducible refine modHall_mask (sub_trans (by decide) hm) ?_
    | with_reducible refine setFeat_mask (sub_trans (by decide) hm) ?_
    | with_reducible apply setFeature_mask (sub_trans (by decide) hm)
    | with_reducible apply answers_next
    | with_reducible apply ite_answers
    | with_reducible apply ite_mask
    | with_reducible apply ite_fst_mask
    | split
    | dsimp only)

theorem execSetFeaturesTimestamp_answers {m : Nat} {s0 s : State} {n : Nat} (hm : Sub 135936 m) (hk : Mask m s0 s) :
    Answers m s0 (execSetFeaturesTimestamp n s) := by
  unfold execSetFeaturesTimestamp
  repeat' (first
    | intro _
    | with_reducible assumption
    | with_reducible refine finishOk_mask (sub_trans (by decide) hm) ?_
    | with_reducible refine modNvm_mask (sub_trans (by decide) hm) ?_
    | with_reducible apply setFeature_mask (sub_trans (by decide) hm)
    | with_reducible apply answers_next
    | with_reducible apply ite_answers
    | with_reducible apply ite_mask
    | with_reducible apply ite_fst_mask
    | split
    | dsimp only)

theorem execSetFeaturesNopsConfig_answers {m : Nat} {s0 s : State} {n : Nat} (hm : Sub 135936 m) (hk : Mask m s0 s) :
    Answers m s0 (execSetFeaturesNopsConfig n s) := by
  unfold execSetFeaturesNopsConfig
  repeat' (first
    | intro _
    | with_reducible assumption
    | with_reducible refine keepFeature_mask (sub_trans (by decide) hm) ?_
    | with_reducible apply setFeature_mask (sub_trans (by decide) hm)
    | with_reducible apply answers_next
    | with_reducible apply ite_answers
    | with_reducible apply ite_mask
    | with_reducible apply ite_fst_mask
    | split
    | dsimp only)

theorem execSetFeaturesFdp_answers {m : Nat} {s0 s : State} {n : Nat} (hm : Sub 135936 m) (hk : Mask m s0 s) :
    Answers m s0 (execSetFeaturesFdp n s) := by
  unfold execSetFeaturesFdp
  repeat' (first
    | intro _
    | with_reducible assumption
    | with_reducible refine finish_mask (sub_trans (by decide) hm) ?_
    | with_reducible refine finishOk_mask (sub_trans (by decide) hm) ?_
    | with_reducible refine modNvm_mask (sub_trans (by decide) hm) ?_
    | with_reducible apply setFeature_mask (sub_trans (by decide) hm)
    | with_reducible apply answers_next
    | with_reducible apply ite_answers
    | with_reducible apply ite_mask
    | with_reducible apply ite_fst_mask
    | split
    | dsimp only)

theorem execSetFeaturesFdpEvents_answers {m : Nat} {s0 s : State} {n : Nat} (hm : Sub 135936 m) (hk : Mask m s0 s) :
    Answers m s0 (execSetFeaturesFdpEvents n s) := by
  unfold execSetFeaturesFdpEvents
  repeat' (first
    | intro _
    | with_reducible assumption
    | with_reducible refine finish_mask (sub_trans (by decide) hm) ?_
    | with_reducible refine finishOk_mask (sub_trans (by decide) hm) ?_
    | with_reducible refine modNvm_mask (sub_trans (by decide) hm) ?_
    | with_reducible apply setFeature_mask (sub_trans (by decide) hm)
    | with_reducible apply answers_next
    | with_reducible apply ite_answers
    | with_reducible apply ite_mask
    | with_reducible apply ite_fst_mask
    | split
    | dsimp only)

theorem execSetFeaturesSwProgressMarker_answers {m : Nat} {s0 s : State} {n : Nat} (hm : Sub 135936 m) (hk : Mask m s0 s) :
    Answers m s0 (execSetFeaturesSwProgressMarker n s) := by
  unfold execSetFeaturesSwProgressMarker
  repeat' (first
    | intro _
    | with_reducible assumption
    | with_reducible refine finishOk_mask (sub_trans (by decide) hm) ?_
    | with_reducible refine setFeat_mask (sub_trans (by decide) hm) ?_
    | with_reducible apply setFeature_mask (sub_trans (by decide) hm)
    | with_reducible apply answers_next
    | with_reducible apply ite_answers
    | with_reducible apply ite_mask
    | with_reducible apply ite_fst_mask
    | split
    | dsimp only)

theorem execGetFeatures_answers {m : Nat} {s0 s : State} {n : Nat} (hm : Sub 1184512 m) (hk : Mask m s0 s) :
    Answers m s0 (execGetFeatures n s) := by
  unfold execGetFeatures
  repeat' (first
    | intro _
    | with_reducible assumption
    | with_reducible apply byHall_mask (sub_trans (by decide) hm)
    | with_reducible refine emit_mask (sub_trans (by decide) hm) ?_
    | with_reducible refine finish_mask (sub_trans (by decide) hm) ?_
    | with_reducible apply answers_next
    | with_reducible apply ite_answers
    | with_reducible apply ite_mask
    | with_reducible apply ite_fst_mask
    | split
    | dsimp only)

end Sys2Proof.Machine
end

