-- ==== Sys2Proof/Laws/PartsIdentify.lean ====
section
/-!
SUPPORT. Which parts of the state the operations and commands of Identify touch.
-/
set_option linter.unusedTactic false
set_option linter.unreachableTactic false
set_option linter.unusedVariables false
namespace Sys2Proof.Machine

theorem execIdentify_answers {m : Nat} {s0 s : State} {n : Nat} (hm : Sub 3281664 m) (hk : Mask m s0 s) :
    Answers m s0 (execIdentify n s) := by
  unfold execIdentify
  repeat' (first
    | intro _
    | with_reducible assumption
    | with_reducible apply byHall_mask (sub_trans (by decide) hm)
    | with_reducible refine finish_mask (sub_trans (by decide) hm) ?_
    | with_reducible refine finishOk_mask (sub_trans (by decide) hm) ?_
    | with_reducible refine sendLayout_mask (sub_trans (by decide) hm) ?_
    | with_reducible refine tick_mask (sub_trans (by decide) hm) ?_
    | with_reducible apply answers_next
    | with_reducible apply ite_answers
    | with_reducible apply ite_mask
    | with_reducible apply ite_fst_mask
    | split
    | dsimp only)

end Sys2Proof.Machine
end

