-- ==== Sys2Proof/Laws/PartsLogs.lean ====
section
/-!
SUPPORT. Which parts of the state the operations and commands of Logs touch.
-/
set_option linter.unusedTactic false
set_option linter.unreachableTactic false
set_option linter.unusedVariables false
namespace Sys2Proof.Machine

theorem warnCheck_mask {m : Nat} {s0 s : State}  (hm : Sub 135936 m) (hk : Mask m s0 s) :
    Mask m s0 (warnCheck s) := by
  unfold warnCheck
  repeat' (first
    | intro _
    | with_reducible assumption
    | with_reducible refine asyncEvent_mask (sub_trans (by decide) hm) ?_
    | with_reducible refine modNvm_mask (sub_trans (by decide) hm) ?_
    | with_reducible refine serveEvents_mask (sub_trans (by decide) hm) ?_
    | with_reducible apply each_mask
    | with_reducible apply ite_mask
    | with_reducible apply ite_fst_mask
    | split
    | dsimp only)

theorem vendorPage_mask {m : Nat} {s0 s : State} {p page offset : Nat} (hm : Sub 256 m) (hk : Mask m s0 s) :
    Mask m s0 (vendorPage s p page offset).1 := by
  unfold vendorPage
  repeat' (first
    | intro _
    | with_reducible assumption
    | with_reducible refine modHall_mask (sub_trans (by decide) hm) ?_
    | with_reducible apply ite_mask
    | with_reducible apply ite_fst_mask
    | split
    | dsimp only)

theorem standardPage_mask {m : Nat} {s0 s : State} {p page : Nat} {rae : Bool} (hm : Sub 2097664 m) (hk : Mask m s0 s) :
    Mask m s0 (standardPage s p page rae).1 := by
  unfold standardPage
  repeat' (first
    | intro _
    | with_reducible assumption
    | with_reducible refine modNvm_mask (sub_trans (by decide) hm) ?_
    | with_reducible refine tick_mask (sub_trans (by decide) hm) ?_
    | with_reducible refine ticks_mask (sub_trans (by decide) hm) ?_
    | with_reducible apply ite_mask
    | with_reducible apply ite_fst_mask
    | split
    | dsimp only)

theorem clearReported_mask {m : Nat} {s0 s : State} {p : Nat} (hm : Sub 1288 m) (hk : Mask m s0 s) :
    Mask m s0 (clearReported s p) := by
  unfold clearReported
  repeat' (first
    | intro _
    | with_reducible assumption
    | with_reducible refine jAppend_mask (sub_trans (by decide) hm) ?_
    | with_reducible refine modHall_mask (sub_trans (by decide) hm) ?_
    | with_reducible refine post_mask (sub_trans (by decide) hm) ?_
    | with_reducible apply each_mask
    | with_reducible apply ite_mask
    | with_reducible apply ite_fst_mask
    | split
    | dsimp only)

theorem getLog_mask {m : Nat} {s0 s : State} {n : Nat} {c : Ctx} {page offset len ns : Nat} {rae : Bool} (hm : Sub 3282696 m) (hk : Mask m s0 s) :
    Mask m s0 (getLog s n c page offset len ns rae) := by
  unfold getLog
  repeat' (first
    | intro _
    | with_reducible assumption
    | with_reducible refine clearReported_mask (sub_trans (by decide) hm) ?_
    | with_reducible refine finish_mask (sub_trans (by decide) hm) ?_
    | with_reducible refine finishOk_mask (sub_trans (by decide) hm) ?_
    | with_reducible refine modHall_mask (sub_trans (by decide) hm) ?_
    | with_reducible refine sendLayout_mask (sub_trans (by decide) hm) ?_
    | with_reducible refine standardPage_mask (sub_trans (by decide) hm) ?_
    | with_reducible refine vendorPage_mask (sub_trans (by decide) hm) ?_
    | with_reducible refine fst_mask (by assumption) ?_
    | with_reducible apply ite_mask
    | with_reducible apply ite_fst_mask
    | split
    | dsimp only)

theorem logRow_mask {m : Nat} {s0 s : State} {n : Nat} {deferred : Bool} (hm : Sub 3282696 m) (hk : Mask m s0 s) :
    Mask m s0 (logRow s n deferred) := by
  unfold logRow
  repeat' (first
    | intro _
    | with_reducible assumption
    | with_reducible apply byHall_mask (sub_trans (by decide) hm)
    | with_reducible refine getLog_mask (sub_trans (by decide) hm) ?_
    | with_reducible apply ite_mask
    | with_reducible apply ite_fst_mask
    | split
    | dsimp only)

theorem execGetLogPage_answers {m : Nat} {s0 s : State} {n : Nat} (hm : Sub 3282696 m) (hk : Mask m s0 s) :
    Answers m s0 (execGetLogPage n s) := by
  unfold execGetLogPage
  repeat' (first
    | intro _
    | with_reducible assumption
    | with_reducible refine logRow_mask (sub_trans (by decide) hm) ?_
    | with_reducible apply answers_next
    | with_reducible apply ite_answers
    | with_reducible apply ite_mask
    | with_reducible apply ite_fst_mask
    | split
    | dsimp only)

theorem execGetLogPageDeferredErrors_answers {m : Nat} {s0 s : State} {n : Nat} (hm : Sub 3282696 m) (hk : Mask m s0 s) :
    Answers m s0 (execGetLogPageDeferredErrors n s) := by
  unfold execGetLogPageDeferredErrors
  repeat' (first
    | intro _
    | with_reducible assumption
    | with_reducible refine logRow_mask (sub_trans (by decide) hm) ?_
    | with_reducible apply answers_next
    | with_reducible apply ite_answers
    | with_reducible apply ite_mask
    | with_reducible apply ite_fst_mask
    | split
    | dsimp only)

end Sys2Proof.Machine
end

