-- ==== Sys2Proof/Laws/PartsSecurity.lean ====
section
/-!
SUPPORT. Which parts of the state the operations and commands of Security touch.
-/
set_option linter.unusedTactic false
set_option linter.unreachableTactic false
set_option linter.unusedVariables false
namespace Sys2Proof.Machine

theorem rewrapPending_mask {m : Nat} {s0 s : State} {auth cred : Nat} (hm : Sub 2097216 m) (hk : Mask m s0 s) :
    Mask m s0 (rewrapPending s auth cred) := by
  unfold rewrapPending
  repeat' (first
    | intro _
    | with_reducible assumption
    | with_reducible refine modRange_mask (sub_trans (by decide) hm) ?_
    | with_reducible refine modStg_mask (sub_trans (by decide) hm) ?_
    | with_reducible refine rewrap_mask (sub_trans (by decide) hm) ?_
    | with_reducible refine fst_mask (by assumption) ?_
    | with_reducible apply each_mask
    | with_reducible apply ite_mask
    | with_reducible apply ite_fst_mask
    | split
    | dsimp only)

theorem startSession_mask {m : Nat} {s0 s : State} {p sp auth cred : Nat} (hm : Sub 2097216 m) (hk : Mask m s0 s) :
    Mask m s0 (startSession s p sp auth cred) := by
  unfold startSession
  repeat' (first
    | intro _
    | with_reducible assumption
    | with_reducible refine modStg_mask (sub_trans (by decide) hm) ?_
    | with_reducible refine rewrapPending_mask (sub_trans (by decide) hm) ?_
    | with_reducible apply ite_mask
    | with_reducible apply ite_fst_mask
    | split
    | dsimp only)

theorem rewrapRange_mask {m : Nat} {s0 s : State} {r : Nat} {auths : List Nat} {enabled : Bool} (hm : Sub 2097216 m) (hk : Mask m s0 s) :
    Mask m s0 (rewrapRange s r auths enabled) := by
  unfold rewrapRange
  repeat' (first
    | intro _
    | with_reducible assumption
    | with_reducible refine modStg_mask (sub_trans (by decide) hm) ?_
    | with_reducible refine rewrap_mask (sub_trans (by decide) hm) ?_
    | with_reducible refine fst_mask (by assumption) ?_
    | with_reducible apply each_mask
    | with_reducible apply ite_mask
    | with_reducible apply ite_fst_mask
    | split
    | dsimp only)

theorem setRange_mask {m : Nat} {s0 s : State} {r nsid start len : Nat} {rle wle : Bool} {auths : List Nat} (hm : Sub 2097216 m) (hk : Mask m s0 s) :
    Mask m s0 (setRange s r nsid start len rle wle auths) := by
  unfold setRange
  repeat' (first
    | intro _
    | with_reducible assumption
    | with_reducible refine generateKey_mask (sub_trans (by decide) hm) ?_
    | with_reducible refine modRange_mask (sub_trans (by decide) hm) ?_
    | with_reducible refine rewrapRange_mask (sub_trans (by decide) hm) ?_
    | with_reducible refine fst_mask (by assumption) ?_
    | with_reducible apply ite_mask
    | with_reducible apply ite_fst_mask
    | split
    | dsimp only)

theorem setLock_mask {m : Nat} {s0 s : State} {x : TcgSession} {r : Nat} {rl wl : Bool} (hm : Sub 64 m) (hk : Mask m s0 s) :
    Mask m s0 (setLock s x r rl wl) := by
  unfold setLock
  repeat' (first
    | intro _
    | with_reducible assumption
    | with_reducible refine modRange_mask (sub_trans (by decide) hm) ?_
    | with_reducible refine unwrapLoad_mask (sub_trans (by decide) hm) ?_
    | with_reducible refine fst_mask (by assumption) ?_
    | with_reducible apply ite_mask
    | with_reducible apply ite_fst_mask
    | split
    | dsimp only)

theorem setCredential_mask {m : Nat} {s0 s : State} {sp auth cred : Nat} (hm : Sub 2097216 m) (hk : Mask m s0 s) :
    Mask m s0 (setCredential s sp auth cred) := by
  unfold setCredential
  repeat' (first
    | intro _
    | with_reducible assumption
    | with_reducible refine modStg_mask (sub_trans (by decide) hm) ?_
    | with_reducible refine rewrap_mask (sub_trans (by decide) hm) ?_
    | with_reducible refine fst_mask (by assumption) ?_
    | with_reducible apply each_mask
    | with_reducible apply ite_mask
    | with_reducible apply ite_fst_mask
    | split
    | dsimp only)

theorem deallocRange_mask {m : Nat} {s0 s : State} {n r : Nat} (hm : Sub 168960 m) (hk : Mask m s0 s) :
    Mask m s0 (deallocRange s n r) := by
  unfold deallocRange
  repeat' (first
    | intro _
    | with_reducible assumption
    | with_reducible refine askUnits_mask (sub_trans (by decide) hm) ?_
    | with_reducible refine directCommit_mask (sub_trans (by decide) hm) ?_
    | with_reducible apply each_mask
    | with_reducible apply ite_mask
    | with_reducible apply ite_fst_mask
    | split
    | dsimp only)

theorem startRangeErase_mask {m : Nat} {s0 s : State} {n : Nat} {l : List Nat} (hm : Sub 171785 m) (hk : Mask m s0 s) :
    Mask m s0 (startRangeErase s n l) := by
  unfold startRangeErase
  repeat' (first
    | intro _
    | with_reducible assumption
    | with_reducible refine deallocRange_mask (sub_trans (by decide) hm) ?_
    | with_reducible refine modCtx_mask (sub_trans (by decide) hm) ?_
    | with_reducible refine recordTag_mask (sub_trans (by decide) hm) ?_
    | with_reducible refine settleCheck_mask (sub_trans (by decide) hm) ?_
    | with_reducible refine fst_mask (by assumption) ?_
    | with_reducible apply each_mask
    | with_reducible apply ite_mask
    | with_reducible apply ite_fst_mask
    | split
    | dsimp only)

theorem renewNsKey_mask {m : Nat} {s0 s : State} {n ns : Nat} (hm : Sub 2233920 m) (hk : Mask m s0 s) :
    Mask m s0 (renewNsKey s n ns) := by
  unfold renewNsKey
  repeat' (first
    | intro _
    | with_reducible assumption
    | with_reducible refine askBarrier_mask (sub_trans (by decide) hm) ?_
    | with_reducible refine eraseStale_mask (sub_trans (by decide) hm) ?_
    | with_reducible refine jAppend_mask (sub_trans (by decide) hm) ?_
    | with_reducible refine modNvm_mask (sub_trans (by decide) hm) ?_
    | with_reducible refine newNsKey_mask (sub_trans (by decide) hm) ?_
    | with_reducible refine fst_mask (by assumption) ?_
    | with_reducible apply ite_mask
    | with_reducible apply ite_fst_mask
    | split
    | dsimp only)

theorem finishGenKey_mask {m : Nat} {s0 s : State} {n r : Nat} (hm : Sub 2233920 m) (hk : Mask m s0 s) :
    Mask m s0 (finishGenKey s n r) := by
  unfold finishGenKey
  repeat' (first
    | intro _
    | with_reducible assumption
    | with_reducible refine eraseStale_mask (sub_trans (by decide) hm) ?_
    | with_reducible refine newRangeKey_mask (sub_trans (by decide) hm) ?_
    | with_reducible refine renewNsKey_mask (sub_trans (by decide) hm) ?_
    | with_reducible refine fst_mask (by assumption) ?_
    | with_reducible apply ite_mask
    | with_reducible apply ite_fst_mask
    | split
    | dsimp only)

theorem finishRevert_mask {m : Nat} {s0 s : State} {n : Nat} (hm : Sub 2233920 m) (hk : Mask m s0 s) :
    Mask m s0 (finishRevert s n) := by
  unfold finishRevert
  repeat' (first
    | intro _
    | with_reducible assumption
    | with_reducible refine eraseStale_mask (sub_trans (by decide) hm) ?_
    | with_reducible refine modKslot_mask (sub_trans (by decide) hm) ?_
    | with_reducible refine modStg_mask (sub_trans (by decide) hm) ?_
    | with_reducible refine renewNsKey_mask (sub_trans (by decide) hm) ?_
    | with_reducible apply each_mask
    | with_reducible apply ite_mask
    | with_reducible apply ite_fst_mask
    | split
    | dsimp only)

theorem clearPend_mask {m : Nat} {s0 s : State} {n : Nat} (hm : Sub 64 m) (hk : Mask m s0 s) :
    Mask m s0 (clearPend s n) := by
  unfold clearPend
  repeat' (first
    | intro _
    | with_reducible assumption
    | with_reducible refine modStg_mask (sub_trans (by decide) hm) ?_
    | with_reducible apply ite_mask
    | with_reducible apply ite_fst_mask
    | split
    | dsimp only)

theorem tcgNow_mask {μ : Nat} {s0 s : State} {p : Nat} {m : TcgMsg} (hm : Sub 2097216 μ) (hk : Mask μ s0 s) :
    Mask μ s0 (tcgNow s p m) := by
  unfold tcgNow
  repeat' (first
    | intro _
    | with_reducible assumption
    | with_reducible refine modStg_mask (sub_trans (by decide) hm) ?_
    | with_reducible refine setCredential_mask (sub_trans (by decide) hm) ?_
    | with_reducible refine setLock_mask (sub_trans (by decide) hm) ?_
    | with_reducible refine setRange_mask (sub_trans (by decide) hm) ?_
    | with_reducible refine startSession_mask (sub_trans (by decide) hm) ?_
    | with_reducible apply ite_mask
    | with_reducible apply ite_fst_mask
    | split
    | dsimp only)

theorem execSecuritySend_answers {m : Nat} {s0 s : State} {n : Nat} (hm : Sub 2269001 m) (hk : Mask m s0 s) :
    Answers m s0 (execSecuritySend n s) := by
  unfold execSecuritySend
  repeat' (first
    | intro _
    | with_reducible assumption
    | with_reducible refine clearPend_mask (sub_trans (by decide) hm) ?_
    | with_reducible refine finish_mask (sub_trans (by decide) hm) ?_
    | with_reducible refine finishGenKey_mask (sub_trans (by decide) hm) ?_
    | with_reducible refine finishOk_mask (sub_trans (by decide) hm) ?_
    | with_reducible refine finishRevert_mask (sub_trans (by decide) hm) ?_
    | with_reducible refine startRangeErase_mask (sub_trans (by decide) hm) ?_
    | with_reducible refine tcgNow_mask (sub_trans (by decide) hm) ?_
    | with_reducible apply answers_next
    | with_reducible apply ite_answers
    | with_reducible apply ite_mask
    | with_reducible apply ite_fst_mask
    | split
    | dsimp only)

theorem execSecurityReceive_answers {m : Nat} {s0 s : State} {n : Nat} (hm : Sub 3281664 m) (hk : Mask m s0 s) :
    Answers m s0 (execSecurityReceive n s) := by
  unfold execSecurityReceive
  repeat' (first
    | intro _
    | with_reducible assumption
    | with_reducible apply byHall_mask (sub_trans (by decide) hm)
    | with_reducible refine emit_mask (sub_trans (by decide) hm) ?_
    | with_reducible refine finishOk_mask (sub_trans (by decide) hm) ?_
    | with_reducible refine sendLayout_mask (sub_trans (by decide) hm) ?_
    | with_reducible refine tick_mask (sub_trans (by decide) hm) ?_
    | with_reducible apply answers_next
    | with_reducible apply ite_answers
    | with_reducible apply ite_mask
    | with_reducible apply ite_fst_mask
    | split
    | dsimp only)

end Sys2Proof.Machine
end

