-- ==== Sys2Proof/Laws/PartsStairRows.lean ====
section
/-!
SUPPORT. Which parts of the state the operations and commands of StairRows touch.
-/
set_option linter.unusedTactic false
set_option linter.unreachableTactic false
set_option linter.unusedVariables false
namespace Sys2Proof.Machine

theorem onStair_mask {m : Nat} {s0 s : State} {n : Nat} {h : FrameHdr} {typ : Nat} {role : State → Bool} {f : State → State} (hm : Sub 2293513 m) (hk : Mask m s0 s) (h_f : ∀ (a0 : State), Mask m s0 a0 → Mask m s0 (f a0)) :
    Mask m s0 (onStair s n h typ role f) := by
  unfold onStair
  repeat' (first
    | intro _
    | with_reducible assumption
    | with_reducible apply h_f
    | with_reducible apply onFrame_mask (sub_trans (by decide) hm)
    | with_reducible apply ite_mask
    | with_reducible apply ite_fst_mask
    | split
    | dsimp only)

theorem seen_mask {m : Nat} {s0 s : State} {n : Nat} (hm : Sub 2228224 m) (hk : Mask m s0 s) :
    Mask m s0 (seen s n) := by
  unfold seen
  repeat' (first
    | intro _
    | with_reducible assumption
    | with_reducible refine modWorker_mask (sub_trans (by decide) hm) ?_
    | with_reducible refine tick_mask (sub_trans (by decide) hm) ?_
    | with_reducible apply ite_mask
    | with_reducible apply ite_fst_mask
    | split
    | dsimp only)

theorem endUnsent_mask {m : Nat} {s0 s : State} {w : Nat} (hm : Sub 139017 m) (hk : Mask m s0 s) :
    Mask m s0 (endUnsent s w) := by
  unfold endUnsent
  repeat' (first
    | intro _
    | with_reducible assumption
    | with_reducible refine endReq_mask (sub_trans (by decide) hm) ?_
    | with_reducible refine readerCheck_mask (sub_trans (by decide) hm) ?_
    | with_reducible refine settleCheck_mask (sub_trans (by decide) hm) ?_
    | with_reducible apply each_mask
    | with_reducible apply ite_mask
    | with_reducible apply ite_fst_mask
    | split
    | dsimp only)

theorem fence_mask {m : Nat} {s0 s : State} {w reason : Nat} (hm : Sub 139017 m) (hk : Mask m s0 s) :
    Mask m s0 (fence s w reason) := by
  unfold fence
  repeat' (first
    | intro _
    | with_reducible assumption
    | with_reducible refine endUnsent_mask (sub_trans (by decide) hm) ?_
    | with_reducible refine setWorker_mask (sub_trans (by decide) hm) ?_
    | with_reducible apply ite_mask
    | with_reducible apply ite_fst_mask
    | split
    | dsimp only)

theorem actEnd_mask {m : Nat} {s0 s : State} {ok : Bool} (hm : Sub 135936 m) (hk : Mask m s0 s) :
    Mask m s0 (actEnd s ok) := by
  unfold actEnd
  repeat' (first
    | intro _
    | with_reducible assumption
    | with_reducible refine finish_mask (sub_trans (by decide) hm) ?_
    | with_reducible refine modSta_mask (sub_trans (by decide) hm) ?_
    | with_reducible apply ite_mask
    | with_reducible apply ite_fst_mask
    | split
    | dsimp only)

theorem tellWorker_mask {μ : Nat} {s0 s : State} {w typ : Nat} {m : StairMsg} (hm : Sub 4096 μ) (hk : Mask μ s0 s) :
    Mask μ s0 (tellWorker s w typ m) := by
  unfold tellWorker
  repeat' (first
    | intro _
    | with_reducible assumption
    | with_reducible refine stairTx_mask (sub_trans (by decide) hm) ?_
    | with_reducible apply ite_mask
    | with_reducible apply ite_fst_mask
    | split
    | dsimp only)

theorem actCheck_mask {m : Nat} {s0 s : State}  (hm : Sub 135936 m) (hk : Mask m s0 s) :
    Mask m s0 (actCheck s) := by
  unfold actCheck
  repeat' (first
    | intro _
    | with_reducible assumption
    | with_reducible refine actEnd_mask (sub_trans (by decide) hm) ?_
    | with_reducible refine tellWorker_mask (sub_trans (by decide) hm) ?_
    | with_reducible apply each_mask
    | with_reducible apply ite_mask
    | with_reducible apply ite_fst_mask
    | split
    | dsimp only)

theorem actGo_mask {m : Nat} {s0 s : State} {a : StairAct} (hm : Sub 135176 m) (hk : Mask m s0 s) :
    Mask m s0 (actGo s a) := by
  unfold actGo
  repeat' (first
    | intro _
    | with_reducible assumption
    | with_reducible refine modSta_mask (sub_trans (by decide) hm) ?_
    | with_reducible refine setWorker_mask (sub_trans (by decide) hm) ?_
    | with_reducible refine tellWorker_mask (sub_trans (by decide) hm) ?_
    | with_reducible apply each_mask
    | with_reducible apply ite_mask
    | with_reducible apply ite_fst_mask
    | split
    | dsimp only)

theorem stairActivateRow_mask {m : Nat} {s0 s : State} {n : Nat} (hm : Sub 139017 m) (hk : Mask m s0 s) :
    Mask m s0 (stairActivateRow s n) := by
  unfold stairActivateRow
  repeat' (first
    | intro _
    | with_reducible assumption
    | with_reducible refine actEnd_mask (sub_trans (by decide) hm) ?_
    | with_reducible refine fence_mask (sub_trans (by decide) hm) ?_
    | with_reducible refine finish_mask (sub_trans (by decide) hm) ?_
    | with_reducible refine modCtx_mask (sub_trans (by decide) hm) ?_
    | with_reducible refine modSta_mask (sub_trans (by decide) hm) ?_
    | with_reducible refine tellWorker_mask (sub_trans (by decide) hm) ?_
    | with_reducible apply each_mask
    | with_reducible apply ite_mask
    | with_reducible apply ite_fst_mask
    | split
    | dsimp only)

theorem controlRow_mask {m : Nat} {s0 s : State} {n action : Nat} {f : Nat → State} (hm : Sub 135936 m) (hk : Mask m s0 s) (h_f : ∀ (a0 : Nat), Mask m s0 (f a0)) :
    Mask m s0 (controlRow s n action f) := by
  unfold controlRow
  repeat' (first
    | intro _
    | with_reducible assumption
    | with_reducible apply h_f
    | with_reducible apply bySup_mask (sub_trans (by decide) hm)
    | with_reducible refine finish_mask (sub_trans (by decide) hm) ?_
    | with_reducible apply ite_mask
    | with_reducible apply ite_fst_mask
    | split
    | dsimp only)

theorem execStairControlFence_answers {m : Nat} {s0 s : State} {n : Nat} (hm : Sub 139017 m) (hk : Mask m s0 s) :
    Answers m s0 (execStairControlFence n s) := by
  unfold execStairControlFence
  repeat' (first
    | intro _
    | with_reducible assumption
    | with_reducible apply controlRow_mask (sub_trans (by decide) hm)
    | with_reducible refine fence_mask (sub_trans (by decide) hm) ?_
    | with_reducible refine finishOk_mask (sub_trans (by decide) hm) ?_
    | with_reducible apply answers_next
    | with_reducible apply ite_answers
    | with_reducible apply ite_mask
    | with_reducible apply ite_fst_mask
    | split
    | dsimp only)

theorem loseShare_mask {m : Nat} {s0 s : State} {w ns : Nat} (hm : Sub 512 m) (hk : Mask m s0 s) :
    Mask m s0 (loseShare s w ns) := by
  unfold loseShare
  repeat' (first
    | intro _
    | with_reducible assumption
    | with_reducible refine loseAt_mask (sub_trans (by decide) hm) ?_
    | with_reducible apply each_mask
    | with_reducible apply ite_mask
    | with_reducible apply ite_fst_mask
    | split
    | dsimp only)

theorem alignShare_mask {m : Nat} {s0 s : State} {n w : Nat} (hm : Sub 2236169 m) (hk : Mask m s0 s) :
    Mask m s0 (alignShare s n w) := by
  unfold alignShare
  repeat' (first
    | intro _
    | with_reducible assumption
    | with_reducible refine fence_mask (sub_trans (by decide) hm) ?_
    | with_reducible refine loseShare_mask (sub_trans (by decide) hm) ?_
    | with_reducible refine stairAsk_mask (sub_trans (by decide) hm) ?_
    | with_reducible refine tick_mask (sub_trans (by decide) hm) ?_
    | with_reducible apply each_mask
    | with_reducible apply ite_mask
    | with_reducible apply ite_fst_mask
    | split
    | dsimp only)

theorem execStairControlReadmit_answers {m : Nat} {s0 s : State} {n : Nat} (hm : Sub 2236169 m) (hk : Mask m s0 s) :
    Answers m s0 (execStairControlReadmit n s) := by
  unfold execStairControlReadmit
  repeat' (first
    | intro _
    | with_reducible assumption
    | with_reducible refine alignShare_mask (sub_trans (by decide) hm) ?_
    | with_reducible apply controlRow_mask (sub_trans (by decide) hm)
    | with_reducible refine fence_mask (sub_trans (by decide) hm) ?_
    | with_reducible refine finish_mask (sub_trans (by decide) hm) ?_
    | with_reducible refine finishOk_mask (sub_trans (by decide) hm) ?_
    | with_reducible refine modCtx_mask (sub_trans (by decide) hm) ?_
    | with_reducible refine modWorker_mask (sub_trans (by decide) hm) ?_
    | with_reducible refine setWorker_mask (sub_trans (by decide) hm) ?_
    | with_reducible refine stairPump_mask (sub_trans (by decide) hm) ?_
    | with_reducible apply answers_next
    | with_reducible apply ite_answers
    | with_reducible apply ite_mask
    | with_reducible apply ite_fst_mask
    | split
    | dsimp only)

theorem execStairControlActivate_answers {m : Nat} {s0 s : State} {n : Nat} (hm : Sub 139017 m) (hk : Mask m s0 s) :
    Answers m s0 (execStairControlActivate n s) := by
  unfold execStairControlActivate
  repeat' (first
    | intro _
    | with_reducible assumption
    | with_reducible apply controlRow_mask (sub_trans (by decide) hm)
    | with_reducible refine stairActivateRow_mask (sub_trans (by decide) hm) ?_
    | with_reducible apply answers_next
    | with_reducible apply ite_answers
    | with_reducible apply ite_mask
    | with_reducible apply ite_fst_mask
    | split
    | dsimp only)

theorem noteJoin_mask {m : Nat} {s0 s : State} {w st why : Nat} (hm : Sub 8 m) (hk : Mask m s0 s) :
    Mask m s0 (noteJoin s w st why) := by
  unfold noteJoin
  repeat' (first
    | intro _
    | with_reducible assumption
    | with_reducible refine post_mask (sub_trans (by decide) hm) ?_
    | with_reducible apply ite_mask
    | with_reducible apply ite_fst_mask
    | split
    | dsimp only)

theorem execSjoin_answers {m : Nat} {s0 s : State} {n : Nat} {h : FrameHdr} {r : JoinRec} (hm : Sub 2293513 m) (hk : Mask m s0 s) :
    Answers m s0 (execSjoin n h r s) := by
  unfold execSjoin
  repeat' (first
    | intro _
    | with_reducible assumption
    | with_reducible refine modSta_mask (sub_trans (by decide) hm) ?_
    | with_reducible refine noteJoin_mask (sub_trans (by decide) hm) ?_
    | with_reducible apply onStair_mask (sub_trans (by decide) hm)
    | with_reducible refine stairTx_mask (sub_trans (by decide) hm) ?_
    | with_reducible apply answers_next
    | with_reducible apply ite_answers
    | with_reducible apply ite_mask
    | with_reducible apply ite_fst_mask
    | split
    | dsimp only)

theorem execSjoinRsp_answers {m : Nat} {s0 s : State} {n : Nat} {h : FrameHdr} {r : JoinRec} (hm : Sub 2293513 m) (hk : Mask m s0 s) :
    Answers m s0 (execSjoinRsp n h r s) := by
  unfold execSjoinRsp
  repeat' (first
    | intro _
    | with_reducible assumption
    | with_reducible refine actCheck_mask (sub_trans (by decide) hm) ?_
    | with_reducible refine fence_mask (sub_trans (by decide) hm) ?_
    | with_reducible refine modWorker_mask (sub_trans (by decide) hm) ?_
    | with_reducible refine noteJoin_mask (sub_trans (by decide) hm) ?_
    | with_reducible apply onStair_mask (sub_trans (by decide) hm)
    | with_reducible refine seen_mask (sub_trans (by decide) hm) ?_
    | with_reducible refine setWorker_mask (sub_trans (by decide) hm) ?_
    | with_reducible refine stairPump_mask (sub_trans (by decide) hm) ?_
    | with_reducible refine tick_mask (sub_trans (by decide) hm) ?_
    | with_reducible apply answers_next
    | with_reducible apply ite_answers
    | with_reducible apply ite_mask
    | with_reducible apply ite_fst_mask
    | split
    | dsimp only)

theorem execSjoinRetryExpiry_answers {m : Nat} {s0 s : State} {w : Nat} (hm : Sub 4096 m) (hk : Mask m s0 s) :
    Answers m s0 (execSjoinRetryExpiry w s) := by
  unfold execSjoinRetryExpiry
  repeat' (first
    | intro _
    | with_reducible assumption
    | with_reducible refine sendJoin_mask (sub_trans (by decide) hm) ?_
    | with_reducible apply each_mask
    | with_reducible apply answers_next
    | with_reducible apply ite_answers
    | with_reducible apply ite_mask
    | with_reducible apply ite_fst_mask
    | split
    | dsimp only)

theorem onReq_mask {m : Nat} {s0 s : State} {n : Nat} {h : FrameHdr} {r : SReq} {kind : Nat} {f : State → State} (hm : Sub 2293513 m) (hk : Mask m s0 s) (h_f : ∀ (a0 : State), Mask m s0 a0 → Mask m s0 (f a0)) :
    Mask m s0 (onReq s n h r kind f) := by
  unfold onReq
  repeat' (first
    | intro _
    | with_reducible assumption
    | with_reducible apply h_f
    | with_reducible refine modCtx_mask (sub_trans (by decide) hm) ?_
    | with_reducible refine modSta_mask (sub_trans (by decide) hm) ?_
    | with_reducible apply onStair_mask (sub_trans (by decide) hm)
    | with_reducible refine stairTx_mask (sub_trans (by decide) hm) ?_
    | with_reducible apply ite_mask
    | with_reducible apply ite_fst_mask
    | split
    | dsimp only)

theorem putReq_mask {m : Nat} {s0 s : State} {n : Nat} {h : FrameHdr} {r : SReq} {cmd : HostCmd} {st : CtxSt} {writes : Bool} (hm : Sub 256 m) (hk : Mask m s0 s) :
    Mask m s0 (putReq s n h r cmd st writes) := by
  unfold putReq
  repeat' (first
    | intro _
    | with_reducible assumption
    | with_reducible refine modHall_mask (sub_trans (by decide) hm) ?_
    | with_reducible apply ite_mask
    | with_reducible apply ite_fst_mask
    | split
    | dsimp only)

theorem execSreqRead_answers {m : Nat} {s0 s : State} {n : Nat} {h : FrameHdr} {r : SReq} (hm : Sub 2293513 m) (hk : Mask m s0 s) :
    Answers m s0 (execSreqRead n h r s) := by
  unfold execSreqRead
  repeat' (first
    | intro _
    | with_reducible assumption
    | with_reducible apply onReq_mask (sub_trans (by decide) hm)
    | with_reducible refine putReq_mask (sub_trans (by decide) hm) ?_
    | with_reducible apply answers_next
    | with_reducible apply ite_answers
    | with_reducible apply ite_mask
    | with_reducible apply ite_fst_mask
    | split
    | dsimp only)

theorem execSreqWrite_answers {m : Nat} {s0 s : State} {n : Nat} {h : FrameHdr} {r : SReq} (hm : Sub 2293513 m) (hk : Mask m s0 s) :
    Answers m s0 (execSreqWrite n h r s) := by
  unfold execSreqWrite
  repeat' (first
    | intro _
    | with_reducible assumption
    | with_reducible apply onReq_mask (sub_trans (by decide) hm)
    | with_reducible refine putReq_mask (sub_trans (by decide) hm) ?_
    | with_reducible apply answers_next
    | with_reducible apply ite_answers
    | with_reducible apply ite_mask
    | with_reducible apply ite_fst_mask
    | split
    | dsimp only)

theorem execSreqDeallocate_answers {m : Nat} {s0 s : State} {n : Nat} {h : FrameHdr} {r : SReq} (hm : Sub 2293513 m) (hk : Mask m s0 s) :
    Answers m s0 (execSreqDeallocate n h r s) := by
  unfold execSreqDeallocate
  repeat' (first
    | intro _
    | with_reducible assumption
    | with_reducible apply onReq_mask (sub_trans (by decide) hm)
    | with_reducible refine putReq_mask (sub_trans (by decide) hm) ?_
    | with_reducible apply answers_next
    | with_reducible apply ite_answers
    | with_reducible apply ite_mask
    | with_reducible apply ite_fst_mask
    | split
    | dsimp only)

theorem execSreqWriteZeroes_answers {m : Nat} {s0 s : State} {n : Nat} {h : FrameHdr} {r : SReq} (hm : Sub 2293513 m) (hk : Mask m s0 s) :
    Answers m s0 (execSreqWriteZeroes n h r s) := by
  unfold execSreqWriteZeroes
  repeat' (first
    | intro _
    | with_reducible assumption
    | with_reducible apply onReq_mask (sub_trans (by decide) hm)
    | with_reducible refine putReq_mask (sub_trans (by decide) hm) ?_
    | with_reducible apply answers_next
    | with_reducible apply ite_answers
    | with_reducible apply ite_mask
    | with_reducible apply ite_fst_mask
    | split
    | dsimp only)

theorem execSreqWriteUncorrectable_answers {m : Nat} {s0 s : State} {n : Nat} {h : FrameHdr} {r : SReq} (hm : Sub 2293513 m) (hk : Mask m s0 s) :
    Answers m s0 (execSreqWriteUncorrectable n h r s) := by
  unfold execSreqWriteUncorrectable
  repeat' (first
    | intro _
    | with_reducible assumption
    | with_reducible apply onReq_mask (sub_trans (by decide) hm)
    | with_reducible refine putReq_mask (sub_trans (by decide) hm) ?_
    | with_reducible apply answers_next
    | with_reducible apply ite_answers
    | with_reducible apply ite_mask
    | with_reducible apply ite_fst_mask
    | split
    | dsimp only)

theorem execSreqVerify_answers {m : Nat} {s0 s : State} {n : Nat} {h : FrameHdr} {r : SReq} (hm : Sub 2293513 m) (hk : Mask m s0 s) :
    Answers m s0 (execSreqVerify n h r s) := by
  unfold execSreqVerify
  repeat' (first
    | intro _
    | with_reducible assumption
    | with_reducible apply onReq_mask (sub_trans (by decide) hm)
    | with_reducible refine putReq_mask (sub_trans (by decide) hm) ?_
    | with_reducible apply answers_next
    | with_reducible apply ite_answers
    | with_reducible apply ite_mask
    | with_reducible apply ite_fst_mask
    | split
    | dsimp only)

theorem onBarrier_mask {m : Nat} {s0 s : State} {n : Nat} {r : SReq} {f : State → State} (hm : Sub 131072 m) (hk : Mask m s0 s) (h_f : ∀ (a0 : State), Mask m s0 a0 → Mask m s0 (f a0)) :
    Mask m s0 (onBarrier s n r f) := by
  unfold onBarrier
  repeat' (first
    | intro _
    | with_reducible assumption
    | with_reducible apply h_f
    | with_reducible refine modSta_mask (sub_trans (by decide) hm) ?_
    | with_reducible apply ite_mask
    | with_reducible apply ite_fst_mask
    | split
    | dsimp only)

theorem execSreqFlush_answers {m : Nat} {s0 s : State} {n : Nat} {h : FrameHdr} {r : SReq} (hm : Sub 2293513 m) (hk : Mask m s0 s) :
    Answers m s0 (execSreqFlush n h r s) := by
  unfold execSreqFlush
  repeat' (first
    | intro _
    | with_reducible assumption
    | with_reducible refine closeHostFronts_mask (sub_trans (by decide) hm) ?_
    | with_reducible refine modCtx_mask (sub_trans (by decide) hm) ?_
    | with_reducible apply onBarrier_mask (sub_trans (by decide) hm)
    | with_reducible apply onReq_mask (sub_trans (by decide) hm)
    | with_reducible refine putReq_mask (sub_trans (by decide) hm) ?_
    | with_reducible refine settleCheck_mask (sub_trans (by decide) hm) ?_
    | with_reducible apply answers_next
    | with_reducible apply ite_answers
    | with_reducible apply ite_mask
    | with_reducible apply ite_fst_mask
    | split
    | dsimp only)

theorem nsOperation_mask {m : Nat} {s0 s : State} {r : SReq} (hm : Sub 34368 m) (hk : Mask m s0 s) :
    Mask m s0 (nsOperation s r) := by
  unfold nsOperation
  repeat' (first
    | intro _
    | with_reducible assumption
    | with_reducible refine deallocAll_mask (sub_trans (by decide) hm) ?_
    | with_reducible refine jAppend_mask (sub_trans (by decide) hm) ?_
    | with_reducible refine mapChange_mask (sub_trans (by decide) hm) ?_
    | with_reducible refine modNvm_mask (sub_trans (by decide) hm) ?_
    | with_reducible refine modStg_mask (sub_trans (by decide) hm) ?_
    | with_reducible apply ite_mask
    | with_reducible apply ite_fst_mask
    | split
    | dsimp only)

theorem execSreqNamespaceOperation_answers {m : Nat} {s0 s : State} {n : Nat} {h : FrameHdr} {r : SReq} (hm : Sub 2293577 m) (hk : Mask m s0 s) :
    Answers m s0 (execSreqNamespaceOperation n h r s) := by
  unfold execSreqNamespaceOperation
  repeat' (first
    | intro _
    | with_reducible assumption
    | with_reducible refine nsOperation_mask (sub_trans (by decide) hm) ?_
    | with_reducible apply onBarrier_mask (sub_trans (by decide) hm)
    | with_reducible apply onReq_mask (sub_trans (by decide) hm)
    | with_reducible refine settleCheck_mask (sub_trans (by decide) hm) ?_
    | with_reducible refine stairDone_mask (sub_trans (by decide) hm) ?_
    | with_reducible apply answers_next
    | with_reducible apply ite_answers
    | with_reducible apply ite_mask
    | with_reducible apply ite_fst_mask
    | split
    | dsimp only)

theorem stairWrite_mask {m : Nat} {s0 s : State} {n : Nat} {h : FrameHdr} {d : Blk} {md : Meta} (hm : Sub 133376 m) (hk : Mask m s0 s) :
    Mask m s0 (stairWrite s n h d md) := by
  unfold stairWrite
  repeat' (first
    | intro _
    | with_reducible assumption
    | with_reducible refine fillStash_mask (sub_trans (by decide) hm) ?_
    | with_reducible refine modSta_mask (sub_trans (by decide) hm) ?_
    | with_reducible apply ite_mask
    | with_reducible apply ite_fst_mask
    | split
    | dsimp only)

theorem stairRead_mask {m : Nat} {s0 s : State} {n : Nat} {h : FrameHdr} {d : Blk} {md : Meta} (hm : Sub 16384 m) (hk : Mask m s0 s) :
    Mask m s0 (stairRead s n h d md) := by
  unfold stairRead
  repeat' (first
    | intro _
    | with_reducible assumption
    | with_reducible refine modLnd_mask (sub_trans (by decide) hm) ?_
    | with_reducible apply ite_mask
    | with_reducible apply ite_fst_mask
    | split
    | dsimp only)

theorem execSdata_answers {m : Nat} {s0 s : State} {n : Nat} {h : FrameHdr} {d : Blk} {md : Meta} (hm : Sub 2293513 m) (hk : Mask m s0 s) :
    Answers m s0 (execSdata n h d md s) := by
  unfold execSdata
  repeat' (first
    | intro _
    | with_reducible assumption
    | with_reducible apply onStair_mask (sub_trans (by decide) hm)
    | with_reducible refine seen_mask (sub_trans (by decide) hm) ?_
    | with_reducible refine stairRead_mask (sub_trans (by decide) hm) ?_
    | with_reducible refine stairWrite_mask (sub_trans (by decide) hm) ?_
    | with_reducible apply answers_next
    | with_reducible apply ite_answers
    | with_reducible apply ite_mask
    | with_reducible apply ite_fst_mask
    | split
    | dsimp only)

theorem workerCommitted_mask {m : Nat} {s0 s : State} {r : StairReq} (hm : Sub 2268937 m) (hk : Mask m s0 s) :
    Mask m s0 (workerCommitted s r) := by
  unfold workerCommitted
  repeat' (first
    | intro _
    | with_reducible assumption
    | with_reducible refine drainCheck_mask (sub_trans (by decide) hm) ?_
    | with_reducible refine freeSlot_mask (sub_trans (by decide) hm) ?_
    | with_reducible refine modCtx_mask (sub_trans (by decide) hm) ?_
    | with_reducible refine modHall_mask (sub_trans (by decide) hm) ?_
    | with_reducible refine writerDone_mask (sub_trans (by decide) hm) ?_
    | with_reducible apply each_mask
    | with_reducible apply ite_mask
    | with_reducible apply ite_fst_mask
    | split
    | dsimp only)

theorem doneCommitted_mask {m : Nat} {s0 s : State} {r : StairReq} {d : SDone} (hm : Sub 2268937 m) (hk : Mask m s0 s) :
    Mask m s0 (doneCommitted s r d) := by
  unfold doneCommitted
  repeat' (first
    | intro _
    | with_reducible assumption
    | with_reducible refine endReq_mask (sub_trans (by decide) hm) ?_
    | with_reducible refine finish_mask (sub_trans (by decide) hm) ?_
    | with_reducible refine finishOk_mask (sub_trans (by decide) hm) ?_
    | with_reducible refine modSta_mask (sub_trans (by decide) hm) ?_
    | with_reducible refine readerCheck_mask (sub_trans (by decide) hm) ?_
    | with_reducible refine setRunit_mask (sub_trans (by decide) hm) ?_
    | with_reducible refine settleCheck_mask (sub_trans (by decide) hm) ?_
    | with_reducible refine unlose_mask (sub_trans (by decide) hm) ?_
    | with_reducible refine workerCommitted_mask (sub_trans (by decide) hm) ?_
    | with_reducible apply each_mask
    | with_reducible apply ite_mask
    | with_reducible apply ite_fst_mask
    | split
    | dsimp only)

theorem doneSettled_mask {m : Nat} {s0 s : State} {w : Nat} {d : SDone} (hm : Sub 139017 m) (hk : Mask m s0 s) :
    Mask m s0 (doneSettled s w d) := by
  unfold doneSettled
  repeat' (first
    | intro _
    | with_reducible assumption
    | with_reducible refine modCtx_mask (sub_trans (by decide) hm) ?_
    | with_reducible refine modHall_mask (sub_trans (by decide) hm) ?_
    | with_reducible refine modSta_mask (sub_trans (by decide) hm) ?_
    | with_reducible refine settleCheck_mask (sub_trans (by decide) hm) ?_
    | with_reducible apply ite_mask
    | with_reducible apply ite_fst_mask
    | split
    | dsimp only)

theorem execSdoneCommitted_answers {m : Nat} {s0 s : State} {n : Nat} {h : FrameHdr} {d : SDone} (hm : Sub 2293513 m) (hk : Mask m s0 s) :
    Answers m s0 (execSdoneCommitted n h d s) := by
  unfold execSdoneCommitted
  repeat' (first
    | intro _
    | with_reducible assumption
    | with_reducible refine doneCommitted_mask (sub_trans (by decide) hm) ?_
    | with_reducible apply onStair_mask (sub_trans (by decide) hm)
    | with_reducible refine seen_mask (sub_trans (by decide) hm) ?_
    | with_reducible refine stairPump_mask (sub_trans (by decide) hm) ?_
    | with_reducible apply answers_next
    | with_reducible apply ite_answers
    | with_reducible apply ite_mask
    | with_reducible apply ite_fst_mask
    | split
    | dsimp only)

theorem execSdoneSettled_answers {m : Nat} {s0 s : State} {n : Nat} {h : FrameHdr} {d : SDone} (hm : Sub 2293513 m) (hk : Mask m s0 s) :
    Answers m s0 (execSdoneSettled n h d s) := by
  unfold execSdoneSettled
  repeat' (first
    | intro _
    | with_reducible assumption
    | with_reducible refine doneSettled_mask (sub_trans (by decide) hm) ?_
    | with_reducible apply onStair_mask (sub_trans (by decide) hm)
    | with_reducible refine seen_mask (sub_trans (by decide) hm) ?_
    | with_reducible apply answers_next
    | with_reducible apply ite_answers
    | with_reducible apply ite_mask
    | with_reducible apply ite_fst_mask
    | split
    | dsimp only)

theorem execStimeSend_answers {m : Nat} {s0 s : State}  (hm : Sub 4096 m) (hk : Mask m s0 s) :
    Answers m s0 (execStimeSend s) := by
  unfold execStimeSend
  repeat' (first
    | intro _
    | with_reducible assumption
    | with_reducible refine stairTx_mask (sub_trans (by decide) hm) ?_
    | with_reducible apply each_mask
    | with_reducible apply answers_next
    | with_reducible apply ite_answers
    | with_reducible apply ite_mask
    | with_reducible apply ite_fst_mask
    | split
    | dsimp only)

theorem trimTime_mask {m : Nat} {s0 s : State} {o : Int} (hm : Sub 131074 m) (hk : Mask m s0 s) :
    Mask m s0 (trimTime s o) := by
  unfold trimTime
  repeat' (first
    | intro _
    | with_reducible assumption
    | with_reducible refine modPwr_mask (sub_trans (by decide) hm) ?_
    | with_reducible refine modSta_mask (sub_trans (by decide) hm) ?_
    | with_reducible apply ite_mask
    | with_reducible apply ite_fst_mask
    | split
    | dsimp only)

theorem timeTick_mask {m : Nat} {s0 s : State}  (hm : Sub 131074 m) (hk : Mask m s0 s) :
    Mask m s0 (timeTick s) := by
  unfold timeTick
  repeat' (first
    | intro _
    | with_reducible assumption
    | with_reducible refine modPwr_mask (sub_trans (by decide) hm) ?_
    | with_reducible refine modSta_mask (sub_trans (by decide) hm) ?_
    | with_reducible apply ite_mask
    | with_reducible apply ite_fst_mask
    | split
    | dsimp only)

theorem execStime_answers {m : Nat} {s0 s : State} {n : Nat} {h : FrameHdr} {t : STime} (hm : Sub 2293515 m) (hk : Mask m s0 s) :
    Answers m s0 (execStime n h t s) := by
  unfold execStime
  repeat' (first
    | intro _
    | with_reducible assumption
    | with_reducible refine modSta_mask (sub_trans (by decide) hm) ?_
    | with_reducible refine modWorker_mask (sub_trans (by decide) hm) ?_
    | with_reducible apply onStair_mask (sub_trans (by decide) hm)
    | with_reducible refine seen_mask (sub_trans (by decide) hm) ?_
    | with_reducible refine stairTx_mask (sub_trans (by decide) hm) ?_
    | with_reducible refine tick_mask (sub_trans (by decide) hm) ?_
    | with_reducible refine trimTime_mask (sub_trans (by decide) hm) ?_
    | with_reducible apply answers_next
    | with_reducible apply ite_answers
    | with_reducible apply ite_mask
    | with_reducible apply ite_fst_mask
    | split
    | dsimp only)

theorem execStimeLossExpiry_answers {m : Nat} {s0 s : State} {w : Nat} (hm : Sub 139017 m) (hk : Mask m s0 s) :
    Answers m s0 (execStimeLossExpiry w s) := by
  unfold execStimeLossExpiry
  repeat' (first
    | intro _
    | with_reducible assumption
    | with_reducible refine modSta_mask (sub_trans (by decide) hm) ?_
    | with_reducible refine workerLost_mask (sub_trans (by decide) hm) ?_
    | with_reducible apply answers_next
    | with_reducible apply ite_answers
    | with_reducible apply ite_mask
    | with_reducible apply ite_fst_mask
    | split
    | dsimp only)

theorem execSevent_answers {m : Nat} {s0 s : State} {n : Nat} {h : FrameHdr} {e : SEvent} (hm : Sub 2293513 m) (hk : Mask m s0 s) :
    Answers m s0 (execSevent n h e s) := by
  unfold execSevent
  repeat' (first
    | intro _
    | with_reducible assumption
    | with_reducible refine actCheck_mask (sub_trans (by decide) hm) ?_
    | with_reducible refine armWorker_mask (sub_trans (by decide) hm) ?_
    | with_reducible refine fence_mask (sub_trans (by decide) hm) ?_
    | with_reducible refine loseAt_mask (sub_trans (by decide) hm) ?_
    | with_reducible refine modWorker_mask (sub_trans (by decide) hm) ?_
    | with_reducible apply onStair_mask (sub_trans (by decide) hm)
    | with_reducible refine seen_mask (sub_trans (by decide) hm) ?_
    | with_reducible apply each_mask
    | with_reducible apply answers_next
    | with_reducible apply ite_answers
    | with_reducible apply ite_mask
    | with_reducible apply ite_fst_mask
    | split
    | dsimp only)

theorem execSact_answers {m : Nat} {s0 s : State} {n : Nat} {h : FrameHdr} {a : SAct} (hm : Sub 2293545 m) (hk : Mask m s0 s) :
    Answers m s0 (execSact n h a s) := by
  unfold execSact
  repeat' (first
    | intro _
    | with_reducible assumption
    | with_reducible refine actEnd_mask (sub_trans (by decide) hm) ?_
    | with_reducible refine actGo_mask (sub_trans (by decide) hm) ?_
    | with_reducible refine modClo_mask (sub_trans (by decide) hm) ?_
    | with_reducible refine modSta_mask (sub_trans (by decide) hm) ?_
    | with_reducible apply onStair_mask (sub_trans (by decide) hm)
    | with_reducible refine seen_mask (sub_trans (by decide) hm) ?_
    | with_reducible refine stairActivate_mask (sub_trans (by decide) hm) ?_
    | with_reducible refine stairRollback_mask (sub_trans (by decide) hm) ?_
    | with_reducible refine startConfirm_mask (sub_trans (by decide) hm) ?_
    | with_reducible refine startImage_mask (sub_trans (by decide) hm) ?_
    | with_reducible apply answers_next
    | with_reducible apply ite_answers
    | with_reducible apply ite_mask
    | with_reducible apply ite_fst_mask
    | split
    | dsimp only)

theorem execActivationRollbackExpiry_answers {m : Nat} {s0 s : State}  (hm : Sub 135936 m) (hk : Mask m s0 s) :
    Answers m s0 (execActivationRollbackExpiry s) := by
  unfold execActivationRollbackExpiry
  repeat' (first
    | intro _
    | with_reducible assumption
    | with_reducible refine actEnd_mask (sub_trans (by decide) hm) ?_
    | with_reducible refine tellWorker_mask (sub_trans (by decide) hm) ?_
    | with_reducible apply each_mask
    | with_reducible apply answers_next
    | with_reducible apply ite_answers
    | with_reducible apply ite_mask
    | with_reducible apply ite_fst_mask
    | split
    | dsimp only)

theorem execStairResendDeadline_answers {m : Nat} {s0 s : State} {w : Nat} (hm : Sub 139017 m) (hk : Mask m s0 s) :
    Answers m s0 (execStairResendDeadline w s) := by
  unfold execStairResendDeadline
  repeat' (first
    | intro _
    | with_reducible assumption
    | with_reducible refine armWorker_mask (sub_trans (by decide) hm) ?_
    | with_reducible refine endReq_mask (sub_trans (by decide) hm) ?_
    | with_reducible refine settleCheck_mask (sub_trans (by decide) hm) ?_
    | with_reducible apply each_mask
    | with_reducible apply answers_next
    | with_reducible apply ite_answers
    | with_reducible apply ite_mask
    | with_reducible apply ite_fst_mask
    | split
    | dsimp only)

theorem execDoneTableExpiry_answers {m : Nat} {s0 s : State}  (hm : Sub 131072 m) (hk : Mask m s0 s) :
    Answers m s0 (execDoneTableExpiry s) := by
  unfold execDoneTableExpiry
  repeat' (first
    | intro _
    | with_reducible assumption
    | with_reducible refine modSta_mask (sub_trans (by decide) hm) ?_
    | with_reducible apply answers_next
    | with_reducible apply ite_answers
    | with_reducible apply ite_mask
    | with_reducible apply ite_fst_mask
    | split
    | dsimp only)

theorem execFenceUnsettledExpiry_answers {m : Nat} {s0 s : State} {w : Nat} (hm : Sub 139017 m) (hk : Mask m s0 s) :
    Answers m s0 (execFenceUnsettledExpiry w s) := by
  unfold execFenceUnsettledExpiry
  repeat' (first
    | intro _
    | with_reducible assumption
    | with_reducible refine armUnsettled_mask (sub_trans (by decide) hm) ?_
    | with_reducible apply answers_next
    | with_reducible apply ite_answers
    | with_reducible apply ite_mask
    | with_reducible apply ite_fst_mask
    | split
    | dsimp only)

end Sys2Proof.Machine
end

