-- ==== Sys2Proof/Laws/PartsSeqCtl.lean ====
section
/-!
SUPPORT. Which parts of the state the operations and commands of SeqCtl touch.
-/
set_option linter.unusedTactic false
set_option linter.unreachableTactic false
set_option linter.unusedVariables false
namespace Sys2Proof.Machine

theorem localWrite_mask {m : Nat} {s0 s : State} {n a len v : Nat} (hm : Sub 8192 m) (hk : Mask m s0 s) :
    Mask m s0 (localWrite s n a len v) := by
  unfold localWrite
  repeat' (first
    | intro _
    | with_reducible assumption
    | with_reducible refine modSeq_mask (sub_trans (by decide) hm) ?_
    | with_reducible apply ite_mask
    | with_reducible apply ite_fst_mask
    | split
    | dsimp only)

theorem execSequencerRun_answers {m : Nat} {s0 s : State} {n : Nat} {v : U64} (hm : Sub 8193 m) (hk : Mask m s0 s) :
    Answers m s0 (execSequencerRun n v s) := by
  unfold execSequencerRun
  repeat' (first
    | intro _
    | with_reducible assumption
    | with_reducible refine modSeq_mask (sub_trans (by decide) hm) ?_
    | with_reducible refine set1_mask (sub_trans (by decide) hm) ?_
    | with_reducible refine wr_mask (sub_trans (by decide) hm) ?_
    | with_reducible apply answers_next
    | with_reducible apply ite_answers
    | with_reducible apply ite_mask
    | with_reducible apply ite_fst_mask
    | split
    | dsimp only)

theorem execSequencerHalt_answers {m : Nat} {s0 s : State} {n : Nat} {v : U64} (hm : Sub 8193 m) (hk : Mask m s0 s) :
    Answers m s0 (execSequencerHalt n v s) := by
  unfold execSequencerHalt
  repeat' (first
    | intro _
    | with_reducible assumption
    | with_reducible refine clr1_mask (sub_trans (by decide) hm) ?_
    | with_reducible refine modSeq_mask (sub_trans (by decide) hm) ?_
    | with_reducible refine wr_mask (sub_trans (by decide) hm) ?_
    | with_reducible apply answers_next
    | with_reducible apply ite_answers
    | with_reducible apply ite_mask
    | with_reducible apply ite_fst_mask
    | split
    | dsimp only)

theorem execSequencerRestart_answers {m : Nat} {s0 s : State} {n : Nat} (hm : Sub 8192 m) (hk : Mask m s0 s) :
    Answers m s0 (execSequencerRestart n s) := by
  unfold execSequencerRestart
  repeat' (first
    | intro _
    | with_reducible assumption
    | with_reducible refine modSeq_mask (sub_trans (by decide) hm) ?_
    | with_reducible apply answers_next
    | with_reducible apply ite_answers
    | with_reducible apply ite_mask
    | with_reducible apply ite_fst_mask
    | split
    | dsimp only)

theorem execSeqLoadData_answers {m : Nat} {s0 s : State} {n : Nat} {v : U64} (hm : Sub 8193 m) (hk : Mask m s0 s) :
    Answers m s0 (execSeqLoadData n v s) := by
  unfold execSeqLoadData
  repeat' (first
    | intro _
    | with_reducible assumption
    | with_reducible refine localWrite_mask (sub_trans (by decide) hm) ?_
    | with_reducible refine wr_mask (sub_trans (by decide) hm) ?_
    | with_reducible apply answers_next
    | with_reducible apply ite_answers
    | with_reducible apply ite_mask
    | with_reducible apply ite_fst_mask
    | split
    | dsimp only)

theorem execSeqMail_answers {m : Nat} {s0 s : State} {n : Nat} {v : U64} (hm : Sub 8192 m) (hk : Mask m s0 s) :
    Answers m s0 (execSeqMail n v s) := by
  unfold execSeqMail
  repeat' (first
    | intro _
    | with_reducible assumption
    | with_reducible refine modSeq_mask (sub_trans (by decide) hm) ?_
    | with_reducible refine raise_mask (sub_trans (by decide) hm) ?_
    | with_reducible apply answers_next
    | with_reducible apply ite_answers
    | with_reducible apply ite_mask
    | with_reducible apply ite_fst_mask
    | split
    | dsimp only)

theorem execWatchdogKick_answers {m : Nat} {s0 s : State} {v : U64} (hm : Sub 1 m) (hk : Mask m s0 s) :
    Answers m s0 (execWatchdogKick v s) := by
  unfold execWatchdogKick
  repeat' (first
    | intro _
    | with_reducible assumption
    | with_reducible refine clr1_mask (sub_trans (by decide) hm) ?_
    | with_reducible apply answers_next
    | with_reducible apply ite_answers
    | with_reducible apply ite_mask
    | with_reducible apply ite_fst_mask
    | split
    | dsimp only)

end Sys2Proof.Machine
end

