-- ==== Sys2Proof/Laws/PartsHouse.lean ====
section
/-!
SUPPORT. Which parts of the state the operations and commands of House touch.
-/
set_option linter.unusedTactic false
set_option linter.unreachableTactic false
set_option linter.unusedVariables false
namespace Sys2Proof.Machine

theorem putWord_mask {m : Nat} {s0 s : State} {r : RegSpec} {i a v : Nat} (hm : Sub 1 m) (hk : Mask m s0 s) : Mask m s0 (putWord s r i a v) := by
  refine one_bit (i := 0) (f := fun s => putWord s r i a v) hm rfl (fun p hp => ?_) hk
  cases p
  all_goals first
    | rfl
    | exact absurd rfl hp

theorem plainWrite_mask {μ : Nat} {s0 s : State} {r : RegSpec} {i a v m : Nat} (hm : Sub 1 μ) (hk : Mask μ s0 s) :
    Mask μ s0 (plainWrite s r i a v m) := by
  unfold plainWrite
  repeat' (first
    | intro _
    | with_reducible assumption
    | with_reducible refine putWord_mask (sub_trans (by decide) hm) ?_
    | with_reducible apply ite_mask
    | with_reducible apply ite_fst_mask
    | split
    | dsimp only)

theorem writeHalCtl_mask {m : Nat} {s0 s : State} {w : Nat} (hm : Sub 131 m) (hk : Mask m s0 s) :
    Mask m s0 (writeHalCtl s w) := by
  unfold writeHalCtl
  repeat' (first
    | intro _
    | with_reducible assumption
    | with_reducible refine clr1_mask (sub_trans (by decide) hm) ?_
    | with_reducible refine set1_mask (sub_trans (by decide) hm) ?_
    | with_reducible apply after_mask
    | with_reducible refine execBackgroundHold_answers (sub_trans (by decide) hm) ?_
    | with_reducible refine execDrainRequest_answers (sub_trans (by decide) hm) ?_
    | with_reducible refine execFetchEnableSet_answers (sub_trans (by decide) hm) ?_
    | with_reducible apply ite_mask
    | with_reducible apply ite_fst_mask
    | split
    | dsimp only)

theorem writePanCtl_mask {m : Nat} {s0 s : State} {w : Nat} (hm : Sub 1025 m) (hk : Mask m s0 s) :
    Mask m s0 (writePanCtl s w) := by
  unfold writePanCtl
  repeat' (first
    | intro _
    | with_reducible assumption
    | with_reducible refine set1_mask (sub_trans (by decide) hm) ?_
    | with_reducible refine wr_mask (sub_trans (by decide) hm) ?_
    | with_reducible apply after_mask
    | with_reducible refine execPantryDisable_answers (sub_trans (by decide) hm) ?_
    | with_reducible refine execPantryEnable_answers (sub_trans (by decide) hm) ?_
    | with_reducible apply ite_mask
    | with_reducible apply ite_fst_mask
    | split
    | dsimp only)

theorem writePanMaint_mask {m : Nat} {s0 s : State} {w : Nat} (hm : Sub 1025 m) (hk : Mask m s0 s) :
    Mask m s0 (writePanMaint s w) := by
  unfold writePanMaint
  repeat' (first
    | intro _
    | with_reducible assumption
    | with_reducible apply after_mask
    | with_reducible refine execPanMaintClean_answers (sub_trans (by decide) hm) ?_
    | with_reducible refine execPanMaintCleanAll_answers (sub_trans (by decide) hm) ?_
    | with_reducible refine execPanMaintCleanInv_answers (sub_trans (by decide) hm) ?_
    | with_reducible refine execPanMaintInv_answers (sub_trans (by decide) hm) ?_
    | with_reducible apply ite_mask
    | with_reducible apply ite_fst_mask
    | split
    | dsimp only)

theorem writeLdrCtl_mask {m : Nat} {s0 s : State} {w : Nat} (hm : Sub 2137857 m) (hk : Mask m s0 s) :
    Mask m s0 (writeLdrCtl s w) := by
  unfold writeLdrCtl
  repeat' (first
    | intro _
    | with_reducible assumption
    | with_reducible refine set1_mask (sub_trans (by decide) hm) ?_
    | with_reducible apply after_mask
    | with_reducible refine execDumpArmSet_answers (sub_trans (by decide) hm) ?_
    | with_reducible refine execLarderDrain_answers (sub_trans (by decide) hm) ?_
    | with_reducible refine execLarderEnable_answers (sub_trans (by decide) hm) ?_
    | with_reducible refine execWtForceSet_answers (sub_trans (by decide) hm) ?_
    | with_reducible apply ite_mask
    | with_reducible apply ite_fst_mask
    | split
    | dsimp only)

theorem writePortCtl_mask {m : Nat} {s0 s : State} {n w : Nat} (hm : Sub 2293513 m) (hk : Mask m s0 s) :
    Mask m s0 (writePortCtl s n w) := by
  unfold writePortCtl
  repeat' (first
    | intro _
    | with_reducible assumption
    | with_reducible apply after_mask
    | with_reducible refine execPortHold_answers (sub_trans (by decide) hm) ?_
    | with_reducible refine execPortRecal_answers (sub_trans (by decide) hm) ?_
    | with_reducible refine execPortRetire_answers (sub_trans (by decide) hm) ?_
    | with_reducible refine execPortRetrain_answers (sub_trans (by decide) hm) ?_
    | with_reducible refine execPortTrain_answers (sub_trans (by decide) hm) ?_
    | with_reducible apply ite_mask
    | with_reducible apply ite_fst_mask
    | split
    | dsimp only)

theorem writeSeqCtl_mask {m : Nat} {s0 s : State} {n w : Nat} (hm : Sub 8193 m) (hk : Mask m s0 s) :
    Mask m s0 (writeSeqCtl s n w) := by
  unfold writeSeqCtl
  repeat' (first
    | intro _
    | with_reducible assumption
    | with_reducible apply after_mask
    | with_reducible refine execSequencerHalt_answers (sub_trans (by decide) hm) ?_
    | with_reducible refine execSequencerRestart_answers (sub_trans (by decide) hm) ?_
    | with_reducible refine execSequencerRun_answers (sub_trans (by decide) hm) ?_
    | with_reducible apply ite_mask
    | with_reducible apply ite_fst_mask
    | split
    | dsimp only)

theorem writeLvlHalf_mask {m : Nat} {s0 s : State} {h w : Nat} (hm : Sub 16384 m) (hk : Mask m s0 s) :
    Mask m s0 (writeLvlHalf s h w) := by
  unfold writeLvlHalf
  repeat' (first
    | intro _
    | with_reducible assumption
    | with_reducible refine setTracked_mask (sub_trans (by decide) hm) ?_
    | with_reducible apply ite_mask
    | with_reducible apply ite_fst_mask
    | split
    | dsimp only)

theorem writeLndPortCtl_mask {m : Nat} {s0 s : State} {n w : Nat} (hm : Sub 16385 m) (hk : Mask m s0 s) :
    Mask m s0 (writeLndPortCtl s n w) := by
  unfold writeLndPortCtl
  repeat' (first
    | intro _
    | with_reducible assumption
    | with_reducible refine wr_mask (sub_trans (by decide) hm) ?_
    | with_reducible apply after_mask
    | with_reducible refine execCalRequest_answers (sub_trans (by decide) hm) ?_
    | with_reducible apply ite_mask
    | with_reducible apply ite_fst_mask
    | split
    | dsimp only)

theorem writeBsmCtl_mask {m : Nat} {s0 s : State} {w : Nat} (hm : Sub 1048575 m) (hk : Mask m s0 s) :
    Mask m s0 (writeBsmCtl s w) := by
  unfold writeBsmCtl
  repeat' (first
    | intro _
    | with_reducible assumption
    | with_reducible refine set1_mask (sub_trans (by decide) hm) ?_
    | with_reducible refine wr_mask (sub_trans (by decide) hm) ?_
    | with_reducible apply after_mask
    | with_reducible refine execDramClear_answers (sub_trans (by decide) hm) ?_
    | with_reducible refine execSubchannelRetire_answers (sub_trans (by decide) hm) ?_
    | with_reducible apply ite_mask
    | with_reducible apply ite_fst_mask
    | split
    | dsimp only)

theorem kmeCommand_mask {m : Nat} {s0 s : State} {own op : Nat} (hm : Sub 65 m) (hk : Mask m s0 s) :
    Mask m s0 (kmeCommand s own op) := by
  unfold kmeCommand
  repeat' (first
    | intro _
    | with_reducible assumption
    | with_reducible refine kmeStart_mask (sub_trans (by decide) hm) ?_
    | with_reducible apply after_mask
    | with_reducible refine execEraseStale_answers (sub_trans (by decide) hm) ?_
    | with_reducible refine execGenNote_answers (sub_trans (by decide) hm) ?_
    | with_reducible refine execGenerate_answers (sub_trans (by decide) hm) ?_
    | with_reducible refine execRewrap_answers (sub_trans (by decide) hm) ?_
    | with_reducible refine execSeedReplace_answers (sub_trans (by decide) hm) ?_
    | with_reducible refine execSign_answers (sub_trans (by decide) hm) ?_
    | with_reducible refine execUnwrapLoad_answers (sub_trans (by decide) hm) ?_
    | with_reducible refine execVerifyImage_answers (sub_trans (by decide) hm) ?_
    | with_reducible refine execZeroise_answers (sub_trans (by decide) hm) ?_
    | with_reducible apply ite_mask
    | with_reducible apply ite_fst_mask
    | split
    | dsimp only)

theorem writeStgLock_mask {m : Nat} {s0 s : State} {own w : Nat} (hm : Sub 1 m) (hk : Mask m s0 s) :
    Mask m s0 (writeStgLock s own w) := by
  unfold writeStgLock
  repeat' (first
    | intro _
    | with_reducible assumption
    | with_reducible apply after_mask
    | with_reducible refine execStgLockAcquire_answers (sub_trans (by decide) hm) ?_
    | with_reducible refine execStgLockRelease_answers (sub_trans (by decide) hm) ?_
    | with_reducible apply ite_mask
    | with_reducible apply ite_fst_mask
    | split
    | dsimp only)

theorem writeStg_mask {μ : Nat} {s0 s : State} {who : Agent} {r : RegSpec} {i a v m w : Nat} (hm : Sub 65 μ) (hk : Mask μ s0 s) :
    Mask μ s0 (writeStg s who r i a v m w) := by
  unfold writeStg
  repeat' (first
    | intro _
    | with_reducible assumption
    | with_reducible refine kmeCommand_mask (sub_trans (by decide) hm) ?_
    | with_reducible refine plainWrite_mask (sub_trans (by decide) hm) ?_
    | with_reducible refine writeStgLock_mask (sub_trans (by decide) hm) ?_
    | with_reducible apply ite_mask
    | with_reducible apply ite_fst_mask
    | split
    | dsimp only)

theorem writeCloCmd_mask {m : Nat} {s0 s : State} {w : Nat} (hm : Sub 8225 m) (hk : Mask m s0 s) :
    Mask m s0 (writeCloCmd s w) := by
  unfold writeCloCmd
  repeat' (first
    | intro _
    | with_reducible assumption
    | with_reducible apply after_mask
    | with_reducible refine execClosetErase_answers (sub_trans (by decide) hm) ?_
    | with_reducible refine execClosetMarginRead_answers (sub_trans (by decide) hm) ?_
    | with_reducible refine execClosetProgram_answers (sub_trans (by decide) hm) ?_
    | with_reducible apply ite_mask
    | with_reducible apply ite_fst_mask
    | split
    | dsimp only)

theorem writeClkCtl_mask {m : Nat} {s0 s : State} {w : Nat} (hm : Sub 19 m) (hk : Mask m s0 s) :
    Mask m s0 (writeClkCtl s w) := by
  unfold writeClkCtl
  repeat' (first
    | intro _
    | with_reducible assumption
    | with_reducible refine clr1_mask (sub_trans (by decide) hm) ?_
    | with_reducible refine modStd_mask (sub_trans (by decide) hm) ?_
    | with_reducible apply after_mask
    | with_reducible refine execClockSelect_answers (sub_trans (by decide) hm) ?_
    | with_reducible refine execPllEnable_answers (sub_trans (by decide) hm) ?_
    | with_reducible apply ite_mask
    | with_reducible apply ite_fst_mask
    | split
    | dsimp only)

theorem setAtticMode_mask {m : Nat} {s0 s : State} {w : Nat} (hm : Sub 8 m) (hk : Mask m s0 s) :
    Mask m s0 (setAtticMode s w) := by
  unfold setAtticMode
  repeat' (first
    | intro _
    | with_reducible assumption
    | with_reducible refine modAtc_mask (sub_trans (by decide) hm) ?_
    | with_reducible refine post_mask (sub_trans (by decide) hm) ?_
    | with_reducible apply ite_mask
    | with_reducible apply ite_fst_mask
    | split
    | dsimp only)

theorem writeAtcCtl_mask {μ : Nat} {s0 s : State} {r : RegSpec} {i a v m : Nat} (hm : Sub 9 μ) (hk : Mask μ s0 s) :
    Mask μ s0 (writeAtcCtl s r i a v m) := by
  unfold writeAtcCtl
  repeat' (first
    | intro _
    | with_reducible assumption
    | with_reducible refine plainWrite_mask (sub_trans (by decide) hm) ?_
    | with_reducible refine setAtticMode_mask (sub_trans (by decide) hm) ?_
    | with_reducible apply ite_mask
    | with_reducible apply ite_fst_mask
    | split
    | dsimp only)

theorem writeStaCtl_mask {μ : Nat} {s0 s : State} {r : RegSpec} {i a v m : Nat} (hm : Sub 4097 μ) (hk : Mask μ s0 s) :
    Mask μ s0 (writeStaCtl s r i a v m) := by
  unfold writeStaCtl
  repeat' (first
    | intro _
    | with_reducible assumption
    | with_reducible refine plainWrite_mask (sub_trans (by decide) hm) ?_
    | with_reducible refine sendJoin_mask (sub_trans (by decide) hm) ?_
    | with_reducible apply each_mask
    | with_reducible apply ite_mask
    | with_reducible apply ite_fst_mask
    | split
    | dsimp only)

theorem stageWord_mask {m : Nat} {s0 s : State} {who : Agent} {hi : Bool} {w : Nat} (hm : Sub 8 m) (hk : Mask m s0 s) :
    Mask m s0 (stageWord s who hi w) := by
  unfold stageWord
  repeat' (first
    | intro _
    | with_reducible assumption
    | with_reducible refine modAtc_mask (sub_trans (by decide) hm) ?_
    | with_reducible apply ite_mask
    | with_reducible apply ite_fst_mask
    | split
    | dsimp only)

theorem writeReg_mask {μ : Nat} {s0 s : State} {who : Agent} {r : RegSpec} {i a v m : Nat} (hm : Sub 3145727 μ) (hk : Mask μ s0 s) :
    Mask μ s0 (writeReg s who r i a v m) := by
  unfold writeReg
  repeat' (first
    | intro _
    | with_reducible assumption
    | with_reducible refine modSeq_mask (sub_trans (by decide) hm) ?_
    | with_reducible refine plainWrite_mask (sub_trans (by decide) hm) ?_
    | with_reducible refine stageWord_mask (sub_trans (by decide) hm) ?_
    | with_reducible refine stepCheck_mask (sub_trans (by decide) hm) ?_
    | with_reducible refine wr_mask (sub_trans (by decide) hm) ?_
    | with_reducible refine writeAtcCtl_mask (sub_trans (by decide) hm) ?_
    | with_reducible refine writeBsmCtl_mask (sub_trans (by decide) hm) ?_
    | with_reducible refine writeClkCtl_mask (sub_trans (by decide) hm) ?_
    | with_reducible refine writeCloCmd_mask (sub_trans (by decide) hm) ?_
    | with_reducible refine writeHalCtl_mask (sub_trans (by decide) hm) ?_
    | with_reducible refine writeLdrCtl_mask (sub_trans (by decide) hm) ?_
    | with_reducible refine writeLndPortCtl_mask (sub_trans (by decide) hm) ?_
    | with_reducible refine writeLvlHalf_mask (sub_trans (by decide) hm) ?_
    | with_reducible refine writePanCtl_mask (sub_trans (by decide) hm) ?_
    | with_reducible refine writePanMaint_mask (sub_trans (by decide) hm) ?_
    | with_reducible refine writePortCtl_mask (sub_trans (by decide) hm) ?_
    | with_reducible refine writeSeqCtl_mask (sub_trans (by decide) hm) ?_
    | with_reducible refine writeStaCtl_mask (sub_trans (by decide) hm) ?_
    | with_reducible refine writeStg_mask (sub_trans (by decide) hm) ?_
    | with_reducible apply after_mask
    | with_reducible refine execAtcPostGo_answers (sub_trans (by decide) hm) ?_
    | with_reducible refine execAtcWinCursorWrite_answers (sub_trans (by decide) hm) ?_
    | with_reducible refine execBsmRemapWrite_answers (sub_trans (by decide) hm) ?_
    | with_reducible refine execCloWpSet_answers (sub_trans (by decide) hm) ?_
    | with_reducible refine execLdrBankRetire_answers (sub_trans (by decide) hm) ?_
    | with_reducible refine execPanInvAll_answers (sub_trans (by decide) hm) ?_
    | with_reducible refine execRefclkOutputCtl_answers (sub_trans (by decide) hm) ?_
    | with_reducible refine execSeqLoadData_answers (sub_trans (by decide) hm) ?_
    | with_reducible refine execSeqMail_answers (sub_trans (by decide) hm) ?_
    | with_reducible refine execStdConfirm_answers (sub_trans (by decide) hm) ?_
    | with_reducible refine execStdDomainEnWrite_answers (sub_trans (by decide) hm) ?_
    | with_reducible refine execStdPadRelease_answers (sub_trans (by decide) hm) ?_
    | with_reducible refine execSuiteIdxWrite_answers (sub_trans (by decide) hm) ?_
    | with_reducible refine execWatchdogKick_answers (sub_trans (by decide) hm) ?_
    | with_reducible apply ite_mask
    | with_reducible apply ite_fst_mask
    | split
    | dsimp only)

theorem houseWrite_mask {μ : Nat} {s0 s : State} {who : Agent} {a v m : Nat} (hm : Sub 3145727 μ) (hk : Mask μ s0 s) :
    Mask μ s0 (houseWrite s who a v m) := by
  unfold houseWrite
  repeat' (first
    | intro _
    | with_reducible assumption
    | with_reducible refine writeReg_mask (sub_trans (by decide) hm) ?_
    | with_reducible apply ite_mask
    | with_reducible apply ite_fst_mask
    | split
    | dsimp only)

theorem writeWords_mask {m : Nat} {s0 s : State} {who : Agent} {a v w : Nat} (k : Nat) (hm : Sub 3145727 m) (hk : Mask m s0 s) : Mask m s0 (writeWords s who a v w k) := by
  induction k generalizing s a v w with
  | zero => exact hk
  | succ k ih =>
    unfold writeWords
    repeat' (first
    | with_reducible apply ih
    | intro _
    | with_reducible assumption
    | with_reducible refine houseWrite_mask (sub_trans (by decide) hm) ?_
    | with_reducible apply ite_mask
    | with_reducible apply ite_fst_mask
    | split
    | dsimp only)

theorem houseWriteBytes_mask {m : Nat} {s0 s : State} {who : Agent} {a len v : Nat} (hm : Sub 3145727 m) (hk : Mask m s0 s) :
    Mask m s0 (houseWriteBytes s who a len v) := by
  unfold houseWriteBytes
  repeat' (first
    | intro _
    | with_reducible assumption
    | with_reducible refine writeWords_mask _ (sub_trans (by decide) hm) ?_
    | with_reducible apply ite_mask
    | with_reducible apply ite_fst_mask
    | split
    | dsimp only)

theorem execRegisterWrite_answers {m : Nat} {s0 s : State} {who : Agent} {a : Nat} {v : U64} (hm : Sub 3145727 m) (hk : Mask m s0 s) :
    Answers m s0 (execRegisterWrite who a v s) := by
  unfold execRegisterWrite
  repeat' (first
    | intro _
    | with_reducible assumption
    | with_reducible refine houseWrite_mask (sub_trans (by decide) hm) ?_
    | with_reducible refine trap_mask (sub_trans (by decide) hm) ?_
    | with_reducible apply answers_next
    | with_reducible apply ite_answers
    | with_reducible apply ite_mask
    | with_reducible apply ite_fst_mask
    | split
    | dsimp only)

theorem execBar2MemoryWrite_answers {m : Nat} {s0 s : State} {p a len : Nat} {v : U64} (hm : Sub 4194303 m) (hk : Mask m s0 s) :
    Answers m s0 (execBar2MemoryWrite p a len v s) := by
  unfold execBar2MemoryWrite
  repeat' (first
    | intro _
    | with_reducible assumption
    | with_reducible refine emit_mask (sub_trans (by decide) hm) ?_
    | with_reducible refine houseWriteBytes_mask (sub_trans (by decide) hm) ?_
    | with_reducible apply answers_next
    | with_reducible apply ite_answers
    | with_reducible apply ite_mask
    | with_reducible apply ite_fst_mask
    | split
    | dsimp only)

theorem execBar2MemoryRead_answers {m : Nat} {s0 s : State} {p a len : Nat} (hm : Sub 1048576 m) (hk : Mask m s0 s) :
    Answers m s0 (execBar2MemoryRead p a len s) := by
  unfold execBar2MemoryRead
  repeat' (first
    | intro _
    | with_reducible assumption
    | with_reducible refine emit_mask (sub_trans (by decide) hm) ?_
    | with_reducible apply answers_next
    | with_reducible apply ite_answers
    | with_reducible apply ite_mask
    | with_reducible apply ite_fst_mask
    | split
    | dsimp only)

end Sys2Proof.Machine
end

