-- ==== Sys2Proof/Laws/PartsGynum.lean ====
section
/-!
SUPPORT. Which parts of the state the operations and commands of Gynum touch.
-/
set_option linter.unusedTactic false
set_option linter.unreachableTactic false
set_option linter.unusedVariables false
namespace Sys2Proof.Machine

theorem gyn_mask {m : Nat} {s0 s : State} {n word : Nat} {body : State → State} (hm : Sub 8201 m) (hk : Mask m s0 s) (h_body : ∀ (a0 : State), Mask m s0 a0 → Mask m s0 (body a0)) :
    Mask m s0 (gyn n word s body) := by
  unfold gyn
  repeat' (first
    | intro _
    | with_reducible assumption
    | with_reducible apply h_body
    | with_reducible refine modSeq_mask (sub_trans (by decide) hm) ?_
    | with_reducible refine trap_mask (sub_trans (by decide) hm) ?_
    | with_reducible apply ite_mask
    | with_reducible apply ite_fst_mask
    | split
    | dsimp only)

theorem pcNext_mask {m : Nat} {s0 s : State} {n : Nat} (hm : Sub 8192 m) (hk : Mask m s0 s) :
    Mask m s0 (pcNext s n) := by
  unfold pcNext
  repeat' (first
    | intro _
    | with_reducible assumption
    | with_reducible refine modSeq_mask (sub_trans (by decide) hm) ?_
    | with_reducible apply ite_mask
    | with_reducible apply ite_fst_mask
    | split
    | dsimp only)

theorem setNext_mask {m : Nat} {s0 s : State} {n : Nat} {rd : BitVec 5} {v : U64} (hm : Sub 8192 m) (hk : Mask m s0 s) :
    Mask m s0 (setNext s n rd v) := by
  unfold setNext
  repeat' (first
    | intro _
    | with_reducible assumption
    | with_reducible refine modSeq_mask (sub_trans (by decide) hm) ?_
    | with_reducible refine pcNext_mask (sub_trans (by decide) hm) ?_
    | with_reducible apply ite_mask
    | with_reducible apply ite_fst_mask
    | split
    | dsimp only)

theorem gynPair_mask {m : Nat} {s0 s : State} {op n : Nat} {rd rs : BitVec 5} {pad : BitVec 14} {f : U64 → U64 → U64} (hm : Sub 8201 m) (hk : Mask m s0 s) :
    Mask m s0 (gynPair op n rd rs pad f s) := by
  unfold gynPair
  repeat' (first
    | intro _
    | with_reducible assumption
    | with_reducible apply gyn_mask (sub_trans (by decide) hm)
    | with_reducible refine setNext_mask (sub_trans (by decide) hm) ?_
    | with_reducible apply ite_mask
    | with_reducible apply ite_fst_mask
    | split
    | dsimp only)

theorem gynConst_mask {m : Nat} {s0 s : State} {op n : Nat} {rd : BitVec 5} {k : BitVec 19} {f : U64 → BitVec 19 → U64} (hm : Sub 8201 m) (hk : Mask m s0 s) :
    Mask m s0 (gynConst op n rd k f s) := by
  unfold gynConst
  repeat' (first
    | intro _
    | with_reducible assumption
    | with_reducible apply gyn_mask (sub_trans (by decide) hm)
    | with_reducible refine setNext_mask (sub_trans (by decide) hm) ?_
    | with_reducible apply ite_mask
    | with_reducible apply ite_fst_mask
    | split
    | dsimp only)

theorem setT_mask {m : Nat} {s0 s : State} {n : Nat} {t : Bool} (hm : Sub 8192 m) (hk : Mask m s0 s) :
    Mask m s0 (setT s n t) := by
  unfold setT
  repeat' (first
    | intro _
    | with_reducible assumption
    | with_reducible refine modSeq_mask (sub_trans (by decide) hm) ?_
    | with_reducible refine pcNext_mask (sub_trans (by decide) hm) ?_
    | with_reducible apply ite_mask
    | with_reducible apply ite_fst_mask
    | split
    | dsimp only)

theorem gynTest_mask {m : Nat} {s0 s : State} {op n : Nat} {rd rs : BitVec 5} {pad : BitVec 14} {f : U64 → U64 → Bool} (hm : Sub 8201 m) (hk : Mask m s0 s) :
    Mask m s0 (gynTest op n rd rs pad f s) := by
  unfold gynTest
  repeat' (first
    | intro _
    | with_reducible assumption
    | with_reducible apply gyn_mask (sub_trans (by decide) hm)
    | with_reducible refine setT_mask (sub_trans (by decide) hm) ?_
    | with_reducible apply ite_mask
    | with_reducible apply ite_fst_mask
    | split
    | dsimp only)

theorem gynTestK_mask {m : Nat} {s0 s : State} {op n : Nat} {rd : BitVec 5} {k : BitVec 19} {f : U64 → BitVec 19 → Bool} (hm : Sub 8201 m) (hk : Mask m s0 s) :
    Mask m s0 (gynTestK op n rd k f s) := by
  unfold gynTestK
  repeat' (first
    | intro _
    | with_reducible assumption
    | with_reducible apply gyn_mask (sub_trans (by decide) hm)
    | with_reducible refine setT_mask (sub_trans (by decide) hm) ?_
    | with_reducible apply ite_mask
    | with_reducible apply ite_fst_mask
    | split
    | dsimp only)

theorem gynLoad_mask {m : Nat} {s0 s : State} {op len n : Nat} {rd rs : BitVec 5} {d : BitVec 14} (hm : Sub 8201 m) (hk : Mask m s0 s) :
    Mask m s0 (gynLoad op len n rd rs d s) := by
  unfold gynLoad
  repeat' (first
    | intro _
    | with_reducible assumption
    | with_reducible apply gyn_mask (sub_trans (by decide) hm)
    | with_reducible refine setNext_mask (sub_trans (by decide) hm) ?_
    | with_reducible refine trap_mask (sub_trans (by decide) hm) ?_
    | with_reducible apply ite_mask
    | with_reducible apply ite_fst_mask
    | split
    | dsimp only)

theorem gynStore_mask {m : Nat} {s0 s : State} {op len n : Nat} {rd rs : BitVec 5} {d : BitVec 14} (hm : Sub 8201 m) (hk : Mask m s0 s) :
    Mask m s0 (gynStore op len n rd rs d s) := by
  unfold gynStore
  repeat' (first
    | intro _
    | with_reducible assumption
    | with_reducible apply gyn_mask (sub_trans (by decide) hm)
    | with_reducible refine localWrite_mask (sub_trans (by decide) hm) ?_
    | with_reducible refine pcNext_mask (sub_trans (by decide) hm) ?_
    | with_reducible refine trap_mask (sub_trans (by decide) hm) ?_
    | with_reducible apply ite_mask
    | with_reducible apply ite_fst_mask
    | split
    | dsimp only)

theorem gynHouseLoad_mask {m : Nat} {s0 s : State} {op len n : Nat} {rd rs : BitVec 5} {d : BitVec 14} (hm : Sub 8201 m) (hk : Mask m s0 s) :
    Mask m s0 (gynHouseLoad op len n rd rs d s) := by
  unfold gynHouseLoad
  repeat' (first
    | intro _
    | with_reducible assumption
    | with_reducible apply gyn_mask (sub_trans (by decide) hm)
    | with_reducible refine setNext_mask (sub_trans (by decide) hm) ?_
    | with_reducible refine trap_mask (sub_trans (by decide) hm) ?_
    | with_reducible apply ite_mask
    | with_reducible apply ite_fst_mask
    | split
    | dsimp only)

theorem gynHouseStore_mask {m : Nat} {s0 s : State} {op len n : Nat} {rd rs : BitVec 5} {d : BitVec 14} (hm : Sub 3145727 m) (hk : Mask m s0 s) :
    Mask m s0 (gynHouseStore op len n rd rs d s) := by
  unfold gynHouseStore
  repeat' (first
    | intro _
    | with_reducible assumption
    | with_reducible apply gyn_mask (sub_trans (by decide) hm)
    | with_reducible refine houseWriteBytes_mask (sub_trans (by decide) hm) ?_
    | with_reducible refine pcNext_mask (sub_trans (by decide) hm) ?_
    | with_reducible refine trap_mask (sub_trans (by decide) hm) ?_
    | with_reducible apply ite_mask
    | with_reducible apply ite_fst_mask
    | split
    | dsimp only)

theorem gynGoto_mask {m : Nat} {s0 s : State} {n a : Nat} (hm : Sub 8192 m) (hk : Mask m s0 s) :
    Mask m s0 (gynGoto s n a) := by
  unfold gynGoto
  repeat' (first
    | intro _
    | with_reducible assumption
    | with_reducible refine modSeq_mask (sub_trans (by decide) hm) ?_
    | with_reducible apply ite_mask
    | with_reducible apply ite_fst_mask
    | split
    | dsimp only)

theorem gynCallTo_mask {m : Nat} {s0 s : State} {n a : Nat} (hm : Sub 8201 m) (hk : Mask m s0 s) :
    Mask m s0 (gynCallTo s n a) := by
  unfold gynCallTo
  repeat' (first
    | intro _
    | with_reducible assumption
    | with_reducible refine modSeq_mask (sub_trans (by decide) hm) ?_
    | with_reducible refine trap_mask (sub_trans (by decide) hm) ?_
    | with_reducible apply ite_mask
    | with_reducible apply ite_fst_mask
    | split
    | dsimp only)

theorem execMov_answers {m : Nat} {s0 s : State} {n : Nat} {rd rs : BitVec 5} {pad : BitVec 14} (hm : Sub 8201 m) (hk : Mask m s0 s) :
    Answers m s0 (execMov n rd rs pad s) := by
  unfold execMov
  repeat' (first
    | intro _
    | with_reducible assumption
    | with_reducible refine gynPair_mask (sub_trans (by decide) hm) ?_
    | with_reducible apply answers_next
    | with_reducible apply ite_answers
    | with_reducible apply ite_mask
    | with_reducible apply ite_fst_mask
    | split
    | dsimp only)

theorem execAdd_answers {m : Nat} {s0 s : State} {n : Nat} {rd rs : BitVec 5} {pad : BitVec 14} (hm : Sub 8201 m) (hk : Mask m s0 s) :
    Answers m s0 (execAdd n rd rs pad s) := by
  unfold execAdd
  repeat' (first
    | intro _
    | with_reducible assumption
    | with_reducible refine gynPair_mask (sub_trans (by decide) hm) ?_
    | with_reducible apply answers_next
    | with_reducible apply ite_answers
    | with_reducible apply ite_mask
    | with_reducible apply ite_fst_mask
    | split
    | dsimp only)

theorem execSub_answers {m : Nat} {s0 s : State} {n : Nat} {rd rs : BitVec 5} {pad : BitVec 14} (hm : Sub 8201 m) (hk : Mask m s0 s) :
    Answers m s0 (execSub n rd rs pad s) := by
  unfold execSub
  repeat' (first
    | intro _
    | with_reducible assumption
    | with_reducible refine gynPair_mask (sub_trans (by decide) hm) ?_
    | with_reducible apply answers_next
    | with_reducible apply ite_answers
    | with_reducible apply ite_mask
    | with_reducible apply ite_fst_mask
    | split
    | dsimp only)

theorem execAnd_answers {m : Nat} {s0 s : State} {n : Nat} {rd rs : BitVec 5} {pad : BitVec 14} (hm : Sub 8201 m) (hk : Mask m s0 s) :
    Answers m s0 (execAnd n rd rs pad s) := by
  unfold execAnd
  repeat' (first
    | intro _
    | with_reducible assumption
    | with_reducible refine gynPair_mask (sub_trans (by decide) hm) ?_
    | with_reducible apply answers_next
    | with_reducible apply ite_answers
    | with_reducible apply ite_mask
    | with_reducible apply ite_fst_mask
    | split
    | dsimp only)

theorem execOr_answers {m : Nat} {s0 s : State} {n : Nat} {rd rs : BitVec 5} {pad : BitVec 14} (hm : Sub 8201 m) (hk : Mask m s0 s) :
    Answers m s0 (execOr n rd rs pad s) := by
  unfold execOr
  repeat' (first
    | intro _
    | with_reducible assumption
    | with_reducible refine gynPair_mask (sub_trans (by decide) hm) ?_
    | with_reducible apply answers_next
    | with_reducible apply ite_answers
    | with_reducible apply ite_mask
    | with_reducible apply ite_fst_mask
    | split
    | dsimp only)

theorem execXor_answers {m : Nat} {s0 s : State} {n : Nat} {rd rs : BitVec 5} {pad : BitVec 14} (hm : Sub 8201 m) (hk : Mask m s0 s) :
    Answers m s0 (execXor n rd rs pad s) := by
  unfold execXor
  repeat' (first
    | intro _
    | with_reducible assumption
    | with_reducible refine gynPair_mask (sub_trans (by decide) hm) ?_
    | with_reducible apply answers_next
    | with_reducible apply ite_answers
    | with_reducible apply ite_mask
    | with_reducible apply ite_fst_mask
    | split
    | dsimp only)

theorem execShl_answers {m : Nat} {s0 s : State} {n : Nat} {rd rs : BitVec 5} {pad : BitVec 14} (hm : Sub 8201 m) (hk : Mask m s0 s) :
    Answers m s0 (execShl n rd rs pad s) := by
  unfold execShl
  repeat' (first
    | intro _
    | with_reducible assumption
    | with_reducible refine gynPair_mask (sub_trans (by decide) hm) ?_
    | with_reducible apply answers_next
    | with_reducible apply ite_answers
    | with_reducible apply ite_mask
    | with_reducible apply ite_fst_mask
    | split
    | dsimp only)

theorem execShr_answers {m : Nat} {s0 s : State} {n : Nat} {rd rs : BitVec 5} {pad : BitVec 14} (hm : Sub 8201 m) (hk : Mask m s0 s) :
    Answers m s0 (execShr n rd rs pad s) := by
  unfold execShr
  repeat' (first
    | intro _
    | with_reducible assumption
    | with_reducible refine gynPair_mask (sub_trans (by decide) hm) ?_
    | with_reducible apply answers_next
    | with_reducible apply ite_answers
    | with_reducible apply ite_mask
    | with_reducible apply ite_fst_mask
    | split
    | dsimp only)

theorem execSar_answers {m : Nat} {s0 s : State} {n : Nat} {rd rs : BitVec 5} {pad : BitVec 14} (hm : Sub 8201 m) (hk : Mask m s0 s) :
    Answers m s0 (execSar n rd rs pad s) := by
  unfold execSar
  repeat' (first
    | intro _
    | with_reducible assumption
    | with_reducible refine gynPair_mask (sub_trans (by decide) hm) ?_
    | with_reducible apply answers_next
    | with_reducible apply ite_answers
    | with_reducible apply ite_mask
    | with_reducible apply ite_fst_mask
    | split
    | dsimp only)

theorem execMul_answers {m : Nat} {s0 s : State} {n : Nat} {rd rs : BitVec 5} {pad : BitVec 14} (hm : Sub 8201 m) (hk : Mask m s0 s) :
    Answers m s0 (execMul n rd rs pad s) := by
  unfold execMul
  repeat' (first
    | intro _
    | with_reducible assumption
    | with_reducible refine gynPair_mask (sub_trans (by decide) hm) ?_
    | with_reducible apply answers_next
    | with_reducible apply ite_answers
    | with_reducible apply ite_mask
    | with_reducible apply ite_fst_mask
    | split
    | dsimp only)

theorem execMulhu_answers {m : Nat} {s0 s : State} {n : Nat} {rd rs : BitVec 5} {pad : BitVec 14} (hm : Sub 8201 m) (hk : Mask m s0 s) :
    Answers m s0 (execMulhu n rd rs pad s) := by
  unfold execMulhu
  repeat' (first
    | intro _
    | with_reducible assumption
    | with_reducible refine gynPair_mask (sub_trans (by decide) hm) ?_
    | with_reducible apply answers_next
    | with_reducible apply ite_answers
    | with_reducible apply ite_mask
    | with_reducible apply ite_fst_mask
    | split
    | dsimp only)

theorem execMin_answers {m : Nat} {s0 s : State} {n : Nat} {rd rs : BitVec 5} {pad : BitVec 14} (hm : Sub 8201 m) (hk : Mask m s0 s) :
    Answers m s0 (execMin n rd rs pad s) := by
  unfold execMin
  repeat' (first
    | intro _
    | with_reducible assumption
    | with_reducible refine gynPair_mask (sub_trans (by decide) hm) ?_
    | with_reducible apply answers_next
    | with_reducible apply ite_answers
    | with_reducible apply ite_mask
    | with_reducible apply ite_fst_mask
    | split
    | dsimp only)

theorem execMax_answers {m : Nat} {s0 s : State} {n : Nat} {rd rs : BitVec 5} {pad : BitVec 14} (hm : Sub 8201 m) (hk : Mask m s0 s) :
    Answers m s0 (execMax n rd rs pad s) := by
  unfold execMax
  repeat' (first
    | intro _
    | with_reducible assumption
    | with_reducible refine gynPair_mask (sub_trans (by decide) hm) ?_
    | with_reducible apply answers_next
    | with_reducible apply ite_answers
    | with_reducible apply ite_mask
    | with_reducible apply ite_fst_mask
    | split
    | dsimp only)

theorem execCnt_answers {m : Nat} {s0 s : State} {n : Nat} {rd rs : BitVec 5} {pad : BitVec 14} (hm : Sub 8201 m) (hk : Mask m s0 s) :
    Answers m s0 (execCnt n rd rs pad s) := by
  unfold execCnt
  repeat' (first
    | intro _
    | with_reducible assumption
    | with_reducible refine gynPair_mask (sub_trans (by decide) hm) ?_
    | with_reducible apply answers_next
    | with_reducible apply ite_answers
    | with_reducible apply ite_mask
    | with_reducible apply ite_fst_mask
    | split
    | dsimp only)

theorem execLzc_answers {m : Nat} {s0 s : State} {n : Nat} {rd rs : BitVec 5} {pad : BitVec 14} (hm : Sub 8201 m) (hk : Mask m s0 s) :
    Answers m s0 (execLzc n rd rs pad s) := by
  unfold execLzc
  repeat' (first
    | intro _
    | with_reducible assumption
    | with_reducible refine gynPair_mask (sub_trans (by decide) hm) ?_
    | with_reducible apply answers_next
    | with_reducible apply ite_answers
    | with_reducible apply ite_mask
    | with_reducible apply ite_fst_mask
    | split
    | dsimp only)

theorem execLdk_answers {m : Nat} {s0 s : State} {n : Nat} {rd : BitVec 5} {k : BitVec 19} (hm : Sub 8201 m) (hk : Mask m s0 s) :
    Answers m s0 (execLdk n rd k s) := by
  unfold execLdk
  repeat' (first
    | intro _
    | with_reducible assumption
    | with_reducible refine gynConst_mask (sub_trans (by decide) hm) ?_
    | with_reducible apply answers_next
    | with_reducible apply ite_answers
    | with_reducible apply ite_mask
    | with_reducible apply ite_fst_mask
    | split
    | dsimp only)

theorem execPutk_answers {m : Nat} {s0 s : State} {n : Nat} {rd : BitVec 5} {k : BitVec 19} (hm : Sub 8201 m) (hk : Mask m s0 s) :
    Answers m s0 (execPutk n rd k s) := by
  unfold execPutk
  repeat' (first
    | intro _
    | with_reducible assumption
    | with_reducible refine gynConst_mask (sub_trans (by decide) hm) ?_
    | with_reducible apply answers_next
    | with_reducible apply ite_answers
    | with_reducible apply ite_mask
    | with_reducible apply ite_fst_mask
    | split
    | dsimp only)

theorem execAddk_answers {m : Nat} {s0 s : State} {n : Nat} {rd : BitVec 5} {k : BitVec 19} (hm : Sub 8201 m) (hk : Mask m s0 s) :
    Answers m s0 (execAddk n rd k s) := by
  unfold execAddk
  repeat' (first
    | intro _
    | with_reducible assumption
    | with_reducible refine gynConst_mask (sub_trans (by decide) hm) ?_
    | with_reducible apply answers_next
    | with_reducible apply ite_answers
    | with_reducible apply ite_mask
    | with_reducible apply ite_fst_mask
    | split
    | dsimp only)

theorem execAndk_answers {m : Nat} {s0 s : State} {n : Nat} {rd : BitVec 5} {k : BitVec 19} (hm : Sub 8201 m) (hk : Mask m s0 s) :
    Answers m s0 (execAndk n rd k s) := by
  unfold execAndk
  repeat' (first
    | intro _
    | with_reducible assumption
    | with_reducible refine gynConst_mask (sub_trans (by decide) hm) ?_
    | with_reducible apply answers_next
    | with_reducible apply ite_answers
    | with_reducible apply ite_mask
    | with_reducible apply ite_fst_mask
    | split
    | dsimp only)

theorem execOrk_answers {m : Nat} {s0 s : State} {n : Nat} {rd : BitVec 5} {k : BitVec 19} (hm : Sub 8201 m) (hk : Mask m s0 s) :
    Answers m s0 (execOrk n rd k s) := by
  unfold execOrk
  repeat' (first
    | intro _
    | with_reducible assumption
    | with_reducible refine gynConst_mask (sub_trans (by decide) hm) ?_
    | with_reducible apply answers_next
    | with_reducible apply ite_answers
    | with_reducible apply ite_mask
    | with_reducible apply ite_fst_mask
    | split
    | dsimp only)

theorem execXork_answers {m : Nat} {s0 s : State} {n : Nat} {rd : BitVec 5} {k : BitVec 19} (hm : Sub 8201 m) (hk : Mask m s0 s) :
    Answers m s0 (execXork n rd k s) := by
  unfold execXork
  repeat' (first
    | intro _
    | with_reducible assumption
    | with_reducible refine gynConst_mask (sub_trans (by decide) hm) ?_
    | with_reducible apply answers_next
    | with_reducible apply ite_answers
    | with_reducible apply ite_mask
    | with_reducible apply ite_fst_mask
    | split
    | dsimp only)

theorem execShlk_answers {m : Nat} {s0 s : State} {n : Nat} {rd : BitVec 5} {k : BitVec 19} (hm : Sub 8201 m) (hk : Mask m s0 s) :
    Answers m s0 (execShlk n rd k s) := by
  unfold execShlk
  repeat' (first
    | intro _
    | with_reducible assumption
    | with_reducible refine gynConst_mask (sub_trans (by decide) hm) ?_
    | with_reducible apply answers_next
    | with_reducible apply ite_answers
    | with_reducible apply ite_mask
    | with_reducible apply ite_fst_mask
    | split
    | dsimp only)

theorem execShrk_answers {m : Nat} {s0 s : State} {n : Nat} {rd : BitVec 5} {k : BitVec 19} (hm : Sub 8201 m) (hk : Mask m s0 s) :
    Answers m s0 (execShrk n rd k s) := by
  unfold execShrk
  repeat' (first
    | intro _
    | with_reducible assumption
    | with_reducible refine gynConst_mask (sub_trans (by decide) hm) ?_
    | with_reducible apply answers_next
    | with_reducible apply ite_answers
    | with_reducible apply ite_mask
    | with_reducible apply ite_fst_mask
    | split
    | dsimp only)

theorem execSark_answers {m : Nat} {s0 s : State} {n : Nat} {rd : BitVec 5} {k : BitVec 19} (hm : Sub 8201 m) (hk : Mask m s0 s) :
    Answers m s0 (execSark n rd k s) := by
  unfold execSark
  repeat' (first
    | intro _
    | with_reducible assumption
    | with_reducible refine gynConst_mask (sub_trans (by decide) hm) ?_
    | with_reducible apply answers_next
    | with_reducible apply ite_answers
    | with_reducible apply ite_mask
    | with_reducible apply ite_fst_mask
    | split
    | dsimp only)

theorem execTeq_answers {m : Nat} {s0 s : State} {n : Nat} {rd rs : BitVec 5} {pad : BitVec 14} (hm : Sub 8201 m) (hk : Mask m s0 s) :
    Answers m s0 (execTeq n rd rs pad s) := by
  unfold execTeq
  repeat' (first
    | intro _
    | with_reducible assumption
    | with_reducible refine gynTest_mask (sub_trans (by decide) hm) ?_
    | with_reducible apply answers_next
    | with_reducible apply ite_answers
    | with_reducible apply ite_mask
    | with_reducible apply ite_fst_mask
    | split
    | dsimp only)

theorem execTne_answers {m : Nat} {s0 s : State} {n : Nat} {rd rs : BitVec 5} {pad : BitVec 14} (hm : Sub 8201 m) (hk : Mask m s0 s) :
    Answers m s0 (execTne n rd rs pad s) := by
  unfold execTne
  repeat' (first
    | intro _
    | with_reducible assumption
    | with_reducible refine gynTest_mask (sub_trans (by decide) hm) ?_
    | with_reducible apply answers_next
    | with_reducible apply ite_answers
    | with_reducible apply ite_mask
    | with_reducible apply ite_fst_mask
    | split
    | dsimp only)

theorem execTlt_answers {m : Nat} {s0 s : State} {n : Nat} {rd rs : BitVec 5} {pad : BitVec 14} (hm : Sub 8201 m) (hk : Mask m s0 s) :
    Answers m s0 (execTlt n rd rs pad s) := by
  unfold execTlt
  repeat' (first
    | intro _
    | with_reducible assumption
    | with_reducible refine gynTest_mask (sub_trans (by decide) hm) ?_
    | with_reducible apply answers_next
    | with_reducible apply ite_answers
    | with_reducible apply ite_mask
    | with_reducible apply ite_fst_mask
    | split
    | dsimp only)

theorem execTge_answers {m : Nat} {s0 s : State} {n : Nat} {rd rs : BitVec 5} {pad : BitVec 14} (hm : Sub 8201 m) (hk : Mask m s0 s) :
    Answers m s0 (execTge n rd rs pad s) := by
  unfold execTge
  repeat' (first
    | intro _
    | with_reducible assumption
    | with_reducible refine gynTest_mask (sub_trans (by decide) hm) ?_
    | with_reducible apply answers_next
    | with_reducible apply ite_answers
    | with_reducible apply ite_mask
    | with_reducible apply ite_fst_mask
    | split
    | dsimp only)

theorem execTltu_answers {m : Nat} {s0 s : State} {n : Nat} {rd rs : BitVec 5} {pad : BitVec 14} (hm : Sub 8201 m) (hk : Mask m s0 s) :
    Answers m s0 (execTltu n rd rs pad s) := by
  unfold execTltu
  repeat' (first
    | intro _
    | with_reducible assumption
    | with_reducible refine gynTest_mask (sub_trans (by decide) hm) ?_
    | with_reducible apply answers_next
    | with_reducible apply ite_answers
    | with_reducible apply ite_mask
    | with_reducible apply ite_fst_mask
    | split
    | dsimp only)

theorem execTgeu_answers {m : Nat} {s0 s : State} {n : Nat} {rd rs : BitVec 5} {pad : BitVec 14} (hm : Sub 8201 m) (hk : Mask m s0 s) :
    Answers m s0 (execTgeu n rd rs pad s) := by
  unfold execTgeu
  repeat' (first
    | intro _
    | with_reducible assumption
    | with_reducible refine gynTest_mask (sub_trans (by decide) hm) ?_
    | with_reducible apply answers_next
    | with_reducible apply ite_answers
    | with_reducible apply ite_mask
    | with_reducible apply ite_fst_mask
    | split
    | dsimp only)

theorem execTeqk_answers {m : Nat} {s0 s : State} {n : Nat} {rd : BitVec 5} {k : BitVec 19} (hm : Sub 8201 m) (hk : Mask m s0 s) :
    Answers m s0 (execTeqk n rd k s) := by
  unfold execTeqk
  repeat' (first
    | intro _
    | with_reducible assumption
    | with_reducible refine gynTestK_mask (sub_trans (by decide) hm) ?_
    | with_reducible apply answers_next
    | with_reducible apply ite_answers
    | with_reducible apply ite_mask
    | with_reducible apply ite_fst_mask
    | split
    | dsimp only)

theorem execTnek_answers {m : Nat} {s0 s : State} {n : Nat} {rd : BitVec 5} {k : BitVec 19} (hm : Sub 8201 m) (hk : Mask m s0 s) :
    Answers m s0 (execTnek n rd k s) := by
  unfold execTnek
  repeat' (first
    | intro _
    | with_reducible assumption
    | with_reducible refine gynTestK_mask (sub_trans (by decide) hm) ?_
    | with_reducible apply answers_next
    | with_reducible apply ite_answers
    | with_reducible apply ite_mask
    | with_reducible apply ite_fst_mask
    | split
    | dsimp only)

theorem execTltk_answers {m : Nat} {s0 s : State} {n : Nat} {rd : BitVec 5} {k : BitVec 19} (hm : Sub 8201 m) (hk : Mask m s0 s) :
    Answers m s0 (execTltk n rd k s) := by
  unfold execTltk
  repeat' (first
    | intro _
    | with_reducible assumption
    | with_reducible refine gynTestK_mask (sub_trans (by decide) hm) ?_
    | with_reducible apply answers_next
    | with_reducible apply ite_answers
    | with_reducible apply ite_mask
    | with_reducible apply ite_fst_mask
    | split
    | dsimp only)

theorem execTgek_answers {m : Nat} {s0 s : State} {n : Nat} {rd : BitVec 5} {k : BitVec 19} (hm : Sub 8201 m) (hk : Mask m s0 s) :
    Answers m s0 (execTgek n rd k s) := by
  unfold execTgek
  repeat' (first
    | intro _
    | with_reducible assumption
    | with_reducible refine gynTestK_mask (sub_trans (by decide) hm) ?_
    | with_reducible apply answers_next
    | with_reducible apply ite_answers
    | with_reducible apply ite_mask
    | with_reducible apply ite_fst_mask
    | split
    | dsimp only)

theorem execTbit_answers {m : Nat} {s0 s : State} {n : Nat} {rd : BitVec 5} {k : BitVec 19} (hm : Sub 8201 m) (hk : Mask m s0 s) :
    Answers m s0 (execTbit n rd k s) := by
  unfold execTbit
  repeat' (first
    | intro _
    | with_reducible assumption
    | with_reducible refine gynTestK_mask (sub_trans (by decide) hm) ?_
    | with_reducible apply answers_next
    | with_reducible apply ite_answers
    | with_reducible apply ite_mask
    | with_reducible apply ite_fst_mask
    | split
    | dsimp only)

theorem execLd8_answers {m : Nat} {s0 s : State} {n : Nat} {rd rs : BitVec 5} {d : BitVec 14} (hm : Sub 8201 m) (hk : Mask m s0 s) :
    Answers m s0 (execLd8 n rd rs d s) := by
  unfold execLd8
  repeat' (first
    | intro _
    | with_reducible assumption
    | with_reducible refine gynLoad_mask (sub_trans (by decide) hm) ?_
    | with_reducible apply answers_next
    | with_reducible apply ite_answers
    | with_reducible apply ite_mask
    | with_reducible apply ite_fst_mask
    | split
    | dsimp only)

theorem execLd4_answers {m : Nat} {s0 s : State} {n : Nat} {rd rs : BitVec 5} {d : BitVec 14} (hm : Sub 8201 m) (hk : Mask m s0 s) :
    Answers m s0 (execLd4 n rd rs d s) := by
  unfold execLd4
  repeat' (first
    | intro _
    | with_reducible assumption
    | with_reducible refine gynLoad_mask (sub_trans (by decide) hm) ?_
    | with_reducible apply answers_next
    | with_reducible apply ite_answers
    | with_reducible apply ite_mask
    | with_reducible apply ite_fst_mask
    | split
    | dsimp only)

theorem execLd2_answers {m : Nat} {s0 s : State} {n : Nat} {rd rs : BitVec 5} {d : BitVec 14} (hm : Sub 8201 m) (hk : Mask m s0 s) :
    Answers m s0 (execLd2 n rd rs d s) := by
  unfold execLd2
  repeat' (first
    | intro _
    | with_reducible assumption
    | with_reducible refine gynLoad_mask (sub_trans (by decide) hm) ?_
    | with_reducible apply answers_next
    | with_reducible apply ite_answers
    | with_reducible apply ite_mask
    | with_reducible apply ite_fst_mask
    | split
    | dsimp only)

theorem execLd1_answers {m : Nat} {s0 s : State} {n : Nat} {rd rs : BitVec 5} {d : BitVec 14} (hm : Sub 8201 m) (hk : Mask m s0 s) :
    Answers m s0 (execLd1 n rd rs d s) := by
  unfold execLd1
  repeat' (first
    | intro _
    | with_reducible assumption
    | with_reducible refine gynLoad_mask (sub_trans (by decide) hm) ?_
    | with_reducible apply answers_next
    | with_reducible apply ite_answers
    | with_reducible apply ite_mask
    | with_reducible apply ite_fst_mask
    | split
    | dsimp only)

theorem execSt8_answers {m : Nat} {s0 s : State} {n : Nat} {rd rs : BitVec 5} {d : BitVec 14} (hm : Sub 8201 m) (hk : Mask m s0 s) :
    Answers m s0 (execSt8 n rd rs d s) := by
  unfold execSt8
  repeat' (first
    | intro _
    | with_reducible assumption
    | with_reducible refine gynStore_mask (sub_trans (by decide) hm) ?_
    | with_reducible apply answers_next
    | with_reducible apply ite_answers
    | with_reducible apply ite_mask
    | with_reducible apply ite_fst_mask
    | split
    | dsimp only)

theorem execSt4_answers {m : Nat} {s0 s : State} {n : Nat} {rd rs : BitVec 5} {d : BitVec 14} (hm : Sub 8201 m) (hk : Mask m s0 s) :
    Answers m s0 (execSt4 n rd rs d s) := by
  unfold execSt4
  repeat' (first
    | intro _
    | with_reducible assumption
    | with_reducible refine gynStore_mask (sub_trans (by decide) hm) ?_
    | with_reducible apply answers_next
    | with_reducible apply ite_answers
    | with_reducible apply ite_mask
    | with_reducible apply ite_fst_mask
    | split
    | dsimp only)

theorem execSt2_answers {m : Nat} {s0 s : State} {n : Nat} {rd rs : BitVec 5} {d : BitVec 14} (hm : Sub 8201 m) (hk : Mask m s0 s) :
    Answers m s0 (execSt2 n rd rs d s) := by
  unfold execSt2
  repeat' (first
    | intro _
    | with_reducible assumption
    | with_reducible refine gynStore_mask (sub_trans (by decide) hm) ?_
    | with_reducible apply answers_next
    | with_reducible apply ite_answers
    | with_reducible apply ite_mask
    | with_reducible apply ite_fst_mask
    | split
    | dsimp only)

theorem execSt1_answers {m : Nat} {s0 s : State} {n : Nat} {rd rs : BitVec 5} {d : BitVec 14} (hm : Sub 8201 m) (hk : Mask m s0 s) :
    Answers m s0 (execSt1 n rd rs d s) := by
  unfold execSt1
  repeat' (first
    | intro _
    | with_reducible assumption
    | with_reducible refine gynStore_mask (sub_trans (by decide) hm) ?_
    | with_reducible apply answers_next
    | with_reducible apply ite_answers
    | with_reducible apply ite_mask
    | with_reducible apply ite_fst_mask
    | split
    | dsimp only)

theorem execHld8_answers {m : Nat} {s0 s : State} {n : Nat} {rd rs : BitVec 5} {d : BitVec 14} (hm : Sub 8201 m) (hk : Mask m s0 s) :
    Answers m s0 (execHld8 n rd rs d s) := by
  unfold execHld8
  repeat' (first
    | intro _
    | with_reducible assumption
    | with_reducible refine gynHouseLoad_mask (sub_trans (by decide) hm) ?_
    | with_reducible apply answers_next
    | with_reducible apply ite_answers
    | with_reducible apply ite_mask
    | with_reducible apply ite_fst_mask
    | split
    | dsimp only)

theorem execHst8_answers {m : Nat} {s0 s : State} {n : Nat} {rd rs : BitVec 5} {d : BitVec 14} (hm : Sub 3145727 m) (hk : Mask m s0 s) :
    Answers m s0 (execHst8 n rd rs d s) := by
  unfold execHst8
  repeat' (first
    | intro _
    | with_reducible assumption
    | with_reducible refine gynHouseStore_mask (sub_trans (by decide) hm) ?_
    | with_reducible apply answers_next
    | with_reducible apply ite_answers
    | with_reducible apply ite_mask
    | with_reducible apply ite_fst_mask
    | split
    | dsimp only)

theorem execHld4_answers {m : Nat} {s0 s : State} {n : Nat} {rd rs : BitVec 5} {d : BitVec 14} (hm : Sub 8201 m) (hk : Mask m s0 s) :
    Answers m s0 (execHld4 n rd rs d s) := by
  unfold execHld4
  repeat' (first
    | intro _
    | with_reducible assumption
    | with_reducible refine gynHouseLoad_mask (sub_trans (by decide) hm) ?_
    | with_reducible apply answers_next
    | with_reducible apply ite_answers
    | with_reducible apply ite_mask
    | with_reducible apply ite_fst_mask
    | split
    | dsimp only)

theorem execHst4_answers {m : Nat} {s0 s : State} {n : Nat} {rd rs : BitVec 5} {d : BitVec 14} (hm : Sub 3145727 m) (hk : Mask m s0 s) :
    Answers m s0 (execHst4 n rd rs d s) := by
  unfold execHst4
  repeat' (first
    | intro _
    | with_reducible assumption
    | with_reducible refine gynHouseStore_mask (sub_trans (by decide) hm) ?_
    | with_reducible apply answers_next
    | with_reducible apply ite_answers
    | with_reducible apply ite_mask
    | with_reducible apply ite_fst_mask
    | split
    | dsimp only)

theorem execGo_answers {m : Nat} {s0 s : State} {n : Nat} {d : BitVec 24} (hm : Sub 8201 m) (hk : Mask m s0 s) :
    Answers m s0 (execGo n d s) := by
  unfold execGo
  repeat' (first
    | intro _
    | with_reducible assumption
    | with_reducible apply gyn_mask (sub_trans (by decide) hm)
    | with_reducible refine gynGoto_mask (sub_trans (by decide) hm) ?_
    | with_reducible apply answers_next
    | with_reducible apply ite_answers
    | with_reducible apply ite_mask
    | with_reducible apply ite_fst_mask
    | split
    | dsimp only)

theorem execGot_answers {m : Nat} {s0 s : State} {n : Nat} {d : BitVec 24} (hm : Sub 8201 m) (hk : Mask m s0 s) :
    Answers m s0 (execGot n d s) := by
  unfold execGot
  repeat' (first
    | intro _
    | with_reducible assumption
    | with_reducible apply gyn_mask (sub_trans (by decide) hm)
    | with_reducible refine gynGoto_mask (sub_trans (by decide) hm) ?_
    | with_reducible refine pcNext_mask (sub_trans (by decide) hm) ?_
    | with_reducible apply answers_next
    | with_reducible apply ite_answers
    | with_reducible apply ite_mask
    | with_reducible apply ite_fst_mask
    | split
    | dsimp only)

theorem execGof_answers {m : Nat} {s0 s : State} {n : Nat} {d : BitVec 24} (hm : Sub 8201 m) (hk : Mask m s0 s) :
    Answers m s0 (execGof n d s) := by
  unfold execGof
  repeat' (first
    | intro _
    | with_reducible assumption
    | with_reducible apply gyn_mask (sub_trans (by decide) hm)
    | with_reducible refine gynGoto_mask (sub_trans (by decide) hm) ?_
    | with_reducible refine pcNext_mask (sub_trans (by decide) hm) ?_
    | with_reducible apply answers_next
    | with_reducible apply ite_answers
    | with_reducible apply ite_mask
    | with_reducible apply ite_fst_mask
    | split
    | dsimp only)

theorem execCall_answers {m : Nat} {s0 s : State} {n : Nat} {d : BitVec 24} (hm : Sub 8201 m) (hk : Mask m s0 s) :
    Answers m s0 (execCall n d s) := by
  unfold execCall
  repeat' (first
    | intro _
    | with_reducible assumption
    | with_reducible apply gyn_mask (sub_trans (by decide) hm)
    | with_reducible refine gynCallTo_mask (sub_trans (by decide) hm) ?_
    | with_reducible apply answers_next
    | with_reducible apply ite_answers
    | with_reducible apply ite_mask
    | with_reducible apply ite_fst_mask
    | split
    | dsimp only)

theorem execGor_answers {m : Nat} {s0 s : State} {n : Nat} {rd rs : BitVec 5} {pad : BitVec 14} (hm : Sub 8201 m) (hk : Mask m s0 s) :
    Answers m s0 (execGor n rd rs pad s) := by
  unfold execGor
  repeat' (first
    | intro _
    | with_reducible assumption
    | with_reducible apply gyn_mask (sub_trans (by decide) hm)
    | with_reducible refine gynGoto_mask (sub_trans (by decide) hm) ?_
    | with_reducible refine trap_mask (sub_trans (by decide) hm) ?_
    | with_reducible apply answers_next
    | with_reducible apply ite_answers
    | with_reducible apply ite_mask
    | with_reducible apply ite_fst_mask
    | split
    | dsimp only)

theorem execCallr_answers {m : Nat} {s0 s : State} {n : Nat} {rd rs : BitVec 5} {pad : BitVec 14} (hm : Sub 8201 m) (hk : Mask m s0 s) :
    Answers m s0 (execCallr n rd rs pad s) := by
  unfold execCallr
  repeat' (first
    | intro _
    | with_reducible assumption
    | with_reducible apply gyn_mask (sub_trans (by decide) hm)
    | with_reducible refine gynCallTo_mask (sub_trans (by decide) hm) ?_
    | with_reducible refine trap_mask (sub_trans (by decide) hm) ?_
    | with_reducible apply answers_next
    | with_reducible apply ite_answers
    | with_reducible apply ite_mask
    | with_reducible apply ite_fst_mask
    | split
    | dsimp only)

theorem execRet_answers {m : Nat} {s0 s : State} {n : Nat} {rd rs : BitVec 5} {pad : BitVec 14} (hm : Sub 8201 m) (hk : Mask m s0 s) :
    Answers m s0 (execRet n rd rs pad s) := by
  unfold execRet
  repeat' (first
    | intro _
    | with_reducible assumption
    | with_reducible apply gyn_mask (sub_trans (by decide) hm)
    | with_reducible refine modSeq_mask (sub_trans (by decide) hm) ?_
    | with_reducible refine trap_mask (sub_trans (by decide) hm) ?_
    | with_reducible apply answers_next
    | with_reducible apply ite_answers
    | with_reducible apply ite_mask
    | with_reducible apply ite_fst_mask
    | split
    | dsimp only)

theorem execPost_answers {m : Nat} {s0 s : State} {n : Nat} {rd rs : BitVec 5} {pad : BitVec 14} (hm : Sub 8201 m) (hk : Mask m s0 s) :
    Answers m s0 (execPost n rd rs pad s) := by
  unfold execPost
  repeat' (first
    | intro _
    | with_reducible assumption
    | with_reducible apply gyn_mask (sub_trans (by decide) hm)
    | with_reducible refine pcNext_mask (sub_trans (by decide) hm) ?_
    | with_reducible refine raise_mask (sub_trans (by decide) hm) ?_
    | with_reducible apply answers_next
    | with_reducible apply ite_answers
    | with_reducible apply ite_mask
    | with_reducible apply ite_fst_mask
    | split
    | dsimp only)

theorem execTrap_answers {m : Nat} {s0 s : State} {n : Nat} {rd : BitVec 5} {k : BitVec 19} (hm : Sub 8201 m) (hk : Mask m s0 s) :
    Answers m s0 (execTrap n rd k s) := by
  unfold execTrap
  repeat' (first
    | intro _
    | with_reducible assumption
    | with_reducible apply gyn_mask (sub_trans (by decide) hm)
    | with_reducible refine trap_mask (sub_trans (by decide) hm) ?_
    | with_reducible apply answers_next
    | with_reducible apply ite_answers
    | with_reducible apply ite_mask
    | with_reducible apply ite_fst_mask
    | split
    | dsimp only)

theorem execRtt_answers {m : Nat} {s0 s : State} {n : Nat} {rd rs : BitVec 5} {pad : BitVec 14} (hm : Sub 8201 m) (hk : Mask m s0 s) :
    Answers m s0 (execRtt n rd rs pad s) := by
  unfold execRtt
  repeat' (first
    | intro _
    | with_reducible assumption
    | with_reducible apply gyn_mask (sub_trans (by decide) hm)
    | with_reducible refine returnFromTrap_mask (sub_trans (by decide) hm) ?_
    | with_reducible apply answers_next
    | with_reducible apply ite_answers
    | with_reducible apply ite_mask
    | with_reducible apply ite_fst_mask
    | split
    | dsimp only)

theorem execTime_answers {m : Nat} {s0 s : State} {n : Nat} {rd rs : BitVec 5} {pad : BitVec 14} (hm : Sub 8201 m) (hk : Mask m s0 s) :
    Answers m s0 (execTime n rd rs pad s) := by
  unfold execTime
  repeat' (first
    | intro _
    | with_reducible assumption
    | with_reducible apply gyn_mask (sub_trans (by decide) hm)
    | with_reducible refine setNext_mask (sub_trans (by decide) hm) ?_
    | with_reducible apply answers_next
    | with_reducible apply ite_answers
    | with_reducible apply ite_mask
    | with_reducible apply ite_fst_mask
    | split
    | dsimp only)

theorem execHsync_answers {m : Nat} {s0 s : State} {n : Nat} {rd rs : BitVec 5} {pad : BitVec 14} (hm : Sub 8201 m) (hk : Mask m s0 s) :
    Answers m s0 (execHsync n rd rs pad s) := by
  unfold execHsync
  repeat' (first
    | intro _
    | with_reducible assumption
    | with_reducible apply gyn_mask (sub_trans (by decide) hm)
    | with_reducible refine pcNext_mask (sub_trans (by decide) hm) ?_
    | with_reducible apply answers_next
    | with_reducible apply ite_answers
    | with_reducible apply ite_mask
    | with_reducible apply ite_fst_mask
    | split
    | dsimp only)

theorem execRds_answers {m : Nat} {s0 s : State} {n : Nat} {rd : BitVec 5} {k : BitVec 19} (hm : Sub 8201 m) (hk : Mask m s0 s) :
    Answers m s0 (execRds n rd k s) := by
  unfold execRds
  repeat' (first
    | intro _
    | with_reducible assumption
    | with_reducible apply gyn_mask (sub_trans (by decide) hm)
    | with_reducible refine setNext_mask (sub_trans (by decide) hm) ?_
    | with_reducible apply answers_next
    | with_reducible apply ite_answers
    | with_reducible apply ite_mask
    | with_reducible apply ite_fst_mask
    | split
    | dsimp only)

end Sys2Proof.Machine
end

