-- ==== Sys2Proof/Laws/PartsMedia.lean ====
section
/-!
SUPPORT. Which parts of the state the operations and commands of Media touch.
-/
set_option linter.unusedTactic false
set_option linter.unreachableTactic false
set_option linter.unusedVariables false
namespace Sys2Proof.Machine

theorem execWait_answers {m : Nat} {s0 s : State} {n : Nat} {rd rs : BitVec 5} {k : BitVec 14} (hm : Sub 13339 m) (hk : Mask m s0 s) :
    Answers m s0 (execWait n rd rs k s) := by
  unfold execWait
  repeat' (first
    | intro _
    | with_reducible assumption
    | with_reducible refine enterNonop_mask (sub_trans (by decide) hm) ?_
    | with_reducible apply gyn_mask (sub_trans (by decide) hm)
    | with_reducible refine modSeq_mask (sub_trans (by decide) hm) ?_
    | with_reducible refine pcNext_mask (sub_trans (by decide) hm) ?_
    | with_reducible refine setNext_mask (sub_trans (by decide) hm) ?_
    | with_reducible apply answers_next
    | with_reducible apply ite_answers
    | with_reducible apply ite_mask
    | with_reducible apply ite_fst_mask
    | split
    | dsimp only)

theorem execWaitTimeout_answers {m : Nat} {s0 s : State} {n : Nat} (hm : Sub 8192 m) (hk : Mask m s0 s) :
    Answers m s0 (execWaitTimeout n s) := by
  unfold execWaitTimeout
  repeat' (first
    | intro _
    | with_reducible assumption
    | with_reducible refine modSeq_mask (sub_trans (by decide) hm) ?_
    | with_reducible apply answers_next
    | with_reducible apply ite_answers
    | with_reducible apply ite_mask
    | with_reducible apply ite_fst_mask
    | split
    | dsimp only)

theorem execMissue_answers {m : Nat} {s0 s : State} {n : Nat} {rd rs : BitVec 5} {pad : BitVec 14} (hm : Sub 2293513 m) (hk : Mask m s0 s) :
    Answers m s0 (execMissue n rd rs pad s) := by
  unfold execMissue
  repeat' (first
    | intro _
    | with_reducible assumption
    | with_reducible refine endDesc_mask (sub_trans (by decide) hm) ?_
    | with_reducible apply gyn_mask (sub_trans (by decide) hm)
    | with_reducible refine modPort_mask (sub_trans (by decide) hm) ?_
    | with_reducible refine modSeq_mask (sub_trans (by decide) hm) ?_
    | with_reducible refine setDescState_mask (sub_trans (by decide) hm) ?_
    | with_reducible refine setNext_mask (sub_trans (by decide) hm) ?_
    | with_reducible refine trap_mask (sub_trans (by decide) hm) ?_
    | with_reducible apply answers_next
    | with_reducible apply ite_answers
    | with_reducible apply ite_mask
    | with_reducible apply ite_fst_mask
    | split
    | dsimp only)

theorem execMctl_answers {m : Nat} {s0 s : State} {n : Nat} {rd rs : BitVec 5} {pad : BitVec 14} (hm : Sub 12297 m) (hk : Mask m s0 s) :
    Answers m s0 (execMctl n rd rs pad s) := by
  unfold execMctl
  repeat' (first
    | intro _
    | with_reducible assumption
    | with_reducible apply gyn_mask (sub_trans (by decide) hm)
    | with_reducible refine modPort_mask (sub_trans (by decide) hm) ?_
    | with_reducible refine modSeq_mask (sub_trans (by decide) hm) ?_
    | with_reducible refine setNext_mask (sub_trans (by decide) hm) ?_
    | with_reducible refine trap_mask (sub_trans (by decide) hm) ?_
    | with_reducible apply answers_next
    | with_reducible apply ite_answers
    | with_reducible apply ite_mask
    | with_reducible apply ite_fst_mask
    | split
    | dsimp only)

theorem execOdone_answers {m : Nat} {s0 s : State} {n : Nat} {rd rs : BitVec 5} {pad : BitVec 14} (hm : Sub 2293513 m) (hk : Mask m s0 s) :
    Answers m s0 (execOdone n rd rs pad s) := by
  unfold execOdone
  repeat' (first
    | intro _
    | with_reducible assumption
    | with_reducible apply gyn_mask (sub_trans (by decide) hm)
    | with_reducible refine opOutcome_mask (sub_trans (by decide) hm) ?_
    | with_reducible refine pcNext_mask (sub_trans (by decide) hm) ?_
    | with_reducible refine releaseDesc_mask (sub_trans (by decide) hm) ?_
    | with_reducible refine trap_mask (sub_trans (by decide) hm) ?_
    | with_reducible apply answers_next
    | with_reducible apply ite_answers
    | with_reducible apply ite_mask
    | with_reducible apply ite_fst_mask
    | split
    | dsimp only)

theorem execOpLimitExpiry_answers {m : Nat} {s0 s : State} {n i : Nat} (hm : Sub 8201 m) (hk : Mask m s0 s) :
    Answers m s0 (execOpLimitExpiry n i s) := by
  unfold execOpLimitExpiry
  repeat' (first
    | intro _
    | with_reducible assumption
    | with_reducible refine modSeq_mask (sub_trans (by decide) hm) ?_
    | with_reducible refine trap_mask (sub_trans (by decide) hm) ?_
    | with_reducible apply answers_next
    | with_reducible apply ite_answers
    | with_reducible apply ite_mask
    | with_reducible apply ite_fst_mask
    | split
    | dsimp only)

theorem execWatchdogFirstExpiry_answers {m : Nat} {s0 s : State}  (hm : Sub 8193 m) (hk : Mask m s0 s) :
    Answers m s0 (execWatchdogFirstExpiry s) := by
  unfold execWatchdogFirstExpiry
  repeat' (first
    | intro _
    | with_reducible assumption
    | with_reducible refine raise_mask (sub_trans (by decide) hm) ?_
    | with_reducible refine set1_mask (sub_trans (by decide) hm) ?_
    | with_reducible apply answers_next
    | with_reducible apply ite_answers
    | with_reducible apply ite_mask
    | with_reducible apply ite_fst_mask
    | split
    | dsimp only)

theorem execWatchdogReset_answers {m : Nat} {s0 s : State}  (hm : Sub 1048575 m) (hk : Mask m s0 s) :
    Answers m s0 (execWatchdogReset s) := by
  unfold execWatchdogReset
  repeat' (first
    | intro _
    | with_reducible assumption
    | with_reducible refine watchdogReset_mask (sub_trans (by decide) hm) ?_
    | with_reducible apply answers_next
    | with_reducible apply ite_answers
    | with_reducible apply ite_mask
    | with_reducible apply ite_fst_mask
    | split
    | dsimp only)

end Sys2Proof.Machine
end

