-- ==== Sys2Proof/Laws/PartsFabric.lean ====
section
/-!
SUPPORT. Which parts of the state the operations and commands of Fabric touch.
-/
set_option linter.unusedTactic false
set_option linter.unreachableTactic false
set_option linter.unusedVariables false
namespace Sys2Proof.Machine

theorem execOutputLinkArbitration_answers {m : Nat} {s0 s : State} {link : Nat} {ctl : List Nat} {data : List (Nat × Nat)} (hm : Sub 1310720 m) (hk : Mask m s0 s) :
    Answers m s0 (execOutputLinkArbitration link ctl data s) := by
  unfold execOutputLinkArbitration
  repeat' (first
    | intro _
    | with_reducible assumption
    | with_reducible refine emit_mask (sub_trans (by decide) hm) ?_
    | with_reducible refine modFab_mask (sub_trans (by decide) hm) ?_
    | with_reducible apply answers_next
    | with_reducible apply ite_answers
    | with_reducible apply ite_mask
    | with_reducible apply ite_fst_mask
    | split
    | dsimp only)

theorem execFabricWordArrival_answers {μ : Nat} {s0 s : State} {link input : Nat} {d : BitVec 256} {t m : BitVec 16} {sill : Bool} (hm : Sub 2416392 μ) (hk : Mask μ s0 s) :
    Answers μ s0 (execFabricWordArrival link input d t m sill s) := by
  unfold execFabricWordArrival
  repeat' (first
    | intro _
    | with_reducible assumption
    | with_reducible refine deliver_mask (sub_trans (by decide) hm) ?_
    | with_reducible refine modFab_mask (sub_trans (by decide) hm) ?_
    | with_reducible refine post_mask (sub_trans (by decide) hm) ?_
    | with_reducible apply answers_next
    | with_reducible apply ite_answers
    | with_reducible apply ite_mask
    | with_reducible apply ite_fst_mask
    | split
    | dsimp only)

theorem execMgmtMessage_answers {m : Nat} {s0 s : State} {buf : Nat} (hm : Sub 8211 m) (hk : Mask m s0 s) :
    Answers m s0 (execMgmtMessage buf s) := by
  unfold execMgmtMessage
  repeat' (first
    | intro _
    | with_reducible assumption
    | with_reducible refine raise_mask (sub_trans (by decide) hm) ?_
    | with_reducible refine wake_mask (sub_trans (by decide) hm) ?_
    | with_reducible apply answers_next
    | with_reducible apply ite_answers
    | with_reducible apply ite_mask
    | with_reducible apply ite_fst_mask
    | split
    | dsimp only)

theorem execEntdaa_answers {m : Nat} {s0 s : State} {addr : Nat} (hm : Sub 1048592 m) (hk : Mask m s0 s) :
    Answers m s0 (execEntdaa addr s) := by
  unfold execEntdaa
  repeat' (first
    | intro _
    | with_reducible assumption
    | with_reducible refine emit_mask (sub_trans (by decide) hm) ?_
    | with_reducible refine modStd_mask (sub_trans (by decide) hm) ?_
    | with_reducible apply answers_next
    | with_reducible apply ite_answers
    | with_reducible apply ite_mask
    | with_reducible apply ite_fst_mask
    | split
    | dsimp only)

theorem boundaryScan_mask {m : Nat} {s0 s : State} {f : Jtag → Jtag} (hm : Sub 524288 m) (hk : Mask m s0 s) :
    Mask m s0 (boundaryScan s f) := by
  unfold boundaryScan
  repeat' (first
    | intro _
    | with_reducible assumption
    | with_reducible refine modJtag_mask (sub_trans (by decide) hm) ?_
    | with_reducible apply ite_mask
    | with_reducible apply ite_fst_mask
    | split
    | dsimp only)

theorem execBypass_answers {m : Nat} {s0 s : State}  (hm : Sub 524288 m) (hk : Mask m s0 s) :
    Answers m s0 (execBypass s) := by
  unfold execBypass
  repeat' (first
    | intro _
    | with_reducible assumption
    | with_reducible refine modJtag_mask (sub_trans (by decide) hm) ?_
    | with_reducible apply answers_next
    | with_reducible apply ite_answers
    | with_reducible apply ite_mask
    | with_reducible apply ite_fst_mask
    | split
    | dsimp only)

theorem execIdcode_answers {m : Nat} {s0 s : State}  (hm : Sub 1572864 m) (hk : Mask m s0 s) :
    Answers m s0 (execIdcode s) := by
  unfold execIdcode
  repeat' (first
    | intro _
    | with_reducible assumption
    | with_reducible refine emit_mask (sub_trans (by decide) hm) ?_
    | with_reducible refine modJtag_mask (sub_trans (by decide) hm) ?_
    | with_reducible apply answers_next
    | with_reducible apply ite_answers
    | with_reducible apply ite_mask
    | with_reducible apply ite_fst_mask
    | split
    | dsimp only)

theorem execSamplePreload_answers {m : Nat} {s0 s : State} {v : Nat} (hm : Sub 524288 m) (hk : Mask m s0 s) :
    Answers m s0 (execSamplePreload v s) := by
  unfold execSamplePreload
  repeat' (first
    | intro _
    | with_reducible assumption
    | with_reducible refine boundaryScan_mask (sub_trans (by decide) hm) ?_
    | with_reducible apply answers_next
    | with_reducible apply ite_answers
    | with_reducible apply ite_mask
    | with_reducible apply ite_fst_mask
    | split
    | dsimp only)

theorem execExtest_answers {m : Nat} {s0 s : State}  (hm : Sub 524288 m) (hk : Mask m s0 s) :
    Answers m s0 (execExtest s) := by
  unfold execExtest
  repeat' (first
    | intro _
    | with_reducible assumption
    | with_reducible refine boundaryScan_mask (sub_trans (by decide) hm) ?_
    | with_reducible apply answers_next
    | with_reducible apply ite_answers
    | with_reducible apply ite_mask
    | with_reducible apply ite_fst_mask
    | split
    | dsimp only)

theorem execExtestPulse_answers {m : Nat} {s0 s : State}  (hm : Sub 524288 m) (hk : Mask m s0 s) :
    Answers m s0 (execExtestPulse s) := by
  unfold execExtestPulse
  repeat' (first
    | intro _
    | with_reducible assumption
    | with_reducible refine boundaryScan_mask (sub_trans (by decide) hm) ?_
    | with_reducible apply answers_next
    | with_reducible apply ite_answers
    | with_reducible apply ite_mask
    | with_reducible apply ite_fst_mask
    | split
    | dsimp only)

theorem execExtestTrain_answers {m : Nat} {s0 s : State}  (hm : Sub 524288 m) (hk : Mask m s0 s) :
    Answers m s0 (execExtestTrain s) := by
  unfold execExtestTrain
  repeat' (first
    | intro _
    | with_reducible assumption
    | with_reducible refine boundaryScan_mask (sub_trans (by decide) hm) ?_
    | with_reducible apply answers_next
    | with_reducible apply ite_answers
    | with_reducible apply ite_mask
    | with_reducible apply ite_fst_mask
    | split
    | dsimp only)

end Sys2Proof.Machine
end

