-- ==== Sys2Proof/Laws/PartsTick.lean ====
section
/-!
SUPPORT. Which parts of the state the operations and commands of Tick touch.
-/
set_option linter.unusedTactic false
set_option linter.unreachableTactic false
set_option linter.unusedVariables false
namespace Sys2Proof.Machine

theorem idle_mask {m : Nat} {s0 s : State}  (hm : Sub 1184642 m) (hk : Mask m s0 s) :
    Mask m s0 (idle s) := by
  unfold idle
  repeat' (first
    | intro _
    | with_reducible assumption
    | with_reducible refine ltrCheck_mask (sub_trans (by decide) hm) ?_
    | with_reducible refine timeTick_mask (sub_trans (by decide) hm) ?_
    | with_reducible refine warnCheck_mask (sub_trans (by decide) hm) ?_
    | with_reducible apply ite_mask
    | with_reducible apply ite_fst_mask
    | split
    | dsimp only)

end Sys2Proof.Machine
end

