-- ==== Sys2Proof/Laws/Regs.lean ====
section
/-!
SUPPORT. A write of one register field and the fields that share no bit with it.
-/
namespace Sys2Proof.Machine

theorem bits_testBit (v l w i : Nat) : (bits v l w).testBit i = (decide (i < w) && v.testBit (l + i)) := by
  unfold bits
  rw [Nat.testBit_mod_two_pow, Nat.testBit_div_two_pow, Nat.add_comm]

theorem putBits_split (v l w x : Nat) : putBits v l w x = 2 ^ l * (2 ^ w * (v / 2 ^ l / 2 ^ w) + x % 2 ^ w) + v % 2 ^ l := by
  have h1 := Nat.div_add_mod v (2 ^ l)
  have h2 := Nat.div_add_mod (v / 2 ^ l) (2 ^ w)
  have h3 : v = 2 ^ l * (2 ^ w * (v / 2 ^ l / 2 ^ w) + v / 2 ^ l % 2 ^ w) + v % 2 ^ l := by rw [h2]; exact h1.symm
  have h4 : bits v l w * 2 ^ l = 2 ^ l * (v / 2 ^ l % 2 ^ w) := Nat.mul_comm _ _
  have h5 : x % 2 ^ w * 2 ^ l = 2 ^ l * (x % 2 ^ w) := Nat.mul_comm _ _
  unfold putBits
  rw [h4, h5]
  rw [Nat.mul_add] at h3 ⊢
  omega

theorem putBits_testBit (v l w x i : Nat) : (putBits v l w x).testBit i = if l ≤ i ∧ i < l + w then x.testBit (i - l) else v.testBit i := by
  rw [putBits_split, Nat.testBit_two_pow_mul_add _ (Nat.mod_lt _ (Nat.two_pow_pos l))]
  by_cases h : i < l
  · rw [if_pos h, if_neg (by omega), Nat.testBit_mod_two_pow]
    simp [h]
  · rw [if_neg h, Nat.testBit_two_pow_mul_add _ (Nat.mod_lt _ (Nat.two_pow_pos w))]
    by_cases h2 : i - l < w
    · rw [if_pos h2, if_pos (by omega), Nat.testBit_mod_two_pow]
      simp [h2]
    · rw [if_neg h2, if_neg (by omega), Nat.testBit_div_two_pow, Nat.testBit_div_two_pow]
      congr 1
      omega

theorem bits_putBits_apart (v l w x k m : Nat) (h : k + m ≤ l ∨ l + w ≤ k) : bits (putBits v l w x) k m = bits v k m := by
  apply Nat.eq_of_testBit_eq
  intro i
  rw [bits_testBit, bits_testBit, putBits_testBit]
  by_cases hi : i < m
  · rw [if_neg (by omega)]
  · simp [hi]

variable {s t u : State}

/-- A field that shares no bit with the one written reads what it read. -/
theorem State.rd_wr_apart {f g : Fld} (v : Nat) (hs : Tbl.sorted s.regs = true) (hf : f.lsb + f.width ≤ 64) (h : Fld.apart g f) :
    (s.wr f v).rd g = s.rd g := by
  rcases h with h | ⟨hr, hb⟩
  · exact State.rd_wr_other s f g v h
  · by_cases ha : g.addr = f.addr
    · unfold State.rd State.regWord State.wr
      rw [ha, hr, Tbl.getD_setD_same _ _ _ _]
      have hlt : putBits (s.regWord f) f.lsb f.width v < 2 ^ 64 := putBits_lt (BitVec.isLt _) hf
      rw [BitVec.toNat_ofNat, Nat.mod_eq_of_lt hlt, bits_putBits_apart _ _ _ _ _ _ hb]
      rfl
    · exact State.rd_wr_other s f g v ha

theorem regsBut_refl (l : List Fld) : RegsBut s s l := fun _ _ => rfl

/-- A state with the same registers. -/
theorem regsBut_of_regs {l : List Fld} (h : t.regs = s.regs) : RegsBut s t l := by
  intro f _
  unfold State.rd State.regWord
  rw [h]

theorem regsBut_wr {f : Fld} {v : Nat} {l : List Fld} (hs : Tbl.sorted s.regs = true) (hf : f.lsb + f.width ≤ 64) (hl : f ∈ l) : RegsBut s (s.wr f v) l :=
  fun _ hg => State.rd_wr_apart v hs hf (hg f hl)

theorem regsBut_trans {l : List Fld} (h1 : RegsBut s t l) (h2 : RegsBut t u l) : RegsBut s u l := fun f hf => (h2 f hf).trans (h1 f hf)

theorem wr_sorted {f : Fld} {v : Nat} (hs : Tbl.sorted s.regs = true) : Tbl.sorted (s.wr f v).regs = true := Tbl.sorted_setD _ _ _ _ hs

theorem on_wr_same {f : Fld} {v : Nat} (hs : Tbl.sorted s.regs = true) (hf : f.lsb + f.width ≤ 64) : (s.wr f v).on f = (v % 2 ^ f.width != 0) := by
  unfold State.on
  rw [State.rd_wr_same s f v hs hf]

end Sys2Proof.Machine
end

