-- ==== Sys2Proof/WellFormed.lean ====
section
/-!
DEFINITION. Which commands are well formed: their port, die, link and field numbers lie in the ranges that the spec gives them. The block runs on any
command: one whose numbers name nothing finds nothing to act on.
-/
namespace Sys2Proof

/-- A port sequencer is one of 64, a host port one of 2 (R3, R8). -/
def Agent.wf : Agent → Bool
  | .portSeq n => decide (n < 64)
  | .host p => decide (p < 2)
  | .supervisor => true
  | .boot => true
  | .hardware => true

/-- The widths of Table 7-3. -/
def FrameHdr.wf (h : FrameHdr) : Bool :=
  decide (h.typ < 256 ∧ h.ver < 16 ∧ h.die < 16 ∧ h.seq < 4096 ∧ h.ackSeq < 4096 ∧ h.len ≤ 4608 ∧ h.len % 4 = 0 ∧ h.tag < 128 ∧
    h.cwIndex < 64 ∧ h.cmdFree < 256 ∧ h.dataFree < 256)

/-- A command's numbers lie in their ranges. -/
def Instr.wf (i : Instr) : Bool :=
  match i with
  | .powerOnResetRelease => true
  | .mainSupplyDrop _ => true
  | .vauxLoss => true
  | .registerWrite who a _ => who.wf && decide (a < 2 ^ 24)
  | .bar2MemoryWrite p _ _ _ => decide (p < 2)
  | .bar2MemoryRead p _ _ => decide (p < 2)
  | .fabricWordArrival link input _ _ _ _ => decide (link < 16 ∧ input < 16)
  | .outputLinkArbitration link ctl data => decide (link < 16) && ctl.all (fun i => decide (i < 16)) && data.all fun (d : Nat × Nat) => decide (d.1 < 16 ∧ 1 ≤ d.2 ∧ d.2 ≤ 8)
  | .pwrfailAssert => true
  | .pwrfailDeassert => true
  | .pwrfailReleaseExpiry => true
  | .dumpDirectoryPass => true
  | .mediaArbiterWindowEnd n => decide (n < 64)
  | .dieSchedulerEnqueue n => decide (n < 64)
  | .hostLinkUp p _ _ _ => decide (p < 2)
  | .tlpReceive p _ _ _ _ _ => decide (p < 2)
  | .configRequest p => decide (p < 2)
  | .hostReadCompletion _ _ _ _ _ _ _ bad => decide (bad < 8)
  | .completionTimeoutExpiry _ _ => true
  | .unexpectedCompletion p _ => decide (p < 2)
  | .dmaDrainComplete _ => true
  | .doorbellWrite p _ _ _ => decide (p < 2)
  | .msixVectorUnmask p v => decide (p < 2 ∧ v < 2 ^ 11)
  | .busMasterEnableClear p => decide (p < 2)
  | .perstAssert p => decide (p < 2)
  | .perstDeassert p => decide (p < 2)
  | .hotReset p => decide (p < 2)
  | .functionLevelReset p => decide (p < 2)
  | .controllerReset p => decide (p < 2)
  | .controllerEnable p _ _ _ => decide (p < 2)
  | .shutdownNotification p => decide (p < 2)
  | .d3hotEntry p => decide (p < 2)
  | .d0Return p => decide (p < 2)
  | .aspmIdleExpiry p => decide (p < 2)
  | .submissionFetch p _ cid _ => decide (p < 2 ∧ cid < 2 ^ 16)
  | .larderReservationGrant _ => true
  | .unitCommit _ _ => true
  | .readerResolve _ => true
  | .completionPost _ => true
  | .unsupportedOpcode _ => true
  | .deleteIoSubmissionQueue _ => true
  | .createIoSubmissionQueue _ => true
  | .deleteIoCompletionQueue _ => true
  | .createIoCompletionQueue _ => true
  | .getLogPage _ => true
  | .getLogPageDeferredErrors _ => true
  | .identify _ => true
  | .abort _ => true
  | .getFeatures _ => true
  | .setFeaturesArbitration _ => true
  | .setFeaturesPowerManagement _ => true
  | .setFeaturesTempThreshold _ => true
  | .setFeaturesErrorRecovery _ => true
  | .setFeaturesVolatileWriteCache _ => true
  | .setFeaturesNumberOfQueues _ => true
  | .setFeaturesInterruptCoalescing _ => true
  | .setFeaturesIntVectorConfig _ => true
  | .setFeaturesWriteAtomicity _ => true
  | .setFeaturesAsyncEventConfig _ => true
  | .setFeaturesApst _ => true
  | .setFeaturesTimestamp _ => true
  | .setFeaturesNopsConfig _ => true
  | .setFeaturesFdp _ => true
  | .setFeaturesFdpEvents _ => true
  | .setFeaturesSwProgressMarker _ => true
  | .asynchronousEventRequest _ => true
  | .namespaceManagement _ => true
  | .namespaceAttachment _ => true
  | .firmwareImageDownload _ => true
  | .fwCommitReplace _ => true
  | .fwCommitReplaceActivateReset _ => true
  | .fwCommitActivateExisting _ => true
  | .fwCommitActivateNow _ => true
  | .activationDrainComplete => true
  | .activationDrainTimeout => true
  | .deviceSelfTestShort _ => true
  | .deviceSelfTestExtended _ => true
  | .deviceSelfTestAbort _ => true
  | .directiveSend _ => true
  | .directiveReceive _ => true
  | .formatNvm _ => true
  | .securitySend _ => true
  | .securityReceive _ => true
  | .sanitizeCryptoErase _ => true
  | .sanitizeBlockErase _ => true
  | .getLbaStatus _ => true
  | .atticClear _ => true
  | .stairControlFence _ => true
  | .stairControlReadmit _ => true
  | .stairControlActivate _ => true
  | .flush _ => true
  | .write _ => true
  | .read _ => true
  | .writeUncorrectable _ => true
  | .compare _ => true
  | .writeZeroes _ => true
  | .datasetManagement _ => true
  | .verify _ => true
  | .ioManagementReceive _ => true
  | .ioManagementSend _ => true
  | .copy _ => true
  | .hallReportIdle => true
  | .apstIdleExpiry p entry => decide (p < 2 ∧ entry < 32)
  | .fetchEnableSet => true
  | .drainRequest => true
  | .backgroundHold _ => true
  | .overlayEmission _ => true
  | .journalBatchClose => true
  | .journalBatchDurable k => decide (k < 2)
  | .checkpointSegmentCopy => true
  | .consolidationCommit _ _ => true
  | .relocationCommit _ _ _ _ _ _ _ => true
  | .cacheFillComplete _ => true
  | .cacheWritebackComplete _ => true
  | .panMaintClean _ => true
  | .panMaintInv _ => true
  | .panMaintCleanInv _ => true
  | .panMaintCleanAll => true
  | .panInvAll => true
  | .pantryEnable => true
  | .pantryDisable => true
  | .mapSegmentRepair _ _ _ => true
  | .eraseMarkAppend _ => true
  | .recovery _ _ _ _ => true
  | .rebuildComplete _ _ member => decide (member ≤ 64)
  | .larderSlotUe _ => true
  | .paritySlotUe _ => true
  | .supplyDroop group => decide (group < 8)
  | .droopClearExpiry group => decide (group < 8)
  | .inhibitLongExpiry n die => decide (n < 64 ∧ die < 16)
  | .tempInhibitSuiteExpiry n die => decide (n < 64 ∧ die < 16)
  | .holdupOkChange _ => true
  | .wtForceSet _ => true
  | .dumpArmSet _ => true
  | .larderEnable _ => true
  | .larderDrain => true
  | .ldrBankRetire _ => true
  | .rdataFrame n h _ => decide (n < 64) && h.wf
  | .statusFrame n h _ _ _ => decide (n < 64) && h.wf
  | .ackFrame n h => decide (n < 64) && h.wf
  | .eventFrame n h _ _ _ _ _ _ => decide (n < 64) && h.wf
  | .hello n h _ _ _ _ _ _ _ => decide (n < 64) && h.wf
  | .switch n h _ => decide (n < 64) && h.wf
  | .eqReq n h _ => decide (n < 64) && h.wf
  | .eqRsp n h _ _ => decide (n < 64) && h.wf
  | .retrainReq n h _ => decide (n < 64) && h.wf
  | .recalDone n h => decide (n < 64) && h.wf
  | .tempRsp n h _ _ _ => decide (n < 64) && h.wf
  | .ackTimerExpiry n => decide (n < 64)
  | .replayTimerExpiry n => decide (n < 64)
  | .transmitFrameBoundary n => decide (n < 64)
  | .portTrain n => decide (n < 64)
  | .detectTimeout n => decide (n < 64)
  | .trainingTimeout n => decide (n < 64)
  | .recalibrationDue n => decide (n < 64)
  | .recalTimeout n => decide (n < 64)
  | .retrainTimeout n => decide (n < 64)
  | .receiveLockLoss n => decide (n < 64)
  | .portRetrain n => decide (n < 64)
  | .portRecal n => decide (n < 64)
  | .portRetire n _ => decide (n < 64)
  | .portHold n _ => decide (n < 64)
  | .noStatusTimeout n slot => decide (n < 64 ∧ slot < 32)
  | .tempPoll => true
  | .refclkOutputCtl _ => true
  | .descriptorHandover n die => decide (n < 64 ∧ die < 16)
  | .mov n _ _ _ => decide (n ≤ 64)
  | .add n _ _ _ => decide (n ≤ 64)
  | .sub n _ _ _ => decide (n ≤ 64)
  | .and_ n _ _ _ => decide (n ≤ 64)
  | .or_ n _ _ _ => decide (n ≤ 64)
  | .xor_ n _ _ _ => decide (n ≤ 64)
  | .shl n _ _ _ => decide (n ≤ 64)
  | .shr n _ _ _ => decide (n ≤ 64)
  | .sar n _ _ _ => decide (n ≤ 64)
  | .mul n _ _ _ => decide (n ≤ 64)
  | .mulhu n _ _ _ => decide (n ≤ 64)
  | .min n _ _ _ => decide (n ≤ 64)
  | .max n _ _ _ => decide (n ≤ 64)
  | .cnt n _ _ _ => decide (n ≤ 64)
  | .lzc n _ _ _ => decide (n ≤ 64)
  | .ldk n _ _ => decide (n ≤ 64)
  | .putk n _ _ => decide (n ≤ 64)
  | .addk n _ _ => decide (n ≤ 64)
  | .andk n _ _ => decide (n ≤ 64)
  | .ork n _ _ => decide (n ≤ 64)
  | .xork n _ _ => decide (n ≤ 64)
  | .shlk n _ _ => decide (n ≤ 64)
  | .shrk n _ _ => decide (n ≤ 64)
  | .sark n _ _ => decide (n ≤ 64)
  | .teq n _ _ _ => decide (n ≤ 64)
  | .tne n _ _ _ => decide (n ≤ 64)
  | .tlt n _ _ _ => decide (n ≤ 64)
  | .tge n _ _ _ => decide (n ≤ 64)
  | .tltu n _ _ _ => decide (n ≤ 64)
  | .tgeu n _ _ _ => decide (n ≤ 64)
  | .teqk n _ _ => decide (n ≤ 64)
  | .tnek n _ _ => decide (n ≤ 64)
  | .tltk n _ _ => decide (n ≤ 64)
  | .tgek n _ _ => decide (n ≤ 64)
  | .tbit n _ _ => decide (n ≤ 64)
  | .ld8 n _ _ _ => decide (n ≤ 64)
  | .ld4 n _ _ _ => decide (n ≤ 64)
  | .ld2 n _ _ _ => decide (n ≤ 64)
  | .ld1 n _ _ _ => decide (n ≤ 64)
  | .st8 n _ _ _ => decide (n ≤ 64)
  | .st4 n _ _ _ => decide (n ≤ 64)
  | .st2 n _ _ _ => decide (n ≤ 64)
  | .st1 n _ _ _ => decide (n ≤ 64)
  | .hld8 n _ _ _ => decide (n ≤ 64)
  | .hst8 n _ _ _ => decide (n ≤ 64)
  | .hld4 n _ _ _ => decide (n ≤ 64)
  | .hst4 n _ _ _ => decide (n ≤ 64)
  | .go n _ => decide (n ≤ 64)
  | .got n _ => decide (n ≤ 64)
  | .gof n _ => decide (n ≤ 64)
  | .call n _ => decide (n ≤ 64)
  | .gor n _ _ _ => decide (n ≤ 64)
  | .callr n _ _ _ => decide (n ≤ 64)
  | .ret n _ _ _ => decide (n ≤ 64)
  | .wait n _ _ _ => decide (n ≤ 64)
  | .post n _ _ _ => decide (n ≤ 64)
  | .trap n _ _ => decide (n ≤ 64)
  | .rtt n _ _ _ => decide (n ≤ 64)
  | .time n _ _ _ => decide (n ≤ 64)
  | .hsync n _ _ _ => decide (n ≤ 64)
  | .rds n _ _ => decide (n ≤ 64)
  | .missue n _ _ _ => decide (n ≤ 64)
  | .mctl n _ _ _ => decide (n ≤ 64)
  | .odone n _ _ _ => decide (n ≤ 64)
  | .opLimitExpiry n slot => decide (n < 64 ∧ slot < 32)
  | .sequencerRun n _ => decide (n < 64)
  | .sequencerHalt n _ => decide (n < 64)
  | .sequencerRestart n => decide (n < 64)
  | .seqLoadData n _ => decide (n < 64)
  | .seqMail n _ => decide (n ≤ 64)
  | .watchdogKick _ => true
  | .watchdogFirstExpiry => true
  | .watchdogReset => true
  | .hardDecodeDone n slot cw _ _ _ _ _ _ _ => decide (n < 64 ∧ slot < 32 ∧ cw < 64)
  | .softAdmissionCredit => true
  | .softJobAdmit => true
  | .softDecodeDone n slot cw _ _ _ _ _ => decide (n < 64 ∧ slot < 32 ∧ cw < 64)
  | .stripeRecoveryDone _ => true
  | .calibration n die _ => decide (n < 64 ∧ die < 16)
  | .calibrationDone n die _ _ _ => decide (n < 64 ∧ die < 16)
  | .tlerExpiry _ => true
  | .pacedReadRelease _ hp _ _ _ bad _ => decide (hp < 2 ∧ bad < 8)
  | .calRequest n die => decide (n < 64 ∧ die < 16)
  | .reclaimVictimChoice _ => true
  | .suiteEraseDone _ => true
  | .eraseFail _ member => decide (member < 32)
  | .staticWearDue _ => true
  | .patrolRead => true
  | .patrolLateExpiry => true
  | .retentionAgeExpiry _ => true
  | .openMaxExpiry _ => true
  | .foldRow _ => true
  | .consolidationStep => true
  | .ledgerWalkLost _ => true
  | .lifetimeCountUpdate => true
  | .suiteIdxWrite _ => true
  | .dramBurstRead _ _ _ _ _ => true
  | .sramSweep _ _ _ _ _ _ => true
  | .scrubRead _ _ _ => true
  | .scrubLateExpiry => true
  | .dramClear => true
  | .dramClearDone => true
  | .subchannelRetire k => decide (k < 2)
  | .ddrAlert k _ => decide (k < 2)
  | .subchannelRetrainTimeout k => decide (k < 2)
  | .subchannelRetrainDone k => decide (k < 2)
  | .bsmRemapWrite j _ => decide (j < 1024)
  | .remapCopyDone j => decide (j < 1024)
  | .contextStoreUe _ => true
  | .stgLockAcquire own => decide (own < 8)
  | .stgLockRelease own => decide (own < 8)
  | .kmeLockTimeout => true
  | .unwrapLoad own _ _ _ _ _ _ => decide (own < 8)
  | .generate own _ _ _ _ _ _ => decide (own < 8)
  | .rewrap own _ _ _ _ _ _ => decide (own < 8)
  | .zeroise own _ => decide (own < 8)
  | .eraseStale own => decide (own < 8)
  | .seedReplace own => decide (own < 8)
  | .verifyImage own _ => decide (own < 8)
  | .sign own _ _ => decide (own < 8)
  | .genNote own _ _ => decide (own < 8)
  | .kmeOperationDone _ => true
  | .entropyHealthFail => true
  | .tamperTrip bit => decide (bit < 16)
  | .jtagUnlock _ => true
  | .getVersion _ => true
  | .getCapabilities _ _ => true
  | .negotiateAlgorithms _ _ _ => true
  | .getDigests _ => true
  | .getCertificate _ _ _ _ => true
  | .challenge _ _ _ => true
  | .getMeasurements _ _ _ _ => true
  | .chunkGet _ _ => true
  | .closetProgram => true
  | .closetErase => true
  | .closetMarginRead => true
  | .closetOperationDone _ _ => true
  | .cloWpSet k _ => decide (k < 16)
  | .stdConfirm _ => true
  | .confirmationTimeout => true
  | .bootSlotChoice => true
  | .mgmtMessage buf => decide (buf < 2 ^ 32)
  | .linkWake port => decide (port < 2)
  | .wakeTimerExpiry => true
  | .i3cStaticAddressStart => true
  | .pllEnable => true
  | .pllLock => true
  | .clockSelect => true
  | .stdDomainEnWrite _ => true
  | .stdPadRelease => true
  | .refclkLoss => true
  | .lsoCorrection _ _ => true
  | .sensorConversion _ _ _ => true
  | .thermalStepRecompute => true
  | .powerGovernorTick _ => true
  | .portStepRecompute => true
  | .shutdownLatchClear => true
  | .operatingTimeRecord => true
  | .atcPostGo who code sev => who.wf && decide (code < 2 ^ 16 ∧ sev < 6)
  | .operatingSecondEnd => true
  | .atticMirrorProgram => true
  | .fullModePageProgram => true
  | .atcWinCursorWrite who w _ => who.wf && decide (w < 3)
  | .windowLatchDone w _ => decide (w < 3)
  | .atticCopyMove _ => true
  | .inServiceTestItem _ _ _ _ _ => true
  | .dstSegment _ _ => true
  | .dstLimitExpiry => true
  | .sjoin n h _ => decide (n < 64) && h.wf
  | .sjoinRsp n h _ => decide (n < 64) && h.wf
  | .sreqRead n h _ => decide (n < 64) && h.wf
  | .sreqWrite n h _ => decide (n < 64) && h.wf
  | .sreqDeallocate n h _ => decide (n < 64) && h.wf
  | .sreqWriteZeroes n h _ => decide (n < 64) && h.wf
  | .sreqWriteUncorrectable n h _ => decide (n < 64) && h.wf
  | .sreqFlush n h _ => decide (n < 64) && h.wf
  | .sreqNamespaceOperation n h _ => decide (n < 64) && h.wf
  | .sreqVerify n h _ => decide (n < 64) && h.wf
  | .sdata n h _ _ => decide (n < 64) && h.wf
  | .sdoneCommitted n h _ => decide (n < 64) && h.wf
  | .sdoneSettled n h _ => decide (n < 64) && h.wf
  | .stimeSend => true
  | .stime n h _ => decide (n < 64) && h.wf
  | .sevent n h _ => decide (n < 64) && h.wf
  | .sact n h _ => decide (n < 64) && h.wf
  | .stimeLossExpiry w => decide (w < 8)
  | .sjoinRetryExpiry w => decide (w < 8)
  | .stairResendDeadline w => decide (w < 8)
  | .doneTableExpiry => true
  | .fenceUnsettledExpiry w => decide (w < 8)
  | .activationRollbackExpiry => true
  | .entdaa addr => decide (addr < 128)
  | .bypass => true
  | .idcode => true
  | .samplePreload _ => true
  | .extest => true
  | .extestPulse => true
  | .extestTrain => true
  | .peerDetect n => decide (n < 64)
  | .lockRegained n => decide (n < 64)
  | .recalReq n h => decide (n < 64) && h.wf
  | .waitTimeout n => decide (n ≤ 64)
  | .aggregationTimeExpiry p _ => decide (p < 2)
  | .invalidateAllDone => true
  | .timedOutTagReuse p _ => decide (p < 2)
  | .vauxApply => true
  | .tempHistMinute => true

end Sys2Proof
end

