-- ==== Sys2Proof/Tests/Slice0.lean ====
section
/-!
SUPPORT. The model's own tests: ill-formed commands are refused by the check of well-formedness, the worked examples of the spec, a few single steps, and for
each statement with premises the states and operands that meet them.
-/
set_option Elab.async false
open Sys2Proof Sys2Proof.Machine
namespace Sys2Proof.Tests

/-! ## Ill-formed commands -/

theorem wf_refuses_header_fields : ([{ typ := 256 }, { ver := 16 }, { die := 16 }, { seq := 4096 }, { ackSeq := 4096 }, { len := 4612 }, { len := 2 }, { tag := 128 }, { cwIndex := 64 }, { cmdFree := 256 }, { dataFree := 256 }] : List FrameHdr).all (fun h => !h.wf) = true := by decide +kernel

theorem wf_refuses_agent_fields : ([.portSeq 64, .host 2] : List Agent).all (fun a => !a.wf) = true := by decide +kernel

theorem wf_refuses_agents : ([
    .registerWrite (.portSeq 64) 0 0, .atcPostGo (.portSeq 64) 0 0, .atcWinCursorWrite (.portSeq 64) 0 0] : List Instr).all (fun i => !i.wf) = true := by decide +kernel

theorem wf_refuses_other_numbers : ([
    .registerWrite .supervisor 16777216 0, .hostReadCompletion 0 0 0 0 false false false 8, .msixVectorUnmask 0 2048,
    .submissionFetch 0 0 65536 (.flush 1), .apstIdleExpiry 0 32, .journalBatchDurable 2, .rebuildComplete 0 0 65, .supplyDroop 8,
    .droopClearExpiry 8, .noStatusTimeout 0 32, .opLimitExpiry 0 32, .hardDecodeDone 0 32 0 false 0 0 0 0 0 none,
    .hardDecodeDone 0 0 64 false 0 0 0 0 0 none, .softDecodeDone 0 32 0 false 0 0 0 0, .softDecodeDone 0 0 64 false 0 0 0 0,
    .pacedReadRelease 0 0 false false false 8 0, .eraseFail 0 32, .subchannelRetire 2, .ddrAlert 2 false, .subchannelRetrainTimeout 2,
    .subchannelRetrainDone 2, .bsmRemapWrite 1024 0, .remapCopyDone 1024, .tamperTrip 16, .cloWpSet 16 0, .mgmtMessage 4294967296,
    .atcPostGo .supervisor 65536 0, .atcPostGo .supervisor 0 6, .entdaa 128] : List Instr).all (fun i => !i.wf) = true := by decide +kernel

theorem wf_refuses_host_ports : ([
    .bar2MemoryWrite 2 0 0 0, .bar2MemoryRead 2 0 0, .hostLinkUp 2 0 0 false, .tlpReceive 2 0 false false false none, .configRequest 2,
    .unexpectedCompletion 2 0, .doorbellWrite 2 0 false 0, .msixVectorUnmask 2 0, .busMasterEnableClear 2, .perstAssert 2, .perstDeassert 2,
    .hotReset 2, .functionLevelReset 2, .controllerReset 2, .controllerEnable 2 false 0 0, .shutdownNotification 2, .d3hotEntry 2, .d0Return 2,
    .aspmIdleExpiry 2, .submissionFetch 2 0 0 (.flush 1), .apstIdleExpiry 2 0, .pacedReadRelease 0 2 false false false 0 0, .linkWake 2,
    .aggregationTimeExpiry 2 0, .timedOutTagReuse 2 0] : List Instr).all (fun i => !i.wf) = true := by decide +kernel

theorem wf_refuses_links : ([
    .fabricWordArrival 16 0 0 0 0 false, .fabricWordArrival 0 16 0 0 0 false, .outputLinkArbitration 16 [] [], .outputLinkArbitration 0 [16] [],
    .outputLinkArbitration 0 [] [(16, 1)], .outputLinkArbitration 0 [] [(0, 0)], .outputLinkArbitration 0 [] [(0, 9)]] : List Instr).all (fun i => !i.wf) = true := by decide +kernel

theorem wf_refuses_ports_1 : ([
    .mediaArbiterWindowEnd 64, .dieSchedulerEnqueue 64, .inhibitLongExpiry 64 0, .tempInhibitSuiteExpiry 64 0, .rdataFrame 64 {} [],
    .statusFrame 64 {} 0 0 0, .ackFrame 64 {}, .eventFrame 64 {} 0 0 0 0 0 0, .hello 64 {} 0 0 0 0 0 0 0, .switch 64 {} 0, .eqReq 64 {} 0,
    .eqRsp 64 {} 0 0, .retrainReq 64 {} 0, .recalDone 64 {}, .tempRsp 64 {} 0 0 false, .ackTimerExpiry 64, .replayTimerExpiry 64,
    .transmitFrameBoundary 64, .portTrain 64, .detectTimeout 64, .trainingTimeout 64, .recalibrationDue 64, .recalTimeout 64, .retrainTimeout 64,
    .receiveLockLoss 64, .portRetrain 64, .portRecal 64, .portRetire 64 0, .portHold 64 false, .noStatusTimeout 64 0] : List Instr).all (fun i => !i.wf) = true := by decide +kernel

theorem wf_refuses_ports_2 : ([
    .descriptorHandover 64 0, .mov 65 0 0 0, .add 65 0 0 0, .sub 65 0 0 0, .and_ 65 0 0 0, .or_ 65 0 0 0, .xor_ 65 0 0 0, .shl 65 0 0 0,
    .shr 65 0 0 0, .sar 65 0 0 0, .mul 65 0 0 0, .mulhu 65 0 0 0, .min 65 0 0 0, .max 65 0 0 0, .cnt 65 0 0 0, .lzc 65 0 0 0, .ldk 65 0 0,
    .putk 65 0 0, .addk 65 0 0, .andk 65 0 0, .ork 65 0 0, .xork 65 0 0, .shlk 65 0 0, .shrk 65 0 0, .sark 65 0 0, .teq 65 0 0 0, .tne 65 0 0 0,
    .tlt 65 0 0 0, .tge 65 0 0 0, .tltu 65 0 0 0] : List Instr).all (fun i => !i.wf) = true := by decide +kernel

theorem wf_refuses_ports_3 : ([
    .tgeu 65 0 0 0, .teqk 65 0 0, .tnek 65 0 0, .tltk 65 0 0, .tgek 65 0 0, .tbit 65 0 0, .ld8 65 0 0 0, .ld4 65 0 0 0, .ld2 65 0 0 0, .ld1 65 0 0 0,
    .st8 65 0 0 0, .st4 65 0 0 0, .st2 65 0 0 0, .st1 65 0 0 0, .hld8 65 0 0 0, .hst8 65 0 0 0, .hld4 65 0 0 0, .hst4 65 0 0 0, .go 65 0, .got 65 0,
    .gof 65 0, .call 65 0, .gor 65 0 0 0, .callr 65 0 0 0, .ret 65 0 0 0, .wait 65 0 0 0, .post 65 0 0 0, .trap 65 0 0, .rtt 65 0 0 0, .time 65 0 0 0] : List Instr).all (fun i => !i.wf) = true := by decide +kernel

theorem wf_refuses_ports_4 : ([
    .hsync 65 0 0 0, .rds 65 0 0, .missue 65 0 0 0, .mctl 65 0 0 0, .odone 65 0 0 0, .opLimitExpiry 64 0, .sequencerRun 64 0, .sequencerHalt 64 0,
    .sequencerRestart 64, .seqLoadData 64 0, .seqMail 65 0, .hardDecodeDone 64 0 0 false 0 0 0 0 0 none, .softDecodeDone 64 0 0 false 0 0 0 0,
    .calibration 64 0 0, .calibrationDone 64 0 0 0 false, .calRequest 64 0, .sjoin 64 {} {}, .sjoinRsp 64 {} {}, .sreqRead 64 {} {},
    .sreqWrite 64 {} {}, .sreqDeallocate 64 {} {}, .sreqWriteZeroes 64 {} {}, .sreqWriteUncorrectable 64 {} {}, .sreqFlush 64 {} {},
    .sreqNamespaceOperation 64 {} {}, .sreqVerify 64 {} {}, .sdata 64 {} 0 0, .sdoneCommitted 64 {} {}, .sdoneSettled 64 {} {}, .stime 64 {} {}] : List Instr).all (fun i => !i.wf) = true := by decide +kernel

theorem wf_refuses_ports_5 : ([
    .sevent 64 {} (.changed {}), .sact 64 {} .activate, .peerDetect 64, .lockRegained 64, .recalReq 64 {}, .waitTimeout 65] : List Instr).all (fun i => !i.wf) = true := by decide +kernel

theorem wf_refuses_dies : ([
    .inhibitLongExpiry 0 16, .tempInhibitSuiteExpiry 0 16, .descriptorHandover 0 16, .calibration 0 16 0, .calibrationDone 0 16 0 0 false,
    .calRequest 0 16] : List Instr).all (fun i => !i.wf) = true := by decide +kernel

theorem wf_refuses_headers : ([
    .rdataFrame 0 { typ := 256 } [], .statusFrame 0 { typ := 256 } 0 0 0, .ackFrame 0 { typ := 256 }, .eventFrame 0 { typ := 256 } 0 0 0 0 0 0,
    .hello 0 { typ := 256 } 0 0 0 0 0 0 0, .switch 0 { typ := 256 } 0, .eqReq 0 { typ := 256 } 0, .eqRsp 0 { typ := 256 } 0 0,
    .retrainReq 0 { typ := 256 } 0, .recalDone 0 { typ := 256 }, .tempRsp 0 { typ := 256 } 0 0 false, .sjoin 0 { typ := 256 } {},
    .sjoinRsp 0 { typ := 256 } {}, .sreqRead 0 { typ := 256 } {}, .sreqWrite 0 { typ := 256 } {}, .sreqDeallocate 0 { typ := 256 } {},
    .sreqWriteZeroes 0 { typ := 256 } {}, .sreqWriteUncorrectable 0 { typ := 256 } {}, .sreqFlush 0 { typ := 256 } {},
    .sreqNamespaceOperation 0 { typ := 256 } {}, .sreqVerify 0 { typ := 256 } {}, .sdata 0 { typ := 256 } 0 0, .sdoneCommitted 0 { typ := 256 } {},
    .sdoneSettled 0 { typ := 256 } {}, .stime 0 { typ := 256 } {}, .sevent 0 { typ := 256 } (.changed {}), .sact 0 { typ := 256 } .activate,
    .recalReq 0 { typ := 256 }] : List Instr).all (fun i => !i.wf) = true := by decide +kernel

theorem wf_refuses_lock_owners : ([
    .stgLockAcquire 8, .stgLockRelease 8, .unwrapLoad 8 0 0 0 0 0 0, .generate 8 0 0 0 0 0 0, .rewrap 8 0 0 0 0 0 0, .zeroise 8 0, .eraseStale 8,
    .seedReplace 8, .verifyImage 8 0, .sign 8 0 0, .genNote 8 0 0] : List Instr).all (fun i => !i.wf) = true := by decide +kernel

theorem wf_refuses_workers_and_windows : ([
    .atcWinCursorWrite .supervisor 3 0, .windowLatchDone 3 [], .stimeLossExpiry 8, .sjoinRetryExpiry 8, .stairResendDeadline 8,
    .fenceUnsettledExpiry 8] : List Instr).all (fun i => !i.wf) = true := by decide +kernel

theorem wf_accepts : Instr.wf (.rdataFrame 63 { typ := 3, len := 4608 } []) = true := by decide +kernel

/-! ## The spec's worked examples -/

/-- The word after R407: data bit 147 wrong gives ST 0x0200, SM 0x0008 and SS 1, which is row 9 and column 3. -/
theorem test_casement_single_error :
    let w := flipCas (casEncode 0x123456789ABCDEF) 147
    synT w = 0x0200 ∧ synM w = 0x0008 ∧ synS w = true ∧ casDecode w = .data 147 := by decide +kernel

/-- With bit 150 of the same word wrong as well: ST 0, SM 0x0048, SS 0, and no correctable row. -/
theorem test_casement_double_error :
    let w := flipCas (flipCas (casEncode 0x123456789ABCDEF) 147) 150
    synT w = 0 ∧ synM w = 0x0048 ∧ synS w = false ∧ casDecode w = .bad := by decide +kernel

/-- R408: the poison pattern yields 16 ones in each syndrome. -/
theorem test_casement_poison : synT casPoison = 0xFFFF ∧ synM casPoison = 0xFFFF ∧ casDecode casPoison = .poisoned := by decide +kernel

/-- Table 5-7, step 6: LOC of suite 0xB02, unit 0x510. -/
theorem test_place_location : locWord 0xB02 0x510 = 0x2C0800510 := by decide +kernel

/-- After Table 5-7: entry 0xFF of the extent at suite 0xA31, unit 0x3F000 stands at unit 0x3F0FF. -/
theorem test_extent_last_unit : extUnit {} (fun _ => []) (.media 0xA31 0x3F000) 0xFF = { kind := .media 0xA31 0x3F0FF } := by decide +kernel

/-- R182: the set is LA[13:0] XOR LA[27:14], the tag LA[28:14]. -/
theorem test_cache_set_and_tag : lineSet 0x10007FFF = 0x3FFE ∧ lineTag 0x10007FFF = 0x4001 := by decide +kernel

/-- CRC-32C has the published check value over the nine digits. -/
theorem test_crc32c_check_value : crc32c [0x31, 0x32, 0x33, 0x34, 0x35, 0x36, 0x37, 0x38, 0x39] = 0xE3069283 := by decide +kernel

/-- R171, Table 5-7: the extent before (suite 0xA31, unit 0x3F000), after the split (group 0x12C45), and entries 0xFF and 0x25 of the group. -/
theorem test_map_words :
    ExtEnt.word 0 (.media 0xA31 0x3F000) = 0x203F00000A310000 ∧ ExtEnt.word 256 (.split 0x12C45) = 0x400000012C450100 ∧
      UnitEnt.word { kind := .media 0xA31 0x3F0FF } = 0x203F0FF00A310000 ∧ UnitEnt.word { kind := .media 0xB02 0x510 } = 0x200051000B020000 := by
  decide +kernel
/-! ## Small states -/

/-- The block running in PS0, from reset. -/
def up : State := { State.reset with pwr := { por := false } }

/-- A sequencer that executes the word `w` at address `pc` of the code area of port 3. -/
def seqAt (w pc : Nat) (q : Seq) : State :=
  { up with seqs := [(3, { q with state := 1, pc := pc, ram := Tbl.writeBytes q.ram 0 pc 4 w })] }

def r1 : BitVec 5 := 1
def r2 : BitVec 5 := 2

/-- A host port that is up, its controller enabled and ready. -/
def livePort : HPort := { perst := false, up := true, rate := 5, width := 4, lstate := 0, bme := true, en := true, rdy := true }

/-- The block in PS0 with host port 0 up, its controller ready. -/
def live : State := { up with porch := { ports := [(0, livePort)] } }

/-- The state of an outcome; the state before where there is none. -/
def next (s : State) (o : Host.Outcome State Fault Refusal) : State :=
  match o with
  | .next t => t
  | _ => s

/-! ## Single steps -/

/-- Sequencer 3 before the word `w`, with g1 = a and g2 = b. -/
def pair (w : Nat) (a b : U64) : State := seqAt w 0 { g := [(1, a), (2, b)] }

theorem test_add_wraps : ((next up (exec (.add 3 1 2 0) (pair (wordP 0x02 1 2 0) (-1) 1))).seq 3).reg 1 = 0 := by decide +kernel
theorem test_sub_order : ((next up (exec (.sub 3 1 2 0) (pair (wordP 0x03 1 2 0) 1 3))).seq 3).reg 1 = -2 := by decide +kernel
theorem test_sar_keeps_sign : ((next up (exec (.sar 3 1 2 0) (pair (wordP 0x09 1 2 0) 0x8000000000000000 63))).seq 3).reg 1 = -1 := by decide +kernel
theorem test_shl_takes_six_bits : ((next up (exec (.shl 3 1 2 0) (pair (wordP 0x07 1 2 0) 1 65))).seq 3).reg 1 = 2 := by decide +kernel
theorem test_mulhu_of_ones : ((next up (exec (.mulhu 3 1 2 0) (pair (wordP 0x0B 1 2 0) (-1) (-1)))).seq 3).reg 1 = -2 := by decide +kernel
theorem test_min_is_signed : ((next up (exec (.min 3 1 2 0) (pair (wordP 0x0C 1 2 0) 1 (-1)))).seq 3).reg 1 = -1 := by decide +kernel
theorem test_lzc_of_zero : ((next up (exec (.lzc 3 1 2 0) (pair (wordP 0x0F 1 2 0) 7 0))).seq 3).reg 1 = 64 := by decide +kernel
theorem test_ldk_extends_sign : ((next up (exec (.ldk 3 1 0x40000) (seqAt (wordK 0x10 1 0x40000) 0 {}))).seq 3).reg 1 = 0xFFFFFFFFFFFC0000 := by decide +kernel
theorem test_g0_takes_no_write : ((next up (exec (.ldk 3 0 5) (seqAt (wordK 0x10 0 5) 0 {}))).seq 3).reg 0 = 0 := by decide +kernel
theorem test_tlt_is_signed : ((next up (exec (.tlt 3 1 2 0) (pair (wordP 0x22 1 2 0) (-1) 0))).seq 3).t = true := by decide +kernel
theorem test_tltu_is_unsigned : ((next up (exec (.tltu 3 1 2 0) (pair (wordP 0x24 1 2 0) (-1) 0))).seq 3).t = false := by decide +kernel
theorem test_ld2_is_little_endian :
    ((next up (exec (.ld2 3 1 2 0) (seqAt (wordP 0x32 1 2 0) 0 { g := [(2, 0x3000)], ram := [(0x3000, 0x34), (0x3001, 0x92)] }))).seq 3).reg 1 = 0x9234 := by
  decide +kernel
theorem test_call_pushes : ((next up (exec (.call 3 4) (seqAt (wordJ 0x43 4) 0x10 {}))).seq 3).rstack = [0x14] := by decide +kernel

/-- A command at the front of the queue is taken, and the rest stays. -/
theorem test_step_takes_front : (next up (step { up with pending := [.softAdmissionCredit, .stimeSend] })).pending = [.stimeSend] := by decide +kernel
/-- R335's bucket holds at most 16 credits. -/
theorem test_soft_credit_cap : (next up (exec .softAdmissionCredit up)).lnd.credit = 16 := by decide +kernel
/-- R505: protection is added whatever the lock, never removed. -/
theorem test_protection_only_added :
    let s := next up (exec (.cloWpSet 15 6) (up.wr (CLO_WP.PROT 15) 0))
    s.rd (CLO_WP.PROT 15) = 6 ∧ (next up (exec (.cloWpSet 15 1) s)).rd (CLO_WP.PROT 15) = 7 := by decide +kernel

/-! ## The premises of the statements are met -/

/-- The premises of `Obligations.GynumPairOps`: each of its words stands ready, with the last general registers. -/
theorem witness_GynumPairOps : ∀ op ∈ [0x01, 0x02, 0x03, 0x04, 0x05, 0x06, 0x07, 0x08, 0x09, 0x0A, 0x0B, 0x0C, 0x0D, 0x0E, 0x0F],
    (seqAt (wordP op 31 30 0) 0x10 {}).inv = true ∧ Ready (seqAt (wordP op 31 30 0) 0x10 {}) 3 (wordP op 31 30 0) := by
  decide +kernel

theorem witness_GynumConstOps : ∀ op ∈ [0x10, 0x11, 0x12, 0x13, 0x14, 0x15, 0x16, 0x17, 0x18],
    (seqAt (wordK op 1 0x7FFFF) 0x10 {}).inv = true ∧ Ready (seqAt (wordK op 1 0x7FFFF) 0x10 {}) 3 (wordK op 1 0x7FFFF) := by
  decide +kernel

/-- What PUTK writes: lane 3 of a register that reads zero, its value all ones. -/
theorem witness_GynumConstOps_putk : ∀ i < 64, (0xFFFF000000000000 : U64).getLsbD i =
    if 48 ≤ i ∧ i < 48 + 16 then (0x3FFFF : BitVec 19).getLsbD (i - 48) else ((seqAt 0 0 {}).seq 3).reg 1 |>.getLsbD i := by decide +kernel

theorem witness_GynumTests :
    (∀ op ∈ [0x20, 0x21, 0x22, 0x23, 0x24, 0x25],
      (seqAt (wordP op 1 2 0) 0x10 {}).inv = true ∧ Ready (seqAt (wordP op 1 2 0) 0x10 {}) 3 (wordP op 1 2 0)) ∧
    ∀ op ∈ [0x26, 0x27, 0x28, 0x29, 0x2A],
      (seqAt (wordK op 1 0x40000) 0x10 {}).inv = true ∧ Ready (seqAt (wordK op 1 0x40000) 0x10 {}) 3 (wordK op 1 0x40000) := by
  decide +kernel

/-- Register g2 names the last eight bytes that the access allows: of the local RAM for a load, of the space that a port may store to. -/
theorem witness_GynumLocalAccess :
    (∀ p ∈ [(0x30, 8), (0x31, 4), (0x32, 2), (0x33, 1)],
      (seqAt (wordP p.1 1 2 0) 0 { g := [(2, 0x3FF8)] }).inv = true ∧
      Ready (seqAt (wordP p.1 1 2 0) 0 { g := [(2, 0x3FF8)] }) 3 (wordP p.1 1 2 0) ∧
      (((seqAt (wordP p.1 1 2 0) 0 { g := [(2, 0x3FF8)] }).seq 3).reg 2 + (0 : BitVec 14).signExtend 64).toNat % p.2 = 0 ∧ localLoadOk 3 0x3FF8 = true ∧
      localBad (seqAt (wordP p.1 1 2 0) 0 { g := [(2, 0x3FF8)] }) 3 0x3FF8 = false) ∧
    ∀ p ∈ [(0x34, 8), (0x35, 4), (0x36, 2), (0x37, 1)],
      (seqAt (wordP p.1 1 2 0) 0 { g := [(2, 0x37F8)] }).inv = true ∧
      Ready (seqAt (wordP p.1 1 2 0) 0 { g := [(2, 0x37F8)] }) 3 (wordP p.1 1 2 0) ∧
      (((seqAt (wordP p.1 1 2 0) 0 { g := [(2, 0x37F8)] }).seq 3).reg 2 + (0 : BitVec 14).signExtend 64).toNat % p.2 = 0 ∧ localStoreOk 3 0x37F8 = true ∧
      localBad (seqAt (wordP p.1 1 2 0) 0 { g := [(2, 0x37F8)] }) 3 0x37F8 = false := by
  decide +kernel

/-- Register g2 names the port's own CEL_PORT_CFG. -/
theorem witness_GynumHouseAccess : ∀ p ∈ [(0x38, 8), (0x39, 8), (0x3A, 4), (0x3B, 4)],
    (seqAt (wordP p.1 1 2 0) 0 { g := [(2, 0x303000)] }).inv = true ∧
    Ready (seqAt (wordP p.1 1 2 0) 0 { g := [(2, 0x303000)] }) 3 (wordP p.1 1 2 0) ∧
    (((seqAt (wordP p.1 1 2 0) 0 { g := [(2, 0x303000)] }).seq 3).reg 2 + (0 : BitVec 14).signExtend 64).toNat = 0x303000 ∧
    0x303000 % p.2 = 0 ∧ houseStoreOk 3 0x303000 = true := by
  decide +kernel

/-- A stack of seven entries takes one more; a jump at the last word of the code area. -/
theorem witness_GynumJumps :
    (∀ op ∈ [0x40, 0x41, 0x42, 0x43],
      (seqAt (wordJ op 0xFFFFFF) 0x2BFC { rstack := [8, 8, 8, 8, 8, 8, 8] }).inv = true ∧
      Ready (seqAt (wordJ op 0xFFFFFF) 0x2BFC { rstack := [8, 8, 8, 8, 8, 8, 8] }) 3 (wordJ op 0xFFFFFF)) ∧
    (∀ op ∈ [0x44, 0x45],
      (seqAt (wordP op 1 0 0) 0 { g := [(1, 0x1000)], rstack := [8, 8, 8, 8, 8, 8, 8] }).inv = true ∧
      Ready (seqAt (wordP op 1 0 0) 0 { g := [(1, 0x1000)], rstack := [8, 8, 8, 8, 8, 8, 8] }) 3 (wordP op 1 0 0) ∧
      (((seqAt (wordP op 1 0 0) 0 { g := [(1, 0x1000)], rstack := [8, 8, 8, 8, 8, 8, 8] }).seq 3).reg 1).toNat % 4 = 0) ∧
    Ready (seqAt (wordP 0x46 0 0 0) 0 { rstack := [8] }) 3 (wordP 0x46 0 0 0) := by
  decide +kernel

theorem witness_GynumSystem :
    (∀ p ∈ [(0x53, 0), (0x54, 1), (0x55, 0)],
      (seqAt (wordP p.1 p.2 0 0) 0 {}).inv = true ∧ Ready (seqAt (wordP p.1 p.2 0 0) 0 {}) 3 (wordP p.1 p.2 0 0)) ∧
    ((seqAt (wordK 0x52 0 0x7FFFF) 0 {}).seq 3).inTrap = false ∧ Ready (seqAt (wordK 0x52 0 0x7FFFF) 0 {}) 3 (wordK 0x52 0 0x7FFFF) ∧
    ∀ k ∈ [0, 1, 2, 3, 4, 5, 6, 7, 0x7FFFF],
      Ready (seqAt (wordK 0x56 1 (BitVec.ofNat 19 k)) 0 {}) 3 (wordK 0x56 1 (BitVec.ofNat 19 k)) := by
  decide +kernel

/-- Register g2 holds an odd address, and then one just past a space; g1 a misaligned target; the stack is full, and then empty. -/
theorem witness_GynumTraps :
    (∀ op ∈ [0x30, 0x34, 0x38, 0x39, 0x31, 0x35, 0x3A, 0x3B, 0x32, 0x36],
      (seqAt (wordP op 1 2 0) 0 { g := [(2, 0x1001)] }).inv = true ∧ ((seqAt (wordP op 1 2 0) 0 { g := [(2, 0x1001)] }).seq 3).inTrap = false ∧
      Ready (seqAt (wordP op 1 2 0) 0 { g := [(2, 0x1001)] }) 3 (wordP op 1 2 0) ∧ 0x1001 % 8 ≠ 0 ∧ 0x1001 % 4 ≠ 0 ∧ 0x1001 % 2 ≠ 0) ∧
    (∀ op ∈ [0x44, 0x45], Ready (seqAt (wordP op 1 0 0) 0 { g := [(1, 0x1002)] }) 3 (wordP op 1 0 0) ∧ 0x1002 % 4 ≠ 0) ∧
    (Ready (seqAt (wordP 0x33 1 2 0) 0 { g := [(2, 0x4000)] }) 3 (wordP 0x33 1 2 0) ∧ localLoadOk 3 0x4000 = false) ∧
    (Ready (seqAt (wordP 0x37 1 2 0) 0 { g := [(2, 0x3800)] }) 3 (wordP 0x37 1 2 0) ∧ localStoreOk 3 0x3800 = false) ∧
    (Ready (seqAt (wordP 0x39 1 2 0) 0 { g := [(2, 0x304000)] }) 3 (wordP 0x39 1 2 0) ∧ houseStoreOk 3 0x304000 = false ∧ 0x304000 % 8 = 0) ∧
    (Ready (seqAt (wordJ 0x43 1) 0 { rstack := [4, 4, 4, 4, 4, 4, 4, 4] }) 3 (wordJ 0x43 1)) ∧
    (Ready (seqAt (wordP 0x45 1 0 0) 0 { g := [(1, 0x1000)], rstack := [4, 4, 4, 4, 4, 4, 4, 4] }) 3 (wordP 0x45 1 0 0)) ∧
    Ready (seqAt (wordP 0x46 0 0 0) 0 {}) 3 (wordP 0x46 0 0 0) := by
  refine ⟨?_, ?_, ?_, ?_, ?_, ?_, ?_, ?_⟩ <;> decide +kernel

def mailMask : BitVec 14 := 0x200
def w2a : State := seqAt (wordP 0x50 1 0 0x200) 0 { evq := [0x08, 0x09] }
def w2b : State := seqAt (wordP 0x50 1 0 0x200) 0 { evq := [0x08] }
def w2c : State := { up with seqs := [(3, { state := 2, wait := some { rd := 1, mask := 0x200, deadline := some 5 } })] }
def w2d : State := seqAt (wordP 0x51 1 0 0) 0 {}
def w2e : State := { up with seqs := [(3, { evq := List.replicate 64 0x09 })] }

/-- The premises of `Obligations.SequencerEvents` are met, clause by clause. -/
theorem witness_SequencerEvents :
    w2a.inv = true ∧ Ready w2a 3 (wordP 80 r1 (0#5) mailMask) ∧ (3 = 64 → pwrMode w2a = 0) ∧ (w2a.seq 3).evq = [8] ++ [9] ∧
    evSelected 3 mailMask.toNat 9 = true ∧ ([8].all fun x => decide (evSelected 3 mailMask.toNat x = false)) = true ∧ 3 < 64 ∧ populated w2a 3 = true ∧
    (w2a.seq 3).wait = none ∧ (w2a.seq 3).held = [] ∧ (w2a.seq 3).evq.length < 64 ∧ w2b.inv = true ∧ Ready w2b 3 (wordP 80 r1 (0#5) mailMask) ∧
    (3 = 64 → pwrMode w2b = 0) ∧ ((w2b.seq 3).evq.all fun x => decide (evSelected 3 mailMask.toNat x = false)) = true ∧ w2c.inv = true ∧
    (w2c.seq 3).wait = some { rd := 1, mask := 512, deadline := some 5 } ∧ (w2c.seq 3).state = 2 ∧ w2d.inv = true ∧ Ready w2d 3 (wordP 81 r1 0#5 0#14) ∧
    (w2d.seq 64).wait = none ∧ (w2d.seq 64).held = [] ∧ (w2d.seq 64).evq.length < 64 ∧ w2e.inv = true ∧ populated w2e 3 = true ∧
    (w2e.seq 3).evq.length = 64 := by
  repeat' apply And.intro
  all_goals decide +kernel

def readOp : DieOp := { kind := 1, die := 0, cwCount := 1, issuer := .test }
def readHw : DescHw := { op := readOp }
def w2f : State :=
  (seqAt (wordP 0x60 1 2 0) 0 { g := [(2, 0x3000)], ram := [(0x3003, 2), (0x3010, 9), (0x3011, 1), (0x3800, 1)], descs := [(0, readHw)] }).wr
    (CEL_DIE_MAP.PRESENT 3) 1
def w2g : State := (seqAt (wordP 0x61 1 2 0) 0 { g := [(1, 0x600), (2, 0x3000)], ram := [(0x3003, 2), (0x3010, 1), (0x3011, 0xFF)] }).wr (CEL_DIE_MAP.PRESENT 3) 1
def w2h : State := seqAt (wordP 0x62 1 2 0) 0 { g := [(2, 2)], descs := [(0, readHw)] }
def w2i : State :=
  { seqAt 0 0 { ram := [(0x3800, 1)], descs := [(0, readHw)] } with pwr := { por := false, time := 5000000 } }

/-- The premises of `Obligations.SequencerMedia` are met, clause by clause. -/
theorem witness_SequencerMedia :
    w2f.inv = true ∧ 3 < 64 ∧ Ready w2f 3 (wordP 96 r1 r2 0#14) ∧ r1 ≠ 0 ∧
    (w2f.seq 3).descs.find (BitVec.toNat ((w2f.seq 3).reg r1.toNat)) = some readHw ∧ readHw.ended = false ∧
    (descByte w2f 3 (BitVec.toNat ((w2f.seq 3).reg r1.toNat)) 0 1 = 1 ∨ descByte w2f 3 (BitVec.toNat ((w2f.seq 3).reg r1.toNat)) 0 1 = 2) ∧
    localLoadOk 3 (BitVec.toNat ((w2f.seq 3).reg r2.toNat)) = true ∧ localLoadOk 3 (BitVec.toNat ((w2f.seq 3).reg r2.toNat) + 63) = true ∧
    portRetired w2f 3 = false ∧ diePresent w2f 3 readHw.op.die = true ∧
    cycLenOk (localRead w2f 3 (BitVec.toNat ((w2f.seq 3).reg r2.toNat) + 3) 1) = true ∧
    ((readCycles w2f 3 (BitVec.toNat ((w2f.seq 3).reg r2.toNat) + 16) (localRead w2f 3 (BitVec.toNat ((w2f.seq 3).reg r2.toNat) + 3) 1)).all fun e =>
    elemOkData readHw.op.kind readHw.op.planes (w2f.rd (CEL_SEQ_ROWFMT.PAGE_BITS 3)) (recipeVerify w2f 3 (BitVec.toNat ((w2f.seq 3).reg r1.toNat)))
      e) =
  true ∧
    (if readHw.op.kind = 2 then
    readHw.cwSent +
      cwSum 8 (readCycles w2f 3 (BitVec.toNat ((w2f.seq 3).reg r2.toNat) + 16) (localRead w2f 3 (BitVec.toNat ((w2f.seq 3).reg r2.toNat) + 3) 1))
  else
    readHw.cwSent +
      cwSum 9 (readCycles w2f 3 (BitVec.toNat ((w2f.seq 3).reg r2.toNat) + 16) (localRead w2f 3 (BitVec.toNat ((w2f.seq 3).reg r2.toNat) + 3) 1))) ≤
  cwBound w2f 3 (BitVec.toNat ((w2f.seq 3).reg r1.toNat)) readHw.op ∧
    cwSum 9 (readCycles w2f 3 (BitVec.toNat ((w2f.seq 3).reg r2.toNat) + 16) (localRead w2f 3 (BitVec.toNat ((w2f.seq 3).reg r2.toNat) + 3) 1)) ≤
  cwBound w2f 3 (BitVec.toNat ((w2f.seq 3).reg r1.toNat)) readHw.op ∧
    (readHw.op.kind = 3 → eraseAllowed w2f 3 readHw.op = true) ∧ readHw.open_.length < 4 ∧ w2g.inv = true ∧ Ready w2g 3 (wordP 97 r1 r2 0#14) ∧
    localLoadOk 3 (BitVec.toNat ((w2g.seq 3).reg r2.toNat)) = true ∧ localLoadOk 3 (BitVec.toNat ((w2g.seq 3).reg r2.toNat) + 63) = true ∧
    portRetired w2g 3 = false ∧ 6 ≤ BitVec.toNat ((w2g.seq 3).reg r1.toNat) / 2 ^ 8 % 16 ∧ BitVec.toNat ((w2g.seq 3).reg r1.toNat) / 2 ^ 8 % 16 ≤ 9 ∧
    cycLenOk (localRead w2g 3 (BitVec.toNat ((w2g.seq 3).reg r2.toNat) + 3) 1) = true ∧
    (readCycles w2g 3 (BitVec.toNat ((w2g.seq 3).reg r2.toNat) + 16) (localRead w2g 3 (BitVec.toNat ((w2g.seq 3).reg r2.toNat) + 3) 1)).all
    (elemOkCtl (BitVec.toNat ((w2g.seq 3).reg r1.toNat) / 2 ^ 8 % 16)) =
  true ∧
    diePresent w2g 3 (BitVec.toNat ((w2g.seq 3).reg r1.toNat) % 16) = true ∧
    arrayOp w2g 3 (readCycles w2g 3 (BitVec.toNat ((w2g.seq 3).reg r2.toNat) + 16) (localRead w2g 3 (BitVec.toNat ((w2g.seq 3).reg r2.toNat) + 3) 1)) =
  none ∧
    (w2g.seq 3).paramBusy = false ∧
    ((w2g.port 3).dieQ.getD (BitVec.toNat ((w2g.seq 3).reg r1.toNat) % 16) []).length +
    List.countP (fun c => c.die == BitVec.toNat ((w2g.seq 3).reg r1.toNat) % 16) (w2g.port 3).ctl <
  8 ∧
    w2h.inv = true ∧ Ready w2h 3 (wordP 98 r1 r2 0#14) ∧ (w2h.seq 3).descs.find (BitVec.toNat ((w2h.seq 3).reg r1.toNat)) = some readHw ∧
    (BitVec.toNat ((w2h.seq 3).reg r2.toNat) = 1 ∧ passEarned w2h 3 (BitVec.toNat ((w2h.seq 3).reg r1.toNat)) readHw = true ∨
  BitVec.toNat ((w2h.seq 3).reg r2.toNat) = 2 ∨ BitVec.toNat ((w2h.seq 3).reg r2.toNat) = 3) ∧
    w2i.inv = true ∧ (w2i.seq 3).descs.find 0 = some readHw ∧ readHw.limitRaised = false ∧ (w2i.seq 3).state = 1 ∧ (w2i.seq 3).inTrap = false ∧
    descByte w2i 3 0 0 1 ≠ 0 ∧ descByte w2i 3 0 0 1 ≠ 3 ∧ w2i.rd (CEL_SEQ_OPLIMIT.LIMIT_MS 3) ≠ 0 ∧
    w2i.rd (CEL_SEQ_OPLIMIT.LIMIT_MS 3) * 100000000 < (BitVec.toNat w2i.pwr.time - descByte w2i 3 0 24 8 - readHw.suspTicks) * 1024 := by
  repeat' apply And.intro
  all_goals decide +kernel

def w2j : State := up.wr (CEL_SEQ_CTL.RUN 3) 1
def w2k : State := { up with seqs := [(3, { state := 4 })] }
def w2l : State := up.wr (CEL_SEQ_CTL.LOAD_EN 3) 1
def w2m : State := up.wr STD_SUP_STATUS.WDOG_WARN 1
def v2 : U64 := 1

/-- The premises of `Obligations.SequencerControl` are met, clause by clause. -/
theorem witness_SequencerControl :
    up.inv = true ∧ 3 < 64 ∧ populated up 3 = true ∧ up.on (CEL_SEQ_CTL.RUN 3) = false ∧ BitVec.toNat v2 % 2 = 1 ∧ up.pwr.por = false ∧
    (up.pwr.st = PwrState.ps0 ∨ up.pwr.st = PwrState.ps1 ∨ up.pwr.st = PwrState.ps2) ∧ up.on STD_SUP_STATUS.WDOG_WARN = false ∧ (up.seq 64).wait = none ∧
    (up.seq 64).held = [] ∧ (up.seq 64).evq.length < 64 ∧ w2j.inv = true ∧ populated w2j 3 = true ∧ w2j.on (CEL_SEQ_CTL.RUN 3) = true ∧ w2k.inv = true ∧
    (w2k.seq 3).state = 4 ∧ w2l.inv = true ∧ w2l.on (CEL_SEQ_CTL.LOAD_EN 3) = true ∧ w2l.on (CEL_SEQ_CTL.RUN 3) = false ∧ w2m.inv = true ∧
    w2m.pwr.por = false ∧ (w2m.pwr.st = PwrState.ps0 ∨ w2m.pwr.st = PwrState.ps1 ∨ w2m.pwr.st = PwrState.ps2) ∧
    w2m.on STD_SUP_STATUS.WDOG_WARN = true := by
  repeat' apply And.intro
  all_goals decide +kernel

def w3a : State := { up with pwr := { por := false, pwrfail := true, dumpStarted := true } }
def w3b : State := { up with pwr := { por := false, releaseCount := true, dumpStarted := true } }
def w3c : State := { up with pwr := { shutLatch := true, lowMains := [.vcore, .vsram, .vserdesL, .vserdesH, .vddq, .vio] } }

/-- The premises of `Obligations.PowerLoss` are met, clause by clause. -/
theorem witness_PowerLoss :
    State.reset.inv = true ∧ State.reset.pwr.por = true ∧ State.reset.pwr.lowMains = [] ∧ State.reset.pwr.shutLatch = false ∧
    State.reset.pwr.lowMains.contains MainSupply.vcore = false ∧ up.inv = true ∧ up.pwr.pwrfail = false ∧ running up = true ∧ asleep up = false ∧
    pwrMode up = 0 ∧ up.pwr.straps.holdup = false ∧ up.on STD_CLK_CTL.REF_LOST = false ∧ up.pwr.dumpStarted = false ∧ up.pwr.afterDump = none ∧
    w3a.inv = true ∧ w3a.pwr.pwrfail = true ∧ w3a.pwr.dumpStarted = true ∧ w3a.pwr.st ≠ PwrState.off ∧ w3a.pwr.afterDump = none ∧ w3b.inv = true ∧
    w3b.pwr.releaseCount = true ∧ w3b.pwr.pwrfail = false ∧ w3b.pwr.lowMains = [] ∧ running w3b = true ∧ w3b.pwr.dumpStarted = true ∧ w3c.inv = true ∧
    w3c.pwr.shutLatch = true ∧
    [MainSupply.vcore, MainSupply.vsram, MainSupply.vserdesL, MainSupply.vserdesH, MainSupply.vddq, MainSupply.vio].all w3c.pwr.lowMains.contains = true := by
  repeat' apply And.intro
  all_goals decide +kernel

def w3d : State := { (up.wr STD_WAKE_EN.EN 0x7F) with pwr := { por := false, st := .ps5 }, seqs := [(64, { state := 2, wait := some { rd := 1, mask := 0xFFF, deadline := none } })] }
def w3e : State := { (up.wr STD_WAKE_TIMER.SECONDS 1) with pwr := { por := false, st := .off } }
def w3f : State := { up with pwr := { por := false, st := .off, shutLatch := true } }

/-- The premises of `Obligations.WakeSources` are met, clause by clause. -/
theorem witness_WakeSources :
    w3d.inv = true ∧ w3d.pwr.st = PwrState.ps5 ∧ w3d.rd { addr := STD_WAKE_STATUS.addr, rst := 0, lsb := 0, width := 7 } = 0 ∧
    bitAt (w3d.rd STD_WAKE_EN.EN) 2 = true ∧ (w3d.seq 64).wait = some { rd := 1, mask := 4095, deadline := none } ∧ w3e.inv = true ∧
    w3e.rd STD_WAKE_TIMER.SECONDS ≠ 0 ∧ w3e.pwr.st = PwrState.off ∧ w3e.pwr.shutLatch = false ∧ w3e.pwr.vaux = true ∧ w3f.inv = true ∧
    w3f.pwr.st = PwrState.off ∧ w3f.pwr.shutLatch = true := by
  repeat' apply And.intro
  all_goals decide +kernel

def w3g : State := (up.wr STD_CLK_CTL.PLL_EN 1).wr STD_CLK_CTL.SEL 1
def w3h : State := { (up.wr STD_CLK_CTL.PLL_LOCK 1) with pwr := { por := false, timeOnLso := true } }
def w3i : State := { up with chm := { sensors := [(24, { last4 := [40, 40, 40, 40] })] } }
def w3j : State := { ((up.wr (CEL_DIE_MAP.PRESENT 0) 1).wr (CEL_PORT_CFG.MODE 0) 1) with chm := { dies := [(0, { reading := 4000, valid := true })] } }

/-- The premises of `Obligations.ClocksAndHeat` are met, clause by clause. -/
theorem witness_ClocksAndHeat :
    up.inv = true ∧ up.pwr.st ≠ PwrState.off ∧ up.pwr.por = false ∧ up.on STD_CLK_CTL.PLL_LOCK = false ∧ up.on STD_CLK_CTL.SEL = false ∧ w3g.inv = true ∧
    w3g.on STD_CLK_CTL.PLL_EN = true ∧ w3g.on STD_CLK_CTL.REF_LOST = false ∧ w3g.on STD_CLK_CTL.SEL = true ∧ (0#64).toNat < 2 ^ 16 ∧
    w3g.pwr.timeOnLso = false ∧ 1 ≠ 0 ∧ w3h.inv = true ∧ w3h.on STD_CLK_CTL.PLL_LOCK = true ∧ w3h.pwr.timeOnLso = true ∧ w3i.inv = true ∧ 24 ≤ 24 ∧
    running w3i = true ∧ (w3i.sensor 24).broken = 0 ∧ 0 ≤ 40 ∧ 40 < 480 ∧ (w3i.sensor 24).last4 = [40, 40, 40, 40] ∧ (w3i.sensor 24).same < 999 ∧
    (∀ j ∈ neighbours 24, (w3i.sensor j).last4 = []) ∧ w3j.inv = true ∧ zonePorts w3j = [0] ∧
    ((List.range 16).any fun d => diePresent w3j 0 d && dieBroken w3j 0 d) = false ∧ hottestOf w3j 0 = some 4000 ∧
    4 * ↑(w3j.rd CHM_CTL.FLASH_CEIL) ≤ 4000 := by
  repeat' apply And.intro
  all_goals decide +kernel

def rec4 : AtticRec := { code := 0x8001, sev := 1, src := 0xE }
def win4 : AtticWin := { cursor := 0, latching := true }
def w4a : State := { up with atc := { full := true, waiting := [rec4] } }
def w4b : State := { up with atc := { wins := [(1, win4)] } }

/-- The premises of `Obligations.Attic` are met, clause by clause. -/
theorem witness_Attic :
    up.inv = true ∧ 63 < 64 ∧ 32768 ≤ 32768 ∧ 32768 < 2 ^ 16 ∧ 1 ≤ 5 ∧ 5 ≤ 5 ∧ up.atc.postedThisSec < 4096 ∧ up.atc.full = false ∧ up.clo.op = none ∧
    up.atc.clearPending = false ∧ 0 < 2 ∧ 32767 < 32768 ∧ w4a.inv = true ∧ w4a.atc.full = true ∧ w4a.atc.waiting ≠ [] ∧ w4a.atc.moving = none ∧
    w4a.atc.wins = [] ∧ w4a.atc.copySecond = none ∧ w4b.inv = true ∧ w4b.atc.wins.find 1 = some win4 ∧ win4.latching = true ∧ win4.gap = false := by
  repeat' apply And.intro
  all_goals decide +kernel

def run4 : DstRun := { ext := false, port := 0, nsid := 1 }
def w4c : State := { (up.wr ATC_CTL.IST_EN 1) with atc := { dst := some run4 } }

/-- The premises of `Obligations.SelfTests` are met, clause by clause. -/
theorem witness_SelfTests :
    w4c.inv = true ∧ w4c.on ATC_CTL.IST_EN = true ∧ asleep w4c = false ∧ w4c.atc.dst = some run4 ∧ nextSegment run4.ext run4.seg = some 2 := by
  repeat' apply And.intro
  all_goals decide +kernel

def op4 : KmeOp := { op := 5, owner := 3 }
def w4d : State := up.wr STG_LOCK.OWNER 3
def w4e : State := { up with stg := { op := some op4 } }
def w4f : State := { up with stg := { fuses := { authors := [(0, 1)] } } }

/-- The premises of `Obligations.KeyManagement` are met, clause by clause. -/
theorem witness_KeyManagement :
    up.inv = true ∧ ownerOk up 3 = true ∧ lockOwner up ≠ 3 ∧ w4d.inv = true ∧ 3 ≠ 0 ∧ lockOwner w4d = 3 ∧ lockOwner w4d ≠ 0 ∧ w4d.stg.op = none ∧
    ownerOk w4d op4.owner = true ∧ lockOwner w4d = op4.owner ∧ w4d.on STG_STATUS.TAMPERED = false ∧ w4d.pwr.straps.testmode = false := by
  repeat' apply And.intro
  all_goals decide +kernel

/-- The premises of `Obligations.KeyEvents` are met, clause by clause. -/
theorem witness_KeyEvents :
    w4e.inv = true ∧ w4e.stg.op = some op4 ∧ op4.op = 5 ∧ 5 < 6 ∧ w4e.pwr.por = false ∧ w4e.stg.jtagFails = 0 ∧ w4f.inv = true ∧
    (List.any w4f.stg.fuses.authors fun e => !bitAt w4f.stg.fuses.revoked e.1) = true := by
  repeat' apply And.intro
  all_goals decide +kernel

def w4g : State := { up with stg := { spdm := [(0, { caps := true, algs := true, ver := 0x12, chunks := [7] })], devId := true } }

/-- The premises of `Obligations.Spdm` are met, clause by clause. -/
theorem witness_Spdm :
    w4g.inv = true ∧ spdmOpen w4g = true ∧ (spdmSt w4g 0).caps = true ∧ (spdmSt w4g 0).algs = true ∧ 1 ≤ 1 ∧ w4g.stg.devId = true ∧
    18 ≤ (spdmSt w4g 0).ver ∧ (spdmSt w4g 0).chunks = [7] ∧ 1 < 2 := by
  repeat' apply And.intro
  all_goals decide +kernel

def w5a : State := live.wr SCU_CTL.CFG_LOCK 1
def w5b : State := seqAt 0 0 {}
def w5c : State := { up with porch := { ports := [(0, { livePort with d3 := true })] } }

/-- The premises of `Obligations.HouseAccess` are met, clause by clause. -/
theorem witness_HouseAccess :
    live.inv = true ∧ live.pwr.por = false ∧ live.pwr.st ≠ PwrState.off ∧ (live.hport 0).up = true ∧ 0 ∈ portsInUse live ∧ (live.hport 0).d3 = false ∧
    7344120 + 8 ≤ 7344128 ∧ 1 % 8 ≠ 0 ∧ w5b.inv = true ∧ 3 < 64 ∧ (w5b.seq 3).state = 1 ∧ (w5b.seq 3).inTrap = false ∧ 3162112 % 8 = 0 ∧
    houseStoreOk 3 3162112 = false ∧ w5c.inv = true ∧ (w5c.hport 0).up = true ∧ 0 ∈ portsInUse w5c ∧ (w5c.hport 0).d3 = true := by
  repeat' apply And.intro
  all_goals decide +kernel

def w5d : State := { up with fab := { outs := [(15, { burst := some (3, 8) })] } }

/-- The premises of `Obligations.FabricLinks` are met, clause by clause. -/
theorem witness_FabricLinks :
    up.inv = true ∧ 15 < 16 ∧ (up.fab.outs.getD 15 { }).burst = none ∧ (up.fab.outs.getD 15 { }).ctl = [] ∧ (up.fab.outs.getD 15 { }).lastCtl < 16 ∧
    14 < 16 ∧ (14 + 15 - (up.fab.outs.getD 15 { }).lastCtl) % 16 ≤ (15 + 15 - (up.fab.outs.getD 15 { }).lastCtl) % 16 ∧
    (up.fab.outs.getD 15 { }).data = [] ∧ 1 ≤ 8 ∧ 8 ≤ 8 ∧ 255 < 256 ∧ casDecode { d := 0#256, t := 3, m := 0#16 } = CasRes.bad ∧ w5d.inv = true ∧
    (w5d.fab.outs.getD 15 { }).burst = some (3, 8) := by
  repeat' apply And.intro
  all_goals decide +kernel

def w5e : State := { up with pwr := { por := false, straps := { testmode := true } } }

/-- The premises of `Obligations.ManagementAndJtag` are met, clause by clause. -/
theorem witness_ManagementAndJtag :
    up.inv = true ∧ up.pwr.por = false ∧ up.pwr.st ≠ PwrState.off ∧ asleep up = false ∧ pwrMode up = 0 ∧ (up.seq 64).wait = none ∧ (up.seq 64).held = [] ∧
    (up.seq 64).evq.length < 64 ∧ up.pwr.straps.testmode = false ∧ w5e.inv = true ∧ w5e.pwr.straps.testmode = true := by
  repeat' apply And.intro
  all_goals decide +kernel

def chan6 : DmaChan := { tags := [(5, 9, 1)] }
def ctx6 : Ctx := { port := 0, sq := 1, cid := 0, cmd := .flush 1 }
def w6a : State := { up with porch := { ports := [(0, { perst := false })], fixed := true } }
def w6b : State := { live with porch := { ports := [(0, { livePort with dlSeq := 4095 })], chans := [(0, chan6)] }, hall := { ctxs := [(9, ctx6)] } }
def w6c : State := { live with porch := { ports := [(0, livePort)], fixed := true, ident := { pmAllow := 1 } } }

/-- The premises of `Obligations.HostLinks` are met, clause by clause. -/
theorem witness_HostLinks :
    w6a.inv = true ∧ linkAllowed w6a 0 = true ∧ (w6a.hport 0).up = false ∧ 1 ≤ 1 ∧ 1 ≤ rateCap w6a ∧ 1 ∈ [8, 4, 2, 1] ∧ w6a.pwr.por = false ∧
    w6a.pwr.st ≠ PwrState.off ∧ w6a.porch.idle = false ∧ 0 ∈ portsInUse w6a ∧ w6a.porch.fixed = true ∧ w6b.inv = true ∧ (w6b.hport 0).up = true ∧
    (w6b.hport 0).flit = false ∧ (w6b.hport 0).dlSeq < 4096 ∧ 4095 = (w6b.hport 0).dlSeq ∧ w6b.porch.chans = [(0, chan6)] ∧ 0 / 64 = 0 ∧
    chan6.tags = [(5, 9, 1)] ∧ w6b.ctx 9 = some ctx6 ∧ ctx6.chan = 0 ∧ w6b.pwr.por = false ∧ w6b.pwr.st ≠ PwrState.off ∧ w6b.porch.idle = false ∧
    0 ∈ portsInUse w6b ∧ w6b.porch.fixed = false ∧ seqBefore (w6b.hport 0).dlSeq (4094 % 4096) = true ∧ w6c.inv = true ∧ (w6c.hport 0).up = true ∧
    (w6c.hport 0).d3 = false ∧ (w6c.hport 0).lstate ≤ 1 ∧ w6c.porch.ident.pmAllow % 2 = 1 ∧ w6c.porch.chans = [] ∧ w6c.hall.ctxs = [] ∧
    w6c.hall.coal = [] := by
  repeat' apply And.intro
  all_goals decide +kernel

/-- The premises of `Obligations.HostResets` are met, clause by clause. -/
theorem witness_HostResets :
    live.inv = true ∧ 0 ∈ portsInUse live ∧ (live.hport 0).perst = false ∧ (live.hport 0).up = true ∧ (live.hport 0).en = true ∧ w5c.inv = true ∧
    (w5c.hport 0).d3 = true := by
  repeat' apply And.intro
  all_goals decide +kernel

def subq6 : SubQ := { size := 2, cq := 1 }
def comq6 : ComQ := { size := 2 }
def w6d : State := { live with porch := { ports := [(0, { livePort with msixOn := true, pend := [3] })], ident := { msix := 4 } }, hall := { sqs := [(1, subq6)], cqs := [(1, comq6)] } }
def w6e : State := { w6d with porch := { ports := [(0, livePort)], ident := { msix := 4 } }, ldr := { slots := [(0, { st := 2 })] } }
def w6f : State := w6e.wr LDR_CTL.DRAIN 1
def w6g : State := { up with porch := { ports := [(0, { perst := false, up := true })], fixed := true } }

/-- The premises of `Obligations.HostController` are met, clause by clause. -/
theorem witness_HostController :
    w6g.inv = true ∧ linkAllowed w6g 0 = true ∧ (w6g.hport 0).up = true ∧ (w6g.hport 0).d3 = false ∧ (w6g.hport 0).en = false ∧ 2 ≤ 4096 ∧ 4096 ≤ 4096 ∧
    2 ≤ 2 ∧ w5c.inv = true ∧ (w5c.hport 0).up = true ∧ (w5c.hport 0).d3 = true ∧ w6d.inv = true ∧ (w6d.hport 0).up = true ∧ (w6d.hport 0).d3 = false ∧
    (w6d.hport 0).en = true ∧ (w6d.hport 0).rdy = true ∧ asleep w6d = false ∧ pwrMode w6d = 0 ∧ w6d.on LDR_CTL.DRAIN = false ∧
    w6d.hall.sqs.find (qkey 0 1) = some subq6 ∧ 1 < subq6.size ∧ w6d.hall.cqs.find (qkey 0 1) = some comq6 ∧ 1 < comq6.size ∧
    (w6d.hport 0).msixOn = true ∧ 1 < w6d.porch.ident.msix ∧ 1 ∉ (w6d.hport 0).unmasked ∧ 1 ∉ (w6d.hport 0).pend ∧ live.inv = true ∧
    (live.hport 0).up = true ∧ (live.hport 0).d3 = false ∧ (live.hport 0).en = true ∧ (live.hport 0).rdy = true ∧ live.hall.ctxs = [] ∧
    live.hall.events = [] ∧ live.hall.sqs.find (qkey 0 7) = none ∧ 3 < w6d.porch.ident.msix ∧ 3 ∉ (w6d.hport 0).unmasked ∧ 3 ∈ (w6d.hport 0).pend ∧
    (w6d.hport 0).fmask = false ∧ w6e.inv = true ∧ (w6e.hport 0).en = true ∧ (w6e.hport 0).rdy = true ∧ (w6e.hport 0).shst = 0 ∧
    w6e.on LDR_CTL.DRAIN = false ∧ larderEmpty w6e = false ∧ w6e.ldr.fronts = [] ∧ w6f.inv = true ∧ (w6f.hport 0).en = true ∧ (w6f.hport 0).rdy = true ∧
    (w6f.hport 0).shst = 0 ∧ w6f.on LDR_CTL.DRAIN = true ∧ larderEmpty w6f = false ∧ 0 ∈ portsInUse w6f ∧ (w6f.seq 64).wait = none ∧
    (w6f.seq 64).held = [] ∧ (w6f.seq 64).evq.length < 64 := by
  repeat' apply And.intro
  all_goals decide +kernel

def ns7 : Nspace := { fmt := 0, extents := 1, attached := [1] }
def q7 : SubQ := { size := 2, cq := 1, tail := 1 }
def cq7 : ComQ := { size := 2, ien := false }
def ready7 : Ctx := { port := 0, sq := 1, cid := 3, cmd := .flush 1, st := .ready }
def read7 : Ctx := { port := 0, sq := 1, cid := 3, cmd := .read 1 0 1 {}, st := .running, reads := [{ ns := 1, first := 0, count := 1 }] }
def unit7 : WUnit := { ns := 1, ext := 0, units := [0], slots := [(0, 5)], group := true }
def write7 : Ctx := { port := 0, sq := 1, cid := 3, cmd := .write 1 0 1 false none {}, st := .running, writes := [{ ns := 1, first := 0, count := 1 }], wunits := [unit7] }
def slot7 : Slot := { st := 2, ns := 1 }
def w7a : State := { live.wr HAL_CTL.FETCH_EN 1 with nvm := { spaces := [(1, ns7)] }, hall := { sqs := [(1, q7)], cqs := [(1, cq7)], next := 10 } }
def w7b : State := { w7a with hall := { sqs := [(1, q7)], cqs := [(1, cq7)], ctxs := [(9, ready7)], next := 10 } }
def w7c : State := { live.wr PAN_CTL.ENABLE 1 with nvm := { spaces := [(1, ns7)] }, hall := { ctxs := [(8, read7), (9, write7)], next := 10 }, ldr := { slots := [(5, slot7)] } }
def w7d : State := { w7c with hall := { ctxs := [(7, { write7 with writes := [{ ns := 1, first := 0, count := 1 }] }), (8, read7), (9, write7)], next := 10 } }
def w7m : State := { w7c with hall := { ctxs := [(9, write7)], next := 10 } }
def writer7 : Writer := { cmd := .write 1 0 1 false none {}, units := [unit7], fua := false, tags := [], stair := false }

/-- The premises of `Obligations.HallFetchAndPost` are met, clause by clause. -/
theorem witness_HallFetchAndPost :
    w7a.inv = true ∧ isIo (HostCmd.flush 1) = true ∧ 1 ≠ 0 ∧ w7a.hall.sqs.find (qkey 0 1) = some q7 ∧
    takeTurn w7a 0 1 = some ((takeTurn w7a 0 1).getD { }) ∧ ingestStatus w7a w7a.hall.next 0 (HostCmd.flush 1) = none ∧
    isIo (HostCmd.read 9 0 1 { }) = true ∧ ingestStatus w7a w7a.hall.next 0 (HostCmd.read 9 0 1 { }) = some (0, 11) ∧ (0, 11) ≠ (0, 0) ∧
    (0, 11) ≠ (7, 192) ∧ live.inv = true ∧ takeTurn live 0 1 = none ∧ w7b.inv = true ∧ w7b.ctx 9 = some ready7 ∧ ready7.st = CtxSt.ready ∧
    ready7.stair = none ∧ w7b.hall.sqs.find (qkey ready7.port ready7.sq) = some q7 ∧ w7b.hall.cqs.find (qkey ready7.port q7.cq) = some cq7 ∧
    olderInQueue w7b 9 ready7 = false ∧ (cq7.tail + 1) % cq7.size ≠ cq7.head ∧ (w7b.hport ready7.port).bme = true ∧ (w7b.hport ready7.port).d3 = false ∧
    ringHolds w7b ready7 = false ∧ w7b.pwr.frozen = false ∧ w7b.clo.recovery = false ∧ cq7.ien = false ∧ (∀ e ∈ w7b.hall.sqs, e.2.deleting = none) ∧
    w7c.inv = true ∧ w7c.ctx 8 = some read7 ∧ read7.st ≠ CtxSt.ready ∧ (read7.st = CtxSt.running → read7.resolved = false) ∧ w7c.clo.recovery = false ∧
    w7c.on PAN_CTL.ENABLE = true ∧ read7.resolved = false ∧ read7.st = CtxSt.running ∧ read7.stair = none ∧
    (read7.reads.all fun x => mayResolve w7c 8 x) = true ∧ w7d.inv = true ∧ w7d.ctx 8 = some read7 ∧
    (read7.reads.all fun x => mayResolve w7d 8 x) = false ∧ w7m.inv = true ∧ writerOf w7m 9 = some writer7 ∧
    List.find? (fun u => u.ext == 0 && u.st == UnitSt.waiting) writer7.units = some unit7 ∧ unit7.share = 0 ∧ writer7.tags = [] ∧
    unitTurn w7m 9 unit7 = true ∧ w7m.on PAN_CTL.ENABLE = true ∧ isWorker w7m = false ∧ unit7.part = [] ∧ unitAdmitted w7m writer7.cmd unit7 = true ∧
    List.length w7m.pan.overlay + (slotUnits writer7.cmd unit7).length ≤ 524288 ∧ w7m.pwr.straps.holdup = false ∧ slotUnits writer7.cmd unit7 ≠ [] ∧
    writerOf w7d 9 = some writer7 ∧ unitTurn w7d 9 unit7 = false := by
  repeat' apply And.intro
  all_goals decide +kernel

def fresh7 (c : HostCmd) : Ctx := { port := 0, sq := 1, cid := 3, cmd := c }
def w7e (c : HostCmd) : State := { live with nvm := { spaces := [(1, ns7)] }, hall := { ctxs := [(9, fresh7 c)], next := 10 } }
def w7f (c : HostCmd) : State := { live with hall := { ctxs := [(9, fresh7 c)], next := 10 } }

/-- The premises of `Obligations.HallCommands` are met, clause by clause. -/
theorem witness_HallCommands :
    (w7e (HostCmd.write 1 0 1 false none { })).inv = true ∧
    Fresh (w7e (HostCmd.write 1 0 1 false none { })) 9 (fresh7 (HostCmd.write 1 0 1 false none { })) ∧
    (fresh7 (HostCmd.write 1 0 1 false none { })).cmd = HostCmd.write 1 0 1 false none { } ∧ (w7e (HostCmd.writeUncorr 1 0 1)).inv = true ∧
    Fresh (w7e (HostCmd.writeUncorr 1 0 1)) 9 (fresh7 (HostCmd.writeUncorr 1 0 1)) ∧
    (fresh7 (HostCmd.writeUncorr 1 0 1)).cmd = HostCmd.writeUncorr 1 0 1 ∧ (w7e (HostCmd.writeZeroes 1 0 1 false false)).inv = true ∧
    Fresh (w7e (HostCmd.writeZeroes 1 0 1 false false)) 9 (fresh7 (HostCmd.writeZeroes 1 0 1 false false)) ∧
    (fresh7 (HostCmd.writeZeroes 1 0 1 false false)).cmd = HostCmd.writeZeroes 1 0 1 false false ∧
    (w7e (HostCmd.copy 1 0 false [(0, 1)] none)).inv = true ∧
    Fresh (w7e (HostCmd.copy 1 0 false [(0, 1)] none)) 9 (fresh7 (HostCmd.copy 1 0 false [(0, 1)] none)) ∧
    (fresh7 (HostCmd.copy 1 0 false [(0, 1)] none)).cmd = HostCmd.copy 1 0 false [(0, 1)] none ∧ (w7e (HostCmd.read 1 0 1 { })).inv = true ∧
    Fresh (w7e (HostCmd.read 1 0 1 { })) 9 (fresh7 (HostCmd.read 1 0 1 { })) ∧ (fresh7 (HostCmd.read 1 0 1 { })).cmd = HostCmd.read 1 0 1 { } ∧
    (w7e (HostCmd.compare 1 0 1 { })).inv = true ∧ Fresh (w7e (HostCmd.compare 1 0 1 { })) 9 (fresh7 (HostCmd.compare 1 0 1 { })) ∧
    (fresh7 (HostCmd.compare 1 0 1 { })).cmd = HostCmd.compare 1 0 1 { } ∧ (w7e (HostCmd.verify 1 0 1 { })).inv = true ∧
    Fresh (w7e (HostCmd.verify 1 0 1 { })) 9 (fresh7 (HostCmd.verify 1 0 1 { })) ∧ (fresh7 (HostCmd.verify 1 0 1 { })).cmd = HostCmd.verify 1 0 1 { } ∧
    (w7e (HostCmd.dsm 1 true [(0, 1)])).inv = true ∧ Fresh (w7e (HostCmd.dsm 1 true [(0, 1)])) 9 (fresh7 (HostCmd.dsm 1 true [(0, 1)])) ∧
    (fresh7 (HostCmd.dsm 1 true [(0, 1)])).cmd = HostCmd.dsm 1 true [(0, 1)] ∧
    List.flatMap (fun r => writerUnits (w7e (HostCmd.dsm 1 true [(0, 1)])) 1 r.1 r.2) [(0, 1)] ≠ [] ∧ (w7e (HostCmd.dsm 1 false [])).inv = true ∧
    Fresh (w7e (HostCmd.dsm 1 false [])) 9 (fresh7 (HostCmd.dsm 1 false [])) ∧ (fresh7 (HostCmd.dsm 1 false [])).cmd = HostCmd.dsm 1 false [] ∧
    (w7e (HostCmd.ioMgmtRecv 1)).inv = true ∧ Fresh (w7e (HostCmd.ioMgmtRecv 1)) 9 (fresh7 (HostCmd.ioMgmtRecv 1)) ∧
    (fresh7 (HostCmd.ioMgmtRecv 1)).cmd = HostCmd.ioMgmtRecv 1 ∧ (w7f (HostCmd.flush 1)).inv = true ∧
    Fresh (w7f (HostCmd.flush 1)) 9 (fresh7 (HostCmd.flush 1)) ∧ (w7f (HostCmd.flush 1)).hall.ctxs = [(9, fresh7 (HostCmd.flush 1))] ∧
    (w7f (HostCmd.flush 1)).hall.tails = [] ∧ (w7f (HostCmd.flush 1)).ldr.fronts = [] ∧ (w7f (HostCmd.flush 1)).pan.deps = [] ∧
    (w7f (HostCmd.flush 1)).nvm.spaces = [] ∧ (w7f (HostCmd.flush 1)).ldr.settling = [] ∧ isManager (w7f (HostCmd.flush 1)) = false ∧
    (w7f (HostCmd.flush 1)).sta.reqs = [] ∧ (fresh7 (HostCmd.flush 1)).cmd = HostCmd.flush 1 ∧ (fresh7 (HostCmd.flush 1)).hit = false ∧
    (w7f (HostCmd.ioMgmtSend 1 [])).inv = true ∧ Fresh (w7f (HostCmd.ioMgmtSend 1 [])) 9 (fresh7 (HostCmd.ioMgmtSend 1 [])) ∧
    (w7f (HostCmd.ioMgmtSend 1 [])).hall.ctxs = [(9, fresh7 (HostCmd.ioMgmtSend 1 []))] ∧ (w7f (HostCmd.ioMgmtSend 1 [])).hall.tails = [] ∧
    (w7f (HostCmd.ioMgmtSend 1 [])).ldr.fronts = [] ∧ (w7f (HostCmd.ioMgmtSend 1 [])).pan.deps = [] ∧ (w7f (HostCmd.ioMgmtSend 1 [])).nvm.spaces = [] ∧
    (w7f (HostCmd.ioMgmtSend 1 [])).ldr.settling = [] ∧ isManager (w7f (HostCmd.ioMgmtSend 1 [])) = false ∧
    (w7f (HostCmd.ioMgmtSend 1 [])).sta.reqs = [] ∧ (fresh7 (HostCmd.ioMgmtSend 1 [])).cmd = HostCmd.ioMgmtSend 1 [] := by
  repeat' apply And.intro
  all_goals decide +kernel

def dma7 : Ctx := { write7 with tags := [0, 1], wunits := [unit7] }
def w7g : State := { live with porch := { ports := [(0, { livePort with bme := false })], chans := [(0, { state := 1, tags := [(5, 9, 0)] })] }, hall := { ctxs := [(9, dma7)] }, ldr := { slots := [(5, slot7)] } }
def w7h : State := { up with porch := { ports := [(1, { livePort with deadTags := [255], msixOn := true, unmasked := [3] })] }, hall := { coal := [(0x10003, 0)] } }
def w7i : State := { live with porch := { ports := [(0, livePort)], chans := [(0, { state := 2, cmd := some 9, cause := 4 })] }, hall := { ctxs := [(9, dma7)] } }
def pr7 : PrInfo := { guard := true }
def dma7p : Ctx := { dma7 with cmd := .write 1 0 1 false none pr7 }
def w7p : State := { w7g with nvm := { spaces := [(1, { ns7 with fmt := 5, pi := 1 })] }, hall := { ctxs := [(9, dma7p)] } }

/-- The premises of `Obligations.HallDma` are met, clause by clause. -/
theorem witness_HallDma :
    w7g.inv = true ∧ w7g.ctx 9 = some dma7 ∧ dma7.chan = 0 ∧
    w7g.chan 0 =
  { w7g.chan 0 with tags := [(5, 9, 0)], state := 1 } ∧
    dma7.cmd = HostCmd.write 1 0 1 false none { } ∧ dma7.wunits = [unit7] ∧ unit7.slots.find 0 = some 5 ∧ unit7.part = [] ∧
    w7g.ldr.slots.find 5 = some slot7 ∧ dma7.tags = [0, 0 + 1] ∧ w7g.hall.ctxs = [(9, dma7)] ∧ dma7.stair = none ∧ (w7g.hport dma7.port).bme = false ∧
    List.find? (fun t => t.2 == (9, 0)) (w7g.chan 0).tags = some (5, 9, 0) ∧ (w7g.hport dma7.port).ctoOff = false ∧ w7h.inv = true ∧
    255 ∈ (w7h.hport 1).deadTags ∧ w7h.hall.ctxs = [] ∧ w7h.hall.coal.has (qkey 1 3) = true ∧ (w7h.hport 1).msixOn = true ∧ (w7h.hport 1).fmask = false ∧
    3 ∈ (w7h.hport 1).unmasked ∧ w7i.inv = true ∧
    w7i.chan 0 =
  { w7i.chan 0 with state := 2, cause := 4, cmd := some 9 } ∧ w7i.ctx 9 = some dma7 ∧
    dma7.st = CtxSt.running ∧ w7p.inv = true ∧ w7p.ctx 9 = some dma7p ∧ dma7p.chan = 0 ∧
    w7p.chan 0 =
  { w7p.chan 0 with tags := [(5, 9, 0)], state := 1 } ∧
    dma7p.cmd = HostCmd.write 1 0 1 false none pr7 ∧ dma7p.st = CtxSt.running ∧ dma7p.stair = none ∧ piSelects w7p 1 pr7 = true ∧
    piForms w7p 1 pr7 = false ∧ piStatus pr7 false false false = some (2, 130) := by
  repeat' apply And.intro
  all_goals decide +kernel

def apst7 : ApstEnt := { target := 3, idleMs := 1 }
def w7j : State := { up.wr HAL_CTL.FETCH_EN 1 with hall := { reqState := [(0, 3)], apst := [(0, [apst7])] } }
def res7 : Ctx := { write7 with st := .reserving, wunits := [{ unit7 with slots := [], group := false }] }
def w7k : State := { up.wr LDR_CTL.ENABLE 1 with hall := { ctxs := [(9, res7)] }, nvm := { spaces := [(1, ns7)] } }
def w7l : State := up.wr LDR_CTL.DRAIN 1
def w7n : State := { w7k with bsm := { gib := 0 } }

/-- The premises of `Obligations.HallControl` are met, clause by clause. -/
theorem witness_HallControl :
    w7j.inv = true ∧ 3 ≤ requestedState w7j ∧ idleFor w7j (requestedState w7j) = true ∧ w7j.on HAL_CTL.FETCH_EN = true ∧ asleep w7j = false ∧
    (w7j.seq 64).wait = none ∧ (w7j.seq 64).held = [] ∧ (w7j.seq 64).evq.length < 64 ∧ (apstTable w7j 0)[0]? = some apst7 ∧ apst7.idleMs ≠ 0 ∧
    3 ≤ apst7.target ∧ idleFor w7j (min 3 apst7.target) = true ∧ populated w7j 7 = true ∧ w7k.inv = true ∧ requestedState w7k < 3 ∧
    w7k.on LDR_CTL.ENABLE = true ∧ w7k.on LDR_CTL.DRAIN = false ∧ oldestWaiting w7k = some (9, res7) ∧ w7k.ctx 9 = some res7 ∧ res7.st = CtxSt.reserving ∧
    res7.stair = none ∧ List.foldl (fun a u => a + (slotUnits res7.cmd u).length) 0 res7.wunits = 1 ∧ (1 = 0 ∨ hostRoom w7k 1 = true) ∧
    (List.countP (needsGroup w7k 9) res7.wunits = 0 ∨ groupsUsed w7k + List.countP (needsGroup w7k 9) res7.wunits ≤ groupsUsable w7k) ∧ w7n.inv = true ∧
    w7n.on LDR_CTL.ENABLE = true ∧ w7n.on LDR_CTL.DRAIN = false ∧ oldestWaiting w7n = some (9, res7) ∧ w7n.ctx 9 = some res7 ∧
    (1 = 0 ∨ hostRoom w7n 1 = true) ∧ 0 < List.countP (needsGroup w7n 9) res7.wunits ∧
    groupsUsable w7n < groupsUsed w7n + List.countP (needsGroup w7n 9) res7.wunits ∧ w7l.inv = true ∧ w7l.on LDR_CTL.DRAIN = true := by
  repeat' apply And.intro
  all_goals decide +kernel

def adm8 (c : HostCmd) : Ctx := { port := 0, sq := 0, cid := 3, cmd := c }
def w8 (c : HostCmd) : State :=
  { (live.wr PAN_CTL.ENABLE 1).wr PAN_CTL.JOURNAL_EN 1 with
    porch := { ports := [(0, livePort)], ident := { qpairs := 4, msix := 4 } },
    nvm := { spaces := [(1, { ns7 with attached := [] })] }, seqs := [(64, { state := 1 })],
    hall := { ctxs := [(9, adm8 c)], next := 10, sqs := [(0, { size := 2 }), (1, q7)], cqs := [(0, { size := 2 }), (1, cq7)] } }
def ev8 : AsyncEv := { typ := 1, info := 0, page := 2, port := 0 }
def w8a (c : HostCmd) : State := { w8 c with hall := { (w8 c).hall with events := [ev8], cqs := [(0, { size := 2 }), (1, cq7), (2, cq7)] }, nvm := {} }
def w8b : State := { w8 .asyncEvent with hall := { ctxs := ((List.range 9).map fun i => (i, { adm8 .asyncEvent with st := .running })) ++ [(9, adm8 .asyncEvent)] } }

/-- The premises of `Obligations.AdminQueues` are met, clause by clause. -/
theorem witness_AdminQueues :
    (w8 (HostCmd.unknown false 85)).inv = true ∧ Fresh (w8 (HostCmd.unknown false 85)) 9 (adm8 (HostCmd.unknown false 85)) ∧
    (adm8 (HostCmd.unknown false 85)).cmd = HostCmd.unknown false 85 ∧ (w8 (HostCmd.createCq 4 65536 3 true true)).inv = true ∧
    Fresh (w8 (HostCmd.createCq 4 65536 3 true true)) 9 (adm8 (HostCmd.createCq 4 65536 3 true true)) ∧
    adminGo (w8 (HostCmd.createCq 4 65536 3 true true)) 9 = true ∧
    (adm8 (HostCmd.createCq 4 65536 3 true true)).cmd = HostCmd.createCq 4 65536 3 true true ∧ 4 ≠ 0 ∧
    4 ≤ (w8 (HostCmd.createCq 4 65536 3 true true)).porch.ident.qpairs ∧
    (w8 (HostCmd.createCq 4 65536 3 true true)).hall.cqs.find (qkey (adm8 (HostCmd.createCq 4 65536 3 true true)).port 4) = none ∧ 2 ≤ 65536 ∧
    65536 ≤ 65536 ∧ 3 < (w8 (HostCmd.createCq 4 65536 3 true true)).porch.ident.msix ∧ (w8 (HostCmd.createCq 4 2 3 true false)).inv = true ∧
    Fresh (w8 (HostCmd.createCq 4 2 3 true false)) 9 (adm8 (HostCmd.createCq 4 2 3 true false)) ∧
    adminGo (w8 (HostCmd.createCq 4 2 3 true false)) 9 = true ∧ (adm8 (HostCmd.createCq 4 2 3 true false)).cmd = HostCmd.createCq 4 2 3 true false ∧
    (w8 (HostCmd.createSq 4 2 1 0 true)).inv = true ∧ Fresh (w8 (HostCmd.createSq 4 2 1 0 true)) 9 (adm8 (HostCmd.createSq 4 2 1 0 true)) ∧
    adminGo (w8 (HostCmd.createSq 4 2 1 0 true)) 9 = true ∧ (adm8 (HostCmd.createSq 4 2 1 0 true)).cmd = HostCmd.createSq 4 2 1 0 true ∧ 1 ≠ 0 ∧
    ((w8 (HostCmd.createSq 4 2 1 0 true)).hall.cqs.find (qkey (adm8 (HostCmd.createSq 4 2 1 0 true)).port 1)).isSome = true ∧
    4 ≤ (w8 (HostCmd.createSq 4 2 1 0 true)).porch.ident.qpairs ∧
    (w8 (HostCmd.createSq 4 2 1 0 true)).hall.sqs.find (qkey (adm8 (HostCmd.createSq 4 2 1 0 true)).port 4) = none ∧ 2 ≤ 2 ∧
    (w8a (HostCmd.deleteCq 2)).inv = true ∧ Fresh (w8a (HostCmd.deleteCq 2)) 9 (adm8 (HostCmd.deleteCq 2)) ∧ adminGo (w8a (HostCmd.deleteCq 2)) 9 = true ∧
    (adm8 (HostCmd.deleteCq 2)).cmd = HostCmd.deleteCq 2 ∧ 2 ≠ 0 ∧
    ((w8a (HostCmd.deleteCq 2)).hall.cqs.find (qkey (adm8 (HostCmd.deleteCq 2)).port 2)).isSome = true ∧
    (List.any (w8a (HostCmd.deleteCq 2)).hall.sqs fun x => x.1 / 65536 == (adm8 (HostCmd.deleteCq 2)).port && x.2.cq == 2 && x.1 % 65536 != 0) = false ∧
    (w8 (HostCmd.deleteCq 1)).inv = true ∧ Fresh (w8 (HostCmd.deleteCq 1)) 9 (adm8 (HostCmd.deleteCq 1)) ∧ adminGo (w8 (HostCmd.deleteCq 1)) 9 = true ∧
    (adm8 (HostCmd.deleteCq 1)).cmd = HostCmd.deleteCq 1 ∧
    ((w8 (HostCmd.deleteCq 1)).hall.cqs.find (qkey (adm8 (HostCmd.deleteCq 1)).port 1)).isSome = true ∧
    (List.any (w8 (HostCmd.deleteCq 1)).hall.sqs fun x => x.1 / 65536 == (adm8 (HostCmd.deleteCq 1)).port && x.2.cq == 1 && x.1 % 65536 != 0) = true ∧
    (w8a (HostCmd.deleteSq 1)).inv = true ∧ Fresh (w8a (HostCmd.deleteSq 1)) 9 (adm8 (HostCmd.deleteSq 1)) ∧ adminGo (w8a (HostCmd.deleteSq 1)) 9 = true ∧
    (adm8 (HostCmd.deleteSq 1)).cmd = HostCmd.deleteSq 1 ∧ (w8a (HostCmd.deleteSq 1)).hall.sqs.find (qkey (adm8 (HostCmd.deleteSq 1)).port 1) = some q7 ∧
    (∀ x ∈ (w8a (HostCmd.deleteSq 1)).hall.sqs, x.2.deleting = none) ∧ (w8a (HostCmd.deleteSq 1)).hall.ctxs = [(9, adm8 (HostCmd.deleteSq 1))] ∧
    (adm8 (HostCmd.deleteSq 1)).sq = 0 ∧ (w8a (HostCmd.deleteSq 1)).hall.tails = [] ∧ (w8a (HostCmd.deleteSq 1)).pan.deps = [] ∧
    (w8a (HostCmd.deleteSq 1)).nvm.spaces = [] ∧ (w8a (HostCmd.deleteSq 1)).ldr.settling = [] ∧ (w8 (HostCmd.abort 1 3)).inv = true ∧
    Fresh (w8 (HostCmd.abort 1 3)) 9 (adm8 (HostCmd.abort 1 3)) ∧ adminGo (w8 (HostCmd.abort 1 3)) 9 = true ∧
    (adm8 (HostCmd.abort 1 3)).cmd = HostCmd.abort 1 3 ∧
    (outstanding (w8 (HostCmd.abort 1 3)) (adm8 (HostCmd.abort 1 3)).port 9 fun x =>
    match x with
    | HostCmd.abort _ _ => true
    | _ => false) ≤
  4 ∧
    (w8 HostCmd.asyncEvent).inv = true ∧ Fresh (w8 HostCmd.asyncEvent) 9 (adm8 HostCmd.asyncEvent) ∧ adminGo (w8 HostCmd.asyncEvent) 9 = true ∧
    (adm8 HostCmd.asyncEvent).cmd = HostCmd.asyncEvent ∧
    (outstanding (w8 HostCmd.asyncEvent) (adm8 HostCmd.asyncEvent).port 9 fun x => x == HostCmd.asyncEvent) ≤ 8 ∧
    (w8 HostCmd.asyncEvent).hall.events = [] ∧ (w8a HostCmd.asyncEvent).inv = true ∧ Fresh (w8a HostCmd.asyncEvent) 9 (adm8 HostCmd.asyncEvent) ∧
    adminGo (w8a HostCmd.asyncEvent) 9 = true ∧
    (outstanding (w8a HostCmd.asyncEvent) (adm8 HostCmd.asyncEvent).port 9 fun x => x == HostCmd.asyncEvent) ≤ 8 ∧
    (w8a HostCmd.asyncEvent).hall.events = [ev8] ∧ ev8.port = (adm8 HostCmd.asyncEvent).port ∧
    (w8a HostCmd.asyncEvent).hall.ctxs = [(9, adm8 HostCmd.asyncEvent)] ∧ w8b.inv = true ∧ Fresh w8b 9 (adm8 HostCmd.asyncEvent) ∧ adminGo w8b 9 = true ∧
    8 < outstanding w8b (adm8 HostCmd.asyncEvent).port 9 fun x => x == HostCmd.asyncEvent := by
  repeat' apply And.intro
  all_goals decide +kernel

def w8c : State := { w8 (.nsCreate 256 256 0 0 false) with nvm := { spaces := (List.range 128).map fun i => (i + 1, ns7) } }
def w8d (c : HostCmd) : State := { w8 c with pwr := { por := false, straps := { role := 1 } }, regs := (((w8 c).wr (CEL_PORT_CFG.MODE 0) 2).wr (STA_LINK.WORKER 0) 1).regs }
def run8 : DstRun := { ext := true, port := 0, nsid := 1 }
def w8e (c : HostCmd) : State := { w8 c with atc := { dst := some run8 }, regs := ((w8 c).wr STG_STATUS.TAMPERED 1).regs, stg := { sessions := [(0, { sp := 0, auth := 1 })] } }
def nsp8 : Nspace := { ns7 with attached := [] }

/-- The premises of `Obligations.AdminSupervisor` are met, clause by clause. -/
theorem witness_AdminSupervisor :
    w8c.inv = true ∧ Fresh w8c 9 (adm8 (HostCmd.nsCreate 256 256 0 0 false)) ∧ supTurns w8c = true ∧ adminGo w8c 9 = true ∧
    (adm8 (HostCmd.nsCreate 256 256 0 0 false)).cmd = HostCmd.nsCreate 256 256 0 0 false ∧ workersReady w8c = true ∧ journalOn w8c = true ∧
    (∀ k < 129, 0 < k → w8c.nvm.spaces.has k = true) ∧ (w8 (HostCmd.nsDelete 1)).inv = true ∧
    Fresh (w8 (HostCmd.nsDelete 1)) 9 (adm8 (HostCmd.nsDelete 1)) ∧ supTurns (w8 (HostCmd.nsDelete 1)) = true ∧
    adminGo (w8 (HostCmd.nsDelete 1)) 9 = true ∧ (adm8 (HostCmd.nsDelete 1)).cmd = HostCmd.nsDelete 1 ∧ workersReady (w8 (HostCmd.nsDelete 1)) = true ∧
    journalOn (w8 (HostCmd.nsDelete 1)) = true ∧ nsTurn (w8 (HostCmd.nsDelete 1)) 9 (wholeNs (w8 (HostCmd.nsDelete 1)) 1) = true ∧
    (w8d (HostCmd.nsDelete 1)).inv = true ∧ Fresh (w8d (HostCmd.nsDelete 1)) 9 (adm8 (HostCmd.nsDelete 1)) ∧ supTurns (w8d (HostCmd.nsDelete 1)) = true ∧
    adminGo (w8d (HostCmd.nsDelete 1)) 9 = true ∧ workersReady (w8d (HostCmd.nsDelete 1)) = false ∧ (w8 (HostCmd.nsAttach 1 [1] false)).inv = true ∧
    Fresh (w8 (HostCmd.nsAttach 1 [1] false)) 9 (adm8 (HostCmd.nsAttach 1 [1] false)) ∧ supTurns (w8 (HostCmd.nsAttach 1 [1] false)) = true ∧
    adminGo (w8 (HostCmd.nsAttach 1 [1] false)) 9 = true ∧ (adm8 (HostCmd.nsAttach 1 [1] false)).cmd = HostCmd.nsAttach 1 [1] false ∧
    nspace (w8 (HostCmd.nsAttach 1 [1] false)) 1 = some nsp8 ∧ workersReady (w8 (HostCmd.nsAttach 1 [1] false)) = true ∧ 1 ∉ nsp8.attached ∧
    (w8 (HostCmd.nsAttach 2 [1] false)).inv = true ∧ Fresh (w8 (HostCmd.nsAttach 2 [1] false)) 9 (adm8 (HostCmd.nsAttach 2 [1] false)) ∧
    supTurns (w8 (HostCmd.nsAttach 2 [1] false)) = true ∧ adminGo (w8 (HostCmd.nsAttach 2 [1] false)) 9 = true ∧
    (adm8 (HostCmd.nsAttach 2 [1] false)).cmd = HostCmd.nsAttach 2 [1] false ∧ nspace (w8 (HostCmd.nsAttach 2 [1] false)) 2 = none ∧
    (w8 (HostCmd.format 1 0 4 0 false)).inv = true ∧ Fresh (w8 (HostCmd.format 1 0 4 0 false)) 9 (adm8 (HostCmd.format 1 0 4 0 false)) ∧
    supTurns (w8 (HostCmd.format 1 0 4 0 false)) = true ∧ adminGo (w8 (HostCmd.format 1 0 4 0 false)) 9 = true ∧
    (adm8 (HostCmd.format 1 0 4 0 false)).cmd = HostCmd.format 1 0 4 0 false ∧ nspace (w8 (HostCmd.format 1 0 4 0 false)) 1 = some nsp8 ∧
    workersReady (w8 (HostCmd.format 1 0 4 0 false)) = true ∧ journalOn (w8 (HostCmd.format 1 0 4 0 false)) = true ∧
    nsTurn (w8 (HostCmd.format 1 0 4 0 false)) 9 (wholeNs (w8 (HostCmd.format 1 0 4 0 false)) 1) = true ∧
    (w8e (HostCmd.format 1 1 4 0 false)).inv = true ∧ Fresh (w8e (HostCmd.format 1 1 4 0 false)) 9 (adm8 (HostCmd.format 1 1 4 0 false)) ∧
    supTurns (w8e (HostCmd.format 1 1 4 0 false)) = true ∧ adminGo (w8e (HostCmd.format 1 1 4 0 false)) 9 = true ∧
    (adm8 (HostCmd.format 1 1 4 0 false)).cmd = HostCmd.format 1 1 4 0 false ∧ 1 ≠ 0 ∧
    (w8e (HostCmd.format 1 1 4 0 false)).on STG_STATUS.TAMPERED = true ∧ (w8 (HostCmd.selfTest 1 0)).inv = true ∧
    Fresh (w8 (HostCmd.selfTest 1 0)) 9 (adm8 (HostCmd.selfTest 1 0)) ∧ supTurns (w8 (HostCmd.selfTest 1 0)) = true ∧
    adminGo (w8 (HostCmd.selfTest 1 0)) 9 = true ∧ (w8 (HostCmd.selfTest 1 0)).atc.dst = none ∧ (adm8 (HostCmd.selfTest 1 0)).cmd = HostCmd.selfTest 1 0 ∧
    (w8 (HostCmd.selfTest 2 0)).inv = true ∧ Fresh (w8 (HostCmd.selfTest 2 0)) 9 (adm8 (HostCmd.selfTest 2 0)) ∧
    supTurns (w8 (HostCmd.selfTest 2 0)) = true ∧ adminGo (w8 (HostCmd.selfTest 2 0)) 9 = true ∧ (w8 (HostCmd.selfTest 2 0)).atc.dst = none ∧
    (adm8 (HostCmd.selfTest 2 0)).cmd = HostCmd.selfTest 2 0 ∧ (w8e (HostCmd.selfTest 1 0)).inv = true ∧
    Fresh (w8e (HostCmd.selfTest 1 0)) 9 (adm8 (HostCmd.selfTest 1 0)) ∧ supTurns (w8e (HostCmd.selfTest 1 0)) = true ∧
    adminGo (w8e (HostCmd.selfTest 1 0)) 9 = true ∧ (w8e (HostCmd.selfTest 1 0)).atc.dst = some run8 ∧ (w8e (HostCmd.selfTest 15 0)).inv = true ∧
    Fresh (w8e (HostCmd.selfTest 15 0)) 9 (adm8 (HostCmd.selfTest 15 0)) ∧ supTurns (w8e (HostCmd.selfTest 15 0)) = true ∧
    adminGo (w8e (HostCmd.selfTest 15 0)) 9 = true ∧ (w8e (HostCmd.selfTest 15 0)).atc.dst = some run8 ∧
    (adm8 (HostCmd.selfTest 15 0)).cmd = HostCmd.selfTest 15 0 ∧ (w8 (HostCmd.directive true 0 1 0)).inv = true ∧
    Fresh (w8 (HostCmd.directive true 0 1 0)) 9 (adm8 (HostCmd.directive true 0 1 0)) ∧ supTurns (w8 (HostCmd.directive true 0 1 0)) = true ∧
    adminGo (w8 (HostCmd.directive true 0 1 0)) 9 = true ∧ (adm8 (HostCmd.directive true 0 1 0)).cmd = HostCmd.directive true 0 1 0 ∧
    (w8 (HostCmd.directive false 0 1 0)).inv = true ∧ Fresh (w8 (HostCmd.directive false 0 1 0)) 9 (adm8 (HostCmd.directive false 0 1 0)) ∧
    supTurns (w8 (HostCmd.directive false 0 1 0)) = true ∧ adminGo (w8 (HostCmd.directive false 0 1 0)) 9 = true ∧
    (adm8 (HostCmd.directive false 0 1 0)).cmd = HostCmd.directive false 0 1 0 ∧ (w8 (HostCmd.directive true 0 2 0)).inv = true ∧
    Fresh (w8 (HostCmd.directive true 0 2 0)) 9 (adm8 (HostCmd.directive true 0 2 0)) ∧ supTurns (w8 (HostCmd.directive true 0 2 0)) = true ∧
    adminGo (w8 (HostCmd.directive true 0 2 0)) 9 = true ∧ (adm8 (HostCmd.directive true 0 2 0)).cmd = HostCmd.directive true 0 2 0 ∧ 2 ≠ 1 ∧
    (w8 (HostCmd.getLbaStatus 1 0)).inv = true ∧ Fresh (w8 (HostCmd.getLbaStatus 1 0)) 9 (adm8 (HostCmd.getLbaStatus 1 0)) ∧
    supTurns (w8 (HostCmd.getLbaStatus 1 0)) = true ∧ adminGo (w8 (HostCmd.getLbaStatus 1 0)) 9 = true ∧
    (adm8 (HostCmd.getLbaStatus 1 0)).cmd = HostCmd.getLbaStatus 1 0 ∧ (w8e (HostCmd.atticClear true)).inv = true ∧
    Fresh (w8e (HostCmd.atticClear true)) 9 (adm8 (HostCmd.atticClear true)) ∧ supTurns (w8e (HostCmd.atticClear true)) = true ∧
    adminGo (w8e (HostCmd.atticClear true)) 9 = true ∧ (adm8 (HostCmd.atticClear true)).cmd = HostCmd.atticClear true ∧
    Option.any (fun y => y.sp == 0 && y.auth == 1) ((w8e (HostCmd.atticClear true)).stg.sessions.find (adm8 (HostCmd.atticClear true)).port) = true ∧
    (w8e (HostCmd.atticClear true)).atc.full = false ∧ (w8e (HostCmd.atticClear true)).atc.postedThisSec < 4096 ∧
    (w8 (HostCmd.atticClear true)).inv = true ∧ Fresh (w8 (HostCmd.atticClear true)) 9 (adm8 (HostCmd.atticClear true)) ∧
    supTurns (w8 (HostCmd.atticClear true)) = true ∧ adminGo (w8 (HostCmd.atticClear true)) 9 = true ∧
    Option.any (fun y => y.sp == 0 && y.auth == 1) ((w8 (HostCmd.atticClear true)).stg.sessions.find (adm8 (HostCmd.atticClear true)).port) = false := by
  repeat' apply And.intro
  all_goals decide +kernel

def w8f (c : HostCmd) : State := { w8 c with hall := { ctxs := [(8, write7), (9, adm8 c)] } }
def w8g (k : Nat) : State := up.wr PAN_STATUS.RECOVERY_STEP k
def w8h : State := { up with pan := { holePage := some 7 } }

/-- The premises of `Obligations.SanitizeAndRecovery` are met, clause by clause. -/
theorem witness_SanitizeAndRecovery :
    (w8 (HostCmd.sanitize 4)).inv = true ∧ Fresh (w8 (HostCmd.sanitize 4)) 9 (adm8 (HostCmd.sanitize 4)) ∧ supTurns (w8 (HostCmd.sanitize 4)) = true ∧
    adminGo (w8 (HostCmd.sanitize 4)) 9 = true ∧ workersReady (w8 (HostCmd.sanitize 4)) = true ∧ (adm8 (HostCmd.sanitize 4)).cmd = HostCmd.sanitize 4 ∧
    journalOn (w8 (HostCmd.sanitize 4)) = true ∧ sanitizeTurn (w8 (HostCmd.sanitize 4)) 9 = true ∧ isManager (w8 (HostCmd.sanitize 4)) = false ∧
    (w8f (HostCmd.sanitize 4)).inv = true ∧ Fresh (w8f (HostCmd.sanitize 4)) 9 (adm8 (HostCmd.sanitize 4)) ∧ supTurns (w8f (HostCmd.sanitize 4)) = true ∧
    adminGo (w8f (HostCmd.sanitize 4)) 9 = true ∧ workersReady (w8f (HostCmd.sanitize 4)) = true ∧ sanitizeTurn (w8f (HostCmd.sanitize 4)) 9 = false ∧
    (w8 (HostCmd.sanitize 2)).inv = true ∧ Fresh (w8 (HostCmd.sanitize 2)) 9 (adm8 (HostCmd.sanitize 2)) ∧ supTurns (w8 (HostCmd.sanitize 2)) = true ∧
    adminGo (w8 (HostCmd.sanitize 2)) 9 = true ∧ workersReady (w8 (HostCmd.sanitize 2)) = true ∧ (adm8 (HostCmd.sanitize 2)).cmd = HostCmd.sanitize 2 ∧
    journalOn (w8 (HostCmd.sanitize 2)) = true ∧ sanitizeTurn (w8 (HostCmd.sanitize 2)) 9 = true ∧ isManager (w8 (HostCmd.sanitize 2)) = false ∧
    (w8f (HostCmd.sanitize 2)).inv = true ∧ Fresh (w8f (HostCmd.sanitize 2)) 9 (adm8 (HostCmd.sanitize 2)) ∧ supTurns (w8f (HostCmd.sanitize 2)) = true ∧
    adminGo (w8f (HostCmd.sanitize 2)) 9 = true ∧ workersReady (w8f (HostCmd.sanitize 2)) = true ∧ sanitizeTurn (w8f (HostCmd.sanitize 2)) 9 = false ∧
    up.inv = true ∧ running up = true ∧ up.pwr.frozen = false ∧ up.porch.recovery = false ∧ up.on PAN_CTL.JOURNAL_EN = false ∧ up.pan.holePage = none ∧
    up.rd PAN_STATUS.RECOVERY_STEP = 0 ∧ 2 ≠ up.rd PAN_STATUS.RECOVERY_STEP + 1 ∧ 2 ≠ 9 ∧ (w8g 2).inv = true ∧ running (w8g 2) = true ∧
    (w8g 2).pwr.frozen = false ∧ (w8g 2).porch.recovery = false ∧ (w8g 2).on PAN_CTL.JOURNAL_EN = false ∧ (w8g 2).pan.holePage = none ∧
    (w8g 2).rd PAN_STATUS.RECOVERY_STEP = 2 ∧ (w8g 5).inv = true ∧ running (w8g 5) = true ∧ (w8g 5).pwr.frozen = false ∧ (w8g 5).porch.recovery = false ∧
    (w8g 5).on PAN_CTL.JOURNAL_EN = false ∧ (w8g 5).pan.holePage = none ∧ (w8g 5).rd PAN_STATUS.RECOVERY_STEP = 5 ∧ 0 < 2 ^ 32 ∧ w8h.inv = true ∧
    w8h.pan.holePage = some 7 := by
  repeat' apply And.intro
  all_goals decide +kernel

def w9a (c : HostCmd) : State := { w8 c with ldr := { wt := true } }
def w9b (c : HostCmd) : State := { w8 c with pwr := { por := false, holdupOk := true, straps := { holdup := true } } }
def w9c (c : HostCmd) : State := { w8 c with nvm := { queuesSet := [0] } }
def w9d (c : HostCmd) : State := { w8 c with nvm := { fdp := true } }
def w9e (c : HostCmd) : State := { w8 c with porch := { ports := [(0, livePort)], recovery := true } }
def sess9 : TcgSession := { sp := 0, auth := 1 }
def w9f (c : HostCmd) : State := { w8 c with stg := { sessions := [(0, sess9)], tries := [(credKey 0 4, 5)] } }

/-- The premises of `Obligations.Features` are met, clause by clause. -/
theorem witness_Features :
    (w8 (HostCmd.setFeatures 1 0 0 0 false [])).inv = true ∧
    Fresh (w8 (HostCmd.setFeatures 1 0 0 0 false [])) 9 (adm8 (HostCmd.setFeatures 1 0 0 0 false [])) ∧
    adminGo (w8 (HostCmd.setFeatures 1 0 0 0 false [])) 9 = true ∧
    (adm8 (HostCmd.setFeatures 1 0 0 0 false [])).cmd = HostCmd.setFeatures 1 0 0 0 false [] ∧ (w8 (HostCmd.setFeatures 1 0 0 0 true [])).inv = true ∧
    Fresh (w8 (HostCmd.setFeatures 1 0 0 0 true [])) 9 (adm8 (HostCmd.setFeatures 1 0 0 0 true [])) ∧
    adminGo (w8 (HostCmd.setFeatures 1 0 0 0 true [])) 9 = true ∧ (adm8 (HostCmd.setFeatures 1 0 0 0 true [])).cmd = HostCmd.setFeatures 1 0 0 0 true [] ∧
    (w8 (HostCmd.setFeatures 2 0 0 5 false [])).inv = true ∧
    Fresh (w8 (HostCmd.setFeatures 2 0 0 5 false [])) 9 (adm8 (HostCmd.setFeatures 2 0 0 5 false [])) ∧
    adminGo (w8 (HostCmd.setFeatures 2 0 0 5 false [])) 9 = true ∧
    (adm8 (HostCmd.setFeatures 2 0 0 5 false [])).cmd = HostCmd.setFeatures 2 0 0 5 false [] ∧ 5 % 32 ≤ 5 ∧
    (w8 (HostCmd.setFeatures 2 0 0 6 false [])).inv = true ∧
    Fresh (w8 (HostCmd.setFeatures 2 0 0 6 false [])) 9 (adm8 (HostCmd.setFeatures 2 0 0 6 false [])) ∧
    adminGo (w8 (HostCmd.setFeatures 2 0 0 6 false [])) 9 = true ∧
    (adm8 (HostCmd.setFeatures 2 0 0 6 false [])).cmd = HostCmd.setFeatures 2 0 0 6 false [] ∧ 5 < 6 % 32 ∧
    (w8 (HostCmd.setFeatures 4 0 0 1245184 false [])).inv = true ∧
    Fresh (w8 (HostCmd.setFeatures 4 0 0 1245184 false [])) 9 (adm8 (HostCmd.setFeatures 4 0 0 1245184 false [])) ∧
    adminGo (w8 (HostCmd.setFeatures 4 0 0 1245184 false [])) 9 = true ∧
    (adm8 (HostCmd.setFeatures 4 0 0 1245184 false [])).cmd = HostCmd.setFeatures 4 0 0 1245184 false [] ∧ bits 1245184 16 4 ≤ 3 ∧ bits 1245184 20 2 ≤ 1 ∧
    (w8 (HostCmd.setFeatures 5 1 0 0 false [])).inv = true ∧
    Fresh (w8 (HostCmd.setFeatures 5 1 0 0 false [])) 9 (adm8 (HostCmd.setFeatures 5 1 0 0 false [])) ∧
    adminGo (w8 (HostCmd.setFeatures 5 1 0 0 false [])) 9 = true ∧
    (adm8 (HostCmd.setFeatures 5 1 0 0 false [])).cmd = HostCmd.setFeatures 5 1 0 0 false [] ∧ 1 ≠ 4294967295 ∧
    (nspace (w8 (HostCmd.setFeatures 5 1 0 0 false [])) 1).isSome = true ∧ (w8 (HostCmd.setFeatures 5 2 0 0 false [])).inv = true ∧
    Fresh (w8 (HostCmd.setFeatures 5 2 0 0 false [])) 9 (adm8 (HostCmd.setFeatures 5 2 0 0 false [])) ∧
    adminGo (w8 (HostCmd.setFeatures 5 2 0 0 false [])) 9 = true ∧
    (adm8 (HostCmd.setFeatures 5 2 0 0 false [])).cmd = HostCmd.setFeatures 5 2 0 0 false [] ∧ 2 ≠ 4294967295 ∧
    nspace (w8 (HostCmd.setFeatures 5 2 0 0 false [])) 2 = none ∧ (w9a (HostCmd.setFeatures 6 0 0 0 false [])).inv = true ∧
    Fresh (w9a (HostCmd.setFeatures 6 0 0 0 false [])) 9 (adm8 (HostCmd.setFeatures 6 0 0 0 false [])) ∧
    adminGo (w9a (HostCmd.setFeatures 6 0 0 0 false [])) 9 = true ∧
    (adm8 (HostCmd.setFeatures 6 0 0 0 false [])).cmd = HostCmd.setFeatures 6 0 0 0 false [] ∧
    heldUp (w9a (HostCmd.setFeatures 6 0 0 0 false [])) = false ∧ (w9a (HostCmd.setFeatures 6 0 0 0 false [])).ldr.wt = true ∧
    (w9b (HostCmd.setFeatures 6 0 0 0 false [])).inv = true ∧
    Fresh (w9b (HostCmd.setFeatures 6 0 0 0 false [])) 9 (adm8 (HostCmd.setFeatures 6 0 0 0 false [])) ∧
    adminGo (w9b (HostCmd.setFeatures 6 0 0 0 false [])) 9 = true ∧ heldUp (w9b (HostCmd.setFeatures 6 0 0 0 false [])) = true ∧
    (w8 (HostCmd.setFeatures 7 0 0 3 false [])).inv = true ∧
    Fresh (w8 (HostCmd.setFeatures 7 0 0 3 false [])) 9 (adm8 (HostCmd.setFeatures 7 0 0 3 false [])) ∧
    adminGo (w8 (HostCmd.setFeatures 7 0 0 3 false [])) 9 = true ∧
    (adm8 (HostCmd.setFeatures 7 0 0 3 false [])).cmd = HostCmd.setFeatures 7 0 0 3 false [] ∧
    (adm8 (HostCmd.setFeatures 7 0 0 3 false [])).port ∉ (w8 (HostCmd.setFeatures 7 0 0 3 false [])).nvm.queuesSet ∧ 3 % 65536 ≠ 65535 ∧
    bits 3 16 16 ≠ 65535 ∧ (w9c (HostCmd.setFeatures 7 0 0 3 false [])).inv = true ∧
    Fresh (w9c (HostCmd.setFeatures 7 0 0 3 false [])) 9 (adm8 (HostCmd.setFeatures 7 0 0 3 false [])) ∧
    adminGo (w9c (HostCmd.setFeatures 7 0 0 3 false [])) 9 = true ∧
    (adm8 (HostCmd.setFeatures 7 0 0 3 false [])).port ∈ (w9c (HostCmd.setFeatures 7 0 0 3 false [])).nvm.queuesSet ∧
    (w8 (HostCmd.setFeatures 8 0 0 0 false [])).inv = true ∧
    Fresh (w8 (HostCmd.setFeatures 8 0 0 0 false [])) 9 (adm8 (HostCmd.setFeatures 8 0 0 0 false [])) ∧
    adminGo (w8 (HostCmd.setFeatures 8 0 0 0 false [])) 9 = true ∧
    (adm8 (HostCmd.setFeatures 8 0 0 0 false [])).cmd = HostCmd.setFeatures 8 0 0 0 false [] ∧ (w8 (HostCmd.setFeatures 9 0 0 3 false [])).inv = true ∧
    Fresh (w8 (HostCmd.setFeatures 9 0 0 3 false [])) 9 (adm8 (HostCmd.setFeatures 9 0 0 3 false [])) ∧
    adminGo (w8 (HostCmd.setFeatures 9 0 0 3 false [])) 9 = true ∧
    (adm8 (HostCmd.setFeatures 9 0 0 3 false [])).cmd = HostCmd.setFeatures 9 0 0 3 false [] ∧
    3 % 65536 < (w8 (HostCmd.setFeatures 9 0 0 3 false [])).porch.ident.msix ∧ (w8 (HostCmd.setFeatures 10 0 0 0 false [])).inv = true ∧
    Fresh (w8 (HostCmd.setFeatures 10 0 0 0 false [])) 9 (adm8 (HostCmd.setFeatures 10 0 0 0 false [])) ∧
    adminGo (w8 (HostCmd.setFeatures 10 0 0 0 false [])) 9 = true ∧
    (adm8 (HostCmd.setFeatures 10 0 0 0 false [])).cmd = HostCmd.setFeatures 10 0 0 0 false [] ∧ (w8 (HostCmd.setFeatures 11 0 0 0 false [])).inv = true ∧
    Fresh (w8 (HostCmd.setFeatures 11 0 0 0 false [])) 9 (adm8 (HostCmd.setFeatures 11 0 0 0 false [])) ∧
    adminGo (w8 (HostCmd.setFeatures 11 0 0 0 false [])) 9 = true ∧
    (adm8 (HostCmd.setFeatures 11 0 0 0 false [])).cmd = HostCmd.setFeatures 11 0 0 0 false [] ∧ (w8 (HostCmd.setFeatures 17 0 0 0 false [])).inv = true ∧
    Fresh (w8 (HostCmd.setFeatures 17 0 0 0 false [])) 9 (adm8 (HostCmd.setFeatures 17 0 0 0 false [])) ∧
    adminGo (w8 (HostCmd.setFeatures 17 0 0 0 false [])) 9 = true ∧
    (adm8 (HostCmd.setFeatures 17 0 0 0 false [])).cmd = HostCmd.setFeatures 17 0 0 0 false [] ∧
    (w8 (HostCmd.setFeatures 128 0 0 0 false [])).inv = true ∧
    Fresh (w8 (HostCmd.setFeatures 128 0 0 0 false [])) 9 (adm8 (HostCmd.setFeatures 128 0 0 0 false [])) ∧
    adminGo (w8 (HostCmd.setFeatures 128 0 0 0 false [])) 9 = true ∧
    (adm8 (HostCmd.setFeatures 128 0 0 0 false [])).cmd = HostCmd.setFeatures 128 0 0 0 false [] ∧ (w8 (HostCmd.getFeatures 1 0 0 0)).inv = true ∧
    Fresh (w8 (HostCmd.getFeatures 1 0 0 0)) 9 (adm8 (HostCmd.getFeatures 1 0 0 0)) ∧ adminGo (w8 (HostCmd.getFeatures 1 0 0 0)) 9 = true ∧
    (adm8 (HostCmd.getFeatures 1 0 0 0)).cmd = HostCmd.getFeatures 1 0 0 0 ∧ 0 = 0 ∧ (w8 (HostCmd.getFeatures 1 3 0 0)).inv = true ∧
    Fresh (w8 (HostCmd.getFeatures 1 3 0 0)) 9 (adm8 (HostCmd.getFeatures 1 3 0 0)) ∧ adminGo (w8 (HostCmd.getFeatures 1 3 0 0)) 9 = true ∧
    (adm8 (HostCmd.getFeatures 1 3 0 0)).cmd = HostCmd.getFeatures 1 3 0 0 ∧ 3 = 3 ∧ (w8 (HostCmd.getFeatures 1 4 0 0)).inv = true ∧
    Fresh (w8 (HostCmd.getFeatures 1 4 0 0)) 9 (adm8 (HostCmd.getFeatures 1 4 0 0)) ∧ adminGo (w8 (HostCmd.getFeatures 1 4 0 0)) 9 = true ∧
    (adm8 (HostCmd.getFeatures 1 4 0 0)).cmd = HostCmd.getFeatures 1 4 0 0 ∧ 3 < 4 ∧ (w8 (HostCmd.getFeatures 3 0 0 0)).inv = true ∧
    Fresh (w8 (HostCmd.getFeatures 3 0 0 0)) 9 (adm8 (HostCmd.getFeatures 3 0 0 0)) ∧ adminGo (w8 (HostCmd.getFeatures 3 0 0 0)) 9 = true ∧
    (adm8 (HostCmd.getFeatures 3 0 0 0)).cmd = HostCmd.getFeatures 3 0 0 0 := by
  repeat' apply And.intro
  all_goals decide +kernel

/-- The premises of `Obligations.SupervisorFeatures` are met, clause by clause. -/
theorem witness_SupervisorFeatures :
    (w8 (HostCmd.setFeatures 12 0 0 1 false [0])).inv = true ∧
    Fresh (w8 (HostCmd.setFeatures 12 0 0 1 false [0])) 9 (adm8 (HostCmd.setFeatures 12 0 0 1 false [0])) ∧
    adminGo (w8 (HostCmd.setFeatures 12 0 0 1 false [0])) 9 = true ∧ supTurns (w8 (HostCmd.setFeatures 12 0 0 1 false [0])) = true ∧
    (adm8 (HostCmd.setFeatures 12 0 0 1 false [0])).cmd = HostCmd.setFeatures 12 0 0 1 false [0] ∧ 1 % 2 = 1 ∧ [0].length ≤ 32 ∧
    ([0].all fun w => (apstOf w).idleMs == 0 || decide (3 ≤ (apstOf w).target) && decide ((apstOf w).target ≤ 5)) = true ∧
    (w8 (HostCmd.setFeatures 12 0 0 1 false [272])).inv = true ∧
    Fresh (w8 (HostCmd.setFeatures 12 0 0 1 false [272])) 9 (adm8 (HostCmd.setFeatures 12 0 0 1 false [272])) ∧
    adminGo (w8 (HostCmd.setFeatures 12 0 0 1 false [272])) 9 = true ∧ supTurns (w8 (HostCmd.setFeatures 12 0 0 1 false [272])) = true ∧
    (adm8 (HostCmd.setFeatures 12 0 0 1 false [272])).cmd = HostCmd.setFeatures 12 0 0 1 false [272] ∧ [272].length ≤ 32 ∧
    ([272].all fun w => (apstOf w).idleMs == 0 || decide (3 ≤ (apstOf w).target) && decide ((apstOf w).target ≤ 5)) = false ∧
    (w8 (HostCmd.setFeatures 14 0 0 0 false [7])).inv = true ∧
    Fresh (w8 (HostCmd.setFeatures 14 0 0 0 false [7])) 9 (adm8 (HostCmd.setFeatures 14 0 0 0 false [7])) ∧
    adminGo (w8 (HostCmd.setFeatures 14 0 0 0 false [7])) 9 = true ∧ supTurns (w8 (HostCmd.setFeatures 14 0 0 0 false [7])) = true ∧
    (adm8 (HostCmd.setFeatures 14 0 0 0 false [7])).cmd = HostCmd.setFeatures 14 0 0 0 false [7] ∧
    (w9d (HostCmd.setFeatures 29 0 1 1 false [])).inv = true ∧
    Fresh (w9d (HostCmd.setFeatures 29 0 1 1 false [])) 9 (adm8 (HostCmd.setFeatures 29 0 1 1 false [])) ∧
    adminGo (w9d (HostCmd.setFeatures 29 0 1 1 false [])) 9 = true ∧ supTurns (w9d (HostCmd.setFeatures 29 0 1 1 false [])) = true ∧
    (adm8 (HostCmd.setFeatures 29 0 1 1 false [])).cmd = HostCmd.setFeatures 29 0 1 1 false [] ∧ 1 < 2 ∧
    (w9d (HostCmd.setFeatures 29 0 1 1 false [])).nvm.spaces = [] ∧ (w8 (HostCmd.setFeatures 29 0 1 1 false [])).inv = true ∧
    Fresh (w8 (HostCmd.setFeatures 29 0 1 1 false [])) 9 (adm8 (HostCmd.setFeatures 29 0 1 1 false [])) ∧
    adminGo (w8 (HostCmd.setFeatures 29 0 1 1 false [])) 9 = true ∧ supTurns (w8 (HostCmd.setFeatures 29 0 1 1 false [])) = true ∧
    (w8 (HostCmd.setFeatures 29 0 1 1 false [])).nvm.spaces ≠ [] ∧ (w9d (HostCmd.setFeatures 30 0 65551 1 false [128])).inv = true ∧
    Fresh (w9d (HostCmd.setFeatures 30 0 65551 1 false [128])) 9 (adm8 (HostCmd.setFeatures 30 0 65551 1 false [128])) ∧
    adminGo (w9d (HostCmd.setFeatures 30 0 65551 1 false [128])) 9 = true ∧ supTurns (w9d (HostCmd.setFeatures 30 0 65551 1 false [128])) = true ∧
    (adm8 (HostCmd.setFeatures 30 0 65551 1 false [128])).cmd = HostCmd.setFeatures 30 0 (65536 + 15) 1 false [128] ∧ 15 < 16 ∧
    (w9d (HostCmd.setFeatures 30 0 65551 1 false [128])).nvm.fdp = true ∧ (w8 (HostCmd.setFeatures 30 0 65551 1 false [128])).inv = true ∧
    Fresh (w8 (HostCmd.setFeatures 30 0 65551 1 false [128])) 9 (adm8 (HostCmd.setFeatures 30 0 65551 1 false [128])) ∧
    adminGo (w8 (HostCmd.setFeatures 30 0 65551 1 false [128])) 9 = true ∧ supTurns (w8 (HostCmd.setFeatures 30 0 65551 1 false [128])) = true ∧
    (w8 (HostCmd.setFeatures 30 0 65551 1 false [128])).nvm.fdp = false := by
  repeat' apply And.intro
  all_goals decide +kernel

/-- The premises of `Obligations.IdentifyAndLogs` are met, clause by clause. -/
theorem witness_IdentifyAndLogs :
    (w8 (HostCmd.identify 1 0 0 0)).inv = true ∧ Fresh (w8 (HostCmd.identify 1 0 0 0)) 9 (adm8 (HostCmd.identify 1 0 0 0)) ∧
    adminGo (w8 (HostCmd.identify 1 0 0 0)) 9 = true ∧ (adm8 (HostCmd.identify 1 0 0 0)).cmd = HostCmd.identify 1 0 0 0 ∧
    (w8 (HostCmd.identify 0 0 1 0)).inv = true ∧ Fresh (w8 (HostCmd.identify 0 0 1 0)) 9 (adm8 (HostCmd.identify 0 0 1 0)) ∧
    adminGo (w8 (HostCmd.identify 0 0 1 0)) 9 = true ∧ (w8 (HostCmd.identify 0 0 1 0)).porch.recovery = false ∧
    (adm8 (HostCmd.identify 0 0 1 0)).cmd = HostCmd.identify 0 0 1 0 ∧
    Option.any (fun x => x.attached.contains ((adm8 (HostCmd.identify 0 0 1 0)).port + 1)) (nspace (w8 (HostCmd.identify 0 0 1 0)) 1) = false ∧
    (w9e (HostCmd.identify 2 0 0 0)).inv = true ∧ Fresh (w9e (HostCmd.identify 2 0 0 0)) 9 (adm8 (HostCmd.identify 2 0 0 0)) ∧
    adminGo (w9e (HostCmd.identify 2 0 0 0)) 9 = true ∧ (w9e (HostCmd.identify 2 0 0 0)).porch.recovery = true ∧
    (adm8 (HostCmd.identify 2 0 0 0)).cmd = HostCmd.identify 2 0 0 0 ∧ (w8 (HostCmd.getLog 3 0 4 4294967295 false)).inv = true ∧
    Fresh (w8 (HostCmd.getLog 3 0 4 4294967295 false)) 9 (adm8 (HostCmd.getLog 3 0 4 4294967295 false)) ∧
    adminGo (w8 (HostCmd.getLog 3 0 4 4294967295 false)) 9 = true ∧
    (adm8 (HostCmd.getLog 3 0 4 4294967295 false)).cmd = HostCmd.getLog 3 0 4 4294967295 false ∧
    supTurns (w8 (HostCmd.getLog 3 0 4 4294967295 false)) = true ∧ (w8 (HostCmd.getLog 85 0 4 0 false)).inv = true ∧
    Fresh (w8 (HostCmd.getLog 85 0 4 0 false)) 9 (adm8 (HostCmd.getLog 85 0 4 0 false)) ∧ adminGo (w8 (HostCmd.getLog 85 0 4 0 false)) 9 = true ∧
    (adm8 (HostCmd.getLog 85 0 4 0 false)).cmd = HostCmd.getLog 85 0 4 0 false ∧ supTurns (w8 (HostCmd.getLog 85 0 4 0 false)) = true ∧ 85 ≠ 192 ∧
    85 ∉ logPages ∧ (w8 (HostCmd.getLog 2 2 4 0 false)).inv = true ∧ Fresh (w8 (HostCmd.getLog 2 2 4 0 false)) 9 (adm8 (HostCmd.getLog 2 2 4 0 false)) ∧
    adminGo (w8 (HostCmd.getLog 2 2 4 0 false)) 9 = true ∧ (adm8 (HostCmd.getLog 2 2 4 0 false)).cmd = HostCmd.getLog 2 2 4 0 false ∧
    supTurns (w8 (HostCmd.getLog 2 2 4 0 false)) = true ∧ 2 ≠ 192 ∧ 2 ∈ logPages ∧ (w8 (HostCmd.getLog 2 2 4 0 false)).porch.recovery = false ∧
    2 % 4 ≠ 0 ∧ (w8 (HostCmd.getLog 2 0 4 129 false)).inv = true ∧ Fresh (w8 (HostCmd.getLog 2 0 4 129 false)) 9 (adm8 (HostCmd.getLog 2 0 4 129 false)) ∧
    adminGo (w8 (HostCmd.getLog 2 0 4 129 false)) 9 = true ∧ (adm8 (HostCmd.getLog 2 0 4 129 false)).cmd = HostCmd.getLog 2 0 4 129 false ∧
    supTurns (w8 (HostCmd.getLog 2 0 4 129 false)) = true ∧ (w8 (HostCmd.getLog 2 0 4 129 false)).porch.recovery = false ∧ 0 % 4 = 0 ∧
    nspace (w8 (HostCmd.getLog 2 0 4 129 false)) 129 = none ∧ 129 ≠ 0 ∧ 129 ≠ 4294967295 ∧ (w8 (HostCmd.getLog 192 0 64 0 false)).inv = true ∧
    Fresh (w8 (HostCmd.getLog 192 0 64 0 false)) 9 (adm8 (HostCmd.getLog 192 0 64 0 false)) ∧ adminGo (w8 (HostCmd.getLog 192 0 64 0 false)) 9 = true ∧
    (adm8 (HostCmd.getLog 192 0 64 0 false)).cmd = HostCmd.getLog 192 0 64 0 false ∧ (w8 (HostCmd.getLog 192 0 64 0 false)).porch.recovery = false ∧
    64 + 48 * (w8 (HostCmd.getLog 192 0 64 0 false)).hall.defer_.length ≤ 64 ∧ (w8 (HostCmd.getLog 192 0 64 0 true)).inv = true ∧
    Fresh (w8 (HostCmd.getLog 192 0 64 0 true)) 9 (adm8 (HostCmd.getLog 192 0 64 0 true)) ∧ adminGo (w8 (HostCmd.getLog 192 0 64 0 true)) 9 = true ∧
    (adm8 (HostCmd.getLog 192 0 64 0 true)).cmd = HostCmd.getLog 192 0 64 0 true ∧ (w8 (HostCmd.getLog 192 0 64 0 true)).porch.recovery = false := by
  repeat' apply And.intro
  all_goals decide +kernel

/-- The premises of `Obligations.Security` are met, clause by clause. -/
theorem witness_Security :
    (w8 (HostCmd.security true 1 (TcgMsg.startSession 0 4 0))).inv = true ∧
    Fresh (w8 (HostCmd.security true 1 (TcgMsg.startSession 0 4 0))) 9 (adm8 (HostCmd.security true 1 (TcgMsg.startSession 0 4 0))) ∧
    adminGo (w8 (HostCmd.security true 1 (TcgMsg.startSession 0 4 0))) 9 = true ∧
    (adm8 (HostCmd.security true 1 (TcgMsg.startSession 0 4 0))).cmd = HostCmd.security true 1 (TcgMsg.startSession 0 4 0) ∧
    (w8 (HostCmd.security true 1 (TcgMsg.startSession 0 4 0))).stg.sessions.find (adm8 (HostCmd.security true 1 (TcgMsg.startSession 0 4 0))).port = none ∧
    1 ≤ 4 ∧ 4 ≤ 4 ∧ (w8 (HostCmd.security true 1 (TcgMsg.startSession 0 4 0))).stg.tries.getD (credKey 0 4) 0 < 5 ∧
    (w8 (HostCmd.security true 1 (TcgMsg.startSession 0 4 0))).stg.creds.getD (credKey 0 4) 0 = 0 ∧
    (w8 (HostCmd.security true 1 (TcgMsg.startSession 0 4 1))).inv = true ∧
    Fresh (w8 (HostCmd.security true 1 (TcgMsg.startSession 0 4 1))) 9 (adm8 (HostCmd.security true 1 (TcgMsg.startSession 0 4 1))) ∧
    adminGo (w8 (HostCmd.security true 1 (TcgMsg.startSession 0 4 1))) 9 = true ∧
    (adm8 (HostCmd.security true 1 (TcgMsg.startSession 0 4 1))).cmd = HostCmd.security true 1 (TcgMsg.startSession 0 4 1) ∧
    (w8 (HostCmd.security true 1 (TcgMsg.startSession 0 4 1))).stg.sessions.find (adm8 (HostCmd.security true 1 (TcgMsg.startSession 0 4 1))).port = none ∧
    (w8 (HostCmd.security true 1 (TcgMsg.startSession 0 4 1))).stg.tries.getD (credKey 0 4) 0 < 5 ∧
    (w8 (HostCmd.security true 1 (TcgMsg.startSession 0 4 1))).stg.creds.getD (credKey 0 4) 0 ≠ 1 ∧
    (w9f (HostCmd.security true 1 (TcgMsg.startSession 0 4 0))).inv = true ∧
    Fresh (w9f (HostCmd.security true 1 (TcgMsg.startSession 0 4 0))) 9 (adm8 (HostCmd.security true 1 (TcgMsg.startSession 0 4 0))) ∧
    adminGo (w9f (HostCmd.security true 1 (TcgMsg.startSession 0 4 0))) 9 = true ∧
    5 ≤ (w9f (HostCmd.security true 1 (TcgMsg.startSession 0 4 0))).stg.tries.getD (credKey 0 4) 0 ∧ 4 ≠ 0 ∧
    (w8 (HostCmd.security true 2 TcgMsg.endSession)).inv = true ∧
    Fresh (w8 (HostCmd.security true 2 TcgMsg.endSession)) 9 (adm8 (HostCmd.security true 2 TcgMsg.endSession)) ∧
    adminGo (w8 (HostCmd.security true 2 TcgMsg.endSession)) 9 = true ∧
    (adm8 (HostCmd.security true 2 TcgMsg.endSession)).cmd = HostCmd.security true 2 TcgMsg.endSession ∧
    (w9f (HostCmd.security true 1 (TcgMsg.setCredential 1 7))).inv = true ∧
    Fresh (w9f (HostCmd.security true 1 (TcgMsg.setCredential 1 7))) 9 (adm8 (HostCmd.security true 1 (TcgMsg.setCredential 1 7))) ∧
    adminGo (w9f (HostCmd.security true 1 (TcgMsg.setCredential 1 7))) 9 = true ∧
    (adm8 (HostCmd.security true 1 (TcgMsg.setCredential 1 7))).cmd = HostCmd.security true 1 (TcgMsg.setCredential 1 7) ∧
    (w9f (HostCmd.security true 1 (TcgMsg.setCredential 1 7))).stg.sessions.find (adm8 (HostCmd.security true 1 (TcgMsg.setCredential 1 7))).port =
  some sess9 ∧
    sess9.sp = 0 ∧ sess9.auth = 1 ∧ 1 ≤ 1 ∧ (w8 (HostCmd.security true 0 TcgMsg.other)).inv = true ∧
    Fresh (w8 (HostCmd.security true 0 TcgMsg.other)) 9 (adm8 (HostCmd.security true 0 TcgMsg.other)) ∧
    adminGo (w8 (HostCmd.security true 0 TcgMsg.other)) 9 = true ∧
    (adm8 (HostCmd.security true 0 TcgMsg.other)).cmd = HostCmd.security true 0 TcgMsg.other ∧ (w8 (HostCmd.security false 0 TcgMsg.other)).inv = true ∧
    Fresh (w8 (HostCmd.security false 0 TcgMsg.other)) 9 (adm8 (HostCmd.security false 0 TcgMsg.other)) ∧
    adminGo (w8 (HostCmd.security false 0 TcgMsg.other)) 9 = true ∧
    (adm8 (HostCmd.security false 0 TcgMsg.other)).cmd = HostCmd.security false 0 TcgMsg.other ∧ (w8 (HostCmd.security false 1 TcgMsg.other)).inv = true ∧
    Fresh (w8 (HostCmd.security false 1 TcgMsg.other)) 9 (adm8 (HostCmd.security false 1 TcgMsg.other)) ∧
    adminGo (w8 (HostCmd.security false 1 TcgMsg.other)) 9 = true ∧
    (adm8 (HostCmd.security false 1 TcgMsg.other)).cmd = HostCmd.security false 1 TcgMsg.other ∧ 1 ≠ 0 := by
  repeat' apply And.intro
  all_goals decide +kernel

def one64 : U64 := 1
def zero64 : U64 := 0
def op10p : CloOp := { req := 0, kind := 1, addr := 256, page := List.replicate 256 0 }
def op10e : CloOp := { req := 0, kind := 2, addr := 65536, page := [] }
def w10 (o : CloOp) : State := { up with clo := { op := some o } }

/-- The premises of `Obligations.ClosetOperations` are met, clause by clause. -/
theorem witness_ClosetOperations :
    up.inv = true ∧ cloRefusal up 1 (up.rd CLO_ADDR.ADDR) = 0 ∧ cloRefusal up 2 (up.rd CLO_ADDR.ADDR) = 0 ∧ cloRefusal up 3 (up.rd CLO_ADDR.ADDR) = 0 ∧
    up.clo.op = none ∧ 3 < 16 ∧ (w10 op10p).inv = true ∧ (w10 op10p).pwr.pwrfail = false ∧ (w10 op10p).clo.op.isSome = true ∧
    ((w10 op10p).seq 64).wait = none ∧ ((w10 op10p).seq 64).held = [] ∧ ((w10 op10p).seq 64).evq.length < 64 ∧ (w10 op10p).clo.op = some op10p ∧
    op10p.req = 0 ∧ (w10 op10p).clo.confirming = false ∧ isWorker (w10 op10p) = false ∧ op10p.kind = 1 ∧ op10p.page.length = 256 ∧ op10p.addr % 256 = 0 ∧
    ¬(456 ≤ op10p.addr / 65536 ∧ op10p.addr / 65536 < 512) ∧ (w10 op10e).inv = true ∧ (w10 op10e).clo.op = some op10e ∧ op10e.req = 0 ∧
    (w10 op10e).clo.confirming = false ∧ isWorker (w10 op10e) = false ∧ op10e.kind = 2 := by
  repeat' apply And.intro
  all_goals decide +kernel

def rec10 : BootRec := { active := 2, prev := 0, rejected := 0, swapAt := 0, activeDigest := 0, prevDigest := 0 }
def nor10 : Tbl Byte := ((List.range 256).zip (recPage rec10)).filter fun e => e.2 != 0xFF
def w10a : State := { up with pwr := { por := false, bootWait := true } }
def w10b : State := { w10a with clo := { nor := nor10 } }
def w10c : State := { up with clo := { nor := nor10, running := 2, confirmSec := some 3 } }
def w10d : State := { up with clo := { running := 2, confirmSec := some 1000 } }
def w10e : State := up.wr STD_SUP_STATUS.BOOT_DONE 1

/-- The premises of `Obligations.BootChoice` are met, clause by clause. -/
theorem witness_BootChoice :
    w10a.inv = true ∧ w10a.pwr.bootWait = true ∧ w10a.clo.op = none ∧ w10a.pwr.pwrfail = false ∧ w10a.pwr.releaseCount = false ∧
    settleSwap w10a = (w10a, 0) ∧ inForce w10a 0 = none ∧ w10b.inv = true ∧ w10b.pwr.bootWait = true ∧ w10b.clo.op = none ∧ w10b.pwr.pwrfail = false ∧
    w10b.pwr.releaseCount = false ∧ settleSwap w10b = (w10b, 0) ∧ inForce w10b 0 = some (false, rec10) ∧ rec10.active ≠ 1 ∧ rec10.rejected = 0 ∧
    (confirmed w10b false = true ∨ attempts w10b false ≠ 3) ∧ w10c.inv = true ∧ w10c.pwr.bootWait = false ∧ BitVec.toNat one64 % 2 = 1 ∧
    w10c.clo.confirmSec = some 3 ∧ w10c.clo.running ≠ 0 ∧ w10c.clo.op = none ∧ w10c.pwr.pwrfail = false ∧ recNow w10c = some (false, rec10) ∧
    running w10c = true ∧ 3 < 900 ∧ w10d.inv = true ∧ BitVec.toNat zero64 % 2 = 0 ∧ w10d.clo.confirmSec = some 1000 ∧ running w10d = true ∧ 900 ≤ 1000 ∧
    w10e.inv = true ∧ w10e.on STD_SUP_STATUS.BOOT_DONE = true ∧ w10e.pwr.pwrfail = false := by
  repeat' apply And.intro
  all_goals decide +kernel

def w10f (c : HostCmd) : State := { w8 c with nvm := { spaces := [], fwBuf := [0, 0], fwLen := 131072 } }
def w10g (c : HostCmd) : State := { w8 c with nvm := { sanitize := some 2 } }
def w10h (a : Nat) : State := { w8 (.fwCommit a 2) with clo := { running := 2 } }
def act10 : Ctx := { adm8 (.fwCommit 3 2) with st := .running }
def w10i : State := { live with clo := { nor := nor10 }, hall := { activating := some 9, ctxs := [(9, act10)] } }
def w10j : State := { live with regs := (live.wr HAL_CTL.FETCH_EN 1).regs, hall := { activating := some 9, ctxs := [(9, act10)] } }

/-- The premises of `Obligations.Firmware` are met, clause by clause. -/
theorem witness_Firmware :
    (w10f (HostCmd.fwDownload 0 65536 [7])).inv = true ∧ Fresh (w10f (HostCmd.fwDownload 0 65536 [7])) 9 (adm8 (HostCmd.fwDownload 0 65536 [7])) ∧
    supTurns (w10f (HostCmd.fwDownload 0 65536 [7])) = true ∧ adminGo (w10f (HostCmd.fwDownload 0 65536 [7])) 9 = true ∧
    (adm8 (HostCmd.fwDownload 0 65536 [7])).cmd = HostCmd.fwDownload 0 65536 [7] ∧ 65536 = 65536 * [7].length ∧ 65536 ≤ 12582912 ∧
    (w10f (HostCmd.fwDownload 65536 65536 [7])).inv = true ∧
    Fresh (w10f (HostCmd.fwDownload 65536 65536 [7])) 9 (adm8 (HostCmd.fwDownload 65536 65536 [7])) ∧
    supTurns (w10f (HostCmd.fwDownload 65536 65536 [7])) = true ∧ adminGo (w10f (HostCmd.fwDownload 65536 65536 [7])) 9 = true ∧
    (adm8 (HostCmd.fwDownload 65536 65536 [7])).cmd = HostCmd.fwDownload (65536 * 1) 65536 [7] ∧ 0 < 1 ∧
    65536 * 1 < (w10f (HostCmd.fwDownload 65536 65536 [7])).nvm.fwLen ∧ 1 < 192 ∧ (w10h 0).inv = true ∧ Fresh (w10h 0) 9 (adm8 (HostCmd.fwCommit 0 2)) ∧
    supTurns (w10h 0) = true ∧ (w10h 0).clo.op = none ∧ (w10h 0).clo.job = none ∧ (w10h 0).hall.activating = none ∧
    (adm8 (HostCmd.fwCommit 0 2)).cmd = HostCmd.fwCommit 0 2 ∧ commitSlot (w10h 0) 0 2 = none ∧ (w10f (HostCmd.fwCommit 0 2)).inv = true ∧
    Fresh (w10f (HostCmd.fwCommit 0 2)) 9 (adm8 (HostCmd.fwCommit 0 2)) ∧ supTurns (w10f (HostCmd.fwCommit 0 2)) = true ∧
    (w10f (HostCmd.fwCommit 0 2)).clo.op = none ∧ (w10f (HostCmd.fwCommit 0 2)).clo.job = none ∧ (w10f (HostCmd.fwCommit 0 2)).hall.activating = none ∧
    commitSlot (w10f (HostCmd.fwCommit 0 2)) 0 2 = some 2 ∧ (w10f (HostCmd.fwCommit 1 2)).inv = true ∧
    Fresh (w10f (HostCmd.fwCommit 1 2)) 9 (adm8 (HostCmd.fwCommit 1 2)) ∧ supTurns (w10f (HostCmd.fwCommit 1 2)) = true ∧
    (w10f (HostCmd.fwCommit 1 2)).clo.op = none ∧ (w10f (HostCmd.fwCommit 1 2)).clo.job = none ∧ (w10f (HostCmd.fwCommit 1 2)).hall.activating = none ∧
    (adm8 (HostCmd.fwCommit 1 2)).cmd = HostCmd.fwCommit 1 2 ∧ commitSlot (w10f (HostCmd.fwCommit 1 2)) 1 2 = some 2 ∧
    (w10f (HostCmd.fwCommit 3 2)).inv = true ∧ Fresh (w10f (HostCmd.fwCommit 3 2)) 9 (adm8 (HostCmd.fwCommit 3 2)) ∧
    supTurns (w10f (HostCmd.fwCommit 3 2)) = true ∧ (w10f (HostCmd.fwCommit 3 2)).clo.op = none ∧ (w10f (HostCmd.fwCommit 3 2)).clo.job = none ∧
    (w10f (HostCmd.fwCommit 3 2)).hall.activating = none ∧ (adm8 (HostCmd.fwCommit 3 2)).cmd = HostCmd.fwCommit 3 2 ∧
    commitSlot (w10f (HostCmd.fwCommit 3 2)) 3 2 = some 2 ∧ (w10f (HostCmd.fwCommit 3 2)).nvm.sanitize = none ∧
    (w10f (HostCmd.fwCommit 3 2)).nvm.spaces = [] ∧ (w10g (HostCmd.fwCommit 3 2)).inv = true ∧
    Fresh (w10g (HostCmd.fwCommit 3 2)) 9 (adm8 (HostCmd.fwCommit 3 2)) ∧ supTurns (w10g (HostCmd.fwCommit 3 2)) = true ∧
    (w10g (HostCmd.fwCommit 3 2)).clo.op = none ∧ (w10g (HostCmd.fwCommit 3 2)).clo.job = none ∧ (w10g (HostCmd.fwCommit 3 2)).hall.activating = none ∧
    commitSlot (w10g (HostCmd.fwCommit 3 2)) 3 2 = some 2 ∧ (w10g (HostCmd.fwCommit 3 2)).nvm.sanitize = some 2 ∧ (w10h 2).inv = true ∧
    Fresh (w10h 2) 9 (adm8 (HostCmd.fwCommit 2 2)) ∧ supTurns (w10h 2) = true ∧ (w10h 2).clo.op = none ∧ (w10h 2).clo.job = none ∧
    (w10h 2).hall.activating = none ∧ (adm8 (HostCmd.fwCommit 2 2)).cmd = HostCmd.fwCommit 2 2 ∧ 1 ≤ 2 ∧ 2 ≤ 3 ∧ 2 = (w10h 2).clo.running ∧
    (w10f (HostCmd.fwCommit 2 2)).inv = true ∧ Fresh (w10f (HostCmd.fwCommit 2 2)) 9 (adm8 (HostCmd.fwCommit 2 2)) ∧
    supTurns (w10f (HostCmd.fwCommit 2 2)) = true ∧ (w10f (HostCmd.fwCommit 2 2)).clo.op = none ∧ (w10f (HostCmd.fwCommit 2 2)).clo.job = none ∧
    (w10f (HostCmd.fwCommit 2 2)).hall.activating = none ∧ 2 ≠ (w10f (HostCmd.fwCommit 2 2)).clo.running ∧
    swapCount (w10f (HostCmd.fwCommit 2 2)) < 2097152 ∧ w10i.inv = true ∧ w10i.hall.activating = some 9 ∧ hallDrained w10i = true ∧
    recNow w10i = some (false, rec10) ∧ w10i.ctx 9 = some act10 ∧ act10.st = CtxSt.running ∧ act10.stair = none ∧ isWorker w10i = false ∧
    w10j.inv = true ∧ w10j.hall.activating = some 9 ∧ hallDrained w10j = false ∧ w10j.ctx 9 = some act10 := by
  repeat' apply And.intro
  all_goals decide +kernel

def jr11 : JRec := { typ := 2 }
def b11 : JBatch := { firstSeq := 0, recs := [] }
def b11a : JBatch := { firstSeq := 0, recs := [jr11], passed := [1] }
def b11b : JBatch := { firstSeq := 0, recs := [jr11] }
def cm11 : Commit := { nsid := 1, extent := 0, units := [0], ingest := 9 }
def cp11 : Copied := { nsid := 1, unit := 0, src := (3, 0), dst := (4, 5) }
def jon : State := (((((up.wr PAN_CTL.ENABLE 1).wr PAN_CTL.JOURNAL_EN 1).wr PAN_CTL.CKPT_EN 1).wr (PAN_REGION.VALID 0) 1).wr (PAN_REGION.CKPT 0) 1).wr (PAN_REGION.LIMIT_MIB 0) 20
def w11a : State := { up with pan := { openBatch := [jr11] } }
def w11b : State := { up with pan := { closed := [b11b] } }
def w11c : State := { up with pan := { closed := [b11a] } }
def w11d : State := { jon with pan := { lap := some (3, 1, 7) } }
def w11e : State := { jon with pan := { lap := some (3, 2, 7) } }
def w11f : State := { jon with pan := { overlay := [(unitKey 1 0, { st := .passed 3 0, commit := 6 })], commits := [(6, cm11)] } }
def w11g : State := { jon with pan := { overlay := [(unitKey 1 0, { st := .larder 5, commit := 6 })], commits := [(6, cm11)] } }
def w11h : State := { jon with pan := { img := { dir := [(1, [0])], ext := [(0, .media 3 0)] } }, scu := { copied := [cp11] } }
def w11i : State := { jon with scu := { suites := [(7, { st := 3 })] } }

/-- The premises of `Obligations.PantryJournal` are met, clause by clause. -/
theorem witness_PantryJournal :
    w11a.inv = true ∧ w11a.pan.openBatch ≠ [] ∧ w11a.pan.openBatch.length ≤ 2016 ∧ journalOn w11a = false ∧ w11b.inv = true ∧ w11b.pan.openBatch = [] ∧
    w11b.pan.closed = [b11b] ∧ b11b.passed = [] ∧ w11c.inv = true ∧ w11c.pan.closed = [b11a] ∧ b11a.passed = [(0 + 1) % 2] ∧
    (b11a.recs.all fun r => decide (r.typ ≤ 7)) = true ∧ (∀ p ∈ portsInUse w11c, (w11c.hport p).shst ≠ 1) ∧ jon.inv = true ∧ journalOn jon = true ∧
    jon.on PAN_CTL.CKPT_EN = true ∧ jon.pan.lap = none ∧ jon.pan.openBatch.length < 2015 ∧ w11d.inv = true ∧ journalOn w11d = true ∧
    w11d.on PAN_CTL.CKPT_EN = true ∧ w11d.pan.lap = some (3, 1, 7) ∧ 1 < (ckptSegs w11d).length ∧ w11e.inv = true ∧ journalOn w11e = true ∧
    w11e.on PAN_CTL.CKPT_EN = true ∧ w11e.pan.lap = some (3, 2, 7) ∧ (ckptSegs w11e).length = 2 ∧ w11f.inv = true ∧ w11f.pan.commits.find 6 = some cm11 ∧
    journalOn w11f = true ∧ passedUnits w11f 6 cm11 = some [(0, 3, 0, 0)] ∧ (mapExt w11f cm11.nsid cm11.extent).isParked = false ∧ w11g.inv = true ∧
    w11g.pan.commits.find 6 = some cm11 ∧ journalOn w11g = true ∧ passedUnits w11g 6 cm11 = none ∧ w11h.inv = true ∧ journalOn w11h = true ∧
    w11h.on BSM_STATUS.RING_FAULT = false ∧ w11h.pan.openBatch.length < 2015 ∧ w11h.scu.copied = [cp11] ∧ cp11.cons = false ∧ cp11.nsid = 1 ∧
    cp11.unit = 0 ∧ cp11.src = (3, 0) ∧ cp11.dst = (4, 5) ∧ (mapUnit w11h 1 0).kind = UnitKind.media 3 0 ∧ w11h.pan.overlay.has (unitKey 1 0) = false ∧
    (mapExt w11h 1 (0 / 256)).isParked = false ∧ w11i.inv = true ∧ journalOn w11i = true ∧ isSource w11i 7 = true ∧ liveUnits w11i 7 = 0 ∧
    w11i.pan.closed = [] ∧ w11i.pan.openBatch = [] ∧ w11i.pan.overlay = [] ∧ w11i.pan.eraseMarks = [] := by
  repeat' apply And.intro
  all_goals decide +kernel

def cl11 : CLine := { tag := 0, st := .filling }
def cd11 : CLine := { tag := 0, st := .dirty }
def cw11 : CLine := { tag := 0, st := .writingBack }
def ev11 : ExtEnt := .zero
def sc11 : SegCopy := { ext := [(0, .zero)] }
def cons11 : Cons := { nsid := 1, ext := 0, group := 0, ents := [] }
def w11j (l : CLine) : State := { up.wr PAN_CTL.ENABLE 1 with pan := { cache := [(5, { ways := [(2, l)] })] } }
def w11k : State := { up with pan := { maintQ := (List.range 16).map fun i => { op := 0, la := i } } }
def w11l : State := { up with pan := { invSweep := true } }
def w11m : State := (up.wr PAN_STATUS.INV_DONE 1).wr PAN_CTL.LAYOUT_LOCK 1
def w11n : State := { up with scu := { cons := some cons11, copied := (List.range 256).map fun i => { nsid := 1, unit := i, src := (1, i), dst := (4, i), cons := true } } }
def w11o : State := { jon with pan := { flash := { copies := [(0, sc11)] } } }

/-- The premises of `Obligations.PantryCache` are met, clause by clause. -/
theorem witness_PantryCache :
    (w11j cl11).inv = true ∧ findWay ((w11j cl11).pan.cache.getD (lineSet 5) { }) 5 = some (2, cl11) ∧ cl11.st = LineState.filling ∧
    (w11j cl11).pan.maintQ = [] ∧ (w11j cl11).pan.maintQ.length < 16 ∧ (w11j cl11).on PAN_CTL.ENABLE = true ∧ (w11j cl11).on PAN_STATUS.INV_DONE = false ∧
    hallDrained (w11j cl11) = true ∧ (w11j cl11).scu.cons = none ∧ (w11j cw11).inv = true ∧
    findWay ((w11j cw11).pan.cache.getD (lineSet 5) { }) 5 = some (2, cw11) ∧ cw11.st = LineState.writingBack ∧ (w11j cd11).inv = true ∧
    findWay ((w11j cd11).pan.cache.getD (lineSet 5) { }) 5 = some (2, cd11) ∧ cd11.st = LineState.dirty ∧ 5 < 2 ^ 29 ∧
    (w11j cd11).pan.maintQ.length < 16 ∧ (w11j cd11).on PAN_CTL.ENABLE = true ∧ w11k.inv = true ∧ 16 ≤ w11k.pan.maintQ.length ∧
    w11k.on PAN_CTL.ENABLE = false ∧ w11l.inv = true ∧ w11l.pan.invSweep = true ∧ w11m.inv = true ∧ w11m.on PAN_STATUS.INV_DONE = true ∧
    w11m.on PAN_CTL.LAYOUT_LOCK = true ∧ w11m.on PAN_STATUS.SIZE_ERR = false ∧ w11n.inv = true ∧ w11n.scu.cons = some cons11 ∧
    ((List.range 256).all fun i =>
    w11n.scu.copied.any fun x => x.cons && x.nsid == cons11.nsid && x.unit == cons11.ext * 256 + i && x.dst == (4, 0 + i)) =
  true ∧
    journalOn w11n = false ∧ w11o.inv = true ∧ (ckptSegs w11o)[0]? = some (0, 0) ∧ w11o.pan.flash.copies.find 0 = some sc11 ∧ sc11.ext = [(0, ev11)] ∧
    sc11.grp = [] ∧ w11o.pan.flash.journal = [] ∧ w11o.pan.closed = [] ∧ w11o.pan.openBatch = [] := by
  repeat' apply And.intro
  all_goals decide +kernel

def data12 : Slot := { st := 2, stream := 2 }
def par12 : Slot := { st := 5, stream := 2 }
def rb12 : Rebuild := { front := 1, suite := 7, row := 2, member := 64, need := [], acc := [] }
def rb12n : Rebuild := { front := 1, suite := 7, row := 2, member := 3, need := [65], acc := [] }
def word1 : U64 := 1
def word511 : U64 := 0x1FF
def w12a (x : Slot) : State := { up with ldr := { slots := [(5, x)] } }
def w12b : State := { up with ldr := { droop := [1] } }
def w12c : State := { up with ldr := { hot := [(16, 0)] } }
def w12d : State := { up with ldr := { hot := [(16, 0)], inhibitNoted := [16], wt := true } }
def w12e (b : Rebuild) : State := { up with ldr := { rebuilds := [b] } }

/-- The premises of `Obligations.Larder` are met, clause by clause. -/
theorem witness_Larder :
    (w12a data12).inv = true ∧ (w12a data12).ldr.slots.find 5 = some data12 ∧ data12.st ≠ 1 ∧ data12.st ≠ 5 ∧ data12.st ≠ 6 ∧ data12.stream = 2 ∧ 1 < 8 ∧
    1 ∉ (w12a data12).ldr.droop ∧ (w12a data12).ldr.fronts = [] ∧
    List.countP (fun i => bitAt ((w12a data12).rd LDR_BANK_RETIRE.BANKS ||| BitVec.toNat word1) i) (List.range 64) ≤ 8 ∧ (w12a par12).inv = true ∧
    (w12a par12).ldr.slots.find 5 = some par12 ∧ par12.st = 5 ∧ w12b.inv = true ∧ 1 ∈ w12b.ldr.droop ∧ w12b.ldr.fronts = [] ∧
    8 < List.countP (fun i => bitAt (w12b.rd LDR_BANK_RETIRE.BANKS ||| BitVec.toNat word511) i) (List.range 64) ∧ w12c.inv = true ∧
    inhibitRow w12c 1 0 = some (1, 16) ∧ w12c.atc.postedThisSec < 4096 ∧ 1 < 2 ^ 32 ∧ 16 ∉ w12c.ldr.inhibitNoted ∧ w12c.ldr.hot.has (16 * 1 + 0) = true ∧
    w12c.ldr.fronts = [] ∧ w12d.inv = true ∧ inhibitRow w12d 1 0 = some (1, 16) ∧ w12d.atc.postedThisSec < 4096 ∧ 16 ∈ w12d.ldr.inhibitNoted ∧
    w12d.ldr.wt = true ∧ (w12e rb12).inv = true ∧
    List.find? (fun b => b.front == 1 && b.row == 2 && b.member == 64) (w12e rb12).ldr.rebuilds = some rb12 ∧ rb12.need = [] ∧ 64 = 64 ∧
    (w12e rb12n).inv = true ∧ List.find? (fun b => b.front == 1 && b.row == 2 && b.member == 3) (w12e rb12n).ldr.rebuilds = some rb12n ∧
    rb12n.need ≠ [] := by
  repeat' apply And.intro
  all_goals decide +kernel

def vHw : DescHw := { op := { kind := 2, die := 0, cwCount := 1, slots := [5], issuer := .test } }
def sj12 : SoftJob := { n := 3, i := 0, cw := 1, cls := 1, row := 0 }
def sj12v : SoftJob := { n := 3, i := 0, cw := 2, cls := 0, row := 0 }
def sj12e : SoftJob := { n := 3, i := 0, cw := 2, cls := 1, row := 0 }
def sj12r : SoftJob := { n := 3, i := 0, cw := 1, cls := 1, row := 0, running := true }
def ccw12 : ClimbCw := { senses := 1 }
def st12 : StripeJob := { id := 4, n := 3, op := readOp, cw := 0, suite := 7, unit := 0, need := [] }
def st12n : StripeJob := { id := 4, n := 3, op := readOp, cw := 0, suite := 7, unit := 0, need := [1] }
def blk0 : Blk := 0
def meta0 : Meta := 0
def w12f : State := { up with seqs := [(3, { state := 1, descs := [(0, vHw)] })], ldr := { slots := [(5, data12)] } }
def w12g (b : SoftJob) : State := { up with lnd := { jobs := [sj12, b] } }
def w12h : State := { up with seqs := [(3, { state := 1, descs := [(0, readHw)] })], lnd := { jobs := [sj12r], climbs := [(3 * 32, { cws := [(1, ccw12), (2, {})] })] } }
def w12i (j : StripeJob) : State := { up with lnd := { credit := 0, stripes := [j] } }

/-- The premises of `Obligations.LaundryDecode` are met, clause by clause. -/
theorem witness_LaundryDecode :
    w12f.inv = true ∧ (w12f.seq 3).descs.find 0 = some vHw ∧ vHw.ended = false ∧ vHw.op.kind = 2 ∧ vHw.op.cwCount = 1 ∧ vHw.cwDone = 0 ∧
    vHw.xferDone = false ∧ vHw.op.slots = [5] ∧ w12f.ldr.slots.find 5 = some data12 ∧ (w12f.seq 3).wait = none ∧ (w12f.seq 3).held = [] ∧
    (w12f.seq 3).evq.length < 64 ∧ (w12g sj12v).inv = true ∧ ((w12g sj12v).seq 3).descs.find 1 = none ∧ (w12g sj12v).lnd.jobs = [sj12, sj12v] ∧
    sj12.running = false ∧ sj12v.running = false ∧ sj12 ≠ sj12v ∧ (w12g sj12v).lnd.credit ≠ 0 ∧ (w12g sj12v).atc.badSoft.length < 16 ∧ sj12v.cls = 0 ∧
    sj12.cls ≠ 0 ∧ (w12g sj12e).inv = true ∧ (w12g sj12e).lnd.jobs = [sj12, sj12e] ∧ sj12e.running = false ∧ sj12 ≠ sj12e ∧ (w12g sj12e).lnd.credit ≠ 0 ∧
    (w12g sj12e).atc.badSoft.length < 16 ∧ sj12.cls = sj12e.cls ∧ sj12.cls ≤ 2 ∧ w12h.inv = true ∧ w12h.lnd.jobs = [sj12r] ∧ sj12r.running = true ∧
    sj12r.n = 3 ∧ sj12r.i = 0 ∧ sj12r.cw = 1 ∧ (w12h.seq 3).descs.find 0 = some readHw ∧ (w12h.climb 3 0).cws.find 1 = some ccw12 ∧ 2 ≠ 1 ∧
    (w12h.climb 3 0).cws.find 2 = some { } ∧ (w12i st12).inv = true ∧ (w12i st12).lnd.credit = 0 ∧ (w12i st12).lnd.stripes = [st12] ∧ st12.id = 4 ∧
    st12.need = [] ∧ st12.failed = false ∧ st12.soft = false ∧ st12.joined = [] ∧ st12.op.issuer = Issuer.test ∧ (w12i st12n).inv = true ∧
    (w12i st12n).lnd.stripes = [st12n] ∧ st12n.id = 4 ∧ st12n.need ≠ [] := by
  repeat' apply And.intro
  all_goals decide +kernel

def cj12 : CalJob := { n := 3, die := 0, group := 1, started := true }
def hw12 : HostWord := { src := 3, ingest := 8, unit := 0, data := 0, md := 0 }
def rd12 : Ctx := { read7 with resolved := true }
def w12j : State := { (up.wr LND_CTL.CAL_EN 1).wr (CEL_DIE_MAP.PRESENT 3) 1 with pwr := { por := false, opSec := 3600000000 } }
def w12k : State := { up.wr LND_CTL.CAL_EN 0 with lnd := { cals := [cj12] } }
def w12l : State := { up with hall := { ctxs := [(8, rd12)] }, lnd := { words := [hw12] } }
def w12m : State := { w12l with nvm := { feats := [(featKey 0 5 1, 5)] } }
def rd12p : Ctx := { rd12 with cmd := .read 1 0 1 pr7 }
def w12p : State := { up with nvm := { spaces := [(1, { ns7 with fmt := 5, pi := 1 })] }, hall := { ctxs := [(8, rd12p)] }, lnd := { words := [hw12] } }

/-- The premises of `Obligations.LaundryCare` are met, clause by clause. -/
theorem witness_LaundryCare :
    w12j.inv = true ∧ w12j.on LND_CTL.CAL_EN = true ∧ diePresent w12j 3 0 = true ∧ calDue w12j 3 0 1 = true ∧ w12j.scu.suites = [] ∧ w12j.lnd.words = [] ∧
    w12k.inv = true ∧ w12k.on LND_CTL.CAL_EN = false ∧ w12k.lnd.cals = [cj12] ∧ cj12 = { n := 3, die := 0, group := 1, started := true } ∧
    w12l.inv = true ∧ w12l.ctx 8 = some rd12 ∧ rd12.st = CtxSt.running ∧ rd12.resolved = true ∧ rd12.reads ≠ [] ∧ rd12.stair = none ∧
    bits (feat w12l 0 5 (readNs rd12)) 0 16 = 0 ∧ w12l.lnd.words = [hw12] ∧ hw12.src = 3 ∧ hw12.pin = none ∧ w12l.ctx hw12.ingest = some rd12 ∧
    rd12.port = 0 ∧ rd12.cmd = HostCmd.read 1 0 1 { } ∧ (piSelects w12l (readNs rd12) { } = true → piStatus { } true true true = none) ∧
    w12m.inv = true ∧ w12m.ctx 8 = some rd12 ∧ bits (feat w12m 0 5 (readNs rd12)) 0 16 ≠ 0 ∧ w12p.inv = true ∧ w12p.lnd.words = [hw12] ∧
    w12p.pan.pins = [] ∧ w12p.ctx hw12.ingest = some rd12p ∧ rd12p.port = 0 ∧ rd12p.stair = none ∧ rd12p.st = CtxSt.running ∧
    rd12p.cmd = HostCmd.read 1 0 1 pr7 ∧ piSelects w12p (readNs rd12p) pr7 = true ∧ piStatus pr7 false false true = some (2, 130) := by
  repeat' apply And.intro
  all_goals decide +kernel

def src13 : Suite := { st := 3 }
def clo13 : Suite := { st := 2 }
def worn13 : Suite := { st := 2, eraseCount := 1000000000 }
def era13 : Suite := { st := 5, members := 6 }
def fold13 : Suite := { st := 2, foldSource := true, filled := 1000000 }
def foldR13 : Suite := { st := 2, foldSource := true, filled := 1000000, removed := [(1, 0)] }
def open13 : Suite := { st := 1, filled := 5 }
def e13 : Nat × Nat × ExtEnt := (1, 0, .parked 0 0 false 0)
def w13a (x : Suite) : State := { up with scu := { suites := [(7, x)] } }
def w13b : State := { up.wr SCU_CTL.RECLAIM_EN 1 with scu := { suites := [(7, clo13)], reclaiming := [0] } }
def w13c : State := { up.wr SCU_CTL.WEAR_EN 1 with scu := { suites := [(7, clo13), (8, worn13)] } }
def w13d : State := { up with scu := { suites := [(7, src13)], recl := [(0, { suite := 7, cause := 1, left := [] })] } }
def w13e (l : List Nat) : State := { up with scu := { suites := [(7, era13)], erasing := [(7, l)] } }
def w13f (x : Suite) : State := { up with scu := { geo := { rows := 8 }, suites := [(7, x)] } }
def w13g : State := { up.wr SCU_CTL.CONS_EN 1 with pan := { consolidating := true, img := { dir := [(1, [0])], ext := [(0, .parked 0 0 false 0)] } } }
def w13h : State := { up.wr SCU_CTL.CONS_EN 1 with pan := { consolidating := true } }
def w13i : State := { up with pwr := { por := false, opSec := 3600000000 }, scu := { suites := [(7, open13)] } }
def w13j : State := { w13i with ldr := { fronts := [(2, { stream := 2, suite := some 7 })] } }

/-- The premises of `Obligations.SculleryReclaim` are met, clause by clause. -/
theorem witness_SculleryReclaim :
    (w13a src13).inv = true ∧ 0 < 8 ∧ (w13a src13).pwr.frozen = false ∧ victimBusy (w13a src13) 0 = false ∧
    Option.map (fun e => e.1) (List.find? (fun e => e.2.st == 3 && e.2.rg == 0) (w13a src13).scu.suites) = some 7 ∧ staticDue (w13a src13) 0 = false ∧
    ((w13a src13).suite 7).st ≠ 5 ∧ w13b.inv = true ∧ w13b.pwr.frozen = false ∧ victimBusy w13b 0 = false ∧
    List.find? (fun e => e.2.st == 3 && e.2.rg == 0) w13b.scu.suites = none ∧ (∀ k ∈ closedOf w13b 0, (w13b.suite k).foldSource = false) ∧
    0 ∈ w13b.scu.reclaiming ∧ w13b.on SCU_CTL.RECLAIM_EN = true ∧ chooseVictim w13b 0 = some (7, 1) ∧ w13c.inv = true ∧ w13c.pwr.frozen = false ∧
    victimBusy w13c 0 = false ∧ staticDue w13c 0 = true ∧ leastWorn w13c (closedOf w13c 0) = some 7 ∧ w13d.inv = true ∧ victimBusy w13d 0 = true ∧
    (w13e []).inv = true ∧ ((w13e []).suite 7).st = 5 ∧ (w13e []).scu.erasing.find 7 = some [] ∧ (w13e []).ldr.fronts = [] ∧
    (w13e []).nvm.sanitize = none ∧ (w13e [1, 2]).inv = true ∧ ((w13e [1, 2]).suite 7).st = 5 ∧ (w13e [1, 2]).scu.erasing.find 7 = some [1, 2] ∧ 1 ≠ 2 ∧
    (w13e [1, 2]).nvm.sanitize = none ∧ bitAt ((w13e [1, 2]).suite 7).members 1 = true ∧ (w13f fold13).inv = true ∧ (w13f fold13).suite 7 = fold13 ∧
    fold13.foldSource = true ∧ fold13.st = 2 ∧ 7 ∉ (w13f fold13).scu.foldStopped ∧ (w13f fold13).pwr.frozen = false ∧
    (w13f fold13).scu.erasing.has (2 ^ 24 + 7) = false ∧ fold13.folded = 0 ∧ 4 * (0 + 1) ≤ (w13f fold13).scu.geo.rows ∧
    (∀ i < 4, rowSettled (w13f fold13) 7 (4 * 0 + i) = true) ∧ fold13.removed = [] ∧ ((w13f fold13).suite (fold13.foldDest % 2 ^ 20)).removed = [] ∧
    (w13f foldR13).inv = true ∧ (w13f foldR13).suite 7 = foldR13 ∧ foldR13.foldSource = true ∧ foldR13.st = 2 ∧ 7 ∉ (w13f foldR13).scu.foldStopped ∧
    (w13f foldR13).pwr.frozen = false ∧ (w13f foldR13).scu.erasing.has (2 ^ 24 + 7) = false ∧ foldR13.folded = 0 ∧
    4 * (0 + 1) ≤ (w13f foldR13).scu.geo.rows ∧ (∀ i < 4, rowSettled (w13f foldR13) 7 (4 * 0 + i) = true) ∧ foldR13.removed ≠ [] ∧ w13g.inv = true ∧
    w13g.on SCU_CTL.CONS_EN = true ∧ w13g.pan.consolidating = true ∧ w13g.scu.cons = none ∧ asleep w13g = false ∧ w13g.pwr.frozen = false ∧
    List.filter (fun e => eligibleExt w13g e.1 e.2.1) (allExtents w13g) = [e13] ∧ e13.2.2.isParked = true ∧ w13h.inv = true ∧
    w13h.on SCU_CTL.CONS_EN = true ∧ w13h.pan.consolidating = true ∧ w13h.scu.cons = none ∧ asleep w13h = false ∧ w13h.pwr.frozen = false ∧
    List.filter (fun e => eligibleExt w13h e.1 e.2.1) (allExtents w13h) = [] ∧ w13i.inv = true ∧ (w13i.suite 7).st = 1 ∧ (w13i.suite 7).filled ≠ 0 ∧
    (w13i.suite 7).programHour + w13i.rd SCU_CARE_CFG.OPEN_MAX_H ≤ nowHour w13i ∧ List.find? (fun e => e.2.suite == some 7) w13i.ldr.fronts = none ∧
    w13j.inv = true ∧ (w13j.suite 7).st = 1 ∧ (w13j.suite 7).filled ≠ 0 ∧ (w13j.suite 7).programHour + w13j.rd SCU_CARE_CFG.OPEN_MAX_H ≤ nowHour w13j ∧
    Option.map (fun e => e.1) (List.find? (fun e => e.2.suite == some 7) w13j.ldr.fronts) = some 2 := by
  repeat' apply And.intro
  all_goals decide +kernel

def old13 : Suite := { st := 2, filled := 1 }
def w13k : State := { up.wr SCU_CTL.PATROL_EN 1 with pwr := { por := false, opSec := 3600000000 }, scu := { suites := [(7, old13)] } }
def w13l : State := { up.wr SCU_CTL.PATROL_EN 1 with scu := { suites := [(7, old13)], lapPos := 8, walk := [3] } }

/-- The premises of `Obligations.SculleryCare` are met, clause by clause. -/
theorem witness_SculleryCare :
    w13k.inv = true ∧ (w13k.suite 7).st = 2 ∧ 0 < (w13k.suite 7).filled ∧ (w13k.suite 7).programHour + w13k.rd SCU_CARE_CFG.RETAIN_H ≤ nowHour w13k ∧
    w13k.on SCU_CTL.PATROL_EN = true ∧ w13k.on SCU_PATROL_STATUS.LATE = false ∧ 3 * patrolPeriod w13k ≤ 2 * (w13k.pwr.opSec - w13k.scu.lapStart) ∧
    3 ∉ w13k.scu.walk ∧ 3 < 64 ∧ populated w13k 3 = true ∧ running w13k = true ∧ composite w13k < 120 ∧ w13l.inv = true ∧
    nowHour w13l < (w13l.suite 7).programHour + w13l.rd SCU_CARE_CFG.RETAIN_H ∧ w13l.on SCU_CTL.PATROL_EN = true ∧ asleep w13l = false ∧
    w13l.pwr.frozen = false ∧ (∀ k ∈ patrolSuites w13l, k < w13l.scu.lapPos) ∧ 3 ∈ w13l.scu.walk ∧ up.inv = true ∧ up.on SCU_CTL.PATROL_EN = false ∧
    State.reset.inv = true ∧ running State.reset = false := by
  repeat' apply And.intro
  all_goals decide +kernel

def d13 : BitVec 256 := 5
def b13 : Burst := { c0 := casEncode d13, c1 := casEncode d13, addr := 0, gen := 0 }
def content13 : DramContent := .none
def dramOn : State := (((up.wr BSM_CTL.ENABLE 1).wr BSM_STATUS.CLEAR_DONE 1).wr (BSM_SUBCH_STATUS.STATE 0) 1).wr BSM_STATUS.IN_SERVICE 1
def w13m : State := { dramOn with bsm := { dram := [(0, b13)] } }
def w13n : State := { dramOn.wr BSM_CTL.SCRUB_EN 1 with bsm := { dram := [(0, b13)] } }
def w13o : State := { dramOn.wr BSM_CTL.SCRUB_EN 1 with pwr := { por := false, opSec := 3600000000 }, bsm := { clears := 1 } }
def w13p : State := dramOn.wr BSM_STATUS.CLEAR_BUSY 1

/-- The premises of `Obligations.DramReads` are met, clause by clause. -/
theorem witness_DramReads :
    w13m.inv = true ∧ burstServed w13m 0 = true ∧ 0 % 64 = 0 ∧ remapOf w13m (0 / 4096) = none ∧ regionAt w13m 0 = none ∧
    getBurst w13m 0 = { c0 := casEncode d13, c1 := casEncode d13, addr := 0 / 64 % 2 ^ 48, gen := w13m.rd BSM_STATUS.GEN } ∧ 3 < 289 ∧
    w13m.on BSM_CTL.SCRUB_EN = false ∧ w13n.inv = true ∧ w13n.on BSM_CTL.SCRUB_EN = true ∧ w13n.pwr.st = PwrState.ps0 ∧ 0 = 64 * w13n.bsm.scrubPos ∧
    burstServed w13n 0 = true ∧ remapOf w13n (0 / 4096) = none ∧ regionAt w13n 0 = none ∧
    getBurst w13n 0 = { c0 := casEncode d13, c1 := casEncode d13, addr := 0 / 64 % 2 ^ 48, gen := w13n.rd BSM_STATUS.GEN } ∧
    w13n.bsm.scrubPos + 1 < dataSpace w13n / 64 ∧ w13o.inv = true ∧ w13o.on BSM_CTL.SCRUB_EN = true ∧
    2 * lapSeconds w13o ≤ w13o.pwr.opSec - w13o.bsm.lapStart ∧ w13o.on BSM_SCRUB_STATUS.LATE = false ∧ w13o.on BSM_STATUS.CLEAR_BUSY = false ∧
    w13o.rd BSM_STATUS.IN_SERVICE ≠ 0 ∧ 0 < w13o.bsm.clears ∧ w13p.inv = true ∧ w13p.on BSM_STATUS.CLEAR_BUSY = true ∧ up.inv = true ∧
    burstServed up 0 = false := by
  repeat' apply And.intro
  all_goals decide +kernel

def c13 : Ctx := { port := 0, sq := 1, cid := 3, cmd := .flush 1, st := .running }
def w13q (n : Nat) : State := up.wr (BSM_SUBCH_STATUS.STATE 0) n
def w13r (x : SubCh) (n : Nat) : State := { w13q n with bsm := { subs := [(0, x)] } }
def page13 : U64 := 0x8000000000000005
def w13s : State := (up.wr BSM_STATUS.CLEAR_DONE 1)
def w13t : State := { up.wr (BSM_REMAP.BUSY 3) 1 with bsm := { copies := [(3, some 4)], copyPage := [(3, 5)] } }
def w13u : State := { up with hall := { ctxs := [(9, c13)] } }
def rt13 : SubCh := { replays := 7 }
def rt13b : SubCh := { replays := 8 }
def rt13c : SubCh := { retrains := [0, 0] }

/-- The premises of `Obligations.BasementEvents` are met, clause by clause. -/
theorem witness_BasementEvents :
    up.inv = true ∧ (3 = 3 ∨ 3 = 4) ∧ synDecode (0#16) (0#16) false = CasRes.clean ∧ 0 < 2 ∧ subState up 0 ≠ 3 ∧ up.on BSM_STATUS.CLEAR_DONE = false ∧
    3 < 1024 ∧ up.on (BSM_REMAP.BUSY 3) = false ∧ 5 < 2 ^ 24 ∧ page13 = BitVec.ofNat 64 (2 ^ 63 + 5) ∧
    ¬(spareAddr up 0 ≤ 5 * 4096 ∧ 5 * 4096 < spareAddr up 1024) ∧ (4 = 3 ∨ 4 = 4) ∧ synDecode (0#16) (0#16) true = CasRes.check ∧
    synDecode (3#16) (0#16) true = CasRes.bad ∧ 4 * 2 ^ 60 + 0 ∉ up.bsm.reported ∧ (w13q 3).inv = true ∧ subState (w13q 3) 0 = 3 ∧
    (w13r rt13 1).inv = true ∧ subState (w13r rt13 1) 0 = 1 ∧
    (w13r rt13 1).bsm.subs.getD 0 { } =
  { (w13r rt13 1).bsm.subs.getD 0 { } with replays := 7 } ∧
    (w13r rt13b 1).inv = true ∧ subState (w13r rt13b 1) 0 = 1 ∧ (w13r rt13b 1).bsm.subs.getD 0 { } = { replays := 8 } ∧ (w13r rt13c 2).inv = true ∧
    subState (w13r rt13c 2) 0 = 2 ∧ ((w13r rt13c 2).bsm.subs.getD 0 { }).retrains = [(w13r rt13c 2).pwr.opSec, (w13r rt13c 2).pwr.opSec] ∧
    (w13q 2).inv = true ∧ subState (w13q 2) 0 = 2 ∧ ((w13q 2).bsm.subs.getD 0 { }).retrains = [] ∧ w13s.inv = true ∧ w13s.on (BSM_REMAP.BUSY 3) = false ∧
    ¬(spareAddr w13s 0 ≤ 5 * 4096 ∧ 5 * 4096 < spareAddr w13s 1024) ∧ w13s.on BSM_STATUS.CLEAR_DONE = true ∧ w13t.inv = true ∧
    w13t.on (BSM_REMAP.BUSY 3) = true ∧ w13t.bsm.copies.find 3 = some (some 4) ∧ w13t.bsm.copyPage.find 3 = some 5 ∧ some 4 ≠ some 3 ∧ w13u.inv = true ∧
    w13u.ctx 9 = some c13 ∧ c13.st = CtxSt.running ∧ c13.stair = none ∧ 4 * 2 ^ 60 + 9 ∉ w13u.bsm.reported := by
  repeat' apply And.intro
  all_goals decide +kernel

/-- Port 0 in mode 1, at version 1.0, its state and what it holds given. -/
def pt (st : Nat) (p : OtPort) : State :=
  { ((up.wr (CEL_PORT_CFG.MODE 0) 1).wr (CEL_PORT_STATUS.VER 0) 1).wr (CEL_PORT_STATUS.STATE 0) st with cel := { ports := [(0, p)] } }
def fh : FrameHdr := {}
def w14a : State := (up.wr (CEL_PORT_CFG.MODE 0) 1).wr CEL_REFCLK_CTL.EN 1
def w14b : State := up.wr CEL_REFCLK_CTL.EN 0
def tried (k : Nat) : OtPort := { attempts := k }
def w14n : State := (pt 3 {}).wr (CEL_PORT_CFG.NRZ_ONLY 0) 1

/-- The premises of `Obligations.CellarTraining` are met, clause by clause. -/
theorem witness_CellarTraining :
    w14a.inv = true ∧ 0 < 64 ∧ portState w14a 0 = 0 ∧ portMode w14a 0 = 1 ∧ populated w14a 0 = true ∧ portRetired w14a 0 = false ∧
    refclkOn w14a 0 = true ∧ w14a.pwr.straps.testmode = false ∧ portState w14a 0 ≠ 1 ∧ portState w14a 0 ≠ 2 ∧ portState w14a 0 ≠ 3 ∧
    portState w14a 0 ≠ 4 ∧ w14b.inv = true ∧ refclkOn w14b 0 = false ∧ (pt 1 { }).inv = true ∧ portState (pt 1 { }) 0 ≠ 0 ∧ portState (pt 1 { }) 0 = 1 ∧
    ((pt 1 { }).port 0).attempts < 2 ∧ (pt 2 { }).inv = true ∧ ((pt 2 { }).port 0).attempts < 2 ∧
    (portState (pt 2 { }) 0 = 2 ∨ portState (pt 2 { }) 0 = 3 ∨ portState (pt 2 { }) 0 = 4) ∧ Arrives (pt 2 { }) 0 fh 6 ∧ portState (pt 2 { }) 0 = 2 ∧
    (pt 1 (tried 2)).inv = true ∧ ((pt 1 (tried 2)).port 0).attempts = 2 ∧ IdlePort (pt 1 (tried 2)) 0 ∧ portState (pt 1 (tried 2)) 0 = 1 ∧
    w14n.inv = true ∧ Arrives w14n 0 fh 6 ∧ portState w14n 0 = 3 ∧ 2 ≤ 16 ∧ 16 < 256 ∧ 0 < 2 ∧ 4 ≤ 16 ∧ agreedVersion w14n 0 2 = 1 ∧ portMode w14n 0 = 1 ∧
    1 = w14n.rd (CEL_PORT_STATUS.VER 0) ∧ (pt 3 { }).inv = true ∧ Arrives (pt 3 { }) 0 fh 6 ∧ portState (pt 3 { }) 0 = 3 ∧
    agreedVersion (pt 3 { }) 0 2 = 2 ∧ (0 = 0 ∨ 16 < 4 ∨ 16 < 4) ∧ ((pt 3 { }).port 0).attempts < 2 ∧ (pt 4 { }).inv = true ∧ Arrives (pt 4 { }) 0 fh 6 ∧
    portState (pt 4 { }) 0 = 4 ∧ 3 ≤ 16 ∧ portMode (pt 4 { }) 0 = 1 ∧ (16 < 17 ∨ 16 < 3) := by
  repeat' apply And.intro
  all_goals decide +kernel

def tf14 : TxFrame := { typ := 1, src := .link 0 0 [], seq := 1 }
def hw14 : DescHw := { op := readOp, open_ := [1] }
def recal14 : State := { pt 5 { recalDue := true } with pwr := { por := false, opSec := 20 } }
def g14 : State := (List.range 8).foldl (fun s g => (s.wr (CEL_PORT_CFG.MODE (8 * g)) 1).wr (CEL_PORT_STATUS.STATE (8 * g)) 5) up
def d14 : State := { pt 5 {} with seqs := [(0, { descs := [(2, hw14)] })] }

/-- The premises of `Obligations.CellarRecalibration` are met, clause by clause. -/
theorem witness_CellarRecalibration :
    recal14.inv = true ∧ 0 < 64 ∧ portState recal14 0 = 5 ∧ recalIsDue recal14 0 = true ∧ Arrives recal14 0 fh 6 ∧ InOrder recal14 0 fh ∧
    (List.filter (fun x => decide (recal14.pwr.opSec < x + 600)) (recal14.port 0).retrains).length < 2 ∧ IdlePort recal14 0 ∧ populated recal14 0 = true ∧
    0 < 16 ∧ (recal14.port 0).unacked = [] ∧ (pt 5 { }).inv = true ∧ recalIsDue (pt 5 { }) 0 = false ∧ (pt 6 { recalDoneTx := true }).inv = true ∧
    Arrives (pt 6 { recalDoneTx := true }) 0 fh 6 ∧ InOrder (pt 6 { recalDoneTx := true }) 0 fh ∧ portState (pt 6 { recalDoneTx := true }) 0 = 6 ∧
    ((pt 6 { recalDoneTx := true }).port 0).recalDoneTx = true ∧
    (List.filter (fun x => decide ((pt 6 { recalDoneTx := true }).pwr.opSec < x + 600)) ((pt 6 { recalDoneTx := true }).port 0).retrains).length < 2 ∧
    portState (pt 6 { recalDoneTx := true }) 0 ≠ 5 ∧ (portState (pt 6 { recalDoneTx := true }) 0 = 6 ∨ portState (pt 6 { recalDoneTx := true }) 0 = 7) ∧
    (pt 7 { }).inv = true ∧ (List.filter (fun x => decide ((pt 7 { }).pwr.opSec < x + 600)) ((pt 7 { }).port 0).retrains).length < 2 ∧
    portState (pt 7 { }) 0 = 7 ∧ (pt 5 { retrains := [0, 0] }).inv = true ∧
    2 ≤ (List.filter (fun x => decide ((pt 5 { retrains := [0, 0] }).pwr.opSec < x + 600)) ((pt 5 { retrains := [0, 0] }).port 0).retrains).length ∧
    IdlePort (pt 5 { retrains := [0, 0] }) 0 ∧ portState (pt 5 { retrains := [0, 0] }) 0 = 5 ∧ g14.inv = true ∧
    (∀ g < 8, portState g14 (8 * g) = 5 ∧ portMode g14 (8 * g) = 1) ∧ (pt 5 { ackTimer := true, unacked := [tf14] }).inv = true ∧
    ((pt 5 { ackTimer := true, unacked := [tf14] }).port 0).ackTimer = true ∧ portState (pt 5 { ackTimer := true, unacked := [tf14] }) 0 = 5 ∧
    ((pt 5 { ackTimer := true, unacked := [tf14] }).port 0).unacked = [tf14] ∧ ((pt 5 { ackTimer := true, unacked := [tf14] }).port 0).replay = [] ∧
    ((pt 5 { ackTimer := true, unacked := [tf14] }).port 0).replayRound < 8 ∧ (pt 5 { unacked := [tf14], replayRound := 8 }).inv = true ∧
    portState (pt 5 { unacked := [tf14], replayRound := 8 }) 0 = 5 ∧ ((pt 5 { unacked := [tf14], replayRound := 8 }).port 0).unacked = [tf14] ∧
    ((pt 5 { unacked := [tf14], replayRound := 8 }).port 0).replay = [] ∧ 8 ≤ ((pt 5 { unacked := [tf14], replayRound := 8 }).port 0).replayRound ∧
    (List.filter (fun x => decide ((pt 5 { unacked := [tf14], replayRound := 8 }).pwr.opSec < x + 600))
      ((pt 5 { unacked := [tf14], replayRound := 8 }).port 0).retrains).length <
  2 ∧
    d14.inv = true ∧ (d14.seq 0).descs.find 2 = some hw14 ∧ hw14.open_ ≠ [] ∧ hw14.ended = false ∧ portState d14 0 = 5 ∧ up.inv = true ∧ 9 < 64 ∧
    populated up 9 = false := by
  repeat' apply And.intro
  all_goals decide +kernel

def fhMiss : FrameHdr := { arrival := .syncMiss }
def fhBody : FrameHdr := { arrival := .bodyFail, len := 16 }
def fhAhead : FrameHdr := { seq := 1 }
def fhDup : FrameHdr := { seq := 4095 }
def fhAck : FrameHdr := { ackValid := true, ackSeq := 0 }
def fhNak : FrameHdr := { ackValid := true, ackSeq := 4095, nak := true }
def fh2 : FrameHdr := { tag := 2 }
def fh2c : FrameHdr := { tag := 2, cwIndex := 7 }
def tfa14 : TxFrame := { typ := 1, src := .link 0 0 [], seq := 0 }

/-- The premises of `Obligations.CellarFrames` are met, clause by clause. -/
theorem witness_CellarFrames :
    (pt 5 { }).inv = true ∧ 0 < 64 ∧ portState (pt 5 { }) 0 = 5 ∧ portRetired (pt 5 { }) 0 = false ∧ fhMiss.arrival = Arrival.syncMiss ∧
    portMode (pt 5 { }) 0 = 1 ∧ fhBody.arrival = Arrival.bodyFail ∧ fhBody.len = 16 ∧ fhBody.ver = (pt 5 { }).rd (CEL_PORT_STATUS.VER 0) ∧
    Arrives (pt 5 { }) 0 fhAhead 4 ∧ fhAhead.ackValid = false ∧ ((pt 5 { }).port 0).expected < 4096 ∧ fhAhead.seq < 4096 ∧
    fhAhead.seq = (((pt 5 { }).port 0).expected + 1) % 4096 ∧ ((pt 5 { }).port 0).nakFor = none ∧ Arrives (pt 5 { }) 0 fhDup 4 ∧ fhDup.ackValid = false ∧
    fhDup.seq < 4096 ∧ (fhDup.seq + 1) % 4096 = ((pt 5 { }).port 0).expected ∧ (pt 5 { unacked := [tfa14] }).inv = true ∧
    portState (pt 5 { unacked := [tfa14] }) 0 = 5 ∧ Arrives (pt 5 { unacked := [tfa14] }) 0 fhAck 5 ∧ fhAck.ackValid = true ∧
    ((pt 5 { unacked := [tfa14] }).port 0).acked < 4096 ∧ ((pt 5 { unacked := [tfa14] }).port 0).unacked = [tfa14] ∧
    ((pt 5 { unacked := [tfa14] }).port 0).replay = [] ∧ fhAck.ackSeq = (((pt 5 { unacked := [tfa14] }).port 0).acked + 1) % 4096 ∧
    tfa14.seq = fhAck.ackSeq ∧ Arrives (pt 5 { unacked := [tfa14] }) 0 fhNak 5 ∧ fhNak.ackValid = true ∧
    fhNak.ackSeq = ((pt 5 { unacked := [tfa14] }).port 0).acked ∧ fhNak.nak = true ∧ ((pt 5 { unacked := [tfa14] }).port 0).replayRound < 8 ∧
    d14.inv = true ∧ portState d14 0 = 5 ∧ Arrives d14 0 fh2 4 ∧ InOrder d14 0 fh2 ∧ (0 = 0 ∨ 8 < 0) ∧ Arrives d14 0 fh2 7 ∧ (0 = 0 ∨ 3 < 0) ∧
    Arrives d14 0 fh2 6 ∧ 0 < 16 ∧ (d14.seq 0).descs.find fh2.tag = some hw14 ∧ hw14.ended = false ∧ (d14.port 0).lingering.has fh2.tag = false ∧ 6 = 6 ∧
    (d14.seq 0).wait = none ∧ (d14.seq 0).held = [] ∧ (d14.seq 0).evq.length < 64 ∧ 4 = 4 ∧ fh2.tag < 32 ∧ Arrives d14 0 fh 3 ∧ InOrder d14 0 fh ∧
    (d14.port 0).ctl = [] ∧ (d14.seq 0).descs.find fh.tag = none ∧ Arrives d14 0 fh2c 3 ∧ InOrder d14 0 fh2c ∧
    (d14.seq 0).descs.find fh2c.tag = some hw14 ∧ hw14.op.cwCount ≤ fh2c.cwIndex ∧ Arrives (pt 5 { }) 0 fh 7 ∧ InOrder (pt 5 { }) 0 fh ∧ 2 = 2 ∧
    (pt 5 { }).atc.postedThisSec < 4096 ∧ Arrives (pt 5 { }) 0 fh 6 ∧ 16 ≤ 16 ∧ 3 = 3 ∧ IdlePort (pt 5 { }) 0 ∧ (pt 5 { replay := [tf14] }).inv = true ∧
    portState (pt 5 { replay := [tf14] }) 0 = 5 ∧ ((pt 5 { replay := [tf14] }).port 0).replay = [tf14] ∧ tf14.desc = none ∧
    (pt 5 { ackDue := true }).inv = true ∧ portState (pt 5 { ackDue := true }) 0 = 5 ∧ ((pt 5 { ackDue := true }).port 0).replay = [] ∧
    ((pt 5 { ackDue := true }).port 0).ackDue = true ∧ ((pt 5 { ackDue := true }).port 0).linkQ = [] ∧
    (pt 5 { creditCmd := 1, cmdHost := [tf14] }).inv = true ∧ portState (pt 5 { creditCmd := 1, cmdHost := [tf14] }) 0 = 5 ∧
    ((pt 5 { creditCmd := 1, cmdHost := [tf14] }).port 0).replay = [] ∧ ((pt 5 { creditCmd := 1, cmdHost := [tf14] }).port 0).ackDue = false ∧
    ((pt 5 { creditCmd := 1, cmdHost := [tf14] }).port 0).linkQ = [] ∧ ((pt 5 { creditCmd := 1, cmdHost := [tf14] }).port 0).cmdHost = [tf14] ∧
    tf14.typ = 1 ∧ (pt 5 { creditCmd := 1, cmdHost := [tf14] }).on (CEL_PORT_CTL.HOLD 0) = false ∧
    ((pt 5 { creditCmd := 1, cmdHost := [tf14] }).port 0).unacked.length < 64 ∧ 0 < ((pt 5 { creditCmd := 1, cmdHost := [tf14] }).port 0).creditCmd := by
  repeat' apply And.intro
  all_goals decide +kernel

def eop14 : DieOp := { kind := 2, die := 0, issuer := .test }
def w14c : State := (pt 5 { offers := [eop14] }).wr (CEL_DIE_MAP.PRESENT 0) 1
def w14d : State := { (pt 5 { dieQ := [(0, [eop14])] }).wr (CEL_DIE_MAP.PRESENT 0) 1 with seqs := [(0, { ram := [(0x2C00, 2)] })] }
def w14e : State := (pt 5 { dieQ := [(0, [eop14])], running := [(1, 4)] }).wr (CEL_DIE_MAP.PRESENT 0) 1
def w14f : State := (pt 5 { dieQ := [(0, [eop14])] }).wr (CEL_DIE_MAP.PRESENT 0) 1
def w14g : State := (pt 5 {}).wr (CEL_PORT_CTL.HOLD 0) 1

/-- The premises of `Obligations.CellarScheduling` are met, clause by clause. -/
theorem witness_CellarScheduling :
    w14c.inv = true ∧ 0 < 64 ∧ (w14c.port 0).offers = [eop14] ∧ ((w14c.port 0).dieQ.getD eop14.die []).length < 8 ∧ diePresent w14c 0 eop14.die = true ∧
    (eop14.cls = 2 ∨ (w14c.port 0).running.find eop14.die = none) ∧ portState w14c 0 = 5 ∧ portMode w14c 0 = 1 ∧ w14c.rd (CEL_DIE_MAP.PRESENT 0) = 1 ∧
    w14c.rd (CEL_DIE_MAP.EXCLUDED 0) = 0 ∧ (pt 5 { offers := [eop14] }).inv = true ∧ ((pt 5 { offers := [eop14] }).port 0).offers = [eop14] ∧
    (((pt 5 { offers := [eop14] }).port 0).dieQ.getD eop14.die []).length < 8 ∧ diePresent (pt 5 { offers := [eop14] }) 0 eop14.die = false ∧
    w14d.inv = true ∧ (∀ o ∈ (w14d.port 0).offers, 8 ≤ ((w14d.port 0).dieQ.getD o.die []).length) ∧ portState w14d 0 = 5 ∧
    w14d.on (CEL_PORT_CTL.HOLD 0) = false ∧ (w14d.port 0).running = [] ∧ (w14d.port 0).lingering = [] ∧ (w14d.port 0).suspended = [] ∧
    (w14d.port 0).dieQ.getD 0 [] = [eop14] ∧ pickOp w14d 0 ((w14d.port 0).dieQ.getD 0 []) = some 0 ∧
    List.find? (fun i => decide (descByte w14d 0 i 0 1 = 0) && !(w14d.port 0).lingering.has i) (List.range 32) = some 0 ∧ eop14.die = 0 ∧ eop14.kind ≠ 1 ∧
    findRecipe (w14d.seq 0) eop14.kind eop14.cell = some 0 ∧ w14e.inv = true ∧ ((w14e.port 0).running.find 1).isSome = true ∧ w14f.inv = true ∧
    portState w14f 0 = 5 ∧ w14f.on (CEL_PORT_CTL.HOLD 0) = false ∧ (w14f.port 0).running = [] ∧ (w14f.port 0).lingering = [] ∧
    (w14f.port 0).suspended = [] ∧ (w14f.port 0).dieQ.getD 0 [] = [eop14] ∧ pickOp w14f 0 ((w14f.port 0).dieQ.getD 0 []) = some 0 ∧
    List.find? (fun i => decide (descByte w14f 0 i 0 1 = 0) && !(w14f.port 0).lingering.has i) (List.range 32) = some 0 ∧
    findRecipe (w14f.seq 0) eop14.kind eop14.cell = none ∧ up.inv = true ∧ portState up 0 ≠ 5 ∧ w14g.inv = true ∧
    w14g.on (CEL_PORT_CTL.HOLD 0) = true := by
  repeat' apply And.intro
  all_goals decide +kernel

/-- Stair links on ports 0 and 1, up. -/
def links15 (s : State) : State :=
  (((((s.wr (CEL_PORT_CFG.MODE 0) 2).wr (CEL_PORT_STATUS.VER 0) 1).wr (CEL_PORT_STATUS.STATE 0) 5).wr (CEL_PORT_CFG.MODE 1) 2).wr
    (CEL_PORT_STATUS.VER 1) 1).wr (CEL_PORT_STATUS.STATE 1) 5
def hs (typ : Nat) : FrameHdr := { typ := typ, tag := 2 }
def jr15 : JoinRec := { worker := 1, manager := 5, epoch := 3, share := 1, weight := 1, seqLen := 1 }
def wk15 (x : Stair) : State := { (links15 up).wr STA_CTL.ENABLE 1 with pwr := { por := false, straps := { role := 2 } }, sta := x }
def wk15j : State := { (links15 up).wr STA_CTL.JOIN_EN 1 with pwr := { por := false, straps := { role := 2 } } }
def sq15 (k : Nat) : SReq := { kind := k, nsid := 1, ingest := 7, nlb := 1, units := 1 }
def sq15o (o : Nat) : SReq := { kind := 7, nsid := 1, ingest := 7, op := o }
def sq15r : SReq := { kind := 2, nsid := 1, ingest := 7, resend := true }
def sd15 : SDone := {}
def tm15 : STime := { time := 5000000000 }
def tm15b : STime := { time := 3 }
def wk15b (x : Stair) : State := { ((links15 up).wr STA_CTL.ENABLE 1).wr PAN_CTL.ENABLE 1 with pwr := { por := false, straps := { role := 2 } }, sta := x }
def wk15n (x : Stair) : State := (wk15b x).wr PAN_CTL.JOURNAL_EN 1
def wk15d : State := { wk15 { joined := [0], tags := [(2, 9)] } with hall := { ctxs := [(9, res7)] } }
def wk15p : State := { wk15 { joined := [0] } with pwr := { por := false, straps := { role := 2 }, pwrfail := true } }
def wk15s : State := { wk15 { joined := [0] } with pwr := { por := false, st := .ps4, straps := { role := 2 } } }

/-- The premises of `Obligations.StairWorker` are met, clause by clause. -/
theorem witness_StairWorker :
    wk15j.inv = true ∧ isWorker wk15j = true ∧ StairFrame wk15j 0 (hs 16) 16 ∧ wk15j.on STA_CTL.JOIN_EN = true ∧ wk15j.hall.activating = none ∧
    wk15j.sta.joined = [] ∧ wk15j.nvm.spaces = [] ∧ populated wk15j 0 = true ∧ (wk15 { }).inv = true ∧ isWorker (wk15 { }) = true ∧
    StairFrame (wk15 { }) 0 (hs 16) 16 ∧ (wk15 { }).on STA_CTL.JOIN_EN = false ∧ (wk15 { joined := [0] }).inv = true ∧
    isWorker (wk15 { joined := [0] }) = true ∧ StairFrame (wk15 { joined := [0] }) 0 (hs 18) 18 ∧ (wk15 { joined := [0] }).on STA_CTL.ENABLE = true ∧
    (wk15 { joined := [0] }).sta.mgrLost = false ∧ 0 ∈ (wk15 { joined := [0] }).sta.joined ∧ (hs 18).tag < 128 ∧
    (wk15 { joined := [0] }).ctx (stairKey (sq15 1)) = none ∧ (wk15 { joined := [0] }).hall.tails.has (stairKey (sq15 1)) = false ∧
    (sq15 1).resend = false ∧ (sq15 1).kind = 1 ∧ (wk15 { joined := [0] }).pwr.st = PwrState.ps0 ∧ (wk15 { joined := [0] }).sta.joined = [0] ∧
    (wk15 { joined := [0] }).ctx (stairKey (sq15 2)) = none ∧ (wk15 { joined := [0] }).hall.tails.has (stairKey (sq15 2)) = false ∧
    (sq15 2).resend = false ∧ (sq15 2).kind = 2 ∧ (wk15 { joined := [0] }).ctx (stairKey (sq15 3)) = none ∧
    (wk15 { joined := [0] }).hall.tails.has (stairKey (sq15 3)) = false ∧ (sq15 3).resend = false ∧ (sq15 3).kind = 3 ∧
    (wk15 { joined := [0] }).ctx (stairKey (sq15 4)) = none ∧ (wk15 { joined := [0] }).hall.tails.has (stairKey (sq15 4)) = false ∧
    (sq15 4).resend = false ∧ (sq15 4).kind = 4 ∧ (wk15 { joined := [0] }).ctx (stairKey (sq15 5)) = none ∧
    (wk15 { joined := [0] }).hall.tails.has (stairKey (sq15 5)) = false ∧ (sq15 5).resend = false ∧ (sq15 5).kind = 5 ∧
    (wk15 { joined := [0] }).ctx (stairKey (sq15 8)) = none ∧ (wk15 { joined := [0] }).hall.tails.has (stairKey (sq15 8)) = false ∧
    (sq15 8).resend = false ∧ (sq15 8).kind = 8 ∧ (wk15 { joined := [0, 1] }).inv = true ∧ isWorker (wk15 { joined := [0, 1] }) = true ∧
    StairFrame (wk15 { joined := [0, 1] }) 0 (hs 18) 18 ∧ (wk15 { joined := [0, 1] }).on STA_CTL.ENABLE = true ∧
    (wk15 { joined := [0, 1] }).sta.mgrLost = false ∧ 0 ∈ (wk15 { joined := [0, 1] }).sta.joined ∧
    (wk15 { joined := [0, 1] }).ctx (stairKey (sq15 6)) = none ∧ (wk15 { joined := [0, 1] }).hall.tails.has (stairKey (sq15 6)) = false ∧
    (sq15 6).resend = false ∧ (sq15 6).kind = 6 ∧ (wk15 { joined := [0, 1] }).sta.joined = [0, 1] ∧ 0 ≠ 1 ∧ stairUp (wk15 { joined := [0, 1] }) 1 = true ∧
    (wk15 { joined := [0, 1] }).sta.arrived.find (stairKey (sq15 6)) = none ∧
    (wk15 { joined := [0, 1], arrived := [(stairKey (sq15 6), [1])] }).inv = true ∧
    isWorker (wk15 { joined := [0, 1], arrived := [(stairKey (sq15 6), [1])] }) = true ∧
    StairFrame (wk15 { joined := [0, 1], arrived := [(stairKey (sq15 6), [1])] }) 0 (hs 18) 18 ∧
    (wk15 { joined := [0, 1], arrived := [(stairKey (sq15 6), [1])] }).on STA_CTL.ENABLE = true ∧
    (wk15 { joined := [0, 1], arrived := [(stairKey (sq15 6), [1])] }).sta.mgrLost = false ∧
    0 ∈ (wk15 { joined := [0, 1], arrived := [(stairKey (sq15 6), [1])] }).sta.joined ∧
    (wk15 { joined := [0, 1], arrived := [(stairKey (sq15 6), [1])] }).ctx (stairKey (sq15 6)) = none ∧
    (wk15 { joined := [0, 1], arrived := [(stairKey (sq15 6), [1])] }).hall.tails.has (stairKey (sq15 6)) = false ∧
    (wk15 { joined := [0, 1], arrived := [(stairKey (sq15 6), [1])] }).sta.joined = [0, 1] ∧
    stairUp (wk15 { joined := [0, 1], arrived := [(stairKey (sq15 6), [1])] }) 1 = true ∧
    (wk15 { joined := [0, 1], arrived := [(stairKey (sq15 6), [1])] }).sta.arrived.find (stairKey (sq15 6)) = some [1] ∧
    Quiet (wk15 { joined := [0, 1], arrived := [(stairKey (sq15 6), [1])] }) ∧
    List.filter (stairUp (wk15 { joined := [0, 1], arrived := [(stairKey (sq15 6), [1])] }))
    (stairPorts (wk15 { joined := [0, 1], arrived := [(stairKey (sq15 6), [1])] })) =
  [0, 1] ∧
    (wk15n { joined := [0] }).inv = true ∧ isWorker (wk15n { joined := [0] }) = true ∧ StairFrame (wk15n { joined := [0] }) 0 (hs 18) 18 ∧
    (wk15n { joined := [0] }).on STA_CTL.ENABLE = true ∧ (wk15n { joined := [0] }).sta.mgrLost = false ∧ 0 ∈ (wk15n { joined := [0] }).sta.joined ∧
    (wk15n { joined := [0] }).ctx (stairKey (sq15o 1)) = none ∧ (wk15n { joined := [0] }).hall.tails.has (stairKey (sq15o 1)) = false ∧
    (sq15o 1).resend = false ∧ (sq15o 1).kind = 7 ∧ (wk15n { joined := [0] }).sta.joined = [0] ∧ Quiet (wk15n { joined := [0] }) ∧
    journalOn (wk15n { joined := [0] }) = true ∧ (sq15o 1).op = 1 ∧ (wk15n { joined := [0] }).ctx (stairKey (sq15o 2)) = none ∧
    (wk15n { joined := [0] }).hall.tails.has (stairKey (sq15o 2)) = false ∧ (sq15o 2).resend = false ∧ (sq15o 2).kind = 7 ∧ (sq15o 2).op = 2 ∧
    (wk15 { joined := [0], done := [(stairKey sq15r, sd15, 4)] }).inv = true ∧
    isWorker (wk15 { joined := [0], done := [(stairKey sq15r, sd15, 4)] }) = true ∧
    StairFrame (wk15 { joined := [0], done := [(stairKey sq15r, sd15, 4)] }) 0 (hs 18) 18 ∧
    (wk15 { joined := [0], done := [(stairKey sq15r, sd15, 4)] }).on STA_CTL.ENABLE = true ∧
    (wk15 { joined := [0], done := [(stairKey sq15r, sd15, 4)] }).sta.mgrLost = false ∧
    0 ∈ (wk15 { joined := [0], done := [(stairKey sq15r, sd15, 4)] }).sta.joined ∧
    (wk15 { joined := [0], done := [(stairKey sq15r, sd15, 4)] }).ctx (stairKey sq15r) = none ∧
    (wk15 { joined := [0], done := [(stairKey sq15r, sd15, 4)] }).hall.tails.has (stairKey sq15r) = false ∧ sq15r.resend = true ∧ sq15r.kind = 2 ∧
    populated (wk15 { joined := [0], done := [(stairKey sq15r, sd15, 4)] }) 0 = true ∧
    (wk15 { joined := [0], done := [(stairKey sq15r, sd15, 4)] }).sta.done = [(stairKey sq15r, sd15, 4)] ∧ (wk15 { mgrLost := true }).inv = true ∧
    isWorker (wk15 { mgrLost := true }) = true ∧ StairFrame (wk15 { mgrLost := true }) 0 (hs 18) 18 ∧ (wk15 { mgrLost := true }).sta.mgrLost = true ∧
    wk15d.inv = true ∧ isWorker wk15d = true ∧ StairFrame wk15d 0 (hs 19) 19 ∧ wk15d.sta.tags.find (0 * 128 + (hs 19).tag) = some 9 ∧
    0 * 128 + (hs 19).tag ∉ wk15d.sta.discard ∧ Option.map (fun c => c.st) (wk15d.ctx 9) = some CtxSt.reserving ∧
    StairFrame (wk15 { joined := [0] }) 0 (hs 19) 19 ∧ (wk15 { joined := [0] }).sta.tags.find (0 * 128 + (hs 19).tag) = none ∧
    StairFrame (wk15 { joined := [0] }) 0 (hs 21) 21 ∧ populated (wk15 { joined := [0] }) 0 = true ∧ wk15s.inv = true ∧ isWorker wk15s = true ∧
    wk15s.pwr.st = PwrState.ps4 ∧ StairFrame (wk15 { joined := [0] }) 0 (hs 23) 23 ∧ (wk15 { joined := [0] }).hall.activating = none ∧ wk15p.inv = true ∧
    isWorker wk15p = true ∧ StairFrame wk15p 0 (hs 23) 23 ∧ wk15p.pwr.pwrfail = true := by
  repeat' apply And.intro
  all_goals decide +kernel

/-- A manager with worker 1 on port 0. -/
def mg15 (w : WorkerSt) (x : Stair) : State :=
  { ((up.wr (CEL_PORT_CFG.MODE 0) 2).wr (CEL_PORT_STATUS.VER 0) 1).wr (CEL_PORT_STATUS.STATE 0) 5 |>.wr (STA_LINK.WORKER 0) 1 with
    pwr := { por := false, straps := { role := 1 } }, sta := { x with workers := [(1, w)] } }
def jr15o : JoinRec := { ver := 0 }
def jr15c : JoinRec := { cell := 1 }
def at15 (st : Nat) : WorkerSt := { st := st, joined := [0] }
def ver15 : WorkerSt := { st := 2, ver := 0x20 }
def fen15 : WorkerSt := { st := 3, fence := 7, joined := [0], rec_ := jr15c }
def wr15 : StairReq := { w := 1, req := { kind := 2, ingest := 7, nsid := 1 }, units := [4], sent := [(0, 2)] }
def wr15b : StairReq := { w := 1, req := { kind := 2, ingest := 7, nsid := 1, sub := 1 }, units := [4], sent := [(0, 3)] }
def rd15 : StairReq := { w := 1, req := { kind := 1, ingest := 7, nsid := 1 }, units := [4], sent := [(0, 2)] }
def lost15 : StairReq := { w := 1, req := { kind := 2, ingest := 7, nsid := 1 }, units := [4], sent := [(0, 2)], lost := true }
def don15 : SDone := { phase := 1, ingest := 7 }
def don15s : SDone := { phase := 2, ingest := 7 }
def un15 : Unsettled := { w := 1, ingest := 7, sub := 0, nsid := 1, first := 4, count := 1 }
def un15b : Unsettled := { w := 1, ingest := 7, sub := 1, nsid := 1, first := 8, count := 1 }
def act15 : StairAct := { ingest := 9 }
def act15w : StairAct := { ingest := 9, step := 3 }
def c15 : Ctx := { adm8 (.stairControl 3 1) with st := .running }
def mg15j : State := (mg15 { st := 4 } {}).wr STA_CTL.JOIN_EN 1
def mg15n : State := { mg15 (at15 2) {} with nvm := { spaces := [(1, nsp8)] } }
def mg15a (a : StairAct) : State := { mg15 (at15 2) { act := some a } with hall := { ctxs := [(9, c15)] } }
def mg15b : State := { mg15 (at15 1) { act := some act15w } with pwr := { por := false, opSec := 60, straps := { role := 1 } }, hall := { ctxs := [(9, c15)] } }
def mg15l : State := { mg15 (at15 3) { reqs := [lost15], unsettled := [un15] } with pwr := { por := false, opSec := 60, straps := { role := 1 } } }
def mg15c (c : HostCmd) (w : WorkerSt) (x : Stair) : State :=
  { mg15 w x with seqs := [(64, { state := 1 })], hall := { ctxs := [(9, adm8 c)], next := 10 }, porch := { ports := [(0, livePort)] } }
def mg15l2 : State := { mg15 (at15 3) { unsettled := [un15] } with pwr := { por := false, opSec := 60, straps := { role := 1 } } }

/-- The premises of `Obligations.StairManager` are met, clause by clause. -/
theorem witness_StairManager :
    (mg15 (at15 0) { }).inv = true ∧ isManager (mg15 (at15 0) { }) = true ∧ 0 < 64 ∧ workerAt (mg15 (at15 0) { }) 0 = 1 ∧
    configured (mg15 (at15 0) { }) 1 = true ∧ StairFrame (mg15 (at15 0) { }) 0 (hs 17) 17 ∧ jr15o.ver < 16 ∧ configuredWorkers (mg15 (at15 0) { }) = [1] ∧
    linksOf (mg15 (at15 0) { }) 1 = [0] ∧ (mg15 (at15 0) { }).sta.act = none ∧ Quiet (mg15 (at15 0) { }) ∧ (mg15 (at15 0) { }).sta.unsettled = [] ∧
    ((mg15 (at15 0) { }).worker 1).st ≠ 3 ∧ 16 ≤ jr15c.ver ∧ (mg15 (at15 0) { }).sta.reqs = [] ∧ ((mg15 (at15 0) { }).worker 1).st = 0 ∧
    (mg15 (at15 3) { }).inv = true ∧ isManager (mg15 (at15 3) { }) = true ∧ workerAt (mg15 (at15 3) { }) 0 = 1 ∧ configured (mg15 (at15 3) { }) 1 = true ∧
    StairFrame (mg15 (at15 3) { }) 0 (hs 17) 17 ∧ (mg15 (at15 3) { }).sta.reqs = [] ∧ (mg15 (at15 3) { }).sta.act = none ∧
    ((mg15 (at15 3) { }).worker 1).st = 3 ∧ mg15j.inv = true ∧ isManager mg15j = true ∧ configured mg15j 1 = true ∧ (mg15j.worker 1).st = 4 ∧
    List.filter (fun n => workerAt mg15j n == 1 && stairUp mg15j n) (stairPorts mg15j) = [0] ∧ mg15j.on STA_CTL.JOIN_EN = true ∧
    (mg15 (at15 2) { reqs := [rd15] }).inv = true ∧ isManager (mg15 (at15 2) { reqs := [rd15] }) = true ∧
    ((mg15 (at15 2) { reqs := [rd15] }).worker 1).st = 2 ∧ workerAt (mg15 (at15 2) { reqs := [rd15] }) 0 = 1 ∧
    configured (mg15 (at15 2) { reqs := [rd15] }) 1 = true ∧ StairFrame (mg15 (at15 2) { reqs := [rd15] }) 0 (hs 20) 20 ∧ don15.phase = 1 ∧
    don15.ingest = rd15.req.ingest ∧ don15.sub = rd15.req.sub ∧ rd15.w = 1 ∧ rd15.sent = [(0, (hs 20).tag)] ∧
    (mg15 (at15 2) { reqs := [rd15] }).sta.reqs = [rd15] ∧ rd15.req.kind = 1 ∧ don15.sct = 0 ∧ don15.sc = 0 ∧
    (mg15 (at15 2) { reqs := [wr15, wr15b] }).inv = true ∧ isManager (mg15 (at15 2) { reqs := [wr15, wr15b] }) = true ∧
    workerAt (mg15 (at15 2) { reqs := [wr15, wr15b] }) 0 = 1 ∧ configured (mg15 (at15 2) { reqs := [wr15, wr15b] }) 1 = true ∧
    StairFrame (mg15 (at15 2) { reqs := [wr15, wr15b] }) 0 (hs 20) 20 ∧ don15.ingest = wr15.req.ingest ∧ don15.sub = wr15.req.sub ∧ wr15.w = 1 ∧
    wr15.sent = [(0, (hs 20).tag)] ∧ (mg15 (at15 2) { reqs := [wr15, wr15b] }).sta.reqs = [wr15, wr15b] ∧ wr15b.w = 1 ∧
    wr15b.req.ingest = wr15.req.ingest ∧ wr15b.req.sub ≠ wr15.req.sub ∧ wr15b.ext = wr15.ext ∧ wr15b.sent = [(0, (hs 20).tag + 1)] ∧ wr15.req.kind = 2 ∧
    wr15.units = [4] ∧ [4] ≠ [] ∧ (mg15 (at15 2) { }).inv = true ∧ isManager (mg15 (at15 2) { }) = true ∧ workerAt (mg15 (at15 2) { }) 0 = 1 ∧
    configured (mg15 (at15 2) { }) 1 = true ∧ StairFrame (mg15 (at15 2) { }) 0 (hs 20) 20 ∧ (mg15 (at15 2) { }).sta.reqs = [] ∧
    Quiet (mg15 (at15 2) { }) ∧ (mg15 (at15 2) { }).sta.unsettled = [] ∧ (mg15 (at15 2) { }).pwr.st = PwrState.ps0 ∧
    ((mg15 (at15 2) { }).worker 1).st = 2 ∧ (mg15 (at15 2) { unsettled := [un15, un15b] }).inv = true ∧
    isManager (mg15 (at15 2) { unsettled := [un15, un15b] }) = true ∧ workerAt (mg15 (at15 2) { unsettled := [un15, un15b] }) 0 = 1 ∧
    configured (mg15 (at15 2) { unsettled := [un15, un15b] }) 1 = true ∧ StairFrame (mg15 (at15 2) { unsettled := [un15, un15b] }) 0 (hs 20) 20 ∧
    don15s.phase = 2 ∧ (mg15 (at15 2) { unsettled := [un15, un15b] }).sta.unsettled = [un15, un15b] ∧ un15.w = 1 ∧ un15.ingest = don15s.ingest ∧
    un15.sub = don15s.sub ∧ un15b.w = 1 ∧ un15b.ingest = don15s.ingest ∧ un15b.sub ≠ don15s.sub ∧ StairFrame (mg15 (at15 2) { }) 0 (hs 21) 21 ∧
    mg15n.inv = true ∧ isManager mg15n = true ∧ workerAt mg15n 0 = 1 ∧ configured mg15n 1 = true ∧ StairFrame mg15n 0 (hs 22) 22 ∧ perUnit mg15n 1 = 1 ∧
    (mg15n.worker 1).st = 2 ∧ mg15n.sta.reqs = [] ∧ mg15n.sta.act = none ∧ jr15.cell ≠ frontCell mg15n 1 ∧ StairFrame (mg15 (at15 3) { }) 0 (hs 22) 22 ∧
    (mg15a act15).inv = true ∧ isManager (mg15a act15) = true ∧ workerAt (mg15a act15) 0 = 1 ∧ configured (mg15a act15) 1 = true ∧
    StairFrame (mg15a act15) 0 (hs 23) 23 ∧ (mg15a act15).sta.act = some act15 ∧ act15.step = 1 ∧ configuredWorkers (mg15a act15) = [1] ∧
    (mg15a act15).ctx act15.ingest = some c15 ∧ c15.st = CtxSt.running ∧ c15.stair = none ∧ mg15b.inv = true ∧ isManager mg15b = true ∧
    mg15b.sta.act = some act15w ∧ act15w.step = 3 ∧ act15w.at_ + 60 ≤ mg15b.pwr.opSec ∧ configuredWorkers mg15b = [1] ∧ (mg15b.worker 1).st = 1 ∧
    mg15b.ctx act15w.ingest = some c15 ∧ mg15l.inv = true ∧ isManager mg15l = true ∧ mg15l.hall.ctxs = [] ∧ mg15l.hall.tails = [] ∧ mg15l.pan.deps = [] ∧
    mg15l.ldr.fronts = [] ∧ (∀ e ∈ mg15l.nvm.spaces, e.2.formatting = none) ∧ mg15l.sta.reqs = [lost15] ∧ lost15.w = 1 ∧ lost15.lost = true ∧
    lost15.lostAt + 5 ≤ mg15l.pwr.opSec ∧ lost15.req.kind = 2 ∧ lost15.units = [4] ∧ (mg15l.worker 1).st = 3 ∧
    (mg15l.worker 1).fencedAt + 10 ≤ mg15l.pwr.opSec ∧ mg15l.sta.unsettled = [un15] ∧ (mg15c (HostCmd.stairControl 1 1) (at15 2) { }).inv = true ∧
    isManager (mg15c (HostCmd.stairControl 1 1) (at15 2) { }) = true ∧
    Fresh (mg15c (HostCmd.stairControl 1 1) (at15 2) { }) 9 (adm8 (HostCmd.stairControl 1 1)) ∧
    supTurns (mg15c (HostCmd.stairControl 1 1) (at15 2) { }) = true ∧ adminGo (mg15c (HostCmd.stairControl 1 1) (at15 2) { }) 9 = true ∧
    (adm8 (HostCmd.stairControl 1 1)).cmd = HostCmd.stairControl 1 1 ∧ configured (mg15c (HostCmd.stairControl 1 1) (at15 2) { }) 1 = true ∧
    ((mg15c (HostCmd.stairControl 1 1) (at15 2) { }).worker 1).st = 2 ∧ (mg15c (HostCmd.stairControl 1 1) (at15 2) { }).sta.reqs = [] ∧
    (mg15c (HostCmd.stairControl 1 1) (at15 2) { }).sta.act = none ∧ (mg15c (HostCmd.stairControl 1 2) (at15 2) { }).inv = true ∧
    isManager (mg15c (HostCmd.stairControl 1 2) (at15 2) { }) = true ∧
    Fresh (mg15c (HostCmd.stairControl 1 2) (at15 2) { }) 9 (adm8 (HostCmd.stairControl 1 2)) ∧
    supTurns (mg15c (HostCmd.stairControl 1 2) (at15 2) { }) = true ∧ adminGo (mg15c (HostCmd.stairControl 1 2) (at15 2) { }) 9 = true ∧
    (adm8 (HostCmd.stairControl 1 2)).cmd = HostCmd.stairControl 1 2 ∧ configured (mg15c (HostCmd.stairControl 1 2) (at15 2) { }) 2 = false ∧
    (mg15c (HostCmd.stairControl 2 1) (at15 2) { }).inv = true ∧ isManager (mg15c (HostCmd.stairControl 2 1) (at15 2) { }) = true ∧
    Fresh (mg15c (HostCmd.stairControl 2 1) (at15 2) { }) 9 (adm8 (HostCmd.stairControl 2 1)) ∧
    supTurns (mg15c (HostCmd.stairControl 2 1) (at15 2) { }) = true ∧ adminGo (mg15c (HostCmd.stairControl 2 1) (at15 2) { }) 9 = true ∧
    (adm8 (HostCmd.stairControl 2 1)).cmd = HostCmd.stairControl 2 1 ∧ configured (mg15c (HostCmd.stairControl 2 1) (at15 2) { }) 1 = true ∧
    ((mg15c (HostCmd.stairControl 2 1) (at15 2) { }).worker 1).st = 2 ∧ (mg15c (HostCmd.stairControl 2 1) (at15 4) { }).inv = true ∧
    isManager (mg15c (HostCmd.stairControl 2 1) (at15 4) { }) = true ∧
    Fresh (mg15c (HostCmd.stairControl 2 1) (at15 4) { }) 9 (adm8 (HostCmd.stairControl 2 1)) ∧
    supTurns (mg15c (HostCmd.stairControl 2 1) (at15 4) { }) = true ∧ adminGo (mg15c (HostCmd.stairControl 2 1) (at15 4) { }) 9 = true ∧
    configured (mg15c (HostCmd.stairControl 2 1) (at15 4) { }) 1 = true ∧ ((mg15c (HostCmd.stairControl 2 1) (at15 4) { }).worker 1).st = 4 ∧
    (mg15c (HostCmd.stairControl 2 1) fen15 { }).inv = true ∧ isManager (mg15c (HostCmd.stairControl 2 1) fen15 { }) = true ∧
    Fresh (mg15c (HostCmd.stairControl 2 1) fen15 { }) 9 (adm8 (HostCmd.stairControl 2 1)) ∧
    supTurns (mg15c (HostCmd.stairControl 2 1) fen15 { }) = true ∧ adminGo (mg15c (HostCmd.stairControl 2 1) fen15 { }) 9 = true ∧
    configured (mg15c (HostCmd.stairControl 2 1) fen15 { }) 1 = true ∧ ((mg15c (HostCmd.stairControl 2 1) fen15 { }).worker 1).st = 3 ∧
    ((mg15c (HostCmd.stairControl 2 1) fen15 { }).worker 1).joined ≠ [] ∧ (mg15c (HostCmd.stairControl 2 1) fen15 { }).sta.reqs = [] ∧
    (mg15c (HostCmd.stairControl 2 1) fen15 { }).sta.act = none ∧
    ((mg15c (HostCmd.stairControl 2 1) fen15 { }).worker 1).rec_.cell ≠ frontCell (mg15c (HostCmd.stairControl 2 1) fen15 { }) 1 ∧
    ((mg15c (HostCmd.stairControl 2 1) fen15 { }).worker 1).fence = 7 ∧ (mg15c (HostCmd.stairControl 3 1) ver15 { }).inv = true ∧
    isManager (mg15c (HostCmd.stairControl 3 1) ver15 { }) = true ∧
    Fresh (mg15c (HostCmd.stairControl 3 1) ver15 { }) 9 (adm8 (HostCmd.stairControl 3 1)) ∧
    supTurns (mg15c (HostCmd.stairControl 3 1) ver15 { }) = true ∧ adminGo (mg15c (HostCmd.stairControl 3 1) ver15 { }) 9 = true ∧
    (adm8 (HostCmd.stairControl 3 1)).cmd = HostCmd.stairControl 3 1 ∧ configured (mg15c (HostCmd.stairControl 3 1) ver15 { }) 1 = true ∧
    (mg15c (HostCmd.stairControl 3 1) ver15 { }).sta.act = none ∧ configuredWorkers (mg15c (HostCmd.stairControl 3 1) ver15 { }) = [1] ∧
    ((mg15c (HostCmd.stairControl 3 1) ver15 { }).worker 1).st = 2 ∧ ((mg15c (HostCmd.stairControl 3 1) ver15 { }).worker 1).ver = 32 ∧
    (mg15c (HostCmd.stairControl 3 1) (at15 2) { act := some act15 }).inv = true ∧
    isManager (mg15c (HostCmd.stairControl 3 1) (at15 2) { act := some act15 }) = true ∧
    Fresh (mg15c (HostCmd.stairControl 3 1) (at15 2) { act := some act15 }) 9 (adm8 (HostCmd.stairControl 3 1)) ∧
    supTurns (mg15c (HostCmd.stairControl 3 1) (at15 2) { act := some act15 }) = true ∧
    adminGo (mg15c (HostCmd.stairControl 3 1) (at15 2) { act := some act15 }) 9 = true ∧
    configured (mg15c (HostCmd.stairControl 3 1) (at15 2) { act := some act15 }) 1 = true ∧
    (mg15c (HostCmd.stairControl 3 1) (at15 2) { act := some act15 }).sta.act = some act15 := by
  repeat' apply And.intro
  all_goals decide +kernel

def w16 : Casement := casEncode d13
def w16d : Casement := flipCas w16 35
def w16t : Casement := flipCas w16 258
def w16m : Casement := flipCas w16 275
def w16s : Casement := flipCas w16 288
def w16p : Casement := casPoison
def w16b : Casement := flipCas w16d 50
def q16 : State := { up with pending := [.pantryDisable] }

/-- The premises of `Obligations.CasementWord` are met, clause by clause. -/
theorem witness_CasementWord :
    5 < 256 ∧ 0 < 16 := by
  repeat' apply And.intro
  all_goals decide +kernel

/-- The premises of `Obligations.CasementChecker` are met, clause by clause. -/
theorem witness_CasementChecker :
    0 < 16 ∧ 5 < 289 ∧ 6 < 289 ∧ synT w16 = 0 ∧ synM w16 = 0 ∧ synS w16 = false ∧ 5 ≠ 6 ∧ 2 < 16 ∧ 3 < 16 ∧ synT w16d = BitVec.twoPow 16 2 ∧
    synM w16d = BitVec.twoPow 16 3 ∧ synS w16d = true ∧ synT w16t = BitVec.twoPow 16 2 ∧ synM w16t = 0 ∧ synS w16t = false ∧ synT w16m = 0 ∧
    synM w16m = BitVec.twoPow 16 3 ∧ synS w16m = false ∧ synT w16s = 0 ∧ synM w16s = 0 ∧ synS w16s = true ∧ 288 < 289 ∧ w16p = casPoison ∧
    casDecode w16b = CasRes.bad := by
  repeat' apply And.intro
  all_goals decide +kernel

/-- The premises of `Obligations.StepRunsCommand` are met, clause by clause. -/
theorem witness_StepRunsCommand :
    q16.pending = [Instr.pantryDisable] ∧ up.pending = [] := by
  repeat' apply And.intro
  all_goals decide +kernel

/-- The premises of `Obligations.InvariantKept`: the invariant holds at reset and in a state with a command waiting, and each steps to a next state. -/
theorem witness_InvariantKept : State.reset.inv = true ∧ (∃ t, step State.reset = .next t) ∧ q16.inv = true ∧ ∃ t, step q16 = .next t :=
  ⟨by decide +kernel, ⟨_, rfl⟩, by decide +kernel, ⟨_, rfl⟩⟩

end Sys2Proof.Tests
end

section
/-!
PROOF. The casement code (chapter 11, R406 and R407). A parity is the XOR over a list of data bits, so inverting one data bit inverts just the
parities of the lists that hold it; each bit of the word thus has a signature, the change that its inversion makes to the three syndromes
(`bitSynT`, `bitSynM`, `bitSynS`). Two facts about signatures give R407: each has an odd number of ones, and no two are equal. The syndromes
of a double error then have an even number of ones, not all zero, while every correctable row of Table 11-2 and the poison pattern have an odd one.
-/
namespace Sys2Proof.Machine

/-! ## Parities of lists of bits -/

theorem xorBits_cons (b : Bool) (l : List Bool) : xorBits (b :: l) = xor b (xorBits l) := by
  calc l.foldl xor (xor false b) = l.foldl xor (xor b false) := by rw [Bool.xor_comm]
    _ = xor b (l.foldl xor false) := List.foldl_assoc

theorem xorBits_map_eq_parity (f : Nat → Bool) (l : List Nat) : xorBits (l.map f) = decide (l.countP f % 2 = 1) := by
  induction l with
  | nil => rfl
  | cons k l ih =>
    rw [List.map_cons, xorBits_cons, ih, List.countP_cons]
    cases f k
    · simp
    · by_cases hl : l.countP f % 2 = 1 <;> simp [hl] <;> omega

theorem xorBits_map_xor {f g h : Nat → Bool} (hxor : ∀ k, h k = xor (f k) (g k)) (l : List Nat) :
    xorBits (l.map h) = xor (xorBits (l.map f)) (xorBits (l.map g)) := by
  induction l with
  | nil => rfl
  | cons k l ih => simp only [List.map_cons, xorBits_cons, hxor, ih, Bool.xor_assoc, Bool.xor_left_comm]

theorem xorBits_map_eq_mem {l : List Nat} (hl : l.Nodup) (i : Nat) :
    xorBits (l.map fun k => decide (i = k)) = decide (i ∈ l) := by
  have hcount : l.countP (fun k => decide (i = k)) = if i ∈ l then 1 else 0 := by
    rw [← hl.count, List.count]
    exact List.countP_congr fun k _ => by rw [decide_eq_true_eq, beq_iff_eq, eq_comm]
  rw [xorBits_map_eq_parity, hcount]
  by_cases hi : i ∈ l <;> simp [hi]

/-- Inverting bit `i` inverts the parity of a list of distinct bits exactly where the list holds `i`. -/
theorem xorBits_map_flip {n i : Nat} (hi : i < n) (d : BitVec n) {l : List Nat} (hl : l.Nodup) :
    xorBits (l.map (d ^^^ BitVec.twoPow n i).getLsbD) = xor (xorBits (l.map d.getLsbD)) (decide (i ∈ l)) := by
  rw [← xorBits_map_eq_mem hl i]
  exact xorBits_map_xor (fun k => by simp only [BitVec.getLsbD_xor, BitVec.getLsbD_twoPow, hi, decide_true, Bool.true_and]) l

/-! ## The parities of a casement word (R406) -/

theorem bv16_sum_lt (f : Nat → Bool) (n : Nat) : (List.range n).foldl (fun a i => a + b2n (f i) * 2 ^ i) 0 < 2 ^ n := by
  induction n with
  | zero => simp
  | succ n ih =>
    rw [List.range_succ, List.foldl_append, List.foldl_cons, List.foldl_nil, Nat.pow_succ]
    have hbit : b2n (f n) ≤ 1 := by cases f n <;> decide
    have hterm := Nat.mul_le_mul_right (2 ^ n) hbit
    omega

theorem bv16_sum_testBit (f : Nat → Bool) (n i : Nat) (hi : i < n) :
    ((List.range n).foldl (fun a i => a + b2n (f i) * 2 ^ i) 0).testBit i = f i := by
  induction n with
  | zero => omega
  | succ n ih =>
    rw [List.range_succ, List.foldl_append, List.foldl_cons, List.foldl_nil, Nat.add_comm, Nat.mul_comm,
      Nat.testBit_two_pow_mul_add _ (bv16_sum_lt f n)]
    split
    · next hlt => exact ih hlt
    · next hge =>
      obtain rfl : i = n := by omega
      cases hf : f i <;> simp [b2n]

@[simp] theorem bv16_getLsbD (f : Nat → Bool) {i : Nat} (hi : i < 16) : (bv16 f).getLsbD i = f i := by
  rw [bv16, BitVec.getLsbD_ofNat, bv16_sum_testBit f 16 i hi, decide_eq_true hi, Bool.true_and]

/-- The data bits of row `r` (R406). -/
def rowBits (r : Nat) : List Nat := (List.range 16).map fun c => 16 * r + c

/-- The data bits of column `c` (R406). -/
def colBits (c : Nat) : List Nat := (List.range 16).map fun r => 16 * r + c

theorem mem_rowBits {r k : Nat} : k ∈ rowBits r ↔ k / 16 = r := by
  simp only [rowBits, List.mem_map, List.mem_range]
  exact ⟨fun ⟨c, hc, hk⟩ => by omega, fun hk => ⟨k % 16, by omega, by omega⟩⟩

theorem mem_colBits {c k : Nat} (hc : c < 16) : k ∈ colBits c ↔ k < 256 ∧ k % 16 = c := by
  simp only [colBits, List.mem_map, List.mem_range]
  exact ⟨fun ⟨r, hr, hk⟩ => by omega, fun hk => ⟨k / 16, by omega, by omega⟩⟩

theorem nodup_rowBits (r : Nat) : (rowBits r).Nodup :=
  List.nodup_range.map fun a b (h : 16 * r + a = 16 * r + b) => by omega

theorem nodup_colBits (c : Nat) : (colBits c).Nodup :=
  List.nodup_range.map fun a b (h : 16 * a + c = 16 * b + c) => by omega

theorem rowBits_perm {r : Nat} (hr : r < 16) : (rowBits r).Perm ((List.range 256).filter fun k => k >>> 4 = r) := by
  rw [List.perm_ext_iff_of_nodup (nodup_rowBits r) (List.nodup_range.filter _)]
  intro k
  simp only [mem_rowBits, List.mem_filter, List.mem_range, decide_eq_true_eq, Nat.shiftRight_eq_div_pow]
  omega

theorem colBits_perm {c : Nat} (hc : c < 16) : (colBits c).Perm ((List.range 256).filter fun k => k &&& 0xF = c) := by
  rw [List.perm_ext_iff_of_nodup (nodup_colBits c) (List.nodup_range.filter _)]
  intro k
  have hmask : k &&& 0xF = k % 16 := Nat.and_two_pow_sub_one_eq_mod k 4
  simp only [mem_colBits hc, List.mem_filter, List.mem_range, decide_eq_true_eq, hmask]

theorem transoms_getLsbD (d : BitVec 256) {r : Nat} (hr : r < 16) :
    (transoms d).getLsbD r = xorBits ((rowBits r).map d.getLsbD) := by
  rw [transoms, bv16_getLsbD _ hr, rowBits, List.map_map]; rfl

theorem mullions_getLsbD (d : BitVec 256) {c : Nat} (hc : c < 16) :
    (mullions d).getLsbD c = xorBits ((colBits c).map d.getLsbD) := by
  rw [mullions, bv16_getLsbD _ hc, colBits, List.map_map]; rfl

theorem transoms_flip (d : BitVec 256) {k : Nat} (hk : k < 256) :
    transoms (d ^^^ BitVec.twoPow 256 k) = transoms d ^^^ BitVec.twoPow 16 (k / 16) := by
  refine BitVec.eq_of_getLsbD_eq fun r hr => ?_
  have hrow : k / 16 < 16 := by omega
  simp only [BitVec.getLsbD_xor, BitVec.getLsbD_twoPow, transoms_getLsbD _ hr, xorBits_map_flip hk d (nodup_rowBits r), mem_rowBits,
    hrow, decide_true, Bool.true_and]

theorem mullions_flip (d : BitVec 256) {k : Nat} (hk : k < 256) :
    mullions (d ^^^ BitVec.twoPow 256 k) = mullions d ^^^ BitVec.twoPow 16 (k % 16) := by
  refine BitVec.eq_of_getLsbD_eq fun c hc => ?_
  have hcol : k % 16 < 16 := by omega
  simp only [BitVec.getLsbD_xor, BitVec.getLsbD_twoPow, mullions_getLsbD _ hc, xorBits_map_flip hk d (nodup_colBits c), mem_colBits hc,
    hk, hcol, decide_true, Bool.true_and, true_and]

theorem sillOf_flip (d : BitVec 256) {k : Nat} (hk : k < 256) : sillOf (d ^^^ BitVec.twoPow 256 k) = !sillOf d := by
  have hflip := xorBits_map_flip hk d (List.nodup_range (n := 256))
  rwa [decide_eq_true (List.mem_range.mpr hk), Bool.xor_true] at hflip

/-! ## The bits of a casement word -/

theorem flipCas_data (w : Casement) {k : Nat} (hk : k < 256) : flipCas w k = { w with d := w.d ^^^ BitVec.twoPow 256 k } :=
  if_pos hk

theorem flipCas_transom (w : Casement) {r : Nat} (hr : r < 16) :
    flipCas w (256 + r) = { w with t := w.t ^^^ BitVec.twoPow 16 r } := by
  rw [flipCas, if_neg (by omega), if_pos (by omega), Nat.add_sub_cancel_left]

theorem flipCas_mullion (w : Casement) {c : Nat} (hc : c < 16) :
    flipCas w (272 + c) = { w with m := w.m ^^^ BitVec.twoPow 16 c } := by
  rw [flipCas, if_neg (by omega), if_neg (by omega), if_pos (by omega), Nat.add_sub_cancel_left]

theorem flipCas_sill (w : Casement) : flipCas w 288 = { w with sill := !w.sill } := by
  simp [flipCas]

/-- The bits of a casement word are the data bits, the transoms, the mullions and the sill (Table 11-1). -/
theorem casement_bit_cases {P : Nat → Prop} (data : ∀ k < 256, P k) (transom : ∀ r < 16, P (256 + r)) (mullion : ∀ c < 16, P (272 + c))
    (sill : P 288) : ∀ i < 289, P i := by
  intro i hi
  by_cases hd : i < 256
  · exact data i hd
  by_cases ht : i < 272
  · exact Nat.add_sub_cancel' (not_lt.mp hd) ▸ transom (i - 256) (by omega)
  by_cases hm : i < 288
  · exact Nat.add_sub_cancel' (not_lt.mp ht) ▸ mullion (i - 272) (by omega)
  · obtain rfl : i = 288 := by omega
    exact sill

/-- Settles O55: the rows and columns are the lists of R406, and each parity counts the ones of its list. -/
theorem casementWord : Obligations.CasementWord := by
  intro d w k r c hk hr hc parity
  have hrow : (casEncode d).t.getLsbD r = parity ((List.range 256).filter fun k => k >>> 4 = r) := by
    simp only [casEncode, transoms_getLsbD d hr, xorBits_map_eq_parity, (rowBits_perm hr).countP_eq, parity]
  have hcol : (casEncode d).m.getLsbD c = parity ((List.range 256).filter fun k => k &&& 0xF = c) := by
    simp only [casEncode, mullions_getLsbD d hc, xorBits_map_eq_parity, (colBits_perm hc).countP_eq, parity]
  have hsill : (casEncode d).sill = parity (List.range 256) := by
    simp only [casEncode, sillOf, xorBits_map_eq_parity, parity]
  exact ⟨rfl, hrow, hcol, hsill, flipCas_data w hk, flipCas_transom w hr, flipCas_mullion w hc, flipCas_sill w⟩

/-! ## Signatures: what the inversion of one bit does to the syndromes -/

/-- The change that inverting bit `i` makes to the transom syndrome. -/
def bitSynT (i : Nat) : BitVec 16 := if i < 256 then BitVec.twoPow 16 (i / 16) else if i < 272 then BitVec.twoPow 16 (i - 256) else 0

/-- The change that inverting bit `i` makes to the mullion syndrome. -/
def bitSynM (i : Nat) : BitVec 16 :=
  if i < 256 then BitVec.twoPow 16 (i % 16) else if i < 272 then 0 else if i < 288 then BitVec.twoPow 16 (i - 272) else 0

/-- The change that inverting bit `i` makes to the sill syndrome. -/
def bitSynS (i : Nat) : Bool := i < 256 || 288 ≤ i

theorem bitSyn_data {k : Nat} (hk : k < 256) :
    bitSynT k = BitVec.twoPow 16 (k / 16) ∧ bitSynM k = BitVec.twoPow 16 (k % 16) ∧ bitSynS k = true := by
  simp only [bitSynT, bitSynM, bitSynS, hk, if_true, decide_true, Bool.true_or, and_self]

theorem bitSyn_transom {r : Nat} (hr : r < 16) :
    bitSynT (256 + r) = BitVec.twoPow 16 r ∧ bitSynM (256 + r) = 0#16 ∧ bitSynS (256 + r) = false := by
  have hdata : ¬ 256 + r < 256 := by omega
  have htransom : 256 + r < 272 := by omega
  have hsill : ¬ 288 ≤ 256 + r := by omega
  simp [bitSynT, bitSynM, bitSynS, hdata, htransom, hsill]

theorem bitSyn_mullion {c : Nat} (hc : c < 16) :
    bitSynT (272 + c) = 0#16 ∧ bitSynM (272 + c) = BitVec.twoPow 16 c ∧ bitSynS (272 + c) = false := by
  have hdata : ¬ 272 + c < 256 := by omega
  have htransom : ¬ 272 + c < 272 := by omega
  have hmullion : 272 + c < 288 := by omega
  have hsill : ¬ 288 ≤ 272 + c := by omega
  simp [bitSynT, bitSynM, bitSynS, hdata, htransom, hmullion, hsill]

theorem bitSyn_sill : bitSynT 288 = 0#16 ∧ bitSynM 288 = 0#16 ∧ bitSynS 288 = true := ⟨rfl, rfl, rfl⟩

theorem syn_flipCas (w : Casement) : ∀ i < 289, synT (flipCas w i) = synT w ^^^ bitSynT i ∧
    synM (flipCas w i) = synM w ^^^ bitSynM i ∧ synS (flipCas w i) = xor (synS w) (bitSynS i) := by
  refine casement_bit_cases (fun k hk => ?data) (fun r hr => ?transom) (fun c hc => ?mullion) ?sill
  case data =>
    obtain ⟨hT, hM, hS⟩ := bitSyn_data hk
    rw [flipCas_data w hk, hT, hM, hS]
    simp [synT, synM, synS, transoms_flip _ hk, mullions_flip _ hk, sillOf_flip _ hk, BitVec.xor_assoc]
  case transom =>
    obtain ⟨hT, hM, hS⟩ := bitSyn_transom hr
    rw [flipCas_transom w hr, hT, hM, hS]
    simp [synT, synM, synS, BitVec.xor_assoc, BitVec.xor_comm (transoms w.d)]
  case mullion =>
    obtain ⟨hT, hM, hS⟩ := bitSyn_mullion hc
    rw [flipCas_mullion w hc, hT, hM, hS]
    simp [synT, synM, synS, BitVec.xor_assoc, BitVec.xor_comm (mullions w.d)]
  case sill => simp [flipCas_sill, synT, synM, synS, bitSyn_sill]

theorem syn_casEncode (d : BitVec 256) : synT (casEncode d) = 0#16 ∧ synM (casEncode d) = 0#16 ∧ synS (casEncode d) = false := by
  simp [synT, synM, synS, casEncode]

/-! ## The rows of Table 11-2 -/

@[simp] theorem ones16_zero : ones16 0#16 = 0 := by decide

@[simp] theorem ones16_twoPow {r : Nat} (hr : r < 16) : ones16 (BitVec.twoPow 16 r) = 1 := by
  revert r; decide

@[simp] theorem firstOne_twoPow {r : Nat} (hr : r < 16) : firstOne (BitVec.twoPow 16 r) = r := by
  revert r; decide

theorem eq_zero_of_ones16 {v : BitVec 16} (hv : ones16 v = 0) : v = 0#16 := by
  refine BitVec.eq_of_getLsbD_eq fun i hi => ?_
  simpa using List.countP_eq_zero.mp hv i (List.mem_range.mpr hi)

theorem synDecode_clean : synDecode 0#16 0#16 false = .clean := by simp [synDecode]

theorem synDecode_data {r c : Nat} (hr : r < 16) (hc : c < 16) :
    synDecode (BitVec.twoPow 16 r) (BitVec.twoPow 16 c) true = .data (16 * r + c) := by
  simp [synDecode, hr, hc]

theorem synDecode_transom {r : Nat} (hr : r < 16) : synDecode (BitVec.twoPow 16 r) 0#16 false = .check := by simp [synDecode, hr]

theorem synDecode_mullion {c : Nat} (hc : c < 16) : synDecode 0#16 (BitVec.twoPow 16 c) false = .check := by simp [synDecode, hc]

theorem synDecode_sill : synDecode 0#16 0#16 true = .check := by simp [synDecode]

/-- The signature of a single bit names that bit in Table 11-2. -/
theorem synDecode_bitSyn : ∀ i < 289, synDecode (bitSynT i) (bitSynM i) (bitSynS i) = if i < 256 then .data i else .check := by
  refine casement_bit_cases (fun k hk => ?data) (fun r hr => ?transom) (fun c hc => ?mullion) ?sill
  case data =>
    obtain ⟨hT, hM, hS⟩ := bitSyn_data hk
    rw [hT, hM, hS, synDecode_data (by omega) (by omega), if_pos hk, Nat.div_add_mod]
  case transom =>
    obtain ⟨hT, hM, hS⟩ := bitSyn_transom hr
    rw [hT, hM, hS, synDecode_transom hr, if_neg (by omega)]
  case mullion =>
    obtain ⟨hT, hM, hS⟩ := bitSyn_mullion hc
    rw [hT, hM, hS, synDecode_mullion hc, if_neg (by omega)]
  case sill => exact synDecode_sill

/-- The bit whose signature the syndromes are, where one is: a left inverse of the signatures. -/
def synBit (st sm : BitVec 16) (ss : Bool) : Nat :=
  match ss with
  | true => if st = 0#16 then 288 else 16 * firstOne st + firstOne sm
  | false => if sm = 0#16 then 256 + firstOne st else 272 + firstOne sm

theorem twoPow_ne_zero {r : Nat} (hr : r < 16) : BitVec.twoPow 16 r ≠ 0#16 := by
  intro hzero
  have hone := ones16_twoPow hr
  rw [hzero, ones16_zero] at hone
  cases hone

theorem synBit_bitSyn : ∀ i < 289, synBit (bitSynT i) (bitSynM i) (bitSynS i) = i := by
  refine casement_bit_cases (fun k hk => ?data) (fun r hr => ?transom) (fun c hc => ?mullion) ?sill
  case data =>
    obtain ⟨hT, hM, hS⟩ := bitSyn_data hk
    have hrow : k / 16 < 16 := by omega
    have hcol : k % 16 < 16 := by omega
    simp only [hT, hM, hS, synBit, twoPow_ne_zero hrow, if_false, firstOne_twoPow hrow, firstOne_twoPow hcol, Nat.div_add_mod]
  case transom =>
    obtain ⟨hT, hM, hS⟩ := bitSyn_transom hr
    simp only [hT, hM, hS, synBit, if_true, firstOne_twoPow hr]
  case mullion =>
    obtain ⟨hT, hM, hS⟩ := bitSyn_mullion hc
    simp only [hT, hM, hS, synBit, twoPow_ne_zero hc, if_false, firstOne_twoPow hc]
  case sill => rfl

/-! ## Even and odd syndromes -/

/-- Whether a row of sixteen bits holds an odd number of ones. -/
def parity16 (v : BitVec 16) : Bool := xorBits ((List.range 16).map v.getLsbD)

theorem parity16_eq (v : BitVec 16) : parity16 v = decide (ones16 v % 2 = 1) := xorBits_map_eq_parity _ _

theorem parity16_xor (u v : BitVec 16) : parity16 (u ^^^ v) = xor (parity16 u) (parity16 v) :=
  xorBits_map_xor (fun _ => BitVec.getLsbD_xor) _

/-- Whether the three syndromes hold an odd number of ones between them. -/
def synOdd (st sm : BitVec 16) (ss : Bool) : Bool := xor (xor (parity16 st) (parity16 sm)) ss

theorem synOdd_xor (st sm st' sm' : BitVec 16) (ss ss' : Bool) :
    synOdd (st ^^^ st') (sm ^^^ sm') (xor ss ss') = xor (synOdd st sm ss) (synOdd st' sm' ss') := by
  simp only [synOdd, parity16_xor, Bool.xor_assoc, Bool.xor_left_comm]

theorem synOdd_bitSyn : ∀ i < 289, synOdd (bitSynT i) (bitSynM i) (bitSynS i) = true := by
  refine casement_bit_cases (fun k hk => ?data) (fun r hr => ?transom) (fun c hc => ?mullion) ?sill
  case data =>
    obtain ⟨hT, hM, hS⟩ := bitSyn_data hk
    have hrow : k / 16 < 16 := by omega
    have hcol : k % 16 < 16 := by omega
    simp [hT, hM, hS, synOdd, parity16_eq, hrow, hcol]
  case transom =>
    obtain ⟨hT, hM, hS⟩ := bitSyn_transom hr
    rw [hT, hM, hS]; simp [synOdd, parity16_eq, ones16_twoPow hr]
  case mullion =>
    obtain ⟨hT, hM, hS⟩ := bitSyn_mullion hc
    rw [hT, hM, hS]; simp [synOdd, parity16_eq, ones16_twoPow hc]
  case sill => rfl

/-- Every correctable row of Table 11-2 has an odd number of ones, so an even number, not all zero, is uncorrectable. -/
theorem synDecode_eq_bad_of_even {st sm : BitVec 16} {ss : Bool} (heven : synOdd st sm ss = false)
    (hne : ¬ (st = 0#16 ∧ sm = 0#16 ∧ ss = false)) : synDecode st sm ss = .bad := by
  simp only [synOdd, parity16_eq] at heven
  unfold synDecode
  split
  case h_1 hT hM => exact absurd ⟨eq_zero_of_ones16 hT, eq_zero_of_ones16 hM, rfl⟩ hne
  case h_6 => rfl
  -- The four correctable rows: their counts contradict `heven`.
  all_goals simp_all

/-! ## The checker (R407) -/

/-- R408: data 0 has zero parities, so the poison pattern shows all its check bits in the syndromes. -/
theorem syn_casPoison : synT casPoison = 0xFFFF#16 ∧ synM casPoison = 0xFFFF#16 ∧ synS casPoison = true := by decide +kernel

/-- The syndromes of the poison pattern lie in no correctable row, so a word in such a row is decoded by that row. -/
theorem casDecode_eq_of_row {w : Casement} {st sm : BitVec 16} {ss : Bool} {res : CasRes} (hT : synT w = st) (hM : synM w = sm)
    (hS : synS w = ss) (hrow : synDecode st sm ss = res) (hres : res ≠ .bad) : casDecode w = res := by
  have hw : w ≠ casPoison := by
    rintro rfl
    obtain ⟨hT', hM', hS'⟩ := syn_casPoison
    have hbad : synDecode 0xFFFF#16 0xFFFF#16 true = .bad := by decide
    exact hres (by rw [← hrow, ← hT, ← hM, ← hS, hT', hM', hS', hbad])
  rw [casDecode, if_neg hw, hT, hM, hS, hrow]

theorem casDecode_casPoison : casDecode casPoison = .poisoned := if_pos rfl

theorem casDecode_eq_bad_of_even {w : Casement} (heven : synOdd (synT w) (synM w) (synS w) = false)
    (hne : ¬ (synT w = 0#16 ∧ synM w = 0#16 ∧ synS w = false)) : casDecode w = .bad := by
  have hw : w ≠ casPoison := by
    rintro rfl
    obtain ⟨hT, hM, hS⟩ := syn_casPoison
    have hodd : synOdd 0xFFFF#16 0xFFFF#16 true = true := by decide
    rw [hT, hM, hS, hodd] at heven
    cases heven
  rw [casDecode, if_neg hw, synDecode_eq_bad_of_even heven hne]

theorem casDecode_casEncode (d : BitVec 256) : casDecode (casEncode d) = .clean := by
  obtain ⟨hT, hM, hS⟩ := syn_casEncode d
  exact casDecode_eq_of_row hT hM hS synDecode_clean (by decide)

/-- The syndromes of a single error are the signature of its bit. -/
theorem syn_single_error (d : BitVec 256) {i : Nat} (hi : i < 289) : synT (flipCas (casEncode d) i) = bitSynT i ∧
    synM (flipCas (casEncode d) i) = bitSynM i ∧ synS (flipCas (casEncode d) i) = bitSynS i := by
  obtain ⟨hT, hM, hS⟩ := syn_casEncode d
  simpa only [hT, hM, hS, BitVec.zero_xor, Bool.false_xor] using syn_flipCas (casEncode d) i hi

theorem casDecode_single_error (d : BitVec 256) {i : Nat} (hi : i < 289) :
    casDecode (flipCas (casEncode d) i) = if i < 256 then .data i else .check := by
  obtain ⟨hT, hM, hS⟩ := syn_single_error d hi
  exact casDecode_eq_of_row hT hM hS (synDecode_bitSyn i hi) (by split <;> simp)

theorem casCorrect_eq_of_data {w : Casement} {k : Nat} (hw : casDecode w = .data k) : casCorrect w = w.d ^^^ BitVec.twoPow 256 k := by
  rw [casCorrect, hw]

theorem flipCas_check_d (w : Casement) {i : Nat} (hi : ¬ i < 256) : (flipCas w i).d = w.d := by
  rw [flipCas, if_neg hi]; split_ifs <;> rfl

theorem casCorrect_single_error (d : BitVec 256) {i : Nat} (hi : i < 289) : casCorrect (flipCas (casEncode d) i) = d := by
  have hdec := casDecode_single_error d hi
  by_cases hdata : i < 256
  · rw [if_pos hdata] at hdec
    rw [casCorrect_eq_of_data hdec, flipCas_data _ hdata]
    simp [casEncode]
  · rw [if_neg hdata] at hdec
    rw [casCorrect, hdec]
    exact flipCas_check_d _ hdata

theorem bitSyn_injective {i j : Nat} (hi : i < 289) (hj : j < 289) (hT : bitSynT i = bitSynT j) (hM : bitSynM i = bitSynM j)
    (hS : bitSynS i = bitSynS j) : i = j := by
  rw [← synBit_bitSyn i hi, hT, hM, hS, synBit_bitSyn j hj]

/-- The signatures of two bits have an even number of ones together, and differ. -/
theorem casDecode_double_error (d : BitVec 256) {i j : Nat} (hi : i < 289) (hj : j < 289) (hij : i ≠ j) :
    casDecode (flipCas (flipCas (casEncode d) i) j) = .bad := by
  obtain ⟨hTi, hMi, hSi⟩ := syn_single_error d hi
  obtain ⟨hT, hM, hS⟩ := syn_flipCas (flipCas (casEncode d) i) j hj
  rw [hTi] at hT
  rw [hMi] at hM
  rw [hSi] at hS
  apply casDecode_eq_bad_of_even
  · rw [hT, hM, hS, synOdd_xor, synOdd_bitSyn i hi, synOdd_bitSyn j hj, Bool.xor_self]
  · rw [hT, hM, hS, BitVec.xor_eq_zero_iff, BitVec.xor_eq_zero_iff, bne_eq_false_iff_eq]
    exact fun ⟨hTij, hMij, hSij⟩ => hij (bitSyn_injective hi hj hTij hMij hSij)

/-! ## What a check delivers and writes back -/

section
variable (s : State) (arr word : Nat) (scrub : Bool) {w : Casement}

theorem checkCas_clean (hw : casDecode w = .clean) : (checkCas s arr word scrub w).2 = (some w.d, none) := by
  rw [checkCas, hw]

theorem checkCas_data {k : Nat} (hw : casDecode w = .data k) : (checkCas s arr word scrub w).2 =
    (some (w.d ^^^ BitVec.twoPow 256 k), some (casEncode (w.d ^^^ BitVec.twoPow 256 k))) := by
  rw [checkCas, hw, casCorrect_eq_of_data hw]

theorem checkCas_check (hw : casDecode w = .check) : (checkCas s arr word scrub w).2 = (some w.d, some (casEncode w.d)) := by
  rw [checkCas, hw]

theorem checkCas_poisoned (hw : casDecode w = .poisoned) : (checkCas s arr word scrub w).2 = (none, none) := by
  rw [checkCas, hw]

theorem checkCas_bad (hw : casDecode w = .bad) : (checkCas s arr word scrub w).2 = (none, some casPoison) := by
  rw [checkCas, hw]

end

/-- Settles O56: each row of Table 11-2 by what a check does on it, and the errors by the signatures of the bits. -/
theorem casementChecker : Obligations.CasementChecker := by
  intro s arr word scrub w d r c i j hr hc hi hj one x back
  refine ⟨rfl, rfl, by rw [synS, casEncode], fun hT hM hS => ?clean, fun hT hM hS => ?data, fun hT hM hS => ?transom,
    fun hT hM hS => ?mullion, fun hT hM hS => ?sill, fun hw => ?poisoned, fun hw => ?bad, casDecode_casEncode d, casDecode_single_error d hi,
    casCorrect_single_error d hi, casDecode_double_error d hi hj⟩
  case clean => exact Prod.mk.inj (checkCas_clean s arr word scrub (casDecode_eq_of_row hT hM hS synDecode_clean (by decide)))
  case data => exact Prod.mk.inj (checkCas_data s arr word scrub (casDecode_eq_of_row hT hM hS (synDecode_data hr hc) (by simp)))
  case transom => exact Prod.mk.inj (checkCas_check s arr word scrub (casDecode_eq_of_row hT hM hS (synDecode_transom hr) (by decide)))
  case mullion => exact Prod.mk.inj (checkCas_check s arr word scrub (casDecode_eq_of_row hT hM hS (synDecode_mullion hc) (by decide)))
  case sill => exact Prod.mk.inj (checkCas_check s arr word scrub (casDecode_eq_of_row hT hM hS synDecode_sill (by decide)))
  case poisoned => exact Prod.mk.inj (checkCas_poisoned s arr word scrub (hw ▸ casDecode_casPoison))
  case bad => exact congrArg Prod.fst (checkCas_bad s arr word scrub hw)

end Sys2Proof.Machine
end

section
/-!
PROOF. The block as a whole: one step, the invariant it keeps, the frame of every command, and what reset leaves. The laws of the modules say of
each command that it answers a next state, keeps the invariant and touches the parts of a mask; here they are put together over the commands.
-/
namespace Sys2Proof.Machine

/-! ## A step -/

theorem step_cons {s : State} {c : Instr} {rest : List Instr} (h : s.pending = c :: rest) : step s = exec c { s with pending := rest } := by
  rw [step, h]

theorem step_nil {s : State} (h : s.pending = []) : step s = .next (idle s) := by
  rw [step, h]

/-- Settles O57: the two cases of a step. -/
theorem stepRunsCommand : Obligations.StepRunsCommand := fun _ _ _ => ⟨step_cons, step_nil⟩

/-! ## The invariant over every command -/

/-- Every command keeps the invariant and the queue. -/
theorem exec_goes {pq : List Instr} {s : State} (i : Instr) (hk : Keeps pq s) : Goes pq (exec i s) :=
  match i with
  | .powerOnResetRelease => execPowerOnResetRelease_goes hk
  | .mainSupplyDrop .. => execMainSupplyDrop_goes hk
  | .vauxLoss => execVauxLoss_goes hk
  | .registerWrite .. => execRegisterWrite_goes hk
  | .bar2MemoryWrite .. => execBar2MemoryWrite_goes hk
  | .bar2MemoryRead .. => execBar2MemoryRead_goes hk
  | .fabricWordArrival .. => execFabricWordArrival_goes hk
  | .outputLinkArbitration .. => execOutputLinkArbitration_goes hk
  | .pwrfailAssert => execPwrfailAssert_goes hk
  | .pwrfailDeassert => execPwrfailDeassert_goes hk
  | .pwrfailReleaseExpiry => execPwrfailReleaseExpiry_goes hk
  | .dumpDirectoryPass => execDumpDirectoryPass_goes hk
  | .mediaArbiterWindowEnd .. => execMediaArbiterWindowEnd_goes hk
  | .dieSchedulerEnqueue .. => execDieSchedulerEnqueue_goes hk
  | .hostLinkUp .. => execHostLinkUp_goes hk
  | .tlpReceive .. => execTlpReceive_goes hk
  | .configRequest .. => execConfigRequest_goes hk
  | .hostReadCompletion .. => execHostReadCompletion_goes hk
  | .completionTimeoutExpiry .. => execCompletionTimeoutExpiry_goes hk
  | .unexpectedCompletion .. => execUnexpectedCompletion_goes hk
  | .dmaDrainComplete .. => execDmaDrainComplete_goes hk
  | .doorbellWrite .. => execDoorbellWrite_goes hk
  | .msixVectorUnmask .. => execMsixVectorUnmask_goes hk
  | .busMasterEnableClear .. => execBusMasterEnableClear_goes hk
  | .perstAssert .. => execPerstAssert_goes hk
  | .perstDeassert .. => execPerstDeassert_goes hk
  | .hotReset .. => execHotReset_goes hk
  | .functionLevelReset .. => execFunctionLevelReset_goes hk
  | .controllerReset .. => execControllerReset_goes hk
  | .controllerEnable .. => execControllerEnable_goes hk
  | .shutdownNotification .. => execShutdownNotification_goes hk
  | .d3hotEntry .. => execD3hotEntry_goes hk
  | .d0Return .. => execD0Return_goes hk
  | .aspmIdleExpiry .. => execAspmIdleExpiry_goes hk
  | .submissionFetch .. => execSubmissionFetch_goes hk
  | .larderReservationGrant .. => execLarderReservationGrant_goes hk
  | .unitCommit .. => execUnitCommit_goes hk
  | .readerResolve .. => execReaderResolve_goes hk
  | .completionPost .. => execCompletionPost_goes hk
  | .unsupportedOpcode .. => execUnsupportedOpcode_goes hk
  | .deleteIoSubmissionQueue .. => execDeleteIoSubmissionQueue_goes hk
  | .createIoSubmissionQueue .. => execCreateIoSubmissionQueue_goes hk
  | .deleteIoCompletionQueue .. => execDeleteIoCompletionQueue_goes hk
  | .createIoCompletionQueue .. => execCreateIoCompletionQueue_goes hk
  | .getLogPage .. => execGetLogPage_goes hk
  | .getLogPageDeferredErrors .. => execGetLogPageDeferredErrors_goes hk
  | .identify .. => execIdentify_goes hk
  | .abort .. => execAbort_goes hk
  | .getFeatures .. => execGetFeatures_goes hk
  | .setFeaturesArbitration .. => execSetFeaturesArbitration_goes hk
  | .setFeaturesPowerManagement .. => execSetFeaturesPowerManagement_goes hk
  | .setFeaturesTempThreshold .. => execSetFeaturesTempThreshold_goes hk
  | .setFeaturesErrorRecovery .. => execSetFeaturesErrorRecovery_goes hk
  | .setFeaturesVolatileWriteCache .. => execSetFeaturesVolatileWriteCache_goes hk
  | .setFeaturesNumberOfQueues .. => execSetFeaturesNumberOfQueues_goes hk
  | .setFeaturesInterruptCoalescing .. => execSetFeaturesInterruptCoalescing_goes hk
  | .setFeaturesIntVectorConfig .. => execSetFeaturesIntVectorConfig_goes hk
  | .setFeaturesWriteAtomicity .. => execSetFeaturesWriteAtomicity_goes hk
  | .setFeaturesAsyncEventConfig .. => execSetFeaturesAsyncEventConfig_goes hk
  | .setFeaturesApst .. => execSetFeaturesApst_goes hk
  | .setFeaturesTimestamp .. => execSetFeaturesTimestamp_goes hk
  | .setFeaturesNopsConfig .. => execSetFeaturesNopsConfig_goes hk
  | .setFeaturesFdp .. => execSetFeaturesFdp_goes hk
  | .setFeaturesFdpEvents .. => execSetFeaturesFdpEvents_goes hk
  | .setFeaturesSwProgressMarker .. => execSetFeaturesSwProgressMarker_goes hk
  | .asynchronousEventRequest .. => execAsynchronousEventRequest_goes hk
  | .namespaceManagement .. => execNamespaceManagement_goes hk
  | .namespaceAttachment .. => execNamespaceAttachment_goes hk
  | .firmwareImageDownload .. => execFirmwareImageDownload_goes hk
  | .fwCommitReplace .. => execFwCommitReplace_goes hk
  | .fwCommitReplaceActivateReset .. => execFwCommitReplaceActivateReset_goes hk
  | .fwCommitActivateExisting .. => execFwCommitActivateExisting_goes hk
  | .fwCommitActivateNow .. => execFwCommitActivateNow_goes hk
  | .activationDrainComplete => execActivationDrainComplete_goes hk
  | .activationDrainTimeout => execActivationDrainTimeout_goes hk
  | .deviceSelfTestShort .. => execDeviceSelfTestShort_goes hk
  | .deviceSelfTestExtended .. => execDeviceSelfTestExtended_goes hk
  | .deviceSelfTestAbort .. => execDeviceSelfTestAbort_goes hk
  | .directiveSend .. => execDirectiveSend_goes hk
  | .directiveReceive .. => execDirectiveReceive_goes hk
  | .formatNvm .. => execFormatNvm_goes hk
  | .securitySend .. => execSecuritySend_goes hk
  | .securityReceive .. => execSecurityReceive_goes hk
  | .sanitizeCryptoErase .. => execSanitizeCryptoErase_goes hk
  | .sanitizeBlockErase .. => execSanitizeBlockErase_goes hk
  | .getLbaStatus .. => execGetLbaStatus_goes hk
  | .atticClear .. => execAtticClear_goes hk
  | .stairControlFence .. => execStairControlFence_goes hk
  | .stairControlReadmit .. => execStairControlReadmit_goes hk
  | .stairControlActivate .. => execStairControlActivate_goes hk
  | .flush .. => execFlush_goes hk
  | .write .. => execWrite_goes hk
  | .read .. => execRead_goes hk
  | .writeUncorrectable .. => execWriteUncorrectable_goes hk
  | .compare .. => execCompare_goes hk
  | .writeZeroes .. => execWriteZeroes_goes hk
  | .datasetManagement .. => execDatasetManagement_goes hk
  | .verify .. => execVerify_goes hk
  | .ioManagementReceive .. => execIoManagementReceive_goes hk
  | .ioManagementSend .. => execIoManagementSend_goes hk
  | .copy .. => execCopy_goes hk
  | .hallReportIdle => execHallReportIdle_goes hk
  | .apstIdleExpiry .. => execApstIdleExpiry_goes hk
  | .fetchEnableSet => execFetchEnableSet_goes hk
  | .drainRequest => execDrainRequest_goes hk
  | .backgroundHold .. => execBackgroundHold_goes hk
  | .overlayEmission .. => execOverlayEmission_goes hk
  | .journalBatchClose => execJournalBatchClose_goes hk
  | .journalBatchDurable .. => execJournalBatchDurable_goes hk
  | .checkpointSegmentCopy => execCheckpointSegmentCopy_goes hk
  | .consolidationCommit .. => execConsolidationCommit_goes hk
  | .relocationCommit .. => execRelocationCommit_goes hk
  | .cacheFillComplete .. => execCacheFillComplete_goes hk
  | .cacheWritebackComplete .. => execCacheWritebackComplete_goes hk
  | .panMaintClean .. => execPanMaintClean_goes hk
  | .panMaintInv .. => execPanMaintInv_goes hk
  | .panMaintCleanInv .. => execPanMaintCleanInv_goes hk
  | .panMaintCleanAll => execPanMaintCleanAll_goes hk
  | .panInvAll => execPanInvAll_goes hk
  | .pantryEnable => execPantryEnable_goes hk
  | .pantryDisable => execPantryDisable_goes hk
  | .mapSegmentRepair .. => execMapSegmentRepair_goes hk
  | .eraseMarkAppend .. => execEraseMarkAppend_goes hk
  | .recovery .. => execRecovery_goes hk
  | .rebuildComplete .. => execRebuildComplete_goes hk
  | .larderSlotUe .. => execLarderSlotUe_goes hk
  | .paritySlotUe .. => execParitySlotUe_goes hk
  | .supplyDroop .. => execSupplyDroop_goes hk
  | .droopClearExpiry .. => execDroopClearExpiry_goes hk
  | .inhibitLongExpiry .. => execInhibitLongExpiry_goes hk
  | .tempInhibitSuiteExpiry .. => execTempInhibitSuiteExpiry_goes hk
  | .holdupOkChange .. => execHoldupOkChange_goes hk
  | .wtForceSet .. => execWtForceSet_goes hk
  | .dumpArmSet .. => execDumpArmSet_goes hk
  | .larderEnable .. => execLarderEnable_goes hk
  | .larderDrain => execLarderDrain_goes hk
  | .ldrBankRetire .. => execLdrBankRetire_goes hk
  | .rdataFrame .. => execRdataFrame_goes hk
  | .statusFrame .. => execStatusFrame_goes hk
  | .ackFrame .. => execAckFrame_goes hk
  | .eventFrame .. => execEventFrame_goes hk
  | .hello .. => execHello_goes hk
  | .switch .. => execSwitch_goes hk
  | .eqReq .. => execEqReq_goes hk
  | .eqRsp .. => execEqRsp_goes hk
  | .retrainReq .. => execRetrainReq_goes (_cause := 0) hk
  | .recalDone .. => execRecalDone_goes hk
  | .tempRsp .. => execTempRsp_goes hk
  | .ackTimerExpiry .. => execAckTimerExpiry_goes hk
  | .replayTimerExpiry .. => execReplayTimerExpiry_goes hk
  | .transmitFrameBoundary .. => execTransmitFrameBoundary_goes hk
  | .portTrain .. => execPortTrain_goes hk
  | .detectTimeout .. => execDetectTimeout_goes hk
  | .trainingTimeout .. => execTrainingTimeout_goes hk
  | .recalibrationDue .. => execRecalibrationDue_goes hk
  | .recalTimeout .. => execRecalTimeout_goes hk
  | .retrainTimeout .. => execRetrainTimeout_goes hk
  | .receiveLockLoss .. => execReceiveLockLoss_goes hk
  | .portRetrain .. => execPortRetrain_goes hk
  | .portRecal .. => execPortRecal_goes hk
  | .portRetire .. => execPortRetire_goes hk
  | .portHold .. => execPortHold_goes hk
  | .noStatusTimeout .. => execNoStatusTimeout_goes hk
  | .tempPoll => execTempPoll_goes hk
  | .refclkOutputCtl .. => execRefclkOutputCtl_goes hk
  | .descriptorHandover .. => execDescriptorHandover_goes hk
  | .mov .. => execMov_goes hk
  | .add .. => execAdd_goes hk
  | .sub .. => execSub_goes hk
  | .and_ .. => execAnd_goes hk
  | .or_ .. => execOr_goes hk
  | .xor_ .. => execXor_goes hk
  | .shl .. => execShl_goes hk
  | .shr .. => execShr_goes hk
  | .sar .. => execSar_goes hk
  | .mul .. => execMul_goes hk
  | .mulhu .. => execMulhu_goes hk
  | .min .. => execMin_goes hk
  | .max .. => execMax_goes hk
  | .cnt .. => execCnt_goes hk
  | .lzc .. => execLzc_goes hk
  | .ldk .. => execLdk_goes hk
  | .putk .. => execPutk_goes hk
  | .addk .. => execAddk_goes hk
  | .andk .. => execAndk_goes hk
  | .ork .. => execOrk_goes hk
  | .xork .. => execXork_goes hk
  | .shlk .. => execShlk_goes hk
  | .shrk .. => execShrk_goes hk
  | .sark .. => execSark_goes hk
  | .teq .. => execTeq_goes hk
  | .tne .. => execTne_goes hk
  | .tlt .. => execTlt_goes hk
  | .tge .. => execTge_goes hk
  | .tltu .. => execTltu_goes hk
  | .tgeu .. => execTgeu_goes hk
  | .teqk .. => execTeqk_goes hk
  | .tnek .. => execTnek_goes hk
  | .tltk .. => execTltk_goes hk
  | .tgek .. => execTgek_goes hk
  | .tbit .. => execTbit_goes hk
  | .ld8 .. => execLd8_goes hk
  | .ld4 .. => execLd4_goes hk
  | .ld2 .. => execLd2_goes hk
  | .ld1 .. => execLd1_goes hk
  | .st8 .. => execSt8_goes hk
  | .st4 .. => execSt4_goes hk
  | .st2 .. => execSt2_goes hk
  | .st1 .. => execSt1_goes hk
  | .hld8 .. => execHld8_goes hk
  | .hst8 .. => execHst8_goes hk
  | .hld4 .. => execHld4_goes hk
  | .hst4 .. => execHst4_goes hk
  | .go .. => execGo_goes hk
  | .got .. => execGot_goes hk
  | .gof .. => execGof_goes hk
  | .call .. => execCall_goes hk
  | .gor .. => execGor_goes hk
  | .callr .. => execCallr_goes hk
  | .ret .. => execRet_goes hk
  | .wait .. => execWait_goes hk
  | .post .. => execPost_goes hk
  | .trap .. => execTrap_goes hk
  | .rtt .. => execRtt_goes hk
  | .time .. => execTime_goes hk
  | .hsync .. => execHsync_goes hk
  | .rds .. => execRds_goes hk
  | .missue .. => execMissue_goes hk
  | .mctl .. => execMctl_goes hk
  | .odone .. => execOdone_goes hk
  | .opLimitExpiry .. => execOpLimitExpiry_goes hk
  | .sequencerRun .. => execSequencerRun_goes hk
  | .sequencerHalt .. => execSequencerHalt_goes hk
  | .sequencerRestart .. => execSequencerRestart_goes hk
  | .seqLoadData .. => execSeqLoadData_goes hk
  | .seqMail .. => execSeqMail_goes hk
  | .watchdogKick .. => execWatchdogKick_goes hk
  | .watchdogFirstExpiry => execWatchdogFirstExpiry_goes hk
  | .watchdogReset => execWatchdogReset_goes hk
  | .hardDecodeDone .. => execHardDecodeDone_goes hk
  | .softAdmissionCredit => execSoftAdmissionCredit_goes hk
  | .softJobAdmit => execSoftJobAdmit_goes hk
  | .softDecodeDone .. => execSoftDecodeDone_goes hk
  | .stripeRecoveryDone .. => execStripeRecoveryDone_goes hk
  | .calibration .. => execCalibration_goes hk
  | .calibrationDone .. => execCalibrationDone_goes hk
  | .tlerExpiry .. => execTlerExpiry_goes hk
  | .pacedReadRelease .. => execPacedReadRelease_goes hk
  | .calRequest .. => execCalRequest_goes hk
  | .reclaimVictimChoice .. => execReclaimVictimChoice_goes hk
  | .suiteEraseDone .. => execSuiteEraseDone_goes hk
  | .eraseFail .. => execEraseFail_goes hk
  | .staticWearDue .. => execStaticWearDue_goes hk
  | .patrolRead => execPatrolRead_goes hk
  | .patrolLateExpiry => execPatrolLateExpiry_goes hk
  | .retentionAgeExpiry .. => execRetentionAgeExpiry_goes hk
  | .openMaxExpiry .. => execOpenMaxExpiry_goes hk
  | .foldRow .. => execFoldRow_goes hk
  | .consolidationStep => execConsolidationStep_goes hk
  | .ledgerWalkLost .. => execLedgerWalkLost_goes hk
  | .lifetimeCountUpdate => execLifetimeCountUpdate_goes hk
  | .suiteIdxWrite .. => execSuiteIdxWrite_goes hk
  | .dramBurstRead .. => execDramBurstRead_goes hk
  | .sramSweep .. => execSramSweep_goes hk
  | .scrubRead .. => execScrubRead_goes hk
  | .scrubLateExpiry => execScrubLateExpiry_goes hk
  | .dramClear => execDramClear_goes hk
  | .dramClearDone => execDramClearDone_goes hk
  | .subchannelRetire .. => execSubchannelRetire_goes hk
  | .ddrAlert .. => execDdrAlert_goes hk
  | .subchannelRetrainTimeout .. => execSubchannelRetrainTimeout_goes hk
  | .subchannelRetrainDone .. => execSubchannelRetrainDone_goes hk
  | .bsmRemapWrite .. => execBsmRemapWrite_goes hk
  | .remapCopyDone .. => execRemapCopyDone_goes hk
  | .contextStoreUe .. => execContextStoreUe_goes hk
  | .stgLockAcquire .. => execStgLockAcquire_goes hk
  | .stgLockRelease .. => execStgLockRelease_goes hk
  | .kmeLockTimeout => execKmeLockTimeout_goes hk
  | .unwrapLoad .. => execUnwrapLoad_goes hk
  | .generate .. => execGenerate_goes hk
  | .rewrap .. => execRewrap_goes hk
  | .zeroise .. => execZeroise_goes hk
  | .eraseStale .. => execEraseStale_goes hk
  | .seedReplace .. => execSeedReplace_goes hk
  | .verifyImage .. => execVerifyImage_goes hk
  | .sign .. => execSign_goes hk
  | .genNote .. => execGenNote_goes hk
  | .kmeOperationDone .. => execKmeOperationDone_goes hk
  | .entropyHealthFail => execEntropyHealthFail_goes hk
  | .tamperTrip .. => execTamperTrip_goes hk
  | .jtagUnlock .. => execJtagUnlock_goes hk
  | .getVersion .. => execGetVersion_goes hk
  | .getCapabilities .. => execGetCapabilities_goes hk
  | .negotiateAlgorithms .. => execNegotiateAlgorithms_goes hk
  | .getDigests .. => execGetDigests_goes hk
  | .getCertificate .. => execGetCertificate_goes hk
  | .challenge .. => execChallenge_goes hk
  | .getMeasurements .. => execGetMeasurements_goes (_nonce := 0) hk
  | .chunkGet .. => execChunkGet_goes hk
  | .closetProgram => execClosetProgram_goes hk
  | .closetErase => execClosetErase_goes hk
  | .closetMarginRead => execClosetMarginRead_goes hk
  | .closetOperationDone .. => execClosetOperationDone_goes hk
  | .cloWpSet .. => execCloWpSet_goes hk
  | .stdConfirm .. => execStdConfirm_goes hk
  | .confirmationTimeout => execConfirmationTimeout_goes hk
  | .bootSlotChoice => execBootSlotChoice_goes hk
  | .mgmtMessage .. => execMgmtMessage_goes hk
  | .linkWake .. => execLinkWake_goes hk
  | .wakeTimerExpiry => execWakeTimerExpiry_goes hk
  | .i3cStaticAddressStart => execI3cStaticAddressStart_goes hk
  | .pllEnable => execPllEnable_goes hk
  | .pllLock => execPllLock_goes hk
  | .clockSelect => execClockSelect_goes hk
  | .stdDomainEnWrite .. => execStdDomainEnWrite_goes hk
  | .stdPadRelease => execStdPadRelease_goes hk
  | .refclkLoss => execRefclkLoss_goes hk
  | .lsoCorrection .. => execLsoCorrection_goes hk
  | .sensorConversion .. => execSensorConversion_goes hk
  | .thermalStepRecompute => execThermalStepRecompute_goes hk
  | .powerGovernorTick .. => execPowerGovernorTick_goes hk
  | .portStepRecompute => execPortStepRecompute_goes hk
  | .shutdownLatchClear => execShutdownLatchClear_goes hk
  | .operatingTimeRecord => execOperatingTimeRecord_goes hk
  | .atcPostGo .. => execAtcPostGo_goes hk
  | .operatingSecondEnd => execOperatingSecondEnd_goes hk
  | .atticMirrorProgram => execAtticMirrorProgram_goes hk
  | .fullModePageProgram => execFullModePageProgram_goes hk
  | .atcWinCursorWrite .. => execAtcWinCursorWrite_goes hk
  | .windowLatchDone .. => execWindowLatchDone_goes hk
  | .atticCopyMove .. => execAtticCopyMove_goes hk
  | .inServiceTestItem .. => execInServiceTestItem_goes hk
  | .dstSegment .. => execDstSegment_goes hk
  | .dstLimitExpiry => execDstLimitExpiry_goes hk
  | .sjoin .. => execSjoin_goes hk
  | .sjoinRsp .. => execSjoinRsp_goes hk
  | .sreqRead .. => execSreqRead_goes hk
  | .sreqWrite .. => execSreqWrite_goes hk
  | .sreqDeallocate .. => execSreqDeallocate_goes hk
  | .sreqWriteZeroes .. => execSreqWriteZeroes_goes hk
  | .sreqWriteUncorrectable .. => execSreqWriteUncorrectable_goes hk
  | .sreqFlush .. => execSreqFlush_goes hk
  | .sreqNamespaceOperation .. => execSreqNamespaceOperation_goes hk
  | .sreqVerify .. => execSreqVerify_goes hk
  | .sdata .. => execSdata_goes hk
  | .sdoneCommitted .. => execSdoneCommitted_goes hk
  | .sdoneSettled .. => execSdoneSettled_goes hk
  | .stimeSend => execStimeSend_goes hk
  | .stime .. => execStime_goes hk
  | .sevent .. => execSevent_goes hk
  | .sact .. => execSact_goes hk
  | .stimeLossExpiry .. => execStimeLossExpiry_goes hk
  | .sjoinRetryExpiry .. => execSjoinRetryExpiry_goes hk
  | .stairResendDeadline .. => execStairResendDeadline_goes hk
  | .doneTableExpiry => execDoneTableExpiry_goes hk
  | .fenceUnsettledExpiry .. => execFenceUnsettledExpiry_goes hk
  | .activationRollbackExpiry => execActivationRollbackExpiry_goes hk
  | .entdaa .. => execEntdaa_goes hk
  | .bypass => execBypass_goes hk
  | .idcode => execIdcode_goes hk
  | .samplePreload .. => execSamplePreload_goes hk
  | .extest => execExtest_goes hk
  | .extestPulse => execExtestPulse_goes hk
  | .extestTrain => execExtestTrain_goes hk
  | .peerDetect .. => execPeerDetect_goes hk
  | .lockRegained .. => execLockRegained_goes hk
  | .recalReq .. => execRecalReq_goes hk
  | .waitTimeout .. => execWaitTimeout_goes hk
  | .aggregationTimeExpiry .. => execAggregationTimeExpiry_goes hk
  | .invalidateAllDone => execInvalidateAllDone_goes hk
  | .timedOutTagReuse .. => execTimedOutTagReuse_goes hk
  | .vauxApply => execVauxApply_goes hk
  | .tempHistMinute => execTempHistMinute_goes hk

/-- A step keeps the invariant: the queue is no part of it. -/
theorem step_keeps_inv {s : State} (hs : s.inv = true) : ∃ p, Goes p (step s) := by
  cases hp : s.pending with
  | nil =>
    rw [step_nil hp]
    exact ⟨[], goes_next (idle_keeps ⟨hs, hp⟩)⟩
  | cons c rest =>
    rw [step_cons hp]
    exact ⟨rest, exec_goes c ⟨hs, rfl⟩⟩

/-- Settles O59: every command, and the tick of an empty queue, keeps the invariant. -/
theorem invariantKept : Obligations.InvariantKept := by
  intro s t hs ht
  obtain ⟨p, u, hu, hkeep, _⟩ := step_keeps_inv hs
  cases ht.symm.trans hu
  exact hkeep

/-! ## The frame of every command -/

theorem commandFrame {m : Nat} {c : Instr} {s : State} (h : Answers m s (exec c s)) (hl : listed m (touches c) = true) :
    ∃ t, exec c s = .next t ∧ Only (touches c) s t := by
  obtain ⟨t, ht, hm⟩ := h
  exact ⟨t, ht, only_of_mask hm hl⟩

/-- The mask of each command lists no part outside `touches`. -/
theorem exec_only (c : Instr) (s : State) : ∃ t, exec c s = .next t ∧ Only (touches c) s t :=
  match c with
  | .powerOnResetRelease => commandFrame (execPowerOnResetRelease_answers (sub_refl _) (mask_refl _ s)) rfl
  | .mainSupplyDrop .. => commandFrame (execMainSupplyDrop_answers (sub_refl _) (mask_refl _ s)) rfl
  | .vauxLoss => commandFrame (execVauxLoss_answers (sub_refl _) (mask_refl _ s)) rfl
  | .registerWrite .. => commandFrame (execRegisterWrite_answers (sub_refl _) (mask_refl _ s)) rfl
  | .bar2MemoryWrite .. => commandFrame (execBar2MemoryWrite_answers (sub_refl _) (mask_refl _ s)) rfl
  | .bar2MemoryRead .. => commandFrame (execBar2MemoryRead_answers (sub_refl _) (mask_refl _ s)) rfl
  | .fabricWordArrival .. => commandFrame (execFabricWordArrival_answers (sub_refl _) (mask_refl _ s)) rfl
  | .outputLinkArbitration .. => commandFrame (execOutputLinkArbitration_answers (sub_refl _) (mask_refl _ s)) rfl
  | .pwrfailAssert => commandFrame (execPwrfailAssert_answers (sub_refl _) (mask_refl _ s)) rfl
  | .pwrfailDeassert => commandFrame (execPwrfailDeassert_answers (sub_refl _) (mask_refl _ s)) rfl
  | .pwrfailReleaseExpiry => commandFrame (execPwrfailReleaseExpiry_answers (sub_refl _) (mask_refl _ s)) rfl
  | .dumpDirectoryPass => commandFrame (execDumpDirectoryPass_answers (sub_refl _) (mask_refl _ s)) rfl
  | .mediaArbiterWindowEnd .. => commandFrame (execMediaArbiterWindowEnd_answers (sub_refl _) (mask_refl _ s)) rfl
  | .dieSchedulerEnqueue .. => commandFrame (execDieSchedulerEnqueue_answers (sub_refl _) (mask_refl _ s)) rfl
  | .hostLinkUp .. => commandFrame (execHostLinkUp_answers (sub_refl _) (mask_refl _ s)) rfl
  | .tlpReceive .. => commandFrame (execTlpReceive_answers (sub_refl _) (mask_refl _ s)) rfl
  | .configRequest .. => commandFrame (execConfigRequest_answers (sub_refl _) (mask_refl _ s)) rfl
  | .hostReadCompletion .. => commandFrame (execHostReadCompletion_answers (sub_refl _) (mask_refl _ s)) rfl
  | .completionTimeoutExpiry .. => commandFrame (execCompletionTimeoutExpiry_answers (sub_refl _) (mask_refl _ s)) rfl
  | .unexpectedCompletion .. => commandFrame (execUnexpectedCompletion_answers (sub_refl _) (mask_refl _ s)) rfl
  | .dmaDrainComplete .. => commandFrame (execDmaDrainComplete_answers (sub_refl _) (mask_refl _ s)) rfl
  | .doorbellWrite .. => commandFrame (execDoorbellWrite_answers (sub_refl _) (mask_refl _ s)) rfl
  | .msixVectorUnmask .. => commandFrame (execMsixVectorUnmask_answers (sub_refl _) (mask_refl _ s)) rfl
  | .busMasterEnableClear .. => commandFrame (execBusMasterEnableClear_answers (sub_refl _) (mask_refl _ s)) rfl
  | .perstAssert .. => commandFrame (execPerstAssert_answers (sub_refl _) (mask_refl _ s)) rfl
  | .perstDeassert .. => commandFrame (execPerstDeassert_answers (sub_refl _) (mask_refl _ s)) rfl
  | .hotReset .. => commandFrame (execHotReset_answers (sub_refl _) (mask_refl _ s)) rfl
  | .functionLevelReset .. => commandFrame (execFunctionLevelReset_answers (sub_refl _) (mask_refl _ s)) rfl
  | .controllerReset .. => commandFrame (execControllerReset_answers (sub_refl _) (mask_refl _ s)) rfl
  | .controllerEnable .. => commandFrame (execControllerEnable_answers (sub_refl _) (mask_refl _ s)) rfl
  | .shutdownNotification .. => commandFrame (execShutdownNotification_answers (sub_refl _) (mask_refl _ s)) rfl
  | .d3hotEntry .. => commandFrame (execD3hotEntry_answers (sub_refl _) (mask_refl _ s)) rfl
  | .d0Return .. => commandFrame (execD0Return_answers (sub_refl _) (mask_refl _ s)) rfl
  | .aspmIdleExpiry .. => commandFrame (execAspmIdleExpiry_answers (sub_refl _) (mask_refl _ s)) rfl
  | .submissionFetch .. => commandFrame (execSubmissionFetch_answers (sub_refl _) (mask_refl _ s)) rfl
  | .larderReservationGrant .. => commandFrame (execLarderReservationGrant_answers (sub_refl _) (mask_refl _ s)) rfl
  | .unitCommit .. => commandFrame (execUnitCommit_answers (sub_refl _) (mask_refl _ s)) rfl
  | .readerResolve .. => commandFrame (execReaderResolve_answers (sub_refl _) (mask_refl _ s)) rfl
  | .completionPost .. => commandFrame (execCompletionPost_answers (sub_refl _) (mask_refl _ s)) rfl
  | .unsupportedOpcode .. => commandFrame (execUnsupportedOpcode_answers (sub_refl _) (mask_refl _ s)) rfl
  | .deleteIoSubmissionQueue .. => commandFrame (execDeleteIoSubmissionQueue_answers (sub_refl _) (mask_refl _ s)) rfl
  | .createIoSubmissionQueue .. => commandFrame (execCreateIoSubmissionQueue_answers (sub_refl _) (mask_refl _ s)) rfl
  | .deleteIoCompletionQueue .. => commandFrame (execDeleteIoCompletionQueue_answers (sub_refl _) (mask_refl _ s)) rfl
  | .createIoCompletionQueue .. => commandFrame (execCreateIoCompletionQueue_answers (sub_refl _) (mask_refl _ s)) rfl
  | .getLogPage .. => commandFrame (execGetLogPage_answers (sub_refl _) (mask_refl _ s)) rfl
  | .getLogPageDeferredErrors .. => commandFrame (execGetLogPageDeferredErrors_answers (sub_refl _) (mask_refl _ s)) rfl
  | .identify .. => commandFrame (execIdentify_answers (sub_refl _) (mask_refl _ s)) rfl
  | .abort .. => commandFrame (execAbort_answers (sub_refl _) (mask_refl _ s)) rfl
  | .getFeatures .. => commandFrame (execGetFeatures_answers (sub_refl _) (mask_refl _ s)) rfl
  | .setFeaturesArbitration .. => commandFrame (execSetFeaturesArbitration_answers (sub_refl _) (mask_refl _ s)) rfl
  | .setFeaturesPowerManagement .. => commandFrame (execSetFeaturesPowerManagement_answers (sub_refl _) (mask_refl _ s)) rfl
  | .setFeaturesTempThreshold .. => commandFrame (execSetFeaturesTempThreshold_answers (sub_refl _) (mask_refl _ s)) rfl
  | .setFeaturesErrorRecovery .. => commandFrame (execSetFeaturesErrorRecovery_answers (sub_refl _) (mask_refl _ s)) rfl
  | .setFeaturesVolatileWriteCache .. => commandFrame (execSetFeaturesVolatileWriteCache_answers (sub_refl _) (mask_refl _ s)) rfl
  | .setFeaturesNumberOfQueues .. => commandFrame (execSetFeaturesNumberOfQueues_answers (sub_refl _) (mask_refl _ s)) rfl
  | .setFeaturesInterruptCoalescing .. => commandFrame (execSetFeaturesInterruptCoalescing_answers (sub_refl _) (mask_refl _ s)) rfl
  | .setFeaturesIntVectorConfig .. => commandFrame (execSetFeaturesIntVectorConfig_answers (sub_refl _) (mask_refl _ s)) rfl
  | .setFeaturesWriteAtomicity .. => commandFrame (execSetFeaturesWriteAtomicity_answers (sub_refl _) (mask_refl _ s)) rfl
  | .setFeaturesAsyncEventConfig .. => commandFrame (execSetFeaturesAsyncEventConfig_answers (sub_refl _) (mask_refl _ s)) rfl
  | .setFeaturesApst .. => commandFrame (execSetFeaturesApst_answers (sub_refl _) (mask_refl _ s)) rfl
  | .setFeaturesTimestamp .. => commandFrame (execSetFeaturesTimestamp_answers (sub_refl _) (mask_refl _ s)) rfl
  | .setFeaturesNopsConfig .. => commandFrame (execSetFeaturesNopsConfig_answers (sub_refl _) (mask_refl _ s)) rfl
  | .setFeaturesFdp .. => commandFrame (execSetFeaturesFdp_answers (sub_refl _) (mask_refl _ s)) rfl
  | .setFeaturesFdpEvents .. => commandFrame (execSetFeaturesFdpEvents_answers (sub_refl _) (mask_refl _ s)) rfl
  | .setFeaturesSwProgressMarker .. => commandFrame (execSetFeaturesSwProgressMarker_answers (sub_refl _) (mask_refl _ s)) rfl
  | .asynchronousEventRequest .. => commandFrame (execAsynchronousEventRequest_answers (sub_refl _) (mask_refl _ s)) rfl
  | .namespaceManagement .. => commandFrame (execNamespaceManagement_answers (sub_refl _) (mask_refl _ s)) rfl
  | .namespaceAttachment .. => commandFrame (execNamespaceAttachment_answers (sub_refl _) (mask_refl _ s)) rfl
  | .firmwareImageDownload .. => commandFrame (execFirmwareImageDownload_answers (sub_refl _) (mask_refl _ s)) rfl
  | .fwCommitReplace .. => commandFrame (execFwCommitReplace_answers (sub_refl _) (mask_refl _ s)) rfl
  | .fwCommitReplaceActivateReset .. => commandFrame (execFwCommitReplaceActivateReset_answers (sub_refl _) (mask_refl _ s)) rfl
  | .fwCommitActivateExisting .. => commandFrame (execFwCommitActivateExisting_answers (sub_refl _) (mask_refl _ s)) rfl
  | .fwCommitActivateNow .. => commandFrame (execFwCommitActivateNow_answers (sub_refl _) (mask_refl _ s)) rfl
  | .activationDrainComplete => commandFrame (execActivationDrainComplete_answers (sub_refl _) (mask_refl _ s)) rfl
  | .activationDrainTimeout => commandFrame (execActivationDrainTimeout_answers (sub_refl _) (mask_refl _ s)) rfl
  | .deviceSelfTestShort .. => commandFrame (execDeviceSelfTestShort_answers (sub_refl _) (mask_refl _ s)) rfl
  | .deviceSelfTestExtended .. => commandFrame (execDeviceSelfTestExtended_answers (sub_refl _) (mask_refl _ s)) rfl
  | .deviceSelfTestAbort .. => commandFrame (execDeviceSelfTestAbort_answers (sub_refl _) (mask_refl _ s)) rfl
  | .directiveSend .. => commandFrame (execDirectiveSend_answers (sub_refl _) (mask_refl _ s)) rfl
  | .directiveReceive .. => commandFrame (execDirectiveReceive_answers (sub_refl _) (mask_refl _ s)) rfl
  | .formatNvm .. => commandFrame (execFormatNvm_answers (sub_refl _) (mask_refl _ s)) rfl
  | .securitySend .. => commandFrame (execSecuritySend_answers (sub_refl _) (mask_refl _ s)) rfl
  | .securityReceive .. => commandFrame (execSecurityReceive_answers (sub_refl _) (mask_refl _ s)) rfl
  | .sanitizeCryptoErase .. => commandFrame (execSanitizeCryptoErase_answers (sub_refl _) (mask_refl _ s)) rfl
  | .sanitizeBlockErase .. => commandFrame (execSanitizeBlockErase_answers (sub_refl _) (mask_refl _ s)) rfl
  | .getLbaStatus .. => commandFrame (execGetLbaStatus_answers (sub_refl _) (mask_refl _ s)) rfl
  | .atticClear .. => commandFrame (execAtticClear_answers (sub_refl _) (mask_refl _ s)) rfl
  | .stairControlFence .. => commandFrame (execStairControlFence_answers (sub_refl _) (mask_refl _ s)) rfl
  | .stairControlReadmit .. => commandFrame (execStairControlReadmit_answers (sub_refl _) (mask_refl _ s)) rfl
  | .stairControlActivate .. => commandFrame (execStairControlActivate_answers (sub_refl _) (mask_refl _ s)) rfl
  | .flush .. => commandFrame (execFlush_answers (sub_refl _) (mask_refl _ s)) rfl
  | .write .. => commandFrame (execWrite_answers (sub_refl _) (mask_refl _ s)) rfl
  | .read .. => commandFrame (execRead_answers (sub_refl _) (mask_refl _ s)) rfl
  | .writeUncorrectable .. => commandFrame (execWriteUncorrectable_answers (sub_refl _) (mask_refl _ s)) rfl
  | .compare .. => commandFrame (execCompare_answers (sub_refl _) (mask_refl _ s)) rfl
  | .writeZeroes .. => commandFrame (execWriteZeroes_answers (sub_refl _) (mask_refl _ s)) rfl
  | .datasetManagement .. => commandFrame (execDatasetManagement_answers (sub_refl _) (mask_refl _ s)) rfl
  | .verify .. => commandFrame (execVerify_answers (sub_refl _) (mask_refl _ s)) rfl
  | .ioManagementReceive .. => commandFrame (execIoManagementReceive_answers (sub_refl _) (mask_refl _ s)) rfl
  | .ioManagementSend .. => commandFrame (execIoManagementSend_answers (sub_refl _) (mask_refl _ s)) rfl
  | .copy .. => commandFrame (execCopy_answers (sub_refl _) (mask_refl _ s)) rfl
  | .hallReportIdle => commandFrame (execHallReportIdle_answers (sub_refl _) (mask_refl _ s)) rfl
  | .apstIdleExpiry .. => commandFrame (execApstIdleExpiry_answers (sub_refl _) (mask_refl _ s)) rfl
  | .fetchEnableSet => commandFrame (execFetchEnableSet_answers (sub_refl _) (mask_refl _ s)) rfl
  | .drainRequest => commandFrame (execDrainRequest_answers (sub_refl _) (mask_refl _ s)) rfl
  | .backgroundHold .. => commandFrame (execBackgroundHold_answers (sub_refl _) (mask_refl _ s)) rfl
  | .overlayEmission .. => commandFrame (execOverlayEmission_answers (sub_refl _) (mask_refl _ s)) rfl
  | .journalBatchClose => commandFrame (execJournalBatchClose_answers (sub_refl _) (mask_refl _ s)) rfl
  | .journalBatchDurable .. => commandFrame (execJournalBatchDurable_answers (sub_refl _) (mask_refl _ s)) rfl
  | .checkpointSegmentCopy => commandFrame (execCheckpointSegmentCopy_answers (sub_refl _) (mask_refl _ s)) rfl
  | .consolidationCommit .. => commandFrame (execConsolidationCommit_answers (sub_refl _) (mask_refl _ s)) rfl
  | .relocationCommit .. => commandFrame (execRelocationCommit_answers (sub_refl _) (mask_refl _ s)) rfl
  | .cacheFillComplete .. => commandFrame (execCacheFillComplete_answers (sub_refl _) (mask_refl _ s)) rfl
  | .cacheWritebackComplete .. => commandFrame (execCacheWritebackComplete_answers (sub_refl _) (mask_refl _ s)) rfl
  | .panMaintClean .. => commandFrame (execPanMaintClean_answers (sub_refl _) (mask_refl _ s)) rfl
  | .panMaintInv .. => commandFrame (execPanMaintInv_answers (sub_refl _) (mask_refl _ s)) rfl
  | .panMaintCleanInv .. => commandFrame (execPanMaintCleanInv_answers (sub_refl _) (mask_refl _ s)) rfl
  | .panMaintCleanAll => commandFrame (execPanMaintCleanAll_answers (sub_refl _) (mask_refl _ s)) rfl
  | .panInvAll => commandFrame (execPanInvAll_answers (sub_refl _) (mask_refl _ s)) rfl
  | .pantryEnable => commandFrame (execPantryEnable_answers (sub_refl _) (mask_refl _ s)) rfl
  | .pantryDisable => commandFrame (execPantryDisable_answers (sub_refl _) (mask_refl _ s)) rfl
  | .mapSegmentRepair .. => commandFrame (execMapSegmentRepair_answers (sub_refl _) (mask_refl _ s)) rfl
  | .eraseMarkAppend .. => commandFrame (execEraseMarkAppend_answers (sub_refl _) (mask_refl _ s)) rfl
  | .recovery .. => commandFrame (execRecovery_answers (sub_refl _) (mask_refl _ s)) rfl
  | .rebuildComplete .. => commandFrame (execRebuildComplete_answers (sub_refl _) (mask_refl _ s)) rfl
  | .larderSlotUe .. => commandFrame (execLarderSlotUe_answers (sub_refl _) (mask_refl _ s)) rfl
  | .paritySlotUe .. => commandFrame (execParitySlotUe_answers (sub_refl _) (mask_refl _ s)) rfl
  | .supplyDroop .. => commandFrame (execSupplyDroop_answers (sub_refl _) (mask_refl _ s)) rfl
  | .droopClearExpiry .. => commandFrame (execDroopClearExpiry_answers (sub_refl _) (mask_refl _ s)) rfl
  | .inhibitLongExpiry .. => commandFrame (execInhibitLongExpiry_answers (sub_refl _) (mask_refl _ s)) rfl
  | .tempInhibitSuiteExpiry .. => commandFrame (execTempInhibitSuiteExpiry_answers (sub_refl _) (mask_refl _ s)) rfl
  | .holdupOkChange .. => commandFrame (execHoldupOkChange_answers (sub_refl _) (mask_refl _ s)) rfl
  | .wtForceSet .. => commandFrame (execWtForceSet_answers (sub_refl _) (mask_refl _ s)) rfl
  | .dumpArmSet .. => commandFrame (execDumpArmSet_answers (sub_refl _) (mask_refl _ s)) rfl
  | .larderEnable .. => commandFrame (execLarderEnable_answers (sub_refl _) (mask_refl _ s)) rfl
  | .larderDrain => commandFrame (execLarderDrain_answers (sub_refl _) (mask_refl _ s)) rfl
  | .ldrBankRetire .. => commandFrame (execLdrBankRetire_answers (sub_refl _) (mask_refl _ s)) rfl
  | .rdataFrame .. => commandFrame (execRdataFrame_answers (sub_refl _) (mask_refl _ s)) rfl
  | .statusFrame .. => commandFrame (execStatusFrame_answers (sub_refl _) (mask_refl _ s)) rfl
  | .ackFrame .. => commandFrame (execAckFrame_answers (sub_refl _) (mask_refl _ s)) rfl
  | .eventFrame .. => commandFrame (execEventFrame_answers (sub_refl _) (mask_refl _ s)) rfl
  | .hello .. => commandFrame (execHello_answers (sub_refl _) (mask_refl _ s)) rfl
  | .switch .. => commandFrame (execSwitch_answers (sub_refl _) (mask_refl _ s)) rfl
  | .eqReq .. => commandFrame (execEqReq_answers (sub_refl _) (mask_refl _ s)) rfl
  | .eqRsp .. => commandFrame (execEqRsp_answers (sub_refl _) (mask_refl _ s)) rfl
  | .retrainReq .. => commandFrame (execRetrainReq_answers (_cause := 0) (sub_refl _) (mask_refl _ s)) rfl
  | .recalDone .. => commandFrame (execRecalDone_answers (sub_refl _) (mask_refl _ s)) rfl
  | .tempRsp .. => commandFrame (execTempRsp_answers (sub_refl _) (mask_refl _ s)) rfl
  | .ackTimerExpiry .. => commandFrame (execAckTimerExpiry_answers (sub_refl _) (mask_refl _ s)) rfl
  | .replayTimerExpiry .. => commandFrame (execReplayTimerExpiry_answers (sub_refl _) (mask_refl _ s)) rfl
  | .transmitFrameBoundary .. => commandFrame (execTransmitFrameBoundary_answers (sub_refl _) (mask_refl _ s)) rfl
  | .portTrain .. => commandFrame (execPortTrain_answers (sub_refl _) (mask_refl _ s)) rfl
  | .detectTimeout .. => commandFrame (execDetectTimeout_answers (sub_refl _) (mask_refl _ s)) rfl
  | .trainingTimeout .. => commandFrame (execTrainingTimeout_answers (sub_refl _) (mask_refl _ s)) rfl
  | .recalibrationDue .. => commandFrame (execRecalibrationDue_answers (sub_refl _) (mask_refl _ s)) rfl
  | .recalTimeout .. => commandFrame (execRecalTimeout_answers (sub_refl _) (mask_refl _ s)) rfl
  | .retrainTimeout .. => commandFrame (execRetrainTimeout_answers (sub_refl _) (mask_refl _ s)) rfl
  | .receiveLockLoss .. => commandFrame (execReceiveLockLoss_answers (sub_refl _) (mask_refl _ s)) rfl
  | .portRetrain .. => commandFrame (execPortRetrain_answers (sub_refl _) (mask_refl _ s)) rfl
  | .portRecal .. => commandFrame (execPortRecal_answers (sub_refl _) (mask_refl _ s)) rfl
  | .portRetire .. => commandFrame (execPortRetire_answers (sub_refl _) (mask_refl _ s)) rfl
  | .portHold .. => commandFrame (execPortHold_answers (sub_refl _) (mask_refl _ s)) rfl
  | .noStatusTimeout .. => commandFrame (execNoStatusTimeout_answers (sub_refl _) (mask_refl _ s)) rfl
  | .tempPoll => commandFrame (execTempPoll_answers (sub_refl _) (mask_refl _ s)) rfl
  | .refclkOutputCtl .. => commandFrame (execRefclkOutputCtl_answers (sub_refl _) (mask_refl _ s)) rfl
  | .descriptorHandover .. => commandFrame (execDescriptorHandover_answers (sub_refl _) (mask_refl _ s)) rfl
  | .mov .. => commandFrame (execMov_answers (sub_refl _) (mask_refl _ s)) rfl
  | .add .. => commandFrame (execAdd_answers (sub_refl _) (mask_refl _ s)) rfl
  | .sub .. => commandFrame (execSub_answers (sub_refl _) (mask_refl _ s)) rfl
  | .and_ .. => commandFrame (execAnd_answers (sub_refl _) (mask_refl _ s)) rfl
  | .or_ .. => commandFrame (execOr_answers (sub_refl _) (mask_refl _ s)) rfl
  | .xor_ .. => commandFrame (execXor_answers (sub_refl _) (mask_refl _ s)) rfl
  | .shl .. => commandFrame (execShl_answers (sub_refl _) (mask_refl _ s)) rfl
  | .shr .. => commandFrame (execShr_answers (sub_refl _) (mask_refl _ s)) rfl
  | .sar .. => commandFrame (execSar_answers (sub_refl _) (mask_refl _ s)) rfl
  | .mul .. => commandFrame (execMul_answers (sub_refl _) (mask_refl _ s)) rfl
  | .mulhu .. => commandFrame (execMulhu_answers (sub_refl _) (mask_refl _ s)) rfl
  | .min .. => commandFrame (execMin_answers (sub_refl _) (mask_refl _ s)) rfl
  | .max .. => commandFrame (execMax_answers (sub_refl _) (mask_refl _ s)) rfl
  | .cnt .. => commandFrame (execCnt_answers (sub_refl _) (mask_refl _ s)) rfl
  | .lzc .. => commandFrame (execLzc_answers (sub_refl _) (mask_refl _ s)) rfl
  | .ldk .. => commandFrame (execLdk_answers (sub_refl _) (mask_refl _ s)) rfl
  | .putk .. => commandFrame (execPutk_answers (sub_refl _) (mask_refl _ s)) rfl
  | .addk .. => commandFrame (execAddk_answers (sub_refl _) (mask_refl _ s)) rfl
  | .andk .. => commandFrame (execAndk_answers (sub_refl _) (mask_refl _ s)) rfl
  | .ork .. => commandFrame (execOrk_answers (sub_refl _) (mask_refl _ s)) rfl
  | .xork .. => commandFrame (execXork_answers (sub_refl _) (mask_refl _ s)) rfl
  | .shlk .. => commandFrame (execShlk_answers (sub_refl _) (mask_refl _ s)) rfl
  | .shrk .. => commandFrame (execShrk_answers (sub_refl _) (mask_refl _ s)) rfl
  | .sark .. => commandFrame (execSark_answers (sub_refl _) (mask_refl _ s)) rfl
  | .teq .. => commandFrame (execTeq_answers (sub_refl _) (mask_refl _ s)) rfl
  | .tne .. => commandFrame (execTne_answers (sub_refl _) (mask_refl _ s)) rfl
  | .tlt .. => commandFrame (execTlt_answers (sub_refl _) (mask_refl _ s)) rfl
  | .tge .. => commandFrame (execTge_answers (sub_refl _) (mask_refl _ s)) rfl
  | .tltu .. => commandFrame (execTltu_answers (sub_refl _) (mask_refl _ s)) rfl
  | .tgeu .. => commandFrame (execTgeu_answers (sub_refl _) (mask_refl _ s)) rfl
  | .teqk .. => commandFrame (execTeqk_answers (sub_refl _) (mask_refl _ s)) rfl
  | .tnek .. => commandFrame (execTnek_answers (sub_refl _) (mask_refl _ s)) rfl
  | .tltk .. => commandFrame (execTltk_answers (sub_refl _) (mask_refl _ s)) rfl
  | .tgek .. => commandFrame (execTgek_answers (sub_refl _) (mask_refl _ s)) rfl
  | .tbit .. => commandFrame (execTbit_answers (sub_refl _) (mask_refl _ s)) rfl
  | .ld8 .. => commandFrame (execLd8_answers (sub_refl _) (mask_refl _ s)) rfl
  | .ld4 .. => commandFrame (execLd4_answers (sub_refl _) (mask_refl _ s)) rfl
  | .ld2 .. => commandFrame (execLd2_answers (sub_refl _) (mask_refl _ s)) rfl
  | .ld1 .. => commandFrame (execLd1_answers (sub_refl _) (mask_refl _ s)) rfl
  | .st8 .. => commandFrame (execSt8_answers (sub_refl _) (mask_refl _ s)) rfl
  | .st4 .. => commandFrame (execSt4_answers (sub_refl _) (mask_refl _ s)) rfl
  | .st2 .. => commandFrame (execSt2_answers (sub_refl _) (mask_refl _ s)) rfl
  | .st1 .. => commandFrame (execSt1_answers (sub_refl _) (mask_refl _ s)) rfl
  | .hld8 .. => commandFrame (execHld8_answers (sub_refl _) (mask_refl _ s)) rfl
  | .hst8 .. => commandFrame (execHst8_answers (sub_refl _) (mask_refl _ s)) rfl
  | .hld4 .. => commandFrame (execHld4_answers (sub_refl _) (mask_refl _ s)) rfl
  | .hst4 .. => commandFrame (execHst4_answers (sub_refl _) (mask_refl _ s)) rfl
  | .go .. => commandFrame (execGo_answers (sub_refl _) (mask_refl _ s)) rfl
  | .got .. => commandFrame (execGot_answers (sub_refl _) (mask_refl _ s)) rfl
  | .gof .. => commandFrame (execGof_answers (sub_refl _) (mask_refl _ s)) rfl
  | .call .. => commandFrame (execCall_answers (sub_refl _) (mask_refl _ s)) rfl
  | .gor .. => commandFrame (execGor_answers (sub_refl _) (mask_refl _ s)) rfl
  | .callr .. => commandFrame (execCallr_answers (sub_refl _) (mask_refl _ s)) rfl
  | .ret .. => commandFrame (execRet_answers (sub_refl _) (mask_refl _ s)) rfl
  | .wait .. => commandFrame (execWait_answers (sub_refl _) (mask_refl _ s)) rfl
  | .post .. => commandFrame (execPost_answers (sub_refl _) (mask_refl _ s)) rfl
  | .trap .. => commandFrame (execTrap_answers (sub_refl _) (mask_refl _ s)) rfl
  | .rtt .. => commandFrame (execRtt_answers (sub_refl _) (mask_refl _ s)) rfl
  | .time .. => commandFrame (execTime_answers (sub_refl _) (mask_refl _ s)) rfl
  | .hsync .. => commandFrame (execHsync_answers (sub_refl _) (mask_refl _ s)) rfl
  | .rds .. => commandFrame (execRds_answers (sub_refl _) (mask_refl _ s)) rfl
  | .missue .. => commandFrame (execMissue_answers (sub_refl _) (mask_refl _ s)) rfl
  | .mctl .. => commandFrame (execMctl_answers (sub_refl _) (mask_refl _ s)) rfl
  | .odone .. => commandFrame (execOdone_answers (sub_refl _) (mask_refl _ s)) rfl
  | .opLimitExpiry .. => commandFrame (execOpLimitExpiry_answers (sub_refl _) (mask_refl _ s)) rfl
  | .sequencerRun .. => commandFrame (execSequencerRun_answers (sub_refl _) (mask_refl _ s)) rfl
  | .sequencerHalt .. => commandFrame (execSequencerHalt_answers (sub_refl _) (mask_refl _ s)) rfl
  | .sequencerRestart .. => commandFrame (execSequencerRestart_answers (sub_refl _) (mask_refl _ s)) rfl
  | .seqLoadData .. => commandFrame (execSeqLoadData_answers (sub_refl _) (mask_refl _ s)) rfl
  | .seqMail .. => commandFrame (execSeqMail_answers (sub_refl _) (mask_refl _ s)) rfl
  | .watchdogKick .. => commandFrame (execWatchdogKick_answers (sub_refl _) (mask_refl _ s)) rfl
  | .watchdogFirstExpiry => commandFrame (execWatchdogFirstExpiry_answers (sub_refl _) (mask_refl _ s)) rfl
  | .watchdogReset => commandFrame (execWatchdogReset_answers (sub_refl _) (mask_refl _ s)) rfl
  | .hardDecodeDone .. => commandFrame (execHardDecodeDone_answers (sub_refl _) (mask_refl _ s)) rfl
  | .softAdmissionCredit => commandFrame (execSoftAdmissionCredit_answers (sub_refl _) (mask_refl _ s)) rfl
  | .softJobAdmit => commandFrame (execSoftJobAdmit_answers (sub_refl _) (mask_refl _ s)) rfl
  | .softDecodeDone .. => commandFrame (execSoftDecodeDone_answers (sub_refl _) (mask_refl _ s)) rfl
  | .stripeRecoveryDone .. => commandFrame (execStripeRecoveryDone_answers (sub_refl _) (mask_refl _ s)) rfl
  | .calibration .. => commandFrame (execCalibration_answers (sub_refl _) (mask_refl _ s)) rfl
  | .calibrationDone .. => commandFrame (execCalibrationDone_answers (sub_refl _) (mask_refl _ s)) rfl
  | .tlerExpiry .. => commandFrame (execTlerExpiry_answers (sub_refl _) (mask_refl _ s)) rfl
  | .pacedReadRelease .. => commandFrame (execPacedReadRelease_answers (sub_refl _) (mask_refl _ s)) rfl
  | .calRequest .. => commandFrame (execCalRequest_answers (sub_refl _) (mask_refl _ s)) rfl
  | .reclaimVictimChoice .. => commandFrame (execReclaimVictimChoice_answers (sub_refl _) (mask_refl _ s)) rfl
  | .suiteEraseDone .. => commandFrame (execSuiteEraseDone_answers (sub_refl _) (mask_refl _ s)) rfl
  | .eraseFail .. => commandFrame (execEraseFail_answers (sub_refl _) (mask_refl _ s)) rfl
  | .staticWearDue .. => commandFrame (execStaticWearDue_answers (sub_refl _) (mask_refl _ s)) rfl
  | .patrolRead => commandFrame (execPatrolRead_answers (sub_refl _) (mask_refl _ s)) rfl
  | .patrolLateExpiry => commandFrame (execPatrolLateExpiry_answers (sub_refl _) (mask_refl _ s)) rfl
  | .retentionAgeExpiry .. => commandFrame (execRetentionAgeExpiry_answers (sub_refl _) (mask_refl _ s)) rfl
  | .openMaxExpiry .. => commandFrame (execOpenMaxExpiry_answers (sub_refl _) (mask_refl _ s)) rfl
  | .foldRow .. => commandFrame (execFoldRow_answers (sub_refl _) (mask_refl _ s)) rfl
  | .consolidationStep => commandFrame (execConsolidationStep_answers (sub_refl _) (mask_refl _ s)) rfl
  | .ledgerWalkLost .. => commandFrame (execLedgerWalkLost_answers (sub_refl _) (mask_refl _ s)) rfl
  | .lifetimeCountUpdate => commandFrame (execLifetimeCountUpdate_answers (sub_refl _) (mask_refl _ s)) rfl
  | .suiteIdxWrite .. => commandFrame (execSuiteIdxWrite_answers (sub_refl _) (mask_refl _ s)) rfl
  | .dramBurstRead .. => commandFrame (execDramBurstRead_answers (sub_refl _) (mask_refl _ s)) rfl
  | .sramSweep .. => commandFrame (execSramSweep_answers (sub_refl _) (mask_refl _ s)) rfl
  | .scrubRead .. => commandFrame (execScrubRead_answers (sub_refl _) (mask_refl _ s)) rfl
  | .scrubLateExpiry => commandFrame (execScrubLateExpiry_answers (sub_refl _) (mask_refl _ s)) rfl
  | .dramClear => commandFrame (execDramClear_answers (sub_refl _) (mask_refl _ s)) rfl
  | .dramClearDone => commandFrame (execDramClearDone_answers (sub_refl _) (mask_refl _ s)) rfl
  | .subchannelRetire .. => commandFrame (execSubchannelRetire_answers (sub_refl _) (mask_refl _ s)) rfl
  | .ddrAlert .. => commandFrame (execDdrAlert_answers (sub_refl _) (mask_refl _ s)) rfl
  | .subchannelRetrainTimeout .. => commandFrame (execSubchannelRetrainTimeout_answers (sub_refl _) (mask_refl _ s)) rfl
  | .subchannelRetrainDone .. => commandFrame (execSubchannelRetrainDone_answers (sub_refl _) (mask_refl _ s)) rfl
  | .bsmRemapWrite .. => commandFrame (execBsmRemapWrite_answers (sub_refl _) (mask_refl _ s)) rfl
  | .remapCopyDone .. => commandFrame (execRemapCopyDone_answers (sub_refl _) (mask_refl _ s)) rfl
  | .contextStoreUe .. => commandFrame (execContextStoreUe_answers (sub_refl _) (mask_refl _ s)) rfl
  | .stgLockAcquire .. => commandFrame (execStgLockAcquire_answers (sub_refl _) (mask_refl _ s)) rfl
  | .stgLockRelease .. => commandFrame (execStgLockRelease_answers (sub_refl _) (mask_refl _ s)) rfl
  | .kmeLockTimeout => commandFrame (execKmeLockTimeout_answers (sub_refl _) (mask_refl _ s)) rfl
  | .unwrapLoad .. => commandFrame (execUnwrapLoad_answers (sub_refl _) (mask_refl _ s)) rfl
  | .generate .. => commandFrame (execGenerate_answers (sub_refl _) (mask_refl _ s)) rfl
  | .rewrap .. => commandFrame (execRewrap_answers (sub_refl _) (mask_refl _ s)) rfl
  | .zeroise .. => commandFrame (execZeroise_answers (sub_refl _) (mask_refl _ s)) rfl
  | .eraseStale .. => commandFrame (execEraseStale_answers (sub_refl _) (mask_refl _ s)) rfl
  | .seedReplace .. => commandFrame (execSeedReplace_answers (sub_refl _) (mask_refl _ s)) rfl
  | .verifyImage .. => commandFrame (execVerifyImage_answers (sub_refl _) (mask_refl _ s)) rfl
  | .sign .. => commandFrame (execSign_answers (sub_refl _) (mask_refl _ s)) rfl
  | .genNote .. => commandFrame (execGenNote_answers (sub_refl _) (mask_refl _ s)) rfl
  | .kmeOperationDone .. => commandFrame (execKmeOperationDone_answers (sub_refl _) (mask_refl _ s)) rfl
  | .entropyHealthFail => commandFrame (execEntropyHealthFail_answers (sub_refl _) (mask_refl _ s)) rfl
  | .tamperTrip .. => commandFrame (execTamperTrip_answers (sub_refl _) (mask_refl _ s)) rfl
  | .jtagUnlock .. => commandFrame (execJtagUnlock_answers (sub_refl _) (mask_refl _ s)) rfl
  | .getVersion .. => commandFrame (execGetVersion_answers (sub_refl _) (mask_refl _ s)) rfl
  | .getCapabilities .. => commandFrame (execGetCapabilities_answers (sub_refl _) (mask_refl _ s)) rfl
  | .negotiateAlgorithms .. => commandFrame (execNegotiateAlgorithms_answers (sub_refl _) (mask_refl _ s)) rfl
  | .getDigests .. => commandFrame (execGetDigests_answers (sub_refl _) (mask_refl _ s)) rfl
  | .getCertificate .. => commandFrame (execGetCertificate_answers (sub_refl _) (mask_refl _ s)) rfl
  | .challenge .. => commandFrame (execChallenge_answers (sub_refl _) (mask_refl _ s)) rfl
  | .getMeasurements .. => commandFrame (execGetMeasurements_answers (_nonce := 0) (sub_refl _) (mask_refl _ s)) rfl
  | .chunkGet .. => commandFrame (execChunkGet_answers (sub_refl _) (mask_refl _ s)) rfl
  | .closetProgram => commandFrame (execClosetProgram_answers (sub_refl _) (mask_refl _ s)) rfl
  | .closetErase => commandFrame (execClosetErase_answers (sub_refl _) (mask_refl _ s)) rfl
  | .closetMarginRead => commandFrame (execClosetMarginRead_answers (sub_refl _) (mask_refl _ s)) rfl
  | .closetOperationDone .. => commandFrame (execClosetOperationDone_answers (sub_refl _) (mask_refl _ s)) rfl
  | .cloWpSet .. => commandFrame (execCloWpSet_answers (sub_refl _) (mask_refl _ s)) rfl
  | .stdConfirm .. => commandFrame (execStdConfirm_answers (sub_refl _) (mask_refl _ s)) rfl
  | .confirmationTimeout => commandFrame (execConfirmationTimeout_answers (sub_refl _) (mask_refl _ s)) rfl
  | .bootSlotChoice => commandFrame (execBootSlotChoice_answers (sub_refl _) (mask_refl _ s)) rfl
  | .mgmtMessage .. => commandFrame (execMgmtMessage_answers (sub_refl _) (mask_refl _ s)) rfl
  | .linkWake .. => commandFrame (execLinkWake_answers (sub_refl _) (mask_refl _ s)) rfl
  | .wakeTimerExpiry => commandFrame (execWakeTimerExpiry_answers (sub_refl _) (mask_refl _ s)) rfl
  | .i3cStaticAddressStart => commandFrame (execI3cStaticAddressStart_answers (sub_refl _) (mask_refl _ s)) rfl
  | .pllEnable => commandFrame (execPllEnable_answers (sub_refl _) (mask_refl _ s)) rfl
  | .pllLock => commandFrame (execPllLock_answers (sub_refl _) (mask_refl _ s)) rfl
  | .clockSelect => commandFrame (execClockSelect_answers (sub_refl _) (mask_refl _ s)) rfl
  | .stdDomainEnWrite .. => commandFrame (execStdDomainEnWrite_answers (sub_refl _) (mask_refl _ s)) rfl
  | .stdPadRelease => commandFrame (execStdPadRelease_answers (sub_refl _) (mask_refl _ s)) rfl
  | .refclkLoss => commandFrame (execRefclkLoss_answers (sub_refl _) (mask_refl _ s)) rfl
  | .lsoCorrection .. => commandFrame (execLsoCorrection_answers (sub_refl _) (mask_refl _ s)) rfl
  | .sensorConversion .. => commandFrame (execSensorConversion_answers (sub_refl _) (mask_refl _ s)) rfl
  | .thermalStepRecompute => commandFrame (execThermalStepRecompute_answers (sub_refl _) (mask_refl _ s)) rfl
  | .powerGovernorTick .. => commandFrame (execPowerGovernorTick_answers (sub_refl _) (mask_refl _ s)) rfl
  | .portStepRecompute => commandFrame (execPortStepRecompute_answers (sub_refl _) (mask_refl _ s)) rfl
  | .shutdownLatchClear => commandFrame (execShutdownLatchClear_answers (sub_refl _) (mask_refl _ s)) rfl
  | .operatingTimeRecord => commandFrame (execOperatingTimeRecord_answers (sub_refl _) (mask_refl _ s)) rfl
  | .atcPostGo .. => commandFrame (execAtcPostGo_answers (sub_refl _) (mask_refl _ s)) rfl
  | .operatingSecondEnd => commandFrame (execOperatingSecondEnd_answers (sub_refl _) (mask_refl _ s)) rfl
  | .atticMirrorProgram => commandFrame (execAtticMirrorProgram_answers (sub_refl _) (mask_refl _ s)) rfl
  | .fullModePageProgram => commandFrame (execFullModePageProgram_answers (sub_refl _) (mask_refl _ s)) rfl
  | .atcWinCursorWrite .. => commandFrame (execAtcWinCursorWrite_answers (sub_refl _) (mask_refl _ s)) rfl
  | .windowLatchDone .. => commandFrame (execWindowLatchDone_answers (sub_refl _) (mask_refl _ s)) rfl
  | .atticCopyMove .. => commandFrame (execAtticCopyMove_answers (sub_refl _) (mask_refl _ s)) rfl
  | .inServiceTestItem .. => commandFrame (execInServiceTestItem_answers (sub_refl _) (mask_refl _ s)) rfl
  | .dstSegment .. => commandFrame (execDstSegment_answers (sub_refl _) (mask_refl _ s)) rfl
  | .dstLimitExpiry => commandFrame (execDstLimitExpiry_answers (sub_refl _) (mask_refl _ s)) rfl
  | .sjoin .. => commandFrame (execSjoin_answers (sub_refl _) (mask_refl _ s)) rfl
  | .sjoinRsp .. => commandFrame (execSjoinRsp_answers (sub_refl _) (mask_refl _ s)) rfl
  | .sreqRead .. => commandFrame (execSreqRead_answers (sub_refl _) (mask_refl _ s)) rfl
  | .sreqWrite .. => commandFrame (execSreqWrite_answers (sub_refl _) (mask_refl _ s)) rfl
  | .sreqDeallocate .. => commandFrame (execSreqDeallocate_answers (sub_refl _) (mask_refl _ s)) rfl
  | .sreqWriteZeroes .. => commandFrame (execSreqWriteZeroes_answers (sub_refl _) (mask_refl _ s)) rfl
  | .sreqWriteUncorrectable .. => commandFrame (execSreqWriteUncorrectable_answers (sub_refl _) (mask_refl _ s)) rfl
  | .sreqFlush .. => commandFrame (execSreqFlush_answers (sub_refl _) (mask_refl _ s)) rfl
  | .sreqNamespaceOperation .. => commandFrame (execSreqNamespaceOperation_answers (sub_refl _) (mask_refl _ s)) rfl
  | .sreqVerify .. => commandFrame (execSreqVerify_answers (sub_refl _) (mask_refl _ s)) rfl
  | .sdata .. => commandFrame (execSdata_answers (sub_refl _) (mask_refl _ s)) rfl
  | .sdoneCommitted .. => commandFrame (execSdoneCommitted_answers (sub_refl _) (mask_refl _ s)) rfl
  | .sdoneSettled .. => commandFrame (execSdoneSettled_answers (sub_refl _) (mask_refl _ s)) rfl
  | .stimeSend => commandFrame (execStimeSend_answers (sub_refl _) (mask_refl _ s)) rfl
  | .stime .. => commandFrame (execStime_answers (sub_refl _) (mask_refl _ s)) rfl
  | .sevent .. => commandFrame (execSevent_answers (sub_refl _) (mask_refl _ s)) rfl
  | .sact .. => commandFrame (execSact_answers (sub_refl _) (mask_refl _ s)) rfl
  | .stimeLossExpiry .. => commandFrame (execStimeLossExpiry_answers (sub_refl _) (mask_refl _ s)) rfl
  | .sjoinRetryExpiry .. => commandFrame (execSjoinRetryExpiry_answers (sub_refl _) (mask_refl _ s)) rfl
  | .stairResendDeadline .. => commandFrame (execStairResendDeadline_answers (sub_refl _) (mask_refl _ s)) rfl
  | .doneTableExpiry => commandFrame (execDoneTableExpiry_answers (sub_refl _) (mask_refl _ s)) rfl
  | .fenceUnsettledExpiry .. => commandFrame (execFenceUnsettledExpiry_answers (sub_refl _) (mask_refl _ s)) rfl
  | .activationRollbackExpiry => commandFrame (execActivationRollbackExpiry_answers (sub_refl _) (mask_refl _ s)) rfl
  | .entdaa .. => commandFrame (execEntdaa_answers (sub_refl _) (mask_refl _ s)) rfl
  | .bypass => commandFrame (execBypass_answers (sub_refl _) (mask_refl _ s)) rfl
  | .idcode => commandFrame (execIdcode_answers (sub_refl _) (mask_refl _ s)) rfl
  | .samplePreload .. => commandFrame (execSamplePreload_answers (sub_refl _) (mask_refl _ s)) rfl
  | .extest => commandFrame (execExtest_answers (sub_refl _) (mask_refl _ s)) rfl
  | .extestPulse => commandFrame (execExtestPulse_answers (sub_refl _) (mask_refl _ s)) rfl
  | .extestTrain => commandFrame (execExtestTrain_answers (sub_refl _) (mask_refl _ s)) rfl
  | .peerDetect .. => commandFrame (execPeerDetect_answers (sub_refl _) (mask_refl _ s)) rfl
  | .lockRegained .. => commandFrame (execLockRegained_answers (sub_refl _) (mask_refl _ s)) rfl
  | .recalReq .. => commandFrame (execRecalReq_answers (sub_refl _) (mask_refl _ s)) rfl
  | .waitTimeout .. => commandFrame (execWaitTimeout_answers (sub_refl _) (mask_refl _ s)) rfl
  | .aggregationTimeExpiry .. => commandFrame (execAggregationTimeExpiry_answers (sub_refl _) (mask_refl _ s)) rfl
  | .invalidateAllDone => commandFrame (execInvalidateAllDone_answers (sub_refl _) (mask_refl _ s)) rfl
  | .timedOutTagReuse .. => commandFrame (execTimedOutTagReuse_answers (sub_refl _) (mask_refl _ s)) rfl
  | .vauxApply => commandFrame (execVauxApply_answers (sub_refl _) (mask_refl _ s)) rfl
  | .tempHistMinute => commandFrame (execTempHistMinute_answers (sub_refl _) (mask_refl _ s)) rfl

/-- What a command answers differs from the state before within its parts. -/
theorem only_of_exec {c : Instr} {s t : State} (h : exec c s = .next t) : Only (touches c) s t := by
  obtain ⟨u, hu, honly⟩ := exec_only c s
  cases h.symm.trans hu
  exact honly

/-- Settles O60: by the masks of the commands. -/
theorem commandFrames : Obligations.CommandFrames := exec_only

/-! ## Reset -/

/-- The bits of a word below bit 64 do not see it cut to 64 bits. -/
theorem bits_mod_word (v : Nat) {l w : Nat} (h : l + w ≤ 64) : bits (v % 2 ^ 64) l w = bits v l w := by
  apply Nat.eq_of_testBit_eq
  intro i
  rw [bits_testBit, bits_testBit, Nat.testBit_mod_two_pow]
  by_cases hi : i < w
  · simp [show l + i < 64 by omega]
  · simp [hi]

/-- After reset a register field reads as its register's reset value gives it. -/
theorem rd_reset {f : Fld} (hf : f.lsb + f.width ≤ 64) : State.reset.rd f = f.rst / 2 ^ f.lsb % 2 ^ f.width := by
  have hword : State.reset.regWord f = f.rst % 2 ^ 64 := BitVec.toNat_ofNat _ _
  rw [State.rd, hword, bits_mod_word f.rst hf, bits]

/-- Settles O58: each table is listed empty, and the register fields read their reset values. -/
theorem resetState : Obligations.ResetState := by
  have hport (n : Nat) : portState State.reset n = 0 := by
    rw [portState, rd_reset (Nat.le_of_ble_eq_true rfl)]
    simp [CEL_PORT_STATUS.STATE]
  exact ⟨by decide, rfl, rfl, rfl, rfl, rfl, rfl, rfl, rfl, rfl, rfl, rd_reset (by decide), fun _ => rd_reset, fun n _ => hport n, fun _ => rfl⟩

end Sys2Proof.Machine
end

section
/-!
PROOF. The Gynum instructions (chapter 8). An instruction that is ready runs its body (`gyn_ready`); what its body does is said once for each shape of an
instruction: rd is written, T is written, the program counter moves, a local store, a trap. The obligations give the shapes their operations.
-/
namespace Sys2Proof.Machine

variable {s : State} {n : Nat}

/-- Sequencer `n` at the start of an instruction that it runs. -/
def started (s : State) (n : Nat) : State := s.modSeq n fun q => { q with state := 1 }

theorem gyn_started {w : Nat} {body : State → State} (hr : Ready s n w) : gyn n w s body = body (started s n) := gyn_ready hr

theorem started_sorted (h : s.inv = true) : Tbl.sorted (started s n).seqs = true := modSeq_sorted (seqs_sorted h)

theorem seq_started (h : s.inv = true) : (started s n).seq n = { s.seq n with state := 1 } := seq_modSeq_same (seqs_sorted h)

theorem onlySeq_started : OnlySeq s (started s n) n := onlySeq_modSeq

theorem reg_started (h : s.inv = true) (r : Nat) : ((started s n).seq n).reg r = (s.seq n).reg r := reg_running (seqs_sorted h) r

theorem pc_started (h : s.inv = true) : ((started s n).seq n).pc = (s.seq n).pc := by
  rw [seq_started h]

theorem localRead_started (h : s.inv = true) (m a len : Nat) : localRead (started s n) m a len = localRead s m a len := localRead_running (seqs_sorted h) m a len

theorem localBad_started (h : s.inv = true) (m a : Nat) : localBad (started s n) m a = localBad s m a := localBad_running (seqs_sorted h) m a

/-! ## Instructions that write rd -/

/-- An instruction that writes rd and moves on. -/
theorem gyn_setNext_regStep {w : Nat} {rd : BitVec 5} {v : U64} {body : State → State} (h : s.inv = true) (hr : Ready s n w)
    (hb : body (started s n) = setNext (started s n) n rd v) :
    ∃ t, Host.Outcome.next (φ := Fault) (ρ := Refusal) (gyn n w s body) = .next t ∧ RegStep s t n rd v := by
  refine ⟨_, rfl, ?_⟩
  rw [gyn_started hr, hb]
  exact setNext_regStep h rd v

theorem gynPair_regStep {op : Nat} {rd rs : BitVec 5} {pad : BitVec 14} (f : U64 → U64 → U64) (h : s.inv = true) (hr : Ready s n (wordP op rd rs pad)) :
    ∃ t, Host.Outcome.next (φ := Fault) (ρ := Refusal) (gynPair op n rd rs pad f s) = .next t ∧
      RegStep s t n rd (f ((s.seq n).reg rd.toNat) ((s.seq n).reg rs.toNat)) :=
  gyn_setNext_regStep h hr (by simp only [reg_started h])

theorem gynConst_regStep {op : Nat} {rd : BitVec 5} {k : BitVec 19} (f : U64 → BitVec 19 → U64) (h : s.inv = true) (hr : Ready s n (wordK op rd k)) :
    ∃ t, Host.Outcome.next (φ := Fault) (ρ := Refusal) (gynConst op n rd k f s) = .next t ∧ RegStep s t n rd (f ((s.seq n).reg rd.toNat) k) :=
  gyn_setNext_regStep h hr (by simp only [reg_started h])

/-! ## The operations as Table 8-7 gives them -/

theorem ofNat_mul_toNat (a b : U64) : BitVec.ofNat 64 (a.toNat * b.toNat) = a * b := by
  rw [BitVec.ofNat_mul, BitVec.ofNat_toNat, BitVec.ofNat_toNat, BitVec.setWidth_eq, BitVec.setWidth_eq]

theorem ofInt_min_toInt (a b : U64) : BitVec.ofInt 64 (min a.toInt b.toInt) = if BitVec.slt b a then b else a := by
  by_cases hlt : b.toInt < a.toInt
  · rw [min_eq_right (Int.le_of_lt hlt), BitVec.ofInt_toInt, if_pos (BitVec.slt_iff_toInt_lt.2 hlt)]
  · rw [min_eq_left (Int.not_lt.1 hlt), BitVec.ofInt_toInt, if_neg (fun hs => hlt (BitVec.slt_iff_toInt_lt.1 hs))]

theorem ofInt_max_toInt (a b : U64) : BitVec.ofInt 64 (max a.toInt b.toInt) = if BitVec.slt a b then b else a := by
  by_cases hlt : a.toInt < b.toInt
  · rw [max_eq_right (Int.le_of_lt hlt), BitVec.ofInt_toInt, if_pos (BitVec.slt_iff_toInt_lt.2 hlt)]
  · rw [max_eq_left (Int.not_lt.1 hlt), BitVec.ofInt_toInt, if_neg (fun hs => hlt (BitVec.slt_iff_toInt_lt.1 hs))]

/-- Counting ones from the lowest bit up. -/
theorem onesIn_eq_countP (w : Nat) : ∀ v : Nat, onesIn v w = (List.range w).countP fun i => v.testBit i := by
  induction w with
  | zero => exact fun _ => rfl
  | succ w ih =>
    intro v
    rw [onesIn, ih, List.range_succ_eq_map, List.countP_cons, List.countP_map]
    have hlow : v % 2 = if v.testBit 0 then 1 else 0 := by
      rw [Nat.testBit_zero]
      by_cases hodd : v % 2 = 1
      · simp [hodd]
      · simp [hodd]; omega
    have hrest : ((fun i => v.testBit i) ∘ Nat.succ) = fun i => (v / 2).testBit i := funext fun i => Nat.testBit_succ v i
    rw [hlow, hrest, Nat.add_comm]

/-- Of the powers of two below `2 ^ w`, those above a value are the ones from the first above it on. -/
theorem countP_lt_two_pow {v m : Nat} (hm : ∀ i, v < 2 ^ i ↔ m ≤ i) (w : Nat) : ((List.range w).countP fun i => v < 2 ^ i) = w - m := by
  induction w with
  | zero => simp
  | succ w ih =>
    rw [List.range_succ, List.countP_append, ih, List.countP_singleton]
    by_cases hw : m ≤ w
    · simp only [(hm w).2 hw, decide_true, if_true]
      omega
    · have hn : ¬ v < 2 ^ w := fun hv => hw ((hm w).1 hv)
      simp only [hn, decide_false, Bool.false_eq_true, if_false]
      omega

theorem leadingZeros_eq_countP (v : Nat) : leadingZeros v = (List.range 64).countP fun i => v < 2 ^ i := by
  by_cases hv : v = 0
  · rw [hv, countP_lt_two_pow (m := 0) (fun i => by simp) 64]
    rfl
  · have hm (i : Nat) : v < 2 ^ i ↔ v.log2 + 1 ≤ i := (Nat.log2_lt hv).symm
    rw [countP_lt_two_pow hm 64, leadingZeros, if_neg hv]
    omega

/-- Settles O1: the pair shape with the operation of each row; the counts of CNT and LZC bit by bit. -/
theorem gynumPairOps : Obligations.GynumPairOps := by
  intro s n rd rs pad h a b goes
  refine ⟨gynPair_regStep _ h, gynPair_regStep _ h, gynPair_regStep _ h, gynPair_regStep _ h, gynPair_regStep _ h, gynPair_regStep _ h,
    gynPair_regStep _ h, gynPair_regStep _ h, gynPair_regStep _ h, ?mul, gynPair_regStep _ h, ?min, ?max, ?cnt, ?lzc⟩
  case mul => rw [ofNat_mul_toNat]; exact gynPair_regStep _ h
  case min => rw [ofInt_min_toInt]; exact gynPair_regStep _ h
  case max => rw [ofInt_max_toInt]; exact gynPair_regStep _ h
  case cnt =>
    have hones : onesIn b.toNat 64 = (List.range 64).countP fun i => b.getLsbD i := onesIn_eq_countP 64 b.toNat
    rw [← hones]
    exact gynPair_regStep _ h
  case lzc => rw [← leadingZeros_eq_countP]; exact gynPair_regStep _ h

/-- PUTK bit by bit. -/
theorem getLsbD_putLane (v : U64) (k : BitVec 19) {i : Nat} (hi : i < 64) : (putLane v k).getLsbD i =
    if 16 * (k.toNat / 2 ^ 16 % 4) ≤ i ∧ i < 16 * (k.toNat / 2 ^ 16 % 4) + 16 then k.getLsbD (i - 16 * (k.toNat / 2 ^ 16 % 4)) else v.getLsbD i := by
  rw [putLane, BitVec.getLsbD_ofNat, putBits_testBit, decide_eq_true hi, Bool.true_and]
  by_cases hlane : 16 * (k.toNat / 2 ^ 16 % 4) ≤ i ∧ i < 16 * (k.toNat / 2 ^ 16 % 4) + 16
  · rw [if_pos hlane, if_pos hlane, Nat.testBit_mod_two_pow, decide_eq_true (by omega), Bool.true_and]
    rfl
  · rw [if_neg hlane, if_neg hlane]
    rfl

/-- Settles O2: the constant shape with the operation of each row; the lane of PUTK is fixed by its bits. -/
theorem gynumConstOps : Obligations.GynumConstOps := by
  intro s n rd k h a goes lane
  refine ⟨gynConst_regStep _ h, ?putk, gynConst_regStep _ h, gynConst_regStep _ h, gynConst_regStep _ h, gynConst_regStep _ h, gynConst_regStep _ h,
    gynConst_regStep _ h, gynConst_regStep _ h⟩
  case putk =>
    intro v hv
    have hlane : putLane a k = v := BitVec.eq_of_getLsbD_eq fun i hi => (getLsbD_putLane a k hi).trans (hv i hi).symm
    rw [← hlane]
    exact gynConst_regStep _ h

/-! ## Instructions that change their sequencer only -/

theorem onlySeq_pcNext : OnlySeq s (pcNext s n) n := onlySeq_modSeq

theorem seq_pcNext (h : Tbl.sorted s.seqs = true) : (pcNext s n).seq n = { s.seq n with pc := (s.seq n).pc + 4 } := seq_modSeq_same h

theorem onlySeq_setT {b : Bool} : OnlySeq s (setT s n b) n := onlySeq_trans onlySeq_modSeq onlySeq_pcNext

theorem seq_setT {b : Bool} (h : Tbl.sorted s.seqs = true) : (setT s n b).seq n = { s.seq n with t := b, pc := (s.seq n).pc + 4 } := by
  rw [setT, seq_pcNext (modSeq_sorted h), seq_modSeq_same h]

/-- An instruction whose body changes its own sequencer only. -/
theorem gyn_onlySeq {w : Nat} {u : State} {q : Seq} {body : State → State} (hr : Ready s n w)
    (hb : body (started s n) = u) (hu : OnlySeq (started s n) u n) (hq : u.seq n = q) :
    ∃ t, Host.Outcome.next (φ := Fault) (ρ := Refusal) (gyn n w s body) = .next t ∧ OnlySeq s t n ∧ t.seq n = q := by
  refine ⟨_, rfl, ?_⟩
  rw [gyn_started hr, hb]
  exact ⟨onlySeq_trans onlySeq_started hu, hq⟩

/-! ## Tests -/

theorem gynTest_setT {op : Nat} {rd rs : BitVec 5} {pad : BitVec 14} (f : U64 → U64 → Bool) {b : Bool} (h : s.inv = true)
    (hb : f ((s.seq n).reg rd.toNat) ((s.seq n).reg rs.toNat) = b) (hr : Ready s n (wordP op rd rs pad)) :
    ∃ t, Host.Outcome.next (φ := Fault) (ρ := Refusal) (gynTest op n rd rs pad f s) = .next t ∧ OnlySeq s t n ∧
      t.seq n = { s.seq n with t := b, pc := (s.seq n).pc + 4, state := 1 } :=
  gyn_onlySeq (u := setT _ n b) hr (by simp only [reg_started h, hb]) onlySeq_setT (by rw [seq_setT (started_sorted h), seq_started h])

theorem gynTestK_setT {op : Nat} {rd : BitVec 5} {k : BitVec 19} (f : U64 → BitVec 19 → Bool) {b : Bool} (h : s.inv = true)
    (hb : f ((s.seq n).reg rd.toNat) k = b) (hr : Ready s n (wordK op rd k)) :
    ∃ t, Host.Outcome.next (φ := Fault) (ρ := Refusal) (gynTestK op n rd k f s) = .next t ∧ OnlySeq s t n ∧
      t.seq n = { s.seq n with t := b, pc := (s.seq n).pc + 4, state := 1 } :=
  gyn_onlySeq (u := setT _ n b) hr (by simp only [reg_started h, hb]) onlySeq_setT (by rw [seq_setT (started_sorted h), seq_started h])

theorem tNe_eq_decide (a b : U64) : tNe a b = decide (a ≠ b) := by
  by_cases hab : a = b <;> simp [tNe, hab]

theorem tLt_eq_decide (a b : U64) : tLt a b = decide (a.toInt < b.toInt) := rfl

theorem tGe_eq_decide (a b : U64) : tGe a b = decide (b.toInt ≤ a.toInt) := by
  rw [tGe, BitVec.slt, ← decide_not, decide_eq_decide, Int.not_lt]

theorem tGeu_eq_decide (a b : U64) : tGeu a b = decide (b.toNat ≤ a.toNat) := by
  rw [tGeu, BitVec.ult, ← decide_not, decide_eq_decide, Nat.not_lt]

/-- Settles O3: the test shapes with the comparison of each row. -/
theorem gynumTests : Obligations.GynumTests := by
  intro s n rd rs pad k h a b c goes
  exact ⟨gynTest_setT _ h rfl, gynTest_setT _ h (tNe_eq_decide a b), gynTest_setT _ h (tLt_eq_decide a b), gynTest_setT _ h (tGe_eq_decide a b),
    gynTest_setT _ h rfl, gynTest_setT _ h (tGeu_eq_decide a b), gynTestK_setT _ h rfl, gynTestK_setT _ h (tNe_eq_decide a c),
    gynTestK_setT _ h (tLt_eq_decide a c), gynTestK_setT _ h (tGe_eq_decide a c), gynTestK_setT _ h rfl⟩

/-! ## Local loads and stores -/

theorem gynLoad_regStep {op len : Nat} {rd rs : BitVec 5} {d : BitVec 14} (h : s.inv = true) (hr : Ready s n (wordP op rd rs d))
    (halign : memAddr ((s.seq n).reg rs.toNat) d % len = 0) (hok : localLoadOk n (memAddr ((s.seq n).reg rs.toNat) d) = true)
    (hbad : localBad s n (memAddr ((s.seq n).reg rs.toNat) d) = false) :
    ∃ t, Host.Outcome.next (φ := Fault) (ρ := Refusal) (gynLoad op len n rd rs d s) = .next t ∧
      RegStep s t n rd (BitVec.ofNat 64 (localRead s n (memAddr ((s.seq n).reg rs.toNat) d) len)) :=
  gyn_setNext_regStep h hr (by
    simp only [reg_started h, localBad_started h, localRead_started h, halign, hok, hbad, ne_eq,
      not_true_eq_false, if_false, Bool.not_true, Bool.false_eq_true])

theorem gynStore_ram {op len : Nat} {rd rs : BitVec 5} {d : BitVec 14} (h : s.inv = true) (hr : Ready s n (wordP op rd rs d))
    (halign : memAddr ((s.seq n).reg rs.toNat) d % len = 0) (hok : localStoreOk n (memAddr ((s.seq n).reg rs.toNat) d) = true)
    (hbad : localBad s n (memAddr ((s.seq n).reg rs.toNat) d) = false) :
    ∃ t, Host.Outcome.next (φ := Fault) (ρ := Refusal) (gynStore op len n rd rs d s) = .next t ∧ OnlySeq s t n ∧
      t.seq n = { s.seq n with ram := (t.seq n).ram, pc := (s.seq n).pc + 4, state := 1 } ∧
      ∀ b, Tbl.getD (t.seq n).ram b 0 =
        if memAddr ((s.seq n).reg rs.toNat) d ≤ b ∧ b < memAddr ((s.seq n).reg rs.toNat) d + len then
          BitVec.ofNat 8 (((s.seq n).reg rd.toNat).toNat / 256 ^ (b - memAddr ((s.seq n).reg rs.toNat) d))
        else Tbl.getD (s.seq n).ram b 0 := by
  have hram := (ok_parts.1 (seq_ok_of_inv h n)).2.2.1
  have hsorted : Tbl.sorted (s.seq n).ram = true := (Bool.and_eq_true_iff.1 hram).1
  obtain ⟨t, ht, honly, hseq⟩ := gyn_onlySeq (u := pcNext (localWrite _ n (memAddr ((s.seq n).reg rs.toNat) d) len ((s.seq n).reg rd.toNat).toNat) n) (q := { s.seq n with
      ram := Tbl.writeBytes (s.seq n).ram 0 (memAddr ((s.seq n).reg rs.toNat) d) len ((s.seq n).reg rd.toNat).toNat, pc := (s.seq n).pc + 4, state := 1 })
    (body := fun s =>
      let a := memAddr ((s.seq n).reg rs.toNat) d
      let pc := (s.seq n).pc
      if a % len ≠ 0 then trap s n 0x02 a pc
      else if !localStoreOk n a then trap s n 0x03 a pc
      else if localBad s n a then trap s n 0x06 a pc
      else pcNext (localWrite s n a len ((s.seq n).reg rd.toNat).toNat) n)
    hr (by simp only [reg_started h, localBad_started h, halign, hok, hbad, ne_eq, not_true_eq_false, if_false,
      Bool.not_true, Bool.false_eq_true]) (onlySeq_trans onlySeq_modSeq onlySeq_pcNext)
    (by rw [localWrite, seq_pcNext (modSeq_sorted (started_sorted h)), seq_modSeq_same (started_sorted h), seq_started h])
  refine ⟨t, ht, honly, by rw [hseq], fun b => ?_⟩
  rw [hseq]
  exact getD_writeBytes _ hsorted _ _ _ _

/-- Settles O4: the load and the store shape at each length. -/
theorem gynumLocalAccess : Obligations.GynumLocalAccess := by
  intro s n rd rs d h a v loads stores
  exact ⟨gynLoad_regStep h, gynLoad_regStep h, gynLoad_regStep h, gynLoad_regStep h, gynStore_ram h, gynStore_ram h, gynStore_ram h, gynStore_ram h⟩

/-! ## House loads and stores -/

theorem gynHouseLoad_regStep {op len : Nat} {rd rs : BitVec 5} {d : BitVec 14} (h : s.inv = true) (hr : Ready s n (wordP op rd rs d))
    (halign : memAddr ((s.seq n).reg rs.toNat) d % len = 0) :
    ∃ t u, Host.Outcome.next (φ := Fault) (ρ := Refusal) (gynHouseLoad op len n rd rs d s) = .next t ∧ u = started s n ∧
      RegStep s t n rd (BitVec.ofNat 64 (houseReadBytes u (seqAgent n) (memAddr ((s.seq n).reg rs.toNat) d) len)) := by
  obtain ⟨t, ht, hstep⟩ := gyn_setNext_regStep (rd := rd)
    (v := BitVec.ofNat 64 (houseReadBytes (started s n) (seqAgent n) (memAddr ((s.seq n).reg rs.toNat) d) len))
    (body := fun s =>
      let a := memAddr ((s.seq n).reg rs.toNat) d
      if a % len ≠ 0 then trap s n 0x02 a (s.seq n).pc
      else setNext s n rd (BitVec.ofNat 64 (houseReadBytes s (seqAgent n) a len)))
    h hr (by simp only [reg_started h, halign, ne_eq, not_true_eq_false, if_false])
  exact ⟨t, _, ht, rfl, hstep⟩

theorem gynHouseStore_next {op len : Nat} {rd rs : BitVec 5} {d : BitVec 14} (h : s.inv = true) (hr : Ready s n (wordP op rd rs d))
    (halign : memAddr ((s.seq n).reg rs.toNat) d % len = 0) (hok : n = 64 ∨ houseStoreOk n (memAddr ((s.seq n).reg rs.toNat) d) = true) :
    Host.Outcome.next (φ := Fault) (ρ := Refusal) (gynHouseStore op len n rd rs d s) = .next (pcNext (houseWriteBytes (started s n)
      (seqAgent n) (memAddr ((s.seq n).reg rs.toNat) d) len ((s.seq n).reg rd.toNat).toNat) n) := by
  have hallowed : (decide (n < 64) && !houseStoreOk n (memAddr ((s.seq n).reg rs.toNat) d)) = false := by
    rcases hok with hn | hok
    · simp [hn]
    · simp [hok]
  rw [gynHouseStore, gyn_started hr]
  simp only [reg_started h, halign, hallowed, ne_eq, not_true_eq_false, if_false, Bool.false_eq_true]

/-- Settles O5: the house shapes at both lengths. -/
theorem gynumHouseAccess : Obligations.GynumHouseAccess := by
  intro s n rd rs d h a who loads stores
  exact ⟨gynHouseLoad_regStep h, gynHouseStore_next h, gynHouseLoad_regStep h, gynHouseStore_next h⟩

/-! ## Jumps, calls and returns -/

/-- A jump: the program counter goes to `a` and the return stack becomes `stack`. -/
theorem gyn_jump {w a : Nat} {stack : List Nat} {f : Seq → Seq} {body : State → State} (h : s.inv = true)
    (hb : body (started s n) = (started s n).modSeq n f)
    (hf : f { s.seq n with state := 1 } = { s.seq n with pc := a, rstack := stack, state := 1 }) (hr : Ready s n w) :
    ∃ t, Host.Outcome.next (φ := Fault) (ρ := Refusal) (gyn n w s body) = .next t ∧ OnlySeq s t n ∧
      t.seq n = { s.seq n with pc := a, rstack := stack, state := 1 } :=
  gyn_onlySeq hr hb onlySeq_modSeq (by rw [seq_modSeq_same (started_sorted h), seq_started h, hf])

theorem gynCallTo_of_room {a : Nat} (h : s.inv = true) (hroom : (s.seq n).rstack.length < 8) :
    gynCallTo (started s n) n a =
      (started s n).modSeq n fun q => { q with rstack := (q.pc + 4) :: q.rstack, pc := a } := by
  rw [gynCallTo, seq_started h]
  exact if_neg (by simpa using hroom)

/-- Settles O6: each form is a jump with its target and its return stack. -/
theorem gynumJumps : Obligations.GynumJumps := by
  intro s n rd rs pad d h q target a goes
  refine ⟨?go, ?got, ?gof, fun hroom => ?call, fun halign => ?gor, fun halign hroom => ?callr, fun r rest hstack => ?ret⟩
  case go => exact gyn_jump h (by rw [gynGoto, seq_started h]) rfl
  case got =>
    cases ht : q.t
    · exact gyn_jump (f := fun q => { q with pc := q.pc + 4 }) h (by rw [seq_started h]; simp only [q] at ht; simp [ht, pcNext]) rfl
    · exact gyn_jump (f := fun q => { q with pc := target }) h (by rw [seq_started h]; simp only [q] at ht; simp [ht, gynGoto, target, jumpTarget, q]) rfl
  case gof =>
    cases ht : q.t
    · exact gyn_jump (f := fun q => { q with pc := target }) h (by rw [seq_started h]; simp only [q] at ht; simp [ht, gynGoto, target, jumpTarget, q]) rfl
    · exact gyn_jump (f := fun q => { q with pc := q.pc + 4 }) h (by rw [seq_started h]; simp only [q] at ht; simp [ht, pcNext]) rfl
  case call => exact gyn_jump h (gynCallTo_of_room h hroom) (by rw [seq_started h]; rfl)
  case gor =>
    have hreg : ((started s n).seq n).reg rd.toNat = q.reg rd.toNat := reg_started h _
    exact gyn_jump h (by simp only [hreg]; rw [if_neg (by simpa using halign), gynGoto]) rfl
  case callr =>
    have hreg : ((started s n).seq n).reg rd.toNat = q.reg rd.toNat := reg_started h _
    exact gyn_jump h (by simp only [hreg]; rw [if_neg (by simpa using halign), gynCallTo_of_room h hroom]) rfl
  case ret => exact gyn_jump h (by rw [seq_started h]; simp only [q] at hstack; simp only [hstack]; rfl) rfl

/-! ## TRAP, RTT, TIME, HSYNC and RDS -/

theorem gyn_trap {w cause bad epc : Nat} {body : State → State} (h : s.inv = true) (hq : (s.seq n).inTrap = false)
    (hb : body (started s n) = trap (started s n) n cause bad epc) (hr : Ready s n w) :
    ∃ t, Host.Outcome.next (φ := Fault) (ρ := Refusal) (gyn n w s body) = .next t ∧ Trapped s t n cause bad epc := by
  refine ⟨_, rfl, ?_⟩
  rw [gyn_started hr, hb]
  exact trap_trapped h hq cause bad epc

theorem specialReg_started (h : s.inv = true) (k : Nat) : specialReg (started s n) n k = specialReg s n k := by
  unfold specialReg
  rw [seq_started h]
  rfl

/-- The value of RDS as Table 8-7 lists it. -/
theorem specialReg_eq {k : BitVec 19} {v : Nat} (h0 : k = 0 → v = (s.seq n).epc) (h1 : k = 1 → v = (s.seq n).cause) (h2 : k = 2 → v = (s.seq n).badaddr)
    (h3 : k = 3 → v = n) (h4 : k = 4 → v = b2n (gy1Level s n)) (h5 : k = 5 → v = b2n (s.seq n).savedT) (h6 : k = 6 → v = (s.seq n).rstack.length)
    (hmore : 6 < k.toNat → v = 0) : specialReg s n k.toNat = v := by
  have hk (m : Nat) (hm : k.toNat = m) : k = BitVec.ofNat 19 m := by rw [← hm, BitVec.ofNat_toNat, BitVec.setWidth_eq]
  unfold specialReg
  split
  case h_1 hm => exact (h0 (hk _ hm)).symm
  case h_2 hm => exact (h1 (hk _ hm)).symm
  case h_3 hm => exact (h2 (hk _ hm)).symm
  case h_4 hm => exact (h3 (hk _ hm)).symm
  case h_5 hm => exact (h4 (hk _ hm)).symm
  case h_6 hm => exact (h5 (hk _ hm)).symm
  case h_7 hm => exact (h6 (hk _ hm)).symm
  case h_8 e0 e1 e2 e3 e4 e5 e6 => exact (hmore (by simp only [imp_false] at e0 e1 e2 e3 e4 e5 e6; omega)).symm

/-- Settles O7: one shape for each instruction. -/
theorem gynumSystem : Obligations.GynumSystem := by
  intro s n rd rs pad k h q
  refine ⟨fun hr hq => ?trap, fun hr => ?rtt, fun hr => ?time, fun hr => ?hsync, fun v h0 h1 h2 h3 h4 h5 h6 hmore hr => ?rds⟩
  case trap => exact gyn_trap h hq (by rw [seq_started h]) hr
  case rtt => exact gyn_onlySeq hr rfl onlySeq_modSeq (by rw [returnFromTrap, seq_modSeq_same (started_sorted h), seq_started h])
  case time => exact gyn_setNext_regStep h hr rfl
  case hsync => exact gyn_onlySeq hr rfl onlySeq_pcNext (by rw [seq_pcNext (started_sorted h), seq_started h])
  case rds =>
    rw [← specialReg_eq h0 h1 h2 h3 h4 h5 h6 hmore]
    exact gyn_setNext_regStep h hr (by rw [specialReg_started h])

/-! ## Traps -/

/-- A check of an instruction that fails. -/
theorem gyn_trap_of_check {w cause bad epc : Nat} {c : Prop} [Decidable c] {t : State} {body : State → State} (h : s.inv = true)
    (hq : (s.seq n).inTrap = false) (hb : body (started s n) = if c then trap (started s n) n cause bad epc else t) (hc : c) (hr : Ready s n w) :
    ∃ t, Host.Outcome.next (φ := Fault) (ρ := Refusal) (gyn n w s body) = .next t ∧ Trapped s t n cause bad epc :=
  gyn_trap h hq (hb.trans (if_pos hc)) hr

section
variable {op len : Nat} {rd rs : BitVec 5} {d : BitVec 14} (h : s.inv = true) (hq : (s.seq n).inTrap = false)
include h hq

/-- Every load and store checks the alignment of its address first. -/
theorem gyn_misaligned {w : Nat} {body rest : State → State} (hb : ∀ s, body s = if memAddr ((s.seq n).reg rs.toNat) d % len ≠ 0 then
      trap s n 0x02 (memAddr ((s.seq n).reg rs.toNat) d) (s.seq n).pc else rest s)
    (hm : memAddr ((s.seq n).reg rs.toNat) d % len ≠ 0) (hr : Ready s n w) :
    ∃ t, Host.Outcome.next (φ := Fault) (ρ := Refusal) (gyn n w s body) = .next t ∧ Trapped s t n 0x02 (memAddr ((s.seq n).reg rs.toNat) d) (s.seq n).pc :=
  gyn_trap_of_check h hq (by rw [hb, reg_started h, pc_started h]) hm hr

theorem gynLoad_barred (hm : memAddr ((s.seq n).reg rs.toNat) d % len = 0) (hno : localLoadOk n (memAddr ((s.seq n).reg rs.toNat) d) = false)
    (hr : Ready s n (wordP op rd rs d)) :
    ∃ t, Host.Outcome.next (φ := Fault) (ρ := Refusal) (gynLoad op len n rd rs d s) = .next t ∧
      Trapped s t n 0x03 (memAddr ((s.seq n).reg rs.toNat) d) (s.seq n).pc :=
  gyn_trap h hq (by simp only [reg_started h, pc_started h, hm, hno, ne_eq, not_true_eq_false, if_false, Bool.not_false, if_true]) hr

theorem gynStore_barred (hm : memAddr ((s.seq n).reg rs.toNat) d % len = 0) (hno : localStoreOk n (memAddr ((s.seq n).reg rs.toNat) d) = false)
    (hr : Ready s n (wordP op rd rs d)) :
    ∃ t, Host.Outcome.next (φ := Fault) (ρ := Refusal) (gynStore op len n rd rs d s) = .next t ∧
      Trapped s t n 0x03 (memAddr ((s.seq n).reg rs.toNat) d) (s.seq n).pc :=
  gyn_trap h hq (by simp only [reg_started h, pc_started h, hm, hno, ne_eq, not_true_eq_false, if_false, Bool.not_false, if_true]) hr

theorem gynHouseStore_denied (hm : memAddr ((s.seq n).reg rs.toNat) d % len = 0) (hn : n < 64)
    (hno : houseStoreOk n (memAddr ((s.seq n).reg rs.toNat) d) = false) (hr : Ready s n (wordP op rd rs d)) :
    ∃ t, Host.Outcome.next (φ := Fault) (ρ := Refusal) (gynHouseStore op len n rd rs d s) = .next t ∧
      Trapped s t n 0x04 (memAddr ((s.seq n).reg rs.toNat) d) (s.seq n).pc :=
  gyn_trap h hq (by simp only [reg_started h, pc_started h, hm, hn, hno, ne_eq, not_true_eq_false, if_false, Bool.not_false, decide_true,
    Bool.and_true, if_true]) hr

end

theorem gynCallTo_full {a : Nat} (h : s.inv = true) (hfull : 8 ≤ (s.seq n).rstack.length) : gynCallTo (started s n) n a = trap (started s n) n 0x0E 8 (s.seq n).pc := by
  rw [gynCallTo, seq_started h]
  exact if_pos hfull

/-- Settles O8: the check of each form that fails. -/
theorem gynumTraps : Obligations.GynumTraps := by
  intro s n rd rs pad d h hq q m a traps
  have hreg : ((started s n).seq n).reg rd.toNat = q.reg rd.toNat := reg_started h _
  have hpc : ((started s n).seq n).pc = q.pc := pc_started h
  refine ⟨fun hm => ?by8, fun hm => ?by4, fun hm => ?by2, fun ha => ⟨?gor, ?callr⟩, gynLoad_barred h hq (Nat.mod_one _), gynStore_barred h hq (Nat.mod_one _),
    gynHouseStore_denied h hq, fun hfull => ?call, fun hfull ha => ?callFull, fun hempty => ?ret⟩
  case by8 => exact ⟨gyn_misaligned h hq (fun _ => rfl) hm, gyn_misaligned h hq (fun _ => rfl) hm, gyn_misaligned h hq (fun _ => rfl) hm,
    gyn_misaligned h hq (fun _ => rfl) hm⟩
  case by4 => exact ⟨gyn_misaligned h hq (fun _ => rfl) hm, gyn_misaligned h hq (fun _ => rfl) hm, gyn_misaligned h hq (fun _ => rfl) hm,
    gyn_misaligned h hq (fun _ => rfl) hm⟩
  case by2 => exact ⟨gyn_misaligned h hq (fun _ => rfl) hm, gyn_misaligned h hq (fun _ => rfl) hm⟩
  case gor => exact gyn_trap_of_check h hq (by simp only [hreg, hpc]; rfl) ha
  case callr => exact gyn_trap_of_check h hq (by simp only [hreg, hpc]; rfl) ha
  case call => exact gyn_trap h hq (gynCallTo_full h hfull)
  case callFull => exact gyn_trap h hq (by simp only [hreg]; rw [if_neg (by simpa using ha), gynCallTo_full h hfull])
  case ret => exact gyn_trap h hq (by rw [seq_started h]; simp only [q] at hempty; simp only [hempty]; rfl)

end Sys2Proof.Machine
end

section
/-!
PROOF. Register fields: reading a field after writes of several. Fields of one register whose bits do not meet are apart (`apart_bits`), so a chain of writes
is read from the last write of the field backwards.
-/
namespace Sys2Proof.Machine

variable {s t : State} {f g : Fld}

/-- Fields of one register that share no bit. -/
theorem apart_bits (hrst : f.rst = g.rst) (h : ((f.lsb + f.width).ble g.lsb || (g.lsb + g.width).ble f.lsb) = true) : Fld.apart f g := by
  rcases Bool.or_eq_true_iff.1 h with h | h
  · exact Or.inr ⟨hrst, Or.inl (Nat.le_of_ble_eq_true h)⟩
  · exact Or.inr ⟨hrst, Or.inr (Nat.le_of_ble_eq_true h)⟩

theorem on_wr_apart (v : Nat) (hs : Tbl.sorted s.regs = true) (hf : f.lsb + f.width ≤ 64) (h : Fld.apart g f) : (s.wr f v).on g = s.on g := by
  rw [State.on, State.rd_wr_apart v hs hf h, State.on]

theorem on_set1_same (hs : Tbl.sorted s.regs = true) (hf : f.lsb + f.width ≤ 64) (hw : f.width ≠ 0) : (s.set1 f).on f = true := by
  have hone : 1 % 2 ^ f.width = 1 := Nat.mod_eq_of_lt (Nat.one_lt_two_pow hw)
  rw [State.set1, on_wr_same hs hf, hone]
  rfl

theorem on_clr1_same (hs : Tbl.sorted s.regs = true) (hf : f.lsb + f.width ≤ 64) : (s.clr1 f).on f = false := by
  rw [State.clr1, on_wr_same hs hf, Nat.zero_mod]
  rfl

theorem rd_bits_wr_same (v l : Nat) (hs : Tbl.sorted s.regs = true) (hf : f.lsb + f.width ≤ 64) :
    (s.wr f (bits v l f.width)).rd f = v / 2 ^ l % 2 ^ f.width := by
  rw [State.rd_wr_same s f _ hs hf, bits, Nat.mod_mod]

theorem rd_bump_same (k : Nat) (hs : Tbl.sorted s.regs = true) (hf : f.lsb + f.width ≤ 64) :
    (s.bump f k).rd f = min (s.rd f + k) (2 ^ f.width - 1) := by
  rw [State.bump, State.rd_wr_same s f _ hs hf, satInc, Nat.mod_eq_of_lt]
  have := Nat.two_pow_pos f.width
  omega

theorem set1_sorted (hs : Tbl.sorted s.regs = true) : Tbl.sorted (s.set1 f).regs = true := wr_sorted hs
theorem clr1_sorted (hs : Tbl.sorted s.regs = true) : Tbl.sorted (s.clr1 f).regs = true := wr_sorted hs
theorem bump_sorted {k : Nat} (hs : Tbl.sorted s.regs = true) : Tbl.sorted (s.bump f k).regs = true := wr_sorted hs

/-- A read of a field passes over the write of another field of its register. -/
theorem rd_wr_bits {v x : Nat} (hs : Tbl.sorted s.regs = true) (hf : (f.lsb + f.width).ble 64 = true) (hrst : g.rst = f.rst)
    (h : ((g.lsb + g.width).ble f.lsb || (f.lsb + f.width).ble g.lsb) = true) (hx : s.rd g = x) : (s.wr f v).rd g = x :=
  (State.rd_wr_apart v hs (Nat.le_of_ble_eq_true hf) (apart_bits hrst h)).trans hx

theorem on_wr_bits {v : Nat} {x : Bool} (hs : Tbl.sorted s.regs = true) (hf : (f.lsb + f.width).ble 64 = true) (hrst : g.rst = f.rst)
    (h : ((g.lsb + g.width).ble f.lsb || (f.lsb + f.width).ble g.lsb) = true) (hx : s.on g = x) : (s.wr f v).on g = x :=
  (on_wr_apart v hs (Nat.le_of_ble_eq_true hf) (apart_bits hrst h)).trans hx

/-- One more write of a listed field. -/
theorem RegsBut.wr {l : List Fld} {v : Nat} (h : RegsBut s t l) (ht : Tbl.sorted t.regs = true) (hf : f.lsb + f.width ≤ 64) (hl : f ∈ l) :
    RegsBut s (t.wr f v) l := regsBut_trans h (regsBut_wr ht hf hl)

theorem RegsBut.of_regs {u : State} {l : List Fld} (h : RegsBut s t l) (hu : u.regs = t.regs) : RegsBut s u l := regsBut_trans h (regsBut_of_regs hu)

theorem regsBut_mono {l m : List Fld} (h : RegsBut s t l) (hl : ∀ x ∈ l, x ∈ m) : RegsBut s t m := fun x hx => h x fun y hy => hx y (hl y hy)

/-- A field of a register that no listed field lies in. -/
theorem RegsBut.rd_eq {l : List Fld} (h : RegsBut s t l) (hg : ∀ x ∈ l, Fld.apart g x) : t.rd g = s.rd g := h g hg

theorem RegsBut.on_eq {l : List Fld} (h : RegsBut s t l) (hg : ∀ x ∈ l, Fld.apart g x) : t.on g = s.on g := by
  rw [State.on, h g hg, State.on]

/-- Reads are the same where the registers are. -/
theorem rd_of_regs (h : t.regs = s.regs) : t.rd g = s.rd g := by
  rw [State.rd, State.regWord, h, State.rd, State.regWord]

theorem on_of_regs (h : t.regs = s.regs) : t.on g = s.on g := by
  rw [State.on, rd_of_regs h, State.on]

/-- A sequencer is the same where the table of sequencers is. -/
theorem seq_of_seqs {m : Nat} (h : t.seqs = s.seqs) : t.seq m = s.seq m := by
  rw [State.seq, h, State.seq]

/-! The sequencers under register writes. These are stated without definitional unfolding, `(rfl)`, so that a long chain of writes is passed write by write. -/

theorem seqs_wr (s : State) (f : Fld) (v : Nat) : (s.wr f v).seqs = s.seqs := (rfl)
theorem seqs_set1 (s : State) (f : Fld) : (s.set1 f).seqs = s.seqs := (rfl)
theorem seqs_clr1 (s : State) (f : Fld) : (s.clr1 f).seqs = s.seqs := (rfl)
theorem seq_wr (s : State) (f : Fld) (v m : Nat) : (s.wr f v).seq m = s.seq m := (rfl)
theorem seq_set1 (s : State) (f : Fld) (m : Nat) : (s.set1 f).seq m = s.seq m := (rfl)
theorem seq_clr1 (s : State) (f : Fld) (m : Nat) : (s.clr1 f).seq m = s.seq m := (rfl)

/-- A port is the same where the Cellar is. -/
theorem port_of_cel {m : Nat} (h : t.cel = s.cel) : t.port m = s.port m := by
  rw [State.port, h, State.port]

theorem port_modPort_same {n : Nat} {f : OtPort → OtPort} : (s.modPort n f).port n = f (s.port n) := Tbl.getD_setD_same _ _ _ _

theorem port_modPort_other {m n : Nat} {f : OtPort → OtPort} (h : m ≠ n) : (s.modPort n f).port m = s.port m := Tbl.getD_setD_other _ _ _ _ h

theorem seq_modPort (s : State) (n : Nat) (f : OtPort → OtPort) (m : Nat) : (s.modPort n f).seq m = s.seq m := (rfl)
theorem seqs_modPort (s : State) (n : Nat) (f : OtPort → OtPort) : (s.modPort n f).seqs = s.seqs := (rfl)
theorem port_modSeq (s : State) (n : Nat) (f : Seq → Seq) (m : Nat) : (s.modSeq n f).port m = s.port m := (rfl)
theorem port_wr (s : State) (f : Fld) (v m : Nat) : (s.wr f v).port m = s.port m := (rfl)

/-! ## The frame as an equation of states -/

/-- States with the same parts and the same queue are equal. -/
theorem State.eq_of_same (h : ∀ p : Part, p.same s t) (hp : t.pending = s.pending) : t = s := by
  have hparts := And.intro (h .regs) <| And.intro (h .pwr) <| And.intro (h .chm) <| And.intro (h .atc) <| And.intro (h .std) <| And.intro (h .clo) <|
    And.intro (h .stg) <| And.intro (h .porch) <| And.intro (h .hall) <| And.intro (h .nvm) <| And.intro (h .pan) <| And.intro (h .ldr) <|
    And.intro (h .cel) <| And.intro (h .seqs) <| And.intro (h .lnd) <| And.intro (h .scu) <| And.intro (h .bsm) <| And.intro (h .sta) <|
    And.intro (h .fab) <| And.intro (h .jtag) <| And.intro (h .out) (h .free)
  cases s
  cases t
  simp_all [Part.same]

/-- Where nothing but the listed parts differs, a state that agrees with both is the second. -/
theorem Only.eq_of_same {l : List Part} {u : State} (h : Only l s t) (hp : u.pending = s.pending) (hin : ∀ p ∈ l, p.same u t)
    (hout : ∀ p, p ∉ l → p.same s u) : t = u := by
  refine State.eq_of_same (fun p => ?_) (h.1.trans hp.symm)
  by_cases hl : p ∈ l
  · exact hin p hl
  · have ht := h.2 p hl
    have hu := hout p hl
    cases p <;> exact Eq.trans ht (Eq.symm hu)

theorem Only.eq_regs_seqs (h : Only [.regs, .seqs] s t) : t = { s with regs := t.regs, seqs := t.seqs } :=
  h.eq_of_same rfl (by simp [Part.same]) fun p hp => by cases p <;> first | rfl | exact absurd (by simp) hp

theorem Only.eq_seqs_cel (h : Only [.seqs, .cel] s t) : t = { s with seqs := t.seqs, cel := t.cel } :=
  h.eq_of_same rfl (by simp [Part.same]) fun p hp => by cases p <;> first | rfl | exact absurd (by simp) hp

end Sys2Proof.Machine
end

section
/-!
PROOF. Events of the sequencers and their control (R305, R306, R319, R320, R323, R324): the fields of an event word, what raising an event leaves where
its sequencer does not wait, WAIT and its timeout, mail, and the control registers of a port sequencer.
-/
namespace Sys2Proof.Machine

variable {s : State} {n : Nat}

/-! ## Event words (Table 8-8) -/

/-- An event word fits its 64 bits. -/
theorem toNat_evWord (code detail desc cw arg : Nat) : (evWord code detail desc cw arg).toNat =
    code % 256 + desc % 256 * 2 ^ 8 + detail % 256 * 2 ^ 16 + cw % 256 * 2 ^ 24 + arg % 2 ^ 32 * 2 ^ 32 := by
  rw [evWord, BitVec.toNat_ofNat, Nat.mod_eq_of_lt]
  have := Nat.mod_lt arg (Nat.two_pow_pos 32)
  omega

theorem evWord_code (code detail desc cw arg : Nat) : (evWord code detail desc cw arg).toNat % 256 = code % 256 := by
  rw [toNat_evWord]
  omega

theorem evWord_desc (code detail desc cw arg : Nat) : (evWord code detail desc cw arg).toNat / 2 ^ 8 % 256 = desc % 256 := by
  rw [toNat_evWord]
  omega

theorem evWord_detail (code detail desc cw arg : Nat) : (evWord code detail desc cw arg).toNat / 2 ^ 16 % 256 = detail % 256 := by
  rw [toNat_evWord]
  omega

theorem evWord_arg (code detail desc cw arg : Nat) : (evWord code detail desc cw arg).toNat / 2 ^ 32 = arg % 2 ^ 32 := by
  rw [toNat_evWord]
  omega

/-! ## Raising an event (R306) -/

theorem onlySeq_raise (e : U64) : OnlySeq s (raise s n e) n := onlySeq_modSeq

theorem raise_sorted {e : U64} (hs : Tbl.sorted s.seqs = true) : Tbl.sorted (raise s n e).seqs = true := modSeq_sorted hs

theorem deliver_of_not_waiting {q : Seq} (h : q.wait = none) : q.deliver n = q := by
  rw [Seq.deliver, h]

/-- An event raised at a sequencer that does not wait and has room joins its queue. -/
theorem seq_raise_of_room (hs : Tbl.sorted s.seqs = true) (e : U64) (hwait : (s.seq n).wait = none) (hheld : (s.seq n).held = [])
    (hroom : (s.seq n).evq.length < 64) : (raise s n e).seq n = { s.seq n with evq := (s.seq n).evq ++ [e] } := by
  rw [raise, seq_modSeq_same hs]
  have hroom' : (decide ((s.seq n).evq.length < 64) && (s.seq n).held.isEmpty) = true := by simp [hroom, hheld]
  simp only [hroom', if_true]
  exact deliver_of_not_waiting hwait

/-! ## WAIT (R305) -/

theorem takeFirst_of_prefix {α : Type} {p : α → Bool} {pre rest : List α} {e : α} (he : p e = true) (hpre : ∀ x ∈ pre, p x = false) :
    takeFirst p (pre ++ e :: rest) = some (e, pre ++ rest) := by
  induction pre with
  | nil => simp [takeFirst, he]
  | cons a pre ih =>
    have ha := hpre a List.mem_cons_self
    simp [takeFirst, ha, ih fun x hx => hpre x (List.mem_cons_of_mem a hx)]

theorem takeFirst_eq_none {α : Type} {p : α → Bool} {l : List α} (h : ∀ x ∈ l, p x = false) : takeFirst p l = none := by
  induction l with
  | nil => rfl
  | cons a l ih => simp [takeFirst, h a List.mem_cons_self, ih fun x hx => h x (List.mem_cons_of_mem a hx)]

theorem refill_events (q : Seq) : q.refill.evq ++ q.refill.held = q.evq ++ q.held := by
  simp [Seq.refill]

/-- What WAIT does once it runs, unless the supervisor enters a low-power state. -/
theorem execWait_started {rd rs : BitVec 5} {k : BitVec 14} (hr : Ready s n (wordP 0x50 rd rs k)) (hmode : n = 64 → pwrMode s = 0) (h : s.inv = true) :
    exec (.wait n rd rs k) s = .next (match takeFirst (evSelected n k.toNat) (s.seq n).evq with
      | some (e, rest) => (setNext (started s n) n rd e).modSeq n fun q => ({ q with evq := rest }).refill
      | none => (pcNext (started s n) n).modSeq n fun q => { q with
          state := 2
          wait := some (WaitRec.mk rd.toNat k.toNat (if ((s.seq n).reg rs.toNat).toNat = 0 then none
            else some (s.pwr.time.toNat + ((s.seq n).reg rs.toNat).toNat))) }) := by
  have hstay : (decide (n = 64) && decide (pwrMode (started s n) ≠ 0)) = false := by
    by_cases hn : n = 64
    · have hm : pwrMode (started s n) = 0 := hmode hn
      simp [hm]
    · simp [hn]
  have hevq : ((started s n).seq n).evq = (s.seq n).evq := by rw [seq_started h]
  refine congrArg Host.Outcome.next ((gyn_started hr).trans ?_)
  simp only [hstay, Bool.false_eq_true, if_false, reg_started h, hevq]
  rfl

/-- The pending WAIT whose time is over takes the TIMEOUT event. -/
theorem seq_waitTimeout (hs : Tbl.sorted s.seqs = true) {r m d : Nat} (hw : (s.seq n).wait = some { rd := r, mask := m, deadline := some d })
    (hst : (s.seq n).state = 2) : ∃ u, exec (.waitTimeout n) s = .next u ∧ OnlySeq s u n ∧
      u.seq n = ({ s.seq n with wait := none, state := 1 }).setReg r (evWord 0 0) := by
  refine ⟨_, rfl, onlySeq_modSeq, ?_⟩
  rw [seq_modSeq_same hs, hw, hst]
  rfl

theorem setReg_wait (q : Seq) (i : Nat) (v : U64) : (q.setReg i v).wait = q.wait := by
  unfold Seq.setReg
  split <;> rfl

theorem setReg_state (q : Seq) (i : Nat) (v : U64) : (q.setReg i v).state = q.state := by
  unfold Seq.setReg
  split <;> rfl

theorem setReg_pc (q : Seq) (i : Nat) (v : U64) : (q.setReg i v).pc = q.pc := by
  unfold Seq.setReg
  split <;> rfl

/-! ## Mail (R306) -/

theorem execSeqMail_eq (hn : n < 64) (hpop : populated s n = true) (v : U64) : exec (.seqMail n v) s = .next (
    if 64 ≤ (s.seq n).evq.length then s.modSeq n fun q => { q with mailLost := true } else raise s n (evWord 0x09 0 0xFF 0 v.toNat)) := by
  have hin : (decide (64 ≤ n) || !populated s n) = false := by simp [hpop, Nat.not_le.2 hn]
  show execSeqMail n v s = _
  simp only [execSeqMail, hin, Bool.false_eq_true, if_false]
  split <;> rfl

/-- Settles O9: by the rules for raising and taking events. -/
theorem sequencerEvents : Obligations.SequencerEvents := by
  intro s n rd rs k pad v h q t
  have hs := seqs_sorted h
  have hg := (ok_parts.1 (seq_ok_of_inv h n)).2.2.2
  refine ⟨fun hr hmode => ⟨fun pre e rest hevq he hpre => ?take, fun hnone => ?waits⟩, fun r m d hw hst => ?timeout,
    fun hr hn hwait hheld hroom => ?post, fun hn hpop hwait hheld hroom => ?mail, fun hn hpop hfull => ?lost⟩
  case take =>
    obtain ⟨honly, hseq, hreg⟩ := setNext_regStep (n := n) h rd e
    change (setNext (started s n) n rd e).seq n = _ at hseq
    have hsorted : Tbl.sorted (setNext (started s n) n rd e).seqs = true := modSeq_sorted (modSeq_sorted (started_sorted h))
    refine ⟨_, execWait_started hr hmode h, ?_⟩
    rw [hevq, takeFirst_of_prefix he hpre]
    refine ⟨onlySeq_trans honly onlySeq_modSeq, ?_⟩
    rw [seq_modSeq_same hsorted]
    refine ⟨by rw [hseq]; rfl, by rw [hseq]; rfl, hreg, ?_⟩
    rw [refill_events, hseq]
  case waits =>
    refine ⟨_, execWait_started hr hmode h, ?_⟩
    rw [takeFirst_eq_none hnone]
    refine ⟨onlySeq_trans onlySeq_started (onlySeq_trans onlySeq_pcNext onlySeq_modSeq), ?_⟩
    dsimp only
    rw [seq_modSeq_same (s := pcNext (started s n) n) (modSeq_sorted (started_sorted h)), seq_pcNext (started_sorted h), seq_started h]
  case timeout =>
    obtain ⟨u, hu, honly, hseq⟩ := seq_waitTimeout hs hw hst
    refine ⟨u, hu, honly, ?_⟩
    rw [hseq]
    exact ⟨setReg_wait _ _ _, setReg_state _ _ _, setReg_pc _ _ _, fun j => reg_setReg (q := { s.seq n with wait := none, state := 1 }) hg r j _⟩
  case post =>
    have hne : 64 ≠ n := by omega
    have hseq64 : (started s n).seq 64 = s.seq 64 := seq_modSeq_other hne
    have hword : evWord 0x10 0 n 0 (((started s n).seq n).reg rd.toNat).toNat = evWord 0x10 0 n 0 (q.reg rd.toNat).toNat := by rw [reg_started h]
    have hraised : (raise (started s n) 64 (evWord 0x10 0 n 0 (q.reg rd.toNat).toNat)).seq 64 =
        { s.seq 64 with evq := (s.seq 64).evq ++ [evWord 0x10 0 n 0 (q.reg rd.toNat).toNat] } := by
      rw [seq_raise_of_room (started_sorted h) _ (by rw [hseq64, hwait]) (by rw [hseq64, hheld]) (by rw [hseq64]; exact hroom), hseq64]
    obtain ⟨hstart, hstartOther⟩ := onlySeq_started (s := s) (n := n)
    obtain ⟨hraise, hraiseOther⟩ := onlySeq_raise (s := started s n) (n := 64) (evWord 0x10 0 n 0 (q.reg rd.toNat).toNat)
    refine ⟨_, evWord 0x10 0 n 0 (q.reg rd.toNat).toNat, congrArg Host.Outcome.next ((gyn_started hr).trans (by rw [hword])), rfl, fun m hm hm64 => ?_, ?_, ?_,
      evWord_code _ _ _ _ _, ?_, evWord_arg _ _ _ _ _⟩
    · rw [pcNext, seq_modSeq_other hm, hraiseOther m hm64, hstartOther m hm]
    · rw [seq_pcNext (raise_sorted (started_sorted h)), hraiseOther n (Ne.symm hne), seq_started h]
    · rw [pcNext, seq_modSeq_other hne, hraised]
    · rw [evWord_desc]
      omega
  case mail =>
    refine ⟨_, evWord 0x09 0 0xFF 0 v.toNat, execSeqMail_eq hn hpop v, ?_, ?_, evWord_code _ _ _ _ _, evWord_arg _ _ _ _ _⟩
    · rw [if_neg (Nat.not_le.2 hroom)]
      exact onlySeq_raise _
    · rw [if_neg (Nat.not_le.2 hroom), seq_raise_of_room hs _ hwait hheld hroom]
  case lost =>
    refine ⟨_, execSeqMail_eq hn hpop v, ?_⟩
    rw [if_pos (Nat.le_of_eq hfull.symm)]
    exact ⟨onlySeq_modSeq, seq_modSeq_same hs⟩

/-! ## The control registers of a port sequencer (R319, R320, R323, R324) -/

theorem execSequencerRun_stopped (hn : n < 64) (hpop : populated s n = true) (hrun : s.on (CEL_SEQ_CTL.RUN n) = false) (v : U64) :
    exec (.sequencerRun n v) s = .next ((((((s.wr (CEL_SEQ_CTL.LOAD_EN n) (bits v.toNat 2 1)).wr (CEL_SEQ_CTL.TRAP_VEC n) (bits v.toNat 18 14)).wr
      (CEL_SEQ_CTL.ENTRY n) (bits v.toNat 4 14)).wr (CEL_SEQ_CTL.LEVEL n) (bits v.toNat 3 1)).set1 (CEL_SEQ_CTL.RUN n)).modSeq n
        fun q => { q with pc := bits v.toNat 4 14, state := 1, wait := none }) := by
  have hin : (decide (64 ≤ n) || !populated s n) = false := by simp [hpop, Nat.not_le.2 hn]
  show execSequencerRun n v s = _
  simp only [execSequencerRun, hin, hrun, Bool.false_eq_true, if_false]

theorem execSequencerHalt_running (hn : n < 64) (hpop : populated s n = true) (hrun : s.on (CEL_SEQ_CTL.RUN n) = true) (v : U64) :
    exec (.sequencerHalt n v) s = .next (((s.wr (CEL_SEQ_CTL.LOAD_EN n) (bits v.toNat 2 1)).clr1 (CEL_SEQ_CTL.RUN n)).modSeq n
      fun q => { q with state := 5, wait := none }) := by
  have hin : (decide (64 ≤ n) || !populated s n) = false := by simp [hpop, Nat.not_le.2 hn]
  show execSequencerHalt n v s = _
  simp only [execSequencerHalt, hin, hrun, Bool.false_eq_true, if_false, if_true]

theorem execSeqLoadData_enabled (hn : n < 64) (hload : s.on (CEL_SEQ_CTL.LOAD_EN n) = true) (hrun : s.on (CEL_SEQ_CTL.RUN n) = false) (v : U64) :
    exec (.seqLoadData n v) s = .next ((localWrite s n (8 * s.rd (CEL_SEQ_LOAD_ADDR.ADDR n)) 8 v.toNat).wr (CEL_SEQ_LOAD_ADDR.ADDR n)
      (8 * s.rd (CEL_SEQ_LOAD_ADDR.ADDR n) / 8 + 1)) := by
  have hgo : (decide (n < 64) && s.on (CEL_SEQ_CTL.LOAD_EN n) && !s.on (CEL_SEQ_CTL.RUN n)) = true := by simp [hn, hload, hrun]
  exact if_pos hgo

theorem watchdogCounts_of_running (hpor : s.pwr.por = false) (hst : s.pwr.st = .ps0 ∨ s.pwr.st = .ps1 ∨ s.pwr.st = .ps2) : watchdogCounts s = true := by
  rcases hst with hst | hst | hst <;> simp [watchdogCounts, hpor, hst]

theorem bitAt_zero_eq_testBit (v i : Nat) : (bits v i 1 != 0) = v.testBit i := by
  rw [bits, Nat.testBit_eq_decide_div_mod_eq, pow_one]
  by_cases hb : v / 2 ^ i % 2 = 1
  · simp [hb]
  · simp [show v / 2 ^ i % 2 = 0 by omega]

/-- Settles O11: each register's effect, and the fields that its writes leave. -/
theorem sequencerControl : Obligations.SequencerControl := by
  intro s n v h
  have hseqs := seqs_sorted h
  have hregs := regs_sorted h
  have frame {c : Instr} {t : State} (hc : touches c = [.regs, .seqs]) (ht : exec c s = .next t) : t = { s with regs := t.regs, seqs := t.seqs } :=
    Only.eq_regs_seqs (hc ▸ only_of_exec ht)
  refine ⟨fun hn hpop hrun => ?run, fun hn hpop hrun => ?halt, fun hn hst => ?restart, fun hn hload hrun => ?load, fun hv => ?kick,
    fun hpor hst hwarn hwait hheld hroom => ?first, fun hpor hst hwarn => ?second⟩
  case run =>
    have h1 : Tbl.sorted (s.wr (CEL_SEQ_CTL.LOAD_EN n) (bits v.toNat 2 1)).regs = true := wr_sorted hregs
    have h2 := wr_sorted (f := CEL_SEQ_CTL.TRAP_VEC n) (v := bits v.toNat 18 14) h1
    have h3 := wr_sorted (f := CEL_SEQ_CTL.ENTRY n) (v := bits v.toNat 4 14) h2
    have h4 := wr_sorted (f := CEL_SEQ_CTL.LEVEL n) (v := bits v.toNat 3 1) h3
    refine ⟨_, execSequencerRun_stopped hn hpop hrun v, (State.modSeq_on ..).trans (on_set1_same h4 (Nat.le_of_ble_eq_true rfl) (Nat.succ_ne_zero 0)), ?_, ?_, ?_,
      by rw [seq_modSeq_same (by simpa only [seqs_set1, seqs_wr] using hseqs)]; simp only [seq_set1, seq_wr, bits],
     
      fun m hm => by rw [seq_modSeq_other hm]; simp only [seq_set1, seq_wr], fun f hf => ?_, frame rfl (execSequencerRun_stopped hn hpop hrun v)⟩
    · rw [State.modSeq_rd, State.set1]
      exact rd_wr_bits h4 rfl rfl rfl (rd_wr_bits h3 rfl rfl rfl (rd_wr_bits h2 rfl rfl rfl (rd_bits_wr_same _ _ h1 (Nat.le_of_ble_eq_true rfl))))
    · rw [State.modSeq_rd, State.set1]
      exact rd_wr_bits h4 rfl rfl rfl (rd_wr_bits h3 rfl rfl rfl (rd_bits_wr_same _ _ h2 (Nat.le_of_ble_eq_true rfl)))
    · rw [State.modSeq_rd, State.set1]
      exact rd_wr_bits h4 rfl rfl rfl (rd_bits_wr_same _ _ h3 (Nat.le_of_ble_eq_true rfl))
    · rw [State.modSeq_rd, State.set1, State.rd_wr_other _ _ _ _ hf, State.rd_wr_other _ _ _ _ hf, State.rd_wr_other _ _ _ _ hf, State.rd_wr_other _ _ _ _ hf,
        State.rd_wr_other _ _ _ _ hf]
  case halt =>
    have h1 : Tbl.sorted (s.wr (CEL_SEQ_CTL.LOAD_EN n) (bits v.toNat 2 1)).regs = true := wr_sorted hregs
    refine ⟨_, execSequencerHalt_running hn hpop hrun v, (State.modSeq_on ..).trans (on_clr1_same h1 (Nat.le_of_ble_eq_true rfl)), ?_, by rw [seq_modSeq_same (by simpa only [seqs_clr1, seqs_wr] using hseqs)]; simp only [seq_clr1, seq_wr],
     
      fun m hm => by rw [seq_modSeq_other hm]; simp only [seq_clr1, seq_wr], ?_, frame rfl (execSequencerHalt_running hn hpop hrun v)⟩
    · rw [State.modSeq_on, State.clr1, ← bitAt_zero_eq_testBit]
      refine on_wr_bits h1 rfl rfl rfl ?_
      rw [on_wr_same hregs (Nat.le_of_ble_eq_true rfl)]
      exact congrArg (· != 0) (Nat.mod_mod _ _)
    · exact (RegsBut.wr (regsBut_wr hregs (Nat.le_of_ble_eq_true rfl) (by simp)) h1 (Nat.le_of_ble_eq_true rfl) (by simp)).of_regs rfl
  case restart =>
    have hgo : (decide (n < 64) && decide ((s.seq n).state = 4)) = true := by simp [hn, hst]
    refine ⟨_, congrArg Host.Outcome.next (if_pos hgo), onlySeq_modSeq, ?_⟩
    rw [seq_modSeq_same hseqs]
    refine ⟨fun r => ?_, rfl, rfl, rfl, rfl, rfl, rfl⟩
    rw [Seq.reg]
    exact ite_self _
  case load =>
    have hram := (ok_parts.1 (seq_ok_of_inv h n)).2.2.1
    refine ⟨_, execSeqLoadData_enabled hn hload hrun v, ?_, fun b => ?_, fun m hm => (seq_of_seqs (State.wr_seqs ..)).trans (seq_modSeq_other hm), ?_, frame rfl (execSeqLoadData_enabled hn hload hrun v)⟩
    · exact State.rd_wr_same _ _ _ hregs (Nat.le_of_ble_eq_true rfl)
    · have hseq : (localWrite s n (8 * s.rd (CEL_SEQ_LOAD_ADDR.ADDR n)) 8 v.toNat).seq n = { s.seq n with
          ram := Tbl.writeBytes (s.seq n).ram 0 (8 * s.rd (CEL_SEQ_LOAD_ADDR.ADDR n)) 8 v.toNat } := seq_modSeq_same hseqs
      exact (congrArg (fun q : Seq => Tbl.getD q.ram b 0) hseq).trans (getD_writeBytes _ (Bool.and_eq_true_iff.1 hram).1 _ _ _ _)
    · exact regsBut_trans (regsBut_of_regs rfl) (regsBut_wr hregs (Nat.le_of_ble_eq_true rfl) (by simp))
  case kick =>
    exact ⟨_, congrArg Host.Outcome.next (if_pos hv), on_clr1_same hregs (by decide), regsBut_wr hregs (by decide) (by simp), rfl⟩
  case first =>
    have hgo : (watchdogCounts s && !s.on STD_SUP_STATUS.WDOG_WARN) = true := by simp [watchdogCounts_of_running hpor hst, hwarn]
    refine ⟨_, evWord 0x16 0, congrArg Host.Outcome.next (if_pos hgo), on_set1_same hregs (by decide) (by decide), ?_, fun m hm => ?_, ?_, evWord_code _ _ _ _ _, rfl⟩
    · exact (regsBut_wr hregs (by decide) (by simp)).of_regs rfl
    · rw [(onlySeq_raise _).2 m hm, seq_set1]
    · rw [seq_raise_of_room (s := s.set1 STD_SUP_STATUS.WDOG_WARN) hseqs _ hwait hheld hroom, seq_set1]
  case second =>
    have hgo : (watchdogCounts s && s.on STD_SUP_STATUS.WDOG_WARN) = true := by simp [watchdogCounts_of_running hpor hst, hwarn]
    exact congrArg Host.Outcome.next (if_pos hgo)

end Sys2Proof.Machine
end

section
/-!
PROOF. The media instructions of a port sequencer (R307 to R310, R317): what the checks of MISSUE, MCTL and ODONE read does not depend on whether the
sequencer stands or runs, so a ready instruction whose checks pass does what its last branch says.
-/
namespace Sys2Proof.Machine

variable {s : State} {n : Nat}

/-! ## What the checks read, once the instruction runs -/

theorem ram_started (h : s.inv = true) (m : Nat) : ((started s n).seq m).ram = (s.seq m).ram := seq_running_ram (seqs_sorted h) m

theorem descByte_started (h : s.inv = true) (m i off len : Nat) : descByte (started s n) m i off len = descByte s m i off len := by
  rw [descByte, ram_started h, descByte]

theorem recipeVerify_started (h : s.inv = true) (m i : Nat) : recipeVerify (started s n) m i = recipeVerify s m i := by
  rw [recipeVerify, ram_started h, descByte_started h, recipeVerify]

theorem readCycles_started (h : s.inv = true) (m a len : Nat) : readCycles (started s n) m a len = readCycles s m a len := by
  simp only [readCycles, localRead_started h]

theorem descs_started (h : s.inv = true) : ((started s n).seq n).descs = (s.seq n).descs := by
  rw [seq_started h]

theorem paramBusy_started (h : s.inv = true) : ((started s n).seq n).paramBusy = (s.seq n).paramBusy := by
  rw [seq_started h]

theorem passEarned_started (h : s.inv = true) (i : Nat) (hw : DescHw) : passEarned (started s n) n i hw = passEarned s n i hw := by
  simp only [passEarned, recipeVerify_started h]

theorem onlySeq_setNext {rd : BitVec 5} {v : U64} : OnlySeq s (setNext s n rd v) n := onlySeq_trans onlySeq_modSeq onlySeq_pcNext

/-- The registers and the program counter after an instruction that writes rd, over any state of the sequencers. -/
theorem seq_setNext {rd : BitVec 5} {v : U64} (hs : Tbl.sorted s.seqs = true) :
    (setNext s n rd v).seq n = { (s.seq n).setReg rd.toNat v with pc := ((s.seq n).setReg rd.toNat v).pc + 4 } := by
  rw [setNext, seq_pcNext (modSeq_sorted hs), seq_modSeq_same hs]

theorem reg_setNext_same {rd : BitVec 5} {v : U64} (hs : Tbl.sorted s.seqs = true) (hg : Tbl.wf 0 (s.seq n).g = true) (hrd : rd ≠ 0) :
    ((setNext s n rd v).seq n).reg rd.toNat = v := by
  have hne : rd.toNat ≠ 0 := fun hz => hrd (BitVec.eq_of_toNat_eq hz)
  rw [seq_setNext hs]
  exact (reg_setReg hg rd.toNat rd.toNat v).trans (if_pos ⟨rfl, hne⟩)

theorem any_not_of_all {α : Type} {l : List α} {p : α → Bool} (h : l.all p = true) : (l.any fun a => !p a) = false := by
  rw [List.all_eq_not_any_not, Bool.not_eq_true'] at h
  exact h

theorem port_setNext {rd : BitVec 5} {v : U64} (m : Nat) : (setNext s n rd v).port m = s.port m := (rfl)

/-- The frame of an instruction that runs, changes its sequencer and the Cellar, and writes rd. -/
theorem only_started_setNext {u : State} {rd : BitVec 5} {v : U64} (hu : Only [.seqs, .cel] (started s n) u) : Only [.seqs, .cel] s (setNext u n rd v) := by
  obtain ⟨hpend, hparts⟩ := hu
  refine ⟨hpend, fun p hp => ?_⟩
  have hpart := hparts p hp
  cases p <;> first | exact hpart | exact absurd (by simp) hp

/-! ## MISSUE (R308, R309) -/

/-- A command frame and its data frames queued for a descriptor, which is ACTIVE from then on. -/
def missueQueued (s : State) (n i total : Nat) (hw : DescHw) (f : TxFrame) (wd : List TxFrame) : State :=
  (setDescState (s.modSeq n fun q => { q with
    descs := Tbl.put q.descs i { hw with cwSent := total, queued := hw.queued + 1, open_ := hw.open_ ++ [total] } }) n i 2).modPort n fun p =>
      if hw.op.isHost then { p with cmdHost := p.cmdHost ++ [f], wdHost := p.wdHost ++ wd } else { p with cmdBg := p.cmdBg ++ [f], wdBg := p.wdBg ++ wd }

section
variable {i total : Nat} {hw : DescHw} {f : TxFrame} {wd : List TxFrame}

theorem missueQueued_sorted (hs : Tbl.sorted s.seqs = true) : Tbl.sorted (missueQueued s n i total hw f wd).seqs = true := by
  rw [missueQueued, seqs_modPort, setDescState]
  exact modSeq_sorted (modSeq_sorted hs)

theorem missueQueued_seq (hs : Tbl.sorted s.seqs = true) : ((missueQueued s n i total hw f wd).seq n).g = (s.seq n).g ∧
    ((missueQueued s n i total hw f wd).seq n).pc = (s.seq n).pc := by
  rw [missueQueued, seq_modPort, setDescState, seq_modSeq_same (modSeq_sorted hs), seq_modSeq_same hs]
  exact ⟨rfl, rfl⟩

theorem missueQueued_seq_other {m : Nat} (hm : m ≠ n) : (missueQueued s n i total hw f wd).seq m = s.seq m := by
  rw [missueQueued, seq_modPort, setDescState, seq_modSeq_other hm, seq_modSeq_other hm]

theorem missueQueued_port : (missueQueued s n i total hw f wd).port n = if hw.op.isHost then
    { s.port n with cmdHost := (s.port n).cmdHost ++ [f], wdHost := (s.port n).wdHost ++ wd } else
    { s.port n with cmdBg := (s.port n).cmdBg ++ [f], wdBg := (s.port n).wdBg ++ wd } := port_modPort_same

theorem missueQueued_port_other {m : Nat} (hm : m ≠ n) : (missueQueued s n i total hw f wd).port m = s.port m := port_modPort_other hm

theorem missueQueued_only : Only [.seqs, .cel] s (missueQueued s n i total hw f wd) := by
  refine only_of_mask (m := 12288) ?_ (by decide)
  exact modCel_mask (by decide) (modSeq_mask (by decide) (modSeq_mask (by decide) (mask_refl _ s)))

end

/-- MISSUE whose checks pass. -/
theorem execMissue_sends {rd rs : BitVec 5} {pad : BitVec 14} {hw : DescHw} {i a total : Nat} {els : List (Nat × Nat)} (h : s.inv = true)
    (hr : Ready s n (wordP 0x60 rd rs pad)) (hi : ((s.seq n).reg rd.toNat).toNat = i) (ha : ((s.seq n).reg rs.toNat).toNat = a)
    (hels : readCycles s n (a + 0x10) (localRead s n (a + 3) 1) = els)
    (htotal : (if hw.op.kind = 2 then hw.cwSent + cwSum 0x08 els else hw.cwSent + cwSum 0x09 els) = total)
    (hfind : Tbl.find (s.seq n).descs i = some hw) (hended : hw.ended = false) (hst : descByte s n i 0 1 = 1 ∨ descByte s n i 0 1 = 2)
    (hload : localLoadOk n a = true) (hload' : localLoadOk n (a + 63) = true) (hret : portRetired s n = false) (hdie : diePresent s n hw.op.die = true)
    (hlen : cycLenOk (localRead s n (a + 3) 1) = true)
    (hok : els.all (fun e => elemOkData hw.op.kind hw.op.planes (s.rd (CEL_SEQ_ROWFMT.PAGE_BITS n)) (recipeVerify s n i) e) = true)
    (hbound : total ≤ cwBound s n i hw.op) (hread : cwSum 0x09 els ≤ cwBound s n i hw.op) (herase : hw.op.kind = 3 → eraseAllowed s n hw.op = true)
    (hopen : hw.open_.length < 4) :
    ∃ f wd, exec (.missue n rd rs pad) s = .next (setNext (missueQueued (started s n) n i total hw f wd) n rd 0) ∧
      f.typ = 1 ∧ f.die = hw.op.die ∧ f.tag = i := by
  subst hi ha hels htotal
  have hret' : portRetired (started s n) n = false := hret
  have hdie' : diePresent (started s n) n hw.op.die = true := hdie
  have hrow : (started s n).rd (CEL_SEQ_ROWFMT.PAGE_BITS n) = s.rd (CEL_SEQ_ROWFMT.PAGE_BITS n) := (rfl)
  have hcw (i : Nat) : cwBound (started s n) n i hw.op = cwBound s n i hw.op := (rfl)
  have hlive : (hw.ended || decide (descByte s n ((s.seq n).reg rd.toNat).toNat 0 1 = 3)) = false := by
    rw [hended, Bool.false_or, decide_eq_false_iff_not]
    omega
  have hst' : (decide (descByte s n ((s.seq n).reg rd.toNat).toNat 0 1 = 1) || decide (descByte s n ((s.seq n).reg rd.toNat).toNat 0 1 = 2)) = true := by
    simpa using hst
  have hera : (decide (hw.op.kind = 3) && !eraseAllowed (started s n) n hw.op) = false := by
    by_cases hk : hw.op.kind = 3
    · have he : eraseAllowed (started s n) n hw.op = true := herase hk
      simp [he]
    · simp [hk]
  apply Exists.intro
  apply Exists.intro
  constructor
  · refine congrArg Host.Outcome.next ((gyn_started hr).trans ?_)
    simp only [reg_started h, descByte_started h, recipeVerify_started h, readCycles_started h, localRead_started h, descs_started h, hload, hload', hret', hfind,
      hlive, hst', hdie', hlen, hrow, hcw, any_not_of_all hok, hera, Nat.not_lt.2 hbound, Nat.not_lt.2 hread, Nat.not_le.2 hopen, Bool.not_true,
      Bool.or_false, Bool.false_eq_true, if_false, decide_false]
    rfl
  · exact ⟨rfl, rfl, rfl⟩

/-! ## MCTL (R308, R309) -/

/-- A control frame queued. -/
def mctlQueued (s : State) (n die kind : Nat) (param : Bool) (f : TxFrame) : State :=
  (s.modPort n fun p => { p with
    cmdHost := p.cmdHost ++ [f], ctl := p.ctl ++ [{ die := die, kind := kind, tag := (s.port n).nextCtlTag, param := param }],
    nextCtlTag := if (s.port n).nextCtlTag = 127 then 64 else (s.port n).nextCtlTag + 1 }).modSeq n fun q => { q with paramBusy := param }

section
variable {die kind : Nat} {param : Bool} {f : TxFrame}

theorem mctlQueued_sorted (hs : Tbl.sorted s.seqs = true) : Tbl.sorted (mctlQueued s n die kind param f).seqs = true := modSeq_sorted hs

theorem mctlQueued_seq (hs : Tbl.sorted s.seqs = true) : (mctlQueued s n die kind param f).seq n = { s.seq n with paramBusy := param } := by
  rw [mctlQueued, seq_modSeq_same (s := s.modPort n _) hs, seq_modPort]

theorem mctlQueued_seq_other {m : Nat} (hm : m ≠ n) : (mctlQueued s n die kind param f).seq m = s.seq m := by
  rw [mctlQueued, seq_modSeq_other hm, seq_modPort]

theorem mctlQueued_cmdHost : ((mctlQueued s n die kind param f).port n).cmdHost = (s.port n).cmdHost ++ [f] := by
  rw [mctlQueued, port_modSeq, port_modPort_same]

theorem mctlQueued_port_other {m : Nat} (hm : m ≠ n) : (mctlQueued s n die kind param f).port m = s.port m := by
  rw [mctlQueued, port_modSeq, port_modPort_other hm]

theorem mctlQueued_only : Only [.seqs, .cel] s (mctlQueued s n die kind param f) := by
  refine only_of_mask (m := 12288) ?_ (by decide)
  exact modSeq_mask (by decide) (modCel_mask (by decide) (mask_refl _ s))

end

/-- MCTL whose checks pass. -/
theorem execMctl_sends {rd rs : BitVec 5} {pad : BitVec 14} {i a : Nat} {els : List (Nat × Nat)} (h : s.inv = true)
    (hr : Ready s n (wordP 0x61 rd rs pad)) (hi : ((s.seq n).reg rd.toNat).toNat = i) (ha : ((s.seq n).reg rs.toNat).toNat = a)
    (hels : readCycles s n (a + 0x10) (localRead s n (a + 3) 1) = els) (hload : localLoadOk n a = true) (hload' : localLoadOk n (a + 63) = true)
    (hret : portRetired s n = false) (hmin : 6 ≤ i / 2 ^ 8 % 16) (hmax : i / 2 ^ 8 % 16 ≤ 9) (hlen : cycLenOk (localRead s n (a + 3) 1) = true)
    (hok : els.all (elemOkCtl (i / 2 ^ 8 % 16)) = true) (hdie : diePresent s n (i % 16) = true) (harray : arrayOp s n els = none)
    (hbusy : (s.seq n).paramBusy = false)
    (hroom : (Tbl.getD (s.port n).dieQ (i % 16) []).length + (s.port n).ctl.countP (fun c => c.die == i % 16) < 8) :
    ∃ f param, exec (.mctl n rd rs pad) s = .next (setNext (mctlQueued (started s n) n (i % 16) (i / 2 ^ 8 % 16) param f) n rd 0) ∧
      f.typ = 1 ∧ f.die = i % 16 ∧ f.tag = (s.port n).nextCtlTag := by
  subst hi ha hels
  have hret' : portRetired (started s n) n = false := hret
  have hdie' : diePresent (started s n) n (((s.seq n).reg rd.toNat).toNat % 16) = true := hdie
  have harray' : arrayOp (started s n) n (readCycles s n (((s.seq n).reg rs.toNat).toNat + 16) (localRead s n (((s.seq n).reg rs.toNat).toNat + 3) 1)) = none := harray
  have hport : (started s n).port n = s.port n := port_modSeq ..
  have hkind : bits ((s.seq n).reg rd.toNat).toNat 8 4 = ((s.seq n).reg rd.toNat).toNat / 2 ^ 8 % 16 := rfl
  apply Exists.intro
  apply Exists.intro
  constructor
  · refine congrArg Host.Outcome.next ((gyn_started hr).trans ?_)
    simp only [reg_started h, readCycles_started h, localRead_started h, paramBusy_started h, hload, hload', hret', hdie', hlen, hkind, harray', hport, hbusy,
      any_not_of_all hok, Nat.not_lt.2 hmin, Nat.not_lt.2 hmax, Nat.not_le.2 hroom, Bool.not_true, Bool.or_false, Bool.false_eq_true, if_false, decide_false]
    rfl
  · exact ⟨rfl, rfl, rfl⟩

/-! ## ODONE (R310) -/

theorem execOdone_releases {rd rs : BitVec 5} {pad : BitVec 14} {hw : DescHw} {i a : Nat} (h : s.inv = true) (hr : Ready s n (wordP 0x62 rd rs pad))
    (hi : ((s.seq n).reg rd.toNat).toNat = i) (ha : ((s.seq n).reg rs.toNat).toNat = a) (hfind : Tbl.find (s.seq n).descs i = some hw)
    (hended : hw.ended = false) (hearned : a = 1 ∧ passEarned s n i hw = true ∨ a = 2 ∨ a = 3) :
    exec (.odone n rd rs pad) s = .next (pcNext (opOutcome (releaseDesc (started s n) n i) n hw.op
      (if a = 1 then .pass else if a = 2 then .fail else .noStatus)) n) := by
  subst hi
  have hrange : (decide (a = 0) || decide (3 < a)) = false := by
    rw [Bool.or_eq_false_iff, decide_eq_false_iff_not, decide_eq_false_iff_not]
    omega
  have hpass : (decide (a = 1) && !passEarned s n ((s.seq n).reg rd.toNat).toNat hw) = false := by
    rcases hearned with ⟨ha1, hp⟩ | ha23
    · simp [hp]
    · have ha1 : a ≠ 1 := by omega
      simp [ha1]
  refine congrArg Host.Outcome.next ((gyn_started hr).trans ?_)
  simp only [reg_started h, descs_started h, passEarned_started h, ha, hfind, hended, hrange, hpass, Bool.false_eq_true, if_false]

/-! ## The limit of an operation (R317) -/

/-- What a trap outside a handler leaves in its sequencer. -/
theorem trap_outside {cause badaddr epc : Nat} (hs : Tbl.sorted s.seqs = true) (hq : (s.seq n).inTrap = false) :
    OnlySeq s (trap s n cause badaddr epc) n ∧ (trap s n cause badaddr epc).seq n =
      { s.seq n with cause := cause, badaddr := badaddr % 2 ^ 32, epc := epc, trapCount := satInc 8 (s.seq n).trapCount, savedT := (s.seq n).t,
                     inTrap := true, pc := trapVector s n, wait := none, state := 1 } := by
  have htrap : trap s n cause badaddr epc = s.modSeq n fun q =>
      { q with cause := cause, badaddr := badaddr % 2 ^ 32, epc := epc, trapCount := satInc 8 q.trapCount, savedT := q.t,
               inTrap := true, pc := trapVector s n, wait := none, state := 1 } := by
    rw [trap, hq]
    exact if_neg Bool.false_ne_true
  rw [htrap]
  exact ⟨onlySeq_modSeq, seq_modSeq_same hs⟩

/-- A descriptor past its limit while its sequencer runs outside a handler. -/
theorem execOpLimitExpiry_traps {hw : DescHw} {j : Nat} (hfind : Tbl.find (s.seq n).descs j = some hw) (hraised : hw.limitRaised = false)
    (hrun : (s.seq n).state = 1) (hq : (s.seq n).inTrap = false) (hfree : descByte s n j 0 1 ≠ 0) (hsusp : descByte s n j 0 1 ≠ 3)
    (hlimit : s.rd (CEL_SEQ_OPLIMIT.LIMIT_MS n) ≠ 0)
    (hpast : s.rd (CEL_SEQ_OPLIMIT.LIMIT_MS n) * 100000000 < (s.pwr.time.toNat - descByte s n j 0x18 8 - hw.suspTicks) * 1024) :
    exec (.opLimitExpiry n j) s = .next (trap (s.modSeq n fun q => { q with descs := Tbl.upd q.descs j fun h => { h with limitRaised := true } }) n 0x0C j
      (s.seq n).pc) := by
  show execOpLimitExpiry n j s = _
  simp only [execOpLimitExpiry, hfind, hraised, hrun, hq, hfree, hsusp, hlimit, Nat.not_le.2 hpast, if_false, Nat.add_zero, Nat.reduceEqDiff, decide_false,
    decide_true, Bool.or_false, Bool.false_eq_true, Bool.not_false, Bool.and_true, if_true]

/-- Settles O10: by the last branch of each instruction. -/
theorem sequencerMedia : Obligations.SequencerMedia := by
  intro s n rd rs pad hw h hn q i a els w r total
  have hg := (ok_parts.1 (seq_ok_of_inv h n)).2.2.2
  have hstart := (onlySeq_started (s := s) (n := n)).2
  have hseqs := started_sorted (n := n) h
  have hport (m : Nat) : (started s n).port m = s.port m := port_modSeq ..
  refine ⟨fun hr hrd hfind hended hst hload hload' hret hdie hlen hok hbound hread herase hopen => ?missue,
    fun hr hrd hload hload' hret hmin hmax hlen hok hdie harray hbusy hroom => ?mctl,
    fun hr hfind hended hearned => execOdone_releases h hr rfl rfl hfind hended hearned,
    fun j hfind hraised hrun hq hfree hsusp hlimit hpast => ?limit⟩
  case missue =>
    obtain ⟨f, wd, hexec, htyp, hfdie, htag⟩ := execMissue_sends h hr rfl rfl rfl rfl hfind hended hst hload hload' hret hdie hlen hok hbound hread herase hopen
    obtain ⟨hqg, hqpc⟩ := missueQueued_seq (n := n) (i := i) (total := total) (hw := hw) (f := f) (wd := wd) hseqs
    refine ⟨_, f, hexec, ?_, ?_, ?_, htyp, hfdie, htag, fun m hm => ⟨?_, ?_⟩, ?_⟩
    · rw [seq_setNext (missueQueued_sorted hseqs)]
      exact congrArg (· + 4) ((setReg_pc _ _ _).trans (hqpc.trans (pc_started h)))
    · exact reg_setNext_same (missueQueued_sorted hseqs) (by rw [hqg, seq_started h]; exact hg) hrd
    · rw [port_setNext, missueQueued_port, hport]
      split <;> simp
    · rw [onlySeq_setNext.2 m hm, missueQueued_seq_other hm, hstart m hm]
    · rw [port_setNext, missueQueued_port_other hm, hport]
    · exact Only.eq_seqs_cel (only_started_setNext missueQueued_only)
  case mctl =>
    obtain ⟨f, param, hexec, htyp, hfdie, htag⟩ := execMctl_sends h hr rfl rfl rfl hload hload' hret hmin hmax hlen hok hdie harray hbusy hroom
    have hseq := mctlQueued_seq (n := n) (die := i % 16) (kind := i / 2 ^ 8 % 16) (param := param) (f := f) hseqs
    refine ⟨_, f, hexec, ?_, ?_, ?_, htyp, hfdie, htag, fun m hm => ⟨?_, ?_⟩, ?_⟩
    · rw [seq_setNext (mctlQueued_sorted hseqs)]
      exact congrArg (· + 4) ((setReg_pc _ _ _).trans (by rw [hseq]; exact pc_started h))
    · exact reg_setNext_same (mctlQueued_sorted hseqs) (by rw [hseq, seq_started h]; exact hg) hrd
    · rw [port_setNext, mctlQueued_cmdHost, hport]
    · rw [onlySeq_setNext.2 m hm, mctlQueued_seq_other hm, hstart m hm]
    · rw [port_setNext, mctlQueued_port_other hm, hport]
    · exact Only.eq_seqs_cel (only_started_setNext mctlQueued_only)
  case limit =>
    obtain ⟨honly, hseq⟩ := trap_outside (n := n) (cause := 0x0C) (badaddr := j) (epc := (s.seq n).pc)
      (s := s.modSeq n fun q => { q with descs := Tbl.upd q.descs j fun h => { h with limitRaised := true } }) (modSeq_sorted (seqs_sorted h))
      (by rw [seq_modSeq_same (seqs_sorted h)]; exact hq)
    refine ⟨_, execOpLimitExpiry_traps hfind hraised hrun hq hfree hsusp hlimit hpast, onlySeq_trans onlySeq_modSeq honly, ?_⟩
    rw [hseq, seq_modSeq_same (seqs_sorted h)]
    exact ⟨rfl, rfl, rfl, rfl, rfl, rfl, rfl⟩

end Sys2Proof.Machine
end

section
/-!
PROOF. The fabric's links (R18, R19), the management endpoint (R130, R579, R617) and the JTAG port (R618); and what a record in the Attic holds.
-/
namespace Sys2Proof.Machine

variable {s : State}

/-! ## Tables and records -/

theorem Tbl.getD_put_same {α : Type} (t : Tbl α) (i : Nat) (v d : α) : Tbl.getD (Tbl.put t i v) i d = v := by
  rw [Tbl.getD, Tbl.find_put_same]
  rfl

theorem Tbl.getD_put_other {α : Type} (t : Tbl α) {i k : Nat} (v d : α) (h : k ≠ i) : Tbl.getD (Tbl.put t i v) k d = Tbl.getD t k d := by
  rw [Tbl.getD, Tbl.find_put_other _ _ h, Tbl.getD]

theorem lastN_append_getLast? {α : Type} {n : Nat} (hn : 0 < n) (l : List α) (x : α) : (lastN n (l ++ [x])).getLast? = some x := by
  have hlen : (l ++ [x]).length - n < (l ++ [x]).length := by
    rw [List.length_append, List.length_singleton]
    omega
  rw [lastN, List.getLast?_drop, if_neg (Nat.not_le.2 hlen), List.getLast?_concat]

/-- A record above notice is never dropped (R555). -/
theorem post_of_sev {sev : Nat} (hsev : 2 < sev) (s : State) (code src origin p0 p1 p2 p3 : Nat) : post s code sev src origin p0 p1 p2 p3 =
    appendRec s { code := code, sev := sev, src := src, origin := origin, p0 := p0 % 2 ^ 32, p1 := p1 % 2 ^ 32, p2 := p2 % 2 ^ 32, p3 := p3 % 2 ^ 32 } := by
  rw [post, decide_eq_false (Nat.not_le.2 hsev), Bool.and_false]
  rfl

/-- The newest record of the ring is the one appended, with its place in the sequence and its time (R552). -/
theorem getLast?_ring_appendRec (s : State) (r : AtticRec) : (appendRec s r).atc.ring.getLast? =
    some { r with seq := s.atc.nextSeq, time := s.pwr.opSec, cycle := s.pwr.powerCycle % 2 ^ 24 } := by
  have hring : 0 < 8192 := by norm_num
  simp only [appendRec, State.modAtc_atc]
  rw [lastN_append_getLast? hring]

/-! ## The next input in turn (R18) -/

/-- How many inputs are asked before input `i` where `last` went last. -/
def inputRank (last i : Nat) : Nat := (i + 15 * (last + 1)) % 16

theorem nextInput_eq_some {last i : Nat} {waits : Nat → Bool} (hi : i < 16) (hw : waits i = true)
    (hfirst : ∀ x, x < 16 → waits x = true → inputRank last i ≤ inputRank last x) : nextInput last waits = some i := by
  have hplace : (last + 1 + inputRank last i) % 16 = i := by
    rw [inputRank]
    omega
  have hfind : (List.range 16).find? (waits ∘ fun k => (last + 1 + k) % 16) = some (inputRank last i) := by
    rw [List.find?_range_eq_some]
    refine ⟨?_, List.mem_range.2 (Nat.mod_lt _ (by decide)), fun k hk => ?_⟩
    · rw [Function.comp_apply, hplace, hw]
    · have hlt : inputRank last i < 16 := Nat.mod_lt _ (by decide)
      have hrank : inputRank last ((last + 1 + k) % 16) = k := by
        rw [inputRank]
        omega
      cases hwait : waits ((last + 1 + k) % 16) with
      | false => simp only [Function.comp_apply, hwait, Bool.not_false]
      | true =>
        have := hfirst _ (Nat.mod_lt _ (by decide)) hwait
        omega
  rw [nextInput, List.find?_map, hfind, Option.map_some, hplace]

theorem nextInput_eq_none {last : Nat} {waits : Nat → Bool} (h : ∀ x, waits x = false) : nextInput last waits = none := by
  rw [nextInput, List.find?_eq_none]
  simp [h]

/-! ## One cycle of an output link -/

theorem FabOut.cycle_of_burst {o : FabOut} {i left : Nat} (h : o.burst = some (i, left)) : o.cycle = o.burstWord i left := by
  rw [FabOut.cycle, h]

theorem FabOut.cycle_of_ctl {o : FabOut} {i : Nat} (h : o.burst = none)
    (hnext : nextInput o.lastCtl (fun i => decide (0 < Tbl.getD o.ctl i 0)) = some i) :
    o.cycle = { o with ctl := Tbl.modD o.ctl i 0 (· - 1), lastCtl := i, sent := some (i, true) } := by
  rw [FabOut.cycle, h]
  simp only [hnext]

theorem FabOut.cycle_of_data {o : FabOut} {i : Nat} (h : o.burst = none)
    (hctl : nextInput o.lastCtl (fun i => decide (0 < Tbl.getD o.ctl i 0)) = none)
    (hnext : nextInput o.lastData (fun i => !(Tbl.getD o.data i []).isEmpty) = some i) :
    o.cycle = ({ o with data := Tbl.put o.data i ((Tbl.getD o.data i []).drop 1), lastData := i } : FabOut).burstWord i ((Tbl.getD o.data i []).headD 1) := by
  rw [FabOut.cycle, h]
  simp only [hctl, hnext]

/-- An output whose cycle sends a word sends it on its link, and only the fabric differs. -/
theorem execOutputLinkArbitration_sends {link i : Nat} {ctl : List Nat} {data : List (Nat × Nat)} {o : FabOut} {c : Bool} (hlink : link < 16)
    (ho : ((Tbl.getD s.fab.outs link {}).arrive ctl data).cycle = o) (hsent : o.sent = some (i, c)) :
    ∃ u, exec (.outputLinkArbitration link ctl data) s = .next u ∧ Only [.fab, .out] s u ∧ u.out = s.out ++ [.fabricWord link i c] ∧
      u.fab.rx = s.fab.rx ∧ Tbl.getD u.fab.outs link {} = o := by
  have hexec : exec (.outputLinkArbitration link ctl data) s =
      .next ((s.modFab fun f => { f with outs := Tbl.put f.outs link o }).emit (.fabricWord link i c)) := by
    show execOutputLinkArbitration link ctl data s = _
    simp only [execOutputLinkArbitration, hlink, if_true, ho, hsent]
  exact ⟨_, hexec, only_of_exec hexec, rfl, rfl, Tbl.getD_put_same _ _ _ _⟩

/-- Two control words that arrive at an output without any are what waits there. -/
theorem arrive_ctl_waits {o : FabOut} {i j : Nat} (hctl : o.ctl = []) (hi : i < 16) (hj : j < 16) (data : List (Nat × Nat)) (x : Nat) :
    0 < Tbl.getD (o.arrive [j, i] data).ctl x 0 ↔ x = i ∨ x = j := by
  have harr : (o.arrive [j, i] data).ctl = Tbl.modD (Tbl.modD [] j 0 (· + 1)) i 0 (· + 1) := by
    simp [FabOut.arrive, hctl, hi, hj]
  rw [harr, Tbl.modD, Tbl.modD]
  by_cases hxi : x = i
  · subst hxi
    simp [Tbl.getD_setD_same]
  · rw [Tbl.getD_setD_other _ _ _ _ hxi]
    by_cases hxj : x = j
    · subst hxj
      simp [Tbl.getD_setD_same]
    · rw [Tbl.getD_setD_other _ _ _ _ hxj]
      simp [hxi, hxj, Tbl.getD]

theorem arrive_burst_data {o : FabOut} {i len : Nat} (hdata : o.data = []) (hi : i < 16) (hlo : 1 ≤ len) (hhi : len ≤ 8) (x : Nat) :
    Tbl.getD (o.arrive [] [(i, len)]).data x [] = if x = i then [len] else [] := by
  have harr : (o.arrive [] [(i, len)]).data = Tbl.modD [] i [] (· ++ [len]) := by
    simp [FabOut.arrive, hdata, hi, hlo, hhi]
  rw [harr, Tbl.modD]
  by_cases hx : x = i
  · subst hx
    rw [Tbl.getD_setD_same, if_pos rfl]
    rfl
  · rw [Tbl.getD_setD_other _ _ _ _ hx, if_neg hx]
    rfl

/-! ## Arrival of a word (R19) -/

/-- A word that decodes is delivered as the word that was sent. -/
theorem execFabricWordArrival_of_good {link input : Nat} {d e : BitVec 256} {t m : BitVec 16} {sill : Bool} (hlink : link < 16)
    (hbad : casDecode { d := d, t := t, m := m, sill := sill } ≠ .bad) (hpoison : casDecode { d := d, t := t, m := m, sill := sill } ≠ .poisoned)
    (hcorrect : casCorrect { d := d, t := t, m := m, sill := sill } = e) :
    ∃ u, exec (.fabricWordArrival link input d t m sill) s = .next u ∧ Only [.fab] s u ∧ u.fab.outs = s.fab.outs ∧
      Tbl.find u.fab.rx link = some { w := casEncode e, poison := false } := by
  have hexec : exec (.fabricWordArrival link input d t m sill) s = .next (s.modFab fun b => { b with rx := Tbl.put b.rx link { w := casEncode e } }) := by
    show execFabricWordArrival link input d t m sill s = _
    simp only [execFabricWordArrival, hlink, if_true]
    rw [hcorrect]
  exact ⟨_, hexec, only_of_mask (modFab_mask (sub_refl _) (mask_refl _ s)) (by decide), rfl, Tbl.find_put_same _ _ _⟩

theorem casCorrect_casEncode (d : BitVec 256) : casCorrect (casEncode d) = d := by
  rw [casCorrect, casDecode_casEncode]
  rfl

/-- Settles O21: the inputs in turn by `nextInput_eq_some`, and the delivered word by the code's correction of a single error. -/
theorem fabricLinks : Obligations.FabricLinks := by
  unfold Obligations.FabricLinks
  intro s link input i j len left k ctl data d t m sill _ hlink o
  refine ⟨fun hburst => ?going, fun hburst hctl hlast hi hj hrank => ?control, fun hburst hctl hdata hi hlo hhi => ?data, ?sound, fun hk => ?single, fun hbad => ?bad⟩
  case going =>
    obtain ⟨u, hexec, honly, hout, hrx, hu⟩ :=
      execOutputLinkArbitration_sends (s := s) hlink (FabOut.cycle_of_burst (o := o.arrive ctl data) hburst) rfl
    exact ⟨u, hexec, honly, hout, hrx, congrArg FabOut.burst hu⟩
  case control =>
    have hnext : nextInput (o.arrive [j, i] data).lastCtl (fun x => decide (0 < Tbl.getD (o.arrive [j, i] data).ctl x 0)) = some i := by
      refine nextInput_eq_some hi (decide_eq_true ((arrive_ctl_waits hctl hi hj data i).2 (Or.inl rfl))) fun x _ hx => ?_
      show (i + 15 * (o.lastCtl + 1)) % 16 ≤ (x + 15 * (o.lastCtl + 1)) % 16
      rcases (arrive_ctl_waits hctl hi hj data x).1 (of_decide_eq_true hx) with rfl | rfl <;> omega
    obtain ⟨u, hexec, honly, hout, -, hu⟩ :=
      execOutputLinkArbitration_sends (s := s) hlink (FabOut.cycle_of_ctl (o := o.arrive [j, i] data) hburst hnext) rfl
    exact ⟨u, hexec, honly, hout, (congrArg FabOut.burst hu).trans hburst, congrArg FabOut.lastCtl hu⟩
  case data =>
    have hwait := arrive_burst_data (o := o) hdata hi hlo hhi
    have hnoctl : nextInput (o.arrive [] [(i, len)]).lastCtl (fun x => decide (0 < Tbl.getD (o.arrive [] [(i, len)]).ctl x 0)) = none := by
      refine nextInput_eq_none fun x => ?_
      have harr : (o.arrive [] [(i, len)]).ctl = [] := hctl
      rw [harr]
      rfl
    have hnext : nextInput (o.arrive [] [(i, len)]).lastData (fun x => !(Tbl.getD (o.arrive [] [(i, len)]).data x []).isEmpty) = some i := by
      refine nextInput_eq_some hi (by rw [hwait, if_pos rfl]; rfl) fun x _ hx => ?_
      rw [hwait] at hx
      split at hx
      next hxi => rw [hxi]
      next => cases hx
    have hcycle := FabOut.cycle_of_data (o := o.arrive [] [(i, len)]) hburst hnoctl hnext
    rw [hwait, if_pos rfl] at hcycle
    obtain ⟨u, hexec, honly, hout, -, hu⟩ := execOutputLinkArbitration_sends (s := s) hlink hcycle rfl
    refine ⟨u, hexec, honly, hout, (congrArg FabOut.burst hu).trans (if_congr ?_ rfl rfl)⟩
    show len ≤ 1 ↔ len = 1
    omega
  case sound =>
    have hdec := casDecode_casEncode d
    exact execFabricWordArrival_of_good hlink (by rw [← casEncode, hdec]; decide) (by rw [← casEncode, hdec]; decide) (casCorrect_casEncode d)
  case single =>
    have hdec := casDecode_single_error d (i := k) (by omega)
    have hcor := casCorrect_single_error d (i := k) (by omega)
    simp only [flipCas_data _ hk, casEncode, hk, if_true] at hdec hcor
    obtain ⟨u, hexec, honly, -, hrx⟩ := execFabricWordArrival_of_good (s := s) (input := input) hlink
      (by simp [hdec]) (by simp [hdec]) hcor
    exact ⟨u, hexec, honly, hrx⟩
  case bad =>
    let w : Casement := { d := d, t := t, m := m, sill := sill }
    let s1 := s.modFab fun b => { b with rx := Tbl.put b.rx link { w := w, poison := true } }
    have hexec : exec (.fabricWordArrival link input d t m sill) s = .next (post s1 0x0020 4 9 0xFF link input) := by
      show execFabricWordArrival link input d t m sill s = _
      simp only [execFabricWordArrival, hlink, if_true, hbad, s1, w]
    have hlink' : link % 2 ^ 32 = link := Nat.mod_eq_of_lt (by omega)
    have hring := getLast?_ring_appendRec s1 { code := 0x0020, sev := 4, src := 9, origin := 0xFF, p0 := link % 2 ^ 32, p1 := input % 2 ^ 32, p2 := 0, p3 := 0 }
    refine ⟨_, _, hexec, ?_, ?_, (congrArg (fun u : State => u.atc.ring.getLast?) (post_of_sev (by decide) s1 _ _ _ _ _ _ _)).trans hring, rfl, rfl, rfl, hlink', rfl⟩
    · exact only_of_mask (post_mask (m := 262152) (by decide) (modFab_mask (by decide) (mask_refl _ s))) (by decide)
    · rw [post_of_sev (by decide)]
      exact Tbl.find_put_same _ _ _

/-! ## The management endpoint -/

/-- A source of a wake leaves a device that is awake as it is. -/
theorem wake_of_awake {bit : Nat} (hsleep : asleep s = false) (hmode : pwrMode s = 0) : wake s bit = s := by
  have hst : s.pwr.st ≠ .ps5 := by
    intro h
    simp [asleep, h] at hsleep
  have hacts : ((if bit = 2 then decide (s.pwr.st = .ps5) else asleep s) || pwrMode s != 0) = false := by
    rw [hsleep, hmode, decide_eq_false hst]
    split <;> rfl
  simp [wake, hst, hsleep, hmode]

theorem asleep_of_pwr {s t : State} (h : t.pwr = s.pwr) : asleep t = asleep s := by rw [asleep, h, asleep]

theorem pwrMode_of_regs {s t : State} (h : t.regs = s.regs) : pwrMode t = pwrMode s := by
  rw [pwrMode, rd_of_regs h, pwrMode]

/-- The Provisioned ID holds the part, the number of the device on its bus and the serial number below the manufacturer (R579). -/
theorem provisionedId_fields (inst serial : Nat) (hinst : inst < 16) : provisionedId inst serial / 2 ^ 16 % 2 ^ 16 = 0x0640 ∧
    provisionedId inst serial / 2 ^ 12 % 16 = inst ∧ provisionedId inst serial % 2 ^ 12 = serial % 2 ^ 12 := by
  unfold provisionedId
  generalize Config.mipiId.toNat = mfr
  omega

/-- Settles O22. -/
theorem managementAndJtag : Obligations.ManagementAndJtag := by
  unfold Obligations.ManagementAndJtag
  intro s buf v addr hinv
  refine ⟨fun hpor hst => ⟨fun hsleep hmode hwait hheld hroom => ?message, ?entdaa⟩, ?bypass, ?idcode, fun htest => ?taken, fun htest => ?refused⟩
  case message =>
    let e := evWord 0x12 0 0xFF 0 buf
    have hrun : (s.pwr.por || decide (s.pwr.st = .off)) = false := by rw [hpor, decide_eq_false hst]; rfl
    have hexec : exec (.mgmtMessage buf) s = .next (raise s 64 e) := by
      show execMgmtMessage buf s = _
      rw [execMgmtMessage, hrun, if_neg Bool.false_ne_true, wake_of_awake (s := raise s 64 e) ((asleep_of_pwr rfl).trans hsleep) ((pwrMode_of_regs rfl).trans hmode)]
    exact ⟨_, e, hexec, onlySeq_raise e, seq_raise_of_room (seqs_sorted hinv) e hwait hheld hroom, evWord_code _ _ _ _ _, evWord_arg _ _ _ _ _⟩
  case entdaa =>
    have hrun : (s.pwr.por || decide (s.pwr.st = .off)) = false := by rw [hpor, decide_eq_false hst]; rfl
    obtain ⟨hpart, hinst, hserial⟩ := provisionedId_fields (if isWorker s then 0xF else 0) s.stg.fuses.serial (by split <;> decide)
    have hexec : exec (.entdaa addr) s = .next ((s.modStd fun x => { x with i3c := some (addr % 128) }).emit
        (.i3cPid (provisionedId (if isWorker s then 0xF else 0) s.stg.fuses.serial))) := by
      show execEntdaa addr s = _
      rw [execEntdaa, hrun]
      rfl
    exact ⟨_, _, hexec, only_of_exec hexec, rfl, rfl, hpart, hinst, hserial⟩
  case bypass => exact ⟨_, rfl, only_of_exec (c := .bypass) rfl, rfl⟩
  case idcode => exact ⟨_, rfl, only_of_exec (c := .idcode) rfl, rfl, rfl⟩
  case taken =>
    have hscan (f : Jtag → Jtag) : boundaryScan s f = s.modJtag f := by
      simp only [boundaryScan, htest, if_true]
    refine ⟨?_, ?_, ?_, ?_⟩
    · have hexec : exec (.samplePreload v) s = .next (s.modJtag fun j => { j with ir := .sample, cells := v, driving := false }) := congrArg Host.Outcome.next (hscan _)
      exact ⟨_, hexec, only_of_exec hexec, rfl, rfl, rfl⟩
    · have hexec : exec .extest s = .next (s.modJtag fun j => { j with ir := .extest, driving := true }) := congrArg Host.Outcome.next (hscan _)
      exact ⟨_, hexec, only_of_exec hexec, rfl⟩
    · have hexec : exec .extestPulse s = .next (s.modJtag fun j => { j with ir := .extestPulse, driving := true }) := congrArg Host.Outcome.next (hscan _)
      exact ⟨_, hexec, only_of_exec hexec, rfl⟩
    · have hexec : exec .extestTrain s = .next (s.modJtag fun j => { j with ir := .extestTrain, driving := true }) := congrArg Host.Outcome.next (hscan _)
      exact ⟨_, hexec, only_of_exec hexec, rfl⟩
  case refused =>
    have hscan (f : Jtag → Jtag) : boundaryScan s f = s.modJtag fun j => { j with ir := .bypass, driving := false } := by
      simp only [boundaryScan, htest, Bool.false_eq_true, if_false]
    exact ⟨congrArg Host.Outcome.next (hscan _), congrArg Host.Outcome.next (hscan _), congrArg Host.Outcome.next (hscan _), congrArg Host.Outcome.next (hscan _)⟩

end Sys2Proof.Machine
end

section
/-!
PROOF. The Porch's host links and the resets of a port (chapter 2): the reads of host ports and channels, what each operation leaves of them, and the rows of
the links and resets.
-/
namespace Sys2Proof.Machine

variable {s t : State} {p : Nat}

/-! ## Operations over lists -/

theorem when_true {c : Bool} (h : c = true) (f : State → State) : s.when c f = f s := by rw [State.when, if_pos h]

theorem when_false {c : Bool} (h : c = false) (f : State → State) : s.when c f = s := by rw [State.when, h, if_neg Bool.false_ne_true]

/-- What no single operation changes, a run of them leaves. -/
theorem foldl_keeps_eq {α γ : Type} (g : State → γ) {f : State → α → State} (hf : ∀ s a, g (f s a) = g s) (l : List α) (s : State) :
    g (l.foldl f s) = g s := by
  induction l generalizing s with
  | nil => rfl
  | cons a l ih => rw [List.foldl_cons, ih, hf]

theorem each_keeps_eq {α γ : Type} (g : State → γ) {f : State → α → State} (hf : ∀ s a, g (f s a) = g s) (l : List α) (s : State) :
    g (s.each l f) = g s := foldl_keeps_eq g hf l s

/-- A part outside the mask of an operation is left. -/
theorem Mask.porch {m : Nat} (h : Mask m s t) (hm : m.testBit 7 = false) : t.porch = s.porch := h.2 .porch hm

/-! ## Host ports and channels -/

theorem hport_of_porch (h : t.porch = s.porch) : t.hport p = s.hport p := by rw [State.hport, h, State.hport]

theorem hport_modHport_same (f : HPort → HPort) : (s.modHport p f).hport p = f (s.hport p) := Tbl.getD_setD_same _ _ _ _

theorem hport_modHport_other {q : Nat} (f : HPort → HPort) (h : q ≠ p) : (s.modHport p f).hport q = s.hport q := Tbl.getD_setD_other _ _ _ _ h

theorem chan_modChan_same {c : Nat} (f : DmaChan → DmaChan) : (s.modChan c f).chan c = f (s.chan c) := Tbl.getD_setD_same _ _ _ _

theorem chan_modHport {c : Nat} (f : HPort → HPort) : (s.modHport p f).chan c = s.chan c := (rfl)

theorem hport_modChan {c : Nat} (f : DmaChan → DmaChan) : (s.modChan c f).hport p = s.hport p := (rfl)

theorem only_porch_modHport (f : HPort → HPort) : Only [.porch] s (s.modHport p f) :=
  only_of_mask (m := 128) (modPorch_mask (sub_refl _) (mask_refl _ s)) (by decide)

/-- A command that changes host port `p` alone. -/
theorem exec_modHport {c : Instr} {f : HPort → HPort} (h : exec c s = .next (s.modHport p f)) :
    ∃ t, exec c s = .next t ∧ Only [.porch] s t ∧ t.hport p = f (s.hport p) ∧ t.porch.chans = s.porch.chans ∧ ∀ q, q ≠ p → t.hport q = s.hport q :=
  ⟨_, h, only_porch_modHport f, hport_modHport_same f, rfl, fun _ hq => hport_modHport_other f hq⟩

theorem portsInUse_contains (h : p ∈ portsInUse s) : (portsInUse s).contains p = true := List.contains_iff_mem.2 h

theorem wake_porch (s : State) (bit : Nat) : (wake s bit).porch = s.porch := (wake_mask (sub_refl _) (mask_refl _ s)).porch (by decide)

theorem ports_askHost (s : State) (n : Nat) : (askHost s n).porch.ports = s.porch.ports := by
  unfold askHost
  split
  next => rfl
  next c _ =>
    split
    · rfl
    · refine foldl_keeps_eq (fun s : State => s.porch.ports) (fun s u => ?_) _ _
      simp only
      split
      · rfl
      · split <;> rfl

theorem ports_pumpChan (s : State) (c : Nat) : (pumpChan s c).porch.ports = s.porch.ports := by
  rw [pumpChan]
  exact each_keeps_eq (fun s : State => s.porch.ports) (fun s (e : Nat × Ctx) => ports_askHost s e.1) _ s

theorem hport_of_ports {q : Nat} (h : t.porch.ports = s.porch.ports) : t.hport q = s.hport q := by rw [State.hport, h, State.hport]

/-! ## Links -/

theorem execHostLinkUp_eq {rate width : Nat} {flit : Bool} (hallow : linkAllowed s p = true) (hup : (s.hport p).up = false) (hlo : 1 ≤ rate)
    (hcap : rate ≤ rateCap s) (hwidth : width ∈ [8, 4, 2, 1]) : exec (.hostLinkUp p rate width flit) s = .next (s.modHport p fun x =>
      { x with up := true, rate := rate, width := width, flit := flit || decide (6 ≤ rate), lstate := 0, dlSeq := 0 }) := by
  have hwide : (if twoPorts s then [8, 4, 2, 1] else [16, 8, 4, 2, 1]).contains width = true := by
    rw [List.contains_iff_mem]
    split
    · exact hwidth
    · exact List.mem_cons_of_mem _ hwidth
  show execHostLinkUp p rate width flit s = _
  rw [execHostLinkUp]
  refine congrArg Host.Outcome.next (when_true ?_ _)
  rw [hallow, hup, hwide, decide_eq_true ⟨hlo, hcap⟩]
  rfl

/-- The state after a poisoned completion has been logged. -/
def poisonLogged (s : State) (p : Nat) : State :=
  (s.modHport p fun x => { x with dlSeq := (x.dlSeq + 1) % 4096 }).modHport p fun x => { x with aer := x.aer ++ [12] }

/-- The channel and the request that the tag of a completion names. -/
def poisonTarget (s : State) (p : Nat) (tag : Option Nat) : Option (Nat × Nat × Nat × Nat) :=
  tag.bind fun t => s.porch.chans.findSome? fun e => if e.1 / 64 == p then (e.2.tags.find? fun y => y.1 == t).map fun y => (e.1, y) else none

section
variable {seq : Nat} {flit poison : Bool} {tag : Option Nat} (hup : (s.hport p).up = true) (hflit : (s.hport p).flit = flit)
include hup hflit

theorem tlp_taken_form : (!(s.hport p).up || (s.hport p).flit != flit) = false := by
  rw [hup, hflit]
  simp

theorem execTlpReceive_crc : exec (.tlpReceive p seq false flit poison tag) s = .next ((s.bump (PCH_LINK_ERR.CRC_FAIL_CNT p)).emit (.replay p)) := by
  show execTlpReceive p seq false flit poison tag s = _
  simp only [execTlpReceive, tlp_taken_form hup hflit, Bool.false_eq_true, if_false, Bool.not_false, if_true]

theorem execTlpReceive_duplicate (hdup : seqBefore (s.hport p).dlSeq (seq % 4096) = true) : exec (.tlpReceive p seq true flit poison tag) s = .next s := by
  show execTlpReceive p seq true flit poison tag s = _
  simp only [execTlpReceive, tlp_taken_form hup hflit, Bool.false_eq_true, if_false, Bool.not_true, hdup, if_true]

theorem execTlpReceive_sound (hdl : (s.hport p).dlSeq < 4096) (hseq : seq = (s.hport p).dlSeq) :
    exec (.tlpReceive p seq true flit false tag) s = .next (s.modHport p fun x => { x with dlSeq := (x.dlSeq + 1) % 4096 }) := by
  have hmod : seq % 4096 = (s.hport p).dlSeq := by rw [hseq, Nat.mod_eq_of_lt hdl]
  have hdup : seqBefore (s.hport p).dlSeq (s.hport p).dlSeq = false := by simp [seqBefore]
  show execTlpReceive p seq true flit false tag s = _
  simp only [execTlpReceive, tlp_taken_form hup hflit, Bool.false_eq_true, if_false, Bool.not_true, hmod, hdup, ne_eq, not_true_eq_false, Bool.not_false, if_true]

theorem execTlpReceive_poisoned (hdl : (s.hport p).dlSeq < 4096) (hseq : seq = (s.hport p).dlSeq) :
    exec (.tlpReceive p seq true flit true tag) s =
      (match poisonTarget s p tag with
      | none => .next (poisonLogged s p)
      | some (c, (_, n, u)) => .next (haltChan (dropTag (poisonLogged s p) c n u) n 3)) := by
  have hmod : seq % 4096 = (s.hport p).dlSeq := by rw [hseq, Nat.mod_eq_of_lt hdl]
  have hdup : seqBefore (s.hport p).dlSeq (s.hport p).dlSeq = false := by simp [seqBefore]
  show execTlpReceive p seq true flit true tag s = _
  simp only [execTlpReceive, tlp_taken_form hup hflit, Bool.false_eq_true, if_false, Bool.not_true, hmod, hdup, ne_eq, not_true_eq_false]
  rfl

end

theorem hport_poisonLogged : (poisonLogged s p).hport p =
    { s.hport p with dlSeq := ((s.hport p).dlSeq + 1) % 4096, aer := (s.hport p).aer ++ [12] } := by
  rw [poisonLogged, hport_modHport_same, hport_modHport_same]

theorem only_poisonLogged : Only [.porch] s (poisonLogged s p) :=
  only_of_mask (m := 128) (modPorch_mask (sub_refl _) (modPorch_mask (sub_refl _) (mask_refl _ s))) (by decide)

theorem configDevice_running (hpor : s.pwr.por = false) (hst : s.pwr.st ≠ .off) (hidle : s.porch.idle = false) (hp : p ∈ portsInUse s) :
    (s.pwr.por || decide (s.pwr.st = .off) || s.porch.idle || !(portsInUse s).contains p) = false := by
  rw [hpor, decide_eq_false hst, hidle, portsInUse_contains hp]
  rfl

/-- Settles O23. -/
theorem hostLinks : Obligations.HostLinks := by
  unfold Obligations.HostLinks
  intro s p rate width seq tg c n u flit x y hinv h
  refine ⟨fun hallow hup hlo hcap hwidth => ?up, fun hup hflit => ⟨?crc, fun hdup => ?duplicate, fun hdl hseq => ⟨?sound, ?poisoned, fun hchans hcp htags hctx hychan => ?halted⟩⟩,
    fun hpor hst hidle hp => ⟨fun hfixed => ?retry, fun hfixed => ?answered⟩, fun hup hd3 hls hpm hchans hctxs hcoal => ?aspm⟩
  case up =>
    obtain ⟨t, hexec, honly, ht, -, hother⟩ := exec_modHport (execHostLinkUp_eq (flit := flit) hallow hup hlo hcap hwidth)
    exact ⟨t, hexec, honly, ht, hother⟩
  case crc =>
    have hs := regs_sorted hinv
    have hf : (PCH_LINK_ERR.CRC_FAIL_CNT p).lsb + (PCH_LINK_ERR.CRC_FAIL_CNT p).width ≤ 64 := Nat.le_of_ble_eq_true rfl
    exact ⟨_, execTlpReceive_crc hup hflit, only_of_mask (m := 1048577) (emit_mask (by decide) (bump_mask (by decide) (mask_refl _ s))) (by decide), rfl,
      rd_bump_same 1 hs hf, regsBut_wr hs hf (by simp)⟩
  case duplicate => exact execTlpReceive_duplicate hup hflit hdup
  case sound =>
    obtain ⟨t, hexec, honly, ht, hchans, -⟩ := exec_modHport (execTlpReceive_sound (tag := none) hup hflit hdl hseq)
    exact ⟨t, hexec, honly, ht, hchans⟩
  case poisoned =>
    exact ⟨_, execTlpReceive_poisoned hup hflit hdl hseq, only_poisonLogged, hport_poisonLogged, rfl⟩
  case halted =>
    have hfound : poisonTarget s p (some tg) = some (c, (tg, n, u)) := by
      simp [poisonTarget, hchans, hcp, htags]
    have hctx' : (dropTag (poisonLogged s p) c n u).ctx n = some y := hctx
    have hhalt : haltChan (dropTag (poisonLogged s p) c n u) n 3 = (dropTag (poisonLogged s p) c n u).modChan c fun x =>
        { x with state := 2, cause := 3, haltCount := satInc 8 x.haltCount, cmd := some n } := by
      simp only [haltChan, hctx', hychan]
    have hchan : (poisonLogged s p).chan c = x := by
      rw [poisonLogged, chan_modHport, chan_modHport, State.chan, hchans]
      simp [Tbl.getD, Tbl.find]
    have hexec := execTlpReceive_poisoned (tag := some tg) hup hflit hdl hseq
    rw [hfound] at hexec
    have hexec := hexec.trans (congrArg Host.Outcome.next hhalt)
    have hmask : Mask 128 s ((dropTag (poisonLogged s p) c n u).modChan c fun x =>
        { x with state := 2, cause := 3, haltCount := satInc 8 x.haltCount, cmd := some n }) :=
      modPorch_mask (sub_refl _) (modPorch_mask (sub_refl _) (modPorch_mask (sub_refl _) (modPorch_mask (sub_refl _) (mask_refl _ s))))
    refine ⟨_, hexec, only_of_mask hmask (by decide), ?_⟩
    rw [chan_modChan_same, hport_modChan, dropTag, hport_modChan, hport_poisonLogged, chan_modChan_same, hchan]
    exact ⟨rfl, rfl, by simp [htags], rfl, rfl⟩
  case retry =>
    show execConfigRequest p s = _
    simp only [execConfigRequest, configDevice_running hpor hst hidle hp, hfixed, Bool.false_eq_true, if_false, Bool.not_false, if_true]
  case answered =>
    let f (x : HPort) : HPort := if x.up && x.lstate = 2 then { x with lstate := 0 } else x
    have hexec : exec (.configRequest p) s = .next ((s.modHport p f).emit (.cfgReply p false (if s.porch.recovery then 0x06FF else 0x0640))) := by
      show execConfigRequest p s = _
      simp only [execConfigRequest, configDevice_running hpor hst hidle hp, hfixed, Bool.false_eq_true, if_false, Bool.not_true]
      rfl
    refine ⟨_, hexec, only_of_exec hexec, rfl, (hport_modHport_same f).trans ?_, rfl⟩
    show f h = _
    simp only [f, Bool.and_eq_true, decide_eq_true_eq]
    split <;> rfl
  case aspm =>
    have hpm' : bitAt s.porch.ident.pmAllow 0 = true := by
      rw [bitAt, Nat.pow_zero, Nat.div_one]
      exact decide_eq_true hpm
    have hgo : ((s.hport p).up && !(s.hport p).d3 && decide ((s.hport p).lstate ≤ 1) && bitAt s.porch.ident.pmAllow 0 &&
        !(!(portTags s p).isEmpty || (s.hall.ctxs.any fun e => e.2.port == p && e.2.st == .ready && e.2.stair.isNone) ||
          s.hall.coal.any fun e => e.1 / 65536 == p)) = true := by
      simp only [h] at hup hd3 hls
      simp [hup, hd3, hls, hpm', portTags, hchans, hctxs, hcoal]
    have hexec : exec (.aspmIdleExpiry p) s = .next (s.modHport p fun x => { x with lstate := 2 }) := congrArg Host.Outcome.next (when_true hgo _)
    obtain ⟨t, hexec, honly, ht, -, hother⟩ := exec_modHport hexec
    exact ⟨t, hexec, honly, ht, hother⟩

/-! ## Resets -/

theorem hport_resetController : (resetController s p).hport p =
    { (resolvePort s p).hport p with en := false, rdy := false, cfs := false, shst := 0 } := by
  simp only [resetController]
  generalize resolvePort s p = r
  rw [hport_modHport_same]
  rfl

theorem hport_resetPort_down : (resetPort s p true).hport p = { configDefaults ((resetController s p).hport p) with
    up := false, rate := 0, width := 0, flit := false, lstate := 3, deadTags := [] } := by
  rw [resetPort, if_pos rfl, linkDown, hport_modHport_same, hport_modHport_same]

theorem hport_resetPort_up : (resetPort s p false).hport p = configDefaults ((resetController s p).hport p) := by
  rw [resetPort, if_neg Bool.false_ne_true, hport_modHport_same]

/-- Settles O24. -/
theorem hostResets : Obligations.HostResets := by
  unfold Obligations.HostResets
  intro s p _ h
  refine ⟨fun hp hperst => ?perst, fun hp => ?deassert, fun hup => ⟨?hot, ?flr, ?d3⟩, ?bme, fun hd3 => ?d0, fun hen => ?reset⟩
  case perst =>
    have hgo : (!(portsInUse s).contains p || (s.hport p).perst) = false := by
      rw [portsInUse_contains hp]
      exact hperst
    have hexec : exec (.perstAssert p) s = .next (wake ((resetPort s p true).modHport p fun x => { x with perst := true }) 3) := by
      show execPerstAssert p s = _
      rw [execPerstAssert, if_neg (by rw [hgo]; exact Bool.false_ne_true)]
    refine ⟨_, hexec, only_of_exec hexec, ?_⟩
    rw [hport_of_porch (wake_porch _ _), hport_modHport_same, hport_resetPort_down, hport_resetController]
    exact ⟨rfl, rfl, rfl, rfl, rfl, rfl, rfl⟩
  case deassert =>
    have hexec : exec (.perstDeassert p) s = .next (s.modHport p fun x => { x with perst := false }) :=
      congrArg Host.Outcome.next (when_true (portsInUse_contains hp) _)
    exact exec_modHport hexec
  case hot =>
    have hexec : exec (.hotReset p) s = .next (resetPort s p true) := congrArg Host.Outcome.next (when_true hup _)
    refine ⟨_, hexec, only_of_exec hexec, ?_⟩
    rw [hport_resetPort_down, hport_resetController]
    exact ⟨rfl, rfl, rfl, rfl, rfl, rfl, rfl⟩
  case flr =>
    have hexec : exec (.functionLevelReset p) s = .next (resetPort s p false) := congrArg Host.Outcome.next (when_true hup _)
    refine ⟨_, hexec, only_of_exec hexec, ?_⟩
    rw [hport_resetPort_up, hport_resetController]
    exact ⟨rfl, rfl, rfl, rfl, rfl, rfl, rfl⟩
  case d3 =>
    have hexec : exec (.d3hotEntry p) s = .next (s.modHport p fun x => { x with d3 := true }) := congrArg Host.Outcome.next (when_true hup _)
    obtain ⟨t, hexec, honly, ht, -, hother⟩ := exec_modHport hexec
    exact ⟨t, hexec, honly, ht, hother⟩
  case bme => exact exec_modHport (c := .busMasterEnableClear p) (f := fun x => { x with bme := false, cfs := x.cfs || x.en }) rfl
  case d0 =>
    let back := s.modHport p fun x => { x with d3 := false }
    have hexec : exec (.d0Return p) s = .next ((wake back 2).each (List.range 64) fun s c => pumpChan s (64 * p + c)) :=
      congrArg Host.Outcome.next (when_true hd3 _)
    have hports (q : Nat) : ((wake back 2).each (List.range 64) fun s c => pumpChan s (64 * p + c)).hport q = back.hport q :=
      (hport_of_ports (each_keeps_eq (fun s : State => s.porch.ports) (fun s c => ports_pumpChan s _) _ _)).trans (hport_of_porch (wake_porch back 2))
    exact ⟨_, hexec, only_of_exec hexec, (hports p).trans (hport_modHport_same _), fun q hq => (hports q).trans (hport_modHport_other _ hq)⟩
  case reset =>
    have hexec : exec (.controllerReset p) s = .next (resetController s p) := congrArg Host.Outcome.next (when_true hen _)
    refine ⟨_, hexec, only_of_exec hexec, ?_⟩
    rw [hport_resetController]
    exact ⟨rfl, rfl, rfl, rfl⟩

end Sys2Proof.Machine
end

section
/-!
PROOF. The Hall's bookkeeping (chapter 3): the contexts under the operations that change one, what ending a command leaves, and the operations that leave the
contexts and the queues as they are.
-/
namespace Sys2Proof.Machine

variable {s t u : State} {n m : Nat} {c : Ctx}

/-! ## Tables -/

theorem Tbl.find_upd_same {α : Type} (t : Tbl α) (i : Nat) (f : α → α) : Tbl.find (Tbl.upd t i f) i = (Tbl.find t i).map f := by
  induction t with
  | nil => rfl
  | cons e r ih =>
    obtain ⟨j, w⟩ := e
    by_cases hij : i = j
    · simp [Tbl.upd, Tbl.find, hij]
    · simp [Tbl.upd, Tbl.find, hij, ih]

theorem Tbl.find_upd_other {α : Type} (t : Tbl α) {i k : Nat} (f : α → α) (h : k ≠ i) : Tbl.find (Tbl.upd t i f) k = Tbl.find t k := by
  induction t with
  | nil => rfl
  | cons e r ih =>
    obtain ⟨j, w⟩ := e
    by_cases hij : i = j
    · subst hij
      simp [Tbl.upd, Tbl.find, h]
    · simp only [Tbl.upd, hij, if_false, Tbl.find, ih]

/-- A run of operations none of which does anything. -/
theorem foldl_fixed {α β : Type} {f : β → α → β} {b : β} (l : List α) (hf : ∀ a ∈ l, f b a = b) : l.foldl f b = b := by
  induction l with
  | nil => rfl
  | cons a l ih => rw [List.foldl_cons, hf a List.mem_cons_self, ih fun x hx => hf x (List.mem_cons_of_mem _ hx)]

/-- What every operation of a run keeps, the run keeps. -/
theorem foldl_holds {α β : Type} {P : β → Prop} {f : β → α → β} (hf : ∀ b a, P b → P (f b a)) (l : List α) {b : β} (hb : P b) : P (l.foldl f b) := by
  induction l generalizing b with
  | nil => exact hb
  | cons a l ih => exact ih (hf b a hb)

/-! ## Contexts -/

theorem ctx_modCtx_same (h : s.ctx n = some c) (f : Ctx → Ctx) : (s.modCtx n f).ctx n = some (f c) :=
  (Tbl.find_upd_same _ _ _).trans (congrArg (Option.map f) h)

theorem ctx_modCtx_other (f : Ctx → Ctx) (h : m ≠ n) : (s.modCtx n f).ctx m = s.ctx m := Tbl.find_upd_other _ _ h

theorem ctx_of_hall (h : t.hall = s.hall) : t.ctx n = s.ctx n := by rw [State.ctx, h, State.ctx]

theorem ctx_of_ctxs (h : t.hall.ctxs = s.hall.ctxs) : t.ctx n = s.ctx n := by rw [State.ctx, h, State.ctx]

theorem othersStand_modCtx (f : Ctx → Ctx) : OthersStand s (s.modCtx n f) n := ⟨fun _ hm => ctx_modCtx_other f hm, rfl, rfl⟩

theorem othersStand_of_hall (h : t.hall = s.hall) : OthersStand s t n := ⟨fun _ _ => ctx_of_hall h, congrArg Hall.sqs h, congrArg Hall.cqs h⟩

theorem OthersStand.trans (h : OthersStand s t n) (h' : OthersStand t u n) : OthersStand s u n := by
  obtain ⟨hctx, hsqs, hcqs⟩ := h
  obtain ⟨hctx', hsqs', hcqs'⟩ := h'
  exact ⟨fun m hm => (hctx' m hm).trans (hctx m hm), hsqs'.trans hsqs, hcqs'.trans hcqs⟩

theorem only_modCtx (f : Ctx → Ctx) : Only [.hall] s (s.modCtx n f) := only_of_mask (modCtx_mask (sub_refl _) (mask_refl _ s)) (by decide)

theorem ctx_of_mask {μ : Nat} (h : Mask μ s t) (hm : μ.testBit 8 = false) : t.ctx n = s.ctx n := ctx_of_hall (h.2 .hall hm)

/-! ## Ending a command -/

section
variable (hc : s.ctx n = some c) (hst : c.st ≠ .ready) (hstair : c.stair = none)
include hc hst hstair

/-- A command of a host that ends with success changes only its context. -/
theorem finish_zero (dw0 : Nat) : finish s n 0 0 dw0 = s.modCtx n fun c => { c with st := .ready, sct := 0, sc := 0, dw0 := dw0 } := by
  simp [finish, hc, hst, hstair]

/-- A command of a host that ends with another status leaves an entry in the error log. -/
theorem finish_hall (sct sc dw0 : Nat) :
    (finish s n sct sc dw0).hall = (s.modCtx n fun c => { c with st := .ready, sct := sct, sc := sc, dw0 := dw0 }).hall := by
  simp only [finish, hc, hst, hstair, if_false]
  split <;> rfl

theorem ended_finish (sct sc dw0 : Nat) : Ended (finish s n sct sc dw0) n c sct sc dw0 :=
  (ctx_of_hall (finish_hall hc hst hstair sct sc dw0)).trans (ctx_modCtx_same hc _)

theorem othersStand_finish (sct sc dw0 : Nat) : OthersStand s (finish s n sct sc dw0) n :=
  (othersStand_modCtx _).trans (othersStand_of_hall (finish_hall hc hst hstair sct sc dw0))

theorem finish_host_mask {μ : Nat} {s0 : State} (sct sc dw0 : Nat) (hm : Sub 768 μ) (hk : Mask μ s0 s) : Mask μ s0 (finish s n sct sc dw0) := by
  have hctx := modCtx_mask (n := n) (f := fun c => { c with st := .ready, sct := sct, sc := sc, dw0 := dw0 }) (sub_trans (by decide) hm) hk
  simp only [finish, hc, hst, hstair, if_false]
  split
  · exact hctx
  · exact modNvm_mask (sub_trans (by decide) hm) hctx

theorem only_finish (sct sc dw0 : Nat) : Only [.hall, .nvm] s (finish s n sct sc dw0) :=
  only_of_mask (finish_host_mask hc hst hstair sct sc dw0 (sub_refl _) (mask_refl _ s)) (by decide)

theorem only_finish_zero (dw0 : Nat) : Only [.hall] s (finish s n 0 0 dw0) := by
  rw [finish_zero hc hst hstair]
  exact only_modCtx _

end

/-- A command that is ready for completion is not ended again. -/
theorem finish_of_ready (hc : s.ctx n = some c) (hst : c.st = .ready) (sct sc dw0 : Nat) : finish s n sct sc dw0 = s := by
  simp [finish, hc, hst]

/-! ## The Hall but for the mark that host work waited -/

/-- The Hall is the same but for the ports at which host work has waited in the arbiter's window. -/
def HallHeld (s t : State) : Prop := t.hall = { s.hall with hostWaited := t.hall.hostWaited }

theorem hallHeld_of_hall (h : t.hall = s.hall) : HallHeld s t := by rw [HallHeld, h]

theorem hallHeld_of_mask {μ : Nat} (h : Mask μ s t) (hm : μ.testBit 8 = false) : HallHeld s t := hallHeld_of_hall (h.2 .hall hm)

theorem HallHeld.trans (h : HallHeld s t) (h' : HallHeld t u) : HallHeld s u := by
  rw [HallHeld] at *
  rw [h', h]

theorem HallHeld.ctxs (h : HallHeld s t) : t.hall.ctxs = s.hall.ctxs := by rw [h]

theorem HallHeld.ctx (h : HallHeld s t) (n : Nat) : t.ctx n = s.ctx n := ctx_of_ctxs h.ctxs

theorem hallHeld_foldl {α : Type} {f : State → α → State} (hf : ∀ s a, HallHeld s (f s a)) (l : List α) (s : State) : HallHeld s (l.foldl f s) :=
  foldl_holds (fun _ a hb => hb.trans (hf _ a)) l (hallHeld_of_hall rfl)

theorem hallHeld_offer (s : State) (n : Nat) (op : DieOp) : HallHeld s (offer s n op) := by
  unfold offer
  dsimp only
  split <;> rfl

theorem hallHeld_readUnit {k x cls bg : Nat} {by_ : Issuer} (h : readUnit s k x cls bg by_ = some t) : HallHeld s t := by
  unfold readUnit at h
  split at h
  · cases h
  · split at h
    · cases h
    · cases h
      exact (hallHeld_of_mask (countRead_mask (sub_refl _) (mask_refl _ s)) (by decide)).trans (hallHeld_offer _ _ _)

/-! ## A read that resolves -/

/-- Command `n` is a host's with the data and number of `c`, and has resolved. -/
def Resolving (n : Nat) (c : Ctx) (s : State) : Prop :=
  ∃ y, s.ctx n = some y ∧ y.resolved = true ∧ y.cmd = c.cmd ∧ y.cid = c.cid ∧ y.stair = none

theorem resolving_of_ctx (h : Resolving n c s) (ht : t.ctx n = s.ctx n) : Resolving n c t := by
  obtain ⟨y, hy, hrest⟩ := h
  exact ⟨y, ht.trans hy, hrest⟩

theorem resolving_modCtx (h : Resolving n c s) {f : Ctx → Ctx} (hf : ∀ y, (f y).resolved = y.resolved ∧ (f y).cmd = y.cmd ∧ (f y).cid = y.cid ∧ (f y).stair = y.stair) :
    Resolving n c (s.modCtx n f) := by
  obtain ⟨y, hy, hres, hcmd, hcid, hstair⟩ := h
  obtain ⟨hfres, hfcmd, hfcid, hfstair⟩ := hf y
  exact ⟨f y, ctx_modCtx_same hy f, hfres.trans hres, hfcmd.trans hcmd, hfcid.trans hcid, hfstair.trans hstair⟩

theorem resolving_setRunit (h : Resolving n c s) (x : Nat) (r : Resolved) : Resolving n c (setRunit s n x r) :=
  resolving_modCtx h fun _ => ⟨rfl, rfl, rfl, rfl⟩

theorem resolving_finish (h : Resolving n c s) (sct sc dw0 : Nat) : Resolving n c (finish s n sct sc dw0) := by
  obtain ⟨y, hy, hres, hcmd, hcid, hstair⟩ := h
  by_cases hst : y.st = .ready
  · rw [finish_of_ready hy hst]
    exact ⟨y, hy, hres, hcmd, hcid, hstair⟩
  · exact ⟨_, ended_finish hy hst hstair sct sc dw0, hres, hcmd, hcid, hstair⟩

theorem resolving_dispatchSlot (h : Resolving n c s) (x k : Nat) : Resolving n c (dispatchSlot s n x k) := by
  unfold dispatchSlot
  split
  · exact resolving_setRunit h _ _
  · split
    · exact resolving_setRunit h _ _
    · exact resolving_of_ctx (resolving_setRunit (s := pinSlot s k) (resolving_of_ctx h rfl) _ _) rfl

theorem resolving_dispatchMedia (h : Resolving n c s) (ns x suite y : Nat) : Resolving n c (dispatchMedia s n ns x suite y) := by
  unfold dispatchMedia
  split
  · exact resolving_setRunit h _ _
  next t ht => exact resolving_of_ctx (resolving_setRunit (resolving_of_ctx h ((hallHeld_readUnit ht).ctx n)) _ _) rfl

theorem resolving_dispatchZero (h : Resolving n c s) (ns x : Nat) : Resolving n c (dispatchZero s n ns x) :=
  resolving_of_ctx (resolving_setRunit h x .zero) rfl

theorem resolving_resolveUnit (h : Resolving n c s) (d : Ctx) (ns x : Nat) : Resolving n c (resolveUnit s n d ns x) := by
  have hlook : Resolving n c (lookupLines s ns (own s x)).1 :=
    resolving_of_ctx h (ctx_of_mask (lookupLines_mask (sub_refl _) (mask_refl _ s)) (by decide))
  unfold resolveUnit
  dsimp only
  split
  · split
    · exact resolving_setRunit h _ _
    · split <;> exact resolving_setRunit h _ _
  · split
    · split
      · exact resolving_setRunit h _ _
      · split
        · exact resolving_dispatchSlot h _ _
        · exact resolving_setRunit h _ _
        · exact resolving_dispatchMedia h _ _ _ _
    · split
      · exact resolving_setRunit hlook _ _
      · split
        · exact resolving_dispatchMedia hlook _ _ _ _
        · split
          · exact resolving_setRunit hlook _ _
          · exact resolving_dispatchZero hlook _ _
        · exact resolving_dispatchZero hlook _ _
        · exact resolving_setRunit hlook _ _
        · exact resolving_setRunit hlook _ _

theorem resolving_readerCheck (h : Resolving n c s) : Resolving n c (readerCheck s n) := by
  unfold readerCheck
  split
  · exact h
  next y hy =>
    split
    · exact h
    · split
      · exact h
      · dsimp only
        split
        · refine resolving_finish ?_ _ _ _
          refine resolving_modCtx (resolving_of_ctx h ?_) fun _ => ⟨rfl, rfl, rfl, rfl⟩
          exact ctx_of_mask (returnSlots_mask (sub_refl _) (mask_refl _ s)) (by decide)
        · exact foldl_holds (fun _ e hb => resolving_of_ctx hb (ctx_of_mask (modSlot_mask (sub_refl _) (mask_refl _ _)) (by decide))) _ h
        · exact resolving_finish h _ _ _
        · exact resolving_finish h _ _ _

end Sys2Proof.Machine
end

section
/-!
PROOF. Fetching a submission, resolving a reader, committing a unit and posting a completion (R64, R82 to R86, R93, R97, R101, R166).
-/
namespace Sys2Proof.Machine

variable {s : State} {n p sq cid : Nat} {c : Ctx} {cmd : HostCmd}

/-! ## Fetching -/

/-- An I/O command ends no test and begins no sanitize and no lock change. -/
theorem ingest_of_io (h : isIo cmd = true) (s : State) (n : Nat) : beginLock (beginSanitize (endTest s cmd) cmd) n cmd = s := by
  cases cmd <;> simp [isIo, ioNs] at h <;> rfl

theorem supervisorRuns_of_io (h : isIo cmd = true) : supervisorRuns cmd = false := by
  cases cmd <;> simp [isIo, ioNs] at h <;> rfl

theorem fetch_class (hio : isIo cmd = true) (hsq : sq ≠ 0) : (isIo cmd != (sq != 0)) = false := by
  rw [hio, bne_iff_ne.2 hsq]
  rfl

/-- The context that a fetch gives a command. -/
def fetchedCtx (s : State) (p sq cid : Nat) (cmd : HostCmd) (checked : Bool) : Ctx :=
  { port := p, sq := sq, cid := cid, cmd := cmd, held := (ioNs cmd).isSome && keyHeld s s.hall.next (readSpans s cmd ++ writeSpans s cmd),
    reads := if checked then tracked s (readSpans s cmd) else [], writes := if checked then tracked s (writeSpans s cmd) else [] }

/-- The state in which a submission has been taken from its queue. -/
def fetched (s : State) (p sq cid : Nat) (cmd : HostCmd) (q : SubQ) (arb : ArbSt) (checked : Bool) : State :=
  s.modHall fun h => { h with
    next := s.hall.next + 1, sqs := Tbl.put h.sqs (qkey p sq) { q with head := (q.head + 1) % q.size }, arb := Tbl.put h.arb p arb, lastPort := p,
    ctxs := Tbl.put h.ctxs s.hall.next (fetchedCtx s p sq cid cmd checked) }

theorem ctx_fetched_same (q : SubQ) (arb : ArbSt) (checked : Bool) :
    (fetched s p sq cid cmd q arb checked).ctx s.hall.next = some (fetchedCtx s p sq cid cmd checked) := Tbl.find_put_same _ _ _

theorem ctx_fetched_other (q : SubQ) (arb : ArbSt) (checked : Bool) {m : Nat} (h : m ≠ s.hall.next) :
    (fetched s p sq cid cmd q arb checked).ctx m = s.ctx m := Tbl.find_put_other _ _ h

section
variable {q : SubQ} {arb : ArbSt} (hio : isIo cmd = true) (hsq : sq ≠ 0) (hq : Tbl.find s.hall.sqs (qkey p sq) = some q) (harb : takeTurn s p sq = some arb)
include hio hsq hq harb

/-- A command that passes its checks is fetched; one with an older command in its way is counted. -/
theorem execSubmissionFetch_passed (hpass : ingestStatus s s.hall.next p cmd = none) : ∃ waits : Bool, exec (.submissionFetch p sq cid cmd) s =
    .next (if waits then (fetched s p sq cid cmd q arb true).wr HAL_OVERLAP_CNT.V (s.rd HAL_OVERLAP_CNT.V + 1) else fetched s p sq cid cmd q arb true) := by
  refine ⟨!(((readSpans s cmd).all fun x => mayResolve s s.hall.next x) && (writeSpans s cmd).all fun x => mayCommit s s.hall.next x), ?_⟩
  show execSubmissionFetch p sq cid cmd s = _
  simp only [execSubmissionFetch, hq, harb, fetch_class hio hsq, Bool.false_eq_true, if_false, hpass, Option.isSome_none, Option.isNone_none, Bool.true_and,
    ingest_of_io hio, supervisorRuns_of_io hio, Bool.false_and]
  rfl

theorem execSubmissionFetch_failed {a b : Nat} (hfail : ingestStatus s s.hall.next p cmd = some (a, b)) (hdefer : (a, b) ≠ (7, 0xC0)) :
    exec (.submissionFetch p sq cid cmd) s = .next (finish (fetched s p sq cid cmd q arb false) s.hall.next a b) := by
  have hno : (a = 7 && b = 0xC0 : Bool) = false := by
    simp only [ne_eq, Prod.mk.injEq] at hdefer
    simp only [Bool.and_eq_false_iff, decide_eq_false_iff_not]
    exact not_and_or.1 hdefer
  show execSubmissionFetch p sq cid cmd s = _
  simp only [execSubmissionFetch, hq, harb, fetch_class hio hsq, Bool.false_eq_true, if_false, hfail, Option.isSome_some, Option.isNone_some, Bool.false_and,
    hno, if_true]
  rfl

end

/-! ## Posting -/

theorem readerCheck_of_waiting (hc : s.ctx n = some c) (h : c.st = .running → c.resolved = false) : readerCheck s n = s := by
  have hgo : (decide (c.st ≠ .running) || !c.resolved || c.reads.isEmpty) = true := by
    by_cases hst : c.st = .running
    · simp [h hst]
    · simp [hst]
  simp only [readerCheck, hc, hgo, if_true]

/-- Without a deletion under way none is checked. -/
theorem deleteCheck_of_none (h : ∀ e ∈ s.hall.sqs, e.2.deleting = none) : deleteCheck s = s :=
  foldl_fixed _ fun e he => by simp only [h e he]

/-- The state in which a completion has been posted, before the interrupt. -/
def posted (s : State) (n : Nat) (c : Ctx) (q : SubQ) (d : ComQ) : State :=
  let s := s.emit (.completion c.port c.sq c.cid q.cq q.head c.sct c.sc c.dw0 d.phase)
  s.modHall fun h => { h with
    cqs := Tbl.put h.cqs (qkey c.port q.cq) { d with tail := if d.tail + 1 = d.size then 0 else d.tail + 1,
                                                     phase := if d.tail + 1 = d.size then !d.phase else d.phase },
    ctxs := Tbl.del h.ctxs n,
    tails := if unitsSettled s c.wunits then h.tails
             else Tbl.put h.tails n { ns := ((c.writes.head?).map fun y => y.ns).getD 0, units := c.wunits, cmd := some c.cmd } }

/-- What keeps a completion from being posted (R64, R97, R98). -/
def postHeld (s : State) (n : Nat) (c : Ctx) (d : ComQ) : Bool :=
  c.st ≠ .ready || c.stair.isSome || olderInQueue s n c || (d.tail + 1) % d.size = d.head || !(s.hport c.port).bme || (s.hport c.port).d3 || ringHolds s c || s.pwr.frozen

theorem postCompletion_of_free {q : SubQ} {d : ComQ} (hc : s.ctx n = some c) (hq : Tbl.find s.hall.sqs (qkey c.port c.sq) = some q)
    (hd : Tbl.find s.hall.cqs (qkey c.port q.cq) = some d) (hst : c.st = .ready) (hfree : postHeld s n c d = false) (hien : d.ien = false)
    (hdel : ∀ e ∈ s.hall.sqs, e.2.deleting = none) : postCompletion s n = posted s n c q d := by
  have hcheck : readerCheck s n = s := readerCheck_of_waiting hc (by rw [hst]; exact fun h => nomatch h)
  rw [postHeld] at hfree
  simp only [postCompletion, hcheck, hc, hq, hd, hfree, Bool.false_eq_true, if_false, decide_eq_true_eq]
  rw [if_neg (Bool.eq_false_iff.1 hien)]
  exact deleteCheck_of_none (s := posted s n c q d) hdel

theorem postCompletion_of_held (hc : s.ctx n = some c) (hst : c.st ≠ .ready) (hrun : c.st = .running → c.resolved = false) : postCompletion s n = s := by
  simp only [postCompletion, readerCheck_of_waiting hc hrun, hc]
  split
  · rfl
  · split
    · rfl
    · simp [hst]

theorem execCompletionPost_eq (h : s.clo.recovery = false) : exec (.completionPost n) s = .next (postCompletion s n) := by
  have hagain : (match s.ctx n with
      | some c => s.clo.recovery && c.sct == 0 && c.sc == 0 && (match c.cmd with
          | .fwCommit a _ => decide (1 ≤ a ∧ a ≤ 3)
          | _ => false)
      | none => false) = false := by
    split
    · simp only [h, Bool.false_and]
    · rfl
  refine congrArg Host.Outcome.next (if_neg ?_)
  rw [Bool.and_eq_true]
  exact fun hgo => Bool.false_ne_true (hagain.symm.trans hgo.1)

/-! ## Resolving and committing -/

theorem execReaderResolve_eq (hc : s.ctx n = some c) : exec (.readerResolve n) s = .next (resolveReader s n c) := by
  show execReaderResolve n s = _
  simp only [execReaderResolve, hc]

theorem resolving_resolveReader (hc : s.ctx n = some c) (hpan : s.on PAN_CTL.ENABLE = true) (hres : c.resolved = false) (hst : c.st = .running) (hstair : c.stair = none)
    (hmay : (c.reads.all fun x => mayResolve s n x) = true) : Resolving n c (resolveReader s n c) := by
  have hgo : (!panOn s || c.resolved || decide (c.st ≠ .running) || !(c.reads.all fun x => mayResolve s n x)) = false := by
    simp only [panOn, hpan, hres, hst, hmay, ne_eq, not_true_eq_false, decide_false, Bool.not_true, Bool.or_self]
  have hbegin : Resolving n c (s.modCtx n fun c => { c with resolved := true, chan := chanOf c.port n }) :=
    ⟨_, ctx_modCtx_same hc _, rfl, rfl, rfl, hstair⟩
  have hunits := foldl_holds (P := Resolving n c) (f := fun s u => resolveUnit s n c (readNs c) u)
    (fun s x hs => resolving_resolveUnit hs c (readNs c) x) (readerUnits c) hbegin
  simp only [resolveReader, hgo, Bool.false_eq_true, if_false]
  refine resolving_readerCheck (resolving_of_ctx hunits ?_)
  exact ctx_of_mask (askReads_mask (sub_refl _) (mask_refl _ _)) (by decide)

theorem execUnitCommit_eq {ext : Nat} {w : Writer} {u : WUnit} (hw : writerOf s n = some w) (hu : (w.units.find? fun u => u.ext == ext && u.st == .waiting) = some u) :
    exec (.unitCommit n ext) s = .next (commitUnit s n w u) := by
  show execUnitCommit n ext s = _
  simp only [execUnitCommit, hw, hu]

theorem unit_waits {ext : Nat} {u : WUnit} {l : List WUnit} (hu : (l.find? fun u => u.ext == ext && u.st == .waiting) = some u) : u.st = .waiting := by
  have hfound := List.find?_some hu
  simp only [Bool.and_eq_true, beq_iff_eq] at hfound
  exact hfound.2

theorem commitUnit_of_later {w : Writer} {u : WUnit} (hturn : unitTurn s n u = false) : commitUnit s n w u = s := by
  simp [commitUnit, hturn]

/-- An admitted unit of the device's own share commits in its turn. -/
theorem commitUnit_of_turn {w : Writer} {u : WUnit} (hst : u.st = .waiting) (hshare : u.share = 0) (htags : w.tags = []) (hturn : unitTurn s n u = true)
    (hpan : s.on PAN_CTL.ENABLE = true) (hworker : isWorker s = false) (hpart : u.part = []) (hadm : unitAdmitted s w.cmd u = true)
    (hroom : s.pan.overlay.length + (slotUnits w.cmd u).length ≤ 524288) (hholdup : s.pwr.straps.holdup = false) (hslots : slotUnits w.cmd u ≠ []) :
    commitUnit s n w u = panFlags (writerDone (modWunit (applyUnit s n w u).1 n u { u with st := .committed, tag := some (applyUnit s n w u).2 }) n) := by
  simp [commitUnit, panOn, hst, hshare, htags, hturn, hpan, hworker, hpart, hadm, Nat.not_lt.2 hroom, hholdup, hslots]

/-- Settles O26. -/
theorem hallFetchAndPost : Obligations.HallFetchAndPost := by
  unfold Obligations.HallFetchAndPost
  intro s p sq cid n ext a b cmd q arb c d w u hinv
  have hs := regs_sorted hinv
  refine ⟨fun hio hsq hq harb => ⟨fun hpass => ?passed, fun hfail hok hdefer => ?failed⟩, fun harb => ?notTurn,
    fun hc hst hstair hq hd holder hroom hbme hd3 hring hfrozen hrec hien hdel => ?post, fun hc hst hrun hrec => ?notReady,
    fun hc hpan hres hst hstair hmay => ?resolve, fun hc hmay => ?mayNot, fun hw hu hshare htags => ⟨fun hturn hpan hworker hpart hadm hroom hholdup hslots => ?commit, fun hturn => ?later⟩⟩
  case passed =>
    obtain ⟨waits, hexec⟩ := execSubmissionFetch_passed (cid := cid) hio hsq hq harb hpass
    cases waits with
    | false =>
      exact ⟨_, _, hexec, only_of_mask (m := 256) (modHall_mask (sub_refl _) (mask_refl _ s)) (by decide), rfl, Tbl.find_put_same _ _ _, ctx_fetched_same _ _ _,
        rfl, rfl, rfl, rfl, rfl, regsBut_of_regs rfl, fun m hm => ctx_fetched_other _ _ _ hm⟩
    | true =>
      exact ⟨_, _, hexec, only_of_mask (m := 257) (wr_mask (by decide) (modHall_mask (by decide) (mask_refl _ s))) (by decide), rfl, Tbl.find_put_same _ _ _, ctx_fetched_same _ _ _,
        rfl, rfl, rfl, rfl, rfl, RegsBut.wr (regsBut_of_regs rfl) hs (Nat.le_of_ble_eq_true rfl) (by simp), fun m hm => ctx_fetched_other _ _ _ hm⟩
  case failed =>
    have hctx := ctx_fetched_same (s := s) (p := p) (sq := sq) (cid := cid) (cmd := cmd) q arb false
    have hfetched : Mask 768 s (fetched s p sq cid cmd q arb false) := modHall_mask (by decide) (mask_refl _ s)
    have hstand := othersStand_finish hctx (fun h => nomatch h) rfl a b 0
    refine ⟨_, _, execSubmissionFetch_failed hio hsq hq harb hfail hdefer, only_of_mask (finish_host_mask hctx (fun h => nomatch h) rfl a b 0 (sub_refl _) hfetched) (by decide),
      (congrArg Hall.next (finish_hall hctx (fun h => nomatch h) rfl a b 0)).trans rfl, ended_finish hctx (fun h => nomatch h) rfl a b 0, rfl, rfl, rfl, rfl, rfl, fun m hm => ?_⟩
    exact (hstand.1 m hm).trans (ctx_fetched_other _ _ _ hm)
  case notTurn =>
    show execSubmissionFetch p sq cid cmd s = _
    simp only [execSubmissionFetch, harb]
    split
    next h => cases h
    next => rfl
  case post =>
    have hfree : postHeld s n c d = false := by
      simp [postHeld, hst, hstair, holder, hroom, hbme, hd3, hring, hfrozen]
    have hexec := execCompletionPost_eq (n := n) hrec
    rw [postCompletion_of_free hc hq hd hst hfree hien hdel] at hexec
    refine ⟨_, hexec, only_of_mask (m := 1048832) (modHall_mask (by decide) (emit_mask (by decide) (mask_refl _ s))) (by decide), rfl, ?_, Tbl.find_del_same _ _,
      fun m hm => Tbl.find_del_other _ hm, rfl⟩
    exact Tbl.find_put_same _ _ _
  case notReady => exact (execCompletionPost_eq hrec).trans (congrArg Host.Outcome.next (postCompletion_of_held hc hst hrun))
  case resolve =>
    obtain ⟨y, hy, hyres, hcmd, hcid, -⟩ := resolving_resolveReader hc hpan hres hst hstair hmay
    exact ⟨_, y, execReaderResolve_eq hc, only_of_exec (execReaderResolve_eq hc), hy, hyres, hcmd, hcid⟩
  case mayNot =>
    rw [execReaderResolve_eq hc]
    simp [resolveReader, hmay]
  case commit =>
    rw [execUnitCommit_eq hw hu, commitUnit_of_turn (unit_waits hu) hshare htags hturn hpan hworker hpart hadm hroom hholdup hslots]
  case later => rw [execUnitCommit_eq hw hu, commitUnit_of_later hturn]

end Sys2Proof.Machine
end

section
/-!
PROOF. The I/O commands (Table 4-2): how each begins, the reclaim unit handles that I/O Management Receive lists, and what `settleCheck` does where no write, no
Format and no request to a worker is under way.
-/
namespace Sys2Proof.Machine

variable {s : State} {n : Nat} {c : Ctx}

/-! ## Beginning a command -/

theorem startIo_of_fresh (h : Fresh s n c) (f : Ctx → State) : startIo s n f = f c := by
  obtain ⟨hc, hst, hheld, -⟩ := h
  simp [startIo, hc, hst, hheld]

/-- A command that begins with a change of its context alone. -/
theorem begins_of_modCtx {i : Instr} (hc : s.ctx n = some c) {f : Ctx → Ctx} (h : exec i s = .next (s.modCtx n f)) :
    ∃ t, exec i s = .next t ∧ Only [.hall] s t ∧ OthersStand s t n ∧ t.ctx n = some (f c) :=
  ⟨_, h, only_modCtx f, othersStand_modCtx f, ctx_modCtx_same hc f⟩

theorem commandUnits_dsm (ns : Nat) (b : Bool) (l : List (Nat × Nat)) :
    commandUnits s (.dsm ns b l) = if b then l.flatMap fun r => writerUnits s ns r.1 r.2 else [] := by cases b <;> rfl

/-! ## Lists of descriptors of one length -/

theorem length_flatMap_range {α : Type} {f : Nat → List α} {k : Nat} (hf : ∀ i, (f i).length = k) (m : Nat) :
    ((List.range m).flatMap f).length = k * m := by
  induction m with
  | zero => rfl
  | succ m ih => simp [List.range_succ, ih, hf, Nat.mul_succ]

/-- The `i`-th of a row of descriptors of `k` entries each. -/
theorem slice_flatMap_range {α : Type} {f : Nat → List α} {k m i : Nat} (hf : ∀ i, (f i).length = k) (hi : i < m) :
    (((List.range m).flatMap f).drop (k * i)).take k = f i := by
  induction m with
  | zero => omega
  | succ m ih =>
    have hlen := length_flatMap_range hf m
    rw [List.range_succ, List.flatMap_append, List.flatMap_singleton]
    by_cases him : i = m
    · subst him
      rw [← hlen, List.drop_left, ← hf i, List.take_length]
    · have hroom : k * i + k ≤ k * m := by
        rw [← Nat.mul_succ]
        exact Nat.mul_le_mul_left k (by omega)
      rw [List.drop_append_of_le_length (by omega), List.take_append_of_le_length (by rw [List.length_drop]; omega)]
      exact ih (by omega)

/-- The descriptor of reclaim unit handle `h` in reclaim group `rg`. -/
def handleRow (s : State) (rg h : Nat) : List (Nat × Nat) := [(2, rg * 8192 + h), (2, h), (4, 0), (8, handleRoom s rg h), (16, 0)]

/-- The descriptors of all reclaim unit handles. -/
def handleRows (s : State) : List (Nat × Nat) := (List.range 8).flatMap fun rg => (List.range 16).flatMap fun h => handleRow s rg h

theorem length_handleRows_group (s : State) (rg : Nat) : ((List.range 16).flatMap fun h => handleRow s rg h).length = 80 :=
  length_flatMap_range (k := 5) (fun _ => rfl) 16

theorem length_handleRows (s : State) : (handleRows s).length = 5 * 128 := length_flatMap_range (length_handleRows_group s) 8

theorem slice_handleRows {rg h : Nat} (hrg : rg < 8) (hh : h < 16) : ((handleRows s).drop (5 * (16 * rg + h))).take 5 = handleRow s rg h := by
  have hgroup := slice_flatMap_range (f := fun rg => (List.range 16).flatMap fun h => handleRow s rg h) (length_handleRows_group s) hrg
  have hrow := slice_flatMap_range (f := fun h => handleRow s rg h) (k := 5) (fun _ => rfl) hh
  rw [← hgroup, List.drop_take, List.take_take, Nat.min_eq_left (by omega), List.drop_drop] at hrow
  rw [← hrow, show 5 * (16 * rg + h) = 80 * rg + 5 * h by omega]
  rfl

/-! ## What has settled (R104, R108) -/

/-- A running command goes on where what it waits for has settled. -/
def settleOne (s : State) (e : Nat × Ctx) : State :=
  let c := e.2
  if c.st ≠ .running then s
  else match c.cmd with
    | .flush ns =>
      if (c.waitFor.all fun m => writeSettled s m) && !s.sta.reqs.any (fun r => r.req.ingest == e.1) then
        if c.hit && armedFor s ns then finish (reportDeferred s ns) e.1 7 0xC0 else finishOk s e.1
      else s
    | .ioMgmtSend _ _ => if c.waitFor.all fun t => programmed s t then finishOk s e.1 else s
    | _ =>
      if c.fua && !c.wunits.isEmpty && c.wunits.all (fun u => u.st != .waiting) && unitsSettled s c.wunits && c.tags.isEmpty then
        if c.wunits.all fun u => u.st == .abandoned then s else finishOk s e.1
      else s

/-- The writes that were settling and have settled go. -/
def dropSettled (s : State) : State := s.modLdr fun l => { l with settling := l.settling.filter fun m => !writeSettled s m }

theorem dropSettled_of_none (h : s.ldr.settling = []) : dropSettled s = s := by
  rw [dropSettled, State.modLdr, h, List.filter_nil, ← h]

theorem pruneDeps_of_none (h : s.pan.deps = []) : pruneDeps s = s := by
  rw [pruneDeps, h]
  rfl

theorem formatCheck_of_none (h : ∀ e ∈ s.nvm.spaces, e.2.formatting = none) : formatCheck s = s :=
  foldl_fixed _ fun e he => by simp only [h e he]

theorem modHall_tails_nil (h : s.hall.tails = []) (p : Nat → Tail → Bool) : s.modHall (fun x => { x with tails := Tbl.keep x.tails p }) = s := by
  have hkeep : Tbl.keep s.hall.tails p = s.hall.tails := by rw [h]; rfl
  rw [State.modHall, hkeep]

/-- Where nothing of a write is kept, no Format runs and no request to a worker is out, only the contexts are looked at. -/
theorem settleCheck_eq (hdeps : s.pan.deps = []) (htails : s.hall.tails = []) (hformat : ∀ e ∈ s.nvm.spaces, e.2.formatting = none) :
    settleCheck s = (dropSettled (nsOpCheck s)).each (nsOpCheck s).hall.ctxs settleOne := by
  have hloop (f : State → Nat × Tail → State) : s.each s.hall.tails f = s := by
    rw [htails]
    rfl
  simp only [settleCheck, pruneDeps_of_none hdeps, hloop, modHall_tails_nil htails, formatCheck_of_none hformat]
  rfl

/-- One command that is no namespace operation: it alone is looked at. -/
theorem settleCheck_single (hctxs : s.hall.ctxs = [(n, c)]) (hdeps : s.pan.deps = []) (htails : s.hall.tails = []) (hspaces : s.nvm.spaces = [])
    (hsettling : s.ldr.settling = []) (hns : nsOpCheck s = s) : settleCheck s = settleOne s (n, c) := by
  rw [settleCheck_eq hdeps htails (by simp [hspaces]), hns, dropSettled_of_none hsettling, hctxs]
  rfl

theorem nsOpCheck_single (hctxs : s.hall.ctxs = [(n, c)]) (hcmd : match c.cmd with
    | .nsCreate _ _ _ _ _ | .nsDelete _ | .nsAttach _ _ _ => False
    | _ => True) : nsOpCheck s = s := by
  rw [nsOpCheck, hctxs, State.each, List.foldl_cons, List.foldl_nil]
  dsimp only
  split
  · rfl
  · split <;> simp_all

theorem ctxs_modCtx_single (hctxs : s.hall.ctxs = [(n, c)]) (f : Ctx → Ctx) : (s.modCtx n f).hall.ctxs = [(n, f c)] := by
  rw [State.modCtx, State.modHall_hall, hctxs]
  simp [Tbl.upd]

theorem ctx_of_single (hctxs : s.hall.ctxs = [(n, c)]) : s.ctx n = some c := by
  rw [State.ctx, hctxs]
  simp [Tbl.find]

theorem closeHostFronts_of_none (h : s.ldr.fronts = []) (ns : Option Nat) : closeHostFronts s ns = s := by
  rw [closeHostFronts, h]
  rfl

/-- Settles O27. -/
theorem hallCommands : Obligations.HallCommands := by
  unfold Obligations.HallCommands
  intro s n ns a k b fua c pr pl l places hinv hfresh
  obtain ⟨hc, hst, hheld, hstair⟩ := hfresh
  have hstart := startIo_of_fresh ⟨hc, hst, hheld, hstair⟩
  have hready : c.st ≠ .ready := by rw [hst]; exact fun h => nomatch h
  refine ⟨fun hcmd => ?write, fun hcmd => ?uncorr, fun hcmd => ?zeroes, fun hcmd => ?copy, fun hcmd => ?read, fun hcmd => ?compare, fun hcmd => ?verify,
    fun hcmd hunits => ?deallocate, fun hcmd => ?noDeallocate, fun hcmd => ?receive, fun hctxs htails hfronts hdeps hspaces hsettling hman hreqs => ⟨fun hcmd hhit => ?flush, fun hcmd => ?send⟩⟩
  case write =>
    have hexec : exec (.write n) s = .next (startWriter s n c fua) := congrArg Host.Outcome.next ((hstart _).trans (by rw [hcmd]))
    rw [startWriter, hcmd] at hexec
    exact begins_of_modCtx hc hexec
  case uncorr =>
    have hexec : exec (.writeUncorrectable n) s = .next (startWriter s n c false) := congrArg Host.Outcome.next ((hstart _).trans (by rw [hcmd]))
    rw [startWriter, hcmd] at hexec
    exact begins_of_modCtx hc hexec
  case zeroes =>
    have hexec : exec (.writeZeroes n) s = .next (startWriter s n c fua) := congrArg Host.Outcome.next ((hstart _).trans (by rw [hcmd]))
    rw [startWriter, hcmd] at hexec
    exact begins_of_modCtx hc hexec
  case copy =>
    have hexec : exec (.copy n) s = .next (startWriter s n c fua) := congrArg Host.Outcome.next ((hstart _).trans (by rw [hcmd]))
    rw [startWriter, hcmd] at hexec
    exact begins_of_modCtx hc hexec
  case read =>
    have hexec : exec (.read n) s = .next (runCtx s n) := congrArg Host.Outcome.next ((hstart _).trans (by rw [hcmd]))
    exact begins_of_modCtx hc hexec
  case compare =>
    have hexec : exec (.compare n) s = .next (runCtx s n) := congrArg Host.Outcome.next ((hstart _).trans (by rw [hcmd]))
    exact begins_of_modCtx hc hexec
  case verify =>
    have hexec : exec (.verify n) s = .next (runCtx s n) := congrArg Host.Outcome.next ((hstart _).trans (by rw [hcmd]))
    exact begins_of_modCtx hc hexec
  case deallocate =>
    have hempty : (l.flatMap fun r => writerUnits s ns r.1 r.2).isEmpty = false := List.isEmpty_eq_false_iff.2 hunits
    have hexec : exec (.datasetManagement n) s = .next (s.modCtx n fun c =>
        { c with st := .running, wunits := l.flatMap fun r => writerUnits s ns r.1 r.2, fua := allFua s c.port }) :=
      congrArg Host.Outcome.next ((hstart _).trans (by simp [hcmd, commandUnits_dsm, hempty]))
    exact begins_of_modCtx hc hexec
  case noDeallocate =>
    have hexec : exec (.datasetManagement n) s = .next (finishOk s n) :=
      congrArg Host.Outcome.next ((hstart _).trans (by simp [hcmd, commandUnits_dsm]))
    exact ⟨_, hexec, only_finish_zero hc hready hstair 0, othersStand_finish hc hready hstair 0 0 0, ended_finish hc hready hstair 0 0 0⟩
  case receive =>
    let told := s.emit (.adminData n ([(14, 0), (2, 128)] ++ handleRows s))
    have hexec : exec (.ioManagementReceive n) s = .next (finishOk told n) := congrArg Host.Outcome.next ((hstart _).trans (by rw [hcmd]; rfl))
    have hfinish : finishOk told n = _ := finish_zero (s := told) hc hready hstair 0
    rw [hfinish] at hexec
    refine ⟨_, handleRows s, hexec, only_of_mask (m := 1048832) (modCtx_mask (by decide) (emit_mask (by decide) (mask_refl _ s))) (by decide),
      othersStand_modCtx (s := told) _, ctx_modCtx_same (s := told) hc _, rfl, length_handleRows s, fun rg h hrg hh => slice_handleRows hrg hh⟩
  case flush =>
    let waiting := s.modCtx n fun c => { c with st := .running, waitFor := [] }
    have hscope : flushScope s n ns = [] := by simp [flushScope, hctxs, htails]
    have hwctxs : waiting.hall.ctxs = [(n, { c with st := .running, waitFor := [] })] := ctxs_modCtx_single hctxs _
    have hone : settleCheck waiting = finishOk waiting n := by
      rw [settleCheck_single hwctxs hdeps htails hspaces hsettling (nsOpCheck_single hwctxs (by simp [hcmd]))]
      have hnone : waiting.sta.reqs = [] := hreqs
      simp [settleOne, hcmd, hnone, hhit]
    have hexec : exec (.flush n) s = .next (settleCheck waiting) := by
      refine congrArg Host.Outcome.next ((hstart _).trans ?_)
      simp only [hcmd, hscope]
      rw [closeHostFronts_of_none (s := waiting) hfronts, if_neg (show ¬ isManager waiting = true from Bool.eq_false_iff.1 hman)]
    rw [hone] at hexec
    have hwc := ctx_of_single hwctxs
    rw [finishOk, finish_zero hwc (fun h => nomatch h) hstair] at hexec
    exact ⟨_, hexec, only_of_mask (m := 256) (modCtx_mask (by decide) (modCtx_mask (by decide) (mask_refl _ s))) (by decide), ctx_modCtx_same hwc _⟩
  case send =>
    let waiting := s.modCtx n fun c => { c with st := .running, waitFor := [] }
    have hwctxs : waiting.hall.ctxs = [(n, { c with st := .running, waitFor := [] })] := ctxs_modCtx_single hctxs _
    have hone : settleCheck waiting = finishOk waiting n := by
      rw [settleCheck_single hwctxs hdeps htails hspaces hsettling (nsOpCheck_single hwctxs (by simp [hcmd]))]
      simp [settleOne, hcmd]
    have hexec : exec (.ioManagementSend n) s = .next (settleCheck waiting) := by
      refine congrArg Host.Outcome.next ((hstart _).trans ?_)
      simp only [hcmd, hfronts]
      rfl
    rw [hone] at hexec
    have hwc := ctx_of_single hwctxs
    rw [finishOk, finish_zero hwc (fun h => nomatch h) hstair] at hexec
    exact ⟨_, hexec, only_of_mask (m := 256) (modCtx_mask (by decide) (modCtx_mask (by decide) (mask_refl _ s))) (by decide), ctx_modCtx_same hwc _⟩

end Sys2Proof.Machine
end

section
/-!
PROOF. Host data and its errors (R45, R49, R65 to R73): what the end of a command leaves in the error log, what a reader and a writer that fail leave of their
contexts, and the rows of the DMA channels.
-/
namespace Sys2Proof.Machine

variable {s t : State} {n : Nat} {c : Ctx}

/-! ## The error log -/

/-- The LBA that an Error Information entry of a command names (R155). -/
def errorLba (c : Ctx) : Nat :=
  c.badLba.getD (match c.cmd with
    | .read _ a _ _ => a
    | .write _ a _ _ _ _ => a
    | .compare _ a _ _ => a
    | .verify _ a _ _ => a
    | _ => 0)

/-- A command that fails leaves an entry with its queue, its identifier, its status and the LBA. -/
theorem finish_error (hc : s.ctx n = some c) (hst : c.st ≠ .ready) (hstair : c.stair = none) {sct : Nat} (hsct : sct ≠ 0) (sc dw0 : Nat) :
    ∃ k ns old, (Tbl.getD (finish s n sct sc dw0).nvm.errors c.port []) = [k, c.sq, c.cid, sct, sc, errorLba c, ns] :: old ∧
      (finish s n sct sc dw0).nvm.hostUnitsWritten = s.nvm.hostUnitsWritten := by
  have hbad : (decide (sct = 0) && decide (sc = 0)) = false := by rw [decide_eq_false hsct, Bool.false_and]
  refine ⟨((Tbl.getD s.nvm.errors c.port []).head?.bind List.head?).getD 0 + 1, (((c.reads ++ c.writes).head?).map fun x => x.ns).getD 0,
    (Tbl.getD s.nvm.errors c.port []).take 255, ?_, ?_⟩
  · simp only [finish, hc, hst, hstair, if_false, hbad, Bool.false_eq_true]
    exact Tbl.getD_put_same _ _ _ _
  · simp only [finish, hc, hst, hstair, if_false, hbad, Bool.false_eq_true]
    rfl

/-! ## A reader that is dropped -/

theorem hallHeld_startErase (s : State) (k : Nat) : HallHeld s (startErase s k) := by
  unfold startErase
  exact HallHeld.trans (t := (s.modSuite k _).modScu _) (hallHeld_of_hall rfl) (hallHeld_foldl (fun s m => hallHeld_offer s _ _) _ _)

theorem hallHeld_eraseIfDue (s : State) (k : Nat) : HallHeld s (eraseIfDue s k) := by
  unfold eraseIfDue
  split
  · exact HallHeld.trans (t := s.modPan _) (hallHeld_of_hall rfl) (hallHeld_startErase _ _)
  · exact hallHeld_of_hall rfl

theorem hallHeld_unpinMedia (s : State) (m suite unit : Nat) : HallHeld s (unpinMedia s m suite unit) := by
  unfold unpinMedia
  exact HallHeld.trans (t := s.modPan _) (hallHeld_of_hall rfl) (hallHeld_eraseIfDue _ _)

theorem hallHeld_unpinSlot (s : State) (k : Nat) : HallHeld s (unpinSlot s k) :=
  hallHeld_of_mask (unpinSlot_mask (sub_refl _) (mask_refl _ s)) (by decide)

/-- The resolutions of a reader that is dropped: a failed unit stays failed. -/
def droppedRunits (c : Ctx) : Tbl Resolved := Tbl.mapV c.runits fun _ r => match r with
  | .failed a b => .failed a b
  | _ => .done

theorem ctx_dropReader (hc : s.ctx n = some c) : (dropReader s n).ctx n = some { c with runits := droppedRunits c } := by
  unfold dropReader
  refine ctx_modCtx_same (c := c) ?_ _
  refine (HallHeld.ctx (s := s) (HallHeld.trans ?_ (hallHeld_of_hall rfl)) n).trans hc
  refine HallHeld.trans ?_ (hallHeld_foldl (fun s x => hallHeld_unpinMedia s _ _ _) _ _)
  refine HallHeld.trans (t := s.modLnd _) (hallHeld_of_hall rfl) (hallHeld_foldl (fun s w => ?_) _ _)
  split
  · exact hallHeld_unpinSlot _ _
  · exact hallHeld_of_hall rfl

/-! ## A writer that fails -/

/-- The context of a writer whose units and requests have been given up. -/
def givenUp (c : Ctx) : Ctx :=
  { c with tags := [], wunits := c.wunits.map fun u => if u.st = .waiting then { u with st := .abandoned, slots := [] } else u }

/-- What a writer that fails has returned. -/
def returned (s : State) (n : Nat) (c : Ctx) : State := (returnSlots (dropTags s n) c.wunits).modCtx n givenUp

theorem failWriter_eq (hc : s.ctx n = some c) (sct sc : Nat) : failWriter s n sct sc = finish (returned s n c) n sct sc := by
  rw [failWriter, hc]
  rfl

theorem returned_mask {μ : Nat} {s0 : State} (hm : Sub 3456 μ) (hk : Mask μ s0 s) : Mask μ s0 (returned s n c) :=
  modCtx_mask (sub_trans (by decide) hm) (returnSlots_mask (sub_trans (by decide) hm) (dropTags_mask (sub_trans (by decide) hm) hk))

theorem ctx_returned (hc : s.ctx n = some c) : (returned s n c).ctx n = some (givenUp c) := by
  refine ctx_modCtx_same (c := c) ?_ _
  exact (ctx_of_mask (returnSlots_mask (sub_refl _) (mask_refl _ _)) (by decide)).trans hc

theorem ended_failWriter (hc : s.ctx n = some c) (hst : c.st ≠ .ready) (hstair : c.stair = none) (sct sc : Nat) :
    Ended (failWriter s n sct sc) n (givenUp c) sct sc 0 := by
  rw [failWriter_eq hc]
  exact ended_finish (ctx_returned hc) hst hstair sct sc 0

/-! ## Channels -/

theorem tags_dropTag_single {ch tg unit : Nat} (h : s.chan ch = { s.chan ch with state := 1, tags := [(tg, n, unit)] }) :
    ((dropTag s ch n unit).chan ch).tags = [] := by
  rw [dropTag, chan_modChan_same, h]
  simp

theorem askHost_of_stopped (hc : s.ctx n = some c) (hbme : (s.hport c.port).bme = false) : askHost s n = s := by
  simp [askHost, hc, hbme]

theorem pumpChan_of_none (h : s.hall.ctxs = []) (ch : Nat) : pumpChan s ch = s := by
  rw [pumpChan, h]
  rfl

/-- A channel whose one command's port is no bus master requests nothing. -/
theorem pumpChan_of_stopped (hctxs : s.hall.ctxs = [(n, c)]) (hbme : (s.hport c.port).bme = false) (ch : Nat) : pumpChan s ch = s := by
  refine foldl_fixed _ fun e he => ?_
  rw [hctxs] at he
  have hen : e = (n, c) := List.mem_singleton.1 (List.mem_of_mem_filter he)
  rw [hen]
  exact askHost_of_stopped (ctx_of_single hctxs) hbme

theorem encrypt_modPorch (s : State) (f : Porch → Porch) (ns u : Nat) (d : Blk) : encrypt (s.modPorch f) ns u d = encrypt s ns u d := (rfl)

/-! ## The rows -/

/-- A channel with an outstanding request takes its answer. -/
theorem channel_expects {ch tg unit : Nat} (htag : s.chan ch = { s.chan ch with state := 1, tags := [(tg, n, unit)] }) :
    (!(s.chan ch).tags.any fun t => t.2 == (n, unit)) = false ∧ ¬ ((s.chan ch).state = 2 && (s.chan ch).cmd = some n) = true := by
  rw [htag]
  simp

section
variable {ch tg unit ns a k : Nat} {fua : Bool} {pl : Option Place} {pr : PrInfo} (hc : s.ctx n = some c) (hchan : c.chan = ch)
  (htag : s.chan ch = { s.chan ch with state := 1, tags := [(tg, n, unit)] }) (hcmd : c.cmd = .write ns a k fua pl pr)
include hc hchan htag hcmd

/-- A block that fails a selected check ends its write. -/
theorem execHostReadCompletion_failed {data : Blk} {md : Meta} {gd ap rf : Bool} {bad x e : Nat} (hsel : piSelects s ns pr = true)
    (hforms : piForms s ns pr = false) (hpi : piStatus pr gd ap rf = some (x, e)) :
    exec (.hostReadCompletion n unit data md gd ap rf bad) s = .next (failWriter (noteBad (dropTag s ch n unit) n ns unit bad) n x e) := by
  obtain ⟨hany, hstate⟩ := channel_expects htag
  have hsel' : (piSelects (dropTag s ch n unit) ns pr && !piForms (dropTag s ch n unit) ns pr) = true := by
    show (piSelects s ns pr && !piForms s ns pr) = true
    rw [hsel, hforms]
    rfl
  show execHostReadCompletion n unit data md gd ap rf bad s = _
  simp only [execHostReadCompletion, hc, hchan, hany, hstate, hcmd, hsel', Bool.false_eq_true, if_false, if_true, hpi]

/-- A block that no selected check fails is enciphered and stored in its slot. -/
theorem execHostReadCompletion_stored {data : Blk} {md : Meta} {gd ap rf : Bool} {bad j : Nat} {u : WUnit} (hsel : piSelects s ns pr = false)
    (hunits : c.wunits = [u]) (hslot : Tbl.find u.slots unit = some j) (hpart : u.part = []) (hleft : (c.tags.erase unit).isEmpty = false) :
    exec (.hostReadCompletion n unit data md gd ap rf bad) s =
      .next (pumpChan (((modSlot (dropTag s ch n unit) j fun x => { x with data := encrypt s ns unit data, md := md, st := 2 }).modCtx n fun x =>
        { x with tags := c.tags.erase unit }).modNvm fun x => { x with hostUnitsWritten := x.hostUnitsWritten + 1 }) ch) := by
  obtain ⟨hany, hstate⟩ := channel_expects htag
  have hsel' : piSelects (dropTag s ch n unit) ns pr = false := hsel
  have henc : encrypt (dropTag s ch n unit) ns unit data = encrypt s ns unit data := encrypt_modPorch s _ ns unit data
  have hfind : (c.wunits.findSome? fun u => (Tbl.find u.slots unit).map fun j => (j, Tbl.has u.part unit)) = some (j, false) := by
    rw [hunits]
    simp [hslot, hpart, Tbl.has]
  show execHostReadCompletion n unit data md gd ap rf bad s = _
  simp only [execHostReadCompletion, hc, hchan, hany, hstate, hcmd, hsel', hfind, hleft, henc, Bool.false_eq_true, if_false, Bool.false_and, Bool.or_self]

end

theorem interrupt_unmasked {p v : Nat} (hon : (s.hport p).msixOn = true) (hmask : (s.hport p).fmask = false) (hv : v ∈ (s.hport p).unmasked) :
    interrupt s p v = s.emit (.msix p v) := by
  simp [interrupt, hon, hmask, hv]

/-- Settles O28. -/
theorem hallDma : Obligations.HallDma := by
  unfold Obligations.HallDma
  intro s n unit tg ch p v cause ns a k j bad e gd ap rf data md fua pl pr c u x hinv
  refine ⟨fun hc hchan htag hcmd hunits hslot hpart hx htags hctxs hstair hbme => ?stored, fun hc hchan htag hcmd hst hstair hsel hforms hpi => ?failed,
    fun hc hchan hfound hcto => ?late, fun hdead => ?unexpected, fun hdead hctxs => ?reuse, fun hch hc hst hstair => ?drained, fun hcoal hon hmask hv => ?coalesced⟩
  case stored =>
    have hsel : piSelects s ns {} = false := by simp [piSelects]
    have hleft : c.tags.erase unit = [unit + 1] := by simp [htags]
    let stored := (modSlot (dropTag s ch n unit) j fun x => { x with data := encrypt s ns unit data, md := md, st := 2 }).modCtx n fun x => { x with tags := c.tags.erase unit }
    let counted := stored.modNvm fun x => { x with hostUnitsWritten := x.hostUnitsWritten + 1 }
    have hsingle : stored.hall.ctxs = [(n, { c with tags := c.tags.erase unit })] := ctxs_modCtx_single (s := modSlot (dropTag s ch n unit) j _) hctxs _
    have hpump : pumpChan counted ch = counted := pumpChan_of_stopped (s := counted) hsingle hbme ch
    have hexec := (execHostReadCompletion_stored (data := data) (md := md) (gd := gd) (ap := ap) (rf := rf) (bad := bad) hc hchan htag hcmd hsel hunits hslot hpart
      (by simp [hleft])).trans (congrArg Host.Outcome.next hpump)
    refine ⟨_, { x with data := encrypt s ns unit data, md := md, st := 2 }, hexec, ?_, ?_, rfl, rfl, rfl, ?_, ?_, rfl⟩
    · exact only_of_mask (m := 2944) (modNvm_mask (by decide) (modCtx_mask (by decide) (modSlot_mask (by decide) (dropTag_mask (by decide) (mask_refl _ s))))) (by decide)
    · exact (Tbl.find_upd_same _ _ _).trans (congrArg (Option.map _) hx)
    · rw [← hleft]
      exact ctx_of_single (s := counted) hsingle
    · exact tags_dropTag_single htag
  case failed =>
    have hexec := execHostReadCompletion_failed (data := data) (md := md) (bad := bad) hc hchan htag hcmd hsel hforms hpi
    let noted := noteBad (dropTag s ch n unit) n ns unit bad
    have hctx : noted.ctx n = some { c with badLba := some (unit * perUnit s ns + bad % perUnit s ns) } := ctx_modCtx_same (s := dropTag s ch n unit) hc _
    have hrun : c.st ≠ .ready := by rw [hst]; exact fun h => nomatch h
    have hend := ended_failWriter hctx hrun hstair 2 e
    obtain ⟨key, ns', old, herr, hcount⟩ := finish_error (ctx_returned hctx) hrun hstair (sct := 2) (by decide) e 0
    rw [← failWriter_eq hctx] at herr hcount
    refine ⟨_, hexec, only_of_exec hexec, ?_, ?_, ?_⟩
    · rw [hend]
      rfl
    · rw [show c.port = (givenUp { c with badLba := some (unit * perUnit s ns + bad % perUnit s ns) }).port from rfl, herr]
      rfl
    · exact hcount.trans (congrArg Nvm.hostUnitsWritten ((returned_mask (μ := 3456) (sub_refl _) (mask_refl _ noted)).2 .nvm (by decide)))
  case late =>
    let late := (dropTag s ch n unit).modHport c.port fun x => { x with deadTags := tg :: x.deadTags, aer := x.aer ++ [14] }
    have hlate : late.ctx n = some c := hc
    have hexec : exec (.completionTimeoutExpiry n unit) s = .next (haltChan late n 1) := by
      show execCompletionTimeoutExpiry n unit s = _
      simp only [execCompletionTimeoutExpiry, hc, hchan, hfound, hcto, Bool.false_eq_true, if_false]
      rfl
    have hhalt : haltChan late n 1 = late.modChan ch fun x => { x with state := 2, cause := 1, haltCount := satInc 8 x.haltCount, cmd := some n } := by
      simp only [haltChan, hlate, hchan]
    rw [hhalt] at hexec
    refine ⟨_, hexec, only_of_exec hexec, ?_⟩
    rw [chan_modChan_same, hport_modChan, hport_modHport_same, chan_modHport, dropTag, chan_modChan_same]
    exact ⟨rfl, rfl, rfl, rfl, rfl, List.mem_cons_self⟩
  case unexpected =>
    have hexec : exec (.unexpectedCompletion p tg) s = .next (s.modHport p fun x => { x with aer := x.aer ++ [16] }) :=
      congrArg Host.Outcome.next (if_pos (List.contains_iff_mem.2 hdead))
    obtain ⟨t, hexec, honly, ht, hchans, -⟩ := exec_modHport hexec
    exact ⟨t, hexec, honly, ht, hchans⟩
  case reuse =>
    have hpump : (s.modHport p fun x => { x with deadTags := x.deadTags.erase tg }).each (List.range 64) (fun s c => pumpChan s (64 * p + c)) =
        s.modHport p fun x => { x with deadTags := x.deadTags.erase tg } := foldl_fixed _ fun i _ => pumpChan_of_none (s := s.modHport p _) hctxs _
    obtain ⟨t, hexec, honly, ht, hchans, -⟩ := exec_modHport (c := .timedOutTagReuse p tg) (congrArg Host.Outcome.next hpump)
    exact ⟨t, hexec, honly, ht, hchans⟩
  case drained =>
    have hrun : c.st ≠ .ready := by rw [hst]; exact fun h => nomatch h
    let freed := s.modChan ch fun y => { y with state := if y.tags.isEmpty then 0 else 1, cmd := none }
    have hexec : exec (.dmaDrainComplete ch) s = .next (pumpChan (failWriter (dropReader freed n) n 0 (if cause = 4 then 6 else 4)) ch) := by
      show execDmaDrainComplete ch s = _
      rw [execDmaDrainComplete, hch]
      rfl
    have hend := ended_failWriter (ctx_dropReader (s := freed) hc) hrun hstair 0 (if cause = 4 then 6 else 4)
    refine ⟨_, hexec, only_of_exec hexec, ?_⟩
    rw [ctx_of_mask (pumpChan_mask (sub_refl _) (mask_refl _ _)) (by decide), hend]
    rfl
  case coalesced =>
    let gone := s.modHall fun h => { h with coal := Tbl.del h.coal (qkey p v) }
    have hexec : exec (.aggregationTimeExpiry p v) s = .next (gone.emit (.msix p v)) :=
      congrArg Host.Outcome.next ((if_pos hcoal).trans (interrupt_unmasked (s := gone) hon hmask hv))
    exact ⟨_, hexec, only_of_mask (m := 1048832) (emit_mask (by decide) (modHall_mask (by decide) (mask_refl _ s))) (by decide), rfl, Tbl.find_del_same _ _, rfl⟩

end Sys2Proof.Machine
end

section
/-!
PROOF. The Hall's registers, its idling, the arbiter's window and the host's reservation (R36, R96, R123 to R133, R178, R213).
-/
namespace Sys2Proof.Machine

variable {s t : State} {n : Nat} {c : Ctx}

/-! ## Fetching is enabled (R122) -/

theorem regsBut_set1 {f : Fld} (hs : Tbl.sorted s.regs = true) (hf : f.lsb + f.width ≤ 64) : RegsBut s (s.set1 f) [f] := regsBut_wr hs hf List.mem_cons_self

theorem regsBut_clr1 {f : Fld} (hs : Tbl.sorted s.regs = true) (hf : f.lsb + f.width ≤ 64) : RegsBut s (s.clr1 f) [f] := regsBut_wr hs hf List.mem_cons_self

theorem keysCheck_sorted (hs : Tbl.sorted s.regs = true) : Tbl.sorted (keysCheck s).regs = true := by
  unfold keysCheck
  dsimp only
  split
  · exact set1_sorted hs
  · exact hs

theorem regsBut_keysCheck (hs : Tbl.sorted s.regs = true) : RegsBut s (keysCheck s) [STG_STATUS.KEYS_LOADED] := by
  unfold keysCheck
  dsimp only
  split
  · exact regsBut_set1 hs (by decide)
  · exact regsBut_of_regs rfl

/-! ## Idling (R128, R129) -/

theorem idleBut_of_idleFor {ps : Nat} (h : idleFor s ps = true) : idleBut s ps = true := by
  simp only [idleFor, Bool.and_eq_true] at h
  exact h.1.1

theorem execHallReportIdle_idle (hps : 3 ≤ requestedState s) (hidle : idleFor s (requestedState s) = true) (hfetch : s.on HAL_CTL.FETCH_EN = true)
    (hawake : asleep s = false) : exec .hallReportIdle s =
      .next (raise ((s.clr1 HAL_CTL.FETCH_EN).modPwr fun p => { p with idleReported := true }) 64 (evWord 0x13 (requestedState s))) := by
  have hgo : (!(decide (3 ≤ requestedState s) && idleBut s (requestedState s) && s.on HAL_CTL.FETCH_EN && !asleep s)) = false := by
    rw [decide_eq_true hps, idleBut_of_idleFor hidle, hfetch, hawake]
    rfl
  show execHallReportIdle s = _
  rw [execHallReportIdle]
  simp only [hgo, hidle, Bool.false_eq_true, if_false, if_true]

/-! ## The arbiter's window (R36) -/

theorem b2n_ne_zero (k : Nat) : (b2n (k != 0) % 2 != 0) = decide (k ≠ 0) := by
  by_cases hk : k = 0 <;> simp [b2n, hk]

/-- The window's report of a port's background share. -/
def windowReported (s : State) (n share emerg wait : Nat) : State :=
  ((s.wr (HAL_PORT_SHARE.SHARE n) share).wr (HAL_PORT_SHARE.EMERG n) emerg).wr (HAL_PORT_SHARE.HOST_WAIT n) wait

theorem windowReported_reads (hs : Tbl.sorted s.regs = true) {share emerg wait : Nat} (hshare : share < 2 ^ 10) :
    (windowReported s n share emerg wait).rd (HAL_PORT_SHARE.SHARE n) = share ∧
    (windowReported s n share emerg wait).on (HAL_PORT_SHARE.EMERG n) = (emerg % 2 != 0) ∧
    RegsBut s (windowReported s n share emerg wait) [HAL_PORT_SHARE.SHARE n, HAL_PORT_SHARE.EMERG n, HAL_PORT_SHARE.HOST_WAIT n] := by
  have hs1 := wr_sorted (f := HAL_PORT_SHARE.SHARE n) (v := share) hs
  have hs2 := wr_sorted (f := HAL_PORT_SHARE.EMERG n) (v := emerg) hs1
  have hwidth : (HAL_PORT_SHARE.SHARE n).lsb + (HAL_PORT_SHARE.SHARE n).width ≤ 64 := Nat.le_of_ble_eq_true rfl
  have hwidthE : (HAL_PORT_SHARE.EMERG n).lsb + (HAL_PORT_SHARE.EMERG n).width ≤ 64 := Nat.le_of_ble_eq_true rfl
  have hwidthW : (HAL_PORT_SHARE.HOST_WAIT n).lsb + (HAL_PORT_SHARE.HOST_WAIT n).width ≤ 64 := Nat.le_of_ble_eq_true rfl
  refine ⟨?_, ?_, ?_⟩
  · exact rd_wr_bits hs2 rfl rfl rfl (rd_wr_bits hs1 rfl rfl rfl ((State.rd_wr_same s _ _ hs hwidth).trans (Nat.mod_eq_of_lt hshare)))
  · exact on_wr_bits hs2 rfl rfl rfl (on_wr_same hs1 hwidthE)
  · exact RegsBut.wr (RegsBut.wr (regsBut_wr hs hwidth (by simp)) hs1 hwidthE (by simp)) hs2 hwidthW (by simp)

theorem not_mem_filter_ne (n : Nat) (l : List Nat) : n ∉ l.filter fun x => x != n := by simp

theorem execMediaArbiterWindowEnd_eq (hpop : populated s n = true) : exec (.mediaArbiterWindowEnd n) s =
    .next ((windowReported s n (min 1000 ((Tbl.getD s.hall.bgTime n 0 + Tbl.getD s.hall.emTime n 0) / 10)) (b2n (Tbl.getD s.hall.emTime n 0 != 0))
      (b2n (s.hall.hostWaited.contains n || hostWaits s n))).modHall fun h =>
        { h with bgTime := Tbl.del h.bgTime n, emTime := Tbl.del h.emTime n, hostWaited := h.hostWaited.filter fun x => x != n }) := by
  show execMediaArbiterWindowEnd n s = _
  rw [execMediaArbiterWindowEnd, hpop]
  rfl

/-! ## The host's reservation (R96, R178, R213) -/

/-- A run over the units of a writer that changes nothing of the Hall and keeps the units that they cover. -/
theorem foldl_units {f : State × List WUnit → WUnit → State × List WUnit}
    (hf : ∀ a u, (f a u).1.hall = a.1.hall ∧ (f a u).2.map (fun u => u.units) = a.2.map (fun u => u.units) ++ [u.units]) (l : List WUnit) (a : State × List WUnit) :
    (l.foldl f a).1.hall = a.1.hall ∧ (l.foldl f a).2.map (fun u => u.units) = a.2.map (fun u => u.units) ++ l.map (fun u => u.units) := by
  induction l generalizing a with
  | nil => exact ⟨rfl, by simp⟩
  | cons u l ih =>
    obtain ⟨hhall, hunits⟩ := ih (f a u)
    obtain ⟨hhall1, hunits1⟩ := hf a u
    refine ⟨hhall.trans hhall1, hunits.trans ?_⟩
    rw [hunits1]
    simp

theorem takeSlots_hall (s : State) (m : Nat) (f : Nat → Slot) : (takeSlots s m f).1.hall = s.hall := (takeSlots_mask (sub_refl _) (mask_refl _ s)).2 .hall (by decide)

/-- A write whose reservation is granted runs, with the same units. -/
theorem ctx_grantHost (hc : s.ctx n = some c) (hstair : c.stair = none)
    (hroom : (decide (groupsUsable s < groupsUsed s + c.wunits.countP (needsGroup s n)) && decide (0 < c.wunits.countP (needsGroup s n))) = false) :
    ∃ y, (grantHost s n).ctx n = some y ∧ y.st = .running ∧ y.cmd = c.cmd ∧ y.wunits.map (fun u => u.units) = c.wunits.map (fun u => u.units) := by
  have hhost : ¬ c.stair.isSome = true := by rw [hstair]; exact Bool.false_ne_true
  rw [grantHost, hc]
  simp only [hroom, Bool.false_eq_true, if_false]
  rw [if_neg hhost]
  generalize hfold : List.foldl _ (s, []) c.wunits = r
  have hkept : r.1.hall = s.hall ∧ r.2.map (fun u => u.units) = [] ++ c.wunits.map (fun u => u.units) := by
    rw [← hfold]
    refine foldl_units (fun a u => ⟨?_, by simp⟩) c.wunits (s, [])
    dsimp only
    split
    · exact takeSlots_hall _ _ _
    · split
      · split <;> exact takeSlots_hall _ _ _
      · exact takeSlots_hall _ _ _
  obtain ⟨hhall, hunits⟩ := hkept
  have hask (u : State) : (askHost u n).ctx n = u.ctx n := ctx_of_mask (askHost_mask (sub_refl _) (mask_refl _ _)) (by decide)
  have hctx (f : Ctx → Ctx) : (r.1.modCtx n f).ctx n = some (f c) := ctx_modCtx_same ((ctx_of_hall hhall).trans hc) f
  simp only [hask]
  split
  · apply Exists.intro
    refine And.intro ((each_keeps_eq (fun s => s.ctx n) ?_ _ _).trans (hctx _)) ⟨rfl, rfl, hunits⟩
    exact fun _ _ => rfl
  · exact ⟨_, hctx _, rfl, rfl, hunits⟩

/-- Where no group is left the write ends with Exception Budget Exceeded. -/
theorem grantHost_refused (hc : s.ctx n = some c)
    (hroom : (decide (groupsUsable s < groupsUsed s + c.wunits.countP (needsGroup s n)) && decide (0 < c.wunits.countP (needsGroup s n))) = true) :
    grantHost s n = finish (s.modCtx n fun c => { c with wunits := [] }) n 7 0xC4 := by
  rw [grantHost, hc]
  simp only [hroom, if_true]

theorem execLarderReservationGrant_host (hon : s.on LDR_CTL.ENABLE = true) (hdrain : s.on LDR_CTL.DRAIN = false) (hold : oldestWaiting s = some (n, c))
    (hst : c.st = .reserving) {need : Nat} (hneed : c.wunits.foldl (fun a u => a + (slotUnits c.cmd u).length) 0 = need) (hroom : need = 0 ∨ hostRoom s need = true) :
    exec (.larderReservationGrant .host) s = .next (grantHost s n) := by
  have hgo : (decide (need = 0) || hostRoom s need) = true := by
    rw [Bool.or_eq_true, decide_eq_true_eq]
    exact hroom
  show execLarderReservationGrant .host s = _
  simp only [execLarderReservationGrant, hon, hdrain, hold, hst, hneed, hgo, Bool.not_true, Bool.or_self, Bool.false_eq_true, if_false, decide_true, Bool.and_self, if_true]

/-- Settles O29. -/
theorem hallControl : Obligations.HallControl := by
  unfold Obligations.HallControl
  intro s v n p i need e c hinv
  have hs := regs_sorted hinv
  refine ⟨?enable, ?drain, ?hold, fun hps hidle hfetch hawake hwait hheld hroom => ?idle, fun hps => ?low, fun he hms htarget hidle hawake => ?apst, fun hpop => ?window,
    fun hon hdrain hold hc hst hstair hneed hroom => ⟨fun hgroups => ?granted, fun hneeds hgroups => ?refused⟩, fun hdrain => ?drained⟩
  case enable =>
    have hk := keysCheck_sorted hs
    have hf := set1_sorted (f := HAL_CTL.FETCH_EN) hk
    let ready := (((keysCheck s).set1 HAL_CTL.FETCH_EN).clr1 HAL_CTL.DRAIN_REQ).modPwr fun p => { p with idleReported := false }
    have hmask : Mask 128 ready (hallReady ready) := hallReady_mask (sub_refl _) (mask_refl _ ready)
    have hregs : (hallReady ready).regs = ready.regs := hmask.2 .regs (by decide)
    have hkeys : (keysCheck s).pwr = s.pwr := (keysCheck_mask (sub_refl _) (mask_refl _ s)).2 .pwr (by decide)
    have hexec : exec .fetchEnableSet s = .next (hallReady ready) := rfl
    refine ⟨_, hexec, only_of_exec hexec, (on_of_regs hregs).trans ?_, (on_of_regs hregs).trans (on_clr1_same hf (by decide)), RegsBut.of_regs ?_ hregs, (hmask.2 .pwr (by decide)).trans ?_⟩
    · exact on_wr_bits hf rfl rfl rfl (on_set1_same hk (by decide) (by decide))
    · exact RegsBut.of_regs (RegsBut.wr (RegsBut.wr (regsBut_mono (regsBut_keysCheck hs) (by simp)) hk (by decide) (by simp)) hf (by decide) (by simp)) rfl
    · show { (keysCheck s).pwr with idleReported := false } = _
      rw [hkeys]
  case drain => exact ⟨_, rfl, only_of_exec (c := .drainRequest) rfl, on_set1_same hs (by decide) (by decide), regsBut_set1 hs (by decide)⟩
  case hold =>
    refine ⟨_, rfl, only_of_exec (c := .backgroundHold v) rfl, ?_, regsBut_wr hs (by decide) (by simp)⟩
    rw [on_wr_same hs (by decide)]
    cases v <;> rfl
  case idle =>
    let stopped := (s.clr1 HAL_CTL.FETCH_EN).modPwr fun p => { p with idleReported := true }
    refine ⟨_, evWord 0x13 (requestedState s), execHallReportIdle_idle hps hidle hfetch hawake, ?_, on_clr1_same hs (by decide), regsBut_clr1 hs (by decide), rfl,
      seq_raise_of_room (s := stopped) (seqs_sorted (s := s) hinv) _ hwait hheld hroom, evWord_code _ _ _ _ _, evWord_detail _ _ _ _ _⟩
    exact only_of_mask (m := 8195) (raise_mask (by decide) (modPwr_mask (by decide) (clr1_mask (by decide) (mask_refl _ s)))) (by decide)
  case low =>
    show execHallReportIdle s = _
    simp [execHallReportIdle, Nat.not_le.2 hps]
  case apst =>
    have hgo : (decide (e.idleMs ≠ 0) && decide (3 ≤ e.target) && idleFor s (min 3 e.target) && !asleep s) = true := by
      rw [decide_eq_true hms, decide_eq_true htarget, hidle, hawake]
      rfl
    have hexec : exec (.apstIdleExpiry p i) s = .next (s.modHall fun h => { h with reqState := Tbl.setD h.reqState p e.target 0 }) := by
      show execApstIdleExpiry p i s = _
      simp only [execApstIdleExpiry, he, hgo, if_true]
    exact ⟨_, hexec, only_of_exec hexec, Tbl.getD_setD_same _ _ _ _, rfl⟩
  case window =>
    let bg := Tbl.getD s.hall.bgTime n 0
    let em := Tbl.getD s.hall.emTime n 0
    have hexec := execMediaArbiterWindowEnd_eq hpop
    have hgone (x : Tbl Nat) : Tbl.getD (Tbl.del x n) n 0 = 0 := by rw [Tbl.getD, Tbl.find_del_same]; rfl
    have hlt : min 1000 ((bg + em) / 10) < 2 ^ 10 := Nat.lt_of_le_of_lt (Nat.min_le_left _ _) (by decide)
    obtain ⟨hshare, hemerg, hbut⟩ := windowReported_reads (n := n) hs (emerg := b2n (em != 0)) (wait := b2n (s.hall.hostWaited.contains n || hostWaits s n)) hlt
    exact ⟨_, hexec, only_of_exec hexec, (rd_of_regs (State.modHall_regs _ _)).trans hshare, (on_of_regs (State.modHall_regs _ _)).trans (hemerg.trans (b2n_ne_zero em)), RegsBut.of_regs hbut (State.modHall_regs _ _), hgone _, hgone _, not_mem_filter_ne _ _⟩
  case granted =>
    have hno : (decide (groupsUsable s < groupsUsed s + c.wunits.countP (needsGroup s n)) && decide (0 < c.wunits.countP (needsGroup s n))) = false := by
      rw [Bool.and_eq_false_iff, decide_eq_false_iff_not, decide_eq_false_iff_not]
      omega
    have hexec := execLarderReservationGrant_host hon hdrain hold hst hneed hroom
    obtain ⟨y, hy⟩ := ctx_grantHost hc hstair hno
    exact ⟨_, y, hexec, only_of_exec hexec, hy⟩
  case refused =>
    have hyes : (decide (groupsUsable s < groupsUsed s + c.wunits.countP (needsGroup s n)) && decide (0 < c.wunits.countP (needsGroup s n))) = true := by
      rw [decide_eq_true hgroups, decide_eq_true hneeds]
      rfl
    have hexec := execLarderReservationGrant_host hon hdrain hold hst hneed hroom
    rw [grantHost_refused hc hyes] at hexec
    have hcut := ctx_modCtx_same hc fun c => { c with wunits := [] }
    have hrun : ({ c with wunits := [] } : Ctx).st ≠ .ready := by
      show c.st ≠ .ready
      rw [hst]
      exact fun h => nomatch h
    exact ⟨_, hexec, only_of_mask (finish_host_mask hcut hrun hstair 7 0xC4 0 (sub_refl _) (modCtx_mask (by decide) (mask_refl _ s))) (by decide),
      ended_finish hcut hrun hstair 7 0xC4 0⟩
  case drained =>
    show execLarderReservationGrant .host s = _
    simp only [execLarderReservationGrant, hdrain, Bool.or_true, if_true]

end Sys2Proof.Machine
end

section
/-!
PROOF. Admin commands of the Hall (R114 to R118, R136, R137): queues, Abort, asynchronous events.
-/
namespace Sys2Proof.Machine

variable {s : State} {n : Nat} {c : Ctx}

/-! ## Executing an admin command -/

theorem byHall_of_fresh (h : Fresh s n c) (hgo : adminGo s n = true) (f : Ctx → State) : byHall s n f = f c := by
  obtain ⟨hc, hst, -, hstair⟩ := h
  simp [byHall, hc, hst, hstair, hgo]

theorem bySup_of_fresh (h : Fresh s n c) (hturns : supTurns s = true) (hgo : adminGo s n = true) (f : Ctx → State) : bySup s n f = f c := by
  rw [bySup, if_pos hturns, byHall_of_fresh h hgo]

theorem Fresh.not_ready (h : Fresh s n c) : c.st ≠ .ready := by
  obtain ⟨-, hst, -, -⟩ := h
  rw [hst]
  exact fun h => nomatch h

/-- A command that ends with a status. -/
theorem ends_with {i : Instr} (h : Fresh s n c) {sct sc dw0 : Nat} (hexec : exec i s = .next (finish s n sct sc dw0)) :
    ∃ t, exec i s = .next t ∧ Only [.hall, .nvm] s t ∧ OthersStand s t n ∧ Ended t n c sct sc dw0 := by
  have hready := h.not_ready
  obtain ⟨hc, -, -, hstair⟩ := h
  exact ⟨_, hexec, only_finish hc hready hstair _ _ _, othersStand_finish hc hready hstair _ _ _, ended_finish hc hready hstair _ _ _⟩

theorem ends_ok {i : Instr} (h : Fresh s n c) {dw0 : Nat} (hexec : exec i s = .next (finish s n 0 0 dw0)) :
    ∃ t, exec i s = .next t ∧ Only [.hall] s t ∧ OthersStand s t n ∧ Ended t n c 0 0 dw0 := by
  have hready := h.not_ready
  obtain ⟨hc, -, -, hstair⟩ := h
  exact ⟨_, hexec, only_finish_zero hc hready hstair _, othersStand_finish hc hready hstair _ _ _, ended_finish hc hready hstair _ _ _⟩

/-- A command that ends with success after a change of the Hall that keeps the contexts. -/
theorem ends_after_hall {i : Instr} (h : Fresh s n c) {f : Hall → Hall} (hf : (f s.hall).ctxs = s.hall.ctxs) (hexec : exec i s = .next (finishOk (s.modHall f) n)) :
    ∃ t, exec i s = .next t ∧ Only [.hall] s t ∧ Ended t n c 0 0 0 ∧ t.hall.sqs = (f s.hall).sqs ∧ t.hall.cqs = (f s.hall).cqs := by
  have hready := h.not_ready
  obtain ⟨hc, -, -, hstair⟩ := h
  have hctx : (s.modHall f).ctx n = some c := (ctx_of_ctxs hf).trans hc
  have hhall := finish_hall hctx hready hstair 0 0 0
  refine ⟨_, hexec, ?_, ended_finish hctx hready hstair 0 0 0, (congrArg Hall.sqs hhall).trans rfl, (congrArg Hall.cqs hhall).trans rfl⟩
  rw [finishOk, finish_zero hctx hready hstair]
  exact only_of_mask (m := 256) (modCtx_mask (sub_refl _) (modHall_mask (sub_refl _) (mask_refl _ s))) (by decide)

/-! ## Deleting a submission queue (R117) -/

theorem Tbl.mem_of_find {α : Type} {t : Tbl α} {i : Nat} {v : α} (h : Tbl.find t i = some v) : (i, v) ∈ t := by
  induction t with
  | nil => cases h
  | cons e r ih =>
    obtain ⟨j, w⟩ := e
    rw [Tbl.find] at h
    split at h
    next hij =>
      cases h
      rw [hij]
      exact List.mem_cons_self
    next => exact List.mem_cons_of_mem _ (ih h)

/-- A run over a table with one entry put in, that does nothing for the others. -/
theorem foldl_put {α β : Type} {f : β → Nat × α → β} (t : Tbl α) (i : Nat) (v : α) (hf : ∀ e ∈ t, ∀ b, f b e = b) (b : β) :
    (Tbl.put t i v).foldl f b = f b (i, v) := by
  induction t generalizing b with
  | nil => rfl
  | cons e r ih =>
    obtain ⟨j, w⟩ := e
    have hhead (b : β) : f b (j, w) = b := hf _ List.mem_cons_self b
    have htail : ∀ e ∈ r, ∀ b, f b e = b := fun e he => hf e (List.mem_cons_of_mem _ he)
    have hrest (b : β) : r.foldl f b = b := foldl_fixed _ fun e he => htail e he b
    unfold Tbl.put
    split
    · rw [List.foldl_cons, List.foldl_cons, hhead, hrest]
    · split
      · rw [List.foldl_cons, hrest]
      · rw [List.foldl_cons, hhead, ih htail]

/-- A queue with no command left goes, and its deletion ends. -/
theorem deleteCheck_of_one {q : SubQ} {k : Nat} {l : Tbl SubQ} (hsqs : s.hall.sqs = Tbl.put l k { q with deleting := some n })
    (hnone : ∀ e ∈ l, e.2.deleting = none) (hleft : (s.hall.ctxs.any fun x => qkey x.2.port x.2.sq == k && x.2.stair.isNone) = false) :
    deleteCheck s = finishOk (s.modHall fun h => { h with sqs := Tbl.del h.sqs k }) n := by
  rw [deleteCheck, hsqs, State.each, foldl_put]
  · simp only [hleft, Bool.false_eq_true, if_false]
  · intro e he b
    simp only [hnone e he]

theorem qkey_ne {p a b : Nat} (h : a ≠ b) : qkey p a ≠ qkey p b := by
  unfold qkey
  omega

/-- The Hall in which command `n` runs and its queue has been marked and has gone. -/
def queueGone (n k : Nat) (q : SubQ) (h : Hall) : Hall :=
  { h with ctxs := Tbl.upd h.ctxs n fun c => { c with st := .running }, sqs := Tbl.del (Tbl.put h.sqs k { q with deleting := some n }) k }

/-- The deletion of a queue that no command is in. -/
theorem execDeleteIoSubmissionQueue_empty {qid : Nat} {q : SubQ} (hfresh : Fresh s n c) (hgo : adminGo s n = true) (hcmd : c.cmd = .deleteSq qid) (hqid : qid ≠ 0)
    (hq : Tbl.find s.hall.sqs (qkey c.port qid) = some q) (hnone : ∀ x ∈ s.hall.sqs, x.2.deleting = none) (hctxs : s.hall.ctxs = [(n, c)]) (hsq : c.sq = 0)
    (htails : s.hall.tails = []) (hdeps : s.pan.deps = []) (hspaces : s.nvm.spaces = []) (hsettling : s.ldr.settling = []) :
    exec (.deleteIoSubmissionQueue n) s =
      .next ((s.modHall (queueGone n (qkey c.port qid) q)).modCtx n fun c => { c with st := .ready, sct := 0, sc := 0, dw0 := 0 }) ∧
    (s.modHall (queueGone n (qkey c.port qid) q)).ctx n = some { c with st := .running } := by
  let marked := (s.modCtx n fun c => { c with st := .running }).modHall fun h => { h with sqs := Tbl.put h.sqs (qkey c.port qid) { q with deleting := some n } }
  let gone := marked.modHall fun h => { h with sqs := Tbl.del h.sqs (qkey c.port qid) }
  have hmarked : marked.hall.ctxs = [(n, { c with st := .running })] := ctxs_modCtx_single hctxs _
  have hgone : gone.ctx n = some { c with st := .running } := ctx_of_single (s := gone) hmarked
  have hstair : c.stair = none := hfresh.2.2.2
  have hdel : q.deleting = none := hnone (qkey c.port qid, q) (Tbl.mem_of_find hq)
  have hleft : (marked.hall.ctxs.any fun x => qkey x.2.port x.2.sq == qkey c.port qid && x.2.stair.isNone) = false := by
    rw [hmarked]
    have hkey := qkey_ne (p := c.port) hqid.symm
    simp [hsq, hkey]
  have hcheck : deleteCheck marked = finishOk gone n := deleteCheck_of_one rfl hnone hleft
  have hfinish : finishOk gone n = gone.modCtx n fun c => { c with st := .ready, sct := 0, sc := 0, dw0 := 0 } :=
    finish_zero hgone (fun h => nomatch h) hstair 0
  let done := gone.modCtx n fun c => { c with st := .ready, sct := 0, sc := 0, dw0 := 0 }
  have hdone : done.hall.ctxs = [(n, { c with st := .ready, sct := 0, sc := 0, dw0 := 0 })] := ctxs_modCtx_single (s := gone) hmarked _
  have hsettle : settleCheck done = done := by
    rw [settleCheck_single hdone hdeps htails hspaces hsettling (nsOpCheck_single hdone (by simp [hcmd]))]
    simp [settleOne]
  have hmine : (marked.hall.ctxs.filter fun e => e.2.port == c.port && e.2.sq == qid && e.2.stair.isNone) = [] := by
    rw [hmarked]
    simp [hsq, Ne.symm hqid]
  have hexec : exec (.deleteIoSubmissionQueue n) s = .next (settleCheck (deleteCheck (marked.each (marked.hall.ctxs.filter fun e =>
      e.2.port == c.port && e.2.sq == qid && e.2.stair.isNone) fun s e => deleteCtx s e.1 e.2))) := by
    refine congrArg Host.Outcome.next ((byHall_of_fresh hfresh hgo _).trans ?_)
    simp only [hcmd, hq, hqid, hdel, Option.isSome_none, Bool.or_false, decide_false, Bool.false_eq_true, if_false]
    rfl
  rw [hmine] at hexec
  exact ⟨hexec.trans (congrArg Host.Outcome.next ((congrArg settleCheck (hcheck.trans hfinish)).trans hsettle)), hgone⟩

/-- Settles O30. -/
theorem adminQueues : Obligations.AdminQueues := by
  unfold Obligations.AdminQueues
  intro s n qid size cq prio iv sq cid opc ien io c q e hinv hfresh
  obtain ⟨hc, hst, -, hstair⟩ := id hfresh
  refine ⟨fun hcmd => ?unsupported, fun hgo => ⟨fun hcmd hqid hpairs hfree hlo hhi hiv => ?createCq, fun hcmd => ?noncontiguous, fun hcmd hcq hhas hqid hpairs hfree hlo hhi => ?createSq,
    fun hcmd hqid hhas => ⟨fun hunused => ?deleteCq, fun hused => ?usedCq⟩, fun hcmd hqid hq hnone hctxs hsq htails hdeps hspaces hsettling => ?deleteSq, fun hcmd hcount => ?abort,
    fun hcmd hcount => ⟨fun hevents => ?waits, fun hevents hport hctxs => ?served⟩, fun hcmd hcount => ?ninth⟩⟩
  case unsupported => exact ends_with hfresh (congrArg Host.Outcome.next (by simp [hc, hst, hcmd]))
  case createCq =>
    have hgoes := byHall_of_fresh hfresh hgo
    have hexec : exec (.createIoCompletionQueue n) s =
        .next (finishOk (s.modHall fun h => { h with cqs := Tbl.put h.cqs (qkey c.port qid) { size := size, iv := iv, ien := ien } }) n) := by
      refine congrArg Host.Outcome.next ((hgoes _).trans ?_)
      simp [hcmd, hqid, Nat.not_lt.2 hpairs, Tbl.has, hfree, Nat.not_lt.2 hlo, Nat.not_lt.2 hhi, Nat.not_le.2 hiv]
    obtain ⟨t, hexec, honly, hend, hsqs, hcqs⟩ := ends_after_hall hfresh rfl hexec
    refine ⟨t, hexec, honly, hend, hsqs, ?_, fun k hk => ?_⟩
    · rw [hcqs]
      exact Tbl.find_put_same _ _ _
    · rw [hcqs]
      exact Tbl.find_put_other _ _ hk
  case noncontiguous => exact ends_with hfresh (congrArg Host.Outcome.next ((byHall_of_fresh hfresh hgo _).trans (by simp [hcmd])))
  case createSq =>
    have hexec : exec (.createIoSubmissionQueue n) s =
        .next (finishOk (s.modHall fun h => { h with sqs := Tbl.put h.sqs (qkey c.port qid) { size := size, cq := cq, prio := prio % 4 } }) n) := by
      refine congrArg Host.Outcome.next ((byHall_of_fresh hfresh hgo _).trans ?_)
      simp [hcmd, hcq, Tbl.has, hhas, hqid, Nat.not_lt.2 hpairs, hfree, Nat.not_lt.2 hlo, Nat.not_lt.2 hhi]
    obtain ⟨t, hexec, honly, hend, hsqs, hcqs⟩ := ends_after_hall hfresh rfl hexec
    refine ⟨t, hexec, honly, hend, hcqs, ?_, fun k hk => ?_⟩
    · rw [hsqs]
      exact Tbl.find_put_same _ _ _
    · rw [hsqs]
      exact Tbl.find_put_other _ _ hk
  case deleteCq =>
    have hexec : exec (.deleteIoCompletionQueue n) s = .next (finishOk (s.modHall fun h => { h with cqs := Tbl.del h.cqs (qkey c.port qid) }) n) := by
      refine congrArg Host.Outcome.next ((byHall_of_fresh hfresh hgo _).trans ?_)
      simp only [hcmd, hqid, Tbl.has, hhas, hunused, decide_false, Bool.not_true, Bool.or_self, Bool.false_eq_true, if_false]
    obtain ⟨t, hexec, honly, hend, hsqs, hcqs⟩ := ends_after_hall hfresh rfl hexec
    refine ⟨t, hexec, honly, hend, hsqs, ?_⟩
    rw [hcqs]
    exact Tbl.find_del_same _ _
  case usedCq =>
    refine ends_with hfresh (congrArg Host.Outcome.next ((byHall_of_fresh hfresh hgo _).trans ?_))
    simp only [hcmd, hqid, Tbl.has, hhas, hused, decide_false, Bool.not_true, Bool.or_self, Bool.false_eq_true, if_false, if_true]
  case deleteSq =>
    obtain ⟨hexec, hctx⟩ := execDeleteIoSubmissionQueue_empty hfresh hgo hcmd hqid hq hnone hctxs hsq htails hdeps hspaces hsettling
    exact ⟨_, hexec, only_of_mask (m := 256) (modCtx_mask (sub_refl _) (modHall_mask (sub_refl _) (mask_refl _ s))) (by decide), ctx_modCtx_same hctx _, rfl, Tbl.find_del_same _ _⟩
  case abort =>
    refine ends_ok hfresh (congrArg Host.Outcome.next ((byHall_of_fresh hfresh hgo _).trans ?_))
    simp only [hcmd]
    exact if_neg (Nat.not_lt.2 hcount)
  case waits =>
    let running := s.modCtx n fun c => { c with st := .running }
    have hexec : exec (.asynchronousEventRequest n) s = .next running := by
      refine congrArg Host.Outcome.next ((byHall_of_fresh hfresh hgo _).trans ?_)
      simp only [hcmd]
      rw [if_neg (Nat.not_lt.2 hcount), serveEvents, State.modCtx, State.modHall_hall, hevents]
      rfl
    exact begins_of_modCtx hc hexec
  case served =>
    let running := s.modCtx n fun c => { c with st := .running }
    let taken := running.modHall fun h => { h with events := h.events.erase e }
    have hrunning : running.hall.ctxs = [(n, { c with st := .running })] := ctxs_modCtx_single hctxs _
    have htaken : taken.ctx n = some { c with st := .running } := ctx_of_single (s := taken) hrunning
    have hserve : serveEvents running = finish taken n 0 0 (e.typ + e.info * 2 ^ 8 + e.page * 2 ^ 16) := by
      have hevents' : running.hall.events = [e] := hevents
      rw [serveEvents, hevents', State.each, List.foldl_cons, List.foldl_nil, hrunning]
      simp [hport, hcmd, taken]
    have hexec : exec (.asynchronousEventRequest n) s = .next (finish taken n 0 0 (e.typ + e.info * 2 ^ 8 + e.page * 2 ^ 16)) := by
      refine congrArg Host.Outcome.next ((byHall_of_fresh hfresh hgo _).trans ?_)
      simp only [hcmd]
      rw [if_neg (Nat.not_lt.2 hcount)]
      exact hserve
    rw [finish_zero htaken (fun h => nomatch h) hstair] at hexec
    refine ⟨_, hexec, only_of_mask (m := 256) (modCtx_mask (sub_refl _) (modHall_mask (sub_refl _) (modCtx_mask (sub_refl _) (mask_refl _ s)))) (by decide), ?_, ctx_modCtx_same htaken _⟩
    show s.hall.events.erase e = []
    rw [hevents]
    simp
  case ninth =>
    refine ends_with hfresh (congrArg Host.Outcome.next ((byHall_of_fresh hfresh hgo _).trans ?_))
    simp only [hcmd]
    exact if_pos hcount

end Sys2Proof.Machine
end

section
/-!
PROOF. The supervisor's commands (R136, R145, R152, R163, R560, R569, R570, R595): what the bookkeeping of ended commands leaves of the namespaces, and the rows of
namespaces, Format, self-tests, directives, LBA status and Attic Clear.
-/
namespace Sys2Proof.Machine

variable {s t u : State} {n ns : Nat} {c : Ctx}

/-! ## Namespaces but for a Format under way -/

/-- A namespace but for the command that formats it. -/
def Nspace.form (x : Nspace) : Nspace := { x with formatting := none }

/-- The namespaces are the same but for the commands that format them. -/
def SpacesHeld (s t : State) : Prop := ∀ ns, (nspace t ns).map Nspace.form = (nspace s ns).map Nspace.form

theorem spacesHeld_of_spaces (h : t.nvm.spaces = s.nvm.spaces) : SpacesHeld s t := fun ns => by rw [nspace, h, nspace]

theorem spacesHeld_of_mask {μ : Nat} (h : Mask μ s t) (hm : μ.testBit 9 = false) : SpacesHeld s t := spacesHeld_of_spaces (congrArg Nvm.spaces (h.2 .nvm hm))

theorem SpacesHeld.trans (h : SpacesHeld s t) (h' : SpacesHeld t u) : SpacesHeld s u := fun ns => (h' ns).trans (h ns)

theorem spacesHeld_foldl {α : Type} {f : State → α → State} (hf : ∀ s a, SpacesHeld s (f s a)) (l : List α) (s : State) : SpacesHeld s (l.foldl f s) :=
  foldl_holds (P := SpacesHeld s) (fun _ a hb => hb.trans (hf _ a)) l (spacesHeld_of_spaces rfl)

theorem SpacesHeld.none (h : SpacesHeld s t) (hs : nspace s ns = none) : nspace t ns = none := by
  have hform := h ns
  rw [hs] at hform
  exact Option.map_eq_none_iff.1 hform

theorem SpacesHeld.some {x : Nspace} (h : SpacesHeld s t) (hs : nspace s ns = some x) : ∃ y, nspace t ns = some y ∧ y.form = x.form := by
  have hform := h ns
  rw [hs] at hform
  exact Option.map_eq_some_iff.1 hform

theorem spacesHeld_ite {b : Bool} (ht : SpacesHeld s t) (hu : SpacesHeld s u) : SpacesHeld s (if b = true then t else u) := by
  split
  · exact ht
  · exact hu

theorem spacesHeld_finish (s : State) (m sct sc dw0 : Nat) : SpacesHeld s (finish s m sct sc dw0) := by
  unfold finish
  split
  · exact spacesHeld_of_spaces rfl
  · split
    · exact spacesHeld_of_spaces rfl
    · split
      · exact spacesHeld_of_mask (μ := 135424) (stairDone_mask (by decide) (modHall_mask (by decide) (mask_refl _ s))) (by decide)
      · dsimp only
        split <;> exact spacesHeld_of_spaces rfl

theorem spacesHeld_endFormat (s : State) (k : Nat) :
    SpacesHeld s (s.modNvm fun x => { x with spaces := Tbl.upd x.spaces k fun y => { y with formatting := none } }) := by
  intro ns
  show (Tbl.find (Tbl.upd s.nvm.spaces k _) ns).map Nspace.form = (Tbl.find s.nvm.spaces ns).map Nspace.form
  by_cases hk : ns = k
  · subst hk
    rw [Tbl.find_upd_same, Option.map_map]
    rfl
  · rw [Tbl.find_upd_other _ _ hk]

theorem spacesHeld_formatCheck (s : State) : SpacesHeld s (formatCheck s) := by
  unfold formatCheck
  refine spacesHeld_foldl (fun s e => ?_) _ _
  split
  · exact spacesHeld_of_spaces rfl
  · exact spacesHeld_ite ((spacesHeld_endFormat s e.1).trans (spacesHeld_finish _ _ _ _ _)) (spacesHeld_of_spaces rfl)

theorem spacesHeld_nsOpCheck (s : State) : SpacesHeld s (nsOpCheck s) := by
  unfold nsOpCheck
  refine spacesHeld_foldl (fun s e => ?_) _ _
  split
  · exact spacesHeld_of_spaces rfl
  · split
    · exact spacesHeld_finish _ _ _ _ _
    · exact spacesHeld_finish _ _ _ _ _
    · exact spacesHeld_finish _ _ _ _ _
    · exact spacesHeld_of_spaces rfl

theorem spacesHeld_settleOne (s : State) (e : Nat × Ctx) : SpacesHeld s (settleOne s e) := by
  have hreport (ns : Nat) : SpacesHeld s (reportDeferred s ns) := spacesHeld_of_mask (reportDeferred_mask (sub_refl _) (mask_refl _ s)) (by decide)
  unfold settleOne
  dsimp only
  split
  · exact spacesHeld_of_spaces rfl
  · split
    · split
      · split
        · exact (hreport _).trans (spacesHeld_finish _ _ _ _ _)
        · exact spacesHeld_finish _ _ _ _ _
      · exact spacesHeld_of_spaces rfl
    · split
      · exact spacesHeld_finish _ _ _ _ _
      · exact spacesHeld_of_spaces rfl
    · split
      · split
        · exact spacesHeld_of_spaces rfl
        · exact spacesHeld_finish _ _ _ _ _
      · exact spacesHeld_of_spaces rfl

theorem spacesHeld_settleCheck (s : State) : SpacesHeld s (settleCheck s) := by
  have hprune : SpacesHeld s (pruneDeps s) := spacesHeld_of_mask (pruneDeps_mask (sub_refl _) (mask_refl _ s)) (by decide)
  unfold settleCheck
  refine SpacesHeld.trans ?_ (spacesHeld_foldl (f := settleOne) spacesHeld_settleOne _ _)
  refine SpacesHeld.trans ?_ (spacesHeld_of_spaces rfl)
  refine SpacesHeld.trans ?_ ((spacesHeld_formatCheck _).trans (spacesHeld_nsOpCheck _))
  refine SpacesHeld.trans ?_ (spacesHeld_of_spaces rfl)
  refine hprune.trans (spacesHeld_foldl (fun s e => ?_) _ _)
  split
  · split
    · exact spacesHeld_of_mask (stairDone_mask (sub_refl _) (mask_refl _ s)) (by decide)
    · exact spacesHeld_of_spaces rfl
  · exact spacesHeld_of_spaces rfl

theorem spacesHeld_serveEvents (s : State) : SpacesHeld s (serveEvents s) := by
  unfold serveEvents
  refine spacesHeld_foldl (fun s e => ?_) _ _
  dsimp only
  split
  · exact spacesHeld_of_spaces rfl
  · exact SpacesHeld.trans (t := s.modHall _) (spacesHeld_of_spaces rfl) (spacesHeld_finish _ _ _ _ _)

theorem spacesHeld_noteNs (s : State) (ns : Nat) : SpacesHeld s (noteNs s ns) := by
  unfold noteNs
  refine SpacesHeld.trans (spacesHeld_foldl (fun s p => ?_) _ _) (spacesHeld_serveEvents _)
  refine SpacesHeld.trans (t := s.modNvm _) ?_ (spacesHeld_ite (spacesHeld_of_mask (asyncEvent_mask (sub_refl _) (mask_refl _ _)) (by decide)) (spacesHeld_of_spaces rfl))
  exact spacesHeld_of_spaces rfl

theorem spacesHeld_onWorkers (s : State) (n : Nat) (base : SReq) (size : Nat → Nat) : SpacesHeld s (onWorkers s n base size) := by
  unfold onWorkers
  refine SpacesHeld.trans (t := if isManager s then askBarrier s n base size else s) ?_ (SpacesHeld.trans ?_ (spacesHeld_settleCheck _))
  · exact spacesHeld_ite (spacesHeld_of_mask (askBarrier_mask (sub_refl _) (mask_refl _ s)) (by decide)) (spacesHeld_of_spaces rfl)
  · exact spacesHeld_of_spaces rfl

/-! ## Deleting and formatting a namespace -/

theorem nspace_nsDeleteNow (s : State) (n ns : Nat) : nspace (nsDeleteNow s n ns) ns = none := by
  unfold nsDeleteNow
  refine (spacesHeld_onWorkers _ _ _ _).none ?_
  exact (spacesHeld_of_mask (dropNsKey_mask (sub_refl _) (mask_refl _ _)) (by decide)).none (Tbl.find_del_same _ _)

/-- The namespace that a Format leaves, its Format still under way. -/
theorem nspace_formatNow {fmt pi : Nat} {pil : Bool} {x : Nspace} (hx : nspace s ns = some x) :
    ∃ y, nspace (formatNow s n ns 0 fmt pi pil) ns = some y ∧ y.form = { x with fmt := fmt, pi := pi, pil := pil, formatting := none, fmtSes := 0 } := by
  have hexts : (if 4 ≤ fmt then x.extents else x.extents) = x.extents := by split <;> rfl
  simp only [formatNow, hx, if_true, ne_eq, not_true_eq_false, if_false, hexts]
  let entered := (deallocAll s ns).modNvm fun y => { y with spaces := Tbl.put y.spaces ns { x with fmt := fmt, pi := pi, pil := pil, extents := x.extents, formatting := some n, fmtSes := 0 } }
  have hentered : nspace entered ns = some { x with fmt := fmt, pi := pi, pil := pil, formatting := some n, fmtSes := 0 } := Tbl.find_put_same _ _ _
  refine SpacesHeld.some (s := entered) (SpacesHeld.trans ?_ (spacesHeld_settleCheck _)) hentered
  refine SpacesHeld.trans ?_ (spacesHeld_ite (spacesHeld_of_mask (askBarrier_mask (sub_refl _) (mask_refl _ _)) (by decide)) (spacesHeld_of_spaces rfl))
  refine SpacesHeld.trans ?_ (spacesHeld_noteNs _ _)
  exact spacesHeld_of_mask (μ := 1280) (holdForRecord_mask (by decide) (jAppend_mask (by decide) (mask_refl _ _))) (by decide)

/-! ## Self-tests -/

theorem startTest_begins (h : Fresh s n c) (hturns : supTurns s = true) (hgo : adminGo s n = true) {ext : Bool} (hcmd : c.cmd = .selfTest (if ext then 2 else 1) 0)
    (hdst : s.atc.dst = none) {i : Instr} (hi : exec i s = .next (startTest s n ext)) :
    ∃ t, exec i s = .next t ∧ Only [.hall, .atc] s t ∧ OthersStand s t n ∧ Ended t n c 0 0 0 ∧
      t.atc = { s.atc with dst := some { ext := ext, port := c.port, nsid := 0, at_ := s.pwr.opSec } } := by
  have hready := h.not_ready
  obtain ⟨hc, -, -, hstair⟩ := id h
  let begun := s.modAtc fun a => { a with dst := some { ext := ext, port := c.port, nsid := 0, at_ := s.pwr.opSec } }
  have htest : startTest s n ext = finishOk begun n := by
    rw [startTest, bySup_of_fresh h hturns hgo]
    simp [hcmd, hdst, begun]
  rw [htest, finishOk, finish_zero (s := begun) hc hready hstair] at hi
  exact ⟨_, hi, only_of_mask (m := 264) (modCtx_mask (by decide) (modAtc_mask (by decide) (mask_refl _ s))) (by decide), othersStand_modCtx (s := begun) _,
    ctx_modCtx_same (s := begun) hc _, rfl⟩

/-- A record leaves the self-tests as they are. -/
theorem post_selfTests (s : State) (code sev src origin p0 p1 p2 p3 : Nat) : (post s code sev src origin p0 p1 p2 p3).atc.dst = s.atc.dst ∧
    (post s code sev src origin p0 p1 p2 p3).atc.dstResults = s.atc.dstResults := by
  unfold post
  split
  · exact ⟨rfl, rfl⟩
  · constructor <;> rw [appendRec, State.modAtc_atc]

theorem dstEnd_eq {d : DstRun} (hd : s.atc.dst = some d) (result seg detail lba : Nat) : (dstEnd s result seg detail lba).atc.dst = none ∧
    ∃ r, (dstEnd s result seg detail lba).atc.dstResults.head? = some r ∧ r.result = result ∧ r.code = if d.ext then 2 else 1 := by
  simp only [dstEnd, hd]
  rw [(post_selfTests _ _ _ _ _ _ _ _ _).1, (post_selfTests _ _ _ _ _ _ _ _ _).2]
  simp only [State.modNvm_atc, State.modAtc_atc, List.take_succ_cons, List.head?_cons]
  exact ⟨trivial, _, rfl, rfl, rfl⟩

/-! ## Data of an admin command -/

theorem ends_after_data {i : Instr} (h : Fresh s n c) {r : List (Nat × Nat)} (hexec : exec i s = .next (finishOk (s.emit (.adminData n r)) n)) :
    ∃ t, exec i s = .next t ∧ Only [.hall, .out] s t ∧ OthersStand s t n ∧ Ended t n c 0 0 0 ∧ t.out = s.out ++ [.adminData n r] := by
  have hready := h.not_ready
  obtain ⟨hc, -, -, hstair⟩ := id h
  rw [finishOk, finish_zero (s := s.emit (.adminData n r)) hc hready hstair] at hexec
  exact ⟨_, hexec, only_of_mask (m := 1048832) (modCtx_mask (by decide) (emit_mask (by decide) (mask_refl _ s))) (by decide), othersStand_modCtx (s := s.emit _) _,
    ctx_modCtx_same (s := s.emit _) hc _, rfl⟩

theorem layoutByte_enabled (b : Bool) : layoutByte [(0, 1, 5), (32, 1, 1 + 4 * b2n b)] 32 = if b then 5 else 1 := by cases b <;> rfl

/-! ## Attic Clear (R560) -/

/-- The Attic with the ring emptied. -/
def atticEmptied (s : State) : State :=
  s.modAtc fun a => { a with ring := [], waiting := [], clearCount := (a.clearCount + 1) % 2 ^ 32, clearPending := true }

theorem lastN_singleton {α : Type} {n : Nat} (hn : 0 < n) (x : α) : lastN n [x] = [x] := by
  rw [lastN, List.length_singleton, show 1 - n = 0 by omega]
  rfl

theorem post_into_empty (hroom : s.atc.postedThisSec < 4096) (hring : s.atc.ring = []) (hwait : s.atc.waiting = []) (code sev src origin p0 p1 p2 p3 : Nat) :
    ∃ r, (post s code sev src origin p0 p1 p2 p3).atc.ring = [r] ∧ (post s code sev src origin p0 p1 p2 p3).atc.waiting = [r] ∧ r.code = code ∧
      r.seq = s.atc.nextSeq ∧ r.p1 = p1 % 2 ^ 32 ∧ (post s code sev src origin p0 p1 p2 p3).atc.clearPending = s.atc.clearPending := by
  have hkeep : (decide (4096 ≤ s.atc.postedThisSec) && decide (sev ≤ 2)) = false := by rw [decide_eq_false (Nat.not_le.2 hroom), Bool.false_and]
  have hone : 0 < 8192 := by norm_num
  simp only [post, hkeep, Bool.false_eq_true, if_false, appendRec, State.modAtc_atc, hring, hwait, List.nil_append]
  exact ⟨_, lastN_singleton hone _, rfl, rfl, rfl, rfl, trivial⟩

/-- Settles O31. -/
theorem adminSupervisor : Obligations.AdminSupervisor := by
  unfold Obligations.AdminSupervisor
  intro s n ns nsze fmt pi ses code oper slba pil go l c x d _ hfresh hturns hgo
  have hready := hfresh.not_ready
  obtain ⟨hc, hst, -, hstair⟩ := id hfresh
  have hsup := bySup_of_fresh hfresh hturns hgo
  refine ⟨fun hcmd hworkers hjournal => ⟨?create, fun hfull => ?full⟩, fun hcmd hworkers hjournal hturn => ?delete, fun hcmd hworkers => ?missing,
    fun hcmd hx hworkers hnot => ?attach, fun hcmd hx => ?absent, fun hcmd hx hworkers hjournal hturn => ?format, fun hcmd hses htamper => ?tampered,
    fun hdst => ⟨fun hcmd => ?short, fun hcmd => ?extended⟩, fun hdst => ⟨fun hcmd => ?busy, fun hcmd => ?abort⟩, fun hcmd => ?directiveSend, fun hcmd => ?directiveReceive,
    fun hcmd hoper => ?directiveRefused, fun hcmd => ?lba, fun hcmd hadmin hfull hroom => ?clear, fun hcmd hadmin => ?unauthorised⟩
  case create => exact congrArg Host.Outcome.next ((hsup _).trans (by simp [hcmd, hworkers, hjournal]))
  case full =>
    have hnone : ((List.range 129).find? fun k => decide (0 < k) && !Tbl.has s.nvm.spaces k) = none := by
      rw [List.find?_eq_none]
      intro k hk
      by_cases hpos : 0 < k
      · simp [hfull k (List.mem_range.1 hk) hpos]
      · simp [hpos]
    have hexec : exec (.namespaceManagement n) s = .next (finish s n 1 0x16) := by
      refine congrArg Host.Outcome.next ((hsup _).trans ?_)
      simp only [hcmd, hworkers, hjournal, Bool.not_true, Bool.false_eq_true, if_false, nsCreateNow, hnone]
    obtain ⟨t, hexec, honly, -, hend⟩ := ends_with hfresh hexec
    exact ⟨t, hexec, honly, hend⟩
  case delete =>
    have hexec : exec (.namespaceManagement n) s = .next (nsDeleteNow s n ns) :=
      congrArg Host.Outcome.next ((hsup _).trans (by simp [hcmd, hworkers, hjournal, hturn]))
    exact ⟨_, hexec, only_of_exec hexec, nspace_nsDeleteNow s n ns⟩
  case missing =>
    have hexec : exec (.namespaceManagement n) s = .next (finish s n 7 0xC3) := congrArg Host.Outcome.next ((hsup _).trans (by simp [hcmd, hworkers]))
    obtain ⟨t, hexec, honly, -, hend⟩ := ends_with hfresh hexec
    exact ⟨t, hexec, honly, hend⟩
  case attach =>
    let attached := s.modNvm fun y => { y with spaces := Tbl.put y.spaces ns { x with attached := x.attached ++ [1] } }
    have hexec : exec (.namespaceAttachment n) s = .next (onWorkers (noteNs attached ns) n { kind := 6, nsid := ns } fun _ => 0) := by
      refine congrArg Host.Outcome.next ((hsup _).trans ?_)
      simp [hcmd, hx, hworkers, hnot, attached]
    have hattached : nspace attached ns = some { x with attached := x.attached ++ [1] } := Tbl.find_put_same _ _ _
    obtain ⟨y, hy, hform⟩ := ((spacesHeld_noteNs attached ns).trans (spacesHeld_onWorkers _ n { kind := 6, nsid := ns } fun _ => 0)).some hattached
    exact ⟨_, y, hexec, only_of_exec hexec, hy, (congrArg Nspace.attached hform).trans rfl, (congrArg Nspace.fmt hform).trans rfl, (congrArg Nspace.extents hform).trans rfl⟩
  case absent =>
    have hexec : exec (.namespaceAttachment n) s = .next (finish s n 0 0x0B) := congrArg Host.Outcome.next ((hsup _).trans (by simp [hcmd, hx]))
    obtain ⟨t, hexec, honly, -, hend⟩ := ends_with hfresh hexec
    exact ⟨t, hexec, honly, hend⟩
  case format =>
    have hexec : exec (.formatNvm n) s = .next (formatNow s n ns 0 fmt pi pil) :=
      congrArg Host.Outcome.next ((hsup _).trans (by simp [hcmd, hworkers, hjournal, hturn]))
    obtain ⟨y, hy, hform⟩ := nspace_formatNow (n := n) (fmt := fmt) (pi := pi) (pil := pil) hx
    exact ⟨_, y, hexec, only_of_exec hexec, hy, (congrArg Nspace.fmt hform).trans rfl, (congrArg Nspace.pi hform).trans rfl, (congrArg Nspace.pil hform).trans rfl,
      (congrArg Nspace.gen hform).trans rfl⟩
  case tampered =>
    have hexec : exec (.formatNvm n) s = .next (finish s n 7 0xC1) := congrArg Host.Outcome.next ((hsup _).trans (by simp [hcmd, hses, htamper]))
    obtain ⟨t, hexec, honly, -, hend⟩ := ends_with hfresh hexec
    exact ⟨t, hexec, honly, hend⟩
  case short => exact startTest_begins hfresh hturns hgo (ext := false) hcmd hdst rfl
  case extended => exact startTest_begins hfresh hturns hgo (ext := true) hcmd hdst rfl
  case busy => exact ends_with hfresh (congrArg Host.Outcome.next ((hsup _).trans (by simp [hcmd, hdst])))
  case abort =>
    have hended : Mask 520 s (dstEnd s 1 d.seg 3 0) := dstEnd_mask (sub_refl _) (mask_refl _ s)
    have hctx : (dstEnd s 1 d.seg 3 0).ctx n = some c := (ctx_of_mask hended (by decide)).trans hc
    have hexec : exec (.deviceSelfTestAbort n) s = .next (finishOk (dstEnd s 1 d.seg 3 0) n) := congrArg Host.Outcome.next ((hsup _).trans (by simp [hcmd, hdst]))
    rw [finishOk, finish_zero hctx hready hstair] at hexec
    obtain ⟨hgone, r, hr, hresult, hcode⟩ := dstEnd_eq hdst 1 d.seg 3 0
    exact ⟨_, r, hexec, only_of_mask (m := 776) (modCtx_mask (by decide) (dstEnd_mask (by decide) (mask_refl _ s))) (by decide), ctx_modCtx_same hctx _, hgone, hr, hresult, hcode⟩
  case directiveSend =>
    exact ends_ok hfresh (congrArg Host.Outcome.next ((hsup _).trans (by simp [hcmd, finishOk])))
  case directiveReceive =>
    let l := [(0, 1, 5), (32, 1, 1 + 4 * b2n s.nvm.fdp)]
    let r := (List.range 4096).map fun i => (1, layoutByte l (0 + i))
    have hexec : exec (.directiveReceive n) s = .next (finishOk (s.emit (.adminData n r)) n) := congrArg Host.Outcome.next ((hsup _).trans (by simp [hcmd, sendLayout, r, l]))
    obtain ⟨t, hexec, honly, hothers, hend, hout⟩ := ends_after_data hfresh hexec
    have hbyte (i : Nat) (hi : i < 4096) : r[i]? = some (1, layoutByte l i) := by
      rw [List.getElem?_map, List.getElem?_range hi, Option.map_some, Nat.zero_add]
    refine ⟨t, r, hexec, honly, hothers, hend, hout, by rw [List.length_map, List.length_range], hbyte 0 (by decide), (hbyte 32 (by decide)).trans ?_⟩
    rw [layoutByte_enabled]
  case directiveRefused => exact ends_with hfresh (congrArg Host.Outcome.next ((hsup _).trans (by simp [hcmd, hoper])))
  case lba =>
    let runs := (lostRuns s ns).filter fun e => decide (slba < (e.1 + e.2) * perUnit s ns)
    let rows := runs.flatMap fun r => [(8, r.1 * perUnit s ns), (4, r.2 * perUnit s ns), (1, 0), (1, 0), (2, 0)]
    have hexec : exec (.getLbaStatus n) s =
        .next (finishOk (sendLayout s n (layFields 0 ([(4, runs.length), (4, 0)] ++ rows)) 0 (8 + 16 * runs.length)) n) := by
      refine congrArg Host.Outcome.next ((hsup _).trans ?_)
      simp only [hcmd]
      rfl
    obtain ⟨t, hexec, honly, hothers, hend, hout⟩ := ends_after_data hfresh hexec
    exact ⟨t, _, hexec, honly, hothers, hend, hout, by rw [List.length_map, List.length_range]⟩
  case clear =>
    let posted := post (atticEmptied s) 0x0002 2 0xC 0xFF (atticEmptied s).atc.clearCount s.atc.ring.length (c.port + 1)
    have hctx : posted.ctx n = some c := (ctx_of_mask (post_mask (sub_refl _) (mask_refl _ (atticEmptied s))) (by decide)).trans hc
    have hexec : exec (.atticClear n) s = .next (finishOk posted n) := by
      refine congrArg Host.Outcome.next ((hsup _).trans ?_)
      simp only [hcmd, hadmin, hfull, Bool.not_true, Bool.false_eq_true, if_false]
      rfl
    rw [finishOk, finish_zero hctx hready hstair] at hexec
    obtain ⟨r, hring, hwaiting, hcode, hseq, hp1, hpending⟩ :=
      post_into_empty (s := atticEmptied s) hroom rfl rfl 0x0002 2 0xC 0xFF (atticEmptied s).atc.clearCount s.atc.ring.length (c.port + 1) 0
    exact ⟨_, r, hexec, only_of_mask (m := 264) (modCtx_mask (by decide) (post_mask (by decide) (modAtc_mask (by decide) (mask_refl _ s)))) (by decide),
      (othersStand_of_hall ((post_mask (sub_refl _) (mask_refl _ (atticEmptied s))).2 .hall (by decide))).trans (othersStand_modCtx _), ctx_modCtx_same hctx _,
      hring, hwaiting, hcode, hseq, hp1, hpending⟩
  case unauthorised => exact ends_with hfresh (congrArg Host.Outcome.next ((hsup _).trans (by simp only [hcmd, hadmin, Bool.not_false, if_true])))

end Sys2Proof.Machine
end

section
/-!
PROOF. Sanitize and the steps of recovery (R153, R201, Table 5-17).
-/
namespace Sys2Proof.Machine

variable {s : State} {n : Nat} {c : Ctx}

/-! ## Sanitize -/

/-- A sanitize in its turn ends, and its operation begins. -/
theorem sanitizeRow_in_turn {a : Nat} (hfresh : Fresh s n c) (hturns : supTurns s = true) (hgo : adminGo s n = true) (hready : workersReady s = true)
    (hcmd : c.cmd = .sanitize a) (hon : journalOn s = true) (hturn : sanitizeTurn s n = true) (hman : isManager s = false) :
    sanitizeRow s n a = if a = 4 then cryptoErase (finishOk s n) else blockErase (finishOk s n) := by
  have hstair : isManager (finishOk s n) = false := by
    obtain ⟨hc, -, -, hst⟩ := id hfresh
    rw [finishOk, finish_zero hc hfresh.not_ready hst]
    exact hman
  rw [sanitizeRow, bySup_of_fresh hfresh hturns hgo, hcmd]
  simp only [ne_eq, not_true, if_false, hready, hon, hturn, Bool.not_true, Bool.or_self, Bool.false_eq_true, hstair]

/-- A sanitize waits for its turn. -/
theorem sanitizeRow_waits {a : Nat} (hfresh : Fresh s n c) (hturns : supTurns s = true) (hgo : adminGo s n = true) (hready : workersReady s = true)
    (hcmd : c.cmd = .sanitize a) (hturn : sanitizeTurn s n = false) : sanitizeRow s n a = s := by
  rw [sanitizeRow, bySup_of_fresh hfresh hturns hgo, hcmd]
  simp only [ne_eq, not_true, if_false, hready, hturn, Bool.not_true, Bool.not_false, Bool.or_true, Bool.false_eq_true, if_true]

/-- A block erase that has its command is the row of Sanitize. -/
theorem execSanitizeBlockErase_of_ctx (hc : s.ctx n = some c) : exec (.sanitizeBlockErase n) s = .next (sanitizeRow s n 2) := by
  show execSanitizeBlockErase n s = _
  simp [execSanitizeBlockErase, hc]

/-! ## Recovery -/

/-- What recovery needs to take a step: it runs, and no hole has stopped it. -/
structure Recovering (s : State) : Prop where
  runs : running s = true
  moves : s.pwr.frozen = false
  boots : s.porch.recovery = false
  off : s.on PAN_CTL.JOURNAL_EN = false
  whole : s.pan.holePage = none

/-- The step after the one reached is taken; no other is, but for step 9. -/
theorem Recovering.skips (h : Recovering s) {step : Nat} (hole : Option Nat) (bad : List (Nat × Bool)) (dump : DumpFound)
    (hstep : step ≠ s.rd PAN_STATUS.RECOVERY_STEP + 1) (hnine : step ≠ 9) : exec (.recovery step hole bad dump) s = .next s := by
  obtain ⟨hruns, hmoves, hboots, hoff, hwhole⟩ := h
  show execRecovery step hole bad dump s = _
  simp [execRecovery, hruns, hmoves, hboots, hoff, hwhole, hnine, hstep]

/-- A step that only counts itself. -/
theorem Recovering.counts (h : Recovering s) (hinv : s.inv = true) (step : Nat) (hole : Option Nat) (bad : List (Nat × Bool)) (dump : DumpFound)
    (hstep : step = 1 ∨ step = 3) (hnow : s.rd PAN_STATUS.RECOVERY_STEP + 1 = step) : ∃ t, exec (.recovery step hole bad dump) s = .next t ∧
      Only [.regs] s t ∧ t.rd PAN_STATUS.RECOVERY_STEP = step ∧ RegsBut s t [PAN_STATUS.RECOVERY_STEP] := by
  have hexec : exec (.recovery step hole bad dump) s = .next (s.wr PAN_STATUS.RECOVERY_STEP step) := by
    obtain ⟨hruns, hmoves, hboots, hoff, hwhole⟩ := h
    show execRecovery step hole bad dump s = _
    rcases hstep with rfl | rfl
    · simp [execRecovery, hruns, hmoves, hboots, hoff, hwhole, hnow]
    · simp [execRecovery, hruns, hmoves, hboots, hoff, hwhole, hnow]
  have hsmall : step % 2 ^ 8 = step := by omega
  exact ⟨_, hexec, only_of_mask (m := 1) (wr_mask (sub_refl _) (mask_refl _ s)) (by decide),
    (State.rd_wr_same s PAN_STATUS.RECOVERY_STEP step (regs_sorted hinv) (by decide)).trans hsmall,
    regsBut_wr (regs_sorted hinv) (by decide) (List.mem_singleton.2 rfl)⟩

/-- Every controller in a fatal state. -/
def fatalPorts (s : State) : State := s.each (portsInUse s) fun s p => s.modHport p fun h => { h with cfs := true }

theorem cfs_fatalPorts {p : Nat} (hp : p ∈ portsInUse s) : ((fatalPorts s).hport p).cfs = true := by
  unfold fatalPorts portsInUse at *
  split at hp
  · rw [if_pos ‹_›]
    rcases List.mem_pair.1 hp with rfl | rfl
    · exact (congrArg HPort.cfs (hport_modHport_other (p := 1) _ (by decide))).trans (congrArg HPort.cfs (hport_modHport_same _))
    · exact congrArg HPort.cfs (hport_modHport_same _)
  · rw [if_neg ‹_›]
    rw [List.mem_singleton.1 hp]
    exact congrArg HPort.cfs (hport_modHport_same _)

theorem fatalPorts_keeps {γ : Type} (g : State → γ) (hg : ∀ (s : State) (f : Porch → Porch), g (s.modPorch f) = g s) : g (fatalPorts s) = g s :=
  each_keeps_eq g (fun s _ => hg s _) _ s

theorem fatalPorts_mask {m : Nat} {s0 : State} (hm : Sub 128 m) (h : Mask m s0 s) : Mask m s0 (fatalPorts s) :=
  foldl_holds (fun _ _ h => modPorch_mask hm h) _ h

theorem appendRec_eq_of_atc {γ : Type} (g : State → γ) (hg : ∀ (s : State) (f : Attic → Attic), g (s.modAtc f) = g s) (s : State) (r : AtticRec) :
    g (appendRec s r) = g s := by
  rw [appendRec, hg]

/-- A hole stops recovery at step 6: every controller fatal, and a record. -/
theorem Recovering.hole_stops (h : Recovering s) (hinv : s.inv = true) (k : Nat) (bad : List (Nat × Bool)) (dump : DumpFound)
    (hnow : s.rd PAN_STATUS.RECOVERY_STEP = 5) (hk : k < 2 ^ 32) : ∃ t r, exec (.recovery 6 (some k) bad dump) s = .next t ∧
      Only [.regs, .pan, .porch, .atc] s t ∧ t.pan = { s.pan with holePage := some k } ∧ (∀ p ∈ portsInUse s, (t.hport p).cfs = true) ∧
      t.atc.ring.getLast? = some r ∧ r.code = 0x0042 ∧ r.sev = 5 ∧ r.p0 = k ∧ t.rd PAN_STATUS.RECOVERY_STEP = 6 ∧
      RegsBut s t [PAN_STATUS.RECOVERY_STEP] := by
  let marked := (s.wr PAN_STATUS.RECOVERY_STEP 6).modPan fun p => { p with holePage := some k }
  have hexec : exec (.recovery 6 (some k) bad dump) s = .next (post (fatalPorts marked) 0x0042 5 2 0xFF (k % 2 ^ 32) (k / 2 ^ 32)) := by
    obtain ⟨hruns, hmoves, hboots, hoff, hwhole⟩ := h
    show execRecovery 6 (some k) bad dump s = _
    simp only [execRecovery, hruns, hmoves, hboots, hoff, hwhole, hnow, Bool.not_true, Bool.or_false, Option.isSome_none, Bool.false_eq_true, if_false,
      decide_false, Bool.false_and, ne_eq, Nat.reduceAdd, Nat.reduceEqDiff, not_true]
    rfl
  rw [post_of_sev (by decide)] at hexec
  have hsorted := regs_sorted hinv
  have hbut : RegsBut s (s.wr PAN_STATUS.RECOVERY_STEP 6) [PAN_STATUS.RECOVERY_STEP] := regsBut_wr hsorted (by decide) (List.mem_singleton.2 rfl)
  have hports : portsInUse marked = portsInUse s := by
    have htwo : twoPorts marked = twoPorts s := (on_of_regs (State.modPan_regs _ _)).trans (on_wr_apart _ hsorted (by decide) (.inl (by decide)))
    rw [portsInUse, htwo, portsInUse]
  have hregs : (fatalPorts marked).regs = (s.wr PAN_STATUS.RECOVERY_STEP 6).regs :=
    (fatalPorts_keeps State.regs fun _ _ => rfl).trans (State.modPan_regs _ _)
  have hpan : (fatalPorts marked).pan = { s.pan with holePage := some k } := (fatalPorts_keeps State.pan fun _ _ => rfl).trans (State.modPan_pan _ _)
  have hp0 : k % 2 ^ 32 % 2 ^ 32 = k := by omega
  have hrec (r : AtticRec) : (appendRec (fatalPorts marked) r).regs = (s.wr PAN_STATUS.RECOVERY_STEP 6).regs :=
    (appendRec_eq_of_atc State.regs (fun _ _ => rfl) _ r).trans hregs
  refine ⟨_, _, hexec, ?_, (appendRec_eq_of_atc State.pan (fun _ _ => rfl) _ _).trans hpan, fun p hp => ?_, getLast?_ring_appendRec _ _, rfl, rfl, ?_, ?_, hbut.of_regs (hrec _)⟩
  · rw [← post_of_sev (by decide)]
    exact only_of_mask (m := 1 + 8 + 128 + 1024) (post_mask (by decide) (fatalPorts_mask (by decide)
      (modPan_mask (by decide) (wr_mask (by decide) (mask_refl _ s))))) (by decide)
  · rw [hport_of_porch (appendRec_eq_of_atc State.porch (fun _ _ => rfl) _ _)]
    rw [← hports] at hp
    exact cfs_fatalPorts hp
  · exact hp0
  · exact (rd_of_regs (hrec _)).trans (State.rd_wr_same s _ 6 hsorted (by decide))

/-- Settles O32. -/
theorem sanitizeAndRecovery : Obligations.SanitizeAndRecovery := by
  unfold Obligations.SanitizeAndRecovery
  intro s n step k hole bad dump c hinv
  refine ⟨fun hfresh hturns hgo hready => ⟨fun hcmd => ⟨fun hon hturn hman => ?crypto, fun hturn => ?cryptoWaits⟩,
      fun hcmd => ⟨fun hon hturn hman => ?block, fun hturn => ?blockWaits⟩⟩,
    fun hruns hmoves hboots hoff hwhole => ?recovers, fun hstopped => ?stopped⟩
  case crypto => exact congrArg Host.Outcome.next (sanitizeRow_in_turn hfresh hturns hgo hready hcmd hon hturn hman)
  case cryptoWaits => exact congrArg Host.Outcome.next (sanitizeRow_waits hfresh hturns hgo hready hcmd hturn)
  case block =>
    exact (execSanitizeBlockErase_of_ctx hfresh.1).trans (congrArg Host.Outcome.next (sanitizeRow_in_turn hfresh hturns hgo hready hcmd hon hturn hman))
  case blockWaits => exact (execSanitizeBlockErase_of_ctx hfresh.1).trans (congrArg Host.Outcome.next (sanitizeRow_waits hfresh hturns hgo hready hcmd hturn))
  case recovers =>
    have h : Recovering s := ⟨hruns, hmoves, hboots, hoff, hwhole⟩
    refine ⟨fun hnow => h.counts hinv 1 hole bad dump (.inl rfl) (by rw [hnow]), fun hnow => h.counts hinv 3 hole bad dump (.inr rfl) (by rw [hnow]),
      fun hnow hk => h.hole_stops hinv k bad dump hnow hk, fun hstep hnine => ?_⟩
    exact h.skips hole bad dump hstep hnine
  case stopped =>
    show execRecovery step hole bad dump s = _
    simp [execRecovery, hstopped]

end Sys2Proof.Machine
end

section
/-!
PROOF. Set Features (R126, R127, R146, R147, R149).
-/
namespace Sys2Proof.Machine

variable {s : State} {n : Nat} {c : Ctx}

/-! ## A threshold that serves a worker's request -/

/-- An event request of port 0 that runs on behalf of the manager: its end is answered on the Stair. -/
def stairEventRequest : Ctx := { port := 0, sq := 0, cid := 4, cmd := .asyncEvent, st := .running, stair := some (0, 0, { kind := 2 }) }

/-- The command that sets the threshold to 0 K, so that the temperature is beyond it at once. -/
def thresholdCommand : Ctx := { port := 0, sq := 0, cid := 3, cmd := .setFeatures 0x04 0 0 0 false [] }

/-- The block in service with the notice of the temperature enabled, and both commands. -/
def thresholdState : State :=
  { State.reset with pwr := { por := false },
                     nvm := { feats := [(featKey 1 0x0B 0, 2)] },
                     hall := { ctxs := [(9, thresholdCommand), (10, stairEventRequest)], next := 11 } }

/-- The requests that a worker has answered after a command. -/
def answered (o : Host.Outcome State Fault Refusal) : Nat :=
  match o with
  | .next t => t.sta.done.length
  | _ => 0

/-- The warning completes the event request, and its answer is kept in the done table. -/
theorem answered_setFeaturesTempThreshold : answered (exec (.setFeaturesTempThreshold 9) thresholdState) = 1 := by decide +kernel

/-- Refutes O33: a Temperature Threshold that is passed at once completes an outstanding event request, and one that came over the Stair changes the
table of answers, which lies outside the parts listed. -/
theorem not_features : ¬ Obligations.Features := by
  unfold Obligations.Features
  intro h
  have hfresh : Fresh thresholdState 9 thresholdCommand := by decide +kernel
  obtain ⟨-, -, -, hthreshold, -⟩ := h thresholdState 9 0 0 0 0 [] thresholdCommand (by decide +kernel) hfresh (by decide +kernel)
  obtain ⟨t, hexec, honly, -⟩ := hthreshold rfl (by decide) (by decide)
  have hsta : t.sta = thresholdState.sta := honly.2 .sta (by decide)
  have hlen := answered_setFeaturesTempThreshold
  rw [hexec, answered, hsta] at hlen
  exact absurd hlen (by decide +kernel)

/-! ## Features that the supervisor program serves -/

theorem setFeature_of_fresh (hfresh : Fresh s n c) (hturns : supTurns s = true) (hgo : adminGo s n = true) {fid ns sub v : Nat} {data : List Nat}
    (hcmd : c.cmd = .setFeatures fid ns sub v false data) (f : Ctx → Nat → Nat → Nat → List Nat → State) :
    setFeature s n fid true f = f c ns sub v data := by
  rw [setFeature, if_pos rfl, bySup_of_fresh hfresh hturns hgo, hcmd]
  simp only [ne_eq, not_true, if_false, Bool.false_eq_true]

/-- A command that ends with success after a change of the settings. -/
theorem ends_after_nvm {i : Instr} (h : Fresh s n c) {f : Nvm → Nvm} (hexec : exec i s = .next (finishOk (s.modNvm f) n)) :
    ∃ t, exec i s = .next t ∧ Only [.hall, .nvm] s t ∧ OthersStand s t n ∧ Ended t n c 0 0 0 ∧ t.nvm = f s.nvm ∧ t.pwr = s.pwr := by
  have hready := h.not_ready
  obtain ⟨hc, -, -, hstair⟩ := h
  have hctx : (s.modNvm f).ctx n = some c := hc
  refine ⟨_, hexec, ?_, othersStand_finish hctx hready hstair 0 0 0, ended_finish hctx hready hstair 0 0 0, ?_, ?_⟩
  all_goals rw [finishOk, finish_zero hctx hready hstair]
  · exact only_of_mask (m := 256 + 512) (modCtx_mask (by decide) (modNvm_mask (by decide) (mask_refl _ s))) (by decide)
  · rfl
  · rfl

/-- What a command that ends with an error leaves of the settings. -/
theorem nvm_finish {γ : Type} (g : Nvm → γ) (hg : ∀ (x : Nvm) e k, g { x with errors := e, integrity := k } = g x) (hc : s.ctx n = some c) (hst : c.st ≠ .ready)
    (hstair : c.stair = none) (sct sc dw0 : Nat) : g (finish s n sct sc dw0).nvm = g s.nvm := by
  simp only [finish, hc, hst, hstair, if_false]
  split
  · rfl
  · exact hg _ _ _

/-- A command that is refused. -/
theorem ends_refused {i : Instr} (h : Fresh s n c) {sct sc : Nat} (hexec : exec i s = .next (finish s n sct sc)) :
    ∃ t, exec i s = .next t ∧ Only [.hall, .nvm] s t ∧ OthersStand s t n ∧ Ended t n c sct sc 0 ∧ t.hall.apst = s.hall.apst ∧ t.nvm.fdp = s.nvm.fdp := by
  have hready := h.not_ready
  obtain ⟨hc, -, -, hstair⟩ := h
  exact ⟨_, hexec, only_finish hc hready hstair _ _ _, othersStand_finish hc hready hstair _ _ _, ended_finish hc hready hstair _ _ _,
    (congrArg Hall.apst (finish_hall hc hready hstair _ _ _)).trans rfl, nvm_finish Nvm.fdp (fun _ _ _ => rfl) hc hready hstair _ _ _⟩

/-- The FDP events of a device with event 80h of a placement handle enabled or disabled. -/
def withFdpEvent (l : List (Nat × Nat)) (sub : Nat) (on : Bool) : List (Nat × Nat) :=
  if on then (l.filter fun e => !(e.1 == sub && decide (e.2 = 0x80))) ++ [(sub, 0x80)] else l.filter fun e => !(e.1 == sub && decide (e.2 = 0x80))

theorem mem_withFdpEvent {l : List (Nat × Nat)} {sub : Nat} {on : Bool} {e : Nat × Nat} :
    e ∈ withFdpEvent l sub on ↔ (e = (sub, 0x80) ∧ on = true) ∨ (e ≠ (sub, 0x80) ∧ e ∈ l) := by
  have hkeep : (!(e.1 == sub && decide (e.2 = 0x80))) = true ↔ e ≠ (sub, 0x80) := by
    rw [Ne, Prod.ext_iff, not_and_or]
    simp
  cases on
  · rw [withFdpEvent, if_neg Bool.false_ne_true, List.mem_filter, hkeep]
    simp [and_comm]
  · rw [withFdpEvent, if_pos rfl, List.mem_append, List.mem_filter, hkeep, List.mem_singleton]
    simp [and_comm, or_comm]

/-- The words of the host's table are refused where one is not in order. -/
theorem apstRefused_eq (l : List Nat) : ((l.map apstOf).any fun e => e.idleMs != 0 && !(3 ≤ e.target && e.target ≤ 5)) =
    !l.all fun w => (apstOf w).idleMs == 0 || (3 ≤ (apstOf w).target && (apstOf w).target ≤ 5) := by
  rw [List.any_map, List.not_all_eq_any_not]
  congr 1
  funext w
  simp [bne]

/-- Settles O34. -/
theorem supervisorFeatures : Obligations.SupervisorFeatures := by
  unfold Obligations.SupervisorFeatures
  intro s n ns sub v data c hinv hfresh hgo hturns
  refine ⟨fun hcmd hodd hlen => ⟨fun hgood => ?table, fun hbad => ?badTable⟩, fun hcmd => ?timestamp, fun hcmd hv => ⟨fun hnone => ?fdp, fun hsome => ?fdpRefused⟩,
    fun hcmd hsub => ⟨fun hfdp => ?events, fun hfdp => ?eventsRefused⟩⟩
  all_goals have hset := setFeature_of_fresh hfresh hturns hgo hcmd
  case table =>
    have hexec : exec (.setFeaturesApst n) s = .next (finishOk (setFeat (s.modHall fun h => { h with apst := Tbl.put h.apst c.port (data.map apstOf) })
        (c.port + 1) 0x0C 0 1) n) := by
      refine congrArg Host.Outcome.next ((hset _).trans ?_)
      simp only [hodd, if_true, List.take_of_length_le hlen]
      rw [if_neg]
      rw [apstRefused_eq, hgood]
      decide
    have hready := hfresh.not_ready
    obtain ⟨hc, -, -, hstair⟩ := hfresh
    let stored := setFeat (s.modHall fun h => { h with apst := Tbl.put h.apst c.port (data.map apstOf) }) (c.port + 1) 0x0C 0 1
    have hctx : stored.ctx n = some c := hc
    have hfin : finishOk stored n = _ := finish_zero hctx hready hstair 0
    refine ⟨_, hexec, ?_, othersStand_finish hctx hready hstair 0 0 0, ended_finish hctx hready hstair 0 0 0, ?_, ?_⟩
    all_goals rw [hfin]
    · exact only_of_mask (m := 256 + 512) (modCtx_mask (by decide) (modNvm_mask (by decide) (modHall_mask (by decide) (mask_refl _ s)))) (by decide)
    · exact Tbl.find_put_same _ _ _
    · exact Tbl.find_put_same _ _ _
  case badTable =>
    have hexec : exec (.setFeaturesApst n) s = .next (finish s n 0 2) := by
      refine congrArg Host.Outcome.next ((hset _).trans ?_)
      simp only [hodd, if_true, List.take_of_length_le hlen]
      rw [if_pos]
      rw [apstRefused_eq, hbad]
      decide
    obtain ⟨t, hexec, honly, hothers, hend, hapst, -⟩ := ends_refused hfresh hexec
    exact ⟨t, hexec, honly, hothers, hend, hapst⟩
  case timestamp =>
    have hexec : exec (.setFeaturesTimestamp n) s =
        .next (finishOk (s.modNvm fun x => { x with tsValue := data.headD 0 % 2 ^ 48, tsBase := s.pwr.time.toNat, tsSynch := false }) n) :=
      congrArg Host.Outcome.next (hset _)
    obtain ⟨t, hexec, honly, hothers, hend, hnvm, hpwr⟩ := ends_after_nvm hfresh hexec
    refine ⟨t, hexec, honly, hothers, hend, hnvm, ?_⟩
    rw [timestampNow, hnvm, hpwr]
    simp
  case fdp =>
    have hexec : exec (.setFeaturesFdp n) s = .next (finishOk (s.modNvm fun x => { x with fdp := decide (v = 1) }) n) := by
      refine congrArg Host.Outcome.next ((hset _).trans ?_)
      have hbits : bits v 8 8 = 0 := by simp [bits]; omega
      have hodd : (v % 2 = 1) = (v = 1) := by rw [Nat.mod_eq_of_lt hv]
      simp [hbits, hnone, hodd]
    obtain ⟨t, hexec, honly, hothers, hend, hnvm, -⟩ := ends_after_nvm hfresh hexec
    exact ⟨t, hexec, honly, hothers, hend, hnvm⟩
  case fdpRefused =>
    have hexec : exec (.setFeaturesFdp n) s = .next (finish s n 0 0x0C) := by
      refine congrArg Host.Outcome.next ((hset _).trans ?_)
      have hbits : bits v 8 8 = 0 := by simp [bits]; omega
      simp [hbits, hsome]
    obtain ⟨t, hexec, honly, hothers, hend, -, hfdp⟩ := ends_refused hfresh hexec
    exact ⟨t, hexec, honly, hothers, hend, hfdp⟩
  case events =>
    have hexec : exec (.setFeaturesFdpEvents n) s = .next (finishOk (s.modNvm fun x => { x with fdpEvents := withFdpEvent s.nvm.fdpEvents sub (v % 2 = 1) }) n) := by
      refine congrArg Host.Outcome.next ((hset _).trans ?_)
      have hbits : bits (65536 + sub) 16 8 = 1 := by simp [bits]; omega
      have hlow : (65536 + sub) % 65536 = sub := by omega
      simp [hbits, hlow, hfdp, Nat.not_lt.2 (Nat.le_of_lt_succ hsub), fdpTypes, withFdpEvent]
    obtain ⟨t, hexec, honly, hothers, hend, hnvm, -⟩ := ends_after_nvm hfresh hexec
    refine ⟨t, hexec, honly, hothers, hend, ?_, fun e he => ?_⟩
    · rw [hnvm, mem_withFdpEvent]
      simp
    · rw [hnvm, mem_withFdpEvent]
      simp [he]
  case eventsRefused =>
    refine ends_with hfresh (congrArg Host.Outcome.next ((hset _).trans ?_))
    simp [hfdp]

end Sys2Proof.Machine
end

section
/-!
PROOF. Identify and Get Log Page (R141, R155 to R159).
-/
namespace Sys2Proof.Machine

variable {s : State} {n : Nat} {c : Ctx}

/-! ## Data of a layout -/

/-- The bytes of a layout as they are sent. -/
def layoutBytes (l : List (Nat × Nat × Nat)) (off len : Nat) : List (Nat × Nat) := (List.range len).map fun i => (1, layoutByte l (off + i))

theorem length_layoutBytes (l : List (Nat × Nat × Nat)) (off len : Nat) : (layoutBytes l off len).length = len := by
  rw [layoutBytes, List.length_map, List.length_range]

theorem getElem?_layoutBytes (l : List (Nat × Nat × Nat)) {i off len : Nat} (hi : i < len) : (layoutBytes l off len)[i]? = some (1, layoutByte l (off + i)) := by
  rw [layoutBytes, List.getElem?_map, List.getElem?_range hi]
  rfl

/-- A layout that begins with the vendor identifier. -/
theorem layoutByte_vendor (l : List (Nat × Nat × Nat)) : layoutByte ((0, 2, 0x1E73) :: l) 0 = 0x73 ∧ layoutByte ((0, 2, 0x1E73) :: l) 1 = 0x1E := ⟨rfl, rfl⟩

/-! ## Identify -/

/-- Identify Controller under either identity. -/
theorem execIdentify_controller (hfresh : Fresh s n c) (hgo : adminGo s n = true) {ns k : Nat} (hcmd : c.cmd = .identify 1 0 ns k) :
    ∃ t l, Mask 2097152 s t ∧ exec (.identify n) s = .next (finishOk (sendLayout t n ((0, 2, 0x1E73) :: l) 0 4096) n) := by
  have hrow := byHall_of_fresh hfresh hgo
  cases hrecovery : s.porch.recovery
  · refine ⟨s.tick, (identifyController s c.port).tail, tick_mask (sub_refl _) (mask_refl _ s), congrArg Host.Outcome.next ((hrow _).trans ?_)⟩
    simp only [hcmd, hrecovery, Bool.false_eq_true, if_false]
    rfl
  · refine ⟨s, (identifyRecovery s).tail, mask_refl _ s, congrArg Host.Outcome.next ((hrow _).trans ?_)⟩
    simp only [hcmd, hrecovery, if_true]
    rfl

/-- A command that ends with success after data, where only free values have been taken before. -/
theorem ends_after_layout {i : Instr} (h : Fresh s n c) {t : State} {l : List (Nat × Nat × Nat)} {off len : Nat} (ht : Mask 2097152 s t)
    (hexec : exec i s = .next (finishOk (sendLayout t n l off len) n)) :
    ∃ u, exec i s = .next u ∧ Only [.hall, .out, .free] s u ∧ OthersStand s u n ∧ Ended u n c 0 0 0 ∧ u.out = s.out ++ [.adminData n (layoutBytes l off len)] := by
  have hready := h.not_ready
  obtain ⟨hc, -, -, hstair⟩ := id h
  have hhall : (sendLayout t n l off len).hall = s.hall := ht.2 .hall (by decide)
  have hctx : (sendLayout t n l off len).ctx n = some c := (ctx_of_hall hhall).trans hc
  have hout : t.out = s.out := ht.2 .out (by decide)
  rw [finishOk, finish_zero hctx hready hstair] at hexec
  refine ⟨_, hexec, only_of_mask (m := 256 + 1048576 + 2097152) (modCtx_mask (by decide) (sendLayout_mask (by decide) ?_)) (by decide),
    (othersStand_of_hall hhall).trans (othersStand_modCtx _), ctx_modCtx_same hctx _, congrArg (· ++ _) hout⟩
  exact mask_mono (by decide) ht

/-! ## Get Log Page -/

/-- A log page in its turn. -/
theorem logRow_of_fresh (hfresh : Fresh s n c) (hgo : adminGo s n = true) {page off len ns : Nat} {rae deferred : Bool} (hcmd : c.cmd = .getLog page off len ns rae)
    (hturn : supervisorRuns (.getLog page off len ns rae) = false ∨ supTurns s = true) (hclear : clearsDeferred s page off len rae = deferred) :
    logRow s n deferred = getLog s n c page off len ns rae := by
  have hserves : (!supervisorRuns c.cmd || supTurns s) = true := by
    rw [hcmd]
    rcases hturn with h | h
    · rw [h]
      rfl
    · rw [h, Bool.or_true]
  have hc := hfresh.1
  simp only [logRow, hc, hserves, Bool.not_true, Bool.false_eq_true, if_false]
  rw [byHall_of_fresh hfresh hgo]
  simp only [hcmd, hclear, if_true]

theorem clearsDeferred_of_page {page off len : Nat} {rae : Bool} (h : page ≠ 0xC0) : clearsDeferred s page off len rae = false := by
  simp [clearsDeferred, h]

theorem fieldsLen_eq_sum (l : List (Nat × Nat)) : fieldsLen l = (l.map Prod.fst).sum := by
  rw [fieldsLen, List.sum_eq_foldl_nat, List.foldl_map]

/-- The Deferred Error log is as long as its header and its entries (Tables 4-10, 4-11). -/
theorem fieldsLen_deferLog (s : State) : fieldsLen (deferLog s) = 64 + 48 * s.hall.defer_.length := by
  rw [fieldsLen_eq_sum, deferLog, List.map_append, List.sum_append, List.map_flatMap]
  congr 1
  induction s.hall.defer_ with
  | nil => rfl
  | cons e l ih =>
    rw [List.flatMap_cons, List.sum_append, ih, List.length_cons]
    simp
    omega

/-- The Hall after page C0h has been read. -/
def deferRead (p : Nat) (l : List (Nat × Nat)) (rae : Bool) (h : Hall) : Hall :=
  { h with snaps := Tbl.put h.snaps (p * 256 + 0xC0) l, snapEnts := Tbl.put h.snapEnts p h.defer_, deferUnread := if rae then h.deferUnread else [] }

/-- The state in which page C0h has been read and sent. -/
def deferSent (s : State) (n p len : Nat) (rae : Bool) : State :=
  (s.modHall (deferRead p (deferLog s) rae)).emit (.adminData n (layoutBytes (layFields 0 (deferLog s)) 0 len))

theorem getLog_deferred (hrecovery : s.porch.recovery = false) (len : Nat) (rae : Bool) :
    getLog s n c 0xC0 0 len 0 rae =
      finishOk (if clearsDeferred s 0xC0 0 len rae then clearReported (deferSent s n c.port len rae) c.port else deferSent s n c.port len rae) n := by
  cases rae
  · simp [getLog, logPages, hrecovery, vendorPage, vendorLog]
    rfl
  · simp [getLog, logPages, hrecovery, vendorPage, vendorLog]
    rfl

/-- The Reported entries go where the read has returned them all. -/
theorem hall_clearReported {p : Nat} (hsnap : Tbl.getD s.hall.snapEnts p [] = s.hall.defer_) :
    (clearReported s p).hall = { s.hall with defer_ := s.hall.defer_.filter fun e => e.armed } := by
  have hkept : (s.hall.defer_.filter fun e => !(!e.armed && s.hall.defer_.contains e)) = s.hall.defer_.filter fun e => e.armed :=
    List.filter_congr fun e he => by rw [List.contains_iff_mem.2 he, Bool.and_true, Bool.not_not]
  unfold clearReported
  simp only [hsnap]
  split
  next =>
    let posted := s.each (s.hall.defer_.filter fun e => !e.armed && s.hall.defer_.contains e) fun s e =>
      post s 0x0032 1 1 0xFF e.nsid e.slba e.cause e.armIngest
    have hposted : posted.hall = s.hall := (foldl_holds (P := Mask 8 s) (fun _ _ h => post_mask (sub_refl _) h) _ (mask_refl _ s)).2 .hall (by decide)
    have hjournal (t : State) (r : JRec) : (jAppend t r).hall = t.hall := (jAppend_mask (sub_refl _) (mask_refl _ t)).2 .hall (by decide)
    rw [hjournal, State.modHall_hall, hposted, hkept]
  next hany =>
    have hall : ∀ e ∈ s.hall.defer_, e.armed = true := fun e he => by
      by_contra harmed
      exact hany (List.any_eq_true.2 ⟨e, he, by simp [harmed, he]⟩)
    rw [List.filter_eq_self.2 hall]

/-- Settles O35. -/
theorem identifyAndLogs : Obligations.IdentifyAndLogs := by
  unfold Obligations.IdentifyAndLogs
  intro s n ns k page off len rae c hinv hfresh hgo
  have hrow := byHall_of_fresh hfresh hgo
  refine ⟨fun hcmd => ?controller, fun hrecovery hcmd hattached => ?unattached, fun hrecovery hcmd => ?bootRom, fun hcmd hturns => ?slots,
    fun hcmd hturns hpage => ⟨fun hmem => ?unknown, fun hmem hrecovery hoff => ?unaligned, fun hmem hrecovery hoff hnone hzero hall => ?noNamespace⟩,
    fun hcmd hrecovery hlen => ?clears, fun hcmd hrecovery => ?retains⟩
  case controller =>
    obtain ⟨t, l, ht, hexec⟩ := execIdentify_controller hfresh hgo hcmd
    obtain ⟨u, hexec, honly, hothers, hend, hout⟩ := ends_after_layout hfresh ht hexec
    obtain ⟨hlow, hhigh⟩ := layoutByte_vendor l
    exact ⟨u, _, hexec, honly, hothers, hend, hout, length_layoutBytes _ _ _, (getElem?_layoutBytes _ (by decide)).trans (by rw [hlow]),
      (getElem?_layoutBytes _ (by decide)).trans (by rw [hhigh])⟩
  case unattached =>
    refine ends_with hfresh (congrArg Host.Outcome.next ((hrow _).trans ?_))
    simp only [hcmd, hrecovery, identifyData, hattached, Bool.false_eq_true, if_false]
  case bootRom =>
    refine ends_with hfresh (congrArg Host.Outcome.next ((hrow _).trans ?_))
    simp [hcmd, hrecovery]
  case slots =>
    have hexec : exec (.getLogPage n) s = .next (finishOk (sendLayout s n (slotLog s) 0 len) n) := by
      refine congrArg Host.Outcome.next ((logRow_of_fresh hfresh hgo hcmd (.inr hturns) (clearsDeferred_of_page (by decide))).trans ?_)
      simp [getLog, logPages, standardPage]
    obtain ⟨t, hexec, honly, hothers, hend, hout⟩ := ends_after_data hfresh hexec
    exact ⟨t, _, hexec, honly, hothers, hend, hout, length_layoutBytes _ _ _⟩
  case unknown =>
    refine ends_with hfresh (congrArg Host.Outcome.next ((logRow_of_fresh hfresh hgo hcmd (.inr hturns) (clearsDeferred_of_page hpage)).trans ?_))
    simp [getLog, hmem]
  case unaligned =>
    refine ends_with hfresh (congrArg Host.Outcome.next ((logRow_of_fresh hfresh hgo hcmd (.inr hturns) (clearsDeferred_of_page hpage)).trans ?_))
    simp [getLog, hmem, hrecovery, hoff]
  case noNamespace =>
    refine ends_with hfresh (congrArg Host.Outcome.next ((logRow_of_fresh hfresh hgo hcmd (.inr hturns) (clearsDeferred_of_page hpage)).trans ?_))
    simp [getLog, hmem, hrecovery, hoff, hnone, hzero, hall]
  case clears =>
    have hclear : clearsDeferred s 0xC0 0 len false = true := by
      rw [clearsDeferred, fieldsLen_deferLog, decide_eq_true hlen]
      rfl
    let sent := deferSent s n c.port len false
    have hexec : exec (.getLogPageDeferredErrors n) s = .next (finishOk (clearReported sent c.port) n) := by
      refine congrArg Host.Outcome.next ((logRow_of_fresh hfresh hgo hcmd (.inl rfl) hclear).trans ?_)
      rw [getLog_deferred hrecovery, if_pos hclear]
    have hsnap : Tbl.getD sent.hall.snapEnts c.port [] = sent.hall.defer_ := Tbl.getD_put_same _ _ _ _
    have hhall := hall_clearReported hsnap
    have hctxs : (clearReported sent c.port).hall.ctxs = s.hall.ctxs := (congrArg Hall.ctxs hhall).trans rfl
    have hready := hfresh.not_ready
    obtain ⟨hc, -, -, hstair⟩ := hfresh
    have hctx : (clearReported sent c.port).ctx n = some c := (ctx_of_ctxs hctxs).trans hc
    have hfin := finish_hall hctx hready hstair 0 0 0
    refine ⟨_, hexec, only_of_exec hexec, ended_finish hctx hready hstair 0 0 0, (congrArg Hall.deferUnread hfin).trans ?_, (congrArg Hall.defer_ hfin).trans ?_⟩
    · exact congrArg Hall.deferUnread hhall
    · exact congrArg Hall.defer_ hhall
  case retains =>
    have hclear : clearsDeferred s 0xC0 0 len true = false := rfl
    have hexec : exec (.getLogPage n) s = .next (finishOk (deferSent s n c.port len true) n) := by
      refine congrArg Host.Outcome.next ((logRow_of_fresh hfresh hgo hcmd (.inl rfl) hclear).trans ?_)
      rw [getLog_deferred hrecovery, if_neg (Bool.eq_false_iff.1 hclear)]
    have hready := hfresh.not_ready
    obtain ⟨hc, -, -, hstair⟩ := hfresh
    have hctx : (deferSent s n c.port len true).ctx n = some c := hc
    have hend := ended_finish hctx hready hstair 0 0 0
    rw [finishOk, finish_zero hctx hready hstair] at hexec
    rw [finish_zero hctx hready hstair] at hend
    exact ⟨_, _, hexec, only_of_mask (m := 256 + 1048576) (modCtx_mask (by decide) (emit_mask (by decide) (modHall_mask (by decide) (mask_refl _ s)))) (by decide),
      hend, rfl, length_layoutBytes _ _ _, rfl, rfl⟩

end Sys2Proof.Machine
end

section
/-!
PROOF. Security Send and Security Receive (R452 to R457).
-/
namespace Sys2Proof.Machine

variable {s : State} {n : Nat} {c : Ctx}

/-- What a method leaves a Send to end on. -/
theorem execSecuritySend_of_fresh (hfresh : Fresh s n c) (hgo : adminGo s n = true) {proto : Nat} {m : TcgMsg} (hcmd : c.cmd = .security true proto m)
    (herase : ∀ x, mayErase x m = false) (hproto : proto ≠ 0) (hend : proto = 2 → m = .endSession) :
    exec (.securitySend n) s = .next (finishOk (clearPend (tcgNow s c.port m) n) n) := by
  obtain ⟨hc, hst, -, hstair⟩ := hfresh
  show execSecuritySend n s = _
  by_cases htwo : proto = 2
  · simp [execSecuritySend, hc, hcmd, hstair, hgo, hst, htwo, hend htwo]
  · simp [execSecuritySend, hc, hcmd, hstair, hgo, hst, hproto, htwo, herase]

/-- A Send that ends with success after a change of the Strongroom. -/
theorem ends_after_stg (h : Fresh s n c) {i : Instr} {f : Strongroom → Strongroom} (hexec : exec i s = .next (finishOk (clearPend (s.modStg f) n) n)) :
    ∃ t, exec i s = .next t ∧ Only [.stg, .hall] s t ∧ OthersStand s t n ∧ Ended t n c 0 0 0 ∧ t.stg.sessions = (f s.stg).sessions ∧
      t.stg.tries = (f s.stg).tries ∧ t.stg.creds = (f s.stg).creds := by
  have hready := h.not_ready
  obtain ⟨hc, -, -, hstair⟩ := h
  let cleared := clearPend (s.modStg f) n
  have hctx : cleared.ctx n = some c := hc
  rw [finishOk, finish_zero hctx hready hstair] at hexec
  exact ⟨_, hexec, only_of_mask (m := 64 + 256) (modCtx_mask (by decide) (modStg_mask (by decide) (modStg_mask (by decide) (mask_refl _ s)))) (by decide),
    othersStand_modCtx (s := cleared) _, ctx_modCtx_same hctx _, rfl, rfl, rfl⟩

/-- The admin authorities are the Admin SP's (Table 12-1). -/
theorem spHas_admin {auth : Nat} (hlo : 1 ≤ auth) (hhi : auth ≤ 4) : spHas s 0 auth = true := by
  simp [spHas, isAdmin, hlo, hhi]

theorem startSession_of_tries {p sp auth cred : Nat} (hauth : auth ≠ 0) (htries : 5 ≤ Tbl.getD s.stg.tries (credKey sp auth) 0) :
    startSession s p sp auth cred = s := by
  simp [startSession, hauth, htries]

/-- The list of protocols that protocol 00h answers: 00h, 01h and 02h. -/
def protocolList : List (Nat × Nat × Nat) := layFields 0 [(6, 0), (2, 3 * 256), (1, 0), (1, 1), (1, 2)]

theorem protocols_listed : ((layoutBytes protocolList 0 512).drop 6).take 5 = [(1, 0), (1, 3), (1, 0), (1, 1), (1, 2)] := by decide +kernel

/-- Settles O36. -/
theorem security : Obligations.Security := by
  unfold Obligations.Security
  intro s n auth cred proto m c x hinv hfresh hgo
  refine ⟨fun hcmd hnone hlo hhi htries => ⟨fun hcred => ?right, fun hcred => ?wrong⟩, fun hcmd htries hauth => ?exhausted, fun hcmd => ?ends,
    fun hcmd hsession hsp hauth hlo hhi => ?replaces, fun hcmd => ?noSend, fun hcmd => ?lists, fun hcmd hproto => ?answers⟩
  case right =>
    have hstart : startSession s c.port 0 auth cred = s.modStg fun g =>
        { g with sessions := Tbl.put g.sessions c.port { sp := 0, auth := auth, cred := cred }, tries := Tbl.del g.tries (credKey 0 auth) } := by
      simp [startSession, Tbl.has, hnone, spHas_admin hlo hhi, Nat.not_le.2 htries, hcred, Nat.ne_of_gt hlo]
    have hexec := execSecuritySend_of_fresh hfresh hgo hcmd (fun _ => rfl) (by decide) (fun h => nomatch h)
    rw [tcgNow, hstart] at hexec
    obtain ⟨t, hexec, honly, hothers, hend, hsessions, htries, -⟩ := ends_after_stg hfresh hexec
    refine ⟨t, hexec, honly, hothers, hend, ?_, ?_⟩
    · rw [hsessions]
      exact Tbl.find_put_same _ _ _
    · rw [htries, Tbl.getD, Tbl.find_del_same]
      rfl
  case wrong =>
    have hstart : startSession s c.port 0 auth cred = s.modStg fun g =>
        { g with tries := Tbl.put g.tries (credKey 0 auth) (Tbl.getD g.tries (credKey 0 auth) 0 + 1) } := by
      simp [startSession, Tbl.has, hnone, spHas_admin hlo hhi, Nat.not_le.2 htries, hcred, Nat.ne_of_gt hlo]
    have hexec := execSecuritySend_of_fresh hfresh hgo hcmd (fun _ => rfl) (by decide) (fun h => nomatch h)
    rw [tcgNow, hstart] at hexec
    obtain ⟨t, hexec, honly, hothers, hend, hsessions, htries, -⟩ := ends_after_stg hfresh hexec
    refine ⟨t, hexec, honly, hothers, hend, hsessions, ?_⟩
    rw [htries]
    exact Tbl.getD_put_same _ _ _ _
  case exhausted =>
    have hexec := execSecuritySend_of_fresh hfresh hgo hcmd (fun _ => rfl) (by decide) (fun h => nomatch h)
    rw [tcgNow, startSession_of_tries hauth htries] at hexec
    obtain ⟨t, hexec, honly, hothers, hend, hsessions, -⟩ := ends_after_stg (f := id) hfresh hexec
    exact ⟨t, hexec, honly, hothers, hend, hsessions⟩
  case ends =>
    have hexec := execSecuritySend_of_fresh hfresh hgo hcmd (fun _ => rfl) (by decide) (fun _ => rfl)
    obtain ⟨t, hexec, honly, hothers, hend, hsessions, -⟩ := ends_after_stg hfresh (f := fun g => { g with sessions := Tbl.del g.sessions c.port }) hexec
    refine ⟨t, hexec, honly, hothers, hend, ?_⟩
    rw [hsessions]
    exact Tbl.find_del_same _ _
  case replaces =>
    have hnow : tcgNow s c.port (.setCredential auth cred) = s.modStg fun g =>
        { g with creds := Tbl.put g.creds (credKey 0 auth) cred,
                 sessions := Tbl.mapV g.sessions fun _ y => if y.sp = 0 && y.auth = auth then { y with cred := cred } else y } := by
      have hnot : auth ≠ 0x22 := by omega
      simp [tcgNow, hsession, hsp, hauth, Nat.ne_of_gt hlo, hnot, setCredential]
    have hexec := execSecuritySend_of_fresh hfresh hgo hcmd (fun _ => rfl) (by decide) (fun h => nomatch h)
    rw [hnow] at hexec
    obtain ⟨t, hexec, honly, hothers, hend, -, -, hcreds⟩ := ends_after_stg hfresh hexec
    refine ⟨t, hexec, honly, hothers, hend, ?_⟩
    rw [hcreds]
    exact Tbl.getD_put_same _ _ _ _
  case noSend =>
    have hready := hfresh.not_ready
    obtain ⟨hc, hst, -, hstair⟩ := hfresh
    have hexec : exec (.securitySend n) s = .next (finish (clearPend s n) n 0 2) := by
      show execSecuritySend n s = _
      simp [execSecuritySend, hc, hcmd, hstair, hgo, hst]
    have hctx : (clearPend s n).ctx n = some c := hc
    exact ⟨_, hexec, only_of_mask (m := 64 + 768) (finish_host_mask hctx hready hstair 0 2 0 (by decide) (modStg_mask (by decide) (mask_refl _ s))) (by decide),
      othersStand_finish hctx hready hstair 0 2 0, ended_finish hctx hready hstair 0 2 0⟩
  case lists =>
    have hexec : exec (.securityReceive n) s = .next (finishOk (sendLayout s n protocolList 0 512) n) := by
      refine congrArg Host.Outcome.next ((byHall_of_fresh hfresh hgo _).trans ?_)
      simp only [hcmd, if_true]
      rfl
    obtain ⟨t, hexec, honly, hothers, hend, hout⟩ := ends_after_data hfresh hexec
    exact ⟨t, layoutBytes protocolList 0 512, hexec, honly, hothers, hend, hout, length_layoutBytes _ _ _, protocols_listed⟩
  case answers =>
    have hexec : exec (.securityReceive n) s = .next (finishOk ((s.emit (.adminData n [(16384, Config.freeNat s.free)])).tick) n) := by
      refine congrArg Host.Outcome.next ((byHall_of_fresh hfresh hgo _).trans ?_)
      simp only [hcmd, hproto, if_false]
    have hready := hfresh.not_ready
    obtain ⟨hc, -, -, hstair⟩ := hfresh
    let sent := (s.emit (.adminData n [(16384, Config.freeNat s.free)])).tick
    have hctx : sent.ctx n = some c := hc
    rw [finishOk, finish_zero hctx hready hstair] at hexec
    exact ⟨_, _, hexec, only_of_mask (m := 256 + 1048576 + 2097152) (modCtx_mask (by decide) (tick_mask (by decide) (emit_mask (by decide) (mask_refl _ s)))) (by decide),
      othersStand_modCtx (s := sent) _, ctx_modCtx_same hctx _, rfl, rfl⟩

end Sys2Proof.Machine
end

section
/-!
PROOF. The NOR die (R472 to R476, R505).
-/
namespace Sys2Proof.Machine

variable {s u : State}

/-! ## Requests and reports -/

theorem cloReport_of_ne {kind res : Nat} (h : res ≠ 2) :
    cloReport s kind res = raise ((s.wr CLO_STATUS.OP kind).wr CLO_STATUS.RESULT res) 64 (evWord 0x19 res) := by
  simp only [cloReport, h, if_false]

/-- What a report leaves in CLO_STATUS. -/
theorem regs_cloReport (hs : Tbl.sorted s.regs = true) {kind res : Nat} (h : res ≠ 2) (hkind : kind < 16) (hres : res < 16) :
    (cloReport s kind res).rd CLO_STATUS.OP = kind ∧ (cloReport s kind res).rd CLO_STATUS.RESULT = res ∧
      RegsBut s (cloReport s kind res) [CLO_STATUS.OP, CLO_STATUS.RESULT] := by
  let named := s.wr CLO_STATUS.OP kind
  have hnamed : Tbl.sorted named.regs = true := wr_sorted hs
  have hregs : (cloReport s kind res).regs = (named.wr CLO_STATUS.RESULT res).regs := by
    rw [cloReport_of_ne h]
    exact (raise_mask (sub_refl _) (mask_refl _ _)).2 .regs (by decide)
  refine ⟨?_, ?_, ?_⟩
  · exact (rd_of_regs hregs).trans (rd_wr_bits hnamed rfl rfl rfl ((State.rd_wr_same s _ kind hs (by decide)).trans (Nat.mod_eq_of_lt hkind)))
  · exact (rd_of_regs hregs).trans ((State.rd_wr_same named _ res hnamed (by decide)).trans (Nat.mod_eq_of_lt hres))
  · exact ((regsBut_wr hs (by decide) (by simp)).wr hnamed (by decide) (by simp)).of_regs hregs

/-- A report outside a confirmation, at a device that is no worker, begins nothing else. -/
theorem report_ends {kind res : Nat} (hconfirming : s.clo.confirming = false) (hworker : isWorker s = false) :
    startImage (startConfirm (cloReport s kind res)) = cloReport s kind res := by
  have hmask := cloReport_mask (kind := kind) (res := res) (sub_refl _) (mask_refl _ s)
  have hclo : (cloReport s kind res).clo = s.clo := hmask.2 .clo (by decide)
  have hpwr : (cloReport s kind res).pwr = s.pwr := hmask.2 .pwr (by decide)
  have hconfirm : startConfirm (cloReport s kind res) = cloReport s kind res := by
    rw [startConfirm, hclo, hconfirming, Bool.false_and, Bool.false_and, if_neg Bool.false_ne_true]
  have hnot : isWorker (cloReport s kind res) = false := by
    rw [isWorker, hpwr]
    exact hworker
  rw [hconfirm, startImage, hnot]
  rfl

/-- A request that is not refused begins its operation. -/
theorem cloRequest_begins (hinv : s.inv = true) {kind : Nat} (hkind : kind < 16) (hok : cloRefusal s kind (s.rd CLO_ADDR.ADDR) = 0) :
    Only [.regs, .clo] s (cloRequest s kind) ∧ (cloRequest s kind).rd CLO_STATUS.OP = kind ∧ RegsBut s (cloRequest s kind) [CLO_STATUS.OP] ∧
      (cloRequest s kind).clo =
        { s.clo with op := some { req := 0, kind := kind, addr := s.rd CLO_ADDR.ADDR, page := if kind = 1 then cloPage s else [] } } := by
  let begun := s.modClo fun c =>
    { c with op := some { req := 0, kind := kind, addr := s.rd CLO_ADDR.ADDR, page := if kind = 1 then cloPage s else [] } }
  have hreq : cloRequest s kind = begun.wr CLO_STATUS.OP kind := by
    simp only [cloRequest, hok]
    rfl
  have hsorted : Tbl.sorted begun.regs = true := regs_sorted (s := s) hinv
  have hbut : RegsBut s begun [CLO_STATUS.OP] := regsBut_of_regs rfl
  rw [hreq]
  exact ⟨only_of_mask (m := 1 + 32) (wr_mask (by decide) (modClo_mask (by decide) (mask_refl _ s))) (by decide),
    (State.rd_wr_same begun _ kind hsorted (by decide)).trans (Nat.mod_eq_of_lt hkind), hbut.wr hsorted (by decide) (List.mem_singleton.2 rfl), rfl⟩

/-! ## The bytes of the die -/

/-- A byte reads the same where the die and the records of its sector are the same. -/
theorem norByte_congr {a : Nat} (hfind : Tbl.find u.clo.nor a = Tbl.find s.clo.nor a) (hslots : u.clo.slots = s.clo.slots) (hconf : u.clo.conf = s.clo.conf)
    (hstg : u.stg = s.stg) (hatc : u.atc = s.atc) : norByte u a = norByte s a := by
  have hstore : sectorStore u (a / 65536) = sectorStore s (a / 65536) := by
    rw [sectorStore, hslots, hconf, hstg, hatc, sectorStore]
  rw [norByte, hfind, hstore, norByte]

/-- One byte of a page program. -/
def norStep (a : Nat) (s : State) (p : Nat × Byte) : State :=
  s.modClo fun c => { c with nor := Tbl.setD c.nor (a + p.1) (BitVec.ofNat 8 (norByte s (a + p.1) &&& p.2.toNat)) 0xFF,
                             marginal := c.marginal.filter fun b => !(b / 8 == a + p.1 && !p.2.getLsbD (b % 8)) }

theorem Tbl.find_setD_other {α : Type} [DecidableEq α] (t : Tbl α) {i k : Nat} (v d : α) (h : k ≠ i) : Tbl.find (Tbl.setD t i v d) k = Tbl.find t k := by
  unfold Tbl.setD
  split
  · exact Tbl.find_del_other t h
  · exact Tbl.find_put_other t v h

theorem norByte_norStep {a j : Nat} {p : Nat × Byte} (h : j ≠ a + p.1) : norByte (norStep a s p) j = norByte s j :=
  norByte_congr (Tbl.find_setD_other _ _ _ h) rfl rfl rfl rfl

theorem ofNat_and_toNat (x : Nat) (b : Byte) : BitVec.ofNat 8 (x &&& b.toNat) = BitVec.ofNat 8 x &&& b := by
  apply BitVec.eq_of_toNat_eq
  rw [BitVec.toNat_and, BitVec.toNat_ofNat, BitVec.toNat_ofNat, Nat.and_mod_two_pow, Nat.mod_eq_of_lt b.isLt]

/-- A page programmed from byte `k` on: the AND of what stood and the page, and nothing else. -/
theorem nor_program (a k : Nat) (l : List Byte) (s : State) :
    (∀ i b, l[i]? = some b → Tbl.getD (((List.range' k l.length).zip l).foldl (norStep a) s).clo.nor (a + (k + i)) 0xFF =
      BitVec.ofNat 8 (norByte s (a + (k + i))) &&& b) ∧
    (∀ j, ¬ (a + k ≤ j ∧ j < a + k + l.length) → Tbl.getD (((List.range' k l.length).zip l).foldl (norStep a) s).clo.nor j 0xFF = Tbl.getD s.clo.nor j 0xFF) := by
  induction l generalizing k s with
  | nil => exact ⟨fun i b h => (nomatch h), fun _ _ => rfl⟩
  | cons b l ih =>
    rw [List.length_cons, List.range'_succ, List.zip_cons_cons, List.foldl_cons]
    obtain ⟨hin, hout⟩ := ih (k + 1) (norStep a s (k, b))
    refine ⟨fun i b' hi => ?_, fun j hj => ?_⟩
    · cases i with
      | zero =>
        cases hi
        rw [hout _ (by omega), ← ofNat_and_toNat]
        exact Tbl.getD_setD_same _ _ _ _
      | succ i =>
        have hne : a + (k + 1 + i) ≠ a + k := by omega
        have hbyte := hin i b' hi
        rw [norByte_norStep hne] at hbyte
        rw [show k + (i + 1) = k + 1 + i by omega]
        exact hbyte
    · rw [hout j (by omega)]
      exact Tbl.getD_setD_other _ _ _ _ (by show j ≠ a + k; omega)

/-- The fields of the Closet that no operation on the die touches. -/
structure ClosetKept (s t : State) : Prop where
  op : t.clo.op = s.clo.op
  confirming : t.clo.confirming = s.clo.confirming

theorem closetKept_foldl (a : Nat) (l : List (Nat × Byte)) (s : State) : ClosetKept s (l.foldl (norStep a) s) :=
  foldl_holds (fun _ _ h => ⟨h.op, h.confirming⟩) l ⟨rfl, rfl⟩

/-- A program that runs to its end changes the die as its bytes do. -/
theorem norWrite_nor (a : Nat) (l : List Byte) (s : State) :
    (norWrite s a l).clo.nor = (((List.range' 0 l.length).zip l).foldl (norStep a) s).clo.nor ∧ ClosetKept s (norWrite s a l) := by
  have hkept := closetKept_foldl a ((List.range' 0 l.length).zip l) s
  rw [norWrite, List.range_eq_range']
  split
  · exact ⟨rfl, hkept⟩
  · exact ⟨rfl, hkept.op, hkept.confirming⟩

theorem Tbl.find_filter_key {α : Type} (t : Tbl α) (p : Nat → Bool) (j : Nat) :
    Tbl.find (t.filter fun e => p e.1) j = if p j then Tbl.find t j else none := by
  induction t with
  | nil => simp [Tbl.find]
  | cons e r ih =>
    obtain ⟨i, v⟩ := e
    by_cases hj : j = i
    · subst hj
      cases hp : p j <;> simp [hp, ih, Tbl.find]
    · cases hp : p i <;> simp [hp, ih, Tbl.find, hj]

/-- An erase that runs to its end leaves 0xFF in its sector. -/
theorem norErase_nor (sec j : Nat) (s : State) : ClosetKept s (norErase s sec) ∧
    Tbl.getD (norErase s sec).clo.nor j 0xFF = if j / 65536 = sec then 0xFF else Tbl.getD s.clo.nor j 0xFF := by
  have hnor : (norErase s sec).clo.nor = s.clo.nor.filter fun e => e.1 / 65536 != sec := by
    rw [norErase]
    split <;> rfl
  refine ⟨?_, ?_⟩
  · rw [norErase]
    split <;> exact ⟨rfl, rfl⟩
  · rw [hnor, Tbl.getD, Tbl.find_filter_key _ (fun i => i / 65536 != sec), Tbl.getD]
    by_cases hj : j / 65536 = sec
    · simp [hj]
    · simp [hj]

theorem closetKept_modClo {k : Nat} {f : Closet → Closet} (hop : ∀ c, (f c).op = c.op) (hconf : ∀ c, (f c).confirming = c.confirming) :
    ClosetKept s ((s.ticks k).modClo f) := ⟨hop _, hconf _⟩

theorem closetKept_norUndefined (s : State) (sec : Nat) : ClosetKept s (norUndefined s sec) := by
  unfold norUndefined
  exact closetKept_modClo (fun _ => rfl) (fun _ => rfl)

/-! ## The end of an operation -/

/-- The Closet with its operation ended and the pulses counted. -/
def opEnded (s : State) (pulses : Nat) : State := (s.modClo fun c => { c with op := none }).wr CLO_STATUS.PULSES (min pulses 255)

theorem clo_opEnded (s : State) (pulses : Nat) : (opEnded s pulses).clo = { s.clo with op := none } :=
  (wr_mask (sub_refl _) (mask_refl _ (s.modClo fun c => { c with op := none }))).2 .clo (by decide)

theorem norByte_opEnded (s : State) (pulses j : Nat) : norByte (opEnded s pulses) j = norByte s j := by
  have hclo := clo_opEnded s pulses
  have hmask : Mask 33 s (opEnded s pulses) := wr_mask (by decide) (modClo_mask (by decide) (mask_refl _ s))
  exact norByte_congr (by rw [hclo]) (by rw [hclo]) (by rw [hclo]) (hmask.2 .stg (by decide)) (hmask.2 .atc (by decide))

theorem isWorker_of_done {pulses : Nat} (h : Mask 32 (opEnded s pulses) u) : isWorker u = isWorker s := by
  have hmask : Mask (1 + 32) s u := mask_trans (wr_mask (by decide) (modClo_mask (by decide) (mask_refl _ s))) (mask_mono (by decide) h)
  rw [isWorker, hmask.2 .pwr (by decide), isWorker]

/-- The report that ends a supervisor's operation. -/
theorem opEnded_report (hinv : s.inv = true) {pulses kind : Nat} (hkind : kind < 16) (hu : Mask 32 (opEnded s pulses) u) :
    Only [.regs, .clo, .seqs] s (cloReport u kind 0) ∧ (cloReport u kind 0).clo = u.clo ∧ (cloReport u kind 0).rd CLO_STATUS.PULSES = min pulses 255 ∧
      (cloReport u kind 0).rd CLO_STATUS.RESULT = 0 := by
  let freed := s.modClo fun c => { c with op := none }
  have hfreed : Tbl.sorted freed.regs = true := regs_sorted (s := s) hinv
  have hregs : u.regs = (freed.wr CLO_STATUS.PULSES (min pulses 255)).regs := hu.2 .regs (by decide)
  have hsorted : Tbl.sorted u.regs = true := by
    rw [hregs]
    exact wr_sorted hfreed
  obtain ⟨-, hresult, hbut⟩ := regs_cloReport hsorted (res := 0) (by decide) hkind (by decide)
  have hpulses : u.rd CLO_STATUS.PULSES = min pulses 255 :=
    (rd_of_regs hregs).trans ((State.rd_wr_same freed _ _ hfreed (by decide)).trans (Nat.mod_eq_of_lt (by show min pulses 255 < 256; omega)))
  have hmask : Mask (1 + 32) s u := mask_trans (wr_mask (by decide) (modClo_mask (by decide) (mask_refl _ s))) (mask_mono (by decide) hu)
  refine ⟨only_of_mask (m := 1 + 32 + 8192) (cloReport_mask (by decide) (mask_mono (by decide) hmask)) (by decide),
    (cloReport_mask (sub_refl _) (mask_refl _ u)).2 .clo (by decide), (hbut.rd_eq fun x hx => ?_).trans hpulses, hresult⟩
  rcases List.mem_pair.1 hx with rfl | rfl
  · exact apart_bits rfl rfl
  · exact apart_bits rfl rfl

/-- The report of a supervisor's operation that has failed. -/
theorem failed_report (hinv : s.inv = true) (hconfirming : s.clo.confirming = false) (hworker : isWorker s = false) {pulses : Nat}
    (hu : Mask 2097184 ((opEnded s pulses).set1 CLO_STATUS.FAIL) u) (hkept : ClosetKept ((opEnded s pulses).set1 CLO_STATUS.FAIL) u) :
    startImage (startConfirm (cloReport u 2 1)) = cloReport u 2 1 ∧ (cloReport u 2 1).clo.op = none ∧ (cloReport u 2 1).on CLO_STATUS.FAIL = true ∧
      (cloReport u 2 1).rd CLO_STATUS.RESULT = 1 := by
  have hfreed : Tbl.sorted (s.modClo fun c => { c with op := none }).regs = true := regs_sorted (s := s) hinv
  have hended : Tbl.sorted (opEnded s pulses).regs = true := wr_sorted hfreed
  have hregs : u.regs = ((opEnded s pulses).set1 CLO_STATUS.FAIL).regs := hu.2 .regs (by decide)
  have hsorted : Tbl.sorted u.regs = true := by
    rw [hregs]
    exact set1_sorted hended
  have hmarked : Mask (1 + 32) s ((opEnded s pulses).set1 CLO_STATUS.FAIL) :=
    set1_mask (by decide) (wr_mask (by decide) (modClo_mask (by decide) (mask_refl _ s)))
  have hpwr : u.pwr = s.pwr := (hu.2 .pwr (by decide)).trans (hmarked.2 .pwr (by decide))
  have hclo : ((opEnded s pulses).set1 CLO_STATUS.FAIL).clo = { s.clo with op := none } :=
    ((set1_mask (sub_refl _) (mask_refl _ (opEnded s pulses))).2 .clo (by decide)).trans (clo_opEnded s pulses)
  have hnone : u.clo.op = none := by rw [hkept.op, hclo]
  have hconf : u.clo.confirming = false := by rw [hkept.confirming, hclo, hconfirming]
  have hreport : (cloReport u 2 1).clo = u.clo := (cloReport_mask (sub_refl _) (mask_refl _ u)).2 .clo (by decide)
  obtain ⟨-, hresult, hbut⟩ := regs_cloReport hsorted (kind := 2) (res := 1) (by decide) (by decide) (by decide)
  have hfail : (cloReport u 2 1).on CLO_STATUS.FAIL = u.on CLO_STATUS.FAIL := by
    refine hbut.on_eq fun x hx => ?_
    rcases List.mem_pair.1 hx with rfl | rfl
    · exact apart_bits rfl rfl
    · exact apart_bits rfl rfl
  refine ⟨report_ends hconf (by rw [isWorker, hpwr]; exact hworker), by rw [hreport, hnone], ?_, hresult⟩
  rw [hfail, on_of_regs hregs]
  exact on_set1_same hended (by decide) (by decide)

/-- A supervisor's program outside the configuration store that has run to its end. -/
theorem execClosetOperationDone_program {pulses : Nat} {o : CloOp} (hop : s.clo.op = some o) (hreq : o.req = 0) (hkind : o.kind = 1)
    (hstore : ¬ (456 ≤ o.addr / 65536 ∧ o.addr / 65536 < 512)) : exec (.closetOperationDone pulses true) s =
      .next (startImage (startConfirm (cloReport (norWrite (opEnded s pulses) o.addr o.page) 1 0))) := by
  have hnot : (decide (456 ≤ o.addr / 65536) && decide (o.addr / 65536 < 512)) = false := by
    rw [← Bool.decide_and, decide_eq_false hstore]
  show execClosetOperationDone pulses true s = _
  simp only [execClosetOperationDone, hop, hreq, hkind, Bool.true_or, if_true, Bool.true_and, decide_true, hnot, Bool.false_eq_true, if_false]
  rfl

/-- A supervisor's erase that has run to its end. -/
theorem execClosetOperationDone_erase {pulses : Nat} {o : CloOp} (hop : s.clo.op = some o) (hreq : o.req = 0) (hkind : o.kind = 2) :
    exec (.closetOperationDone pulses true) s =
      .next (startImage (startConfirm (cloReport (norErase (opEnded s pulses) (o.addr / 65536)) 2 0))) := by
  show execClosetOperationDone pulses true s = _
  simp only [execClosetOperationDone, hop, hreq, hkind]
  rfl

/-- A supervisor's erase that has failed. -/
theorem execClosetOperationDone_fails {pulses : Nat} {o : CloOp} (hop : s.clo.op = some o) (hreq : o.req = 0) (hkind : o.kind = 2) :
    exec (.closetOperationDone pulses false) s =
      .next (startImage (startConfirm (cloReport (norUndefined ((opEnded s pulses).set1 CLO_STATUS.FAIL) (o.addr / 65536)) 2 1))) := by
  show execClosetOperationDone pulses false s = _
  simp only [execClosetOperationDone, hop, hreq, hkind]
  rfl

theorem rd_lt (s : State) (f : Fld) : s.rd f < 2 ^ f.width := Nat.mod_lt _ (Nat.two_pow_pos _)

/-- Settles O37. -/
theorem closetOperations : Obligations.ClosetOperations := by
  unfold Obligations.ClosetOperations
  intro s k pulses v o hinv
  refine ⟨fun hok => ?program, fun hok => ?erase, fun hok => ?margin, fun hpwr hbusy hwait hheld hroom => ?busy,
    fun hop hreq hconfirming hworker => ⟨fun hkind hlen haligned hstore => ?programmed, fun hkind => ?erased, fun hkind => ?failed⟩, fun hop => ?idle,
    fun hk => ?protects⟩
  case program =>
    obtain ⟨honly, hrd, hbut, hclo⟩ := cloRequest_begins hinv (by decide) hok
    exact ⟨_, rfl, honly, hrd, hbut, hclo⟩
  case erase =>
    obtain ⟨honly, hrd, hbut, hclo⟩ := cloRequest_begins hinv (by decide) hok
    exact ⟨_, rfl, honly, hrd, hbut, hclo⟩
  case margin =>
    obtain ⟨honly, hrd, hbut, hclo⟩ := cloRequest_begins hinv (by decide) hok
    exact ⟨_, rfl, honly, hrd, hbut, hclo⟩
  case busy =>
    have hrefused : cloRefusal s 2 (s.rd CLO_ADDR.ADDR) = 5 := by simp [cloRefusal, hpwr, hbusy]
    have hexec : exec .closetErase s = .next (cloReport s 2 5) := by
      refine congrArg Host.Outcome.next ?_
      simp only [cloRequest, hrefused]
    obtain ⟨hopcode, hresult, -⟩ := regs_cloReport (regs_sorted hinv) (kind := 2) (res := 5) (by decide) (by decide) (by decide)
    let marked := (s.wr CLO_STATUS.OP 2).wr CLO_STATUS.RESULT 5
    have hmarked : marked.seq 64 = s.seq 64 := (seq_wr _ _ _ _).trans (seq_wr _ _ _ _)
    have hseqs : Tbl.sorted marked.seqs = true := (congrArg Tbl.sorted ((seqs_wr _ _ _).trans (seqs_wr _ _ _))).trans (seqs_sorted hinv)
    have hseq : (cloReport s 2 5).seq 64 = { s.seq 64 with evq := (s.seq 64).evq ++ [evWord 0x19 5] } := by
      rw [cloReport_of_ne (by decide)]
      rw [← hmarked] at hwait hheld hroom ⊢
      exact seq_raise_of_room hseqs _ hwait hheld hroom
    refine ⟨_, evWord 0x19 5, hexec, only_of_mask (m := 1 + 8192) (cloReport_mask (by decide) (mask_refl _ s)) (by decide), hresult, hopcode, hseq,
      by decide, by decide⟩
  case programmed =>
    let written := norWrite (opEnded s pulses) o.addr o.page
    obtain ⟨hnor, hkept⟩ := norWrite_nor o.addr o.page (opEnded s pulses)
    have hclo := clo_opEnded s pulses
    have hmask : Mask 32 (opEnded s pulses) written := norWrite_mask (sub_refl _) (mask_refl _ _)
    obtain ⟨honly, hreport, hpulses, hresult⟩ := opEnded_report hinv (kind := 1) (by decide) hmask
    obtain ⟨hin, hout⟩ := nor_program o.addr 0 o.page (opEnded s pulses)
    have hexec := execClosetOperationDone_program (pulses := pulses) hop hreq hkind hstore
    rw [report_ends (by rw [hkept.confirming, hclo]; exact hconfirming) ((isWorker_of_done hmask).trans hworker)] at hexec
    refine ⟨_, hexec, honly, ?_, fun i b hi => ?_, fun j hj => ?_, hpulses, hresult⟩
    · rw [hreport, hkept.op, hclo]
    · have hbyte := hin i b hi
      rw [Nat.zero_add, norByte_opEnded] at hbyte
      rw [hreport, hnor, hbyte]
    · rw [hreport, hnor, hout j (by rw [hlen]; exact hj), hclo]
  case erased =>
    let erased := norErase (opEnded s pulses) (o.addr / 65536)
    have hclo := clo_opEnded s pulses
    have hmask : Mask 32 (opEnded s pulses) erased := norErase_mask (sub_refl _) (mask_refl _ _)
    obtain ⟨honly, hreport, -, hresult⟩ := opEnded_report hinv (kind := 2) (by decide) hmask
    have hkept := (norErase_nor (o.addr / 65536) 0 (opEnded s pulses)).1
    have hexec := execClosetOperationDone_erase (pulses := pulses) hop hreq hkind
    rw [report_ends (by rw [hkept.confirming, hclo]; exact hconfirming) ((isWorker_of_done hmask).trans hworker)] at hexec
    refine ⟨_, hexec, honly, ?_, fun j => ?_, hresult⟩
    · rw [hreport, hkept.op, hclo]
    · rw [hreport, (norErase_nor (o.addr / 65536) j (opEnded s pulses)).2, hclo]
  case failed =>
    have hexec := execClosetOperationDone_fails (pulses := pulses) hop hreq hkind
    obtain ⟨hreport, hnone, hfail, hresult⟩ := failed_report hinv hconfirming hworker
      (norUndefined_mask (sub_refl _) (mask_refl _ ((opEnded s pulses).set1 CLO_STATUS.FAIL))) (closetKept_norUndefined _ (o.addr / 65536))
    rw [hreport] at hexec
    exact ⟨_, hexec, hnone, hfail, hresult⟩
  case idle =>
    show execClosetOperationDone pulses true s = _
    simp only [execClosetOperationDone, hop]
  case protects =>
    have hexec : exec (.cloWpSet k v) s = .next (s.wr (CLO_WP.PROT k) (s.rd (CLO_WP.PROT k) ||| v.toNat)) := by
      refine congrArg Host.Outcome.next ?_
      rw [if_pos hk]
    have hbits : s.rd (CLO_WP.PROT k) ||| v.toNat < 2 ^ 64 := Nat.or_lt_two_pow (rd_lt s _) v.isLt
    exact ⟨_, hexec, only_of_mask (m := 1) (wr_mask (sub_refl _) (mask_refl _ s)) (by decide),
      (State.rd_wr_same s _ _ (regs_sorted hinv) (Nat.le_of_ble_eq_true rfl)).trans (Nat.mod_eq_of_lt hbits),
      regsBut_wr (regs_sorted hinv) (Nat.le_of_ble_eq_true rfl) (List.mem_singleton.2 rfl)⟩

end Sys2Proof.Machine
end

section
/-!
PROOF. The choice of the slot at boot, the confirmation and the records of time (R480, R491 to R501, R532).
-/
namespace Sys2Proof.Machine

variable {s u : State} {k : Nat} {conf : Bool}

/-! ## A slot is started (R493) -/

/-- The fuse number, the measurements and the seed. -/
def slotMeasured (s : State) (k : Nat) (conf : Bool) : State :=
  let x := slotImage s k
  let s := if conf && x.raiseSvn && decide (s.stg.fuses.svn < x.svn) then s.modStg fun g => { g with fuses := { g.fuses with svn := x.svn } } else s
  let set := ((s.stg.fuses.authors.find? fun e => e.2 == x.keySet).map fun e => e.1).getD 0
  seedLoad (s.modStg fun g => { g with
    devId := true, alias_ := true, mRom := Config.sha384 bootRomBytes, mImage := x.digest,
    mIdent := Config.sha384 [x.ident.ssvid, x.ident.ssid, b2n x.portMode, x.ident.maxRate, x.ident.msix, x.ident.qpairs, x.ident.pmAllow],
    mSvn := x.svn, mSet := set })

/-- The sectors that a started image protects. -/
def slotProt (sec : Nat) : Bool := decide (200 ≤ sec ∧ sec < 456) || decide (776 ≤ sec)

/-- Every register of the protection is written. -/
def protectAll (s : State) (l : List Nat) (v : Nat → Nat) : State := s.each l fun s j => s.wr (CLO_WP.PROT j) (v j)

/-- The protection of the sectors, and its lock. -/
def slotGuarded (s : State) : State :=
  (protectAll s (List.range 16) fun j => (List.range 64).foldl (fun a i => if slotProt (64 * j + i) then a + 2 ^ i else a) 0).set1 CLO_CTL.WP_LOCK

/-- The identity, and its lock. -/
def slotIdentified (s : State) (x : Image) : State :=
  let s := ((s.wr PCH_PORT_CTL.PORT_MODE (b2n x.portMode)).wr PCH_PORT_CTL.MAX_RATE (if x.ident.maxRate = 0 then 7 else x.ident.maxRate)).set1 PCH_PORT_CTL.LOCK
  s.modPorch fun p => { p with fixed := true, recovery := false, idle := isWorker s, ident := x.ident }

/-- The geometry and the running image. -/
def slotPlaced (s : State) (x : Image) (k : Nat) (conf : Bool) : State :=
  let s := s.modScu fun c => { c with geo := x.geo, lapStart := s.pwr.opSec, lapPos := 0 }
  let s := s.modAtc fun a => { a with segSlots := max 1 (2048 * x.geo.rows) }
  s.modClo fun c => { c with running := k, confirmSec := if conf || k = 1 then none else some 0 }

theorem startSlot_eq (s : State) (k : Nat) (conf : Bool) : startSlot s k conf =
    ((startSupervisor (slotPlaced (slotGuarded (slotIdentified (slotMeasured s k conf) (slotImage s k))) (slotImage s k) k conf)
      (slotImage s k)).set1 STD_SUP_STATUS.BOOT_DONE).modPwr fun p => { p with bootWait := false } := by
  unfold startSlot slotPlaced slotGuarded slotIdentified slotMeasured slotProt protectAll
  rfl

/-- What a started slot leaves. -/
structure SlotStarted (s t : State) (k : Nat) (conf : Bool) : Prop where
  fixed : t.porch.fixed = true
  recovery : t.porch.recovery = false
  ident : t.porch.ident = (slotImage s k).ident
  pwr : t.pwr = { s.pwr with bootWait := false }
  lock : t.on PCH_PORT_CTL.LOCK = true
  wpLock : t.on CLO_CTL.WP_LOCK = true
  done : t.on STD_SUP_STATUS.BOOT_DONE = true
  running : t.clo.running = k
  confirmSec : t.clo.confirmSec = if conf || k = 1 then none else some 0
  pc : (t.seq 64).pc = (slotImage s k).sup.entry
  state : (t.seq 64).state = 1
  geo : t.scu.geo = (slotImage s k).geo

theorem slotMeasured_mask (s : State) (k : Nat) (conf : Bool) : Mask 2097217 s (slotMeasured s k conf) := by
  refine seedLoad_mask (sub_refl _) (modStg_mask (by decide) ?_)
  split
  · exact modStg_mask (by decide) (mask_refl _ s)
  · exact mask_refl _ s

theorem slotMeasured_inv (hinv : s.inv = true) (k : Nat) (conf : Bool) : (slotMeasured s k conf).inv = true := by
  have hkeeps : Keeps s.pending s := ⟨hinv, rfl⟩
  suffices hafter : Keeps s.pending (slotMeasured s k conf) from hafter.1
  refine seedLoad_keeps (modStg_keeps ?_)
  split
  · exact modStg_keeps hkeeps
  · exact hkeeps

/-- A field of a register below the protection's reads the same. -/
theorem on_protectAll (hs : Tbl.sorted s.regs = true) {g : Fld} (hg : g.addr ≤ CLO_CTL.addr) (l : List Nat) (v : Nat → Nat) :
    Tbl.sorted (protectAll s l v).regs = true ∧ (protectAll s l v).on g = s.on g := by
  refine foldl_holds (P := fun u : State => Tbl.sorted u.regs = true ∧ u.on g = s.on g) (fun u j h => ?_) l ⟨hs, rfl⟩
  obtain ⟨hu, hon⟩ := h
  have hne : g.addr ≠ CLO_WP.addr j := by
    unfold CLO_WP.addr
    unfold CLO_CTL.addr at hg
    omega
  exact ⟨wr_sorted hu, (on_wr_apart _ hu (Nat.le_of_ble_eq_true rfl) (.inl hne)).trans hon⟩

theorem on_slotGuarded (hs : Tbl.sorted s.regs = true) :
    Tbl.sorted (slotGuarded s).regs = true ∧ (slotGuarded s).on PCH_PORT_CTL.LOCK = s.on PCH_PORT_CTL.LOCK ∧ (slotGuarded s).on CLO_CTL.WP_LOCK = true := by
  obtain ⟨hsorted, hon⟩ := on_protectAll hs (g := PCH_PORT_CTL.LOCK) (by decide) (List.range 16)
    fun j => (List.range 64).foldl (fun a i => if slotProt (64 * j + i) then a + 2 ^ i else a) 0
  exact ⟨set1_sorted hsorted, (on_wr_apart _ hsorted (by decide) (.inl (by decide))).trans hon, on_set1_same hsorted (by decide) (by decide)⟩

/-- The supervisor program is at its entry. -/
theorem seq_startSupervisor (hs : Tbl.sorted s.seqs = true) (x : Image) :
    ((startSupervisor s x).seq 64).pc = x.sup.entry ∧ ((startSupervisor s x).seq 64).state = 1 := by
  let reset := s.modSeq 64 fun q => { q with ram := [], g := [], t := false, rstack := [], inTrap := false, wait := none, pc := x.sup.entry, state := 1 }
  have hreset : Tbl.sorted reset.seqs = true := modSeq_sorted hs
  have hloaded : (startSupervisor s x).seq 64 = (loadBytes reset 64 0 x.sup.bytes).seq 64 := rfl
  rw [hloaded, loadBytes, seq_modSeq_same hreset, seq_modSeq_same hs]
  exact ⟨rfl, rfl⟩

theorem slotIdentified_lock (hs : Tbl.sorted s.regs = true) (x : Image) :
    Tbl.sorted (slotIdentified s x).regs = true ∧ (slotIdentified s x).on PCH_PORT_CTL.LOCK = true := by
  have hwritten : Tbl.sorted ((s.wr PCH_PORT_CTL.PORT_MODE (b2n x.portMode)).wr PCH_PORT_CTL.MAX_RATE (if x.ident.maxRate = 0 then 7 else x.ident.maxRate)).regs = true :=
    wr_sorted (wr_sorted hs)
  unfold slotIdentified
  exact ⟨(congrArg Tbl.sorted (State.modPorch_regs _ _)).trans (set1_sorted hwritten),
    (on_of_regs (State.modPorch_regs _ _)).trans (on_set1_same hwritten (by decide) (by decide))⟩

theorem slotPlaced_mask {m : Nat} {s0 : State} (x : Image) (hm : Sub 32808 m) (h : Mask m s0 s) : Mask m s0 (slotPlaced s x k conf) :=
  modClo_mask (sub_trans (by decide) hm) (modAtc_mask (sub_trans (by decide) hm) (modScu_mask (sub_trans (by decide) hm) h))

theorem slotGuarded_mask {m : Nat} {s0 : State} (hm : Sub 1 m) (h : Mask m s0 s) : Mask m s0 (slotGuarded s) :=
  set1_mask hm (foldl_holds (fun _ _ h => wr_mask hm h) _ h)

theorem slotIdentified_mask {m : Nat} {s0 : State} (x : Image) (hm : Sub 129 m) (h : Mask m s0 s) : Mask m s0 (slotIdentified s x) :=
  modPorch_mask (sub_trans (by decide) hm) (set1_mask (sub_trans (by decide) hm) (wr_mask (sub_trans (by decide) hm) (wr_mask (sub_trans (by decide) hm) h)))

theorem startSlot_starts (hinv : s.inv = true) (k : Nat) (conf : Bool) : SlotStarted s (startSlot s k conf) k conf := by
  let x := slotImage s k
  let measured := slotMeasured s k conf
  let identified := slotIdentified measured x
  let guarded := slotGuarded identified
  let placed := slotPlaced guarded x k conf
  let started := startSupervisor placed x
  let told := started.set1 STD_SUP_STATUS.BOOT_DONE
  have hmeasured : Mask 2097217 s measured := slotMeasured_mask s k conf
  have hsorted : Tbl.sorted measured.regs = true := regs_sorted (slotMeasured_inv hinv k conf)
  obtain ⟨hidSorted, hidLock⟩ := slotIdentified_lock hsorted x
  obtain ⟨hguSorted, hguLock, hguWp⟩ := on_slotGuarded hidSorted
  have hstarted : Mask 41016 guarded started := startSupervisor_mask (by decide) (slotPlaced_mask x (by decide) (mask_refl _ guarded))
  have hregs : started.regs = guarded.regs := hstarted.2 .regs (by decide)
  have hstSorted : Tbl.sorted started.regs = true := by rw [hregs]; exact hguSorted
  have hporch : told.porch = identified.porch := (set1_mask (m := 41017) (by decide) (startSupervisor_mask (by decide) (slotPlaced_mask x (by decide)
    (slotGuarded_mask (by decide) (mask_refl _ identified))))).2 .porch (by decide)
  have hall : Mask 2138361 s told := set1_mask (by decide) (startSupervisor_mask (by decide) (slotPlaced_mask x (by decide)
    (slotGuarded_mask (by decide) (slotIdentified_mask x (by decide) (mask_mono (by decide) hmeasured)))))
  have hpwr : told.pwr = s.pwr := hall.2 .pwr (by decide)
  have htold : Mask 8209 placed told := set1_mask (by decide) (startSupervisor_mask (by decide) (mask_refl _ placed))
  have hclo : told.clo = placed.clo := htold.2 .clo (by decide)
  have hscu : told.scu = placed.scu := htold.2 .scu (by decide)
  have hplaced : Mask 2130153 s placed := slotPlaced_mask x (by decide) (slotGuarded_mask (by decide)
    (slotIdentified_mask x (by decide) (mask_mono (by decide) hmeasured)))
  have hidentified : identified.porch = _ := State.modPorch_porch _ _
  have hplacedClo : placed.clo = _ := State.modClo_clo _ _
  have hplacedScu : placed.scu = _ := (State.modClo_scu _ _).trans ((State.modAtc_scu _ _).trans (State.modScu_scu _ _))
  have hseqs : Tbl.sorted placed.seqs = true := by
    rw [hplaced.2 .seqs (by decide)]
    exact seqs_sorted hinv
  obtain ⟨hpc, hstate⟩ := seq_startSupervisor hseqs x
  have heq : startSlot s k conf = told.modPwr fun p => { p with bootWait := false } := startSlot_eq s k conf
  have hon (g : Fld) (h : g.addr ≠ STD_SUP_STATUS.addr) : told.on g = guarded.on g :=
    (on_wr_apart _ hstSorted (by decide) (.inl h)).trans (on_of_regs hregs)
  have hseq : (told.modPwr fun p => { p with bootWait := false }).seq 64 = started.seq 64 :=
    (seq_of_seqs (State.modPwr_seqs _ _)).trans (seq_set1 _ _ _)
  rw [heq]
  exact {
    fixed := by rw [State.modPwr_porch, hporch, hidentified]
    recovery := by rw [State.modPwr_porch, hporch, hidentified]
    ident := by rw [State.modPwr_porch, hporch, hidentified]
    pwr := by rw [State.modPwr_pwr, hpwr]
    lock := (on_of_regs (State.modPwr_regs _ _)).trans ((hon _ (by decide)).trans (hguLock.trans hidLock))
    wpLock := (on_of_regs (State.modPwr_regs _ _)).trans ((hon _ (by decide)).trans hguWp)
    done := (on_of_regs (State.modPwr_regs _ _)).trans (on_set1_same hstSorted (by decide) (by decide))
    running := by rw [State.modPwr_clo, hclo, hplacedClo]
    confirmSec := by rw [State.modPwr_clo, hclo, hplacedClo]
    pc := (congrArg Seq.pc hseq).trans hpc
    state := (congrArg Seq.state hseq).trans hstate
    geo := by rw [State.modPwr_scu, hscu, hplacedScu] }

/-! ## The recovery identity (R494) -/

/-- What the recovery identity leaves. -/
structure Recovered (s t : State) : Prop where
  fixed : t.porch.fixed = true
  recovery : t.porch.recovery = true
  ssid : t.porch.ident.ssid = 0x06FF
  pwr : t.pwr = { s.pwr with bootWait := false }
  lock : t.on PCH_PORT_CTL.LOCK = true
  mode : t.on PCH_PORT_CTL.PORT_MODE = false
  running : t.clo.running = 0
  boots : t.clo.recovery = true

theorem recoveryIdentity_recovers (hs : Tbl.sorted s.regs = true) : Recovered s (recoveryIdentity s) := by
  let plain := s.wr PCH_PORT_CTL.PORT_MODE 0
  have hplain : Tbl.sorted plain.regs = true := wr_sorted hs
  have hregs : (recoveryIdentity s).regs = (plain.set1 PCH_PORT_CTL.LOCK).regs := by
    rw [recoveryIdentity, State.modPwr_regs, State.modClo_regs, State.modPorch_regs]
  have hmode : plain.on PCH_PORT_CTL.PORT_MODE = false := (on_wr_same hs (by decide)).trans (by decide)
  have hmask : Mask 1 s (plain.set1 PCH_PORT_CTL.LOCK) := set1_mask (sub_refl _) (wr_mask (sub_refl _) (mask_refl _ s))
  have hporch : (recoveryIdentity s).porch =
      { s.porch with fixed := true, recovery := true, idle := false, ident := { ssvid := 0x1E73, ssid := 0x06FF, msix := 1, qpairs := 0 } } := by
    rw [recoveryIdentity, State.modPwr_porch, State.modClo_porch, State.modPorch_porch]
    rw [hmask.2 .porch (by decide)]
  have hclo : (recoveryIdentity s).clo = { s.clo with recovery := true, running := 0 } := by
    rw [recoveryIdentity, State.modPwr_clo, State.modClo_clo, State.modPorch_clo]
    rw [hmask.2 .clo (by decide)]
  exact {
    fixed := by rw [hporch]
    recovery := by rw [hporch]
    ssid := by rw [hporch]
    pwr := by
      rw [recoveryIdentity, State.modPwr_pwr, State.modClo_pwr, State.modPorch_pwr]
      rw [hmask.2 .pwr (by decide)]
    lock := (on_of_regs hregs).trans (on_set1_same hplain (by decide) (by decide))
    mode := (on_of_regs hregs).trans (on_wr_bits hplain rfl rfl rfl hmode)
    running := by rw [hclo]
    boots := by rw [hclo] }

/-! ## The choice -/

/-- The choice under the settled count. -/
theorem execBootSlotChoice_eq {m : Nat} (hwait : s.pwr.bootWait = true) (hop : s.clo.op = none) (hpwr : s.pwr.pwrfail = false) (hrelease : s.pwr.releaseCount = false)
    (hsettle : settleSwap s = (s, m)) : exec .bootSlotChoice s = .next (bootWith (bootChoose 3) s m none (inForce s m)) := by
  show execBootSlotChoice s = _
  simp only [execBootSlotChoice, hwait, hop, hpwr, hrelease, hsettle, Bool.not_true, Option.isSome_none, Bool.or_self, Bool.false_eq_true, if_false]
  rfl

/-- With no slot rejected the choice begins with the active one. -/
theorem bootOrder_active {r : BootRec} (hrejected : r.rejected = 0) : ∃ rest, bootOrder r = (r.active, some r.activeDigest) :: rest := by
  have hnone (i : Nat) : bitAt 0 i = false := by simp [bitAt]
  simp only [bootOrder, hrejected, hnone, Bool.not_false, List.filter_true, List.foldl_cons, List.foldl_nil, List.any_nil, Bool.false_eq_true, if_false, List.nil_append]
  split
  · split
    · exact ⟨_, rfl⟩
    · exact ⟨_, rfl⟩
  · split
    · exact ⟨_, rfl⟩
    · exact ⟨_, rfl⟩

theorem find_bootOrder {r : BootRec} (hrejected : r.rejected = 0) (hactive : r.active ≠ 1) (hok : slotOk s r.active (some r.activeDigest) = true) :
    (bootOrder r).find? (fun e => slotOk s e.1 (if e.1 = 1 then none else e.2)) = some (r.active, some r.activeDigest) := by
  obtain ⟨rest, hrest⟩ := bootOrder_active hrejected
  rw [hrest, List.find?_cons_of_pos]
  rw [if_neg hactive]
  exact hok

/-- An image that is confirmed or has attempts left starts as the choice finds it; without one the recovery identity is taken. -/
theorem bootPick_boots (hinv : s.inv = true) {again : State → Nat → Option Nat → State} {n : Nat} {b : Bool} {r : BootRec} (hactive : r.active ≠ 1)
    (hmay : confirmed s b = true ∨ attempts s b ≠ 3) (o : Option (Nat × Option Nat)) :
    (bootPick again s n none b r o).porch.fixed = true ∧ (bootPick again s n none b r o).pwr.bootWait = false ∧
      (o = some (r.active, some r.activeDigest) → (bootPick again s n none b r o).clo.running = r.active ∧
        (bootPick again s n none b r o).clo.confirmSec = if confirmed s b then none else some 0) := by
  cases o with
  | none =>
    have h := recoveryIdentity_recovers (s := s) (regs_sorted hinv)
    exact ⟨h.fixed, by rw [show (bootPick again s n none b r none).pwr = _ from h.pwr], fun h => (nomatch h)⟩
  | some e =>
    obtain ⟨k, d⟩ := e
    by_cases hnew : (k = r.active && k ≠ 1 && !confirmed s b) = true
    · have hunconfirmed : confirmed s b = false := by
        simp only [Bool.and_eq_true, Bool.not_eq_true'] at hnew
        exact hnew.2
      have hmay : attempts s b ≠ 3 := hmay.resolve_left (by rw [hunconfirmed]; exact Bool.false_ne_true)
      have hkeeps : Keeps s.pending s := ⟨hinv, rfl⟩
      have hpick : bootPick again s n none b r (some (k, d)) = startSlot (addAttempt s b) k false := by
        simp only [bootPick, hnew, hmay, if_true, if_false, noteRevert]
      have h := startSlot_starts (s := addAttempt s b) (addAttempt_keeps hkeeps).1 k false
      rw [hpick]
      refine ⟨h.fixed, by rw [h.pwr], fun ho => ?_⟩
      cases ho
      rw [h.running, h.confirmSec, hunconfirmed]
      simp [hactive]
    · have hpick : bootPick again s n none b r (some (k, d)) = startSlot s k (confirmed s b || k ≠ r.active) := by
        simp only [bootPick, hnew, noteRevert]
        rfl
      have h := startSlot_starts hinv k (confirmed s b || k ≠ r.active)
      rw [hpick]
      refine ⟨h.fixed, by rw [h.pwr], fun ho => ?_⟩
      cases ho
      have hconfirmed : confirmed s b = true := by simpa [hactive] using hnew
      rw [h.running, h.confirmSec, hconfirmed]
      simp

/-! ## The confirmation -/

/-- The die reads the same. -/
structure SameDie (s u : State) : Prop where
  nor : u.clo.nor = s.clo.nor
  marginal : u.clo.marginal = s.clo.marginal
  byte : norByte u = norByte s

theorem SameDie.norFirm (h : SameDie s u) : norFirm u = norFirm s := by
  funext a
  rw [Machine.norFirm, h.marginal, h.byte, Machine.norFirm]

theorem SameDie.norFirmNat (h : SameDie s u) : norFirmNat u = norFirmNat s := by
  funext a n
  rw [Machine.norFirmNat, h.norFirm, Machine.norFirmNat]

theorem SameDie.readTwin (h : SameDie s u) (b : Bool) : readTwin u b = readTwin s b := by
  simp only [Machine.readTwin, h.norFirm, h.norFirmNat]

theorem SameDie.swapCount (h : SameDie s u) : swapCount u = swapCount s := by
  simp only [Machine.swapCount, swapCopy, h.norFirm, h.nor, h.marginal]

/-- The twins decide. The body of `inForce` is compared as a function: the kernel does not finish the comparison at a state. -/
theorem SameDie.inForce (h : SameDie s u) (n : Nat) : inForce u n = inForce s n := by
  have htwin : Machine.readTwin u = Machine.readTwin s := funext h.readTwin
  have hbody : ∀ F : State → Nat → Option (Bool × BootRec), F = Machine.inForce → F u n = F s n := by
    intro F hF
    delta Machine.inForce at hF
    subst hF
    beta_reduce
    rw [htwin]
  exact hbody Machine.inForce rfl

theorem SameDie.recNow (h : SameDie s u) : recNow u = recNow s := by
  rw [Machine.recNow, h.swapCount, h.inForce, Machine.recNow]

theorem recNow_confirming (s : State) : recNow (s.modClo fun c => { c with confirming := true }) = recNow s :=
  SameDie.recNow ⟨by rw [State.modClo_clo], by rw [State.modClo_clo], funext fun _ => norByte_congr (by rw [State.modClo_clo]) (by rw [State.modClo_clo])
    (by rw [State.modClo_clo]) (State.modClo_stg _ _) (State.modClo_atc _ _)⟩

/-- Settles O38. -/
theorem bootChoice : Obligations.BootChoice := by
  unfold Obligations.BootChoice
  intro s m t0 b r v hinv
  refine ⟨fun hwait hop hpwr hrelease hsettle => ⟨fun hnone => ?first, fun hforce hactive hrejected hmay => ?record⟩, fun hwait => ?noWait,
    fun hodd hsec hrunning hop hpwr hnow => ?confirm, fun heven => ?even, fun hsec hrun => ⟨fun hlate => ?late, fun hearly => ?early⟩, fun hdone hpwr => ?time⟩
  case first =>
    have hexec := execBootSlotChoice_eq hwait hop hpwr hrelease hsettle
    rw [hnone] at hexec
    cases hok : slotOk s 1 none
    · have hboot : bootWith (bootChoose 3) s m none none = recoveryIdentity s := by simp only [bootWith, hok, Bool.false_eq_true, if_false]
      rw [hboot] at hexec
      have h := recoveryIdentity_recovers (s := s) (regs_sorted hinv)
      exact ⟨_, hexec, only_of_exec hexec, h.fixed, h.pwr, h.lock, h.recovery, h.ssid, h.running, h.boots, h.mode⟩
    · have hboot : bootWith (bootChoose 3) s m none none = startSlot s 1 true := by simp only [bootWith, hok, if_true, noteRevert]
      rw [hboot] at hexec
      have h := startSlot_starts hinv 1 true
      exact ⟨_, hexec, only_of_exec hexec, h.fixed, h.pwr, h.lock, h.running, h.confirmSec, h.recovery, h.ident, h.done, h.wpLock, h.pc, h.state, h.geo⟩
  case record =>
    have hexec := execBootSlotChoice_eq hwait hop hpwr hrelease hsettle
    rw [hforce, bootWith] at hexec
    obtain ⟨hfixed, hpwr, hstarts⟩ := bootPick_boots hinv (again := bootChoose 3) (n := m) hactive hmay
      ((bootOrder r).find? fun e => slotOk s e.1 (if e.1 = 1 then none else e.2))
    exact ⟨_, hexec, only_of_exec hexec, hfixed, hpwr, fun hok => hstarts (find_bootOrder hrejected hactive hok)⟩
  case noWait =>
    show execBootSlotChoice s = _
    simp [execBootSlotChoice, hwait]
  case confirm =>
    have hexec : exec (.stdConfirm v) s = .next ((s.modClo fun c => { c with confirming := true }).modClo fun c =>
        { c with op := some { req := 3, kind := 1, addr := twinBase b + 0x200, page := [0, 0, 0, 0] } }) := by
      have hnow' := (recNow_confirming s).trans hnow
      refine congrArg Host.Outcome.next ?_
      simp [hodd, imageConfirmed, hsec, hrunning, startConfirm, hop, hpwr, hnow']
    exact ⟨_, hexec, only_of_mask (m := 32) (modClo_mask (sub_refl _) (modClo_mask (sub_refl _) (mask_refl _ s))) (by decide), rfl⟩
  case even =>
    refine congrArg Host.Outcome.next ?_
    rw [heven]
    simp
  case late =>
    refine congrArg Host.Outcome.next ?_
    simp [hsec, hrun, hlate]
  case early =>
    refine congrArg Host.Outcome.next ?_
    simp [hsec, hrun, Nat.not_le.2 hearly]
  case time =>
    have hexec : exec .operatingTimeRecord s = .next (confAppend (confAppend s 0x07 [s.pwr.opSec]) 0x08 [timestampNow s]) := by
      refine congrArg Host.Outcome.next ?_
      simp [hdone, hpwr]
    refine ⟨_, hexec, only_of_mask (m := 32) (confAppend_mask (sub_refl _) (confAppend_mask (sub_refl _) (mask_refl _ s))) (by decide), ?_, ?_, rfl⟩
    · exact (Tbl.find_put_other _ _ (by decide)).trans (Tbl.find_put_same _ _ _)
    · exact Tbl.find_put_same _ _ _

end Sys2Proof.Machine
end

section
/-!
PROOF. The Larder (R219, R223, R228 to R244).
-/
namespace Sys2Proof.Machine

variable {s t u : State}

/-! ## Write-through mode stays while fronts close -/

theorem wt_of_mask {μ : Nat} (h : Mask μ s t) (hm : μ.testBit 11 = false) : t.ldr.wt = s.ldr.wt := congrArg Larder.wt (h.2 .ldr hm)

theorem wt_foldl {α : Type} {w : Bool} {f : State → α → State} (hf : ∀ s a, s.ldr.wt = w → (f s a).ldr.wt = w) (l : List α) (h : s.ldr.wt = w) :
    (l.foldl f s).ldr.wt = w := foldl_holds (P := fun s : State => s.ldr.wt = w) hf l h

theorem wt_ite {w : Bool} {c : Prop} [Decidable c] (hu : u.ldr.wt = w) (ht : t.ldr.wt = w) : (if c then u else t).ldr.wt = w := by
  split
  · exact hu
  · exact ht

theorem wt_ite_fst {α : Type} {w : Bool} {c : Prop} [Decidable c] {p q : State × α} (hp : p.1.ldr.wt = w) (hq : q.1.ldr.wt = w) :
    (if c then p else q).1.ldr.wt = w := by
  split
  · exact hp
  · exact hq

section
variable {w : Bool} (h : s.ldr.wt = w)
include h

theorem wt_modFront (f : Nat) (g : Front → Front) : (s.modFront f g).ldr.wt = w := h

theorem wt_modSuite (k : Nat) (f : Suite → Suite) : (s.modSuite k f).ldr.wt = w := h

theorem wt_modNvm (f : Nvm → Nvm) : (s.modNvm f).ldr.wt = w := h

theorem wt_sent (l : List (Nat × Nat)) (row : Nat) :
    (s.each l fun s p => modSlot s p.2 fun y => { y with sent := true, row := row, pos := p.1 }).ldr.wt = w :=
  wt_foldl (f := fun s (p : Nat × Nat) => modSlot s p.2 fun y => { y with sent := true, row := row, pos := p.1 }) (fun _ _ h => h) l h

theorem wt_takeSlot (x : Slot) : (takeSlot s x).1.ldr.wt = w := by
  rw [takeSlot]
  split
  · exact h
  · exact h

theorem wt_takeSlots (n : Nat) (f : Nat → Slot) : (takeSlots s n f).1.ldr.wt = w := by
  refine foldl_holds (P := fun a : State × List Nat => a.1.ldr.wt = w) (fun a i ha => ?_) _ h
  have htake := wt_takeSlot ha (f i)
  split
  next s' k heq =>
    rw [heq] at htake
    exact htake
  next s' heq =>
    rw [heq] at htake
    exact htake

theorem wt_xorInto (acc slots : List Nat) : (xorInto s acc slots).ldr.wt = w := by
  refine wt_foldl (fun s p hs => ?_) _ h
  split
  · exact hs
  · exact hs

theorem wt_programOp (k row m cell : Nat) (slots : List Nat) (cls bg unit : Nat) (by_ : Issuer) :
    (programOp s k row m cell slots cls bg unit by_).ldr.wt = w := (wt_of_mask (programOp_mask (sub_refl _) (mask_refl _ s)) (by decide)).trans h

theorem wt_openSuite (k cell stream handle : Nat) : (openSuite s k cell stream handle).ldr.wt = w :=
  (wt_of_mask (openSuite_mask (sub_refl _) (mask_refl _ s)) (by decide)).trans h

theorem wt_closedSuite (k : Nat) : (closedSuite s k).ldr.wt = w := (wt_of_mask (closedSuite_mask (sub_refl _) (mask_refl _ s)) (by decide)).trans h

theorem wt_fdpNote (typ handle suite : Nat) : (fdpNote s typ handle suite).ldr.wt = w :=
  (wt_of_mask (fdpNote_mask (sub_refl _) (mask_refl _ s)) (by decide)).trans h

theorem wt_bindSuite (f : Nat) : (bindSuite s f).ldr.wt = w := by
  unfold bindSuite
  refine wt_ite h ?_
  split
  · exact h
  · exact wt_modFront (wt_openSuite h _ _ _ _) _ _

theorem wt_releaseFront (f : Nat) : (releaseFront s f).ldr.wt = w := by
  unfold releaseFront
  dsimp only
  split
  · exact h
  · have hfront := wt_modFront h f
    refine wt_ite (wt_ite (wt_ite (hfront _) ?_) (wt_fdpNote (wt_ite (hfront _) ?_) _ _ _))
      (wt_closedSuite (wt_ite (wt_ite (hfront _) ?_) (wt_fdpNote (wt_ite (hfront _) ?_) _ _ _)) _)
    all_goals exact wt_modSuite (hfront _) _ _

theorem wt_sendWordline (f : Nat) (fill_ : Bool) : (sendWordline s f fill_).1.ldr.wt = w := by
  have hbound := wt_bindSuite h f
  unfold sendWordline
  dsimp only
  split
  next k m left _ _ =>
    have hwait := wt_modFront hbound f
    refine wt_ite_fst hbound (wt_ite_fst (hwait _) (wt_ite_fst (hwait _) (wt_ite_fst ?_ ?_)))
    · split
      · exact wt_releaseFront (hwait _) _
      · exact hwait _
    · generalize htaken : (if ((bindSuite s f).front f).rowOpen = true then ((bindSuite s f), []) else _) = taken
      have hacc : taken.1.ldr.wt = w := by
        rw [← htaken]
        exact wt_ite_fst hbound (wt_takeSlots hbound _ _)
      obtain ⟨s1, acc⟩ := taken
      dsimp only at hacc ⊢
      generalize hpads : takeSlots _ _ _ = padded
      have hpad : padded.1.ldr.wt = w := by
        rw [← hpads]
        exact wt_takeSlots (wt_ite hacc (wt_modFront hacc _ _)) _ _
      obtain ⟨s2, pads⟩ := padded
      refine wt_ite (wt_releaseFront ?_ f) ?_
      all_goals
        exact wt_programOp (wt_modFront (wt_modNvm (wt_modSuite (wt_modFront (wt_sent (wt_xorInto hpad _ _) _ _) _ _) _ _) _) _ _) _ _ _ _ _ _ _ _ _
  next => exact hbound

theorem wt_pumpFront (fuel f : Nat) : (pumpFront fuel s f).ldr.wt = w := by
  induction fuel generalizing s with
  | zero => exact h
  | succ fuel ih =>
    have hsend := wt_sendWordline h f (s.front f).sealing
    rw [pumpFront]
    split
    next s' heq =>
      rw [heq] at hsend
      exact ih hsend
    next s' heq =>
      rw [heq] at hsend
      have hsealed := wt_ite (c := ((s'.front f).sealing && (s'.front f).buf.isEmpty) = true) (wt_modFront hsend f fun x => { x with sealing := false }) hsend
      exact wt_ite (wt_releaseFront hsealed f) hsealed

theorem wt_closeHostFronts (ns : Option Nat) : (closeHostFronts s ns).ldr.wt = w :=
  wt_foldl (fun _ e hs => wt_ite (wt_pumpFront (wt_modFront hs _ _) 128 e.1) hs) _ h

end

/-- The check of write-through mode sets it as the mode is (R223). -/
theorem wt_wtCheck (s : State) : (wtCheck s).ldr.wt = wtMode s := by
  unfold wtCheck
  dsimp only
  split
  next hbegins =>
    obtain ⟨hmode, -⟩ := Bool.and_eq_true_iff.1 hbegins
    rw [hmode]
    exact (wt_of_mask (closeBatch_mask (sub_refl _) (mask_refl _ _)) (by decide)).trans (wt_closeHostFronts (s := s.modLdr fun l => { l with wt := true, settling := completedUnsettled s }) rfl none)
  next => rfl

/-- Where the mode is on already the check only notes it. -/
theorem wtCheck_of_wt (h : s.ldr.wt = true) : wtCheck s = s.modLdr fun l => { l with wt := wtMode s } := by
  simp [wtCheck, h]

theorem wtMode_modLdr (s : State) (f : Larder → Larder) : wtMode (s.modLdr f) = wtMode s := (rfl)

/-- A one-bit control takes its value. -/
theorem on_written (hs : Tbl.sorted s.regs = true) {f : Fld} (hf : f.lsb + f.width ≤ 64) (hw : f.width ≠ 0) (v : Bool) : (s.wr f (b2n v)).on f = v := by
  have hone : 1 % 2 ^ f.width = 1 := Nat.mod_eq_of_lt (Nat.one_lt_two_pow hw)
  rw [on_wr_same hs hf]
  cases v
  · rfl
  · rw [b2n, if_pos rfl, hone]
    rfl

/-- A control of the mode, where it is on. -/
theorem mode_written (hinv : s.inv = true) (hwt : s.ldr.wt = true) {f : Fld} (hf : f.lsb + f.width ≤ 64) (hw : f.width ≠ 0) (v : Bool) {i : Instr}
    (hexec : exec i s = .next (wtCheck (s.wr f (b2n v)))) :
    ∃ t, exec i s = .next t ∧ Only [.regs, .ldr] s t ∧ t.on f = v ∧ RegsBut s t [f] ∧ t.ldr.wt = wtMode t := by
  have hwritten : (s.wr f (b2n v)).ldr = s.ldr := (wr_mask (sub_refl _) (mask_refl _ s)).2 .ldr (by decide)
  rw [wtCheck_of_wt (by rw [hwritten, hwt])] at hexec
  refine ⟨_, hexec, only_of_mask (m := 1 + 2048) (modLdr_mask (by decide) (wr_mask (by decide) (mask_refl _ s))) (by decide),
    (on_of_regs (State.modLdr_regs _ _)).trans (on_written (regs_sorted hinv) hf hw v), (regsBut_wr (regs_sorted hinv) hf (List.mem_singleton.2 rfl)).of_regs (State.modLdr_regs _ _), ?_⟩
  rw [wtMode_modLdr, State.modLdr_ldr]

/-! ## Slots, inhibits and banks -/

/-- A record of an event, in an Attic with room. -/
theorem noted {sev : Nat} (hsev : 2 < sev) (s : State) (code src origin p0 p1 p2 : Nat) : ∃ r, (post s code sev src origin p0 p1 p2).atc.ring.getLast? = some r ∧
    r.code = code ∧ r.p0 = p0 % 2 ^ 32 ∧ r.p1 = p1 % 2 ^ 32 ∧ r.seq = s.atc.nextSeq := by
  rw [post_of_sev hsev]
  exact ⟨_, getLast?_ring_appendRec _ _, rfl, rfl, rfl, rfl⟩

/-- The number of banks named is the number counted. -/
theorem length_banks (w : Nat) : ((List.range 64).filter fun b => bitAt w b).length = (List.range 64).countP fun i => bitAt w i := (List.countP_eq_length_filter).symm

/-- An uncorrectable slot is poisoned; what follows changes fronts alone. -/
theorem poisoned_slot (hinv : s.inv = true) {k : Nat} {x : Slot} (hslot : Tbl.find s.ldr.slots k = some x)
    (hu : Mask 2048 ((modSlot s k fun x => { x with poison := true }).set1 LDR_STATUS.POISON_SEEN) u)
    (hslots : u.ldr.slots = ((modSlot s k fun x => { x with poison := true }).set1 LDR_STATUS.POISON_SEEN).ldr.slots) :
    Only [.regs, .ldr] s u ∧ Tbl.find u.ldr.slots k = some { x with poison := true } ∧ u.on LDR_STATUS.POISON_SEEN = true ∧
      RegsBut s u [LDR_STATUS.POISON_SEEN] ∧ ∀ j, j ≠ k → Tbl.find u.ldr.slots j = Tbl.find s.ldr.slots j := by
  let poisoned := modSlot s k fun x => { x with poison := true }
  have hsorted : Tbl.sorted poisoned.regs = true := regs_sorted (s := s) hinv
  have hregs : u.regs = (poisoned.set1 LDR_STATUS.POISON_SEEN).regs := hu.2 .regs (by decide)
  have hbut : RegsBut s poisoned [LDR_STATUS.POISON_SEEN] := regsBut_of_regs (State.modLdr_regs _ _)
  have hupd : u.ldr.slots = Tbl.upd s.ldr.slots k fun x => { x with poison := true } := hslots
  refine ⟨only_of_mask (m := 1 + 2048) (mask_trans (set1_mask (by decide) (modSlot_mask (by decide) (mask_refl _ s))) (mask_mono (by decide) hu)) (by decide),
    ?_, (on_of_regs hregs).trans (on_set1_same hsorted (by decide) (by decide)), ?_, fun j hj => ?_⟩
  · rw [hupd, Tbl.find_upd_same, hslot]
    rfl
  · exact (hbut.wr hsorted (by decide) (List.mem_singleton.2 rfl)).of_regs hregs
  · rw [hupd, Tbl.find_upd_other _ _ hj]

/-- A front in which the rows that hold slot `k` have lost their parity (R232). -/
def parityLost (k : Nat) (y : Front) : Front := { y with rows := y.rows.map fun r => if r.acc.contains k then { r with lost := true } else r }

theorem lost_of_mem_parityLost {k : Nat} {y : Front} {r : PRow} (hr : r ∈ (parityLost k y).rows) (hk : k ∈ r.acc) : r.lost = true := by
  obtain ⟨q, -, rfl⟩ := List.mem_map.1 hr
  by_cases hq : q.acc.contains k = true
  · rw [if_pos hq]
  · rw [if_neg hq] at hk
    exact absurd (List.contains_iff_mem.2 hk) hq

theorem front_modFront (s : State) (f : Nat) (g : Front → Front) : (s.modFront f g).front f = g (s.front f) := by
  rw [State.front, State.modFront, State.modLdr_ldr, Tbl.find_put_same]
  rfl

/-- The drain of a Larder without fronts ends at once where it holds nothing. -/
theorem drainCheck_begun (hinv : s.inv = true) : Only [.regs] s (drainCheck (s.set1 LDR_CTL.DRAIN)) ∧
    (drainCheck (s.set1 LDR_CTL.DRAIN)).on LDR_CTL.DRAIN = !larderEmpty s ∧ RegsBut s (drainCheck (s.set1 LDR_CTL.DRAIN)) [LDR_CTL.DRAIN] := by
  have hsorted := regs_sorted hinv
  have hon : (s.set1 LDR_CTL.DRAIN).on LDR_CTL.DRAIN = true := on_set1_same hsorted (by decide) (by decide)
  have hempty : larderEmpty (s.set1 LDR_CTL.DRAIN) = larderEmpty s := by
    rw [larderEmpty, (set1_mask (sub_refl _) (mask_refl _ s)).2 .ldr (by decide), larderEmpty]
  have hset : Mask 1 s (s.set1 LDR_CTL.DRAIN) := set1_mask (sub_refl _) (mask_refl _ s)
  have hbut := regsBut_set1 (f := LDR_CTL.DRAIN) hsorted (by decide)
  rw [drainCheck, hon, hempty, Bool.true_and]
  cases larderEmpty s
  · exact ⟨only_of_mask hset (by decide), hon, hbut⟩
  · exact ⟨only_of_mask (clr1_mask (sub_refl _) hset) (by decide), (on_wr_same (set1_sorted hsorted) (by decide)).trans (by decide),
      hbut.wr (set1_sorted hsorted) (by decide) (List.mem_singleton.2 rfl)⟩

/-- Settles O42. -/
theorem larder : Obligations.Larder := by
  unfold Obligations.Larder
  intro s k g n d row key f m v w x b hinv
  refine ⟨fun hslot => ⟨fun hfree hparity hpad hstream => ?slot, fun hparity => ?parity, fun hparity => ?notSlot, fun hparity => ?notParity⟩,
    fun hg hnew => ?droop, fun hdroop hfronts => ?clears, fun hrow hroom hrowLt hnLt => ⟨fun hnew => ?long, fun hold => ?noted⟩,
    fun hhot hfronts => ?hot, ?holdup, fun hwt => ⟨?force, ?arm⟩, ?enable, fun hfronts => ?drain, fun hfew => ?retires, fun hmany => ?limit,
    fun hfind => ⟨fun hneed hm => ?rebuilt, fun hneed => ?waits⟩⟩
  case slot =>
    let poisoned := (modSlot s k fun x => { x with poison := true }).set1 LDR_STATUS.POISON_SEEN
    have hexec : exec (.larderSlotUe k) s = .next (if x.sent then poisoned else poisoned.modFront x.front fun y => { y with buf := y.buf.erase k }) := by
      refine congrArg Host.Outcome.next ?_
      simp [hslot, slotUe, hparity, hpad, hfree, hstream]
      rfl
    obtain ⟨honly, hfind, hon, hbut, hothers⟩ := poisoned_slot hinv hslot
      (u := if x.sent then poisoned else poisoned.modFront x.front fun y => { y with buf := y.buf.erase k })
      (ite_mask (mask_refl _ _) (modFront_mask (sub_refl _) (mask_refl _ _))) (by split <;> rfl)
    exact ⟨_, hexec, honly, hfind, hon, hbut, hothers⟩
  case parity =>
    let marked := s.set1 LDR_STATUS.POISON_SEEN
    have hany : ((Tbl.find s.ldr.slots k).any fun x => x.st == 5) = true := by simp [hslot, hparity]
    have hexec : exec (.paritySlotUe k) s = .next (marked.modFront x.front (parityLost k)) := by
      refine congrArg Host.Outcome.next ?_
      rw [if_pos hany, slotUe]
      simp only [hslot, hparity, if_true]
      rfl
    have hregs : (marked.modFront x.front (parityLost k)).regs = marked.regs := State.modLdr_regs _ _
    refine ⟨_, hexec, only_of_mask (m := 1 + 2048) (modFront_mask (by decide) (set1_mask (by decide) (mask_refl _ s))) (by decide), rfl,
      (on_of_regs hregs).trans (on_set1_same (regs_sorted hinv) (by decide) (by decide)), fun r hr hk => ?_,
      (regsBut_wr (regs_sorted hinv) (by decide) (List.mem_singleton.2 rfl)).of_regs hregs⟩
    rw [front_modFront] at hr
    exact lost_of_mem_parityLost hr hk
  case notSlot =>
    refine congrArg Host.Outcome.next ?_
    simp [hslot, hparity]
  case notParity =>
    refine congrArg Host.Outcome.next ?_
    simp [hslot, hparity]
  case droop =>
    refine congrArg Host.Outcome.next ?_
    simp [hg, hnew]
  case clears =>
    refine congrArg Host.Outcome.next ?_
    have hmem : s.ldr.droop.contains g = true := List.contains_iff_mem.2 hdroop
    rw [if_pos hmem, pumpAll, State.modLdr_ldr, hfronts]
    rfl
  case long =>
    have hexec : exec (.inhibitLongExpiry n d) s = .next (post (s.modLdr fun l => { l with inhibitNoted := key :: l.inhibitNoted }) 0x0050 3 3 0xFF row n d) := by
      show execInhibitLongExpiry n d s = _
      simp [execInhibitLongExpiry, hrow, hnew]
    have hmask : Mask (8 + 2048) s (post (s.modLdr fun l => { l with inhibitNoted := key :: l.inhibitNoted }) 0x0050 3 3 0xFF row n d) :=
      post_mask (by decide) (modLdr_mask (by decide) (mask_refl _ s))
    obtain ⟨r, hr, hcode, hp0, hp1, hseq⟩ := noted (sev := 3) (by decide) (s.modLdr fun l => { l with inhibitNoted := key :: l.inhibitNoted }) 0x0050 3 0xFF row n d
    have hldr := (post_mask (code := 0x0050) (sev := 3) (src := 3) (origin := 0xFF) (p0 := row) (p1 := n) (p2 := d) (p3 := 0) (sub_refl _)
      (mask_refl _ (s.modLdr fun l => { l with inhibitNoted := key :: l.inhibitNoted }))).2 .ldr (by decide)
    refine ⟨_, r, hexec, only_of_mask hmask (by decide), ?_, hr, hcode, hp0.trans (Nat.mod_eq_of_lt hrowLt), hp1.trans (Nat.mod_eq_of_lt hnLt), hseq⟩
    rw [hldr]
    exact List.mem_cons_self
  case noted =>
    show execInhibitLongExpiry n d s = _
    simp [execInhibitLongExpiry, hrow, hold]
  case hot =>
    have hexec : exec (.tempInhibitSuiteExpiry n d) s = .next (s.modLdr fun y => { y with excluded := mark y.excluded true (16 * n + d) }) := by
      show execTempInhibitSuiteExpiry n d s = _
      simp only [execTempInhibitSuiteExpiry, hhot, Bool.not_true, Bool.false_eq_true, if_false, hfronts]
      rfl
    refine ⟨_, hexec, only_of_mask (modLdr_mask (sub_refl _) (mask_refl _ s)) (by decide), ?_, rfl⟩
    show 16 * n + d ∈ mark s.ldr.excluded true (16 * n + d)
    rw [mark, if_pos rfl]
    split
    next hmem => exact List.contains_iff_mem.1 hmem
    next => exact List.mem_cons_self
  case holdup =>
    let changed := s.modPwr fun p => { p with holdupOk := v }
    have hchanged : Mask 2137858 s changed := modPwr_mask (by decide) (mask_refl _ s)
    by_cases hruns : (running s && !s.pwr.frozen) = true
    · have hexec : exec (.holdupOkChange v) s = .next (wtCheck changed) := congrArg Host.Outcome.next (if_pos hruns)
      have hpwr : (wtCheck changed).pwr = changed.pwr := (wtCheck_mask (sub_refl _) (mask_refl _ changed)).2 .pwr (by decide)
      exact ⟨_, hexec, only_of_mask (wtCheck_mask (by decide) hchanged) (by decide), hpwr, fun _ _ => wt_wtCheck changed⟩
    · have hexec : exec (.holdupOkChange v) s = .next changed := congrArg Host.Outcome.next (if_neg hruns)
      refine ⟨_, hexec, only_of_mask hchanged (by decide), rfl, fun hrunning hfrozen => absurd ?_ hruns⟩
      rw [hrunning, hfrozen]
      rfl
  case force => exact mode_written hinv hwt (by decide) (by decide) v rfl
  case arm => exact mode_written hinv hwt (by decide) (by decide) v rfl
  case enable =>
    exact ⟨_, rfl, only_of_mask (m := 1) (wr_mask (sub_refl _) (mask_refl _ s)) (by decide), on_written (regs_sorted hinv) (by decide) (by decide) v,
      regsBut_wr (regs_sorted hinv) (by decide) (List.mem_singleton.2 rfl)⟩
  case drain =>
    obtain ⟨honly, hon, hbut⟩ := drainCheck_begun hinv
    have hexec : exec .larderDrain s = .next (drainCheck (s.set1 LDR_CTL.DRAIN)) := by
      refine congrArg Host.Outcome.next ?_
      have hkeys : Tbl.keys (s.set1 LDR_CTL.DRAIN).ldr.fronts = [] := by
        rw [(set1_mask (sub_refl _) (mask_refl _ s)).2 .ldr (by decide), hfronts]
        rfl
      rw [larderDrain, hkeys]
      rfl
    exact ⟨_, hexec, honly, hon, hbut⟩
  case retires =>
    have hexec : exec (.ldrBankRetire w) s = .next (s.wr LDR_BANK_RETIRE.BANKS (s.rd LDR_BANK_RETIRE.BANKS ||| w.toNat)) := by
      show execLdrBankRetire w s = _
      simp only [execLdrBankRetire, length_banks]
      rw [if_neg (Nat.not_lt.2 hfew)]
    have hbits : s.rd LDR_BANK_RETIRE.BANKS ||| w.toNat < 2 ^ 64 := Nat.or_lt_two_pow (rd_lt s _) w.isLt
    exact ⟨_, hexec, only_of_mask (m := 1) (wr_mask (sub_refl _) (mask_refl _ s)) (by decide),
      (State.rd_wr_same s _ _ (regs_sorted hinv) (by decide)).trans (Nat.mod_eq_of_lt hbits), regsBut_wr (regs_sorted hinv) (by decide) (List.mem_singleton.2 rfl)⟩
  case limit =>
    let fresh := ((List.range 64).filter fun b => bitAt (s.rd LDR_BANK_RETIRE.BANKS ||| w.toNat) b).filter fun b => !bankRetired s b
    have hexec : exec (.ldrBankRetire w) s =
        .next (post (s.set1 LDR_STATUS.RETIRE_LIMIT) 0x0051 4 3 0xFF ((fresh[8 - banksRetired s]?).getD 0)) := by
      show execLdrBankRetire w s = _
      simp only [execLdrBankRetire, length_banks]
      rw [if_pos hmany]
    obtain ⟨r, hr, hcode, -⟩ := noted (sev := 4) (by decide) (s.set1 LDR_STATUS.RETIRE_LIMIT) 0x0051 3 0xFF ((fresh[8 - banksRetired s]?).getD 0) 0 0
    have hregs := (post_mask (code := 0x0051) (sev := 4) (src := 3) (origin := 0xFF) (p0 := (fresh[8 - banksRetired s]?).getD 0) (p1 := 0) (p2 := 0) (p3 := 0)
      (sub_refl _) (mask_refl _ (s.set1 LDR_STATUS.RETIRE_LIMIT))).2 .regs (by decide)
    exact ⟨_, r, hexec, only_of_mask (m := 1 + 8) (post_mask (by decide) (set1_mask (by decide) (mask_refl _ s))) (by decide),
      (on_of_regs hregs).trans (on_set1_same (regs_sorted hinv) (by decide) (by decide)), (regsBut_set1 (regs_sorted hinv) (by decide)).of_regs hregs, hr, hcode⟩
  case rebuilt =>
    refine congrArg Host.Outcome.next ?_
    subst hm
    have hok : decide (b.failed = 0) = (b.failed == 0) := rfl
    simp only [rebuildComplete, hfind, hneed, List.isEmpty_nil, Bool.not_true, Bool.false_eq_true, if_false, if_true, hok]
  case waits =>
    refine congrArg Host.Outcome.next ?_
    have hleft : b.need.isEmpty = false := by simpa using hneed
    simp only [rebuildComplete, hfind, hleft, Bool.not_false, if_true]

end Sys2Proof.Machine
end

section
/-!
PROOF. Decoding (Table 9-6): what a verify read reports, which soft job starts next, what a failed soft decode leaves for the ladder, and
how a stripe recovery ends.
-/
namespace Sys2Proof.Machine

variable {s : State} {n i cw : Nat} {h : DescHw}

/-! ## Verify reads (R356) -/

/-- A descriptor's hardware state is changed and its sequencer told of it. -/
def tellDesc (s : State) (n i : Nat) (f : DescHw → DescHw) (e : U64) : State :=
  raise (s.modSeq n fun q => { q with descs := Tbl.upd q.descs i f }) n e

theorem onlySeq_tellDesc (s : State) (n i : Nat) (f : DescHw → DescHw) (e : U64) : OnlySeq s (tellDesc s n i f e) n :=
  onlySeq_trans onlySeq_modSeq (onlySeq_raise e)

theorem seq_tellDesc (hs : Tbl.sorted s.seqs = true) (f : DescHw → DescHw) (e : U64) (hwait : (s.seq n).wait = none) (hheld : (s.seq n).held = [])
    (hroom : (s.seq n).evq.length < 64) :
    (tellDesc s n i f e).seq n = { s.seq n with descs := Tbl.upd (s.seq n).descs i f, evq := (s.seq n).evq ++ [e] } := by
  have hmod : (s.modSeq n fun q => { q with descs := Tbl.upd q.descs i f }).seq n = { s.seq n with descs := Tbl.upd (s.seq n).descs i f } := seq_modSeq_same hs
  rw [tellDesc, seq_raise_of_room (modSeq_sorted hs) e (by rw [hmod]; exact hwait) (by rw [hmod]; exact hheld) (by rw [hmod]; exact hroom), hmod]

/-- Whether the codeword equals its slot and decodes within VERIFY_BITS. -/
def verifies (s : State) (y : Slot) (ok : Bool) (ones zeros : Nat) (data : Blk) (md : Meta) : Bool :=
  ok && decide (ones + zeros ≤ s.rd LND_POLICY.VERIFY_BITS) && (y.data == data && y.md == md)

/-- A verify read of one codeword passes where its data verifies, and fails otherwise; either way its sequencer hears of it. -/
theorem hardDecodeDone_verify {slot : Nat} {y : Slot} (hd : Tbl.find (s.seq n).descs i = some h) (hended : h.ended = false) (hkind : h.op.kind = 2)
    (hcount : h.op.cwCount = 1) (hdone : h.cwDone = 0) (hxfer : h.xferDone = false) (hslots : h.op.slots = [slot]) (hy : Tbl.find s.ldr.slots slot = some y)
    (ok : Bool) (ones zeros weight : Nat) (data : Blk) (md : Meta) :
    exec (.hardDecodeDone n i 0 ok ones zeros weight data md none) s = .next (if verifies s y ok ones zeros data md
      then tellDesc s n i (fun h => { h with cwDone := h.cwDone + 1, verifyPass := decide (h.cwDone < h.op.cwCount) }) (evWord 0x0C 1 i)
      else tellDesc s n i (fun h => { h with cwDone := h.op.cwCount }) (evWord 0x0C 2 i)) := by
  have hslot : (h.op.slots[0]?).bind (fun k => Tbl.find s.ldr.slots k) = some y := by rw [hslots]; exact hy
  have hgo : ¬ ((h.ended || decide (h.op.cwCount ≤ 0) || h.xferDone) = true) := by simp [hended, hcount, hxfer]
  have hlast : ¬ h.cwDone + 1 < h.op.cwCount := by omega
  show execHardDecodeDone n i 0 ok ones zeros weight data md none s = _
  simp only [execHardDecodeDone, hd, if_neg hgo, if_pos hkind, hslot, if_neg hlast]
  by_cases hv : verifies s y ok ones zeros data md = true
  · rw [if_pos hv]
    exact if_neg (by rw [verifies] at hv; simp [hv])
  · rw [if_neg hv]
    exact if_pos (by rw [verifies] at hv; simp [Bool.eq_false_of_not_eq_true hv])

/-! ## Soft jobs (R336) -/

variable {a b : SoftJob}

/-- Nothing of a port runs while neither of the two jobs does. -/
theorem portJobs_of_waiting (hjobs : s.lnd.jobs = [a, b]) (ha : a.running = false) (hb : b.running = false) (p : Nat) : portJobs s p = 0 := by
  simp [portJobs, hjobs, ha, hb]

/-- The oldest job of a class that waits. -/
def waitingJob (l : List SoftJob) (cls : Nat) : Option SoftJob := l.find? fun j => !j.running && j.cls == cls

/-- Whether a job of the two waits in class `cls` with its port below its limit. -/
theorem nextJob_of_two (hjobs : s.lnd.jobs = [a, b]) (ha : a.running = false) (hb : b.running = false) :
    nextJob s = ((waitingJob [a, b] 0).or (waitingJob [a, b] 1)).or (waitingJob [a, b] 2) := by
  have hlimit : ∀ p : Nat, decide (portJobs s p < max 1 (s.rd LND_POLICY.PORT_JOBS)) = true := fun p => by
    rw [portJobs_of_waiting hjobs ha hb]
    exact decide_eq_true (Nat.lt_of_lt_of_le Nat.zero_lt_one (Nat.le_max_left _ _))
  simp only [nextJob, hjobs, hlimit, Bool.and_true, waitingJob]
  cases [a, b].find? fun j => !j.running && j.cls == 0 with
  | some j => rfl
  | none => cases [a, b].find? fun j => !j.running && j.cls == 1 with
    | some j => rfl
    | none => rfl

/-- The job that is next takes a credit and runs. -/
theorem softJobAdmit_next {j : SoftJob} (hcredit : s.lnd.credit ≠ 0) (hroom : s.lnd.jobs.countP (fun j => j.running) < 16 - s.atc.badSoft.length)
    (hnext : nextJob s = some j) : exec .softJobAdmit s = .next (s.modLnd fun l =>
      { l with credit := l.credit - 1, jobs := l.jobs.map fun x => if x == j then { x with running := true } else x }) := by
  have hgo : ¬ ((decide (s.lnd.credit = 0) || decide (16 - s.atc.badSoft.length ≤ s.lnd.jobs.countP fun j => j.running)) = true) := by
    simp [hcredit]
    omega
  show execSoftJobAdmit s = _
  simp only [execSoftJobAdmit, if_neg hgo, hnext]

/-! ## The climb of a descriptor (R344) -/

theorem climb_modClimb (f : Climb → Climb) : (modClimb s n i f).climb n i = f (s.climb n i) := Tbl.getD_setD_same _ _ _ _

/-- A codeword without a result is left: the step goes on. -/
theorem stepOver_of_waiting {cw2 : Nat} {x : ClimbCw} (hx : Tbl.find (s.climb n i).cws cw2 = some x) (hfail : x.failed = false) : stepOver s n i = false := by
  have hall : (s.climb n i).cws.all (fun e => e.2.failed) = false :=
    List.all_eq_false.2 ⟨(cw2, x), Tbl.mem_of_find hx, by simp [hfail]⟩
  rw [stepOver]
  cases Tbl.find (s.seq n).descs i with
  | none => rfl
  | some h =>
    dsimp only
    rw [hall]
    rfl

/-- The climb with the result of a failed codeword. -/
def withFailure (c : Climb) (cw : Nat) (found : Option (Nat × Nat × Nat)) : Climb :=
  { c with cws := Tbl.put c.cws cw { (Tbl.getD c.cws cw {}) with failed := true, found := found } }

/-- While another codeword waits, a failed one only leaves its result. -/
theorem cwFailed_of_waiting {cw2 : Nat} (hne : cw2 ≠ cw) (hwait : Tbl.find (s.climb n i).cws cw2 = some {}) (found : Option (Nat × Nat × Nat)) :
    cwFailed s n i cw found = modClimb s n i fun c => withFailure c cw found := by
  have hother : Tbl.find ((modClimb s n i fun c => withFailure c cw found).climb n i).cws cw2 = some {} := by
    rw [climb_modClimb]
    exact (Tbl.find_put_other _ _ hne).trans hwait
  exact if_neg (fun h => Bool.false_ne_true ((stepOver_of_waiting hother rfl).symm.trans h))

/-! ## Soft decodes (R336) -/

/-- The job of a codeword is the only one, and it runs. -/
structure OneSoftJob (s : State) (n i cw : Nat) (a : SoftJob) : Prop where
  jobs : s.lnd.jobs = [a]
  running : a.running = true
  port : a.n = n
  desc : a.i = i
  word : a.cw = cw

/-- The jobs without the one that has ended. -/
def jobsOver (s : State) : State := s.modLnd fun l => { l with jobs := [] }

variable {x : ClimbCw}

/-- A soft decode that ends with its codeword recovers it, and the next row follows where the step is over. -/
theorem softDecodeDone_eq (ha : OneSoftJob s n i cw a) (hd : Tbl.find (s.seq n).descs i = some h) (hx : Tbl.find (s.climb n i).cws cw = some x)
    (ok : Bool) (ones zeros : Nat) (data : Blk) (md : Meta) : exec (.softDecodeDone n i cw ok ones zeros data md) s = .next (if ok then
      (let u := cwGood (track (jobsOver s) n h.op (bits (descByte s n i 0x14 4) 0 4) ones zeros) n i cw 3 a.row h.op data md
        if stepOver u n i then nextRow u n i else u) else cwFailed (jobsOver s) n i cw none) := by
  obtain ⟨hjobs, hrun, rfl, rfl, rfl⟩ := ha
  have hfind : s.lnd.jobs.find? (fun j => j.n == a.n && j.i == a.i && j.cw == a.cw && j.running) = some a := by
    rw [hjobs]
    simp [hrun]
  have herase : s.modLnd (fun l => { l with jobs := l.jobs.erase a }) = jobsOver s := by
    rw [jobsOver, State.modLnd, State.modLnd, hjobs, List.erase_cons_head]
  have hhas : ¬ ((!Tbl.has ((jobsOver s).climb a.n a.i).cws a.cw) = true) := by
    have : Tbl.find ((jobsOver s).climb a.n a.i).cws a.cw = some x := hx
    simp [Tbl.has, this]
  show execSoftDecodeDone a.n a.i a.cw ok ones zeros data md s = _
  simp only [execSoftDecodeDone, hfind, hd, herase, if_neg hhas]
  cases ok
  · rfl
  · rfl

/-- A failed soft decode leaves its codeword to the ladder while another one is still climbing. -/
theorem softDecodeDone_failed {cw2 : Nat} (ha : OneSoftJob s n i cw a) (hd : Tbl.find (s.seq n).descs i = some h)
    (hx : Tbl.find (s.climb n i).cws cw = some x) (hne : cw2 ≠ cw) (hwait : Tbl.find (s.climb n i).cws cw2 = some {}) (ones zeros : Nat) (data : Blk)
    (md : Meta) : ∃ t, exec (.softDecodeDone n i cw false ones zeros data md) s = .next t ∧ Only [.lnd] s t ∧ t.lnd.jobs = [] ∧
      Tbl.find (t.climb n i).cws cw = some { x with failed := true, found := none } ∧ Tbl.find (t.climb n i).cws cw2 = some {} := by
  have hend : cwFailed (jobsOver s) n i cw none = modClimb (jobsOver s) n i fun c => withFailure c cw none :=
    cwFailed_of_waiting hne (s := jobsOver s) hwait none
  have hclimb : (modClimb (jobsOver s) n i fun c => withFailure c cw none).climb n i = withFailure (s.climb n i) cw none := climb_modClimb _
  refine ⟨_, softDecodeDone_eq ha hd hx false ones zeros data md, ?_⟩
  rw [if_neg Bool.false_ne_true, hend]
  refine ⟨only_of_mask (modLnd_mask (by decide) (modLnd_mask (sub_refl _) (mask_refl _ s))) (by decide), rfl, ?_, ?_⟩
  · rw [hclimb]
    refine (Tbl.find_put_same _ _ _).trans ?_
    rw [Tbl.getD, hx, Option.getD_some]
  · rw [hclimb]
    exact (Tbl.find_put_other _ _ hne).trans hwait

/-! ## Stripe recovery (R348) -/

/-- A SUSPECT notice speaks to the Scullery alone (Table 9-8). -/
theorem only_suspect (s : State) (n : Nat) (op : DieOp) : Mask 32768 s (notice s 2 n op) := by
  rw [notice]
  cases op.suite with
  | none => exact modScu_mask (by decide) (mask_refl _ s)
  | some k => exact modSuite_mask (by decide) (modScu_mask (by decide) (mask_refl _ s))

/-- A recovery whose reads are in and that nobody joined is recorded, and the member's data delivered. -/
theorem stripeRecoveryDone_of_recovered {j : StripeJob} (hj : s.lnd.stripes = [j]) (hneed : j.need = []) (hfailed : j.failed = false) (hsoft : j.soft = false)
    (hjoined : j.joined = []) (hissuer : j.op.issuer = .test) : ∃ t r, exec (.stripeRecoveryDone j.id) s = .next t ∧
      Only [.atc, .lnd, .scu] s t ∧ t.lnd.stripes = [] ∧ t.atc.ring.getLast? = some r ∧ r.code = 0x0070 ∧ r.sev = 3 ∧ r.p0 = j.suite % 2 ^ 32 := by
  have hend : exec (.stripeRecoveryDone j.id) s =
      .next (post (notice (s.modLnd fun l => { l with stripes := [] }) 2 j.n j.op) 0x0070 3 5 j.n j.suite j.unit j.op.die) := by
    have hfind : s.lnd.stripes.find? (fun x => x.id == j.id) = some j := by
      rw [hj]
      simp
    have herase : s.modLnd (fun l => { l with stripes := l.stripes.erase j }) = s.modLnd fun l => { l with stripes := [] } := by
      rw [State.modLnd, State.modLnd, hj, List.erase_cons_head]
    have hin : ¬ ((!j.need.isEmpty) = true) := by simp [hneed]
    refine congrArg Host.Outcome.next ?_
    simp only [stripeDone, hfind, if_neg hin, hfailed, hsoft, hjoined, herase, Bool.false_eq_true, if_false]
    rw [State.each, List.foldl_cons, List.foldl_nil, deliver, cwOp, hissuer]
  have hmask : Mask 49160 s (notice (s.modLnd fun l => { l with stripes := [] }) 2 j.n j.op) :=
    mask_trans (modLnd_mask (by decide) (mask_refl _ s)) (mask_mono (by decide) (only_suspect _ _ _))
  rw [post_of_sev (by decide)] at hend
  refine ⟨_, _, hend, only_of_mask (appendRec_mask (by decide) hmask) (by decide), ?_, getLast?_ring_appendRec _ _, rfl, rfl, rfl⟩
  rw [(appendRec_mask (sub_refl _) (mask_refl _ _)).2 .lnd (by decide), (only_suspect _ _ _).2 .lnd (by decide)]
  rfl

/-- Settles O43: a verify read's descriptor and event follow from its verdict; the class and age decide the soft job; a failed decode leaves a result
while another codeword waits, and a recovered stripe its record. -/
theorem laundryDecode : Obligations.LaundryDecode := by
  unfold Obligations.LaundryDecode
  intro s n i cw cw2 ones zeros weight id ok data md h a b x j slot y hinv
  have hroom : s.lnd.jobs = [a, b] → a.running = false → b.running = false → s.atc.badSoft.length < 16 →
      s.lnd.jobs.countP (fun j => j.running) < 16 - s.atc.badSoft.length := fun hjobs ha hb hbad => by
    simp [hjobs, ha, hb, hbad]
  refine ⟨fun hd hended hkind hcount hdone hxfer hslots hy hwait hheld hlen => ?_, fun hd => ?_, rfl,
    fun hjobs ha hb hne hcredit hbad => ⟨fun hcb hca => ?_, fun hcls hle => ?_⟩, fun hcredit => ?_,
    fun hjobs hrun hn hi hcw hd hx => ?_, fun hj hid => ⟨fun hneed hfailed hsoft hjoined hissuer => ?_, fun hneed => ?_⟩⟩
  · rw [hardDecodeDone_verify hd hended hkind hcount hdone hxfer hslots hy]
    have hv : verifies s y ok ones zeros data md = (ok && decide (ones + zeros ≤ s.rd LND_POLICY.VERIFY_BITS) && y.data == data && y.md == md) := by
      rw [verifies, Bool.and_assoc, Bool.and_assoc, Bool.and_assoc]
    have hiff : (ok = true ∧ ones + zeros ≤ s.rd LND_POLICY.VERIFY_BITS ∧ y.data = data ∧ y.md = md) ↔ verifies s y ok ones zeros data md = true := by
      simp [verifies, and_assoc]
    simp only [← hv, hiff]
    have htold := fun f e => seq_tellDesc (i := i) (seqs_sorted hinv) f e hwait hheld hlen
    by_cases hpass : verifies s y ok ones zeros data md = true
    · simp only [if_pos hpass]
      refine ⟨_, _, rfl, onlySeq_tellDesc .., congrArg Seq.evq (htold ..), evWord_code .., evWord_detail .., ?_⟩
      rw [htold]
      refine (Tbl.find_upd_same _ _ _).trans ?_
      simp [hd, hdone, hcount, hpass]
    · simp only [if_neg hpass]
      refine ⟨_, _, rfl, onlySeq_tellDesc .., congrArg Seq.evq (htold ..), evWord_code .., evWord_detail .., ?_⟩
      rw [htold]
      refine (Tbl.find_upd_same _ _ _).trans ?_
      simp [hd, hcount, hpass]
  · show execHardDecodeDone n i cw ok ones zeros weight data md none s = _
    simp only [execHardDecodeDone, hd]
  · have hnext : nextJob s = some b := by
      rw [nextJob_of_two hjobs ha hb]
      simp [waitingJob, ha, hb, hcb, hca]
    refine (softJobAdmit_next hcredit (hroom hjobs ha hb hbad) hnext).trans ?_
    rw [State.modLnd, State.modLnd, hjobs]
    simp [hne]
  · have hnext : nextJob s = some a := by
      rw [nextJob_of_two hjobs ha hb]
      have hcases : a.cls = 0 ∨ a.cls = 1 ∨ a.cls = 2 := by omega
      rcases hcases with h | h | h
      · simp [waitingJob, ha, hb, h]
      · simp [waitingJob, ha, hb, h, ← hcls]
      · simp [waitingJob, ha, hb, h, ← hcls]
    refine (softJobAdmit_next hcredit (hroom hjobs ha hb hbad) hnext).trans ?_
    rw [State.modLnd, State.modLnd, hjobs]
    simp [Ne.symm hne]
  · show execSoftJobAdmit s = _
    simp only [execSoftJobAdmit, hcredit, decide_true, Bool.true_or, if_true]
  · have hone : OneSoftJob s n i cw a := ⟨hjobs, hrun, hn, hi, hcw⟩
    exact ⟨fun hne hwait => softDecodeDone_failed hone hd hx hne hwait ones zeros data md, softDecodeDone_eq hone hd hx true ones zeros data md⟩
  · subst hid
    exact stripeRecoveryDone_of_recovered hj hneed hfailed hsoft hjoined hissuer
  · refine congrArg Host.Outcome.next ?_
    have hfind : s.lnd.stripes.find? (fun x => x.id == id) = some j := by
      rw [hj]
      simp [hid]
    simp only [stripeDone, hfind]
    exact if_pos (by simp [hneed])

end Sys2Proof.Machine
end

section
/-!
PROOF. The Laundry's care (R342, R354, Table 9-6): what calibrations queue and store, what the recovery limit ends, and what a host port
takes.
-/
namespace Sys2Proof.Machine

variable {s t : State} {n d g : Nat} {c : Ctx}

/-! ## Calibrations (R342) -/

/-- A calibration of a group stands in the queue. -/
def CalQueued (s : State) (n d g : Nat) : Prop := ∃ c ∈ s.lnd.cals, c.n = n ∧ c.die = d ∧ c.group = g

/-- The jobs of a group, one more read waiting for them. -/
def calWith (c : CalJob) (n d g : Nat) (w : Option (Nat × Nat)) : CalJob :=
  if c.n == n && c.die == d && c.group == g then { c with waiters := c.waiters ++ w.toList } else c

theorem calWith_place (c : CalJob) (n d g : Nat) (w : Option (Nat × Nat)) :
    (calWith c n d g w).n = c.n ∧ (calWith c n d g w).die = c.die ∧ (calWith c n d g w).group = c.group := by
  rw [calWith]
  split
  · exact ⟨rfl, rfl, rfl⟩
  · exact ⟨rfl, rfl, rfl⟩

/-- The jobs after a calibration is queued: those that stood, and its own. -/
theorem cals_queueCal (s : State) (n d g : Nat) (w : Option (Nat × Nat)) : (queueCal s n d g w).lnd.cals =
    if s.lnd.cals.any (fun c => c.n == n && c.die == d && c.group == g) then s.lnd.cals.map fun c => calWith c n d g w
    else s.lnd.cals ++ [{ n := n, die := d, group := g, waiters := w.toList }] := by
  rw [queueCal, State.modLnd_lnd]
  split
  · rfl
  · rfl

theorem calQueued_queueCal (s : State) (n d g : Nat) (w : Option (Nat × Nat)) : CalQueued (queueCal s n d g w) n d g := by
  rw [CalQueued, cals_queueCal]
  by_cases hany : s.lnd.cals.any (fun c => c.n == n && c.die == d && c.group == g) = true
  · obtain ⟨c, hc, hplace⟩ := List.any_eq_true.1 hany
    obtain ⟨hn, hd, hg⟩ := calWith_place c n d g w
    rw [if_pos hany]
    exact ⟨_, List.mem_map_of_mem hc, by simpa [hn, hd, hg, and_assoc] using hplace⟩
  · rw [if_neg hany]
    exact ⟨_, List.mem_append_right _ (List.mem_singleton.2 rfl), rfl, rfl, rfl⟩

theorem CalQueued.queueCal {n2 d2 g2 : Nat} (h : CalQueued s n d g) (w : Option (Nat × Nat)) : CalQueued (queueCal s n2 d2 g2 w) n d g := by
  obtain ⟨c, hc, hn, hd, hg⟩ := h
  rw [CalQueued, cals_queueCal]
  split
  · obtain ⟨kn, kd, kg⟩ := calWith_place c n2 d2 g2 w
    exact ⟨_, List.mem_map_of_mem hc, kn.trans hn, kd.trans hd, kg.trans hg⟩
  · exact ⟨c, List.mem_append_left _ hc, hn, hd, hg⟩

/-- Every group asked for stands in the queue. -/
theorem calQueued_each (l : List Nat) (hg : g ∈ l) (s : State) : CalQueued (s.each l fun s g => queueCal s n d g none) n d g := by
  induction l generalizing s with
  | nil => exact absurd hg List.not_mem_nil
  | cons a l ih =>
    rcases List.mem_cons.1 hg with rfl | hl
    · exact foldl_holds (P := fun s : State => CalQueued s n d g) (fun _ _ h => h.queueCal none) l (calQueued_queueCal s n d g none)
    · exact ih hl _

/-- A calibration that is due begins; with no programmed suite it reads nothing yet. -/
theorem calibration_starts (hen : s.on LND_CTL.CAL_EN = true) (hdie : diePresent s n d = true) (hdue : calDue s n d g = true) (hsuites : s.scu.suites = []) :
    ∃ t, exec (.calibration n d g) s = .next t ∧ Only [.lnd] s t ∧ ∃ c ∈ t.lnd.cals, c.n = n ∧ c.die = d ∧ c.group = g ∧ c.started = true := by
  have hgo : ¬ ((!s.on LND_CTL.CAL_EN || !diePresent s n d ||
      !((s.lnd.cals.any fun c => c.n == n && c.die == d && c.group == g && !c.started) || calDue s n d g)) = true) := by
    simp [hen, hdie, hdue]
  have hmask : Mask 16384 s (queueCal s n d g none) := queueCal_mask (sub_refl _) (mask_refl _ s)
  have hnone : (queueCal s n d g none).scu.suites = [] := (congrArg Scullery.suites (hmask.2 .scu (by decide))).trans hsuites
  obtain ⟨c, hc, hn, hd, hg⟩ := calQueued_queueCal s n d g none
  have hexec : exec (.calibration n d g) s = .next ((queueCal s n d g none).modLnd fun l =>
      { l with cals := l.cals.map fun c => if c.n == n && c.die == d && c.group == g then { c with started := true } else c }) := by
    show execCalibration n d g s = _
    simp only [execCalibration, if_neg hgo, State.modLnd_scu, hnone, List.find?_nil]
  refine ⟨_, hexec, only_of_mask (modLnd_mask (sub_refl _) hmask) (by decide), { c with started := true }, ?_, hn, hd, hg, rfl⟩
  exact List.mem_map.2 ⟨c, hc, if_pos (by simp [hn, hd, hg])⟩

/-- The result of a calibration that decodes becomes the tracked set of its group, with the hour. -/
theorem calibrationDone_tracks (hcals : s.lnd.cals = [{ n := n, die := d, group := g, started := true }]) (valley : Nat) :
    ∃ t, exec (.calibrationDone n d g valley true) s = .next t ∧ Only [.lnd] s t ∧ t.lnd.cals = [] ∧
      Tbl.getD t.lnd.sets (setKey n d g) 0 = valley % 2 ^ 120 ∧ Tbl.find t.lnd.lastCal (setKey n d g) = some (s.pwr.opSec / 3600) := by
  have hexec : exec (.calibrationDone n d g valley true) s = .next (setTracked (s.modLnd fun l =>
      { l with cals := [], lastCal := Tbl.put l.lastCal (setKey n d g) (s.pwr.opSec / 3600) }) n d g (valley % 2 ^ 120)) := by
    have hfind : s.lnd.cals.find? (fun c => c.n == n && c.die == d && c.group == g && c.started) = some { n := n, die := d, group := g, started := true } := by
      rw [hcals]
      simp
    show execCalibrationDone n d g valley true s = _
    simp only [execCalibrationDone, hfind, if_true]
    rw [State.modLnd, State.modLnd, hcals, List.erase_cons_head]
    rfl
  refine ⟨_, hexec, only_of_mask (setTracked_mask (sub_refl _) (modLnd_mask (sub_refl _) (mask_refl _ s))) (by decide), rfl, ?_, ?_⟩
  · exact Tbl.getD_setD_same _ _ _ _
  · exact Tbl.find_put_same _ _ _

/-- A port's request queues every group of the die and is taken back. -/
theorem calRequest_queues (hinv : s.inv = true) (hdie : diePresent s n d = true) : ∃ t, exec (.calRequest n d) s = .next t ∧ Only [.regs, .lnd] s t ∧
    t.on (LND_PORT_CTL.CAL_REQ n) = false ∧ RegsBut s t [LND_PORT_CTL.CAL_REQ n] ∧ ∀ g, g < 16 → ∃ c ∈ t.lnd.cals, c.n = n ∧ c.die = d ∧ c.group = g := by
  have hmask : Mask 16384 s (s.each (List.range 16) fun s g => queueCal s n d g none) :=
    each_mask (mask_refl _ s) fun _ _ h => queueCal_mask (sub_refl _) h
  have hregs := hmask.2 .regs (by decide)
  have hs : Tbl.sorted (s.each (List.range 16) fun s g => queueCal s n d g none).regs = true := by
    rw [show (s.each (List.range 16) fun s g => queueCal s n d g none).regs = s.regs from hregs]
    exact regs_sorted hinv
  have hf : (LND_PORT_CTL.CAL_REQ n).lsb + (LND_PORT_CTL.CAL_REQ n).width ≤ 64 := Nat.le_of_ble_eq_true rfl
  have hclr := clr1_mask (f := LND_PORT_CTL.CAL_REQ n) (sub_refl _) (mask_refl 1 (s.each (List.range 16) fun s g => queueCal s n d g none))
  refine ⟨_, congrArg Host.Outcome.next (if_pos hdie), only_of_mask (mask_trans (mask_mono (b := 16385) (by decide) hmask) (mask_mono (by decide) hclr)) (by decide),
    on_clr1_same hs hf, regsBut_trans (regsBut_of_regs hregs) (regsBut_clr1 hs hf), fun g hg => ?_⟩
  rw [hclr.2 .lnd (by decide)]
  exact calQueued_each _ (List.mem_range.2 hg) s

/-! ## The recovery limit (Table 4-7) -/

/-- Whether a descriptor reads for a host's reader. -/
def readsFor (n : Nat) (h : DescHw) : Bool := match h.op.issuer with
  | .hostRead m _ _ => m == n
  | _ => false

/-- The climbs of a reader start no new row. -/
def climbsStopped (s : State) (n : Nat) : State :=
  s.each ((List.range 64).flatMap fun p => ((s.seq p).descs.filter fun e => readsFor n e.2 && decide (0 < (s.climb p e.1).row)).map fun e => (p, e.1))
    fun s e => modClimb s e.1 e.2 fun c => { c with stop := true }

/-- A reader past its recovery limit ends with Unrecovered Read Error. -/
theorem tlerExpiry_ends (hc : s.ctx n = some c) (hst : c.st = .running) (hres : c.resolved = true) (hreads : c.reads ≠ []) (hstair : c.stair = none)
    (hlimit : bits (feat s 0 0x05 (readNs c)) 0 16 ≠ 0) :
    ∃ t, exec (.tlerExpiry n) s = .next t ∧ Only [.hall, .nvm, .pan, .ldr, .cel, .lnd, .scu, .sta] s t ∧
      (t.ctx n).map (fun z => (z.st, z.sct, z.sc)) = some (.ready, 2, 0x81) := by
  have hgo : ¬ ((decide (c.st ≠ .running) || !c.resolved || c.reads.isEmpty || decide (bits (feat s 0 0x05 (readNs c)) 0 16 = 0)) = true) := by
    simp [hst, hres, hreads, hlimit]
  have hexec : exec (.tlerExpiry n) s = .next (failReader (climbsStopped s n) n 2 0x81) := by
    show execTlerExpiry n s = _
    unfold climbsStopped failReader
    simp only [execTlerExpiry, hc, if_neg hgo]
    generalize List.range 64 = ports
    rfl
  have hu : Mask 16384 s (climbsStopped s n) := each_mask (mask_refl _ s) fun _ _ h => modClimb_mask (sub_refl _) h
  have hcu : (climbsStopped s n).ctx n = some c := (ctx_of_hall (hu.2 .hall (by decide))).trans hc
  have hend : Ended (failReader (climbsStopped s n) n 2 0x81) n _ 2 0x81 0 := ended_finish (ctx_dropReader hcu) (hst ▸ by decide) hstair 2 0x81 0
  have hstatus : ((failReader (climbsStopped s n) n 2 0x81).ctx n).map (fun z => (z.st, z.sct, z.sc)) = some (.ready, 2, 0x81) := by
    rw [hend]
    rfl
  exact ⟨_, hexec, only_of_exec hexec, hstatus⟩

/-! ## What a host port takes (R72, R73, R354) -/

variable {w : HostWord} {ns lb k hp : Nat} {pr : PrInfo} {guardOk appOk refOk : Bool} {bad : Nat} {host : Blk}

/-- The only decoded word waits for a host port, for a read that keeps no pin on it. -/
structure WordWaits (s : State) (n hp : Nat) (w : HostWord) (c : Ctx) (ns lb k : Nat) (pr : PrInfo) : Prop where
  words : s.lnd.words = [w]
  src : w.src = n
  pin : w.pin = none
  ctx : s.ctx w.ingest = some c
  port : c.port = hp
  stair : c.stair = none
  cmd : c.cmd = .read ns lb k pr

/-- The word has been taken from the buffer. -/
def wordTaken (s : State) (n hp : Nat) : State :=
  s.modLnd fun l => { l with words := [], pace := Tbl.setD l.pace (2 * n + hp) (Tbl.getD l.pace (2 * n + hp) 0 - 1) 0 }

/-- The unit is handed to the host, or the read ends with the check that failed. -/
theorem pacedReadRelease_eq (h : WordWaits s n hp w c ns lb k pr) : exec (.pacedReadRelease n hp guardOk appOk refOk bad host) s = .next
    (match (if piSelects s (readNs c) pr then piStatus pr guardOk appOk refOk else none) with
      | some (x, y) =>
        if x = 2 && y = 0x85 then failReader (wordTaken s n hp) w.ingest x y
        else failReader (noteBad (handPart (wordTaken s n hp) w.ingest c w (decrypt s (readNs c) w.unit w.data) (bad % perUnit s (readNs c)))
          w.ingest (readNs c) w.unit bad) w.ingest x y
      | none => readerCheck (setRunit (handOn (wordTaken s n hp) w.ingest c w (decrypt s (readNs c) w.unit w.data)) w.ingest w.unit .done) w.ingest) := by
  obtain ⟨hwords, rfl, hpin, hc, rfl, hstair, hcmd⟩ := h
  have hfind : s.lnd.words.find? (fun x => x.src == w.src && ((s.ctx x.ingest).map fun y => y.port) == some c.port) = some w := by
    rw [hwords]
    simp [hc]
  have htaken : s.modLnd (fun l => { l with words := l.words.erase w, pace := Tbl.setD l.pace (2 * w.src + c.port) (Tbl.getD l.pace (2 * w.src + c.port) 0 - 1) 0 }) =
      wordTaken s w.src c.port := by
    rw [wordTaken, State.modLnd, State.modLnd, hwords, List.erase_cons_head]
  have hctx : (wordTaken s w.src c.port).ctx w.ingest = some c := hc
  show execPacedReadRelease w.src c.port guardOk appOk refOk bad host s = _
  simp only [execPacedReadRelease, hfind, takeWord, htaken, hpin, hctx, hstair, Option.isSome_none, Bool.false_eq_true, if_false, unitStatus, hcmd]
  rfl

/-- What a read that ends leaves of the words, of what was sent and of the units counted. -/
theorem finish_sent (hc : s.ctx n = some c) (hstair : c.stair = none) (sct sc dw0 : Nat) :
    (finish s n sct sc dw0).lnd = s.lnd ∧ (finish s n sct sc dw0).out = s.out ∧ (finish s n sct sc dw0).nvm.unitsRead = s.nvm.unitsRead := by
  by_cases hst : c.st = .ready
  · simp [finish, hc, hst]
  · simp only [finish, hc, hst, hstair, if_false]
    split
    · exact ⟨rfl, rfl, rfl⟩
    · exact ⟨rfl, rfl, rfl⟩

theorem readerCheck_sent (hc : s.ctx n = some c) (hstair : c.stair = none) (hcmd : c.cmd = .read ns lb k pr) :
    (readerCheck s n).lnd = s.lnd ∧ (readerCheck s n).out = s.out ∧ (readerCheck s n).nvm.unitsRead = s.nvm.unitsRead := by
  simp only [readerCheck, hc, hcmd]
  split
  · exact ⟨rfl, rfl, rfl⟩
  · split
    · exact ⟨rfl, rfl, rfl⟩
    · split
      · next hcopy _ => cases hcopy
      · next hcopy _ => cases hcopy
      · exact finish_sent hc hstair _ _ _
      · exact finish_sent hc hstair _ _ _

/-- A unit that passes its checks goes to the host and is counted. -/
theorem pacedReadRelease_delivers (h : WordWaits s n hp w c ns lb k pr)
    (hcheck : piSelects s (readNs c) pr = true → piStatus pr guardOk appOk refOk = none) :
    ∃ t, exec (.pacedReadRelease n hp guardOk appOk refOk bad host) s = .next t ∧ Only [.regs, .hall, .nvm, .pan, .ldr, .cel, .lnd, .scu, .sta, .out] s t ∧
      t.lnd.words = [] ∧ t.out = s.out ++ [.hostData w.ingest w.unit (decrypt s (readNs c) w.unit w.data) (hostMeta s ns pr w.md)] ∧
      t.nvm.unitsRead = s.nvm.unitsRead + 1 := by
  have hpass : (if piSelects s (readNs c) pr then piStatus pr guardOk appOk refOk else none) = none := by
    split
    · next hsel => exact hcheck hsel
    · rfl
  have hhand : handOn (wordTaken s n hp) w.ingest c w (decrypt s (readNs c) w.unit w.data) =
      ((wordTaken s n hp).emit (.hostData w.ingest w.unit (decrypt s (readNs c) w.unit w.data) (hostMeta s ns pr w.md))).modNvm
        fun x => { x with unitsRead := x.unitsRead + 1 } := by
    rw [handOn, h.stair, h.cmd]
    rfl
  have hexec := pacedReadRelease_eq h (guardOk := guardOk) (appOk := appOk) (refOk := refOk) (bad := bad) (host := host)
  have hctx : (wordTaken s n hp).ctx w.ingest = some c := h.ctx
  have hset := ctx_modCtx_same (s := ((wordTaken s n hp).emit (.hostData w.ingest w.unit (decrypt s (readNs c) w.unit w.data)
    (hostMeta s ns pr w.md))).modNvm fun x => { x with unitsRead := x.unitsRead + 1 }) hctx fun c => { c with runits := Tbl.put c.runits w.unit .done }
  obtain ⟨hlnd, hout, hunits⟩ := readerCheck_sent hset (ns := ns) (lb := lb) (k := k) (pr := pr) h.stair h.cmd
  rw [hpass] at hexec
  dsimp only at hexec
  rw [hhand] at hexec
  refine ⟨_, hexec, only_of_exec hexec, (congrArg Laundry.words hlnd).trans rfl, hout.trans rfl, hunits.trans rfl⟩

/-- Nothing is pinned for a reader whose words have gone. -/
theorem dropReader_of_unpinned (hwords : s.lnd.words = []) (hpins : s.pan.pins = []) :
    (dropReader s n).lnd.words = [] ∧ (dropReader s n).out = s.out ∧ (dropReader s n).nvm = s.nvm := by
  simp only [dropReader, hwords, State.modLnd_pan, hpins, List.filter_nil, State.each, List.foldl_nil]
  refine ⟨?_, rfl, rfl⟩
  show s.lnd.words.filter (fun w => w.ingest != n) = []
  rw [hwords, List.filter_nil]

/-- A failed check of the protection information never reads as a Compare Failure (R73). -/
theorem piStatus_ne_miscompare {x e : Nat} (h : piStatus pr guardOk appOk refOk = some (x, e)) : e ≠ 0x85 := by
  rw [piStatus, firstOf] at h
  obtain ⟨⟨b, y⟩, hfound, hy⟩ := Option.map_eq_some_iff.1 h
  have hmem := List.mem_of_find?_eq_some hfound
  cases hy
  simp at hmem
  omega

/-- The blocks before the one that fails, sent where there are any. -/
theorem handPart_read (hstair : c.stair = none) (hcmd : c.cmd = .read ns lb k pr) (m : Nat) (plain : Blk) (b : Nat) :
    handPart s m c w plain b = if b = 0 then s else s.emit (.hostPart m w.unit b plain (hostMeta s ns pr w.md)) := by
  rw [handPart, hstair, hcmd]

/-- A unit that fails a check sends the blocks before it, and ends the read with that check's error. -/
theorem pacedReadRelease_fails {e : Nat} (h : WordWaits s n hp w c ns lb k pr) (hpins : s.pan.pins = []) (hst : c.st = .running)
    (hsel : piSelects s (readNs c) pr = true) (hfail : piStatus pr guardOk appOk refOk = some (2, e)) :
    ∃ t, exec (.pacedReadRelease n hp guardOk appOk refOk bad host) s = .next t ∧ Only [.regs, .hall, .nvm, .pan, .ldr, .cel, .lnd, .scu, .sta, .out] s t ∧
      t.lnd.words = [] ∧ (t.ctx w.ingest).map (fun z => (z.st, z.sct, z.sc)) = some (.ready, 2, e) ∧
      t.out = s.out ++ (if bad % perUnit s (readNs c) = 0 then []
        else [.hostPart w.ingest w.unit (bad % perUnit s (readNs c)) (decrypt s (readNs c) w.unit w.data) (hostMeta s ns pr w.md)]) ∧
      ((Tbl.getD t.nvm.errors hp []).head?).map (fun l => (l.drop 1).take 5) =
        some [c.sq, c.cid, 2, e, w.unit * perUnit s (readNs c) + bad % perUnit s (readNs c)] := by
  have he : ¬ ((decide ((2 : Nat) = 2) && decide (e = 0x85)) = true) := by simp [piStatus_ne_miscompare hfail]
  have hexec := pacedReadRelease_eq h (guardOk := guardOk) (appOk := appOk) (refOk := refOk) (bad := bad) (host := host)
  rw [if_pos hsel, hfail] at hexec
  dsimp only at hexec
  rw [if_neg he] at hexec
  have hmask := handPart_mask (c := c) (w := w) (n := w.ingest) (plain := decrypt s (readNs c) w.unit w.data) (bad := bad % perUnit s (readNs c))
    (sub_refl _) (mask_refl _ (wordTaken s n hp))
  have hsent := handPart_read (s := wordTaken s n hp) (w := w) h.stair h.cmd w.ingest (decrypt s (readNs c) w.unit w.data) (bad % perUnit s (readNs c))
  have hctx : (handPart (wordTaken s n hp) w.ingest c w (decrypt s (readNs c) w.unit w.data) (bad % perUnit s (readNs c))).ctx w.ingest = some c :=
    (ctx_of_hall (hmask.2 .hall (by decide))).trans h.ctx
  have hout : (handPart (wordTaken s n hp) w.ingest c w (decrypt s (readNs c) w.unit w.data) (bad % perUnit s (readNs c))).out =
      s.out ++ (if bad % perUnit s (readNs c) = 0 then []
        else [.hostPart w.ingest w.unit (bad % perUnit s (readNs c)) (decrypt s (readNs c) w.unit w.data) (hostMeta s ns pr w.md)]) := by
    rw [hsent]
    split
    · exact (List.append_nil _).symm
    · rfl
  have hper : perUnit (handPart (wordTaken s n hp) w.ingest c w (decrypt s (readNs c) w.unit w.data) (bad % perUnit s (readNs c))) (readNs c) =
      perUnit s (readNs c) := by
    rw [hsent]
    split
    · rfl
    · rfl
  have hpan := hmask.2 .pan (by decide)
  have hlnd := hmask.2 .lnd (by decide)
  generalize handPart (wordTaken s n hp) w.ingest c w (decrypt s (readNs c) w.unit w.data) (bad % perUnit s (readNs c)) = u at hexec hctx hout hper hpan hlnd
  have hnote : (noteBad u w.ingest (readNs c) w.unit bad).ctx w.ingest =
      some { c with badLba := some (w.unit * perUnit u (readNs c) + bad % perUnit u (readNs c)) } := ctx_modCtx_same hctx _
  obtain ⟨hwords', hout', -⟩ := dropReader_of_unpinned (s := noteBad u w.ingest (readNs c) w.unit bad) (n := w.ingest)
    ((congrArg Laundry.words hlnd).trans rfl) ((congrArg Pantry.pins hpan).trans hpins)
  have hdrop := ctx_dropReader (s := noteBad u w.ingest (readNs c) w.unit bad) hnote
  have hend := ended_finish hdrop (by rw [hst]; decide) h.stair 2 e 0
  obtain ⟨i, ns', old, herr, -⟩ := finish_error hdrop (by rw [hst]; decide) h.stair (sct := 2) (by decide) e 0
  obtain ⟨flnd, fout, -⟩ := finish_sent hdrop h.stair 2 e 0
  refine ⟨_, hexec, only_of_exec hexec, (congrArg Laundry.words flnd).trans hwords', ?_, fout.trans (hout'.trans hout), ?_⟩
  · rw [failReader, hend]
    rfl
  · rw [← h.port, failReader]
    rw [show Tbl.getD _ c.port [] = _ from herr]
    simp [errorLba, hper]

/-- Settles O44: calibrations by the queue they leave, a reader past its limit by the way a command ends, and a word taken by its check's verdict. -/
theorem laundryCare : Obligations.LaundryCare := by
  unfold Obligations.LaundryCare
  intro s n die group valley hp p ns lb k bad e g a r host pr c y w hinv
  refine ⟨calibration_starts, fun hoff => ?_, fun hcals hc => ?_, calRequest_queues hinv, fun hc hst hres hreads hstair => ⟨tlerExpiry_ends hc hst hres hreads hstair, fun hlimit => ?_⟩,
    fun hwords hsrc hpin hc hport hstair hcmd hcheck => pacedReadRelease_delivers ⟨hwords, hsrc, hpin, hc, hport, hstair, hcmd⟩ hcheck,
    fun hwords hsrc hpin hpins hc hport hstair hst hcmd hsel hfail =>
      pacedReadRelease_fails ⟨hwords, hsrc, hpin, hc, hport, hstair, hcmd⟩ hpins hst hsel hfail, fun hwords => ?_⟩
  · show execCalibration n die group s = _
    simp only [execCalibration, hoff, Bool.not_false, Bool.true_or, if_true]
  · subst hc
    exact calibrationDone_tracks hcals valley
  · show execTlerExpiry n s = _
    simp only [execTlerExpiry, hc, hlimit, decide_true, Bool.or_true, if_true]
  · show execPacedReadRelease n p g a r bad host s = _
    simp only [execPacedReadRelease, hwords, List.find?_nil]

end Sys2Proof.Machine
end

section
/-!
PROOF. Reclaim (R380 to R390): victims, the end of an erase, folding, consolidation and the limit on open suites.
-/
namespace Sys2Proof.Machine

variable {s t : State} {k : Nat}

/-! ## Suites -/

theorem suite_of_scu (h : t.scu = s.scu) (k : Nat) : t.suite k = s.suite k := by
  rw [State.suite, State.suite, h]

theorem suite_modSuite_same (s : State) (k : Nat) (f : Suite → Suite) : (s.modSuite k f).suite k = f (s.suite k) := Tbl.getD_setD_same _ _ _ _

theorem suite_modSuite_other {j : Nat} (f : Suite → Suite) (h : j ≠ k) : (s.modSuite k f).suite j = s.suite j := Tbl.getD_setD_other _ _ _ _ h

/-- A suite's record goes to the journal alone (R372). -/
theorem scu_suiteRecord (s : State) (k aux count first : Nat) : (suiteRecord s k aux count first).scu = s.scu :=
  (suiteRecord_mask (sub_refl _) (mask_refl _ s)).2 .scu (by decide)

theorem nvm_suiteRecord (s : State) (k aux count first : Nat) : (suiteRecord s k aux count first).nvm = s.nvm :=
  (suiteRecord_mask (sub_refl _) (mask_refl _ s)).2 .nvm (by decide)

theorem ldr_suiteRecord (s : State) (k aux count first : Nat) : (suiteRecord s k aux count first).ldr = s.ldr :=
  (suiteRecord_mask (sub_refl _) (mask_refl _ s)).2 .ldr (by decide)

/-! ## Victims (R380 to R382) -/

/-- A victim that is started is the source of its group, with its live units; the other suites stand. -/
theorem startVictim_source (s : State) (rg k cause : Nat) : ((startVictim s rg k cause).suite k).st = 3 ∧
    (∀ i, i ≠ k → (startVictim s rg k cause).suite i = s.suite i) ∧
    Tbl.find (startVictim s rg k cause).scu.recl rg = some { suite := k, cause := cause, left := liveUnitsOf s k } := by
  have hsuite : ∀ i, (startVictim s rg k cause).suite i = (s.modSuite k fun x => { x with st := 3 }).suite i := fun i =>
    (rfl : _ = (suiteRecord _ _ _ _ _).suite i).trans (suite_of_scu (scu_suiteRecord _ _ _ _ _) i)
  refine ⟨?_, fun i hi => (hsuite i).trans (suite_modSuite_other _ hi), Tbl.find_put_same _ _ _⟩
  rw [hsuite, suite_modSuite_same]

theorem startVictim_static (s : State) (rg k : Nat) : Tbl.find (startVictim s rg k 4).scu.lastStatic rg = some (nowHour s) := by
  have hhour : nowHour (suiteRecord (s.modSuite k fun x => { x with st := 3 }) k 3 (liveUnitsOf s k).length 4) = nowHour s :=
    congrArg (fun p => p.opSec / 3600) ((suiteRecord_mask (sub_refl _) (mask_refl _ (s.modSuite k fun x => { x with st := 3 }))).2 .pwr (by decide))
  rw [startVictim, State.modScu_scu]
  exact (Tbl.find_put_same _ _ _).trans (congrArg some hhour)

variable {rg cause : Nat}

/-- A reclaim group may choose. -/
structure MayChoose (s : State) (rg : Nat) : Prop where
  group : rg < 8
  thawed : s.pwr.frozen = false
  free : victimBusy s rg = false

theorem MayChoose.not_held (h : MayChoose s rg) : ¬ ((decide (8 ≤ rg) || s.pwr.frozen || victimBusy s rg) = true) := by
  simp [h.group, h.thawed, h.free]

/-- A group goes on with a suite that is already a source. -/
theorem reclaimVictimChoice_resumes (h : MayChoose s rg) (hsource : ((s.scu.suites.find? fun e => e.2.st == 3 && e.2.rg == rg).map fun e => e.1) = some k) :
    exec (.reclaimVictimChoice rg) s = .next (s.modScu fun x => { x with recl := Tbl.put x.recl rg { suite := k, cause := 1, left := liveUnitsOf s k } }) := by
  show execReclaimVictimChoice rg s = _
  simp only [execReclaimVictimChoice, if_neg h.not_held, hsource]

/-- A group without a source that reclaims takes the victim its rules choose. -/
theorem reclaimVictimChoice_takes (h : MayChoose s rg) (hnone : (s.scu.suites.find? fun e => e.2.st == 3 && e.2.rg == rg) = none)
    (hfold : ∀ k ∈ closedOf s rg, (s.suite k).foldSource = false) (hrec : rg ∈ s.scu.reclaiming) (hen : s.on SCU_CTL.RECLAIM_EN = true)
    (hchoice : chooseVictim s rg = some (k, cause)) : exec (.reclaimVictimChoice rg) s = .next (startVictim s rg k cause) := by
  have hstopped : (closedOf s rg).find? (fun k => (s.suite k).foldSource) = none :=
    List.find?_eq_none.2 fun k hk => by rw [hfold k hk]; exact Bool.false_ne_true
  have hwants : ((s.scu.reclaiming.contains rg && s.on SCU_CTL.RECLAIM_EN) || s.scu.emerg.contains rg) = true := by
    rw [List.contains_iff_mem.2 hrec, hen]
    rfl
  show execReclaimVictimChoice rg s = _
  simp only [execReclaimVictimChoice, if_neg h.not_held, hnone, Option.map_none, hstopped, if_pos hwants, hchoice]

/-- A static wear move that is due takes the least worn closed suite. -/
theorem staticWearDue_takes (h : MayChoose s rg) (hdue : staticDue s rg = true) (hleast : leastWorn s (closedOf s rg) = some k) :
    exec (.staticWearDue rg) s = .next (startVictim s rg k 4) := by
  have hgo : ¬ ((decide (8 ≤ rg) || s.pwr.frozen || victimBusy s rg || !staticDue s rg) = true) := by
    rw [hdue, Bool.not_true, Bool.or_false]
    exact h.not_held
  show execStaticWearDue rg s = _
  simp only [execStaticWearDue, if_neg hgo, hleast]

/-! ## Erases (R383, R384) -/

/-- A block found PERMANENT is marked bad when its suite's erase ends. -/
def markBad (s : State) (k m : Nat) : State :=
  suiteRecord (s.modScu fun y => { y with
    badBlocks := if y.badBlocks.contains (badKey (memberDie s k m).1 (memberDie s k m).2 (k / 32)) then y.badBlocks
      else badKey (memberDie s k m).1 (memberDie s k m).2 (k / 32) :: y.badBlocks
    permanent := y.permanent.filter fun z => z != badKey (memberDie s k m).1 (memberDie s k m).2 (k / 32) }) k 8 m 0

/-- The suite goes on without a member whose block is bad (R384). -/
def memberOut (s : State) (k m : Nat) : State :=
  ((erasePassed s k m).modScu fun x => { x with
    badBlocks := if x.badBlocks.contains (badKey (memberDie s k m).1 (memberDie s k m).2 (k / 32)) then x.badBlocks
      else badKey (memberDie s k m).1 (memberDie s k m).2 (k / 32) :: x.badBlocks }).modSuite k
    fun x => { x with members := x.members - (if bitAt x.members m then 2 ^ m else 0) }

/-- A failed erase takes its member out, records it, and counts it at its port. -/
theorem eraseFailed_eq {m m2 : Nat} (her : Tbl.find s.scu.erasing k = some [m, m2]) : eraseFailed s k m = (suiteRecord (memberOut s k m) k 8 m 0).modNvm fun x =>
    { x with ports := Tbl.modD x.ports (memberDie s k m).1 {} fun p => { p with eraseFails := satInc 32 p.eraseFails } } := by
  have hin : ¬ ((!((Tbl.getD s.scu.erasing k []).contains m)) = true) := by simp [Tbl.getD, her]
  rw [eraseFailed, if_neg hin]
  rfl

theorem sanitize_eraseFailed {m m2 : Nat} (her : Tbl.find s.scu.erasing k = some [m, m2]) : (eraseFailed s k m).nvm.sanitize = s.nvm.sanitize := by
  rw [eraseFailed_eq her, State.modNvm_nvm]
  dsimp only
  exact congrArg Nvm.sanitize (nvm_suiteRecord (memberOut s k m) k 8 m 0)

/-- What a failed erase leaves of the list of erasing members, of the bad blocks, of the members and of its port's count. -/
theorem eraseFailed_of_erasing {m m2 : Nat} (her : Tbl.find s.scu.erasing k = some [m, m2]) (hbit : bitAt (s.suite k).members m = true) :
    Tbl.find (eraseFailed s k m).scu.erasing k = some [m2] ∧
    badKey (memberDie s k m).1 (memberDie s k m).2 (k / 32) ∈ (eraseFailed s k m).scu.badBlocks ∧
    ((eraseFailed s k m).suite k).members = (s.suite k).members - 2 ^ m ∧
    (Tbl.getD (eraseFailed s k m).nvm.ports (memberDie s k m).1 {}).eraseFails =
      min ((Tbl.getD s.nvm.ports (memberDie s k m).1 {}).eraseFails + 1) (2 ^ 32 - 1) := by
  have heq := eraseFailed_eq her
  have hscu : (eraseFailed s k m).scu = (memberOut s k m).scu := by
    rw [heq]
    exact scu_suiteRecord _ _ _ _ _
  refine ⟨?_, ?_, ?_, ?_⟩
  · rw [hscu]
    refine (Tbl.find_upd_same _ _ _).trans ?_
    rw [her, Option.map_some, List.erase_cons_head]
  · rw [hscu]
    show badKey _ _ _ ∈ if _ then _ else _
    split
    · next h => exact List.contains_iff_mem.1 h
    · exact List.mem_cons_self
  · rw [suite_of_scu hscu, memberOut, suite_modSuite_same]
    show (s.suite k).members - (if bitAt (s.suite k).members m then 2 ^ m else 0) = _
    rw [if_pos hbit]
  · have hports : (eraseFailed s k m).nvm.ports =
        Tbl.modD s.nvm.ports (memberDie s k m).1 {} fun p => { p with eraseFails := satInc 32 p.eraseFails } := by
      rw [heq, State.modNvm_nvm, nvm_suiteRecord]
      rfl
    rw [hports, Tbl.modD, Tbl.getD_setD_same, satInc]

/-- What the marking of bad blocks leaves. -/
theorem markBad_each (l : List Nat) (s : State) :
    (s.each l fun s m => markBad s k m).nvm = s.nvm ∧ (s.each l fun s m => markBad s k m).ldr = s.ldr := by
  refine ⟨each_keeps_eq State.nvm (fun s m => ?_) l s, each_keeps_eq State.ldr (fun s m => ?_) l s⟩
  · exact nvm_suiteRecord _ _ _ _ _
  · exact ldr_suiteRecord _ _ _ _ _

/-- Without fronts there is nothing to go on with. -/
theorem pumpAll_of_no_fronts (h : s.ldr.fronts = []) : pumpAll s = s := by
  rw [pumpAll, h]
  rfl

theorem sanitizeCheck_of_none (h : s.nvm.sanitize = none) : sanitizeCheck s = s := by
  rw [sanitizeCheck, h]
  rfl

/-- The suite after its erase: ERASED, or BAD with fewer than nine members. -/
def erasedSuite (s : State) (k count : Nat) : Suite :=
  { st := if decide (9 ≤ (openMembers s k).length) then 0 else 6, rg := rgOf s k, members := maskOf (openMembers s k), eraseCount := count + 1 }

/-- The suite is out of the list of erases and its units are counted. -/
def eraseCounted (s : State) (k : Nat) (x : Suite) : State :=
  ((s.modScu fun z => { z with
      suites := Tbl.put z.suites k (erasedSuite s k x.eraseCount), erasing := Tbl.del z.erasing k, ledger := Tbl.del z.ledger k
      foldStopped := z.foldStopped.filter fun j => j != k
      heldBack := if decide (9 ≤ (openMembers s k).length) && (Tbl.find z.heldBack (rgOf s k)).isNone then Tbl.put z.heldBack (rgOf s k) k else z.heldBack }).modPan
    fun p => { p with erasable := p.erasable.filter fun j => j != k }).modNvm
    fun v => { v with erasedUnits := v.erasedUnits + x.dataUnits, sanErased := if v.sanitize = some 2 then v.sanErased + 1 else v.sanErased }

/-- The records of an erased suite. -/
def eraseRecorded (s : State) (k members count : Nat) (ok : Bool) : State :=
  if ok then suiteRecord s k 0 members count else suiteRecord (suiteRecord s k 0 members count) k 6 members 0

theorem eraseRecorded_parts (s : State) (k members count : Nat) (ok : Bool) : (eraseRecorded s k members count ok).scu = s.scu ∧
    (eraseRecorded s k members count ok).nvm = s.nvm ∧ (eraseRecorded s k members count ok).ldr = s.ldr := by
  have hmask : Mask 1024 s (eraseRecorded s k members count ok) := by
    rw [eraseRecorded]
    split
    · exact suiteRecord_mask (sub_refl _) (mask_refl _ s)
    · exact suiteRecord_mask (sub_refl _) (suiteRecord_mask (sub_refl _) (mask_refl _ s))
  exact ⟨hmask.2 .scu (by decide), hmask.2 .nvm (by decide), hmask.2 .ldr (by decide)⟩

/-- What the end of an erase leaves of the suite, of the list of erases and of the counts. -/
theorem suiteErased_leaves (hfronts : s.ldr.fronts = []) (hsan : s.nvm.sanitize = none) :
    ((suiteErased s k).suite k).eraseCount = (s.suite k).eraseCount + 1 ∧
    (((suiteErased s k).suite k).st = 0 ∨ ((suiteErased s k).suite k).st = 6) ∧ Tbl.find (suiteErased s k).scu.erasing k = none ∧
    (suiteErased s k).nvm.erasedUnits = s.nvm.erasedUnits + (s.suite k).dataUnits := by
  obtain ⟨u, hu, heq⟩ : ∃ u, (u.nvm = s.nvm ∧ u.ldr = s.ldr) ∧ suiteErased s k = sanitizeCheck (pumpAll (poolCheck
      (eraseRecorded (eraseCounted u k (s.suite k)) k (maskOf (openMembers u k)) ((s.suite k).eraseCount + 1) (decide (9 ≤ (openMembers u k).length)))
        (rgOf u k))) := ⟨_, markBad_each _ s, rfl⟩
  obtain ⟨hunvm, huldr⟩ := hu
  obtain ⟨rscu, rnvm, rldr⟩ := eraseRecorded_parts (eraseCounted u k (s.suite k)) k (maskOf (openMembers u k)) ((s.suite k).eraseCount + 1)
    (decide (9 ≤ (openMembers u k).length))
  have hpool := poolCheck_mask (rg := rgOf u k) (sub_refl _) (mask_refl _ (eraseRecorded (eraseCounted u k (s.suite k)) k (maskOf (openMembers u k))
    ((s.suite k).eraseCount + 1) (decide (9 ≤ (openMembers u k).length))))
  have hpscu : ∀ w, (poolCheck w (rgOf u k)).scu.suites = w.scu.suites ∧ (poolCheck w (rgOf u k)).scu.erasing = w.scu.erasing := fun _ => ⟨rfl, rfl⟩
  generalize eraseRecorded (eraseCounted u k (s.suite k)) k (maskOf (openMembers u k)) ((s.suite k).eraseCount + 1)
    (decide (9 ≤ (openMembers u k).length)) = v at heq rscu rnvm rldr hpool
  obtain ⟨psuites, perasing⟩ := hpscu v
  have hpnvm : (poolCheck v (rgOf u k)).nvm = (eraseCounted u k (s.suite k)).nvm := (hpool.2 .nvm (by decide)).trans rnvm
  have hpldr : (poolCheck v (rgOf u k)).ldr = s.ldr := (hpool.2 .ldr (by decide)).trans (rldr.trans huldr)
  have hcnvm : (eraseCounted u k (s.suite k)).nvm.sanitize = u.nvm.sanitize ∧
      (eraseCounted u k (s.suite k)).nvm.erasedUnits = u.nvm.erasedUnits + (s.suite k).dataUnits := ⟨rfl, rfl⟩
  obtain ⟨hcsan, hcunits⟩ := hcnvm
  rw [pumpAll_of_no_fronts ((congrArg Larder.fronts hpldr).trans hfronts), sanitizeCheck_of_none (by rw [hpnvm, hcsan, hunvm, hsan])] at heq
  rw [heq]
  have hsuite : (poolCheck v (rgOf u k)).suite k = erasedSuite u k (s.suite k).eraseCount := by
    rw [State.suite, psuites, rscu]
    exact Tbl.getD_put_same _ _ _ _
  refine ⟨?_, ?_, ?_, ?_⟩
  · rw [hsuite, erasedSuite]
  · rw [hsuite, erasedSuite]
    dsimp only
    split
    · exact .inl rfl
    · exact .inr rfl
  · rw [perasing, rscu]
    exact Tbl.find_del_same _ _
  · rw [hpnvm, hcunits, hunvm]

/-! ## Folding (R389, R390) -/

/-- Every offer takes the next operation number. -/
theorem nextOp_offers (f : State → Nat → Nat × DieOp) (l : List Nat) (s : State) :
    (s.each l fun s m => offer s (f s m).1 (f s m).2).cel.nextOp = s.cel.nextOp + l.length := by
  induction l generalizing s with
  | nil => rfl
  | cons m l ih =>
    refine (ih _).trans ?_
    rw [show (offer s (f s m).1 (f s m).2).cel.nextOp = s.cel.nextOp + 1 from rfl, List.length_cons, Nat.add_assoc, Nat.add_comm 1]

/-- A fold source may fold its next destination row. -/
structure MayFold (s : State) (k : Nat) : Prop where
  source : (s.suite k).foldSource = true
  closed : (s.suite k).st = 2
  goes : k ∉ s.scu.foldStopped
  thawed : s.pwr.frozen = false
  idle : Tbl.has s.scu.erasing (2 ^ 24 + k) = false
  rows : 4 * ((s.suite k).folded + 1) ≤ s.scu.geo.rows
  settled : ∀ i, i < 4 → rowSettled s k (4 * (s.suite k).folded + i) = true

theorem MayFold.not_held (h : MayFold s k) : ¬ ((!(s.suite k).foldSource || !(decide ((s.suite k).st = 1) || decide ((s.suite k).st = 2)) ||
    s.scu.foldStopped.contains k || s.pwr.frozen || Tbl.has s.scu.erasing (2 ^ 24 + k) || decide (s.scu.geo.rows < 4 * ((s.suite k).folded + 1)) ||
    !([0, 1, 2, 3].all fun i => rowSettled s k (4 * (s.suite k).folded + i))) = true) := by
  have hrows := h.rows
  simp only [h.source, h.closed, h.thawed, h.idle, List.contains_eq_mem, h.goes, List.all_cons, List.all_nil,
    h.settled 0 (by decide), h.settled 1 (by decide), h.settled 2 (by decide), h.settled 3 (by decide)]
  simp
  omega

/-- The row is on its way to the members of the destination. -/
def foldBegun (s : State) (k dest : Nat) (l : List Nat) : State :=
  (s.modScu fun y => { y with erasing := Tbl.put y.erasing (2 ^ 24 + k) l }).modSuite dest fun y => { y with
    filled := y.filled + (l.length - 1) * 4 * slotsPerWl (s.modScu fun y => { y with erasing := Tbl.put y.erasing (2 ^ 24 + k) l }) 1
    programHour := if y.filled = 0 then nowHour (s.modScu fun y => { y with erasing := Tbl.put y.erasing (2 ^ 24 + k) l }) else y.programHour }

/-- The program that folds a row of a source on a member's die. -/
def foldOp (s : State) (die k m : Nat) (x : Suite) (row : Nat) : DieOp :=
  { kind := 2, die := die, planes := 2 ^ s.scu.geo.planes - 1, cwCount := 0, cell := 4, block := x.foldDest % 2 ^ 20 / 32, page := row, cls := 0,
    suite := some (x.foldDest % 2 ^ 20), issuer := .fold k x.folded m }

/-- With every member in place the row is programmed at each of them. -/
theorem foldRow_programs (h : MayFold s k) (hsrc : (s.suite k).removed = []) (hdst : (s.suite ((s.suite k).foldDest % 2 ^ 20)).removed = []) :
    ∃ t, exec (.foldRow k) s = .next t ∧ Only [.hall, .pan, .cel, .scu, .free] s t ∧
      Tbl.find t.scu.erasing (2 ^ 24 + k) = some (membersAt (s.suite k) (4 * (s.suite k).folded)) ∧
      t.cel.nextOp = s.cel.nextOp + (membersAt (s.suite k) (4 * (s.suite k).folded)).length := by
  have hall : ¬ ((!(s.suite k).removed.isEmpty || !(s.suite ((s.suite k).foldDest % 2 ^ 20)).removed.isEmpty) = true) := by
    rw [hsrc, hdst]
    decide
  obtain ⟨f, hexec⟩ : ∃ f : State → Nat → Nat × DieOp, exec (.foldRow k) s = .next ((foldBegun s k ((s.suite k).foldDest % 2 ^ 20)
      (membersAt (s.suite k) (4 * (s.suite k).folded))).each (membersAt (s.suite k) (4 * (s.suite k).folded)) fun s m => offer s (f s m).1 (f s m).2) := by
    refine ⟨fun u m => ((memberDie u k m).1, foldOp u (memberDie u k m).2 k m (s.suite k)
      ((s.suite k).foldDest / 2 ^ 20 % 4 * s.scu.geo.rows / 4 + (s.suite k).folded)), ?_⟩
    show execFoldRow k s = _
    simp only [execFoldRow, if_neg h.not_held, if_neg hall]
    rfl
  have hscu : ∀ u : State, u = (foldBegun s k ((s.suite k).foldDest % 2 ^ 20) (membersAt (s.suite k) (4 * (s.suite k).folded))).each
      (membersAt (s.suite k) (4 * (s.suite k).folded)) (fun s m => offer s (f s m).1 (f s m).2) →
      u.scu = (foldBegun s k ((s.suite k).foldDest % 2 ^ 20) (membersAt (s.suite k) (4 * (s.suite k).folded))).scu := by
    rintro _ rfl
    exact each_keeps_eq State.scu (fun s m => (offer_mask (sub_refl _) (mask_refl _ s)).2 .scu (by decide)) _ _
  refine ⟨_, hexec, only_of_exec hexec, ?_, nextOp_offers f _ _⟩
  rw [hscu _ rfl]
  exact Tbl.find_put_same _ _ _

/-- A source that has lost a member stops folding. -/
theorem foldRow_stops (h : MayFold s k) (hsrc : (s.suite k).removed ≠ []) : exec (.foldRow k) s = .next (foldStop s k) := by
  have hgone : (!(s.suite k).removed.isEmpty || !(s.suite ((s.suite k).foldDest % 2 ^ 20)).removed.isEmpty) = true := by simp [hsrc]
  show execFoldRow k s = _
  simp only [execFoldRow, if_neg h.not_held, if_pos hgone]

/-! ## Consolidation (R388) -/

/-- Consolidation may take its next extent. -/
structure MayConsolidate (s : State) : Prop where
  enabled : s.on SCU_CTL.CONS_EN = true
  wanted : s.pan.consolidating = true
  idle : s.scu.cons = none
  awake : asleep s = false
  thawed : s.pwr.frozen = false

theorem MayConsolidate.not_held (h : MayConsolidate s) :
    ¬ ((!s.on SCU_CTL.CONS_EN || !s.pan.consolidating || s.scu.cons.isSome || asleep s || s.pwr.frozen) = true) := by
  simp [h.enabled, h.wanted, h.idle, h.awake, h.thawed]

theorem consolidationStep_parked (h : MayConsolidate s) {e : Nat × Nat × ExtEnt} (hall : ((allExtents s).filter fun e => eligibleExt s e.1 e.2.1) = [e])
    (hparked : e.2.2.isParked = true) : exec .consolidationStep s = .next (startCons s e.1 e.2.1) := by
  show execConsolidationStep s = _
  simp only [execConsolidationStep, if_neg h.not_held, hall, List.find?_cons, hparked]

theorem consolidationStep_idle (h : MayConsolidate s) (hall : ((allExtents s).filter fun e => eligibleExt s e.1 e.2.1) = []) :
    exec .consolidationStep s = .next s := by
  show execConsolidationStep s = _
  simp only [execConsolidationStep, if_neg h.not_held, hall, List.find?_nil, List.foldl_nil]

/-- Settles O45: a victim by its start, an erase by what its end leaves, a fold by its members. -/
theorem sculleryReclaim : Obligations.SculleryReclaim := by
  unfold Obligations.SculleryReclaim
  intro s rg k m m2 cause f j r e hinv
  have hgo : (s.suite k).st = 1 → (s.suite k).filled ≠ 0 → (s.suite k).programHour + s.rd SCU_CARE_CFG.OPEN_MAX_H ≤ nowHour s →
      ¬ ((decide ((s.suite k).st ≠ 1) || decide ((s.suite k).filled = 0) ||
        decide (nowHour s < (s.suite k).programHour + s.rd SCU_CARE_CFG.OPEN_MAX_H)) = true) := fun hst hfilled hold => by
    simp [hst, hfilled, hold]
  refine ⟨fun hrg hfrozen hbusy => ?_, fun hbusy => ⟨?_, ?_⟩, fun hst her hfronts hsan => ?_, fun hst her hne hsan hbit => ?_, fun hst => ⟨?_, ?_⟩,
    fun hr hsrc hst hgo hfrozen hidle hj hrows hset => ?_, fun hen hwant hidle hawake hfrozen => ?_, fun hst hfilled hold => ⟨fun hf => ?_, fun hf => ?_⟩⟩
  · have hmay : MayChoose s rg := ⟨hrg, hfrozen, hbusy⟩
    refine ⟨reclaimVictimChoice_resumes hmay, fun hnone hfold hrec hen hchoice => ?_, fun hdue hleast => ?_, fun hdue => ?_⟩
    · have hexec := reclaimVictimChoice_takes hmay hnone hfold hrec hen hchoice
      exact ⟨_, hexec, only_of_exec hexec, startVictim_source s rg k cause⟩
    · have hexec := staticWearDue_takes hmay hdue hleast
      obtain ⟨hsrc, hothers, hrecl⟩ := startVictim_source s rg k 4
      exact ⟨_, hexec, only_of_exec hexec, hsrc, hothers, hrecl, startVictim_static s rg k⟩
    · show execStaticWearDue rg s = _
      simp only [execStaticWearDue, hdue, Bool.not_false, Bool.or_true, if_true]
  · show execReclaimVictimChoice rg s = _
    simp only [execReclaimVictimChoice, hbusy, Bool.or_true, if_true]
  · show execStaticWearDue rg s = _
    simp only [execStaticWearDue, hbusy, Bool.or_true, Bool.true_or, if_true]
  · have hexec : exec (.suiteEraseDone k) s = .next (suiteErased s k) := congrArg Host.Outcome.next (if_pos (by simp [hst, Tbl.getD, her]))
    exact ⟨_, hexec, only_of_exec hexec, suiteErased_leaves hfronts hsan⟩
  · have hexec : exec (.eraseFail k m) s = .next (eraseFailed s k m) := by
      have hgo : ¬ ((decide ((s.suite k).st ≠ 5) || !(Tbl.getD s.scu.erasing k []).contains m) = true) := by simp [hst, Tbl.getD, her]
      have hkeep : ¬ (eraseFailed s k m).nvm.sanitize = some 2 := by
        rw [sanitize_eraseFailed her, hsan]
        exact nofun
      show execEraseFail k m s = _
      simp only [execEraseFail, if_neg hgo, if_neg hkeep]
    exact ⟨_, hexec, only_of_exec hexec, eraseFailed_of_erasing her hbit⟩
  · exact congrArg Host.Outcome.next (if_neg (by simp [hst]))
  · show execEraseFail k m s = _
    simp only [execEraseFail, ne_eq, hst, not_false_eq_true, decide_true, Bool.true_or, if_true]
  · subst hr hj
    have hmay : MayFold s k := ⟨hsrc, hst, hgo, hfrozen, hidle, hrows, hset⟩
    exact ⟨foldRow_programs hmay, foldRow_stops hmay⟩
  · have hmay : MayConsolidate s := ⟨hen, hwant, hidle, hawake, hfrozen⟩
    exact ⟨consolidationStep_parked hmay, consolidationStep_idle hmay⟩
  · obtain ⟨front, hfound, hkey⟩ := Option.map_eq_some_iff.1 hf
    subst hkey
    show execOpenMaxExpiry k s = _
    simp only [execOpenMaxExpiry, if_neg (hgo hst hfilled hold), hfound]
  · show execOpenMaxExpiry k s = _
    simp only [execOpenMaxExpiry, if_neg (hgo hst hfilled hold), hf]

end Sys2Proof.Machine
end

section
/-!
PROOF. The Scullery's care (R391 to R399): retention, the patrol, a lost port's walk, lifetime counts and the latched record.
-/
namespace Sys2Proof.Machine

variable {s t : State} {n k : Nat}

/-! ## The walk over a lost port (R396) -/

theorem walk_of_mask {μ : Nat} (h : Mask μ s t) (hm : μ.testBit 15 = false) : t.scu.walk = s.scu.walk := congrArg Scullery.walk (h.2 .scu hm)

theorem walk_noteLedger (s : State) (r : JRec) : (noteLedger s r).scu.walk = s.scu.walk := by
  unfold noteLedger
  split
  · rfl
  · rfl

theorem walk_mapChange (s : State) (r : JRec) : (mapChange s r).scu.walk = s.scu.walk := by
  unfold mapChange
  split
  · rfl
  · refine (walk_of_mask (jAppend_mask (sub_refl _) (mask_refl _ _)) (by decide)).trans ((walk_noteLedger _ r).trans ?_)
    split
    · exact walk_of_mask (touchLine_mask (sub_refl _) (modPan_mask (by decide) (mask_refl _ s))) (by decide)
    · rfl

/-- What a lost range tells the Hall, the hosts and the manager. -/
theorem walk_rangeLost (s : State) (ns u k cause : Nat) (deferred : Bool) (port : Nat) : (rangeLost s ns u k cause deferred port).scu.walk = s.scu.walk := by
  unfold rangeLost
  split
  · rfl
  · have hmap : (mapChange (leaveOverlay s ns u k) { typ := 0x07, nsid := ns, count := k, first := u, aux := cause }).scu.walk = s.scu.walk :=
      (walk_mapChange _ _).trans (walk_of_mask (leaveOverlay_mask (sub_refl _) (mask_refl _ s)) (by decide))
    dsimp only
    split
    · exact (walk_of_mask (tellManager_mask (by decide) (asyncAll_mask (by decide) (modHall_mask (by decide) (mask_refl 5376 _)))) (by decide)).trans hmap
    · exact (walk_of_mask (each_mask (asyncAll_mask (by decide) (modHall_mask (by decide) (mask_refl 5376 _)))
        fun s x h => modHall_mask (by decide) (jAppend_mask (by decide) h)) (by decide)).trans hmap

theorem walk_loseWithPort (s : State) (n ns u : Nat) : (loseWithPort s n ns u).scu.walk = s.scu.walk := by
  unfold loseWithPort
  dsimp only
  split
  · exact walk_rangeLost ..
  · exact walk_rangeLost ..

/-- The units that the map names on a port. -/
def namedOn (s : State) (n : Nat) : List (Nat × Nat) :=
  s.scu.suites.flatMap fun e => ((liveUnitsOf s e.1).filter fun u => (locate s e.1 u.2.2).any fun p => p.port == n).map fun u => (u.1, u.2.1)

/-- The units of the overlay whose programs had passed on a port. -/
def stagedOn (s : State) (n : Nat) : List (Nat × Nat) := s.pan.overlay.filterMap fun e => match e.2.st with
  | .passed k u => if (locate s k u).any fun p => p.port == n then some (e.1 / 2 ^ 40, e.1 % 2 ^ 40) else none
  | _ => none

/-- A walk that has ended is not asked for again. -/
theorem ledgerWalkLost_ends (hn : n ∈ s.scu.walk) : ∃ t, exec (.ledgerWalkLost n) s = .next t ∧
    Only [.regs, .atc, .hall, .nvm, .pan, .ldr, .cel, .scu, .sta] s t ∧ n ∉ t.scu.walk := by
  have hgo : ¬ ((!s.scu.walk.contains n) = true) := by simp [hn]
  have hexec : exec (.ledgerWalkLost n) s = .next (settleCheck (((s.modScu fun x => { x with walk := x.walk.filter fun m => m != n }).each (namedOn s n)
      fun s u => if Tbl.has s.pan.overlay (unitKey u.1 u.2) then s else loseWithPort s n u.1 u.2).each (stagedOn s n)
        fun s u => rangeLost s u.1 u.2 1 3 true n)) := by
    show execLedgerWalkLost n s = _
    simp only [execLedgerWalkLost, if_neg hgo]
    rfl
  refine ⟨_, hexec, only_of_exec hexec, ?_⟩
  rw [walk_of_mask (settleCheck_mask (sub_refl _) (mask_refl _ _)) (by decide),
    each_keeps_eq (fun s => s.scu.walk) (fun s u => walk_rangeLost ..) (stagedOn s n),
    each_keeps_eq (fun s => s.scu.walk) (fun s u => ?_) (namedOn s n)]
  · show n ∉ s.scu.walk.filter fun m => m != n
    simp
  · split
    · rfl
    · exact walk_loseWithPort ..

/-! ## The patrol (R391, R392) -/

/-- The status of the patrol as a lap ends: the time it took, one lap more, not late. -/
def lapCounted (s : State) : State :=
  ((s.wr SCU_PATROL_STATUS.LAP_LAST_S (s.pwr.opSec - s.scu.lapStart)).wr SCU_PATROL_STATUS.LAPS (s.rd SCU_PATROL_STATUS.LAPS + 1)).clr1 SCU_PATROL_STATUS.LATE

theorem lapCounted_mask (s : State) : Mask 1 s (lapCounted s) := clr1_mask (sub_refl _) (wr_mask (sub_refl _) (wr_mask (sub_refl _) (mask_refl _ s)))

theorem lapCounted_status (hs : Tbl.sorted s.regs = true) : (lapCounted s).rd SCU_PATROL_STATUS.LAPS = (s.rd SCU_PATROL_STATUS.LAPS + 1) % 2 ^ 16 ∧
    (lapCounted s).rd SCU_PATROL_STATUS.LAP_LAST_S = (s.pwr.opSec - s.scu.lapStart) % 2 ^ 32 ∧ (lapCounted s).on SCU_PATROL_STATUS.LATE = false ∧
    RegsBut s (lapCounted s) [SCU_PATROL_STATUS.LAPS, SCU_PATROL_STATUS.LAP_LAST_S, SCU_PATROL_STATUS.LATE] := by
  have hs1 : Tbl.sorted (s.wr SCU_PATROL_STATUS.LAP_LAST_S (s.pwr.opSec - s.scu.lapStart)).regs = true := wr_sorted hs
  have hs2 : Tbl.sorted ((s.wr SCU_PATROL_STATUS.LAP_LAST_S (s.pwr.opSec - s.scu.lapStart)).wr SCU_PATROL_STATUS.LAPS (s.rd SCU_PATROL_STATUS.LAPS + 1)).regs =
    true := wr_sorted hs1
  refine ⟨?_, ?_, on_clr1_same hs2 (by decide), ?_⟩
  · exact rd_wr_bits hs2 rfl rfl rfl (State.rd_wr_same _ _ _ hs1 (by decide))
  · exact rd_wr_bits hs2 rfl rfl rfl (rd_wr_bits hs1 rfl rfl rfl (State.rd_wr_same _ _ _ hs (by decide)))
  · exact ((regsBut_wr hs (by decide) (by simp)).wr hs1 (by decide) (by simp)).wr hs2 (by decide) (by simp)

/-- A lap that has no suite left ends, and the next begins. -/
theorem patrolRead_laps (hinv : s.inv = true) (hen : s.on SCU_CTL.PATROL_EN = true) (hawake : asleep s = false) (hthawed : s.pwr.frozen = false)
    (hpast : ∀ k ∈ patrolSuites s, k < s.scu.lapPos) :
    ∃ t, exec .patrolRead s = .next t ∧ Only [.regs, .scu] s t ∧ t.rd SCU_PATROL_STATUS.LAPS = (s.rd SCU_PATROL_STATUS.LAPS + 1) % 2 ^ 16 ∧
      t.rd SCU_PATROL_STATUS.LAP_LAST_S = (s.pwr.opSec - s.scu.lapStart) % 2 ^ 32 ∧ t.on SCU_PATROL_STATUS.LATE = false ∧
      RegsBut s t [SCU_PATROL_STATUS.LAPS, SCU_PATROL_STATUS.LAP_LAST_S, SCU_PATROL_STATUS.LATE] ∧
      t.scu = { s.scu with lapStart := s.pwr.opSec, lapPos := 0, lapRow := 0 } := by
  have hgo : ¬ ((!s.on SCU_CTL.PATROL_EN || asleep s || s.pwr.frozen) = true) := by simp [hen, hawake, hthawed]
  have hnone : (patrolSuites s).find? (fun k => decide (s.scu.lapPos ≤ k)) = none := List.find?_eq_none.2 fun k hk => by
    simpa using hpast k hk
  have hmask := lapCounted_mask s
  have hexec : exec .patrolRead s = .next ((lapCounted s).modScu fun x => { x with lapStart := (lapCounted s).pwr.opSec, lapPos := 0, lapRow := 0 }) := by
    show execPatrolRead s = _
    simp only [execPatrolRead, if_neg hgo, hnone]
    rfl
  rw [hmask.2 .pwr (by decide)] at hexec
  obtain ⟨hlaps, hlast, hlate, hbut⟩ := lapCounted_status (regs_sorted hinv)
  refine ⟨_, hexec, only_of_mask (modScu_mask (m := 32769) (by decide) (mask_mono (by decide) hmask)) (by decide),
    (rd_of_regs (State.modScu_regs _ _)).trans hlaps, (rd_of_regs (State.modScu_regs _ _)).trans hlast,
    (on_of_regs (State.modScu_regs _ _)).trans hlate, hbut.of_regs (State.modScu_regs _ _), ?_⟩
  rw [State.modScu_scu, hmask.2 .scu (by decide)]

/-- A lap past its limit is late, with a record. -/
theorem patrolLateExpiry_notes (hinv : s.inv = true) (hen : s.on SCU_CTL.PATROL_EN = true) (hlate : s.on SCU_PATROL_STATUS.LATE = false)
    (hpast : 3 * patrolPeriod s ≤ 2 * (s.pwr.opSec - s.scu.lapStart)) :
    ∃ t r, exec .patrolLateExpiry s = .next t ∧ Only [.regs, .atc] s t ∧ t.on SCU_PATROL_STATUS.LATE = true ∧ RegsBut s t [SCU_PATROL_STATUS.LATE] ∧
      t.atc.ring.getLast? = some r ∧ r.code = 0x0081 ∧ r.sev = 3 := by
  have hexec : exec .patrolLateExpiry s = .next (post (s.set1 SCU_PATROL_STATUS.LATE) 0x0081 3 6 0xFF (patrolProgress s)) :=
    congrArg Host.Outcome.next (if_pos (by simp [hen, hlate, hpast]))
  rw [post_of_sev (by decide)] at hexec
  have hregs : ∀ r, (appendRec (s.set1 SCU_PATROL_STATUS.LATE) r).regs = (s.set1 SCU_PATROL_STATUS.LATE).regs := fun r =>
    (appendRec_mask (sub_refl _) (mask_refl _ _)).2 .regs (by decide)
  exact ⟨_, _, hexec, only_of_mask (appendRec_mask (m := 9) (by decide) (set1_mask (by decide) (mask_refl _ s))) (by decide),
    (on_of_regs (hregs _)).trans (on_set1_same (regs_sorted hinv) (by decide) (by decide)),
    (regsBut_set1 (regs_sorted hinv) (by decide)).of_regs (hregs _), getLast?_ring_appendRec _ _, rfl, rfl⟩

/-! ## Lifetime counts (R399) -/

/-- The counts of a port are added to its lifetime counts. -/
def addPort (s : State) (n : Nat) : State :=
  (s.modNvm fun x => { x with ports := Tbl.modD x.ports n {} fun p =>
    { p with
      retries := satInc 32 p.retries ((portCounts s n).getD 0 0 - (Tbl.getD s.scu.counted n []).getD 0 0)
      retrains := satInc 32 p.retrains ((portCounts s n).getD 1 0 - (Tbl.getD s.scu.counted n []).getD 1 0)
      soft := satInc 32 p.soft ((portCounts s n).getD 2 0 - (Tbl.getD s.scu.counted n []).getD 2 0)
      retryReads := satInc 32 p.retryReads ((portCounts s n).getD 3 0 - (Tbl.getD s.scu.counted n []).getD 3 0)
      uncorr := satInc 32 p.uncorr ((portCounts s n).getD 4 0 - (Tbl.getD s.scu.counted n []).getD 4 0) } }).modScu
    fun x => { x with counted := Tbl.put x.counted n (portCounts s n) }

theorem addCounts_eq (s : State) : addCounts s = s.each ((List.range 64).filter (populated s)) addPort := rfl

/-- The books of a port: the counts added last, its lifetime counts, and what it counts now. -/
structure PortBooks where
  added : Option (List Nat)
  life : PortLife
  now : List Nat

def portBooks (s : State) (n : Nat) : PortBooks := { added := Tbl.find s.scu.counted n, life := Tbl.getD s.nvm.ports n {}, now := portCounts s n }

/-- What a port has counted is added last, and the increase of its retransmissions joins its lifetime count. -/
def PortBooks.Brought (a b : PortBooks) : Prop :=
  b.added = some a.now ∧ b.life.retries = min (a.life.retries + (a.now.getD 0 0 - (a.added.getD []).getD 0 0)) (2 ^ 32 - 1)

theorem portBooks_addPort_same (s : State) (n : Nat) : (portBooks s n).Brought (portBooks (addPort s n) n) :=
  ⟨Tbl.find_put_same _ _ _, congrArg PortLife.retries (Tbl.getD_setD_same _ _ _ _)⟩

theorem portBooks_addPort_other {m : Nat} (h : n ≠ m) (s : State) : portBooks (addPort s m) n = portBooks s n := by
  have hfind : Tbl.find (addPort s m).scu.counted n = Tbl.find s.scu.counted n := Tbl.find_put_other _ _ h
  have hports : Tbl.getD (addPort s m).nvm.ports n {} = Tbl.getD s.nvm.ports n {} := Tbl.getD_setD_other _ _ _ _ h
  have hcounts : portCounts (addPort s m) n = portCounts s n := rfl
  rw [portBooks, portBooks, hfind, hports, hcounts]

/-- A port that is not among those added stands. -/
theorem portBooks_each_other (l : List Nat) (h : n ∉ l) (s : State) : portBooks (s.each l addPort) n = portBooks s n := by
  induction l generalizing s with
  | nil => rfl
  | cons m l ih =>
    rw [List.mem_cons, not_or] at h
    exact (ih h.2 _).trans (portBooks_addPort_other h.1 s)

/-- Every port of the list is added once. -/
theorem portBooks_each (l : List Nat) (hl : l.Nodup) (hn : n ∈ l) (s : State) : (portBooks s n).Brought (portBooks (s.each l addPort) n) := by
  induction l generalizing s with
  | nil => exact absurd hn List.not_mem_nil
  | cons m l ih =>
    obtain ⟨hm, hl⟩ := List.nodup_cons.1 hl
    show (portBooks s n).Brought (portBooks ((addPort s m).each l addPort) n)
    by_cases hnm : n = m
    · subst hnm
      rw [portBooks_each_other l hm]
      exact portBooks_addPort_same s n
    · rw [← portBooks_addPort_other hnm s]
      exact ih hl (List.mem_of_ne_of_mem hnm hn) _

/-- Settles O46: each event by the fields it writes; the walk over a lost port by the operations that keep the list of walks. -/
theorem sculleryCare : Obligations.SculleryCare := by
  unfold Obligations.SculleryCare
  intro s k n v hinv
  refine ⟨fun hst hfilled hold => ?_, fun hyoung => ?_, fun hen hawake hthawed hpast => patrolRead_laps hinv hen hawake hthawed hpast, fun hoff => ⟨?_, ?_⟩,
    fun hen hlate hpast => patrolLateExpiry_notes hinv hen hlate hpast, ledgerWalkLost_ends, fun hn => ?_, fun hn hpop => ?_, ?_,
    fun hrun hcold => ?_, fun hrun => ?_⟩
  · have hexec : exec (.retentionAgeExpiry k) s = .next (s.modSuite k fun x => { x with refreshDue := true }) :=
      congrArg Host.Outcome.next (if_pos (by simp [hst, hfilled, hold]))
    exact ⟨_, hexec, only_of_exec hexec, suite_modSuite_same _ _ _, fun i hi => suite_modSuite_other _ hi⟩
  · exact congrArg Host.Outcome.next (if_neg (by simp [hyoung]))
  · show execPatrolRead s = _
    simp only [execPatrolRead, hoff, Bool.not_false, Bool.true_or, if_true]
  · exact congrArg Host.Outcome.next (if_neg (by simp [hoff]))
  · show execLedgerWalkLost n s = _
    simp only [execLedgerWalkLost]
    exact if_pos (by simp [hn])
  · have hexec : exec .lifetimeCountUpdate s = .next (s.each ((List.range 64).filter (populated s)) addPort) := congrArg Host.Outcome.next (addCounts_eq s)
    exact ⟨_, hexec, only_of_exec hexec, portBooks_each _ (List.nodup_range.filter _) (List.mem_filter.2 ⟨List.mem_range.2 hn, hpop⟩) s⟩
  · have hs := regs_sorted hinv
    have hexec : exec (.suiteIdxWrite v) s = .next ((s.wr SCU_SUITE_IDX.IDX (v.toNat % 2 ^ 20)).modScu fun x =>
        { x with snap := v.toNat % 2 ^ 20, snapRec := s.suite (v.toNat % 2 ^ 20), snapValid := liveUnits s (v.toNat % 2 ^ 20) }) := rfl
    have hidx : (s.wr SCU_SUITE_IDX.IDX (v.toNat % 2 ^ 20)).rd SCU_SUITE_IDX.IDX = v.toNat % 2 ^ 20 % 2 ^ 20 := State.rd_wr_same _ _ _ hs (by decide)
    refine ⟨_, hexec, only_of_mask (modScu_mask (m := 32769) (by decide) (wr_mask (by decide) (mask_refl _ s))) (by decide),
      (rd_of_regs (State.modScu_regs _ _)).trans (hidx.trans (Nat.mod_mod _ _)),
      (regsBut_wr hs (by decide) List.mem_cons_self).of_regs (State.modScu_regs _ _), ?_⟩
    rw [State.modScu_scu, (wr_mask (sub_refl _) (mask_refl _ s)).2 .scu (by decide)]
  · have hexec : exec .tempHistMinute s = .next (s.modNvm fun x => { x with tempHist := Tbl.put x.tempHist 0 (satInc 32 (Tbl.getD x.tempHist 0 0)) }) := by
      refine congrArg Host.Outcome.next ((if_pos hrun).trans ?_)
      rw [if_pos hcold]
    exact ⟨_, hexec, only_of_exec hexec, Tbl.find_put_same _ _ _, fun i hi => Tbl.find_put_other _ _ hi⟩
  · exact congrArg Host.Outcome.next (if_neg (by simp [hrun]))

end Sys2Proof.Machine
end

section
/-!
PROOF. DRAM reads (R407 to R419).
-/
namespace Sys2Proof.Machine

/-! ## A burst listed as the clear left it

The table of the bursts written since the clear may list one that is as the clear left it; a read writes it back, which takes it out of the
table. Its place there is shared by an address past the data space, for which the clear's burst is another one. -/

/-- The burst at 64 as the clear writes it. -/
def clearedBurst : Burst := { c0 := casEncode 0, c1 := casEncode 0, addr := 1, gen := 0 }

/-- Both subchannels in service and cleared, with the burst at 64 listed. -/
def listedState : State :=
  { ((((State.reset.wr BSM_CTL.ENABLE 1).wr BSM_STATUS.CLEAR_DONE 1).wr BSM_STATUS.IN_SERVICE 3).wr (BSM_SUBCH_STATUS.STATE 1) 1) with
    bsm := { dram := [(2 ^ 58, clearedBurst)] } }

/-- ADDR of the burst that a state holds for an address. -/
def addrAt (o : Host.Outcome State Fault Refusal) (i : Nat) : Nat :=
  match o with
  | .next t => (getBurst t i).addr
  | _ => 1

theorem served_listedState : listedState.inv = true ∧ burstServed listedState 64 = true ∧ remapOf listedState 0 = none ∧ regionAt listedState 64 = none := by
  decide +kernel

theorem getBurst_listedState : getBurst listedState 64 = { c0 := casEncode 0, c1 := casEncode 0, addr := 1, gen := listedState.rd BSM_STATUS.GEN } ∧
    (getBurst listedState (2 ^ 65)).addr = 1 := by decide +kernel

/-- After the read the address that shares the place finds what the clear left for it. -/
theorem addrAt_dramBurstRead : addrAt (exec (.dramBurstRead 64 false [] [] .none) listedState) (2 ^ 65) = 0 := by decide +kernel

/-- Refutes O47: reading a sound burst changes what the model holds for an address past the data space that shares its place in the table. -/
theorem not_dramReads : ¬ Obligations.DramReads := by
  unfold Obligations.DramReads
  intro h
  obtain ⟨hinv, hserved, hremap, hregion⟩ := served_listedState
  obtain ⟨hburst, hother⟩ := getBurst_listedState
  obtain ⟨hsound, -⟩ := h listedState 64 0 0 0 .none hinv
  obtain ⟨⟨t, hexec, -, hkept, -⟩, -⟩ := hsound hserved rfl hremap hregion hburst
  have haddr := addrAt_dramBurstRead
  rw [hexec, addrAt, hkept, hother] at haddr
  exact absurd haddr (by decide)

end Sys2Proof.Machine
end

section
/-!
PROOF. The Basement's other events (R412 to R428): sweeps of the SRAM arrays, subchannels, remaps and lost contexts.
-/
namespace Sys2Proof.Machine

variable {s t : State} {k : Nat}

/-! ## The error log and its counts (R426, R428) -/

/-- The head of the log moves, and no other field. -/
theorem headMoved (hregs : t.regs = s.regs) (hs : Tbl.sorted s.regs = true) (seq lost : Nat) :
    Tbl.sorted ((t.wr BSM_LOG_HEAD.NEXT_SEQ seq).wr BSM_LOG_HEAD.LOST lost).regs = true ∧
    RegsBut s ((t.wr BSM_LOG_HEAD.NEXT_SEQ seq).wr BSM_LOG_HEAD.LOST lost) [BSM_LOG_HEAD.NEXT_SEQ, BSM_LOG_HEAD.LOST] := by
  have ht : Tbl.sorted t.regs = true := hregs ▸ hs
  exact ⟨wr_sorted (wr_sorted ht), ((regsBut_of_regs hregs).wr ht (by decide) (by simp)).wr (wr_sorted ht) (by decide) (by simp)⟩

theorem bsm_headMoved (t : State) (seq lost : Nat) : ((t.wr BSM_LOG_HEAD.NEXT_SEQ seq).wr BSM_LOG_HEAD.LOST lost).bsm = t.bsm :=
  (wr_mask (m := 1) (sub_refl _) (wr_mask (sub_refl _) (mask_refl _ t))).2 .bsm (by decide)

section
variable (s : State) (cls arr flags word synd : Nat)

/-- The Basement after an entry: the newest 256, and the next number. -/
theorem bsmLog_bsm : (bsmLog s cls arr flags word synd).bsm = { s.bsm with
    log := lastN 256 (s.bsm.log ++ [{ seq := s.bsm.logNext, cls := cls, arr := arr, flags := flags, word := word, synd := synd }])
    logNext := s.bsm.logNext + 1 } := by
  unfold bsmLog
  dsimp only
  rw [bsm_headMoved, State.modBsm_bsm]

theorem bsmLog_last : (bsmLog s cls arr flags word synd).bsm.log.getLast? =
    some { seq := s.bsm.logNext, cls := cls, arr := arr, flags := flags, word := word, synd := synd } := by
  have hring : 0 < 256 := by norm_num
  rw [bsmLog_bsm, lastN_append_getLast? hring]

variable {s}

theorem bsmLog_sorted (hs : Tbl.sorted s.regs = true) : Tbl.sorted (bsmLog s cls arr flags word synd).regs = true := by
  unfold bsmLog
  dsimp only
  exact (headMoved (State.modBsm_regs _ _) hs _ _).1

/-- An entry of the log moves the head of the log, and no other field. -/
theorem regsBut_bsmLog (hs : Tbl.sorted s.regs = true) : RegsBut s (bsmLog s cls arr flags word synd) [BSM_LOG_HEAD.NEXT_SEQ, BSM_LOG_HEAD.LOST] := by
  rw [bsmLog]
  exact (headMoved (State.modBsm_regs _ _) hs _ _).2

end

/-- A field of another register than the head of the log stands. -/
theorem rd_bsmLog (hs : Tbl.sorted s.regs = true) {f : Fld} (hf : f.addr ≠ BSM_LOG_HEAD.addr) (cls arr flags word synd : Nat) :
    (bsmLog s cls arr flags word synd).rd f = s.rd f :=
  (regsBut_bsmLog cls arr flags word synd hs).rd_eq fun x hx => by
    rcases List.mem_pair.1 hx with rfl | rfl
    · exact .inl hf
    · exact .inl hf

/-- The counts of the events of arrays 3 and 4. -/
theorem bsmCount_corrected {arr : Nat} (harr : arr = 3 ∨ arr = 4) (s : State) (word : Nat) : bsmCount s 2 arr word = s.bump BSM_ERR_CNT.SRAM_CE := by
  rcases harr with rfl | rfl
  · rfl
  · rfl

theorem bsmCount_uncorrectable {arr : Nat} (harr : arr = 3 ∨ arr = 4) (s : State) (word : Nat) : bsmCount s 3 arr word = s.bump BSM_ERR_CNT.SRAM_UE := by
  rcases harr with rfl | rfl
  · rfl
  · rfl

/-- A word that has not been reported is recorded once. -/
theorem memoryUe_new {arr word : Nat} (hnew : arr * 2 ^ 60 + word ∉ s.bsm.reported) (synd : Nat) : memoryUe s arr word synd =
    post (s.modBsm fun x => { x with reported := (arr * 2 ^ 60 + word) :: x.reported }) 0x0021 4 7 0xFF arr word synd := by
  have hnot : ¬ s.bsm.reported.contains (arr * 2 ^ 60 + word) = true := fun h => hnew (List.contains_iff_mem.1 h)
  rw [memoryUe, if_neg hnot]

/-- The record of an uncorrectable word names its array. -/
theorem memoryUe_record {u : State} {arr word : Nat} (hnew : arr * 2 ^ 60 + word ∉ u.bsm.reported) (harr : arr % 2 ^ 32 = arr) (synd : Nat) :
    ∃ r, Mask 65544 u (memoryUe u arr word synd) ∧ (memoryUe u arr word synd).bsm.log = u.bsm.log ∧ (memoryUe u arr word synd).regs = u.regs ∧
      (memoryUe u arr word synd).atc.ring.getLast? = some r ∧ r.code = 0x0021 ∧ r.p0 = arr := by
  have hmask : Mask 65544 u (memoryUe u arr word synd) := memoryUe_mask (sub_refl _) (mask_refl _ u)
  obtain ⟨r, hring, hcode, hp0, -⟩ := noted (sev := 4) (by decide) (u.modBsm fun x => { x with reported := (arr * 2 ^ 60 + word) :: x.reported }) 0x0021 7 0xFF
    arr word synd
  have hlog : (post (u.modBsm fun x => { x with reported := (arr * 2 ^ 60 + word) :: x.reported }) 0x0021 4 7 0xFF arr word synd).bsm.log = u.bsm.log := by
    rw [(post_mask (m := 8) (sub_refl _) (mask_refl _ _)).2 .bsm (by decide), State.modBsm_bsm]
  rw [← memoryUe_new hnew] at hring hlog
  exact ⟨r, hmask, hlog, hmask.2 .regs (by decide), hring, hcode, hp0.trans harr⟩

/-! ## SRAM sweeps (R417) -/

section
variable {arr : Nat} (harr : arr = 3 ∨ arr = 4) (word st sm : Nat) (ss : Bool)
include harr

theorem sramSweep_eq (poison : Bool) :
    exec (.sramSweep arr word st sm ss poison) s = .next (sweepWord s arr word (BitVec.ofNat 16 st) (BitVec.ofNat 16 sm) ss poison true) :=
  congrArg Host.Outcome.next (if_pos (decide_eq_true (by omega)))

theorem sramSweep_clean (h : synDecode (BitVec.ofNat 16 st) (BitVec.ofNat 16 sm) ss = .clean) : exec (.sramSweep arr word st sm ss false) s = .next s := by
  rw [sramSweep_eq harr, sweepWord, h]
  rfl

end

/-- What a logged and counted event leaves: the count one higher up to its bound, and the entry at the end of the log. -/
structure Counted (s t : State) (f : Fld) (e : BsmLog) : Prop where
  mask : Mask 65537 s t
  sorted : Tbl.sorted t.regs = true
  count : t.rd f = min (s.rd f + 1) (2 ^ f.width - 1)
  last : t.bsm.log.getLast? = some e
  reported : t.bsm.reported = s.bsm.reported
  kept : RegsBut s t [f, BSM_LOG_HEAD.NEXT_SEQ, BSM_LOG_HEAD.LOST]

theorem counted_bsmLog (hs : Tbl.sorted s.regs = true) {f : Fld} (hf : f.addr ≠ BSM_LOG_HEAD.addr) (hw : f.lsb + f.width ≤ 64) (cls arr flags word synd : Nat) :
    Counted s ((bsmLog s cls arr flags word synd).bump f) f
      { seq := s.bsm.logNext, cls := cls, arr := arr, flags := flags, word := word, synd := synd } := by
  have hlog := bsmLog_sorted cls arr flags word synd hs
  have hbsm : ((bsmLog s cls arr flags word synd).bump f).bsm = (bsmLog s cls arr flags word synd).bsm :=
    (bump_mask (m := 1) (sub_refl _) (mask_refl _ _)).2 .bsm (by decide)
  refine ⟨bump_mask (by decide) (bsmLog_mask (sub_refl _) (mask_refl _ s)), bump_sorted hlog, ?_, ?_, ?_, ?_⟩
  · rw [rd_bump_same 1 hlog hw, rd_bsmLog hs hf]
  · rw [hbsm, bsmLog_last]
  · rw [hbsm, bsmLog_bsm]
  · exact (regsBut_mono (regsBut_bsmLog cls arr flags word synd hs) (by simp)).wr hlog hw (by simp)

section
variable {arr : Nat} (harr : arr = 3 ∨ arr = 4) (word st sm : Nat) (ss : Bool)
include harr

/-- A check bit that is wrong is logged and counted as corrected. -/
theorem sramSweep_check_eq (h : synDecode (BitVec.ofNat 16 st) (BitVec.ofNat 16 sm) ss = .check) :
    exec (.sramSweep arr word st sm ss false) s = .next ((bsmLog s 2 arr (b2n ss + 2 * b2n true + 4) word
      ((BitVec.ofNat 16 st).toNat + (BitVec.ofNat 16 sm).toNat * 2 ^ 16)).bump BSM_ERR_CNT.SRAM_CE) := by
  rw [sramSweep_eq harr, ← bsmCount_corrected harr _ word, sweepWord]
  simp only [h, Bool.false_eq_true, if_false]

theorem sramSweep_check (hs : Tbl.sorted s.regs = true) (h : synDecode (BitVec.ofNat 16 st) (BitVec.ofNat 16 sm) ss = .check) :
    ∃ t e, exec (.sramSweep arr word st sm ss false) s = .next t ∧ Only [.regs, .bsm] s t ∧
      t.rd BSM_ERR_CNT.SRAM_CE = min (s.rd BSM_ERR_CNT.SRAM_CE + 1) (2 ^ 16 - 1) ∧ t.bsm.log.getLast? = some e ∧ e.cls = 2 ∧ e.word = word ∧ e.arr = arr ∧
      RegsBut s t [BSM_ERR_CNT.SRAM_CE, BSM_LOG_HEAD.NEXT_SEQ, BSM_LOG_HEAD.LOST] := by
  obtain ⟨hmask, -, hcount, hlast, -, hkept⟩ := counted_bsmLog hs (f := BSM_ERR_CNT.SRAM_CE) (by decide) (by decide) 2 arr (b2n ss + 2 * b2n true + 4) word
    ((BitVec.ofNat 16 st).toNat + (BitVec.ofNat 16 sm).toNat * 2 ^ 16)
  have hexec := sramSweep_check_eq harr word st sm ss h (s := s)
  generalize (bsmLog s 2 arr (b2n ss + 2 * b2n true + 4) word ((BitVec.ofNat 16 st).toNat + (BitVec.ofNat 16 sm).toNat * 2 ^ 16)).bump BSM_ERR_CNT.SRAM_CE = u
    at hexec hmask hcount hlast hkept
  exact ⟨_, _, hexec, only_of_mask hmask (by decide), hcount, hlast, rfl, rfl, rfl, hkept⟩

theorem sramSweep_bad_eq (h : synDecode (BitVec.ofNat 16 st) (BitVec.ofNat 16 sm) ss = .bad) :
    exec (.sramSweep arr word st sm ss false) s = .next (memoryUe ((bsmLog s 3 arr (b2n ss + 2 * b2n true) word
      ((BitVec.ofNat 16 st).toNat + (BitVec.ofNat 16 sm).toNat * 2 ^ 16)).bump BSM_ERR_CNT.SRAM_UE) arr word
        ((BitVec.ofNat 16 st).toNat + (BitVec.ofNat 16 sm).toNat * 2 ^ 16)) := by
  have hlost : ∀ u, sramLost u arr word = u := fun u => by
    rcases harr with rfl | rfl
    · rfl
    · rfl
  rw [sramSweep_eq harr, ← bsmCount_uncorrectable harr _ word, sweepWord]
  simp only [h, Bool.false_eq_true, if_false, hlost]

/-- A word that cannot be corrected is logged, counted and recorded. -/
theorem sramSweep_bad (hs : Tbl.sorted s.regs = true) (h : synDecode (BitVec.ofNat 16 st) (BitVec.ofNat 16 sm) ss = .bad)
    (hnew : arr * 2 ^ 60 + word ∉ s.bsm.reported) : ∃ t e r, exec (.sramSweep arr word st sm ss false) s = .next t ∧ Only [.regs, .bsm, .atc] s t ∧
      t.rd BSM_ERR_CNT.SRAM_UE = min (s.rd BSM_ERR_CNT.SRAM_UE + 1) (2 ^ 16 - 1) ∧ t.bsm.log.getLast? = some e ∧ e.cls = 3 ∧
      t.atc.ring.getLast? = some r ∧ r.code = 0x0021 ∧ r.p0 = arr := by
  have harr32 : arr % 2 ^ 32 = arr := Nat.mod_eq_of_lt (by omega)
  obtain ⟨hmask, -, hcount, hlast, hreported, -⟩ := counted_bsmLog hs (f := BSM_ERR_CNT.SRAM_UE) (by decide) (by decide) 3 arr (b2n ss + 2 * b2n true) word
    ((BitVec.ofNat 16 st).toNat + (BitVec.ofNat 16 sm).toNat * 2 ^ 16)
  have hexec := sramSweep_bad_eq harr word st sm ss h (s := s)
  generalize (bsmLog s 3 arr (b2n ss + 2 * b2n true) word ((BitVec.ofNat 16 st).toNat + (BitVec.ofNat 16 sm).toNat * 2 ^ 16)).bump BSM_ERR_CNT.SRAM_UE = u
    at hexec hmask hcount hlast hreported
  obtain ⟨r, hmem, hlog, hregs, hring, hcode, hp0⟩ := memoryUe_record (u := u) (hreported ▸ hnew) harr32
    ((BitVec.ofNat 16 st).toNat + (BitVec.ofNat 16 sm).toNat * 2 ^ 16)
  exact ⟨_, _, r, hexec, only_of_mask (m := 65545) (mask_trans (mask_mono (by decide) hmask) (mask_mono (by decide) hmem)) (by decide),
    (rd_of_regs hregs).trans hcount, (congrArg List.getLast? hlog).trans hlast, rfl, hring, hcode, hp0⟩

/-- A poisoned word is logged alone. -/
theorem sramSweep_poisoned (hs : Tbl.sorted s.regs = true) : ∃ t e, exec (.sramSweep arr word st sm ss true) s = .next t ∧ Only [.regs, .bsm] s t ∧
    t.bsm.log.getLast? = some e ∧ e.cls = 6 ∧ RegsBut s t [BSM_LOG_HEAD.NEXT_SEQ, BSM_LOG_HEAD.LOST] := by
  have hexec : exec (.sramSweep arr word st sm ss true) s = .next (bsmLog s 6 arr (b2n ss + 2 * b2n true) word
      ((BitVec.ofNat 16 st).toNat + (BitVec.ofNat 16 sm).toNat * 2 ^ 16)) := sramSweep_eq harr ..
  exact ⟨_, _, hexec, only_of_mask (bsmLog_mask (sub_refl _) (mask_refl _ s)) (by decide), bsmLog_last .., rfl, regsBut_bsmLog _ _ _ _ _ hs⟩

end

/-! ## Subchannels (R424) -/

/-- The registers of a subchannel lie apart from those of the Basement as a whole. -/
theorem subch_addr_ne (k : Nat) : BSM_SUBCH_STATUS.addr k ≠ BSM_STATUS.addr ∧ BSM_SUBCH_STATUS.addr k ≠ BSM_CTL.addr := by
  constructor
  · show 0x480028 + 0x8 * k ≠ 0x480008
    omega
  · show 0x480028 + 0x8 * k ≠ 0x480000
    omega

theorem subch_addr_ne_head (hk : k < 2) : BSM_SUBCH_STATUS.addr k ≠ BSM_LOG_HEAD.addr := by
  show 0x480028 + 0x8 * k ≠ 0x480038
  omega

/-- The bits of a subchannel in the mask of those in service and in the mask of those retired. -/
theorem bitAt_putBits_clear : ∀ v < 4, ∀ k < 2, bitAt (putBits v k 1 0 % 2 ^ 2) k = false := by decide
theorem bitAt_or_set : ∀ v < 4, ∀ k < 2, bitAt ((v ||| 2 ^ k) % 2 ^ 2) k = true := by decide

/-- A subchannel's STATE, its cause, and the mask of those in service, as a retirement writes them. -/
def subOut (s : State) (k cause : Nat) : State :=
  ((s.wr (BSM_SUBCH_STATUS.STATE k) 3).wr (BSM_SUBCH_STATUS.RETIRE_CAUSE k) cause).wr BSM_STATUS.IN_SERVICE (putBits (s.rd BSM_STATUS.IN_SERVICE) k 1 0)

theorem subOut_fields (hs : Tbl.sorted s.regs = true) (hk : k < 2) {cause : Nat} (hcause : cause < 16) : Tbl.sorted (subOut s k cause).regs = true ∧
    (subOut s k cause).rd (BSM_SUBCH_STATUS.STATE k) = 3 ∧ (subOut s k cause).rd (BSM_SUBCH_STATUS.RETIRE_CAUSE k) = cause ∧
    bitAt ((subOut s k cause).rd BSM_STATUS.IN_SERVICE) k = false ∧ (subOut s k cause).rd BSM_CTL.RETIRE = s.rd BSM_CTL.RETIRE := by
  obtain ⟨hstatus, hctl⟩ := subch_addr_ne k
  have hs1 : Tbl.sorted (s.wr (BSM_SUBCH_STATUS.STATE k) 3).regs = true := wr_sorted hs
  have hs2 : Tbl.sorted ((s.wr (BSM_SUBCH_STATUS.STATE k) 3).wr (BSM_SUBCH_STATUS.RETIRE_CAUSE k) cause).regs = true := wr_sorted hs1
  have hwidth : BSM_STATUS.IN_SERVICE.lsb + BSM_STATUS.IN_SERVICE.width ≤ 64 := by decide
  refine ⟨wr_sorted hs2, ?_, ?_, ?_, ?_⟩
  · rw [subOut, State.rd_wr_apart _ hs2 hwidth (.inl hstatus)]
    exact rd_wr_bits hs1 rfl rfl rfl (State.rd_wr_same _ _ _ hs (Nat.le_of_ble_eq_true rfl))
  · rw [subOut, State.rd_wr_apart _ hs2 hwidth (.inl hstatus), State.rd_wr_same _ _ _ hs1 (Nat.le_of_ble_eq_true rfl)]
    exact Nat.mod_eq_of_lt hcause
  · rw [subOut, State.rd_wr_same _ _ _ hs2 hwidth]
    exact bitAt_putBits_clear _ (rd_lt s BSM_STATUS.IN_SERVICE) k hk
  · rw [subOut, State.rd_wr_apart _ hs2 hwidth (.inl (by decide)), State.rd_wr_apart _ hs1 (Nat.le_of_ble_eq_true rfl) (.inl hctl.symm),
      State.rd_wr_apart _ hs (Nat.le_of_ble_eq_true rfl) (.inl hctl.symm)]

/-- The rest of a retirement writes DEGRADED and the controllers' fatal state. -/
theorem regsBut_retireSub (hs : Tbl.sorted s.regs = true) (k cause : Nat) : RegsBut (subOut s k cause) (retireSub s k cause) [BSM_STATUS.DEGRADED] := by
  have hout : Tbl.sorted (subOut s k cause).regs = true := wr_sorted (wr_sorted (wr_sorted hs))
  unfold retireSub
  dsimp only
  split
  · exact regsBut_trans (regsBut_wr hout (by decide) List.mem_cons_self)
      (regsBut_of_regs ((each_mask (mask_refl 128 _) fun _ _ h => modHport_mask (sub_refl _) h).2 .regs (by decide)))
  · exact regsBut_wr hout (by decide) List.mem_cons_self

/-- A retired subchannel stands in its state with its cause, out of service. -/
theorem retireSub_fields (hs : Tbl.sorted s.regs = true) (hk : k < 2) {cause : Nat} (hcause : cause < 16) : subState (retireSub s k cause) k = 3 ∧
    (retireSub s k cause).rd (BSM_SUBCH_STATUS.RETIRE_CAUSE k) = cause ∧ subIn (retireSub s k cause) k = false ∧
    (retireSub s k cause).rd BSM_CTL.RETIRE = s.rd BSM_CTL.RETIRE := by
  obtain ⟨-, hstate, hwhy, hin, hretire⟩ := subOut_fields hs hk hcause
  obtain ⟨hstatus, -⟩ := subch_addr_ne k
  have hbut := regsBut_retireSub hs k cause
  refine ⟨(hbut.rd_eq fun x hx => ?_).trans hstate, (hbut.rd_eq fun x hx => ?_).trans hwhy, ?_, (hbut.rd_eq fun x hx => ?_).trans hretire⟩
  · cases List.mem_singleton.1 hx
    exact .inl hstatus
  · cases List.mem_singleton.1 hx
    exact .inl hstatus
  · rw [subIn, hbut.rd_eq fun x hx => ?_]
    · exact hin
    · cases List.mem_singleton.1 hx
      exact apart_bits rfl rfl
  · cases List.mem_singleton.1 hx
    exact .inl (by decide)

/-- The supervisor retires a subchannel before the first clear. -/
theorem subchannelRetire_retires (hinv : s.inv = true) (hk : k < 2) (hstate : subState s k ≠ 3) (hclear : s.on BSM_STATUS.CLEAR_DONE = false) :
    ∃ t, exec (.subchannelRetire k) s = .next t ∧ Only [.regs, .porch] s t ∧ subState t k = 3 ∧ t.rd (BSM_SUBCH_STATUS.RETIRE_CAUSE k) = 3 ∧
      bitAt (t.rd BSM_CTL.RETIRE) k = true ∧ subIn t k = false := by
  have hexec : exec (.subchannelRetire k) s = .next (retireSub (s.wr BSM_CTL.RETIRE (s.rd BSM_CTL.RETIRE ||| 2 ^ k)) k 3) := by
    show execSubchannelRetire k s = _
    have hgo : (decide (k < 2) && subState s k != 3) = true := by simp [hk, hstate]
    simp only [execSubchannelRetire, when_true hgo, hclear, subRetired, Bool.not_false, if_true]
  have hs := regs_sorted hinv
  obtain ⟨hthree, hcause, hin, hretire⟩ := retireSub_fields (wr_sorted (f := BSM_CTL.RETIRE) (v := s.rd BSM_CTL.RETIRE ||| 2 ^ k) hs) hk (cause := 3) (by decide)
  refine ⟨_, hexec, only_of_mask (retireSub_mask (sub_refl _) (wr_mask (by decide) (mask_refl _ s))) (by decide), hthree, hcause, ?_, hin⟩
  rw [hretire, State.rd_wr_same _ _ _ hs (by decide)]
  exact bitAt_or_set _ (rd_lt s BSM_CTL.RETIRE) k hk

theorem ddrAlert_eq (hk : k < 2) (hstate : subState s k = 1) : exec (.ddrAlert k true) s = .next
    (if 8 < (Tbl.getD s.bsm.subs k {}).replays + 1 then (if (retrainSub s k).2 then subRetired (retrainSub s k).1 k true else (retrainSub s k).1)
      else bsmLog ((s.modBsm fun x => { x with subs := Tbl.put x.subs k { (Tbl.getD s.bsm.subs k {}) with replays := (Tbl.getD s.bsm.subs k {}).replays + 1 } }).bump
        (BSM_SUBCH_STATUS.REPLAY_CNT k)) 7 k 0 0 0) := by
  have hgo : (decide (k < 2) && subState s k == 1) = true := by simp [hk, hstate]
  exact congrArg Host.Outcome.next (when_true hgo _)

/-- The eighth replay of a command is counted and logged. -/
theorem ddrAlert_replays (hinv : s.inv = true) (hk : k < 2) (hstate : subState s k = 1) (hseven : (Tbl.getD s.bsm.subs k {}).replays = 7) :
    ∃ t e, exec (.ddrAlert k true) s = .next t ∧ Only [.regs, .bsm] s t ∧
      Tbl.find t.bsm.subs k = some { (Tbl.getD s.bsm.subs k {}) with replays := 8 } ∧ t.bsm.log.getLast? = some e ∧ e.cls = 7 ∧ e.arr = k ∧
      t.rd (BSM_SUBCH_STATUS.REPLAY_CNT k) = min (s.rd (BSM_SUBCH_STATUS.REPLAY_CNT k) + 1) (2 ^ 16 - 1) := by
  have hexec := ddrAlert_eq hk hstate
  have hfew : ¬ 8 < (Tbl.getD s.bsm.subs k {}).replays + 1 := by omega
  rw [if_neg hfew, hseven] at hexec
  have hs : Tbl.sorted (s.modBsm fun x => { x with subs := Tbl.put x.subs k { (Tbl.getD s.bsm.subs k {}) with replays := 7 + 1 } }).regs = true := regs_sorted hinv
  have hcount := rd_bump_same (f := BSM_SUBCH_STATUS.REPLAY_CNT k) 1 hs (Nat.le_of_ble_eq_true rfl)
  have hsubs : ((s.modBsm fun x => { x with subs := Tbl.put x.subs k { (Tbl.getD s.bsm.subs k {}) with replays := 7 + 1 } }).bump
      (BSM_SUBCH_STATUS.REPLAY_CNT k)).bsm.subs = Tbl.put s.bsm.subs k { (Tbl.getD s.bsm.subs k {}) with replays := 7 + 1 } := by
    rw [(bump_mask (m := 1) (sub_refl _) (mask_refl _ _)).2 .bsm (by decide), State.modBsm_bsm]
  have hmask : Mask 65537 s ((s.modBsm fun x => { x with subs := Tbl.put x.subs k { (Tbl.getD s.bsm.subs k {}) with replays := 7 + 1 } }).bump
      (BSM_SUBCH_STATUS.REPLAY_CNT k)) := bump_mask (by decide) (modBsm_mask (by decide) (mask_refl _ s))
  have hu := bump_sorted (f := BSM_SUBCH_STATUS.REPLAY_CNT k) (k := 1) hs
  generalize (s.modBsm fun x => { x with subs := Tbl.put x.subs k { (Tbl.getD s.bsm.subs k {}) with replays := 7 + 1 } }).bump (BSM_SUBCH_STATUS.REPLAY_CNT k) = u
    at hexec hcount hsubs hmask hu
  have hlast := bsmLog_last u 7 k 0 0 0
  refine ⟨_, _, hexec, only_of_mask (bsmLog_mask (by decide) hmask) (by decide), ?_, hlast, rfl, rfl, ?_⟩
  · rw [bsmLog_bsm]
    exact (congrArg (fun x => Tbl.find x k) hsubs).trans (Tbl.find_put_same _ _ _)
  · rw [rd_bsmLog hu (subch_addr_ne_head hk), hcount, rd_of_regs (State.modBsm_regs _ _)]
    rfl

/-- The registers of a first retrain. -/
def retraining (s : State) (k : Nat) : State :=
  ((s.wr (BSM_SUBCH_STATUS.STATE k) 2).bump (BSM_SUBCH_STATUS.RETRAIN_CNT k)).wr (BSM_SUBCH_STATUS.RETRAIN_WIN k) 1

theorem retraining_fields (hs : Tbl.sorted s.regs = true) (k : Nat) : (retraining s k).rd (BSM_SUBCH_STATUS.STATE k) = 2 ∧
    (retraining s k).rd (BSM_SUBCH_STATUS.RETRAIN_CNT k) = min (s.rd (BSM_SUBCH_STATUS.RETRAIN_CNT k) + 1) (2 ^ 16 - 1) ∧
    (retraining s k).rd (BSM_SUBCH_STATUS.RETRAIN_WIN k) = 1 := by
  have hs1 : Tbl.sorted (s.wr (BSM_SUBCH_STATUS.STATE k) 2).regs = true := wr_sorted hs
  have hs2 : Tbl.sorted ((s.wr (BSM_SUBCH_STATUS.STATE k) 2).bump (BSM_SUBCH_STATUS.RETRAIN_CNT k)).regs = true := wr_sorted hs1
  refine ⟨?_, ?_, State.rd_wr_same _ _ _ hs2 (Nat.le_of_ble_eq_true rfl)⟩
  · exact rd_wr_bits hs2 rfl rfl rfl (rd_wr_bits hs1 rfl rfl rfl (State.rd_wr_same _ _ _ hs (Nat.le_of_ble_eq_true rfl)))
  · refine rd_wr_bits hs2 rfl rfl rfl ((rd_bump_same 1 hs1 (Nat.le_of_ble_eq_true rfl)).trans ?_)
    have hcnt : (s.wr (BSM_SUBCH_STATUS.STATE k) 2).rd (BSM_SUBCH_STATUS.RETRAIN_CNT k) = s.rd (BSM_SUBCH_STATUS.RETRAIN_CNT k) := rd_wr_bits hs rfl rfl rfl rfl
    rw [hcnt]
    rfl

/-- A retrain of a subchannel that has not been retrained lately is counted. -/
theorem retrainSub_first (hs : Tbl.sorted s.regs = true) (hnone : (Tbl.getD s.bsm.subs k {}).retrains = []) : (retrainSub s k).2 = false ∧
    Mask 65537 s (retrainSub s k).1 ∧ subState (retrainSub s k).1 k = 2 ∧
    (retrainSub s k).1.rd (BSM_SUBCH_STATUS.RETRAIN_CNT k) = min (s.rd (BSM_SUBCH_STATUS.RETRAIN_CNT k) + 1) (2 ^ 16 - 1) ∧
    (retrainSub s k).1.rd (BSM_SUBCH_STATUS.RETRAIN_WIN k) = 1 := by
  obtain ⟨f, heq⟩ : ∃ f, retrainSub s k = ((retraining s k).modBsm f, false) := by
    refine ⟨fun x => { x with subs := Tbl.put x.subs k { replays := 0, retrains := [(retraining s k).pwr.opSec], mism := [] } }, ?_⟩
    simp only [retrainSub, hnone, List.filter_nil, List.length_nil]
    rfl
  have hmask : Mask 1 s (retraining s k) := wr_mask (sub_refl _) (bump_mask (sub_refl _) (wr_mask (sub_refl _) (mask_refl _ s)))
  obtain ⟨hstate, hcnt, hwin⟩ := retraining_fields hs k
  rw [heq]
  exact ⟨rfl, modBsm_mask (by decide) (mask_mono (by decide) hmask), (rd_of_regs (State.modBsm_regs _ _)).trans hstate,
    (rd_of_regs (State.modBsm_regs _ _)).trans hcnt, (rd_of_regs (State.modBsm_regs _ _)).trans hwin⟩

theorem ddrAlert_retrains (hinv : s.inv = true) (hk : k < 2) (hstate : subState s k = 1) (height : Tbl.getD s.bsm.subs k {} = { replays := 8 }) :
    ∃ t, exec (.ddrAlert k true) s = .next t ∧ Only [.regs, .bsm] s t ∧ subState t k = 2 ∧
      t.rd (BSM_SUBCH_STATUS.RETRAIN_CNT k) = min (s.rd (BSM_SUBCH_STATUS.RETRAIN_CNT k) + 1) (2 ^ 16 - 1) ∧ t.rd (BSM_SUBCH_STATUS.RETRAIN_WIN k) = 1 := by
  have hexec := ddrAlert_eq hk hstate
  have hmany : 8 < (Tbl.getD s.bsm.subs k {}).replays + 1 := by rw [height]; decide
  obtain ⟨hgone, hmask, hfields⟩ := retrainSub_first (regs_sorted hinv) (k := k) (by rw [height])
  rw [if_pos hmany, hgone, if_neg Bool.false_ne_true] at hexec
  exact ⟨_, hexec, only_of_mask hmask (by decide), hfields⟩

theorem subchannelRetrainTimeout_eq (hk : k < 2) (hstate : subState s k = 2) : exec (.subchannelRetrainTimeout k) s = .next
    (if (retrainSub s k).2 then subRetired (retrainSub s k).1 k true else (retrainSub s k).1) := by
  have hgo : (decide (k < 2) && subState s k == 2) = true := by simp [hk, hstate]
  exact congrArg Host.Outcome.next (when_true hgo _)

/-- The third retrain within 600 s retires the subchannel. -/
theorem subchannelRetrainTimeout_retires (hk : k < 2) (hstate : subState s k = 2) (htwo : (Tbl.getD s.bsm.subs k {}).retrains = [s.pwr.opSec, s.pwr.opSec]) :
    exec (.subchannelRetrainTimeout k) s = .next (subRetired (retireSub s k 1) k true) := by
  have hretrain : retrainSub s k = (retireSub s k 1, true) := by
    simp [retrainSub, htwo]
  rw [subchannelRetrainTimeout_eq hk hstate, hretrain, if_pos rfl]

/-! ## Remaps (R427) -/

variable {j page : Nat}

/-- A page outside the spare pages is given to an entry that no copy holds. -/
structure MayRemap (s : State) (j page : Nat) : Prop where
  entry : j < 1024
  idle : s.on (BSM_REMAP.BUSY j) = false
  inRange : page < 2 ^ 24
  outside : ¬ (spareAddr s 0 ≤ page * 4096 ∧ page * 4096 < spareAddr s 1024)

theorem bsmRemapWrite_eq (h : MayRemap s j page) : exec (.bsmRemapWrite j (BitVec.ofNat 64 (2 ^ 63 + page))) s = .next
    (if !s.on BSM_STATUS.CLEAR_DONE then (s.wr (BSM_REMAP.VALID j) 1).wr (BSM_REMAP.PAGE j) page
      else (s.modBsm fun x => { x with copies := Tbl.put x.copies j (remapOf s page), copyPage := Tbl.put x.copyPage j page }).set1 (BSM_REMAP.BUSY j)) := by
  obtain ⟨hj, hidle, hpage, hout⟩ := h
  have hv : (BitVec.ofNat 64 (2 ^ 63 + page)).toNat = 2 ^ 63 + page := by
    rw [BitVec.toNat_ofNat]
    omega
  have hlow : (2 ^ 63 + page) % 2 ^ 24 = page := by omega
  have hvalid : bitAt (2 ^ 63 + page) 63 = true := by
    rw [bitAt, decide_eq_true_eq]
    omega
  have hgo : (decide (j < 1024) && !s.on (BSM_REMAP.BUSY j) && !(true && (decide (spareAddr s 0 ≤ page * 4096) && decide (page * 4096 < spareAddr s 1024)))) = true := by
    rw [hidle, decide_eq_true hj, ← Bool.decide_and, decide_eq_false hout]
    rfl
  show execBsmRemapWrite j _ s = _
  simp only [execBsmRemapWrite, hv, hlow, hvalid]
  refine congrArg Host.Outcome.next ((when_true hgo _).trans ?_)
  simp only [Bool.not_true, Bool.false_or]
  rfl

/-- Before the first clear an entry is in force at once. -/
theorem bsmRemapWrite_at_once (hinv : s.inv = true) (h : MayRemap s j page) (hclear : s.on BSM_STATUS.CLEAR_DONE = false) :
    ∃ t, exec (.bsmRemapWrite j (BitVec.ofNat 64 (2 ^ 63 + page))) s = .next t ∧ Only [.regs] s t ∧ t.on (BSM_REMAP.VALID j) = true ∧
      t.rd (BSM_REMAP.PAGE j) = page ∧ t.on (BSM_REMAP.BUSY j) = false ∧ RegsBut s t [BSM_REMAP.VALID j, BSM_REMAP.PAGE j] := by
  have hexec := bsmRemapWrite_eq h
  rw [hclear, if_pos (Bool.not_false)] at hexec
  have hs := regs_sorted hinv
  have hs1 : Tbl.sorted (s.wr (BSM_REMAP.VALID j) 1).regs = true := wr_sorted hs
  refine ⟨_, hexec, only_of_mask (wr_mask (sub_refl _) (wr_mask (sub_refl _) (mask_refl _ s))) (by decide), ?_, ?_, ?_, ?_⟩
  · exact on_wr_bits hs1 rfl rfl rfl (on_wr_same hs (Nat.le_of_ble_eq_true rfl))
  · rw [State.rd_wr_same _ _ _ hs1 (Nat.le_of_ble_eq_true rfl)]
    exact Nat.mod_eq_of_lt h.inRange
  · exact on_wr_bits hs1 rfl rfl rfl (on_wr_bits hs rfl rfl rfl h.idle)
  · exact (regsBut_wr hs (Nat.le_of_ble_eq_true rfl) (by simp)).wr hs1 (Nat.le_of_ble_eq_true rfl) (by simp)

/-- Afterwards the page is copied first. -/
theorem bsmRemapWrite_copies (hinv : s.inv = true) (h : MayRemap s j page) (hclear : s.on BSM_STATUS.CLEAR_DONE = true) :
    ∃ t, exec (.bsmRemapWrite j (BitVec.ofNat 64 (2 ^ 63 + page))) s = .next t ∧ Only [.regs, .bsm] s t ∧ t.on (BSM_REMAP.BUSY j) = true ∧
      Tbl.find t.bsm.copyPage j = some page ∧ Tbl.find t.bsm.copies j = some (remapOf s page) ∧ RegsBut s t [BSM_REMAP.BUSY j] := by
  have hexec := bsmRemapWrite_eq h
  rw [hclear, Bool.not_true, if_neg Bool.false_ne_true] at hexec
  have hs : Tbl.sorted (s.modBsm fun x => { x with copies := Tbl.put x.copies j (remapOf s page), copyPage := Tbl.put x.copyPage j page }).regs = true :=
    regs_sorted hinv
  have hbsm : ((s.modBsm fun x => { x with copies := Tbl.put x.copies j (remapOf s page), copyPage := Tbl.put x.copyPage j page }).set1 (BSM_REMAP.BUSY j)).bsm =
      { s.bsm with copies := Tbl.put s.bsm.copies j (remapOf s page), copyPage := Tbl.put s.bsm.copyPage j page } := by
    rw [(set1_mask (m := 1) (sub_refl _) (mask_refl _ _)).2 .bsm (by decide), State.modBsm_bsm]
  refine ⟨_, hexec, only_of_mask (m := 65537) (set1_mask (by decide) (modBsm_mask (by decide) (mask_refl _ s))) (by decide),
    on_set1_same hs (Nat.le_of_ble_eq_true rfl) Nat.one_ne_zero, ?_, ?_,
    regsBut_trans (regsBut_of_regs (State.modBsm_regs _ _)) (regsBut_set1 hs (Nat.le_of_ble_eq_true rfl))⟩
  · rw [hbsm]
    exact Tbl.find_put_same _ _ _
  · rw [hbsm]
    exact Tbl.find_put_same _ _ _

theorem remap_addr_ne {i : Nat} (h : i ≠ j) : BSM_REMAP.addr i ≠ BSM_REMAP.addr j := by
  show 0x482000 + 0x8 * i ≠ 0x482000 + 0x8 * j
  omega

/-- An entry comes into force. -/
def remapInForce (s : State) (j page : Nat) : State := ((s.clr1 (BSM_REMAP.BUSY j)).set1 (BSM_REMAP.VALID j)).wr (BSM_REMAP.PAGE j) page

theorem remapInForce_fields (hs : Tbl.sorted s.regs = true) (hpage : page < 2 ^ 24) : (remapInForce s j page).on (BSM_REMAP.VALID j) = true ∧
    (remapInForce s j page).on (BSM_REMAP.BUSY j) = false ∧ (remapInForce s j page).rd (BSM_REMAP.PAGE j) = page ∧
    ∀ i, i ≠ j → (remapInForce s j page).on (BSM_REMAP.VALID i) = s.on (BSM_REMAP.VALID i) := by
  have hs1 : Tbl.sorted (s.clr1 (BSM_REMAP.BUSY j)).regs = true := clr1_sorted hs
  have hs2 : Tbl.sorted ((s.clr1 (BSM_REMAP.BUSY j)).set1 (BSM_REMAP.VALID j)).regs = true := set1_sorted hs1
  refine ⟨?_, ?_, ?_, fun i hi => ?_⟩
  · exact on_wr_bits hs2 rfl rfl rfl (on_set1_same hs1 (Nat.le_of_ble_eq_true rfl) Nat.one_ne_zero)
  · exact on_wr_bits hs2 rfl rfl rfl (on_wr_bits hs1 rfl rfl rfl (on_clr1_same hs (Nat.le_of_ble_eq_true rfl)))
  · rw [remapInForce, State.rd_wr_same _ _ _ hs2 (Nat.le_of_ble_eq_true rfl)]
    exact Nat.mod_eq_of_lt hpage
  · rw [remapInForce, on_wr_apart _ hs2 (Nat.le_of_ble_eq_true rfl) (.inl (remap_addr_ne hi)), State.set1,
      on_wr_apart _ hs1 (Nat.le_of_ble_eq_true rfl) (.inl (remap_addr_ne hi)), State.clr1,
      on_wr_apart _ hs (Nat.le_of_ble_eq_true rfl) (.inl (remap_addr_ne hi))]

/-- The older entry of a page gives it up. -/
def olderOut (s : State) : Option Nat → State
  | some i => s.clr1 (BSM_REMAP.VALID i)
  | none => s

theorem olderOut_mask (s : State) (old : Option Nat) : Mask 1 s (olderOut s old) := by
  cases old with
  | none => exact mask_refl _ s
  | some i => exact clr1_mask (sub_refl _) (mask_refl _ s)

theorem olderOut_sorted (hs : Tbl.sorted s.regs = true) (old : Option Nat) : Tbl.sorted (olderOut s old).regs = true := by
  cases old with
  | none => exact hs
  | some i => exact clr1_sorted hs

/-- The bursts of a page, written to the spare page of an entry. -/
def pageCopied (s : State) (j src : Nat) : State :=
  s.each (List.range 64) fun s i => putBurst s (spareAddr s j + 64 * i)
    { c0 := copyCas (getBurst s (src + 64 * i)).c0, c1 := copyCas (getBurst s (src + 64 * i)).c1, addr := (spareAddr s j + 64 * i) / 64 % 2 ^ 48
      gen := s.rd BSM_STATUS.GEN }

theorem pageCopied_mask (s : State) (j src : Nat) : Mask 65536 s (pageCopied s j src) := each_mask (mask_refl _ s) fun _ _ h => putBurst_mask (sub_refl _) h

/-- A copy that ends puts its entry in force. -/
theorem remapCopyDone_ends (hinv : s.inv = true) {old : Option Nat} (hold : Tbl.find s.bsm.copies j = some old) (hcopy : Tbl.find s.bsm.copyPage j = some page)
    (hpage : page < 2 ^ 24) (hne : old ≠ some j) : ∃ t, exec (.remapCopyDone j) s = .next t ∧ Only [.regs, .bsm] s t ∧ t.on (BSM_REMAP.VALID j) = true ∧
      t.on (BSM_REMAP.BUSY j) = false ∧ t.rd (BSM_REMAP.PAGE j) = page ∧ Tbl.find t.bsm.copies j = none ∧
      (∀ i, old = some i → t.on (BSM_REMAP.VALID i) = false) := by
  have hexec : ∃ src, exec (.remapCopyDone j) s = .next (remapInForce ((olderOut (pageCopied s j src) old).modBsm fun x =>
      { x with copies := Tbl.del x.copies j, copyPage := Tbl.del x.copyPage j }) j page) := by
    show ∃ src, execRemapCopyDone j s = _
    simp only [execRemapCopyDone, hold, hcopy, pageCopied]
    generalize List.range 64 = bursts
    cases old with
    | none => exact ⟨page * 4096, rfl⟩
    | some i => exact ⟨spareAddr s i, rfl⟩
  obtain ⟨src, hexec⟩ := hexec
  have hcopied := pageCopied_mask s j src
  have hs0 : Tbl.sorted (pageCopied s j src).regs = true := by
    rw [show (pageCopied s j src).regs = s.regs from hcopied.2 .regs (by decide)]
    exact regs_sorted hinv
  generalize pageCopied s j src = u at hexec hcopied hs0
  have hold0 := olderOut_sorted hs0 old
  have holdMask := olderOut_mask u old
  have hout : ∀ i, old = some i → (olderOut u old).on (BSM_REMAP.VALID i) = false := fun i hi => by
    subst hi
    exact on_clr1_same hs0 (Nat.le_of_ble_eq_true rfl)
  generalize olderOut u old = w at hexec hold0 holdMask hout
  have hw : Tbl.sorted (w.modBsm fun x => { x with copies := Tbl.del x.copies j, copyPage := Tbl.del x.copyPage j }).regs = true := hold0
  obtain ⟨hvalid, hbusy, hat, hothers⟩ := remapInForce_fields (j := j) hw hpage
  have hmask : Mask 65537 s (remapInForce (w.modBsm fun x => { x with copies := Tbl.del x.copies j, copyPage := Tbl.del x.copyPage j }) j page) :=
    wr_mask (by decide) (set1_mask (by decide) (clr1_mask (by decide) (modBsm_mask (by decide)
      (mask_trans (mask_mono (by decide) hcopied) (mask_mono (by decide) holdMask)))))
  have hbsm : (remapInForce (w.modBsm fun x => { x with copies := Tbl.del x.copies j, copyPage := Tbl.del x.copyPage j }) j page).bsm =
      (w.modBsm fun x => { x with copies := Tbl.del x.copies j, copyPage := Tbl.del x.copyPage j }).bsm :=
    (wr_mask (m := 1) (sub_refl _) (set1_mask (sub_refl _) (clr1_mask (sub_refl _) (mask_refl _ _)))).2 .bsm (by decide)
  refine ⟨_, hexec, only_of_mask hmask (by decide), hvalid, hbusy, hat, ?_, fun i hi => ?_⟩
  · rw [hbsm]
    exact Tbl.find_del_same _ _
  · rw [hothers i fun hij => hne (hij ▸ hi), on_of_regs (State.modBsm_regs _ _)]
    exact hout i hi

/-! ## A lost command context (R422) -/

/-- A writer that is cut ends with the status given. -/
theorem cutWriter_ends {n : Nat} {c : Ctx} (hc : s.ctx n = some c) (hst : c.st = .running) (hstair : c.stair = none) (sct sc : Nat) :
    ((cutWriter s n sct sc).ctx n).map (fun y => (y.st, y.sct, y.sc)) = some (.ready, sct, sc) := by
  have hret : ∀ l, (returnSlots s l).ctx n = some c := fun l =>
    (ctx_of_hall ((returnSlots_mask (m := 3072) (sub_refl _) (mask_refl _ s)).2 .hall (by decide))).trans hc
  have hend : ∀ l (f : Ctx → Ctx), (f c).st = .running → (f c).stair = none →
      ((finish ((returnSlots s l).modCtx n f) n sct sc).ctx n).map (fun y => (y.st, y.sct, y.sc)) = some (.ready, sct, sc) := fun l f hfst hfstair => by
    rw [ended_finish (ctx_modCtx_same (hret l) f) (hfst ▸ by decide) hfstair sct sc 0]
    rfl
  simp only [cutWriter, hc]
  exact hend _ _ hst hstair

/-- The command of an uncorrectable context ends with Internal Error. -/
theorem contextStoreUe_ends {n : Nat} {c : Ctx} (hc : s.ctx n = some c) (hst : c.st = .running) (hstair : c.stair = none) :
    ∃ t, exec (.contextStoreUe n) s = .next t ∧ Only [.regs, .atc, .hall, .nvm, .pan, .ldr, .cel, .bsm, .sta] s t ∧
      (t.ctx n).map (fun y => (y.st, y.sct, y.sc)) = some (.ready, 0, 6) := by
  have hexec : exec (.contextStoreUe n) s = .next (cutWriter (memoryUe (bsmCount (bsmLog s 3 4 0 n 0) 3 4 n) 4 n 0) n 0 0x06) :=
    congrArg Host.Outcome.next (when_true (by rw [hc]; rfl) _)
  have hmask : Mask 65545 s (memoryUe (bsmCount (bsmLog s 3 4 0 n 0) 3 4 n) 4 n 0) :=
    memoryUe_mask (by decide) (bsmCount_mask (by decide) (bsmLog_mask (by decide) (mask_refl _ s)))
  exact ⟨_, hexec, only_of_exec hexec, cutWriter_ends ((ctx_of_hall (hmask.2 .hall (by decide))).trans hc) hst hstair 0 6⟩

/-- Settles O48: sweeps by their syndromes' meanings, subchannels and remaps by the fields they write, a lost context by the way its writer is cut. -/
theorem basementEvents : Obligations.BasementEvents := by
  unfold Obligations.BasementEvents
  intro s arr word st sm k j n ss page v old c hinv
  have hs := regs_sorted hinv
  refine ⟨fun harr => ⟨sramSweep_clean harr word st sm ss, sramSweep_check harr word st sm ss hs, sramSweep_bad harr word st sm ss hs,
      sramSweep_poisoned harr word st sm ss hs⟩,
    fun hk => ⟨subchannelRetire_retires hinv hk, fun hgone => ?_, fun hstate hseven => ddrAlert_replays hinv hk hstate (by rw [hseven]),
      ddrAlert_retrains hinv hk, fun hstate => ⟨?_, subchannelRetrainTimeout_retires hk hstate, fun hnone => ?_⟩⟩,
    fun hj hidle hpage hv hout => ?_, fun hbusy => ?_, remapCopyDone_ends hinv, fun hc hst hstair _ => contextStoreUe_ends hc hst hstair⟩
  · exact congrArg Host.Outcome.next (when_false (by simp [hgone]) _)
  · have hexec : exec (.subchannelRetrainDone k) s = .next (s.wr (BSM_SUBCH_STATUS.STATE k) 1) :=
      congrArg Host.Outcome.next (when_true (by simp [hk, hstate]) _)
    exact ⟨_, hexec, only_of_exec hexec, State.rd_wr_same _ _ _ hs (Nat.le_of_ble_eq_true rfl), regsBut_wr hs (Nat.le_of_ble_eq_true rfl) List.mem_cons_self⟩
  · have hexec := subchannelRetrainTimeout_eq hk hstate
    obtain ⟨hgone, hmask, htwo, -, hwin⟩ := retrainSub_first hs (k := k) hnone
    rw [hgone, if_neg Bool.false_ne_true] at hexec
    exact ⟨_, hexec, only_of_mask hmask (by decide), htwo, hwin⟩
  · subst hv
    have hmay : MayRemap s j page := ⟨hj, hidle, hpage, hout⟩
    exact ⟨bsmRemapWrite_at_once hinv hmay, bsmRemapWrite_copies hinv hmay⟩
  · exact congrArg Host.Outcome.next (when_false (by simp [hbusy]) _)

end Sys2Proof.Machine
end

section
/-!
PROOF. The Cellar's ports (R259 to R274): the state of a port's link, the reception of a frame, and retirement. The statements about training,
recalibration, frames and the Stair go through these rules.
-/
namespace Sys2Proof.Machine

variable {s t u : State} {n : Nat}

/-! ## The registers of a port -/

/-- Registers of one port at different places. -/
theorem Fld.apart_port (n : Nat) {f g : Fld} {a b : Nat} (hf : f.addr = a + 0x1000 * n) (hg : g.addr = b + 0x1000 * n) (hab : a ≠ b) : Fld.apart f g :=
  .inl (by omega)

theorem regs_modPort (s : State) (n : Nat) (f : OtPort → OtPort) : (s.modPort n f).regs = s.regs := (rfl)
theorem rd_modPort (s : State) (n : Nat) (f : OtPort → OtPort) (g : Fld) : (s.modPort n f).rd g = s.rd g := (rfl)
theorem pwr_wr (s : State) (f : Fld) (v : Nat) : (s.wr f v).pwr = s.pwr := (rfl)

theorem regs_wr_congr (h : t.regs = s.regs) {f : Fld} {v : Nat} : (t.wr f v).regs = (s.wr f v).regs := by
  rw [State.wr, State.wr, State.regWord, h, State.regWord]

theorem portMode_of_rd (h : t.rd (CEL_PORT_CFG.MODE n) = s.rd (CEL_PORT_CFG.MODE n)) : portMode t n = portMode s n := by
  rw [portMode, h, portMode]

theorem portMode_of_regs (h : t.regs = s.regs) : portMode t n = portMode s n := portMode_of_rd (rd_of_regs h)

theorem portMode_modPort (s : State) (n : Nat) (f : OtPort → OtPort) : portMode (s.modPort n f) n = portMode s n := portMode_of_rd (rd_modPort s n f _)

theorem portState_modPort (s : State) (n : Nat) (f : OtPort → OtPort) : portState (s.modPort n f) n = portState s n := rd_modPort s n f _

/-- A write of another register of the port leaves its mode and its state. -/
theorem portMode_wr_apart {f : Fld} {v b : Nat} (hs : Tbl.sorted s.regs = true) (hf : f.addr = b + 0x1000 * n) (hb : 0x300000 ≠ b)
    (hw : (f.lsb + f.width).ble 64 = true) : portMode (s.wr f v) n = portMode s n :=
  portMode_of_rd (State.rd_wr_apart v hs (Nat.le_of_ble_eq_true hw) (Fld.apart_port n (a := 0x300000) rfl hf hb))

theorem portState_wr_apart {f : Fld} {v b : Nat} (hs : Tbl.sorted s.regs = true) (hf : f.addr = b + 0x1000 * n) (hb : 0x300010 ≠ b)
    (hw : (f.lsb + f.width).ble 64 = true) : portState (s.wr f v) n = portState s n :=
  State.rd_wr_apart v hs (Nat.le_of_ble_eq_true hw) (Fld.apart_port n (a := 0x300010) rfl hf hb)

theorem portState_of_regs (h : t.regs = s.regs) : portState t n = portState s n := rd_of_regs h

theorem portRetired_of_cel (h : t.cel = s.cel) : portRetired t n = portRetired s n := by
  rw [portRetired, port_of_cel h, h, portRetired]

/-! ## The state of a port's link (Table 7-12) -/

theorem regs_setPortState (s : State) (n st : Nat) : (setPortState s n st).regs = (s.wr (CEL_PORT_STATUS.STATE n) st).regs := by
  rw [setPortState]
  split
  · rfl
  · rfl

theorem cel_setPortState (s : State) (n st : Nat) : (setPortState s n st).cel = s.cel :=
  (setPortState_mask (m := 8193) (sub_refl _) (mask_refl _ s)).2 .cel (by decide)

theorem pwr_setPortState (s : State) (n st : Nat) : (setPortState s n st).pwr = s.pwr :=
  (setPortState_mask (m := 8193) (sub_refl _) (mask_refl _ s)).2 .pwr (by decide)

theorem port_setPortState (s : State) (n st m : Nat) : (setPortState s n st).port m = s.port m := port_of_cel (cel_setPortState s n st)

theorem Seq.descs_setReg (q : Seq) (r : Nat) (v : U64) : (q.setReg r v).descs = q.descs := by
  rw [Seq.setReg]
  split <;> rfl

/-- An event delivered reaches the register, the queue and the wait of a sequencer, never its descriptors. -/
theorem Seq.descs_deliver (q : Seq) (n : Nat) : (q.deliver n).descs = q.descs := by
  rw [Seq.deliver]
  split
  · rfl
  · split
    · rfl
    · exact Seq.descs_setReg _ _ _

theorem descs_raise (hq : Tbl.sorted s.seqs = true) (e : U64) : ((raise s n e).seq n).descs = (s.seq n).descs := by
  rw [raise, seq_modSeq_same hq]
  dsimp only
  rw [Seq.descs_deliver]
  split <;> rfl

theorem descs_setPortState (hq : Tbl.sorted s.seqs = true) (st : Nat) : ((setPortState s n st).seq n).descs = (s.seq n).descs := by
  rw [setPortState]
  split
  · rfl
  · exact descs_raise hq _

section
variable (hs : Tbl.sorted s.regs = true)
include hs

theorem setPortState_sorted (n st : Nat) : Tbl.sorted (setPortState s n st).regs = true := by
  rw [regs_setPortState]
  exact wr_sorted hs

theorem regsBut_setPortState (n st : Nat) : RegsBut s (setPortState s n st) [CEL_PORT_STATUS.STATE n] :=
  (regsBut_wr hs (Nat.le_of_ble_eq_true rfl) List.mem_cons_self).of_regs (regs_setPortState s n st)

theorem portState_setPortState (n : Nat) {st : Nat} (hst : st < 16) : portState (setPortState s n st) n = st := by
  rw [portState_of_regs (regs_setPortState s n st), portState, State.rd_wr_same _ _ _ hs (Nat.le_of_ble_eq_true rfl)]
  exact Nat.mod_eq_of_lt hst

end

/-! ## A frame arrives (R262 to R265) -/

/-- The sequence test of a frame taken whole (R264). -/
def sequenceTest (s : State) (n : Nat) (h : FrameHdr) : State × Bool :=
  if h.typ = 5 then (s, true)
  else if seqDist h.seq (s.port n).expected = 0 then
    (s.modPort n fun p => { p with expected := (p.expected + 1) % 4096, rxAny := true, nakFor := none, ackTimer := true }, true)
  else if seqDist h.seq (s.port n).expected ≤ 2047 then (oweNak s n, false)
  else (s.modPort n fun p => { p with ackDue := true }, false)

/-- The header of the frame, counted for its corrected symbols. -/
abbrev heard (s : State) (n : Nat) (h : FrameHdr) : State := s.bump (CEL_LINK_ERR.FEC_CORR n) h.fecCorr

theorem port_heard (s : State) (n : Nat) (h : FrameHdr) (m : Nat) : (heard s n h).port m = s.port m := port_wr s _ _ m

section
variable {h : FrameHdr}

theorem portState_heard (hs : Tbl.sorted s.regs = true) : portState (heard s n h) n = portState s n :=
  portState_wr_apart (b := 0x300020) hs rfl (by decide) rfl

theorem portMode_heard (hs : Tbl.sorted s.regs = true) : portMode (heard s n h) n = portMode s n :=
  portMode_wr_apart (b := 0x300020) hs rfl (by decide) rfl

/-- In training a LINK frame is taken without a sequence test. -/
theorem onFrame_training (harr : Arrives s n h h.typ) (htyp : h.typ = 6)
    (hst : portState s n = 2 ∨ portState s n = 3 ∨ portState s n = 4 ∨ portState s n = 7) (f : State → State) : onFrame s n h f = f (heard s n h) := by
  obtain ⟨hgood, hlen, hfour, hver, hret, htype⟩ := harr
  have htake : takeFrame s n h = (heard s n h, true) := by
    rcases hst with hst | hst | hst | hst <;> simp_all [takeFrame]
  rw [onFrame, htake]
  rfl

/-- In ACTIVE, and for a LINK or ACK frame in RECAL, the acknowledgement is taken and then the sequence test decides. -/
theorem takeFrame_active (harr : Arrives s n h h.typ) (hst : portState s n = 5 ∨ portState s n = 6 ∧ (h.typ = 5 ∨ h.typ = 6)) :
    takeFrame s n h = sequenceTest (takeAck (heard s n h) n h) n h := by
  obtain ⟨hgood, hlen, hfour, hver, hret, htype⟩ := harr
  rcases hst with hst | ⟨hst, htyp | htyp⟩
  · simp_all [takeFrame, sequenceTest]
  · simp_all [takeFrame, sequenceTest]
  · simp_all [takeFrame, sequenceTest]

/-! ### A frame next in sequence -/

/-- The port after a frame next in sequence that acknowledges nothing (R264, R267). -/
def OtPort.taken (p : OtPort) (h : FrameHdr) : OtPort :=
  { p with
    creditData := if p.unacked.isEmpty then h.dataFree else p.creditData, creditCmd := if p.unacked.isEmpty then h.cmdFree else p.creditCmd
    expected := (p.expected + 1) % 4096, rxAny := true, nakFor := none, ackTimer := true }

/-- The credits that a frame of the peer shows to a port with nothing unacknowledged (R267). -/
def credited (s : State) (n : Nat) (h : FrameHdr) : State :=
  s.when (s.port n).unacked.isEmpty fun s => s.modPort n fun p => { p with creditData := h.dataFree, creditCmd := h.cmdFree }

/-- The state after a frame next in sequence that acknowledges nothing. -/
def taken (s : State) (n : Nat) (h : FrameHdr) : State :=
  (credited (heard s n h) n h).modPort n fun p => { p with expected := (p.expected + 1) % 4096, rxAny := true, nakFor := none, ackTimer := true }

theorem takeAck_of_no_ack (hack : h.ackValid = false) : takeAck s n h = credited s n h := by
  cases hun : (s.port n).unacked with
  | nil => simp [takeAck, hack, hun, State.when, credited]
  | cons f l => simp [takeAck, hack, hun, State.when, credited]

theorem regs_credited (s : State) (n : Nat) (h : FrameHdr) : (credited s n h).regs = s.regs := by
  rw [credited, State.when]
  split <;> rfl

theorem port_credited (s : State) (n : Nat) (h : FrameHdr) : (credited s n h).port n = { s.port n with
    creditData := if (s.port n).unacked.isEmpty then h.dataFree else (s.port n).creditData
    creditCmd := if (s.port n).unacked.isEmpty then h.cmdFree else (s.port n).creditCmd } := by
  rw [credited, State.when]
  split
  · exact port_modPort_same
  · rfl

theorem seqDist_self {a : Nat} (ha : a % 4096 = a) : seqDist a a = 0 := by
  rw [seqDist, ha]
  omega

/-- A frame next in sequence is accepted. -/
theorem onFrame_inOrder (harr : Arrives s n h h.typ) (hord : InOrder s n h) (hack : h.typ ≠ 5)
    (hst : portState s n = 5 ∨ portState s n = 6 ∧ (h.typ = 5 ∨ h.typ = 6)) (f : State → State) : onFrame s n h f = f (taken s n h) := by
  obtain ⟨hmod, hseq, hno⟩ := hord
  have hexp : ((credited (heard s n h) n h).port n).expected = h.seq := by
    rw [port_credited, port_heard]
    exact hseq.symm
  have htake : takeFrame s n h = (taken s n h, true) := by
    rw [takeFrame_active harr hst, takeAck_of_no_ack hno, sequenceTest, if_neg hack, hexp, seqDist_self hmod, if_pos rfl]
    rfl
  rw [onFrame, htake]
  rfl

theorem regs_taken (s : State) (n : Nat) (h : FrameHdr) : (taken s n h).regs = (heard s n h).regs := regs_credited _ _ _

theorem port_taken (s : State) (n : Nat) (h : FrameHdr) : (taken s n h).port n = (s.port n).taken h := by
  rw [taken, port_modPort_same, port_credited, port_heard, OtPort.taken]

theorem mask_taken (s : State) (n : Nat) (h : FrameHdr) : Mask 4097 s (taken s n h) := by
  have hheard : Mask 4097 s (heard s n h) := bump_mask (by decide) (mask_refl _ s)
  rw [taken, credited, State.when]
  split
  · exact modPort_mask (by decide) (modPort_mask (by decide) hheard)
  · exact modPort_mask (by decide) hheard

theorem retiredTable_modPort (s : State) (n : Nat) (f : OtPort → OtPort) : (s.modPort n f).cel.retiredTable = s.cel.retiredTable := (rfl)

theorem retiredTable_taken (s : State) (n : Nat) (h : FrameHdr) : (taken s n h).cel.retiredTable = s.cel.retiredTable := by
  have hheard : (heard s n h).cel = s.cel := (bump_mask (m := 1) (sub_refl _) (mask_refl _ s)).2 .cel (by decide)
  rw [taken, retiredTable_modPort, credited, State.when]
  split
  · rw [retiredTable_modPort, hheard]
  · rw [hheard]

theorem taken_sorted (hs : Tbl.sorted s.regs = true) : Tbl.sorted (taken s n h).regs = true := by
  rw [regs_taken]
  exact bump_sorted hs

end

/-! ## Retirement (R273, R274) -/

theorem landLadderRetire_of_no_descs (h : (s.seq n).descs = []) : landLadderRetire s n =
    s.modLnd fun x => { x with jobs := x.jobs.filter fun j => j.n != n, climbs := Tbl.keep x.climbs fun k _ => k / 32 != n } := by
  rw [landLadderRetire, h]
  rfl

theorem endRing_of_no_descs (h : (s.seq n).descs = []) (pred : DescHw → Bool) (detail : Nat) (res : OpResult) : endRing s n pred detail res = s := by
  rw [endRing, h]
  rfl

/-- A port without work and without frames. -/
def OtPort.emptied (p : OtPort) : OtPort :=
  { p with
    retired := true, unacked := [], replay := [], linkQ := [], cmdHost := [], wdHost := [], cmdBg := [], wdBg := [],
    tempQ := [], dieQ := [], running := [], suspended := [], lingering := [], ctl := [], offers := [] }

/-- A port is entered in the retirement table. -/
def tableRetired (s : State) (n : Nat) : State := s.modCel fun c => { c with retiredTable := n :: c.retiredTable }

/-- The table, the cause and the port's queues of a retirement. -/
def retireEntry (s : State) (n cause : Nat) : State :=
  ((tableRetired s n).wr (CEL_PORT_STATUS.RETIRE_CAUSE n) cause).modPort n fun p => p.emptied

/-- The head of a retirement: its entry, and the link's last state. -/
def retireHead (s : State) (n cause : Nat) : State := setPortState (retireEntry s n cause) n 9

theorem port_tableRetired (s : State) (n m : Nat) : (tableRetired s n).port m = s.port m := (rfl)
theorem seqs_tableRetired (s : State) (n : Nat) : (tableRetired s n).seqs = s.seqs := (rfl)

theorem seqs_retireEntry (s : State) (n cause : Nat) : (retireEntry s n cause).seqs = s.seqs := by
  rw [retireEntry, seqs_modPort, seqs_wr, seqs_tableRetired]

theorem regs_retireHead (s : State) (n cause : Nat) :
    (retireHead s n cause).regs = ((s.wr (CEL_PORT_STATUS.RETIRE_CAUSE n) cause).wr (CEL_PORT_STATUS.STATE n) 9).regs :=
  (regs_setPortState _ _ _).trans (regs_wr_congr (regs_wr_congr rfl))

theorem port_retireHead (s : State) (n cause : Nat) : (retireHead s n cause).port n = (s.port n).emptied := by
  rw [retireHead, port_setPortState, retireEntry, port_modPort_same, port_wr, port_tableRetired]

theorem retiredTable_retireHead (s : State) (n cause : Nat) : (retireHead s n cause).cel.retiredTable = n :: s.cel.retiredTable := by
  rw [retireHead, cel_setPortState, retireEntry, retiredTable_modPort]
  rfl

theorem mask_retireHead (s : State) (n cause : Nat) : Mask 12289 s (retireHead s n cause) :=
  setPortState_mask (by decide) (modPort_mask (by decide) (wr_mask (by decide) (modCel_mask (by decide) (mask_refl _ s))))

theorem descs_retireHead (hq : Tbl.sorted s.seqs = true) (cause : Nat) : ((retireHead s n cause).seq n).descs = (s.seq n).descs := by
  have hentry := seqs_retireEntry s n cause
  rw [retireHead, descs_setPortState (by rw [hentry]; exact hq), seq_of_seqs hentry]

/-- The jobs and the climbs of a retired port end. -/
def ladderOver (s : State) (n : Nat) : State :=
  s.modLnd fun x => { x with jobs := x.jobs.filter fun j => j.n != n, climbs := Tbl.keep x.climbs fun k _ => k / 32 != n }

theorem seq_ladderOver (s : State) (n m : Nat) : (ladderOver s n).seq m = s.seq m := (rfl)

/-- With no front open, a retired port leaves no suite that is being filled. -/
theorem dropPortMembers_of_no_fronts (h : s.ldr.fronts = []) : dropPortMembers s n = s := by
  rw [dropPortMembers, h]
  rfl

theorem scuPortRetired_of_no_fronts (h : s.ldr.fronts = []) (cause : Nat) :
    (scuPortRetired s n cause).regs = s.regs ∧ (scuPortRetired s n cause).cel = s.cel := by
  have hj : Mask 1024 s (jAppend s { typ := 0x0B, count := n, first := cause, aux := 9 }) := jAppend_mask (by decide) (mask_refl _ s)
  have hfronts : (jAppend s { typ := 0x0B, count := n, first := cause, aux := 9 }).ldr.fronts = [] := by rw [hj.2 .ldr (by decide), h]
  rw [scuPortRetired, dropPortMembers_of_no_fronts (by exact hfronts)]
  exact ⟨hj.2 .regs (by decide), hj.2 .cel (by decide)⟩

theorem each_nil {α : Type} (s : State) (f : State → α → State) : s.each [] f = s := (rfl)

theorem retirePort_eq (hret : portRetired s n = false) (cause : Nat) : retirePort s n cause =
    staLinkLost (scuPortRetired (State.each (endRing (landLadderRetire (post (retireHead s n cause) 0x0060 4 4 n cause) n) n (fun _ => true) 1 .retired)
      ((s.port n).dieQ.foldl (fun l e => l ++ e.2) [] ++ (s.port n).offers) fun s op => opOutcome s n op .retired) n cause) n := by
  simp only [retirePort, hret, Bool.false_eq_true, if_false, retireHead, retireEntry, tableRetired, OtPort.emptied]

/-- With no work at the port, a retirement is its head, the record, and the Scullery's notice. -/
theorem retirePort_eq_of_idle (hidle : IdlePort s n) (hq : Tbl.sorted s.seqs = true) (cause : Nat) : retirePort s n cause =
    staLinkLost (scuPortRetired (ladderOver (post (retireHead s n cause) 0x0060 4 4 n cause) n) n cause) n := by
  obtain ⟨hdescs, hdie, hoffers, _, _, hret⟩ := hidle
  have hpost : Mask 8 (retireHead s n cause) (post (retireHead s n cause) 0x0060 4 4 n cause) := post_mask (by decide) (mask_refl _ _)
  have hnone : ((post (retireHead s n cause) 0x0060 4 4 n cause).seq n).descs = [] := by
    rw [seq_of_seqs (hpost.2 .seqs (by decide)), descs_retireHead hq, hdescs]
  have hland : landLadderRetire (post (retireHead s n cause) 0x0060 4 4 n cause) n = ladderOver (post (retireHead s n cause) 0x0060 4 4 n cause) n :=
    landLadderRetire_of_no_descs hnone
  rw [retirePort_eq hret, hland, endRing_of_no_descs (by rw [seq_ladderOver]; exact hnone), hdie, hoffers, List.foldl_nil, List.append_nil, each_nil]

/-- With no work at the port, only the head of the retirement reaches the registers and the Cellar. -/
theorem retirePort_of_idle (hidle : IdlePort s n) (hs : Tbl.sorted s.regs = true) (hq : Tbl.sorted s.seqs = true) (cause : Nat) :
    (retirePort s n cause).regs = (retireHead s n cause).regs ∧ (retirePort s n cause).cel = (retireHead s n cause).cel := by
  have hpost : Mask 16392 (retireHead s n cause) (ladderOver (post (retireHead s n cause) 0x0060 4 4 n cause) n) :=
    modLnd_mask (by decide) (post_mask (by decide) (mask_refl _ _))
  have hhead := mask_retireHead s n cause
  have hfronts : (ladderOver (post (retireHead s n cause) 0x0060 4 4 n cause) n).ldr.fronts = [] := by
    rw [hpost.2 .ldr (by decide), hhead.2 .ldr (by decide), hidle.2.2.2.1]
  obtain ⟨hregs, hcel⟩ := scuPortRetired_of_no_fronts (n := n) hfronts cause
  have hregs' := hregs.trans (hpost.2 .regs (by decide))
  have hmode : portMode (scuPortRetired (ladderOver (post (retireHead s n cause) 0x0060 4 4 n cause) n) n cause) n ≠ 2 := by
    rw [portMode_of_regs hregs', portMode_of_regs (regs_retireHead s n cause), portMode_wr_apart (b := 0x300010) (wr_sorted hs) rfl (by decide) rfl,
      portMode_wr_apart (b := 0x300010) hs rfl (by decide) rfl]
    exact hidle.2.2.2.2.1
  rw [retirePort_eq_of_idle hidle hq, staLinkLost, if_pos hmode]
  exact ⟨hregs', hcel.trans (hpost.2 .cel (by decide))⟩

theorem retirePort_retired (hidle : IdlePort s n) (hs : Tbl.sorted s.regs = true) (hq : Tbl.sorted s.seqs = true) {cause : Nat} (hcause : cause < 16) :
    RetiredFor (retirePort s n cause) n cause := by
  obtain ⟨hregs, hcel⟩ := retirePort_of_idle hidle hs hq cause
  have hstate : portState (retirePort s n cause) n = 9 := by
    rw [portState_of_regs (hregs.trans (regs_retireHead s n cause)), portState, State.rd_wr_same _ _ _ (wr_sorted hs) (Nat.le_of_ble_eq_true rfl)]
    rfl
  have hwhy : (retirePort s n cause).rd (CEL_PORT_STATUS.RETIRE_CAUSE n) = cause := by
    rw [rd_of_regs (hregs.trans (regs_retireHead s n cause))]
    exact rd_wr_bits (wr_sorted hs) rfl rfl rfl ((State.rd_wr_same _ _ _ hs (Nat.le_of_ble_eq_true rfl)).trans (Nat.mod_eq_of_lt hcause))
  have hport : (retirePort s n cause).port n = (retireHead s n cause).port n := port_of_cel hcel
  rw [port_retireHead] at hport
  refine ⟨hstate, hwhy, by rw [hport, OtPort.emptied], ?_, by rw [hport, OtPort.emptied]⟩
  rw [hcel, retiredTable_retireHead]
  exact List.mem_cons_self

theorem setPortState_seqs_sorted (hq : Tbl.sorted s.seqs = true) (st : Nat) : Tbl.sorted (setPortState s n st).seqs = true := by
  rw [setPortState]
  split
  · exact hq
  · exact modSeq_sorted hq

theorem portMode_setPortState (hs : Tbl.sorted s.regs = true) (st : Nat) : portMode (setPortState s n st) n = portMode s n :=
  (portMode_of_regs (regs_setPortState s n st)).trans (portMode_wr_apart (b := 0x300010) hs rfl (by decide) rfl)

/-- The state of its link gives a port no work. -/
theorem idlePort_setPortState (hidle : IdlePort s n) (hs : Tbl.sorted s.regs = true) (hq : Tbl.sorted s.seqs = true) (st : Nat) :
    IdlePort (setPortState s n st) n := by
  obtain ⟨hdescs, hdie, hoffers, hfronts, hmode, hret⟩ := hidle
  have hldr := (setPortState_mask (n := n) (st := st) (m := 8193) (sub_refl _) (mask_refl _ s)).2 .ldr (by decide)
  refine ⟨(descs_setPortState hq st).trans hdescs, ?_, ?_, ?_, ?_, ?_⟩
  · rw [port_setPortState, hdie]
  · rw [port_setPortState, hoffers]
  · rw [hldr, hfronts]
  · rw [portMode_setPortState hs]
    exact hmode
  · rw [portRetired_of_cel (cel_setPortState s n st), hret]

end Sys2Proof.Machine
end

section
/-!
PROOF. Training of an Otcon port (R268, R270, R271, R273): attempts, the HELLO values, and the first ACTIVE.
-/
namespace Sys2Proof.Machine

variable {s t : State} {n : Nat} {h : FrameHdr}

/-! ## Attempts (R273) -/

/-- A port at the start of an attempt, with `k` failed before it. -/
def OtPort.untrained (p : OtPort) (k : Nat) : OtPort :=
  { p with attempts := k, helloRx := 0, helloTx := 0, switchTx := false, switchRx := false, eqRx := false, eqTx := false }

/-- A failed attempt with another to follow: OFF, and at once DETECT without a version. -/
def nextAttempt (s : State) (n : Nat) : State :=
  setPortState (((setPortState s n 0).modPort n fun p => p.untrained ((s.port n).attempts + 1)).wr (CEL_PORT_STATUS.VER n) 0) n 1

theorem failAttempt_again (hk : (s.port n).attempts < 2) : failAttempt s n = nextAttempt s n := by
  have hthird : ¬ 3 ≤ (s.port n).attempts + 1 := by omega
  simp only [failAttempt, port_setPortState, if_neg hthird, nextAttempt, OtPort.untrained]

theorem failAttempt_third (hk : (s.port n).attempts = 2) : failAttempt s n = retirePort (setPortState s n 0) n 3 := by
  have hthird : 3 ≤ (s.port n).attempts + 1 := by omega
  simp only [failAttempt, port_setPortState, if_pos hthird]

theorem mask_nextAttempt (s : State) (n : Nat) : Mask 12289 s (nextAttempt s n) :=
  setPortState_mask (by decide) (wr_mask (by decide) (modPort_mask (by decide) (setPortState_mask (by decide) (mask_refl _ s))))

theorem nextAttempt_detects (hs : Tbl.sorted s.regs = true) :
    portState (nextAttempt s n) n = 1 ∧ ((nextAttempt s n).port n).attempts = (s.port n).attempts + 1 := by
  constructor
  · exact portState_setPortState (wr_sorted (by rw [regs_modPort]; exact setPortState_sorted hs n 0)) n (by decide)
  · rw [nextAttempt, port_setPortState, port_wr, port_modPort_same, OtPort.untrained]

/-- An event that fails an attempt of a port with another to follow. -/
theorem attempt_fails {c : Instr} (hexec : exec c s = .next (failAttempt t n)) (hst : Mask 12289 s t) (ht : Tbl.sorted t.regs = true)
    (hk : (t.port n).attempts = (s.port n).attempts) (htwo : (s.port n).attempts < 2) :
    ∃ u, exec c s = .next u ∧ Only [.regs, .cel, .seqs] s u ∧ portState u n = 1 ∧ (u.port n).attempts = (s.port n).attempts + 1 := by
  obtain ⟨hdetect, hcount⟩ := nextAttempt_detects (n := n) ht
  rw [failAttempt_again (by rw [hk]; exact htwo)] at hexec
  refine ⟨_, hexec, only_of_mask (mask_trans hst (mask_nextAttempt t n)) (by decide), hdetect, ?_⟩
  rw [hcount, hk]

/-! ## The first ACTIVE (R266) -/

/-- A port whose sequence state is set. -/
def OtPort.fresh (p : OtPort) : OtPort :=
  { p with
    expected := 0, rxAny := false, nakFor := none, ackTimer := false, ackDue := false, nakDue := false, txSeq := 0,
    unacked := [], acked := 0xFFF, replayRound := 0, replay := [], attempts := 0, everActive := true }

/-- The dies that HELLO has counted are present. -/
def diesPresent (s : State) (n : Nat) : State :=
  (s.modPort n fun p => p.fresh).wr (CEL_DIE_MAP.PRESENT n) (2 ^ min 16 ((s.modPort n fun p => p.fresh).rd (CEL_BRIDGE_ID.DIE_COUNT n)) - 1)

theorem diesPresent_sorted (hs : Tbl.sorted s.regs = true) : Tbl.sorted (diesPresent s n).regs = true := wr_sorted hs

theorem enterActiveFresh_eq : enterActiveFresh s n = staLinkUp (recalMark (setPortState (diesPresent s n) n 5) n) n := by
  simp only [enterActiveFresh, diesPresent, OtPort.fresh]

/-- The recalibration triggers count from `sec` on. -/
def OtPort.marked (p : OtPort) (sec : Nat) : OtPort := { p with recalDue := false, lastRecalSec := sec, lastRecalTemp := hottestDie p }

theorem recalMark_eq (s : State) (n : Nat) : recalMark s n = s.modPort n fun p => p.marked s.pwr.opSec := (rfl)

theorem regs_recalMark (s : State) (n : Nat) : (recalMark s n).regs = s.regs := (rfl)

theorem portMode_diesPresent (hs : Tbl.sorted s.regs = true) : portMode (diesPresent s n) n = portMode s n := by
  rw [diesPresent, portMode_wr_apart (b := 0x300030) (by rw [regs_modPort]; exact hs) rfl (by decide) rfl, portMode_modPort]

/-- A port that is no Stair link becomes ACTIVE. -/
theorem enterActiveFresh_otcon (hs : Tbl.sorted s.regs = true) (hmode : portMode s n = 1) :
    enterActiveFresh s n = recalMark (setPortState (diesPresent s n) n 5) n := by
  have hsort : Tbl.sorted (diesPresent s n).regs = true := diesPresent_sorted hs
  have hmode' : portMode (recalMark (setPortState (diesPresent s n) n 5) n) n ≠ 2 := by
    rw [portMode_of_regs (regs_recalMark _ n), portMode_setPortState hsort, portMode_diesPresent hs, hmode]
    decide
  rw [enterActiveFresh_eq, staLinkUp, if_neg hmode']

theorem regs_enterActiveFresh (hs : Tbl.sorted s.regs = true) (hmode : portMode s n = 1) :
    (enterActiveFresh s n).regs = ((diesPresent s n).wr (CEL_PORT_STATUS.STATE n) 5).regs := by
  rw [enterActiveFresh_otcon hs hmode, regs_recalMark, regs_setPortState]

theorem portState_enterActiveFresh (hs : Tbl.sorted s.regs = true) (hmode : portMode s n = 1) : portState (enterActiveFresh s n) n = 5 := by
  rw [portState_of_regs (regs_enterActiveFresh hs hmode), portState, State.rd_wr_same _ _ _ (diesPresent_sorted hs) (Nat.le_of_ble_eq_true rfl)]
  rfl

theorem port_enterActiveFresh (hs : Tbl.sorted s.regs = true) (hmode : portMode s n = 1) :
    (enterActiveFresh s n).port n = (s.port n).fresh.marked (setPortState (diesPresent s n) n 5).pwr.opSec := by
  rw [enterActiveFresh_otcon hs hmode, recalMark_eq, port_modPort_same, port_setPortState, diesPresent, port_wr, port_modPort_same]

/-- The registers of a port that becomes ACTIVE: other registers than its status and its die map stay. -/
theorem rd_enterActiveFresh (hs : Tbl.sorted s.regs = true) (hmode : portMode s n = 1) {g : Fld} {a : Nat} (hg : g.addr = a + 0x1000 * n)
    (hstatus : a ≠ 0x300010) (hmap : a ≠ 0x300030) : (enterActiveFresh s n).rd g = s.rd g := by
  rw [rd_of_regs (regs_enterActiveFresh hs hmode), State.rd_wr_apart _ (diesPresent_sorted hs) (Nat.le_of_ble_eq_true rfl)
    (Fld.apart_port n (b := 0x300010) hg rfl hstatus), diesPresent, State.rd_wr_apart _ (by rw [regs_modPort]; exact hs) (Nat.le_of_ble_eq_true rfl)
    (Fld.apart_port n (b := 0x300030) hg rfl hmap), rd_modPort]

theorem version_enterActiveFresh (hs : Tbl.sorted s.regs = true) (hmode : portMode s n = 1) :
    (enterActiveFresh s n).rd (CEL_PORT_STATUS.VER n) = s.rd (CEL_PORT_STATUS.VER n) := by
  have hpresent : (diesPresent s n).rd (CEL_PORT_STATUS.VER n) = s.rd (CEL_PORT_STATUS.VER n) := by
    rw [diesPresent, State.rd_wr_apart _ (by rw [regs_modPort]; exact hs) (Nat.le_of_ble_eq_true rfl)
      (Fld.apart_port n (a := 0x300010) (b := 0x300030) rfl rfl (by decide)), rd_modPort]
  rw [rd_of_regs (regs_enterActiveFresh hs hmode)]
  exact rd_wr_bits (diesPresent_sorted hs) rfl rfl rfl hpresent

theorem present_enterActiveFresh (hs : Tbl.sorted s.regs = true) (hmode : portMode s n = 1) (hdies : s.rd (CEL_BRIDGE_ID.DIE_COUNT n) ≤ 16) :
    (enterActiveFresh s n).rd (CEL_DIE_MAP.PRESENT n) = 2 ^ s.rd (CEL_BRIDGE_ID.DIE_COUNT n) - 1 := by
  have hlt : 2 ^ s.rd (CEL_BRIDGE_ID.DIE_COUNT n) ≤ 2 ^ 16 := Nat.pow_le_pow_right (by decide) hdies
  rw [rd_of_regs (regs_enterActiveFresh hs hmode), State.rd_wr_apart _ (diesPresent_sorted hs) (Nat.le_of_ble_eq_true rfl)
    (Fld.apart_port n (a := 0x300030) (b := 0x300010) rfl rfl (by decide)), diesPresent,
    State.rd_wr_same _ _ _ (by rw [regs_modPort]; exact hs) (Nat.le_of_ble_eq_true rfl), rd_modPort, Nat.min_eq_right hdies]
  exact Nat.mod_eq_of_lt (show 2 ^ s.rd (CEL_BRIDGE_ID.DIE_COUNT n) - 1 < 2 ^ 16 by omega)

/-! ## HELLO (R268, R270, R271) -/

section
variable {vm vendor part rev dies dc cc : Nat}

/-- One HELLO more has been taken. -/
def greeted (s : State) (n : Nat) (h : FrameHdr) : State := (heard s n h).modPort n fun p => { p with helloRx := p.helloRx + 1 }

theorem port_greeted (s : State) (n : Nat) (h : FrameHdr) : (greeted s n h).port n = { s.port n with helloRx := (s.port n).helloRx + 1 } := by
  rw [greeted, port_modPort_same, port_heard]

/-- In LOCK a HELLO counts, and the sixteenth of each direction leads to VERSION. -/
theorem exec_hello_lock (hs : Tbl.sorted s.regs = true) (harr : Arrives s n h 6) (hst : portState s n = 2) :
    exec (.hello n h vm vendor part rev dies dc cc) s =
      .next (if 16 ≤ (s.port n).helloRx + 1 ∧ 16 ≤ (s.port n).helloTx then setPortState (greeted s n h) n 3 else greeted s n h) := by
  have hlock : portState (heard s n h) n = 2 := (portState_heard hs).trans hst
  show Host.Outcome.next (onFrame s n { h with typ := 6 } _) = _
  rw [onFrame_training (h := { h with typ := 6 }) harr rfl (.inl hst)]
  refine (congrArg Host.Outcome.next (if_pos hlock)).trans (congrArg Host.Outcome.next ?_)
  show (if decide (16 ≤ ((greeted s n h).port n).helloRx) && decide (16 ≤ ((greeted s n h).port n).helloTx) then setPortState (greeted s n h) n 3
    else greeted s n h) = _
  rw [port_greeted]
  simp only [Bool.and_eq_true, decide_eq_true_eq]

/-- What HELLO tells of the bridge. -/
def bridgeNoted (s : State) (n vendor part rev dies dc cc : Nat) : State :=
  s.wr (CEL_BRIDGE_ID.BRIDGE_VENDOR n) vendor |>.wr (CEL_BRIDGE_ID.BRIDGE_PART n) part
    |>.wr (CEL_BRIDGE_ID.BRIDGE_REV n) rev |>.wr (CEL_BRIDGE_ID.DIE_COUNT n) (min 16 dies)
    |>.wr (CEL_BRIDGE_ID.DATA_CREDITS n) dc |>.wr (CEL_BRIDGE_ID.CMD_CREDITS n) cc

/-- The HELLO values are taken. -/
def helloTaken (s : State) (n vm vendor part rev dies dc cc : Nat) : State :=
  (bridgeNoted s n vendor part rev dies dc cc).modPort n fun p => { p with peerVer := vm, creditData := dc, creditCmd := cc }

theorem bridgeNoted_sorted (hs : Tbl.sorted s.regs = true) : Tbl.sorted (bridgeNoted s n vendor part rev dies dc cc).regs = true :=
  wr_sorted (wr_sorted (wr_sorted (wr_sorted (wr_sorted (wr_sorted hs)))))

theorem rd_bridgeNoted_other (hs : Tbl.sorted s.regs = true) {g : Fld} (hg : g.addr ≠ CEL_BRIDGE_ID.addr n) :
    (bridgeNoted s n vendor part rev dies dc cc).rd g = s.rd g := by
  have h0 := hs
  have h1 : Tbl.sorted (s.wr (CEL_BRIDGE_ID.BRIDGE_VENDOR n) vendor).regs = true := wr_sorted h0
  have h2 : Tbl.sorted ((s.wr (CEL_BRIDGE_ID.BRIDGE_VENDOR n) vendor).wr (CEL_BRIDGE_ID.BRIDGE_PART n) part).regs = true := wr_sorted h1
  have hkeep : ∀ (u : State) (f : Fld) (v : Nat), Tbl.sorted u.regs = true → (f.lsb + f.width).ble 64 = true → f.addr = CEL_BRIDGE_ID.addr n →
      (u.wr f v).rd g = u.rd g := fun u f v hu hw hf => State.rd_wr_apart v hu (Nat.le_of_ble_eq_true hw) (.inl (by rw [hf]; exact hg))
  rw [bridgeNoted]
  rw [hkeep _ _ _ (wr_sorted (wr_sorted (wr_sorted h2))) rfl rfl, hkeep _ _ _ (wr_sorted (wr_sorted h2)) rfl rfl, hkeep _ _ _ (wr_sorted h2) rfl rfl,
    hkeep _ _ _ h2 rfl rfl, hkeep _ _ _ h1 rfl rfl, hkeep _ _ _ h0 rfl rfl]

theorem rd_bridgeNoted_counts (hs : Tbl.sorted s.regs = true) (hdies : dies ≤ 16) (hdc : dc < 256) (hcc : cc < 256) :
    (bridgeNoted s n vendor part rev dies dc cc).rd (CEL_BRIDGE_ID.DIE_COUNT n) = dies ∧
    (bridgeNoted s n vendor part rev dies dc cc).rd (CEL_BRIDGE_ID.DATA_CREDITS n) = dc ∧
    (bridgeNoted s n vendor part rev dies dc cc).rd (CEL_BRIDGE_ID.CMD_CREDITS n) = cc := by
  have h3 := wr_sorted (f := CEL_BRIDGE_ID.BRIDGE_REV n) (v := rev) (wr_sorted (f := CEL_BRIDGE_ID.BRIDGE_PART n) (v := part)
    (wr_sorted (f := CEL_BRIDGE_ID.BRIDGE_VENDOR n) (v := vendor) hs))
  have h4 := wr_sorted (f := CEL_BRIDGE_ID.DIE_COUNT n) (v := min 16 dies) h3
  have h5 := wr_sorted (f := CEL_BRIDGE_ID.DATA_CREDITS n) (v := dc) h4
  refine ⟨rd_wr_bits h5 rfl rfl rfl (rd_wr_bits h4 rfl rfl rfl ?_), rd_wr_bits h5 rfl rfl rfl ?_, ?_⟩
  · rw [State.rd_wr_same _ _ _ h3 (Nat.le_of_ble_eq_true rfl), Nat.min_eq_right hdies]
    exact Nat.mod_eq_of_lt (show dies < 256 by omega)
  · exact (State.rd_wr_same _ _ _ h4 (Nat.le_of_ble_eq_true rfl)).trans (Nat.mod_eq_of_lt hdc)
  · exact (State.rd_wr_same _ _ _ h5 (Nat.le_of_ble_eq_true rfl)).trans (Nat.mod_eq_of_lt hcc)

theorem mask_helloTaken (s : State) (n vm vendor part rev dies dc cc : Nat) : Mask 4097 s (helloTaken s n vm vendor part rev dies dc cc) :=
  modPort_mask (by decide) (wr_mask (by decide) (wr_mask (by decide) (wr_mask (by decide) (wr_mask (by decide) (wr_mask (by decide)
    (wr_mask (by decide) (mask_refl _ s)))))))

theorem port_bridgeNoted (s : State) (n vendor part rev dies dc cc m : Nat) : (bridgeNoted s n vendor part rev dies dc cc).port m = s.port m := by
  rw [bridgeNoted, port_wr, port_wr, port_wr, port_wr, port_wr, port_wr]

theorem port_helloTaken (s : State) (n vm vendor part rev dies dc cc : Nat) :
    (helloTaken s n vm vendor part rev dies dc cc).port n = { s.port n with peerVer := vm, creditData := dc, creditCmd := cc } := by
  rw [helloTaken, port_modPort_same, port_bridgeNoted]

theorem rd_helloTaken (s : State) (n vm vendor part rev dies dc cc : Nat) (g : Fld) :
    (helloTaken s n vm vendor part rev dies dc cc).rd g = (bridgeNoted s n vendor part rev dies dc cc).rd g := rd_modPort _ _ _ _

theorem helloTaken_sorted (hs : Tbl.sorted s.regs = true) : Tbl.sorted (helloTaken s n vm vendor part rev dies dc cc).regs = true := by
  rw [helloTaken, regs_modPort]
  exact bridgeNoted_sorted hs

/-- The state after the HELLO values of a frame. -/
abbrev versionTold (s : State) (n : Nat) (h : FrameHdr) (vm vendor part rev dies dc cc : Nat) : State :=
  helloTaken (heard s n h) n vm vendor part rev dies dc cc

theorem rd_versionTold (hs : Tbl.sorted s.regs = true) {g : Fld} {a : Nat} (hg : g.addr = a + 0x1000 * n) (hbridge : a ≠ 0x300040) (herr : a ≠ 0x300020) :
    (versionTold s n h vm vendor part rev dies dc cc).rd g = s.rd g := by
  have hne : g.addr ≠ CEL_BRIDGE_ID.addr n := by
    rw [hg, CEL_BRIDGE_ID.addr]
    omega
  rw [versionTold, rd_helloTaken, rd_bridgeNoted_other (bump_sorted hs) hne]
  exact State.rd_wr_apart _ hs (Nat.le_of_ble_eq_true rfl) (Fld.apart_port n (b := 0x300020) hg rfl herr)

theorem agreedVersion_versionTold (hs : Tbl.sorted s.regs = true) :
    agreedVersion (versionTold s n h vm vendor part rev dies dc cc) n vm = agreedVersion s n vm := by
  rw [agreedVersion, State.on, rd_versionTold hs (a := 0x300000) rfl (by decide) (by decide), ← State.on, agreedVersion]

/-- The port's version is set. -/
abbrev withVersion (s : State) (n v : Nat) : State := s.wr (CEL_PORT_STATUS.VER n) v

theorem exec_hello_version (hs : Tbl.sorted s.regs = true) (harr : Arrives s n h 6) (hst : portState s n = 3) :
    exec (.hello n h vm vendor part rev dies dc cc) s = .next (if vm = 0 ∨ dc < 4 ∨ cc < 4 then failAttempt (versionTold s n h vm vendor part rev dies dc cc) n
      else if agreedVersion s n vm = 1 then
        enterActiveFresh (withVersion (versionTold s n h vm vendor part rev dies dc cc) n (agreedVersion s n vm)) n
      else queueLink (withVersion (versionTold s n h vm vendor part rev dies dc cc) n (agreedVersion s n vm)) n 2 2 []) := by
  have hversion : portState (heard s n h) n = 3 := (portState_heard hs).trans hst
  have hlock : ¬ portState (heard s n h) n = 2 := by rw [hversion]; decide
  rw [← agreedVersion_versionTold (h := h) (vendor := vendor) (part := part) (rev := rev) (dies := dies) (dc := dc) (cc := cc) hs]
  show Host.Outcome.next (onFrame s n { h with typ := 6 } _) = _
  rw [onFrame_training (h := { h with typ := 6 }) harr rfl (.inr (.inl hst))]
  refine (congrArg Host.Outcome.next ((if_neg hlock).trans (if_pos hversion))).trans (congrArg Host.Outcome.next ?_)
  by_cases hbad : vm = 0 ∨ dc < 4 ∨ cc < 4
  · rw [if_pos hbad]
    exact if_pos (by simpa [or_assoc] using hbad)
  · rw [if_neg hbad]
    exact if_neg (by simpa [or_assoc] using hbad)

theorem mask_versionTold (s : State) (n : Nat) (h : FrameHdr) (vm vendor part rev dies dc cc : Nat) :
    Mask 4097 s (versionTold s n h vm vendor part rev dies dc cc) :=
  mask_trans (bump_mask (by decide) (mask_refl _ s)) (mask_helloTaken (heard s n h) n vm vendor part rev dies dc cc)

theorem versionTold_sorted (hs : Tbl.sorted s.regs = true) : Tbl.sorted (versionTold s n h vm vendor part rev dies dc cc).regs = true :=
  helloTaken_sorted (bump_sorted hs)

theorem port_versionTold (s : State) (n : Nat) (h : FrameHdr) (vm vendor part rev dies dc cc : Nat) :
    (versionTold s n h vm vendor part rev dies dc cc).port n = { s.port n with peerVer := vm, creditData := dc, creditCmd := cc } := by
  rw [versionTold, port_helloTaken, port_heard]

/-- Version 1.0 is ACTIVE at once. -/
theorem hello_one (hs : Tbl.sorted s.regs = true) (harr : Arrives s n h 6) (hst : portState s n = 3) (hdies : dies ≤ 16) (hdc : dc < 256) (hcc : cc < 256)
    (hvm : 0 < vm) (hdc4 : 4 ≤ dc) (hcc4 : 4 ≤ cc) (hagree : agreedVersion s n vm = 1) (hmode : portMode s n = 1) :
    ∃ t, exec (.hello n h vm vendor part rev dies dc cc) s = .next t ∧ Only [.regs, .cel, .seqs] s t ∧ portState t n = 5 ∧
      t.rd (CEL_PORT_STATUS.VER n) = 1 ∧ t.rd (CEL_BRIDGE_ID.DATA_CREDITS n) = dc ∧ t.rd (CEL_BRIDGE_ID.CMD_CREDITS n) = cc ∧
      t.rd (CEL_DIE_MAP.PRESENT n) = 2 ^ dies - 1 ∧ (t.port n).creditData = dc ∧ (t.port n).creditCmd = cc ∧ (t.port n).expected = 0 ∧
      (t.port n).txSeq = 0 ∧ (t.port n).unacked = [] ∧ (t.port n).acked = 0xFFF ∧ (t.port n).attempts = 0 := by
  have hexec := exec_hello_version (vm := vm) (vendor := vendor) (part := part) (rev := rev) (dies := dies) (dc := dc) (cc := cc) hs harr hst
  rw [if_neg (by omega), if_pos hagree, hagree] at hexec
  have hmask := mask_versionTold s n h vm vendor part rev dies dc cc
  have hport := port_versionTold s n h vm vendor part rev dies dc cc
  have hsort := versionTold_sorted (n := n) (h := h) (vm := vm) (vendor := vendor) (part := part) (rev := rev) (dies := dies) (dc := dc) (cc := cc) hs
  have hmode' : portMode (versionTold s n h vm vendor part rev dies dc cc) n = 1 := by
    rw [portMode_of_rd (rd_versionTold hs (a := 0x300000) rfl (by decide) (by decide)), hmode]
  obtain ⟨hcount, hdata, hcmd⟩ := rd_bridgeNoted_counts (n := n) (vendor := vendor) (part := part) (rev := rev)
    (bump_sorted (f := CEL_LINK_ERR.FEC_CORR n) (k := h.fecCorr) hs) hdies hdc hcc
  rw [← rd_helloTaken _ _ vm] at hcount hdata hcmd
  change (versionTold s n h vm vendor part rev dies dc cc).rd _ = _ at hcount hdata hcmd
  generalize versionTold s n h vm vendor part rev dies dc cc = u at hexec hmask hport hsort hmode' hcount hdata hcmd
  have hver : (withVersion u n 1).rd (CEL_PORT_STATUS.VER n) = 1 := State.rd_wr_same _ _ _ hsort (Nat.le_of_ble_eq_true rfl)
  have hkeep : ∀ {g : Fld} {a : Nat}, g.addr = a + 0x1000 * n → a ≠ 0x300010 → (withVersion u n 1).rd g = u.rd g := fun hg ha =>
    State.rd_wr_apart _ hsort (Nat.le_of_ble_eq_true rfl) (Fld.apart_port n (b := 0x300010) hg rfl ha)
  have hsort' : Tbl.sorted (withVersion u n 1).regs = true := wr_sorted hsort
  have hmode'' : portMode (withVersion u n 1) n = 1 := by
    rw [portMode_of_rd (hkeep (a := 0x300000) rfl (by decide)), hmode']
  have hwport : (withVersion u n 1).port n = u.port n := port_wr _ _ _ _
  have hwmask : Mask 4097 s (withVersion u n 1) := wr_mask (by decide) hmask
  have hcount' : (withVersion u n 1).rd (CEL_BRIDGE_ID.DIE_COUNT n) = dies := (hkeep (a := 0x300040) rfl (by decide)).trans hcount
  have hdata' : (withVersion u n 1).rd (CEL_BRIDGE_ID.DATA_CREDITS n) = dc := (hkeep (a := 0x300040) rfl (by decide)).trans hdata
  have hcmd' : (withVersion u n 1).rd (CEL_BRIDGE_ID.CMD_CREDITS n) = cc := (hkeep (a := 0x300040) rfl (by decide)).trans hcmd
  generalize withVersion u n 1 = w at hexec hver hsort' hmode'' hwport hwmask hcount' hdata' hcmd'
  have hfinal := port_enterActiveFresh hsort' hmode''
  rw [hwport, hport] at hfinal
  refine ⟨_, hexec, only_of_mask (enterActiveFresh_mask (m := 12289) (by decide) (mask_mono (by decide) hwmask)) (by decide),
    portState_enterActiveFresh hsort' hmode'', (version_enterActiveFresh hsort' hmode'').trans hver,
    (rd_enterActiveFresh hsort' hmode'' (a := 0x300040) rfl (by decide) (by decide)).trans hdata',
    (rd_enterActiveFresh hsort' hmode'' (a := 0x300040) rfl (by decide) (by decide)).trans hcmd', ?_, ?_⟩
  · rw [present_enterActiveFresh hsort' hmode'' (by rw [hcount']; exact hdies), hcount']
  · simp only [hfinal, OtPort.marked, OtPort.fresh, and_self]

/-- Version 2.0 sends SWITCH. -/
theorem hello_two (hs : Tbl.sorted s.regs = true) (harr : Arrives s n h 6) (hst : portState s n = 3)
    (hvm : 0 < vm) (hdc4 : 4 ≤ dc) (hcc4 : 4 ≤ cc) (hagree : agreedVersion s n vm = 2) :
    ∃ t, exec (.hello n h vm vendor part rev dies dc cc) s = .next t ∧ Only [.regs, .cel] s t ∧ portState t n = 3 ∧
      t.rd (CEL_PORT_STATUS.VER n) = 2 ∧ (t.port n).linkQ = (s.port n).linkQ ++ [{ typ := 6, src := .link 2 2 [] }] := by
  have hexec := exec_hello_version (vm := vm) (vendor := vendor) (part := part) (rev := rev) (dies := dies) (dc := dc) (cc := cc) hs harr hst
  rw [if_neg (by omega), if_neg (by omega), hagree] at hexec
  have hmask := mask_versionTold s n h vm vendor part rev dies dc cc
  have hport := port_versionTold s n h vm vendor part rev dies dc cc
  have hsort := versionTold_sorted (n := n) (h := h) (vm := vm) (vendor := vendor) (part := part) (rev := rev) (dies := dies) (dc := dc) (cc := cc) hs
  have hstate : portState (versionTold s n h vm vendor part rev dies dc cc) n = 3 := (rd_versionTold hs (a := 0x300010) rfl (by decide) (by decide)).trans hst
  generalize versionTold s n h vm vendor part rev dies dc cc = u at hexec hmask hport hsort hstate
  refine ⟨_, hexec, only_of_mask (queueLink_mask (m := 4097) (by decide) (wr_mask (by decide) hmask)) (by decide), ?_, ?_, ?_⟩
  · rw [queueLink, portState_modPort]
    exact rd_wr_bits hsort rfl rfl rfl hstate
  · rw [queueLink, rd_modPort]
    exact State.rd_wr_same _ _ _ hsort (Nat.le_of_ble_eq_true rfl)
  · rw [queueLink, port_modPort_same, port_wr, hport]

/-- A bridge below version 1.0 or with fewer than 4 buffers of a class fails the attempt. -/
theorem hello_fails (hs : Tbl.sorted s.regs = true) (harr : Arrives s n h 6) (hst : portState s n = 3) (hbad : vm = 0 ∨ dc < 4 ∨ cc < 4)
    (htwo : (s.port n).attempts < 2) :
    ∃ t, exec (.hello n h vm vendor part rev dies dc cc) s = .next t ∧ Only [.regs, .cel, .seqs] s t ∧ portState t n = 1 ∧
      (t.port n).attempts = (s.port n).attempts + 1 := by
  have hexec := exec_hello_version (vm := vm) (vendor := vendor) (part := part) (rev := rev) (dies := dies) (dc := dc) (cc := cc) hs harr hst
  rw [if_pos hbad] at hexec
  exact attempt_fails hexec (mask_mono (by decide) (mask_versionTold s n h vm vendor part rev dies dc cc)) (versionTold_sorted hs)
    (by rw [port_versionTold]) htwo

/-- HELLO in LOCK. -/
theorem hello_lock (hs : Tbl.sorted s.regs = true) (harr : Arrives s n h 6) (hst : portState s n = 2) :
    ∃ t, exec (.hello n h vm vendor part rev dies dc cc) s = .next t ∧ Only [.regs, .cel, .seqs] s t ∧
      (t.port n).helloRx = (s.port n).helloRx + 1 ∧ portState t n = (if 16 ≤ (s.port n).helloRx + 1 ∧ 16 ≤ (s.port n).helloTx then 3 else 2) ∧
      RegsBut s t [CEL_PORT_STATUS.STATE n, CEL_LINK_ERR.FEC_CORR n] := by
  have hexec := exec_hello_lock (vm := vm) (vendor := vendor) (part := part) (rev := rev) (dies := dies) (dc := dc) (cc := cc) hs harr hst
  have hmask : Mask 12289 s (greeted s n h) := modPort_mask (by decide) (bump_mask (by decide) (mask_refl _ s))
  have hsort : Tbl.sorted (greeted s n h).regs = true := by rw [greeted, regs_modPort]; exact bump_sorted hs
  have hbut : RegsBut s (greeted s n h) [CEL_LINK_ERR.FEC_CORR n] :=
    (regsBut_wr hs (Nat.le_of_ble_eq_true rfl) List.mem_cons_self).of_regs (regs_modPort _ _ _)
  have hstate : portState (greeted s n h) n = 2 := by rw [greeted, portState_modPort, portState_heard hs, hst]
  have hport := port_greeted s n h
  generalize greeted s n h = u at hexec hmask hsort hbut hstate hport
  by_cases hall : 16 ≤ (s.port n).helloRx + 1 ∧ 16 ≤ (s.port n).helloTx
  · rw [if_pos hall] at hexec ⊢
    refine ⟨_, hexec, only_of_mask (setPortState_mask (by decide) hmask) (by decide), ?_, portState_setPortState hsort n (by decide),
      regsBut_trans (regsBut_mono hbut fun x hx => List.mem_cons_of_mem _ hx) (regsBut_mono (regsBut_setPortState hsort n 3) fun x hx => ?_)⟩
    · rw [port_setPortState, hport]
    · rw [List.mem_singleton.1 hx]
      exact List.mem_cons_self
  · rw [if_neg hall] at hexec ⊢
    exact ⟨_, hexec, only_of_mask hmask (by decide), by rw [hport], hstate, regsBut_mono hbut fun x hx => List.mem_cons_of_mem _ hx⟩

end

/-! ## SWITCH and equalisation (R260, R270) -/

theorem mask_heard_modPort (s : State) (n : Nat) (h : FrameHdr) (f : OtPort → OtPort) : Mask 4097 s ((heard s n h).modPort n f) :=
  modPort_mask (by decide) (bump_mask (by decide) (mask_refl _ s))

theorem heard_modPort_sorted (hs : Tbl.sorted s.regs = true) (f : OtPort → OtPort) : Tbl.sorted ((heard s n h).modPort n f).regs = true := by
  rw [regs_modPort]
  exact bump_sorted hs

theorem portState_heard_modPort (hs : Tbl.sorted s.regs = true) (f : OtPort → OtPort) : portState ((heard s n h).modPort n f) n = portState s n := by
  rw [portState_modPort, portState_heard hs]

/-- SWITCH is received. -/
def switched (s : State) (n : Nat) (h : FrameHdr) : State := (heard s n h).modPort n fun p => { p with switchRx := true }

theorem port_switched (s : State) (n : Nat) (h : FrameHdr) : (switched s n h).port n = { s.port n with switchRx := true } := by
  rw [switched, port_modPort_same, port_heard]

theorem exec_switch (hs : Tbl.sorted s.regs = true) (harr : Arrives s n h 6) (hst : portState s n = 3) {ver : Nat}
    (hver : ver = s.rd (CEL_PORT_STATUS.VER n)) :
    exec (.switch n h ver) s = .next (if (s.port n).switchTx then setPortState (switched s n h) n 4 else switched s n h) := by
  have hver' : (heard s n h).rd (CEL_PORT_STATUS.VER n) = s.rd (CEL_PORT_STATUS.VER n) :=
    State.rd_wr_apart _ hs (Nat.le_of_ble_eq_true rfl) (Fld.apart_port n (a := 0x300010) (b := 0x300020) rfl rfl (by decide))
  have hgo : (decide (portState (heard s n h) n = 3) && decide (ver = (heard s n h).rd (CEL_PORT_STATUS.VER n))) = true := by
    rw [portState_heard hs, hver', hst, hver]
    simp
  have htx : ((switched s n h).port n).switchTx = (s.port n).switchTx := by rw [port_switched]
  rw [← htx]
  show Host.Outcome.next (onFrame s n { h with typ := 6 } _) = _
  rw [onFrame_training (h := { h with typ := 6 }) harr rfl (.inr (.inl hst))]
  exact congrArg Host.Outcome.next (if_pos hgo)

theorem switch_received (hs : Tbl.sorted s.regs = true) (harr : Arrives s n h 6) (hst : portState s n = 3) {ver : Nat}
    (hver : ver = s.rd (CEL_PORT_STATUS.VER n)) : ∃ t, exec (.switch n h ver) s = .next t ∧ Only [.regs, .cel, .seqs] s t ∧
      (t.port n).switchRx = true ∧ portState t n = (if (s.port n).switchTx then 4 else 3) := by
  have hexec := exec_switch hs harr hst hver
  have hmask : Mask 12289 s (switched s n h) := mask_mono (by decide) (mask_heard_modPort s n h _)
  have hsort : Tbl.sorted (switched s n h).regs = true := heard_modPort_sorted hs _
  have hstate : portState (switched s n h) n = 3 := (portState_heard_modPort hs _).trans hst
  have hport := port_switched s n h
  generalize switched s n h = u at hexec hmask hsort hstate hport
  cases htx : (s.port n).switchTx with
  | false =>
    rw [htx, if_neg Bool.false_ne_true] at hexec
    exact ⟨_, hexec, only_of_mask hmask (by decide), by rw [hport], hstate⟩
  | true =>
    rw [htx, if_pos rfl] at hexec
    exact ⟨_, hexec, only_of_mask (setPortState_mask (by decide) hmask) (by decide), by rw [port_setPortState, hport], portState_setPortState hsort n (by decide)⟩

theorem eqReq_takes (hs : Tbl.sorted s.regs = true) (harr : Arrives s n h 6) (hst : portState s n = 4) (preset : Nat) :
    ∃ t, exec (.eqReq n h preset) s = .next t ∧ Only [.regs, .cel] s t ∧ (t.port n).txPreset = preset % 16 ∧ portState t n = 4 := by
  have hgo : (decide (portState (heard s n h) n = 4) || decide (portState (heard s n h) n = 7)) = true := by
    rw [portState_heard hs, hst]
    rfl
  have hexec : exec (.eqReq n h preset) s = .next ((heard s n h).modPort n fun p => { p with txPreset := preset % 16 }) := by
    show Host.Outcome.next (onFrame s n { h with typ := 6 } _) = _
    rw [onFrame_training (h := { h with typ := 6 }) harr rfl (.inr (.inr (.inl hst)))]
    exact congrArg Host.Outcome.next (if_pos hgo)
  refine ⟨_, hexec, only_of_mask (mask_heard_modPort s n h _) (by decide), ?_, (portState_heard_modPort hs _).trans hst⟩
  rw [port_modPort_same]

/-- The presets that EQ_RSP reports. -/
def equalised (s : State) (n : Nat) (h : FrameHdr) (errs loc : Nat) : State :=
  (heard s n h).modPort n fun p => { p with eqTx := decide (errs ≤ 16), eqRx := decide (loc ≤ 16) }

theorem exec_eqRsp (hs : Tbl.sorted s.regs = true) (harr : Arrives s n h 6) (hst : portState s n = 4) (errs loc : Nat) :
    exec (.eqRsp n h errs loc) s = .next (if decide (errs ≤ 16) && decide (loc ≤ 16) then enterActiveFresh (equalised s n h errs loc) n
      else equalised s n h errs loc) := by
  show Host.Outcome.next (onFrame s n { h with typ := 6 } _) = _
  rw [onFrame_training (h := { h with typ := 6 }) harr rfl (.inr (.inr (.inl hst)))]
  exact congrArg Host.Outcome.next (if_pos ((portState_heard hs).trans hst))

theorem eqRsp_active (hs : Tbl.sorted s.regs = true) (harr : Arrives s n h 6) (hst : portState s n = 4) {errs loc : Nat} (herrs : errs ≤ 16) (hloc : loc ≤ 16)
    (hmode : portMode s n = 1) : ∃ t, exec (.eqRsp n h errs loc) s = .next t ∧ Only [.regs, .cel, .seqs] s t ∧ portState t n = 5 ∧
        (t.port n).expected = 0 ∧ (t.port n).txSeq = 0 ∧ (t.port n).unacked = [] ∧ (t.port n).rxAny = false := by
  have hexec := exec_eqRsp hs harr hst errs loc
  rw [decide_eq_true herrs, decide_eq_true hloc, Bool.and_self, if_pos rfl] at hexec
  have hmode' : portMode (equalised s n h errs loc) n = 1 := by rw [equalised, portMode_modPort, portMode_heard hs, hmode]
  have hmask : Mask 12289 s (equalised s n h errs loc) := mask_mono (by decide) (mask_heard_modPort s n h _)
  have hsort : Tbl.sorted (equalised s n h errs loc).regs = true := heard_modPort_sorted hs _
  generalize equalised s n h errs loc = u at hexec hmode' hmask hsort
  refine ⟨_, hexec, only_of_mask (enterActiveFresh_mask (by decide) hmask) (by decide), portState_enterActiveFresh hsort hmode', ?_⟩
  simp only [port_enterActiveFresh hsort hmode', OtPort.marked, OtPort.fresh, and_self]

theorem eqRsp_waits (hs : Tbl.sorted s.regs = true) (harr : Arrives s n h 6) (hst : portState s n = 4) {errs loc : Nat} (hbad : 16 < errs ∨ 16 < loc) :
    ∃ t, exec (.eqRsp n h errs loc) s = .next t ∧ Only [.regs, .cel] s t ∧ portState t n = 4 := by
  have hexec := exec_eqRsp hs harr hst errs loc
  rw [if_neg (by simp; omega)] at hexec
  exact ⟨_, hexec, only_of_mask (mask_heard_modPort s n h _) (by decide), (portState_heard_modPort hs _).trans hst⟩

/-! ## TRAIN, detection and time-outs -/

theorem exec_portTrain (hst : portState s n = 0) (hmode : portMode s n = 1) (hpop : populated s n = true) (hret : portRetired s n = false)
    (hclk : refclkOn s n = true) (htest : s.pwr.straps.testmode = false) :
    exec (.portTrain n) s = .next (setPortState (s.modPort n fun p => p.untrained 0) n 1) := by
  show execPortTrain n s = _
  simp only [execPortTrain, hst, hmode, hpop, hret, hclk, htest, OtPort.untrained]
  rfl

theorem portTrain_starts (hs : Tbl.sorted s.regs = true) (hst : portState s n = 0) (hmode : portMode s n = 1) (hpop : populated s n = true)
    (hret : portRetired s n = false) (hclk : refclkOn s n = true) (htest : s.pwr.straps.testmode = false) :
    ∃ t, exec (.portTrain n) s = .next t ∧ Only [.regs, .cel, .seqs] s t ∧ portState t n = 1 ∧ RegsBut s t [CEL_PORT_STATUS.STATE n] ∧
      (t.port n).attempts = 0 ∧ (t.port n).helloRx = 0 ∧ (t.port n).helloTx = 0 := by
  have hexec := exec_portTrain hst hmode hpop hret hclk htest
  have hmask : Mask 12289 s (s.modPort n fun p => p.untrained 0) := modPort_mask (by decide) (mask_refl _ s)
  have hregs := regs_modPort s n fun p => p.untrained 0
  have hport : (s.modPort n fun p => p.untrained 0).port n = (s.port n).untrained 0 := port_modPort_same
  generalize (s.modPort n fun p => p.untrained 0) = u at hexec hmask hregs hport
  have hsort : Tbl.sorted u.regs = true := by rw [hregs]; exact hs
  refine ⟨_, hexec, only_of_mask (setPortState_mask (by decide) hmask) (by decide), portState_setPortState hsort n (by decide),
    regsBut_trans (regsBut_of_regs hregs) (regsBut_setPortState hsort n 1), ?_⟩
  simp only [port_setPortState, hport, OtPort.untrained, and_self]

/-- An event of training that does not fit the link's state. -/
theorem portTrain_stands (hno : portState s n ≠ 0 ∨ refclkOn s n = false) : exec (.portTrain n) s = .next s := by
  show execPortTrain n s = _
  rw [execPortTrain, if_neg]
  rcases hno with h | h <;> simp [h]

/-- Settles O49: frames in training are taken without a sequence test, so that each clause is the body of one event on the state with the header counted. -/
theorem cellarTraining : Obligations.CellarTraining := by
  unfold Obligations.CellarTraining
  intro s n h vm vendor part rev dies dc cc ver preset errs loc hinv _
  have hs := regs_sorted hinv
  have hq := seqs_sorted hinv
  refine ⟨?_, ?_, ?_, ?_, ?_, ?_, ?_, ?_, ?_, ?_, ?_, ?_⟩
  · exact fun hst hmode hpop hret hclk htest => portTrain_starts hs hst hmode hpop hret hclk htest
  · exact fun hst => portTrain_stands (.inl hst)
  · exact fun hclk => portTrain_stands (.inr hclk)
  · exact fun hst => ⟨_, congrArg Host.Outcome.next (if_pos hst), only_of_mask (setPortState_mask (m := 8193) (sub_refl _) (mask_refl _ s)) (by decide),
      portState_setPortState hs n (by decide), regsBut_setPortState hs n 2⟩
  · exact fun hst => ⟨congrArg Host.Outcome.next (if_neg hst), congrArg Host.Outcome.next (if_neg hst)⟩
  · refine fun htwo => ⟨fun hst => ?_, fun hst => ?_⟩
    · exact attempt_fails (congrArg Host.Outcome.next (if_pos hst)) (mask_refl _ s) hs rfl htwo
    · exact attempt_fails (congrArg Host.Outcome.next (if_pos (by simpa [or_assoc] using hst))) (mask_refl _ s) hs rfl htwo
  · intro htwo hidle hst
    have hexec : exec (.detectTimeout n) s = .next (retirePort (setPortState s n 0) n 3) :=
      (congrArg Host.Outcome.next (if_pos hst)).trans (congrArg Host.Outcome.next (failAttempt_third htwo))
    exact ⟨_, hexec, only_of_exec hexec, retirePort_retired (idlePort_setPortState hidle hs hq 0) (setPortState_sorted hs n 0) (setPortState_seqs_sorted hq 0) (by decide)⟩
  · exact fun h2 h3 h4 => congrArg Host.Outcome.next (if_neg (by simp [h2, h3, h4]))
  · exact fun hok hst => hello_lock hs hok hst
  · refine fun hok hst hdies hdc hcc => ⟨fun hvm hdc4 hcc4 hagree hmode => ?_, fun hvm hdc4 hcc4 hagree => ?_, fun hbad htwo => ?_⟩
    · exact hello_one hs hok hst hdies hdc hcc hvm hdc4 hcc4 hagree hmode
    · exact hello_two hs hok hst hvm hdc4 hcc4 hagree
    · exact hello_fails hs hok hst hbad htwo
  · exact fun hok hst hver => switch_received hs hok hst hver
  · refine fun hok hst => ⟨eqReq_takes hs hok hst preset, fun herrs hloc hmode => eqRsp_active hs hok hst herrs hloc hmode, fun hbad => eqRsp_waits hs hok hst hbad⟩

end Sys2Proof.Machine
end

section
/-!
PROOF. Recalibration, retraining and retirement of a port (R264 to R266, R270 to R275, R287).
-/
namespace Sys2Proof.Machine

variable {s t u : State} {n : Nat} {h : FrameHdr}

/-! ## A frame next in sequence, further -/

theorem portState_taken (hs : Tbl.sorted s.regs = true) : portState (taken s n h) n = portState s n :=
  (portState_of_regs (regs_taken s n h)).trans (portState_heard hs)

theorem rd_taken (hs : Tbl.sorted s.regs = true) {g : Fld} {a : Nat} (hg : g.addr = a + 0x1000 * n) (ha : a ≠ 0x300020) :
    (taken s n h).rd g = s.rd g := by
  rw [rd_of_regs (regs_taken s n h)]
  exact State.rd_wr_apart _ hs (Nat.le_of_ble_eq_true rfl) (Fld.apart_port n (b := 0x300020) hg rfl ha)

/-! ## Recalibration (R272) -/

/-- A port in RECAL; `told` where its RECAL_DONE is owed at once. -/
def OtPort.recalibrating (p : OtPort) (told : Bool) : OtPort := { p with recalDoneRx := false, recalDoneTx := told }

/-- The port enters RECAL, and its frame waits. -/
theorem enterRecal_enters (hs : Tbl.sorted s.regs = true) (req : Bool) :
    Mask 12289 s (enterRecal s n req) ∧ portState (enterRecal s n req) n = 6 ∧ RegsBut s (enterRecal s n req) [CEL_PORT_STATUS.STATE n] ∧
    (enterRecal s n req).port n = { (s.port n).recalibrating (!req) with
      linkQ := (s.port n).linkQ ++ [{ typ := 6, src := .link (if req then 6 else 7) 0 [] }] } := by
  have hmask : Mask 12289 s (s.modPort n fun p => p.recalibrating !req) := modPort_mask (by decide) (mask_refl _ s)
  have hregs := regs_modPort s n fun p => p.recalibrating !req
  have hport : (s.modPort n fun p => p.recalibrating !req).port n = (s.port n).recalibrating !req := port_modPort_same
  have heq : enterRecal s n req = queueLink (setPortState (s.modPort n fun p => p.recalibrating !req) n 6) n (if req then 6 else 7) 0 [] := rfl
  rw [heq]
  generalize (s.modPort n fun p => p.recalibrating !req) = u at hmask hregs hport
  have hsort : Tbl.sorted u.regs = true := by rw [hregs]; exact hs
  refine ⟨queueLink_mask (by decide) (setPortState_mask (by decide) hmask), ?_, ?_, ?_⟩
  · rw [queueLink, portState_modPort, portState_setPortState hsort n (by decide)]
  · exact (regsBut_trans (regsBut_of_regs hregs) (regsBut_setPortState hsort n 6)).of_regs (regs_modPort _ _ _)
  · rw [queueLink, port_modPort_same, port_setPortState, hport]
    rfl

/-- The port is ACTIVE again, and resends what is not acknowledged. -/
theorem enterActiveAgain_active (hs : Tbl.sorted s.regs = true) :
    Mask 12289 s (enterActiveAgain s n) ∧ portState (enterActiveAgain s n) n = 5 ∧ RegsBut s (enterActiveAgain s n) [CEL_PORT_STATUS.STATE n] ∧
    (enterActiveAgain s n).port n = { (s.port n).marked s.pwr.opSec with replay := (s.port n).unacked } := by
  have hregs : (enterActiveAgain s n).regs = (setPortState s n 5).regs := regs_modPort _ _ _
  refine ⟨enterActiveAgain_mask (by decide) (mask_refl _ s), ?_, (regsBut_setPortState hs n 5).of_regs hregs, ?_⟩
  · rw [portState_of_regs hregs, portState_setPortState hs n (by decide)]
  · rw [enterActiveAgain, port_modPort_same, recalMark_eq, port_modPort_same, port_setPortState, pwr_setPortState, OtPort.marked]

/-! ## Retraining (R273, R275) -/

/-- The counted retrains of the last 600 s. -/
def recentRetrains (s : State) (n : Nat) : List Nat := (s.port n).retrains.filter fun x => decide (s.pwr.opSec < x + 600)

/-- A port that retrains, counted at second `now`. -/
def OtPort.retraining (p : OtPort) (now : Nat) (recent : List Nat) : OtPort :=
  { p with retrains := now :: recent, recalDue := false, replayRound := 0, replay := [] }

/-- The cause and the count of a retrain. -/
def retrainNoted (s : State) (n cause : Nat) : State := (s.wr (CEL_PORT_STATUS.RETRAIN_CAUSE n) cause).bump (CEL_LINK_CNT.RETRAIN_CNT n)

theorem retrainNoted_sorted (hs : Tbl.sorted s.regs = true) (cause : Nat) : Tbl.sorted (retrainNoted s n cause).regs = true := bump_sorted (wr_sorted hs)

theorem port_retrainNoted (s : State) (n cause m : Nat) : (retrainNoted s n cause).port m = s.port m := by
  rw [retrainNoted, State.bump, port_wr, port_wr]

theorem pwr_retrainNoted (s : State) (n cause : Nat) : (retrainNoted s n cause).pwr = s.pwr := by
  rw [retrainNoted, State.bump, pwr_wr, pwr_wr]

theorem startRetrain_eq (cause : Nat) (hfew : (recentRetrains s n).length < 2) : startRetrain s n cause true =
    setPortState ((retrainNoted s n cause).modPort n fun p => p.retraining (retrainNoted s n cause).pwr.opSec (recentRetrains s n)) n 7 := by
  have hno : ¬ ((true && decide (2 ≤ (recentRetrains s n).length)) = true) := by
    simp
    omega
  exact if_neg hno

/-- A retrain has begun. -/
structure Retrained (s t : State) (n cause : Nat) : Prop where
  mask : Mask 12289 s t
  state : portState t n = 7
  cause : t.rd (CEL_PORT_STATUS.RETRAIN_CAUSE n) = cause
  count : t.rd (CEL_LINK_CNT.RETRAIN_CNT n) = min (s.rd (CEL_LINK_CNT.RETRAIN_CNT n) + 1) 0xFFFF
  port : t.port n = (s.port n).retraining s.pwr.opSec (recentRetrains s n)

theorem startRetrain_retrained (hs : Tbl.sorted s.regs = true) {cause : Nat} (hcause : cause < 256) (hfew : (recentRetrains s n).length < 2) :
    Retrained s (startRetrain s n cause true) n cause := by
  have hmask : Mask 12289 s (retrainNoted s n cause) := bump_mask (by decide) (wr_mask (by decide) (mask_refl _ s))
  have hport := port_retrainNoted s n cause n
  have hsort := retrainNoted_sorted (n := n) hs cause
  have hwhy : (retrainNoted s n cause).rd (CEL_PORT_STATUS.RETRAIN_CAUSE n) = cause := by
    rw [retrainNoted, State.bump, State.rd_wr_apart _ (wr_sorted hs) (Nat.le_of_ble_eq_true rfl)
      (Fld.apart_port n (a := 0x300010) (b := 0x300018) rfl rfl (by decide)), State.rd_wr_same _ _ _ hs (Nat.le_of_ble_eq_true rfl)]
    exact Nat.mod_eq_of_lt hcause
  have hcount : (retrainNoted s n cause).rd (CEL_LINK_CNT.RETRAIN_CNT n) = min (s.rd (CEL_LINK_CNT.RETRAIN_CNT n) + 1) 0xFFFF := by
    rw [retrainNoted, rd_bump_same 1 (wr_sorted hs) (Nat.le_of_ble_eq_true rfl), State.rd_wr_apart _ hs (Nat.le_of_ble_eq_true rfl)
      (Fld.apart_port n (a := 0x300018) (b := 0x300010) rfl rfl (by decide))]
    rfl
  rw [startRetrain_eq cause hfew]
  rw [pwr_retrainNoted]
  generalize retrainNoted s n cause = u at hmask hport hsort hwhy hcount
  have hsort' : Tbl.sorted (u.modPort n fun p => p.retraining s.pwr.opSec (recentRetrains s n)).regs = true := by rw [regs_modPort]; exact hsort
  refine ⟨setPortState_mask (by decide) (modPort_mask (by decide) hmask), portState_setPortState hsort' n (by decide), ?_, ?_, ?_⟩
  · rw [rd_of_regs (regs_setPortState _ _ _)]
    exact rd_wr_bits hsort' rfl rfl rfl ((rd_modPort _ _ _ _).trans hwhy)
  · rw [rd_of_regs (regs_setPortState _ _ _), State.rd_wr_apart _ hsort' (Nat.le_of_ble_eq_true rfl)
      (Fld.apart_port n (a := 0x300018) (b := 0x300010) rfl rfl (by decide)), rd_modPort, hcount]
  · rw [port_setPortState, port_modPort_same, hport]

theorem startRetrain_third (cause : Nat) (hmany : 2 ≤ (recentRetrains s n).length) : startRetrain s n cause true = retirePort s n 1 :=
  if_pos (by rw [Bool.true_and]; exact decide_eq_true hmany)

/-- What a retrain leaves of the port of the state before. -/
theorem Retrained.down {cause : Nat} (hr : Retrained s t n cause) : portState t n = 7 ∧ t.rd (CEL_PORT_STATUS.RETRAIN_CAUSE n) = cause ∧
    (t.port n).retrains = s.pwr.opSec :: recentRetrains s n ∧ (t.port n).replay = [] ∧ (t.port n).recalDue = false ∧
    (t.port n).unacked = (s.port n).unacked := by
  refine ⟨hr.state, hr.cause, ?_⟩
  simp only [hr.port, OtPort.retraining, and_self]

/-- An event that retrains a port. -/
theorem exec_retrained {c : Instr} {cause : Nat} (hexec : exec c s = .next (startRetrain s n cause true)) (hs : Tbl.sorted s.regs = true)
    (hcause : cause < 256) (hfew : (recentRetrains s n).length < 2) : ∃ t, exec c s = .next t ∧ Only [.regs, .cel, .seqs] s t ∧ portState t n = 7 ∧
    t.rd (CEL_PORT_STATUS.RETRAIN_CAUSE n) = cause ∧ (t.port n).retrains = s.pwr.opSec :: recentRetrains s n ∧ (t.port n).replay = [] ∧
    (t.port n).recalDue = false ∧ (t.port n).unacked = (s.port n).unacked :=
  have hr := startRetrain_retrained hs hcause hfew
  ⟨_, hexec, only_of_mask hr.mask (by decide), hr.down⟩

/-! ## LINK frames of recalibration and retraining -/

theorem exec_recalReq (hs : Tbl.sorted s.regs = true) (harr : Arrives s n h 6) (hord : InOrder s n h) (hst : portState s n = 5) :
    exec (.recalReq n h) s = .next (enterRecal (taken s n h) n false) := by
  show Host.Outcome.next (onFrame s n { h with typ := 6 } _) = _
  rw [onFrame_inOrder (h := { h with typ := 6 }) harr hord (show (6 : Nat) ≠ 5 by decide) (.inl hst)]
  exact congrArg Host.Outcome.next (if_pos ((portState_taken hs).trans hst))

/-- RECAL_DONE is counted. -/
def recalCounted (s : State) (n : Nat) (h : FrameHdr) : State := (taken s n h).bump (CEL_LINK_ERR.RECAL_CNT n)

theorem exec_recalDone (hs : Tbl.sorted s.regs = true) (harr : Arrives s n h 6) (hord : InOrder s n h) (hst : portState s n = 6)
    (hdone : (s.port n).recalDoneTx = true) : exec (.recalDone n h) s = .next (enterActiveAgain (recalCounted s n h) n) := by
  have hdone' : ((taken s n h).port n).recalDoneTx = true := by rw [port_taken, OtPort.taken, hdone]
  show Host.Outcome.next (onFrame s n { h with typ := 6 } _) = _
  rw [onFrame_inOrder (h := { h with typ := 6 }) harr hord (show (6 : Nat) ≠ 5 by decide) (.inr ⟨hst, .inr rfl⟩)]
  refine (congrArg Host.Outcome.next (if_pos ((portState_taken hs).trans hst))).trans (congrArg Host.Outcome.next ?_)
  exact congrArg (fun u => enterActiveAgain (State.bump u (CEL_LINK_ERR.RECAL_CNT n)) n) (if_pos hdone')

theorem exec_retrainReq (hs : Tbl.sorted s.regs = true) (harr : Arrives s n h 6) (hord : InOrder s n h) (hst : portState s n = 5) (cause : Nat) :
    exec (.retrainReq n h cause) s = .next (startRetrain (taken s n h) n 2 true) := by
  have hgo : (decide (portState (taken s n h) n = 5) || decide (portState (taken s n h) n = 6)) = true := by
    rw [portState_taken hs, hst]
    rfl
  show Host.Outcome.next (onFrame s n { h with typ := 6 } _) = _
  rw [onFrame_inOrder (h := { h with typ := 6 }) harr hord (show (6 : Nat) ≠ 5 by decide) (.inl hst)]
  exact congrArg Host.Outcome.next (if_pos hgo)

theorem recalReq_enters (hs : Tbl.sorted s.regs = true) (harr : Arrives s n h 6) (hord : InOrder s n h) (hst : portState s n = 5) :
    ∃ t, exec (.recalReq n h) s = .next t ∧ Only [.regs, .cel, .seqs] s t ∧ portState t n = 6 ∧
      (t.port n).expected = ((s.port n).expected + 1) % 4096 ∧ (t.port n).linkQ = (s.port n).linkQ ++ [{ typ := 6, src := .link 7 0 [] }] := by
  have hexec := exec_recalReq hs harr hord hst
  have htaken := mask_taken s n h
  have hport := port_taken s n h
  have hsort := taken_sorted (n := n) (h := h) hs
  generalize taken s n h = u at hexec htaken hport hsort
  obtain ⟨hmask, hstate, _, hentered⟩ := enterRecal_enters (n := n) hsort false
  refine ⟨_, hexec, only_of_mask (mask_trans (mask_mono (by decide) htaken) hmask) (by decide), hstate, ?_⟩
  simp only [hentered, OtPort.recalibrating, hport, OtPort.taken, Bool.false_eq_true, if_false, and_self]

theorem recalDone_returns (hs : Tbl.sorted s.regs = true) (harr : Arrives s n h 6) (hord : InOrder s n h) (hst : portState s n = 6)
    (hdone : (s.port n).recalDoneTx = true) : ∃ t, exec (.recalDone n h) s = .next t ∧ Only [.regs, .cel, .seqs] s t ∧ portState t n = 5 ∧
      t.rd (CEL_LINK_ERR.RECAL_CNT n) = min (s.rd (CEL_LINK_ERR.RECAL_CNT n) + 1) 0xFFFF ∧ (t.port n).replay = (s.port n).unacked ∧
      (t.port n).lastRecalSec = s.pwr.opSec ∧ (t.port n).linkQ = (s.port n).linkQ := by
  have hexec := exec_recalDone hs harr hord hst hdone
  have hmask : Mask 12289 s (recalCounted s n h) := bump_mask (by decide) (mask_mono (by decide) (mask_taken s n h))
  have hsort : Tbl.sorted (recalCounted s n h).regs = true := bump_sorted (taken_sorted hs)
  have hport : (recalCounted s n h).port n = (s.port n).taken h := (port_wr _ _ _ _).trans (port_taken s n h)
  have hcount : (recalCounted s n h).rd (CEL_LINK_ERR.RECAL_CNT n) = min (s.rd (CEL_LINK_ERR.RECAL_CNT n) + 1) 0xFFFF := by
    rw [recalCounted, rd_bump_same 1 (taken_sorted hs) (Nat.le_of_ble_eq_true rfl), rd_of_regs (regs_taken s n h)]
    exact congrArg (fun x => min (x + 1) 0xFFFF) (rd_wr_bits hs rfl rfl rfl rfl)
  generalize recalCounted s n h = u at hexec hmask hsort hport hcount
  obtain ⟨hback, hstate, hbut, hactive⟩ := enterActiveAgain_active (n := n) hsort
  refine ⟨_, hexec, only_of_mask (mask_trans hmask hback) (by decide), hstate, ?_, ?_⟩
  · rw [hbut.rd_eq fun x hx => List.mem_singleton.1 hx ▸ Fld.apart_port n (a := 0x300020) (b := 0x300010) rfl rfl (by decide), hcount]
  · have hpwr : u.pwr = s.pwr := hmask.2 .pwr (by decide)
    simp only [hactive, OtPort.marked, hport, OtPort.taken, hpwr, and_self]

theorem retrainReq_retrains (hs : Tbl.sorted s.regs = true) (harr : Arrives s n h 6) (hord : InOrder s n h) (hst : portState s n = 5) (cause : Nat)
    (hfew : (recentRetrains s n).length < 2) : ∃ t, exec (.retrainReq n h cause) s = .next t ∧ Only [.regs, .cel, .seqs] s t ∧ portState t n = 7 ∧
      t.rd (CEL_PORT_STATUS.RETRAIN_CAUSE n) = 2 ∧ (t.port n).retrains = s.pwr.opSec :: recentRetrains s n ∧ (t.port n).replay = [] ∧
      (t.port n).recalDue = false ∧ (t.port n).unacked = (s.port n).unacked := by
  have hexec := exec_retrainReq hs harr hord hst cause
  have htaken := mask_taken s n h
  have hport := port_taken s n h
  have hsort := taken_sorted (n := n) (h := h) hs
  generalize taken s n h = u at hexec htaken hport hsort
  have hpwr : u.pwr = s.pwr := htaken.2 .pwr (by decide)
  have hrecent : recentRetrains u n = recentRetrains s n := by rw [recentRetrains, recentRetrains, hport, hpwr, OtPort.taken]
  have hr := startRetrain_retrained (n := n) (cause := 2) hsort (by decide) (by rw [hrecent]; exact hfew)
  have hdown := hr.down
  rw [hrecent, hpwr, hport, OtPort.taken] at hdown
  exact ⟨_, hexec, only_of_mask (mask_trans (mask_mono (by decide) htaken) hr.mask) (by decide), hdown⟩

/-! ## The reference clock outputs (R253) -/

/-- The number whose bits below `k` are `f`. -/
def bitSum (f : Nat → Bool) (k : Nat) : Nat := (List.range k).foldl (fun a g => a + if f g then 2 ^ g else 0) 0

theorem bitSum_succ (f : Nat → Bool) (k : Nat) : bitSum f (k + 1) = bitSum f k + if f k then 2 ^ k else 0 := by
  rw [bitSum, List.range_succ, List.foldl_append, bitSum]
  rfl

theorem bitSum_lt (f : Nat → Bool) (k : Nat) : bitSum f k < 2 ^ k := by
  induction k with
  | zero => exact Nat.one_pos
  | succ k ih =>
    rw [bitSum_succ, Nat.pow_succ]
    split <;> omega

theorem bitAt_eq_testBit (v i : Nat) : bitAt v i = v.testBit i := by
  rw [bitAt, Nat.testBit_eq_decide_div_mod_eq]

theorem bitAt_bitSum (f : Nat → Bool) {g k : Nat} (hg : g < k) : bitAt (bitSum f k) g = f g := by
  induction k with
  | zero => exact absurd hg (Nat.not_lt_zero g)
  | succ k ih =>
    rw [bitSum_succ, bitAt_eq_testBit]
    rcases Nat.lt_succ_iff_lt_or_eq.1 hg with hlt | rfl
    · rw [← ih hlt, bitAt_eq_testBit]
      split
      · rw [Nat.add_comm, Nat.testBit_two_pow_add_gt hlt]
      · rw [Nat.add_zero]
    · have hlow : (bitSum f g).testBit g = false := Nat.testBit_lt_two_pow (bitSum_lt f g)
      cases hf : f g with
      | true => rw [if_pos rfl, Nat.add_comm, Nat.testBit_two_pow_add_eq, hlow, Bool.not_false]
      | false => rw [if_neg Bool.false_ne_true, Nat.add_zero, hlow]

theorem bitSum_congr {f g : Nat → Bool} {k : Nat} (h : ∀ i < k, f i = g i) : bitSum f k = bitSum g k := by
  induction k with
  | zero => rfl
  | succ k ih => rw [bitSum_succ, bitSum_succ, ih fun i hi => h i (Nat.lt_succ_of_lt hi), h k (Nat.lt_succ_self k)]

/-- Whether every port of a group is off, retired or a Stair link. -/
def groupQuiet (s : State) (g : Nat) : Bool :=
  (List.range 8).all fun i => portState s (8 * g + i) == 0 || portState s (8 * g + i) == 9 || portMode s (8 * g + i) == 2

theorem groupQuiet_of_active {g : Nat} (hst : portState s (8 * g) = 5) (hmode : portMode s (8 * g) = 1) : groupQuiet s g = false :=
  List.all_eq_false.2 ⟨0, List.mem_range.2 (by decide), by simp [hst, hmode]⟩

/-- While a port of every group is ACTIVE, an output that runs stays. -/
theorem exec_refclkOutputCtl (hrun : ∀ g, g < 8 → portState s (8 * g) = 5 ∧ portMode s (8 * g) = 1) (v : U64) :
    exec (.refclkOutputCtl v) s = .next (s.wr CEL_REFCLK_CTL.EN (bitSum (fun g => v.getLsbD g || bitAt (s.rd CEL_REFCLK_CTL.EN) g) 8)) := by
  have hbits : ∀ g < 8, (bitAt v.toNat g || (bitAt (s.rd CEL_REFCLK_CTL.EN) g && !groupQuiet s g)) = (v.getLsbD g || bitAt (s.rd CEL_REFCLK_CTL.EN) g) := by
    intro g hg
    obtain ⟨hst, hmode⟩ := hrun g hg
    rw [groupQuiet_of_active hst hmode, Bool.not_false, Bool.and_true, bitAt_eq_testBit v.toNat, BitVec.getLsbD]
  exact congrArg (fun x => Host.Outcome.next (s.wr CEL_REFCLK_CTL.EN x)) (bitSum_congr hbits)

/-! ## Timers and software -/

theorem modPort_congr {f g : OtPort → OtPort} (h : f (s.port n) = g (s.port n)) : s.modPort n f = s.modPort n g :=
  congrArg (fun p => s.modCel fun c => { c with ports := Tbl.setD s.cel.ports n p {} }) h

theorem replayTimerExpiry_starts {f : TxFrame} (hst : portState s n = 5) (hun : (s.port n).unacked = [f]) (hrep : (s.port n).replay = []) :
    exec (.replayTimerExpiry n) s = .next (replayRound s n) := by
  refine congrArg Host.Outcome.next (if_pos ?_)
  rw [hst, hun, hrep]
  rfl

theorem replayRound_again {f : TxFrame} (hun : (s.port n).unacked = [f]) (hround : (s.port n).replayRound < 8) :
    replayRound s n = s.modPort n fun p => { p with replayRound := p.replayRound + 1, replay := [{ f with retx := true }] } := by
  have heq : replayRound s n = s.modPort n fun p =>
      { p with replayRound := p.replayRound + 1, replay := p.unacked.map fun f => { f with retx := true } } := if_neg (by omega)
  rw [heq]
  refine modPort_congr ?_
  rw [hun]
  rfl

/-- The oldest CMD of a descriptor is closed and its sequencer is told. -/
theorem noStatusTimeout_acts {i : Nat} {hw : DescHw} (hq : Tbl.sorted s.seqs = true) (hd : Tbl.find (s.seq n).descs i = some hw) (hopen : hw.open_ ≠ [])
    (hended : hw.ended = false) (hst : portState s n = 5) : ∃ t, exec (.noStatusTimeout n i) s = .next t ∧ OnlySeq s t n ∧
      Tbl.find (t.seq n).descs i = some { hw with open_ := hw.open_.drop 1 } := by
  have hexec : exec (.noStatusTimeout n i) s = .next (tellDesc s n i (fun h => { h with open_ := h.open_.drop 1 }) (evWord 0x05 0 i)) := by
    show execNoStatusTimeout n i s = _
    simp only [execNoStatusTimeout, hd]
    exact congrArg Host.Outcome.next (if_pos (by simp [hopen, hended, hst]))
  refine ⟨_, hexec, onlySeq_tellDesc _ _ _ _ _, ?_⟩
  rw [tellDesc, descs_raise (modSeq_sorted hq), seq_modSeq_same hq]
  rw [Tbl.find_upd_same, hd, Option.map_some]

theorem noStatusTimeout_stands {i : Nat} (hst : portState s n = 6 ∨ portState s n = 7) : exec (.noStatusTimeout n i) s = .next s := by
  show execNoStatusTimeout n i s = _
  rw [execNoStatusTimeout]
  split
  · rfl
  · refine congrArg Host.Outcome.next (if_neg ?_)
    rcases hst with h | h <;> simp [h]

theorem portHold_holds (hs : Tbl.sorted s.regs = true) (hpop : populated s n = true) : ∃ t, exec (.portHold n true) s = .next t ∧ Only [.regs] s t ∧
    t.on (CEL_PORT_CTL.HOLD n) = true ∧ RegsBut s t [CEL_PORT_CTL.HOLD n] :=
  ⟨_, congrArg Host.Outcome.next (if_pos hpop), only_of_mask (wr_mask (m := 1) (sub_refl _) (mask_refl _ s)) (by decide),
    on_set1_same hs (Nat.le_of_ble_eq_true rfl) Nat.one_ne_zero, regsBut_wr hs (Nat.le_of_ble_eq_true rfl) List.mem_cons_self⟩

theorem lockRegained_returns (hs : Tbl.sorted s.regs = true) (hst : portState s n = 7) : ∃ t, exec (.lockRegained n) s = .next t ∧
    Only [.regs, .cel, .seqs] s t ∧ portState t n = 5 ∧ (t.port n).replay = (s.port n).unacked ∧
    t.rd (CEL_PORT_STATUS.VER n) = s.rd (CEL_PORT_STATUS.VER n) := by
  obtain ⟨hback, hstate, hbut, hactive⟩ := enterActiveAgain_active (n := n) hs
  refine ⟨_, congrArg Host.Outcome.next (if_pos hst), only_of_mask hback (by decide), hstate, by rw [hactive], ?_⟩
  exact hbut.rd_eq fun x hx => List.mem_singleton.1 hx ▸ apart_bits rfl rfl

/-- Settles O50: a retrain not the third within 600 s leaves what `Retrained` says, whatever began it; recalibration is the pair of RECAL frames on a frame
taken in sequence. -/
theorem cellarRecalibration : Obligations.CellarRecalibration := by
  unfold Obligations.CellarRecalibration
  intro s n cause i h v f hw hinv _
  have hs := regs_sorted hinv
  have hq := seqs_sorted hinv
  refine ⟨?_, ?_, ?_, ?_, ?_, ?_, ?_, ?_, ?_, ?_, ?_, ?_, ?_, ?_⟩
  · intro hst hdue
    obtain ⟨hmask, hstate, hbut, hport⟩ := enterRecal_enters (n := n) hs true
    refine ⟨_, congrArg Host.Outcome.next (if_pos (Bool.and_eq_true_iff.2 ⟨decide_eq_true hst, hdue⟩)), only_of_mask hmask (by decide), hstate, hbut, ?_, ?_⟩
    · rw [hport]
      rfl
    · rw [hport]
      rfl
  · exact fun hno => congrArg Host.Outcome.next (if_neg (by rw [hno]; simp))
  · exact fun harr hord => ⟨fun hst => recalReq_enters hs harr hord hst, fun hst hdone => recalDone_returns hs harr hord hst hdone,
      fun hst hfew => retrainReq_retrains hs harr hord hst cause hfew⟩
  · refine fun hfew => ⟨fun hst => ?_, fun hst => ?_, fun hst => ?_, fun hst => ?_⟩
    · exact exec_retrained (congrArg Host.Outcome.next (if_pos hst)) hs (by decide) hfew
    · exact exec_retrained (congrArg Host.Outcome.next (if_pos hst)) hs (rd_lt s _) hfew
    · exact exec_retrained (congrArg Host.Outcome.next (if_pos hst)) hs (by decide) hfew
    · have hr := startRetrain_retrained (n := n) (cause := 3) hs (by decide) hfew
      obtain ⟨hstate, hwhy, hport⟩ := hr.down
      exact ⟨_, congrArg Host.Outcome.next (if_pos hst), only_of_mask hr.mask (by decide), ⟨hstate, hwhy, hport⟩, hr.count⟩
  · intro hmany hidle hst
    have hexec : exec (.portRetrain n) s = .next (retirePort s n 1) :=
      (congrArg Host.Outcome.next (if_pos hst)).trans (congrArg Host.Outcome.next (startRetrain_third 3 hmany))
    exact ⟨_, hexec, only_of_exec hexec, retirePort_retired hidle hs hq (by decide)⟩
  · exact fun hst => ⟨congrArg Host.Outcome.next (if_neg hst), congrArg Host.Outcome.next (if_neg hst), congrArg Host.Outcome.next (if_neg hst)⟩
  · exact fun hst => lockRegained_returns hs hst
  · exact fun hst => congrArg Host.Outcome.next (if_pos hst)
  · intro hidle hpop hcause
    have hexec : exec (.portRetire n cause) s = .next (retirePort s n cause) := congrArg Host.Outcome.next (if_pos hpop)
    exact ⟨_, hexec, only_of_exec hexec, retirePort_retired hidle hs hq hcause⟩
  · exact fun hpop => ⟨congrArg Host.Outcome.next (if_neg (by rw [hpop]; decide)), congrArg Host.Outcome.next (if_neg (by rw [hpop]; decide))⟩
  · exact fun hpop => portHold_holds hs hpop
  · intro hrun
    refine ⟨_, exec_refclkOutputCtl hrun v, only_of_mask (wr_mask (m := 1) (sub_refl _) (mask_refl _ s)) (by decide),
      regsBut_wr hs (by decide) List.mem_cons_self, fun g hg => ?_⟩
    rw [State.rd_wr_same _ _ _ hs (by decide), ← bitAt_bitSum (fun g => v.getLsbD g || bitAt (s.rd CEL_REFCLK_CTL.EN) g) hg]
    exact congrArg (fun x => bitAt x g) (Nat.mod_eq_of_lt (bitSum_lt _ 8))
  · exact fun htimer => congrArg Host.Outcome.next (if_pos htimer)
  · refine ⟨fun hst hun hrep => ⟨fun hround => ?_, fun hround hfew => ?_⟩, ?_, ?_, noStatusTimeout_stands⟩
    · rw [replayTimerExpiry_starts hst hun hrep, replayRound_again hun hround]
    · have hexec : exec (.replayTimerExpiry n) s = .next (startRetrain s n 1 true) :=
        (replayTimerExpiry_starts hst hun hrep).trans (congrArg Host.Outcome.next (if_pos hround))
      exact exec_retrained hexec hs (by decide) hfew
    · exact fun hun => congrArg Host.Outcome.next (if_neg (by rw [hun]; simp))
    · exact fun hd hopen hended hst => noStatusTimeout_acts hq hd hopen hended hst

end Sys2Proof.Machine
end

section
/-!
PROOF. Frames of an ACTIVE port (R259 to R269, R278 to R281): what a receiver counts, drops and accepts, what a STATUS or an EVENT frame does, and which
frame the transmitter sends.
-/
namespace Sys2Proof.Machine

variable {s t u : State} {n : Nat} {h : FrameHdr}

/-! ## Frames that are not accepted (R262, R264) -/

theorem onFrame_refused (htake : takeFrame s n h = (t, false)) (f : State → State) : onFrame s n h f = t := by
  rw [onFrame, htake]
  rfl

theorem onFrame_accepted (htake : takeFrame s n h = (t, true)) (f : State → State) : onFrame s n h f = f t := by
  rw [onFrame, htake]
  rfl

/-- A frame whose header is lost is only counted. -/
theorem takeFrame_lost (hst : portState s n = 5) (hret : portRetired s n = false) (hmiss : h.arrival = .syncMiss) :
    takeFrame s n h = (s.bump (CEL_LINK_CNT.HDR_FAIL n), false) := by
  simp [takeFrame, hst, hret, hmiss]

/-- A frame whose body fails. -/
abbrev bodyFailed (s : State) (n : Nat) (h : FrameHdr) : State := (heard s n h).bump (CEL_LINK_CNT.BODY_FAIL n)

theorem takeFrame_bodyFail (hst : portState s n = 5) (hret : portRetired s n = false) (hbad : h.arrival = .bodyFail) (htype : rxTypeOk s n h.typ = true)
    (hlen : h.len = 16) (hver : h.ver = s.rd (CEL_PORT_STATUS.VER n)) : takeFrame s n h = (oweNak (bodyFailed s n h) n, false) := by
  simp [takeFrame, hst, hret, hbad, htype, hlen, hver]

/-- A NAK is owed once per EXPECTED. -/
theorem port_oweNak (s : State) (n : Nat) : (oweNak s n).port n = if (s.port n).nakFor = some (s.port n).expected then s.port n
    else { s.port n with nakFor := some (s.port n).expected, nakDue := true, ackDue := true } := by
  simp only [oweNak]
  split
  · rfl
  · exact port_modPort_same

/-- A frame that is not the next in sequence, without an acknowledgement. -/
theorem takeFrame_outOfOrder (harr : Arrives s n h h.typ) (hst : portState s n = 5) (hack : h.ackValid = false) (htyp : h.typ ≠ 5)
    (hne : seqDist h.seq (s.port n).expected ≠ 0) : takeFrame s n h =
      (if seqDist h.seq (s.port n).expected ≤ 2047 then oweNak (credited (heard s n h) n h) n
        else (credited (heard s n h) n h).modPort n fun p => { p with ackDue := true }, false) := by
  have hexp : ((credited (heard s n h) n h).port n).expected = (s.port n).expected := by rw [port_credited, port_heard]
  rw [takeFrame_active harr (.inl hst), takeAck_of_no_ack hack, sequenceTest, if_neg htyp, hexp, if_neg hne]
  split <;> rfl

theorem mask_credited (s : State) (n : Nat) (h : FrameHdr) : Mask 4096 s (credited s n h) := by
  rw [credited, State.when]
  split
  · exact modPort_mask (by decide) (mask_refl _ s)
  · exact mask_refl _ s

theorem mask_credited_heard (s : State) (n : Nat) (h : FrameHdr) : Mask 4097 s (credited (heard s n h) n h) :=
  mask_trans (bump_mask (by decide) (mask_refl _ s)) (mask_mono (by decide) (mask_credited _ _ _))

/-! ## Counters -/

/-- A counter of 16 bits that has counted one. -/
theorem rd_bump_one {f : Fld} (hs : Tbl.sorted s.regs = true) (hw : f.width = 16) (hf : f.lsb + f.width ≤ 64) :
    (s.bump f).rd f = min (s.rd f + 1) 0xFFFF := by
  rw [rd_bump_same 1 hs hf, hw]
  rfl

/-- The header's correction count is another field than a counter of frames. -/
theorem rd_heard_bits (hs : Tbl.sorted s.regs = true) {f : Fld} (haddr : f.addr ≠ CEL_LINK_ERR.addr n ∨ f.rst = 0 ∧ f.lsb + f.width ≤ 32) :
    (heard s n h).rd f = s.rd f :=
  State.rd_wr_apart _ hs (Nat.le_of_ble_eq_true rfl) (haddr.imp id fun ⟨hr, hb⟩ => ⟨hr, .inl hb⟩)

/-- A protocol error on a frame taken is counted. -/
theorem protoErr_counts (hs : Tbl.sorted s.regs = true) : Mask 4097 s (protoErr (taken s n h) n) ∧
    (protoErr (taken s n h) n).rd (CEL_LINK_ERR.PROTO_ERR n) = min (s.rd (CEL_LINK_ERR.PROTO_ERR n) + 1) 0xFFFF := by
  refine ⟨bump_mask (by decide) (mask_taken s n h), ?_⟩
  rw [protoErr, rd_bump_one (taken_sorted hs) rfl (Nat.le_of_ble_eq_true rfl), rd_of_regs (regs_taken s n h), rd_heard_bits hs (.inr ⟨rfl, Nat.le_of_ble_eq_true rfl⟩)]

/-! ## Acknowledgements (R265) -/

section
variable {f : TxFrame}

/-- What the advance of ACK_SEQ leaves of a port. -/
def OtPort.advanced (p : OtPort) (a : Nat) : OtPort :=
  { p with
    acked := a, replayRound := 0
    unacked := p.unacked.filter fun f => decide (seqDist f.seq a ≠ 0 ∧ seqDist f.seq a < 2048)
    replay := p.replay.filter fun f => decide (seqDist f.seq a ≠ 0 ∧ seqDist f.seq a < 2048) }

theorem seqDist_succ {a b : Nat} (_ : b < 4096) (ha : a = (b + 1) % 4096) : seqDist a b = 1 := by
  rw [ha, seqDist]
  omega

theorem seqDist_pred {a b : Nat} (ha : a < 4096) (hnext : (a + 1) % 4096 = b) : seqDist a b = 4095 := by
  rw [← hnext, seqDist]
  omega

/-- The frames still on their way when the peer had taken all up to `a`. -/
def onTheWay (s : State) (n a : Nat) : List TxFrame :=
  (s.port n).unacked.filter fun f => decide (seqDist f.seq a ≠ 0 ∧ seqDist f.seq a < 2048)

/-- The credits that an acknowledgement shows (R267). -/
def ackCredits (s : State) (n : Nat) (h : FrameHdr) : State :=
  s.modPort n fun p => { p with
    creditData := h.dataFree - ((onTheWay s n h.ackSeq).filter fun f => decide (f.typ = 2)).length
    creditCmd := h.cmdFree - ((onTheWay s n h.ackSeq).filter fun f => !decide (f.typ = 2)).length }

/-- The port after the peer's ACK_SEQ. -/
def ackMoved (s : State) (n a : Nat) : State := if seqDist a (s.port n).acked = 0 then s else s.modPort n fun p => p.advanced a

/-- The replay round that a NAK asks for. -/
def nakTaken (s : State) (n : Nat) (h : FrameHdr) : State :=
  if h.nak && (s.port n).replay.isEmpty && !(s.port n).unacked.isEmpty then replayRound s n else s

/-- An acknowledgement that is not behind the one taken last. -/
theorem takeAck_valid (hvalid : h.ackValid = true) (hahead : seqDist h.ackSeq (s.port n).acked < 2048) :
    takeAck s n h = ackCredits (nakTaken (ackMoved s n h.ackSeq) n h) n h := by
  have hno : decide (2048 ≤ seqDist h.ackSeq (s.port n).acked) = false := decide_eq_false (by omega)
  simp only [takeAck, hvalid, hno, Bool.not_true, Bool.false_eq_true, if_false, Bool.true_or, if_true, ackCredits, onTheWay, nakTaken, ackMoved,
    OtPort.advanced]
  rfl

/-- ACK_SEQ goes on by one, over the one frame unacknowledged. -/
theorem takeAck_advances (hvalid : h.ackValid = true) (hacked : (s.port n).acked < 4096) (hun : (s.port n).unacked = [f])
    (hnext : h.ackSeq = ((s.port n).acked + 1) % 4096) (hf : f.seq = h.ackSeq) :
    takeAck s n h = ackCredits (s.modPort n fun p => p.advanced h.ackSeq) n h := by
  have hself : seqDist f.seq h.ackSeq = 0 := by
    rw [hf]
    exact seqDist_self (by omega)
  have hport : ((s.modPort n fun p => p.advanced h.ackSeq).port n).unacked = [] := by
    rw [port_modPort_same, OtPort.advanced, hun, List.filter_cons, hself]
    rfl
  have hadv := seqDist_succ hacked hnext
  rw [takeAck_valid hvalid (by omega), ackMoved, if_neg (by omega), nakTaken, hport, if_neg (by simp)]

/-- A NAK of what the peer has already acknowledged starts a replay round. -/
theorem takeAck_naks (hvalid : h.ackValid = true) (hacked : (s.port n).acked < 4096) (hun : (s.port n).unacked = [f]) (hrep : (s.port n).replay = [])
    (hsame : h.ackSeq = (s.port n).acked) (hnak : h.nak = true) : takeAck s n h = ackCredits (replayRound s n) n h := by
  have hadv : seqDist h.ackSeq (s.port n).acked = 0 := by
    rw [hsame]
    exact seqDist_self (Nat.mod_eq_of_lt hacked)
  rw [takeAck_valid hvalid (by omega), ackMoved, if_pos hadv, nakTaken, hun, hrep, hnak, if_pos (by rfl)]

/-- An ACK frame is its acknowledgement. -/
theorem exec_ackFrame (harr : Arrives s n h 5) (hst : portState s n = 5) :
    exec (.ackFrame n h) s = .next (takeAck (heard s n h) n { h with typ := 5 }) := by
  have htake : takeFrame s n { h with typ := 5 } = (takeAck (heard s n h) n { h with typ := 5 }, true) := by
    rw [takeFrame_active (h := { h with typ := 5 }) harr (.inl hst), sequenceTest, if_pos rfl]
  exact congrArg Host.Outcome.next (onFrame_accepted htake _)

theorem mask_ackCredits (s : State) (n : Nat) (h : FrameHdr) : Mask 4096 s (ackCredits s n h) := modPort_mask (by decide) (mask_refl _ s)

theorem ackFrame_advances (harr : Arrives s n h 5) (hst : portState s n = 5) (hvalid : h.ackValid = true) (hacked : (s.port n).acked < 4096)
    (hun : (s.port n).unacked = [f]) (hnext : h.ackSeq = ((s.port n).acked + 1) % 4096) (hf : f.seq = h.ackSeq) :
    ∃ t, exec (.ackFrame n h) s = .next t ∧ Only [.regs, .cel] s t ∧ (t.port n).unacked = [] ∧ (t.port n).acked = h.ackSeq ∧
      (t.port n).replayRound = 0 ∧ (t.port n).expected = (s.port n).expected := by
  have hexec := exec_ackFrame harr hst
  have hport := port_heard s n h n
  have hheard : Mask 4097 s (heard s n h) := bump_mask (by decide) (mask_refl _ s)
  generalize heard s n h = u at hexec hport hheard
  have hself : seqDist f.seq h.ackSeq = 0 := by
    rw [hf]
    exact seqDist_self (by omega)
  rw [takeAck_advances (h := { h with typ := 5 }) (f := f) hvalid (by rw [hport]; exact hacked) (by rw [hport]; exact hun) (by rw [hport]; exact hnext) hf] at hexec
  refine ⟨_, hexec, only_of_mask (mask_trans hheard (mask_trans (modPort_mask (by decide) (mask_refl _ u)) (mask_mono (by decide) (mask_ackCredits _ n _)))) (by decide), ?_⟩
  rw [ackCredits, port_modPort_same, port_modPort_same, hport, OtPort.advanced, hun, List.filter_cons, hself]
  exact ⟨rfl, rfl, rfl, rfl⟩

theorem ackFrame_naks (harr : Arrives s n h 5) (hst : portState s n = 5) (hvalid : h.ackValid = true) (hacked : (s.port n).acked < 4096)
    (hun : (s.port n).unacked = [f]) (hrep : (s.port n).replay = []) (hsame : h.ackSeq = (s.port n).acked) (hnak : h.nak = true)
    (hround : (s.port n).replayRound < 8) : ∃ t, exec (.ackFrame n h) s = .next t ∧ Only [.regs, .cel] s t ∧
      (t.port n).unacked = [f] ∧ (t.port n).replay = [{ f with retx := true }] ∧ (t.port n).replayRound = (s.port n).replayRound + 1 := by
  have hexec := exec_ackFrame harr hst
  have hport := port_heard s n h n
  have hheard : Mask 4097 s (heard s n h) := bump_mask (by decide) (mask_refl _ s)
  generalize heard s n h = u at hexec hport hheard
  have hun' : (u.port n).unacked = [f] := by rw [hport, hun]
  rw [takeAck_naks (h := { h with typ := 5 }) hvalid (by rw [hport]; exact hacked) hun' (by rw [hport]; exact hrep) (by rw [hport]; exact hsame) hnak,
    replayRound_again hun' (by rw [hport]; exact hround)] at hexec
  refine ⟨_, hexec, only_of_mask (mask_trans hheard (mask_trans (modPort_mask (by decide) (mask_refl _ u)) (mask_mono (by decide) (mask_ackCredits _ n _)))) (by decide), ?_⟩
  rw [ackCredits, port_modPort_same, port_modPort_same, hport]
  exact ⟨hun, rfl, rfl⟩

end

/-! ## STATUS frames (R259, R306, R310 to R312) -/

section
variable {code sr busy : Nat} {hw : DescHw}

theorem statusFrame_refused (htake : takeFrame s n { h with typ := 4 } = (t, false)) : exec (.statusFrame n h code sr busy) s = .next t :=
  congrArg Host.Outcome.next (onFrame_refused htake _)

theorem statusFrame_lost (hs : Tbl.sorted s.regs = true) (hst : portState s n = 5) (hret : portRetired s n = false) (hmiss : h.arrival = .syncMiss) :
    ∃ t, exec (.statusFrame n h code sr busy) s = .next t ∧ Only [.regs] s t ∧
      t.rd (CEL_LINK_CNT.HDR_FAIL n) = min (s.rd (CEL_LINK_CNT.HDR_FAIL n) + 1) 0xFFFF ∧ RegsBut s t [CEL_LINK_CNT.HDR_FAIL n] :=
  ⟨_, statusFrame_refused (takeFrame_lost (h := { h with typ := 4 }) hst hret hmiss), only_of_mask (bump_mask (m := 1) (sub_refl _) (mask_refl _ s)) (by decide),
    rd_bump_one hs rfl (Nat.le_of_ble_eq_true rfl), regsBut_wr hs (Nat.le_of_ble_eq_true rfl) List.mem_cons_self⟩

theorem port_bodyFailed (s : State) (n : Nat) (h : FrameHdr) : (bodyFailed s n h).port n = s.port n := (port_wr _ _ _ _).trans (port_heard s n h n)

theorem regs_oweNak (s : State) (n : Nat) : (oweNak s n).regs = s.regs := by
  simp only [oweNak]
  split <;> rfl

theorem rd_bodyFailed (hs : Tbl.sorted s.regs = true) :
    (bodyFailed s n h).rd (CEL_LINK_CNT.BODY_FAIL n) = min (s.rd (CEL_LINK_CNT.BODY_FAIL n) + 1) 0xFFFF := by
  have hne : CEL_LINK_CNT.addr n ≠ CEL_LINK_ERR.addr n := by rw [CEL_LINK_CNT.addr, CEL_LINK_ERR.addr]; omega
  rw [bodyFailed, rd_bump_one (bump_sorted hs) rfl (Nat.le_of_ble_eq_true rfl), rd_heard_bits hs (.inl hne)]

theorem statusFrame_bodyFail (hs : Tbl.sorted s.regs = true) (hst : portState s n = 5) (hret : portRetired s n = false) (hmode : portMode s n = 1)
    (hbad : h.arrival = .bodyFail) (hlen : h.len = 16) (hver : h.ver = s.rd (CEL_PORT_STATUS.VER n)) :
    ∃ t, exec (.statusFrame n h code sr busy) s = .next t ∧ Only [.regs, .cel] s t ∧
      t.rd (CEL_LINK_CNT.BODY_FAIL n) = min (s.rd (CEL_LINK_CNT.BODY_FAIL n) + 1) 0xFFFF ∧ (t.port n).expected = (s.port n).expected ∧
      ((s.port n).nakFor ≠ some (s.port n).expected → (t.port n).nakDue = true ∧ (t.port n).nakFor = some (s.port n).expected) := by
  have htype : rxTypeOk s n 4 = true := by simp [rxTypeOk, hmode]
  have hexec : exec (.statusFrame n h code sr busy) s = .next (oweNak (bodyFailed s n h) n) :=
    statusFrame_refused (takeFrame_bodyFail (h := { h with typ := 4 }) hst hret hbad htype hlen hver)
  have hport := port_bodyFailed s n h
  have hcount := rd_bodyFailed (n := n) (h := h) hs
  have hmask : Mask 4097 s (bodyFailed s n h) := bump_mask (by decide) (bump_mask (by decide) (mask_refl _ s))
  generalize bodyFailed s n h = u at hexec hport hcount hmask
  refine ⟨_, hexec, only_of_mask (oweNak_mask (by decide) hmask) (by decide), (rd_of_regs (regs_oweNak u n)).trans hcount, ?_, fun hnew => ?_⟩
  · rw [port_oweNak, hport]
    split <;> rfl
  · rw [port_oweNak, hport, if_neg hnew]
    exact ⟨rfl, rfl⟩

theorem statusFrame_ahead (harr : Arrives s n h 4) (hst : portState s n = 5) (hack : h.ackValid = false) (hexp : (s.port n).expected < 4096)
    (hseq : h.seq = ((s.port n).expected + 1) % 4096) (hnew : (s.port n).nakFor = none) :
    ∃ t, exec (.statusFrame n h code sr busy) s = .next t ∧ Only [.regs, .cel] s t ∧
        (t.port n).nakDue = true ∧ (t.port n).nakFor = some (s.port n).expected ∧ (t.port n).expected = (s.port n).expected := by
  have hdist : seqDist h.seq (s.port n).expected = 1 := seqDist_succ hexp hseq
  have htake := takeFrame_outOfOrder (h := { h with typ := 4 }) harr hst hack (show (4 : Nat) ≠ 5 by decide) (by rw [hdist]; decide)
  rw [hdist, if_pos (by decide)] at htake
  have hexec : exec (.statusFrame n h code sr busy) s = .next _ := statusFrame_refused htake
  have hmask := mask_credited_heard s n { h with typ := 4 }
  have hport := (port_credited (heard s n { h with typ := 4 }) n { h with typ := 4 })
  rw [port_heard] at hport
  generalize credited (heard s n { h with typ := 4 }) n { h with typ := 4 } = u at hexec hmask hport
  refine ⟨_, hexec, only_of_mask (oweNak_mask (by decide) hmask) (by decide), ?_⟩
  rw [port_oweNak, hport, if_neg (by rw [hnew]; simp)]
  exact ⟨rfl, rfl, rfl⟩

theorem statusFrame_duplicate (harr : Arrives s n h 4) (hst : portState s n = 5) (hack : h.ackValid = false) (hseq : h.seq < 4096)
    (hold : (h.seq + 1) % 4096 = (s.port n).expected) : ∃ t, exec (.statusFrame n h code sr busy) s = .next t ∧ Only [.regs, .cel] s t ∧
        (t.port n).ackDue = true ∧ (t.port n).expected = (s.port n).expected ∧ (t.port n).nakDue = (s.port n).nakDue := by
  have hdist : seqDist h.seq (s.port n).expected = 4095 := seqDist_pred hseq hold
  have htake := takeFrame_outOfOrder (h := { h with typ := 4 }) harr hst hack (show (4 : Nat) ≠ 5 by decide) (by rw [hdist]; decide)
  rw [hdist, if_neg (by decide)] at htake
  have hexec : exec (.statusFrame n h code sr busy) s = .next _ := statusFrame_refused htake
  have hmask := mask_credited_heard s n { h with typ := 4 }
  have hport := (port_credited (heard s n { h with typ := 4 }) n { h with typ := 4 })
  rw [port_heard] at hport
  generalize credited (heard s n { h with typ := 4 }) n { h with typ := 4 } = u at hexec hmask hport
  refine ⟨_, hexec, only_of_mask (modPort_mask (by decide) hmask) (by decide), ?_⟩
  rw [port_modPort_same, hport]
  exact ⟨rfl, rfl, rfl⟩

theorem statusFrame_reserved (hs : Tbl.sorted s.regs = true) (harr : Arrives s n h 4) (hst : portState s n = 5) (hord : InOrder s n h)
    (hcode : code = 0 ∨ 8 < code) : ∃ t, exec (.statusFrame n h code sr busy) s = .next t ∧ Only [.regs, .cel] s t ∧
      t.rd (CEL_LINK_ERR.PROTO_ERR n) = min (s.rd (CEL_LINK_ERR.PROTO_ERR n) + 1) 0xFFFF := by
  have hexec : exec (.statusFrame n h code sr busy) s = .next (protoErr (taken s n h) n) := by
    show Host.Outcome.next (onFrame s n { h with typ := 4 } _) = _
    rw [onFrame_inOrder (h := { h with typ := 4 }) harr hord (show (4 : Nat) ≠ 5 by decide) (.inl hst)]
    exact congrArg Host.Outcome.next (if_pos (by simpa using hcode))
  obtain ⟨hmask, hcount⟩ := protoErr_counts (n := n) (h := h) hs
  exact ⟨_, hexec, only_of_mask hmask (by decide), hcount⟩

/-- What is taken does not depend on the type in the header. -/
theorem taken_typ (s : State) (n : Nat) (h : FrameHdr) (k : Nat) : taken s n { h with typ := k } = taken s n h := rfl

theorem seqs_taken (s : State) (n : Nat) (h : FrameHdr) : (taken s n h).seqs = s.seqs := (mask_taken s n h).2 .seqs (by decide)

theorem lingering_taken (s : State) (n : Nat) (h : FrameHdr) : ((taken s n h).port n).lingering = (s.port n).lingering := by
  rw [port_taken, OtPort.taken]

/-- A STATUS frame for a descriptor that has not ended. -/
theorem exec_statusFrame_desc (harr : Arrives s n h 4) (hst : portState s n = 5) (hord : InOrder s n h) (hlow : code ≠ 0) (hhigh : code ≤ 8)
    (hd : Tbl.find (s.seq n).descs h.tag = some hw) (hended : hw.ended = false) (hling : Tbl.has (s.port n).lingering h.tag = false) :
    exec (.statusFrame n h code sr busy) s = .next (descStatus (taken s n h) n h.tag hw code sr busy) := by
  have hcode : ¬ ((decide (code = 0) || decide (8 < code)) = true) := by simp [hlow, hhigh]
  have hling' : ¬ (Tbl.has ((taken s n h).port n).lingering h.tag = true) := by rw [lingering_taken, hling]; decide
  have hd' : Tbl.find ((taken s n h).seq n).descs h.tag = some hw := by rw [seq_of_seqs (seqs_taken s n h), hd]
  show Host.Outcome.next (onFrame s n { h with typ := 4 } _) = _
  rw [onFrame_inOrder (h := { h with typ := 4 }) harr hord (show (4 : Nat) ≠ 5 by decide) (.inl hst)]
  rw [taken_typ]
  refine congrArg Host.Outcome.next ((if_neg hcode).trans ((if_neg hling').trans ?_))
  simp only [hd', hended, Bool.false_eq_true, if_false]

theorem statusFrame_event (hq : Tbl.sorted s.seqs = true) (harr : Arrives s n h 4) (hst : portState s n = 5) (hord : InOrder s n h)
    (hd : Tbl.find (s.seq n).descs h.tag = some hw) (hended : hw.ended = false) (hling : Tbl.has (s.port n).lingering h.tag = false)
    (hwait : (s.seq n).wait = none) (hheld : (s.seq n).held = []) (hroom : (s.seq n).evq.length < 64) :
    ∃ t, exec (.statusFrame n h 6 sr busy) s = .next t ∧ Only [.regs, .cel, .seqs] s t ∧ (t.seq n).evq = (s.seq n).evq ++ [evWord 0x02 6 h.tag sr busy] ∧
      (t.port n).expected = ((s.port n).expected + 1) % 4096 := by
  have hexec : exec (.statusFrame n h 6 sr busy) s = .next (raise (taken s n h) n (evWord 0x02 6 h.tag sr busy)) :=
    exec_statusFrame_desc harr hst hord (by decide) (by decide) hd hended hling
  have hmask := mask_taken s n h
  have hseqs := seqs_taken s n h
  have hport := port_taken s n h
  generalize taken s n h = u at hexec hmask hseqs hport
  have hraise : Mask 8192 u (raise u n (evWord 0x02 6 h.tag sr busy)) := raise_mask (by decide) (mask_refl _ u)
  have hseq : u.seq n = s.seq n := seq_of_seqs hseqs
  refine ⟨_, hexec, only_of_mask (mask_trans (mask_mono (b := 12289) (by decide) hmask) (mask_mono (by decide) hraise)) (by decide), ?_, ?_⟩
  · rw [seq_raise_of_room (by rw [hseqs]; exact hq) _ (by rw [hseq]; exact hwait) (by rw [hseq]; exact hheld) (by rw [hseq]; exact hroom), hseq]
  · rw [port_of_cel (hraise.2 .cel (by decide)), hport, OtPort.taken]

theorem Seq.ram_setReg (q : Seq) (r : Nat) (v : U64) : (q.setReg r v).ram = q.ram := by
  rw [Seq.setReg]
  split <;> rfl

/-- An event delivered leaves the local memory of its sequencer. -/
theorem Seq.ram_deliver (q : Seq) (n : Nat) : (q.deliver n).ram = q.ram := by
  rw [Seq.deliver]
  split
  · rfl
  · split
    · rfl
    · exact Seq.ram_setReg _ _ _

theorem ram_raise (hq : Tbl.sorted s.seqs = true) (e : U64) : ((raise s n e).seq n).ram = (s.seq n).ram := by
  rw [raise, seq_modSeq_same hq]
  dsimp only
  rw [Seq.ram_deliver]
  split <;> rfl

theorem descByte_setDescState (hq : Tbl.sorted s.seqs = true) (i st : Nat) : descByte (setDescState s n i st) n i 0 1 = st % 256 := by
  rw [descByte, setDescState, seq_modSeq_same hq]
  show (Tbl.getD (Tbl.setD (s.seq n).ram (0x3800 + 32 * i) (BitVec.ofNat 8 st) 0) (0x3800 + 32 * i) 0).toNat + 256 * 0 = _
  rw [Tbl.getD_setD_same, BitVec.toNat_ofNat]
  rfl

/-- A descriptor is suspended: its entry says so, and its die runs nothing. -/
def descSuspended (s : State) (n i : Nat) (hw : DescHw) : State :=
  (setDescState (s.modSeq n fun q => { q with descs := Tbl.upd q.descs i fun h => { h with suspAt := s.pwr.time.toNat } }) n i 3).modPort n fun p =>
    { p with running := Tbl.del p.running hw.op.die, suspended := Tbl.put p.suspended hw.op.die i }

theorem port_setDescState (s : State) (n i st m : Nat) : (setDescState s n i st).port m = s.port m := port_modSeq _ _ _ _

theorem statusFrame_suspends (hq : Tbl.sorted s.seqs = true) (harr : Arrives s n h 4) (hst : portState s n = 5) (hord : InOrder s n h)
    (hd : Tbl.find (s.seq n).descs h.tag = some hw) (hended : hw.ended = false) (hling : Tbl.has (s.port n).lingering h.tag = false) :
    ∃ t, exec (.statusFrame n h 4 sr busy) s = .next t ∧ Only [.regs, .cel, .seqs] s t ∧
      Tbl.find (t.port n).suspended hw.op.die = some h.tag ∧ Tbl.find (t.port n).running hw.op.die = none ∧ descByte t n h.tag 0 1 = 3 := by
  have hexec : exec (.statusFrame n h 4 sr busy) s = .next (raise (raise (descSuspended (taken s n h) n h.tag hw) n (evWord 0x02 4 h.tag sr busy)) n
      (evWord 0x06 1 h.tag)) :=
    exec_statusFrame_desc harr hst hord (by decide) (by decide) hd hended hling
  have hmask := mask_taken s n h
  have hseqs := seqs_taken s n h
  generalize taken s n h = u at hexec hmask hseqs
  have huq : Tbl.sorted u.seqs = true := by rw [hseqs]; exact hq
  have hsusp : Mask 12289 u (descSuspended u n h.tag hw) :=
    modPort_mask (by decide) (setDescState_mask (by decide) (modSeq_mask (by decide) (mask_refl _ u)))
  have hport : (descSuspended u n h.tag hw).port n = { u.port n with
      running := Tbl.del (u.port n).running hw.op.die, suspended := Tbl.put (u.port n).suspended hw.op.die h.tag } := by
    rw [descSuspended, port_modPort_same, port_setDescState, port_modSeq]
  have hbyte : descByte (descSuspended u n h.tag hw) n h.tag 0 1 = 3 := by
    rw [descByte, descSuspended, seq_modPort, ← descByte]
    exact descByte_setDescState (modSeq_sorted huq) _ _
  have hvq : Tbl.sorted (descSuspended u n h.tag hw).seqs = true := by
    rw [descSuspended, seqs_modPort]
    exact modSeq_sorted (modSeq_sorted huq)
  generalize descSuspended u n h.tag hw = v at hexec hsusp hport hbyte hvq
  have hraise : Mask 8192 v (raise (raise v n (evWord 0x02 4 h.tag sr busy)) n (evWord 0x06 1 h.tag)) :=
    raise_mask (by decide) (raise_mask (by decide) (mask_refl _ v))
  have hvport := (port_of_cel (m := n) (hraise.2 .cel (by decide))).trans hport
  refine ⟨_, hexec, only_of_mask (mask_trans (mask_mono (b := 12289) (by decide) hmask) (mask_trans hsusp (mask_mono (by decide) hraise))) (by decide), ?_, ?_, ?_⟩
  · rw [hvport]
    exact Tbl.find_put_same _ _ _
  · rw [hvport]
    exact Tbl.find_del_same _ _
  · rw [descByte, ram_raise (raise_sorted hvq), ram_raise hvq, ← descByte, hbyte]

/-! ## Data frames (R280, R281) -/

theorem exec_rdataFrame (harr : Arrives s n h 3) (hst : portState s n = 5) (hord : InOrder s n h) (hctl : (s.port n).ctl = []) (ps : List Nat)
    (hno : Tbl.find (s.seq n).descs h.tag = none ∨ Tbl.find (s.seq n).descs h.tag = some hw ∧ hw.op.cwCount ≤ h.cwIndex) :
    exec (.rdataFrame n h ps) s = .next (protoErr (taken s n h) n) := by
  have hctl' : ((taken s n h).port n).ctl.find? (fun c => c.tag == h.tag && c.param) = none := by
    rw [port_taken, OtPort.taken, hctl]
    rfl
  rw [← seq_of_seqs (seqs_taken s n h)] at hno
  show Host.Outcome.next (onFrame s n { h with typ := 3 } _) = _
  rw [onFrame_inOrder (h := { h with typ := 3 }) harr hord (show (3 : Nat) ≠ 5 by decide) (.inl hst), taken_typ]
  refine congrArg Host.Outcome.next ?_
  rcases hno with hno | ⟨hd, hover⟩
  · simp only [hno, hctl']
  · have hbad : (hw.ended || decide (hw.op.kind ≠ 1) && !recipeVerify (taken s n h) n h.tag || decide (hw.op.cwCount ≤ h.cwIndex) ||
        decide (descByte (taken s n h) n h.tag 0 1 = 0)) = true := by simp [hover]
    simp only [hd]
    exact if_pos hbad

end

/-! ## EVENT and temperature frames (R233, R269, R278) -/

section
variable {sev die code d0 d1 d2 : Nat}

theorem exec_eventFrame (harr : Arrives s n h 7) (hst : portState s n = 5) (hord : InOrder s n h) :
    exec (.eventFrame n h sev die code d0 d1 d2) s = .next (if sev = 0 ∨ 3 < sev then protoErr (taken s n h) n
      else if sev = 3 then
        retirePort (post (taken s n h) 0x0061 (if sev = 1 then 2 else if sev = 2 then 3 else 5) 4 n (die % 256 + code % 2 ^ 16 * 2 ^ 16) d0 d1 d2) n 2
      else post (taken s n h) 0x0061 (if sev = 1 then 2 else if sev = 2 then 3 else 5) 4 n (die % 256 + code % 2 ^ 16 * 2 ^ 16) d0 d1 d2) := by
  show Host.Outcome.next (onFrame s n { h with typ := 7 } _) = _
  rw [onFrame_inOrder (h := { h with typ := 7 }) harr hord (show (7 : Nat) ≠ 5 by decide) (.inl hst), taken_typ]
  refine congrArg Host.Outcome.next ?_
  by_cases hbad : sev = 0 ∨ 3 < sev
  · rw [if_pos hbad]
    exact if_pos (by simpa using hbad)
  · rw [if_neg hbad]
    exact if_neg (by simpa using hbad)

theorem idlePort_taken (hidle : IdlePort s n) (hs : Tbl.sorted s.regs = true) : IdlePort (taken s n h) n := by
  obtain ⟨hdescs, hdie, hoffers, hfronts, hmode, hret⟩ := hidle
  have hmode' : portMode (taken s n h) n = portMode s n := portMode_of_rd (rd_taken hs (a := 0x300000) rfl (by decide))
  refine ⟨?_, ?_, ?_, ?_, ?_, ?_⟩
  · rw [seq_of_seqs (seqs_taken s n h), hdescs]
  · rw [port_taken, OtPort.taken, hdie]
  · rw [port_taken, OtPort.taken, hoffers]
  · rw [(mask_taken s n h).2 .ldr (by decide), hfronts]
  · rw [hmode']
    exact hmode
  · rw [portRetired, port_taken, retiredTable_taken, OtPort.taken]
    exact hret

/-- A port keeps what makes it idle where the parts that it reads stand. -/
theorem IdlePort.of_mask (hidle : IdlePort s n) (hmask : Mask 8 s t) : IdlePort t n := by
  obtain ⟨hdescs, hdie, hoffers, hfronts, hmode, hret⟩ := hidle
  have hcel := hmask.2 .cel (by decide)
  refine ⟨?_, ?_, ?_, ?_, ?_, ?_⟩
  · rw [seq_of_seqs (hmask.2 .seqs (by decide)), hdescs]
  · rw [port_of_cel hcel, hdie]
  · rw [port_of_cel hcel, hoffers]
  · rw [hmask.2 .ldr (by decide), hfronts]
  · rw [portMode_of_regs (hmask.2 .regs (by decide))]
    exact hmode
  · rw [portRetired_of_cel hcel, hret]

theorem eventFrame_reserved (hs : Tbl.sorted s.regs = true) (harr : Arrives s n h 7) (hst : portState s n = 5) (hord : InOrder s n h)
    (hbad : sev = 0 ∨ 3 < sev) : ∃ t, exec (.eventFrame n h sev die code d0 d1 d2) s = .next t ∧ Only [.regs, .cel] s t ∧
      t.rd (CEL_LINK_ERR.PROTO_ERR n) = min (s.rd (CEL_LINK_ERR.PROTO_ERR n) + 1) 0xFFFF := by
  have hexec := exec_eventFrame (sev := sev) (die := die) (code := code) (d0 := d0) (d1 := d1) (d2 := d2) harr hst hord
  rw [if_pos hbad] at hexec
  obtain ⟨hmask, hcount⟩ := protoErr_counts (n := n) (h := h) hs
  exact ⟨_, hexec, only_of_mask hmask (by decide), hcount⟩

/-- A record appended waits for the mirror or a page. -/
theorem waiting_appendRec (s : State) (r : AtticRec) : (appendRec s r).atc.waiting =
    s.atc.waiting ++ [{ r with seq := s.atc.nextSeq, time := s.pwr.opSec, cycle := s.pwr.powerCycle % 2 ^ 24 }] := by
  simp only [appendRec, State.modAtc_atc]

/-- The record of an EVENT frame of severity 2. -/
def eventRecord (n die code d0 d1 d2 : Nat) : AtticRec :=
  { code := 0x61, sev := 3, src := 4, origin := n, p0 := (die % 256 + code % 2 ^ 16 * 2 ^ 16) % 2 ^ 32, p1 := d0 % 2 ^ 32, p2 := d1 % 2 ^ 32, p3 := d2 % 2 ^ 32 }

theorem eventFrame_recorded (harr : Arrives s n h 7) (hst : portState s n = 5) (hord : InOrder s n h) :
    ∃ t r, exec (.eventFrame n h 2 die code d0 d1 d2) s = .next t ∧ Only [.regs, .atc, .cel] s t ∧
        t.atc.waiting = s.atc.waiting ++ [r] ∧ r.code = 0x61 ∧ r.sev = 3 ∧ r.origin = n ∧ (t.port n).retired = (s.port n).retired := by
  have hexec := exec_eventFrame (sev := 2) (die := die) (code := code) (d0 := d0) (d1 := d1) (d2 := d2) harr hst hord
  rw [if_neg (by decide), if_neg (by decide), if_neg (by decide), if_pos rfl, post_of_sev (by decide), ← eventRecord] at hexec
  have hmask := mask_taken s n h
  have hport := port_taken s n h
  generalize taken s n h = u at hexec hmask hport
  have hrec : Mask 8 u (appendRec u (eventRecord n die code d0 d1 d2)) := appendRec_mask (by decide) (mask_refl _ u)
  have hwait := waiting_appendRec u (eventRecord n die code d0 d1 d2)
  rw [hmask.2 .atc (by decide)] at hwait
  refine ⟨_, _, hexec, only_of_mask (mask_trans (mask_mono (b := 4105) (by decide) hmask) (mask_mono (by decide) hrec)) (by decide), hwait, rfl, rfl, rfl, ?_⟩
  rw [port_of_cel (hrec.2 .cel (by decide)), hport, OtPort.taken]

theorem eventFrame_retires (hs : Tbl.sorted s.regs = true) (hq : Tbl.sorted s.seqs = true) (harr : Arrives s n h 7) (hst : portState s n = 5)
    (hord : InOrder s n h) (hidle : IdlePort s n) : ∃ t, exec (.eventFrame n h 3 die code d0 d1 d2) s = .next t ∧
      Only [.regs, .atc, .hall, .nvm, .pan, .ldr, .cel, .seqs, .lnd, .scu, .sta, .free] s t ∧ RetiredFor t n 2 := by
  have hexec := exec_eventFrame (sev := 3) (die := die) (code := code) (d0 := d0) (d1 := d1) (d2 := d2) harr hst hord
  rw [if_neg (by decide), if_pos rfl, if_neg (by decide), if_neg (by decide)] at hexec
  have hidle' := idlePort_taken (h := h) hidle hs
  have hsort := taken_sorted (n := n) (h := h) hs
  have hseqs := seqs_taken s n h
  have hpost : Mask 8 (taken s n h) (post (taken s n h) 0x0061 5 4 n (die % 256 + code % 2 ^ 16 * 2 ^ 16) d0 d1 d2) := post_mask (by decide) (mask_refl _ _)
  generalize taken s n h = u at hexec hidle' hsort hseqs hpost
  generalize post u 0x0061 5 4 n (die % 256 + code % 2 ^ 16 * 2 ^ 16) d0 d1 d2 = v at hexec hpost
  refine ⟨_, hexec, only_of_exec hexec, retirePort_retired (hidle'.of_mask hpost) ?_ ?_ (by decide)⟩
  · rw [hpost.2 .regs (by decide)]
    exact hsort
  · rw [hpost.2 .seqs (by decide), hseqs]
    exact hq

/-- A temperature of a die is noted, by the Chimney and by the port. -/
def tempNoted (s : State) (n die : Nat) (half : Int) : State :=
  (s.modChm fun c => { c with dies := Tbl.put c.dies (16 * n + die) { reading := 2 * half, valid := true, fresh := true, ageMs := 0 } }).modPort n fun p =>
    { p with lastTemp := Tbl.put p.lastTemp die half }

theorem exec_tempRsp (harr : Arrives s n h 6) (hst : portState s n = 5) (hord : InOrder s n h) (hdie : die < 16) (half : Int) :
    exec (.tempRsp n h die half true) s = .next (dieTempInhibit (tempNoted (taken s n h) n die half) n die half true) := by
  show Host.Outcome.next (onFrame s n { h with typ := 6 } _) = _
  rw [onFrame_inOrder (h := { h with typ := 6 }) harr hord (show (6 : Nat) ≠ 5 by decide) (.inl hst), taken_typ]
  exact congrArg Host.Outcome.next (if_neg (Nat.not_le.2 hdie))

theorem exec_tempRsp_none (harr : Arrives s n h 6) (hst : portState s n = 5) (hord : InOrder s n h) (hdie : 16 ≤ die) (half : Int) :
    exec (.tempRsp n h die half true) s = .next (taken s n h) := by
  show Host.Outcome.next (onFrame s n { h with typ := 6 } _) = _
  rw [onFrame_inOrder (h := { h with typ := 6 }) harr hord (show (6 : Nat) ≠ 5 by decide) (.inl hst), taken_typ]
  exact congrArg Host.Outcome.next (if_pos hdie)

/-- A temperature within the program range, at a port without a hot die, inhibits nothing. -/
theorem dieTempInhibit_inside {half : Int} (hhot : s.ldr.hot = []) (hmin : s.scu.geo.tMin ≤ half) (hmax : half ≤ s.scu.geo.tMax) :
    dieTempInhibit s n die half true = s := by
  simp [dieTempInhibit, hhot, hmin, hmax]

theorem tempRsp_notes (harr : Arrives s n h 6) (hst : portState s n = 5) (hord : InOrder s n h) (hdie : die < 16) (half : Int) :
    ∃ t, exec (.tempRsp n h die half true) s = .next t ∧ Only [.regs, .chm, .atc, .hall, .nvm, .pan, .ldr, .cel, .seqs, .lnd, .scu, .sta, .free] s t ∧
      (s.ldr.hot = [] → s.scu.geo.tMin ≤ half → half ≤ s.scu.geo.tMax →
        Tbl.find t.chm.dies (16 * n + die) = some { reading := 2 * half, valid := true, fresh := true, ageMs := 0 } ∧
        Tbl.find (t.port n).lastTemp die = some half) := by
  have hexec := exec_tempRsp harr hst hord hdie half
  have hldr : (tempNoted (taken s n h) n die half).ldr = s.ldr := (mask_taken s n h).2 .ldr (by decide)
  have hscu : (tempNoted (taken s n h) n die half).scu = s.scu := (mask_taken s n h).2 .scu (by decide)
  refine ⟨_, hexec, only_of_exec hexec, fun hhot hmin hmax => ?_⟩
  rw [dieTempInhibit_inside (by rw [hldr]; exact hhot) (by rw [hscu]; exact hmin) (by rw [hscu]; exact hmax)]
  refine ⟨Tbl.find_put_same _ _ _, ?_⟩
  rw [tempNoted, port_modPort_same]
  exact Tbl.find_put_same _ _ _

end

/-! ## Transmission (R269) -/

section
variable {f : TxFrame}

/-- Whether a frame takes a number of the sequence. -/
def numbered (s : State) (n : Nat) (f : TxFrame) : Bool := decide (f.typ ≠ 5) && (decide (portState s n = 5) || decide (portState s n = 6))

/-- The frame as it goes out. -/
def onWire (s : State) (n : Nat) (f : TxFrame) (fresh : Bool) : TxFrame :=
  if fresh && numbered s n f then { f with seq := (s.port n).txSeq } else f

/-- A port that has sent a frame; `kept` where the frame waits for its acknowledgement. -/
def OtPort.sent (p : OtPort) (f : TxFrame) (fresh kept isData : Bool) : OtPort :=
  { p with
    ackDue := false, nakDue := false, ackTimer := false,
    slots := (isData :: p.slots).take 19
    txSeq := if fresh && kept then (p.txSeq + 1) % 4096 else p.txSeq
    unacked := if fresh && kept then p.unacked ++ [f] else p.unacked
    creditData := if fresh && isData then p.creditData - 1 else p.creditData
    creditCmd := if fresh && kept && !isData then p.creditCmd - 1 else p.creditCmd }

/-- A frame of no descriptor is emitted, and its port notes it. -/
theorem sendFrame_eq (hdesc : f.desc = none) (fresh : Bool) : sendFrame s n f fresh =
    (s.emit (.otconFrame n (onWire s n f fresh) (s.port n).rxAny (s.port n).nakDue (((s.port n).expected + 4095) % 4096))).modPort n fun p =>
      p.sent (onWire s n f fresh) fresh (numbered s n f) (decide ((onWire s n f fresh).typ = 2) || decide ((onWire s n f fresh).typ = 0x13)) := by
  have hd : (onWire s n f fresh).desc = none := by
    rw [onWire]
    split
    · exact hdesc
    · exact hdesc
  rw [sendFrame]
  split
  · next i hsome _ => exact absurd (hsome.symm.trans hd) (Option.some_ne_none i)
  · rfl

theorem exec_transmit (hst : portState s n = 5) : exec (.transmitFrameBoundary n) s = .next (transmitNext s n) := by
  show execTransmitFrameBoundary n s = _
  simp [execTransmitFrameBoundary, hst]

/-- What a frame of no descriptor leaves. -/
theorem sendFrame_leaves (hdesc : f.desc = none) (fresh : Bool) : Mask 1052672 s (sendFrame s n f fresh) ∧
    (sendFrame s n f fresh).regs = s.regs ∧
    (sendFrame s n f fresh).out =
      s.out ++ [.otconFrame n (onWire s n f fresh) (s.port n).rxAny (s.port n).nakDue (((s.port n).expected + 4095) % 4096)] ∧
    (sendFrame s n f fresh).port n = (s.port n).sent (onWire s n f fresh) fresh (numbered s n f)
      (decide ((onWire s n f fresh).typ = 2) || decide ((onWire s n f fresh).typ = 0x13)) := by
  rw [sendFrame_eq hdesc]
  exact ⟨modPort_mask (by decide) (emit_mask (by decide) (mask_refl _ s)), rfl, rfl, port_modPort_same⟩

variable {l : List TxFrame}

/-- The replay comes first (Table 7-11). -/
theorem transmit_replay (hst : portState s n = 5) (hrep : (s.port n).replay = f :: l) : exec (.transmitFrameBoundary n) s =
    .next ((sendFrame (s.modPort n fun p => { p with replay := l }) n { f with retx := true } false).bump (CEL_LINK_CNT.RETX_CNT n)) := by
  rw [exec_transmit hst]
  refine congrArg Host.Outcome.next ?_
  simp only [transmitNext, hrep, hst]
  rfl

/-- With nothing to resend and no LINK frame, an acknowledgement owed goes out. -/
theorem transmit_ack (hst : portState s n = 5) (hrep : (s.port n).replay = []) (hdue : (s.port n).ackDue = true) (hlink : (s.port n).linkQ = []) :
    exec (.transmitFrameBoundary n) s = .next (sendFrame s n { typ := 5, src := .ack } true) := by
  rw [exec_transmit hst]
  refine congrArg Host.Outcome.next ?_
  simp only [transmitNext, hrep, hdue, hlink]
  rfl

/-- The commands of the host come next. -/
theorem transmit_command (hst : portState s n = 5) (hrep : (s.port n).replay = []) (hdue : (s.port n).ackDue = false) (hlink : (s.port n).linkQ = [])
    (hcmd : (s.port n).cmdHost = f :: l) (hdesc : f.desc = none) (hroom : (s.port n).unacked.length < 64) (hcredit : 0 < (s.port n).creditCmd) :
    exec (.transmitFrameBoundary n) s = .next (sendFrame (s.modPort n fun p => { p with cmdHost := l }) n f true) := by
  have htake : takeTx (s.on (CEL_PORT_CTL.HOLD n)) (f :: l) = some (f, l) := by simp [takeTx, takeFirst, hdesc]
  rw [exec_transmit hst]
  refine congrArg Host.Outcome.next ?_
  simp only [transmitNext, hrep, hdue, hlink, hcmd, hst, htake, decide_eq_true hroom, decide_eq_true hcredit]
  rfl

theorem onWire_again (s : State) (n : Nat) (f : TxFrame) : onWire s n f false = f := rfl

theorem transmit_resends (hs : Tbl.sorted s.regs = true) (hst : portState s n = 5) (hrep : (s.port n).replay = f :: l) (hdesc : f.desc = none) :
    ∃ t, exec (.transmitFrameBoundary n) s = .next t ∧ Only [.regs, .cel, .out] s t ∧ (t.port n).replay = l ∧
      t.out = s.out ++ [.otconFrame n { f with retx := true } (s.port n).rxAny (s.port n).nakDue (((s.port n).expected + 4095) % 4096)] ∧
      t.rd (CEL_LINK_CNT.RETX_CNT n) = min (s.rd (CEL_LINK_CNT.RETX_CNT n) + 1) 0xFFFF ∧
      (t.port n).unacked = (s.port n).unacked ∧ (t.port n).ackDue = false := by
  have hexec := transmit_replay hst hrep
  have hmask : Mask 4096 s (s.modPort n fun p => { p with replay := l }) := modPort_mask (by decide) (mask_refl _ s)
  have hport : (s.modPort n fun p => { p with replay := l }).port n = { s.port n with replay := l } := port_modPort_same
  generalize (s.modPort n fun p => { p with replay := l }) = u at hexec hmask hport
  obtain ⟨hsend, hregs, hout, hsent⟩ := sendFrame_leaves (s := u) (n := n) (f := { f with retx := true }) hdesc false
  rw [hport, onWire_again, hmask.2 .out (by decide)] at hout
  rw [hport, onWire_again] at hsent
  have hsort : Tbl.sorted (sendFrame u n { f with retx := true } false).regs = true := by
    rw [hregs, hmask.2 .regs (by decide)]
    exact hs
  have hregs' := hregs.trans (hmask.2 .regs (by decide))
  generalize sendFrame u n { f with retx := true } false = v at hexec hsend hregs hout hsent hsort hregs'
  have hall : Mask 1052673 s v := mask_trans (mask_mono (by decide) hmask) (mask_mono (by decide) hsend)
  refine ⟨_, hexec, only_of_mask (bump_mask (by decide) hall) (by decide), ?_, ?_, ?_, ?_, ?_⟩
  · rw [State.bump, port_wr, hsent, OtPort.sent]
  · rw [(bump_mask (m := 1) (sub_refl _) (mask_refl _ v)).2 .out (by decide), hout]
  · rw [rd_bump_one hsort rfl (Nat.le_of_ble_eq_true rfl), rd_of_regs hregs']
  · simp only [State.bump, port_wr, hsent, OtPort.sent, Bool.false_and, Bool.false_eq_true, if_false]
  · rw [State.bump, port_wr, hsent, OtPort.sent]

theorem transmit_acknowledges (hst : portState s n = 5) (hrep : (s.port n).replay = []) (hdue : (s.port n).ackDue = true) (hlink : (s.port n).linkQ = []) :
    ∃ t, exec (.transmitFrameBoundary n) s = .next t ∧ Only [.cel, .out] s t ∧
      t.out = s.out ++ [.otconFrame n { typ := 5, src := .ack } (s.port n).rxAny (s.port n).nakDue (((s.port n).expected + 4095) % 4096)] ∧
      (t.port n).ackDue = false ∧ (t.port n).unacked = (s.port n).unacked ∧ (t.port n).txSeq = (s.port n).txSeq := by
  obtain ⟨hsend, _, hout, hsent⟩ := sendFrame_leaves (s := s) (n := n) (f := { typ := 5, src := .ack }) rfl true
  have hnum : numbered s n { typ := 5, src := .ack } = false := by simp [numbered]
  have hwire : onWire s n { typ := 5, src := .ack } true = { typ := 5, src := .ack } := by
    rw [onWire, hnum, Bool.and_false, if_neg Bool.false_ne_true]
  rw [hwire] at hout
  rw [hwire, hnum] at hsent
  refine ⟨_, transmit_ack hst hrep hdue hlink, only_of_mask hsend (by decide), hout, ?_⟩
  simp only [hsent, OtPort.sent, Bool.and_false, Bool.false_eq_true, if_false, and_self]

theorem transmit_sends (hst : portState s n = 5) (hrep : (s.port n).replay = []) (hdue : (s.port n).ackDue = false) (hlink : (s.port n).linkQ = [])
    (hcmd : (s.port n).cmdHost = f :: l) (hdesc : f.desc = none) (htyp : f.typ = 1) (hroom : (s.port n).unacked.length < 64)
    (hcredit : 0 < (s.port n).creditCmd) : ∃ t, exec (.transmitFrameBoundary n) s = .next t ∧ Only [.cel, .out] s t ∧ (t.port n).cmdHost = l ∧
      (t.port n).unacked = (s.port n).unacked ++ [{ f with seq := (s.port n).txSeq }] ∧ (t.port n).txSeq = ((s.port n).txSeq + 1) % 4096 ∧
      (t.port n).creditCmd = (s.port n).creditCmd - 1 ∧ (t.port n).wdHost = (s.port n).wdHost := by
  have hexec := transmit_command hst hrep hdue hlink hcmd hdesc hroom hcredit
  have hmask : Mask 4096 s (s.modPort n fun p => { p with cmdHost := l }) := modPort_mask (by decide) (mask_refl _ s)
  have hport : (s.modPort n fun p => { p with cmdHost := l }).port n = { s.port n with cmdHost := l } := port_modPort_same
  have hstate : portState (s.modPort n fun p => { p with cmdHost := l }) n = 5 := (portState_modPort _ _ _).trans hst
  generalize (s.modPort n fun p => { p with cmdHost := l }) = u at hexec hmask hport hstate
  obtain ⟨hsend, _, _, hsent⟩ := sendFrame_leaves (s := u) (n := n) hdesc true
  have hnum : numbered u n f = true := by simp [numbered, htyp, hstate]
  have hwire : onWire u n f true = { f with seq := (s.port n).txSeq } := by rw [onWire, hnum, hport, Bool.and_self, if_pos rfl]
  have hdata : (decide (f.typ = 2) || decide (f.typ = 0x13)) = false := by rw [htyp]; rfl
  rw [hport, hwire, hnum, hdata] at hsent
  refine ⟨_, hexec, only_of_mask (mask_trans (mask_mono (by decide) hmask) hsend) (by decide), ?_⟩
  rw [hsent]
  exact ⟨rfl, rfl, rfl, rfl, rfl⟩

end

/-- Settles O51: each clause is one path of the reception or the transmission of a frame, and what it leaves is read from the state with the header counted
and the acknowledgement taken. -/
theorem cellarFrames : Obligations.CellarFrames := by
  unfold Obligations.CellarFrames
  intro s n code sr busy sev die d0 d1 d2 h half f l hw ps hinv _ hst
  have hs := regs_sorted hinv
  have hq := seqs_sorted hinv
  refine ⟨?_, ?_, ?_, ?_, ?_, ?_, ?_, ?_, ?_, ?_, ?_⟩
  · exact fun hret hmiss => statusFrame_lost hs hst hret hmiss
  · exact fun hret hmode hbad hlen hver => statusFrame_bodyFail hs hst hret hmode hbad hlen hver
  · exact fun harr hack hexp hseq => ⟨fun hnext hnew => statusFrame_ahead harr hst hack hexp hnext hnew,
      fun hold => statusFrame_duplicate harr hst hack hseq hold⟩
  · exact fun harr hvalid hacked hun hrep => ⟨fun hnext hf => ackFrame_advances harr hst hvalid hacked hun hnext hf,
      fun hsame hnak hround => ackFrame_naks harr hst hvalid hacked hun hrep hsame hnak hround⟩
  · refine fun harr hord => ⟨fun hcode => statusFrame_reserved hs harr hst hord hcode, fun hd hended hling => ⟨?_, ?_⟩⟩
    · rintro rfl hwait hheld hroom
      exact statusFrame_event hq harr hst hord hd hended hling hwait hheld hroom
    · rintro rfl _
      exact statusFrame_suspends hq harr hst hord hd hended hling
  · obtain ⟨hmask, hcount⟩ := protoErr_counts (n := n) (h := h) hs
    exact fun harr hord hctl => ⟨fun hno => ⟨_, exec_rdataFrame (hw := hw) harr hst hord hctl ps (.inl hno), only_of_mask hmask (by decide), hcount⟩,
      fun hd hover => ⟨_, exec_rdataFrame harr hst hord hctl ps (.inr ⟨hd, hover⟩), only_of_mask hmask (by decide), hcount⟩⟩
  · refine fun harr hord => ⟨fun hbad => eventFrame_reserved hs harr hst hord hbad, ?_, ?_⟩
    · rintro rfl _
      exact eventFrame_recorded harr hst hord
    · rintro rfl hidle
      exact eventFrame_retires hs hq harr hst hord hidle
  · exact fun harr hord => ⟨fun hdie => tempRsp_notes harr hst hord hdie half,
      fun hdie => ⟨_, exec_tempRsp_none harr hst hord hdie half, only_of_mask (mask_taken s n h) (by decide)⟩⟩
  · exact fun hrep hdesc => transmit_resends hs hst hrep hdesc
  · exact fun hrep hdue hlink => transmit_acknowledges hst hrep hdue hlink
  · exact fun hrep hdue hlink hcmd hdesc htyp _ hroom hcredit => transmit_sends hst hrep hdue hlink hcmd hdesc htyp hroom hcredit

end Sys2Proof.Machine
end

section
/-!
PROOF. The die scheduler (R269, R276, R277, R312): what an offered operation does to its die's queue, the handover of a descriptor, and the
temperature poll.
-/
namespace Sys2Proof.Machine

variable {s : State} {n die slot i : Nat} {op : DieOp} {rest : List DieOp}

/-! ## The die queues (R276, R277) -/

/-- The operation at the end of its die's queue. -/
def dieQueued (s : State) (n : Nat) (op : DieOp) (rest : List DieOp) : State :=
  (s.modPort n fun p => { p with offers := rest }).modPort n fun p =>
    { p with dieQ := Tbl.put p.dieQ op.die (Tbl.getD p.dieQ op.die [] ++ [op]) }

theorem port_dieQueued (s : State) (n : Nat) (op : DieOp) (rest : List DieOp) : (dieQueued s n op rest).port n =
    { s.port n with offers := rest, dieQ := Tbl.put (s.port n).dieQ op.die (Tbl.getD (s.port n).dieQ op.die [] ++ [op]) } := by
  rw [dieQueued, port_modPort_same, port_modPort_same]

theorem takeOffer (hoffers : (s.port n).offers = op :: rest) (hroom : (Tbl.getD (s.port n).dieQ op.die []).length < 8) :
    takeFirst (fun o : DieOp => decide ((Tbl.getD (s.port n).dieQ o.die []).length < 8)) (s.port n).offers = some (op, rest) := by
  rw [hoffers, takeFirst, if_pos (decide_eq_true hroom)]

/-- The arbiter leaves a die that runs nothing. -/
theorem arbiterPreempt_of_free (hfree : Tbl.find (s.port n).running die = none) : arbiterPreempt s n die = s := by
  simp only [arbiterPreempt, hfree]

/-- The oldest operation offered enters the queue of its die, where the die is there and nothing is to be preempted. -/
theorem dieSchedulerEnqueue_enters (hoffers : (s.port n).offers = op :: rest) (hroom : (Tbl.getD (s.port n).dieQ op.die []).length < 8)
    (hthere : diePresent s n op.die = true) (hcalm : op.cls = 2 ∨ Tbl.find (s.port n).running op.die = none) :
    exec (.dieSchedulerEnqueue n) s = .next (dieQueued s n op rest) := by
  have hleft : (if op.isHost then arbiterPreempt (dieQueued s n op rest) n op.die else dieQueued s n op rest) = dieQueued s n op rest := by
    rcases hcalm with hcls | hfree
    · exact if_neg (by simp [DieOp.isHost, hcls])
    · rw [arbiterPreempt_of_free (by rw [port_dieQueued]; exact hfree), ite_self]
  have hthere' : ¬ ((!diePresent s n op.die) = true) := by rw [hthere]; decide
  show execDieSchedulerEnqueue n s = _
  simp only [execDieSchedulerEnqueue, takeOffer hoffers hroom]
  refine (if_neg hthere').trans (congrArg Host.Outcome.next hleft)

theorem dieSchedulerEnqueue_absent (hoffers : (s.port n).offers = [op]) (hroom : (Tbl.getD (s.port n).dieQ op.die []).length < 8)
    (habsent : diePresent s n op.die = false) :
    exec (.dieSchedulerEnqueue n) s = .next (opOutcome (s.modPort n fun p => { p with offers := [] }) n op .fail) := by
  have habsent' : (!diePresent s n op.die) = true := by rw [habsent]; rfl
  show execDieSchedulerEnqueue n s = _
  simp only [execDieSchedulerEnqueue, takeOffer hoffers hroom]
  exact if_pos habsent'

theorem dieSchedulerEnqueue_full (hfull : ∀ o ∈ (s.port n).offers, 8 ≤ (Tbl.getD (s.port n).dieQ o.die []).length) :
    exec (.dieSchedulerEnqueue n) s = .next s := by
  have hnone := takeFirst_eq_none (p := fun o : DieOp => decide ((Tbl.getD (s.port n).dieQ o.die []).length < 8)) fun o ho =>
    decide_eq_false (Nat.not_lt.2 (hfull o ho))
  show execDieSchedulerEnqueue n s = _
  simp only [execDieSchedulerEnqueue, hnone]

/-! ## The handover (R37, R277) -/

theorem descriptorHandover_stands (hno : portState s n ≠ 5 ∨ s.on (CEL_PORT_CTL.HOLD n) = true ∨ (Tbl.find (s.port n).running die).isSome = true) :
    exec (.descriptorHandover n die) s = .next s := by
  show execDescriptorHandover n die s = _
  rw [execDescriptorHandover]
  refine if_pos ?_
  rcases hno with h | h | h <;> simp [h]

/-- The ring entries that are free. -/
abbrev freeEntry (s : State) (n : Nat) : Option Nat := (List.range 32).find? fun i => descByte s n i 0 1 = 0 && !Tbl.has (s.port n).lingering i

/-- The operation has left its die's queue. -/
def dieUnqueued (s : State) (n die : Nat) (rest : List DieOp) : State := s.modPort n fun p => { p with dieQ := putOrDel p.dieQ die rest }

/-- The first operation of a die's queue is handed over where nothing of the port runs. -/
theorem descriptorHandover_hands (hst : portState s n = 5) (hhold : s.on (CEL_PORT_CTL.HOLD n) = false) (hrun : (s.port n).running = [])
    (hling : (s.port n).lingering = []) (hsusp : (s.port n).suspended = []) (hq : Tbl.getD (s.port n).dieQ die [] = op :: rest)
    (hpick : pickOp s n (Tbl.getD (s.port n).dieQ die []) = some 0) (hfree : freeEntry s n = some slot) :
    exec (.descriptorHandover n die) s = .next (handOver (dieUnqueued s n die rest) n op slot) := by
  have hgo : ¬ ((s.on (CEL_PORT_CTL.HOLD n) || decide (portState s n ≠ 5) || (Tbl.find (s.port n).running die).isSome ||
      (s.port n).lingering.any fun e => e.2.1 == die) = true) := by
    simp [hhold, hst, hrun, hling]
  have hcap : ¬ (((Tbl.find (s.port n).suspended die).isSome && !op.isHost || decide (dieCap s n ≤ (s.port n).running.length) && !isDumpOp op) = true) := by
    have hone : 1 ≤ dieCap s n := Nat.le_max_left _ _
    simp [hsusp, hrun]
    omega
  have hfirst : (Tbl.getD (s.port n).dieQ die [])[0]? = some op := by rw [hq]; rfl
  have hrest : (Tbl.getD (s.port n).dieQ die []).eraseIdx 0 = rest := by rw [hq]; rfl
  show execDescriptorHandover n die s = _
  simp only [execDescriptorHandover, if_neg hgo, hpick, hfree, hfirst, hrest]
  exact if_neg hcap

theorem getD_putOrDel {α : Type} (t : Tbl (List α)) (i : Nat) (l : List α) : Tbl.getD (putOrDel t i l) i [] = l := by
  rw [putOrDel]
  split
  · next hl => rw [Tbl.getD, Tbl.find_del_same, List.isEmpty_iff.1 hl, Option.getD_none]
  · exact Tbl.getD_put_same _ _ _ _

/-- A descriptor in its ring entry, running on its die. -/
def descStarted (s : State) (n i r : Nat) (op : DieOp) : State :=
  (s.modSeq n fun q => { q with
    ram := Tbl.writeBytes q.ram 0 (0x3800 + 32 * i) 32 (descWord op 1 i r s.pwr.time.toNat)
    descs := Tbl.put q.descs i { op := op } }).modPort n fun p => { p with running := Tbl.put p.running op.die i }

/-- With a recipe, and no read, the descriptor runs and OP_READY is raised. -/
theorem handOver_recipe {r : Nat} (hrecipe : findRecipe (s.seq n) op.kind op.cell = some r) (hkind : op.kind ≠ 1) :
    handOver s n op slot = raise (descStarted s n slot r op) n (evWord 0x01 r slot) := by
  simp only [handOver, hrecipe]
  exact congrArg (fun u => raise u n (evWord 0x01 r slot)) (if_pos hkind)

theorem handOver_no_recipe (hrecipe : findRecipe (s.seq n) op.kind op.cell = none) :
    handOver s n op slot = opOutcome (raise s n (evWord 0x08 3 slot)) n op .fail := by
  simp only [handOver, hrecipe]

theorem handOver_runs (hs : Tbl.sorted s.seqs = true) {r : Nat} (hrecipe : findRecipe (s.seq n) op.kind op.cell = some r) (hkind : op.kind ≠ 1) :
    Mask 12288 s (handOver s n op slot) ∧ (handOver s n op slot).port n = { s.port n with running := Tbl.put (s.port n).running op.die slot } ∧
    Tbl.find ((handOver s n op slot).seq n).descs slot = some { op := op } := by
  rw [handOver_recipe hrecipe hkind]
  have hport : (descStarted s n slot r op).port n = { s.port n with running := Tbl.put (s.port n).running op.die slot } := by
    rw [descStarted, port_modPort_same, port_modSeq]
  have hmask : Mask 12288 s (descStarted s n slot r op) := modPort_mask (by decide) (modSeq_mask (by decide) (mask_refl _ s))
  have hsort : Tbl.sorted (descStarted s n slot r op).seqs = true := by
    rw [descStarted, seqs_modPort]
    exact modSeq_sorted hs
  have hdesc : Tbl.find ((descStarted s n slot r op).seq n).descs slot = some { op := op } := by
    rw [descStarted, seq_modPort, seq_modSeq_same hs]
    exact Tbl.find_put_same _ _ _
  generalize descStarted s n slot r op = u at hport hmask hsort hdesc
  refine ⟨raise_mask (by decide) hmask, ?_, ?_⟩
  · rw [port_of_cel ((raise_mask (m := 8192) (by decide) (mask_refl _ u)).2 .cel (by decide)), hport]
  · rw [descs_raise hsort, hdesc]

/-! ## The temperature poll (R269) -/

/-- A change of every port of a list once. -/
theorem port_each_modPort {f : State → Nat → OtPort → OtPort} (g : OtPort → OtPort) (hf : ∀ u : State, u.regs = s.regs → f u n = g) (l : List Nat) (hl : l.Nodup) :
    ∀ u : State, u.regs = s.regs → (u.each l fun s m => s.modPort m (f s m)).port n = if n ∈ l then g (u.port n) else u.port n := by
  induction l with
  | nil => exact fun u _ => rfl
  | cons m l ih =>
    intro u hu
    obtain ⟨hm, hl'⟩ := List.nodup_cons.1 hl
    have hstep := ih hl' (u.modPort m (f u m)) ((regs_modPort _ _ _).trans hu)
    rw [State.each, List.foldl_cons]
    refine Eq.trans hstep ?_
    by_cases hmn : n = m
    · subst hmn
      rw [if_neg hm, port_modPort_same, hf u hu, if_pos List.mem_cons_self]
    · rw [port_modPort_other hmn]
      simp [hmn]

/-- The requests of a poll to the dies that are present. -/
def tempAsked (s : State) (n : Nat) (p : OtPort) : OtPort :=
  { p with tempQ := p.tempQ ++ ((List.range 16).filter (fun d => diePresent s n d)).map fun d => { typ := 6, src := .link 8 d [], host := false } }

theorem diePresent_of_regs {t : State} (h : t.regs = s.regs) (n d : Nat) : diePresent t n d = diePresent s n d := by
  rw [diePresent, rd_of_regs h, rd_of_regs h, diePresent]

theorem tempAsked_of_regs {t : State} (h : t.regs = s.regs) (n : Nat) : tempAsked t n = tempAsked s n := by
  funext p
  simp only [tempAsked, diePresent_of_regs h]

/-- The ports that a poll asks. -/
abbrev polled (s : State) : List Nat := (List.range 64).filter fun n => portState s n == 5 && portMode s n == 1

theorem exec_tempPoll (s : State) : exec .tempPoll s = .next (s.each (polled s) fun u m => u.modPort m (tempAsked u m)) := rfl

theorem mask_tempPoll (s : State) (l : List Nat) : Mask 4096 s (s.each l fun u m => u.modPort m (tempAsked u m)) :=
  each_mask (mask_refl _ s) fun _ _ hu => modPort_mask (by decide) hu

theorem port_tempPoll (s : State) (n : Nat) : (s.each (polled s) fun u m => u.modPort m (tempAsked u m)).port n =
    if n ∈ polled s then tempAsked s n (s.port n) else s.port n :=
  port_each_modPort (tempAsked s n) (fun _ hu => tempAsked_of_regs hu n) _ (List.nodup_range.filter _) s rfl

/-- One die present: the poll asks die 0. -/
theorem presentDies_one (hpresent : s.rd (CEL_DIE_MAP.PRESENT n) = 1) (hexcluded : s.rd (CEL_DIE_MAP.EXCLUDED n) = 0) :
    (List.range 16).filter (fun d => diePresent s n d) = [0] := by
  simp only [diePresent, hpresent, hexcluded]
  decide

/-- Settles O52: the oldest operation offered and the first of a die's queue are named by the statement, and the poll changes each port once. -/
theorem cellarScheduling : Obligations.CellarScheduling := by
  unfold Obligations.CellarScheduling
  intro s n die slot i op rest hinv hn
  have hs := seqs_sorted hinv
  refine ⟨?_, ?_, ?_, ?_, ?_, ?_, ?_, ?_, ?_⟩
  · intro hoffers hroom hthere hcalm
    refine ⟨_, dieSchedulerEnqueue_enters hoffers hroom hthere hcalm,
      only_of_mask (modPort_mask (m := 4096) (by decide) (modPort_mask (by decide) (mask_refl _ s))) (by decide), ?_, ?_, fun d hd => ?_⟩
    · rw [port_dieQueued]
    · rw [port_dieQueued]
      exact Tbl.getD_put_same _ _ _ _
    · rw [port_dieQueued]
      exact Tbl.getD_put_other _ _ _ hd
  · exact fun hoffers hroom habsent => dieSchedulerEnqueue_absent hoffers hroom habsent
  · exact fun hfull => dieSchedulerEnqueue_full hfull
  · exact fun hst => descriptorHandover_stands (.inl hst)
  · exact fun hhold => descriptorHandover_stands (.inr (.inl hhold))
  · exact fun hrun => descriptorHandover_stands (.inr (.inr hrun))
  · intro hst hhold hrun hling hsusp hq hpick hfree hdie hkind
    have hexec := descriptorHandover_hands hst hhold hrun hling hsusp hq hpick hfree
    have hmask : Mask 12288 s (dieUnqueued s n die rest) := modPort_mask (by decide) (mask_refl _ s)
    have hport : (dieUnqueued s n die rest).port n = { s.port n with dieQ := putOrDel (s.port n).dieQ die rest } := port_modPort_same
    have hseqs : (dieUnqueued s n die rest).seqs = s.seqs := seqs_modPort _ _ _
    refine ⟨fun hrecipe => ?_, fun hrecipe => ?_⟩
    · generalize dieUnqueued s n die rest = u at hexec hmask hport hseqs
      obtain ⟨hover, hrunning, hdesc⟩ := handOver_runs (slot := slot) (by rw [hseqs]; exact hs) ((seq_of_seqs hseqs).symm ▸ hrecipe) hkind
      refine ⟨_, hexec, only_of_mask (mask_trans hmask hover) (by decide), ?_, ?_, ?_⟩
      · rw [hrunning, hdie]
        exact Tbl.find_put_same _ _ _
      · rw [hrunning, hport]
        exact getD_putOrDel _ _ _
      · rw [hdesc]
        rfl
    · rw [hexec, handOver_no_recipe (by rw [seq_of_seqs hseqs]; exact hrecipe), dieUnqueued]
  · intro hst hmode hpresent hexcluded
    have hin : n ∈ polled s := List.mem_filter.2 ⟨List.mem_range.2 hn, by simp [hst, hmode]⟩
    refine ⟨_, exec_tempPoll s, only_of_mask (mask_tempPoll s _) (by decide), ?_⟩
    rw [port_tempPoll, if_pos hin, tempAsked, presentDies_one hpresent hexcluded]
    rfl
  · intro hst
    have hout : n ∉ polled s := fun hin => by simp [hst] at hin
    refine ⟨_, exec_tempPoll s, only_of_mask (mask_tempPoll s _) (by decide), ?_⟩
    rw [port_tempPoll, if_neg hout]

end Sys2Proof.Machine
end

section
/-!
PROOF. The Stair's links (R575 to R582, R590): what tells which link is up and who is at its other end, a Stair frame taken in sequence, and sending on a link.
-/
namespace Sys2Proof.Machine

variable {s t u : State} {n m : Nat} {h : FrameHdr}

/-! ## What the links are read from -/

/-- A register that counts no link's corrections. -/
abbrev Fld.NoErr (g : Fld) : Prop := ∀ m < 64, g.addr ≠ 0x300020 + 0x1000 * m

theorem noErr_port {g : Fld} {a : Nat} (hg : g.addr = a + 0x1000 * n) (ha : a % 0x1000 ≠ 0x20) : g.NoErr := by
  intro m _
  rw [hg]
  omega

theorem noErr_far {g : Fld} (hg : 0x400000 ≤ g.addr ∨ g.addr < 0x300000) : g.NoErr := by
  intro m hm
  omega

/-- The links stand: the parts that say which is up, and its registers, are as before. -/
structure LinksStand (s t : State) : Prop where
  pwr : t.pwr = s.pwr
  reads : ∀ g : Fld, g.NoErr → t.rd g = s.rd g
  retired : ∀ m, portRetired t m = portRetired s m

theorem LinksStand.refl (s : State) : LinksStand s s := ⟨rfl, fun _ _ => rfl, fun _ => rfl⟩

theorem LinksStand.trans (h : LinksStand s t) (h' : LinksStand t u) : LinksStand s u :=
  ⟨h'.pwr.trans h.pwr, fun g hg => (h'.reads g hg).trans (h.reads g hg), fun m => (h'.retired m).trans (h.retired m)⟩

theorem linksStand_of_parts (hpwr : t.pwr = s.pwr) (hregs : t.regs = s.regs) (hcel : t.cel = s.cel) : LinksStand s t :=
  ⟨hpwr, fun _ _ => rd_of_regs hregs, fun _ => portRetired_of_cel hcel⟩

theorem linksStand_of_mask {μ : Nat} (hmask : Mask μ s t) (hregs : μ.testBit 0 = false) (hpwr : μ.testBit 1 = false) (hcel : μ.testBit 12 = false) :
    LinksStand s t := linksStand_of_parts (hmask.2 .pwr hpwr) (hmask.2 .regs hregs) (hmask.2 .cel hcel)

/-- A change of a port that does not retire it. -/
theorem linksStand_modPort {f : OtPort → OtPort} (hf : ∀ p : OtPort, (f p).retired = p.retired) : LinksStand s (s.modPort n f) := by
  refine ⟨rfl, fun _ _ => rd_modPort _ _ _ _, fun m => ?_⟩
  rw [portRetired, retiredTable_modPort, portRetired]
  by_cases hm : m = n
  · rw [hm, port_modPort_same, hf]
  · rw [port_modPort_other hm]

namespace LinksStand

variable (hl : LinksStand s t)
include hl

theorem on {g : Fld} (hg : g.NoErr) : t.on g = s.on g := by rw [State.on, hl.reads g hg, State.on]

theorem portMode (m : Nat) : portMode t m = Machine.portMode s m := portMode_of_rd (hl.reads _ (noErr_port rfl (by decide)))

theorem populated (m : Nat) : populated t m = Machine.populated s m := by rw [Machine.populated, hl.pwr, Machine.populated]

theorem stairUp (m : Nat) : stairUp t m = Machine.stairUp s m := by
  rw [Machine.stairUp, hl.populated, hl.portMode, hl.retired, hl.reads _ (noErr_port rfl (by decide)), Machine.stairUp]

theorem isWorker : isWorker t = Machine.isWorker s := by rw [Machine.isWorker, hl.pwr, Machine.isWorker]

theorem isManager : isManager t = Machine.isManager s := by rw [Machine.isManager, hl.pwr, Machine.isManager]

theorem stairPorts : stairPorts t = Machine.stairPorts s := by
  simp only [Machine.stairPorts, hl.populated, hl.portMode]

theorem upPorts : (Machine.stairPorts t).filter (Machine.stairUp t) = (Machine.stairPorts s).filter (Machine.stairUp s) := by
  rw [hl.stairPorts, List.filter_congr fun m _ => hl.stairUp m]

end LinksStand

/-! ## A frame on a Stair link (R580) -/

theorem linksStand_credited (s : State) (n : Nat) (h : FrameHdr) : LinksStand s (credited s n h) := by
  rw [credited, State.when]
  split
  · exact linksStand_modPort fun _ => rfl
  · exact .refl s

theorem linksStand_heard (hs : Tbl.sorted s.regs = true) (hn : n < 64) : LinksStand s (heard s n h) := by
  have hmask : Mask 1 s (heard s n h) := bump_mask (sub_refl _) (mask_refl _ s)
  refine ⟨hmask.2 .pwr (by decide), fun g hg => ?_, fun m => portRetired_of_cel (hmask.2 .cel (by decide))⟩
  exact State.rd_wr_apart _ hs (Nat.le_of_ble_eq_true rfl) (.inl (hg n hn))

theorem linksStand_taken (hs : Tbl.sorted s.regs = true) (hn : n < 64) : LinksStand s (taken s n h) :=
  ((linksStand_heard hs hn).trans (linksStand_credited _ n h)).trans (linksStand_modPort fun _ => rfl)

/-- A Stair frame in its place is taken by a device of its role. -/
theorem onStair_taken {typ : Nat} (hs : Tbl.sorted s.regs = true) (hframe : StairFrame s n h typ) (htyp : typ ≠ 5) {role : State → Bool}
    (hrole : role (taken s n h) = true) (f : State → State) : onStair s n h typ role f = f (taken s n h) := by
  obtain ⟨hn, hty, hmode, hst, harr, hord⟩ := hframe
  have hgo : (decide (portMode (taken s n h) n = 2) && decide (h.typ = typ) && role (taken s n h)) = true := by
    rw [(linksStand_taken hs hn).portMode, hmode, hty, hrole]
    simp
  rw [onStair, onFrame_inOrder (hty.symm ▸ harr) hord (hty.symm ▸ htyp) (.inl hst)]
  exact if_pos hgo

/-- The link of a Stair frame is up. -/
theorem StairFrame.up {typ : Nat} (hframe : StairFrame s n h typ) (hpop : populated s n = true) : stairUp s n = true := by
  obtain ⟨_, _, hmode, hst, harr, _⟩ := hframe
  have hret : portRetired s n = false := harr.2.2.2.2.1
  have hstate : s.rd (CEL_PORT_STATUS.STATE n) = 5 := hst
  simp [stairUp, hpop, hmode, hret, hstate]

/-! ## Sending (R580) -/

/-- A Stair frame that waits with the host's commands. -/
abbrev stairTxFrame (typ tag : Nat) (x : StairMsg) : TxFrame := { typ := typ, tag := tag, last := true, src := .stair typ x }

/-- A frame that carries no data, on a link that is up, waits with the host's commands. -/
theorem stairTx_up (hup : stairUp s n = true) {typ : Nat} (htyp : typ ≠ 0x13) (tag : Nat) (x : StairMsg) :
    stairTx s n typ tag 0 true x = s.modPort n fun p => { p with cmdHost := p.cmdHost ++ [stairTxFrame typ tag x] } := by
  have hup' : ¬ ((!stairUp s n) = true) := by rw [hup]; decide
  simp only [stairTx, if_neg hup', if_neg htyp]

theorem cmdHost_stairTx (hup : stairUp s n = true) {typ : Nat} (htyp : typ ≠ 0x13) (tag : Nat) (x : StairMsg) :
    ((stairTx s n typ tag 0 true x).port n).cmdHost = (s.port n).cmdHost ++ [stairTxFrame typ tag x] := by
  rw [stairTx_up hup htyp, port_modPort_same]

theorem cmdHost_taken (s : State) (n : Nat) (h : FrameHdr) (m : Nat) : ((taken s n h).port m).cmdHost = (s.port m).cmdHost := by
  by_cases hm : m = n
  · rw [hm, port_taken, OtPort.taken]
  · rw [taken, port_modPort_other hm, credited, State.when]
    split
    · rw [port_modPort_other hm, port_heard]
    · rw [port_heard]

/-! ## Settling while nothing is under way (R104, R108) -/

/-- With no command, no tail and no Format under way only the records of what has settled are looked at. -/
theorem settleCheck_idle (hctxs : s.hall.ctxs = []) (htails : s.hall.tails = []) (hformat : ∀ e ∈ s.nvm.spaces, e.2.formatting = none) :
    settleCheck s = dropSettled (pruneDeps s) := by
  have hmask : Mask 1024 s (pruneDeps s) := pruneDeps_mask (sub_refl _) (mask_refl _ s)
  have hhall : (pruneDeps s).hall = s.hall := hmask.2 .hall (by decide)
  have hformat' : ∀ e ∈ (pruneDeps s).nvm.spaces, e.2.formatting = none := by rwa [hmask.2 .nvm (by decide)]
  rw [settleCheck]
  generalize pruneDeps s = u at hhall hformat'
  have hctxs' : u.hall.ctxs = [] := by rw [hhall, hctxs]
  have htails' : u.hall.tails = [] := by rw [hhall, htails]
  have hloop (f : State → Nat × Tail → State) : u.each u.hall.tails f = u := by
    rw [htails']
    rfl
  have hops : nsOpCheck u = u := by
    rw [nsOpCheck, hctxs']
    rfl
  have hnone (f : State → Nat × Ctx → State) : (dropSettled u).each (dropSettled u).hall.ctxs f = dropSettled u := by
    rw [show (dropSettled u).hall.ctxs = [] from hctxs']
    rfl
  simp only [hloop, modHall_tails_nil htails', formatCheck_of_none hformat', hops]
  exact hnone _

theorem settleCheck_idle_mask (hctxs : s.hall.ctxs = []) (htails : s.hall.tails = []) (hformat : ∀ e ∈ s.nvm.spaces, e.2.formatting = none) :
    Mask 3072 s (settleCheck s) := by
  rw [settleCheck_idle hctxs htails hformat]
  exact modLdr_mask (by decide) (pruneDeps_mask (by decide) (mask_refl _ s))

end Sys2Proof.Machine
end

section
/-!
PROOF. The worker's side of the Stair (R578, R581 to R585, R588, R593, R594, R598).
-/
namespace Sys2Proof.Machine

variable {s t u : State} {n m key : Nat} {h : FrameHdr} {q : SReq} {r : JoinRec}

theorem modSta_congr {f g : Stair → Stair} (h : f s.sta = g s.sta) : s.modSta f = s.modSta g := congrArg (fun x => { s with sta := x }) h

theorem noErr_sta {g : Fld} (hg : g.addr = 0x780000) : g.NoErr := noErr_far (.inl (by rw [hg]; decide))

/-! ## Joining (R578, R587 to R590) -/

/-- A worker that has taken the record of its first link, and holds no namespace. -/
def joinTaken (s : State) (n : Nat) (r : JoinRec) : State :=
  s.modSta fun x => { x with
    selfId := r.worker, ver := min r.ver 0x20, mgrId := r.manager, epoch := r.epoch, share := r.share, weight := r.weight, seqLen := r.seqLen
    joined := [n], mgrLost := false }

theorem joinTaken_eq (hjoined : s.sta.joined = []) (hspaces : s.nvm.spaces = []) :
    (s.modSta fun x => { x with
      selfId := r.worker, ver := min r.ver 0x20,
      mgrId := if (!!s.nvm.spaces.isEmpty || decide (r.manager = s.sta.mgrId)) = true then r.manager else x.mgrId, epoch := r.epoch,
      share := if (!s.nvm.spaces.isEmpty) = true then x.share else r.share,
      weight := if (!s.nvm.spaces.isEmpty) = true then x.weight else r.weight,
      seqLen := if (!s.nvm.spaces.isEmpty) = true then x.seqLen else r.seqLen,
      joined := if x.joined.contains n = true then x.joined else n :: x.joined,
      mgrLost := x.mgrLost && !(!!s.nvm.spaces.isEmpty || decide (r.manager = s.sta.mgrId)) }) = joinTaken s n r :=
  modSta_congr (by simp [hjoined, hspaces])

theorem exec_sjoin (hs : Tbl.sorted s.regs = true) (hwork : isWorker s = true) (hframe : StairFrame s n h 0x10) (hen : s.on STA_CTL.JOIN_EN = true)
    (hact : s.hall.activating = none) (hjoined : s.sta.joined = []) (hspaces : s.nvm.spaces = []) :
    exec (.sjoin n h r) s = .next (stairTx (joinTaken (taken s n h) n r) n 0x11 0 0 true
      (.join (workerJoin (joinTaken (taken s n h) n r) n (min r.ver 0x20) r.link))) := by
  have hlinks := linksStand_taken (h := h) hs hframe.1
  have hmask := mask_taken s n h
  have hen' : (taken s n h).on STA_CTL.JOIN_EN = true := (hlinks.on (noErr_sta rfl)).trans hen
  have hact' : (taken s n h).hall.activating = none := by rw [hmask.2 .hall (by decide), hact]
  have hjoined' : (taken s n h).sta.joined = [] := by rw [hmask.2 .sta (by decide), hjoined]
  have hspaces' : (taken s n h).nvm.spaces = [] := by rw [hmask.2 .nvm (by decide), hspaces]
  show Host.Outcome.next (onStair s n h 0x10 isWorker _) = _
  rw [onStair_taken hs hframe (by decide) (hlinks.isWorker.trans hwork)]
  generalize taken s n h = u at hen' hact' hjoined' hspaces'
  have hgo : ¬ (!u.on STA_CTL.JOIN_EN || u.hall.activating.isSome) = true := by simp [hen', hact']
  refine congrArg Host.Outcome.next ?_
  dsimp only
  rw [if_neg hgo, joinTaken_eq hjoined' hspaces', if_neg (by simp [hjoined'])]

theorem linksStand_joinTaken : LinksStand s (joinTaken s n r) := linksStand_of_parts rfl rfl rfl

theorem sta_stairTx (s : State) (n typ tag : Nat) (x : StairMsg) : (stairTx s n typ tag 0 true x).sta = s.sta :=
  (stairTx_mask (sub_refl 4096) (mask_refl _ s)).2 .sta (by decide)

/-- A worker that holds no namespace takes the record of its first link and answers it. -/
theorem sjoin_answers (hs : Tbl.sorted s.regs = true) (hwork : isWorker s = true) (hframe : StairFrame s n h 0x10) (hen : s.on STA_CTL.JOIN_EN = true)
    (hact : s.hall.activating = none) (hjoined : s.sta.joined = []) (hspaces : s.nvm.spaces = []) (hpop : populated s n = true) :
    ∃ t ans, exec (.sjoin n h r) s = .next t ∧ Only [.regs, .cel, .sta] s t ∧ t.sta = (joinTaken s n r).sta ∧
      ans.worker = r.worker ∧ ans.ver = min r.ver 0x20 ∧ ans.manager = r.manager ∧
      (t.port n).cmdHost = (s.port n).cmdHost ++ [stairTxFrame 0x11 0 (.join ans)] := by
  have hexec := exec_sjoin (r := r) hs hwork hframe hen hact hjoined hspaces
  have hmask : Mask 4097 s (taken s n h) := mask_taken s n h
  have hup : stairUp (joinTaken (taken s n h) n r) n = true :=
    ((linksStand_taken hs hframe.1).trans linksStand_joinTaken).stairUp n |>.trans (hframe.up hpop)
  have hjoin : Mask 135169 s (joinTaken (taken s n h) n r) := modSta_mask (by decide) (mask_mono (by decide) hmask)
  have hsta : (joinTaken (taken s n h) n r).sta = (joinTaken s n r).sta := by
    rw [joinTaken, State.modSta_sta, hmask.2 .sta (by decide), joinTaken, State.modSta_sta]
  have hport : ((joinTaken (taken s n h) n r).port n).cmdHost = (s.port n).cmdHost := cmdHost_taken s n h n
  refine ⟨_, workerJoin (joinTaken (taken s n h) n r) n (min r.ver 0x20) r.link, hexec, only_of_mask (stairTx_mask (by decide) hjoin) (by decide), ?_, rfl, rfl, rfl, ?_⟩
  · exact (sta_stairTx _ _ _ _ _).trans hsta
  · rw [cmdHost_stairTx hup (by decide), hport]

/-- A join while joining is not enabled is not answered. -/
theorem sjoin_ignored (hs : Tbl.sorted s.regs = true) (hwork : isWorker s = true) (hframe : StairFrame s n h 0x10) (hen : s.on STA_CTL.JOIN_EN = false) :
    exec (.sjoin n h r) s = .next (taken s n h) := by
  have hlinks := linksStand_taken (h := h) hs hframe.1
  have hen' : (taken s n h).on STA_CTL.JOIN_EN = false := (hlinks.on (noErr_sta rfl)).trans hen
  show Host.Outcome.next (onStair s n h 0x10 isWorker _) = _
  rw [onStair_taken hs hframe (by decide) (hlinks.isWorker.trans hwork), hen']
  rfl

/-! ## Requests (R581 to R585) -/

/-- The place of a request's tag on its link. -/
abbrev tagSlot (n : Nat) (h : FrameHdr) : Nat := n * 128 + h.tag

/-- A request on a joined link of a worker that serves its manager, not yet under way. -/
structure ReqOpen (s : State) (n : Nat) (h : FrameHdr) (q : SReq) : Prop where
  frame : StairFrame s n h 0x12
  enabled : s.on STA_CTL.ENABLE = true
  served : s.sta.mgrLost = false
  joined : n ∈ s.sta.joined
  tag : h.tag < 128
  fresh : s.ctx (stairKey q) = none
  untailed : Tbl.has s.hall.tails (stairKey q) = false

/-- The tag of a request has been taken, and its data is not discarded. -/
def reqTagged (s : State) (n : Nat) (h : FrameHdr) (q : SReq) : State :=
  s.modSta fun x => { x with tags := Tbl.put x.tags (tagSlot n h) (stairKey q), discard := x.discard.filter fun k => k != tagSlot n h }

theorem mask_reqTagged (s : State) (n : Nat) (h : FrameHdr) (q : SReq) : Mask 135169 s (reqTagged (taken s n h) n h q) :=
  modSta_mask (by decide) (mask_mono (by decide) (mask_taken s n h))

theorem linksStand_reqTagged (hs : Tbl.sorted s.regs = true) (hn : n < 64) : LinksStand s (reqTagged (taken s n h) n h q) :=
  (linksStand_taken hs hn).trans (linksStand_of_parts rfl rfl rfl)

section
variable (hs : Tbl.sorted s.regs = true) (hwork : isWorker s = true) (hopen : ReqOpen s n h q)
include hs hwork hopen

/-- A request taken afresh is looked up, under its tag, in the done table. -/
theorem onReq_tagged (f : State → State) : onReq s n h q q.kind f =
    (let u := reqTagged (taken s n h) n h q
     match if q.resend then s.sta.done.find? (fun d => d.1 == stairKey q) else none with
      | some (_, d, _) => stairTx (u.modSta fun x => { x with discard := tagSlot n h :: x.discard }) n 0x14 h.tag 0 true (.done d)
      | none => f u) := by
  obtain ⟨hframe, hen, hserved, hjoined, htag, hfresh, htail⟩ := hopen
  have hlinks := linksStand_taken (h := h) hs hframe.1
  have hmask := mask_taken s n h
  have hen' : (taken s n h).on STA_CTL.ENABLE = true := (hlinks.on (noErr_sta rfl)).trans hen
  have hsta : (taken s n h).sta = s.sta := hmask.2 .sta (by decide)
  have hhall : (taken s n h).hall = s.hall := hmask.2 .hall (by decide)
  have hctx : (taken s n h).ctx (stairKey q) = none := (ctx_of_hall hhall).trans hfresh
  have htails : Tbl.has (taken s n h).hall.tails (stairKey q) = false := (congrArg (fun x => Tbl.has x.tails (stairKey q)) hhall).trans htail
  have hgo : ¬ (decide (q.kind ≠ q.kind) || !(taken s n h).on STA_CTL.ENABLE || (taken s n h).sta.mgrLost || !(taken s n h).sta.joined.contains n ||
      decide (127 < h.tag)) = true := by
    simp [hen', hsta, hserved, hjoined]
    omega
  rw [onReq, onStair_taken hs hframe (by decide) (hlinks.isWorker.trans hwork), ← hsta]
  generalize taken s n h = u at hctx htails hgo
  refine (if_neg hgo).trans ?_
  have hctx' : ((reqTagged u n h q).ctx (stairKey q)).isSome = false := by rw [show (reqTagged u n h q).ctx (stairKey q) = none from hctx]; rfl
  have htails' : Tbl.has (reqTagged u n h q).hall.tails (stairKey q) = false := htails
  simp only [reqTagged] at hctx' htails' ⊢
  simp only [hctx', htails', Bool.false_eq_true, if_false]
  rfl

theorem onReq_runs (hresend : q.resend = false) {k : Nat} (hkind : q.kind = k) (f : State → State) :
    onReq s n h q k f = f (reqTagged (taken s n h) n h q) := by
  rw [← hkind, onReq_tagged hs hwork hopen, hresend]
  rfl

end

/-! ### Commands that begin -/

theorem spanOf_of_nvm (h : t.nvm = s.nvm) (ns slba nlb : Nat) : spanOf t ns slba nlb = spanOf s ns slba nlb := by
  simp only [spanOf, perUnit, nspace, h]

theorem wholeNs_of_nvm (h : t.nvm = s.nvm) (ns : Nat) : wholeNs t ns = wholeNs s ns := by
  simp only [wholeNs, nspace, h]

theorem readSpans_of_nvm (h : t.nvm = s.nvm) (cmd : HostCmd) : readSpans t cmd = readSpans s cmd := by
  unfold readSpans
  split <;> simp only [spanOf_of_nvm h]

theorem writeSpans_of_nvm (h : t.nvm = s.nvm) (cmd : HostCmd) : writeSpans t cmd = writeSpans s cmd := by
  unfold writeSpans
  split <;> simp only [spanOf_of_nvm h, wholeNs_of_nvm h]

/-- A request that begins its command. -/
theorem putReq_begins {i : Instr} {cmd : HostCmd} {st : CtxSt} {writes : Bool}
    (hexec : exec i s = .next (putReq (reqTagged (taken s n h) n h q) n h q cmd st writes)) :
    ∃ t c, exec i s = .next t ∧ Only [.regs, .hall, .cel, .sta] s t ∧ t.ctx (stairKey q) = some c ∧
      c.cmd = cmd ∧ c.st = st ∧ c.stair = some (n, h.tag, q) ∧ c.reads = readSpans s cmd ∧ c.writes = writeSpans s cmd ∧
      (∀ j, j ≠ stairKey q → t.ctx j = s.ctx j) ∧ t.hall.sqs = s.hall.sqs ∧ Tbl.find t.sta.tags (tagSlot n h) = some (stairKey q) := by
  have hmask := mask_reqTagged s n h q
  have htags : Tbl.find (reqTagged (taken s n h) n h q).sta.tags (tagSlot n h) = some (stairKey q) := Tbl.find_put_same _ _ _
  generalize reqTagged (taken s n h) n h q = u at hexec hmask htags
  have hhall : u.hall = s.hall := hmask.2 .hall (by decide)
  have hnvm : u.nvm = s.nvm := hmask.2 .nvm (by decide)
  refine ⟨_, _, hexec, only_of_mask (putReq_mask (m := 135425) (by decide) (mask_mono (by decide) hmask)) (by decide),
    Tbl.find_put_same _ _ _, rfl, rfl, rfl, readSpans_of_nvm hnvm cmd, writeSpans_of_nvm hnvm cmd, fun j hj => ?_, (congrArg Hall.sqs hhall : u.hall.sqs = s.hall.sqs), htags⟩
  exact (Tbl.find_put_other _ _ hj).trans (ctx_of_hall hhall)

/-! ### Barriers (R581) -/

/-- The key of a barrier no longer has arrivals. -/
def arrivalsOver (s : State) (q : SReq) : State := s.modSta fun x => { x with arrived := Tbl.del x.arrived (stairKey q) }

theorem onBarrier_waits (harrived : Tbl.find s.sta.arrived (stairKey q) = none) (hjoined : m ∈ s.sta.joined) (hne : n ≠ m) (hup : stairUp s m = true)
    (f : State → State) : onBarrier s n q f = s.modSta fun x => { x with arrived := Tbl.put x.arrived (stairKey q) [n] } := by
  have hnot : ¬ ((s.sta.joined.filter (stairUp s)).all fun k => [n].contains k) = true := by
    rw [List.all_eq_true]
    intro hall
    have := hall m (List.mem_filter.2 ⟨hjoined, hup⟩)
    simp only [List.contains_eq_mem, List.mem_singleton, decide_eq_true_eq] at this
    exact hne this.symm
  simp only [onBarrier, Tbl.getD, harrived, Option.getD_none, List.filter_nil, if_neg hnot]

theorem onBarrier_acts {l : List Nat} (harrived : Tbl.getD s.sta.arrived (stairKey q) [] = l) (hall : ∀ k ∈ s.sta.joined, k = n ∨ k ∈ l)
    (f : State → State) : onBarrier s n q f = f (arrivalsOver s q) := by
  have hgo : ((s.sta.joined.filter (stairUp s)).all fun k => (n :: l.filter fun m => m != n).contains k) = true := by
    rw [List.all_eq_true]
    intro k hk
    have := hall k (List.mem_of_mem_filter hk)
    simp only [List.contains_eq_mem, List.mem_cons, List.mem_filter, bne_iff_ne, ne_eq, decide_eq_true_eq]
    tauto
  simp only [onBarrier, harrived]
  exact if_pos hgo

/-- A barrier is answered on the first link that is up. -/
theorem stairDone_barrier (hkind : q.kind = 6 ∨ q.kind = 7) {k : Nat} {rest : List Nat} (hports : (stairPorts s).filter (stairUp s) = k :: rest)
    (link tag units : Nat) : stairDone s link tag q 1 0 0 units =
      stairTx s k 0x14 tag 0 true (.done { phase := 1, units := units, ingest := q.ingest, sub := q.sub }) := by
  have hbarrier : (decide (q.kind = 6) || decide (q.kind = 7)) = true := by
    rw [Bool.or_eq_true, decide_eq_true_eq, decide_eq_true_eq]
    exact hkind
  have hkept : decide (2 ≤ q.kind ∧ q.kind ≤ 5) = false := by
    rw [decide_eq_false_iff_not]
    omega
  simp [stairDone, hkept, hbarrier, hports]

/-- A request of a worker that holds no units ends: its command goes, and it is answered. -/
theorem finish_stair {k link tag : Nat} {c : Ctx} (hc : s.ctx k = some c) (hst : c.st ≠ .ready) (hstair : c.stair = some (link, tag, q))
    (hunits : c.wunits = []) (sct sc : Nat) :
    finish s k sct sc = stairDone (s.modHall fun x => { x with ctxs := Tbl.del x.ctxs k }) link tag q 1 sct sc q.units := by
  simp [finish, hc, hst, hstair, hunits]

/-- A barrier that acts finds the parts that the engines of the commands read as they were. -/
theorem mask_acting (s : State) (n : Nat) (h : FrameHdr) (q : SReq) : Mask 135169 s (arrivalsOver (reqTagged (taken s n h) n h q) q) :=
  modSta_mask (by decide) (mask_reqTagged s n h q)

theorem linksStand_acting (hs : Tbl.sorted s.regs = true) (hn : n < 64) : LinksStand s (arrivalsOver (reqTagged (taken s n h) n h q) q) :=
  (linksStand_reqTagged (q := q) hs hn).trans (linksStand_of_parts rfl rfl rfl)

/-! ### Flush (R104) -/

/-- The context of a Flush from the manager. -/
def flushCtx (n : Nat) (h : FrameHdr) (q : SReq) : Ctx :=
  { port := 0xFF, sq := 0, cid := 0, cmd := .flush q.nsid, st := .running, reads := [], writes := [], wunits := [], stair := some (n, h.tag, q) }

/-- A Flush has begun: it waits for the older writes of its scope. -/
def flushBegun (s : State) (n : Nat) (h : FrameHdr) (q : SReq) : State :=
  (putReq s n h q (.flush q.nsid) .running false).modCtx (stairKey q) fun c => { c with waitFor := flushScope s (stairKey q) q.nsid }

theorem ctxs_flushBegun (hctxs : s.hall.ctxs = []) (htails : s.hall.tails = []) :
    (flushBegun s n h q).hall.ctxs = [(stairKey q, flushCtx n h q)] := by
  have hscope : flushScope s (stairKey q) q.nsid = [] := by
    simp [flushScope, hctxs, htails]
  have hput : (putReq s n h q (.flush q.nsid) .running false).hall.ctxs = [(stairKey q, flushCtx n h q)] := by
    rw [putReq, State.modHall_hall, hctxs]
    rfl
  rw [flushBegun, ctxs_modCtx_single hput, hscope]
  rfl

theorem mask_flushBegun (s : State) (n : Nat) (h : FrameHdr) (q : SReq) : Mask 256 s (flushBegun s n h q) :=
  modCtx_mask (sub_refl _) (putReq_mask (sub_refl _) (mask_refl _ s))

/-- With nothing else under way a Flush ends at once. -/
theorem settleCheck_flushBegun (hctxs : s.hall.ctxs = []) (htails : s.hall.tails = []) (hdeps : s.pan.deps = []) (hreqs : s.sta.reqs = [])
    (hformat : ∀ e ∈ s.nvm.spaces, e.2.formatting = none) :
    settleCheck (flushBegun s n h q) = finishOk (dropSettled (flushBegun s n h q)) (stairKey q) := by
  have hmask := mask_flushBegun s n h q
  have hone := ctxs_flushBegun (n := n) (h := h) (q := q) hctxs htails
  have htails' : (flushBegun s n h q).hall.tails = [] := htails
  generalize flushBegun s n h q = u at hmask hone htails'
  have hops : nsOpCheck u = u := nsOpCheck_single hone trivial
  have hreqs' : (dropSettled u).sta.reqs = [] := (congrArg Stair.reqs (hmask.2 .sta (by decide))).trans hreqs
  rw [settleCheck_eq (by rw [hmask.2 .pan (by decide), hdeps]) htails' (by rwa [hmask.2 .nvm (by decide)]), hops, hone]
  simp [State.each, settleOne, flushCtx, hreqs']

/-- A worker with nothing under way ends a Flush as the command comes to be looked at, and answers it. -/
theorem flush_answered (hctxs : s.hall.ctxs = []) (htails : s.hall.tails = []) (hdeps : s.pan.deps = []) (hreqs : s.sta.reqs = [])
    (hformat : ∀ e ∈ s.nvm.spaces, e.2.formatting = none) (hkind : q.kind = 6) {k : Nat} {rest : List Nat}
    (hports : (stairPorts s).filter (stairUp s) = k :: rest) :
    (settleCheck (flushBegun s n h q)).ctx (stairKey q) = none ∧ (settleCheck (flushBegun s n h q)).sta = s.sta ∧
      ((settleCheck (flushBegun s n h q)).port k).cmdHost = (s.port k).cmdHost ++
        [stairTxFrame 0x14 h.tag (.done { phase := 1, units := q.units, ingest := q.ingest, sub := q.sub })] := by
  rw [settleCheck_flushBegun hctxs htails hdeps hreqs hformat]
  have hmask : Mask 2304 s (dropSettled (flushBegun s n h q)) := modLdr_mask (by decide) (mask_mono (by decide) (mask_flushBegun s n h q))
  have hctx : (dropSettled (flushBegun s n h q)).ctx (stairKey q) = some (flushCtx n h q) := ctx_of_single (ctxs_flushBegun hctxs htails)
  generalize dropSettled (flushBegun s n h q) = u at hmask hctx
  have hmask' : Mask 2304 s (u.modHall fun x => { x with ctxs := Tbl.del x.ctxs (stairKey q) }) := modHall_mask (by decide) hmask
  have hlinks := linksStand_of_mask hmask' (by decide) (by decide) (by decide)
  have hports' := hlinks.upPorts.trans hports
  have hup : stairUp s k = true := (List.mem_filter.1 (hports ▸ List.mem_cons_self : k ∈ (stairPorts s).filter (stairUp s))).2
  rw [finishOk, finish_stair hctx (fun h => nomatch h) rfl rfl, stairDone_barrier (.inl hkind) hports']
  refine ⟨?_, ?_, ?_⟩
  · exact (ctx_of_mask (stairTx_mask (sub_refl 4096) (mask_refl _ _)) (by decide)).trans (Tbl.find_del_same _ _)
  · exact (sta_stairTx _ _ _ _ _).trans (hmask'.2 .sta (by decide))
  · rw [cmdHost_stairTx ((hlinks.stairUp k).trans hup) (by decide), port_of_cel (hmask'.2 .cel (by decide))]

section
variable (hs : Tbl.sorted s.regs = true) (hwork : isWorker s = true) (hopen : ReqOpen s n h q) (hresend : q.resend = false)
include hs hwork hopen hresend

theorem exec_sreqFlush_acts (hkind : q.kind = 6) {l : List Nat} (harrived : Tbl.find s.sta.arrived (stairKey q) = some l)
    (hall : ∀ k ∈ s.sta.joined, k = n ∨ k ∈ l) (hfronts : s.ldr.fronts = []) :
    exec (.sreqFlush n h q) s = .next (settleCheck (flushBegun (arrivalsOver (reqTagged (taken s n h) n h q) q) n h q)) := by
  have hmask := mask_taken s n h
  have hsta : (taken s n h).sta = s.sta := hmask.2 .sta (by decide)
  have hldr : (taken s n h).ldr = s.ldr := hmask.2 .ldr (by decide)
  show Host.Outcome.next (onReq s n h q 6 _) = _
  rw [onReq_runs hs hwork hopen hresend hkind]
  generalize taken s n h = u at hsta hldr
  have harr : Tbl.getD (reqTagged u n h q).sta.arrived (stairKey q) [] = l := by
    show Tbl.getD u.sta.arrived (stairKey q) [] = l
    rw [hsta, Tbl.getD, harrived]
    rfl
  have hall' : ∀ k ∈ (reqTagged u n h q).sta.joined, k = n ∨ k ∈ l := by
    show ∀ k ∈ u.sta.joined, k = n ∨ k ∈ l
    rwa [hsta]
  have hfronts' : (flushBegun (arrivalsOver (reqTagged u n h q) q) n h q).ldr.fronts = [] := (congrArg Larder.fronts hldr).trans hfronts
  rw [onBarrier_acts harr hall']
  exact congrArg (fun x => Host.Outcome.next (settleCheck x)) (closeHostFronts_of_none hfronts' _)

theorem sreqFlush_completes (hkind : q.kind = 6) {l : List Nat} (harrived : Tbl.find s.sta.arrived (stairKey q) = some l)
    (hall : ∀ k ∈ s.sta.joined, k = n ∨ k ∈ l) (hquiet : Quiet s) {k : Nat} {rest : List Nat} (hports : (stairPorts s).filter (stairUp s) = k :: rest) :
    ∃ t, exec (.sreqFlush n h q) s = .next t ∧
      Only [.regs, .atc, .hall, .nvm, .pan, .ldr, .cel, .seqs, .lnd, .scu, .sta, .free] s t ∧ t.ctx (stairKey q) = none ∧
      Tbl.find t.sta.arrived (stairKey q) = none ∧ (t.port k).cmdHost = (s.port k).cmdHost ++
        [stairTxFrame 0x14 h.tag (.done { phase := 1, units := q.units, ingest := q.ingest, sub := q.sub })] := by
  obtain ⟨hctxs, htails, hfronts, hdeps, hreqs, -, hformat⟩ := hquiet
  have hexec := exec_sreqFlush_acts hs hwork hopen hresend hkind harrived hall hfronts
  have hmask := mask_acting s n h q
  have hlinks := linksStand_acting (h := h) (q := q) hs hopen.frame.1
  have hcmd : ((arrivalsOver (reqTagged (taken s n h) n h q) q).port k).cmdHost = (s.port k).cmdHost := cmdHost_taken s n h k
  have hreqs' : (arrivalsOver (reqTagged (taken s n h) n h q) q).sta.reqs = [] := (congrArg Stair.reqs ((mask_taken s n h).2 .sta (by decide))).trans hreqs
  have harr : Tbl.find (arrivalsOver (reqTagged (taken s n h) n h q) q).sta.arrived (stairKey q) = none := Tbl.find_del_same _ _
  generalize arrivalsOver (reqTagged (taken s n h) n h q) q = u at hexec hmask hlinks hcmd hreqs' harr
  have hhall : u.hall = s.hall := hmask.2 .hall (by decide)
  obtain ⟨hctx, hsta, htx⟩ := flush_answered (n := n) (h := h) (by rw [hhall, hctxs]) (by rw [hhall, htails])
    (by rw [hmask.2 .pan (by decide), hdeps]) hreqs' (by rwa [hmask.2 .nvm (by decide)]) hkind (hlinks.upPorts.trans hports)
  exact ⟨_, hexec, only_of_exec hexec, hctx, by rw [hsta, harr], by rw [htx, hcmd]⟩

theorem sreqFlush_waits (hkind : q.kind = 6) (harrived : Tbl.find s.sta.arrived (stairKey q) = none) (hjoined : m ∈ s.sta.joined) (hne : n ≠ m)
    (hup : stairUp s m = true) :
    ∃ t, exec (.sreqFlush n h q) s = .next t ∧ Only [.regs, .cel, .sta] s t ∧ Tbl.find t.sta.arrived (stairKey q) = some [n] := by
  have hmask := mask_reqTagged s n h q
  have hsta : (taken s n h).sta = s.sta := (mask_taken s n h).2 .sta (by decide)
  have hup' := ((linksStand_reqTagged (h := h) (q := q) hs hopen.frame.1).stairUp m).trans hup
  have harr : Tbl.find (reqTagged (taken s n h) n h q).sta.arrived (stairKey q) = none := by
    show Tbl.find (taken s n h).sta.arrived (stairKey q) = none
    rw [hsta, harrived]
  have hjoin : m ∈ (reqTagged (taken s n h) n h q).sta.joined := by
    show m ∈ (taken s n h).sta.joined
    rwa [hsta]
  have hexec : exec (.sreqFlush n h q) s = .next (onBarrier (reqTagged (taken s n h) n h q) n q _) :=
    congrArg Host.Outcome.next (onReq_runs hs hwork hopen hresend hkind _)
  rw [onBarrier_waits harr hjoin hne hup'] at hexec
  exact ⟨_, hexec, only_of_mask (modSta_mask (m := 135169) (by decide) hmask) (by decide), Tbl.find_put_same _ _ _⟩

end

/-! ### Namespace operations (R588) -/

theorem nvm_mapChange (s : State) (r : JRec) : (mapChange s r).nvm = s.nvm := (mapChange_mask (sub_refl 33792) (mask_refl _ s)).2 .nvm (by decide)

theorem stg_mapChange (s : State) (r : JRec) : (mapChange s r).stg = s.stg := (mapChange_mask (sub_refl 33792) (mask_refl _ s)).2 .stg (by decide)

theorem nvm_deallocAll (s : State) (ns : Nat) : (deallocAll s ns).nvm = s.nvm := (deallocAll_mask (sub_refl 33792) (mask_refl _ s)).2 .nvm (by decide)

theorem stg_deallocAll (s : State) (ns : Nat) : (deallocAll s ns).stg = s.stg := (deallocAll_mask (sub_refl 33792) (mask_refl _ s)).2 .stg (by decide)

theorem nsOperation_create (hop : q.op = 1) :
    (nsOperation s q).nvm.spaces = Tbl.put s.nvm.spaces q.nsid { fmt := q.fmt, extents := q.size, gen := q.gen } ∧
      (nsOperation s q).stg.gens = Tbl.put s.stg.gens q.nsid q.gen := by
  simp only [nsOperation, hop, State.modStg_nvm, State.modStg_stg, nvm_mapChange, stg_mapChange, State.modNvm_nvm, State.modNvm_stg, and_self]

theorem nsOperation_delete (hop : q.op = 2) :
    (nsOperation s q).nvm.spaces = Tbl.del s.nvm.spaces q.nsid ∧ (nsOperation s q).stg.gens = Tbl.del s.stg.gens q.nsid := by
  simp only [nsOperation, hop, State.modStg_nvm, State.modStg_stg, State.modNvm_nvm, State.modNvm_stg, nvm_mapChange, stg_mapChange, nvm_deallocAll,
    stg_deallocAll, and_self]

/-- With nothing under way what follows a namespace operation leaves the namespaces and their keys. -/
theorem nsOperation_answered (hctxs : s.hall.ctxs = []) (htails : s.hall.tails = [])
    (hformat : ∀ e ∈ (nsOperation s q).nvm.spaces, e.2.formatting = none) (tag : Nat) :
    (settleCheck (stairDone (nsOperation s q) n tag q 1 0 0 0)).nvm = (nsOperation s q).nvm ∧
      (settleCheck (stairDone (nsOperation s q) n tag q 1 0 0 0)).stg = (nsOperation s q).stg := by
  have hhall : (nsOperation s q).hall = s.hall := (nsOperation_mask (sub_refl _) (mask_refl _ s)).2 .hall (by decide)
  have hdone : Mask 135168 (nsOperation s q) (stairDone (nsOperation s q) n tag q 1 0 0 0) := stairDone_mask (sub_refl _) (mask_refl _ _)
  have hsettle := settleCheck_idle_mask (s := stairDone (nsOperation s q) n tag q 1 0 0 0) (by rw [hdone.2 .hall (by decide), hhall, hctxs])
    (by rw [hdone.2 .hall (by decide), hhall, htails]) (by rwa [hdone.2 .nvm (by decide)])
  exact ⟨(hsettle.2 .nvm (by decide)).trans (hdone.2 .nvm (by decide)), (hsettle.2 .stg (by decide)).trans (hdone.2 .stg (by decide))⟩

section
variable (hs : Tbl.sorted s.regs = true) (hwork : isWorker s = true) (hopen : ReqOpen s n h q) (hresend : q.resend = false)
include hs hwork hopen hresend

/-- A namespace operation on the only joined link is carried out and answered. -/
theorem exec_sreqNamespaceOperation (hkind : q.kind = 7) (hjoined : s.sta.joined = [n]) (hjournal : journalOn s = true) :
    exec (.sreqNamespaceOperation n h q) s =
      .next (settleCheck (stairDone (nsOperation (arrivalsOver (reqTagged (taken s n h) n h q) q) q) n h.tag q 1 0 0 0)) := by
  have hlinks := linksStand_acting (h := h) (q := q) hs hopen.frame.1
  have hsta : (taken s n h).sta = s.sta := (mask_taken s n h).2 .sta (by decide)
  have hjournal' : journalOn (arrivalsOver (reqTagged (taken s n h) n h q) q) = true := by
    rw [journalOn, hlinks.on (noErr_far (.inr (by decide))), hlinks.on (noErr_far (.inr (by decide)))]
    exact hjournal
  have hall : ∀ k ∈ (reqTagged (taken s n h) n h q).sta.joined, k = n ∨ k ∈ Tbl.getD (reqTagged (taken s n h) n h q).sta.arrived (stairKey q) [] := by
    show ∀ k ∈ (taken s n h).sta.joined, _
    rw [hsta, hjoined]
    exact fun k hk => .inl (List.mem_singleton.1 hk)
  show Host.Outcome.next (onReq s n h q 7 _) = _
  rw [onReq_runs hs hwork hopen hresend hkind, onBarrier_acts rfl hall]
  exact congrArg Host.Outcome.next (if_neg (by rw [hjournal']; decide))

/-- What a namespace operation leaves of the namespaces and their keys. -/
theorem sreqNamespaceOperation_done (hkind : q.kind = 7) (hjoined : s.sta.joined = [n]) (hquiet : Quiet s) (hjournal : journalOn s = true)
    (hformat : ∀ u : State, u.nvm = s.nvm → ∀ e ∈ (nsOperation u q).nvm.spaces, e.2.formatting = none) :
    ∃ t u, exec (.sreqNamespaceOperation n h q) s = .next t ∧
      Only [.regs, .atc, .stg, .hall, .nvm, .pan, .ldr, .cel, .seqs, .lnd, .scu, .sta, .free] s t ∧
      u.nvm = s.nvm ∧ u.stg = s.stg ∧ t.nvm = (nsOperation u q).nvm ∧ t.stg = (nsOperation u q).stg := by
  obtain ⟨hctxs, htails, -⟩ := hquiet
  have hmask := mask_acting s n h q
  have hexec := exec_sreqNamespaceOperation hs hwork hopen hresend hkind hjoined hjournal
  have hhall := hmask.2 .hall (by decide)
  have hnvm := hmask.2 .nvm (by decide)
  obtain ⟨hnvm', hstg'⟩ := nsOperation_answered (n := n) (by rw [hhall, hctxs]) (by rw [hhall, htails]) (hformat _ hnvm) h.tag
  exact ⟨_, _, hexec, only_of_exec hexec, hnvm, hmask.2 .stg (by decide), hnvm', hstg'⟩

theorem sreqNamespaceOperation_creates (hkind : q.kind = 7) (hjoined : s.sta.joined = [n]) (hquiet : Quiet s) (hjournal : journalOn s = true)
    (hop : q.op = 1) :
    ∃ t, exec (.sreqNamespaceOperation n h q) s = .next t ∧
      Only [.regs, .atc, .stg, .hall, .nvm, .pan, .ldr, .cel, .seqs, .lnd, .scu, .sta, .free] s t ∧
      Tbl.find t.nvm.spaces q.nsid = some { fmt := q.fmt, extents := q.size, gen := q.gen } ∧ Tbl.find t.stg.gens q.nsid = some q.gen := by
  obtain ⟨-, -, -, -, -, -, hunformatted⟩ := id hquiet
  have hformat (u : State) (hu : u.nvm = s.nvm) : ∀ e ∈ (nsOperation u q).nvm.spaces, e.2.formatting = none := by
    rw [(nsOperation_create hop).1, hu]
    intro e he
    obtain hold | rfl := Tbl.mem_put _ _ _ e he
    · exact hunformatted e hold
    · rfl
  obtain ⟨t, u, hexec, honly, -, -, hnvm, hstg⟩ := sreqNamespaceOperation_done hs hwork hopen hresend hkind hjoined hquiet hjournal hformat
  obtain ⟨hspaces, hgens⟩ := nsOperation_create (s := u) hop
  exact ⟨t, hexec, honly, by rw [hnvm, hspaces, Tbl.find_put_same], by rw [hstg, hgens, Tbl.find_put_same]⟩

theorem sreqNamespaceOperation_deletes (hkind : q.kind = 7) (hjoined : s.sta.joined = [n]) (hquiet : Quiet s) (hjournal : journalOn s = true)
    (hop : q.op = 2) :
    ∃ t, exec (.sreqNamespaceOperation n h q) s = .next t ∧
      Only [.regs, .atc, .stg, .hall, .nvm, .pan, .ldr, .cel, .seqs, .lnd, .scu, .sta, .free] s t ∧
      Tbl.find t.nvm.spaces q.nsid = none ∧ Tbl.find t.stg.gens q.nsid = none := by
  obtain ⟨-, -, -, -, -, -, hunformatted⟩ := id hquiet
  have hformat (u : State) (hu : u.nvm = s.nvm) : ∀ e ∈ (nsOperation u q).nvm.spaces, e.2.formatting = none := by
    rw [(nsOperation_delete hop).1, hu]
    exact fun e he => hunformatted e (Tbl.del_subset _ _ e he)
  obtain ⟨t, u, hexec, honly, -, -, hnvm, hstg⟩ := sreqNamespaceOperation_done hs hwork hopen hresend hkind hjoined hquiet hjournal hformat
  obtain ⟨hspaces, hgens⟩ := nsOperation_delete (s := u) hop
  exact ⟨t, hexec, honly, by rw [hnvm, hspaces, Tbl.find_del_same], by rw [hstg, hgens, Tbl.find_del_same]⟩

end

end Sys2Proof.Machine
end
section
/-!
PROOF. The worker's side of the Stair: requests resent, data, time, and activation (R581, R585, R593, R594, R598).
-/
namespace Sys2Proof.Machine

variable {s t u : State} {n m k : Nat} {h : FrameHdr} {q : SReq} {r : JoinRec}

/-! ## Requests resent, and a manager that is lost (R585, R594) -/

/-- The data of a request resent and answered before is discarded. -/
def reqDiscarded (s : State) (n : Nat) (h : FrameHdr) (q : SReq) : State :=
  (reqTagged s n h q).modSta fun x => { x with discard := tagSlot n h :: x.discard }

theorem linksStand_reqDiscarded : LinksStand s (reqDiscarded s n h q) := linksStand_of_parts rfl rfl rfl

/-- A request resent whose answer the done table holds is answered from it, and its data is discarded. -/
theorem onReq_again (hs : Tbl.sorted s.regs = true) (hwork : isWorker s = true) (hopen : ReqOpen s n h q) (hresend : q.resend = true)
    {a : SDone} {x1 : Nat} (hdone : s.sta.done = [(stairKey q, a, x1)]) (f : State → State) :
    onReq s n h q q.kind f =
      stairTx (reqDiscarded (taken s n h) n h q) n 0x14 h.tag 0 true (.done a) := by
  have hfind : s.sta.done.find? (fun d => d.1 == stairKey q) = some (stairKey q, a, x1) := by simp [hdone]
  rw [onReq_tagged hs hwork hopen, hresend, if_pos rfl, hfind]
  rfl

theorem sreqWrite_again (hs : Tbl.sorted s.regs = true) (hwork : isWorker s = true) (hopen : ReqOpen s n h q) (hresend : q.resend = true)
    (hkind : q.kind = 2) (hpop : populated s n = true) {a : SDone} {x1 : Nat} (hdone : s.sta.done = [(stairKey q, a, x1)]) :
    ∃ t, exec (.sreqWrite n h q) s = .next t ∧ Only [.regs, .cel, .sta] s t ∧ tagSlot n h ∈ t.sta.discard ∧
      (t.port n).cmdHost = (s.port n).cmdHost ++ [stairTxFrame 0x14 h.tag (.done a)] := by
  have hexec : exec (.sreqWrite n h q) s = .next (stairTx _ n 0x14 h.tag 0 true (.done a)) :=
    congrArg Host.Outcome.next (hkind ▸ onReq_again hs hwork hopen hresend hdone _)
  have hmask : Mask 135169 s (reqDiscarded (taken s n h) n h q) := modSta_mask (by decide) (mask_reqTagged s n h q)
  have hup := ((linksStand_taken (h := h) hs hopen.frame.1).trans (linksStand_reqDiscarded (n := n) (h := h) (q := q))).stairUp n
  refine ⟨_, hexec, only_of_mask (stairTx_mask (m := .done a) (by decide) hmask) (by decide), ?_, ?_⟩
  · rw [sta_stairTx]
    exact List.mem_cons_self
  · rw [cmdHost_stairTx (hup.trans (hopen.frame.up hpop)) (by decide)]
    exact congrArg (· ++ [stairTxFrame 0x14 h.tag (.done a)]) (cmdHost_taken s n h n)

/-- A worker that has lost its manager takes no request. -/
theorem exec_sreqRead_lost (hs : Tbl.sorted s.regs = true) (hwork : isWorker s = true) (hframe : StairFrame s n h 0x12) (hlost : s.sta.mgrLost = true) :
    exec (.sreqRead n h q) s = .next (taken s n h) := by
  have hlost' : (taken s n h).sta.mgrLost = true := by rw [(mask_taken s n h).2 .sta (by decide), hlost]
  show Host.Outcome.next (onReq s n h q 1 _) = _
  rw [onReq, onStair_taken hs hframe (by decide) ((linksStand_taken hs hframe.1).isWorker.trans hwork)]
  exact congrArg Host.Outcome.next (if_pos (by simp [hlost']))

/-! ## Data (R581) -/

theorem exec_sdata (hs : Tbl.sorted s.regs = true) (hwork : isWorker s = true) (hframe : StairFrame s n h 0x13) (d : Blk) (md : Meta) :
    exec (.sdata n h d md) s = .next (stairWrite (taken s n h) n h d md) := by
  show Host.Outcome.next (onStair s n h 0x13 (fun _ => true) _) = _
  rw [onStair_taken hs hframe (by decide) rfl]
  exact congrArg Host.Outcome.next (if_pos ((linksStand_taken hs hframe.1).isWorker.trans hwork))

/-- Data of a command that waits for its slots is kept. -/
theorem stairWrite_stash (htag : Tbl.find s.sta.tags (tagSlot n h) = some k) (hkept : tagSlot n h ∉ s.sta.discard)
    (hst : (s.ctx k).map (fun c => c.st) = some .reserving) (d : Blk) (md : Meta) :
    stairWrite s n h d md = s.modSta fun x => { x with stash := Tbl.put x.stash (k * 256 + h.cwIndex) (d, md) } := by
  obtain ⟨c, hc, hst⟩ := Option.map_eq_some_iff.1 hst
  have hgo : ¬ (s.sta.discard.contains (tagSlot n h) || (s.ctx k).isNone) = true := by simp [hc, hkept]
  have hwait : ¬ (((s.modSta fun x => { x with stash := Tbl.put x.stash (k * 256 + h.cwIndex) (d, md) }).ctx k).any fun c => c.st == .running) = true := by
    rw [show (s.modSta _).ctx k = some c from hc]
    simp [hst]
  simp only [stairWrite, htag, if_neg hgo, if_neg hwait]

theorem stairWrite_untagged (htag : Tbl.find s.sta.tags (tagSlot n h) = none) (d : Blk) (md : Meta) : stairWrite s n h d md = s := by
  simp only [stairWrite, htag]

/-! ## Time (R593, R594) -/

/-- The worker's answer to the manager's time. -/
def timeAnswer (s : State) : STime := { time := s.pwr.time.toNat, opTime := s.pwr.opSec, idle := idleBut s 3, pwr := psNum s.pwr.st }

/-- A worker has answered the manager's time, and follows it. -/
def timeTaken (s : State) (n : Nat) (tm : STime) : State :=
  (trimTime (stairTx s n 0x15 0 0 true (.time (timeAnswer s))) ((tm.time + tm.delay : Nat) - (s.pwr.time.toNat : Int))).modSta fun x =>
    { x with mgrPwr := tm.pwr }

theorem exec_stime (hs : Tbl.sorted s.regs = true) (hwork : isWorker s = true) (hframe : StairFrame s n h 0x15) (tm : STime) :
    exec (.stime n h tm) s = .next (timeTaken (taken s n h) n tm) := by
  show Host.Outcome.next (onStair s n h 0x15 (fun _ => true) _) = _
  rw [onStair_taken hs hframe (by decide) rfl]
  exact congrArg Host.Outcome.next (if_pos ((linksStand_taken hs hframe.1).isWorker.trans hwork))

theorem trimTime_ahead {o : Int} (ho : (msTicks : Int) < o) : (trimTime s o).pwr.time = s.pwr.time + BitVec.ofNat 64 o.toNat := by
  rw [trimTime, if_pos ho]
  rfl

theorem trimTime_slews {o : Int} (ho : o ≤ (msTicks : Int)) : trimTime s o = s.modSta fun x => { x with slew := o, slewPhase := 0 } :=
  if_neg (Int.not_lt.2 ho)

theorem time_steps {a : U64} {b : Nat} (hab : a.toNat ≤ b) (hb : b < 2 ^ 64) : a + BitVec.ofNat 64 ((b : Int) - (a.toNat : Int)).toNat = BitVec.ofNat 64 b := by
  apply BitVec.eq_of_toNat_eq
  have ha := a.isLt
  rw [BitVec.toNat_add, BitVec.toNat_ofNat, BitVec.toNat_ofNat, Int.toNat_sub, Nat.mod_eq_of_lt (a := b - a.toNat) (by omega),
    Nat.add_sub_cancel' hab]

theorem port_trimTime (s : State) (o : Int) (n : Nat) : (trimTime s o).port n = s.port n :=
  port_of_cel ((trimTime_mask (sub_refl 131074) (mask_refl _ s)).2 .cel (by decide))

theorem pwr_stairTx (s : State) (n typ tag : Nat) (x : StairMsg) : (stairTx s n typ tag 0 true x).pwr = s.pwr :=
  (stairTx_mask (sub_refl 4096) (mask_refl _ s)).2 .pwr (by decide)

theorem stime_follows (hs : Tbl.sorted s.regs = true) (hwork : isWorker s = true) (hframe : StairFrame s n h 0x15) (hpop : populated s n = true)
    (tm : STime) :
    ∃ t ans, exec (.stime n h tm) s = .next t ∧ Only [.regs, .pwr, .cel, .sta] s t ∧ t.sta.mgrPwr = tm.pwr ∧ ans.time = s.pwr.time.toNat ∧
      ans.opTime = s.pwr.opSec ∧ (t.port n).cmdHost = (s.port n).cmdHost ++ [stairTxFrame 0x15 0 (.time ans)] ∧
      (s.pwr.time.toNat + msTicks < tm.time + tm.delay → tm.time + tm.delay < 2 ^ 64 → t.pwr.time = BitVec.ofNat 64 (tm.time + tm.delay)) ∧
      (tm.time + tm.delay ≤ s.pwr.time.toNat + msTicks → t.pwr = s.pwr ∧ t.sta.slew = (tm.time + tm.delay : Nat) - (s.pwr.time.toNat : Int)) := by
  have hexec := exec_stime hs hwork hframe tm
  have hmask := mask_taken s n h
  have hup := ((linksStand_taken (h := h) hs hframe.1).stairUp n).trans (hframe.up hpop)
  have hcmd := cmdHost_taken s n h n
  generalize taken s n h = u at hexec hmask hup hcmd
  have hpwr : u.pwr = s.pwr := hmask.2 .pwr (by decide)
  have hmask' : Mask 135171 s (timeTaken u n tm) :=
    modSta_mask (by decide) (trimTime_mask (by decide) (stairTx_mask (by decide) (mask_mono (by decide) hmask)))
  refine ⟨_, timeAnswer u, hexec, only_of_mask hmask' (by decide), rfl, by rw [timeAnswer, hpwr], by rw [timeAnswer, hpwr], ?_, ?_, ?_⟩
  · show ((trimTime _ _).port n).cmdHost = _
    rw [port_trimTime, cmdHost_stairTx hup (by decide), hcmd]
  · intro hahead hlt
    show (trimTime _ _).pwr.time = _
    rw [trimTime_ahead (by rw [hpwr]; omega), pwr_stairTx, hpwr, time_steps (by omega) hlt]
  · intro hslew
    have ho : ((tm.time + tm.delay : Nat) : Int) - (u.pwr.time.toNat : Int) ≤ (msTicks : Int) := by
      rw [hpwr]
      omega
    rw [timeTaken, trimTime_slews ho]
    exact ⟨(pwr_stairTx _ _ _ _ _).trans hpwr, by rw [hpwr]; rfl⟩

/-! ## Activation (R598) -/

theorem exec_sact_activate (hs : Tbl.sorted s.regs = true) (hwork : isWorker s = true) (hframe : StairFrame s n h 0x17) :
    exec (.sact n h .activate) s = .next (stairActivate (taken s n h)) := by
  show Host.Outcome.next (onStair s n h 0x17 (fun _ => true) _) = _
  rw [onStair_taken hs hframe (by decide) rfl]
  exact congrArg Host.Outcome.next (if_pos ((linksStand_taken hs hframe.1).isWorker.trans hwork))

theorem exec_sact_leaves (hs : Tbl.sorted s.regs = true) (hwork : isWorker s = true) (hframe : StairFrame s n h 0x17) (l : List Nat) :
    exec (.sact n h (.leaves k l)) s = .next (startImage ((taken s n h).modSta fun x => { x with image := l, imageVer := k })) := by
  show Host.Outcome.next (onStair s n h 0x17 (fun _ => true) _) = _
  rw [onStair_taken hs hframe (by decide) rfl]
  exact congrArg Host.Outcome.next (if_pos ((linksStand_taken hs hframe.1).isWorker.trans hwork))

theorem startImage_pwrfail (hpf : s.pwr.pwrfail = true) : startImage s = s := if_pos (by simp [hpf])

theorem sact_activates (hs : Tbl.sorted s.regs = true) (hwork : isWorker s = true) (hframe : StairFrame s n h 0x17) (hact : s.hall.activating = none) :
    ∃ t, exec (.sact n h .activate) s = .next t ∧ Only [.regs, .hall, .cel] s t ∧ t.hall.activating = some 0 ∧ t.on HAL_CTL.DRAIN_REQ = true := by
  have hexec := exec_sact_activate hs hwork hframe
  have hmask := mask_taken s n h
  have hsorted := taken_sorted (n := n) (h := h) hs
  generalize taken s n h = u at hexec hmask hsorted
  have hnot : ¬ u.hall.activating.isSome = true := by
    rw [hmask.2 .hall (by decide), hact]
    decide
  rw [stairActivate, if_neg hnot] at hexec
  refine ⟨_, hexec, only_of_mask (modHall_mask (m := 4353) (by decide) (set1_mask (by decide) (mask_mono (by decide) hmask))) (by decide), rfl, ?_⟩
  exact on_set1_same hsorted (by decide) Nat.one_ne_zero

theorem sact_keepsImage (hs : Tbl.sorted s.regs = true) (hwork : isWorker s = true) (hframe : StairFrame s n h 0x17) (hpf : s.pwr.pwrfail = true)
    (l : List Nat) :
    ∃ t, exec (.sact n h (.leaves k l)) s = .next t ∧ Only [.regs, .cel, .sta] s t ∧ t.sta.image = l ∧ t.sta.imageVer = k := by
  have hexec := exec_sact_leaves (k := k) hs hwork hframe l
  have hmask := mask_taken s n h
  generalize taken s n h = u at hexec hmask
  have hpf' : u.pwr.pwrfail = true := by rw [hmask.2 .pwr (by decide), hpf]
  have hstart := startImage_pwrfail (s := u.modSta fun x => { x with image := l, imageVer := k }) hpf'
  rw [hstart] at hexec
  exact ⟨_, hexec, only_of_mask (modSta_mask (m := 135169) (by decide) (mask_mono (by decide) hmask)) (by decide), rfl, rfl⟩

/-- Settles O53: each request runs once its frame is taken, and a barrier once its last copy has come. -/
theorem stairWorker : Obligations.StairWorker := by
  unfold Obligations.StairWorker
  intro s n m k x1 h r q d md a tm l rest hinv hwork
  have hs := regs_sorted hinv
  refine ⟨fun hframe hen hact hjoined hspaces hpop => ?_, fun hframe hen => ?_, fun hopen hresend => ?_, fun hopen hresend hkind hpop hdone => ?_,
    fun hframe hlost => ?_, fun hframe htag hkept hst => ?_, fun hframe htag => ?_, fun hframe hpop => stime_follows hs hwork hframe hpop tm,
    fun hst hjoined => ?_, fun hst => ?_, fun hframe => ⟨sact_activates hs hwork hframe, fun hpf => sact_keepsImage hs hwork hframe hpf l⟩, rfl⟩
  case refine_1 =>
    obtain ⟨t, ans, hexec, honly, hsta, hworker, hver, hmgr, hcmd⟩ := sjoin_answers (r := r) hs hwork hframe hen hact hjoined hspaces hpop
    exact ⟨t, ans, hexec, honly, by rw [hsta]; rfl, by rw [hsta]; rfl, by rw [hsta]; rfl, by rw [hsta]; rfl, by rw [hsta]; rfl, by rw [hsta]; rfl,
      by rw [hsta]; rfl, by rw [hsta]; rfl, by rw [hsta]; rfl, hworker, hver, hmgr, hcmd⟩
  case refine_2 => exact ⟨_, sjoin_ignored hs hwork hframe hen, only_of_mask (mask_taken s n h) (by decide)⟩
  case refine_3 =>
    obtain ⟨hframe, hen, hserved, hjoin, htag, hfresh, htail⟩ := hopen
    have hopen : ReqOpen s n h q := ⟨hframe, hen, hserved, hjoin, htag, hfresh, htail⟩
    have hrun {j : Nat} (hkind : q.kind = j) (f : State → State) := onReq_runs hs hwork hopen hresend hkind f
    refine ⟨fun hkind => putReq_begins (congrArg Host.Outcome.next (hrun hkind _)), fun hkind => putReq_begins (congrArg Host.Outcome.next (hrun hkind _)),
      fun hkind => putReq_begins (congrArg Host.Outcome.next (hrun hkind _)), fun hkind => putReq_begins (congrArg Host.Outcome.next (hrun hkind _)),
      fun hkind => putReq_begins (congrArg Host.Outcome.next (hrun hkind _)), fun hkind => putReq_begins (congrArg Host.Outcome.next (hrun hkind _)),
      fun hkind hjoined hne hup harrived => sreqFlush_waits hs hwork hopen hresend hkind harrived (by rw [hjoined]; simp) hne hup,
      fun hkind hjoined _ harrived hquiet hports => ?_, fun hkind hjoined hquiet hjournal => ⟨?_, ?_⟩⟩
    · refine sreqFlush_completes hs hwork hopen hresend hkind harrived ?_ hquiet hports
      rw [hjoined]
      simp
    · exact sreqNamespaceOperation_creates hs hwork hopen hresend hkind hjoined hquiet hjournal
    · exact sreqNamespaceOperation_deletes hs hwork hopen hresend hkind hjoined hquiet hjournal
  case refine_4 =>
    obtain ⟨hframe, hen, hserved, hjoin, htag, hfresh, htail⟩ := hopen
    exact sreqWrite_again hs hwork ⟨hframe, hen, hserved, hjoin, htag, hfresh, htail⟩ hresend hkind hpop hdone
  case refine_5 => exact ⟨_, exec_sreqRead_lost hs hwork hframe hlost, only_of_mask (mask_taken s n h) (by decide)⟩
  case refine_6 =>
    have hexec := exec_sdata hs hwork hframe d md
    have hmask := mask_taken s n h
    generalize taken s n h = u at hexec hmask
    have hsta : u.sta = s.sta := hmask.2 .sta (by decide)
    have htags : u.sta.tags = s.sta.tags := congrArg Stair.tags hsta
    have hst' : (u.ctx k).map (fun c => c.st) = some .reserving := by rw [ctx_of_mask hmask (by decide), hst]
    rw [stairWrite_stash (by rw [hsta]; exact htag) (by rwa [hsta]) hst'] at hexec
    exact ⟨_, hexec, only_of_mask (modSta_mask (m := 135169) (by decide) (mask_mono (by decide) hmask)) (by decide), Tbl.find_put_same _ _ _,
      htags⟩
  case refine_7 =>
    have hexec := exec_sdata hs hwork hframe d md
    have hmask := mask_taken s n h
    rw [stairWrite_untagged (by rw [hmask.2 .sta (by decide)]; exact htag)] at hexec
    exact ⟨_, hexec, only_of_mask hmask (by decide)⟩
  case refine_8 =>
    show (if _ then _ else if _ then Host.Outcome.next _ else _) = _
    simp [hst, hwork, hjoined]
  case refine_9 => exact if_pos (by simp [hst])

end Sys2Proof.Machine
end

section
/-!
PROOF. The manager's table of workers (R589 to R591), and the requests that wait for them (R577).
-/
namespace Sys2Proof.Machine

variable {s t u : State} {n w st why : Nat} {h : FrameHdr} {r : JoinRec}

/-! ## The table of workers -/

theorem worker_modWorker (s : State) (w : Nat) (f : WorkerSt → WorkerSt) : (s.modWorker w f).worker w = f (s.worker w) := Tbl.getD_setD_same _ _ _ _

theorem worker_of_sta (hsta : t.sta = s.sta) : t.worker w = s.worker w := by rw [State.worker, hsta, State.worker]

theorem worker_of_workers (hworkers : t.sta.workers = s.sta.workers) : t.worker w = s.worker w := by rw [State.worker, hworkers, State.worker]

/-- Of the Stair's state only the table of workers may differ. -/
def WorkersOnly (s t : State) : Prop := t.sta = { s.sta with workers := t.sta.workers }

namespace WorkersOnly

theorem refl (s : State) : WorkersOnly s s := rfl

theorem of_sta (hsta : t.sta = s.sta) : WorkersOnly s t := hsta.trans (by rw [hsta])

theorem modWorker (s : State) (w : Nat) (f : WorkerSt → WorkerSt) : WorkersOnly s (s.modWorker w f) := rfl

theorem trans (h : WorkersOnly s t) (h' : WorkersOnly t u) : WorkersOnly s u := by
  unfold WorkersOnly at h h' ⊢
  rw [h', h]

theorem reqs (h : WorkersOnly s t) : t.sta.reqs = s.sta.reqs := by rw [h]

theorem act (h : WorkersOnly s t) : t.sta.act = s.sta.act := by rw [h]

theorem unsettled (h : WorkersOnly s t) : t.sta.unsettled = s.sta.unsettled := by rw [h]

end WorkersOnly

/-! ## A worker's state (R589, R590) -/

theorem sta_post (s : State) (code sev src origin p0 p1 p2 p3 : Nat) : (post s code sev src origin p0 p1 p2 p3).sta = s.sta :=
  (post_mask (sub_refl 8) (mask_refl _ s)).2 .sta (by decide)

theorem workersOnly_setWorker (s : State) (w st why : Nat) : WorkersOnly s (setWorker s w st why) := by
  unfold setWorker
  split
  · exact .refl s
  · exact (WorkersOnly.modWorker s w _).trans (.of_sta (sta_post _ _ _ _ _ _ _ _ _))

theorem setWorker_changes (hne : ¬ ((s.worker w).st = st ∧ (s.worker w).fence = why)) :
    (setWorker s w st why).worker w = { s.worker w with st := st, fence := why, fencedAt := if st = 3 then s.pwr.opSec else (s.worker w).fencedAt } := by
  rw [setWorker, if_neg (by simpa using hne), worker_of_sta (sta_post _ _ _ _ _ _ _ _ _), worker_modWorker]

/-- A worker takes the state given, and keeps what is known of it. -/
theorem worker_setWorker (s : State) (w st why : Nat) :
    ∃ at_, (setWorker s w st why).worker w = { s.worker w with st := st, fence := why, fencedAt := at_ } := by
  by_cases hsame : (s.worker w).st = st ∧ (s.worker w).fence = why
  · refine ⟨(s.worker w).fencedAt, ?_⟩
    rw [setWorker, if_pos (by simpa using hsame), ← hsame.1, ← hsame.2]
  · exact ⟨_, setWorker_changes hsame⟩

theorem st_setWorker (s : State) (w st why : Nat) : ((setWorker s w st why).worker w).st = st := by
  obtain ⟨at_, hw⟩ := worker_setWorker s w st why
  rw [hw]

theorem fence_setWorker (s : State) (w st why : Nat) : ((setWorker s w st why).worker w).fence = why := by
  obtain ⟨at_, hw⟩ := worker_setWorker s w st why
  rw [hw]

theorem mask_setWorker (s : State) (w st why : Nat) : Mask 131080 s (setWorker s w st why) := setWorker_mask (sub_refl _) (mask_refl _ s)

/-- With no request made a worker is fenced, and nothing ends. -/
theorem fence_of_none (hreqs : s.sta.reqs = []) (w why : Nat) : fence s w why = setWorker s w 3 why := by
  rw [fence, endUnsent, (workersOnly_setWorker s w 3 why).reqs, hreqs]
  rfl

/-! ## Comparing a worker's record (Table 16-7) -/

theorem fenceReason_cell (hcell : r.cell ≠ frontCell s 1) : fenceReason s w r = 1 := if_pos hcell

theorem frontCell_of_scu (hscu : t.scu = s.scu) : frontCell t 1 = frontCell s 1 := by rw [frontCell, hscu, frontCell]

/-! ## Requests (R577) -/

/-- What pumping a worker's requests may change while each has gone out: the links they are spread over. -/
structure Repumped (s t : State) (w : Nat) : Prop where
  mask : Mask 131072 s t
  sta : WorkersOnly s t
  worker : ∃ l b, t.worker w = { s.worker w with links := l, hold := b }

theorem repumped_refl (s : State) (w : Nat) : Repumped s s w := ⟨mask_refl _ s, .refl s, _, _, rfl⟩

theorem repumped_modWorker (l : List Nat → List Nat) (b : Bool) (s : State) (w : Nat) :
    Repumped s (s.modWorker w fun x => { x with links := l x.links, hold := b }) w :=
  ⟨modSta_mask (sub_refl _) (mask_refl _ s), .modWorker _ _ _, _, _, worker_modWorker _ _ _⟩

/-- While every request of a worker has gone out none goes out. -/
theorem repumped_stairPump (hsent : ∀ q ∈ s.sta.reqs, q.w = w → q.sent ≠ []) : Repumped s (stairPump s w) w := by
  have hidle (u : State) (hu : u.sta.reqs = s.sta.reqs) (p : StairReq → Bool) :
      u.sta.reqs.filter (fun q => q.w == w && p q && q.sent.isEmpty) = [] := by
    rw [hu, List.filter_eq_nil_iff]
    intro q hq hgo
    simp only [Bool.and_eq_true, beq_iff_eq, List.isEmpty_iff] at hgo
    exact hsent q hq hgo.1.1 hgo.2
  unfold stairPump
  split
  · exact repumped_refl s w
  · dsimp only
    split
    · exact repumped_modWorker id true s w
    · split
      · have hnew := hidle (s.modWorker w fun x => { x with links := linksOf s w, hold := false }) rfl
        rw [hnew fun q => q.lost, each_nil, hnew fun q => !q.lost]
        exact repumped_modWorker (fun _ => linksOf s w) false s w
      · rw [hidle s rfl (fun q => q.lost), each_nil, hidle s rfl (fun q => !q.lost)]
        exact repumped_refl s w

theorem repumped_of_none (hreqs : s.sta.reqs = []) : Repumped s (stairPump s w) w := repumped_stairPump fun q hq => by
  rw [hreqs] at hq
  exact absurd hq List.not_mem_nil

theorem actCheck_of_none (hact : s.sta.act = none) : actCheck s = s := by rw [actCheck, hact]

/-! ## Frames from a worker -/

theorem mask_seen (s : State) (n : Nat) : Mask 2228224 s (seen s n) := seen_mask (sub_refl _) (mask_refl _ s)

theorem workersOnly_seen (s : State) (n : Nat) : WorkersOnly s (seen s n) := rfl

theorem worker_seen (hat : workerAt s n = w) :
    (seen s n).worker w = { s.worker w with lastSeen := s.pwr.opSec * 1000 + Config.freeNat s.free % 1000 } := by
  rw [← hat]
  exact worker_modWorker _ _ _

theorem linksStand_seen (s : State) (n : Nat) : LinksStand s (seen s n) := linksStand_of_parts rfl rfl rfl

theorem noErr_link (n : Nat) : (STA_LINK.WORKER n).NoErr := noErr_far (.inl (by simp only [STA_LINK.WORKER, STA_LINK.addr]; omega))

theorem LinksStand.workerAt (hl : LinksStand s t) (n : Nat) : workerAt t n = Machine.workerAt s n := hl.reads _ (noErr_link n)

end Sys2Proof.Machine
end

section
/-!
PROOF. The manager's side of the Stair: joining, the answers of the workers, and their time (R582, R584, R587 to R590, R593).
-/
namespace Sys2Proof.Machine

variable {s t u : State} {n w : Nat} {h : FrameHdr} {r : JoinRec} {d : SDone} {q q2 : StairReq}

theorem LinksStand.configured (hl : LinksStand s t) (w : Nat) : configured t w = Machine.configured s w := by
  rw [Machine.configured, hl.isManager, hl.stairPorts, Machine.configured]
  simp only [hl.reads _ (noErr_link _)]

theorem LinksStand.configuredWorkers (hl : LinksStand s t) : configuredWorkers t = Machine.configuredWorkers s := by
  rw [Machine.configuredWorkers, List.filter_congr fun w _ => hl.configured w, Machine.configuredWorkers]

theorem isWorker_of_manager (hmgr : isManager s = true) : isWorker s = false := by
  rw [isManager, beq_iff_eq] at hmgr
  rw [isWorker, hmgr]
  rfl

/-! ## Joining (R587 to R590) -/

/-- The record of a worker's answer has been taken. -/
def rspTaken (s : State) (n w : Nat) (r : JoinRec) : State :=
  let gb := if r.geom = (runningImage s).geomClass then (runningImage s).dieGb else Config.freeNat s.free
  let id := provisionedId 0xF (Config.freeNat (s.free + 1))
  s.tick.tick.modWorker w fun x => { x with
    ver := r.ver, image := r.image, dies := r.dies, rawGb := r.dies * gb, rec_ := r, pid := if x.pid = 0 then id else x.pid
    joined := if x.joined.contains n then x.joined else n :: x.joined }

/-- A worker that runs another image, or an older version of the Stair, is recorded. -/
def rspNoted (s : State) (w : Nat) (r : JoinRec) : State :=
  if r.image ≠ (runningImage s).version || r.ver < 0x20 then noteJoin s w (s.worker w).st 0 else s

/-- A worker that joins is compared. -/
def rspCompared (s : State) (w : Nat) (r : JoinRec) : State :=
  if (s.worker w).st = 2 || (s.worker w).st = 3 then s
  else
    let s := setWorker s w 1 0
    let why := fenceReason s w r
    if why = 0 then setWorker s w 2 0 else fence s w why

theorem exec_sjoinRsp (hs : Tbl.sorted s.regs = true) (hmgr : isManager s = true) (hframe : StairFrame s n h 0x11) (hat : workerAt s n = w)
    (hconf : configured s w = true) (hver : 0x10 ≤ r.ver) :
    exec (.sjoinRsp n h r) s =
      .next (actCheck (stairPump (rspCompared (rspNoted (rspTaken (seen (taken s n h) n) n w r) w r) w r) w)) := by
  have hlinks := linksStand_taken (h := h) hs hframe.1
  have hat' : workerAt (taken s n h) n = w := (hlinks.workerAt n).trans hat
  have hconf' : configured (taken s n h) w = true := (hlinks.configured w).trans hconf
  show Host.Outcome.next (onStair s n h 0x11 isManager _) = _
  rw [onStair_taken hs hframe (by decide) (hlinks.isManager.trans hmgr)]
  generalize taken s n h = u at hat' hconf'
  subst hat'
  have hgo : ¬ (decide (r.ver < 0x10) || !configured u (workerAt u n)) = true := by
    rw [hconf', Bool.not_true, Bool.or_false, decide_eq_true_eq]
    omega
  refine congrArg Host.Outcome.next ((if_neg hgo).trans ?_)
  rfl

theorem exec_sjoinRsp_old (hs : Tbl.sorted s.regs = true) (hmgr : isManager s = true) (hframe : StairFrame s n h 0x11) (hver : r.ver < 0x10) :
    exec (.sjoinRsp n h r) s = .next (taken s n h) := by
  show Host.Outcome.next (onStair s n h 0x11 isManager _) = _
  rw [onStair_taken hs hframe (by decide) ((linksStand_taken hs hframe.1).isManager.trans hmgr)]
  exact congrArg Host.Outcome.next (if_pos (by simp [hver]))

/-- What a worker's entry says of the record it has answered with on a link. -/
structure WorkerSt.Answered (n : Nat) (r : JoinRec) (x : WorkerSt) : Prop where
  ver : x.ver = r.ver
  image : x.image = r.image
  rec_ : x.rec_ = r
  joined : n ∈ x.joined

theorem rspTaken_answered (s : State) (n w : Nat) (r : JoinRec) : ((rspTaken s n w r).worker w).Answered n r := by
  rw [rspTaken, worker_modWorker]
  refine ⟨rfl, rfl, rfl, ?_⟩
  dsimp only
  split
  · next hin => exact List.contains_iff_mem.1 hin
  · exact List.mem_cons_self

theorem rspTaken_state (s : State) (n w : Nat) (r : JoinRec) :
    ((rspTaken s n w r).worker w).st = (s.worker w).st ∧ ((rspTaken s n w r).worker w).fence = (s.worker w).fence := by
  rw [rspTaken, worker_modWorker]
  exact ⟨rfl, rfl⟩

theorem mask_rspTaken (s : State) (n w : Nat) (r : JoinRec) : Mask 2228224 s (rspTaken s n w r) :=
  modWorker_mask (by decide) (tick_mask (by decide) (tick_mask (by decide) (mask_refl _ s)))

theorem workersOnly_rspTaken (s : State) (n w : Nat) (r : JoinRec) : WorkersOnly s (rspTaken s n w r) := WorkersOnly.modWorker s.tick.tick w _

theorem mask_rspNoted (s : State) (w : Nat) (r : JoinRec) : Mask 8 s (rspNoted s w r) := by
  unfold rspNoted
  split
  · exact noteJoin_mask (sub_refl _) (mask_refl _ s)
  · exact mask_refl _ s

theorem WorkerSt.Answered.setWorker {m : Nat} (ha : (s.worker w).Answered m r) (st why : Nat) : ((setWorker s w st why).worker w).Answered m r := by
  obtain ⟨at_, hw⟩ := worker_setWorker s w st why
  rw [hw]
  exact ⟨ha.ver, ha.image, ha.rec_, ha.joined⟩

theorem WorkerSt.Answered.repumped {m : Nat} (ha : (s.worker w).Answered m r) (hp : Repumped s t w) : (t.worker w).Answered m r := by
  obtain ⟨l, b, hw⟩ := hp.worker
  rw [hw]
  exact ⟨ha.ver, ha.image, ha.rec_, ha.joined⟩

theorem Repumped.st (hp : Repumped s t w) : (t.worker w).st = (s.worker w).st := by
  obtain ⟨l, b, hw⟩ := hp.worker
  rw [hw]

theorem Repumped.fence (hp : Repumped s t w) : (t.worker w).fence = (s.worker w).fence := by
  obtain ⟨l, b, hw⟩ := hp.worker
  rw [hw]

/-- A worker already active or fenced is not compared again. -/
theorem rspCompared_stays (hst : (s.worker w).st = 2 ∨ (s.worker w).st = 3) : rspCompared s w r = s := if_pos (by simpa using hst)

/-- A worker compared is active, or fenced for the first reason found; a memory of another kind is reason 1. -/
theorem rspCompared_joins {m : Nat} (hst : (s.worker w).st = 0) (hreqs : s.sta.reqs = []) (ha : (s.worker w).Answered m r) :
    WorkersOnly s (rspCompared s w r) ∧ ((rspCompared s w r).worker w).Answered m r ∧
      (((rspCompared s w r).worker w).st = 2 ∨ ((rspCompared s w r).worker w).st = 3 ∧ ((rspCompared s w r).worker w).fence ≠ 0) ∧
      (r.cell ≠ frontCell s 1 → ((rspCompared s w r).worker w).st = 3 ∧ ((rspCompared s w r).worker w).fence = 1) := by
  have hcell (hc : r.cell ≠ frontCell s 1) : fenceReason (setWorker s w 1 0) w r = 1 :=
    fenceReason_cell (by rwa [frontCell_of_scu ((mask_setWorker s w 1 0).2 .scu (by decide))])
  have honly := workersOnly_setWorker s w 1 0
  have ha' := ha.setWorker 1 0
  rw [rspCompared, if_neg (by rw [hst]; decide)]
  dsimp only
  generalize setWorker s w 1 0 = u at hcell honly ha'
  split
  · next hzero =>
    refine ⟨honly.trans (workersOnly_setWorker _ _ _ _), ha'.setWorker 2 0, .inl (st_setWorker _ _ _ _), fun hc => ?_⟩
    rw [hcell hc] at hzero
    cases hzero
  · next hwhy =>
    rw [fence_of_none (honly.reqs.trans hreqs)]
    exact ⟨honly.trans (workersOnly_setWorker _ _ _ _), ha'.setWorker 3 _, .inr ⟨st_setWorker _ _ _ _, by rwa [fence_setWorker]⟩,
      fun hc => ⟨st_setWorker _ _ _ _, by rw [fence_setWorker, hcell hc]⟩⟩

/-- The state in which a worker's answer is compared. -/
theorem rspNoted_stands (hat : workerAt s n = w) (r : JoinRec) :
    WorkersOnly s (rspNoted (rspTaken (seen s n) n w r) w r) ∧ (((rspNoted (rspTaken (seen s n) n w r) w r).worker w).Answered n r) ∧
      ((rspNoted (rspTaken (seen s n) n w r) w r).worker w).st = (s.worker w).st ∧
      ((rspNoted (rspTaken (seen s n) n w r) w r).worker w).fence = (s.worker w).fence ∧
      (rspNoted (rspTaken (seen s n) n w r) w r).scu = s.scu := by
  have hnoted := mask_rspNoted (rspTaken (seen s n) n w r) w r
  have hsta := hnoted.2 .sta (by decide)
  obtain ⟨hst, hfence⟩ := rspTaken_state (seen s n) n w r
  have hworker := worker_of_sta (w := w) hsta
  have hscu : (rspTaken (seen s n) n w r).scu = s.scu := ((mask_rspTaken _ n w r).2 .scu (by decide)).trans ((mask_seen s n).2 .scu (by decide))
  refine ⟨((workersOnly_seen s n).trans (workersOnly_rspTaken _ _ _ _)).trans (.of_sta hsta), ?_, ?_, ?_, (hnoted.2 .scu (by decide)).trans hscu⟩
  · rw [hworker]
    exact rspTaken_answered _ _ _ _
  · rw [hworker, hst, worker_seen hat]
  · rw [hworker, hfence, worker_seen hat]

section
variable (hs : Tbl.sorted s.regs = true) (hmgr : isManager s = true) (hframe : StairFrame s n h 0x11) (hat : workerAt s n = w)
  (hconf : configured s w = true) (hver : 0x10 ≤ r.ver) (hreqs : s.sta.reqs = []) (hact : s.sta.act = none)
include hs hmgr hframe hat hconf hver hreqs hact

theorem sjoinRsp_joins (hst : (s.worker w).st = 0) :
    ∃ t, exec (.sjoinRsp n h r) s = .next t ∧ Only [.regs, .atc, .hall, .nvm, .pan, .ldr, .cel, .seqs, .lnd, .scu, .sta, .free] s t ∧
      (t.worker w).Answered n r ∧ ((t.worker w).st = 2 ∨ (t.worker w).st = 3 ∧ (t.worker w).fence ≠ 0) ∧
      (r.cell ≠ frontCell s 1 → (t.worker w).st = 3 ∧ (t.worker w).fence = 1) := by
  have hexec := exec_sjoinRsp hs hmgr hframe hat hconf hver
  have hmask := mask_taken s n h
  have hat' : workerAt (taken s n h) n = w := ((linksStand_taken hs hframe.1).workerAt n).trans hat
  generalize taken s n h = a at hexec hmask hat'
  have hsta : a.sta = s.sta := hmask.2 .sta (by decide)
  obtain ⟨honly, hanswered, hst', -, hscu⟩ := rspNoted_stands hat' r
  generalize rspNoted (rspTaken (seen a n) n w r) w r = b at hexec honly hanswered hst' hscu
  rw [worker_of_sta hsta, hst] at hst'
  obtain ⟨honly', hanswered', hjoins, hcell⟩ := rspCompared_joins hst' (honly.reqs.trans (hsta ▸ hreqs)) hanswered
  generalize rspCompared b w r = c at hexec honly' hanswered' hjoins hcell
  have hp : Repumped c (stairPump c w) w := repumped_of_none ((honly.trans honly').reqs.trans (hsta ▸ hreqs))
  rw [actCheck_of_none (((honly.trans honly').trans hp.sta).act.trans (hsta ▸ hact))] at hexec
  refine ⟨_, hexec, only_of_exec hexec, hanswered'.repumped hp, by rwa [hp.st, hp.fence], fun hc => ?_⟩
  rw [hp.st, hp.fence]
  exact hcell (by rwa [frontCell_of_scu (hscu.trans (hmask.2 .scu (by decide)))])

theorem sjoinRsp_fenced (hst : (s.worker w).st = 3) :
    ∃ t, exec (.sjoinRsp n h r) s = .next t ∧ Only [.regs, .atc, .hall, .nvm, .pan, .ldr, .cel, .seqs, .lnd, .scu, .sta, .free] s t ∧
      (t.worker w).st = 3 ∧ (t.worker w).fence = (s.worker w).fence := by
  have hexec := exec_sjoinRsp hs hmgr hframe hat hconf hver
  have hat' : workerAt (taken s n h) n = w := ((linksStand_taken hs hframe.1).workerAt n).trans hat
  have hsta : (taken s n h).sta = s.sta := (mask_taken s n h).2 .sta (by decide)
  generalize taken s n h = a at hexec hsta hat'
  obtain ⟨honly, -, hst', hfence', -⟩ := rspNoted_stands hat' r
  generalize rspNoted (rspTaken (seen a n) n w r) w r = b at hexec honly hst' hfence'
  rw [worker_of_sta hsta] at hst' hfence'
  rw [rspCompared_stays (.inr (hst'.trans hst))] at hexec
  have hp : Repumped b (stairPump b w) w := repumped_of_none (honly.reqs.trans (hsta ▸ hreqs))
  rw [actCheck_of_none ((honly.trans hp.sta).act.trans (hsta ▸ hact))] at hexec
  exact ⟨_, hexec, only_of_exec hexec, by rw [hp.st, hst', hst], by rw [hp.fence, hfence']⟩

end

end Sys2Proof.Machine
end

section
/-!
PROOF. The manager's side of the Stair: the answers of the workers, and their time (R582, R584, R587, R593).
-/
namespace Sys2Proof.Machine

variable {s t u : State} {n w : Nat} {h : FrameHdr} {d : SDone} {q q2 : StairReq} {l : List StairReq}

/-! ## What a worker's frame leaves -/

theorem taken_seen_mask (s : State) (n : Nat) (h : FrameHdr) : Mask 2232321 s (seen (taken s n h) n) :=
  mask_trans (mask_mono (by decide) (mask_taken s n h)) (mask_mono (by decide) (mask_seen _ n))

theorem workersOnly_taken_seen (s : State) (n : Nat) (h : FrameHdr) : WorkersOnly s (seen (taken s n h) n) :=
  (WorkersOnly.of_sta ((mask_taken s n h).2 .sta (by decide))).trans (workersOnly_seen _ n)

/-! ## Answers (R582, R584) -/

/-- A piece of a read that its worker has served, or of a write that has others out, settles nothing more than itself. -/
theorem doneCommitted_read (hreqs : s.sta.reqs = [q]) (hkind : q.req.kind = 1) (hsct : d.sct = 0) (hsc : d.sc = 0) :
    doneCommitted s q d = s.modSta fun x => { x with reqs := [] } := by
  have herase : (s.modSta fun x => { x with reqs := x.reqs.erase q }) = s.modSta fun x => { x with reqs := [] } :=
    modSta_congr (by rw [hreqs, List.erase_cons_head])
  simp only [doneCommitted, herase, hkind, hsct, hsc]
  rfl

/-- The record of a write's piece on the list of what has not settled. -/
def unsettledOf (q : StairReq) : Unsettled :=
  { w := q.w, ingest := q.req.ingest, sub := q.req.sub, nsid := q.req.nsid, first := (q.units.head?).getD 0, count := q.units.length }

/-- A piece of a write that its worker has committed. -/
def pieceCommitted (s : State) (q : StairReq) (l : List StairReq) : State :=
  (unlose (s.modSta fun x => { x with reqs := l }) q.req.nsid ((q.units.head?).getD 0) q.units.length).modSta fun x =>
    { x with unsettled := x.unsettled ++ [unsettledOf q] }

theorem doneCommitted_piece (hreqs : s.sta.reqs = [q, q2]) (hkind : q.req.kind = 2) (hsct : d.sct = 0) (hsc : d.sc = 0) (hw : q2.w = q.w)
    (hing : q2.req.ingest = q.req.ingest) (hext : q2.ext = q.ext) (hunits : q.units ≠ []) : doneCommitted s q d = pieceCommitted s q [q2] := by
  have herase : (s.modSta fun x => { x with reqs := x.reqs.erase q }) = s.modSta fun x => { x with reqs := [q2] } :=
    modSta_congr (by rw [hreqs, List.erase_cons_head])
  obtain ⟨u0, units, hlist⟩ := List.exists_cons_of_ne_nil hunits
  have hfirst (k : Nat) : q.units.head?.getD k = q.units.head?.getD 0 := by rw [hlist]; rfl
  have hcount : max 1 q.units.length = q.units.length := by
    rw [hlist, List.length_cons]
    omega
  have hother : (pieceCommitted s q [q2]).sta.reqs.any (fun x => x.w == q.w && x.req.ingest == q.req.ingest && x.ext == q.ext) = true := by
    rw [show (pieceCommitted s q [q2]).sta.reqs = [q2] from rfl]
    simp [hw, hing, hext]
  simp only [doneCommitted, herase, hkind, hsct, hsc, hfirst, hcount]
  exact if_pos hother

theorem mask_pieceCommitted (s : State) (q : StairReq) (l : List StairReq) : Mask 131584 s (pieceCommitted s q l) :=
  modSta_mask (by decide) (modNvm_mask (by decide) (modSta_mask (by decide) (mask_refl _ s)))

section
variable (hs : Tbl.sorted s.regs = true) (hmgr : isManager s = true) (hframe : StairFrame s n h 0x14) (hat : workerAt s n = w)
include hs hmgr hframe hat

/-- An answer to the oldest request is taken, and the worker's next requests go out. -/
theorem exec_sdoneCommitted (hphase : d.phase = 1) (hreqs : s.sta.reqs = q :: l) (hw : q.w = w) (hing : d.ingest = q.req.ingest)
    (hsub : d.sub = q.req.sub) :
    exec (.sdoneCommitted n h d) s = .next (stairPump (doneCommitted (seen (taken s n h) n) q d) w) := by
  have hlinks := linksStand_taken (h := h) hs hframe.1
  have hat' : workerAt (taken s n h) n = w := (hlinks.workerAt n).trans hat
  have hreqs' : (seen (taken s n h) n).sta.reqs = q :: l := (workersOnly_taken_seen s n h).reqs.trans hreqs
  show Host.Outcome.next (onStair s n h 0x14 isManager _) = _
  rw [onStair_taken hs hframe (by decide) (hlinks.isManager.trans hmgr)]
  generalize taken s n h = u at hat' hreqs'
  have hfind : (seen u n).sta.reqs.find? (fun r => r.w == w && r.req.ingest == d.ingest && r.req.sub == d.sub) = some q := by
    rw [hreqs']
    exact List.find?_cons_of_pos (by simp [hw, hing, hsub])
  dsimp only
  rw [hat', if_neg (by simp [hphase]), hfind]

omit hat in
/-- An answer to no request is only heard. -/
theorem exec_sdoneCommitted_none (hphase : d.phase = 1) (hreqs : s.sta.reqs = []) :
    exec (.sdoneCommitted n h d) s = .next (seen (taken s n h) n) := by
  have hlinks := linksStand_taken (h := h) hs hframe.1
  have hreqs' : (seen (taken s n h) n).sta.reqs = [] := (workersOnly_taken_seen s n h).reqs.trans hreqs
  show Host.Outcome.next (onStair s n h 0x14 isManager _) = _
  rw [onStair_taken hs hframe (by decide) (hlinks.isManager.trans hmgr)]
  generalize taken s n h = u at hreqs'
  dsimp only
  rw [if_neg (by simp [hphase]), hreqs']
  rfl

theorem sdoneCommitted_read (hphase : d.phase = 1) (hing : d.ingest = q.req.ingest) (hsub : d.sub = q.req.sub) (hw : q.w = w)
    (hreqs : s.sta.reqs = [q]) (hkind : q.req.kind = 1) (hsct : d.sct = 0) (hsc : d.sc = 0) :
    ∃ t, exec (.sdoneCommitted n h d) s = .next t ∧ Only [.regs, .atc, .hall, .nvm, .pan, .ldr, .cel, .seqs, .lnd, .scu, .sta, .free] s t ∧
      t.sta.reqs = [] ∧ t.hall.ctxs = s.hall.ctxs := by
  have hexec := exec_sdoneCommitted hs hmgr hframe hat hphase hreqs hw hing hsub
  have hmask := taken_seen_mask s n h
  rw [doneCommitted_read ((workersOnly_taken_seen s n h).reqs.trans hreqs) hkind hsct hsc] at hexec
  generalize seen (taken s n h) n = u at hexec hmask
  have hp : Repumped _ (stairPump (u.modSta fun x => { x with reqs := [] }) w) w := repumped_of_none rfl
  have hhall : (u.modSta fun x => { x with reqs := [] }).hall = s.hall := hmask.2 .hall (by decide)
  exact ⟨_, hexec, only_of_exec hexec, hp.sta.reqs, by rw [hp.mask.2 .hall (by decide), hhall]⟩

theorem sdoneCommitted_piece (hphase : d.phase = 1) (hing : d.ingest = q.req.ingest) (hsub : d.sub = q.req.sub) (hw : q.w = w)
    (hreqs : s.sta.reqs = [q, q2]) (hw2 : q2.w = w) (hing2 : q2.req.ingest = q.req.ingest) (hext : q2.ext = q.ext) (hsent : q2.sent ≠ [])
    (hkind : q.req.kind = 2) (hunits : q.units ≠ []) (hsct : d.sct = 0) (hsc : d.sc = 0) :
    ∃ t, exec (.sdoneCommitted n h d) s = .next t ∧ Only [.regs, .atc, .hall, .nvm, .pan, .ldr, .cel, .seqs, .lnd, .scu, .sta, .free] s t ∧
      t.sta.reqs = [q2] ∧ t.hall.ctxs = s.hall.ctxs ∧ t.sta.unsettled = s.sta.unsettled ++ [unsettledOf q] := by
  have hexec := exec_sdoneCommitted hs hmgr hframe hat hphase hreqs hw hing hsub
  have hmask := taken_seen_mask s n h
  have honly := workersOnly_taken_seen s n h
  rw [doneCommitted_piece (honly.reqs.trans hreqs) hkind hsct hsc (hw2.trans hw.symm) hing2 hext hunits] at hexec
  generalize seen (taken s n h) n = u at hexec hmask honly
  have hreqs' : (pieceCommitted u q [q2]).sta.reqs = [q2] := rfl
  have hlist : (pieceCommitted u q [q2]).sta.unsettled = u.sta.unsettled ++ [unsettledOf q] := rfl
  have hhall : (pieceCommitted u q [q2]).hall = s.hall := ((mask_pieceCommitted u q [q2]).2 .hall (by decide)).trans (hmask.2 .hall (by decide))
  generalize pieceCommitted u q [q2] = v at hexec hreqs' hlist hhall
  have hp : Repumped v (stairPump v w) w := repumped_stairPump fun r hr _ => by
    rw [hreqs', List.mem_singleton] at hr
    rwa [hr]
  exact ⟨_, hexec, only_of_exec hexec, hp.sta.reqs.trans hreqs', by rw [hp.mask.2 .hall (by decide), hhall],
    by rw [hp.sta.unsettled, hlist, honly.unsettled]⟩

/-- A write settled leaves the list; another piece of it is still there. -/
theorem sdoneSettled_leaves {e e2 : Unsettled} (hphase : d.phase = 2) (hlist : s.sta.unsettled = [e, e2]) (hw : e.w = w) (hing : e.ingest = d.ingest)
    (hsub : e.sub = d.sub) (hw2 : e2.w = w) (hing2 : e2.ingest = d.ingest) (hsub2 : e2.sub ≠ d.sub) :
    ∃ t, exec (.sdoneSettled n h d) s = .next t ∧ Only [.regs, .cel, .sta, .free] s t ∧ t.sta.unsettled = [e2] := by
  have hlinks := linksStand_taken (h := h) hs hframe.1
  have hat' : workerAt (taken s n h) n = w := (hlinks.workerAt n).trans hat
  have hexec : exec (.sdoneSettled n h d) s = .next (doneSettled (seen (taken s n h) n) w d) := by
    show Host.Outcome.next (onStair s n h 0x14 isManager _) = _
    rw [onStair_taken hs hframe (by decide) (hlinks.isManager.trans hmgr), ← hat']
    exact congrArg Host.Outcome.next (if_neg (by simp [hphase]))
  have hmask := taken_seen_mask s n h
  have hlist' := (workersOnly_taken_seen s n h).unsettled.trans hlist
  generalize seen (taken s n h) n = u at hexec hmask hlist'
  have hfilter : (u.modSta fun x => { x with unsettled := x.unsettled.filter fun e => !(e.w == w && e.ingest == d.ingest && e.sub == d.sub) }) =
      u.modSta fun x => { x with unsettled := [e2] } := modSta_congr (by rw [hlist']; simp [hw, hing, hsub, hw2, hing2, hsub2])
  have hother : ((u.modSta fun x => { x with unsettled := [e2] }).sta.unsettled.any fun e => e.w == w && e.ingest == d.ingest) = true := by
    show [e2].any (fun e => e.w == w && e.ingest == d.ingest) = true
    simp [hw2, hing2]
  have hdone : doneSettled u w d = u.modSta fun x => { x with unsettled := [e2] } := by
    simp only [doneSettled, hfilter]
    exact if_pos hother
  rw [hdone] at hexec
  exact ⟨_, hexec, only_of_mask (modSta_mask (m := 2232321) (by decide) hmask) (by decide), rfl⟩

end

/-! ## Time (R587, R593) -/

theorem configured_bounds (hconf : configured s w = true) : isManager s = true ∧ 1 ≤ w := by
  simp only [configured, Bool.and_eq_true, decide_eq_true_eq] at hconf
  exact ⟨hconf.1.1, hconf.1.2.1⟩

theorem sjoinRetryExpiry_sends (hconf : configured s w = true) (hst : (s.worker w).st = 4)
    (hports : (stairPorts s).filter (fun n => workerAt s n == w && stairUp s n) = [n]) (hen : s.on STA_CTL.JOIN_EN = true) :
    ∃ t, exec (.sjoinRetryExpiry w) s = .next t ∧ Only [.cel] s t ∧
      (t.port n).cmdHost = (s.port n).cmdHost ++ [stairTxFrame 0x10 0 (.join (managerJoin s n))] := by
  obtain ⟨hmgr, hpos⟩ := configured_bounds hconf
  have hmem : n ∈ (stairPorts s).filter (fun n => workerAt s n == w && stairUp s n) := hports ▸ List.mem_cons_self
  obtain ⟨-, hlink⟩ := List.mem_filter.1 hmem
  rw [Bool.and_eq_true, beq_iff_eq] at hlink
  obtain ⟨hat, hup⟩ := hlink
  have hsend : sendJoin s n = stairTx s n 0x10 0 0 true (.join (managerJoin s n)) := by
    refine if_pos ?_
    rw [hmgr, hen, show s.rd (STA_LINK.WORKER n) = w from hat]
    simpa using Nat.ne_of_gt hpos
  have hexec : exec (.sjoinRetryExpiry w) s = .next (stairTx s n 0x10 0 0 true (.join (managerJoin s n))) := by
    refine congrArg Host.Outcome.next ((if_pos (by simp [hconf, hst])).trans ?_)
    rw [hports, State.each, List.foldl_cons, List.foldl_nil, hsend]
  exact ⟨_, hexec, only_of_mask (stairTx_mask (sub_refl 4096) (mask_refl _ s)) (by decide), cmdHost_stairTx hup (by decide) _ _⟩

/-- A worker's links are up. -/
theorem stairUp_of_linksOf (hmem : n ∈ linksOf s w) : stairUp s n = true := by
  obtain ⟨i, -, hfind⟩ := List.mem_filterMap.1 hmem
  have hlink := List.find?_some hfind
  simp only [Bool.and_eq_true] at hlink
  exact hlink.1.1.1

/-- The time that a manager sends to a worker on a link. -/
def managerTime (s : State) (n : Nat) : STime :=
  { time := s.pwr.time.toNat, opTime := s.pwr.opSec, pwr := max (psNum s.pwr.st) (requestedState s), delay := Tbl.getD s.sta.delay n 0 }

theorem stimeSend_sends (hmgr : isManager s = true) (hworkers : configuredWorkers s = [w]) {rest : List Nat} (hlinks : linksOf s w = n :: rest) :
    ∃ t, exec .stimeSend s = .next t ∧ Only [.cel] s t ∧
      (t.port n).cmdHost = (s.port n).cmdHost ++ [stairTxFrame 0x15 0 (.time (managerTime s n))] := by
  have hup : stairUp s n = true := stairUp_of_linksOf (hlinks ▸ List.mem_cons_self)
  have hexec : exec .stimeSend s = .next (stairTx s n 0x15 0 0 true (.time (managerTime s n))) := by
    refine congrArg Host.Outcome.next ((if_neg (by simp [hmgr])).trans ?_)
    rw [hworkers, State.each, List.foldl_cons, List.foldl_nil]
    simp only [hlinks]
    rfl
  exact ⟨_, hexec, only_of_mask (stairTx_mask (sub_refl 4096) (mask_refl _ s)) (by decide), cmdHost_stairTx hup (by decide) _ _⟩

/-- The delay measured on a link is kept. -/
def delayKept (s : State) (n k : Nat) : State := (s.modSta fun x => { x with delay := Tbl.put x.delay n k }).tick

theorem worker_delayKept (s : State) (n k w : Nat) : (delayKept s n k).worker w = s.worker w := worker_of_workers rfl

theorem stime_heard (hs : Tbl.sorted s.regs = true) (hmgr : isManager s = true) (hframe : StairFrame s n h 0x15) (hat : workerAt s n = w) (tm : STime) :
    ∃ t, exec (.stime n h tm) s = .next t ∧ Only [.regs, .cel, .sta, .free] s t ∧ (t.worker w).idle = tm.idle ∧
      (t.worker w).st = (s.worker w).st ∧ Tbl.has t.sta.delay n = true ∧ ∃ ms, ms < 1000 ∧ (t.worker w).lastSeen = s.pwr.opSec * 1000 + ms := by
  have hlinks := linksStand_taken (h := h) hs hframe.1
  have hat' : workerAt (taken s n h) n = w := (hlinks.workerAt n).trans hat
  have hworker : isWorker (taken s n h) = false := isWorker_of_manager (hlinks.isManager.trans hmgr)
  have hmgr' : isManager (taken s n h) = true := hlinks.isManager.trans hmgr
  have hmask := taken_seen_mask s n h
  have hpwr : (taken s n h).pwr = s.pwr := hlinks.pwr
  have hexec : exec (.stime n h tm) s = _ :=
    congrArg Host.Outcome.next (onStair_taken hs hframe (by decide) (role := fun _ => true) rfl _)
  have hseen := worker_seen hat'
  have hst : ((taken s n h).worker w) = s.worker w := worker_of_sta ((mask_taken s n h).2 .sta (by decide))
  generalize taken s n h = u at hexec hat' hworker hmgr' hmask hpwr hseen hst
  rw [if_neg (by simp [hworker]), if_pos hmgr', hat'] at hexec
  refine ⟨_, hexec, only_of_mask (modWorker_mask (m := 2232321) (by decide) (tick_mask (by decide) (modSta_mask (by decide) hmask))) (by decide), ?_⟩
  have hkept := worker_delayKept (seen u n) n (Config.freeNat u.free) w
  rw [delayKept] at hkept
  rw [worker_modWorker, hkept, hseen, hst, hpwr]
  exact ⟨rfl, rfl, congrArg Option.isSome (Tbl.find_put_same _ _ _), _, Nat.mod_lt _ (by decide), rfl⟩

end Sys2Proof.Machine
end

section
/-!
PROOF. The manager's side of the Stair: events, coordinated activation, and deadlines (R586, R590, R591, R598).
-/
namespace Sys2Proof.Machine

variable {s t u : State} {n w : Nat} {h : FrameHdr} {r : JoinRec} {q : StairReq} {act : StairAct} {c : Ctx}

/-! ## Shares (R576) -/

namespace LinksStand

variable (hl : LinksStand s t)
include hl

theorem weightOf (i : Nat) : weightOf t i = Machine.weightOf s i :=
  hl.reads _ (noErr_far (.inl (by simp only [STA_WEIGHT.WEIGHT, STA_WEIGHT.addr]; omega)))

theorem seqLen : seqLen t = Machine.seqLen s := by simp only [Machine.seqLen, hl.weightOf]

theorem shareSeq : shareSeq t = Machine.shareSeq s := by
  rw [Machine.shareSeq, hl.seqLen, show Machine.weightOf t = Machine.weightOf s from funext hl.weightOf, Machine.shareSeq]

theorem globalExt (k e : Nat) : globalExt t k e = Machine.globalExt s k e := by
  simp only [Machine.globalExt, hl.isManager, hl.seqLen, hl.weightOf, hl.shareSeq]

end LinksStand

/-! ## Losses that a worker reports (R591) -/

theorem deferWait_armWorker (s : State) (w ns first count cause : Nat) :
    (armWorker s w ns first count cause).hall =
      { s.hall with deferWait := s.hall.deferWait ++ [{ nsid := ns, first := first, count := count, cause := cause, worker := w }] } := by
  rw [armWorker, State.modHall_hall, (jAppend_mask (sub_refl 1024) (mask_refl _ s)).2 .hall (by decide)]

theorem lost_loseAt (s : State) (ns a k : Nat) : (ns, a, k) ∈ (loseAt s ns a k).nvm.lost := List.mem_append_right _ List.mem_cons_self

theorem hall_loseAt (s : State) (ns a k : Nat) : (loseAt s ns a k).hall = s.hall := (loseAt_mask (sub_refl 512) (mask_refl _ s)).2 .hall (by decide)

/-- The unit of the namespace that a block of a worker's share stands for, where a unit is one block. -/
abbrev globalBlock (s : State) (w slba : Nat) : Nat := globalExt s w (slba / 256) * 256 + slba % 256

/-- One block that a worker reports lost is armed and shown. -/
def blockLost (s : State) (w ns slba cause : Nat) : State :=
  loseAt (armWorker s w ns (globalBlock s w slba) 1 cause) ns (globalBlock s w slba) 1

section
variable (hs : Tbl.sorted s.regs = true) (hmgr : isManager s = true) (hframe : StairFrame s n h 0x16) (hat : workerAt s n = w)
include hs hmgr hframe hat

theorem exec_sevent_lost {ns : Nat} (hper : perUnit s ns = 1) (slba cause : Nat) :
    exec (.sevent n h (.lost ns slba 1 cause)) s = .next (blockLost (seen (taken s n h) n) w ns slba cause) := by
  have hlinks := linksStand_taken (h := h) hs hframe.1
  have hat' : workerAt (taken s n h) n = w := (hlinks.workerAt n).trans hat
  have hper' : perUnit (seen (taken s n h) n) ns = 1 := by
    rw [perUnit, nspace, (taken_seen_mask s n h).2 .nvm (by decide)]
    exact hper
  show Host.Outcome.next (onStair s n h 0x16 isManager _) = _
  rw [onStair_taken hs hframe (by decide) (hlinks.isManager.trans hmgr)]
  generalize taken s n h = u at hat' hper'
  have hlo : max slba (256 * (slba / 256)) = slba := by omega
  have hhi : min (slba + 1) (256 * (slba / 256 + 1)) - slba = 1 := by omega
  simp only [hat', hper', Nat.div_one, Nat.add_sub_cancel, Nat.sub_self, Nat.zero_add, if_neg Nat.one_ne_zero, List.range_one, List.map_cons, List.map_nil,
    Nat.add_zero, State.each, List.foldl_cons, List.foldl_nil, hlo, hhi]
  rfl

theorem sevent_lost {ns : Nat} (hper : perUnit s ns = 1) (slba cause : Nat) :
    ∃ t, exec (.sevent n h (.lost ns slba 1 cause)) s = .next t ∧
      Only [.regs, .atc, .hall, .nvm, .pan, .ldr, .cel, .seqs, .lnd, .scu, .sta, .free] s t ∧
      (ns, globalExt s w (slba / 256) * 256 + slba % 256, 1) ∈ t.nvm.lost ∧ t.hall.deferWait = s.hall.deferWait ++
        [{ nsid := ns, first := globalExt s w (slba / 256) * 256 + slba % 256, count := 1, cause := cause, worker := w }] := by
  have hexec := exec_sevent_lost hs hmgr hframe hat hper slba cause
  have hhall : (seen (taken s n h) n).hall = s.hall := (taken_seen_mask s n h).2 .hall (by decide)
  have hblock : globalBlock (seen (taken s n h) n) w slba = globalBlock s w slba := by
    rw [globalBlock, ((linksStand_taken hs hframe.1).trans (linksStand_seen _ n)).globalExt]
  generalize seen (taken s n h) n = u at hexec hhall hblock
  refine ⟨_, hexec, only_of_exec hexec, ?_, ?_⟩
  · rw [blockLost, hblock]
    exact lost_loseAt _ _ _ _
  · rw [blockLost, hall_loseAt, deferWait_armWorker, hblock, hhall]

/-! ## A record that changes (R590) -/

/-- A worker's record has changed. -/
def recordTaken (s : State) (w : Nat) (r : JoinRec) : State := s.modWorker w fun x => { x with rec_ := r, image := r.image, dies := r.dies }

theorem exec_sevent_changed : exec (.sevent n h (.changed r)) s = .next
    (if workerActive (recordTaken (seen (taken s n h) n) w r) w && decide (fenceReason (recordTaken (seen (taken s n h) n) w r) w r ≠ 0) then
      fence (recordTaken (seen (taken s n h) n) w r) w (fenceReason (recordTaken (seen (taken s n h) n) w r) w r)
    else actCheck (recordTaken (seen (taken s n h) n) w r)) := by
  have hlinks := linksStand_taken (h := h) hs hframe.1
  have hat' : workerAt (taken s n h) n = w := (hlinks.workerAt n).trans hat
  show Host.Outcome.next (onStair s n h 0x16 isManager _) = _
  rw [onStair_taken hs hframe (by decide) (hlinks.isManager.trans hmgr)]
  generalize taken s n h = u at hat'
  subst hat'
  rfl

omit hs hmgr hframe in
theorem worker_recordTaken (hs : Tbl.sorted s.regs = true) (hn : n < 64) :
    (recordTaken (seen (taken s n h) n) w r).worker w =
      { s.worker w with lastSeen := s.pwr.opSec * 1000 + Config.freeNat s.free % 1000, rec_ := r, image := r.image, dies := r.dies } := by
  have hlinks := linksStand_taken (h := h) hs hn
  have hfree : (taken s n h).free = s.free := (mask_taken s n h).2 .free (by decide)
  rw [recordTaken, worker_modWorker, worker_seen ((hlinks.workerAt n).trans hat), worker_of_sta ((mask_taken s n h).2 .sta (by decide)), hlinks.pwr, hfree]

theorem sevent_changed_fenced (hst : (s.worker w).st = 3) (hact : s.sta.act = none) :
    ∃ t, exec (.sevent n h (.changed r)) s = .next t ∧ Only [.regs, .cel, .sta, .free] s t ∧ (t.worker w).rec_ = r ∧
      (t.worker w).image = r.image ∧ (t.worker w).st = 3 := by
  have hexec := exec_sevent_changed (r := r) hs hmgr hframe hat
  have hworker := worker_recordTaken (h := h) (r := r) hat hs hframe.1
  have hmask : Mask 2232321 s (recordTaken (seen (taken s n h) n) w r) := modWorker_mask (by decide) (taken_seen_mask s n h)
  have honly : WorkersOnly s (recordTaken (seen (taken s n h) n) w r) := (workersOnly_taken_seen s n h).trans (.modWorker _ _ _)
  generalize recordTaken (seen (taken s n h) n) w r = u at hexec hworker hmask honly
  rw [workerActive, hworker, hst, if_neg (by simp), actCheck_of_none (honly.act.trans hact)] at hexec
  exact ⟨_, hexec, only_of_mask hmask (by decide), by rw [hworker], by rw [hworker], by rw [hworker, hst]⟩

theorem sevent_changed_fences (hst : (s.worker w).st = 2) (hreqs : s.sta.reqs = []) (hcell : r.cell ≠ frontCell s 1) :
    ∃ t, exec (.sevent n h (.changed r)) s = .next t ∧ Only [.regs, .atc, .hall, .nvm, .pan, .ldr, .cel, .seqs, .lnd, .scu, .sta, .free] s t ∧
      (t.worker w).st = 3 ∧ (t.worker w).fence = 1 := by
  have hexec := exec_sevent_changed (r := r) hs hmgr hframe hat
  have hworker := worker_recordTaken (h := h) (r := r) hat hs hframe.1
  have hmask : Mask 2232321 s (recordTaken (seen (taken s n h) n) w r) := modWorker_mask (by decide) (taken_seen_mask s n h)
  have honly : WorkersOnly s (recordTaken (seen (taken s n h) n) w r) := (workersOnly_taken_seen s n h).trans (.modWorker _ _ _)
  generalize recordTaken (seen (taken s n h) n) w r = u at hexec hworker hmask honly
  have hwhy : fenceReason u w r = 1 := fenceReason_cell (by rwa [frontCell_of_scu (hmask.2 .scu (by decide))])
  rw [workerActive, hworker, hst, hwhy, if_pos (by decide), fence_of_none (honly.reqs.trans hreqs)] at hexec
  exact ⟨_, hexec, only_of_exec hexec, st_setWorker _ _ _ _, fence_setWorker _ _ _ _⟩

end

/-! ## Coordinated activation (R598) -/

theorem mask_tellWorker (s : State) (w typ : Nat) (x : StairMsg) : Mask 4096 s (tellWorker s w typ x) := by
  unfold tellWorker
  split
  · exact stairTx_mask (sub_refl _) (mask_refl _ s)
  · exact mask_refl _ s

/-- The activation's step 3 begins, with one worker. -/
theorem actGo_one (hworkers : configuredWorkers s = [w]) (a : StairAct) :
    (actGo s a).sta.act = some { a with step := 3, at_ := s.pwr.opSec } ∧ ((actGo s a).worker w).st = 1 := by
  have hlinks : LinksStand s (s.modSta fun x => { x with act := some { a with step := 3, at_ := s.pwr.opSec } }) := linksStand_of_parts rfl rfl rfl
  have heach : actGo s a =
      setWorker (tellWorker (s.modSta fun x => { x with act := some { a with step := 3, at_ := s.pwr.opSec } }) w 0x17 (.act .activate)) w 1 0 := by
    simp only [actGo, actWorkers, hlinks.configuredWorkers, hworkers]
    rfl
  rw [heach]
  refine ⟨?_, st_setWorker _ _ _ _⟩
  rw [(workersOnly_setWorker _ _ _ _).act, (mask_tellWorker _ _ _ _).2 .sta (by decide)]
  rfl

/-- The command of an activation that fails ends with Worker Fenced. -/
theorem actEnd_fails (hact : s.sta.act = some act) (hc : s.ctx act.ingest = some c) (hst : c.st = .running) (hstair : c.stair = none) :
    (actEnd s false).sta.act = none ∧ Ended (actEnd s false) act.ingest c 7 0xC3 0 ∧ Mask 131840 s (actEnd s false) := by
  have hend : actEnd s false = finish (s.modSta fun x => { x with act := none }) act.ingest 7 0xC3 := by
    simp only [actEnd, hact]
    rfl
  have hc' : (s.modSta fun x => { x with act := none }).ctx act.ingest = some c := hc
  have hready : c.st ≠ .ready := by
    rw [hst]
    exact fun h => nomatch h
  have hmask : Mask 131840 s (actEnd s false) := by
    rw [hend]
    exact finish_host_mask hc' hready hstair 7 0xC3 0 (by decide) (modSta_mask (by decide) (mask_refl _ s))
  have hsta : (finish (s.modSta fun x => { x with act := none }) act.ingest 7 0xC3).sta = (s.modSta fun x => { x with act := none }).sta :=
    (finish_host_mask hc' hready hstair 7 0xC3 0 (sub_refl 768) (mask_refl _ _)).2 .sta (by decide)
  refine ⟨?_, ?_, hmask⟩
  · rw [hend, hsta]
    rfl
  · rw [hend]
    exact ended_finish hc' hready hstair 7 0xC3 0

section
variable (hs : Tbl.sorted s.regs = true) (hmgr : isManager s = true) (hframe : StairFrame s n h 0x17) (hat : workerAt s n = w)
  (hact : s.sta.act = some act) (hstep : act.step = 1)
include hs hmgr hframe hat hact hstep

theorem sact_goes (hworkers : configuredWorkers s = [w]) :
    ∃ t, exec (.sact n h (.written true)) s = .next t ∧
      Only [.regs, .atc, .clo, .hall, .nvm, .pan, .ldr, .cel, .seqs, .lnd, .scu, .sta, .free] s t ∧
      t.sta.act = some { act with step := 3, written := if act.written.contains w then act.written else w :: act.written, at_ := s.pwr.opSec } ∧
      (t.worker w).st = 1 := by
  have hlinks := linksStand_taken (h := h) hs hframe.1
  have hlinks' := hlinks.trans (linksStand_seen _ n)
  have hat' : workerAt (taken s n h) n = w := (hlinks.workerAt n).trans hat
  have hworker : ¬ isWorker (taken s n h) = true := by simp [isWorker_of_manager (hlinks.isManager.trans hmgr)]
  have hmgr' : isManager (taken s n h) = true := hlinks.isManager.trans hmgr
  have hact' : (seen (taken s n h) n).sta.act = some act := (workersOnly_taken_seen s n h).act.trans hact
  have hworkers' : configuredWorkers (seen (taken s n h) n) = [w] := hlinks'.configuredWorkers.trans hworkers
  have hpwr : (seen (taken s n h) n).pwr = s.pwr := hlinks'.pwr
  have hexec : exec (.sact n h (.written true)) s = _ :=
    congrArg Host.Outcome.next (onStair_taken hs hframe (by decide) (role := fun _ => true) rfl _)
  generalize taken s n h = u at hexec hat' hworker hmgr' hact' hworkers' hpwr
  have hin : (actWorkers (seen u n)).all (fun k => (if act.written.contains w then act.written else w :: act.written).contains k) = true := by
    rw [actWorkers, hworkers']
    split
    · next hin => simpa using hin
    · simp
  simp only [if_neg hworker, if_pos hmgr', hact', hstep, hat', hin] at hexec
  obtain ⟨hact3, hst⟩ := actGo_one hworkers' { act with written := if act.written.contains w then act.written else w :: act.written }
  rw [hpwr] at hact3
  generalize seen u n = v at hexec hact3 hst
  exact ⟨_, hexec, only_of_exec hexec, hact3, hst⟩

omit hat in
theorem sact_fails (hc : s.ctx act.ingest = some c) (hst : c.st = .running) (hstair : c.stair = none) :
    ∃ t, exec (.sact n h (.written false)) s = .next t ∧
      Only [.regs, .atc, .clo, .hall, .nvm, .pan, .ldr, .cel, .seqs, .lnd, .scu, .sta, .free] s t ∧ t.sta.act = none ∧ Ended t act.ingest c 7 0xC3 0 := by
  have hlinks := linksStand_taken (h := h) hs hframe.1
  have hworker : ¬ isWorker (taken s n h) = true := by simp [isWorker_of_manager (hlinks.isManager.trans hmgr)]
  have hmgr' : isManager (taken s n h) = true := hlinks.isManager.trans hmgr
  have hact' : (seen (taken s n h) n).sta.act = some act := (workersOnly_taken_seen s n h).act.trans hact
  have hc' : (seen (taken s n h) n).ctx act.ingest = some c := (ctx_of_mask (taken_seen_mask s n h) (by decide)).trans hc
  have hexec : exec (.sact n h (.written false)) s = _ :=
    congrArg Host.Outcome.next (onStair_taken hs hframe (by decide) (role := fun _ => true) rfl _)
  generalize taken s n h = u at hexec hworker hmgr' hact' hc'
  simp only [if_neg hworker, if_pos hmgr', hact', hstep] at hexec
  generalize seen u n = v at hexec hact' hc'
  obtain ⟨hover, hended, -⟩ := actEnd_fails hact' hc' hst hstair
  exact ⟨_, hexec, only_of_exec hexec, hover, hended⟩

end

theorem activationRollbackExpiry_ends (hact : s.sta.act = some act) (hstep : act.step = 3) (hdue : act.at_ + 60 ≤ s.pwr.opSec)
    (hworkers : configuredWorkers s = [w]) (hjoining : (s.worker w).st = 1) (hc : s.ctx act.ingest = some c) (hst : c.st = .running)
    (hstair : c.stair = none) :
    ∃ t, exec .activationRollbackExpiry s = .next t ∧ Only [.hall, .nvm, .sta] s t ∧ t.sta.act = none ∧ Ended t act.ingest c 7 0xC3 0 := by
  have hnone : (actWorkers s).filter (workerActive s) = [] := by
    rw [actWorkers, hworkers]
    simp [workerActive, hjoining]
  have hexec : exec .activationRollbackExpiry s = .next (actEnd s false) := by
    show Host.Outcome.next _ = _
    simp only [hact, hstep, hdue, hnone, each_nil]
    rfl
  obtain ⟨hover, hended, hmask⟩ := actEnd_fails hact hc hst hstair
  exact ⟨_, hexec, only_of_mask hmask (by decide), hover, hended⟩

end Sys2Proof.Machine
end

section
/-!
PROOF. The manager's side of the Stair: the loss of a worker, the deadlines, and Stair Control (R164, R586, R590 to R592, R598).
-/
namespace Sys2Proof.Machine

variable {s t u : State} {n w cn : Nat} {q : StairReq} {e : Unsettled} {c : Ctx} {act : StairAct}

/-! ## Unsettled writes (R591) -/

/-- The unsettled writes of a worker have been armed. -/
def writesArmed (s : State) (w : Nat) : State :=
  (s.modSta fun x => { x with unsettled := x.unsettled.filter fun u => u.w != w }).each (s.sta.unsettled.filter fun u => u.w == w) fun s u =>
    armWorker s w u.nsid u.first u.count 5

/-- They have been armed, and no command waits for them. -/
def unsettledArmed (s : State) (w : Nat) : State :=
  (writesArmed s w).modHall fun h => { h with
    ctxs := Tbl.mapV h.ctxs fun _ c => { c with wunits := c.wunits.map fun u => if u.share = w then { u with unsettled := false } else u }
    tails := Tbl.mapV h.tails fun _ t => { t with units := t.units.map fun u => if u.share = w then { u with unsettled := false } else u } }

theorem armUnsettled_eq (s : State) (w : Nat) : armUnsettled s w = settleCheck (unsettledArmed s w) := rfl

theorem mask_unsettledArmed (s : State) (w : Nat) : Mask 132352 s (unsettledArmed s w) :=
  modHall_mask (by decide) (each_mask (modSta_mask (by decide) (mask_refl _ s)) fun _ _ hk => armWorker_mask (by decide) hk)

theorem ctxs_armWorker (s : State) (w ns first count cause : Nat) : (armWorker s w ns first count cause).hall.ctxs = s.hall.ctxs := by
  rw [deferWait_armWorker]

theorem tails_armWorker (s : State) (w ns first count cause : Nat) : (armWorker s w ns first count cause).hall.tails = s.hall.tails := by
  rw [deferWait_armWorker]

theorem sta_armWorker (s : State) (w ns first count cause : Nat) : (armWorker s w ns first count cause).sta = s.sta :=
  (armWorker_mask (sub_refl 1280) (mask_refl _ s)).2 .sta (by decide)

theorem ctxs_writesArmed (s : State) (w : Nat) : (writesArmed s w).hall.ctxs = s.hall.ctxs :=
  each_keeps_eq (fun s : State => s.hall.ctxs) (fun s (u : Unsettled) => ctxs_armWorker s w u.nsid u.first u.count 5) _ _

theorem tails_writesArmed (s : State) (w : Nat) : (writesArmed s w).hall.tails = s.hall.tails :=
  each_keeps_eq (fun s : State => s.hall.tails) (fun s (u : Unsettled) => tails_armWorker s w u.nsid u.first u.count 5) _ _

theorem sta_writesArmed (s : State) (w : Nat) :
    (writesArmed s w).sta = { s.sta with unsettled := s.sta.unsettled.filter fun u => u.w != w } :=
  each_keeps_eq State.sta (fun s (u : Unsettled) => sta_armWorker s w u.nsid u.first u.count 5) _ _

theorem sta_unsettledArmed (s : State) (w : Nat) :
    (unsettledArmed s w).sta = { s.sta with unsettled := s.sta.unsettled.filter fun u => u.w != w } := by
  rw [unsettledArmed, State.modHall_sta, sta_writesArmed]

/-- With no command under way the unsettled writes of a worker are armed, and nothing else follows. -/
theorem sta_armUnsettled (hctxs : s.hall.ctxs = []) (htails : s.hall.tails = []) (hformat : ∀ e ∈ s.nvm.spaces, e.2.formatting = none) (w : Nat) :
    Mask 3072 (unsettledArmed s w) (armUnsettled s w) := by
  have hctxs' : (unsettledArmed s w).hall.ctxs = [] := by
    rw [unsettledArmed, State.modHall_hall, ctxs_writesArmed, hctxs]
    rfl
  have htails' : (unsettledArmed s w).hall.tails = [] := by
    rw [unsettledArmed, State.modHall_hall, tails_writesArmed, htails]
    rfl
  rw [armUnsettled_eq]
  exact settleCheck_idle_mask hctxs' htails' (by rwa [(mask_unsettledArmed s w).2 .nvm (by decide)])

theorem deferWait_unsettledArmed (hlist : s.sta.unsettled = [e]) (hw : e.w = w) :
    (unsettledArmed s w).hall.deferWait = s.hall.deferWait ++ [{ nsid := e.nsid, first := e.first, count := e.count, cause := 5, worker := w }] := by
  have hfilter : s.sta.unsettled.filter (fun u => u.w == w) = [e] := by rw [hlist]; simp [hw]
  rw [unsettledArmed, State.modHall_hall, writesArmed, hfilter, State.each, List.foldl_cons, List.foldl_nil, deferWait_armWorker]
  rfl

theorem fenceUnsettledExpiry_arms (hctxs : s.hall.ctxs = []) (htails : s.hall.tails = []) (hformat : ∀ e ∈ s.nvm.spaces, e.2.formatting = none)
    (hst : (s.worker w).st = 3) (hdue : (s.worker w).fencedAt + 10 ≤ s.pwr.opSec) (hlist : s.sta.unsettled = [e]) (hw : e.w = w) :
    ∃ t, exec (.fenceUnsettledExpiry w) s = .next t ∧ Only [.regs, .atc, .hall, .nvm, .pan, .ldr, .cel, .sta] s t ∧ t.sta.unsettled = [] ∧
      t.hall.deferWait = s.hall.deferWait ++ [{ nsid := e.nsid, first := e.first, count := e.count, cause := 5, worker := w }] := by
  have hexec : exec (.fenceUnsettledExpiry w) s = .next (armUnsettled s w) := congrArg Host.Outcome.next (if_pos (by simp [hst, hdue]))
  have hmask := sta_armUnsettled hctxs htails hformat w
  refine ⟨_, hexec, only_of_exec hexec, ?_, ?_⟩
  · rw [hmask.2 .sta (by decide), sta_unsettledArmed, hlist]
    simp [hw]
  · rw [hmask.2 .hall (by decide), deferWait_unsettledArmed hlist hw]

/-! ## The loss of a worker (R590) -/

/-- A worker is lost: none of its links is joined. -/
def lostWorker (s : State) (w : Nat) : State := (setWorker s w 4 0).modWorker w fun x => { x with joined := [], links := [], hold := false }

theorem workerLost_of_none (hreqs : s.sta.reqs = []) (w : Nat) : workerLost s w = armUnsettled (lostWorker s w) w := by
  have hreqs' : (lostWorker s w).sta.reqs = [] := (workersOnly_setWorker s w 4 0).reqs.trans hreqs
  have hfilter : (lostWorker s w).sta.reqs.filter (fun r => r.w == w) = [] := by rw [hreqs']; rfl
  rw [workerLost]
  change armUnsettled (State.each (lostWorker s w) ((lostWorker s w).sta.reqs.filter fun r => r.w == w) _) w = _
  rw [hfilter, each_nil]

theorem stimeLossExpiry_loses (hmgr : isManager s = true) (hquiet : Quiet s) (hst0 : s.pwr.st = .ps0) (hst : (s.worker w).st = 2) :
    ∃ t, exec (.stimeLossExpiry w) s = .next t ∧ Only [.regs, .atc, .hall, .nvm, .pan, .ldr, .cel, .sta] s t ∧ (t.worker w).st = 4 ∧
      (t.worker w).joined = [] ∧ (t.worker w).links = [] := by
  obtain ⟨hctxs, htails, -, -, hreqs, -, hformat⟩ := hquiet
  have hexec : exec (.stimeLossExpiry w) s = .next (armUnsettled (lostWorker s w) w) := by
    rw [← workerLost_of_none hreqs]
    show (if _ then _ else if _ then _ else if _ then _ else _) = _
    rw [if_neg (by simp [hst0]), if_neg (by simp [isWorker_of_manager hmgr]), if_pos (by simp [hmgr, hst])]
  have hmask : Mask 131080 s (lostWorker s w) := modWorker_mask (by decide) (mask_setWorker s w 4 0)
  have hworker : (lostWorker s w).worker w = { (setWorker s w 4 0).worker w with joined := [], links := [], hold := false } := worker_modWorker _ _ _
  generalize lostWorker s w = u at hexec hmask hworker
  have hhall : u.hall = s.hall := hmask.2 .hall (by decide)
  have hsettle := sta_armUnsettled (s := u) (by rw [hhall, hctxs]) (by rw [hhall, htails]) (by rwa [hmask.2 .nvm (by decide)]) w
  have hlost : (armUnsettled u w).worker w = u.worker w :=
    (worker_of_sta (hsettle.2 .sta (by decide))).trans (worker_of_workers (by rw [sta_unsettledArmed]))
  exact ⟨_, hexec, only_of_exec hexec, by rw [hlost, hworker]; exact st_setWorker _ _ _ _, by rw [hlost, hworker], by rw [hlost, hworker]⟩

/-! ## Requests not resent in time (R586) -/

theorem stairResendDeadline_quiet (hquiet : Quiet s) (w : Nat) : ∃ t, exec (.stairResendDeadline w) s = .next t ∧ Only [.ldr] s t := by
  obtain ⟨hctxs, htails, -, hdeps, hreqs, -, hformat⟩ := hquiet
  have hexec : exec (.stairResendDeadline w) s = .next (dropSettled s) := by
    show Host.Outcome.next (settleCheck (s.each (s.sta.reqs.filter _) _)) = _
    rw [hreqs, List.filter_nil, each_nil, settleCheck_idle hctxs htails hformat, pruneDeps_of_none hdeps]
  exact ⟨_, hexec, only_of_mask (modLdr_mask (sub_refl 2048) (mask_refl _ s)) (by decide)⟩

/-- A write that no command of the manager holds any more ends with its request. -/
theorem endReq_write (hreqs : s.sta.reqs = [q]) (hkind : q.req.kind = 2) (hctxs : s.hall.ctxs = []) (sct sc : Nat) :
    endReq s q sct sc = s.modSta fun x => { x with reqs := [] } := by
  have herase : (s.modSta fun x => { x with reqs := x.reqs.erase q }) = s.modSta fun x => { x with reqs := [] } :=
    modSta_congr (by rw [hreqs, List.erase_cons_head])
  have hctx : (s.modSta fun x => { x with reqs := [] }).ctx q.req.ingest = none := by
    show Tbl.find s.hall.ctxs _ = none
    rw [hctxs]
    rfl
  simp only [endReq, herase, hkind, hctx]

theorem stairResendDeadline_arms (hctxs : s.hall.ctxs = []) (htails : s.hall.tails = []) (hformat : ∀ e ∈ s.nvm.spaces, e.2.formatting = none)
    (hreqs : s.sta.reqs = [q]) (hw : q.w = w) (hlost : q.lost = true) (hdue : q.lostAt + 5 ≤ s.pwr.opSec) (hkind : q.req.kind = 2) (hunits : q.units ≠ []) :
    ∃ t, exec (.stairResendDeadline w) s = .next t ∧ Only [.regs, .atc, .hall, .nvm, .pan, .ldr, .cel, .sta] s t ∧ t.sta.reqs = [] ∧
      t.hall.deferWait = s.hall.deferWait ++
        [{ nsid := q.req.nsid, first := (q.units.head?).getD 0, count := q.units.length, cause := 5, worker := w }] := by
  have hcount : max 1 q.units.length = q.units.length := by
    have := List.length_pos_iff.2 hunits
    omega
  have hfilter : s.sta.reqs.filter (fun r => r.w == w && r.lost && decide (r.lostAt + 5 ≤ s.pwr.opSec) && decide (2 ≤ r.req.kind ∧ r.req.kind ≤ 5)) = [q] := by
    rw [hreqs]
    simp [hw, hlost, hdue, hkind]
  have hend := endReq_write (s := armWorker s w q.req.nsid ((q.units.head?).getD 0) q.units.length 5) (by rw [sta_armWorker, hreqs]) hkind
    (by rw [ctxs_armWorker, hctxs]) 7 0xC0
  have hexec : exec (.stairResendDeadline w) s =
      .next (settleCheck ((armWorker s w q.req.nsid ((q.units.head?).getD 0) q.units.length 5).modSta fun x => { x with reqs := [] })) := by
    rw [← hend]
    show Host.Outcome.next (settleCheck (s.each (s.sta.reqs.filter _) _)) = _
    rw [hfilter, State.each, List.foldl_cons, List.foldl_nil, hcount]
  have harm : Mask 1280 s (armWorker s w q.req.nsid ((q.units.head?).getD 0) q.units.length 5) := armWorker_mask (sub_refl _) (mask_refl _ s)
  have hsettle := settleCheck_idle_mask (s := (armWorker s w q.req.nsid ((q.units.head?).getD 0) q.units.length 5).modSta fun x => { x with reqs := [] })
    (by rw [State.modSta_hall, ctxs_armWorker, hctxs]) (by rw [State.modSta_hall, tails_armWorker, htails])
    (by rwa [State.modSta_nvm, harm.2 .nvm (by decide)])
  refine ⟨_, hexec, only_of_exec hexec, by rw [hsettle.2 .sta (by decide)]; rfl, ?_⟩
  rw [hsettle.2 .hall (by decide), State.modSta_hall, deferWait_armWorker]

/-! ## Stair Control (R164, R592) -/

section
variable (hfresh : Fresh s cn c) (hturns : supTurns s = true) (hgo : adminGo s cn = true) (hmgr : isManager s = true)
include hfresh hturns hgo hmgr

theorem controlRow_runs {a : Nat} (hcmd : c.cmd = .stairControl a w) (hconf : configured s w = true) (f : Nat → State) :
    controlRow s cn a f = f w := by
  rw [controlRow, bySup_of_fresh hfresh hturns hgo, hcmd]
  simp [hmgr, hconf]

theorem controlRow_refuses {a : Nat} (hcmd : c.cmd = .stairControl a w) (hconf : configured s w = false) (f : Nat → State) :
    controlRow s cn a f = finish s cn 0 2 := by
  rw [controlRow, bySup_of_fresh hfresh hturns hgo, hcmd]
  simp [hmgr, hconf]

omit hturns hgo hmgr in
/-- A Stair Control command ends after a change of a worker's state. -/
theorem setWorker_ends (st why sct sc : Nat) :
    ((finish (setWorker s w st why) cn sct sc).worker w) = (setWorker s w st why).worker w ∧
      Ended (finish (setWorker s w st why) cn sct sc) cn c sct sc 0 := by
  have hc : (setWorker s w st why).ctx cn = some c := (ctx_of_mask (mask_setWorker s w st why) (by decide)).trans hfresh.1
  have hready := hfresh.not_ready
  obtain ⟨-, -, -, hstair⟩ := hfresh
  exact ⟨worker_of_sta ((finish_host_mask hc hready hstair sct sc 0 (sub_refl 768) (mask_refl _ _)).2 .sta (by decide)),
    ended_finish hc hready hstair sct sc 0⟩

theorem stairControlFence_fences (hcmd : c.cmd = .stairControl 1 w) (hconf : configured s w = true) (hst : (s.worker w).st = 2)
    (hreqs : s.sta.reqs = []) :
    ∃ t, exec (.stairControlFence cn) s = .next t ∧ Only [.regs, .atc, .hall, .nvm, .pan, .ldr, .cel, .sta] s t ∧ (t.worker w).st = 3 ∧
      (t.worker w).fence = 7 ∧ (t.worker w).fencedAt = s.pwr.opSec ∧ Ended t cn c 0 0 0 := by
  have hexec : exec (.stairControlFence cn) s = .next (finish (setWorker s w 3 7) cn 0 0) := by
    refine congrArg Host.Outcome.next ((controlRow_runs hfresh hturns hgo hmgr hcmd hconf _).trans ?_)
    rw [if_pos (by simp [workerActive, hst]), fence_of_none hreqs, finishOk]
  have hworker := setWorker_changes (s := s) (w := w) (st := 3) (why := 7) (by rw [hst]; rintro ⟨h, -⟩; cases h)
  obtain ⟨hstays, hended⟩ := setWorker_ends hfresh (w := w) 3 7 0 0
  exact ⟨_, hexec, only_of_exec hexec, by rw [hstays, hworker], by rw [hstays, hworker], by rw [hstays, hworker, if_pos rfl], hended⟩

/-- A fenced worker whose record still differs stays fenced, for the reason found. -/
theorem stairControlReadmit_refuses (hcmd : c.cmd = .stairControl 2 w) (hconf : configured s w = true) (hst : (s.worker w).st = 3)
    (hjoined : (s.worker w).joined ≠ []) (hcell : (s.worker w).rec_.cell ≠ frontCell s 1) (hwhy : (s.worker w).fence = 7) :
    ∃ t, exec (.stairControlReadmit cn) s = .next t ∧ Only [.regs, .atc, .hall, .nvm, .pan, .ldr, .cel, .sta, .free] s t ∧ (t.worker w).st = 3 ∧
      (t.worker w).fence = 1 ∧ Ended t cn c 7 0xC3 0 := by
  have hexec : exec (.stairControlReadmit cn) s = .next (finish (setWorker s w 3 1) cn 7 0xC3) := by
    refine congrArg Host.Outcome.next ((controlRow_runs hfresh hturns hgo hmgr hcmd hconf _).trans ?_)
    simp only [hst, fenceReason_cell hcell, hwhy]
    simp [hjoined]
  obtain ⟨hstays, hended⟩ := setWorker_ends hfresh (w := w) 3 1 7 0xC3
  exact ⟨_, hexec, only_of_exec hexec, by rw [hstays, st_setWorker], by rw [hstays, fence_setWorker], hended⟩

theorem stairControlReadmit_active (hcmd : c.cmd = .stairControl 2 w) (hconf : configured s w = true) (hst : (s.worker w).st = 2) :
    exec (.stairControlReadmit cn) s = .next (finish s cn 0 0) :=
  congrArg Host.Outcome.next ((controlRow_runs hfresh hturns hgo hmgr hcmd hconf _).trans (if_pos hst))

theorem stairControlReadmit_lost (hcmd : c.cmd = .stairControl 2 w) (hconf : configured s w = true) (hst : (s.worker w).st = 4) :
    exec (.stairControlReadmit cn) s = .next (finish s cn 7 0xC3) := by
  refine congrArg Host.Outcome.next ((controlRow_runs hfresh hturns hgo hmgr hcmd hconf _).trans ?_)
  simp [hst]

theorem stairControlActivate_busy (hcmd : c.cmd = .stairControl 3 w) (hconf : configured s w = true) (hact : s.sta.act = some act) :
    exec (.stairControlActivate cn) s = .next (finish s cn 0 0x0C) :=
  congrArg Host.Outcome.next ((controlRow_runs hfresh hturns hgo hmgr hcmd hconf _).trans (if_pos (by simp [hact])))

/-- An activation has begun: its command runs. -/
def activationBegun (s : State) (cn : Nat) : State :=
  (s.modCtx cn fun c => { c with st := .running }).modSta fun x => { x with act := some { ingest := cn } }

theorem stairControlActivate_begins (hcmd : c.cmd = .stairControl 3 w) (hconf : configured s w = true) (hact : s.sta.act = none)
    (hworkers : configuredWorkers s = [w]) (hst : (s.worker w).st = 2) (hver : (s.worker w).ver = 0x20) :
    ∃ t, exec (.stairControlActivate cn) s = .next t ∧ Only [.hall, .cel, .sta] s t ∧ t.sta.act = some { ingest := cn } ∧
      t.ctx cn = some { c with st := .running } := by
  have hbegun : LinksStand s (activationBegun s cn) := linksStand_of_parts rfl rfl rfl
  have hmask : Mask 131328 s (activationBegun s cn) := modSta_mask (by decide) (modCtx_mask (by decide) (mask_refl _ s))
  have hc : (activationBegun s cn).ctx cn = some { c with st := .running } := ctx_modCtx_same hfresh.1 _
  have hact' : (activationBegun s cn).sta.act = some { ingest := cn } := rfl
  have hrow : stairActivateRow s cn = tellWorker (activationBegun s cn) w 0x17
      (.act (.leaves (runningImage (activationBegun s cn)).version (slotLeaves (activationBegun s cn) (activationBegun s cn).clo.running))) := by
    have htell (x : StairMsg) : LinksStand s (tellWorker (activationBegun s cn) w 0x17 x) := by
      refine hbegun.trans ?_
      unfold tellWorker
      split
      · next n l hl =>
        rw [stairTx_up (stairUp_of_linksOf (hl ▸ List.mem_cons_self)) (by decide)]
        exact linksStand_modPort fun _ => rfl
      · exact .refl _
    have hactive : workerActive s w = true := by rw [workerActive, hst]; rfl
    rw [stairActivateRow, if_neg (by simp [hact]), hworkers, if_neg (by simp [hactive]), if_neg (by simp [hver])]
    change (let u := (activationBegun s cn).each (actWorkers (activationBegun s cn)) fun s w =>
        tellWorker s w 0x17 (.act (.leaves (runningImage s).version (slotLeaves s s.clo.running)))
      if (actWorkers u).isEmpty then actEnd u true else u) = _
    rw [show actWorkers (activationBegun s cn) = [w] from hbegun.configuredWorkers.trans hworkers, State.each, List.foldl_cons, List.foldl_nil]
    refine if_neg ?_
    rw [show actWorkers _ = [w] from (htell _).configuredWorkers.trans hworkers]
    exact Bool.false_ne_true
  have hexec : exec (.stairControlActivate cn) s = .next (stairActivateRow s cn) :=
    congrArg Host.Outcome.next (controlRow_runs hfresh hturns hgo hmgr hcmd hconf _)
  rw [hrow] at hexec
  generalize activationBegun s cn = u at hexec hmask hc hact'
  have htold := mask_tellWorker u w 0x17 (.act (.leaves (runningImage u).version (slotLeaves u u.clo.running)))
  refine ⟨_, hexec, only_of_mask (mask_trans (m := 135424) (mask_mono (by decide) hmask) (mask_mono (by decide) htold)) (by decide), ?_,
    (ctx_of_mask htold (by decide)).trans hc⟩
  rw [htold.2 .sta (by decide), hact']

end

end Sys2Proof.Machine
end

section
/-!
PROOF. The manager's side of the Stair: the statement.
-/
namespace Sys2Proof.Machine

/-- A command that ends with a status, of which its own entry alone is told. -/
theorem entry_ends {s : State} {n : Nat} {c : Ctx} {i : Instr} (hfresh : Fresh s n c) {sct sc : Nat} (hexec : exec i s = .next (finish s n sct sc)) :
    ∃ t, exec i s = .next t ∧ Only [.hall, .nvm] s t ∧ Ended t n c sct sc 0 := by
  obtain ⟨t, ht, honly, -, hended⟩ := ends_with hfresh hexec
  exact ⟨t, ht, honly, hended⟩

/-- Settles O54: each answer finds its request at the front, and with no other request made a worker's change of state ends nothing. -/
theorem stairManager : Obligations.StairManager := by
  unfold Obligations.StairManager
  intro s n w ns slba cause cn h r q q2 d tm rest u u2 act c hinv hmgr
  have hs := regs_sorted hinv
  refine ⟨fun hfrom hframe => ⟨fun hver => ?_, fun hver hnone hst => ?_, fun hver hnone hst => ?_⟩,
    fun hconf hst hports hen => sjoinRetryExpiry_sends hconf hst hports hen, fun hst => ?_,
    fun hfrom hframe hphase hing hsub hw hsent => ⟨fun hreqs hkind hsct hsc => ?_, fun hreqs hw2 hing2 _ hext hsent2 hkind hunits hne hsct hsc => ?_⟩,
    fun hfrom hframe hreqs hphase => ?_, fun hfrom hframe hphase hlist hw hing hsub hw2 hing2 hsub2 => ?_, fun hworkers hlinks => ?_,
    fun hfrom hframe => ?_, fun hfrom hframe => ⟨fun hper => ?_, fun hst hnone => ?_, fun hst hnone hcell => ?_⟩,
    fun hfrom hframe hact hstep hworkers => ⟨?_, fun hc hst hstair => ?_⟩, fun hact hstep hdue hworkers hst hc hrun hstair => ?_, fun hact => ?_,
    fun hquiet _ => ⟨fun hps hst => ?_, ?_⟩, fun hctxs htails _ _ hformat => ⟨fun hreqs hw hlost hdue hkind hunits hne => ?_, fun hst hdue hlist hw => ?_⟩,
    fun hst => ?_, fun hfresh hturns hgo => ⟨fun hcmd hconf hst hnone => ?_, fun hcmd hconf => ?_, fun hcmd hconf => ⟨fun hst => ?_, fun hst => ?_,
      fun hst hjoined hnone hcell hwhy => ?_⟩, fun hcmd hconf => ⟨fun hact => ?_, fun hact hworkers hst hver => ?_⟩⟩⟩
  · exact ⟨_, exec_sjoinRsp_old hs hmgr hframe hver, only_of_mask (mask_taken s n h) (by decide)⟩
  · obtain ⟨-, hat, hconf⟩ := hfrom
    obtain ⟨hreqs, hact⟩ := hnone
    obtain ⟨t, hexec, honly, hanswered, hjoins, hcell⟩ := sjoinRsp_joins hs hmgr hframe hat hconf hver hreqs hact hst
    exact ⟨t, hexec, honly, hanswered.ver, hanswered.image, hanswered.rec_, hanswered.joined, hjoins, hcell⟩
  · obtain ⟨-, hat, hconf⟩ := hfrom
    obtain ⟨hreqs, hact⟩ := hnone
    exact sjoinRsp_fenced hs hmgr hframe hat hconf hver hreqs hact hst
  · exact congrArg Host.Outcome.next (if_neg (by simp [hst]))
  · exact sdoneCommitted_read hs hmgr hframe hfrom.2.1 hphase hing hsub hw hreqs hkind hsct hsc
  · subst hunits
    have hsent : q2.sent ≠ [] := by simp [hsent2]
    obtain ⟨t, hexec, honly, hreqs', hctxs, hlist⟩ :=
      sdoneCommitted_piece hs hmgr hframe hfrom.2.1 hphase hing hsub hw hreqs hw2 hing2 hext hsent hkind hne hsct hsc
    exact ⟨t, hexec, honly, hreqs', hctxs, by rw [hlist, unsettledOf, hw, hing, hsub]⟩
  · exact ⟨_, exec_sdoneCommitted_none hs hmgr hframe hphase hreqs, only_of_mask (taken_seen_mask s n h) (by decide),
      (workersOnly_taken_seen s n h).unsettled⟩
  · exact sdoneSettled_leaves hs hmgr hframe hfrom.2.1 hphase hlist hw hing hsub hw2 hing2 hsub2
  · obtain ⟨t, hexec, honly, hcmd⟩ := stimeSend_sends hmgr hworkers hlinks
    exact ⟨t, managerTime s n, hexec, honly, rfl, rfl, hcmd⟩
  · exact stime_heard hs hmgr hframe hfrom.2.1 tm
  · exact sevent_lost hs hmgr hframe hfrom.2.1 hper slba cause
  · exact sevent_changed_fenced hs hmgr hframe hfrom.2.1 hst hnone.2
  · exact sevent_changed_fences hs hmgr hframe hfrom.2.1 hst hnone.1 hcell
  · exact sact_goes hs hmgr hframe hfrom.2.1 hact hstep hworkers
  · exact sact_fails hs hmgr hframe hact hstep hc hst hstair
  · exact activationRollbackExpiry_ends hact hstep hdue hworkers hst hc hrun hstair
  · show Host.Outcome.next _ = _
    rw [hact]
  · exact stimeLossExpiry_loses hmgr hquiet hps hst
  · exact stairResendDeadline_quiet hquiet w
  · subst hunits
    exact stairResendDeadline_arms hctxs htails hformat hreqs hw hlost hdue hkind hne
  · exact fenceUnsettledExpiry_arms hctxs htails hformat hst hdue hlist hw
  · exact congrArg Host.Outcome.next (if_neg (by simp [hst]))
  · exact stairControlFence_fences hfresh hturns hgo hmgr hcmd hconf hst hnone.1
  · exact entry_ends hfresh (congrArg Host.Outcome.next (controlRow_refuses hfresh hturns hgo hmgr hcmd hconf _))
  · exact entry_ends hfresh (stairControlReadmit_active hfresh hturns hgo hmgr hcmd hconf hst)
  · exact entry_ends hfresh (stairControlReadmit_lost hfresh hturns hgo hmgr hcmd hconf hst)
  · exact stairControlReadmit_refuses hfresh hturns hgo hmgr hcmd hconf hst hjoined hcell hwhy
  · exact entry_ends hfresh (stairControlActivate_busy hfresh hturns hgo hmgr hcmd hconf hact)
  · exact stairControlActivate_begins hfresh hturns hgo hmgr hcmd hconf hact hworkers hst hver

end Sys2Proof.Machine
end

section
/-!
PROOF. Download, commit and activation of an image (R123, R124, R150, R151, R495 to R498).
-/
namespace Sys2Proof.Machine

variable {s t u : State} {n a slot k : Nat} {b : Bool} {r : BootRec} {c : Ctx}

/-! ## Download (R150) -/

theorem firmwareImageDownload_begins (hfresh : Fresh s n c) (hturns : supTurns s = true) (hgo : adminGo s n = true) {len : Nat} {leaves : List Nat}
    (hcmd : c.cmd = .fwDownload 0 len leaves) (hlen : len = 65536 * leaves.length) (hle : len ≤ 12582912) :
    ∃ t, exec (.firmwareImageDownload n) s = .next t ∧ Only [.hall, .nvm] s t ∧ OthersStand s t n ∧ Ended t n c 0 0 0 ∧
      t.nvm = { s.nvm with fwBuf := leaves, fwLen := len } := by
  have hready := hfresh.not_ready
  obtain ⟨hc, hst, -, hstair⟩ := hfresh
  have hmod : len % 65536 = 0 := by omega
  have hexec : exec (.firmwareImageDownload n) s = .next (finish (s.modNvm fun x => { x with fwBuf := leaves, fwLen := len }) n 0 0) := by
    show execFirmwareImageDownload n s = _
    simp [execFirmwareImageDownload, hc, hcmd, hst, hturns, hgo, ← hlen, hmod, Nat.not_lt.2 hle, finishOk]
  have hc' : (s.modNvm fun x => { x with fwBuf := leaves, fwLen := len }).ctx n = some c := hc
  have hothers := othersStand_finish hc' hready hstair 0 0 0
  have hended := ended_finish hc' hready hstair 0 0 0
  rw [finish_zero hc' hready hstair] at hexec hothers hended
  exact ⟨_, hexec, only_of_mask (modCtx_mask (m := 768) (by decide) (modNvm_mask (by decide) (mask_refl _ s))) (by decide),
    hothers, hended, rfl⟩

theorem firmwareImageDownload_overlaps (hfresh : Fresh s n c) (hturns : supTurns s = true) (hgo : adminGo s n = true) {off : Nat}
    (hcmd : c.cmd = .fwDownload (65536 * off) 65536 [k]) (hpos : 0 < off) (hheld : 65536 * off < s.nvm.fwLen) (hlt : off < 192) :
    exec (.firmwareImageDownload n) s = .next (finish s n 1 0x14) := by
  obtain ⟨hc, hst, -, -⟩ := hfresh
  have hmod : 65536 * off % 65536 = 0 := by omega
  have hnot : ¬ s.nvm.fwLen < 65536 * off := by omega
  have hfits : ¬ 12582912 < 65536 * off + 65536 := by omega
  show execFirmwareImageDownload n s = _
  simp [execFirmwareImageDownload, hc, hcmd, hst, hturns, hgo, hmod, Nat.ne_of_gt hpos, hnot, hfits, hheld]

/-! ## Commit (R151, R495 to R497) -/

section
variable (hfresh : Fresh s n c) (hturns : supTurns s = true) (hop : s.clo.op = none) (hjob : s.clo.job = none) (hact : s.hall.activating = none)
  (hcmd : c.cmd = .fwCommit a slot)
include hfresh hturns hop hjob hact hcmd

/-- A slot that cannot be written is refused. -/
theorem fwCommit_noSlot (hslot : commitSlot s a slot = none) : fwCommit s n a = finish s n 1 6 := by
  obtain ⟨hc, hst, -, -⟩ := hfresh
  simp [fwCommit, hc, hcmd, hst, hturns, hop, hjob, hact, hslot]

/-- A sanitize under way refuses an activation at once. -/
theorem fwCommit_sanitizing (ha : a = 3) (hslot : commitSlot s a slot = some k) (hsan : s.nvm.sanitize = some 2) : fwCommit s n a = finish s n 1 0x13 := by
  obtain ⟨hc, hst, -, -⟩ := hfresh
  simp only [fwCommit, hc, hcmd, hslot]
  simp [hst, hturns, hop, hjob, hact, ha, hsan]

/-- Whether the image downloaded passes the checks of a commit. -/
def bufferSound (s : State) : Bool :=
  (Config.imageOf s.nvm.fwBuf).wellFormed && decide ((Config.imageOf s.nvm.fwBuf).leafCount ≤ s.nvm.fwBuf.length) && imageTrusted s (Config.imageOf s.nvm.fwBuf)

/-- The job of a commit of the image downloaded. -/
def bufferJob (s : State) (n a k : Nat) : FwJob :=
  { ingest := n, action := a, slot := k, leaves := s.nvm.fwBuf.take (Config.imageOf s.nvm.fwBuf).leafCount, step := 1 }

/-- A commit of the image downloaded: its checks, and the erase of the slot's first sector. -/
theorem fwCommit_buffer (hslot : commitSlot s a slot = some k) (hnot2 : a ≠ 2)
    (hfree : a = 3 → s.nvm.sanitize = none ∧ s.nvm.spaces = []) : fwCommit s n a =
      if bufferSound s = true then jobOp (s.modCtx n fun c => { c with st := .running }) (bufferJob s n a k) else finish s n 1 7 := by
  obtain ⟨hc, hst, -, -⟩ := hfresh
  have hgo : ¬ (decide (a = 3) && (s.nvm.sanitize.isSome || s.nvm.spaces.any fun e => e.2.formatting.isSome)) = true := by
    rw [Bool.and_eq_true, decide_eq_true_eq]
    rintro ⟨ha, hbusy⟩
    obtain ⟨hsan, hspaces⟩ := hfree ha
    simp [hsan, hspaces] at hbusy
  simp only [fwCommit, hc, hcmd, hslot, if_neg hgo, if_neg hnot2]
  rw [if_neg (by simp [hst, hturns, hop, hjob, hact])]
  by_cases hsound : bufferSound s = true
  · rw [if_pos hsound]
    exact if_neg (by rw [show (_ && _ && _) = true from hsound]; decide)
  · rw [if_neg hsound]
    exact if_pos (by rw [show (_ && _ && _) = false from Bool.eq_false_iff.2 hsound]; rfl)

end

theorem commitSlot_existing (hlo : 1 ≤ slot) (hhi : slot ≤ 3) : commitSlot s 2 slot = some slot := by simp [commitSlot, hlo, hhi]

section
variable (hfresh : Fresh s n c) (hturns : supTurns s = true) (hop : s.clo.op = none) (hjob : s.clo.job = none) (hact : s.hall.activating = none)
  (hcmd : c.cmd = .fwCommit 2 slot) (hslot : commitSlot s 2 slot = some slot)
include hfresh hturns hop hjob hact hcmd hslot

/-- The running slot needs no swap. -/
theorem fwCommit_running (hrun : slot = s.clo.running) : fwCommit s n 2 = finish s n 0 0 := by
  obtain ⟨hc, hst, -, -⟩ := hfresh
  simp only [fwCommit, hc, hcmd, hslot]
  simp [hst, hturns, hop, hjob, hact, hrun, finishOk]

/-- Another slot is checked, and the swap that selects it begins. -/
theorem fwCommit_swaps (hrun : slot ≠ s.clo.running) (hcount : swapCount s < 2097152) : fwCommit s n 2 =
    if slotOk s slot none = true then
      jobOp (s.modCtx n fun c => { c with st := .running }) { ingest := n, action := 2, slot := slot, step := 4 }
    else finish s n 1 7 := by
  obtain ⟨hc, hst, -, -⟩ := hfresh
  have hswap : swapCount (s.modCtx n fun c => { c with st := .running }) < maxSwaps := hcount
  simp only [fwCommit, hc, hcmd, hslot, startSwap, if_pos hswap]
  cases hok : slotOk s slot none <;> simp [hst, hturns, hop, hjob, hact, hrun]

end

/-- The erase of the first sector of a slot begins. -/
theorem buffer_begins {i : Instr} (hfresh : Fresh s n c) (hexec : exec i s = .next
      (if bufferSound s = true then jobOp (s.modCtx n fun c => { c with st := .running }) (bufferJob s n a k) else finish s n 1 7)) :
    ∃ t, exec i s = .next t ∧ Only [.hall, .clo, .nvm] s t ∧ OthersStand s t n ∧
      if bufferSound s = true then t.ctx n = some { c with st := .running } ∧ t.nvm = s.nvm ∧
        t.clo = { s.clo with job := some (bufferJob s n a k), op := some { req := 4, kind := 2, addr := slotSector k * 65536 } }
      else Ended t n c 1 7 0 := by
  have hready := hfresh.not_ready
  obtain ⟨hc, -, -, hstair⟩ := hfresh
  by_cases hsound : bufferSound s = true
  · rw [if_pos hsound] at hexec
    simp only [if_pos hsound]
    have hmask : Mask 288 s (jobOp (s.modCtx n fun c => { c with st := .running }) (bufferJob s n a k)) :=
      jobOp_mask (by decide) (modCtx_mask (by decide) (mask_refl _ s))
    exact ⟨_, hexec, only_of_mask hmask (by decide), othersStand_modCtx _, ctx_modCtx_same hc _, rfl, rfl⟩
  · rw [if_neg hsound] at hexec
    simp only [if_neg hsound]
    exact ⟨_, hexec, only_of_mask (finish_host_mask hc hready hstair 1 7 0 (by decide : Sub 768 800) (mask_refl _ s)) (by decide),
      othersStand_finish hc hready hstair 1 7 0, ended_finish hc hready hstair 1 7 0⟩

/-- The swap to another slot begins. -/
theorem swap_begins {i : Instr} (hfresh : Fresh s n c) (hexec : exec i s = .next
      (if slotOk s slot none = true then
        jobOp (s.modCtx n fun c => { c with st := .running }) { ingest := n, action := 2, slot := slot, step := 4 } else finish s n 1 7)) :
    ∃ t, exec i s = .next t ∧ Only [.hall, .clo, .nvm] s t ∧ OthersStand s t n ∧
      if slotOk s slot none = true then t.ctx n = some { c with st := .running } ∧
        t.clo.op.map (fun o => (o.req, o.kind, o.addr)) = some (4, 1, twinBase (swapCount s % 2 == 0)) ∧
        t.clo.job = some { ingest := n, action := 2, slot := slot, step := 4 }
      else Ended t n c 1 7 0 := by
  have hready := hfresh.not_ready
  obtain ⟨hc, -, -, hstair⟩ := hfresh
  by_cases hok : slotOk s slot none = true
  · rw [if_pos hok] at hexec
    simp only [if_pos hok]
    have hmask : Mask 288 s (jobOp (s.modCtx n fun c => { c with st := .running }) { ingest := n, action := 2, slot := slot, step := 4 }) :=
      jobOp_mask (by decide) (modCtx_mask (by decide) (mask_refl _ s))
    exact ⟨_, hexec, only_of_mask hmask (by decide), othersStand_modCtx _, ctx_modCtx_same hc _, rfl, rfl⟩
  · rw [if_neg hok] at hexec
    simp only [if_neg hok]
    exact ⟨_, hexec, only_of_mask (finish_host_mask hc hready hstair 1 7 0 (by decide : Sub 768 800) (mask_refl _ s)) (by decide),
      othersStand_finish hc hready hstair 1 7 0, ended_finish hc hready hstair 1 7 0⟩

/-! ## The limit of the drain (R124) -/

/-- Fetching goes on, and the drain is over. -/
def fetchResumed (s : State) : State := ((s.set1 HAL_CTL.FETCH_EN).clr1 HAL_CTL.DRAIN_REQ).modHall fun h => { h with activating := none }

theorem fetchResumed_stands (hs : Tbl.sorted s.regs = true) :
    Mask 257 s (fetchResumed s) ∧ (fetchResumed s).hall.activating = none ∧ (fetchResumed s).on HAL_CTL.FETCH_EN = true ∧
      (fetchResumed s).on HAL_CTL.DRAIN_REQ = false ∧ RegsBut s (fetchResumed s) [HAL_CTL.FETCH_EN, HAL_CTL.DRAIN_REQ] := by
  have hset := set1_sorted (f := HAL_CTL.FETCH_EN) hs
  refine ⟨modHall_mask (by decide) (clr1_mask (by decide) (set1_mask (by decide) (mask_refl _ s))), rfl, ?_, on_clr1_same hset (by decide), ?_⟩
  · exact (on_wr_apart (f := HAL_CTL.DRAIN_REQ) (g := HAL_CTL.FETCH_EN) 0 hset (by decide) (apart_bits rfl rfl)).trans
      (on_set1_same hs (by decide) Nat.one_ne_zero)
  · have hfetch : RegsBut s (s.set1 HAL_CTL.FETCH_EN) [HAL_CTL.FETCH_EN, HAL_CTL.DRAIN_REQ] := regsBut_wr hs (by decide) List.mem_cons_self
    exact (hfetch.wr hset (by decide) (List.mem_cons_of_mem _ List.mem_cons_self)).of_regs rfl

theorem activationDrainTimeout_ends (hs : Tbl.sorted s.regs = true) (hact : s.hall.activating = some n) (hdrained : hallDrained s = false)
    (hc : s.ctx n = some c) (hst : c.st = .running) (hstair : c.stair = none) :
    ∃ t, exec .activationDrainTimeout s = .next t ∧ Only [.regs, .hall, .nvm] s t ∧ t.hall.activating = none ∧ t.on HAL_CTL.FETCH_EN = true ∧
      t.on HAL_CTL.DRAIN_REQ = false ∧ RegsBut s t [HAL_CTL.FETCH_EN, HAL_CTL.DRAIN_REQ] ∧ Ended t n c 1 0x12 0 := by
  have hready : c.st ≠ .ready := by
    rw [hst]
    exact fun h => nomatch h
  have hexec : exec .activationDrainTimeout s = .next (finish (fetchResumed s) n 1 0x12) := by
    show execActivationDrainTimeout s = _
    simp only [execActivationDrainTimeout, hact, hdrained]
    rfl
  obtain ⟨hmask, hover, hfetch, hdrain, hregs⟩ := fetchResumed_stands hs
  have hc' : (fetchResumed s).ctx n = some c := hc
  generalize fetchResumed s = u at hexec hmask hover hfetch hdrain hregs hc'
  have hfinish : Mask 768 u (finish u n 1 0x12) := finish_host_mask hc' hready hstair 1 0x12 0 (sub_refl _) (mask_refl _ u)
  have hregs' := hfinish.2 .regs (by decide)
  refine ⟨_, hexec, only_of_mask (mask_trans (m := 769) (mask_mono (by decide) hmask) (mask_mono (by decide) hfinish)) (by decide), ?_,
    (on_of_regs hregs').trans hfetch, (on_of_regs hregs').trans hdrain, hregs.of_regs hregs', ended_finish hc' hready hstair 1 0x12 0⟩
  rw [finish_hall hc' hready hstair]
  exact hover

/-! ## The activation ends (R123, R323, R498) -/

/-- Every image holds a program for every bridge: what the drain's end asks of the images for no port to be retired. -/
def ImagesServe : Prop :=
  ∀ (l : List Nat) (vendor part : Nat), vendor < 65536 → part < 65536 →
    ((Config.imageOf l).progs.find? fun p => (p.vendor == 0xFFFF || p.vendor == vendor) && (p.part == 0xFFFF || p.part == part)).isSome = true

/-- Programs and registers of a port's sequencer are replaced; the registers stay canonical. -/
theorem reloadPort_served (hserve : ImagesServe) (hs : Tbl.sorted s.regs = true) (k m : Nat) :
    Mask 8193 s (reloadPort s (slotImage u k) m) ∧ Tbl.sorted (reloadPort s (slotImage u k) m).regs = true := by
  obtain ⟨p, hp⟩ := Option.isSome_iff_exists.1 (hserve (slotLeaves u k) _ _ (rd_lt s (CEL_BRIDGE_ID.BRIDGE_VENDOR m)) (rd_lt s (CEL_BRIDGE_ID.BRIDGE_PART m)))
  have hprog : portProgram s (slotImage u k) m = some p := hp
  simp only [reloadPort, hprog]
  have hload (v : State) : Mask 8192 v (loadBytes v m 0 p.bytes) := loadBytes_mask (sub_refl _) (mask_refl _ v)
  refine ⟨wr_mask (by decide) (wr_mask (by decide) (wr_mask (by decide) (wr_mask (by decide) (wr_mask (by decide) (wr_mask (by decide)
    (loadBytes_mask (by decide) (modSeq_mask (by decide) (mask_refl _ s)))))))), ?_⟩
  refine wr_sorted (wr_sorted (wr_sorted (wr_sorted (wr_sorted (wr_sorted ?_)))))
  rw [(hload _).2 .regs (by decide)]
  exact hs

/-- A start of an image not confirmed has been counted. -/
def attempted (s : State) (b : Bool) (r : BootRec) : State := if r.active ≠ 1 && !confirmed s b then addAttempt s b else s

/-- The running ports have the programs of the image selected. -/
def portsLoaded (s : State) (x : Image) : State := s.each ((List.range 64).filter fun n => s.on (CEL_SEQ_CTL.RUN n)) fun s n => reloadPort s x n

/-- The image selected has been loaded: every running port's program, and the supervisor's. -/
def imageLoaded (s : State) (b : Bool) (r : BootRec) : State :=
  startSupervisor (portsLoaded (attempted s b r) (slotImage s r.active)) (slotImage s r.active)

/-- It runs. -/
def imageRuns (s : State) (b : Bool) (r : BootRec) : State :=
  let v := (imageLoaded s b r).modClo fun c => { c with running := r.active, confirmSec := if r.active ≠ 1 && !confirmed s b then some 0 else none }
  v.modScu fun c => { c with geo := (slotImage s r.active).geo }

theorem exec_activationDrainComplete (hact : s.hall.activating = some n) (hdrained : hallDrained s = true) (hrec : recNow s = some (b, r)) :
    exec .activationDrainComplete s = .next (stairChanged (finishOk (fetchResumed (imageRuns s b r)) n)) := by
  show execActivationDrainComplete s = _
  simp only [execActivationDrainComplete, hact, hrec, hdrained]
  rfl

theorem mask_attempted (s : State) (b : Bool) (r : BootRec) : Mask 32 s (attempted s b r) := by
  unfold attempted
  split
  · exact addAttempt_mask (sub_refl _) (mask_refl _ s)
  · exact mask_refl _ s

theorem portsLoaded_served (hserve : ImagesServe) (hs : Tbl.sorted s.regs = true) (u : State) (k : Nat) :
    Mask 8193 s (portsLoaded s (slotImage u k)) ∧ Tbl.sorted (portsLoaded s (slotImage u k)).regs = true :=
  foldl_holds (P := fun v => Mask 8193 s v ∧ Tbl.sorted v.regs = true) (f := fun v n => reloadPort v (slotImage u k) n)
    (fun _ m ⟨hv, hsorted⟩ => have hreload := reloadPort_served hserve hsorted k m; ⟨mask_trans hv hreload.1, hreload.2⟩) _ ⟨mask_refl _ s, hs⟩

theorem imageLoaded_served (hserve : ImagesServe) (hs : Tbl.sorted s.regs = true) (b : Bool) (r : BootRec) :
    Mask 8241 s (imageLoaded s b r) ∧ Tbl.sorted (imageLoaded s b r).regs = true := by
  have hattempt := mask_attempted s b r
  obtain ⟨hports, hsorted⟩ := portsLoaded_served (s := attempted s b r) hserve (by rwa [hattempt.2 .regs (by decide)]) s r.active
  have hsup (v : State) (x : Image) : Mask 8208 v (startSupervisor v x) := startSupervisor_mask (sub_refl _) (mask_refl _ v)
  refine ⟨mask_trans (mask_mono (by decide) hattempt) (mask_trans (mask_mono (by decide) hports) (mask_mono (by decide) (hsup _ _))), ?_⟩
  rw [imageLoaded, (hsup _ _).2 .regs (by decide)]
  exact hsorted

theorem stairChanged_of_not_worker (hworker : isWorker s = false) : stairChanged s = s := by
  unfold stairChanged tellManager
  repeat' split
  all_goals simp_all

/-- Where every image serves every bridge, the activation ends with the image selected in force and its command complete. -/
theorem activationDrainComplete_ends (hserve : ImagesServe) (hs : Tbl.sorted s.regs = true) (hact : s.hall.activating = some n)
    (hdrained : hallDrained s = true) (hrec : recNow s = some (b, r)) (hc : s.ctx n = some c) (hst : c.st = .running) (hstair : c.stair = none)
    (hworker : isWorker s = false) :
    ∃ t, exec .activationDrainComplete s = .next t ∧
      Only [.regs, .atc, .std, .clo, .hall, .nvm, .pan, .ldr, .cel, .seqs, .lnd, .scu, .sta, .free] s t ∧ t.clo.running = r.active ∧
      t.hall.activating = none ∧ t.on HAL_CTL.FETCH_EN = true ∧ t.on HAL_CTL.DRAIN_REQ = false ∧ t.scu.geo = (slotImage s r.active).geo ∧
      (t.ctx n).map (fun y => (y.st, y.sct, y.sc)) = some (.ready, 0, 0) := by
  have hready : c.st ≠ .ready := by
    rw [hst]
    exact fun h => nomatch h
  have hexec := exec_activationDrainComplete hact hdrained hrec
  obtain ⟨hmask, hsorted⟩ := imageLoaded_served hserve hs b r
  have hruns : Mask 41009 s (imageRuns s b r) := modScu_mask (by decide) (modClo_mask (by decide) (mask_mono (by decide) hmask))
  have hsorted' : Tbl.sorted (imageRuns s b r).regs = true := hsorted
  have hrunning : (imageRuns s b r).clo.running = r.active := rfl
  have hgeo : (imageRuns s b r).scu.geo = (slotImage s r.active).geo := rfl
  generalize imageRuns s b r = u at hexec hruns hsorted' hrunning hgeo
  have hc' : (fetchResumed u).ctx n = some c := (ctx_of_mask hruns (by decide)).trans hc
  obtain ⟨hmask', hover, hfetch, hdrain, -⟩ := fetchResumed_stands hsorted'
  have hworker' : isWorker (finishOk (fetchResumed u) n) = false := by
    have hpwr : (finishOk (fetchResumed u) n).pwr = s.pwr :=
      ((finish_host_mask hc' hready hstair 0 0 0 (sub_refl 768) (mask_refl _ _)).2 .pwr (by decide)).trans
        ((hmask'.2 .pwr (by decide)).trans (hruns.2 .pwr (by decide)))
    rw [isWorker, hpwr]
    exact hworker
  rw [stairChanged_of_not_worker hworker', finishOk, finish_zero hc' hready hstair] at hexec
  refine ⟨_, hexec, only_of_exec hexec, (congrArg Closet.running (hmask'.2 .clo (by decide))).trans hrunning, hover, hfetch, hdrain,
    (congrArg (fun x => x.geo) (hmask'.2 .scu (by decide))).trans hgeo, ?_⟩
  rw [ctx_modCtx_same hc']
  rfl

end Sys2Proof.Machine
end

section
/-!
PROOF. What the Firmware statement rests on: the programs that the images hold (R323).
-/
namespace Sys2Proof.Machine

theorem firmware_of_imagesServe (hserve : ImagesServe) : Obligations.Firmware := by
  unfold Obligations.Firmware
  intro s n off len slot k leaves b r c hinv
  have hs := regs_sorted hinv
  refine ⟨fun hfresh hturns => ⟨fun hgo hcmd hlen hle => firmwareImageDownload_begins hfresh hturns hgo hcmd hlen hle,
      fun hgo hcmd hpos hheld hlt => ?_, fun hop hjob hact => ⟨fun hcmd hslot => ?_, fun hcmd hslot => ?_, fun hcmd hslot => ?_,
        fun hcmd hslot hsan hspaces => ?_, fun hcmd hslot hsan => ?_, fun hcmd hlo hhi => ⟨fun hrun => ?_, fun hrun hcount => ?_⟩⟩⟩,
    fun hact hdrained hrec hc hst hstair hworker => activationDrainComplete_ends hserve hs hact hdrained hrec hc hst hstair hworker,
    fun hact hdrained hc hst hstair => ⟨?_, activationDrainTimeout_ends hs hact hdrained hc hst hstair⟩⟩
  case refine_1 =>
    have hexec := firmwareImageDownload_overlaps hfresh hturns hgo hcmd hpos hheld hlt
    obtain ⟨t, ht, honly, hothers, hended⟩ := ends_with hfresh hexec
    have hready := hfresh.not_ready
    obtain ⟨hc, -, -, hstair⟩ := hfresh
    have hbuf := nvm_finish Nvm.fwBuf (fun _ _ _ => rfl) hc hready hstair 1 0x14 0
    rw [hexec] at ht
    cases ht
    exact ⟨_, hexec, honly, hothers, hended, hbuf⟩
  case refine_2 => exact ends_with hfresh (congrArg Host.Outcome.next (fwCommit_noSlot hfresh hturns hop hjob hact hcmd hslot))
  case refine_3 =>
    exact buffer_begins hfresh (congrArg Host.Outcome.next (fwCommit_buffer hfresh hturns hop hjob hact hcmd hslot (by decide) (fun h => nomatch h)))
  case refine_4 =>
    exact buffer_begins hfresh (congrArg Host.Outcome.next (fwCommit_buffer hfresh hturns hop hjob hact hcmd hslot (by decide) (fun h => nomatch h)))
  case refine_5 =>
    exact buffer_begins hfresh
      (congrArg Host.Outcome.next (fwCommit_buffer hfresh hturns hop hjob hact hcmd hslot (by decide) fun _ => ⟨hsan, hspaces⟩))
  case refine_6 => exact ends_with hfresh (congrArg Host.Outcome.next (fwCommit_sanitizing hfresh hturns hop hjob hact hcmd rfl hslot hsan))
  case refine_7 =>
    obtain ⟨hc, hst, -, hstair⟩ := id hfresh
    have hexec : exec (.fwCommitActivateExisting n) s = .next (finish s n 0 0) := by
      show Host.Outcome.next (fwCommit s n 2) = _
      rw [fwCommit_running hfresh hturns hop hjob hact hcmd (commitSlot_existing hlo hhi) hrun]
    obtain ⟨t, ht, honly, hothers, hended⟩ := ends_ok hfresh hexec
    exact ⟨t, ht, honly, hothers, hended⟩
  case refine_8 =>
    have hswaps := fwCommit_swaps hfresh hturns hop hjob hact hcmd (commitSlot_existing hlo hhi) hrun hcount
    exact swap_begins hfresh (congrArg Host.Outcome.next hswaps)
  case refine_9 =>
    show execActivationDrainComplete s = _
    simp only [execActivationDrainComplete, hact, hdrained]
    cases recNow s <;> rfl

/-! ## A port that no program serves is retired (R323) -/

section
variable {s u : State} {n ing cause : Nat} {c : Ctx}

/-- A merge's read on a port, of one codeword at no suite. -/
def mergeRead (ing : Nat) : DieOp := { kind := 1, die := 0, cwCount := 1, issuer := .merge ing 0 }

/-- A command has ended with Unrecovered Read Error. -/
def ReadFailed (s : State) (n : Nat) : Prop := (s.ctx n).map (fun c => (c.st, c.sct, c.sc)) = some (.ready, 2, 0x81)

theorem ReadFailed.of_ctx (h : ReadFailed s n) (hctx : u.ctx n = s.ctx n) : ReadFailed u n := by rwa [ReadFailed, hctx]

/-- A merge whose read fails ends its command; one that holds no units leaves the Larder. -/
theorem mergeFailed_ends (hc : s.ctx n = some c) (hst : c.st = .running) (hstair : c.stair = none) (hunits : c.wunits = []) :
    ReadFailed (mergeFailed s n) n ∧ Mask 1792 s (mergeFailed s n) := by
  have hback : Mask 1024 s (returnSlots s c.wunits) := by
    rw [hunits]
    exact modPan_mask (sub_refl _) (mask_refl _ s)
  have hc' : (returnSlots s c.wunits).ctx n = some c := (ctx_of_mask hback (by decide)).trans hc
  have hready : c.st ≠ .ready := by
    rw [hst]
    exact fun h => nomatch h
  simp only [mergeFailed, hc]
  have hcut := ctx_modCtx_same hc' fun c => { c with wunits := c.wunits.map fun u => if u.st = .waiting then { u with st := .abandoned } else u }
  refine ⟨?_, finish_host_mask hcut hready hstair 2 0x81 0 (by decide) (modCtx_mask (by decide) (mask_mono (by decide) hback))⟩
  rw [ReadFailed, ended_finish hcut hready hstair 2 0x81 0]
  rfl

theorem opOutcome_mergeRead (s : State) (n ing : Nat) :
    opOutcome s n (mergeRead ing) .retired = mergeFailed (s.bump (LND_PORT_CNT.UNCORR n)) ing := by
  simp [opOutcome, mergeRead, readLost, startStripe, deliverFail, cwOp, State.each, countVerdict]

theorem hall_scuPortRetired (hfronts : s.ldr.fronts = []) (n cause : Nat) : (scuPortRetired s n cause).hall = s.hall := by
  have hj : Mask 1024 s (jAppend s { typ := 0x0B, count := n, first := cause, aux := 9 }) := jAppend_mask (by decide) (mask_refl _ s)
  have hfronts' : (jAppend s { typ := 0x0B, count := n, first := cause, aux := 9 }).ldr.fronts = [] := by rw [hj.2 .ldr (by decide), hfronts]
  rw [scuPortRetired, dropPortMembers_of_no_fronts (by exact hfronts')]
  exact hj.2 .hall (by decide)

theorem portMode_retireHead (hs : Tbl.sorted s.regs = true) (n cause : Nat) : portMode (retireHead s n cause) n = portMode s n := by
  rw [portMode_of_regs (regs_retireHead s n cause), portMode_wr_apart (b := 0x300010) (wr_sorted hs) rfl (by decide) rfl,
    portMode_wr_apart (b := 0x300010) hs rfl (by decide) rfl]

theorem each_one {α : Type} (s : State) (f : State → α → State) (x : α) : s.each [x] f = f s x := (rfl)

/-- A retirement's head, its record and the end of its ladder. -/
def retireBegun (s : State) (n cause : Nat) : State := ladderOver (post (retireHead s n cause) 0x0060 4 4 n cause) n

theorem retireBegun_mask (s : State) (n cause : Nat) : Mask 16392 (retireHead s n cause) (retireBegun s n cause) :=
  modLnd_mask (by decide) (post_mask (by decide) (mask_refl _ _))

theorem retirePort_eq_of_merge (hq : Tbl.sorted s.seqs = true) (hdescs : (s.seq n).descs = []) (hdie : (s.port n).dieQ = [])
    (hoffers : (s.port n).offers = [mergeRead ing]) (hret : portRetired s n = false) : retirePort s n cause =
      staLinkLost (scuPortRetired (mergeFailed ((retireBegun s n cause).bump (LND_PORT_CNT.UNCORR n)) ing) n cause) n := by
  have hpost : Mask 8 (retireHead s n cause) (post (retireHead s n cause) 0x0060 4 4 n cause) := post_mask (by decide) (mask_refl _ _)
  have hnone : ((post (retireHead s n cause) 0x0060 4 4 n cause).seq n).descs = [] := by
    rw [seq_of_seqs (hpost.2 .seqs (by decide)), descs_retireHead hq, hdescs]
  have hland : landLadderRetire (post (retireHead s n cause) 0x0060 4 4 n cause) n = ladderOver (post (retireHead s n cause) 0x0060 4 4 n cause) n :=
    landLadderRetire_of_no_descs hnone
  rw [retirePort_eq hret, hland, endRing_of_no_descs (by rw [seq_ladderOver]; exact hnone), hdie, hoffers, List.foldl_nil, List.nil_append, each_one,
    opOutcome_mergeRead, retireBegun]

/-- A port whose only work is a merge's read fails it as it is retired. -/
theorem retirePort_mergeRead (hs : Tbl.sorted s.regs = true) (hq : Tbl.sorted s.seqs = true) (hdescs : (s.seq n).descs = [])
    (hdie : (s.port n).dieQ = []) (hoffers : (s.port n).offers = [mergeRead ing]) (hfronts : s.ldr.fronts = []) (hmode : portMode s n ≠ 2)
    (hret : portRetired s n = false) (hc : s.ctx ing = some c) (hst : c.st = .running) (hstair : c.stair = none) (hunits : c.wunits = []) :
    ReadFailed (retirePort s n cause) ing := by
  rw [retirePort_eq_of_merge hq hdescs hdie hoffers hret]
  have hhead := mask_retireHead s n cause
  have hbegun := retireBegun_mask s n cause
  have hmode' : portMode (retireBegun s n cause) n ≠ 2 := by
    rw [portMode_of_regs (hbegun.2 .regs (by decide)), portMode_retireHead hs]
    exact hmode
  have hsorted : Tbl.sorted (retireBegun s n cause).regs = true := by
    rw [hbegun.2 .regs (by decide), regs_retireHead]
    exact wr_sorted (wr_sorted hs)
  have hc' : (retireBegun s n cause).ctx ing = some c := (ctx_of_mask hbegun (by decide)).trans ((ctx_of_mask hhead (by decide)).trans hc)
  have hfronts' : (retireBegun s n cause).ldr.fronts = [] := by rw [hbegun.2 .ldr (by decide), hhead.2 .ldr (by decide), hfronts]
  generalize retireBegun s n cause = u at hmode' hsorted hc' hfronts'
  have hcount : portMode (u.bump (LND_PORT_CNT.UNCORR n)) n = portMode u n := portMode_wr_apart (b := 0x3C0E00) hsorted rfl (by decide) rfl
  have hbump : Mask 1 u (u.bump (LND_PORT_CNT.UNCORR n)) := bump_mask (sub_refl _) (mask_refl _ u)
  have hc'' : (u.bump (LND_PORT_CNT.UNCORR n)).ctx ing = some c := (ctx_of_mask hbump (by decide)).trans hc'
  have hfronts'' : (u.bump (LND_PORT_CNT.UNCORR n)).ldr.fronts = [] := by rw [hbump.2 .ldr (by decide), hfronts']
  generalize u.bump (LND_PORT_CNT.UNCORR n) = v at hcount hc'' hfronts''
  obtain ⟨hfailed, hmask⟩ := mergeFailed_ends hc'' hst hstair hunits
  generalize mergeFailed v ing = w at hfailed hmask
  have hfrontsw : w.ldr.fronts = [] := by rw [hmask.2 .ldr (by decide), hfronts'']
  have hscu := hall_scuPortRetired hfrontsw n cause
  have hmodew : portMode (scuPortRetired w n cause) n ≠ 2 := by
    rw [portMode_of_regs (scuPortRetired_of_no_fronts hfrontsw cause).1, portMode_of_regs (hmask.2 .regs (by decide)), hcount]
    exact hmode'
  rw [staLinkLost, if_pos hmodew]
  exact hfailed.of_ctx (ctx_of_hall hscu)

end

/-! ## The record in force (R488, R491) -/

section
variable {s t : State}

/-- The die differs in what the slots hold. -/
structure SlotsDiffer (s t : State) : Prop where
  nor : t.clo.nor = s.clo.nor
  marginal : t.clo.marginal = s.clo.marginal
  conf : t.clo.conf = s.clo.conf
  stg : t.stg = s.stg
  atc : t.atc = s.atc

/-- Outside the slots the die reads the same. -/
theorem SlotsDiffer.norFirm (h : SlotsDiffer s t) {a : Nat} (ha : sectorLeaf (a / 65536) = none) : norFirm t a = norFirm s a := by
  simp only [Machine.norFirm, norByte, sectorStore, ha, h.nor, h.marginal, h.conf, h.stg, h.atc]

/-- A twin lies in no slot. -/
theorem sectorLeaf_twin (b : Bool) {i : Nat} (hi : i < 256) : sectorLeaf ((twinBase b + i) / 65536) = none := by
  cases b
  · rw [show (twinBase false + i) / 65536 = 0 by simp only [twinBase, Bool.false_eq_true, if_false]; omega]
    decide
  · rw [show (twinBase true + i) / 65536 = 512 by simp only [twinBase, if_true]; omega]
    decide

theorem SlotsDiffer.norFirmNat (h : SlotsDiffer s t) (b : Bool) {i k : Nat} (hik : i + k ≤ 256) :
    norFirmNat t (twinBase b + i) k = norFirmNat s (twinBase b + i) k := by
  refine List.foldl_ext _ _ _ fun v j hj => ?_
  have := List.mem_range.1 hj
  rw [Nat.add_assoc, h.norFirm (sectorLeaf_twin b (by omega))]

theorem SlotsDiffer.readTwin (h : SlotsDiffer s t) : readTwin t = readTwin s := by
  funext b
  have hbytes : ((List.range 0xFC).map fun i => Machine.norFirm t (twinBase b + i)) = (List.range 0xFC).map fun i => Machine.norFirm s (twinBase b + i) :=
    List.map_congr_left fun i hi => h.norFirm (sectorLeaf_twin b (by have := List.mem_range.1 hi; omega))
  have hmagic : Machine.norFirmNat t (twinBase b) 4 = Machine.norFirmNat s (twinBase b) 4 := h.norFirmNat b (i := 0) (by decide)
  simp only [Machine.readTwin, hbytes, hmagic]
  rw [h.norFirmNat b (by decide), h.norFirmNat b (by decide), h.norFirmNat b (by decide), h.norFirmNat b (by decide), h.norFirmNat b (by decide),
    h.norFirmNat b (by decide), h.norFirmNat b (by decide), h.norFirmNat b (by decide)]

/-- The twins decide: the body of `inForce` is compared as a function, as for a die that reads the same. -/
theorem inForce_of_twins (htwin : readTwin t = readTwin s) (m : Nat) : inForce t m = inForce s m := by
  have hbody : ∀ F : State → Nat → Option (Bool × BootRec), F = inForce → F t m = F s m := by
    intro F hF
    delta inForce at hF
    subst hF
    beta_reduce
    rw [htwin]
  exact hbody inForce rfl

/-- With nothing written in its area the swap count is zero. -/
theorem swapCount_of_untouched (hmarginal : s.clo.marginal = []) (hkeys : ∀ a ∈ Tbl.keys s.clo.nor, a < 262144) : swapCount s = 0 := by
  have htouched : ((Tbl.keys s.clo.nor ++ s.clo.marginal.map fun b => b / 8).filter fun a =>
      decide (swapBase false ≤ a ∧ a < swapBase false + 4 * 65536)) = [] := by
    rw [hmarginal, List.map_nil, List.append_nil, List.filter_eq_nil_iff]
    intro a ha hin
    have := hkeys a ha
    simp only [swapBase, Bool.false_eq_true, if_false, decide_eq_true_eq] at hin
    omega
  simp only [swapCount, swapCopy, htouched]
  rfl

end

end Sys2Proof.Machine
end

section
/-!
PROOF. What the Firmware statement comes to: that every image serves every bridge (R323). The model gives the content of an image as an opaque
function of its leaves, so that the question is left to the configuration.
-/
namespace Sys2Proof.Machine

variable {l : List Nat} {vendor part : Nat}

/-! ## A slot that holds given leaves -/

/-- Leaves by number, from a first number on. -/
def leafTable : Nat → List Nat → Tbl Nat
  | _, [] => []
  | k, x :: l => (k, x) :: leafTable (k + 1) l

theorem length_leafTable (k : Nat) (l : List Nat) : (leafTable k l).length = l.length := by
  induction l generalizing k with
  | nil => rfl
  | cons x l ih => rw [leafTable, List.length_cons, ih, List.length_cons]

theorem find_leafTable (k i : Nat) (l : List Nat) : Tbl.find (leafTable k l) (k + i) = l[i]? := by
  induction l generalizing k i with
  | nil => rfl
  | cons x l ih =>
    cases i with
    | zero => exact if_pos rfl
    | succ i => rw [leafTable, Tbl.find, if_neg (by omega), show k + (i + 1) = k + 1 + i by omega, ih, List.getElem?_cons_succ]

theorem filterMap_range_getElem? (l : List Nat) : (List.range l.length).filterMap (fun i => l[i]?) = l := by
  have hmap : (List.range l.length).map (fun i => l[i]?) = l.map some := by
    refine List.ext_getElem (by simp) fun i hi _ => ?_
    simp
  calc (List.range l.length).filterMap (fun i => l[i]?)
      = ((List.range l.length).map fun i => l[i]?).filterMap id := by rw [List.filterMap_map]; rfl
    _ = l := by rw [hmap, List.filterMap_map]; exact List.filterMap_some

theorem slotLeaves_leafTable {s : State} {k : Nat} (hslot : Tbl.find s.clo.slots k = some { leaves := leafTable 0 l }) : slotLeaves s k = l := by
  simp only [slotLeaves, hslot, length_leafTable]
  refine (List.filterMap_congr fun i _ => ?_).trans (filterMap_range_getElem? l)
  rw [← find_leafTable 0 i l, Nat.zero_add]

/-! ## A drained device with a port that no program serves -/

def drainRecord : BootRec := { active := 1, prev := 1, rejected := 0, swapAt := 0, activeDigest := 0, prevDigest := 0 }

/-- The command of the activation. -/
def drainCtx : Ctx := { port := 0, sq := 0, cid := 0, cmd := .fwCommit 3 1, st := .running }

/-- A device whose drain has ended: port 3 runs, and a read of the activation's command is offered to it. -/
def drainBase : State :=
  { State.reset with
    clo := { nor := (List.range 256).zip (recPage drainRecord) }, hall := { activating := some 5, ctxs := [(5, drainCtx)] }
    cel := { ports := [(3, { offers := [mergeRead 5] })] }, regs := (State.reset.wr (CEL_SEQ_CTL.RUN 3) 1).regs }

/-- Slot 1 holds the leaves given. -/
def drainSlotted (l : List Nat) : State := drainBase.modClo fun c => { c with slots := [(1, { leaves := leafTable 0 l })] }

/-- Port 3 has the bridge given. -/
def drainState (l : List Nat) (vendor part : Nat) : State :=
  ((drainSlotted l).wr (CEL_BRIDGE_ID.BRIDGE_VENDOR 3) vendor).wr (CEL_BRIDGE_ID.BRIDGE_PART 3) part

theorem drainBase_inv : drainBase.inv = true := by decide +kernel

theorem sorted_drainBase : Tbl.sorted drainBase.regs = true := regs_sorted drainBase_inv

theorem keys_drainBase : ∀ a ∈ Tbl.keys drainBase.clo.nor, a < 262144 := by decide +kernel

theorem recNow_drainBase : recNow drainBase = some (false, drainRecord) := by decide +kernel

theorem running_drainBase : (List.range 64).filter (fun n => drainBase.on (CEL_SEQ_CTL.RUN n)) = [3] := by decide +kernel

theorem drained_drainBase : hallDrained drainBase = true := by decide +kernel

theorem portMode_drainBase : portMode drainBase 3 ≠ 2 := by decide +kernel

theorem marginal_drainBase : drainBase.clo.marginal = [] := rfl

theorem nor_drainSlotted (l : List Nat) : (drainSlotted l).clo.nor = drainBase.clo.nor := by rw [drainSlotted, State.modClo_clo]

theorem marginal_drainSlotted (l : List Nat) : (drainSlotted l).clo.marginal = drainBase.clo.marginal := by rw [drainSlotted, State.modClo_clo]

theorem slot_drainSlotted (l : List Nat) : Tbl.find (drainSlotted l).clo.slots 1 = some { leaves := leafTable 0 l } := by
  rw [drainSlotted, State.modClo_clo]
  exact if_pos rfl

theorem mask_drainState (l : List Nat) (vendor part : Nat) : Mask 1 (drainSlotted l) (drainState l vendor part) :=
  wr_mask (by decide) (wr_mask (by decide) (mask_refl _ _))

theorem sorted_drainState (l : List Nat) (vendor part : Nat) : Tbl.sorted (drainState l vendor part).regs = true :=
  wr_sorted (wr_sorted (s := drainSlotted l) sorted_drainBase)

/-- Only the bridge's registers are not those of the device drained. -/
theorem rd_drainState (l : List Nat) (vendor part : Nat) {g : Fld} (hg : g.addr ≠ 0x303040) : (drainState l vendor part).rd g = drainBase.rd g :=
  (State.rd_wr_apart _ (wr_sorted (s := drainSlotted l) sorted_drainBase) (by decide) (.inl hg)).trans
    (State.rd_wr_apart (s := drainSlotted l) _ sorted_drainBase (by decide) (.inl hg))

theorem on_drainState (l : List Nat) (vendor part : Nat) {g : Fld} (hg : g.addr ≠ 0x303040) : (drainState l vendor part).on g = drainBase.on g := by
  rw [State.on, rd_drainState l vendor part hg, State.on]

theorem inv_drainState (l : List Nat) (vendor part : Nat) : (drainState l vendor part).inv = true := by
  have hmask := mask_drainState l vendor part
  have hbase := drainBase_inv
  simp only [State.inv, Bool.and_eq_true] at hbase ⊢
  obtain ⟨⟨⟨⟨-, hseqs⟩, hok⟩, hnor⟩, hring⟩ := hbase
  rw [hmask.2 .seqs (by decide), hmask.2 .clo (by decide), hmask.2 .atc (by decide)]
  exact ⟨⟨⟨⟨sorted_drainState l vendor part, hseqs⟩, hok⟩, hnor⟩, hring⟩

theorem running_drainState (l : List Nat) (vendor part : Nat) :
    (List.range 64).filter (fun n => (drainState l vendor part).on (CEL_SEQ_CTL.RUN n)) = [3] := by
  rw [← running_drainBase]
  refine List.filter_congr fun n _ => on_drainState l vendor part ?_
  simp only [CEL_SEQ_CTL.RUN, CEL_SEQ_CTL.addr]
  omega

theorem drained_drainState (l : List Nat) (vendor part : Nat) : hallDrained (drainState l vendor part) = true := by
  have hmask := mask_drainState l vendor part
  have hhall : (drainState l vendor part).hall = drainBase.hall := hmask.2 .hall (by decide)
  have hport (n : Nat) : (drainState l vendor part).port n = drainBase.port n := port_of_cel (hmask.2 .cel (by decide))
  simp only [hallDrained, on_drainState l vendor part (show HAL_CTL.FETCH_EN.addr ≠ 0x303040 by decide),
    on_drainState l vendor part (show HAL_CTL.DRAIN_REQ.addr ≠ 0x303040 by decide), hhall, hport]
  exact drained_drainBase

theorem swapCount_drainBase : swapCount drainBase = 0 := swapCount_of_untouched marginal_drainBase keys_drainBase

theorem slotsDiffer_drainState (l : List Nat) (vendor part : Nat) : SlotsDiffer drainBase (drainState l vendor part) := by
  have hmask := mask_drainState l vendor part
  have hclo : (drainState l vendor part).clo = (drainSlotted l).clo := hmask.2 .clo (by decide)
  exact ⟨by rw [hclo, nor_drainSlotted], by rw [hclo, marginal_drainSlotted], by rw [hclo, drainSlotted, State.modClo_clo],
    hmask.2 .stg (by decide), hmask.2 .atc (by decide)⟩

theorem recNow_drainState (l : List Nat) (vendor part : Nat) : recNow (drainState l vendor part) = some (false, drainRecord) := by
  have hdiffer := slotsDiffer_drainState l vendor part
  have hcount : swapCount (drainState l vendor part) = 0 :=
    swapCount_of_untouched (hdiffer.marginal.trans marginal_drainBase) (by rw [hdiffer.nor]; exact keys_drainBase)
  rw [recNow, hcount, ← swapCount_drainBase, inForce_of_twins hdiffer.readTwin]
  exact recNow_drainBase

theorem slotLeaves_drainState (l : List Nat) (vendor part : Nat) : slotLeaves (drainState l vendor part) 1 = l :=
  slotLeaves_leafTable (by rw [(mask_drainState l vendor part).2 .clo (by decide), slot_drainSlotted])

theorem bridge_drainState (l : List Nat) (hvendor : vendor < 65536) (hpart : part < 65536) :
    (drainState l vendor part).rd (CEL_BRIDGE_ID.BRIDGE_VENDOR 3) = vendor ∧ (drainState l vendor part).rd (CEL_BRIDGE_ID.BRIDGE_PART 3) = part := by
  have hsorted : Tbl.sorted (drainSlotted l).regs = true := sorted_drainBase
  have hsorted' := wr_sorted (f := CEL_BRIDGE_ID.BRIDGE_VENDOR 3) (v := vendor) hsorted
  constructor
  · have hapart : Fld.apart (CEL_BRIDGE_ID.BRIDGE_VENDOR 3) (CEL_BRIDGE_ID.BRIDGE_PART 3) := apart_bits rfl rfl
    rw [drainState, State.rd_wr_apart _ hsorted' (by decide) hapart, State.rd_wr_same _ _ _ hsorted (by decide)]
    exact Nat.mod_eq_of_lt hvendor
  · rw [drainState, State.rd_wr_same _ _ _ hsorted' (by decide)]
    exact Nat.mod_eq_of_lt hpart

/-- The port that no program serves is retired, and with it the activation's command ends with an error. -/
theorem portsLoaded_drainState (hvendor : vendor < 65536) (hpart : part < 65536)
    (hnone : (Config.imageOf l).progs.find? (fun p => (p.vendor == 0xFFFF || p.vendor == vendor) && (p.part == 0xFFFF || p.part == part)) = none) :
    ReadFailed (portsLoaded (drainState l vendor part) (Config.imageOf l)) 5 := by
  obtain ⟨hv, hp⟩ := bridge_drainState l hvendor hpart
  have hprog : portProgram (drainState l vendor part) (Config.imageOf l) 3 = none := by rw [portProgram, hv, hp, hnone]
  rw [portsLoaded, running_drainState, each_one]
  simp only [reloadPort, hprog, hv, hp]
  have hpost : Mask 8 (drainState l vendor part) (post (drainState l vendor part) 0x0062 4 9 3 (vendor + 65536 * part)) := post_mask (sub_refl _) (mask_refl _ _)
  have hstate := mask_drainState l vendor part
  have hsorted := sorted_drainState l vendor part
  have hmode : portMode (drainState l vendor part) 3 = portMode drainBase 3 := portMode_of_rd (rd_drainState l vendor part (by decide))
  generalize drainState l vendor part = u at hpost hstate hsorted hmode
  generalize post u 0x0062 4 9 3 (vendor + 65536 * part) = v at hpost
  have hseqs : v.seqs = [] := (hpost.2 .seqs (by decide)).trans (hstate.2 .seqs (by decide))
  have hcel : v.cel = drainBase.cel := (hpost.2 .cel (by decide)).trans (hstate.2 .cel (by decide))
  have hport : v.port 3 = drainBase.port 3 := port_of_cel hcel
  refine retirePort_mergeRead (c := drainCtx) (by rw [hpost.2 .regs (by decide)]; exact hsorted) (by rw [hseqs]; rfl) ?_ (by rw [hport]; rfl) (by rw [hport]; rfl)
    (by rw [hpost.2 .ldr (by decide), hstate.2 .ldr (by decide)]; rfl) ?_ (by rw [portRetired_of_cel hcel]; rfl) ?_ rfl rfl rfl
  · rw [State.seq, hseqs]
    rfl
  · rw [portMode_of_regs (hpost.2 .regs (by decide)), hmode]
    exact portMode_drainBase
  · exact (ctx_of_mask hpost (by decide)).trans (ctx_of_mask hstate (by decide))

/-! ## The statement and the images -/

theorem ctx_fetchResumed (s : State) (n : Nat) : (fetchResumed s).ctx n = s.ctx n := (rfl)

/-- The rest of the activation leaves a failed command failed. -/
theorem activationDrainComplete_failed {s : State} {n : Nat} {b : Bool} {r : BootRec} (hact : s.hall.activating = some n) (hdrained : hallDrained s = true)
    (hrec : recNow s = some (b, r)) (hfailed : ReadFailed (portsLoaded (attempted s b r) (slotImage s r.active)) n) :
    ∃ t, exec .activationDrainComplete s = .next t ∧ ReadFailed t n := by
  have hmask : Mask 41008 (portsLoaded (attempted s b r) (slotImage s r.active)) (imageRuns s b r) :=
    modScu_mask (by decide) (modClo_mask (by decide) (startSupervisor_mask (by decide) (mask_refl _ _)))
  have hruns : ReadFailed (fetchResumed (imageRuns s b r)) n := hfailed.of_ctx ((ctx_fetchResumed _ n).trans (ctx_of_mask hmask (by decide)))
  refine ⟨_, exec_activationDrainComplete hact hdrained hrec, ?_⟩
  generalize fetchResumed (imageRuns s b r) = u at hruns
  have hready : finishOk u n = u := by
    obtain ⟨c, hc, hends⟩ := Option.map_eq_some_iff.1 hruns
    exact finish_of_ready hc (Prod.mk.inj hends).1 0 0 0
  rw [hready]
  exact hruns.of_ctx (ctx_of_mask (μ := 4096) (stairChanged_mask (by decide) (mask_refl _ u)) (by decide))

theorem slotImage_drainState (l : List Nat) (vendor part : Nat) : slotImage (drainState l vendor part) 1 = Config.imageOf l := by
  rw [slotImage, slotLeaves_drainState]

/-- An image without a program for some bridge refutes the statement. -/
theorem not_firmware_of_unserved (hvendor : vendor < 65536) (hpart : part < 65536)
    (hnone : (Config.imageOf l).progs.find? (fun p => (p.vendor == 0xFFFF || p.vendor == vendor) && (p.part == 0xFFFF || p.part == part)) = none) :
    ¬ Obligations.Firmware := by
  intro h
  have hmask := mask_drainState l vendor part
  have hports := portsLoaded_drainState hvendor hpart hnone
  have hinv := inv_drainState l vendor part
  have hdrained := drained_drainState l vendor part
  have hrec := recNow_drainState l vendor part
  have himage := slotImage_drainState l vendor part
  have hhall : (drainState l vendor part).hall = drainBase.hall := hmask.2 .hall (by decide)
  have hpwr : (drainState l vendor part).pwr = drainBase.pwr := hmask.2 .pwr (by decide)
  generalize drainState l vendor part = s at hports hinv hdrained hrec himage hhall hpwr
  have hact : s.hall.activating = some 5 := congrArg Hall.activating hhall
  have hc : s.ctx 5 = some drainCtx := ctx_of_hall hhall
  have hworker : isWorker s = false := by
    rw [isWorker, hpwr]
    rfl
  have hsame : attempted s false drainRecord = s := if_neg fun h => absurd (Bool.and_eq_true_iff.1 h).1 (by decide)
  obtain ⟨t, hexec, hfailed⟩ := activationDrainComplete_failed hact hdrained hrec (by rw [hsame, show drainRecord.active = 1 from rfl, himage]; exact hports)
  obtain ⟨-, hcomplete, -⟩ := h s 5 0 0 0 0 [] false drainRecord drainCtx hinv
  obtain ⟨u, hexec', -, -, -, -, -, -, hended⟩ := hcomplete hact hdrained hrec hc rfl rfl hworker
  rw [hexec] at hexec'
  cases hexec'
  exact absurd (hfailed.symm.trans hended) (by decide)

theorem firmware_iff_imagesServe : Obligations.Firmware ↔ ImagesServe := by
  refine ⟨fun h l vendor part hvendor hpart => ?_, firmware_of_imagesServe⟩
  refine Option.isSome_iff_ne_none.2 fun hnone => ?_
  exact not_firmware_of_unserved hvendor hpart hnone h

end Sys2Proof.Machine
end
